-- ==== Sys2Proof/Word.lean ====
section
/-!
DEFINITION. The word types of the HK4160: a register word of 32 bits, a double word of 64 bits and a
byte (R6, R552).
-/

namespace Sys2Proof

/-- One byte of a frame, a record, a message or host memory. -/
abbrev Byte := BitVec 8

/-- One 32-bit register word (R552). -/
abbrev Word := BitVec 32

/-- A 64-bit register value (R553). -/
abbrev DWord := BitVec 64

end Sys2Proof
end

