-- ==== Sys2Proof/Machine/Types.lean ====
section
/-!
DEFINITION. The types of command operands: who a register access comes from, what a flash burst
carries, and the other values that come in from outside the device.
-/

namespace Sys2Proof

/-- Where a register access comes from (R526, R527, R597): the host side, the management side, the
firmware of the application cores, the base camp core, a configuration record, or a slice of PF0. -/
inductive Origin
  | host | management | firmware | base | record
  | slice (k : Fin 256)
  deriving DecidableEq, Repr

/-- The flash areas that a burst can read (R47, R72, R81, R83). -/
inductive FlashArea
  | fwA | fwB | cfgA | cfgB
  /-- The chosen configuration image, read again by the apply pass. -/
  | apply
  deriving DecidableEq, Repr

/-- What the host writes of a function's MSI-X capability or table (R334): the enable and the function mask, or a table
entry. -/
inductive MsixWrite
  | control (enable functionMask : Bool)
  | entry (vector : Fin 2048) (addr : Nat) (data : Word) (masked : Bool)
  deriving DecidableEq, Repr

/-- What the host writes of a function's Device Control and Device Control 2 registers: the payload and read request sizes, as
powers of two above 128 B, the completion timeout range (0: the default; A to D), and its disable (R325). -/
structure DevWrite where
  payload : Fin 3
  readRequest : Fin 6
  timeoutRange : Fin 5
  timeoutOff : Bool
  deriving DecidableEq, Repr

end Sys2Proof
end

