-- ==== Sys2Proof/Syntax.lean ====
section
/-!
DEFINITION. The commands of the HK4160, one constructor for each row of the table of operations and
events (spec/opcode_table.json).  An operand carries what comes from outside with the command: who
writes, the value written, the bytes that arrive, the outcome of a test that the silicon makes.
-/

namespace Sys2Proof

/-- A command: an access of a register, an arrival at a port, or an event whose time has come. -/
inductive Instr
  /-- A filtered rise of PERST_N resets the device and begins step 1 of the start sequence. (R67) -/
  | perstNRise
  /-- A filtered fall of PERST_N abandons any running start sequence and keeps nothing from it. (R69) -/
  | perstNFall
  /-- A window of 8 CLK_AON samples of SCALE[1:0] ends; agreement sets the scale, and disagreement starts a new window. (R571) -/
  | strapSample (samples : List (BitVec 2))
  /-- Step 2 runs the base camp core logic self-test and the ROM checksum. (R67) -/
  | selfTest (logicOk romOk : Bool)
  /-- Step 3 reads the fuses, checks the row CRCs and loads the DUK into the IGE register. (R89) -/
  | fuseRead (rowsOk : Bool)
  /-- Step 4 tests every SRAM bank and assigns the reserves; on a wake it also runs the retention check. (R67) -/
  | bankTest (general table packet cxe ueTable ueCxe ceTable ceCxe : BitVec 17)
  /-- Step 5 discovers the flash through SFDP and switches it to 8D-8D-8D. (R71) -/
  | sfdpDiscovery (signature octal : Bool) (maxMhz capacity : Nat)
  /-- Step 6 reads and checks both flash header copies and selects the governing copy. (R73) -/
  | flashHeaderCheck (copy0 copy1 : List Byte)
  /-- Step 7 runs the install checks on a pending staged image, then seals and programs it into the target slot. (R84) -/
  | install (envelope image slotA slotB readBack : List Byte)
  /-- Step 8 reads the four slot headers and judges their soundness. (R75) -/
  | slotHeaderRead (fwA fwB cfgA cfgB : List Byte)
  /-- A 4 KB flash burst arrives and its data feeds the CRC, the seal computation, the load or the record decoder. (R47) -/
  | flashBurst (area : FlashArea) (data : List Byte)
  /-- Step 9 chooses, loads and checks a firmware image and applies the outcome table of R79. (R78) -/
  | firmwareChoice
  /-- Step 10 chooses a configuration image and tests it structurally and for trust. (R45) -/
  | configCheckPass
  /-- Step 11 locks the keys where needed, writes the boot vectors and BOOT_RELEASE, and starts the apply pass. (R93) -/
  | coreRelease
  /-- The start watchdog expires before step 11 and the device halts with code 0xF. (R70) -/
  | startWatchdogExpiry
  /-- A PAD record is read and ignored. (R42) -/
  | recordPad
  /-- An INTENT record writes its offset and value pairs into the basic area of its unit. (R42) -/
  | recordIntent
  /-- An EXPERT record sets UNIT_CTRL.EXPERT and writes its pairs into the expert area. (R42) -/
  | recordExpert
  /-- An ARRAY record writes data into the array area from its start offset, or is skipped into retained banks. (R42) -/
  | recordArray
  /-- A READY record takes effect and the unit goes READY, HELD, LOST or stays held for its prerequisites. (R48) -/
  | recordReady
  /-- A PAD_SLEW record sets the edge settings of the output groups. (R577) -/
  | recordPadSlew
  /-- The apply pass ends; held units go to ERROR and APPLY_DONE is raised. (R49) -/
  | applyPassEnd
  /-- A write to a register with no row of its own is taken whole or discarded whole under the access, apply, static and lead rules. (R592) -/
  | registerWrite (o : Origin) (a : Nat) (wide full : Bool) (v : DWord)
  /-- A written class L field comes into force after its stated count. (R57) -/
  | lFieldEffect (a : Nat)
  /-- A requested interface level is granted, clipped to IFV_MAX or raised to IFV_MIN with VALUE_REFUSED. (R63) -/
  | unitIfvReqWrite (o : Origin) (u : Fin 24) (level : BitVec 8)
  /-- UNIT_CTRL.RESET moves the unit to STARTING with cause UNIT_RESET and applies the unit's reset effects. (R594) -/
  | unitReset (o : Origin) (u : Fin 24)
  /-- UNIT_CTRL.GO runs the READY checks on a unit that is STARTING after a unit reset. (R60) -/
  | unitGo (o : Origin) (u : Fin 24)
  /-- A write of UNIT_CTRL.HOLD moves a unit between READY and HELD, or is stored for later. (R594) -/
  | unitHold (o : Origin) (u : Fin 24) (on : Bool)
  /-- A write of UNIT_CTRL.EXPERT freezes derived values, or clears the bit and re-derives them. (R54) -/
  | unitExpert (o : Origin) (u : Fin 24) (on : Bool)
  /-- A fuse command advances the firmware anti-rollback counter. (R90) -/
  | advanceFwEpoch (o : Origin) (confirm value : BitVec 8)
  /-- A fuse command advances the configuration anti-rollback counter. (R90) -/
  | advanceCfgEpoch (o : Origin) (confirm value : BitVec 8)
  /-- A fuse command revokes a vendor key. (R90) -/
  | revokeVendor (o : Origin) (confirm value : BitVec 8)
  /-- A fuse command revokes an owner key. (R90) -/
  | revokeOwner (o : Origin) (confirm value : BitVec 8)
  /-- A fuse command ends with its status. (R90) -/
  | fuseDone (ok : Bool)
  /-- A firmware write of BOOT_RELEASE starts the named cores from their boot vectors. (R95) -/
  | bootReleaseWrite (o : Origin) (mask : BitVec 26)
  /-- A released core fetches its first instruction. (R94) -/
  | coreFirstFetch (n : Fin 26)
  /-- A word written to CFG_STAGE_DATA enters the page buffer and advances the staging address. (R88) -/
  | stageDataWrite (o : Origin) (data : Word)
  /-- A staging command erases the 64 KB sector at OFFSET. (R88) -/
  | erase64k (o : Origin) (msg : Option (BitVec 4 × BitVec 8 × Word))
  /-- A staging command writes the install MARKER. (R88) -/
  | mark (o : Origin) (msg : Option (BitVec 4 × BitVec 8 × Word))
  /-- A staging command clears the install MARKER. (R88) -/
  | unmark (o : Origin) (msg : Option (BitVec 4 × BitVec 8 × Word))
  /-- A staging command programs the partly filled page buffer. (R88) -/
  | stageFlush (o : Origin) (msg : Option (BitVec 4 × BitVec 8 × Word))
  /-- A staging flash operation ends with its status. (R515) -/
  | stageDone (ok : Bool)
  /-- A write of TU_DOMAIN_STEP adds a signed step to a domain clock in one tick. (R99) -/
  | domainStep (o : Origin) (d : Fin 2) (v : DWord)
  /-- A REFRESH makes a domain VALID, restarts its watchdog count and may cause an automatic switch. (R104) -/
  | domainRefresh (o : Origin) (d : Fin 2)
  /-- An INVALIDATE makes a domain invalid and may cause an automatic switch. (R104) -/
  | domainInvalidate (o : Origin) (d : Fin 2)
  /-- A new TIMEOUT is judged against the count since the last REFRESH and may invalidate the domain. (R104) -/
  | watchdogTimeoutWrite (o : Origin) (d : Fin 2) (ms : BitVec 16)
  /-- A domain's watchdog count reaches its limit and the domain becomes invalid. (R104) -/
  | domainWatchdogExpiry (d : Fin 2)
  /-- A write of TU_CTRL.DOMAIN_SEL selects a domain after the automatic decision of its tick. (R105) -/
  | domainSelect (o : Origin) (d : Fin 2)
  /-- Line time has slewed to equal the selected domain and LOCKED goes to 1. (R102) -/
  | lineLocked
  /-- TU_CMD.ALIGN steps line time to the selected domain, or is refused. (R103) -/
  | align (o : Origin)
  /-- TU_CMD.SNAP latches line time, its stamp and both domains in one tick. (R108) -/
  | snap (o : Origin)
  /-- A write of TU_TXSTAMP_TAIL frees stamp ring entries or is refused. (R117) -/
  | txstampTailWrite (o : Origin) (v : Word)
  /-- Setting ENABLE arms a pulse output after checking PERIOD and WIDTH. (R126) -/
  | tpoArm (o : Origin) (n : Fin 8)
  /-- Clearing ENABLE drives the inactive level at once. (R127) -/
  | tpoStop (o : Origin) (n : Fin 8)
  /-- A pulse output places its leading edge at its line-time instant. (R125) -/
  | tpoLeadingEdge (n : Fin 8)
  /-- A pulse output places its trailing edge, and a ONCE output clears ENABLE. (R125) -/
  | tpoTrailingEdge (n : Fin 8)
  /-- At a rope boundary less LEAD, the time unit starts the rope's clocks. (R124) -/
  | prestart (r : Fin 16)
  /-- At an input deadline less LEAD, CLK_CXE and CLK_SYS are started. (R476) -/
  | prestartDeadline (r : Fin 16)
  /-- At a held timed write's placement time less LEAD, its clocks are started. (R476) -/
  | prestartPlacement
  /-- At a rope boundary's latch cycle the rope flips or goes stale, changes mode, snapshots masters and runs the MPI pass. (R139) -/
  | ropeBoundary (b : Nat) (bad : List Nat)
  /-- At B plus 552 cycles the CXE builds the rope's frames and hands them to the traffic manager. (R156) -/
  | frameBuild (r : Fin 16)
  /-- A rope's first frame reaches its port's launch comparator. (R121) -/
  | frameAtComparator (p r : Fin 16)
  /-- At the armed instant the comparator releases the frame to the balls and its egress stamp is taken. (R121) -/
  | frameLaunch (p r : Fin 16)
  /-- A write of CXE_ROPE_COMMIT makes a commit pending for a target cycle. (R140) -/
  | commit (o : Origin) (r : Fin 16) (target : BitVec 16)
  /-- A write of STOP to CXE_ROPE_CTRL makes the rope enter STOP at its next boundary. (R173) -/
  | ropeCtrlStop (o : Origin) (r : Fin 16)
  /-- A write of RESUME is accepted for a return to RUN at the next boundary, or refused. (R173) -/
  | resume (o : Origin) (r : Fin 16)
  /-- A host write of the image aperture lands in the buffer named by the station's select bit. (R142) -/
  | imageApertureWrite (o : Origin) (offset : Nat) (data : List Byte)
  /-- A steered cycle-frame or template reply reaches its CXE input lane. (R159) -/
  | replyFrameArrival (lane : Fin 2)
  /-- The lane takes one reply segment, checks it and writes it, discards it or rejects it. (R160) -/
  | replySegment (lane : Fin 2)
  /-- The input deadline latches and untaken reply segments and waiting frames are discarded. (R161) -/
  | inputDeadline (r : Fin 16)
  /-- The input image and status words flip, then mirror writes, the head record and the vector follow. (R144) -/
  | publish (r : Fin 16)
  /-- A write of STATUS.RECOVER re-arms recovery of a LOST station. (R165) -/
  | recover (o : Origin) (n : Fin 4096)
  /-- An axis register write is taken or discarded by the slice and lead rule and tested under R182. (R183) -/
  | axisWrite (o : Origin) (a : Fin 4096) (w : Fin 16) (v : Word)
  /-- A write to MPI_AXIS_RELEASE returns a held axis to profile at its next boundary, or is refused. (R208) -/
  | axisRelease (o : Origin) (a : Fin 4096)
  /-- A write of PUSH requests placement of the host slot into a master. (R186) -/
  | push (o : Origin) (k : Fin 16)
  /-- 16 cycles after PUSH the host slot is placed into the master slot. (R186) -/
  | hostSlotPlacement (k : Fin 16)
  /-- A generator places its sample locally at its placement time. (R195) -/
  | generatorPlacement (k : Fin 16)
  /-- At cycle 552 the generator hands its sample to SHX as a timed write on its export connection. (R195) -/
  | generatorExport
  /-- A write of VALID = 1 starts the check of a cam table. (R199) -/
  | camCheck (o : Origin) (k : Fin 256) (base : BitVec 19)
  /-- A cam table check ends and VALID is set or stays 0. (R199) -/
  | camChecked (k : Fin 256)
  /-- A write of VALID = 0 withdraws a cam table, or is refused while an axis uses it. (R200) -/
  | camWithdraw (o : Origin) (k : Fin 256) (base : BitVec 19)
  /-- A port presents a frame's header window; it waits or is dropped for want of room or share. (R220) -/
  | windowReady (role : Fin 4) (input : Fin 8) (frame : List Byte)
  /-- A frame's last byte enters the pipeline, ending its FCS and MACsec checks. (R220) -/
  | frameLastByte (role : Fin 4) (input : Fin 8) (fcsOk fecBad : Bool)
  /-- The pipeline takes a ready window in the input's slot and runs parse, key, hash, lookups, resolution and policing. (R221) -/
  | headIn (role : Fin 4) (input : Fin 8) (bad vbad : List (Nat × Nat)) (aclLate routeLate : Bool)
  /-- At ingress cycle 128 the result is passed on, steered to CXE or SHX, or sent toward the traffic manager. (R248) -/
  | classificationResult (role : Fin 4)
  /-- A recovery entry sees no passing frame for RESET ms and becomes FRESH. (R244) -/
  | seqReset (role : Fin 4) (i : Fin 1024)
  /-- A write to a pattern's CTRL word makes its fields take effect together at the next head in. (R232) -/
  | patternCtrlWrite (o : Origin) (role : Fin 4) (n : Fin 64) (v : Word)
  /-- An indirection entry write takes effect 4 CLK_PP cycles later. (R247) -/
  | indirectionWrite (o : Origin) (role : Fin 4) (j : Fin 2048) (v : BitVec 16)
  /-- A write of hash key word 9 makes the whole key take effect at the next head in. (R247) -/
  | hashKeyWord9Write (o : Origin) (role : Fin 4) (k : Fin 256) (v : Word)
  /-- A learn request that has waited for its frame's FCS runs in the insertion engine. (R265) -/
  | learnRequest (t : Fin 16) (bad : List Nat)
  /-- A move request rewrites DEST of a learned entry in one maintenance write. (R267) -/
  | moveRequest (t : Fin 16) (bad : List Nat)
  /-- EMT_CMD INSERT places an entry through the insertion engine. (R273) -/
  | emtCmdInsert (o : Origin) (t : Fin 16) (bad : List Nat)
  /-- EMT_CMD DELETE removes the entry with the given key. (R273) -/
  | emtCmdDelete (o : Origin) (t : Fin 16) (bad : List Nat)
  /-- EMT_CMD MODIFY replaces every non-key field of an entry. (R273) -/
  | emtCmdModify (o : Origin) (t : Fin 16) (bad : List Nat)
  /-- EMT_CMD LOOKUP returns an entry and its hit bit. (R273) -/
  | emtCmdLookup (o : Origin) (t : Fin 16) (bad : List Nat)
  /-- An EMT command ends, BUSY clears and STATUS is set. (R273) -/
  | emtCommandEnd
  /-- The age scanner visits a bucket, deleting idle learned entries and clearing hit bits. (R272) -/
  | ageVisit (t : Fin 16) (bad : List Nat)
  /-- A TAIL doorbell starts the device on the bucket images of a DMA table. (R275) -/
  | emtDmaDoorbell (o : Origin) (t : Fin 16) (tail : BitVec 16)
  /-- A fetched bucket image replaces its bucket, stops at an unlocked image, or is skipped. (R275) -/
  | emtDmaImage (t : Fin 16) (image : List Byte)
  /-- The shadow compare reads shadow items and repairs missing or differing entries. (R276) -/
  | shadowCompare (t : Fin 16) (item : List Byte) (bad : List Nat)
  /-- TCM_CMD WRITE writes an entry to the verify copy and then to each copy's update slot. (R285) -/
  | tcmCmdWrite (o : Origin) (p : Fin 8)
  /-- TCM_CMD INVALIDATE clears VALID of an entry in the same way. (R285) -/
  | tcmCmdInvalidate (o : Origin) (p : Fin 8)
  /-- TCM_CMD READ returns the verify copy of an entry. (R285) -/
  | tcmCmdRead (o : Origin) (p : Fin 8)
  /-- A copy's update slot performs a write, a repair, a rotation copy or a scrub of one row. (R283) -/
  | tcamUpdateSlot (p : Fin 8) (c : Fin 4) (differs bad : List Nat)
  /-- A frame is checked against FCS, queue, depth and yellow limit and enqueued or dropped. (R300) -/
  | tmEnqueue
  /-- A scheduling decision selects a port's next frame, which goes to egress or to a receive queue. (R308) -/
  | tmDecision (p : Fin 25)
  /-- A write of SWITCH arms the pending gate list bank, or is refused. (R312) -/
  | gclSwitchArm (o : Origin) (p : Fin 16)
  /-- The pending gate list takes effect at its line-time instant and the banks exchange roles. (R312) -/
  | gclSwitch (p : Fin 16)
  /-- A gate list entry's interval ends and the next entry comes into force. (R311) -/
  | gclEntryAdvance (p : Fin 16)
  /-- The 802.3br verify handshake ends, activating preemption or failing. (R317) -/
  | preemptVerifyEnd (p : Fin 16) (ok : Bool)
  /-- Every PERIOD the TM starts a sweep of all queues and writes the stamp. (R320) -/
  | sampleSweepStart
  /-- A queue sweep ends and TM_SAMPLE_SEQ increments. (R320) -/
  | sampleSweepEnd
  /-- Device-side PCIe link loss applies the drain rule to all PFs and every rope loses its host. (R339) -/
  | linkDown
  /-- The PCIe link returns to L0 and each PF starts as after a conventional reset. (R339) -/
  | linkUp (speed : BitVec 4) (width : BitVec 3) (flit : Bool) (l0p : BitVec 3)
  /-- A hot reset from the link acts as a link loss followed at once by link-up. (R339) -/
  | hotReset
  /-- A configuration write clears Bus Master Enable and HIF stops the PF's requests after 64 cycles. (R337) -/
  | bmeCleared (f : Fin 4)
  /-- Bus Master Enable is set again and HIF issues requests again. (R337) -/
  | bmeSet (f : Fin 4) (ats : Bool) (dev : DevWrite)
  /-- A Function Level Reset of a PF drains it, halts its slices' queues and resets its PCIe state. (R338) -/
  | flr (f : Fin 4)
  /-- The FLR ends at a device-chosen instant and outstanding read tags are retired. (R338) -/
  | flrDone (f : Fin 4)
  /-- A read receives no completion within the timeout and its queue halts. (R341) -/
  | completionTimeout (f : Fin 4) (i : Nat)
  /-- A poisoned completion or host write is received and discarded. (R341) -/
  | poisoned (f : Fin 4) (i : Option Nat)
  /-- A TLP fails its ECRC check and is discarded and logged. (R341) -/
  | ecrcFailure (f : Fin 4)
  /-- An unmasking write issues one message for each pending vector. (R334) -/
  | msixUnmask (f : Fin 4) (w : MsixWrite)
  /-- An ATS translation answer arrives and the waiting request resumes or its queue halts. (R342) -/
  | translationAnswer (f : Fin 4) (pasid : Option (BitVec 20)) (page : Nat) (grant : Option Nat)
  /-- An ATS invalidation request enters and invalidated entries are no longer used. (R343) -/
  | invalidationRequest (f : Fin 4) (tag : Nat) (pasid : Option (BitVec 20)) (page : Nat)
  /-- HIF sends the Invalidation Completion after its count. (R343) -/
  | invalidationCompletion (f : Fin 4)
  /-- BIND.ENABLE = 1 binds an unbound slice to a PF and PASID. (R347) -/
  | sliceBind (o : Origin) (k : Fin 256) (v : Word)
  /-- BIND.ENABLE = 0 unbinds a bound slice with no resource enabled. (R347) -/
  | sliceUnbind (o : Origin) (k : Fin 256) (v : Word)
  /-- FREEZE stops the slice's fetching and sending and moves it to FREEZING. (R348) -/
  | freeze (o : Origin) (k : Fin 256)
  /-- The freeze drain completes and the slice becomes FROZEN. (R348) -/
  | sliceFrozen (k : Fin 256)
  /-- FREEZE_LIMIT passes and the slice becomes FROZEN with in-doubt NVMe commands. (R348) -/
  | freezeLimitExpiry (k : Fin 256)
  /-- THAW returns the slice to BOUND and resumes its queues and connections. (R349) -/
  | thaw (o : Origin) (k : Fin 256)
  /-- SAVE writes the slice's state blob to BLOB_ADDR. (R351) -/
  | save (o : Origin) (k : Fin 256)
  /-- A save ends, STATUS and BLOB_LEN are set and the slice returns to FROZEN. (R351) -/
  | saveDone (k : Fin 256)
  /-- RESTORE begins reading and checking the blob. (R353) -/
  | restore (o : Origin) (k : Fin 256)
  /-- The restore ends, bringing resources up in FROZEN or leaving none enabled. (R353) -/
  | restoreDone (k : Fin 256) (blob : List Byte)
  /-- RELEASE disables every resource of a frozen slice at once. (R350) -/
  | sliceRelease (o : Origin) (k : Fin 256)
  /-- A write of HIF_SLICE_CFG.MODE switches between RUN and SERVICE. (R346) -/
  | sliceModeWrite (o : Origin) (v : Word)
  /-- A write of COUNT_LOG2 sets the slice count, or is refused while a slice is bound. (R344) -/
  | sliceCountWrite (o : Origin) (v : Word)
  /-- A route write is checked against the slice's shares when it takes effect. (R336) -/
  | eventRouteWrite (o : Origin) (e : Fin 384) (v : Word)
  /-- A routed event is written into its event queue and its vector is triggered. (R373) -/
  | eventRingWrite
  /-- A queue doorbell records an acceptable TAIL, starts fetching or moves the queue to ERROR. (R361) -/
  | queueDoorbell (o : Origin) (v : Word)
  /-- A descriptor read completes and each entry is checked in order. (R366) -/
  | descriptorCompletion (kind : Fin 5) (q : Fin 4096) (data : List Byte)
  /-- The last data of a transmit frame arrives and the frame goes to its TM queue or input HOST. (R370) -/
  | txDataCompletion (q : Fin 4096) (data : List Byte)
  /-- TIME microseconds pass since the first unreported entry and a head record falls due. (R363) -/
  | headRecordTimer (kind : Fin 6) (q : Fin 1048576)
  /-- ENABLE checks a disabled queue's context and starts it RUNNING. (R364) -/
  | queueEnable (o : Origin) (kind : Fin 5) (q : Fin 4096)
  /-- DISABLE stops a running queue's fetching and starts its drain. (R367) -/
  | queueDisable (o : Origin) (kind : Fin 5) (q : Fin 4096)
  /-- RESET starts the drain of a halted or errored queue. (R367) -/
  | queueReset (o : Origin) (kind : Fin 5) (q : Fin 4096)
  /-- A queue's drain ends and it enters DISABLED. (R367) -/
  | queueDrainEnd (kind : Fin 6) (q : Fin 1048576)
  /-- Slice-control QUEUE_SETUP writes a disabled queue's context. (R375) -/
  | scQueueSetup (k : Fin 256)
  /-- Slice-control QUEUE_ENABLE enables a queue of the slice. (R375) -/
  | scQueueEnable (k : Fin 256)
  /-- Slice-control QUEUE_DISABLE disables a queue of the slice. (R375) -/
  | scQueueDisable (k : Fin 256)
  /-- Slice-control QUEUE_RESET resets a queue of the slice. (R375) -/
  | scQueueReset (k : Fin 256)
  /-- Slice-control EMT_INSERT inserts an entry under the slice's quota. (R274) -/
  | emtInsert (k : Fin 256) (arg : List Byte) (bad : List Nat)
  /-- Slice-control EMT_DELETE deletes an entry that the slice owns. (R274) -/
  | emtDelete (k : Fin 256) (arg : List Byte) (bad : List Nat)
  /-- Slice-control EMT_MODIFY modifies an entry that the slice owns. (R274) -/
  | emtModify (k : Fin 256) (arg : List Byte) (bad : List Nat)
  /-- Slice-control EMT_LOOKUP returns an entry to the argument buffer. (R274) -/
  | emtLookup (k : Fin 256) (arg : List Byte) (bad : List Nat)
  /-- Slice-control TCAM_WRITE writes an ACL entry within the slice's range. (R375) -/
  | tcamWrite (k : Fin 256) (arg : List Byte)
  /-- Slice-control TCAM_INVALIDATE invalidates an entry within the slice's range. (R375) -/
  | tcamInvalidate (k : Fin 256)
  /-- Slice-control TCAM_READ returns an entry to the argument buffer. (R375) -/
  | tcamRead (k : Fin 256)
  /-- Slice-control INDIR_WRITE writes a run of indirection entries. (R375) -/
  | indirWrite (k : Fin 256) (arg : List Byte)
  /-- Slice-control HASH_KEY_WRITE loads the slice's 40 B hash key. (R375) -/
  | hashKeyWrite (k : Fin 256) (arg : List Byte)
  /-- CONN_SETUP writes a free connection's context and moves it to CLOSED. (R418) -/
  | connSetup (o : Origin) (arg : List Byte)
  /-- CONN_OPEN sends HELLO and moves a connection to CONNECTING. (R389) -/
  | connOpen (o : Origin)
  /-- CONN_CLOSE starts the drain that frees a connection. (R389) -/
  | connClose (o : Origin)
  /-- The drain ends and the connection becomes FREE. (R389) -/
  | connCloseEnd (c : Fin 1048576)
  /-- CONN_QUERY returns a connection's context. (R418) -/
  | connQuery (o : Origin)
  /-- REGION_REGISTER registers a region and returns its key. (R396) -/
  | regionRegister (o : Origin)
  /-- REGION_DEREGISTER clears VALID, advances GEN and discards held timed writes. (R398) -/
  | regionDeregister (o : Origin)
  /-- RING_CTL ENABLE enables a connection's send ring. (R399) -/
  | ringEnable (o : Origin)
  /-- RING_CTL DISABLE disables a connection's send ring. (R399) -/
  | ringDisable (o : Origin)
  /-- RING_CTL RESET resets a connection's send ring. (R399) -/
  | ringReset (o : Origin)
  /-- A Shardo doorbell records the send ring's TAIL and starts a context lookup. (R399) -/
  | shardoDoorbell (k : Fin 256) (v : BitVec 64)
  /-- A send entry's fetch completes, it is checked and its source data read starts. (R400) -/
  | sendEntryFetched (c : Fin 1048576) (data : List Byte)
  /-- Source data arrives and the packet is built and presented to the TM. (R421) -/
  | sendDataCompletion (c : Fin 1048576) (data : List Byte)
  /-- A paced packet is sent no earlier than its rate allows. (R414) -/
  | packetSend (c : Fin 1048576)
  /-- An arriving WRITE packet is checked and placed, or answered with NAK, RESYNC or NOT_READY. (R403) -/
  | write
  /-- An arriving READ_REQ is checked and its region read is issued in order. (R408) -/
  | readReq
  /-- An arriving READ_RESP is placed at the requester's local address. (R408) -/
  | readResp
  /-- An arriving ACK acknowledges PSNs, updates the congestion estimate and may complete entries. (R405) -/
  | ack
  /-- An arriving NAK causes a go-back or, when fatal, moves the connection to FAILED. (R406) -/
  | nak
  /-- An arriving FLUSH waits for earlier writes to be placed and starts the read-back. (R407) -/
  | flush
  /-- An arriving FLUSH_ACK completes the flush entries it acknowledges. (R402) -/
  | flushAck
  /-- An arriving TIMED_WRITE is placed at once, held, or refused for horizon or buffer. (R409) -/
  | timedWrite
  /-- An arriving HELLO opens or moves a matching connection and may be answered. (R390) -/
  | hello
  /-- An arriving RESYNC with the current epoch moves the connection to FAILED. (R392) -/
  | resync
  /-- An arriving NOT_READY pauses sending on the connection for CODE microseconds. (R395) -/
  | notReady
  /-- A context or region fetch completes and parked packets or a waiting doorbell resume. (R394) -/
  | contextFetchComplete (region : Bool) (i : Fin 1048576)
  /-- The flush read-back completes and FLUSH_ACK is sent, or a block-target notice is written. (R407) -/
  | flushReadbackComplete (c : Fin 1048576)
  /-- A region read completes and one READ_RESP is sent. (R408) -/
  | regionReadComplete (c : Fin 1048576) (data : List Byte)
  /-- The retransmission timer expires, doubling RTO and going back, or failing the connection. (R406) -/
  | retransmitTimerExpiry (c : Fin 1048576)
  /-- In CONNECTING a HELLO is resent every RTO until HELLO_LIMIT fails the connection. (R389) -/
  | helloRetry (c : Fin 1048576)
  /-- A NOT_READY pause ends and the sender goes back to the named PSN. (R395) -/
  | backoffEnd (c : Fin 1048576)
  /-- SHX_TW.RETRY passes after a TIMED_FULL and the sender goes back. (R406) -/
  | timedFullWaitEnd (c : Fin 1048576)
  /-- ACK_TIME passes since the first unacknowledged acceptance and an ACK is sent. (R405) -/
  | ackTimer (c : Fin 1048576)
  /-- INC_TIME or INC_BYTES is reached and the rate grows when no mark arrived. (R414) -/
  | growthEvent (c : Fin 1048576)
  /-- An ALPHA_TIME interval passes without marks and ALPHA decays. (R414) -/
  | alphaDecay (c : Fin 1048576)
  /-- A held timed write is placed into host memory or an MPI slot at its time. (R411) -/
  | timedWritePlacement
  /-- An NVMe submission queue tail doorbell starts entry fetches. (R443) -/
  | sqTailDoorbell (q : Fin 1025) (v : BitVec 16)
  /-- A completion queue head doorbell frees room and held completions are written. (R437) -/
  | cqHeadDoorbell (q : Fin 1025) (v : BitVec 16)
  /-- A Write command takes a range lock and becomes WRITE packets on its extents. (R430) -/
  | nvmeWrite (q : Fin 1025) (e : List Byte)
  /-- A Read command takes a range lock and becomes READ_REQ operations. (R430) -/
  | nvmeRead (q : Fin 1025) (e : List Byte)
  /-- A Write Zeroes command becomes WRITE packets of zeros. (R430) -/
  | nvmeWriteZeroes (q : Fin 1025) (e : List Byte)
  /-- A Flush command issues one FLUSH per connection after earlier writes. (R431) -/
  | nvmeFlush (q : Fin 1025) (e : List Byte)
  /-- A stalled command proceeds when the last overlapping range-lock entry is freed. (R433) -/
  | lockGranted
  /-- PRP or data reads complete and packets enter SHX. (R443) -/
  | nvmeDataCompletion (i : Nat) (data : List Byte) (bad : Bool)
  /-- An Abort catches a command not yet at the fabric or lets it run. (R435) -/
  | abort (e : List Byte)
  /-- Create I/O Submission Queue checks ownership and creates the queue. (R427) -/
  | createIoSq (e : List Byte)
  /-- Create I/O Completion Queue checks the vector and creates the queue. (R427) -/
  | createIoCq (e : List Byte)
  /-- Delete I/O Submission Queue deletes a queue. (R424) -/
  | deleteIoSq (e : List Byte)
  /-- Delete I/O Completion Queue deletes a queue. (R424) -/
  | deleteIoCq (e : List Byte)
  /-- Identify returns the data of a supported CNS. (R424) -/
  | identify (e : List Byte)
  /-- Get Log Page returns the Error Information or SMART log. (R424) -/
  | getLogPage (e : List Byte) (temp : BitVec 16)
  /-- Set Features sets a supported feature. (R424) -/
  | setFeatures (e : List Byte)
  /-- Get Features returns a supported feature. (R424) -/
  | getFeatures (e : List Byte)
  /-- An Asynchronous Event Request is held until an event is sent. (R424) -/
  | asyncEventRequest (e : List Byte)
  /-- CC.EN = 1 enables the NVMe controller and CSTS.RDY is set. (R426) -/
  | controllerEnable (cc aqa : Word) (asq acq : DWord)
  /-- CC.EN = 0 resets the controller and deletes every I/O queue. (R438) -/
  | controllerReset
  /-- A write of NVF_NS ENABLE checks the extents and changes the namespace's state. (R428) -/
  | namespaceEnable (o : Origin) (n : Fin 1024) (v : Word)
  /-- A DONE write from the storage service releases FLUSH_ACKs for earlier notices. (R439) -/
  | targetDone (o : Origin) (v : BitVec 16)
  /-- At a rope publish the recorder takes a lock and copies a record toward SHX, or skips. (R441) -/
  | recordStart (r : Fin 16)
  /-- An integrity doorbell records a request queue's TAIL and starts fetching. (R457) -/
  | integrityDoorbell (o : Origin) (v : Word)
  /-- A lookaside request generates a CMAC tag. (R458) -/
  | cmacGen (q : Fin 64) (data : List Byte) (lost : Bool)
  /-- A lookaside request verifies a CMAC tag. (R458) -/
  | cmacVerify (q : Fin 64) (data : List Byte) (lost : Bool)
  /-- A lookaside request generates a GMAC tag. (R458) -/
  | gmacGen (q : Fin 64) (data : List Byte) (lost : Bool)
  /-- A lookaside request verifies a GMAC tag. (R458) -/
  | gmacVerify (q : Fin 64) (data : List Byte) (lost : Bool)
  /-- A message in an integrity lane completes its tag or verdict after its fixed count. (R451) -/
  | laneMessageDone (q : Fin 64)
  /-- KEY_LOAD loads a HOST key slot and computes its subkeys. (R467) -/
  | keyLoad (o : Origin) (arg : List Byte) (bad : Bool)
  /-- KEY_DERIVE makes a DERIVED slot from the DUK and a context, or ends with KEY_LOCKED. (R454) -/
  | keyDerive (o : Origin) (bad : Bool)
  /-- KEY_CLEAR empties a key slot. (R467) -/
  | keyClear (o : Origin)
  /-- The entropy source fails its health test and the engine falls back to fixed placement. (R449) -/
  | rngFault
  /-- A power request for SUMMIT runs, queues, or wakes from Bivouac. (R485) -/
  | powerSummit (o : Origin) (msg : Option (BitVec 4 × BitVec 8))
  /-- A power request for CAMP runs, queues, or wakes from Bivouac. (R485) -/
  | powerCamp (o : Origin) (msg : Option (BitVec 4 × BitVec 8))
  /-- A power request for Bivouac is refused while ropes run, or begins the entry. (R479) -/
  | powerBivouac (o : Origin) (msg : Option (BitVec 4 × BitVec 8))
  /-- A power transition ends and the pending request runs or is discarded. (R485) -/
  | powerState
  /-- The last PF enters D3hot and, with D3_BIVOUAC, requests Bivouac. (R480) -/
  | d3hotEntry (f : Fin 4)
  /-- The ball of a wake comparator has stood at a voltage in mV for a number of CLK_AON cycles: beyond its threshold for DEBOUNCE cycles, it trips. (R481) -/
  | wakeTrip (i : Fin 2) (mv : BitVec 12) (cycles : BitVec 16)
  /-- The unretained domains finish powering up and the start sequence begins. (R483) -/
  | wakePowerUp
  /-- A gatable clock's units stay idle for PWR_GATE.IDLE cycles and Camp stops it. (R474) -/
  | clockStop (c : Fin 55)
  /-- A PWR_SPREAD write is accepted or refused. (R478) -/
  | spreadWrite (o : Origin) (v : Word)
  /-- At the next modulation period start a PLL takes the new spread setting. (R477) -/
  | spreadChange (c : Fin 10)
  /-- VDD_AON stays below 0.70 V for 1 us and the device enters Off. (R581) -/
  | aonBrownout
  /-- A member falls due for rotation and its handover placement or test begins. (R494) -/
  | rotationDue (kind : Fin 9) (m : Fin 26)
  /-- A pipeline handover pause begins and head in stops on the role's inputs. (R497) -/
  | handoverPauseStart (role : Fin 4)
  /-- The pause ends and the new pipeline takes head in. (R497) -/
  | handoverPauseEnd (role : Fin 4)
  /-- The yield limit passes without a CORE_YIELD and the handover is deferred. (R496) -/
  | yieldLimitExpiry
  /-- CORE_YIELD hands the due core to test. (R496) -/
  | coreYield (o : Origin) (core : Fin 26)
  /-- ROTATE_NOW rotates a member at once under the placement rule. (R502) -/
  | rotateNow (o : Origin) (kind : BitVec 4) (member : BitVec 5)
  /-- FW_REPLACE runs steps 6 to 9 of the start sequence without a restart. (R508) -/
  | fwReplace (o : Origin)
  /-- A firmware replacement ends with its status and entry address. (R509) -/
  | fwReplaced
  /-- A member's rotation test ends and it becomes a reserve or is retired. (R495) -/
  | memberTestEnd (kind : Fin 9) (pass : Bool)
  /-- A bank copy ends and the reserve takes the bank's addresses. (R501) -/
  | bankCopyEnd (kind : Fin 9)
  /-- Scrub visits a 64 B word of a bank and handles any ECC error. (R503) -/
  | scrubVisit (kind : Fin 9) (bank : Fin 17) (first : Bool) (error : Fin 3) (owner : Fin 24)
  /-- A core takes an uncorrectable cache error or machine check. (R515) -/
  | coreFault (n : Fin 26)
  /-- Naonant GET_VERSION returns the served versions. (R521) -/
  | getVersion (m : BitVec 4 × BitVec 8)
  /-- Naonant REG_READ returns consecutive register values of a unit. (R523) -/
  | regRead (m : BitVec 4 × BitVec 8) (unit width : BitVec 8) (count : BitVec 16) (offset : Word)
  /-- Naonant REG_WRITE writes a register under the unit's rules and answers the final status. (R523) -/
  | regWrite (m : BitVec 4 × BitVec 8) (unit width : BitVec 8) (offset : Word) (value : DWord)
  /-- A CLAIM of the lead is granted, renews, or is refused. (R529) -/
  | leadClaim (o : Origin) (lease : BitVec 14) (msg : Option (BitVec 4 × BitVec 8)) (other : Option (BitVec 2 × BitVec 14))
  /-- A RENEW restarts the holder's lease or gives NOT_HOLDER. (R529) -/
  | leadRenew (o : Origin) (lease : BitVec 14) (msg : Option (BitVec 4 × BitVec 8))
  /-- A RELEASE from the holder sets the holder to NONE. (R529) -/
  | leadRelease (o : Origin) (msg : Option (BitVec 4 × BitVec 8))
  /-- A LEAD QUERY returns SYS_LEAD and SYS_LEAD_RESULT. (R521) -/
  | leadQuery (m : BitVec 4 × BitVec 8)
  /-- A lease count reaches zero and the lead falls to NONE. (R529) -/
  | leaseLapsed
  /-- A Naonant RESTART reruns the start sequence from step 1. (R535) -/
  | restart (m : BitVec 4 × BitVec 8) (confirm : Word)
  /-- MOMENT_READ returns the moment records of the named units. (R521) -/
  | momentRead (m : BitVec 4 × BitVec 8) (mask : Word)
  /-- STAGE_WRITE writes data into the staging area as CFG_STAGE_ADDR and data writes. (R521) -/
  | stageWrite (m : BitVec 4 × BitVec 8) (offset : Word) (data : List Byte)
  /-- TIME_READ returns line time, its stamp and TU_STATUS from one tick. (R521) -/
  | timeRead (m : BitVec 4 × BitVec 8)
  /-- ATTEST_KEY returns the attestation public key. (R533) -/
  | attestKey (m : BitVec 4 × BitVec 8) (key : Option (List Byte))
  /-- An event staged for the management side is sent as an EVENT message. (R531) -/
  | eventMessage (taken : Bool)
  /-- RETRY_MS passes and an untaken EVENT message is retried or discarded. (R531) -/
  | eventRetry (taken : Bool)
  /-- MCTP Set Endpoint ID assigns the device's endpoint ID. (R518) -/
  | setEndpointId (iid : BitVec 5) (src : BitVec 7) (eid : BitVec 8)
  /-- MCTP Get Endpoint ID returns the endpoint ID. (R518) -/
  | getEndpointId (iid : BitVec 5)
  /-- MCTP Get MCTP Version Support returns the supported versions. (R518) -/
  | getMctpVersionSupport (iid : BitVec 5) (type : BitVec 8)
  /-- MCTP Get Message Type Support returns the supported message types. (R518) -/
  | getMessageTypeSupport (iid : BitVec 5)
  /-- MCTP Get Vendor Defined Message Support returns the Naonant vendor support. (R518) -/
  | getVendorDefinedMessageSupport (iid : BitVec 5) (selector : BitVec 8)
  /-- An I3C controller assigns a dynamic address and the port switches to I3C mode. (R519) -/
  | i3cDynamicAddress (a : BitVec 7)
  /-- PLDM GetTID returns the terminus ID. (R532) -/
  | getTid (iid : BitVec 5)
  /-- PLDM GetPLDMVersion returns a type's version. (R532) -/
  | getPldmVersion (iid : BitVec 5) (type : BitVec 8)
  /-- PLDM GetPLDMTypes returns the supported types. (R532) -/
  | getPldmTypes (iid : BitVec 5)
  /-- PLDM GetPLDMCommands returns a type's commands. (R532) -/
  | getPldmCommands (iid : BitVec 5) (type : BitVec 8)
  /-- PLDM GetPDRRepositoryInfo returns repository information. (R532) -/
  | getPdrRepositoryInfo (iid : BitVec 5)
  /-- PLDM GetPDR returns a PDR. (R532) -/
  | getPdr (iid : BitVec 5)
  /-- PLDM GetSensorReading returns a numeric sensor reading. (R532) -/
  | getSensorReading (iid : BitVec 5) (sensor : BitVec 16) (reading : Word)
  /-- PLDM GetStateSensorReadings returns the power state or halt code. (R532) -/
  | getStateSensorReadings (iid : BitVec 5) (sensor : BitVec 16)
  /-- PLDM RequestUpdate starts a firmware update, refused without the lead. (R532) -/
  | requestUpdate (iid : BitVec 5)
  /-- PLDM PassComponentTable passes the update components. (R532) -/
  | passComponentTable (iid : BitVec 5) (last : Bool)
  /-- PLDM UpdateComponent starts the transfer of a component. (R532) -/
  | updateComponent (iid : BitVec 5) (component : BitVec 16) (size : Word)
  /-- The device pulls component data with RequestFirmwareData and stages it. (R532) -/
  | requestFirmwareData (data : List Byte)
  /-- The device reports the end of the component transfer. (R532) -/
  | transferComplete
  /-- The device reports checks 1 to 3 of R84 on the staged data. (R532) -/
  | verifyComplete (envelope image : List Byte)
  /-- The device reports success once MARKER is written. (R532) -/
  | applyComplete
  /-- PLDM ActivateFirmware is answered and the image installs at the next start. (R532) -/
  | activateFirmware (iid : BitVec 5)
  /-- PLDM GetStatus returns the update status. (R532) -/
  | getStatus (iid : BitVec 5)
  /-- PLDM CancelUpdate ends the update and keeps the staging area. (R532) -/
  | cancelUpdate (iid : BitVec 5)
  /-- SPDM GET_VERSION returns the supported SPDM version. (R533) -/
  | spdmGetVersion
  /-- SPDM GET_CAPABILITIES returns the responder capabilities. (R533) -/
  | getCapabilities
  /-- SPDM NEGOTIATE_ALGORITHMS selects ECDSA P-384 with SHA-384. (R533) -/
  | negotiateAlgorithms
  /-- SPDM CHALLENGE is answered by firmware, or with ERROR when keys are locked or busy. (R534) -/
  | challenge (req : List Byte) (answer : Option (List Byte))
  /-- SPDM GET_MEASUREMENTS returns signed measurements, or ERROR. (R534) -/
  | getMeasurements (req : List Byte) (answer : Option (List Byte))
  /-- A port's PCS lock, with auto-negotiation where enabled, holds for 1 ms and LINK rises. (R583) -/
  | portUp (p : Fin 25)
  /-- A port's PCS loses lock, or ENABLE takes effect as 0, and LINK falls. (R583) -/
  | portDown (p : Fin 25)
  /-- Auto-negotiation completes and AN_DONE is set. (R583) -/
  | autonegDone (p : Fin 16) (speed : BitVec 3)
  /-- JTAG_TRST_N resets the TAP. (R587) -/
  | jtagTrst
  /-- The TAP runs BYPASS. (R587) -/
  | bypass (tdi : List Bool)
  /-- The TAP returns IDCODE. (R587) -/
  | idcode
  /-- The TAP runs SAMPLE/PRELOAD on the boundary scan cells. (R587) -/
  | samplePreload (pins load : List Bool)
  /-- The TAP runs EXTEST and takes the balls from their functions. (R587) -/
  | extest (pins load : List Bool)
  /-- The TAP runs EXTEST_PULSE on the SerDes lanes. (R587) -/
  | extestPulse (pins load : List Bool)
  /-- The TAP runs EXTEST_TRAIN on the SerDes lanes. (R587) -/
  | extestTrain (pins load : List Bool)
  /-- The TAP runs CLAMP. (R587) -/
  | clamp (tdi : List Bool)
  /-- The TAP runs HIGHZ. (R587) -/
  | highz (tdi : List Bool)
  /-- On every 40 ns CLK_AON tick the timebase applies pending steps, advances both domains, applies the slew correction to line time and publishes it to the time shadows. (R101) -/
  | clkAonTick
  /-- The rails rise and VDD_AON enters its operating range, after which HALT_N and HALT_CODE drive and the device can leave Off. (R580) -/
  | powerUp
  /-- A port's PCS gains block lock, code-group sync or RS-FEC alignment lock, which starts the 1 ms count toward LINK. (R583) -/
  | pcsLock (p : Fin 25)
  /-- Auto-negotiation restarts on a port, clearing AN_DONE and restarting the 1 ms count toward LINK from its next completion. (R583) -/
  | autonegRestart (p : Fin 16)
  /-- The PCIe link enters Recovery for retraining without DL_Down, so HIF_LINK.UP reads 0 until the link returns to L0 with possibly new SPEED and WIDTH. (R356) -/
  | linkRetraining (done : Option (BitVec 4 × BitVec 3 × BitVec 3 × Bool))
  deriving DecidableEq, Repr

end Sys2Proof
end

