-- ==== Sys2Proof/Machine/Bits.lean ====
section
/-!
DEFINITION. Bytes, byte orders, signed numbers and the CRCs that the layouts of the spec use
(R38 CRC-32, R383 CRC-32C).
-/

namespace Sys2Proof.Machine

/-- The `n` low bytes of `v`, least significant first (multi-byte fields in device memory, registers
and host records are little-endian). -/
def leBytes : Nat → Nat → List Byte
  | 0, _ => []
  | n + 1, v => BitVec.ofNat 8 v :: leBytes n (v / 256)

/-- The `n` low bytes of `v`, most significant first (network byte order). -/
def beBytes (n v : Nat) : List Byte := (leBytes n v).reverse

/-- The number that bytes spell, least significant first. -/
def leNat : List Byte → Nat
  | [] => 0
  | b :: bs => b.toNat + 256 * leNat bs

/-- The number that bytes spell, most significant first. -/
def beNat (bs : List Byte) : Nat := leNat bs.reverse

/-- `n` bytes of `bs` from offset `o`; bytes beyond the end read 0. -/
def slice (bs : List Byte) (o n : Nat) : List Byte :=
  let t := (bs.drop o).take n
  t ++ List.replicate (n - t.length) 0

/-- The little-endian number of `n` bytes at offset `o`. -/
def leAt (bs : List Byte) (o n : Nat) : Nat := leNat (slice bs o n)

/-- The number of `n` bytes at offset `o` in network byte order. -/
def beAt (bs : List Byte) (o n : Nat) : Nat := beNat (slice bs o n)

/-- Bits `hi` down to `lo` of `v`. -/
def bits (v hi lo : Nat) : Nat := v / 2 ^ lo % 2 ^ (hi + 1 - lo)

/-- Bit `i` of `v`. -/
def bit (v i : Nat) : Bool := v / 2 ^ i % 2 == 1

/-- `v` read as a signed number of `w` bits. -/
def toSigned (w v : Nat) : Int :=
  let u := v % 2 ^ w
  if u < 2 ^ (w - 1) then (u : Int) else (u : Int) - (2 ^ w : Nat)

/-- The `w`-bit two's complement of `z`. -/
def ofSigned (w : Nat) (z : Int) : Nat := (z % ((2 ^ w : Nat) : Int)).toNat

/-- `z` limited to the signed numbers of `w` bits. -/
def saturate (w : Nat) (z : Int) : Int :=
  let m : Int := (2 ^ (w - 1) : Nat)
  if z < -m then -m else if m - 1 < z then m - 1 else z

/-- One bit step of a reflected CRC with polynomial `p`. -/
def crcBit (p c : Nat) : Nat := if c % 2 = 1 then c / 2 ^^^ p else c / 2

/-- One byte step of a reflected CRC. -/
def crcByte (p c b : Nat) : Nat :=
  crcBit p (crcBit p (crcBit p (crcBit p (crcBit p (crcBit p (crcBit p (crcBit p (c ^^^ b))))))))

/-- The remainder after some bytes; each byte's is a numeral before the next one begins. -/
def crcList (p : Nat) : Nat → List Byte → Nat
  | c, [] => c
  | c, b :: bs => match crcByte p c b.toNat with
      | 0 => crcList p 0 bs
      | n + 1 => crcList p (n + 1) bs

/-- A reflected CRC-32 of bytes from a start value, with the final complement. -/
def crcFrom (p ini : BitVec 32) (bs : List Byte) : Nat := 0xFFFFFFFF ^^^ crcList p.toNat ini.toNat bs

/-- CRC-32 with the IEEE 802.3 polynomial and start value `ini` (R255). -/
def crc32From (ini : BitVec 32) (bs : List Byte) : Nat := crcFrom 0xEDB88320#32 ini bs

/-- CRC-32C, the Castagnoli polynomial, with start value `ini` (R255). -/
def crc32cFrom (ini : BitVec 32) (bs : List Byte) : Nat := crcFrom 0x82F63B78#32 ini bs

/-- CRC-32 with the IEEE 802.3 polynomial (R38, R72, R352). -/
def crc32 (bs : List Byte) : Nat := crc32From 0xFFFFFFFF#32 bs

/-- CRC-32C (R383). -/
def crc32c (bs : List Byte) : Nat := crc32cFrom 0xFFFFFFFF#32 bs

/-- CRC-64 with the ECMA-182 polynomial, start value and final XOR all ones (R479). -/
def crc64 (bs : List Byte) : Nat := 0xFFFFFFFFFFFFFFFF ^^^ crcList 0xC96C5795D7870F42 0xFFFFFFFFFFFFFFFF bs

/-- True when every byte is 0. -/
def allZero (bs : List Byte) : Bool := bs.all (· == 0)

end Sys2Proof.Machine
end

