-- ==== Sys2Proof/Machine/Crypto.lean ====
section
/-!
DEFINITION. The ciphers that the spec names by their standards: AES and its CMAC (R76, NIST SP
800-38B), GMAC (R448, NIST SP 800-38D), SHA-384 (R84, FIPS 180-4) and the verification of ECDSA P-384
signatures (R74, R84).
-/

namespace Sys2Proof.Machine

/-! ## AES -/

/-- Multiplication by x in GF(2^8) with the AES polynomial. -/
def xtime (a : Byte) : Byte := (a <<< 1) ^^^ (if a.getLsbD 7 then 0x1B#8 else 0#8)

/-- The product of `a` with the `n` low bits of `b` in GF(2^8). -/
def gfMulN : Nat → Byte → Byte → Byte
  | 0, _, _ => 0
  | n + 1, a, b => (if b.getLsbD 0 then a else 0) ^^^ gfMulN n (xtime a) (b >>> 1)

/-- The product in GF(2^8). -/
def gfMul (a b : Byte) : Byte := gfMulN 8 a b

/-- The inverse in GF(2^8), as the 254th power; 0 for 0. -/
def gfInv (a : Byte) : Byte :=
  let a2 := gfMul a a
  let a4 := gfMul a2 a2
  let a8 := gfMul a4 a4
  let a16 := gfMul a8 a8
  let a32 := gfMul a16 a16
  let a64 := gfMul a32 a32
  let a128 := gfMul a64 a64
  gfMul a2 (gfMul a4 (gfMul a8 (gfMul a16 (gfMul a32 (gfMul a64 a128)))))

/-- The AES S-box. -/
def sbox (a : Byte) : Byte :=
  let v := gfInv a
  v ^^^ v.rotateLeft 1 ^^^ v.rotateLeft 2 ^^^ v.rotateLeft 3 ^^^ v.rotateLeft 4 ^^^ 0x63#8

/-- Byte-wise exclusive or. -/
def xorBytes (a b : List Byte) : List Byte := List.zipWith (· ^^^ ·) a b

/-- One word of the AES key schedule: `ws` holds the words so far, the last first. -/
def keyWord (nk : Nat) (ws : List (List Byte)) (i : Nat) (rc : Byte) : List Byte :=
  let t := ws.headD []
  let p := ws.getD (nk - 1) []
  let t1 :=
    if i % nk = 0 then
      let r := (t.rotateLeft 1).map sbox
      xorBytes r [rc, 0, 0, 0]
    else if nk = 8 ∧ i % nk = 4 then t.map sbox else t
  xorBytes p t1

/-- `n` more words of the key schedule from word `i`. -/
def keyWords (nk : Nat) : Nat → Nat → Byte → List (List Byte) → List (List Byte)
  | 0, _, _, ws => ws
  | n + 1, i, rc, ws =>
      keyWords nk n (i + 1) (if i % nk = 0 then xtime rc else rc) (keyWord nk ws i rc :: ws)

/-- The bytes in groups of `k`, `n` groups. -/
def groups (k : Nat) : Nat → List Byte → List (List Byte)
  | 0, _ => []
  | n + 1, bs => bs.take k :: groups k n (bs.drop k)

/-- The round keys of a key of 16 or 32 bytes, 16 bytes each. -/
def aesRoundKeys (key : List Byte) : List (List Byte) :=
  let nk := key.length / 4
  let rounds := nk + 6
  let ws := (keyWords nk (4 * (rounds + 1) - nk) nk 1#8 (groups 4 nk key).reverse).reverse
  groups 16 (rounds + 1) ws.flatten

/-- AES ShiftRows on the column-major block. -/
def shiftRows (b : List Byte) : List Byte :=
  [0, 5, 10, 15, 4, 9, 14, 3, 8, 13, 2, 7, 12, 1, 6, 11].map (fun i => b.getD i 0)

/-- AES MixColumns on one column. -/
def mixColumn (c : List Byte) : List Byte :=
  let a := c.getD 0 0
  let b := c.getD 1 0
  let d := c.getD 2 0
  let e := c.getD 3 0
  [xtime a ^^^ (xtime b ^^^ b) ^^^ d ^^^ e, a ^^^ xtime b ^^^ (xtime d ^^^ d) ^^^ e,
   a ^^^ b ^^^ xtime d ^^^ (xtime e ^^^ e), (xtime a ^^^ a) ^^^ b ^^^ d ^^^ xtime e]

/-- The rounds of AES after the first key addition; the last round has no MixColumns. -/
def aesRounds : List (List Byte) → List Byte → List Byte
  | [], b => b
  | [k], b => xorBytes (shiftRows (b.map sbox)) k
  | k :: ks, b =>
      aesRounds ks (xorBytes ((groups 4 4 (shiftRows (b.map sbox))).map mixColumn).flatten k)

/-- AES of one 16-byte block under a key of 16 or 32 bytes. -/
def aesBlock (key block : List Byte) : List Byte :=
  match aesRoundKeys key with
  | [] => block
  | k :: ks => aesRounds ks (xorBytes block k)

/-- Doubling in GF(2^128) for the CMAC subkeys. -/
def cmacDouble (b : List Byte) : List Byte :=
  let v := beNat b
  beBytes 16 ((2 * v) % 2 ^ 128 ^^^ (if v / 2 ^ 127 = 1 then 0x87 else 0))

/-- The CMAC chain over whole blocks. -/
def cmacChain (key : List Byte) : List (List Byte) → List Byte → List Byte
  | [], x => x
  | b :: bs, x => cmacChain key bs (aesBlock key (xorBytes x b))

/-- AES-CMAC of a message (NIST SP 800-38B). -/
def aesCmac (key msg : List Byte) : List Byte :=
  let k1 := cmacDouble (aesBlock key (List.replicate 16 0))
  let k2 := cmacDouble k1
  let n := max 1 ((msg.length + 15) / 16)
  let lastB := msg.drop (16 * (n - 1))
  let final :=
    if lastB.length = 16 then xorBytes lastB k1
    else xorBytes (lastB ++ 0x80#8 :: List.replicate (15 - lastB.length) 0) k2
  aesBlock key (xorBytes (cmacChain key (groups 16 (n - 1) msg) (List.replicate 16 0)) final)

/-! ## GMAC -/

/-- The product in GF(2^128) of GHASH over the `n` bits of `x` from the most significant down. -/
def ghashMulN : Nat → BitVec 128 → BitVec 128 → BitVec 128 → BitVec 128
  | 0, _, _, z => z
  | n + 1, x, v, z =>
      ghashMulN n x ((v >>> 1) ^^^ (if v.getLsbD 0 then 0xE1000000000000000000000000000000#128 else 0))
        (if x.getLsbD n then z ^^^ v else z)

/-- The GHASH product. -/
def ghashMul (x y : BitVec 128) : BitVec 128 := ghashMulN 128 x y 0

/-- GHASH over whole 16-byte blocks. -/
def ghash (h : BitVec 128) : List (List Byte) → BitVec 128 → BitVec 128
  | [], y => y
  | b :: bs, y => ghash h bs (ghashMul (y ^^^ BitVec.ofNat 128 (beNat b)) h)

/-- AES-GMAC of a message under a 12-byte nonce (NIST SP 800-38D). -/
def aesGmac (key nonce msg : List Byte) : List Byte :=
  let h := BitVec.ofNat 128 (beNat (aesBlock key (List.replicate 16 0)))
  let n := (msg.length + 15) / 16
  let padded := msg ++ List.replicate (16 * n - msg.length) 0
  let s := ghash h (groups 16 n padded ++ [beBytes 8 (8 * msg.length) ++ beBytes 8 0]) 0
  xorBytes (beBytes 16 s.toNat) (aesBlock key (nonce ++ [0, 0, 0, 1]))

/-! ## SHA-384 -/

/-- The `k`-th root of `n` rounded down, bit by bit from bit `b - 1` on top of `r`. -/
def rootFrom (k n : Nat) : Nat → Nat → Nat
  | 0, r => r
  | b + 1, r => rootFrom k n b (if (r + 2 ^ b) ^ k ≤ n then r + 2 ^ b else r)

/-- The first 64 bits of the fractional part of the `k`-th root of `p` (FIPS 180-4, sections 4.2.3 and 5.3.4). -/
def rootFraction (k p : Nat) : BitVec 64 := BitVec.ofNat 64 (rootFrom k (p * 2 ^ (64 * k)) 70 0)

/-- The primes up to 409, which is the eightieth. -/
def primes : List Nat := (List.range 410).filter fun p => decide (2 ≤ p) && (List.range p).all fun d => decide (d < 2) || p % d != 0

/-- The round constants: cube roots of the first 80 primes. -/
def shaConst : List (BitVec 64) := primes.map (rootFraction 3)

/-- The start value: square roots of the ninth to the sixteenth prime. -/
def shaStart : List (BitVec 64) := ((primes.drop 8).take 8).map (rootFraction 2)

/-- Three turns of a word to the right, added without carry. -/
def turns (x : BitVec 64) (i j k : Nat) : BitVec 64 := x.rotateRight i ^^^ x.rotateRight j ^^^ x.rotateRight k

/-- Two turns and a shift of a word to the right, added without carry. -/
def turnsShift (x : BitVec 64) (i j k : Nat) : BitVec 64 := x.rotateRight i ^^^ x.rotateRight j ^^^ (x >>> k)

/-- One round with its constant `c`, on the next sixteen words of the message schedule and the eight working words. -/
def shaStep (x : List (BitVec 64) × List (BitVec 64)) (c : BitVec 64) : List (BitVec 64) × List (BitVec 64) :=
  let w := (x.1.getD · 0)
  let v := (x.2.getD · 0)
  let choice := v 6 ^^^ (v 4 &&& (v 5 ^^^ v 6))
  let majority := (v 0 &&& (v 1 ||| v 2)) ||| (v 1 &&& v 2)
  let t := w 0 + c + choice + v 7 + turns (v 4) 14 18 41
  (x.1.drop 1 ++ [turnsShift (w 14) 19 61 6 + w 9 + turnsShift (w 1) 1 8 7 + w 0],
   (turns (v 0) 28 34 39 + majority + t) :: (x.2.take 7).set 3 (v 3 + t))

/-- A block of 128 bytes enters the hash value. -/
def shaBlock (h : List (BitVec 64)) (blk : List Byte) : List (BitVec 64) :=
  let words := (groups 8 16 blk).map fun g => BitVec.ofNat 64 (beNat g)
  List.zipWith (· + ·) (shaConst.foldl shaStep (words, h)).2 h

/-- A message with its padding and its length in bits: whole blocks of 128 bytes. -/
def shaPadded (msg : List Byte) : List Byte :=
  msg ++ [0x80#8] ++ List.replicate ((239 - msg.length % 128) % 128) 0 ++ beBytes 16 (8 * msg.length)

/-- SHA-384 of a message, 48 bytes (FIPS 180-4). -/
def sha384 (msg : List Byte) : List Byte :=
  let p := shaPadded msg
  (((groups 128 (p.length / 128) p).foldl shaBlock shaStart).take 6).flatMap fun x => beBytes 8 x.toNat

/-! ## ECDSA P-384 -/

/-- The field prime of P-384. -/
def ecP : Nat := 0xfffffffffffffffffffffffffffffffffffffffffffffffffffffffffffffffeffffffff0000000000000000ffffffff

/-- The group order of P-384. -/
def ecN : Nat := 0xffffffffffffffffffffffffffffffffffffffffffffffffc7634d81f4372ddf581a0db248b0a77aecec196accc52973

/-- The coefficient b of P-384. -/
def ecB : Nat := 0xb3312fa7e23ee7e4988e056be3f82d19181d9c6efe8141120314088f5013875ac656398d8a2ed19d2a85c8edd3ec2aef

/-- The base point of P-384. -/
def ecG : Option (Nat × Nat) :=
  some (0xaa87ca22be8b05378eb1c71ef320ad746e1d3b628ba79b9859f741e082542a385502f25dbf55296c3a545e3872760ab7,
    0x3617de4a96262c6f5d9e98bf9292dc29f8f41dbd289a147ce9da3113b5f0b8c00a60b1ce1d7e819d7a431d7c90ea0e5f)

/-- `a` to the power of the `n`-bit number `e`, modulo `m`. -/
def powMod (m : Nat) : Nat → Nat → Nat → Nat
  | 0, _, _ => 1 % m
  | n + 1, a, e =>
      let r := powMod m n (a * a % m) (e / 2)
      if e % 2 = 1 then r * a % m else r

/-- The inverse modulo a 384-bit prime. -/
def invMod (m a : Nat) : Nat := powMod m 384 (a % m) (m - 2)

/-- Addition of points of P-384; `none` is the neutral point. -/
def ecAdd : Option (Nat × Nat) → Option (Nat × Nat) → Option (Nat × Nat)
  | none, q => q
  | q, none => q
  | some (x1, y1), some (x2, y2) =>
      if x1 = x2 ∧ (y1 + y2) % ecP = 0 then none
      else
        let l :=
          if x1 = x2 then (3 * x1 * x1 + (ecP - 3)) * invMod ecP (2 * y1) % ecP
          else (y2 + (ecP - y1)) * invMod ecP (x2 + (ecP - x1)) % ecP
        let x3 := (l * l + (ecP - x1) + (ecP - x2)) % ecP
        some (x3, (l * (x1 + (ecP - x3)) + (ecP - y1)) % ecP)

/-- The multiple of a point by the `n`-bit number `k`. -/
def ecMul : Nat → Nat → Option (Nat × Nat) → Option (Nat × Nat)
  | 0, _, _ => none
  | n + 1, k, q =>
      let r := ecMul n (k / 2) (ecAdd q q)
      if k % 2 = 1 then ecAdd q r else r

/-- Verification of an ECDSA P-384 signature (r then s, each 48 bytes big-endian) over the SHA-384 of
a message, under the public key X then Y (R74, R83). -/
def ecdsaVerify (pub msg sig : List Byte) : Bool :=
  let r := beNat (sig.take 48)
  let s := beNat ((sig.drop 48).take 48)
  let x := beNat (pub.take 48)
  let y := beNat ((pub.drop 48).take 48)
  let onCurve := x < ecP && y < ecP && decide (y * y % ecP = (x * x * x + (ecP - 3) * x + ecB) % ecP)
  let w := invMod ecN s
  let z := beNat (sha384 msg)
  let pt := ecAdd (ecMul 384 (z * w % ecN) ecG) (ecMul 384 (r * w % ecN) (some (x, y)))
  onCurve && decide (1 ≤ r) && decide (r < ecN) && decide (1 ≤ s) && decide (s < ecN) &&
    (match pt with
     | none => false
     | some (px, _) => decide (px % ecN = r))

end Sys2Proof.Machine
end

