-- ==== Sys2Proof/Machine/RegTypes.lean ====
section
/-!
DEFINITION. The types of a register table (R6, R8, R10): access codes, apply classes with the
boundary of a class B field, fields and blocks of registers.
-/

namespace Sys2Proof.Machine

/-- The access codes of R8. -/
inductive Access
  | ro | rw | rw1c | wo | rwl
  deriving DecidableEq, Repr

/-- The boundaries that the chapters name for class B fields (R10, R58). -/
inductive Boundary
  /-- The next boundary of the rope that the register belongs to (R138). -/
  | rope
  /-- The first boundary while the rope is OFF (R138). -/
  | ropeOff
  /-- The rope's next publish. -/
  | publish
  /-- The arming of a pulse output (R126). -/
  | arming
  /-- The next leading edge of an enabled pulse output, otherwise its arming (R125). -/
  | tpoEdge
  /-- The next boundary of each rope on the port. -/
  | portRope
  /-- The next boundary of the station's active rope, or at once while that rope is OFF (R138). -/
  | station
  /-- The boundary of the template's station (R167). -/
  | template
  /-- The next master snapshot (R187). -/
  | snapshot
  /-- The first snapshot while the master is disabled. -/
  | masterOff
  /-- The boundary of the axis (R182). -/
  | axis
  /-- The next head in (R221). -/
  | headIn
  /-- The first head in after a write of the pattern's CTRL word (R232). -/
  | pattern
  /-- The first head in after a write of word 9 of the key (R247). -/
  | hashKey
  /-- The port's or queue's next scheduling decision (R308). -/
  | decision
  /-- The queue's next visit (R306). -/
  | visit
  /-- The instant at which the queue is disabled and empty (R294). -/
  | queueIdle
  /-- The next sweep start (R320). -/
  | sweep
  /-- The gate-list switch (R312). -/
  | gclSwitch
  /-- The port's next frame. -/
  | portFrame
  /-- The instant at which the secure association's ENABLE goes from 0 to 1 (R471). -/
  | saEnable
  /-- The next STOP on the SMBus (R537). -/
  | busStop
  deriving DecidableEq, Repr

/-- The apply classes of R10; `na` is the dash of an RO field. -/
inductive Apply
  | na | l | s
  | b (at_ : Boundary)
  deriving DecidableEq, Repr

/-- One field of a register table: the byte offset of its register in the block entry, its lowest bit
and width, its access code, apply class and reset value, and the least and greatest value it takes. -/
structure Fld where
  off : Nat
  lo : Nat
  width : Nat
  acc : Access
  app : Apply
  reset : Nat
  vmin : Nat
  vmax : Nat
  deriving DecidableEq, Repr

/-- A block of registers: the PF0 BAR0 address of its first entry, its array dimensions (count and
stride, the outermost first), the bytes that one entry occupies, and the fields of an entry. -/
structure Block where
  base : Nat
  dims : List (Nat × Nat)
  size : Nat
  fields : List Fld
  deriving DecidableEq, Repr

/-- The number of 32-bit words that the field's register needs for this field. -/
def Fld.words (f : Fld) : Nat := (f.lo + f.width + 31) / 32

/-- The distance of `rem` from the entry that holds it, through the dimensions in turn. -/
def Block.within : List (Nat × Nat) → Nat → Option Nat
  | [], rem => some rem
  | (n, st) :: ds, rem => if rem / st < n then Block.within ds (rem % st) else none

/-- The address of the block entry that holds address `a`, when one does. -/
def Block.entry (b : Block) (a : Nat) : Option Nat :=
  if a < b.base then none
  else match Block.within b.dims (a - b.base) with
    | some r => if r < b.size then some (a - r) else none
    | none => none

/-- The bits of word `i` (counted from the register's first word) that the field occupies. -/
def Fld.maskAt (f : Fld) (i : Nat) : Word :=
  BitVec.ofNat 32 (((2 ^ f.width - 1) <<< f.lo) >>> (32 * i))

/-- The bits of the word `d` bytes into an entry that the field occupies. -/
def Fld.maskOff (f : Fld) (d : Nat) : Word :=
  if f.off ≤ d ∧ d < f.off + 4 * f.words then f.maskAt ((d - f.off) / 4) else 0

/-- The field's reset value, placed in the word `d` bytes into an entry. -/
def Fld.resetOff (f : Fld) (d : Nat) : Word :=
  if f.off ≤ d ∧ d < f.off + 4 * f.words then
    BitVec.ofNat 32 ((f.reset <<< f.lo) >>> (32 * ((d - f.off) / 4))) else 0

end Sys2Proof.Machine
end

