-- ==== Sys2Proof/Machine/RegMap.lean ====
section
/-!
DEFINITION. The register map (R550–R561 and the register tables of each chapter): for each block of
registers its address, its array dimensions and its fields, with access code, apply class, reset
value and the range of values that the field takes.  A field's reset value that depends on the unit,
the scale or the shares is 0 here and stands in `resetWord` (`Machine/Ops.lean`).
-/

namespace Sys2Proof.Machine


/-- Address of Unit header of unit `u` (R554, R65, R510, R555–R557); resets that depend on the unit stand in `hdrReset`. in PF0 BAR0 (R554, R561). -/
def Hdr.adr (u : Nat) : Nat := 0x0 + 0x100000 * u
def Hdr.unitNo : Fld := ⟨0x0, 0, 8, .ro, .na, 0, 0, 255⟩
def Hdr.device : Fld := ⟨0x0, 16, 16, .ro, .na, 16736, 0, 65535⟩
def Hdr.ifvMin : Fld := ⟨0x4, 0, 8, .ro, .na, 1, 0, 255⟩
def Hdr.ifvMax : Fld := ⟨0x4, 8, 8, .ro, .na, 2, 0, 255⟩
def Hdr.ifvReq : Fld := ⟨0x8, 0, 8, .rw, .s, 1, 0, 255⟩
def Hdr.ifvAct : Fld := ⟨0xC, 0, 8, .ro, .na, 1, 0, 255⟩
def Hdr.state : Fld := ⟨0x10, 0, 4, .ro, .na, 0, 0, 15⟩
def Hdr.cause : Fld := ⟨0x10, 8, 8, .ro, .na, 0, 0, 255⟩
def Hdr.ready : Fld := ⟨0x14, 0, 1, .ro, .na, 0, 0, 1⟩
def Hdr.expert : Fld := ⟨0x18, 0, 1, .rwl, .l, 0, 0, 1⟩
def Hdr.hold : Fld := ⟨0x18, 1, 1, .rwl, .l, 0, 0, 1⟩
def Hdr.resetB : Fld := ⟨0x18, 2, 1, .wo, .l, 0, 0, 1⟩
def Hdr.go : Fld := ⟨0x18, 3, 1, .wo, .l, 0, 0, 1⟩
def Hdr.momDetail : Fld := ⟨0x20, 0, 28, .ro, .na, 0, 0, 0xFFFFFFF⟩
def Hdr.momStamp : Fld := ⟨0x20, 28, 32, .ro, .na, 0, 0, 0xFFFFFFFF⟩
def Hdr.momEvent : Fld := ⟨0x20, 60, 4, .ro, .na, 15, 0, 15⟩
def Hdr.eventMap : Fld := ⟨0x28, 0, 15, .rwl, .l, 32767, 0, 32767⟩
def Hdr.blk : Block :=
  ⟨0x0, [(24, 0x100000)], 0x2C,
   [Hdr.unitNo, Hdr.device, Hdr.ifvMin, Hdr.ifvMax, Hdr.ifvReq, Hdr.ifvAct, Hdr.state, Hdr.cause,
    Hdr.ready, Hdr.expert, Hdr.hold, Hdr.resetB, Hdr.go, Hdr.momDetail, Hdr.momStamp,
    Hdr.momEvent, Hdr.eventMap]⟩

/-- Address of PWR_CMD in PF0 BAR0 (R492, R561). -/
def PwrCmd.adr : Nat := 0x1100
def PwrCmd.busy : Fld := ⟨0x0, 31, 1, .ro, .na, 0, 0, 1⟩
def PwrCmd.status : Fld := ⟨0x0, 16, 8, .ro, .na, 0, 0, 255⟩
def PwrCmd.target : Fld := ⟨0x0, 0, 2, .wo, .l, 0, 0, 3⟩
def PwrCmd.blk : Block :=
  ⟨0x1100, [], 0x4,
   [PwrCmd.busy, PwrCmd.status, PwrCmd.target]⟩

/-- Address of PWR_STATUS in PF0 BAR0 (R492, R561). -/
def PwrStatus.adr : Nat := 0x1104
def PwrStatus.state : Fld := ⟨0x0, 24, 4, .ro, .na, 0, 0, 15⟩
def PwrStatus.pending : Fld := ⟨0x0, 20, 2, .ro, .na, 0, 0, 3⟩
def PwrStatus.wakeTo : Fld := ⟨0x0, 18, 2, .ro, .na, 1, 0, 3⟩
def PwrStatus.wakeCause : Fld := ⟨0x0, 16, 2, .ro, .na, 0, 0, 3⟩
def PwrStatus.woke : Fld := ⟨0x0, 15, 1, .ro, .na, 0, 0, 1⟩
def PwrStatus.level : Fld := ⟨0x0, 0, 2, .ro, .na, 0, 0, 3⟩
def PwrStatus.blk : Block :=
  ⟨0x1104, [], 0x4,
   [PwrStatus.state, PwrStatus.pending, PwrStatus.wakeTo, PwrStatus.wakeCause, PwrStatus.woke,
    PwrStatus.level]⟩

/-- Address of PWR_CTRL in PF0 BAR0 (R492, R561). -/
def PwrCtrl.adr : Nat := 0x1108
def PwrCtrl.d3Bivouac : Fld := ⟨0x0, 0, 1, .rwl, .l, 0, 0, 1⟩
def PwrCtrl.blk : Block :=
  ⟨0x1108, [], 0x4,
   [PwrCtrl.d3Bivouac]⟩

/-- Address of PWR_GATE in PF0 BAR0 (R492, R561). -/
def PwrGate.adr : Nat := 0x110C
def PwrGate.idle : Fld := ⟨0x0, 0, 13, .rwl, .l, 256, 16, 4096⟩
def PwrGate.blk : Block :=
  ⟨0x110C, [], 0x4,
   [PwrGate.idle]⟩

/-- Address of PWR_SPREAD in PF0 BAR0 (R492, R561). -/
def PwrSpread.adr : Nat := 0x1110
def PwrSpread.depth : Fld := ⟨0x0, 16, 3, .rwl, .l, 5, 0, 5⟩
def PwrSpread.enable : Fld := ⟨0x0, 0, 10, .rwl, .l, 0, 0, 1023⟩
def PwrSpread.blk : Block :=
  ⟨0x1110, [], 0x4,
   [PwrSpread.depth, PwrSpread.enable]⟩

/-- Address of PWR_RETAIN in PF0 BAR0 (R492, R561). -/
def PwrRetain.adr : Nat := 0x1114
def PwrRetain.table : Fld := ⟨0x0, 0, 16, .rwl, .l, 0, 0, 65535⟩
def PwrRetain.cxe : Fld := ⟨0x0, 16, 16, .rwl, .l, 0, 0, 65535⟩
def PwrRetain.blk : Block :=
  ⟨0x1114, [], 0x4,
   [PwrRetain.table, PwrRetain.cxe]⟩

/-- Address of PWR_RET_LOST in PF0 BAR0 (R492, R561). -/
def PwrRetLost.adr : Nat := 0x1118
def PwrRetLost.table : Fld := ⟨0x0, 0, 16, .ro, .na, 0, 0, 65535⟩
def PwrRetLost.cxe : Fld := ⟨0x0, 16, 16, .ro, .na, 0, 0, 65535⟩
def PwrRetLost.blk : Block :=
  ⟨0x1118, [], 0x4,
   [PwrRetLost.table, PwrRetLost.cxe]⟩

/-- Address of PWR_ESTIMATE in PF0 BAR0 (R492, R561). -/
def PwrEstimate.adr : Nat := 0x111C
def PwrEstimate.milliwatts : Fld := ⟨0x0, 0, 12, .ro, .na, 1200, 0, 4095⟩
def PwrEstimate.blk : Block :=
  ⟨0x111C, [], 0x4,
   [PwrEstimate.milliwatts]⟩

/-- Address of PWR_WAKE[i] in PF0 BAR0 (R492, R561). -/
def PwrWake.adr (i : Nat) : Nat := 0x1120 + 0x8 * i
def PwrWake.enable : Fld := ⟨0x0, 31, 1, .rwl, .l, 0, 0, 1⟩
def PwrWake.edge : Fld := ⟨0x0, 30, 1, .rwl, .l, 0, 0, 1⟩
def PwrWake.hyst : Fld := ⟨0x0, 24, 3, .rwl, .l, 0, 0, 4⟩
def PwrWake.threshold : Fld := ⟨0x0, 0, 7, .rwl, .l, 50, 0, 100⟩
def PwrWake.debounce : Fld := ⟨0x4, 0, 16, .rwl, .l, 25, 0, 65535⟩
def PwrWake.blk : Block :=
  ⟨0x1120, [(2, 0x8)], 0x8,
   [PwrWake.enable, PwrWake.edge, PwrWake.hyst, PwrWake.threshold, PwrWake.debounce]⟩

/-- Address of SYS_LEAD in PF0 BAR0 (R536, R561). -/
def SysLead.adr : Nat := 0x1200
def SysLead.holder : Fld := ⟨0x0, 30, 2, .ro, .na, 0, 0, 3⟩
def SysLead.remain : Fld := ⟨0x0, 16, 14, .ro, .na, 0, 0, 16383⟩
def SysLead.lease : Fld := ⟨0x0, 0, 14, .ro, .na, 0, 0, 16383⟩
def SysLead.blk : Block :=
  ⟨0x1200, [], 0x4,
   [SysLead.holder, SysLead.remain, SysLead.lease]⟩

/-- Address of SYS_LEAD_RESULT in PF0 BAR0 (R536, R561). -/
def SysLeadResult.adr : Nat := 0x1204
def SysLeadResult.management : Fld := ⟨0x0, 4, 4, .ro, .na, 0, 0, 15⟩
def SysLeadResult.host : Fld := ⟨0x0, 0, 4, .ro, .na, 0, 0, 15⟩
def SysLeadResult.blk : Block :=
  ⟨0x1204, [], 0x4,
   [SysLeadResult.management, SysLeadResult.host]⟩

/-- Address of SYS_LEAD_CMD in PF0 BAR0 (R536, R561). -/
def SysLeadCmd.adr : Nat := 0x1208
def SysLeadCmd.op : Fld := ⟨0x0, 30, 2, .wo, .l, 0, 0, 3⟩
def SysLeadCmd.lease : Fld := ⟨0x0, 0, 14, .wo, .l, 0, 0, 16383⟩
def SysLeadCmd.blk : Block :=
  ⟨0x1208, [], 0x4,
   [SysLeadCmd.op, SysLeadCmd.lease]⟩

/-- Address of SYS_TRUST in PF0 BAR0 (ch. Secure start, R561). -/
def SysTrust.adr : Nat := 0x101000
def SysTrust.keysLocked : Fld := ⟨0x0, 7, 1, .ro, .na, 0, 0, 1⟩
def SysTrust.trustLost : Fld := ⟨0x0, 6, 1, .ro, .na, 0, 0, 1⟩
def SysTrust.cfgTrusted : Fld := ⟨0x0, 5, 1, .ro, .na, 0, 0, 1⟩
def SysTrust.fwTrusted : Fld := ⟨0x0, 4, 1, .ro, .na, 0, 0, 1⟩
def SysTrust.cfgFallback : Fld := ⟨0x0, 3, 1, .ro, .na, 0, 0, 1⟩
def SysTrust.fwFallback : Fld := ⟨0x0, 2, 1, .ro, .na, 0, 0, 1⟩
def SysTrust.fwSlot : Fld := ⟨0x0, 0, 1, .ro, .na, 0, 0, 1⟩
def SysTrust.blk : Block :=
  ⟨0x101000, [], 0x4,
   [SysTrust.keysLocked, SysTrust.trustLost, SysTrust.cfgTrusted, SysTrust.fwTrusted,
    SysTrust.cfgFallback, SysTrust.fwFallback, SysTrust.fwSlot]⟩

/-- Address of BOOT_STATUS in PF0 BAR0 (ch. Secure start, R561). -/
def BootStatus.adr : Nat := 0x101004
def BootStatus.haltCode : Fld := ⟨0x0, 20, 4, .ro, .na, 0, 0, 15⟩
def BootStatus.scale : Fld := ⟨0x0, 16, 4, .ro, .na, 0, 0, 15⟩
def BootStatus.step : Fld := ⟨0x0, 0, 8, .ro, .na, 1, 0, 255⟩
def BootStatus.blk : Block :=
  ⟨0x101004, [], 0x4,
   [BootStatus.haltCode, BootStatus.scale, BootStatus.step]⟩

/-- Address of BOOT_INSTALL in PF0 BAR0 (ch. Secure start, R561). -/
def BootInstall.adr : Nat := 0x101008
def BootInstall.result : Fld := ⟨0x0, 8, 8, .ro, .na, 0, 0, 255⟩
def BootInstall.kind : Fld := ⟨0x0, 4, 2, .ro, .na, 0, 0, 3⟩
def BootInstall.slot : Fld := ⟨0x0, 3, 1, .ro, .na, 0, 0, 1⟩
def BootInstall.key : Fld := ⟨0x0, 0, 2, .ro, .na, 0, 0, 3⟩
def BootInstall.blk : Block :=
  ⟨0x101008, [], 0x4,
   [BootInstall.result, BootInstall.kind, BootInstall.slot, BootInstall.key]⟩

/-- Address of BOOT_EPOCH in PF0 BAR0 (ch. Secure start, R561). -/
def BootEpoch.adr : Nat := 0x10100C
def BootEpoch.cfgEpoch : Fld := ⟨0x0, 8, 8, .ro, .na, 0, 0, 255⟩
def BootEpoch.fwEpoch : Fld := ⟨0x0, 0, 8, .ro, .na, 0, 0, 255⟩
def BootEpoch.blk : Block :=
  ⟨0x10100C, [], 0x4,
   [BootEpoch.cfgEpoch, BootEpoch.fwEpoch]⟩

/-- Address of BOOT_KEYS in PF0 BAR0 (ch. Secure start, R561). -/
def BootKeys.adr : Nat := 0x101010
def BootKeys.ownerRevoked : Fld := ⟨0x0, 12, 4, .ro, .na, 0, 0, 15⟩
def BootKeys.ownerPresent : Fld := ⟨0x0, 8, 4, .ro, .na, 0, 0, 15⟩
def BootKeys.vendorRevoked : Fld := ⟨0x0, 4, 4, .ro, .na, 0, 0, 15⟩
def BootKeys.vendorPresent : Fld := ⟨0x0, 0, 4, .ro, .na, 0, 0, 15⟩
def BootKeys.blk : Block :=
  ⟨0x101010, [], 0x4,
   [BootKeys.ownerRevoked, BootKeys.ownerPresent, BootKeys.vendorRevoked, BootKeys.vendorPresent]⟩

/-- Address of BOOT_FUSE_CMD in PF0 BAR0 (ch. Secure start, R561). -/
def BootFuseCmd.adr : Nat := 0x101014
def BootFuseCmd.go : Fld := ⟨0x0, 31, 1, .rwl, .l, 0, 0, 1⟩
def BootFuseCmd.op : Fld := ⟨0x0, 24, 4, .rwl, .l, 0, 0, 15⟩
def BootFuseCmd.confirm : Fld := ⟨0x0, 16, 8, .rwl, .l, 0, 0, 255⟩
def BootFuseCmd.value : Fld := ⟨0x0, 0, 8, .rwl, .l, 0, 0, 255⟩
def BootFuseCmd.blk : Block :=
  ⟨0x101014, [], 0x4,
   [BootFuseCmd.go, BootFuseCmd.op, BootFuseCmd.confirm, BootFuseCmd.value]⟩

/-- Address of BOOT_FUSE_RESULT in PF0 BAR0 (ch. Secure start, R561). -/
def BootFuseResult.adr : Nat := 0x101018
def BootFuseResult.busy : Fld := ⟨0x0, 31, 1, .ro, .na, 0, 0, 1⟩
def BootFuseResult.status : Fld := ⟨0x0, 0, 8, .ro, .na, 0, 0, 255⟩
def BootFuseResult.blk : Block :=
  ⟨0x101018, [], 0x4,
   [BootFuseResult.busy, BootFuseResult.status]⟩

/-- Address of BOOT_RELEASE in PF0 BAR0 (ch. Secure start, R561). -/
def BootRelease.adr : Nat := 0x101020
def BootRelease.core : Fld := ⟨0x0, 0, 26, .wo, .l, 0, 0, 0x3FFFFFF⟩
def BootRelease.blk : Block :=
  ⟨0x101020, [], 0x4,
   [BootRelease.core]⟩

/-- Address of BOOT_RUNNING in PF0 BAR0 (ch. Secure start, R561). -/
def BootRunning.adr : Nat := 0x101024
def BootRunning.core : Fld := ⟨0x0, 0, 26, .ro, .na, 0, 0, 0x3FFFFFF⟩
def BootRunning.blk : Block :=
  ⟨0x101024, [], 0x4,
   [BootRunning.core]⟩

/-- Address of BOOT_VECTOR[n] in PF0 BAR0 (ch. Secure start, R561). -/
def BootVector.adr (i : Nat) : Nat := 0x140000 + 0x8 * i
def BootVector.address : Fld := ⟨0x0, 0, 64, .rw, .l, 0, 0, 0xFFFFFFFFFFFFFFFF⟩
def BootVector.blk : Block :=
  ⟨0x140000, [(26, 0x8)], 0x8,
   [BootVector.address]⟩

/-- Address of CFG_STATUS in PF0 BAR0 (R65, R561). -/
def CfgStatus.adr : Nat := 0x201000
def CfgStatus.format : Fld := ⟨0x0, 16, 4, .ro, .na, 0, 0, 15⟩
def CfgStatus.slot : Fld := ⟨0x0, 8, 1, .ro, .na, 0, 0, 1⟩
def CfgStatus.phase : Fld := ⟨0x0, 0, 4, .ro, .na, 0, 0, 15⟩
def CfgStatus.blk : Block :=
  ⟨0x201000, [], 0x4,
   [CfgStatus.format, CfgStatus.slot, CfgStatus.phase]⟩

/-- Address of CFG_FAULT in PF0 BAR0 (R65, R561). -/
def CfgFault.adr : Nat := 0x201004
def CfgFault.unit : Fld := ⟨0x0, 24, 8, .ro, .na, 255, 0, 255⟩
def CfgFault.record : Fld := ⟨0x0, 0, 24, .ro, .na, 0xFFFFFF, 0, 0xFFFFFF⟩
def CfgFault.blk : Block :=
  ⟨0x201004, [], 0x4,
   [CfgFault.unit, CfgFault.record]⟩

/-- Address of CFG_SKIP in PF0 BAR0 (R65, R561). -/
def CfgSkip.adr : Nat := 0x201008
def CfgSkip.unit : Fld := ⟨0x0, 24, 8, .ro, .na, 255, 0, 255⟩
def CfgSkip.record : Fld := ⟨0x0, 0, 24, .ro, .na, 0xFFFFFF, 0, 0xFFFFFF⟩
def CfgSkip.blk : Block :=
  ⟨0x201008, [], 0x4,
   [CfgSkip.unit, CfgSkip.record]⟩

/-- Address of CFG_READY_MAP in PF0 BAR0 (R65, R561). -/
def CfgReadyMap.adr : Nat := 0x20100C
def CfgReadyMap.ready : Fld := ⟨0x0, 0, 24, .ro, .na, 0, 0, 0xFFFFFF⟩
def CfgReadyMap.blk : Block :=
  ⟨0x20100C, [], 0x4,
   [CfgReadyMap.ready]⟩

/-- Address of CFG_STAGE_ADDR in PF0 BAR0 (ch. Secure start, R561). -/
def CfgStageAddr.adr : Nat := 0x201010
def CfgStageAddr.offset : Fld := ⟨0x0, 0, 32, .rwl, .l, 0, 0, 0xFFFFFFFF⟩
def CfgStageAddr.blk : Block :=
  ⟨0x201010, [], 0x4,
   [CfgStageAddr.offset]⟩

/-- Address of CFG_STAGE_DATA in PF0 BAR0 (ch. Secure start, R561). -/
def CfgStageData.adr : Nat := 0x201014
def CfgStageData.data : Fld := ⟨0x0, 0, 32, .wo, .l, 0, 0, 0xFFFFFFFF⟩
def CfgStageData.blk : Block :=
  ⟨0x201014, [], 0x4,
   [CfgStageData.data]⟩

/-- Address of CFG_STAGE_CMD in PF0 BAR0 (ch. Secure start, R561). -/
def CfgStageCmd.adr : Nat := 0x201018
def CfgStageCmd.busy : Fld := ⟨0x0, 31, 1, .ro, .na, 0, 0, 1⟩
def CfgStageCmd.status : Fld := ⟨0x0, 8, 8, .ro, .na, 0, 0, 255⟩
def CfgStageCmd.op : Fld := ⟨0x0, 0, 4, .wo, .l, 0, 0, 15⟩
def CfgStageCmd.blk : Block :=
  ⟨0x201018, [], 0x4,
   [CfgStageCmd.busy, CfgStageCmd.status, CfgStageCmd.op]⟩

/-- Address of TU_CTRL in PF0 BAR0 (R132, R561). -/
def TuCtrl.adr : Nat := 0x301000
def TuCtrl.tuKeep : Fld := ⟨0x0, 2, 1, .rwl, .l, 0, 0, 1⟩
def TuCtrl.autoSwitch : Fld := ⟨0x0, 1, 1, .rwl, .l, 0, 0, 1⟩
def TuCtrl.domainSel : Fld := ⟨0x0, 0, 1, .rwl, .l, 0, 0, 1⟩
def TuCtrl.blk : Block :=
  ⟨0x301000, [], 0x4,
   [TuCtrl.tuKeep, TuCtrl.autoSwitch, TuCtrl.domainSel]⟩

/-- Address of TU_SLEW in PF0 BAR0 (R132, R561). -/
def TuSlew.adr : Nat := 0x301004
def TuSlew.rate : Fld := ⟨0x0, 0, 16, .rwl, .l, 100, 1, 1000⟩
def TuSlew.blk : Block :=
  ⟨0x301004, [], 0x4,
   [TuSlew.rate]⟩

/-- Address of TU_PRESTART in PF0 BAR0 (R132, R561). -/
def TuPrestart.adr : Nat := 0x301008
def TuPrestart.lead : Fld := ⟨0x0, 0, 16, .rw, .l, 1000, 512, 65535⟩
def TuPrestart.blk : Block :=
  ⟨0x301008, [], 0x4,
   [TuPrestart.lead]⟩

/-- Address of TU_STATUS in PF0 BAR0 (R132, R561). -/
def TuStatus.adr : Nat := 0x30100C
def TuStatus.tpoArmed : Fld := ⟨0x0, 8, 8, .ro, .na, 0, 0, 255⟩
def TuStatus.locked : Fld := ⟨0x0, 5, 1, .ro, .na, 1, 0, 1⟩
def TuStatus.slewing : Fld := ⟨0x0, 4, 1, .ro, .na, 0, 0, 1⟩
def TuStatus.holdover : Fld := ⟨0x0, 3, 1, .ro, .na, 1, 0, 1⟩
def TuStatus.valid : Fld := ⟨0x0, 1, 2, .ro, .na, 0, 0, 3⟩
def TuStatus.selected : Fld := ⟨0x0, 0, 1, .ro, .na, 0, 0, 1⟩
def TuStatus.blk : Block :=
  ⟨0x30100C, [], 0x4,
   [TuStatus.tpoArmed, TuStatus.locked, TuStatus.slewing, TuStatus.holdover, TuStatus.valid,
    TuStatus.selected]⟩

/-- Address of TU_CMD in PF0 BAR0 (R132, R561). -/
def TuCmd.adr : Nat := 0x301010
def TuCmd.snap : Fld := ⟨0x0, 1, 1, .wo, .l, 0, 0, 1⟩
def TuCmd.align : Fld := ⟨0x0, 0, 1, .wo, .l, 0, 0, 1⟩
def TuCmd.blk : Block :=
  ⟨0x301010, [], 0x4,
   [TuCmd.snap, TuCmd.align]⟩

/-- Address of TU_SNAP_SEQ in PF0 BAR0 (R132, R561). -/
def TuSnapSeq.adr : Nat := 0x301014
def TuSnapSeq.count : Fld := ⟨0x0, 0, 32, .ro, .na, 0, 0, 0xFFFFFFFF⟩
def TuSnapSeq.blk : Block :=
  ⟨0x301014, [], 0x4,
   [TuSnapSeq.count]⟩

/-- Address of TU_SNAP_SEC, _NS, _FRAC, _STAMP in PF0 BAR0 (R132, R561). -/
def TuSnap.adr : Nat := 0x301018
def TuSnap.sec : Fld := ⟨0x0, 0, 48, .ro, .na, 0, 0, 0xFFFFFFFFFFFF⟩
def TuSnap.ns : Fld := ⟨0x8, 0, 30, .ro, .na, 0, 0, 0x3FFFFFFF⟩
def TuSnap.frac : Fld := ⟨0xC, 0, 32, .ro, .na, 0, 0, 0xFFFFFFFF⟩
def TuSnap.stamp : Fld := ⟨0x10, 0, 32, .ro, .na, 0, 0, 0xFFFFFFFF⟩
def TuSnap.blk : Block :=
  ⟨0x301018, [], 0x14,
   [TuSnap.sec, TuSnap.ns, TuSnap.frac, TuSnap.stamp]⟩

/-- Address of TU_SNAP_DOM_SEC[d], TU_SNAP_DOM_NS[d] in PF0 BAR0 (R132, R561). -/
def TuSnapDom.adr (i : Nat) : Nat := 0x301030 + 0x10 * i
def TuSnapDom.sec : Fld := ⟨0x0, 0, 48, .ro, .na, 0, 0, 0xFFFFFFFFFFFF⟩
def TuSnapDom.ns : Fld := ⟨0x8, 0, 30, .ro, .na, 0, 0, 0x3FFFFFFF⟩
def TuSnapDom.blk : Block :=
  ⟨0x301030, [(2, 0x10)], 0xC,
   [TuSnapDom.sec, TuSnapDom.ns]⟩

/-- Address of TU_TXSTAMP_HEAD in PF0 BAR0 (R132, R561). -/
def TuTxHead.adr : Nat := 0x301050
def TuTxHead.index : Fld := ⟨0x0, 0, 7, .ro, .na, 0, 0, 127⟩
def TuTxHead.blk : Block :=
  ⟨0x301050, [], 0x4,
   [TuTxHead.index]⟩

/-- Address of TU_TXSTAMP_TAIL in PF0 BAR0 (R132, R561). -/
def TuTxTail.adr : Nat := 0x301054
def TuTxTail.index : Fld := ⟨0x0, 0, 7, .rw, .l, 0, 0, 127⟩
def TuTxTail.blk : Block :=
  ⟨0x301054, [], 0x4,
   [TuTxTail.index]⟩

/-- Address of TU_DOMAIN_CTRL, _WDOG, _ADJUST, _STEP[d] in PF0 BAR0 (R132, R561). -/
def TuDom.adr (i : Nat) : Nat := 0x301100 + 0x20 * i
def TuDom.profile : Fld := ⟨0x0, 16, 2, .rw, .s, 0, 0, 2⟩
def TuDom.number : Fld := ⟨0x0, 8, 8, .rw, .s, 0, 0, 255⟩
def TuDom.invalidate : Fld := ⟨0x0, 1, 1, .wo, .l, 0, 0, 1⟩
def TuDom.refresh : Fld := ⟨0x0, 0, 1, .wo, .l, 0, 0, 1⟩
def TuDom.timeout : Fld := ⟨0x4, 0, 16, .rw, .l, 1000, 0, 65535⟩
def TuDom.adjust : Fld := ⟨0x8, 0, 32, .rw, .l, 0, 0, 0xFFFFFFFF⟩
def TuDom.step : Fld := ⟨0x10, 0, 64, .wo, .l, 0, 0, 0xFFFFFFFFFFFFFFFF⟩
def TuDom.blk : Block :=
  ⟨0x301100, [(2, 0x20)], 0x18,
   [TuDom.profile, TuDom.number, TuDom.invalidate, TuDom.refresh, TuDom.timeout, TuDom.adjust,
    TuDom.step]⟩

/-- Address of TU_CORR[p] (expert) in PF0 BAR0 (R132, R561). -/
def TuCorr.adr (i : Nat) : Nat := 0x308000 + 0x4 * i
def TuCorr.tx : Fld := ⟨0x0, 16, 16, .rw, .l, 0, 0, 65535⟩
def TuCorr.rx : Fld := ⟨0x0, 0, 16, .rw, .l, 0, 0, 65535⟩
def TuCorr.blk : Block :=
  ⟨0x308000, [(24, 0x4)], 0x4,
   [TuCorr.tx, TuCorr.rx]⟩

/-- Address of TU_TPO_CTRL, _START_NS, _START_SEC, _PERIOD, _WIDTH[n] in PF0 BAR0 (R132, R561). -/
def TuTpo.adr (i : Nat) : Nat := 0x340000 + 0x20 * i
def TuTpo.outSlew : Fld := ⟨0x0, 4, 2, .rw, .l, 1, 0, 3⟩
def TuTpo.polarity : Fld := ⟨0x0, 2, 1, .rw, .l, 0, 0, 1⟩
def TuTpo.mode : Fld := ⟨0x0, 1, 1, .rw, .b .arming, 0, 0, 1⟩
def TuTpo.enable : Fld := ⟨0x0, 0, 1, .rw, .l, 0, 0, 1⟩
def TuTpo.startNs : Fld := ⟨0x4, 0, 30, .rw, .b .arming, 0, 0, 0x3FFFFFFF⟩
def TuTpo.startSec : Fld := ⟨0x8, 0, 48, .rw, .b .arming, 0, 0, 0xFFFFFFFFFFFF⟩
def TuTpo.period : Fld := ⟨0x10, 0, 32, .rw, .b .tpoEdge, 0x3B9ACA00, 0, 0xFFFFFFFF⟩
def TuTpo.width : Fld := ⟨0x14, 0, 32, .rw, .b .tpoEdge, 100, 0, 0xFFFFFFFF⟩
def TuTpo.blk : Block :=
  ⟨0x340000, [(8, 0x20)], 0x18,
   [TuTpo.outSlew, TuTpo.polarity, TuTpo.mode, TuTpo.enable, TuTpo.startNs, TuTpo.startSec,
    TuTpo.period, TuTpo.width]⟩

/-- Address of TU_PORT_RESID[p] in PF0 BAR0 (R132, R561). -/
def TuResid.adr (i : Nat) : Nat := 0x341000 + 0x4 * i
def TuResid.tx : Fld := ⟨0x0, 16, 16, .rw, .l, 0, 0, 65535⟩
def TuResid.rx : Fld := ⟨0x0, 0, 16, .rw, .l, 0, 0, 65535⟩
def TuResid.blk : Block :=
  ⟨0x341000, [(24, 0x4)], 0x4,
   [TuResid.tx, TuResid.rx]⟩

/-- Address of TU_TXSTAMP[i] in PF0 BAR0 (R118, R561). -/
def TuTxstamp.adr (i : Nat) : Nat := 0x342000 + 0x10 * i
def TuTxstamp.tag : Fld := ⟨0x0, 0, 16, .ro, .na, 0, 0, 65535⟩
def TuTxstamp.port : Fld := ⟨0x0, 16, 5, .ro, .na, 0, 0, 31⟩
def TuTxstamp.scale : Fld := ⟨0x0, 21, 2, .ro, .na, 0, 0, 3⟩
def TuTxstamp.frac : Fld := ⟨0x0, 28, 4, .ro, .na, 0, 0, 15⟩
def TuTxstamp.ns : Fld := ⟨0x4, 0, 30, .ro, .na, 0, 0, 0x3FFFFFFF⟩
def TuTxstamp.sec : Fld := ⟨0x8, 0, 48, .ro, .na, 0, 0, 0xFFFFFFFFFFFF⟩
def TuTxstamp.blk : Block :=
  ⟨0x342000, [(64, 0x10)], 0x10,
   [TuTxstamp.tag, TuTxstamp.port, TuTxstamp.scale, TuTxstamp.frac, TuTxstamp.ns, TuTxstamp.sec]⟩

/-- Address of CXE_BASE in PF0 BAR0 (R180, R561). -/
def CxeBase.adr : Nat := 0x401000
def CxeBase.steps : Fld := ⟨0x0, 0, 23, .rw, .s, 1000, 1000, 0x7D0000⟩
def CxeBase.blk : Block :=
  ⟨0x401000, [], 0x4,
   [CxeBase.steps]⟩

/-- Address of CXE_ETHERTYPE in PF0 BAR0 (R180, R561). -/
def CxeEthertype.adr : Nat := 0x401004
def CxeEthertype.etype : Fld := ⟨0x0, 0, 16, .rw, .s, 34997, 0, 65535⟩
def CxeEthertype.blk : Block :=
  ⟨0x401004, [], 0x4,
   [CxeEthertype.etype]⟩

/-- Address of CXE_ROPE_*[r] in PF0 BAR0 (R180, R561). -/
def CxeRope.adr (i : Nat) : Nat := 0x401100 + 0x40 * i
def CxeRope.enable : Fld := ⟨0x0, 31, 1, .rw, .b .rope, 0, 0, 1⟩
def CxeRope.hostLoss : Fld := ⟨0x0, 29, 2, .rw, .b .rope, 0, 0, 2⟩
def CxeRope.shift : Fld := ⟨0x0, 27, 2, .rw, .b .ropeOff, 0, 0, 3⟩
def CxeRope.mult : Fld := ⟨0x0, 16, 11, .rw, .b .ropeOff, 1, 1, 1024⟩
def CxeRope.slice : Fld := ⟨0x0, 8, 8, .rw, .b .ropeOff, 0, 0, 255⟩
def CxeRope.commitWdog : Fld := ⟨0x0, 0, 8, .rw, .l, 0, 0, 255⟩
def CxeRope.phase : Fld := ⟨0x4, 0, 28, .rw, .b .ropeOff, 0, 0, 0xFFFFFFF⟩
def CxeRope.apply : Fld := ⟨0x8, 0, 28, .rw, .b .rope, 0, 0, 0xFFFFFFF⟩
def CxeRope.deadline : Fld := ⟨0xC, 0, 28, .rw, .b .rope, 875, 0, 0xFFFFFFF⟩
def CxeRope.headAddr : Fld := ⟨0x10, 4, 60, .rw, .b .publish, 0, 0, 0xFFFFFFFFFFFFFFF⟩
def CxeRope.headEnable : Fld := ⟨0x10, 0, 1, .rw, .b .publish, 0, 0, 1⟩
def CxeRope.mirrorAddr : Fld := ⟨0x18, 6, 58, .rw, .b .publish, 0, 0, 0x3FFFFFFFFFFFFFF⟩
def CxeRope.mirrorLen : Fld := ⟨0x20, 16, 16, .rw, .b .publish, 0, 0, 32768⟩
def CxeRope.mirrorOffset : Fld := ⟨0x20, 0, 15, .rw, .b .publish, 0, 0, 32767⟩
def CxeRope.mirrorStnCount : Fld := ⟨0x24, 16, 13, .rw, .b .publish, 0, 0, 4096⟩
def CxeRope.mirrorStnFirst : Fld := ⟨0x24, 0, 12, .rw, .b .publish, 0, 0, 4095⟩
def CxeRope.irqEnable : Fld := ⟨0x28, 15, 1, .rw, .l, 0, 0, 1⟩
def CxeRope.irqVector : Fld := ⟨0x28, 0, 11, .rw, .l, 0, 0, 2047⟩
def CxeRope.resume : Fld := ⟨0x2C, 1, 1, .wo, .l, 0, 0, 1⟩
def CxeRope.stop : Fld := ⟨0x2C, 0, 1, .wo, .l, 0, 0, 1⟩
def CxeRope.commit : Fld := ⟨0x30, 0, 16, .wo, .l, 0, 0, 65535⟩
def CxeRope.stTarget : Fld := ⟨0x34, 0, 16, .ro, .na, 0, 0, 65535⟩
def CxeRope.stMode : Fld := ⟨0x34, 16, 3, .ro, .na, 0, 0, 7⟩
def CxeRope.stPending : Fld := ⟨0x34, 19, 1, .ro, .na, 0, 0, 1⟩
def CxeRope.stStale : Fld := ⟨0x34, 24, 8, .ro, .na, 0, 0, 255⟩
def CxeRope.cycle : Fld := ⟨0x38, 0, 32, .ro, .na, 0, 0, 0xFFFFFFFF⟩
def CxeRope.published : Fld := ⟨0x3C, 0, 32, .ro, .na, 0, 0, 0xFFFFFFFF⟩
def CxeRope.blk : Block :=
  ⟨0x401100, [(16, 0x40)], 0x40,
   [CxeRope.enable, CxeRope.hostLoss, CxeRope.shift, CxeRope.mult, CxeRope.slice,
    CxeRope.commitWdog, CxeRope.phase, CxeRope.apply, CxeRope.deadline, CxeRope.headAddr,
    CxeRope.headEnable, CxeRope.mirrorAddr, CxeRope.mirrorLen, CxeRope.mirrorOffset,
    CxeRope.mirrorStnCount, CxeRope.mirrorStnFirst, CxeRope.irqEnable, CxeRope.irqVector,
    CxeRope.resume, CxeRope.stop, CxeRope.commit, CxeRope.stTarget, CxeRope.stMode,
    CxeRope.stPending, CxeRope.stStale, CxeRope.cycle, CxeRope.published]⟩

/-- Address of CXE_PORT[p] in PF0 BAR0 (R180, R561). -/
def CxePort.adr (i : Nat) : Nat := 0x401500 + 0x4 * i
def CxePort.jumbo : Fld := ⟨0x0, 0, 1, .rw, .b .portRope, 0, 0, 1⟩
def CxePort.blk : Block :=
  ⟨0x401500, [(16, 0x4)], 0x4,
   [CxePort.jumbo]⟩

/-- Address of CXE_SLICE[k] in PF0 BAR0 (R180, R561). -/
def CxeSlice.adr (i : Nat) : Nat := 0x402000 + 0x10 * i
def CxeSlice.stnFirst : Fld := ⟨0x0, 0, 12, .rwl, .l, 0, 0, 4095⟩
def CxeSlice.stnCount : Fld := ⟨0x0, 16, 13, .rwl, .l, 0, 0, 8191⟩
def CxeSlice.outBase : Fld := ⟨0x4, 0, 9, .rwl, .l, 0, 0, 511⟩
def CxeSlice.outSize : Fld := ⟨0x4, 16, 10, .rwl, .l, 0, 0, 512⟩
def CxeSlice.inBase : Fld := ⟨0x8, 0, 9, .rwl, .l, 0, 0, 511⟩
def CxeSlice.inSize : Fld := ⟨0x8, 16, 10, .rwl, .l, 0, 0, 512⟩
def CxeSlice.blk : Block :=
  ⟨0x402000, [(256, 0x10)], 0xC,
   [CxeSlice.stnFirst, CxeSlice.stnCount, CxeSlice.outBase, CxeSlice.outSize, CxeSlice.inBase,
    CxeSlice.inSize]⟩

/-- Address of CXE_X_PORT[p] (expert) in PF0 BAR0 (R180, R561). -/
def CxeXPort.adr (i : Nat) : Nat := 0x408000 + 0x4 * i
def CxeXPort.maxFrame : Fld := ⟨0x0, 0, 14, .rw, .b .portRope, 1522, 128, 9022⟩
def CxeXPort.blk : Block :=
  ⟨0x408000, [(16, 0x4)], 0x4,
   [CxeXPort.maxFrame]⟩

/-- Address of CXE_STATION[n] in PF0 BAR0 (R180, R561). -/
def CxeStn.adr (i : Nat) : Nat := 0x440000 + 0x40 * i
def CxeStn.enable : Fld := ⟨0x0, 31, 1, .rw, .b .station, 0, 0, 1⟩
def CxeStn.mode : Fld := ⟨0x0, 29, 2, .rw, .b .station, 0, 0, 1⟩
def CxeStn.redundant : Fld := ⟨0x0, 28, 1, .rw, .b .station, 0, 0, 1⟩
def CxeStn.rope : Fld := ⟨0x0, 24, 4, .rw, .b .station, 0, 0, 15⟩
def CxeStn.secPort : Fld := ⟨0x0, 20, 4, .rw, .b .station, 0, 0, 15⟩
def CxeStn.port : Fld := ⟨0x0, 16, 4, .rw, .b .station, 0, 0, 15⟩
def CxeStn.lostK : Fld := ⟨0x0, 8, 8, .rw, .b .station, 0, 0, 255⟩
def CxeStn.autoRecover : Fld := ⟨0x0, 7, 1, .rw, .b .station, 0, 0, 1⟩
def CxeStn.lostStop : Fld := ⟨0x0, 6, 1, .rw, .b .station, 0, 0, 1⟩
def CxeStn.version : Fld := ⟨0x0, 0, 4, .rw, .b .station, 1, 1, 2⟩
def CxeStn.outOffset : Fld := ⟨0x4, 0, 21, .rw, .b .station, 0, 0, 0x1FFFFF⟩
def CxeStn.outLen : Fld := ⟨0x4, 21, 11, .rw, .b .station, 0, 0, 1024⟩
def CxeStn.inOffset : Fld := ⟨0x8, 0, 21, .rw, .b .station, 0, 0, 0x1FFFFF⟩
def CxeStn.inLen : Fld := ⟨0x8, 21, 11, .rw, .b .station, 0, 0, 1024⟩
def CxeStn.rx : Fld := ⟨0xC, 10, 2, .ro, .na, 3, 0, 3⟩
def CxeStn.pathPri : Fld := ⟨0xC, 14, 1, .ro, .na, 0, 0, 1⟩
def CxeStn.pathSec : Fld := ⟨0xC, 15, 1, .ro, .na, 0, 0, 1⟩
def CxeStn.recover : Fld := ⟨0xC, 16, 1, .wo, .l, 0, 0, 1⟩
def CxeStn.rejected : Fld := ⟨0xC, 17, 1, .ro, .na, 0, 0, 1⟩
def CxeStn.late : Fld := ⟨0xC, 18, 1, .ro, .na, 0, 0, 1⟩
def CxeStn.lost : Fld := ⟨0xC, 19, 1, .ro, .na, 0, 0, 1⟩
def CxeStn.remote : Fld := ⟨0xC, 20, 4, .ro, .na, 0, 0, 15⟩
def CxeStn.streak : Fld := ⟨0xC, 24, 8, .ro, .na, 0, 0, 255⟩
def CxeStn.outS : Fld := ⟨0xC, 8, 2, .ro, .na, 0, 0, 3⟩
def CxeStn.cycleLow : Fld := ⟨0xC, 0, 8, .ro, .na, 0, 0, 255⟩
def CxeStn.blk : Block :=
  ⟨0x440000, [(4096, 0x40)], 0x10,
   [CxeStn.enable, CxeStn.mode, CxeStn.redundant, CxeStn.rope, CxeStn.secPort, CxeStn.port,
    CxeStn.lostK, CxeStn.autoRecover, CxeStn.lostStop, CxeStn.version, CxeStn.outOffset,
    CxeStn.outLen, CxeStn.inOffset, CxeStn.inLen, CxeStn.rx, CxeStn.pathPri, CxeStn.pathSec,
    CxeStn.recover, CxeStn.rejected, CxeStn.late, CxeStn.lost, CxeStn.remote, CxeStn.streak,
    CxeStn.outS, CxeStn.cycleLow]⟩

/-- Address of CXE_TEMPLATE[t], word w of the 2 KB block in PF0 BAR0 (R167, R561).  The bits that R167 and R168 give as 0 are
stored and read back as written, the block being RW (R180; DESIGN CHOICE, log 118). -/
def CxeTmpl.adr (i j : Nat) : Nat := 0x480000 + 0x800 * i + 0x4 * j
def CxeTmpl.word : Fld := ⟨0x0, 0, 32, .rw, .b .template, 0, 0, 0xFFFFFFFF⟩
def CxeTmpl.blk : Block :=
  ⟨0x480000, [(64, 0x800), (512, 0x4)], 0x4,
   [CxeTmpl.word]⟩

/-- Address of CXE_PORT_ROPE[p][r] in PF0 BAR0 (R180, R561). -/
def CxePortRope.adr (i j : Nat) : Nat := 0x4A0000 + 0x200 * i + 0x20 * j
def CxePortRope.launch : Fld := ⟨0x0, 0, 28, .rw, .b .rope, 250, 0, 0xFFFFFFF⟩
def CxePortRope.daLow : Fld := ⟨0x4, 0, 32, .rw, .b .rope, 0, 0, 0xFFFFFFFF⟩
def CxePortRope.tagged : Fld := ⟨0x8, 31, 1, .rw, .b .rope, 0, 0, 1⟩
def CxePortRope.pcp : Fld := ⟨0x8, 28, 3, .rw, .b .rope, 0, 0, 7⟩
def CxePortRope.vid : Fld := ⟨0x8, 16, 12, .rw, .b .rope, 0, 0, 4095⟩
def CxePortRope.daHigh : Fld := ⟨0x8, 0, 16, .rw, .b .rope, 0, 0, 65535⟩
def CxePortRope.frames : Fld := ⟨0xC, 24, 8, .ro, .na, 0, 0, 255⟩
def CxePortRope.wireBytes : Fld := ⟨0xC, 0, 24, .ro, .na, 0, 0, 0xFFFFFF⟩
def CxePortRope.blk : Block :=
  ⟨0x4A0000, [(16, 0x200), (16, 0x20)], 0x10,
   [CxePortRope.launch, CxePortRope.daLow, CxePortRope.tagged, CxePortRope.pcp, CxePortRope.vid,
    CxePortRope.daHigh, CxePortRope.frames, CxePortRope.wireBytes]⟩

/-- Address of MPI_CAM_PAGE in PF0 BAR0 (R216, R561). -/
def MpiCamPage.adr : Nat := 0x501000
def MpiCamPage.page : Fld := ⟨0x0, 0, 5, .rwl, .l, 0, 0, 23⟩
def MpiCamPage.blk : Block :=
  ⟨0x501000, [], 0x4,
   [MpiCamPage.page]⟩

/-- Address of MPI_AXIS_RELEASE in PF0 BAR0 (R216, R561). -/
def MpiAxisRelease.adr : Nat := 0x501004
def MpiAxisRelease.axis : Fld := ⟨0x0, 0, 12, .wo, .l, 0, 0, 4095⟩
def MpiAxisRelease.blk : Block :=
  ⟨0x501004, [], 0x4,
   [MpiAxisRelease.axis]⟩

/-- Address of MPI_STATUS in PF0 BAR0 (R216, R561). -/
def MpiStatus.adr : Nat := 0x501008
def MpiStatus.invalid : Fld := ⟨0x0, 0, 16, .ro, .na, 65535, 0, 65535⟩
def MpiStatus.blk : Block :=
  ⟨0x501008, [], 0x4,
   [MpiStatus.invalid]⟩

/-- Address of MPI_MASTER[k] in PF0 BAR0 (R216, R561). -/
def MpiMaster.adr (i : Nat) : Nat := 0x501100 + 0x80 * i
def MpiMaster.enable : Fld := ⟨0x0, 31, 1, .rwl, .b .snapshot, 0, 0, 1⟩
def MpiMaster.source : Fld := ⟨0x0, 29, 2, .rwl, .b .masterOff, 0, 0, 3⟩
def MpiMaster.exportF : Fld := ⟨0x0, 28, 1, .rwl, .b .snapshot, 0, 0, 1⟩
def MpiMaster.staleStop : Fld := ⟨0x0, 27, 1, .rwl, .l, 0, 0, 1⟩
def MpiMaster.rope : Fld := ⟨0x0, 20, 4, .rwl, .b .masterOff, 0, 0, 15⟩
def MpiMaster.station : Fld := ⟨0x0, 0, 12, .rwl, .b .masterOff, 0, 0, 4095⟩
def MpiMaster.in64 : Fld := ⟨0x4, 31, 1, .rwl, .b .masterOff, 0, 0, 1⟩
def MpiMaster.inOff : Fld := ⟨0x4, 0, 10, .rwl, .b .masterOff, 0, 0, 1023⟩
def MpiMaster.modulus : Fld := ⟨0x8, 0, 32, .rwl, .b .masterOff, 0, 0, 0xFFFFFFFF⟩
def MpiMaster.maxAge : Fld := ⟨0xC, 0, 32, .rwl, .l, 0, 0, 0xFFFFFFFF⟩
def MpiMaster.placeLead : Fld := ⟨0x10, 0, 16, .rwl, .b .snapshot, 5000, 1000, 65535⟩
def MpiMaster.exportConn : Fld := ⟨0x14, 0, 20, .rwl, .b .snapshot, 0, 0, 0xFFFFF⟩
def MpiMaster.inMul : Fld := ⟨0x18, 0, 64, .rwl, .b .masterOff, 0, 0, 0xFFFFFFFFFFFFFFFF⟩
def MpiMaster.vtarget : Fld := ⟨0x20, 0, 64, .rwl, .l, 0, 0, 0xFFFFFFFFFFFFFFFF⟩
def MpiMaster.acc : Fld := ⟨0x28, 0, 64, .rwl, .l, 0x100000000, 0, 0xFFFFFFFFFFFFFFFF⟩
def MpiMaster.jerk : Fld := ⟨0x30, 0, 64, .rwl, .l, 0x100000000, 0, 0xFFFFFFFFFFFFFFFF⟩
def MpiMaster.stopAcc : Fld := ⟨0x38, 0, 64, .rwl, .l, 0x100000000, 0, 0xFFFFFFFFFFFFFFFF⟩
def MpiMaster.stopJerk : Fld := ⟨0x40, 0, 64, .rwl, .l, 0x100000000, 0, 0xFFFFFFFFFFFFFFFF⟩
def MpiMaster.exportKey : Fld := ⟨0x48, 0, 32, .rwl, .b .snapshot, 0, 0, 0xFFFFFFFF⟩
def MpiMaster.exportAddr : Fld := ⟨0x50, 0, 64, .rwl, .b .snapshot, 0, 0, 0xFFFFFFFFFFFFFFFF⟩
def MpiMaster.push : Fld := ⟨0x58, 0, 1, .wo, .l, 0, 0, 1⟩
def MpiMaster.blk : Block :=
  ⟨0x501100, [(16, 0x80)], 0x5C,
   [MpiMaster.enable, MpiMaster.source, MpiMaster.exportF, MpiMaster.staleStop, MpiMaster.rope,
    MpiMaster.station, MpiMaster.in64, MpiMaster.inOff, MpiMaster.modulus, MpiMaster.maxAge,
    MpiMaster.placeLead, MpiMaster.exportConn, MpiMaster.inMul, MpiMaster.vtarget, MpiMaster.acc,
    MpiMaster.jerk, MpiMaster.stopAcc, MpiMaster.stopJerk, MpiMaster.exportKey,
    MpiMaster.exportAddr, MpiMaster.push]⟩

/-- Address of MPI_MASTER_SLOT[k] in PF0 BAR0 (R185, R561). -/
def MpiSlot.adr (i : Nat) : Nat := 0x540000 + 0x20 * i
def MpiSlot.position : Fld := ⟨0x0, 0, 64, .ro, .na, 0, 0, 0xFFFFFFFFFFFFFFFF⟩
def MpiSlot.velocity : Fld := ⟨0x8, 0, 64, .ro, .na, 0, 0, 0xFFFFFFFFFFFFFFFF⟩
def MpiSlot.time : Fld := ⟨0x10, 0, 32, .ro, .na, 0, 0, 0xFFFFFFFF⟩
def MpiSlot.seq : Fld := ⟨0x14, 0, 16, .ro, .na, 0, 0, 65535⟩
def MpiSlot.valid : Fld := ⟨0x14, 16, 1, .ro, .na, 0, 0, 1⟩
def MpiSlot.stale : Fld := ⟨0x14, 17, 1, .ro, .na, 0, 0, 1⟩
def MpiSlot.stopping : Fld := ⟨0x14, 18, 1, .ro, .na, 0, 0, 1⟩
def MpiSlot.wraps : Fld := ⟨0x18, 0, 32, .ro, .na, 0, 0, 0xFFFFFFFF⟩
def MpiSlot.blk : Block :=
  ⟨0x540000, [(16, 0x20)], 0x1C,
   [MpiSlot.position, MpiSlot.velocity, MpiSlot.time, MpiSlot.seq, MpiSlot.valid, MpiSlot.stale,
    MpiSlot.stopping, MpiSlot.wraps]⟩

/-- Address of MPI_HOST_SLOT[k] bytes 0–21 in PF0 BAR0 (R185, R561). -/
def MpiHostSlot.adr (i : Nat) : Nat := 0x540400 + 0x20 * i
def MpiHostSlot.position : Fld := ⟨0x0, 0, 64, .rwl, .l, 0, 0, 0xFFFFFFFFFFFFFFFF⟩
def MpiHostSlot.velocity : Fld := ⟨0x8, 0, 64, .rwl, .l, 0, 0, 0xFFFFFFFFFFFFFFFF⟩
def MpiHostSlot.time : Fld := ⟨0x10, 0, 32, .rwl, .l, 0, 0, 0xFFFFFFFF⟩
def MpiHostSlot.seq : Fld := ⟨0x14, 0, 16, .rwl, .l, 0, 0, 65535⟩
def MpiHostSlot.blk : Block :=
  ⟨0x540400, [(16, 0x20)], 0x18,
   [MpiHostSlot.position, MpiHostSlot.velocity, MpiHostSlot.time, MpiHostSlot.seq]⟩

/-- Address of MPI_CAM[k] in PF0 BAR0 (R216, R561). -/
def MpiCam.adr (i : Nat) : Nat := 0x541000 + 0x10 * i
def MpiCam.valid : Fld := ⟨0x0, 31, 1, .rwl, .l, 0, 0, 1⟩
def MpiCam.base : Fld := ⟨0x0, 0, 19, .rwl, .l, 0, 0, 0x7FFFF⟩
def MpiCam.count : Fld := ⟨0x4, 0, 15, .rwl, .l, 0, 2, 16384⟩
def MpiCam.period : Fld := ⟨0x8, 0, 32, .rwl, .l, 0, 1, 0xFFFFFFFF⟩
def MpiCam.blk : Block :=
  ⟨0x541000, [(256, 0x10)], 0xC,
   [MpiCam.valid, MpiCam.base, MpiCam.count, MpiCam.period]⟩

/-- Address of MPI_AXIS_STATE[a] in PF0 BAR0 (R216, R561). -/
def MpiAxisState.adr (i : Nat) : Nat := 0x550000 + 0x10 * i
def MpiAxisState.lastOut : Fld := ⟨0x0, 0, 64, .ro, .na, 0, 0, 0xFFFFFFFFFFFFFFFF⟩
def MpiAxisState.feStreak : Fld := ⟨0x8, 24, 8, .ro, .na, 0, 0, 255⟩
def MpiAxisState.state : Fld := ⟨0x8, 20, 4, .ro, .na, 0, 0, 15⟩
def MpiAxisState.cause : Fld := ⟨0x8, 16, 4, .ro, .na, 0, 0, 15⟩
def MpiAxisState.lastErr : Fld := ⟨0xC, 0, 32, .ro, .na, 0, 0, 0xFFFFFFFF⟩
def MpiAxisState.blk : Block :=
  ⟨0x550000, [(4096, 0x10)], 0x10,
   [MpiAxisState.lastOut, MpiAxisState.feStreak, MpiAxisState.state, MpiAxisState.cause,
    MpiAxisState.lastErr]⟩

/-- Address of MPI_AXIS[a] in PF0 BAR0 (R216, R561). -/
def MpiAxis.adr (i : Nat) : Nat := 0x580000 + 0x40 * i
def MpiAxis.enable : Fld := ⟨0x0, 31, 1, .rw, .b .axis, 0, 0, 1⟩
def MpiAxis.camEn : Fld := ⟨0x0, 30, 1, .rw, .b .axis, 0, 0, 1⟩
def MpiAxis.outFmt : Fld := ⟨0x0, 28, 2, .rw, .b .axis, 0, 0, 1⟩
def MpiAxis.velEn : Fld := ⟨0x0, 27, 1, .rw, .b .axis, 0, 0, 1⟩
def MpiAxis.feAction : Fld := ⟨0x0, 24, 3, .rw, .b .axis, 0, 0, 2⟩
def MpiAxis.master : Fld := ⟨0x0, 20, 4, .rw, .b .axis, 0, 0, 15⟩
def MpiAxis.cam : Fld := ⟨0x0, 12, 8, .rw, .b .axis, 0, 0, 255⟩
def MpiAxis.station : Fld := ⟨0x0, 0, 12, .rw, .b .axis, 0, 0, 4095⟩
def MpiAxis.velOff : Fld := ⟨0x4, 16, 10, .rw, .b .axis, 0, 0, 1023⟩
def MpiAxis.posOff : Fld := ⟨0x4, 0, 10, .rw, .b .axis, 0, 0, 1023⟩
def MpiAxis.feN : Fld := ⟨0x8, 24, 8, .rw, .b .axis, 0, 0, 255⟩
def MpiAxis.actOff : Fld := ⟨0x8, 0, 10, .rw, .b .axis, 0, 0, 1023⟩
def MpiAxis.velShift : Fld := ⟨0xC, 8, 6, .rw, .b .axis, 32, 0, 63⟩
def MpiAxis.outShift : Fld := ⟨0xC, 0, 6, .rw, .b .axis, 32, 0, 63⟩
def MpiAxis.outMul : Fld := ⟨0x10, 0, 32, .rw, .b .axis, 1, 0, 0xFFFFFFFF⟩
def MpiAxis.velMul : Fld := ⟨0x14, 0, 32, .rw, .b .axis, 1, 0, 0xFFFFFFFF⟩
def MpiAxis.offset : Fld := ⟨0x18, 0, 64, .rw, .b .axis, 0, 0, 0xFFFFFFFFFFFFFFFF⟩
def MpiAxis.m0 : Fld := ⟨0x20, 0, 64, .rw, .b .axis, 0, 0, 0xFFFFFFFFFFFFFFFF⟩
def MpiAxis.num : Fld := ⟨0x28, 0, 32, .rw, .b .axis, 0, 0, 0xFFFFFFFF⟩
def MpiAxis.den : Fld := ⟨0x2C, 0, 32, .rw, .b .axis, 1, 1, 0xFFFFFFFF⟩
def MpiAxis.camScale : Fld := ⟨0x30, 0, 64, .rw, .b .axis, 0x100000000, 0, 0xFFFFFFFFFFFFFFFF⟩
def MpiAxis.feLimit : Fld := ⟨0x38, 0, 32, .rw, .l, 0, 0, 0xFFFFFFFF⟩
def MpiAxis.blk : Block :=
  ⟨0x580000, [(4096, 0x40)], 0x3C,
   [MpiAxis.enable, MpiAxis.camEn, MpiAxis.outFmt, MpiAxis.velEn, MpiAxis.feAction,
    MpiAxis.master, MpiAxis.cam, MpiAxis.station, MpiAxis.velOff, MpiAxis.posOff, MpiAxis.feN,
    MpiAxis.actOff, MpiAxis.velShift, MpiAxis.outShift, MpiAxis.outMul, MpiAxis.velMul,
    MpiAxis.offset, MpiAxis.m0, MpiAxis.num, MpiAxis.den, MpiAxis.camScale, MpiAxis.feLimit]⟩

/-- Address of PP_CTRL in PF0 BAR0 (R252, R561). `u` is the role, 0–3: the window is that of unit U06 + u. -/
def PpCtrl.adr (u : Nat) : Nat := 0x601000 + 0x100000 * u
def PpCtrl.flowEn : Fld := ⟨0x0, 8, 1, .rw, .b .headIn, 0, 0, 1⟩
def PpCtrl.keyInner : Fld := ⟨0x0, 7, 1, .rw, .b .headIn, 0, 0, 1⟩
def PpCtrl.aclWide : Fld := ⟨0x0, 6, 1, .rw, .s, 0, 0, 1⟩
def PpCtrl.aclEn : Fld := ⟨0x0, 5, 1, .rw, .b .headIn, 0, 0, 1⟩
def PpCtrl.truncAction : Fld := ⟨0x0, 2, 2, .rw, .b .headIn, 0, 0, 2⟩
def PpCtrl.excAction : Fld := ⟨0x0, 0, 2, .rw, .b .headIn, 0, 0, 2⟩
def PpCtrl.blk : Block :=
  ⟨0x601000, [(4, 0x100000)], 0x4,
   [PpCtrl.flowEn, PpCtrl.keyInner, PpCtrl.aclWide, PpCtrl.aclEn, PpCtrl.truncAction,
    PpCtrl.excAction]⟩

/-- Address of PP_ROLE in PF0 BAR0 (R252, R561). `u` is the role, 0–4: the window is that of unit U06 + u. -/
def PpRole.adr (u : Nat) : Nat := 0x601004 + 0x100000 * u
def PpRole.physical : Fld := ⟨0x0, 8, 3, .ro, .na, 0, 0, 7⟩
def PpRole.role : Fld := ⟨0x0, 0, 4, .ro, .na, 0, 0, 15⟩
def PpRole.blk : Block :=
  ⟨0x601004, [(5, 0x100000)], 0x4,
   [PpRole.physical, PpRole.role]⟩

/-- Address of PP_TPID in PF0 BAR0 (R252, R561). `u` is the role, 0–3: the window is that of unit U06 + u. -/
def PpTpid.adr (u : Nat) : Nat := 0x601008 + 0x100000 * u
def PpTpid.enable : Fld := ⟨0x0, 16, 1, .rw, .b .headIn, 0, 0, 1⟩
def PpTpid.tpid : Fld := ⟨0x0, 0, 16, .rw, .b .headIn, 37120, 0, 65535⟩
def PpTpid.blk : Block :=
  ⟨0x601008, [(4, 0x100000)], 0x4,
   [PpTpid.enable, PpTpid.tpid]⟩

/-- Address of PP_TUNNEL_PORTS in PF0 BAR0 (R252, R561). `u` is the role, 0–3: the window is that of unit U06 + u. -/
def PpTunnel.adr (u : Nat) : Nat := 0x60100C + 0x100000 * u
def PpTunnel.geneve : Fld := ⟨0x0, 16, 16, .rw, .b .headIn, 6081, 0, 65535⟩
def PpTunnel.vxlan : Fld := ⟨0x0, 0, 16, .rw, .b .headIn, 4789, 0, 65535⟩
def PpTunnel.blk : Block :=
  ⟨0x60100C, [(4, 0x100000)], 0x4,
   [PpTunnel.geneve, PpTunnel.vxlan]⟩

/-- Address of PP_EVENT_HOLDOFF in PF0 BAR0 (R252, R561). `u` is the role, 0–3: the window is that of unit U06 + u. -/
def PpHoldoff.adr (u : Nat) : Nat := 0x601010 + 0x100000 * u
def PpHoldoff.microseconds : Fld := ⟨0x0, 0, 16, .rw, .l, 1000, 1, 65535⟩
def PpHoldoff.blk : Block :=
  ⟨0x601010, [(4, 0x100000)], 0x4,
   [PpHoldoff.microseconds]⟩

/-- Address of PP_INDIR_PAGE in PF0 BAR0 (R252, R561). `u` is the role, 0–3: the window is that of unit U06 + u. -/
def PpIndirPage.adr (u : Nat) : Nat := 0x601014 + 0x100000 * u
def PpIndirPage.slice : Fld := ⟨0x0, 0, 8, .rwl, .l, 0, 0, 255⟩
def PpIndirPage.blk : Block :=
  ⟨0x601014, [(4, 0x100000)], 0x4,
   [PpIndirPage.slice]⟩

/-- Address of PP_ROUTER_MAC in PF0 BAR0 (R252, R561). `u` is the role, 0–3: the window is that of unit U06 + u. -/
def PpRouterMac.adr (u : Nat) : Nat := 0x601018 + 0x100000 * u
def PpRouterMac.enable : Fld := ⟨0x0, 63, 1, .rw, .b .headIn, 0, 0, 1⟩
def PpRouterMac.address : Fld := ⟨0x0, 0, 48, .rw, .b .headIn, 0, 0, 0xFFFFFFFFFFFF⟩
def PpRouterMac.blk : Block :=
  ⟨0x601018, [(4, 0x100000)], 0x8,
   [PpRouterMac.enable, PpRouterMac.address]⟩

/-- Address of PP_HASH_SET[h]; the reset of set 0 is 0x00F in PF0 BAR0 (R252, R561). `u` is the role, 0–3: the window is that of unit U06 + u. -/
def PpHashSet.adr (u i : Nat) : Nat := 0x601020 + 0x100000 * u + 0x4 * i
def PpHashSet.inner : Fld := ⟨0x0, 9, 1, .rw, .b .headIn, 0, 0, 1⟩
def PpHashSet.fields : Fld := ⟨0x0, 0, 9, .rw, .b .headIn, 0, 0, 511⟩
def PpHashSet.blk : Block :=
  ⟨0x601020, [(4, 0x100000), (4, 0x4)], 0x4,
   [PpHashSet.inner, PpHashSet.fields]⟩

/-- Address of PP_TRAP[c] in PF0 BAR0 (R252, R561). `u` is the role, 0–3: the window is that of unit U06 + u. -/
def PpTrap.adr (u i : Nat) : Nat := 0x601040 + 0x100000 * u + 0x4 * i
def PpTrap.enable : Fld := ⟨0x0, 31, 1, .rw, .b .headIn, 0, 0, 1⟩
def PpTrap.queue : Fld := ⟨0x0, 0, 12, .rw, .b .headIn, 0, 0, 4095⟩
def PpTrap.blk : Block :=
  ⟨0x601040, [(4, 0x100000), (4, 0x4)], 0x4,
   [PpTrap.enable, PpTrap.queue]⟩

/-- Address of PP_PORT[i] in PF0 BAR0 (R252, R561). `u` is the role, 0–3: the window is that of unit U06 + u. -/
def PpPort.adr (u i : Nat) : Nat := 0x601100 + 0x100000 * u + 0x10 * i
def PpPort.deep : Fld := ⟨0x0, 31, 1, .rw, .s, 0, 0, 1⟩
def PpPort.deepWindow : Fld := ⟨0x0, 24, 4, .rw, .s, 8, 2, 8⟩
def PpPort.user : Fld := ⟨0x0, 20, 4, .rw, .b .headIn, 0, 0, 15⟩
def PpPort.trapSlice : Fld := ⟨0x0, 12, 8, .rw, .b .headIn, 0, 0, 255⟩
def PpPort.bd : Fld := ⟨0x0, 0, 12, .rw, .b .headIn, 0, 0, 4095⟩
def PpPort.bdFromVid : Fld := ⟨0x4, 31, 1, .rw, .b .headIn, 0, 0, 1⟩
def PpPort.policer : Fld := ⟨0x4, 0, 10, .rw, .b .headIn, 0, 0, 1023⟩
def PpPort.holdDrop : Fld := ⟨0x8, 0, 32, .ro, .na, 0, 0, 0xFFFFFFFF⟩
def PpPort.blk : Block :=
  ⟨0x601100, [(4, 0x100000), (8, 0x10)], 0xC,
   [PpPort.deep, PpPort.deepWindow, PpPort.user, PpPort.trapSlice, PpPort.bd, PpPort.bdFromVid,
    PpPort.policer, PpPort.holdDrop]⟩

/-- Address of PP_PATTERN[n] in PF0 BAR0 (R252, R561). `u` is the role, 0–3: the window is that of unit U06 + u. -/
def PpPattern.adr (u i : Nat) : Nat := 0x640000 + 0x100000 * u + 0x40 * i
def PpPattern.enable : Fld := ⟨0x0, 31, 1, .rw, .b .pattern, 0, 0, 1⟩
def PpPattern.pclass : Fld := ⟨0x0, 24, 4, .rw, .b .pattern, 0, 0, 15⟩
def PpPattern.offset : Fld := ⟨0x0, 0, 8, .rw, .b .pattern, 0, 0, 240⟩
def PpPattern.value : Fld := ⟨0x10, 0, 128, .rw, .b .pattern, 0, 0, 0xFFFFFFFFFFFFFFFFFFFFFFFFFFFFFFFF⟩
def PpPattern.maskf : Fld := ⟨0x20, 0, 128, .rw, .b .pattern, 0, 0, 0xFFFFFFFFFFFFFFFFFFFFFFFFFFFFFFFF⟩
def PpPattern.blk : Block :=
  ⟨0x640000, [(4, 0x100000), (64, 0x40)], 0x30,
   [PpPattern.enable, PpPattern.pclass, PpPattern.offset, PpPattern.value, PpPattern.maskf]⟩

/-- Address of PP_SEQREC[i], i = 1–1,023 in PF0 BAR0 (R252, R561). `u` is the role, 0–3: the window is that of unit U06 + u. The last index counts from 1. -/
def PpSeqrec.adr (u i : Nat) : Nat := 0x641000 + 0x100000 * u + 0x20 * i
def PpSeqrec.enable : Fld := ⟨0x0, 31, 1, .rw, .b .headIn, 0, 0, 1⟩
def PpSeqrec.pop : Fld := ⟨0x0, 30, 1, .rw, .b .headIn, 0, 0, 1⟩
def PpSeqrec.hist : Fld := ⟨0x0, 24, 6, .rw, .b .headIn, 2, 2, 32⟩
def PpSeqrec.members : Fld := ⟨0x0, 16, 8, .rw, .b .headIn, 0, 0, 255⟩
def PpSeqrec.reset : Fld := ⟨0x0, 0, 16, .rw, .b .headIn, 1000, 1, 65535⟩
def PpSeqrec.fresh : Fld := ⟨0x4, 16, 1, .ro, .na, 1, 0, 1⟩
def PpSeqrec.recovSeq : Fld := ⟨0x4, 0, 16, .ro, .na, 0, 0, 65535⟩
def PpSeqrec.passed : Fld := ⟨0x8, 0, 32, .ro, .na, 0, 0, 0xFFFFFFFF⟩
def PpSeqrec.duplicate : Fld := ⟨0xC, 0, 32, .ro, .na, 0, 0, 0xFFFFFFFF⟩
def PpSeqrec.rogue : Fld := ⟨0x10, 0, 32, .ro, .na, 0, 0, 0xFFFFFFFF⟩
def PpSeqrec.blk : Block :=
  ⟨0x641020, [(4, 0x100000), (1023, 0x20)], 0x14,
   [PpSeqrec.enable, PpSeqrec.pop, PpSeqrec.hist, PpSeqrec.members, PpSeqrec.reset,
    PpSeqrec.fresh, PpSeqrec.recovSeq, PpSeqrec.passed, PpSeqrec.duplicate, PpSeqrec.rogue]⟩

/-- Address of PP_HASH_KEY[s] word w in PF0 BAR0 (R252, R561). `u` is the role, 0–3: the window is that of unit U06 + u. -/
def PpHashKey.adr (u i j : Nat) : Nat := 0x650000 + 0x100000 * u + 0x40 * i + 0x4 * j
def PpHashKey.key : Fld := ⟨0x0, 0, 32, .rw, .b .hashKey, 0, 0, 0xFFFFFFFF⟩
def PpHashKey.blk : Block :=
  ⟨0x650000, [(4, 0x100000), (256, 0x40), (10, 0x4)], 0x4,
   [PpHashKey.key]⟩

/-- Address of EMT_CMD in PF0 BAR0 (R292, R561). -/
def EmtCmd.adr : Nat := 0xB01000
def EmtCmd.busy : Fld := ⟨0x0, 31, 1, .ro, .na, 0, 0, 1⟩
def EmtCmd.status : Fld := ⟨0x0, 24, 4, .ro, .na, 0, 0, 15⟩
def EmtCmd.hit : Fld := ⟨0x0, 23, 1, .ro, .na, 0, 0, 1⟩
def EmtCmd.table : Fld := ⟨0x0, 16, 4, .rwl, .l, 0, 0, 15⟩
def EmtCmd.op : Fld := ⟨0x0, 0, 4, .wo, .l, 0, 0, 15⟩
def EmtCmd.blk : Block :=
  ⟨0xB01000, [], 0x4,
   [EmtCmd.busy, EmtCmd.status, EmtCmd.hit, EmtCmd.table, EmtCmd.op]⟩

/-- Address of EMT_EVENT_HOLDOFF in PF0 BAR0 (R292, R561). -/
def EmtHoldoff.adr : Nat := 0xB01004
def EmtHoldoff.microseconds : Fld := ⟨0x0, 0, 16, .rw, .l, 1000, 1, 65535⟩
def EmtHoldoff.blk : Block :=
  ⟨0xB01004, [], 0x4,
   [EmtHoldoff.microseconds]⟩

/-- Address of EMT_CMD_DATA[w] in PF0 BAR0 (R292, R561). -/
def EmtCmdData.adr (i : Nat) : Nat := 0xB01040 + 0x4 * i
def EmtCmdData.data : Fld := ⟨0x0, 0, 32, .rwl, .l, 0, 0, 0xFFFFFFFF⟩
def EmtCmdData.blk : Block :=
  ⟨0xB01040, [(16, 0x4)], 0x4,
   [EmtCmdData.data]⟩

/-- Address of EMT_TABLE[t] in PF0 BAR0 (R292, R561). -/
def EmtTable.adr (i : Nat) : Nat := 0xB01100 + 0x20 * i
def EmtTable.enable : Fld := ⟨0x0, 31, 1, .rw, .s, 0, 0, 1⟩
def EmtTable.kind : Fld := ⟨0x0, 28, 3, .rw, .s, 0, 0, 2⟩
def EmtTable.role : Fld := ⟨0x0, 26, 2, .rw, .s, 0, 0, 3⟩
def EmtTable.access : Fld := ⟨0x0, 25, 1, .rw, .s, 0, 0, 1⟩
def EmtTable.errmode : Fld := ⟨0x0, 24, 1, .rw, .s, 0, 0, 1⟩
def EmtTable.firstBank : Fld := ⟨0x0, 20, 4, .rw, .s, 0, 0, 15⟩
def EmtTable.banks : Fld := ⟨0x0, 18, 2, .rw, .s, 0, 0, 3⟩
def EmtTable.seed0 : Fld := ⟨0x4, 0, 32, .rw, .s, 0xFFFFFFFF, 0, 0xFFFFFFFF⟩
def EmtTable.seed1 : Fld := ⟨0x8, 0, 32, .rw, .s, 0xFFFFFFFF, 0, 0xFFFFFFFF⟩
def EmtTable.ageEn : Fld := ⟨0xC, 31, 1, .rw, .l, 0, 0, 1⟩
def EmtTable.ageTime : Fld := ⟨0xC, 0, 16, .rw, .l, 300, 1, 65535⟩
def EmtTable.learnDrop : Fld := ⟨0x10, 0, 32, .ro, .na, 0, 0, 0xFFFFFFFF⟩
def EmtTable.stash : Fld := ⟨0x14, 24, 4, .ro, .na, 0, 0, 15⟩
def EmtTable.entries : Fld := ⟨0x14, 0, 22, .ro, .na, 0, 0, 0x3FFFFF⟩
def EmtTable.blk : Block :=
  ⟨0xB01100, [(16, 0x20)], 0x18,
   [EmtTable.enable, EmtTable.kind, EmtTable.role, EmtTable.access, EmtTable.errmode,
    EmtTable.firstBank, EmtTable.banks, EmtTable.seed0, EmtTable.seed1, EmtTable.ageEn,
    EmtTable.ageTime, EmtTable.learnDrop, EmtTable.stash, EmtTable.entries]⟩

/-- Address of EMT_SHADOW[t] in PF0 BAR0 (R292, R561). -/
def EmtShadow.adr (i : Nat) : Nat := 0xB01400 + 0x20 * i
def EmtShadow.address : Fld := ⟨0x0, 6, 58, .rw, .l, 0, 0, 0x3FFFFFFFFFFFFFF⟩
def EmtShadow.count : Fld := ⟨0x8, 0, 22, .rw, .l, 0, 0, 0x3FFFFF⟩
def EmtShadow.enable : Fld := ⟨0xC, 31, 1, .rw, .l, 0, 0, 1⟩
def EmtShadow.rate : Fld := ⟨0xC, 0, 10, .rw, .l, 100, 1, 1000⟩
def EmtShadow.blk : Block :=
  ⟨0xB01400, [(16, 0x20)], 0x10,
   [EmtShadow.address, EmtShadow.count, EmtShadow.enable, EmtShadow.rate]⟩

/-- Address of EMT_DMA[t] in PF0 BAR0 (R292, R561). -/
def EmtDma.adr (i : Nat) : Nat := 0xB01600 + 0x20 * i
def EmtDma.address : Fld := ⟨0x0, 7, 57, .rw, .s, 0, 0, 0x1FFFFFFFFFFFFFF⟩
def EmtDma.wait : Fld := ⟨0x8, 31, 1, .ro, .na, 0, 0, 1⟩
def EmtDma.sizeLog2 : Fld := ⟨0x8, 16, 4, .rw, .s, 4, 4, 15⟩
def EmtDma.head : Fld := ⟨0x8, 0, 16, .ro, .na, 0, 0, 65535⟩
def EmtDma.tail : Fld := ⟨0xC, 0, 16, .rw, .l, 0, 0, 65535⟩
def EmtDma.blk : Block :=
  ⟨0xB01600, [(16, 0x20)], 0x10,
   [EmtDma.address, EmtDma.wait, EmtDma.sizeLog2, EmtDma.head, EmtDma.tail]⟩

/-- Address of EMT_BD[b] in PF0 BAR0 (R292, R561). -/
def EmtBd.adr (i : Nat) : Nat := 0xB40000 + 0x8 * i
def EmtBd.learn : Fld := ⟨0x0, 31, 1, .rwl, .l, 0, 0, 1⟩
def EmtBd.floodUc : Fld := ⟨0x0, 30, 1, .rwl, .l, 1, 0, 1⟩
def EmtBd.members : Fld := ⟨0x0, 0, 25, .rwl, .l, 0, 0, 0x1FFFFFF⟩
def EmtBd.hostQueue : Fld := ⟨0x4, 16, 12, .rwl, .l, 0, 0, 4095⟩
def EmtBd.vrf : Fld := ⟨0x4, 0, 12, .rwl, .l, 0, 0, 4095⟩
def EmtBd.blk : Block :=
  ⟨0xB40000, [(4096, 0x8)], 0x8,
   [EmtBd.learn, EmtBd.floodUc, EmtBd.members, EmtBd.hostQueue, EmtBd.vrf]⟩

/-- Address of EMT_SEQGEN[r][i], i = 1–1,023 in PF0 BAR0 (R292, R561). The last index counts from 1. -/
def EmtSeqgen.adr (i j : Nat) : Nat := 0xB50000 + 0x1000 * i + 0x4 * j
def EmtSeqgen.next : Fld := ⟨0x0, 0, 16, .rw, .l, 0, 0, 65535⟩
def EmtSeqgen.blk : Block :=
  ⟨0xB50004, [(4, 0x1000), (1023, 0x4)], 0x4,
   [EmtSeqgen.next]⟩

/-- Address of EMT_QUOTA[t][k] in PF0 BAR0 (R292, R561). -/
def EmtQuota.adr (i j : Nat) : Nat := 0xB60000 + 0x800 * i + 0x8 * j
def EmtQuota.limit : Fld := ⟨0x0, 32, 32, .rwl, .l, 0, 0, 0xFFFFFFFF⟩
def EmtQuota.used : Fld := ⟨0x0, 0, 32, .ro, .na, 0, 0, 0xFFFFFFFF⟩
def EmtQuota.blk : Block :=
  ⟨0xB60000, [(16, 0x800), (256, 0x8)], 0x8,
   [EmtQuota.limit, EmtQuota.used]⟩

/-- Address of EMT_STASH[t][s] word w in PF0 BAR0 (R292, R561). -/
def EmtStash.adr (i j k : Nat) : Nat := 0xB70000 + 0x200 * i + 0x40 * j + 0x4 * k
def EmtStash.word : Fld := ⟨0x0, 0, 32, .ro, .na, 0, 0, 0xFFFFFFFF⟩
def EmtStash.blk : Block :=
  ⟨0xB70000, [(16, 0x200), (8, 0x40), (16, 0x4)], 0x4,
   [EmtStash.word]⟩

/-- Address of TCM_CMD in PF0 BAR0 (R293, R561). -/
def TcmCmd.adr : Nat := 0xC01000
def TcmCmd.busy : Fld := ⟨0x0, 31, 1, .ro, .na, 0, 0, 1⟩
def TcmCmd.status : Fld := ⟨0x0, 24, 4, .ro, .na, 0, 0, 15⟩
def TcmCmd.valid : Fld := ⟨0x0, 23, 1, .ro, .na, 0, 0, 1⟩
def TcmCmd.part : Fld := ⟨0x0, 16, 3, .rwl, .l, 0, 0, 7⟩
def TcmCmd.op : Fld := ⟨0x0, 0, 4, .wo, .l, 0, 0, 15⟩
def TcmCmd.blk : Block :=
  ⟨0xC01000, [], 0x4,
   [TcmCmd.busy, TcmCmd.status, TcmCmd.valid, TcmCmd.part, TcmCmd.op]⟩

/-- Address of TCM_CMD_INDEX in PF0 BAR0 (R293, R561). -/
def TcmCmdIndex.adr : Nat := 0xC01004
def TcmCmdIndex.index : Fld := ⟨0x0, 0, 18, .rwl, .l, 0, 0, 0x3FFFF⟩
def TcmCmdIndex.blk : Block :=
  ⟨0xC01004, [], 0x4,
   [TcmCmdIndex.index]⟩

/-- Address of TCM_EVENT_HOLDOFF in PF0 BAR0 (R293, R561). -/
def TcmHoldoff.adr : Nat := 0xC01008
def TcmHoldoff.microseconds : Fld := ⟨0x0, 0, 16, .rw, .l, 1000, 1, 65535⟩
def TcmHoldoff.blk : Block :=
  ⟨0xC01008, [], 0x4,
   [TcmHoldoff.microseconds]⟩

/-- Address of TCM_CMD_VALUE[w] in PF0 BAR0 (R293, R561). -/
def TcmCmdValue.adr (i : Nat) : Nat := 0xC01040 + 0x4 * i
def TcmCmdValue.bits : Fld := ⟨0x0, 0, 32, .rwl, .l, 0, 0, 0xFFFFFFFF⟩
def TcmCmdValue.blk : Block :=
  ⟨0xC01040, [(20, 0x4)], 0x4,
   [TcmCmdValue.bits]⟩

/-- Address of TCM_CMD_MASK[w] in PF0 BAR0 (R293, R561). -/
def TcmCmdMask.adr (i : Nat) : Nat := 0xC01090 + 0x4 * i
def TcmCmdMask.bits : Fld := ⟨0x0, 0, 32, .rwl, .l, 0, 0, 0xFFFFFFFF⟩
def TcmCmdMask.blk : Block :=
  ⟨0xC01090, [(20, 0x4)], 0x4,
   [TcmCmdMask.bits]⟩

/-- Address of TCM_CMD_DATA in PF0 BAR0 (R293, R561). -/
def TcmCmdData.adr : Nat := 0xC010E0
def TcmCmdData.data : Fld := ⟨0x0, 0, 64, .rwl, .l, 0, 0, 0xFFFFFFFFFFFFFFFF⟩
def TcmCmdData.blk : Block :=
  ⟨0xC010E0, [], 0x8,
   [TcmCmdData.data]⟩

/-- Address of TCM_PART[p] in PF0 BAR0 (R293, R561). -/
def TcmPart.adr (i : Nat) : Nat := 0xC01100 + 0x10 * i
def TcmPart.enable : Fld := ⟨0x0, 31, 1, .rw, .s, 0, 0, 1⟩
def TcmPart.kind : Fld := ⟨0x0, 30, 1, .rw, .s, 0, 0, 1⟩
def TcmPart.role : Fld := ⟨0x0, 28, 2, .rw, .s, 0, 0, 3⟩
def TcmPart.width : Fld := ⟨0x0, 26, 2, .rw, .s, 1, 0, 2⟩
def TcmPart.copies : Fld := ⟨0x0, 24, 2, .rw, .s, 0, 0, 2⟩
def TcmPart.overrunDrop : Fld := ⟨0x0, 23, 1, .rw, .l, 0, 0, 1⟩
def TcmPart.firstBlock : Fld := ⟨0x0, 20, 3, .rw, .s, 0, 0, 7⟩
def TcmPart.blocks : Fld := ⟨0x0, 16, 4, .rw, .s, 1, 1, 8⟩
def TcmPart.roleCopy : Fld := ⟨0x0, 0, 8, .rw, .s, 0, 0, 255⟩
def TcmPart.blk : Block :=
  ⟨0xC01100, [(8, 0x10)], 0x4,
   [TcmPart.enable, TcmPart.kind, TcmPart.role, TcmPart.width, TcmPart.copies,
    TcmPart.overrunDrop, TcmPart.firstBlock, TcmPart.blocks, TcmPart.roleCopy]⟩

/-- Address of TCM_ROLE_STAT[r] in PF0 BAR0 (R293, R561). -/
def TcmRoleStat.adr (i : Nat) : Nat := 0xC01200 + 0x10 * i
def TcmRoleStat.overrun : Fld := ⟨0x0, 0, 32, .ro, .na, 0, 0, 0xFFFFFFFF⟩
def TcmRoleStat.routeMiss : Fld := ⟨0x4, 0, 32, .ro, .na, 0, 0, 0xFFFFFFFF⟩
def TcmRoleStat.ttlDrop : Fld := ⟨0x8, 0, 32, .ro, .na, 0, 0, 0xFFFFFFFF⟩
def TcmRoleStat.blk : Block :=
  ⟨0xC01200, [(4, 0x10)], 0xC,
   [TcmRoleStat.overrun, TcmRoleStat.routeMiss, TcmRoleStat.ttlDrop]⟩

/-- Address of TCM_NEXTHOP[n] in PF0 BAR0 (R288, R561). -/
def TcmNexthop.adr (i : Nat) : Nat := 0xC40000 + 0x10 * i
def TcmNexthop.dmacLo : Fld := ⟨0x0, 0, 32, .rwl, .l, 0, 0, 0xFFFFFFFF⟩
def TcmNexthop.dmacHi : Fld := ⟨0x4, 0, 16, .rwl, .l, 0, 0, 65535⟩
def TcmNexthop.vid : Fld := ⟨0x4, 16, 12, .rwl, .l, 0, 0, 4095⟩
def TcmNexthop.tagOp : Fld := ⟨0x4, 30, 2, .rwl, .l, 0, 0, 3⟩
def TcmNexthop.port : Fld := ⟨0x8, 0, 5, .rwl, .l, 0, 0, 23⟩
def TcmNexthop.decTtl : Fld := ⟨0x8, 6, 1, .rwl, .l, 0, 0, 1⟩
def TcmNexthop.valid : Fld := ⟨0x8, 7, 1, .rwl, .l, 0, 0, 1⟩
def TcmNexthop.blk : Block :=
  ⟨0xC40000, [(16384, 0x10)], 0xC,
   [TcmNexthop.dmacLo, TcmNexthop.dmacHi, TcmNexthop.vid, TcmNexthop.tagOp, TcmNexthop.port,
    TcmNexthop.decTtl, TcmNexthop.valid]⟩

/-- Address of TM_EVENT_HOLDOFF in PF0 BAR0 (R324, R561). -/
def TmHoldoff.adr : Nat := 0xD01000
def TmHoldoff.microseconds : Fld := ⟨0x0, 0, 16, .rwl, .l, 1000, 1, 65535⟩
def TmHoldoff.blk : Block :=
  ⟨0xD01000, [], 0x4,
   [TmHoldoff.microseconds]⟩

/-- Address of TM_POOL in PF0 BAR0 (R324, R561). -/
def TmPool.adr : Nat := 0xD01004
def TmPool.cxeCells : Fld := ⟨0x0, 17, 14, .ro, .na, 0, 0, 16383⟩
def TmPool.free : Fld := ⟨0x0, 0, 17, .ro, .na, 0x18000, 0, 0x1FFFF⟩
def TmPool.blk : Block :=
  ⟨0xD01004, [], 0x4,
   [TmPool.cxeCells, TmPool.free]⟩

/-- Address of TM_SAMPLE_CTRL in PF0 BAR0 (R324, R561). -/
def TmSampleCtrl.adr : Nat := 0xD01008
def TmSampleCtrl.enable : Fld := ⟨0x0, 31, 1, .rwl, .b .sweep, 0, 0, 1⟩
def TmSampleCtrl.sweeping : Fld := ⟨0x0, 30, 1, .ro, .na, 0, 0, 1⟩
def TmSampleCtrl.period : Fld := ⟨0x0, 0, 20, .rwl, .b .sweep, 1000, 1, 0xF4240⟩
def TmSampleCtrl.blk : Block :=
  ⟨0xD01008, [], 0x4,
   [TmSampleCtrl.enable, TmSampleCtrl.sweeping, TmSampleCtrl.period]⟩

/-- Address of TM_SAMPLE_SEQ in PF0 BAR0 (R324, R561). -/
def TmSampleSeq.adr : Nat := 0xD0100C
def TmSampleSeq.value : Fld := ⟨0x0, 0, 32, .ro, .na, 0, 0, 0xFFFFFFFF⟩
def TmSampleSeq.blk : Block :=
  ⟨0xD0100C, [], 0x4,
   [TmSampleSeq.value]⟩

/-- Address of TM_SAMPLE_STAMP in PF0 BAR0 (R324, R561). -/
def TmSampleStamp.adr : Nat := 0xD01010
def TmSampleStamp.value : Fld := ⟨0x0, 0, 32, .ro, .na, 0, 0, 0xFFFFFFFF⟩
def TmSampleStamp.blk : Block :=
  ⟨0xD01010, [], 0x4,
   [TmSampleStamp.value]⟩

/-- Address of TM_PORT[p] in PF0 BAR0 (R324, R561). -/
def TmPort.adr (i : Nat) : Nat := 0xD01100 + 0x20 * i
def TmPort.defaultTc : Fld := ⟨0x0, 24, 3, .rwl, .b .headIn, 0, 0, 7⟩
def TmPort.pcpMap : Fld := ⟨0x0, 0, 24, .rwl, .b .headIn, 0xFAC688, 0, 0xFFFFFF⟩
def TmPort.preempt : Fld := ⟨0x4, 31, 1, .rwl, .s, 0, 0, 1⟩
def TmPort.verifyOff : Fld := ⟨0x4, 30, 1, .rwl, .s, 0, 0, 1⟩
def TmPort.addFrag : Fld := ⟨0x4, 28, 2, .rwl, .s, 0, 0, 3⟩
def TmPort.preemptState : Fld := ⟨0x4, 26, 2, .ro, .na, 0, 0, 3⟩
def TmPort.preemptable : Fld := ⟨0x4, 18, 8, .rwl, .s, 0, 0, 255⟩
def TmPort.defq : Fld := ⟨0x4, 0, 14, .rwl, .b .decision, 0, 0, 16383⟩
def TmPort.queueDrop : Fld := ⟨0x8, 0, 32, .ro, .na, 0, 0, 0xFFFFFFFF⟩
def TmPort.yellowDrop : Fld := ⟨0xC, 0, 32, .ro, .na, 0, 0, 0xFFFFFFFF⟩
def TmPort.poolDrop : Fld := ⟨0x10, 0, 32, .ro, .na, 0, 0, 0xFFFFFFFF⟩
def TmPort.fcsDrop : Fld := ⟨0x14, 0, 32, .ro, .na, 0, 0, 0xFFFFFFFF⟩
def TmPort.disabledDrop : Fld := ⟨0x18, 0, 32, .ro, .na, 0, 0, 0xFFFFFFFF⟩
def TmPort.tooLongDrop : Fld := ⟨0x1C, 0, 32, .ro, .na, 0, 0, 0xFFFFFFFF⟩
def TmPort.blk : Block :=
  ⟨0xD01100, [(25, 0x20)], 0x20,
   [TmPort.defaultTc, TmPort.pcpMap, TmPort.preempt, TmPort.verifyOff, TmPort.addFrag,
    TmPort.preemptState, TmPort.preemptable, TmPort.defq, TmPort.queueDrop, TmPort.yellowDrop,
    TmPort.poolDrop, TmPort.fcsDrop, TmPort.disabledDrop, TmPort.tooLongDrop]⟩

/-- Address of TM_INPUT[i] in PF0 BAR0 (R324, R561). -/
def TmInput.adr (i : Nat) : Nat := 0xD01500 + 0x8 * i
def TmInput.share : Fld := ⟨0x0, 0, 17, .rwl, .l, 2048, 64, 0x18000⟩
def TmInput.used : Fld := ⟨0x4, 0, 17, .ro, .na, 0, 0, 0x1FFFF⟩
def TmInput.blk : Block :=
  ⟨0xD01500, [(25, 0x8)], 0x8,
   [TmInput.share, TmInput.used]⟩

/-- Address of TM_CLASS[p][c] in PF0 BAR0 (R324, R561). -/
def TmClass.adr (i j : Nat) : Nat := 0xD02000 + 0x80 * i + 0x10 * j
def TmClass.enable : Fld := ⟨0x0, 31, 1, .rwl, .b .decision, 0, 0, 1⟩
def TmClass.resetTo : Fld := ⟨0x0, 30, 1, .rwl, .b .decision, 0, 0, 1⟩
def TmClass.burst : Fld := ⟨0x0, 0, 24, .rwl, .b .decision, 16384, 64, 0xFFFFFF⟩
def TmClass.rate : Fld := ⟨0x4, 0, 32, .rwl, .b .decision, 0, 0, 0xFFFFFFFF⟩
def TmClass.tokens : Fld := ⟨0x8, 0, 32, .ro, .na, 0, 0, 0xFFFFFFFF⟩
def TmClass.blk : Block :=
  ⟨0xD02000, [(25, 0x80), (8, 0x10)], 0xC,
   [TmClass.enable, TmClass.resetTo, TmClass.burst, TmClass.rate, TmClass.tokens]⟩

/-- Address of TM_SLICE_WEIGHT[k] in PF0 BAR0 (R324, R561). -/
def TmSliceWeight.adr (i : Nat) : Nat := 0xD03000 + 0x4 * i
def TmSliceWeight.weight : Fld := ⟨0x0, 0, 16, .rwl, .b .decision, 1, 1, 65535⟩
def TmSliceWeight.blk : Block :=
  ⟨0xD03000, [(256, 0x4)], 0x4,
   [TmSliceWeight.weight]⟩

/-- Address of TM_GCL_CTRL[p] in PF0 BAR0 (R324, R561). -/
def TmGclCtrl.adr (i : Nat) : Nat := 0xD03400 + 0x10 * i
def TmGclCtrl.enable : Fld := ⟨0x0, 31, 1, .rwl, .b .gclSwitch, 0, 0, 1⟩
def TmGclCtrl.length : Fld := ⟨0x0, 0, 11, .rwl, .b .gclSwitch, 0, 0, 1024⟩
def TmGclCtrl.cycle : Fld := ⟨0x4, 0, 28, .rwl, .b .gclSwitch, 0, 0, 0xFFFFFFF⟩
def TmGclCtrl.base : Fld := ⟨0x8, 0, 64, .rwl, .b .gclSwitch, 0, 0, 0xFFFFFFFFFFFFFFFF⟩
def TmGclCtrl.blk : Block :=
  ⟨0xD03400, [(16, 0x10)], 0x10,
   [TmGclCtrl.enable, TmGclCtrl.length, TmGclCtrl.cycle, TmGclCtrl.base]⟩

/-- Address of TM_GCL_CMD[p] in PF0 BAR0 (R324, R561). -/
def TmGclCmd.adr (i : Nat) : Nat := 0xD03600 + 0x4 * i
def TmGclCmd.armed : Fld := ⟨0x0, 31, 1, .ro, .na, 0, 0, 1⟩
def TmGclCmd.entry : Fld := ⟨0x0, 1, 10, .ro, .na, 0, 0, 1023⟩
def TmGclCmd.switch : Fld := ⟨0x0, 0, 1, .wo, .l, 0, 0, 1⟩
def TmGclCmd.blk : Block :=
  ⟨0xD03600, [(16, 0x4)], 0x4,
   [TmGclCmd.armed, TmGclCmd.entry, TmGclCmd.switch]⟩

/-- Address of TM_X_WINDOW[p][r] (expert) in PF0 BAR0 (R324, R561). -/
def TmXWindow.adr (i j : Nat) : Nat := 0xD08000 + 0x80 * i + 0x8 * j
def TmXWindow.openF : Fld := ⟨0x0, 0, 28, .rw, .b .rope, 0, 0, 0xFFFFFFF⟩
def TmXWindow.length : Fld := ⟨0x4, 0, 24, .rw, .b .rope, 0, 0, 0xFFFFFF⟩
def TmXWindow.blk : Block :=
  ⟨0xD08000, [(16, 0x80), (16, 0x8)], 0x8,
   [TmXWindow.openF, TmXWindow.length]⟩

/-- Address of TM_X_PORT[p] (expert) in PF0 BAR0 (R324, R561). -/
def TmXPort.adr (i : Nat) : Nat := 0xD08800 + 0x4 * i
def TmXPort.overhead : Fld := ⟨0x0, 0, 8, .rw, .b .decision, 20, 0, 255⟩
def TmXPort.blk : Block :=
  ⟨0xD08800, [(25, 0x4)], 0x4,
   [TmXPort.overhead]⟩

/-- Address of TM_QUEUE[q] in PF0 BAR0 (R324, R561). -/
def TmQueue.adr (i : Nat) : Nat := 0xD40000 + 0x20 * i
def TmQueue.enable : Fld := ⟨0x0, 31, 1, .rw, .l, 0, 0, 1⟩
def TmQueue.port : Fld := ⟨0x0, 24, 5, .rw, .b .queueIdle, 0, 0, 31⟩
def TmQueue.tc : Fld := ⟨0x0, 20, 3, .rw, .b .queueIdle, 0, 0, 7⟩
def TmQueue.slice : Fld := ⟨0x0, 12, 8, .rw, .b .queueIdle, 0, 0, 255⟩
def TmQueue.adjust : Fld := ⟨0x0, 0, 7, .rw, .b .decision, 0, 0, 127⟩
def TmQueue.quantum : Fld := ⟨0x4, 20, 12, .rw, .b .visit, 24, 1, 4095⟩
def TmQueue.max : Fld := ⟨0x4, 0, 17, .rw, .l, 512, 1, 0x18000⟩
def TmQueue.ecnEn : Fld := ⟨0x8, 31, 1, .rw, .l, 0, 0, 1⟩
def TmQueue.ecnThreshold : Fld := ⟨0x8, 0, 17, .rw, .l, 128, 0, 0x1FFFF⟩
def TmQueue.yellowLimit : Fld := ⟨0xC, 0, 17, .rw, .l, 256, 0, 0x1FFFF⟩
def TmQueue.rate : Fld := ⟨0x14, 0, 32, .rw, .b .decision, 0, 0, 0xFFFFFFFF⟩
def TmQueue.depth : Fld := ⟨0x18, 0, 32, .ro, .na, 0, 0, 0xFFFFFFFF⟩
def TmQueue.headDelay : Fld := ⟨0x1C, 0, 24, .ro, .na, 0, 0, 0xFFFFFF⟩
def TmQueue.shBurst : Fld := ⟨0x10, 0, 24, .rw, .b .decision, 16384, 64, 0xFFFFFF⟩
def TmQueue.shResetTo : Fld := ⟨0x10, 30, 1, .rw, .b .decision, 0, 0, 1⟩
def TmQueue.shEnable : Fld := ⟨0x10, 31, 1, .rw, .b .decision, 0, 0, 1⟩
def TmQueue.blk : Block :=
  ⟨0xD40000, [(16384, 0x20)], 0x20,
   [TmQueue.enable, TmQueue.port, TmQueue.tc, TmQueue.slice, TmQueue.adjust, TmQueue.quantum,
    TmQueue.max, TmQueue.ecnEn, TmQueue.ecnThreshold, TmQueue.yellowLimit, TmQueue.rate,
    TmQueue.depth, TmQueue.headDelay, TmQueue.shBurst, TmQueue.shResetTo, TmQueue.shEnable]⟩

/-- Address of TM_POLICER[r][n], n = 1–1,023 in PF0 BAR0 (R324, R561). The last index counts from 1. -/
def TmPolicer.adr (i j : Nat) : Nat := 0xDC0000 + 0x8000 * i + 0x20 * j
def TmPolicer.enable : Fld := ⟨0x0, 31, 1, .rwl, .b .headIn, 0, 0, 1⟩
def TmPolicer.yellowAct : Fld := ⟨0x0, 30, 1, .rwl, .b .headIn, 0, 0, 1⟩
def TmPolicer.redAct : Fld := ⟨0x0, 29, 1, .rwl, .b .headIn, 0, 0, 1⟩
def TmPolicer.cbs : Fld := ⟨0x0, 0, 24, .rwl, .b .headIn, 16384, 0, 0xFFFFFF⟩
def TmPolicer.pbs : Fld := ⟨0x4, 0, 24, .rwl, .b .headIn, 16384, 0, 0xFFFFFF⟩
def TmPolicer.cir : Fld := ⟨0x8, 0, 32, .rwl, .b .headIn, 0, 0, 0xFFFFFFFF⟩
def TmPolicer.pir : Fld := ⟨0xC, 0, 32, .rwl, .b .headIn, 0, 0, 0xFFFFFFFF⟩
def TmPolicer.green : Fld := ⟨0x10, 0, 32, .ro, .na, 0, 0, 0xFFFFFFFF⟩
def TmPolicer.yellow : Fld := ⟨0x14, 0, 32, .ro, .na, 0, 0, 0xFFFFFFFF⟩
def TmPolicer.red : Fld := ⟨0x18, 0, 32, .ro, .na, 0, 0, 0xFFFFFFFF⟩
def TmPolicer.blk : Block :=
  ⟨0xDC0020, [(4, 0x8000), (1023, 0x20)], 0x1C,
   [TmPolicer.enable, TmPolicer.yellowAct, TmPolicer.redAct, TmPolicer.cbs, TmPolicer.pbs,
    TmPolicer.cir, TmPolicer.pir, TmPolicer.green, TmPolicer.yellow, TmPolicer.red]⟩

/-- Address of TM_GCL[p][e] pending bank in PF0 BAR0 (R324, R561). -/
def TmGcl.adr (i j : Nat) : Nat := 0xDE0000 + 0x1000 * i + 0x4 * j
def TmGcl.interval : Fld := ⟨0x0, 0, 24, .rwl, .b .gclSwitch, 0, 0, 0xFFFFFF⟩
def TmGcl.gates : Fld := ⟨0x0, 24, 8, .rwl, .b .gclSwitch, 0, 0, 255⟩
def TmGcl.blk : Block :=
  ⟨0xDE0000, [(16, 0x1000), (1024, 0x4)], 0x4,
   [TmGcl.interval, TmGcl.gates]⟩

/-- Address of TM_GCL[p][e] active bank in PF0 BAR0 (R324, R561). -/
def TmGclActive.adr (i j : Nat) : Nat := 0xDF0000 + 0x1000 * i + 0x4 * j
def TmGclActive.interval : Fld := ⟨0x0, 0, 24, .ro, .na, 0, 0, 0xFFFFFF⟩
def TmGclActive.gates : Fld := ⟨0x0, 24, 8, .ro, .na, 0, 0, 255⟩
def TmGclActive.blk : Block :=
  ⟨0xDF0000, [(16, 0x1000), (1024, 0x4)], 0x4,
   [TmGclActive.interval, TmGclActive.gates]⟩

/-- Address of HIF_IDENT in PF0 BAR0 (R356, R561). -/
def HifIdent.adr : Nat := 0xE01000
def HifIdent.part : Fld := ⟨0x0, 16, 15, .ro, .na, 16736, 0, 32767⟩
def HifIdent.scale : Fld := ⟨0x0, 12, 4, .ro, .na, 0, 0, 15⟩
def HifIdent.stepping : Fld := ⟨0x0, 8, 4, .ro, .na, 0, 0, 15⟩
def HifIdent.blk : Block :=
  ⟨0xE01000, [], 0x4,
   [HifIdent.part, HifIdent.scale, HifIdent.stepping]⟩

/-- Address of HIF_LINK in PF0 BAR0 (R356, R561). -/
def HifLink.adr : Nat := 0xE01004
def HifLink.up : Fld := ⟨0x0, 31, 1, .ro, .na, 0, 0, 1⟩
def HifLink.speed : Fld := ⟨0x0, 24, 4, .ro, .na, 0, 0, 15⟩
def HifLink.width : Fld := ⟨0x0, 16, 3, .ro, .na, 0, 0, 7⟩
def HifLink.flit : Fld := ⟨0x0, 15, 1, .ro, .na, 0, 0, 1⟩
def HifLink.l0pWidth : Fld := ⟨0x0, 12, 3, .ro, .na, 0, 0, 7⟩
def HifLink.blk : Block :=
  ⟨0xE01004, [], 0x4,
   [HifLink.up, HifLink.speed, HifLink.width, HifLink.flit, HifLink.l0pWidth]⟩

/-- Address of HIF_CTRL in PF0 BAR0 (R356, R561). -/
def HifCtrl.adr : Nat := 0xE01008
def HifCtrl.relaxed : Fld := ⟨0x0, 0, 1, .rwl, .l, 0, 0, 1⟩
def HifCtrl.blk : Block :=
  ⟨0xE01008, [], 0x4,
   [HifCtrl.relaxed]⟩

/-- Address of HIF_SUBSYS in PF0 BAR0 (R356, R561). -/
def HifSubsys.adr : Nat := 0xE0100C
def HifSubsys.subsysId : Fld := ⟨0x0, 16, 16, .rwl, .s, 16736, 0, 65535⟩
def HifSubsys.subsysVendor : Fld := ⟨0x0, 0, 16, .rwl, .s, 8076, 0, 65535⟩
def HifSubsys.blk : Block :=
  ⟨0xE0100C, [], 0x4,
   [HifSubsys.subsysId, HifSubsys.subsysVendor]⟩

/-- Address of HIF_PF_STATUS[f] in PF0 BAR0 (R356, R561). -/
def HifPfStatus.adr (i : Nat) : Nat := 0xE01010 + 0x4 * i
def HifPfStatus.outstanding : Fld := ⟨0x0, 10, 11, .ro, .na, 0, 0, 2047⟩
def HifPfStatus.flrBusy : Fld := ⟨0x0, 2, 1, .ro, .na, 0, 0, 1⟩
def HifPfStatus.bme : Fld := ⟨0x0, 1, 1, .ro, .na, 0, 0, 1⟩
def HifPfStatus.d3hot : Fld := ⟨0x0, 0, 1, .ro, .na, 0, 0, 1⟩
def HifPfStatus.blk : Block :=
  ⟨0xE01010, [(4, 0x4)], 0x4,
   [HifPfStatus.outstanding, HifPfStatus.flrBusy, HifPfStatus.bme, HifPfStatus.d3hot]⟩

/-- Address of HIF_SLICE_CFG in PF0 BAR0 (R356, R561). -/
def HifSliceCfg.adr : Nat := 0xE01020
def HifSliceCfg.mode : Fld := ⟨0x0, 31, 1, .rwl, .l, 0, 0, 1⟩
def HifSliceCfg.countLog2 : Fld := ⟨0x0, 0, 4, .rwl, .l, 0, 0, 8⟩
def HifSliceCfg.blk : Block :=
  ⟨0xE01020, [], 0x4,
   [HifSliceCfg.mode, HifSliceCfg.countLog2]⟩

/-- Address of HIF_SLICE[k] in PF0 BAR0 (R356, R561). -/
def HifSlice.adr (i : Nat) : Nat := 0xE40000 + 0x40 * i
def HifSlice.enable : Fld := ⟨0x0, 31, 1, .rwl, .l, 0, 0, 1⟩
def HifSlice.pf : Fld := ⟨0x0, 20, 2, .rwl, .l, 0, 0, 3⟩
def HifSlice.pasid : Fld := ⟨0x0, 0, 20, .rwl, .l, 0, 0, 0xFFFFF⟩
def HifSlice.state : Fld := ⟨0x4, 28, 4, .ro, .na, 0, 0, 15⟩
def HifSlice.status : Fld := ⟨0x4, 16, 8, .ro, .na, 0, 0, 255⟩
def HifSlice.cmd : Fld := ⟨0x4, 0, 4, .wo, .l, 0, 0, 15⟩
def HifSlice.blobAddr : Fld := ⟨0x8, 6, 58, .rwl, .l, 0, 0, 0x3FFFFFFFFFFFFFF⟩
def HifSlice.blobSize : Fld := ⟨0x10, 0, 32, .rwl, .l, 0, 0, 0xFFFFFFFF⟩
def HifSlice.blobLen : Fld := ⟨0x14, 0, 32, .ro, .na, 0, 0, 0xFFFFFFFF⟩
def HifSlice.saveVersion : Fld := ⟨0x18, 16, 2, .rwl, .l, 2, 1, 2⟩
def HifSlice.freezeLimit : Fld := ⟨0x18, 0, 16, .rwl, .l, 100, 1, 65535⟩
def HifSlice.inDoubt : Fld := ⟨0x1C, 0, 16, .ro, .na, 0, 0, 65535⟩
def HifSlice.blk : Block :=
  ⟨0xE40000, [(256, 0x40)], 0x20,
   [HifSlice.enable, HifSlice.pf, HifSlice.pasid, HifSlice.state, HifSlice.status, HifSlice.cmd,
    HifSlice.blobAddr, HifSlice.blobSize, HifSlice.blobLen, HifSlice.saveVersion,
    HifSlice.freezeLimit, HifSlice.inDoubt]⟩

/-- Address of HIF_SLICE_SHARE[k] word j in PF0 BAR0 (R356, R561). -/
def HifShare.adr (i j : Nat) : Nat := 0xE48000 + 0x40 * i + 0x8 * j
def HifShare.count : Fld := ⟨0x0, 32, 21, .rwl, .l, 0, 0, 0x1FFFFF⟩
def HifShare.base : Fld := ⟨0x0, 0, 21, .rwl, .l, 0, 0, 0x1FFFFF⟩
def HifShare.blk : Block :=
  ⟨0xE48000, [(256, 0x40), (7, 0x8)], 0x8,
   [HifShare.count, HifShare.base]⟩

/-- Address of HIF_EVENT_ROUTE[e] in PF0 BAR0 (R356, R561). -/
def HifRoute.adr (i : Nat) : Nat := 0xE4C000 + 0x4 * i
def HifRoute.enable : Fld := ⟨0x0, 31, 1, .rwl, .l, 0, 0, 1⟩
def HifRoute.pf : Fld := ⟨0x0, 29, 2, .rwl, .l, 0, 0, 3⟩
def HifRoute.vector : Fld := ⟨0x0, 18, 11, .rwl, .l, 0, 0, 2047⟩
def HifRoute.evq : Fld := ⟨0x0, 0, 10, .rwl, .l, 0, 0, 1023⟩
def HifRoute.blk : Block :=
  ⟨0xE4C000, [(384, 0x4)], 0x4,
   [HifRoute.enable, HifRoute.pf, HifRoute.vector, HifRoute.evq]⟩

/-- Address of QE_EVENT_HOLDOFF in PF0 BAR0 (R381, R561). -/
def QeHoldoff.adr : Nat := 0xF01000
def QeHoldoff.microseconds : Fld := ⟨0x0, 0, 16, .rwl, .l, 1000, 1, 65535⟩
def QeHoldoff.blk : Block :=
  ⟨0xF01000, [], 0x4,
   [QeHoldoff.microseconds]⟩

/-- Address of QE_DOORBELL in PF0 BAR0 (R381, R561). -/
def QeDoorbell.adr : Nat := 0xF01004
def QeDoorbell.doorbell : Fld := ⟨0x0, 0, 32, .wo, .l, 0, 0, 0xFFFFFFFF⟩
def QeDoorbell.blk : Block :=
  ⟨0xF01004, [], 0x4,
   [QeDoorbell.doorbell]⟩

/-- Address of QE_TXQ[q] in PF0 BAR0 (R381, R561). -/
def QeTxq.adr (i : Nat) : Nat := 0xF40000 + 0x40 * i
def QeTxq.ringAddr : Fld := ⟨0x0, 6, 58, .rwl, .l, 0, 0, 0x3FFFFFFFFFFFFFF⟩
def QeTxq.headAddr : Fld := ⟨0x8, 4, 60, .rwl, .l, 0, 0, 0xFFFFFFFFFFFFFFF⟩
def QeTxq.summaryAddr : Fld := ⟨0x10, 4, 60, .rwl, .l, 0, 0, 0xFFFFFFFFFFFFFFF⟩
def QeTxq.irqEn : Fld := ⟨0x18, 31, 1, .rwl, .l, 0, 0, 1⟩
def QeTxq.vector : Fld := ⟨0x18, 20, 11, .rwl, .l, 0, 0, 2047⟩
def QeTxq.version : Fld := ⟨0x18, 18, 2, .rwl, .l, 1, 1, 2⟩
def QeTxq.policy : Fld := ⟨0x18, 17, 1, .rwl, .l, 0, 0, 1⟩
def QeTxq.sizeLog2 : Fld := ⟨0x18, 12, 4, .rwl, .l, 0, 0, 15⟩
def QeTxq.bufSize : Fld := ⟨0x18, 0, 9, .rwl, .l, 32, 4, 256⟩
def QeTxq.count : Fld := ⟨0x1C, 16, 16, .rwl, .l, 1, 1, 65535⟩
def QeTxq.time : Fld := ⟨0x1C, 0, 16, .rwl, .l, 0, 0, 65535⟩
def QeTxq.resetb : Fld := ⟨0x20, 2, 1, .wo, .l, 0, 0, 1⟩
def QeTxq.disable : Fld := ⟨0x20, 1, 1, .wo, .l, 0, 0, 1⟩
def QeTxq.enable : Fld := ⟨0x20, 0, 1, .wo, .l, 0, 0, 1⟩
def QeTxq.state : Fld := ⟨0x24, 28, 4, .ro, .na, 0, 0, 15⟩
def QeTxq.error : Fld := ⟨0x24, 16, 8, .ro, .na, 0, 0, 255⟩
def QeTxq.errorIndex : Fld := ⟨0x24, 0, 16, .ro, .na, 0, 0, 65535⟩
def QeTxq.tail : Fld := ⟨0x28, 16, 16, .ro, .na, 0, 0, 65535⟩
def QeTxq.head : Fld := ⟨0x28, 0, 16, .ro, .na, 0, 0, 65535⟩
def QeTxq.overflow : Fld := ⟨0x2C, 0, 1, .ro, .na, 0, 0, 1⟩
def QeTxq.nobufDrop : Fld := ⟨0x30, 0, 32, .ro, .na, 0, 0, 0xFFFFFFFF⟩
def QeTxq.blk : Block :=
  ⟨0xF40000, [(4096, 0x40)], 0x34,
   [QeTxq.ringAddr, QeTxq.headAddr, QeTxq.summaryAddr, QeTxq.irqEn, QeTxq.vector, QeTxq.version,
    QeTxq.policy, QeTxq.sizeLog2, QeTxq.bufSize, QeTxq.count, QeTxq.time, QeTxq.resetb,
    QeTxq.disable, QeTxq.enable, QeTxq.state, QeTxq.error, QeTxq.errorIndex, QeTxq.tail,
    QeTxq.head, QeTxq.overflow, QeTxq.nobufDrop]⟩

/-- Address of QE_RXQ[q] in PF0 BAR0 (R381, R561). -/
def QeRxq.adr (i : Nat) : Nat := 0xF80000 + 0x40 * i
def QeRxq.blk : Block :=
  ⟨0xF80000, [(4096, 0x40)], 0x34,
   [QeTxq.ringAddr, QeTxq.headAddr, QeTxq.summaryAddr, QeTxq.irqEn, QeTxq.vector, QeTxq.version,
    QeTxq.policy, QeTxq.sizeLog2, QeTxq.bufSize, QeTxq.count, QeTxq.time, QeTxq.resetb,
    QeTxq.disable, QeTxq.enable, QeTxq.state, QeTxq.error, QeTxq.errorIndex, QeTxq.tail,
    QeTxq.head, QeTxq.overflow, QeTxq.nobufDrop]⟩

/-- Address of QE_EVQ[q] in PF0 BAR0 (R381, R561). -/
def QeEvq.adr (i : Nat) : Nat := 0xFC0000 + 0x40 * i
def QeEvq.blk : Block :=
  ⟨0xFC0000, [(1024, 0x40)], 0x34,
   [QeTxq.ringAddr, QeTxq.headAddr, QeTxq.summaryAddr, QeTxq.irqEn, QeTxq.vector, QeTxq.version,
    QeTxq.policy, QeTxq.sizeLog2, QeTxq.bufSize, QeTxq.count, QeTxq.time, QeTxq.resetb,
    QeTxq.disable, QeTxq.enable, QeTxq.state, QeTxq.error, QeTxq.errorIndex, QeTxq.tail,
    QeTxq.head, QeTxq.overflow, QeTxq.nobufDrop]⟩

/-- Address of QE_SCQ[q] in PF0 BAR0 (R381, R561). -/
def QeScq.adr (i : Nat) : Nat := 0xFD0000 + 0x40 * i
def QeScq.blk : Block :=
  ⟨0xFD0000, [(256, 0x40)], 0x34,
   [QeTxq.ringAddr, QeTxq.headAddr, QeTxq.summaryAddr, QeTxq.irqEn, QeTxq.vector, QeTxq.version,
    QeTxq.policy, QeTxq.sizeLog2, QeTxq.bufSize, QeTxq.count, QeTxq.time, QeTxq.resetb,
    QeTxq.disable, QeTxq.enable, QeTxq.state, QeTxq.error, QeTxq.errorIndex, QeTxq.tail,
    QeTxq.head, QeTxq.overflow, QeTxq.nobufDrop]⟩

/-- Address of SHX_CTRL in PF0 BAR0 (R423, R561). -/
def ShxCtrl.adr : Nat := 0x1001000
def ShxCtrl.versionMax : Fld := ⟨0x0, 16, 4, .rwl, .s, 2, 1, 2⟩
def ShxCtrl.udpPort : Fld := ⟨0x0, 0, 16, .rwl, .s, 52740, 0, 65535⟩
def ShxCtrl.blk : Block :=
  ⟨0x1001000, [], 0x4,
   [ShxCtrl.versionMax, ShxCtrl.udpPort]⟩

/-- Address of SHX_LOCAL in PF0 BAR0 (R423, R561). -/
def ShxLocal.adr : Nat := 0x1001004
def ShxLocal.node : Fld := ⟨0x0, 0, 18, .rwl, .s, 0, 0, 0x3FFFF⟩
def ShxLocal.blk : Block :=
  ⟨0x1001004, [], 0x4,
   [ShxLocal.node]⟩

/-- Address of SHX_LOCAL_IP4 in PF0 BAR0 (R423, R561). -/
def ShxLocalIp4.adr : Nat := 0x1001008
def ShxLocalIp4.address : Fld := ⟨0x0, 0, 32, .rwl, .s, 0, 0, 0xFFFFFFFF⟩
def ShxLocalIp4.blk : Block :=
  ⟨0x1001008, [], 0x4,
   [ShxLocalIp4.address]⟩

/-- Address of SHX_LOCAL_IP6 in PF0 BAR0 (R423, R561). -/
def ShxLocalIp6.adr : Nat := 0x1001010
def ShxLocalIp6.address : Fld := ⟨0x0, 0, 128, .rwl, .s, 0, 0, 0xFFFFFFFFFFFFFFFFFFFFFFFFFFFFFFFF⟩
def ShxLocalIp6.blk : Block :=
  ⟨0x1001010, [], 0x10,
   [ShxLocalIp6.address]⟩

/-- Address of SHX_CTX_BASE in PF0 BAR0 (R423, R561). -/
def ShxCtxBase.adr : Nat := 0x1001020
def ShxCtxBase.address : Fld := ⟨0x0, 12, 52, .rwl, .s, 0, 0, 0xFFFFFFFFFFFFF⟩
def ShxCtxBase.blk : Block :=
  ⟨0x1001020, [], 0x8,
   [ShxCtxBase.address]⟩

/-- Address of SHX_REGION_BASE in PF0 BAR0 (R423, R561). -/
def ShxRegionBase.adr : Nat := 0x1001028
def ShxRegionBase.address : Fld := ⟨0x0, 12, 52, .rwl, .s, 0, 0, 0xFFFFFFFFFFFFF⟩
def ShxRegionBase.blk : Block :=
  ⟨0x1001028, [], 0x8,
   [ShxRegionBase.address]⟩

/-- Address of SHX_PATH in PF0 BAR0 (R423, R561). -/
def ShxPath.adr : Nat := 0x1001030
def ShxPath.hopLimit : Fld := ⟨0x0, 14, 8, .rwl, .l, 64, 1, 255⟩
def ShxPath.pmtu : Fld := ⟨0x0, 0, 14, .rwl, .s, 9000, 1280, 9000⟩
def ShxPath.blk : Block :=
  ⟨0x1001030, [], 0x4,
   [ShxPath.hopLimit, ShxPath.pmtu]⟩

/-- Address of SHX_RETX in PF0 BAR0 (R423, R561). -/
def ShxRetx.adr : Nat := 0x1001034
def ShxRetx.retryLimit : Fld := ⟨0x0, 24, 8, .rwl, .l, 8, 1, 255⟩
def ShxRetx.rtoMax : Fld := ⟨0x0, 12, 12, .rwl, .l, 3200, 0, 4095⟩
def ShxRetx.rto : Fld := ⟨0x0, 0, 12, .rwl, .l, 200, 10, 4095⟩
def ShxRetx.blk : Block :=
  ⟨0x1001034, [], 0x4,
   [ShxRetx.retryLimit, ShxRetx.rtoMax, ShxRetx.rto]⟩

/-- Address of SHX_RETX_CELLS in PF0 BAR0 (R423, R561). -/
def ShxRetxCells.adr : Nat := 0x1001038
def ShxRetxCells.cells : Fld := ⟨0x0, 0, 17, .rwl, .l, 16384, 0, 0x1FFFF⟩
def ShxRetxCells.blk : Block :=
  ⟨0x1001038, [], 0x4,
   [ShxRetxCells.cells]⟩

/-- Address of SHX_ACK in PF0 BAR0 (R423, R561). -/
def ShxAck.adr : Nat := 0x100103C
def ShxAck.ackTime : Fld := ⟨0x0, 8, 16, .rwl, .l, 8, 1, 65535⟩
def ShxAck.ackCount : Fld := ⟨0x0, 0, 8, .rwl, .l, 16, 1, 255⟩
def ShxAck.blk : Block :=
  ⟨0x100103C, [], 0x4,
   [ShxAck.ackTime, ShxAck.ackCount]⟩

/-- Address of SHX_MISS in PF0 BAR0 (R423, R561). -/
def ShxMiss.adr : Nat := 0x1001040
def ShxMiss.used : Fld := ⟨0x0, 16, 10, .ro, .na, 0, 0, 1023⟩
def ShxMiss.backoff : Fld := ⟨0x0, 0, 8, .rwl, .l, 20, 1, 255⟩
def ShxMiss.blk : Block :=
  ⟨0x1001040, [], 0x4,
   [ShxMiss.used, ShxMiss.backoff]⟩

/-- Address of SHX_TW in PF0 BAR0 (R423, R561). -/
def ShxTw.adr : Nat := 0x1001044
def ShxTw.retry : Fld := ⟨0x0, 24, 8, .rwl, .l, 10, 0, 255⟩
def ShxTw.horizon : Fld := ⟨0x0, 0, 11, .rwl, .l, 100, 1, 2000⟩
def ShxTw.blk : Block :=
  ⟨0x1001044, [], 0x4,
   [ShxTw.retry, ShxTw.horizon]⟩

/-- Address of SHX_TW_USED in PF0 BAR0 (R423, R561). -/
def ShxTwUsed.adr : Nat := 0x1001048
def ShxTwUsed.slots : Fld := ⟨0x0, 0, 14, .ro, .na, 0, 0, 16383⟩
def ShxTwUsed.blk : Block :=
  ⟨0x1001048, [], 0x4,
   [ShxTwUsed.slots]⟩

/-- Address of SHX_CC0 in PF0 BAR0 (R423, R561). -/
def ShxCc0.adr : Nat := 0x1001050
def ShxCc0.gShift : Fld := ⟨0x0, 28, 4, .rwl, .l, 5, 1, 15⟩
def ShxCc0.stepCap : Fld := ⟨0x0, 24, 4, .rwl, .l, 12, 1, 15⟩
def ShxCc0.cutGap : Fld := ⟨0x0, 12, 12, .rwl, .l, 40, 1, 4095⟩
def ShxCc0.incTime : Fld := ⟨0x0, 0, 12, .rwl, .l, 32, 1, 4095⟩
def ShxCc0.blk : Block :=
  ⟨0x1001050, [], 0x4,
   [ShxCc0.gShift, ShxCc0.stepCap, ShxCc0.cutGap, ShxCc0.incTime]⟩

/-- Address of SHX_CC1 in PF0 BAR0 (R423, R561). -/
def ShxCc1.adr : Nat := 0x1001054
def ShxCc1.incBytes : Fld := ⟨0x0, 16, 16, .rwl, .l, 4096, 1, 65535⟩
def ShxCc1.alphaTime : Fld := ⟨0x0, 0, 16, .rwl, .l, 32, 1, 65535⟩
def ShxCc1.blk : Block :=
  ⟨0x1001054, [], 0x4,
   [ShxCc1.incBytes, ShxCc1.alphaTime]⟩

/-- Address of SHX_CC2 in PF0 BAR0 (R423, R561). -/
def ShxCc2.adr : Nat := 0x1001058
def ShxCc2.stepRate : Fld := ⟨0x0, 0, 32, .rwl, .l, 25, 0, 0xFFFFFFFF⟩
def ShxCc2.blk : Block :=
  ⟨0x1001058, [], 0x4,
   [ShxCc2.stepRate]⟩

/-- Address of SHX_CC3 in PF0 BAR0 (R423, R561). -/
def ShxCc3.adr : Nat := 0x100105C
def ShxCc3.cutGain : Fld := ⟨0x0, 0, 8, .rwl, .l, 96, 1, 255⟩
def ShxCc3.blk : Block :=
  ⟨0x100105C, [], 0x4,
   [ShxCc3.cutGain]⟩

/-- Address of SHX_CC4 in PF0 BAR0 (R423, R561). -/
def ShxCc4.adr : Nat := 0x1001060
def ShxCc4.minRate : Fld := ⟨0x0, 0, 32, .rwl, .l, 100, 0, 0xFFFFFFFF⟩
def ShxCc4.blk : Block :=
  ⟨0x1001060, [], 0x4,
   [ShxCc4.minRate]⟩

/-- Address of SHX_EVENT_HOLDOFF in PF0 BAR0 (R423, R561). -/
def ShxHoldoff.adr : Nat := 0x1001064
def ShxHoldoff.microseconds : Fld := ⟨0x0, 0, 16, .rwl, .l, 1000, 1, 65535⟩
def ShxHoldoff.blk : Block :=
  ⟨0x1001064, [], 0x4,
   [ShxHoldoff.microseconds]⟩

/-- Address of SHX_STAT in PF0 BAR0 (R423, R561). -/
def ShxStat.adr : Nat := 0x1001080
def ShxStat.badPacket : Fld := ⟨0x0, 0, 32, .ro, .na, 0, 0, 0xFFFFFFFF⟩
def ShxStat.staleEpoch : Fld := ⟨0x4, 0, 32, .ro, .na, 0, 0, 0xFFFFFFFF⟩
def ShxStat.duplicate : Fld := ⟨0x8, 0, 32, .ro, .na, 0, 0, 0xFFFFFFFF⟩
def ShxStat.twLate : Fld := ⟨0xC, 0, 32, .ro, .na, 0, 0, 0xFFFFFFFF⟩
def ShxStat.twCrowded : Fld := ⟨0x10, 0, 32, .ro, .na, 0, 0, 0xFFFFFFFF⟩
def ShxStat.twDiscard : Fld := ⟨0x14, 0, 32, .ro, .na, 0, 0, 0xFFFFFFFF⟩
def ShxStat.notReadySent : Fld := ⟨0x18, 0, 32, .ro, .na, 0, 0, 0xFFFFFFFF⟩
def ShxStat.blk : Block :=
  ⟨0x1001080, [], 0x1C,
   [ShxStat.badPacket, ShxStat.staleEpoch, ShxStat.duplicate, ShxStat.twLate, ShxStat.twCrowded,
    ShxStat.twDiscard, ShxStat.notReadySent]⟩

/-- Address of SHX_CMD in PF0 BAR0 (R423, R561). -/
def ShxCmd.adr : Nat := 0x1001100
def ShxCmd.busy : Fld := ⟨0x0, 31, 1, .ro, .na, 0, 0, 1⟩
def ShxCmd.status : Fld := ⟨0x0, 8, 8, .ro, .na, 0, 0, 255⟩
def ShxCmd.op : Fld := ⟨0x0, 0, 8, .wo, .l, 0, 0, 255⟩
def ShxCmd.blk : Block :=
  ⟨0x1001100, [], 0x4,
   [ShxCmd.busy, ShxCmd.status, ShxCmd.op]⟩

/-- Address of SHX_CMD_ARG[w] in PF0 BAR0 (R423, R561). -/
def ShxCmdArg.adr (i : Nat) : Nat := 0x1001140 + 0x4 * i
def ShxCmdArg.args : Fld := ⟨0x0, 0, 32, .rwl, .l, 0, 0, 0xFFFFFFFF⟩
def ShxCmdArg.blk : Block :=
  ⟨0x1001140, [(14, 0x4)], 0x4,
   [ShxCmdArg.args]⟩

/-- Address of SHX_PORT_QUEUE[f] in PF0 BAR0 (R423, R561). -/
def ShxPortQueue.adr (i : Nat) : Nat := 0x1001200 + 0x4 * i
def ShxPortQueue.queue : Fld := ⟨0x0, 0, 14, .rwl, .b .decision, 0, 0, 16383⟩
def ShxPortQueue.blk : Block :=
  ⟨0x1001200, [(8, 0x4)], 0x4,
   [ShxPortQueue.queue]⟩

/-- Address of SHX_SLICE_REGIONS[k] in PF0 BAR0 (R423, R561). -/
def ShxSliceRegions.adr (i : Nat) : Nat := 0x1002000 + 0x8 * i
def ShxSliceRegions.base : Fld := ⟨0x0, 0, 21, .rwl, .l, 0, 0, 0x1FFFFF⟩
def ShxSliceRegions.count : Fld := ⟨0x0, 32, 21, .rwl, .l, 0, 0, 0x1FFFFF⟩
def ShxSliceRegions.blk : Block :=
  ⟨0x1002000, [(256, 0x8)], 0x8,
   [ShxSliceRegions.base, ShxSliceRegions.count]⟩

/-- Address of NVF_EVENT_HOLDOFF in PF0 BAR0 (R447, R561). -/
def NvfHoldoff.adr : Nat := 0x1101000
def NvfHoldoff.microseconds : Fld := ⟨0x0, 0, 16, .rwl, .l, 1000, 1, 65535⟩
def NvfHoldoff.blk : Block :=
  ⟨0x1101000, [], 0x4,
   [NvfHoldoff.microseconds]⟩

/-- Address of NVF_STATUS in PF0 BAR0 (R447, R561). -/
def NvfStatus.adr : Nat := 0x1101004
def NvfStatus.locks : Fld := ⟨0x0, 0, 13, .ro, .na, 0, 0, 8191⟩
def NvfStatus.blk : Block :=
  ⟨0x1101004, [], 0x4,
   [NvfStatus.locks]⟩

/-- Address of NVF_TARGET in PF0 BAR0 (R447, R561). -/
def NvfTarget.adr : Nat := 0x1101100
def NvfTarget.address : Fld := ⟨0x0, 6, 58, .rwl, .s, 0, 0, 0x3FFFFFFFFFFFFFF⟩
def NvfTarget.enable : Fld := ⟨0x8, 31, 1, .rwl, .s, 0, 0, 1⟩
def NvfTarget.sizeLog2 : Fld := ⟨0x8, 16, 4, .rwl, .s, 4, 3, 15⟩
def NvfTarget.head : Fld := ⟨0x8, 0, 16, .ro, .na, 0, 0, 65535⟩
def NvfTarget.done : Fld := ⟨0xC, 0, 16, .rwl, .l, 0, 0, 65535⟩
def NvfTarget.blk : Block :=
  ⟨0x1101100, [], 0x10,
   [NvfTarget.address, NvfTarget.enable, NvfTarget.sizeLog2, NvfTarget.head, NvfTarget.done]⟩

/-- Address of NVF_REC[r] in PF0 BAR0 (R447, R561). -/
def NvfRec.adr (i : Nat) : Nat := 0x1102000 + 0x80 * i
def NvfRec.enable : Fld := ⟨0x0, 31, 1, .rwl, .b .publish, 0, 0, 1⟩
def NvfRec.ns : Fld := ⟨0x0, 0, 10, .rwl, .b .publish, 0, 0, 1023⟩
def NvfRec.startLba : Fld := ⟨0x8, 0, 64, .rwl, .b .publish, 0, 0, 0xFFFFFFFFFFFFFFFF⟩
def NvfRec.slots : Fld := ⟨0x10, 0, 32, .rwl, .b .publish, 1, 1, 0xFFFFFFFF⟩
def NvfRec.recLbas : Fld := ⟨0x14, 0, 8, .ro, .na, 1, 0, 255⟩
def NvfRec.blk : Block :=
  ⟨0x1102000, [(16, 0x80)], 0x18,
   [NvfRec.enable, NvfRec.ns, NvfRec.startLba, NvfRec.slots, NvfRec.recLbas]⟩

/-- Address of NVF_REC[r] range j in PF0 BAR0 (R447, R561). -/
def NvfRecRange.adr (i j : Nat) : Nat := 0x1102020 + 0x80 * i + 0x4 * j
def NvfRecRange.offset : Fld := ⟨0x0, 0, 15, .rwl, .b .publish, 0, 0, 32767⟩
def NvfRecRange.len : Fld := ⟨0x0, 20, 10, .rwl, .b .publish, 0, 1, 512⟩
def NvfRecRange.source : Fld := ⟨0x0, 30, 1, .rwl, .b .publish, 0, 0, 1⟩
def NvfRecRange.enable : Fld := ⟨0x0, 31, 1, .rwl, .b .publish, 0, 0, 1⟩
def NvfRecRange.blk : Block :=
  ⟨0x1102020, [(16, 0x80), (8, 0x4)], 0x4,
   [NvfRecRange.offset, NvfRecRange.len, NvfRecRange.source, NvfRecRange.enable]⟩

/-- Address of NVF_NS[n] in PF0 BAR0 (R447, R561). -/
def NvfNs.adr (i : Nat) : Nat := 0x1140000 + 0x10 * i
def NvfNs.enable : Fld := ⟨0x0, 31, 1, .rwl, .l, 0, 0, 1⟩
def NvfNs.lbads : Fld := ⟨0x0, 28, 2, .rwl, .l, 0, 0, 1⟩
def NvfNs.slice : Fld := ⟨0x0, 0, 8, .rwl, .l, 0, 0, 255⟩
def NvfNs.firstExt : Fld := ⟨0x4, 16, 14, .rwl, .l, 0, 0, 16383⟩
def NvfNs.extCount : Fld := ⟨0x4, 0, 7, .rwl, .l, 1, 1, 64⟩
def NvfNs.nsze : Fld := ⟨0x8, 0, 64, .ro, .na, 0, 0, 0xFFFFFFFFFFFFFFFF⟩
def NvfNs.blk : Block :=
  ⟨0x1140000, [(1024, 0x10)], 0x10,
   [NvfNs.enable, NvfNs.lbads, NvfNs.slice, NvfNs.firstExt, NvfNs.extCount, NvfNs.nsze]⟩

/-- Address of NVF_EXT[e] in PF0 BAR0 (R447, R561). -/
def NvfExt.adr (i : Nat) : Nat := 0x1160000 + 0x20 * i
def NvfExt.conn : Fld := ⟨0x0, 0, 20, .rwl, .l, 0, 0, 0xFFFFF⟩
def NvfExt.key : Fld := ⟨0x4, 0, 32, .rwl, .l, 0, 0, 0xFFFFFFFF⟩
def NvfExt.remoteAddr : Fld := ⟨0x8, 0, 64, .rwl, .l, 0, 0, 0xFFFFFFFFFFFFFFFF⟩
def NvfExt.lbas : Fld := ⟨0x10, 0, 64, .rwl, .l, 0, 0, 0xFFFFFFFFFFFFFFFF⟩
def NvfExt.blk : Block :=
  ⟨0x1160000, [(16384, 0x20)], 0x18,
   [NvfExt.conn, NvfExt.key, NvfExt.remoteAddr, NvfExt.lbas]⟩

/-- Address of IGE_EVENT_HOLDOFF in PF0 BAR0 (R471, R561). -/
def IgeHoldoff.adr : Nat := 0x1201000
def IgeHoldoff.microseconds : Fld := ⟨0x0, 0, 16, .rwl, .l, 1000, 1, 65535⟩
def IgeHoldoff.blk : Block :=
  ⟨0x1201000, [], 0x4,
   [IgeHoldoff.microseconds]⟩

/-- Address of IGE_DOORBELL in PF0 BAR0 (R471, R561). -/
def IgeDoorbell.adr : Nat := 0x1201004
def IgeDoorbell.doorbell : Fld := ⟨0x0, 0, 32, .wo, .l, 0, 0, 0xFFFFFFFF⟩
def IgeDoorbell.blk : Block :=
  ⟨0x1201004, [], 0x4,
   [IgeDoorbell.doorbell]⟩

/-- Address of IGE_CMD in PF0 BAR0 (R471, R561). -/
def IgeCmd.adr : Nat := 0x1201100
def IgeCmd.busy : Fld := ⟨0x0, 31, 1, .ro, .na, 0, 0, 1⟩
def IgeCmd.status : Fld := ⟨0x0, 16, 8, .ro, .na, 0, 0, 255⟩
def IgeCmd.op : Fld := ⟨0x0, 0, 2, .wo, .l, 0, 0, 3⟩
def IgeCmd.blk : Block :=
  ⟨0x1201100, [], 0x4,
   [IgeCmd.busy, IgeCmd.status, IgeCmd.op]⟩

/-- Address of IGE_CMD_SLOT in PF0 BAR0 (R471, R561). -/
def IgeCmdSlot.adr : Nat := 0x1201104
def IgeCmdSlot.size : Fld := ⟨0x0, 13, 1, .rwl, .l, 0, 0, 1⟩
def IgeCmdSlot.mode : Fld := ⟨0x0, 12, 1, .rwl, .l, 0, 0, 1⟩
def IgeCmdSlot.slot : Fld := ⟨0x0, 0, 12, .rwl, .l, 0, 0, 4095⟩
def IgeCmdSlot.blk : Block :=
  ⟨0x1201104, [], 0x4,
   [IgeCmdSlot.size, IgeCmdSlot.mode, IgeCmdSlot.slot]⟩

/-- Address of IGE_CMD_DATA[w] in PF0 BAR0 (R471, R561). -/
def IgeCmdData.adr (i : Nat) : Nat := 0x1201140 + 0x4 * i
def IgeCmdData.data : Fld := ⟨0x0, 0, 32, .wo, .l, 0, 0, 0xFFFFFFFF⟩
def IgeCmdData.blk : Block :=
  ⟨0x1201140, [(8, 0x4)], 0x4,
   [IgeCmdData.data]⟩

/-- Address of IGE_KEY[s] in PF0 BAR0 (R471, R561). -/
def IgeKey.adr (i : Nat) : Nat := 0x1240000 + 0x4 * i
def IgeKey.size : Fld := ⟨0x0, 3, 1, .ro, .na, 0, 0, 1⟩
def IgeKey.mode : Fld := ⟨0x0, 2, 1, .ro, .na, 0, 0, 1⟩
def IgeKey.state : Fld := ⟨0x0, 0, 2, .ro, .na, 0, 0, 3⟩
def IgeKey.blk : Block :=
  ⟨0x1240000, [(4096, 0x4)], 0x4,
   [IgeKey.size, IgeKey.mode, IgeKey.state]⟩

/-- Address of IGE_RQ[q] in PF0 BAR0 (R471, R561). -/
def IgeRq.adr (i : Nat) : Nat := 0x1248000 + 0x40 * i
def IgeRq.ringAddr : Fld := ⟨0x0, 6, 58, .rwl, .l, 0, 0, 0x3FFFFFFFFFFFFFF⟩
def IgeRq.headAddr : Fld := ⟨0x8, 4, 60, .rwl, .l, 0, 0, 0xFFFFFFFFFFFFFFF⟩
def IgeRq.irqEn : Fld := ⟨0x18, 31, 1, .rwl, .l, 0, 0, 1⟩
def IgeRq.vector : Fld := ⟨0x18, 20, 11, .rwl, .l, 0, 0, 2047⟩
def IgeRq.sizeLog2 : Fld := ⟨0x18, 12, 4, .rwl, .l, 0, 0, 15⟩
def IgeRq.count : Fld := ⟨0x1C, 16, 16, .rwl, .l, 1, 1, 65535⟩
def IgeRq.time : Fld := ⟨0x1C, 0, 16, .rwl, .l, 0, 0, 65535⟩
def IgeRq.resetb : Fld := ⟨0x20, 2, 1, .wo, .l, 0, 0, 1⟩
def IgeRq.disable : Fld := ⟨0x20, 1, 1, .wo, .l, 0, 0, 1⟩
def IgeRq.enable : Fld := ⟨0x20, 0, 1, .wo, .l, 0, 0, 1⟩
def IgeRq.state : Fld := ⟨0x24, 28, 4, .ro, .na, 0, 0, 15⟩
def IgeRq.error : Fld := ⟨0x24, 16, 8, .ro, .na, 0, 0, 255⟩
def IgeRq.errorIndex : Fld := ⟨0x24, 0, 16, .ro, .na, 0, 0, 65535⟩
def IgeRq.tail : Fld := ⟨0x28, 16, 16, .ro, .na, 0, 0, 65535⟩
def IgeRq.head : Fld := ⟨0x28, 0, 16, .ro, .na, 0, 0, 65535⟩
def IgeRq.overflow : Fld := ⟨0x2C, 0, 1, .ro, .na, 0, 0, 1⟩
def IgeRq.slice : Fld := ⟨0x30, 0, 8, .rwl, .s, 0, 0, 255⟩
def IgeRq.fw : Fld := ⟨0x30, 8, 1, .rwl, .s, 0, 0, 1⟩
def IgeRq.blk : Block :=
  ⟨0x1248000, [(64, 0x40)], 0x34,
   [IgeRq.ringAddr, IgeRq.headAddr, IgeRq.irqEn, IgeRq.vector, IgeRq.sizeLog2, IgeRq.count,
    IgeRq.time, IgeRq.resetb, IgeRq.disable, IgeRq.enable, IgeRq.state, IgeRq.error,
    IgeRq.errorIndex, IgeRq.tail, IgeRq.head, IgeRq.overflow, IgeRq.slice, IgeRq.fw]⟩

/-- Address of IGE_MSEC_PORT[p] in PF0 BAR0 (R471, R561). -/
def IgeMsecPort.adr (i : Nat) : Nat := 0x1250000 + 0x40 * i
def IgeMsecPort.enable : Fld := ⟨0x0, 31, 1, .rwl, .s, 0, 0, 1⟩
def IgeMsecPort.cipher : Fld := ⟨0x0, 29, 2, .rwl, .s, 0, 0, 3⟩
def IgeMsecPort.validate : Fld := ⟨0x0, 27, 2, .rwl, .l, 2, 0, 2⟩
def IgeMsecPort.replayProtect : Fld := ⟨0x0, 26, 1, .rwl, .l, 1, 0, 1⟩
def IgeMsecPort.includeSci : Fld := ⟨0x0, 25, 1, .rwl, .s, 0, 0, 1⟩
def IgeMsecPort.txSa : Fld := ⟨0x0, 24, 1, .rwl, .b .portFrame, 0, 0, 1⟩
def IgeMsecPort.replayWindow : Fld := ⟨0x4, 0, 32, .rwl, .l, 0, 0, 0xFFFFFFFF⟩
def IgeMsecPort.pnThreshold : Fld := ⟨0x8, 0, 64, .rwl, .l, 0xC0000000, 0, 0xFFFFFFFFFFFFFFFF⟩
def IgeMsecPort.outProtected : Fld := ⟨0x10, 0, 32, .ro, .na, 0, 0, 0xFFFFFFFF⟩
def IgeMsecPort.outDrop : Fld := ⟨0x14, 0, 32, .ro, .na, 0, 0, 0xFFFFFFFF⟩
def IgeMsecPort.inOk : Fld := ⟨0x18, 0, 32, .ro, .na, 0, 0, 0xFFFFFFFF⟩
def IgeMsecPort.inInvalid : Fld := ⟨0x1C, 0, 32, .ro, .na, 0, 0, 0xFFFFFFFF⟩
def IgeMsecPort.inNotValid : Fld := ⟨0x20, 0, 32, .ro, .na, 0, 0, 0xFFFFFFFF⟩
def IgeMsecPort.inLate : Fld := ⟨0x24, 0, 32, .ro, .na, 0, 0, 0xFFFFFFFF⟩
def IgeMsecPort.inNoSa : Fld := ⟨0x28, 0, 32, .ro, .na, 0, 0, 0xFFFFFFFF⟩
def IgeMsecPort.blk : Block :=
  ⟨0x1250000, [(24, 0x40)], 0x2C,
   [IgeMsecPort.enable, IgeMsecPort.cipher, IgeMsecPort.validate, IgeMsecPort.replayProtect,
    IgeMsecPort.includeSci, IgeMsecPort.txSa, IgeMsecPort.replayWindow, IgeMsecPort.pnThreshold,
    IgeMsecPort.outProtected, IgeMsecPort.outDrop, IgeMsecPort.inOk, IgeMsecPort.inInvalid,
    IgeMsecPort.inNotValid, IgeMsecPort.inLate, IgeMsecPort.inNoSa]⟩

/-- Address of IGE_MSEC_RXSC[p][c] in PF0 BAR0 (R471, R561). -/
def IgeRxsc.adr (i j : Nat) : Nat := 0x1252000 + 0x40 * i + 0x10 * j
def IgeRxsc.enable : Fld := ⟨0x0, 31, 1, .rwl, .l, 0, 0, 1⟩
def IgeRxsc.sci : Fld := ⟨0x8, 0, 64, .rwl, .b .saEnable, 0, 0, 0xFFFFFFFFFFFFFFFF⟩
def IgeRxsc.blk : Block :=
  ⟨0x1252000, [(24, 0x40), (4, 0x10)], 0x10,
   [IgeRxsc.enable, IgeRxsc.sci]⟩

/-- Address of IGE_MSEC_TXSA[p][a] in PF0 BAR0 (R471, R561). -/
def IgeTxsa.adr (i j : Nat) : Nat := 0x1254000 + 0x80 * i + 0x40 * j
def IgeTxsa.enable : Fld := ⟨0x0, 31, 1, .rwl, .l, 0, 0, 1⟩
def IgeTxsa.an : Fld := ⟨0x0, 28, 2, .rwl, .b .saEnable, 0, 0, 3⟩
def IgeTxsa.keySlot : Fld := ⟨0x0, 0, 12, .rwl, .b .saEnable, 0, 0, 4095⟩
def IgeTxsa.ssci : Fld := ⟨0x4, 0, 32, .rwl, .b .saEnable, 0, 0, 0xFFFFFFFF⟩
def IgeTxsa.pn : Fld := ⟨0x8, 0, 64, .rwl, .b .saEnable, 1, 0, 0xFFFFFFFFFFFFFFFF⟩
def IgeTxsa.currentPn : Fld := ⟨0x20, 0, 64, .ro, .na, 0, 0, 0xFFFFFFFFFFFFFFFF⟩
def IgeTxsa.salt : Fld := ⟨0x10, 0, 96, .rwl, .b .saEnable, 0, 0, 0xFFFFFFFFFFFFFFFFFFFFFFFF⟩
def IgeTxsa.blk : Block :=
  ⟨0x1254000, [(24, 0x80), (2, 0x40)], 0x28,
   [IgeTxsa.enable, IgeTxsa.an, IgeTxsa.keySlot, IgeTxsa.ssci, IgeTxsa.pn, IgeTxsa.currentPn,
    IgeTxsa.salt]⟩

/-- Address of IGE_MSEC_RXSA[p][c][a] in PF0 BAR0 (R471, R561). -/
def IgeRxsa.adr (i j k : Nat) : Nat := 0x1258000 + 0x200 * i + 0x80 * j + 0x40 * k
def IgeRxsa.blk : Block :=
  ⟨0x1258000, [(24, 0x200), (4, 0x80), (2, 0x40)], 0x28,
   [IgeTxsa.enable, IgeTxsa.an, IgeTxsa.keySlot, IgeTxsa.ssci, IgeTxsa.pn, IgeTxsa.currentPn,
    IgeTxsa.salt]⟩

/-- Address of MGT_STATUS in PF0 BAR0 (R537, R561). -/
def MgtStatus.adr : Nat := 0x1401000
def MgtStatus.eid : Fld := ⟨0x0, 24, 8, .ro, .na, 0, 0, 255⟩
def MgtStatus.version : Fld := ⟨0x0, 20, 4, .ro, .na, 0, 0, 15⟩
def MgtStatus.mode : Fld := ⟨0x0, 18, 2, .ro, .na, 1, 0, 3⟩
def MgtStatus.eventSeq : Fld := ⟨0x0, 0, 16, .ro, .na, 0, 0, 65535⟩
def MgtStatus.blk : Block :=
  ⟨0x1401000, [], 0x4,
   [MgtStatus.eid, MgtStatus.version, MgtStatus.mode, MgtStatus.eventSeq]⟩

/-- Address of MGT_SMBUS in PF0 BAR0 (R537, R561). -/
def MgtSmbus.adr : Nat := 0x1401004
def MgtSmbus.dynAddr : Fld := ⟨0x0, 8, 7, .ro, .na, 0, 0, 127⟩
def MgtSmbus.address : Fld := ⟨0x0, 0, 7, .rwl, .b .busStop, 100, 0, 127⟩
def MgtSmbus.blk : Block :=
  ⟨0x1401004, [], 0x4,
   [MgtSmbus.dynAddr, MgtSmbus.address]⟩

/-- Address of MGT_EVENTS in PF0 BAR0 (R537, R561). -/
def MgtEvents.adr : Nat := 0x1401008
def MgtEvents.enable : Fld := ⟨0x0, 31, 1, .rwl, .l, 1, 0, 1⟩
def MgtEvents.retries : Fld := ⟨0x0, 16, 3, .rwl, .l, 3, 0, 7⟩
def MgtEvents.retryMs : Fld := ⟨0x0, 0, 10, .rwl, .l, 10, 1, 1000⟩
def MgtEvents.blk : Block :=
  ⟨0x1401008, [], 0x4,
   [MgtEvents.enable, MgtEvents.retries, MgtEvents.retryMs]⟩

/-- Address of DPX_PORT[p] in PF0 BAR0 (R585, R561). -/
def Dpx.adr (i : Nat) : Nat := 0x1501100 + 0x20 * i
def Dpx.enable : Fld := ⟨0x0, 31, 1, .rw, .l, 0, 0, 1⟩
def Dpx.ptype : Fld := ⟨0x0, 24, 4, .rw, .s, 3, 0, 5⟩
def Dpx.fec : Fld := ⟨0x0, 22, 2, .rw, .s, 0, 0, 2⟩
def Dpx.an : Fld := ⟨0x0, 21, 1, .rw, .s, 0, 0, 1⟩
def Dpx.txPolarity : Fld := ⟨0x0, 20, 1, .rw, .s, 0, 0, 1⟩
def Dpx.rxPolarity : Fld := ⟨0x0, 19, 1, .rw, .s, 0, 0, 1⟩
def Dpx.loopback : Fld := ⟨0x0, 18, 1, .rw, .l, 0, 0, 1⟩
def Dpx.link : Fld := ⟨0x4, 31, 1, .ro, .na, 0, 0, 1⟩
def Dpx.anDone : Fld := ⟨0x4, 30, 1, .ro, .na, 0, 0, 1⟩
def Dpx.phySpeed : Fld := ⟨0x4, 27, 3, .ro, .na, 0, 0, 7⟩
def Dpx.address : Fld := ⟨0x8, 0, 48, .rw, .b .portFrame, 0, 0, 0xFFFFFFFFFFFF⟩
def Dpx.amplitude : Fld := ⟨0x10, 12, 4, .rw, .l, 8, 0, 15⟩
def Dpx.pre : Fld := ⟨0x10, 8, 4, .rw, .l, 2, 0, 15⟩
def Dpx.post : Fld := ⟨0x10, 4, 4, .rw, .l, 4, 0, 15⟩
def Dpx.crcErrors : Fld := ⟨0x14, 0, 32, .ro, .na, 0, 0, 0xFFFFFFFF⟩
def Dpx.fecCorrected : Fld := ⟨0x18, 0, 32, .ro, .na, 0, 0, 0xFFFFFFFF⟩
def Dpx.blk : Block :=
  ⟨0x1501100, [(16, 0x20)], 0x1C,
   [Dpx.enable, Dpx.ptype, Dpx.fec, Dpx.an, Dpx.txPolarity, Dpx.rxPolarity, Dpx.loopback,
    Dpx.link, Dpx.anDone, Dpx.phySpeed, Dpx.address, Dpx.amplitude, Dpx.pre, Dpx.post,
    Dpx.crcErrors, Dpx.fecCorrected]⟩

/-- Address of FPX_PORT[f] in PF0 BAR0 (R586, R561). -/
def Fpx.adr (i : Nat) : Nat := 0x1601100 + 0x20 * i
def Fpx.enable : Fld := ⟨0x0, 31, 1, .rw, .l, 0, 0, 1⟩
def Fpx.breakout : Fld := ⟨0x0, 29, 2, .rw, .s, 0, 0, 2⟩
def Fpx.txPolarity : Fld := ⟨0x0, 24, 4, .rw, .s, 0, 0, 15⟩
def Fpx.rxPolarity : Fld := ⟨0x0, 20, 4, .rw, .s, 0, 0, 15⟩
def Fpx.link : Fld := ⟨0x4, 28, 4, .ro, .na, 0, 0, 15⟩
def Fpx.address : Fld := ⟨0x8, 0, 48, .rw, .b .portFrame, 0, 0, 0xFFFFFFFFFFFF⟩
def Fpx.txEq : Fld := ⟨0x10, 0, 32, .rw, .l, 33344, 0, 0xFFFFFFFF⟩
def Fpx.fecCorrected : Fld := ⟨0x14, 0, 32, .ro, .na, 0, 0, 0xFFFFFFFF⟩
def Fpx.fecUncorrected : Fld := ⟨0x18, 0, 32, .ro, .na, 0, 0, 0xFFFFFFFF⟩
def Fpx.crcErrors : Fld := ⟨0x1C, 0, 32, .ro, .na, 0, 0, 0xFFFFFFFF⟩
def Fpx.blk : Block :=
  ⟨0x1601100, [(2, 0x20)], 0x20,
   [Fpx.enable, Fpx.breakout, Fpx.txPolarity, Fpx.rxPolarity, Fpx.link, Fpx.address, Fpx.txEq,
    Fpx.fecCorrected, Fpx.fecUncorrected, Fpx.crcErrors]⟩

/-- Address of SVC_ROT_CTRL in PF0 BAR0 (R517, R561). -/
def SvcRotCtrl.adr : Nat := 0x1701000
def SvcRotCtrl.yieldLimit : Fld := ⟨0x0, 16, 8, .rwl, .l, 10, 1, 255⟩
def SvcRotCtrl.enable : Fld := ⟨0x0, 0, 9, .rwl, .l, 511, 0, 511⟩
def SvcRotCtrl.blk : Block :=
  ⟨0x1701000, [], 0x4,
   [SvcRotCtrl.yieldLimit, SvcRotCtrl.enable]⟩

/-- Address of SVC_ROT_PERIOD in PF0 BAR0 (R517, R561). -/
def SvcRotPeriod.adr : Nat := 0x1701004
def SvcRotPeriod.seconds : Fld := ⟨0x0, 0, 32, .rwl, .l, 0x15180, 3600, 0x278D00⟩
def SvcRotPeriod.blk : Block :=
  ⟨0x1701004, [], 0x4,
   [SvcRotPeriod.seconds]⟩

/-- Address of SVC_SCRUB in PF0 BAR0 (R517, R561). -/
def SvcScrub.adr : Nat := 0x1701008
def SvcScrub.pass : Fld := ⟨0x0, 0, 12, .rwl, .l, 60, 1, 3600⟩
def SvcScrub.blk : Block :=
  ⟨0x1701008, [], 0x4,
   [SvcScrub.pass]⟩

/-- Address of SVC_CMD in PF0 BAR0 (R517, R561). -/
def SvcCmd.adr : Nat := 0x170100C
def SvcCmd.busy : Fld := ⟨0x0, 31, 1, .ro, .na, 0, 0, 1⟩
def SvcCmd.status : Fld := ⟨0x0, 16, 8, .ro, .na, 0, 0, 255⟩
def SvcCmd.member : Fld := ⟨0x0, 8, 5, .rwl, .l, 0, 0, 31⟩
def SvcCmd.kind : Fld := ⟨0x0, 4, 4, .rwl, .l, 0, 0, 15⟩
def SvcCmd.op : Fld := ⟨0x0, 0, 4, .wo, .l, 0, 0, 15⟩
def SvcCmd.blk : Block :=
  ⟨0x170100C, [], 0x4,
   [SvcCmd.busy, SvcCmd.status, SvcCmd.member, SvcCmd.kind, SvcCmd.op]⟩

/-- Address of SVC_FW_ENTRY in PF0 BAR0 (R517, R561). -/
def SvcFwEntry.adr : Nat := 0x1701010
def SvcFwEntry.address : Fld := ⟨0x0, 0, 64, .ro, .na, 0, 0, 0xFFFFFFFFFFFFFFFF⟩
def SvcFwEntry.blk : Block :=
  ⟨0x1701010, [], 0x8,
   [SvcFwEntry.address]⟩

/-- Address of SVC_STAGING in PF0 BAR0 (R517, R561). -/
def SvcStaging.adr : Nat := 0x1701018
def SvcStaging.lost : Fld := ⟨0x0, 31, 1, .rw1c, .l, 0, 0, 1⟩
def SvcStaging.used : Fld := ⟨0x0, 0, 18, .ro, .na, 0, 0, 0x3FFFF⟩
def SvcStaging.blk : Block :=
  ⟨0x1701018, [], 0x4,
   [SvcStaging.lost, SvcStaging.used]⟩

/-- Address of SVC_KIND[k] in PF0 BAR0 (R517, R561). -/
def SvcKind.adr (i : Nat) : Nat := 0x1701100 + 0x20 * i
def SvcKind.state : Fld := ⟨0x0, 28, 4, .ro, .na, 0, 0, 15⟩
def SvcKind.member : Fld := ⟨0x0, 0, 5, .ro, .na, 31, 0, 31⟩
def SvcKind.nextDue : Fld := ⟨0x4, 0, 32, .ro, .na, 0, 0, 0xFFFFFFFF⟩
def SvcKind.reserveMap : Fld := ⟨0x8, 0, 32, .ro, .na, 0, 0, 0xFFFFFFFF⟩
def SvcKind.retiredMap : Fld := ⟨0xC, 0, 32, .ro, .na, 0, 0, 0xFFFFFFFF⟩
def SvcKind.ceSeen : Fld := ⟨0x10, 0, 32, .ro, .na, 0, 0, 0xFFFFFFFF⟩
def SvcKind.blk : Block :=
  ⟨0x1701100, [(9, 0x20)], 0x14,
   [SvcKind.state, SvcKind.member, SvcKind.nextDue, SvcKind.reserveMap, SvcKind.retiredMap,
    SvcKind.ceSeen]⟩

/-- The blocks of each unit's window, the unit header apart (R561). -/
def blocksOf : Nat → List Block
  | 0 =>
    [PwrCmd.blk, PwrStatus.blk, PwrCtrl.blk, PwrGate.blk, PwrSpread.blk, PwrRetain.blk,
     PwrRetLost.blk, PwrEstimate.blk, PwrWake.blk, SysLead.blk, SysLeadResult.blk,
     SysLeadCmd.blk]
  | 1 =>
    [SysTrust.blk, BootStatus.blk, BootInstall.blk, BootEpoch.blk, BootKeys.blk,
     BootFuseCmd.blk, BootFuseResult.blk, BootRelease.blk, BootRunning.blk, BootVector.blk]
  | 2 =>
    [CfgStatus.blk, CfgFault.blk, CfgSkip.blk, CfgReadyMap.blk, CfgStageAddr.blk,
     CfgStageData.blk, CfgStageCmd.blk]
  | 3 =>
    [TuCtrl.blk, TuSlew.blk, TuPrestart.blk, TuStatus.blk, TuCmd.blk, TuSnapSeq.blk,
     TuSnap.blk, TuSnapDom.blk, TuTxHead.blk, TuTxTail.blk, TuDom.blk, TuCorr.blk, TuTpo.blk,
     TuResid.blk, TuTxstamp.blk]
  | 4 =>
    [CxeBase.blk, CxeEthertype.blk, CxeRope.blk, CxePort.blk, CxeSlice.blk, CxeXPort.blk,
     CxeStn.blk, CxeTmpl.blk, CxePortRope.blk]
  | 5 =>
    [MpiCamPage.blk, MpiAxisRelease.blk, MpiStatus.blk, MpiMaster.blk, MpiSlot.blk,
     MpiHostSlot.blk, MpiCam.blk, MpiAxisState.blk, MpiAxis.blk]
  | 6 =>
    [PpCtrl.blk, PpRole.blk, PpTpid.blk, PpTunnel.blk, PpHoldoff.blk, PpIndirPage.blk,
     PpRouterMac.blk, PpHashSet.blk, PpTrap.blk, PpPort.blk, PpPattern.blk, PpSeqrec.blk,
     PpHashKey.blk]
  | 7 =>
    [PpCtrl.blk, PpRole.blk, PpTpid.blk, PpTunnel.blk, PpHoldoff.blk, PpIndirPage.blk,
     PpRouterMac.blk, PpHashSet.blk, PpTrap.blk, PpPort.blk, PpPattern.blk, PpSeqrec.blk,
     PpHashKey.blk]
  | 8 =>
    [PpCtrl.blk, PpRole.blk, PpTpid.blk, PpTunnel.blk, PpHoldoff.blk, PpIndirPage.blk,
     PpRouterMac.blk, PpHashSet.blk, PpTrap.blk, PpPort.blk, PpPattern.blk, PpSeqrec.blk,
     PpHashKey.blk]
  | 9 =>
    [PpCtrl.blk, PpRole.blk, PpTpid.blk, PpTunnel.blk, PpHoldoff.blk, PpIndirPage.blk,
     PpRouterMac.blk, PpHashSet.blk, PpTrap.blk, PpPort.blk, PpPattern.blk, PpSeqrec.blk,
     PpHashKey.blk]
  | 10 =>
    [PpRole.blk]
  | 11 =>
    [EmtCmd.blk, EmtHoldoff.blk, EmtCmdData.blk, EmtTable.blk, EmtShadow.blk, EmtDma.blk,
     EmtBd.blk, EmtSeqgen.blk, EmtQuota.blk, EmtStash.blk]
  | 12 =>
    [TcmCmd.blk, TcmCmdIndex.blk, TcmHoldoff.blk, TcmCmdValue.blk, TcmCmdMask.blk,
     TcmCmdData.blk, TcmPart.blk, TcmRoleStat.blk, TcmNexthop.blk]
  | 13 =>
    [TmHoldoff.blk, TmPool.blk, TmSampleCtrl.blk, TmSampleSeq.blk, TmSampleStamp.blk,
     TmPort.blk, TmInput.blk, TmClass.blk, TmSliceWeight.blk, TmGclCtrl.blk, TmGclCmd.blk,
     TmXWindow.blk, TmXPort.blk, TmQueue.blk, TmPolicer.blk, TmGcl.blk, TmGclActive.blk]
  | 14 =>
    [HifIdent.blk, HifLink.blk, HifCtrl.blk, HifSubsys.blk, HifPfStatus.blk, HifSliceCfg.blk,
     HifSlice.blk, HifShare.blk, HifRoute.blk]
  | 15 =>
    [QeHoldoff.blk, QeDoorbell.blk, QeTxq.blk, QeRxq.blk, QeEvq.blk, QeScq.blk]
  | 16 =>
    [ShxCtrl.blk, ShxLocal.blk, ShxLocalIp4.blk, ShxLocalIp6.blk, ShxCtxBase.blk,
     ShxRegionBase.blk, ShxPath.blk, ShxRetx.blk, ShxRetxCells.blk, ShxAck.blk, ShxMiss.blk,
     ShxTw.blk, ShxTwUsed.blk, ShxCc0.blk, ShxCc1.blk, ShxCc2.blk, ShxCc3.blk, ShxCc4.blk,
     ShxHoldoff.blk, ShxStat.blk, ShxCmd.blk, ShxCmdArg.blk, ShxPortQueue.blk,
     ShxSliceRegions.blk]
  | 17 =>
    [NvfHoldoff.blk, NvfStatus.blk, NvfTarget.blk, NvfRec.blk, NvfRecRange.blk, NvfNs.blk,
     NvfExt.blk]
  | 18 =>
    [IgeHoldoff.blk, IgeDoorbell.blk, IgeCmd.blk, IgeCmdSlot.blk, IgeCmdData.blk, IgeKey.blk,
     IgeRq.blk, IgeMsecPort.blk, IgeRxsc.blk, IgeTxsa.blk, IgeRxsa.blk]
  | 20 =>
    [MgtStatus.blk, MgtSmbus.blk, MgtEvents.blk]
  | 21 =>
    [Dpx.blk]
  | 22 =>
    [Fpx.blk]
  | 23 =>
    [SvcRotCtrl.blk, SvcRotPeriod.blk, SvcScrub.blk, SvcCmd.blk, SvcFwEntry.blk,
     SvcStaging.blk, SvcKind.blk]
  | _ => []

end Sys2Proof.Machine
end

