-- ==== Sys2Proof/Config.lean ====
section
/-!
DEFINITION. What one die or one board fixes, and the free values: constants without a body, so that
nothing can lean on a value of theirs.
-/

namespace Sys2Proof

/-- DESIGN CHOICE (log 4). A value that the spec leaves open, one for each value of the model's counter
`State.freeCtr`. -/
opaque Config.freeValue : Nat → Nat

/-- DESIGN CHOICE (log 5). How far a CLK_AON tick has come, in ps, for each value of `State.freeCtr`; used modulo 40,000
(R26, R111). -/
opaque Config.subTick : Nat → Nat

/-- The silicon stepping of the die (HIF_IDENT.STEPPING, R356: "per die"). -/
opaque Config.stepping : Nat

/-- DESIGN CHOICE (log 4). Bytes of a management answer that the spec does not spell out. -/
opaque Config.freeBytes : Nat → List Byte

/-- The core address of the boot information block, which the spec does not give (R94; DESIGN CHOICE, log 51). -/
opaque Config.bootInfoAddr : Nat

/-- The vendor's JEP106 code, as the BSDL file gives it (R587). -/
opaque Config.jep106 : Nat

/-- What the fuses of one die hold (R89; DESIGN CHOICE, log 36): the device-unique key, the key hashes, the revocations
and the two copies of each counter's positions. -/
opaque Config.duk : List Byte
opaque Config.vendorHash : Nat → Nat
opaque Config.ownerHash : Nat → Nat
opaque Config.vendorRevoked : BitVec 4
opaque Config.ownerRevoked : BitVec 4
opaque Config.fwPositions : BitVec 64 × BitVec 64
opaque Config.cfgPositions : BitVec 64 × BitVec 64

end Sys2Proof
end

