-- ==== Sys2Proof/Machine/Sparse.lean ====
section
/-!
DEFINITION. Sparse stores: a list of (key, value) pairs in one canonical form (keys strictly rising,
no pair equal to what an unlisted key reads as), used for registers, images and tables.
-/

namespace Sys2Proof.Machine

/-- The value at key `k`, or `d` when it is not listed. -/
def sget {α : Type} (d : α) : List (Nat × α) → Nat → α
  | [], _ => d
  | (k, v) :: m, j => if j = k then v else sget d m j

/-- The listed value at key `k`. -/
def sfind {α : Type} : List (Nat × α) → Nat → Option α
  | [], _ => none
  | (k, v) :: m, j => if j = k then some v else sfind m j

/-- The store without key `j`. -/
def sdel {α : Type} : List (Nat × α) → Nat → List (Nat × α)
  | [], _ => []
  | (k, v) :: m, j => if j = k then sdel m j else (k, v) :: sdel m j

/-- The store with the pair `(j, w)` put in its place. -/
def sins {α : Type} : List (Nat × α) → Nat → α → List (Nat × α)
  | [], j, w => [(j, w)]
  | (k, v) :: m, j, w =>
      if j < k then (j, w) :: (k, v) :: m
      else if j = k then (j, w) :: m
      else (k, v) :: sins m j w

/-- The store after a write of `w` at `j`, where `d` is what `j` reads as when it is not listed. -/
def sput {α : Type} [DecidableEq α] (d : α) (m : List (Nat × α)) (j : Nat) (w : α) : List (Nat × α) :=
  if w = d then sdel m j else sins m j w

/-- Keys strictly rising, every key at least `lo`. -/
def srising {α : Type} : Nat → List (Nat × α) → Bool
  | _, [] => true
  | lo, (k, _) :: m => decide (lo ≤ k) && srising (k + 1) m

/-- The canonical form: keys strictly rising and no pair equal to what the key reads as by default. -/
def swf {α : Type} [DecidableEq α] (dflt : Nat → α) (m : List (Nat × α)) : Bool :=
  srising 0 m && m.all (fun p => decide (p.2 ≠ dflt p.1))

end Sys2Proof.Machine
end

