-- ==== Sys2Proof/Machine/State.lean ====
section
/-!
DEFINITION. The state of the HK4160, one structure for each part of the device, and the machine right
after reset.  Every register of the unit windows is held in `State.regs` (the value last written, R56)
with `State.force` beside it (the value in force, where it differs).  The structures below hold what
no register shows.
-/

namespace Sys2Proof.Machine

/-- One event waiting in event staging (R513): its number, stamp and detail, whether the host still
has to get it, and the management sequence number when the management side still has to. -/
structure Staged where
  ev : Nat
  stamp : Word
  detail : Word
  host : Bool
  mgt : Option Nat
  deriving DecidableEq, Repr

/-- What leaves the device, in the order in which it leaves (R333 rule 3). -/
inductive Out
  /-- A posted write to host memory: the function, the PASID when a slice is concerned, the address
  and the bytes; `relaxed` is its Relaxed Ordering attribute.  No Snoop is never set (R326). -/
  | hostWrite (relaxed : Bool) (pf : Nat) (pasid : Option Nat) (addr : Nat) (data : List Byte)
  /-- A read request to host memory. -/
  | hostRead (pf : Nat) (pasid : Option Nat) (addr len : Nat)
  /-- An MSI-X message of a vector of a function (R334). -/
  | msix (pf vector : Nat) (addr : Nat) (data : Word)
  /-- An ATS Translation Request, for a page under a PASID (R342). -/
  | translationRequest (pf : Nat) (pasid : Option Nat) (page : Nat)
  /-- An ATS Invalidation Completion (R343). -/
  | invalidationDone (pf : Nat) (tag : Nat)
  /-- A frame leaving a port. -/
  | frame (port : Nat) (bytes : List Byte)
  /-- A page programmed into the flash, and a sector erased (R84, R88). -/
  | flashProgram (offset : Nat) (data : List Byte)
  | flashErase (offset : Nat)
  /-- A message to the management controller (R520, R518). -/
  | mgt (bytes : List Byte)
  /-- A request that firmware serves (R534). -/
  | toFirmware (bytes : List Byte)
  /-- What JTAG_TDO shifts out, first bit first (R587). -/
  | jtag (bits : List Bool)
  deriving DecidableEq, Repr

/-- The fuses (R89): the DUK, four vendor and four owner key hashes (0: absent), the revocation fuses,
and the two copies of each anti-rollback position. -/
structure Fuses where
  duk : List Byte
  vendorHash : List Nat
  ownerHash : List Nat
  vendorRevoked : BitVec 4
  ownerRevoked : BitVec 4
  fwPos : BitVec 64 × BitVec 64
  cfgPos : BitVec 64 × BitVec 64
  deriving DecidableEq, Repr

/-- The flash header that governs (R72, R73). -/
structure FlashHdr where
  fwA : Nat
  fwB : Nat
  fwSize : Nat
  cfgA : Nat
  cfgB : Nat
  cfgSize : Nat
  stage : Nat
  stageSize : Nat
  deriving DecidableEq, Repr

/-- A fuse command that runs (R90). -/
inductive FuseOp
  | advanceFw (target : Nat) | advanceCfg (target : Nat) | revokeVendor (i : Nat) | revokeOwner (i : Nat)
  deriving DecidableEq, Repr

/-- A flash operation of the staging registers that runs (R88). -/
inductive StageOp
  | program (offset : Nat) (data : List Byte)
  | erase (offset : Nat)
  | marker (v : Nat)
  deriving DecidableEq, Repr

/-- A core at its first fetch (R94): its pc, a0 and a1, and whether it is in machine mode. -/
structure CoreEntry where
  pc : Nat
  a0 : Nat
  a1 : Nat
  machine : Bool
  deriving DecidableEq, Repr

/-- Secure start, image slots and staging (R67–R96): what no register shows. -/
structure Boot where
  /-- PERST_N at the balls after the filter (R573). -/
  perst : Bool
  /-- Ticks of the start watchdog (R70). -/
  wdTicks : Nat
  /-- This start is a wake from Bivouac (R483). -/
  wake : Bool
  fuses : Fuses
  /-- The ROM key register: the DUK while the ROM can reach it (R76, R82). -/
  romKey : Option (List Byte)
  /-- The DUK register of U18 (R89, R454). -/
  dukReg : Option (List Byte)
  /-- The flash's reported maximum in MHz and capacity in bytes (R71). -/
  sfdp : Option (Nat × Nat)
  hdr : Option FlashHdr
  /-- The slot headers read in step 8: firmware A and B, configuration A and B. -/
  slotHdrs : List (List Byte)
  /-- The bytes of each full read that have arrived: firmware A and B, configuration A and B. -/
  reads : List (List Byte)
  /-- The firmware slot that is read again because the choice has fallen back to it (R81). -/
  reread : Option Nat
  /-- The bytes of the apply pass that have arrived (R48). -/
  applyBuf : List Byte
  /-- The running firmware image: its slot, base address, EPOCH and SEQ (R81, R508). -/
  fw : Option (Nat × Nat × Nat × Nat)
  /-- The applied configuration image: EPOCH and SEQ. -/
  cfg : Option (Nat × Nat)
  /-- The SEAL of the applied configuration image (R479, R486). -/
  cfgSeal : List Byte
  /-- The firmware bodies in general memory, by base address (R81, R508). -/
  loaded : List (Nat × List Byte)
  /-- The entry address that step 9 gives (R93). -/
  entry : Nat
  /-- The byte offset of the next record and its index (R40). -/
  cursor : Nat
  recIndex : Nat
  /-- The units that a record has named, with the IFV of the first (R44); the units whose later records
  are ignored (R50); the units whose READY record is held (R49). -/
  named : List (Nat × Nat)
  refusedUnits : List Nat
  heldReady : List Nat
  /-- Released cores that have not fetched yet (R94). -/
  released : BitVec 26
  /-- The boot information block (R94). -/
  bootInfo : List Word
  /-- What each core that has started held at its first fetch (R94). -/
  cores : List (Nat × CoreEntry)
  /-- The running fuse command (R90). -/
  fuseCmd : Option FuseOp
  /-- The page buffer of the staging registers: its page offset and words by offset (R88). -/
  page : List (Nat × Word)
  /-- The running flash operation (R88). -/
  stageOp : Option StageOp
  /-- A firmware replacement runs (R508): the step of R67 that it has reached, 10 once step 9 has ended, and the
  STATUS that it ends with. -/
  replacing : Option (Nat × Nat)
  /-- The image that it has loaded. -/
  newFw : Option (Nat × Nat × Nat × Nat)
  /-- The edge settings of the output groups, as a PAD_SLEW body lays them out (R575, R577). -/
  padSlew : Nat
  deriving DecidableEq, Repr

/-- A pulse output (R125): the line time of its next leading edge, the trailing edge of the pulse that
runs, and the period and width in force. -/
structure Tpo where
  level : Bool
  next : Option Nat
  trail : Option Nat
  period : Nat
  width : Nat
  deriving DecidableEq, Repr

/-- A write that acts on the timebase and crosses into CLK_AON (R100). -/
inductive TuWrite
  /-- A step of domain `d` in ns (R99). -/
  | step (d : Nat) (ns : Int)
  /-- The word at an address comes into force: ADJUST, RATE, TIMEOUT, AUTO_SWITCH, TU_KEEP. -/
  | word (a : Nat) (v : Word)
  | refresh (d : Nat)
  | invalidate (d : Nat)
  | select (d : Nat)
  | align
  | snap
  deriving DecidableEq, Repr

/-- The time unit and the timebase (R97–R132).  A clock is its count of 2^-32 ns since the epoch;
SECONDS, NANOSECONDS and FRACTION are read off it. -/
structure Time where
  dom0 : Nat
  dom1 : Nat
  line : Nat
  /-- The writes that cross into CLK_AON, in order, with the ticks until each takes effect (R100). -/
  waiting : List (Nat × TuWrite)
  /-- Ticks since the last REFRESH that took effect, saturating at 2^32 - 1 (R104). -/
  since0 : Nat
  since1 : Nat
  /-- The correction of the last tick (R101). -/
  corr : Int
  /-- The line increment of the last tick, 40 ns + ADJUST[SELECTED] + corr, and the sum of all increments: line time
  without the steps of ALIGN (R103, R111). -/
  inc : Nat
  ran : Nat
  /-- The counter of free values at the last tick: the phase within the tick is drawn from it on (log 5). -/
  tickCtr : Nat
  tpo : List Tpo
  /-- The armed launch comparators: port, rope and line-time instant in ns (R121). -/
  armed : List (Nat × Nat × Nat)
  /-- The pre-starts whose clocks still run: 0 to 15 a rope's, with its boundary, 16 to 31 the deadline of a rope, with the
  boundary of its cycle, 32 a placement, with its instant (R19, R124, R476). -/
  prestarted : List (Nat × Nat)
  deriving DecidableEq, Repr

/-- What a station has gathered in one cycle (R160–R164): bytes taken on each path, whether a path has
completed it, whether data was written, and the flags of its status word. -/
structure Gather where
  takenPri : Nat
  takenSec : Nat
  donePri : Bool
  doneSec : Bool
  bytes : Nat
  rejected : Bool
  late : Bool
  deriving DecidableEq, Repr

/-- A station that has gathered nothing. -/
def Gather.none : Gather := ⟨0, 0, false, false, 0, false, false⟩

/-- A station (R139, R144, R163): its two buffer-select bits, what it gathers, what was latched at the
deadline, the STATUS of its last accepted segment and whether recovery is armed (R165). -/
structure StnSt where
  outSel : Bool
  inSel : Bool
  gather : Gather
  latched : Gather
  remote : Nat
  armed : Bool
  deriving DecidableEq, Repr

/-- A station at reset. -/
def StnSt.init : StnSt := ⟨false, false, Gather.none, Gather.none, 0, false⟩

/-- A rope (R139–R174): the causes of a mode change that wait for its next boundary, the cycle that it
gathers, its last boundary, and the flags of the next head record (R148). -/
structure RopeSt where
  stopReq : Bool
  resumeReq : Bool
  hostLost : Bool
  freeze : Bool
  groupStop : Bool
  lostStop : Bool
  boundary : Nat
  gatherCycle : Nat
  latchedCycle : Option Nat
  outStale : Bool
  launchLate : Bool
  unsent : Bool
  rejected : Bool
  late : Bool
  pubRejected : Bool
  pubLate : Bool
  flipped : Nat
  /-- REPLY_REJECTED has been raised for the cycle (R179). -/
  rejectedEvent : Bool
  /-- A hold of U04 has taken effect for the rope (R174). -/
  held : Bool
  /-- The frames of the cycle have been built (R156). -/
  built : Bool
  deriving DecidableEq, Repr

/-- A rope at reset. -/
def RopeSt.init : RopeSt :=
  ⟨false, false, false, false, false, false, 0, 0, none, false, false, false, false, false, false,
   false, 0, false, false, false⟩

/-- A cycle frame that the CXE has built (R155–R157). -/
structure CFrame where
  port : Nat
  rope : Nat
  id : Nat
  cycle : Nat
  bytes : List Byte
  stations : List Nat
  /-- It waits at its comparator (R121). -/
  waiting : Bool
  /-- It has begun to leave the port. -/
  left : Bool
  /-- It was dropped on its way out, and never left (R464). -/
  lost : Bool
  /-- The egress stamp (R112). -/
  stamp : Word
  deriving DecidableEq, Repr

/-- A reply frame that waits on an input lane, with the segments not yet taken (R159). -/
structure LaneFrame where
  port : Nat
  rope : Nat
  cycle : Nat
  version : Nat
  /-- The template it is steered to, for a template reply (R169). -/
  template : Option Nat
  payload : List Byte
  next : Nat
  count : Nat
  /-- The packet-buffer cells that the frame holds (R299). -/
  cells : Nat
  /-- The stamp of its arrival at the port, in ns (R112, R169). -/
  at_ : Nat
  deriving DecidableEq, Repr

/-- The cyclic exchange engine (R133–R180). -/
structure Cxe where
  ropes : List RopeSt
  /-- Stations by number; an unlisted one stands as `fresh`, and the CYCLE of its status word as `freshCycle`: both follow the
  flips and publishes of rope 0, to which a station belongs while its registers stand at reset (R139, R144, R163). -/
  stns : List (Nat × StnSt)
  fresh : StnSt
  freshCycle : Nat
  /-- Output image, buffers 0 and 1, and input image, buffers 0 and 1: bytes by image offset; an
  unlisted byte reads 0 (log 9). -/
  out0 : List (Nat × Byte)
  out1 : List (Nat × Byte)
  in0 : List (Nat × Byte)
  in1 : List (Nat × Byte)
  frames : List CFrame
  lane0 : List LaneFrame
  lane1 : List LaneFrame
  /-- The base period of the last REPLY_REJECTED without a rope, by port (R179). -/
  rejPort : List (Nat × Nat)
  /-- The words of CXE_SLICE written since SERVICE mode began, by slice × 3 + word (R177). -/
  slices : List (Nat × Word)
  deriving DecidableEq, Repr

/-- The internal state of a generator or a stop master (R192, R206): position, velocity and
acceleration in units of 2^-32, and its own wrap count. -/
structure Ramp where
  p : Nat
  v : Int
  a : Int
  wraps : Int
  deriving DecidableEq, Repr

/-- A master axis (R185–R196): what no register shows. -/
structure MasterSt where
  /-- ENABLE was in force at the last snapshot. -/
  on : Bool
  ramp : Ramp
  /-- Line time of the last placement in ns (R191). -/
  lastPlace : Nat
  placed : Bool
  /-- The value of the previous snapshot (R189). -/
  prev : Option Nat
  /-- The generator's sample that waits for its placement time, with that time (R195). -/
  waiting : Option (Nat × Nat × Int × Nat × Nat)
  /-- SOURCE STATION: the running count of the previous sample (R190). -/
  count : Int
  sampled : Bool
  /-- INVALID as the last snapshot judged it, whatever MPI_STATUS shows of a disabled master (R191). -/
  invalid : Bool
  deriving DecidableEq, Repr

/-- A master at reset. -/
def MasterSt.init : MasterSt := ⟨false, ⟨0, 0, 0, 0⟩, 0, false, none, none, 0, false, true⟩

/-- The motion profile interpolator (R181–R216). -/
structure Mpi where
  masters : List MasterSt
  /-- The copy stop masters, by rope × 16 + master (R206). -/
  stops : List (Nat × Ramp)
  /-- Ropes whose axes are checked under R207 at their next pass. -/
  resync : List Nat
  /-- Ropes in STOP whose RAMP_DONE is due (R206). -/
  ramping : List Nat
  /-- The gap of R207 of each HELD axis at the last pass (R208). -/
  gaps : List (Nat × Nat)
  /-- Axes whose release is accepted for the next boundary (R208). -/
  releasing : List Nat
  /-- Axes whose following-error action has been taken since FE_STREAK was last 0 (R210). -/
  feActed : List Nat
  /-- The cam point pool: words by pool index × 4 + word (R198). -/
  cam : List (Nat × Word)
  /-- Tables whose check runs (R199). -/
  checking : List Nat
  /-- Axes that an uncorrectable point put HELD, each with its table, which has not been checked VALID since (R214). -/
  camErr : List (Nat × Nat)
  /-- A hold of U05 has taken effect (R212). -/
  inHold : Bool
  /-- Masters whose host slot is to be placed (R186). -/
  pushDue : List Nat
  /-- Generator samples to be exported, by master: the sample's bytes and its placement time in ns (R195). -/
  exports : List (Nat × List Byte × Nat)
  deriving DecidableEq, Repr

/-- The edits that egress makes on a copy of a frame (R249): the L3 header's offset and version, DSCP, the tag
edit of R271 with the offsets of the outer VLAN tag and of the end of the last one, the R-tag of a PAIR copy, a
next hop's DMAC with DEC_TTL, the removal of an R-tag or a SecTAG, and the ECN mark. -/
structure Edit where
  l3 : Option (Nat × Bool)
  dscp : Option Nat
  tagOp : Nat
  tagVid : Nat
  tagPcp : Nat
  tagAt : Option Nat
  tagEnd : Nat
  rtag : Option Nat
  route : Option (List Byte × Bool)
  popAt : Option Nat
  secAt : Option (Nat × Nat)
  ce : Bool
  deriving DecidableEq, Repr

/-- What travels with a frame from ingress to its receive entry (R371). -/
structure Meta where
  inPort : Nat
  tc : Nat
  reason : Nat
  flags : Nat
  hash : Nat
  /-- Line time of the frame in 1/16 ns (R112), and SCALE with its time in 1/16 ns (R116). -/
  stamp : Nat
  scale : Nat
  domTime : Nat
  bd : Nat
  tagged : Bool
  pcp : Nat
  vid : Nat
  deriving DecidableEq, Repr

/-- Where a frame goes after classification. -/
inductive Fate
  /-- To the cyclic exchange, with the template of a template reply (R239, R159). -/
  | cxe (template : Option Nat)
  /-- To the Shardo transport (R239). -/
  | shx
  /-- Copies toward the traffic manager: the port and queue of each, its REASON and its edits. -/
  | copies (l : List (Nat × Nat × Nat × Edit))
  deriving DecidableEq, Repr

/-- A frame in a pipeline: from its ready window to its classification result (R220–R248). -/
structure PFrame where
  id : Nat
  role : Nat
  input : Nat
  /-- Destination address to the last payload byte. -/
  bytes : List Byte
  /-- The end of its FCS check, once its last byte is in. -/
  fcs : Option Bool
  /-- Line time at the balls in 1/16 ns, and the domain stamps (R112, R116). -/
  stamp : Nat
  dom0 : Nat
  dom1 : Nat
  /-- A host frame's STAMP_REQ with its tag, and its ONE_STEP (R369). -/
  stampTag : Option Nat
  oneStep : Bool
  /-- The classification result, once head in has been passed: the fate, what travels with the frame, and
  whether it is yellow (R318). -/
  result : Option (Fate × Meta × Bool)
  deriving DecidableEq, Repr

/-- A policer's buckets (R318): Tc and Tp in units of 10^-6 bit, and the line time of their last refill. -/
structure Bucket where
  tc : Nat
  tp : Nat
  last : Nat
  deriving DecidableEq, Repr

/-- The packet pipelines (R217–R252): what no register shows. -/
structure Pp where
  frames : List PFrame
  nextId : Nat
  /-- Inputs whose head in is stopped by a handover, by role (R222, R497). -/
  paused : List Nat
  /-- Line time in ns of the last passing frame of each recovery entry that is not FRESH (R244), and the history
  bits of each entry (R243), by
  role × 1024 + entry. -/
  lastPass : List (Nat × Nat)
  hist : List (Nat × Nat)
  /-- Patterns and hash keys whose words take effect at the next head in (R232, R247). -/
  patDue : List Nat
  keyDue : List Nat
  /-- Indirection entries by slice × 2048 + index (R246). -/
  indir : List (Nat × BitVec 16)
  /-- Frames steered to the cyclic exchange that have not reached their lane (R159): frame, template. -/
  toCxe : List (PFrame × Option Nat)
  /-- Shardo packets steered to U16 that it has not taken yet (R239). -/
  toShx : List PFrame
  /-- Frames whose last byte has not entered yet, in arrival order: identifier, role, input and bytes (R220). -/
  tails : List (Nat × Nat × Nat × List Byte)
  /-- Policer buckets by role × 1024 + policer (R318). -/
  buckets : List (Nat × Bucket)
  deriving DecidableEq, Repr

/-- A request that the learn lookup of a frame leaves in a table's queue (R265). -/
structure LearnReq where
  key : List Byte
  port : Nat
  /-- The frame whose FCS check it waits for, and whether that check has ended well. -/
  frame : Nat
  ready : Bool
  move : Bool
  deriving DecidableEq, Repr

/-- An exact-match table (R253–R279).  A slot is bucket × 4 + way, or `stashBase` + entry for the stash;
only valid entries are listed, each with all its bytes. -/
structure EmtTab where
  slots : List (Nat × List Byte)
  /-- The slots whose hit bit is set (R259). -/
  hits : List Nat
  /-- The keys that slices have installed, each with its slice (R274). -/
  owned : List (Nat × List Byte)
  learn : List LearnReq
  /-- The next bucket of the age scanner (R272) and the next item of the shadow compare (R276). -/
  scan : Nat
  shadowPos : Nat
  /-- The 10 µs in which shadow items were last read, and how many in it (R276). -/
  shadowAt : Nat
  shadowRead : Nat
  deriving DecidableEq, Repr

/-- A table at reset. -/
def EmtTab.init : EmtTab := ⟨[], [], [], [], 0, 0, 0, 0⟩

/-- The exact-match unit: its tables and the result of the command that runs (R273): status, hit bit and
the entry to return. -/
structure Emt where
  tabs : List EmtTab
  cmd : Option (Nat × Bool × Option (List Byte))
  /-- The command that waits for the end of a hold (R289): OP, table, entry, uncorrectable buckets. -/
  waiting : Option (Nat × Nat × List Byte × List Nat)
  /-- The LIMITs of EMT_QUOTA written since SERVICE mode began, by table × 256 + slice (R274, R346). -/
  limits : List (Nat × Nat)
  deriving DecidableEq, Repr

/-- A TCAM entry, or the part of one that a half-row of 160 bits holds (R280). -/
structure TEntry where
  valid : Bool
  value : Nat
  mask : Nat
  data : Nat
  deriving DecidableEq, Repr

/-- A row that waits for the update slot of one copy (R283, R285, R286). -/
structure TUpd where
  part : Nat
  copy : Nat
  index : Nat
  repair : Bool
  deriving DecidableEq, Repr

/-- The associative search unit: the half-rows of the blocks' arrays by (block × 16,384 + row) × 2 + half, the verify copy of each
partition at the half-rows of its first copy, the rows that wait for an update slot, and the next row that each copy scrubs,
by partition × 4 + copy (R280, R285–R287). -/
structure Tcm where
  verify : List (Nat × TEntry)
  arrays : List (Nat × TEntry)
  updates : List TUpd
  scrub : List (Nat × Nat)
  /-- The command that waits for the end of a hold (R289): OP and partition. -/
  waiting : Option (Nat × Nat)
  deriving DecidableEq, Repr

/-- A frame in the traffic manager (R294–R302). -/
structure TmFrame where
  id : Nat
  bytes : List Byte
  /-- The end of its FCS check; a host frame has none to wait for. -/
  fcs : Option Bool
  queue : Nat
  port : Nat
  /-- The input whose share holds its cells until the enqueue (R299). -/
  input : Option Nat
  yellow : Bool
  md : Meta
  edit : Edit
  /-- STAMP_REQ with its tag, and ONE_STEP (R369). -/
  stampTag : Option Nat
  oneStep : Bool
  /-- Line time of its enqueue in ns (R320). -/
  since : Nat
  deriving DecidableEq, Repr

/-- A token bucket (R309): tokens in units of 10^-6 bit, and the line time of its last refill in ns. -/
structure Tokens where
  level : Int
  last : Nat
  deriving DecidableEq, Repr

/-- A slice in a class (R305, R306): its tags and its list of backlogged queues with their deficits, the
current one first. -/
structure ClassSlice where
  slice : Nat
  sTag : Nat
  fTag : Nat
  ring : List (Nat × Int)
  /-- The current queue has gained its quantum at this visit. -/
  gained : Bool
  deriving DecidableEq, Repr

/-- A class of a port (R305): virtual time and its backlogged slices. -/
structure ClassSt where
  v : Nat
  slices : List ClassSlice
  deriving DecidableEq, Repr

/-- The traffic manager (R294–R324): what no register shows. -/
structure Tm where
  /-- Frames that have not been enqueued yet, in arrival order. -/
  arriving : List TmFrame
  /-- Queued frames, by queue number. -/
  queues : List (Nat × List TmFrame)
  /-- Classes by port × 8 + class. -/
  classes : List (Nat × ClassSt)
  /-- Token buckets of classes by port × 8 + class, and of queues by queue number. -/
  classTokens : List (Nat × Tokens)
  queueTokens : List (Nat × Tokens)
  /-- The gate list switch that is armed, by port: its line time in ns (R312). -/
  switchAt : List (Nat × Nat)
  /-- Shapers whose settings were written since they last took effect (R310): classes by
  port × 8 + class, queues by 256 + queue. -/
  shaperDue : List Nat
  /-- Policers whose settings were written since their role's last head in (R319), by role × 1024 + n. -/
  policerDue : List Nat
  /-- Queues whose SLICE has been written since SERVICE mode began (R346). -/
  sliceSet : List Nat
  /-- The rates that the protected windows of USXGMII ports were derived with, by 16 × port + rope (R316). -/
  winRate : List (Nat × Nat)
  deriving DecidableEq, Repr

/-- One MSI-X table entry (R334). -/
structure MsixEntry where
  addr : Nat
  data : Word
  masked : Bool
  deriving DecidableEq, Repr

/-- An MSI-X entry at reset: masked, as the PCIe specification has it (PRESUMED, log 12). -/
def MsixEntry.init : MsixEntry := ⟨0, 0, true⟩

/-- Whom a read or a write of host memory serves. -/
inductive Reader
  /-- A completion queue of U17, which only writes. -/
  | cq (q : Nat)
  | queue (kind q : Nat)
  | integrity (q : Nat)
  | sq (q : Nat)
  | conn (c : Nat)
  | ctx (c : Nat)
  | region (i : Nat)
  | remote (c : Nat)
  | nvme (i : Nat)
  | blob (k : Nat)
  | emtDma (t : Nat)
  /-- The argument of the slice-control entry that slice `k` runs (R375), and of SHX_CMD (R418). -/
  | arg (k : Nat)
  | shxCmd
  /-- A shadow item of a table, by table and item (R276). -/
  | shadow (t i : Nat)
  /-- Data placed into a region for a peer, which is only written (R398). -/
  | place (i : Nat)
  /-- Nothing any more: the data of a read that a cut has left is discarded, and the slice that it served has it outstanding
  until its completion enters (R337, R348). -/
  | other (slice : Option Nat)
  deriving DecidableEq, Repr

/-- What the Advanced Error Reporting capability logs (R338, R341). -/
inductive AerError
  | completionTimeout | poisoned | ecrc | unexpectedCompletion
  deriving DecidableEq, Repr

/-- An entry of the AER capability: the error with its header log and its TLP prefix log (R325). -/
structure AerEntry where
  error : AerError
  header : Nat
  pfx : Nat
  deriving DecidableEq, Repr

/-- A read that has been issued and waits for its completion: its number, function and reader, the requests that it was cut
into, each with a tag of its own, and the PASID and pages of the translations that it was issued with (R325, R343). -/
structure HostRead where
  id : Nat
  fn : Nat
  reader : Reader
  tlps : Nat
  pages : List (Option Nat × Nat)
  deriving DecidableEq, Repr

/-- What a function's Device Control registers hold (R325, R341): the payload and read request sizes in bytes, the tags
that the link's mode gives, the completion timeout range (0: the default), and whether the timeout is disabled. -/
structure DevControl where
  payload : Nat
  readRequest : Nat
  tagBits : Nat
  timeoutRange : Nat
  timeoutOff : Bool
  deriving DecidableEq, Repr

/-- Device Control at reset, as the PCIe specification has it (PRESUMED, log 13). -/
def DevControl.init : DevControl := ⟨128, 512, 10, 0, false⟩

/-- A physical function: what no register shows (R325, R334, R337, R341, R342). -/
structure PfSt where
  msixEnable : Bool
  functionMask : Bool
  table : List (Nat × MsixEntry)
  pba : List Nat
  atsEnable : Bool
  /-- Invalidation requests whose completion is due, each with the numbers of the reads that were issued with a translation
  that it took (R343). -/
  invalidations : List (Nat × List Nat)
  aer : List AerEntry
  dev : DevControl
  deriving DecidableEq, Repr

/-- A function at reset. -/
def PfSt.init : PfSt := ⟨false, false, [], [], false, [], [], DevControl.init⟩

/-- A request that waits for a translation answer, for a tag, or behind a posted write that waits (R325, R333, R342). -/
inductive XReq
  | write (relaxed : Bool) (by_ : Option Reader) (pasid : Option Nat) (addr : Nat) (data : List Byte)
  | read (pasid : Option Nat) (addr len : Nat) (by_ : Reader)
  | msix (vector : Nat)
  deriving DecidableEq, Repr

/-- The host interface (R325–R356). -/
structure Hif where
  pfs : List PfSt
  /-- The link is lost on the device side (R339). -/
  linkLost : Bool
  /-- The reads that have been issued and wait for their completions, oldest first, and the number of the next. -/
  reads : List HostRead
  nextRead : Nat
  /-- Slices whose restore has read the header of its blob, and reads the rest (R353). -/
  restoring : List Nat
  /-- Requests that HIF has not issued yet, each with its function, in order (R333, R342). -/
  xlate : List (Nat × XReq)
  /-- The translations that the device's cache holds, newest first: function, PASID, untranslated page, translated page
  (R325, R342). -/
  atc : List (Nat × Option Nat × Nat × Nat)
  /-- The Translation Requests that wait for their answer: function, PASID and page. -/
  asked : List (Nat × Option Nat × Nat)
  /-- The blob that is being saved, by slice, with the STATUS that the save ends with and its length (R351). -/
  saves : List (Nat × Nat × Nat)
  /-- The share words written since SERVICE mode began, by slice × 14 + word (R346). -/
  shares : List (Nat × Word)
  /-- In-doubt NVMe commands, by slice: submission queue and command identifier (R348). -/
  inDoubt : List (Nat × List (Nat × Nat))
  /-- COUNT_LOG2 at the entry into SERVICE mode, whose equal shares stand until each is written (R346). -/
  heldLog2 : Nat
  deriving DecidableEq, Repr

/-- A ring queue (R357–R367): what no register shows. -/
structure QSt where
  /-- Entries fetched and not done, with their index, oldest first. -/
  fetched : List (Nat × List Byte)
  /-- The index of the first entry that no read has asked for. -/
  next : Nat
  /-- The first index and the count of each outstanding descriptor read, oldest first (R362). -/
  asked : List (Nat × Nat)
  /-- Entries done that no head record reports yet (R363). -/
  unreported : Nat
  /-- The drain that runs: `some true` for RESET, `some false` for DISABLE (R367). -/
  drain : Option Bool
  /-- The 384-bit summary of an event ring, and its zeros that wait to be written (R374). -/
  summary : Nat
  zeroDue : Bool
  deriving DecidableEq, Repr

/-- A queue that has just been enabled. -/
def QSt.init : QSt := ⟨[], 0, [], 0, none, 0, false⟩

/-- A transmit frame whose data is being read (R370). -/
structure TxFrame where
  q : Nat
  /-- Its entries. -/
  count : Nat
  length : Nat
  classify : Bool
  stampTag : Option Nat
  oneStep : Bool
  /-- The absolute TM queue of a frame that bypasses ingress. -/
  queue : Nat
  report : Bool
  /-- Reads that its data takes. -/
  reads : Nat
  deriving DecidableEq, Repr

/-- The queue engine: queues by kind × 4096 + number (kind 4 for integrity request queues), and the
transmit frames that wait for data. -/
structure Qe where
  qs : List (Nat × QSt)
  tx : List TxFrame
  deriving DecidableEq, Repr

/-- A packet of a connection that its ring entry or command has made (R400, R401): its opcode, its region key,
offset, length and placement time, the copy of its payload, and where the answer to a READ_REQ is placed, with
the function and PASID of that placement. -/
structure Pkt where
  tag : Nat
  op : Nat
  key : Nat
  addr : Nat
  len : Nat
  time : Nat
  last : Bool
  data : List Byte
  dest : List (Nat × Nat)
  via : Option (Nat × Option Nat)
  /-- Its packet sequence number, once it has been sent (R404). -/
  psn : Option Nat
  /-- It is acknowledged, and waits for the answer that completes it. -/
  acked : Bool
  deriving DecidableEq, Repr

/-- A packet to be made from the local buffer of a ring entry (R400): the address its payload is read from, or
its answer is placed at. -/
structure Work where
  local_ : Nat
  pkt : Pkt
  deriving DecidableEq, Repr

/-- A ring entry that is not done: its tag, opcode and REPORT (R402). -/
structure SendEnt where
  tag : Nat
  op : Nat
  report : Bool
  deriving DecidableEq, Repr

/-- An accepted FLUSH or READ_REQ that is not answered yet (R407, R408): its PSN, the held timed writes that it
waits for, the region, offset and length of a read, and whether its host read has been issued. -/
structure Todo where
  psn : Nat
  flush : Bool
  waits : List Nat
  region : Nat
  addr : Nat
  len : Nat
  issued : Bool
  deriving DecidableEq, Repr

/-- An answer that a connection sends (R386): it may have to wait for a pause, a hold or its pace (R395, R414, R420). `plain`
says that the packet has met no context, and carries no check value (R461). -/
inductive Answer
  | ack (late : Bool)
  | nak (code psn : Nat)
  | notReady (psn : Nat) (plain : Bool)
  | flushAck (psn : Nat)
  | readResp (psn : Nat) (data : List Byte)
  | hello (move reply : Bool)
  deriving DecidableEq, Repr

/-- A connection that is not FREE (R388, R389). -/
structure Conn where
  /-- Bytes 0–127 as CONN_SETUP wrote them, with the fields of a move replaced (R391). -/
  ctx : List Byte
  state : Nat
  version : Nat
  slice : Nat
  epoch : Nat
  sendPsn : Nat
  expected : Nat
  work : List Work
  /-- Packets that are not acknowledged, oldest first; those not sent yet stand last. -/
  pkts : List Pkt
  /-- Going back: the next PSN to resend (R406). -/
  cursor : Option Nat
  /-- The send ring: HEAD, TAIL, STATE, ERROR, ERROR_INDEX, what is fetched, and the entries not done. -/
  head : Nat
  tail : Nat
  rstate : Nat
  rerror : Nat
  rindex : Nat
  q : QSt
  ents : List SendEnt
  nextTag : Nat
  /-- Congestion control (R414): Mb/s, growth events, ALPHA in 1/65536, and the line times in ns of the last cut,
  growth event and decay, the bytes sent and whether a mark has come since the growth event, and the line time
  before which no paced packet is sent, in ps. -/
  rate : Nat
  streak : Nat
  alpha : Nat
  tCut : Option Nat
  growAt : Nat
  growBytes : Nat
  growMark : Bool
  decayAt : Nat
  paceAt : Nat
  /-- The retransmission timer (R406): its value in µs, the line time in ns at which it ends, and the expiries
  without progress. -/
  rto : Nat
  rtoAt : Option Nat
  tries : Nat
  /-- HELLOs sent in CONNECTING and the line time of the next (R389). -/
  hellos : Nat
  helloAt : Nat
  /-- A pause: the line time of its end, the PSN to go back to, and whether a TIMED_FULL began it (R395, R406). -/
  pause : Option (Nat × Nat × Bool)
  /-- The receiver (R404, R405, R415): packets accepted since the last ACK, the line time of the first of them, CE
  marks, and the line time of the SEQ_GAP sent for this EXPECTED. -/
  accepted : Nat
  ackFrom : Option Nat
  marks : Nat
  gap : Option Nat
  todo : List Todo
  /-- FLUSHes whose notices wait for DONE (R439): the ring index after the notice, and the PSN. -/
  notices : List (Nat × Nat)
  /-- Answers that wait to be sent, oldest first, and the time before which nothing is sent on the connection (R395). -/
  out : List Answer
  quiet : Option Nat
  /-- The slice and address of the last byte written to the host since the last FLUSH_ACK (R407). -/
  lastWrite : Option (Nat × Nat)
  /-- CONN_CLOSE runs, for the sender of the command (R389). -/
  closing : Option Origin
  deriving DecidableEq, Repr

/-- A region table entry (R396). -/
structure Region where
  valid : Bool
  lead : Bool
  mpi : Bool
  timed : Bool
  read : Bool
  write : Bool
  gen : Nat
  slice : Nat
  base : Nat
  length : Nat
  deriving DecidableEq, Repr

/-- A region that has never been registered. -/
def Region.init : Region := ⟨false, false, false, false, false, false, 0, 0, 0, 0⟩

/-- A held timed write (R409, R411): its identifier, connection, region, the line time of its placement in ns, offset
and data. -/
structure HeldWrite where
  id : Nat
  conn : Nat
  region : Nat
  due : Int
  addr : Nat
  data : List Byte
  deriving DecidableEq, Repr

/-- The Shardo transport (R382–R423). -/
structure Shx where
  conns : List (Nat × Conn)
  regions : List (Nat × Region)
  /-- Cached contexts and region entries, the most recently used first (R393, R397). -/
  cache : List Nat
  rcache : List Nat
  /-- Connections whose context is not in host memory as it stands (R393). -/
  dirty : List Nat
  /-- The miss buffer (R394), oldest first: the connection, the region that is missing if one is, and the packet. -/
  parked : List (Nat × Option Nat × PFrame)
  /-- Doorbells that wait for their context (R394): the connection and its TAIL. -/
  doorWait : List (Nat × Nat)
  /-- Held timed writes in placement order, and the due times of the last four placed (R411). -/
  held : List HeldWrite
  nextHeld : Nat
  placed : List Int
  /-- The line time of the last RESYNC by connection number (R392). -/
  resync : List (Nat × Nat)
  /-- The region share words written since SERVICE mode began, by slice × 2 + word (R396). -/
  shares : List (Nat × Word)
  /-- Packets that a failed connection has given up: the command of U17 and the connection (R432). -/
  lost : List (Nat × Nat)
  /-- The arguments of the SHX_CMD whose argument read is outstanding (R418). -/
  args : List Byte
  /-- Regions whose REGION_DEREGISTER waits for placements, with its sender (R398). -/
  dereg : List (Nat × Origin)
  /-- The line time in ns at which a hold of U16 began, and the time that holds have taken: the timers of the connections
  stand meanwhile (R420). -/
  heldAt : Option Nat
  heldNs : Nat
  deriving DecidableEq, Repr

/-- How far an NVMe command with a range-lock entry has come (R430–R437). -/
inductive NvPhase
  /-- An earlier entry overlaps its range (R433). -/
  | stalled
  /-- Its PRP list is read: the address of the next part, and the pages that are known. -/
  | list (addr : Nat) (pages : List Nat)
  /-- Its data is read from these pages. -/
  | data (pages : List Nat)
  /-- A Flush, or the FLUSH of FUA, waits for packets that come before it (R430, R431). -/
  | before
  /-- Every packet has been handed to U16. -/
  | sent
  /-- It has finished, and waits for room in its completion queue (R437). -/
  | finished
  deriving DecidableEq, Repr

/-- A range-lock entry (R433): the submission queue and command it belongs to, or the rope of a record (R442). -/
structure NvLock where
  id : Nat
  sq : Option Nat
  cid : Nat
  rope : Nat
  op : Nat
  nss : List Nat
  lba : Nat
  blocks : Nat
  fua : Bool
  prp1 : Nat
  prp2 : Nat
  phase : NvPhase
  /-- FLUSHes have been issued. -/
  flushed : Bool
  deriving DecidableEq, Repr

/-- A submission queue: its base, entries, completion queue, the next entry to fetch, its tail, and the entry reads that
are outstanding. -/
structure NvSq where
  base : Nat
  size : Nat
  cq : Nat
  head : Nat
  tail : Nat
  asked : Nat
  deriving DecidableEq, Repr

/-- A completion queue: its base, entries, host head, device tail, phase tag, and its interrupt. -/
structure NvCq where
  base : Nat
  size : Nat
  head : Nat
  tail : Nat
  phase : Bool
  ien : Bool
  vector : Nat
  deriving DecidableEq, Repr

/-- A completion that waits for room in its queue (R437): the completion queue, the submission queue, the command,
its status and Dword 0, and the range-lock entry that holds it. -/
structure NvDone where
  cq : Nat
  sq : Nat
  cid : Nat
  status : Nat
  dw0 : Nat
  lock : Option Nat
  deriving DecidableEq, Repr

/-- A publish that a recorder has to record (R441). -/
structure NvRec where
  rope : Nat
  cycle : Nat
  stamp : Nat
  mode : Nat
  missing : Nat
  lost : Nat
  deriving DecidableEq, Repr

/-- An I/O entry that has been fetched (R433): its submission queue, and its bytes once its read has completed. -/
structure NvFetched where
  sq : Nat
  entry : Option (List Byte)
  deriving DecidableEq, Repr

/-- The storage front end (R424–R447). -/
structure Nvf where
  /-- CC, CSTS, AQA, ASQ and ACQ of the controller (R425). -/
  cc : Nat
  csts : Nat
  aqa : Nat
  asq : Nat
  acq : Nat
  sqs : List (Nat × NvSq)
  cqs : List (Nat × NvCq)
  /-- Range-lock entries in fetch order. -/
  locks : List NvLock
  nextId : Nat
  /-- I/O entries fetched, in fetch order, that have not met their lock check (R433), and the submission queue that was fetched
  from last (R424). -/
  fetched : List NvFetched
  turn : Nat
  /-- Completions held for room, in the order in which their commands finished. -/
  held : List NvDone
  /-- Features by identifier (R424). -/
  features : List (Nat × Nat)
  /-- Asynchronous Event Requests held, and the namespaces whose change has not been announced. -/
  aers : List Nat
  changed : List Nat
  /-- SMART counts since the last controller reset: blocks of 512 B read and written, commands read and written. -/
  smart : List Nat
  /-- Publishes that recorders have to record. -/
  recDue : List NvRec
  deriving DecidableEq, Repr

/-- A message in lane 12 (R451, R457): its request queue, its operation, its STATUS as its first block entered, the
key it runs under, what its key's loss makes of its tag, its entry and its source data. -/
structure LaneMsg where
  q : Nat
  op : Nat
  status : Nat
  key : List Byte
  /-- 0, or what the tag differs by from the one that would verify, in its first 8 bytes (R452). -/
  spoil : Nat
  entry : List Byte
  data : List Byte
  deriving DecidableEq, Repr

/-- The integrity engine (R448–R471): the key store, the messages in lane 12 and the health of the entropy source. -/
structure Ige where
  keys : List (Nat × List Byte)
  /-- Slots whose word in the key store has an uncorrectable error that no read has met yet (R452). -/
  badKeys : List Nat
  /-- The request queue that had the last turn (R459). -/
  turn : Nat
  msgs : List LaneMsg
  rngFault : Bool
  deriving DecidableEq, Repr

/-- What an entry to Bivouac keeps (R479, R486): the retained table and CXE banks, the SEAL of the applied
configuration image, the buckets of each half, the first bank and the number of banks of each exact-match table, and the
signature of each retained bank, a CXE bank under its number plus 32. -/
structure Kept where
  table : Nat
  cxe : Nat
  imgSeal : List Byte
  geometry : List (Nat × Nat × Nat)
  sigs : List (Nat × Nat)
  deriving DecidableEq, Repr

/-- The power controller (R472–R491): what no register shows. -/
structure Pwr where
  /-- The device is Off (R472, R581). -/
  off : Bool
  /-- The transition that runs: 1 to SUMMIT, 2 to CAMP, 3 the entry to Bivouac, 4 a wake (R485). -/
  run : Option Nat
  /-- The WAKE_CAUSE of the pending request. -/
  pendCause : Nat
  kept : Option Kept
  /-- Clocks that Camp has stopped (R474). -/
  stopped : List Nat
  /-- The spread depth in force of each spread-eligible clock, by its bit in PWR_SPREAD (R477). -/
  spread : List Nat
  /-- The PLLs that have not taken the PWR_SPREAD written last, by bit (R477). -/
  spreadDue : Nat
  /-- The tick at which Camp was entered, and by clock the last tick in Camp in which its units had work (R474). -/
  campAt : Nat
  workAt : List (Nat × Nat)
  deriving DecidableEq, Repr

/-- A copy of a bank or a TCAM block into its reserve (R500, R501, R505): the member, the reserve, and whether the copy
retires the member instead of testing it. -/
structure SvcCopy where
  member : Nat
  reserve : Nat
  retire : Bool
  deriving DecidableEq, Repr

/-- One reserve kind (R493–R506). -/
structure SvcKind where
  /-- The physical member that carries each duty. -/
  duty : List Nat
  copy : Option SvcCopy
  /-- The member whose test runs. -/
  testing : Option Nat
  /-- Members whose test a unit reset cut short: they stay out of service until the test runs again (R516). -/
  cut : List Nat
  /-- The count of CLK_AON ticks from which the due times are counted, and that at which a member last fell due (R494). -/
  since : Nat
  lastDue : Nat
  deriving DecidableEq, Repr

/-- A pipeline handover that is placed (R497): the role, the line time in ns at which its pause begins, and whether it has
begun. -/
structure SvcPause where
  role : Nat
  start : Nat
  begun : Bool
  deriving DecidableEq, Repr

/-- A write of UNIT_CTRL with RESET that came in its unit's handover, and acts at its end (R507): the unit, EXPERT, HOLD and
GO. -/
structure DueReset where
  unit : Nat
  expert : Bool
  hold : Bool
  go : Bool
  deriving DecidableEq, Repr

/-- The service controller (R493–R517): what no register shows. -/
structure Svc where
  kinds : List SvcKind
  /-- The core that is due and has not been yielded (R496). -/
  dueCore : Option Nat
  /-- The CLK_AON tick in which that core fell due (R496). -/
  dueAt : Nat
  pause : Option SvcPause
  resetDue : List DueReset
  deriving DecidableEq, Repr

/-- A kind at rest, with `n` duties. -/
def SvcKind.rest (n : Nat) : SvcKind := ⟨List.range n, none, none, [], 0, 0⟩

/-- A PLDM Type 5 update (R532): the state of the firmware device, the state before it, the component being transferred
(1 firmware, 2 configuration), its size and the bytes pulled so far. -/
structure Pldm where
  state : Nat
  previous : Nat
  component : Nat
  size : Nat
  offset : Nat
  deriving DecidableEq, Repr

/-- No update. -/
def Pldm.idle : Pldm := ⟨0, 0, 0, 0, 0⟩

/-- The management port and the lead (R518–R537): what no register shows. -/
structure Mgt where
  /-- Ticks left of the lease (R528). -/
  leaseTicks : Nat
  /-- A VERSION 2 request has been received since PERST_N (R531). -/
  v2seen : Bool
  /-- The oldest event message has been sent and not taken; retries made for it (R531). -/
  tried : Bool
  retries : Nat
  /-- The physical address of the endpoint that last assigned the endpoint ID (R531). -/
  owner : Nat
  pldm : Pldm
  deriving DecidableEq, Repr

/-- What no register shows of the ports (R583, R584): ports whose PCS holds lock, with the ticks for which the
conditions of LINK have held, and the last supported USXGMII speed negotiated since PERST_N in Mb/s. -/
structure Ports where
  lock : List (Nat × Nat)
  usx : List (Nat × Nat)
  deriving DecidableEq, Repr

/-- The instructions of the TAP (R587). -/
inductive TapInstr
  | bypass | idcode | samplePreload | extest | extestPulse | extestTrain | clamp | highz
  deriving DecidableEq, Repr

/-- The test access port (R587): the instruction in force and the boundary-scan cells as last loaded. -/
structure Jtag where
  instr : TapInstr
  cells : List Bool
  deriving DecidableEq, Repr

/-- What stops the machine: nothing does.  The spec describes no condition in which the device stops
taking commands; a halt (R91) is a state that it goes on from. -/
inductive Fault where
  deriving DecidableEq, Repr

/-- The commands that the model does not take. -/
inductive Refusal
  /-- Raised by an arm of `exec` whose command has no meaning yet; safe, the run stops there. -/
  | notModelled (mnemonic : String)
  deriving DecidableEq, Repr

/-- The device. -/
structure State where
  /-- The commands that wait, first in first out (the model's own). -/
  pending : List Instr
  /-- Register words by PF0 BAR0 address: the value last written (R56); an unlisted word reads its reset value. -/
  regs : List (Nat × Word)
  /-- The words whose value in force differs from the value last written (R56, R57, R58). -/
  force : List (Nat × Word)
  /-- The low word that a 32-bit writer has written to a 64-bit register, by writer, with its address (R553). -/
  latch : List (Origin × Nat × Word)
  /-- The high word latched by a 32-bit read of a low word, by reader, with its address (R553). -/
  readLatch : List (Origin × Nat × Word)
  /-- The events in event staging, oldest first (R513). -/
  staged : List Staged
  /-- The events of the cycle in progress that are still to be announced, in ascending number: unit, event and detail.
  The model's own: it is empty between commands (R511; log 99). -/
  noted : List (Nat × Nat × Nat)
  /-- When each event under a hold-off was last raised, in CLK_AON ticks, by key (R251, R291, R323). -/
  heldOff : List (Nat × Nat)
  /-- What has left the device, oldest first. -/
  out : List Out
  /-- The model's own counter of free values (DESIGN CHOICE, log 4). -/
  freeCtr : Nat
  /-- CLK_AON ticks since PERST_N rose (R97). -/
  ticks : Nat
  boot : Boot
  time : Time
  cxe : Cxe
  mpi : Mpi
  pp : Pp
  emt : Emt
  tcm : Tcm
  tm : Tm
  hif : Hif
  qe : Qe
  shx : Shx
  nvf : Nvf
  ige : Ige
  pwr : Pwr
  svc : Svc
  mgt : Mgt
  ports : Ports
  jtag : Jtag
  deriving DecidableEq, Repr

/-- The machine right after reset: a filtered rise of PERST_N has begun step 1 of the start sequence
(R67), no strap is sampled yet, and every register holds the value of its Reset column (R7, R563). -/
def State.reset : State where
  pending := []
  regs := []
  force := []
  latch := []
  readLatch := []
  staged := []
  noted := []
  heldOff := []
  out := []
  freeCtr := 0
  ticks := 0
  boot :=
    { perst := true, wdTicks := 0, wake := false
      fuses := { duk := Config.duk, vendorHash := [0, 1, 2, 3].map Config.vendorHash, ownerHash := [0, 1, 2, 3].map Config.ownerHash
                 vendorRevoked := Config.vendorRevoked, ownerRevoked := Config.ownerRevoked
                 fwPos := Config.fwPositions, cfgPos := Config.cfgPositions }
      romKey := none, dukReg := none, sfdp := none, hdr := none, slotHdrs := [], reads := [[], [], [], []], reread := none
      applyBuf := [], fw := none, cfg := none, cfgSeal := [], loaded := [], entry := 0, cursor := 0, recIndex := 0, named := []
      refusedUnits := [], heldReady := [], released := 0, bootInfo := [], cores := [], fuseCmd := none, page := []
      stageOp := none, replacing := none, newFw := none, padSlew := 0x43 }
  time :=
    { dom0 := 0, dom1 := 0, line := 0, waiting := [], since0 := 0, since1 := 0, corr := 0, inc := 40 * 2 ^ 32, ran := 0, tickCtr := 0
      tpo := List.replicate 8 { level := false, next := none, trail := none, period := 0, width := 0 }
      armed := [], prestarted := [] }
  cxe := { ropes := List.replicate 16 RopeSt.init, stns := [], fresh := StnSt.init, freshCycle := 0, out0 := [], out1 := [], in0 := [], in1 := []
           frames := [], lane0 := [], lane1 := [], rejPort := [], slices := [] }
  mpi := { masters := List.replicate 16 MasterSt.init, stops := [], resync := [], ramping := [], gaps := []
           releasing := [], feActed := [], cam := [], checking := [], camErr := [], inHold := false, pushDue := [], exports := [] }
  pp := { frames := [], nextId := 0, paused := [], lastPass := [], hist := [], patDue := [], keyDue := [], indir := []
          toCxe := [], toShx := [], tails := [], buckets := [] }
  emt := { tabs := List.replicate 16 EmtTab.init, cmd := none, waiting := none, limits := [] }
  tcm := { verify := [], arrays := [], updates := [], scrub := [], waiting := none }
  tm := { arriving := [], queues := [], classes := [], classTokens := [], queueTokens := [], switchAt := []
          shaperDue := [], policerDue := [], sliceSet := [], winRate := [] }
  hif := { pfs := List.replicate 4 PfSt.init, linkLost := true, reads := [], nextRead := 0, restoring := [], xlate := [], atc := [], asked := [], saves := [], shares := [], inDoubt := [], heldLog2 := 0 }
  qe := { qs := [], tx := [] }
  shx := { conns := [], regions := [], cache := [], rcache := [], dirty := [], parked := [], doorWait := [], held := [], nextHeld := 0
           placed := [], resync := [], shares := [], lost := [], args := [], dereg := [], heldAt := none, heldNs := 0 }
  nvf := { cc := 0, csts := 0, aqa := 0, asq := 0, acq := 0, sqs := [], cqs := [], locks := [], nextId := 0, fetched := [], turn := 0, held := []
           features := [], aers := [], changed := [], smart := [0, 0, 0, 0], recDue := [] }
  ige := { keys := [], badKeys := [], turn := 63, msgs := [], rngFault := false }
  pwr := { off := false, run := none, pendCause := 0, kept := none, stopped := [], spread := List.replicate 10 0, spreadDue := 0, campAt := 0, workAt := [] }
  svc := { kinds := [24, 4, 8, 13, 8, 16, 16, 16, 16].map SvcKind.rest, dueCore := none, dueAt := 0, pause := none, resetDue := [] }
  mgt := { leaseTicks := 0, v2seen := false, tried := false, retries := 0, owner := 0, pldm := Pldm.idle }
  ports := { lock := [], usx := [] }
  jtag := { instr := .idcode, cells := [] }

end Sys2Proof.Machine
end

