-- ==== Sys2Proof/Machine/Words.lean ====
section
/-!
DEFINITION. The register file and the boundaries of its class B fields, the codes of the unit states, and the events that a
cycle notes: what the timebase and all the rest are written with.
-/

namespace Sys2Proof.Machine

/-! ## The register map -/

/-- The first block of a list that holds address `a`, with the address of the entry. -/
def findBlock (a : Nat) : List Block → Option (Block × Nat)
  | [] => none
  | b :: bs => match b.entry a with
    | some e => some (b, e)
    | none => findBlock a bs

/-- The block and entry that hold address `a` of PF0 BAR0 (R550, R551). -/
def regAt (a : Nat) : Option (Block × Nat) :=
  match Hdr.blk.entry a with
  | some e => some (Hdr.blk, e)
  | none => findBlock a (blocksOf (a / 0x100000))

/-- The bits of the word at `a` that fields with property `p` occupy; `p` takes the field and its entry. -/
def fieldMask (p : Fld → Nat → Bool) (a : Nat) : Word :=
  match regAt a with
  | some (b, e) => b.fields.foldl (fun w f => if p f e then w ||| f.maskOff (a - e) else w) 0
  | none => 0

/-- The units that serve no level-1 interface (R64). -/
def ifvMinOf (u : Nat) : Nat := if u = 5 ∨ u = 17 ∨ u = 18 ∨ u = 23 then 2 else 1

/-- The founding units (R33). -/
def founding (u : Nat) : Bool := [0, 1, 2, 14, 19, 20, 23].contains u

/-- The reserves at rest of each kind, as a map of members (R493). -/
def reserveAtRest : Nat → Nat
  | 0 => 0x3000000
  | 1 => 0x10
  | 2 => 0x100
  | 3 => 0x2000
  | 4 => 0x100
  | _ => 0x10000

/-- The reset value of the registers of the header of unit `u` that depend on the unit (R555, R65). -/
def hdrReset (u d : Nat) (w : Word) : Word :=
  if d = 0 then BitVec.ofNat 32 (0x41600000 + u)
  else if d = 4 then BitVec.ofNat 32 (0x200 + ifvMinOf u)
  else if d = 8 ∨ d = 0xC then BitVec.ofNat 32 (ifvMinOf u)
  else if d = 0x10 then (if founding u then 1#32 else 0x100#32)
  else w

/-- The reset value of the word at `a`: its fields' Reset column (R7), and where that depends on the
unit, the port or the queue, the value that the rule of the register gives. -/
def resetWord (a : Nat) : Word :=
  let w : Word := match regAt a with
    | some (b, e) => b.fields.foldl (fun w f => w ||| f.resetOff (a - e)) 0
    | none => 0
  let u := a / 0x100000
  let d := a % 0x100000
  if d < 0x1000 then hdrReset u d w
  else if d = 0x1004 ∧ 6 ≤ u ∧ u ≤ 9 then BitVec.ofNat 32 ((u - 6) * 0x101)
  else if d = 0x1004 ∧ u = 10 then 0x40F#32
  else if d = 0x1020 ∧ 6 ≤ u ∧ u ≤ 9 then 0xF#32
  else if u = 3 ∧ 0x8000 ≤ d ∧ d < 0x8060 then
    (if d < 0x8040 then 0x03340534#32 else 0x05CC11CA#32)
  else if u = 13 ∧ d = 0x8860 then 0#32
  else if u = 13 ∧ 0xA0000 ≤ d ∧ d < 0xC0000 ∧ d % 0x20 = 0 then w ||| 0x18000000#32
  else if u = 23 ∧ 0x1100 ≤ d ∧ d < 0x1220 ∧ d % 0x20 = 0x8 then
    BitVec.ofNat 32 (reserveAtRest ((d - 0x1100) / 0x20))
  else if u = 23 ∧ 0x1100 ≤ d ∧ d < 0x1220 ∧ d % 0x20 = 0 then 0x1F#32
  else w

/-! ## Words and fields -/

/-- The value last written to the word at `a` (R56). -/
def State.rd (s : State) (a : Nat) : Word := sget (resetWord a) s.regs a

/-- The value in force of the word at `a` (R56, R57). -/
def State.inForce (s : State) (a : Nat) : Word := sget (s.rd a) s.force a

/-- `n` words from `a` of a reader `r`, the first the least significant. -/
def wordsOf (r : Nat → Word) : Nat → Nat → Nat
  | 0, _ => 0
  | n + 1, a => (r a).toNat + 2 ^ 32 * wordsOf r n (a + 4)

/-- Field `f` of the entry at `b`, through the reader `r`. -/
def fieldOf (r : Nat → Word) (b : Nat) (f : Fld) : Nat :=
  wordsOf r f.words (b + f.off) / 2 ^ f.lo % 2 ^ f.width

/-- The value last written to field `f` of the entry at `b`. -/
def State.get (s : State) (b : Nat) (f : Fld) : Nat := fieldOf s.rd b f

/-- The value in force of field `f` of the entry at `b`. -/
def State.act (s : State) (b : Nat) (f : Fld) : Nat := fieldOf s.inForce b f

/-- The value in force of a one-bit field. -/
def State.actB (s : State) (b : Nat) (f : Fld) : Bool := s.act b f == 1

/-- The value last written to a one-bit field. -/
def State.getB (s : State) (b : Nat) (f : Fld) : Bool := s.get b f == 1

/-- `w` with the bits of `m` taken from `v`. -/
def merge (m w v : Word) : Word := (w &&& ~~~m) ||| (v &&& m)

/-- The state with the word at `a` last written as `w`. -/
def State.setReg (s : State) (a : Nat) (w : Word) : State :=
  { s with regs := sput (resetWord a) s.regs a w }

/-- The state with the word in force at `a` set to `w`; it is listed only where it differs from the
value last written. -/
def State.setForce (s : State) (a : Nat) (w : Word) : State :=
  { s with force := sput (s.rd a) s.force a w }

/-- The device changes the bits of `m` in the word at `a` to those of `v`, written and in force alike. -/
def State.setBits (s : State) (a : Nat) (m v : Word) : State :=
  let f := s.inForce a
  ((s.setReg a (merge m (s.rd a) v)).setForce a (merge m f v))

/-- The device changes `n` words of field `f`, from word `i` at address `a`. -/
def setWords (f : Fld) (v : Nat) : Nat → Nat → Nat → State → State
  | 0, _, _, s => s
  | n + 1, i, a, s =>
      setWords f v n (i + 1) (a + 4)
        (s.setBits a (f.maskAt i) (BitVec.ofNat 32 ((v <<< f.lo) >>> (32 * i))))

/-- The device sets field `f` of the entry at `b` to `v` (modulo the field's width). -/
def State.set (s : State) (b : Nat) (f : Fld) (v : Nat) : State :=
  setWords f (v % 2 ^ f.width) f.words 0 (b + f.off) s

/-- The device adds one to a wrapping counter field. -/
def State.bump (s : State) (b : Nat) (f : Fld) : State := s.set b f (s.get b f + 1)

/-- A Boolean as a field value. -/
def b2n (b : Bool) : Nat := if b then 1 else 0

/-! ## Boundaries -/

/-- The words in force after every bit of `mask` takes the value last written (R58). -/
def latchList (rd : Nat → Word) (mask : Nat → Word) : List (Nat × Word) → List (Nat × Word)
  | [] => []
  | (a, w) :: m =>
      let w' := merge (mask a) w (rd a)
      if w' = rd a then latchList rd mask m else (a, w') :: latchList rd mask m

/-- The values last written to the bits of `mask` come into force. -/
def State.latchMask (s : State) (mask : Nat → Word) : State :=
  { s with force := latchList s.rd mask s.force }

/-- The values last written to the bits of `mask` go back to the values in force (R593). -/
def revertList (mask : Nat → Word) : List (Nat × Word) → State → State
  | [], s => s
  | (a, w) :: m, s =>
      revertList mask m ((s.setReg a (merge (mask a) (s.rd a) w)).setForce a w)

/-- Reverts the pending values of `mask`. -/
def State.revertMask (s : State) (mask : Nat → Word) : State := revertList mask s.force s

/-- The bits of class B fields with a boundary that `p` picks, in the entry it is given. -/
def boundaryMask (p : Boundary → Nat → Bool) : Nat → Word :=
  fieldMask (fun f e => match f.app with
    | .b x => p x e
    | _ => false)

/-- The boundary that `p` names is latched: its pending values take effect together (R58). -/
def State.latchB (s : State) (p : Boundary → Nat → Bool) : State := s.latchMask (boundaryMask p)

/-- The bits of the window of unit `u`. -/
def windowMask (u a : Nat) : Word := if a / 0x100000 = u then 0xFFFFFFFF#32 else 0

/-- The class B bits of the window of unit `u`. -/
def flushMask (u a : Nat) : Word := windowMask u a &&& boundaryMask (fun _ _ => true) a

/-- The address of a word of a pending gate list (R324). -/
def isGcl (a : Nat) : Bool := decide (0xDE0000 ≤ a) && decide (a < 0xDF0000)

/-- The gate entries that pend, written since their list's last switch, are entries of the active list (R58; log 101). -/
def State.flushGcl (s : State) : State :=
  (s.force.filter fun x => isGcl x.1).foldl (fun t x => t.setBits (x.1 + 0x10000) 0xFFFFFFFF#32 (s.rd x.1)) s

/-- The pending shadows of unit `u` take effect at once, because the unit leaves READY (R58); an L value waits for its
count (R57). -/
def State.flushUnit (s : State) (u : Nat) : State := (if u = 13 then s.flushGcl else s).latchMask (flushMask u)

/-! ## Time and free values -/

/-- One nanosecond in units of 2^-32 ns. -/
def nsUnit : Nat := 2 ^ 32

/-- Line time of the last tick in ns (R97). -/
def State.lineNs (s : State) : Nat := s.time.line / nsUnit

/-- Bivouac: PWR_STATUS.STATE is BIVOUAC, or an entry or wake of it (R492). -/
def State.inBivouac (s : State) : Bool := s.get PwrStatus.adr PwrStatus.state == 3

/-! ## Unit states -/

/-- STATE codes of UNIT_STATE (R65). -/
def stABSENT : Nat := 0
def stSTARTING : Nat := 1
def stREADY : Nat := 2
def stHELD : Nat := 3
def stHALTED : Nat := 4
def stERROR : Nat := 5
def stLOST : Nat := 6

/-- CAUSE codes of UNIT_STATE (R65). -/
def caNONE : Nat := 0
def caNO_RECORD : Nat := 1
def caSCALE_OFF : Nat := 2
def caAPPLYING : Nat := 3
def caUNIT_RESET : Nat := 4
def caRECORD_REFUSED : Nat := 0x10
def caNO_READY_RECORD : Nat := 0x11
def caPREREQ_ABSENT : Nat := 0x12
def caRETENTION_LOST : Nat := 0x20
def caHOLD_LEAD : Nat := 0x21
def caHOLD_SERVICE : Nat := 0x22

/-- STATE of unit `u`. -/
def State.ustate (s : State) (u : Nat) : Nat := s.get (Hdr.adr u) Hdr.state

/-- CAUSE of unit `u`. -/
def State.ucause (s : State) (u : Nat) : Nat := s.get (Hdr.adr u) Hdr.cause

/-! ## The events of a cycle -/

/-- An event enters the list of its cycle behind those of a lower or equal number. -/
def insNote (e : Nat × Nat × Nat) : List (Nat × Nat × Nat) → List (Nat × Nat × Nat)
  | [] => [e]
  | x :: l => if 16 * e.1 + e.2.1 < 16 * x.1 + x.2.1 then e :: x :: l else x :: insNote e l

/-- Unit `u` raises its event `n` in the cycle in progress, at whose end it is announced with the others (R511). -/
def State.note (s : State) (u n detail : Nat) : State := { s with noted := insNote (u, n, detail) s.noted }

end Sys2Proof.Machine
end

