-- ==== Sys2Proof/Machine/Timebase.lean ====
section
/-!
DEFINITION. The domains and line time, tick by tick (R97–R105, R128, R129).
-/

namespace Sys2Proof.Machine

/-- Forty nanoseconds, the nominal advance of a tick, in units of 2^-32 ns. -/
def tickUnits : Nat := 40 * nsUnit

/-- One second in units of 2^-32 ns. -/
def secUnits : Nat := 1000000000 * nsUnit

/-- Clock `d`. -/
def Time.dom (t : Time) (d : Nat) : Nat := if d = 0 then t.dom0 else t.dom1

/-- TU_DOMAIN_ADJUST of domain `d` (R98). -/
def State.adjust (s : State) (d : Nat) : Int := toSigned 32 (s.act (TuDom.adr d) TuDom.adjust)

/-- SELECTED (R101). -/
def State.selected (s : State) : Nat := s.get TuStatus.adr TuStatus.selected

/-- Domain `d` is VALID (R104). -/
def State.domValid (s : State) (d : Nat) : Bool := bit (s.get TuStatus.adr TuStatus.valid) d

/-- MAXCORR: the slew limit of a tick (R101), RATE × 2^32 × 40 / 10^7. -/
def maxCorr (rate : Nat) : Nat := rate * 2 ^ 32 * 40 / 10000000

/-- The correction of a tick: the difference to the domain, limited to MAXCORR (R101). -/
def clampCorr (m : Nat) (diff : Int) : Int :=
  if diff < -(m : Int) then -(m : Int) else if (m : Int) < diff then (m : Int) else diff

/-- The ticks that a domain's watchdog allows; 0 turns it off (R104). -/
def State.wdLimit (s : State) (d : Nat) : Nat := s.act (TuDom.adr d) TuDom.timeout * 25000

/-- Ticks since the last REFRESH of domain `d`. -/
def Time.since (t : Time) (d : Nat) : Nat := if d = 0 then t.since0 else t.since1

/-- Sets the count of domain `d`. -/
def Time.setSince (t : Time) (d n : Nat) : Time := if d = 0 then { t with since0 := n } else { t with since1 := n }

/-- Changes the timebase. -/
def State.modTime (s : State) (f : Time → Time) : State := { s with time := f s.time }

/-- The device selects domain `d`, on its own or by a write (R105). -/
def State.selectDomain (s : State) (d : Nat) (auto : Bool) : State :=
  if s.selected = d then s
  else ((s.set TuStatus.adr TuStatus.selected d).set TuCtrl.adr TuCtrl.domainSel d).note 3 5 (d + 2 * b2n auto)

/-- Domain `d` becomes invalid (R104). -/
def State.loseDomain (s : State) (d : Nat) : State :=
  if s.domValid d then (s.set TuStatus.adr TuStatus.valid (s.get TuStatus.adr TuStatus.valid - 2 ^ d)).note 3 4 d else s

/-- The automatic switch, once the tick's validities stand: `v0` is what they were before it.  The selected domain has
become invalid, or is invalid while the other one has become VALID (R105). -/
def State.autoSwitch (s : State) (v0 : Nat → Bool) : State :=
  let k := s.selected
  if s.actB TuCtrl.adr TuCtrl.autoSwitch && !s.domValid k && s.domValid (1 - k) && (v0 k || !v0 (1 - k)) then
    s.selectDomain (1 - k) true
  else s

/-- The watchdog of domain `d` has expired when its count has reached the limit (R104). -/
def State.wdJudge (s : State) (d : Nat) : State :=
  if 0 < s.wdLimit d ∧ s.wdLimit d ≤ s.time.since d then s.loseDomain d else s

/-- A step of domain `d`; one that would take the domain below zero seconds is discarded (R99). -/
def State.applyStep (s : State) (d : Nat) (z : Int) : State :=
  let v : Int := (s.time.dom d : Int) + z * (nsUnit : Int)
  if v < 0 then s.note 3 2 (0x1110 + 0x20 * d)
  else s.modTime fun t => if d = 0 then { t with dom0 := v.toNat } else { t with dom1 := v.toNat }

/-- What a write does before the advance of its tick: steps, settings, REFRESH and INVALIDATE (R99–R104). -/
def State.tuEarly (s : State) : TuWrite → State
  | .step d z => s.applyStep d z
  | .word a v => s.setForce a v
  | .refresh d =>
      let s1 := s.modTime fun t => t.setSince d 0
      if s1.domValid d then s1 else s1.set TuStatus.adr TuStatus.valid (s1.get TuStatus.adr TuStatus.valid + 2 ^ d)
  | .invalidate d => s.loseDomain d
  | _ => s

/-- A write of DOMAIN_SEL governs over the automatic decision of its tick (R105). -/
def State.tuSelect (s : State) : TuWrite → State
  | .select d => (s.set TuCtrl.adr TuCtrl.domainSel d).selectDomain d false
  | _ => s

/-- The watchdogs stand still in a hold of U03, from a unit reset of it until GO, and in Bivouac until a wake has powered the
domains up, from where both count anew (R128, R129). -/
def State.wdFrozen (s : State) : Bool :=
  s.ustate 3 == stHELD || (s.ustate 3 == stSTARTING && s.ucause 3 == caUNIT_RESET) || s.inBivouac ||
    (s.get PwrStatus.adr PwrStatus.state == 4 && !s.boot.wake)

/-- The counts since the last REFRESH advance (R104). -/
def State.wdTick (s : State) : State :=
  if s.wdFrozen then s
  else s.modTime fun t => { t with since0 := min (t.since0 + 1) (2 ^ 32 - 1), since1 := min (t.since1 + 1) (2 ^ 32 - 1) }

/-- The writes that have crossed, and those that have a tick less to go (R100). -/
def Time.crossed (t : Time) : List TuWrite := (t.waiting.filter fun x => decide (x.1 ≤ 1)).map (·.2)
def Time.crossing (t : Time) : List (Nat × TuWrite) :=
  (t.waiting.filter fun x => !decide (x.1 ≤ 1)).map fun x => (x.1 - 1, x.2)

/-- Both domain clocks advance by a tick (R98). -/
def State.advance (s : State) : State :=
  s.modTime fun t =>
    { t with dom0 := ((t.dom0 : Int) + tickUnits + s.adjust 0).toNat
             dom1 := ((t.dom1 : Int) + tickUnits + s.adjust 1).toNat }

/-- The correction of a tick that ends in this state, before line time moves (R101). -/
def State.tickCorr (s : State) : Int :=
  let k := s.selected
  let free : Int := (s.time.line : Int) + tickUnits + s.adjust k
  clampCorr (maxCorr (s.act TuSlew.adr TuSlew.rate)) ((s.time.dom k : Int) - free)

/-- The line increment of a tick that ends in this state: 40 ns + ADJUST[SELECTED] + the correction (R101). -/
def State.tickInc (s : State) : Nat := ((tickUnits : Int) + s.adjust s.selected + s.tickCorr).toNat

/-- Line time follows the selected domain, and the shadows take it (R101, R111). -/
def State.slew (s : State) : State :=
  let corr := s.tickCorr
  let inc := s.tickInc
  s.modTime fun t =>
    { t with line := ((t.line : Int) + tickUnits + s.adjust s.selected + corr).toNat, corr := corr, inc := inc, ran := t.ran + inc
             tickCtr := s.freeCtr }

/-- A tick up to its selection: the writes that have crossed apply in their order, the domains advance, and the switch is
decided when the validities of the tick stand (R99–R105). -/
def State.tickSelects (s : State) : State :=
  let ws := s.time.crossed
  let s1 := ws.foldl State.tuEarly (s.modTime fun t => { t with waiting := t.crossing }).wdTick
  ws.foldl State.tuSelect (((s1.advance.wdJudge 0).wdJudge 1).autoSwitch s.domValid)

/-- The line increment of the tick in progress: nothing written from now on crosses before it ends (R100, R101). -/
def State.nowInc (s : State) : Nat := s.tickSelects.tickInc

end Sys2Proof.Machine
end

