-- ==== Sys2Proof/Machine/Ops.lean ====
section
/-!
DEFINITION. The named operations over time, the events, the unit states and the outputs, which every command's meaning is
written with.
-/

namespace Sys2Proof.Machine

/-! ## Time and free values -/

/-- The phase within a tick in ps, after `n` draws from counter `c` on: free below 40 ns, and never less than before. -/
def phaseFrom (c : Nat) : Nat → Nat
  | 0 => Config.subTick c % 40000
  | n + 1 => max (phaseFrom c n) (Config.subTick (c + n + 1) % 40000)

/-- The ns that line time has run since PERST_N, without the steps of ALIGN: what the buckets of shapers and policers refill
by (R309, R318). -/
def State.ranNs (s : State) : Nat := s.time.ran / nsUnit

/-- How far the tick in progress has come, in ps (log 5); no shadow runs in Bivouac (R129). -/
def State.phase (s : State) : Nat := if s.inBivouac then 0 else phaseFrom s.time.tickCtr (s.freeCtr - s.time.tickCtr)

/-- Line time now, interpolated within the tick, in 2^-32 ns (R111, R112). -/
def State.instant (s : State) : Nat := s.time.line + s.phase * s.nowInc / 40000

/-- The domains that hold a time shadow (R110). -/
inductive Shadow
  | tu | cxe | pp | tm | shx | sys | nvf | cpu
  | port (p : Nat)
  deriving DecidableEq, Repr

/-- The nominal frequency of a shadow's clock in kHz (R23, R24); 0 for a fabric port, whose frequency the spec does not give
and whose shadow counts without steps here (log 5). -/
def State.shadowKHz (s : State) : Shadow → Nat
  | .tu => 500000
  | .pp => 1250000
  | .tm => 1250000
  | .cpu => 2400000
  | .port p =>
      if p < 16 then
        (match s.act (Dpx.adr p) Dpx.ptype with | 0 => 125000 | 1 => 312500 | 2 => 78125 | 4 => 390625 | _ => 156250)
      else 0
  | _ => 1000000

/-- A time shadow in units of 2^-32 ns: the line time published at the last tick, and the increment of the tick in progress,
scaled by the clock's period over 40 ns, for each cycle of its own clock since: so it never leads line time (R26, R111; log
5). -/
def State.shadow (s : State) (k : Shadow) : Nat :=
  let f := s.shadowKHz k
  if f = 0 then s.instant else s.time.line + s.phase * f / 1000000000 * (s.nowInc * 25000 / f)

/-- The 64-bit nanosecond count of a shadow and its 16-bit fraction (R110). -/
def State.shadowNs (s : State) (k : Shadow) : Nat := s.shadow k / nsUnit % 2 ^ 64
def State.shadowFrac (s : State) (k : Shadow) : Nat := s.shadow k % nsUnit / 2 ^ 16

/-- The RISC-V time CSR of every application core (R110). -/
def State.timeCsr (s : State) : Nat := s.shadowNs .cpu

/-- Line time now in ns, as a unit reads it from the CLK_SYS shadow (R110). -/
def State.nowNs (s : State) : Nat := s.shadowNs .sys

/-- The stamp of an instant in ns (R107). -/
def stampOf (ns : Nat) : Word := BitVec.ofNat 32 ns

/-- A free value, and the state that will not use it again. -/
def State.free (s : State) : Nat := Config.freeValue s.freeCtr

/-- The state with the next free value. -/
def State.tickFree (s : State) : State := { s with freeCtr := s.freeCtr + 1 }

/-- Something leaves the device. -/
def State.emit (s : State) (o : Out) : State := { s with out := s.out ++ [o] }

/-! ## Events -/

/-- The capacity of event staging (R513). -/
def stagingCapacity : Nat := 131072

/-- Event `16·u + n` may reach the host: its unit's map and its route enable it (R335). -/
def State.routed (s : State) (u n : Nat) : Bool :=
  bit (s.act (Hdr.adr u) Hdr.eventMap) n && s.actB (HifRoute.adr (16 * u + n)) HifRoute.enable

/-- Enters an event for the management side: the sequence number it takes, when it is not discarded
at once (R531). -/
def State.mgtEnter (s : State) : State × Option Nat :=
  if s.mgt.v2seen then
    let q := s.get MgtStatus.adr MgtStatus.eventSeq
    let s' := s.set MgtStatus.adr MgtStatus.eventSeq (q + 1)
    if s.get MgtStatus.adr MgtStatus.eid = 0 ∨ s.act MgtEvents.adr MgtEvents.enable = 0 then (s', none)
    else (s', some q)
  else (s, none)

/-- Puts an event into staging; when staging is full, it goes into the summary of its routed queue with OVERFLOW,
and LOST is set (R513). -/
def State.stage (s : State) (e : Staged) : State :=
  if e.host = false ∧ e.mgt = none then s
  else if s.staged.length < stagingCapacity then
    let s' := { s with staged := s.staged ++ [e] }
    s'.set SvcStaging.adr SvcStaging.used s'.staged.length
  else
    let s1 := s.set SvcStaging.adr SvcStaging.lost 1
    let q := s.act (HifRoute.adr e.ev) HifRoute.evq
    if e.host then
      let s2 := s1.set (QeEvq.adr q) QeTxq.overflow 1
      let x := sget QSt.init s2.qe.qs (8192 + q)
      { s2 with qe := { s2.qe with qs := sput QSt.init s2.qe.qs (8192 + q) { x with summary := x.summary ||| 2 ^ e.ev } } }
    else s1

/-- In a halt only the events of U00, U01 and U20 reach the management port (R535). -/
def State.haltMutes (s : State) (u : Nat) : Bool :=
  s.get BootStatus.adr BootStatus.haltCode != 0 && !(u == 0 || u == 1 || u == 20)

/-- Unit `u` raises its event `n` with a 32-bit detail: the moment record takes it, and it is announced
once to each side (R511, R513, R335, R531). -/
def State.raise (s : State) (u n detail : Nat) : State :=
  let st := stampOf s.nowNs
  let h := Hdr.adr u
  let s1 := ((s.set h Hdr.momEvent n).set h Hdr.momStamp st.toNat).set h Hdr.momDetail detail
  let (s2, q) := if s1.haltMutes u then (s1, none) else s1.mgtEnter
  (s2.stage { ev := 16 * u + n, stamp := st, detail := BitVec.ofNat 32 detail
              host := s.routed u n, mgt := q }).tickFree

/-- The cycle ends: what its units raised is announced in ascending event number (R511). -/
def State.announce (s : State) : State :=
  s.noted.foldl (fun t e => t.raise e.1 e.2.1 e.2.2) { s with noted := [] }

/-- CLK_AON ticks in one microsecond. -/
def ticksPerUs : Nat := 25

/-- Unit `u` raises event `n` unless the same key was raised less than `us` microseconds ago; a
suppressed occurrence writes nothing (R251, R511). -/
def State.raiseHeld (s : State) (key us u n detail : Nat) : State :=
  match sfind s.heldOff key with
  | some t =>
      if s.ticks < t + us * ticksPerUs then s
      else ({ s with heldOff := sins s.heldOff key s.ticks }).raise u n detail
  | none => ({ s with heldOff := sins s.heldOff key s.ticks }).raise u n detail

/-- The common events of a unit (R62). -/
def State.valueRefused (s : State) (u off : Nat) : State := s.raise u 2 off
def State.staticRefused (s : State) (u off : Nat) : State := s.raise u 1 off
def State.notLead (s : State) (u off : Nat) : State := s.raise u 3 off

/-! ## Unit states -/

/-- The device enters Bivouac or is in it: every unit but U00, U20 and U03 has stopped (R479). -/
def State.asleep (s : State) : Bool := [2, 3].contains (s.get PwrStatus.adr PwrStatus.state)

/-- Unit `u` is READY (R12), and has not stopped for Bivouac. -/
def State.ready (s : State) (u : Nat) : Bool := s.ustate u == stREADY && !(s.asleep && !([0, 3, 20].contains u))

/-- The strapped scale, 1 to 4; 0 before the straps are sampled (R2). -/
def State.scale (s : State) : Nat := s.get BootStatus.adr BootStatus.scale

/-- Unit `u` moves to a state with a cause: UNIT_READY and CFG_READY_MAP follow, pending values take
effect when it leaves READY, and STATE_CHANGE is raised when STATE changes (R58, R62, R65). -/
def State.setUnit (s : State) (u st cause : Nat) : State :=
  let old := s.ustate u
  let h := Hdr.adr u
  let s1 := ((s.set h Hdr.state st).set h Hdr.cause cause).set h Hdr.ready (b2n (st == stREADY))
  let m := s.get CfgReadyMap.adr CfgReadyMap.ready
  let m' := if st = stREADY then m ||| 2 ^ u else (m ||| 2 ^ u) - 2 ^ u
  let s2 := s1.set CfgReadyMap.adr CfgReadyMap.ready m'
  let s3 := if old = stREADY ∧ st ≠ stREADY then s2.flushUnit u else s2
  if old = st then s3 else s3.raise u 0 (st + 16 * old + 256 * cause)

/-- The units that must be READY before unit `u` (R48). -/
def prereqs : Nat → List Nat
  | 4 => [3, 13, 21]
  | 5 => [4]
  | 6 => [11, 12]
  | 7 => [11, 12]
  | 8 => [11, 12]
  | 9 => [11, 12]
  | 10 => [11, 12]
  | 13 => [21]
  | 15 => [14]
  | 16 => [14, 22]
  | 17 => [14, 16]
  | _ => []

/-- The prerequisites of unit `u` are all READY. -/
def State.prereqsReady (s : State) (u : Nat) : Bool := (prereqs u).all s.ready

/-- The service controller holds unit `u`: a pipeline handover has stopped head in on its role (R497, R594). -/
def State.serviceHolds (s : State) (u : Nat) : Bool := decide (6 ≤ u) && decide (u ≤ 9) && s.pp.paused.contains (u - 6)

/-- Unit `u`, whose prerequisites are met, goes READY, or HELD while HOLD is 1 or the service controller holds it (R594). -/
def State.goReady (s : State) (u : Nat) : State :=
  if s.getB (Hdr.adr u) Hdr.hold then s.setUnit u stHELD caHOLD_LEAD
  else if s.serviceHolds u then s.setUnit u stHELD caHOLD_SERVICE else s.setUnit u stREADY caNONE

/-- The scale leaves unit `u` unpowered (R4). -/
def scaleOff (scale u : Nat) : Bool := scale == 1 && [7, 8, 16, 17, 22].contains u

/-! ## Clocks (R474) -/

/-- The gatable clocks: 0 to 25 CLK_CPU of a core, 26 CLK_SYS, 27 CLK_CXE, 28 to 32 CLK_PP0 to CLK_PP4, 33 CLK_LKP,
34 CLK_TM, 35 CLK_SHX, 36 CLK_NVF, 37 CLK_IGE, 38 CLK_FLS, 39 to 54 the transmit half of a drive port. -/
def ckSYS : Nat := 26
def ckCXE : Nat := 27
def ckPP0 : Nat := 28
def ckLKP : Nat := 33
def ckTM : Nat := 34
def ckSHX : Nat := 35
def ckNVF : Nat := 36
def ckIGE : Nat := 37
def ckFLS : Nat := 38
def ckDP0 : Nat := 39

/-- Clocks that Camp has stopped restart, work having come for them. -/
def State.startClocks (s : State) (cs : List Nat) : State :=
  { s with pwr := { s.pwr with stopped := s.pwr.stopped.filter fun c => !cs.contains c
                               workAt := if s.get PwrStatus.adr PwrStatus.state = 1 then cs.foldl (fun m c => sins m c s.ticks) s.pwr.workAt
                                         else s.pwr.workAt } }

/-- The clock of the pipeline that serves role `r`, with CLK_LKP (R475). -/
def State.roleClocks (s : State) (r : Nat) : List Nat :=
  [ckPP0 + ((s.svc.kinds.getD 1 (SvcKind.rest 4)).duty.getD r r), ckLKP]

/-- The clocks that a register access of unit `u` needs. -/
def State.unitClocks (s : State) (u : Nat) : List Nat :=
  if u = 2 then [ckFLS] else if u = 4 ∨ u = 5 then [ckCXE] else if 6 ≤ u ∧ u ≤ 9 then s.roleClocks (u - 6)
  else if u = 10 then [ckPP0 + 4, ckLKP] else if u = 11 ∨ u = 12 then [ckLKP] else if u = 13 then [ckTM]
  else if u = 14 ∨ u = 15 ∨ u = 21 ∨ u = 22 then [ckSYS] else if u = 16 then [ckSHX] else if u = 17 then [ckNVF]
  else if u = 18 then [ckIGE] else []

/-- The host has no path to the device from the entry to Bivouac until the wake has run (R480). -/
def State.hostCut (s : State) (o : Origin) : Bool :=
  (match o with | .host | .slice _ => true | _ => false) && decide (2 ≤ s.get PwrStatus.adr PwrStatus.state)

/-- The clocks that a register access of unit `u` from `o` needs: one from the host side enters HIF as a TLP (R474). -/
def State.accessClocks (s : State) (o : Origin) (u : Nat) : List Nat :=
  s.unitClocks u ++ (match o with | .host | .slice _ => [ckSYS] | _ => [])

/-- The holds of pre-starts of kind `k` end whose instant `p` picks (R19, R476). -/
def State.prestartEnds (s : State) (k : Nat) (p : Nat → Bool) : State :=
  { s with time := { s.time with prestarted := s.time.prestarted.filter fun x => !(x.1 == k && p x.2) } }

/-! ## The lead -/

/-- HOLDER codes of SYS_LEAD (R536). -/
def ldNONE : Nat := 0
def ldHOST : Nat := 1
def ldMANAGEMENT : Nat := 2

/-- The origin may write lead-protected registers (R526, R527). -/
def State.leads (s : State) (o : Origin) : Bool :=
  match o with
  | .host => s.get SysLead.adr SysLead.holder == ldHOST
  | .management => s.get SysLead.adr SysLead.holder == ldMANAGEMENT
  | .firmware | .base | .record => true
  | .slice _ => false

/-- The device is halted: HALT_CODE is not 0 (R91). -/
def State.halted (s : State) : Bool := s.get BootStatus.adr BootStatus.haltCode != 0

/-- How a register write ended (R522). -/
inductive WStatus
  | ok | notLead | static | value | flashBusy | outOfArea | halted | unpowered | busy
  deriving DecidableEq, Repr

end Sys2Proof.Machine
end

