-- ==== Sys2Proof/Machine/Operands.lean ====
section
/-!
DEFINITION. Slices and their shares (R344–R346), who a register write comes from, and how a word of
PF0 BAR0 reads.
-/

namespace Sys2Proof.Machine

/-! ## Capacities and shares -/

/-- Shardo connections at a scale (R2). -/
def connCapacity : Nat → Nat
  | 2 => 65536
  | 3 => 262144
  | 4 => 1048576
  | _ => 0

/-- Shardo nodes at a scale (R2). -/
def nodeCapacity : Nat → Nat
  | 2 => 4096
  | 3 => 16384
  | 4 => 262144
  | _ => 0

/-- Stations at a scale (R2). -/
def stationCapacity : Nat → Nat
  | 1 => 512
  | 2 => 2048
  | _ => 4096

/-- Drive ports at a scale (R2). -/
def drivePorts : Nat → Nat
  | 1 => 4
  | _ => 16

/-- Fabric ports at a scale (R2). -/
def fabricPorts : Nat → Nat
  | 1 => 0
  | 2 => 1
  | _ => 2

/-- Active cores at a scale (R2). -/
def activeCores : Nat → Nat
  | 1 => 8
  | 2 => 12
  | _ => 24

/-- The sliced resources that HIF_SLICE_SHARE names, in its word order (R356). -/
inductive Res
  | txq | rxq | evq | nvme | conn | key | vector
  deriving DecidableEq, Repr

/-- The word pair of HIF_SLICE_SHARE that holds a resource. -/
def Res.index : Res → Nat
  | .txq => 0 | .rxq => 1 | .evq => 2 | .nvme => 3 | .conn => 4 | .key => 5 | .vector => 6

/-- The capacity of a resource at a scale (R345). -/
def Res.capacity (scale : Nat) : Res → Nat
  | .txq => 4096
  | .rxq => 4096
  | .evq => 1024
  | .nvme => 1024
  | .conn => connCapacity scale
  | .key => 4096
  | .vector => 2048

/-- The resources by word order. -/
def Res.all : List Res := [.txq, .rxq, .evq, .nvme, .conn, .key, .vector]

/-- S, the number of slices (R344). -/
def State.slices (s : State) : Nat := 2 ^ s.act HifSliceCfg.adr HifSliceCfg.countLog2

/-- SERVICE mode (R346). -/
def State.service (s : State) : Bool := s.actB HifSliceCfg.adr HifSliceCfg.mode

/-- The number of slices that share equally: S, and in SERVICE mode the S of its entry, whose shares stay (R345, R346). -/
def State.sharers (s : State) : Nat := if s.service then 2 ^ s.hif.heldLog2 else s.slices

/-- The slices that may hold a share: every one in SERVICE mode, where a share stays whatever COUNT_LOG2 becomes (R346). -/
def State.owners (s : State) : Nat := if s.service then 256 else s.slices

/-- Slice `k`'s equal share of a resource of capacity `c`, as base and count (R345). -/
def State.equalShare (s : State) (c k : Nat) : Nat × Nat :=
  let n := s.sharers
  if k < n then (k * c / n, (k + 1) * c / n - k * c / n) else (0, 0)

/-- Slice `k`'s share of a resource of HIF_SLICE_SHARE, as base and count (R345, R346). -/
def State.share (s : State) (r : Res) (k : Nat) : Nat × Nat :=
  let (b, n) := s.equalShare (r.capacity s.scale) k
  if s.service then
    ((sget (BitVec.ofNat 32 b) s.hif.shares (k * 14 + 2 * r.index)).toNat,
     (sget (BitVec.ofNat 32 n) s.hif.shares (k * 14 + 2 * r.index + 1)).toNat)
  else (b, n)

/-- Index `i` lies in a share. -/
def inShare (sh : Nat × Nat) (i : Nat) : Bool := decide (sh.1 ≤ i) && decide (i < sh.1 + sh.2)

/-- The first slice below `n` whose share holds index `i`. -/
def ownerFrom (sh : Nat → Nat × Nat) (i : Nat) : Nat → Nat → Option Nat
  | 0, _ => none
  | n + 1, k => if inShare (sh k) i then some k else ownerFrom sh i n (k + 1)

/-- The slice whose share of `r` holds index `i`. -/
def State.ownerOf (s : State) (r : Res) (i : Nat) : Option Nat :=
  if s.service then ownerFrom (s.share r) i s.owners 0
  else
    let c := r.capacity s.scale
    let k := if c = 0 then 0 else (i * s.slices) / c
    if inShare (s.share r k) i then some k
    else if inShare (s.share r (k + 1)) i then some (k + 1) else none

/-! ## Slice states (R347) -/

def slUNBOUND : Nat := 0
def slBOUND : Nat := 1
def slFREEZING : Nat := 2
def slFROZEN : Nat := 3
def slSAVING : Nat := 4
def slRESTORING : Nat := 5

/-- STATE of slice `k`. -/
def State.sliceState (s : State) (k : Nat) : Nat := s.get (HifSlice.adr k) HifSlice.state

/-- Slice `k` is bound. -/
def State.bound (s : State) (k : Nat) : Bool := s.sliceState k != slUNBOUND

/-- PF of slice `k`'s binding. -/
def State.slicePf (s : State) (k : Nat) : Nat := s.act (HifSlice.adr k) HifSlice.pf

/-- PASID of slice `k`'s binding. -/
def State.slicePasid (s : State) (k : Nat) : Nat := s.act (HifSlice.adr k) HifSlice.pasid

/-- Slice `k` is stopped by FREEZE: nothing is fetched or sent for it (R348), until THAW (R349). -/
def State.frozen (s : State) (k : Nat) : Bool :=
  [slFREEZING, slFROZEN, slSAVING, slRESTORING].contains (s.sliceState k)

/-- The slices bound to function `f`. -/
def State.slicesOf (s : State) (f : Nat) : List Nat :=
  (List.range 256).filter fun k => s.bound k && s.slicePf k == f

/-! ## The machine's view of registers that are computed -/

/-- The share word at an address of HIF_SLICE_SHARE. -/
def State.shareWord (s : State) (k w : Nat) : Word :=
  match Res.all[w / 2]? with
  | some r => let sh := s.share r k
              BitVec.ofNat 32 (if w % 2 = 0 then sh.1 else sh.2)
  | none => 0

/-- The active view that address `a` names, when it lies in one (R551, R56). -/
def activeView (a : Nat) : Option Nat :=
  let d := a % 0x100000
  if 0x5000 ≤ d ∧ d < 0x8000 then some (a - 0x4000)
  else if 0x28000 ≤ d ∧ d < 0x40000 then some (a - 0x20000)
  else none

/-- The bits of the word at `a` that a read returns: those of fields that are not WO (R8). -/
def readMask (a : Nat) : Word := fieldMask (fun f _ => f.acc != .wo) a

end Sys2Proof.Machine
end

