-- ==== Sys2Proof/Machine/Flags.lean ====
section
/-!
DEFINITION. The way out to the host: posted writes, reads, MSI-X messages and the pending bits
(R333, R334, R337).
-/

namespace Sys2Proof.Machine

/-- Function `f`. -/
def State.pf (s : State) (f : Nat) : PfSt := s.hif.pfs.getD f PfSt.init

/-- Changes function `f`. -/
def State.modPf (s : State) (f : Nat) (g : PfSt → PfSt) : State :=
  { s with hif := { s.hif with pfs := s.hif.pfs.modify f g } }

/-- Bus Master Enable of function `f`, as HIF_PF_STATUS mirrors it. -/
def State.bme (s : State) (f : Nat) : Bool := s.getB (HifPfStatus.adr f) HifPfStatus.bme

/-- HIF issues requests for function `f` (R337, R339). -/
def State.issues (s : State) (f : Nat) : Bool := s.bme f && !s.hif.linkLost

/-- Pieces of an address range that end at multiples of `limit`. -/
def pieces (limit : Nat) : Nat → Nat → Nat → List (Nat × Nat)
  | 0, _, _ => []
  | fuel + 1, addr, n =>
      let k := min n (limit - addr % limit)
      (addr, k) :: (if n ≤ k then [] else pieces limit fuel (addr + k) (n - k))

/-- Bytes of an address range, page by page. -/
def pageParts (addr n : Nat) : List (Nat × Nat) := pieces 4096 (n / 4096 + 2) addr n

/-- The address that `addr` has in translation; itself while ATS is disabled (R342, R343). -/
def State.translate (s : State) (f : Nat) (pasid : Option Nat) (addr : Nat) : Option Nat :=
  if !(s.pf f).atsEnable then some addr
  else (s.hif.atc.find? fun t => t.1 == f && t.2.1 == pasid && t.2.2.1 == addr / 4096).map fun t => t.2.2.2 * 4096 + addr % 4096

/-- Every part of a range in translation; none while one is missing. -/
def State.parts (s : State) (f : Nat) (pasid : Option Nat) (addr n : Nat) : Option (List (Nat × Nat)) :=
  if !(s.pf f).atsEnable then some [(addr, n)]
  else (pageParts addr n).mapM fun (a, k) => (s.translate f pasid a).map fun b => (b, k)

/-- The first page of a range that has no translation. -/
def State.missing (s : State) (f : Nat) (pasid : Option Nat) (addr n : Nat) : Option Nat :=
  ((pageParts addr n).find? fun x => (s.translate f pasid x.1).isNone).map fun x => x.1 / 4096

/-- Non-posted requests that the device may have outstanding (R325). -/
def tagCount : Nat := 1024

/-- The non-posted requests of function `f` that are outstanding: the pieces of its reads, and its Translation Requests (R325,
R356). -/
def State.outstanding (s : State) (f : Nat) : Nat :=
  ((s.hif.reads.filter (·.fn == f)).map (·.tlps)).sum + (s.hif.asked.filter (·.1 == f)).length

/-- Tags for `n` more requests are free; a read that is cut into more than there are takes them all (R325). -/
def State.tagsFree (s : State) (n : Nat) : Bool :=
  decide ((s.hif.reads.map (·.tlps)).sum + s.hif.asked.length + min n tagCount ≤ tagCount)

/-- The page that a range lacks is asked for, unless it has been, once a tag is free (R325, R342). -/
def State.askPage (s : State) (f : Nat) (pasid : Option Nat) (addr n : Nat) : State :=
  match s.missing f pasid addr n with
  | some g =>
      if s.hif.asked.contains (f, pasid, g) || !s.tagsFree 1 then s
      else ({ s with hif := { s.hif with asked := s.hif.asked ++ [(f, pasid, g)] } } : State).emit (.translationRequest f pasid g)
  | none => s

/-- A request is a posted one. -/
def XReq.posted : XReq → Bool
  | .read .. => false
  | _ => true

/-- A posted request waits: no later request passes it, of whatever function (R333). -/
def State.postedWaits (s : State) : Bool := s.hif.xlate.any fun x => x.2.posted

/-- A request waits, behind those that already do. -/
def State.putXlate (s : State) (f : Nat) (r : XReq) : State := { s with hif := { s.hif with xlate := s.hif.xlate ++ [(f, r)] } }

/-- The bytes of a posted write leave, in payloads that the function allows. -/
def State.emitParts (s : State) (ro : Bool) (f : Nat) (pasid : Option Nat) : List (Nat × Nat) → List Byte → State
  | [], _ => s
  | (a, k) :: l, d => (s.emit (.hostWrite ro f pasid a (d.take k))).emitParts ro f pasid l (d.drop k)

/-- Translated parts, cut at multiples of `limit`. -/
def cutParts (limit : Nat) (l : List (Nat × Nat)) : List (Nat × Nat) := l.flatMap fun x => pieces limit (x.2 / limit + 2) x.1 x.2

/-- A posted write is presented: it leaves, or waits for a translation or behind a posted request that waits
(R333, R342). -/
def State.putWrite (s : State) (ro : Bool) (by_ : Option Reader) (f : Nat) (pasid : Option Nat) (addr : Nat) (data : List Byte) : State :=
  if s.postedWaits then s.putXlate f (.write ro by_ pasid addr data)
  else match s.parts f pasid addr data.length with
    | some l => s.emitParts ro f pasid (cutParts (s.pf f).dev.payload l) data
    | none => (s.askPage f pasid addr data.length).putXlate f (.write ro by_ pasid addr data)

/-- A posted write of `data` to host memory for `by_`; discarded at HIF when the function may not issue requests (R337). -/
def State.dmaWriteBy (s : State) (by_ : Option Reader) (f : Nat) (pasid : Option Nat) (addr : Nat) (data : List Byte) : State :=
  if !s.issues f then s else (s.startClocks [ckSYS]).putWrite false by_ f pasid addr data

/-- A posted write of a record to host memory: it never carries Relaxed Ordering (R333). -/
def State.dmaWrite (s : State) (f : Nat) (pasid : Option Nat) (addr : Nat) (data : List Byte) : State :=
  s.dmaWriteBy none f pasid addr data

/-- A data write of `data`: it carries Relaxed Ordering when HIF_CTRL.RELAXED = 1 (R326, R333; DESIGN CHOICE, log 106). -/
def State.dmaData (s : State) (by_ : Option Reader) (f : Nat) (pasid : Option Nat) (addr : Nat) (data : List Byte) : State :=
  if !s.issues f then s else (s.startClocks [ckSYS]).putWrite (s.actB HifCtrl.adr HifCtrl.relaxed) by_ f pasid addr data

/-- A record and data, written for slice `k` under its PASID. -/
def State.sliceWrite (s : State) (k addr : Nat) (data : List Byte) : State :=
  if s.bound k then s.dmaWrite (s.slicePf k) (some (s.slicePasid k)) addr data else s
def State.sliceData (s : State) (k addr : Nat) (data : List Byte) : State :=
  if s.bound k then s.dmaData none (s.slicePf k) (some (s.slicePasid k)) addr data else s

/-- The pieces of a read request leave. -/
def State.emitRead (s : State) (f : Nat) (pasid : Option Nat) (l : List (Nat × Nat)) : State :=
  l.foldl (fun s (a, k) => s.emit (.hostRead f pasid a k)) s

/-- The translations that a range takes. -/
def State.pagesUsed (s : State) (f : Nat) (pasid : Option Nat) (addr n : Nat) : List (Option Nat × Nat) :=
  if (s.pf f).atsEnable then (pageParts addr n).map fun x => (pasid, x.1 / 4096) else []

/-- A read of `k` pieces is outstanding. -/
def State.addRead (s : State) (f : Nat) (r : Reader) (k : Nat) (pages : List (Option Nat × Nat)) : State :=
  { s with hif := { s.hif with reads := s.hif.reads ++ [⟨s.hif.nextRead, f, r, k, pages⟩], nextRead := s.hif.nextRead + 1 } }

/-- A read is presented: it is issued, and outstanding from then on, or it waits for a translation, for tags, or behind a
posted request that waits (R325, R333, R342). -/
def State.putRead (s : State) (f : Nat) (pasid : Option Nat) (addr len : Nat) (r : Reader) : State :=
  if s.postedWaits then s.putXlate f (.read pasid addr len r)
  else match s.parts f pasid addr len with
    | some l =>
        let ps := cutParts (s.pf f).dev.readRequest l
        if s.tagsFree ps.length then (s.addRead f r ps.length (s.pagesUsed f pasid addr len)).emitRead f pasid ps
        else s.putXlate f (.read pasid addr len r)
    | none => (s.askPage f pasid addr len).putXlate f (.read pasid addr len r)

/-- A read of host memory for `r`; its completion is a command of its own (R13, R331). -/
def State.dmaRead (s : State) (f : Nat) (pasid : Option Nat) (addr len : Nat) (r : Reader) : State :=
  if !s.issues f then s else (s.startClocks [ckSYS]).putRead f pasid addr len r

/-- A list without its first element equal to `x`. -/
def dropFirst {α : Type} [DecidableEq α] (x : α) : List α → List α
  | [] => []
  | y :: ys => if y = x then ys else y :: dropFirst x ys

/-- A read of `r` by function `f` has been issued and is outstanding. -/
def State.reading (s : State) (f : Nat) (r : Reader) : Bool := s.hif.reads.any fun x => x.fn == f && x.reader == r

/-- The reads of function `f` that wait to be issued: whom they serve. -/
def waitReads (f : Nat) (l : List (Nat × XReq)) : List Reader :=
  l.filterMap fun x => if x.1 = f then (match x.2 with | .read _ _ _ r => some r | _ => none) else none

/-- Every read that has been presented and has not ended, by function and reader. -/
def State.readers (s : State) : List (Nat × Reader) :=
  (s.hif.reads.map fun x => (x.fn, x.reader)) ++ s.hif.xlate.filterMap fun x => match x.2 with | .read _ _ _ r => some (x.1, r) | _ => none

/-- A read of `r` by function `f` has been presented and has not ended. -/
def State.awaits (s : State) (f : Nat) (r : Reader) : Bool := s.readers.contains (f, r)

/-- Reads of `r` that have not ended. -/
def State.readsOf (s : State) (r : Reader) : Nat := (s.readers.filter (fun p => p.2 == r)).length

/-- The MSI-X entry of vector `v` of function `f`. -/
def PfSt.entry (p : PfSt) (v : Nat) : MsixEntry := sget MsixEntry.init p.table v

/-- The message of vector `v` of function `f` leaves, behind the posted requests that wait (R333, R334). -/
def State.msixSend (s : State) (f v : Nat) : State :=
  if s.postedWaits then s.putXlate f (.msix v)
  else s.emit (.msix f v ((s.pf f).entry v).addr ((s.pf f).entry v).data)

/-- A unit triggers vector `v` of function `f` (R334). -/
def State.msix (s : State) (f v : Nat) : State :=
  let p := s.pf f
  let e := p.entry v
  if !p.msixEnable then s
  else if p.functionMask || e.masked || !s.issues f then
    if p.pba.contains v then s else s.modPf f (fun p => { p with pba := p.pba ++ [v] })
  else s.msixSend f v

/-- The pending vectors of a function that may be issued, in order (R334). -/
def PfSt.issuable (p : PfSt) : List Nat := p.pba.filter fun v => !(p.entry v).masked

/-- Issues one message for every pending vector that the masks and BME permit again (R334). -/
def State.msixFlush (s : State) (f : Nat) : State :=
  let p := s.pf f
  if p.msixEnable && !p.functionMask && s.issues f then
    let vs := p.issuable
    let s1 := vs.foldl (fun s v => s.msixSend f v) s
    s1.modPf f (fun p => { p with pba := p.pba.filter fun v => !vs.contains v })
  else s

/-! ## Requests that have waited, and reads that end -/

/-- A request that has waited is presented again. -/
def State.present (s : State) (x : Nat × XReq) : State :=
  match x.2 with
  | .msix v => s.msix x.1 v
  | .write ro b p a d => s.putWrite ro b x.1 p a d
  | .read p a n r => s.putRead x.1 p a n r

/-- The requests that wait are presented again, in order. -/
def State.sweep (s : State) : State :=
  if s.hif.xlate.isEmpty then s
  else s.hif.xlate.foldl State.present { s with hif := { s.hif with xlate := [] } }

/-- A list of reads without the oldest one of reader `r` by function `f`. -/
def dropRead (f : Nat) (r : Reader) : List HostRead → List HostRead
  | [] => []
  | x :: l => if x.fn = f ∧ x.reader = r then l else x :: dropRead f r l

/-- The oldest read of `r` by function `f` ends, because its completion entered or it was retired; its tags are free again. -/
def State.readEnds (s : State) (f : Nat) (r : Reader) : State :=
  if s.reading f r then ({ s with hif := { s.hif with reads := dropRead f r s.hif.reads } } : State).sweep else s

/-- Every outstanding read of `r` by function `f` ends. -/
def State.readsEnd (s : State) (f : Nat) (r : Reader) : State :=
  ({ s with hif := { s.hif with reads := s.hif.reads.filter fun x => !(x.fn == f && x.reader == r) } } : State).sweep

/-- AER logs an error of function `f`; the header and prefixes of its TLP are in no command, and are free values (log 4). -/
def State.aerLog (s : State) (f : Nat) (e : AerError) : State :=
  (s.modPf f fun p => { p with aer := p.aer ++ [⟨e, s.free % 2 ^ 128, s.free / 2 ^ 128 % 2 ^ 128⟩] }).tickFree

/-- A completion enters that no reader of function `f` waits for: it frees the tag of a read that a cut has left, and its
data is discarded (R337); with no such read it is unexpected, and logged (R338, R341). -/
def State.stray (s : State) (f : Nat) : State :=
  if s.hif.linkLost then s
  else match s.hif.reads.find? fun x => x.fn == f && (match x.reader with | .other _ => true | _ => false) with
    | some x => s.readEnds f x.reader
    | none => s.aerLog f .unexpectedCompletion

/-- Vector `v` lies in slice `k`'s share (R345). -/
def State.vectorOk (s : State) (k v : Nat) : Bool := inShare (s.share .vector k) v

end Sys2Proof.Machine
end

