-- ==== Sys2Proof/Machine/Gate.lean ====
section
/-!
DEFINITION. The access path of a register write: what every write meets before its own effect, and how
it ended (R4, R52, R526, R527, R597).
-/

namespace Sys2Proof.Machine

/-- What a register write leaves: the state, and how it ended (R522). -/
abbrev WRes := State × WStatus

/-- A write from the host, the management side or a slice, not from firmware or a record. -/
def Origin.external : Sys2Proof.Origin → Bool
  | .host | .management => true
  | .slice _ => true
  | _ => false

/-- Unit `u` has no power: before PERST_N rises, in Off, and, outside U00, U20 and U03 with TU_KEEP, in Bivouac
(R489). -/
def State.dark (s : State) (u : Nat) : Bool :=
  let st := s.get PwrStatus.adr PwrStatus.state
  !s.boot.perst || s.pwr.off ||
    ((st == 3 || (st == 4 && !s.boot.wake)) && !(u == 0 || u == 20 || (u == 3 && s.actB TuCtrl.adr TuCtrl.tuKeep)))

/-- A halt discards a write of the host, and refuses one of the management side but for staging (R87, R92, R535). -/
def State.haltStops (s : State) (o : Sys2Proof.Origin) (u off : Nat) : Bool :=
  s.halted && Origin.external o && !(o == .management && u == 2 && decide (0x1010 ≤ off) && decide (off < 0x101C))

/-- The path of a write to offset `off` of unit `u`: discarded in a unit without power and from a host without a path, refused while the
unit's records are applied, discarded with NOT_LEAD when the writer lacks the lead that the register
needs or, for a slice of PF0, does not own the register; a slice that is not one of PF0 writes as the host side does
(R597). -/
def State.gate (s : State) (o : Sys2Proof.Origin) (u off : Nat) (needLead owned : Bool)
    (act : State → WRes) : WRes :=
  if scaleOff s.scale u || s.dark u || s.hostCut o then (s, .unpowered)
  else if s.haltStops o u off then (s, .halted)
  else
    let t := s.startClocks (s.accessClocks o u)
    if Origin.external o && t.ustate u == stSTARTING && t.ucause u == caAPPLYING then (t.valueRefused u off, .value)
    else
      let side (o : Sys2Proof.Origin) : WRes := if needLead && !t.leads o then (t.notLead u off, .notLead) else act t
      match o with
      | .slice k =>
          if t.bound k && owned then act t
          else if t.bound k && t.slicePf k == 0 then (t.notLead u off, .notLead)
          else side .host
      | _ => side o

/-- A write of `v` would change an RWL bit of the word at `a` (R526). -/
def State.rwlDiffers (s : State) (a : Nat) (v : Word) : Bool := (s.rd a ^^^ v) &&& fieldMask (fun f _ => f.acc == .rwl) a != 0

/-- The write is refused for its value (R592). -/
def State.refuse (s : State) (u off : Nat) : WRes := (s.valueRefused u off, .value)

/-- The write is done. -/
def State.done (s : State) : WRes := (s, .ok)

/-- The state that a write leaves, as a command's outcome. -/
def WRes.out (r : WRes) : Host.Outcome State Fault Refusal := .next r.1

end Sys2Proof.Machine
end

