-- ==== Sys2Proof/Machine/QueueOps.lean ====
section
/-!
DEFINITION. Rings (R357–R368): index arithmetic, doorbells, head records, queue states, halts and
drains, for the queues of U15 and the integrity request queues of U18, which follow the same rules
(R457).
-/

namespace Sys2Proof.Machine

/-- Queue kinds (R357), and the integrity request queues as kind 4. -/
def qkTX : Nat := 0
def qkRX : Nat := 1
def qkEV : Nat := 2
def qkSC : Nat := 3
def qkIR : Nat := 4

/-- The register block of a queue. -/
def qAdr (kind q : Nat) : Nat :=
  match kind with
  | 0 => QeTxq.adr q
  | 1 => QeRxq.adr q
  | 2 => QeEvq.adr q
  | 3 => QeScq.adr q
  | _ => IgeRq.adr q

/-- Queues of a kind. -/
def qCount : Nat → Nat
  | 0 => 4096 | 1 => 4096 | 2 => 1024 | 3 => 256 | _ => 64

/-- The unit that runs a queue. -/
def qUnit (kind : Nat) : Nat := if kind = qkIR then 18 else 15

/-- Offset of the queue's block in its unit's window. -/
def qOff (kind q : Nat) : Nat := qAdr kind q % 0x100000

/-- Queue states (R364). -/
def qsDISABLED : Nat := 0
def qsRUNNING : Nat := 1
def qsHALTED : Nat := 2
def qsERROR : Nat := 3

/-- Reasons (R365). -/
def qrRESERVED_SET : Nat := 0x01
def qrBAD_LENGTH : Nat := 0x02
def qrCHAIN_TOO_LONG : Nat := 0x03
def qrQUEUE_RANGE : Nat := 0x04
def qrBAD_OP : Nat := 0x05
def qrBAD_TAIL : Nat := 0x06
def qrBAD_ADDRESS : Nat := 0x07
def qrBME : Nat := 0x10
def qrFLR : Nat := 0x11
def qrLINK : Nat := 0x12
def qrTIMEOUT : Nat := 0x13
def qrPOISONED : Nat := 0x14
def qrTRANSLATION : Nat := 0x15
def qrUNIT_RESET : Nat := 0x16

/-- STATE, HEAD and TAIL of a queue. -/
def State.qState (s : State) (k q : Nat) : Nat := s.get (qAdr k q) QeTxq.state
def State.qHead (s : State) (k q : Nat) : Nat := s.get (qAdr k q) QeTxq.head
def State.qTail (s : State) (k q : Nat) : Nat := s.get (qAdr k q) QeTxq.tail

/-- N, the entries of a ring (R358). -/
def State.qN (s : State) (k q : Nat) : Nat := 2 ^ s.act (qAdr k q) QeTxq.sizeLog2

/-- The modulus of a ring's indices. -/
def State.qM (s : State) (k q : Nat) : Nat := 2 * s.qN k q

/-- The distance from index `a` on to index `b`, modulo `m`. -/
def qDist (m a b : Nat) : Nat := (b % m + m - a % m) % m

/-- What no register shows of a queue. -/
def State.qst (s : State) (k q : Nat) : QSt := sget QSt.init s.qe.qs (k * 4096 + q)

/-- Changes it. -/
def State.modQ (s : State) (k q : Nat) (f : QSt → QSt) : State :=
  { s with qe := { s.qe with qs := sput QSt.init s.qe.qs (k * 4096 + q) (f (s.qst k q)) } }

/-- The slice that owns a queue (R345, R357, R457). -/
def State.qOwner (s : State) (k q : Nat) : Option Nat :=
  match k with
  | 0 => s.ownerOf .txq q
  | 1 => s.ownerOf .rxq q
  | 2 => s.ownerOf .evq q
  | 3 => if q < s.slices then some q else none
  | _ => if s.act (IgeRq.adr q) IgeRq.fw = 1 then none else some (s.act (IgeRq.adr q) IgeRq.slice)

/-- The function and PASID under which a queue's requests run: those of its slice's binding, or PF3
without a PASID for a firmware queue (log 21); none while the slice is not bound. -/
def State.qVia (s : State) (k q : Nat) : Option (Nat × Option Nat) :=
  match s.qOwner k q with
  | some n => if s.bound n then some (s.slicePf n, some (s.slicePasid n)) else none
  | none => if k = qkIR then some (3, none) else none

/-- The queue's slice is frozen (R348). -/
def State.qFrozen (s : State) (k q : Nat) : Bool :=
  match s.qOwner k q with
  | some n => s.frozen n
  | none => false

/-- The bytes of an entry. -/
def State.qEntry (s : State) (k q : Nat) : Nat :=
  match k with
  | 2 => 16
  | 3 => 64
  | 4 => 64
  | _ => if s.act (Hdr.adr 15) Hdr.ifvAct = 1 then 32
         else if s.act (qAdr k q) QeTxq.version = 2 then 64 else 32

/-- The host address of the slot that index `i` names (R358). -/
def State.qSlot (s : State) (k q i : Nat) : Nat :=
  s.act (qAdr k q) QeTxq.ringAddr * 64 + (i % s.qN k q) * s.qEntry k q

/-- A posted write for a queue. -/
def State.qWrite (s : State) (k q addr : Nat) (data : List Byte) : State :=
  match s.qVia k q with
  | some (f, p) => s.dmaWriteBy (some (.queue k q)) f p addr data
  | none => s

/-- A data write for a queue. -/
def State.qData (s : State) (k q addr : Nat) (data : List Byte) : State :=
  match s.qVia k q with
  | some (f, p) => s.dmaData (some (.queue k q)) f p addr data
  | none => s

/-- The queue's function may issue requests. -/
def State.qIssues (s : State) (k q : Nat) : Bool :=
  match s.qVia k q with
  | some (f, _) => s.issues f
  | none => false

/-- The queue triggers a vector of its function. -/
def State.qMsix (s : State) (k q v : Nat) : State :=
  match s.qVia k q with
  | some (f, _) => s.msix f v
  | none => s

/-- The head record of a queue (R363). -/
def State.headBytes (s : State) (k q : Nat) : List Byte :=
  let a := qAdr k q
  let st := s.qState k q
  leBytes 2 (s.qHead k q) ++ leBytes 1 st ++ leBytes 1 (if st < 2 then 0 else s.get a QeTxq.error)
    ++ leBytes 2 (s.get a QeTxq.errorIndex) ++ leBytes 2 (s.get a QeTxq.overflow)
    ++ leBytes 4 (stampOf s.nowNs).toNat ++ [0, 0, 0, 0]

/-- A due head record is written and, with IRQ_EN, its vector triggered after it (R363). -/
def State.headRecord (s : State) (k q : Nat) : State :=
  let a := qAdr k q
  let s1 := s.qWrite k q (s.act a QeTxq.headAddr * 16) (s.headBytes k q)
  let s2 := s1.modQ k q fun x => { x with unreported := 0 }
  (if s.actB a QeTxq.irqEn then s2.qMsix k q (s.act a QeTxq.vector) else s2).tickFree

/-- The frames of a transmit queue whose data is awaited, and the messages of a request queue, are given up. -/
def State.dropWork (s : State) (k q : Nat) : State :=
  if k = qkTX then { s with qe := { s.qe with tx := s.qe.tx.filter (·.q != q) } }
  else if k = qkIR then { s with ige := { s.ige with msgs := s.ige.msgs.filter (·.q != q) } }
  else s

/-- The detail of a queue event (R380). -/
def qDetail (k q reason : Nat) : Nat := q + 4096 * k + 65536 * reason

/-- A queue stops in HALTED or ERROR with a reason and the index latched with it (R365). -/
def State.qStop (s : State) (k q st reason idx : Nat) : State :=
  let a := qAdr k q
  let s1 := ((s.set a QeTxq.state st).set a QeTxq.error reason).set a QeTxq.errorIndex idx
  let s2 := s1.modQ k q fun x => { x with fetched := [], asked := [], drain := none }
  let s3 := (s2.dropWork k q).headRecord k q
  if k = qkIR then s3 else s3.raise 15 (if st = qsERROR then 4 else 5) (qDetail k q reason)

/-- A RUNNING queue enters ERROR (R365). -/
def State.qError (s : State) (k q reason idx : Nat) : State :=
  if s.qState k q = qsRUNNING then s.qStop k q qsERROR reason idx else s

/-- A RUNNING queue enters HALTED; a queue in HALTED keeps its first reason (R340, R365). -/
def State.qHalt (s : State) (k q reason : Nat) : State :=
  if s.qState k q = qsRUNNING then s.qStop k q qsHALTED reason (s.qHead k q) else s

/-- A unit reset halts every queue that is not DISABLED; one that is HALTED already keeps its first reason (R365, R379, R469). -/
def State.qResetHalt (s : State) (k q : Nat) : State :=
  if s.qState k q = qsRUNNING ∨ s.qState k q = qsERROR then s.qStop k q qsHALTED qrUNIT_RESET (s.qHead k q) else s

/-- Why function `f` may not issue requests (R337–R339). -/
def State.cutReason (s : State) (f : Nat) : Nat :=
  if s.hif.linkLost then qrLINK
  else if s.getB (HifPfStatus.adr f) HifPfStatus.flrBusy then qrFLR else qrBME

/-- The queue presents a request: while its function may not issue one, the queue halts (R337). -/
def State.qPresent (s : State) (k q : Nat) (go : State → State) : State :=
  match s.qVia k q with
  | some (f, _) => if s.issues f then go s else s.qHalt k q (s.cutReason f)
  | none => s

/-- The most bytes that a descriptor read of function `f` asks for: the lesser of 512 B and the function's maximum read
request size (R362). -/
def State.readLimit (s : State) (f : Nat) : Nat := min 512 (s.pf f).dev.readRequest

/-- Entries that the next descriptor read of a queue asks for (R362). -/
def State.qAskCount (s : State) (k q : Nat) : Nat :=
  let x := s.qst k q
  let n := s.qN k q
  let left := qDist (s.qM k q) x.next (s.qTail k q)
  let held := x.fetched.length + (x.asked.map (·.2)).sum
  let room := if k = qkRX then (if held < 16 then 32 - held else 0) else left
  let f := match s.qVia k q with | some (f, _) => f | none => 0
  min (min left room) (min (s.readLimit f / s.qEntry k q) (n - x.next % n))

/-- One descriptor read. -/
def State.qAsk (s : State) (k q : Nat) : State :=
  let x := s.qst k q
  let n := s.qAskCount k q
  if 4 ≤ x.asked.length ∨ n = 0 then s
  else match s.qVia k q with
    | some (f, p) =>
        let s1 := s.dmaRead f p (s.qSlot k q x.next) (n * s.qEntry k q) (.queue k q)
        s1.modQ k q fun x => { x with next := (x.next + n) % s.qM k q, asked := x.asked ++ [(x.next, n)] }
    | none => s

/-- The queue fetches descriptors: at most four reads are outstanding (R362). -/
def State.qFetchRing (s : State) (k q : Nat) : State :=
  if s.qState k q = qsRUNNING ∧ (s.qst k q).drain = none ∧ !s.qFrozen k q ∧ s.ready (qUnit k) ∧ k ≠ qkEV
      ∧ 0 < s.qAskCount k q then
    s.qPresent k q fun s => (((s.qAsk k q).qAsk k q).qAsk k q).qAsk k q
  else s

/-- The argument buffer that a slice-control entry of a slice of function `pf` has the device read: its address and its
bytes (R375, R418, R467).  DEDUCED (log 107): an entry outside the duty of its function ends before any read. -/
def scArg (pf : Nat) (e : List Byte) : Option (Nat × Nat) :=
  let op := leAt e 0 1
  let n : Nat :=
    if pf = 0 then (if 0x10 ≤ op ∧ op ≤ 0x13 then 64 else if op = 0x18 then 256 else 0)
    else if pf = 1 then (if op = 0x20 then 2 * (leAt e 10 2 % 4096) else if op = 0x21 then 40 else 0)
    else if pf = 3 then (if op = 0x40 then 128 else if op = 0x60 then 32 else 0)
    else 0
  if n = 0 then none else some (leAt e 16 8, n)

/-- The entry at the front of slice `k`'s slice-control queue has its argument read, once (R375). -/
def State.scAsk (s : State) (k : Nat) : State :=
  match (s.qst qkSC k).fetched with
  | (_, e) :: _ =>
      match scArg (s.slicePf k) e with
      | some (a, n) =>
          if s.qState qkSC k = qsRUNNING ∧ !s.qFrozen qkSC k ∧ s.ready 15 ∧ !s.awaits (s.slicePf k) (.arg k) then
            s.qPresent qkSC k fun s => s.dmaRead (s.slicePf k) (some (s.slicePasid k)) a n (.arg k)
          else s
      | none => s
  | [] => s

/-- The queue goes on: it fetches descriptors, and the entry that a slice-control queue has at its front has its argument
read. -/
def State.qFetch (s : State) (k q : Nat) : State :=
  let t := s.qFetchRing k q
  if k = qkSC then t.scAsk q else t

/-- A record falls due after COUNT entries; a queue that may not issue it halts (R337, R363). -/
def State.qDue (s : State) (k q : Nat) (force : Bool) : State :=
  if force || decide (s.act (qAdr k q) QeTxq.count ≤ (s.qst k q).unreported) then s.qPresent k q fun s => s.headRecord k q else s

/-- `n` entries of a host-produced ring are done: HEAD advances and a record may fall due. -/
def State.qDone (s : State) (k q n : Nat) (report : Bool) : State :=
  let s1 := s.set (qAdr k q) QeTxq.head ((s.qHead k q + n) % s.qM k q)
  let s2 := s1.modQ k q fun x =>
    { x with fetched := x.fetched.drop n, unreported := x.unreported + n }
  (s2.qDue k q report).qFetch k q

/-! ## Doorbells (R360, R361) -/

/-- A TAIL that a queue accepts (R361). -/
def State.tailOk (s : State) (k q t : Nat) : Bool :=
  let m := s.qM k q
  let h := s.qHead k q
  let told := s.qTail k q
  decide (t < m) &&
  (if k = qkEV then decide (qDist m t h ≤ qDist m told h)
   else decide (qDist m h told ≤ qDist m h t) && decide (qDist m h t ≤ s.qN k q))

/-- OVF_ACK: OVERFLOW and the device's summary are cleared, and the zeros are due (R374). -/
def State.ovfAck (s : State) (q : Nat) : State :=
  (s.set (qAdr qkEV q) QeTxq.overflow 0).modQ qkEV q fun x => { x with summary := 0, zeroDue := true }

/-- A doorbell reaches a queue (R360, R361). -/
def State.doorbell (s : State) (k q t : Nat) (ack : Bool) : State :=
  let st := s.qState k q
  if st = qsDISABLED then s
  else
    let s := s.startClocks [ckSYS, ckIGE]
    let s0 := if k = qkEV ∧ ack then s.ovfAck q else s
    if s0.tailOk k q t then (s0.set (qAdr k q) QeTxq.tail t).qFetch k q
    else if st = qsRUNNING then s0.qError k q qrBAD_TAIL t else s0

/-! ## States (R364, R367) -/

/-- The context of a queue passes the ENABLE checks (R358, R363, R368, R371, R381). -/
def State.qContextOk (s : State) (k q : Nat) : Bool :=
  let a := qAdr k q
  let sz := s.act a QeTxq.sizeLog2
  decide (3 ≤ sz) &&
  (match s.qOwner k q with
   | some n => s.vectorOk n (s.act a QeTxq.vector)
   | none => k == qkIR) &&
  (if k ≤ 1 then
     let v := s.act a QeTxq.version
     (v == 1 || v == 2) && !(s.act (Hdr.adr 15) Hdr.ifvAct == 1 && v == 2)
   else true) &&
  (if k = qkRX then
     let b := s.act a QeTxq.bufSize
     decide (4 ≤ b) && decide (b ≤ 256) && decide (9216 ≤ 2 ^ sz * b * 64)
   else true)

/-- Receive queue `q`'s TM queue follows its queue (R357). -/
def State.rxTm (s : State) (q : Nat) (on : Bool) : State := s.set (TmQueue.adr (12288 + q)) TmQueue.enable (b2n on)

/-- Frames that wait in receive queue `q`'s TM queue are discarded and counted in DISABLED_DROP of port
24 (R350, R367). -/
def State.rxFlush (s : State) (q : Nat) : State :=
  let n := (sget [] s.tm.queues (12288 + q)).length
  let s1 := { s with tm := { s.tm with queues := sdel s.tm.queues (12288 + q) } }
  s1.set (TmPort.adr 24) TmPort.disabledDrop (s.get (TmPort.adr 24) TmPort.disabledDrop + n)

/-- ENABLE (R364): from DISABLED, with a context that passes; the head record of its new state halts a queue that may not issue
it (R337). -/
def State.qEnable (s : State) (k q : Nat) : State :=
  let a := qAdr k q
  let s1 := (((s.set a QeTxq.state qsRUNNING).set a QeTxq.head 0).set a QeTxq.tail 0).set a QeTxq.error 0
  let s2 := (s1.set a QeTxq.errorIndex 0).set a QeTxq.overflow 0
  let s3 := s2.modQ k q fun _ => QSt.init
  let s4 := if k = qkRX then s3.rxTm q true else s3
  s4.qPresent k q fun s => s.headRecord k q

/-- DISABLE stops fetching and starts the drain; RESET drops what is fetched (R367). -/
def State.qDrain (s : State) (k q : Nat) (reset : Bool) : State :=
  let s1 := s.modQ k q fun x => { x with drain := some reset, fetched := if reset then [] else x.fetched }
  if reset then s1.dropWork k q else s1

/-- The queue enters DISABLED (R367): a final head record after DISABLE only. -/
def State.qDisabled (s : State) (k q : Nat) (record : Bool) : State :=
  let a := qAdr k q
  let s1 := (s.set a QeTxq.state qsDISABLED).set a QeTxq.error 0
  let s2 := if record then s1.headRecord k q else s1
  let s3 := ((s2.set a QeTxq.head 0).set a QeTxq.tail 0).modQ k q fun _ => QSt.init
  if k = qkRX then (s3.rxTm q false).rxFlush q else s3

/-- RELEASE or a restart of the slice disables a queue at once (R350). -/
def State.qKill (s : State) (k q : Nat) : State :=
  if s.qState k q = qsDISABLED then s
  else (s.dropWork k q).qDisabled k q false

/-- The queue's reads that are outstanding. -/
def State.qReads (s : State) (k q : Nat) : Nat := s.readsOf (.queue k q) + (if k = qkSC then s.readsOf (.arg q) else 0)

/-- The queue command of R364 that a write of word +0x20 spells: ENABLE, DISABLE, RESET. -/
def State.qCommandOk (s : State) (k q : Nat) (en dis rst : Bool) : Bool :=
  let st := s.qState k q
  let idle := (s.qst k q).drain.isNone
  (!en || (st == qsDISABLED && s.qContextOk k q)) && (!dis || (st == qsRUNNING && idle))
    && (!rst || ((st == qsHALTED || st == qsERROR) && idle))

/-- A write of word +0x20 (R364, R381). -/
def State.qCommand (s : State) (o : Sys2Proof.Origin) (k q : Nat) (en dis rst : Bool) : WRes :=
  let u := qUnit k
  let off := qOff k q + 0x20
  let own := match o with | .slice n => k == qkSC && n.val == q | _ => false
  s.gate o u off true own fun s =>
    if !s.qCommandOk k q en dis rst then s.refuse u off
    else if en then (s.qEnable k q).done
    else if dis then (s.qDrain k q false).done
    else if rst then (s.qDrain k q true).done
    else s.done

/-- All queues of a slice, by kind and number: those of its shares and its slice-control queue. -/
def State.queuesOf (s : State) (n : Nat) : List (Nat × Nat) :=
  let r (k : Nat) (sh : Nat × Nat) := (List.range sh.2).map fun i => (k, sh.1 + i)
  r qkTX (s.share .txq n) ++ r qkRX (s.share .rxq n) ++ r qkEV (s.share .evq n) ++ [(qkSC, n)]

/-- The queues that are not DISABLED, found among the registers that have been written. -/
def State.liveQueues (s : State) : List (Nat × Nat) :=
  s.regs.filterMap fun (a, _) =>
    if 0xF40000 ≤ a ∧ a < 0xFD4000 ∧ a % 0x40 = 0x24 then
      let k := if a < 0xF80000 then 0 else if a < 0xFC0000 then 1 else if a < 0xFD0000 then 2 else 3
      some (k, (a - qAdr k 0) / 0x40)
    else if 0x1248000 ≤ a ∧ a < 0x1249000 ∧ a % 0x40 = 0x24 then some (4, (a - 0x1248000) / 0x40)
    else none

/-- The live queues of function `f`. -/
def State.queuesOfPf (s : State) (f : Nat) : List (Nat × Nat) :=
  s.liveQueues.filter fun (k, q) => match s.qVia k q with
    | some (g, _) => g == f
    | none => false

end Sys2Proof.Machine
end

