-- ==== Sys2Proof/Machine/IntegrityOps.lean ====
section
/-!
DEFINITION. Key slots and MACsec integrity-only (R452–R456, R463–R466).
-/

namespace Sys2Proof.Machine

/-- Events of U18, under their hold-off (R470). -/
def State.igeEvent (s : State) (n detail : Nat) : State :=
  s.raiseHeld (16 * 18 + n) (s.act IgeHoldoff.adr IgeHoldoff.microseconds) 18 n detail

/-! ## Key slots -/

/-- STATE of a slot: 0 EMPTY, 1 HOST, 2 DERIVED (R452). -/
def State.keyState (s : State) (i : Nat) : Nat := s.get (IgeKey.adr i) IgeKey.state

/-- The key of a slot, at its SIZE. -/
def State.keyOf (s : State) (i : Nat) : List Byte :=
  (slice (sget [] s.ige.keys i) 0 32).take (if s.get (IgeKey.adr i) IgeKey.size = 1 then 32 else 16)

/-- Fills a slot. -/
def State.putKey (s : State) (i st mode size : Nat) (key : List Byte) : State :=
  let a := IgeKey.adr i
  let s1 := ((s.set a IgeKey.state st).set a IgeKey.mode mode).set a IgeKey.size size
  { s1 with ige := { s1.ige with keys := sput [] s1.ige.keys i (slice key 0 32), badKeys := s1.ige.badKeys.filter (· != i) } }

/-- The word of a slot that has just been filled has an uncorrectable error. -/
def State.spoilKey (s : State) (i : Nat) (bad : Bool) : State :=
  if bad then { s with ige := { s.ige with badKeys := s.ige.badKeys ++ [i] } } else s

/-- Empties a slot. -/
def State.clearKey (s : State) (i : Nat) : State :=
  let s1 := s.putKey i 0 0 0 []
  { s1 with ige := { s1.ige with keys := sdel s1.ige.keys i } }

/-- The SA blocks of a port: transmit 0–1, receive SC × 2 + SA. -/
def saBlocks (p : Nat) : List Nat :=
  [IgeTxsa.adr p 0, IgeTxsa.adr p 1] ++
    (List.range 8).map fun i => IgeRxsa.adr p (i / 2) (i % 2)

/-- A slot is named by an enabled MACsec SA (R453). -/
def State.keyInUse (s : State) (i : Nat) : Bool :=
  (List.range 24).any fun p => (saBlocks p).any fun a =>
    s.actB a IgeTxsa.enable && s.act a IgeTxsa.keySlot == i

/-- Status codes of the key commands beyond R376 (R467). -/
def kyOK : Nat := 0
def kyKEY_LOCKED : Nat := 0x50
def kyIN_USE : Nat := 0x51
def kyDERIVED : Nat := 0x52
def kyBUSY : Nat := 0x53

/-- KEY_LOAD of a HOST key (R453, R467); `bad` says that the key store holds it with an uncorrectable error (R452). -/
def State.keyLoad (s : State) (bySlice : Bool) (i mode size : Nat) (key : List Byte) (bad : Bool := false) : State × Nat :=
  if s.keyInUse i then (s, kyIN_USE)
  else if bySlice ∧ s.keyState i = 2 then (s, kyDERIVED)
  else ((s.putKey i 1 mode size key).spoilKey i bad, kyOK)

/-- KEY_CLEAR (R453, R467). -/
def State.keyClear (s : State) (bySlice : Bool) (i : Nat) : State × Nat :=
  if s.keyInUse i then (s, kyIN_USE)
  else if bySlice ∧ s.keyState i = 2 then (s, kyDERIVED)
  else (s.clearKey i, kyOK)

/-- The label of the key derivation, "IGE-DERIVE" (R454). -/
def deriveLabel : List Byte := [0x49, 0x47, 0x45, 0x2D, 0x44, 0x45, 0x52, 0x49, 0x56, 0x45]

/-- The derivation pattern of R76 and R454. -/
def deriveKey (duk label context : List Byte) : List Byte :=
  aesCmac duk (0x01#8 :: label ++ 0x00#8 :: context) ++ aesCmac duk (0x02#8 :: label ++ 0x00#8 :: context)

/-- KEY_DERIVE (R454, R455); `bad` as in KEY_LOAD. -/
def State.keyDerive (s : State) (i mode size : Nat) (context : List Byte) (bad : Bool := false) : State × Nat :=
  match s.boot.dukReg with
  | none => (s, kyKEY_LOCKED)
  | some duk =>
      if s.keyInUse i then (s, kyIN_USE)
      else ((s.putKey i 2 mode size (deriveKey duk deriveLabel (slice context 0 32))).spoilKey i bad, kyOK)

/-- An uncorrectable read empties a slot (R452). -/
def State.keyLost (s : State) (i : Nat) : State := (s.clearKey i).igeEvent 8 i

/-- The word of slot `i` is read: an uncorrectable error in it empties the slot (R452). -/
def State.keyMet (s : State) (i : Nat) : State := if s.ige.badKeys.contains i then s.keyLost i else s

/-! ## MACsec (R463–R466) -/

/-- The address of port `p`: that of its MAC (R158, R463, R586). -/
def State.portMac (s : State) (p : Nat) : Nat :=
  if p < 16 then s.act (Dpx.adr p) Dpx.address
  else (s.act (Fpx.adr ((p - 16) / 4)) Fpx.address + (p - 16) % 4) % 2 ^ 48

/-- MACsec is enabled on port `p`. -/
def State.msecOn (s : State) (p : Nat) : Bool := s.actB (IgeMsecPort.adr p) IgeMsecPort.enable

/-- The cipher of port `p` uses extended packet numbers. -/
def State.msecXpn (s : State) (p : Nat) : Bool := decide (2 ≤ s.act (IgeMsecPort.adr p) IgeMsecPort.cipher)

/-- The implicit and the transmit SCI: the port address with port identifier 0x0001 (R463). -/
def State.portSci (s : State) (p : Nat) : Nat := s.portMac p * 65536 + 1

/-- The IV of a protected frame: SCI and PN, or with XPN the SSCI and the 64-bit PN under the salt
(IEEE 802.1AE; PRESUMED, log 22). -/
def State.msecIv (s : State) (p sa sci pn : Nat) : List Byte :=
  if s.msecXpn p then
    xorBytes (beBytes 4 (s.act sa IgeTxsa.ssci) ++ beBytes 8 pn) (leBytes 12 (s.act sa IgeTxsa.salt))
  else beBytes 8 sci ++ beBytes 4 pn

/-- The bytes that MACsec adds to a frame of port `p`: SecTAG and ICV (R466). -/
def State.msecBytes (s : State) (p : Nat) : Nat :=
  if s.msecOn p then (if s.actB (IgeMsecPort.adr p) IgeMsecPort.includeSci then 32 else 24) else 0

/-- The EtherType of EAPOL frames, which pass uncontrolled (R463). -/
def isEapol (f : List Byte) : Bool := beAt f 12 2 == 0x888E

/-- Where the ICV of a protected frame starts, with the EtherType of its SecTAG at `o` and a SecTAG of `n` bytes: after SL
bytes of data, or where SL is 0 at the frame's last 16 bytes (IEEE 802.1AE; PRESUMED, log 22). -/
def icvAt (f : List Byte) (o n : Nat) : Nat :=
  let sl := beAt f (o + 3) 1 % 64
  if sl = 0 then f.length - 16 else o + n + sl

/-- The last PN that an SA may use. -/
def State.pnLimit (s : State) (p : Nat) : Nat := if s.msecXpn p then 2 ^ 64 - 1 else 2 ^ 32 - 1

/-- The SecTAG of a transmitted frame (R464). -/
def State.secTag (s : State) (p an pn dataLen : Nat) : List Byte :=
  let sci := s.actB (IgeMsecPort.adr p) IgeMsecPort.includeSci
  [0x88#8, 0xE5#8] ++ leBytes 1 ((if sci then 0x20 else 0) + an) ++
    leBytes 1 (if dataLen < 48 then dataLen else 0) ++ beBytes 4 pn ++
    (if sci then beBytes 8 (s.portSci p) else [])

/-- MACsec on transmit (R463, R464): the frame as it leaves, or none when its SA is exhausted.  An SA whose slot is EMPTY, or
whose key this read loses, protects with a tag of free value (R452; DESIGN CHOICE, log 84). -/
def State.msecTx (s : State) (p : Nat) (f : List Byte) : State × Option (List Byte) :=
  let a := IgeMsecPort.adr p
  if !s.msecOn p || isEapol f then (s, some f)
  else
    let s0 := s.latchMask (fun x => if a ≤ x ∧ x < a + 0x40 then 0xFFFFFFFF#32 else 0)
    let n := s0.act a IgeMsecPort.txSa
    let sa := IgeTxsa.adr p n
    let pn := s0.get sa IgeTxsa.currentPn
    let slot := s0.act sa IgeTxsa.keySlot
    if s0.pnLimit p ≤ pn then
      ((s0.bump a IgeMsecPort.outDrop).igeEvent 6 (p + 65536 * n), none)
    else
      let tag := s0.secTag p (s0.act sa IgeTxsa.an) pn (f.length - 12)
      let g := f.take 12 ++ tag ++ f.drop 12
      let k := s0.keyMet slot
      let icv := if k.keyState slot = 0 then leBytes 16 k.free else aesGmac (k.keyOf slot) (s0.msecIv p sa (s0.portSci p) pn) g
      let s1 := ((if k.keyState slot = 0 then k.tickFree else k).set sa IgeTxsa.currentPn (pn + 1)).bump a IgeMsecPort.outProtected
      let s2 := if pn + 1 = s1.act a IgeMsecPort.pnThreshold then s1.igeEvent 5 (p + 65536 * n) else s1
      (s2, some (g ++ icv.take 16))

/-- The 64-bit PN that a received 32-bit PN stands for: itself, or with XPN the one nearest above
LOWEST_PN's upper half (IEEE 802.1AE; PRESUMED, log 22). -/
def recoverPn (xpn : Bool) (lowest pn : Nat) : Nat :=
  if xpn then
    let hi := lowest / 2 ^ 32
    if bit lowest 31 && !bit pn 31 then (hi + 1) * 2 ^ 32 + pn else hi * 2 ^ 32 + pn
  else pn

/-- The receive SC of a frame: by SCI, or the first enabled one when the SecTAG carries none. -/
def State.rxSc (s : State) (p : Nat) (sci : Option Nat) : Option Nat :=
  (List.range 4).find? fun c =>
    s.actB (IgeRxsc.adr p c) IgeRxsc.enable &&
      (match sci with | some v => s.act (IgeRxsc.adr p c) IgeRxsc.sci == v | none => true)

/-- The receive SA of an SC by AN. -/
def State.rxSa (s : State) (p c an : Nat) : Option Nat :=
  ([0, 1].find? fun a => s.actB (IgeRxsa.adr p c a) IgeTxsa.enable && s.act (IgeRxsa.adr p c a) IgeTxsa.an == an).map
    fun a => IgeRxsa.adr p c a

/-- A failure of a MACsec check: its counter, its event, and whether the frame goes on (R465). -/
def State.msecFail (s : State) (p : Nat) (f : Fld) (strictOnly : Bool) : State × Bool :=
  let a := IgeMsecPort.adr p
  let s1 := (s.bump a f).igeEvent 4 p
  (s1, !(strictOnly && s.act a IgeMsecPort.validate == 2))

/-- The SC and the SA that a received frame names. -/
def State.rxNamed (s : State) (p : Nat) (f : List Byte) : Option (Nat × Nat) :=
  let tci := beAt f 14 1
  (s.rxSc p (if bit tci 5 then some (beAt f 20 8) else none)).bind fun c => (s.rxSa p c (tci % 4)).map fun sa => (c, sa)

/-- A frame that enters the check of port `p` has the key of its SA read (R452, R465). -/
def State.rxKeyMet (s : State) (p : Nat) (f : List Byte) : State :=
  if !s.msecOn p || isEapol f || beAt f 12 2 != 0x88E5 || bit (beAt f 14 1) 3 then s
  else match s.rxNamed p f with
    | some (_, sa) => s.keyMet (s.act sa IgeTxsa.keySlot)
    | none => s

/-- MACsec on receive (R465): whether the frame goes on, or is treated as an FCS failure.  A check whose key is lost fails, and
so does one under an EMPTY slot (R452; log 84). -/
def State.msecRx (s0 : State) (p : Nat) (f : List Byte) : State × Bool :=
  let s := s0.rxKeyMet p f
  let a := IgeMsecPort.adr p
  let v := s.act a IgeMsecPort.validate
  if !s.msecOn p then (s, true)
  else if isEapol f then (s, true)
  else
    let tci := beAt f 14 1
    if beAt f 12 2 ≠ 0x88E5 ∨ bit tci 3 then s.msecFail p IgeMsecPort.inNotValid true
    else
      let sci := if bit tci 5 then some (beAt f 20 8) else none
      match s.rxNamed p f with
      | none => s.msecFail p IgeMsecPort.inNoSa true
      | some (c, sa) =>
          let lowest := s.get sa IgeTxsa.currentPn
          let pn := recoverPn (s.msecXpn p) lowest (beAt f 16 4)
          let n := icvAt f 12 (if sci.isSome then 16 else 8)
          let iv := s.msecIv p sa (match sci with | some x => x | none => s.act (IgeRxsc.adr p c) IgeRxsc.sci) pn
          let slot := s.act sa IgeTxsa.keySlot
          let good := s.keyState slot != 0 && (aesGmac (s.keyOf slot) iv (f.take n)).take 16 == (f.drop n).take 16
          if v = 0 then (s, true)
          else if !good then
            s.msecFail p (if v = 1 then IgeMsecPort.inInvalid else IgeMsecPort.inNotValid) true
          else if s.actB a IgeMsecPort.replayProtect && decide (pn < lowest) then
            ((s.msecFail p IgeMsecPort.inLate true).1, false)
          else
            let w := s.act a IgeMsecPort.replayWindow
            ((s.bump a IgeMsecPort.inOk).set sa IgeTxsa.currentPn (max lowest (pn + 1 - w)), true)

/-- ENABLE of an SA goes from 0 to 1: its class B fields take effect, and CURRENT_PN starts (R471). -/
def State.saEnabled (s : State) (sa : Nat) : State :=
  let s1 := s.latchMask (fun x => if sa ≤ x ∧ x < sa + 0x40 then 0xFFFFFFFF#32 else 0)
  s1.set sa IgeTxsa.currentPn (s1.act sa IgeTxsa.pn)

/-! ## Leaving a port -/

/-- A frame as the MAC sends it: at least 60 bytes before its FCS (R370). -/
def padFrame (f : List Byte) : List Byte := f ++ List.replicate (60 - f.length) 0

/-- The fields of port `p` that take effect at its next frame (R585, R586). -/
def State.portLatch (s : State) (p : Nat) : State :=
  let a := if p < 16 then Dpx.adr p else Fpx.adr ((p - 16) / 4)
  s.latchB fun x e => x == .portFrame && e == a

/-- The clocks that a frame on its way out of port `p` restarts: the traffic manager's, the egress pipeline's with CLK_LKP, and
a drive port's (R474, R475). -/
def State.egressClocks (s : State) (p : Nat) : List Nat :=
  [ckTM] ++ s.roleClocks (p / 8) ++ (if p < 16 then [ckDP0 + p] else [])

/-- A frame leaves port `p`, through MACsec (R120, R464); the MAC appends the FCS. -/
def State.sendFrame (s : State) (p : Nat) (f : List Byte) : State :=
  match ((s.startClocks (s.egressClocks p)).portLatch p).msecTx p f with
  | (s1, some g) => s1.emit (.frame p (padFrame g))
  | (s1, none) => s1

end Sys2Proof.Machine
end

