-- ==== Sys2Proof/Machine/CxeOps.lean ====
section
/-!
DEFINITION. The cyclic exchange engine without its commands: rope timing (R133–R138), the frame plan
(R155), the checks of U04 (R592, R593), and the images (R139–R149).
-/

namespace Sys2Proof.Machine

/-! ## Entries that are listed -/

/-- The entries of an array of `n` entries of `stride` bytes at `base` with a word that is listed, in
ascending order. -/
def listedIn (m : List (Nat × Word)) (base stride n : Nat) (acc : List (Nat × Unit)) : List (Nat × Unit) :=
  m.foldl (fun acc (a, _) => if base ≤ a ∧ a < base + n * stride then sins acc ((a - base) / stride) () else acc) acc

/-- The entries of an array that the register file lists, in ascending order. -/
def State.listed (s : State) (base stride n : Nat) : List Nat :=
  (listedIn s.force base stride n (listedIn s.regs base stride n [])).map (·.1)

/-- What a failing condition blames: the window offset of a register, and a tag that tells it from the other conditions
on that register. -/
def blame (off tag : Nat) : Nat := off + 0x100000 * tag

/-- The blames of the conditions of a list that fail, in order. -/
def failing (l : List (Bool × Nat)) : List Nat := (l.filter fun x => !x.1).map (·.2)

/-- The registers that one check on the register at window offset `d` of unit `u` concerns, as first offset and words: all
those of an axis (R182) and of a recorder with its ranges (R440), both words of an expert window, and elsewhere the register
itself. -/
def checkedWith (u d : Nat) : Nat × Nat :=
  if u = 5 ∧ 0x80000 ≤ d then (d / 0x40 * 0x40, 16)
  else if u = 17 ∧ 0x2000 ≤ d ∧ d < 0x2800 then (d / 0x80 * 0x80, 32)
  else if u = 13 ∧ 0x8000 ≤ d ∧ d < 0x8800 then (d / 8 * 8, 2)
  else (d, 1)

/-- A value is refused for the first failure of `new` that blames a register which `own` picks, or that is not among those of
`old`: a check of what is written fails whatever failed before, and another one only when it held (R55, R592, R593; log 58). -/
def offence (own : Nat → Bool) (old new : List Nat) : Option Nat :=
  (new.find? fun k => own (k % 0x100000) || !old.contains k).map (· % 0x100000)

/-- A register that a check on offset `d` of unit `u` concerns has another value in force in `t`. -/
def State.moved (s t : State) (u d : Nat) : Bool :=
  let (b, n) := checkedWith u d
  (List.range n).any fun i => s.inForce (u * 0x100000 + b + 4 * i) != t.inForce (u * 0x100000 + b + 4 * i)

/-- The values of `mask` that are pending take effect, unless a check of the unit fails on those that would be in force then:
they all revert, and the unit refuses (R593; log 58). -/
def State.latchChecked (s : State) (u : Nat) (mask : Nat → Word) (bad : State → (Nat → Word) → List Nat) : State :=
  let t := s.latchMask mask
  if t.force = s.force then s
  else match offence (s.moved t u) (bad s s.inForce) (bad t t.inForce) with
    | none => t
    | some off => (s.revertMask mask).valueRefused u off

/-! ## Slices of U04 (R175, R177) -/

/-- Bytes of an image. -/
def imageSize : Nat := 0x200000

/-- N, the stations of the scale. -/
def State.stationCount (s : State) : Nat := stationCapacity s.scale

/-- Word `w` of CXE_SLICE[k]: stations, output share, input share (R175, R177). -/
def State.cxeSliceWord (s : State) (k w : Nat) : Word :=
  let d : Word :=
    if w = 0 then
      let (b, n) := s.equalShare s.stationCount k
      BitVec.ofNat 32 (b + 65536 * n)
    else
      let (b, n) := s.equalShare 512 k
      BitVec.ofNat 32 (b + 65536 * n)
  if s.service then sget d s.cxe.slices (k * 3 + w) else d

/-- The stations of slice `k`, as first and count. -/
def State.sliceStations (s : State) (k : Nat) : Nat × Nat :=
  let w := (s.cxeSliceWord k 0).toNat
  (w % 4096, bits w 28 16)

/-- The output (`w = 1`) or input (`w = 2`) share of slice `k`, as first byte and bytes. -/
def State.sliceImage (s : State) (k w : Nat) : Nat × Nat :=
  let v := (s.cxeSliceWord k w).toNat
  (bits v 8 0 * 4096, bits v 25 16 * 4096)

/-- The slice that station `n` belongs to (R175). -/
def State.sliceOfStation (s : State) (n : Nat) : Option Nat :=
  if s.service then ownerFrom s.sliceStations n s.owners 0
  else some (n * s.slices / s.stationCount)

/-! ## Rope timing (R133–R138) -/

/-- PERIOD of rope `r` in ns, through a reader (R133). -/
def ropePeriod (rd : Nat → Word) (r : Nat) : Nat :=
  fieldOf rd CxeBase.adr CxeBase.steps * 8 * fieldOf rd (CxeRope.adr r) CxeRope.mult
    / 2 ^ fieldOf rd (CxeRope.adr r) CxeRope.shift

/-- PHASE of rope `r` in ns. -/
def ropePhase (rd : Nat → Word) (r : Nat) : Nat := fieldOf rd (CxeRope.adr r) CxeRope.phase * 8

/-- ENABLE of rope `r`. -/
def ropeOn (rd : Nat → Word) (r : Nat) : Bool := fieldOf rd (CxeRope.adr r) CxeRope.enable == 1

/-- DEADLINE, APPLY and LAUNCH in ns. -/
def ropeDeadline (rd : Nat → Word) (r : Nat) : Nat := fieldOf rd (CxeRope.adr r) CxeRope.deadline * 8
def ropeApply (rd : Nat → Word) (r : Nat) : Nat := fieldOf rd (CxeRope.adr r) CxeRope.apply * 8
def ropeLaunch (rd : Nat → Word) (p r : Nat) : Nat := fieldOf rd (CxePortRope.adr p r) CxePortRope.launch * 8

/-- Rope `r` has a boundary at the line-time instant `t` (R134). -/
def isBoundary (rd : Nat → Word) (r t : Nat) : Bool :=
  decide (0 < ropePeriod rd r) && ((t : Int) - ropePhase rd r) % (ropePeriod rd r : Int) == 0

/-- The cycle number at instant `t` (R134). -/
def cycleAt (rd : Nat → Word) (r t : Nat) : Nat :=
  (((t : Int) - ropePhase rd r) / (ropePeriod rd r : Int) % (2 ^ 32 : Nat)).toNat

/-! ## Stations -/

/-- Field `f` of station `n`. -/
def stnF (rd : Nat → Word) (n : Nat) (f : Fld) : Nat := fieldOf rd (CxeStn.adr n) f

/-- Station `n` is enabled. -/
def stnOn (rd : Nat → Word) (n : Nat) : Bool := stnF rd n CxeStn.enable == 1

/-- The enabled stations, in ascending order. -/
def State.stations (s : State) (rd : Nat → Word) : List Nat :=
  (s.listed 0x440000 0x40 4096).filter (fun n => decide (n < s.stationCount) && stnOn rd n)

/-- The enabled stations of rope `r`. -/
def State.ropeStations (s : State) (rd : Nat → Word) (r : Nat) : List Nat :=
  (s.stations rd).filter fun n => stnF rd n CxeStn.rope == r

/-- Station `n` is a template station. -/
def stnTmpl (rd : Nat → Word) (n : Nat) : Bool := stnF rd n CxeStn.mode == 1

/-- Station `n` is redundant. -/
def stnRed (rd : Nat → Word) (n : Nat) : Bool := stnF rd n CxeStn.redundant == 1

/-- Station `n` is carried on port `p`. -/
def stnOnPort (rd : Nat → Word) (p n : Nat) : Bool :=
  stnF rd n CxeStn.port == p || (stnRed rd n && stnF rd n CxeStn.secPort == p)

/-- The template of a template station (R166). -/
def State.tmplOf (s : State) (n : Nat) : Nat := (n + 256 - s.stationCount) / 4

/-- The template station of template `t` (R166). -/
def State.tmplStation (s : State) (t : Nat) : Nat := s.stationCount - 256 + 4 * t

/-! ## Template blocks (R167, R168) -/

/-- Byte `i` of a template block. -/
def tmplByte (rd : Nat → Word) (t i : Nat) : Nat :=
  (rd (CxeTmpl.adr t (i / 4))).toNat / 2 ^ (8 * (i % 4)) % 256

/-- The 16-bit number at byte `i` of a template block. -/
def tmplHalf (rd : Nat → Word) (t i : Nat) : Nat := tmplByte rd t i + 256 * tmplByte rd t (i + 1)

/-- PROTO_LEN and FIELDS. -/
def protoLen (rd : Nat → Word) (t : Nat) : Nat := tmplHalf rd t 0 % 2048
def protoFields (rd : Nat → Word) (t : Nat) : Nat := tmplHalf rd t 2 % 64

/-- The prototype's bytes. -/
def protoBytes (rd : Nat → Word) (t : Nat) : List Byte :=
  (List.range (protoLen rd t)).map fun i => BitVec.ofNat 8 (tmplByte rd t (320 + i))

/-- A field entry: offset in the frame, kind, length, offset in the image range (R168). -/
structure TmplField where
  off : Nat
  kind : Nat
  len : Nat
  img : Nat
  deriving DecidableEq, Repr

/-- The length that a kind implies, or LENGTH. -/
def kindLength (kind len : Nat) : Nat :=
  if kind = 3 ∨ kind = 4 then 2 else if 5 ≤ kind ∧ kind ≤ 8 then 4 else len

/-- Field entry `i` of a template. -/
def tmplField (rd : Nat → Word) (t i : Nat) : TmplField :=
  let b := 64 + 8 * i
  let h := tmplHalf rd t (b + 2)
  ⟨tmplHalf rd t b, h / 2048, kindLength (h / 2048) (h % 2048), tmplHalf rd t (b + 4) % 1024⟩

/-- The field entries in use. -/
def tmplFields (rd : Nat → Word) (t : Nat) : List TmplField :=
  (List.range (protoFields rd t)).map (tmplField rd t)

/-- A field entry passes the check of R168. -/
def TmplField.ok (f : TmplField) (proto outLen inLen : Nat) : Bool :=
  let swap := f.len == 2 || f.len == 4 || f.len == 8
  let sized := decide (1 ≤ f.len) && decide (f.len ≤ 1024)
  if f.kind = 0 then true
  else if f.kind ≤ 8 then
    decide (f.off + f.len ≤ proto) && sized
      && (if f.kind ≤ 2 then decide (f.img + f.len ≤ outLen) else true) && (f.kind != 2 || swap)
  else if f.kind = 0x10 ∨ f.kind = 0x11 then
    decide (f.img + f.len ≤ inLen) && sized && (f.kind != 0x11 || swap)
  else false

/-! ## The frame plan (R155) -/

/-- A segment: station, offset within its data, length, and its place in the data area. -/
structure Seg where
  stn : Nat
  off : Nat
  len : Nat
  pos : Nat
  deriving DecidableEq, Repr

/-- A planned frame: version (0 for a template frame), whether it carries an R-tag, and its segments. -/
structure PlanFrame where
  ver : Nat
  rtag : Bool
  segs : List Seg
  deriving DecidableEq, Repr

/-- A frame being filled: its segments, newest first, their number and the end of its data. -/
structure Fill where
  segs : List Seg
  count : Nat
  data : Nat
  deriving DecidableEq, Repr

/-- An empty frame. -/
def Fill.empty : Fill := ⟨[], 0, 0⟩

/-- Descriptor bytes and most segments of a version (R151, R152). -/
def descBytes (v : Nat) : Nat := if v = 1 then 4 else 8
def maxSegs (v : Nat) : Nat := if v = 1 then 255 else 1024

/-- Where the next segment's data starts. -/
def Fill.pos (f : Fill) (v : Nat) : Nat := if v = 1 then f.data else (f.data + 3) / 4 * 4

/-- The bytes after the cycle header with one more segment of `len`. -/
def Fill.withSeg (f : Fill) (v len : Nat) : Nat := descBytes v * (f.count + 1) + f.pos v + len

/-- Adds a segment. -/
def Fill.add (f : Fill) (v n off len : Nat) : Fill :=
  ⟨⟨n, off, len, f.pos v⟩ :: f.segs, f.count + 1, f.pos v + len⟩

/-- Places station `n`'s bytes from `off`, `rem` of them, where a frame holds `cap` bytes after the cycle
header; a station that may be split is split at a 4 B boundary (R155).  None where it cannot be placed. -/
def placeStation (v cap : Nat) (split : Bool) (n : Nat) :
    Nat → Nat → Nat → Fill → List Fill → Option (Fill × List Fill)
  | 0, _, _, _, _ => none
  | fuel + 1, off, rem, cur, done =>
      if cur.count < maxSegs v ∧ cur.withSeg v rem ≤ cap then some (cur.add v n off rem, done)
      else
        let k := (cap - cur.withSeg v 0) / 4 * 4
        if split ∧ cur.count < maxSegs v ∧ cur.withSeg v 4 ≤ cap ∧ k < rem then
          placeStation v cap split n fuel (off + k) (rem - k) Fill.empty (cur.add v n off k :: done)
        else if cur.count = 0 then none
        else placeStation v cap split n fuel off rem Fill.empty (cur :: done)

/-- Fills the frames of one group; the frames are newest first. -/
def placeGroup (rd : Nat → Word) (v cap : Nat) (split : Bool) :
    List Nat → Fill → List Fill → Option (List Fill)
  | [], cur, done => some (if cur.count = 0 then done else cur :: done)
  | n :: ns, cur, done =>
      match placeStation v cap split n 600 0 (stnF rd n CxeStn.outLen) cur done with
      | some (cur, done) => placeGroup rd v cap split ns cur done
      | none => none

/-- The frames of a group of stations in one version. -/
def planGroup (rd : Nat → Word) (v hdr maxFrame : Nat) (rtag split : Bool) (stns : List Nat) :
    Option (List PlanFrame) :=
  let fixed := hdr + (if rtag then 6 else 0) + (if v = 1 then 12 else 16) + 4
  if stns.isEmpty then some []
  else (placeGroup rd v (maxFrame - fixed) split stns Fill.empty []).map fun fs =>
    fs.reverse.map fun f => ⟨v, rtag, f.segs.reverse⟩

/-- EXPERT of unit `u`. -/
def State.expert (s : State) (u : Nat) : Bool := s.getB (Hdr.adr u) Hdr.expert

/-- MAX_FRAME of port `p`: the expert field, or derived from JUMBO (R53, R180). -/
def State.maxFrame (s : State) (rd : Nat → Word) (p : Nat) : Nat :=
  if s.expert 4 then fieldOf rd (CxeXPort.adr p) CxeXPort.maxFrame
  else if fieldOf rd (CxePort.adr p) CxePort.jumbo = 1 then 9022 else 1522

/-- Bytes of the Ethernet header up to the EtherType, and what MACsec adds (R150, R466). -/
def State.headerBytes (s : State) (rd : Nat → Word) (p r : Nat) : Nat :=
  14 + (if fieldOf rd (CxePortRope.adr p r) CxePortRope.tagged = 1 then 4 else 0) + s.msecBytes p

/-- Joins two optional lists. -/
def joinPlan (a b : Option (List PlanFrame)) : Option (List PlanFrame) :=
  match a, b with
  | some x, some y => some (x ++ y)
  | _, _ => none

/-- The redundant groups: per port pair, v2 then v1.  A frame is built once, so it fits the room that both ports of the
pair have behind their headers (R158; log 58).  R155 orders the port pairs no further: here they follow PORT, then SEC_PORT,
and PORT a with SEC_PORT b is another pair than PORT b with SEC_PORT a (DESIGN CHOICE, log 118). -/
def redGroups (rd : Nat → Word) (room : Nat → Nat) (stns : List Nat) : Option (List PlanFrame) :=
  (List.range 256).foldl (fun acc pair =>
    let g (v : Nat) := stns.filter fun n =>
      stnF rd n CxeStn.port * 16 + stnF rd n CxeStn.secPort == pair && (stnF rd n CxeStn.version == v)
    let both := min (room (pair / 16)) (room (pair % 16))
    joinPlan acc (joinPlan (planGroup rd 2 0 both true false (g 2)) (planGroup rd 1 0 both true false (g 1))))
    (some [])

/-- The template frames: one for each template station, whole or not at all. -/
def State.tmplFrames (s : State) (rd : Nat → Word) (p maxFrame : Nat) (stns : List Nat) : Option (List PlanFrame) :=
  if stns.all (fun n => decide (protoLen rd (s.tmplOf n) + 4 + s.msecBytes p ≤ maxFrame)) then
    some (stns.map fun n => ⟨0, false, [⟨n, 0, stnF rd n CxeStn.outLen, 0⟩]⟩)
  else none

/-- The frames of one port and rope in order (R155); none where they cannot be formed. -/
def State.plan (s : State) (rd : Nat → Word) (p r : Nat) : Option (List PlanFrame) :=
  let stns := (s.ropeStations rd r).filter (stnOnPort rd p)
  let hdr := s.headerBytes rd p r
  let mx := s.maxFrame rd p
  let plain (v : Nat) := stns.filter fun n => !stnTmpl rd n && !stnRed rd n && stnF rd n CxeStn.version == v
  let red := stns.filter fun n => !stnTmpl rd n && stnRed rd n
  let all := joinPlan (planGroup rd 2 hdr mx false true (plain 2))
    (joinPlan (planGroup rd 1 hdr mx false false (plain 1))
      (joinPlan (if red.isEmpty then some [] else redGroups rd (fun q => s.maxFrame rd q - s.headerBytes rd q r) red)
        (s.tmplFrames rd p mx (stns.filter (stnTmpl rd)))))
  all.bind fun fs => if fs.length ≤ 255 then some fs else none

/-- Bytes of a planned frame, from the destination address through the FCS. -/
def State.planBytes (s : State) (rd : Nat → Word) (p r : Nat) (f : PlanFrame) : Nat :=
  if f.ver = 0 then
    match f.segs with
    | g :: _ => protoLen rd (s.tmplOf g.stn) + 4 + s.msecBytes p
    | [] => 0
  else
    let d := (f.segs.map fun g => g.pos + g.len).foldl max 0
    s.headerBytes rd p r + (if f.rtag then 6 else 0) + (if f.ver = 1 then 12 else 16)
      + descBytes f.ver * f.segs.length + d + 4

/-- The least Ethernet frame, FCS included: the MAC pads to 60 B (R370). -/
def minFrame : Nat := 64

/-- FRAMES and WIRE_BYTES of a plan, preamble and gap included (R155). -/
def State.planSize (s : State) (rd : Nat → Word) (p r : Nat) : Nat × Nat :=
  match s.plan rd p r with
  | some fs => (fs.length, (fs.map fun f => max minFrame (s.planBytes rd p r f) + 20).sum)
  | none => (0, 0)

/-! ## Port rate, cells and protected windows (R298, R315, R316) -/

/-- The rate of a port in Mb/s (R584, R585, R586). -/
def State.portRate (s : State) (p : Nat) : Nat :=
  if p < 16 then
    match s.act (Dpx.adr p) Dpx.ptype with
    | 0 => 1000
    | 1 => 2500
    | 2 => 5000
    | 4 => 25000
    | 5 => sget 10000 s.ports.usx p
    | _ => 10000
  else
    match s.act (Fpx.adr ((p - 16) / 4)) Fpx.breakout with
    | 0 => 400000
    | 1 => 200000
    | _ => 100000

/-- Drive port `p` runs (R585). -/
def State.driveOn (s : State) (p : Nat) : Bool := decide (p < drivePorts s.scale) && s.actB (Dpx.adr p) Dpx.enable

/-- Cells of one port and rope (R298). -/
def State.ropeCells (s : State) (rd : Nat → Word) (p r : Nat) : Nat :=
  if s.driveOn p && ropeOn rd r then
    let (n, w) := s.planSize rd p r
    (w + 255) / 256 + n
  else 0

/-- CXE_CELLS (R298). -/
def State.cxeCells (s : State) (rd : Nat → Word) : Nat :=
  ((List.range 16).map fun p => ((List.range 16).map fun r => s.ropeCells rd p r).sum).sum

/-- Cells of a frame of `n` bytes before its FCS (R298). -/
def cellsOf (n : Nat) : Nat := (n + 4 + 255) / 256

/-- Pool cells of the payload copies of Shardo packets (R401), and of the parked packets (R394). -/
def State.copyCells (s : State) : Nat :=
  (s.shx.conns.map fun (_, x) => (x.pkts.map fun p => (p.data.length + 255) / 256).sum).sum
def State.parkedCells (s : State) : Nat := (s.shx.parked.map fun (_, _, f) => cellsOf f.bytes.length).sum

/-- The free pool cells (R298, R299): what the cycle reserve, the inputs' shares, the queues and U16 leave. -/
def State.poolFree (s : State) : Nat :=
  98304 - s.cxeCells s.inForce
    - ((List.range 25).map fun i => s.get (TmInput.adr i) TmInput.used).sum
    - (s.tm.queues.map fun (_, fs) => (fs.map fun f => cellsOf f.bytes.length).sum).sum
    - s.copyCells - s.parkedCells

/-- Input `i` takes cells of the packet buffer, and gives them back (R299). -/
def State.useCells (s : State) (i n : Nat) : State :=
  s.set (TmInput.adr i) TmInput.used (s.get (TmInput.adr i) TmInput.used + n)
def State.freeCells (s : State) (i n : Nat) : State :=
  s.set (TmInput.adr i) TmInput.used (s.get (TmInput.adr i) TmInput.used - n)

/-- OPEN and LENGTH of the protected window of a port and rope in ns at a port rate in Mb/s: derived by R315, or the expert
fields of U13. -/
def State.windowAt (s : State) (rd : Nat → Word) (rate p r : Nat) : Nat × Nat :=
  let w := (s.planSize rd p r).2
  if !ropeOn rd r || w == 0 then (0, 0)
  else if s.expert 13 then
    (s.act (TmXWindow.adr p r) TmXWindow.openF * 8, s.act (TmXWindow.adr p r) TmXWindow.length * 8)
  else
    let m : Int := rate
    let l : Int := (ropeLaunch rd p r : Nat)
    let op : Int := (l * m - 64000 - 2 * m) / (8 * m)
    let cl : Int := (l * m + ((w : Int) - 8) * 8000 + 2 * m + 8 * m - 1) / (8 * m)
    ((op * 8).toNat, ((cl - op) * 8).toNat)

/-- The window at the port rate in force, which the test of R316 takes. -/
def State.window (s : State) (rd : Nat → Word) (p r : Nat) : Nat × Nat := s.windowAt rd (s.portRate p) p r

/-- The rate that the window in force was derived with: of a USXGMII port, the one at the rope's last boundary with LINK up
(R316). -/
def State.windowRate (s : State) (p r : Nat) : Nat :=
  if p < 16 ∧ s.act (Dpx.adr p) Dpx.ptype = 5 then sget (s.portRate p) s.tm.winRate (16 * p + r) else s.portRate p

/-- The window in force. -/
def State.windowNow (s : State) (p r : Nat) : Nat × Nat := s.windowAt s.inForce (s.windowRate p r) p r

/-- The protected windows of a port in force, as repeating spans: start, length and period in ns; windows that meet close
the gates together (R316). -/
def State.windowsNow (s : State) (p : Nat) : List (Nat × Nat × Nat) :=
  (List.range 16).filterMap fun r =>
    let (o, l) := s.windowNow p r
    if l = 0 then none else some (ropePhase s.inForce r + o, l, ropePeriod s.inForce r)

/-- Two repeating windows overlap: start, length and period in ns. -/
def windowsMeet (a b : Nat × Nat × Nat) : Bool :=
  let g := Nat.gcd a.2.2 b.2.2
  let d := (((b.1 : Int) - a.1) % (g : Int)).toNat
  decide (0 < a.2.1) && decide (0 < b.2.1) && (decide (d < a.2.1) || decide (g < d + b.2.1))

/-- The elements of a list, each with those after it. -/
def pairsOf {α : Type} : List α → List (α × α)
  | [] => []
  | x :: xs => xs.map (fun y => (x, y)) ++ pairsOf xs

/-- The windows of one port, each with its rope, from the phase of the rope. -/
def State.portWindows (s : State) (rd : Nat → Word) (p : Nat) : List (Nat × Nat × Nat × Nat) :=
  (List.range 16).filterMap fun r =>
    let (o, l) := s.window rd p r
    if l = 0 then none else some (r, ropePhase rd r + o, l, ropePeriod rd r)

/-- The pairs of windows of port `p` that overlap (R316), blamed on both windows of U13. -/
def State.portApart (s : State) (rd : Nat → Word) (p : Nat) : List (Bool × Nat) :=
  (pairsOf (s.portWindows rd p)).flatMap fun (a, b) =>
    [(!windowsMeet a.2 b.2, blame (TmXWindow.adr p b.1 - 0xD00000) a.1),
     (!windowsMeet a.2 b.2, blame (TmXWindow.adr p a.1 - 0xD00000) b.1)]

/-- Bytes of the SecTAG at `o`: 16 with an SCI (R225). -/
def secTagBytes (f : List Byte) (o : Nat) : Nat := if bit (beAt f (o + 2) 1) 5 then 16 else 8

/-- The offset of the EtherType in a frame: after the addresses and the tags that the parser passes over, VLAN tags with the
TPID of the pipeline among them (R150, R225). -/
def etherAt (tpid : Option Nat) (f : List Byte) : Nat → Nat → Nat
  | 0, o => o
  | n + 1, o =>
      let t := beAt f o 2
      if t = 0x8100 ∨ t = 0x88A8 ∨ tpid = some t then etherAt tpid f n (o + 4)
      else if t = 0xF1C1 then etherAt tpid f n (o + 6)
      else if t = 0x88E5 then etherAt tpid f n (o + secTagBytes f o)
      else o

/-- The offset of the SecTAG among the tags of a frame. -/
def secTagAt (tpid : Option Nat) (f : List Byte) : Nat → Nat → Option Nat
  | 0, _ => none
  | n + 1, o =>
      let t := beAt f o 2
      if t = 0x8100 ∨ t = 0x88A8 ∨ tpid = some t then secTagAt tpid f n (o + 4)
      else if t = 0xF1C1 then secTagAt tpid f n (o + 6)
      else if t = 0x88E5 then some o
      else none

/-- Most tags that the parser passes over (R223). -/
def tagFuel : Nat := 6

/-- A frame without its SecTAG and its ICV, as U04 reads a reply (R225, R465; log 59). -/
def bareFrame (tpid : Option Nat) (f : List Byte) : List Byte :=
  match secTagAt tpid f tagFuel 12 with
  | some o =>
      let n := secTagBytes f o
      let g := f.take (icvAt f o n)
      g.take o ++ g.drop (o + n)
  | none => f

/-- The TPID of role `r` beside 0x88A8, when it is enabled (R225). -/
def State.tpidOf (s : State) (r : Nat) : Option Nat :=
  if s.actB (PpTpid.adr r) PpTpid.enable then some (s.act (PpTpid.adr r) PpTpid.tpid) else none

/-! ## The checks of U04 -/

/-- Spread is enabled on CLK_CXE (R136, R477). -/
def State.cxeSpread (s : State) : Bool := bit (s.act PwrSpread.adr PwrSpread.enable) 2

/-- The ports that carry rope `r`. -/
def State.ropePorts (s : State) (rd : Nat → Word) (r : Nat) : List Nat :=
  (List.range 16).filter fun p => (s.ropeStations rd r).any (stnOnPort rd p)

/-- Offset of a U04 address in its window. -/
def cxeOff (a : Nat) : Nat := a - 0x400000

/-- R135: two boundaries coincide or lie at least 560 ns apart. -/
def boundariesApart (rd : Nat → Word) (a b : Nat) : Bool :=
  let g := Nat.gcd (ropePeriod rd a) (ropePeriod rd b)
  let d := (((ropePhase rd a : Int) - ropePhase rd b) % (g : Int)).toNat
  d == 0 || (decide (560 ≤ d) && decide (d + 560 ≤ g))

/-- The checks of the launch offset of rope `r` on port `q` (R136): on its own, and again for an enabled rope that the port
carries, so that ENABLE and a station's PORT meet them too. -/
def State.launchChecks (s : State) (rd : Nat → Word) (r q : Nat) : List (Bool × Nat) :=
  let a := cxeOff (CxeRope.adr r)
  let x := cxeOff (CxePortRope.adr q r)
  let l := ropeLaunch rd q r
  let idle := !(ropeOn rd r && (s.ropeStations rd r).any (stnOnPort rd q))
  let least := decide ((if s.cxeSpread then 760 else 752) ≤ l)
  let applied := decide (l ≤ ropeApply rd r)
  let early := decide (l < ropeDeadline rd r)
  [(least, blame x 0), (applied, blame (a + 8) (2 * q + 2)), (early, blame (a + 12) (2 * q + 2)),
   (early, blame x 20), (idle || least, blame x 1), (idle || applied, blame (a + 8) (2 * q + 3)), (idle || early, blame (a + 12) (2 * q + 3))]

/-- The timing checks of rope `r` (R133, R134, R136). -/
def State.ropeChecks (s : State) (rd : Nat → Word) (r : Nat) : List (Bool × Nat) :=
  let a := cxeOff (CxeRope.adr r)
  let p := ropePeriod rd r
  [(decide (8000 ≤ p) && decide (p ≤ 1073741824), blame a 0), (decide (ropePhase rd r < p), blame (a + 4) 0),
   (decide (ropeApply rd r ≤ 2 ^ 31 - 8), blame (a + 8) 0), (decide (ropeDeadline rd r + 1000 ≤ p), blame (a + 12) 0),
   (!ropeOn rd r || decide (ropeDeadline rd r + 1000 ≤ p), blame (a + 12) 1)]
  ++ (List.range 16).flatMap (s.launchChecks rd r)

/-- R194: the placement lead of each master fits its rope, seen from U04. -/
def State.leadChecks (s : State) (rd : Nat → Word) : List (Bool × Nat) :=
  (List.range 16).map fun k =>
    let m := MpiMaster.adr k
    let r := s.act m MpiMaster.rope
    (decide (s.act m MpiMaster.placeLead + 1000 < ropePeriod rd r), blame (cxeOff (CxeRope.adr r)) (64 + k))

/-- A range lies within a share. -/
def within (sh : Nat × Nat) (off len : Nat) : Bool := len == 0 || (decide (sh.1 ≤ off) && decide (off + len ≤ sh.1 + sh.2))

/-- The rope rule of R176: a station of the owner slice, or slices bound to one PASID. -/
def State.mayJoin (s : State) (k owner : Nat) : Bool :=
  k == owner || (s.bound k && s.bound owner && s.slicePasid k == s.slicePasid owner)

/-- Station `n` belongs to the owner slice of rope `r`, or to one bound to its PASID. -/
def State.stnJoins (s : State) (rd : Nat → Word) (r n : Nat) : Bool :=
  match s.sliceOfStation n with
  | some k => s.mayJoin k (fieldOf rd (CxeRope.adr r) CxeRope.slice)
  | none => false

/-- The stations that the mirror of rope `r` names belong to the owner's PASID (R180). -/
def State.mirrorChecks (s : State) (rd : Nat → Word) (r : Nat) : List (Bool × Nat) :=
  let f := fieldOf rd (CxeRope.adr r) CxeRope.mirrorStnFirst
  [((List.range (fieldOf rd (CxeRope.adr r) CxeRope.mirrorStnCount)).all fun i => s.stnJoins rd r (f + i),
    blame (cxeOff (CxeRope.adr r) + 0x24) 0)]

/-- The template rules of station `n` (R158, R166, R168).  R168 names the check where the station's enable would take effect;
here a write of the block under a station that is enabled meets it too (DESIGN CHOICE, log 118). -/
def State.tmplChecks (s : State) (rd : Nat → Word) (n : Nat) : List (Bool × Nat) :=
  let a := cxeOff (CxeStn.adr n)
  if stnTmpl rd n then
    let t := s.tmplOf n
    let l := protoLen rd t
    [(decide (s.stationCount ≤ n + 256) && (n + 256 - s.stationCount) % 4 == 0 && [1, 2, 3].all (fun i => !stnOn rd (n + i)),
      blame a 2),
     (decide (60 ≤ l) && decide (l ≤ 1514) && decide (protoFields rd t ≤ 32)
      && (tmplFields rd t).all fun f => f.ok l (stnF rd n CxeStn.outLen) (stnF rd n CxeStn.inLen), blame a 3)]
  else []

/-- A range of station `n` lies within the output (`w = 1`) or input (`w = 2`) share of its slice (R175). -/
def State.inImage (s : State) (n w off len : Nat) : Bool :=
  match s.sliceOfStation n with
  | some k => within (s.sliceImage k w) off len
  | none => len == 0

/-- The OUT range, and the IN range, of station `n` lie within the shares of its slice. -/
def State.outWithin (s : State) (rd : Nat → Word) (n : Nat) : Bool :=
  s.inImage n 1 (stnF rd n CxeStn.outOffset) (stnF rd n CxeStn.outLen)
def State.inWithin (s : State) (rd : Nat → Word) (n : Nat) : Bool :=
  s.inImage n 2 (stnF rd n CxeStn.inOffset) (stnF rd n CxeStn.inLen)

/-- The checks of station `n`: it keeps within the share of its slice, enabled or not (R175), and is not both a template
station and redundant (R158). -/
def State.rangeOk (s : State) (rd : Nat → Word) (n : Nat) : List (Bool × Nat) :=
  let a := cxeOff (CxeStn.adr n)
  [(s.outWithin rd n, blame (a + 4) 0), (s.inWithin rd n, blame (a + 8) 0),
   (!stnOn rd n || (s.outWithin rd n && s.inWithin rd n), blame a 5), (!(stnTmpl rd n && stnRed rd n), blame a 4)]

/-- Every enabled station, by the values written or in force, keeps within the shares of its slice (R177, R346). -/
def State.stationsFit (s : State) : Bool :=
  ((s.listed 0x440000 0x40 4096).filter fun n => decide (n < s.stationCount)).all fun n =>
    [s.rd, s.inForce].all fun rd => !stnOn rd n || (s.outWithin rd n && s.inWithin rd n)

/-- The checks of one enabled station (R158, R176); a station already in force is not tested again for R176. -/
def State.stationChecks (s : State) (old rd : Nat → Word) (n : Nat) : List (Bool × Nat) :=
  let a := cxeOff (CxeStn.adr n)
  let same := stnOn old n && stnF old n CxeStn.rope == stnF rd n CxeStn.rope
  [(!stnRed rd n || stnF rd n CxeStn.port != stnF rd n CxeStn.secPort, blame a 0),
   (same || s.stnJoins rd (stnF rd n CxeStn.rope) n, blame a 1)] ++ s.tmplChecks rd n

/-- Two ranges overlap. -/
def rangesMeet (o1 l1 o2 l2 : Nat) : Bool :=
  decide (0 < l1) && decide (0 < l2) && decide (o1 < o2 + l2) && decide (o2 < o1 + l1)

/-- IN ranges never overlap, and OUT ranges only within one rope (R180): a check of the ranges of both stations. -/
def rangeChecks (rd : Nat → Word) (stns : List Nat) : List (Bool × Nat) :=
  (pairsOf stns).flatMap fun (x, y) =>
    let outs := !(stnF rd x CxeStn.rope != stnF rd y CxeStn.rope &&
        rangesMeet (stnF rd x CxeStn.outOffset) (stnF rd x CxeStn.outLen)
          (stnF rd y CxeStn.outOffset) (stnF rd y CxeStn.outLen))
    let ins := !rangesMeet (stnF rd x CxeStn.inOffset) (stnF rd x CxeStn.inLen)
        (stnF rd y CxeStn.inOffset) (stnF rd y CxeStn.inLen)
    [(outs, blame (cxeOff (CxeStn.adr y) + 4) (x + 1)), (outs, blame (cxeOff (CxeStn.adr x) + 4) (y + 1)),
     (ins, blame (cxeOff (CxeStn.adr y) + 8) (x + 1)), (ins, blame (cxeOff (CxeStn.adr x) + 8) (y + 1))]

/-- The checks of port `p`: its plans and its windows (R155, R316). -/
def State.portChecks (s : State) (rd : Nat → Word) (p : Nat) : List (Bool × Nat) :=
  (List.range 16).map (fun r => ((s.plan rd p r).isSome, blame (cxeOff (CxePortRope.adr p r)) 2))
  ++ (pairsOf (s.portWindows rd p)).flatMap fun (a, b) =>
    [(!windowsMeet a.2 b.2, blame (cxeOff (CxePortRope.adr p b.1)) (3 + a.1)),
     (!windowsMeet a.2 b.2, blame (cxeOff (CxePortRope.adr p a.1)) (3 + b.1))]

/-- The stations with a register that is listed, enabled or not, in ascending order. -/
def State.knownStations (s : State) : List Nat :=
  (s.listed 0x440000 0x40 4096).filter fun n => decide (n < s.stationCount)

/-- What U04 checks when a value would take effect, on the values of `rd`, with those in force before in
`old`: the blames of the checks that fail. -/
def State.cxeBad (s : State) (old rd : Nat → Word) : List Nat :=
  let on := (List.range 16).filter (ropeOn rd)
  let known := s.knownStations
  let stns := known.filter (stnOn rd)
  let outs := decide ((stns.map fun n => stnF rd n CxeStn.outLen).sum ≤ imageSize)
  let ins := decide ((stns.map fun n => stnF rd n CxeStn.inLen).sum ≤ imageSize)
  let cells := decide (s.cxeCells rd ≤ 8192)
  failing ((List.range 16).flatMap (s.ropeChecks rd)
    ++ (pairsOf on).map (fun (x, y) => (boundariesApart rd x y, blame (cxeOff (CxeRope.adr y)) (1 + x)))
    ++ s.leadChecks rd
    ++ (List.range 16).flatMap (s.mirrorChecks rd)
    ++ known.flatMap (s.rangeOk rd)
    ++ stns.flatMap (s.stationChecks old rd)
    ++ stns.flatMap (fun n => let a := cxeOff (CxeStn.adr n); [(outs, blame (a + 4) 0x10000), (ins, blame (a + 8) 0x10000)])
    ++ rangeChecks rd known
    ++ (List.range 16).flatMap (s.portChecks rd)
    ++ stns.map (fun n => (cells, blame (cxeOff (CxeStn.adr n)) 0x10000))
    ++ on.map (fun r => (cells, blame (cxeOff (CxeRope.adr r)) 0x10000)))

/-! ## Ropes and stations: what no register shows -/

/-- Rope `r`. -/
def State.rope (s : State) (r : Nat) : RopeSt := s.cxe.ropes.getD r RopeSt.init

/-- Changes rope `r`. -/
def State.modRope (s : State) (r : Nat) (f : RopeSt → RopeSt) : State :=
  { s with cxe := { s.cxe with ropes := s.cxe.ropes.modify r f } }

/-- Station `n`. -/
def State.stn (s : State) (n : Nat) : StnSt := sget s.cxe.fresh s.cxe.stns n

/-- Changes station `n`. -/
def State.modStn (s : State) (n : Nat) (f : StnSt → StnSt) : State :=
  { s with cxe := { s.cxe with stns := sput s.cxe.fresh s.cxe.stns n (f (s.stn n)) } }

/-- Changes every station of rope `r`, enabled or not (R139, R144). -/
def State.modRopeStns (s : State) (r : Nat) (f : StnSt → StnSt) : State :=
  let fr := if r = 0 then f s.cxe.fresh else s.cxe.fresh
  let ns := (s.knownStations ++ s.cxe.stns.map (·.1)).eraseDups
  { s with cxe := { s.cxe with fresh := fr, stns := ns.foldl (fun m n =>
      sput fr m n (if stnF s.inForce n CxeStn.rope = r then f (s.stn n) else s.stn n)) [] } }

/-- Rope modes (R170). -/
def rmOFF : Nat := 0
def rmRUN : Nat := 1
def rmCONTINUE : Nat := 2
def rmHOLD : Nat := 3
def rmSTOP : Nat := 4

/-- MODE of rope `r`. -/
def State.ropeMode (s : State) (r : Nat) : Nat := s.get (CxeRope.adr r) CxeRope.stMode

/-- The owner slice of rope `r` (R176). -/
def State.ropeSlice (s : State) (r : Nat) : Nat := s.act (CxeRope.adr r) CxeRope.slice

/-- An event of U04 about a rope and, where one is concerned, a station, in the cycle in progress (R179, R511). -/
def State.cxeEvent (s : State) (n r : Nat) (stn : Option Nat) : State :=
  s.note 4 n (r + 65536 * (stn.getD 0 % 4096))

/-! ## The images (R139–R149) -/

/-- The four image buffers. -/
inductive Img
  | out0 | out1 | in0 | in1
  deriving DecidableEq, Repr

/-- Byte `i` of a buffer. -/
def State.imgByte (s : State) (b : Img) (i : Nat) : Byte :=
  match b with
  | .out0 => sget 0 s.cxe.out0 i
  | .out1 => sget 0 s.cxe.out1 i
  | .in0 => sget 0 s.cxe.in0 i
  | .in1 => sget 0 s.cxe.in1 i

/-- Bytes of a buffer. -/
def State.imgRead (s : State) (b : Img) (o n : Nat) : List Byte := (List.range n).map fun i => s.imgByte b (o + i)

/-- Puts bytes into a sparse byte store. -/
def putBytes (m : List (Nat × Byte)) (o : Nat) : List Byte → List (Nat × Byte)
  | [] => m
  | x :: xs => putBytes (sput 0 m o x) (o + 1) xs

/-- Writes bytes into a buffer. -/
def State.imgWrite (s : State) (b : Img) (o : Nat) (bs : List Byte) : State :=
  { s with cxe := match b with
      | .out0 => { s.cxe with out0 := putBytes s.cxe.out0 o bs }
      | .out1 => { s.cxe with out1 := putBytes s.cxe.out1 o bs }
      | .in0 => { s.cxe with in0 := putBytes s.cxe.in0 o bs }
      | .in1 => { s.cxe with in1 := putBytes s.cxe.in1 o bs } }

/-- The live and the back output buffer of a station (R139). -/
def State.liveBuf (s : State) (n : Nat) : Img := if (s.stn n).outSel then .out1 else .out0
def State.backBuf (s : State) (n : Nat) : Img := if (s.stn n).outSel then .out0 else .out1

/-- The front and the back input buffer of a station (R144). -/
def State.frontBuf (s : State) (n : Nat) : Img := if (s.stn n).inSel then .in1 else .in0
def State.backIn (s : State) (n : Nat) : Img := if (s.stn n).inSel then .in0 else .in1

/-- The live output bytes of station `n`. -/
def State.outBytes (s : State) (n off len : Nat) : List Byte :=
  s.imgRead (s.liveBuf n) (s.act (CxeStn.adr n) CxeStn.outOffset + off) len

/-- The published input bytes of station `n`. -/
def State.inBytes (s : State) (n off len : Nat) : List Byte :=
  s.imgRead (s.frontBuf n) (s.act (CxeStn.adr n) CxeStn.inOffset + off) len

/-- The enabled station whose OUT range holds image byte `i`. -/
def State.outOwner (s : State) (stns : List Nat) (i : Nat) : Option Nat :=
  stns.find? fun n => inShare (s.act (CxeStn.adr n) CxeStn.outOffset, s.act (CxeStn.adr n) CxeStn.outLen) i

/-- The enabled station whose IN range holds image byte `i`. -/
def State.inOwner (s : State) (stns : List Nat) (i : Nat) : Option Nat :=
  stns.find? fun n => inShare (s.act (CxeStn.adr n) CxeStn.inOffset, s.act (CxeStn.adr n) CxeStn.inLen) i

/-- The status word of station `n` (R163); one that no publish has set apart shows the CYCLE of rope 0's last publish. -/
def State.statusWord (s : State) (n : Nat) : Word :=
  let a := CxeStn.adr n + 0xC
  if (sfind s.regs a).isNone && stnF s.inForce n CxeStn.rope == 0 && decide (n < s.stationCount) then
    merge 0xFF#32 (s.rd a) (BitVec.ofNat 32 s.cxe.freshCycle)
  else s.rd a

/-- A write of bytes to the back output view; a byte in no station's range goes to buffer 0 (R142, R149).  R142 serves a TLP
whole from one buffer and names none for a TLP that spans stations whose select bits differ: here each byte goes by its own
owner's bit (DESIGN CHOICE, log 118). -/
def writeBack (stns : List Nat) : Nat → List Byte → State → State
  | _, [], s => s
  | i, x :: xs, s =>
      let b := match s.outOwner stns i with | some n => s.backBuf n | none => .out0
      writeBack stns (i + 1) xs (s.imgWrite b i [x])

/-- One byte of the image aperture (R149). -/
def State.apertureByte (s : State) (stns : List Nat) (o : Nat) : Byte :=
  let i := o % imageSize
  if o < 0x200000 then
    s.imgByte (match s.outOwner stns i with | some n => s.backBuf n | none => .out0) i
  else if o < 0x400000 then
    s.imgByte (match s.outOwner stns i with | some n => s.liveBuf n | none => .out0) i
  else if o < 0x600000 then
    s.imgByte (match s.inOwner stns i with | some n => s.frontBuf n | none => .in0) i
  else if o < 0x604000 then
    BitVec.ofNat 8 ((s.statusWord ((o - 0x600000) / 4)).toNat / 2 ^ (8 * (o % 4)))
  else 0

/-- Bytes of the image aperture. -/
def State.apertureRead (s : State) (o n : Nat) : List Byte :=
  let stns := s.stations s.inForce
  (List.range n).map fun i => s.apertureByte stns (o + i)

/-! ## Building a frame (R150–R157, R167–R169) -/

/-- Overwrites bytes of a frame from offset `o`; bytes past the end are dropped. -/
def patch (f : List Byte) (o : Nat) (bs : List Byte) : List Byte :=
  (f.take o ++ bs ++ f.drop (o + bs.length)).take f.length

/-- The status that a segment carries in a rope mode (R153, R172). -/
def segStatus (mode : Nat) : Nat := if mode = rmHOLD then 1 else if mode = rmSTOP then 2 else 0

/-- One segment descriptor (R152). -/
def segDesc (v status : Nat) (g : Seg) : List Byte :=
  beBytes 2 (status * 4096 + g.stn) ++ beBytes 2 g.len ++ (if v = 1 then [] else beBytes 2 g.off ++ beBytes 2 g.pos)

/-- The data area of a frame. -/
def State.segData (s : State) : List Seg → List Byte → List Byte
  | [], d => d
  | g :: gs, d => s.segData gs (d ++ List.replicate (g.pos - d.length) 0 ++ s.outBytes g.stn g.off g.len)

/-- The cycle header (R151). -/
def cycleHeader (v r count cycle applyTime id payload : Nat) : List Byte :=
  [BitVec.ofNat 8 (v * 16 + r), 0] ++ beBytes 2 count ++
    (if v = 1 then beBytes 2 cycle ++ [0, 0] ++ beBytes 4 applyTime
     else beBytes 4 cycle ++ beBytes 4 applyTime ++ beBytes 2 id ++ beBytes 2 payload)

/-- The Ethernet header of a rope on a port: addresses, tag, R-tag and EtherType (R150, R158). -/
def State.ethHeader (s : State) (p r cycle : Nat) (rtag : Bool) : List Byte :=
  let a := CxePortRope.adr p r
  beBytes 2 (s.act a CxePortRope.daHigh) ++ beBytes 4 (s.act a CxePortRope.daLow) ++ beBytes 6 (s.portMac p) ++
    (if s.actB a CxePortRope.tagged then
      [0x81#8, 0x00#8] ++ beBytes 2 (s.act a CxePortRope.pcp * 8192 + s.act a CxePortRope.vid) else []) ++
    (if rtag then [0xF1#8, 0xC1#8, 0, 0] ++ beBytes 2 cycle else []) ++
    beBytes 2 (s.act CxeEthertype.adr CxeEthertype.etype)

/-- A field entry acts on the prototype (R168). -/
def State.tmplEdit (s : State) (n cycle applyTime : Nat) (f : List Byte) (e : TmplField) : List Byte :=
  match e.kind with
  | 1 => patch f e.off (s.outBytes n e.img e.len)
  | 2 => patch f e.off (s.outBytes n e.img e.len).reverse
  | 3 => patch f e.off (beBytes 2 cycle)
  | 4 => patch f e.off (leBytes 2 cycle)
  | 5 => patch f e.off (beBytes 4 cycle)
  | 6 => patch f e.off (leBytes 4 cycle)
  | 7 => patch f e.off (beBytes 4 applyTime)
  | 8 => patch f e.off (leBytes 4 applyTime)
  | _ => f

/-- The bytes of a planned frame, from the destination address to the last payload byte. -/
def State.buildFrame (s : State) (p r cycle applyTime id : Nat) (f : PlanFrame) : List Byte :=
  if f.ver = 0 then
    match f.segs with
    | g :: _ =>
        let t := s.tmplOf g.stn
        (tmplFields s.inForce t).foldl (s.tmplEdit g.stn cycle applyTime) (protoBytes s.inForce t)
    | [] => []
  else
    let st := segStatus (s.ropeMode r)
    let body := f.segs.flatMap (segDesc f.ver st) ++ s.segData f.segs []
    s.ethHeader p r cycle f.rtag ++ cycleHeader f.ver r f.segs.length cycle applyTime id body.length ++ body

end Sys2Proof.Machine
end

