-- ==== Sys2Proof/Machine/SvcOps.lean ====
section
/-!
DEFINITION. Reserve kinds, and the retirement of banks, which any access can bring about (R493–R506).
-/

namespace Sys2Proof.Machine

/-- The reserve kinds (R493). -/
def rkCORE : Nat := 0
def rkPIPELINE : Nat := 1
def rkMPI : Nat := 2
def rkIGE : Nat := 3
def rkTCAM : Nat := 4
def rkGENERAL : Nat := 5
def rkTABLE : Nat := 6
def rkPACKET : Nat := 7
def rkCXE : Nat := 8

/-- STATE of SVC_KIND. -/
def rsIDLE : Nat := 0
def rsPLACING : Nat := 1
def rsHANDOVER : Nat := 2
def rsTESTING : Nat := 3
def rsNO_RESERVE : Nat := 4

/-- Kind `k`. -/
def State.kind (s : State) (k : Nat) : SvcKind := s.svc.kinds.getD k (SvcKind.rest 0)

/-- Changes kind `k`. -/
def State.modKind (s : State) (k : Nat) (f : SvcKind → SvcKind) : State :=
  { s with svc := { s.svc with kinds := s.svc.kinds.modify k f } }

/-- Members held in reserve, and retired. -/
def State.reserves (s : State) (k : Nat) : Nat := s.get (SvcKind.adr k) SvcKind.reserveMap
def State.retired (s : State) (k m : Nat) : Bool := bit (s.get (SvcKind.adr k) SvcKind.retiredMap) m

/-- A map with and without member `m`. -/
def withBit (w m : Nat) : Nat := w ||| 2 ^ m
def dropBit (w m : Nat) : Nat := (w ||| 2 ^ m) - 2 ^ m

/-- The reserve of kind `k` that can serve: the lowest held one whose test was not cut short (R494, R516). -/
def State.freeReserve (s : State) (k : Nat) : Option Nat :=
  (List.range 32).find? fun m => bit (s.reserves k) m && !(s.kind k).cut.contains m

/-- STATE and MEMBER of kind `k`. -/
def State.kindState (s : State) (k st m : Nat) : State :=
  (s.set (SvcKind.adr k) SvcKind.state st).set (SvcKind.adr k) SvcKind.member m

/-- Kind `k` is at rest: IDLE, or NO_RESERVE when it holds none. -/
def State.kindRests (s : State) (k : Nat) : State :=
  s.kindState k (if s.reserves k = 0 then rsNO_RESERVE else rsIDLE) 31

/-- A kind that has no reserve left is announced (R495). -/
def State.exhaustion (s : State) (k : Nat) : State := if s.reserves k = 0 then s.raise 23 10 k else s

/-- The detail of an event about a member. -/
def memberDetail (k m : Nat) : Nat := k + 16 * m

/-- The unit that owns logical bank `b` of a group; `general` is the owner of a bank of general memory (R487, R506). -/
def bankOwner (k b general : Nat) : Nat :=
  if k = rkTABLE then 11 else if k = rkPACKET then 13
  else if k = rkCXE then (if 8 ≤ b ∧ b ≤ 13 then 5 else 4)
  else general

/-- Member `m` of kind `k` is retired (R495, R505). -/
def State.retireMember (s0 : State) (k m : Nat) : State :=
  let a := SvcKind.adr k
  let s := s0.modKind k fun x => { x with cut := x.cut.filter (· != m) }
  (s.set a SvcKind.retiredMap (withBit (s.get a SvcKind.retiredMap) m)).set a SvcKind.reserveMap (dropBit (s.reserves k) m)

/-- A copy of `m` into reserve `r` begins (R500, R501). -/
def State.copyBegins (s : State) (k m r : Nat) (retire : Bool) : State :=
  (s.modKind k fun x => { x with copy := some ⟨m, r, retire⟩, testing := if x.testing = some r then none else x.testing }).kindState k rsHANDOVER m

/-- A retirement of bank `m` finds no reserve: the owner of its addresses goes to ERROR (R506). -/
def State.reserveLost (s : State) (k m general : Nat) : State :=
  match (s.kind k).duty.findIdx? (· == m) with
  | some b => (s.setUnit (bankOwner k b general) stERROR 0x40).raise 23 10 k
  | none => s.raise 23 10 k

/-- A bank that carries no duty is retired; a copy into it is abandoned (R504–R506). -/
def State.retireIdle (s : State) (k m : Nat) : State :=
  let s1 := s.modKind k fun y => { y with copy := none, testing := if y.testing = some m then none else y.testing }
  ((s1.retireMember k m).kindRests k).raise 23 9 (memberDetail k m)

/-- Physical bank `m` of group `k` has to be retired (R504–R506). -/
def State.retireBank (s : State) (k m general : Nat) : State :=
  let x := s.kind k
  if s.retired k m then s
  else match x.copy with
    | some c =>
        if c.member = m then s.modKind k fun y => { y with copy := some { c with retire := true } }
        else if c.reserve = m then
          if c.retire then (s.retireIdle k m).reserveLost k c.member general else (s.retireIdle k m).exhaustion k
        else if c.retire then s.reserveLost k m general
        else s.copyBegins k m c.reserve true
    | none =>
        if !x.duty.contains m then (s.retireIdle k m).exhaustion k
        else match s.freeReserve k with
          | some r => s.copyBegins k m r true
          | none => s.reserveLost k m general

/-- An access of logical bank `b` of group `k` meets an uncorrectable error (R504). -/
def State.uncorrectable (s : State) (k b : Nat) : State := s.retireBank k ((s.kind k).duty.getD b b) 23

/-- A correctable error in physical bank `m` (R504). -/
def State.correctable (s : State) (k m general : Nat) : State :=
  let a := SvcKind.adr k
  let seen := s.get a SvcKind.ceSeen
  if bit seen m then s.retireBank k m general
  else (s.set a SvcKind.ceSeen (withBit seen m)).raise 23 8 (memberDetail k m)

/-! ## The pause of a pipeline handover (R497, R594) -/

/-- The pause of a placed handover of role `p.role` begins: head in stops, and the unit of the role is HELD by the service
controller (R11, R497). -/
def State.pauseBegins (s : State) (p : SvcPause) : State :=
  let s1 : State := { s with svc := { s.svc with pause := some { p with begun := true } }, pp := { s.pp with paused := p.role :: s.pp.paused } }
  let s2 := s1.kindState rkPIPELINE rsHANDOVER (s.get (SvcKind.adr rkPIPELINE) SvcKind.member)
  if s2.ustate (6 + p.role) == stREADY then s2.setUnit (6 + p.role) stHELD caHOLD_SERVICE else s2

/-- The service controller ends its hold of role `r`: its unit goes READY, or stays HELD while HOLD is 1 (R594). -/
def State.pauseLifts (s : State) (r : Nat) : State :=
  let s1 : State := { s with svc := { s.svc with pause := none }, pp := { s.pp with paused := s.pp.paused.filter (· != r) } }
  if s1.ustate (6 + r) == stHELD && s1.ucause (6 + r) == caHOLD_SERVICE then s1.goReady (6 + r) else s1

/-- A Bivouac entry abandons the rotations in progress: tests, copies that have not switched, a placed pause and a core
that is due (R479, R501). -/
def State.svcAbandon (s : State) : State :=
  let s1 := match s.svc.pause with
    | some p => if p.begun then s.pauseLifts p.role else { s with svc := { s.svc with pause := none } }
    | none => s
  let s2 : State := { s1 with svc := { s1.svc with dueCore := none, resetDue := [] } }
  (List.range 9).foldl (fun (s : State) k =>
    let st := s.get (SvcKind.adr k) SvcKind.state
    (s.modKind k fun x => { x with copy := none, testing := none }).kindState k (if st = rsNO_RESERVE then st else rsIDLE) 31) s2

/-- A handover of a member of unit `u` is in progress (R507): of the role's pipeline in its pause, of a core that is due, of
a TCAM block or of a bank by its copy. -/
def State.handsOver (s : State) (u : Nat) : Bool :=
  s.serviceHolds u || (u == 19 && s.svc.dueCore.isSome) || (u == 12 && (s.kind rkTCAM).copy.isSome) ||
    [rkTABLE, rkPACKET, rkCXE].any fun k =>
      match (s.kind k).copy with
      | some c => ((s.kind k).duty.findIdx? (· == c.member)).any fun b => bankOwner k b 23 == u
      | none => false

end Sys2Proof.Machine
end

