-- ==== Sys2Proof/Machine/MpiOps.lean ====
section
/-!
DEFINITION. The motion profile interpolator without its commands: exact arithmetic with one rounding
(R188), the generator's step (R192), cam tables (R198–R202), setpoints (R197), placements (R186) and the
pass (R203–R210).  Positions, velocities and accelerations are integers in units of 2^-32.
-/

namespace Sys2Proof.Machine

/-! ## Arithmetic (R188) -/

/-- `rnd`: `a / b` to the nearest integer, ties away from zero. -/
def rndDiv (a : Int) (b : Nat) : Int :=
  if a < 0 then -(((2 * (-a) + b) / (2 * b : Nat))) else (2 * a + b) / (2 * b : Nat)

/-- A number limited to `-m` … `m`. -/
def clampTo (m : Nat) (z : Int) : Int := if z < -(m : Int) then -(m : Int) else if (m : Int) < z then m else z

/-- MODULUS of master `k` in units of 2^-32, through a reader; 0 means 2^32 (R189, R216). -/
def masterModOf (rd : Nat → Word) (k : Nat) : Nat :=
  let m := fieldOf rd (MpiMaster.adr k) MpiMaster.modulus
  (if m = 0 then 2 ^ 32 else m) * 2 ^ 32

/-- MODULUS of master `k` in force. -/
def State.masterMod (s : State) (k : Nat) : Nat := masterModOf s.inForce k

/-- One step of R192 over a period of `per` ns, under the limits `acc` and `jerk`, toward `vt`. -/
def Ramp.step (r : Ramp) (vt : Int) (acc jerk per md : Nat) : Ramp :=
  let P : Int := (per : Nat)
  let J : Int := (jerk : Nat)
  let e := rndDiv (2 * J * (vt - r.v) - r.a * r.a.natAbs) (2 * jerk)
  let j : Int :=
    if 0 < e then (if r.a < (acc : Int) then J else 0)
    else if e < 0 then (if -(acc : Int) < r.a then -J else 0)
    else 0
  let q := rndDiv (6 * 10 ^ 27 * (r.p : Int) + 6 * 10 ^ 18 * r.v * P + 3 * 10 ^ 9 * r.a * P ^ 2 + j * P ^ 3) (6 * 10 ^ 27)
  let v := rndDiv (2 * 10 ^ 18 * r.v + 2 * 10 ^ 9 * r.a * P + j * P ^ 2) (2 * 10 ^ 18)
  let a := clampTo acc (rndDiv (10 ^ 9 * r.a + j * P) (10 ^ 9))
  let near := decide ((vt - v).natAbs * 10 ^ 18 ≤ jerk * per ^ 2) && decide (a.natAbs * 10 ^ 9 ≤ jerk * per)
  { p := (q % (md : Int)).toNat, v := if near then vt else v, a := if near then 0 else a
    wraps := r.wraps + q / (md : Int) }

/-- A ramp at rest (R206). -/
def Ramp.rest (r : Ramp) : Bool := r.v == 0 && r.a == 0

/-! ## Masters -/

/-- Master `k`: what no register shows. -/
def State.master (s : State) (k : Nat) : MasterSt := s.mpi.masters.getD k MasterSt.init

/-- Changes the MPI's own state. -/
def State.modMpi (s : State) (f : Mpi → Mpi) : State := { s with mpi := f s.mpi }

/-- Changes master `k`. -/
def State.modMaster (s : State) (k : Nat) (f : MasterSt → MasterSt) : State :=
  s.modMpi fun m => { m with masters := m.masters.modify k f }

/-- SOURCE of master `k` (R186). -/
def srGENERATOR : Nat := 0
def srSTATION : Nat := 1
def srREMOTE : Nat := 2
def srHOST : Nat := 3

/-- The source of a plain Shardo write, which is no SOURCE of a master (R186). -/
def srWRITE : Nat := 4

/-- SOURCE of master `k`. -/
def State.masterSrc (s : State) (k : Nat) : Nat := s.act (MpiMaster.adr k) MpiMaster.source

/-- ENABLE of master `k` has taken effect. -/
def State.masterOn (s : State) (k : Nat) : Bool := s.actB (MpiMaster.adr k) MpiMaster.enable

/-- Master `k` is INVALID or disabled (R191). -/
def State.masterInvalid (s : State) (k : Nat) : Bool := bit (s.get MpiStatus.adr MpiStatus.invalid) k

/-- An event of U05 in the cycle in progress: a rope or master, and an axis where one is concerned (R215, R511). -/
def State.mpiEvent (s : State) (n low : Nat) (axis : Option Nat) : State :=
  s.note 5 n (low + 65536 * (axis.getD 0 % 4096))

/-- Bytes 0–21 of a slot. -/
structure Sample where
  position : Nat
  velocity : Nat
  time : Nat
  seq : Nat
  deriving DecidableEq, Repr

/-- The sample that 22 bytes spell (R185). -/
def Sample.ofBytes (bs : List Byte) : Sample := ⟨leAt bs 0 8, leAt bs 8 8, leAt bs 16 4, leAt bs 20 2⟩

/-- The bytes of a sample, with bytes 22–31 as 0 (R195). -/
def Sample.bytes (x : Sample) : List Byte :=
  leBytes 8 x.position ++ leBytes 8 x.velocity ++ leBytes 4 x.time ++ leBytes 2 x.seq ++ List.replicate 10 0

/-- A hold of U05 has taken effect (R212). -/
def State.mpiHeld (s : State) : Bool := s.ustate 5 == stHELD && s.mpi.inHold

/-- MPI takes placements: the unit is READY, or in a hold that has not taken effect (R212). -/
def State.mpiTakes (s : State) : Bool := s.ready 5 || (s.ustate 5 == stHELD && !s.mpi.inHold)

/-- A hold of U05 ends: placements and exports go on, and the ropes are checked at their first pass (R207, R212). -/
def State.mpiResume (s : State) : State :=
  if s.mpi.inHold then
    s.modMpi fun m => { m with inHold := false, resync := (List.range 16).filter fun r => s.ropeMode r != rmOFF }
  else s

/-- A placement into slot `k` (R186): VALID is set, STALE clears, and the age restarts. -/
def State.putSample (s : State) (k : Nat) (x : Sample) (ns : Nat) : State :=
  let a := MpiSlot.adr k
  let s1 := (((s.set a MpiSlot.position x.position).set a MpiSlot.velocity x.velocity).set a MpiSlot.time x.time).set
    a MpiSlot.seq x.seq
  ((s1.set a MpiSlot.valid 1).set a MpiSlot.stale 0).modMaster k fun m => { m with lastPlace := ns, placed := true }

/-- A placement from source `src`: taken from the configured source of an enabled master, otherwise
discarded with MASTER_REFUSED (R186). -/
def State.placeSample (s : State) (src k : Nat) (x : Sample) : State :=
  if !s.mpiTakes then s
  else if s.masterSrc k = src ∧ s.masterOn k then s.putSample k x (s.shadowNs .cxe)
  else s.raise 5 13 k

/-- The sample of SOURCE STATION at a publish of cycle `c` whose APPLY_TIME is `t` (R190). -/
def State.stationSample (s : State) (k t : Nat) : State :=
  let m := MpiMaster.adr k
  let st := s.master k
  let n := s.act m MpiMaster.station
  let off := s.act m MpiMaster.inOff
  let md := s.masterMod k
  let wide := s.actB m MpiMaster.in64
  let raw := leNat (s.inBytes n off (if wide then 8 else 4))
  let old := s.get (MpiSlot.adr k) MpiSlot.position
  let first := !st.sampled
  let count : Int := if first then toSigned 32 raw else st.count + toSigned 32 (((raw : Int) - st.count) % (2 ^ 32 : Nat)).toNat
  let pos : Nat := if wide then raw % md else ((count * (s.act m MpiMaster.inMul : Nat)) % (md : Int)).toNat
  let dp : Int := ((pos : Int) - old) % (md : Int)
  let diff : Int := if 2 * dp > md then dp - md else dp
  let dt := toSigned 32 ((((t : Int) - s.get (MpiSlot.adr k) MpiSlot.time) % (2 ^ 32 : Nat)).toNat)
  let vel : Nat := if first then 0
    else if dt ≤ 0 then s.get (MpiSlot.adr k) MpiSlot.velocity
    else ofSigned 64 (rndDiv (diff * 10 ^ 9) dt.toNat)
  let s1 := s.placeSample srSTATION k ⟨pos, vel, t, (s.get (MpiSlot.adr k) MpiSlot.seq + 1) % 65536⟩
  if s.mpiTakes && s.masterOn k then s1.modMaster k fun x => { x with count := count, sampled := true } else s1

/-- The masters whose SOURCE is a published station; a disabled one refuses its sample (R186, R190). -/
def State.stationMasters (s : State) (received : List Nat) (t : Nat) : State :=
  (List.range 16).foldl (fun s k =>
    if s.masterSrc k = srSTATION ∧ received.contains (s.act (MpiMaster.adr k) MpiMaster.station) then
      s.stationSample k t
    else s) s

/-! ## Cam tables (R198–R202) -/

/-- Points in the pool. -/
def poolPoints : Nat := 393216

/-- Word `w` of pool point `i`. -/
def State.camWord (s : State) (i w : Nat) : Nat := (sget 0 s.mpi.cam (i * 4 + w)).toNat

/-- X, SLOPE and Y of pool point `i`. -/
def State.camX (s : State) (i : Nat) : Nat := s.camWord i 0
def State.camSlope (s : State) (i : Nat) : Int := toSigned 32 (s.camWord i 1)
def State.camY (s : State) (i : Nat) : Int := toSigned 64 (s.camWord i 2 + 2 ^ 32 * s.camWord i 3)

/-- BASE, COUNT, PERIOD and VALID of table `k`. -/
def State.camBase (s : State) (k : Nat) : Nat := s.act (MpiCam.adr k) MpiCam.base
def State.camCount (s : State) (k : Nat) : Nat := s.act (MpiCam.adr k) MpiCam.count
def State.camPeriod (s : State) (k : Nat) : Nat := s.act (MpiCam.adr k) MpiCam.period
def State.camValid (s : State) (k : Nat) : Bool := s.actB (MpiCam.adr k) MpiCam.valid

/-- The largest index of a table's points with X at most `x` in units of 2^-32 (R201). -/
def State.camIndex (s : State) (base x : Nat) : Nat → Nat
  | 0 => 0
  | n + 1 => if s.camX (base + n) * 65536 ≤ x then n else s.camIndex base x n

/-- cam and cam' at `x`: each as a numerator over a denominator, cam in units of 2^-32 (R201), with the pool
points that were read. -/
def State.camEval (s : State) (k x : Nat) : (Int × Nat) × (Int × Nat) × List Nat :=
  let b := s.camBase k
  let n := s.camCount k
  let i := s.camIndex b x n
  let last := decide (n ≤ i + 1)
  let i1 := if last then b else b + i + 1
  let x0 := s.camX (b + i)
  let h : Nat := (if last then s.camPeriod k else s.camX i1) - x0
  let t : Int := rndDiv (((x : Int) - x0 * 65536) * 2 ^ 32) (h * 65536)
  let K : Int := 2 ^ 32
  let y0 := s.camY (b + i)
  let y1 := s.camY i1
  let m0 := s.camSlope (b + i)
  let m1 := s.camSlope i1
  let H : Int := (h : Nat)
  let c := (2 * t ^ 3 - 3 * t ^ 2 * K + K ^ 3) * y0 + (t ^ 3 - 2 * t ^ 2 * K + t * K ^ 2) * H * m0
    + (3 * t ^ 2 * K - 2 * t ^ 3) * y1 + (t ^ 3 - t ^ 2 * K) * H * m1
  let d := (6 * t ^ 2 - 6 * t * K) * (y0 - y1) + H * ((3 * t ^ 2 - 4 * t * K + K ^ 2) * m0 + (3 * t ^ 2 - 2 * t * K) * m1)
  ((c, 2 ^ 96), (d, 2 ^ 80 * h), [b + i, i1])

/-! ## Axes -/

/-- Field `f` of axis `a`. -/
def axF (rd : Nat → Word) (a : Nat) (f : Fld) : Nat := fieldOf rd (MpiAxis.adr a) f

/-- The enabled axes, in ascending order. -/
def State.axes (s : State) (rd : Nat → Word) : List Nat :=
  (s.listed 0x580000 0x40 4096).filter fun a => axF rd a MpiAxis.enable == 1

/-- The rope of axis `a`: that of its station (R181). -/
def State.axisRope (s : State) (rd : Nat → Word) (a : Nat) : Nat := s.act (CxeStn.adr (axF rd a MpiAxis.station)) CxeStn.rope

/-- The slice that owns axis `a` (R183). -/
def State.axisSlice (s : State) (rd : Nat → Word) (a : Nat) : Option Nat := s.sliceOfStation (axF rd a MpiAxis.station)

/-- W of axis `a` in bytes. -/
def axBytes (rd : Nat → Word) (a : Nat) : Nat := if axF rd a MpiAxis.outFmt = 1 then 8 else 4

/-- The image bytes that axis `a` writes: its POS field, and its VEL field (R182). -/
def State.axisWrites (s : State) (rd : Nat → Word) (a : Nat) : List (Nat × Nat) :=
  let o := s.act (CxeStn.adr (axF rd a MpiAxis.station)) CxeStn.outOffset
  (o + axF rd a MpiAxis.posOff, axBytes rd a) ::
    (if axF rd a MpiAxis.velEn = 1 then [(o + axF rd a MpiAxis.velOff, 4)] else [])

/-- The checks of one enabled axis (R182). -/
def State.axisChecks (s : State) (rd : Nat → Word) (a : Nat) : List (Bool × Nat) :=
  let b := MpiAxis.adr a - 0x500000
  let st := CxeStn.adr (axF rd a MpiAxis.station)
  let ol := s.act st CxeStn.outLen
  let il := s.act st CxeStn.inLen
  let w := axBytes rd a
  let cam := axF rd a MpiAxis.cam
  let camEn := axF rd a MpiAxis.camEn == 1
  [(!camEn || s.camValid cam, blame b 0),
   (!camEn || (decide (0 < s.camPeriod cam) && masterModOf rd (axF rd a MpiAxis.master) % (s.camPeriod cam * 65536) == 0), blame b 1),
   (decide (axF rd a MpiAxis.posOff + w ≤ ol), blame (b + 4) 0),
   (axF rd a MpiAxis.velEn == 0 || decide (axF rd a MpiAxis.velOff + 4 ≤ ol), blame (b + 4) 1),
   (axF rd a MpiAxis.feN == 0 || decide (axF rd a MpiAxis.actOff + w ≤ il), blame (b + 8) 0),
   (axF rd a MpiAxis.den != 0, blame (b + 0x2C) 0)]

/-- No two enabled axes write one byte (R182). -/
def State.axisPairs (s : State) (rd : Nat → Word) (as : List Nat) : List (Bool × Nat) :=
  (pairsOf as).flatMap fun (x, y) =>
    let apart := (s.axisWrites rd x).all fun p => (s.axisWrites rd y).all fun q => !rangesMeet p.1 p.2 q.1 q.2
    [(apart, blame (MpiAxis.adr y - 0x500000 + 4) (x + 2)), (apart, blame (MpiAxis.adr x - 0x500000 + 4) (y + 2))]

/-- The checks of a master (R192, R194). -/
def State.masterChecks (s : State) (rd : Nat → Word) (k : Nat) : List (Bool × Nat) :=
  let m := MpiMaster.adr k
  let b := m - 0x500000
  let lead := fieldOf rd m MpiMaster.placeLead
  [(decide (1000 ≤ lead), blame (b + 0x10) 0),
   (decide (lead + 1000 < ropePeriod s.inForce (fieldOf rd m MpiMaster.rope)), blame (b + 0x10) 1),
   (fieldOf rd m MpiMaster.acc != 0, b + 0x28), (fieldOf rd m MpiMaster.jerk != 0, b + 0x30),
   (fieldOf rd m MpiMaster.stopAcc != 0, b + 0x38), (fieldOf rd m MpiMaster.stopJerk != 0, b + 0x40)]

/-- What U05 checks when a value would take effect: the blames of the checks that fail. -/
def State.mpiBad (s : State) (rd : Nat → Word) : List Nat :=
  let as := s.axes rd
  failing ((List.range 16).flatMap (s.masterChecks rd) ++ as.flatMap (s.axisChecks rd) ++ s.axisPairs rd as)

/-- Axis states (R205) and causes. -/
def axOFF : Nat := 0
def axPROFILE : Nat := 1
def axHELD : Nat := 2
def axROPE_HOLD : Nat := 3
def axSTOPPING : Nat := 4
def axSTOPPED : Nat := 5
def hcFE : Nat := 1
def hcRESYNC : Nat := 2
def hcMASTER_INVALID : Nat := 3
def hcCAM_ERROR : Nat := 4

/-- STATE of axis `a`. -/
def State.axisState (s : State) (a : Nat) : Nat := s.get (MpiAxisState.adr a) MpiAxisState.state

/-- Axis `a` goes to a state. -/
def State.setAxis (s : State) (a st cause : Nat) : State :=
  (s.set (MpiAxisState.adr a) MpiAxisState.state st).set (MpiAxisState.adr a) MpiAxisState.cause cause

/-- Axis `a` goes HELD (R205); the cause stands in detail [7:4] (log 24). -/
def State.holdAxis (s : State) (a cause : Nat) : State :=
  (s.setAxis a axHELD cause).mpiEvent 5 (s.axisRope s.inForce a + 16 * cause) (some a)

/-- A master's value for an axis: m, its wraps, and the velocity in use. -/
structure MVal where
  m : Nat
  wraps : Int
  v : Int
  deriving DecidableEq, Repr

/-- Setpoint and feedforward of axis `a` from a master's value (R197), with the pool points read. -/
def State.setpoint (s : State) (a : Nat) (x : MVal) : Nat × Int × List Nat :=
  let F := axF s.inForce a
  let k := F MpiAxis.master
  let md := s.masterMod k
  let camEn := F MpiAxis.camEn == 1
  let ((cn, cd), (dn, dd), pts) :=
    if camEn then s.camEval (F MpiAxis.cam) (x.m % (s.camPeriod (F MpiAxis.cam) * 65536)) else ((0, 1), (0, 1), [])
  let cs := toSigned 64 (F MpiAxis.camScale)
  let num := toSigned 32 (F MpiAxis.num)
  let den := F MpiAxis.den
  let d : Int := x.wraps * md + x.m - toSigned 64 (F MpiAxis.m0)
  let g := rndDiv (d * num) den
  let c := rndDiv (cs * cn) (2 ^ 32 * cd)
  let S := toSigned 64 (ofSigned 64 (toSigned 64 (F MpiAxis.offset) + g + c))
  let v := rndDiv (x.v * (num * 2 ^ 32 * dd + (den : Int) * cs * dn)) (den * 2 ^ 32 * dd)
  let vs := toSigned 64 (ofSigned 64 v)
  let out := ofSigned (8 * axBytes s.inForce a) (rndDiv (S * toSigned 32 (F MpiAxis.outMul)) (2 ^ F MpiAxis.outShift))
  let vff := saturate 32 (rndDiv (vs * toSigned 32 (F MpiAxis.velMul)) (2 ^ F MpiAxis.velShift))
  (out, vff, pts)

/-- The gap of R207 between two outputs, modulo 2^W. -/
def State.axisGap (s : State) (a out last : Nat) : Nat :=
  let w := 8 * axBytes s.inForce a
  (toSigned w (((out : Int) - last) % (2 ^ w : Nat)).toNat).natAbs

/-- Writes the fields of axis `a` into the live buffer (R184), and LAST_OUT. -/
def State.writeAxis (s : State) (a out : Nat) (vff : Int) : State :=
  let F := axF s.inForce a
  let n := F MpiAxis.station
  let o := s.act (CxeStn.adr n) CxeStn.outOffset
  let s1 := s.imgWrite (s.liveBuf n) (o + F MpiAxis.posOff) (leBytes (axBytes s.inForce a) out)
  let s2 := if F MpiAxis.velEn = 1 then s1.imgWrite (s1.liveBuf n) (o + F MpiAxis.velOff) (leBytes 4 (ofSigned 32 vff)) else s1
  s2.set (MpiAxisState.adr a) MpiAxisState.lastOut out

/-- A group stop: rope `r` enters STOP at its next boundary, whatever RESUME waits for it, and GROUP_STOP is raised
(R170, R210). -/
def State.groupStop (s : State) (r : Nat) : State :=
  if s.ropeMode r = rmOFF then s
  else (s.modRope r fun x => { x with groupStop := true }).mpiEvent 6 r none

/-- The group stop of a STALE master, judged again at every snapshot (R191): the rope's next boundary finds it in STOP each
time.  GROUP_STOP is raised where it sends the rope there, and not again for a rope in STOP or on its way (DESIGN CHOICE,
log 121). -/
def State.staleStop (s : State) (r : Nat) : State :=
  if s.ropeMode r = rmSTOP ∨ (s.rope r).groupStop then s.modRope r fun x => { x with groupStop := true }
  else s.groupStop r

/-- Station `n` was RECEIVED in its last publish (R164). -/
def State.received (s : State) (n : Nat) : Bool := s.get (CxeStn.adr n) CxeStn.rx == 0

/-- The following-error watch of axis `a` (R209, R210): a station not RECEIVED leaves the streak alone. -/
def State.feWatch (s : State) (a : Nat) : State :=
  let F := axF s.inForce a
  let n := F MpiAxis.station
  let sa := MpiAxisState.adr a
  if F MpiAxis.feN = 0 then s
  else
    let w := 8 * axBytes s.inForce a
    let actual := leNat (s.inBytes n (F MpiAxis.actOff) (axBytes s.inForce a))
    let err := toSigned w (((actual : Int) - s.get sa MpiAxisState.lastOut) % (2 ^ w : Nat)).toNat
    let s1 := s.set sa MpiAxisState.lastErr (ofSigned 32 (saturate 32 err))
    if !s.received n then s1
    else if F MpiAxis.feLimit < err.natAbs then
      let k := min (s.get sa MpiAxisState.feStreak + 1) 255
      let s2 := s1.set sa MpiAxisState.feStreak k
      if F MpiAxis.feN ≤ k ∧ !s.mpi.feActed.contains a then
        let s3 := (s2.modMpi fun m => { m with feActed := m.feActed ++ [a] }).mpiEvent 4 (s.axisRope s.inForce a) (some a)
        match F MpiAxis.feAction with
        | 1 => if s3.axisState a = axHELD then s3 else s3.holdAxis a hcFE
        | 2 => s3.groupStop (s.axisRope s.inForce a)
        | _ => s3
      else s2
    else (s1.set sa MpiAxisState.feStreak 0).modMpi fun m => { m with feActed := m.feActed.filter (· != a) }

/-- Axis `a` is HELD with cause CAM_ERROR. -/
def State.camHeld (s : State) (a : Nat) : Bool :=
  s.axisState a == axHELD && s.get (MpiAxisState.adr a) MpiAxisState.cause == hcCAM_ERROR

/-- Pool point `p` reads uncorrectable for axis `a`: CAM_ERROR, and the axis is HELD with that cause, an axis HELD already
with it in place of its own (R214). -/
def State.camBad (s : State) (a p : Nat) : State :=
  let t := axF s.inForce a MpiAxis.cam
  let s1 := (s.modMpi fun m =>
    { m with camErr := (if s.camHeld a then m.camErr.filter (· != (a, t)) else m.camErr.filter (·.1 != a)) ++ [(a, t)] }).note
    5 10 (p + 2 ^ 19 * t)
  (if s.axisState a = axHELD then s1.setAxis a axHELD hcCAM_ERROR else s1.holdAxis a hcCAM_ERROR).uncorrectable
    rkCXE (8 + p / 65536)

/-- The profile part of the pass of axis `a` (R197, R205, R207): `x` is the value in use, `real` the real
master's; `resync` asks for the check of R207, in whatever mode the rope is; `bad` lists the pool points that read
uncorrectable. -/
def State.axisCompute (s : State) (a mode : Nat) (x real : MVal) (rest resync : Bool) (bad : List Nat) : State :=
  let last := s.get (MpiAxisState.adr a) MpiAxisState.lastOut
  let hold (s : State) : State := s.writeAxis a last 0
  let (out, vff, pts) := s.setpoint a x
  let (rout, _, rpts) := s.setpoint a real
  let gap := s.axisGap a rout last
  let held := s.axisState a == axHELD
  let checked := resync && s.axisState a != axOFF
  match (if held then rpts else if checked then pts ++ rpts else pts).find? bad.contains with
  | some p => hold (s.camBad a p)
  | none =>
      if held then (hold s).modMpi fun m => { m with gaps := sput 0 (m.gaps) a gap }
      else if checked && decide (axF s.inForce a MpiAxis.feLimit < gap) then
        let s1 := (s.holdAxis a hcRESYNC).mpiEvent 12 (s.axisRope s.inForce a) (some a)
        hold (s1.modMpi fun m => { m with gaps := sput 0 m.gaps a gap })
      else if mode = rmHOLD then hold (s.setAxis a axROPE_HOLD 0)
      else if mode = rmSTOP then
        if rest then (s.setAxis a axSTOPPED 0).writeAxis a out 0 else (s.setAxis a axSTOPPING 0).writeAxis a out vff
      else (s.setAxis a axPROFILE 0).writeAxis a out vff

/-! ## The pass -/

/-- The value of master `k` at a boundary (R188), from its slot. -/
def State.masterValue (s : State) (k stamp : Nat) : Nat × Int :=
  let a := MpiSlot.adr k
  let v := toSigned 64 (s.get a MpiSlot.velocity)
  let dt := toSigned 32 ((((stamp : Int) - s.get a MpiSlot.time) % (2 ^ 32 : Nat)).toNat)
  ((((s.get a MpiSlot.position : Int) + rndDiv (v * dt) (10 ^ 9)) % (s.masterMod k : Int)).toNat, v)

/-- The masters that enabled axes of rope `r` use. -/
def State.mastersOf (s : State) (r : Nat) : List Nat :=
  let as := (s.axes s.inForce).filter fun a => s.axisRope s.inForce a == r
  (List.range 16).filter fun k => as.any fun a => axF s.inForce a MpiAxis.master == k

/-- ENABLE of master `k` takes effect at boundary `b` (R189, R192, R213). -/
def State.masterStarts (s : State) (k b : Nat) : State :=
  let a := MpiSlot.adr k
  let valid := s.getB a MpiSlot.valid
  let p := if valid then s.get a MpiSlot.position % s.masterMod k else 0
  let s1 := (((s.set a MpiSlot.wraps 0).set a MpiSlot.valid 0).set a MpiSlot.stale 0).set a MpiSlot.stopping 0
  let s2 := s1.modMaster k fun m =>
    { MasterSt.init with on := true, ramp := ⟨p, 0, 0, 0⟩, waiting := m.waiting, invalid := m.invalid }
  if s.masterSrc k = srGENERATOR then
    s2.putSample k ⟨p, 0, (stampOf b).toNat, (s.get a MpiSlot.seq + 1) % 65536⟩ b
  else s2

/-- The wrap count follows the master's value (R189). -/
def State.wrapMaster (s : State) (k m : Nat) : State :=
  let md := s.masterMod k
  match (s.master k).prev with
  | none => s
  | some q =>
      let w := toSigned 32 (s.get (MpiSlot.adr k) MpiSlot.wraps)
      let w' := if md < 2 * (q - m) then w + 1 else if md < 2 * (m - q) then w - 1 else w
      s.set (MpiSlot.adr k) MpiSlot.wraps (ofSigned 32 w')

/-- STALE and INVALID of master `k` at a snapshot (R191).  An enabled master is judged: the spec does not say whether a
disabled one is, and its bit of MPI_STATUS reads 1 whatever it is.  DESIGN CHOICE, log 109. -/
def State.ageMaster (s : State) (k b : Nat) : State :=
  let a := MpiSlot.adr k
  let age := s.act (MpiMaster.adr k) MpiMaster.maxAge
  let dt := toSigned 32 ((((b : Int) - s.get a MpiSlot.time) % (2 ^ 32 : Nat)).toNat)
  let s1 :=
    if age ≠ 0 ∧ (age : Int) < dt ∧ !s.getB a MpiSlot.stale then
      (s.set a MpiSlot.stale 1).mpiEvent 8 k none
    else s
  let s2 :=
    if s1.getB a MpiSlot.stale ∧ s1.actB (MpiMaster.adr k) MpiMaster.staleStop then
      (List.range 16).foldl (fun s r => if (s.mastersOf r).contains k then s.staleStop r else s) s1
    else s1
  let m := s2.master k
  let bad := !s2.getB a MpiSlot.valid || !m.placed || decide (m.lastPlace + 2 ^ 30 < b)
  let map := s2.get MpiStatus.adr MpiStatus.invalid
  let map' := if bad then map ||| 2 ^ k else (map ||| 2 ^ k) - 2 ^ k
  let s3 := (s2.set MpiStatus.adr MpiStatus.invalid map').modMaster k fun x => { x with invalid := bad }
  if bad && !m.invalid then s3.mpiEvent 9 k none else s3

/-- The snapshot of master `k` at boundary `b` (R187–R191).  A sample that waits keeps its placement time: it is refused
there while the master is disabled (R186). -/
def State.snapMaster (s : State) (b k : Nat) : State :=
  let on := s.masterOn k
  if !on then
    (s.set MpiStatus.adr MpiStatus.invalid (s.get MpiStatus.adr MpiStatus.invalid ||| 2 ^ k)).modMaster k
      fun m => { m with on := false }
  else
    let s1 := if (s.master k).on then s else s.masterStarts k b
    let (m, _) := s1.masterValue k (stampOf b).toNat
    ((s1.wrapMaster k m).modMaster k fun x => { x with prev := some m }).ageMaster k b

/-- The real value of master `k` after the snapshot. -/
def State.realVal (s : State) (b k : Nat) : MVal :=
  let (m, v) := s.masterValue k (stampOf b).toNat
  ⟨m, toSigned 32 (s.get (MpiSlot.adr k) MpiSlot.wraps), v⟩

/-- The generator of master `k` is the stop master of rope `r` (R206). -/
def State.ownRamp (s : State) (r k : Nat) : Bool :=
  s.masterSrc k == srGENERATOR && s.act (MpiMaster.adr k) MpiMaster.rope == r

/-- The stop master of master `k` for rope `r` at boundary `b` (R206): it starts from the snapshot where the rope enters
STOP, or where the rope first uses the master in STOP; otherwise it steps toward rest. -/
def State.stopMaster (s : State) (b r : Nat) (entered : Bool) (k : Nat) : State :=
  let a := MpiMaster.adr k
  let fresh (s : State) : State :=
    let x := s.realVal b k
    s.modMpi fun m =>
      { m with stops := sins m.stops (r * 16 + k) ⟨x.m, x.v, 0, x.wraps⟩
               ramping := if m.ramping.contains r then m.ramping else m.ramping ++ [r] }
  if entered then fresh s
  else match sfind s.mpi.stops (r * 16 + k) with
    | none => fresh s
    | some x =>
        let y := x.step 0 (s.act a MpiMaster.stopAcc) (s.act a MpiMaster.stopJerk) (ropePeriod s.inForce r) (s.masterMod k)
        s.modMpi fun m => { m with stops := sins m.stops (r * 16 + k) y }

/-- The copy stop masters of rope `r` start, or step (R206). -/
def State.stopMasters (s : State) (b r : Nat) (entered : Bool) : State :=
  ((s.mastersOf r).filter fun k => !s.ownRamp r k).foldl (fun s k => s.stopMaster b r entered k) s

/-- Every stop master of rope `r` is at rest; a disabled generator runs none (R192). -/
def State.stopsRest (s : State) (r : Nat) : Bool :=
  (s.mastersOf r).all fun k =>
    if s.ownRamp r k then !s.masterOn k || (s.master k).ramp.rest
    else (sfind s.mpi.stops (r * 16 + k)).any Ramp.rest

/-- RAMP_DONE of rope `r`, once it has a stop master (R206). -/
def State.rampDone (s : State) (r : Nat) : State :=
  if s.mpi.ramping.contains r ∧ !(s.mastersOf r).isEmpty ∧ s.stopsRest r then
    (s.modMpi fun m => { m with ramping := m.ramping.filter (· != r) }).mpiEvent 7 r none
  else s

/-- The value that an axis of rope `r` on master `k` uses. -/
def State.useVal (s : State) (b r k : Nat) : MVal :=
  if s.ropeMode r = rmSTOP then
    match sfind s.mpi.stops (r * 16 + k) with
    | some x => ⟨x.p, x.wraps, x.v⟩
    | none => s.realVal b k
  else s.realVal b k

/-- The pass of axis `a` at boundary `b` (R203–R210).  An axis on a disabled master, which has no snapshot (R187), goes HELD with
MASTER_INVALID at once (R191; DESIGN CHOICE, log 109). -/
def State.axisPass (s : State) (b : Nat) (bad : List Nat) (a : Nat) : State :=
  let F := axF s.inForce a
  let r := s.axisRope s.inForce a
  let k := F MpiAxis.master
  let rel := s.mpi.releasing.contains a && s.axisState a == axHELD
  let s0 := if rel then (s.setAxis a axPROFILE 0).modMpi fun m =>
      { m with releasing := m.releasing.filter (· != a), gaps := sdel m.gaps a } else s
  let s1 := s0.feWatch a
  let s2 := if s1.masterInvalid k ∧ s1.axisState a ≠ axHELD then s1.holdAxis a hcMASTER_INVALID else s1
  (s2.axisCompute a (s.ropeMode r) (s2.useVal b r k) (s2.realVal b k) (s2.stopsRest r)
    (s.mpi.resync.contains r && !rel) bad).announce

/-- The generator of master `k` steps at boundary `b` of its rope (R192–R196). -/
def State.generate (s : State) (b : Nat) (ropes : List Nat) (k : Nat) : State :=
  let a := MpiMaster.adr k
  let r := s.act a MpiMaster.rope
  if !(s.masterOn k && s.masterSrc k == srGENERATOR && ropes.contains r && s.ropeMode r != rmOFF) then s
  else
    let stop := s.ropeMode r == rmSTOP
    let vt : Int := if stop then 0 else toSigned 64 (s.act a MpiMaster.vtarget)
    let acc := s.act a (if stop then MpiMaster.stopAcc else MpiMaster.acc)
    let jerk := s.act a (if stop then MpiMaster.stopJerk else MpiMaster.jerk)
    let per := ropePeriod s.inForce r
    let x := (s.master k).ramp.step vt acc jerk per (s.masterMod k)
    let t := b + per
    let seq := (s.get (MpiSlot.adr k) MpiSlot.seq + 1) % 65536
    let place := t - s.act a MpiMaster.placeLead
    let s0 := if s.act a MpiMaster.exportF = 1 then
        let bs := (Sample.mk x.p (ofSigned 64 x.v) (stampOf t).toNat seq).bytes
        s.modMpi fun m => { m with exports := sins m.exports k (bs, place) }
      else s
    let s1 := s0.set (MpiSlot.adr k) MpiSlot.stopping (b2n stop)
    s1.modMaster k fun m =>
      { m with ramp := x, waiting := some (place, x.p, x.v, (stampOf t).toNat, seq) }

/-- Axes that are not computed any more are OFF (R205).  A HELD axis whose rope goes OFF is OFF as well, though R205 also has HELD
stay through every rope mode (DESIGN CHOICE, log 119). -/
def State.axesOff (s : State) : State :=
  (s.listed 0x550000 0x10 4096).foldl (fun s a =>
    let on := axF s.inForce a MpiAxis.enable == 1 && stnOn s.inForce (axF s.inForce a MpiAxis.station)
      && s.ropeMode (s.axisRope s.inForce a) != rmOFF
    if on ∨ s.axisState a = axOFF then s else s.setAxis a axOFF 0) s

/-- The bits of U05 that take effect at a boundary of `ropes` (R181, R187): a master-off field also with an ENABLE that takes
effect in the same latch (R216). -/
def State.mpiMask (s : State) (ropes : List Nat) : Nat → Word :=
  boundaryMask fun x e => match x with
    | .snapshot => true
    | .masterOff => let k := (e - MpiMaster.adr 0) / 0x80
                    !s.masterOn k || !s.getB (MpiMaster.adr k) MpiMaster.enable
    | .axis => let r := s.axisRope s.inForce ((e - MpiAxis.adr 0) / 0x40)
               ropes.contains r || s.ropeMode r == rmOFF
    | _ => false

/-- The pass of the MPI at boundary `b` of `ropes`; `entered` are those that enter STOP at it (R203). -/
def State.mpiPass (s : State) (b : Nat) (ropes entered : List Nat) (bad : List Nat) : State :=
  if s.ustate 5 = stHELD then s.modMpi fun m => { m with inHold := true }
  else if !s.ready 5 then s
  else
    let s1 := s.latchChecked 5 (s.mpiMask ropes) fun s rd => s.mpiBad rd
    let s2 := (List.range 16).foldl (fun s k => s.snapMaster b k) s1
    let stops := ropes.filter fun r => s2.ropeMode r == rmSTOP
    let s3 := stops.foldl (fun s r => s.stopMasters b r (entered.contains r)) s2
    let s4 := (stops.foldl State.rampDone s3).announce
    let s5 := s4.axesOff
    let as := (s5.axes s5.inForce).filter fun a =>
      let r := s5.axisRope s5.inForce a
      ropes.contains r && s5.ropeMode r != rmOFF && stnOn s5.inForce (axF s5.inForce a MpiAxis.station)
    let s6 := as.foldl (fun s a => s.axisPass b bad a) s5
    let s7 := s6.modMpi fun m =>
      { m with resync := m.resync.filter fun r => !ropes.contains r
               releasing := m.releasing.filter fun a => !ropes.contains (s6.axisRope s6.inForce a) }
    (List.range 16).foldl (fun s k => s.generate b ropes k) s7

/-- A unit reset of U05 (R213).  MPI_STATUS keeps showing what the last snapshot judged, until the next one (R191). -/
def State.mpiReset (s : State) : State :=
  let s1 := (s.listed 0x550000 0x10 4096).foldl (fun s a =>
    ((s.setAxis a axOFF 0).set (MpiAxisState.adr a) MpiAxisState.feStreak 0).set (MpiAxisState.adr a) MpiAxisState.lastOut 0) s
  let s2 := (List.range 16).foldl (fun s k =>
    (List.range 8).foldl (fun s w => s.setBits (MpiSlot.adr k + 4 * w) 0xFFFFFFFF#32 0) s) s1
  s2.modMpi fun m =>
    { m with masters := m.masters.map fun x => { MasterSt.init with invalid := x.invalid }
             stops := m.stops.map fun p => (p.1, ⟨0, 0, 0, 0⟩), resync := [], gaps := []
             releasing := [], feActed := [], inHold := false, pushDue := [], exports := [] }

end Sys2Proof.Machine
end

