-- ==== Sys2Proof/Machine/RecOps.lean ====
section
/-!
DEFINITION. Namespaces as registers, the settings of the cycle recorder and its records (R428, R429, R440, R441).
-/

namespace Sys2Proof.Machine

/-! ## Namespaces (R428) -/

/-- The LBA size of namespace `n`. -/
def lbaSize (rd : Nat → Word) (n : Nat) : Nat := if fieldOf rd (NvfNs.adr n) NvfNs.lbads = 1 then 4096 else 512

/-- The extents of namespace `n`, in LBA order. -/
def nsExtents (rd : Nat → Word) (n : Nat) : List Nat :=
  (List.range (fieldOf rd (NvfNs.adr n) NvfNs.extCount)).map fun i => (fieldOf rd (NvfNs.adr n) NvfNs.firstExt + i) % 16384

/-- NSZE of namespace `n`, derived. -/
def nsBlocks (rd : Nat → Word) (n : Nat) : Nat := ((nsExtents rd n).map fun e => fieldOf rd (NvfExt.adr e) NvfExt.lbas).sum

/-! ## Recorders (R440, R441) -/

/-- The enabled ranges of recorder `r`: index, SOURCE, and first byte and bytes. -/
def recRanges (rd : Nat → Word) (r : Nat) : List (Nat × Nat × Nat × Nat) :=
  (List.range 8).filterMap fun j =>
    let a := NvfRecRange.adr r j
    if fieldOf rd a NvfRecRange.enable = 1 then
      some (j, fieldOf rd a NvfRecRange.source, fieldOf rd a NvfRecRange.offset * 64, fieldOf rd a NvfRecRange.len * 64)
    else none

/-- DATA_LEN of recorder `r`. -/
def recDataLen (rd : Nat → Word) (r : Nat) : Nat := ((recRanges rd r).map fun x => x.2.2.2).sum

/-- REC_LBAS of recorder `r`, derived. -/
def recLbas (rd : Nat → Word) (r : Nat) : Nat :=
  let b := lbaSize rd (fieldOf rd (NvfRec.adr r) NvfRec.ns)
  (64 + recDataLen rd r + b - 1) / b

/-- Bytes `o` to `e` are covered by these ranges. -/
def covered (rs : List (Nat × Nat)) : Nat → Nat → Nat → Bool
  | 0, _, _ => false
  | fuel + 1, o, e =>
      if e ≤ o then true
      else match rs.find? fun x => inShare x o with
        | some x => covered rs fuel (x.1 + x.2) e
        | none => false

/-- The checks of the enabled recorders on values of `rd` that fail, with stations and ropes as in `st` (R440, R441). -/
def State.recBadAt (s : State) (st rd : Nat → Word) : List Nat :=
  failing ((List.range 16).flatMap fun r =>
    let a := NvfRec.adr r
    let off := a - 0x1100000
    let n := fieldOf rd a NvfRec.ns
    let stns := s.ropeStations st r
    let own (src : Nat) : List (Nat × Nat) := stns.map fun x =>
      if src = 0 then (stnF st x CxeStn.outOffset, stnF st x CxeStn.outLen) else (stnF st x CxeStn.inOffset, stnF st x CxeStn.inLen)
    if fieldOf rd a NvfRec.enable = 1 then
      (recRanges rd r).map (fun (j, src, o, len) =>
        (decide (0 < len) && covered (own src) (stns.length + 1) o (o + len), blame (off + 0x20 + 4 * j) 0))
      ++ [(decide (recDataLen rd r ≤ 512 * 64), blame (off + 0x20) 1),
          (fieldOf rd (NvfNs.adr n) NvfNs.slice == fieldOf st (CxeRope.adr r) CxeRope.slice, blame off 0),
          (decide (1 ≤ fieldOf rd a NvfRec.slots), blame (off + 0x10) 0),
          (decide (fieldOf rd a NvfRec.startLba + fieldOf rd a NvfRec.slots * recLbas rd r ≤ nsBlocks rd n), blame off 1)]
    else [])

/-- The same, with the stations and ropes in force. -/
def State.recBad (s : State) (rd : Nat → Word) : List Nat := s.recBadAt s.inForce rd

/-- The recorder of rope `r` at its publish: its settings take effect, and the publish waits to be recorded (R441). The cycle is
skipped while the publish before it still waits (R442; log 83). -/
def State.recPublish (s : State) (r : Nat) (x : NvRec) : State :=
  let a := NvfRec.adr r
  let s1 := s.latchChecked 17 (boundaryMask fun x e => x == .publish && decide (a ≤ e) && decide (e < a + 0x80)) State.recBad
  if !s1.actB a NvfRec.enable then s1
  else if s1.nvf.recDue.any fun y => y.rope == r then s1.raise 4 11 r
  else { s1 with nvf := { s1.nvf with recDue := s1.nvf.recDue ++ [x] } }

/-- The bytes of a record (R441): the header, the data range by range, and zeros up to REC_LBAS blocks. -/
def State.recordBytes (s : State) (x : NvRec) : List Byte :=
  let rs := recRanges s.inForce x.rope
  let data := rs.flatMap fun (_, src, o, len) => s.apertureRead ((if src = 0 then 0x200000 else 0x400000) + o) len
  let head := [0x48, 0x4B, 0x43, 0x52] ++ leBytes 1 (x.rope + 16 * x.mode) ++ leBytes 1 rs.length ++ [0, 0] ++ leBytes 4 x.cycle
    ++ leBytes 4 x.stamp ++ leBytes 2 x.missing ++ leBytes 2 x.lost ++ leBytes 4 data.length
    ++ (List.range 8).flatMap (fun j => leBytes 4 (s.inForce (NvfRecRange.adr x.rope j)).toNat)
  let all := head ++ leBytes 4 (crc32 (head ++ data)) ++ [0, 0, 0, 0] ++ data
  slice all 0 (recLbas s.inForce x.rope * lbaSize s.inForce (s.act (NvfRec.adr x.rope) NvfRec.ns))

end Sys2Proof.Machine
end

