-- ==== Sys2Proof/Machine/Time.lean ====
section
/-!
DEFINITION. The time unit and the timebase (R97–R132, R595): domains, line time, stamps, pulse outputs.
-/

namespace Sys2Proof.Machine

/-! ## The clocks (R97–R102) -/

/-- SECONDS, NANOSECONDS and FRACTION of a clock (R97). -/
def clkSec (c : Nat) : Nat := c / secUnits % 2 ^ 48
def clkNs (c : Nat) : Nat := c / nsUnit % 1000000000
def clkFrac (c : Nat) : Nat := c % nsUnit

/-- HOLDOVER follows the validity of the selected domain (R106). -/
def State.holdover (s : State) : State :=
  let h := !s.domValid s.selected
  let old := s.getB TuStatus.adr TuStatus.holdover
  let s1 := s.set TuStatus.adr TuStatus.holdover (b2n h)
  if h && !old then s1.note 3 7 s.selected else s1

/-- LOCKED and SLEWING at the end of a tick (R102). -/
def State.lockUpdate (s : State) : State :=
  let l := s.time.line == s.time.dom s.selected
  let old := s.getB TuStatus.adr TuStatus.locked
  let s1 := (s.set TuStatus.adr TuStatus.locked (b2n l)).set TuStatus.adr TuStatus.slewing (b2n !l)
  if l && !old then s1.note 3 6 s.selected else s1

/-- A pulse output is enabled. -/
def State.tpoEnabled (s : State) (n : Nat) : Bool := s.actB (TuTpo.adr n) TuTpo.enable

/-- ALIGN is refused while a comparator is armed or a pulse output is enabled (R103). -/
def State.alignRefused (s : State) : Bool := !s.time.armed.isEmpty || (List.range 8).any s.tpoEnabled

/-- ALIGN sets line time to the selected domain (R103). -/
def State.align (s : State) : State :=
  if s.alignRefused then s.note 3 2 0x1010
  else (s.modTime fun t => { t with line := t.dom s.selected }).lockUpdate.note 3 11 s.selected

/-- SNAP latches the snap set (R108). -/
def State.snap (s : State) : State :=
  let t := s.time
  let s1 := (((s.set TuSnap.adr TuSnap.sec (clkSec t.line)).set TuSnap.adr TuSnap.ns (clkNs t.line)).set
    TuSnap.adr TuSnap.frac (clkFrac t.line)).set TuSnap.adr TuSnap.stamp (stampOf s.lineNs).toNat
  let s2 := [0, 1].foldl (fun s d => (s.set (TuSnapDom.adr d) TuSnapDom.sec (clkSec (t.dom d))).set
    (TuSnapDom.adr d) TuSnapDom.ns (clkNs (t.dom d))) s1
  s2.bump TuSnapSeq.adr TuSnapSeq.count

/-- What a write does after the advance of its tick (R103, R108). -/
def State.tuLate (s : State) : TuWrite → State
  | .align => s.align
  | .snap => s.snap
  | _ => s

/-- One tick of the timebase (R101): the writes that have crossed apply in their order, and the switch is decided when the
validities of the tick stand. -/
def State.timeTick (s : State) : State :=
  (s.time.crossed.foldl State.tuLate s.tickSelects.holdover.slew).lockUpdate.announce

/-! ## Commands of the timebase -/

/-- A write to the timebase crosses into CLK_AON, and takes effect in the second tick (R100); in a unit that is not READY it
takes effect at once (R10). -/
def State.tuWrite (s : State) (w : TuWrite) : State :=
  if s.ready 3 then s.modTime fun t => { t with waiting := t.waiting ++ [(2, w)] }
  else ((((((s.tuEarly w).wdJudge 0).wdJudge 1).autoSwitch s.domValid).tuSelect w).holdover.tuLate w).announce

/-- The bits of `m` in the word at `a` are written, and come into force when the write has crossed (R57, R100). -/
def State.tuStore (s : State) (a : Nat) (m v : Word) : State :=
  let w := merge m (s.rd a) v
  ((s.setReg a w).setForce a (s.inForce a)).tuWrite (.word a w)

/-- TU_DOMAIN_STEP (R99, R100). -/
def State.domainStep (s : State) (o : Sys2Proof.Origin) (d : Nat) (v : DWord) : WRes :=
  s.gate o 3 (0x1110 + 0x20 * d) false false fun s => (s.tuWrite (.step d v.toInt)).done

/-- A signed step of a domain. -/
def execDomainStep (o : Sys2Proof.Origin) (d : Fin 2) (v : DWord) (s : State) : Host.Outcome State Fault Refusal :=
  (s.domainStep o d v).out

/-- A write of TU_DOMAIN_CTRL's command bits: INVALIDATE governs (R104). -/
def State.domainCmd (s : State) (o : Sys2Proof.Origin) (d : Nat) (inv ref : Bool) : WRes :=
  s.gate o 3 (0x1100 + 0x20 * d) false false fun s =>
    if inv then (s.tuWrite (.invalidate d)).done else if ref then (s.tuWrite (.refresh d)).done else s.done

/-- REFRESH of a domain. -/
def execDomainRefresh (o : Sys2Proof.Origin) (d : Fin 2) (s : State) : Host.Outcome State Fault Refusal :=
  (s.domainCmd o d false true).out

/-- INVALIDATE of a domain. -/
def execDomainInvalidate (o : Sys2Proof.Origin) (d : Fin 2) (s : State) : Host.Outcome State Fault Refusal :=
  (s.domainCmd o d true false).out

/-- A new TIMEOUT is judged against the count since the last REFRESH (R104). -/
def State.wdogWrite (s : State) (o : Sys2Proof.Origin) (d : Nat) (ms : Nat) : WRes :=
  s.gate o 3 (0x1104 + 0x20 * d) false false fun s => (s.tuStore (TuDom.adr d + 4) 0xFFFF#32 (BitVec.ofNat 32 ms)).done

/-- A write of TU_DOMAIN_WDOG. -/
def execWatchdogTimeoutWrite (o : Sys2Proof.Origin) (d : Fin 2) (ms : BitVec 16) (s : State) :
    Host.Outcome State Fault Refusal := (s.wdogWrite o d ms.toNat).out

/-- The watchdog's count has reached its limit (R104); the tick that brings it there finds the same. -/
def execDomainWatchdogExpiry (d : Fin 2) (s : State) : Host.Outcome State Fault Refusal :=
  .next (if s.domValid d ∧ 0 < s.wdLimit d ∧ s.wdLimit d ≤ s.time.since d then
      ((s.loseDomain d).autoSwitch s.domValid).holdover.announce
    else s)

/-- A write of DOMAIN_SEL (R105). -/
def State.domainSel (s : State) (d : Nat) : State :=
  ((s.setReg TuCtrl.adr (merge 1#32 (s.rd TuCtrl.adr) (BitVec.ofNat 32 d))).setForce TuCtrl.adr (s.inForce TuCtrl.adr)).tuWrite
    (.select d)

/-- DOMAIN_SEL, lead-protected. -/
def execDomainSelect (o : Sys2Proof.Origin) (d : Fin 2) (s : State) : Host.Outcome State Fault Refusal :=
  (s.gate o 3 0x1000 true false fun s => (s.domainSel d).done).out

/-- Line time has reached the selected domain (R102); the tick itself finds the same. -/
def execLineLocked (s : State) : Host.Outcome State Fault Refusal :=
  if s.time.line = s.time.dom s.selected then .next s.lockUpdate.announce else .next s

/-- A write of ALIGN: refused here when it would be refused now, and judged again in its tick (R103). -/
def State.alignWrite (s : State) : WRes := if s.alignRefused then s.refuse 3 0x1010 else (s.tuWrite .align).done

/-- TU_CMD.ALIGN, lead-protected. -/
def execAlign (o : Sys2Proof.Origin) (s : State) : Host.Outcome State Fault Refusal :=
  (s.gate o 3 0x1010 true false State.alignWrite).out

/-- TU_CMD.SNAP. -/
def execSnap (o : Sys2Proof.Origin) (s : State) : Host.Outcome State Fault Refusal :=
  (s.gate o 3 0x1010 false false fun s => (s.tuWrite .snap).done).out

/-! ## Stamps (R112–R118) -/

/-- RX and TX corrections in 1/16 ns: of a drive port by TYPE and FEC, of a fabric port by BREAKOUT (R113). -/
def driveCorr (type fec : Nat) : Nat × Nat :=
  match type, fec with
  | 0, _ => (2278, 1382)
  | 1, _ => (922, 564)
  | 2, _ => (2662, 1638)
  | 4, 0 => (656, 410)
  | 4, 1 => (1966, 492)
  | 4, _ => (3768, 1148)
  | _, _ => (1332, 820)
def fabricCorr : Nat → Nat × Nat
  | 0 => (4554, 1484)
  | 1 => (4742, 1442)
  | _ => (5092, 1412)

/-- The derived corrections of port `p`. -/
def corrOf (rd : Nat → Word) (p : Nat) : Nat × Nat :=
  if p < 16 then driveCorr (fieldOf rd (Dpx.adr p) Dpx.ptype) (fieldOf rd (Dpx.adr p) Dpx.fec)
  else fabricCorr (fieldOf rd (Fpx.adr ((p - 16) / 4)) Fpx.breakout)

/-- The TX correction of port `p` in force: derived, or the expert word (R53, R113). -/
def State.corrTx (s : State) (p : Nat) : Nat :=
  if s.getB (Hdr.adr 3) Hdr.expert then s.act (TuCorr.adr p) TuCorr.tx else (corrOf s.inForce p).2

/-- What expert corrections move a stamp by: nothing while they are derived, and true to the balls (R112, R113). -/
def State.corrShift (s : State) (p : Nat) (tx : Bool) : Int :=
  if s.getB (Hdr.adr 3) Hdr.expert then
    let (rx0, tx0) := corrOf s.inForce p
    if tx then (s.act (TuCorr.adr p) TuCorr.tx : Int) - tx0 else (rx0 : Int) - s.act (TuCorr.adr p) TuCorr.rx
  else 0

/-- Line time at which a bit crosses the balls of a port now, in 1/16 ns, with the correction of R112 and the residual of
R115: the MAC interpolates line time to that resolution. -/
def State.portStamp (s : State) (p : Nat) (tx : Bool) : Nat :=
  if 24 ≤ p then s.instant / 2 ^ 28
  else
    let r := s.act (TuResid.adr p) (if tx then TuResid.tx else TuResid.rx)
    ((s.instant / 2 ^ 28 : Nat) + s.corrShift p tx + toSigned 16 r).toNat

/-- DOMAIN[d] time of a line-time instant `u` in 1/16 ns (R116). -/
def State.domainStamp (s : State) (d u : Nat) : Nat :=
  let n := s.tickSelects
  let off : Int := (s.time.dom d : Int) - s.time.line + (n.adjust d - n.adjust n.selected - n.tickCorr) * s.phase / 40000
  ((u : Int) + off / (2 ^ 28 : Nat)).toNat

/-- The tracked domain of a PTP domainNumber (R116).  Where both domains carry the number, as they do at reset, the spec
does not say which serves it: here PRIMARY does (DESIGN CHOICE, log 102). -/
def State.ptpDomain (s : State) (num : Nat) : Option Nat :=
  [0, 1].find? fun d => s.act (TuDom.adr d) TuDom.number == num

/-- An egress stamp goes into the transmit stamp ring, or is lost when the ring is full (R117, R118). -/
def State.txStamp (s : State) (port tag : Nat) (scale u : Nat) : State :=
  let h := s.get TuTxHead.adr TuTxHead.index
  let t := s.get TuTxTail.adr TuTxTail.index
  if (h + 128 - t) % 128 = 64 then s.raise 3 10 (port + 4096 * tag)
  else
    let e := TuTxstamp.adr (h % 64)
    let s1 := ((s.set e TuTxstamp.tag tag).set e TuTxstamp.port port).set e TuTxstamp.scale scale
    let s2 := ((s1.set e TuTxstamp.frac (u % 16)).set e TuTxstamp.ns (u / 16 % 1000000000)).set
      e TuTxstamp.sec (u / 16 / 1000000000)
    s2.set TuTxHead.adr TuTxHead.index ((h + 1) % 128)

/-- A write of TU_TXSTAMP_TAIL frees entries, and never moves past HEAD (R117). -/
def State.txTail (s : State) (o : Sys2Proof.Origin) (v : Nat) : WRes :=
  s.gate o 3 0x1054 false false fun s =>
    let h := s.get TuTxHead.adr TuTxHead.index
    let t := s.get TuTxTail.adr TuTxTail.index
    if v < 128 ∧ (h + 128 - v) % 128 ≤ (h + 128 - t) % 128 then (s.set TuTxTail.adr TuTxTail.index v).done
    else s.refuse 3 0x1054

/-- A write of TU_TXSTAMP_TAIL. -/
def execTxstampTailWrite (o : Sys2Proof.Origin) (v : Word) (s : State) : Host.Outcome State Fault Refusal :=
  (s.txTail o v.toNat).out

/-! ## Pulse outputs (R125–R128) -/

/-- Pulse output `n`. -/
def State.tpo (s : State) (n : Nat) : Tpo :=
  s.time.tpo.getD n { level := false, next := none, trail := none, period := 0, width := 0 }

/-- Changes pulse output `n`. -/
def State.modTpo (s : State) (n : Nat) (f : Tpo → Tpo) : State :=
  s.modTime fun t => { t with tpo := t.tpo.modify n f }

/-- ENABLE and its mirror in TU_STATUS. -/
def State.tpoSet (s : State) (n : Nat) (on : Bool) : State :=
  let a := s.get TuStatus.adr TuStatus.tpoArmed
  let a' := if on then a ||| 2 ^ n else (a ||| 2 ^ n) - 2 ^ n
  (s.set (TuTpo.adr n) TuTpo.enable (b2n on)).set TuStatus.adr TuStatus.tpoArmed a'

/-- The window of pulse output `n`'s registers. -/
def tpoMask (n a : Nat) : Word := if TuTpo.adr n ≤ a ∧ a < TuTpo.adr n + 0x20 then 0xFFFFFFFF#32 else 0

/-- PERIOD and WIDTH as R125 allows them. -/
def pulseOk (periodic : Bool) (period width : Nat) : Bool :=
  decide (2 ≤ width) && decide (100 ≤ period) && (!periodic || decide (width + 2 ≤ period))

/-- The output stops at once and drives its inactive level (R127). -/
def State.tpoStop (s : State) (n : Nat) : State :=
  (s.tpoSet n false).modTpo n fun t => { t with level := false, next := none, trail := none }

/-- Arming (R126): START is taken, PERIOD and WIDTH are checked, and a start that is too late is handled
by mode.  NANOSECONDS of START above 999,999,999, of which the spec says nothing, carries into its seconds (DESIGN CHOICE,
log 103). -/
def State.tpoArm (s : State) (n : Nat) : WRes :=
  let s0 := s.latchMask (tpoMask n)
  let a := TuTpo.adr n
  let periodic := s0.actB a TuTpo.mode
  let period := s0.act a TuTpo.period
  let width := s0.act a TuTpo.width
  let start := s0.act a TuTpo.startSec * 1000000000 + s0.act a TuTpo.startNs
  let soon := s0.lineNs + 128
  if !pulseOk periodic period width then (s0.tpoSet n false).refuse 3 (0x40000 + 0x20 * n)
  else if start < soon then
    if periodic then
      let first := start + (soon - start + period - 1) / period * period
      ((s0.tpoSet n true).modTpo n fun t =>
        { t with next := some first, trail := none, level := false, period := period, width := width }).done
    else ((s0.tpoSet n false).raise 3 9 n).done
  else ((s0.tpoSet n true).modTpo n fun t =>
    { t with next := some start, trail := none, level := false, period := period, width := width }).done

/-- Setting ENABLE arms the output; on an output that is enabled it changes nothing. -/
def execTpoArm (o : Sys2Proof.Origin) (n : Fin 8) (s : State) : Host.Outcome State Fault Refusal :=
  (s.gate o 3 (0x40000 + 0x20 * n) false false fun s => if s.tpoEnabled n then s.done else s.tpoArm n).out

/-- Clearing ENABLE stops the output. -/
def execTpoStop (o : Sys2Proof.Origin) (n : Fin 8) (s : State) : Host.Outcome State Fault Refusal :=
  (s.gate o 3 (0x40000 + 0x20 * n) false false fun s => (s.tpoStop n).done).out

/-- A leading edge, whose instant has come: PERIOD and WIDTH written since take effect, and the edges after it are placed
from it (R127). -/
def execTpoLeadingEdge (n : Fin 8) (s : State) : Host.Outcome State Fault Refusal :=
  match (s.tpo n).next with
  | none => .next s
  | some e =>
      if s.lineNs + 40 < e then .next s else
      let s0 := s.latchMask (fun a => tpoMask n a &&& boundaryMask (fun b _ => b == .tpoEdge) a)
      let a := TuTpo.adr n
      let p := s0.act a TuTpo.period
      let w := s0.act a TuTpo.width
      let periodic := s0.actB a TuTpo.mode
      .next (s0.modTpo n fun t =>
        { t with level := true, next := if periodic then some (e + p) else none
                 trail := some (e + w), period := p, width := w })

/-- A trailing edge, whose instant has come; a ONCE output clears ENABLE after it (R126). -/
def execTpoTrailingEdge (n : Fin 8) (s : State) : Host.Outcome State Fault Refusal :=
  match (s.tpo n).trail with
  | none => .next s
  | some e =>
      if s.lineNs + 40 < e then .next s else
      let s1 := s.modTpo n fun t => { t with level := false, trail := none }
      .next (if (s.tpo n).next.isNone then s1.tpoSet n false else s1)

/-- The level at ball TPOn: that of its pulse under POLARITY, or none while it floats, U03 being without power (R125,
R130). -/
def State.tpoBall (s : State) (n : Nat) : Option Bool :=
  if s.dark 3 then none else some ((s.tpo n).level != s.actB (TuTpo.adr n) TuTpo.polarity)

/-- A hold of U03 stops every pulse output (R128). -/
def State.tuHold (s : State) : State := (List.range 8).foldl (fun s n => s.tpoStop n) s

/-- A unit reset of U03 also sets both domains invalid (R128). -/
def State.tuReset (s : State) : State := ((s.tuHold.loseDomain 0).loseDomain 1).holdover.announce

/-- The timebase takes the reset values of its settings at a Naonant restart; its counts run on (R595). -/
def State.tuRestart (s : State) : State :=
  s.modTime fun t =>
    { t with waiting := [], since0 := 0, since1 := 0, corr := 0, armed := [], prestarted := []
             tpo := t.tpo.map fun p => { p with level := false, next := none, trail := none } }

/-- Launch comparators are disarmed and, without TU_KEEP, pulse outputs float in Bivouac (R130). -/
def State.tuBivouac (s : State) : State :=
  let s1 := s.modTime fun t => { t with armed := [] }
  if s.actB TuCtrl.adr TuCtrl.tuKeep then s1 else s1.tuHold

end Sys2Proof.Machine
end

