-- ==== Sys2Proof/Machine/ParseOps.lean ====
section
/-!
DEFINITION. The parser of the packet pipelines (R223–R229): headers, layers, limits and exceptions.
-/

namespace Sys2Proof.Machine

/-- An IP header of a layer: its offset and version, addresses, protocol after extension headers, DSCP, ECN,
TTL or hop limit, and the flow label. -/
structure IpHdr where
  off : Nat
  v6 : Bool
  sa : List Byte
  da : List Byte
  proto : Nat
  dscp : Nat
  ecn : Nat
  ttl : Nat
  flow : Nat
  deriving DecidableEq, Repr

/-- An L4 header of a layer: ports, TCP flags, and the start of its payload. -/
structure L4Hdr where
  src : Nat
  dst : Nat
  flags : Nat
  payload : Nat
  deriving DecidableEq, Repr

/-- A layer (R224, R229): its EtherType after the last tag, and its L3 and L4 headers. -/
structure Layer where
  etype : Nat
  ip : Option IpHdr
  l4 : Option L4Hdr
  deriving DecidableEq, Repr

/-- A layer without headers. -/
def Layer.none : Layer := ⟨0, .none, .none⟩

/-- How a parse ends (R226). -/
inductive ParseEnd
  | normal | limit | exception
  deriving DecidableEq, Repr

/-- What the parser reads of a frame. -/
structure Parsed where
  ending : ParseEnd
  /-- VLAN tags of the outermost layer, the outer one first: PCP and VID. -/
  tags : List (Nat × Nat)
  /-- VLAN tags met in all layers. -/
  nTags : Nat
  /-- The offset of the outer VLAN tag. -/
  tagAt : Option Nat
  /-- The offset after the last VLAN tag of the outermost layer. -/
  tagEnd : Nat
  rtag : Option (Nat × Nat)
  sectag : Option (Nat × Nat)
  outer : Layer
  inner : Layer
  /-- Tunnel levels parsed, and the VNI of the outermost, which a GRE header has not. -/
  tunnels : Nat
  vni : Option Nat
  /-- No header of the newest tunnel level's inner layer has been read yet. -/
  fresh : Bool
  /-- messageType, domainNumber, sequenceId. -/
  ptp : Option (Nat × Nat × Nat)
  lldp : Bool
  arp : Bool
  /-- VERSION and ROPE, and REPLY. -/
  cycle : Option (Nat × Bool)
  shardo : Bool
  frag : Bool
  options : Bool
  ext : Bool
  deriving DecidableEq, Repr

/-- Nothing parsed yet. -/
def Parsed.empty : Parsed :=
  { ending := .normal, tags := [], nTags := 0, tagAt := .none, tagEnd := 12, rtag := none, sectag := none, outer := Layer.none
    inner := Layer.none, tunnels := 0, vni := none, fresh := false, ptp := none, lldp := false, arp := false, cycle := none
    shardo := false, frag := false, options := false, ext := false }

/-- The settings that a parse runs under. -/
structure ParseCfg where
  window : Nat
  maxTags : Nat
  maxTunnels : Nat
  tpid : Option Nat
  vxlan : Nat
  geneve : Nat
  cycle : Nat
  shardo : Nat
  deriving DecidableEq, Repr

/-- The header that the parser is about to read. `shown` says that the frame names it by an EtherType or a protocol type, and not
by the first nibble after an MPLS stack (R225, R233). -/
inductive Node
  | eth
  | etype (t : Nat) (shown : Bool := true)
  | ext (nh n ipEnd : Nat)
  | l4 (proto ipEnd : Nat)
  | mpls (n : Nat)
  deriving DecidableEq, Repr

/-- Changes the layer that is being parsed.  A tunnel level's inner layer is the innermost layer parsed (R229)
from its first header on. -/
def Parsed.layer (p : Parsed) (f : Layer → Layer) : Parsed :=
  if p.tunnels = 0 then { p with outer := f p.outer, inner := f p.outer }
  else { p with inner := f (if p.fresh then Layer.none else p.inner), fresh := false }

/-- The parse ends. -/
def Parsed.fin (p : Parsed) (e : ParseEnd) : Parsed := { p with ending := e }

/-- One tunnel level more, and the VNI of the outermost (R224, R229). -/
def Parsed.tunnel (p : Parsed) (vni : Option Nat) : Parsed :=
  { p with tunnels := p.tunnels + 1, vni := if p.tunnels = 0 then vni else p.vni, fresh := true }

/-- One's complement sum of 16-bit words. -/
def onesSum : List Byte → Nat
  | a :: b :: l => a.toNat * 256 + b.toNat + onesSum l
  | [a] => a.toNat * 256
  | [] => 0

/-- The Internet checksum's folded sum. -/
def fold16 (n : Nat) : Nat := let a := n % 65536 + n / 65536; let b := a % 65536 + a / 65536; b % 65536 + b / 65536

/-- Extension headers that the parser passes over (R225). -/
def isExt (nh : Nat) : Bool := nh == 0 || nh == 43 || nh == 44 || nh == 60

/-- The header of `n` bytes at `o` runs past the frame, past the window, or neither (R226, R227). -/
def reach (c : ParseCfg) (f : List Byte) (o n : Nat) : Option ParseEnd :=
  if f.length < o + n then some .exception else if c.window < o + n then some .limit else none

/-- Reads a PTP message at `o` in the outermost layer. -/
def parsePtp (c : ParseCfg) (f : List Byte) (o : Nat) (p : Parsed) : Parsed :=
  match reach c f o 34 with
  | some e => p.fin e
  | none => { p with ptp := some (beAt f o 1 % 16, beAt f (o + 4) 1, beAt f (o + 30) 2) }

/-- The parser (R225–R227): reads the header `node` at offset `o` and goes on. -/
def parse (c : ParseCfg) (f : List Byte) : Nat → Node → Nat → Parsed → Parsed
  | 0, _, _, p => p.fin .limit
  | fuel + 1, node, o, p =>
      let outermost := p.tunnels == 0
      match node with
      | .eth =>
          match reach c f o 14 with
          | some e => p.fin e
          | none => parse c f fuel (.etype (beAt f (o + 12) 2)) (o + 14) (p.layer id)
      | .etype t shown =>
          let et := if shown then t else 0
          if t ≤ 0x5DC then
            if f.length < o + t then p.fin .exception
            else match reach c f o 3 with
              | some e => p.fin e
              | none =>
                  if beAt f o 3 ≠ 0xAAAA03 then p
                  else match reach c f o 8 with
                    | some e => p.fin e
                    | none => if beAt f (o + 3) 3 ≠ 0 then p else parse c f fuel (.etype (beAt f (o + 6) 2)) (o + 8) p
          else if t < 0x600 then p.fin .exception
          else if t = 0x8100 ∨ t = 0x88A8 ∨ c.tpid = some t then
            if c.maxTags ≤ p.nTags then p.fin .limit
            else match reach c f o 4 with
              | some e => p.fin e
              | none =>
                  let w := beAt f o 2
                  let p1 := { p with nTags := p.nTags + 1 }
                  let p2 : Parsed := { p1 with
                    tags := p1.tags ++ [(w / 8192, w % 4096)], tagEnd := o + 2, tagAt := some (p1.tagAt.getD (o - 2)) }
                  let p2 := if outermost then p2 else p1
                  parse c f fuel (.etype (beAt f (o + 2) 2)) (o + 4) p2
          else if t = 0xF1C1 then
            if p.rtag.isSome then p.fin .limit
            else match reach c f o 6 with
              | some e => p.fin e
              | none => parse c f fuel (.etype (beAt f (o + 4) 2)) (o + 6) { p with rtag := some (o - 2, beAt f (o + 2) 2) }
          else if t = 0x88E5 then
            if p.sectag.isSome then p.fin .limit
            else match reach c f o 1 with
              | some e => p.fin e
              | none =>
                  let tci := beAt f o 1
                  let n := if bit tci 5 then 14 else 6
                  if bit tci 3 then
                    match reach c f o n with
                    | some e => p.fin e
                    | none => { p with sectag := some (o - 2, n + 2) }
                  else match reach c f o (n + 2) with
                    | some e => p.fin e
                    | none => parse c f fuel (.etype (beAt f (o + n) 2)) (o + n + 2) { p with sectag := some (o - 2, n + 2) }
          else
            let p1 := if p.fresh then p else p.layer fun l => { l with etype := et }
            if t = c.cycle ∧ outermost then
              match reach c f o 2 with
              | some e => p1.fin e
              | none => { p1 with cycle := some (beAt f o 1, bit (beAt f (o + 1) 1) 7) }
            else if t = 0x88F7 ∧ outermost then parsePtp c f o p1
            else if t = 0x88CC then (if outermost then { p1 with lldp := true } else p1)
            else if t = 0x0806 then (if outermost then { p1 with arp := true } else p1)
            else if t = 0x0800 then
              match reach c f o 20 with
              | some e => p1.fin e
              | none =>
                  let b0 := beAt f o 1
                  let n := b0 % 16 * 4
                  let tl := beAt f (o + 2) 2
                  let fr := beAt f (o + 6) 2
                  if b0 / 16 ≠ 4 ∨ n < 20 then p1.fin .exception
                  else match reach c f o n with
                    | some e => p1.fin e
                    | none =>
                        if fold16 (onesSum (slice f o n)) ≠ 0xFFFF ∨ tl < n ∨ f.length < o + tl then p1.fin .exception
                        else
                          let h : IpHdr := { off := o, v6 := false, sa := slice f (o + 12) 4, da := slice f (o + 16) 4
                                             proto := beAt f (o + 9) 1, dscp := beAt f (o + 1) 1 / 4
                                             ecn := beAt f (o + 1) 1 % 4, ttl := beAt f (o + 8) 1, flow := 0 }
                          let p2 := { p1.layer (fun l => { l with etype := et, ip := some h }) with
                            options := p1.options || decide (20 < n), frag := p1.frag || fr % 16384 != 0 }
                          if fr % 8192 ≠ 0 then p2 else parse c f fuel (.l4 h.proto (o + tl)) (o + n) p2
            else if t = 0x86DD then
              match reach c f o 40 with
              | some e => p1.fin e
              | none =>
                  let w := beAt f o 4
                  let pl := beAt f (o + 4) 2
                  if bits w 31 28 ≠ 6 ∨ f.length < o + 40 + pl then p1.fin .exception
                  else
                    let h : IpHdr := { off := o, v6 := true, sa := slice f (o + 8) 16, da := slice f (o + 24) 16
                                       proto := beAt f (o + 6) 1, dscp := bits w 27 22, ecn := bits w 21 20
                                       ttl := beAt f (o + 7) 1, flow := bits w 19 0 }
                    parse c f fuel (.ext h.proto 0 (o + 40 + pl)) (o + 40) (p1.layer fun l => { l with etype := et, ip := some h })
            else if t = 0x8847 ∨ t = 0x8848 then
              if c.maxTunnels ≤ p1.tunnels then p1.fin .limit else parse c f fuel (.mpls 0) o p1
            else p1
      | .ext nh n ipEnd =>
          let p1 := p.layer fun l => { l with ip := l.ip.map fun h => { h with proto := nh } }
          if !isExt nh then parse c f fuel (.l4 nh ipEnd) o p1
          else if 4 ≤ n then p1.fin .limit
          else match reach c f o 8 with
            | some e => p1.fin e
            | none =>
                let len := if nh = 44 then 8 else 8 + 8 * beAt f (o + 1) 1
                match reach c f o len with
                | some e => p1.fin e
                | none =>
                    let nx := beAt f o 1
                    let fr := beAt f (o + 2) 2
                    let p2 := { p1 with ext := true, frag := p1.frag || (nh == 44 && fr / 8 * 2 + fr % 2 != 0) }
                    if nh = 44 ∧ fr / 8 ≠ 0 then p2.layer fun l => { l with ip := l.ip.map fun h => { h with proto := nx } }
                    else parse c f fuel (.ext nx (n + 1) ipEnd) (o + len) p2
      | .l4 proto ipEnd =>
          if proto = 17 then
            match reach c f o 8 with
            | some e => p.fin e
            | none =>
                let dst := beAt f (o + 2) 2
                let len := beAt f (o + 4) 2
                if len < 8 ∨ ipEnd < o + len then p.fin .exception
                else
                  let p1 := p.layer fun l => { l with l4 := some ⟨beAt f o 2, dst, 0, o + 8⟩ }
                  if outermost ∧ dst = c.shardo then
                    match reach c f (o + 8) 32 with
                    | some e => p1.fin e
                    | none => { p1 with shardo := true }
                  else if outermost ∧ (dst = 319 ∨ dst = 320) then parsePtp c f (o + 8) p1
                  else if dst = c.vxlan then
                    if c.maxTunnels ≤ p1.tunnels then p1.fin .limit
                    else match reach c f (o + 8) 8 with
                      | some e => p1.fin e
                      | none => parse c f fuel .eth (o + 16) (p1.tunnel (some (beAt f (o + 12) 3)))
                  else if dst = c.geneve then
                    if c.maxTunnels ≤ p1.tunnels then p1.fin .limit
                    else match reach c f (o + 8) 8 with
                      | some e => p1.fin e
                      | none =>
                          let n := 8 + beAt f (o + 8) 1 % 64 * 4
                          match reach c f (o + 8) n with
                          | some e => p1.fin e
                          | none =>
                              let t := beAt f (o + 10) 2
                              let p2 := p1.tunnel (some (beAt f (o + 12) 3))
                              if t = 0x6558 then parse c f fuel .eth (o + 8 + n) p2
                              else if t = 0x0800 ∨ t = 0x86DD then parse c f fuel (.etype t) (o + 8 + n) p2
                              else p2
                  else p1
          else if proto = 6 then
            match reach c f o 20 with
            | some e => p.fin e
            | none =>
                let n := beAt f (o + 12) 1 / 16 * 4
                if n < 20 then p.fin .exception
                else match reach c f o n with
                  | some e => p.fin e
                  | none => p.layer fun l => { l with l4 := some ⟨beAt f o 2, beAt f (o + 2) 2, beAt f (o + 13) 1, o + n⟩ }
          else if proto = 1 ∨ proto = 58 then
            match reach c f o 4 with
            | some e => p.fin e
            | none => p.layer fun l => { l with l4 := some ⟨beAt f o 2, 0, 0, o + 4⟩ }
          else if proto = 47 then
            match reach c f o 4 with
            | some e => p.fin e
            | none =>
                let w := beAt f o 2
                let t := beAt f (o + 2) 2
                let n := 4 + (if bit w 15 then 4 else 0) + (if bit w 13 then 4 else 0) + (if bit w 12 then 4 else 0)
                if w % 8 ≠ 0 then p
                else if c.maxTunnels ≤ p.tunnels then p.fin .limit
                else match reach c f o n with
                  | some e => p.fin e
                  | none =>
                      let p1 := p.tunnel none
                      if t = 0x6558 then parse c f fuel .eth (o + n) p1
                      else if t = 0x0800 ∨ t = 0x86DD then parse c f fuel (.etype t) (o + n) p1
                      else p1
          else p
      | .mpls n =>
          if 4 ≤ n then p.fin .limit
          else match reach c f o 4 with
            | some e => p.fin e
            | none =>
                let w := beAt f o 4
                let p1 := if n = 0 then p.tunnel (some (w / 4096)) else p
                if !bit w 8 then parse c f fuel (.mpls (n + 1)) (o + 4) p1
                else match reach c f (o + 4) 1 with
                  | some e => p1.fin e
                  | none =>
                      let k := beAt f (o + 4) 1 / 16
                      if k = 4 then parse c f fuel (.etype 0x0800 false) (o + 4) p1
                      else if k = 6 then parse c f fuel (.etype 0x86DD false) (o + 4) p1
                      else p1

/-- Input number `i` of role `r` as IN_PORT (R218). -/
def inPortOf (r i : Nat) : Nat := if r < 2 then 8 * r + i else if r = 2 then 16 + i else if i < 4 then 20 + i else 24

/-- Breakout ports of fabric port `f` in the running port mode (R586). -/
def State.breakoutPorts (s : State) (f : Nat) : Nat :=
  match s.act (Fpx.adr f) Fpx.breakout with
  | 0 => 1
  | 1 => 2
  | _ => 4

/-- Input `i` of role `r` exists at the running port mode and scale; input 4 of role 3 is the host (R20, R22, R218). -/
def State.inputExists (s : State) (r i : Nat) : Bool :=
  if r < 2 then decide (i < 8) && decide (8 * r + i < drivePorts s.scale)
  else (r == 3 && i == 4) || (decide (r - 2 < fabricPorts s.scale) && decide (i < s.breakoutPorts (r - 2)))

/-- The settings of an input (R223, R225). -/
def State.parseCfg (s : State) (r i : Nat) : ParseCfg :=
  let deep := s.actB (PpPort.adr r i) PpPort.deep
  { window := if deep then s.act (PpPort.adr r i) PpPort.deepWindow * 64 else 128
    maxTags := if deep then 8 else 4
    maxTunnels := if deep then 3 else 1
    tpid := s.tpidOf r
    vxlan := s.act (PpTunnel.adr r) PpTunnel.vxlan
    geneve := s.act (PpTunnel.adr r) PpTunnel.geneve
    cycle := s.act CxeEthertype.adr CxeEthertype.etype
    shardo := s.act ShxCtrl.adr ShxCtrl.udpPort }

/-- The parse of a frame that entered at input `i` of role `r`. -/
def State.parseFrame (s : State) (r i : Nat) (f : List Byte) : Parsed := parse (s.parseCfg r i) f 64 .eth 0 Parsed.empty

end Sys2Proof.Machine
end

