-- ==== Sys2Proof/Machine/TableOps.lean ====
section
/-!
DEFINITION. The exact-match tables and the TCAM: lookups, insertion with relocation, deletion, search
with verification (R253–R288).
-/

namespace Sys2Proof.Machine

/-! ## Table geometry (R253–R255) -/

/-- KIND codes of a table. -/
def tkBRIDGE : Nat := 0
def tkFLOW4 : Nat := 1
def tkFLOW6 : Nat := 2

/-- Entry size, key size and buckets per bank of a kind. -/
def entryBytes : Nat → Nat | 0 => 16 | 1 => 32 | _ => 64
def keyBytes : Nat → Nat | 0 => 8 | 1 => 16 | _ => 40
def bucketsPerBank : Nat → Nat | 0 => 32768 | 1 => 16384 | _ => 8192

/-- The banks that a table's BANKS code names. -/
def banksOf (c : Nat) : Nat := 2 ^ (c + 1)

/-- KIND of table `t`. -/
def State.tKind (s : State) (t : Nat) : Nat := s.act (EmtTable.adr t) EmtTable.kind

/-- Buckets of table `t`. -/
def State.tBuckets (s : State) (t : Nat) : Nat :=
  bucketsPerBank (s.tKind t) * banksOf (s.act (EmtTable.adr t) EmtTable.banks)

/-- The capacity of table `t`, stash included (R274). -/
def State.tCapacity (s : State) (t : Nat) : Nat := 4 * s.tBuckets t + 8

/-- Table `t` is in use. -/
def State.tOn (s : State) (t : Nat) : Bool := s.actB (EmtTable.adr t) EmtTable.enable

/-- The first slot of the stash. -/
def stashBase : Nat := 16777216

/-- Table `t`. -/
def State.tab (s : State) (t : Nat) : EmtTab := s.emt.tabs.getD t EmtTab.init

/-- Changes table `t`. -/
def State.modTab (s : State) (t : Nat) (f : EmtTab → EmtTab) : State :=
  { s with emt := { s.emt with tabs := s.emt.tabs.modify t f } }

/-- The enabled table of a role and kind (R253). -/
def State.tableOf (s : State) (role kind : Nat) : Option Nat :=
  (List.range 16).find? fun t =>
    s.tOn t && s.act (EmtTable.adr t) EmtTable.role == role && s.tKind t == kind

/-- The two candidate buckets of a key in table `t` (R255). -/
def State.candidates (s : State) (t : Nat) (key : List Byte) : Nat × Nat :=
  let h := s.tBuckets t / 2
  let a := EmtTable.adr t
  (crc32cFrom (BitVec.ofNat 32 (s.act a EmtTable.seed0)) key % h,
   h + crc32From (BitVec.ofNat 32 (s.act a EmtTable.seed1)) key % h)

/-- The slots in the order in which a lookup searches them (R256). -/
def searchOrder (b0 b1 : Nat) : List Nat :=
  (List.range 4).map (4 * b0 + ·) ++ (List.range 4).map (4 * b1 + ·) ++ (List.range 8).map (stashBase + ·)

/-- The entry in a slot. -/
def EmtTab.at_ (m : EmtTab) (i : Nat) : Option (List Byte) := sfind m.slots i

/-- A slot is free. -/
def EmtTab.freeSlot (m : EmtTab) (i : Nat) : Bool := (m.at_ i).isNone

/-- The flags byte of an entry, its last byte (R258). -/
def flagsOf (e : List Byte) : Nat := (e.getLastD 0).toNat

/-- LEARNED. -/
def learned (e : List Byte) : Bool := bit (flagsOf e) 6

/-- The number of ones in a byte, modulo 2. -/
def byteParity (b : Byte) : Bool :=
  (b.getLsbD 0 ^^ b.getLsbD 1) ^^ (b.getLsbD 2 ^^ b.getLsbD 3) ^^
    ((b.getLsbD 4 ^^ b.getLsbD 5) ^^ (b.getLsbD 6 ^^ b.getLsbD 7))

/-- The parity of all bits of an entry is odd (R277). -/
def oddParity (e : List Byte) : Bool := e.foldl (fun p b => p ^^ byteParity b) false

/-- Table `t` is in the HK2080 format with parity (R277). -/
def State.parityMode (s : State) (t : Nat) : Bool := s.act (EmtTable.adr t) EmtTable.errmode == 1

/-- The slot that holds `key` in table `t`, in lookup order, whatever its parity. -/
def State.slotOf (s : State) (t : Nat) (key : List Byte) : Option (Nat × List Byte) :=
  let m := s.tab t
  let (b0, b1) := s.candidates t key
  (searchOrder b0 b1).findSome? fun i =>
    match m.at_ i with
    | some e => if e.take (keyBytes (s.tKind t)) = key then some (i, e) else none
    | none => none

/-- RO counters and stash words of table `t` follow its contents. -/
def State.syncTab (s : State) (t : Nat) : State :=
  let m := s.tab t
  let st := (m.slots.filter fun p => decide (stashBase ≤ p.1)).length
  (s.set (EmtTable.adr t) EmtTable.entries m.slots.length).set (EmtTable.adr t) EmtTable.stash st

/-- Writes entry `e` into slot `i` of table `t`, with hit bit `h`. -/
def State.putSlot (s : State) (t i : Nat) (e : List Byte) (h : Bool) : State :=
  (s.modTab t fun m =>
    { m with slots := sins m.slots i e
             hits := if h then i :: m.hits.filter (· != i) else m.hits.filter (· != i) }).syncTab t

/-- Clears slot `i` of table `t`. -/
def State.clearSlot (s : State) (t i : Nat) : State :=
  (s.modTab t fun m => { m with slots := sdel m.slots i, hits := m.hits.filter (· != i) }).syncTab t

/-- Moves the entry of slot `i` to the free slot `j`, copy-then-clear, its hit bit with it (R262; log 20). -/
def State.moveSlot (s : State) (t i j : Nat) : State :=
  match (s.tab t).at_ i with
  | some e => (s.putSlot t j e ((s.tab t).hits.contains i)).clearSlot t i
  | none => s

/-- The first free way of bucket `b`. -/
def EmtTab.freeWay (m : EmtTab) (b : Nat) : Option Nat :=
  ((List.range 4).map (4 * b + ·)).find? m.freeSlot

/-- The relocation chain of R261: the moves from bucket `cur` on, and the free slot that it ends in. -/
def chain (s : State) (t : Nat) (m : EmtTab) : Nat → Nat → Nat → List Nat → Option (List Nat × Nat)
  | 0, _, _, _ => none
  | fuel + 1, step, cur, path =>
      let v := 4 * cur + step % 4
      match m.at_ v with
      | none => some (path, v)
      | some e =>
          let (c0, c1) := s.candidates t (e.take (keyBytes (s.tKind t)))
          let alt := if cur = c0 then c1 else c0
          match m.freeWay alt with
          | some f => some (path ++ [v], f)
          | none => chain s t m fuel (step + 1) alt (path ++ [v])

/-- Executes a chain from its far end: the entry of the last slot moves to the free one, and so on. -/
def runChain (t : Nat) : List Nat → Nat → State → State
  | [], _, s => s
  | v :: vs, dst, s => runChain t vs v (s.moveSlot t v dst)

/-- Status codes of EMT_CMD (R292). -/
def emOK : Nat := 0
def emTABLE_FULL : Nat := 1
def emKEY_EXISTS : Nat := 2
def emNOT_FOUND : Nat := 3
def emWRONG_MODE : Nat := 4
def emQUOTA : Nat := 5
def emNOT_OWNER : Nat := 6
def emBUSY : Nat := 7
def emECC_ERROR : Nat := 8
def emBAD_ENTRY : Nat := 9

/-- Hold-off time in µs of U11's and U12's events (R291). -/
def State.emtEvent (s : State) (n detail : Nat) : State :=
  s.raiseHeld (16 * 11 + n) (s.act EmtHoldoff.adr EmtHoldoff.microseconds) 11 n detail
def State.tcmEvent (s : State) (n detail : Nat) : State :=
  s.raiseHeld (16 * 12 + n) (s.act TcmHoldoff.adr TcmHoldoff.microseconds) 12 n detail

/-- The event detail of a table: role in [1:0], table in [7:4] (R291). -/
def State.tabDetail (s : State) (t : Nat) : Nat := s.act (EmtTable.adr t) EmtTable.role + 16 * t

/-- The bank of bucket `b` of a table with `half` buckets in each half, on `n` banks from `first` (R255). -/
def bucketBank (half first n b : Nat) : Nat := first + b / half * (n / 2) + b % half % (n / 2)

/-- The table memory bank that holds slot `i` of table `t`; none for a stash slot. -/
def State.slotBank (s : State) (t i : Nat) : Option Nat :=
  if stashBase ≤ i then none
  else some (bucketBank (s.tBuckets t / 2) (s.act (EmtTable.adr t) EmtTable.firstBank) (banksOf (s.act (EmtTable.adr t) EmtTable.banks)) (i / 4))

/-- The bucket of a slot; the stash is bucket `stashBase / 4`. -/
def bucketOf (i : Nat) : Nat := if stashBase ≤ i then stashBase / 4 else i / 4

/-- The slots of a bucket, or of the stash. -/
def bucketSlots (b : Nat) : List Nat :=
  if b = stashBase / 4 then (List.range 8).map (stashBase + ·) else (List.range 4).map (4 * b + ·)

/-- The reads of these buckets are uncorrectable: BUCKET_ERROR is raised, their entries are lost until the shadow compare or
learning restores them, and their banks are retired (R278, R504).  What a slice has installed still counts in USED (log 65). -/
def State.loseBuckets (s : State) (t : Nat) (bs : List Nat) : State :=
  let is := bs.flatMap bucketSlots
  let s1 := (s.modTab t fun m =>
    { m with slots := m.slots.filter fun p => !is.contains p.1, hits := m.hits.filter fun i => !is.contains i }).syncTab t
  (is.filterMap (s.slotBank t)).eraseDups.foldl (fun (s : State) b => s.uncorrectable rkTABLE b) (s1.emtEvent 8 (s1.tabDetail t))

/-- A look-up of `key` in table `t` by whoever reads its candidate buckets and the stash (R256, R277, R278): a bucket of `bad`, whose
read is uncorrectable, holds no entry and loses its own; and an entry with wrong parity is absent, stays in place and raises
PARITY_MISS. -/
def State.find (s : State) (t : Nat) (key : List Byte) (bad : List Nat) : State × Option (Nat × List Byte) :=
  let (b0, b1) := s.candidates t key
  let lost := [b0, b1, stashBase / 4].filter bad.contains
  let s1 := if lost.isEmpty then s else s.loseBuckets t lost
  match s1.slotOf t key with
  | some (i, e) => if s1.parityMode t && oddParity e then (s1.emtEvent 7 (s1.tabDetail t + 256 * i), none) else (s1, some (i, e))
  | none => (s1, none)

/-- The insertion engine finds a new entry its place (R261, R262); `bad` lists the buckets whose read is
uncorrectable. -/
def State.engine (s : State) (t : Nat) (e : List Byte) (hit : Bool) (bad : List Nat) : State × Nat :=
  let m := s.tab t
  let (b0, b1) := s.candidates t (e.take (keyBytes (s.tKind t)))
  match m.freeWay b0, m.freeWay b1 with
  | some i, _ => (s.putSlot t i e hit, emOK)
  | none, some i => (s.putSlot t i e hit, emOK)
  | none, none =>
      match chain s t m 8 0 b0 [] with
      | some (path, f) =>
          let lost := ((path ++ [f]).map bucketOf).eraseDups.filter bad.contains
          if !lost.isEmpty then (s.loseBuckets t lost, emECC_ERROR)
          else
            let s1 := runChain t path.reverse f s
            (s1.putSlot t (path.headD f) e hit, emOK)
      | none =>
          match ((List.range 8).map (stashBase + ·)).find? m.freeSlot with
          | some i => (s.putSlot t i e hit, emOK)
          | none => (s, emTABLE_FULL)

/-- An INSERT or a learn request places its entry; TABLE_FULL is its event (R291). -/
def State.place (s : State) (t : Nat) (e : List Byte) (hit : Bool) (bad : List Nat) : State × Nat :=
  let (s1, st) := s.engine t e hit bad
  (if st = emTABLE_FULL then s1.emtEvent 4 (s1.tabDetail t) else s1, st)

/-- One stash entry moves into a candidate bucket with a free way (R264). -/
def State.migrateOne (s : State) (t i : Nat) : State :=
  let m := s.tab t
  match m.at_ i with
  | none => s
  | some e =>
      let (b0, b1) := s.candidates t (e.take (keyBytes (s.tKind t)))
      match m.freeWay b0, m.freeWay b1 with
      | some j, _ => s.moveSlot t i j
      | none, some j => s.moveSlot t i j
      | none, none => s

/-- Stash migration, lowest stash entry first (R264). -/
def State.migrate (s : State) (t : Nat) : State :=
  (List.range 8).foldl (fun s j => s.migrateOne t (stashBase + j)) s

/-- EMT_QUOTA LIMIT of slice `k` in table `t` (R274). -/
def State.quotaLimit (s : State) (t k : Nat) : Nat :=
  let eq := s.tCapacity t / s.sharers
  if s.service then sget eq s.emt.limits (256 * t + k) else eq

/-- Slice `k` gains or loses an installed key in table `t`. -/
def State.own (s : State) (t k : Nat) (key : List Byte) : State :=
  let s1 := s.modTab t fun m => { m with owned := (k, key) :: m.owned.filter (fun p => p.2 != key) }
  s1.set (EmtQuota.adr t k) EmtQuota.used (((s1.tab t).owned.filter (·.1 == k)).length)
def State.disown (s : State) (t : Nat) (key : List Byte) : State :=
  match (s.tab t).owned.find? (fun p => p.2 == key) with
  | some (k, _) =>
      let s1 := s.modTab t fun m => { m with owned := m.owned.filter (fun p => p.2 != key) }
      s1.set (EmtQuota.adr t k) EmtQuota.used (((s1.tab t).owned.filter (·.1 == k)).length)
  | none => s

/-- A port that exists at the strapped scale (R2, R118). -/
def portExists (scale p : Nat) : Bool :=
  decide (p < drivePorts scale) || (decide (16 ≤ p) && decide (p < 16 + 4 * fabricPorts scale))

/-- An entry that a command may install (R258, R270, R277). -/
def State.entryOk (s : State) (t : Nat) (e : List Byte) : Bool :=
  let f := flagsOf e
  let dk := leAt e 8 4 / 2 ^ 29
  let d := leAt e 8 4 % 2 ^ 29
  let sc := s.scale
  bit f 7 && !(s.parityMode t && oddParity e) &&
  (if s.tKind t = tkBRIDGE then
     (match dk with
      | 0 => portExists sc (bits d 4 0)
      | 1 => portExists sc (bits d 4 0) && portExists sc (bits d 12 8) && bits d 4 0 != bits d 12 8
      | 2 => inShare (s.share .rxq (leAt e 14 1)) (bits d 11 0)
      | 3 => (List.range 24).all fun p => !bit d p || portExists sc p
      | 4 => true
      | _ => false)
   else true)

/-- The entry with LEARNED forced to 0 and, for a slice's command, SLICE forced to the slice (R273, R274). -/
def forceEntry (kind : Nat) (by_ : Option Nat) (e : List Byte) : List Byte :=
  let n := entryBytes kind
  let e0 := slice e 0 n
  let e1 := match by_ with
    | some k => e0.set (if kind = tkBRIDGE then 14 else if kind = tkFLOW4 then 24 else 48) (BitVec.ofNat 8 k)
    | none => e0
  e1.set (n - 1) (e1.getD (n - 1) 0 &&& 0xBF#8)

/-- The installing slice that an entry names. -/
def entrySlice (kind : Nat) (e : List Byte) : Nat :=
  leAt e (if kind = tkBRIDGE then 14 else if kind = tkFLOW4 then 24 else 48) 1

/-- What an EMT command leaves: the state, its status, the hit bit and the entry to return. -/
abbrev EmtResult := State × Nat × Bool × Option (List Byte)

/-- INSERT (R273, R274); `bad` lists the buckets whose read is uncorrectable. -/
def State.emtInsert (s : State) (by_ : Option Nat) (t : Nat) (e : List Byte) (bad : List Nat) : EmtResult :=
  let kd := s.tKind t
  let e0 := forceEntry kd by_ e
  let key := e0.take (keyBytes kd)
  if s.act (EmtTable.adr t) EmtTable.access = 1 then (s, emWRONG_MODE, false, none)
  else if !s.entryOk t (match by_ with | some _ => forceEntry kd by_ e | none => slice e 0 (entryBytes kd)) then
    (s, emBAD_ENTRY, false, none)
  else
    let (s0, hit) := s.find t key bad
    match hit with
    | some (_, e') => (s0, if e' = e0 then emOK else emKEY_EXISTS, false, none)
    | none =>
        let full := match by_ with
          | some k => decide (s0.quotaLimit t k < s0.get (EmtQuota.adr t k) EmtQuota.used + 1)
          | none => false
        if full then (s0, emQUOTA, false, none)
        else
          let (s1, st) := s0.place t e0 false bad
          let s2 := match by_ with
            | some k => if st = emOK then s1.own t k key else s1
            | none => s1
          (s2, st, false, none)

/-- A slice may change an entry (R274). -/
def mayChange (kd : Nat) (by_ : Option Nat) (e : List Byte) : Bool :=
  match by_ with
  | some k => !learned e && entrySlice kd e == k
  | none => true

/-- DELETE (R273, R264). -/
def State.emtDelete (s : State) (by_ : Option Nat) (t : Nat) (e : List Byte) (bad : List Nat) : EmtResult :=
  let kd := s.tKind t
  let key := slice e 0 (keyBytes kd)
  if s.act (EmtTable.adr t) EmtTable.access = 1 then (s, emWRONG_MODE, false, none)
  else
    let (s1, hit) := s.find t key bad
    match hit with
    | none => (s1, emNOT_FOUND, false, none)
    | some (i, e') =>
        if mayChange kd by_ e' then (((s1.clearSlot t i).disown t key).migrate t, emOK, false, none)
        else (s1, emNOT_OWNER, false, none)

/-- MODIFY (R273). -/
def State.emtModify (s : State) (by_ : Option Nat) (t : Nat) (e : List Byte) (bad : List Nat) : EmtResult :=
  let kd := s.tKind t
  let e0 := forceEntry kd by_ e
  if s.act (EmtTable.adr t) EmtTable.access = 1 then (s, emWRONG_MODE, false, none)
  else if !s.entryOk t (match by_ with | some _ => e0 | none => slice e 0 (entryBytes kd)) then
    (s, emBAD_ENTRY, false, none)
  else
    let (s1, hit) := s.find t (e0.take (keyBytes kd)) bad
    match hit with
    | none => (s1, emNOT_FOUND, false, none)
    | some (i, e') =>
        if mayChange kd by_ e' then (s1.putSlot t i e0 ((s1.tab t).hits.contains i), emOK, false, none)
        else (s1, emNOT_OWNER, false, none)

/-- LOOKUP (R273). -/
def State.emtLookup (s : State) (t : Nat) (e : List Byte) (bad : List Nat) : EmtResult :=
  let (s1, hit) := s.find t (slice e 0 (keyBytes (s.tKind t))) bad
  match hit with
  | some (i, e') => (s1, emOK, (s1.tab t).hits.contains i, some e')
  | none => (s1, emNOT_FOUND, false, none)

/-! ## Lookups of the pipelines (R235, R256, R259, R277, R278) -/

/-- A lookup of `key` in table `t`; `sets` sets the hit bit of the entry found, and `bad` lists the
(table, bucket) reads that are uncorrectable, the stash being bucket `stashBase / 4`. -/
def State.lookup (s : State) (t : Nat) (key : List Byte) (sets : Bool) (bad : List (Nat × Nat)) :
    State × Option (Nat × List Byte) :=
  let (s1, hit) := s.find t key ((bad.filter fun x => x.1 == t).map (·.2))
  match hit with
  | none => (s1, none)
  | some (i, e) =>
      if sets then
        (s1.modTab t fun m => { m with hits := if m.hits.contains i then m.hits else i :: m.hits }, some (i, e))
      else (s1, some (i, e))

/-! ## TCAM (R280–R288) -/

/-- The width in bits that a WIDTH code names, and the entries per block or block pair. -/
def tcamWidth : Nat → Nat | 0 => 160 | 1 => 320 | _ => 640

/-- The capacity of partition `p` in entries (R280). -/
def State.partCapacity (s : State) (p : Nat) : Nat :=
  let a := TcmPart.adr p
  let b := s.act a TcmPart.blocks
  match s.act a TcmPart.width with
  | 0 => b * 32768
  | 1 => b * 16384
  | _ => b / 2 * 16384

/-- The copies of partition `p`. -/
def State.partCopies (s : State) (p : Nat) : Nat := 2 ^ s.act (TcmPart.adr p) TcmPart.copies

/-- Partition `p` is in use. -/
def State.partOn (s : State) (p : Nat) : Bool := s.actB (TcmPart.adr p) TcmPart.enable

/-- The copy that serves role `r` in partition `p` (R282). -/
def State.roleCopy (s : State) (p r : Nat) : Nat :=
  bits (s.act (TcmPart.adr p) TcmPart.roleCopy) (2 * r + 1) (2 * r)

/-- An entry of a partition as one number, by which a slice's resources name it. -/
def tcmId (p i : Nat) : Nat := p * 262144 + i

/-- The half-rows of entry `i` of copy `c` of partition `p`, that of its lowest bits first (R280, R281). -/
def State.cells (s : State) (p c i : Nat) : List Nat :=
  let a := TcmPart.adr p
  let b := (s.act a TcmPart.firstBlock + c * s.act a TcmPart.blocks) * 32768
  match s.act a TcmPart.width with
  | 0 => [b + i]
  | 1 => [b + 2 * i, b + 2 * i + 1]
  | _ =>
      let x := b + i / 16384 * 65536 + i % 16384 * 2
      [x + 32768, x + 32769, x, x + 1]

/-- The entry of copy `c` of partition `p` whose lowest bits half-row `x` holds. -/
def State.cellIndex (s : State) (p c x : Nat) : Option Nat :=
  let a := TcmPart.adr p
  let b := (s.act a TcmPart.firstBlock + c * s.act a TcmPart.blocks) * 32768
  let d := x - b
  if x < b ∨ s.act a TcmPart.blocks * 32768 ≤ d then none
  else match s.act a TcmPart.width with
    | 0 => some d
    | 1 => if d % 2 = 0 then some (d / 2) else none
    | _ => if d / 32768 % 2 = 1 ∧ d % 2 = 0 then some (d / 65536 * 16384 + d % 32768 / 2) else none

/-- An entry that is not valid. -/
def TEntry.none : TEntry := ⟨false, 0, 0, 0⟩

/-- An entry matches a key (R280). -/
def TEntry.hits (e : TEntry) (key : Nat) : Bool := e.valid && ((key ^^^ e.value) &&& e.mask) == 0

/-- The entry that half-rows hold: it is valid when each of them is. -/
def readCells (m : List (Nat × TEntry)) (l : List Nat) : TEntry :=
  let es := l.map (sget TEntry.none m)
  { valid := es.all (·.valid), value := es.foldr (fun e n => e.value + 2 ^ 160 * n) 0
    mask := es.foldr (fun e n => e.mask + 2 ^ 160 * n) 0, data := (es.headD TEntry.none).data }

/-- Half-rows take an entry, 160 bits each. -/
def writeCells : List Nat → TEntry → List (Nat × TEntry) → List (Nat × TEntry)
  | [], _, m => m
  | x :: l, e, m =>
      writeCells l { e with value := e.value / 2 ^ 160, mask := e.mask / 2 ^ 160 }
        (sput TEntry.none m x { e with value := e.value % 2 ^ 160, mask := e.mask % 2 ^ 160 })

/-- Entry `i` of partition `p` in the verify copy, and in the array of copy `c`. -/
def State.verified (s : State) (p i : Nat) : TEntry := readCells s.tcm.verify (s.cells p 0 i)
def State.arrayed (s : State) (p c i : Nat) : TEntry := readCells s.tcm.arrays (s.cells p c i)

/-- The entries of partition `p` that copy `c` matches with a key, lowest index first (R280, R282). -/
def State.matching (s : State) (p c key : Nat) : List Nat :=
  (s.tcm.arrays.filterMap fun x => s.cellIndex p c x.1).filter fun i => (s.arrayed p c i).hits key

/-- The entries of partition `p` whose VALID bit the verify copy has. -/
def State.validIn (s : State) (p : Nat) : List Nat :=
  (s.tcm.verify.filterMap fun x => s.cellIndex p 0 x.1).filter fun i => (s.verified p i).valid

/-- The verify copy takes entry `i`. -/
def State.putVerified (s : State) (p i : Nat) (e : TEntry) : State :=
  { s with tcm := { s.tcm with verify := writeCells (s.cells p 0 i) e s.tcm.verify } }

/-- The array of copy `c` takes entry `i`. -/
def State.putArray (s : State) (p c i : Nat) (e : TEntry) : State :=
  { s with tcm := { s.tcm with arrays := writeCells (s.cells p c i) e s.tcm.arrays } }

/-- An entry with VALID cleared (R285). -/
def TEntry.off (e : TEntry) : TEntry := { e with valid := false }

/-- Puts a repair of index `i` ahead of the pending commands of copy `c` of partition `p` (R286). -/
def State.repair (s : State) (p c i : Nat) : State :=
  { s with tcm := { s.tcm with updates := ⟨p, c, i, true⟩ :: s.tcm.updates } }

/-- A verify-copy read is uncorrectable: the entry is invalidated in every array and firmware must
rewrite it (R286).  Role `r` searched, which is 0 for a scrub. -/
def State.copyError (s : State) (r p i : Nat) : State :=
  let s1 := (List.range (s.partCopies p)).foldl (fun (s : State) c => s.putArray p c i (s.arrayed p c i).off) s
  (s1.putVerified p i (s1.verified p i).off).tcmEvent 8 (r + 16 * p + 256 * i)

/-- The verification of one match: whether it passes, and the state after a failure (R286). -/
def State.verifyOne (s : State) (r p c i key : Nat) (vbad : List (Nat × Nat)) : State × Option TEntry :=
  if vbad.contains (p, i) then (s.copyError r p i, none)
  else
    let e := s.verified p i
    if e.hits key then (s, some e) else (s.repair p c i, none)

/-- A search of partition `p` for role `r` (R282, R283, R286): the hit with its index.  `late` says that
the search did not start in time. -/
def State.search (s : State) (p r key : Nat) (late : Bool) (vbad : List (Nat × Nat)) :
    State × Option (Nat × TEntry) :=
  let c := s.roleCopy p r
  let d := r + 16 * p
  if late then ((s.bump (TcmRoleStat.adr r) TcmRoleStat.overrun).tcmEvent 6 d, none)
  else match s.matching p c key with
    | [] => (s, none)
    | i :: is =>
        let (s1, v1) := s.verifyOne r p c i key vbad
        match v1 with
        | some e => (s1, some (i, e))
        | none =>
            match is with
            | [] => (s1.tcmEvent 4 d, none)
            | j :: _ =>
                let (s2, v2) := s1.verifyOne r p c j key vbad
                match v2 with
                | some e => (s2.tcmEvent 5 d, some (j, e))
                | none => (s2.tcmEvent 4 d, none)

/-- The slice's index range in ACL partition `p` (R282). -/
def State.aclRange (s : State) (p k : Nat) : Nat × Nat :=
  if s.act (TcmPart.adr p) TcmPart.kind = 0 ∧ s.partOn p then s.equalShare (s.partCapacity p) k else (0, 0)

/-- WRITE or INVALIDATE of an entry: the verify copy first, then each copy's next update slot (R285). -/
def State.tcamPut (s : State) (p i : Nat) (e : TEntry) : State :=
  let s1 := s.putVerified p i e
  { s1 with tcm := { s1.tcm with updates := s.tcm.updates ++ (List.range (s.partCopies p)).map fun c => ⟨p, c, i, false⟩ } }

/-- INVALIDATE clears VALID and nothing else (R285). -/
def State.tcamClear (s : State) (p i : Nat) : State := s.tcamPut p i (s.verified p i).off

/-- The array of copy `c` takes the verify copy's entry (R283). -/
def State.arrayTake (s : State) (p c i : Nat) : State := s.putArray p c i (s.verified p i)

/-- The index offered to a TCAM command, absolute: none when it lies beyond the partition or the slice's
range (R282, R285). -/
def State.tcamIndex (s : State) (by_ : Option Nat) (p i : Nat) : Option Nat :=
  match by_ with
  | none => if s.partOn p && decide (i < s.partCapacity p) then some i else none
  | some k => let r := s.aclRange p k; if i < r.2 then some (r.1 + i) else none

end Sys2Proof.Machine
end

