-- ==== Sys2Proof/Machine/PipeOps.lean ====
section
/-!
DEFINITION. Classification: patterns, keys, lookups, hashing, resolution, sequence recovery and policing
(R231–R247, R265–R271, R288, R318).
-/

namespace Sys2Proof.Machine

/-! ## Patterns and keys (R231–R234) -/

/-- The layer that R229 chooses. -/
def State.chosen (s : State) (r : Nat) (p : Parsed) : Layer := if s.actB (PpCtrl.adr r) PpCtrl.keyInner then p.inner else p.outer

/-- Pattern `n` of role `r` matches (R231). -/
def State.patternHit (s : State) (r i n : Nat) (f : List Byte) (l : Layer) : Bool :=
  let a := PpPattern.adr r n
  let lim := min f.length (s.parseCfg r i).window
  let v := leBytes 16 (s.act a PpPattern.value)
  let m := leBytes 16 (s.act a PpPattern.maskf)
  match l.l4 with
  | none => false
  | some h =>
      s.actB a PpPattern.enable && (List.range 16).all fun k =>
        let mk := m.getD k 0
        let o := h.payload + s.act a PpPattern.offset + k
        mk == 0 || (decide (o < lim) && ((f.getD o 0 ^^^ v.getD k 0) &&& mk) == 0)

/-- PATTERN_CLASS (R232). -/
def State.patternClass (s : State) (r i : Nat) (f : List Byte) (l : Layer) : Nat :=
  (List.range 64).foldl (fun acc n =>
    if s.patternHit r i n f l then acc ||| 2 ^ s.act (PpPattern.adr r n) PpPattern.pclass else acc) 0

/-- PARSE_FLAGS, key bits [38:31] (R233). -/
def Parsed.flags (p : Parsed) : Nat :=
  128 * b2n (p.ending == .exception) + 64 * b2n (p.ending == .limit) + 32 * b2n p.frag + 16 * b2n p.options
    + 8 * b2n p.ext + 4 * b2n (p.tunnels != 0) + 2 * b2n p.sectag.isSome + b2n p.rtag.isSome

/-- Fields packed most significant first, each with its width. -/
def packBits (l : List (Nat × Nat)) : Nat := l.foldl (fun acc (w, v) => acc * 2 ^ w + v % 2 ^ w) 0

/-- The low 32 bits of an address. -/
def low32 (a : List Byte) : Nat := beNat a % 2 ^ 32

/-- BD of a frame (R233). -/
def State.frameBd (s : State) (r i : Nat) (p : Parsed) : Nat :=
  match p.tags.head?, s.actB (PpPort.adr r i) PpPort.bdFromVid with
  | some (_, vid), true => vid
  | _, _ => s.act (PpPort.adr r i) PpPort.bd

/-- KEY320 (R233). -/
def State.key320 (s : State) (r i : Nat) (f : List Byte) (p : Parsed) : Nat :=
  let l := s.chosen r p
  let (pcp, vid) := p.tags.headD (0, 0)
  let ip (g : IpHdr → Nat) : Nat := match l.ip with | some h => g h | none => 0
  let l4 (g : L4Hdr → Nat) : Nat := match l.l4 with | some h => g h | none => 0
  packBits [(6, inPortOf r i), (12, s.frameBd r i p), (12, vid), (3, pcp), (16, l.etype), (48, beAt f 0 6),
    (48, beAt f 6 6), (32, ip fun h => low32 h.sa), (32, ip fun h => low32 h.da), (8, ip (·.proto)),
    (6, ip (·.dscp)), (2, ip (·.ecn)), (16, l4 (·.src)), (16, l4 (·.dst)), (8, l4 (·.flags)),
    (16, s.patternClass r i f l), (8, p.flags), (24, p.vni.getD 0), (3, p.tunnels), (4, s.act (PpPort.adr r i) PpPort.user)]

/-- KEY320 or KEY640 (R233, R234). -/
def State.aclKey (s : State) (r i : Nat) (f : List Byte) (p : Parsed) : Nat :=
  let k := s.key320 r i f p
  if !s.actB (PpCtrl.adr r) PpCtrl.aclWide then k
  else match (s.chosen r p).ip with
    | some h =>
        if h.v6 then k + 2 ^ 320 * packBits [(128, beNat h.sa), (128, beNat h.da), (20, h.flow), (44, 0)] else k
    | none => k

/-! ## Lookups (R235, R253, R281) -/

/-- The lookup result of a role's table of a kind: a miss where it has none (R253). -/
def State.lookupIn (s : State) (r kind : Nat) (key : List Byte) (sets : Bool) (bad : List (Nat × Nat)) :
    State × Option (Nat × Nat × List Byte) :=
  match s.tableOf r kind with
  | none => (s, none)
  | some t =>
      let (s1, x) := s.lookup t key sets bad
      (s1, x.map fun (i, e) => (t, i, e))

/-- The flow key of a layer (R235, R258). -/
def flowKey (bd : Nat) (l : Layer) : Option (Nat × List Byte) :=
  l.ip.map fun h =>
    let (sp, dp) := match l.l4 with | some x => (x.src, x.dst) | none => (0, 0)
    (if h.v6 then tkFLOW6 else tkFLOW4,
     h.sa ++ h.da ++ beBytes 2 sp ++ beBytes 2 dp ++ leBytes 1 h.proto ++ [0] ++ beBytes 2 bd)

/-- The enabled ACL partition of role `r` whose width matches ACL_WIDE (R281). -/
def State.aclPart (s : State) (r : Nat) : Option Nat :=
  (List.range 8).find? fun p =>
    let a := TcmPart.adr p
    s.partOn p && s.act a TcmPart.kind == 0 && s.act a TcmPart.role == r
      && tcamWidth (s.act a TcmPart.width) == (if s.actB (PpCtrl.adr r) PpCtrl.aclWide then 640 else 320)

/-- The LPM partition (R281). -/
def State.lpmPart (s : State) : Option Nat :=
  (List.range 8).find? fun p => s.partOn p && s.act (TcmPart.adr p) TcmPart.kind == 1

/-- A search in a partition, where there is one. -/
def State.searchIn (s : State) (p : Option Nat) (r key : Nat) (late : Bool) (vbad : List (Nat × Nat)) :
    State × Option Nat :=
  match p with
  | none => (s, none)
  | some q =>
      let (s1, x) := s.search q r key late vbad
      (s1, x.map fun (_, e) => e.data)

/-- A late search in partition `p` drops its frame (R283). -/
def State.lateDrop (s : State) (p : Option Nat) (late : Bool) : Bool :=
  late && (match p with | some q => s.actB (TcmPart.adr q) TcmPart.overrunDrop | none => false)

/-- The route key (R281). -/
def routeKey (vrf : Nat) (h : IpHdr) : Nat :=
  packBits [(1, b2n h.v6), (12, vrf), (19, 0), (128, if h.v6 then beNat h.da else beNat h.da * 2 ^ 96)]

/-! ## The action word (R236) -/

def awVerb (w : Nat) : Nat := bits w 63 60
def awTcSet (w : Nat) : Bool := bit w 59
def awTc (w : Nat) : Nat := bits w 58 56
def awTarget (w : Nat) : Nat := bits w 55 40
def awPolicer (w : Nat) : Nat := bits w 39 30
def awDscp (w : Nat) : Option Nat := if bit w 29 then some (bits w 28 23) else none
def awLearnOff (w : Nat) : Bool := bit w 22
def awHashSet (w : Nat) : Nat := bits w 21 20
def awStream (w : Nat) : Nat := bits w 19 10

/-! ## Hash (R245, R246) -/

/-- The Toeplitz function under a 320-bit key, bit by bit from bit `i`. -/
def toeplitz (K : Nat) : List Bool → Nat → Nat → Nat
  | [], _, h => h
  | b :: bs, i, h => toeplitz K bs (i + 1) (if b then h ^^^ (K / 2 ^ (288 - i) % 2 ^ 32) else h)

/-- The bits of bytes, most significant first. -/
def bitsOf (bs : List Byte) : List Bool := bs.flatMap fun b => (List.range 8).map fun i => b.getLsbD (7 - i)

/-- The hash input of a field set (R245).  KEY_INNER chooses the hash's layer in R229 and the set's INNER in R245: the innermost
layer is taken when either says so.  DESIGN CHOICE, log 111. -/
def State.hashInput (s : State) (r set : Nat) (f : List Byte) (p : Parsed) : List Byte :=
  let a := PpHashSet.adr r set
  let m := s.act a PpHashSet.fields
  let l := if s.actB a PpHashSet.inner then p.inner else s.chosen r p
  let ip (k : Nat) (g : IpHdr → List Byte) : List Byte := if bit m k then (match l.ip with | some h => g h | none => []) else []
  let l4 (k : Nat) (g : L4Hdr → List Byte) : List Byte := if bit m k then (match l.l4 with | some h => g h | none => []) else []
  ip 0 (·.sa) ++ ip 1 (·.da) ++ l4 2 (fun h => beBytes 2 h.src) ++ l4 3 (fun h => beBytes 2 h.dst)
    ++ ip 4 (fun h => leBytes 1 h.proto) ++ (if bit m 5 then slice f 6 6 else []) ++ (if bit m 6 then slice f 0 6 else [])
    ++ (match p.vni with | some v => if bit m 7 then beBytes 3 v else [] | none => [])
    ++ ip 8 (fun h => if h.v6 then beBytes 3 h.flow else [])

/-- PP_HASH_KEY[k] as 320 bits. -/
def State.hashKey (s : State) (k : Nat) : Nat :=
  beNat ((List.range 10).flatMap fun w => leBytes 4 (s.inForce (PpHashKey.adr 0 k w)).toNat)

/-- The hash of a frame under slice `k`'s key. -/
def State.hashOf (s : State) (r set k : Nat) (f : List Byte) (p : Parsed) : Nat :=
  toeplitz (s.hashKey k) (bitsOf (s.hashInput r set f p)) 0 0

/-- Indirection entry `j` of slice `k` (R246). -/
def State.indirEntry (s : State) (k j : Nat) : Nat := (sget 0 s.pp.indir (k * 2048 + j)).toNat

/-! ## Resolution (R237–R240, R269–R271, R288) -/

/-- What a frame carries through resolution. -/
structure Head where
  role : Nat
  input : Nat
  inPort : Nat
  bd : Nat
  tc : Nat
  frame : List Byte
  parsed : Parsed
  dscp : Option Nat
  deriving DecidableEq, Repr

/-- The edit of a frame that leaves unedited but for its arrival's SecTAG and the action word's DSCP (R249,
R464). -/
def Head.edit (h : Head) : Edit :=
  { l3 := h.parsed.outer.ip.map fun x => (x.off, x.v6), dscp := h.dscp, tagOp := 0, tagVid := 0, tagPcp := h.tc
    tagAt := h.parsed.tagAt, tagEnd := h.parsed.tagEnd, rtag := none, route := none, popAt := none, secAt := h.parsed.sectag, ce := false }

/-- A copy toward port `p` in the frame's class (R295). -/
def State.toPort (s : State) (h : Head) (p reason : Nat) (e : Edit) : Nat × Nat × Nat × Edit :=
  (p, s.act (TmPort.adr p) TmPort.defq + h.tc, reason, e)

/-- A copy toward receive queue `q` (R295). -/
def toRx (q reason : Nat) (e : Edit) : Nat × Nat × Nat × Edit := (24, 12288 + q % 4096, reason, e)

/-- A route by next hop `n` (R288): the copies, or a drop with its counter. -/
def State.nextHop (s : State) (h : Head) (n : Nat) : State × List (Nat × Nat × Nat × Edit) :=
  let a := TcmNexthop.adr n
  let st := TcmRoleStat.adr h.role
  let old := match h.parsed.outer.ip with | some x => decide (x.ttl ≤ 1) | none => false
  if !s.actB a TcmNexthop.valid then (s.bump st TcmRoleStat.routeMiss, [])
  else if s.actB a TcmNexthop.decTtl && old then (s.bump st TcmRoleStat.ttlDrop, [])
  else
    let p := s.act a TcmNexthop.port
    let e := { h.edit with
      tagOp := s.act a TcmNexthop.tagOp, tagVid := s.act a TcmNexthop.vid
      route := some (leBytes 4 (s.act a TcmNexthop.dmacLo) ++ leBytes 2 (s.act a TcmNexthop.dmacHi), s.actB a TcmNexthop.decTtl) }
    (s, [s.toPort h p 0 e])

/-- Routing by the LPM result (R288). -/
def State.routeBy (s : State) (h : Head) (lpm : Option Nat) : State × List (Nat × Nat × Nat × Edit) :=
  match lpm with
  | some d => if bits d 63 62 = 0 then s.nextHop h (bits d 13 0) else (s.bump (TcmRoleStat.adr h.role) TcmRoleStat.routeMiss, [])
  | none => (s.bump (TcmRoleStat.adr h.role) TcmRoleStat.routeMiss, [])

/-- One copy per port bit of a mask except IN_PORT, bit 24 to the BD's HOST_QUEUE (R269, R270). -/
def State.maskCopies (s : State) (h : Head) (m : Nat) : List (Nat × Nat × Nat × Edit) :=
  ((List.range 24).filter fun p => bit m p && p != h.inPort).map (fun p => s.toPort h p 0 h.edit)
    ++ (if bit m 24 && h.inPort != 24 then [toRx (s.act (EmtBd.adr h.bd) EmtBd.hostQueue) 7 h.edit] else [])

/-- Bridging by the bridge result (R269–R271). -/
def State.bridgeBy (s : State) (h : Head) (hit : Option (List Byte)) : State × List (Nat × Nat × Nat × Edit) :=
  let b := EmtBd.adr h.bd
  let m := s.act b EmtBd.members
  let group := bit (beAt h.frame 0 1) 0
  if !bit m h.inPort then (s, [])
  else match hit with
    | none => if group ∨ s.actB b EmtBd.floodUc then (s, s.maskCopies h m) else (s, [])
    | some e =>
        let w := leAt e 8 4
        let d := w % 2 ^ 29
        let t := leAt e 12 2
        let ed := { h.edit with tagOp := t / 16384, tagVid := t % 4096 }
        match w / 2 ^ 29 with
        | 0 => if d % 32 = h.inPort then (s, []) else (s, [s.toPort h (d % 32) 0 ed])
        | 1 =>
            let g := bits d 25 16
            let a := EmtSeqgen.adr h.role g
            let q := s.act a EmtSeqgen.next
            let ed' := if g = 0 then ed else { ed with rtag := some q }
            let s1 := if g = 0 then s else s.set a EmtSeqgen.next (q + 1)
            (s1, [s.toPort h (d % 32) 0 ed', s.toPort h (bits d 12 8) 0 ed'])
        | 2 => (s, [toRx (d % 4096) 8 h.edit])
        | 3 => (s, s.maskCopies h d)
        | _ => (s, [])

/-- SPREAD over slice `k`'s indirection table (R245, R246). -/
def State.spreadBy (s : State) (h : Head) (k hash : Nat) : State × List (Nat × Nat × Nat × Edit) :=
  let e := s.indirEntry k (hash % 2048)
  let i := e % 16384
  match e / 16384 with
  | 0 => (s, [toRx i 9 h.edit])
  | 1 => (s, [s.toPort h (i % 32) 9 h.edit])
  | 2 => s.nextHop h i
  | _ => (s, [])

/-- The lookup results of a frame. -/
structure Looked where
  bridge : Option (List Byte)
  acl : Option Nat
  flow : Option Nat
  /-- The route lookup was issued, and its result. -/
  routed : Bool
  route : Option Nat
  /-- A search was late in a partition with OVERRUN_DROP = 1. -/
  overrun : Bool
  deriving DecidableEq, Repr

/-- Routed or bridged (R237, orders 6 and 7). -/
def State.forward (s : State) (h : Head) (k : Looked) : State × List (Nat × Nat × Nat × Edit) :=
  if k.routed then s.routeBy h k.route else s.bridgeBy h k.bridge

/-- The receive queue of trap class `c`: QUEUE within the share of TRAP_SLICE (R240; log 27). -/
def State.trapQueue (s : State) (h : Head) (c : Nat) : Nat :=
  (s.share .rxq (s.act (PpPort.adr h.role h.input) PpPort.trapSlice)).1 + s.act (PpTrap.adr h.role c) PpTrap.queue

/-- Trap class `c` is enabled. -/
def State.trapOn (s : State) (h : Head) (c : Nat) : Bool := s.actB (PpTrap.adr h.role c) PpTrap.enable

/-- A governing action word (R236): the fate of the frame, and whether it is to be forwarded, which a frame that bridging,
routing or spreading drops is not (R243). -/
def State.byWord (s : State) (h : Head) (k : Looked) (w hash : Nat) : State × Fate × Bool :=
  let t := awTarget w
  match awVerb w with
  | 2 => (s, .copies [toRx t 5 h.edit], false)
  | 3 => let (s1, c) := s.forward h k; (s1, .copies (c ++ [toRx t 6 h.edit]), !c.isEmpty)
  | 4 => (s, .copies [s.toPort h t 0 h.edit], true)
  | 5 => (s, .copies [(s.act (TmQueue.adr t) TmQueue.port, t, 0, h.edit)], true)
  | 6 => let (s1, c) := s.spreadBy h (t % 256) hash; (s1, .copies c, !c.isEmpty)
  | 7 => if h.role < 2 then (s, .cxe (some (t % 64)), false) else (s, .copies [], false)
  | _ => (s, .copies [], false)

/-- The fate of a frame that is not under fixed steering (R237): with it, whether it is forwarded, and
whether order 1 dropped it.  A late search in a partition with OVERRUN_DROP drops the frame (R283). -/
def State.resolve (s : State) (h : Head) (k : Looked) (hash : Nat) : State × Fate × Bool × Bool :=
  let p := h.parsed
  let act := match p.ending with
    | .exception => s.act (PpCtrl.adr h.role) PpCtrl.excAction
    | .limit => s.act (PpCtrl.adr h.role) PpCtrl.truncAction
    | .normal => 0
  let word := match k.acl with
    | some w => if awVerb w = 0 then none else some w
    | none => match k.flow with
      | some w => if awVerb w = 0 then none else some w
      | none => none
  if act = 1 then (s, .copies [], false, true)
  else if k.overrun then (s, .copies [], false, false)
  else if act = 2 then
    if s.trapOn h 3 then (s, .copies [toRx (s.trapQueue h 3) 4 h.edit], false, false) else (s, .copies [], false, true)
  else match word with
    | some w => let (s1, f, fwd) := s.byWord h k w hash; (s1, f, fwd, false)
    | none =>
        if p.ptp.isSome ∧ s.trapOn h 0 then (s, .copies [toRx (s.trapQueue h 0) 1 h.edit], false, false)
        else if p.lldp ∧ s.trapOn h 1 then (s, .copies [toRx (s.trapQueue h 1) 2 h.edit], false, false)
        else
          let (s1, c) := s.forward h k
          let extra := if p.arp ∧ s.trapOn h 2 then [toRx (s.trapQueue h 2) 3 h.edit] else []
          (s1, .copies (c ++ extra), !c.isEmpty, false)

/-! ## Sequence recovery (R243) -/

/-- A frame of a recovered stream passes the vector recovery function: whether it passes, and whether its
R-tag is removed. -/
def State.recoverSeq (s : State) (r i e : Nat) (p : Parsed) : State × Bool × Bool :=
  let a := PpSeqrec.adr r e
  let hk := r * 1024 + e
  let pass (s : State) : State :=
    let s1 := (s.bump a PpSeqrec.passed).set a PpSeqrec.fresh 0
    s1
  let rogue : State × Bool × Bool := (s.bump a PpSeqrec.rogue, false, false)
  let pop := s.actB a PpSeqrec.pop
  match p.rtag with
  | none => rogue
  | some (_, q) =>
      if !bit (s.act a PpSeqrec.members) i then rogue
      else
        let hist := s.act a PpSeqrec.hist
        let old := sget 0 s.pp.hist hk
        let setH (s : State) (v : Nat) : State := { s with pp := { s.pp with hist := sput 0 s.pp.hist hk (v % 2 ^ hist) } }
        if s.getB a PpSeqrec.fresh then
          (pass (setH (s.set a PpSeqrec.recovSeq q) 1), true, pop)
        else
          let d := toSigned 16 (((q : Int) - s.get a PpSeqrec.recovSeq) % (2 ^ 16 : Nat)).toNat
          if hist ≤ d.natAbs then rogue
          else if 0 < d then (pass (setH (s.set a PpSeqrec.recovSeq q) (old * 2 ^ d.natAbs + 1)), true, pop)
          else if bit old d.natAbs then (s.bump a PpSeqrec.duplicate, false, false)
          else (pass (setH s (old ||| 2 ^ d.natAbs)), true, pop)

/-! ## Policing (R241, R318, R319) -/

/-- Tokens that `rate` kb/s give in `dt` ns, in units of 10^-6 bit. -/
def tokensIn (rate dt : Nat) : Nat := rate * dt

/-- Bytes in units of 10^-6 bit. -/
def byteTokens (n : Nat) : Nat := n * 8 * 10 ^ 6

/-- Policer `n` of role `r` meters a frame of `len` bytes: whether it goes on, and whether as yellow. -/
def State.police (s : State) (r n len : Nat) : State × Bool × Bool :=
  let a := TmPolicer.adr r n
  if n = 0 then (s, true, false)
  else if !s.actB a TmPolicer.enable then (s.bump a TmPolicer.green, true, false)
  else
    let key := r * 1024 + n
    let cbs := byteTokens (s.act a TmPolicer.cbs)
    let pbs := byteTokens (s.act a TmPolicer.pbs)
    let now := s.ranNs
    let b := sget ⟨cbs, pbs, now⟩ s.pp.buckets key
    let dt := now - b.last
    let tc := min cbs (b.tc + tokensIn (s.act a TmPolicer.cir) dt)
    let tp := min pbs (b.tp + tokensIn (s.act a TmPolicer.pir) dt)
    let need := byteTokens len
    let put (x : Bucket) : State := { s with pp := { s.pp with buckets := sins s.pp.buckets key x } }
    if tp < need then
      ((put ⟨tc, tp, now⟩).bump a TmPolicer.red, s.actB a TmPolicer.redAct, true)
    else if tc < need then
      ((put ⟨tc, tp - need, now⟩).bump a TmPolicer.yellow, !s.actB a TmPolicer.yellowAct, true)
    else ((put ⟨tc - need, tp - need, now⟩).bump a TmPolicer.green, true, false)

/-- Tc is set to CBS and Tp to PBS (R319). -/
def State.resetPolicer (s : State) (key : Nat) : State :=
  let a := TmPolicer.adr (key / 1024) (key % 1024)
  let b : Bucket := ⟨byteTokens (s.act a TmPolicer.cbs), byteTokens (s.act a TmPolicer.pbs), s.ranNs⟩
  { s with pp := { s.pp with buckets := sins s.pp.buckets key b } }

/-! ## Learning (R265) -/

/-- A learn or move request of a frame enters its table's queue (R265, R267). -/
def State.learnFrom (s : State) (h : Head) (id : Nat) (fcs : Option Bool) (off dropped1 : Bool)
    (found : Option (Nat × Nat × List Byte)) (key : List Byte) : State :=
  let sa := slice h.frame 6 6
  let ok := s.actB (EmtBd.adr h.bd) EmtBd.learn && !off && !(sa.headD 0).getLsbD 0 && !allZero sa && h.inPort != 24
    && !dropped1 && fcs != some false
  let put (t : Nat) (mv : Bool) : State :=
    if s.act (EmtTable.adr t) EmtTable.access = 1 then s
    else if 64 ≤ (s.tab t).learn.length then (s.bump (EmtTable.adr t) EmtTable.learnDrop).emtEvent 5 (s.tabDetail t)
    else s.modTab t fun m => { m with learn := m.learn ++ [⟨key, h.inPort, id, fcs == some true, mv⟩] }
  if !ok then s
  else match found with
    | some (t, _, e) => if learned e ∧ leAt e 8 4 ≠ h.inPort then put t true else s
    | none => match s.tableOf h.role tkBRIDGE with
      | some t => put t false
      | none => s

/-! ## What takes effect at head in (R221, R232, R247, R252, R319) -/

/-- The bits that take effect at a head in of input `i` of role `r`. -/
def headInMask (r i : Nat) : Nat → Word :=
  boundaryMask fun x e =>
    x == .headIn &&
      (if e / 0x100000 = 6 + r then
         let d := e % 0x100000
         if 0x1100 ≤ d ∧ d < 0x1180 then d == 0x1100 + 0x10 * i else true
       else if 0xDC0000 ≤ e ∧ e < 0xDE0000 then (e - 0xDC0000) / 0x8000 == r
       else e == TmPort.adr (inPortOf r i))

/-- The bits of the patterns whose CTRL word has been written. -/
def patMask (r : Nat) (due : List Nat) : Nat → Word :=
  boundaryMask fun x e => x == .pattern && e / 0x100000 == 6 + r && due.contains (r * 64 + (e % 0x100000 - 0x40000) / 0x40)

/-- The bits of the hash keys whose word 9 has been written. -/
def keyMask (due : List Nat) : Nat → Word :=
  boundaryMask fun x e => x == .hashKey && due.contains ((e % 0x100000 - 0x50000) / 0x40)

/-- Settings take effect at a head in. -/
def State.headLatch (s : State) (r i : Nat) : State :=
  let s1 := ((s.latchMask (headInMask r i)).latchMask (patMask r s.pp.patDue)).latchMask (keyMask s.pp.keyDue)
  let due := s1.tm.policerDue.filter fun k => k / 1024 == r
  let s2 := due.foldl State.resetPolicer s1
  { s2 with
    pp := { s2.pp with patDue := s2.pp.patDue.filter (fun k => k / 64 != r), keyDue := [] }
    tm := { s2.tm with policerDue := s2.tm.policerDue.filter fun k => k / 1024 != r } }

end Sys2Proof.Machine
end

