-- ==== Sys2Proof/Machine/TmOps.lean ====
section
/-!
DEFINITION. The traffic manager: egress edits, lengths, shapers, gates, fair queuing and deficit round robin
(R249, R271, R294–R319).
-/

namespace Sys2Proof.Machine

/-! ## Egress edits (R120, R249, R270, R271, R288, R302) -/

/-- At an offset, bytes removed and bytes inserted. -/
structure Splice where
  off : Nat
  del : Nat
  ins : List Byte
  deriving DecidableEq, Repr

/-- Puts a splice after those whose offset is at least its own. -/
def insertSplice (x : Splice) : List Splice → List Splice
  | [] => [x]
  | y :: ys => if y.off < x.off then x :: y :: ys else y :: insertSplice x ys

/-- Applies splices, the last offset first. -/
def applySplices (f : List Byte) (l : List Splice) : List Byte :=
  (l.foldl (fun acc x => insertSplice x acc) []).foldl (fun f x => f.take x.off ++ x.ins ++ f.drop (x.off + x.del)) f

/-- The frame with the IPv4 header checksum at `o` recomputed. -/
def fixChecksum (f : List Byte) (o : Nat) : List Byte :=
  let n := beAt f o 1 % 16 * 4
  let z := patch f (o + 10) [0, 0]
  patch f (o + 10) (beBytes 2 (65535 - fold16 (onesSum (slice z o n))))

/-- The traffic class byte of an IP header with its DSCP and ECN replaced. -/
def putTos (f : List Byte) (o : Nat) (v6 : Bool) (dscp : Option Nat) (ce : Bool) : List Byte :=
  let old := if v6 then beAt f o 2 / 16 % 256 else beAt f (o + 1) 1
  let w := (dscp.getD (old / 4)) * 4 + (if ce then 3 else old % 4)
  if v6 then patch f o (beBytes 2 (beAt f o 2 / 4096 * 4096 + w * 16 + beAt f o 2 % 16)) else patch f (o + 1) (beBytes 1 w)

/-- The edits that change bytes in place: DSCP, CE, addresses and TTL; `sa` is the port's address. -/
def Edit.inPlace (e : Edit) (sa : Nat) (f : List Byte) : List Byte :=
  let f1 := match e.route with
    | some (da, _) => patch f 0 (da ++ beBytes 6 sa)
    | none => f
  match e.l3 with
  | none => f1
  | some (o, v6) =>
      let tos := e.dscp.isSome || e.ce
      let f2 := if tos then putTos f1 o v6 e.dscp e.ce else f1
      let dec := match e.route with | some (_, d) => d | none => false
      let t := if v6 then o + 7 else o + 8
      let f3 := if dec then patch f2 t (beBytes 1 (beAt f2 t 1 - 1)) else f2
      if !v6 && (tos || dec) then fixChecksum f3 o else f3

/-- A VLAN C-tag. -/
def cTag (pcp vid : Nat) : List Byte := [0x81#8, 0x00#8] ++ beBytes 2 (pcp * 8192 + vid)

/-- The edits that add and remove bytes. -/
def Edit.splices (e : Edit) (f : List Byte) : List Splice :=
  (match e.secAt with | some (o, n) => [⟨o, n, []⟩, ⟨icvAt f o n, 16, []⟩] | none => []) ++
  (match e.popAt with | some o => [⟨o, 6, []⟩] | none => []) ++
  (match e.rtag with | some q => [⟨e.tagEnd, 0, [0xF1#8, 0xC1#8, 0, 0] ++ beBytes 2 q⟩] | none => []) ++
  (match e.tagOp, e.tagAt with
   | 1, some o => [⟨o, 4, []⟩]
   | 2, _ => [⟨12, 0, cTag e.tagPcp e.tagVid⟩]
   | _, _ => [])

/-- The outer VID is replaced (TAG_OP 3). -/
def Edit.replaceVid (e : Edit) (f : List Byte) : List Byte :=
  match e.tagOp, e.tagAt with
  | 3, some o => patch f (o + 2) (beBytes 2 (beAt f (o + 2) 2 / 4096 * 4096 + e.tagVid % 4096))
  | _, _ => f

/-- A frame as it leaves egress toward port `p`.  Toward the host only an R-tag and a SecTAG are removed: no
egress pipeline lies on that way (log 29). -/
def State.egress (s : State) (p : Nat) (f : TmFrame) : List Byte :=
  let e := if p < 24 then f.edit
    else { f.edit with dscp := none, ce := false, route := none, rtag := none, tagOp := 0 }
  applySplices (e.replaceVid (e.inPlace (s.portMac p) f.bytes)) (e.splices f.bytes)

/-- The PTP message of a frame: its offset, the offset of its UDP checksum, and whether it is over IPv6 (R119). -/
def ptpPos (f : List Byte) : Option (Nat × Option Nat × Bool) :=
  let o := etherAt none f 2 12
  let t := beAt f o 2
  let udp (l4 : Nat) (v6 : Bool) : Option (Nat × Option Nat × Bool) :=
    if beAt f (l4 + 2) 2 = 319 ∨ beAt f (l4 + 2) 2 = 320 then some (l4 + 8, some (l4 + 6), v6) else none
  if t = 0x88F7 then some (o + 2, none, false)
  else if t = 0x0800 ∧ beAt f (o + 11) 1 = 17 then udp (o + 2 + beAt f (o + 2) 1 % 16 * 4) false
  else if t = 0x86DD ∧ beAt f (o + 8) 1 = 17 then udp (o + 42) true
  else none

/-- The insertions of a one-step Sync (R120): `u` is the egress stamp in 1/16 ns of its domain's time. -/
def oneStepEdit (f : List Byte) (o : Nat) (ck : Option Nat) (u : Nat) : List Byte :=
  let ns := u / 16
  let f1 := patch f (o + 34) (beBytes 6 (ns / 1000000000) ++ beBytes 4 (ns % 1000000000))
  let f2 := patch f1 (o + 8) (beBytes 8 ((beAt f1 (o + 8) 8 + u % 16 * 4096) % 2 ^ 64))
  match ck with
  | some c => patch f2 c [0, 0]
  | none => f2

/-- A frame leaves port `p` with the stamp and the one-step insertion that its descriptor asks for (R112, R116,
R117, R120). -/
def State.leave (s : State) (p : Nat) (f : TmFrame) : State :=
  let g := s.egress p f
  let u := s.portStamp p true
  let pos := ptpPos g
  let dom := pos.bind fun (o, _, _) => if beAt g o 1 % 16 < 4 then s.ptpDomain (beAt g (o + 4) 1) else none
  let (sc, v) : Nat × Nat := match dom with | some d => (d + 1, s.domainStamp d u) | none => (0, u)
  let s1 := match f.stampTag with | some t => s.txStamp p t sc v | none => s
  let g1 := match pos, dom with
    | some (o, ck, v6), some _ => if f.oneStep ∧ p < 16 ∧ !v6 ∧ beAt g o 1 % 16 = 0 then oneStepEdit g o ck v else g
    | _, _ => g
  (s1.sendFrame p g1).tickFree

/-! ## Queues (R294–R297, R344–R346) -/

/-- The frames of a queue. -/
def State.tmq (s : State) (q : Nat) : List TmFrame := sget [] s.tm.queues q

/-- Replaces them. -/
def State.setTmq (s : State) (q : Nat) (l : List TmFrame) : State :=
  { s with tm := { s.tm with queues := sput [] s.tm.queues q l } }

/-- Depth of a queue in cells. -/
def State.tmDepth (s : State) (q : Nat) : Nat := ((s.tmq q).map fun f => cellsOf f.bytes.length).sum

/-- PORT of a queue: 24 for a host-port queue (R294). -/
def State.tmPort (s : State) (q : Nat) : Nat := if 12288 ≤ q then 24 else s.act (TmQueue.adr q) TmQueue.port

/-- The port queues of slice `k` in RUN mode (R345). -/
def State.tmShare (s : State) (k : Nat) : Nat × Nat := s.equalShare 12288 k

/-- The slice that owns a queue (R324, R345, R346). -/
def State.tmSlice (s : State) (q : Nat) : Nat :=
  if 12288 ≤ q then (s.ownerOf .rxq (q - 12288)).getD 0
  else if s.service && s.tm.sliceSet.contains q then s.act (TmQueue.adr q) TmQueue.slice
  else (ownerFrom s.tmShare q s.owners 0).getD 0

/-- Port `p` carries an enabled rope (R297). -/
def State.carriesRope (s : State) (p : Nat) : Bool :=
  decide (p < 16) && (List.range 16).any fun r => ropeOn s.inForce r && (s.ropeStations s.inForce r).any (stnOnPort s.inForce p)

/-- The class in which a queue is served (R297). -/
def State.tmClass (s : State) (q : Nat) : Nat :=
  let c := s.act (TmQueue.adr q) TmQueue.tc
  if c = 7 ∧ s.carriesRope (s.tmPort q) then 6 else c

/-- PORT, TC and SLICE of a queue take effect while it is disabled and empty (R324). -/
def State.queueIdle (s : State) (q : Nat) : State :=
  if !s.actB (TmQueue.adr q) TmQueue.enable && (s.tmq q).isEmpty then
    s.latchB fun x e => x == .queueIdle && e == TmQueue.adr q
  else s

/-! ## Lengths (R298, R303, R313) -/

/-- The length of a frame as it leaves egress, with its FCS and what MACsec adds (R303, R466). -/
def State.outLen (s : State) (f : TmFrame) : Nat :=
  let g := s.egress f.port f
  g.length + 4 + (if isEapol g then 0 else s.msecBytes f.port)

/-- OVERHEAD of a port: derived, or the expert field (R303). -/
def State.overhead (s : State) (p : Nat) : Nat :=
  if s.expert 13 then s.act (TmXPort.adr p) TmXPort.overhead else if p < 24 then 20 else 0

/-- The charged length of a frame (R303). -/
def State.charged (s : State) (f : TmFrame) : Nat :=
  let z := (s.outLen f : Int) + s.overhead f.port + toSigned 7 (s.act (TmQueue.adr f.queue) TmQueue.adjust)
  if z < 1 then 1 else z.toNat

/-- The guard span of a frame of class `c` in bytes (R313). -/
def State.guardBytes (s : State) (c : Nat) (f : TmFrame) : Nat :=
  let wire := s.outLen f + 20
  let a := TmPort.adr f.port
  if s.get a TmPort.preemptState = 2 ∧ bit (s.act a TmPort.preemptable) c ∧ c < 7 then
    min wire ((s.act a TmPort.addFrag + 1) * 64 + 83)
  else wire

/-- Bytes as time on a port, in ps, rounded up. -/
def State.bytesPs (s : State) (p n : Nat) : Nat := (n * 8000000 + s.portRate p - 1) / s.portRate p

/-! ## Shapers (R309, R310) -/

/-- A shaper: the addresses of its SHAPER_CFG and RATE words, and its bucket. -/
structure Shaper where
  cfg : Nat
  rate : Nat
  bucket : Tokens
  deriving DecidableEq, Repr

/-- The shaper of a class, and that of a queue. -/
def State.classShaper (s : State) (p c : Nat) : Shaper :=
  ⟨TmClass.adr p c, s.act (TmClass.adr p c) TmClass.rate, sget ⟨0, 0⟩ s.tm.classTokens (p * 8 + c)⟩
def State.queueShaper (s : State) (q : Nat) : Shaper :=
  ⟨TmQueue.adr q + 0x10, s.act (TmQueue.adr q) TmQueue.rate, sget ⟨0, 0⟩ s.tm.queueTokens q⟩

/-- ENABLE, RESET_TO and BURST of a SHAPER_CFG word, which the layout of TM_CLASS +0x00 gives. -/
def State.shOn (s : State) (h : Shaper) : Bool := s.actB h.cfg TmClass.enable
def State.shZero (s : State) (h : Shaper) : Bool := s.actB h.cfg TmClass.resetTo
def State.shBurst (s : State) (h : Shaper) : Int := (byteTokens (s.act h.cfg TmClass.burst) : Nat)

/-- TOKENS now, in units of 10^-6 bit. -/
def State.tokens (s : State) (h : Shaper) : Int :=
  min (s.shBurst h) (h.bucket.level + (tokensIn h.rate (s.ranNs - h.bucket.last) : Nat))

/-- The shaper is eligible (R309). -/
def State.shOk (s : State) (h : Shaper) : Bool := !s.shOn h || decide (0 < s.tokens h)

/-- TOKENS after a frame of `n` charged bytes. -/
def State.charge (s : State) (h : Shaper) (n : Nat) : Tokens := ⟨s.tokens h - (byteTokens n : Nat), s.ranNs⟩

/-- TOKENS when the settings take effect (R310). -/
def State.shReset (s : State) (h : Shaper) : Tokens := ⟨if s.shZero h then 0 else s.shBurst h, s.ranNs⟩

/-- A class's shaper, or a queue's, takes a new bucket; TOKENS of a class shows whole bytes. -/
def State.putClassTokens (s : State) (p c : Nat) (t : Tokens) : State :=
  { s with tm := { s.tm with classTokens := sins s.tm.classTokens (p * 8 + c) t } }
def State.putQueueTokens (s : State) (q : Nat) (t : Tokens) : State :=
  { s with tm := { s.tm with queueTokens := sins s.tm.queueTokens q t } }

/-- A cycle frame may start on port `p`, whose protected class its class shaper serves too (R297, R304, R309). -/
def State.cycleOk (s : State) (p : Nat) : Bool := s.shOk (s.classShaper p 7)

/-- The class shaper of the cycle queue is charged for a frame of `f` (R303, R309). -/
def State.cycleCharge (s : State) (p : Nat) (f : List Byte) : State :=
  let h := s.classShaper p 7
  if s.shOn h then s.putClassTokens p 7 (s.charge h (f.length + 4 + s.msecBytes p + s.overhead p)) else s

/-- The shapers that `p` picks of those written last take their settings, and TOKENS with them (R310). -/
def State.shapersTake (s : State) (p : Nat → Bool) : State :=
  let s1 := (s.tm.shaperDue.filter p).foldl (fun s k =>
    if k < 256 then s.putClassTokens (k / 8) (k % 8) (s.shReset (s.classShaper (k / 8) (k % 8)))
    else s.putQueueTokens (k - 256) (s.shReset (s.queueShaper (k - 256)))) s
  { s1 with tm := { s1.tm with shaperDue := s1.tm.shaperDue.filter fun k => !p k } }

/-- TOKENS of a class as its register reads: signed bytes; a class that is not shaped keeps none. -/
def State.tokenWord (s : State) (p c : Nat) : Word :=
  let h := s.classShaper p c
  if s.shOn h then BitVec.ofInt 32 (s.tokens h / 8000000) else 0

/-! ## Gates and protected windows (R311–R316) -/

/-- Segments of one cycle of the active list from entry `e` on: start and end in ns, and the open bits. -/
def gclSegs (ent : Nat → Nat × Nat) (len cycle : Nat) : Nat → Nat → Nat → List (Nat × Nat × Nat)
  | 0, _, _ => []
  | fuel + 1, e, t =>
      if len ≤ e ∨ cycle ≤ t then []
      else
        let (g, n) := ent e
        let stop := if e + 1 = len then cycle else min cycle (t + n * 8)
        (t, stop, g) :: gclSegs ent len cycle fuel (e + 1) stop

/-- CYCLE of the active list in ns. -/
def State.gclCycle (s : State) (p : Nat) : Nat := s.act (TmGclCtrl.adr p) TmGclCtrl.cycle * 8

/-- The segments of the active list of a drive port; none when no list is in force. -/
def State.gcl (s : State) (p : Nat) : List (Nat × Nat × Nat) :=
  let a := TmGclCtrl.adr p
  if p < 16 ∧ s.actB a TmGclCtrl.enable then
    gclSegs (fun e => (s.get (TmGclActive.adr p e) TmGclActive.gates, s.get (TmGclActive.adr p e) TmGclActive.interval))
      (s.act a TmGclCtrl.length) (s.gclCycle p) 1024 0 0
  else []

/-- The closings of class `c` on port `p`, as repeating spans in ns: start, length, period. -/
def State.closings (s : State) (p c : Nat) : List (Nat × Nat × Nat) :=
  let base := s.act (TmGclCtrl.adr p) TmGclCtrl.base
  ((s.gcl p).filter fun x => !bit x.2.2 c).map (fun (a, b, _) => (base + a, b - a, s.gclCycle p))
    ++ (if p < 16 then s.windowsNow p else [])

/-- ps from instant `t` to the next start of a repeating span, or none when `t` lies inside it. -/
def spanNext (t : Int) (x : Nat × Nat × Nat) : Option Nat :=
  let per := x.2.2 * 1000
  let rel := ((t - (x.1 * 1000 : Nat)) % (per : Int)).toNat
  if rel < x.2.1 * 1000 then none else some (per - rel)

/-- The fixed path from the start of a decision to the balls in ps, at nominal frequencies (R313, R322; log 30). -/
def State.fixedPath (s : State) (p : Nat) : Int :=
  let port : Nat := if p < 16 then
      (match s.act (Dpx.adr p) Dpx.ptype with | 0 => 16000 | 1 => 6400 | 2 => 25600 | 4 => 5120 | _ => 12800)
    else 1506
  65600 + port + s.corrTx p * 125 / 2

/-- The gate of class `c` lets a frame with this guard span start now (R313). -/
def State.gateOk (s : State) (p c spanPs : Nat) : Bool :=
  let t : Int := (s.shadow .tm * 1000 / nsUnit : Nat) + s.fixedPath p
  (s.closings p c).all fun x => match spanNext t x with
    | none => false
    | some d => decide (spanPs ≤ d)

/-- Puts a span where it belongs by its start. -/
def insertSpan (x : Nat × Nat) : List (Nat × Nat) → List (Nat × Nat)
  | [] => [x]
  | y :: ys => if x.1 ≤ y.1 then x :: y :: ys else y :: insertSpan x ys

/-- The longest gap between sorted spans, from instant `t` on. -/
def longestGap : List (Nat × Nat) → Nat → Nat → Nat
  | [], _, best => best
  | (a, n) :: l, t, best => longestGap l (max t (a + n)) (max best (a - t))

/-- The longest run for which a class gate stays open in ns; none when it never closes (R314).  It is found over
two common periods of the closings. -/
def State.longestRun (s : State) (p c : Nat) : Option Nat :=
  match s.closings p c with
  | [] => none
  | l =>
      let h := l.foldl (fun acc x => Nat.lcm acc x.2.2) 1
      let spans := l.flatMap fun (a, n, per) => (List.range (2 * h / per)).map fun k => (a % per + k * per, n)
      let sorted := spans.foldl (fun acc x => insertSpan x acc) []
      some (longestGap sorted ((sorted.map (·.1)).headD 0) 0)

/-! ## Fair queuing and deficit round robin (R305–R307) -/

/-- A class of a port. -/
def State.cls (s : State) (p c : Nat) : ClassSt := sget ⟨0, []⟩ s.tm.classes (p * 8 + c)

/-- Replaces it. -/
def State.setCls (s : State) (p c : Nat) (x : ClassSt) : State :=
  { s with tm := { s.tm with classes := sins s.tm.classes (p * 8 + c) x } }

/-- Wk: 1 in RUN mode (R324). -/
def State.weight (s : State) (k : Nat) : Nat := if s.service then s.act (TmSliceWeight.adr k) TmSliceWeight.weight else 1

/-- QUANTUM of a queue in bytes, as a visit of the pointer takes it: a written value counts from the next visit on
(R306, R324). -/
def State.quantum (s : State) (q : Nat) : Int := (s.get (TmQueue.adr q) TmQueue.quantum * 64 : Nat)

/-- Charged length of a queue's head frame. -/
def State.headLen (s : State) (q : Nat) : Int := match s.tmq q with | f :: _ => (s.charged f : Nat) | [] => 0

/-- One round of the pointer: the queue to serve with the ring as it then stands, its deficit already reduced. -/
def drr (len quantum : Nat → Int) (elig : Nat → Bool) : Nat → List (Nat × Int) → Bool → Option (Nat × List (Nat × Int))
  | 0, _, _ => none
  | _ + 1, [], _ => none
  | fuel + 1, (q, d) :: rest, gained =>
      if !elig q then drr len quantum elig fuel (rest ++ [(q, d)]) false
      else
        let d1 := if gained then d else d + quantum q
        if len q ≤ d1 then some (q, (q, d1 - len q) :: rest)
        else drr len quantum elig fuel (rest ++ [(q, d1)]) false

/-- Rounds that always reach a queue that can be served: a frame is at most 16,384 B and a quantum at least 64 B. -/
def drrFuel (n : Nat) : Nat := 300 * (n + 1)

/-- What deficit round robin serves next in a slice. -/
def State.drrNext (s : State) (elig : Nat → Bool) (x : ClassSlice) : Option (Nat × List (Nat × Int)) :=
  if x.ring.any fun y => elig y.1 then drr s.headLen s.quantum elig (drrFuel x.ring.length) x.ring x.gained else none

/-- The finish tag after start tag `t` (R305), with L of the frame that deficit round robin would take next. -/
def State.finish (s : State) (x : ClassSlice) : Nat :=
  let l := match s.drrNext (fun _ => true) x with | some (q, _) => (s.headLen q).toNat | none => 0
  let w := max 1 (s.weight x.slice)
  (x.sTag + (l * 65536 + w - 1) / w) % 2 ^ 64

/-- A queue leaves its class. -/
def State.leaveRing (s : State) (p c q : Nat) : State :=
  let x := s.cls p c
  let cut (y : ClassSlice) : ClassSlice :=
    { y with gained := y.gained && (y.ring.map (·.1)).head? != some q, ring := y.ring.filter fun z => z.1 != q }
  s.setCls p c { x with slices := (x.slices.map cut).filter fun y => !y.ring.isEmpty }

/-- A queue becomes backlogged in a class (R307). -/
def State.joinRing (s : State) (p c q : Nat) : State :=
  let k := s.tmSlice q
  let x := s.cls p c
  if x.slices.any fun y => y.slice == k then
    s.setCls p c { x with slices := x.slices.map fun y => if y.slice = k then { y with ring := y.ring ++ [(q, 0)] } else y }
  else
    let y : ClassSlice := { slice := k, sTag := x.v, fTag := 0, ring := [(q, 0)], gained := false }
    s.setCls p c { x with slices := x.slices ++ [{ y with fTag := s.finish y }] }

/-- Queues that have emptied, or that are now served in another class, leave their class and join theirs (R297). -/
def State.tidy (s : State) (p : Nat) : State :=
  (List.range 8).foldl (fun s c =>
    let qs := (s.cls p c).slices.flatMap fun y => y.ring.map (·.1)
    qs.foldl (fun s q =>
      if (s.tmq q).isEmpty then (s.leaveRing p c q).queueIdle q
      else if s.tmClass q ≠ c then (s.leaveRing p c q).joinRing p (s.tmClass q) q else s) s) s

/-- Tag `a` comes before tag `b`, as serial numbers. -/
def tagBefore (a b : Nat) : Bool := decide (toSigned 64 (a + 2 ^ 64 - b % 2 ^ 64) < 0)

/-- The slice of a class that fair queuing selects among the eligible ones: the least finish tag, ties to the
lowest number. -/
def bestSlice : List ClassSlice → Option ClassSlice
  | [] => none
  | x :: xs => match bestSlice xs with
    | none => some x
    | some y => if tagBefore x.fTag y.fTag ∨ (x.fTag = y.fTag ∧ x.slice < y.slice) then some x else some y

/-- A frame of queue `q` in slice `x` has been taken, with the slice's ring as deficit round robin leaves it. -/
def State.served (s : State) (p c : Nat) (x : ClassSlice) (q : Nat) (ring : List (Nat × Int)) : State :=
  let st := s.cls p c
  let empty := (s.tmq q).isEmpty
  let ring1 := if empty then ring.filter fun z => z.1 != q else ring
  let y : ClassSlice := { x with sTag := x.fTag, ring := ring1, gained := !empty }
  let others := st.slices.filter fun z => z.slice != x.slice
  let mine : List ClassSlice := if ring1.isEmpty then [] else [{ y with fTag := s.finish y }]
  s.setCls p c { v := x.fTag, slices := others ++ mine }

/-! ## Enqueue (R300–R302) -/

/-- Events of U13, each under its hold-off (R323). -/
def State.tmEvent (s : State) (n detail : Nat) : State :=
  s.raiseHeld (16 * 13 + n) (s.act TmHoldoff.adr TmHoldoff.microseconds) 13 n detail

/-- The outer IP header of a frame that no pipeline has parsed. -/
def State.hostL3 (s : State) (f : List Byte) : Option (Nat × Bool) := (s.parseFrame 3 4 f).outer.ip.map fun x => (x.off, x.v6)

/-- The edit of a frame that leaves as it came from the host. -/
def State.hostEdit (s : State) (f : List Byte) : Edit :=
  { l3 := s.hostL3 f, dscp := none, tagOp := 0, tagVid := 0, tagPcp := 0, tagAt := none, tagEnd := 12, rtag := none
    route := none, popAt := none, secAt := none, ce := false }

/-- What travels with a frame of the device's own or of the host. -/
def Meta.none : Meta :=
  { inPort := 24, tc := 0, reason := 0, flags := 0, hash := 0, stamp := 0, scale := 0, domTime := 0, bd := 0
    tagged := false, pcp := 0, vid := 0 }

/-- A frame enters the traffic manager for queue `q`, toward that queue's port. -/
def State.toTm (s : State) (q : Nat) (f : List Byte) (stampTag : Option Nat) (oneStep : Bool) : State :=
  let x : TmFrame :=
    { id := s.pp.nextId, bytes := f, fcs := some true, queue := q, port := s.tmPort q, input := none, yellow := false
      md := Meta.none, edit := s.hostEdit f, stampTag := stampTag, oneStep := oneStep, since := 0 }
  { s with pp := { s.pp with nextId := s.pp.nextId + 1 }, tm := { s.tm with arriving := s.tm.arriving ++ [x] } }

/-- The ECN field of the outermost IP header allows a mark: ECT(0) or ECT(1) (R302). -/
def ecnCapable (f : TmFrame) : Bool :=
  match f.edit.l3 with
  | some (o, v6) => let e := (if v6 then beAt f.bytes o 2 / 16 else beAt f.bytes (o + 1) 1) % 4; e == 1 || e == 2
  | none => false

/-- The cells of a frame leave its input's share. -/
def State.freeInput (s : State) (f : TmFrame) : State :=
  match f.input with
  | some i => s.freeCells i (cellsOf f.bytes.length)
  | none => s

/-- A frame is dropped and counted against its egress port. -/
def State.tmDrop (s : State) (f : TmFrame) (c : Fld) : State := (s.freeInput f).bump (TmPort.adr f.port) c

/-- The checks of an enqueue, and the enqueue. -/
def State.enqueue (s : State) (f : TmFrame) : State :=
  let a := TmQueue.adr f.queue
  let n := cellsOf f.bytes.length
  let depth := s.tmDepth f.queue
  if f.fcs ≠ some true then s.tmDrop f TmPort.fcsDrop
  else if !(s.actB a TmQueue.enable && s.tmPort f.queue == f.port) then s.tmDrop f TmPort.disabledDrop
  else if s.act a TmQueue.max < depth + n then s.tmDrop f TmPort.queueDrop
  else if f.yellow ∧ s.act a TmQueue.yellowLimit < depth + n then s.tmDrop f TmPort.yellowDrop
  else if f.input = none ∧ s.poolFree < n then
    (s.bump (TmPort.adr f.port) TmPort.poolDrop).tmEvent 6 (f.port + 65536 * f.queue)
  else
    let mark := s.actB a TmQueue.ecnEn && decide (s.act a TmQueue.ecnThreshold ≤ depth) && ecnCapable f
    let g := { f with since := s.lineNs, input := none, edit := { f.edit with ce := mark } }
    let first := (s.tmq f.queue).isEmpty
    let s1 := (s.freeInput f).setTmq f.queue (s.tmq f.queue ++ [g])
    let c := s1.tmClass f.queue
    if first then (s1.leaveRing f.port c f.queue).joinRing f.port c f.queue else s1

/-! ## The decision (R304–R308, R314) -/

/-- The settings that take effect at a decision of port `p` (R308, R310, R324). -/
def State.decisionLatch (s : State) (p : Nat) : State :=
  let m := boundaryMask fun x e =>
    x == .decision &&
      (e == TmPort.adr p || e == TmXPort.adr p || (decide (TmSliceWeight.adr 0 ≤ e) && decide (e < TmSliceWeight.adr 256))
       || (decide (TmClass.adr p 0 ≤ e) && decide (e < TmClass.adr p 8))
       || (decide (TmQueue.adr 0 ≤ e) && decide (e < TmQueue.adr 16384) && s.tmPort ((e - TmQueue.adr 0) / 0x20) == p)
       || (decide (16 ≤ p) && e == ShxPortQueue.adr (p - 16)))
  (s.latchMask m).shapersTake fun k => if k < 256 then k / 8 == p else s.tmPort (k - 256) == p

/-- A queue is eligible in class `c` of port `p` (R304): its shaper, and the guard of its head frame. -/
def State.queueOk (s : State) (p c q : Nat) : Bool :=
  match s.tmq q with
  | [] => false
  | f :: _ => s.shOk (s.queueShaper q) && s.gateOk p c (s.bytesPs p (s.guardBytes c f))

/-- Head frames of a port that can never start are dropped (R314). -/
def State.dropLong (s : State) (p c : Nat) : Nat → Nat → State
  | 0, _ => s
  | fuel + 1, q =>
      match s.tmq q, s.longestRun p c with
      | f :: rest, some run =>
          if run * 1000 < s.bytesPs p (s.guardBytes c f) then
            (((s.setTmq q rest).bump (TmPort.adr p) TmPort.tooLongDrop).tmEvent 5 (p + 65536 * q)).dropLong p c fuel q
          else s
      | _, _ => s

/-- The backlogged queues of a port, each with its class. -/
def State.backlog (s : State) (p : Nat) : List (Nat × Nat) :=
  (List.range 8).flatMap fun c => (s.cls p c).slices.flatMap fun y => y.ring.map fun z => (c, z.1)

/-- What a port selects next: class, slice, queue, and the slice's ring after it; `ok` adds to a queue's
eligibility what the receiver of the frame asks for. -/
def State.select (s : State) (p : Nat) (ok : Nat → Bool) : Option (Nat × ClassSlice × Nat × List (Nat × Int)) :=
  [7, 6, 5, 4, 3, 2, 1, 0].findSome? fun c =>
    if !s.shOk (s.classShaper p c) then none
    else
      let elig (q : Nat) : Bool := s.queueOk p c q && ok q
      let able := (s.cls p c).slices.filter fun y => y.ring.any fun z => elig z.1
      (bestSlice able).bind fun y => (s.drrNext elig y).map fun (q, ring) => (c, y, q, ring)

/-- The selected frame is taken: tags, deficits and shapers follow. -/
def State.take (s : State) (p c : Nat) (y : ClassSlice) (q : Nat) (ring : List (Nat × Int)) : State :=
  match s.tmq q with
  | [] => s
  | f :: rest =>
      let n := s.charged f
      let s1 := if s.shOn (s.classShaper p c) then s.putClassTokens p c (s.charge (s.classShaper p c) n) else s
      let s2 := if s.shOn (s.queueShaper q) then s1.putQueueTokens q (s1.charge (s1.queueShaper q) n) else s1
      let s3 := s2.latchB fun x e => x == .visit && e == TmQueue.adr q
      ((s3.setTmq q rest).served p c y q ring).queueIdle q

/-- U13 leaves READY with its pending settings in force (R58): shapers and policers that waited take them (R310, R319). -/
def State.tmTakeAll (s : State) : State :=
  let s1 := s.shapersTake fun _ => true
  let s2 := s1.tm.policerDue.foldl State.resetPolicer s1
  { s2 with tm := { s2.tm with policerDue := [] } }

/-- A unit reset of U13 (R321): what is pending takes effect first (R58). -/
def State.tmReset (s0 : State) : State :=
  let s := (s0.flushUnit 13).tmTakeAll
  let clear (s : State) (p : Nat) : State :=
    let a := TmPort.adr p
    [TmPort.queueDrop, TmPort.yellowDrop, TmPort.poolDrop, TmPort.fcsDrop, TmPort.disabledDrop, TmPort.tooLongDrop].foldl
      (fun s f => s.set a f 0) s
  let s1 := (List.range 25).foldl clear s
  let s1' : State := { s1 with tm := { s1.tm with queues := [], classes := [] } }
  let s2 := s.tm.queues.foldl (fun s x => s.queueIdle x.1) s1'
  let s3 := s2.tm.classTokens.foldl (fun s x => s.putClassTokens (x.1 / 8) (x.1 % 8) (s.shReset (s.classShaper (x.1 / 8) (x.1 % 8)))) s2
  let s4 := s3.tm.queueTokens.foldl (fun s x => s.putQueueTokens x.1 (s.shReset (s.queueShaper x.1))) s3
  let s5 := s4.pp.buckets.foldl (fun s x => s.resetPolicer x.1) s4
  let pol (s : State) (e : Nat) : State :=
    let a := TmPolicer.adr 0 0 + 0x20 * e
    ((s.set a TmPolicer.green 0).set a TmPolicer.yellow 0).set a TmPolicer.red 0
  (s5.listed (TmPolicer.adr 0 0) 0x20 4096).foldl pol s5

end Sys2Proof.Machine
end

