-- ==== Sys2Proof/Machine/Cyclic.lean ====
section
/-!
DEFINITION. The commands of the cyclic exchange engine (R133–R180).
-/

namespace Sys2Proof.Machine

/-! ## The boundary (R138–R143, R170–R174) -/

/-- The bits of U04 that take effect at the next boundary of rope `r`; with `off`, those of its entry into
OFF as well (R138). -/
def State.cxeMask (s : State) (r : Nat) (off : Bool) : Nat → Word :=
  boundaryMask fun x e => match x with
    | .rope => e == CxeRope.adr r || (decide (0x4A0000 ≤ e ∧ e < 0x4A2000) && (e - 0x4A0000) / 0x20 % 16 == r)
    | .ropeOff => off && e == CxeRope.adr r
    | .station => decide (0x440000 ≤ e) && stnF s.inForce ((e - 0x440000) / 0x40) CxeStn.rope == r
    | .template => stnF s.inForce (s.tmplStation ((e - 0x480000) / 0x800)) CxeStn.rope == r
    | .portRope =>
        let p := if 0x408000 ≤ e then (e - 0x408000) / 4 else (e - 0x401500) / 4
        (s.ropePorts s.inForce r).contains p
    | _ => false

/-- The bits of U13 that take effect at a boundary of rope `r`: the expert windows. -/
def tmRopeMask (r : Nat) : Nat → Word :=
  boundaryMask fun x e => match x with
    | .rope => decide (0xD08000 ≤ e ∧ e < 0xD08800) && (e - 0xD08000) / 8 % 16 == r
    | _ => false

/-- The pairs of windows of one port that overlap (R316), blamed on U13. -/
def State.windowsBad (s : State) (rd : Nat → Word) : List Nat :=
  failing ((List.range 16).flatMap fun p => s.portApart rd p)

/-- The bits that a placed pause holds at a boundary of rope `r`: its launch offsets and its deadline, and where `plan` says
that its plans would change, the fields that they are made from (R155, R497). -/
def pauseMask (r : Nat) (plan : Bool) : Nat → Word :=
  fieldMask fun f e =>
    if e = CxeRope.adr r then f == CxeRope.deadline
    else if 0x4A0000 ≤ e ∧ e < 0x4A2000 then
      f == CxePortRope.launch || (plan && [CxePortRope.tagged, CxePortRope.pcp, CxePortRope.vid, CxePortRope.daLow, CxePortRope.daHigh].contains f)
    else plan && (decide (0x480000 ≤ e) || (decide (0x440000 ≤ e) &&
      [CxeStn.enable, CxeStn.mode, CxeStn.redundant, CxeStn.rope, CxeStn.secPort, CxeStn.port, CxeStn.version, CxeStn.outLen].contains f))

/-- The plan of rope `r` on a port would change with the bits of `m` that wait (R497). -/
def State.planMoves (s : State) (r : Nat) (m : Nat → Word) : Bool :=
  let rd (a : Nat) : Word := merge (m a) (s.inForce a) (s.rd a)
  (List.range 16).any fun p => s.plan s.inForce p r != s.plan rd p r

/-- Class B fields of rope `r` take effect at its boundary; in a placed pause, those that it holds wait for the first boundary
after it (R497). -/
def State.ropeLatch (s : State) (r : Nat) (pause : Bool := false) : State :=
  let off := s.get (CxeRope.adr r) CxeRope.enable == 0
  let old := s.inForce
  let m := s.cxeMask r off
  let h := pauseMask r (pause && s.planMoves r m)
  let s1 := s.latchChecked 4 (fun a => if pause then m a &&& ~~~ h a else m a) fun s rd => s.cxeBad old rd
  s1.latchChecked 13 (tmRopeMask r) State.windowsBad

/-- The rank of a mode among the causes that meet at one boundary (R170). -/
def modeRank (m : Nat) : Nat := if m = rmOFF then 0 else m

/-- The mode that host loss asks for (R170). -/
def lossMode (h : Nat) : Nat := if h = 0 then rmCONTINUE else if h = 1 then rmHOLD else rmSTOP

/-- The mode after a boundary, from the mode before and the causes that wait; the owner slice stays frozen until it thaws, so
a rope that starts meanwhile comes up in HOLD (R170, R178). -/
def State.nextMode (s : State) (r : Nat) : Nat :=
  let x := s.rope r
  let old := s.ropeMode r
  let a := CxeRope.adr r
  let cold := x.freeze || s.frozen (s.ropeSlice r)
  if !s.actB a CxeRope.enable then rmOFF
  else if old = rmOFF then (if cold then rmHOLD else rmRUN)
  else
    let m0 := if x.resumeReq then rmRUN else old
    let m1 := if x.hostLost then max m0 (lossMode (s.act a CxeRope.hostLoss)) else m0
    let m2 := if cold then max m1 rmHOLD else m1
    if x.stopReq || x.groupStop || x.lostStop then rmSTOP else m2

/-- The frames of rope `r` that have not begun to leave. -/
def State.unsentFrames (s : State) (r : Nat) : Bool := s.cxe.frames.any fun f => f.rope == r && !f.left

/-- The frames of rope `r` are gone, and its comparators are disarmed. -/
def State.dropFrames (s : State) (r : Nat) : State :=
  let s1 := { s with cxe := { s.cxe with frames := s.cxe.frames.filter (·.rope != r) } }
  s1.modTime fun t => { t with armed := t.armed.filter fun (_, q, _) => q != r }

/-- Replies of rope `r` that wait on the lanes are discarded, and their cells released (R161, R299). -/
def State.dropReplies (s : State) (r : Nat) : State :=
  let gone := (s.cxe.lane0 ++ s.cxe.lane1).filter (·.rope == r)
  let s1 := gone.foldl (fun s f => s.freeCells f.port f.cells) s
  { s1 with cxe := { s1.cxe with lane0 := s1.cxe.lane0.filter (·.rope != r), lane1 := s1.cxe.lane1.filter (·.rope != r) } }

/-- The pending commit of rope `r` is cleared. -/
def State.dropCommit (s : State) (r : Nat) : State :=
  (s.set (CxeRope.adr r) CxeRope.stPending 0).set (CxeRope.adr r) CxeRope.stTarget 0

/-- The stations of rope `r` gather nothing of another cycle. -/
def State.clearGather (s : State) (r : Nat) : State := s.modRopeStns r fun x => { x with gather := Gather.none }

/-- Rope `r` goes OFF: nothing of it is built, gathered or published any more (R172). -/
def State.ropeOff (s : State) (r : Nat) : State :=
  let s1 := ((((s.dropFrames r).dropReplies r).dropCommit r).prestartEnds r fun _ => true).prestartEnds (16 + r) fun _ => true
  let s2 := (s1.set (CxeRope.adr r) CxeRope.stMode rmOFF).clearGather r
  s2.modRope r fun x => { RopeSt.init with boundary := x.boundary, flipped := x.flipped, built := true }

/-- The output of rope `r` flips, for every station of the rope, enabled or not (R139; log 117). -/
def State.flipOut (s : State) (r c : Nat) : State :=
  let s1 := s.modRopeStns r fun x => { x with outSel := !x.outSel }
  ((s1.set (CxeRope.adr r) CxeRope.stStale 0).dropCommit r).modRope r fun x =>
    { x with flipped := c % 65536, outStale := false }

/-- A stale boundary of rope `r` (R143).  The spec leaves two points open, and the model settles them (DESIGN CHOICE,
log 104): a commit watchdog that expires at a boundary has its effect on the mode at the next one, and it expires when
STALE comes to COMMIT_WDOG from below, so that a STALE already there expires no more until a flip. -/
def State.staleOut (s : State) (r : Nat) : State :=
  let a := CxeRope.adr r
  let k := s.get a CxeRope.stStale
  let k' := min (k + 1) 255
  let w := s.act a CxeRope.commitWdog
  let s1 := (s.set a CxeRope.stStale k').modRope r fun x => { x with outStale := true }
  let s2 := if k = 0 then s1.cxeEvent 4 r none else s1
  if w ≠ 0 ∧ k < w ∧ w ≤ k' then s2.modRope r fun x => { x with hostLost := true } else s2

/-- The pending commit is handled at the boundary of cycle `c` (R140). -/
def State.commitAt (s : State) (r c mode : Nat) : State :=
  let a := CxeRope.adr r
  let due := s.getB a CxeRope.stPending
  let d := (s.get a CxeRope.stTarget + 65536 - c % 65536) % 65536
  if mode = rmRUN then
    if due ∧ d = 0 then s.flipOut r c
    else (if due ∧ 1 ≤ d ∧ d ≤ 32767 then s else s.dropCommit r).staleOut r
  else (s.dropCommit r).modRope r fun x => { x with outStale := false }

/-- The events of a mode change (R171, R173). -/
def State.modeEvents (s : State) (r old new : Nat) (loss : Bool) : State :=
  if old = new then s
  else
    let s1 := if loss then s.cxeEvent 5 r none else s
    let s2 := if new = rmRUN ∧ old ≠ rmOFF then s1.cxeEvent 6 r none else s1
    if new = rmSTOP then s2.cxeEvent 10 r none else s2

/-- A rope that leaves HOLD or STOP for RUN has its axes checked; RAMP_DONE is due for one that enters STOP, and one that leaves
it has no stop masters any more (R206, R207). -/
def State.mpiMode (s : State) (r old new : Nat) : State :=
  s.modMpi fun m =>
    { m with
      resync := if (old = rmHOLD ∨ old = rmSTOP) ∧ new = rmRUN ∧ !m.resync.contains r then m.resync ++ [r] else m.resync
      stops := if new = rmSTOP then m.stops else m.stops.filter fun (k, _) => k / 16 != r
      ramping := if old = rmSTOP ∧ new = rmSTOP then m.ramping
        else m.ramping.filter (· != r) ++ (if new = rmSTOP then [r] else []) }

/-- The boundary `b` of rope `r` lies in the placed pause of a pipeline handover of its ports, which holds its launch offsets,
its deadline and its plans (R497). -/
def State.inPause (s : State) (r b : Nat) : Bool :=
  match s.svc.pause with
  | some p => decide (p.start ≤ b) && decide (b ≤ p.start + 38000) &&
      (s.ropePorts s.inForce r ++ s.ropePorts s.rd r).any fun q => q / 8 == p.role
  | none => false

/-- The protected windows of rope `r` on USXGMII ports with LINK up are derived again, with the rate in force (R316). -/
def State.deriveWindows (s : State) (r : Nat) : State :=
  let ps := (s.ropePorts s.inForce r).filter fun p => s.getB (Dpx.adr p) Dpx.link
  { s with tm := { s.tm with winRate := ps.foldl (fun m p => sins m (16 * p + r) (s.portRate p)) s.tm.winRate } }

/-- Rope `r` at its boundary `b` (R138–R143, R157, R170–R174). -/
def State.ropeAt (s : State) (b r : Nat) : State :=
  let a := CxeRope.adr r
  let c := cycleAt s.inForce r b
  let s0 := (s.ropeLatch r (s.inPause r b)).modRope r fun x => { x with boundary := b }
  if s.ustate 4 = stHELD then
    if s0.ropeMode r = rmOFF then s0
    else
      let s1 := ((((s0.dropFrames r).dropReplies r).dropCommit r).set a CxeRope.cycle c).clearGather r
      ((s1.modRope r fun x => { x with held := true, latchedCycle := none, built := true }).prestartEnds r fun t =>
        decide (t ≤ b)).prestartEnds (16 + r) fun t => decide (t ≤ b)
  else
    let old := s0.ropeMode r
    let new := s0.nextMode r
    if new = rmOFF then (if old = rmOFF then s0 else ((s0.ropeOff r).mpiMode r old rmOFF))
    else
      let x := s0.rope r
      let loss := x.hostLost && new == lossMode (s0.act a CxeRope.hostLoss)
      let s1 := ((s0.dropFrames r).prestartEnds r fun t => decide (t < b)).modRope r fun y =>
        { y with stopReq := false, resumeReq := false, hostLost := false, freeze := false, groupStop := false
                 lostStop := false, unsent := s0.unsentFrames r, launchLate := false, held := false, built := false }
      let s2 := ((s1.set a CxeRope.stMode new).set a CxeRope.cycle c).modeEvents r old new loss
      let s3 := if (s2.rope r).gatherCycle = c ∧ old ≠ rmOFF ∧ !x.held then s2
        else (s2.clearGather r).modRope r fun y =>
          { y with gatherCycle := c, rejected := false, late := false, rejectedEvent := false, latchedCycle := none }
      ((s3.deriveWindows r).commitAt r c new).mpiMode r old new

/-- The ropes that have a boundary at instant `b` and act at it: those not OFF, and those with a value that
waits for it. -/
def State.ropesAt (s : State) (b : Nat) : List Nat :=
  (List.range 16).filter fun r =>
    isBoundary s.inForce r b && (s.rope r).boundary != b &&
      (s.ropeMode r != rmOFF || s.getB (CxeRope.adr r) CxeRope.enable
        || [0, 8, 0xC].any fun d => s.rd (CxeRope.adr r + d) != s.inForce (CxeRope.adr r + d))

/-- The latch cycle of the boundary instant `b`, which its ropes share (R16, R134, R139): every rope that has
a boundary at `b` flips or goes stale and changes mode, then the masters are snapshot once and the pass runs
(R187, R203), but for ropes that a hold of U04 stops, whose images keep their values (R174). The instant has come when line
time is within the tick that reaches it. -/
def execRopeBoundary (b : Nat) (bad : List Nat) (s : State) : Host.Outcome State Fault Refusal :=
  if s.lineNs ≤ b ∧ b ≤ s.lineNs + 40 ∧ (s.ready 4 ∨ s.ustate 4 = stHELD) then
    let rs := s.ropesAt b
    let s1 := (rs.foldl (fun s r => s.ropeAt b r) s).announce
    let live := rs.filter fun r => (s.ropeMode r != rmOFF || s1.ropeMode r != rmOFF) && !(s1.rope r).held
    let entered := rs.filter fun r => s1.ropeMode r == rmSTOP && s.ropeMode r != rmSTOP
    .next (if live.isEmpty then s1 else s1.mpiPass b live entered bad)
  else .next s

/-! ## Frames (R155–R158) -/

/-- The frames of rope `r` on port `p` for the cycle of its last boundary. -/
def State.portFrames (s : State) (r p : Nat) : List CFrame :=
  let b := (s.rope r).boundary
  let c := s.get (CxeRope.adr r) CxeRope.cycle
  let ap := (stampOf (b + ropeApply s.inForce r)).toNat
  match s.plan s.inForce p r with
  | none => []
  | some fs => fs.zipIdx.map fun (f, i) =>
      { port := p, rope := r, id := i, cycle := c, bytes := s.buildFrame p r c ap i f
        stations := f.segs.map (·.stn), waiting := false, left := false, lost := false, stamp := 0 }

/-- The comparators of the ports that carry frames of rope `r` are armed (R121, R157). -/
def State.armPorts (s : State) (r : Nat) (fs : List CFrame) : State :=
  let b := (s.rope r).boundary
  let ps := (List.range 16).filter fun p => fs.any (·.port == p)
  s.modTime fun t => { t with armed := t.armed ++ ps.map fun p => (p, r, b + ropeLaunch s.inForce p r) }

/-- U04 serves its ropes: it is READY, or a hold waits for the next boundary of each (R174). -/
def State.cxeRuns (s : State) : Bool := s.ready 4 || s.ustate 4 == stHELD

/-- The pre-start of rope `r`'s cycle in progress has done its work (R19). -/
def State.cycleEnds (s : State) (r : Nat) : State := s.prestartEnds r fun t => decide (t ≤ (s.rope r).boundary)

/-- Frame build of rope `r` for its cycle, before the deadline of the cycle (R16, R156). -/
def execFrameBuild (r : Fin 16) (s : State) : Host.Outcome State Fault Refusal :=
  let x := s.rope r
  if s.ropeMode r = rmOFF ∨ x.held ∨ x.built ∨ !s.cxeRuns then .next s
  else
    let fs := (List.range 16).flatMap (s.portFrames r)
    let s1 := { s with cxe := { s.cxe with frames := s.cxe.frames ++ fs } }
    let s2 := (s1.armPorts r fs).modRope r fun x => { x with built := true }
    .next (if fs.isEmpty then s2.cycleEnds r else s2)

/-- Changes the frame of a port and rope with identifier `i`. -/
def State.modFrame (s : State) (p r i : Nat) (g : CFrame → CFrame) : State :=
  { s with cxe := { s.cxe with frames := s.cxe.frames.map fun f =>
      if f.port = p ∧ f.rope = r ∧ f.id = i then g f else f } }

/-- The launch instant of the armed comparator of a port and rope, in ns. -/
def State.armedAt (s : State) (p r : Nat) : Option Nat :=
  (s.time.armed.find? fun (q, t, _) => q == p && t == r).map fun (_, _, i) => i

/-- A frame leaves the balls of port `p` with its egress stamp; one that MACsec drops for its exhausted SA never leaves
(R163, R464). -/
def State.launch (s : State) (f : CFrame) (ns : Nat) : State :=
  let s1 := (s.modFrame f.port f.rope f.id fun g =>
    { g with left := true, lost := (s.msecTx f.port f.bytes).2.isNone, stamp := stampOf ns }).cycleCharge f.port f.bytes |>.sendFrame f.port f.bytes
  if s1.unsentFrames f.rope then s1 else s1.cycleEnds f.rope

/-- The comparator is disarmed. -/
def State.disarm (s : State) (p r : Nat) : State :=
  s.modTime fun t => { t with armed := t.armed.filter fun (q, u, _) => !(q == p && u == r) }

/-- The first frame reaches its comparator: it waits for the armed instant, or leaves at once and late
(R122). -/
def execFrameAtComparator (p r : Fin 16) (s : State) : Host.Outcome State Fault Refusal :=
  match s.cxe.frames.find? fun f => f.port == p.val && f.rope == r.val && f.id == 0 && !f.left && !f.waiting,
      s.armedAt p r with
  | some f, some i =>
      if !s.driveOn p || !s.cycleOk p then .next s
      else if i < s.lineNs then
        let s1 := (s.launch f (s.portStamp p true / 16)).disarm p r
        .next ((s1.modRope r fun x => { x with launchLate := true }).raise 3 8 (r + 16 * p))
      else .next (s.modFrame p r 0 fun g => { g with waiting := true })
  | _, _ => .next s

/-- The frame that waits at the comparator of port `p` for rope `r`. -/
def State.waitingAt (s : State) (p r : Nat) : Option CFrame :=
  s.cxe.frames.find? fun f => f.port == p && f.rope == r && !f.left && f.waiting

/-- A comparator whose instant has passed has released its frame, if no command has in its tick (R121). -/
def State.launchTick (s : State) : State :=
  s.time.armed.foldl (fun (s : State) x =>
    match s.waitingAt x.1 x.2.1 with
    | some f => if s.driveOn x.1 && decide (x.2.2 < s.lineNs) then (s.launch f x.2.2).disarm x.1 x.2.1 else s
    | none => s) s

/-- A frame of rope `r` waits for a launch instant up to `t`, which comes before the steps at `t` (R16). -/
def State.launchWaits (s : State) (r t : Nat) : Bool :=
  s.time.armed.any fun x => x.2.1 == r && decide (x.2.2 ≤ t) && s.driveOn x.1 && (s.waitingAt x.1 r).isSome

/-- The comparator releases its frame in the tick of the armed instant; the frames after it follow back to back (R121,
R157). -/
def execFrameLaunch (p r : Fin 16) (s : State) : Host.Outcome State Fault Refusal :=
  match s.cxe.frames.find? fun f => f.port == p.val && f.rope == r.val && !f.left with
  | none => .next s
  | some f =>
      if !s.driveOn p then .next s
      else match s.armedAt p r with
        | some i => if f.waiting ∧ s.lineNs ≤ i ∧ i ≤ s.lineNs + 40 then .next ((s.launch f i).disarm p r) else .next s
        | none => .next (if f.id = 0 || !s.cycleOk p then s else s.launch f (s.portStamp p true / 16))

/-! ## Commits and control (R140, R170–R173) -/

/-- Offset of a rope's register. -/
def ropeOffset (r d : Nat) : Nat := cxeOff (CxeRope.adr r) + d

/-- A write of CXE_ROPE_COMMIT (R140, R560): in a mode other than RUN it clears the stale streak, and the
boundary discards it unless it returns the rope to RUN; an OFF rope has no boundary, and discards it at once (log 56).  A
rope that a hold of U04 has stopped goes on at its next boundary after the release, and a commit before that boundary is
discarded (R174; DESIGN CHOICE, log 118). -/
def State.commit (s : State) (o : Sys2Proof.Origin) (r target : Nat) : WRes :=
  s.gate o 4 (ropeOffset r 0x30) false true fun s =>
    let own : Bool := match o with | .slice k => s.bound k && s.slicePf k == 0 && s.ropeSlice r == k.val | _ => true
    if !own || (s.rope r).held then s.done
    else
      let a := CxeRope.adr r
      let s1 := if s.ropeMode r = rmOFF then s else (s.set a CxeRope.stPending 1).set a CxeRope.stTarget target
      (if s.ropeMode r = rmRUN then s1 else s1.set a CxeRope.stStale 0).done

/-- A write of CXE_ROPE_COMMIT. -/
def execCommit (o : Sys2Proof.Origin) (r : Fin 16) (target : BitVec 16) (s : State) : Host.Outcome State Fault Refusal :=
  (s.commit o r target.toNat).out

/-- RESUME is accepted (R173); the stations of the rope count whether enabled or not (log 117). -/
def State.resumeOk (s : State) (r : Nat) : Bool :=
  let k := s.ropeSlice r
  !s.hif.linkLost && (!s.bound k || s.bme (s.slicePf k)) && !s.frozen k &&
    (s.knownStations.filter fun n => stnF s.inForce n CxeStn.rope == r).all fun n =>
      !(s.actB (CxeStn.adr n) CxeStn.lostStop && s.getB (CxeStn.adr n) CxeStn.lost)

/-- A write of CXE_ROPE_CTRL (R173). -/
def State.ropeCtrl (s : State) (o : Sys2Proof.Origin) (r : Nat) (stop resume : Bool) : WRes :=
  s.gate o 4 (ropeOffset r 0x2C) false false fun s =>
    if resume && !s.resumeOk r then s.refuse 4 (ropeOffset r 0x2C)
    else if s.ropeMode r = rmOFF then s.done
    else (s.modRope r fun x =>
      { x with stopReq := x.stopReq || stop
               resumeReq := x.resumeReq || (resume && s.ropeMode r != rmRUN) }).done

/-- STOP. -/
def execRopeCtrlStop (o : Sys2Proof.Origin) (r : Fin 16) (s : State) : Host.Outcome State Fault Refusal :=
  (s.ropeCtrl o r true false).out

/-- RESUME. -/
def execResume (o : Sys2Proof.Origin) (r : Fin 16) (s : State) : Host.Outcome State Fault Refusal :=
  (s.ropeCtrl o r false true).out

/-- A write TLP to the image aperture (R142, R149): a slice reaches its output share only (R329).
CLK_CXE restarts for it (R19, R474). -/
def execImageApertureWrite (o : Sys2Proof.Origin) (offset : Nat) (data : List Byte) (s : State) :
    Host.Outcome State Fault Refusal :=
  let stns := s.stations s.inForce
  let ok : Bool := match o with
    | .slice k => s.bound k && s.slicePf k == 0 && within (s.sliceImage k 1) offset data.length
    | _ => true
  if ok ∧ offset + data.length ≤ imageSize ∧ s.ustate 4 ≠ stABSENT ∧ !s.haltStops o 4 0 ∧ !s.hostCut o then .next (writeBack stns offset data (s.startClocks [ckCXE])) else .next s

/-! ## Replies (R159–R162, R169) -/

/-- Lane `i`. -/
def State.lane (s : State) (i : Nat) : List LaneFrame := if i = 0 then s.cxe.lane0 else s.cxe.lane1

/-- Changes lane `i`. -/
def State.setLane (s : State) (i : Nat) (l : List LaneFrame) : State :=
  { s with cxe := if i = 0 then { s.cxe with lane0 := l } else { s.cxe with lane1 := l } }

/-- REPLY_REJECTED of a frame whose rope is not known: once per port and base period (R179). -/
def State.rejectPort (s : State) (p : Nat) : State :=
  let per := s.shadowNs .cxe / (s.act CxeBase.adr CxeBase.steps * 8)
  if sfind s.cxe.rejPort p = some per then s
  else
    let s1 := { s with cxe := { s.cxe with rejPort := sins s.cxe.rejPort p per } }
    s1.raise 4 9 (16 * p + 512)

/-- A rejection of rope `r`, whose first one in a cycle raises REPLY_REJECTED (R160, R179). -/
def State.rejectRope (s : State) (p r : Nat) (stn : Option Nat) : State :=
  let had := (s.rope r).rejectedEvent
  let s1 := s.modRope r fun x => { x with rejected := true, rejectedEvent := true }
  let s2 := match stn with
    | some n => s1.modStn n fun x => { x with gather := { x.gather with rejected := true } }
    | none => s1
  if had then s2 else s2.raise 4 9 (r + 16 * p + 65536 * (stn.getD 0))

/-- The station that descriptor `i` of a reply names, and its fields: status, station, offset, length and the
position of its data (R152). -/
structure Desc where
  status : Nat
  stn : Nat
  off : Nat
  len : Nat
  pos : Nat
  deriving DecidableEq, Repr

/-- Header bytes of a version. -/
def hdrBytes (v : Nat) : Nat := if v = 1 then 12 else 16

/-- Data bytes of the v1 segments before descriptor `i`. -/
def v1Before (pl : List Byte) : Nat → Nat
  | 0 => 0
  | i + 1 => v1Before pl i + beAt pl (12 + 4 * i + 2) 2

/-- Descriptor `i` of a reply's payload (R152). -/
def descAt (v count : Nat) (pl : List Byte) (i : Nat) : Desc :=
  let o := hdrBytes v + descBytes v * i
  let w := beAt pl o 2
  let d := hdrBytes v + descBytes v * count
  if v = 1 then ⟨w / 4096, w % 4096, 0, beAt pl (o + 2) 2, d + v1Before pl i⟩
  else ⟨w / 4096, w % 4096, beAt pl (o + 4) 2 % 1024, beAt pl (o + 2) 2 % 2048, d + beAt pl (o + 6) 2⟩

/-- Check 1 of R160. -/
def replyShapeOk (pl : List Byte) : Bool :=
  let v := bits (beAt pl 0 1) 7 4
  let n := beAt pl 2 2
  (v == 1 || v == 2) && decide (1 ≤ n) && decide (n ≤ maxSegs v) &&
    decide (hdrBytes v + descBytes v * n ≤ pl.length) &&
    (List.range n).all fun i => let d := descAt v n pl i; decide (d.pos + d.len ≤ pl.length)

/-- The reply that reaches lane `lane` next, of the frames that the pipelines have steered to it. -/
def takeLane (lane : Nat) : List (PFrame × Option Nat) → Option ((PFrame × Option Nat) × List (PFrame × Option Nat))
  | [] => none
  | x :: xs =>
      if x.1.role = lane ∧ x.1.fcs.isSome then some (x, xs)
      else (takeLane lane xs).map fun (y, ys) => (y, x :: ys)

/-- A steered reply reaches its lane, without the SecTAG and ICV that it came with (R159); a frame whose FCS failed is
discarded (R230).  CLK_CXE restarts for it (R19, R474). -/
def execReplyFrameArrival (lane : Fin 2) (s : State) : Host.Outcome State Fault Refusal :=
  match takeLane lane s.pp.toCxe with
  | none => .next s
  | some ((f, tmpl), rest) =>
      let s1 := ({ s with pp := { s.pp with toCxe := rest } }).startClocks [ckCXE]
      let port := 8 * f.role + f.input
      let n := cellsOf f.bytes.length
      let g := bareFrame (s.tpidOf f.role) f.bytes
      if f.fcs ≠ some true ∨ !s.cxeRuns then .next (s1.freeCells port n)
      else
        let put (x : LaneFrame) : State := s1.setLane lane (s1.lane lane ++ [x])
        match tmpl with
        | some t =>
            .next (put { port := port, rope := stnF s.inForce (s.tmplStation t) CxeStn.rope, cycle := 0, version := 0
                         template := some t, payload := g, next := 0, count := 1, cells := n, at_ := f.stamp / 16 })
        | none =>
            let pl := g.drop (etherAt (s.tpidOf f.role) g tagFuel 12 + 2)
            let v := bits (beAt pl 0 1) 7 4
            .next (put { port := port, rope := beAt pl 0 1 % 16, version := v, template := none, payload := pl
                         cycle := if v = 1 then beAt pl 4 2 else beAt pl 4 4, next := 0, count := beAt pl 2 2
                         cells := n, at_ := f.stamp / 16 })

/-- The frame at the head of a lane is done with, and its cells are released (R299). -/
def State.popLane (s : State) (lane : Nat) : State :=
  match s.lane lane with
  | [] => s
  | f :: fs => (s.setLane lane fs).freeCells f.port f.cells

/-- The next segment of the frame at the head of a lane. -/
def State.nextSeg (s : State) (lane : Nat) : State :=
  match s.lane lane with
  | [] => s
  | f :: fs =>
      if f.next + 1 < f.count then s.setLane lane ({ f with next := f.next + 1 } :: fs) else s.popLane lane

/-- The enabled stations that a reply's segments name. -/
def State.namedBy (s : State) (f : LaneFrame) : List Nat :=
  ((List.range f.count).map fun i => (descAt f.version f.count f.payload i).stn).filter (stnOn s.inForce)

/-- Marks the named stations. -/
def State.markNamed (s : State) (f : LaneFrame) (g : Gather → Gather) : State :=
  (s.namedBy f).foldl (fun s n => s.modStn n fun x => { x with gather := g x.gather }) s

/-- The cycle of a reply equals `c`, in the bits that its version carries (R160). -/
def cycleIs (f : LaneFrame) (c : Nat) : Bool := if f.version = 1 then f.cycle == c % 65536 else f.cycle == c

/-- The gather of a station after an accepted segment of `len` bytes on a path. -/
def Gather.accept (g : Gather) (pri : Bool) (len inLen : Nat) : Gather :=
  if pri then
    { g with takenPri := g.takenPri + len, donePri := decide (inLen ≤ g.takenPri + len), bytes := g.bytes + len }
  else
    { g with takenSec := g.takenSec + len, doneSec := decide (inLen ≤ g.takenSec + len), bytes := g.bytes + len }

/-- One segment of a cycle-frame reply: checks 4 to 7, and the write (R160, R162). -/
def State.takeSegment (s : State) (f : LaneFrame) : State :=
  let d := descAt f.version f.count f.payload f.next
  let n := d.stn
  let rd := s.inForce
  let red := stnRed rd n
  let onPri := stnF rd n CxeStn.port == f.port
  let onSec := red && stnF rd n CxeStn.secPort == f.port
  let inLen := stnF rd n CxeStn.inLen
  if !(stnOn rd n && !stnTmpl rd n && stnF rd n CxeStn.rope == f.rope && (onPri || onSec)) then
    s.rejectRope f.port f.rope (some n)
  else
    let g := (s.stn n).gather
    let taken := if onPri then g.takenPri else g.takenSec
    let whole := decide (d.off = 0) && d.len == inLen
    if !(d.off == taken && decide (d.off + d.len ≤ inLen) && (f.version == 1 ||
        (d.pos - hdrBytes 2 - 8 * f.count) % 4 == 0)) || (red && !whole) then
      s.rejectRope f.port f.rope (some n)
    else if red && (if onPri then g.doneSec else g.donePri) then
      s.modStn n fun x => { x with gather :=
        if onPri then { g with takenPri := inLen, donePri := true } else { g with takenSec := inLen, doneSec := true } }
    else
      let s1 := s.imgWrite (s.backIn n) (stnF rd n CxeStn.inOffset + d.off) (slice f.payload d.pos d.len)
      s1.modStn n fun x => { x with gather := g.accept onPri d.len inLen, remote := d.status }

/-- A template reply (R169): it has arrived after the launch when its stamp at the port says so. -/
def State.takeTemplate (s : State) (f : LaneFrame) (t : Nat) : State :=
  let n := s.tmplStation t
  let rd := s.inForce
  let r := stnF rd n CxeStn.rope
  let ins := (tmplFields rd t).filter fun e => e.kind == 0x10 || e.kind == 0x11
  let x := s.rope r
  let on := stnOn rd n && stnTmpl rd n && s.ropeMode r != rmOFF && stnF rd n CxeStn.port == f.port
  let launched := decide (x.boundary + ropeLaunch rd f.port r ≤ f.at_)
    && x.gatherCycle == s.get (CxeRope.adr r) CxeRope.cycle
  let inside := ins.all fun e => decide (e.off + e.len ≤ f.payload.length)
  if !(on && launched && inside) || (s.stn n).gather.donePri then
    s.rejectRope f.port r (if stnOn rd n then some n else none)
  else
    let s1 := ins.foldl (fun s e =>
      let b := slice f.payload e.off e.len
      s.imgWrite (s.backIn n) (stnF rd n CxeStn.inOffset + e.img) (if e.kind = 0x11 then b.reverse else b)) s
    s1.modStn n fun y => { y with gather := { y.gather with donePri := true, bytes := stnF rd n CxeStn.inLen } }

/-- The lane takes one segment: checks 1 to 3 are made on the frame as the lane takes it, and a frame that fails them takes
no lane time (R160, R161; log 25); a rope that a hold of U04 has stopped takes no reply (R174). -/
def execReplySegment (lane : Fin 2) (s : State) : Host.Outcome State Fault Refusal :=
  match s.lane lane with
  | [] => .next s
  | f :: _ =>
      match f.template with
      | some t =>
          if (s.rope (stnF s.inForce (s.tmplStation t) CxeStn.rope)).held then .next (s.popLane lane)
          else .next ((s.takeTemplate f t).popLane lane)
      | none =>
          let r := f.rope
          let x := s.rope r
          if !replyShapeOk f.payload then .next ((s.rejectPort f.port).popLane lane)
          else if x.held then .next (s.popLane lane)
          else if !(ropeOn s.inForce r && s.ropeMode r != rmOFF) then
            let s1 := s.markNamed f fun g => { g with rejected := true }
            .next ((s1.rejectPort f.port).popLane lane)
          else if cycleIs f x.gatherCycle then .next ((s.takeSegment f).nextSeg lane)
          else if cycleIs f ((x.gatherCycle + 2 ^ 32 - 1) % 2 ^ 32) then
            let s1 := s.markNamed f fun g => { g with late := true }
            .next ((s1.modRope r fun x => { x with late := true }).popLane lane)
          else
            let s1 := s.markNamed f fun g => { g with rejected := true }
            .next ((s1.rejectRope f.port r (s.namedBy f).head?).popLane lane)

/-! ## Deadline and publish (R144–R148, R161–R165) -/

/-- The input deadline of rope `r`, after the frame build and the launch of its cycle (R16), latches what its stations have gathered, and
from then on the next cycle is gathered; what waits on the lanes is discarded (R160, R161). -/
def execInputDeadline (r : Fin 16) (s : State) : Host.Outcome State Fault Refusal :=
  let x := s.rope r
  let c := s.get (CxeRope.adr r) CxeRope.cycle
  let d := x.boundary + ropeDeadline s.inForce r
  if s.ropeMode r = rmOFF ∨ x.held ∨ !x.built ∨ x.gatherCycle ≠ c ∨ s.lineNs + 40 < d ∨ s.launchWaits r d then .next s
  else
    let s1 := s.modRopeStns r fun y => { y with latched := y.gather, gather := Gather.none }
    .next ((s1.dropReplies r).modRope r fun y =>
      { y with latchedCycle := some c, gatherCycle := (c + 1) % 2 ^ 32, pubRejected := y.rejected, pubLate := y.late
               rejected := false, late := false, rejectedEvent := false })

/-- RX of a station in the latched cycle (R164): 0 RECEIVED, 1 MISSING, 2 PARTIAL. -/
def rxOf (g : Gather) : Nat := if g.donePri || g.doneSec then 0 else if g.bytes = 0 then 1 else 2

/-- Every frame of the cycle that carries a part of station `n` has begun to leave, on one of its ports (R163). -/
def State.sent (s : State) (n : Nat) : Bool :=
  let on (p : Nat) : Bool :=
    let fs := s.cxe.frames.filter fun f => f.port == p && f.stations.contains n
    !fs.isEmpty && fs.all fun f => f.left && !f.lost
  let rd := s.inForce
  on (stnF rd n CxeStn.port) || (stnRed rd n && on (stnF rd n CxeStn.secPort))

/-- Station `n` at the publish of cycle `c` of rope `r` (R163–R165).  OUT of a template station, whose frame carries no STATUS,
shows HOLD or STOP by the rope mode as another station's does (DESIGN CHOICE, log 118). -/
def State.publishStation (s : State) (r c n : Nat) : State :=
  let a := CxeStn.adr n
  let x := s.stn n
  let g := x.latched
  let rx := rxOf g
  let red := stnRed s.inForce n
  let streak := if rx = 0 then 0 else min (s.get a CxeStn.streak + 1) 255
  let wasLost := s.getB a CxeStn.lost
  let k := s.act a CxeStn.lostK
  let nowLost := !wasLost && k != 0 && decide (k ≤ streak)
  let back := wasLost && rx == 0 && (s.actB a CxeStn.autoRecover || x.armed)
  let s1 := ((s.set a CxeStn.rx rx).set a CxeStn.streak streak).set a CxeStn.cycleLow c
  let s2 := ((s1.set a CxeStn.pathPri (b2n g.donePri)).set a CxeStn.pathSec (b2n (red && g.doneSec))).set a
    CxeStn.rejected (b2n g.rejected)
  let s3 := ((s2.set a CxeStn.late (b2n g.late)).set a CxeStn.remote x.remote).set a CxeStn.outS
    (if s.sent n then segStatus (s.ropeMode r) else 3)
  let s4 := s3.set a CxeStn.lost (b2n ((wasLost || nowLost) && !back))
  let s5 := s4.modStn n fun y => { y with armed := y.armed && !back }
  let s6 := if nowLost ∧ s.actB a CxeStn.lostStop then s5.modRope r fun y => { y with lostStop := true } else s5
  if nowLost then s6.cxeEvent 7 r (some n) else if back then s6.cxeEvent 8 r (some n) else s6

/-- The status word of a disabled station at the publish of cycle `c`: DISABLED, with nothing delivered, and a segment for it
rejected where one has come (R160, R163; log 58). -/
def State.disabledStation (s : State) (c n : Nat) : State :=
  let a := CxeStn.adr n
  let g := (s.stn n).latched
  let s1 := ((s.set a CxeStn.rx 3).set a CxeStn.pathPri 0).set a CxeStn.pathSec 0
  ((((s1.set a CxeStn.outS 0).set a CxeStn.rejected (b2n g.rejected)).set a CxeStn.late (b2n g.late)).set a CxeStn.cycleLow c)

/-- The disabled stations of the rope show DISABLED (R163). -/
def State.publishDisabled (s : State) (r c : Nat) : State :=
  let s1 : State := if r = 0 then { s with cxe := { s.cxe with freshCycle := c % 256 } } else s
  (s.knownStations.filter fun n => !stnOn s.inForce n && stnF s.inForce n CxeStn.rope == r).foldl
    (fun s n => s.disabledStation c n) s1

/-- The input of rope `r` flips, for every station of the rope, enabled or not (R144; log 117). -/
def State.flipIn (s : State) (r : Nat) : State := s.modRopeStns r fun x => { x with inSel := !x.inSel }

/-- MISSING and LOST of rope `r` (R148). -/
def State.missingOf (s : State) (r : Nat) : Nat := ((s.ropeStations s.inForce r).filter fun n => !s.received n).length
def State.lostOf (s : State) (r : Nat) : Nat :=
  (s.knownStations.filter fun n => stnF s.inForce n CxeStn.rope == r && s.getB (CxeStn.adr n) CxeStn.lost).length

/-- The cycle head record (R148). -/
def State.headRecordOf (s : State) (r c : Nat) (mirror : Bool) : List Byte :=
  let x := s.rope r
  let missing := s.missingOf r
  let lost := s.lostOf r
  leBytes 4 c ++ leBytes 4 (stampOf (s.shadowNs .cxe)).toNat ++ leBytes 2 missing ++ leBytes 2 lost ++
    leBytes 1 (r + 16 * s.ropeMode r) ++
    leBytes 1 (b2n x.outStale + 2 * b2n x.launchLate + 4 * b2n x.unsent + 8 * b2n x.pubRejected
      + 16 * b2n x.pubLate + 32 * b2n mirror) ++ leBytes 2 x.flipped

/-- Mirror, head record and vector of a publish, for a rope whose owner slice is bound (R147).  A mirror range that runs past
the 2 MB input image reads on into the view of the status words (DESIGN CHOICE, log 118). -/
def State.publishOut (s : State) (r c : Nat) : State :=
  let a := CxeRope.adr r
  let k := s.ropeSlice r
  let len := s.act a CxeRope.mirrorLen * 64
  if !s.bound k then s
  else
    let base := s.act a CxeRope.mirrorAddr * 64
    let n := s.act a CxeRope.mirrorStnCount
    let first := s.act a CxeRope.mirrorStnFirst
    let s1 := if len = 0 then s
      else
        let s1 := s.sliceData k base (s.apertureRead (0x400000 + s.act a CxeRope.mirrorOffset * 64) len)
        if n = 0 then s1
        else s1.sliceData k (base + len)
          ((List.range n).flatMap fun i => leBytes 4 (s.statusWord ((first + i) % 4096)).toNat)
    let s2 := if s.act a CxeRope.headEnable = 1 then
        s1.sliceWrite k (s.act a CxeRope.headAddr * 16) (s1.headRecordOf r c (len != 0)) else s1
    if s.act a CxeRope.irqEnable = 1 then s2.msix (s.slicePf k) (s.act a CxeRope.irqVector) else s2

/-- The publish of rope `r` (R144, R147). -/
def execPublish (r : Fin 16) (s : State) : Host.Outcome State Fault Refusal :=
  match (s.rope r).latchedCycle with
  | none => .next s
  | some c =>
      if s.ropeMode r = rmOFF ∨ (s.rope r).held then .next s
      else
        let a := CxeRope.adr r
        let s0 := s.latchChecked 4 (boundaryMask fun x e => x == .publish && e == a) fun t rd => failing (t.mirrorChecks rd r)
        let stns := s0.ropeStations s0.inForce r
        let s1 := (stns.foldl (fun s n => s.publishStation r c n) s0).announce
        let s2 := ((s1.publishDisabled r c).flipIn r).set a CxeRope.published c
        let s3 := (s2.publishOut r c).modRope r fun x => { x with latchedCycle := none }
        let ap := (stampOf ((s.rope r).boundary + ropeApply s.inForce r)).toNat
        let rec_ : NvRec :=
          { rope := r, cycle := c, stamp := (stampOf (s.shadowNs .cxe)).toNat, mode := s.ropeMode r, missing := s2.missingOf r, lost := s2.lostOf r }
        .next ((((s3.recPublish r rec_).prestartEnds (16 + r) fun t => decide (t ≤ (s.rope r).boundary)).stationMasters (stns.filter fun n => s3.received n) ap).tickFree)

/-- A write of STATUS.RECOVER re-arms a LOST station whose AUTO_RECOVER is 0 (R165). -/
def State.recover (s : State) (o : Sys2Proof.Origin) (n : Nat) : WRes :=
  let own : Bool := match o with | .slice k => s.sliceOfStation n == some k.val | _ => false
  s.gate o 4 (cxeOff (CxeStn.adr n) + 0xC) false own fun s =>
    if s.getB (CxeStn.adr n) CxeStn.lost ∧ !s.actB (CxeStn.adr n) CxeStn.autoRecover then
      (s.modStn n fun x => { x with armed := true }).done
    else s.done

/-- STATUS.RECOVER. -/
def execRecover (o : Sys2Proof.Origin) (n : Fin 4096) (s : State) : Host.Outcome State Fault Refusal :=
  (s.recover o n).out

/-! ## Reset and loss of the host -/

/-- A unit reset of U04 (R174). -/
def State.cxeReset (s : State) : State :=
  let s1 := (List.range 16).foldl (fun s r => (s.set (CxeRope.adr r) CxeRope.enable 0).ropeOff r) s
  (s1.listed 0x440000 0x40 4096).foldl (fun s n =>
    ((s.set (CxeStn.adr n) CxeStn.streak 0).set (CxeStn.adr n) CxeStn.lost 0).modStn n
      fun x => { x with armed := false, gather := Gather.none }) s1

/-- The ropes owned by slices bound to function `f` lose their host; with none given, every rope does (R171). -/
def State.hostLost (s : State) (f : Option Nat) : State :=
  (List.range 16).foldl (fun s r =>
    let k := s.ropeSlice r
    let hit : Bool := match f with
      | some g => s.bound k && s.slicePf k == g
      | none => true
    if hit ∧ s.ropeMode r ≠ rmOFF then s.modRope r fun x => { x with hostLost := true } else s) s

end Sys2Proof.Machine
end

