-- ==== Sys2Proof/Machine/MgtOps.lean ====
section
/-!
DEFINITION. Naonant messages: responses, status codes, and what a request leaves in U20 (R520–R522, R531).
-/

namespace Sys2Proof.Machine

/-- Status codes (R522). -/
def nsOK : Nat := 0
def nsNOT_LEAD : Nat := 1
def nsSTATIC : Nat := 2
def nsVALUE : Nat := 3
def nsFLASH_BUSY : Nat := 4
def nsOUT_OF_AREA : Nat := 5
def nsBAD_REQUEST : Nat := 6
def nsHALTED : Nat := 7
def nsUNPOWERED : Nat := 8
def nsBUSY : Nat := 9
def nsKEYS_LOCKED : Nat := 10
def nsVERSION : Nat := 11

/-- The status that a write's outcome is answered with. -/
def WStatus.code : WStatus → Nat
  | .ok => nsOK
  | .notLead => nsNOT_LEAD
  | .static => nsSTATIC
  | .value => nsVALUE
  | .flashBusy => nsFLASH_BUSY
  | .outOfArea => nsOUT_OF_AREA
  | .halted => nsHALTED
  | .unpowered => nsUNPOWERED
  | .busy => nsBUSY

/-- The commands of R521. -/
def ncGET_VERSION : Nat := 0x01
def ncREG_READ : Nat := 0x10
def ncREG_WRITE : Nat := 0x11
def ncLEAD : Nat := 0x20
def ncPOWER : Nat := 0x30
def ncRESTART : Nat := 0x31
def ncMOMENT_READ : Nat := 0x40
def ncSTAGE_WRITE : Nat := 0x50
def ncSTAGE_CMD : Nat := 0x51
def ncTIME_READ : Nat := 0x60
def ncATTEST_KEY : Nat := 0x70
def ncEVENT : Nat := 0x80

/-- The bytes of a Naonant message (R520). -/
def naonant (ver cmd tag status : Nat) (body : List Byte) : List Byte :=
  [0x7E] ++ beBytes 2 0x1F8C ++ leBytes 1 (ver * 16) ++ leBytes 1 cmd ++ leBytes 1 tag ++ leBytes 2 status ++ body

/-- A request is answered (R521). -/
def State.reply (s : State) (m : BitVec 4 × BitVec 8) (cmd status : Nat) (body : List Byte) : State :=
  s.emit (.mgt (naonant m.1.toNat (0x80 + cmd) m.2.toNat status body))

/-- A STOP on the bus: the address written last takes effect (R537). -/
def State.busStop (s : State) : State := s.latchB fun b _ => b == .busStop

/-- U20 serves: it is powered in every state except Off, and starts when PERST_N rises (R67, R489). -/
def State.mgtUp (s : State) : Bool := s.boot.perst && !s.pwr.off

/-- A request has been received, at its VERSION (R531, R537). -/
def State.heard (s : State) (m : BitVec 4 × BitVec 8) : State :=
  let s1 := s.busStop.set MgtStatus.adr MgtStatus.version m.1.toNat
  if m.1 = 2 then { s1 with mgt := { s1.mgt with v2seen := true } } else s1

/-- A request is served, unless its VERSION does not have the command (R521). -/
def State.naonantServe (s : State) (m : BitVec 4 × BitVec 8) (cmd : Nat) (v1 : Bool) (f : State → State × Nat × List Byte) : State :=
  if !s.mgtUp then s
  else
    let s1 := s.heard m
    if (m.1 = 1 ∧ !v1) ∨ (m.1 ≠ 1 ∧ m.1 ≠ 2) then s1.reply m cmd nsVERSION []
    else
      let (s2, st, body) := f s1
      s2.reply m cmd st body

end Sys2Proof.Machine
end

