-- ==== Sys2Proof/Machine/StartOps.lean ====
section
/-!
DEFINITION. What the start sequence is written with: steps, halts, image headers, seals and the slot choice
(R38–R46, R67–R91).
-/

namespace Sys2Proof.Machine

/-! ## Steps and halts -/

/-- STEP. -/
def State.bootStep (s : State) : Nat := s.get BootStatus.adr BootStatus.step

/-- The start sequence runs step `n` (R67); in a wake, once the domains are powered (R483). -/
def State.atStep (s : State) (n : Nat) : Bool :=
  let st := s.get PwrStatus.adr PwrStatus.state
  s.boot.perst && !s.pwr.off && !s.halted && s.bootStep == n && st != 2 && st != 3 && (st != 4 || s.boot.wake)

/-- A firmware replacement runs step `n` (R508). -/
def State.replStep (s : State) (n : Nat) : Bool := match s.boot.replacing with | some (m, _) => m == n | none => false

/-- Changes the start sequence's own state. -/
def State.modBoot (s : State) (f : Boot → Boot) : State := { s with boot := f s.boot }

/-- Step `n` has ended: the next begins; 12 shows as 0xFF. -/
def State.stepDone (s : State) (n : Nat) : State :=
  if s.replStep n then s.modBoot fun b => { b with replacing := some (n + 1, 0) }
  else s.set BootStatus.adr BootStatus.step (if n + 1 = 12 then 0xFF else n + 1)

/-- A halt (R91). -/
def State.halt (s : State) (code : Nat) : State := (s.set BootStatus.adr BootStatus.haltCode code).raise 1 9 code

/-- A step fails: the device halts, or the replacement that runs ends with `status` (R509). -/
def State.stepFails (s : State) (n code status : Nat) : State :=
  if s.replStep n then s.modBoot fun b => { b with replacing := some (10, status) } else s.halt code

/-- Founding units reach READY (R33). -/
def State.foundingReady (s : State) (us : List Nat) : State :=
  us.foldl (fun (s : State) u => if s.ustate u = stSTARTING then s.goReady u else s) s

/-- The scale is known: units without power at it show SCALE_OFF (R4). -/
def State.setScale (s : State) (n : Nat) : State :=
  let s1 := (s.set BootStatus.adr BootStatus.scale n).set HifIdent.adr HifIdent.scale n
  [7, 8, 16, 17, 22].foldl (fun (s : State) u => if scaleOff n u then s.set (Hdr.adr u) Hdr.cause caSCALE_OFF else s) s1

/-! ## Fuses (R89) -/

/-- The value of a counter: a position counts as set when either copy is. -/
def countPositions (p : BitVec 64 × BitVec 64) : Nat :=
  ((List.range 64).filter fun i => (p.1 ||| p.2).getLsbD i).length

/-- Firmware and configuration counters. -/
def State.fwCounter (s : State) : Nat := countPositions s.boot.fuses.fwPos
def State.cfgCounter (s : State) : Nat := countPositions s.boot.fuses.cfgPos

/-- A key is present and not revoked; `fw` picks the vendor keys. -/
def Fuses.keyPresent (f : Fuses) (fw : Bool) (i : Nat) : Bool := (if fw then f.vendorHash else f.ownerHash).getD i 0 != 0
def Fuses.keyRevoked (f : Fuses) (fw : Bool) (i : Nat) : Bool := (if fw then f.vendorRevoked else f.ownerRevoked).getLsbD i
def Fuses.keyOk (f : Fuses) (fw : Bool) (i : Nat) : Bool := decide (i < 4) && f.keyPresent fw i && !f.keyRevoked fw i

/-- A map of the keys that `p` picks. -/
def keyMap (p : Nat → Bool) : Nat := ((List.range 4).map fun i => b2n (p i) * 2 ^ i).sum

/-! ## The flash header (R72, R73) -/

/-- The header that 256 bytes spell. -/
def parseHdr (b : List Byte) : FlashHdr :=
  { fwA := leAt b 8 4, fwB := leAt b 12 4, fwSize := leAt b 16 4, cfgA := leAt b 20 4, cfgB := leAt b 24 4, cfgSize := leAt b 28 4
    stage := leAt b 32 4, stageSize := leAt b 36 4 }

/-- The five areas and the two header sectors: offset and size. -/
def FlashHdr.areas (h : FlashHdr) : List (Nat × Nat) :=
  [(0, 0x10000), (0x10000, 0x10000), (h.fwA, h.fwSize), (h.fwB, h.fwSize), (h.cfgA, h.cfgSize), (h.cfgB, h.cfgSize), (h.stage, h.stageSize)]

/-- No two ranges have an offset in common. -/
def disjoint : List (Nat × Nat) → Bool
  | [] => true
  | x :: xs => xs.all (fun y => x.2 == 0 || y.2 == 0 || decide (x.1 + x.2 ≤ y.1) || decide (y.1 + y.2 ≤ x.1)) && disjoint xs

/-- A header copy is valid (R73), on a flash of `cap` bytes. -/
def hdrValid (cap : Nat) (b : List Byte) : Bool :=
  let h := parseHdr b
  leAt b 0 4 == 0x48464B48 && leAt b 4 2 == 2 && crc32 (slice b 0 252) == leAt b 252 4 &&
    ([h.fwA, h.fwB, h.fwSize, h.cfgA, h.cfgB, h.cfgSize, h.stage, h.stageSize].all fun x => x % 0x10000 == 0) &&
    disjoint h.areas && h.areas.all fun x => decide (x.1 + x.2 ≤ cap)

/-! ## Images (R38–R45, R74–R77) -/

/-- LENGTH, EPOCH, SEQ and SEAL_KEY of an image header. -/
def imgLength (h : List Byte) : Nat := leAt h 16 4
def imgEpoch (h : List Byte) : Nat := leAt h 8 4
def imgSeq (h : List Byte) : Nat := leAt h 12 4

/-- The reserved bytes that both image headers share are zero. -/
def hdrReserved (h : List Byte) : Bool := leAt h 7 1 == 0 && leAt h 30 2 == 0 && allZero (slice h 144 112)

/-- SCALE_MASK allows a scale; a FORMAT 2 configuration header is read as allowing every one (R39). -/
def maskAllows (fw : Bool) (h : List Byte) (scale : Nat) : Bool :=
  let m := if !fw && leAt h 4 2 == 2 then 0 else leAt h 6 1
  m == 0 || bit m (scale - 1)

/-- A header is sound but for its SCALE_MASK (R75), in a slot of `size` bytes. -/
def soundShape (fw : Bool) (size : Nat) (h : List Byte) : Bool :=
  let n := imgLength h
  hdrReserved h && n % 4 == 0 && decide (n ≤ size) &&
    (if fw then leAt h 0 4 == 0x57464B48 && leAt h 4 2 == 2 && decide (256 < n) && leAt h 20 4 % 4 == 0 && decide (leAt h 20 4 < n - 256)
     else leAt h 0 4 == 0x46434B48 && (leAt h 4 2 == 2 || leAt h 4 2 == 3) && decide (256 ≤ n))

/-- A slot header is sound (R75). -/
def sound (fw : Bool) (size scale : Nat) (h : List Byte) : Bool := soundShape fw size h && maskAllows fw h scale

/-- A record header (R40, R41): type, unit, interface level, body length, OPTIONAL, its reserved bits, and its own
bytes. -/
structure RecHdr where
  type : Nat
  unit : Nat
  ifv : Nat
  len : Nat
  optional : Bool
  reserved : Bool
  size : Nat
  deriving DecidableEq, Repr

/-- The record header at the start of `b`, in an image of a FORMAT. -/
def recHdr (format : Nat) (b : List Byte) : RecHdr :=
  if format = 2 then
    let u := leAt b 1 1
    { type := leAt b 0 1, unit := u, ifv := 1, len := leAt b 2 2, optional := decide (1 < ifvMinOf u), reserved := false, size := 4 }
  else
    { type := leAt b 0 2, unit := leAt b 2 1, ifv := leAt b 3 1, len := leAt b 4 2, optional := bit (leAt b 6 2) 0
      reserved := leAt b 6 2 / 2 != 0, size := 8 }

/-- The records fill `b` exactly and number `n` (R45). -/
def recordsOk (format : Nat) : Nat → List Byte → Bool
  | 0, b => b.isEmpty
  | n + 1, b =>
      let h := recHdr format b
      decide (h.size + h.len ≤ b.length) && h.len % 4 == 0 && (h.type == 0 || decide (h.unit < 24)) && recordsOk format n (b.drop (h.size + h.len))

/-- An image of a kind is structurally valid but for its SCALE_MASK (R45, R75). -/
def structShape (fw : Bool) (size : Nat) (img : List Byte) : Bool :=
  let b := img.take (imgLength img)
  soundShape fw size img && b.length == imgLength img && crc32 (slice b 0 24 ++ b.drop 256) == leAt b 24 4 &&
    (fw || (decide (leAt b 20 4 ≤ b.length) && recordsOk (leAt b 4 2) (leAt b 20 4) (b.drop 256)))

/-- An image of a kind is structurally valid (R45, R75). -/
def structValid (fw : Bool) (size scale : Nat) (img : List Byte) : Bool := structShape fw size img && maskAllows fw img scale

/-- The seal of an image under a device key (R76). -/
def sealOf (duk : List Byte) (fw : Bool) (img : List Byte) : List Byte :=
  let label : List Byte := if fw then [0x53, 0x45, 0x41, 0x4C, 0x2D, 0x46, 0x57] else [0x53, 0x45, 0x41, 0x4C, 0x2D, 0x43, 0x46, 0x47]
  let k := aesCmac duk (0x01#8 :: label) ++ aesCmac duk (0x02#8 :: label)
  aesCmac k (slice img 0 32 ++ (img.take (imgLength img)).drop 256)

/-- The most that a slot of a kind holds: 16 MB of firmware, 8 MB of configuration (R36, R72). -/
def slotMax (fw : Bool) : Nat := if fw then 0x1000000 else 0x800000

/-- The size of a kind's slots. -/
def State.slotSize (s : State) (fw : Bool) : Nat :=
  match s.boot.hdr with | some h => min (slotMax fw) (if fw then h.fwSize else h.cfgSize) | none => 0

/-- The counter of a kind. -/
def State.counter (s : State) (fw : Bool) : Nat := if fw then s.fwCounter else s.cfgCounter

/-- An image is structurally valid here, and trusted (R77). -/
def State.imgValid (s : State) (fw : Bool) (img : List Byte) : Bool := structValid fw (s.slotSize fw) s.scale img
def State.imgTrusted (s : State) (fw : Bool) (img : List Byte) : Bool :=
  s.imgValid fw img && (match s.boot.romKey with | some k => sealOf k fw img == slice img 32 16 | none => false) &&
    s.boot.fuses.keyOk fw (leAt img 29 1) && decide (s.counter fw ≤ imgEpoch img)

/-! ## The slot choice (R78) -/

/-- What the choice returns: the slot, whether it is trusted, and whether it is not the first candidate. -/
structure Choice where
  slot : Option Nat
  trusted : Bool
  later : Bool
  deriving DecidableEq, Repr

/-- The candidates in order: (EPOCH, SEQ) descending, A first on a tie. -/
def State.candidateSlots (s : State) (fw : Bool) (hs : List (List Byte)) : List Nat :=
  let c := [0, 1].filter fun i =>
    let h := hs.getD i []
    sound fw (s.slotSize fw) s.scale h && (!fw || decide (s.counter fw ≤ imgEpoch h))
  let e (i : Nat) : Nat := imgEpoch (hs.getD i []) * 2 ^ 32 + imgSeq (hs.getD i [])
  if c = [0, 1] ∧ e 0 < e 1 then [1, 0] else c

/-- The choice over candidates; none while a slot's bytes have not all arrived. -/
def State.chooseFrom (s : State) (fw : Bool) (hs imgs : List (List Byte)) (first : Option Nat) (fallback : Option Nat) :
    List Nat → Option Choice
  | [] => some ⟨fallback, false, false⟩
  | i :: is =>
      let img := imgs.getD i []
      if img.length < imgLength (hs.getD i []) then none
      else if s.imgTrusted fw img then some ⟨some i, true, first != some i⟩
      else s.chooseFrom fw hs imgs first (if fallback.isNone ∧ s.imgValid fw img then some i else fallback) is

/-- The choice of R78 on slots A and B of a kind. -/
def State.chooseSlot (s : State) (fw : Bool) (hs imgs : List (List Byte)) : Option Choice :=
  let c := s.candidateSlots fw hs
  s.chooseFrom fw hs imgs c.head? none c

/-- TRUST_LOST is set (R79, R80). -/
def State.loseTrust (s : State) : State :=
  if s.getB SysTrust.adr SysTrust.trustLost then s else (s.set SysTrust.adr SysTrust.trustLost 1).raise 1 6 0

/-- The choice's fallback: its flag and SLOT_FALLBACK (R78). -/
def State.fellBack (s : State) (fw : Bool) (c : Choice) : State :=
  if c.trusted ∧ c.later then
    let f := if fw then SysTrust.fwFallback else SysTrust.cfgFallback
    (s.set SysTrust.adr f 1).raise 1 5 (b2n (!fw) + 16 * c.slot.getD 0)
  else s

/-! ## Retained banks (R486, R487) -/

/-- The CXE bank of a cam point word, of a station and of a template. -/
def camBank (i : Nat) : Nat := 8 + i / 4 / 65536
def stnBank (n : Nat) : Nat := 14 + n / 2048

/-- The geometry of the exact-match tables: buckets in each half, first bank, banks. -/
def State.geometry (s : State) : List (Nat × Nat × Nat) :=
  (List.range 16).map fun t =>
    if s.tOn t then (s.tBuckets t / 2, s.act (EmtTable.adr t) EmtTable.firstBank, banksOf (s.act (EmtTable.adr t) EmtTable.banks))
    else (1, 0, 2)

/-- Contents of table and CXE memory, as far as their banks are in the maps `t` and `c`. -/
def State.onlyBanks (s : State) (t c : Nat) (geo : List (Nat × Nat × Nat)) : State :=
  let tabs := (List.range 16).map fun i =>
    let m := s.tab i
    match geo[i]? with
    | some (half, first, n) =>
        let slots := m.slots.filter fun x => decide (x.1 < stashBase) && bit t (bucketBank half first n (x.1 / 4))
        { EmtTab.init with slots := slots, hits := m.hits.filter fun h => (sfind slots h).isSome
                           owned := m.owned.filter fun o => slots.any fun x => x.2.take o.2.length == o.2 }
    | none => EmtTab.init
  let img (b : Nat) (m : List (Nat × Byte)) : List (Nat × Byte) := m.filter fun x => bit c (b + x.1 / 0x100000)
  let keep (a : Nat) : Bool :=
    if 0x440000 ≤ a ∧ a < 0x480000 then bit c (stnBank ((a - 0x440000) / 0x40))
    else if 0x480000 ≤ a ∧ a < 0x4A0000 then bit c (stnBank (s.stationCount - 256 + 4 * ((a - 0x480000) / 0x800)))
    else true
  { s with
    emt := { s.emt with tabs := tabs }
    cxe := { s.cxe with out0 := img 0 s.cxe.out0, out1 := img 2 s.cxe.out1, in0 := img 4 s.cxe.in0, in1 := img 6 s.cxe.in1 }
    mpi := { s.mpi with cam := s.mpi.cam.filter fun x => bit c (camBank x.1) }
    regs := s.regs.filter fun x => keep x.1
    force := s.force.filter fun x => keep x.1 }

/-- Contents of the table and CXE banks of the maps `t` and `c`, each item behind its index, in address order (R479). -/
def State.bankBytes (s : State) (geo : List (Nat × Nat × Nat)) (t c : Nat) : List Byte :=
  let u := s.onlyBanks t c geo
  let bytes (l : List (Nat × Byte)) : List Byte := l.flatMap fun x => leBytes 4 x.1 ++ [x.2]
  let words (l : List (Nat × Word)) : List Byte := l.flatMap fun x => leBytes 4 x.1 ++ leBytes 4 x.2.toNat
  u.emt.tabs.flatMap (fun m => m.slots.flatMap fun x => leBytes 4 x.1 ++ x.2) ++ bytes u.cxe.out0 ++ bytes u.cxe.out1 ++ bytes u.cxe.in0 ++
    bytes u.cxe.in1 ++ words u.mpi.cam ++ words (u.regs.filter fun x => decide (0x440000 ≤ x.1) && decide (x.1 < 0x4A0000))

/-- The CRC-64 signatures of the retained banks of the maps `t` and `c`, a CXE bank under its number plus 32 (R479). -/
def State.signatures (s : State) (geo : List (Nat × Nat × Nat)) (t c : Nat) : List (Nat × Nat) :=
  (((List.range 16).filter (bit t)).map fun b => (b, crc64 (s.bankBytes geo (2 ^ b) 0))) ++
    (((List.range 16).filter (bit c)).map fun b => (32 + b, crc64 (s.bankBytes geo 0 (2 ^ b))))

/-- The map of the banks below `n` that `p` picks. -/
def bankMap (p : Nat → Bool) (n : Nat) : Nat := ((List.range n).map fun i => b2n (p i) * 2 ^ i).sum

/-- The physical banks that hold the logical banks of map `m` of group `k` (R486). -/
def State.physMap (s : State) (k m : Nat) : Nat :=
  bankMap (fun i => (List.range 16).any fun b => bit m b && (s.kind k).duty.getD b b == i) 17

/-- The retained banks of group `k` whose check fails: an uncorrectable error in the physical banks of `ue`, or a signature
that differs from the one stored (R486). -/
def State.banksFail (s : State) (x : Kept) (k m off ue : Nat) : Nat :=
  let now := s.signatures x.geometry x.table x.cxe
  bankMap (fun b => bit m b && (bit ue ((s.kind k).duty.getD b b) || sfind now (off + b) != sfind x.sigs (off + b))) 16

/-- Retained banks are declared lost: cleared to zero, and shown in PWR_RET_LOST (R486). -/
def State.banksLost (s : State) (t c : Nat) : State :=
  match s.pwr.kept with
  | none => s
  | some k =>
      let lt := k.table &&& t
      let lc := k.cxe &&& c
      let s1 := s.onlyBanks (0xFFFF - lt) (0xFFFF - lc) k.geometry
      let s2 := (s1.set PwrRetLost.adr PwrRetLost.table (s.get PwrRetLost.adr PwrRetLost.table ||| lt)).set PwrRetLost.adr PwrRetLost.cxe
        (s.get PwrRetLost.adr PwrRetLost.cxe ||| lc)
      s2

/-! ## Resets of the device (R563) -/

/-- The device as PERST_N leaves it; fuses, the commands that wait and what has left stay. -/
def State.blank (s : State) (perst : Bool) : State :=
  { State.reset with
    pending := s.pending, out := s.out, freeCtr := s.freeCtr, jtag := s.jtag
    boot := { State.reset.boot with perst := perst, fuses := s.boot.fuses } }

/-- The registers of the units that `p` picks. -/
def keepRegs (p : Nat → Bool) (m : List (Nat × Word)) : List (Nat × Word) := m.filter fun x => p (x.1 / 0x100000)

/-- The device with every register outside the units that `p` picks reset, and with the state of AON and MGT kept. -/
def State.onlyUnits (s : State) (p : Nat → Bool) : State :=
  { s.blank true with
    regs := keepRegs p s.regs, force := keepRegs p s.force, ticks := s.ticks, time := s.time, mgt := s.mgt
    pwr := { s.pwr with stopped := [], spread := List.replicate 10 0, spreadDue := 0, workAt := [] } }

/-- A Naonant restart: the start sequence begins again (R67, R484, R563, R595). -/
def State.deviceRestart (s : State) : State :=
  let s1 := (s.onlyUnits fun u => u == 0 || u == 20).tuRestart
  let s2 : State := { s1 with pwr := { s1.pwr with run := none, pendCause := 0, kept := none }, mgt := { s1.mgt with pldm := Pldm.idle } }
  let a := PwrStatus.adr
  ((((((s2.set a PwrStatus.state 0).set a PwrStatus.pending 0).set a PwrStatus.woke 0).set PwrCmd.adr PwrCmd.busy 0).set
    PwrRetLost.adr PwrRetLost.table 0).set PwrRetLost.adr PwrRetLost.cxe 0)

/-- Retention follows the physical bank that holds the contents (R486): a group of which banks are retained keeps its duty map,
and the bank without a duty is its reserve. -/
def State.keepDuty (s : State) (k m : Nat) (duty : List Nat) : State :=
  if m = 0 then s
  else (s.modKind k fun x => { x with duty := duty }).set (SvcKind.adr k) SvcKind.reserveMap (bankMap (fun i => !duty.contains i) 17)

/-- Step 4 of the entry to Bivouac: unretained domains lose their contents; the scale stays (R479, R483, R563).  The
settings of U03 go on steering the timebase until a wake powers U03 up again (R129). -/
def State.powerDown (s : State) : State :=
  match s.pwr.kept with
  | none => s
  | some k =>
      let s0 := (s.latchMask (windowMask 4)).onlyBanks k.table k.cxe k.geometry
      let tu := s.actB TuCtrl.adr TuCtrl.tuKeep
      let stn (a : Nat) : Bool := decide (0x440000 ≤ a) && decide (a < 0x4A0000)
      let t1 := s.onlyUnits fun u => u == 0 || u == 20 || u == 3
      let t := if tu then t1 else t1.tuHold
      let regs := (s0.regs.filter fun x => stn x.1).foldl (fun m x => sins m x.1 x.2) t.regs
      let t2 : State :=
        { t with regs := regs
                 emt := { t.emt with tabs := s0.emt.tabs }
                 cxe := { t.cxe with out0 := s0.cxe.out0, out1 := s0.cxe.out1, in0 := s0.cxe.in0, in1 := s0.cxe.in1 }
                 mpi := { t.mpi with cam := s0.mpi.cam }, mgt := { t.mgt with pldm := Pldm.idle } }
      let t3 := (t2.keepDuty rkTABLE k.table (s.kind rkTABLE).duty).keepDuty rkCXE k.cxe (s.kind rkCXE).duty
      if s.scale = 0 then t3 else t3.setScale s.scale

end Sys2Proof.Machine
end

