-- ==== Sys2Proof/Machine/Start.lean ====
section
/-!
DEFINITION. The start sequence up to the release of the cores (R67–R95, R570–R573).
-/

namespace Sys2Proof.Machine

/-- A filtered rise of PERST_N: step 1 begins (R67, R573). -/
def execPerstNRise (s : State) : Host.Outcome State Fault Refusal :=
  .next (if s.boot.perst || s.pwr.off then s else s.blank true)

/-- A filtered fall of PERST_N: the device keeps nothing but flash and fuses (R69). -/
def execPerstNFall (s : State) : Host.Outcome State Fault Refusal :=
  .next (if !s.boot.perst then s
    else if s.pwr.off then s.modBoot fun b => { b with perst := false }
    else s.blank false)

/-- A window of eight samples of SCALE[1:0] ends (R571). -/
def execStrapSample (samples : List (BitVec 2)) (s : State) : Host.Outcome State Fault Refusal :=
  .next (if s.atStep 1 && !s.boot.wake && samples.length == 8 && samples.all (fun x => x == samples.headD 0) then
      ((s.setScale ((samples.headD 0).toNat + 1)).foundingReady [0, 20]).stepDone 1
    else s)

/-- Step 2: the logic self-test and the ROM checksum. -/
def execSelfTest (logicOk romOk : Bool) (s : State) : Host.Outcome State Fault Refusal :=
  .next (if s.atStep 2 then
      if logicOk && romOk then (s.foundingReady [1]).stepDone 2 else s.halt 9
    else s)

/-- The copies of the fuses that software reads (R563). -/
def State.fuseCopies (s : State) : State :=
  let f := s.boot.fuses
  (((((s.set BootEpoch.adr BootEpoch.fwEpoch s.fwCounter).set BootEpoch.adr BootEpoch.cfgEpoch s.cfgCounter).set
    BootKeys.adr BootKeys.vendorPresent (keyMap (f.keyPresent true))).set BootKeys.adr BootKeys.vendorRevoked (keyMap (f.keyRevoked true))).set
    BootKeys.adr BootKeys.ownerPresent (keyMap (f.keyPresent false))).set BootKeys.adr BootKeys.ownerRevoked (keyMap (f.keyRevoked false))

/-- Step 3, also at the head of a replacement, where it reopens the ROM port (R89, R508). -/
def execFuseRead (rowsOk : Bool) (s : State) : Host.Outcome State Fault Refusal :=
  .next (if s.replStep 3 then
      if rowsOk then s.fuseCopies.modBoot fun b => { b with romKey := some b.fuses.duk, replacing := some (6, 0) }
      else s.stepFails 3 6 6
    else if s.atStep 3 then
      if rowsOk then
        (s.fuseCopies.modBoot fun b => { b with romKey := some b.fuses.duk, dukReg := some b.fuses.duk }).stepDone 3
      else s.halt 6
    else s)

/-- Bank `i` of kind `k` failed at start: it is retired, and the reserve serves in its place (R29, R494). -/
def State.retireAtStart (s : State) (k i : Nat) : State :=
  let a := SvcKind.adr k
  let s1 := ((s.set a SvcKind.retiredMap (2 ^ i)).set a SvcKind.reserveMap 0).set a SvcKind.state 4
  let s2 := match (List.range 17).find? fun r => !(s.kind k).duty.contains r with
    | some r => s1.modKind k fun x => { x with duty := x.duty.map fun d => if d = i then r else d }
    | none => s1
  s2.raise 23 10 k

/-- Step 4: every bank outside `skip` is tested; a group without 16 sound banks halts the device (R29, R67). -/
def State.testGroup (s : State) (k : Nat) (fail : BitVec 17) (skip : Nat) : State :=
  let bad := (List.range 17).filter fun i => fail.getLsbD i && !bit skip i
  if s.halted then s
  else match bad with
    | [] => s
    | [i] => s.retireAtStart k i
    | _ => s.halt 0xA

/-- The check of the retained banks of a wake, by the errors that its scrub meets in physical banks: those that fail are lost;
correctable and uncorrectable errors have the effect that R504 gives them (R486). -/
def State.retentionCheck (s : State) (x : Kept) (ueTable ueCxe ceTable ceCxe : Nat) : State :=
  let pt := s.physMap rkTABLE x.table
  let pc := s.physMap rkCXE x.cxe
  let s1 := s.banksLost (s.banksFail x rkTABLE x.table 0 ueTable) (s.banksFail x rkCXE x.cxe 32 ueCxe)
  let errs (s : State) (k p ue ce : Nat) : State := (List.range 17).foldl (fun (s : State) m =>
    if bit (p &&& ue) m then s.retireBank k m 23 else if bit (p &&& ce) m then s.correctable k m 23 else s) s
  errs (errs s1 rkTABLE pt ueTable ceTable) rkCXE pc ueCxe ceCxe

/-- Step 4, by the physical banks of each group whose test fails; in a wake it tests the unretained banks and checks the
retained ones (R483, R486). -/
def execBankTest (general table packet cxe ueTable ueCxe ceTable ceCxe : BitVec 17) (s : State) : Host.Outcome State Fault Refusal :=
  .next (if s.atStep 4 then
      let k := if s.boot.wake then s.pwr.kept else none
      let rt := match k with | some x => s.physMap rkTABLE x.table | none => 0
      let rc := match k with | some x => s.physMap rkCXE x.cxe | none => 0
      let s1 := (((s.testGroup 5 general 0).testGroup 6 table rt).testGroup 7 packet 0).testGroup 8 cxe rc
      if s1.halted then s1
      else
        let s2 := match k with
          | some x => s1.retentionCheck x ueTable.toNat ueCxe.toNat ceTable.toNat ceCxe.toNat
          | none => s1
        (s2.foundingReady [2, 14, 19, 23]).stepDone 4
    else s)

/-- Step 5 (R71). -/
def execSfdpDiscovery (signature octal : Bool) (maxMhz capacity : Nat) (s : State) : Host.Outcome State Fault Refusal :=
  .next (if s.atStep 5 then
      if signature && octal then (s.modBoot fun b => { b with sfdp := some (maxMhz, capacity) }).stepDone 5 else s.halt 1
    else s)

/-- Step 6: copy 0 governs when it is valid, else copy 1 (R73). -/
def execFlashHeaderCheck (copy0 copy1 : List Byte) (s : State) : Host.Outcome State Fault Refusal :=
  .next (if s.atStep 6 || s.replStep 6 then
      let cap := match s.boot.sfdp with | some (_, c) => c | none => 0
      if hdrValid cap copy0 then (s.modBoot fun b => { b with hdr := some (parseHdr copy0) }).stepDone 6
      else if hdrValid cap copy1 then (s.modBoot fun b => { b with hdr := some (parseHdr copy1) }).stepDone 6
      else s.stepFails 6 2 5
    else s)

/-! ## Install mode (R83–R85) -/

/-- The bytes of an image that its signature covers. -/
def signedBytes (img : List Byte) : List Byte := slice img 0 28 ++ (img.take (imgLength img)).drop 256

/-- The first install check that fails, as RESULT; 0 when none does (R84).  DESIGN CHOICE (log 105): check 2 leaves
SCALE_MASK, which R75 counts in soundness, to check 3; and where the envelope's LENGTH and the image header's differ, the
envelope's is judged for its fit alone and the header's is the image's. -/
def State.installFault (s : State) (h : FlashHdr) (env img : List Byte) : Nat :=
  let kind := leAt env 4 1
  let fw := kind == 1
  let len := leAt env 8 4
  let pub := slice env 16 96
  let f := s.boot.fuses
  let key := leAt img 28 1
  if !(crc32 (slice env 4 108) == leAt env 112 4 && (kind == 1 || kind == 2) && decide (len ≤ s.slotSize fw) &&
      decide (len + 0x10000 ≤ h.stageSize)) then 0x10
  else if !structShape fw (s.slotSize fw) img then 0x11
  else if !maskAllows fw img s.scale then 0x17
  else if !(decide (key < 4) && f.keyPresent fw key && beNat (sha384 pub) == (if fw then f.vendorHash else f.ownerHash).getD key 0) then 0x12
  else if f.keyRevoked fw key then 0x13
  else if !ecdsaVerify pub (signedBytes img) (slice img 48 96) then 0x14
  else if imgEpoch img < s.counter fw then 0x15
  else 0

/-- The image as it is programmed: SEAL_KEY and SEAL are the ROM's (R76, R84). -/
def sealedImage (duk : List Byte) (fw : Bool) (img : List Byte) : List Byte :=
  let b := img.take (imgLength img)
  let b1 := slice b 0 29 ++ leBytes 1 (leAt b 28 1) ++ b.drop 30
  slice b1 0 32 ++ sealOf duk fw b1 ++ b1.drop 48

/-- The read-back of a programmed slot shows an image whose CRC and seal match (R84). -/
def readBackOk (duk : List Byte) (fw : Bool) (img : List Byte) : Bool :=
  let b := img.take (imgLength img)
  b.length == imgLength img && crc32 (slice b 0 24 ++ b.drop 256) == leAt b 24 4 && sealOf duk fw b == slice b 32 16

/-- The target slot is erased and the image programmed into it, page by page. -/
def State.writeSlot (s : State) (base size : Nat) (img : List Byte) : State :=
  let s1 := (List.range (size / 0x10000)).foldl (fun (s : State) i => s.emit (.flashErase (base + 0x10000 * i))) s
  (List.range ((img.length + 255) / 256)).foldl (fun (s : State) i => s.emit (.flashProgram (base + 256 * i) ((img.drop (256 * i)).take 256))) s1

/-- An install ends: RESULT, MARKER cleared, INSTALL_RESULT, and step 8 follows (R84, R96). -/
def State.installEnds (s : State) (h : FlashHdr) (result : Nat) : State :=
  (((s.set BootInstall.adr BootInstall.result result).emit (.flashProgram h.stage (leBytes 4 0))).raise 1 4 result).stepDone 7

/-- Step 7, on the envelope, the staged image, the slots of its KIND as they stand, and what the target slot reads back as
once it is programmed (R83–R85). -/
def execInstall (envelope image slotA slotB readBack : List Byte) (s : State) : Host.Outcome State Fault Refusal :=
  .next (if s.atStep 7 || s.replStep 7 then
      match s.boot.hdr with
      | none => s
      | some h =>
          if leAt envelope 0 4 != 0xA55AC33C then s.stepDone 7
          else
            let fw := leAt envelope 4 1 == 1
            let fault := s.installFault h envelope image
            let s1 := s.set BootInstall.adr BootInstall.kind (leAt envelope 4 1)
            let s2 := if fault = 0x10 then s1 else s1.set BootInstall.adr BootInstall.key (leAt image 28 1)
            if fault ≠ 0 then s2.installEnds h fault
            else match s2.chooseSlot fw [slotA.take 256, slotB.take 256] [slotA, slotB], s2.boot.romKey with
              | some c, some duk =>
                  let target := if c.slot = some 0 then 1 else 0
                  let base := if fw then (if target = 0 then h.fwA else h.fwB) else (if target = 0 then h.cfgA else h.cfgB)
                  let s3 := ((s2.fellBack fw c).set BootInstall.adr BootInstall.slot target).writeSlot base (s.slotSize fw)
                    (sealedImage duk fw image)
                  s3.installEnds h (if readBackOk duk fw readBack then 1 else 0x16)
              | _, _ => s
    else s)

/-! ## Images (R47, R75, R78–R81) -/

/-- Step 8: the four slot headers are read. -/
def execSlotHeaderRead (fwA fwB cfgA cfgB : List Byte) (s : State) : Host.Outcome State Fault Refusal :=
  .next (if s.atStep 8 || s.replStep 8 then
      (s.modBoot fun b => { b with slotHdrs := [fwA, fwB, cfgA, cfgB].map (·.take 256), reads := [[], [], [], []], reread := none }).stepDone 8
    else s)

/-- The firmware area of general memory, and the area that a replacement alternates with (R81, R508). -/
def fwBase : Nat := 0x20000000
def fwAlternate : Nat := 0x21000000

/-- The base that step 9 loads an image at. -/
def State.loadBase (s : State) : Nat :=
  match s.boot.replacing, s.boot.fw with
  | some _, some (_, b, _, _) => if b = fwBase then fwAlternate else fwBase
  | _, _ => fwBase

/-- Bytes of slot `i` arrive in a full read. -/
def State.slotBurst (s : State) (i : Nat) (d : List Byte) : State := s.modBoot fun b => { b with reads := b.reads.modify i (· ++ d) }

/-- The body of slot `i`'s image, as far as it has arrived, stands at the base that step 9 loads at (R81). -/
def State.loadBody (s : State) (i : Nat) : State :=
  let img := s.boot.reads.getD i []
  let base := s.loadBase
  s.modBoot fun b =>
    { b with loaded := (b.loaded.filter fun x => x.1 != base) ++ [(base, (img.take (imgLength img)).drop 256)] }

/-- A burst arrives: up to 4 KB of a slot in its step, or of the apply pass (R47).  A firmware image is loaded during its
full read (R81). -/
def execFlashBurst (area : FlashArea) (data : List Byte) (s : State) : Host.Outcome State Fault Refusal :=
  let d := data.take 4096
  .next (match area with
    | .fwA => if s.atStep 9 || s.replStep 9 then (s.slotBurst 0 d).loadBody 0 else s
    | .fwB => if s.atStep 9 || s.replStep 9 then (s.slotBurst 1 d).loadBody 1 else s
    | .cfgA => if s.atStep 10 then s.slotBurst 2 d else s
    | .cfgB => if s.atStep 10 then s.slotBurst 3 d else s
    | .apply => if s.get CfgStatus.adr CfgStatus.phase = 2 ∧ !s.halted then s.modBoot fun b => { b with applyBuf := b.applyBuf ++ d } else s)

/-- Slot `i` is read again, because the choice falls back to it and it has been read before (R81). -/
def State.rereadFw (s : State) (i : Nat) : State :=
  s.modBoot fun b => { b with reads := b.reads.set i [], reread := some i }

/-- The image of slot `i`, whose body its read has loaded, gives the entry address (R81, R93, R508). -/
def State.loadFw (s : State) (i : Nat) : State :=
  let img := s.boot.reads.getD i []
  let base := s.loadBase
  let f := (i, base, imgEpoch img, imgSeq img)
  (s.loadBody i).modBoot fun b =>
    { b with entry := base + leAt img 20 4
             fw := if b.replacing.isSome then b.fw else some f, newFw := if b.replacing.isSome then some f else none }

/-- Step 9 (R78, R79, R509); a fallback, whose full read has already run, waits for its second read (R81). -/
def execFirmwareChoice (s : State) : Host.Outcome State Fault Refusal :=
  .next (if s.atStep 9 || s.replStep 9 then
      let repl := s.replStep 9
      let hs := [0, 1].map fun i => s.boot.slotHdrs.getD i []
      let imgs := [0, 1].map fun i => s.boot.reads.getD i []
      let run (s1 : State) (i : Nat) (trusted : Bool) : State :=
        let s2 := s1.loadFw i
        if repl then s2.stepDone 9
        else
          let s3 := (s2.set SysTrust.adr SysTrust.fwSlot i).set SysTrust.adr SysTrust.fwTrusted (b2n trusted)
          ((if trusted then s3 else s3.loseTrust).stepDone 9).set CfgStatus.adr CfgStatus.phase 1
      if hs.all fun h => !sound true (s.slotSize true) s.scale h then s.stepFails 9 3 5
      else if s.candidateSlots true hs = [] then s.stepFails 9 8 5
      else match s.chooseSlot true hs imgs with
        | none => s
        | some c =>
            match c.slot with
            | none => s.stepFails 9 3 5
            | some i =>
                if c.trusted then run (s.fellBack true c) i true
                else if repl then s.stepFails 9 4 5
                else if s.scale ≥ 3 then s.halt 4
                else if s.boot.reread ≠ some i then s.rereadFw i
                else run s i false
    else s)

/-- Step 10 (R45, R46, R78, R80); in a wake the SEAL of the chosen image is compared with the one stored (R486). -/
def execConfigCheckPass (s : State) : Host.Outcome State Fault Refusal :=
  .next (if s.atStep 10 then
      let hs := [2, 3].map fun i => s.boot.slotHdrs.getD i []
      let imgs := [2, 3].map fun i => s.boot.reads.getD i []
      match s.chooseSlot false hs imgs with
      | none => s
      | some c =>
          if !c.trusted && decide (s.scale ≥ 3) then s.halt 5
          else
            let img := match c.slot with | some i => imgs.getD i [] | none => []
            let mark := slice img 32 16
            let s1 := s.fellBack false c
            let s2 := match c.slot with
              | some i =>
                  let t := ((s1.set CfgStatus.adr CfgStatus.slot i).set CfgStatus.adr CfgStatus.format (leAt img 4 2)).set
                    SysTrust.adr SysTrust.cfgTrusted (b2n c.trusted)
                  (if c.trusted then t else t.loseTrust).modBoot fun b => { b with cfg := some (imgEpoch img, imgSeq img), cfgSeal := mark }
              | none => s1.set CfgStatus.adr CfgStatus.phase 4
            let s3 := match s.pwr.kept with
              | some k => if s.boot.wake && mark != k.imgSeal then s2.banksLost 0xFFFF 0xFFFF else s2
              | none => s2
            s3.stepDone 10
    else s)

/-! ## Core release (R82, R93–R95) -/

/-- The cores that a scale powers. -/
def coresPowered (scale : Nat) : Nat := (2 ^ activeCores scale - 1) ||| 0x3000000

/-- A write of BOOT_RELEASE that is taken: the cores that it starts, and the boot information block (R94, R95). -/
def State.releaseCores (s : State) (mask : Nat) : State :=
  let run := s.get BootRunning.adr BootRunning.core
  let start := (mask &&& coresPowered s.scale) &&& (0x3FFFFFF - ((run ||| s.boot.released.toNat) &&& 0x3FFFFFF))
  if start = 0 then s
  else
    let a := SvcKind.adr 0
    let m := s.get a SvcKind.reserveMap
    let s1 := (s.set a SvcKind.reserveMap (m - (m &&& start))).modBoot fun b =>
      { b with released := b.released ||| BitVec.ofNat 26 start
               bootInfo := [SysTrust.adr, BootStatus.adr, BootInstall.adr, BootEpoch.adr, BootKeys.adr].map s.rd }
    (s1.startClocks ((List.range 26).filter (bit start))).raise 1 8 start

/-- Entry address `v` for every core of `cores`. -/
def State.putVectors (s : State) (v : Nat) (cores : List Nat) : State :=
  cores.foldl (fun (s : State) n => s.set (BootVector.adr n) BootVector.address v) s

/-- Step 11: when trust is lost the keys are locked and no copy of the DUK is left (R82); the ROM port closes, the cores active at rest are released, and the
apply pass begins. -/
def execCoreRelease (s : State) : Host.Outcome State Fault Refusal :=
  .next (if s.atStep 11 then
      let s1 := if s.getB SysTrust.adr SysTrust.trustLost then
          (s.set SysTrust.adr SysTrust.keysLocked 1).modBoot fun b => { b with dukReg := none }
        else s
      let n := activeCores s.scale
      let s2 := ((s1.modBoot fun b => { b with romKey := none }).putVectors s.boot.entry (List.range n)).releaseCores (2 ^ n - 1)
      let s3 := (s2.stepDone 11).modBoot fun b => { b with cursor := 256, recIndex := 0, applyBuf := [] }
      if s.get CfgStatus.adr CfgStatus.phase = 4 then s3 else s3.set CfgStatus.adr CfgStatus.phase 2
    else s)

/-- The start watchdog has counted out before step 11 (R70); the tick that completes the count acts on it as well. -/
def execStartWatchdogExpiry (s : State) : Host.Outcome State Fault Refusal :=
  .next (if s.atStep s.bootStep && decide (s.bootStep < 11) && decide (2 ^ 32 ≤ s.boot.wdTicks) then s.halt 0xF else s)

/-- A write of BOOT_RELEASE: firmware and the base camp core alone may make it (R95). -/
def State.bootRelease (s : State) (o : Sys2Proof.Origin) (mask : Nat) : WRes :=
  s.gate o 1 0x1020 false false fun s =>
    if o = .firmware ∨ o = .base then (s.releaseCores mask).done else s.refuse 1 0x1020

/-- A write of BOOT_RELEASE. -/
def execBootReleaseWrite (o : Sys2Proof.Origin) (mask : BitVec 26) (s : State) : Host.Outcome State Fault Refusal :=
  (s.bootRelease o mask.toNat).out

/-- A released core fetches its first instruction from its BOOT_VECTOR, and runs: in machine mode, with its number in a0 and
the address of the boot information block in a1 (R93, R94). -/
def execCoreFirstFetch (n : Fin 26) (s : State) : Host.Outcome State Fault Refusal :=
  .next (if s.boot.released.getLsbD n then
      (s.set BootRunning.adr BootRunning.core (s.get BootRunning.adr BootRunning.core ||| 2 ^ n.val)).modBoot fun b =>
        { b with released := b.released &&& ~~~(1#26 <<< n.val)
                 cores := sins b.cores n.val ⟨s.get (BootVector.adr n) BootVector.address, n.val, Config.bootInfoAddr, true⟩ }
    else s)

end Sys2Proof.Machine
end

