-- ==== Sys2Proof/Machine/Fuse.lean ====
section
/-!
DEFINITION. Fuse commands and the staging registers (R87–R90, R515).
-/

namespace Sys2Proof.Machine

/-! ## Fuse commands (R90) -/

/-- STATUS codes of BOOT_FUSE_RESULT. -/
def fuOK : Nat := 0
def fuREFUSED_CONFIRM : Nat := 1
def fuREFUSED_VALUE : Nat := 2
def fuREFUSED_LAST_KEY : Nat := 3
def fuREFUSED_UNTRUSTED : Nat := 4
def fuBUSY : Nat := 5
def fuPROGRAM_FAILED : Nat := 6

/-- The operation that OP and VALUE name. -/
def fuseOp : Nat → Nat → FuseOp
  | 1, v => .advanceFw v
  | 2, v => .advanceCfg v
  | 3, v => .revokeVendor v
  | _, v => .revokeOwner v

/-- A fuse command ends: its status, and FUSE_DONE (R96). -/
def State.fuseEnds (s : State) (status : Nat) : State := (s.set BootFuseResult.adr BootFuseResult.status status).raise 1 7 status

/-- VALUE is refused for an operation: an epoch above 64 or above that of the running image, or no key index.  DESIGN CHOICE
(log 105): while no configuration image runs, no configuration epoch is allowed. -/
def State.fuseValueBad (s : State) : FuseOp → Bool
  | .advanceFw v => decide (64 < v) || (match s.boot.fw with | some (_, _, e, _) => decide (e < v) | none => true)
  | .advanceCfg v => decide (64 < v) || (match s.boot.cfg with | some (e, _) => decide (e < v) | none => true)
  | .revokeVendor i => decide (3 < i)
  | .revokeOwner i => decide (3 < i)

/-- Key `i` is the last of its kind that is present and not revoked. -/
def Fuses.lastKey (f : Fuses) (fw : Bool) (i : Nat) : Bool := f.keyOk fw i && (List.range 4).all fun j => j == i || !f.keyOk fw j

/-- The operation would revoke the last key of its kind. -/
def Fuses.lastKeyOp (f : Fuses) : FuseOp → Bool
  | .revokeVendor i => f.lastKey true i
  | .revokeOwner i => f.lastKey false i
  | _ => false

/-- The operation has nothing to program. -/
def State.fuseIdle (s : State) : FuseOp → Bool
  | .advanceFw v => decide (v ≤ s.fwCounter)
  | .advanceCfg v => decide (v ≤ s.cfgCounter)
  | _ => false

/-- A write of BOOT_FUSE_CMD with GO = 1.  DESIGN CHOICE (log 105): where several refusals of R90 hold at once, BUSY comes
first, and then CONFIRM, VALUE, LAST_KEY and UNTRUSTED. -/
def State.fuseCmd (s : State) (o : Sys2Proof.Origin) (op confirm value : Nat) : WRes :=
  let a := BootFuseCmd.adr
  let same := s.getB a BootFuseCmd.go && s.get a BootFuseCmd.op == op && s.get a BootFuseCmd.confirm == confirm
    && s.get a BootFuseCmd.value == value
  s.gate o 1 0x1014 (!same) false fun s =>
    let x := fuseOp op value
    if s.getB BootFuseResult.adr BootFuseResult.busy then (s.fuseEnds fuBUSY, .busy)
    else
      let s1 := ((s.set a BootFuseCmd.op op).set a BootFuseCmd.confirm confirm).set a BootFuseCmd.value value
      if confirm ≠ 0xA5 then (s1.fuseEnds fuREFUSED_CONFIRM).done
      else if s1.fuseValueBad x then (s1.fuseEnds fuREFUSED_VALUE).done
      else if s1.boot.fuses.lastKeyOp x then (s1.fuseEnds fuREFUSED_LAST_KEY).done
      else if s1.getB SysTrust.adr SysTrust.trustLost then (s1.fuseEnds fuREFUSED_UNTRUSTED).done
      else if s1.fuseIdle x then (s1.fuseEnds fuOK).done
      else (((s1.set a BootFuseCmd.go 1).set BootFuseResult.adr BootFuseResult.busy 1).modBoot fun b => { b with fuseCmd := some x }).done

/-- ADVANCE_FW_EPOCH. -/
def execAdvanceFwEpoch (o : Sys2Proof.Origin) (confirm value : BitVec 8) (s : State) : Host.Outcome State Fault Refusal :=
  (s.fuseCmd o 1 confirm.toNat value.toNat).out

/-- ADVANCE_CFG_EPOCH. -/
def execAdvanceCfgEpoch (o : Sys2Proof.Origin) (confirm value : BitVec 8) (s : State) : Host.Outcome State Fault Refusal :=
  (s.fuseCmd o 2 confirm.toNat value.toNat).out

/-- REVOKE_VENDOR. -/
def execRevokeVendor (o : Sys2Proof.Origin) (confirm value : BitVec 8) (s : State) : Host.Outcome State Fault Refusal :=
  (s.fuseCmd o 3 confirm.toNat value.toNat).out

/-- REVOKE_OWNER. -/
def execRevokeOwner (o : Sys2Proof.Origin) (confirm value : BitVec 8) (s : State) : Host.Outcome State Fault Refusal :=
  (s.fuseCmd o 4 confirm.toNat value.toNat).out

/-- Positions programmed upward until `v` of them count. -/
def advanceFrom : Nat → Nat → BitVec 64 × BitVec 64 → BitVec 64 × BitVec 64
  | 0, _, p => p
  | n + 1, v, p =>
      if v ≤ countPositions p then p
      else
        let i := 63 - n
        advanceFrom n v (p.1 ||| 1#64 <<< i, p.2 ||| 1#64 <<< i)

/-- The fuses after an operation that has succeeded. -/
def Fuses.programmed (f : Fuses) : FuseOp → Fuses
  | .advanceFw v => { f with fwPos := advanceFrom 64 v f.fwPos }
  | .advanceCfg v => { f with cfgPos := advanceFrom 64 v f.cfgPos }
  | .revokeVendor i => { f with vendorRevoked := f.vendorRevoked ||| 1#4 <<< i }
  | .revokeOwner i => { f with ownerRevoked := f.ownerRevoked ||| 1#4 <<< i }

/-- The fuses after an operation that has failed: those that it was to set may be set or not (free value `x`, log 4). -/
def Fuses.partly (f : Fuses) (op : FuseOp) (x : Nat) : Fuses :=
  let t := f.programmed op
  let m : BitVec 64 := BitVec.ofNat 64 x
  let n : BitVec 64 := BitVec.ofNat 64 (x / 2 ^ 64)
  let r : BitVec 4 := BitVec.ofNat 4 x
  { f with
    fwPos := (f.fwPos.1 ||| (t.fwPos.1 &&& m), f.fwPos.2 ||| (t.fwPos.2 &&& n))
    cfgPos := (f.cfgPos.1 ||| (t.cfgPos.1 &&& m), f.cfgPos.2 ||| (t.cfgPos.2 &&& n))
    vendorRevoked := f.vendorRevoked ||| (t.vendorRevoked &&& r), ownerRevoked := f.ownerRevoked ||| (t.ownerRevoked &&& r) }

/-- The running fuse command ends. -/
def execFuseDone (ok : Bool) (s : State) : Host.Outcome State Fault Refusal :=
  match s.boot.fuseCmd with
  | none => .next s
  | some op =>
      let s1 := s.modBoot fun b => { b with fuses := if ok then b.fuses.programmed op else b.fuses.partly op s.free, fuseCmd := none }
      let s2 := ((if ok then s1 else s1.tickFree).set BootFuseCmd.adr BootFuseCmd.go 0).set BootFuseResult.adr BootFuseResult.busy 0
      .next (s2.fuseEnds (if ok then fuOK else fuPROGRAM_FAILED))

/-! ## Staging (R37, R87, R88) -/

/-- The flash takes staging: the apply pass has ended, or none runs, or the device has halted (R37, R87). -/
def State.stageOpen (s : State) : Bool :=
  let p := s.get CfgStatus.adr CfgStatus.phase
  s.halted || p == 3 || (p == 4 && s.bootStep == 0xFF)

/-- The staging area: its flash offset and size.  DESIGN CHOICE (log 105): it is empty while no flash header has been read. -/
def State.stageArea (s : State) : Nat × Nat := match s.boot.hdr with | some h => (h.stage, h.stageSize) | none => (0, 0)

/-- A staging write is turned away with a status (R37, R87, R88). -/
def State.stageNo (s : State) (code : Nat) (w : WStatus) : WRes := (s.set CfgStageCmd.adr CfgStageCmd.status code, w)

/-- A flash operation of the staging registers begins. -/
def State.stageRun (s : State) (op : StageOp) (o : Out) : State :=
  ((((s.set CfgStageCmd.adr CfgStageCmd.busy 1).set CfgStageCmd.adr CfgStageCmd.status 0).modBoot fun b => { b with stageOp := some op }).startClocks [ckFLS]).emit o

/-- What every staging write meets. -/
def State.staging (s : State) (o : Sys2Proof.Origin) (off : Nat) (act : State → WRes) : WRes :=
  s.gate o 2 off true false fun s =>
    if !s.stageOpen || s.getB CfgStageCmd.adr CfgStageCmd.busy then s.stageNo 1 .flashBusy else act s

/-- The page at `p` is programmed with the words that the buffer holds of it; a byte that it does not hold stays erased. -/
def State.stagePage (s : State) (p : Nat) : State :=
  let data := (List.range 64).flatMap fun i => leBytes 4 ((sfind s.boot.page (p + 4 * i)).map (·.toNat) |>.getD 0xFFFFFFFF)
  let off := s.stageArea.1 + p
  (s.modBoot fun b => { b with page := b.page.filter fun x => x.1 / 256 != p / 256 }).stageRun (.program off data) (.flashProgram off data)

/-- A write of CFG_STAGE_DATA (R88). -/
def State.stageData (s : State) (o : Sys2Proof.Origin) (data : Word) : WRes :=
  s.staging o 0x1014 fun s =>
    let off := s.get CfgStageAddr.adr CfgStageAddr.offset
    if s.stageArea.2 < off + 4 then s.stageNo 2 .outOfArea
    else
      let s1 := (s.modBoot fun b => { b with page := sins b.page off data }).set CfgStageAddr.adr CfgStageAddr.offset (off + 4)
      (if off % 256 = 252 then s1.stagePage (off - 252) else s1).done

/-- A word written to CFG_STAGE_DATA. -/
def execStageDataWrite (o : Sys2Proof.Origin) (data : Word) (s : State) : Host.Outcome State Fault Refusal := (s.stageData o data).out

/-- The install MARKER is written (R83). -/
def State.stageMark (s : State) (v : Nat) : State :=
  s.stageRun (.marker v) (.flashProgram s.stageArea.1 (leBytes 4 v))

/-- A write of CFG_STAGE_CMD (R88).  DESIGN CHOICE (log 105): ERASE_64K with an offset inside a sector erases that sector,
counted from the start of the staging area. -/
def State.stageCmd (s : State) (o : Sys2Proof.Origin) (op : Nat) : WRes :=
  s.staging o 0x1018 fun s =>
    let off := s.get CfgStageAddr.adr CfgStageAddr.offset
    let (base, size) := s.stageArea
    if op = 0 then s.done
    else if 4 < op then s.refuse 2 0x1018
    else if op = 4 then
      match s.boot.page with
      | [] => (s.stageNo 0 .ok)
      | (p, _) :: _ => (s.stagePage (p / 256 * 256)).done
    else if size = 0 ∨ (op = 1 ∧ size ≤ off) then s.stageNo 2 .outOfArea
    else if op = 1 then
      let e := base + off / 0x10000 * 0x10000
      (s.stageRun (.erase e) (.flashErase e)).done
    else (s.stageMark (if op = 2 then 0xA55AC33C else 0)).done

/-- CFG_STAGE_ADDR takes a byte offset, a multiple of 4 (R88). -/
def State.stageAddr (s : State) (o : Sys2Proof.Origin) (off : Nat) : WRes :=
  s.gate o 2 0x1010 true false fun s =>
    if off % 4 ≠ 0 then s.refuse 2 0x1010 else (s.set CfgStageAddr.adr CfgStageAddr.offset off).done

/-- A staging command: a write of CFG_STAGE_CMD, or with `msg` a Naonant STAGE_CMD and its OFFSET (R521). -/
def State.stageMsg (s : State) (o : Sys2Proof.Origin) (msg : Option (BitVec 4 × BitVec 8 × Word)) (op : Nat) : State :=
  match msg with
  | none => (s.stageCmd o op).1
  | some (v, t, off) => s.naonantServe (v, t) ncSTAGE_CMD true fun s =>
      let (s1, w1) := s.stageAddr .management off.toNat
      let (s2, w2) := if w1 = .ok then s1.stageCmd .management op else (s1, w1)
      (s2, w2.code, leBytes 4 (s2.rd CfgStageCmd.adr).toNat)

/-- ERASE_64K. -/
def execErase64k (o : Sys2Proof.Origin) (msg : Option (BitVec 4 × BitVec 8 × Word)) (s : State) :
    Host.Outcome State Fault Refusal := .next (s.stageMsg o msg 1)

/-- MARK. -/
def execMark (o : Sys2Proof.Origin) (msg : Option (BitVec 4 × BitVec 8 × Word)) (s : State) :
    Host.Outcome State Fault Refusal := .next (s.stageMsg o msg 2)

/-- UNMARK. -/
def execUnmark (o : Sys2Proof.Origin) (msg : Option (BitVec 4 × BitVec 8 × Word)) (s : State) :
    Host.Outcome State Fault Refusal := .next (s.stageMsg o msg 3)

/-- FLUSH. -/
def execStageFlush (o : Sys2Proof.Origin) (msg : Option (BitVec 4 × BitVec 8 × Word)) (s : State) :
    Host.Outcome State Fault Refusal := .next (s.stageMsg o msg 4)

/-- The flash offset that an operation concerns. -/
def StageOp.offset (base : Nat) : StageOp → Nat
  | .program o _ => o
  | .erase o => o
  | .marker _ => base

/-- A staging flash operation ends: STAGE_DONE, and FLASH_ERROR when the flash reports an error (R515). -/
def execStageDone (ok : Bool) (s : State) : Host.Outcome State Fault Refusal :=
  match s.boot.stageOp with
  | none => .next s
  | some op =>
      let st := if ok then 0 else 3
      let s1 := ((s.modBoot fun b => { b with stageOp := none }).set CfgStageCmd.adr CfgStageCmd.busy 0).set CfgStageCmd.adr CfgStageCmd.status st
      let s2 := s1.raise 2 5 st
      .next (if ok then s2 else s2.raise 2 6 (op.offset s.stageArea.1))

end Sys2Proof.Machine
end

