-- ==== Sys2Proof/Machine/Pipeline.lean ====
section
/-!
DEFINITION. The commands of the packet pipelines (R217–R252).
-/

namespace Sys2Proof.Machine

/-! ## Arrival (R220–R222, R299) -/

/-- Input `i` of role `r` exists at the running port mode and scale, and its port runs (R218, R585, R586). -/
def State.inputOn (s : State) (r i : Nat) : Bool :=
  if r < 2 then s.driveOn (8 * r + i) else s.inputExists r i && i != 4 && s.actB (Fpx.adr (r - 2)) Fpx.enable

/-- The windows that wait at an input (R222). -/
def State.waiting (s : State) (r i : Nat) : Nat :=
  (s.pp.frames.filter fun f => f.role == r && f.input == i && f.result.isNone).length

/-- The windows that an input holds (R222). -/
def waitLimit : Nat := 32768

/-- The role takes frames: its unit is READY, or HELD with head in stopped (R222, R250). -/
def State.roleOn (s : State) (r : Nat) : Bool := s.ready (6 + r) || s.ustate (6 + r) == stHELD

/-- A frame enters a role's input, with its stamps taken at port `p` (R112, R116).  A host frame at input HOST crosses no ball, and
the spec gives it no stamp: here it takes line time, as port 24 and without any correction (DESIGN CHOICE, log 120). -/
def State.enterFrame (s : State) (r i : Nat) (f : List Byte) (fcs : Option Bool) (stampTag : Option Nat)
    (oneStep : Bool) : State :=
  let u := s.portStamp (inPortOf r i) false
  let x : PFrame :=
    { id := s.pp.nextId, role := r, input := i, bytes := f, fcs := fcs, stamp := u, dom0 := s.domainStamp 0 u
      dom1 := s.domainStamp 1 u, stampTag := stampTag, oneStep := oneStep, result := none }
  let t := if fcs.isNone then s.pp.tails ++ [(s.pp.nextId, r, i, f)] else s.pp.tails
  ({ s with pp := { s.pp with frames := s.pp.frames ++ [x], nextId := s.pp.nextId + 1, tails := t } } : State).tickFree.startClocks (s.roleClocks r)

/-- A host frame that asks for classification reaches input HOST; it takes no cells of an input (R219, R300). -/
def State.hostFrame (s : State) (f : List Byte) (stampTag : Option Nat) (oneStep : Bool) : State :=
  if !s.roleOn 3 then s
  else if waitLimit ≤ s.waiting 3 4 then s.bump (PpPort.adr 3 4) PpPort.holdDrop
  else s.enterFrame 3 4 f (some true) stampTag oneStep

/-- A port presents a frame's window: `frame` runs from the destination address to the last payload byte. -/
def execWindowReady (role : Fin 4) (input : Fin 8) (frame : List Byte) (s : State) :
    Host.Outcome State Fault Refusal :=
  if s.inputOn role input && s.roleOn role then
    let p := inPortOf role input
    let n := cellsOf frame.length
    let used := s.get (TmInput.adr p) TmInput.used
    if waitLimit ≤ s.waiting role input ∨ s.act (TmInput.adr p) TmInput.share < used + n ∨ s.poolFree < n then
      let s1 := s.bump (PpPort.adr role input) PpPort.holdDrop
      .next { s1 with pp := { s1.pp with
        nextId := s.pp.nextId + 1, tails := s.pp.tails ++ [(s.pp.nextId, role.val, input.val, frame)] } }
    else .next ((s.useCells p n).enterFrame role input frame none none false)
  else .next s

/-! ## The last byte (R220, R230, R265, R465) -/

/-- The FCS check of frame `id` has ended: every place that holds the frame or waits for it learns it. -/
def State.fcsEnds (s : State) (id : Nat) (ok : Bool) : State :=
  let m (f : PFrame) : PFrame := if f.id = id then { f with fcs := some ok } else f
  let s1 : State := { s with pp := { s.pp with
    frames := s.pp.frames.map m, toShx := s.pp.toShx.map m, toCxe := s.pp.toCxe.map fun x => (m x.1, x.2) } }
  let s2 : State := { s1 with tm := { s1.tm with
    arriving := s1.tm.arriving.map fun f => if f.id = id then { f with fcs := some ok } else f } }
  let learn (t : EmtTab) : EmtTab :=
    { t with learn := (t.learn.filter fun r => r.frame != id || ok).map fun r =>
        if r.frame = id then { r with ready := true } else r }
  { s2 with emt := { s2.emt with tabs := s2.emt.tabs.map learn } }

/-- The first frame of an input whose last byte is awaited, and the others. -/
def takeTail (r i : Nat) : List (Nat × Nat × Nat × List Byte) →
    Option ((Nat × List Byte) × List (Nat × Nat × Nat × List Byte))
  | [] => none
  | (id, a, b, f) :: xs =>
      if a = r ∧ b = i then some ((id, f), xs)
      else (takeTail r i xs).map fun (x, ys) => (x, (id, a, b, f) :: ys)

/-- A failed FCS is counted at its port (R585, R586). -/
def State.countCrc (s : State) (p : Nat) : State :=
  if p < 16 then s.bump (Dpx.adr p) Dpx.crcErrors else s.bump (Fpx.adr ((p - 16) / 4)) Fpx.crcErrors

/-- A frame's last byte enters: `fcsOk` is the FCS check; `fecBad` says that an uncorrectable codeword
carried the frame on a fabric port, which fails its FCS (R586). -/
def execFrameLastByte (role : Fin 4) (input : Fin 8) (fcsOk fecBad : Bool) (s : State) :
    Host.Outcome State Fault Refusal :=
  match takeTail role input s.pp.tails with
  | none => .next s
  | some ((id, f), rest) =>
      let p := inPortOf role input
      let s1 : State := { s with pp := { s.pp with tails := rest } }
      let fec := fecBad && decide (16 ≤ p)
      let s2 := if fec then (s1.bump (Fpx.adr ((p - 16) / 4)) Fpx.fecUncorrected).raise 22 6 p else s1
      if !fcsOk || fec then .next ((s2.countCrc p).fcsEnds id false)
      else
        let (s3, ok) := s2.msecRx p f
        .next (s3.fcsEnds id ok)

/-! ## Head in (R221–R247) -/

/-- The first frame of an input that waits for its head in. -/
def State.headFrame (s : State) (r i : Nat) : Option PFrame :=
  s.pp.frames.find? fun f => f.role == r && f.input == i && f.result.isNone

/-- The class of a frame without one from an action word (R296). -/
def State.portTc (s : State) (p : Nat) (tags : List (Nat × Nat)) : Nat :=
  match tags with
  | (pcp, _) :: _ => bits (s.act (TmPort.adr p) TmPort.pcpMap) (3 * pcp + 2) (3 * pcp)
  | [] => s.act (TmPort.adr p) TmPort.defaultTc

/-- PARSE_EXCEPTION and WINDOW_EXCEEDED of role `r` (R251). -/
def State.parseEvent (s : State) (r i : Nat) (e : ParseEnd) : State :=
  let n := match e with | .exception => 4 | _ => 5
  if e = .normal then s
  else s.raiseHeld (16 * (6 + r) + n) (s.act (PpHoldoff.adr r) PpHoldoff.microseconds) (6 + r) n (inPortOf r i)

/-- Order 1 of R237 decides the frame. -/
def State.order1 (s : State) (r : Nat) (e : ParseEnd) : Bool :=
  match e with
  | .exception => s.act (PpCtrl.adr r) PpCtrl.excAction != 0
  | .limit => s.act (PpCtrl.adr r) PpCtrl.truncAction != 0
  | .normal => false

/-- Fixed steering of a frame (R239), where order 1 does not decide it. -/
def State.steer (s : State) (r i : Nat) (p : Parsed) : Option Fate :=
  if s.order1 r p.ending then none
  else if r < 2 then (match p.cycle with | some (_, true) => some (.cxe none) | _ => none)
  else if p.shardo ∧ i < 4 then some .shx else none

/-- A PTP event message (IEEE 1588; PRESUMED, log 28). -/
def ptpEvent (messageType : Nat) : Bool := decide (messageType < 4)

/-- SCALE and the time in its scale, of a frame (R116, R371). -/
def State.frameScale (s : State) (f : PFrame) (p : Parsed) : Nat × Nat :=
  match p.ptp with
  | some (mt, num, _) =>
      if ptpEvent mt then
        match s.ptpDomain num with
        | some 0 => (1, f.dom0)
        | some _ => (2, f.dom1)
        | none => (0, 0)
      else (0, 0)
  | none => (0, 0)

/-- The lookups of R235: the state with the hit bits that they set, what they found, the learn result and its key.  A
`steered` frame issues the bridge and flow lookups only (R239); a route search without an IP layer misses (R281). -/
def State.lookups (s : State) (r i : Nat) (f : List Byte) (p : Parsed) (bad vbad : List (Nat × Nat))
    (aclLate routeLate steered : Bool) : State × Looked × Option (Nat × Nat × List Byte) × List Byte :=
  let bd := s.frameBd r i p
  let macKey (o : Nat) : List Byte := slice f o 6 ++ beBytes 2 bd
  let l := s.chosen r p
  let (s1, br) := s.lookupIn r tkBRIDGE (macKey 0) false bad
  let (s2, ln) := if steered then (s1, none) else s1.lookupIn r tkBRIDGE (macKey 6) true bad
  let (s3, fl) : State × Option (Nat × Nat × List Byte) :=
    match s.actB (PpCtrl.adr r) PpCtrl.flowEn, flowKey bd l with
    | true, some (kd, key) => s2.lookupIn r kd key true bad
    | _, _ => (s2, none)
  let (s4, acl) : State × Option Nat :=
    if s.actB (PpCtrl.adr r) PpCtrl.aclEn && !steered then s3.searchIn (s3.aclPart r) r (s3.aclKey r i f p) aclLate vbad
    else (s3, none)
  let rm := PpRouterMac.adr r
  let toRouter := !steered && s.actB rm PpRouterMac.enable && beAt f 0 6 == s.act rm PpRouterMac.address
  let (s5, rt) : State × Option Nat :=
    match toRouter, p.outer.ip with
    | true, some h => s4.searchIn s4.lpmPart r (routeKey (s4.act (EmtBd.adr bd) EmtBd.vrf) h) routeLate vbad
    | _, _ => (s4, none)
  (s5, { bridge := br.map (·.2.2), acl := acl, flow := fl.map fun x => leAt x.2.2 (keyBytes (s.tKind x.1)) 8
         routed := toRouter, route := rt
         overrun := (s.actB (PpCtrl.adr r) PpCtrl.aclEn && s.lateDrop (s.aclPart r) aclLate)
           || (toRouter && p.outer.ip.isSome && s.lateDrop s.lpmPart routeLate) }, ln, macKey 6)

/-- The word whose modifiers apply (R238). -/
def Looked.word (k : Looked) : Option Nat := k.acl.orElse fun _ => k.flow

/-- The word that governs (R237, orders 3 and 4). -/
def Looked.governs (k : Looked) : Option Nat :=
  match k.acl with
  | some w => if awVerb w = 0 then none else some w
  | none => k.flow.bind fun w => if awVerb w = 0 then none else some w

/-- The 32-bit hash that travels with a frame that is not steered (R245), over the field set of the word that applies,
otherwise set 0.  A word whose verb is SPREAD names the slice of the key; the spec names none for another frame, and the
slice is a free value there (log 26). -/
def State.frameHash (s : State) (r : Nat) (f : List Byte) (p : Parsed) (k : Looked) : Nat :=
  let set := match k.word with | some w => awHashSet w | none => 0
  let slice := match k.word with | some w => if awVerb w = 6 then awTarget w % 256 else s.free % 256 | none => s.free % 256
  s.hashOf r set slice f p

/-- Recovery of a forwarded frame (R243). -/
def State.recoverFate (s : State) (r i : Nat) (p : Parsed) (stream : Nat) (fate : Fate) : State × Fate :=
  match fate with
  | .copies l =>
      if stream = 0 ∨ !s.actB (PpSeqrec.adr r stream) PpSeqrec.enable then (s, fate)
      else
        let (s1, go, pop) := s.recoverSeq r i stream p
        let s2 := if go then { s1 with pp := { s1.pp with lastPass := sins s1.pp.lastPass (r * 1024 + stream) s1.lineNs } } else s1
        let at_ := if pop then p.rtag.map (·.1) else none
        if go then (s2, .copies (l.map fun (a, b, c, e) => (a, b, c, { e with popAt := at_ }))) else (s2, .copies [])
  | _ => (s, fate)

/-- A frame that is not steered is metered by the policer that R238 names, with its length as it entered. -/
def State.meter (s : State) (r i : Nat) (word : Option Nat) (len : Nat) (fate : Fate) : State × Fate × Bool :=
  match fate with
  | .copies l =>
      let w := match word with | some w => awPolicer w | none => 0
      let n := if w = 0 then s.act (PpPort.adr r i) PpPort.policer else w
      let (s1, go, yellow) := s.police r n (len + 4)
      if go then (s1, .copies l, yellow) else (s1, .copies [], yellow)
  | _ => (s, fate, false)

/-- The window of a frame is taken: `bad` and `vbad` name the uncorrectable reads of its lookups, and
`aclLate` and `routeLate` searches that did not start in time. -/
def State.headIn (s : State) (f : PFrame) (bad vbad : List (Nat × Nat)) (aclLate routeLate : Bool) :
    State × (Fate × Meta × Bool) :=
  let r := f.role
  let i := f.input
  let p := s.parseFrame r i f.bytes
  let s1 := s.parseEvent r i p.ending
  let md (tc hash : Nat) : Meta :=
    let (pcp, vid) := p.tags.headD (0, 0)
    let (sc, dt) := s1.frameScale f p
    { inPort := inPortOf r i, tc := tc, reason := 0, flags := p.flags, hash := hash, stamp := f.stamp, scale := sc
      domTime := dt, bd := s1.frameBd r i p, tagged := !p.tags.isEmpty, pcp := pcp, vid := vid }
  match s1.steer r i p with
  | some fate => ((s1.lookups r i f.bytes p bad vbad aclLate routeLate true).1, fate, md 0 0, false)
  | none =>
      let (s2, k, ln, key) := s1.lookups r i f.bytes p bad vbad aclLate routeLate false
      let w := k.word
      let tc := match w with
        | some w => if awTcSet w then awTc w else s2.portTc (inPortOf r i) p.tags
        | none => s2.portTc (inPortOf r i) p.tags
      let h : Head := { role := r, input := i, inPort := inPortOf r i, bd := s2.frameBd r i p, tc := tc
                        frame := f.bytes, parsed := p, dscp := w.bind awDscp }
      let hash := s2.frameHash r f.bytes p k
      let (s3, fate, fwd, dropped1) := s2.tickFree.resolve h k hash
      let (s4, fate2) := if fwd then s3.recoverFate r i p (match w with | some w => awStream w | none => 0) fate else (s3, fate)
      let (s5, fate3, yellow) := s4.meter r i w f.bytes.length fate2
      let off := match w with | some w => awLearnOff w | none => false
      (s5.learnFrom h f.id f.fcs off dropped1 ln key, fate3, md tc hash, yellow)

/-- The pipeline takes the oldest ready window of an input; not in a hold of the role, nor while a handover
stops the input (R222, R250).  Classified frames stand in the order of their head in (R248). -/
def execHeadIn (role : Fin 4) (input : Fin 8) (bad vbad : List (Nat × Nat)) (aclLate routeLate : Bool) (s : State) :
    Host.Outcome State Fault Refusal :=
  if s.ready (6 + role) && !s.pp.paused.contains role.val then
    match s.headFrame role input with
    | none => .next s
    | some f =>
        let (s1, res) := (s.headLatch role input).headIn f bad vbad aclLate routeLate
        .next { s1 with pp := { s1.pp with
          frames := s1.pp.frames.filter (fun g => g.id != f.id) ++
            (s1.pp.frames.filter fun g => g.id == f.id).map fun g => { g with result := some res } } }
  else .next s

/-! ## The classification result (R248) -/

/-- Copies of a frame on their way to the traffic manager. Only a single copy keeps the cells of its input
(R299, R300). -/
def State.sendCopies (s : State) (f : PFrame) (l : List (Nat × Nat × Nat × Edit)) (md : Meta) (yellow : Bool) : State :=
  let ip := inPortOf f.role f.input
  let keep := decide (l.length = 1) && decide (ip < 24)
  let s1 := if keep || decide (24 ≤ ip) then s else s.freeCells ip (cellsOf f.bytes.length)
  let one : (Nat × Nat × Nat × Edit) → TmFrame := fun (p, q, reason, e) =>
    { id := f.id, bytes := f.bytes, fcs := f.fcs, queue := q, port := p, input := if keep then some ip else none
      yellow := yellow, md := { md with reason := reason }, edit := e, stampTag := f.stampTag, oneStep := f.oneStep, since := 0 }
  { s1 with tm := { s1.tm with arriving := s1.tm.arriving ++ l.map one } }

/-- The classified frame of a role with the earliest head in passes on, 128 cycles after it (R248): to U04 or U16 when it is steered, otherwise toward the
traffic manager; a dropped frame gives its cells back. -/
def execClassificationResult (role : Fin 4) (s : State) : Host.Outcome State Fault Refusal :=
  match s.pp.frames.find? fun f => f.role == role.val && f.result.isSome with
  | none => .next s
  | some f =>
      let s1 : State := { s with pp := { s.pp with frames := s.pp.frames.filter (·.id != f.id) } }
      match f.result with
      | some (.cxe t, _, _) => .next { s1 with pp := { s1.pp with toCxe := s1.pp.toCxe ++ [(f, t)] } }
      | some (.shx, _, _) => .next { s1 with pp := { s1.pp with toShx := s1.pp.toShx ++ [f] } }
      | some (.copies l, md, y) => .next (s1.sendCopies f l md y)
      | none => .next s1

/-! ## Recovery entries and indirection (R244, R246, R247) -/

/-- No frame of an entry has passed for RESET milliseconds: the entry becomes FRESH (R244). -/
def execSeqReset (role : Fin 4) (i : Fin 1024) (s : State) : Host.Outcome State Fault Refusal :=
  let a := PpSeqrec.adr role i
  let k := role.val * 1024 + i.val
  match sfind s.pp.lastPass k with
  | none => .next s
  | some t =>
      if s.roleOn role && s.actB a PpSeqrec.enable && !s.getB a PpSeqrec.fresh
          && decide (t + s.act a PpSeqrec.reset * 1000000 ≤ s.lineNs) then
        let s1 := s.set a PpSeqrec.fresh 1
        let s2 : State := { s1 with pp := { s1.pp with lastPass := sdel s1.pp.lastPass k } }
        .next (s2.raiseHeld (16 * (6 + role.val) + 6) (s.act (PpHoldoff.adr role) PpHoldoff.microseconds) (6 + role) 6
          (65536 * i.val))
      else .next s

/-- The INDEX rule of an indirection entry of slice `k` (R246): the receive queue is one of the slice's share,
which is absolute as the example of chapter 07 writes it. -/
def State.indirOk (s : State) (k v : Nat) : Bool :=
  let i := v % 16384
  match v / 16384 with
  | 0 => inShare (s.share .rxq k) i
  | 1 => decide (16 ≤ i) && decide (i < 24) &&
      (let f := (i - 16) / 4
       decide (f < fabricPorts s.scale) && decide ((i - 16) % 4 < (match s.act (Fpx.adr f) Fpx.breakout with | 0 => 1 | 1 => 2 | _ => 4)))
  | 2 => decide (i < 16384)
  | _ => false

/-- One indirection entry is written. -/
def State.putIndir (s : State) (k j v : Nat) : State :=
  { s with pp := { s.pp with indir := sput 0 s.pp.indir (k * 2048 + j) (BitVec.ofNat 16 v) } }

/-- A 16-bit write of the indirection aperture (R246, R247, R252): the slice is PP_INDIR_PAGE.SLICE. -/
def State.indirWrite (s : State) (o : Sys2Proof.Origin) (r j v : Nat) : WRes :=
  s.gate o (6 + r) (0x60000 + 2 * j) false false fun s =>
    let k := s.act (PpIndirPage.adr r) PpIndirPage.slice
    if s.indirOk k v then (s.putIndir k j v).done else s.refuse (6 + r) (0x60000 + 2 * j)

/-- A write of an indirection entry. -/
def execIndirectionWrite (o : Sys2Proof.Origin) (role : Fin 4) (j : Fin 2048) (v : BitVec 16) (s : State) :
    Host.Outcome State Fault Refusal := (s.indirWrite o role j v.toNat).out

/-- A unit reset of a role (R250). -/
def State.ppReset (s : State) (r : Nat) : State :=
  let ent (s : State) (i : Nat) : State :=
    let a := PpSeqrec.adr r i
    ((((s.set a PpSeqrec.fresh 1).set a PpSeqrec.passed 0).set a PpSeqrec.duplicate 0).set a PpSeqrec.rogue 0)
  let s1 := (s.listed (PpSeqrec.adr r 0) 0x20 1024).foldl ent s
  let s2 := (List.range 8).foldl (fun s i => s.set (PpPort.adr r i) PpPort.holdDrop 0) s1
  { s2 with pp := { s2.pp with lastPass := s2.pp.lastPass.filter fun x => x.1 / 1024 != r } }

end Sys2Proof.Machine
end

