-- ==== Sys2Proof/Machine/RingOps.lean ====
section
/-!
DEFINITION. What rings carry: entry checks, transmit frames, receive delivery and event entries
(R362–R374, R457–R459).
-/

namespace Sys2Proof.Machine

/-! ## Transmit entries (R366, R369, R370) -/

/-- A transmit entry has a reserved bit set, in its version (`w` bytes). -/
def txReserved (w : Nat) (e : List Byte) : Bool :=
  let b10 := leAt e 10 1
  leAt e 8 2 / 16384 != 0 || b10 / 32 != 0 || leAt e 11 1 != 0 || leAt e 12 2 / 16384 != 0 ||
    (if w = 32 then bit b10 3 || !allZero (slice e 16 16)
     else leAt e 24 2 / 16384 != 0 || !allZero (slice e 26 38))

/-- Bytes of an entry's buffers. -/
def txLen0 (e : List Byte) : Nat := leAt e 8 2 % 16384
def txLen1 (w : Nat) (e : List Byte) : Nat := if w = 32 then 0 else leAt e 24 2 % 16384

/-- The fields that every entry of a frame must repeat (R370). -/
def txRepeat (e : List Byte) : Nat × Nat × Nat := (leAt e 10 1 / 2 % 8, leAt e 12 2, leAt e 14 2)

/-- What the scan of a transmit ring finds next. -/
inductive TxScan
  /-- The frame is not complete yet. -/
  | wait
  /-- A malformed entry: reason and index (R366). -/
  | bad (reason idx : Nat)
  /-- A frame of `count` entries and `length` bytes. -/
  | frame (count length : Nat)
  deriving DecidableEq, Repr

/-- Scans entries for a frame: `n` entries and `len` bytes of it have been read; `first` is its first entry. -/
def txScan (w : Nat) (queueOk : Nat → Bool) (first : Option (Nat × List Byte)) (n len : Nat) :
    List (Nat × List Byte) → TxScan
  | [] => .wait
  | (i, e) :: es =>
      let f := first.getD (i, e)
      let l0 := txLen0 e
      let l1 := txLen1 w e
      let tot := len + l0 + l1
      if txReserved w e ∨ txRepeat f.2 ≠ txRepeat e then .bad qrRESERVED_SET i
      else if l0 = 0 ∨ 9018 < l0 ∨ 9018 < l1 then .bad qrBAD_LENGTH i
      else if !bit (leAt e 10 1) 1 ∧ !queueOk (leAt e 12 2 % 16384) then .bad qrQUEUE_RANGE i
      else if bit (leAt e 10 1) 0 then
        (if tot < 14 ∨ 9018 < tot then .bad qrBAD_LENGTH i else .frame (n + 1) tot)
      else if 8 ≤ n + 1 then .bad qrCHAIN_TOO_LONG f.1
      else txScan w queueOk (some f) (n + 1) tot es

/-- One read for each buffer of an entry. -/
def txReads (w : Nat) (e : List Byte) : List (Nat × Nat) :=
  (leAt e 0 8, txLen0 e) :: (if txLen1 w e = 0 then [] else [(leAt e 16 8, txLen1 w e)])

/-- Entries of queue `q` that frames already cover. -/
def State.txCovered (s : State) (q : Nat) : Nat := ((s.qe.tx.filter (·.q == q)).map (·.count)).sum

/-- Every complete frame of a transmit ring's fetched entries asks for its data (R370). -/
def State.txFrames (s : State) (q : Nat) : Nat → State
  | 0 => s
  | fuel + 1 =>
      let w := s.qEntry qkTX q
      let rest := ((s.qst qkTX q).fetched).drop (s.txCovered q)
      let sh := match s.qOwner qkTX q with | some k => s.tmShare k | none => (0, 0)
      if s.qFrozen qkTX q || !s.ready 15 then s
      else match txScan w (fun i => decide (i < sh.2)) none 0 0 rest, rest with
      | .bad r i, _ => s.qError qkTX q r i
      | .frame n len, (_, e) :: _ =>
          let fl := leAt e 10 1
          let rs := (rest.take n).flatMap fun x => txReads w x.2
          let f : TxFrame :=
            { q := q, count := n, length := len, classify := bit fl 1
              stampTag := if bit fl 2 then some (leAt e 14 2) else none, oneStep := bit fl 3
              queue := sh.1 + leAt e 12 2 % 16384
              report := (rest.take n).any fun x => bit (leAt x.2 10 1) 4, reads := rs.length }
          s.qPresent qkTX q fun s =>
            let s1 : State := match s.qVia qkTX q with
              | some (pf, pa) => rs.foldl (fun (s : State) r => s.dmaRead pf pa r.1 r.2 (.queue qkTX q)) s
              | none => s
            State.txFrames { s1 with qe := { s1.qe with tx := s1.qe.tx ++ [f] } } q fuel
      | _, _ => s

/-! ## Receive (R371, R372) -/

/-- Buffers that a frame of `n` bytes needs. -/
def State.rxNeed (s : State) (q n : Nat) : Nat :=
  let b := s.act (qAdr qkRX q) QeTxq.bufSize * 64
  (n + b - 1) / max 1 b

/-- Buffers that are posted (R372). -/
def State.rxPosted (s : State) (q : Nat) : Nat := qDist (s.qM qkRX q) (s.qHead qkRX q) (s.qTail qkRX q)

/-- The queue engine takes the head frame of receive queue `q` from port 24. -/
def State.rxTakes (s : State) (q : Nat) : Bool :=
  match s.tmq (12288 + q) with
  | [] => false
  | f :: _ =>
      s.ready 15 && s.qState qkRX q == qsRUNNING && !s.qFrozen qkRX q && (s.qst qkRX q).drain.isNone &&
        decide (s.rxNeed q (s.egress 24 f).length ≤ ((s.qst qkRX q).fetched).length)

/-- The head frame finds too few posted buffers under policy DROP. -/
def State.rxDrops (s : State) (q : Nat) : Bool :=
  match s.tmq (12288 + q) with
  | [] => false
  | f :: _ =>
      s.ready 15 && s.qState qkRX q == qsRUNNING && !s.qFrozen qkRX q && s.act (qAdr qkRX q) QeTxq.policy == 0 &&
        decide (s.rxPosted q < s.rxNeed q (s.egress 24 f).length)

/-- Frames at the head of a receive queue that find too few buffers are discarded (R372). -/
def State.rxPurge (s : State) (q : Nat) : Nat → State
  | 0 => s
  | fuel + 1 =>
      if s.rxDrops q then
        ((s.setTmq (12288 + q) ((s.tmq (12288 + q)).drop 1)).bump (qAdr qkRX q) QeTxq.nobufDrop).rxPurge q fuel
      else s

/-- The fields of a receive entry that follow byte 10, in an entry of `w` bytes, from byte 10 on. -/
def rxFields (w : Nat) (m : Meta) : List Byte :=
  let ns := m.domTime / 16
  let v1 := leBytes 1 (m.tc * 32 + m.inPort) ++ leBytes 1 m.flags ++ leBytes 4 m.hash ++ leBytes 4 (m.stamp / 16)
    ++ leBytes 1 m.reason ++ [0, 0, 0]
  if w = 32 then v1 ++ List.replicate 8 0
  else if m.scale = 0 then
    v1 ++ List.replicate 16 0 ++ leBytes 2 m.bd ++ leBytes 2 (b2n m.tagged * 32768 + m.pcp * 4096 + m.vid) ++ List.replicate 20 0
  else
    v1 ++ leBytes 1 m.scale ++ leBytes 1 (m.domTime % 16 * 16) ++ [0, 0] ++ leBytes 4 (ns % 1000000000)
      ++ leBytes 8 (ns / 1000000000 % 2 ^ 48) ++ leBytes 2 m.bd ++ leBytes 2 (b2n m.tagged * 32768 + m.pcp * 4096 + m.vid)
      ++ List.replicate 20 0

/-- The data and the write-back of each buffer that a frame fills. -/
def State.rxFill (s : State) (q w size : Nat) (m : Meta) : List (Nat × List Byte) → List Byte → State
  | [], _ => s
  | (i, e) :: es, data =>
      let part := data.take size
      let rest := data.drop size
      let last := rest.isEmpty
      let s1 := s.qData qkRX q (leAt e 0 8) part
      let head := leBytes 2 (32768 + b2n last * 16384 + part.length)
      let body := if last then rxFields w m else List.replicate (w - 10) 0
      (s1.qWrite qkRX q (s.qSlot qkRX q i + 8) (head ++ body)).rxFill q w size m es rest

/-- A frame is delivered to receive queue `q` (R371); while its function may not issue requests, the frame is lost and
the queue halts (R337). -/
def State.rxDeliver (s : State) (q : Nat) (f : TmFrame) : State :=
  let data := s.egress 24 f
  let n := s.rxNeed q data.length
  s.qPresent qkRX q fun s =>
    let s1 := s.rxFill q (s.qEntry qkRX q) (s.act (qAdr qkRX q) QeTxq.bufSize * 64) f.md
      (((s.qst qkRX q).fetched).take n) data
    s1.qDone qkRX q n false

/-! ## Entry checks (R366, R375, R458, R459) -/

/-- Opcodes of slice-control entries (R375, R418, R467). -/
def scOps : List Nat :=
  [0x01, 0x02, 0x03, 0x04, 0x10, 0x11, 0x12, 0x13, 0x18, 0x19, 0x1A, 0x20, 0x21, 0x40, 0x41, 0x42, 0x43, 0x44,
   0x45, 0x46, 0x60, 0x61]

/-- An argument of a slice-control entry of slice `k` lies outside its range or outside the slice's share: the reason (R366).
DEDUCED (log 123): a QUEUE, an INDEX and a run of indirection entries are judged here; what only the command can tell, and the
arguments of unit commands, end in STATUS (R375, R376). -/
def State.scRange (s : State) (k : Nat) (e : List Byte) : Option Nat :=
  let op := leAt e 0 1
  let n := leAt e 10 2 % 4096
  if 1 ≤ op ∧ op ≤ 4 then
    (let sh := match leAt e 8 1 % 4 with | 0 => (s.share .txq k).2 | 1 => (s.share .rxq k).2 | 2 => (s.share .evq k).2 | _ => 0
     if sh ≤ n then some qrQUEUE_RANGE else none)
  else if 0x18 ≤ op ∧ op ≤ 0x1A then
    (if (s.aclRange (leAt e 8 1 % 8) k).2 ≤ leAt e 12 4 % 262144 then some qrQUEUE_RANGE else none)
  else if op = 0x20 ∧ (n = 0 ∨ 2048 < n ∨ 2048 < leAt e 8 2 % 2048 + n) then some qrBAD_LENGTH
  else none

/-- A receive, slice-control or integrity entry is malformed: the reason. -/
def State.entryBad (s : State) (k q : Nat) (e : List Byte) : Option Nat :=
  match k with
  | 1 => if leAt e 0 8 % 64 ≠ 0 then some qrBAD_ADDRESS else none
  | 3 =>
      if leAt e 1 1 ≠ 0 ∨ leAt e 4 4 ≠ 0 then some qrRESERVED_SET
      else if !scOps.contains (leAt e 0 1) then some qrBAD_OP else s.scRange q e
  | 4 =>
      let op := leAt e 0 1 % 16
      let tag := leAt e 3 1 % 32
      let lo := if op ≤ 2 then 8 else 12
      if leAt e 0 1 / 16 ≠ 0 ∨ leAt e 2 1 / 2 ≠ 0 ∨ leAt e 3 1 / 32 ≠ 0 ∨ leAt e 4 4 / 4096 ≠ 0 ∨ leAt e 12 4 ≠ 0
          ∨ !allZero (slice e 36 12) then some qrRESERVED_SET
      else if op = 0 ∨ 4 < op then some qrBAD_OP
      else if op ≤ 2 ∧ !allZero (slice e 24 12) then some qrRESERVED_SET
      else if 16777216 < leAt e 8 4 ∨ tag < lo ∨ 16 < tag then some qrBAD_LENGTH
      else match s.qOwner qkIR q with
        | some n => if (s.share .key n).2 ≤ leAt e 4 2 % 4096 then some qrQUEUE_RANGE else none
        | none => none
  | _ => none

/-- Entries enter a queue in order; the first malformed one stops it (R366). -/
def State.takeEntries (s : State) (k q : Nat) : List (Nat × List Byte) → State
  | [] => s
  | (i, e) :: es =>
      match s.entryBad k q e with
      | some r => s.qError k q r i
      | none => (s.modQ k q fun x => { x with fetched := x.fetched ++ [(i, e)] }).takeEntries k q es

/-- An integrity request asks for its source data (R457). -/
def State.askSource (s : State) (q : Nat) (e : List Byte) : State :=
  match s.qVia qkIR q with
  | some (f, p) => s.qPresent qkIR q fun s => s.dmaRead f p (leAt e 16 8) (leAt e 8 4) (.integrity q)
  | none => s

/-- The requests of a queue whose source data is not asked for yet: those with data, beyond the ones in the lane and those
whose read is under way. -/
def State.unasked (s : State) (q : Nat) : List (Nat × List Byte) :=
  ((((s.qst qkIR q).fetched).drop (s.ige.msgs.filter (·.q == q)).length).filter fun x => leAt x.2 8 4 != 0).drop
    (s.readsOf (.integrity q))

/-- The request queue whose turn is next: the first after the one that had the last turn, round the 64, that has a request to
ask for; not one that a freeze holds (R348, R459). -/
def State.askTurn (s : State) : Option Nat :=
  ((List.range 64).map fun d => (s.ige.turn + 1 + d) % 64).find? fun q =>
    s.qState qkIR q == qsRUNNING && !s.qFrozen qkIR q && (s.qVia qkIR q).isSome && !(s.unasked q).isEmpty

/-- The request queues ask for source data in round robin, one request per queue per turn, but in a hold (R459, R469). -/
def State.askSources (s : State) : Nat → State
  | 0 => s
  | fuel + 1 =>
      if !s.ready 18 then s
      else match s.askTurn with
        | none => s
        | some q =>
            let t : State := { s with ige := { s.ige with turn := q } }
            match t.unasked q with
            | x :: _ => (t.askSource q x.2).askSources fuel
            | [] => t

/-- The entries that a completion of `n` entries from index `i` carries. -/
def splitEntries (w m : Nat) (data : List Byte) : Nat → Nat → List (Nat × List Byte)
  | 0, _ => []
  | n + 1, i => (i % m, slice data 0 w) :: splitEntries w m (data.drop w) n (i + 1)

/-! ## Event rings (R373, R374, R379) -/

/-- The vector of a route is triggered (R335). -/
def State.routeMsix (s : State) (ev : Nat) : State :=
  s.msix (s.act (HifRoute.adr ev) HifRoute.pf) (s.act (HifRoute.adr ev) HifRoute.vector)

/-- The zeros that an OVF_ACK or a restore has made due are written to SUMMARY_ADDR (R374, R378). -/
def State.evZeros (s : State) (q : Nat) : State :=
  if (s.qst qkEV q).zeroDue then
    (s.qWrite qkEV q (s.act (qAdr qkEV q) QeTxq.summaryAddr * 16) (List.replicate 48 0)).modQ qkEV q fun x => { x with zeroDue := false }
  else s

/-- The head record and the summary of an event that cannot be written, after the zeros that are due (R374, R379). -/
def State.evOverflow (s0 : State) (q : Nat) (ev : Nat) : State :=
  let s := s0.evZeros q
  let a := qAdr qkEV q
  let old := (s.qst qkEV q).summary
  let s1 := s.modQ qkEV q fun x => { x with summary := old ||| 2 ^ ev }
  let had := s1.getB a QeTxq.overflow
  let s2 := s1.qWrite qkEV q (s.act a QeTxq.summaryAddr * 16) (leBytes 48 (old ||| 2 ^ ev))
  let s3 := (s2.set a QeTxq.overflow 1).headRecord qkEV q
  let s4 := s3.routeMsix ev
  if had then s4 else s4.raiseHeld (16 * 15 + 6) (s.act QeHoldoff.adr QeHoldoff.microseconds) 15 6 (qDetail qkEV q 0)

/-- An event entry is written at HEAD, after the zeros that an OVF_ACK has made due (R373, R374). -/
def State.evWrite (s : State) (q : Nat) (e : Staged) : State :=
  let s0 := s.evZeros q
  let rec_ := leBytes 2 e.ev ++ [0, 0] ++ leBytes 4 e.stamp.toNat ++ leBytes 4 e.detail.toNat ++ [0, 0, 0, 0]
  let s1 := s0.qWrite qkEV q (s.qSlot qkEV q (s.qHead qkEV q)) rec_
  let s2 := s1.set (qAdr qkEV q) QeTxq.head ((s.qHead qkEV q + 1) % s.qM qkEV q)
  let s3 := s2.modQ qkEV q fun x => { x with unreported := x.unreported + 1 }
  (s3.routeMsix e.ev).qDue qkEV q false

/-- The event ring is full (R359). -/
def State.evFull (s : State) (q : Nat) : Bool :=
  decide (s.qN qkEV q ≤ qDist (s.qM qkEV q) (s.qTail qkEV q) (s.qHead qkEV q))

/-- An event routed to event queue `q` reaches it (R335, R373, R374, R379). -/
def State.evDeliver (s : State) (q : Nat) (e : Staged) : State :=
  if s.qState qkEV q ≠ qsRUNNING ∨ (s.qst qkEV q).drain.isSome ∨ (s.qVia qkEV q).isNone then s
  else s.qPresent qkEV q fun s => if !s.ready 15 ∨ s.evFull q then s.evOverflow q e.ev else s.evWrite q e

end Sys2Proof.Machine
end

