-- ==== Sys2Proof/Machine/Rings.lean ====
section
/-!
DEFINITION. The commands of the queue engine (R357–R381), and of the integrity request queues where they follow
the same rules (R457).
-/

namespace Sys2Proof.Machine

/-- The first staged event that the host still has to get and that is not held back, with what stays in staging
(R513). -/
def takeStaged (held : Staged → Bool) : List Staged → Option (Staged × List Staged)
  | [] => none
  | e :: es =>
      if e.host && !held e then
        some (e, if e.mgt.isNone then es else { e with host := false } :: es)
      else (takeStaged held es).map fun (x, ys) => (x, e :: ys)

/-- An event waits in staging while the slice of its event queue is frozen and its queue runs (R348, R513). -/
def State.evHeld (s : State) (e : Staged) : Bool :=
  let q := s.act (HifRoute.adr e.ev) HifRoute.evq
  s.actB (HifRoute.adr e.ev) HifRoute.enable && s.qFrozen qkEV q && s.qState qkEV q == qsRUNNING

/-- Staging holds other events now. -/
def State.putStaged (s : State) (l : List Staged) : State :=
  ({ s with staged := l } : State).set SvcStaging.adr SvcStaging.used l.length

/-- The oldest routed event goes into its event queue (R335, R373). -/
def execEventRingWrite (s : State) : Host.Outcome State Fault Refusal :=
  match takeStaged s.evHeld s.staged with
  | none => .next s
  | some (e, rest) =>
      let s1 := s.putStaged rest
      .next (if s1.actB (HifRoute.adr e.ev) HifRoute.enable then
        s1.evDeliver (s1.act (HifRoute.adr e.ev) HifRoute.evq) e else s1)

/-- The queue that a doorbell of slice `k` names: its index lies in the slice's share and in its function's duty
(R329, R360). -/
def State.doorQueue (s : State) (k kind i : Nat) : Option Nat :=
  let rel (sh : Nat × Nat) : Option Nat := if i < sh.2 then some (sh.1 + i) else none
  match kind with
  | 0 => if s.slicePf k = 1 then rel (s.share .txq k) else none
  | 1 => if s.slicePf k = 1 then rel (s.share .rxq k) else none
  | 2 => rel (s.share .evq k)
  | 3 => if i = 0 then some k else none
  | _ => none

/-- A doorbell write: of a slice's page, or of QE_DOORBELL (R360). -/
def State.queueDoorbell (s : State) (o : Sys2Proof.Origin) (v : Word) : WRes :=
  let w := v.toNat
  let kind := bits w 30 28
  let i := bits w 27 16
  let ring (s : State) (q : Nat) : WRes := (s.doorbell kind q (w % 65536) (bit w 31)).done
  match o with
  | .slice k =>
      if s.bound k && !s.halted then (match s.doorQueue k kind i with | some q => ring s q | none => s.done) else s.done
  | _ => s.gate o 15 0x1004 true false fun s =>
      if kind < 4 ∧ i < qCount kind then ring s i else s.done

/-- A queue doorbell. -/
def execQueueDoorbell (o : Sys2Proof.Origin) (v : Word) (s : State) : Host.Outcome State Fault Refusal :=
  (s.queueDoorbell o v).out

/-- The entries of a completed read enter a queue that still runs. -/
def State.fetched (s : State) (k q : Nat) (es : List (Nat × List Byte)) : State :=
  let s1 := s.takeEntries k q es
  let s2 := if k = qkTX then s1.txFrames q es.length
    else if k = qkIR then s1.askSources (es.length + 64)
    else s1
  s2.qFetch k q

/-- The oldest descriptor read of a queue completes with `data` (R362, R366, R367). -/
def execDescriptorCompletion (kind : Fin 5) (q : Fin 4096) (data : List Byte) (s : State) :
    Host.Outcome State Fault Refusal :=
  match s.qVia kind q with
  | none => .next s
  | some (f, _) =>
      if !s.reading f (.queue kind q) then .next (s.stray f)
      else
        let x := s.qst kind q
        let s1 := s.readEnds f (.queue kind q)
        match x.asked with
        | [] => .next s1
        | (i, n) :: rest =>
            let s2 := s1.modQ kind q fun x => { x with asked := rest }
            if s2.qState kind q = qsRUNNING ∧ x.drain ≠ some true then
              .next (s2.fetched kind q (splitEntries (s2.qEntry kind q) (s2.qM kind q) data n i))
            else .next s2

/-- The first transmit frame of a queue, and the others. -/
def takeTx (q : Nat) : List TxFrame → Option (TxFrame × List TxFrame)
  | [] => none
  | f :: fs => if f.q = q then some (f, fs) else (takeTx q fs).map fun (x, ys) => (x, f :: ys)

/-- `n` reads of a queue end. -/
def State.endReads (s : State) (k q : Nat) : Nat → State
  | 0 => s
  | n + 1 =>
      match s.qVia k q with
      | some (f, _) => (s.readEnds f (.queue k q)).endReads k q n
      | none => s

/-- The data of the oldest transmit frame of a queue is complete: the frame goes to input HOST or to its TM queue,
and its entries are done (R370). -/
def execTxDataCompletion (q : Fin 4096) (data : List Byte) (s : State) : Host.Outcome State Fault Refusal :=
  match takeTx q s.qe.tx with
  | none => .next (match s.qVia qkTX q with
      | some (f, _) => if s.reading f (.queue qkTX q) then s.readEnds f (.queue qkTX q) else s.stray f
      | none => s)
  | some (f, rest) =>
      if s.ready 15 then
        let s1 := ({ s with qe := { s.qe with tx := rest } } : State).endReads qkTX q f.reads
        let d := slice data 0 f.length
        let s2 := if f.classify then s1.hostFrame d f.stampTag f.oneStep else s1.toTm f.queue d f.stampTag f.oneStep
        .next (s2.qDone qkTX q f.count f.report)
      else .next s

/-- ENABLE of a queue. -/
def execQueueEnable (o : Sys2Proof.Origin) (kind : Fin 5) (q : Fin 4096) (s : State) :
    Host.Outcome State Fault Refusal :=
  if q.val < qCount kind then (s.qCommand o kind q true false false).out else .next s

/-- DISABLE of a queue. -/
def execQueueDisable (o : Sys2Proof.Origin) (kind : Fin 5) (q : Fin 4096) (s : State) :
    Host.Outcome State Fault Refusal :=
  if q.val < qCount kind then (s.qCommand o kind q false true false).out else .next s

/-- RESET of a queue. -/
def execQueueReset (o : Sys2Proof.Origin) (kind : Fin 5) (q : Fin 4096) (s : State) :
    Host.Outcome State Fault Refusal :=
  if q.val < qCount kind then (s.qCommand o kind q false false true).out else .next s

/-- Nothing of a queue is under way any more: its reads have ended, and after DISABLE the entries that were fetched
have completed; buffers that a receive queue holds ahead never do, and are dropped (R367). -/
def State.qDrained (s : State) (k q : Nat) (reset : Bool) : Bool :=
  decide (s.qReads k q = 0) && (reset || match k with
    | 0 => (takeTx q s.qe.tx).isNone
    | 3 => (s.qst k q).fetched.isEmpty
    | 4 => (s.qst k q).fetched.isEmpty
    | _ => true)

/-- A unit reset of U15 (R379). -/
def State.qeReset (s : State) : State :=
  (s.liveQueues.filter fun x => x.1 != qkIR).foldl (fun s x => s.qResetHalt x.1 x.2) s

/-- A queue goes on where it stood: the frames and the requests that it has fetched, then its descriptors. -/
def State.qGoOn (s : State) (k q : Nat) : State :=
  let t := if k = qkTX then s.txFrames q ((s.qst k q).fetched.length + 1) else if k = qkIR then s.askSources ((s.qst k q).fetched.length + 64) else s
  t.qFetch k q

/-- Release of a hold of U15: every queue goes on where it stood (R379). -/
def State.qeResume (s : State) : State :=
  (s.liveQueues.filter fun x => x.1 != qkIR).foldl (fun s x => s.qGoOn x.1 x.2) s

/-- Release of a hold of U18: the request queues go on (R469). -/
def State.igeResume (s : State) : State :=
  let l := s.liveQueues.filter fun x => x.1 == qkIR
  l.foldl (fun s x => s.qFetch x.1 x.2) (s.askSources (l.map fun x => (s.qst x.1 x.2).fetched.length + 1).sum)

end Sys2Proof.Machine
end

