-- ==== Sys2Proof/Machine/ScOps.lean ====
section
/-!
DEFINITION. The frame of a slice-control command: the entry it runs, its argument reads and write-backs, and how it
ends (R329, R375, R376).
-/

namespace Sys2Proof.Machine

/-- STATUS codes (R376). -/
def scOK : Nat := 0
def scBAD_STATE : Nat := 1
def scOUT_OF_SHARE : Nat := 2
def scBAD_VALUE : Nat := 3

/-- The entry at the front of slice `k`'s slice-control queue, when its opcode is `op` and the queue may run it. -/
def State.scEntry (s : State) (k op : Nat) : Option (List Byte) :=
  match (s.qst qkSC k).fetched with
  | (_, e) :: _ =>
      if leAt e 0 1 = op ∧ s.qState qkSC k = qsRUNNING ∧ s.ready 15 ∧ !s.qFrozen qkSC k then some e else none
  | [] => none

/-- The entry ends with a status: bytes 0–7 are written back, and the entry is done; while its function may not issue
requests, the queue halts (R337). -/
def State.scEnd (s : State) (k : Nat) (e : List Byte) (st : Nat) : State :=
  let b := e.take 1 ++ leBytes 1 st ++ slice e 2 2 ++ [0, 0, 0, 0]
  s.qPresent qkSC k fun s => (s.qWrite qkSC k (s.qSlot qkSC k (s.qHead qkSC k)) b).qDone qkSC k 1 false

/-- The result of slice `k`'s entry is written to its argument buffer, for the slice-control queue (R342, R375). -/
def State.argWrite (s : State) (k addr : Nat) (b : List Byte) : State :=
  if s.bound k then s.dmaWriteBy (some (.arg k)) (s.slicePf k) (some (s.slicePasid k)) addr b else s

/-- The argument of slice `k`'s entry has entered: its read ends. -/
def State.argIn (s : State) (k : Nat) : State := s.readEnds (s.slicePf k) (.arg k)

/-- An argument enters for slice `k` while its queue has no such entry to run: a queue that a freeze holds reads it again
after THAW, and one that a hold of U15 holds takes it then; for any other queue the data is discarded (R337, R348). -/
def State.argStray (s : State) (k : Nat) : State :=
  if s.reading (s.slicePf k) (.arg k) then
    (if s.qState qkSC k = qsRUNNING ∧ !s.qFrozen qkSC k then s else s.argIn k)
  else if s.bound k then s.stray (s.slicePf k) else s

/-- The front entry of slice `k`'s queue, of opcode `op`, runs once its argument has entered (R375); while its function may
not issue requests, the queue halts (R337). -/
def State.scRun (s : State) (k op : Nat) (f : State → List Byte → State) : State :=
  match s.scEntry k op with
  | none => if (0x10 ≤ op ∧ op ≤ 0x13) ∨ [0x18, 0x20, 0x21, 0x40, 0x60].contains op then s.argStray k else s
  | some e =>
      if (scArg (s.slicePf k) e).isNone then f s e
      else if s.reading (s.slicePf k) (.arg k) then (s.argIn k).qPresent qkSC k fun s => f s e
      else s

/-- Runs a slice-control command of slice `k`: `f` gives the state and the status. -/
def State.sc (s : State) (k op : Nat) (f : State → List Byte → State × Nat) : State :=
  s.scRun k op fun s e => let (s1, st) := f s e; s1.scEnd k e st

/-- The command runs in the duty of function `pf` (R329). -/
def State.duty (s : State) (k pf : Nat) (f : State × Nat) : State × Nat := if s.slicePf k = pf then f else (s, scOUT_OF_SHARE)

end Sys2Proof.Machine
end

