-- ==== Sys2Proof/Machine/Integrity.lean ====
section
/-!
DEFINITION. The commands of the integrity engine (R448–R471).
-/

namespace Sys2Proof.Machine

/-- U18 works: a hold stops lookaside only (R469). -/
def State.igeOn (s : State) : Bool := s.ready 18 || s.ustate 18 == stHELD

/-! ## Lookaside (R457–R459) -/

/-- An integrity doorbell: of a slice's page for a queue bound to that slice, or of IGE_DOORBELL for a firmware
queue (R457). -/
def State.igeDoorbell (s : State) (o : Sys2Proof.Origin) (v : Word) : WRes :=
  let q := bits v.toNat 21 16
  let fw := s.actB (IgeRq.adr q) IgeRq.fw
  let ring (s : State) : WRes := (s.doorbell qkIR q (v.toNat % 65536) false).done
  match o with
  | .slice k => if s.bound k && !s.halted && s.slicePf k == 3 && !fw && s.act (IgeRq.adr q) IgeRq.slice == k.val then ring s else s.done
  | _ => s.gate o 18 0x1004 true false fun s => if fw then ring s else s.done

/-- An integrity doorbell. -/
def execIntegrityDoorbell (o : Sys2Proof.Origin) (v : Word) (s : State) : Host.Outcome State Fault Refusal :=
  (s.igeDoorbell o v).out

/-- Messages of queue `q` in the lane. -/
def State.laneOf (s : State) (q : Nat) : List LaneMsg := s.ige.msgs.filter (·.q == q)

/-- The absolute slot that an entry of queue `q` names (R457). -/
def State.rqSlot (s : State) (q : Nat) (e : List Byte) : Nat :=
  (match s.qOwner qkIR q with | some k => (s.share .key k).1 | none => 0) + leAt e 4 2 % 4096

/-- STATUS of a request as its first block enters (R459). -/
def State.keyStatus (s : State) (slot op : Nat) : Nat :=
  if s.keyState slot = 0 then 2
  else if s.get (IgeKey.adr slot) IgeKey.mode ≠ (if op ≤ 2 then 0 else 1) then 3
  else 0

/-- A request may enter the lane: its source data has been asked for and arrives, or it has none; a request without data
does not start in a freeze (R348). -/
def State.laneTakes (s : State) (q : Nat) (e : List Byte) : Bool :=
  if leAt e 8 4 = 0 then !s.qFrozen qkIR q else decide (0 < s.readsOf (.integrity q))

/-- The key slot of a request is read; `lost` says that the read is uncorrectable.  That empties the slot, and the tag of the
message differs from the one that verifies by a free value that is not 0 (R452). -/
def State.keyRead (s : State) (slot : Nat) (lost : Bool) : State × Nat :=
  if lost && s.keyState slot != 0 then ((s.keyLost slot).tickFree, 1 + s.free % (2 ^ 64 - 1)) else (s, 0)

/-- Source data enters for a queue that has no request for it: a read that was cut ends, and other data is unexpected (R337,
R338). -/
def State.laneStray (s : State) (q : Nat) (data : List Byte) : State :=
  match s.qVia qkIR q with
  | some (f, _) => if s.reading f (.integrity q) then s.readEnds f (.integrity q) else if data.isEmpty then s else s.stray f
  | none => s

/-- The oldest request of a queue that is not in the lane yet enters it, when its OP is `op`; `data` is its source
data.  A verification whose key is lost fails (R452). -/
def State.laneEnter (s : State) (q op : Nat) (data : List Byte) (lost : Bool) : State :=
  match ((s.qst qkIR q).fetched).drop (s.laneOf q).length with
  | (_, e) :: _ =>
      if leAt e 0 1 % 16 = op ∧ s.qState qkIR q = qsRUNNING ∧ s.ready 18 ∧ s.laneTakes q e then
        let slot := s.rqSlot q e
        let gone := lost || s.ige.badKeys.contains slot
        let s1 := if leAt e 8 4 = 0 then s else match s.qVia qkIR q with | some (f, _) => s.readEnds f (.integrity q) | none => s
        let (s2, spoil) := s1.keyRead slot gone
        let st := s.keyStatus slot op
        let m : LaneMsg := { q := q, op := op, status := if st = 0 ∧ gone ∧ (op = 2 ∨ op = 4) then 1 else st, key := s.keyOf slot
                             spoil := spoil, entry := e, data := slice data 0 (leAt e 8 4) }
        { s2 with ige := { s2.ige with msgs := s2.ige.msgs ++ [m] } }
      else s
  | [] => s.laneStray q data

/-- CMAC_GEN. -/
def execCmacGen (q : Fin 64) (data : List Byte) (lost : Bool) (s : State) : Host.Outcome State Fault Refusal :=
  .next (s.laneEnter q 1 data lost)

/-- CMAC_VERIFY. -/
def execCmacVerify (q : Fin 64) (data : List Byte) (lost : Bool) (s : State) : Host.Outcome State Fault Refusal :=
  .next (s.laneEnter q 2 data lost)

/-- GMAC_GEN. -/
def execGmacGen (q : Fin 64) (data : List Byte) (lost : Bool) (s : State) : Host.Outcome State Fault Refusal :=
  .next (s.laneEnter q 3 data lost)

/-- GMAC_VERIFY. -/
def execGmacVerify (q : Fin 64) (data : List Byte) (lost : Bool) (s : State) : Host.Outcome State Fault Refusal :=
  .next (s.laneEnter q 4 data lost)

/-- The tag of a message, TAG_LEN bytes. -/
def LaneMsg.tag (m : LaneMsg) : List Byte :=
  (xorBytes (if m.op ≤ 2 then aesCmac m.key m.data else aesGmac m.key (slice m.entry 24 12) m.data)
    (leBytes 16 m.spoil)).take (leAt m.entry 3 1 % 32)

/-- A message completes: its tag is written or compared, its entry is written back and done (R458, R459); a queue that may not
issue them halts (R337). -/
def State.laneDone (s : State) (m : LaneMsg) : State :=
  let tag := m.tag
  let slot := s.qSlot qkIR m.q (s.qHead qkIR m.q)
  let gen := m.op = 1 ∨ m.op = 3
  let st := if m.status ≠ 0 then m.status else if gen ∨ tag = slice m.entry 48 tag.length then 0 else 1
  s.qPresent qkIR m.q fun s =>
    let s1 := s.qWrite qkIR m.q slot (m.entry.take 1 ++ leBytes 1 st ++ slice m.entry 2 6)
    let s2 := if gen ∧ st = 0 then s1.qWrite qkIR m.q (slot + 48) (slice tag 0 16) else s1
    s2.qDone qkIR m.q 1 (bit (leAt m.entry 2 1) 0)

/-- The oldest message of a queue leaves the lane. -/
def execLaneMessageDone (q : Fin 64) (s : State) : Host.Outcome State Fault Refusal :=
  match s.laneOf q with
  | [] => .next s
  | m :: rest =>
      let s1 : State := { s with ige := { s.ige with msgs := s.ige.msgs.filter (·.q != q.val) ++ rest } }
      .next (s1.laneDone m)

/-! ## Key commands (R453–R455, R467) -/

/-- A write of OP to IGE_CMD; the command ends at once, its cycles being left out (log 6). -/
def State.igeCmd (s : State) (o : Sys2Proof.Origin) (f : State → Nat → Nat → Nat → List Byte → State × Nat) : WRes :=
  s.gate o 18 0x1100 true false fun s =>
    if s.igeOn then
      let a := IgeCmdSlot.adr
      let d := (List.range 8).flatMap fun w => leBytes 4 (s.inForce (IgeCmdData.adr w)).toNat
      let (s1, st) := f s (s.act a IgeCmdSlot.slot) (s.act a IgeCmdSlot.mode) (s.act a IgeCmdSlot.size) d
      (s1.set IgeCmd.adr IgeCmd.status st).done
    else s.done

/-- A key command of a slice's slice-control entry on SLOT of its share (R467). -/
def State.scKey (s : State) (k : Nat) (e : List Byte) (f : State → Nat → State × Nat) : State × Nat :=
  s.duty k 3 (
    let i := leAt e 8 2 % 4096
    let sh := s.share .key k
    if i < sh.2 then f s (sh.1 + i) else (s, scOUT_OF_SHARE))

/-- KEY_LOAD: by IGE_CMD, or by a slice with the key's 32 B in `arg`; `bad` says that the word as the key store holds it has an
uncorrectable error, which the first read of it meets (R452). -/
def execKeyLoad (o : Sys2Proof.Origin) (arg : List Byte) (bad : Bool) (s : State) : Host.Outcome State Fault Refusal :=
  match o with
  | .slice k => .next (s.sc k 0x60 fun s e =>
      s.scKey k e fun s i =>
        s.keyLoad true i (leAt e 10 1 % 2) (leAt e 10 1 / 2 % 2) arg bad)
  | _ => (s.igeCmd o fun s i mode size d => s.keyLoad false i mode size d bad).out

/-- KEY_DERIVE: only by IGE_CMD; `bad` as in KEY_LOAD. -/
def execKeyDerive (o : Sys2Proof.Origin) (bad : Bool) (s : State) : Host.Outcome State Fault Refusal :=
  (s.igeCmd o fun s i mode size d => s.keyDerive i mode size d bad).out

/-- KEY_CLEAR. -/
def execKeyClear (o : Sys2Proof.Origin) (s : State) : Host.Outcome State Fault Refusal :=
  match o with
  | .slice k => .next (s.sc k 0x61 fun s e => s.scKey k e fun s i => s.keyClear true i)
  | _ => (s.igeCmd o fun s i _ _ _ => s.keyClear false i).out

/-- The entropy source fails its health test (R449). -/
def execRngFault (s : State) : Host.Outcome State Fault Refusal :=
  .next (({ s with ige := { s.ige with rngFault := true } } : State).igeEvent 9 0)

/-- A unit reset of U18 (R469). -/
def State.igeReset (s : State) : State :=
  let s1 := (s.liveQueues.filter fun x => x.1 == qkIR).foldl (fun s x => s.qResetHalt x.1 x.2) s
  (List.range 24).foldl (fun s p =>
    [IgeMsecPort.outProtected, IgeMsecPort.outDrop, IgeMsecPort.inOk, IgeMsecPort.inInvalid, IgeMsecPort.inNotValid,
     IgeMsecPort.inLate, IgeMsecPort.inNoSa].foldl (fun s f => s.set (IgeMsecPort.adr p) f 0) s) s1

end Sys2Proof.Machine
end

