-- ==== Sys2Proof/Machine/Motion.lean ====
section
/-!
DEFINITION. The commands of the motion profile interpolator (R181–R216).
-/

namespace Sys2Proof.Machine

/-! ## Release of an axis (R208) -/

/-- A HELD axis may return to profile: its gap at the last pass, and its cause, allow it (R208, R214). -/
def State.releaseOk (s : State) (a : Nat) : Bool :=
  let F := axF s.inForce a
  let cause := s.get (MpiAxisState.adr a) MpiAxisState.cause
  s.axisState a == axHELD && decide (sget 0 s.mpi.gaps a ≤ F MpiAxis.feLimit)
    && !(cause == hcMASTER_INVALID && s.masterInvalid (F MpiAxis.master))
    && !(cause == hcCAM_ERROR && s.mpi.camErr.any (·.1 == a))

/-- A write of MPI_AXIS_RELEASE, under the slice rule of R183. -/
def State.axisRelease (s : State) (o : Sys2Proof.Origin) (a : Nat) : WRes :=
  let own : Bool := match o with | .slice k => s.axisSlice s.rd a == some k.val | _ => false
  s.gate o 5 0x1004 true own fun s =>
    if s.releaseOk a then
      (s.modMpi fun m => { m with releasing := if m.releasing.contains a then m.releasing else m.releasing ++ [a] }).done
    else s.refuse 5 0x1004

/-- MPI_AXIS_RELEASE. -/
def execAxisRelease (o : Sys2Proof.Origin) (a : Fin 4096) (s : State) : Host.Outcome State Fault Refusal :=
  (s.axisRelease o a).out

/-! ## Placements (R186, R195) -/

/-- A write of PUSH: the placement follows 16 CLK_CXE cycles later (R186). -/
def State.pushSlot (s : State) (o : Sys2Proof.Origin) (k : Nat) : WRes :=
  s.gate o 5 (0x1158 + 0x80 * k) true false fun s =>
    (s.modMpi fun m => { m with pushDue := m.pushDue ++ [k] }).done

/-- PUSH. -/
def execPush (o : Sys2Proof.Origin) (k : Fin 16) (s : State) : Host.Outcome State Fault Refusal := (s.pushSlot o k).out

/-- The bytes of MPI_HOST_SLOT[k]. -/
def State.hostSample (s : State) (k : Nat) : Sample :=
  let a := MpiHostSlot.adr k
  ⟨s.act a MpiHostSlot.position, s.act a MpiHostSlot.velocity, s.act a MpiHostSlot.time, s.act a MpiHostSlot.seq⟩

/-- A pushed host slot is placed (R186). -/
def execHostSlotPlacement (k : Fin 16) (s : State) : Host.Outcome State Fault Refusal :=
  if s.mpi.pushDue.contains k.val then
    .next ((s.modMpi fun m => { m with pushDue := dropFirst k.val m.pushDue }).placeSample srHOST k (s.hostSample k))
  else .next s

/-- The generator places its sample at its placement time (R195), but nothing while its rope is OFF (R196); in a hold no
placement is taken (R212). -/
def execGeneratorPlacement (k : Fin 16) (s : State) : Host.Outcome State Fault Refusal :=
  match (s.master k).waiting with
  | none => .next s
  | some (at_, p, v, t, seq) =>
      if at_ ≤ s.lineNs + 40 then
        let s1 := s.modMaster k fun m => { m with waiting := none }
        .next (if s.ropeMode (s.act (MpiMaster.adr k) MpiMaster.rope) = rmOFF then s1
          else s1.placeSample srGENERATOR k ⟨p, ofSigned 64 v, t, seq⟩)
      else .next s

/-! ## Cam tables (R199, R200) -/

/-- Offset of MPI_CAM[k]. -/
def camOff (k : Nat) : Nat := 0x41000 + 0x10 * k

/-- A table's check runs. -/
def State.camStart (s : State) (k base : Nat) : State :=
  (s.set (MpiCam.adr k) MpiCam.base base).modMpi fun m =>
    { m with checking := if m.checking.contains k then m.checking else m.checking ++ [k] }

/-- A write of VALID = 1, with BASE (R199, R200). -/
def State.camCheck (s : State) (o : Sys2Proof.Origin) (k base : Nat) : WRes :=
  s.gate o 5 (camOff k) (!s.camValid k || s.camBase k != base) false fun s =>
    if s.camValid k then s.refuse 5 (camOff k) else (s.camStart k base).done

/-- VALID = 1. -/
def execCamCheck (o : Sys2Proof.Origin) (k : Fin 256) (base : BitVec 19) (s : State) :
    Host.Outcome State Fault Refusal := (s.camCheck o k base.toNat).out

/-- The first of `n` points after pool index `i` whose X does not rise above the one before. -/
def State.camOrder (s : State) : Nat → Nat → Option Nat
  | 0, _ => none
  | n + 1, i => if s.camX (i + 1) ≤ s.camX i then some (i + 1) else s.camOrder n (i + 1)

/-- The first point of a table that another VALID table also holds. -/
def State.camShared (s : State) (k b n : Nat) : Option Nat :=
  let l := (List.range 256).filterMap fun j =>
    if j ≠ k ∧ s.camValid j ∧ rangesMeet b n (s.camBase j) (s.camCount j) then some (max b (s.camBase j)) else none
  l.foldl (fun acc i => match acc with | none => some i | some m => some (min m i)) none

/-- The points at which table `k` fails the conditions of R199, one list a condition.  The spec does not say which point a
condition on the whole table fails at: a range past the pool fails at the first index past it, the last X at the last point,
and a table that COUNT gives no point at BASE.  DESIGN CHOICE, log 110. -/
def State.camFaults (s : State) (k : Nat) : List Nat :=
  let b := s.camBase k
  let n := min (s.camCount k) (poolPoints - b)
  let when (c : Bool) (i : Nat) : List Nat := if c then [i] else []
  when (decide (poolPoints < b + s.camCount k)) (max b poolPoints)
    ++ when (s.camCount k == 0 || decide (0 < n) && s.camX b != 0) b
    ++ (s.camOrder (n - 1) b).toList
    ++ when (decide (0 < n) && n == s.camCount k && decide (s.camPeriod k ≤ s.camX (b + n - 1))) (b + n - 1)
    ++ (s.camShared k b (s.camCount k)).toList

/-- The first failing point of table `k` (R199): none when it passes. -/
def State.camFails (s : State) (k : Nat) : Option Nat := (s.camFaults k).min?

/-- A table's check ends (R199). -/
def execCamChecked (k : Fin 256) (s : State) : Host.Outcome State Fault Refusal :=
  if s.mpi.checking.contains k.val then
    let s1 := s.modMpi fun m => { m with checking := m.checking.filter (· != k.val) }
    .next (match s1.camFails k with
      | none =>
          ((s1.set (MpiCam.adr k) MpiCam.valid 1).modMpi fun m => { m with camErr := m.camErr.filter (·.2 != k.val) }).raise
            5 11 k
      | some i => (s1.valueRefused 5 (camOff k)).raise 5 11 (k + 256 * i + 2 ^ 27))
  else .next s

/-- An enabled axis uses table `k` (R200). -/
def State.camUsed (s : State) (k : Nat) : Bool :=
  (s.axes s.inForce).any fun a => axF s.inForce a MpiAxis.camEn == 1 && axF s.inForce a MpiAxis.cam == k

/-- A write of VALID = 0, with BASE (R200); a check that runs ends without a result. -/
def State.camWithdraw (s : State) (o : Sys2Proof.Origin) (k base : Nat) : WRes :=
  s.gate o 5 (camOff k) (s.camValid k || s.camBase k != base || s.mpi.checking.contains k) false fun s =>
    if s.camValid k && (s.camUsed k || s.camBase k != base) then s.refuse 5 (camOff k)
    else
      let s1 := (s.set (MpiCam.adr k) MpiCam.valid 0).set (MpiCam.adr k) MpiCam.base base
      (s1.modMpi fun m => { m with checking := m.checking.filter (· != k) }).done

/-- VALID = 0. -/
def execCamWithdraw (o : Sys2Proof.Origin) (k : Fin 256) (base : BitVec 19) (s : State) :
    Host.Outcome State Fault Refusal := (s.camWithdraw o k base.toNat).out

end Sys2Proof.Machine
end

