-- ==== Sys2Proof/Machine/Tables.lean ====
section
/-!
DEFINITION. The commands of the forwarding tables and the TCAM (R253–R293).
-/

namespace Sys2Proof.Machine

/-! ## Learning (R265–R267) -/

/-- Removes the first request that `p` picks. -/
def takeFirst {α : Type} (p : α → Bool) : List α → Option (α × List α)
  | [] => none
  | x :: xs => if p x then some (x, xs) else (takeFirst p xs).map fun (y, ys) => (y, x :: ys)

/-- A learned entry (R266). -/
def State.learnedEntry (s : State) (t : Nat) (key : List Byte) (port : Nat) : List Byte :=
  let e := slice key 0 8 ++ leBytes 4 port ++ [0, 0, 0, 0xC0#8]
  if s.parityMode t && oddParity e then e.set 15 0xC1#8 else e

/-- The entry with another DEST, its parity kept even in PARITY mode. -/
def State.withDest (s : State) (t : Nat) (e : List Byte) (port : Nat) : List Byte :=
  let e1 := e.take 8 ++ leBytes 4 port ++ (e.drop 12).take 4
  if s.parityMode t && oddParity e1 then e1.set 15 (e1.getD 15 0 ^^^ 1#8) else e1

/-- A refresh by a learn lookup: a LEARNED entry with another DEST is rewritten in place (R260, R267). -/
def State.refresh (s : State) (t i : Nat) (e : List Byte) (port : Nat) : State :=
  if learned e && decide (leAt e 8 4 ≠ port) then
    s.putSlot t i (s.withDest t e port) ((s.tab t).hits.contains i)
  else s

/-- A command waits for the insertion engine of table `t`, which takes it before learn requests (R260). -/
def State.engineDue (s : State) (t : Nat) : Bool := match s.emt.waiting with | some (_, u, _) => u == t | none => false

/-- A request of table `t`'s learn queue may run: U11 is not held, and no command waits (R260, R289). -/
def State.learnRuns (s : State) (t : Nat) : Bool := s.ready 11 && !s.engineDue t

/-- A learn request that has waited for its frame's FCS runs; `bad` lists the buckets whose read, in the look-up or in a
relocation chain, is uncorrectable (R262, R265, R266, R278).  The hit bit of a learned entry is set (log 20); a table whose ACCESS has
become DMA learns nothing (R275). -/
def execLearnRequest (t : Fin 16) (bad : List Nat) (s : State) : Host.Outcome State Fault Refusal :=
  match takeFirst (fun r => !r.move && r.ready) (s.tab t).learn with
  | some (r, rest) =>
      if s.learnRuns t then
        let s1 := s.modTab t fun m => { m with learn := rest }
        .next (if s.act (EmtTable.adr t) EmtTable.access = 1 then s1 else match s1.find t r.key bad with
          | (s2, some (i, e)) => s2.refresh t i e r.port
          | (s2, none) => (s2.place t (s2.learnedEntry t r.key r.port) true bad).1)
      else .next s
  | none => .next s

/-- A move request rewrites DEST of its LEARNED entry in one maintenance write (R267); `bad` lists the buckets whose read is
uncorrectable (R278). -/
def execMoveRequest (t : Fin 16) (bad : List Nat) (s : State) : Host.Outcome State Fault Refusal :=
  match takeFirst (fun r => r.move && r.ready) (s.tab t).learn with
  | some (r, rest) =>
      if s.learnRuns t then
        let s1 := s.modTab t fun m => { m with learn := rest }
        .next (if s.act (EmtTable.adr t) EmtTable.access = 1 then s1 else match s1.find t r.key bad with
          | (s2, some (i, e)) => s2.refresh t i e r.port
          | (s2, none) => s2)
      else .next s
  | none => .next s

/-! ## EMT_CMD (R273) -/

/-- Runs the operation of EMT_CMD. -/
def State.emtRun (s : State) (op t : Nat) (e : List Byte) (bad : List Nat) : EmtResult :=
  match op with
  | 1 => s.emtInsert none t e bad
  | 2 => s.emtDelete none t e bad
  | 3 => s.emtModify none t e bad
  | _ => s.emtLookup t e bad

/-- The 64 bytes of EMT_CMD_DATA. -/
def State.emtData (s : State) : List Byte :=
  (List.range 16).flatMap fun w => leBytes 4 (s.inForce (EmtCmdData.adr w)).toNat

/-- A write of OP to EMT_CMD: discarded while BUSY; in a hold of U11 the command waits (R273, R289). -/
def State.emtCmd (s : State) (o : Sys2Proof.Origin) (op t : Nat) (bad : List Nat) : WRes :=
  s.gate o 11 0x1000 (s.get EmtCmd.adr EmtCmd.table != t) false fun s =>
    if s.getB EmtCmd.adr EmtCmd.busy then s.done
    else
      let s1 := ((s.set EmtCmd.adr EmtCmd.table t).set EmtCmd.adr EmtCmd.busy 1).set EmtCmd.adr EmtCmd.status emBUSY
      let e := s1.emtData
      if s1.ready 11 then
        let (s2, st, h, d) := s1.emtRun op t e bad
        ({ s2 with emt := { s2.emt with cmd := some (st, h, d) } }, .ok)
      else ({ s1 with emt := { s1.emt with waiting := some (op, t, e, bad) } }, .ok)

/-- EMT_CMD INSERT. -/
def execEmtCmdInsert (o : Sys2Proof.Origin) (t : Fin 16) (bad : List Nat) (s : State) :
    Host.Outcome State Fault Refusal := (s.emtCmd o 1 t bad).out

/-- EMT_CMD DELETE. -/
def execEmtCmdDelete (o : Sys2Proof.Origin) (t : Fin 16) (bad : List Nat) (s : State) : Host.Outcome State Fault Refusal :=
  (s.emtCmd o 2 t bad).out

/-- EMT_CMD MODIFY. -/
def execEmtCmdModify (o : Sys2Proof.Origin) (t : Fin 16) (bad : List Nat) (s : State) : Host.Outcome State Fault Refusal :=
  (s.emtCmd o 3 t bad).out

/-- EMT_CMD LOOKUP. -/
def execEmtCmdLookup (o : Sys2Proof.Origin) (t : Fin 16) (bad : List Nat) (s : State) : Host.Outcome State Fault Refusal :=
  (s.emtCmd o 4 t bad).out

/-- Writes 32-bit words of `bs` to the registers from address `a`, `n` words. -/
def putWords (bs : List Byte) : Nat → Nat → State → State
  | 0, _, s => s
  | n + 1, a, s =>
      putWords (bs.drop 4) n (a + 4) (s.setBits a 0xFFFFFFFF#32 (BitVec.ofNat 32 (leAt bs 0 4)))

/-- The command ends: BUSY clears, STATUS and HIT are set, LOOKUP's entry is written back (R273, R292). -/
def State.emtEnd (s : State) (st : Nat) (h : Bool) (d : Option (List Byte)) : State :=
  let s1 := ((s.set EmtCmd.adr EmtCmd.busy 0).set EmtCmd.adr EmtCmd.status st).set EmtCmd.adr EmtCmd.hit (b2n h)
  let s2 := match d with
    | some e => putWords e (e.length / 4) (EmtCmdData.adr 0) s1
    | none => s1
  { s2 with emt := { s2.emt with cmd := none, waiting := none } }

/-- An EMT command ends. -/
def execEmtCommandEnd (s : State) : Host.Outcome State Fault Refusal :=
  match s.emt.cmd, s.emt.waiting with
  | some (st, h, d), _ => .next (s.emtEnd st h d)
  | none, some (op, t, e, bad) =>
      if s.ready 11 then
        let (s1, st, h, d) := s.emtRun op t e bad
        .next (s1.emtEnd st h d)
      else .next s
  | none, none => .next s

/-! ## Aging (R272) -/

/-- The visit of one slot: an idle LEARNED entry goes, every other hit bit is cleared. -/
def State.ageSlot (s : State) (t i : Nat) : State :=
  match (s.tab t).at_ i with
  | none => s
  | some e =>
      let h := (s.tab t).hits.contains i
      if learned e && !h then s.clearSlot t i
      else s.modTab t fun m => { m with hits := m.hits.filter (· != i) }

/-- The visit of a bucket, or of the stash. -/
def State.ageBucket (s : State) (t : Nat) (bad : List Nat) (b : Nat) : State :=
  if bad.contains b then s.loseBuckets t [b] else (bucketSlots b).foldl (fun s i => s.ageSlot t i) s

/-- The age scanner visits its next bucket, and the stash once per pass (R272); ways that an age-out
frees take stash entries (R264), and a bucket of `bad`, whose read is uncorrectable, loses its entries (R278). -/
def execAgeVisit (t : Fin 16) (bad : List Nat) (s : State) : Host.Outcome State Fault Refusal :=
  if s.tOn t && s.actB (EmtTable.adr t) EmtTable.ageEn && s.ready 11 then
    let b := (s.tab t).scan % s.tBuckets t
    let n := (s.tab t).slots.length
    let s1 := s.ageBucket t bad b
    let last := b + 1 = s.tBuckets t
    let s2 := if last then s1.ageBucket t bad (stashBase / 4) else s1
    let s3 := s2.modTab t fun m => { m with scan := if last then 0 else b + 1 }
    .next (if (s3.tab t).slots.length < n then s3.migrate t else s3)
  else .next s

/-! ## DMA tables (R275) -/

/-- Images per ring, and the stride of an image. -/
def State.dmaRing (s : State) (t : Nat) : Nat := 2 ^ s.act (EmtDma.adr t) EmtDma.sizeLog2
def State.dmaStride (s : State) (t : Nat) : Nat := 128 * 2 ^ (s.tKind t)

/-- The host address of the image at HEAD. -/
def State.dmaImageAddr (s : State) (t : Nat) : Nat :=
  s.act (EmtDma.adr t) EmtDma.address * 128 + s.get (EmtDma.adr t) EmtDma.head % s.dmaRing t * s.dmaStride t

/-- The device fetches the image at HEAD, when one stands before TAIL.  The read is PF0's, for no slice
(DEDUCED, log 21).  U11 does nothing for a table that is not an enabled DMA table, and nothing in a hold (R275,
R289). -/
def State.dmaFetch (s : State) (t : Nat) : State :=
  if s.get (EmtDma.adr t) EmtDma.head = s.get (EmtDma.adr t) EmtDma.tail then s
  else if !(s.ready 11 && s.tOn t && s.act (EmtTable.adr t) EmtTable.access == 1) then s
  else s.dmaRead 0 none (s.dmaImageAddr t) (s.dmaStride t) (.emtDma t)

/-- U11's hold ends: the tables whose ring waits, with no LOCK to wait for, go on (R289). -/
def State.emtResume (s : State) : State :=
  (List.range 16).foldl (fun s t =>
    if s.getB (EmtDma.adr t) EmtDma.wait || s.awaits 0 (.emtDma t) then s else s.dmaFetch t) s

/-- A TAIL doorbell of a DMA table. -/
def State.emtDoorbell (s : State) (o : Sys2Proof.Origin) (t : Nat) (tail : Nat) : WRes :=
  s.gate o 11 (0x160C + 0x20 * t) false false fun s =>
    let s1 := (s.set (EmtDma.adr t) EmtDma.tail tail).set (EmtDma.adr t) EmtDma.wait 0
    if s1.awaits 0 (.emtDma t) then s1.done else (s1.dmaFetch t).done

/-- A TAIL doorbell starts the device on the images from HEAD to TAIL. -/
def execEmtDmaDoorbell (o : Sys2Proof.Origin) (t : Fin 16) (tail : BitVec 16) (s : State) :
    Host.Outcome State Fault Refusal := (s.emtDoorbell o t tail.toNat).out

/-- The four ways of a bucket of table `t` take the entries of `d`; entries without VALID leave the way
empty. -/
def State.putBucket (s : State) (t b : Nat) (d : List Byte) : State :=
  (List.range 4).foldl (fun s w =>
    let n := entryBytes (s.tKind t)
    let e := slice d (w * n) n
    if bit (flagsOf e) 7 then s.putSlot t (4 * b + w) e ((s.tab t).hits.contains (4 * b + w))
    else s.clearSlot t (4 * b + w)) s

/-- HEAD of table `t` advances by one image. -/
def State.dmaAdvance (s : State) (t : Nat) : State :=
  s.set (EmtDma.adr t) EmtDma.head ((s.get (EmtDma.adr t) EmtDma.head + 1) % (2 * s.dmaRing t))

/-- A fetched bucket image (R275). -/
def execEmtDmaImage (t : Fin 16) (image : List Byte) (s : State) : Host.Outcome State Fault Refusal :=
  if s.reading 0 (.emtDma t) && s.ready 11 then
    let s0 := s.readEnds 0 (.emtDma t)
    let a := s0.dmaImageAddr t
    let b := leAt image 0 4
    if !bit (leAt image 4 4) 0 then .next (s0.set (EmtDma.adr t) EmtDma.wait 1)
    else
      let s1 := if b < s0.tBuckets t then s0.putBucket t b (image.drop 16)
        else s0.valueRefused 11 (0x1600 + 0x20 * t)
      .next (((s1.dmaWrite 0 none (a + 4) [0, 0, 0, 0]).dmaAdvance t).dmaFetch t)
  else if s.reading 0 (.emtDma t) then .next s
  else .next (s.stray 0)

/-! ## The shadow compare (R276) -/

/-- The items of table `t`'s shadow: entries of a COMMAND table, buckets of a DMA table. -/
def State.shadowItems (s : State) (t : Nat) : Nat :=
  if s.act (EmtTable.adr t) EmtTable.access = 1 then s.tBuckets t else s.act (EmtShadow.adr t) EmtShadow.count

/-- A repair is announced. -/
def State.shadowRepair (s : State) (t i : Nat) : State := s.emtEvent 6 (t + 256 * i)

/-- One shadow entry of a COMMAND table is compared and, when it is missing or differs, reinstalled. -/
def State.compareEntry (s : State) (t i : Nat) (item : List Byte) (bad : List Nat) : State :=
  let kd := s.tKind t
  let e := slice item 0 (entryBytes kd)
  if !bit (flagsOf e) 7 then s
  else match s.find t (e.take (keyBytes kd)) bad with
    | (s0, some (j, e')) => if e' = e then s0 else (s0.putSlot t j e ((s0.tab t).hits.contains j)).shadowRepair t i
    | (s0, none) =>
        let (s1, st) := s0.engine t e false bad
        if st = emOK then s1.shadowRepair t i else s1

/-- One shadow bucket of a DMA table is compared way by way. -/
def State.compareBucket (s0 : State) (t b : Nat) (item : List Byte) (bad : List Nat) : State :=
  let s := if bad.contains b then s0.loseBuckets t [b] else s0
  let n := entryBytes (s.tKind t)
  let same := (List.range 4).all fun w =>
    let e := slice item (w * n) n
    (s.tab t).at_ (4 * b + w) == (if bit (flagsOf e) 7 then some e else none)
  if same then s else (s.putBucket t b item).shadowRepair t b

/-- The shadow compare of table `t` runs (R276, R277, R289). -/
def State.shadowOn (s : State) (t : Nat) : Bool :=
  s.tOn t && s.actB (EmtShadow.adr t) EmtShadow.enable && !s.parityMode t && s.ready 11 && decide (0 < s.shadowItems t)

/-- Bytes of a shadow item: an entry, or the four ways of a bucket. -/
def State.shadowBytes (s : State) (t : Nat) : Nat :=
  entryBytes (s.tKind t) * (if s.act (EmtTable.adr t) EmtTable.access = 1 then 4 else 1)

/-- The next item is read from the shadow at ADDRESS, RATE items at most in each 10 µs (R276).  The read is PF0's, for no
slice (DEDUCED, log 21). -/
def State.shadowAsk (s : State) (t : Nat) : State :=
  let m := s.tab t
  let per := s.ranNs / 10000
  let n := if m.shadowAt = per then m.shadowRead else 0
  let i := if m.shadowPos < s.shadowItems t then m.shadowPos else 0
  if s.act (EmtShadow.adr t) EmtShadow.rate ≤ n then s
  else (s.modTab t fun m => { m with shadowPos := i, shadowAt := per, shadowRead := n + 1 }).dmaRead 0 none
    (s.act (EmtShadow.adr t) EmtShadow.address * 64 + i * s.shadowBytes t) (s.shadowBytes t) (.shadow t i)

/-- The shadow compare goes on: it reads its next item, and takes it as `item` when the read completes; `bad` lists the
buckets whose read is uncorrectable.  An item that arrives in a hold is read again. -/
def execShadowCompare (t : Fin 16) (item : List Byte) (bad : List Nat) (s : State) :
    Host.Outcome State Fault Refusal :=
  let i := (s.tab t).shadowPos
  if s.reading 0 (.shadow t i) then
    let s1 := s.readEnds 0 (.shadow t i)
    if s.shadowOn t && decide (i < s.shadowItems t) then
      let s2 := s1.modTab t fun m => { m with shadowPos := (i + 1) % s.shadowItems t }
      .next (if s.act (EmtTable.adr t) EmtTable.access = 1 then s2.compareBucket t i item bad
             else s2.compareEntry t i item bad)
    else .next s1
  else if s.awaits 0 (.shadow t i) then .next s
  else .next (if s.shadowOn t then s.shadowAsk t else s)

/-! ## TCM_CMD (R285) -/

/-- Status codes of TCM_CMD (R293). -/
def tcOK : Nat := 0
def tcBAD_INDEX : Nat := 1
def tcBUSY : Nat := 2

/-- `n` words from register `a` as one number. -/
def State.wide (s : State) (a n : Nat) : Nat := wordsOf s.inForce n a

/-- The entry that the TCM_CMD registers hold, for partition `p`. -/
def State.tcmEntry (s : State) (p : Nat) : TEntry :=
  let w := 2 ^ tcamWidth (s.act (TcmPart.adr p) TcmPart.width)
  ⟨true, s.wide (TcmCmdValue.adr 0) 20 % w, s.wide (TcmCmdMask.adr 0) 20 % w, s.wide TcmCmdData.adr 2⟩

/-- The command ends at once with a status. -/
def State.tcmEnd (s : State) (st : Nat) : State :=
  (s.set TcmCmd.adr TcmCmd.busy 0).set TcmCmd.adr TcmCmd.status st

/-- BUSY is set until the copies have taken the entry. -/
def State.tcmBusy (s : State) : State :=
  (s.set TcmCmd.adr TcmCmd.busy 1).set TcmCmd.adr TcmCmd.status tcBUSY

/-- Runs operation `op` of TCM_CMD on partition `p`: 1 WRITE, 2 INVALIDATE, 3 READ, which returns the verify copy in the
command registers; BAD_INDEX beyond the partition (R285). -/
def State.tcmRun (s : State) (op p : Nat) : State :=
  match s.tcamIndex none p (s.act TcmCmdIndex.adr TcmCmdIndex.index) with
  | none => s.tcmEnd tcBAD_INDEX
  | some i =>
      if op = 1 then (s.tcamPut p i (s.tcmEntry p)).tcmBusy
      else if op = 2 then (s.tcamClear p i).tcmBusy
      else
        let e := s.verified p i
        let s1 := putWords (leBytes 80 e.value) 20 (TcmCmdValue.adr 0) s
        let s2 := putWords (leBytes 80 e.mask) 20 (TcmCmdMask.adr 0) s1
        let s3 := putWords (leBytes 8 e.data) 2 TcmCmdData.adr s2
        (s3.set TcmCmd.adr TcmCmd.valid (b2n e.valid)).tcmEnd tcOK

/-- A write of OP to TCM_CMD: discarded while BUSY; in a hold of U12 the command waits (R285, R289).  PART is lead-protected,
and OP, a WO field that the spec does not call so, is not: OP with PART as it stands needs no lead (R293, R526). -/
def State.tcmCmd (s : State) (o : Sys2Proof.Origin) (op p : Nat) : WRes :=
  s.gate o 12 0x1000 (s.get TcmCmd.adr TcmCmd.part != p) false fun s =>
    if s.getB TcmCmd.adr TcmCmd.busy then s.done
    else
      let s1 := s.set TcmCmd.adr TcmCmd.part p
      if s1.ready 12 then (s1.tcmRun op p).done
      else ({ s1.tcmBusy with tcm := { s1.tcmBusy.tcm with waiting := some (op, p) } }, .ok)

/-- The command that has waited for the end of a hold runs. -/
def State.tcmResume (s : State) : State :=
  match s.tcm.waiting with
  | some (op, p) => ({ s with tcm := { s.tcm with waiting := none } } : State).tcmRun op p
  | none => s

/-- TCM_CMD WRITE. -/
def execTcmCmdWrite (o : Sys2Proof.Origin) (p : Fin 8) (s : State) : Host.Outcome State Fault Refusal := (s.tcmCmd o 1 p).out

/-- TCM_CMD INVALIDATE. -/
def execTcmCmdInvalidate (o : Sys2Proof.Origin) (p : Fin 8) (s : State) : Host.Outcome State Fault Refusal := (s.tcmCmd o 2 p).out

/-- TCM_CMD READ. -/
def execTcmCmdRead (o : Sys2Proof.Origin) (p : Fin 8) (s : State) : Host.Outcome State Fault Refusal := (s.tcmCmd o 3 p).out

/-- A unit reset of U11: the learn queues are empty, the scanners restart and LEARN_DROP is 0 (R289). -/
def State.emtReset (s : State) : State :=
  (List.range 16).foldl (fun s t =>
    (s.modTab t fun m => { m with learn := [], scan := 0 }).set (EmtTable.adr t) EmtTable.learnDrop 0) s

/-- A unit reset of U12 (R289). -/
def State.tcmReset (s : State) : State :=
  (List.range 4).foldl (fun s r =>
    ((s.set (TcmRoleStat.adr r) TcmRoleStat.overrun 0).set (TcmRoleStat.adr r) TcmRoleStat.routeMiss 0).set
      (TcmRoleStat.adr r) TcmRoleStat.ttlDrop 0) s

/-- The entries of partition `p` in row `row` of each block of a copy (R280, R287). -/
def State.rowEntries (s : State) (p row : Nat) : List Nat :=
  let a := TcmPart.adr p
  let b := s.act a TcmPart.blocks
  match s.act a TcmPart.width with
  | 0 => (List.range b).flatMap fun k => [k * 32768 + 2 * row, k * 32768 + 2 * row + 1]
  | 1 => (List.range b).map fun k => k * 16384 + row
  | _ => (List.range (b / 2)).map fun k => k * 16384 + row

/-- A block of copy `c` of partition `p` is being copied to the reserve block, which takes the slots ahead of scrub (R500). -/
def State.copyTakesSlots (s : State) (p c : Nat) : Bool :=
  match (s.kind rkTCAM).copy with
  | some x =>
      let a := TcmPart.adr p
      let lo := s.act a TcmPart.firstBlock + c * s.act a TcmPart.blocks
      ((s.kind rkTCAM).duty.findIdx? (· == x.member)).any fun b => decide (lo ≤ b) && decide (b < lo + s.act a TcmPart.blocks)
  | none => false

/-- The scrub of an update slot (R286, R287): one row of each block of the copy is compared with the verify copy and rewritten
where it differs; `differs` names the entries that an error has changed in the array, and `bad` those whose verify copy is
uncorrectable, which is an invalidated entry. -/
def State.tcamScrub (s : State) (p c : Nat) (differs bad : List Nat) : State :=
  let row := sget 0 s.tcm.scrub (p * 4 + c)
  let is := s.rowEntries p row
  let s1 := (is.filter bad.contains).foldl (fun (s : State) i => s.copyError 0 p i) s
  let s2 := (is.filter fun i => differs.contains i || s1.arrayed p c i != s1.verified p i).foldl
    (fun (s : State) i => (s.arrayTake p c i).tcmEvent 7 (16 * p)) s1
  { s2 with tcm := { s2.tcm with scrub := sput 0 s2.tcm.scrub (p * 4 + c) ((row + 1) % 16384) } }

/-- An update slot of copy `c` of partition `p`: a repair, else a write, else a rotation copy, else a
scrub (R283, R285–R287, R500).
`differs` and `bad` are what the scrubbed rows show. -/
def execTcamUpdateSlot (p : Fin 8) (c : Fin 4) (differs bad : List Nat) (s : State) :
    Host.Outcome State Fault Refusal :=
  if s.partOn p && decide (c.val < s.partCopies p) && s.ready 12 then
    match takeFirst (fun u => u.part == p.val && u.copy == c.val) s.tcm.updates with
    | some (u, rest) =>
        let s1 := ({ s with tcm := { s.tcm with updates := rest } } : State).arrayTake p c u.index
        let more := rest.any fun v => !v.repair
        .next (if s1.getB TcmCmd.adr TcmCmd.busy && !u.repair && !more then s1.tcmEnd tcOK else s1)
    | none => .next (if s.copyTakesSlots p c then s else s.tcamScrub p c differs bad)
  else .next s

end Sys2Proof.Machine
end

