-- ==== Sys2Proof/Machine/SliceCtl.lean ====
section
/-!
DEFINITION. The slice-control commands of queues, tables and load spreading (R274, R285, R375, R376).
-/

namespace Sys2Proof.Machine

/-! ## Queues -/

/-- The queue that an entry of slice `k` names: KIND at 8, QUEUE at 10 (R375). -/
def State.scQueue (s : State) (k : Nat) (e : List Byte) : Nat × Option Nat :=
  let kind := leAt e 8 1 % 4
  (kind, if kind = 3 then none else s.doorQueue k kind (leAt e 10 2 % 4096))

/-- The eight context words of a queue. -/
def State.putContext (s : State) (a : Nat) (b : List Byte) : State :=
  (List.range 8).foldl (fun s w =>
    s.setBits (a + 4 * w) (fieldMask (fun f _ => f.acc == .rwl) (a + 4 * w)) (BitVec.ofNat 32 (leAt b (4 * w) 4))) s

/-- QUEUE_SETUP: the context of a DISABLED queue is written; one that ENABLE would refuse is not. -/
def State.queueSetup (s : State) (k : Nat) (e : List Byte) : State × Nat :=
  match s.scQueue k e with
  | (kind, some q) =>
      if s.qState kind q ≠ qsDISABLED then (s, scBAD_STATE)
      else
        let s1 := s.putContext (qAdr kind q) (slice e 16 32)
        if s1.qContextOk kind q && s1.act (qAdr kind q) QeTxq.count != 0 then (s1, scOK) else (s, scBAD_VALUE)
  | (_, none) => (s, scOUT_OF_SHARE)

/-- A queue command of a slice-control entry. -/
def State.scCommand (s : State) (k : Nat) (e : List Byte) (en dis rst : Bool) : State × Nat :=
  match s.scQueue k e with
  | (kind, some q) =>
      if s.qCommandOk kind q en dis rst then
        (if en then s.qEnable kind q else s.qDrain kind q rst, scOK)
      else if en ∧ s.qState kind q = qsDISABLED then (s, scBAD_VALUE)
      else (s, scBAD_STATE)
  | (_, none) => (s, scOUT_OF_SHARE)

/-- QUEUE_SETUP. -/
def execScQueueSetup (k : Fin 256) (s : State) : Host.Outcome State Fault Refusal :=
  .next (s.sc k 0x01 fun s e => s.queueSetup k e)

/-- QUEUE_ENABLE. -/
def execScQueueEnable (k : Fin 256) (s : State) : Host.Outcome State Fault Refusal :=
  .next (s.sc k 0x02 fun s e => s.scCommand k e true false false)

/-- QUEUE_DISABLE. -/
def execScQueueDisable (k : Fin 256) (s : State) : Host.Outcome State Fault Refusal :=
  .next (s.sc k 0x03 fun s e => s.scCommand k e false true false)

/-- QUEUE_RESET. -/
def execScQueueReset (k : Fin 256) (s : State) : Host.Outcome State Fault Refusal :=
  .next (s.sc k 0x04 fun s e => s.scCommand k e false false true)

/-! ## Exact-match commands (R274) -/

/-- An EMT command of slice `k`: the entry stands in the buffer at ENTRY_ADDR, to which LOOKUP writes it back. -/
def State.scEmt (s : State) (k : Nat) (e : List Byte) (run : State → Nat → EmtResult) : State × Nat :=
  s.duty k 0 (
    let addr := leAt e 16 8
    let (s1, st, _, d) := run s (leAt e 8 1 % 16)
    (match d with | some x => s1.argWrite k addr (slice x 0 64) | none => s1, 0x10 + st))

/-- EMT_INSERT; it waits while U11 does not run (R289). -/
def execEmtInsert (k : Fin 256) (arg : List Byte) (bad : List Nat) (s : State) : Host.Outcome State Fault Refusal :=
  if s.ready 11 then .next (s.sc k 0x10 fun s e => s.scEmt k e fun s t => s.emtInsert (some k.val) t arg bad) else .next s

/-- EMT_DELETE. -/
def execEmtDelete (k : Fin 256) (arg : List Byte) (bad : List Nat) (s : State) : Host.Outcome State Fault Refusal :=
  if s.ready 11 then .next (s.sc k 0x11 fun s e => s.scEmt k e fun s t => s.emtDelete (some k.val) t arg bad) else .next s

/-- EMT_MODIFY. -/
def execEmtModify (k : Fin 256) (arg : List Byte) (bad : List Nat) (s : State) : Host.Outcome State Fault Refusal :=
  if s.ready 11 then .next (s.sc k 0x12 fun s e => s.scEmt k e fun s t => s.emtModify (some k.val) t arg bad) else .next s

/-- EMT_LOOKUP. -/
def execEmtLookup (k : Fin 256) (arg : List Byte) (bad : List Nat) (s : State) : Host.Outcome State Fault Refusal :=
  if s.ready 11 then .next (s.sc k 0x13 fun s e => s.scEmt k e fun s t => s.emtLookup t arg bad) else .next s

/-! ## TCAM commands (R282, R285) -/

/-- A TCAM command of slice `k` on PART and INDEX of its entry. -/
def State.scTcam (s : State) (k : Nat) (e : List Byte) (run : State → Nat → Nat → State) : State × Nat :=
  s.duty k 0 (
    let p := leAt e 8 1 % 8
    match s.tcamIndex (some k) p (leAt e 12 4 % 262144) with
    | none => (s, 0x20 + tcBAD_INDEX)
    | some i => (run s p i, 0x20 + tcOK))

/-- The entry that a 256 B buffer spells. -/
def State.tcamBuffer (s : State) (p : Nat) (d : List Byte) : TEntry :=
  let w := 2 ^ tcamWidth (s.act (TcmPart.adr p) TcmPart.width)
  ⟨true, leAt d 0 80 % w, leAt d 80 80 % w, leAt d 160 8⟩

/-- TCAM_WRITE. -/
def execTcamWrite (k : Fin 256) (arg : List Byte) (s : State) : Host.Outcome State Fault Refusal :=
  if s.ready 12 then
    .next (s.sc k 0x18 fun s e => s.scTcam k e fun s p i => s.tcamPut p i (s.tcamBuffer p arg))
  else .next s

/-- TCAM_INVALIDATE. -/
def execTcamInvalidate (k : Fin 256) (s : State) : Host.Outcome State Fault Refusal :=
  if s.ready 12 then .next (s.sc k 0x19 fun s e => s.scTcam k e fun s p i => s.tcamClear p i) else .next s

/-- TCAM_READ writes the verify copy to the buffer. -/
def execTcamRead (k : Fin 256) (s : State) : Host.Outcome State Fault Refusal :=
  if s.ready 12 then
    .next (s.sc k 0x1A fun s e => s.scTcam k e fun s p i =>
      let x := s.verified p i
      s.argWrite k (leAt e 16 8) (leBytes 80 x.value ++ leBytes 80 x.mask ++ leBytes 8 x.data))
  else .next s

/-! ## Load spreading (R246, R247) -/

/-- INDIR_WRITE: a run of entries; one that breaks the INDEX rule ends the command before any is written. -/
def State.scIndir (s : State) (k : Nat) (e arg : List Byte) : State × Nat :=
  s.duty k 1 (
    let first := leAt e 8 2 % 2048
    let n := leAt e 10 2 % 4096
    if n = 0 ∨ 2048 < first + n then (s, scBAD_VALUE)
    else
      let vs := (List.range n).map fun i => leAt arg (2 * i) 2
      if vs.all (s.indirOk k) then
        ((List.range n).foldl (fun s i => s.putIndir k (first + i) (vs.getD i 0)) s, scOK)
      else (s, scBAD_VALUE))

/-- INDIR_WRITE. -/
def execIndirWrite (k : Fin 256) (arg : List Byte) (s : State) : Host.Outcome State Fault Refusal :=
  .next (s.sc k 0x20 fun s e => s.scIndir k e arg)

/-- HASH_KEY_WRITE: the ten words take effect as a write of word 9 makes them. -/
def State.scHashKey (s : State) (k : Nat) (e arg : List Byte) : State × Nat :=
  s.duty k 1 (
    let s2 := (List.range 10).foldl (fun s w =>
      let a := PpHashKey.adr 0 k w
      let old := s.inForce a
      (s.setReg a (BitVec.ofNat 32 (leAt arg (4 * w) 4))).setForce a old) s
    ({ s2 with pp := { s2.pp with keyDue := if s2.pp.keyDue.contains k then s2.pp.keyDue else k :: s2.pp.keyDue } }, scOK))

/-- HASH_KEY_WRITE. -/
def execHashKeyWrite (k : Fin 256) (arg : List Byte) (s : State) : Host.Outcome State Fault Refusal :=
  .next (s.sc k 0x21 fun s e => s.scHashKey k e arg)

end Sys2Proof.Machine
end

