-- ==== Sys2Proof/Machine/ShxOps.lean ====
section
/-!
DEFINITION. Shardo connections: contexts and their cache, packets on the wire, congestion control, and the send
rings (R382–R402, R404–R406, R414).
-/

namespace Sys2Proof.Machine

/-! ## Connections (R388, R389) -/

/-- Connection states; the codes after CLOSED count on in the order in which R389 names them (DEDUCED, log 31). -/
def csFREE : Nat := 0
def csCLOSED : Nat := 1
def csCONNECTING : Nat := 2
def csOPEN : Nat := 3
def csFAILED : Nat := 4

/-- Connection kinds. -/
def ckRING : Nat := 0
def ckEXPORT : Nat := 1
def ckSTORAGE : Nat := 2

/-- The context fields (R388). -/
def Conn.at_ (x : Conn) (o n : Nat) : Nat := leAt x.ctx o n
def Conn.kind (x : Conn) : Nat := bits (x.at_ 0 1) 4 3
def Conn.pin (x : Conn) : Bool := bit (x.at_ 1 1) 7
def Conn.auth (x : Conn) : Bool := bit (x.at_ 1 1) 6
def Conn.v6 (x : Conn) : Bool := bit (x.at_ 1 1) 5
def Conn.port (x : Conn) : Nat := x.at_ 1 1 % 32
def Conn.remoteNode (x : Conn) : Nat := x.at_ 4 4 % 2 ^ 18
def Conn.remoteConn (x : Conn) : Nat := x.at_ 8 4 % 2 ^ 24
def Conn.startPsn (x : Conn) : Nat := x.at_ 12 4 % 2 ^ 24
def Conn.window (x : Conn) : Nat := min (x.at_ 16 4 % 2 ^ 23) (2 ^ 22)
def Conn.initRate (x : Conn) : Nat := x.at_ 28 4
def Conn.remoteIp (x : Conn) : List Byte := Machine.slice x.ctx 32 (if x.v6 then 16 else 4)
def Conn.ringBase (x : Conn) : Nat := x.at_ 56 8 / 64 * 64
def Conn.headBase (x : Conn) : Nat := x.at_ 64 8 / 16 * 16
def Conn.irqEn (x : Conn) : Bool := bit (x.at_ 72 4) 31
def Conn.vector (x : Conn) : Nat := bits (x.at_ 72 4) 30 20
def Conn.ringN (x : Conn) : Nat := 2 ^ bits (x.at_ 72 4) 15 12
def Conn.ringM (x : Conn) : Nat := 2 * x.ringN
def Conn.count (x : Conn) : Nat := x.at_ 76 4 / 65536
def Conn.time (x : Conn) : Nat := x.at_ 76 4 % 65536

/-- Connection `c`, unless it is FREE. -/
def State.conn (s : State) (c : Nat) : Option Conn := sfind s.shx.conns c

/-- Connection `c` is `x` now, and the host has not got its context as it stands (R393). -/
def State.putConn (s : State) (c : Nat) (x : Conn) : State :=
  { s with shx := { s.shx with conns := sins s.shx.conns c x
                               dirty := if s.shx.dirty.contains c then s.shx.dirty else c :: s.shx.dirty } }

/-- Changes connection `c`. -/
def State.modConn (s : State) (c : Nat) (f : Conn → Conn) : State :=
  match s.conn c with | some x => s.putConn c (f x) | none => s

/-- Runs `f` on connection `c`, unless it is FREE. -/
def State.withConn (s : State) (c : Nat) (f : Conn → State) : State := match s.conn c with | some x => f x | none => s

/-- U16 acts on what arrives: READY, or in a hold (R420). -/
def State.shxOn (s : State) : Bool := s.ready 16 || s.ustate 16 == stHELD

/-- The time by which the connections' timers and paces run: line time in ns, without what holds of U16 have taken (R420). -/
def State.shxNs (s : State) : Nat := s.shx.heldAt.getD s.lineNs - s.shx.heldNs

/-- A hold of U16 begins, and ends: the connections' time stands between. -/
def State.shxStands (s : State) : State := { s with shx := { s.shx with heldAt := some s.lineNs } }
def State.shxRuns (s : State) : State :=
  match s.shx.heldAt with
  | some t => { s with shx := { s.shx with heldAt := none, heldNs := s.shx.heldNs + (s.lineNs - t) } }
  | none => s

/-- Events of U16, under their hold-off (R422). -/
def State.shxEvent (s : State) (n c code : Nat) : State :=
  s.raiseHeld (16 * 16 + n) (s.act ShxHoldoff.adr ShxHoldoff.microseconds) 16 n (c + code * 2 ^ 20)

/-- A wrapping counter of SHX_STAT. -/
def State.shxStat (s : State) (f : Fld) : State := s.bump ShxStat.adr f

/-- From PSN `a` on to PSN `b`, modulo 2^24. -/
def psnDist (a b : Nat) : Nat := (b % 2 ^ 24 + 2 ^ 24 - a % 2 ^ 24) % 2 ^ 24

/-- PSN `b` is `a` or comes after it. -/
def psnReached (a b : Nat) : Bool := decide (psnDist a b < 2 ^ 23)

/-- UNACK_PSN: the PSN of the first packet sent that is not acknowledged (R405). -/
def Conn.unack (x : Conn) : Nat := ((x.pkts.find? fun p => p.psn.isSome && !p.acked).bind fun p => p.psn).getD x.sendPsn

/-- The slice's binding, for the traffic of a connection of KIND RING; PF3 without a PASID for the others (log 21). -/
def State.connVia (s : State) (x : Conn) : Option (Nat × Option Nat) :=
  if x.kind = ckRING then (if s.bound x.slice then some (s.slicePf x.slice, some (s.slicePasid x.slice)) else none)
  else some (3, none)

/-- The slice of a connection of KIND RING is stopped by FREEZE (R416). -/
def State.connFrozen (s : State) (x : Conn) : Bool := x.kind == ckRING && s.frozen x.slice

/-! ## Context and region caches (R393, R397) -/

/-- The 256 bytes of a context: bytes 158–255 have no documented layout, and are free values (log 4). -/
def State.ctxBytes (s : State) (x : Conn) : List Byte :=
  leBytes 1 (x.version * 32 + x.kind * 8 + x.state) ++ slice x.ctx 1 1 ++ leBytes 1 x.slice ++ leBytes 1 x.epoch
    ++ slice x.ctx 4 124 ++ leBytes 4 x.sendPsn ++ leBytes 4 x.unack ++ leBytes 4 x.expected
    ++ leBytes 2 x.head ++ leBytes 2 x.tail ++ leBytes 4 (x.rstate * 2 ^ 28 + x.rerror * 65536 + x.rindex)
    ++ leBytes 4 x.rate ++ leBytes 4 x.streak ++ leBytes 2 x.alpha ++ leBytes 98 s.free

/-- Host addresses of a context and of a region entry. -/
def State.ctxAddr (s : State) (c : Nat) : Nat := s.act ShxCtxBase.adr ShxCtxBase.address * 4096 + 256 * c
def State.regionAddr (s : State) (i : Nat) : Nat := s.act ShxRegionBase.adr ShxRegionBase.address * 4096 + 32 * i

/-- Capacities of the caches and of the miss buffer. -/
def ctxCacheSize : Nat := 16384
def regionCacheSize : Nat := 8192
def missSize : Nat := 512

/-- The context of connection `c` may be evicted: it carries no PIN and none of its packets is parked. -/
def State.evictable (s : State) (c : Nat) : Bool :=
  !(match s.conn c with | some x => x.pin | none => false) && !(s.shx.parked.any fun p => p.1 == c)

/-- The context of `c` is written back, unless the host has it as it stands (R393). -/
def State.ctxBack (s : State) (c : Nat) : State :=
  if s.shx.dirty.contains c then
    let s1 := s.withConn c fun x => (s.dmaWrite 3 none (s.ctxAddr c) (s.ctxBytes x)).tickFree
    { s1 with shx := { s1.shx with dirty := s1.shx.dirty.filter (· != c) } }
  else s

/-- Contexts cached or being read. -/
def State.ctxTaken (s : State) : Nat :=
  s.shx.cache.length + (s.readers.filter fun x => match x.2 with | .ctx _ => true | _ => false).length

/-- Makes room in the context cache, counting the contexts that are being read: the least recently used context that may go
leaves it, written back first if it is dirty (R393). -/
def State.ctxRoom (s : State) : State :=
  if s.ctxTaken < ctxCacheSize then s
  else match s.shx.cache.reverse.find? s.evictable with
    | none => s
    | some v =>
        let s1 := s.ctxBack v
        { s1 with shx := { s1.shx with cache := s1.shx.cache.filter (· != v) } }

/-- The context of `c` is the most recently used one in the cache. -/
def State.ctxTouch (s : State) (c : Nat) : State :=
  { s with shx := { s.shx with cache := c :: s.shx.cache.filter (· != c) } }

/-- The context of `c` enters the cache. -/
def State.ctxEnter (s : State) (c : Nat) : State := if s.shx.cache.contains c then s.ctxTouch c else s.ctxRoom.ctxTouch c

/-- A context read is issued, unless one is outstanding, U16 is held or no cached context may go (R393, R420). -/
def State.ctxAsk (s : State) (c : Nat) : State :=
  if s.shx.cache.contains c ∨ s.awaits 3 (.ctx c) ∨ !s.ready 16 then s
  else
    let s1 := s.ctxRoom
    if s1.ctxTaken < ctxCacheSize then s1.dmaRead 3 none (s.ctxAddr c) 256 (.ctx c) else s1

/-- Region entry `i` is the most recently used one in its cache. -/
def State.regionTouch (s : State) (i : Nat) : State :=
  { s with shx := { s.shx with rcache := (i :: s.shx.rcache.filter (· != i)).take regionCacheSize } }

/-- A region entry read is issued. -/
def State.regionAsk (s : State) (i : Nat) : State :=
  if s.shx.rcache.contains i ∨ s.awaits 3 (.region i) ∨ !s.ready 16 then s
  else s.dmaRead 3 none (s.regionAddr i) 32 (.region i)

/-- Region `i`. -/
def State.region (s : State) (i : Nat) : Region := sget Region.init s.shx.regions i

/-- The kind of the pre-start of a held timed write's placement: 33 into an MPI region, else 32 (R476). -/
def State.placeKind (s : State) (h : HeldWrite) : Nat := if (s.region h.region).mpi then 33 else 32

/-- Placements into region `i` that HIF has been handed wait to be issued (R398). -/
def State.placing (s : State) (i : Nat) : Bool :=
  s.hif.xlate.any fun x => match x.2 with | .write _ (some (.place j)) _ _ _ => j == i | _ => false

/-- Index `i` of a share, or an absolute one below `cap`. -/
def shareIndex (k : Option Nat) (sh : Nat → Nat × Nat) (cap i : Nat) : Option Nat :=
  match k with
  | some n => if i < (sh n).2 then some ((sh n).1 + i) else none
  | none => if i < cap then some i else none

/-- Regions (R396). -/
def regionCount : Nat := 1048576

/-- The region share of slice `k` (R346, R396). -/
def State.regionShare (s : State) (k : Nat) : Nat × Nat :=
  let (b, n) := s.equalShare regionCount k
  if s.service then
    ((sget (BitVec.ofNat 32 b) s.shx.shares (2 * k)).toNat, (sget (BitVec.ofNat 32 n) s.shx.shares (2 * k + 1)).toNat)
  else (b, n)

/-- The region that a command names. -/
def State.regionArg (s : State) (k : Option Nat) (e : List Byte) : Option Nat :=
  shareIndex k s.regionShare regionCount (leAt e 8 4 % 2 ^ 20)

/-- The status of a command that ends later is known: its entry, still at the front of its queue with opcode `op`, or SHX_CMD
ends. -/
def State.shxEnd (s : State) (o : Sys2Proof.Origin) (op st : Nat) : State :=
  match o with
  | .slice k => match (s.qst qkSC k).fetched with | (_, e) :: _ => if leAt e 0 1 = op then s.scEnd k e st else s | [] => s
  | _ => (s.set ShxCmd.adr ShxCmd.busy 0).set ShxCmd.adr ShxCmd.status st

/-- The entry of a REGION_DEREGISTER of region `i` still stands at the front of its queue, or SHX_CMD runs it. -/
def State.deregStands (s : State) (x : Nat × Sys2Proof.Origin) : Bool :=
  match x.2 with
  | .slice k => (match (s.qst qkSC k).fetched with | (_, e) :: _ => s.regionArg (some k) e == some x.1 | [] => false)
  | _ => true

/-- REGION_DEREGISTERs whose placements have been issued, or have gone, end (R398). -/
def State.deregEnds (s : State) : State :=
  let s1 : State := { s with shx := { s.shx with dereg := s.shx.dereg.filter fun x => s.placing x.1 } }
  (s.shx.dereg.filter fun x => !s.placing x.1).foldl (fun (s : State) x => if s.deregStands x then s.shxEnd x.2 0x45 scOK else s) s1

/-- The 32 bytes of a region entry (R396). -/
def Region.bytes (r : Region) : List Byte :=
  leBytes 1 (32 * b2n r.lead + 16 * b2n r.mpi + 8 * b2n r.timed + 4 * b2n r.read + 2 * b2n r.write + b2n r.valid)
    ++ leBytes 1 r.gen ++ leBytes 1 r.slice ++ List.replicate 5 0 ++ leBytes 8 r.base ++ leBytes 8 r.length
    ++ List.replicate 8 0

/-- Region `i` changes: the entry is cached and written to the table (R396, R397). -/
def State.putRegion (s : State) (i : Nat) (r : Region) : State :=
  let s1 : State := { s with shx := { s.shx with regions := sput Region.init s.shx.regions i r } }
  (s1.regionTouch i).dmaWrite 3 none (s.regionAddr i) r.bytes

/-! ## Packets on the wire (R382–R387) -/

/-- Opcodes (R386). -/
def opWRITE : Nat := 0
def opREAD_REQ : Nat := 1
def opREAD_RESP : Nat := 2
def opACK : Nat := 3
def opNAK : Nat := 4
def opFLUSH : Nat := 5
def opFLUSH_ACK : Nat := 6
def opTIMED_WRITE : Nat := 7
def opHELLO : Nat := 8
def opRESYNC : Nat := 9
def opNOT_READY : Nat := 10

/-- A Shardo header with its payload (R385). -/
structure ShHdr where
  ver : Nat
  op : Nat
  flags : Nat
  conn : Nat
  epoch : Nat
  psn : Nat
  code : Nat
  marks : Nat
  key : Nat
  addr : Nat
  len : Nat
  time : Nat
  payload : List Byte
  icv : List Byte
  deriving DecidableEq, Repr

/-- The 32 header bytes. -/
def ShHdr.bytes (h : ShHdr) : List Byte :=
  leBytes 1 (h.ver * 16 + h.op) ++ leBytes 1 h.flags ++ beBytes 3 h.conn ++ beBytes 1 h.epoch ++ beBytes 3 h.psn
    ++ beBytes 1 h.code ++ beBytes 2 h.marks ++ beBytes 4 h.key ++ beBytes 8 h.addr ++ beBytes 2 h.len ++ [0, 0]
    ++ beBytes 4 h.time

/-- Where a packet goes: port, tag, IP version, DSCP, source port, and the two destination addresses. -/
structure ShPath where
  port : Nat
  tag : Option (Nat × Nat)
  v6 : Bool
  dscp : Nat
  sport : Nat
  mac : List Byte
  ip : List Byte
  deriving DecidableEq, Repr

/-- The path of a connection's packets. -/
def Conn.path (x : Conn) : ShPath :=
  { port := x.port, tag := if bit (x.at_ 23 1) 0 then some (bits (x.at_ 26 2) 14 12, x.at_ 26 2 % 4096) else none
    v6 := x.v6, dscp := x.at_ 22 1 % 64, sport := x.at_ 20 2, mac := Machine.slice x.ctx 48 6, ip := x.remoteIp }

/-- The device's own IP address. -/
def State.localIp (s : State) (v6 : Bool) : List Byte :=
  if v6 then beBytes 16 (s.act ShxLocalIp6.adr ShxLocalIp6.address) else beBytes 4 (s.act ShxLocalIp4.adr ShxLocalIp4.address)

/-- The UDP checksum over IPv6 of a datagram whose checksum field is 0. -/
def udpSum (src dst udp : List Byte) : Nat :=
  let n := 65535 - fold16 (onesSum (src ++ dst ++ beBytes 4 udp.length ++ [0, 0, 0, 17] ++ udp))
  if n = 0 then 65535 else n

/-- The frame of a Shardo packet, from its destination address to the last payload byte (R382). -/
def State.shxFrame (s : State) (p : ShPath) (body : List Byte) : List Byte :=
  let src := s.localIp p.v6
  let hop := s.act ShxPath.adr ShxPath.hopLimit
  let tos := p.dscp * 4 + 2
  let n := 8 + body.length
  let udp0 := beBytes 2 p.sport ++ beBytes 2 (s.act ShxCtrl.adr ShxCtrl.udpPort) ++ beBytes 2 n
  let udp := udp0 ++ beBytes 2 (if p.v6 then udpSum src p.ip (udp0 ++ [0, 0] ++ body) else 0) ++ body
  let ip := if p.v6 then
      beBytes 4 (6 * 2 ^ 28 + tos * 2 ^ 20) ++ beBytes 2 n ++ [17] ++ beBytes 1 hop ++ src ++ p.ip ++ udp
    else fixChecksum ([0x45] ++ beBytes 1 tos ++ beBytes 2 (20 + n) ++ [0, 0, 0x40, 0] ++ beBytes 1 hop ++ [17, 0, 0] ++ src ++ p.ip ++ udp) 0
  p.mac ++ beBytes 6 (s.portMac p.port) ++ (match p.tag with | some (pcp, vid) => cTag pcp vid | none => [])
    ++ (if p.v6 then [0x86, 0xDD] else [0x08, 0x00]) ++ ip

/-- A frame of U16 goes to the queue of its port (R423). -/
def State.shxOut (s : State) (port : Nat) (f : List Byte) : State :=
  s.toTm (s.act (ShxPortQueue.adr (port - 16)) ShxPortQueue.queue) f none false

/-- The key slot of a connection's check values (R388, R460). -/
def State.connSlot (s : State) (x : Conn) : Nat := (s.share .key x.slice).1 + x.at_ 24 2 % 4096

/-- The slot holds a CMAC key, as R460 requires. -/
def State.connKeyOk (s : State) (x : Conn) : Bool :=
  s.keyState (s.connSlot x) != 0 && s.get (IgeKey.adr (s.connSlot x)) IgeKey.mode == 0

/-- The check value of a packet under the key that has been read (R460); the spec gives none for a slot without a CMAC key,
and it is a free value. -/
def State.shxIcv (s : State) (x : Conn) (msg : List Byte) : List Byte :=
  if s.connKeyOk x then aesCmac (s.keyOf (s.connSlot x)) msg else leBytes 16 s.free

/-- The bytes of a packet of connection `x`, with its check value when AUTH is set (R382). -/
def State.shxBody (s : State) (x : Conn) (h : ShHdr) : List Byte :=
  let m := ({ h with flags := h.flags + 16 * b2n x.auth } : ShHdr).bytes ++ h.payload
  m ++ (if x.auth then s.shxIcv x m else [])

/-- A packet header of connection `x`. -/
def Conn.hdr (x : Conn) (op psn : Nat) : ShHdr :=
  { ver := if x.version = 0 then 1 else x.version, op := op, flags := 0, conn := x.remoteConn, epoch := x.epoch, psn := psn
    code := 0, marks := 0, key := 0, addr := 0, len := 0, time := 0, payload := [], icv := [] }

/-- The frame of a packet of connection `x`, for whose check value its key is read (R382, R452). -/
def State.connFrame (s : State) (x : Conn) (h : ShHdr) : State × List Byte :=
  let t := if x.auth then s.keyMet (s.connSlot x) else s
  (t, t.shxFrame x.path (t.shxBody x h))

/-- A packet of connection `x` goes to its port. -/
def State.shxSend (s : State) (x : Conn) (h : ShHdr) : State :=
  let (t, f) := s.connFrame x h
  (t.shxOut x.port f).tickFree

/-- A packet of connection `x` goes to its port without a check value (R461). -/
def State.shxPlain (s : State) (x : Conn) (h : ShHdr) : State := (s.shxOut x.port (s.shxFrame x.path (h.bytes ++ h.payload))).tickFree

/-- The most payload bytes of a data packet (R383). -/
def State.payloadLimit (s : State) (x : Conn) : Nat :=
  min 4096 (s.act ShxPath.adr ShxPath.pmtu - ((if x.v6 then 40 else 20) + 8 + 32 + (if x.auth then 16 else 0)))

/-! ## Answers -/

/-- The payload of a HELLO (R387). -/
def State.helloBytes (s : State) (c : Nat) (x : Conn) (move reply : Bool) : List Byte :=
  leBytes 1 (s.act ShxCtrl.adr ShxCtrl.versionMax * 16 + 1) ++ leBytes 1 (2 * b2n move + b2n reply) ++ [0, 0]
    ++ beBytes 4 (s.act ShxLocal.adr ShxLocal.node) ++ beBytes 4 c ++ beBytes 4 x.expected

/-- Answers that the connection's RATE paces (R414). -/
def Answer.paced : Answer → Bool
  | .flushAck _ | .readResp .. => true
  | _ => false

/-- The header of an answer: an ACK of everything accepted, a NAK and a FLUSH_ACK with the marks counted since the last answer
(R405, R407, R415), a NOT_READY with SHX_MISS.BACKOFF (R394), a READ_RESP (R408) and a HELLO (R387). -/
def State.answerHdr (s : State) (c : Nat) (x : Conn) : Answer → ShHdr
  | .ack late => { x.hdr opACK ((x.expected + 2 ^ 24 - 1) % 2 ^ 24) with marks := x.marks, flags := if late then 8 else 0 }
  | .nak code psn => { x.hdr opNAK psn with marks := x.marks, code := code }
  | .notReady psn _ => { x.hdr opNOT_READY psn with code := s.act ShxMiss.adr ShxMiss.backoff }
  | .flushAck psn => { x.hdr opFLUSH_ACK psn with marks := x.marks }
  | .readResp psn data => { x.hdr opREAD_RESP psn with len := data.length, payload := data }
  | .hello move reply =>
      { x.hdr opHELLO (if move then x.sendPsn else x.startPsn) with len := 16, payload := s.helloBytes c x move reply }

/-- What an answer leaves of the receiver's counts once it has been sent (R405, R415). -/
def Conn.told (x : Conn) : Answer → Conn
  | .ack _ => { x with marks := 0, accepted := 0, ackFrom := none }
  | .nak .. => { x with marks := 0 }
  | .flushAck _ => { x with marks := 0 }
  | _ => x

/-- The pace lets the connection send now (R414). -/
def State.inPace (s : State) (x : Conn) : Bool := decide (0 < x.rate) && decide (x.paceAt ≤ s.shxNs * 1000 + 40000)

/-- RATE holds the next paced packet back for the wire bytes of a frame of `n` bytes (R414). -/
def State.paced (s : State) (x : Conn) (n : Nat) : Conn :=
  { x with paceAt := max x.paceAt (s.shxNs * 1000) + (n + 24) * 8000000 / x.rate, growBytes := x.growBytes + (n + 24) }

/-- An answer of connection `c` is sent. -/
def State.answerNow (s : State) (c : Nat) (a : Answer) : State :=
  s.withConn c fun x =>
    let h := s.answerHdr c x a
    match a with
    | .notReady _ plain => (if plain then s.shxPlain x h else s.shxSend x h).shxStat ShxStat.notReadySent
    | _ =>
        if a.paced then
          let (t, f) := s.connFrame x h
          ((t.shxOut x.port f).tickFree).putConn c (s.paced (x.told a) f.length)
        else (s.shxSend x h).putConn c (x.told a)

/-- An answer may be sent now: not while the connection is silent after a NOT_READY, in a hold of U16 none but a NOT_READY, and
a paced one in its turn once its pace and the pool allow it (R395, R401, R414, R420). -/
def State.mayAnswer (s : State) (x : Conn) (a : Answer) : Bool :=
  x.quiet.isNone && (s.ready 16 || (match a with | .notReady .. => true | _ => false)) &&
    (!a.paced || (s.inPace x && !(x.out.any Answer.paced) &&
      decide (cellsOf ((match a with | .readResp _ d => d.length | _ => 0) + 160) ≤ s.poolFree)))

/-- Connection `c` answers: now, or when it may. -/
def State.say (s : State) (c : Nat) (a : Answer) : State :=
  s.withConn c fun x => if s.mayAnswer x a then s.answerNow c a else s.putConn c { x with out := x.out ++ [a] }

/-- Answers that need not wait any more are sent; those that are paced follow by themselves (R395, R414, R420). -/
def State.sayOn (s : State) (c : Nat) : State :=
  s.withConn c fun x =>
    if x.quiet.isSome || !s.ready 16 then s
    else (x.out.filter fun a => !a.paced).foldl (fun (s : State) a => s.answerNow c a) (s.putConn c { x with out := x.out.filter Answer.paced })

/-- An ACK (R405). -/
def State.sendAck (s : State) (c : Nat) (late : Bool) : State := s.say c (.ack late)

/-- A NAK with PSN = EXPECTED. -/
def State.sendNak (s : State) (c code : Nat) : State := s.withConn c fun x => s.say c (.nak code x.expected)

/-- A NOT_READY for PSN `psn` (R394). -/
def State.sendNotReady (s : State) (c psn : Nat) (plain : Bool := false) : State := s.say c (.notReady psn plain)

/-- A HELLO (R387). -/
def State.sendHello (s : State) (c : Nat) (move reply : Bool) : State := s.say c (.hello move reply)

/-- RTO in ns. -/
def State.rtoNs (s : State) : Nat := s.act ShxRetx.adr ShxRetx.rto * 1000

/-- A RESYNC answers a packet for a connection without a usable context (R392): at most one per connection number and
RTO.  It goes back to where the packet came from. The peer's connection number, and the source port where there is no
context, are known from no field of the packet: free values. -/
def State.sendResync (s : State) (c code : Nat) (path : ShPath) (h : ShHdr) : State :=
  let again := match sfind s.shx.resync c with | some t => decide (t + s.rtoNs ≤ s.shxNs) | none => true
  if !again then s
  else
    let s1 : State := { s with shx := { s.shx with resync := sins s.shx.resync c s.shxNs } }
    match s.conn c with
    | some x => s1.shxSend x { x.hdr opRESYNC h.psn with code := code, epoch := h.epoch, ver := h.ver }
    | none =>
        let r : ShHdr := { h with op := opRESYNC, flags := 0, conn := s.free % 2 ^ 24, code := code, marks := 0, key := 0, addr := 0
                                  len := 0, time := 0, payload := [], icv := [] }
        (s1.shxOut path.port (s.shxFrame { path with sport := s.free / 2 ^ 24 % 65536 } r.bytes)).tickFree

/-! ## Send rings (R399–R402, with R358–R367) -/

/-- The head record of a send ring. -/
def State.connRecord (s : State) (c : Nat) : State :=
  s.withConn c fun x =>
    match s.connVia x with
    | none => s
    | some (f, p) =>
        let b := leBytes 2 x.head ++ leBytes 1 x.rstate ++ leBytes 1 (if x.rstate < 2 then 0 else x.rerror) ++ leBytes 2 x.rindex
          ++ [0, 0] ++ leBytes 4 (stampOf (s.shadowNs .shx)).toNat ++ [0, 0, 0, 0]
        let s1 := (s.dmaWriteBy (some (.conn c)) f p x.headBase b).putConn c { x with q := { x.q with unreported := 0 } }
        (if x.irqEn then s1.msix f x.vector else s1).tickFree

/-- A send ring stops in HALTED or ERROR (R365): what is fetched or not sent yet is given up. -/
def State.connStop (s : State) (c st reason idx : Nat) : State :=
  (s.modConn c fun x =>
    { x with rstate := st, rerror := reason, rindex := idx, q := { x.q with asked := [], drain := none }, work := [], ents := []
             pkts := x.pkts.filter fun p => p.psn.isSome }).connRecord c

/-- A RUNNING send ring enters ERROR. -/
def State.connError (s : State) (c reason idx : Nat) : State :=
  s.withConn c fun x => if x.rstate = qsRUNNING then s.connStop c qsERROR reason idx else s

/-- A RUNNING send ring enters HALTED. -/
def State.connHalt (s : State) (c reason : Nat) : State :=
  s.withConn c fun x => if x.rstate = qsRUNNING then s.connStop c qsHALTED reason x.head else s

/-- The ring presents a request: while its function may not issue one, it halts (R337). -/
def State.connPresent (s : State) (c : Nat) (go : State → State) : State :=
  s.withConn c fun x =>
    match s.connVia x with
    | some (f, _) => if s.issues f then go s else s.connHalt c (s.cutReason f)
    | none => s

/-- Entries that the next descriptor read asks for (R362). -/
def State.connAskCount (s : State) (x : Conn) : Nat :=
  let f := match s.connVia x with | some (f, _) => f | none => 3
  min (qDist x.ringM x.q.next x.tail) (min (s.readLimit f / 64) (x.ringN - x.q.next % x.ringN))

/-- One descriptor read. -/
def State.connAsk (s : State) (c : Nat) : State :=
  s.withConn c fun x =>
    let n := s.connAskCount x
    if 4 ≤ x.q.asked.length ∨ n = 0 then s
    else match s.connVia x with
      | some (f, p) =>
          (s.dmaRead f p (x.ringBase + 64 * (x.q.next % x.ringN)) (64 * n) (.conn c)).putConn c
            { x with q := { x.q with next := (x.q.next + n) % x.ringM, asked := x.q.asked ++ [(x.q.next, n)] } }
      | none => s

/-- The ring fetches while its connection is OPEN and cached; while its function may not issue a request, it halts
(R337, R399, R420). -/
def State.connFetch (s : State) (c : Nat) : State :=
  s.withConn c fun x =>
    if x.rstate = qsRUNNING ∧ x.state = csOPEN ∧ x.q.drain = none ∧ !s.connFrozen x ∧ s.ready 16 ∧ s.shx.cache.contains c
        ∧ 0 < s.connAskCount x then
      s.connPresent c fun s => (((s.connAsk c).connAsk c).connAsk c).connAsk c
    else s

/-- The oldest entry is done (R402): its packets have left, or for READ and FLUSH have been answered. -/
def Conn.entDone (x : Conn) (e : SendEnt) : Bool :=
  !(x.work.any fun w => w.pkt.tag == e.tag) &&
    !(x.pkts.any fun p => p.tag == e.tag && (p.psn.isNone || e.op == 2 || e.op == 3))

/-- Entries that are done leave the ring in order, and head records fall due (R363, R402). -/
def State.connReport (s : State) (c : Nat) : Nat → State
  | 0 => s
  | fuel + 1 =>
      s.withConn c fun x =>
        match x.ents with
        | [] => s
        | e :: es =>
            if x.entDone e then
              let s1 := s.putConn c { x with ents := es, head := (x.head + 1) % x.ringM, q := { x.q with unreported := x.q.unreported + 1 } }
              let s2 := if e.report || decide (x.count ≤ x.q.unreported + 1) then s1.connPresent c fun s => s.connRecord c else s1
              s2.connReport c fuel
            else s

/-- Reports the entries of connection `c` that are done, and fetches on. -/
def State.connDone (s : State) (c : Nat) : State :=
  s.withConn c fun x => (s.connReport c x.ents.length).connFetch c

/-! ## Sending (R401, R404, R406, R414) -/

/-- READ_REQ packets outstanding. -/
def Conn.readsOut (x : Conn) : Nat := (x.pkts.filter fun p => p.op == opREAD_REQ && p.psn.isSome).length
def State.readsOut (s : State) : Nat := (s.shx.conns.map fun (_, x) => x.readsOut).sum

/-- A packet that has been sent is outstanding: it is not acknowledged, or it is a READ_REQ that is not answered (R401, R406). -/
def Pkt.owing (k : Pkt) : Bool := k.psn.isSome && (!k.acked || k.op == opREAD_REQ)

/-- The packet to resend while the connection goes back. -/
def Conn.resend (x : Conn) : Option Pkt :=
  match x.cursor with
  | none => none
  | some p => x.pkts.find? fun k => k.owing && (match k.psn with | some n => psnReached p n | none => false)

/-- The PSN of the first packet that is outstanding, and of the first READ_REQ that is. -/
def Conn.oldest (x : Conn) : Nat := ((x.pkts.find? fun k => k.owing).bind fun k => k.psn).getD x.sendPsn
def Conn.firstRead (x : Conn) : Option Nat := (x.pkts.find? fun k => k.owing && k.op == opREAD_REQ).bind fun k => k.psn

/-- The next packet that has not been sent. -/
def Conn.unsent (x : Conn) : Option Pkt := x.pkts.find? fun k => k.psn.isNone

/-- A new packet may be sent: window, reads outstanding, freeze (R401, R404, R416). -/
def State.mayStart (s : State) (x : Conn) (k : Pkt) : Bool :=
  decide (psnDist x.unack x.sendPsn < x.window) && !s.connFrozen x &&
    (k.op != opREAD_REQ || (decide (x.readsOut < 64) && decide (s.readsOut < 16384)))

/-- The packet that is sent next, and whether it is a retransmission. -/
def State.nextPkt (s : State) (x : Conn) : Option (Pkt × Bool) :=
  match x.resend with
  | some k => some (k, true)
  | none => match x.unsent with
    | some k => if s.mayStart x k then some (k, false) else none
    | none => none

/-- The header of a packet. -/
def Conn.pktHdr (x : Conn) (k : Pkt) (psn : Nat) (retry : Bool) : ShHdr :=
  { x.hdr k.op psn with
    flags := (if k.last || k.op == opTIMED_WRITE then 3 else 0) + 4 * b2n retry, key := k.key, addr := k.addr, len := k.len
    time := k.time, payload := k.data }

/-- The first element that `p` picks is replaced. -/
def modFirst {α : Type} (p : α → Bool) (f : α → α) : List α → List α
  | [] => []
  | x :: xs => if p x then f x :: xs else x :: modFirst p f xs

/-- A packet leaves: PSN, pace and timer follow (R404, R406, R414). -/
def State.sendPkt (s : State) (c : Nat) (x : Conn) (k : Pkt) (retry : Bool) : State :=
  let psn := k.psn.getD x.sendPsn
  let (t, f) := s.connFrame x (x.pktHdr k psn retry)
  let y : Conn := { s.paced x f.length with rtoAt := some (x.rtoAt.getD (s.shxNs + x.rto * 1000)) }
  let z : Conn := if retry then { y with cursor := some ((psn + 1) % 2 ^ 24) }
    else { y with cursor := none, sendPsn := (x.sendPsn + 1) % 2 ^ 24
                  pkts := modFirst (fun k => k.psn.isNone) (fun k => { k with psn := some psn }) x.pkts }
  (((t.shxOut x.port f).putConn c z).tickFree).connDone c

/-- Cells for the payload copy of a packet are free (R401). -/
def State.copyRoom (s : State) (n : Nat) : Bool :=
  let k := (n + 255) / 256
  decide (s.copyCells + k ≤ s.act ShxRetxCells.adr ShxRetxCells.cells) && decide (k ≤ s.poolFree)

/-- Packets of U05 and U17, whose data has come with them, enter their connection in order while there is room for their copies;
the others wait (R401, R413, R430). -/
def State.connFill (s : State) (c : Nat) : Nat → State
  | 0 => s
  | fuel + 1 =>
      s.withConn c fun x =>
        match x.work with
        | w :: ws =>
            if x.kind ≠ ckRING ∧ s.copyRoom w.pkt.data.length then
              (s.putConn c { x with work := ws, pkts := x.pkts ++ [w.pkt] }).connFill c fuel
            else s
        | [] => s

/-- Packets go to connection `c`, of KIND EXPORT or STORAGE. -/
def State.toConn (s : State) (c : Nat) (l : List Pkt) : State :=
  s.withConn c fun x =>
    let y : Conn := { x with work := x.work ++ l.map fun k => ⟨0, k⟩ }
    (s.putConn c y).connFill c y.work.length

/-- A paced packet of connection `c` is sent when its rate, its window and the pool allow it: an answer that waits, and before
new packets those sent again (R401, R414). -/
def State.pace (s0 : State) (c : Nat) : State :=
  let s := s0.withConn c fun x => s0.connFill c x.work.length
  s.withConn c fun x =>
    match x.out.find? Answer.paced with
    | some a =>
        let y : Conn := { x with out := dropFirst a x.out }
        if s.mayAnswer { y with out := [] } a then (s.putConn c y).answerNow c a else s
    | none =>
        if x.state = csOPEN ∧ x.hellos = 0 ∧ s.ready 16 ∧ x.pause = none ∧ x.quiet = none ∧ s.inPace x then
          match s.nextPkt x with
          | some (k, retry) => if cellsOf (k.len + 160) ≤ s.poolFree then s.sendPkt c x k retry else s
          | none => s
        else s

/-! ## Acknowledgement and congestion (R405, R406, R414) -/

/-- A packet is completed by an acknowledgement of everything up to PSN `p`. -/
def Pkt.ackedBy (k : Pkt) (p : Nat) : Bool := match k.psn with | some n => psnReached n p | none => false

/-- PSN lies in UNACK_PSN to SEND_PSN − 1 (R405). -/
def Conn.inFlight (x : Conn) (p : Nat) : Bool := decide (psnDist x.unack p < psnDist x.unack x.sendPsn)

/-- Packet `p` waits for its answer, acknowledged as it may be. -/
def Conn.waitsFor (x : Conn) (p : Nat) : Bool := x.pkts.any fun k => k.psn == some p

/-- Every packet up to `p` is acknowledged: writes are complete, and a FLUSH and a READ_REQ wait for their answers (R405; log 80).
The number newly acknowledged is returned. -/
def Conn.ack (x : Conn) (p : Nat) : Conn × Nat :=
  let hit (k : Pkt) : Bool := k.ackedBy p && !k.acked
  let n := (x.pkts.filter hit).length
  let keep := x.pkts.filter fun k => !(hit k && k.op != opFLUSH && k.op != opREAD_REQ)
  ({ x with pkts := keep.map fun k => if hit k then { k with acked := true } else k }, n)

/-- The packet with PSN `p` is answered. -/
def Conn.answered (x : Conn) (p : Nat) : Conn := { x with pkts := x.pkts.filter fun k => k.psn != some p }

/-- Packets outstanding that the retransmission timer watches. -/
def Conn.outstanding (x : Conn) : Bool := x.pkts.any fun k => k.owing

/-- The timer after an acknowledgement (R406). -/
def State.restart (s : State) (x : Conn) (progress : Bool) : Conn :=
  let rto := if progress then s.act ShxRetx.adr ShxRetx.rto else x.rto
  { x with rto := rto, tries := if progress then 0 else x.tries
           rtoAt := if x.outstanding && x.pause.isNone then some (s.shxNs + rto * 1000) else none }

/-- The rate of a connection's port at its breakout, in Mb/s. -/
def State.connPortRate (s : State) (x : Conn) : Nat := s.portRate x.port

/-- Estimate and cut (R414) on an answer that acknowledges `n` packets and carries `m` marks. -/
def State.congest (s : State) (x : Conn) (n m : Nat) : Conn :=
  let d := max 1 n
  let g := 2 ^ s.act ShxCc0.adr ShxCc0.gShift
  let alpha := min 65535 ((x.alpha * d * (g - 1) + 65536 * min m d) / (d * g))
  let y : Conn := { x with alpha := alpha, growMark := x.growMark || decide (0 < m)
                           decayAt := if 0 < m then s.shxNs + s.act ShxCc1.adr ShxCc1.alphaTime * 1000 else x.decayAt }
  if m = 0 then y
  else
    let z : Conn := { y with streak := 0 }
    let due := match x.tCut with | some t => decide (t + s.act ShxCc0.adr ShxCc0.cutGap * 1000 ≤ s.shxNs) | none => true
    if due then
      let cut := x.rate * alpha * s.act ShxCc3.adr ShxCc3.cutGain
      let r := (x.rate * (65536 * 256) - min cut (x.rate * (65536 * 256))) / (65536 * 256)
      { z with rate := max (s.act ShxCc4.adr ShxCc4.minRate) r, tCut := some s.shxNs }
    else z

/-! ## Opening and failing (R389–R391) -/

/-- Commands of U17 whose packets are among these, with the connection. -/
def Conn.lostTags (x : Conn) (c : Nat) (l : List Pkt) : List (Nat × Nat) :=
  if x.kind = ckSTORAGE then l.map fun k => (k.tag, c) else []

/-- The connection goes FAILED (R389): its packets and reads are given up, and its ring goes to ERROR. -/
def State.connFail (s : State) (c reason : Nat) : State :=
  s.withConn c fun x =>
    let y : Conn := { x with state := csFAILED, pkts := [], cursor := none, rtoAt := none, pause := none, todo := [], notices := []
                             accepted := 0, ackFrom := none, gap := none, out := x.out.filter fun a => !a.paced }
    let s1 := (s.putConn c y).shxEvent 5 c reason
    let s2 := s1.connError c reason x.head
    let s3 := s2.modConn c fun x => { x with work := [], ents := [] }
    { s3 with shx := { s3.shx with lost := s3.shx.lost ++ x.lostTags c (x.pkts ++ x.work.map (·.pkt)) } }

/-- The connection goes OPEN (R390, R414). Copies of what was sent under the old numbers are dropped; READ and FLUSH
packets, whose entries are not done, are sent afresh (log 32). -/
def State.connOpen (s : State) (c : Nat) : State :=
  s.withConn c fun x =>
    let gone (k : Pkt) : Bool := k.psn.isSome && (k.op == opWRITE || k.op == opTIMED_WRITE)
    let y : Conn := { x with
      state := csOPEN, hellos := 0, sendPsn := x.startPsn, cursor := none, rtoAt := none, rto := s.act ShxRetx.adr ShxRetx.rto, tries := 0, pause := none
      pkts := (x.pkts.filter fun k => !gone k).map fun k => { k with psn := none, acked := false }
      todo := [], notices := [], accepted := 0, ackFrom := none, marks := 0, gap := none, out := []
      rate := x.initRate, alpha := 65535, streak := 0, tCut := none, growAt := s.shxNs, growBytes := 0, growMark := false
      decayAt := s.shxNs + s.act ShxCc1.adr ShxCc1.alphaTime * 1000, paceAt := 0 }
    let s1 : State := { s with shx := { s.shx with lost := s.shx.lost ++ x.lostTags c (x.pkts.filter gone) } }
    ((s1.putConn c y).shxEvent 4 c 0).connDone c

end Sys2Proof.Machine
end

