-- ==== Sys2Proof/Machine/ShardoOps.lean ====
section
/-!
DEFINITION. What Shardo receives: the checks of an arriving packet, placements and timed writes, FLUSH and READ_REQ, and
the miss buffer (R384, R386, R390–R395, R403–R412).
-/

namespace Sys2Proof.Machine

/-! ## Placements (R403, R408–R411) -/

/-- The sample that 32 bytes spell (R185, R195). -/
def sampleOf (b : List Byte) : Sample := ⟨leAt b 0 8, leAt b 8 8, leAt b 16 4, leAt b 20 2⟩

/-- The sample that master slot `k` holds, as 32 bytes. -/
def State.slotBytes (s : State) (k : Nat) : List Byte :=
  let a := MpiSlot.adr k
  (Sample.mk (s.get a MpiSlot.position) (s.get a MpiSlot.velocity) (s.get a MpiSlot.time) (s.get a MpiSlot.seq)).bytes

/-- Data goes into a region: into a master slot, which takes it of a timed write only (R186), or into host memory under the
region's slice. -/
def State.placeInto (s : State) (i addr : Nat) (data : List Byte) (timed : Bool := true) : State :=
  let r := s.region i
  if r.mpi then s.placeSample (if timed then srREMOTE else srWRITE) (addr / 32) (sampleOf data)
  else if s.bound r.slice then
    s.dmaData (some (.place i)) (s.slicePf r.slice) (some (s.slicePasid r.slice)) ((r.base + addr) % 2 ^ 64) data
  else s

/-- Puts a held write in its place: by time, later arrivals after earlier ones (R411). -/
def insertHeld (h : HeldWrite) : List HeldWrite → List HeldWrite
  | [] => [h]
  | x :: xs => if x.due ≤ h.due then x :: insertHeld h xs else h :: x :: xs

/-- The held writes are `l` now. -/
def State.setHeld (s : State) (l : List HeldWrite) : State :=
  ({ s with shx := { s.shx with held := l } } : State).set ShxTwUsed.adr ShxTwUsed.slots l.length

/-- Slots of the timed-write buffer. -/
def heldSlots : Nat := 8192

/-- A write of a connection is placed, and is the last write that a FLUSH reads back when it went to the host (R407). -/
def State.connPlace (s : State) (c i addr : Nat) (data : List Byte) (timed : Bool := true) : State :=
  (s.placeInto i addr data timed).modConn c fun x =>
    let r := s.region i
    if r.mpi then x else { x with lastWrite := some (r.slice, (r.base + addr + data.length - 1) % 2 ^ 64) }

/-! ## FLUSH and READ_REQ (R407, R408, R439) -/

/-- The device is a block target for FLUSHes of a connection (R439). -/
def State.blockTarget (s : State) (x : Conn) : Bool :=
  x.kind == ckSTORAGE && s.scale == 4 && s.actB NvfTarget.adr NvfTarget.enable

/-- Notices of the target ring that are not done, and its size. -/
def State.targetN (s : State) : Nat := 2 ^ s.act NvfTarget.adr NvfTarget.sizeLog2
def State.targetFull (s : State) : Bool :=
  decide (s.targetN ≤ qDist (2 * s.targetN) (s.get NvfTarget.adr NvfTarget.done) (s.get NvfTarget.adr NvfTarget.head))

/-- The 16 B notice of a FLUSH (R439). -/
def State.targetNotice (s : State) (c psn : Nat) : State :=
  let h := s.get NvfTarget.adr NvfTarget.head
  let b := leBytes 4 c ++ leBytes 4 psn ++ leBytes 4 (stampOf (s.shadowNs .shx)).toNat ++ [0, 0, 0, 0]
  let s1 := s.dmaWrite 2 none (s.act NvfTarget.adr NvfTarget.address * 64 + 16 * (h % s.targetN)) b
  let h1 := (h + 1) % (2 * s.targetN)
  ((s1.set NvfTarget.adr NvfTarget.head h1).modConn c fun x => { x with notices := x.notices ++ [(h1, psn)] }).tickFree

/-- FLUSH_ACK (R407). -/
def State.sendFlushAck (s : State) (c psn : Nat) : State := s.say c (.flushAck psn)

/-- READ_RESP (R408), of as many bytes as a packet of this end may carry (R383; DESIGN CHOICE, log 122). -/
def State.sendReadResp (s : State) (c psn : Nat) (data : List Byte) : State :=
  s.withConn c fun x => s.say c (.readResp psn (data.take (s.payloadLimit x)))

/-- The first of a connection's accepted FLUSHes and READ_REQs goes on, as far as it can; the others follow it in
order (R407, R408). -/
def State.runTodo (s : State) (c : Nat) : Nat → State
  | 0 => s
  | fuel + 1 =>
      s.withConn c fun x =>
        match x.todo with
        | [] => s
        | t :: ts =>
            let next (s : State) : State := (s.modConn c fun x => { x with todo := ts }).runTodo c fuel
            let issue (k addr len : Nat) : State :=
              if s.bound k && s.issues (s.slicePf k) then
                (s.dmaRead (s.slicePf k) (some (s.slicePasid k)) addr len (.remote c)).modConn c fun x =>
                  { x with todo := { t with issued := true } :: ts, lastWrite := if t.flush then none else x.lastWrite }
              else s
            if t.issued || t.waits.any fun w => s.shx.held.any fun h => h.id == w then s
            else if t.flush then
              match x.lastWrite with
              | some (k, last) => issue k (last / 4 * 4) 4
              | none =>
                  if s.blockTarget x then (if s.targetFull then s else next (s.targetNotice c t.psn))
                  else next (s.sendFlushAck c t.psn)
            else if (s.region t.region).mpi then next (s.sendReadResp c t.psn (s.slotBytes (t.addr / 32)))
            else issue (s.region t.region).slice ((s.region t.region).base + t.addr) t.len

/-- Runs a connection's accepted FLUSHes and READ_REQs. -/
def State.todo (s : State) (c : Nat) : State := s.withConn c fun x => s.runTodo c (x.todo.length + 1)

/-- A READ_REQ or FLUSH is accepted. -/
def State.addTodo (s : State) (c : Nat) (h : ShHdr) : State :=
  let t : Todo :=
    { psn := h.psn, flush := h.op == opFLUSH, waits := (s.shx.held.filter fun w => w.conn == c).map (·.id)
      region := h.key % 2 ^ 24, addr := h.addr, len := h.len, issued := false }
  (s.modConn c fun x => { x with todo := x.todo ++ [t] }).todo c

/-! ## Parsing (R384–R386) -/

/-- The payload bytes that follow the header, by opcode. -/
def ShHdr.dataLen (h : ShHdr) : Nat :=
  if h.op = opWRITE ∨ h.op = opTIMED_WRITE ∨ h.op = opREAD_RESP ∨ h.op = opHELLO then h.len else 0

/-- LENGTH is one that the opcode allows (R386). -/
def ShHdr.lenOk (h : ShHdr) : Bool :=
  if h.op = opTIMED_WRITE then decide (1 ≤ h.len) && decide (h.len ≤ 256)
  else if h.op = opHELLO then h.len == 16
  else if h.op ≤ opREAD_RESP then decide (1 ≤ h.len) && decide (h.len ≤ 4096)
  else true

/-- CODE is one that the opcode defines (R386). -/
def ShHdr.codeOk (h : ShHdr) : Bool :=
  if h.op = opNAK then [0x01, 0x02, 0x10, 0x11, 0x12, 0x13, 0x14].contains h.code
  else if h.op = opRESYNC then h.code == 1 || h.code == 2
  else if h.op = opNOT_READY then h.code != 0
  else true

/-- Packets that carry a key. -/
def ShHdr.keyed (h : ShHdr) : Bool := h.op == opWRITE || h.op == opREAD_REQ || h.op == opTIMED_WRITE

/-- Requests (R403). -/
def ShHdr.request (h : ShHdr) : Bool := h.keyed || h.op == opFLUSH

/-- The AUTH flag. -/
def ShHdr.authed (h : ShHdr) : Bool := bit h.flags 4

/-- A Shardo header at the start of a UDP payload; none where it fails R385 or R386. -/
def parseSh (b : List Byte) : Option ShHdr :=
  let h0 : ShHdr :=
    { ver := beAt b 0 1 / 16, op := beAt b 0 1 % 16, flags := beAt b 1 1, conn := beAt b 2 3, epoch := beAt b 5 1, psn := beAt b 6 3
      code := beAt b 9 1, marks := beAt b 10 2, key := beAt b 12 4, addr := beAt b 16 8, len := beAt b 24 2, time := beAt b 28 4
      payload := [], icv := [] }
  let n := h0.dataLen
  if b.length = 32 + n + (if h0.authed then 16 else 0) ∧ 1 ≤ h0.ver ∧ h0.ver ≤ 2 ∧ h0.op ≤ opNOT_READY ∧ h0.flags / 32 = 0
      ∧ h0.conn / 2 ^ 20 = 0 ∧ (h0.keyed = false ∨ bits h0.key 23 20 = 0) ∧ beAt b 26 2 = 0 ∧ h0.lenOk ∧ h0.codeOk then
    some { h0 with payload := slice b 32 n, icv := b.drop (32 + n) }
  else none

/-- The packet that a steered frame carries, with its IP header; none where R384 discards it before its connection is
known. -/
def State.shxParse (s : State) (f : PFrame) : Option (ShHdr × IpHdr) :=
  let p := s.parseFrame f.role f.input f.bytes
  match p.outer.ip, p.outer.l4 with
  | some ip, some l4 =>
      let u := l4.payload - 8
      let n := beAt f.bytes (u + 4) 2
      let ck := beAt f.bytes (u + 6) 2
      let udp := slice f.bytes u n
      let sum := fold16 (onesSum (ip.sa ++ ip.da ++ beBytes 4 n ++ [0, 0, 0, 17] ++ udp))
      if ip.da ≠ s.localIp ip.v6 ∨ (ck ≠ 0 ∧ sum ≠ 0xFFFF) then none
      else (parseSh (udp.drop 8)).map fun h => (h, ip)
  | _, _ => none

/-- The way back to where a frame came from (R392). -/
def backPath (f : PFrame) (ip : IpHdr) : ShPath :=
  { port := inPortOf f.role f.input, tag := none, v6 := ip.v6, dscp := 0, sport := 0, mac := slice f.bytes 6 6, ip := ip.sa }

/-! ## Requests (R403–R405) -/

/-- A connection's packet is discarded as BAD_PACKET. -/
def State.badPacket (s : State) : State := s.shxStat ShxStat.badPacket

/-- A fatal NAK is sent, and the connection fails (R386, R403). -/
def State.fatalNak (s : State) (c code : Nat) : State := ((s.sendNak c code).shxEvent 11 c code).connFail c 0x20

/-- The MARKS of a connection count a packet with Congestion Experienced (R415). -/
def State.countCe (s : State) (c : Nat) (ce : Bool) : State :=
  if ce then s.modConn c fun x => { x with marks := min 65535 (x.marks + 1) } else s

/-- A request is accepted: EXPECTED advances, and an ACK is sent or falls due (R403, R405). -/
def State.accept (s : State) (c : Nat) (h : ShHdr) (ce late : Bool) : State :=
  let s1 := (s.countCe c ce).modConn c fun x =>
    { x with expected := (x.expected + 1) % 2 ^ 24, gap := none, accepted := x.accepted + 1
             ackFrom := some (x.ackFrom.getD s.shxNs) }
  s1.withConn c fun x =>
    if bit h.flags 0 || h.op == opTIMED_WRITE || decide (s.act ShxAck.adr ShxAck.ackCount ≤ x.accepted)
        || (h.op == opFLUSH && s.blockTarget x) then s1.sendAck c late
    else s1

/-- Checks 8 to 10 of R403 on a keyed request: the NAK code of the first that fails. -/
def State.regionBad (s : State) (x : Conn) (h : ShHdr) : Option Nat :=
  let r := s.region (h.key % 2 ^ 24)
  let perm := if h.op = opWRITE then r.write else if h.op = opREAD_REQ then r.read else r.timed
  let mine := if x.kind = ckRING then !r.lead && r.slice == x.slice else r.lead
  let fits := if r.mpi then h.len == 32 && h.addr % 32 == 0 && decide (h.addr + 32 ≤ 512) else decide (h.addr + h.len ≤ r.length)
  if !(r.valid && h.key / 2 ^ 24 == r.gen) then some 0x10
  else if !(perm && mine) then some 0x11
  else if !fits then some 0x12
  else none

/-- A TIMED_WRITE that has passed checks 1 to 10 (R409, R410). -/
def State.timedWrite (s : State) (c : Nat) (h : ShHdr) (ce : Bool) : State :=
  let i := h.key % 2 ^ 24
  let now := s.shadowNs .shx
  let d := toSigned 32 ((h.time + 2 ^ 32 - (stampOf now).toNat) % 2 ^ 32)
  if (s.act ShxTw.adr ShxTw.horizon * 1000000 : Nat) < d then s.fatalNak c 0x13
  else if d ≤ 0 then
    (((s.connPlace c i h.addr h.payload).shxStat ShxStat.twLate).shxEvent 9 c 0).tickFree.accept c h ce true
  else if heldSlots ≤ s.shx.held.length then (s.sendNak c 0x02).shxEvent 8 c 0x02
  else
    let w : HeldWrite := { id := s.shx.nextHeld, conn := c, region := i, due := (now : Int) + d, addr := h.addr, data := h.payload }
    let s1 : State := { s with shx := { s.shx with nextHeld := s.shx.nextHeld + 1 } }
    (s1.setHeld (insertHeld w s.shx.held)).tickFree.accept c h ce false

/-- A request in order (R403, checks 8 to 11). -/
def State.inOrder (s : State) (c : Nat) (x : Conn) (h : ShHdr) (ce : Bool) : State :=
  if h.op = opFLUSH then (s.accept c h ce false).addTodo c h
  else match s.regionBad x h with
    | some code => s.fatalNak c code
    | none =>
        if h.op = opWRITE then (s.connPlace c (h.key % 2 ^ 24) h.addr h.payload false).accept c h ce false
        else if h.op = opREAD_REQ then (s.accept c h ce false).addTodo c h
        else s.timedWrite c h ce

/-- A duplicate is acknowledged again, and a READ_REQ answered again, whatever its region has become meanwhile: check 7 has
decided it (R403, R404). -/
def State.duplicate (s : State) (c : Nat) (h : ShHdr) (ce : Bool) : State :=
  let s1 := (s.shxStat ShxStat.duplicate).countCe c ce
  if h.op = opREAD_REQ then s1.addTodo c h else s1.sendAck c false

/-- Checks 4 to 11 of R403. -/
def State.request (s : State) (c : Nat) (x : Conn) (h : ShHdr) (ce : Bool) : State :=
  if h.epoch ≠ x.epoch then s.shxStat ShxStat.staleEpoch
  else if x.state ≠ csOPEN then s
  else if h.op = opTIMED_WRITE ∧ x.version = 1 then s.fatalNak c 0x14
  else if s.connFrozen x || s.ustate 16 == stHELD then s.sendNotReady c h.psn
  else
    let d := psnDist x.expected h.psn
    if d = 0 then s.inOrder c x h ce
    else if 2 ^ 24 - 2 ^ 22 ≤ d then s.duplicate c h ce
    else if d < 2 ^ 22 then
      let again := match x.gap with | some t => decide (t + s.rtoNs ≤ s.shxNs) | none => true
      if again then (s.sendNak c 0x01).modConn c fun x => { x with gap := some s.shxNs } else s
    else s.badPacket

/-! ## Answers and HELLO (R389–R391, R395, R402, R405, R406) -/

/-- An answer acknowledges everything up to `p` and carries `m` marks. -/
def State.takeAck (s : State) (c p m : Nat) : State :=
  s.withConn c fun x =>
    let (y, n) := x.ack p
    s.putConn c (s.restart (s.congest y n m) (decide (0 < n)))

/-- A move's HELLO acknowledges everything before `p`; it carries no marks and leaves the estimate as it is (R391, R414). -/
def State.takeExpected (s : State) (c p : Nat) : State :=
  s.withConn c fun x =>
    let (y, n) := x.ack ((p + 2 ^ 24 - 1) % 2 ^ 24)
    s.putConn c (s.restart y (decide (0 < n)))

/-- Data goes to the buffers of a list, for whoever asked for it. -/
def State.scatter (s : State) (r : Reader) (v : Option (Nat × Option Nat)) : List (Nat × Nat) → List Byte → State
  | [], _ => s
  | (a, n) :: l, d =>
      let s1 := match v with | some (f, p) => s.dmaData (some r) f p a (d.take n) | none => s
      s1.scatter r v l (d.drop n)

/-- READ_RESP: the payload is placed, and everything earlier is acknowledged. -/
def State.readResp (s : State) (c : Nat) (x : Conn) (h : ShHdr) : State :=
  match x.pkts.find? fun k => k.psn == some h.psn && k.op == opREAD_REQ with
  | none => s
  | some k =>
      if k.len ≠ h.len then s
      else
        let (y, _) := x.ack h.psn
        let t := ((s.scatter (.conn c) k.via k.dest h.payload).putConn c (s.restart (y.answered h.psn) true)).connDone c
        match k.via with
        | some (f, _) => if s.issues f then t else t.connHalt c (s.cutReason f)
        | none => t

/-- The connection goes back to PSN `p` (R406); a pause goes on. -/
def State.goBack (s : State) (c p : Nat) : State :=
  s.modConn c fun x => s.restart { x with cursor := some (p % 2 ^ 24) } false

/-- The connection pauses for `us` microseconds and then goes back to PSN `p`; its timer does not run meanwhile. After a
NOT_READY it sends nothing at all until then (R395). -/
def State.pauseFor (s : State) (c us p : Nat) (full : Bool) : State :=
  s.modConn c fun x =>
    let t := s.shxNs + us * 1000
    { x with pause := some (t, p, full), rtoAt := none, quiet := if full then x.quiet else some t }

/-- An answer of an OPEN connection with its epoch. -/
def State.answer (s : State) (c : Nat) (x : Conn) (h : ShHdr) : State :=
  if h.op = opRESYNC then s.connFail c 0x22
  else if !(x.inFlight h.psn || ((h.op == opREAD_RESP || h.op == opFLUSH_ACK) && x.waitsFor h.psn)) then s
  else if h.op = opREAD_RESP then s.readResp c x h
  else if h.op = opACK then (s.takeAck c h.psn h.marks).connDone c
  else if h.op = opFLUSH_ACK then
    ((s.takeAck c h.psn h.marks).modConn c fun y => s.restart (y.answered h.psn) true).connDone c
  else if h.op = opNOT_READY then s.pauseFor c h.code h.psn false
  else
    let s1 := (s.takeAck c ((h.psn + 2 ^ 24 - 1) % 2 ^ 24) h.marks).connDone c
    if 0x10 ≤ h.code then s1.connFail c 0x20
    else if h.code = 2 then s1.pauseFor c (s.act ShxTw.adr ShxTw.retry) h.psn true
    else s1.goBack c h.psn

/-- Epoch `e` is older than `f` (R391). -/
def olderEpoch (e f : Nat) : Bool := let d := (f + 256 - e % 256) % 256; decide (1 ≤ d) && decide (d ≤ 127)

/-- A HELLO (R390, R391); the mover's reads are sent again from the first that is not answered (R417). -/
def State.hello (s : State) (c : Nat) (x : Conn) (h : ShHdr) (f : PFrame) (ip : IpHdr) : State :=
  let p := h.payload
  let move := bit (beAt p 1 1) 1
  let reply := bit (beAt p 1 1) 0
  let node := beAt p 4 4 % 2 ^ 18
  let rc := beAt p 8 4 % 2 ^ 24
  let peer := node == x.remoteNode && rc == x.remoteConn
  let exp := beAt p 12 4 % 2 ^ 24
  if olderEpoch h.epoch x.epoch then s.shxStat ShxStat.staleEpoch
  else if move && !reply then
    if x.state = csOPEN ∧ x.version = 2 ∧ h.epoch = (x.epoch + 1) % 256 then
      let c1 := patch (patch x.ctx 4 (leBytes 4 node ++ leBytes 4 rc)) 32 (ip.sa ++ List.replicate (16 - ip.sa.length) 0 ++ slice f.bytes 6 6)
      let s1 := s.modConn c fun x => { x with ctx := c1, epoch := h.epoch }
      ((((s1.takeExpected c exp).goBack c exp).sendHello c true true).shxEvent 6 c 0).connDone c
    else s.badPacket
  else if move then
    if x.state = csOPEN && peer && h.epoch == x.epoch then
      let s1 := (s.modConn c fun x => { x with hellos := 0 }).takeExpected c exp
      (s1.withConn c fun y => s1.goBack c (y.firstRead.getD exp)).connDone c
    else s.badPacket
  else if !(peer && (x.state == csCLOSED || x.state == csCONNECTING || x.state == csOPEN)) then s.badPacket
  else
    let v := min (beAt p 0 1 / 16) (s.act ShxCtrl.adr ShxCtrl.versionMax)
    if v < max 1 (beAt p 0 1 % 16) then s.connFail c 0x23
    else
      let s1 := (s.modConn c fun x => { x with version := v, epoch := h.epoch, expected := h.psn }).connOpen c
      if reply then s1 else s1.sendHello c false true

/-! ## An arriving packet -/

/-- The check value of a packet is good, or its connection carries none (R384, R460, R461). -/
def State.authOk (s : State) (x : Conn) (h : ShHdr) : Bool :=
  if x.auth then h.authed && s.connKeyOk x && aesCmac (s.keyOf (s.connSlot x)) (({ h with icv := [] } : ShHdr).bytes ++ h.payload) == h.icv
  else !h.authed

/-- A packet whose context has been looked up (R403): its key is read for its check value, its version is held to the one in
force once there is one, and what it asks for follows. -/
def State.shxLookedUp (s0 : State) (f : PFrame) (h : ShHdr) (ip : IpHdr) (c : Nat) (x : Conn) : State :=
  let s := if h.authed && x.auth then s0.keyMet (s0.connSlot x) else s0
  if !s.authOk x h then
    let s1 := s.badPacket
    if h.authed && x.auth then s1.igeEvent 7 (s.connSlot x) else s1
  else if h.op = opHELLO then s.hello c x h f ip
  else if x.state = csOPEN ∧ h.ver ≠ x.version then s.badPacket
  else if h.request then s.request c x h (ip.ecn == 3)
  else if h.epoch ≠ x.epoch then s.shxStat ShxStat.staleEpoch
  else if x.state = csOPEN then s.answer c x h
  else s

/-- The miss buffer holds `l` now. -/
def State.setParked (s : State) (l : List (Nat × Option Nat × PFrame)) : State :=
  ({ s with shx := { s.shx with parked := l } } : State).set ShxMiss.adr ShxMiss.used l.length

/-- A packet meets its context and region entry: looked up at once, or parked while one is fetched (R393, R394), which a request
in a hold is not (R420). A packet for a FAILED connection has no key (R461). -/
def State.shxArrive (s : State) (f : PFrame) (h : ShHdr) (ip : IpHdr) (again : Bool) : State :=
  let c := h.conn
  let i := h.key % 2 ^ 24
  match s.conn c with
  | none =>
      if h.request then s.sendResync c 1 (backPath f ip) h else if h.op = opHELLO then s.badPacket else s
  | some x =>
      if x.state = csFAILED then
        (if h.request then s.sendResync c 2 (backPath f ip) h
        else if h.op = opHELLO then s.hello c x h f ip
        else if h.epoch ≠ x.epoch then s.shxStat ShxStat.staleEpoch
        else s)
      else
        let miss := h.keyed && !s.shx.rcache.contains i
        let waits := !again && s.shx.parked.any fun p => p.1 == c
        if s.shx.cache.contains c && !miss && !waits then
          let s1 := s.ctxTouch c
          (if h.keyed then s1.regionTouch i else s1).shxLookedUp f h ip c x
        else if h.request && s.ustate 16 == stHELD then s.sendNotReady c h.psn true
        else if missSize ≤ s.shx.parked.length then (s.sendNotReady c h.psn true).shxEvent 7 c 0
        else
          let s1 := s.setParked (s.shx.parked ++ [(c, if h.keyed then some i else none, f)])
          let s2 := s1.ctxAsk c
          if miss then s2.regionAsk i else s2

/-- The first parked packet that can go on: its context and region entry are cached, and no packet of its connection
stands before it. -/
def State.unparked (s : State) (seen : List Nat) : List (Nat × Option Nat × PFrame) → Option PFrame
  | [] => none
  | (c, i, f) :: l =>
      if !seen.contains c && s.shx.cache.contains c && (match i with | some r => s.shx.rcache.contains r | none => true) then some f
      else s.unparked (c :: seen) l

/-- Parked packets go on in arrival order (R394). -/
def State.unpark (s : State) : Nat → State
  | 0 => s
  | fuel + 1 =>
      match s.unparked [] s.shx.parked with
      | none => s
      | some f =>
          let s1 := s.setParked (s.shx.parked.filter fun p => p.2.2.id != f.id)
          (match s1.shxParse f with
            | some (h, ip) => s1.shxArrive f h ip true
            | none => s1.badPacket).unpark fuel

/-- The oldest steered packet whose FCS check has ended. -/
def takeSteered : List PFrame → Option (PFrame × List PFrame)
  | [] => none
  | f :: fs => if f.fcs.isSome then some (f, fs) else (takeSteered fs).map fun (x, ys) => (x, f :: ys)

/-- U16 takes the oldest steered packet when its opcode is `op`.  Packets before it that fail their FCS, or that R384
discards, go first; a packet takes no cells of its input any more. -/
def State.shxTake (s : State) (op : Nat) : Nat → State
  | 0 => s
  | fuel + 1 =>
      match takeSteered s.pp.toShx with
      | none => s
      | some (f, rest) =>
          let s1 := ({ s with pp := { s.pp with toShx := rest } } : State).freeCells (inPortOf f.role f.input) (cellsOf f.bytes.length)
          if f.fcs ≠ some true ∨ !s.shxOn then s1.shxTake op fuel
          else match s.shxParse f with
            | none => s1.badPacket.shxTake op fuel
            | some (h, ip) => if h.op = op then s1.shxArrive f h ip false else s

/-- The front of the steered packets. -/
def State.arrive (s : State) (op : Nat) : State := (s.startClocks [ckSHX]).shxTake op s.pp.toShx.length

end Sys2Proof.Machine
end

