-- ==== Sys2Proof/Machine/NvfOps.lean ====
section
/-!
DEFINITION. The storage front end without its commands: queues, range locks, data pointers, the Shardo operations of a
command, and completion (R424–R438).
-/

namespace Sys2Proof.Machine

/-! ## Status codes (R436); a status type of 1 is written as 256 -/

def nvOK : Nat := 0
def nvINVALID_OPCODE : Nat := 0x01
def nvINVALID_FIELD : Nat := 0x02
def nvDATA_TRANSFER : Nat := 0x04
def nvABORTED : Nat := 0x07
def nvINVALID_NS : Nat := 0x0B
def nvPRP_OFFSET : Nat := 0x13
def nvTRANSPORT : Nat := 0x22
def nvLBA_RANGE : Nat := 0x80
def nvNOT_READY : Nat := 0x82
def nvBAD_CQ : Nat := 0x100
def nvBAD_QID : Nat := 0x101
def nvBAD_SIZE : Nat := 0x102
def nvAER_LIMIT : Nat := 0x105
def nvBAD_VECTOR : Nat := 0x108
def nvBAD_LOG : Nat := 0x109
def nvBAD_DELETE : Nat := 0x10C

/-! ## The controller -/

/-- Changes what U17 holds. -/
def State.modNvf (s : State) (f : Nvf → Nvf) : State := { s with nvf := f s.nvf }

/-- CSTS.RDY and CSTS.CFS. -/
def State.nvReady (s : State) : Bool := bit s.nvf.csts 0
def State.nvFatal (s : State) : Bool := bit s.nvf.csts 1

/-- CSTS.CFS is set (R438). -/
def State.nvFail (s : State) : State := s.modNvf fun v => { v with csts := v.csts ||| 2 }

/-- Events of U17, under their hold-off (R446). -/
def State.nvEvent (s : State) (n detail : Nat) : State :=
  s.raiseHeld (16 * 17 + n) (s.act NvfHoldoff.adr NvfHoldoff.microseconds) 17 n detail

/-- The bound slice that queue `y` belongs to (R427). -/
def State.nvSlice (s : State) (y : Nat) : Option Nat :=
  if y = 0 then none else (s.ownerOf .nvme (y - 1)).filter fun k => s.bound k

/-- The PASID of queue `y`'s traffic (R427). -/
def State.nvPasid (s : State) (y : Nat) : Option Nat := (s.nvSlice y).map s.slicePasid

/-- Queues by number. -/
def State.sq (s : State) (y : Nat) : Option NvSq := sfind s.nvf.sqs y
def State.cq (s : State) (y : Nat) : Option NvCq := sfind s.nvf.cqs y
def State.putSq (s : State) (y : Nat) (q : NvSq) : State := s.modNvf fun v => { v with sqs := sins v.sqs y q }
def State.putCq (s : State) (y : Nat) (q : NvCq) : State := s.modNvf fun v => { v with cqs := sins v.cqs y q }

/-- A completion enters for the outstanding read of `r`, by whichever function; without such a read it is one that no
reader of function `f` waits for. -/
def State.readOver (s : State) (f : Nat) (r : Reader) : State :=
  match s.hif.reads.find? fun x => x.reader == r with | some x => s.readEnds x.fn r | none => s.stray f

/-- Every outstanding read of `r` ends. -/
def State.readsOver (s : State) (r : Reader) : Nat → State
  | 0 => s
  | n + 1 => if s.hif.reads.any fun x => x.reader == r then (s.readOver 2 r).readsOver r n else s

/-! ## Range locks (R433, R434) -/

/-- Range-lock entries. -/
def lockSlots : Nat := 4096

/-- The entries are `l` now. -/
def State.setLocks (s : State) (l : List NvLock) : State :=
  (s.modNvf fun v => { v with locks := l }).set NvfStatus.adr NvfStatus.locks l.length

/-- Command `l` takes a range-lock entry; fetching stops when the table has become full (R434). -/
def State.takeLock (s : State) (l : NvLock) : State :=
  let s1 := (s.modNvf fun v => { v with nextId := l.id + 1 }).setLocks (s.nvf.locks ++ [l])
  if s1.nvf.locks.length = lockSlots then s1.nvEvent 5 0 else s1

/-- The entry of command `i`. -/
def State.lock (s : State) (i : Nat) : Option NvLock := s.nvf.locks.find? fun l => l.id == i

/-- Changes it. -/
def State.modLock (s : State) (i : Nat) (f : NvLock → NvLock) : State :=
  s.modNvf fun v => { v with locks := v.locks.map fun l => if l.id = i then f l else l }

/-- It is freed. -/
def State.freeLock (s : State) (i : Nat) : State := s.setLocks (s.nvf.locks.filter fun l => l.id != i)

/-- Two entries overlap and at least one of them is not a Read. -/
def NvLock.conflicts (a b : NvLock) : Bool :=
  (a.op != 2 || b.op != 2) && a.nss == b.nss && decide (a.lba < b.lba + b.blocks) && decide (b.lba < a.lba + a.blocks)

/-- An entry before that of command `i` conflicts with it. -/
def lockBlocked (x : NvLock) : List NvLock → Bool
  | [] => false
  | l :: ls => if l.id = x.id then false else l.conflicts x || lockBlocked x ls

/-! ## Completion (R430, R436, R437) -/

/-- The completion queue has no room. -/
def NvCq.full (q : NvCq) : Bool := (q.tail + 1) % q.size == q.head

/-- A completion entry is written, its lock is freed, and its vector triggered. DNR is 0 where the spec gives it, and
otherwise a free value (log 4). -/
def State.nvWrite (s : State) (d : NvDone) (q : NvCq) : State :=
  let h := match s.sq d.sq with | some x => x.head | none => 0
  let dnr := if [nvOK, nvNOT_READY, nvTRANSPORT].contains d.status then 0 else s.free % 2
  let e := leBytes 4 d.dw0 ++ [0, 0, 0, 0] ++ leBytes 2 h ++ leBytes 2 d.sq ++ leBytes 2 d.cid
    ++ leBytes 2 (b2n q.phase + 2 * d.status + 32768 * dnr)
  let t := (q.tail + 1) % q.size
  let s0 := if s.issues 2 then s.dmaWriteBy (some (.cq d.cq)) 2 (s.nvPasid d.cq) (q.base + 16 * q.tail) e else s.nvFail
  let s1 := s0.putCq d.cq { q with tail := t, phase := q.phase != (t == 0) }
  let s2 := match d.lock with | some i => s1.freeLock i | none => s1
  (if q.ien then s2.msix 2 q.vector else s2).tickFree

/-- A command completes: its entry is written, or held until its queue has room. -/
def State.nvPost (s : State) (d : NvDone) : State :=
  match s.cq d.cq with
  | none => match d.lock with | some i => s.freeLock i | none => s
  | some q =>
      if q.full || s.nvf.held.any fun x => x.cq == d.cq then
        (s.modNvf fun v => { v with held := v.held ++ [d] }).nvEvent 4 d.cq
      else s.nvWrite d q

/-- The held completions of queue `y` are written while it has room. -/
def State.nvDrain (s : State) (y : Nat) : Nat → State
  | 0 => s
  | fuel + 1 =>
      match s.nvf.held.find? fun d => d.cq == y, s.cq y with
      | some d, some q =>
          if q.full then s
          else ((s.modNvf fun v => { v with held := dropFirst d v.held }).nvWrite d q).nvDrain y fuel
      | _, _ => s

/-- A command without a lock entry completes. -/
def State.nvAnswer (s : State) (y cid status dw0 : Nat) : State :=
  match s.sq y with
  | some q => s.nvPost { cq := q.cq, sq := y, cid := cid, status := status, dw0 := dw0, lock := none }
  | none => s

/-- The command of a lock entry finishes; a record, and a command of a controller that has been reset, completes
nowhere (R438, R442). -/
def State.nvFinish (s : State) (l : NvLock) (status : Nat) : State :=
  match l.sq with
  | none => s.freeLock l.id
  | some y =>
      match s.sq y with
      | none => s.freeLock l.id
      | some q =>
          (s.modLock l.id fun l => { l with phase := .finished }).nvPost
            { cq := q.cq, sq := y, cid := l.cid, status := status, dw0 := 0, lock := some l.id }

/-! ## Operations on the fabric (R429–R432) -/

/-- The operations of a range of blocks: connection, key, address and bytes for each extent, in LBA order. -/
def extentOps (rd : Nat → Word) (lb : Nat) : List Nat → Nat → Nat → List (Nat × Nat × Nat × Nat)
  | [], _, _ => []
  | e :: es, lba, n =>
      let a := NvfExt.adr e
      let m := fieldOf rd a NvfExt.lbas
      if n = 0 then []
      else if m ≤ lba then extentOps rd lb es (lba - m) n
      else
        let k := min n (m - lba)
        (fieldOf rd a NvfExt.conn, fieldOf rd a NvfExt.key, fieldOf rd a NvfExt.remoteAddr + lba * lb, k * lb)
          :: extentOps rd lb es 0 (n - k)

/-- The operations of a command on one namespace. -/
def State.lockOps (s : State) (l : NvLock) : List (Nat × Nat × Nat × Nat) :=
  match l.nss with
  | n :: _ => extentOps s.inForce (lbaSize s.inForce n) (nsExtents s.inForce n) l.lba l.blocks
  | [] => []

/-- The connections of a namespace. -/
def State.nsConns (s : State) (n : Nat) : List Nat :=
  ((nsExtents s.inForce n).map fun e => s.act (NvfExt.adr e) NvfExt.conn).eraseDups

/-- Connection `c` is OPEN. -/
def State.connIsOpen (s : State) (c : Nat) : Bool := match s.conn c with | some x => x.state == csOPEN | none => false

/-- The connections that a command uses: those of its extents, or for a Flush those of its namespaces. -/
def State.lockConns (s : State) (l : NvLock) : List Nat :=
  if l.op = 0 then (l.nss.flatMap s.nsConns).eraseDups else ((s.lockOps l).map (·.1)).eraseDups

/-- The first `n` bytes of a list of buffers, and the rest. -/
def takeBufs : List (Nat × Nat) → Nat → List (Nat × Nat) × List (Nat × Nat)
  | [], _ => ([], [])
  | (a, k) :: l, n =>
      if n = 0 then ([], (a, k) :: l)
      else if k ≤ n then let (x, y) := takeBufs l (n - k); ((a, k) :: x, y)
      else ([(a, n)], (a + n, k - n) :: l)

/-- The packets of one operation: `op` of `n` bytes at `addr`, cut at the payload limit; data and buffers are those that
follow. -/
def opPkts (tag op key lim : Nat) (via : Option (Nat × Option Nat)) : Nat → Nat → Nat → List Byte → List (Nat × Nat) → List Pkt
  | 0, _, _, _, _ => []
  | fuel + 1, addr, n, data, bufs =>
      let k := min n lim
      if k = 0 then []
      else
        let (d, rest) := takeBufs bufs k
        { tag := tag, op := op, key := key, addr := addr, len := k, time := 0, last := decide (n ≤ lim), data := data.take k, dest := d
          via := via, psn := none, acked := false }
          :: opPkts tag op key lim via fuel (addr + k) (n - k) (data.drop k) rest

/-- The operations of a command go to U16, in LBA order. -/
def State.issueOps (s : State) (tag op : Nat) (via : Option (Nat × Option Nat)) :
    List (Nat × Nat × Nat × Nat) → List Byte → List (Nat × Nat) → State
  | [], _, _ => s
  | (c, key, addr, n) :: os, data, bufs =>
      let lim := match s.conn c with | some x => s.payloadLimit x | none => 4096
      let s1 := s.toConn c (opPkts tag op key lim via (n + 1) addr n data bufs)
      s1.issueOps tag op via os (data.drop n) (takeBufs bufs n).2

/-- One FLUSH on each of these connections. -/
def State.issueFlush (s : State) (tag : Nat) (cs : List Nat) : State :=
  let k : Pkt := { tag := tag, op := opFLUSH, key := 0, addr := 0, len := 0, time := 0, last := true, data := [], dest := [], via := none
                   psn := none, acked := false }
  cs.foldl (fun s c => s.toConn c [k]) s

/-- The buffers that PRP pages spell for `n` bytes, the first page from its own offset. -/
def prpBufs : List Nat → Nat → List (Nat × Nat)
  | [], _ => []
  | p :: ps, n => let k := min n (4096 - p % 4096); (p, k) :: (if n ≤ k then [] else prpBufs ps (n - k))

/-- Bytes of a command's transfer. -/
def State.lockBytes (s : State) (l : NvLock) : Nat :=
  match l.nss with | n :: _ => l.blocks * lbaSize s.inForce n | [] => 0

/-- The PASID of a command's traffic. -/
def State.lockPasid (s : State) (l : NvLock) : Option Nat := match l.sq with | some y => s.nvPasid y | none => none

/-- The packets of a Write or Write Zeroes go to U16, where each waits for cells for its copy (R401); a connection that is not
OPEN any more ends the command (R432). -/
def State.nvSend (s : State) (l : NvLock) (data : List Byte) : State :=
  if (s.lockConns l).any fun c => !s.connIsOpen c then s.nvFinish l nvNOT_READY
  else (s.issueOps l.id opWRITE none (s.lockOps l) data []).modLock l.id fun l => { l with phase := .sent }

/-- The pages of a Read or Write are known: its packets are issued, or its data is read. -/
def State.nvPages (s : State) (l : NvLock) (pages : List Nat) : State :=
  let bufs := prpBufs pages (s.lockBytes l)
  if (s.lockConns l).any fun c => !s.connIsOpen c then s.nvFinish l nvNOT_READY
  else if l.op = 2 then
    (s.issueOps l.id opREAD_REQ (some (2, s.lockPasid l)) (s.lockOps l) [] bufs).modLock l.id fun l => { l with phase := .sent }
  else
    (bufs.foldl (fun (s : State) b => s.dmaRead 2 (s.lockPasid l) b.1 b.2 (.nvme l.id)) s).modLock l.id fun l =>
      { l with phase := .data pages }

/-- Entries that the next part of a PRP list holds, of `n` that are needed, with a pointer in the last place when it does
not hold them all: the count to read, and how many of them are pages. -/
def listPart (addr n : Nat) : Nat × Nat :=
  let cap := (4096 - addr % 4096) / 8
  if n ≤ cap then (n, n) else (cap, cap - 1)

/-- A part of the PRP list is read. -/
def State.nvList (s : State) (l : NvLock) (addr need : Nat) (pages : List Nat) : State :=
  if addr % 8 ≠ 0 then s.nvFinish l nvPRP_OFFSET
  else (s.dmaRead 2 (s.lockPasid l) addr (8 * (listPart addr need).1) (.nvme l.id)).modLock l.id fun l => { l with phase := .list addr pages }

/-- Pages after the first that a transfer takes. -/
def State.morePages (s : State) (l : NvLock) : Nat :=
  let n := s.lockBytes l
  let k := 4096 - l.prp1 % 4096
  if n ≤ k then 0 else (n - k + 4095) / 4096

/-- A command has its lock: it is issued as far as it can be (R430, R432, R443). -/
def State.nvGranted (s : State) (l : NvLock) : State :=
  if (s.lockConns l).any fun c => !s.connIsOpen c then s.nvFinish l nvNOT_READY
  else if l.op = 8 then s.nvSend l (List.replicate (s.lockBytes l) 0)
  else if l.prp1 % 4 ≠ 0 then s.nvFinish l nvPRP_OFFSET
  else match s.morePages l with
    | 0 => s.nvPages l [l.prp1]
    | 1 => if l.prp2 % 4096 ≠ 0 then s.nvFinish l nvPRP_OFFSET else s.nvPages l [l.prp1, l.prp2]
    | n => s.nvList l l.prp2 n [l.prp1]

/-- A part of a PRP list has arrived. -/
def State.nvListIn (s : State) (l : NvLock) (addr : Nat) (pages : List Nat) (data : List Byte) : State :=
  let need := s.morePages l + 1 - pages.length
  let (n, k) := listPart addr need
  let es := (List.range n).map fun i => leAt data (8 * i) 8
  if es.any fun e => e % 4096 != 0 then s.nvFinish l nvPRP_OFFSET
  else
    let pages1 := pages ++ es.take k
    if k = n then s.nvPages l pages1 else s.nvList l (es.getD k 0) (need - k) pages1

/-! ## What follows from an answer of the fabric -/

/-- Packets of command `i` that wait for cells, and are not with U16 yet (R401, R435, R442). -/
def State.unhanded (s : State) (i : Nat) : Nat :=
  (s.shx.conns.map fun (_, x) => if x.kind = ckSTORAGE then (x.work.filter fun w => w.pkt.tag == i).length else 0).sum

/-- A packet of command `i` is unanswered, or waits for cells. -/
def State.nvBusy (s : State) (i : Nat) : Bool :=
  decide (0 < s.unhanded i) || s.shx.conns.any fun (_, x) => x.kind == ckSTORAGE && x.pkts.any fun k => k.tag == i

/-- The packets of a command's operations. -/
def State.lockPkts (s : State) (l : NvLock) : Nat :=
  if l.op = 0 then (s.lockConns l).length
  else ((s.lockOps l).map fun (c, _, _, n) =>
    let lim := match s.conn c with | some x => s.payloadLimit x | none => 4096
    (n + lim - 1) / lim).sum

/-- A command has handed no packet to U16 (R435). -/
def State.noneHanded (s : State) (l : NvLock) : Bool :=
  l.phase != .finished && (l.phase != .sent || (!(l.fua && l.flushed) && decide (0 < s.unhanded l.id) && s.unhanded l.id == s.lockPkts l))

/-- An earlier write of a Flush's namespaces has packets that are not with U16 yet (R431). -/
def flushWaits (f : NvLock) : List NvLock → Bool
  | [] => false
  | l :: ls =>
      if l.id = f.id then false
      else ((l.op == 1 || l.op == 8) && l.nss.any f.nss.contains && l.phase != .sent && l.phase != .finished) || flushWaits f ls

/-- Commands whose connection has failed complete (R432). -/
def State.nvLost (s : State) : State :=
  let s1 : State := { s with shx := { s.shx with lost := [] } }
  s.shx.lost.foldl (fun s (i, c) =>
    match s.lock i with
    | some l =>
        if l.phase = .sent then (if l.sq.isSome then (s.nvFinish l nvTRANSPORT).nvEvent 6 c else s.nvFinish l nvTRANSPORT) else s
    | none => s) s1

/-- The operations of a command may be issued: U17 is READY, and its slice is not frozen (R348, R445). -/
def State.nvMayIssue (s : State) (l : NvLock) : Bool :=
  s.ready 17 && (match l.sq with
    | some y => (match s.nvSlice y with | some k => !s.frozen k | none => true)
    | none => true)

/-- One command goes on: a Flush whose writes are with U16 is issued, and one whose packets are all answered completes,
after the FLUSHes of FUA (R430, R431). -/
def State.nvGo (s : State) (i : Nat) : State :=
  match s.lock i with
  | none => s
  | some l =>
      if l.phase = .before then
        (if flushWaits l s.nvf.locks || !s.nvMayIssue l then s
        else if (s.lockConns l).any fun c => !s.connIsOpen c then s.nvFinish l nvNOT_READY
        else (s.issueFlush l.id (s.lockConns l)).modLock l.id fun l => { l with phase := .sent, flushed := true })
      else if l.phase = .sent ∧ !s.nvBusy l.id then
        (if l.fua && !l.flushed then
          (match (s.lockConns l).find? fun c => !s.connIsOpen c with
          | some c => (s.nvFinish l nvTRANSPORT).nvEvent 6 c
          | none =>
          if !s.nvMayIssue l then s
          else (s.issueFlush l.id (s.lockConns l)).modLock l.id fun l => { l with flushed := true })
        else s.nvFinish l nvOK)
      else s

/-- Range-lock entries of slice `k`. -/
def State.sliceLocks (s : State) (k : Nat) : Nat :=
  (s.nvf.locks.filter fun l => match l.sq with | some y => s.nvSlice y == some k | none => false).length

/-- Slice `k` may hold one more entry, or a queue without a slice may (R434). -/
def State.sliceRoom (s : State) (k : Option Nat) : Bool :=
  match k with
  | some k => s.service || decide (s.sliceLocks k < lockSlots / s.slices)
  | none => true

/-- Queue `y` may fetch an entry (R434, R437, R438, R445, R348). -/
def State.nvMayFetch (s : State) (y : Nat) (q : NvSq) : Bool :=
  s.ready 17 && s.nvReady && !s.nvFatal && q.asked != qDist q.size q.head q.tail && decide (s.nvf.locks.length < lockSlots)
    && !(s.nvf.held.any fun d => d.cq == q.cq) && s.sliceRoom (s.nvSlice y)
    && (match s.nvSlice y with | some k => !s.frozen k | none => true)

/-- Up to `n` entries are fetched from queue `y`, one read for each; while PF2 may not issue requests, the controller fails
(R337, R438). -/
def State.nvFetch (s : State) (y : Nat) : Nat → State
  | 0 => s
  | fuel + 1 =>
      match s.sq y with
      | none => s
      | some q =>
          if !s.nvMayFetch y q then s
          else if !s.issues 2 then s.nvFail
          else
            let s1 := s.dmaRead 2 (s.nvPasid y) (q.base + 64 * ((q.head + q.asked) % q.size)) 64 (.sq y)
            let s2 := s1.putSq y { q with asked := q.asked + 1 }
            (if y = 0 then s2 else s2.modNvf fun v => { v with fetched := v.fetched ++ [⟨y, none⟩] }).nvFetch y fuel

/-- Arbitration Burst of feature 01h: entries per turn (R424; the field's place PRESUMED, log 34). -/
def State.burst (s : State) : Nat :=
  let n := sget 0 s.nvf.features 1 % 8
  if n = 7 then 32768 else 2 ^ n

/-- Submission queues are fetched from in turn (R424). -/
def State.nvTurns (s : State) : Nat → State
  | 0 => s
  | fuel + 1 =>
      let ys := (s.nvf.sqs.filter fun x => s.nvMayFetch x.1 x.2).map (·.1)
      match (ys.filter fun y => s.nvf.turn < y) ++ ys with
      | [] => s
      | y :: _ => ((s.modNvf fun v => { v with turn := y }).nvFetch y s.burst).nvTurns fuel

/-- Entries that wait to be fetched. -/
def State.nvWaiting (s : State) : Nat := (s.nvf.sqs.map fun (_, q) => qDist q.size q.head q.tail).sum

/-! ## Entries and their lock check -/

/-- Opcode, command identifier, NSID and Dword `d` of a submission entry. -/
def nvOp (e : List Byte) : Nat := leAt e 0 1
def nvCid (e : List Byte) : Nat := leAt e 2 2
def nvNsid (e : List Byte) : Nat := leAt e 4 4
def nvDw (e : List Byte) (d : Nat) : Nat := leAt e (4 * d) 4

/-- Opcodes of I/O commands. -/
def ioOps : List Nat := [0x00, 0x01, 0x02, 0x08]

/-- Namespace `n` may be named on queue `y` (R429). -/
def State.nsAllowed (s : State) (y n : Nat) : Bool :=
  decide (n < 1024) && s.actB (NvfNs.adr n) NvfNs.enable &&
    (match s.nvSlice y with | some k => s.act (NvfNs.adr n) NvfNs.slice == k | none => true)

/-- A field that is reserved, or of what this controller does not support, is set: fused operation, SGL and reserved bits of byte
1, Dwords 2 and 3, and the metadata pointer (R424, R436). -/
def nvReserved (e : List Byte) : Bool := leAt e 1 1 != 0 || !allZero (slice e 8 16)

/-- The same for an I/O command, with Dwords 10 to 15 as the NVM Command Set lays them out (PRESUMED, log 34): a Flush uses none,
and the others may set NLB, FUA and Limited Retry in Dword 12 and, but for Write Zeroes, the hints of Dword 13. -/
def ioReserved (e : List Byte) : Bool :=
  nvReserved e ||
    (if nvOp e = 0 then !allZero (slice e 40 24)
    else bits (nvDw e 12) 29 16 != 0 || decide ((if nvOp e = 8 then 0 else 255) < nvDw e 13) || nvDw e 14 != 0 || nvDw e 15 != 0)

/-- A command takes its range-lock entry; it stalls behind an earlier entry that conflicts, and is issued otherwise (R433). -/
def State.nvLock (s : State) (l : NvLock) : State :=
  let x : NvLock := { l with id := s.nvf.nextId }
  let s1 := s.takeLock x
  if x.phase = .before then s1
  else if lockBlocked x s.nvf.locks || !s1.nvMayIssue x then s1
  else s1.nvGranted x

/-- A Read, Write or Write Zeroes (R429, R433, R436). -/
def State.nvIo (s : State) (y : Nat) (e : List Byte) : State :=
  let cid := nvCid e
  let n := nvNsid e - 1
  let lba := leAt e 40 8
  let blocks := leAt e 48 2 + 1
  let size := lbaSize s.inForce n
  let smart := if nvOp e = 2 then [blocks * size / 512, 0, 1, 0] else [0, blocks * size / 512, 0, 1]
  if ioReserved e then s.nvAnswer y cid nvINVALID_FIELD 0
  else if nvNsid e = 0 ∨ !s.nsAllowed y n then s.nvAnswer y cid nvINVALID_NS 0
  else if 1048576 < blocks * size then s.nvAnswer y cid nvINVALID_FIELD 0
  else if nsBlocks s.inForce n < lba + blocks then s.nvAnswer y cid nvLBA_RANGE 0
  else
    let s1 := if nvOp e = 8 then s else s.modNvf fun v => { v with smart := List.zipWith (· + ·) v.smart smart }
    s1.nvLock { id := 0, sq := some y, cid := cid, rope := 0, op := nvOp e, nss := [n], lba := lba, blocks := blocks
                fua := nvOp e == 1 && bit (nvDw e 12) 30, prp1 := leAt e 24 8, prp2 := leAt e 32 8, phase := .stalled, flushed := false }

/-- A Flush of one namespace, or of every namespace that the queue may name (R430, R431). -/
def State.nvFlush (s : State) (y : Nat) (e : List Byte) : State :=
  let nss := if nvNsid e = 0xFFFFFFFF then (List.range 1024).filter (s.nsAllowed y) else [nvNsid e - 1]
  if ioReserved e then s.nvAnswer y (nvCid e) nvINVALID_FIELD 0
  else if nvNsid e ≠ 0xFFFFFFFF ∧ (nvNsid e = 0 ∨ !s.nsAllowed y (nvNsid e - 1)) then s.nvAnswer y (nvCid e) nvINVALID_NS 0
  else s.nvLock { id := 0, sq := some y, cid := nvCid e, rope := 0, op := 0, nss := nss, lba := 0, blocks := 0, fua := false, prp1 := 0
                  prp2 := 0, phase := .before, flushed := false }

/-- The bytes of an entry of queue `y` come to the first one fetched from it that lacks them. -/
def fillFetched (y : Nat) (e : List Byte) : List NvFetched → List NvFetched
  | [] => []
  | x :: xs => if x.sq = y ∧ x.entry = none then { x with entry := some e } :: xs else x :: fillFetched y e xs

/-- The entries without those of queue `y` that have not arrived: every one of them, or the first. -/
def dropUnread (y : Nat) (l : List NvFetched) : List NvFetched := l.filter fun x => x.sq != y || x.entry.isSome
def dropOneUnread (y : Nat) (l : List NvFetched) : List NvFetched := dropFirst ⟨y, none⟩ l

/-- The entries that may meet their lock check: in fetch order up to the first whose read is outstanding (R433). -/
def readyFetched : List NvFetched → List (Nat × List Byte)
  | [] => []
  | x :: xs => match x.entry with | some e => (x.sq, e) :: readyFetched xs | none => []

/-- A fetched command meets its lock check (R433, R436). -/
def State.nvRun (s : State) (y : Nat) (e : List Byte) : State :=
  if nvOp e = 0 then s.nvFlush y e
  else if ioOps.contains (nvOp e) then s.nvIo y e
  else s.nvAnswer y (nvCid e) nvINVALID_OPCODE 0

/-- Fetched commands meet their lock check in fetch order while the table has room; those of a slice at its limit wait, and hold
no other back (R433, R434). -/
def State.nvChecks (s : State) : Nat → State
  | 0 => s
  | fuel + 1 =>
      if lockSlots ≤ s.nvf.locks.length then s
      else match (readyFetched s.nvf.fetched).find? fun x => s.sliceRoom (s.nvSlice x.1) with
        | some (y, e) => ((s.modNvf fun v => { v with fetched := dropFirst ⟨y, some e⟩ v.fetched }).nvRun y e).nvChecks fuel
        | none => s

/-- U17 goes on after anything that it may have waited for. -/
def State.nvSweep (s : State) : State :=
  let s1 := s.nvLost
  let s2 := (s1.nvf.locks.map (·.id)).foldl State.nvGo s1
  let s3 := (s2.shx.conns.map (·.1)).foldl State.todo s2
  let s4 := s3.deregEnds.nvChecks s3.nvf.fetched.length
  s4.nvTurns s4.nvWaiting

end Sys2Proof.Machine
end

