-- ==== Sys2Proof/Machine/Shardo.lean ====
section
/-!
DEFINITION. The commands of the Shardo transport (R382–R423).
-/

namespace Sys2Proof.Machine

/-- A Shardo command has run; what it has freed for U17 goes on. -/
def State.after (s : State) : Host.Outcome State Fault Refusal := .next s.nvSweep

/-! ## Commands of R418 -/

/-- STATUS codes of R419. -/
def sxCONN_STATE : Nat := 0x40
def sxNODE_RANGE : Nat := 0x41
def sxPIN_LIMIT : Nat := 0x42
def sxREGION_STATE : Nat := 0x43
def sxBAD_CONTEXT : Nat := 0x44
def sxKIND : Nat := 0x45

/-- The arguments that SHX_CMD_ARG holds, at their offsets in an entry. -/
def State.shxArgs (s : State) : List Byte :=
  List.replicate 8 0 ++ (List.range 14).flatMap fun w => leBytes 4 (s.inForce (ShxCmdArg.adr w)).toNat

/-- What a command does: the state, and its status, unless it ends later. -/
abbrev ShxRes := State × Option Nat


/-- A write of SHX_CMD with opcode `op`; the command ends at once unless it waits (log 6). -/
def State.shxCmd (s : State) (o : Sys2Proof.Origin) (f : State → Option Nat → List Byte → ShxRes) : WRes :=
  s.gate o 16 0x1100 true false fun s =>
    if s.getB ShxCmd.adr ShxCmd.busy || !s.shxOn then s.done
    else match f s none s.shxArgs with
      | (s1, some st) => (s1.shxEnd o 0 st).done
      | (s1, none) => (s1.set ShxCmd.adr ShxCmd.busy 1).done

/-- A Shardo command: of a slice's slice-control entry with opcode `op`, or of SHX_CMD. -/
def State.shxCommand (s : State) (o : Sys2Proof.Origin) (op : Nat) (f : State → Option Nat → List Byte → ShxRes) : State :=
  match o with
  | .slice k =>
      if !s.shxOn then s
      else s.scRun k op fun s e =>
        if s.slicePf k ≠ 3 then s.scEnd k e scOUT_OF_SHARE
        else match f s (some k.val) e with
          | (s1, some st) => s1.scEnd k e st
          | (s1, none) => s1
  | _ => (s.shxCmd o f).1

/-- CONN of a command. -/
def State.connArg (s : State) (k : Option Nat) (e : List Byte) : Option Nat :=
  shareIndex k (s.share .conn) (connCapacity s.scale) (leAt e 8 4 % 2 ^ 20)

/-- A command's buffer is written: under the slice, or under PF3 without a PASID (log 21). -/
def State.cmdWrite (s : State) (k : Option Nat) (addr : Nat) (b : List Byte) : State :=
  match k with
  | some n => s.argWrite n addr b
  | none => s.dmaWrite 3 none addr b

/-- Runs a command on a connection that is not FREE; a slice reaches connections of KIND RING only (R416). -/
def State.onConn (s : State) (k : Option Nat) (e : List Byte) (f : Nat → Conn → ShxRes) : ShxRes :=
  match s.connArg k e with
  | none => (s, some scOUT_OF_SHARE)
  | some c => match s.conn c with
    | none => (s, some sxCONN_STATE)
    | some x => if k.isSome ∧ x.kind ≠ ckRING then (s, some sxKIND) else f c x

/-- Fabric port `p` exists at the running port mode. -/
def State.fabricPort (s : State) (p : Nat) : Bool :=
  let f := (p - 16) / 4
  decide (16 ≤ p) && decide (p < 24) && decide (f < fabricPorts s.scale) &&
    decide ((p - 16) % 4 < (match s.act (Fpx.adr f) Fpx.breakout with | 0 => 1 | 1 => 2 | _ => 4))

/-- A connection that CONN_SETUP has written (R388). -/
def Conn.fresh (b : List Byte) (sl : Nat) : Conn :=
  { ctx := Machine.slice b 0 128, state := csCLOSED, version := 0, slice := sl, epoch := leAt b 3 1, sendPsn := leAt b 12 4 % 2 ^ 24
    expected := 0, work := [], pkts := [], cursor := none, head := 0, tail := 0, rstate := qsDISABLED, rerror := 0, rindex := 0
    q := QSt.init, ents := [], nextTag := 0, rate := 0, streak := 0, alpha := 65535, tCut := none, growAt := 0, growBytes := 0
    growMark := false, decayAt := 0, paceAt := 0, rto := 0, rtoAt := none, tries := 0, hellos := 0, helloAt := 0, pause := none
    accepted := 0, ackFrom := none, marks := 0, gap := none, todo := [], notices := [], out := [], quiet := none, lastWrite := none, closing := none }

/-- Connections with PIN (R393). -/
def State.pinned (s : State) : Nat := (s.shx.conns.filter fun (_, x) => x.pin).length

/-- The status with which CONN_SETUP refuses a context (R388, R393, R416, R419). -/
def State.contextBad (s : State) (k : Option Nat) (x : Conn) : Option Nat :=
  let ring := x.kind == ckRING
  let cfg := x.at_ 72 4
  if k.isSome ∧ (x.kind = ckEXPORT ∨ x.kind = ckSTORAGE) then some sxKIND
  else if nodeCapacity s.scale ≤ x.remoteNode then some sxNODE_RANGE
  else if x.kind = 3 ∨ bit (x.at_ 0 1) 7 ∨ !s.fabricPort x.port ∨ x.at_ 16 4 % 2 ^ 23 = 0 ∨ 2 ^ 22 < x.at_ 16 4 % 2 ^ 23
      ∨ !allZero (Machine.slice x.ctx 80 48) ∨ (x.auth ∧ (s.share .key x.slice).2 ≤ x.at_ 24 2 % 4096)
      ∨ (ring ∧ (bits cfg 15 12 < 3 ∨ bits cfg 11 0 ≠ 0 ∨ bits cfg 19 16 ≠ 0 ∨ x.count = 0
        ∨ !s.vectorOk x.slice x.vector)) then some sxBAD_CONTEXT
  else if x.pin ∧ 15360 ≤ s.pinned then some sxPIN_LIMIT
  else none

/-- CONN_SETUP: `arg` is what the buffer at ADDR holds. -/
def State.connSetup (s : State) (k : Option Nat) (e arg : List Byte) : ShxRes :=
  match s.connArg k e with
  | none => (s, some scOUT_OF_SHARE)
  | some c =>
      if (s.conn c).isSome then (s, some sxCONN_STATE)
      else
        let sl := if bits (leAt arg 0 1) 4 3 = ckRING then (match k with | some n => n | none => (s.ownerOf .conn c).getD 0) else 0
        let x := Conn.fresh arg sl
        match s.contextBad k x with
        | some st => (s, some st)
        | none => ((s.putConn c x).ctxEnter c, some scOK)

/-- SHX_CMD ends without its argument, which could not be read: STATUS is a free value (DESIGN CHOICE, log 107). -/
def State.shxLost (s : State) : State := (s.shxEnd .host 0 (s.free % 256)).tickFree

/-- CONN_SETUP of SHX_CMD has the context bytes read, and ends with them. -/
def State.connAskSetup (s : State) (e : List Byte) : ShxRes :=
  if s.issues 3 then
    (({ s with shx := { s.shx with args := e } } : State).dmaRead 3 none (leAt e 16 8) 128 .shxCmd, none)
  else (s.tickFree, some (s.free % 256))

/-- The context bytes of a CONN_SETUP of SHX_CMD enter. -/
def State.connSetupIn (s : State) (arg : List Byte) : State :=
  let t := s.readEnds 3 .shxCmd
  match t.connSetup none s.shx.args arg with
  | (s1, some st) => s1.shxEnd .host 0 st
  | (s1, none) => s1

/-- CONN_SETUP: of a slice, whose argument read has brought `arg`; or of SHX_CMD, where the command is first the write that
starts the read and then, while that read is outstanding, what it has brought. -/
def execConnSetup (o : Sys2Proof.Origin) (arg : List Byte) (s : State) : Host.Outcome State Fault Refusal :=
  match o with
  | .slice _ => (s.shxCommand o 0x40 fun s k e => s.connSetup k e arg).after
  | _ => if s.reading 3 .shxCmd then (s.connSetupIn arg).after
         else (s.shxCommand o 0x40 fun s _ e => s.connAskSetup e).after

/-- CONN_OPEN: HELLO is sent, and again every RTO (R389). -/
def State.connOpenCmd (s : State) (k : Option Nat) (e : List Byte) : ShxRes :=
  s.onConn k e fun c x =>
    if (x.state ≠ csCLOSED ∧ x.state ≠ csFAILED) ∨ x.closing.isSome then (s, some sxCONN_STATE)
    else
      let y : Conn := { x with state := csCONNECTING, epoch := if x.state = csFAILED then (x.epoch + 1) % 256 else x.epoch
                               version := 0, hellos := 1, helloAt := s.shxNs + s.rtoNs }
      ((s.putConn c y).sendHello c false false, some scOK)

/-- CONN_OPEN. -/
def execConnOpen (o : Sys2Proof.Origin) (s : State) : Host.Outcome State Fault Refusal :=
  (s.shxCommand o 0x41 fun s k e => s.connOpenCmd k e).after

/-- CONN_CLOSE: with the send ring DISABLED, the drain starts; the command ends with it (R389). -/
def State.connClose (s : State) (o : Sys2Proof.Origin) (k : Option Nat) (e : List Byte) : ShxRes :=
  s.onConn k e fun c x =>
    if x.closing = some o then (s, none)
    else if x.rstate ≠ qsDISABLED ∨ x.closing.isSome then (s, some sxCONN_STATE)
    else (s.putConn c { x with closing := some o }, none)

/-- CONN_CLOSE. -/
def execConnClose (o : Sys2Proof.Origin) (s : State) : Host.Outcome State Fault Refusal :=
  (s.shxCommand o 0x42 fun s k e => s.connClose o k e).after

/-- Connection `c` is FREE again. -/
def State.connFree (s : State) (c : Nat) (x : Conn) : State :=
  let s1 : State := { s with shx := { s.shx with
    conns := sdel s.shx.conns c, cache := s.shx.cache.filter (· != c), dirty := s.shx.dirty.filter (· != c)
    lost := s.shx.lost ++ x.lostTags c (x.pkts ++ x.work.map (·.pkt))
    doorWait := s.shx.doorWait.filter fun d => d.1 != c } }
  s1.dmaWrite 3 none (s.ctxAddr c) (leBytes 256 0)

/-- The drain of a CONN_CLOSE ends: the connection's last read has retired, and it is FREE (R389). -/
def execConnCloseEnd (c : Fin 1048576) (s : State) : Host.Outcome State Fault Refusal :=
  match s.conn c with
  | none => .next s
  | some x =>
      match x.closing with
      | none => .next s
      | some o =>
          if s.readsOf (.conn c) = 0 ∧ s.readsOf (.remote c) = 0 then ((s.connFree c x).shxEnd o 0x42 scOK).after
          else .next s

/-- CONN_QUERY: the connection's context is written to host memory, zeros where it is FREE. -/
def State.connQuery (s : State) (k : Option Nat) (e : List Byte) : ShxRes :=
  match s.connArg k e with
  | none => (s, some scOUT_OF_SHARE)
  | some c => match s.conn c with
    | none => (s.cmdWrite k (leAt e 16 8) (leBytes 256 0), some scOK)
    | some x =>
        if k.isSome ∧ x.kind ≠ ckRING then (s, some sxKIND)
        else ((s.cmdWrite k (leAt e 16 8) (s.ctxBytes x)).tickFree, some scOK)

/-- CONN_QUERY. -/
def execConnQuery (o : Sys2Proof.Origin) (s : State) : Host.Outcome State Fault Refusal :=
  (s.shxCommand o 0x43 fun s k e => s.connQuery k e).after

/-! ## Regions (R396, R398) -/

/-- REGION_REGISTER: the key goes to the buffer at ADDR. -/
def State.regionRegister (s : State) (k : Option Nat) (e : List Byte) : ShxRes :=
  let p := leAt e 12 1
  let mpi := bit p 4
  let sl := if mpi then 0 else match k with | some n => n | none => leAt e 13 1
  let len := if mpi then 512 else leAt e 24 8
  match s.regionArg k e with
  | none => (s, some scOUT_OF_SHARE)
  | some i =>
      let r := s.region i
      if r.valid then (s, some sxREGION_STATE)
      else if mpi ∧ k.isSome then (s, some sxKIND)
      else if len = 0 ∨ 2 ^ 48 < len ∨ s.slices ≤ sl then (s, some scBAD_VALUE)
      else
        let n : Region := { valid := true, lead := k.isNone, mpi := mpi, timed := bit p 3, read := bit p 2, write := bit p 1, gen := r.gen
                            slice := sl, base := if mpi then 0 else leAt e 16 8, length := len }
        ((s.putRegion i n).cmdWrite k (leAt e 32 8) (leBytes 8 (r.gen * 2 ^ 24 + i)), some scOK)

/-- REGION_REGISTER. -/
def execRegionRegister (o : Sys2Proof.Origin) (s : State) : Host.Outcome State Fault Refusal :=
  (s.shxCommand o 0x44 fun s k e => s.regionRegister k e).after

/-- Region `i` is not VALID any more: GEN advances, and the timed writes held for it are discarded (R398). -/
def State.regionDrop (s : State) (i : Nat) : State :=
  let r := s.region i
  let n := (s.shx.held.filter fun h => h.region == i).length
  let s1 := (s.putRegion i { r with valid := false, gen := (r.gen + 1) % 256 }).setHeld (s.shx.held.filter fun h => h.region != i)
  s1.set ShxStat.adr ShxStat.twDiscard (s1.get ShxStat.adr ShxStat.twDiscard + n)

/-- REGION_DEREGISTER: VALID clears, GEN advances, and the timed writes held for the region are discarded; the command ends once
the placements into the region that HIF has been handed are issued (R398). -/
def State.regionDeregister (s : State) (o : Sys2Proof.Origin) (k : Option Nat) (e : List Byte) : ShxRes :=
  match s.regionArg k e with
  | none => (s, some scOUT_OF_SHARE)
  | some i =>
      if s.shx.dereg.contains (i, o) then (s, none)
      else if !(s.region i).valid then (s, some sxREGION_STATE)
      else
        let s1 := s.regionDrop i
        if s1.placing i then ({ s1 with shx := { s1.shx with dereg := s1.shx.dereg ++ [(i, o)] } }, none) else (s1, some scOK)

/-- REGION_DEREGISTER. -/
def execRegionDeregister (o : Sys2Proof.Origin) (s : State) : Host.Outcome State Fault Refusal :=
  (s.shxCommand o 0x45 fun s k e => s.regionDeregister o k e).after

/-! ## Send rings (R399) -/

/-- RING_CTL (R363, R364, R367, R399): ENABLE writes the first head record. -/
def State.ringCtl (s : State) (k : Option Nat) (e : List Byte) : ShxRes :=
  s.onConn k e fun c x =>
    let v := leAt e 12 1 % 4
    let idle := x.q.drain.isNone && x.closing.isNone
    if x.kind ≠ ckRING then (s, some sxKIND)
    else if v = 1 then
      (if x.rstate ≠ qsDISABLED ∨ !idle then (s, some scBAD_STATE)
      else if !s.vectorOk x.slice x.vector then (s, some sxBAD_CONTEXT)
      else
        let s1 := s.putConn c { x with rstate := qsRUNNING, head := 0, tail := 0, rerror := 0, rindex := 0, q := QSt.init }
        ((s1.connPresent c fun s => s.connRecord c).connFetch c, some scOK))
    else if v = 2 then
      (if x.rstate = qsRUNNING ∧ idle then (s.putConn c { x with q := { x.q with drain := some false } }, some scOK) else (s, some scBAD_STATE))
    else if v = 3 then
      (if (x.rstate = qsHALTED ∨ x.rstate = qsERROR) ∧ idle then
        (s.putConn c { x with q := { x.q with drain := some true }, work := [], ents := [], pkts := x.pkts.filter fun p => p.psn.isSome }, some scOK)
      else (s, some scBAD_STATE))
    else (s, some scBAD_VALUE)

/-- RING_CTL with value `v`, from whichever place holds its arguments; other values are other commands. -/
def State.ringCmd (s : State) (o : Sys2Proof.Origin) (v : List Nat) : State :=
  let e : Option (List Byte) := match o with | .slice k => s.scEntry k 0x46 | _ => some s.shxArgs
  match e with
  | some b => if v.contains (leAt b 12 1 % 4) then s.shxCommand o 0x46 fun s k e => s.ringCtl k e else s
  | none => s

/-- RING_CTL ENABLE; a value of 0 is refused here. -/
def execRingEnable (o : Sys2Proof.Origin) (s : State) : Host.Outcome State Fault Refusal := (s.ringCmd o [0, 1]).after

/-- RING_CTL DISABLE. -/
def execRingDisable (o : Sys2Proof.Origin) (s : State) : Host.Outcome State Fault Refusal := (s.ringCmd o [2]).after

/-- RING_CTL RESET. -/
def execRingReset (o : Sys2Proof.Origin) (s : State) : Host.Outcome State Fault Refusal := (s.ringCmd o [3]).after

/-- A TAIL reaches a send ring whose context is cached (R361, R399). -/
def State.connTail (s : State) (c t : Nat) : State :=
  s.withConn c fun x =>
    let m := x.ringM
    if x.kind ≠ ckRING ∨ x.rstate = qsDISABLED then s
    else if t < m ∧ qDist m x.head x.tail ≤ qDist m x.head t ∧ qDist m x.head t ≤ x.ringN then
      (s.putConn c { x with tail := t }).connFetch c
    else s.connError c qrBAD_TAIL t

/-- A Shardo doorbell of slice `k` (R394, R399). -/
def execShardoDoorbell (k : Fin 256) (v : BitVec 64) (s : State) : Host.Outcome State Fault Refusal :=
  let i := bits v.toNat 35 16
  let t := v.toNat % 65536
  if s.halted then .next s
  else
    let s := s.startClocks [ckSYS, ckSHX]
    if s.shxOn && s.bound k && s.slicePf k == 3 && decide (i < (s.share .conn k).2) then
      let c := (s.share .conn k).1 + i
      if (s.conn c).isNone then .next s
      else if s.shx.cache.contains c then ((s.ctxTouch c).connTail c t).after
      else (({ s with shx := { s.shx with doorWait := s.shx.doorWait ++ [(c, t)] } } : State).ctxAsk c).after
    else .next s

/-- A send entry is malformed (R366, R400): the reason. -/
def sendBad (ver : Nat) (e : List Byte) : Option Nat :=
  let op := leAt e 0 1 % 16
  let n := leAt e 4 4
  if leAt e 0 1 / 16 ≠ 0 ∨ leAt e 1 1 / 2 ≠ 0 ∨ leAt e 2 2 ≠ 0 ∨ leAt e 20 4 ≠ 0 ∨ !allZero (slice e 36 28) then some qrRESERVED_SET
  else if op = 0 ∨ 4 < op then some qrBAD_OP
  else if op ≤ 2 ∧ (n = 0 ∨ 16777216 < n) ∨ op = 3 ∧ n ≠ 0 ∨ op = 4 ∧ (n = 0 ∨ 256 < n) then some qrBAD_LENGTH
  else if op = 4 ∧ ver = 1 then some 0x23
  else none

/-- The packets of an entry (R400), cut at the payload limit. -/
def sendWork (tag lim : Nat) (via : Option (Nat × Option Nat)) (op key time : Nat) : Nat → Nat → Nat → Nat → List Work
  | 0, _, _, _ => []
  | fuel + 1, loc, addr, n =>
      let k := min n lim
      let p : Pkt :=
        { tag := tag, op := op, key := key, addr := addr, len := k, time := time, last := decide (n ≤ lim), data := []
          dest := if op = opREAD_REQ then [(loc, k)] else [], via := via, psn := none, acked := false }
      { local_ := loc, pkt := p } :: (if n ≤ lim then [] else sendWork tag lim via op key time fuel (loc + k) (addr + k) (n - k))

/-- Packets at the front that need no local data are made (R400). -/
def Conn.pump (x : Conn) : Conn :=
  let free (w : Work) : Bool := w.pkt.op == opREAD_REQ || w.pkt.op == opFLUSH
  { x with pkts := x.pkts ++ (x.work.takeWhile free).map (·.pkt), work := x.work.dropWhile free }

/-- One entry enters a send ring: its packets are to be made, and its source data is read. -/
def State.sendEntry (s : State) (c i : Nat) (e : List Byte) : State :=
  s.withConn c fun x =>
    if x.rstate ≠ qsRUNNING then s
    else match sendBad x.version e with
      | some r => s.connError c r i
      | none =>
          let op := leAt e 0 1 % 16
          let via := s.connVia x
          let pop := if op = 1 then opWRITE else if op = 2 then opREAD_REQ else if op = 3 then opFLUSH else opTIMED_WRITE
          let n := leAt e 4 4
          let key := if op = 3 then 0 else leAt e 16 4
          let ws := sendWork x.nextTag (s.payloadLimit x) via pop key (if op = 4 then leAt e 32 4 else 0) (n + 1) (leAt e 8 8)
            (if op = 3 then 0 else leAt e 24 8) n
          let s1 := s.putConn c ({ x with
            work := x.work ++ ws, nextTag := x.nextTag + 1
            ents := x.ents ++ [{ tag := x.nextTag, op := op, report := bit (leAt e 1 1) 0 }] } : Conn).pump
          if op = 1 ∨ op = 4 then
            match via with
            | some (f, p) => ws.foldl (fun (s : State) w => s.dmaRead f p w.local_ w.pkt.len (.conn c)) s1
            | none => s1
          else s1

/-- The oldest descriptor read of a send ring completes (R366, R400). -/
def execSendEntryFetched (c : Fin 1048576) (data : List Byte) (s : State) : Host.Outcome State Fault Refusal :=
  match s.conn c with
  | none => .next s
  | some x =>
      match x.q.asked with
      | [] => .next (s.readOver 3 (.conn c))
      | (i, n) :: rest =>
          let s1 := (s.readOver 3 (.conn c)).putConn c { x with q := { x.q with asked := rest } }
          if x.rstate = qsRUNNING ∧ x.q.drain ≠ some true then
            (((splitEntries 64 x.ringM data n i).foldl (fun s (j, e) => s.sendEntry c j e) s1).connFetch c).after
          else .next s1

/-- The local data of the oldest packet that waits for it arrives, and the packet is made once the pool has cells for its
copy (R401). -/
def execSendDataCompletion (c : Fin 1048576) (data : List Byte) (s : State) : Host.Outcome State Fault Refusal :=
  match s.conn c with
  | none => .next s
  | some x =>
      match x.work with
      | [] => .next (if x.q.asked.isEmpty then s.readOver 3 (.conn c) else s)
      | w :: ws =>
          if x.kind = ckRING ∧ s.copyRoom w.pkt.len then
            let p : Pkt := { w.pkt with data := slice data 0 w.pkt.len }
            ((s.readOver 3 (.conn c)).putConn c ({ x with work := ws, pkts := x.pkts ++ [p] } : Conn).pump).after
          else .next s

/-- A packet of connection `c` is sent when its pace, window and cells allow it. -/
def execPacketSend (c : Fin 1048576) (s : State) : Host.Outcome State Fault Refusal := (s.pace c).after

/-- TIME microseconds have passed since the first entry that no record reports, for a queue of U15 or U18 (kinds 0–4) or
for the send ring of connection `q` (kind 5) (R363, R399); a frozen slice starts no new DMA (R348). -/
def execHeadRecordTimer (kind : Fin 6) (q : Fin 1048576) (s : State) : Host.Outcome State Fault Refusal :=
  if kind.val = 5 then
    match s.conn q with
    | some x => .next (if x.rstate = qsRUNNING ∧ 0 < x.q.unreported ∧ x.time ≠ 0 ∧ !s.connFrozen x then
        s.connPresent q fun s => s.connRecord q else s)
    | none => .next s
  else if q.val < qCount kind ∧ s.qState kind q = qsRUNNING ∧ 0 < (s.qst kind q).unreported ∧ s.act (qAdr kind q) QeTxq.time ≠ 0
      ∧ !s.qFrozen kind q then
    .next (s.qPresent kind q fun s => s.headRecord kind q)
  else .next s

/-- The drain of a send ring ends. -/
def State.ringDrained (s : State) (c : Nat) (x : Conn) : State :=
  match x.q.drain with
  | none => s
  | some reset =>
      if s.readsOf (.conn c) = 0 ∧ (reset ∨ x.ents.isEmpty) then
        let s1 := s.putConn c { x with rstate := qsDISABLED, rerror := 0 }
        let s2 := if reset then s1 else s1.connRecord c
        s2.modConn c fun x => { x with head := 0, tail := 0, q := QSt.init }
      else s

/-- The drain of a queue of U15 or U18 (kinds 0–4), or of a send ring (kind 5), ends (R367, R399). -/
def execQueueDrainEnd (kind : Fin 6) (q : Fin 1048576) (s : State) : Host.Outcome State Fault Refusal :=
  if kind.val = 5 then
    match s.conn q with | some x => .next (s.ringDrained q x) | none => .next s
  else if q.val < qCount kind then
    match (s.qst kind q).drain with
    | none => .next s
    | some reset => if s.qDrained kind q reset then .next (s.qDisabled kind q (!reset)) else .next s
  else .next s

/-! ## Arriving packets (R403–R409) -/

/-- An arriving WRITE. -/
def execWrite (s : State) : Host.Outcome State Fault Refusal := (s.arrive opWRITE).after

/-- An arriving READ_REQ. -/
def execReadReq (s : State) : Host.Outcome State Fault Refusal := (s.arrive opREAD_REQ).after

/-- An arriving READ_RESP. -/
def execReadResp (s : State) : Host.Outcome State Fault Refusal := (s.arrive opREAD_RESP).after

/-- An arriving ACK. -/
def execAck (s : State) : Host.Outcome State Fault Refusal := (s.arrive opACK).after

/-- An arriving NAK. -/
def execNak (s : State) : Host.Outcome State Fault Refusal := (s.arrive opNAK).after

/-- An arriving FLUSH. -/
def execFlush (s : State) : Host.Outcome State Fault Refusal := (s.arrive opFLUSH).after

/-- An arriving FLUSH_ACK. -/
def execFlushAck (s : State) : Host.Outcome State Fault Refusal := (s.arrive opFLUSH_ACK).after

/-- An arriving TIMED_WRITE. -/
def execTimedWrite (s : State) : Host.Outcome State Fault Refusal := (s.arrive opTIMED_WRITE).after

/-- An arriving HELLO. -/
def execHello (s : State) : Host.Outcome State Fault Refusal := (s.arrive opHELLO).after

/-- An arriving RESYNC. -/
def execResync (s : State) : Host.Outcome State Fault Refusal := (s.arrive opRESYNC).after

/-- An arriving NOT_READY. -/
def execNotReady (s : State) : Host.Outcome State Fault Refusal := (s.arrive opNOT_READY).after

/-! ## Completions -/

/-- Doorbells that waited for the context of `c` reach their ring (R394). -/
def State.doorbells (s : State) (c : Nat) : State :=
  let s1 : State := { s with shx := { s.shx with doorWait := s.shx.doorWait.filter fun d => d.1 != c } }
  (s.shx.doorWait.filter fun d => d.1 == c).foldl (fun s d => s.connTail c d.2) s1

/-- What waits for a context or a region entry asks for it. -/
def State.askAgain (s : State) : State :=
  let s2 := s.shx.parked.foldl (fun s (c, i, _) => match i with | some r => (s.ctxAsk c).regionAsk r | none => s.ctxAsk c) s
  s2.shx.doorWait.foldl (fun (s : State) d => s.ctxAsk d.1) s2

/-- A context read, or with `region` a region entry read, completes: what waited for it goes on (R393, R394). -/
def execContextFetchComplete (region : Bool) (i : Fin 1048576) (s : State) : Host.Outcome State Fault Refusal :=
  let r : Reader := if region then .region i else .ctx i
  if s.reading 3 r then
    let s1 := s.readEnds 3 r
    let s2 := if region then s1.regionTouch i else (s1.ctxEnter i).doorbells i
    ((s2.unpark s2.shx.parked.length).askAgain).after
  else .next (s.stray 3)

/-- The read-back of the oldest FLUSH of connection `c` completes (R407, R439). -/
def execFlushReadbackComplete (c : Fin 1048576) (s : State) : Host.Outcome State Fault Refusal :=
  match s.conn c with
  | none => .next (s.readOver 3 (.remote c))
  | some x =>
      match x.todo with
      | t :: ts =>
          if t.flush ∧ t.issued then
            let s1 := s.readOver 3 (.remote c)
            if s.blockTarget x then
              (if s.targetFull then (s1.putConn c { x with todo := { t with issued := false } :: ts }).after
              else ((s1.targetNotice c t.psn).modConn c fun x => { x with todo := ts }).after)
            else ((s1.sendFlushAck c t.psn).modConn c fun x => { x with todo := ts }).after
          else .next (s.stray 3)
      | [] => .next (s.readOver 3 (.remote c))

/-- The region read of the oldest READ_REQ of connection `c` completes with `data` (R408). -/
def execRegionReadComplete (c : Fin 1048576) (data : List Byte) (s : State) : Host.Outcome State Fault Refusal :=
  match s.conn c with
  | none => .next (s.readOver 3 (.remote c))
  | some x =>
      match x.todo with
      | t :: ts =>
          if !t.flush ∧ t.issued then
            (((s.readOver 3 (.remote c)).sendReadResp c t.psn (slice data 0 t.len)).modConn c fun x => { x with todo := ts }).after
          else .next (s.stray 3)
      | [] => .next (s.readOver 3 (.remote c))

/-! ## Timers -/

/-- The retransmission timer expires, and the connection goes back to the oldest packet outstanding (R406; log 80); in a hold it
stands (R420). -/
def execRetransmitTimerExpiry (c : Fin 1048576) (s : State) : Host.Outcome State Fault Refusal :=
  match s.conn c with
  | none => .next s
  | some x =>
      match x.rtoAt with
      | none => .next s
      | some t =>
          if s.shxNs + 40 < t ∨ x.state ≠ csOPEN then .next s
          else if !s.ready 16 then .next s
          else if !x.outstanding then .next (s.putConn c { x with rtoAt := none })
          else if s.act ShxRetx.adr ShxRetx.retryLimit ≤ x.tries + 1 then (s.connFail c 0x21).after
          else
            let rto := min (2 * x.rto) (s.act ShxRetx.adr ShxRetx.rtoMax)
            .next (s.putConn c { x with tries := x.tries + 1, rto := rto, rtoAt := some (s.shxNs + rto * 1000), cursor := some x.oldest })

/-- HELLO is sent again, or HELLO_LIMIT of them are unanswered (R389). -/
def execHelloRetry (c : Fin 1048576) (s : State) : Host.Outcome State Fault Refusal :=
  match s.conn c with
  | none => .next s
  | some x =>
      let moves : Bool := x.state == csOPEN && x.hellos != 0
      if (x.state ≠ csCONNECTING ∧ !moves) ∨ s.shxNs + 40 < x.helloAt ∨ !s.ready 16 then .next s
      else if s.act ShxRetx.adr ShxRetx.retryLimit ≤ x.hellos then (s.connFail c 0x21).after
      else .next ((s.putConn c { x with hellos := x.hellos + 1, helloAt := s.shxNs + s.rtoNs }).sendHello c moves false)

/-- A pause that `full` says a TIMED_FULL began is over, and the connection goes back. -/
def State.pauseEnds (s : State) (c : Nat) (full : Bool) : State :=
  s.withConn c fun x =>
    match x.pause with
    | some (t, p, f) => if f = full ∧ t ≤ s.shxNs + 40 then (s.putConn c { x with pause := none }).goBack c p else s
    | none => s

/-- A NOT_READY pause ends: the connection may send again, and goes back (R395). -/
def execBackoffEnd (c : Fin 1048576) (s : State) : Host.Outcome State Fault Refusal :=
  match s.conn c with
  | none => .next s
  | some x =>
      match x.quiet with
      | some t =>
          .next (if t ≤ s.shxNs + 40 ∧ s.ready 16 then ((s.putConn c { x with quiet := none }).pauseEnds c false).sayOn c else s)
      | none => .next s

/-- SHX_TW.RETRY has passed after a TIMED_FULL (R406). -/
def execTimedFullWaitEnd (c : Fin 1048576) (s : State) : Host.Outcome State Fault Refusal :=
  .next (if s.ready 16 then s.pauseEnds c true else s)

/-- ACK_TIME has passed since the first unacknowledged acceptance (R405). -/
def execAckTimer (c : Fin 1048576) (s : State) : Host.Outcome State Fault Refusal :=
  match s.conn c with
  | none => .next s
  | some x =>
      match x.ackFrom with
      | some t => .next (if t + s.act ShxAck.adr ShxAck.ackTime * 1000 ≤ s.shxNs + 40 ∧ s.ready 16 ∧ !(x.out.contains (.ack false)) then
          s.sendAck c false else s)
      | none => .next s

/-- A growth event (R414). -/
def execGrowthEvent (c : Fin 1048576) (s : State) : Host.Outcome State Fault Refusal :=
  match s.conn c with
  | none => .next s
  | some x =>
      if x.state = csOPEN ∧ s.ready 16 ∧ (x.growAt + s.act ShxCc0.adr ShxCc0.incTime * 1000 ≤ s.shxNs + 40
          ∨ s.act ShxCc1.adr ShxCc1.incBytes * 1024 ≤ x.growBytes) then
        let k := if x.growMark then 0 else min (x.streak + 1) (s.act ShxCc0.adr ShxCc0.stepCap)
        let r := if x.growMark then x.rate else min (s.connPortRate x) (x.rate + s.act ShxCc2.adr ShxCc2.stepRate * k)
        .next (s.putConn c { x with streak := k, rate := r, growAt := s.shxNs, growBytes := 0, growMark := false })
      else .next s

/-- ALPHA decays (R414). -/
def execAlphaDecay (c : Fin 1048576) (s : State) : Host.Outcome State Fault Refusal :=
  match s.conn c with
  | none => .next s
  | some x =>
      if x.state = csOPEN ∧ s.ready 16 ∧ x.decayAt ≤ s.shxNs + 40 then
        let g := 2 ^ s.act ShxCc0.adr ShxCc0.gShift
        .next (s.putConn c { x with alpha := x.alpha * (g - 1) / g, decayAt := s.shxNs + s.act ShxCc1.adr ShxCc1.alphaTime * 1000 })
      else .next s

/-- The first held timed write is placed at its time; one beyond four within 32 ns is counted (R411). -/
def execTimedWritePlacement (s : State) : Host.Outcome State Fault Refusal :=
  match s.shx.held with
  | [] => .next s
  | h :: hs =>
      if h.due ≤ (s.lineNs + 40 : Nat) then
        let crowded := match s.shx.placed with | [a, _, _, _] => decide (h.due - a < 32) | _ => false
        let s1 := ((s.setHeld hs).prestartEnds (s.placeKind h) fun t => t == h.due.toNat && !hs.any fun g => g.due == h.due && s.placeKind g == s.placeKind h).connPlace h.conn h.region h.addr h.data
        let s2 := if crowded then s1.shxStat ShxStat.twCrowded else s1
        let p := s.shx.placed ++ [h.due]
        ((({ s2 with shx := { s2.shx with placed := p.drop (p.length - 4) } } : State).todo h.conn).tickFree).after
      else .next s

/-! ## Generator exports (R195, R413) -/

/-- A connection takes an export: KIND EXPORT, OPEN at version 2, within its window and its rate (R413). -/
def State.exportOk (s : State) (x : Conn) : Bool :=
  x.kind == ckEXPORT && x.state == csOPEN && x.version == 2 && s.inPace x &&
    decide (psnDist x.unack x.sendPsn + x.work.length + (x.pkts.filter fun k => k.psn.isNone).length < x.window)

/-- The oldest export of a generator goes to its connection as one TIMED_WRITE, which is sent as soon as it may be, or is
discarded (R401, R413); a hold of U05 keeps it (R212). -/
def execGeneratorExport (s : State) : Host.Outcome State Fault Refusal :=
  match s.mpi.exports with
  | [] => .next s
  | (k, bs, place) :: rest =>
      let a := MpiMaster.adr k
      let c := s.act a MpiMaster.exportConn
      let s1 := s.modMpi fun m => { m with exports := rest }
      let p : Pkt :=
        { tag := 0, op := opTIMED_WRITE, key := s.act a MpiMaster.exportKey, addr := s.act a MpiMaster.exportAddr, len := 32
          time := (stampOf place).toNat, last := true, data := slice bs 0 32, dest := [], via := none, psn := none, acked := false }
      if s.mpiHeld then .next s
      else match s.conn c with
        | none => .next (s1.shxEvent 10 c 0)
        | some x =>
            if !s.exportOk x then .next (s1.shxEvent 10 c 0)
            else if !s.shx.cache.contains c then .next (s.ctxAsk c)
            else (((s1.ctxTouch c).toConn c [p]).pace c).after

/-! ## Reset and hold (R420) -/

/-- A unit reset of U16. -/
def State.shxReset (s : State) : State :=
  let s1 := s.shx.conns.foldl (fun (s : State) (c, x) =>
    let s1 := (s.connHalt c qrUNIT_RESET).modConn c fun x => { x with out := [], quiet := none }
    if x.state = csFAILED then s1 else s1.connFail c 0) s.shxRuns
  let n := s1.shx.held.length
  let s2 := s1.set ShxStat.adr ShxStat.twDiscard (s1.get ShxStat.adr ShxStat.twDiscard + n)
  let s3 := s2.shx.cache.foldl State.ctxBack s2
  ({ (((s3.setHeld []).setParked [])) with shx := { ((s3.setHeld []).setParked []).shx with cache := [], rcache := [], doorWait := [] } } : State).nvSweep

/-- Release of a hold of U16: every connection continues where it stood, its answers that waited are sent, fetching goes on, and
the contexts that parked packets wait for are read (R420). -/
def State.shxResume (s : State) : State :=
  let s1 := (s.shx.conns.map (·.1)).foldl (fun (s : State) c => (s.sayOn c).connFetch c) s.shxRuns
  s1.askAgain.nvSweep

end Sys2Proof.Machine
end

