-- ==== Sys2Proof/Machine/Storage.lean ====
section
/-!
DEFINITION. The commands of the storage front end and of the cycle recorder (R424–R447).
-/

namespace Sys2Proof.Machine

/-! ## Doorbells (R425) -/

/-- A submission queue tail doorbell: the queue's entries are fetched (R443). A value beyond the queue is discarded. -/
def execSqTailDoorbell (q : Fin 1025) (v : BitVec 16) (s : State) : Host.Outcome State Fault Refusal :=
  match s.sq q with
  | some x => if v.toNat < x.size ∧ !s.halted then ((s.startClocks [ckSYS, ckNVF]).putSq q { x with tail := v.toNat }).after else .next s
  | none => .next s

/-- A completion queue head doorbell: held completions are written as room appears (R437). -/
def execCqHeadDoorbell (q : Fin 1025) (v : BitVec 16) (s : State) : Host.Outcome State Fault Refusal :=
  match s.cq q with
  | some x =>
      if v.toNat < x.size ∧ !s.halted then (((s.startClocks [ckSYS, ckNVF]).putCq q { x with head := v.toNat }).nvDrain q s.nvf.held.length).after else .next s
  | none => .next s

/-- The doorbell at an offset of PF2 BAR0, each alone in its 4 KB page: whether it is a submission queue's, and the queue (R425). -/
def doorbellAt (off : Nat) : Option (Bool × Nat) :=
  let d := (off - 0x1000) / 0x1000
  if 0x1000 ≤ off ∧ off % 0x1000 = 0 ∧ d < 2050 then some (d % 2 == 0, d / 2) else none

/-- CAP: MQES 0x7FFF, CQR 1, TO 4, DSTRD 10, the I/O command sets of CC.CSS 000b and 110b, and MPSMIN and MPSMAX 0
(R424–R426; the places of the fields PRESUMED, log 34). -/
def nvCap : Nat := 0x7FFF + 2 ^ 16 + 4 * 2 ^ 24 + 10 * 2 ^ 32 + 2 ^ 37 + 2 ^ 43

/-- The 32-bit word at an offset of PF2 BAR0 (R424, R425): the controller registers; all other bytes are reserved. -/
def State.pf2Word (s : State) (off : Nat) : Nat :=
  match off with
  | 0x00 => nvCap % 2 ^ 32
  | 0x04 => nvCap / 2 ^ 32
  | 0x08 => 0x20000
  | 0x14 => s.nvf.cc
  | 0x1C => s.nvf.csts
  | 0x24 => s.nvf.aqa
  | 0x28 => s.nvf.asq % 2 ^ 32
  | 0x2C => s.nvf.asq / 2 ^ 32
  | 0x30 => s.nvf.acq % 2 ^ 32
  | 0x34 => s.nvf.acq / 2 ^ 32
  | _ => 0

/-! ## Entries -/

/-- The entry `e` arrives at queue `y`, when a row of opcode `op` takes it: one whose opcode is `op`, or one whose opcode
no row of `ops` has. -/
def State.nvEntry (s : State) (y op : Nat) (ops : List Nat) (e : List Byte) (f : State → State) : State :=
  match s.sq y with
  | none => s.readOver 2 (.sq y)
  | some q =>
      if q.asked = 0 then s.readOver 2 (.sq y)
      else if (nvOp e ≠ op ∧ ops.contains (nvOp e)) then s
      else
        let s1 := (s.readOver 2 (.sq y)).putSq y { q with head := (q.head + 1) % q.size, asked := q.asked - 1 }
        if nvOp e = op then f s1 else s1.nvAnswer y (nvCid e) nvINVALID_OPCODE 0

/-- An I/O entry of opcode `op`, or of a reserved one, arrives at queue `y`, and meets its lock check in fetch order (R433). -/
def State.nvArrive (s : State) (y op : Nat) (e : List Byte) : Host.Outcome State Fault Refusal :=
  match s.sq y with
  | none => (s.readOver 2 (.sq y)).after
  | some q =>
      if y = 0 then s.after
      else if q.asked = 0 then (s.readOver 2 (.sq y)).after
      else if nvOp e ≠ op ∧ ioOps.contains (nvOp e) then s.after
      else
        let s1 := (s.readOver 2 (.sq y)).putSq y { q with head := (q.head + 1) % q.size, asked := q.asked - 1 }
        (s1.modNvf fun v => { v with fetched := fillFetched y e v.fetched }).after

/-! ## I/O commands (R428–R433) -/

/-- Write. -/
def execNvmeWrite (q : Fin 1025) (e : List Byte) (s : State) : Host.Outcome State Fault Refusal := s.nvArrive q 0x01 e

/-- Read. -/
def execNvmeRead (q : Fin 1025) (e : List Byte) (s : State) : Host.Outcome State Fault Refusal := s.nvArrive q 0x02 e

/-- Write Zeroes. -/
def execNvmeWriteZeroes (q : Fin 1025) (e : List Byte) (s : State) : Host.Outcome State Fault Refusal := s.nvArrive q 0x08 e

/-- Flush. -/
def execNvmeFlush (q : Fin 1025) (e : List Byte) (s : State) : Host.Outcome State Fault Refusal := s.nvArrive q 0x00 e

/-- A stalled command whose last conflicting earlier entry is freed proceeds (R433), or one that a freeze
or a hold has stopped goes on: the first such command. -/
def execLockGranted (s : State) : Host.Outcome State Fault Refusal :=
  match s.nvf.locks.find? fun l => l.phase == .stalled && !lockBlocked l s.nvf.locks && s.nvMayIssue l with
  | some l => (s.nvGranted l).after
  | none => .next s

/-- The reads of command `i` have completed with `data`; `bad` says that one was poisoned or timed out (R436, R443). A
command that may not be issued now reads again once it may. -/
def execNvmeDataCompletion (i : Nat) (data : List Byte) (bad : Bool) (s : State) : Host.Outcome State Fault Refusal :=
  match s.lock i with
  | none => .next (if s.readsOf (.nvme i) = 0 then s.stray 2 else s.readsOver (.nvme i) s.hif.reads.length)
  | some l =>
      match l.phase with
      | .list addr pages =>
          let s1 := s.readsOver (.nvme i) s.hif.reads.length
          (if bad then s1.nvFinish l nvDATA_TRANSFER
          else if s.nvMayIssue l then s1.nvListIn l addr pages data
          else s1.modLock i fun l => { l with phase := .stalled }).after
      | .data _ =>
          if bad then ((s.readsOver (.nvme i) s.hif.reads.length).nvFinish l nvDATA_TRANSFER).after
          else if !s.nvMayIssue l then
            .next ((s.readsOver (.nvme i) s.hif.reads.length).modLock i fun l => { l with phase := .stalled })
          else ((s.readsOver (.nvme i) s.hif.reads.length).nvSend l (slice data 0 (s.lockBytes l))).after
      | .finished => .next (s.readsOver (.nvme i) s.hif.reads.length)
      | _ => .next (s.stray 2)

/-! ## Admin commands (R424, R427, R435) -/

/-- Opcodes of admin commands. -/
def adminOps : List Nat := [0x00, 0x01, 0x02, 0x04, 0x05, 0x06, 0x08, 0x09, 0x0A, 0x0C]

/-- An admin command with opcode `op`: `f` gives the state, the status and Dword 0. -/
def State.nvAdmin (s : State) (op : Nat) (e : List Byte) (f : State → State × Nat × Nat) : Host.Outcome State Fault Refusal :=
  (s.nvEntry 0 op adminOps e fun s =>
    if nvReserved e then s.nvAnswer 0 (nvCid e) nvINVALID_FIELD 0
    else let (s1, st, d) := f s; s1.nvAnswer 0 (nvCid e) st d).after

/-- The packets of command `i` that wait for cells have not been handed to U16, and are dropped (R435). -/
def State.unhand (s : State) (i : Nat) : State :=
  (s.shx.conns.map (·.1)).foldl (fun (s : State) c => s.modConn c fun x =>
    if x.kind = ckSTORAGE then { x with work := x.work.filter fun w => w.pkt.tag != i } else x) s

/-- An Abort (R435): a command that has handed no packet to U16 is caught. -/
def State.nvAbort (s : State) (e : List Byte) : State × Nat × Nat :=
  let y := nvDw e 10 % 65536
  let cid := nvDw e 10 / 65536
  match s.nvf.locks.find? fun l => l.sq == some y && l.cid == cid && s.noneHanded l with
  | some l => ((s.unhand l.id).nvFinish l nvABORTED, nvOK, 0)
  | none => (s, nvOK, 1)

/-- Abort. -/
def execAbort (e : List Byte) (s : State) : Host.Outcome State Fault Refusal := s.nvAdmin 0x08 e fun s => s.nvAbort e

/-- Create I/O Submission Queue (R427). -/
def State.createSq (s : State) (e : List Byte) : State × Nat × Nat :=
  let y := nvDw e 10 % 65536
  let n := nvDw e 10 / 65536
  let c := nvDw e 11 / 65536
  if y = 0 ∨ 1024 < y ∨ (s.sq y).isSome then (s, nvBAD_QID, 0)
  else if n = 0 ∨ 32767 < n then (s, nvBAD_SIZE, 0)
  else if c = 0 ∨ (s.cq c).isNone ∨ s.nvSlice c ≠ s.nvSlice y then (s, nvBAD_CQ, 0)
  else if !bit (nvDw e 11) 0 then (s, nvINVALID_FIELD, 0)
  else if leAt e 24 8 % 4096 ≠ 0 then (s, nvPRP_OFFSET, 0)
  else (s.putSq y { base := leAt e 24 8, size := n + 1, cq := c, head := 0, tail := 0, asked := 0 }, nvOK, 0)

/-- Create I/O Submission Queue. -/
def execCreateIoSq (e : List Byte) (s : State) : Host.Outcome State Fault Refusal := s.nvAdmin 0x01 e fun s => s.createSq e

/-- Create I/O Completion Queue (R427). -/
def State.createCq (s : State) (e : List Byte) : State × Nat × Nat :=
  let y := nvDw e 10 % 65536
  let n := nvDw e 10 / 65536
  let iv := nvDw e 11 / 65536
  let vok := match s.nvSlice y with | some k => s.vectorOk k iv | none => !bit (nvDw e 11) 1 || decide (iv < 2048)
  if y = 0 ∨ 1024 < y ∨ (s.cq y).isSome then (s, nvBAD_QID, 0)
  else if n = 0 ∨ 32767 < n then (s, nvBAD_SIZE, 0)
  else if !vok then (s, nvBAD_VECTOR, 0)
  else if !bit (nvDw e 11) 0 then (s, nvINVALID_FIELD, 0)
  else if leAt e 24 8 % 4096 ≠ 0 then (s, nvPRP_OFFSET, 0)
  else (s.putCq y { base := leAt e 24 8, size := n + 1, head := 0, tail := 0, phase := true, ien := bit (nvDw e 11) 1, vector := iv }, nvOK, 0)

/-- Create I/O Completion Queue. -/
def execCreateIoCq (e : List Byte) (s : State) : Host.Outcome State Fault Refusal := s.nvAdmin 0x05 e fun s => s.createCq e

/-- Commands of queue `y` that have no packet with U16 end with the queue; the others keep their range-lock entries until
they are answered, and complete nowhere (R438; log 33). -/
def State.orphan (s : State) (p : Nat → Bool) : State :=
  let mine (l : NvLock) : Bool := match l.sq with | some y => p y | none => false
  let s1 := s.setLocks ((s.nvf.locks.filter fun l => !mine l || l.phase == .sent).map fun l =>
    if mine l then { l with sq := none, rope := 16 } else l)
  s1.modNvf fun v => { v with held := v.held.filter (fun d => !p d.sq), fetched := v.fetched.filter fun x => !p x.sq }

/-- Delete I/O Submission Queue. -/
def execDeleteIoSq (e : List Byte) (s : State) : Host.Outcome State Fault Refusal :=
  s.nvAdmin 0x00 e fun s =>
    let y := nvDw e 10 % 65536
    if y = 0 ∨ (s.sq y).isNone then (s, nvBAD_QID, 0)
    else ((s.orphan (· == y)).modNvf fun v => { v with sqs := sdel v.sqs y }, nvOK, 0)

/-- Delete I/O Completion Queue. -/
def execDeleteIoCq (e : List Byte) (s : State) : Host.Outcome State Fault Refusal :=
  s.nvAdmin 0x04 e fun s =>
    let y := nvDw e 10 % 65536
    if y = 0 ∨ (s.cq y).isNone then (s, nvBAD_QID, 0)
    else if s.nvf.sqs.any fun (_, q) => q.cq == y then (s, nvBAD_DELETE, 0)
    else (s.modNvf fun v => { v with cqs := sdel v.cqs y, held := v.held.filter fun d => d.cq != y }, nvOK, 0)

/-- The PRP entries of an admin command's data of `n` bytes break their alignment (R436). -/
def adminPrpBad (e : List Byte) (n : Nat) : Bool :=
  leAt e 24 8 % 4 != 0 || (decide (4096 - leAt e 24 8 % 4096 < n) && leAt e 32 8 % 4096 != 0)

/-- The data of an admin command goes to its PRP pages, without a PASID (R426). -/
def State.adminData (s : State) (e data : List Byte) : State :=
  s.scatter (.cq 0) (some (2, none)) (prpBufs [leAt e 24 8, leAt e 32 8] data.length) data

/-- Namespaces that are enabled. -/
def State.activeNs (s : State) : List Nat := (List.range 1024).filter fun n => s.actB (NvfNs.adr n) NvfNs.enable

/-- The data of Identify (R424): what the spec states stands in it, the fields of what it does not support are 0 (CMIC, OACS, NPSS,
FUSES and SGLS; NLBAF, FLBAS, MC, DPC and DPS), and the bytes that it does not state are free values (log 34). -/
def State.identifyData (s : State) (cns nsid : Nat) : List Byte :=
  let open_ := leBytes 4096 s.free
  let n := nsid - 1
  match cns with
  | 0 =>
      if nsid = 0 ∨ !(s.activeNs).contains n then List.replicate 4096 0
      else
        let z := leBytes 8 (nsBlocks s.inForce n)
        patch (patch (patch open_ 0 (z ++ z)) 25 [0, 0, 0, 0, 0]) 128 [0, 0, if lbaSize s.inForce n = 4096 then 12 else 9]
  | 1 =>
      let base := patch (patch (patch open_ 76 [0, 8]) 80 (leBytes 4 0x20000)) 256 [0, 0, 3, 3]
      patch (patch (patch (patch base 263 [0]) 516 (leBytes 4 1024)) 520 (leBytes 2 8 ++ [0, 0])) 525 [1] |> (patch · 536 [0, 0, 0, 0])
  | 2 => slice (((s.activeNs).filter fun m => decide (nsid < m + 1)).flatMap fun m => leBytes 4 (m + 1)) 0 4096
  | _ => open_

/-- Identify. -/
def execIdentify (e : List Byte) (s : State) : Host.Outcome State Fault Refusal :=
  s.nvAdmin 0x06 e fun s =>
    let cns := nvDw e 10 % 256
    if 3 < cns then (s, nvINVALID_FIELD, 0)
    else if adminPrpBad e 4096 then (s, nvPRP_OFFSET, 0)
    else ((s.adminData e (s.identifyData cns (nvNsid e))).tickFree, nvOK, 0)

/-- The SMART / Health log (R424); `temp` is the composite temperature that the die sensor gives. -/
def State.smartLog (s : State) (temp : Nat) : List Byte :=
  let c (i : Nat) : Nat := s.nvf.smart.getD i 0
  let d (i : Nat) : List Byte := leBytes 16 ((c i + 999) / 1000)
  patch (patch (patch (patch (leBytes 512 s.free) 1 (leBytes 2 temp ++ [100])) 32 (d 0 ++ d 1 ++ leBytes 16 (c 2) ++ leBytes 16 (c 3))) 160
    (List.replicate 16 0)) 176 (List.replicate 16 0)

/-- Get Log Page. -/
def execGetLogPage (e : List Byte) (temp : BitVec 16) (s : State) : Host.Outcome State Fault Refusal :=
  s.nvAdmin 0x02 e fun s =>
    let lid := nvDw e 10 % 256
    let n := (nvDw e 10 / 65536 + 65536 * (nvDw e 11 % 65536) + 1) * 4
    if lid ≠ 1 ∧ lid ≠ 2 then (s, nvBAD_LOG, 0)
    else if adminPrpBad e (min n (if lid = 1 then 64 else 512)) then (s, nvPRP_OFFSET, 0)
    else if lid = 1 then (s.adminData e (slice (List.replicate 64 0) 0 (min n 64)), nvOK, 0)
    else ((s.adminData e (slice (s.smartLog temp.toNat) 0 (min n 512))).tickFree, nvOK, 0)

/-- Features (R424). -/
def nvFeatures : List Nat := [1, 2, 4, 6, 7, 8, 9, 0x0B]

/-- The value of a feature: the write cache is always enabled, and every queue that exists is allotted (R424). -/
def State.feature (s : State) (f : Nat) : Nat :=
  if f = 6 then 1 else if f = 7 then 0x03FF03FF else sget 0 s.nvf.features f

/-- Set Features. -/
def execSetFeatures (e : List Byte) (s : State) : Host.Outcome State Fault Refusal :=
  s.nvAdmin 0x09 e fun s =>
    let f := nvDw e 10 % 256
    let v := nvDw e 11
    if !nvFeatures.contains f ∨ (f = 2 ∧ v % 32 ≠ 0) ∨ (f = 6 ∧ v % 2 = 0) then (s, nvINVALID_FIELD, 0)
    else if f = 6 then (s, nvOK, 0)
    else if f = 7 then (s, nvOK, s.feature 7)
    else (s.modNvf fun x => { x with features := sput 0 x.features f v }, nvOK, 0)

/-- Get Features. -/
def execGetFeatures (e : List Byte) (s : State) : Host.Outcome State Fault Refusal :=
  s.nvAdmin 0x0A e fun s =>
    let f := nvDw e 10 % 256
    if nvFeatures.contains f then (s, nvOK, s.feature f) else (s, nvINVALID_FIELD, 0)

/-- Namespace changes that are to be announced complete Asynchronous Event Requests (R428): Notice, Namespace Attribute
Changed, under bit 8 of feature 0Bh (PRESUMED, log 34). -/
def State.aerGo (s : State) : State :=
  match s.nvf.aers, s.nvf.changed with
  | cid :: rest, _ :: more =>
      (s.modNvf fun v => { v with aers := rest, changed := more }).nvAnswer 0 cid nvOK 0x00040002
  | _, _ => s

/-- Asynchronous Event Request: at most four are held (R424: AERL 3). -/
def execAsyncEventRequest (e : List Byte) (s : State) : Host.Outcome State Fault Refusal :=
  (s.nvEntry 0 0x0C adminOps e fun s =>
    if nvReserved e then s.nvAnswer 0 (nvCid e) nvINVALID_FIELD 0
    else if 4 ≤ s.nvf.aers.length then s.nvAnswer 0 (nvCid e) nvAER_LIMIT 0
    else (s.modNvf fun v => { v with aers := v.aers ++ [nvCid e] }).aerGo).after

/-! ## The controller (R426, R438) -/

/-- CC.EN = 1 with the host's settings of CC, AQA, ASQ and ACQ: while U17 is READY, CSTS.RDY is set (R424, R426). -/
def execControllerEnable (cc aqa : Word) (asq acq : DWord) (s : State) : Host.Outcome State Fault Refusal :=
  let c := cc.toNat
  let css := bits c 6 4
  if s.nvReady || !bit c 0 || s.halted then .next s
  else
    let s1 := s.modNvf fun v => { v with cc := c, aqa := aqa.toNat, asq := asq.toNat, acq := acq.toNat }
    if s.ready 17 ∧ !s.nvFatal ∧ (css = 0 ∨ css = 6) ∧ bits c 10 7 = 0 ∧ bits c 13 11 = 0 ∧ aqa.toNat % 4096 ≠ 0 ∧ bits aqa.toNat 27 16 ≠ 0 then
      let s2 := s1.putSq 0 { base := asq.toNat / 4096 * 4096, size := aqa.toNat % 4096 + 1, cq := 0, head := 0, tail := 0, asked := 0 }
      let s3 := s2.putCq 0 { base := acq.toNat / 4096 * 4096, size := bits aqa.toNat 27 16 + 1, head := 0, tail := 0, phase := true, ien := true
                             vector := 0 }
      .next (s3.modNvf fun v => { v with csts := 1 })
    else .next s1

/-- A controller reset: every queue is deleted, and commands at the fabric keep their range-lock entries (R438). -/
def State.nvControllerReset (s : State) : State :=
  (s.orphan fun _ => true).modNvf fun v =>
    { v with cc := v.cc / 2 * 2, csts := 0, sqs := [], cqs := [], fetched := [], turn := 0, held := [], features := [], aers := [], changed := [], smart := [0, 0, 0, 0] }

/-- CC.EN = 0. -/
def execControllerReset (s : State) : Host.Outcome State Fault Refusal :=
  if s.halted then .next s else s.nvControllerReset.after

/-! ## Namespaces and the block target (R428, R439) -/

/-- Offset of a U17 address in its window. -/
def nvfOff (a : Nat) : Nat := a - 0x1100000

/-- The remote bytes of an extent of namespace `n`: connection, key, first byte and bytes. -/
def extentSpan (rd : Nat → Word) (n e : Nat) : Nat × Nat × Nat × Nat :=
  let a := NvfExt.adr e
  (fieldOf rd a NvfExt.conn, fieldOf rd a NvfExt.key, fieldOf rd a NvfExt.remoteAddr, fieldOf rd a NvfExt.lbas * lbaSize rd n)

/-- Two extents overlap: one entry, or common bytes of one region. -/
def spansMeet (x y : Nat × Nat × Nat × Nat) : Bool :=
  x.1 == y.1 && x.2.1 == y.2.1 && rangesMeet x.2.2.1 x.2.2.2 y.2.2.1 y.2.2.2

/-- Namespace `n` may be enabled with extents as in `rd` (R428). -/
def State.nsEnableOk (s : State) (rd : Nat → Word) (n : Nat) : Bool :=
  let es := nsExtents rd n
  es.all (fun e =>
    (match s.conn (fieldOf rd (NvfExt.adr e) NvfExt.conn) with | some x => x.kind == ckSTORAGE | none => false)
      && fieldOf rd (NvfExt.adr e) NvfExt.remoteAddr % lbaSize rd n == 0)
  && s.activeNs.all fun m => m == n || (nsExtents rd m).all fun f => es.all fun e =>
      e != f && !spansMeet (extentSpan rd n e) (extentSpan rd m f)

/-- Namespace `n` is in use: a recorder names it, or a command of it holds a range-lock entry. -/
def State.nsInUse (s : State) (n : Nat) : Bool :=
  ((List.range 16).any fun r => s.actB (NvfRec.adr r) NvfRec.enable && s.act (NvfRec.adr r) NvfRec.ns == n)
    || s.nvf.locks.any fun l => l.nss.contains n

/-- A change of ENABLE is announced, when its event is enabled. -/
def State.nsChanged (s : State) (n : Nat) : State :=
  if bit (s.feature 0x0B) 8 then (s.modNvf fun v => { v with changed := v.changed ++ [n] }).aerGo else s

/-- A write of NVF_NS[n]+0x00: while ENABLE is 1 it may only clear ENABLE, and the namespace is enabled when its fields, in
force and last written alike, and the recorders allow it (R428, R440, R441). -/
def State.nsWrite (s : State) (o : Sys2Proof.Origin) (n : Nat) (v : Word) : WRes :=
  let a := NvfNs.adr n
  let off := nvfOff a
  s.gate o 17 off (s.rwlDiffers a v) false fun s =>
    let m := fieldMask (fun f _ => f.acc == .rwl) a
    let t := s.setBits a m v
    let same := (s.rd a ^^^ v) &&& m &&& 0x7FFFFFFF#32 == 0
    let on := s.actB a NvfNs.enable
    let bad :=
      if on then !same || bit v.toNat 31 || s.nsInUse n
      else decide (2 ≤ bits v.toNat 29 28) || (bit v.toNat 31 && !(t.nsEnableOk t.inForce n && t.nsEnableOk t.rd n))
    if bad || (offence (fun _ => false) (s.recBad s.inForce) (t.recBad t.inForce)).isSome then s.refuse 17 off
    else if on || bit v.toNat 31 then (t.nsChanged n).done
    else t.done

/-- A write of ENABLE. -/
def execNamespaceEnable (o : Sys2Proof.Origin) (n : Fin 1024) (v : Word) (s : State) : Host.Outcome State Fault Refusal :=
  (s.nsWrite o n v).1.after

/-- The FLUSH_ACK of the notice before ring index `i` is sent. -/
def State.noticeDone (s : State) (i : Nat) : State :=
  match s.shx.conns.find? fun (_, x) => x.notices.any fun n => n.1 == i with
  | some (c, x) =>
      match x.notices.find? fun n => n.1 == i with
      | some (_, psn) => (s.sendFlushAck c psn).modConn c fun y => { y with notices := y.notices.filter fun n => n.1 != i }
      | none => s
  | none => s

/-- A write of DONE (R439, R361). -/
def State.targetDone (s : State) (o : Sys2Proof.Origin) (v : Nat) : WRes :=
  s.gate o 17 0x110C (s.rwlDiffers (NvfTarget.adr + 0xC) (BitVec.ofNat 32 v)) false fun s =>
    let a := NvfTarget.adr
    let m := 2 * s.targetN
    let old := s.get a NvfTarget.done
    let d := qDist m old v
    if m ≤ v ∨ qDist m old (s.get a NvfTarget.head) < d then s.refuse 17 0x110C
    else (((List.range d).foldl (fun s i => s.noticeDone ((old + i + 1) % m)) (s.set a NvfTarget.done v)).nvSweep).done

/-- A DONE write. -/
def execTargetDone (o : Sys2Proof.Origin) (v : BitVec 16) (s : State) : Host.Outcome State Fault Refusal := (s.targetDone o v.toNat).out

/-! ## The cycle recorder (R441, R442) -/

/-- The record of a publish takes a range-lock entry and goes to U16, or the cycle is skipped. -/
def State.record (s : State) (x : NvRec) : State :=
  let a := NvfRec.adr x.rope
  let n := s.act a NvfRec.ns
  let k := recLbas s.inForce x.rope
  let lba := s.act a NvfRec.startLba + x.cycle % max 1 (s.act a NvfRec.slots) * k
  let l : NvLock :=
    { id := s.nvf.nextId, sq := none, cid := 0, rope := x.rope, op := 1, nss := [n], lba := lba, blocks := k, fua := false, prp1 := 0, prp2 := 0
      phase := .sent, flushed := false }
  let skip := !s.ready 17 || !s.actB (NvfNs.adr n) NvfNs.enable || decide (lockSlots ≤ s.nvf.locks.length)
    || (s.nvf.locks.any fun y => y.sq == none && y.rope == x.rope && s.unhanded y.id != 0)
    || lockBlocked l s.nvf.locks || (s.lockConns l).any fun c => !s.connIsOpen c
  if skip then s.raise 4 11 x.rope
  else (s.takeLock l).issueOps l.id opWRITE none (s.lockOps l) (s.recordBytes x) []

/-- The publish that is recorded next: of those that wait longest, made in one cycle, the one of the lowest rope (R441). -/
def State.recNext (s : State) : Option NvRec :=
  match s.nvf.recDue with
  | [] => none
  | x :: xs => some ((xs.takeWhile fun y => y.stamp == x.stamp).foldl (fun m y => if y.rope < m.rope then y else m) x)

/-- The recorder of rope `r` takes its publish when it is its turn. -/
def execRecordStart (r : Fin 16) (s : State) : Host.Outcome State Fault Refusal :=
  match s.recNext with
  | none => .next s
  | some x =>
      if x.rope = r.val then ((s.modNvf fun v => { v with recDue := v.recDue.filter fun y => y.rope != r.val }).record x).after
      else .next s

/-! ## Reset and hold (R438, R445) -/

/-- A unit reset of U17. -/
def State.nvfReset (s : State) : State := s.nvFail

/-- Release of a hold of U17. -/
def State.nvfResume (s : State) : State := s.nvSweep

end Sys2Proof.Machine
end

