-- ==== Sys2Proof/Machine/SliceOps.lean ====
section
/-!
DEFINITION. What a slice holds (R596), its release (R350), and its state blob (R351–R353, R378, R417, R468).
-/

namespace Sys2Proof.Machine

/-! ## Resources (R596) -/

/-- The classes of sliced resources: queues by kind (0–4), then as named. -/
def rcTM : Nat := 5
def rcROPE : Nat := 6
def rcSTATION : Nat := 7
def rcAXIS : Nat := 8
def rcEMT : Nat := 9
def rcTCAM : Nat := 10
def rcCONN : Nat := 11
def rcREGION : Nat := 12
def rcNVME : Nat := 13
def rcKEY : Nat := 14

/-- ENABLE of a class B block, shadow or active. -/
def State.enabledEither (s : State) (a : Nat) (f : Fld) : Bool := s.getB a f || s.actB a f

/-- Every enabled resource, by class and index (R596). -/
def State.resources (s : State) : List (Nat × Nat) :=
  (s.liveQueues.filter fun x => s.qState x.1 x.2 != qsDISABLED)
  ++ ((s.listed 0xD40000 0x20 12288).filter fun q => s.actB (TmQueue.adr q) TmQueue.enable).map (fun q => (rcTM, q))
  ++ ((List.range 16).filter fun r => s.enabledEither (CxeRope.adr r) CxeRope.enable).map (fun r => (rcROPE, r))
  ++ ((s.listed 0x440000 0x40 4096).filter fun n => s.enabledEither (CxeStn.adr n) CxeStn.enable).map (fun n => (rcSTATION, n))
  ++ ((s.listed 0x580000 0x40 4096).filter fun a => s.enabledEither (MpiAxis.adr a) MpiAxis.enable).map (fun a => (rcAXIS, a))
  ++ (List.range 16).flatMap (fun t => (s.tab t).owned.map fun o => (rcEMT, t * 256 + o.1))
  ++ ((List.range 8).filter s.partOn).flatMap (fun p => (s.validIn p).map fun i => (rcTCAM, tcmId p i))
  ++ (s.shx.conns.filter fun x => x.2.kind == ckRING).map (fun x => (rcCONN, x.1))
  ++ (s.shx.regions.filter fun x => x.2.valid && !x.2.lead).map (fun x => (rcREGION, x.1))
  ++ ((s.nvf.sqs.map (·.1) ++ s.nvf.cqs.map (·.1)).filter (· != 0)).map (fun y => (rcNVME, y))
  ++ ((s.listed 0x1240000 4 4096).filter fun i => s.keyState i == 1).map (fun i => (rcKEY, i))

/-- The slice that a resource belongs to. -/
def State.resOwner (s : State) (c i : Nat) : Option Nat :=
  match c with
  | 5 => some (s.tmSlice i)
  | 6 => some (s.ropeSlice i)
  | 7 => s.sliceOfStation i
  | 8 => s.axisSlice s.inForce i
  | 9 => some (i % 256)
  | 10 => ownerFrom (s.aclRange (i / 262144)) (i % 262144) s.owners 0
  | 11 => s.ownerOf .conn i
  | 12 => let k := (s.region i).slice; if inShare (s.regionShare k) i then some k else none
  | 13 => s.ownerOf .nvme (i - 1)
  | 14 => s.ownerOf .key i
  | _ => s.qOwner c i

/-- The resources of slice `k`. -/
def State.ofSlice (s : State) (k : Nat) : List (Nat × Nat) := s.resources.filter fun x => s.resOwner x.1 x.2 == some k

/-- A resource of slice `k` is enabled (R347). -/
def State.sliceBusy (s : State) (k : Nat) : Bool := !(s.ofSlice k).isEmpty

/-- Every enabled resource that has an owner in `s` has the same owner in `t` (R346). -/
def State.ownersKept (s t : State) : Bool :=
  s.resources.all fun x => match s.resOwner x.1 x.2 with
    | some k => t.resOwner x.1 x.2 == some k
    | none => true

/-! ## Release (R350) -/

/-- Commands of the queues that `p` picks leave U17 with their queues (R350). -/
def State.nvDrop (s : State) (y : Nat) : State :=
  (s.orphan (· == y)).modNvf fun v =>
    { v with sqs := sdel v.sqs y, cqs := sdel v.cqs y, held := v.held.filter fun d => d.cq != y }

/-- One resource of slice `k` is disabled at once. -/
def State.disableRes (s : State) (k : Nat) (x : Nat × Nat) : State :=
  let i := x.2
  match x.1 with
  | 5 => s.set (TmQueue.adr i) TmQueue.enable 0
  | 6 => (s.set (CxeRope.adr i) CxeRope.enable 0).ropeOff i
  | 7 => (s.set (CxeStn.adr i) CxeStn.enable 0).modStn i fun x => { x with armed := false, gather := Gather.none }
  | 8 => (s.set (MpiAxis.adr i) MpiAxis.enable 0).setAxis i axOFF 0
  | 9 =>
      let t := i / 256
      ((s.tab t).owned.filter fun o => o.1 == k).foldl (fun s o =>
        match s.slotOf t o.2 with
        | some (j, _) => ((s.clearSlot t j).disown t o.2).migrate t
        | none => s.disown t o.2) s
  | 10 => s.tcamClear (i / 262144) (i % 262144)
  | 11 => match s.conn i with | some c => s.connFree i c | none => s
  | 12 => s.regionDrop i
  | 13 => s.nvDrop i
  | 14 => s.clearKey i
  | c => s.qKill c i

/-- The ropes that slice `k` owns. -/
def State.ownedRopes (s : State) (k : Nat) : List Nat := (List.range 16).filter fun r => s.ropeSlice r == k

/-- No freeze of slice `k` waits for its ropes any more. -/
def State.unfreezeRopes (s : State) (k : Nat) : State :=
  (s.ownedRopes k).foldl (fun s r => s.modRope r fun x => { x with freeze := false }) s

/-- RELEASE: every resource of slice `k` is disabled. -/
def State.sliceRelease (s : State) (k : Nat) : State :=
  ((s.ofSlice k).foldl (fun s x => s.disableRes k x) s).unfreezeRopes k

/-! ## The blob (R352) -/

/-- What the body of a blob section without a stated layout holds.  Words of a block stand by index, with indices of
sliced resources relative to the start of the slice's share. -/
inductive Body
  /-- Owned ropes with the words of CXE_ROPE_CFG, stations with their words and status, live output bytes (R178). -/
  | cxe (ropes stns : List (Nat × List Word)) (live : List (Nat × Byte))
  /-- Axes with the words of MPI_AXIS and of their state. -/
  | mpi (axes : List (Nat × List Word × List Word))
  /-- Queues with their words, and the slice's weight. -/
  | tm (queues : List (Nat × List Word)) (weight : Nat)
  /-- Installed entries by table. -/
  | emt (entries : List (Nat × List Byte))
  /-- ACL entries by partition and index. -/
  | tcam (entries : List (Nat × Nat × TEntry))
  /-- Connections with their packets and ring entries, regions, and held timed writes (R417). -/
  | shardo (conns : List (Nat × Conn)) (regions : List (Nat × Region)) (held : List HeldWrite)
  /-- Queues, held commands, held completions, and in-doubt commands. -/
  | nvme (sqs : List (Nat × NvSq)) (cqs : List (Nat × NvCq)) (locks : List NvLock) (dones : List NvDone)
      (inDoubt : List (Nat × Nat))
  deriving DecidableEq, Repr

end Sys2Proof.Machine

namespace Sys2Proof

/-- DESIGN CHOICE (log 35). The bytes of a section body of a blob VERSION whose layout the spec does not give. -/
opaque Config.blobBody : Nat → Machine.Body → List Byte

/-- DESIGN CHOICE (log 35). What the device reads from such a body, by section TYPE and blob VERSION. -/
opaque Config.blobRead : Nat → Nat → List Byte → Option Machine.Body

end Sys2Proof

namespace Sys2Proof.Machine

/-- The unit that a section TYPE concerns. -/
def sectUnit : Nat → Nat
  | 1 => 14 | 2 => 15 | 3 => 4 | 4 => 5 | 5 => 13 | 6 => 11 | 7 => 12 | 8 => 16 | 9 => 17 | 10 => 18 | _ => 14

/-- Unit `u` is ABSENT, or without power at this scale. -/
def State.absent (s : State) (u : Nat) : Bool := scaleOff s.scale u || s.ustate u == stABSENT

/-- `n` words in force from `a`. -/
def State.wordsAt (s : State) (a n : Nat) : List Word := (List.range n).map fun w => s.inForce (a + 4 * w)

/-- Bits of a word replaced by `v`. -/
def setField (w : Word) (hi lo v : Nat) : Word :=
  let m := (2 ^ (hi + 1 - lo) - 1) * 2 ^ lo
  BitVec.ofNat 32 (w.toNat - (w.toNat &&& m) + v * 2 ^ lo % 2 ^ (hi + 1))

/-- Bits of a word with `f` applied to them. -/
def onField (w : Word) (hi lo : Nat) (f : Nat → Nat) : Word := setField w hi lo (f (bits w.toNat hi lo) % 2 ^ (hi + 1 - lo))

/-- The word at index `i` changed. -/
def onWord (l : List Word) (i : Nat) (f : Word → Word) : List Word := l.modify i f

/-- Relative to a base, and back. -/
def rel (b i : Nat) : Nat := i - b
def unrel (b i : Nat) : Nat := b + i

/-- SHARES. -/
def State.blobShares (s : State) (k : Nat) : List Byte :=
  Res.all.flatMap fun r => let sh := s.share r k; leBytes 4 sh.1 ++ leBytes 4 sh.2

/-- The first of a slice's queues of a kind. -/
def State.qBase (s : State) (k kind : Nat) : Nat :=
  match kind with
  | 0 => (s.share .txq k).1
  | 1 => (s.share .rxq k).1
  | 2 => (s.share .evq k).1
  | _ => k

/-- The number of a slice's queues of a kind. -/
def State.qShare (s : State) (k kind : Nat) : Nat :=
  match kind with
  | 0 => (s.share .txq k).2
  | 1 => (s.share .rxq k).2
  | 2 => (s.share .evq k).2
  | 3 => 1
  | _ => 0

/-- QUEUES (R378). -/
def State.blobQueues (s : State) (k : Nat) : List Byte :=
  let qs := (s.ofSlice k).filter fun x => x.1 < 4
  let vb := (s.share .vector k).1
  leBytes 16 qs.length ++ qs.flatMap fun (kind, q) =>
    let a := qAdr kind q
    leBytes 1 kind ++ leBytes 1 (s.qState kind q) ++ leBytes 2 (q - s.qBase k kind) ++ leBytes 2 (s.qHead kind q)
      ++ leBytes 2 (s.qTail kind q) ++ leBytes 1 (s.get a QeTxq.error) ++ leBytes 1 (s.get a QeTxq.overflow)
      ++ leBytes 2 (s.get a QeTxq.errorIndex) ++ [0, 0, 0, 0]
      ++ (onWord (s.wordsAt a 8) 6 fun w => onField w 30 20 (rel vb)).flatMap (fun w => leBytes 4 w.toNat)
      ++ List.replicate 16 0

/-- KEYS (R468). -/
def State.blobKeys (s : State) (k : Nat) : List Byte :=
  let ks := (s.ofSlice k).filter fun x => x.1 == rcKEY
  let b := (s.share .key k).1
  leBytes 16 ks.length ++ ks.flatMap fun (_, i) =>
    let a := IgeKey.adr i
    leBytes 2 (i - b) ++ leBytes 14 (s.get a IgeKey.mode + 2 * s.get a IgeKey.size) ++ slice (sget [] s.ige.keys i) 0 32

/-- Byte `o` of an output buffer, the second one or the first, is live and in slice `k`'s share. -/
def State.liveIn (s : State) (k : Nat) (second : Bool) (o : Nat) : Bool :=
  inShare (s.sliceImage k 1) o
    && (match s.outOwner (s.stations s.inForce) o with | some n => (s.stn n).outSel == second | none => !second)

/-- Live output bytes of slice `k`'s share that are not 0 (R178). -/
def State.liveBytes (s : State) (k : Nat) : List (Nat × Byte) :=
  ((s.cxe.out0.filter fun x => s.liveIn k false x.1) ++ s.cxe.out1.filter fun x => s.liveIn k true x.1).map
    fun x => (x.1 - (s.sliceImage k 1).1, x.2)

/-- The live output bytes of slice `k`'s share are all 0. -/
def State.liveClear (s : State) (k : Nat) : State :=
  { s with cxe := { s.cxe with
      out0 := s.cxe.out0.filter fun x => !s.liveIn k false x.1
      out1 := s.cxe.out1.filter fun x => !s.liveIn k true x.1 } }

/-- The ropes that slice `k` owns and the stations of its share, enabled or not, of which a register is listed (R178). -/
def State.blobRopes (s : State) (k : Nat) : List Nat := (s.listed 0x401100 0x40 16).filter fun r => s.ropeSlice r == k
def State.blobStations (s : State) (k : Nat) : List Nat := s.knownStations.filter fun n => s.sliceOfStation n == some k

/-- CXE: the offsets of a station's ranges and the mirror's places are relative to the slice's shares. -/
def State.bodyCxe (s : State) (k : Nat) : Body :=
  let sb := (s.sliceStations k).1
  let ob := (s.sliceImage k 1).1
  let ib := (s.sliceImage k 2).1
  .cxe ((s.blobRopes k).map fun r =>
      (r, onWord (onWord (s.wordsAt (CxeRope.adr r) 11) 8 fun w => onField w 14 0 (rel (ib / 64))) 9 fun w => onField w 11 0 (rel sb)))
    ((s.blobStations k).map fun n =>
      (n - sb, onWord (onWord (s.wordsAt (CxeStn.adr n) 4) 1 fun w => onField w 20 0 (rel ob)) 2 fun w => onField w 20 0 (rel ib)))
    (s.liveBytes k)

/-- MPI. -/
def State.bodyMpi (s : State) (k : Nat) : Body :=
  .mpi (((s.ofSlice k).filter fun x => x.1 == rcAXIS).map fun (_, a) =>
    (a, onWord (s.wordsAt (MpiAxis.adr a) 15) 0 (fun w => onField w 11 0 (rel (s.sliceStations k).1)), s.wordsAt (MpiAxisState.adr a) 4))

/-- The first TM port queue of slice `k`: that of its equal share, or the first that names it in SERVICE mode. -/
def State.tmBase (s : State) (k : Nat) : Nat := (s.tmShare k).1

/-- TM. -/
def State.bodyTm (s : State) (k : Nat) : Body :=
  .tm (((s.ofSlice k).filter fun x => x.1 == rcTM && decide (x.2 < 12288)).map fun (_, q) => (q - s.tmBase k, s.wordsAt (TmQueue.adr q) 6))
    (s.act (TmSliceWeight.adr k) TmSliceWeight.weight)

/-- EMT. -/
def State.bodyEmt (s : State) (k : Nat) : Body :=
  .emt ((List.range 16).flatMap fun t => ((s.tab t).owned.filter fun o => o.1 == k).filterMap fun o =>
    (s.slotOf t o.2).map fun x => (t, x.2))

/-- TCAM. -/
def State.bodyTcam (s : State) (k : Nat) : Body :=
  .tcam (((s.ofSlice k).filter fun x => x.1 == rcTCAM).map fun (_, i) =>
    (i / 262144, i % 262144 - (s.aclRange (i / 262144) k).1, s.verified (i / 262144) (i % 262144)))

/-- The VECTOR of a connection's context changed. -/
def Conn.onVector (x : Conn) (f : Nat → Nat) : Conn :=
  { x with ctx := patch x.ctx 72 (leBytes 4 (onField (BitVec.ofNat 32 (x.at_ 72 4)) 30 20 f).toNat) }

/-- SHARDO; VERSION 1 leaves the timed writes out (R351). -/
def State.bodyShx (s : State) (k ver : Nat) : Body :=
  let cb := (s.share .conn k).1
  let rb := (s.regionShare k).1
  let l := s.ofSlice k
  let timed (p : Pkt) : Bool := ver == 2 || p.op != opTIMED_WRITE
  .shardo ((l.filter fun x => x.1 == rcCONN).filterMap fun (_, c) => (s.conn c).map fun x =>
      (c - cb, { x.onVector (rel (s.share .vector k).1) with out := [], quiet := none, pkts := x.pkts.filter timed, work := x.work.filter fun w => timed w.pkt }))
    ((l.filter fun x => x.1 == rcREGION).map fun (_, i) => (i - rb, s.region i))
    (if ver = 2 then ((s.shx.held.filter fun h => (s.region h.region).slice == k && !(s.region h.region).lead).map fun h =>
      { h with region := h.region - rb, conn := h.conn - cb }) else [])

/-- The commands of slice `k`'s queues. -/
def State.nvMine (s : State) (k : Nat) (y : Nat) : Bool := y != 0 && s.ownerOf .nvme (y - 1) == some k

/-- NVME: commands that are held, and completions that wait for room. -/
def State.bodyNvf (s : State) (k : Nat) : Body :=
  let b := (s.share .nvme k).1
  let vb := (s.share .vector k).1
  .nvme ((s.nvf.sqs.filter fun x => s.nvMine k x.1).map fun (y, q) =>
      (y - b, { q with cq := q.cq - b, asked := 0
                       head := (q.head + q.size - (s.nvf.fetched.filter fun x => x.sq == y && x.entry.isSome).length) % q.size }))
    ((s.nvf.cqs.filter fun x => s.nvMine k x.1).map fun (y, q) => (y - b, { q with vector := q.vector - vb }))
    ((s.nvf.locks.filter fun l => (match l.sq with | some y => s.nvMine k y | none => false) && l.phase != .finished).map fun l =>
      { l with sq := l.sq.map (rel b) })
    ((s.nvf.held.filter fun d => s.nvMine k d.cq).map fun d => { d with cq := d.cq - b, sq := d.sq - b, lock := none })
    ((sget [] s.hif.inDoubt k).map fun (y, c) => (y - b, c))

/-- The sections of slice `k`'s blob, in order of TYPE; a unit that is absent has none. -/
def State.sections (s : State) (k ver : Nat) : List (Nat × List Byte) :=
  ([(1, s.blobShares k), (2, s.blobQueues k), (3, Config.blobBody ver (s.bodyCxe k))]
    ++ (if ver = 2 then [(4, Config.blobBody ver (s.bodyMpi k))] else [])
    ++ [(5, Config.blobBody ver (s.bodyTm k)), (6, Config.blobBody ver (s.bodyEmt k)), (7, Config.blobBody ver (s.bodyTcam k)),
        (8, Config.blobBody ver (s.bodyShx k ver)), (9, Config.blobBody ver (s.bodyNvf k)), (10, s.blobKeys k)]).filter
    fun x => !s.absent (sectUnit x.1)

/-- A section with its header and padding (R352). -/
def sectBytes (x : Nat × List Byte) : List Byte :=
  leBytes 8 x.1 ++ leBytes 8 x.2.length ++ x.2 ++ List.replicate ((16 - x.2.length % 16) % 16) 0

/-- MAGIC of a blob. -/
def blobMagic : Nat := 0x42534B48

/-- The state blob of slice `k` (R352). -/
def State.blob (s : State) (k ver : Nat) : List Byte :=
  let ss := s.sections k ver
  let body := ss.flatMap sectBytes
  let h0 := leBytes 4 blobMagic ++ leBytes 2 ver ++ leBytes 1 s.scale ++ leBytes 1 (s.act HifSliceCfg.adr HifSliceCfg.countLog2)
    ++ leBytes 1 k ++ leBytes 1 ss.length ++ [0, 0]
  let h1 := leBytes 8 (32 + body.length) ++ leBytes 4 (stampOf s.nowNs).toNat ++ leBytes 4 (s.get (HifSlice.adr k) HifSlice.inDoubt)
  h0 ++ leBytes 4 (crc32 (h0 ++ h1 ++ body)) ++ h1 ++ body

/-! ## Restore (R353) -/

/-- The sections that a blob holds: `n` of them from `b`; none where one is cut short. -/
def parseSects : Nat → List Byte → Option (List (Nat × List Byte))
  | 0, _ => some []
  | n + 1, b =>
      let len := leAt b 8 8
      if b.length < 16 + len ∨ leAt b 2 6 ≠ 0 then none
      else (parseSects n (b.drop (16 + (len + 15) / 16 * 16))).map fun l => (leAt b 0 2, (b.drop 16).take len) :: l

/-- Records of `w` bytes behind a count header (R378, R468). -/
def records (w : Nat) (b : List Byte) : List (List Byte) := (List.range (leAt b 0 4)).map fun i => slice b (16 + i * w) w

/-- What a section names fits slice `k`'s shares (R353 check 3). -/
def State.sectFits (s : State) (k ver : Nat) (x : Nat × List Byte) : Bool :=
  match x.1 with
  | 1 => Res.all.all fun r => decide (leAt x.2 (8 * r.index + 4) 4 ≤ (s.share r k).2)
  | 2 => (records 64 x.2).all fun e => decide (leAt e 2 2 < s.qShare k (leAt e 0 1))
  | 10 => (records 48 x.2).all fun e => decide (leAt e 0 2 % 4096 < (s.share .key k).2)
  | t => match Config.blobRead t ver x.2 with
    | some (.cxe _ stns live) =>
        stns.all (fun e => decide (e.1 < (s.sliceStations k).2)) && live.all fun e => decide (e.1 < (s.sliceImage k 1).2)
    | some (.mpi axes) => axes.all fun e => decide (((e.2.1.getD 0 0).toNat % 4096) < (s.sliceStations k).2)
    | some (.tm qs _) => qs.all fun e => decide (e.1 < (s.tmShare k).2)
    | some (.emt es) => (List.range 16).all fun t =>
        decide ((es.filter fun e => e.1 == t).length + s.get (EmtQuota.adr t k) EmtQuota.used ≤ s.quotaLimit t k)
    | some (.tcam es) => es.all fun e => decide (e.2.1 < (s.aclRange e.1 k).2)
    | some (.shardo cs rs _) =>
        cs.all (fun e => decide (e.1 < (s.share .conn k).2)) && rs.all fun e => decide (e.1 < (s.regionShare k).2)
    | some (.nvme sqs cqs _ _ _) =>
        (sqs.map (·.1) ++ cqs.map (·.1)).all fun y => decide (0 < y) && decide (y ≤ (s.share .nvme k).2)
    | none => true

/-- Every rope that a CXE section names is OFF (R353 check 4). -/
def State.sectRopes (s : State) (ver : Nat) (x : Nat × List Byte) : Bool :=
  match Config.blobRead x.1 ver x.2 with
  | some (.cxe ropes _ _) => x.1 != 3 || ropes.all fun e => decide (e.1 < 16) && s.ropeMode e.1 == rmOFF
  | _ => true

/-- Writes words of a block, in the bits of RW and RWL fields. -/
def State.putWords (s : State) (a : Nat) : Nat → List Word → State
  | _, [] => s
  | i, w :: ws =>
      (s.setBits (a + 4 * i) (fieldMask (fun f _ => f.acc == .rw || f.acc == .rwl) (a + 4 * i)) w).putWords a (i + 1) ws

/-- A saved queue comes up with its saved state and TAIL; the summary of an event ring is in no section, and its zeros are
written before the first entry (R353, R378). -/
def State.restoreQueue (s : State) (k : Nat) (e : List Byte) : Option State :=
  let kind := leAt e 0 1
  let q := s.qBase k kind + leAt e 2 2
  let a := qAdr kind q
  let st := leAt e 1 1
  let ctx := (List.range 8).map fun w => BitVec.ofNat 32 (leAt e (16 + 4 * w) 4)
  let s1 := s.putWords a 0 (onWord ctx 6 fun w => onField w 30 20 (unrel (s.share .vector k).1))
  if st = 0 ∨ 3 < st ∨ s.qState kind q ≠ qsDISABLED ∨ !s1.qContextOk kind q then none
  else
    let s2 := (((s1.set a QeTxq.state st).set a QeTxq.head (leAt e 4 2)).set a QeTxq.tail (leAt e 6 2)).set a QeTxq.error (leAt e 8 1)
    let s3 := (s2.set a QeTxq.overflow (leAt e 9 1)).set a QeTxq.errorIndex (leAt e 10 2)
    let s4 := s3.modQ kind q fun _ =>
      { QSt.init with next := leAt e 4 2, zeroDue := kind == qkEV }
    some (if kind = qkRX then s4.rxTm q true else s4)

/-- A saved key slot is loaded (R468). -/
def State.restoreKey (s : State) (k : Nat) (e : List Byte) : Option State :=
  let m := leAt e 2 1
  let (s1, st) := s.keyLoad true ((s.share .key k).1 + leAt e 0 2 % 4096) (m % 2) (m / 2 % 2) (slice e 16 32)
  if st = kyOK then some s1 else none

/-- Enabled ropes come up in HOLD and stations with them, when no check of U04 newly fails (R178). -/
def State.restoreCxe (s : State) (k : Nat) (ropes stns : List (Nat × List Word)) (live : List (Nat × Byte)) : Option State :=
  let sb := (s.sliceStations k).1
  let ob := (s.sliceImage k 1).1
  let ib := (s.sliceImage k 2).1
  let s1 := stns.foldl (fun (s : State) (n, ws) =>
    let a := CxeStn.adr (sb + n)
    let s1 := s.putWords a 0 (onWord (onWord (ws.take 3) 1 fun w => onField w 20 0 (unrel ob)) 2 fun w => onField w 20 0 (unrel ib))
    s1.setReg (a + 0xC) (ws.getD 3 0)) s
  let s2 := ropes.foldl (fun (s : State) (r, ws) =>
    let w0 := onWord (ws.take 11) 0 fun w => setField w 15 8 k
    let s1 := s.putWords (CxeRope.adr r) 0
      (onWord (onWord w0 8 fun w => onField w 14 0 (unrel (ib / 64))) 9 fun w => onField w 11 0 (unrel sb))
    if s1.actB (CxeRope.adr r) CxeRope.enable then
      (s1.set (CxeRope.adr r) CxeRope.stMode rmHOLD).modRope r fun _ => { RopeSt.init with freeze := true, built := true }
    else s1) s1
  let all := s2.stations s2.inForce
  let s3 := live.foldl (fun (s : State) (o, b) =>
    s.imgWrite (match s.outOwner all (ob + o) with | some n => s.liveBuf n | none => .out0) (ob + o) [b]) (s2.liveClear k)
  if (offence (s.moved s3 4) (s.cxeBad s.inForce s.inForce) (s3.cxeBad s.inForce s3.inForce)).isSome then none else some s3

/-- Axes come up. -/
def State.restoreMpi (s : State) (k : Nat) (axes : List (Nat × List Word × List Word)) : Option State :=
  let sb := (s.sliceStations k).1
  if axes.any fun e => decide (4096 ≤ e.1) || s.enabledEither (MpiAxis.adr e.1) MpiAxis.enable then none
  else
    let s1 := axes.foldl (fun (s : State) (a, ws, st) =>
      let s1 := s.putWords (MpiAxis.adr a) 0 (onWord ws 0 fun w => onField w 11 0 (unrel sb))
      (List.range 4).foldl (fun s i => s.setReg (MpiAxisState.adr a + 4 * i) (st.getD i 0)) s1) s
    if (offence (s.moved s1 5) (s.mpiBad s.inForce) (s1.mpiBad s1.inForce)).isSome then none else some s1

/-- TM queues come up. -/
def State.restoreTm (s : State) (k : Nat) (qs : List (Nat × List Word)) (weight : Nat) : State :=
  let s1 := qs.foldl (fun (s : State) (q, ws) => s.putWords (TmQueue.adr (s.tmBase k + q)) 0 (onWord ws 0 fun w => setField w 19 12 k)) s
  if s.service then s1.set (TmSliceWeight.adr k) TmSliceWeight.weight weight else s1

/-- Table entries are installed again (R274). -/
def State.restoreEmt (s : State) (k : Nat) : List (Nat × List Byte) → Option State
  | [] => some s
  | (t, e) :: l =>
      let (s1, st, _, _) := s.emtInsert (some k) t e []
      if st = emOK then s1.restoreEmt k l else none

/-- A connection comes up: with a HELLO that moves it where it was OPEN at version 2, and FAILED at version 1 (R417). -/
def State.restoreConn (s : State) (k ver c : Nat) (ids : List (Nat × Nat)) (x : Conn) : State :=
  let moves := x.state == csOPEN && x.version == 2
  let via (p : Pkt) : Pkt := { p with via := p.via.map fun _ => (s.slicePf k, some (s.slicePasid k)) }
  let y0 := x.onVector (unrel (s.share .vector k).1)
  let y : Conn := { y0 with
    slice := k, closing := none, rtoAt := none, growAt := s.shxNs, decayAt := s.shxNs + s.act ShxCc1.adr ShxCc1.alphaTime * 1000, paceAt := 0
    tCut := none, pause := none, gap := none, ackFrom := x.ackFrom.map fun _ => s.shxNs
    pkts := x.pkts.map via, work := x.work.map fun w => { w with pkt := via w.pkt }
    lastWrite := x.lastWrite.map fun w => (k, w.2)
    todo := x.todo.map fun t => { t with waits := t.waits.filterMap fun i => sfind ids i, issued := false }
    state := if x.state == csOPEN && x.version == 1 then csFAILED else x.state
    epoch := if moves then (x.epoch + 1) % 256 else x.epoch
    hellos := if moves then 1 else x.hellos, helloAt := s.shxNs + s.rtoNs }
  let s1 := (s.putConn c y).ctxEnter c
  if moves then s1.sendHello c true false
  else if x.state == csOPEN && ver != 0 then s1.connFail c 0 else s1

/-- Connections, regions and held timed writes come up; a write whose time has passed is placed at once (R417). -/
def State.restoreShx (s : State) (k ver : Nat) (cs : List (Nat × Conn)) (rs : List (Nat × Region)) (held : List HeldWrite) : Option State :=
  let cb := (s.share .conn k).1
  let rb := (s.regionShare k).1
  let n0 := s.shx.nextHeld
  let ids := (List.range held.length).zip held |>.map fun (i, h) => (h.id, n0 + i)
  let new := (List.range held.length).zip held |>.map fun (i, h) => { h with id := n0 + i, conn := cb + h.conn, region := rb + h.region }
  if cs.any fun e => e.2.kind != ckRING || (s.conn (cb + e.1)).isSome || (s.contextBad (some k) (e.2.onVector (unrel (s.share .vector k).1))).isSome
  then none
  else if heldSlots < s.shx.held.length + held.length then none
  else
    let s1 := rs.foldl (fun (s : State) (i, r) => s.putRegion (rb + i) { r with slice := k, lead := false }) s
    let s2 : State := { s1 with shx := { s1.shx with nextHeld := n0 + held.length } }
    let s3 := cs.foldl (fun (s : State) (c, x) => s.restoreConn k ver (cb + c) ids x) s2
    some (new.foldl (fun (s : State) h =>
      if h.due < (s.lineNs : Int) then
        (((s.connPlace h.conn h.region h.addr h.data).shxStat ShxStat.twLate).shxEvent 9 h.conn 0).tickFree
      else s.setHeld (insertHeld h s.shx.held)) s3)

/-- NVMe queues, held commands and held completions come up. -/
def State.restoreNvf (s : State) (k : Nat) (sqs : List (Nat × NvSq)) (cqs : List (Nat × NvCq)) (locks : List NvLock)
    (dones : List NvDone) (doubt : List (Nat × Nat)) : Option State :=
  let b := (s.share .nvme k).1
  let vb := (s.share .vector k).1
  if lockSlots < s.nvf.locks.length + locks.length ∨ !s.nvReady ∨ (cqs.any fun e => !s.vectorOk k (vb + e.2.vector)) then none
  else
    let n0 := s.nvf.nextId
    let ls := (List.range locks.length).zip locks |>.map fun (i, l) =>
      { l with id := n0 + i, sq := l.sq.map (unrel b), phase := if l.phase == .before then .before else .stalled }
    let s1 := cqs.foldl (fun (s : State) (y, q) => s.putCq (b + y) { q with vector := vb + q.vector }) s
    let s2 := sqs.foldl (fun (s : State) (y, q) => s.putSq (b + y) { q with cq := b + q.cq, asked := 0 }) s1
    let s3 := (s2.modNvf fun v => { v with
      nextId := n0 + locks.length
      held := v.held ++ dones.map fun d => { d with cq := b + d.cq, sq := b + d.sq, lock := none } }).setLocks (s2.nvf.locks ++ ls)
    some { s3 with hif := { s3.hif with inDoubt := sput [] s3.hif.inDoubt k (doubt.map fun (y, c) => (b + y, c)) } }

/-- A unit accepts its section, which brings the slice's resources up; none where it refuses it (R353 check 6). -/
def State.sectAccept (s : State) (k ver : Nat) (x : Nat × List Byte) : Option State :=
  match x.1 with
  | 1 => some s
  | 2 => (records 64 x.2).foldl (fun o e => o.bind fun s => s.restoreQueue k e) (some s)
  | 10 => (records 48 x.2).foldl (fun o e => o.bind fun s => s.restoreKey k e) (some s)
  | t => match t, Config.blobRead t ver x.2 with
    | 3, some (.cxe ropes stns live) => s.restoreCxe k ropes stns live
    | 4, some (.mpi axes) => s.restoreMpi k axes
    | 5, some (.tm qs w) => some (s.restoreTm k qs w)
    | 6, some (.emt es) => s.restoreEmt k es
    | 7, some (.tcam es) => some (es.foldl (fun (s : State) e => s.tcamPut e.1 ((s.aclRange e.1 k).1 + e.2.1) e.2.2) s)
    | 8, some (.shardo cs rs held) => s.restoreShx k ver cs rs held
    | 9, some (.nvme sqs cqs ls ds dt) => s.restoreNvf k sqs cqs ls ds dt
    | _, _ => none

/-- KEYS come up before what they protect: connections send their HELLOs under them (R417, R468). -/
def keysFirst (l : List (Nat × List Byte)) : List (Nat × List Byte) := (l.filter fun x => x.1 == 10) ++ l.filter fun x => x.1 != 10

/-- STATUS codes of HIF_SLICE (R356). -/
def slOK : Nat := 0
def slBAD_STATE : Nat := 1
def slNO_SPACE : Nat := 2
def slBAD_BLOB : Nat := 3
def slBAD_VERSION : Nat := 4
def slNO_ROOM : Nat := 5
def slROPE_BUSY : Nat := 6
def slUNIT_ABSENT : Nat := 7
def slSECTION_REFUSED : Nat := 8
def slABORTED : Nat := 9

/-- The checks of R353 in order: the state with everything up, or the STATUS of the first that fails. -/
def State.restore (s : State) (k : Nat) (b : List Byte) : Except Nat State :=
  let len := leAt b 16 8
  let ver := leAt b 4 2
  let whole := b.take len
  if leAt b 0 4 ≠ blobMagic ∨ len < 32 ∨ s.act (HifSlice.adr k) HifSlice.blobSize < len ∨ b.length < len
      ∨ crc32 (whole.take 12 ++ whole.drop 16) ≠ leAt b 12 4 then .error slBAD_BLOB
  else if ver ≠ 1 ∧ ver ≠ 2 then .error slBAD_VERSION
  else
    let ss := (parseSects (leAt b 9 1) (whole.drop 32)).getD []
    if !ss.all (s.sectFits k ver) then .error slNO_ROOM
    else if !ss.all (s.sectRopes ver) then .error slROPE_BUSY
    else if ss.any fun x => s.absent (sectUnit x.1) then .error slUNIT_ABSENT
    else if (parseSects (leAt b 9 1) (whole.drop 32)).isNone then .error slSECTION_REFUSED
    else match (keysFirst ss).foldl (fun o x => o.bind fun s => s.sectAccept k ver x) (some s) with
      | some t => .ok t
      | none => .error slSECTION_REFUSED

end Sys2Proof.Machine
end

