-- ==== Sys2Proof/Machine/HostIf.lean ====
section
/-!
DEFINITION. The commands of the host interface: the link, the functions, translation and slices (R325–R356).
-/

namespace Sys2Proof.Machine

/-! ## The four functions (R327, R328) -/

/-- What identifies a function: its device, its class code, and the bytes of its BAR0, BAR2 and BAR4, 0 for none. -/
structure FnIdent where
  device : Nat
  classCode : Nat
  bar0 : Nat
  bar2 : Nat
  bar4 : Nat
  deriving DecidableEq, Repr

/-- The Vendor ID of every function. -/
def vendorId : Nat := 0x1F8C

/-- PF0 to PF3. -/
def fnIdents : List FnIdent :=
  [⟨0x4160, 0x028000, 0x4000000, 0x800000, 0x200000⟩, ⟨0x4161, 0x020000, 0, 0, 0x200000⟩,
   ⟨0x4162, 0x010802, 0x1000000, 0, 0x200000⟩, ⟨0x4163, 0x120000, 0, 0, 0x200000⟩]

/-- Subsystem Vendor ID and Subsystem ID of function `f`: its Vendor ID and Device ID, unless a record has set
HIF_SUBSYS, whose SUBSYS_ID is that of PF0, and PF n reads it plus n (R327, R356). -/
def State.subsystem (s : State) (f : Nat) : Nat × Nat :=
  if s.rd HifSubsys.adr = resetWord HifSubsys.adr then (vendorId, (fnIdents.map (·.device)).getD f 0)
  else (s.get HifSubsys.adr HifSubsys.subsysVendor, (s.get HifSubsys.adr HifSubsys.subsysId + f) % 65536)

/-- The slice whose page answers at offset `off` of BAR4 of function `f`. -/
def State.pageSlice (s : State) (f off : Nat) : Option Nat :=
  let k := (off - 0x100000) / 0x1000
  if 0x100000 ≤ off ∧ off < 0x200000 ∧ s.bound k ∧ s.slicePf k = f then some k else none

/-- The register that offset `d` of slice `k`'s page names, as an address in PF0 BAR0 (R559). -/
def pageReg (k d : Nat) : Option Nat :=
  if 0x100 ≤ d ∧ d < 0x130 then some (QeScq.adr k + (d - 0x100))
  else if d = 0x200 then some (HifSlice.adr k + 4)
  else none

/-- Event `n` of U14 about function `f` and, where one is concerned, slice `k` (R354). -/
def State.hifEvent (s : State) (n f : Nat) (k : Option Nat) : State := s.raise 14 n (f + 65536 * k.getD 0)

/-! ## What a cut of the host path takes (R337–R340) -/

/-- The slice that a read serves. -/
def State.readerSlice (s : State) (r : Reader) : Option Nat :=
  match r with
  | .queue k q => s.qOwner k q
  | .integrity q => s.qOwner qkIR q
  | .sq y => s.nvSlice y
  | .conn c => match s.conn c with | some x => if x.kind = ckRING then some x.slice else none | none => none
  | .remote c => match s.conn c with
    | some x => match x.todo with
      | t :: _ => if (s.region t.region).lead then none else some (s.region t.region).slice
      | [] => none
    | none => none
  | .nvme i => match s.lock i with | some l => l.sq.bind s.nvSlice | none => none
  | .blob k => some k
  | .arg k => some k
  | .other k => k
  | _ => none

/-- A queue whose completion or write is lost, or a connection's send ring, halts. -/
def State.loses (s : State) (reason : Nat) (r : Reader) : State :=
  match r with
  | .queue k q => s.qHalt k q reason
  | .integrity q => s.qHalt qkIR q reason
  | .conn c => s.connHalt c reason
  | .remote c => s.modConn c fun x => { x with todo := match x.todo with | t :: ts => { t with issued := false } :: ts | [] => [] }
  | .nvme i => s.modLock i fun l => if l.phase == .sent || l.phase == .finished then l else { l with phase := .stalled }
  | .sq y => match s.sq y with
    | some q => (s.putSq y { q with asked := 0 }).modNvf fun v => { v with fetched := dropUnread y v.fetched }
    | none => s
  | .cq _ => s.nvFail
  | .arg k => s.qHalt qkSC k reason
  | .shxCmd => s.shxLost
  | _ => s

/-- The queues whose requests wait for a translation. -/
def waitReaders (f : Nat) (l : List (Nat × XReq)) : List Reader :=
  l.filterMap fun x => if x.1 = f then (match x.2 with | .write _ b _ _ _ => b | .read _ _ _ r => some r | .msix _ => none) else none

/-- The reads of function `f` that no queue waits for any more: their tags stay in use until they end (R337). -/
def State.orphanReads (s : State) (f : Nat) : List HostRead :=
  s.hif.reads.map fun x => if x.fn = f then { x with reader := match x.reader with
    | .queue k q => .queue k q
    | .integrity q => .integrity q
    | .conn c => .conn c
    | r => .other (s.readerSlice r) } else x

/-- Every tag of function `f` is retired (R338, R339). -/
def State.retireReads (s : State) (f : Nat) : State :=
  ({ s with hif := { s.hif with reads := s.hif.reads.filter fun x => x.fn != f } } : State).sweep

/-- Function `f` has no translations, and waits for none. -/
def State.noXlate (s : State) (f : Nat) : State :=
  { s with hif := { s.hif with atc := s.hif.atc.filter fun x => x.1 != f, asked := s.hif.asked.filter fun x => x.1 != f } }

/-- The drain rule on function `f`, with a reason (R337): requests that HIF has not issued are discarded, what lost a
completion or a write halts, and the completions that still come are discarded. -/
def State.cut (s : State) (f reason : Nat) : State :=
  let lost := ((s.hif.reads.filter fun x => x.fn == f).map (·.reader)) ++ waitReaders f s.hif.xlate
  let left := s.orphanReads f
  let s1 : State := { s with hif := { s.hif with xlate := s.hif.xlate.filter fun x => x.1 != f, asked := s.hif.asked.filter fun x => x.1 != f } }
  let s2 := lost.foldl (fun (s : State) r => s.loses reason r) s1
  let s3 : State := { s2 with hif := { s2.hif with reads := left } }
  ((if f = 2 then s3.nvFail else s3).sweep).deregEnds

/-! ## The link (R339, R340) -/

/-- The device-side link is lost. -/
def State.linkDown (s : State) : State :=
  let a := HifLink.adr
  let s1 := ((((s.set a HifLink.up 0).set a HifLink.speed 0).set a HifLink.width 0).set a HifLink.flit 0).set a HifLink.l0pWidth 0
  let s2 : State := { s1 with hif := { s1.hif with linkLost := true } }
  let s3 := (List.range 4).foldl (fun s f => (s.cut f qrLINK).retireReads f) s2
  (s3.hostLost none).hifEvent 6 0 none

/-- What Device Control of a function holds after a reset: tags of 14 bits in FLIT mode (R325). -/
def State.freshPf (s : State) : PfSt :=
  { PfSt.init with dev := { DevControl.init with tagBits := if s.getB HifLink.adr HifLink.flit then 14 else 10 } }

/-- Function `f` starts as after a conventional reset, with BME 0. -/
def State.pfStart (s : State) (f : Nat) : State :=
  let a := HifPfStatus.adr f
  (((s.noXlate f).modPf f fun _ => s.freshPf).set a HifPfStatus.bme 0).set a HifPfStatus.d3hot 0

/-- The link is up again: an FLR that the loss met ends in the same cycle, after LINK_UP (R340). -/
def State.linkUp (s : State) : State :=
  let s1 : State := { s with hif := { s.hif with linkLost := false } }
  let s2 := (((List.range 4).foldl State.pfStart s1).set HifLink.adr HifLink.up 1).hifEvent 7 0 none
  (List.range 4).foldl (fun s f =>
    if s.getB (HifPfStatus.adr f) HifPfStatus.flrBusy then (s.set (HifPfStatus.adr f) HifPfStatus.flrBusy 0).hifEvent 5 f none else s) s2

/-- Link loss. -/
def execLinkDown (s : State) : Host.Outcome State Fault Refusal := if s.hif.linkLost then .next s else .next s.linkDown

/-- The link reaches L0, at a speed and width. -/
def execLinkUp (speed : BitVec 4) (width : BitVec 3) (flit : Bool) (l0p : BitVec 3) (s : State) :
    Host.Outcome State Fault Refusal :=
  let a := HifLink.adr
  if s.hif.linkLost && !s.dark 14 && !s.asleep then
    let s1 := (((s.set a HifLink.speed speed.toNat).set a HifLink.width width.toNat).set a HifLink.flit (b2n flit)).set a HifLink.l0pWidth l0p.toNat
    .next s1.linkUp
  else .next s

/-- A hot reset: a link loss followed at once by link-up, at the speed and width that the link had. -/
def execHotReset (s : State) : Host.Outcome State Fault Refusal :=
  if s.hif.linkLost then .next s
  else .next ((s.linkDown.setReg HifLink.adr (s.rd HifLink.adr)).linkUp)

/-! ## Functions (R334, R337, R338, R341) -/

/-- Bus Master Enable of a function is cleared. -/
def execBmeCleared (f : Fin 4) (s : State) : Host.Outcome State Fault Refusal :=
  if s.bme f ∧ !s.hif.linkLost ∧ !s.getB (HifPfStatus.adr f) HifPfStatus.flrBusy then
    let s1 := (s.set (HifPfStatus.adr f) HifPfStatus.bme 0).cut f qrBME
    .next ((s1.hostLost (some f.val)).hifEvent 4 f none)
  else .next s

/-- What the host has written to Device Control and Device Control 2 of a function (R325). -/
def DevControl.take (d : DevControl) (w : Sys2Proof.DevWrite) : DevControl :=
  { d with payload := 128 * 2 ^ w.payload.val, readRequest := 128 * 2 ^ w.readRequest.val, timeoutRange := w.timeoutRange.val
           timeoutOff := w.timeoutOff }

/-- Bus Master Enable of a function is set; ATS Enable and the Device Control registers travel with the write (DESIGN CHOICE,
log 13). -/
def execBmeSet (f : Fin 4) (ats : Bool) (dev : Sys2Proof.DevWrite) (s : State) : Host.Outcome State Fault Refusal :=
  if s.hif.linkLost ∨ s.getB (HifPfStatus.adr f) HifPfStatus.flrBusy then .next s
  else
    let s1 := ((s.set (HifPfStatus.adr f) HifPfStatus.bme 1).set (HifPfStatus.adr f) HifPfStatus.d3hot 0).modPf f fun p => { p with atsEnable := ats, dev := p.dev.take dev }
    let s2 := (if ats then s1 else s1.noXlate f).msixFlush f
    if f.val = 3 then .next s2.shxResume else .next s2.nvSweep

/-- A Function Level Reset begins (R338, R340). -/
def execFlr (f : Fin 4) (s : State) : Host.Outcome State Fault Refusal :=
  let a := HifPfStatus.adr f
  if s.hif.linkLost ∨ s.getB a HifPfStatus.flrBusy then .next s
  else
    let s1 := ((s.set a HifPfStatus.flrBusy 1).set a HifPfStatus.bme 0).set a HifPfStatus.d3hot 0
    let s2 := ((s1.cut f qrFLR).noXlate f).modPf f fun _ => s.freshPf
    let qs := (s2.queuesOfPf f).filter fun x => (s2.qOwner x.1 x.2).isSome
    let s3 := qs.foldl (fun (s : State) x => s.qHalt x.1 x.2 qrFLR) s2
    let s4 := (s3.shx.conns.filter fun x => x.2.kind == ckRING && s3.bound x.2.slice && s3.slicePf x.2.slice == f.val).foldl
      (fun (s : State) x => s.connHalt x.1 qrFLR) s3
    let s5 := (s4.slicesOf f).foldl (fun (s : State) k =>
      let b := HifSlice.adr k
      if s.sliceState k = slSAVING then (s.set b HifSlice.state slFROZEN).set b HifSlice.status slABORTED
      else if s.sliceState k = slRESTORING then (s.set b HifSlice.state slBOUND).set b HifSlice.status slABORTED
      else s) s4
    let ended := (s4.slicesOf f).filter fun k => s4.sliceState k == slSAVING || s4.sliceState k == slRESTORING
    let s6 := ended.foldl (fun (s : State) k =>
      (s.hifEvent (if s4.sliceState k = slSAVING then 11 else 12) f (some k))) s5
    let s7 : State := { s6 with hif := { s6.hif with saves := s6.hif.saves.filter fun x => !ended.contains x.1 } }
    let s8 := s7.hostLost (some f.val)
    .next (if f.val = 2 then s8.nvControllerReset else s8)

/-- The FLR ends: tags still in use are retired (R338). -/
def execFlrDone (f : Fin 4) (s : State) : Host.Outcome State Fault Refusal :=
  let a := HifPfStatus.adr f
  if s.getB a HifPfStatus.flrBusy ∧ !s.hif.linkLost then
    .next (((s.retireReads f).set a HifPfStatus.flrBusy 0).hifEvent 5 f none)
  else .next s

/-- The `i`-th outstanding read of function `f`. -/
def State.readNo (s : State) (f i : Nat) : Option Reader := ((s.hif.reads.filter fun x => x.fn == f).map (·.reader))[i]?

/-- Slice `k`'s restore reads the rest of its blob, or no more. -/
def State.setRestoring (s : State) (k : Nat) (on : Bool) : State :=
  { s with hif := { s.hif with restoring := s.hif.restoring.filter (· != k) ++ (if on then [k] else []) } }

/-- A restore whose blob read has failed ends with BAD_BLOB, and no resource enabled (R353). -/
def State.restoreFails (s : State) (k st : Nat) : State :=
  let b := HifSlice.adr k
  (((s.setRestoring k false).set b HifSlice.state slBOUND).set b HifSlice.status st).hifEvent 12 (s.slicePf k) (some k)

/-- A read that has ended has no data for its reader, for a reason (R341, R342): a queue halts, a command of U17 ends with a
data transfer error, a restore ends, and what the transports and the tables read for themselves is asked for again. -/
def State.noData (s : State) (reason : Nat) (r : Reader) : State :=
  match r with
  | .nvme i => match s.lock i with | some l => if l.phase = .finished then s else s.nvFinish l nvDATA_TRANSFER | none => s
  | .sq y => match s.sq y with
    | some q => (s.putSq y { q with asked := q.asked - 1 }).modNvf fun v => { v with fetched := dropOneUnread y v.fetched }
    | none => s
  | .ctx c => s.ctxAsk c
  | .region i => s.regionAsk i
  | .emtDma t => s.dmaFetch t
  | .blob k => if s.sliceState k = slRESTORING then s.restoreFails k slBAD_BLOB else s
  | _ => s.loses reason r

/-- What follows an issued read that failed. -/
def State.readFailed (s : State) (f reason : Nat) (r : Reader) : State := ((s.readEnds f r).noData reason r).nvSweep

/-- A request that waited for a translation is refused one: its queue halts; U17, whose queues do not halt, fails
(R342; DESIGN CHOICE, log 106). -/
def State.refused (s : State) (x : Nat × XReq) : State :=
  match x.2 with
  | .read _ _ _ (.sq _) => s.nvFail
  | .read _ _ _ r => s.noData qrTRANSLATION r
  | .write _ (some r) _ _ _ => s.loses qrTRANSLATION r
  | _ => s

/-- The `i`-th outstanding read of function `f` has no completion within the timeout, which Device Control 2 may disable
(R325, R341). -/
def execCompletionTimeout (f : Fin 4) (i : Nat) (s : State) : Host.Outcome State Fault Refusal :=
  match s.readNo f i with
  | none => .next s
  | some r =>
      let k := s.readerSlice r
      .next (if (s.pf f).dev.timeoutOff then s
        else ((s.readFailed f qrTIMEOUT r).hifEvent 8 f k).aerLog f .completionTimeout)

/-- A poisoned completion of the `i`-th outstanding read enters, or, with no `i`, a poisoned host write (R341). -/
def execPoisoned (f : Fin 4) (i : Option Nat) (s : State) : Host.Outcome State Fault Refusal :=
  match i with
  | none => .next ((s.hifEvent 9 f none).aerLog f .poisoned)
  | some n =>
      match s.readNo f n with
      | none => .next s
      | some r =>
          let k := s.readerSlice r
          .next (((s.readFailed f qrPOISONED r).hifEvent 9 f k).aerLog f .poisoned)

/-- A TLP fails its ECRC check: it is discarded and logged (R341). -/
def execEcrcFailure (f : Fin 4) (s : State) : Host.Outcome State Fault Refusal := .next (s.aerLog f .ecrc)

/-- The host writes the function's MSI-X settings; pending vectors that may go now are issued (R334). -/
def execMsixUnmask (f : Fin 4) (w : MsixWrite) (s : State) : Host.Outcome State Fault Refusal :=
  if s.hif.linkLost ∨ s.getB (HifPfStatus.adr f) HifPfStatus.flrBusy then .next s
  else match w with
    | .control en fm => .next ((s.modPf f fun p => { p with msixEnable := en, functionMask := fm }).msixFlush f)
    | .entry v addr data masked =>
        .next (if s.halted then s else (s.modPf f fun p =>
          { p with table := sput MsixEntry.init p.table v ⟨addr % 2 ^ 64 / 4 * 4, data, masked⟩ }).msixFlush f)

/-! ## Translation (R342, R343) -/

/-- Entries of the device's translation cache (R325). -/
def atcSize : Nat := 8192

/-- The translation that a waiting request lacks first: function, PASID and page. -/
def State.lacks (s : State) (x : Nat × XReq) : Option (Nat × Option Nat × Nat) :=
  let f (pa : Option Nat) (a n : Nat) := (s.missing x.1 pa a n).map fun g => (x.1, pa, g)
  match x.2 with
  | .write _ _ pa a d => f pa a d.length
  | .read pa a n _ => f pa a n
  | .msix _ => none

/-- An ATS answer enters for a page that was asked for: a granted page is cached, and a refusal drops the requests that
lack the page; the other requests that waited go on in order (R342). -/
def execTranslationAnswer (f : Fin 4) (pasid : Option (BitVec 20)) (page : Nat) (grant : Option Nat) (s : State) :
    Host.Outcome State Fault Refusal :=
  let pa := pasid.map BitVec.toNat
  let key := (f.val, pa, page)
  if !s.hif.asked.contains key then .next s
  else
    let s0 : State := { s with hif := { s.hif with asked := s.hif.asked.filter fun x => x != key } }
    match grant with
    | some g => .next ({ s0 with hif := { s0.hif with atc := ((f.val, pa, page, g) :: s0.hif.atc).take atcSize } } : State).sweep.deregEnds
    | none =>
        let out := s0.hif.xlate.filter fun x => s0.lacks x == some key
        let s1 : State := { s0 with hif := { s0.hif with xlate := s0.hif.xlate.filter fun x => s0.lacks x != some key } }
        .next ((out.foldl State.refused s1).sweep.deregEnds)

/-- An invalidation request enters: the entries are not used any more, and its completion waits for the reads that were
issued with them (R343). -/
def execInvalidationRequest (f : Fin 4) (tag : Nat) (pasid : Option (BitVec 20)) (page : Nat) (s : State) :
    Host.Outcome State Fault Refusal :=
  let pa := pasid.map BitVec.toNat
  let hit (t : Nat × Option Nat × Nat × Nat) : Bool := t.1 == f.val && t.2.1 == pa && t.2.2.1 == page
  if s.hif.linkLost then .next s
  else
    let used := (s.hif.reads.filter fun x => x.fn == f.val && x.pages.contains (pa, page)).map (·.id)
    let s1 : State := { s with hif := { s.hif with atc := s.hif.atc.filter fun t => !hit t } }
    .next (s1.modPf f fun p => { p with invalidations := p.invalidations ++ [(tag, used)] })

/-- The Invalidation Completion of the oldest request is sent (R343). -/
def execInvalidationCompletion (f : Fin 4) (s : State) : Host.Outcome State Fault Refusal :=
  match (s.pf f).invalidations with
  | [] => .next s
  | (tag, used) :: rest =>
      if s.hif.linkLost ∨ s.hif.reads.any fun x => used.contains x.id then .next s
      else .next ((s.modPf f fun p => { p with invalidations := rest }).emit (.invalidationDone f tag))

/-! ## Binding (R344, R347) -/

/-- Offset of word `d` of HIF_SLICE[k] in its window. -/
def sliceOff (k d : Nat) : Nat := 0x40000 + 0x40 * k + d

/-- A command in a state that R347 does not list. -/
def State.badState (s : State) (k d : Nat) : WRes :=
  (s.set (HifSlice.adr k) HifSlice.status slBAD_STATE).refuse 14 (sliceOff k d)

/-- A write of BIND. -/
def State.bindWrite (s : State) (o : Sys2Proof.Origin) (k : Nat) (v : Word) : WRes :=
  s.gate o 14 (sliceOff k 0) (s.rwlDiffers (HifSlice.adr k) v) false fun s =>
    let a := HifSlice.adr k
    let en := bit v.toNat 31
    let pf := bits v.toNat 21 20
    let pasid := bits v.toNat 19 0
    let put (s : State) : State := ((s.set a HifSlice.enable (b2n en)).set a HifSlice.pf pf).set a HifSlice.pasid pasid
    if s.sliceState k = slUNBOUND then
      (if !en then (put s).done
      else if s.slices ≤ k then s.refuse 14 (sliceOff k 0)
      else (((put s).set a HifSlice.state slBOUND).set a HifSlice.status slOK).nvSweep.done)
    else if pf ≠ s.slicePf k ∨ pasid ≠ s.slicePasid k then s.refuse 14 (sliceOff k 0)
    else if en then s.done
    else if s.sliceState k ≠ slBOUND ∨ s.sliceBusy k then s.badState k 0
    else ((s.set a HifSlice.enable 0).set a HifSlice.state slUNBOUND |>.set a HifSlice.status slOK).done

/-- BIND.ENABLE = 1. -/
def execSliceBind (o : Sys2Proof.Origin) (k : Fin 256) (v : Word) (s : State) : Host.Outcome State Fault Refusal :=
  (s.bindWrite o k (v ||| 0x80000000#32)).out

/-- BIND.ENABLE = 0. -/
def execSliceUnbind (o : Sys2Proof.Origin) (k : Fin 256) (v : Word) (s : State) : Host.Outcome State Fault Refusal :=
  (s.bindWrite o k (v &&& 0x7FFFFFFF#32)).out

/-! ## Slice commands (R347–R353) -/

/-- A slice command in the state that it needs. -/
def State.sliceCmd (s : State) (o : Sys2Proof.Origin) (k from_ : Nat) (ok : State → Bool) (act : State → State) : WRes :=
  s.gate o 14 (sliceOff k 4) true false fun s =>
    if s.sliceState k = from_ ∧ ok s then (act (s.set (HifSlice.adr k) HifSlice.status slOK)).done else s.badState k 4

/-- Slice `k` goes to a state. -/
def State.toSlice (s : State) (k st : Nat) : State := s.set (HifSlice.adr k) HifSlice.state st

/-- FREEZE: owned ropes that run enter HOLD at their next boundary (R348). -/
def State.freezeSlice (s : State) (k : Nat) : State :=
  ((s.ownedRopes k).filter fun r => s.ropeMode r != rmOFF).foldl (fun s r => s.modRope r fun x => { x with freeze := true }) (s.toSlice k slFREEZING)

/-- FREEZE. -/
def execFreeze (o : Sys2Proof.Origin) (k : Fin 256) (s : State) : Host.Outcome State Fault Refusal :=
  (s.sliceCmd o k slBOUND (fun _ => true) fun s => s.freezeSlice k).out

/-- Commands of slice `k` that the fabric holds, or whose completion is not written yet. -/
def State.nvOut (s : State) (k : Nat) : List NvLock :=
  s.nvf.locks.filter fun l => (l.phase == .sent || l.phase == .finished) && (match l.sq with | some y => s.nvMine k y | none => false)

/-- The PCIe reads of slice `k` are complete, and its ropes have settled (R348). -/
def State.settled (s : State) (k : Nat) : Bool :=
  (s.readers.all fun x => s.readerSlice x.2 != some k) &&
    (s.ownedRopes k).all fun r => s.ropeMode r != rmRUN && s.ropeMode r != rmCONTINUE

/-- The slice is FROZEN by freeze, with its in-doubt commands. -/
def State.frozenNow (s : State) (k : Nat) (doubt : List (Nat × Nat)) : State :=
  let s1 := (s.toSlice k slFROZEN).set (HifSlice.adr k) HifSlice.inDoubt doubt.length
  ({ s1 with hif := { s1.hif with inDoubt := sput [] s1.hif.inDoubt k doubt } } : State).hifEvent 10 (s.slicePf k) (some k)

/-- The drain of a freeze is complete. -/
def execSliceFrozen (k : Fin 256) (s : State) : Host.Outcome State Fault Refusal :=
  if s.sliceState k = slFREEZING ∧ s.settled k ∧ (s.nvOut k).isEmpty then .next (s.frozenNow k []) else .next s

/-- FREEZE_LIMIT passes while commands are out: they are in doubt, and their later completions are discarded. -/
def execFreezeLimitExpiry (k : Fin 256) (s : State) : Host.Outcome State Fault Refusal :=
  let out := s.nvOut k
  if s.sliceState k = slFREEZING ∧ !out.isEmpty then
    let doubt := out.filterMap fun l => l.sq.map fun y => (y, l.cid)
    let gone (l : NvLock) : Bool := out.any fun m => m.id == l.id
    let s1 := s.setLocks ((s.nvf.locks.filter fun l => !(gone l && l.phase == .finished)).map fun l =>
      if gone l then { l with sq := none, rope := 16 } else l)
    let s2 := s1.modNvf fun v => { v with held := v.held.filter fun d => match d.lock with
      | some i => !out.any fun m => m.id == i
      | none => true }
    .next (s2.frozenNow k doubt)
  else .next s

/-- In-doubt commands of slice `k` complete with Command Interrupted (R353). -/
def State.interruptDoubt (s : State) (k : Nat) : State :=
  let l := sget [] s.hif.inDoubt k
  let s1 : State := { s with hif := { s.hif with inDoubt := sdel s.hif.inDoubt k } }
  l.foldl (fun (s : State) (y, c) => s.nvAnswer y c 0x21 0) s1

/-- What a freeze has held goes on (R349): descriptor fetches, transmit frames, integrity requests, send rings and NVMe
commands. -/
def State.thawSlice (s : State) (k : Nat) : State :=
  let s1 := (s.toSlice k slBOUND).unfreezeRopes k
  let qs := s1.liveQueues.filter fun x => s1.qOwner x.1 x.2 == some k
  let s2 := qs.foldl (fun (s : State) x => s.qGoOn x.1 x.2) s1
  let s3 := (s2.shx.conns.filter fun x => x.2.kind == ckRING && x.2.slice == k).foldl (fun (s : State) x => s.connFetch x.1) s2
  (s3.interruptDoubt k).nvSweep

/-- THAW. -/
def execThaw (o : Sys2Proof.Origin) (k : Fin 256) (s : State) : Host.Outcome State Fault Refusal :=
  (s.sliceCmd o k slFROZEN (fun _ => true) fun s => s.thawSlice k).out

/-- SAVE: the blob leaves, up to BLOB_SIZE bytes; one that does not fit carries no valid CRC (R351). -/
def State.saveSlice (s : State) (k : Nat) : State :=
  let a := HifSlice.adr k
  let b := s.blob k (s.act a HifSlice.saveVersion)
  let room := s.act a HifSlice.blobSize
  let fits := decide (b.length ≤ room)
  let crc := leAt b 12 4
  let out := if fits then b else (patch b 12 (leBytes 4 (crc + 1 + s.free % (2 ^ 32 - 1)))).take room
  let s1 := (s.toSlice k slSAVING).sliceData k (s.act a HifSlice.blobAddr * 64) out
  { s1.tickFree.tickFree with hif := { s1.hif with saves := s1.hif.saves ++ [(k, if fits then slOK else slNO_SPACE, out.length)] } }

/-- SAVE. -/
def execSave (o : Sys2Proof.Origin) (k : Fin 256) (s : State) : Host.Outcome State Fault Refusal :=
  (s.sliceCmd o k slFROZEN (fun _ => true) fun s => s.saveSlice k).out

/-- The save ends. -/
def execSaveDone (k : Fin 256) (s : State) : Host.Outcome State Fault Refusal :=
  match s.hif.saves.find? fun x => x.1 == k.val with
  | some (_, st, n) =>
      let a := HifSlice.adr k
      let s1 := ((s.set a HifSlice.status st).set a HifSlice.blobLen n).toSlice k slFROZEN
      .next (({ s1 with hif := { s1.hif with saves := s1.hif.saves.filter fun x => x.1 != k.val } } : State).hifEvent 11 (s.slicePf k) (some k.val))
  | none => .next s

/-- A read of part of slice `k`'s blob. -/
def State.blobRead (s : State) (k addr n : Nat) : State := s.dmaRead (s.slicePf k) (some (s.slicePasid k)) addr n (.blob k)

/-- RESTORE begins to read the blob, with its header (log 74). -/
def State.restoreBegin (s : State) (k : Nat) : State :=
  ((s.toSlice k slRESTORING).setRestoring k false).blobRead k (s.act (HifSlice.adr k) HifSlice.blobAddr * 64) 32

/-- The blob's header has entered: the rest, as long as LENGTH has it, is read in pieces of at most 4 KB. -/
def State.restoreRest (s : State) (k len : Nat) : State :=
  let a := s.act (HifSlice.adr k) HifSlice.blobAddr * 64 + 32
  (pieces 4096 (len / 4096 + 2) a (len - 32)).foldl (fun (s : State) x => s.blobRead k x.1 x.2) (s.setRestoring k true)

/-- A blob's header passes the part of check 1 that it decides by itself (R353). -/
def State.headOk (s : State) (k : Nat) (b : List Byte) : Bool :=
  leAt b 0 4 == blobMagic && decide (32 ≤ leAt b 16 8) && decide (leAt b 16 8 ≤ s.act (HifSlice.adr k) HifSlice.blobSize)

/-- RESTORE. -/
def execRestore (o : Sys2Proof.Origin) (k : Fin 256) (s : State) : Host.Outcome State Fault Refusal :=
  (s.sliceCmd o k slBOUND (fun s => !s.sliceBusy k) fun s => s.restoreBegin k).out

/-- The reads of a restore have ended: the blob's header has entered, and the rest is read; or the whole blob has, and the
restore ends with it; or they could not be made, and it ends with BAD_BLOB. -/
def execRestoreDone (k : Fin 256) (blob : List Byte) (s : State) : Host.Outcome State Fault Refusal :=
  let f := s.slicePf k
  if s.sliceState k ≠ slRESTORING then
    .next (if s.reading f (.blob k) then s.readsEnd f (.blob k) else if s.bound k then s.stray f else s)
  else if s.readsOf (.blob k) ≠ (s.hif.reads.filter fun x => x.reader == .blob k).length then .next s
  else if !s.reading f (.blob k) then .next (s.restoreFails k slBAD_BLOB)
  else
    let s1 := s.readsEnd f (.blob k)
    if !s.hif.restoring.contains k.val && s.headOk k blob && decide (32 < leAt blob 16 8) then
      .next (s1.restoreRest k (leAt blob 16 8))
    else match s1.restore k blob with
      | .error st => .next (s1.restoreFails k st)
      | .ok t => .next ((((t.setRestoring k false).toSlice k slFROZEN).set (HifSlice.adr k) HifSlice.status slOK).hifEvent 12 f (some k.val))

/-- RELEASE. -/
def execSliceRelease (o : Sys2Proof.Origin) (k : Fin 256) (s : State) : Host.Outcome State Fault Refusal :=
  (s.sliceCmd o k slFROZEN (fun _ => true) fun s => (s.sliceRelease k).toSlice k slBOUND |>.nvSweep).out

/-! ## Shares and routes (R336, R344–R346) -/

/-- The state with RUN mode's equal shares on every unit. -/
def State.equalShares (s : State) : State :=
  let s0 := s.set HifSliceCfg.adr HifSliceCfg.mode 0
  let weight (x : Nat × Word) : Bool := decide (TmSliceWeight.adr 0 ≤ x.1) && decide (x.1 < TmSliceWeight.adr 256)
  let s1 : State := { s0 with regs := s0.regs.filter (!weight ·), force := s0.force.filter (!weight ·) }
  { s1 with
    emt := { s1.emt with limits := [] }
    hif := { s1.hif with shares := [] }
    cxe := { s1.cxe with slices := [] }
    shx := { s1.shx with shares := [] }
    tm := { s1.tm with sliceSet := [] } }

/-- A write of HIF_SLICE_CFG.  In SERVICE mode every share stays as it is, whatever COUNT_LOG2 becomes (R346). -/
def State.cfgWrite (s : State) (o : Sys2Proof.Origin) (v : Word) : WRes :=
  s.gate o 14 0x1020 (s.rwlDiffers HifSliceCfg.adr v) false fun s =>
    let n := bits v.toNat 3 0
    let m := bit v.toNat 31
    let old := s.act HifSliceCfg.adr HifSliceCfg.countLog2
    if 8 < n ∨ (n ≠ old ∧ (List.range 256).any s.bound) then s.refuse 14 0x1020
    else
      let s1 := s.set HifSliceCfg.adr HifSliceCfg.countLog2 n
      if s.service ∧ !m then
        (let t := s1.equalShares
         if s.ownersKept t && t.stationsFit then t.done else s.refuse 14 0x1020)
      else if m && !s.service then
        (({ s1 with hif := { s1.hif with heldLog2 := old } } : State).set HifSliceCfg.adr HifSliceCfg.mode 1).done
      else s1.done

/-- A write of MODE. -/
def execSliceModeWrite (o : Sys2Proof.Origin) (v : Word) (s : State) : Host.Outcome State Fault Refusal := (s.cfgWrite o v).out

/-- A write of COUNT_LOG2. -/
def execSliceCountWrite (o : Sys2Proof.Origin) (v : Word) (s : State) : Host.Outcome State Fault Refusal := (s.cfgWrite o v).out

/-- Two shares have an index in common. -/
def sharesMeet (a b : Nat × Nat) : Bool :=
  decide (0 < a.2) && decide (0 < b.2) && decide (a.1 < b.1 + b.2) && decide (b.1 < a.1 + a.2)

/-- A write of the share of resource `r` of slice `k`, as base and count: discarded in RUN mode, and refused where it
overlaps another share or leaves an enabled resource outside its slice (R346). -/
def State.shareWrite (s : State) (o : Sys2Proof.Origin) (k : Nat) (r : Res) (base count : Nat) : WRes :=
  let off := 0x48000 + 0x40 * k + 8 * r.index
  s.gate o 14 off (s.service && s.share r k != (base, count)) false fun s =>
    if !s.service then s.done
    else
      let i := k * 14 + 2 * r.index
      let t : State := { s with hif := { s.hif with
        shares := sins (sins s.hif.shares i (BitVec.ofNat 32 base)) (i + 1) (BitVec.ofNat 32 count) } }
      if r.capacity s.scale < base + count ∨ (List.range s.owners).any (fun j => j != k && sharesMeet (s.share r j) (base, count))
          ∨ !s.ownersKept t then s.refuse 14 off
      else t.done

/-- A route may stand (R336): in RUN mode its event queue is one of a slice bound to its function and its vector one of
that slice's share; in SERVICE mode its event queue is one of its function. -/
def State.routeOk (s : State) (w : Nat) : Bool :=
  match s.ownerOf .evq (bits w 9 0) with
  | some k => s.bound k && s.slicePf k == bits w 30 29 && (s.service || s.vectorOk k (bits w 28 18))
  | none => false

/-- A write of a route (R336). -/
def State.routeWrite (s : State) (o : Sys2Proof.Origin) (e : Nat) (v : Word) : WRes :=
  let off := 0x4C000 + 4 * e
  s.gate o 14 off (s.rwlDiffers (HifRoute.adr e) v) false fun s =>
    if !s.routeOk v.toNat then s.refuse 14 off else (s.setBits (HifRoute.adr e) 0xFFFC03FF#32 v).done

/-- A route write. -/
def execEventRouteWrite (o : Sys2Proof.Origin) (e : Fin 384) (v : Word) (s : State) : Host.Outcome State Fault Refusal :=
  (s.routeWrite o e v).out

end Sys2Proof.Machine
end

