-- ==== Sys2Proof/Machine/Ports.lean ====
section
/-!
DEFINITION. The links of the Ethernet ports and of PCIe (R356, R583–R586).
-/

namespace Sys2Proof.Machine

/-- Port `p` exists at the scale and its ENABLE is in force; 16 to 23 are the breakout ports (R118, R586). -/
def State.portOn (s : State) (p : Nat) : Bool :=
  if p < 16 then s.driveOn p
  else
    let f := (p - 16) / 4
    decide (p < 24) && decide (f < fabricPorts s.scale) && s.actB (Fpx.adr f) Fpx.enable &&
      decide ((p - 16) % 4 < 2 ^ s.act (Fpx.adr f) Fpx.breakout)

/-- The PCS of port `p` holds lock. -/
def State.locked (s : State) (p : Nat) : Bool := (sfind s.ports.lock p).isSome

/-- LINK of port `p`. -/
def State.linkUpAt (s : State) (p : Nat) : Bool :=
  if p < 16 then s.getB (Dpx.adr p) Dpx.link else bit (s.get (Fpx.adr ((p - 16) / 4)) Fpx.link) ((p - 16) % 4)

/-- LINK changes, and is announced (R515). -/
def State.setLink (s : State) (p : Nat) (up : Bool) : State :=
  if s.linkUpAt p = up then s
  else if p < 16 then (s.set (Dpx.adr p) Dpx.link (b2n up)).raise 21 (if up then 4 else 5) p
  else
    let a := Fpx.adr ((p - 16) / 4)
    let m := s.get a Fpx.link
    (s.set a Fpx.link (if up then withBit m ((p - 16) % 4) else dropBit m ((p - 16) % 4))).raise 22 (if up then 4 else 5) p

/-- Auto-negotiation, where the port has it, has completed with a speed that is supported. -/
def State.anReady (s : State) (p : Nat) : Bool :=
  if p < 16 then
    let a := Dpx.adr p
    (!s.actB a Dpx.an || s.getB a Dpx.anDone) && !(s.act a Dpx.ptype == 5 && decide (3 < s.get a Dpx.phySpeed))
  else true

/-- Lock, and auto-negotiation where enabled, have held for 1 ms. -/
def execPortUp (p : Fin 25) (s : State) : Host.Outcome State Fault Refusal :=
  .next (if s.portOn p && s.locked p && s.anReady p then s.setLink p true else s)

/-- AN_DONE falls. -/
def State.anLost (s : State) (p : Nat) : State := if p < 16 then s.set (Dpx.adr p) Dpx.anDone 0 else s

/-- The port's LINK falls, because its PCS loses lock or it stops. -/
def State.portDown (s : State) (p : Nat) : State :=
  let s1 : State := { s with ports := { s.ports with lock := sdel s.ports.lock p } }
  (s1.anLost p).setLink p false

/-- The PCS of port `p` loses lock. -/
def execPortDown (p : Fin 25) (s : State) : Host.Outcome State Fault Refusal :=
  .next (if s.locked p then s.portDown p else s)

/-- The PCS of port `p` gains lock. -/
def execPcsLock (p : Fin 25) (s : State) : Host.Outcome State Fault Refusal :=
  .next (if s.portOn p && !s.locked p then { s with ports := { s.ports with lock := sins s.ports.lock p s.ticks } } else s)

/-- The speed that a PHY_SPEED code names, in Mb/s; none when it is not supported. -/
def phyRate : Nat → Option Nat
  | 0 => some 10000
  | 1 => some 5000
  | 2 => some 2500
  | 3 => some 1000
  | _ => none

/-- Auto-negotiation completes; on a USXGMII port with a PHY speed (R583, R584). -/
def execAutonegDone (p : Fin 16) (speed : BitVec 3) (s : State) : Host.Outcome State Fault Refusal :=
  let a := Dpx.adr p
  .next (if s.portOn p && s.locked p && s.actB a Dpx.an then
      let s1 := s.set a Dpx.anDone 1
      if s.act a Dpx.ptype = 5 then
        let s2 := s1.set a Dpx.phySpeed (min 4 speed.toNat)
        match phyRate speed.toNat with
        | some r => { s2 with ports := { s2.ports with usx := sins s2.ports.usx p r } }
        | none => s2
      else s1
    else s)

/-- Auto-negotiation restarts. -/
def execAutonegRestart (p : Fin 16) (s : State) : Host.Outcome State Fault Refusal := .next (s.anLost p)

/-- SPEED, WIDTH, FLIT and L0P_WIDTH of HIF_LINK. -/
def State.linkFields (s : State) (speed width l0p : Nat) (flit : Bool) : State :=
  let a := HifLink.adr
  (((s.set a HifLink.speed speed).set a HifLink.width width).set a HifLink.flit (b2n flit)).set a HifLink.l0pWidth l0p

/-- The PCIe link enters Recovery, or with `done` is back in L0 with a speed, a width, an L0p width and FLIT mode; while UP
is 0 the other fields read 0 (R356). -/
def execLinkRetraining (done : Option (BitVec 4 × BitVec 3 × BitVec 3 × Bool)) (s : State) : Host.Outcome State Fault Refusal :=
  .next (if s.hif.linkLost then s
    else match done with
      | none => (s.set HifLink.adr HifLink.up 0).linkFields 0 0 0 false
      | some (v, w, l, f) => (s.set HifLink.adr HifLink.up 1).linkFields v.toNat w.toNat l.toNat f)

end Sys2Proof.Machine
end

