-- ==== Sys2Proof/Machine/Lead.lean ====
section
/-!
DEFINITION. The lead and its lease (R526–R530, R536).
-/

namespace Sys2Proof.Machine

/-- OP of SYS_LEAD_CMD. -/
def loCLAIM : Nat := 1
def loRENEW : Nat := 2
def loRELEASE : Nat := 3

/-- The results of SYS_LEAD_RESULT. -/
def lrGRANTED : Nat := 1
def lrRENEWED : Nat := 2
def lrRELEASED : Nat := 3
def lrHELD_BY_OTHER : Nat := 4
def lrNOT_HOLDER : Nat := 5
def lrBAD_LEASE : Nat := 6

/-- HOLDER. -/
def State.holder (s : State) : Nat := s.get SysLead.adr SysLead.holder

/-- SYS_LEAD as it reads: REMAIN follows the count (R536). -/
def State.leadWord (s : State) : Word :=
  BitVec.ofNat 32 (s.holder * 2 ^ 30 + (s.mgt.leaseTicks / 25000 % 2 ^ 14) * 2 ^ 16 + s.get SysLead.adr SysLead.lease)

/-- The lead passes to a holder with a lease; a PLDM update ends when the management side loses it (R532). -/
def State.giveLead (s : State) (h lease : Nat) : State :=
  let s1 := (s.set SysLead.adr SysLead.holder h).set SysLead.adr SysLead.lease lease
  let p := s1.mgt.pldm
  { s1 with mgt := { s1.mgt with
      leaseTicks := lease * 25000
      pldm := if h = ldMANAGEMENT ∨ p.state = 0 then p else { Pldm.idle with previous := p.state } } }

/-- The result of a side's command. -/
def State.leadResult (s : State) (side r : Nat) : State :=
  s.set SysLeadResult.adr (if side = ldHOST then SysLeadResult.host else SysLeadResult.management) r

/-- One side's command (R528, R529). -/
def State.leadOne (s : State) (side op lease : Nat) : State :=
  if op = 0 then s
  else if op ≠ loRELEASE ∧ (lease < 10 ∨ 10000 < lease) then s.leadResult side lrBAD_LEASE
  else if s.holder = side then
    if op = loRELEASE then (s.giveLead ldNONE 0).leadResult side lrRELEASED else (s.giveLead side lease).leadResult side lrRENEWED
  else if s.holder = ldNONE ∧ op = loCLAIM then (s.giveLead side lease).leadResult side lrGRANTED
  else (s.leadResult side (if op = loCLAIM then lrHELD_BY_OTHER else lrNOT_HOLDER)).notLead 0 0x1208

/-- The commands that take effect in one tick: the holder's first, then the management side's, then the host's (R529). -/
def State.leadTick (s : State) (host mgt : Option (Nat × Nat)) : State :=
  let h := s.holder
  let run (s : State) (side : Nat) (c : Option (Nat × Nat)) : State := match c with | some (op, l) => s.leadOne side op l | none => s
  let s1 := if h = ldHOST then run (run s ldHOST host) ldMANAGEMENT mgt else run (run s ldMANAGEMENT mgt) ldHOST host
  if s1.holder = h then s1 else s1.raise 20 4 s1.holder

/-- A write of SYS_LEAD_CMD, with what the other side's takes effect in the same tick; a writer of no side has none. -/
def State.leadWrite (s : State) (o : Sys2Proof.Origin) (op lease : Nat) (other : Option (Nat × Nat)) : WRes :=
  s.gate o 0 0x1208 false false fun s =>
    match o with
    | .host => (s.leadTick (some (op, lease)) other).done
    | .management => (s.leadTick other (some (op, lease))).done
    | _ => s.done

/-- A lead command of a side: a write of SYS_LEAD_CMD, or with `msg` the Naonant LEAD (R521, R530). -/
def State.leadMsg (s : State) (o : Sys2Proof.Origin) (msg : Option (BitVec 4 × BitVec 8)) (op lease : Nat)
    (other : Option (BitVec 2 × BitVec 14)) : State :=
  let oth := other.map fun x => (x.1.toNat, x.2.toNat)
  match msg with
  | none => (s.leadWrite o op lease oth).1
  | some m => s.naonantServe m ncLEAD true fun s =>
      let s1 := s.leadTick oth (some (op, lease))
      let r := s1.get SysLeadResult.adr SysLeadResult.management
      (s1, if r = lrHELD_BY_OTHER ∨ r = lrNOT_HOLDER then nsNOT_LEAD else nsOK,
       leBytes 4 s1.leadWord.toNat ++ leBytes 4 (s1.rd SysLeadResult.adr).toNat)

/-- CLAIM. -/
def execLeadClaim (o : Sys2Proof.Origin) (lease : BitVec 14) (msg : Option (BitVec 4 × BitVec 8))
    (other : Option (BitVec 2 × BitVec 14)) (s : State) : Host.Outcome State Fault Refusal :=
  .next (s.leadMsg o msg loCLAIM lease.toNat other)

/-- RENEW. -/
def execLeadRenew (o : Sys2Proof.Origin) (lease : BitVec 14) (msg : Option (BitVec 4 × BitVec 8)) (s : State) :
    Host.Outcome State Fault Refusal :=
  .next (s.leadMsg o msg loRENEW lease.toNat none)

/-- RELEASE. -/
def execLeadRelease (o : Sys2Proof.Origin) (msg : Option (BitVec 4 × BitVec 8)) (s : State) : Host.Outcome State Fault Refusal :=
  .next (s.leadMsg o msg loRELEASE 0 none)

/-- LEAD with OP QUERY. -/
def execLeadQuery (m : BitVec 4 × BitVec 8) (s : State) : Host.Outcome State Fault Refusal :=
  .next (s.naonantServe m ncLEAD true fun s =>
    (s, nsOK, leBytes 4 s.leadWord.toNat ++ leBytes 4 (s.rd SysLeadResult.adr).toNat))

/-- The lead falls to NONE (R529). -/
def State.leaseLapse (s : State) : State := ((s.giveLead ldNONE 0).raise 20 4 ldNONE).raise 20 5 s.holder

/-- The lease count reaches zero in its last tick (R529). -/
def execLeaseLapsed (s : State) : Host.Outcome State Fault Refusal :=
  .next (if !s.mgtUp || s.holder == ldNONE || decide (1 < s.mgt.leaseTicks) then s else s.leaseLapse)

end Sys2Proof.Machine
end

