-- ==== Sys2Proof/Machine/Service.lean ====
section
/-!
DEFINITION. In-service repair: rotation, copies, scrub, retirement and firmware replacement (R493–R517).
-/

namespace Sys2Proof.Machine

/-! ## Members and due times (R493, R494) -/

/-- Physical members of kind `k` whose domain is powered at a scale (R493). -/
def membersOf (scale k : Nat) : List Nat :=
  if k = rkCORE then List.range (activeCores scale) ++ [24, 25]
  else if k = rkPIPELINE then (if scale = 1 then [0, 3, 4] else List.range 5)
  else if k = rkMPI ∨ k = rkTCAM then List.range 9
  else if k = rkIGE then List.range 14
  else List.range 17

/-- U23 may start a handover, a test or a scrub pass (R516). -/
def State.svcOn (s : State) : Bool := s.ready 23

/-- The due times of kind `k` are counted from now. -/
def State.dueFromNow (s : State) (k : Nat) : State := s.modKind k fun x => { x with since := s.ticks }

/-- The members of kind `k` that rotate: those that exist and are not retired, in ascending order (R494). -/
def State.rotating (s : State) (k : Nat) : List Nat := (membersOf s.scale k).filter fun m => !s.retired k m

/-- CLK_AON ticks between two due times of kind `k`: its members share SVC_ROT_PERIOD evenly (R494). -/
def State.dueStep (s : State) (k : Nat) : Nat := s.act SvcRotPeriod.adr SvcRotPeriod.seconds * 25000000 / (s.rotating k).length

/-- Seconds to the next due time of kind `k` (R494). -/
def State.nextDue (s : State) (k : Nat) : Nat :=
  let step := s.dueStep k
  if step = 0 ∨ !bit (s.act SvcRotCtrl.adr SvcRotCtrl.enable) k then 0
  else (step - (s.ticks - (s.kind k).since) % step) / 25000000

/-- Member `m` of kind `k` falls due in this tick: the due times follow one another by `dueStep` from where they are counted,
one member each in ascending order (R494).  Where SVC_ROT_PERIOD or the number of members changes between due times, they are
placed anew from the same start with the values in force (DESIGN CHOICE, log 112). -/
def State.fallsDue (s : State) (k m : Nat) : Bool :=
  let x := s.kind k
  let step := s.dueStep k
  let n := s.ticks - x.since
  let j := n / step
  decide (0 < step) && decide (0 < j) && n % step == 0 && x.lastDue != s.ticks &&
    (s.rotating k)[(j - 1) % (s.rotating k).length]? == some m

/-! ## Placement of a pipeline pause (R497, R498) -/

/-- Wire time of `n` bytes at a rate in Mb/s, in ns. -/
def wireNs (n rate : Nat) : Nat := (n * 8000 + rate - 1) / max 1 rate

/-- What a pause must not overlap, from boundaries of rope `r` in [t0, t0 + span + a period]. -/
def State.busySpans (s : State) (role r t0 span : Nat) : List (Nat × Nat) :=
  let ports := (s.ropePorts s.inForce r).filter fun p => p / 8 == role
  let per := ropePeriod s.inForce r
  let first := ropePhase s.inForce r + ((t0 - ropePhase s.inForce r) / per - 1) * per
  (List.range (span / per + 4)).flatMap fun i =>
    let b := first + i * per
    let d := b + ropeDeadline s.inForce r
    (ports.map fun p =>
      let l := b + ropeLaunch s.inForce p r
      (l, l + wireNs (s.planSize s.inForce p r).2 (s.portRate p))) ++ (if ports.isEmpty then [] else [(d - 2000, d)])

/-- The ropes that a pause of `role` has to respect. -/
def State.pauseRopes (s : State) (role : Nat) : List Nat :=
  (List.range 16).filter fun r => ropeOn s.inForce r && (s.ropePorts s.inForce r).any fun p => p / 8 == role

/-- The earliest placement at or after `t0`, within one hyperperiod or 1 s. -/
def State.placePause (s : State) (role t0 : Nat) : Option Nat :=
  let rs := s.pauseRopes role
  let hyper := rs.foldl (fun n r => Nat.lcm n (ropePeriod s.inForce r)) 1
  let span := min hyper 1000000000
  let busy := rs.flatMap fun r => s.busySpans role r t0 (span + 40000)
  let free (x : Nat) : Bool := busy.all fun (a, b) => decide (b ≤ x) || decide (x + 38000 ≤ a)
  let ends := (t0 :: busy.map (·.2)).filter fun x => decide (t0 ≤ x) && decide (x < t0 + span) && free x
  ends.foldl (fun m x => match m with | some y => some (min x y) | none => some x) none

/-! ## Handovers and tests -/

/-- The test of member `m` begins. -/
def State.testBegins (s : State) (k m : Nat) : State :=
  (s.modKind k fun x => { x with testing := some m, cut := x.cut.filter (· != m) }).kindState k rsTESTING m

/-- Reserve `r` takes the duty of member `m`. -/
def State.handDuty (s : State) (k m r : Nat) : State :=
  let a := SvcKind.adr k
  (s.modKind k fun x => { x with duty := x.duty.map fun d => if d = m then r else d }).set a SvcKind.reserveMap (dropBit (s.reserves k) r)

/-- The TCAM block `b` lies in a partition. -/
def State.blockUsed (s : State) (b : Nat) : Bool :=
  (List.range 8).any fun p => s.partOn p && (let a := TcmPart.adr p
    let f := s.act a TcmPart.firstBlock
    decide (f ≤ b) && decide (b < f + s.partCopies p * s.act a TcmPart.blocks))

/-- What a rotation is begun with: done, no reserve, or no placement. -/
inductive Begun
  | yes | noReserve | notPlaceable
  deriving DecidableEq, Repr

/-- Member `m` of kind `k` rotates: a reserve is tested in place, as is a member whose test was cut short; another member's
handover begins (R494–R502, R516). -/
def State.rotate (s : State) (k m : Nat) : State × Begun :=
  if bit (s.reserves k) m || (s.kind k).cut.contains m then (s.testBegins k m, .yes)
  else match s.freeReserve k with
    | none => (s, .noReserve)
    | some r =>
        if k = rkCORE then
          (({ s with svc := { s.svc with dueCore := some m, dueAt := s.ticks } } : State).kindState k rsHANDOVER m |>.raise 23 4 m, .yes)
        else if k = rkPIPELINE then
          match (s.kind k).duty.findIdx? (· == m) with
          | none => (s.testBegins k m, .yes)
          | some role =>
              match s.placePause role s.lineNs with
              | some t => (({ s with svc := { s.svc with pause := some ⟨role, t, false⟩ } } : State).kindState k rsPLACING m, .yes)
              | none => (s, .notPlaceable)
        else if !(s.kind k).duty.contains m then (s.testBegins k m, .yes)
        else if k = rkMPI ∨ k = rkIGE ∨ (k = rkTCAM ∧ !s.blockUsed (((s.kind k).duty.findIdx? (· == m)).getD 0)) then
          ((s.handDuty k m r).testBegins k m, .yes)
        else (s.copyBegins k m r false, .yes)

/-- Kind `k` can start a rotation: it is IDLE, and its member exists and is not retired. -/
def State.mayRotate (s : State) (k m : Nat) : Bool :=
  s.get (SvcKind.adr k) SvcKind.state == rsIDLE && (membersOf s.scale k).contains m && !s.retired k m

/-- A placement that is not found is announced (R498). -/
def State.deferred (r : State × Begun) (k m : Nat) : State × Begun :=
  match r with
  | (s, .notPlaceable) => (s.raise 23 6 (memberDetail k m), .notPlaceable)
  | _ => r

/-- A member falls due (R494); a pipeline without a placement is deferred (R498). -/
def execRotationDue (kind : Fin 9) (m : Fin 26) (s : State) : Host.Outcome State Fault Refusal :=
  .next (if s.svcOn && s.bootStep == 0xFF && bit (s.act SvcRotCtrl.adr SvcRotCtrl.enable) kind && s.fallsDue kind m then
      let s1 := s.modKind kind fun x => { x with lastDue := s.ticks }
      if s1.mayRotate kind m then (State.deferred (s1.rotate kind m) kind m).1 else s1
    else s)

/-- The pause of a pipeline handover begins in the tick of its instant (R497). -/
def execHandoverPauseStart (role : Fin 4) (s : State) : Host.Outcome State Fault Refusal :=
  .next (match s.svc.pause with
    | some p =>
        if p.role = role ∧ p.begun = false ∧ s.lineNs ≤ p.start ∧ p.start ≤ s.lineNs + 40 then s.pauseBegins p else s
    | none => s)

/-- The length of a pause in ns (R497). -/
def pauseNs : Nat := 38000

/-- The pause `p` ends: the reserve pipeline carries the role, and the old one is tested (R497). -/
def State.pauseOver (s : State) (p : SvcPause) : State :=
  let m := (s.kind rkPIPELINE).duty.getD p.role p.role
  let s1 := s.pauseLifts p.role
  match s.freeReserve rkPIPELINE with
  | some r => (s1.handDuty rkPIPELINE m r).testBegins rkPIPELINE m
  | none => s1.kindRests rkPIPELINE

/-- The instants of a placed pause that have passed have their effect, if no command has given it in their tick (R497). -/
def State.pauseTick (s : State) : State :=
  match s.svc.pause with
  | some p =>
      let s1 := if !p.begun && decide (p.start < s.lineNs) then s.pauseBegins p else s
      if decide (p.start + pauseNs < s.lineNs) then s1.pauseOver p else s1
  | none => s

/-- The tick in which the due core's YIELD_LIMIT, in units of 100 ms, passes (R496). -/
def State.yieldEnd (s : State) : Nat := s.svc.dueAt + s.act SvcRotCtrl.adr SvcRotCtrl.yieldLimit * 2500000

/-- The yield limit passes (R496). -/
def State.yieldLimit (s : State) : State :=
  match s.svc.dueCore with
  | some m =>
      let s1 : State := { s with svc := { s.svc with dueCore := none } }
      (s1.kindRests rkCORE).raise 23 6 (memberDetail rkCORE m)
  | none => s

/-- A member's test ends (R494, R495). -/
def execMemberTestEnd (kind : Fin 9) (pass : Bool) (s : State) : Host.Outcome State Fault Refusal :=
  .next (match (s.kind kind).testing with
    | some m =>
        let s1 := s.modKind kind fun x => { x with testing := none }
        if pass then
          let s2 := s1.set (SvcKind.adr kind) SvcKind.reserveMap (withBit (s1.reserves kind) m)
          (s2.kindRests kind).raise 23 5 (memberDetail kind m)
        else (((s1.retireMember kind m).kindRests kind).raise 23 7 (memberDetail kind m)).exhaustion kind
    | none => s)

/-- A copy ends: the reserve takes the addresses, and the member is tested, or retired (R500, R501, R505). -/
def State.copyEnds (s : State) (k : Nat) : State :=
  match (s.kind k).copy with
  | some c =>
      let s1 := (s.modKind k fun x => { x with copy := none }).handDuty k c.member c.reserve
      if c.retire then
        (((s1.retireMember k c.member).kindRests k).raise 23 9 (memberDetail k c.member)).exhaustion k
      else s1.testBegins k c.member
  | none => s

/-- An access meets an error in physical bank `bank` (R504): 1 correctable, 2 uncorrectable, and else none; `owner` is the unit
whose data a bank of general memory holds.  An uncorrectable error in the state of U17 fails the controller (R438), and a bank
of the packet buffer that finds no reserve takes U13 out of READY, with the settings that waited there (R310, R319). -/
def State.bankError (s : State) (k bank error owner : Nat) : State :=
  if error = 1 then s.correctable k bank owner
  else if error = 2 then
    let s1 := s.retireBank k bank owner
    let s2 := if k = rkGENERAL ∧ owner = 17 then s1.nvFail else s1
    if s.ready 13 && !s2.ready 13 then s2.tmTakeAll else s2
  else s

/-- Scrub visits a word of physical bank `bank`, the first of its pass or not (R503, R504).  A visit that is not the first of
a pass stands for an access of any unit that meets an error, there being no command for every access (DESIGN CHOICE, log
113). -/
def State.scrub (s : State) (k bank : Nat) (first : Bool) (error owner : Nat) : State :=
  if k < rkGENERAL ∨ s.retired k bank ∨ s.asleep ∨ s.dark 23 ∨ (first ∧ !s.svcOn) then s
  else
    let a := SvcKind.adr k
    let s1 := if first then s.set a SvcKind.ceSeen (dropBit (s.get a SvcKind.ceSeen) bank) else s
    s1.bankError k bank error owner

/-- A core takes an uncorrectable cache error or a machine check (R515). -/
def execCoreFault (n : Fin 26) (s : State) : Host.Outcome State Fault Refusal :=
  .next (if bit (s.get BootRunning.adr BootRunning.core) n then s.raise 19 4 n else s)

/-! ## Commands (R496, R502, R508) -/

/-- STATUS of SVC_CMD. -/
def svOK : Nat := 0
def svBUSY : Nat := 1
def svNO_RESERVE : Nat := 2
def svNOT_PLACEABLE : Nat := 3
def svNOT_DUE : Nat := 4
def svNO_TRUSTED_IMAGE : Nat := 5
def svREFUSED : Nat := 6

/-- A command ends at once with a status. -/
def State.svcEnds (s : State) (st : Nat) : WRes := (s.set SvcCmd.adr SvcCmd.status st).done

/-- A write of SVC_CMD: OP, KIND and MEMBER (R517). -/
def State.svcCmd (s : State) (o : Sys2Proof.Origin) (kind member : Nat) (run : State → WRes) : WRes :=
  s.gate o 23 0x100C true false fun s =>
    if 8 < kind then s.refuse 23 0x100C
    else if s.getB SvcCmd.adr SvcCmd.busy then (s.set SvcCmd.adr SvcCmd.status svBUSY, .busy)
    else run ((s.set SvcCmd.adr SvcCmd.kind kind).set SvcCmd.adr SvcCmd.member member)

/-- CORE_YIELD: the released reserve core that carries no duty takes the due core's, and the due core is tested (R496). -/
def State.coreYield (s : State) (core : Nat) : WRes :=
  if s.svc.dueCore = some core then
    let run := s.get BootRunning.adr BootRunning.core ||| s.boot.released.toNat
    let d := (s.kind rkCORE).duty
    let new := (List.range 26).find? fun n => bit run n && n != core && !(d.take (activeCores s.scale)).contains n
    let s1 : State := { s with svc := { s.svc with dueCore := none } }
    let s2 := match new with
      | some n => s1.modKind rkCORE fun x => { x with duty := x.duty.map fun m => if m = core then n else m }
      | none => s1
    ((s2.set BootRunning.adr BootRunning.core (dropBit (s.get BootRunning.adr BootRunning.core) core)).testBegins rkCORE core).svcEnds svOK
  else s.svcEnds svNOT_DUE

/-- ROTATE_NOW (R502). -/
def State.rotateNow (s : State) (k m : Nat) : WRes :=
  if !s.svcOn || !(membersOf s.scale k).contains m || s.retired k m then s.svcEnds svREFUSED
  else
    let st := s.get (SvcKind.adr k) SvcKind.state
    if st = rsNO_RESERVE then s.svcEnds svNO_RESERVE
    else if st ≠ rsIDLE then s.svcEnds svBUSY
    else match State.deferred (s.rotate k m) k m with
      | (s1, .yes) => s1.svcEnds svOK
      | (s1, .noReserve) => s1.svcEnds svNO_RESERVE
      | (s1, .notPlaceable) => s1.svcEnds svNOT_PLACEABLE

/-- A write of ROTATE_NOW. -/
def execRotateNow (o : Sys2Proof.Origin) (kind : BitVec 4) (member : BitVec 5) (s : State) : Host.Outcome State Fault Refusal :=
  (s.svcCmd o kind.toNat member.toNat fun s => s.rotateNow kind.toNat member.toNat).out

/-- FW_REPLACE (R508). -/
def State.fwReplace (s : State) : WRes :=
  if s.svc.dueCore.isSome then s.svcEnds svBUSY
  else if (s.freeReserve rkCORE).isNone then s.svcEnds svNO_RESERVE
  else if s.boot.fw.isNone then s.svcEnds svREFUSED
  else (((s.set SvcCmd.adr SvcCmd.busy 1).set SvcCmd.adr SvcCmd.status svOK).modBoot fun b => { b with replacing := some (3, 0) }).done

/-- A write of FW_REPLACE. -/
def execFwReplace (o : Sys2Proof.Origin) (s : State) : Host.Outcome State Fault Refusal :=
  (s.svcCmd o (s.get SvcCmd.adr SvcCmd.kind) (s.get SvcCmd.adr SvcCmd.member) State.fwReplace).out

/-- A firmware replacement ends with its status; with OK, the entry address is announced (R508, R509). -/
def execFwReplaced (s : State) : Host.Outcome State Fault Refusal :=
  .next (match s.boot.replacing with
    | some (10, st) =>
        let s1 := (s.set SvcCmd.adr SvcCmd.busy 0).set SvcCmd.adr SvcCmd.status st
        let s2 := if st = svOK then
            let s3 := s1.set SvcFwEntry.adr SvcFwEntry.address s1.boot.entry
            match s3.boot.newFw with
            | some f => ((s3.set SysTrust.adr SysTrust.fwSlot f.1).set SysTrust.adr SysTrust.fwTrusted 1).modBoot fun b => { b with fw := some f }
            | none => s3
          else s1
        (s2.modBoot fun b => { b with replacing := none, newFw := none, romKey := none }).raise 23 11 st
    | _ => s)

/-- A unit reset of U23 abandons any test and copy in progress: the kind is IDLE again, and its maps are kept (R516). -/
def State.svcReset (s : State) : State :=
  (List.range 9).foldl (fun (s : State) k =>
    let x := s.kind k
    if x.copy.isNone ∧ x.testing.isNone then s
    else (s.modKind k fun y => { y with copy := none, testing := none, cut := y.testing.toList ++ y.cut }).kindState k rsIDLE 31) s

end Sys2Proof.Machine
end

