-- ==== Sys2Proof/Machine/ReadOps.lean ====
section
/-!
DEFINITION. How a word of PF0 BAR0 reads (R8, R53, R56, R550–R557): derived expert fields, fields that the device
computes, active views, apertures, and what stands nowhere.
-/

namespace Sys2Proof.Machine

/-! ## What no register occupies -/

/-- Bytes of a block that no register occupies: index 0 of arrays that begin at 1, and the port entries that the scale
leaves out (R585, R586). -/
def State.hole (s : State) (a : Nat) : Bool :=
  let u := a / 0x100000
  let d := a % 0x100000
  (decide (6 ≤ u ∧ u ≤ 9) && decide (0x41000 ≤ d ∧ d < 0x41020))
    || (u == 13 && decide (0xC0000 ≤ d ∧ d < 0xE0000) && decide ((d - 0xC0000) % 0x8000 < 0x20))
    || (u == 11 && decide (0x50000 ≤ d ∧ d < 0x54000) && decide (d % 0x1000 < 4))
    || (u == 21 && decide (0x1100 + 0x20 * drivePorts s.scale ≤ d ∧ d < 0x1300))
    || (u == 22 && decide (0x1100 + 0x20 * fabricPorts s.scale ≤ d ∧ d < 0x1140))

/-- The kind of the ring queue that holds address `a`: 0 to 3 in U15. -/
def queueKindAt (a : Nat) : Option Nat :=
  if 0xF40000 ≤ a ∧ a < 0xF80000 then some 0
  else if 0xF80000 ≤ a ∧ a < 0xFC0000 then some 1
  else if 0xFC0000 ≤ a ∧ a < 0xFD0000 then some 2
  else if 0xFD0000 ≤ a ∧ a < 0xFD4000 then some 3
  else none

/-- Fields of a queue block that do not apply to the queue's kind are reserved (R381). -/
def reservedBits (a : Nat) : Word :=
  match queueKindAt a, a % 0x40 with
  | some 2, 0x18 => 0x000E01FF#32
  | some 0, 0x18 => 0x000201FF#32
  | some 3, 0x18 => 0x000E01FF#32
  | some 2, 0x30 => 0xFFFFFFFF#32
  | some 2, _ => 0
  | some _, 0x10 => 0xFFFFFFFF#32
  | some _, 0x14 => 0xFFFFFFFF#32
  | some 1, _ => 0
  | some _, 0x30 => 0xFFFFFFFF#32
  | _, _ => 0

/-- Fields that RUN mode makes read-only: SLICE and TM_SLICE_WEIGHT, the shares, and the LIMITs (R177, R274, R324, R346). -/
def State.runBits (s : State) (a : Nat) : Word :=
  if s.service then 0
  else if 0xD40000 ≤ a ∧ a < 0xDC0000 ∧ a % 0x20 = 0 then 0xFF000#32
  else if 0xD03000 ≤ a ∧ a < 0xD03400 then 0xFFFFFFFF#32
  else if 0x402000 ≤ a ∧ a < 0x403000 then 0xFFFFFFFF#32
  else if 0xB60000 ≤ a ∧ a < 0xB68000 then 0xFFFFFFFF#32
  else if 0x1002000 ≤ a ∧ a < 0x1002800 then 0xFFFFFFFF#32
  else if 0xE48000 ≤ a ∧ a < 0xE4C000 then 0xFFFFFFFF#32
  else 0

/-! ## Derived expert fields (R53) -/

/-- The address lies in the expert area of its unit. -/
def inExpert (a : Nat) : Bool := decide (0x8000 ≤ a % 0x100000 ∧ a % 0x100000 < 0x20000)

/-- The value that a unit derives for the expert word at `a`, from the basic values of `rd`. -/
def State.derived (s : State) (rd : Nat → Word) (a : Nat) : Word :=
  if 0x308000 ≤ a ∧ a < 0x308060 then
    (let (rx, tx) := corrOf rd ((a - 0x308000) / 4)
     BitVec.ofNat 32 (rx + 65536 * tx))
  else if 0x408000 ≤ a ∧ a < 0x408040 then BitVec.ofNat 32 (s.maxFrame rd ((a - 0x408000) / 4))
  else if 0xD08000 ≤ a ∧ a < 0xD08800 then
    (let i := (a - 0xD08000) / 8
     let (o, l) := s.windowAt rd (s.windowRate (i / 16) (i % 16)) (i / 16) (i % 16)
     BitVec.ofNat 32 ((if a % 8 = 0 then o else l) / 8))
  else if 0xD08800 ≤ a ∧ a < 0xD08864 then BitVec.ofNat 32 (s.overhead ((a - 0xD08800) / 4))
  else 0

/-- The expert words of unit `u`. -/
def expertWords (u : Nat) : List Nat :=
  if u = 3 then (List.range 24).map fun p => TuCorr.adr p
  else if u = 4 then (List.range 16).map fun p => CxeXPort.adr p
  else if u = 13 then (List.range 512).map (fun i => 0xD08000 + 4 * i) ++ (List.range 25).map fun p => TmXPort.adr p
  else []

/-! ## Computed fields -/

/-- The word `w` of stash entry `e` of table `t` (R292). -/
def State.stashWord (s : State) (t e w : Nat) : Word :=
  match (s.tab t).at_ (stashBase + e) with
  | some b => BitVec.ofNat 32 (leAt b (4 * w) 4)
  | none => 0

/-- PWR_ESTIMATE (R490). -/
def State.estimate (s : State) : Nat :=
  let ones (n : Nat) : Nat := ((List.range 16).filter fun i => bit n i).length
  1200 + 58 * ones (s.act PwrRetain.adr PwrRetain.table) + 29 * ones (s.act PwrRetain.adr PwrRetain.cxe)
    + 150 * s.act TuCtrl.adr TuCtrl.tuKeep

/-- The physical pipeline that carries role `r`, or, for 4, the reserve position (R20, R252, R494). -/
def State.pipelineOf (s : State) (r : Nat) : Nat :=
  let duty := (s.kind rkPIPELINE).duty
  if r < 4 then duty.getD r r else ((List.range 5).find? fun m => !duty.contains m).getD 4

/-- What stands at address `a`, where the device computes the word; none where the register file holds it. -/
def State.computed (s : State) (a : Nat) : Option Word :=
  let u := a / 0x100000
  let d := a % 0x100000
  let w (n : Nat) : Option Word := some (BitVec.ofNat 32 n)
  let half (i n : Nat) : Option Word := w (n / 2 ^ (32 * (i % 2)))
  if d = 0x30 ∨ a = HifIdent.adr then some (merge 0xF00#32 (s.rd HifIdent.adr) (BitVec.ofNat 32 (Config.stepping * 256)))
  else if a = PwrEstimate.adr then w s.estimate
  else if a = SysLead.adr then some s.leadWord
  else if 0x402000 ≤ a ∧ a < 0x403000 then
    (if a % 16 / 4 < 3 then some (s.cxeSliceWord ((a - 0x402000) / 16) (a % 16 / 4)) else some 0)
  else if 0x440000 ≤ a ∧ a < 0x480000 ∧ a % 0x40 = 0xC then some (s.statusWord ((a - 0x440000) / 0x40))
  else if 0x4A0000 ≤ a ∧ a < 0x4A2000 ∧ a % 0x20 = 0xC then
    (let i := (a - 0x4A0000) / 0x20
     let (n, b) := s.planSize s.inForce (i / 16) (i % 16)
     w (n * 2 ^ 24 + b % 2 ^ 24))
  else if 0x5C0000 ≤ a ∧ a < 0x600000 then
    some (sget 0 s.mpi.cam (s.act MpiCamPage.adr MpiCamPage.page * 65536 + (a - 0x5C0000) / 4))
  else if 6 ≤ u ∧ u ≤ 10 ∧ d = 0x1004 then
    some (merge 0x700#32 (s.rd a) (BitVec.ofNat 32 (s.pipelineOf (u - 6) * 256)))
  else if 6 ≤ u ∧ u ≤ 9 ∧ 0x50000 ≤ d ∧ d < 0x54000 then some (s.rd (0x600000 + d))
  else if 6 ≤ u ∧ u ≤ 9 ∧ 0x60000 ≤ d ∧ d < 0x61000 then
    (let k := s.act (PpIndirPage.adr (u - 6)) PpIndirPage.slice
     let j := (d - 0x60000) / 2
     w (s.indirEntry k j + 65536 * s.indirEntry k (j + 1)))
  else if 0xB60000 ≤ a ∧ a < 0xB68000 ∧ a % 8 = 4 then
    (let i := (a - 0xB60000) / 8
     w (s.quotaLimit (i / 256) (i % 256)))
  else if 0xB70000 ≤ a ∧ a < 0xB72000 then
    (let i := (a - 0xB70000) / 64
     some (s.stashWord (i / 8) (i % 8) (a % 64 / 4)))
  else if a = TmPool.adr then w (s.cxeCells s.inForce * 2 ^ 17 + s.poolFree)
  else if 0xD02000 ≤ a ∧ a < 0xD02C80 ∧ a % 16 = 8 then
    (let i := (a - 0xD02000) / 16
     some (s.tokenWord (i / 8) (i % 8)))
  else if 0xD03000 ≤ a ∧ a < 0xD03400 ∧ !s.service then w 1
  else if 0xD40000 ≤ a ∧ a < 0xDC0000 ∧ a % 0x20 = 0 then
    (let q := (a - 0xD40000) / 0x20
     if s.service && s.tm.sliceSet.contains q then none
     else some (merge 0xFF000#32 (s.rd a) (BitVec.ofNat 32 (s.tmSlice q * 2 ^ 12))))
  else if 0xE01010 ≤ a ∧ a < 0xE01020 then
    some (merge 0x1FFC00#32 (s.rd a) (BitVec.ofNat 32 (s.outstanding ((a - 0xE01010) / 4) * 2 ^ 10)))
  else if 0xE48000 ≤ a ∧ a < 0xE4C000 then
    (if a % 0x40 / 4 < 14 then some (s.shareWord ((a - 0xE48000) / 0x40) (a % 0x40 / 4)) else some 0)
  else if (queueKindAt a = some 0 ∨ queueKindAt a = some 1) ∧ a % 0x40 = 0x18 ∧ s.act (Hdr.adr 15) Hdr.ifvAct = 1 then
    some (merge 0xC0000#32 (s.rd a) 0x40000#32)
  else if 0x1002000 ≤ a ∧ a < 0x1002800 then
    (let (b, n) := s.regionShare ((a - 0x1002000) / 8)
     w (if a % 8 = 0 then b else n))
  else if 0x1102000 ≤ a ∧ a < 0x1102800 ∧ a % 0x80 = 0x14 then w (recLbas s.inForce ((a - 0x1102000) / 0x80))
  else if 0x1140000 ≤ a ∧ a < 0x1144000 ∧ 8 ≤ a % 16 then half (a / 4) (nsBlocks s.inForce ((a - 0x1140000) / 16))
  else if 0x1701100 ≤ a ∧ a < 0x1701220 ∧ a % 0x20 = 4 then w (s.nextDue ((a - 0x1701100) / 0x20))
  else none

/-! ## The value read -/

/-- The word at a register's own offset: the value last written (R56). -/
def State.ownWord (s : State) (a : Nat) : Word :=
  match s.computed a with
  | some w => w
  | none => if inExpert a && !s.expert (a / 0x100000) then s.derived s.rd a else s.rd a

/-- The word of an active view: class B fields as they are in force, the others as last written (R56). -/
def State.activeWord (s : State) (a : Nat) : Word :=
  match s.computed a with
  | some w => w
  | none =>
      if inExpert a && !s.expert (a / 0x100000) then s.derived s.inForce a
      else merge (fieldMask (fun f _ => f.app == .l || f.app == .s) a) (s.inForce a) (s.rd a)

/-- An aperture or a copy whose bytes no block of the map describes. -/
def unmapped (a : Nat) : Bool :=
  let u := a / 0x100000
  let d := a % 0x100000
  d == 0x30 || (u == 5 && decide (0xC0000 ≤ d)) || (decide (6 ≤ u ∧ u ≤ 9) && decide (0x60000 ≤ d ∧ d < 0x61000))

/-- The word at `a` as the host or the management side reads it in a unit that has power: what no register occupies, WO
fields and reserved fields read 0, and so do units that the scale leaves off, but for their header (R4, R8, R551). -/
def State.readWord (s : State) (a : Nat) : Word :=
  if 0x1800000 ≤ a ∨ s.hole a then 0
  else if scaleOff s.scale (a / 0x100000) && decide (0x1000 ≤ a % 0x100000) then 0
  else match activeView a with
    | some b => if s.hole b then 0 else s.activeWord b &&& readMask b
    | none => if unmapped a then s.ownWord a else s.ownWord a &&& readMask a &&& ~~~ reservedBits a

/-- What the word at offset `off` of BAR4 of function `f` reads as: MSI-X table, Pending Bit Array, the copy of
HIF_IDENT, the registers of the page that answers there, and 0 (R328, R557–R559). -/
def State.bar4Word (s : State) (f off : Nat) : Word :=
  let p := s.pf f
  if off < 0x8000 then
    let e := p.entry (off / 16)
    match off / 4 % 4 with
    | 0 => BitVec.ofNat 32 e.addr
    | 1 => BitVec.ofNat 32 (e.addr / 2 ^ 32)
    | 2 => e.data
    | _ => BitVec.ofNat 32 (b2n e.masked)
  else if off < 0x8100 then
    BitVec.ofNat 32 (((List.range 32).map fun i => b2n (p.pba.contains ((off - 0x8000) / 4 * 32 + i)) * 2 ^ i).sum)
  else if off = 0x9000 then s.readWord HifIdent.adr
  else match s.pageSlice f off with
    | some k => (match pageReg k (off % 0x1000) with | some a => s.readWord a | none => 0)
    | none => 0

end Sys2Proof.Machine
end

