-- ==== Sys2Proof/Machine/Traffic.lean ====
section
/-!
DEFINITION. The commands of the traffic manager (R294–R324).
-/

namespace Sys2Proof.Machine

/-- U13 works: a hold stops decisions only (R321). -/
def State.tmOn (s : State) : Bool := s.ready 13 || s.ustate 13 == stHELD

/-- The first arriving frame whose FCS check has ended. -/
def takeKnown : List TmFrame → Option (TmFrame × List TmFrame)
  | [] => none
  | f :: fs => if f.fcs.isSome then some (f, fs) else (takeKnown fs).map fun (x, ys) => (x, f :: ys)

/-- The enqueue of the next frame that has arrived with its FCS check ended (R300, R301). -/
def execTmEnqueue (s : State) : Host.Outcome State Fault Refusal :=
  if s.tmOn then
    match takeKnown s.tm.arriving with
    | none => .next s
    | some (f, rest) => .next (({ s with tm := { s.tm with arriving := rest } } : State).startClocks [ckTM] |>.enqueue f)
  else .next s

/-- Port `p` sends: its port runs, and a fabric port exists at its breakout (R585, R586). -/
def State.portSends (s : State) (p : Nat) : Bool :=
  if p < 16 then s.driveOn p
  else if p < 24 then s.inputOn (2 + (p - 16) / 4) ((p - 16) % 4)
  else true

/-- Frames of port 24 that the receive queues discard before a decision (R372). -/
def State.hostPurge (s : State) : State :=
  (s.backlog 24).foldl (fun s x => s.rxPurge (x.2 - 12288) (s.tmq x.2).length) s

/-- A scheduling decision of a port (R304–R308): the frame selected leaves toward the balls, or for port 24 to its
receive queue.  A hold of U13 stops it. -/
def execTmDecision (p : Fin 25) (s : State) : Host.Outcome State Fault Refusal :=
  if s.ready 13 && s.portSends p then
    let s1 := (s.decisionLatch p).tidy p
    let s2 := (s1.backlog p).foldl (fun s x => s.dropLong p x.1 (s.tmq x.2).length x.2) s1
    let s3 := (if p.val = 24 then s2.hostPurge else s2).tidy p
    match s3.select p (fun q => p.val != 24 || s3.rxTakes (q - 12288)) with
    | none => .next s3
    | some (c, y, q, ring) =>
        match s3.tmq q with
        | [] => .next s3
        | f :: _ =>
            let s4 := s3.take p c y q ring
            .next (if p.val = 24 then s4.rxDeliver (q - 12288) f else s4.leave p f)
  else .next s

/-! ## Gate lists (R311, R312) -/

/-- The pending list of port `p` may be armed (R312). -/
def State.gclOk (s : State) (p : Nat) : Bool :=
  let a := TmGclCtrl.adr p
  let n := s.get a TmGclCtrl.length
  decide (1 ≤ n) && decide (n ≤ 1024) && decide (1 ≤ s.get a TmGclCtrl.cycle) &&
    (List.range n).all fun e => s.get (TmGcl.adr p e) TmGcl.interval != 0

/-- The switch of port `p` is armed. -/
def State.gclArmed (s : State) (p : Nat) : Bool := s.getB (TmGclCmd.adr p) TmGclCmd.armed

/-- The first BASE + k × CYCLE that lies at least 1,000 ns after now. -/
def State.gclInstant (s : State) (p : Nat) : Nat :=
  let b := s.get (TmGclCtrl.adr p) TmGclCtrl.base
  let c := s.get (TmGclCtrl.adr p) TmGclCtrl.cycle * 8
  let t := s.lineNs + 1000
  if t ≤ b then b else b + (t - b + c - 1) / c * c

/-- A write of SWITCH = 1 to TM_GCL_CMD[p]; a list that is armed already stays armed. -/
def State.gclArm (s : State) (o : Sys2Proof.Origin) (p : Nat) : WRes :=
  s.gate o 13 (0x3600 + 4 * p) true false fun s =>
    if s.gclArmed p then s.done
    else if s.gclOk p then
      let s1 := s.set (TmGclCmd.adr p) TmGclCmd.armed 1
      ({ s1 with tm := { s1.tm with switchAt := sins s1.tm.switchAt p (s.gclInstant p) } }, .ok)
    else s.refuse 13 (0x3600 + 4 * p)

/-- A write of SWITCH arms the pending bank. -/
def execGclSwitchArm (o : Sys2Proof.Origin) (p : Fin 16) (s : State) : Host.Outcome State Fault Refusal :=
  (s.gclArm o p).out

/-- The two banks of a port exchange their words. -/
def State.swapBanks (s : State) (p : Nat) : State :=
  let es := s.listed (TmGcl.adr p 0) 4 1024 ++ s.listed (TmGclActive.adr p 0) 4 1024
  let pairs := es.map fun e => (e, s.rd (TmGcl.adr p e), s.rd (TmGclActive.adr p e))
  pairs.foldl (fun s (e, a, b) =>
    (s.setBits (TmGcl.adr p e) 0xFFFFFFFF#32 b).setBits (TmGclActive.adr p e) 0xFFFFFFFF#32 a) s

/-- The entry of the active list now in force. -/
def State.gclEntry (s : State) (p : Nat) : Nat :=
  let c := s.gclCycle p
  let base := s.act (TmGclCtrl.adr p) TmGclCtrl.base
  let pos := (((s.lineNs : Int) - base) % (c : Int)).toNat
  ((s.gcl p).takeWhile fun x => decide (x.2.1 ≤ pos)).length

/-- The switch instant of port `p` (R312). -/
def execGclSwitch (p : Fin 16) (s : State) : Host.Outcome State Fault Refusal :=
  match sfind s.tm.switchAt p with
  | none => .next s
  | some t =>
      if s.tmOn && decide (t ≤ s.lineNs + 40) then
        let s1 := (s.swapBanks p).latchB fun x e => x == .gclSwitch && e == TmGclCtrl.adr p
        let s2 := (s1.set (TmGclCmd.adr p) TmGclCmd.armed 0).set (TmGclCmd.adr p) TmGclCmd.entry 0
        .next (({ s2 with tm := { s2.tm with switchAt := sdel s2.tm.switchAt p } } : State).tmEvent 4 p)
      else .next s

/-- An entry's interval ends: ENTRY shows the entry in force. -/
def execGclEntryAdvance (p : Fin 16) (s : State) : Host.Outcome State Fault Refusal :=
  if s.actB (TmGclCtrl.adr p) TmGclCtrl.enable then
    .next (s.set (TmGclCmd.adr p) TmGclCmd.entry (s.gclEntry p))
  else .next s

/-! ## Preemption (R317) -/

/-- PREEMPT_STATE codes. -/
def preOFF : Nat := 0
def preVERIFYING : Nat := 1
def preACTIVE : Nat := 2
def preFAILED : Nat := 3

/-- PREEMPT_STATE after PREEMPT and VERIFY_OFF have been set. -/
def State.preemptStart (s : State) (p : Nat) : State :=
  let a := TmPort.adr p
  s.set a TmPort.preemptState
    (if !s.actB a TmPort.preempt then preOFF else if s.actB a TmPort.verifyOff then preACTIVE else preVERIFYING)

/-- The verify handshake of a port ends. -/
def execPreemptVerifyEnd (p : Fin 16) (ok : Bool) (s : State) : Host.Outcome State Fault Refusal :=
  let a := TmPort.adr p
  if s.get a TmPort.preemptState = preVERIFYING then
    .next (if ok then s.set a TmPort.preemptState preACTIVE
           else (s.set a TmPort.preemptState preFAILED).tmEvent 7 p)
  else .next s

/-! ## Sampling (R320) -/

/-- The sample of one queue. -/
def State.sample (s : State) (q : Nat) : State :=
  let l := s.tmq q
  let depth := (l.map fun f => f.bytes.length + 4).sum
  let delay := match l with | f :: _ => min (2 ^ 24 - 1) ((s.lineNs - f.since) / 64) | [] => 0
  (s.set (TmQueue.adr q) TmQueue.depth depth).set (TmQueue.adr q) TmQueue.headDelay delay

/-- A sweep starts: its settings take effect, the stamp is written and the queues are sampled. -/
def execSampleSweepStart (s : State) : Host.Outcome State Fault Refusal :=
  let a := TmSampleCtrl.adr
  if !s.tmOn || s.getB a TmSampleCtrl.sweeping then .next s
  else
    let s1 := s.latchB fun x _ => x == .sweep
    if s1.actB a TmSampleCtrl.enable then
      let s2 := (s1.set a TmSampleCtrl.sweeping 1).set TmSampleStamp.adr TmSampleStamp.value (stampOf (s1.shadowNs .tm)).toNat
      let qs := s2.listed (TmQueue.adr 0) 0x20 16384 ++ s2.tm.queues.map (·.1)
      .next (qs.foldl State.sample s2).tickFree
    else .next s1

/-- A sweep ends. -/
def execSampleSweepEnd (s : State) : Host.Outcome State Fault Refusal :=
  if s.getB TmSampleCtrl.adr TmSampleCtrl.sweeping then
    .next ((s.set TmSampleCtrl.adr TmSampleCtrl.sweeping 0).bump TmSampleSeq.adr TmSampleSeq.value)
  else .next s

end Sys2Proof.Machine
end

