-- ==== Sys2Proof/Machine/RegOps.lean ====
section
/-!
DEFINITION. What a register write meets on its way: the access codes and apply classes of its fields, the values that they
take, the checks of its unit, and what follows when a value comes into force (R8, R10, R53–R61, R592–R594).
-/

namespace Sys2Proof.Machine

/-! ## The bits of a word -/

/-- The bits of fields whose access code `p` picks. -/
def accBits (p : Access → Bool) : Nat → Word := fieldMask fun f _ => p f.acc

/-- The bits of fields whose apply class `p` picks. -/
def appBits (p : Apply → Bool) : Nat → Word := fieldMask fun f _ => p f.app

/-- The argument words of IGE_CMD, which a write stores though no read returns them (R471). -/
def isArgument (a : Nat) : Bool := decide (0x1201140 ≤ a) && decide (a < 0x1201160)

/-- The bits of the word at `a` that a write stores, or acts on. -/
def State.storedBits (s : State) (a : Nat) : Word :=
  accBits (fun x => x == .rw || x == .rwl || (isArgument a && x == .wo)) a &&& ~~~ (s.runBits a ||| reservedBits a)

/-- Lead-protected bits of the word at `a`. -/
def State.leadBits (s : State) (a : Nat) : Word := accBits (· == .rwl) a &&& s.storedBits a

/-- The bits of class S. -/
def State.staticBits (s : State) (a : Nat) : Word := appBits (· == .s) a &&& s.storedBits a

/-- Word `i` of a value. -/
def wordAt (v i : Nat) : Word := BitVec.ofNat 32 (v / 2 ^ (32 * i))

/-- Where the word at `a` is held: the hash keys of every role in the window of role 0 (R247). -/
def homeOf (a : Nat) : Nat :=
  let u := a / 0x100000
  let d := a % 0x100000
  if 7 ≤ u ∧ u ≤ 9 ∧ 0x50000 ≤ d ∧ d < 0x54000 then 0x600000 + d else a

/-- A write of `n` words from `a` changes a bit of `m`. -/
def State.changes (s : State) (m : Nat → Word) (a n v : Nat) : Bool :=
  (List.range n).any fun i => (s.rd (homeOf (a + 4 * i)) ^^^ wordAt v i) &&& m (a + 4 * i) != 0

/-- The address of the 64-bit register that holds the word at `a`, when one does. -/
def pairBase (a : Nat) : Option Nat :=
  match regAt a with
  | some (b, e) => (b.fields.find? fun f => f.words == 2 && (e + f.off == a || e + f.off + 4 == a)).map fun f => e + f.off
  | none => none

/-- The words written give a station a byte offset that is no multiple of 4 (R180). -/
def offsetOdd (a v : Nat) : Bool :=
  decide (0x440000 ≤ a) && decide (a < 0x480000) && (a % 0x40 == 4 || a % 0x40 == 8) && v % 4 != 0

/-- The word written gives a timestamp residual of −2,048 ns, which is outside its range (R115). -/
def residualLow (a v : Nat) : Bool :=
  decide (0x341000 ≤ a) && decide (a < 0x341060) && (v % 0x10000 == 0x8000 || v / 0x10000 % 0x10000 == 0x8000)

/-- Every field that lies whole in the words written carries a value that it takes (R592). -/
def State.fieldsOk (s : State) (a n v : Nat) : Bool :=
  !offsetOdd a v && !residualLow a v && match regAt a with
  | none => true
  | some (b, e) => b.fields.all fun f =>
      let p := e + f.off
      let stored := (f.acc == .rw || f.acc == .rwl) && f.maskAt 0 &&& (s.runBits p ||| reservedBits p) == 0
      let x := v / 2 ^ (8 * (p - a) + f.lo) % 2 ^ f.width
      !(stored && decide (a ≤ p) && decide (p + 4 * f.words ≤ a + 4 * n)) || (decide (f.vmin ≤ x) && decide (x ≤ f.vmax))

/-! ## The lead and the owner (R183, R324, R526, R527, R559) -/

/-- A write of `n` words from `a` can act: some bit of them is not RO (R8). -/
def State.writable (s : State) (a n : Nat) : Bool :=
  (List.range n).any fun i =>
    (s.storedBits (a + 4 * i) ||| accBits (fun x => x == .rw1c || x == .wo) (a + 4 * i)) != 0

/-- A write of `n` words from `a` is lead-protected: it changes an RWL field, writes an argument, clears LOST, or
addresses a register that the lead holder and the owner alone may write.  Words that are RO throughout need no lead. -/
def State.needsLead (s : State) (a n v : Nat) : Bool :=
  s.changes s.leadBits a n v || isArgument a
    || ((decide (0x580000 ≤ a) && decide (a < 0x5C0000) || decide (0xD40000 ≤ a) && decide (a < 0xDC0000)) && s.writable a n)
    || (decide (0xD08000 ≤ a) && decide (a < 0xD09000) && s.changes s.storedBits a n v)
    || (a == SvcStaging.adr && bit v 31)

/-- Slice `k` owns the register at `a`, before the write and after it. -/
def State.sliceOwns (s : State) (k a v : Nat) : Bool :=
  if 0x440000 ≤ a ∧ a < 0x480000 then
    s.slicePf k == 0 && decide (a % 0x40 < 0xC) && s.sliceOfStation ((a - 0x440000) / 0x40) == some k
  else if 0x580000 ≤ a ∧ a < 0x5C0000 then
    let x := (a - 0x580000) / 0x40
    s.slicePf k == 0 && s.sliceOfStation (axF s.rd x MpiAxis.station) == some k
      && (a % 0x40 != 0 || s.sliceOfStation (v % 4096) == some k)
  else if 0xD40000 ≤ a ∧ a < 0xDC0000 then s.slicePf k == 0 && s.tmSlice ((a - 0xD40000) / 0x20) == k
  else queueKindAt a == some 3 && decide ((a - 0xFD0000) / 0x40 = k) && decide (a % 0x40 < 0x24)

/-- The writer owns the register; of words that are RO throughout a slice's write is discarded like any other (R8, R597). -/
def State.owns (s : State) (o : Sys2Proof.Origin) (a n v : Nat) : Bool :=
  match o with
  | .slice k => s.sliceOwns k a v || !s.writable a n
  | _ => false

/-! ## Registers that a state of the device closes -/

/-- The queue whose context holds the word at `a`, which only DISABLED opens (R364, R381, R471). -/
def contextOf (a : Nat) : Option (Nat × Nat) :=
  match queueKindAt a with
  | some k => if a % 0x40 < 0x20 then some (k, (a - qAdr k 0) / 0x40) else none
  | none =>
      if 0x1248000 ≤ a ∧ a < 0x1249000 ∧ (a % 0x40 < 0x20 ∨ a % 0x40 = 0x30) then some (qkIR, (a - 0x1248000) / 0x40) else none

/-- The register at `a` refuses every write as things stand: a VALID cam table (R200), an armed gate list (R312), an
enabled namespace (R428), a queue that is not DISABLED. -/
def State.closed (s : State) (a : Nat) : Bool :=
  (decide (0x541000 ≤ a) && decide (a < 0x542000) && s.camValid ((a - 0x541000) / 0x10))
    || (decide (0xD03400 ≤ a) && decide (a < 0xD03500) && s.gclArmed ((a - 0xD03400) / 0x10))
    || (decide (0xDE0000 ≤ a) && decide (a < 0xDF0000) && s.gclArmed ((a - 0xDE0000) / 0x1000))
    || (decide (0x1140000 ≤ a) && decide (a < 0x1144000) && s.actB (NvfNs.adr ((a - 0x1140000) / 0x10)) NvfNs.enable)
    || (decide (0x1160000 ≤ a) && decide (a < 0x11E0000)
        && s.activeNs.any fun n => (nsExtents s.inForce n).contains ((a - 0x1160000) / 0x20))
    || (match contextOf a with
        | some (k, q) => s.qState k q != qsDISABLED
        | none => false)

/-! ## The checks of a unit on the values last written (R593) -/

/-- Two ranges of a pair meet. -/
def pairMeets (x y : Nat × Nat) : Bool := rangesMeet x.1 x.2 y.1 y.2

/-- Enabled tables keep within the 16 banks and apart, a role has one of a kind, and a FLOW6 table has no PARITY (R253,
R254, R276). -/
def State.tableChecks (s : State) : List (Bool × Nat) :=
  let on := (List.range 16).filter fun t => s.getB (EmtTable.adr t) EmtTable.enable
  let f (t : Nat) (g : Fld) : Nat := s.get (EmtTable.adr t) g
  let banks (t : Nat) : Nat × Nat := (f t EmtTable.firstBank, banksOf (f t EmtTable.banks))
  let off (t : Nat) : Nat := EmtTable.adr t - 0xB00000
  on.flatMap (fun t => [(decide ((banks t).1 + (banks t).2 ≤ 16), blame (off t) 0),
      (!(f t EmtTable.kind == tkFLOW6 && f t EmtTable.errmode == 1), blame (off t) 1)])
    ++ (pairsOf on).flatMap fun (x, y) =>
      let apart := !pairMeets (banks x) (banks y)
      let kinds := !(f x EmtTable.role == f y EmtTable.role && f x EmtTable.kind == f y EmtTable.kind)
      [(apart, blame (off y) (16 + x)), (kinds, blame (off y) (32 + x)), (apart, blame (off x) (16 + y)), (kinds, blame (off x) (32 + y))]

/-- Enabled partitions keep within the eight blocks and apart, a 640-bit one is even, an ACL partition is of 320 or 640 bits
and the one LPM partition of 160 (R281). -/
def State.partChecks (s : State) : List (Bool × Nat) :=
  let on := (List.range 8).filter fun p => s.getB (TcmPart.adr p) TcmPart.enable
  let f (p : Nat) (g : Fld) : Nat := s.get (TcmPart.adr p) g
  let span (p : Nat) : Nat × Nat := (f p TcmPart.firstBlock, 2 ^ f p TcmPart.copies * f p TcmPart.blocks)
  let off (p : Nat) : Nat := TcmPart.adr p - 0xC00000
  on.flatMap (fun p => [(decide ((span p).1 + (span p).2 ≤ 8), blame (off p) 0),
      (f p TcmPart.width != 2 || (f p TcmPart.blocks % 2 == 0 && f p TcmPart.firstBlock % 2 == 0), blame (off p) 1),
      ((f p TcmPart.kind == 1) == (f p TcmPart.width == 0), blame (off p) 2)])
    ++ (pairsOf on).flatMap fun (x, y) =>
      let apart := !pairMeets (span x) (span y)
      let one := !(f x TcmPart.kind == 1 && f y TcmPart.kind == 1)
      [(apart, blame (off y) (16 + x)), (one, blame (off y) (32 + x)), (apart, blame (off x) (16 + y)), (one, blame (off x) (32 + y))]

/-- More than four inputs of the device are deep (R223). -/
def State.deepBad (s : State) : Bool :=
  decide (4 < ((List.range 4).flatMap fun r => (List.range 8).filter fun i => s.getB (PpPort.adr r i) PpPort.deep).length)

/-- The bytes of a frame that a field set takes (R245). -/
def setBytes (fields : Nat) : Nat := (([16, 16, 2, 2, 1, 6, 6, 3, 3].zipIdx).map fun (n, i) => if bit fields i then n else 0).sum

/-- The checks of a role on the register at `a` (R223, R242, R245). -/
def State.roleChecks (s : State) (u a : Nat) : List (Bool × Nat) :=
  let d := a % 0x100000
  if 0x1100 ≤ d ∧ d < 0x1180 then [(!s.deepBad, blame d 0)]
  else if 0x1020 ≤ d ∧ d < 0x1030 then [(decide (setBytes (s.get a ⟨0, 0, 9, .rw, .l, 0, 0, 511⟩) ≤ 36), blame d 0)]
  else if 0x41000 ≤ d ∧ d < 0x49000 ∧ d % 0x20 = 0 then
    let m := s.get a ⟨0, 16, 8, .rw, .l, 0, 0, 255⟩
    (List.range 8).map fun i => (!bit m i || s.inputExists (u - 6) i, blame d i)
  else []

/-- The checks of U13 on the register at `a` (R294, R316, R317, R319). -/
def State.tmChecks (s : State) (a : Nat) : List (Bool × Nat) :=
  let d := a % 0x100000
  if 0xD08000 ≤ a ∧ a < 0xD08800 then
    let t := s.latchMask fun x => if 0xD08000 ≤ x ∧ x < 0xD08800 then 0xFFFFFFFF#32 else 0
    (List.range 16).flatMap fun p => t.portApart t.rd p
  else if 0xD01100 ≤ a ∧ a < 0xD01420 ∧ a % 0x20 = 4 then [(decide ((a - 0xD01100) / 0x20 < 16) || !bit (s.rd a).toNat 31, blame d 0)]
  else if 0xD40000 ≤ a ∧ a < 0xDC0000 ∧ a % 0x20 = 0 then
    let q := (a - 0xD40000) / 0x20
    let p := s.get (TmQueue.adr q) TmQueue.port
    [(if q < 12288 then decide (p < 24) else p == 24, blame d 0)]
  else if 0xDC0000 ≤ a ∧ a < 0xDE0000 then
    let e := a / 0x20 * 0x20
    let on := s.getB e TmPolicer.enable
    [(decide (s.get e TmPolicer.cir ≤ s.get e TmPolicer.pir), blame d 0), (!on || s.get e TmPolicer.cbs != 0, blame d 1),
     (!on || s.get e TmPolicer.pbs != 0, blame d 2)]
  else []

/-- The checks of the other units on the register at `a`: pulse outputs that run (R125, R127), ports (R585), the
retransmission limits (R406), and the block target (R439).  A write of PERIOD or WIDTH to an enabled output is judged
against R125 at the write, for which R127 states no check of its own (DESIGN CHOICE, log 100). -/
def State.otherChecks (s : State) (u a : Nat) : List (Bool × Nat) :=
  if 0x340000 ≤ a ∧ a < 0x340100 then
    let n := (a - 0x340000) / 0x20
    [(!s.tpoEnabled n || pulseOk (s.actB (TuTpo.adr n) TuTpo.mode) (s.get (TuTpo.adr n) TuTpo.period) (s.get (TuTpo.adr n) TuTpo.width), a % 0x100000)]
  else if u = 11 then s.tableChecks
  else if u = 12 then s.partChecks
  else if u = 16 then [(decide (s.get ShxRetx.adr ShxRetx.rto ≤ s.get ShxRetx.adr ShxRetx.rtoMax), ShxRetx.adr - 0x1000000)]
  else if u = 17 then [(!s.getB NvfTarget.adr NvfTarget.enable || s.scale == 4, NvfTarget.adr + 8 - 0x1100000)]
  else if u = 21 then
    (List.range 16).flatMap fun p =>
      let t := s.get (Dpx.adr p) Dpx.ptype
      let off := Dpx.adr p - 0x1500000
      [(s.get (Dpx.adr p) Dpx.fec == 0 || t == 4, blame off 0), (!s.getB (Dpx.adr p) Dpx.an || t == 0 || t == 5, blame off 1)]
  else []

/-- The checks of its unit that the register at `a` fails in `t`, where the values in force are those of `s`; a write of U04
meets the checks of the recorders too, whose failures stand apart from those of U04 (R440). -/
def State.unitBad (s t : State) (a : Nat) : List Nat :=
  let u := a / 0x100000
  if u = 4 then t.cxeBad s.inForce t.rd ++ (t.recBadAt t.rd t.inForce).map (2 ^ 60 + ·)
  else if u = 5 then t.mpiBad t.rd
  else if 6 ≤ u ∧ u ≤ 9 then failing (t.roleChecks u a)
  else if u = 13 then failing (t.tmChecks a)
  else if 0x1250000 ≤ a ∧ a < 0x1250600 ∧ a % 0x40 = 0 then
    (let sa := t.get a IgeMsecPort.txSa
     failing [(t.actB (IgeTxsa.adr ((a - 0x1250000) / 0x40) sa) IgeTxsa.enable, blame (a % 0x100000) sa)])
  else if u = 17 then t.recBad t.rd ++ failing (t.otherChecks u a)
  else failing (t.otherChecks u a)

/-- The register at `a` is one that a check on the register at window offset `d` of its unit concerns. -/
def ownCheck (a d : Nat) : Bool :=
  let (b, n) := checkedWith (a / 0x100000) d
  decide (b ≤ a % 0x100000) && decide (a % 0x100000 < b + 4 * n)

/-- The write of the register at `a` that leads to `t` is refused for a check: one of the register itself that fails, or another
that held before (R55, R592, R593; log 58). -/
def State.breaks (s t : State) (a : Nat) : Bool := (offence (ownCheck a) (s.unitBad s a) (s.unitBad t a)).isSome

/-! ## Storing -/

/-- The word at `a` takes `v`.  In a unit that is not READY every field is in force at once, and a pending gate entry is
the active one too; else L fields wait for their count and B fields for their boundary (R10, R57, R58). -/
def State.storeWord (s : State) (a : Nat) (v : Word) : State :=
  let h := homeOf a
  let clear := accBits (· == .rw1c) a
  let new := merge (s.storedBits a) (s.rd h) v &&& ~~~ (clear &&& v)
  let now := if s.ready (a / 0x100000) then appBits (· == .s) a ||| clear else 0xFFFFFFFF#32
  let old := s.inForce h
  let s1 := (s.setReg h new).setForce h (merge now old new)
  if 0xDE0000 ≤ a ∧ a < 0xDF0000 ∧ !s.ready 13 then s1.setBits (a + 0x10000) 0xFFFFFFFF#32 new else s1

/-- `n` words from `a` take `v`. -/
def State.storeWords (s : State) (a n v : Nat) : State :=
  (List.range n).foldl (fun s i => s.storeWord (a + 4 * i) (wordAt v i)) s

/-! ## What a value in force brings about -/

/-- What follows when the word at `a` has come into force with bits that it did not have in `s`. -/
def State.follows (s t : State) (a : Nat) : State :=
  let o := s.inForce a
  let n := t.inForce a
  let rise (i : Nat) : Bool := !o.getLsbD i && n.getLsbD i
  let fall (i : Nat) : Bool := o.getLsbD i && !n.getLsbD i
  if o = n then t
  else if 0x1501100 ≤ a ∧ a < 0x1501300 ∧ a % 0x20 = 0 then (if fall 31 then t.portDown ((a - 0x1501100) / 0x20) else t)
  else if 0x1601100 ≤ a ∧ a < 0x1601140 ∧ a % 0x20 = 0 then
    (let p := 16 + (a - 0x1601100) / 0x20 * 4
     if fall 31 then (((t.portDown p).portDown (p + 1)).portDown (p + 2)).portDown (p + 3) else t)
  else if (0x1254000 ≤ a ∧ a < 0x1258000 ∨ 0x1258000 ≤ a ∧ a < 0x125B000) ∧ a % 0x40 = 0 then (if rise 31 then t.saEnabled a else t)
  else if 0x1252000 ≤ a ∧ a < 0x1252600 ∧ a % 0x10 = 0 then
    (if rise 31 then t.latchMask fun x => if a ≤ x ∧ x < a + 0x10 then 0xFFFFFFFF#32 else 0 else t)
  else if 0xD01100 ≤ a ∧ a < 0xD01420 ∧ a % 0x20 = 4 then t.preemptStart ((a - 0xD01100) / 0x20)
  else if 0xD40000 ≤ a ∧ a < 0xDC0000 ∧ a % 0x20 = 0 then t.queueIdle ((a - 0xD40000) / 0x20)
  else if a = SvcRotCtrl.adr then (List.range 9).foldl (fun t k => if rise k then t.dueFromNow k else t) t
  else t

/-- The shaper `k` has been written: its settings wait for the next decision, or are in force in a U13 that is not READY,
and TOKENS follows them (R10, R310). -/
def State.shaperWritten (s : State) (k : Nat) : State :=
  let s1 : State := { s with tm := { s.tm with shaperDue := if s.tm.shaperDue.contains k then s.tm.shaperDue else s.tm.shaperDue ++ [k] } }
  if s.ready 13 then s1 else s1.shapersTake (· == k)

/-- SLICE of queue `q` has been written in SERVICE mode: until the value takes effect, the owner by the shares stays
(R324, R346). -/
def State.sliceWritten (s : State) (q : Nat) : State :=
  if s.tm.sliceSet.contains q then s
  else
    let s1 : State := { s with tm := { s.tm with sliceSet := s.tm.sliceSet ++ [q] } }
    if s.ready 13 then s1.setForce (TmQueue.adr q) (setField (s1.inForce (TmQueue.adr q)) 19 12 (s.tmSlice q)) else s1

/-- What a written word marks for its boundary: patterns and keys (R232, R247), shapers and policers (R310, R319). -/
def State.marks (s : State) (a : Nat) : State :=
  let u := a / 0x100000
  let d := a % 0x100000
  let put (l : List Nat) (k : Nat) : List Nat := if l.contains k then l else l ++ [k]
  if 6 ≤ u ∧ u ≤ 9 ∧ 0x40000 ≤ d ∧ d < 0x41000 ∧ d % 0x40 = 0 then
    { s with pp := { s.pp with patDue := put s.pp.patDue ((u - 6) * 64 + (d - 0x40000) / 0x40) } }
  else if 6 ≤ u ∧ u ≤ 9 ∧ 0x50000 ≤ d ∧ d < 0x54000 ∧ d % 0x40 = 0x24 then
    { s with pp := { s.pp with keyDue := put s.pp.keyDue ((d - 0x50000) / 0x40) } }
  else if 0xD02000 ≤ a ∧ a < 0xD02C80 ∧ a % 16 < 8 then
    s.shaperWritten ((a - 0xD02000) / 16)
  else if 0xD40000 ≤ a ∧ a < 0xDC0000 then
    let q := (a - 0xD40000) / 0x20
    let s1 := if a % 0x20 = 0x10 ∨ a % 0x20 = 0x14 then s.shaperWritten (256 + q) else s
    if s1.service && a % 0x20 == 0 then s1.sliceWritten q else s1
  else if 0xDC0000 ≤ a ∧ a < 0xDE0000 ∧ a % 0x20 < 0x10 then
    let k := (a - 0xDC0000) / 0x20
    if s.ready 13 then { s with tm := { s.tm with policerDue := put s.tm.policerDue k } } else s.resetPolicer k
  else s

/-- Rope `r` is OFF. -/
def State.isOff (s : State) (r : Nat) : Bool := s.ropeMode r == rmOFF

/-- Values whose boundary is no boundary while a rope is OFF or a master disabled take effect at once, under the second
check of R593 (R138, R181, R187, R324). -/
def State.settle (s : State) (a : Nat) : State :=
  let u := a / 0x100000
  let here (e : Nat) : Bool := decide (e ≤ a) && decide (a < e + 0x800)
  if u = 4 then
    s.latchChecked 4 (boundaryMask fun x e => match x with
      | .ropeOff => here e && s.isOff ((e - 0x401100) / 0x40)
      | .rope => decide (0x4A0000 ≤ e) && here e && s.isOff ((e - 0x4A0000) / 0x20 % 16)
      | .station => decide (0x440000 ≤ e) && here e && s.isOff (stnF s.inForce ((e - 0x440000) / 0x40) CxeStn.rope)
      | .template => here e && s.isOff (stnF s.inForce (s.tmplStation ((e - 0x480000) / 0x800)) CxeStn.rope)
      | _ => false) fun t rd => t.cxeBad s.inForce rd
  else if u = 5 then
    s.latchChecked 5 (boundaryMask fun x e => match x with
      | .masterOff => here e && !s.masterOn ((e - 0x501100) / 0x80)
      | .axis => here e && s.isOff (s.axisRope s.inForce ((e - 0x580000) / 0x40))
      | _ => false) fun t rd => t.mpiBad rd
  else if 0xD40000 ≤ a ∧ a < 0xDC0000 then s.queueIdle ((a - 0xD40000) / 0x20)
  else s

/-- A value is written to `n` words from `a`, its writer having passed: it is static, or refused, or taken whole
(R53–R59, R592, R593). -/
def State.plainAct (s : State) (a n v : Nat) : WRes :=
  let u := a / 0x100000
  let off := a % 0x100000
  if inExpert a && !s.expert u then s.refuse u off
  else if s.ready u && s.changes s.staticBits a n v then (s.staticRefused u off, .static)
  else if s.closed a || !s.fieldsOk a n v then s.refuse u off
  else
    let t := s.storeWords a n v
    if s.breaks t a then s.refuse u off
    else
      let as := (List.range n).map fun i => a + 4 * i
      ((as.foldl (fun (t : State) x => (s.follows t x).marks x) t).settle a).done

/-! ## UNIT_CTRL (R54, R60, R594) -/

/-- What a unit reset does in the unit, besides its header. -/
def State.resetHook (s : State) (u : Nat) : State :=
  if u = 3 then s.tuReset else if u = 4 then s.cxeReset else if u = 5 then s.mpiReset
  else if 6 ≤ u ∧ u ≤ 9 then s.ppReset (u - 6) else if u = 11 then s.emtReset else if u = 12 then s.tcmReset
  else if u = 13 then s.tmReset else if u = 15 then s.qeReset else if u = 16 then s.shxReset else if u = 17 then s.nvfReset
  else if u = 18 then s.igeReset else if u = 23 then s.svcReset else s

/-- RESET acts (R594): what it does to the unit comes first, so that its STATE_CHANGE is the unit's last event (R565). -/
def State.unitReset (s : State) (u : Nat) : State :=
  let st := s.ustate u
  if [stREADY, stHELD, stHALTED, stERROR, stLOST].contains st || (st == stSTARTING && s.ucause u == caUNIT_RESET) then
    ((s.resetHook u).set (Hdr.adr u) Hdr.hold 0).setUnit u stSTARTING caUNIT_RESET
  else s

/-- EXPERT goes from 0 to 1: the derived values stand as the expert fields, active and shadow alike (R54). -/
def State.freezeExpert (s : State) (u : Nat) : State :=
  (expertWords u).foldl (fun t a => (t.setReg a (s.derived s.rd a)).setForce a (s.derived s.inForce a)) s

/-- EXPERT is written. -/
def State.setExpert (s : State) (u : Nat) (on : Bool) : State :=
  (if on && !s.expert u then s.freezeExpert u else s).set (Hdr.adr u) Hdr.expert (b2n on)

/-- What a hold stops at once; shapers and policers of U13 that waited take their settings, which are in force now (R58,
R310, R319). -/
def State.holdHook (s : State) (u : Nat) : State :=
  if u = 3 then s.tuHold
  else if u = 13 then s.tmTakeAll
  else if u = 16 then s.shxStands
  else s

/-- What goes on when a hold ends. -/
def State.resumeHook (s : State) (u : Nat) : State :=
  if u = 5 then s.mpiResume else if u = 11 then s.emtResume else if u = 12 then s.tcmResume else if u = 15 then s.qeResume else if u = 16 then s.shxResume else if u = 17 then s.nvfResume
  else if u = 18 then s.igeResume else s

/-! ## Held READY records (R49) -/

/-- Unit `u` starts, its records being applied. -/
def State.applying (s : State) (u : Nat) : Bool := s.ustate u == stSTARTING && s.ucause u == caAPPLYING

/-- Held units go READY with their last prerequisite. -/
def State.cascade (s : State) : Nat → State
  | 0 => s
  | n + 1 =>
      match (List.range 24).find? fun u => s.boot.heldReady.contains u && s.applying u && s.prereqsReady u with
      | some u => ((s.modBoot fun b => { b with heldReady := b.heldReady.filter (· != u) }).goReady u).cascade n
      | none => s

/-- HOLD is written; a unit that goes READY so releases those that wait for it (R49). -/
def State.setHold (s : State) (u : Nat) (on : Bool) : State :=
  let s1 := s.set (Hdr.adr u) Hdr.hold (b2n on)
  if on && s.ustate u == stREADY then (s1.setUnit u stHELD caHOLD_LEAD).holdHook u
  else if !on && s.ustate u == stHELD && s.ucause u == caHOLD_LEAD then ((s1.goReady u).resumeHook u).cascade 24
  else s1

/-- GO acts. -/
def State.unitGo (s : State) (u : Nat) : State :=
  if s.ustate u == stSTARTING && s.ucause u == caUNIT_RESET && s.prereqsReady u then (s.goReady u).cascade 24 else s

/-- The units that take neither HOLD nor RESET (R355, R473, R564). -/
def neverHeld (u : Nat) : Bool := [0, 1, 2, 14, 20].contains u

/-- The bits of one write of UNIT_CTRL act in their order (R594). -/
def State.ctrlAct (s : State) (u : Nat) (expert hold reset go : Bool) : State :=
  let s1 := if reset then s.unitReset u else s
  let s2 := (s1.setExpert u expert).setHold u hold
  if go then s2.unitGo u else s2

/-- The resets that waited for the end of their unit's handover act (R507). -/
def State.dueResets (s : State) : State :=
  let s1 : State := { s with svc := { s.svc with resetDue := s.svc.resetDue.filter fun d => s.handsOver d.unit } }
  (s.svc.resetDue.filter fun d => !s.handsOver d.unit).foldl (fun (s : State) d => s.ctrlAct d.unit d.expert d.hold true d.go) s1

/-- A write of UNIT_CTRL; with RESET, one that comes in a handover of a member of the unit acts as a whole after it
(R507). -/
def State.ctrlWrite (s : State) (o : Sys2Proof.Origin) (u : Nat) (expert hold reset go : Bool) : WRes :=
  s.gate o u 0x18 true false fun s =>
    if neverHeld u && (hold || reset) then s.refuse u 0x18
    else if s.expert u && !expert && s.ready u && !reset then (s.staticRefused u 0x18, .static)
    else if reset && s.handsOver u then
      (({ s with svc := { s.svc with resetDue := s.svc.resetDue ++ [⟨u, expert, hold, go⟩] } } : State)).done
    else (let t := s.ctrlAct u expert hold reset go
      if u = 23 then t.dueResets else t).done

/-! ## UNIT_IFV_REQ (R44, R63) -/

/-- The level that a request gives (R63). -/
def ifvGrant (u level : Nat) : Nat := if level < ifvMinOf u then ifvMinOf u else if 2 < level then 2 else level

/-- A request of level `level` is stored; in a founding unit UNIT_IFV_ACT follows when the write takes effect. -/
def State.ifvSet (s : State) (u level : Nat) : State :=
  let h := Hdr.adr u
  if founding u && s.ready u then
    (s.setReg (h + 8) (merge 0xFF#32 (s.rd (h + 8)) (BitVec.ofNat 32 level))).setForce (h + 8) (s.inForce (h + 8))
  else (s.set h Hdr.ifvReq level).set h Hdr.ifvAct (ifvGrant u level)

/-- A write of UNIT_IFV_REQ: class S, L in founding units; a level below the range is answered with the lowest and
VALUE_REFUSED. -/
def State.ifvWrite (s : State) (o : Sys2Proof.Origin) (u level : Nat) : WRes :=
  s.gate o u 8 false false fun s =>
    if !founding u && s.ready u && level != s.get (Hdr.adr u) Hdr.ifvReq then (s.staticRefused u 8, .static)
    else
      let s1 := s.ifvSet u level
      if level < ifvMinOf u then s1.refuse u 8 else s1.done

end Sys2Proof.Machine
end

