-- ==== Sys2Proof/Machine/Handover.lean ====
section
/-!
DEFINITION. The commands at which a handover of the service controller may end, with the unit resets that waited for that end
(R496–R507).
-/

namespace Sys2Proof.Machine

/-- The pause ends in the tick of its instant: the reserve pipeline carries the role, and the old one is tested (R497). -/
def execHandoverPauseEnd (role : Fin 4) (s : State) : Host.Outcome State Fault Refusal :=
  .next (match s.svc.pause with
    | some p =>
        if p.role = role ∧ p.begun ∧ s.lineNs ≤ p.start + pauseNs ∧ p.start + pauseNs ≤ s.lineNs + 40 then (s.pauseOver p).dueResets
        else s
    | none => s)

/-- The yield limit passes (R496). -/
def execYieldLimitExpiry (s : State) : Host.Outcome State Fault Refusal :=
  .next (if s.yieldEnd ≤ s.ticks then s.yieldLimit.dueResets else s)

/-- A yield limit that has passed has its effect, if no command has given it in its tick (R496). -/
def State.yieldTick (s : State) : State :=
  if s.svc.dueCore.isSome && decide (s.yieldEnd < s.ticks) then s.yieldLimit.dueResets else s

/-- A copy ends (R500, R501, R505). -/
def execBankCopyEnd (kind : Fin 9) (s : State) : Host.Outcome State Fault Refusal := .next (s.copyEnds kind).dueResets

/-- Scrub visits a word of a bank, or another access meets an error in it (R503, R504); `error` is 0 none, 1 correctable,
2 uncorrectable. -/
def execScrubVisit (kind : Fin 9) (bank : Fin 17) (first : Bool) (error : Fin 3) (owner : Fin 24) (s : State) :
    Host.Outcome State Fault Refusal := .next (s.scrub kind bank first error owner).dueResets

/-- CORE_YIELD, with the resets that waited for the end of the core's handover (R496, R507). -/
def State.yields (s : State) (core : Nat) : WRes :=
  let r := s.coreYield core
  (r.1.dueResets, r.2)

/-- A write of CORE_YIELD. -/
def execCoreYield (o : Sys2Proof.Origin) (core : Fin 26) (s : State) : Host.Outcome State Fault Refusal :=
  (s.svcCmd o 0 core fun s => s.yields core).out

end Sys2Proof.Machine
end

