-- ==== Sys2Proof/Machine/Jtag.lean ====
section
/-!
DEFINITION. The test access port (R587).  A scan is one command: what the TAP captures leaves first, and what is shifted
in is taken at its end.
-/

namespace Sys2Proof.Machine

/-- The TAP is powered in every state except Off (R489). -/
def State.tap (s : State) (i : TapInstr) (cells : List Bool) (out : List Bool) : State :=
  if s.pwr.off then s else ({ s with jtag := ⟨i, cells⟩ } : State).emit (.jtag out)

/-- The balls are taken from their functions. -/
def State.ballsTaken (s : State) : Bool := [.extest, .extestPulse, .extestTrain, .clamp, .highz].contains s.jtag.instr

/-- JTAG_TRST_N resets the TAP, which then selects IDCODE (IEEE 1149.1). -/
def execJtagTrst (s : State) : Host.Outcome State Fault Refusal :=
  .next (if s.pwr.off then s else { s with jtag := { s.jtag with instr := .idcode } })

/-- The bits that leave the bypass register while `tdi` is shifted in. -/
def bypassed (tdi : List Bool) : List Bool := (false :: tdi).take tdi.length

/-- BYPASS. -/
def execBypass (tdi : List Bool) (s : State) : Host.Outcome State Fault Refusal := .next (s.tap .bypass s.jtag.cells (bypassed tdi))

/-- IDCODE, bit 0 first: a one, the manufacturer's JEP106 number, the part number 4160h and the stepping. -/
def idcode : List Bool :=
  [true] ++ (List.range 11).map (bit Config.jep106) ++ (List.range 16).map (bit 0x4160) ++ (List.range 4).map (bit Config.stepping)

/-- IDCODE leaves, bit 0 first. -/
def execIdcode (s : State) : Host.Outcome State Fault Refusal :=
  .next (s.tap .idcode s.jtag.cells idcode)

/-- SAMPLE/PRELOAD: the balls are sampled and the cells loaded. -/
def execSamplePreload (pins load : List Bool) (s : State) : Host.Outcome State Fault Refusal := .next (s.tap .samplePreload load pins)

/-- EXTEST: the cells drive the balls. -/
def execExtest (pins load : List Bool) (s : State) : Host.Outcome State Fault Refusal := .next (s.tap .extest load pins)

/-- EXTEST_PULSE. -/
def execExtestPulse (pins load : List Bool) (s : State) : Host.Outcome State Fault Refusal := .next (s.tap .extestPulse load pins)

/-- EXTEST_TRAIN. -/
def execExtestTrain (pins load : List Bool) (s : State) : Host.Outcome State Fault Refusal := .next (s.tap .extestTrain load pins)

/-- CLAMP: the cells drive the balls, with the bypass register between TDI and TDO. -/
def execClamp (tdi : List Bool) (s : State) : Host.Outcome State Fault Refusal := .next (s.tap .clamp s.jtag.cells (bypassed tdi))

/-- HIGHZ: the outputs float, with the bypass register between TDI and TDO. -/
def execHighz (tdi : List Bool) (s : State) : Host.Outcome State Fault Refusal := .next (s.tap .highz s.jtag.cells (bypassed tdi))

end Sys2Proof.Machine
end

