-- ==== Sys2Proof/Machine/Mgmt.lean ====
section
/-!
DEFINITION. The commands of the management port: Naonant requests without a register access, event messages, MCTP
control, PLDM and SPDM (R518–R535).
-/

namespace Sys2Proof.Machine

/-! ## Naonant (R521) -/

/-- GET_VERSION. -/
def execGetVersion (m : BitVec 4 × BitVec 8) (s : State) : Host.Outcome State Fault Refusal :=
  .next (s.naonantServe m ncGET_VERSION true fun s => (s, nsOK, [1#8, 2#8]))

/-- RESTART reruns the start sequence (R67, R535). -/
def execRestart (m : BitVec 4 × BitVec 8) (confirm : Word) (s : State) : Host.Outcome State Fault Refusal :=
  let ok := s.mgtUp && m.1 == 2 && confirm == 0x54535352#32 && s.leads .management
  let s1 := s.naonantServe m ncRESTART false fun s =>
    if confirm ≠ 0x54535352#32 then (s, nsBAD_REQUEST, [])
    else if !s.leads .management then (s.notLead 20 0, nsNOT_LEAD, [])
    else (s, nsOK, [])
  .next (if ok then s1.deviceRestart else s1)

/-- Words of a staging message are written in turn; the first that is turned away ends it. -/
def stageWords : List Word → State → WRes
  | [], s => s.done
  | w :: ws, s =>
      match s.stageData .management w with
      | (s1, .ok) => stageWords ws s1
      | r => r

/-- STAGE_WRITE: CFG_STAGE_ADDR and then the data words (R87, R88). -/
def execStageWrite (m : BitVec 4 × BitVec 8) (offset : Word) (data : List Byte) (s : State) : Host.Outcome State Fault Refusal :=
  .next (s.naonantServe m ncSTAGE_WRITE true fun s =>
    let n := data.length
    if n < 4 ∨ 256 < n ∨ n % 4 ≠ 0 ∨ offset.toNat % 4 ≠ 0 then (s, nsBAD_REQUEST, [])
    else
      let (s1, w1) := s.stageAddr .management offset.toNat
      let (s2, w2) := if w1 = .ok then stageWords ((groups 4 (n / 4) data).map fun b => BitVec.ofNat 32 (leNat b)) s1 else (s1, w1)
      (s2, w2.code, []))

/-- TIME_READ: line time, its stamp and TU_STATUS of one tick. -/
def execTimeRead (m : BitVec 4 × BitVec 8) (s : State) : Host.Outcome State Fault Refusal :=
  .next (s.naonantServe m ncTIME_READ false fun s =>
    let c := s.time.line
    (s, nsOK, leBytes 6 (clkSec c) ++ leBytes 4 (clkNs c) ++ leBytes 4 (stampOf s.lineNs).toNat ++ leBytes 4 (s.rd TuStatus.adr).toNat))

/-- ATTEST_KEY: the public key that firmware gives; none while it does not serve (R533, R534). -/
def execAttestKey (m : BitVec 4 × BitVec 8) (key : Option (List Byte)) (s : State) : Host.Outcome State Fault Refusal :=
  .next (s.naonantServe m ncATTEST_KEY false fun s =>
    if s.getB SysTrust.adr SysTrust.keysLocked then (s, nsKEYS_LOCKED, [])
    else if s.halted then (s, nsHALTED, [])
    else match (if s.asleep || s.boot.replacing.isSome || s.bootStep != 0xFF then none else key) with
      | some k => (s, nsOK, slice k 0 96)
      | none => (s, nsBUSY, []))

/-! ## Event messages (R531) -/

/-- The oldest event that the management side still has to get. -/
def State.mgtHead (s : State) : Option (Staged × Nat) := s.staged.findSome? fun e => e.mgt.map fun q => (e, q)

/-- The management side is done with its oldest event: it leaves staging when the host is too (R513). -/
def mgtDone : List Staged → List Staged
  | [] => []
  | e :: l => if e.mgt.isNone then e :: mgtDone l else if e.host then { e with mgt := none } :: l else l

/-- The EVENT message of an event. -/
def State.eventBytes (s : State) (e : Staged) (q : Nat) : List Byte :=
  let fl := s.get SvcStaging.adr SvcStaging.lost + 2 * b2n (s.get PwrStatus.adr PwrStatus.state == 3)
  naonant 2 ncEVENT (s.free % 256) 0
    (leBytes 2 q ++ leBytes 2 e.ev ++ leBytes 4 e.stamp.toNat ++ leBytes 4 e.detail.toNat ++ leBytes 1 fl)

/-- The oldest event message is delivered, or discarded. -/
def State.eventGone (s : State) (bytes : Option (List Byte)) : State :=
  let s1 := (s.putStaged (mgtDone s.staged)).busStop
  let s2 : State := { s1 with mgt := { s1.mgt with tried := false, retries := 0 } }
  match bytes with
  | some b => (s2.emit (.mgt b)).tickFree
  | none => s2

/-- An attempt to send the oldest message; without an endpoint, or with ENABLE 0, it is discarded. -/
def State.tryEvent (s : State) (taken : Bool) (miss : State) : State :=
  match s.mgtHead with
  | none => s
  | some (e, q) =>
      if s.get MgtStatus.adr MgtStatus.eid = 0 ∨ s.act MgtEvents.adr MgtEvents.enable = 0 then s.eventGone none
      else if taken then s.eventGone (some (s.eventBytes e q))
      else miss

/-- The oldest event is sent; `taken` says whether the transport took every byte. -/
def execEventMessage (taken : Bool) (s : State) : Host.Outcome State Fault Refusal :=
  .next (if s.mgtUp && !s.mgt.tried then
      s.tryEvent taken { s with mgt := { s.mgt with tried := true, retries := 0 } }
    else s)

/-- RETRY_MS has passed: the message is tried again, and discarded after RETRIES tries. -/
def execEventRetry (taken : Bool) (s : State) : Host.Outcome State Fault Refusal :=
  let limit := s.act MgtEvents.adr MgtEvents.retries
  let n := s.mgt.retries + 1
  .next (if s.mgtUp && s.mgt.tried then
      if limit < n then s.eventGone none
      else s.tryEvent taken (if n = limit then s.eventGone none else { s with mgt := { s.mgt with retries := n } })
    else s)

/-- MGT_ALERT_N is driven low while an event message waits, in SMBus mode (R519). -/
def State.alertLow (s : State) : Bool := s.get MgtStatus.adr MgtStatus.mode == 1 && s.mgtHead.isSome

/-! ## MCTP control (R518, R519); message layouts are those of DSP0236 (PRESUMED, log 37) -/

/-- A control request is answered. -/
def State.mctp (s : State) (iid : BitVec 5) (cmd cc : Nat) (body : List Byte) : State :=
  if s.mgtUp then s.busStop.emit (.mgt (leBytes 1 0 ++ leBytes 1 iid.toNat ++ leBytes 1 cmd ++ leBytes 1 cc ++ body)) else s

/-- Set Endpoint ID, from physical address `src`. -/
def execSetEndpointId (iid : BitVec 5) (src : BitVec 7) (eid : BitVec 8) (s : State) : Host.Outcome State Fault Refusal :=
  .next (if !s.mgtUp then s
    else if eid = 0#8 ∨ eid = 0xFF#8 then s.mctp iid 1 2 []
    else
      let s1 := s.set MgtStatus.adr MgtStatus.eid eid.toNat
      ({ s1 with mgt := { s1.mgt with owner := src.toNat } } : State).mctp iid 1 0 [0#8, eid, 0#8])

/-- Get Endpoint ID. -/
def execGetEndpointId (iid : BitVec 5) (s : State) : Host.Outcome State Fault Refusal :=
  .next (s.mctp iid 2 0 (leBytes 1 (s.get MgtStatus.adr MgtStatus.eid) ++ [0#8, 0#8]))

/-- Bytes that the spec does not spell. -/
def State.freeData (s : State) (n : Nat) : List Byte := slice (Config.freeBytes s.freeCtr) 0 n

/-- Get MCTP Version Support of a message type. -/
def execGetMctpVersionSupport (iid : BitVec 5) (type : BitVec 8) (s : State) : Host.Outcome State Fault Refusal :=
  .next (if type = 0#8 ∨ type = 0xFF#8 then s.mctp iid 4 0 [1#8, 0xF1#8, 0xF3#8, 0xFF#8, 0x00#8]
    else if type = 1#8 ∨ type = 5#8 ∨ type = 0x7E#8 then (s.mctp iid 4 0 (1#8 :: s.freeData 4)).tickFree
    else s.mctp iid 4 0x80 [])

/-- Get Message Type Support. -/
def execGetMessageTypeSupport (iid : BitVec 5) (s : State) : Host.Outcome State Fault Refusal :=
  .next (s.mctp iid 5 0 [3#8, 1#8, 5#8, 0x7E#8])

/-- Get Vendor Defined Message Support. -/
def execGetVendorDefinedMessageSupport (iid : BitVec 5) (selector : BitVec 8) (s : State) : Host.Outcome State Fault Refusal :=
  .next (if selector = 0#8 then (s.mctp iid 6 0 ([0xFF#8, 0#8] ++ beBytes 2 0x1F8C ++ s.freeData 2)).tickFree else s.mctp iid 6 2 [])

/-- An I3C controller gives a dynamic address: the port runs in I3C mode from here on (R519). -/
def execI3cDynamicAddress (a : BitVec 7) (s : State) : Host.Outcome State Fault Refusal :=
  .next (if s.mgtUp then (s.set MgtStatus.adr MgtStatus.mode 2).set MgtSmbus.adr MgtSmbus.dynAddr a.toNat else s)

/-! ## PLDM (R532); message layouts, completion codes and states are those of DSP0240, DSP0248 and DSP0267 (PRESUMED, log 37) -/

/-- A PLDM request is answered. -/
def State.pldm (s : State) (iid : BitVec 5) (type cmd cc : Nat) (body : List Byte) : State :=
  if s.mgtUp then
    s.busStop.emit (.mgt (leBytes 1 1 ++ leBytes 1 iid.toNat ++ leBytes 1 type ++ leBytes 1 cmd ++ leBytes 1 cc ++ body))
  else s

/-- The device sends a PLDM request of type 5. -/
def State.pldmAsks (s : State) (cmd : Nat) (body : List Byte) : State :=
  (s.emit (.mgt (leBytes 1 1 ++ leBytes 1 (0x80 + s.free % 32) ++ leBytes 1 5 ++ leBytes 1 cmd ++ body))).tickFree

/-- The supported types and the commands of each. -/
def pldmTypes : List Nat := [0, 2, 5]
def pldmCommands : Nat → List Nat
  | 0 => [0x02, 0x03, 0x04, 0x05]
  | 2 => [0x11, 0x21, 0x50, 0x51]
  | _ => [0x10, 0x13, 0x14, 0x15, 0x16, 0x17, 0x18, 0x1A, 0x1B, 0x1D]

/-- A bit map of `n` bytes. -/
def bitMap (n : Nat) (l : List Nat) : List Byte := leBytes n (l.map fun i => 2 ^ i).sum

/-- GetTID. -/
def execGetTid (iid : BitVec 5) (s : State) : Host.Outcome State Fault Refusal := .next (s.pldm iid 0 2 0 (s.freeData 1)).tickFree

/-- GetPLDMVersion. -/
def execGetPldmVersion (iid : BitVec 5) (type : BitVec 8) (s : State) : Host.Outcome State Fault Refusal :=
  .next (if pldmTypes.contains type.toNat then (s.pldm iid 0 3 0 (s.freeData 13)).tickFree else s.pldm iid 0 3 0x83 [])

/-- GetPLDMTypes. -/
def execGetPldmTypes (iid : BitVec 5) (s : State) : Host.Outcome State Fault Refusal := .next (s.pldm iid 0 4 0 (bitMap 8 pldmTypes))

/-- GetPLDMCommands. -/
def execGetPldmCommands (iid : BitVec 5) (type : BitVec 8) (s : State) : Host.Outcome State Fault Refusal :=
  .next (if pldmTypes.contains type.toNat then s.pldm iid 0 5 0 (bitMap 32 (pldmCommands type.toNat)) else s.pldm iid 0 5 0x83 [])

/-- GetPDRRepositoryInfo. -/
def execGetPdrRepositoryInfo (iid : BitVec 5) (s : State) : Host.Outcome State Fault Refusal :=
  .next (s.pldm iid 2 0x50 0 (s.freeData 40)).tickFree

/-- GetPDR. -/
def execGetPdr (iid : BitVec 5) (s : State) : Host.Outcome State Fault Refusal := .next (s.pldm iid 2 0x51 0 (Config.freeBytes s.freeCtr)).tickFree

/-- GetSensorReading of numeric sensor 1 to 4, whose reading comes from the die. -/
def execGetSensorReading (iid : BitVec 5) (sensor : BitVec 16) (reading : Word) (s : State) : Host.Outcome State Fault Refusal :=
  .next (if 1 ≤ sensor.toNat ∧ sensor.toNat ≤ 4 then
      s.pldm iid 2 0x11 0 ([5#8, 0#8, 0#8, 0#8, 0#8, 0#8] ++ leBytes 4 reading.toNat)
    else s.pldm iid 2 0x11 0x80 [])

/-- GetStateSensorReadings of the power state and the halt code. -/
def execGetStateSensorReadings (iid : BitVec 5) (sensor : BitVec 16) (s : State) : Host.Outcome State Fault Refusal :=
  let ans (v : Nat) : State := (s.pldm iid 2 0x21 0 ([1#8, 0#8] ++ leBytes 1 v ++ s.freeData 2)).tickFree
  .next (if sensor = 10#16 then ans (s.get PwrStatus.adr PwrStatus.state)
    else if sensor = 11#16 then ans (s.get BootStatus.adr BootStatus.haltCode)
    else s.pldm iid 2 0x21 0x80 [])

/-- States of a firmware device. -/
def fdIDLE : Nat := 0
def fdLEARN : Nat := 1
def fdREADY : Nat := 2
def fdDOWNLOAD : Nat := 3
def fdVERIFY : Nat := 4
def fdAPPLY : Nat := 5

/-- The update moves on. -/
def State.fd (s : State) (st : Nat) : State :=
  { s with mgt := { s.mgt with pldm := { s.mgt.pldm with state := st, previous := s.mgt.pldm.state } } }

/-- The answer to a request that the update's state does not take. -/
def State.fdWrong (s : State) (iid : BitVec 5) (cmd : Nat) : State :=
  s.pldm iid 5 cmd (if s.mgt.pldm.state = fdIDLE then 0x80 else 0x84) []

/-- RequestUpdate: refused without the lead, and in Bivouac (R532, R535). -/
def execRequestUpdate (iid : BitVec 5) (s : State) : Host.Outcome State Fault Refusal :=
  .next (if !s.mgtUp then s
    else if s.mgt.pldm.state ≠ fdIDLE then s.pldm iid 5 0x10 0x81 []
    else if !s.leads .management || s.asleep || s.dark 2 then s.pldm iid 5 0x10 0x8A []
    else (s.fd fdLEARN).pldm iid 5 0x10 0 [0#8, 0#8, 0#8])

/-- PassComponentTable; `last` marks the end of the table. -/
def execPassComponentTable (iid : BitVec 5) (last : Bool) (s : State) : Host.Outcome State Fault Refusal :=
  .next (if s.mgt.pldm.state = fdLEARN then (if last then s.fd fdREADY else s).pldm iid 5 0x13 0 [0#8, 0#8] else s.fdWrong iid 0x13)

/-- UpdateComponent: component 1 or 2 of a size that the staging area holds. -/
def execUpdateComponent (iid : BitVec 5) (component : BitVec 16) (size : Word) (s : State) : Host.Outcome State Fault Refusal :=
  .next (if s.mgt.pldm.state ≠ fdREADY then s.fdWrong iid 0x14
    else if (component = 1#16 ∨ component = 2#16) ∧ size.toNat ≤ s.stageArea.2 then
      let s1 := s.fd fdDOWNLOAD
      let s2 : State := { s1 with mgt := { s1.mgt with pldm := { s1.mgt.pldm with component := component.toNat, size := size.toNat, offset := 0 } } }
      (s2.pldm iid 5 0x14 0 ([0#8, 0#8, 0#8, 0#8, 0#8, 0#8] ++ s.freeData 2)).tickFree
    else (s.pldm iid 5 0x14 0 ([1#8] ++ s.freeData 7)).tickFree)

/-- An update goes on: the flash takes staging and the management side leads. -/
def State.fdRuns (s : State) (st : Nat) : Bool :=
  s.mgtUp && s.mgt.pldm.state == st && s.leads .management && s.stageOpen && !s.asleep && !s.dark 2

/-- RequestFirmwareData: the next bytes are asked for, arrive and are staged; a sector is erased as it is entered. -/
def execRequestFirmwareData (data : List Byte) (s : State) : Host.Outcome State Fault Refusal :=
  let p := s.mgt.pldm
  let d := data.take (p.size - p.offset)
  .next (if s.fdRuns fdDOWNLOAD && !d.isEmpty && !s.getB CfgStageCmd.adr CfgStageCmd.busy then
      let base := s.stageArea.1
      let s1 := s.pldmAsks 0x15 (leBytes 4 p.offset ++ leBytes 4 d.length)
      let first := (p.offset + 0xFFFF) / 0x10000
      let last := (p.offset + d.length + 0xFFFF) / 0x10000
      let s2 := (List.range (last - first)).foldl (fun (s : State) i => s.emit (.flashErase (base + 0x10000 * (first + i)))) (s1.startClocks [ckFLS])
      let s3 := s2.emit (.flashProgram (base + p.offset) d)
      { s3 with mgt := { s3.mgt with pldm := { s3.mgt.pldm with offset := p.offset + d.length } } }
    else s)

/-- TransferComplete, once the component has been pulled whole. -/
def execTransferComplete (s : State) : Host.Outcome State Fault Refusal :=
  .next (if s.fdRuns fdDOWNLOAD && decide (s.mgt.pldm.size ≤ s.mgt.pldm.offset) then (s.fd fdVERIFY).pldmAsks 0x16 [0#8] else s)

/-- VerifyComplete: checks 1 to 3 of R84 on the staged envelope and image. -/
def execVerifyComplete (envelope image : List Byte) (s : State) : Host.Outcome State Fault Refusal :=
  .next (if s.fdRuns fdVERIFY then
      let good := match s.boot.hdr with
        | some h => !([0x10, 0x11, 0x17].contains (s.installFault h envelope image))
        | none => false
      (s.fd (if good then fdAPPLY else fdREADY)).pldmAsks 0x17 [if good then 0#8 else 1#8]
    else s)

/-- ApplyComplete reports success once MARKER is written. -/
def execApplyComplete (s : State) : Host.Outcome State Fault Refusal :=
  .next (if s.fdRuns fdAPPLY then
      ((s.startClocks [ckFLS]).emit (.flashProgram s.stageArea.1 (leBytes 4 0xA55AC33C)) |>.fd fdREADY).pldmAsks 0x18 [0#8]
    else s)

/-- ActivateFirmware sets no state of its own; the update mode ends. -/
def execActivateFirmware (iid : BitVec 5) (s : State) : Host.Outcome State Fault Refusal :=
  .next (if s.mgt.pldm.state = fdREADY then (((s.fd fdIDLE).pldm iid 5 0x1A 0 (s.freeData 2))).tickFree else s.fdWrong iid 0x1A)

/-- GetStatus. -/
def execGetStatus (iid : BitVec 5) (s : State) : Host.Outcome State Fault Refusal :=
  .next (s.pldm iid 5 0x1B 0 (leBytes 1 s.mgt.pldm.state ++ leBytes 1 s.mgt.pldm.previous ++ s.freeData 8)).tickFree

/-- CancelUpdate. -/
def execCancelUpdate (iid : BitVec 5) (s : State) : Host.Outcome State Fault Refusal :=
  .next (if s.mgt.pldm.state = fdIDLE then s.fdWrong iid 0x1D else (s.fd fdIDLE).pldm iid 5 0x1D 0 (leBytes 9 0))

/-! ## SPDM (R533, R534); message layouts are those of DSP0274 (PRESUMED, log 37) -/

/-- An SPDM message leaves. -/
def State.spdm (s : State) (body : List Byte) : State := if s.mgtUp then s.busStop.emit (.mgt (5#8 :: body)) else s

/-- An ERROR response. -/
def spdmError (code : Byte) : List Byte := [0x12#8, 0x7F#8, code, 0#8]

/-- GET_VERSION: 1.2 alone. -/
def execSpdmGetVersion (s : State) : Host.Outcome State Fault Refusal :=
  .next (s.spdm [0x10#8, 0x04#8, 0#8, 0#8, 0#8, 1#8, 0x00#8, 0x12#8])

/-- GET_CAPABILITIES: CHAL_CAP, MEAS_CAP with signature and PUB_KEY_ID_CAP. -/
def execGetCapabilities (s : State) : Host.Outcome State Fault Refusal :=
  .next (s.spdm ([0x12#8, 0x61#8, 0#8, 0#8] ++ s.freeData 4 ++ leBytes 4 (2 ^ 2 + 2 ^ 4 + 2 ^ 16) ++ slice (s.freeData 12) 4 8)).tickFree

/-- NEGOTIATE_ALGORITHMS: ECDSA P-384 with SHA-384. -/
def execNegotiateAlgorithms (s : State) : Host.Outcome State Fault Refusal :=
  .next (s.spdm ([0x12#8, 0x63#8, 0#8, 0#8] ++ leBytes 2 36 ++ [1#8, 0#8] ++ leBytes 4 4 ++ leBytes 4 0x80 ++ leBytes 4 2 ++ leBytes 16 0))

/-- A request that firmware serves: its answer, none while it does not serve yet (R534). -/
def State.spdmRelay (s : State) (req : List Byte) (answer : Option (List Byte)) : State :=
  if !s.mgtUp then s
  else if s.getB SysTrust.adr SysTrust.keysLocked || s.halted then s.spdm (spdmError 5#8)
  else match (if s.asleep || s.boot.replacing.isSome || s.bootStep != 0xFF then none else answer) with
    | some a => (s.emit (.toFirmware req)).spdm a
    | none => s.spdm (spdmError 3#8)

/-- CHALLENGE. -/
def execChallenge (req : List Byte) (answer : Option (List Byte)) (s : State) : Host.Outcome State Fault Refusal :=
  .next (s.spdmRelay req answer)

/-- GET_MEASUREMENTS. -/
def execGetMeasurements (req : List Byte) (answer : Option (List Byte)) (s : State) : Host.Outcome State Fault Refusal :=
  .next (s.spdmRelay req answer)

end Sys2Proof.Machine
end

