-- ==== Sys2Proof/Machine/PowerOps.lean ====
section
/-!
DEFINITION. The power controller: requests, transitions and what may stop a clock (R472–R492).
-/

namespace Sys2Proof.Machine

/-- STATE of PWR_STATUS. -/
def psSUMMIT : Nat := 0
def psCAMP : Nat := 1
def psENTERING : Nat := 2
def psBIVOUAC : Nat := 3
def psWAKING : Nat := 4
def State.power (s : State) : Nat := s.get PwrStatus.adr PwrStatus.state

/-- Targets of a request. -/
def ptSUMMIT : Nat := 1
def ptCAMP : Nat := 2
def ptBIVOUAC : Nat := 3

/-- STATUS of PWR_CMD. -/
def pcOK : Nat := 0
def pcQUEUED : Nat := 1
def pcREFUSED_ROPES : Nat := 2
def pcREFUSED_VALUE : Nat := 3
def State.pwrStatus (s : State) (st : Nat) : State := s.set PwrCmd.adr PwrCmd.status st

/-- A transition begins. -/
def State.pwrBegin (s : State) (run : Nat) : State :=
  ({ s with pwr := { s.pwr with run := some run } } : State).set PwrCmd.adr PwrCmd.busy 1 |>.pwrStatus pcOK

/-- Every rope is OFF. -/
def State.ropesOff (s : State) : Bool := (List.range 16).all fun r => s.ropeMode r == rmOFF

/-- The entry to Bivouac begins: units stop, rotations are abandoned, comparators are disarmed, and the link
leaves L0 (R130, R479, R501). -/
def State.enterBivouac (s : State) : State :=
  let a := PwrStatus.adr
  let s1 := ((s.pwrBegin 3).set a PwrStatus.wakeTo (s.power + 1)).set a PwrStatus.state psENTERING
  let s2 := s1.svcAbandon.modTime fun t => { t with armed := [] }
  if s2.hif.linkLost then s2 else s2.linkDown

/-- A wake begins (R481–R483). -/
def State.beginWake (s : State) (target cause : Nat) : State :=
  let a := PwrStatus.adr
  ((((s.pwrBegin 4).set a PwrStatus.wakeTo target).set a PwrStatus.wakeCause cause).set a PwrStatus.state psWAKING)

/-- A request runs (R479, R485): target 1 SUMMIT, 2 CAMP, 3 BIVOUAC.  A write of PWR_CMD ends no Bivouac, since comparators and
management wakes alone do (R481); STATUS then reads REFUSED_VALUE, with POWER_REFUSED (DESIGN CHOICE, log 115). -/
def State.runReq (s : State) (target cause : Nat) : State :=
  let st := s.power
  if target = ptBIVOUAC then
    if st = psBIVOUAC then s.pwrStatus pcOK
    else if s.ropesOff then s.enterBivouac
    else (s.pwrStatus pcREFUSED_ROPES).raise 0 7 0
  else if st = psBIVOUAC then (if cause = 0 then (s.pwrStatus pcREFUSED_VALUE).raise 0 7 0 else s.beginWake target cause)
  else if st + 1 = target then s.pwrStatus pcOK
  else s.pwrBegin target

/-- A request arrives: it runs, or becomes the pending one (R485). -/
def State.powerReq (s : State) (target cause : Nat) : State :=
  if s.pwr.run.isSome then
    let s1 := (s.set PwrStatus.adr PwrStatus.pending target).pwrStatus pcQUEUED
    { s1 with pwr := { s1.pwr with pendCause := cause } }
  else s.runReq target cause

/-- A write of PWR_CMD (R485, R492). -/
def State.powerWrite (s : State) (o : Sys2Proof.Origin) (target : Nat) : WRes :=
  s.gate o 0 0x1100 true false fun s =>
    if target = 0 then ((s.pwrStatus pcREFUSED_VALUE).raise 0 7 0, .value) else (s.powerReq target 0).done

/-- A power request from outside: a write of PWR_CMD, or with `msg` a Naonant POWER request, which wakes the device
without the lead (R482, R521, R535). -/
def State.powerMsg (s : State) (o : Sys2Proof.Origin) (msg : Option (BitVec 4 × BitVec 8)) (target : Nat) : State :=
  match msg with
  | none => (s.powerWrite o target).1
  | some m => s.naonantServe m ncPOWER true fun s =>
      if s.halted then (s, nsHALTED, [])
      else if s.asleep && target != ptBIVOUAC then (s.powerReq target 3, nsOK, [])
      else
        let (s1, w) := s.powerWrite .management target
        (s1, w.code, [])

/-! ## Clocks (R474, R476) -/

/-- The clocks that the pre-start of rope `r` covers (R124). -/
def State.ropeClocks (s : State) (r : Nat) : List Nat :=
  let ports := s.ropePorts s.inForce r
  [ckCXE, ckTM] ++ (if ports.any (· < 8) then s.roleClocks 0 else []) ++ (if ports.any (8 ≤ ·) then s.roleClocks 1 else [])
    ++ ports.map (ckDP0 + ·)

/-- The clocks that a pre-start entry holds (R124, R476): kinds 32 and 33 are placements into a host and into an MPI region. -/
def State.heldClocks (s : State) (k : Nat) : List Nat :=
  if k < 16 then s.ropeClocks k else if k < 32 then [ckCXE, ckSYS] else if k = 32 then [ckSHX, ckSYS] else [ckSHX, ckCXE]

/-- The units on clock `c` have work in flight or waiting (R474): a core that has not fetched, host reads and requests, a cycle,
a role's frames, maintenance of the tables, queued frames, packets to make or to take, commands, messages, a flash operation
or the apply pass, and a cycle frame at its port. -/
def State.busyClock (s : State) (c : Nat) : Bool :=
  if c < 26 then s.boot.released.getLsbD c
  else if c = ckSYS then !s.hif.reads.isEmpty || !s.hif.xlate.isEmpty || !s.hif.asked.isEmpty || !s.qe.tx.isEmpty || s.staged.any (·.host)
  else if c = ckCXE then
    !s.cxe.frames.isEmpty || !s.cxe.lane0.isEmpty || !s.cxe.lane1.isEmpty || !s.pp.toCxe.isEmpty || s.cxe.ropes.any (·.latchedCycle.isSome) ||
      !s.mpi.exports.isEmpty || !s.mpi.checking.isEmpty
  else if c < ckLKP then
    match (s.kind rkPIPELINE).duty.findIdx? (· == c - ckPP0) with
    | some r => s.pp.frames.any (·.role == r) || s.pp.tails.any (·.2.1 == r)
    | none => false
  else if c = ckLKP then
    s.emt.cmd.isSome || s.emt.waiting.isSome || s.tcm.waiting.isSome || !s.tcm.updates.isEmpty || s.emt.tabs.any fun m => !m.learn.isEmpty
  else if c = ckTM then !s.tm.arriving.isEmpty || s.tm.queues.any fun x => !x.2.isEmpty
  else if c = ckSHX then
    !s.pp.toShx.isEmpty || !s.shx.parked.isEmpty || !s.shx.doorWait.isEmpty ||
      s.shx.conns.any fun x => !x.2.work.isEmpty || !x.2.todo.isEmpty || x.2.pkts.any (·.psn.isNone)
  else if c = ckNVF then !s.nvf.locks.isEmpty || !s.nvf.held.isEmpty || !s.nvf.recDue.isEmpty
  else if c = ckIGE then !s.ige.msgs.isEmpty
  else if c = ckFLS then !(s.get CfgStatus.adr CfgStatus.phase == 3 || s.get CfgStatus.adr CfgStatus.phase == 4) || s.boot.stageOp.isSome
  else s.cxe.frames.any fun f => f.port == c - ckDP0 && !f.left

/-- The frequency of a gatable clock in kHz (R23, R24); CLK_FLS is taken at its 200 MHz. -/
def State.clockKHz (s : State) (c : Nat) : Nat :=
  if c < 26 then 2400000
  else if c = ckSYS ∨ c = ckCXE ∨ c = ckSHX ∨ c = ckNVF then 1000000
  else if c = ckFLS then 200000
  else if c < ckDP0 then 1250000 else s.shadowKHz (.port (c - ckDP0))

/-- The units on clock `c` have been idle for PWR_GATE.IDLE of its cycles, counted in ticks of CLK_AON from the last work in Camp
(R474; log 114). -/
def State.idleLong (s : State) (c : Nat) : Bool :=
  decide (s.act PwrGate.adr PwrGate.idle * 1000000 ≤ (s.ticks - sget s.pwr.campAt s.pwr.workAt c) * 40 * s.clockKHz c)

/-- Camp may stop clock `c`: no pre-start holds it, its units have been idle for long enough, and for CLK_LKP the pipelines have
stopped.  That a core waits in WFI is what the command for its clock says (DESIGN CHOICE, log 114). -/
def State.gatable (s : State) (c : Nat) : Bool :=
  decide (c < 55) && !(s.time.prestarted.any fun x => (s.heldClocks x.1).contains c) && !s.busyClock c && s.idleLong c &&
    (c != ckLKP || (List.range 5).all fun i => s.pwr.stopped.contains (ckPP0 + i))

/-- In Camp a clock whose units have work runs, and its idle count starts over (R474). -/
def State.clockTick (s : State) : State := if s.power = psCAMP then s.startClocks ((List.range 55).filter s.busyClock) else s

/-- The base camp core has work, and CLK_BOOT runs: a start or a wake up to step 11, a fuse command, or a firmware replacement
(R474). -/
def State.bootRuns (s : State) : Bool :=
  (s.atStep s.bootStep && decide (s.bootStep < 12)) || s.boot.fuseCmd.isSome || s.boot.replacing.isSome

/-- CLK_PIPE stands still: the link is in L1, which every function in D3hot brings about (R480).  ASPM's own entry into L1 has no
command. -/
def State.pipeStopped (s : State) : Bool :=
  !s.hif.linkLost && (List.range 4).all fun f => s.getB (HifPfStatus.adr f) HifPfStatus.d3hot

/-- A pre-start of kind `k` for the instant `b` holds its clocks, and those that are stopped restart. -/
def State.prestart (s : State) (k b : Nat) (cs : List Nat) : State :=
  let s1 := s.startClocks cs
  if s1.time.prestarted.contains (k, b) then s1 else s1.modTime fun t => { t with prestarted := t.prestarted ++ [(k, b)] }

/-- The pre-start lead (R123). -/
def State.lead (s : State) : Nat := s.act TuPrestart.adr TuPrestart.lead

/-- The boundary of rope `r` whose instant plus `off`, less the lead, has come in this tick (R124, R476). -/
def State.leadOf (s : State) (r off : Nat) : Option Nat :=
  ((List.range 41).map fun i => s.lineNs + s.lead + i).find? fun t => decide (off ≤ t) && isBoundary s.inForce r (t - off)

/-- Rope `r` runs, or comes to run at its next boundary. -/
def State.ropeDue (s : State) (r : Nat) : Bool := s.ropeMode r != rmOFF || s.getB (CxeRope.adr r) CxeRope.enable

/-- Spread may not be enabled on CLK_CXE while an enabled launch offset is 752 ns (R136, R478). -/
def State.spreadBad (s : State) (v : Nat) : Bool :=
  decide (5 < bits v 18 16) ||
    (bit v 2 && (List.range 16).any fun r =>
      (ropeOn s.inForce r && (s.ropePorts s.inForce r).any fun p => ropeLaunch s.inForce p r == 752) ||
      (ropeOn s.rd r && (s.ropePorts s.rd r).any fun p => ropeLaunch s.rd p r == 752))

/-- A write of PWR_SPREAD: it reads at once, and each PLL takes it later (R477). -/
def State.spreadWrite (s : State) (o : Sys2Proof.Origin) (v : Word) : WRes :=
  s.gate o 0 0x1110 (s.rwlDiffers PwrSpread.adr v) false fun s =>
    if s.spreadBad v.toNat then s.refuse 0 0x1110
    else
      let s1 := (s.set PwrSpread.adr PwrSpread.depth (bits v.toNat 18 16)).set PwrSpread.adr PwrSpread.enable (bits v.toNat 9 0)
      ({ s1 with pwr := { s1.pwr with spreadDue := 0x3FF } } : State).done

end Sys2Proof.Machine
end

