-- ==== Sys2Proof/Machine/Power.lean ====
section
/-!
DEFINITION. The commands of the power controller (R19, R124, R472–R492, R580, R581).
-/

namespace Sys2Proof.Machine

/-- A power request for SUMMIT. -/
def execPowerSummit (o : Sys2Proof.Origin) (msg : Option (BitVec 4 × BitVec 8)) (s : State) : Host.Outcome State Fault Refusal :=
  .next (s.powerMsg o msg ptSUMMIT)

/-- A power request for CAMP. -/
def execPowerCamp (o : Sys2Proof.Origin) (msg : Option (BitVec 4 × BitVec 8)) (s : State) : Host.Outcome State Fault Refusal :=
  .next (s.powerMsg o msg ptCAMP)

/-- A power request for BIVOUAC. -/
def execPowerBivouac (o : Sys2Proof.Origin) (msg : Option (BitVec 4 × BitVec 8)) (s : State) : Host.Outcome State Fault Refusal :=
  .next (s.powerMsg o msg ptBIVOUAC)

/-- What the entry keeps: the selection of PWR_RETAIN, the SEAL, the tables' geometry and the signatures (R479, R486). -/
def State.keepNow (s : State) : State :=
  let k : Kept :=
    { table := s.act PwrRetain.adr PwrRetain.table, cxe := s.act PwrRetain.adr PwrRetain.cxe, imgSeal := s.boot.cfgSeal
      geometry := s.geometry
      sigs := s.signatures s.geometry (s.act PwrRetain.adr PwrRetain.table) (s.act PwrRetain.adr PwrRetain.cxe) }
  { s with pwr := { s.pwr with kept := some k } }

/-- A transition has ended in state `st`: POWER_STATE, and then the pending request (R485, R491). -/
def State.transitionEnds (s : State) (st : Nat) : State :=
  let a := PwrStatus.adr
  let s1 := (({ s with pwr := { s.pwr with run := none } } : State).set a PwrStatus.state st).set PwrCmd.adr PwrCmd.busy 0
  let s2 := s1.raise 0 4 (st + 16 * s1.get a PwrStatus.woke)
  let p := s2.get a PwrStatus.pending
  let s3 := s2.set a PwrStatus.pending 0
  if p = 0 then s2
  else if p = (if st = psBIVOUAC then ptBIVOUAC else st + 1) then s3.pwrStatus pcOK
  else s3.runReq p s3.pwr.pendCause

/-- The apply pass of a wake has ended, or none runs. -/
def State.wakeDone (s : State) : Bool :=
  let p := s.get CfgStatus.adr CfgStatus.phase
  s.boot.wake && !s.halted && s.bootStep == 0xFF && (p == 3 || p == 4)

/-- The running transition ends. -/
def execPowerState (s : State) : Host.Outcome State Fault Refusal :=
  .next (match s.pwr.run with
    | some 1 => ({ s with pwr := { s.pwr with stopped := [] } } : State).transitionEnds psSUMMIT
    | some 2 => ({ s with pwr := { s.pwr with campAt := s.ticks, workAt := [] } } : State).transitionEnds psCAMP
    | some 3 => s.keepNow.powerDown.transitionEnds psBIVOUAC
    | some 4 =>
        if s.wakeDone then
          let s1 := ((s.modBoot fun b => { b with wake := false }).set PwrStatus.adr PwrStatus.woke 1)
          ({ s1 with pwr := { s1.pwr with kept := none, campAt := s.ticks, workAt := [] } } : State).transitionEnds (s.get PwrStatus.adr PwrStatus.wakeTo - 1)
        else s
    | _ => s)

/-- Function `f` enters D3hot; the last of the four requests Bivouac where D3_BIVOUAC is 1 (R480). -/
def execD3hotEntry (f : Fin 4) (s : State) : Host.Outcome State Fault Refusal :=
  let a := HifPfStatus.adr f
  .next (if s.hif.linkLost || s.getB a HifPfStatus.d3hot then s
    else
      let s1 := s.set a HifPfStatus.d3hot 1
      if (List.range 4).all (fun g => s1.getB (HifPfStatus.adr g) HifPfStatus.d3hot) && s1.actB PwrCtrl.adr PwrCtrl.d3Bivouac
      then s1.powerReq ptBIVOUAC 0 else s1)

/-- HYST in mV (R492). -/
def hystMv (h : Nat) : Nat := match h with | 1 => 10 | 2 => 20 | 3 => 40 | 4 => 80 | _ => 0

/-- The ball of a comparator at `mv` mV is beyond its threshold in the direction of EDGE (R481). -/
def State.beyond (s : State) (i mv : Nat) : Bool :=
  let a := PwrWake.adr i
  let t := 100 + 10 * s.act a PwrWake.threshold
  if s.actB a PwrWake.edge then decide (mv < t) else decide (t < mv)

/-- It has returned across the hysteresis point (R481). -/
def State.returned (s : State) (i mv : Nat) : Bool :=
  let a := PwrWake.adr i
  let t := 100 + 10 * s.act a PwrWake.threshold
  let h := hystMv (s.act a PwrWake.hyst)
  if s.actB a PwrWake.edge then decide (t + h < mv) else decide (mv + h < t)

/-- The ball of comparator `i` has stood at `mv` mV for `cycles` cycles of CLK_AON (R481).  LEVEL shows it beyond its threshold
after DEBOUNCE cycles, whether it may trip or not, and no longer once it has returned across the hysteresis point; one that
comes to be beyond trips where ENABLE is 1.  What the input does between two commands is taken as the last of them says, and
exactly at its threshold it is not beyond (DESIGN CHOICE, log 116). -/
def execWakeTrip (i : Fin 2) (mv : BitVec 12) (cycles : BitVec 16) (s : State) : Host.Outcome State Fault Refusal :=
  .next (if s.pwr.off || !s.boot.perst then s
    else
      let l := s.get PwrStatus.adr PwrStatus.level
      if s.returned i mv.toNat then s.set PwrStatus.adr PwrStatus.level (dropBit l i)
      else if bit l i || !s.beyond i mv.toNat || decide (cycles.toNat < s.act (PwrWake.adr i) PwrWake.debounce) then s
      else
        let s1 := s.set PwrStatus.adr PwrStatus.level (withBit l i)
        if !s.actB (PwrWake.adr i) PwrWake.enable then s1
        else
          let s2 := s1.raise 0 5 i
          if s2.asleep then s2.powerReq (s2.get PwrStatus.adr PwrStatus.wakeTo) (i + 1) else s2)

/-- The unretained domains are powered up, and the start sequence begins without sampling the straps (R129, R483). -/
def execWakePowerUp (s : State) : Host.Outcome State Fault Refusal :=
  .next (if s.pwr.run = some 4 ∧ s.boot.wake = false then
      let s1 : State := if s.actB TuCtrl.adr TuCtrl.tuKeep then s
        else { s with regs := keepRegs (· != 3) s.regs, force := keepRegs (· != 3) s.force }
      let s2 := (s1.modTime fun t => { t with since0 := 0, since1 := 0 }).modBoot fun b => { b with wake := true }
      let s3 := ((s2.set PwrRetLost.adr PwrRetLost.table 0).set PwrRetLost.adr PwrRetLost.cxe 0).set PwrStatus.adr PwrStatus.woke 0
      s3.stepDone 1
    else s)

/-- The units of a gatable clock have been idle, and Camp stops it (R474). -/
def execClockStop (c : Fin 55) (s : State) : Host.Outcome State Fault Refusal :=
  .next (if s.power = psCAMP ∧ s.gatable c ∧ !s.pwr.stopped.contains c.val then
      { s with pwr := { s.pwr with stopped := s.pwr.stopped ++ [c.val] } }
    else s)

/-- A write of PWR_SPREAD (R478). -/
def execSpreadWrite (o : Sys2Proof.Origin) (v : Word) (s : State) : Host.Outcome State Fault Refusal := (s.spreadWrite o v).out

/-- The PLL of a spread-eligible clock takes the setting that was written, from step 12 on (R68, R477). -/
def execSpreadChange (c : Fin 10) (s : State) : Host.Outcome State Fault Refusal :=
  .next (if s.bootStep = 0xFF ∧ bit s.pwr.spreadDue c then
      let d := if bit (s.act PwrSpread.adr PwrSpread.enable) c then s.act PwrSpread.adr PwrSpread.depth else 0
      { s with pwr := { s.pwr with spread := s.pwr.spread.set c d, spreadDue := dropBit s.pwr.spreadDue c } }
    else s)

/-- VDD_AON has failed: the device is Off, and everything in it is lost (R97, R472, R581). -/
def execAonBrownout (s : State) : Host.Outcome State Fault Refusal :=
  let s1 := s.blank s.boot.perst
  .next { s1 with pwr := { s1.pwr with off := true } }

/-- The rails have risen in sequence, with PERST_N low: the device can leave Off (R580); the TAP resets (R587). -/
def execPowerUp (s : State) : Host.Outcome State Fault Refusal :=
  .next (if s.pwr.off then { s.blank false with jtag := State.reset.jtag } else s)

/-! ## Pre-starts (R19, R124, R476) -/

/-- The pre-start of rope `r`'s boundary, LEAD before it; a hold or a reset of U03 does not stop it (R128). -/
def execPrestart (r : Fin 16) (s : State) : Host.Outcome State Fault Refusal :=
  .next (match s.leadOf r 0 with
    | some b => if s.ropeDue r && !s.asleep then s.prestart r b (s.ropeClocks r) else s
    | none => s)

/-- The pre-start of rope `r`'s input deadline, held under the boundary of its cycle. -/
def execPrestartDeadline (r : Fin 16) (s : State) : Host.Outcome State Fault Refusal :=
  let d := ropeDeadline s.inForce r
  .next (match s.leadOf r d with
    | some t => if s.ropeDue r && !s.asleep then s.prestart (16 + r) (t - d) [ckCXE, ckSYS] else s
    | none => s)

/-- The pre-start of a held timed write's placement, LEAD before it: CLK_SHX, and CLK_CXE for an MPI region or CLK_SYS for a host
region (R476). -/
def execPrestartPlacement (s : State) : Host.Outcome State Fault Refusal :=
  .next (match s.shx.held.find? fun h => decide (h.due ≤ ((s.lineNs + 40 + s.lead : Nat) : Int)) &&
      !s.time.prestarted.contains (s.placeKind h, h.due.toNat) with
    | some h => s.prestart (s.placeKind h) h.due.toNat (s.heldClocks (s.placeKind h))
    | none => s)

end Sys2Proof.Machine
end

