-- ==== Sys2Proof/Machine/Regs.lean ====
section
/-!
DEFINITION. The commands that write registers (R8, R10, R52, R57, R550–R564, R592).
-/

namespace Sys2Proof.Machine

/-! ## Registers that do more than store -/

/-- A write that acts on nothing, and that an apply pass, a halt or a unit without power turns away like any other (R52,
R92). -/
def State.noAct (s : State) (o : Sys2Proof.Origin) (a : Nat) : WRes :=
  s.gate o (a / 0x100000) (a % 0x100000) false true State.done

/-- A write of registers of U00 to U03 that act.  GO of BOOT_FUSE_CMD goes back to 0 when the command ends, and by no write
(R90). -/
def State.ownLow (s : State) (o : Sys2Proof.Origin) (a n v : Nat) : Option WRes :=
  let plain (s : State) : WRes := s.plainAct a n v
  if a = PwrCmd.adr then some (s.powerWrite o (v % 4))
  else if a = PwrSpread.adr then some (s.spreadWrite o (wordAt v 0))
  else if a = SysLeadCmd.adr then some (s.leadWrite o (bits v 31 30) (bits v 13 0) none)
  else if a = BootFuseCmd.adr then
    some (if !bit v 31 then s.gate o 1 0x1014 (s.needsLead a n v) false fun s =>
        s.plainAct a n (v % 2 ^ 31 + 2 ^ 31 * s.get BootFuseCmd.adr BootFuseCmd.go)
      else if bits v 27 24 = 0 ∨ 4 < bits v 27 24 then s.gate o 1 0x1014 (s.needsLead a n v) false fun s => s.refuse 1 0x1014
      else s.fuseCmd o (bits v 27 24) (bits v 23 16) (bits v 7 0))
  else if a = BootRelease.adr then some (s.bootRelease o (v % 2 ^ 26))
  else if 0x140000 ≤ a ∧ a < 0x140000 + 8 * 26 then
    some (s.gate o 1 (a % 0x100000) false false fun s =>
      if o = .firmware ∨ o = .base then plain s else s.refuse 1 (a % 0x100000))
  else if a = CfgStageAddr.adr then some (s.stageAddr o (v % 2 ^ 32))
  else if a = CfgStageData.adr then some (s.stageData o (wordAt v 0))
  else if a = CfgStageCmd.adr then some (s.stageCmd o (v % 16))
  else if a = TuCtrl.adr then
    some (s.gate o 3 0x1000 true false fun s =>
      match plain s with
      | (t, .ok) => ((t.tuWrite (.word a (t.rd a))).tuWrite (.select (v % 2))).done
      | r => r)
  else if a = TuSlew.adr then
    some (s.gate o 3 (a % 0x100000) (s.needsLead a n v) false fun s =>
      match plain s with
      | (t, .ok) => (t.tuWrite (.word a (t.rd a))).done
      | r => r)
  else if a = TuCmd.adr then
    some (s.gate o 3 0x1010 (bit v 0) false fun s =>
      if bit v 0 then (match s.alignWrite with
        | (t, .ok) => (if bit v 1 then t.tuWrite .snap else t).done
        | r => r)
      else if bit v 1 then (s.tuWrite .snap).done else s.done)
  else if a = TuTxTail.adr then some (s.txTail o (v % 2 ^ 32))
  else if 0x301100 ≤ a ∧ a < 0x301140 then
    let d := (a - 0x301100) / 0x20
    (if a % 0x20 = 0 then
      some (s.gate o 3 (a % 0x100000) false false fun s =>
        match plain s with
        | (t, .ok) => t.domainCmd .firmware d (bit v 1) (bit v 0)
        | r => r)
    else if a % 0x20 = 4 then some (s.wdogWrite o d (v % 65536))
    else if a % 0x20 = 8 then
      some (s.gate o 3 (a % 0x100000) false false fun s =>
        match plain s with
        | (t, .ok) => (t.tuWrite (.word a (t.rd a))).done
        | r => r)
    else if a % 0x20 = 0x10 then some (s.domainStep o d (BitVec.ofNat 64 v))
    else none)
  else if 0x340000 ≤ a ∧ a < 0x340100 ∧ a % 0x20 = 0 then
    let k := (a - 0x340000) / 0x20
    some (s.gate o 3 (a % 0x100000) false false fun s =>
      let on := s.tpoEnabled k
      match s.plainAct a n (v / 2 * 2 + b2n on) with
      | (t, .ok) =>
          if bit v 0 == on then t.done
          else if on then (t.tpoStop k).done
          else match t.tpoArm k with
            | (_, .value) => s.refuse 3 (a % 0x100000)
            | r => r
      | r => r)
  else none

/-- A write of CXE_SLICE in SERVICE mode: shares keep apart, and enabled stations keep their owners and stay within their
shares (R177). -/
def State.cxeSliceWrite (s : State) (o : Sys2Proof.Origin) (a v : Nat) : WRes :=
  let k := (a - 0x402000) / 0x10
  let w := a % 0x10 / 4
  let off := a % 0x100000
  s.gate o 4 off (s.service && (s.cxeSliceWord k w ^^^ wordAt v 0) &&& accBits (· == .rwl) a != 0) false fun s =>
    if !s.service then s.done
    else
      let share (t : State) (j : Nat) : Nat × Nat := if w = 0 then t.sliceStations j else t.sliceImage j w
      let t : State := { s with cxe := { s.cxe with slices := sins s.cxe.slices (k * 3 + w) (wordAt v 0) } }
      let cap := if w = 0 then s.stationCount else imageSize
      if cap < (share t k).1 + (share t k).2 ∨ (List.range s.owners).any (fun j => j != k && sharesMeet (share t j) (share t k))
          ∨ !s.ownersKept t ∨ !t.stationsFit then s.refuse 4 off
      else t.done

/-- The word of the cam pool that address `a` of the page window reaches. -/
def State.poolIndex (s : State) (a : Nat) : Nat := s.act MpiCamPage.adr MpiCamPage.page * 65536 + (a - 0x5C0000) / 4

/-- A write of a word of the cam pool, through its page: the points of a VALID table take none (R199, R200). -/
def State.poolWrite (s : State) (o : Sys2Proof.Origin) (a v : Nat) : WRes :=
  s.gate o 5 (a % 0x100000) (sget 0 s.mpi.cam (s.poolIndex a) != wordAt v 0) false fun s =>
    if (List.range 256).any fun k => s.camValid k && inShare (s.camBase k, s.camCount k) (s.poolIndex a / 4) then
      s.refuse 5 (a % 0x100000)
    else if poolPoints ≤ s.poolIndex a / 4 then s.done
    else (s.modMpi fun m => { m with cam := sput 0 m.cam (s.poolIndex a) (wordAt v 0) }).done

/-- A write that acts on nothing, to a register that no slice owns: from a slice of PF0 it is discarded with NOT_LEAD (R597). -/
def State.notOwned (s : State) (o : Sys2Proof.Origin) (a : Nat) : WRes :=
  s.gate o (a / 0x100000) (a % 0x100000) false false State.done

/-- The writer reaches the register: a slice one that `own` says is its own (R597). -/
def State.reaches (_s : State) (o : Sys2Proof.Origin) (own : Nat → Bool) : Bool :=
  match o with
  | .slice k => own k
  | _ => true

/-- A write of registers of U04 and U05 that act. -/
def State.ownCyclic (s : State) (o : Sys2Proof.Origin) (a v : Nat) : Option WRes :=
  if 0x401100 ≤ a ∧ a < 0x401500 then
    let r := (a - 0x401100) / 0x40
    (if a % 0x40 = 0x2C then some (s.ropeCtrl o r (bit v 0) (bit v 1))
    else if a % 0x40 = 0x30 then some (if s.reaches o (fun k => s.ropeSlice r == k) then s.commit o r (v % 65536) else s.notOwned o a)
    else none)
  else if 0x402000 ≤ a ∧ a < 0x403000 then some (if a % 0x10 = 0xC then s.noAct o a else s.cxeSliceWrite o a v)
  else if 0x440000 ≤ a ∧ a < 0x480000 ∧ a % 0x40 = 0xC then
    (let n := (a - 0x440000) / 0x40
     some (if bit v 16 then s.recover o n
       else if s.reaches o (fun k => s.sliceOfStation n == some k) then s.noAct o a else s.notOwned o a))
  else if a = MpiAxisRelease.adr then some (s.axisRelease o (v % 4096))
  else if 0x501100 ≤ a ∧ a < 0x501900 ∧ a % 0x80 = 0x58 then
    some (if bit v 0 then s.pushSlot o ((a - 0x501100) / 0x80) else s.notOwned o a)
  else if 0x541000 ≤ a ∧ a < 0x542000 ∧ a % 0x10 = 0 then
    (let k := (a - 0x541000) / 0x10
     some (if bit v 31 then s.camCheck o k (v % 2 ^ 19) else s.camWithdraw o k (v % 2 ^ 19)))
  else if 0x5C0000 ≤ a ∧ a < 0x600000 then
    some (s.poolWrite o a v)
  else none

/-- A write of the LIMIT of table `t` and slice `k` in SERVICE mode (R274, R346). -/
def State.quotaWrite (s : State) (o : Sys2Proof.Origin) (i limit : Nat) : WRes :=
  s.gate o 11 (0x60000 + 8 * i) (s.service && s.quotaLimit (i / 256) (i % 256) != limit) false fun s =>
    if s.service then ({ s with emt := { s.emt with limits := sins s.emt.limits i limit } }, .ok) else s.done

/-- A write of registers of the pipelines, the tables and U13 that act. -/
def State.ownTables (s : State) (o : Sys2Proof.Origin) (a n v : Nat) : Option WRes :=
  let u := a / 0x100000
  let d := a % 0x100000
  let op := v % 16
  if 6 ≤ u ∧ u ≤ 9 ∧ 0x60000 ≤ d ∧ d < 0x61000 then
    (let j := (d - 0x60000) / 2
     let (s1, w1) := s.indirWrite o (u - 6) j (v % 65536)
     let (s2, w2) := s1.indirWrite o (u - 6) (j + 1) (v / 65536 % 65536)
     some (s2, if w1 = .ok then w2 else w1))
  else if a = EmtCmd.adr then
    some (if op = 0 ∨ 4 < op then s.gate o 11 d (s.needsLead a n v) false fun s => s.refuse 11 d
      else s.emtCmd o op (bits v 19 16) [])
  else if 0xB01600 ≤ a ∧ a < 0xB01800 ∧ a % 0x20 = 0xC then some (s.emtDoorbell o ((a - 0xB01600) / 0x20) (v % 65536))
  else if 0xB60000 ≤ a ∧ a < 0xB68000 then
    some (if n = 2 ∨ a % 8 = 4 then s.quotaWrite o ((a - 0xB60000) / 8) (v / 2 ^ 32 % 2 ^ 32) else s.noAct o a)
  else if a = TcmCmd.adr then
    some (if op = 0 ∨ 3 < op then s.gate o 12 d (s.needsLead a n v) false fun s => s.refuse 12 d
      else s.tcmCmd o op (bits v 18 16))
  else if 0xD03600 ≤ a ∧ a < 0xD03640 then some (if bit v 0 then s.gclArm o ((a - 0xD03600) / 4) else s.notOwned o a)
  else none

/-- The command of R347 that CMD spells. -/
def State.sliceCommand (s : State) (o : Sys2Proof.Origin) (k op : Nat) : WRes :=
  match op with
  | 1 => s.sliceCmd o k slBOUND (fun _ => true) fun s => s.freezeSlice k
  | 2 => s.sliceCmd o k slFROZEN (fun _ => true) fun s => s.thawSlice k
  | 3 => s.sliceCmd o k slFROZEN (fun _ => true) fun s => s.saveSlice k
  | 4 => s.sliceCmd o k slBOUND (fun s => !s.sliceBusy k) fun s => s.restoreBegin k
  | 5 => s.sliceCmd o k slFROZEN (fun _ => true) fun s => (s.sliceRelease k).toSlice k slBOUND |>.nvSweep
  | _ => s.gate o 14 (sliceOff k 4) true false fun s => s.refuse 14 (sliceOff k 4)

/-- A write of registers of U14 and U15 that act. -/
def State.ownHost (s : State) (o : Sys2Proof.Origin) (a v : Nat) : Option WRes :=
  if a = HifSliceCfg.adr then some (s.cfgWrite o (wordAt v 0))
  else if 0xE40000 ≤ a ∧ a < 0xE44000 ∧ a % 0x40 = 0 then some (s.bindWrite o ((a - 0xE40000) / 0x40) (wordAt v 0))
  else if 0xE40000 ≤ a ∧ a < 0xE44000 ∧ a % 0x40 = 4 then some (s.sliceCommand o ((a - 0xE40000) / 0x40) (v % 16))
  else if 0xE48000 ≤ a ∧ a < 0xE4C000 then
    (match Res.all[a % 0x40 / 8]? with
     | some r => some (s.shareWrite o ((a - 0xE48000) / 0x40) r (bits v 20 0) (bits v 52 32))
     | none => some (s.noAct o a))
  else if 0xE4C000 ≤ a ∧ a < 0xE4C600 then some (s.routeWrite o ((a - 0xE4C000) / 4) (wordAt v 0))
  else if a = QeDoorbell.adr then some (if s.reaches o (fun _ => false) then s.queueDoorbell o (wordAt v 0) else s.notOwned o a)
  else match queueKindAt a with
    | some k => if a % 0x40 = 0x20 then some (s.qCommand o k ((a - qAdr k 0) / 0x40) (bit v 0) (bit v 1) (bit v 2)) else none
    | none => none

/-- The command of R418 that the opcode of SHX_CMD spells. -/
def shxOp (o : Sys2Proof.Origin) (op : Nat) : State → Option Nat → List Byte → ShxRes :=
  match op with
  | 0x40 => fun t _ e => t.connAskSetup e
  | 0x41 => fun t k e => t.connOpenCmd k e
  | 0x42 => fun t k e => t.connClose o k e
  | 0x43 => fun t k e => t.connQuery k e
  | 0x44 => fun t k e => t.regionRegister k e
  | 0x45 => fun t k e => t.regionDeregister o k e
  | 0x46 => fun t k e => t.ringCtl k e
  | _ => fun t _ _ => (t, some scBAD_VALUE)

/-- A write of a slice's region share in SERVICE mode (R396). -/
def State.regionShareWrite (s : State) (o : Sys2Proof.Origin) (k v : Nat) : WRes :=
  let off := 0x2000 + 8 * k
  let sh := (bits v 20 0, bits v 52 32)
  s.gate o 16 off (s.service && s.regionShare k != sh) false fun s =>
    if !s.service then s.done
    else
      let t : State := { s with shx := { s.shx with
        shares := sins (sins s.shx.shares (2 * k) (BitVec.ofNat 32 sh.1)) (2 * k + 1) (BitVec.ofNat 32 sh.2) } }
      if regionCount < sh.1 + sh.2 ∨ (List.range s.owners).any (fun j => j != k && sharesMeet (s.regionShare j) sh) ∨ !s.ownersKept t then
        s.refuse 16 off
      else t.done

/-- A write of registers of U16 to U23 that act. -/
def State.ownHigh (s : State) (o : Sys2Proof.Origin) (a v : Nat) : Option WRes :=
  if a = ShxCmd.adr then
    some (match s.shxCmd o (shxOp o (v % 256)) with
      | (t, w) => (t.tickFree.nvSweep, w))
  else if 0x1002000 ≤ a ∧ a < 0x1002800 then some (s.regionShareWrite o ((a - 0x1002000) / 8) v)
  else if a = NvfTarget.adr + 0xC then some (s.targetDone o (v % 65536))
  else if 0x1140000 ≤ a ∧ a < 0x1144000 ∧ a % 0x10 = 0 then
    some (match s.nsWrite o ((a - 0x1140000) / 0x10) (wordAt v 0) with
      | (t, w) => (t.nvSweep, w))
  else if a = IgeDoorbell.adr then some (if s.reaches o (fun _ => false) then s.igeDoorbell o (wordAt v 0) else s.notOwned o a)
  else if a = IgeCmd.adr then
    some (match v % 4 with
      | 1 => s.igeCmd o fun s i mode size d => s.keyLoad false i mode size d
      | 2 => s.igeCmd o fun s i mode size d => s.keyDerive i mode size d
      | 3 => s.igeCmd o fun s i _ _ _ => s.keyClear false i
      | _ => s.notOwned o a)
  else if 0x1248000 ≤ a ∧ a < 0x1249000 ∧ a % 0x40 = 0x20 then
    some (s.qCommand o qkIR ((a - 0x1248000) / 0x40) (bit v 0) (bit v 1) (bit v 2))
  else if a = SvcCmd.adr then
    (let k := bits v 7 4
     let m := bits v 12 8
     some (s.svcCmd o k m fun s => match v % 16 with
       | 1 => s.rotateNow k m
       | 2 => s.yields m
       | 3 => s.fwReplace
       | _ => s.svcEnds svREFUSED))
  else none

/-- A write of a register that does more than store; none where it only stores. -/
def State.ownWrite (s : State) (o : Sys2Proof.Origin) (a n v : Nat) : Option WRes :=
  let u := a / 0x100000
  let d := a % 0x100000
  if d = 8 then some (s.ifvWrite o u (v % 256))
  else if d = 0x18 then some (s.ctrlWrite o u (bit v 0) (bit v 1) (bit v 2) (bit v 3))
  else if u < 4 then s.ownLow o a n v
  else if u < 6 then s.ownCyclic o a v
  else if u < 14 then s.ownTables o a n v
  else if u < 16 then s.ownHost o a v
  else s.ownHigh o a v

/-! ## A write, from its address -/

/-- A write of the register of `n` words at `a` (R592). -/
def State.writeReg (s : State) (o : Sys2Proof.Origin) (a n v : Nat) : WRes :=
  match s.ownWrite o a n v with
  | some r => r
  | none => s.gate o (a / 0x100000) (a % 0x100000) (s.needsLead a n v) (s.owns o a n v) fun s => s.plainAct a n v

/-- The register at `a` is the PP_PORT of an input that does not exist (R218). -/
def State.noInput (s : State) (a : Nat) : Bool :=
  let u := a / 0x100000
  let d := a % 0x100000
  decide (6 ≤ u) && decide (u ≤ 9) && decide (0x1100 ≤ d) && decide (d < 0x1180) && !s.inputExists (u - 6) ((d - 0x1100) / 0x10)

/-- Nothing stands at `a` that a write could reach: reserved windows, active views, bytes that no register occupies, inputs
that do not exist (R218, R551, R554). -/
def State.nowhere (s : State) (a : Nat) : Bool :=
  decide (0x1800000 ≤ a) || s.noInput a || s.hole a || (activeView a).isSome || ((regAt a).isNone && !unmapped a) || a % 0x100000 == 0x30

/-- A 32-bit write: the low word of a 64-bit register waits for its high word (R553). -/
def State.writeWord (s : State) (o : Sys2Proof.Origin) (a : Nat) (w : Word) : WRes :=
  if s.nowhere a then (if a < 0x1800000 then s.noAct o a else s.done)
  else match pairBase a with
    | none => s.writeReg o a 1 w.toNat
    | some b =>
        if b = a then
          s.gate o (a / 0x100000) (a % 0x100000) false true fun s =>
            ({ s with latch := (s.latch.filter fun x => x.1 != o) ++ [(o, a, w)] }, .ok)
        else
          let low := match s.latch.find? fun x => x.1 == o with
            | some (_, c, l) => if c = b then l else s.rd b
            | none => s.rd b
          let s1 : State := { s with latch := s.latch.filter fun x => x.1 != o }
          s1.writeReg o b 2 (low.toNat + 2 ^ 32 * w.toNat)

/-- The slice of PF0 that a PASID binds, and the origin of a request to PF0 BAR0 with it or without one (R597). -/
def State.pasidSlice (s : State) (p : Nat) : Option (Fin 256) :=
  (List.finRange 256).find? fun k => s.bound k && s.slicePf k == 0 && s.slicePasid k == p
def State.originOf (s : State) (pasid : Option Nat) : Sys2Proof.Origin :=
  match pasid.bind s.pasidSlice with
  | some k => .slice k
  | none => .host

/-- The side that a write at `a` comes from: a slice of PF0, or one of another function in its own slice-control context,
which its page reaches; any other such write is the host side's (R559, R597). -/
def State.side (s : State) (o : Sys2Proof.Origin) (a : Nat) : Sys2Proof.Origin :=
  match o with
  | .slice k => if s.bound k && (s.slicePf k == 0 || (queueKindAt a == some 3 && decide ((a - 0xFD0000) / 0x40 = k.val))) then o else .host
  | o => o

/-- A write of 32 or 64 bits at `a`.  One that is not aligned, or that does not cover a whole word, is refused (R552). -/
def State.writeAny (s : State) (o : Sys2Proof.Origin) (a : Nat) (wide full : Bool) (v : DWord) : WRes :=
  let u := a / 0x100000
  let o := s.side o a
  if !full || a % 4 != 0 then (if 24 ≤ u then s.done else s.gate o u (a % 0x100000) false true fun s => s.refuse u (a % 0x100000))
  else if !wide then s.writeWord o a (wordAt v.toNat 0)
  else if pairBase a = some a && !s.nowhere a then s.writeReg o a 2 v.toNat
  else
    let (s1, w1) := s.writeWord o a (wordAt v.toNat 0)
    let (s2, w2) := s1.writeWord o (a + 4) (wordAt v.toNat 1)
    (s2, if w1 = .ok then w2 else w1)

/-! ## The commands -/

/-- A register write. -/
def execRegisterWrite (o : Sys2Proof.Origin) (a : Nat) (wide full : Bool) (v : DWord) (s : State) : Host.Outcome State Fault Refusal :=
  (s.writeAny o a wide full v).out

/-- The word at `a` acts on the timebase: its L fields wait for their crossing, and for no count (R100, R132). -/
def timebaseWord (a : Nat) : Bool :=
  a == TuCtrl.adr || a == TuSlew.adr || [0, 1].any fun d => a == TuDom.adr d + 4 || a == TuDom.adr d + 8

/-- The L fields of the word at `a` come into force (R57); in a founding unit, UNIT_IFV_ACT follows a request (R44). -/
def execLFieldEffect (a : Nat) (s : State) : Host.Outcome State Fault Refusal :=
  let b := match pairBase a with | some b => b | none => a
  let t := s.latchMask fun x => if timebaseWord a then 0 else if x = a ∨ x = b ∨ (x = b + 4 ∧ pairBase a ≠ none) then appBits (· == .l) x ||| (if founding (x / 0x100000) && x % 0x100000 == 8 then 0xFF#32 else 0) else 0
  let t1 := if t.force = s.force then s else s.follows t b
  let u := a / 0x100000
  .next (if a % 0x100000 = 8 && founding u && t1.force != s.force then t1.set (Hdr.adr u) Hdr.ifvAct (ifvGrant u (t1.get (Hdr.adr u) Hdr.ifvReq)) else t1)

/-- A write of UNIT_IFV_REQ. -/
def execUnitIfvReqWrite (o : Sys2Proof.Origin) (u : Fin 24) (level : BitVec 8) (s : State) : Host.Outcome State Fault Refusal :=
  (s.ifvWrite o u level.toNat).out

/-- A write of UNIT_CTRL that sets RESET and keeps EXPERT. -/
def execUnitReset (o : Sys2Proof.Origin) (u : Fin 24) (s : State) : Host.Outcome State Fault Refusal :=
  (s.ctrlWrite o u (s.expert u) false true false).out

/-- A write of UNIT_CTRL that sets GO and keeps EXPERT and HOLD. -/
def execUnitGo (o : Sys2Proof.Origin) (u : Fin 24) (s : State) : Host.Outcome State Fault Refusal :=
  (s.ctrlWrite o u (s.expert u) (s.getB (Hdr.adr u) Hdr.hold) false true).out

/-- A write of UNIT_CTRL that sets or clears HOLD and keeps EXPERT. -/
def execUnitHold (o : Sys2Proof.Origin) (u : Fin 24) (on : Bool) (s : State) : Host.Outcome State Fault Refusal :=
  (s.ctrlWrite o u (s.expert u) on false false).out

/-- A write of UNIT_CTRL that sets or clears EXPERT and keeps HOLD. -/
def execUnitExpert (o : Sys2Proof.Origin) (u : Fin 24) (on : Bool) (s : State) : Host.Outcome State Fault Refusal :=
  (s.ctrlWrite o u on (s.getB (Hdr.adr u) Hdr.hold) false false).out

/-- A write of word `w` of MPI_AXIS[a] (R182, R183). -/
def execAxisWrite (o : Sys2Proof.Origin) (a : Fin 4096) (w : Fin 16) (v : Word) (s : State) : Host.Outcome State Fault Refusal :=
  (s.writeAny o (MpiAxis.adr a + 4 * w.val) false true (v.zeroExtend 64)).out

/-- A write of a pattern's CTRL word: its words take effect at the next head in (R232). -/
def execPatternCtrlWrite (o : Sys2Proof.Origin) (role : Fin 4) (n : Fin 64) (v : Word) (s : State) : Host.Outcome State Fault Refusal :=
  (s.writeAny o (PpPattern.adr role n) false true (v.zeroExtend 64)).out

/-- A write of word 9 of a hash key: the key takes effect at the next head in (R247). -/
def execHashKeyWord9Write (o : Sys2Proof.Origin) (role : Fin 4) (k : Fin 256) (v : Word) (s : State) : Host.Outcome State Fault Refusal :=
  (s.writeAny o (PpHashKey.adr role k 9) false true (v.zeroExtend 64)).out

end Sys2Proof.Machine
end

