-- ==== Sys2Proof/Machine/Records.lean ====
section
/-!
DEFINITION. The records of the configuration image and the apply pass (R40–R52, R483, R487, R488, R577).
-/

namespace Sys2Proof.Machine

/-! ## What a record may do -/

/-- How the body of a record ended: taken, refused in a write of its own, refused as a static write, or refused for its
form before anything of it was applied. -/
inductive Took
  | yes | no | static | unfit
  deriving DecidableEq, Repr

/-- Whole pairs of offset and value. -/
def pairsIn : List Byte → List (Nat × Nat)
  | b0 :: b1 :: b2 :: b3 :: c0 :: c1 :: c2 :: c3 :: l => (leNat [b0, b1, b2, b3], leNat [c0, c1, c2, c3]) :: pairsIn l
  | _ => []

/-- Whole 32-bit words. -/
def wordsIn : List Byte → List Nat
  | b0 :: b1 :: b2 :: b3 :: l => leNat [b0, b1, b2, b3] :: wordsIn l
  | _ => []

/-- One pair of a record is written.  A record sets HIF_SUBSYS though its fields are static and U14 is READY (R327; log 43). -/
def State.writePair (s : State) (o : Sys2Proof.Origin) (a v : Nat) : WRes :=
  if a = HifSubsys.adr then (s.setBits a 0xFFFFFFFF#32 (BitVec.ofNat 32 v)).done
  else s.writeAny o a false true (BitVec.ofNat 64 v)

/-- Writes pairs of address and value until one is refused; a refusal leaves the pairs before it written (R43, R592), and
its own VALUE_REFUSED gives way to that of the record. -/
def State.writePairs (s : State) (o : Sys2Proof.Origin) : List (Nat × Nat) → State × Took
  | [] => (s, .yes)
  | (a, v) :: l =>
      match s.writePair o a v with
      | (_, .value) => (s, .no)
      | (t, .static) => (t, .static)
      | (t, _) => t.writePairs o l

/-- The pairs of a body whose offsets all lie in an area, by address; none where one does not or the body is not whole
pairs. -/
def areaPairs (u lo hi : Nat) (body : List Byte) : Option (List (Nat × Nat)) :=
  let l := pairsIn body
  if body.length % 8 = 0 ∧ l.all fun p => lo ≤ p.1 && p.1 < hi && p.1 % 4 == 0 then some (l.map fun p => (u * 0x100000 + p.1, p.2))
  else none

/-- An INTENT body. -/
def State.takeIntent (s : State) (u : Nat) (body : List Byte) : State × Took :=
  match areaPairs u 0x1000 0x4000 body with
  | some l => s.writePairs .record l
  | none => (s, .unfit)

/-- An EXPERT body: EXPERT is set before the first pair is written. -/
def State.takeExpert (s : State) (u : Nat) (body : List Byte) : State × Took :=
  match areaPairs u 0x8000 0x20000 body with
  | some l => (s.setExpert u true).writePairs .record l
  | none => (s, .unfit)

/-- The CXE memory bank that holds the bytes at `a` (R487). -/
def State.arrayBank (s : State) (a : Nat) : Option Nat :=
  if 0x440000 ≤ a ∧ a < 0x480000 then some (stnBank ((a - 0x440000) / 0x40))
  else if 0x480000 ≤ a ∧ a < 0x4A0000 then some (stnBank (s.tmplStation ((a - 0x480000) / 0x800)))
  else if 0x5C0000 ≤ a ∧ a < 0x600000 then
    some (camBank (s.act MpiCamPage.adr MpiCamPage.page * 65536 + (a - 0x5C0000) / 4))
  else none

/-- The bytes at `a` have been kept through Bivouac, in a bank that has passed its check (R483, R486). -/
def State.keptAt (s : State) (a : Nat) : Bool :=
  match s.pwr.kept, s.arrayBank a with
  | some k, some b => s.boot.wake && bit k.cxe b && !bit (s.get PwrRetLost.adr PwrRetLost.cxe) b
  | _, _ => false

/-- An ARRAY body: its words go to consecutive addresses, unless every one lies in kept banks. -/
def State.takeArray (s : State) (u : Nat) (body : List Byte) : State × Took :=
  let start := leAt body 0 4
  let data := body.drop 4
  if body.length < 4 ∨ start % 4 ≠ 0 ∨ start < 0x40000 ∨ 0x100000 < start + data.length then (s, .unfit)
  else
    let l := (wordsIn data).zipIdx.map fun (w, i) => (u * 0x100000 + start + 4 * i, w)
    if !l.isEmpty && l.all fun p => s.keptAt p.1 then (s, .yes) else s.writePairs .record l

/-- A PAD_SLEW body (R577). -/
def State.takePadSlew (s : State) (u : Nat) (body : List Byte) : State × Took :=
  if u = 21 ∧ body.length = 4 ∧ leAt body 0 4 < 256 then (s.modBoot fun b => { b with padSlew := leAt body 0 4 }, .yes) else (s, .unfit)

/-! ## Readiness (R48, R49, R488) -/

/-- The lost banks of the group that unit `u` owns banks of, and of those the banks that are its own (R487). -/
def State.lostBanks (s : State) (u : Nat) : Nat × Nat :=
  let t := s.get PwrRetLost.adr PwrRetLost.table
  let c := s.get PwrRetLost.adr PwrRetLost.cxe
  if u = 11 then (t, t) else if u = 4 then (c, c &&& 0xC0FF) else if u = 5 then (c, c &&& 0x3F00) else (0, 0)

/-- A READY record of unit `u` takes effect: the owner of a lost bank is LOST, a unit whose prerequisites are READY goes
READY, and any other is held.  A unit that is not STARTING for its records is left as it is. -/
def State.takeReady (s : State) (u : Nat) : State :=
  if !s.applying u then s
  else if (s.lostBanks u).2 ≠ 0 then (s.setUnit u stLOST caRETENTION_LOST).raise 0 6 (u + 65536 * (s.lostBanks u).1)
  else if s.prereqsReady u then (s.goReady u).cascade 24
  else s.modBoot fun b => { b with heldReady := b.heldReady ++ [u] }

/-! ## One record (R41–R44, R50, R51) -/

/-- The record is the first of its kind: CFG_FAULT or CFG_SKIP takes its unit and index. -/
def State.firstRecord (s : State) (a u i : Nat) : State :=
  if s.get a CfgFault.unit = 0xFF then (s.set a CfgFault.unit u).set a CfgFault.record i else s

/-- Record `i` of unit `u` is skipped. -/
def State.skipRecord (s : State) (u i : Nat) : State := s.firstRecord CfgSkip.adr u i

/-- Record `i` is refused: its unit is in ERROR and ignores its later records. -/
def State.refuseRecord (s : State) (u i : Nat) : State :=
  let s1 := (s.firstRecord CfgFault.adr u i).modBoot fun b =>
    { b with refusedUnits := b.refusedUnits ++ [u], heldReady := b.heldReady.filter (· != u) }
  (s1.setUnit u stERROR caRECORD_REFUSED).raise u 2 (i % 2 ^ 24)

/-- The first record that names unit `u` sets its interface level (R44). -/
def State.nameUnit (s : State) (u ifv : Nat) : State :=
  if s.boot.named.any fun x => x.1 == u then s
  else (if founding u then s.ifvSet u ifv else (s.set (Hdr.adr u) Hdr.ifvReq ifv).set (Hdr.adr u) Hdr.ifvAct ifv).modBoot fun b =>
    { b with named := b.named ++ [(u, ifv)] }

/-- Unit `u` starts with the first of its records that is applied (R48). -/
def State.startUnit (s : State) (u : Nat) : State :=
  if s.ustate u = stABSENT then s.setUnit u stSTARTING caAPPLYING else s

/-- The record's level is that of the unit's first record, or, for the first, one that the unit serves (R44). -/
def State.ifvFits (s : State) (u ifv : Nat) : Bool :=
  match s.boot.named.find? fun x => x.1 == u with
  | some (_, v) => v == ifv
  | none => decide (ifvMinOf u ≤ ifv) && decide (ifv ≤ 2)

/-- Record `i` with header `h`, whose body `take` reads.  A static write is refused and leaves a founding unit READY (R34);
in another unit that is READY already, it refuses the record (R50, R59). -/
def State.applyRecord (s : State) (h : RecHdr) (i : Nat) (take : State → State × Took) : State :=
  let u := h.unit
  if scaleOff s.scale u then s.skipRecord u i
  else if s.boot.refusedUnits.contains u then s
  else if h.reserved then s.refuseRecord u i
  else if !s.ifvFits u h.ifv then (if h.optional then s.skipRecord u i else s.refuseRecord u i)
  else
    let s1 := s.nameUnit u h.ifv
    match take (s1.startUnit u) with
    | (t, .yes) => t
    | (t, .no) => if h.optional then t.skipRecord u i else t.refuseRecord u i
    | (t, .static) =>
        if h.optional then t.skipRecord u i else if founding u then t.firstRecord CfgFault.adr u i else t.refuseRecord u i
    | (_, .unfit) => if h.optional then s1.skipRecord u i else s1.refuseRecord u i

/-- The image that the apply pass reads, as far as it has come. -/
def State.imageEnd (s : State) : Nat := leAt s.boot.applyBuf 16 4

/-- The apply pass runs (R47). -/
def State.applyPass (s : State) : Bool := s.get CfgStatus.adr CfgStatus.phase == 2 && !s.halted && s.boot.perst && !s.pwr.off

/-- The next record, when all of it has arrived: its header and its body. -/
def State.nextRecord (s : State) : Option (RecHdr × List Byte) :=
  let b := s.boot.applyBuf.drop s.boot.cursor
  let h := recHdr (s.get CfgStatus.adr CfgStatus.format) b
  if s.applyPass && decide (256 ≤ s.boot.applyBuf.length) && decide (s.boot.cursor < s.imageEnd) && decide (h.size + h.len ≤ b.length) then
    some (h, slice b h.size h.len)
  else none

/-- The next record is taken when its TYPE is one that `p` picks; another row takes it otherwise. -/
def State.takeRecord (s : State) (p : Nat → Bool) (take : State → Nat → List Byte → State × Took) : State :=
  match s.nextRecord with
  | none => s
  | some (h, body) =>
      if !p h.type then s
      else
        let i := s.boot.recIndex
        let s1 := s.modBoot fun b => { b with cursor := b.cursor + h.size + h.len, recIndex := i + 1 }
        if h.type = 0 then s1 else s1.applyRecord h i fun t => take t h.unit body

/-- PAD is read and ignored. -/
def execRecordPad (s : State) : Host.Outcome State Fault Refusal := .next (s.takeRecord (· == 0) fun t _ _ => (t, .yes))

/-- INTENT; a record of a reserved TYPE, which is refused, is taken here too. -/
def execRecordIntent (s : State) : Host.Outcome State Fault Refusal :=
  let type := match s.nextRecord with | some (h, _) => h.type | none => 0
  .next (s.takeRecord (fun n => n == 1 || !([0, 1, 2, 3, 4, 0x100].contains n)) fun t u body => if type = 1 then t.takeIntent u body else (t, .unfit))

/-- EXPERT. -/
def execRecordExpert (s : State) : Host.Outcome State Fault Refusal := .next (s.takeRecord (· == 2) State.takeExpert)

/-- ARRAY. -/
def execRecordArray (s : State) : Host.Outcome State Fault Refusal := .next (s.takeRecord (· == 3) State.takeArray)

/-- READY.  A FORMAT 2 image has no such records (R41), and the spec does not say what one of TYPE 4 does in it: here it
acts as in FORMAT 3 (DESIGN CHOICE, log 41). -/
def execRecordReady (s : State) : Host.Outcome State Fault Refusal :=
  .next (s.takeRecord (· == 4) fun t u body => if body.isEmpty then (t.takeReady u, .yes) else (t, .unfit))

/-- PAD_SLEW. -/
def execRecordPadSlew (s : State) : Host.Outcome State Fault Refusal := .next (s.takeRecord (· == 0x100) State.takePadSlew)

/-! ## The end of the pass (R41, R49, R515) -/

/-- A unit that still starts ends in ERROR. -/
def State.endStarting (s : State) (u : Nat) : State :=
  if s.applying u then s.setUnit u stERROR (if s.boot.heldReady.contains u then caPREREQ_ABSENT else caNO_READY_RECORD) else s

/-- The apply pass ends: implicit READY records of a FORMAT 2 image, then the units that are left, then APPLY_DONE; the
rotations fall due from here (R494). -/
def execApplyPassEnd (s : State) : Host.Outcome State Fault Refusal :=
  .next (if s.applyPass && decide (256 ≤ s.boot.applyBuf.length) && decide (s.imageEnd ≤ s.boot.cursor) then
      let us := (List.range 24).filter fun u => s.boot.named.any fun x => x.1 == u
      let s1 := if s.get CfgStatus.adr CfgStatus.format = 2 then us.foldl State.takeReady s else s
      let s2 := ((List.range 24).foldl State.endStarting s1).modBoot fun b => { b with heldReady := [] }
      let s3 := s2.set CfgStatus.adr CfgStatus.phase 3
      let s4 := s3.raise 2 4 (s3.get CfgReadyMap.adr CfgReadyMap.ready)
      (List.range 9).foldl State.dueFromNow s4
    else s)

end Sys2Proof.Machine
end

