-- ==== Sys2Proof/Machine/SideBand.lean ====
section
/-!
DEFINITION. Register access from the side band (R510, R521–R523, R535, R553).
-/

namespace Sys2Proof.Machine

/-- UNIT, WIDTH and OFFSET as R521 allows them. -/
def accessOk (unit width offset : Nat) : Bool := decide (unit < 32) && (width == 4 || width == 8) && offset % width == 0

/-- The word at offset `d` of unit `u`: reserved windows, and what lies past the unit's own, read 0. -/
def State.unitWord (s : State) (u d : Nat) : Word := if 24 ≤ u ∨ 0x100000 ≤ d then 0 else s.readWord (u * 0x100000 + d)

/-- A 32-bit read by the management side of the word at offset `d` of unit `u`, which belongs to the 64-bit register at `p`,
if any: the low word of a 64-bit register latches the high one, which the next read of it returns (R553). -/
def State.readPair (s : State) (u d : Nat) (p : Option Nat) : State × Word :=
  let others := s.readLatch.filter fun x => x.1 != .management
  match p with
  | none => (s, s.unitWord u d)
  | some b =>
      if 24 ≤ u ∨ 0x100000 ≤ d then (s, 0)
      else if b = u * 0x100000 + d then
        ({ s with readLatch := others ++ [(.management, u * 0x100000 + d + 4, s.unitWord u (d + 4))] }, s.unitWord u d)
      else match s.readLatch.find? fun x => x.1 == .management && x.2.1 == u * 0x100000 + d with
        | some (_, _, w) => ({ s with readLatch := others }, w)
        | none => (s, s.unitWord u d)

/-- A 32-bit read by the management side (R553). -/
def State.read32 (s : State) (u d : Nat) : State × Word := s.readPair u d (pairBase (u * 0x100000 + d))

/-- `n` reads of `w` bytes from offset `d` upward, each register in its turn. -/
def State.readMany (s : State) (u w : Nat) : Nat → Nat → State × List Byte
  | 0, _ => (s, [])
  | n + 1, d =>
      if w = 8 then
        let t := s.readMany u w n (d + 8)
        (t.1, leBytes 4 (s.unitWord u d).toNat ++ leBytes 4 (s.unitWord u (d + 4)).toNat ++ t.2)
      else
        let x := s.read32 u d
        let t := x.1.readMany u w n (d + 4)
        (t.1, leBytes 4 x.2.toNat ++ t.2)

/-- REG_READ. -/
def execRegRead (m : BitVec 4 × BitVec 8) (unit width : BitVec 8) (count : BitVec 16) (offset : Word) (s : State) :
    Host.Outcome State Fault Refusal :=
  let u := unit.toNat
  let w := width.toNat
  let n := count.toNat
  .next (s.naonantServe m ncREG_READ true fun s =>
    if m.1 = 1 ∧ (w = 8 ∨ 1 < n) then (s, nsVERSION, [])
    else if !accessOk u w offset.toNat || n == 0 || decide (64 < n) then (s, nsBAD_REQUEST, [])
    else if u < 24 && s.dark u then (s, nsUNPOWERED, [])
    else
      let (t, l) := (s.startClocks (s.unitClocks u)).readMany u w n offset.toNat
      (t, nsOK, l))

/-- The answer to a register write: its STATUS, and no body. -/
def WRes.answer (r : WRes) : State × Nat × List Byte := (r.1, r.2.code, [])

/-- The management side writes the register at offset `d` of unit `u`: the state, and the answer's STATUS. -/
def State.unitWrite (s : State) (u d : Nat) (wide : Bool) (v : DWord) : State × Nat × List Byte :=
  (s.writeAny .management (u * 0x100000 + d) wide true v).answer

/-- REG_WRITE. -/
def execRegWrite (m : BitVec 4 × BitVec 8) (unit width : BitVec 8) (offset : Word) (value : DWord) (s : State) :
    Host.Outcome State Fault Refusal :=
  let u := unit.toNat
  let w := width.toNat
  .next (s.naonantServe m ncREG_WRITE true fun s =>
    if m.1 = 1 ∧ w = 8 then (s, nsVERSION, [])
    else if !accessOk u w offset.toNat then (s, nsBAD_REQUEST, [])
    else if s.halted then (s, nsHALTED, [])
    else if 24 ≤ u ∨ 0x100000 ≤ offset.toNat then (s, nsOK, [])
    else if s.dark u then (s, nsUNPOWERED, [])
    else
      s.unitWrite u offset.toNat (w == 8) value)

/-- The moment record of unit `u`; all ones where it has no power (R535). -/
def State.momentBytes (s : State) (u : Nat) : List Byte :=
  if s.dark u then List.replicate 8 0xFF#8
  else leBytes 4 (s.unitWord u 0x20).toNat ++ leBytes 4 (s.unitWord u 0x24).toNat

/-- MOMENT_READ. -/
def execMomentRead (m : BitVec 4 × BitVec 8) (mask : Word) (s : State) : Host.Outcome State Fault Refusal :=
  .next (s.naonantServe m ncMOMENT_READ true fun s =>
    (s, nsOK, ((List.range 24).filter fun u => mask.getLsbD u).flatMap s.momentBytes))

end Sys2Proof.Machine
end

