-- ==== Sys2Proof/Machine/Tick.lean ====
section
/-!
DEFINITION. The tick of CLK_AON (R70, R97–R106, R528, R529).
-/

namespace Sys2Proof.Machine

/-- The start watchdog counts while the start sequence has not reached step 11, and halts the device at 2^32 (R70).  R70 has it
run from the rise of PERST_N and says nothing of a wake from Bivouac: the model counts anew over the wake's steps 2 to 10 and
halts with 0xF likewise (DESIGN CHOICE, log 49). -/
def State.startTick (s : State) : State :=
  if s.atStep s.bootStep && decide (s.bootStep < 11) then
    let n := s.boot.wdTicks + 1
    let t := s.modBoot fun b => { b with wdTicks := n }
    if 2 ^ 32 ≤ n then t.halt 0xF else t
  else s

/-- The lease counts down, and lapses at zero (R528, R529). -/
def State.leaseTick (s : State) : State :=
  if s.holder = ldNONE ∨ s.mgt.leaseTicks = 0 then s
  else if s.mgt.leaseTicks = 1 then s.leaseLapse
  else { s with mgt := { s.mgt with leaseTicks := s.mgt.leaseTicks - 1 } }

/-- The instants of line time that the tick has passed have their effect: launches (R121) and the ends of a placed pause, with
the resets that waited for it (R497, R507); a yield limit that has passed ends (R496); and the clocks that have work in Camp stay busy (R474). -/
def State.instants (s : State) : State :=
  let s1 := s.launchTick
  (if s1.svc.pause.isSome then s1.pauseTick.dueResets else s1).yieldTick.clockTick

/-- One tick of CLK_AON, 40 ns: nothing but Off and a low PERST_N holds it. -/
def execClkAonTick (s : State) : Host.Outcome State Fault Refusal :=
  .next (if s.mgtUp then ({ s with ticks := s.ticks + 1 } : State).timeTick.startTick.leaseTick.instants else s)

end Sys2Proof.Machine
end

