-- ==== Sys2Proof/Machine/Dispatch.lean ====
section
/-!
DEFINITION. The dispatch: one arm for each command, each one a direct call of the command's meaning.
-/

namespace Sys2Proof.Machine

def exec (i : Instr) (s : State) : Host.Outcome State Fault Refusal :=
  match i with
  | .perstNRise => Sys2Proof.Machine.execPerstNRise s
  | .perstNFall => Sys2Proof.Machine.execPerstNFall s
  | .strapSample samples => Sys2Proof.Machine.execStrapSample samples s
  | .selfTest logicOk romOk => Sys2Proof.Machine.execSelfTest logicOk romOk s
  | .fuseRead rowsOk => Sys2Proof.Machine.execFuseRead rowsOk s
  | .bankTest general table packet cxe ueTable ueCxe ceTable ceCxe => Sys2Proof.Machine.execBankTest general table packet cxe ueTable ueCxe ceTable ceCxe s
  | .sfdpDiscovery signature octal maxMhz capacity => Sys2Proof.Machine.execSfdpDiscovery signature octal maxMhz capacity s
  | .flashHeaderCheck copy0 copy1 => Sys2Proof.Machine.execFlashHeaderCheck copy0 copy1 s
  | .install envelope image slotA slotB readBack => Sys2Proof.Machine.execInstall envelope image slotA slotB readBack s
  | .slotHeaderRead fwA fwB cfgA cfgB => Sys2Proof.Machine.execSlotHeaderRead fwA fwB cfgA cfgB s
  | .flashBurst area data => Sys2Proof.Machine.execFlashBurst area data s
  | .firmwareChoice => Sys2Proof.Machine.execFirmwareChoice s
  | .configCheckPass => Sys2Proof.Machine.execConfigCheckPass s
  | .coreRelease => Sys2Proof.Machine.execCoreRelease s
  | .startWatchdogExpiry => Sys2Proof.Machine.execStartWatchdogExpiry s
  | .recordPad => Sys2Proof.Machine.execRecordPad s
  | .recordIntent => Sys2Proof.Machine.execRecordIntent s
  | .recordExpert => Sys2Proof.Machine.execRecordExpert s
  | .recordArray => Sys2Proof.Machine.execRecordArray s
  | .recordReady => Sys2Proof.Machine.execRecordReady s
  | .recordPadSlew => Sys2Proof.Machine.execRecordPadSlew s
  | .applyPassEnd => Sys2Proof.Machine.execApplyPassEnd s
  | .registerWrite o a wide full v => Sys2Proof.Machine.execRegisterWrite o a wide full v s
  | .lFieldEffect a => Sys2Proof.Machine.execLFieldEffect a s
  | .unitIfvReqWrite o u level => Sys2Proof.Machine.execUnitIfvReqWrite o u level s
  | .unitReset o u => Sys2Proof.Machine.execUnitReset o u s
  | .unitGo o u => Sys2Proof.Machine.execUnitGo o u s
  | .unitHold o u on => Sys2Proof.Machine.execUnitHold o u on s
  | .unitExpert o u on => Sys2Proof.Machine.execUnitExpert o u on s
  | .advanceFwEpoch o confirm value => Sys2Proof.Machine.execAdvanceFwEpoch o confirm value s
  | .advanceCfgEpoch o confirm value => Sys2Proof.Machine.execAdvanceCfgEpoch o confirm value s
  | .revokeVendor o confirm value => Sys2Proof.Machine.execRevokeVendor o confirm value s
  | .revokeOwner o confirm value => Sys2Proof.Machine.execRevokeOwner o confirm value s
  | .fuseDone ok => Sys2Proof.Machine.execFuseDone ok s
  | .bootReleaseWrite o mask => Sys2Proof.Machine.execBootReleaseWrite o mask s
  | .coreFirstFetch n => Sys2Proof.Machine.execCoreFirstFetch n s
  | .stageDataWrite o data => Sys2Proof.Machine.execStageDataWrite o data s
  | .erase64k o msg => Sys2Proof.Machine.execErase64k o msg s
  | .mark o msg => Sys2Proof.Machine.execMark o msg s
  | .unmark o msg => Sys2Proof.Machine.execUnmark o msg s
  | .stageFlush o msg => Sys2Proof.Machine.execStageFlush o msg s
  | .stageDone ok => Sys2Proof.Machine.execStageDone ok s
  | .domainStep o d v => Sys2Proof.Machine.execDomainStep o d v s
  | .domainRefresh o d => Sys2Proof.Machine.execDomainRefresh o d s
  | .domainInvalidate o d => Sys2Proof.Machine.execDomainInvalidate o d s
  | .watchdogTimeoutWrite o d ms => Sys2Proof.Machine.execWatchdogTimeoutWrite o d ms s
  | .domainWatchdogExpiry d => Sys2Proof.Machine.execDomainWatchdogExpiry d s
  | .domainSelect o d => Sys2Proof.Machine.execDomainSelect o d s
  | .lineLocked => Sys2Proof.Machine.execLineLocked s
  | .align o => Sys2Proof.Machine.execAlign o s
  | .snap o => Sys2Proof.Machine.execSnap o s
  | .txstampTailWrite o v => Sys2Proof.Machine.execTxstampTailWrite o v s
  | .tpoArm o n => Sys2Proof.Machine.execTpoArm o n s
  | .tpoStop o n => Sys2Proof.Machine.execTpoStop o n s
  | .tpoLeadingEdge n => Sys2Proof.Machine.execTpoLeadingEdge n s
  | .tpoTrailingEdge n => Sys2Proof.Machine.execTpoTrailingEdge n s
  | .prestart r => Sys2Proof.Machine.execPrestart r s
  | .prestartDeadline r => Sys2Proof.Machine.execPrestartDeadline r s
  | .prestartPlacement => Sys2Proof.Machine.execPrestartPlacement s
  | .ropeBoundary b bad => Sys2Proof.Machine.execRopeBoundary b bad s
  | .frameBuild r => Sys2Proof.Machine.execFrameBuild r s
  | .frameAtComparator p r => Sys2Proof.Machine.execFrameAtComparator p r s
  | .frameLaunch p r => Sys2Proof.Machine.execFrameLaunch p r s
  | .commit o r target => Sys2Proof.Machine.execCommit o r target s
  | .ropeCtrlStop o r => Sys2Proof.Machine.execRopeCtrlStop o r s
  | .resume o r => Sys2Proof.Machine.execResume o r s
  | .imageApertureWrite o offset data => Sys2Proof.Machine.execImageApertureWrite o offset data s
  | .replyFrameArrival lane => Sys2Proof.Machine.execReplyFrameArrival lane s
  | .replySegment lane => Sys2Proof.Machine.execReplySegment lane s
  | .inputDeadline r => Sys2Proof.Machine.execInputDeadline r s
  | .publish r => Sys2Proof.Machine.execPublish r s
  | .recover o n => Sys2Proof.Machine.execRecover o n s
  | .axisWrite o a w v => Sys2Proof.Machine.execAxisWrite o a w v s
  | .axisRelease o a => Sys2Proof.Machine.execAxisRelease o a s
  | .push o k => Sys2Proof.Machine.execPush o k s
  | .hostSlotPlacement k => Sys2Proof.Machine.execHostSlotPlacement k s
  | .generatorPlacement k => Sys2Proof.Machine.execGeneratorPlacement k s
  | .generatorExport => Sys2Proof.Machine.execGeneratorExport s
  | .camCheck o k base => Sys2Proof.Machine.execCamCheck o k base s
  | .camChecked k => Sys2Proof.Machine.execCamChecked k s
  | .camWithdraw o k base => Sys2Proof.Machine.execCamWithdraw o k base s
  | .windowReady role input frame => Sys2Proof.Machine.execWindowReady role input frame s
  | .frameLastByte role input fcsOk fecBad => Sys2Proof.Machine.execFrameLastByte role input fcsOk fecBad s
  | .headIn role input bad vbad aclLate routeLate => Sys2Proof.Machine.execHeadIn role input bad vbad aclLate routeLate s
  | .classificationResult role => Sys2Proof.Machine.execClassificationResult role s
  | .seqReset role ix => Sys2Proof.Machine.execSeqReset role ix s
  | .patternCtrlWrite o role n v => Sys2Proof.Machine.execPatternCtrlWrite o role n v s
  | .indirectionWrite o role j v => Sys2Proof.Machine.execIndirectionWrite o role j v s
  | .hashKeyWord9Write o role k v => Sys2Proof.Machine.execHashKeyWord9Write o role k v s
  | .learnRequest t bad => Sys2Proof.Machine.execLearnRequest t bad s
  | .moveRequest t bad => Sys2Proof.Machine.execMoveRequest t bad s
  | .emtCmdInsert o t bad => Sys2Proof.Machine.execEmtCmdInsert o t bad s
  | .emtCmdDelete o t bad => Sys2Proof.Machine.execEmtCmdDelete o t bad s
  | .emtCmdModify o t bad => Sys2Proof.Machine.execEmtCmdModify o t bad s
  | .emtCmdLookup o t bad => Sys2Proof.Machine.execEmtCmdLookup o t bad s
  | .emtCommandEnd => Sys2Proof.Machine.execEmtCommandEnd s
  | .ageVisit t bad => Sys2Proof.Machine.execAgeVisit t bad s
  | .emtDmaDoorbell o t tail => Sys2Proof.Machine.execEmtDmaDoorbell o t tail s
  | .emtDmaImage t image => Sys2Proof.Machine.execEmtDmaImage t image s
  | .shadowCompare t item bad => Sys2Proof.Machine.execShadowCompare t item bad s
  | .tcmCmdWrite o p => Sys2Proof.Machine.execTcmCmdWrite o p s
  | .tcmCmdInvalidate o p => Sys2Proof.Machine.execTcmCmdInvalidate o p s
  | .tcmCmdRead o p => Sys2Proof.Machine.execTcmCmdRead o p s
  | .tcamUpdateSlot p c differs bad => Sys2Proof.Machine.execTcamUpdateSlot p c differs bad s
  | .tmEnqueue => Sys2Proof.Machine.execTmEnqueue s
  | .tmDecision p => Sys2Proof.Machine.execTmDecision p s
  | .gclSwitchArm o p => Sys2Proof.Machine.execGclSwitchArm o p s
  | .gclSwitch p => Sys2Proof.Machine.execGclSwitch p s
  | .gclEntryAdvance p => Sys2Proof.Machine.execGclEntryAdvance p s
  | .preemptVerifyEnd p ok => Sys2Proof.Machine.execPreemptVerifyEnd p ok s
  | .sampleSweepStart => Sys2Proof.Machine.execSampleSweepStart s
  | .sampleSweepEnd => Sys2Proof.Machine.execSampleSweepEnd s
  | .linkDown => Sys2Proof.Machine.execLinkDown s
  | .linkUp speed width flit l0p => Sys2Proof.Machine.execLinkUp speed width flit l0p s
  | .hotReset => Sys2Proof.Machine.execHotReset s
  | .bmeCleared f => Sys2Proof.Machine.execBmeCleared f s
  | .bmeSet f ats dev => Sys2Proof.Machine.execBmeSet f ats dev s
  | .flr f => Sys2Proof.Machine.execFlr f s
  | .flrDone f => Sys2Proof.Machine.execFlrDone f s
  | .completionTimeout f ix => Sys2Proof.Machine.execCompletionTimeout f ix s
  | .poisoned f ix => Sys2Proof.Machine.execPoisoned f ix s
  | .ecrcFailure f => Sys2Proof.Machine.execEcrcFailure f s
  | .msixUnmask f w => Sys2Proof.Machine.execMsixUnmask f w s
  | .translationAnswer f pasid page grant => Sys2Proof.Machine.execTranslationAnswer f pasid page grant s
  | .invalidationRequest f tag pasid page => Sys2Proof.Machine.execInvalidationRequest f tag pasid page s
  | .invalidationCompletion f => Sys2Proof.Machine.execInvalidationCompletion f s
  | .sliceBind o k v => Sys2Proof.Machine.execSliceBind o k v s
  | .sliceUnbind o k v => Sys2Proof.Machine.execSliceUnbind o k v s
  | .freeze o k => Sys2Proof.Machine.execFreeze o k s
  | .sliceFrozen k => Sys2Proof.Machine.execSliceFrozen k s
  | .freezeLimitExpiry k => Sys2Proof.Machine.execFreezeLimitExpiry k s
  | .thaw o k => Sys2Proof.Machine.execThaw o k s
  | .save o k => Sys2Proof.Machine.execSave o k s
  | .saveDone k => Sys2Proof.Machine.execSaveDone k s
  | .restore o k => Sys2Proof.Machine.execRestore o k s
  | .restoreDone k blob => Sys2Proof.Machine.execRestoreDone k blob s
  | .sliceRelease o k => Sys2Proof.Machine.execSliceRelease o k s
  | .sliceModeWrite o v => Sys2Proof.Machine.execSliceModeWrite o v s
  | .sliceCountWrite o v => Sys2Proof.Machine.execSliceCountWrite o v s
  | .eventRouteWrite o e v => Sys2Proof.Machine.execEventRouteWrite o e v s
  | .eventRingWrite => Sys2Proof.Machine.execEventRingWrite s
  | .queueDoorbell o v => Sys2Proof.Machine.execQueueDoorbell o v s
  | .descriptorCompletion kind q data => Sys2Proof.Machine.execDescriptorCompletion kind q data s
  | .txDataCompletion q data => Sys2Proof.Machine.execTxDataCompletion q data s
  | .headRecordTimer kind q => Sys2Proof.Machine.execHeadRecordTimer kind q s
  | .queueEnable o kind q => Sys2Proof.Machine.execQueueEnable o kind q s
  | .queueDisable o kind q => Sys2Proof.Machine.execQueueDisable o kind q s
  | .queueReset o kind q => Sys2Proof.Machine.execQueueReset o kind q s
  | .queueDrainEnd kind q => Sys2Proof.Machine.execQueueDrainEnd kind q s
  | .scQueueSetup k => Sys2Proof.Machine.execScQueueSetup k s
  | .scQueueEnable k => Sys2Proof.Machine.execScQueueEnable k s
  | .scQueueDisable k => Sys2Proof.Machine.execScQueueDisable k s
  | .scQueueReset k => Sys2Proof.Machine.execScQueueReset k s
  | .emtInsert k arg bad => Sys2Proof.Machine.execEmtInsert k arg bad s
  | .emtDelete k arg bad => Sys2Proof.Machine.execEmtDelete k arg bad s
  | .emtModify k arg bad => Sys2Proof.Machine.execEmtModify k arg bad s
  | .emtLookup k arg bad => Sys2Proof.Machine.execEmtLookup k arg bad s
  | .tcamWrite k arg => Sys2Proof.Machine.execTcamWrite k arg s
  | .tcamInvalidate k => Sys2Proof.Machine.execTcamInvalidate k s
  | .tcamRead k => Sys2Proof.Machine.execTcamRead k s
  | .indirWrite k arg => Sys2Proof.Machine.execIndirWrite k arg s
  | .hashKeyWrite k arg => Sys2Proof.Machine.execHashKeyWrite k arg s
  | .connSetup o arg => Sys2Proof.Machine.execConnSetup o arg s
  | .connOpen o => Sys2Proof.Machine.execConnOpen o s
  | .connClose o => Sys2Proof.Machine.execConnClose o s
  | .connCloseEnd c => Sys2Proof.Machine.execConnCloseEnd c s
  | .connQuery o => Sys2Proof.Machine.execConnQuery o s
  | .regionRegister o => Sys2Proof.Machine.execRegionRegister o s
  | .regionDeregister o => Sys2Proof.Machine.execRegionDeregister o s
  | .ringEnable o => Sys2Proof.Machine.execRingEnable o s
  | .ringDisable o => Sys2Proof.Machine.execRingDisable o s
  | .ringReset o => Sys2Proof.Machine.execRingReset o s
  | .shardoDoorbell k v => Sys2Proof.Machine.execShardoDoorbell k v s
  | .sendEntryFetched c data => Sys2Proof.Machine.execSendEntryFetched c data s
  | .sendDataCompletion c data => Sys2Proof.Machine.execSendDataCompletion c data s
  | .packetSend c => Sys2Proof.Machine.execPacketSend c s
  | .write => Sys2Proof.Machine.execWrite s
  | .readReq => Sys2Proof.Machine.execReadReq s
  | .readResp => Sys2Proof.Machine.execReadResp s
  | .ack => Sys2Proof.Machine.execAck s
  | .nak => Sys2Proof.Machine.execNak s
  | .flush => Sys2Proof.Machine.execFlush s
  | .flushAck => Sys2Proof.Machine.execFlushAck s
  | .timedWrite => Sys2Proof.Machine.execTimedWrite s
  | .hello => Sys2Proof.Machine.execHello s
  | .resync => Sys2Proof.Machine.execResync s
  | .notReady => Sys2Proof.Machine.execNotReady s
  | .contextFetchComplete region ix => Sys2Proof.Machine.execContextFetchComplete region ix s
  | .flushReadbackComplete c => Sys2Proof.Machine.execFlushReadbackComplete c s
  | .regionReadComplete c data => Sys2Proof.Machine.execRegionReadComplete c data s
  | .retransmitTimerExpiry c => Sys2Proof.Machine.execRetransmitTimerExpiry c s
  | .helloRetry c => Sys2Proof.Machine.execHelloRetry c s
  | .backoffEnd c => Sys2Proof.Machine.execBackoffEnd c s
  | .timedFullWaitEnd c => Sys2Proof.Machine.execTimedFullWaitEnd c s
  | .ackTimer c => Sys2Proof.Machine.execAckTimer c s
  | .growthEvent c => Sys2Proof.Machine.execGrowthEvent c s
  | .alphaDecay c => Sys2Proof.Machine.execAlphaDecay c s
  | .timedWritePlacement => Sys2Proof.Machine.execTimedWritePlacement s
  | .sqTailDoorbell q v => Sys2Proof.Machine.execSqTailDoorbell q v s
  | .cqHeadDoorbell q v => Sys2Proof.Machine.execCqHeadDoorbell q v s
  | .nvmeWrite q e => Sys2Proof.Machine.execNvmeWrite q e s
  | .nvmeRead q e => Sys2Proof.Machine.execNvmeRead q e s
  | .nvmeWriteZeroes q e => Sys2Proof.Machine.execNvmeWriteZeroes q e s
  | .nvmeFlush q e => Sys2Proof.Machine.execNvmeFlush q e s
  | .lockGranted => Sys2Proof.Machine.execLockGranted s
  | .nvmeDataCompletion ix data bad => Sys2Proof.Machine.execNvmeDataCompletion ix data bad s
  | .abort e => Sys2Proof.Machine.execAbort e s
  | .createIoSq e => Sys2Proof.Machine.execCreateIoSq e s
  | .createIoCq e => Sys2Proof.Machine.execCreateIoCq e s
  | .deleteIoSq e => Sys2Proof.Machine.execDeleteIoSq e s
  | .deleteIoCq e => Sys2Proof.Machine.execDeleteIoCq e s
  | .identify e => Sys2Proof.Machine.execIdentify e s
  | .getLogPage e temp => Sys2Proof.Machine.execGetLogPage e temp s
  | .setFeatures e => Sys2Proof.Machine.execSetFeatures e s
  | .getFeatures e => Sys2Proof.Machine.execGetFeatures e s
  | .asyncEventRequest e => Sys2Proof.Machine.execAsyncEventRequest e s
  | .controllerEnable cc aqa asq acq => Sys2Proof.Machine.execControllerEnable cc aqa asq acq s
  | .controllerReset => Sys2Proof.Machine.execControllerReset s
  | .namespaceEnable o n v => Sys2Proof.Machine.execNamespaceEnable o n v s
  | .targetDone o v => Sys2Proof.Machine.execTargetDone o v s
  | .recordStart r => Sys2Proof.Machine.execRecordStart r s
  | .integrityDoorbell o v => Sys2Proof.Machine.execIntegrityDoorbell o v s
  | .cmacGen q data lost => Sys2Proof.Machine.execCmacGen q data lost s
  | .cmacVerify q data lost => Sys2Proof.Machine.execCmacVerify q data lost s
  | .gmacGen q data lost => Sys2Proof.Machine.execGmacGen q data lost s
  | .gmacVerify q data lost => Sys2Proof.Machine.execGmacVerify q data lost s
  | .laneMessageDone q => Sys2Proof.Machine.execLaneMessageDone q s
  | .keyLoad o arg bad => Sys2Proof.Machine.execKeyLoad o arg bad s
  | .keyDerive o bad => Sys2Proof.Machine.execKeyDerive o bad s
  | .keyClear o => Sys2Proof.Machine.execKeyClear o s
  | .rngFault => Sys2Proof.Machine.execRngFault s
  | .powerSummit o msg => Sys2Proof.Machine.execPowerSummit o msg s
  | .powerCamp o msg => Sys2Proof.Machine.execPowerCamp o msg s
  | .powerBivouac o msg => Sys2Proof.Machine.execPowerBivouac o msg s
  | .powerState => Sys2Proof.Machine.execPowerState s
  | .d3hotEntry f => Sys2Proof.Machine.execD3hotEntry f s
  | .wakeTrip ix mv cycles => Sys2Proof.Machine.execWakeTrip ix mv cycles s
  | .wakePowerUp => Sys2Proof.Machine.execWakePowerUp s
  | .clockStop c => Sys2Proof.Machine.execClockStop c s
  | .spreadWrite o v => Sys2Proof.Machine.execSpreadWrite o v s
  | .spreadChange c => Sys2Proof.Machine.execSpreadChange c s
  | .aonBrownout => Sys2Proof.Machine.execAonBrownout s
  | .rotationDue kind m => Sys2Proof.Machine.execRotationDue kind m s
  | .handoverPauseStart role => Sys2Proof.Machine.execHandoverPauseStart role s
  | .handoverPauseEnd role => Sys2Proof.Machine.execHandoverPauseEnd role s
  | .yieldLimitExpiry => Sys2Proof.Machine.execYieldLimitExpiry s
  | .coreYield o core => Sys2Proof.Machine.execCoreYield o core s
  | .rotateNow o kind member => Sys2Proof.Machine.execRotateNow o kind member s
  | .fwReplace o => Sys2Proof.Machine.execFwReplace o s
  | .fwReplaced => Sys2Proof.Machine.execFwReplaced s
  | .memberTestEnd kind pass => Sys2Proof.Machine.execMemberTestEnd kind pass s
  | .bankCopyEnd kind => Sys2Proof.Machine.execBankCopyEnd kind s
  | .scrubVisit kind bank first error owner => Sys2Proof.Machine.execScrubVisit kind bank first error owner s
  | .coreFault n => Sys2Proof.Machine.execCoreFault n s
  | .getVersion m => Sys2Proof.Machine.execGetVersion m s
  | .regRead m unit width count offset => Sys2Proof.Machine.execRegRead m unit width count offset s
  | .regWrite m unit width offset value => Sys2Proof.Machine.execRegWrite m unit width offset value s
  | .leadClaim o lease msg other => Sys2Proof.Machine.execLeadClaim o lease msg other s
  | .leadRenew o lease msg => Sys2Proof.Machine.execLeadRenew o lease msg s
  | .leadRelease o msg => Sys2Proof.Machine.execLeadRelease o msg s
  | .leadQuery m => Sys2Proof.Machine.execLeadQuery m s
  | .leaseLapsed => Sys2Proof.Machine.execLeaseLapsed s
  | .restart m confirm => Sys2Proof.Machine.execRestart m confirm s
  | .momentRead m mask => Sys2Proof.Machine.execMomentRead m mask s
  | .stageWrite m offset data => Sys2Proof.Machine.execStageWrite m offset data s
  | .timeRead m => Sys2Proof.Machine.execTimeRead m s
  | .attestKey m key => Sys2Proof.Machine.execAttestKey m key s
  | .eventMessage taken => Sys2Proof.Machine.execEventMessage taken s
  | .eventRetry taken => Sys2Proof.Machine.execEventRetry taken s
  | .setEndpointId iid src eid => Sys2Proof.Machine.execSetEndpointId iid src eid s
  | .getEndpointId iid => Sys2Proof.Machine.execGetEndpointId iid s
  | .getMctpVersionSupport iid type => Sys2Proof.Machine.execGetMctpVersionSupport iid type s
  | .getMessageTypeSupport iid => Sys2Proof.Machine.execGetMessageTypeSupport iid s
  | .getVendorDefinedMessageSupport iid selector => Sys2Proof.Machine.execGetVendorDefinedMessageSupport iid selector s
  | .i3cDynamicAddress a => Sys2Proof.Machine.execI3cDynamicAddress a s
  | .getTid iid => Sys2Proof.Machine.execGetTid iid s
  | .getPldmVersion iid type => Sys2Proof.Machine.execGetPldmVersion iid type s
  | .getPldmTypes iid => Sys2Proof.Machine.execGetPldmTypes iid s
  | .getPldmCommands iid type => Sys2Proof.Machine.execGetPldmCommands iid type s
  | .getPdrRepositoryInfo iid => Sys2Proof.Machine.execGetPdrRepositoryInfo iid s
  | .getPdr iid => Sys2Proof.Machine.execGetPdr iid s
  | .getSensorReading iid sensor reading => Sys2Proof.Machine.execGetSensorReading iid sensor reading s
  | .getStateSensorReadings iid sensor => Sys2Proof.Machine.execGetStateSensorReadings iid sensor s
  | .requestUpdate iid => Sys2Proof.Machine.execRequestUpdate iid s
  | .passComponentTable iid last => Sys2Proof.Machine.execPassComponentTable iid last s
  | .updateComponent iid component size => Sys2Proof.Machine.execUpdateComponent iid component size s
  | .requestFirmwareData data => Sys2Proof.Machine.execRequestFirmwareData data s
  | .transferComplete => Sys2Proof.Machine.execTransferComplete s
  | .verifyComplete envelope image => Sys2Proof.Machine.execVerifyComplete envelope image s
  | .applyComplete => Sys2Proof.Machine.execApplyComplete s
  | .activateFirmware iid => Sys2Proof.Machine.execActivateFirmware iid s
  | .getStatus iid => Sys2Proof.Machine.execGetStatus iid s
  | .cancelUpdate iid => Sys2Proof.Machine.execCancelUpdate iid s
  | .spdmGetVersion => Sys2Proof.Machine.execSpdmGetVersion s
  | .getCapabilities => Sys2Proof.Machine.execGetCapabilities s
  | .negotiateAlgorithms => Sys2Proof.Machine.execNegotiateAlgorithms s
  | .challenge req answer => Sys2Proof.Machine.execChallenge req answer s
  | .getMeasurements req answer => Sys2Proof.Machine.execGetMeasurements req answer s
  | .portUp p => Sys2Proof.Machine.execPortUp p s
  | .portDown p => Sys2Proof.Machine.execPortDown p s
  | .autonegDone p speed => Sys2Proof.Machine.execAutonegDone p speed s
  | .jtagTrst => Sys2Proof.Machine.execJtagTrst s
  | .bypass tdi => Sys2Proof.Machine.execBypass tdi s
  | .idcode => Sys2Proof.Machine.execIdcode s
  | .samplePreload pins load => Sys2Proof.Machine.execSamplePreload pins load s
  | .extest pins load => Sys2Proof.Machine.execExtest pins load s
  | .extestPulse pins load => Sys2Proof.Machine.execExtestPulse pins load s
  | .extestTrain pins load => Sys2Proof.Machine.execExtestTrain pins load s
  | .clamp tdi => Sys2Proof.Machine.execClamp tdi s
  | .highz tdi => Sys2Proof.Machine.execHighz tdi s
  | .clkAonTick => Sys2Proof.Machine.execClkAonTick s
  | .powerUp => Sys2Proof.Machine.execPowerUp s
  | .pcsLock p => Sys2Proof.Machine.execPcsLock p s
  | .autonegRestart p => Sys2Proof.Machine.execAutonegRestart p s
  | .linkRetraining done => Sys2Proof.Machine.execLinkRetraining done s

end Sys2Proof.Machine
end

