-- ==== Sys2Proof/WellFormed.lean ====
section
/-!
DEFINITION. When a command is well-formed: what comes with it has the size that the spec gives it.  A command whose operands
the device itself judges (an address, a value, a field of an entry) is well-formed whatever they are.
-/

namespace Sys2Proof

/-- Both copies or headers of the flash have the 256 B of R72 and R38. -/
def headersWf (l : List (List Byte)) : Bool := l.all fun h => h.length == 256

/-- A bucket image is 16 B of header and one bucket of 64, 128 or 256 B (R275). -/
def imageWf (n : Nat) : Bool := [80, 144, 272].contains n

/-- The sizes that R47, R72, R75, R83, R275, R375, R418, R424, R467 and R571 give the data of a command. -/
def Instr.wf : Instr → Bool
  | .strapSample samples => samples.length == 8
  | .flashHeaderCheck c0 c1 => headersWf [c0, c1]
  | .install envelope _ _ _ _ => envelope.length == 4096
  | .slotHeaderRead a b c d => headersWf [a, b, c, d]
  | .flashBurst _ data => decide (data.length ≤ 4096)
  | .emtDmaImage _ image => imageWf image.length
  | .emtInsert _ arg _ => arg.length == 64
  | .emtDelete _ arg _ => arg.length == 64
  | .emtModify _ arg _ => arg.length == 64
  | .emtLookup _ arg _ => arg.length == 64
  | .tcamWrite _ arg => arg.length == 256
  | .indirWrite _ arg => decide (arg.length ≤ 4096)
  | .hashKeyWrite _ arg => arg.length == 40
  | .connSetup _ arg => arg.length == 128
  | .nvmeWrite _ e => e.length == 64
  | .nvmeRead _ e => e.length == 64
  | .nvmeWriteZeroes _ e => e.length == 64
  | .nvmeFlush _ e => e.length == 64
  | .abort e => e.length == 64
  | .createIoSq e => e.length == 64
  | .createIoCq e => e.length == 64
  | .deleteIoSq e => e.length == 64
  | .deleteIoCq e => e.length == 64
  | .identify e => e.length == 64
  | .getLogPage e _ => e.length == 64
  | .setFeatures e => e.length == 64
  | .getFeatures e => e.length == 64
  | .asyncEventRequest e => e.length == 64
  | .keyLoad _ arg _ => arg.length == 32
  | _ => true

end Sys2Proof
end

