-- ==== Sys2Proof/Safety.lean ====
section
/-!
DEFINITION. The terms in which claims about the block are stated: what a sound state is, what a later state may differ in
from an earlier one, and when a register write reaches its register.
-/

namespace Sys2Proof.Machine

/-- A command's outcome is a next state with property `P`. -/
def Leaves (P : State → Prop) : Host.Outcome State Fault Refusal → Prop
  | .next t => P t
  | .fault _ => False
  | .refused _ => False

/-! ## Sound states -/

/-- The canonical forms of the state's data: the register file lists addresses in rising order and no word that equals the
reset value of its address; the words in force are listed in rising order; event staging holds at most what R513 gives it. -/
structure State.Sound (s : State) : Prop where
  regs : swf resetWord s.regs = true
  force : srising 0 s.force = true
  staged : s.staged.length ≤ stagingCapacity

/-- Every bit of `a` is a bit of `b`. -/
def bitsKept {n : Nat} (a b : BitVec n) : Prop := a &&& b = a

/-- A fuse once programmed stays programmed, and what is fixed at manufacture stays (R89, R90). -/
def Fuses.Grown (f g : Fuses) : Prop :=
  g.duk = f.duk ∧ g.vendorHash = f.vendorHash ∧ g.ownerHash = f.ownerHash ∧
  bitsKept f.vendorRevoked g.vendorRevoked ∧ bitsKept f.ownerRevoked g.ownerRevoked ∧
  bitsKept f.fwPos.1 g.fwPos.1 ∧ bitsKept f.fwPos.2 g.fwPos.2 ∧
  bitsKept f.cfgPos.1 g.cfgPos.1 ∧ bitsKept f.cfgPos.2 g.cfgPos.2

/-- What every command keeps between the state that it meets and the state that it leaves: the commands that wait, what has
left the device, the free values used up, the fuses, and the canonical forms. -/
structure Evolves (s t : State) : Prop where
  queue : t.pending = s.pending
  sent : s.out <+: t.out
  fresh : s.freeCtr ≤ t.freeCtr
  fuses : Fuses.Grown s.boot.fuses t.boot.fuses
  regs : swf resetWord s.regs = true → swf resetWord t.regs = true
  force : srising 0 s.force = true → srising 0 t.force = true
  staged : s.staged.length ≤ stagingCapacity → t.staged.length ≤ stagingCapacity

/-! ## Registers that lie apart -/

/-- The words of field `f` of the entry at `b`, and the bits in them, meet those of `f'` at `b'` nowhere:
their registers lie apart, or they are two fields of one register that lie apart. -/
abbrev Fld.Apart (b : Nat) (f : Fld) (b' : Nat) (f' : Fld) : Prop :=
  b + f.off + 4 * f.words ≤ b' + f'.off ∨ b' + f'.off + 4 * f'.words ≤ b + f.off ∨
    (b + f.off = b' + f'.off ∧ (f.lo + f.width ≤ f'.lo ∨ f'.lo + f'.width ≤ f.lo))

/-- The word at `a` is none that an event writes: no moment record, not SVC_STAGING, not MGT_STATUS and no word of
an event queue's context. -/
abbrev QuietWord (a : Nat) : Prop :=
  (a % 0x100000 < 0x20 ∨ 0x28 ≤ a % 0x100000) ∧ (a < 0x1701018 ∨ 0x170101C ≤ a) ∧ (a < 0x1401000 ∨ 0x1401004 ≤ a) ∧ (a < 0xFC0000 ∨ 0xFD0000 ≤ a)

/-- No word of field `f` of the entry at `b` is one that an event writes. -/
abbrev Fld.Quiet (b : Nat) (f : Fld) : Prop := ∀ j < f.words, QuietWord (b + f.off + 4 * j)

/-! ## Writes that reach their register -/

/-- The writer has the lead where the register needs it, or is a slice that owns the register; a slice of PF0 writes nothing
else, and a slice of another function what the host side writes (R526, R527, R559, R597). -/
def State.mayWrite (s : State) (o : Sys2Proof.Origin) (lead owned : Bool) : Bool :=
  match o with
  | .slice k => (s.bound k && owned) || (!(s.bound k && s.slicePf k == 0) && (!lead || s.leads .host))
  | _ => !lead || s.leads o

/-- A write of origin `o` to offset `off` of unit `u` reaches the register: the unit has power, the host a path, no halt stops the write, no
record of the unit is being applied, and the writer may write (R4, R52, R87). -/
abbrev State.Open (s : State) (o : Sys2Proof.Origin) (u off : Nat) (lead owned : Bool) : Prop :=
  (!(scaleOff s.scale u || s.dark u || s.hostCut o) && !s.haltStops o u off &&
    !(Origin.external o && s.ustate u == stSTARTING && s.ucause u == caAPPLYING) && s.mayWrite o lead owned) = true

/-- The state as an access of unit `u` by `o` finds it: the clocks that the access needs run (R474, R475). -/
def State.awake (s : State) (o : Sys2Proof.Origin) (u : Nat) : State := s.startClocks (s.accessClocks o u)

/-- The state in which pulse output `n` arms: its START, PERIOD and WIDTH as last written are in force (R126). -/
def State.tpoTaken (s : State) (o : Sys2Proof.Origin) (n : Nat) : State := (s.awake o 3).latchMask (tpoMask n)

/-- A 32-bit write of `w` at `a` is one that only stores: a register of one word stands there, no command, and the value
passes every check, EXPERT and the static fields among them (R53, R59, R551, R592, R593). -/
abbrev State.Stores (s : State) (o : Sys2Proof.Origin) (a : Nat) (w : Word) : Prop :=
  (a % 4 == 0 && !s.nowhere a && (pairBase a).isNone &&
    (s.ownWrite (s.side o a) a 1 w.toNat).isNone && !(inExpert a && !(s.awake o (a / 0x100000)).expert (a / 0x100000)) &&
    !((s.awake o (a / 0x100000)).ready (a / 0x100000) &&
      (s.awake o (a / 0x100000)).changes (s.awake o (a / 0x100000)).staticBits a 1 w.toNat) &&
    !(s.awake o (a / 0x100000)).closed a && (s.awake o (a / 0x100000)).fieldsOk a 1 w.toNat &&
    !(s.awake o (a / 0x100000)).breaks ((s.awake o (a / 0x100000)).storeWord a w) a) = true

/-- The state after such a write: the word is stored, and what its value in force brings about follows. -/
def State.written (s : State) (o : Sys2Proof.Origin) (a : Nat) (w : Word) : State :=
  let r := s.awake o (a / 0x100000)
  ((r.follows (r.storeWord a w) a).marks a).settle a

/-! ## Ticks -/

/-- No instant of line time is waited for: no frame of a cycle is armed, no pause of a handover is placed, and no core is due
(R120, R496, R497). -/
abbrev State.Unarmed (s : State) : Prop := s.time.armed = [] ∧ s.svc.pause = none ∧ s.svc.dueCore = none

/-! ## Records that reach their unit -/

/-- The state with the next record, of header `h`, read past (R40, R47). -/
def State.pastRecord (s : State) (h : RecHdr) : State :=
  s.modBoot fun b => { b with cursor := b.cursor + h.size + h.len, recIndex := b.recIndex + 1 }

/-- A record of header `h` is applied to a unit that an earlier record has named and started: the scale powers the unit, none of
its records was refused, the reserved bits are 0, and the level is that of the unit's first record (R44, R50, R51). -/
abbrev State.Applies (s : State) (h : RecHdr) : Prop :=
  (!scaleOff s.scale h.unit && !s.boot.refusedUnits.contains h.unit && !h.reserved && s.ifvFits h.unit h.ifv &&
    s.boot.named.any (fun x => x.1 == h.unit) && !(s.ustate h.unit == stABSENT)) = true

/-! ## Entries of the storage front end -/

/-- The state with the oldest entry that submission queue `y` has fetched consumed (R437, R443). -/
abbrev State.nvTaken (s : State) (y : Nat) (q : NvSq) : State :=
  (s.readOver 2 (.sq y)).putSq y { q with head := (q.head + 1) % q.size, asked := q.asked - 1 }

/-! ## Requests over the link -/

/-- Queue `q` of kind `k` may put a request on the link now: its function may issue one (R337). -/
def State.Presents (s : State) (k q : Nat) : Prop := ∃ f pa, s.qVia k q = some (f, pa) ∧ s.issues f = true

/-- The argument of the slice-control entry of slice `k` enters: `u` is the state with its read over, in which the queue may
present a request (R375). -/
def State.ArgIn (s : State) (k : Nat) (u : State) : Prop :=
  s.reading (s.slicePf k) (.arg k) = true ∧ u = s.argIn k ∧ u.Presents qkSC k

end Sys2Proof.Machine
end

