-- ==== Sys2Proof/Certificates/Slice0/Obligations.lean ====
section
/-!
DEFINITION. The statements about the block: each formalises the rules of spec/ that its docstring names.
-/

section
open Sys2Proof Sys2Proof.Machine

/-- A step runs the command at the front of the queue (00_scope.md). -/
def Obligations.StepRunsTheFrontCommand : Prop :=
  ∀ (c : Instr) (cs : List Instr) (s : State), step { s with pending := c :: cs } = exec c { s with pending := cs }

/-- An empty queue idles, and no word spells a command (00_scope.md). -/
def Obligations.EmptyQueueIdles : Prop :=
  (∀ s : State, s.pending = [] → step s = .next s) ∧
  (∀ nbits w : Nat, decodeTableWord nbits w = none) ∧
  (∀ (s : State) (nbits w : Nat), s.withFetchWord nbits w = s)

/-- Every register at its reset value after reset (R7, R33, R65, R67, R536, R555). -/
def Obligations.RegistersAfterReset : Prop :=
  (∀ a : Nat, State.reset.rd a = resetWord a ∧ State.reset.inForce a = resetWord a) ∧
  (∀ u : Fin 24, State.reset.get (Hdr.adr u) Hdr.unitNo = u ∧ State.reset.get (Hdr.adr u) Hdr.device = 0x4160 ∧
    State.reset.ustate u = (if founding u then stSTARTING else stABSENT) ∧
    State.reset.ucause u = (if founding u then caNONE else caNO_RECORD) ∧ State.reset.get (Hdr.adr u) Hdr.momEvent = 15) ∧
  State.reset.bootStep = 1 ∧ State.reset.halted = false ∧ State.reset.scale = 0 ∧ State.reset.holder = ldNONE ∧
  State.reset.pending = [] ∧ State.reset.staged = [] ∧ State.reset.out = [] ∧
  State.reset.time.line = 0 ∧ State.reset.time.dom0 = 0 ∧ State.reset.time.dom1 = 0 ∧ State.reset.boot.named = []

/-- The state after reset is sound (R513). -/
def Obligations.ResetIsSound : Prop := State.reset.Sound

/-- Every step keeps a sound state sound (R7, R56, R513). -/
def Obligations.StepKeepsSoundStates : Prop :=
  ∀ s : State, s.Sound → ∃ t, step s = .next t ∧ t.Sound

/-- What every command keeps (R69, R89, R90, R513). -/
def Obligations.EveryCommandKeepsQueueOutputsAndFuses : Prop :=
  ∀ (c : Instr) (s : State), ∃ t, exec c s = .next t ∧ t.pending = s.pending ∧ s.out <+: t.out ∧ s.freeCtr ≤ t.freeCtr ∧
    Fuses.Grown s.boot.fuses t.boot.fuses ∧ (s.Sound → t.Sound)

/-- What raising an event writes (R107, R335, R511, R513). -/
def Obligations.RaisingAnEvent : Prop :=
  ∀ (s : State) (u n detail : Nat),
    (s.raise u n detail).get (Hdr.adr u) Hdr.momEvent = n % 16 ∧
    (s.raise u n detail).get (Hdr.adr u) Hdr.momStamp = (stampOf s.nowNs).toNat ∧
    (s.raise u n detail).get (Hdr.adr u) Hdr.momDetail = detail % 2 ^ 28 ∧
    (∀ a, QuietWord a → (s.raise u n detail).rd a = s.rd a ∧ (s.raise u n detail).inForce a = s.inForce a) ∧
    (s.staged.length < stagingCapacity → s.routed u n = true →
      ∃ q, (s.raise u n detail).staged = s.staged ++ [⟨16 * u + n, stampOf s.nowNs, BitVec.ofNat 32 detail, true, q⟩]) ∧
    (s.raise u n detail).out = s.out ∧ (s.raise u n detail).boot = s.boot ∧ (s.raise u n detail).time = s.time ∧
    (s.raise u n detail).cxe = s.cxe ∧ (s.raise u n detail).hif = s.hif ∧ (s.raise u n detail).pwr = s.pwr ∧
    (s.raise u n detail).svc = s.svc ∧ (s.raise u n detail).tm = s.tm ∧ (s.raise u n detail).emt = s.emt ∧
    (∀ m e : Nat, n < m → s.noted = [] →
      ((s.note u m e).note u n detail).announce = (s.raise u n detail).raise u m e ∧
      ((s.note u n detail).note u m e).announce = (s.raise u n detail).raise u m e)

/-- What moving a unit to a state writes (R12, R58, R62, R65). -/
def Obligations.MovingAUnit : Prop :=
  ∀ (s : State) (u : Fin 24) (st : Fin 7) (cause : Fin 256),
    (s.setUnit u st cause).ustate u = st ∧ (s.setUnit u st cause).ucause u = cause ∧
    (s.setUnit u st cause).get (Hdr.adr u) Hdr.ready = b2n (st == (2 : Fin 7)) ∧
    bit ((s.setUnit u st cause).get CfgReadyMap.adr CfgReadyMap.ready) u = (st == (2 : Fin 7)) ∧
    (s.ustate u ≠ st → (s.setUnit u st cause).get (Hdr.adr u) Hdr.momEvent = 0 ∧
      (s.setUnit u st cause).get (Hdr.adr u) Hdr.momDetail = st + 16 * s.ustate u + 256 * cause) ∧
    (s.ustate u = st → (s.setUnit u st cause).staged = s.staged)

/-- Steps, refreshes, invalidations and watchdogs of the two domains: a write crosses and takes effect in the second tick,
or at once in a unit that is not READY (R10, R99, R100, R104, R105). -/
def Obligations.DomainsStepRefreshAndLapse : Prop :=
  (∀ (o : Origin) (d : Fin 2) (v : DWord) (s : State), s.Open o 3 (0x1110 + 0x20 * d) false false → s.ready 3 = true →
    exec (.domainStep o d v) s = .next ((s.awake o 3).modTime fun t => { t with waiting := t.waiting ++ [(2, .step d v.toInt)] })) ∧
  (∀ (o : Origin) (d : Fin 2) (s : State), s.Open o 3 (0x1100 + 0x20 * d) false false → s.ready 3 = true →
    exec (.domainRefresh o d) s = .next ((s.awake o 3).modTime fun t => { t with waiting := t.waiting ++ [(2, .refresh d)] }) ∧
    exec (.domainInvalidate o d) s = .next ((s.awake o 3).modTime fun t => { t with waiting := t.waiting ++ [(2, .invalidate d)] })) ∧
  (∀ (o : Origin) (d : Fin 2) (ms : BitVec 16) (s : State), s.Open o 3 (0x1104 + 0x20 * d) false false → s.ready 3 = true →
    ∃ t, exec (.watchdogTimeoutWrite o d ms) s = .next t ∧ t.get (TuDom.adr d) TuDom.timeout = ms.toNat ∧
      t.act (TuDom.adr d) TuDom.timeout = s.act (TuDom.adr d) TuDom.timeout ∧
      t.time = { s.time with waiting := s.time.waiting ++
        [(2, .word (TuDom.adr d + 4) (merge 0xFFFF#32 (s.rd (TuDom.adr d + 4)) (BitVec.ofNat 32 ms.toNat)))] }) ∧
  (∀ (o : Origin) (d : Fin 2) (s : State), s.Open o 3 (0x1100 + 0x20 * d) false false → s.ready 3 = false → s.domValid d = false →
    ∃ t, exec (.domainRefresh o d) s = .next t ∧ t.domValid d = true ∧ t.time = s.time.setSince d 0) ∧
  (∀ (o : Origin) (d : Fin 2) (s : State), s.Open o 3 (0x1100 + 0x20 * d) false false → s.ready 3 = false → s.domValid d = true →
    ∃ t, exec (.domainInvalidate o d) s = .next t ∧ t.domValid d = false ∧ t.time = s.time ∧
      (s.selected = d → s.actB TuCtrl.adr TuCtrl.autoSwitch = true → s.domValid (1 - d) = true →
        (s.wdLimit (1 - d) = 0 ∨ s.time.since (1 - d) < s.wdLimit (1 - d)) → t.selected = 1 - d)) ∧
  (∀ (o : Origin) (d : Fin 2) (ms : BitVec 16) (s : State), s.Open o 3 (0x1104 + 0x20 * d) false false → s.ready 3 = false →
    s.domValid d = true → 0 < ms.toNat → ms.toNat * 25000 ≤ s.time.since d →
    ∃ t, exec (.watchdogTimeoutWrite o d ms) s = .next t ∧ t.domValid d = false ∧ t.time = s.time) ∧
  (∀ (o : Origin) (d : Fin 2) (ms : BitVec 16) (s : State), s.Open o 3 (0x1104 + 0x20 * d) false false → s.ready 3 = false →
    (ms.toNat = 0 ∨ s.time.since d < ms.toNat * 25000) →
    (s.wdLimit (1 - d) = 0 ∨ s.time.since (1 - d) < s.wdLimit (1 - d)) →
    ∃ t, exec (.watchdogTimeoutWrite o d ms) s = .next t ∧ t.get (TuDom.adr d) TuDom.timeout = ms.toNat ∧
      t.act (TuDom.adr d) TuDom.timeout = ms.toNat ∧ (∀ e : Fin 2, t.domValid e = s.domValid e) ∧ t.selected = s.selected ∧
      t.time = s.time) ∧
  (∀ (w : TuWrite) (s : State), s.mgtUp = true → s.Unarmed → s.time.waiting = [(2, w)] →
    ∃ t, exec .clkAonTick s = .next t ∧ t.time.waiting = [(1, w)] ∧
      t.time.dom0 = ((s.time.dom0 : Int) + tickUnits + s.adjust 0).toNat ∧
      t.time.dom1 = ((s.time.dom1 : Int) + tickUnits + s.adjust 1).toNat) ∧
  (∀ (d : Fin 2) (s : State), s.mgtUp = true → s.Unarmed → s.time.waiting = [(1, .refresh d)] →
    ∃ t, exec .clkAonTick s = .next t ∧ t.time.waiting = [] ∧ t.domValid d = true ∧ t.time.since d = 0) ∧
  (∀ (d : Fin 2) (s : State), s.mgtUp = true → s.Unarmed → s.time.waiting = [(1, .invalidate d)] → s.domValid d = true →
    ∃ t, exec .clkAonTick s = .next t ∧ t.time.waiting = [] ∧ t.domValid d = false ∧
      (s.selected = d → s.actB TuCtrl.adr TuCtrl.autoSwitch = true → s.domValid (1 - d) = true →
        (s.wdLimit (1 - d) = 0 ∨ s.time.since (1 - d) + 1 < s.wdLimit (1 - d)) → t.selected = 1 - d)) ∧
  (∀ (d : Fin 2) (ms : BitVec 16) (s : State), s.mgtUp = true → s.Unarmed →
    s.time.waiting = [(1, .word (TuDom.adr d + 4) (BitVec.ofNat 32 ms.toNat))] → s.domValid d = true →
    0 < ms.toNat → ms.toNat * 25000 ≤ s.time.since d →
    ∃ t, exec .clkAonTick s = .next t ∧ t.time.waiting = [] ∧ t.act (TuDom.adr d) TuDom.timeout = ms.toNat ∧ t.domValid d = false) ∧
  (∀ (s : State), s.mgtUp = true → s.Unarmed → s.time.waiting = [] → s.wdFrozen = false →
    (∀ d : Fin 2, 0 < s.wdLimit d ∧ s.wdLimit d ≤ s.time.since d + 1) →
    ∃ t, exec .clkAonTick s = .next t ∧ t.domValid 0 = false ∧ t.domValid 1 = false ∧ t.selected = s.selected) ∧
  (∀ (d : Fin 2) (s : State), 0 < s.wdLimit d → s.wdLimit d ≤ s.time.since d → s.domValid d = true →
    ∃ t, exec (.domainWatchdogExpiry d) s = .next t ∧ t.domValid d = false ∧ t.time = s.time ∧
      (s.selected = d → s.actB TuCtrl.adr TuCtrl.autoSwitch = true → s.domValid (1 - d) = true → t.selected = 1 - d)) ∧
  (∀ (d : Fin 2) (s : State), (s.wdLimit d = 0 ∨ s.time.since d < s.wdLimit d) → exec (.domainWatchdogExpiry d) s = .next s)

/-- Line time follows the selected domain, only ALIGN steps it, and a shadow never leads the tick's advance nor goes back
within it (R98, R99, R100, R101, R102, R103, R105, R106, R108, R110, R111). -/
def Obligations.LineTimeFollowsTheSelectedDomain : Prop :=
  (∀ (s : State) (z0 z1 : Int), s.boot.perst = true → s.pwr.off = false → s.Unarmed → s.wdLimit 0 = 0 → s.wdLimit 1 = 0 →
    s.time.waiting = [(1, .step 0 z0), (1, .step 1 z1)] → 0 ≤ (s.time.dom0 : Int) + z0 * (nsUnit : Int) →
    0 ≤ (s.time.dom1 : Int) + z1 * (nsUnit : Int) →
    ∃ t, exec .clkAonTick s = .next t ∧ t.ticks = s.ticks + 1 ∧ t.selected = s.selected ∧ t.time.waiting = [] ∧
      t.time.dom0 = ((s.time.dom0 : Int) + z0 * (nsUnit : Int) + tickUnits + s.adjust 0).toNat ∧
      t.time.dom1 = ((s.time.dom1 : Int) + z1 * (nsUnit : Int) + tickUnits + s.adjust 1).toNat ∧
      t.time.line = ((s.time.line : Int) + tickUnits + s.adjust s.selected + t.time.corr).toNat ∧
      t.time.corr = clampCorr (maxCorr (s.act TuSlew.adr TuSlew.rate))
        ((t.time.dom s.selected : Int) - ((s.time.line : Int) + tickUnits + s.adjust s.selected)) ∧
      t.get TuStatus.adr TuStatus.locked = b2n (t.time.line == t.time.dom s.selected)) ∧
  (∀ (s : State), s.boot.perst = true → s.pwr.off = false → s.Unarmed → s.wdLimit 0 = 0 → s.wdLimit 1 = 0 →
    (s.time.waiting = [] ∨ s.time.waiting = [(1, .align)] ∧ s.alignRefused = true) →
    ∃ t, exec .clkAonTick s = .next t ∧ t.ticks = s.ticks + 1 ∧ t.selected = s.selected ∧
      t.time.dom0 = ((s.time.dom0 : Int) + tickUnits + s.adjust 0).toNat ∧
      t.time.dom1 = ((s.time.dom1 : Int) + tickUnits + s.adjust 1).toNat ∧
      t.time.line = ((s.time.line : Int) + tickUnits + s.adjust s.selected + t.time.corr).toNat ∧
      t.time.corr = clampCorr (maxCorr (s.act TuSlew.adr TuSlew.rate))
        ((t.time.dom s.selected : Int) - ((s.time.line : Int) + tickUnits + s.adjust s.selected)) ∧
      t.time.inc = ((tickUnits : Int) + s.adjust s.selected + t.time.corr).toNat ∧ t.time.ran = s.time.ran + t.time.inc ∧
      t.get TuStatus.adr TuStatus.locked = b2n (t.time.line == t.time.dom s.selected)) ∧
  (∀ (o : Origin) (d : Fin 2) (s : State), s.Open o 3 0x1000 true false → s.ready 3 = true →
    ∃ t, exec (.domainSelect o d) s = .next t ∧ t.selected = s.selected ∧ t.get TuCtrl.adr TuCtrl.domainSel = d ∧
      t.act TuCtrl.adr TuCtrl.domainSel = s.act TuCtrl.adr TuCtrl.domainSel ∧
      t.time = { s.time with waiting := s.time.waiting ++ [(2, .select d)] }) ∧
  (∀ (o : Origin) (d : Fin 2) (s : State), s.Open o 3 0x1000 true false → s.ready 3 = false →
    ∃ t, exec (.domainSelect o d) s = .next t ∧ t.selected = d ∧ t.get TuCtrl.adr TuCtrl.domainSel = d ∧
      t.get TuStatus.adr TuStatus.holdover = b2n (!t.domValid d) ∧ t.time = s.time) ∧
  (∀ (d : Fin 2) (s : State), s.mgtUp = true → s.Unarmed → s.time.waiting = [(1, .select d)] →
    ∃ t, exec .clkAonTick s = .next t ∧ t.time.waiting = [] ∧ t.selected = d ∧ t.get TuCtrl.adr TuCtrl.domainSel = d ∧
      t.get TuStatus.adr TuStatus.holdover = b2n (!t.domValid d) ∧
      t.time.line = ((s.time.line : Int) + tickUnits + s.adjust d + t.time.corr).toNat) ∧
  (∀ (o : Origin) (s : State), s.Open o 3 0x1010 true false → s.ready 3 = true → s.alignRefused = false →
    exec (.align o) s = .next ((s.awake o 3).modTime fun t => { t with waiting := t.waiting ++ [(2, .align)] })) ∧
  (∀ (o : Origin) (s : State), s.Open o 3 0x1010 true false → s.ready 3 = false → s.alignRefused = false → s.noted = [] →
    s.wdLimit 0 = 0 → s.wdLimit 1 = 0 →
    ∃ t, exec (.align o) s = .next t ∧ t.time = { s.time with line := s.time.dom s.selected } ∧
      t.get TuStatus.adr TuStatus.locked = 1 ∧ t.get TuStatus.adr TuStatus.slewing = 0 ∧
      t.get (Hdr.adr 3) Hdr.momEvent = 11 ∧ t.get (Hdr.adr 3) Hdr.momDetail = s.selected) ∧
  (∀ (s : State), s.mgtUp = true → s.Unarmed → s.time.waiting = [(1, .align)] → s.alignRefused = false → s.noted = [] →
    ∃ t, exec .clkAonTick s = .next t ∧ t.time.waiting = [] ∧ t.time.line = t.time.dom t.selected ∧
      t.get TuStatus.adr TuStatus.locked = 1 ∧ t.get TuStatus.adr TuStatus.slewing = 0 ∧
      t.get (Hdr.adr 3) Hdr.momEvent = 11 ∧ t.get (Hdr.adr 3) Hdr.momDetail = t.selected) ∧
  (∀ (o : Origin) (s : State), s.Open o 3 0x1010 true false → s.alignRefused = true →
    exec (.align o) s = .next ((s.awake o 3).raise 3 2 0x1010)) ∧
  (∀ (s : State), s.time.line = s.time.dom s.selected → s.getB TuStatus.adr TuStatus.locked = false → s.noted = [] →
    exec .lineLocked s = .next (((s.set TuStatus.adr TuStatus.locked 1).set TuStatus.adr TuStatus.slewing 0).raise 3 6
      s.selected)) ∧
  (∀ (o : Origin) (s : State), s.Open o 3 0x1010 false false → s.ready 3 = true →
    exec (.snap o) s = .next ((s.awake o 3).modTime fun t => { t with waiting := t.waiting ++ [(2, .snap)] })) ∧
  (∀ (o : Origin) (s : State), s.Open o 3 0x1010 false false → s.ready 3 = false →
    ∃ t, exec (.snap o) s = .next t ∧ t.time = s.time ∧
      t.get TuSnap.adr TuSnap.sec = clkSec s.time.line ∧ t.get TuSnap.adr TuSnap.ns = clkNs s.time.line ∧
      t.get TuSnap.adr TuSnap.frac = clkFrac s.time.line ∧ t.get TuSnap.adr TuSnap.stamp = s.time.line / nsUnit % 2 ^ 32 ∧
      (∀ d : Fin 2, t.get (TuSnapDom.adr d) TuSnapDom.sec = clkSec (s.time.dom d) ∧
        t.get (TuSnapDom.adr d) TuSnapDom.ns = clkNs (s.time.dom d)) ∧
      t.get TuSnapSeq.adr TuSnapSeq.count = (s.get TuSnapSeq.adr TuSnapSeq.count + 1) % 2 ^ 32) ∧
  (∀ (s : State), s.mgtUp = true → s.Unarmed → s.time.waiting = [(1, .snap)] →
    ∃ t, exec .clkAonTick s = .next t ∧ t.time.waiting = [] ∧
      t.get TuSnap.adr TuSnap.sec = clkSec t.time.line ∧ t.get TuSnap.adr TuSnap.ns = clkNs t.time.line ∧
      t.get TuSnap.adr TuSnap.frac = clkFrac t.time.line ∧ t.get TuSnap.adr TuSnap.stamp = t.time.line / nsUnit % 2 ^ 32 ∧
      (∀ d : Fin 2, t.get (TuSnapDom.adr d) TuSnapDom.sec = clkSec (t.time.dom d) ∧
        t.get (TuSnapDom.adr d) TuSnapDom.ns = clkNs (t.time.dom d)) ∧
      t.get TuSnapSeq.adr TuSnapSeq.count = (s.get TuSnapSeq.adr TuSnapSeq.count + 1) % 2 ^ 32) ∧
  (∀ s : State, s.mgtUp = true → s.svc.pause = none → s.svc.dueCore = none → exec .clkAonTick s =
    .next ({ s with ticks := s.ticks + 1 } : State).timeTick.startTick.leaseTick.launchTick.clockTick) ∧
  (∀ (k : Shadow) (s : State), s.time.line ≤ s.shadow k ∧ s.shadow k ≤ s.time.line + s.nowInc ∧ s.shadow k ≤ s.tickFree.shadow k) ∧
  (∀ (k : Shadow) (s : State), s.mgtUp = true → s.Unarmed → s.time.waiting = [] → s.nowInc ≠ 0 →
    ∃ t, exec .clkAonTick s = .next t ∧ t.time.line = s.time.line + s.nowInc ∧ s.shadow k ≤ t.shadow k)

/-- The transmit stamp ring's TAIL, the pulse outputs and their edges (R117, R126, R127). -/
def Obligations.StampTailAndPulseOutputs : Prop :=
  (∀ (o : Origin) (v : Word) (s : State), s.Open o 3 0x1054 false false → v.toNat < 128 →
    (s.get TuTxHead.adr TuTxHead.index + 128 - v.toNat) % 128 ≤
      (s.get TuTxHead.adr TuTxHead.index + 128 - s.get TuTxTail.adr TuTxTail.index) % 128 →
    exec (.txstampTailWrite o v) s = .next ((s.awake o 3).set TuTxTail.adr TuTxTail.index v.toNat)) ∧
  (∀ (o : Origin) (v : Word) (s : State), s.Open o 3 0x1054 false false →
    (128 ≤ v.toNat ∨ (s.get TuTxHead.adr TuTxHead.index + 128 - s.get TuTxTail.adr TuTxTail.index) % 128 <
      (s.get TuTxHead.adr TuTxHead.index + 128 - v.toNat) % 128) →
    exec (.txstampTailWrite o v) s = .next ((s.awake o 3).raise 3 2 0x1054)) ∧
  (∀ (o : Origin) (n : Fin 8) (s : State), s.Open o 3 (0x40000 + 0x20 * n) false false → s.tpoEnabled n = false →
    pulseOk ((s.tpoTaken o n).actB (TuTpo.adr n) TuTpo.mode) ((s.tpoTaken o n).act (TuTpo.adr n) TuTpo.period)
      ((s.tpoTaken o n).act (TuTpo.adr n) TuTpo.width) = true →
    s.lineNs + 128 ≤ (s.tpoTaken o n).act (TuTpo.adr n) TuTpo.startSec * 1000000000 +
      (s.tpoTaken o n).act (TuTpo.adr n) TuTpo.startNs →
    ∃ t, exec (.tpoArm o n) s = .next t ∧ t.get (TuTpo.adr n) TuTpo.enable = 1 ∧
      t.time.tpo = s.time.tpo.modify n fun p =>
        { p with level := false, trail := none
                 next := some ((s.tpoTaken o n).act (TuTpo.adr n) TuTpo.startSec * 1000000000 +
                   (s.tpoTaken o n).act (TuTpo.adr n) TuTpo.startNs)
                 period := (s.tpoTaken o n).act (TuTpo.adr n) TuTpo.period
                 width := (s.tpoTaken o n).act (TuTpo.adr n) TuTpo.width }) ∧
  (∀ (o : Origin) (n : Fin 8) (s : State), s.Open o 3 (0x40000 + 0x20 * n) false false → s.tpoEnabled n = false →
    pulseOk ((s.tpoTaken o n).actB (TuTpo.adr n) TuTpo.mode) ((s.tpoTaken o n).act (TuTpo.adr n) TuTpo.period)
      ((s.tpoTaken o n).act (TuTpo.adr n) TuTpo.width) = false →
    exec (.tpoArm o n) s = .next (((s.tpoTaken o n).tpoSet n false).raise 3 2 (0x40000 + 0x20 * n))) ∧
  (∀ (o : Origin) (n : Fin 8) (s : State), s.Open o 3 (0x40000 + 0x20 * n) false false → s.tpoEnabled n = false →
    (s.tpoTaken o n).actB (TuTpo.adr n) TuTpo.mode = false →
    pulseOk false ((s.tpoTaken o n).act (TuTpo.adr n) TuTpo.period) ((s.tpoTaken o n).act (TuTpo.adr n) TuTpo.width) = true →
    (s.tpoTaken o n).act (TuTpo.adr n) TuTpo.startSec * 1000000000 +
      (s.tpoTaken o n).act (TuTpo.adr n) TuTpo.startNs < s.lineNs + 128 →
    exec (.tpoArm o n) s = .next (((s.tpoTaken o n).tpoSet n false).raise 3 9 n)) ∧
  (∀ (o : Origin) (n : Fin 8) (s : State), s.Open o 3 (0x40000 + 0x20 * n) false false →
    ∃ t, exec (.tpoStop o n) s = .next t ∧ t.get (TuTpo.adr n) TuTpo.enable = 0 ∧
      t.time.tpo = s.time.tpo.modify n fun p => { p with level := false, next := none, trail := none }) ∧
  (∀ (n : Fin 8) (s : State) (e : Nat), (s.tpo n).next = some e → e ≤ s.lineNs + 40 →
    ∃ t, exec (.tpoLeadingEdge n) s = .next t ∧ t.regs = s.regs ∧
      t.time.tpo = s.time.tpo.modify n fun p =>
        { p with level := true, trail := some (e + t.act (TuTpo.adr n) TuTpo.width)
                 next := if t.actB (TuTpo.adr n) TuTpo.mode then some (e + t.act (TuTpo.adr n) TuTpo.period) else none
                 period := t.act (TuTpo.adr n) TuTpo.period, width := t.act (TuTpo.adr n) TuTpo.width }) ∧
  (∀ (n : Fin 8) (s : State) (e : Nat), (s.tpo n).next = some e → s.lineNs + 40 < e → exec (.tpoLeadingEdge n) s = .next s) ∧
  (∀ (n : Fin 8) (s : State) (e : Nat), (s.tpo n).trail = some e → s.lineNs + 40 < e → exec (.tpoTrailingEdge n) s = .next s) ∧
  (∀ (n : Fin 8) (s : State) (e : Nat), (s.tpo n).trail = some e → e ≤ s.lineNs + 40 →
    ∃ t, exec (.tpoTrailingEdge n) s = .next t ∧
      t.time.tpo = s.time.tpo.modify n (fun p => { p with level := false, trail := none }) ∧
      ((s.tpo n).next = none → t.get (TuTpo.adr n) TuTpo.enable = 0) ∧ ((s.tpo n).next ≠ none → t.regs = s.regs))

/-- PERST_N, the rails and a brownout leave the reset state (R67, R69, R97, R472, R580, R581, R587). -/
def Obligations.ResetsOfTheDevice : Prop :=
  (∀ s : State, s.boot.perst = false → s.pwr.off = false →
    exec .perstNRise s = .next { State.reset with
      pending := s.pending, out := s.out, freeCtr := s.freeCtr, jtag := s.jtag
      boot := { State.reset.boot with perst := true, fuses := s.boot.fuses } }) ∧
  (∀ s : State, s.boot.perst = true → s.pwr.off = false →
    exec .perstNFall s = .next { State.reset with
      pending := s.pending, out := s.out, freeCtr := s.freeCtr, jtag := s.jtag
      boot := { State.reset.boot with perst := false, fuses := s.boot.fuses } }) ∧
  (∀ s : State, exec .aonBrownout s = .next { State.reset with
      pending := s.pending, out := s.out, freeCtr := s.freeCtr, jtag := s.jtag
      boot := { State.reset.boot with perst := s.boot.perst, fuses := s.boot.fuses }
      pwr := { State.reset.pwr with off := true } }) ∧
  (∀ s : State, s.pwr.off = true → exec .powerUp s = .next { State.reset with
      pending := s.pending, out := s.out, freeCtr := s.freeCtr
      boot := { State.reset.boot with perst := false, fuses := s.boot.fuses } }) ∧
  (∀ s : State, (s.boot.perst = true ∨ s.pwr.off = true) → exec .perstNRise s = .next s) ∧
  (∀ s : State, s.boot.perst = false → exec .perstNFall s = .next s) ∧
  (∀ s : State, s.pwr.off = false → exec .powerUp s = .next s)

/-- Steps 1 to 8 of the start sequence, when they pass (R4, R33, R47, R67, R71, R72, R73, R89, R563, R571). -/
def Obligations.StartStepsPass : Prop :=
  (∀ (x : BitVec 2) (s : State), s.atStep 1 = true → s.boot.wake = false → s.boot.replacing = none →
    ∃ t, exec (.strapSample (List.replicate 8 x)) s = .next t ∧ t.scale = x.toNat + 1 ∧ t.bootStep = 2 ∧ t.boot = s.boot) ∧
  (∀ (l : List (BitVec 2)) (s : State), l.all (fun x => x == l.headD 0) = false → exec (.strapSample l) s = .next s) ∧
  (∀ s : State, s.atStep 2 = true → s.boot.replacing = none →
    exec (.selfTest true true) s = .next ((s.foundingReady [1]).set BootStatus.adr BootStatus.step 3)) ∧
  (∀ s : State, s.atStep 3 = true → s.boot.replacing = none →
    ∃ t, exec (.fuseRead true) s = .next t ∧ t.bootStep = 4 ∧
      t.boot = { s.boot with romKey := some s.boot.fuses.duk, dukReg := some s.boot.fuses.duk } ∧
      t.get BootEpoch.adr BootEpoch.fwEpoch = countPositions s.boot.fuses.fwPos ∧
      t.get BootEpoch.adr BootEpoch.cfgEpoch = countPositions s.boot.fuses.cfgPos) ∧
  (∀ (ut uc ct cc : BitVec 17) (s : State), s.atStep 4 = true → s.boot.wake = false → s.boot.replacing = none →
    exec (.bankTest 0 0 0 0 ut uc ct cc) s = .next ((s.foundingReady [2, 14, 19, 23]).set BootStatus.adr BootStatus.step 5)) ∧
  (∀ (mhz cap : Nat) (s : State), s.atStep 5 = true → s.boot.replacing = none →
    exec (.sfdpDiscovery true true mhz cap) s =
      .next ((s.modBoot fun b => { b with sfdp := some (mhz, cap) }).set BootStatus.adr BootStatus.step 6)) ∧
  (∀ (c0 c1 : List Byte) (mhz cap : Nat) (s : State), s.atStep 6 = true → s.boot.replacing = none → s.boot.sfdp = some (mhz, cap) →
    (hdrValid cap c0 = true → exec (.flashHeaderCheck c0 c1) s =
      .next ((s.modBoot fun b => { b with hdr := some (parseHdr c0) }).set BootStatus.adr BootStatus.step 7)) ∧
    (hdrValid cap c0 = false → hdrValid cap c1 = true → exec (.flashHeaderCheck c0 c1) s =
      .next ((s.modBoot fun b => { b with hdr := some (parseHdr c1) }).set BootStatus.adr BootStatus.step 7))) ∧
  (∀ (a b c d : List Byte) (s : State), s.atStep 8 = true → s.boot.replacing = none →
    exec (.slotHeaderRead a b c d) s = .next ((s.modBoot fun x => { x with
      slotHdrs := [a.take 256, b.take 256, c.take 256, d.take 256], reads := [[], [], [], []], reread := none }).set BootStatus.adr BootStatus.step 9)) ∧
  (∀ (d : List Byte) (s : State), d.length ≤ 4096 → s.atStep 10 = true →
    exec (.flashBurst .cfgA d) s = .next (s.modBoot fun b => { b with reads := b.reads.modify 2 (· ++ d) })) ∧
  (∀ (d : List Byte) (s : State), d.length ≤ 4096 → s.atStep 9 = true →
    ∃ t, exec (.flashBurst .fwB d) s = .next t ∧ t.boot.reads = s.boot.reads.modify 1 (· ++ d) ∧ t.boot.reread = s.boot.reread ∧
      (s.loadBase, ((t.boot.reads.getD 1 []).take (imgLength (t.boot.reads.getD 1 []))).drop 256) ∈ t.boot.loaded) ∧
  (∀ (d : List Byte) (s : State), d.length ≤ 4096 → s.get CfgStatus.adr CfgStatus.phase = 2 → s.halted = false →
    exec (.flashBurst .apply d) s = .next (s.modBoot fun b => { b with applyBuf := b.applyBuf ++ d }))

/-- Install, the choice of images and the release of the cores (R46, R78, R79, R80, R81, R82, R83, R84, R85, R93). -/
def Obligations.ImagesAreInstalledChosenAndRun : Prop :=
  (∀ (env img a b back : List Byte) (h : FlashHdr) (s : State), s.atStep 7 = true → s.boot.replacing = none →
    s.boot.hdr = some h → leAt env 0 4 ≠ 0xA55AC33C →
    exec (.install env img a b back) s = .next (s.set BootStatus.adr BootStatus.step 8)) ∧
  (∀ (env img a b back duk : List Byte) (fw : Bool) (h : FlashHdr) (c : Choice) (s : State), s.atStep 7 = true →
    s.boot.replacing = none → s.boot.hdr = some h → s.boot.romKey = some duk → leAt env 0 4 = 0xA55AC33C →
    leAt env 4 1 = (if fw then 1 else 2) → s.chooseSlot fw [a.take 256, b.take 256] [a, b] = some c →
    ∃ t, exec (.install env img a b back) s = .next t ∧ t.bootStep = 8 ∧
      t.get BootInstall.adr BootInstall.kind = (if fw then 1 else 2) ∧
      t.get BootInstall.adr BootInstall.result =
        (if s.installFault h env img ≠ 0 then s.installFault h env img % 256 else if readBackOk duk fw back then 1 else 0x16) ∧
      t.get (Hdr.adr 1) Hdr.momEvent = 4 ∧ Out.flashProgram h.stage [0, 0, 0, 0] ∈ t.out ∧
      (s.installFault h env img = 0 → t.get BootInstall.adr BootInstall.slot = (if c.slot = some 0 then 1 else 0) ∧
        ∀ i < s.slotSize fw / 0x10000, Out.flashErase
          ((if c.slot = some 0 then (if fw then h.fwB else h.cfgB) else (if fw then h.fwA else h.cfgA)) + 0x10000 * i) ∈ t.out) ∧
      (s.installFault h env img ≠ 0 → t.out = s.out ++ [.flashProgram h.stage [0, 0, 0, 0]])) ∧
  (∀ (i : Nat) (trusted : Bool) (s : State), s.atStep 9 = true → s.boot.replacing = none → i < 2 →
    s.candidateSlots true [s.boot.slotHdrs.getD 0 [], s.boot.slotHdrs.getD 1 []] ≠ [] →
    s.chooseSlot true [s.boot.slotHdrs.getD 0 [], s.boot.slotHdrs.getD 1 []] [s.boot.reads.getD 0 [], s.boot.reads.getD 1 []] =
      some ⟨some i, trusted, false⟩ → (trusted = true ∨ s.scale < 3 ∧ s.boot.reread = some i) →
    ∃ t, exec .firmwareChoice s = .next t ∧ t.bootStep = 10 ∧ t.get SysTrust.adr SysTrust.fwSlot = i ∧
      t.get SysTrust.adr SysTrust.fwTrusted = b2n trusted ∧ t.get CfgStatus.adr CfgStatus.phase = 1 ∧
      (trusted = false → t.getB SysTrust.adr SysTrust.trustLost = true) ∧
      t.boot.entry = 0x20000000 + leAt (s.boot.reads.getD i []) 20 4 ∧
      (0x20000000, ((s.boot.reads.getD i []).take (imgLength (s.boot.reads.getD i []))).drop 256) ∈ t.boot.loaded) ∧
  (∀ (i : Nat) (s : State), s.atStep 9 = true → s.boot.replacing = none → s.scale < 3 → s.boot.reread ≠ some i →
    s.candidateSlots true [s.boot.slotHdrs.getD 0 [], s.boot.slotHdrs.getD 1 []] ≠ [] →
    s.chooseSlot true [s.boot.slotHdrs.getD 0 [], s.boot.slotHdrs.getD 1 []] [s.boot.reads.getD 0 [], s.boot.reads.getD 1 []] =
      some ⟨some i, false, false⟩ →
    exec .firmwareChoice s = .next (s.modBoot fun b => { b with reads := b.reads.set i [], reread := some i })) ∧
  (∀ (i : Nat) (trusted : Bool) (s : State), s.atStep 10 = true → s.boot.replacing = none → s.boot.wake = false → i < 2 →
    s.chooseSlot false [s.boot.slotHdrs.getD 2 [], s.boot.slotHdrs.getD 3 []] [s.boot.reads.getD 2 [], s.boot.reads.getD 3 []] =
      some ⟨some i, trusted, false⟩ → trusted = true ∨ s.scale < 3 →
    ∃ t, exec .configCheckPass s = .next t ∧ t.bootStep = 11 ∧ t.get CfgStatus.adr CfgStatus.slot = i ∧
      t.get CfgStatus.adr CfgStatus.format = leAt (s.boot.reads.getD (2 + i) []) 4 2 % 16 ∧
      t.get SysTrust.adr SysTrust.cfgTrusted = b2n trusted ∧
      (trusted = false → t.getB SysTrust.adr SysTrust.trustLost = true)) ∧
  (∀ s : State, s.atStep 10 = true → s.boot.replacing = none → s.boot.wake = false → s.scale < 3 →
    s.chooseSlot false [s.boot.slotHdrs.getD 2 [], s.boot.slotHdrs.getD 3 []] [s.boot.reads.getD 2 [], s.boot.reads.getD 3 []] =
      some ⟨none, false, false⟩ →
    exec .configCheckPass s = .next ((s.set CfgStatus.adr CfgStatus.phase 4).set BootStatus.adr BootStatus.step 11)) ∧
  (∀ s : State, s.atStep 11 = true → s.boot.replacing = none → s.getB SysTrust.adr SysTrust.trustLost = true →
    s.get CfgStatus.adr CfgStatus.phase = 1 →
    ∃ t, exec .coreRelease s = .next t ∧ t.bootStep = 0xFF ∧ t.get SysTrust.adr SysTrust.keysLocked = 1 ∧ t.boot.romKey = none ∧ t.boot.dukReg = none ∧
      t.get CfgStatus.adr CfgStatus.phase = 2 ∧ t.boot.cursor = 256 ∧ t.boot.recIndex = 0 ∧
      (∀ n < activeCores s.scale, t.get (BootVector.adr n) BootVector.address = s.boot.entry % 2 ^ 64) ∧
      (s.boot.released = 0 → s.get BootRunning.adr BootRunning.core = 0 →
        t.boot.released = BitVec.ofNat 26 (2 ^ activeCores s.scale - 1)))

/-- A step that fails halts the device with its code (R67, R70, R71, R79, R87, R91). -/
def Obligations.StartStepsHalt : Prop :=
  (∀ (s : State) (code : Nat), 0 < code → code < 16 → (s.halt code).halted = true ∧
    (s.halt code).get BootStatus.adr BootStatus.haltCode = code ∧ (s.halt code).get (Hdr.adr 1) Hdr.momEvent = 9 ∧
    (s.halt code).get (Hdr.adr 1) Hdr.momDetail = code ∧ (s.halt code).bootStep = s.bootStep ∧ (s.halt code).boot = s.boot) ∧
  (∀ (a b : Bool) (s : State), s.atStep 2 = true → (a && b) = false → exec (.selfTest a b) s = .next (s.halt 9)) ∧
  (∀ s : State, s.atStep 3 = true → s.boot.replacing = none → exec (.fuseRead false) s = .next (s.halt 6)) ∧
  (∀ (i j : Nat) (g ut uc ct cc : BitVec 17) (s : State), s.atStep 4 = true → i < j → j < 17 →
    g.getLsbD i = true → g.getLsbD j = true → exec (.bankTest g 0 0 0 ut uc ct cc) s = .next (s.halt 0xA)) ∧
  (∀ (a b : Bool) (mhz cap : Nat) (s : State), s.atStep 5 = true → (a && b) = false →
    exec (.sfdpDiscovery a b mhz cap) s = .next (s.halt 1)) ∧
  (∀ (c0 c1 : List Byte) (mhz cap : Nat) (s : State), s.atStep 6 = true → s.boot.replacing = none → s.boot.sfdp = some (mhz, cap) →
    hdrValid cap c0 = false → hdrValid cap c1 = false → exec (.flashHeaderCheck c0 c1) s = .next (s.halt 2)) ∧
  (∀ s : State, s.atStep 9 = true → s.boot.replacing = none →
    sound true (s.slotSize true) s.scale (s.boot.slotHdrs.getD 0 []) = false →
    sound true (s.slotSize true) s.scale (s.boot.slotHdrs.getD 1 []) = false → exec .firmwareChoice s = .next (s.halt 3)) ∧
  (∀ s : State, s.atStep 9 = true → s.boot.replacing = none →
    sound true (s.slotSize true) s.scale (s.boot.slotHdrs.getD 0 []) = true → imgEpoch (s.boot.slotHdrs.getD 0 []) < s.fwCounter →
    sound true (s.slotSize true) s.scale (s.boot.slotHdrs.getD 1 []) = false → exec .firmwareChoice s = .next (s.halt 8)) ∧
  (∀ s : State, s.atStep s.bootStep = true → s.bootStep < 11 → 2 ^ 32 ≤ s.boot.wdTicks →
    exec .startWatchdogExpiry s = .next (s.halt 0xF)) ∧
  (∀ s : State, s.boot.wdTicks < 2 ^ 32 → exec .startWatchdogExpiry s = .next s) ∧
  (∀ s : State, s.mgtUp = true → s.Unarmed → s.time.waiting = [] → s.atStep s.bootStep = true → s.bootStep < 11 → s.boot.wdTicks + 1 = 2 ^ 32 →
    ∃ t, exec .clkAonTick s = .next t ∧ t.halted = true ∧ t.get BootStatus.adr BootStatus.haltCode = 15) ∧
  (∀ (s : State) (n : Nat), s.halted = true → s.atStep n = false)

/-- What each type of record does, and how the apply pass ends (R41, R42, R43, R44, R48, R49, R50, R51, R54, R515, R577). -/
def Obligations.RecordsOfTheImage : Prop :=
  (∀ (s : State) (h : RecHdr) (body : List Byte), s.nextRecord = some (h, body) → h.type = 0 →
    exec .recordPad s = .next (s.pastRecord h)) ∧
  (∀ (s t : State) (h : RecHdr) (body : List Byte) (l : List (Nat × Nat)), s.nextRecord = some (h, body) → h.type = 1 → s.Applies h →
    areaPairs h.unit 0x1000 0x4000 body = some l → (s.pastRecord h).writePairs .record l = (t, .yes) →
    exec .recordIntent s = .next t) ∧
  (∀ (s t : State) (h : RecHdr) (body : List Byte) (l : List (Nat × Nat)), s.nextRecord = some (h, body) → h.type = 2 → s.Applies h →
    areaPairs h.unit 0x8000 0x20000 body = some l → ((s.pastRecord h).setExpert h.unit true).writePairs .record l = (t, .yes) →
    exec .recordExpert s = .next t) ∧
  (∀ (s t : State) (h : RecHdr) (body : List Byte), s.nextRecord = some (h, body) → h.type = 3 → s.Applies h → s.boot.wake = false →
    4 ≤ body.length → leAt body 0 4 % 4 = 0 → 0x40000 ≤ leAt body 0 4 → leAt body 0 4 + (body.length - 4) ≤ 0x100000 →
    (s.pastRecord h).writePairs .record ((wordsIn (body.drop 4)).zipIdx.map fun x => (h.unit * 0x100000 + leAt body 0 4 + 4 * x.2, x.1)) = (t, .yes) →
    exec .recordArray s = .next t) ∧
  (∀ (s : State) (h : RecHdr), s.nextRecord = some (h, []) → h.type = 4 → s.Applies h → s.applying h.unit = true →
    (s.lostBanks h.unit).2 = 0 → s.prereqsReady h.unit = true → s.getB (Hdr.adr h.unit) Hdr.hold = false →
    exec .recordReady s = .next (((s.pastRecord h).setUnit h.unit stREADY caNONE).cascade 24)) ∧
  (∀ (s : State) (h : RecHdr), s.nextRecord = some (h, []) → h.type = 4 → s.Applies h → s.applying h.unit = true →
    (s.lostBanks h.unit).2 = 0 → s.prereqsReady h.unit = false →
    exec .recordReady s = .next ((s.pastRecord h).modBoot fun b => { b with heldReady := b.heldReady ++ [h.unit] })) ∧
  (∀ (s : State) (h : RecHdr) (body : List Byte), s.nextRecord = some (h, body) → h.type = 0x100 → s.Applies h → h.unit = 21 →
    body.length = 4 → leAt body 0 4 < 256 →
    exec .recordPadSlew s = .next ((s.pastRecord h).modBoot fun b => { b with padSlew := leAt body 0 4 })) ∧
  (∀ (s t : State) (h : RecHdr) (body : List Byte) (l : List (Nat × Nat)), s.nextRecord = some (h, body) → h.type = 1 → s.Applies h →
    h.optional = false → areaPairs h.unit 0x1000 0x4000 body = some l → (s.pastRecord h).writePairs .record l = (t, .static) →
    exec .recordIntent s = .next (if founding h.unit then t.firstRecord CfgFault.adr h.unit s.boot.recIndex
      else t.refuseRecord h.unit s.boot.recIndex)) ∧
  (∀ (s : State) (h : RecHdr) (body : List Byte), s.nextRecord = some (h, body) → h.type = 1 → scaleOff s.scale h.unit = true →
    exec .recordIntent s = .next ((s.pastRecord h).skipRecord h.unit s.boot.recIndex)) ∧
  (∀ (s : State) (h : RecHdr) (body : List Byte), s.nextRecord = some (h, body) → h.type = 1 → scaleOff s.scale h.unit = false →
    s.boot.refusedUnits.contains h.unit = false → h.reserved = true →
    ∃ t, exec .recordIntent s = .next t ∧ t.boot.refusedUnits = s.boot.refusedUnits ++ [h.unit] ∧ t.boot.recIndex = s.boot.recIndex + 1) ∧
  (∀ (s : State) (h : RecHdr), s.nextRecord = some (h, []) → h.type = 1 → scaleOff s.scale h.unit = false →
    s.boot.refusedUnits.contains h.unit = false → h.reserved = false → s.boot.named = [] → ifvMinOf h.unit ≤ h.ifv → h.ifv ≤ 2 →
    exec .recordIntent s = .next (((s.pastRecord h).nameUnit h.unit h.ifv).startUnit h.unit)) ∧
  (∀ s : State, s.applyPass = true → 256 ≤ s.boot.applyBuf.length → s.imageEnd ≤ s.boot.cursor →
    ∃ t, exec .applyPassEnd s = .next t ∧ t.get CfgStatus.adr CfgStatus.phase = 3 ∧ t.boot.heldReady = [])

/-- Register writes that store, and L fields that come into force (R10, R52, R53, R55, R56, R57, R59, R182, R232, R247, R552, R592). -/
def Obligations.RegisterWritesStoreOrAreRefused : Prop :=
  (∀ (o : Origin) (a : Nat) (w : Word) (s : State), s.Stores (s.side o a) a w →
    s.Open (s.side o a) (a / 0x100000) (a % 0x100000) (s.needsLead a 1 w.toNat) (s.owns (s.side o a) a 1 w.toNat) →
    exec (.registerWrite o a false true (w.zeroExtend 64)) s = .next (s.written (s.side o a) a w)) ∧
  (∀ (o : Origin) (x : Fin 4096) (i : Fin 16) (w : Word) (s : State), s.Stores (s.side o (MpiAxis.adr x + 4 * i)) (MpiAxis.adr x + 4 * i) w →
    s.Open (s.side o (MpiAxis.adr x + 4 * i)) 5 ((MpiAxis.adr x + 4 * i) % 0x100000) true
      (s.owns (s.side o (MpiAxis.adr x + 4 * i)) (MpiAxis.adr x + 4 * i) 1 w.toNat) →
    exec (.axisWrite o x i w) s = .next (s.written (s.side o (MpiAxis.adr x + 4 * i)) (MpiAxis.adr x + 4 * i) w)) ∧
  (∀ (o : Origin) (x : Fin 4096) (w : Word) (s : State), s.nowhere (MpiAxis.adr x + 0x18) = false →
    s.Open (s.side o (MpiAxis.adr x + 0x18)) 5 ((MpiAxis.adr x + 0x18) % 0x100000) false true →
    exec (.axisWrite o x 6 w) s = .next { s.awake (s.side o (MpiAxis.adr x + 0x18)) 5 with
      latch := (s.latch.filter fun y => y.1 != s.side o (MpiAxis.adr x + 0x18)) ++
        [(s.side o (MpiAxis.adr x + 0x18), MpiAxis.adr x + 0x18, w)] }) ∧
  (∀ (o : Origin) (r : Fin 4) (n : Fin 64) (w : Word) (s : State), s.Stores (s.side o (PpPattern.adr r n)) (PpPattern.adr r n) w →
    s.Open (s.side o (PpPattern.adr r n)) (6 + r) (PpPattern.adr r n % 0x100000) true false →
    exec (.patternCtrlWrite o r n w) s = .next (s.written (s.side o (PpPattern.adr r n)) (PpPattern.adr r n) w)) ∧
  (∀ (o : Origin) (r : Fin 4) (k : Fin 256) (w : Word) (s : State), s.Stores (s.side o (PpHashKey.adr r k 9)) (PpHashKey.adr r k 9) w →
    s.Open (s.side o (PpHashKey.adr r k 9)) (6 + r) (PpHashKey.adr r k 9 % 0x100000) true false →
    exec (.hashKeyWord9Write o r k w) s = .next (s.written (s.side o (PpHashKey.adr r k 9)) (PpHashKey.adr r k 9) w)) ∧
  (∀ (o : Origin) (v : BitVec 16) (s : State), s.ready 3 = true → 512 ≤ v.toNat → s.Open o 3 0x1008 false false →
    (∀ k, o ≠ .slice k) →
    ∃ t, exec (.registerWrite o TuPrestart.adr false true (v.zeroExtend 64)) s = .next t ∧
      t.get TuPrestart.adr TuPrestart.lead = v.toNat ∧ t.act TuPrestart.adr TuPrestart.lead = s.act TuPrestart.adr TuPrestart.lead) ∧
  (∀ (o : Origin) (v : BitVec 16) (s : State), v.toNat < 512 → s.Open o 3 0x1008 false false → (∀ k, o ≠ .slice k) →
    exec (.registerWrite o TuPrestart.adr false true (v.zeroExtend 64)) s = .next ((s.awake o 3).raise 3 2 0x1008)) ∧
  (∀ (o : Origin) (a : Nat) (wide full : Bool) (v : DWord) (s : State), (∀ k, o ≠ .slice k) → a < 0x1800000 → (full = false ∨ a % 4 ≠ 0) →
    s.Open o (a / 0x100000) (a % 0x100000) false true →
    exec (.registerWrite o a wide full v) s = .next ((s.awake o (a / 0x100000)).raise (a / 0x100000) 2 (a % 0x100000))) ∧
  (∀ (o : Origin) (p : Fin 16) (w : Word) (s : State), s.scale = 4 → s.ready 21 = true →
    s.changes s.staticBits (Dpx.adr p) 1 w.toNat = true → (∀ k, o ≠ .slice k) →
    s.Open o 21 (Dpx.adr p % 0x100000) true false →
    exec (.registerWrite o (Dpx.adr p) false true (w.zeroExtend 64)) s = .next ((s.awake o 21).raise 21 1 (Dpx.adr p % 0x100000))) ∧
  (∀ (s : State), s.act TuPrestart.adr TuPrestart.lead ≠ s.get TuPrestart.adr TuPrestart.lead →
    ∃ t, exec (.lFieldEffect TuPrestart.adr) s = .next t ∧ t.regs = s.regs ∧
      t.act TuPrestart.adr TuPrestart.lead = s.get TuPrestart.adr TuPrestart.lead)

/-- UNIT_CTRL and UNIT_IFV_REQ: reset, go, hold, expert and the interface level (R44, R49, R54, R60, R63, R507, R594). -/
def Obligations.UnitsAreResetHeldAndStarted : Prop :=
  (∀ (o : Origin) (u : Fin 24) (s : State), s.Open o u 0x18 true false → neverHeld u = false → [2, 3, 4, 5, 6].contains (s.ustate u) = true →
    s.handsOver u = false → (u = 23 → s.svc.resetDue = []) →
    ∃ t, exec (.unitReset o u) s = .next t ∧ t.ustate u = stSTARTING ∧ t.ucause u = caUNIT_RESET) ∧
  (∀ (o : Origin) (u : Fin 24) (s : State), s.Open o u 0x18 true false → neverHeld u = false → s.handsOver u = true →
    exec (.unitReset o u) s = .next { s.awake o u with
      svc := { s.svc with resetDue := s.svc.resetDue ++ [⟨u, s.expert u, false, false⟩] } }) ∧
  (∀ (s : State) (d : DueReset), s.svc.resetDue = [d] → (s.handsOver d.unit = true → s.dueResets = s) ∧
    (s.handsOver d.unit = false →
      s.dueResets = ({ s with svc := { s.svc with resetDue := [] } } : State).ctrlAct d.unit d.expert d.hold true d.go)) ∧
  (∀ (o : Origin) (u : Fin 24) (s : State), s.Open o u 0x18 true false → s.ustate u = stSTARTING → s.ucause u = caUNIT_RESET →
    s.prereqsReady u = true → s.getB (Hdr.adr u) Hdr.hold = false → (u = 23 → s.svc.resetDue = []) →
    ∃ t, exec (.unitGo o u) s = .next t ∧ (s.serviceHolds u = false → t.ustate u = stREADY ∧ t.ucause u = caNONE) ∧
      (s.serviceHolds u = true → t.ustate u = stHELD ∧ t.ucause u = caHOLD_SERVICE)) ∧
  (∀ (o : Origin) (u : Fin 24) (s : State), s.Open o u 0x18 true false → neverHeld u = false → s.ustate u = stREADY → (u = 23 → s.svc.resetDue = []) →
    ∃ t, exec (.unitHold o u true) s = .next t ∧ t.ustate u = stHELD ∧ t.ucause u = caHOLD_LEAD) ∧
  (∀ (o : Origin) (u : Fin 24) (s : State), s.Open o u 0x18 true false → s.ustate u = stHELD → s.ucause u = caHOLD_LEAD →
    (u = 23 → s.svc.resetDue = []) →
    ∃ t, exec (.unitHold o u false) s = .next t ∧ (s.serviceHolds u = false → t.ustate u = stREADY ∧ t.ucause u = caNONE) ∧
      (s.serviceHolds u = true → t.ustate u = stHELD ∧ t.ucause u = caHOLD_SERVICE)) ∧
  (∀ (o : Origin) (s : State), s.Open o 4 0x18 true false → s.ustate 4 = stHELD → s.ucause 4 = caHOLD_LEAD →
    s.boot.heldReady = [5] → s.applying 5 = true → s.getB (Hdr.adr 5) Hdr.hold = false →
    ∃ t, exec (.unitHold o 4 false) s = .next t ∧ t.ustate 4 = stREADY ∧ t.ustate 5 = stREADY ∧ t.boot.heldReady = []) ∧
  (∀ (o : Origin) (u : Fin 24) (s : State), s.Open o u 0x18 true false → s.getB (Hdr.adr u) Hdr.hold = false → s.ustate u ≠ stHELD →
    (u = 23 → s.svc.resetDue = []) →
    ∃ t, exec (.unitExpert o u true) s = .next t ∧ t.expert u = true ∧ t.ustate u = s.ustate u) ∧
  (∀ (o : Origin) (u : Fin 24) (s : State), s.Open o u 0x18 true false → s.getB (Hdr.adr u) Hdr.hold = false →
    s.expert u = true → s.ready u = true →
    exec (.unitExpert o u false) s = .next ((s.awake o u).raise u 1 0x18)) ∧
  (∀ (o : Origin) (u : Fin 24) (s : State), s.Open o u 0x18 true false → neverHeld u = true →
    exec (.unitHold o u true) s = .next ((s.awake o u).raise u 2 0x18) ∧ exec (.unitReset o u) s = .next ((s.awake o u).raise u 2 0x18)) ∧
  (∀ (o : Origin) (u : Fin 24) (level : BitVec 8) (s : State), s.Open o u 8 false false → s.ready u = false →
    ∃ t, exec (.unitIfvReqWrite o u level) s = .next t ∧ t.get (Hdr.adr u) Hdr.ifvReq = level.toNat ∧
      t.get (Hdr.adr u) Hdr.ifvAct = min 2 (max (ifvMinOf u) level.toNat) ∧
      (level.toNat < ifvMinOf u → t.get (Hdr.adr u) Hdr.momEvent = 2 ∧ t.get (Hdr.adr u) Hdr.momDetail = 8)) ∧
  (∀ (o : Origin) (u : Fin 24) (level : BitVec 8) (s : State), s.Open o u 8 false false → founding u = false → s.ready u = true →
    level.toNat ≠ s.get (Hdr.adr u) Hdr.ifvReq →
    exec (.unitIfvReqWrite o u level) s = .next ((s.awake o u).raise u 1 8)) ∧
  (∀ (o : Origin) (u : Fin 24) (level : BitVec 8) (s : State), s.Open o u 8 false false → founding u = true → s.ready u = true →
    ifvMinOf u ≤ level.toNat → level.toNat ≠ s.act (Hdr.adr u) Hdr.ifvReq → s.act (Hdr.adr u) Hdr.ifvReq = s.get (Hdr.adr u) Hdr.ifvReq →
    ∃ t, exec (.unitIfvReqWrite o u level) s = .next t ∧ t.get (Hdr.adr u) Hdr.ifvReq = level.toNat ∧
      t.get (Hdr.adr u) Hdr.ifvAct = s.get (Hdr.adr u) Hdr.ifvAct ∧
      ∃ t', exec (.lFieldEffect (Hdr.adr u + 8)) t = .next t' ∧ t'.get (Hdr.adr u) Hdr.ifvAct = min 2 level.toNat)

/-- What stops a register write before it reaches its register, and whose a slice's write is (R4, R52, R87, R92, R489, R526,
R527, R559, R597). -/
def Obligations.WritesThatAreStopped : Prop :=
  (∀ (o : Origin) (w : Fin 3) (v : Word) (s : State), s.dark 3 = true → (∀ k, o ≠ .slice k) →
    exec (.registerWrite o (0x301000 + 4 * w) false true (v.zeroExtend 64)) s = .next s) ∧
  (∀ (v : Word) (s : State), scaleOff s.scale 16 = true →
    exec (.registerWrite .host ShxRetx.adr false true (v.zeroExtend 64)) s = .next s) ∧
  (∀ (o : Origin) (v : Word) (s : State), s.dark 3 = false → s.halted = true → (o = .host ∨ o = .management) →
    exec (.registerWrite o TuPrestart.adr false true (v.zeroExtend 64)) s = .next s) ∧
  (∀ (o : Origin) (v : Word) (s : State), s.dark 3 = false → s.halted = false → (o = .host ∨ o = .management) →
    s.hostCut o = false → s.ustate 3 = stSTARTING → s.ucause 3 = caAPPLYING →
    exec (.registerWrite o TuPrestart.adr false true (v.zeroExtend 64)) s = .next ((s.awake o 3).raise 3 2 0x1008)) ∧
  (∀ (o : Origin) (s : State), s.dark 3 = false → s.halted = false → (o = .host ∨ o = .management) →
    s.hostCut o = false → ¬(s.ustate 3 = stSTARTING ∧ s.ucause 3 = caAPPLYING) → s.leads o = false →
    exec (.align o) s = .next ((s.awake o 3).raise 3 3 0x1010)) ∧
  (∀ (k : Fin 256) (v : Word) (s : State), s.bound k = true → s.slicePf k = 0 → s.dark 3 = false → s.halted = false →
    s.hostCut .host = false → ¬(s.ustate 3 = stSTARTING ∧ s.ucause 3 = caAPPLYING) →
    exec (.registerWrite (.slice k) TuPrestart.adr false true (v.zeroExtend 64)) s = .next ((s.awake (.slice k) 3).raise 3 3 0x1008)) ∧
  (∀ (o : Origin) (a : Nat) (w : Word) (s : State), s.hostCut o = true → a % 4 = 0 → a < 0x1800000 → s.nowhere a = false → pairBase a = none →
    (s.ownWrite (s.side o a) a 1 w.toNat).isNone = true → exec (.registerWrite o a false true (w.zeroExtend 64)) s = .next s) ∧
  (∀ (k : Fin 256) (a : Nat) (wide full : Bool) (v : DWord) (s : State),
    (s.bound k = false ∨ s.slicePf k ≠ 0 ∧ ¬(queueKindAt a = some 3 ∧ (a - 0xFD0000) / 0x40 = k)) →
    exec (.registerWrite (.slice k) a wide full v) s = exec (.registerWrite .host a wide full v) s)

/-- Fuse commands: what is refused, what is programmed, and how a command ends (R89, R90, R96). -/
def Obligations.FuseCommands : Prop :=
  (∀ (o : Origin) (v : BitVec 8) (s : State), s.Open o 1 0x1014 true false → s.getB BootFuseResult.adr BootFuseResult.busy = false →
    s.fuseValueBad (.advanceFw v.toNat) = false → s.getB SysTrust.adr SysTrust.trustLost = false → s.fwCounter < v.toNat →
    ∃ t, exec (.advanceFwEpoch o 0xA5 v) s = .next t ∧ t.boot = { s.boot with fuseCmd := some (.advanceFw v.toNat) } ∧
      t.get BootFuseResult.adr BootFuseResult.busy = 1 ∧ t.get BootFuseCmd.adr BootFuseCmd.value = v.toNat) ∧
  (∀ (o : Origin) (v : BitVec 8) (s : State), s.Open o 1 0x1014 true false → s.getB BootFuseResult.adr BootFuseResult.busy = false →
    s.fuseValueBad (.advanceCfg v.toNat) = false → s.getB SysTrust.adr SysTrust.trustLost = false → s.cfgCounter < v.toNat →
    ∃ t, exec (.advanceCfgEpoch o 0xA5 v) s = .next t ∧ t.boot = { s.boot with fuseCmd := some (.advanceCfg v.toNat) } ∧
      t.get BootFuseResult.adr BootFuseResult.busy = 1) ∧
  (∀ (o : Origin) (v : BitVec 8) (s : State), s.Open o 1 0x1014 true false → s.getB BootFuseResult.adr BootFuseResult.busy = false →
    v.toNat ≤ 3 → s.boot.fuses.lastKey true v.toNat = false → s.getB SysTrust.adr SysTrust.trustLost = false →
    ∃ t, exec (.revokeVendor o 0xA5 v) s = .next t ∧ t.boot = { s.boot with fuseCmd := some (.revokeVendor v.toNat) } ∧
      t.get BootFuseResult.adr BootFuseResult.busy = 1) ∧
  (∀ (o : Origin) (v : BitVec 8) (s : State), s.Open o 1 0x1014 true false → s.getB BootFuseResult.adr BootFuseResult.busy = false →
    v.toNat ≤ 3 → s.boot.fuses.lastKey false v.toNat = false → s.getB SysTrust.adr SysTrust.trustLost = false →
    ∃ t, exec (.revokeOwner o 0xA5 v) s = .next t ∧ t.boot = { s.boot with fuseCmd := some (.revokeOwner v.toNat) } ∧
      t.get BootFuseResult.adr BootFuseResult.busy = 1) ∧
  (∀ (o : Origin) (c v : BitVec 8) (s : State), s.Open o 1 0x1014 true false → s.getB BootFuseResult.adr BootFuseResult.busy = false →
    c.toNat ≠ 0xA5 → ∃ t, exec (.revokeOwner o c v) s = .next t ∧ t.boot = s.boot ∧
      t.get BootFuseResult.adr BootFuseResult.status = 1 ∧ t.get (Hdr.adr 1) Hdr.momEvent = 7 ∧ t.get (Hdr.adr 1) Hdr.momDetail = 1) ∧
  (∀ (o : Origin) (v : BitVec 8) (s : State), s.Open o 1 0x1014 true false → s.getB BootFuseResult.adr BootFuseResult.busy = false →
    v.toNat ≤ 3 → s.boot.fuses.lastKey true v.toNat = true →
    ∃ t, exec (.revokeVendor o 0xA5 v) s = .next t ∧ t.boot = s.boot ∧ t.get BootFuseResult.adr BootFuseResult.status = 3) ∧
  (∀ (o : Origin) (c v : BitVec 8) (s : State), s.Open o 1 0x1014 true false → s.getB BootFuseResult.adr BootFuseResult.busy = true →
    exec (.advanceFwEpoch o c v) s = .next (((s.awake o 1).set BootFuseResult.adr BootFuseResult.status 5).raise 1 7 5)) ∧
  (∀ (v : Nat) (s : State), s.boot.fuseCmd = some (.advanceFw v) → v ≤ 64 → s.fwCounter ≤ v →
    ∃ t, exec (.fuseDone true) s = .next t ∧ t.fwCounter = v ∧ t.boot.fuseCmd = none ∧ t.cfgCounter = s.cfgCounter ∧
      t.boot.fuses.vendorRevoked = s.boot.fuses.vendorRevoked ∧ t.get BootFuseResult.adr BootFuseResult.busy = 0 ∧
      t.get BootFuseResult.adr BootFuseResult.status = 0 ∧ t.get (Hdr.adr 1) Hdr.momEvent = 7) ∧
  (∀ (i : Fin 4) (s : State), s.boot.fuseCmd = some (.revokeVendor i) →
    ∃ t, exec (.fuseDone true) s = .next t ∧ t.boot.fuses = { s.boot.fuses with vendorRevoked := s.boot.fuses.vendorRevoked ||| 1#4 <<< i.val }) ∧
  (∀ (op : FuseOp) (s : State), s.boot.fuseCmd = some op →
    ∃ t, exec (.fuseDone false) s = .next t ∧ Fuses.Grown s.boot.fuses t.boot.fuses ∧ t.boot.fuseCmd = none ∧
      t.get BootFuseResult.adr BootFuseResult.status = 6)

/-- Releasing cores, and staging an image (R37, R87, R88, R92, R94, R95, R515). -/
def Obligations.CoresAreReleasedAndImagesStaged : Prop :=
  (∀ (o : Origin) (mask : BitVec 26) (s : State), (o = .firmware ∨ o = .base) → s.Open o 1 0x1020 false false → s.scale = 4 → mask ≠ 0 →
    s.get BootRunning.adr BootRunning.core = 0 → s.boot.released = 0 →
    ∃ t, exec (.bootReleaseWrite o mask) s = .next t ∧ t.boot.released = mask ∧
      t.boot.bootInfo = [s.rd SysTrust.adr, s.rd BootStatus.adr, s.rd BootInstall.adr, s.rd BootEpoch.adr, s.rd BootKeys.adr] ∧
      t.get (Hdr.adr 1) Hdr.momEvent = 8 ∧ t.get (Hdr.adr 1) Hdr.momDetail = mask.toNat) ∧
  (∀ (o : Origin) (mask : BitVec 26) (s : State), (o = .host ∨ o = .management) → s.Open o 1 0x1020 false false →
    exec (.bootReleaseWrite o mask) s = .next ((s.awake o 1).raise 1 2 0x1020)) ∧
  (∀ (n : Fin 26) (s : State), s.boot.released.getLsbD n = true →
    ∃ t, exec (.coreFirstFetch n) s = .next t ∧ bit (t.get BootRunning.adr BootRunning.core) n = true ∧ t.boot.released.getLsbD n = false ∧
      sfind t.boot.cores n = some ⟨s.get (BootVector.adr n) BootVector.address, n, Config.bootInfoAddr, true⟩) ∧
  (∀ (o : Origin) (data : Word) (s : State), s.Open o 2 0x1014 true false → s.stageOpen = true →
    s.getB CfgStageCmd.adr CfgStageCmd.busy = false → s.get CfgStageAddr.adr CfgStageAddr.offset + 4 ≤ s.stageArea.2 →
    s.get CfgStageAddr.adr CfgStageAddr.offset % 256 ≠ 252 →
    exec (.stageDataWrite o data) s = .next (((s.awake o 2).modBoot fun b => { b with
      page := sins b.page (s.get CfgStageAddr.adr CfgStageAddr.offset) data }).set CfgStageAddr.adr CfgStageAddr.offset
        (s.get CfgStageAddr.adr CfgStageAddr.offset + 4))) ∧
  (∀ (o : Origin) (data : Word) (s : State), s.Open o 2 0x1014 true false → s.stageOpen = true →
    s.getB CfgStageCmd.adr CfgStageCmd.busy = false → s.get CfgStageAddr.adr CfgStageAddr.offset + 4 ≤ s.stageArea.2 →
    s.get CfgStageAddr.adr CfgStageAddr.offset % 256 = 252 →
    ∃ t bytes, exec (.stageDataWrite o data) s = .next t ∧ t.get CfgStageCmd.adr CfgStageCmd.busy = 1 ∧ bytes.length = 256 ∧
      t.out = s.out ++ [.flashProgram (s.stageArea.1 + (s.get CfgStageAddr.adr CfgStageAddr.offset - 252)) bytes] ∧
      bytes.drop 252 = leBytes 4 data.toNat) ∧
  (∀ (o : Origin) (data : Word) (s : State), s.Open o 2 0x1014 true false → s.stageOpen = true →
    s.getB CfgStageCmd.adr CfgStageCmd.busy = false → s.stageArea.2 < s.get CfgStageAddr.adr CfgStageAddr.offset + 4 →
    exec (.stageDataWrite o data) s = .next ((s.awake o 2).set CfgStageCmd.adr CfgStageCmd.status 2)) ∧
  (∀ (o : Origin) (data : Word) (s : State), s.Open o 2 0x1014 true false →
    (s.stageOpen = false ∨ s.getB CfgStageCmd.adr CfgStageCmd.busy = true) →
    exec (.stageDataWrite o data) s = .next ((s.awake o 2).set CfgStageCmd.adr CfgStageCmd.status 1)) ∧
  (∀ (o : Origin) (s : State), s.Open o 2 0x1018 true false → s.stageOpen = true → s.getB CfgStageCmd.adr CfgStageCmd.busy = false →
    s.get CfgStageAddr.adr CfgStageAddr.offset < s.stageArea.2 →
    exec (.erase64k o none) s = .next ((s.awake o 2).stageRun
      (.erase (s.stageArea.1 + s.get CfgStageAddr.adr CfgStageAddr.offset / 0x10000 * 0x10000))
      (.flashErase (s.stageArea.1 + s.get CfgStageAddr.adr CfgStageAddr.offset / 0x10000 * 0x10000)))) ∧
  (∀ (o : Origin) (s : State), s.Open o 2 0x1018 true false → s.stageOpen = true → s.getB CfgStageCmd.adr CfgStageCmd.busy = false →
    s.stageArea.2 ≠ 0 →
    exec (.mark o none) s = .next ((s.awake o 2).stageRun (.marker 0xA55AC33C) (.flashProgram s.stageArea.1 (leBytes 4 0xA55AC33C))) ∧
    exec (.unmark o none) s = .next ((s.awake o 2).stageRun (.marker 0) (.flashProgram s.stageArea.1 (leBytes 4 0)))) ∧
  (∀ (o : Origin) (p : Nat) (w : Word) (l : List (Nat × Word)) (s : State), s.Open o 2 0x1018 true false → s.stageOpen = true →
    s.getB CfgStageCmd.adr CfgStageCmd.busy = false → s.boot.page = (p, w) :: l →
    exec (.stageFlush o none) s = .next ((s.awake o 2).stagePage (p / 256 * 256))) ∧
  (∀ (op : StageOp) (s : State), s.boot.stageOp = some op →
    exec (.stageDone true) s = .next ((((s.modBoot fun b => { b with stageOp := none }).set CfgStageCmd.adr CfgStageCmd.busy 0).set
      CfgStageCmd.adr CfgStageCmd.status 0).raise 2 5 0)) ∧
  (∀ (op : StageOp) (s : State), s.boot.stageOp = some op →
    ∃ t, exec (.stageDone false) s = .next t ∧ t.boot.stageOp = none ∧ t.get CfgStageCmd.adr CfgStageCmd.busy = 0 ∧
      t.get CfgStageCmd.adr CfgStageCmd.status = 3 ∧ t.get (Hdr.adr 2) Hdr.momEvent = 6)

/-- At its boundary a rope takes its mode, flips by commit or goes stale (R138, R139, R140, R143, R170, R171, R173, R174, R176, R178). -/
def Obligations.BoundariesSetModesAndFlipImages : Prop :=
  (∀ (b : Nat) (bad : List Nat) (r : Nat) (s : State), s.lineNs ≤ b → b ≤ s.lineNs + 40 → s.ready 4 = true → s.ready 5 = false →
    s.ustate 5 ≠ stHELD → s.ropesAt b = [r] → r < s.cxe.ropes.length → s.inPause r b = false → (s.ropeLatch r).nextMode r ≠ rmOFF →
    ∃ t, exec (.ropeBoundary b bad) s = .next t ∧ t.ropeMode r = (s.ropeLatch r).nextMode r ∧
      t.get (CxeRope.adr r) CxeRope.cycle = cycleAt s.inForce r b ∧ (t.rope r).boundary = b ∧
      ((s.ropeLatch r).nextMode r = rmRUN → (s.ropeLatch r).getB (CxeRope.adr r) CxeRope.stPending = true →
        (s.ropeLatch r).get (CxeRope.adr r) CxeRope.stTarget = cycleAt s.inForce r b % 65536 →
        t.get (CxeRope.adr r) CxeRope.stStale = 0 ∧ t.getB (CxeRope.adr r) CxeRope.stPending = false ∧
        (t.rope r).flipped = cycleAt s.inForce r b % 65536 ∧ (t.rope r).outStale = false) ∧
      ((s.ropeLatch r).nextMode r = rmRUN → (s.ropeLatch r).getB (CxeRope.adr r) CxeRope.stPending = false →
        t.get (CxeRope.adr r) CxeRope.stStale = min ((s.ropeLatch r).get (CxeRope.adr r) CxeRope.stStale + 1) 255 ∧
        (t.rope r).outStale = true)) ∧
  (∀ (b : Nat) (bad : List Nat) (r : Nat) (s : State), s.lineNs ≤ b → b ≤ s.lineNs + 40 → s.ustate 4 = stHELD → s.ready 5 = false →
    s.ustate 5 ≠ stHELD → s.ropesAt b = [r] → r < s.cxe.ropes.length → s.inPause r b = false → (s.ropeLatch r).ropeMode r ≠ rmOFF →
    ∃ t, exec (.ropeBoundary b bad) s = .next t ∧ (t.rope r).held = true ∧ t.getB (CxeRope.adr r) CxeRope.stPending = false ∧
      t.ropeMode r = (s.ropeLatch r).ropeMode r ∧ (∀ f ∈ t.cxe.frames, f.rope ≠ r)) ∧
  (∀ (r c n : Nat) (s : State), n < s.stationCount →
    ((s.flipOut r c).stn n).outSel = if stnF s.inForce n CxeStn.rope = r then !(s.stn n).outSel else (s.stn n).outSel) ∧
  (∀ (r : Nat) (s : State), s.actB (CxeRope.adr r) CxeRope.enable = false → s.nextMode r = rmOFF) ∧
  (∀ (r : Nat) (s : State), s.actB (CxeRope.adr r) CxeRope.enable = true → s.ropeMode r = rmOFF →
    s.nextMode r = if ((s.rope r).freeze || s.frozen (s.ropeSlice r)) = true then rmHOLD else rmRUN) ∧
  (∀ (r : Nat) (s : State), s.actB (CxeRope.adr r) CxeRope.enable = true → s.ropeMode r ≠ rmOFF →
    ((s.rope r).stopReq || (s.rope r).groupStop || (s.rope r).lostStop) = true → s.nextMode r = rmSTOP) ∧
  (∀ (r : Nat) (s : State), s.actB (CxeRope.adr r) CxeRope.enable = true → s.ropeMode r ≠ rmOFF →
    ((s.rope r).stopReq || (s.rope r).groupStop || (s.rope r).lostStop) = false →
    s.nextMode r = max (max (if (s.rope r).resumeReq then rmRUN else s.ropeMode r)
      (if (s.rope r).hostLost then lossMode (s.act (CxeRope.adr r) CxeRope.hostLoss) else 0)) 
      (if ((s.rope r).freeze || s.frozen (s.ropeSlice r)) = true then rmHOLD else 0)) ∧
  (∀ (o : Origin) (r : Fin 16) (v : BitVec 16) (s : State), s.Open o 4 (ropeOffset r 0x30) false true →
    (∀ k, o = .slice k → s.bound k = true ∧ s.slicePf k = 0 ∧ s.ropeSlice r = k) → (s.rope r).held = false → s.ropeMode r = rmRUN →
    exec (.commit o r v) s = .next (((s.awake o 4).set (CxeRope.adr r) CxeRope.stPending 1).set (CxeRope.adr r) CxeRope.stTarget v.toNat)) ∧
  (∀ (o : Origin) (r : Fin 16) (v : BitVec 16) (s : State), s.Open o 4 (ropeOffset r 0x30) false true →
    (∀ k, o = .slice k → s.bound k = true ∧ s.slicePf k = 0 ∧ s.ropeSlice r = k) → (s.rope r).held = false →
    s.ropeMode r ≠ rmRUN → s.ropeMode r ≠ rmOFF →
    exec (.commit o r v) s = .next ((((s.awake o 4).set (CxeRope.adr r) CxeRope.stPending 1).set (CxeRope.adr r)
      CxeRope.stTarget v.toNat).set (CxeRope.adr r) CxeRope.stStale 0)) ∧
  (∀ (o : Origin) (r : Fin 16) (v : BitVec 16) (s : State), s.Open o 4 (ropeOffset r 0x30) false true →
    (∀ k, o = .slice k → s.bound k = true ∧ s.slicePf k = 0 ∧ s.ropeSlice r = k) → (s.rope r).held = false → s.ropeMode r = rmOFF →
    exec (.commit o r v) s = .next ((s.awake o 4).set (CxeRope.adr r) CxeRope.stStale 0)) ∧
  (∀ (o : Origin) (r : Fin 16) (s : State), s.Open o 4 (ropeOffset r 0x2C) false false → s.ropeMode r ≠ rmOFF →
    exec (.ropeCtrlStop o r) s = .next ((s.awake o 4).modRope r fun x => { x with stopReq := true })) ∧
  (∀ (o : Origin) (r : Fin 16) (s : State), s.Open o 4 (ropeOffset r 0x2C) false false → s.resumeOk r = true →
    s.ropeMode r ≠ rmOFF → s.ropeMode r ≠ rmRUN →
    exec (.resume o r) s = .next ((s.awake o 4).modRope r fun x => { x with resumeReq := true })) ∧
  (∀ (o : Origin) (r : Fin 16) (s : State), s.Open o 4 (ropeOffset r 0x2C) false false → s.resumeOk r = false →
    exec (.resume o r) s = .next ((s.awake o 4).raise 4 2 (ropeOffset r 0x2C)))

/-- Cycle frames are built, wait at their comparators and leave with their stamps (R112, R121, R142, R149, R155, R156, R157). -/
def Obligations.FramesAreBuiltAndLaunched : Prop :=
  (∀ (r : Fin 16) (s u : State), s.ropeMode r ≠ rmOFF → (s.rope r).held = false → (s.rope r).built = false → s.cxeRuns = true →
    u = (({ s with cxe := { s.cxe with
      frames := s.cxe.frames ++ (List.range 16).flatMap (s.portFrames r) } } : State).armPorts r
        ((List.range 16).flatMap (s.portFrames r))).modRope r (fun x => { x with built := true }) →
    exec (.frameBuild r) s = .next (if ((List.range 16).flatMap (s.portFrames r)).isEmpty then
      u.prestartEnds r (fun t => decide (t ≤ (s.rope r).boundary)) else u)) ∧
  (∀ (r p : Nat) (s : State), ∀ f ∈ s.portFrames r p, f.port = p ∧ f.rope = r ∧ f.left = false ∧ f.waiting = false ∧
    f.cycle = s.get (CxeRope.adr r) CxeRope.cycle) ∧
  (∀ (r p : Nat) (s : State), (s.portFrames r p).map CFrame.id = List.range (s.portFrames r p).length) ∧
  (∀ (p r : Fin 16) (f : CFrame) (i : Nat) (s : State),
    s.cxe.frames.find? (fun f => f.port == p.val && f.rope == r.val && f.id == 0 && !f.left && !f.waiting) = some f →
    s.armedAt p r = some i → s.driveOn p = true → s.cycleOk p = true → s.lineNs ≤ i →
    exec (.frameAtComparator p r) s = .next (s.modFrame p r 0 fun g => { g with waiting := true })) ∧
  (∀ (p r : Fin 16) (f : CFrame) (i : Nat) (s : State),
    s.cxe.frames.find? (fun f => f.port == p.val && f.rope == r.val && !f.left) = some f →
    s.armedAt p r = some i → s.driveOn p = true → f.waiting = true →
    (s.lineNs ≤ i → i ≤ s.lineNs + 40 → exec (.frameLaunch p r) s = .next ((s.launch f i).disarm p r)) ∧
    (i < s.lineNs ∨ s.lineNs + 40 < i → exec (.frameLaunch p r) s = .next s)) ∧
  (∀ (p r i : Nat) (f : CFrame) (s : State), s.time.armed = [(p, r, i)] → s.driveOn p = true →
    s.cxe.frames.find? (fun f => f.port == p && f.rope == r && !f.left && f.waiting) = some f →
    (i < s.lineNs → s.launchTick = (s.launch f i).disarm p r) ∧ (s.lineNs ≤ i → s.launchTick = s)) ∧
  (∀ (p r : Fin 16) (f : CFrame) (s : State),
    s.cxe.frames.find? (fun f => f.port == p.val && f.rope == r.val && !f.left) = some f →
    s.armedAt p r = none → s.driveOn p = true → s.cycleOk p = true → f.id ≠ 0 →
    exec (.frameLaunch p r) s = .next (s.launch f (s.portStamp p true / 16))) ∧
  (∀ (f : CFrame) (ns : Nat) (s : State), f ∈ s.cxe.frames →
    ∃ g ∈ (s.launch f ns).cxe.frames, g.id = f.id ∧ g.port = f.port ∧ g.rope = f.rope ∧ g.bytes = f.bytes ∧ g.left = true ∧ g.stamp = stampOf ns ∧
      g.lost = (s.msecTx f.port f.bytes).2.isNone) ∧
  (∀ (o : Origin) (offset : Nat) (data : List Byte) (s : State),
    (∀ k, o = .slice k → s.bound k = true ∧ s.slicePf k = 0 ∧ within (s.sliceImage k 1) offset data.length = true) →
    offset + data.length ≤ imageSize → s.ustate 4 ≠ stABSENT → s.haltStops o 4 0 = false → s.hostCut o = false →
    exec (.imageApertureWrite o offset data) s = .next (writeBack (s.stations s.inForce) offset data (s.startClocks [ckCXE]))) ∧
  (∀ (k : Fin 256) (offset : Nat) (data : List Byte) (s : State), within (s.sliceImage k 1) offset data.length = false →
    exec (.imageApertureWrite (.slice k) offset data) s = .next s)

/-- Replies reach their lane, segments are gathered, latched and published (R144, R147, R159, R160, R163, R164, R165, R169, R174, R230, R299). -/
def Obligations.RepliesAreGatheredAndPublished : Prop :=
  (∀ (lane : Fin 2) (f : PFrame) (tmpl : Option Nat) (rest : List (PFrame × Option Nat)) (s : State),
    takeLane lane s.pp.toCxe = some ((f, tmpl), rest) → (f.fcs ≠ some true ∨ s.cxeRuns = false) →
    exec (.replyFrameArrival lane) s = .next ((({ s with pp := { s.pp with toCxe := rest } } : State).startClocks [ckCXE]).freeCells
      (8 * f.role + f.input) (cellsOf f.bytes.length))) ∧
  (∀ (lane : Fin 2) (f : PFrame) (rest : List (PFrame × Option Nat)) (g : List Byte) (s : State),
    takeLane lane s.pp.toCxe = some ((f, none), rest) → f.fcs = some true → s.cxeRuns = true → g = bareFrame (s.tpidOf f.role) f.bytes →
    ∃ t x, exec (.replyFrameArrival lane) s = .next t ∧ t.lane lane = s.lane lane ++ [x] ∧ t.lane (1 - lane) = s.lane (1 - lane) ∧
      x.payload = g.drop (etherAt (s.tpidOf f.role) g tagFuel 12 + 2) ∧ x.port = 8 * f.role + f.input ∧
      x.rope = beAt x.payload 0 1 % 16 ∧ x.next = 0 ∧ x.count = beAt x.payload 2 2 ∧ x.template = none ∧
      x.cells = cellsOf f.bytes.length ∧ x.at_ = f.stamp / 16 ∧ t.regs = s.regs ∧ t.pp.toCxe = rest ∧ ckCXE ∉ t.pwr.stopped) ∧
  (∀ (lane : Fin 2) (f : PFrame) (tm : Nat) (rest : List (PFrame × Option Nat)) (s : State),
    takeLane lane s.pp.toCxe = some ((f, some tm), rest) → f.fcs = some true → s.cxeRuns = true →
    ∃ t x, exec (.replyFrameArrival lane) s = .next t ∧ t.lane lane = s.lane lane ++ [x] ∧ x.template = some tm ∧ x.at_ = f.stamp / 16 ∧
      x.payload = bareFrame (s.tpidOf f.role) f.bytes) ∧
  (∀ (lane : Fin 2) (f : LaneFrame) (fs : List LaneFrame) (s : State), s.lane lane = f :: fs → f.template = none →
    replyShapeOk f.payload = false → exec (.replySegment lane) s = .next ((s.rejectPort f.port).popLane lane)) ∧
  (∀ (lane : Fin 2) (f : LaneFrame) (fs : List LaneFrame) (s : State), s.lane lane = f :: fs → f.template = none →
    replyShapeOk f.payload = true → ropeOn s.inForce f.rope = true → s.ropeMode f.rope ≠ rmOFF → (s.rope f.rope).held = false →
    cycleIs f (s.rope f.rope).gatherCycle = true →
    exec (.replySegment lane) s = .next ((s.takeSegment f).nextSeg lane)) ∧
  (∀ (lane : Fin 2) (f : LaneFrame) (fs : List LaneFrame) (s : State), s.lane lane = f :: fs → f.template = none →
    replyShapeOk f.payload = true → ropeOn s.inForce f.rope = true → s.ropeMode f.rope ≠ rmOFF → (s.rope f.rope).held = false →
    f.rope < s.cxe.ropes.length → cycleIs f (s.rope f.rope).gatherCycle = false → cycleIs f (((s.rope f.rope).gatherCycle + 2 ^ 32 - 1) % 2 ^ 32) = true →
    ∃ t, exec (.replySegment lane) s = .next t ∧ (t.rope f.rope).late = true ∧
      (∀ a, a ≠ TmInput.adr f.port + 4 → t.rd a = s.rd a ∧ t.inForce a = s.inForce a) ∧ t.cxe.in0 = s.cxe.in0 ∧
      t.cxe.in1 = s.cxe.in1 ∧ t.lane lane = fs) ∧
  (∀ (lane : Fin 2) (f : LaneFrame) (fs : List LaneFrame) (s : State), s.lane lane = f :: fs → f.template = none →
    replyShapeOk f.payload = true → ropeOn s.inForce f.rope = true → s.ropeMode f.rope ≠ rmOFF → (s.rope f.rope).held = false →
    f.rope < s.cxe.ropes.length → cycleIs f (s.rope f.rope).gatherCycle = false → cycleIs f (((s.rope f.rope).gatherCycle + 2 ^ 32 - 1) % 2 ^ 32) = false →
    ∃ t, exec (.replySegment lane) s = .next t ∧ (t.rope f.rope).rejected = true ∧ t.cxe.in0 = s.cxe.in0 ∧ t.cxe.in1 = s.cxe.in1 ∧
      t.lane lane = fs ∧ ((s.rope f.rope).rejectedEvent = false → t.get (Hdr.adr 4) Hdr.momEvent = 9)) ∧
  (∀ (lane : Fin 2) (f : LaneFrame) (fs : List LaneFrame) (tm : Nat) (s : State), s.lane lane = f :: fs → f.template = some tm →
    exec (.replySegment lane) s = .next (if (s.rope (stnF s.inForce (s.tmplStation tm) CxeStn.rope)).held then s.popLane lane
      else (s.takeTemplate f tm).popLane lane)) ∧
  (∀ (f : LaneFrame) (tm n r : Nat) (s : State), n = s.tmplStation tm → r = stnF s.inForce n CxeStn.rope → stnOn s.inForce n = true →
    (f.at_ < (s.rope r).boundary + ropeLaunch s.inForce f.port r ∨ (s.rope r).gatherCycle ≠ s.get (CxeRope.adr r) CxeRope.cycle ∨ stnF s.inForce n CxeStn.port ≠ f.port ∨
      (s.stn n).gather.donePri = true) → s.takeTemplate f tm = s.rejectRope f.port r (some n)) ∧
  (∀ (f : LaneFrame) (s : State), stnOn s.inForce (descAt f.version f.count f.payload f.next).stn = false →
    s.takeSegment f = s.rejectRope f.port f.rope (some (descAt f.version f.count f.payload f.next).stn)) ∧
  (∀ (r : Fin 16) (s : State), (s.rope r).built = false → exec (.inputDeadline r) s = .next s) ∧
  (∀ (r : Fin 16) (s : State), s.ropeMode r ≠ rmOFF → (s.rope r).held = false → (s.rope r).built = true → r < s.cxe.ropes.length →
    (s.rope r).gatherCycle = s.get (CxeRope.adr r) CxeRope.cycle → (s.rope r).boundary + ropeDeadline s.inForce r ≤ s.lineNs + 40 →
    s.launchWaits r ((s.rope r).boundary + ropeDeadline s.inForce r) = false →
    ∃ t, exec (.inputDeadline r) s = .next t ∧
      (∀ a, (∀ f ∈ s.cxe.lane0 ++ s.cxe.lane1, f.rope = r → a ≠ TmInput.adr f.port + 4) → t.rd a = s.rd a ∧ t.inForce a = s.inForce a) ∧
      (t.rope r).latchedCycle = some (s.get (CxeRope.adr r) CxeRope.cycle) ∧
      (t.rope r).gatherCycle = (s.get (CxeRope.adr r) CxeRope.cycle + 1) % 2 ^ 32 ∧
      (∀ n < s.stationCount, (t.stn n).latched = (if stnF s.inForce n CxeStn.rope = r then (s.stn n).gather else (s.stn n).latched) ∧
        (t.stn n).gather = if stnF s.inForce n CxeStn.rope = r then Gather.none else (s.stn n).gather) ∧ (∀ f ∈ t.cxe.lane0 ++ t.cxe.lane1, f.rope ≠ r)) ∧
  (∀ (r : Fin 16) (c : Nat) (s : State), (s.rope r).latchedCycle = some c → s.ropeMode r ≠ rmOFF → (s.rope r).held = false →
    ∃ t, exec (.publish r) s = .next t ∧ t.get (CxeRope.adr r) CxeRope.published = c % 2 ^ 32 ∧ (t.rope r).latchedCycle = none ∧
      t.ropeMode r = s.ropeMode r) ∧
  (∀ (r : Fin 16) (s : State), s.launchWaits r ((s.rope r).boundary + ropeDeadline s.inForce r) = true → exec (.inputDeadline r) s = .next s) ∧
  (∀ (r t p i : Nat) (f : CFrame) (s : State), (p, r, i) ∈ s.time.armed → i ≤ t → s.driveOn p = true → s.waitingAt p r = some f → s.launchWaits r t = true) ∧
  (∀ (r n : Nat) (s : State), n < s.stationCount →
    ((s.flipIn r).stn n).inSel = if stnF s.inForce n CxeStn.rope = r then !(s.stn n).inSel else (s.stn n).inSel) ∧
  (∀ (c n : Nat) (s : State), (s.disabledStation c n).get (CxeStn.adr n) CxeStn.rx = 3 ∧ (s.disabledStation c n).get (CxeStn.adr n) CxeStn.outS = 0 ∧
    (s.disabledStation c n).get (CxeStn.adr n) CxeStn.cycleLow = c % 256 ∧
    (s.disabledStation c n).get (CxeStn.adr n) CxeStn.rejected = b2n (s.stn n).latched.rejected) ∧
  (∀ (r c n : Nat) (s : State), (s.publishStation r c n).get (CxeStn.adr n) CxeStn.rx = rxOf (s.stn n).latched ∧
    (s.publishStation r c n).get (CxeStn.adr n) CxeStn.streak =
      (if rxOf (s.stn n).latched = 0 then 0 else min (s.get (CxeStn.adr n) CxeStn.streak + 1) 255)) ∧
  (∀ (r c n : Nat) (s : State), s.getB (CxeStn.adr n) CxeStn.lost = false → s.act (CxeStn.adr n) CxeStn.lostK ≠ 0 →
    rxOf (s.stn n).latched ≠ 0 → s.act (CxeStn.adr n) CxeStn.lostK ≤ s.get (CxeStn.adr n) CxeStn.streak + 1 →
    (s.publishStation r c n).getB (CxeStn.adr n) CxeStn.lost = true ∧ (4, 7, r + 65536 * (n % 4096)) ∈ (s.publishStation r c n).noted) ∧
  (∀ (o : Origin) (n : Fin 4096) (s : State), (∀ k, o ≠ .slice k) → s.Open o 4 (cxeOff (CxeStn.adr n) + 0xC) false false →
    s.getB (CxeStn.adr n) CxeStn.lost = true → s.actB (CxeStn.adr n) CxeStn.autoRecover = false →
    exec (.recover o n) s = .next ((s.awake o 4).modStn n fun x => { x with armed := true }))

/-- Placements, cam table checks and axis releases (R186, R191, R195, R199, R200, R208, R212). -/
def Obligations.PlacementsCamChecksAndReleases : Prop :=
  (∀ (o : Origin) (k : Fin 16) (s : State), s.Open o 5 (0x1158 + 0x80 * k) true false →
    exec (.push o k) s = .next ((s.awake o 5).modMpi fun m => { m with pushDue := m.pushDue ++ [k.val] })) ∧
  (∀ (k : Fin 16) (s : State), k.val ∈ s.mpi.pushDue → s.mpiTakes = true → s.masterSrc k = srHOST → s.masterOn k = true →
    exec (.hostSlotPlacement k) s = .next ((s.modMpi fun m => { m with pushDue := dropFirst k.val m.pushDue }).putSample k (s.hostSample k) (s.shadowNs .cxe))) ∧
  (∀ (k : Fin 16) (s : State), k.val ∈ s.mpi.pushDue → s.mpiTakes = true → (s.masterSrc k ≠ srHOST ∨ s.masterOn k = false) →
    ∃ t, exec (.hostSlotPlacement k) s = .next t ∧ t.get (Hdr.adr 5) Hdr.momEvent = 13 ∧ t.get (Hdr.adr 5) Hdr.momDetail = k.val ∧
      ∀ (b : Nat) (f : Fld), f.Quiet b → t.get b f = s.get b f) ∧
  (∀ (k : Nat) (x : Sample) (ns : Nat) (s : State), x.seq < 65536 →
    (s.putSample k x ns).getB (MpiSlot.adr k) MpiSlot.valid = true ∧ (s.putSample k x ns).getB (MpiSlot.adr k) MpiSlot.stale = false ∧
    (s.putSample k x ns).get (MpiSlot.adr k) MpiSlot.seq = x.seq ∧
    (s.putSample k x ns).get (MpiSlot.adr k) MpiSlot.position = x.position % 2 ^ 64 ∧
    (s.putSample k x ns).get (MpiSlot.adr k) MpiSlot.wraps = s.get (MpiSlot.adr k) MpiSlot.wraps ∧
    (s.putSample k x ns).get (MpiSlot.adr k) MpiSlot.stopping = s.get (MpiSlot.adr k) MpiSlot.stopping) ∧
  (∀ (k : Fin 16) (at_ p : Nat) (v : Int) (t seq : Nat) (s : State), (s.master k).waiting = some (at_, p, v, t, seq) → at_ ≤ s.lineNs + 40 →
    s.ropeMode (s.act (MpiMaster.adr k) MpiMaster.rope) = rmOFF →
    exec (.generatorPlacement k) s = .next (s.modMaster k fun m => { m with waiting := none })) ∧
  (∀ (k : Fin 16) (at_ p : Nat) (v : Int) (t seq : Nat) (s : State), (s.master k).waiting = some (at_, p, v, t, seq) → at_ ≤ s.lineNs + 40 →
    s.ropeMode (s.act (MpiMaster.adr k) MpiMaster.rope) ≠ rmOFF →
    exec (.generatorPlacement k) s = .next ((s.modMaster k fun m => { m with waiting := none }).placeSample srGENERATOR k
      ⟨p, ofSigned 64 v, t, seq⟩)) ∧
  (∀ (o : Origin) (k : Fin 256) (base : BitVec 19) (s : State), s.Open o 5 (camOff k) true false → s.camValid k = false →
    exec (.camCheck o k base) s = .next ((s.awake o 5).camStart k base.toNat)) ∧
  (∀ (o : Origin) (k : Fin 256) (base : BitVec 19) (s : State), s.Open o 5 (camOff k) (s.camBase k != base.toNat) false → s.camValid k = true →
    exec (.camCheck o k base) s = .next ((s.awake o 5).raise 5 2 (camOff k))) ∧
  (∀ (k : Fin 256) (s : State), k.val ∈ s.mpi.checking → s.camFails k = none →
    ∃ t, exec (.camChecked k) s = .next t ∧ t.camValid k = true ∧ k.val ∉ t.mpi.checking ∧ (∀ a, (a, k.val) ∉ t.mpi.camErr) ∧
      t.get (Hdr.adr 5) Hdr.momEvent = 11 ∧ t.get (Hdr.adr 5) Hdr.momDetail = k.val) ∧
  (∀ (k : Fin 256) (i : Nat) (s : State), k.val ∈ s.mpi.checking → s.camFails k = some i → i < 2 ^ 19 →
    ∃ t, exec (.camChecked k) s = .next t ∧ t.camValid k = s.camValid k ∧ k.val ∉ t.mpi.checking ∧
      t.get (Hdr.adr 5) Hdr.momEvent = 11 ∧ t.get (Hdr.adr 5) Hdr.momDetail = k.val + 256 * i + 2 ^ 27) ∧
  (∀ (k n b : Nat) (s : State), b = s.camBase k → n = s.camCount k →
    (s.camFails k = none ↔ 0 < n ∧ s.camX b = 0 ∧ b + n ≤ poolPoints ∧
      (∀ i, i + 1 < n → s.camX (b + i) < s.camX (b + i + 1)) ∧ s.camX (b + n - 1) < s.camPeriod k ∧
      ∀ j < 256, j ≠ k → s.camValid j = true → rangesMeet b n (s.camBase j) (s.camCount j) = false)) ∧
  (∀ (o : Origin) (k : Fin 256) (base : BitVec 19) (s : State), s.Open o 5 (camOff k) true false →
    (s.camValid k = false ∨ (s.camUsed k = false ∧ s.camBase k = base.toNat)) →
    exec (.camWithdraw o k base) s = .next ((((s.awake o 5).set (MpiCam.adr k) MpiCam.valid 0).set (MpiCam.adr k) MpiCam.base base.toNat).modMpi
      fun m => { m with checking := m.checking.filter (· != k.val) })) ∧
  (∀ (o : Origin) (k : Fin 256) (base : BitVec 19) (s : State), s.Open o 5 (camOff k) true false → s.camValid k = true → s.camUsed k = true →
    exec (.camWithdraw o k base) s = .next ((s.awake o 5).raise 5 2 (camOff k))) ∧
  (∀ (o : Origin) (a : Fin 4096) (s : State), (∀ k, o ≠ .slice k) → s.Open o 5 0x1004 true false → s.releaseOk a = true →
    exec (.axisRelease o a) s = .next ((s.awake o 5).modMpi fun m =>
      { m with releasing := if m.releasing.contains a.val then m.releasing else m.releasing ++ [a.val] })) ∧
  (∀ (o : Origin) (a : Fin 4096) (s : State), (∀ k, o ≠ .slice k) → s.Open o 5 0x1004 true false → s.releaseOk a = false →
    exec (.axisRelease o a) s = .next ((s.awake o 5).raise 5 2 0x1004))

/-- A master's value, a generator's step and an axis without a cam, and the stop masters (R188, R189, R192, R197, R203, R205, R206, R207, R212). -/
def Obligations.MastersGeneratorsAndAxes : Prop :=
  (∀ (b : Nat) (bad rs live entered : List Nat) (s u : State), s.lineNs ≤ b → b ≤ s.lineNs + 40 → s.cxeRuns = true → rs = s.ropesAt b →
    u = (rs.foldl (fun (s : State) r => s.ropeAt b r) s).announce →
    live = rs.filter (fun r => (s.ropeMode r != rmOFF || u.ropeMode r != rmOFF) && !(u.rope r).held) →
    entered = rs.filter (fun r => u.ropeMode r == rmSTOP && s.ropeMode r != rmSTOP) →
    exec (.ropeBoundary b bad) s = .next (if live.isEmpty then u else u.mpiPass b live entered bad)) ∧
  (∀ (b r k : Nat) (s : State), sfind (s.stopMaster b r true k).mpi.stops (r * 16 + k) =
    some ⟨(s.realVal b k).m, (s.realVal b k).v, 0, (s.realVal b k).wraps⟩) ∧
  (∀ (b r k : Nat) (x : Ramp) (s : State), s.ropeMode r = rmSTOP → sfind s.mpi.stops (r * 16 + k) = some x →
    s.useVal b r k = ⟨x.p, x.wraps, x.v⟩) ∧
  (∀ (k stamp : Nat) (s : State), (s.masterValue k stamp).1 < s.masterMod k ∧ 0 < s.masterMod k) ∧
  (∀ (k stamp : Nat) (s : State), s.get (MpiSlot.adr k) MpiSlot.time = stamp → stamp < 2 ^ 32 →
    (s.masterValue k stamp).1 = s.get (MpiSlot.adr k) MpiSlot.position % s.masterMod k) ∧
  (∀ (r : Ramp) (vt : Int) (acc jerk per md : Nat), 0 < md → (r.step vt acc jerk per md).p < md) ∧
  (∀ (r : Ramp) (vt : Int) (acc jerk per md : Nat), (r.step vt acc jerk per md).a.natAbs ≤ acc) ∧
  (∀ (r : Ramp) (acc jerk per md : Nat), 0 < jerk → 0 < md → r.a = 0 →
    (r.step r.v acc jerk per md).v = r.v ∧ (r.step r.v acc jerk per md).a = 0 ∧
    ((r.step r.v acc jerk per md).p : Int) = rndDiv (10 ^ 9 * (r.p : Int) + r.v * per) (10 ^ 9) % md) ∧
  (∀ (a : Nat) (x : MVal) (s : State), axF s.inForce a MpiAxis.camEn = 0 → axF s.inForce a MpiAxis.den ≠ 0 →
    (s.setpoint a x).1 = ofSigned (8 * axBytes s.inForce a) (rndDiv (toSigned 64 (ofSigned 64 (toSigned 64 (axF s.inForce a MpiAxis.offset) +
      rndDiv ((x.wraps * s.masterMod (axF s.inForce a MpiAxis.master) + x.m - toSigned 64 (axF s.inForce a MpiAxis.m0)) *
        toSigned 32 (axF s.inForce a MpiAxis.num)) (axF s.inForce a MpiAxis.den))) * toSigned 32 (axF s.inForce a MpiAxis.outMul))
        (2 ^ axF s.inForce a MpiAxis.outShift))) ∧
  (∀ (a : Fin 4096) (mode : Nat) (x real : MVal) (rest resync : Bool) (bad : List Nat) (s : State), s.axisState a = axHELD →
    (s.axisCompute a mode x real rest resync bad).axisState a = axHELD ∧
    (s.axisCompute a mode x real rest resync bad).get (MpiAxisState.adr a) MpiAxisState.lastOut = s.get (MpiAxisState.adr a) MpiAxisState.lastOut) ∧
  (∀ (a : Fin 4096) (x real : MVal) (rest : Bool) (s : State), s.axisState a ≠ axHELD →
    (s.axisCompute a rmRUN x real rest false []).axisState a = axPROFILE ∧
    (s.axisCompute a rmRUN x real rest false []).get (MpiAxisState.adr a) MpiAxisState.lastOut = (s.setpoint a x).1 % 2 ^ 64) ∧
  (∀ (a : Fin 4096) (mode : Nat) (x real : MVal) (rest : Bool) (s : State), s.axisState a ≠ axHELD →
    (s.axisState a ≠ axOFF → axF s.inForce a MpiAxis.feLimit < s.axisGap a (s.setpoint a real).1 (s.get (MpiAxisState.adr a) MpiAxisState.lastOut) →
      (s.axisCompute a mode x real rest true []).axisState a = axHELD ∧
      (s.axisCompute a mode x real rest true []).get (MpiAxisState.adr a) MpiAxisState.cause = hcRESYNC) ∧
    (s.axisCompute a rmHOLD x real rest false []).axisState a = axROPE_HOLD ∧
    (s.axisCompute a rmSTOP x real true false []).axisState a = axSTOPPED ∧ (s.axisCompute a rmSTOP x real false false []).axisState a = axSTOPPING) ∧
  (∀ (r : Nat) (s : State), (s.ropeMode r = rmOFF → s.groupStop r = s) ∧
    (s.ropeMode r ≠ rmOFF → s.groupStop r = (s.modRope r fun x => { x with groupStop := true }).mpiEvent 6 r none)) ∧
  (∀ s : State, (s.mpi.inHold = true → s.mpiResume = s.modMpi fun m => { m with inHold := false, resync := (List.range 16).filter fun r => s.ropeMode r != rmOFF }) ∧
    (s.mpi.inHold = false → s.mpiResume = s)) ∧
  (∀ (b : Nat) (ropes entered bad : List Nat) (s : State), s.ustate 5 = stHELD →
    s.mpiPass b ropes entered bad = s.modMpi fun m => { m with inHold := true })

/-- Frames enter a pipeline, end their FCS check, are taken at head in and pass on (R220, R222, R230, R239, R244, R246, R248, R250, R299, R586). -/
def Obligations.FramesPassThroughAPipeline : Prop :=
  (∀ (role : Fin 4) (input : Fin 8) (frame : List Byte) (s : State), s.inputOn role input = true → s.roleOn role = true →
    s.waiting role input < waitLimit → cellsOf frame.length ≤ s.poolFree →
    s.get (TmInput.adr (inPortOf role input)) TmInput.used + cellsOf frame.length ≤ s.act (TmInput.adr (inPortOf role input)) TmInput.share →
    exec (.windowReady role input frame) s =
      .next ((s.useCells (inPortOf role input) (cellsOf frame.length)).enterFrame role input frame none none false)) ∧
  (∀ (r i : Nat) (f : List Byte) (s : State), ∃ x, (s.enterFrame r i f none none false).pp.frames = s.pp.frames ++ [x] ∧ x.id = s.pp.nextId ∧
    x.role = r ∧ x.input = i ∧ x.bytes = f ∧ x.fcs = none ∧ x.result = none ∧ (s.enterFrame r i f none none false).pp.nextId = s.pp.nextId + 1 ∧
    (s.enterFrame r i f none none false).regs = s.regs) ∧
  (∀ (role : Fin 4) (input : Fin 8) (frame : List Byte) (s : State), s.inputOn role input = true → s.roleOn role = true →
    s.poolFree < cellsOf frame.length →
    exec (.windowReady role input frame) s = .next { s.bump (PpPort.adr role input) PpPort.holdDrop with pp := { s.pp with
      nextId := s.pp.nextId + 1, tails := s.pp.tails ++ [(s.pp.nextId, role.val, input.val, frame)] } }) ∧
  (∀ (role : Fin 4) (input : Fin 8) (fecBad : Bool) (id : Nat) (f : List Byte) (rest : List (Nat × Nat × Nat × List Byte)) (s : State),
    takeTail role input s.pp.tails = some ((id, f), rest) → (fecBad = false ∨ inPortOf role input < 16) →
    exec (.frameLastByte role input true fecBad) s = .next
      (((({ s with pp := { s.pp with tails := rest } } : State).msecRx (inPortOf role input) f).1).fcsEnds id
        (({ s with pp := { s.pp with tails := rest } } : State).msecRx (inPortOf role input) f).2)) ∧
  (∀ (role : Fin 4) (input : Fin 8) (fecBad : Bool) (id : Nat) (f : List Byte) (rest : List (Nat × Nat × Nat × List Byte)) (s : State),
    takeTail role input s.pp.tails = some ((id, f), rest) → (fecBad = false ∨ inPortOf role input < 16) →
    exec (.frameLastByte role input false fecBad) s = .next
      ((({ s with pp := { s.pp with tails := rest } } : State).countCrc (inPortOf role input)).fcsEnds id false)) ∧
  (∀ (id : Nat) (ok : Bool) (s : State), (∀ f ∈ (s.fcsEnds id ok).pp.frames, f.id = id → f.fcs = some ok) ∧
    (∀ f ∈ (s.fcsEnds id ok).tm.arriving, f.id = id → f.fcs = some ok) ∧
    (∀ f ∈ (s.fcsEnds id ok).pp.toShx, f.id = id → f.fcs = some ok) ∧ (s.fcsEnds id ok).regs = s.regs) ∧
  (∀ (role : Fin 4) (input : Fin 8) (bad vbad : List (Nat × Nat)) (al rl : Bool) (f : PFrame) (s : State), s.ready (6 + role) = true →
    role.val ∉ s.pp.paused → s.headFrame role input = some f →
    ∃ res, exec (.headIn role input bad vbad al rl) s = .next
      (let s1 := ((s.headLatch role input).headIn f bad vbad al rl).1
       { s1 with pp := { s1.pp with frames := s1.pp.frames.filter (fun g => g.id != f.id) ++
          (s1.pp.frames.filter fun g => g.id == f.id).map fun g => { g with result := some res } } })) ∧
  (∀ (f : PFrame) (bad vbad : List (Nat × Nat)) (al rl : Bool) (fate : Fate) (p : Parsed) (s u : State),
    p = s.parseFrame f.role f.input f.bytes → u = s.parseEvent f.role f.input p.ending → u.steer f.role f.input p = some fate →
    (s.headIn f bad vbad al rl).1 = (u.lookups f.role f.input f.bytes p bad vbad al rl true).1 ∧
    (s.headIn f bad vbad al rl).2.1 = fate) ∧
  (∀ (role : Fin 4) (input : Fin 8) (bad vbad : List (Nat × Nat)) (al rl : Bool) (s : State), s.ready (6 + role) = false →
    exec (.headIn role input bad vbad al rl) s = .next s) ∧
  (∀ (role : Fin 4) (f : PFrame) (t : Option Nat) (md : Meta) (y : Bool) (s : State),
    s.pp.frames.find? (fun f => f.role == role.val && f.result.isSome) = some f → f.result = some (.cxe t, md, y) →
    exec (.classificationResult role) s = .next { s with pp := { s.pp with
      frames := s.pp.frames.filter (·.id != f.id), toCxe := s.pp.toCxe ++ [(f, t)] } }) ∧
  (∀ (role : Fin 4) (f : PFrame) (md : Meta) (y : Bool) (s : State),
    s.pp.frames.find? (fun f => f.role == role.val && f.result.isSome) = some f → f.result = some (.shx, md, y) →
    exec (.classificationResult role) s = .next { s with pp := { s.pp with
      frames := s.pp.frames.filter (·.id != f.id), toShx := s.pp.toShx ++ [f] } }) ∧
  (∀ (role : Fin 4) (f : PFrame) (l : List (Nat × Nat × Nat × Edit)) (md : Meta) (y : Bool) (s : State),
    s.pp.frames.find? (fun f => f.role == role.val && f.result.isSome) = some f → f.result = some (.copies l, md, y) →
    exec (.classificationResult role) s = .next (({ s with pp := { s.pp with frames := s.pp.frames.filter (·.id != f.id) } } : State).sendCopies f l md y)) ∧
  (∀ (f : PFrame) (l : List (Nat × Nat × Nat × Edit)) (md : Meta) (y : Bool) (s : State),
    ∃ xs, (s.sendCopies f l md y).tm.arriving = s.tm.arriving ++ xs ∧
      xs.map (fun x => (x.port, x.queue, x.md.reason, x.edit)) = l ∧ ∀ x ∈ xs, x.id = f.id ∧ x.bytes = f.bytes ∧ x.fcs = f.fcs ∧ x.yellow = y) ∧
  (∀ (role : Fin 4) (i : Fin 1024) (t : Nat) (s : State), sfind s.pp.lastPass (role.val * 1024 + i.val) = some t → s.roleOn role = true →
    s.actB (PpSeqrec.adr role i) PpSeqrec.enable = true → s.getB (PpSeqrec.adr role i) PpSeqrec.fresh = false →
    t + s.act (PpSeqrec.adr role i) PpSeqrec.reset * 1000000 ≤ s.lineNs →
    ∃ u, exec (.seqReset role i) s = .next u ∧ u.getB (PpSeqrec.adr role i) PpSeqrec.fresh = true ∧
      u.get (PpSeqrec.adr role i) PpSeqrec.recovSeq = s.get (PpSeqrec.adr role i) PpSeqrec.recovSeq ∧
      u.pp.lastPass = sdel s.pp.lastPass (role.val * 1024 + i.val)) ∧
  (∀ (o : Origin) (role : Fin 4) (j : Fin 2048) (v : BitVec 16) (s : State), (∀ k, o ≠ .slice k) → s.Open o (6 + role) (0x60000 + 2 * j) false false →
    s.indirOk (s.act (PpIndirPage.adr role) PpIndirPage.slice) v.toNat = true →
    exec (.indirectionWrite o role j v) s = .next ((s.awake o (6 + role)).putIndir (s.act (PpIndirPage.adr role) PpIndirPage.slice) j v.toNat)) ∧
  (∀ (o : Origin) (role : Fin 4) (j : Fin 2048) (v : BitVec 16) (s : State), (∀ k, o ≠ .slice k) → s.Open o (6 + role) (0x60000 + 2 * j) false false →
    s.indirOk (s.act (PpIndirPage.adr role) PpIndirPage.slice) v.toNat = false →
    exec (.indirectionWrite o role j v) s = .next ((s.awake o (6 + role)).raise (6 + role) 2 (0x60000 + 2 * j)))

/-- How a frame is resolved, recovered, policed and hashed (R237, R238, R240, R243, R245, R269, R270, R271, R283, R288, R318). -/
def Obligations.FramesAreResolvedRecoveredPolicedAndHashed : Prop :=
  (∀ (h : Head) (k : Looked) (hash : Nat) (s : State), h.parsed.ending = .exception → s.act (PpCtrl.adr h.role) PpCtrl.excAction = 1 →
    s.resolve h k hash = (s, .copies [], false, true)) ∧
  (∀ (h : Head) (k : Looked) (w hash : Nat) (s : State), h.parsed.ending = .normal → k.acl = some w → awVerb w = 1 →
    s.resolve h k hash = (s, .copies [], false, false)) ∧
  (∀ (h : Head) (k : Looked) (w hash : Nat) (s : State), h.parsed.ending = .normal → k.acl = some w → awVerb w = 2 → k.overrun = false →
    s.resolve h k hash = (s, .copies [toRx (awTarget w) 5 h.edit], false, false)) ∧
  (∀ (h : Head) (k : Looked) (w v hash : Nat) (s : State), h.parsed.ending = .normal → k.acl = none → k.flow = some w → awVerb w = 1 →
    s.resolve h k hash = (s, .copies [], false, false)) ∧
  (∀ (h : Head) (k : Looked) (hash : Nat) (s : State), h.parsed.ending = .normal → k.governs = none → h.parsed.ptp.isSome = true →
    s.trapOn h 0 = true → k.overrun = false → s.resolve h k hash = (s, .copies [toRx (s.trapQueue h 0) 1 h.edit], false, false)) ∧
  (∀ (h : Head) (k : Looked) (hash : Nat) (s : State), h.parsed.ending = .normal → k.overrun = true →
    s.resolve h k hash = (s, .copies [], false, false)) ∧
  (∀ (h : Head) (hit : Option (List Byte)) (s : State), bit (s.act (EmtBd.adr h.bd) EmtBd.members) h.inPort = false → s.bridgeBy h hit = (s, [])) ∧
  (∀ (h : Head) (s : State), bit (s.act (EmtBd.adr h.bd) EmtBd.members) h.inPort = true → bit (beAt h.frame 0 1) 0 = false →
    s.actB (EmtBd.adr h.bd) EmtBd.floodUc = false → s.bridgeBy h none = (s, [])) ∧
  (∀ (h : Head) (m : Nat) (s : State), h.inPort < 24 → ∀ c ∈ s.maskCopies h m, c.1 ≠ h.inPort ∧ (bit m c.1 = true)) ∧
  (∀ (h : Head) (n : Nat) (s : State), s.actB (TcmNexthop.adr n) TcmNexthop.valid = false →
    s.nextHop h n = (s.bump (TcmRoleStat.adr h.role) TcmRoleStat.routeMiss, [])) ∧
  (∀ (r i e : Nat) (p : Parsed) (a q : Nat) (s : State), p.rtag = some (a, q) → bit (s.act (PpSeqrec.adr r e) PpSeqrec.members) i = true →
    s.getB (PpSeqrec.adr r e) PpSeqrec.fresh = true →
    (s.recoverSeq r i e p).2.1 = true ∧ (s.recoverSeq r i e p).1.get (PpSeqrec.adr r e) PpSeqrec.recovSeq = q % 2 ^ 16 ∧
    (s.recoverSeq r i e p).1.getB (PpSeqrec.adr r e) PpSeqrec.fresh = false) ∧
  (∀ (r i e : Nat) (p : Parsed) (a q : Nat) (s : State), p.rtag = some (a, q) → bit (s.act (PpSeqrec.adr r e) PpSeqrec.members) i = true →
    s.getB (PpSeqrec.adr r e) PpSeqrec.fresh = false → q = s.get (PpSeqrec.adr r e) PpSeqrec.recovSeq →
    0 < s.act (PpSeqrec.adr r e) PpSeqrec.hist → bit (sget 0 s.pp.hist (r * 1024 + e)) 0 = true →
    s.recoverSeq r i e p = (s.bump (PpSeqrec.adr r e) PpSeqrec.duplicate, false, false)) ∧
  (∀ (r i e : Nat) (p : Parsed) (s : State), p.rtag = none → s.recoverSeq r i e p = (s.bump (PpSeqrec.adr r e) PpSeqrec.rogue, false, false)) ∧
  (∀ (r n len : Nat) (s : State), n ≠ 0 → s.actB (TmPolicer.adr r n) TmPolicer.enable = true →
    (sget ⟨0, 0, 0⟩ (s.police r n len).1.pp.buckets (r * 1024 + n)).tc ≤ byteTokens (s.act (TmPolicer.adr r n) TmPolicer.cbs) ∧
    (sget ⟨0, 0, 0⟩ (s.police r n len).1.pp.buckets (r * 1024 + n)).tp ≤ byteTokens (s.act (TmPolicer.adr r n) TmPolicer.pbs)) ∧
  (∀ (r n len : Nat) (s : State), n ≠ 0 → s.actB (TmPolicer.adr r n) TmPolicer.enable = true →
    s.act (TmPolicer.adr r n) TmPolicer.pbs < len → (s.police r n len).2 = (s.actB (TmPolicer.adr r n) TmPolicer.redAct, true)) ∧
  (∀ (r : Nat) (f : List Byte) (p : Parsed) (k : Looked) (w : Nat) (s : State), k.word = some w → awVerb w = 6 →
    s.frameHash r f p k = s.hashOf r (awHashSet w) (awTarget w % 256) f p) ∧
  (∀ (r : Nat) (f : List Byte) (p : Parsed) (k : Looked) (s : State), ∃ slice < 256,
    s.frameHash r f p k = s.hashOf r (match k.word with | some w => awHashSet w | none => 0) slice f p) ∧
  (∀ (h : Head) (k : Looked) (hash : Nat) (s : State), h.parsed.ending = .normal → k.governs = none → k.overrun = false →
    h.parsed.ptp.isSome = false → h.parsed.lldp = false → (h.parsed.arp && s.trapOn h 2) = false →
    s.resolve h k hash = ((s.forward h k).1, .copies (s.forward h k).2, !(s.forward h k).2.isEmpty, false)) ∧
  (∀ (K i : Nat) (xs ys : List Bool), xs.length = ys.length →
    toeplitz K (List.zipWith xor xs ys) i 0 = toeplitz K xs i 0 ^^^ toeplitz K ys i 0)

/-- Table commands, learning and aging (R256, R261, R264, R265, R266, R267, R272, R273, R289, R292). -/
def Obligations.TableCommandsLearningAndAging : Prop :=
  (∀ (o : Origin) (t : Fin 16) (bad : List Nat) (s u : State), s.Open o 11 0x1000 (s.get EmtCmd.adr EmtCmd.table != t.val) false → s.getB EmtCmd.adr EmtCmd.busy = false → s.ready 11 = true →
    u = (((s.awake o 11).set EmtCmd.adr EmtCmd.table t).set EmtCmd.adr EmtCmd.busy 1).set EmtCmd.adr EmtCmd.status emBUSY →
    exec (.emtCmdInsert o t bad) s = .next { (u.emtInsert none t u.emtData bad).1 with
      emt := { (u.emtInsert none t u.emtData bad).1.emt with cmd := some (u.emtInsert none t u.emtData bad).2 } } ∧
    exec (.emtCmdDelete o t bad) s = .next { (u.emtDelete none t u.emtData bad).1 with
      emt := { (u.emtDelete none t u.emtData bad).1.emt with cmd := some (u.emtDelete none t u.emtData bad).2 } } ∧
    exec (.emtCmdModify o t bad) s = .next { (u.emtModify none t u.emtData bad).1 with
      emt := { (u.emtModify none t u.emtData bad).1.emt with cmd := some (u.emtModify none t u.emtData bad).2 } } ∧
    exec (.emtCmdLookup o t bad) s = .next { (u.emtLookup t u.emtData bad).1 with
      emt := { (u.emtLookup t u.emtData bad).1.emt with cmd := some (u.emtLookup t u.emtData bad).2 } }) ∧
  (∀ (o : Origin) (t : Fin 16) (bad : List Nat) (s : State), s.Open o 11 0x1000 (s.get EmtCmd.adr EmtCmd.table != t.val) false → s.getB EmtCmd.adr EmtCmd.busy = false → s.ready 11 = false →
    ∃ u, exec (.emtCmdInsert o t bad) s = .next u ∧ u.getB EmtCmd.adr EmtCmd.busy = true ∧
      u.emt.waiting = some (1, t.val, (s.awake o 11).emtData, bad) ∧ u.emt.tabs = s.emt.tabs) ∧
  (∀ (o : Origin) (t : Fin 16) (bad : List Nat) (s : State), s.Open o 11 0x1000 (s.get EmtCmd.adr EmtCmd.table != t.val) false → s.getB EmtCmd.adr EmtCmd.busy = true →
    exec (.emtCmdInsert o t bad) s = .next (s.awake o 11)) ∧
  (∀ (st : Nat) (h : Bool) (d : Option (List Byte)) (s : State), s.emt.cmd = some (st, h, d) → st < 16 →
    ∃ u, exec .emtCommandEnd s = .next u ∧ u.getB EmtCmd.adr EmtCmd.busy = false ∧ u.get EmtCmd.adr EmtCmd.status = st ∧
      u.getB EmtCmd.adr EmtCmd.hit = h ∧ u.emt.cmd = none ∧ u.emt.tabs = s.emt.tabs) ∧
  (∀ (op t : Nat) (e : List Byte) (bad : List Nat) (s : State), s.emt.cmd = none → s.emt.waiting = some (op, t, e, bad) → s.ready 11 = true →
    exec .emtCommandEnd s = .next ((s.emtRun op t e bad).1.emtEnd (s.emtRun op t e bad).2.1 (s.emtRun op t e bad).2.2.1 (s.emtRun op t e bad).2.2.2)) ∧
  (∀ (t : Fin 16) (i : Nat) (e : List Byte) (bad : List Nat) (s : State), t < s.emt.tabs.length → s.tKind t = tkBRIDGE → e.length = 16 →
    s.slotOf t (e.take 8) = none → (s.tab t).freeWay (s.candidates t (e.take 8)).1 = some i →
    (s.place t e false bad).2 = emOK ∧ (s.place t e false bad).1.slotOf t (e.take 8) = some (i, e) ∧
    (∀ j, j ≠ i → ((s.place t e false bad).1.tab t).at_ j = (s.tab t).at_ j)) ∧
  (∀ (t : Nat) (e : List Byte) (bad : List Nat) (s : State), s.act (EmtTable.adr t) EmtTable.access = 1 →
    s.emtInsert none t e bad = (s, emWRONG_MODE, false, none) ∧ s.emtDelete none t e bad = (s, emWRONG_MODE, false, none) ∧
    s.emtModify none t e bad = (s, emWRONG_MODE, false, none)) ∧
  (∀ (t : Fin 16) (bad : List Nat) (r : LearnReq) (rest : List LearnReq) (s : State),
    takeFirst (fun r => !r.move && r.ready) (s.tab t).learn = some (r, rest) → s.learnRuns t = true → s.act (EmtTable.adr t) EmtTable.access = 0 →
    ((s.modTab t fun m => { m with learn := rest }).find t r.key bad).2 = none →
    exec (.learnRequest t bad) s = .next ((((s.modTab t fun m => { m with learn := rest }).find t r.key bad).1.place t
      ((s.modTab t fun m => { m with learn := rest }).learnedEntry t r.key r.port) true bad).1)) ∧
  (∀ (t : Fin 16) (bad : List Nat) (s : State), s.learnRuns t = false →
    exec (.learnRequest t bad) s = .next s ∧ exec (.moveRequest t bad) s = .next s) ∧
  (∀ (t : Fin 16) (bad : List Nat) (r : LearnReq) (rest : List LearnReq) (s : State),
    takeFirst (fun r => !r.move && r.ready) (s.tab t).learn = some (r, rest) → s.learnRuns t = true →
    s.act (EmtTable.adr t) EmtTable.access = 1 →
    exec (.learnRequest t bad) s = .next (s.modTab t fun m => { m with learn := rest })) ∧
  (∀ (t : Nat) (key : List Byte) (port : Nat) (s : State), key.length = 8 → port < 2 ^ 32 →
    (s.learnedEntry t key port).length = 16 ∧ learned (s.learnedEntry t key port) = true ∧ (s.learnedEntry t key port).take 8 = key ∧
    leAt (s.learnedEntry t key port) 8 4 = port) ∧
  (∀ (t : Fin 16) (bad : List Nat) (r : LearnReq) (rest : List LearnReq) (i : Nat) (e : List Byte) (s : State),
    takeFirst (fun r => !r.move && r.ready) (s.tab t).learn = some (r, rest) → s.learnRuns t = true → s.act (EmtTable.adr t) EmtTable.access = 0 →
    ((s.modTab t fun m => { m with learn := rest }).find t r.key bad).2 = some (i, e) →
    exec (.learnRequest t bad) s = .next (((s.modTab t fun m => { m with learn := rest }).find t r.key bad).1.refresh t i e r.port)) ∧
  (∀ (t : Fin 16) (bad : List Nat) (r : LearnReq) (rest : List LearnReq) (i : Nat) (e : List Byte) (s : State),
    takeFirst (fun r => r.move && r.ready) (s.tab t).learn = some (r, rest) → s.learnRuns t = true → s.act (EmtTable.adr t) EmtTable.access = 0 →
    (∀ b ∈ bad, b ≠ ((s.candidates t r.key).1) ∧ b ≠ (s.candidates t r.key).2 ∧ b ≠ stashBase / 4) → s.parityMode t = false →
    (s.modTab t fun m => { m with learn := rest }).slotOf t r.key = some (i, e) → learned e = true → leAt e 8 4 ≠ r.port →
    exec (.moveRequest t bad) s = .next ((s.modTab t fun m => { m with learn := rest }).putSlot t i
      (s.withDest t e r.port) ((s.tab t).hits.contains i))) ∧
  (∀ (t : Nat) (key : List Byte) (bad : List Nat) (i : Nat) (e : List Byte) (s : State),
    (∀ b ∈ bad, b ≠ (s.candidates t key).1 ∧ b ≠ (s.candidates t key).2 ∧ b ≠ stashBase / 4) → s.slotOf t key = some (i, e) →
    s.parityMode t = true → oddParity e = true →
    s.find t key bad = (s.emtEvent 7 (s.tabDetail t + 256 * i), none)) ∧
  (∀ (t : Nat) (bs : List Nat) (b w : Nat) (s : State), t < s.emt.tabs.length → b ∈ bs → w < 4 → 4 * b + w < stashBase →
    ((s.loseBuckets t bs).tab t).at_ (4 * b + w) = none) ∧
  (∀ (t : Fin 16) (bad : List Nat) (s : State), s.tOn t = true → s.actB (EmtTable.adr t) EmtTable.ageEn = true → s.ready 11 = true → t < s.emt.tabs.length →
    ∃ u, exec (.ageVisit t bad) s = .next u ∧
      (u.tab t).scan = (if (s.tab t).scan % s.tBuckets t + 1 = s.tBuckets t then 0 else (s.tab t).scan % s.tBuckets t + 1)) ∧
  (∀ (t i : Nat) (e : List Byte) (s : State), t < s.emt.tabs.length → (s.tab t).at_ i = some e → learned e = true → (s.tab t).hits.contains i = false →
    ((s.ageSlot t i).tab t).at_ i = none) ∧
  (∀ (t i : Nat) (e : List Byte) (s : State), t < s.emt.tabs.length → (s.tab t).at_ i = some e → (learned e = false ∨ (s.tab t).hits.contains i = true) →
    ((s.ageSlot t i).tab t).at_ i = some e ∧ ((s.ageSlot t i).tab t).hits.contains i = false)

/-- DMA table images and the shadow compare (R275, R276, R278, R289). -/
def Obligations.DmaImagesAndShadowCompares : Prop :=
  (∀ (o : Origin) (t : Fin 16) (v : BitVec 16) (s : State), (∀ k, o ≠ .slice k) → s.Open o 11 (0x160C + 0x20 * t) false false →
    s.awaits 0 (.emtDma t) = false →
    exec (.emtDmaDoorbell o t v) s = .next ((((s.awake o 11).set (EmtDma.adr t) EmtDma.tail v.toNat).set (EmtDma.adr t) EmtDma.wait 0).dmaFetch t)) ∧
  (∀ (o : Origin) (t : Fin 16) (v : BitVec 16) (s : State), (∀ k, o ≠ .slice k) → s.Open o 11 (0x160C + 0x20 * t) false false →
    s.awaits 0 (.emtDma t) = true →
    exec (.emtDmaDoorbell o t v) s = .next (((s.awake o 11).set (EmtDma.adr t) EmtDma.tail v.toNat).set (EmtDma.adr t) EmtDma.wait 0)) ∧
  (∀ (t : Nat) (s : State), s.get (EmtDma.adr t) EmtDma.head = s.get (EmtDma.adr t) EmtDma.tail → s.dmaFetch t = s) ∧
  (∀ (t : Fin 16) (image : List Byte) (s : State), s.reading 0 (.emtDma t) = true → s.ready 11 = true → bit (leAt image 4 4) 0 = false →
    exec (.emtDmaImage t image) s = .next ((s.readEnds 0 (.emtDma t)).set (EmtDma.adr t) EmtDma.wait 1)) ∧
  (∀ (t : Fin 16) (image : List Byte) (s u : State), s.reading 0 (.emtDma t) = true → s.ready 11 = true → bit (leAt image 4 4) 0 = true →
    u = s.readEnds 0 (.emtDma t) → leAt image 0 4 < u.tBuckets t →
    exec (.emtDmaImage t image) s = .next ((((u.putBucket t (leAt image 0 4) (image.drop 16)).dmaWrite 0 none (u.dmaImageAddr t + 4) [0, 0, 0, 0]).dmaAdvance t).dmaFetch t)) ∧
  (∀ (t : Fin 16) (image : List Byte) (s u : State), s.reading 0 (.emtDma t) = true → s.ready 11 = true → bit (leAt image 4 4) 0 = true →
    u = s.readEnds 0 (.emtDma t) → u.tBuckets t ≤ leAt image 0 4 →
    exec (.emtDmaImage t image) s = .next ((((u.raise 11 2 (0x1600 + 0x20 * t)).dmaWrite 0 none (u.dmaImageAddr t + 4) [0, 0, 0, 0]).dmaAdvance t).dmaFetch t)) ∧
  (∀ (t b w : Nat) (d : List Byte) (s : State), t < s.emt.tabs.length → w < 4 →
    ((s.putBucket t b d).tab t).at_ (4 * b + w) =
      (if bit (flagsOf (slice d (w * entryBytes (s.tKind t)) (entryBytes (s.tKind t)))) 7 then
        some (slice d (w * entryBytes (s.tKind t)) (entryBytes (s.tKind t))) else none)) ∧
  (∀ (t b i : Nat) (d : List Byte) (s : State), (i < 4 * b ∨ 4 * b + 4 ≤ i) →
    ((s.putBucket t b d).tab t).at_ i = (s.tab t).at_ i) ∧
  (∀ (t : Fin 16) (item : List Byte) (bad : List Nat) (i j : Nat) (e : List Byte) (s u : State), s.shadowOn t = true →
    s.act (EmtTable.adr t) EmtTable.access = 0 → i = (s.tab t).shadowPos → i < s.shadowItems t → s.reading 0 (.shadow t i) = true →
    u = (s.readEnds 0 (.shadow t i)).modTab t (fun m => { m with shadowPos := (i + 1) % s.shadowItems t }) →
    e = slice item 0 (entryBytes (s.tKind t)) → bit (flagsOf e) 7 = true → (u.find t (e.take (keyBytes (s.tKind t))) bad).2 = some (j, e) →
    exec (.shadowCompare t item bad) s = .next (u.find t (e.take (keyBytes (s.tKind t))) bad).1) ∧
  (∀ (t : Fin 16) (item : List Byte) (bad : List Nat) (s : State), s.shadowOn t = true →
    s.awaits 0 (.shadow t (s.tab t).shadowPos) = false →
    exec (.shadowCompare t item bad) s = .next (s.shadowAsk t)) ∧
  (∀ (t : Fin 16) (item : List Byte) (bad : List Nat) (s : State), s.reading 0 (.shadow t (s.tab t).shadowPos) = false →
    s.awaits 0 (.shadow t (s.tab t).shadowPos) = true → exec (.shadowCompare t item bad) s = .next s) ∧
  (∀ (t i j : Nat) (item e x : List Byte) (bad : List Nat) (s u : State), e = slice item 0 (entryBytes (s.tKind t)) → bit (flagsOf e) 7 = true →
    s.find t (e.take (keyBytes (s.tKind t))) bad = (u, some (j, x)) → x ≠ e →
    s.compareEntry t i item bad = (u.putSlot t j e ((u.tab t).hits.contains j)).shadowRepair t i) ∧
  (∀ (t i : Nat) (item e : List Byte) (bad : List Nat) (s u : State), e = slice item 0 (entryBytes (s.tKind t)) → bit (flagsOf e) 7 = true →
    s.find t (e.take (keyBytes (s.tKind t))) bad = (u, none) →
    s.compareEntry t i item bad = (if (u.engine t e false bad).2 = emOK then (u.engine t e false bad).1.shadowRepair t i
      else (u.engine t e false bad).1)) ∧
  (∀ (t : Nat) (key : List Byte) (bad : List Nat) (s : State), s.parityMode t = false →
    (∀ b ∈ bad, b ≠ (s.candidates t key).1 ∧ b ≠ (s.candidates t key).2 ∧ b ≠ stashBase / 4) → s.find t key bad = (s, s.slotOf t key)) ∧
  (∀ (t : Fin 16) (item : List Byte) (bad : List Nat) (s : State), s.ready 11 = false →
    s.reading 0 (.shadow t (s.tab t).shadowPos) = false → exec (.shadowCompare t item bad) s = .next s)

/-- TCAM commands, update slots and searches (R280, R282, R283, R285, R286, R287, R289). -/
def Obligations.TcamCommandsUpdatesAndSearches : Prop :=
  (∀ (o : Origin) (p : Fin 8) (i : Nat) (s u : State), s.Open o 12 0x1000 (s.get TcmCmd.adr TcmCmd.part != p.val) false → s.getB TcmCmd.adr TcmCmd.busy = false → s.ready 12 = true →
    u = (s.awake o 12).set TcmCmd.adr TcmCmd.part p → s.act TcmCmdIndex.adr TcmCmdIndex.index = i → s.partOn p = true → i < s.partCapacity p →
    exec (.tcmCmdWrite o p) s = .next ((u.tcamPut p i (u.tcmEntry p)).tcmBusy) ∧
    exec (.tcmCmdInvalidate o p) s = .next ((u.tcamPut p i { s.verified p i with valid := false }).tcmBusy) ∧
    ∃ t, exec (.tcmCmdRead o p) s = .next t ∧ t.tcm = s.tcm ∧ t.getB TcmCmd.adr TcmCmd.busy = false ∧ t.get TcmCmd.adr TcmCmd.status = tcOK ∧
      t.getB TcmCmd.adr TcmCmd.valid = (s.verified p i).valid) ∧
  (∀ (o : Origin) (p : Fin 8) (s : State), s.Open o 12 0x1000 (s.get TcmCmd.adr TcmCmd.part != p.val) false → s.getB TcmCmd.adr TcmCmd.busy = false → s.ready 12 = true →
    (s.partOn p = false ∨ s.partCapacity p ≤ s.act TcmCmdIndex.adr TcmCmdIndex.index) →
    ∃ t, exec (.tcmCmdWrite o p) s = .next t ∧ t.tcm = s.tcm ∧ t.get TcmCmd.adr TcmCmd.status = tcBAD_INDEX ∧ t.getB TcmCmd.adr TcmCmd.busy = false) ∧
  (∀ (o : Origin) (p : Fin 8) (s : State), s.Open o 12 0x1000 (s.get TcmCmd.adr TcmCmd.part != p.val) false → s.getB TcmCmd.adr TcmCmd.busy = false → s.ready 12 = false →
    ∃ t, exec (.tcmCmdWrite o p) s = .next t ∧ t.tcm = { s.tcm with waiting := some (1, p.val) } ∧ t.getB TcmCmd.adr TcmCmd.busy = true) ∧
  (∀ (o : Origin) (p : Fin 8) (s : State), s.Open o 12 0x1000 (s.get TcmCmd.adr TcmCmd.part != p.val) false → s.getB TcmCmd.adr TcmCmd.busy = true →
    exec (.tcmCmdWrite o p) s = .next (s.awake o 12)) ∧
  (∀ (p i : Nat) (e : TEntry) (s : State), e.value < 2 ^ tcamWidth (s.act (TcmPart.adr p) TcmPart.width) →
    e.mask < 2 ^ tcamWidth (s.act (TcmPart.adr p) TcmPart.width) →
    (s.tcamPut p i e).verified p i = e ∧ (∀ j, j ≠ i → (s.tcamPut p i e).verified p j = s.verified p j) ∧
    (s.tcamPut p i e).tcm.arrays = s.tcm.arrays ∧
    (s.tcamPut p i e).tcm.updates = s.tcm.updates ++ (List.range (s.partCopies p)).map fun c => ⟨p, c, i, false⟩) ∧
  (∀ (p : Fin 8) (c : Fin 4) (dif bad : List Nat) (x : TUpd) (rest : List TUpd) (s : State), s.partOn p = true → c.val < s.partCopies p → s.ready 12 = true →
    takeFirst (fun u => u.part == p.val && u.copy == c.val) s.tcm.updates = some (x, rest) →
    (s.verified p x.index).value < 2 ^ tcamWidth (s.act (TcmPart.adr p) TcmPart.width) →
    (s.verified p x.index).mask < 2 ^ tcamWidth (s.act (TcmPart.adr p) TcmPart.width) →
    ∃ t, exec (.tcamUpdateSlot p c dif bad) s = .next t ∧ t.tcm.updates = rest ∧ t.tcm.verify = s.tcm.verify ∧
      t.arrayed p c x.index = s.verified p x.index ∧ (∀ j, j ≠ x.index → t.arrayed p c j = s.arrayed p c j) ∧
      (s.getB TcmCmd.adr TcmCmd.busy = true → x.repair = false → (∀ y ∈ rest, y.repair = true) → t.getB TcmCmd.adr TcmCmd.busy = false)) ∧
  (∀ (p : Fin 8) (c : Fin 4) (dif bad : List Nat) (s : State), s.partOn p = true → c.val < s.partCopies p → s.ready 12 = true →
    takeFirst (fun u => u.part == p.val && u.copy == c.val) s.tcm.updates = none →
    exec (.tcamUpdateSlot p c dif bad) s = .next (if s.copyTakesSlots p c then s else s.tcamScrub p c dif bad)) ∧
  (∀ (p r key : Nat) (s : State), s.matching p (s.roleCopy p r) key = [] → s.search p r key false [] = (s, none)) ∧
  (∀ (p r key i : Nat) (is : List Nat) (s : State), s.matching p (s.roleCopy p r) key = i :: is → (s.verified p i).hits key = true →
    s.search p r key false [] = (s, some (i, s.verified p i))) ∧
  (∀ (p r key : Nat) (vbad : List (Nat × Nat)) (s : State), (s.search p r key true vbad).2 = none)

/-- Frames are enqueued or dropped by the checks in their order, and decisions select an eligible queue (R294, R300, R301, R302, R304, R305, R307, R308, R321). -/
def Obligations.FramesAreEnqueuedAndSelected : Prop :=
  (∀ (f : TmFrame) (rest : List TmFrame) (s : State), s.tmOn = true → takeKnown s.tm.arriving = some (f, rest) →
    exec .tmEnqueue s = .next ((({ s with tm := { s.tm with arriving := rest } } : State).startClocks [ckTM]).enqueue f)) ∧
  (∀ (f : TmFrame) (s : State), f.fcs ≠ some true → s.enqueue f = (s.freeInput f).bump (TmPort.adr f.port) TmPort.fcsDrop) ∧
  (∀ (f : TmFrame) (s : State), f.fcs = some true → (s.actB (TmQueue.adr f.queue) TmQueue.enable = false ∨ s.tmPort f.queue ≠ f.port) →
    s.enqueue f = (s.freeInput f).bump (TmPort.adr f.port) TmPort.disabledDrop) ∧
  (∀ (f : TmFrame) (s : State), f.fcs = some true → s.actB (TmQueue.adr f.queue) TmQueue.enable = true → s.tmPort f.queue = f.port →
    s.act (TmQueue.adr f.queue) TmQueue.max < s.tmDepth f.queue + cellsOf f.bytes.length →
    s.enqueue f = (s.freeInput f).bump (TmPort.adr f.port) TmPort.queueDrop) ∧
  (∀ (f : TmFrame) (s : State), f.fcs = some true → s.actB (TmQueue.adr f.queue) TmQueue.enable = true → s.tmPort f.queue = f.port →
    s.tmDepth f.queue + cellsOf f.bytes.length ≤ s.act (TmQueue.adr f.queue) TmQueue.max → f.yellow = true →
    s.act (TmQueue.adr f.queue) TmQueue.yellowLimit < s.tmDepth f.queue + cellsOf f.bytes.length →
    s.enqueue f = (s.freeInput f).bump (TmPort.adr f.port) TmPort.yellowDrop) ∧
  (∀ (f : TmFrame) (s : State), f.fcs = some true → s.actB (TmQueue.adr f.queue) TmQueue.enable = true → s.tmPort f.queue = f.port →
    s.tmDepth f.queue + cellsOf f.bytes.length ≤ s.act (TmQueue.adr f.queue) TmQueue.max → f.yellow = false →
    (f.input ≠ none ∨ cellsOf f.bytes.length ≤ s.poolFree) →
    ∃ g, (s.enqueue f).tmq f.queue = s.tmq f.queue ++ [g] ∧ g.bytes = f.bytes ∧ g.queue = f.queue ∧ g.port = f.port ∧ g.since = s.lineNs ∧
      (∀ q, q ≠ f.queue → (s.enqueue f).tmq q = s.tmq q)) ∧
  (∀ (p : Fin 25) (s u : State), s.ready 13 = true → s.portSends p = true →
    u = (if p.val = 24 then (((s.decisionLatch p).tidy p).backlog p).foldl (fun (s : State) x => s.dropLong p x.1 (s.tmq x.2).length x.2) ((s.decisionLatch p).tidy p) |>.hostPurge
      else (((s.decisionLatch p).tidy p).backlog p).foldl (fun (s : State) x => s.dropLong p x.1 (s.tmq x.2).length x.2) ((s.decisionLatch p).tidy p)).tidy p →
    (u.select p (fun q => p.val != 24 || u.rxTakes (q - 12288)) = none → exec (.tmDecision p) s = .next u) ∧
    (∀ c y q ring f rest, u.select p (fun q => p.val != 24 || u.rxTakes (q - 12288)) = some (c, y, q, ring) → u.tmq q = f :: rest →
      exec (.tmDecision p) s = .next (if p.val = 24 then (u.take p c y q ring).rxDeliver (q - 12288) f else (u.take p c y q ring).leave p f))) ∧
  (∀ (p : Nat) (ok : Nat → Bool) (c : Nat) (y : ClassSlice) (q : Nat) (ring : List (Nat × Int)) (s : State), s.select p ok = some (c, y, q, ring) →
    c < 8 ∧ s.shOk (s.classShaper p c) = true ∧ s.queueOk p c q = true ∧ ok q = true ∧ y ∈ (s.cls p c).slices ∧ s.tmq q ≠ []) ∧
  (∀ (p : Nat) (ok : Nat → Bool) (c d : Nat) (y : ClassSlice) (q : Nat) (ring : List (Nat × Int)) (s : State), s.select p ok = some (c, y, q, ring) →
    c < d → d < 8 → s.shOk (s.classShaper p d) = true →
    ∀ z, bestSlice ((s.cls p d).slices.filter fun y => y.ring.any fun z => s.queueOk p d z.1 && ok z.1) = some z →
      s.drrNext (fun q => s.queueOk p d q && ok q) z = none) ∧
  (∀ (p c : Nat) (y : ClassSlice) (q : Nat) (ring : List (Nat × Int)) (f : TmFrame) (rest : List TmFrame) (s : State), s.tmq q = f :: rest →
    (s.take p c y q ring).tmq q = rest ∧ ∀ j, j ≠ q → (s.take p c y q ring).tmq j = s.tmq j) ∧
  (∀ (p : Fin 25) (s : State), s.ready 13 = false → exec (.tmDecision p) s = .next s)

/-- Gate list switches, preemption verification and queue sampling (R311, R312, R317, R320, R321). -/
def Obligations.GatesPreemptionAndSampling : Prop :=
  (∀ (o : Origin) (p : Fin 16) (s : State), s.Open o 13 (0x3600 + 4 * p) true false → s.gclArmed p = false → s.gclOk p = true →
    exec (.gclSwitchArm o p) s = .next { (s.awake o 13).set (TmGclCmd.adr p) TmGclCmd.armed 1 with
      tm := { s.tm with switchAt := sins s.tm.switchAt p (s.gclInstant p) } }) ∧
  (∀ (p : Nat) (s : State), s.gclOk p = true → s.lineNs + 1000 ≤ s.gclInstant p ∧
    ∃ k, s.gclInstant p = s.get (TmGclCtrl.adr p) TmGclCtrl.base + k * (s.get (TmGclCtrl.adr p) TmGclCtrl.cycle * 8)) ∧
  (∀ (p : Nat) (s : State) (k : Nat), s.gclOk p = true →
    s.lineNs + 1000 ≤ s.get (TmGclCtrl.adr p) TmGclCtrl.base + k * (s.get (TmGclCtrl.adr p) TmGclCtrl.cycle * 8) →
    s.gclInstant p ≤ s.get (TmGclCtrl.adr p) TmGclCtrl.base + k * (s.get (TmGclCtrl.adr p) TmGclCtrl.cycle * 8)) ∧
  (∀ (o : Origin) (p : Fin 16) (s : State), s.Open o 13 (0x3600 + 4 * p) true false → s.gclArmed p = false → s.gclOk p = false →
    exec (.gclSwitchArm o p) s = .next ((s.awake o 13).raise 13 2 (0x3600 + 4 * p))) ∧
  (∀ (o : Origin) (p : Fin 16) (s : State), s.Open o 13 (0x3600 + 4 * p) true false → s.gclArmed p = true →
    exec (.gclSwitchArm o p) s = .next (s.awake o 13)) ∧
  (∀ (p : Fin 16) (t : Nat) (s : State), sfind s.tm.switchAt p = some t → s.tmOn = true → t ≤ s.lineNs + 40 →
    ∃ u, exec (.gclSwitch p) s = .next u ∧ u.gclArmed p = false ∧ u.get (TmGclCmd.adr p) TmGclCmd.entry = 0 ∧ u.tm.switchAt = sdel s.tm.switchAt p ∧
      u.tm.queues = s.tm.queues ∧
      ∀ e < 1024, u.rd (TmGclActive.adr p e) = s.rd (TmGcl.adr p e) ∧ u.rd (TmGcl.adr p e) = s.rd (TmGclActive.adr p e)) ∧
  (∀ (p : Fin 16) (s : State), sfind s.tm.switchAt p = none → exec (.gclSwitch p) s = .next s) ∧
  (∀ (p : Fin 16) (s : State), s.actB (TmGclCtrl.adr p) TmGclCtrl.enable = true →
    exec (.gclEntryAdvance p) s = .next (s.set (TmGclCmd.adr p) TmGclCmd.entry (s.gclEntry p))) ∧
  (∀ (p : Fin 16) (s : State), s.actB (TmGclCtrl.adr p) TmGclCtrl.enable = false → exec (.gclEntryAdvance p) s = .next s) ∧
  (∀ (p : Fin 16) (s : State), s.get (TmPort.adr p) TmPort.preemptState = preVERIFYING →
    exec (.preemptVerifyEnd p true) s = .next (s.set (TmPort.adr p) TmPort.preemptState preACTIVE) ∧
    exec (.preemptVerifyEnd p false) s = .next ((s.set (TmPort.adr p) TmPort.preemptState preFAILED).tmEvent 7 p)) ∧
  (∀ (s : State), s.tmOn = true → s.getB TmSampleCtrl.adr TmSampleCtrl.sweeping = false →
    (s.latchB fun x _ => x == .sweep).actB TmSampleCtrl.adr TmSampleCtrl.enable = true →
    ∃ u, exec .sampleSweepStart s = .next u ∧ u.getB TmSampleCtrl.adr TmSampleCtrl.sweeping = true ∧
      u.get TmSampleStamp.adr TmSampleStamp.value = (stampOf (s.shadowNs .tm)).toNat ∧ u.tm = s.tm ∧
      (∀ q fs, (q, fs) ∈ s.tm.queues → q < 16384 → ((s.tmq q).map fun f => f.bytes.length + 4).sum < 2 ^ 32 →
        u.get (TmQueue.adr q) TmQueue.depth = ((s.tmq q).map fun f => f.bytes.length + 4).sum)) ∧
  (∀ (s : State), s.getB TmSampleCtrl.adr TmSampleCtrl.sweeping = true →
    exec .sampleSweepEnd s = .next ((s.set TmSampleCtrl.adr TmSampleCtrl.sweeping 0).bump TmSampleSeq.adr TmSampleSeq.value))

/-- The link, Bus Master Enable, Function Level Reset and read errors (R334, R337, R338, R339, R340, R341, R354, R356, R171). -/
def Obligations.LinkFunctionsAndReadErrors : Prop :=
  (∀ (s : State), s.hif.linkLost = false →
    exec .linkDown s = .next ((((List.range 4).foldl (fun (s : State) f => (s.cut f qrLINK).retireReads f)
      { (((((s.set HifLink.adr HifLink.up 0).set HifLink.adr HifLink.speed 0).set HifLink.adr HifLink.width 0).set HifLink.adr
        HifLink.flit 0).set HifLink.adr HifLink.l0pWidth 0) with hif := { s.hif with linkLost := true } }).hostLost none).raise 14 6 0)) ∧
  (∀ (f : Nat) (s : State), (∀ x ∈ s.hif.xlate, x.1 ≠ f) → (∀ x ∈ (s.retireReads f).hif.reads, x.fn ≠ f) ∧
    ((∀ x ∈ s.hif.asked, x.1 ≠ f) → (s.retireReads f).outstanding f = 0) ∧
    (∀ x ∈ s.hif.reads, x.fn ≠ f → x ∈ (s.retireReads f).hif.reads)) ∧
  (∀ (r : Nat) (s : State), r < 16 → r < s.cxe.ropes.length → s.ropeMode r ≠ rmOFF → ((s.hostLost none).rope r).hostLost = true) ∧
  (∀ (speed : BitVec 4) (width : BitVec 3) (flit : Bool) (l0p : BitVec 3) (s : State), s.hif.linkLost = true → s.dark 14 = false → s.asleep = false →
    ∃ t, exec (.linkUp speed width flit l0p) s = .next t ∧ t.hif.linkLost = false ∧ t.getB HifLink.adr HifLink.up = true ∧
      t.get HifLink.adr HifLink.speed = speed.toNat ∧ t.get HifLink.adr HifLink.width = width.toNat ∧ t.getB HifLink.adr HifLink.flit = flit ∧
      (∀ f < 4, t.bme f = false ∧ t.getB (HifPfStatus.adr f) HifPfStatus.flrBusy = false)) ∧
  (∀ (s : State), s.hif.linkLost = false → exec .hotReset s = .next ((s.linkDown.setReg HifLink.adr (s.rd HifLink.adr)).linkUp)) ∧
  (∀ (s : State), s.hif.linkLost = false → exec (.linkRetraining none) s = .next ((s.set HifLink.adr HifLink.up 0).linkFields 0 0 0 false)) ∧
  (∀ (v : BitVec 4) (w l : BitVec 3) (f : Bool) (s : State), s.hif.linkLost = false →
    ∃ t, exec (.linkRetraining (some (v, w, l, f))) s = .next t ∧ t.getB HifLink.adr HifLink.up = true ∧ t.get HifLink.adr HifLink.speed = v.toNat ∧
      t.get HifLink.adr HifLink.width = w.toNat ∧ t.get HifLink.adr HifLink.l0pWidth = l.toNat ∧ t.getB HifLink.adr HifLink.flit = f) ∧
  (∀ (f : Fin 4) (s : State), s.bme f = true → s.hif.linkLost = false → s.getB (HifPfStatus.adr f) HifPfStatus.flrBusy = false →
    exec (.bmeCleared f) s = .next ((((s.set (HifPfStatus.adr f) HifPfStatus.bme 0).cut f qrBME).hostLost (some f.val)).raise 14 4 f)) ∧
  (∀ (f : Fin 4) (ats : Bool) (dev : DevWrite) (s s1 u : State), s.hif.linkLost = false → s.getB (HifPfStatus.adr f) HifPfStatus.flrBusy = false →
    s1 = ((s.set (HifPfStatus.adr f) HifPfStatus.bme 1).set (HifPfStatus.adr f) HifPfStatus.d3hot 0).modPf f (fun p => { p with atsEnable := ats, dev := p.dev.take dev }) →
    u = (if ats then s1 else s1.noXlate f).msixFlush f →
    exec (.bmeSet f ats dev) s = .next (if f.val = 3 then u.shxResume else u.nvSweep)) ∧
  (∀ (f : Fin 4) (s u : State), s.hif.linkLost = false → s.getB (HifPfStatus.adr f) HifPfStatus.flrBusy = false → s.hif.reads = [] → s.hif.xlate = [] →
    s.shx.conns = [] →
    u = (((((s.set (HifPfStatus.adr f) HifPfStatus.flrBusy 1).set (HifPfStatus.adr f) HifPfStatus.bme 0).set (HifPfStatus.adr f) HifPfStatus.d3hot 0).cut f qrFLR).noXlate f).modPf f
      (fun _ => s.freshPf) →
    u.queuesOfPf f = [] → u.slicesOf f = [] →
    exec (.flr f) s = .next (if f.val = 2 then (u.hostLost (some 2)).nvControllerReset else u.hostLost (some f.val))) ∧
  (∀ (f : Fin 4) (s : State), s.hif.linkLost = false → s.getB (HifPfStatus.adr f) HifPfStatus.flrBusy = false →
    ∃ t, exec (.flr f) s = .next t ∧ Evolves s t) ∧
  (∀ (f : Fin 4) (s : State), s.getB (HifPfStatus.adr f) HifPfStatus.flrBusy = true → s.hif.linkLost = false →
    exec (.flrDone f) s = .next (((s.retireReads f).set (HifPfStatus.adr f) HifPfStatus.flrBusy 0).raise 14 5 f)) ∧
  (∀ (f : Fin 4) (i : Nat) (r : Reader) (s : State), s.readNo f i = some r → (s.pf f).dev.timeoutOff = true →
    exec (.completionTimeout f i) s = .next s) ∧
  (∀ (f : Fin 4) (i : Nat) (r : Reader) (s : State), s.readNo f i = some r → (s.pf f).dev.timeoutOff = false →
    ∃ t, exec (.completionTimeout f i) s = .next t ∧ t.get (Hdr.adr 14) Hdr.momEvent = 8 ∧
      t = ((s.readFailed f qrTIMEOUT r).hifEvent 8 f (s.readerSlice r)).aerLog f .completionTimeout) ∧
  (∀ (f : Fin 4) (i : Nat) (r : Reader) (s : State), s.readNo f i = some r →
    ∃ t, exec (.poisoned f (some i)) s = .next t ∧ t.get (Hdr.adr 14) Hdr.momEvent = 9 ∧
      t = ((s.readFailed f qrPOISONED r).hifEvent 9 f (s.readerSlice r)).aerLog f .poisoned) ∧
  (∀ (f : Fin 4) (s : State), exec (.poisoned f none) s = .next ((s.raise 14 9 f).aerLog f .poisoned)) ∧
  (∀ (f : Fin 4) (s : State), f < s.hif.pfs.length →
    ∃ t, exec (.ecrcFailure f) s = .next t ∧ (∃ x, (t.pf f).aer = (s.pf f).aer ++ [x] ∧ x.error = .ecrc) ∧ t.regs = s.regs ∧ ∀ g, g ≠ f.val → t.pf g = s.pf g)

/-- MSI-X writes and address translation (R333, R334, R342, R343). -/
def Obligations.MsixAndTranslation : Prop :=
  (∀ (f : Fin 4) (en fm : Bool) (s : State), s.hif.linkLost = false → s.getB (HifPfStatus.adr f) HifPfStatus.flrBusy = false →
    exec (.msixUnmask f (.control en fm)) s = .next ((s.modPf f fun p => { p with msixEnable := en, functionMask := fm }).msixFlush f)) ∧
  (∀ (f : Fin 4) (v : Fin 2048) (addr : Nat) (data : Word) (masked : Bool) (s : State), s.hif.linkLost = false →
    s.getB (HifPfStatus.adr f) HifPfStatus.flrBusy = false → s.halted = true → exec (.msixUnmask f (.entry v addr data masked)) s = .next s) ∧
  (∀ (f : Fin 4) (v : Fin 2048) (addr : Nat) (data : Word) (masked : Bool) (s : State), s.hif.linkLost = false →
    s.getB (HifPfStatus.adr f) HifPfStatus.flrBusy = false → s.halted = false → f < s.hif.pfs.length →
    ∃ t, exec (.msixUnmask f (.entry v addr data masked)) s = .next t ∧ t.bar4Word f (16 * v + 8) = data ∧
      t.bar4Word f (16 * v + 12) = BitVec.ofNat 32 (b2n masked) ∧ ((t.pf f).entry v).data = data ∧ ((t.pf f).entry v).masked = masked ∧
      ((t.pf f).entry v).addr = addr % 2 ^ 64 / 4 * 4 ∧ (∀ w : Nat, w ≠ v → (t.pf f).entry w = (s.pf f).entry w) ∧ t.regs = s.regs) ∧
  (∀ (f v : Nat) (s : State), f < s.hif.pfs.length → (s.pf f).msixEnable = true → (s.pf f).functionMask = false → s.issues f = true → s.postedWaits = false →
    (s.pf f).pba = [v] → ((s.pf f).entry v).masked = false →
    (s.msixFlush f).out = s.out ++ [.msix f v ((s.pf f).entry v).addr ((s.pf f).entry v).data] ∧ ((s.msixFlush f).pf f).pba = []) ∧
  (∀ (f : Nat) (pasid : Option Nat) (addr n g : Nat) (s : State), s.missing f pasid addr n = some g → (f, pasid, g) ∉ s.hif.asked → s.tagsFree 1 = true →
    s.askPage f pasid addr n =
      ({ s with hif := { s.hif with asked := s.hif.asked ++ [(f, pasid, g)] } } : State).emit (.translationRequest f pasid g)) ∧
  (∀ (f : Fin 4) (pa : Option (BitVec 20)) (page g : Nat) (s : State), (f.val, pa.map BitVec.toNat, page) ∈ s.hif.asked →
    exec (.translationAnswer f pa page (some g)) s = .next ({ s with hif := { s.hif with
      asked := s.hif.asked.filter fun x => x != (f.val, pa.map BitVec.toNat, page)
      atc := ((f.val, pa.map BitVec.toNat, page, g) :: s.hif.atc).take atcSize } } : State).sweep.deregEnds) ∧
  (∀ (f : Fin 4) (pa : Option (BitVec 20)) (page : Nat) (s u : State), (f.val, pa.map BitVec.toNat, page) ∈ s.hif.asked →
    u = { s with hif := { s.hif with
      asked := s.hif.asked.filter fun x => x != (f.val, pa.map BitVec.toNat, page)
      xlate := s.hif.xlate.filter fun x => s.lacks x != some (f.val, pa.map BitVec.toNat, page) } } →
    exec (.translationAnswer f pa page none) s = .next
      (((s.hif.xlate.filter fun x => s.lacks x == some (f.val, pa.map BitVec.toNat, page)).foldl State.refused u).sweep.deregEnds)) ∧
  (∀ (f k q : Nat) (pasid : Option Nat) (a n : Nat) (d : List Byte) (ro : Bool) (s : State),
    s.refused (f, .read pasid a n (.queue k q)) = s.qHalt k q qrTRANSLATION ∧
    s.refused (f, .write ro (some (.queue k q)) pasid a d) = s.qHalt k q qrTRANSLATION) ∧
  (∀ (f : Fin 4) (pa : Option (BitVec 20)) (page : Nat) (grant : Option Nat) (s : State), (f.val, pa.map BitVec.toNat, page) ∉ s.hif.asked →
    exec (.translationAnswer f pa page grant) s = .next s) ∧
  (∀ (f : Fin 4) (tag : Nat) (pa : Option (BitVec 20)) (page : Nat) (s : State), s.hif.linkLost = false → f < s.hif.pfs.length →
    ∃ t, exec (.invalidationRequest f tag pa page) s = .next t ∧ t.regs = s.regs ∧ t.out = s.out ∧
      (∀ y ∈ t.hif.atc, ¬ (y.1 = f.val ∧ y.2.1 = pa.map BitVec.toNat ∧ y.2.2.1 = page)) ∧
      (∀ y ∈ s.hif.atc, ¬ (y.1 = f.val ∧ y.2.1 = pa.map BitVec.toNat ∧ y.2.2.1 = page) → y ∈ t.hif.atc) ∧
      (t.pf f).invalidations = (s.pf f).invalidations ++
        [(tag, (s.hif.reads.filter fun x => x.fn == f.val && x.pages.contains (pa.map BitVec.toNat, page)).map (·.id))]) ∧
  (∀ (f : Fin 4) (tag : Nat) (used : List Nat) (rest : List (Nat × List Nat)) (s : State), (s.pf f).invalidations = (tag, used) :: rest →
    s.hif.linkLost = false → (∀ x ∈ s.hif.reads, x.id ∉ used) →
    exec (.invalidationCompletion f) s = .next ((s.modPf f fun p => { p with invalidations := rest }).emit (.invalidationDone f tag))) ∧
  (∀ (f : Fin 4) (tag : Nat) (used : List Nat) (rest : List (Nat × List Nat)) (x : HostRead) (s : State),
    (s.pf f).invalidations = (tag, used) :: rest → x ∈ s.hif.reads → x.id ∈ used → exec (.invalidationCompletion f) s = .next s)

/-- Slices are bound, frozen, saved, restored and released (R344, R347, R348, R349, R350, R351, R353). -/
def Obligations.SlicesAreBoundFrozenSavedAndRestored : Prop :=
  (∀ (o : Origin) (k : Fin 256) (v : Word) (s : State), s.Open o 14 (sliceOff k 0) (s.rwlDiffers (HifSlice.adr k) (v ||| 0x80000000#32)) false → s.sliceState k = slUNBOUND → k.val < s.slices →
    exec (.sliceBind o k v) s = .next ((((((s.awake o 14).set (HifSlice.adr k) HifSlice.enable 1).set (HifSlice.adr k) HifSlice.pf (bits v.toNat 21 20)).set
      (HifSlice.adr k) HifSlice.pasid (bits v.toNat 19 0)).set (HifSlice.adr k) HifSlice.state slBOUND).set (HifSlice.adr k) HifSlice.status slOK).nvSweep) ∧
  (∀ (o : Origin) (k : Fin 256) (v : Word) (s : State), s.Open o 14 (sliceOff k 0) (s.rwlDiffers (HifSlice.adr k) (v ||| 0x80000000#32)) false → s.sliceState k = slUNBOUND → s.slices ≤ k.val →
    exec (.sliceBind o k v) s = .next ((s.awake o 14).raise 14 2 (sliceOff k 0))) ∧
  (∀ (o : Origin) (k : Fin 256) (v : Word) (s : State), s.Open o 14 (sliceOff k 0) (s.rwlDiffers (HifSlice.adr k) (v &&& 0x7FFFFFFF#32)) false → s.sliceState k = slBOUND →
    bits v.toNat 21 20 = s.slicePf k → bits v.toNat 19 0 = s.slicePasid k → (s.awake o 14).sliceBusy k = false →
    exec (.sliceUnbind o k v) s = .next ((((s.awake o 14).set (HifSlice.adr k) HifSlice.enable 0).set (HifSlice.adr k) HifSlice.state slUNBOUND).set
      (HifSlice.adr k) HifSlice.status slOK)) ∧
  (∀ (o : Origin) (k : Fin 256) (s u : State), s.Open o 14 (sliceOff k 4) true false → u = (s.awake o 14).set (HifSlice.adr k) HifSlice.status slOK →
    (s.sliceState k = slBOUND → exec (.freeze o k) s = .next (u.freezeSlice k)) ∧
    (s.sliceState k = slBOUND → (s.awake o 14).sliceBusy k = false → exec (.restore o k) s = .next (u.restoreBegin k)) ∧
    (s.sliceState k = slFROZEN → exec (.thaw o k) s = .next (u.thawSlice k) ∧ exec (.save o k) s = .next (u.saveSlice k) ∧
      exec (.sliceRelease o k) s = .next (((u.sliceRelease k).set (HifSlice.adr k) HifSlice.state slBOUND).nvSweep))) ∧
  (∀ (o : Origin) (k : Fin 256) (s u : State), s.Open o 14 (sliceOff k 4) true false →
    u = ((s.awake o 14).set (HifSlice.adr k) HifSlice.status slBAD_STATE).raise 14 2 (sliceOff k 4) →
    (s.sliceState k ≠ slBOUND → exec (.freeze o k) s = .next u ∧ exec (.restore o k) s = .next u) ∧
    (s.sliceState k ≠ slFROZEN → exec (.thaw o k) s = .next u ∧ exec (.save o k) s = .next u ∧ exec (.sliceRelease o k) s = .next u)) ∧
  (∀ (k r : Nat) (s : State), r < 16 → r < s.cxe.ropes.length → s.ropeSlice r = k → s.ropeMode r ≠ rmOFF → ((s.freezeSlice k).rope r).freeze = true) ∧
  (∀ (k r : Nat) (s : State), s.ropeMode r = rmOFF → (s.freezeSlice k).rope r = s.rope r) ∧
  (∀ (k : Fin 256) (s : State), s.sliceState k = slFREEZING → s.settled k = true → s.nvOut k = [] →
    ∃ t, exec (.sliceFrozen k) s = .next t ∧ t.sliceState k = slFROZEN ∧ t.get (HifSlice.adr k) HifSlice.inDoubt = 0 ∧
      t.get (Hdr.adr 14) Hdr.momEvent = 10 ∧ t.get (Hdr.adr 14) Hdr.momDetail = s.slicePf k + 65536 * k.val) ∧
  (∀ (k : Fin 256) (s : State), s.sliceState k = slFREEZING → (s.settled k = false ∨ s.nvOut k ≠ []) → exec (.sliceFrozen k) s = .next s) ∧
  (∀ (k : Fin 256) (s : State), s.sliceState k = slFREEZING → s.nvOut k ≠ [] →
    ∃ t, exec (.freezeLimitExpiry k) s = .next t ∧ t.sliceState k = slFROZEN ∧ t.get (Hdr.adr 14) Hdr.momEvent = 10 ∧
      sget [] t.hif.inDoubt k = (s.nvOut k).filterMap fun l => l.sq.map fun y => (y, l.cid)) ∧
  (∀ (k : Fin 256) (j st n : Nat) (s : State), s.hif.saves.find? (fun x => x.1 == k.val) = some (j, st, n) →
    ∃ t, exec (.saveDone k) s = .next t ∧ t.sliceState k = slFROZEN ∧ t.get (Hdr.adr 14) Hdr.momEvent = 11 ∧
      t.hif.saves = s.hif.saves.filter fun x => x.1 != k.val) ∧
  (∀ (k : Fin 256) (blob : List Byte) (s : State), s.sliceState k = slRESTORING →
    s.readsOf (.blob k) = (s.hif.reads.filter fun x => x.reader == .blob k).length → s.reading (s.slicePf k) (.blob k) = true →
    k.val ∉ s.hif.restoring → s.headOk k blob = true → 32 < leAt blob 16 8 →
    exec (.restoreDone k blob) s = .next ((s.readsEnd (s.slicePf k) (.blob k)).restoreRest k (leAt blob 16 8))) ∧
  (∀ (k : Fin 256) (blob : List Byte) (s t : State), s.sliceState k = slRESTORING →
    s.readsOf (.blob k) = (s.hif.reads.filter fun x => x.reader == .blob k).length → s.reading (s.slicePf k) (.blob k) = true →
    (k.val ∈ s.hif.restoring ∨ s.headOk k blob = false ∨ leAt blob 16 8 ≤ 32) →
    (s.readsEnd (s.slicePf k) (.blob k)).restore k blob = .ok t →
    exec (.restoreDone k blob) s = .next ((((t.setRestoring k false).set (HifSlice.adr k) HifSlice.state slFROZEN).set
      (HifSlice.adr k) HifSlice.status slOK).raise 14 12 (s.slicePf k + 65536 * k.val))) ∧
  (∀ (k : Fin 256) (st : Nat) (blob : List Byte) (s : State), s.sliceState k = slRESTORING →
    s.readsOf (.blob k) = (s.hif.reads.filter fun x => x.reader == .blob k).length → s.reading (s.slicePf k) (.blob k) = true →
    (k.val ∈ s.hif.restoring ∨ s.headOk k blob = false ∨ leAt blob 16 8 ≤ 32) →
    (s.readsEnd (s.slicePf k) (.blob k)).restore k blob = .error st → st < 256 →
    ∃ t, exec (.restoreDone k blob) s = .next t ∧ t.sliceState k = slBOUND ∧ t.get (HifSlice.adr k) HifSlice.status = st ∧
      t.get (Hdr.adr 14) Hdr.momEvent = 12) ∧
  (∀ (k : Fin 256) (blob : List Byte) (s : State), s.sliceState k = slRESTORING →
    s.readsOf (.blob k) ≠ (s.hif.reads.filter fun x => x.reader == .blob k).length → exec (.restoreDone k blob) s = .next s) ∧
  (∀ (k : Fin 256) (blob : List Byte) (s : State), s.sliceState k = slRESTORING → s.readsOf (.blob k) = 0 → (∀ x ∈ s.hif.reads, x.reader ≠ .blob k) →
    ∃ t, exec (.restoreDone k blob) s = .next t ∧ t.sliceState k = slBOUND ∧ t.get (HifSlice.adr k) HifSlice.status = slBAD_BLOB ∧
      t.get (Hdr.adr 14) Hdr.momEvent = 12) ∧
  (∀ (k : Nat) (s : State), (s.restoreBegin k).sliceState k = slRESTORING)

/-- Power requests run, wait or are refused, and transitions end (R472, R479, R480, R481, R482, R483, R485, R580, R581). -/
def Obligations.PowerRequestsAndTransitions : Prop :=
  (∀ (o : Origin) (s : State), s.Open o 0 0x1100 true false →
    exec (.powerSummit o none) s = .next ((s.awake o 0).powerReq ptSUMMIT 0) ∧
    exec (.powerCamp o none) s = .next ((s.awake o 0).powerReq ptCAMP 0) ∧
    exec (.powerBivouac o none) s = .next ((s.awake o 0).powerReq ptBIVOUAC 0)) ∧
  (∀ (o : Origin) (v tag : Nat) (s : State), (v = 1 ∨ v = 2) → s.mgtUp = true → (s.heard (BitVec.ofNat 4 v, BitVec.ofNat 8 tag)).halted = false →
    (s.heard (BitVec.ofNat 4 v, BitVec.ofNat 8 tag)).asleep = true →
    exec (.powerSummit o (some (BitVec.ofNat 4 v, BitVec.ofNat 8 tag))) s =
      .next (((s.heard (BitVec.ofNat 4 v, BitVec.ofNat 8 tag)).powerReq ptSUMMIT 3).reply (BitVec.ofNat 4 v, BitVec.ofNat 8 tag) ncPOWER nsOK []) ∧
    exec (.powerCamp o (some (BitVec.ofNat 4 v, BitVec.ofNat 8 tag))) s =
      .next (((s.heard (BitVec.ofNat 4 v, BitVec.ofNat 8 tag)).powerReq ptCAMP 3).reply (BitVec.ofNat 4 v, BitVec.ofNat 8 tag) ncPOWER nsOK [])) ∧
  (∀ (t c : Nat) (s : State), s.pwr.run ≠ none →
    s.powerReq t c = { ((s.set PwrStatus.adr PwrStatus.pending t).set PwrCmd.adr PwrCmd.status pcQUEUED) with pwr := { s.pwr with pendCause := c } }) ∧
  (∀ (t c : Nat) (s : State), s.pwr.run = none → (t = ptSUMMIT ∧ s.power = psSUMMIT ∨ t = ptCAMP ∧ s.power = psCAMP ∨ t = ptBIVOUAC ∧ s.power = psBIVOUAC) →
    s.powerReq t c = s.set PwrCmd.adr PwrCmd.status pcOK) ∧
  (∀ (t c : Nat) (s : State), s.pwr.run = none → (t = ptSUMMIT ∧ s.power = psCAMP ∨ t = ptCAMP ∧ s.power = psSUMMIT) →
    s.powerReq t c = (({ s with pwr := { s.pwr with run := some t } } : State).set PwrCmd.adr PwrCmd.busy 1).set PwrCmd.adr PwrCmd.status pcOK) ∧
  (∀ (c : Nat) (s : State), s.pwr.run = none → s.power ≠ psBIVOUAC → s.ropesOff = false →
    s.powerReq ptBIVOUAC c = (s.set PwrCmd.adr PwrCmd.status pcREFUSED_ROPES).raise 0 7 0) ∧
  (∀ (c : Nat) (s : State), s.pwr.run = none → s.power < psENTERING → s.ropesOff = true →
    (s.powerReq ptBIVOUAC c).pwr.run = some 3 ∧ (s.powerReq ptBIVOUAC c).power = psENTERING ∧
    (s.powerReq ptBIVOUAC c).get PwrStatus.adr PwrStatus.wakeTo = s.power + 1 ∧ (s.powerReq ptBIVOUAC c).time.armed = [] ∧
    (s.powerReq ptBIVOUAC c).hif.linkLost = true) ∧
  (∀ (t c : Nat) (s : State), s.pwr.run = none → (t = ptSUMMIT ∨ t = ptCAMP) → s.power = psBIVOUAC → 0 < c → c < 4 →
    (s.powerReq t c).pwr.run = some 4 ∧ (s.powerReq t c).power = psWAKING ∧ (s.powerReq t c).get PwrStatus.adr PwrStatus.wakeTo = t ∧
    (s.powerReq t c).get PwrStatus.adr PwrStatus.wakeCause = c) ∧
  (∀ (t : Nat) (s : State), s.pwr.run = none → (t = ptSUMMIT ∨ t = ptCAMP) → s.power = psBIVOUAC →
    s.powerReq t 0 = (s.set PwrCmd.adr PwrCmd.status pcREFUSED_VALUE).raise 0 7 0) ∧
  (∀ (s : State), s.get PwrStatus.adr PwrStatus.pending = 0 →
    (s.pwr.run = some 1 → exec .powerState s =
      .next (((({ s with pwr := { s.pwr with run := none, stopped := [] } } : State).set PwrStatus.adr PwrStatus.state psSUMMIT).set PwrCmd.adr PwrCmd.busy 0).raise 0 4
        (psSUMMIT + 16 * s.get PwrStatus.adr PwrStatus.woke))) ∧
    (s.pwr.run = some 2 → exec .powerState s =
      .next (((({ s with pwr := { s.pwr with run := none, campAt := s.ticks, workAt := [] } } : State).set PwrStatus.adr PwrStatus.state psCAMP).set PwrCmd.adr PwrCmd.busy 0).raise 0 4
        (psCAMP + 16 * s.get PwrStatus.adr PwrStatus.woke)))) ∧
  (∀ (s : State), s.pwr.run = some 2 → s.get PwrStatus.adr PwrStatus.pending = ptSUMMIT →
    ∃ u, exec .powerState s = .next u ∧ u.pwr.run = some 1 ∧ u.power = psCAMP ∧ u.get PwrStatus.adr PwrStatus.pending = 0 ∧ u.getB PwrCmd.adr PwrCmd.busy = true) ∧
  (∀ (s : State), s.pwr.run = some 3 → s.get PwrStatus.adr PwrStatus.pending = 0 →
    ∃ u, exec .powerState s = .next u ∧ u.power = psBIVOUAC ∧ u.pwr.run = none ∧ u.cxe.frames = [] ∧ u.boot.fuses = s.boot.fuses ∧ u.scale = s.scale) ∧
  (∀ (s : State), s.pwr.run = some 4 → s.wakeDone = true → s.get PwrStatus.adr PwrStatus.pending = 0 →
    (s.get PwrStatus.adr PwrStatus.wakeTo = 1 ∨ s.get PwrStatus.adr PwrStatus.wakeTo = 2) →
    ∃ u, exec .powerState s = .next u ∧ u.power = s.get PwrStatus.adr PwrStatus.wakeTo - 1 ∧ u.getB PwrStatus.adr PwrStatus.woke = true ∧
      u.pwr.run = none ∧ u.pwr.kept = none ∧ u.boot.wake = false) ∧
  (∀ (f : Fin 4) (s : State), s.hif.linkLost = false → s.getB (HifPfStatus.adr f) HifPfStatus.d3hot = false →
    (∃ g : Fin 4, g ≠ f ∧ s.getB (HifPfStatus.adr g) HifPfStatus.d3hot = false) →
    exec (.d3hotEntry f) s = .next (s.set (HifPfStatus.adr f) HifPfStatus.d3hot 1)) ∧
  (∀ (f : Fin 4) (s : State), s.hif.linkLost = false → s.getB (HifPfStatus.adr f) HifPfStatus.d3hot = false →
    (∀ g : Fin 4, g ≠ f → s.getB (HifPfStatus.adr g) HifPfStatus.d3hot = true) → s.actB PwrCtrl.adr PwrCtrl.d3Bivouac = true →
    exec (.d3hotEntry f) s = .next ((s.set (HifPfStatus.adr f) HifPfStatus.d3hot 1).powerReq ptBIVOUAC 0)) ∧
  (∀ (i : Fin 2) (mv : BitVec 12) (n : BitVec 16) (s u : State), s.pwr.off = false → s.boot.perst = true →
    u = s.set PwrStatus.adr PwrStatus.level (withBit (s.get PwrStatus.adr PwrStatus.level) i) →
    s.returned i mv.toNat = false → s.beyond i mv.toNat = true → bit (s.get PwrStatus.adr PwrStatus.level) i = false →
    s.act (PwrWake.adr i) PwrWake.debounce ≤ n.toNat →
    (s.actB (PwrWake.adr i) PwrWake.enable = false → exec (.wakeTrip i mv n) s = .next u) ∧
    (s.actB (PwrWake.adr i) PwrWake.enable = true → s.asleep = false → exec (.wakeTrip i mv n) s = .next (u.raise 0 5 i)) ∧
    (s.actB (PwrWake.adr i) PwrWake.enable = true → s.asleep = true →
      exec (.wakeTrip i mv n) s = .next ((u.raise 0 5 i).powerReq (s.get PwrStatus.adr PwrStatus.wakeTo) (i + 1)))) ∧
  (∀ (i : Fin 2) (mv : BitVec 12) (n : BitVec 16) (s : State), s.pwr.off = false → s.boot.perst = true → s.returned i mv.toNat = true →
    exec (.wakeTrip i mv n) s = .next (s.set PwrStatus.adr PwrStatus.level (dropBit (s.get PwrStatus.adr PwrStatus.level) i))) ∧
  (∀ (i : Fin 2) (mv : BitVec 12) (n : BitVec 16) (s : State), s.pwr.off = false → s.boot.perst = true → s.returned i mv.toNat = false →
    (bit (s.get PwrStatus.adr PwrStatus.level) i = true ∨ s.beyond i mv.toNat = false ∨ n.toNat < s.act (PwrWake.adr i) PwrWake.debounce) →
    exec (.wakeTrip i mv n) s = .next s) ∧
  (∀ (i mv : Nat) (s : State), s.beyond i mv = true → s.returned i mv = false) ∧
  (∀ (s : State), s.pwr.run = some 4 → s.boot.wake = false →
    ∃ u, exec .wakePowerUp s = .next u ∧ u.boot.wake = true ∧ u.pwr = s.pwr ∧ u.get PwrRetLost.adr PwrRetLost.table = 0 ∧
      u.get PwrRetLost.adr PwrRetLost.cxe = 0 ∧ u.getB PwrStatus.adr PwrStatus.woke = false ∧ u.scale = s.scale) ∧
  (∀ (s : State), exec .aonBrownout s = .next { State.reset with
    pending := s.pending, out := s.out, freeCtr := s.freeCtr, jtag := s.jtag, boot := { State.reset.boot with perst := s.boot.perst, fuses := s.boot.fuses },
    pwr := { State.reset.pwr with off := true } }) ∧
  (∀ (s : State), s.pwr.off = true → exec .powerUp s = .next { State.reset with
    pending := s.pending, out := s.out, freeCtr := s.freeCtr, boot := { State.reset.boot with perst := false, fuses := s.boot.fuses } })

/-- Camp stops clocks, pre-starts hold them, and spread comes into force (R19, R124, R474, R475, R476, R477). -/
def Obligations.CampPrestartsAndSpread : Prop :=
  (∀ (c : Fin 55) (s : State), s.power = psCAMP → s.gatable c = true → c.val ∉ s.pwr.stopped →
    exec (.clockStop c) s = .next { s with pwr := { s.pwr with stopped := s.pwr.stopped ++ [c.val] } }) ∧
  (∀ (c : Fin 55) (s : State), s.power ≠ psCAMP → exec (.clockStop c) s = .next s) ∧
  (∀ (r : Fin 16) (t : Nat) (s : State), s.leadOf r 0 = some t → s.ropeDue r = true → s.asleep = false → (r.val, t) ∉ s.time.prestarted →
    exec (.prestart r) s = .next ((s.startClocks (s.ropeClocks r)).modTime fun x => { x with prestarted := x.prestarted ++ [(r.val, t)] }) ∧
    ckCXE ∈ s.ropeClocks r ∧ ckTM ∈ s.ropeClocks r ∧ ∀ p ∈ s.ropePorts s.inForce r, ckDP0 + p ∈ s.ropeClocks r) ∧
  (∀ (r off t : Nat) (s : State), s.leadOf r off = some t → off ≤ t ∧ isBoundary s.inForce r (t - off) = true ∧
    s.lineNs + s.act TuPrestart.adr TuPrestart.lead ≤ t ∧ t ≤ s.lineNs + s.act TuPrestart.adr TuPrestart.lead + 40) ∧
  (∀ (r off t : Nat) (s : State), off ≤ t → isBoundary s.inForce r (t - off) = true → s.lineNs + s.act TuPrestart.adr TuPrestart.lead ≤ t →
    t ≤ s.lineNs + s.act TuPrestart.adr TuPrestart.lead + 40 → (s.leadOf r off).isSome = true) ∧
  (∀ (r : Fin 16) (s : State), (s.leadOf r 0 = none ∨ s.ropeDue r = false ∨ s.asleep = true) → exec (.prestart r) s = .next s) ∧
  (∀ (r : Fin 16) (t : Nat) (s : State), s.leadOf r (ropeDeadline s.inForce r) = some t → s.ropeDue r = true → s.asleep = false →
    (16 + r.val, t - ropeDeadline s.inForce r) ∉ s.time.prestarted →
    exec (.prestartDeadline r) s = .next ((s.startClocks [ckCXE, ckSYS]).modTime fun x =>
      { x with prestarted := x.prestarted ++ [(16 + r.val, t - ropeDeadline s.inForce r)] })) ∧
  (∀ (h : HeldWrite) (s : State), s.shx.held.find? (fun x => decide (x.due ≤ ((s.lineNs + 40 + s.lead : Nat) : Int)) &&
      !s.time.prestarted.contains (s.placeKind x, x.due.toNat)) = some h →
    exec .prestartPlacement s = .next ((s.startClocks [ckSHX, if (s.region h.region).mpi then ckCXE else ckSYS]).modTime fun x =>
      { x with prestarted := x.prestarted ++ [(s.placeKind h, h.due.toNat)] })) ∧
  (∀ (s : State), (∀ h ∈ s.shx.held, ¬ h.due ≤ (s.lineNs + 40 + s.lead : Nat) ∨ (s.placeKind h, h.due.toNat) ∈ s.time.prestarted) →
    exec .prestartPlacement s = .next s) ∧
  (∀ (cs : List Nat) (c : Nat) (s : State), (c ∈ (s.startClocks cs).pwr.stopped ↔ c ∈ s.pwr.stopped ∧ c ∉ cs) ∧
    (s.startClocks cs).regs = s.regs ∧ (s.startClocks cs).time = s.time) ∧
  (∀ (c : Nat) (s : State), s.gatable c = true → s.busyClock c = false ∧ s.idleLong c = true) ∧
  (∀ (s : State), s.power = psCAMP → ∀ c < 55, s.busyClock c = true → c ∉ s.clockTick.pwr.stopped) ∧
  (∀ (k t : Nat) (c : Fin 55) (s : State), (k, t) ∈ s.time.prestarted → c.val ∈ s.heldClocks k → exec (.clockStop c) s = .next s) ∧
  (∀ (k : Nat) (p : Nat → Bool) (x : Nat × Nat) (s : State),
    x ∈ (s.prestartEnds k p).time.prestarted ↔ x ∈ s.time.prestarted ∧ ¬ (x.1 = k ∧ p x.2 = true)) ∧
  (∀ (o : Origin) (v : Word) (s : State), s.Open o 0 0x1110 (s.rwlDiffers PwrSpread.adr v) false → (s.awake o 0).spreadBad v.toNat = false →
    exec (.spreadWrite o v) s = .next (({ s.awake o 0 with pwr := { (s.awake o 0).pwr with spreadDue := 0x3FF } } : State).set
      PwrSpread.adr PwrSpread.depth (bits v.toNat 18 16) |>.set PwrSpread.adr PwrSpread.enable (bits v.toNat 9 0))) ∧
  (∀ (c : Fin 10) (s : State), s.bootStep = 0xFF → bit s.pwr.spreadDue c = true →
    exec (.spreadChange c) s = .next { s with pwr := { s.pwr with
      spread := s.pwr.spread.set c (if bit (s.act PwrSpread.adr PwrSpread.enable) c then s.act PwrSpread.adr PwrSpread.depth else 0)
      spreadDue := dropBit s.pwr.spreadDue c } }) ∧
  (∀ (c : Fin 10) (s : State), (s.bootStep ≠ 0xFF ∨ bit s.pwr.spreadDue c = false) → exec (.spreadChange c) s = .next s)

/-- PWR_SPREAD refuses a DEPTH above 5, and spread on CLK_CXE beside a launch offset of 752 ns (R478). -/
def Obligations.SpreadIsRefused : Prop :=
  (∀ (o : Origin) (v : Word) (s : State), s.Open o 0 0x1110 (s.rwlDiffers PwrSpread.adr v) false → 5 < bits v.toNat 18 16 →
    exec (.spreadWrite o v) s = .next ((s.awake o 0).raise 0 2 0x1110)) ∧
  (∀ (o : Origin) (v : Word) (r : Fin 16) (p : Nat) (s : State), s.Open o 0 0x1110 (s.rwlDiffers PwrSpread.adr v) false → v.getLsbD 2 = true →
    (ropeOn s.inForce r = true ∧ p ∈ s.ropePorts s.inForce r ∧ ropeLaunch s.inForce p r = 752 ∨
     ropeOn s.rd r = true ∧ p ∈ s.ropePorts s.rd r ∧ ropeLaunch s.rd p r = 752) →
    exec (.spreadWrite o v) s = .next ((s.awake o 0).raise 0 2 0x1110)) ∧
  (∀ (o : Origin) (s : State), ((s.awake o 0).raise 0 2 0x1110).get PwrSpread.adr PwrSpread.depth = s.get PwrSpread.adr PwrSpread.depth ∧
    ((s.awake o 0).raise 0 2 0x1110).get PwrSpread.adr PwrSpread.enable = s.get PwrSpread.adr PwrSpread.enable)

/-- A domain step adds whole nanoseconds once, in the tick in which its write takes effect and before that tick's advance,
and never takes the domain below zero (R99). -/
def Obligations.DomainStepsAddOnce : Prop :=
  (∀ (o : Origin) (d : Fin 2) (v : DWord) (s : State), s.Open o 3 (0x1110 + 0x20 * d) false false → s.ready 3 = true →
    ∃ t, exec (.domainStep o d v) s = .next t ∧
      t.time = { s.time with waiting := s.time.waiting ++ [(2, .step d v.toInt)] }) ∧
  (∀ (o : Origin) (d : Fin 2) (v : DWord) (s : State), s.Open o 3 (0x1110 + 0x20 * d) false false → s.ready 3 = false →
    0 ≤ (s.time.dom d : Int) + v.toInt * (2 ^ 32 : Nat) →
    ∃ t, exec (.domainStep o d v) s = .next t ∧ t.time.dom d = ((s.time.dom d : Int) + v.toInt * (2 ^ 32 : Nat)).toNat ∧
      t.time.dom (1 - d) = s.time.dom (1 - d)) ∧
  (∀ (d : Fin 2) (z : Int) (s : State), s.mgtUp = true → s.Unarmed → s.time.waiting = [(1, .step d z)] → 0 ≤ (s.time.dom d : Int) + z * (2 ^ 32 : Nat) →
    ∃ t, exec .clkAonTick s = .next t ∧ t.time.waiting = [] ∧
      t.time.dom d = ((s.time.dom d : Int) + z * (2 ^ 32 : Nat) + 40 * (2 ^ 32 : Nat) + s.adjust d).toNat ∧
      t.time.dom (1 - d) = ((s.time.dom (1 - d) : Int) + 40 * (2 ^ 32 : Nat) + s.adjust (1 - d)).toNat) ∧
  (∀ (d : Fin 2) (z : Int) (s : State), s.mgtUp = true → s.Unarmed → s.time.waiting = [(1, .step d z)] → (s.time.dom d : Int) + z * (2 ^ 32 : Nat) < 0 →
    ∃ t, exec .clkAonTick s = .next t ∧ t.time.waiting = [] ∧
      t.time.dom d = ((s.time.dom d : Int) + 40 * (2 ^ 32 : Nat) + s.adjust d).toNat ∧
      (s.noted = [] → s.routed 3 2 = true → s.staged.length < stagingCapacity →
        ∃ e ∈ t.staged, e.ev = 50 ∧ e.detail = BitVec.ofNat 32 (0x1110 + 0x20 * d))) ∧
  (∀ (d : Nat) (z : Int) (ws : List TuWrite) (s : State), (s.time.dom d : Int) + z * (2 ^ 32 : Nat) < 0 →
    (TuWrite.step d z :: ws).foldl State.tuEarly s = ws.foldl State.tuEarly (s.note 3 2 (0x1110 + 0x20 * d))) ∧
  (∀ (e : Nat) (ws : List TuWrite) (s : State), e < 2 → (ws.foldl State.tuEarly s).time.dom e % 2 ^ 32 = s.time.dom e % 2 ^ 32)

/-- A frame that reaches its comparator late leaves at once, unchanged, with LAUNCH_LATE (R122). -/
def Obligations.LateFramesLeaveAtOnce : Prop :=
  (∀ (p r : Fin 16) (f : CFrame) (i : Nat) (s : State),
    s.cxe.frames.find? (fun f : CFrame => f.port == p.val && f.rope == r.val && f.id == 0 && !f.left && !f.waiting) = some f →
    s.armedAt p r = some i → s.driveOn p = true → s.cycleOk p = true → i < s.lineNs →
    exec (.frameAtComparator p r) s =
      .next ((((s.launch f (s.portStamp p true / 16)).disarm p r).modRope r fun x => { x with launchLate := true }).raise 3 8 (r + 16 * p))) ∧
  (∀ (p r : Fin 16) (f : CFrame) (i : Nat) (s : State),
    s.cxe.frames.find? (fun f : CFrame => f.port == p.val && f.rope == r.val && f.id == 0 && !f.left && !f.waiting) = some f →
    s.armedAt p r = some i → s.driveOn p = true → s.cycleOk p = true → i < s.lineNs →
    ∃ t, exec (.frameAtComparator p r) s = .next t ∧ t.armedAt p r = none ∧
      ∃ g ∈ t.cxe.frames, g.id = 0 ∧ g.port = p.val ∧ g.rope = r.val ∧ g.left = true ∧ g.bytes = f.bytes ∧ g.stamp = stampOf (s.portStamp p true / 16)) ∧
  (∀ (f : CFrame) (ns : Nat) (s : State), (s.portLatch f.port).msecOn f.port = false →
    (s.launch f ns).out = s.out ++ [.frame f.port (padFrame f.bytes)])

/-- A record of a unit without power at the scale is skipped, OPTIONAL or not (R51). -/
def Obligations.RecordsOfUnpoweredUnitsAreSkipped : Prop :=
  ∀ (s : State) (h : RecHdr) (body : List Byte), s.nextRecord = some (h, body) → scaleOff s.scale h.unit = true →
    (h.type = 1 → exec .recordIntent s = .next ((s.pastRecord h).skipRecord h.unit s.boot.recIndex)) ∧
    (h.type = 2 → exec .recordExpert s = .next ((s.pastRecord h).skipRecord h.unit s.boot.recIndex)) ∧
    (h.type = 3 → exec .recordArray s = .next ((s.pastRecord h).skipRecord h.unit s.boot.recIndex)) ∧
    (h.type = 4 → exec .recordReady s = .next ((s.pastRecord h).skipRecord h.unit s.boot.recIndex)) ∧
    (h.type = 0x100 → exec .recordPadSlew s = .next ((s.pastRecord h).skipRecord h.unit s.boot.recIndex)) ∧
    (∀ b : Bool, s.applyRecord { h with optional := b } s.boot.recIndex (fun t => (t, .no)) =
      s.skipRecord h.unit s.boot.recIndex)

/-- Doorbells, and the commands that enable, disable, reset and drain a queue (R92, R357, R359, R360, R361, R364, R365, R366, R367, R381). -/
def Obligations.QueuesAreRungEnabledAndDrained : Prop :=
  (∀ (o : Origin) (v : Word) (s : State), (∀ k, o ≠ .slice k) → s.Open o 15 0x1004 true false → bits v.toNat 30 28 < 4 →
    bits v.toNat 27 16 < qCount (bits v.toNat 30 28) →
    exec (.queueDoorbell o v) s = .next ((s.awake o 15).doorbell (bits v.toNat 30 28) (bits v.toNat 27 16) (v.toNat % 65536) (v.getLsbD 31))) ∧
  (∀ (k : Fin 256) (v : Word) (q : Nat) (s : State), s.bound k = true → s.halted = false → s.doorQueue k (bits v.toNat 30 28) (bits v.toNat 27 16) = some q →
    exec (.queueDoorbell (.slice k) v) s = .next (s.doorbell (bits v.toNat 30 28) q (v.toNat % 65536) (v.getLsbD 31))) ∧
  (∀ (k : Fin 256) (v : Word) (s : State), (s.bound k = false ∨ s.halted = true ∨ s.doorQueue k (bits v.toNat 30 28) (bits v.toNat 27 16) = none) →
    exec (.queueDoorbell (.slice k) v) s = .next s) ∧
  (∀ (k kind i q : Nat) (s : State), s.doorQueue k kind i = some q →
    (kind = qkTX ∧ s.slicePf k = 1 ∧ (s.share .txq k).1 ≤ q ∧ q < (s.share .txq k).1 + (s.share .txq k).2) ∨
    (kind = qkRX ∧ s.slicePf k = 1 ∧ (s.share .rxq k).1 ≤ q ∧ q < (s.share .rxq k).1 + (s.share .rxq k).2) ∨
    (kind = qkEV ∧ (s.share .evq k).1 ≤ q ∧ q < (s.share .evq k).1 + (s.share .evq k).2) ∨ (kind = qkSC ∧ i = 0 ∧ q = k)) ∧
  (∀ (k q t : Nat) (ack : Bool) (s : State), s.qState k q = qsDISABLED → s.doorbell k q t ack = s) ∧
  (∀ (k q t : Nat) (s : State), s.qState k q ≠ qsDISABLED → (s.startClocks [ckSYS, ckIGE]).tailOk k q t = true →
    s.doorbell k q t false = ((s.startClocks [ckSYS, ckIGE]).set (qAdr k q) QeTxq.tail t).qFetch k q) ∧
  (∀ (k q t : Nat) (s : State), s.qState k q = qsRUNNING → (s.startClocks [ckSYS, ckIGE]).tailOk k q t = false →
    s.doorbell k q t false = (s.startClocks [ckSYS, ckIGE]).qStop k q qsERROR qrBAD_TAIL t) ∧
  (∀ (k q t : Nat) (s : State), (s.qState k q = qsHALTED ∨ s.qState k q = qsERROR) → (s.startClocks [ckSYS, ckIGE]).tailOk k q t = false →
    s.doorbell k q t false = s.startClocks [ckSYS, ckIGE]) ∧
  (∀ (k q t : Nat) (s : State), k ≠ qkEV → s.tailOk k q t = true →
    t < s.qM k q ∧ qDist (s.qM k q) (s.qHead k q) (s.qTail k q) ≤ qDist (s.qM k q) (s.qHead k q) t ∧ qDist (s.qM k q) (s.qHead k q) t ≤ s.qN k q) ∧
  (∀ (o : Origin) (k : Fin 5) (q : Fin 4096) (s : State), q.val < qCount k → s.Open o (qUnit k) (qOff k q + 0x20) true (o == .slice (Fin.ofNat 256 q) && k.val == qkSC && decide (q.val < 256)) →
    (s.qState k q = qsDISABLED → s.qContextOk k q = true → exec (.queueEnable o k q) s = .next ((s.awake o (qUnit k)).qEnable k q)) ∧
    (s.qState k q = qsRUNNING → (s.qst k q).drain = none → exec (.queueDisable o k q) s = .next ((s.awake o (qUnit k)).qDrain k q false)) ∧
    ((s.qState k q = qsHALTED ∨ s.qState k q = qsERROR) → (s.qst k q).drain = none → exec (.queueReset o k q) s = .next ((s.awake o (qUnit k)).qDrain k q true)) ∧
    ((s.qState k q ≠ qsDISABLED ∨ s.qContextOk k q = false) →
      exec (.queueEnable o k q) s = .next ((s.awake o (qUnit k)).raise (qUnit k) 2 (qOff k q + 0x20))) ∧
    ((s.qState k q ≠ qsRUNNING ∨ (s.qst k q).drain ≠ none) →
      exec (.queueDisable o k q) s = .next ((s.awake o (qUnit k)).raise (qUnit k) 2 (qOff k q + 0x20))) ∧
    ((s.qState k q = qsDISABLED ∨ s.qState k q = qsRUNNING ∨ (s.qst k q).drain ≠ none) →
      exec (.queueReset o k q) s = .next ((s.awake o (qUnit k)).raise (qUnit k) 2 (qOff k q + 0x20)))) ∧
  (∀ (k : Fin 5) (q : Fin 4096) (s : State), q.val < qCount k → (s.qEnable k q).qHead k q = 0 ∧ (s.qEnable k q).qTail k q = 0 ∧
    ((∀ f pa, s.qVia k q = some (f, pa) → s.issues f = true) → (s.qEnable k q).qState k q = qsRUNNING) ∧
    (∀ f pa, s.qVia k q = some (f, pa) → s.issues f = false → (s.qEnable k q).qState k q = qsHALTED)) ∧
  (∀ (k q n : Nat) (s : State), s.qContextOk k q = true → s.qOwner k q = some n → s.vectorOk n (s.act (qAdr k q) QeTxq.vector) = true) ∧
  (∀ (k : Fin 5) (q : Fin 4096) (s : State), q.val < qCount k → (s.qState k q = qsRUNNING ∨ s.qState k q = qsERROR) →
    s.qResetHalt k q = s.qStop k q qsHALTED qrUNIT_RESET (s.qHead k q)) ∧
  (∀ (k q : Nat) (s : State), (s.qState k q = qsDISABLED ∨ s.qState k q = qsHALTED) → s.qResetHalt k q = s) ∧
  (∀ (k : Fin 5) (q : Fin 4096) (r : Bool) (s : State), ((s.qDrain k q r).qst k q).drain = some r ∧ (s.qDrain k q r).regs = s.regs ∧
    ((s.qDrain k q true).qst k q).fetched = []) ∧
  (∀ (k : Fin 6) (q : Fin 1048576) (r : Bool) (s : State), k.val < 5 → q.val < qCount k → (s.qst k q).drain = some r → s.qDrained k q r = true →
    exec (.queueDrainEnd k q) s = .next (s.qDisabled k q (!r))) ∧
  (∀ (k : Fin 5) (q : Fin 4096) (r : Bool) (s : State), q.val < qCount k → (s.qDisabled k q r).qState k q = qsDISABLED ∧ (s.qDisabled k q r).qHead k q = 0 ∧ (s.qDisabled k q r).qTail k q = 0) ∧
  (∀ (q : Fin 1048576) (x : Conn) (s : State), s.conn q = some x → x.q.drain = some true → s.readsOf (.conn q) = 0 →
    ∃ t y, exec (.queueDrainEnd 5 q) s = .next t ∧ t.conn q = some y ∧ y.rstate = qsDISABLED ∧ y.head = 0 ∧ y.tail = 0) ∧
  (∀ (k : Fin 5) (q : Fin 4096) (st reason idx : Nat) (s : State), k.val ≠ qkEV → q.val < qCount k → st < 4 → reason < 32 → idx < 65536 →
    (s.qStop k q st reason idx).qState k q = st ∧ (s.qStop k q st reason idx).get (qAdr k q) QeTxq.error = reason ∧
    (s.qStop k q st reason idx).get (qAdr k q) QeTxq.errorIndex = idx ∧ (s.qStop k q st reason idx).qTail k q = s.qTail k q) ∧
  (∀ (q st reason idx : Nat) (s : State), s.qStop qkEV q st reason idx =
    ((((((s.set (qAdr qkEV q) QeTxq.state st).set (qAdr qkEV q) QeTxq.error reason).set (qAdr qkEV q) QeTxq.errorIndex idx).modQ qkEV q
      fun x => { x with fetched := [], asked := [], drain := none }).headRecord qkEV q).raise 15 (if st = qsERROR then 4 else 5) (qDetail qkEV q reason)))

/-- Descriptors arrive, transmit frames leave, events enter their rings, and records fall due (R335, R336, R344, R345, R348, R362, R363, R366, R370, R373, R374, R513). -/
def Obligations.RingsCarryEntriesFramesAndEvents : Prop :=
  (∀ (k : Fin 5) (q : Fin 4096) (i n f : Nat) (pa : Option Nat) (rest : List (Nat × Nat)) (data : List Byte) (s : State),
    (s.qst k q).asked = (i, n) :: rest → s.qVia k q = some (f, pa) → s.reading f (.queue k q) = true → s.qState k q = qsRUNNING → (s.qst k q).drain = none →
    exec (.descriptorCompletion k q data) s = .next (((s.readEnds f (.queue k q)).modQ k q fun x => { x with asked := rest }).fetched k q
      (splitEntries (s.qEntry k q) (s.qM k q) data n i))) ∧
  (∀ (k : Fin 5) (q : Fin 4096) (i n f : Nat) (pa : Option Nat) (rest : List (Nat × Nat)) (data : List Byte) (s : State),
    (s.qst k q).asked = (i, n) :: rest → s.qVia k q = some (f, pa) → s.reading f (.queue k q) = true → (s.qState k q ≠ qsRUNNING ∨ (s.qst k q).drain = some true) →
    exec (.descriptorCompletion k q data) s = .next ((s.readEnds f (.queue k q)).modQ k q fun x => { x with asked := rest })) ∧
  (∀ (k : Fin 5) (q : Fin 4096) (f : Nat) (pa : Option Nat) (data : List Byte) (s : State), s.qVia k q = some (f, pa) →
    s.reading f (.queue k q) = false → exec (.descriptorCompletion k q data) s = .next (s.stray f)) ∧
  (∀ (k q : Nat) (es : List (Nat × List Byte)) (s : State), (∀ x ∈ es, s.entryBad k q x.2 = none) →
    ((s.takeEntries k q es).qst k q).fetched = (s.qst k q).fetched ++ es ∧ (s.takeEntries k q es).regs = s.regs ∧ (s.takeEntries k q es).out = s.out) ∧
  (∀ (k q i r : Nat) (e : List Byte) (es : List (Nat × List Byte)) (s : State), s.qState k q = qsRUNNING → s.entryBad k q e = some r →
    s.takeEntries k q ((i, e) :: es) = s.qStop k q qsERROR r i) ∧
  (∀ (w i : Nat) (e : List Byte) (es : List (Nat × List Byte)) (ok : Nat → Bool), txReserved w e = false → 0 < txLen0 e → txLen0 e ≤ 9018 →
    txLen1 w e ≤ 9018 → (bit (leAt e 10 1) 1 = true ∨ ok (leAt e 12 2 % 16384) = true) → bit (leAt e 10 1) 0 = true →
    14 ≤ txLen0 e + txLen1 w e → txLen0 e + txLen1 w e ≤ 9018 → txScan w ok none 0 0 ((i, e) :: es) = .frame 1 (txLen0 e + txLen1 w e)) ∧
  (∀ (q : Fin 4096) (f : TxFrame) (rest : List TxFrame) (data : List Byte) (s : State), takeTx q s.qe.tx = some (f, rest) → s.ready 15 = true →
    exec (.txDataCompletion q data) s = .next ((if f.classify = true
      then (({ s with qe := { s.qe with tx := rest } } : State).endReads qkTX q f.reads).hostFrame (slice data 0 f.length) f.stampTag f.oneStep
      else (({ s with qe := { s.qe with tx := rest } } : State).endReads qkTX q f.reads).toTm f.queue (slice data 0 f.length) f.stampTag f.oneStep).qDone
        qkTX q f.count f.report)) ∧
  (∀ (k : Fin 6) (q : Fin 1048576) (s : State), k.val < 5 → q.val < qCount k → s.qState k q = qsRUNNING → 0 < (s.qst k q).unreported →
    s.act (qAdr k q) QeTxq.time ≠ 0 → (s.qFrozen k q = false → s.Presents k q →
      exec (.headRecordTimer k q) s = .next (s.headRecord k q) ∧ ((s.headRecord k q).qst k q).unreported = 0) ∧
    (∀ (f : Nat) (pa : Option Nat), s.qFrozen k q = false → s.qVia k q = some (f, pa) → s.issues f = false →
      exec (.headRecordTimer k q) s = .next (s.qHalt k q (s.cutReason f))) ∧
    (s.qFrozen k q = true → exec (.headRecordTimer k q) s = .next s)) ∧
  (∀ (q : Fin 1048576) (x : Conn) (s : State), s.conn q = some x → x.rstate = qsRUNNING → 0 < x.q.unreported → x.time ≠ 0 →
    (∀ (f : Nat) (pa : Option Nat), s.connFrozen x = false → s.connVia x = some (f, pa) →
      exec (.headRecordTimer 5 q) s = .next (if s.issues f = true then s.connRecord q else s.connHalt q (s.cutReason f))) ∧
    (s.connFrozen x = true → exec (.headRecordTimer 5 q) s = .next s)) ∧
  (∀ (e : Staged) (rest : List Staged) (s : State), takeStaged s.evHeld s.staged = some (e, rest) →
    (s.actB (HifRoute.adr e.ev) HifRoute.enable = true →
      exec .eventRingWrite s = .next ((({ s with staged := rest } : State).set SvcStaging.adr SvcStaging.used rest.length).evDeliver
        (s.act (HifRoute.adr e.ev) HifRoute.evq) e)) ∧
    (s.actB (HifRoute.adr e.ev) HifRoute.enable = false →
      exec .eventRingWrite s = .next (({ s with staged := rest } : State).set SvcStaging.adr SvcStaging.used rest.length))) ∧
  (∀ s : State, takeStaged s.evHeld s.staged = none → exec .eventRingWrite s = .next s) ∧
  (∀ (held : Staged → Bool) (l rest : List Staged) (e : Staged), takeStaged held l = some (e, rest) →
    e ∈ l ∧ (l.filter fun x => x.host && !held x).head? = some e ∧
    (rest.filter fun x => x.host && !held x) = (l.filter fun x => x.host && !held x).drop 1 ∧
    (rest.filter fun x => x.host && held x) = l.filter fun x => x.host && held x) ∧
  (∀ (held : Staged → Bool) (l : List Staged), takeStaged held l = none ↔ ∀ x ∈ l, x.host = false ∨ held x = true) ∧
  (∀ (e : Staged) (s : State), s.evHeld e = true ↔ s.actB (HifRoute.adr e.ev) HifRoute.enable = true ∧
    s.qFrozen qkEV (s.act (HifRoute.adr e.ev) HifRoute.evq) = true ∧ s.qState qkEV (s.act (HifRoute.adr e.ev) HifRoute.evq) = qsRUNNING) ∧
  (∀ (q : Nat) (e : Staged) (s : State), (s.qState qkEV q ≠ qsRUNNING ∨ s.qVia qkEV q = none) → s.evDeliver q e = s) ∧
  (∀ (q f : Nat) (pa : Option Nat) (e : Staged) (s : State), s.qState qkEV q = qsRUNNING → (s.qst qkEV q).drain = none → s.qVia qkEV q = some (f, pa) →
    (s.ready 15 = true → s.evFull q = false → s.issues f = true → s.evDeliver q e = s.evWrite q e) ∧ (s.issues f = true → (s.ready 15 = false ∨ s.evFull q = true) → s.evDeliver q e = s.evOverflow q e.ev) ∧
    (s.issues f = false → s.evDeliver q e = s.qHalt qkEV q (s.cutReason f))) ∧
  (∀ (q : Nat) (s : State), (s.qst qkEV q).zeroDue = true → s.evZeros q = (s.qWrite qkEV q (s.act (qAdr qkEV q) QeTxq.summaryAddr * 16)
    (List.replicate 48 0)).modQ qkEV q fun x => { x with zeroDue := false }) ∧
  (∀ (o : Origin) (v : Word) (s u : State), s.Open o 14 0x1020 (s.rwlDiffers HifSliceCfg.adr v) false →
    u = (s.awake o 14).set HifSliceCfg.adr HifSliceCfg.countLog2 (bits v.toNat 3 0) →
    (bits v.toNat 3 0 ≤ 8 → (bits v.toNat 3 0 = s.act HifSliceCfg.adr HifSliceCfg.countLog2 ∨ ∀ k < 256, s.bound k = false) →
      (s.service = v.getLsbD 31 → exec (.sliceModeWrite o v) s = .next u ∧ exec (.sliceCountWrite o v) s = .next u) ∧
      (s.service = false → v.getLsbD 31 = true → exec (.sliceCountWrite o v) s = exec (.sliceModeWrite o v) s ∧
        exec (.sliceModeWrite o v) s = .next (({ u with hif := { u.hif with heldLog2 := s.act HifSliceCfg.adr HifSliceCfg.countLog2 } } : State).set
          HifSliceCfg.adr HifSliceCfg.mode 1)) ∧
      (s.service = true → v.getLsbD 31 = false → exec (.sliceCountWrite o v) s = exec (.sliceModeWrite o v) s ∧
        exec (.sliceModeWrite o v) s = .next (if ((s.awake o 14).ownersKept u.equalShares && u.equalShares.stationsFit) = true then u.equalShares
          else (s.awake o 14).raise 14 2 0x1020))) ∧
    ((8 < bits v.toNat 3 0 ∨ bits v.toNat 3 0 ≠ s.act HifSliceCfg.adr HifSliceCfg.countLog2 ∧ ∃ k < 256, s.bound k = true) →
      exec (.sliceModeWrite o v) s = .next ((s.awake o 14).raise 14 2 0x1020) ∧ exec (.sliceCountWrite o v) s = .next ((s.awake o 14).raise 14 2 0x1020))) ∧
  (∀ (o : Origin) (e : Fin 384) (v : Word) (k : Nat) (s : State), s.Open o 14 (0x4C000 + 4 * e) (s.rwlDiffers (HifRoute.adr e) v) false →
    s.ownerOf .evq (bits v.toNat 9 0) = some k → s.bound k = true → s.slicePf k = bits v.toNat 30 29 →
    (s.service = true ∨ s.vectorOk k (bits v.toNat 28 18) = true) →
    exec (.eventRouteWrite o e v) s = .next ((s.awake o 14).setBits (HifRoute.adr e) 0xFFFC03FF#32 v)) ∧
  (∀ (o : Origin) (e : Fin 384) (v : Word) (s : State), s.Open o 14 (0x4C000 + 4 * e) (s.rwlDiffers (HifRoute.adr e) v) false →
    (s.ownerOf .evq (bits v.toNat 9 0) = none ∨ ∃ k, s.ownerOf .evq (bits v.toNat 9 0) = some k ∧
      (s.bound k = false ∨ s.slicePf k ≠ bits v.toNat 30 29 ∨ s.service = false ∧ s.vectorOk k (bits v.toNat 28 18) = false)) →
    exec (.eventRouteWrite o e v) s = .next ((s.awake o 14).raise 14 2 (0x4C000 + 4 * e)))

/-- Slice-control entries act in their slice's share and end with their status (R246, R247, R274, R277, R285, R329, R337, R344, R375, R376). -/
def Obligations.SliceControlEntriesActAndEnd : Prop :=
  (∀ (k : Fin 256) (kind q : Nat) (e : List Byte) (s : State), s.scEntry k 0x01 = some e → s.scQueue k e = (kind, some q) → s.qState kind q = qsDISABLED →
    (s.putContext (qAdr kind q) (slice e 16 32)).qContextOk kind q = true → (s.putContext (qAdr kind q) (slice e 16 32)).act (qAdr kind q) QeTxq.count ≠ 0 →
    exec (.scQueueSetup k) s = .next ((s.putContext (qAdr kind q) (slice e 16 32)).scEnd k e scOK)) ∧
  (∀ (k : Fin 256) (kind q : Nat) (e : List Byte) (s : State), s.scEntry k 0x01 = some e → s.scQueue k e = (kind, some q) → s.qState kind q ≠ qsDISABLED →
    exec (.scQueueSetup k) s = .next (s.scEnd k e scBAD_STATE)) ∧
  (∀ (k : Fin 256) (kind q : Nat) (e : List Byte) (s : State), s.scEntry k 0x02 = some e → s.scQueue k e = (kind, some q) → s.qState kind q = qsDISABLED →
    exec (.scQueueEnable k) s = .next (if s.qContextOk kind q = true then (s.qEnable kind q).scEnd k e scOK else s.scEnd k e scBAD_VALUE)) ∧
  (∀ (k : Fin 256) (kind q : Nat) (e : List Byte) (s : State), s.scEntry k 0x02 = some e → s.scQueue k e = (kind, some q) → s.qState kind q ≠ qsDISABLED →
    exec (.scQueueEnable k) s = .next (s.scEnd k e scBAD_STATE)) ∧
  (∀ (k : Fin 256) (kind q : Nat) (e : List Byte) (s : State), s.scEntry k 0x03 = some e → s.scQueue k e = (kind, some q) →
    exec (.scQueueDisable k) s = .next (if s.qState kind q = qsRUNNING ∧ (s.qst kind q).drain = none then (s.qDrain kind q false).scEnd k e scOK else s.scEnd k e scBAD_STATE)) ∧
  (∀ (k : Fin 256) (kind q : Nat) (e : List Byte) (s : State), s.scEntry k 0x04 = some e → s.scQueue k e = (kind, some q) →
    exec (.scQueueReset k) s = .next (if (s.qState kind q = qsHALTED ∨ s.qState kind q = qsERROR) ∧ (s.qst kind q).drain = none then (s.qDrain kind q true).scEnd k e scOK
      else s.scEnd k e scBAD_STATE)) ∧
  (∀ (k : Fin 256) (kind : Nat) (e : List Byte) (s : State), s.scQueue k e = (kind, none) →
    (s.scEntry k 0x01 = some e → exec (.scQueueSetup k) s = .next (s.scEnd k e scOUT_OF_SHARE)) ∧
    (s.scEntry k 0x02 = some e → exec (.scQueueEnable k) s = .next (s.scEnd k e scOUT_OF_SHARE)) ∧
    (s.scEntry k 0x03 = some e → exec (.scQueueDisable k) s = .next (s.scEnd k e scOUT_OF_SHARE)) ∧
    (s.scEntry k 0x04 = some e → exec (.scQueueReset k) s = .next (s.scEnd k e scOUT_OF_SHARE))) ∧
  (∀ (k : Fin 256) (e arg : List Byte) (bad : List Nat) (s u : State), s.ready 11 = true → s.slicePf k = 0 → s.ArgIn k u →
    (s.scEntry k 0x10 = some e → exec (.emtInsert k arg bad) s = .next ((u.emtInsert (some k.val) (leAt e 8 1 % 16) arg bad).1.scEnd k e
      (0x10 + (u.emtInsert (some k.val) (leAt e 8 1 % 16) arg bad).2.1))) ∧
    (s.scEntry k 0x11 = some e → exec (.emtDelete k arg bad) s = .next ((u.emtDelete (some k.val) (leAt e 8 1 % 16) arg bad).1.scEnd k e
      (0x10 + (u.emtDelete (some k.val) (leAt e 8 1 % 16) arg bad).2.1))) ∧
    (s.scEntry k 0x12 = some e → exec (.emtModify k arg bad) s = .next ((u.emtModify (some k.val) (leAt e 8 1 % 16) arg bad).1.scEnd k e
      (0x10 + (u.emtModify (some k.val) (leAt e 8 1 % 16) arg bad).2.1)))) ∧
  (∀ (k : Fin 256) (e arg x : List Byte) (bad : List Nat) (i : Nat) (s u v : State), s.ready 11 = true → s.slicePf k = 0 → s.ArgIn k u → s.scEntry k 0x13 = some e →
    u.find (leAt e 8 1 % 16) (slice arg 0 (keyBytes (u.tKind (leAt e 8 1 % 16)))) bad = (v, some (i, x)) →
    exec (.emtLookup k arg bad) s = .next ((v.argWrite k (leAt e 16 8) (slice x 0 64)).scEnd k e (0x10 + emOK))) ∧
  (∀ (k : Fin 256) (e arg : List Byte) (bad : List Nat) (s u v : State), s.ready 11 = true → s.slicePf k = 0 → s.ArgIn k u → s.scEntry k 0x13 = some e →
    u.find (leAt e 8 1 % 16) (slice arg 0 (keyBytes (u.tKind (leAt e 8 1 % 16)))) bad = (v, none) →
    exec (.emtLookup k arg bad) s = .next (v.scEnd k e (0x10 + emNOT_FOUND))) ∧
  (∀ (k addr : Nat) (d : List Byte) (s : State), s.bound k = true →
    s.argWrite k addr d = s.dmaWriteBy (some (.arg k)) (s.slicePf k) (some (s.slicePasid k)) addr d) ∧
  (∀ (k : Fin 256) (e arg : List Byte) (i : Nat) (s u : State), s.ready 12 = true → s.slicePf k = 0 → s.ArgIn k u → s.scEntry k 0x18 = some e →
    u.tcamIndex (some k.val) (leAt e 8 1 % 8) (leAt e 12 4 % 262144) = some i →
    exec (.tcamWrite k arg) s = .next ((u.tcamPut (leAt e 8 1 % 8) i (u.tcamBuffer (leAt e 8 1 % 8) arg)).scEnd k e (0x20 + tcOK))) ∧
  (∀ (k : Fin 256) (e : List Byte) (i : Nat) (s : State), s.ready 12 = true → s.slicePf k = 0 →
    s.tcamIndex (some k.val) (leAt e 8 1 % 8) (leAt e 12 4 % 262144) = some i →
    (s.scEntry k 0x19 = some e → exec (.tcamInvalidate k) s =
      .next ((s.tcamPut (leAt e 8 1 % 8) i { s.verified (leAt e 8 1 % 8) i with valid := false }).scEnd k e (0x20 + tcOK))) ∧
    (s.scEntry k 0x1A = some e → exec (.tcamRead k) s = .next ((s.argWrite k (leAt e 16 8)
      (leBytes 80 (s.verified (leAt e 8 1 % 8) i).value ++ leBytes 80 (s.verified (leAt e 8 1 % 8) i).mask ++
        leBytes 8 (s.verified (leAt e 8 1 % 8) i).data)).scEnd k e (0x20 + tcOK)))) ∧
  (∀ (k : Fin 256) (e : List Byte) (s : State), s.ready 12 = true → s.slicePf k = 0 →
    s.tcamIndex (some k.val) (leAt e 8 1 % 8) (leAt e 12 4 % 262144) = none →
    (s.scEntry k 0x19 = some e → exec (.tcamInvalidate k) s = .next (s.scEnd k e (0x20 + tcBAD_INDEX))) ∧
    (s.scEntry k 0x1A = some e → exec (.tcamRead k) s = .next (s.scEnd k e (0x20 + tcBAD_INDEX)))) ∧
  (∀ (k : Fin 256) (e arg : List Byte) (s u : State), s.slicePf k = 1 → s.ArgIn k u → s.scEntry k 0x20 = some e → 0 < leAt e 10 2 % 4096 →
    leAt e 8 2 % 2048 + leAt e 10 2 % 4096 ≤ 2048 →
    exec (.indirWrite k arg) s = .next (if ((List.range (leAt e 10 2 % 4096)).map fun i => leAt arg (2 * i) 2).all (u.indirOk k) = true
      then ((List.range (leAt e 10 2 % 4096)).foldl
        (fun (s : State) i => s.putIndir k (leAt e 8 2 % 2048 + i) (((List.range (leAt e 10 2 % 4096)).map fun i => leAt arg (2 * i) 2).getD i 0)) u).scEnd k e scOK
      else u.scEnd k e scBAD_VALUE)) ∧
  (∀ (k : Fin 256) (e arg : List Byte) (s u : State), s.slicePf k = 1 → s.ArgIn k u → s.scEntry k 0x21 = some e →
    ∃ t : State, exec (.hashKeyWrite k arg) s = .next (t.scEnd k e scOK) ∧ k.val ∈ t.pp.keyDue ∧
      (∀ j < 10, t.rd (PpHashKey.adr 0 k j) = BitVec.ofNat 32 (leAt arg (4 * j) 4) ∧ t.inForce (PpHashKey.adr 0 k j) = s.inForce (PpHashKey.adr 0 k j))) ∧
  (∀ (k : Fin 256) (e arg : List Byte) (bad : List Nat) (s : State), s.ready 11 = true → s.ready 12 = true → s.slicePf k ≠ 0 → s.slicePf k ≠ 1 →
    (s.scEntry k 0x10 = some e → exec (.emtInsert k arg bad) s = .next (s.scEnd k e scOUT_OF_SHARE)) ∧
    (s.scEntry k 0x11 = some e → exec (.emtDelete k arg bad) s = .next (s.scEnd k e scOUT_OF_SHARE)) ∧
    (s.scEntry k 0x12 = some e → exec (.emtModify k arg bad) s = .next (s.scEnd k e scOUT_OF_SHARE)) ∧
    (s.scEntry k 0x13 = some e → exec (.emtLookup k arg bad) s = .next (s.scEnd k e scOUT_OF_SHARE)) ∧
    (s.scEntry k 0x18 = some e → exec (.tcamWrite k arg) s = .next (s.scEnd k e scOUT_OF_SHARE)) ∧
    (s.scEntry k 0x19 = some e → exec (.tcamInvalidate k) s = .next (s.scEnd k e scOUT_OF_SHARE)) ∧
    (s.scEntry k 0x1A = some e → exec (.tcamRead k) s = .next (s.scEnd k e scOUT_OF_SHARE)) ∧
    (s.scEntry k 0x20 = some e → exec (.indirWrite k arg) s = .next (s.scEnd k e scOUT_OF_SHARE)) ∧
    (s.scEntry k 0x21 = some e → exec (.hashKeyWrite k arg) s = .next (s.scEnd k e scOUT_OF_SHARE))) ∧
  (∀ (k : Fin 256) (s : State), (∀ op, s.scEntry k op = none) →
    exec (.scQueueSetup k) s = .next s ∧ exec (.scQueueEnable k) s = .next s ∧ exec (.scQueueDisable k) s = .next s ∧
    exec (.scQueueReset k) s = .next s ∧ exec (.tcamInvalidate k) s = .next s ∧ exec (.tcamRead k) s = .next s) ∧
  (∀ (k : Fin 256) (arg : List Byte) (bad : List Nat) (s : State), (∀ op, s.scEntry k op = none) → s.ready 11 = true → s.ready 12 = true →
    exec (.emtInsert k arg bad) s = .next (s.argStray k) ∧ exec (.emtDelete k arg bad) s = .next (s.argStray k) ∧
    exec (.emtModify k arg bad) s = .next (s.argStray k) ∧ exec (.emtLookup k arg bad) s = .next (s.argStray k) ∧
    exec (.tcamWrite k arg) s = .next (s.argStray k) ∧ exec (.indirWrite k arg) s = .next (s.argStray k) ∧
    exec (.hashKeyWrite k arg) s = .next (s.argStray k)) ∧
  (∀ (k : Nat) (s : State), (s.reading (s.slicePf k) (.arg k) = false → s.bound k = false → s.argStray k = s) ∧
    (s.reading (s.slicePf k) (.arg k) = true → s.qState qkSC k ≠ qsRUNNING → s.argStray k = s.argIn k)) ∧
  (∀ (k : Fin 256) (e arg : List Byte) (bad : List Nat) (s : State), s.reading (s.slicePf k) (.arg k) = false → s.ready 11 = true → s.ready 12 = true →
    (s.slicePf k = 0 → s.scEntry k 0x10 = some e → exec (.emtInsert k arg bad) s = .next s) ∧
    (s.slicePf k = 0 → s.scEntry k 0x18 = some e → exec (.tcamWrite k arg) s = .next s) ∧
    (s.slicePf k = 1 → s.scEntry k 0x21 = some e → exec (.hashKeyWrite k arg) s = .next s)) ∧
  (∀ (k : Fin 256) (op : Nat) (e : List Byte) (s : State), s.scEntry k op = some e →
    leAt e 0 1 = op ∧ s.qState qkSC k = qsRUNNING ∧ s.ready 15 = true ∧ s.qFrozen qkSC k = false ∧ ∃ i rest, (s.qst qkSC k).fetched = (i, e) :: rest) ∧
  (∀ (k : Fin 256) (e : List Byte) (st : Nat) (s : State), s.qM qkSC k ≤ 65536 → s.Presents qkSC k →
    (s.scEnd k e st).qHead qkSC k = (s.qHead qkSC k + 1) % s.qM qkSC k) ∧
  (∀ (k : Fin 256) (e : List Byte) (st : Nat) (s : State), k.val < s.slices → s.bound k = true → s.issues (s.slicePf k) = false →
    s.scEnd k e st = s.qHalt qkSC k (s.cutReason (s.slicePf k))) ∧
  (∀ (k : Fin 256) (e arg : List Byte) (bad : List Nat) (f : Nat) (pa : Option Nat) (s u : State), s.reading (s.slicePf k) (.arg k) = true → u = s.argIn k →
    u.qVia qkSC k = some (f, pa) → u.issues f = false →
    (s.slicePf k = 0 → s.ready 11 = true →
      (s.scEntry k 0x10 = some e → exec (.emtInsert k arg bad) s = .next (u.qHalt qkSC k (u.cutReason f))) ∧
      (s.scEntry k 0x11 = some e → exec (.emtDelete k arg bad) s = .next (u.qHalt qkSC k (u.cutReason f))) ∧
      (s.scEntry k 0x12 = some e → exec (.emtModify k arg bad) s = .next (u.qHalt qkSC k (u.cutReason f))) ∧
      (s.scEntry k 0x13 = some e → exec (.emtLookup k arg bad) s = .next (u.qHalt qkSC k (u.cutReason f)))) ∧
    (s.slicePf k = 0 → s.ready 12 = true → s.scEntry k 0x18 = some e → exec (.tcamWrite k arg) s = .next (u.qHalt qkSC k (u.cutReason f))) ∧
    (s.slicePf k = 1 → s.scEntry k 0x21 = some e → exec (.hashKeyWrite k arg) s = .next (u.qHalt qkSC k (u.cutReason f))))

/-- Connections are set up, opened, closed and queried, and regions registered and deregistered (R337, R388, R389, R393, R396, R397, R398, R399, R416, R418, R419). -/
def Obligations.ConnectionsAndRegions : Prop :=
  (∀ (o : Origin) (arg : List Byte) (st : Nat) (s t : State), (∀ k, o ≠ .slice k) → s.Open o 16 0x1100 true false →
    s.getB ShxCmd.adr ShxCmd.busy = false → s.shxOn = true →
    (s.reading 3 .shxCmd = false → (s.awake o 16).connAskSetup s.shxArgs = (t, none) → exec (.connSetup o arg) s = .next (t.set ShxCmd.adr ShxCmd.busy 1).nvSweep) ∧
    (s.reading 3 .shxCmd = false → (s.awake o 16).connAskSetup s.shxArgs = (t, some st) →
      exec (.connSetup o arg) s = .next ((t.set ShxCmd.adr ShxCmd.busy 0).set ShxCmd.adr ShxCmd.status st).nvSweep) ∧
    ((s.awake o 16).connOpenCmd none s.shxArgs = (t, some st) → exec (.connOpen o) s = .next ((t.set ShxCmd.adr ShxCmd.busy 0).set ShxCmd.adr ShxCmd.status st).nvSweep) ∧
    ((s.awake o 16).connClose o none s.shxArgs = (t, some st) → exec (.connClose o) s = .next ((t.set ShxCmd.adr ShxCmd.busy 0).set ShxCmd.adr ShxCmd.status st).nvSweep) ∧
    ((s.awake o 16).connClose o none s.shxArgs = (t, none) → exec (.connClose o) s = .next (t.set ShxCmd.adr ShxCmd.busy 1).nvSweep) ∧
    ((s.awake o 16).connQuery none s.shxArgs = (t, some st) → exec (.connQuery o) s = .next ((t.set ShxCmd.adr ShxCmd.busy 0).set ShxCmd.adr ShxCmd.status st).nvSweep) ∧
    ((s.awake o 16).regionRegister none s.shxArgs = (t, some st) → exec (.regionRegister o) s = .next ((t.set ShxCmd.adr ShxCmd.busy 0).set ShxCmd.adr ShxCmd.status st).nvSweep) ∧
    ((s.awake o 16).regionDeregister o none s.shxArgs = (t, some st) → exec (.regionDeregister o) s = .next ((t.set ShxCmd.adr ShxCmd.busy 0).set ShxCmd.adr ShxCmd.status st).nvSweep) ∧
    ((s.awake o 16).regionDeregister o none s.shxArgs = (t, none) → exec (.regionDeregister o) s = .next (t.set ShxCmd.adr ShxCmd.busy 1).nvSweep)) ∧
  (∀ (e : List Byte) (s : State), s.issues 3 = true →
    s.connAskSetup e = (({ s with shx := { s.shx with args := e } } : State).dmaRead 3 none (leAt e 16 8) 128 .shxCmd, none)) ∧
  (∀ (o : Origin) (arg : List Byte) (st : Nat) (s t : State), (∀ k, o ≠ .slice k) → s.reading 3 .shxCmd = true →
    (s.readEnds 3 .shxCmd).connSetup none s.shx.args arg = (t, some st) →
    exec (.connSetup o arg) s = .next ((t.set ShxCmd.adr ShxCmd.busy 0).set ShxCmd.adr ShxCmd.status st).nvSweep) ∧
  (∀ (k : Fin 256) (e arg : List Byte) (st : Nat) (s t u : State), s.shxOn = true → s.slicePf k = 3 → s.ArgIn k u → s.scEntry k 0x40 = some e →
    u.connSetup (some k.val) e arg = (t, some st) → exec (.connSetup (.slice k) arg) s = .next (t.scEnd k e st).nvSweep) ∧
  (∀ (k : Fin 256) (e : List Byte) (st : Nat) (s t : State), s.shxOn = true → s.slicePf k = 3 →
    (s.scEntry k 0x41 = some e → s.connOpenCmd (some k.val) e = (t, some st) → exec (.connOpen (.slice k)) s = .next (t.scEnd k e st).nvSweep) ∧
    (s.scEntry k 0x42 = some e → s.connClose (.slice k) (some k.val) e = (t, none) → exec (.connClose (.slice k)) s = .next t.nvSweep) ∧
    (s.scEntry k 0x43 = some e → s.connQuery (some k.val) e = (t, some st) → exec (.connQuery (.slice k)) s = .next (t.scEnd k e st).nvSweep) ∧
    (s.scEntry k 0x44 = some e → s.regionRegister (some k.val) e = (t, some st) → exec (.regionRegister (.slice k)) s = .next (t.scEnd k e st).nvSweep) ∧
    (s.scEntry k 0x45 = some e → s.regionDeregister (.slice k) (some k.val) e = (t, some st) → exec (.regionDeregister (.slice k)) s = .next (t.scEnd k e st).nvSweep) ∧
    (s.scEntry k 0x45 = some e → s.regionDeregister (.slice k) (some k.val) e = (t, none) → exec (.regionDeregister (.slice k)) s = .next t.nvSweep)) ∧
  (∀ (k : Fin 256) (e arg : List Byte) (s : State), s.shxOn = true → s.slicePf k ≠ 3 → s.scEntry k 0x40 = some e →
    exec (.connSetup (.slice k) arg) s = .next (s.scEnd k e scOUT_OF_SHARE).nvSweep) ∧
  (∀ (k : Option Nat) (c : Nat) (e arg : List Byte) (s : State), s.connArg k e = some c → s.conn c ≠ none → s.connSetup k e arg = (s, some sxCONN_STATE)) ∧
  (∀ (c : Nat) (e arg : List Byte) (s : State), s.connArg none e = some c → s.conn c = none → bits (leAt arg 0 1) 4 3 ≠ ckRING → s.contextBad none (Conn.fresh arg 0) = none →
    s.connSetup none e arg = ((s.putConn c (Conn.fresh arg 0)).ctxEnter c, some scOK)) ∧
  (∀ (k c : Nat) (e arg : List Byte) (s : State), s.connArg (some k) e = some c → s.conn c = none → bits (leAt arg 0 1) 4 3 = ckRING →
    s.contextBad (some k) (Conn.fresh arg k) = none →
    s.connSetup (some k) e arg = ((s.putConn c (Conn.fresh arg k)).ctxEnter c, some scOK)) ∧
  (∀ (b : List Byte) (k : Nat), (Conn.fresh b k).state = csCLOSED ∧ (Conn.fresh b k).rstate = qsDISABLED ∧ (Conn.fresh b k).slice = k ∧ (Conn.fresh b k).pkts = []) ∧
  (∀ (c : Nat) (e : List Byte) (x : Conn) (s : State), s.connArg none e = some c → s.conn c = some x → x.closing = none → (x.state = csCLOSED ∨ x.state = csFAILED) →
    s.connOpenCmd none e = ((s.putConn c { x with
      state := csCONNECTING, epoch := if x.state = csFAILED then (x.epoch + 1) % 256 else x.epoch, version := 0, hellos := 1
      helloAt := s.shxNs + s.rtoNs }).sendHello c false false, some scOK)) ∧
  (∀ (c : Nat) (e : List Byte) (x : Conn) (s : State), s.connArg none e = some c → s.conn c = some x → (x.state = csOPEN ∨ x.state = csCONNECTING) →
    s.connOpenCmd none e = (s, some sxCONN_STATE)) ∧
  (∀ (o : Origin) (c : Nat) (e : List Byte) (x : Conn) (s : State), s.connArg none e = some c → s.conn c = some x → x.closing = none →
    s.connClose o none e = if x.rstate = qsDISABLED then (s.putConn c { x with closing := some o }, none) else (s, some sxCONN_STATE)) ∧
  (∀ (c : Fin 1048576) (o : Origin) (x : Conn) (s : State), s.conn c = some x → x.closing = some o → s.readsOf (.conn c) = 0 → s.readsOf (.remote c) = 0 →
    exec (.connCloseEnd c) s = .next ((s.connFree c x).shxEnd o 0x42 scOK).nvSweep ∧ (s.connFree c x).conn c = none ∧ ∀ d, d ≠ c.val → (s.connFree c x).conn d = s.conn d) ∧
  (∀ (k : Option Nat) (c : Nat) (e : List Byte) (s : State), s.connArg k e = some c → s.conn c = none →
    s.connQuery k e = (s.cmdWrite k (leAt e 16 8) (leBytes 256 0), some scOK)) ∧
  (∀ (c : Nat) (e : List Byte) (x : Conn) (s : State), s.connArg none e = some c → s.conn c = some x →
    s.connQuery none e = ((s.cmdWrite none (leAt e 16 8) (s.ctxBytes x)).tickFree, some scOK)) ∧
  (∀ (k i : Nat) (e : List Byte) (s : State), s.regionArg (some k) e = some i → (s.region i).valid = false → bit (leAt e 12 1) 4 = false →
    0 < leAt e 24 8 → leAt e 24 8 ≤ 2 ^ 48 → k < s.slices →
    ∃ t, s.regionRegister (some k) e = (t, some scOK) ∧
      t.region i = { valid := true, lead := false, mpi := false, timed := bit (leAt e 12 1) 3, read := bit (leAt e 12 1) 2, write := bit (leAt e 12 1) 1
                     gen := (s.region i).gen, slice := k, base := leAt e 16 8, length := leAt e 24 8 } ∧
      (∀ j, j ≠ i → t.region j = s.region j) ∧ t.shx.conns = s.shx.conns) ∧
  (∀ (i : Nat) (e : List Byte) (s : State), s.regionArg none e = some i → (s.region i).valid = false → bit (leAt e 12 1) 4 = true → 0 < s.slices →
    ∃ t, s.regionRegister none e = (t, some scOK) ∧ (t.region i).mpi = true ∧ (t.region i).lead = true ∧ (t.region i).length = 512 ∧ (t.region i).gen = (s.region i).gen) ∧
  (∀ (o : Origin) (k : Option Nat) (i : Nat) (e : List Byte) (s : State), s.regionArg k e = some i → (s.region i).valid = true →
    s.regionRegister k e = (s, some sxREGION_STATE) ∧
    ((i, o) ∉ s.shx.dereg → (s.regionDrop i).placing i = false → s.regionDeregister o k e = (s.regionDrop i, some scOK)) ∧
    ((i, o) ∉ s.shx.dereg → (s.regionDrop i).placing i = true → s.regionDeregister o k e =
      ({ s.regionDrop i with shx := { (s.regionDrop i).shx with dereg := (s.regionDrop i).shx.dereg ++ [(i, o)] } }, none)) ∧
    (s.regionDrop i).region i = { s.region i with valid := false, gen := ((s.region i).gen + 1) % 256 } ∧
    (s.regionDrop i).shx.held = s.shx.held.filter fun h => h.region != i) ∧
  (∀ (o : Origin) (k : Option Nat) (i : Nat) (e : List Byte) (s : State), s.regionArg k e = some i → (i, o) ∉ s.shx.dereg → (s.region i).valid = false →
    s.regionDeregister o k e = (s, some sxREGION_STATE)) ∧
  (∀ (i st : Nat) (o : Origin) (s : State), (∀ k, o ≠ .slice k) → s.shx.dereg = [(i, o)] → s.placing i = false → st = scOK →
    s.deregEnds = (({ s with shx := { s.shx with dereg := [] } } : State).set ShxCmd.adr ShxCmd.busy 0).set ShxCmd.adr ShxCmd.status st) ∧
  (∀ (s : State), (∀ x ∈ s.shx.dereg, s.placing x.1 = true) → s.deregEnds = s) ∧
  (∀ (c : Nat) (s : State), s.shx.dirty.contains c = false → s.ctxBack c = s) ∧
  (∀ (c : Nat) (x : Conn) (s : State), s.conn c = some x → s.shx.dirty.contains c = true → c ∉ (s.ctxBack c).shx.dirty ∧
    (s.ctxBack c).conn c = some x) ∧
  (∀ (s : State), s.ctxTaken < ctxCacheSize → s.ctxRoom = s)

/-- Send rings are controlled, rung and fetched, and their packets leave (R92, R195, R394, R399, R400, R401, R402, R404, R406, R413, R414, R418). -/
def Obligations.SendRingsAndPackets : Prop :=
  (∀ (o : Origin) (s t : State) (st : Nat), (∀ k, o ≠ .slice k) → s.Open o 16 0x1100 true false → s.getB ShxCmd.adr ShxCmd.busy = false → s.shxOn = true →
    (s.awake o 16).ringCtl none s.shxArgs = (t, some st) →
    (leAt s.shxArgs 12 1 % 4 = 1 → exec (.ringEnable o) s = .next ((t.set ShxCmd.adr ShxCmd.busy 0).set ShxCmd.adr ShxCmd.status st).nvSweep) ∧
    (leAt s.shxArgs 12 1 % 4 = 2 → exec (.ringDisable o) s = .next ((t.set ShxCmd.adr ShxCmd.busy 0).set ShxCmd.adr ShxCmd.status st).nvSweep) ∧
    (leAt s.shxArgs 12 1 % 4 = 3 → exec (.ringReset o) s = .next ((t.set ShxCmd.adr ShxCmd.busy 0).set ShxCmd.adr ShxCmd.status st).nvSweep)) ∧
  (∀ (k : Fin 256) (e : List Byte) (s t : State) (st : Nat), s.shxOn = true → s.slicePf k = 3 → s.scEntry k 0x46 = some e → s.ringCtl (some k.val) e = (t, some st) →
    (leAt e 12 1 % 4 = 1 → exec (.ringEnable (.slice k)) s = .next (t.scEnd k e st).nvSweep) ∧
    (leAt e 12 1 % 4 = 2 → exec (.ringDisable (.slice k)) s = .next (t.scEnd k e st).nvSweep) ∧
    (leAt e 12 1 % 4 = 3 → exec (.ringReset (.slice k)) s = .next (t.scEnd k e st).nvSweep)) ∧
  (∀ (k : Option Nat) (c : Nat) (x : Conn) (e : List Byte) (s : State), s.connArg k e = some c → s.conn c = some x → x.kind = ckRING →
    x.q.drain = none → x.closing = none →
    (leAt e 12 1 % 4 = 1 → x.rstate = qsDISABLED → s.vectorOk x.slice x.vector = true → s.ringCtl k e =
      (((s.putConn c { x with rstate := qsRUNNING, head := 0, tail := 0, rerror := 0, rindex := 0, q := QSt.init }).connPresent c
        fun s => s.connRecord c).connFetch c, some scOK)) ∧
    (leAt e 12 1 % 4 = 1 → x.rstate = qsDISABLED → s.vectorOk x.slice x.vector = false → s.ringCtl k e = (s, some sxBAD_CONTEXT)) ∧
    (leAt e 12 1 % 4 = 1 → x.rstate ≠ qsDISABLED → s.ringCtl k e = (s, some scBAD_STATE)) ∧
    (leAt e 12 1 % 4 = 2 → x.rstate = qsRUNNING → s.ringCtl k e = (s.putConn c { x with q := { x.q with drain := some false } }, some scOK)) ∧
    (leAt e 12 1 % 4 = 2 → x.rstate ≠ qsRUNNING → s.ringCtl k e = (s, some scBAD_STATE)) ∧
    (leAt e 12 1 % 4 = 3 → (x.rstate = qsHALTED ∨ x.rstate = qsERROR) → s.ringCtl k e =
      (s.putConn c { x with q := { x.q with drain := some true }, work := [], ents := [], pkts := x.pkts.filter fun p => p.psn.isSome }, some scOK)) ∧
    (leAt e 12 1 % 4 = 3 → (x.rstate = qsDISABLED ∨ x.rstate = qsRUNNING) → s.ringCtl k e = (s, some scBAD_STATE))) ∧
  (∀ (k : Fin 256) (v : DWord) (s : State), s.halted = true → exec (.shardoDoorbell k v) s = .next s) ∧
  (∀ (k : Fin 256) (v : DWord) (c : Nat) (x : Conn) (s : State), s.halted = false → s.shxOn = true → s.bound k = true → s.slicePf k = 3 → bits v.toNat 35 16 < (s.share .conn k).2 →
    c = (s.share .conn k).1 + bits v.toNat 35 16 → s.conn c = some x →
    (s.shx.cache.contains c = true → exec (.shardoDoorbell k v) s = .next ((((s.startClocks [ckSYS, ckSHX]).ctxTouch c).connTail c (v.toNat % 65536)).nvSweep)) ∧
    (s.shx.cache.contains c = false → exec (.shardoDoorbell k v) s =
      .next ((({ s.startClocks [ckSYS, ckSHX] with shx := { s.shx with doorWait := s.shx.doorWait ++ [(c, v.toNat % 65536)] } } : State).ctxAsk c).nvSweep))) ∧
  (∀ (c t : Nat) (x : Conn) (s : State), s.conn c = some x → x.kind = ckRING → x.rstate ≠ qsDISABLED →
    (t < x.ringM → qDist x.ringM x.head x.tail ≤ qDist x.ringM x.head t → qDist x.ringM x.head t ≤ x.ringN → s.connTail c t = (s.putConn c { x with tail := t }).connFetch c) ∧
    (x.ringM ≤ t → s.connTail c t = s.connError c qrBAD_TAIL t)) ∧
  (∀ (c : Fin 1048576) (x : Conn) (i n : Nat) (rest : List (Nat × Nat)) (data : List Byte) (s : State), s.conn c = some x → x.q.asked = (i, n) :: rest →
    x.rstate = qsRUNNING → x.q.drain = none →
    exec (.sendEntryFetched c data) s = .next ((((splitEntries 64 x.ringM data n i).foldl (fun s y => s.sendEntry c y.1 y.2)
      ((s.readOver 3 (.conn c)).putConn c { x with q := { x.q with asked := rest } })).connFetch c).nvSweep)) ∧
  (∀ (c i r : Nat) (x : Conn) (e : List Byte) (s : State), s.conn c = some x → x.rstate = qsRUNNING → sendBad x.version e = some r →
    s.sendEntry c i e = s.connStop c qsERROR r i) ∧
  (∀ (c : Fin 1048576) (x : Conn) (w : Work) (ws : List Work) (data : List Byte) (s : State), s.conn c = some x → x.work = w :: ws → x.kind = ckRING → s.copyRoom w.pkt.len = true →
    exec (.sendDataCompletion c data) s =
      .next (((s.readOver 3 (.conn c)).putConn c ({ x with work := ws, pkts := x.pkts ++ [{ w.pkt with data := slice data 0 w.pkt.len }] } : Conn).pump).nvSweep)) ∧
  (∀ (c : Fin 1048576) (x : Conn) (k : Pkt) (r : Bool) (s : State), s.conn c = some x → (x.kind = ckRING ∨ x.work = []) →
    x.out.find? Answer.paced = none → x.state = csOPEN → x.hellos = 0 → s.ready 16 = true → x.pause = none → x.quiet = none → s.inPace x = true →
    s.nextPkt x = some (k, r) → cellsOf (k.len + 160) ≤ s.poolFree → exec (.packetSend c) s = .next ((s.sendPkt c x k r).nvSweep)) ∧
  (∀ (c : Fin 1048576) (x : Conn) (s : State), s.conn c = some x → (x.kind = ckRING ∨ x.work = []) → x.out.find? Answer.paced = none →
    (s.nextPkt x = none ∨ x.state ≠ csOPEN ∨ s.ready 16 = false ∨ x.pause ≠ none ∨ x.quiet ≠ none ∨ s.inPace x = false) →
    exec (.packetSend c) s = .next s.nvSweep) ∧
  (∀ (c : Fin 1048576) (x y : Conn) (a : Answer) (s : State), s.conn c = some x → (x.kind = ckRING ∨ x.work = []) →
    x.out.find? Answer.paced = some a → y = { x with out := dropFirst a x.out } → s.mayAnswer { y with out := [] } a = true →
    exec (.packetSend c) s = .next (((s.putConn c y).answerNow c a).nvSweep)) ∧
  (∀ (x : Conn) (a : Answer) (s : State), a.paced = true → s.mayAnswer x a = true →
    x.quiet = none ∧ s.ready 16 = true ∧ 0 < x.rate ∧ x.paceAt ≤ s.shxNs * 1000 + 40000 ∧ ∀ z ∈ x.out, z.paced = false) ∧
  (∀ (x : Conn) (k : Pkt) (s : State), x.cursor = none → x.unsent = some k →
    s.nextPkt x = (if psnDist x.unack x.sendPsn < x.window ∧ s.connFrozen x = false ∧ (k.op ≠ opREAD_REQ ∨ (x.readsOut < 64 ∧ s.readsOut < 16384)) then some (k, false) else none)) ∧
  (∀ (c : Nat) (x : Conn) (k : Pkt) (s : State), k.psn = none → x.ents = [] →
    (x.rstate ≠ qsRUNNING) → ∃ y, (s.sendPkt c x k false).conn c = some y ∧ y.sendPsn = (x.sendPsn + 1) % 2 ^ 24 ∧ y.pkts.length = x.pkts.length ∧
      y.pkts = modFirst (fun k => k.psn.isNone) (fun k => { k with psn := some x.sendPsn }) x.pkts) ∧
  (∀ (k c : Nat) (bs : List Byte) (place : Nat) (rest : List (Nat × List Byte × Nat)) (s : State), s.mpi.exports = (k, bs, place) :: rest → s.mpiHeld = false →
    c = s.act (MpiMaster.adr k) MpiMaster.exportConn → (∀ x, s.conn c = some x → s.exportOk x = false) →
    exec .generatorExport s = .next ((s.modMpi fun m => { m with exports := rest }).shxEvent 10 c 0)) ∧
  (∀ (x : Conn) (s : State), s.exportOk x = true ↔ x.kind = ckEXPORT ∧ x.state = csOPEN ∧ x.version = 2 ∧ 0 < x.rate ∧
    x.paceAt ≤ s.shxNs * 1000 + 40000 ∧ psnDist x.unack x.sendPsn + x.work.length + (x.pkts.filter fun k => k.psn.isNone).length < x.window) ∧
  (∀ (s : State), s.mpiHeld = true → exec .generatorExport s = .next s) ∧
  (∀ (k : Nat) (bs : List Byte) (place c : Nat) (rest : List (Nat × List Byte × Nat)) (x : Conn) (p : Pkt) (s : State), s.mpi.exports = (k, bs, place) :: rest →
    s.mpiHeld = false → c = s.act (MpiMaster.adr k) MpiMaster.exportConn → s.conn c = some x → s.exportOk x = true →
    p = { tag := 0, op := opTIMED_WRITE, key := s.act (MpiMaster.adr k) MpiMaster.exportKey, addr := s.act (MpiMaster.adr k) MpiMaster.exportAddr, len := 32
          time := (stampOf place).toNat, last := true, data := slice bs 0 32, dest := [], via := none, psn := none, acked := false } →
    (s.shx.cache.contains c = true → exec .generatorExport s =
      .next (((((s.modMpi fun m => { m with exports := rest }).ctxTouch c).toConn c [p]).pace c).nvSweep)) ∧
    (s.shx.cache.contains c = false → exec .generatorExport s = .next (s.ctxAsk c))) ∧
  (∀ (c : Nat) (p : Pkt) (x : Conn) (s : State), s.conn c = some x → x.kind ≠ ckRING → x.work = [] →
    ∃ y, (s.toConn c [p]).conn c = some y ∧ y.state = x.state ∧ y.sendPsn = x.sendPsn ∧
      (s.copyRoom p.data.length = true → y.pkts = x.pkts ++ [p] ∧ y.work = []) ∧
      (s.copyRoom p.data.length = false → y.pkts = x.pkts ∧ y.work = [⟨0, p⟩]))

/-- Arriving packets meet the checks of their connection, and are accepted, answered or refused (R384, R386, R390, R391, R392, R394, R403, R404, R405, R406, R409, R411). -/
def Obligations.PacketsAreReceived : Prop :=
  (∀ (f : PFrame) (rest : List PFrame) (h : ShHdr) (ip : IpHdr) (s u : State), takeSteered s.pp.toShx = some (f, rest) →
    u = ({ s.startClocks [ckSHX] with pp := { s.pp with toShx := rest } } : State).freeCells (inPortOf f.role f.input) (cellsOf f.bytes.length) →
    f.fcs = some true → u.shxOn = true → u.shxParse f = some (h, ip) →
    (h.op = opWRITE → exec .write s = .next (u.shxArrive f h ip false).nvSweep) ∧
    (h.op = opREAD_REQ → exec .readReq s = .next (u.shxArrive f h ip false).nvSweep) ∧
    (h.op = opREAD_RESP → exec .readResp s = .next (u.shxArrive f h ip false).nvSweep) ∧
    (h.op = opACK → exec .ack s = .next (u.shxArrive f h ip false).nvSweep) ∧
    (h.op = opNAK → exec .nak s = .next (u.shxArrive f h ip false).nvSweep) ∧
    (h.op = opFLUSH → exec .flush s = .next (u.shxArrive f h ip false).nvSweep) ∧
    (h.op = opFLUSH_ACK → exec .flushAck s = .next (u.shxArrive f h ip false).nvSweep) ∧
    (h.op = opTIMED_WRITE → exec .timedWrite s = .next (u.shxArrive f h ip false).nvSweep) ∧
    (h.op = opHELLO → exec .hello s = .next (u.shxArrive f h ip false).nvSweep) ∧
    (h.op = opRESYNC → exec .resync s = .next (u.shxArrive f h ip false).nvSweep) ∧
    (h.op = opNOT_READY → exec .notReady s = .next (u.shxArrive f h ip false).nvSweep)) ∧
  (∀ (f : PFrame) (h : ShHdr) (ip : IpHdr) (s : State), s.conn h.conn = none →
    s.shxArrive f h ip false = if h.request = true then s.sendResync h.conn 1 (backPath f ip) h else if h.op = opHELLO then s.badPacket else s) ∧
  (∀ (f : PFrame) (h : ShHdr) (ip : IpHdr) (x : Conn) (s : State), s.conn h.conn = some x → x.state ≠ csFAILED → h.keyed = false → s.shx.parked = [] →
    (s.shx.cache.contains h.conn = true → s.shxArrive f h ip false = (s.ctxTouch h.conn).shxLookedUp f h ip h.conn x) ∧
    (s.shx.cache.contains h.conn = false → h.request = true → s.ustate 16 = stHELD → s.shxArrive f h ip false = s.sendNotReady h.conn h.psn true) ∧
    (s.shx.cache.contains h.conn = false → (h.request = false ∨ s.ustate 16 ≠ stHELD) → s.shxArrive f h ip false =
      (({ s with shx := { s.shx with parked := [(h.conn, none, f)] } } : State).set ShxMiss.adr ShxMiss.used 1).ctxAsk h.conn)) ∧
  (∀ (f : PFrame) (h : ShHdr) (ip : IpHdr) (x : Conn) (s : State), s.conn h.conn = some x → x.state = csFAILED →
    s.shxArrive f h ip false = if h.request = true then s.sendResync h.conn 2 (backPath f ip) h else if h.op = opHELLO then s.hello h.conn x h f ip
      else if h.epoch ≠ x.epoch then s.shxStat ShxStat.staleEpoch else s) ∧
  (∀ (f : PFrame) (h : ShHdr) (ip : IpHdr) (c : Nat) (x : Conn) (s : State), x.auth = false → h.authed = false →
    (h.request = true → (x.state ≠ csOPEN ∨ h.ver = x.version) → s.shxLookedUp f h ip c x = s.request c x h (ip.ecn == 3)) ∧
    (h.request = false → h.op ≠ opHELLO → h.epoch = x.epoch → x.state = csOPEN → h.ver = x.version → s.shxLookedUp f h ip c x = s.answer c x h) ∧
    (h.request = false → h.op ≠ opHELLO → (x.state ≠ csOPEN ∨ h.ver = x.version) → h.epoch ≠ x.epoch →
      s.shxLookedUp f h ip c x = s.shxStat ShxStat.staleEpoch) ∧
    (h.op ≠ opHELLO → x.state = csOPEN → h.ver ≠ x.version → s.shxLookedUp f h ip c x = s.badPacket) ∧
    (h.op = opHELLO → s.shxLookedUp f h ip c x = s.hello c x h f ip)) ∧
  (∀ (f : PFrame) (h : ShHdr) (ip : IpHdr) (c : Nat) (x : Conn) (s u : State), x.auth = true → h.authed = true → u = s.keyMet (s.connSlot x) →
    u.authOk x h = false → s.shxLookedUp f h ip c x = (u.badPacket).igeEvent 7 (u.connSlot x)) ∧
  (∀ (f : PFrame) (h : ShHdr) (ip : IpHdr) (c : Nat) (x : Conn) (s : State), x.auth = false → h.authed = true → s.shxLookedUp f h ip c x = s.badPacket) ∧
  (∀ (c : Nat) (x : Conn) (h : ShHdr) (ce : Bool) (s : State), h.epoch ≠ x.epoch → s.request c x h ce = s.shxStat ShxStat.staleEpoch) ∧
  (∀ (c : Nat) (x : Conn) (h : ShHdr) (ce : Bool) (s : State), h.epoch = x.epoch → x.state ≠ csOPEN → s.request c x h ce = s) ∧
  (∀ (c : Nat) (x : Conn) (h : ShHdr) (ce : Bool) (s : State), h.epoch = x.epoch → x.state = csOPEN → ¬(h.op = opTIMED_WRITE ∧ x.version = 1) →
    s.connFrozen x = false → s.ustate 16 ≠ stHELD →
    (psnDist x.expected h.psn = 0 → s.request c x h ce = s.inOrder c x h ce) ∧
    (2 ^ 24 - 2 ^ 22 ≤ psnDist x.expected h.psn → s.request c x h ce = s.duplicate c h ce) ∧
    (0 < psnDist x.expected h.psn → psnDist x.expected h.psn < 2 ^ 22 → x.gap = none →
      s.request c x h ce = (s.sendNak c 0x01).modConn c fun x => { x with gap := some s.shxNs }) ∧
    (2 ^ 22 ≤ psnDist x.expected h.psn → psnDist x.expected h.psn < 2 ^ 24 - 2 ^ 22 → s.request c x h ce = s.badPacket)) ∧
  (∀ (c : Nat) (x : Conn) (h : ShHdr) (ce : Bool) (s : State), h.op = opWRITE → s.regionBad x h = none →
    s.inOrder c x h ce = (s.connPlace c (h.key % 2 ^ 24) h.addr h.payload false).accept c h ce false) ∧
  (∀ (c : Nat) (h : ShHdr) (ce : Bool) (s : State),
    (h.op = opREAD_REQ → s.duplicate c h ce = ((s.shxStat ShxStat.duplicate).countCe c ce).addTodo c h) ∧
    (h.op ≠ opREAD_REQ → s.duplicate c h ce = ((s.shxStat ShxStat.duplicate).countCe c ce).sendAck c false)) ∧
  (∀ (c code : Nat) (x : Conn) (h : ShHdr) (ce : Bool) (s : State), h.op ≠ opFLUSH → s.regionBad x h = some code → s.inOrder c x h ce = s.fatalNak c code) ∧
  (∀ (x : Conn) (h : ShHdr) (s : State), s.regionBad x h = none →
    (s.region (h.key % 2 ^ 24)).valid = true ∧ h.key / 2 ^ 24 = (s.region (h.key % 2 ^ 24)).gen ∧
    (h.op = opWRITE → (s.region (h.key % 2 ^ 24)).write = true) ∧ (h.op = opREAD_REQ → (s.region (h.key % 2 ^ 24)).read = true) ∧
    (x.kind = ckRING → (s.region (h.key % 2 ^ 24)).lead = false ∧ (s.region (h.key % 2 ^ 24)).slice = x.slice) ∧
    ((s.region (h.key % 2 ^ 24)).mpi = false → h.addr + h.len ≤ (s.region (h.key % 2 ^ 24)).length)) ∧
  (∀ (c : Nat) (x : Conn) (h : ShHdr) (ce late : Bool) (s : State), s.conn c = some x → ∃ y, (s.accept c h ce late).conn c = some y ∧ y.expected = (x.expected + 1) % 2 ^ 24 ∧
    y.state = x.state ∧ y.epoch = x.epoch ∧ y.sendPsn = x.sendPsn ∧ y.pkts = x.pkts) ∧
  (∀ (c : Nat) (h : ShHdr) (ce : Bool) (s : State) (d : Int), d = toSigned 32 ((h.time + 2 ^ 32 - (stampOf (s.shadowNs .shx)).toNat) % 2 ^ 32) →
    ((s.act ShxTw.adr ShxTw.horizon * 1000000 : Nat) < d → s.timedWrite c h ce = s.fatalNak c 0x13) ∧
    (d ≤ 0 → s.timedWrite c h ce = (((s.connPlace c (h.key % 2 ^ 24) h.addr h.payload).shxStat ShxStat.twLate).shxEvent 9 c 0).tickFree.accept c h ce true) ∧
    (0 < d → d ≤ (s.act ShxTw.adr ShxTw.horizon * 1000000 : Nat) → s.shx.held.length < heldSlots →
      s.timedWrite c h ce = ((({ s with shx := { s.shx with nextHeld := s.shx.nextHeld + 1 } } : State).setHeld (insertHeld
        { id := s.shx.nextHeld, conn := c, region := h.key % 2 ^ 24, due := (s.shadowNs .shx : Int) + d, addr := h.addr, data := h.payload } s.shx.held)).tickFree).accept c h ce false) ∧
    (0 < d → d ≤ (s.act ShxTw.adr ShxTw.horizon * 1000000 : Nat) → heldSlots ≤ s.shx.held.length → s.timedWrite c h ce = (s.sendNak c 0x02).shxEvent 8 c 0x02)) ∧
  (∀ (c : Nat) (x : Conn) (h : ShHdr) (s : State), h.op = opRESYNC → s.answer c x h = s.connFail c 0x22) ∧
  (∀ (c : Nat) (x : Conn) (h : ShHdr) (s : State), h.op ≠ opRESYNC → x.inFlight h.psn = false →
    ((h.op ≠ opREAD_RESP ∧ h.op ≠ opFLUSH_ACK) ∨ x.waitsFor h.psn = false) → s.answer c x h = s) ∧
  (∀ (c : Nat) (x : Conn) (h : ShHdr) (s : State), (x.inFlight h.psn = true ∨ x.waitsFor h.psn = true) →
    (h.op = opREAD_RESP → s.answer c x h = s.readResp c x h) ∧
    (h.op = opFLUSH_ACK → s.answer c x h =
      ((s.takeAck c h.psn h.marks).modConn c fun y => s.restart (y.answered h.psn) true).connDone c)) ∧
  (∀ (c : Nat) (x : Conn) (h : ShHdr) (s : State), x.inFlight h.psn = true →
    (h.op = opACK → s.answer c x h = (s.takeAck c h.psn h.marks).connDone c) ∧
    (h.op = opNOT_READY → s.answer c x h = s.pauseFor c h.code h.psn false) ∧
    (h.op = opNAK → 0x10 ≤ h.code → s.answer c x h = ((s.takeAck c ((h.psn + 2 ^ 24 - 1) % 2 ^ 24) h.marks).connDone c).connFail c 0x20) ∧
    (h.op = opNAK → h.code = 1 → s.answer c x h = ((s.takeAck c ((h.psn + 2 ^ 24 - 1) % 2 ^ 24) h.marks).connDone c).goBack c h.psn)) ∧
  (∀ (x : Conn) (p : Nat), ∀ k ∈ (x.ack p).1.pkts, (k.op = opWRITE ∨ k.op = opTIMED_WRITE) → k.acked = false → k.ackedBy p = false) ∧
  (∀ (h : HeldWrite) (l : List HeldWrite), (insertHeld h l).Perm (h :: l) ∧ (l.Pairwise (fun a b => a.due ≤ b.due) → (insertHeld h l).Pairwise (fun a b => a.due ≤ b.due)))

/-- Context and read completions, held writes, and the timers of a connection (R389, R393, R394, R395, R398, R405, R406, R407, R408, R411, R414). -/
def Obligations.CompletionsAndTimersOfShardo : Prop :=
  (∀ (c : Fin 1048576) (s : State), s.reading 3 (.ctx c) = true →
    exec (.contextFetchComplete false c) s = .next (((((s.readEnds 3 (.ctx c)).ctxEnter c).doorbells c).unpark
      (((s.readEnds 3 (.ctx c)).ctxEnter c).doorbells c).shx.parked.length).askAgain.nvSweep)) ∧
  (∀ (i : Fin 1048576) (s : State), s.reading 3 (.region i) = true →
    exec (.contextFetchComplete true i) s = .next ((((s.readEnds 3 (.region i)).regionTouch i).unpark
      ((s.readEnds 3 (.region i)).regionTouch i).shx.parked.length).askAgain.nvSweep)) ∧
  (∀ (c : Nat) (s : State), (s.ctxEnter c).shx.cache.head? = some c) ∧
  (∀ (c : Fin 1048576) (x : Conn) (t : Todo) (ts : List Todo) (s : State), s.conn c = some x → x.todo = t :: ts → t.flush = true → t.issued = true → s.blockTarget x = false →
    exec (.flushReadbackComplete c) s = .next ((((s.readOver 3 (.remote c)).sendFlushAck c t.psn).modConn c fun x => { x with todo := ts }).nvSweep)) ∧
  (∀ (c : Fin 1048576) (x : Conn) (t : Todo) (ts : List Todo) (data : List Byte) (s : State), s.conn c = some x → x.todo = t :: ts → t.flush = false → t.issued = true →
    exec (.regionReadComplete c data) s = .next ((((s.readOver 3 (.remote c)).sendReadResp c t.psn (slice data 0 t.len)).modConn c fun x => { x with todo := ts }).nvSweep)) ∧
  (∀ (c : Fin 1048576) (x : Conn) (t : Nat) (s : State), s.conn c = some x → x.rtoAt = some t → t ≤ s.shxNs + 40 → x.state = csOPEN → s.ready 16 = true → x.outstanding = true →
    (x.tries + 1 < s.act ShxRetx.adr ShxRetx.retryLimit → exec (.retransmitTimerExpiry c) s = .next (s.putConn c { x with
      tries := x.tries + 1, rto := min (2 * x.rto) (s.act ShxRetx.adr ShxRetx.rtoMax)
      rtoAt := some (s.shxNs + min (2 * x.rto) (s.act ShxRetx.adr ShxRetx.rtoMax) * 1000), cursor := some x.oldest })) ∧
    (s.act ShxRetx.adr ShxRetx.retryLimit ≤ x.tries + 1 → exec (.retransmitTimerExpiry c) s = .next (s.connFail c 0x21).nvSweep)) ∧
  (∀ (c : Fin 1048576) (s : State), s.ready 16 = false →
    exec (.retransmitTimerExpiry c) s = .next s ∧ exec (.helloRetry c) s = .next s ∧ exec (.ackTimer c) s = .next s ∧
    exec (.backoffEnd c) s = .next s ∧ exec (.timedFullWaitEnd c) s = .next s ∧ exec (.growthEvent c) s = .next s ∧ exec (.alphaDecay c) s = .next s) ∧
  (∀ (c : Fin 1048576) (x : Conn) (s : State), s.conn c = some x → x.state = csCONNECTING → x.helloAt ≤ s.shxNs + 40 → s.ready 16 = true →
    (x.hellos < s.act ShxRetx.adr ShxRetx.retryLimit →
      exec (.helloRetry c) s = .next ((s.putConn c { x with hellos := x.hellos + 1, helloAt := s.shxNs + s.rtoNs }).sendHello c false false)) ∧
    (s.act ShxRetx.adr ShxRetx.retryLimit ≤ x.hellos → exec (.helloRetry c) s = .next (s.connFail c 0x21).nvSweep)) ∧
  (∀ (c code : Nat) (x : Conn) (s : State), s.conn c = some x → x.rstate ≠ qsRUNNING →
    ∃ y, (s.connFail c code).conn c = some y ∧ y.state = csFAILED ∧ y.pkts = [] ∧ y.work = [] ∧ y.ents = [] ∧ y.todo = [] ∧ y.epoch = x.epoch) ∧
  (∀ (c : Fin 1048576) (x : Conn) (t : Nat) (s : State), s.conn c = some x → x.quiet = some t → t ≤ s.shxNs + 40 → s.ready 16 = true →
    exec (.backoffEnd c) s = .next (((s.putConn c { x with quiet := none }).pauseEnds c false).sayOn c)) ∧
  (∀ (c : Fin 1048576) (s : State), s.ready 16 = true → exec (.timedFullWaitEnd c) s = .next (s.pauseEnds c true)) ∧
  (∀ (c : Nat) (x : Conn) (t p : Nat) (full : Bool) (s : State), s.conn c = some x → x.pause = some (t, p, full) →
    (t ≤ s.shxNs + 40 → s.pauseEnds c full = (s.putConn c { x with pause := none }).goBack c p) ∧
    (s.shxNs + 40 < t → s.pauseEnds c full = s) ∧ s.pauseEnds c (!full) = s) ∧
  (∀ (c p : Nat) (x : Conn) (s : State), s.conn c = some x → ∃ y, (s.goBack c p).conn c = some y ∧ y.cursor = some (p % 2 ^ 24) ∧ y.pkts = x.pkts ∧ y.sendPsn = x.sendPsn ∧ y.rate = x.rate) ∧
  (∀ (c : Fin 1048576) (x : Conn) (t : Nat) (s : State), s.conn c = some x → x.ackFrom = some t → t + s.act ShxAck.adr ShxAck.ackTime * 1000 ≤ s.shxNs + 40 →
    s.ready 16 = true → .ack false ∉ x.out →
    exec (.ackTimer c) s = .next (s.sendAck c false)) ∧
  (∀ (c : Nat) (x : Conn) (late : Bool) (s : State), s.conn c = some x → (x.quiet ≠ none ∨ s.ready 16 = false) →
    s.sendAck c late = s.putConn c { x with out := x.out ++ [.ack late] }) ∧
  (∀ (c : Nat) (x : Conn) (late : Bool) (s : State), s.conn c = some x → x.quiet = none → s.ready 16 = true →
    ∃ y, (s.sendAck c late).conn c = some y ∧ y.marks = 0 ∧ y.accepted = 0 ∧ y.ackFrom = none ∧ y.expected = x.expected) ∧
  (∀ (c : Fin 1048576) (x : Conn) (s : State), s.conn c = some x → x.state = csOPEN → s.ready 16 = true →
    (x.growAt + s.act ShxCc0.adr ShxCc0.incTime * 1000 ≤ s.shxNs + 40 ∨ s.act ShxCc1.adr ShxCc1.incBytes * 1024 ≤ x.growBytes) →
    (x.growMark = false → exec (.growthEvent c) s = .next (s.putConn c { x with
      streak := min (x.streak + 1) (s.act ShxCc0.adr ShxCc0.stepCap)
      rate := min (s.connPortRate x) (x.rate + s.act ShxCc2.adr ShxCc2.stepRate * min (x.streak + 1) (s.act ShxCc0.adr ShxCc0.stepCap))
      growAt := s.shxNs, growBytes := 0 })) ∧
    (x.growMark = true → exec (.growthEvent c) s = .next (s.putConn c { x with streak := 0, growAt := s.shxNs, growBytes := 0, growMark := false }))) ∧
  (∀ (c : Fin 1048576) (x : Conn) (s : State), s.conn c = some x → x.state = csOPEN → s.ready 16 = true → x.decayAt ≤ s.shxNs + 40 →
    exec (.alphaDecay c) s = .next (s.putConn c { x with
      alpha := x.alpha * (2 ^ s.act ShxCc0.adr ShxCc0.gShift - 1) / 2 ^ s.act ShxCc0.adr ShxCc0.gShift
      decayAt := s.shxNs + s.act ShxCc1.adr ShxCc1.alphaTime * 1000 })) ∧
  (∀ (h : HeldWrite) (hs : List HeldWrite) (s u : State), s.shx.held = h :: hs → h.due ≤ (s.lineNs + 40 : Nat) → s.shx.placed = [] →
    u = ((s.setHeld hs).prestartEnds (s.placeKind h) fun t => t == h.due.toNat && !hs.any fun g => g.due == h.due && s.placeKind g == s.placeKind h).connPlace
      h.conn h.region h.addr h.data →
    exec .timedWritePlacement s = .next ((({ u with shx := { u.shx with placed := [h.due] } } : State).todo h.conn).tickFree).nvSweep) ∧
  (∀ (h : HeldWrite) (hs : List HeldWrite) (s : State), s.shx.held = h :: hs → ¬ h.due ≤ (s.lineNs + 40 : Nat) → exec .timedWritePlacement s = .next s) ∧
  (∀ (i addr : Nat) (data : List Byte) (s : State), (s.region i).mpi = false → s.placeInto i addr data = s.sliceData (s.region i).slice (((s.region i).base + addr) % 2 ^ 64) data)

/-- Queues of the storage front end and its admin commands (R92, R424, R425, R426, R427, R428, R435, R436, R437, R438). -/
def Obligations.StorageQueuesAndAdminCommands : Prop :=
  (∀ (y : Fin 1025) (q : NvSq) (v : BitVec 16) (s : State), s.sq y = some q →
    (v.toNat < q.size → s.halted = false → exec (.sqTailDoorbell y v) s = .next (((s.startClocks [ckSYS, ckNVF]).putSq y { q with tail := v.toNat }).nvSweep)) ∧
    (q.size ≤ v.toNat ∨ s.halted = true → exec (.sqTailDoorbell y v) s = .next s)) ∧
  (∀ (y : Fin 1025) (q : NvCq) (v : BitVec 16) (s : State), s.cq y = some q →
    (v.toNat < q.size → s.halted = false → exec (.cqHeadDoorbell y v) s = .next (((s.startClocks [ckSYS, ckNVF]).putCq y { q with head := v.toNat }).nvDrain y s.nvf.held.length).nvSweep) ∧
    (q.size ≤ v.toNat ∨ s.halted = true → exec (.cqHeadDoorbell y v) s = .next s)) ∧
  (∀ (q : NvSq) (e : List Byte) (st d : Nat) (s t : State), s.sq 0 = some q → q.asked ≠ 0 → nvReserved e = false →
    (nvOp e = 0x08 → (s.nvTaken 0 q).nvAbort e = (t, st, d) → exec (.abort e) s = .next (t.nvAnswer 0 (nvCid e) st d).nvSweep) ∧
    (nvOp e = 0x01 → (s.nvTaken 0 q).createSq e = (t, st, d) → exec (.createIoSq e) s = .next (t.nvAnswer 0 (nvCid e) st d).nvSweep) ∧
    (nvOp e = 0x05 → (s.nvTaken 0 q).createCq e = (t, st, d) → exec (.createIoCq e) s = .next (t.nvAnswer 0 (nvCid e) st d).nvSweep)) ∧
  (∀ (q : NvSq) (e : List Byte) (s : State), s.sq 0 = some q → q.asked ≠ 0 → nvReserved e = true → nvOp e = 0x01 →
    exec (.createIoSq e) s = .next ((s.nvTaken 0 q).nvAnswer 0 (nvCid e) nvINVALID_FIELD 0).nvSweep) ∧
  (∀ (e : List Byte) (s : State), (s.sq (nvDw e 10 % 65536) ≠ none ∨ nvDw e 10 % 65536 = 0 ∨ 1024 < nvDw e 10 % 65536) → s.createSq e = (s, nvBAD_QID, 0)) ∧
  (∀ (e : List Byte) (q : NvCq) (s : State), s.sq (nvDw e 10 % 65536) = none → 0 < nvDw e 10 % 65536 → nvDw e 10 % 65536 ≤ 1024 → 0 < nvDw e 10 / 65536 → nvDw e 10 / 65536 ≤ 32767 →
    0 < nvDw e 11 / 65536 → s.cq (nvDw e 11 / 65536) = some q → s.nvSlice (nvDw e 11 / 65536) = s.nvSlice (nvDw e 10 % 65536) → bit (nvDw e 11) 0 = true → leAt e 24 8 % 4096 = 0 →
    s.createSq e = (s.putSq (nvDw e 10 % 65536) { base := leAt e 24 8, size := nvDw e 10 / 65536 + 1, cq := nvDw e 11 / 65536, head := 0, tail := 0, asked := 0 }, nvOK, 0)) ∧
  (∀ (e : List Byte) (s : State), s.cq (nvDw e 10 % 65536) = none → 0 < nvDw e 10 % 65536 → nvDw e 10 % 65536 ≤ 1024 → 0 < nvDw e 10 / 65536 → nvDw e 10 / 65536 ≤ 32767 →
    ((∀ k, s.nvSlice (nvDw e 10 % 65536) = some k → s.vectorOk k (nvDw e 11 / 65536) = true) →
      (s.nvSlice (nvDw e 10 % 65536) = none → bit (nvDw e 11) 1 = false ∨ nvDw e 11 / 65536 < 2048) → bit (nvDw e 11) 0 = true → leAt e 24 8 % 4096 = 0 →
      s.createCq e = (s.putCq (nvDw e 10 % 65536)
        { base := leAt e 24 8, size := nvDw e 10 / 65536 + 1, head := 0, tail := 0, phase := true, ien := bit (nvDw e 11) 1, vector := nvDw e 11 / 65536 }, nvOK, 0)) ∧
    (∀ k, s.nvSlice (nvDw e 10 % 65536) = some k → s.vectorOk k (nvDw e 11 / 65536) = false → s.createCq e = (s, nvBAD_VECTOR, 0))) ∧
  (∀ (y k : Nat) (s : State), y ≠ 0 → s.ownerOf .nvme (y - 1) = some k → s.bound k = true → s.nvSlice y = some k ∧ s.nvPasid y = some (s.slicePasid k)) ∧
  (∀ (q p : NvSq) (e : List Byte) (s : State), s.sq 0 = some q → q.asked ≠ 0 → nvReserved e = false → nvOp e = 0x00 → nvDw e 10 % 65536 ≠ 0 → s.sq (nvDw e 10 % 65536) = some p →
    ∃ t : State, exec (.deleteIoSq e) s = .next (t.nvAnswer 0 (nvCid e) nvOK 0).nvSweep ∧ t.sq (nvDw e 10 % 65536) = none ∧ t.nvf.cqs = s.nvf.cqs ∧
      (∀ l ∈ t.nvf.locks, l.sq ≠ some (nvDw e 10 % 65536)) ∧ (∀ x ∈ t.nvf.fetched, x.sq ≠ nvDw e 10 % 65536) ∧ (∀ d ∈ t.nvf.held, d.sq ≠ nvDw e 10 % 65536)) ∧
  (∀ (q : NvSq) (p : NvCq) (e : List Byte) (s : State), s.sq 0 = some q → q.asked ≠ 0 → nvReserved e = false → nvOp e = 0x04 → nvDw e 10 % 65536 ≠ 0 → s.cq (nvDw e 10 % 65536) = some p →
    ((∀ x ∈ (s.nvTaken 0 q).nvf.sqs, x.2.cq ≠ nvDw e 10 % 65536) → ∃ t : State, exec (.deleteIoCq e) s = .next (t.nvAnswer 0 (nvCid e) nvOK 0).nvSweep ∧ t.cq (nvDw e 10 % 65536) = none ∧
      t.nvf.sqs = (s.nvTaken 0 q).nvf.sqs) ∧
    ((∃ x ∈ (s.nvTaken 0 q).nvf.sqs, x.2.cq = nvDw e 10 % 65536) → exec (.deleteIoCq e) s = .next ((s.nvTaken 0 q).nvAnswer 0 (nvCid e) nvBAD_DELETE 0).nvSweep)) ∧
  (∀ (e : List Byte) (s : State), (∀ l ∈ s.nvf.locks, l.sq = some (nvDw e 10 % 65536) → l.cid = nvDw e 10 / 65536 → s.noneHanded l = false) →
    s.nvAbort e = (s, nvOK, 1)) ∧
  (∀ (l : NvLock) (e : List Byte) (s : State), s.nvf.locks = [l] → l.sq = some (nvDw e 10 % 65536) → l.cid = nvDw e 10 / 65536 → s.noneHanded l = true →
    s.nvAbort e = ((s.unhand l.id).nvFinish l nvABORTED, nvOK, 0)) ∧
  (∀ (l : NvLock) (s : State), (l.phase = .finished → s.noneHanded l = false) ∧ ((∃ p, l.phase = .data p) → s.noneHanded l = true) ∧
    (l.phase = .stalled → s.noneHanded l = true) ∧ (l.phase = .sent → s.unhanded l.id = 0 → s.noneHanded l = false)) ∧
  (∀ (q : NvSq) (e : List Byte) (s : State), s.sq 0 = some q → q.asked ≠ 0 → nvReserved e = false → nvOp e = 0x06 →
    exec (.identify e) s = .next (if 3 < nvDw e 10 % 256 then (s.nvTaken 0 q).nvAnswer 0 (nvCid e) nvINVALID_FIELD 0
      else if adminPrpBad e 4096 then (s.nvTaken 0 q).nvAnswer 0 (nvCid e) nvPRP_OFFSET 0
      else (((s.nvTaken 0 q).adminData e ((s.nvTaken 0 q).identifyData (nvDw e 10 % 256) (nvNsid e))).tickFree).nvAnswer 0 (nvCid e) nvOK 0).nvSweep) ∧
  (∀ (q : NvSq) (e : List Byte) (temp : BitVec 16) (s : State), s.sq 0 = some q → q.asked ≠ 0 → nvReserved e = false → nvOp e = 0x02 → 2 < nvDw e 10 % 256 →
    exec (.getLogPage e temp) s = .next ((s.nvTaken 0 q).nvAnswer 0 (nvCid e) nvBAD_LOG 0).nvSweep) ∧
  (∀ (q : NvSq) (e : List Byte) (temp : BitVec 16) (s : State), s.sq 0 = some q → q.asked ≠ 0 → nvReserved e = false → nvOp e = 0x02 → nvDw e 10 % 256 = 2 →
    ∀ n, n = min ((nvDw e 10 / 65536 + 65536 * (nvDw e 11 % 65536) + 1) * 4) 512 → exec (.getLogPage e temp) s = .next (if adminPrpBad e n then (s.nvTaken 0 q).nvAnswer 0 (nvCid e) nvPRP_OFFSET 0
      else (((s.nvTaken 0 q).adminData e (slice ((s.nvTaken 0 q).smartLog temp.toNat) 0 n)).tickFree).nvAnswer 0 (nvCid e) nvOK 0).nvSweep) ∧
  (∀ (e : List Byte) (n : Nat), adminPrpBad e n = true ↔ leAt e 24 8 % 4 ≠ 0 ∨ 4096 - leAt e 24 8 % 4096 < n ∧ leAt e 32 8 % 4096 ≠ 0) ∧
  (∀ (q : NvSq) (e : List Byte) (s : State), s.sq 0 = some q → q.asked ≠ 0 → nvReserved e = false → nvOp e = 0x09 →
    (nvDw e 10 % 256 ∈ [1, 4, 8, 9, 0x0B] → exec (.setFeatures e) s =
      .next (((s.nvTaken 0 q).modNvf fun x => { x with features := sput 0 x.features (nvDw e 10 % 256) (nvDw e 11) }).nvAnswer 0 (nvCid e) nvOK 0).nvSweep) ∧
    (nvDw e 10 % 256 ∉ nvFeatures → exec (.setFeatures e) s = .next ((s.nvTaken 0 q).nvAnswer 0 (nvCid e) nvINVALID_FIELD 0).nvSweep)) ∧
  (∀ (q : NvSq) (e : List Byte) (s : State), s.sq 0 = some q → q.asked ≠ 0 → nvReserved e = false → nvOp e = 0x0A → nvDw e 10 % 256 ∈ nvFeatures →
    exec (.getFeatures e) s = .next ((s.nvTaken 0 q).nvAnswer 0 (nvCid e) nvOK (s.feature (nvDw e 10 % 256))).nvSweep) ∧
  (∀ s : State, s.feature 6 = 1 ∧ s.feature 7 = 0x03FF03FF) ∧
  (∀ (q : NvSq) (e : List Byte) (s : State), s.sq 0 = some q → q.asked ≠ 0 → nvReserved e = false → nvOp e = 0x0C →
    (s.nvf.aers.length < 4 → exec (.asyncEventRequest e) s = .next (((s.nvTaken 0 q).modNvf fun v => { v with aers := v.aers ++ [nvCid e] }).aerGo).nvSweep) ∧
    (4 ≤ s.nvf.aers.length → exec (.asyncEventRequest e) s = .next ((s.nvTaken 0 q).nvAnswer 0 (nvCid e) nvAER_LIMIT 0).nvSweep)) ∧
  (∀ (cc aqa : Word) (asq acq : DWord) (s : State), s.halted = false → s.nvReady = false → bit cc.toNat 0 = true → s.ready 17 = true → s.nvFatal = false → (bits cc.toNat 6 4 = 0 ∨ bits cc.toNat 6 4 = 6) →
    bits cc.toNat 10 7 = 0 → bits cc.toNat 13 11 = 0 → aqa.toNat % 4096 ≠ 0 → bits aqa.toNat 27 16 ≠ 0 →
    ∃ t p q, exec (.controllerEnable cc aqa asq acq) s = .next t ∧ t.nvReady = true ∧ t.sq 0 = some p ∧ t.cq 0 = some q ∧ p.base = asq.toNat / 4096 * 4096 ∧
      p.size = aqa.toNat % 4096 + 1 ∧ q.base = acq.toNat / 4096 * 4096 ∧ q.size = bits aqa.toNat 27 16 + 1 ∧ t.regs = s.regs) ∧
  (∀ (cc aqa : Word) (asq acq : DWord) (s : State), s.halted = true →
    exec (.controllerEnable cc aqa asq acq) s = .next s ∧ exec .controllerReset s = .next s) ∧
  (∀ s : State, (s.halted = false → exec .controllerReset s = .next s.nvControllerReset.nvSweep) ∧ s.nvControllerReset.nvReady = false ∧ s.nvControllerReset.nvf.sqs = [] ∧ s.nvControllerReset.nvf.cqs = [] ∧ s.nvControllerReset.nvf.fetched = [] ∧
    (∀ l ∈ s.nvControllerReset.nvf.locks, l.sq = none) ∧ s.nvControllerReset.shx = s.shx)

/-- I/O commands take range locks, issue their operations and complete (R429, R430, R431, R432, R433, R434, R436, R437, R443). -/
def Obligations.StorageCommandsLockIssueAndComplete : Prop :=
  (∀ (y : Fin 1025) (q : NvSq) (e : List Byte) (s t : State), y.val ≠ 0 → s.sq y = some q → q.asked ≠ 0 →
    t = ((s.nvTaken y q).modNvf fun v => { v with fetched := fillFetched y e v.fetched }).nvSweep →
    (nvOp e = 0x01 → exec (.nvmeWrite y e) s = .next t) ∧ (nvOp e = 0x02 → exec (.nvmeRead y e) s = .next t) ∧
    (nvOp e = 0x08 → exec (.nvmeWriteZeroes y e) s = .next t) ∧ (nvOp e = 0x00 → exec (.nvmeFlush y e) s = .next t)) ∧
  (∀ (y : Nat) (e : List Byte) (l m : List NvFetched), (∀ x ∈ l, x.sq ≠ y ∨ x.entry ≠ none) →
    fillFetched y e (l ++ { sq := y, entry := none } :: m) = l ++ { sq := y, entry := some e } :: m) ∧
  (∀ (n y : Nat) (e : List Byte) (rest : List NvFetched) (s : State), s.nvf.locks.length < lockSlots → s.nvf.fetched = { sq := y, entry := some e } :: rest →
    s.sliceRoom (s.nvSlice y) = true → s.nvChecks (n + 1) = ((s.modNvf fun v => { v with fetched := rest }).nvRun y e).nvChecks n) ∧
  (∀ (n : Nat) (s : State), (lockSlots ≤ s.nvf.locks.length ∨ (∃ y rest, s.nvf.fetched = { sq := y, entry := none } :: rest) ∨
    ∀ x ∈ s.nvf.fetched, s.sliceRoom (s.nvSlice x.sq) = false) → s.nvChecks n = s) ∧
  (∀ (k : Nat) (s : State), s.service = false → (s.sliceRoom (some k) = true ↔ s.sliceLocks k < lockSlots / s.slices)) ∧
  (∀ (y : Nat) (e : List Byte) (s : State), (nvOp e = 0 → s.nvRun y e = s.nvFlush y e) ∧ (nvOp e = 1 ∨ nvOp e = 2 ∨ nvOp e = 8 → s.nvRun y e = s.nvIo y e) ∧
    (nvOp e ∉ ioOps → s.nvRun y e = s.nvAnswer y (nvCid e) nvINVALID_OPCODE 0)) ∧
  (∀ e : List Byte, ioReserved e = true ↔ leAt e 1 1 ≠ 0 ∨ allZero (slice e 8 16) = false ∨
    if nvOp e = 0 then allZero (slice e 40 24) = false
    else bits (nvDw e 12) 29 16 ≠ 0 ∨ (if nvOp e = 8 then 0 else 255) < nvDw e 13 ∨ nvDw e 14 ≠ 0 ∨ nvDw e 15 ≠ 0) ∧
  (∀ (y : Nat) (e : List Byte) (s : State), ioReserved e = true → s.nvIo y e = s.nvAnswer y (nvCid e) nvINVALID_FIELD 0 ∧ s.nvFlush y e = s.nvAnswer y (nvCid e) nvINVALID_FIELD 0) ∧
  (∀ (y : Nat) (e : List Byte) (s : State), ioReserved e = false → (nvNsid e = 0 ∨ s.nsAllowed y (nvNsid e - 1) = false) → s.nvIo y e = s.nvAnswer y (nvCid e) nvINVALID_NS 0 ∧
    (nvNsid e ≠ 0xFFFFFFFF → s.nvFlush y e = s.nvAnswer y (nvCid e) nvINVALID_NS 0)) ∧
  (∀ (y : Nat) (e : List Byte) (s : State), ioReserved e = false → nvNsid e ≠ 0 → s.nsAllowed y (nvNsid e - 1) = true →
    (1048576 < (leAt e 48 2 + 1) * lbaSize s.inForce (nvNsid e - 1) → s.nvIo y e = s.nvAnswer y (nvCid e) nvINVALID_FIELD 0) ∧
    ((leAt e 48 2 + 1) * lbaSize s.inForce (nvNsid e - 1) ≤ 1048576 → nsBlocks s.inForce (nvNsid e - 1) < leAt e 40 8 + (leAt e 48 2 + 1) → s.nvIo y e = s.nvAnswer y (nvCid e) nvLBA_RANGE 0) ∧
    ((leAt e 48 2 + 1) * lbaSize s.inForce (nvNsid e - 1) ≤ 1048576 → leAt e 40 8 + (leAt e 48 2 + 1) ≤ nsBlocks s.inForce (nvNsid e - 1) →
      ∀ l : NvLock, l = { id := 0, sq := some y, cid := nvCid e, rope := 0, op := nvOp e, nss := [nvNsid e - 1], lba := leAt e 40 8, blocks := leAt e 48 2 + 1
                          fua := nvOp e == 1 && bit (nvDw e 12) 30, prp1 := leAt e 24 8, prp2 := leAt e 32 8, phase := .stalled, flushed := false } →
      (nvOp e = 8 → s.nvIo y e = s.nvLock l) ∧
      (nvOp e = 2 → s.nvIo y e = (s.modNvf fun v => { v with smart := List.zipWith (· + ·) v.smart [(leAt e 48 2 + 1) * lbaSize s.inForce (nvNsid e - 1) / 512, 0, 1, 0] }).nvLock l) ∧
      (nvOp e = 1 → s.nvIo y e = (s.modNvf fun v => { v with smart := List.zipWith (· + ·) v.smart [0, (leAt e 48 2 + 1) * lbaSize s.inForce (nvNsid e - 1) / 512, 0, 1] }).nvLock l))) ∧
  (∀ (y : Nat) (e : List Byte) (s : State), ioReserved e = false → nvNsid e ≠ 0 → nvNsid e ≠ 0xFFFFFFFF → s.nsAllowed y (nvNsid e - 1) = true →
    s.nvFlush y e = s.nvLock { id := 0, sq := some y, cid := nvCid e, rope := 0, op := 0, nss := [nvNsid e - 1], lba := 0, blocks := 0, fua := false
                               prp1 := 0, prp2 := 0, phase := .before, flushed := false }) ∧
  (∀ (y n : Nat) (s : State), s.nsAllowed y n = true → n < 1024 ∧ s.actB (NvfNs.adr n) NvfNs.enable = true ∧ ∀ k, s.nvSlice y = some k → s.act (NvfNs.adr n) NvfNs.slice = k) ∧
  (∀ (l : NvLock) (s : State), (s.takeLock l).nvf.locks = s.nvf.locks ++ [l] ∧
    (s.nvf.locks.length + 1 ≠ lockSlots → s.takeLock l = (s.modNvf fun v => { v with nextId := l.id + 1 }).setLocks (s.nvf.locks ++ [l])) ∧
    (s.nvf.locks.length + 1 = lockSlots → s.takeLock l = ((s.modNvf fun v => { v with nextId := l.id + 1 }).setLocks (s.nvf.locks ++ [l])).nvEvent 5 0)) ∧
  (∀ (l x : NvLock) (s : State), x = { l with id := s.nvf.nextId } →
    (l.phase = .before → s.nvLock l = s.takeLock x) ∧
    (l.phase = .stalled → lockBlocked x s.nvf.locks = true → s.nvLock l = s.takeLock x) ∧
    (l.phase = .stalled → lockBlocked x s.nvf.locks = false → (s.takeLock x).nvMayIssue x = true → s.nvLock l = (s.takeLock x).nvGranted x)) ∧
  (∀ (x : NvLock) (ls : List NvLock), (∀ l ∈ ls, l.id ≠ x.id) → (lockBlocked x ls = true ↔ ∃ l ∈ ls, (l.op ≠ 2 ∨ x.op ≠ 2) ∧ l.nss = x.nss ∧ l.lba < x.lba + x.blocks ∧ x.lba < l.lba + l.blocks)) ∧
  (∀ (l : NvLock) (s : State), s.nvf.locks.find? (fun l : NvLock => l.phase == .stalled && !lockBlocked l s.nvf.locks && s.nvMayIssue l) = some l → exec .lockGranted s = .next (s.nvGranted l).nvSweep) ∧
  (∀ (l : NvLock) (s : State), (∃ c ∈ s.lockConns l, s.connIsOpen c = false) → s.nvGranted l = s.nvFinish l nvNOT_READY) ∧
  (∀ (l : NvLock) (s : State), (∀ c ∈ s.lockConns l, s.connIsOpen c = true) → l.op ≠ 8 → l.prp1 % 4 ≠ 0 → s.nvGranted l = s.nvFinish l nvPRP_OFFSET) ∧
  (∀ (l : NvLock) (s : State), (∀ c ∈ s.lockConns l, s.connIsOpen c = true) → l.op ≠ 8 → l.prp1 % 4 = 0 → s.lockBytes l ≤ 4096 - l.prp1 % 4096 → s.nvGranted l = s.nvPages l [l.prp1]) ∧
  (∀ (i : Nat) (l : NvLock) (pages : List Nat) (data : List Byte) (s : State), s.lock i = some l → l.phase = .data pages →
    (exec (.nvmeDataCompletion i data true) s = .next (((s.readsOver (.nvme i) s.hif.reads.length).nvFinish l nvDATA_TRANSFER).nvSweep)) ∧
    (s.nvMayIssue l = true →
      exec (.nvmeDataCompletion i data false) s = .next (((s.readsOver (.nvme i) s.hif.reads.length).nvSend l (slice data 0 (s.lockBytes l))).nvSweep))) ∧
  (∀ (i addr : Nat) (l : NvLock) (pages : List Nat) (data : List Byte) (s : State), s.lock i = some l → l.phase = .list addr pages → s.nvMayIssue l = true →
    exec (.nvmeDataCompletion i data false) s = .next (((s.readsOver (.nvme i) s.hif.reads.length).nvListIn l addr pages data).nvSweep)) ∧
  (∀ (i : Nat) (l : NvLock) (data : List Byte) (bad : Bool) (s : State), s.lock i = some l → l.phase = .finished →
    exec (.nvmeDataCompletion i data bad) s = .next (s.readsOver (.nvme i) s.hif.reads.length)) ∧
  (∀ (l : NvLock) (data : List Byte) (s : State),
    ((∃ c ∈ s.lockConns l, s.connIsOpen c = false) → s.nvSend l data = s.nvFinish l nvNOT_READY) ∧
    ((∀ c ∈ s.lockConns l, s.connIsOpen c = true) →
      s.nvSend l data = (s.issueOps l.id opWRITE none (s.lockOps l) data []).modLock l.id fun l => { l with phase := .sent })) ∧
  (∀ (y : Nat) (q : NvSq) (s : State), s.nvMayFetch y q = true → s.ready 17 = true ∧ s.nvReady = true ∧ s.nvFatal = false ∧ s.nvf.locks.length < lockSlots ∧
    (∀ d ∈ s.nvf.held, d.cq ≠ q.cq) ∧ s.sliceRoom (s.nvSlice y) = true ∧ ∀ k, s.nvSlice y = some k → s.frozen k = false) ∧
  (∀ (d : NvDone) (q : NvCq) (s : State), s.cq d.cq = some q → q.full = false → (∀ x ∈ s.nvf.held, x.cq ≠ d.cq) → s.nvPost d = s.nvWrite d q) ∧
  (∀ (d : NvDone) (q : NvCq) (s : State), s.cq d.cq = some q → q.full = true → s.nvPost d = (s.modNvf fun v => { v with held := v.held ++ [d] }).nvEvent 4 d.cq) ∧
  (∀ (d : NvDone) (q : NvCq) (s : State), (s.nvWrite d q).cq d.cq = some { q with tail := (q.tail + 1) % q.size, phase := q.phase != ((q.tail + 1) % q.size == 0) } ∧
    (s.nvWrite d q).nvf.locks = (match d.lock with | some i => s.nvf.locks.filter (fun l => l.id != i) | none => s.nvf.locks) ∧ (s.nvWrite d q).nvf.sqs = s.nvf.sqs)

/-- Namespaces are enabled and disabled, notices are done, and cycles recorded or skipped (R361, R428, R439, R440, R441, R442). -/
def Obligations.NamespacesNoticesAndRecords : Prop :=
  (∀ (o : Origin) (n : Fin 1024) (v : Word) (s u t : State), s.Open o 17 (nvfOff (NvfNs.adr n)) (s.rwlDiffers (NvfNs.adr n) v) false → u = s.awake o 17 →
    t = u.setBits (NvfNs.adr n) (fieldMask (fun f _ => f.acc == .rwl) (NvfNs.adr n)) v → s.actB (NvfNs.adr n) NvfNs.enable = false →
    ((2 ≤ bits v.toNat 29 28 ∨ (offence (fun _ => false) (u.recBad u.inForce) (t.recBad t.inForce)).isSome = true ∨
        v.getLsbD 31 = true ∧ (t.nsEnableOk t.inForce n = false ∨ t.nsEnableOk t.rd n = false)) →
      exec (.namespaceEnable o n v) s = .next (u.raise 17 2 (nvfOff (NvfNs.adr n))).nvSweep) ∧
    (bits v.toNat 29 28 < 2 → offence (fun _ => false) (u.recBad u.inForce) (t.recBad t.inForce) = none →
      (v.getLsbD 31 = false → exec (.namespaceEnable o n v) s = .next t.nvSweep) ∧
      (v.getLsbD 31 = true → t.nsEnableOk t.inForce n = true → t.nsEnableOk t.rd n = true → exec (.namespaceEnable o n v) s = .next (t.nsChanged n).nvSweep))) ∧
  (∀ (o : Origin) (n : Fin 1024) (v : Word) (s u t : State), s.Open o 17 (nvfOff (NvfNs.adr n)) (s.rwlDiffers (NvfNs.adr n) v) false → u = s.awake o 17 →
    t = u.setBits (NvfNs.adr n) (fieldMask (fun f _ => f.acc == .rwl) (NvfNs.adr n)) v → s.actB (NvfNs.adr n) NvfNs.enable = true →
    ((s.rd (NvfNs.adr n) ^^^ v) &&& fieldMask (fun f _ => f.acc == .rwl) (NvfNs.adr n) &&& 0x7FFFFFFF#32 = 0 → v.getLsbD 31 = false → s.nsInUse n = false →
      offence (fun _ => false) (u.recBad u.inForce) (t.recBad t.inForce) = none →
      exec (.namespaceEnable o n v) s = .next (t.nsChanged n).nvSweep) ∧
    (((s.rd (NvfNs.adr n) ^^^ v) &&& fieldMask (fun f _ => f.acc == .rwl) (NvfNs.adr n) &&& 0x7FFFFFFF#32 ≠ 0 ∨ v.getLsbD 31 = true ∨ s.nsInUse n = true) →
      exec (.namespaceEnable o n v) s = .next (u.raise 17 2 (nvfOff (NvfNs.adr n))).nvSweep)) ∧
  (∀ (n e : Nat) (rd : Nat → Word) (s : State), s.nsEnableOk rd n = true → e ∈ nsExtents rd n →
    (∃ x, s.conn (fieldOf rd (NvfExt.adr e) NvfExt.conn) = some x ∧ x.kind = ckSTORAGE) ∧ fieldOf rd (NvfExt.adr e) NvfExt.remoteAddr % lbaSize rd n = 0) ∧
  (∀ (o : Origin) (v : BitVec 16) (s u : State) (old d : Nat), s.Open o 17 0x110C (s.rwlDiffers (NvfTarget.adr + 0xC) (BitVec.ofNat 32 v.toNat)) false → u = s.awake o 17 →
    old = s.get NvfTarget.adr NvfTarget.done → d = qDist (2 * s.targetN) old v.toNat →
    (v.toNat < 2 * s.targetN → d ≤ qDist (2 * s.targetN) old (s.get NvfTarget.adr NvfTarget.head) →
      exec (.targetDone o v) s = .next ((List.range d).foldl (fun (u : State) i => u.noticeDone ((old + i + 1) % (2 * s.targetN))) (u.set NvfTarget.adr NvfTarget.done v.toNat)).nvSweep) ∧
    ((2 * s.targetN ≤ v.toNat ∨ qDist (2 * s.targetN) old (s.get NvfTarget.adr NvfTarget.head) < d) →
      exec (.targetDone o v) s = .next (u.raise 17 2 0x110C))) ∧
  (∀ (i c psn : Nat) (x : Conn) (s : State), s.shx.conns = [(c, x)] → x.notices = [(i, psn)] →
    s.noticeDone i = (s.sendFlushAck c psn).modConn c fun y => { y with notices := y.notices.filter fun n => n.1 != i }) ∧
  (∀ (r : Fin 16) (x : NvRec) (s : State), s.recNext = some x →
    (x.rope = r.val → exec (.recordStart r) s = .next (((s.modNvf fun v => { v with recDue := v.recDue.filter fun y => y.rope != r.val }).record x).nvSweep)) ∧
    (x.rope ≠ r.val → exec (.recordStart r) s = .next s)) ∧
  (∀ (r : Fin 16) (s : State), s.nvf.recDue = [] → exec (.recordStart r) s = .next s) ∧
  (∀ (x : NvRec) (xs : List NvRec) (s : State), s.nvf.recDue = x :: xs → ∃ m, s.recNext = some m ∧ m ∈ x :: xs ∧ m.stamp = x.stamp ∧ m.rope ≤ x.rope ∧
    ∀ y ∈ xs.takeWhile (fun y : NvRec => y.stamp == x.stamp), m.rope ≤ y.rope) ∧
  (∀ (r : Nat) (x : NvRec) (s u : State), u = s.latchChecked 17 (boundaryMask fun x e => x == .publish && decide (NvfRec.adr r ≤ e) && decide (e < NvfRec.adr r + 0x80)) State.recBad →
    (u.actB (NvfRec.adr r) NvfRec.enable = false → s.recPublish r x = u) ∧
    (u.actB (NvfRec.adr r) NvfRec.enable = true → (∃ y ∈ u.nvf.recDue, y.rope = r) → s.recPublish r x = u.raise 4 11 r) ∧
    (u.actB (NvfRec.adr r) NvfRec.enable = true → (∀ y ∈ u.nvf.recDue, y.rope ≠ r) → s.recPublish r x = { u with nvf := { u.nvf with recDue := u.nvf.recDue ++ [x] } })) ∧
  (∀ (x : NvRec) (s : State), (s.ready 17 = false ∨ s.actB (NvfNs.adr (s.act (NvfRec.adr x.rope) NvfRec.ns)) NvfNs.enable = false ∨ lockSlots ≤ s.nvf.locks.length ∨
      ∃ y ∈ s.nvf.locks, y.sq = none ∧ y.rope = x.rope ∧ s.unhanded y.id ≠ 0) →
    s.record x = s.raise 4 11 x.rope) ∧
  (∀ (x : NvRec) (s : State), s.ready 17 = true → s.actB (NvfNs.adr (s.act (NvfRec.adr x.rope) NvfRec.ns)) NvfNs.enable = true → s.nvf.locks = [] →
    (∀ e ∈ nsExtents s.inForce (s.act (NvfRec.adr x.rope) NvfRec.ns), s.connIsOpen (fieldOf s.inForce (NvfExt.adr e) NvfExt.conn) = true) →
    ∃ l, s.record x = (s.takeLock l).issueOps l.id opWRITE none (s.lockOps l) (s.recordBytes x) [] ∧
      l.id = s.nvf.nextId ∧ l.sq = none ∧ l.rope = x.rope ∧ l.op = 1 ∧ l.nss = [s.act (NvfRec.adr x.rope) NvfRec.ns] ∧ l.blocks = recLbas s.inForce x.rope ∧
      l.lba = s.act (NvfRec.adr x.rope) NvfRec.startLba + x.cycle % max 1 (s.act (NvfRec.adr x.rope) NvfRec.slots) * recLbas s.inForce x.rope)

/-- Integrity requests enter the lane and complete, and key slots are loaded, derived and cleared (R337, R348, R449, R452, R453, R454, R455, R457, R458, R459, R467, R470). -/
def Obligations.IntegrityRequestsAndKeys : Prop :=
  (∀ (k : Fin 256) (v : Word) (s : State),
    (s.bound k = true → s.slicePf k = 3 → s.halted = false → s.actB (IgeRq.adr (bits v.toNat 21 16)) IgeRq.fw = false →
      s.act (IgeRq.adr (bits v.toNat 21 16)) IgeRq.slice = k.val →
      exec (.integrityDoorbell (.slice k) v) s = .next (s.doorbell qkIR (bits v.toNat 21 16) (v.toNat % 65536) false)) ∧
    ((s.bound k = false ∨ s.slicePf k ≠ 3 ∨ s.halted = true ∨ s.actB (IgeRq.adr (bits v.toNat 21 16)) IgeRq.fw = true ∨
      s.act (IgeRq.adr (bits v.toNat 21 16)) IgeRq.slice ≠ k.val) → exec (.integrityDoorbell (.slice k) v) s = .next s)) ∧
  (∀ (o : Origin) (v : Word) (s : State), (∀ k, o ≠ .slice k) → s.Open o 18 0x1004 true false →
    (s.actB (IgeRq.adr (bits v.toNat 21 16)) IgeRq.fw = true →
      exec (.integrityDoorbell o v) s = .next ((s.awake o 18).doorbell qkIR (bits v.toNat 21 16) (v.toNat % 65536) false)) ∧
    (s.actB (IgeRq.adr (bits v.toNat 21 16)) IgeRq.fw = false → exec (.integrityDoorbell o v) s = .next (s.awake o 18))) ∧
  (∀ (q : Fin 64) (data e : List Byte) (i f slot : Nat) (pa : Option Nat) (rest : List (Nat × List Byte)) (lost : Bool) (s v : State),
    ((s.qst qkIR q).fetched).drop (s.laneOf q).length = (i, e) :: rest → s.qState qkIR q = qsRUNNING → s.ready 18 = true → s.qVia qkIR q = some (f, pa) →
    ((leAt e 8 4 = 0 ∧ s.qFrozen qkIR q = false ∧ v = s) ∨ (leAt e 8 4 ≠ 0 ∧ 0 < s.readsOf (.integrity q) ∧ v = s.readEnds f (.integrity q))) → slot = s.rqSlot q e →
    ((lost = false ∧ slot ∉ s.ige.badKeys) ∨ s.keyState slot = 0) →
    (leAt e 0 1 % 16 = 1 → exec (.cmacGen q data lost) s = .next { v with ige := { v.ige with msgs := v.ige.msgs ++
      [{ q := q, op := 1, status := s.keyStatus slot 1, key := s.keyOf slot, spoil := 0, entry := e, data := slice data 0 (leAt e 8 4) }] } }) ∧
    (leAt e 0 1 % 16 = 2 → exec (.cmacVerify q data lost) s = .next { v with ige := { v.ige with msgs := v.ige.msgs ++
      [{ q := q, op := 2, status := s.keyStatus slot 2, key := s.keyOf slot, spoil := 0, entry := e, data := slice data 0 (leAt e 8 4) }] } }) ∧
    (leAt e 0 1 % 16 = 3 → exec (.gmacGen q data lost) s = .next { v with ige := { v.ige with msgs := v.ige.msgs ++
      [{ q := q, op := 3, status := s.keyStatus slot 3, key := s.keyOf slot, spoil := 0, entry := e, data := slice data 0 (leAt e 8 4) }] } }) ∧
    (leAt e 0 1 % 16 = 4 → exec (.gmacVerify q data lost) s = .next { v with ige := { v.ige with msgs := v.ige.msgs ++
      [{ q := q, op := 4, status := s.keyStatus slot 4, key := s.keyOf slot, spoil := 0, entry := e, data := slice data 0 (leAt e 8 4) }] } })) ∧
  (∀ (q : Fin 64) (data e : List Byte) (i f slot : Nat) (pa : Option Nat) (rest : List (Nat × List Byte)) (lost : Bool) (s v u : State),
    ((s.qst qkIR q).fetched).drop (s.laneOf q).length = (i, e) :: rest → s.qState qkIR q = qsRUNNING → s.ready 18 = true → s.qVia qkIR q = some (f, pa) →
    ((leAt e 8 4 = 0 ∧ s.qFrozen qkIR q = false ∧ v = s) ∨ (leAt e 8 4 ≠ 0 ∧ 0 < s.readsOf (.integrity q) ∧ v = s.readEnds f (.integrity q))) → slot = s.rqSlot q e →
    (lost = true ∨ slot ∈ s.ige.badKeys) → s.keyState slot ≠ 0 → u = (v.keyLost slot).tickFree →
    u.keyState slot = 0 ∧
    (leAt e 0 1 % 16 = 1 → exec (.cmacGen q data lost) s = .next { u with ige := { u.ige with msgs := u.ige.msgs ++
      [{ q := q, op := 1, status := s.keyStatus slot 1, key := s.keyOf slot, spoil := 1 + v.free % (2 ^ 64 - 1), entry := e, data := slice data 0 (leAt e 8 4) }] } }) ∧
    (leAt e 0 1 % 16 = 2 → exec (.cmacVerify q data lost) s = .next { u with ige := { u.ige with msgs := u.ige.msgs ++
      [{ q := q, op := 2, status := if s.keyStatus slot 2 = 0 then 1 else s.keyStatus slot 2, key := s.keyOf slot, spoil := 1 + v.free % (2 ^ 64 - 1), entry := e, data := slice data 0 (leAt e 8 4) }] } }) ∧
    (leAt e 0 1 % 16 = 3 → exec (.gmacGen q data lost) s = .next { u with ige := { u.ige with msgs := u.ige.msgs ++
      [{ q := q, op := 3, status := s.keyStatus slot 3, key := s.keyOf slot, spoil := 1 + v.free % (2 ^ 64 - 1), entry := e, data := slice data 0 (leAt e 8 4) }] } }) ∧
    (leAt e 0 1 % 16 = 4 → exec (.gmacVerify q data lost) s = .next { u with ige := { u.ige with msgs := u.ige.msgs ++
      [{ q := q, op := 4, status := if s.keyStatus slot 4 = 0 then 1 else s.keyStatus slot 4, key := s.keyOf slot, spoil := 1 + v.free % (2 ^ 64 - 1), entry := e, data := slice data 0 (leAt e 8 4) }] } })) ∧
  (∀ (q : Fin 64) (data e : List Byte) (i : Nat) (rest : List (Nat × List Byte)) (lost : Bool) (s : State),
    ((s.qst qkIR q).fetched).drop (s.laneOf q).length = (i, e) :: rest →
    ((leAt e 8 4 = 0 ∧ s.qFrozen qkIR q = true) ∨ (leAt e 8 4 ≠ 0 ∧ s.readsOf (.integrity q) = 0)) →
    exec (.cmacGen q data lost) s = .next s ∧ exec (.cmacVerify q data lost) s = .next s ∧ exec (.gmacGen q data lost) s = .next s ∧ exec (.gmacVerify q data lost) s = .next s) ∧
  (∀ (q : Fin 64) (data : List Byte) (f : Nat) (pa : Option Nat) (lost : Bool) (s u : State),
    ((s.qst qkIR q).fetched).drop (s.laneOf q).length = [] → s.qVia qkIR q = some (f, pa) → data ≠ [] →
    u = (if s.reading f (.integrity q) then s.readEnds f (.integrity q) else s.stray f) →
    exec (.cmacGen q data lost) s = .next u ∧ exec (.cmacVerify q data lost) s = .next u ∧ exec (.gmacGen q data lost) s = .next u ∧ exec (.gmacVerify q data lost) s = .next u) ∧
  (∀ (slot op : Nat) (s : State), s.keyStatus slot op = (if s.keyState slot = 0 then 2 else if s.get (IgeKey.adr slot) IgeKey.mode = (if op ≤ 2 then 0 else 1) then 0 else 3)) ∧
  (∀ (q : Fin 64) (m : LaneMsg) (rest : List LaneMsg) (s : State), s.laneOf q = m :: rest →
    exec (.laneMessageDone q) s = .next (({ s with ige := { s.ige with msgs := s.ige.msgs.filter (·.q != q.val) ++ rest } } : State).laneDone m)) ∧
  (∀ m : LaneMsg, m.spoil = 0 →
    ((m.op = 1 ∨ m.op = 2) → m.tag = (aesCmac m.key m.data).take (leAt m.entry 3 1 % 32)) ∧
    ((m.op = 3 ∨ m.op = 4) → m.tag = (aesGmac m.key (slice m.entry 24 12) m.data).take (leAt m.entry 3 1 % 32))) ∧
  (∀ (m : LaneMsg) (f : Nat) (pa : Option Nat) (s : State), s.qVia qkIR m.q = some (f, pa) → s.issues f = false → s.laneDone m = s.qHalt qkIR m.q (s.cutReason f)) ∧
  (∀ (m : LaneMsg) (s : State), s.Presents qkIR m.q → m.status = 0 → (m.op = 2 ∨ m.op = 4) →
    s.laneDone m = (s.qWrite qkIR m.q (s.qSlot qkIR m.q (s.qHead qkIR m.q))
      (m.entry.take 1 ++ leBytes 1 (if m.tag = slice m.entry 48 m.tag.length then 0 else 1) ++ slice m.entry 2 6)).qDone qkIR m.q 1 (bit (leAt m.entry 2 1) 0)) ∧
  (∀ (m : LaneMsg) (s : State), s.Presents qkIR m.q → m.status ≠ 0 →
    s.laneDone m = (s.qWrite qkIR m.q (s.qSlot qkIR m.q (s.qHead qkIR m.q)) (m.entry.take 1 ++ leBytes 1 m.status ++ slice m.entry 2 6)).qDone qkIR m.q 1 (bit (leAt m.entry 2 1) 0)) ∧
  (∀ (m : LaneMsg) (s : State), s.Presents qkIR m.q → m.status = 0 → (m.op = 1 ∨ m.op = 3) →
    s.laneDone m = ((s.qWrite qkIR m.q (s.qSlot qkIR m.q (s.qHead qkIR m.q)) (m.entry.take 1 ++ leBytes 1 0 ++ slice m.entry 2 6)).qWrite qkIR m.q
      (s.qSlot qkIR m.q (s.qHead qkIR m.q) + 48) (slice m.tag 0 16)).qDone qkIR m.q 1 (bit (leAt m.entry 2 1) 0)) ∧
  (∀ (o : Origin) (arg d : List Byte) (i : Nat) (bad : Bool) (s : State), (∀ k, o ≠ .slice k) → s.Open o 18 0x1100 true false → s.igeOn = true → i = s.act IgeCmdSlot.adr IgeCmdSlot.slot →
    d = (List.range 8).flatMap (fun w => leBytes 4 (s.inForce (IgeCmdData.adr w)).toNat) →
    (s.keyInUse i = false →
      exec (.keyLoad o arg bad) s = .next ((((s.awake o 18).putKey i 1 (s.act IgeCmdSlot.adr IgeCmdSlot.mode) (s.act IgeCmdSlot.adr IgeCmdSlot.size) d).spoilKey i bad).set IgeCmd.adr IgeCmd.status kyOK) ∧
      exec (.keyClear o) s = .next (((s.awake o 18).clearKey i).set IgeCmd.adr IgeCmd.status kyOK) ∧
      (∀ duk, s.boot.dukReg = some duk → exec (.keyDerive o bad) s = .next ((((s.awake o 18).putKey i 2 (s.act IgeCmdSlot.adr IgeCmdSlot.mode) (s.act IgeCmdSlot.adr IgeCmdSlot.size)
        (deriveKey duk deriveLabel (slice d 0 32))).spoilKey i bad).set IgeCmd.adr IgeCmd.status kyOK))) ∧
    (s.keyInUse i = true →
      exec (.keyLoad o arg bad) s = .next ((s.awake o 18).set IgeCmd.adr IgeCmd.status kyIN_USE) ∧ exec (.keyClear o) s = .next ((s.awake o 18).set IgeCmd.adr IgeCmd.status kyIN_USE)) ∧
    (s.boot.dukReg = none → exec (.keyDerive o bad) s = .next ((s.awake o 18).set IgeCmd.adr IgeCmd.status kyKEY_LOCKED))) ∧
  (∀ (k : Fin 256) (e arg : List Byte) (bad : Bool) (s u : State), s.slicePf k = 3 → leAt e 8 2 % 4096 < (u.share .key k).2 → s.ArgIn k u →
    u.keyInUse ((u.share .key k).1 + leAt e 8 2 % 4096) = false →
    (s.scEntry k 0x60 = some e → u.keyState ((u.share .key k).1 + leAt e 8 2 % 4096) ≠ 2 → exec (.keyLoad (.slice k) arg bad) s =
      .next (((u.putKey ((u.share .key k).1 + leAt e 8 2 % 4096) 1 (leAt e 10 1 % 2) (leAt e 10 1 / 2 % 2) arg).spoilKey ((u.share .key k).1 + leAt e 8 2 % 4096) bad).scEnd k e kyOK)) ∧
    (s.scEntry k 0x60 = some e → u.keyState ((u.share .key k).1 + leAt e 8 2 % 4096) = 2 → exec (.keyLoad (.slice k) arg bad) s = .next (u.scEnd k e kyDERIVED))) ∧
  (∀ (i st mode size : Nat) (key : List Byte) (s : State), i < 4096 → st < 4 → mode < 2 → size < 2 →
    (s.putKey i st mode size key).keyState i = st ∧ (s.putKey i st mode size key).keyOf i = (slice key 0 32).take (if size = 1 then 32 else 16) ∧
    (∀ j, j ≠ i → j < 4096 → (s.putKey i st mode size key).keyState j = s.keyState j ∧ (s.putKey i st mode size key).keyOf j = s.keyOf j)) ∧
  (∀ (i : Nat) (s : State), i < 4096 → (s.clearKey i).keyState i = 0) ∧
  (∀ (i : Nat) (bad : Bool) (s : State), (s.spoilKey i bad).ige.badKeys = (if bad then s.ige.badKeys ++ [i] else s.ige.badKeys) ∧
    (i ∈ s.ige.badKeys → s.keyMet i = s.keyLost i) ∧ (i ∉ s.ige.badKeys → s.keyMet i = s)) ∧
  (∀ s : State, exec .rngFault s = .next (({ s with ige := { s.ige with rngFault := true } } : State).igeEvent 9 0))

/-- Members rotate through their reserves, by due time and by command, and are tested (R493, R494, R495, R496, R497, R498, R500, R501, R502, R516, R517). -/
def Obligations.MembersRotateAndAreTested : Prop :=
  (∀ (k : Fin 9) (m : Fin 26) (s u t : State), s.svcOn = true → s.bootStep = 0xFF → bit (s.act SvcRotCtrl.adr SvcRotCtrl.enable) k = true → s.fallsDue k m = true →
    u = s.modKind k (fun x => { x with lastDue := s.ticks }) →
    (u.mayRotate k m = true →
      (u.rotate k m = (t, .yes) ∨ u.rotate k m = (t, .noReserve) → exec (.rotationDue k m) s = .next t) ∧
      (u.rotate k m = (t, .notPlaceable) → exec (.rotationDue k m) s = .next (t.raise 23 6 (memberDetail k m)))) ∧
    (u.mayRotate k m = false → exec (.rotationDue k m) s = .next u)) ∧
  (∀ (k : Fin 9) (m : Fin 26) (s : State), (s.svcOn = false ∨ s.bootStep ≠ 0xFF ∨ bit (s.act SvcRotCtrl.adr SvcRotCtrl.enable) k = false ∨ s.fallsDue k m = false) →
    exec (.rotationDue k m) s = .next s) ∧
  (∀ (k m j : Nat) (s : State), s.rotating k ≠ [] → s.dueStep k ≠ 0 → (s.kind k).lastDue ≠ s.ticks → s.ticks = (s.kind k).since + (j + 1) * s.dueStep k →
    (s.fallsDue k m = true ↔ (s.rotating k)[j % (s.rotating k).length]? = some m)) ∧
  (∀ (k m n : Nat) (s : State), s.ticks = (s.kind k).since + n → n % s.dueStep k ≠ 0 → s.fallsDue k m = false) ∧
  (∀ (k m : Nat) (s : State), (bit (s.reserves k) m = true ∨ (s.kind k).cut.contains m = true) → s.rotate k m = (s.testBegins k m, .yes)) ∧
  (∀ (k r : Nat) (s : State), s.freeReserve k = some r ↔ r < 32 ∧ bit (s.reserves k) r = true ∧ (s.kind k).cut.contains r = false ∧
    ∀ n < r, bit (s.reserves k) n = false ∨ (s.kind k).cut.contains n = true) ∧
  (∀ (k m : Nat) (s : State), bit (s.reserves k) m = false → (s.kind k).cut.contains m = false → s.freeReserve k = none → s.rotate k m = (s, .noReserve)) ∧
  (∀ (m r : Nat) (s : State), bit (s.reserves rkCORE) m = false → (s.kind rkCORE).cut.contains m = false → s.freeReserve rkCORE = some r →
    s.rotate rkCORE m = ((({ s with svc := { s.svc with dueCore := some m, dueAt := s.ticks } } : State).kindState rkCORE rsHANDOVER m).raise 23 4 m, .yes)) ∧
  (∀ (k m r : Nat) (s : State), bit (s.reserves k) m = false → (s.kind k).cut.contains m = false → s.freeReserve k = some r → (k = rkMPI ∨ k = rkIGE) → (s.kind k).duty.contains m = true →
    s.rotate k m = ((s.handDuty k m r).testBegins k m, .yes)) ∧
  (∀ (k m r : Nat) (s : State), bit (s.reserves k) m = false → (s.kind k).cut.contains m = false → s.freeReserve k = some r → rkGENERAL ≤ k → (s.kind k).duty.contains m = true →
    s.rotate k m = (s.copyBegins k m r false, .yes)) ∧
  (∀ (m r b : Nat) (s : State), bit (s.reserves rkTCAM) m = false → (s.kind rkTCAM).cut.contains m = false → s.freeReserve rkTCAM = some r → (s.kind rkTCAM).duty.findIdx? (· == m) = some b →
    (s.blockUsed b = false → s.rotate rkTCAM m = ((s.handDuty rkTCAM m r).testBegins rkTCAM m, .yes)) ∧
    (s.blockUsed b = true → s.rotate rkTCAM m = (s.copyBegins rkTCAM m r false, .yes))) ∧
  (∀ (m r role t : Nat) (s : State), bit (s.reserves rkPIPELINE) m = false → (s.kind rkPIPELINE).cut.contains m = false → s.freeReserve rkPIPELINE = some r → (s.kind rkPIPELINE).duty.findIdx? (· == m) = some role →
    (s.placePause role s.lineNs = some t →
      s.rotate rkPIPELINE m = (({ s with svc := { s.svc with pause := some ⟨role, t, false⟩ } } : State).kindState rkPIPELINE rsPLACING m, .yes)) ∧
    (s.placePause role s.lineNs = none → s.rotate rkPIPELINE m = (s, .notPlaceable))) ∧
  (∀ (role t0 x : Nat) (s : State), s.placePause role t0 = some x → t0 ≤ x ∧
    ∃ span ≤ 1000000000, x < t0 + span ∧ ∀ r ∈ s.pauseRopes role, ∀ y ∈ s.busySpans role r t0 (span + 40000), y.2 ≤ x ∨ x + 38000 ≤ y.1) ∧
  (∀ (o : Origin) (k : BitVec 4) (m : BitVec 5) (s u : State), s.Open o 23 0x100C true false → k.toNat ≤ 8 → s.getB SvcCmd.adr SvcCmd.busy = false →
    u = ((s.awake o 23).set SvcCmd.adr SvcCmd.kind k.toNat).set SvcCmd.adr SvcCmd.member m.toNat →
    ((u.svcOn = false ∨ (membersOf u.scale k.toNat).contains m.toNat = false ∨ u.retired k.toNat m.toNat = true) →
      exec (.rotateNow o k m) s = .next (u.set SvcCmd.adr SvcCmd.status svREFUSED)) ∧
    (u.svcOn = true → (membersOf u.scale k.toNat).contains m.toNat = true → u.retired k.toNat m.toNat = false → u.get (SvcKind.adr k.toNat) SvcKind.state = rsIDLE → ∀ t,
      (u.rotate k.toNat m.toNat = (t, .yes) → exec (.rotateNow o k m) s = .next (t.set SvcCmd.adr SvcCmd.status svOK)) ∧
      (u.rotate k.toNat m.toNat = (t, .noReserve) → exec (.rotateNow o k m) s = .next (t.set SvcCmd.adr SvcCmd.status svNO_RESERVE)) ∧
      (u.rotate k.toNat m.toNat = (t, .notPlaceable) → exec (.rotateNow o k m) s = .next ((t.raise 23 6 (memberDetail k.toNat m.toNat)).set SvcCmd.adr SvcCmd.status svNOT_PLACEABLE))) ∧
    (u.svcOn = true → (membersOf u.scale k.toNat).contains m.toNat = true → u.retired k.toNat m.toNat = false → u.get (SvcKind.adr k.toNat) SvcKind.state = rsNO_RESERVE →
      exec (.rotateNow o k m) s = .next (u.set SvcCmd.adr SvcCmd.status svNO_RESERVE)) ∧
    (u.svcOn = true → (membersOf u.scale k.toNat).contains m.toNat = true → u.retired k.toNat m.toNat = false → u.get (SvcKind.adr k.toNat) SvcKind.state = rsTESTING →
      exec (.rotateNow o k m) s = .next (u.set SvcCmd.adr SvcCmd.status svBUSY))) ∧
  (∀ (o : Origin) (c : Fin 26) (s : State), s.Open o 23 0x100C true false → s.getB SvcCmd.adr SvcCmd.busy = false → s.svc.dueCore = some c.val → 0 < s.svc.kinds.length →
    ∃ t : State, exec (.coreYield o c) s = .next t.dueResets ∧ t.svc.dueCore = none ∧ (t.kind rkCORE).testing = some c.val ∧ t.get (SvcKind.adr rkCORE) SvcKind.state = rsTESTING ∧
      bit (t.get BootRunning.adr BootRunning.core) c = false ∧ t.get SvcCmd.adr SvcCmd.status = svOK) ∧
  (∀ (o : Origin) (c : Fin 26) (s : State), s.Open o 23 0x100C true false → s.getB SvcCmd.adr SvcCmd.busy = false → s.svc.dueCore ≠ some c.val →
    exec (.coreYield o c) s = .next ((((s.awake o 23).set SvcCmd.adr SvcCmd.kind 0).set SvcCmd.adr SvcCmd.member c).set SvcCmd.adr SvcCmd.status svNOT_DUE).dueResets) ∧
  (∀ (m : Nat) (s : State), s.svc.dueCore = some m → s.svc.dueAt + s.act SvcRotCtrl.adr SvcRotCtrl.yieldLimit * 2500000 ≤ s.ticks →
    exec .yieldLimitExpiry s = .next ((({ s with svc := { s.svc with dueCore := none } } : State).kindRests rkCORE).raise 23 6 (memberDetail rkCORE m)).dueResets) ∧
  (∀ s : State, s.ticks < s.yieldEnd → exec .yieldLimitExpiry s = .next s) ∧
  (∀ (role : Fin 4) (p : SvcPause) (s : State), s.svc.pause = some p → p.role = role.val →
    (p.begun = false → s.lineNs ≤ p.start → p.start ≤ s.lineNs + 40 → ∃ t, exec (.handoverPauseStart role) s = .next t ∧ t.pp.paused = role.val :: s.pp.paused ∧
      t.svc.pause = some { p with begun := true } ∧ t.get (SvcKind.adr rkPIPELINE) SvcKind.state = rsHANDOVER ∧
      (s.ustate (6 + role) = stREADY → t.ustate (6 + role) = stHELD ∧ t.ucause (6 + role) = caHOLD_SERVICE)) ∧
    (p.begun = true → s.lineNs ≤ p.start + 38000 → p.start + 38000 ≤ s.lineNs + 40 → exec (.handoverPauseEnd role) s = .next (s.pauseOver p).dueResets) ∧
    ((p.begun = true ∨ p.start < s.lineNs ∨ s.lineNs + 40 < p.start) → exec (.handoverPauseStart role) s = .next s) ∧
    ((p.begun = false ∨ p.start + 38000 < s.lineNs ∨ s.lineNs + 40 < p.start + 38000) → exec (.handoverPauseEnd role) s = .next s)) ∧
  (∀ (p : SvcPause) (r : Nat) (s : State), s.freeReserve rkPIPELINE = some r →
    s.pauseOver p = ((s.pauseLifts p.role).handDuty rkPIPELINE ((s.kind rkPIPELINE).duty.getD p.role p.role) r).testBegins rkPIPELINE ((s.kind rkPIPELINE).duty.getD p.role p.role)) ∧
  (∀ (r : Nat) (s : State), (s.pauseLifts r).svc.pause = none ∧ (∀ x ∈ (s.pauseLifts r).pp.paused, x ≠ r)) ∧
  (∀ (k : Fin 9) (m : Nat) (s : State), (s.kind k).testing = some m →
    exec (.memberTestEnd k true) s = .next ((((s.modKind k fun x => { x with testing := none }).set (SvcKind.adr k) SvcKind.reserveMap (withBit (s.reserves k) m)).kindRests k).raise 23 5 (memberDetail k m)) ∧
    exec (.memberTestEnd k false) s = .next (((((s.modKind k fun x => { x with testing := none }).retireMember k m).kindRests k).raise 23 7 (memberDetail k m)).exhaustion k)) ∧
  (∀ (k : Fin 9) (c : SvcCopy) (s : State), (s.kind k).copy = some c →
    (c.retire = false → exec (.bankCopyEnd k) s = .next (((s.modKind k fun x => { x with copy := none }).handDuty k c.member c.reserve).testBegins k c.member).dueResets) ∧
    (c.retire = true → exec (.bankCopyEnd k) s = .next ((((((s.modKind k fun x => { x with copy := none }).handDuty k c.member c.reserve).retireMember k c.member).kindRests k).raise 23 9
      (memberDetail k c.member)).exhaustion k).dueResets)) ∧
  (∀ (k m : Nat) (s : State), k < 9 → s.svc.kinds.length = 9 → (s.kind k).testing = some m →
    (s.svcReset.kind k).testing = none ∧ (s.svcReset.kind k).copy = none ∧ (s.svcReset.kind k).cut = m :: (s.kind k).cut ∧ (s.svcReset.kind k).duty = (s.kind k).duty ∧
    s.svcReset.get (SvcKind.adr k) SvcKind.state = rsIDLE ∧ s.svcReset.reserves k = s.reserves k) ∧
  (∀ (k m r : Nat) (s : State), k < s.svc.kinds.length → ((s.handDuty k m r).kind k).duty = (s.kind k).duty.map fun d => if d = m then r else d)

/-- Scrub, retirement of banks, core faults and firmware replacement (R503, R504, R505, R506, R508, R509, R515, R516, R517). -/
def Obligations.ScrubRetirementAndReplacement : Prop :=
  (∀ (k : Fin 9) (b : Fin 17) (e : Fin 3) (w : Fin 24) (s : State), rkGENERAL ≤ k.val → s.retired k b = false → s.asleep = false → s.dark 23 = false →
    exec (.scrubVisit k b false e w) s = .next (s.bankError k b e w).dueResets ∧
    (s.svcOn = true → exec (.scrubVisit k b true e w) s =
      .next ((s.set (SvcKind.adr k) SvcKind.ceSeen (dropBit (s.get (SvcKind.adr k) SvcKind.ceSeen) b)).bankError k b e w).dueResets)) ∧
  (∀ (k b w : Nat) (s t : State), s.bankError k b 0 w = s ∧ s.bankError k b 1 w = s.correctable k b w ∧
    (t = (if k = rkGENERAL ∧ w = 17 then (s.retireBank k b w).nvFail else s.retireBank k b w) →
      s.bankError k b 2 w = if s.ready 13 && !t.ready 13 then t.tmTakeAll else t)) ∧
  (∀ (k : Fin 9) (b : Fin 17) (first : Bool) (e : Fin 3) (w : Fin 24) (s : State), (k.val < rkGENERAL ∨ s.retired k b = true ∨ s.asleep = true ∨ s.dark 23 = true ∨ (first = true ∧ s.svcOn = false)) →
    exec (.scrubVisit k b first e w) s = .next s.dueResets) ∧
  (∀ s : State, (∀ d ∈ s.svc.resetDue, s.handsOver d.unit = true) → s.dueResets = s) ∧
  (∀ (d : DueReset) (s : State), s.svc.resetDue = [d] → s.handsOver d.unit = false →
    s.dueResets = ({ s with svc := { s.svc with resetDue := [] } } : State).ctrlAct d.unit d.expert d.hold true d.go) ∧
  (∀ (k m w : Nat) (s : State), (bit (s.get (SvcKind.adr k) SvcKind.ceSeen) m = false →
      s.correctable k m w = (s.set (SvcKind.adr k) SvcKind.ceSeen (withBit (s.get (SvcKind.adr k) SvcKind.ceSeen) m)).raise 23 8 (memberDetail k m)) ∧
    (bit (s.get (SvcKind.adr k) SvcKind.ceSeen) m = true → s.correctable k m w = s.retireBank k m w)) ∧
  (∀ (k m w : Nat) (s : State), s.retired k m = true → s.retireBank k m w = s) ∧
  (∀ (k m w r : Nat) (s : State), s.retired k m = false → (s.kind k).copy = none → (s.kind k).duty.contains m = true →
    s.freeReserve k = some r → s.retireBank k m w = s.copyBegins k m r true) ∧
  (∀ (k m w b : Nat) (s : State), s.retired k m = false → (s.kind k).copy = none → (s.kind k).duty.findIdx? (· == m) = some b → s.freeReserve k = none →
    s.retireBank k m w = (s.setUnit (bankOwner k b w) stERROR 0x40).raise 23 10 k) ∧
  (∀ (k m w : Nat) (c : SvcCopy) (s : State), s.retired k m = false → (s.kind k).copy = some c →
    (c.member = m → s.retireBank k m w = s.modKind k fun y => { y with copy := some { c with retire := true } }) ∧
    (c.member ≠ m → c.reserve ≠ m → c.retire = false → s.retireBank k m w = s.copyBegins k m c.reserve true) ∧
    (c.member ≠ m → c.reserve ≠ m → c.retire = true → ∀ b, (s.kind k).duty.findIdx? (· == m) = some b →
      s.retireBank k m w = (s.setUnit (bankOwner k b w) stERROR 0x40).raise 23 10 k)) ∧
  (∀ (k m w : Nat) (s : State), m < 32 → s.retired k m = false → (s.kind k).copy = none → (s.kind k).duty.contains m = false → (s.kind k).testing ≠ some m →
    ∃ t : State, s.retireBank k m w = ((t.kindRests k).raise 23 9 (memberDetail k m)).exhaustion k ∧ t.retired k m = true ∧ bit (t.reserves k) m = false ∧ (t.kind k).duty = (s.kind k).duty) ∧
  (∀ (n : Fin 26) (s : State), (bit (s.get BootRunning.adr BootRunning.core) n = true → exec (.coreFault n) s = .next (s.raise 19 4 n)) ∧
    (bit (s.get BootRunning.adr BootRunning.core) n = false → exec (.coreFault n) s = .next s)) ∧
  (∀ (o : Origin) (s u : State), s.Open o 23 0x100C true false → s.getB SvcCmd.adr SvcCmd.busy = false → s.get SvcCmd.adr SvcCmd.kind ≤ 8 →
    u = ((s.awake o 23).set SvcCmd.adr SvcCmd.kind (s.get SvcCmd.adr SvcCmd.kind)).set SvcCmd.adr SvcCmd.member (s.get SvcCmd.adr SvcCmd.member) →
    (s.svc.dueCore ≠ none → exec (.fwReplace o) s = .next (u.set SvcCmd.adr SvcCmd.status svBUSY)) ∧
    (s.svc.dueCore = none → s.freeReserve rkCORE = none → exec (.fwReplace o) s = .next (u.set SvcCmd.adr SvcCmd.status svNO_RESERVE)) ∧
    (s.svc.dueCore = none → s.freeReserve rkCORE ≠ none → s.boot.fw = none → exec (.fwReplace o) s = .next (u.set SvcCmd.adr SvcCmd.status svREFUSED)) ∧
    (s.svc.dueCore = none → s.freeReserve rkCORE ≠ none → s.boot.fw ≠ none →
      exec (.fwReplace o) s = .next (((u.set SvcCmd.adr SvcCmd.busy 1).set SvcCmd.adr SvcCmd.status svOK).modBoot fun b => { b with replacing := some (3, 0) }))) ∧
  (∀ (o : Origin) (s : State), s.Open o 23 0x100C true false → s.getB SvcCmd.adr SvcCmd.busy = true → s.get SvcCmd.adr SvcCmd.kind ≤ 8 →
    exec (.fwReplace o) s = .next ((s.awake o 23).set SvcCmd.adr SvcCmd.status svBUSY)) ∧
  (∀ (st : Nat) (s : State), s.boot.replacing = some (10, st) → st < 16 →
    (st ≠ svOK → exec .fwReplaced s = .next ((((s.set SvcCmd.adr SvcCmd.busy 0).set SvcCmd.adr SvcCmd.status st).modBoot fun b => { b with replacing := none, newFw := none, romKey := none }).raise 23 11 st)) ∧
    (st = svOK → ∀ f, s.boot.newFw = some f → ∃ t : State, exec .fwReplaced s = .next (t.raise 23 11 svOK) ∧ t.getB SvcCmd.adr SvcCmd.busy = false ∧ t.boot.replacing = none ∧ t.boot.fw = some f ∧
      t.get SvcFwEntry.adr SvcFwEntry.address = s.boot.entry % 2 ^ SvcFwEntry.address.width ∧ t.get SysTrust.adr SysTrust.fwTrusted = 1))

/-- Naonant requests are served and answered once, each with its status (R520, R521, R522, R523, R525, R535, R553, R87, R67). -/
def Obligations.NaonantRequestsAreAnswered : Prop :=
  (∀ (m : BitVec 4 × BitVec 8) (cmd status : Nat) (body : List Byte) (s : State),
    s.reply m cmd status body = { s with out := s.out ++ [.mgt (naonant m.1.toNat (0x80 + cmd) m.2.toNat status body)] }) ∧
  (∀ (m : BitVec 4 × BitVec 8) (cmd : Nat) (v1 : Bool) (f : State → State × Nat × List Byte) (s : State), s.mgtUp = true →
    ((m.1 ≠ 1#4 ∧ m.1 ≠ 2#4) ∨ (m.1 = 1#4 ∧ v1 = false) → s.naonantServe m cmd v1 f = (s.heard m).reply m cmd nsVERSION []) ∧
    (m.1 = 2#4 ∨ (m.1 = 1#4 ∧ v1 = true) → s.naonantServe m cmd v1 f = (f (s.heard m)).1.reply m cmd (f (s.heard m)).2.1 (f (s.heard m)).2.2)) ∧
  (∀ (m : BitVec 4 × BitVec 8) (c : Word) (k : Option (List Byte)) (s : State), s.mgtUp = true → m.1 = 1#4 →
    exec (.restart m c) s = .next ((s.heard m).reply m ncRESTART nsVERSION []) ∧ exec (.timeRead m) s = .next ((s.heard m).reply m ncTIME_READ nsVERSION []) ∧
    exec (.attestKey m k) s = .next ((s.heard m).reply m ncATTEST_KEY nsVERSION [])) ∧
  (∀ (m : BitVec 4 × BitVec 8) (s : State), s.mgtUp = true → m.1 = 1#4 ∨ m.1 = 2#4 →
    exec (.getVersion m) s = .next ((s.heard m).reply m ncGET_VERSION nsOK [1#8, 2#8]) ∧
    exec (.leadQuery m) s = .next ((s.heard m).reply m ncLEAD nsOK (leBytes 4 (s.heard m).leadWord.toNat ++ leBytes 4 ((s.heard m).rd SysLeadResult.adr).toNat)) ∧
    (∀ mask : Word, exec (.momentRead m mask) s =
      .next ((s.heard m).reply m ncMOMENT_READ nsOK (((List.range 24).filter fun u => mask.getLsbD u).flatMap (s.heard m).momentBytes)))) ∧
  (∀ (m : BitVec 4 × BitVec 8) (unit width : BitVec 8) (count : BitVec 16) (offset : Word) (s : State), s.mgtUp = true →
    (m.1 = 2#4 ∨ (m.1 = 1#4 ∧ width = 4#8 ∧ count.toNat ≤ 1)) →
    (accessOk unit.toNat width.toNat offset.toNat = true → 1 ≤ count.toNat → count.toNat ≤ 64 → (24 ≤ unit.toNat ∨ (s.heard m).dark unit.toNat = false) → ∀ x,
      x = ((s.heard m).startClocks ((s.heard m).unitClocks unit.toNat)).readMany unit.toNat width.toNat count.toNat offset.toNat →
      exec (.regRead m unit width count offset) s = .next (x.1.reply m ncREG_READ nsOK x.2) ∧ x.2.length = count.toNat * width.toNat) ∧
    ((accessOk unit.toNat width.toNat offset.toNat = false ∨ count.toNat = 0 ∨ 64 < count.toNat) →
      exec (.regRead m unit width count offset) s = .next ((s.heard m).reply m ncREG_READ nsBAD_REQUEST [])) ∧
    (accessOk unit.toNat width.toNat offset.toNat = true → 1 ≤ count.toNat → count.toNat ≤ 64 → unit.toNat < 24 → (s.heard m).dark unit.toNat = true →
      exec (.regRead m unit width count offset) s = .next ((s.heard m).reply m ncREG_READ nsUNPOWERED []))) ∧
  (∀ (u d : Nat) (s : State), u < 24 → d + 4 < 0x100000 → pairBase (u * 0x100000 + d) = some (u * 0x100000 + d) → pairBase (u * 0x100000 + (d + 4)) = some (u * 0x100000 + d) →
    (s.read32 u d).2 = s.unitWord u d ∧ ∀ t : State, t.readLatch = (s.read32 u d).1.readLatch → (t.read32 u (d + 4)).2 = s.unitWord u (d + 4)) ∧
  (∀ (m : BitVec 4 × BitVec 8) (unit width : BitVec 8) (offset : Word) (value : DWord) (s : State), s.mgtUp = true → (m.1 = 2#4 ∨ (m.1 = 1#4 ∧ width ≠ 8#8)) →
    (accessOk unit.toNat width.toNat offset.toNat = false → exec (.regWrite m unit width offset value) s = .next ((s.heard m).reply m ncREG_WRITE nsBAD_REQUEST [])) ∧
    (accessOk unit.toNat width.toNat offset.toNat = true →
      ((s.heard m).halted = true → exec (.regWrite m unit width offset value) s = .next ((s.heard m).reply m ncREG_WRITE nsHALTED [])) ∧
      ((s.heard m).halted = false → (24 ≤ unit.toNat ∨ 0x100000 ≤ offset.toNat) → exec (.regWrite m unit width offset value) s = .next ((s.heard m).reply m ncREG_WRITE nsOK [])) ∧
      ((s.heard m).halted = false → unit.toNat < 24 → offset.toNat < 0x100000 →
        ((s.heard m).dark unit.toNat = true → exec (.regWrite m unit width offset value) s = .next ((s.heard m).reply m ncREG_WRITE nsUNPOWERED [])) ∧
        ((s.heard m).dark unit.toNat = false → ∀ x, x = (s.heard m).unitWrite unit.toNat offset.toNat (width.toNat == 8) value →
          exec (.regWrite m unit width offset value) s = .next (x.1.reply m ncREG_WRITE x.2.1 []))))) ∧
  (∀ (m : BitVec 4 × BitVec 8) (c : Word) (s : State), s.mgtUp = true → m.1 = 2#4 →
    (c ≠ 0x54535352#32 → exec (.restart m c) s = .next ((s.heard m).reply m ncRESTART nsBAD_REQUEST [])) ∧
    (c = 0x54535352#32 → s.leads .management = false → (s.heard m).leads .management = false →
      exec (.restart m c) s = .next (((s.heard m).notLead 20 0).reply m ncRESTART nsNOT_LEAD [])) ∧
    (c = 0x54535352#32 → s.leads .management = true → (s.heard m).leads .management = true →
      exec (.restart m c) s = .next (((s.heard m).reply m ncRESTART nsOK []).deviceRestart))) ∧
  (∀ (m : BitVec 4 × BitVec 8) (offset : Word) (data : List Byte) (s : State), s.mgtUp = true → m.1 = 1#4 ∨ m.1 = 2#4 →
    (data.length < 4 ∨ 256 < data.length ∨ data.length % 4 ≠ 0 ∨ offset.toNat % 4 ≠ 0 →
      exec (.stageWrite m offset data) s = .next ((s.heard m).reply m ncSTAGE_WRITE nsBAD_REQUEST [])) ∧
    (4 ≤ data.length → data.length ≤ 256 → data.length % 4 = 0 → offset.toNat % 4 = 0 → ∀ t x,
      ((s.heard m).stageAddr .management offset.toNat = (t, .ok) → x = stageWords ((groups 4 (data.length / 4) data).map fun b => BitVec.ofNat 32 (leNat b)) t →
        exec (.stageWrite m offset data) s = .next (x.1.reply m ncSTAGE_WRITE x.2.code [])) ∧
      ((s.heard m).stageAddr .management offset.toNat = (t, .notLead) → exec (.stageWrite m offset data) s = .next (t.reply m ncSTAGE_WRITE nsNOT_LEAD [])))) ∧
  (∀ (w : Word) (ws : List Word) (s t : State), (s.stageData .management w = (t, .ok) → stageWords (w :: ws) s = stageWords ws t) ∧
    (∀ e, e ≠ .ok → s.stageData .management w = (t, e) → stageWords (w :: ws) s = (t, e))) ∧
  (∀ (m : BitVec 4 × BitVec 8) (s t : State), s.mgtUp = true → m.1 = 2#4 → t = s.heard m →
    exec (.timeRead m) s = .next (t.reply m ncTIME_READ nsOK
      (leBytes 6 (clkSec t.time.line) ++ leBytes 4 (clkNs t.time.line) ++ leBytes 4 (stampOf t.lineNs).toNat ++ leBytes 4 (t.rd TuStatus.adr).toNat))) ∧
  (∀ (m : BitVec 4 × BitVec 8) (key : Option (List Byte)) (s t : State), s.mgtUp = true → m.1 = 2#4 → t = s.heard m →
    (t.getB SysTrust.adr SysTrust.keysLocked = true → exec (.attestKey m key) s = .next (t.reply m ncATTEST_KEY nsKEYS_LOCKED [])) ∧
    (t.getB SysTrust.adr SysTrust.keysLocked = false →
      (t.halted = true → exec (.attestKey m key) s = .next (t.reply m ncATTEST_KEY nsHALTED [])) ∧
      (t.halted = false → t.asleep = false → t.boot.replacing = none → t.bootStep = 0xFF →
        (∀ k, key = some k → exec (.attestKey m key) s = .next (t.reply m ncATTEST_KEY nsOK (slice k 0 96))) ∧
        (key = none → exec (.attestKey m key) s = .next (t.reply m ncATTEST_KEY nsBUSY []))) ∧
      (t.halted = false → t.asleep = true ∨ t.boot.replacing.isSome = true ∨ t.bootStep ≠ 0xFF → exec (.attestKey m key) s = .next (t.reply m ncATTEST_KEY nsBUSY []))))

/-- The lead is claimed, renewed, released and lapses; event messages are sent and retried (R513, R519, R526, R528, R529, R530, R531, R536). -/
def Obligations.LeadPassesByCommandAndLapse : Prop :=
  (∀ (h l : Nat) (s : State), h < 4 → (s.giveLead h l).holder = h ∧ (s.giveLead h l).mgt.leaseTicks = l * 25000) ∧
  (∀ (side l : Nat) (s : State), side = ldHOST ∨ side = ldMANAGEMENT → 10 ≤ l → l ≤ 10000 →
    (s.holder = ldNONE → s.leadOne side loCLAIM l = (s.giveLead side l).leadResult side lrGRANTED) ∧
    (s.holder = side → s.leadOne side loCLAIM l = (s.giveLead side l).leadResult side lrRENEWED ∧ s.leadOne side loRENEW l = (s.giveLead side l).leadResult side lrRENEWED) ∧
    (s.holder = side → s.leadOne side loRELEASE 0 = (s.giveLead ldNONE 0).leadResult side lrRELEASED) ∧
    (s.holder ≠ side → s.holder ≠ ldNONE → s.leadOne side loCLAIM l = (s.leadResult side lrHELD_BY_OTHER).notLead 0 0x1208) ∧
    (s.holder ≠ side → s.leadOne side loRENEW l = (s.leadResult side lrNOT_HOLDER).notLead 0 0x1208 ∧ s.leadOne side loRELEASE 0 = (s.leadResult side lrNOT_HOLDER).notLead 0 0x1208)) ∧
  (∀ (side op l : Nat) (s : State), op = loCLAIM ∨ op = loRENEW → l < 10 ∨ 10000 < l → s.leadOne side op l = s.leadResult side lrBAD_LEASE) ∧
  (∀ (a b c d : Nat) (s t : State),
    (s.holder = ldHOST → t = (s.leadOne ldHOST a b).leadOne ldMANAGEMENT c d → s.leadTick (some (a, b)) (some (c, d)) = if t.holder = s.holder then t else t.raise 20 4 t.holder) ∧
    (s.holder ≠ ldHOST → t = (s.leadOne ldMANAGEMENT c d).leadOne ldHOST a b → s.leadTick (some (a, b)) (some (c, d)) = if t.holder = s.holder then t else t.raise 20 4 t.holder)) ∧
  (∀ (a b : Nat) (s : State), (s.leadTick (some (a, b)) none = if (s.leadOne ldHOST a b).holder = s.holder then s.leadOne ldHOST a b else (s.leadOne ldHOST a b).raise 20 4 (s.leadOne ldHOST a b).holder) ∧
    (s.leadTick none (some (a, b)) = if (s.leadOne ldMANAGEMENT a b).holder = s.holder then s.leadOne ldMANAGEMENT a b
      else (s.leadOne ldMANAGEMENT a b).raise 20 4 (s.leadOne ldMANAGEMENT a b).holder)) ∧
  (∀ (l : BitVec 14) (op : BitVec 2) (l2 : BitVec 14) (s : State), s.Open .host 0 0x1208 false false →
    exec (.leadClaim .host l none none) s = .next ((s.awake .host 0).leadTick (some (loCLAIM, l.toNat)) none) ∧
    exec (.leadClaim .host l none (some (op, l2))) s = .next ((s.awake .host 0).leadTick (some (loCLAIM, l.toNat)) (some (op.toNat, l2.toNat))) ∧
    exec (.leadRenew .host l none) s = .next ((s.awake .host 0).leadTick (some (loRENEW, l.toNat)) none) ∧
    exec (.leadRelease .host none) s = .next ((s.awake .host 0).leadTick (some (loRELEASE, 0)) none)) ∧
  (∀ (l : BitVec 14) (s : State), s.Open .management 0 0x1208 false false →
    exec (.leadClaim .management l none none) s = .next ((s.awake .management 0).leadTick none (some (loCLAIM, l.toNat))) ∧
    exec (.leadRenew .management l none) s = .next ((s.awake .management 0).leadTick none (some (loRENEW, l.toNat))) ∧
    exec (.leadRelease .management none) s = .next ((s.awake .management 0).leadTick none (some (loRELEASE, 0)))) ∧
  (∀ (o : Origin) (m : BitVec 4 × BitVec 8) (l : BitVec 14) (s t : State) (r : Nat), s.mgtUp = true → m.1 = 1#4 ∨ m.1 = 2#4 → r = t.get SysLeadResult.adr SysLeadResult.management →
    (t = (s.heard m).leadTick none (some (loCLAIM, l.toNat)) → exec (.leadClaim o l (some m) none) s = .next (t.reply m ncLEAD (if r = lrHELD_BY_OTHER ∨ r = lrNOT_HOLDER then nsNOT_LEAD else nsOK)
      (leBytes 4 t.leadWord.toNat ++ leBytes 4 (t.rd SysLeadResult.adr).toNat))) ∧
    (t = (s.heard m).leadTick none (some (loRENEW, l.toNat)) → exec (.leadRenew o l (some m)) s = .next (t.reply m ncLEAD (if r = lrHELD_BY_OTHER ∨ r = lrNOT_HOLDER then nsNOT_LEAD else nsOK)
      (leBytes 4 t.leadWord.toNat ++ leBytes 4 (t.rd SysLeadResult.adr).toNat))) ∧
    (t = (s.heard m).leadTick none (some (loRELEASE, 0)) → exec (.leadRelease o (some m)) s = .next (t.reply m ncLEAD (if r = lrHELD_BY_OTHER ∨ r = lrNOT_HOLDER then nsNOT_LEAD else nsOK)
      (leBytes 4 t.leadWord.toNat ++ leBytes 4 (t.rd SysLeadResult.adr).toNat)))) ∧
  (∀ s : State, s.mgtUp = true → s.holder ≠ ldNONE → s.mgt.leaseTicks ≤ 1 → exec .leaseLapsed s = .next (((s.giveLead ldNONE 0).raise 20 4 ldNONE).raise 20 5 s.holder)) ∧
  (∀ s : State, (s.mgtUp = false ∨ s.holder = ldNONE ∨ 1 < s.mgt.leaseTicks) → exec .leaseLapsed s = .next s) ∧
  (∀ (taken : Bool) (e : Staged) (q : Nat) (s : State), s.mgtUp = true → s.mgtHead = some (e, q) →
    (s.get MgtStatus.adr MgtStatus.eid ≠ 0 → s.act MgtEvents.adr MgtEvents.enable ≠ 0 → s.mgt.tried = false →
      (taken = true → exec (.eventMessage taken) s = .next (s.eventGone (some (s.eventBytes e q)))) ∧
      (taken = false → exec (.eventMessage taken) s = .next { s with mgt := { s.mgt with tried := true, retries := 0 } })) ∧
    (s.get MgtStatus.adr MgtStatus.eid ≠ 0 → s.act MgtEvents.adr MgtEvents.enable ≠ 0 → s.mgt.tried = true → s.mgt.retries + 1 ≤ s.act MgtEvents.adr MgtEvents.retries →
      (taken = true → exec (.eventRetry taken) s = .next (s.eventGone (some (s.eventBytes e q)))) ∧
      (taken = false → s.mgt.retries + 1 < s.act MgtEvents.adr MgtEvents.retries →
        exec (.eventRetry taken) s = .next { s with mgt := { s.mgt with retries := s.mgt.retries + 1 } }) ∧
      (taken = false → s.mgt.retries + 1 = s.act MgtEvents.adr MgtEvents.retries → exec (.eventRetry taken) s = .next (s.eventGone none))) ∧
    ((s.get MgtStatus.adr MgtStatus.eid = 0 ∨ s.act MgtEvents.adr MgtEvents.enable = 0) → s.mgt.tried = false → exec (.eventMessage taken) s = .next (s.eventGone none))) ∧
  (∀ (b : List Byte) (s : State), (s.eventGone none).staged = mgtDone s.staged ∧ (s.eventGone none).out = s.out ∧ (s.eventGone (some b)).staged = mgtDone s.staged ∧
    (s.eventGone (some b)).out = s.out ++ [.mgt b]) ∧
  (∀ (e : Staged) (l : List Staged) (q : Nat), e.mgt = some q → mgtDone (e :: l) = if e.host = true then { e with mgt := none } :: l else l)

/-- MCTP control, PLDM and SPDM requests are answered, and an update moves from state to state (R518, R519, R532, R533, R534, R535, R537). -/
def Obligations.MctpPldmAndSpdmAreServed : Prop :=
  (∀ (iid : BitVec 5) (src : BitVec 7) (eid ty sel : BitVec 8) (s : State), s.mgtUp = true →
    (eid ≠ 0#8 → eid ≠ 0xFF#8 → ∃ t : State, exec (.setEndpointId iid src eid) s = .next (t.mctp iid 1 0 [0#8, eid, 0#8]) ∧
      t.get MgtStatus.adr MgtStatus.eid = eid.toNat ∧ t.mgt.owner = src.toNat ∧ t.out = s.out) ∧
    (eid = 0#8 ∨ eid = 0xFF#8 → exec (.setEndpointId iid src eid) s = .next (s.mctp iid 1 2 [])) ∧
    exec (.getEndpointId iid) s = .next (s.mctp iid 2 0 (leBytes 1 (s.get MgtStatus.adr MgtStatus.eid) ++ [0#8, 0#8])) ∧
    (ty = 0#8 ∨ ty = 0xFF#8 → exec (.getMctpVersionSupport iid ty) s = .next (s.mctp iid 4 0 [1#8, 0xF1#8, 0xF3#8, 0xFF#8, 0x00#8])) ∧
    (ty = 1#8 ∨ ty = 5#8 ∨ ty = 0x7E#8 → ∃ body, exec (.getMctpVersionSupport iid ty) s = .next ((s.mctp iid 4 0 (1#8 :: body)).tickFree) ∧ body.length = 4) ∧
    (ty = 2#8 → exec (.getMctpVersionSupport iid ty) s = .next (s.mctp iid 4 0x80 [])) ∧
    exec (.getMessageTypeSupport iid) s = .next (s.mctp iid 5 0 [3#8, 1#8, 5#8, 0x7E#8]) ∧
    (sel = 0#8 → ∃ body, exec (.getVendorDefinedMessageSupport iid sel) s = .next ((s.mctp iid 6 0 ([0xFF#8, 0#8] ++ beBytes 2 0x1F8C ++ body)).tickFree)) ∧
    (sel ≠ 0#8 → exec (.getVendorDefinedMessageSupport iid sel) s = .next (s.mctp iid 6 2 [])) ∧
    ∃ t : State, exec (.i3cDynamicAddress src) s = .next t ∧ t.get MgtStatus.adr MgtStatus.mode = 2 ∧ t.get MgtSmbus.adr MgtSmbus.dynAddr = src.toNat) ∧
  (∀ (iid : BitVec 5) (cmd cc : Nat) (body : List Byte) (s : State), s.mgtUp = true →
    (s.mctp iid cmd cc body).out = s.out ++ [.mgt (leBytes 1 0 ++ leBytes 1 iid.toNat ++ leBytes 1 cmd ++ leBytes 1 cc ++ body)]) ∧
  (∀ (iid : BitVec 5) (ty cmd cc : Nat) (body : List Byte) (s : State), s.mgtUp = true →
    (s.pldm iid ty cmd cc body).out = s.out ++ [.mgt (leBytes 1 1 ++ leBytes 1 iid.toNat ++ leBytes 1 ty ++ leBytes 1 cmd ++ leBytes 1 cc ++ body)]) ∧
  (∀ (iid : BitVec 5) (ty : BitVec 8) (s : State), exec (.getPldmTypes iid) s = .next (s.pldm iid 0 4 0 (bitMap 8 [0, 2, 5])) ∧
    exec (.getTid iid) s = .next (s.pldm iid 0 2 0 (s.freeData 1)).tickFree ∧ exec (.getPdrRepositoryInfo iid) s = .next (s.pldm iid 2 0x50 0 (s.freeData 40)).tickFree ∧
    exec (.getPdr iid) s = .next (s.pldm iid 2 0x51 0 (Config.freeBytes s.freeCtr)).tickFree ∧
    (ty = 0#8 ∨ ty = 2#8 ∨ ty = 5#8 → exec (.getPldmVersion iid ty) s = .next (s.pldm iid 0 3 0 (s.freeData 13)).tickFree ∧
      exec (.getPldmCommands iid ty) s = .next (s.pldm iid 0 5 0 (bitMap 32 (pldmCommands ty.toNat)))) ∧
    (ty ≠ 0#8 → ty ≠ 2#8 → ty ≠ 5#8 → exec (.getPldmVersion iid ty) s = .next (s.pldm iid 0 3 0x83 []) ∧ exec (.getPldmCommands iid ty) s = .next (s.pldm iid 0 5 0x83 []))) ∧
  (∀ (iid : BitVec 5) (n : BitVec 16) (r : Word) (s : State),
    (1 ≤ n.toNat → n.toNat ≤ 4 → exec (.getSensorReading iid n r) s = .next (s.pldm iid 2 0x11 0 ([5#8, 0#8, 0#8, 0#8, 0#8, 0#8] ++ leBytes 4 r.toNat))) ∧
    (n.toNat = 0 ∨ 4 < n.toNat → exec (.getSensorReading iid n r) s = .next (s.pldm iid 2 0x11 0x80 [])) ∧
    (n = 10#16 → exec (.getStateSensorReadings iid n) s = .next (s.pldm iid 2 0x21 0 ([1#8, 0#8] ++ leBytes 1 (s.get PwrStatus.adr PwrStatus.state) ++ s.freeData 2)).tickFree) ∧
    (n = 11#16 → exec (.getStateSensorReadings iid n) s = .next (s.pldm iid 2 0x21 0 ([1#8, 0#8] ++ leBytes 1 (s.get BootStatus.adr BootStatus.haltCode) ++ s.freeData 2)).tickFree) ∧
    (n ≠ 10#16 → n ≠ 11#16 → exec (.getStateSensorReadings iid n) s = .next (s.pldm iid 2 0x21 0x80 []))) ∧
  (∀ (iid : BitVec 5) (s : State), s.mgtUp = true →
    (s.mgt.pldm.state ≠ fdIDLE → exec (.requestUpdate iid) s = .next (s.pldm iid 5 0x10 0x81 [])) ∧
    (s.mgt.pldm.state = fdIDLE → s.leads .management = false ∨ s.asleep = true ∨ s.dark 2 = true → exec (.requestUpdate iid) s = .next (s.pldm iid 5 0x10 0x8A [])) ∧
    (s.mgt.pldm.state = fdIDLE → s.leads .management = true → s.asleep = false → s.dark 2 = false → exec (.requestUpdate iid) s = .next ((s.fd fdLEARN).pldm iid 5 0x10 0 [0#8, 0#8, 0#8]))) ∧
  (∀ (iid : BitVec 5) (c : BitVec 16) (z : Word) (s : State),
    (s.mgt.pldm.state = fdLEARN → exec (.passComponentTable iid true) s = .next ((s.fd fdREADY).pldm iid 5 0x13 0 [0#8, 0#8]) ∧
      exec (.passComponentTable iid false) s = .next (s.pldm iid 5 0x13 0 [0#8, 0#8])) ∧
    (s.mgt.pldm.state ≠ fdLEARN → exec (.passComponentTable iid true) s = .next (s.fdWrong iid 0x13)) ∧
    (s.mgt.pldm.state ≠ fdREADY → exec (.updateComponent iid c z) s = .next (s.fdWrong iid 0x14) ∧ exec (.activateFirmware iid) s = .next (s.fdWrong iid 0x1A)) ∧
    (s.mgt.pldm.state = fdREADY → c = 1#16 ∨ c = 2#16 → z.toNat ≤ s.stageArea.2 → ∃ t : State, ∃ body, exec (.updateComponent iid c z) s = .next (t.pldm iid 5 0x14 0 (List.replicate 6 0#8 ++ body)).tickFree ∧
      t.mgt.pldm = ⟨fdDOWNLOAD, fdREADY, c.toNat, z.toNat, 0⟩) ∧
    (s.mgt.pldm.state = fdREADY → (c ≠ 1#16 ∧ c ≠ 2#16) ∨ s.stageArea.2 < z.toNat → ∃ body, exec (.updateComponent iid c z) s = .next (s.pldm iid 5 0x14 0 (1#8 :: body)).tickFree) ∧
    (s.mgt.pldm.state = fdREADY → exec (.activateFirmware iid) s = .next (((s.fd fdIDLE).pldm iid 5 0x1A 0 (s.freeData 2))).tickFree) ∧
    exec (.getStatus iid) s = .next (s.pldm iid 5 0x1B 0 (leBytes 1 s.mgt.pldm.state ++ leBytes 1 s.mgt.pldm.previous ++ s.freeData 8)).tickFree ∧
    (s.mgt.pldm.state = fdIDLE → exec (.cancelUpdate iid) s = .next (s.pldm iid 5 0x1D 0x80 [])) ∧
    (s.mgt.pldm.state ≠ fdIDLE → exec (.cancelUpdate iid) s = .next ((s.fd fdIDLE).pldm iid 5 0x1D 0 (leBytes 9 0)))) ∧
  (∀ (d : List Byte) (s : State), s.fdRuns fdDOWNLOAD = true → s.getB CfgStageCmd.adr CfgStageCmd.busy = false → d ≠ [] → d.length ≤ s.mgt.pldm.size - s.mgt.pldm.offset →
    ∃ t : State, exec (.requestFirmwareData d) s = .next t ∧ t.mgt.pldm = { s.mgt.pldm with offset := s.mgt.pldm.offset + d.length } ∧
      t.out.getLast? = some (.flashProgram (s.stageArea.1 + s.mgt.pldm.offset) d)) ∧
  (∀ (env img : List Byte) (s : State),
    (s.fdRuns fdDOWNLOAD = true → s.mgt.pldm.size ≤ s.mgt.pldm.offset → exec .transferComplete s = .next ((s.fd fdVERIFY).pldmAsks 0x16 [0#8])) ∧
    (s.fdRuns fdVERIFY = true → ∀ h, s.boot.hdr = some h →
      ([0x10, 0x11, 0x17].contains (s.installFault h env img) = false → exec (.verifyComplete env img) s = .next ((s.fd fdAPPLY).pldmAsks 0x17 [0#8])) ∧
      ([0x10, 0x11, 0x17].contains (s.installFault h env img) = true → exec (.verifyComplete env img) s = .next ((s.fd fdREADY).pldmAsks 0x17 [1#8]))) ∧
    (s.fdRuns fdAPPLY = true →
      exec .applyComplete s = .next ((((s.startClocks [ckFLS]).emit (.flashProgram s.stageArea.1 (leBytes 4 0xA55AC33C))).fd fdREADY).pldmAsks 0x18 [0#8]))) ∧
  (∀ s : State, exec .spdmGetVersion s = .next (s.spdm [0x10#8, 0x04#8, 0#8, 0#8, 0#8, 1#8, 0x00#8, 0x12#8]) ∧
    exec .getCapabilities s = .next (s.spdm ([0x12#8, 0x61#8, 0#8, 0#8] ++ s.freeData 4 ++ leBytes 4 (2 ^ 2 + 2 ^ 4 + 2 ^ 16) ++ slice (s.freeData 12) 4 8)).tickFree ∧
    exec .negotiateAlgorithms s = .next (s.spdm ([0x12#8, 0x63#8, 0#8, 0#8] ++ leBytes 2 36 ++ [1#8, 0#8] ++ leBytes 4 4 ++ leBytes 4 0x80 ++ leBytes 4 2 ++ leBytes 16 0))) ∧
  (∀ (q : List Byte) (a : Option (List Byte)) (s : State), s.mgtUp = true →
    (s.getB SysTrust.adr SysTrust.keysLocked = true ∨ s.halted = true → exec (.challenge q a) s = .next (s.spdm (spdmError 5#8)) ∧ exec (.getMeasurements q a) s = .next (s.spdm (spdmError 5#8))) ∧
    (s.getB SysTrust.adr SysTrust.keysLocked = false → s.halted = false → s.asleep = false → s.boot.replacing = none → s.bootStep = 0xFF →
      (∀ r, a = some r → exec (.challenge q a) s = .next ((s.emit (.toFirmware q)).spdm r) ∧ exec (.getMeasurements q a) s = .next ((s.emit (.toFirmware q)).spdm r)) ∧
      (a = none → exec (.challenge q a) s = .next (s.spdm (spdmError 3#8)) ∧ exec (.getMeasurements q a) s = .next (s.spdm (spdmError 3#8)))) ∧
    (s.getB SysTrust.adr SysTrust.keysLocked = false → s.halted = false → s.asleep = true ∨ s.bootStep ≠ 0xFF →
      exec (.challenge q a) s = .next (s.spdm (spdmError 3#8)) ∧ exec (.getMeasurements q a) s = .next (s.spdm (spdmError 3#8))))

/-- Port links come up and go down, auto-negotiation completes and restarts, and the TAP leaves the registers alone (R118, R515, R583, R584, R585, R586, R587). -/
def Obligations.PortLinksAndTheTap : Prop :=
  (∀ (p : Fin 25) (s : State), s.portOn p = true → s.locked p = true → s.anReady p = true → exec (.portUp p) s = .next (s.setLink p true)) ∧
  (∀ (p : Nat) (v : Bool) (s : State), s.linkUpAt p = v → s.setLink p v = s) ∧
  (∀ (p : Nat) (s : State), p < 16 → (s.linkUpAt p = false → s.setLink p true = (s.set (Dpx.adr p) Dpx.link 1).raise 21 4 p) ∧
    (s.linkUpAt p = true → s.setLink p false = (s.set (Dpx.adr p) Dpx.link 0).raise 21 5 p)) ∧
  (∀ (p : Nat) (s : State) (a m : Nat), 16 ≤ p → p < 24 → a = Fpx.adr ((p - 16) / 4) → m = s.get a Fpx.link →
    (s.linkUpAt p = false → s.setLink p true = (s.set a Fpx.link (withBit m ((p - 16) % 4))).raise 22 4 p) ∧
    (s.linkUpAt p = true → s.setLink p false = (s.set a Fpx.link (dropBit m ((p - 16) % 4))).raise 22 5 p)) ∧
  (∀ (p : Fin 25) (s u : State), s.locked p = true → u = { s with ports := { s.ports with lock := sdel s.ports.lock p } } →
    (p.val < 16 → exec (.portDown p) s = .next ((u.set (Dpx.adr p) Dpx.anDone 0).setLink p false)) ∧ (16 ≤ p.val → exec (.portDown p) s = .next (u.setLink p false))) ∧
  (∀ (p : Fin 25) (s : State), s.portOn p = true → s.locked p = false → exec (.pcsLock p) s = .next { s with ports := { s.ports with lock := sins s.ports.lock p s.ticks } }) ∧
  (∀ (p : Fin 16) (v : BitVec 3) (s : State), s.portOn p = true → s.locked p = true → s.actB (Dpx.adr p) Dpx.an = true →
    (s.act (Dpx.adr p) Dpx.ptype ≠ 5 → exec (.autonegDone p v) s = .next (s.set (Dpx.adr p) Dpx.anDone 1)) ∧
    (s.act (Dpx.adr p) Dpx.ptype = 5 → ∃ t : State, exec (.autonegDone p v) s = .next t ∧ t.get (Dpx.adr p) Dpx.phySpeed = min 4 v.toNat ∧ t.getB (Dpx.adr p) Dpx.anDone = true ∧
      t.ports.lock = s.ports.lock ∧ t.ports.usx = (match phyRate v.toNat with | some r => sins s.ports.usx p r | none => s.ports.usx))) ∧
  (∀ (p : Fin 16) (s : State), exec (.autonegRestart p) s = .next (s.set (Dpx.adr p) Dpx.anDone 0)) ∧
  (∀ (tdi pins load : List Bool) (s : State), s.pwr.off = false →
    exec .jtagTrst s = .next { s with jtag := { s.jtag with instr := .idcode } } ∧
    exec (.bypass tdi) s = .next { s with jtag := ⟨.bypass, s.jtag.cells⟩, out := s.out ++ [.jtag ((false :: tdi).take tdi.length)] } ∧
    exec .idcode s = .next { s with jtag := ⟨.idcode, s.jtag.cells⟩, out := s.out ++ [.jtag idcode] } ∧
    exec (.samplePreload pins load) s = .next { s with jtag := ⟨.samplePreload, load⟩, out := s.out ++ [.jtag pins] } ∧
    exec (.extest pins load) s = .next { s with jtag := ⟨.extest, load⟩, out := s.out ++ [.jtag pins] } ∧
    exec (.extestPulse pins load) s = .next { s with jtag := ⟨.extestPulse, load⟩, out := s.out ++ [.jtag pins] } ∧
    exec (.extestTrain pins load) s = .next { s with jtag := ⟨.extestTrain, load⟩, out := s.out ++ [.jtag pins] } ∧
    exec (.clamp tdi) s = .next { s with jtag := ⟨.clamp, s.jtag.cells⟩, out := s.out ++ [.jtag ((false :: tdi).take tdi.length)] } ∧
    exec (.highz tdi) s = .next { s with jtag := ⟨.highz, s.jtag.cells⟩, out := s.out ++ [.jtag ((false :: tdi).take tdi.length)] }) ∧
  (idcode.length = 32 ∧ idcode.getD 0 false = true ∧ (∀ i < 11, idcode.getD (1 + i) false = Config.jep106.testBit i) ∧
    (∀ i < 16, idcode.getD (12 + i) false = (0x4160 : Nat).testBit i) ∧ ∀ i < 4, idcode.getD (28 + i) false = Config.stepping.testBit i) ∧
  (∀ (tdi pins load : List Bool) (s : State), s.pwr.off = true →
    exec .jtagTrst s = .next s ∧ exec (.bypass tdi) s = .next s ∧ exec .idcode s = .next s ∧ exec (.samplePreload pins load) s = .next s ∧ exec (.extest pins load) s = .next s ∧
    exec (.extestPulse pins load) s = .next s ∧ exec (.extestTrain pins load) s = .next s ∧ exec (.clamp tdi) s = .next s ∧ exec (.highz tdi) s = .next s)

/-- MACsec protects what leaves a port, stops at an exhausted PN, reads the key of the SA, which an uncorrectable error
empties (R452), and judges what arrives (R464, R465, R471); the layout and the computation of the ICV, and the free ICV under
an EMPTY slot, are the model's choice (log 22, log 84). -/
def Obligations.MacsecProtectsAndChecks : Prop :=
  (∀ (p : Nat) (f : List Byte) (s : State), s.msecOn p = false → s.msecTx p f = (s, some f) ∧ s.msecRx p f = (s, true)) ∧
  (∀ (p : Nat) (f : List Byte) (s : State), beAt f 12 2 = 0x888E → s.msecTx p f = (s, some f)) ∧
  (∀ (p n pn slot : Nat) (f g : List Byte) (s t k : State), s.msecOn p = true → beAt f 12 2 ≠ 0x888E →
    t = s.latchMask (fun x => if IgeMsecPort.adr p ≤ x ∧ x < IgeMsecPort.adr p + 0x40 then 0xFFFFFFFF#32 else 0) →
    n = t.act (IgeMsecPort.adr p) IgeMsecPort.txSa → pn = t.get (IgeTxsa.adr p n) IgeTxsa.currentPn →
    slot = t.act (IgeTxsa.adr p n) IgeTxsa.keySlot → k = t.keyMet slot →
    (t.pnLimit p ≤ pn → s.msecTx p f = ((t.bump (IgeMsecPort.adr p) IgeMsecPort.outDrop).igeEvent 6 (p + 65536 * n), none)) ∧
    (pn < t.pnLimit p → g = f.take 12 ++ t.secTag p (t.act (IgeTxsa.adr p n) IgeTxsa.an) pn (f.length - 12) ++ f.drop 12 → ∀ u : State,
      u = ((if k.keyState slot = 0 then k.tickFree else k).set (IgeTxsa.adr p n) IgeTxsa.currentPn (pn + 1)).bump (IgeMsecPort.adr p) IgeMsecPort.outProtected →
      (s.msecTx p f).1 = (if pn + 1 = u.act (IgeMsecPort.adr p) IgeMsecPort.pnThreshold then u.igeEvent 5 (p + 65536 * n) else u) ∧
      (k.keyState slot ≠ 0 → (s.msecTx p f).2 = some (g ++ (aesGmac (k.keyOf slot) (t.msecIv p (IgeTxsa.adr p n) (t.portSci p) pn) g).take 16)) ∧
      (k.keyState slot = 0 → ∃ icv, (s.msecTx p f).2 = some (g ++ icv) ∧ icv.length = 16))) ∧
  (∀ (i : Nat) (s : State), (s.ige.badKeys.contains i = false → s.keyMet i = s) ∧
    (s.ige.badKeys.contains i = true → s.keyMet i = (s.clearKey i).igeEvent 8 i)) ∧
  (∀ (p : Nat) (f : List Byte) (s : State), s.msecOn p = true →
    (beAt f 12 2 = 0x888E → s.msecRx p f = (s, true)) ∧
    (beAt f 12 2 ≠ 0x888E → beAt f 12 2 ≠ 0x88E5 ∨ bit (beAt f 14 1) 3 = true →
      s.msecRx p f = ((s.bump (IgeMsecPort.adr p) IgeMsecPort.inNotValid).igeEvent 4 p,
        ((s.bump (IgeMsecPort.adr p) IgeMsecPort.inNotValid).igeEvent 4 p).act (IgeMsecPort.adr p) IgeMsecPort.validate != 2))) ∧
  (∀ (p : Nat) (f : List Byte) (sci : Option Nat) (s : State), s.msecOn p = true → beAt f 12 2 = 0x88E5 → bit (beAt f 14 1) 3 = false →
    sci = (if bit (beAt f 14 1) 5 = true then some (beAt f 20 8) else none) →
    (s.rxSc p sci = none ∨ (∃ c, s.rxSc p sci = some c ∧ s.rxSa p c (beAt f 14 1 % 4) = none) →
      s.msecRx p f = ((s.bump (IgeMsecPort.adr p) IgeMsecPort.inNoSa).igeEvent 4 p,
        ((s.bump (IgeMsecPort.adr p) IgeMsecPort.inNoSa).igeEvent 4 p).act (IgeMsecPort.adr p) IgeMsecPort.validate != 2)) ∧
    (∀ (c sa : Nat), s.rxSc p sci = some c → s.rxSa p c (beAt f 14 1 % 4) = some sa → s.rxKeyMet p f = s.keyMet (s.act sa IgeTxsa.keySlot))) ∧
  (∀ (p c sa lowest pn n slot : Nat) (good : Bool) (f : List Byte) (sci : Option Nat) (s u : State), u = s.rxKeyMet p f → u.msecOn p = true →
    beAt f 12 2 = 0x88E5 → bit (beAt f 14 1) 3 = false → sci = (if bit (beAt f 14 1) 5 = true then some (beAt f 20 8) else none) →
    u.rxSc p sci = some c → u.rxSa p c (beAt f 14 1 % 4) = some sa → lowest = u.get sa IgeTxsa.currentPn →
    pn = recoverPn (u.msecXpn p) lowest (beAt f 16 4) → slot = u.act sa IgeTxsa.keySlot →
    n = (if beAt f 15 1 % 64 = 0 then f.length - 16 else 12 + (if sci.isSome = true then 16 else 8) + beAt f 15 1 % 64) →
    good = (u.keyState slot != 0 &&
      (aesGmac (u.keyOf slot) (u.msecIv p sa (sci.getD (u.act (IgeRxsc.adr p c) IgeRxsc.sci)) pn) (f.take n)).take 16 == (f.drop n).take 16) →
    (u.act (IgeMsecPort.adr p) IgeMsecPort.validate = 0 → s.msecRx p f = (u, true)) ∧
    (u.act (IgeMsecPort.adr p) IgeMsecPort.validate = 1 → good = false → (s.msecRx p f).1 = (u.bump (IgeMsecPort.adr p) IgeMsecPort.inInvalid).igeEvent 4 p) ∧
    (u.act (IgeMsecPort.adr p) IgeMsecPort.validate = 2 → good = false → (s.msecRx p f).1 = (u.bump (IgeMsecPort.adr p) IgeMsecPort.inNotValid).igeEvent 4 p) ∧
    (u.act (IgeMsecPort.adr p) IgeMsecPort.validate ≠ 0 → good = true →
      (u.actB (IgeMsecPort.adr p) IgeMsecPort.replayProtect = true → pn < lowest →
        s.msecRx p f = ((u.bump (IgeMsecPort.adr p) IgeMsecPort.inLate).igeEvent 4 p, false)) ∧
      (u.actB (IgeMsecPort.adr p) IgeMsecPort.replayProtect = false ∨ lowest ≤ pn →
        s.msecRx p f = ((u.bump (IgeMsecPort.adr p) IgeMsecPort.inOk).set sa IgeTxsa.currentPn (max lowest (pn + 1 - u.act (IgeMsecPort.adr p) IgeMsecPort.replayWindow)), true))))

end
end

