-- ==== Sys2Proof/Laws/Sparse.lean ====
section
/-!
SUPPORT. The laws of sparse stores: what a read gives after a write, and that a write keeps the
canonical form.
-/

namespace Sys2Proof.Machine

theorem sget_sdel {α : Type} (d : α) (m : List (Nat × α)) (j k : Nat) :
    sget d (sdel m j) k = if k = j then d else sget d m k := by
  induction m with
  | nil => simp [sdel, sget]
  | cons p m ih =>
    obtain ⟨a, v⟩ := p
    simp only [sdel]
    by_cases h : j = a
    · subst h
      rw [if_pos rfl, ih]
      by_cases hk : k = j
      · simp [hk]
      · simp [hk, sget]
    · rw [if_neg h]
      simp only [sget, ih]
      by_cases hk : k = a
      · subst hk
        simp [Ne.symm h]
      · simp [hk]

theorem sget_sins {α : Type} (d : α) (m : List (Nat × α)) (j k : Nat) (w : α) :
    sget d (sins m j w) k = if k = j then w else sget d m k := by
  induction m with
  | nil => simp [sins, sget]
  | cons p m ih =>
    obtain ⟨a, v⟩ := p
    simp only [sins]
    by_cases h : j < a
    · rw [if_pos h]
      simp [sget]
    · rw [if_neg h]
      by_cases h2 : j = a
      · subst h2
        by_cases hk : k = j <;> simp [sget, hk]
      · simp only [if_neg h2, sget, ih]
        by_cases hk : k = a
        · subst hk
          simp [Ne.symm h2]
        · simp [hk]

/-- A read after a write gives the value written, and every other key reads as before. -/
theorem sget_sput {α : Type} [DecidableEq α] (d : α) (m : List (Nat × α)) (j k : Nat) (w : α) :
    sget d (sput d m j w) k = if k = j then w else sget d m k := by
  unfold sput
  split
  · rename_i h
    subst h
    exact sget_sdel _ m j k
  · exact sget_sins _ m j k w

/-- The default matters only at the key that is read. -/
theorem sget_sput_ne {α : Type} [DecidableEq α] (d d' : α) (m : List (Nat × α)) (j k : Nat) (w : α) (h : k ≠ j) :
    sget d (sput d' m j w) k = sget d m k := by
  unfold sput
  split
  · rw [sget_sdel, if_neg h]
  · rw [sget_sins, if_neg h]

theorem srising_mono {α : Type} (lo lo' : Nat) (m : List (Nat × α)) (h : lo' ≤ lo) (r : srising lo m = true) :
    srising lo' m = true := by
  cases m with
  | nil => rfl
  | cons p m =>
    obtain ⟨k, v⟩ := p
    simp only [srising, Bool.and_eq_true, decide_eq_true_eq] at r ⊢
    exact ⟨Nat.le_trans h r.1, r.2⟩

theorem srising_sins {α : Type} (lo : Nat) (m : List (Nat × α)) (j : Nat) (w : α) (h : lo ≤ j)
    (r : srising lo m = true) : srising lo (sins m j w) = true := by
  induction m generalizing lo with
  | nil => simp [sins, srising, h]
  | cons p m ih =>
    obtain ⟨k, v⟩ := p
    simp only [srising, Bool.and_eq_true, decide_eq_true_eq] at r
    simp only [sins]
    split
    · simp only [srising, Bool.and_eq_true, decide_eq_true_eq]
      exact ⟨h, by omega, r.2⟩
    · split
      · simp only [srising, Bool.and_eq_true, decide_eq_true_eq]
        rename_i h2
        subst h2
        exact ⟨h, r.2⟩
      · simp only [srising, Bool.and_eq_true, decide_eq_true_eq]
        exact ⟨r.1, ih (k + 1) (by omega) r.2⟩

theorem srising_filter {α : Type} (lo : Nat) (m : List (Nat × α)) (p : Nat × α → Bool)
    (r : srising lo m = true) : srising lo (m.filter p) = true := by
  induction m generalizing lo with
  | nil => rfl
  | cons x m ih =>
    obtain ⟨k, v⟩ := x
    simp only [srising, Bool.and_eq_true, decide_eq_true_eq] at r
    simp only [List.filter_cons]
    split
    · simp only [srising, Bool.and_eq_true, decide_eq_true_eq]
      exact ⟨r.1, ih _ r.2⟩
    · exact srising_mono (k + 1) lo _ (by omega) (ih _ r.2)

theorem sdel_eq_filter {α : Type} (m : List (Nat × α)) (j : Nat) :
    sdel m j = m.filter (fun p => decide (p.1 ≠ j)) := by
  induction m with
  | nil => rfl
  | cons x m ih =>
    obtain ⟨k, v⟩ := x
    simp only [sdel, List.filter_cons, ih]
    by_cases h : j = k
    · simp [h]
    · simp [h, Ne.symm h]

theorem srising_sdel {α : Type} (lo : Nat) (m : List (Nat × α)) (j : Nat)
    (r : srising lo m = true) : srising lo (sdel m j) = true := by
  rw [sdel_eq_filter]
  exact srising_filter lo m _ r

/-- A write keeps the keys strictly rising. -/
theorem srising_sput {α : Type} [DecidableEq α] (d : α) (m : List (Nat × α)) (j : Nat) (w : α)
    (r : srising 0 m = true) : srising 0 (sput d m j w) = true := by
  unfold sput
  split
  · exact srising_sdel 0 m j r
  · exact srising_sins 0 m j w (Nat.zero_le _) r

theorem mem_sins {α : Type} (m : List (Nat × α)) (j : Nat) (w : α) (x : Nat × α) (h : x ∈ sins m j w) :
    x = (j, w) ∨ x ∈ m := by
  induction m with
  | nil => simpa [sins] using h
  | cons p m ih =>
    obtain ⟨k, v⟩ := p
    simp only [sins] at h
    split at h
    · simpa using h
    · split at h
      · rcases List.mem_cons.1 h with h | h
        · exact .inl h
        · exact .inr (List.mem_cons_of_mem _ h)
      · rcases List.mem_cons.1 h with h | h
        · exact .inr (h ▸ List.mem_cons_self)
        · exact (ih h).imp id (List.mem_cons_of_mem _)

/-- A write of a store whose default at the key is `dflt` keeps the canonical form. -/
theorem swf_sput {α : Type} [DecidableEq α] (dflt : Nat → α) (m : List (Nat × α)) (j : Nat) (w : α)
    (h : swf dflt m = true) : swf dflt (sput (dflt j) m j w) = true := by
  simp only [swf, Bool.and_eq_true] at h ⊢
  refine ⟨srising_sput _ m j w h.1, ?_⟩
  rw [List.all_eq_true] at h ⊢
  intro x hx
  unfold sput at hx
  split at hx
  · rw [sdel_eq_filter] at hx
    exact h.2 x (List.mem_filter.1 hx).1
  · rename_i hne
    rcases mem_sins m j w x hx with hx | hx
    · subst hx
      simpa using hne
    · exact h.2 x hx

theorem swf_filter {α : Type} [DecidableEq α] (dflt : Nat → α) (m : List (Nat × α)) (p : Nat × α → Bool)
    (h : swf dflt m = true) : swf dflt (m.filter p) = true := by
  simp only [swf, Bool.and_eq_true] at h ⊢
  refine ⟨srising_filter 0 m p h.1, ?_⟩
  rw [List.all_eq_true] at h ⊢
  intro x hx
  exact h.2 x (List.mem_filter.1 hx).1

end Sys2Proof.Machine
end

