-- ==== Sys2Proof/Laws/Regs.lean ====
section
/-!
SUPPORT. The laws of the register file: what a field reads as, written or in force, after the device
sets a field, and that nothing but the register file changes.
-/

namespace Sys2Proof.Machine

/-! ## Words -/

@[simp] theorem State.rd_setReg (s : State) (a : Nat) (w : Word) (b : Nat) :
    (s.setReg a w).rd b = if b = a then w else s.rd b := by
  unfold State.setReg State.rd
  by_cases h : b = a
  · subst h
    simp [sget_sput]
  · simp only [if_neg h]
    exact sget_sput_ne _ _ _ _ _ _ h

@[simp] theorem State.rd_setForce (s : State) (a : Nat) (w : Word) (b : Nat) :
    (s.setForce a w).rd b = s.rd b := rfl

@[simp] theorem State.inForce_setForce (s : State) (a : Nat) (w : Word) (b : Nat) :
    (s.setForce a w).inForce b = if b = a then w else s.inForce b := by
  unfold State.inForce
  rw [State.rd_setForce]
  unfold State.setForce
  by_cases h : b = a
  · subst h
    simp [sget_sput]
  · simp only [if_neg h]
    exact sget_sput_ne _ _ _ _ _ _ h

theorem State.inForce_setReg_ne (s : State) (a : Nat) (w : Word) (b : Nat) (h : b ≠ a) :
    (s.setReg a w).inForce b = s.inForce b := by
  unfold State.inForce
  rw [State.rd_setReg, if_neg h]
  rfl

@[simp] theorem State.rd_setBits (s : State) (a : Nat) (m v : Word) (b : Nat) :
    (s.setBits a m v).rd b = if b = a then merge m (s.rd a) v else s.rd b := by
  simp [State.setBits]

@[simp] theorem State.inForce_setBits (s : State) (a : Nat) (m v : Word) (b : Nat) :
    (s.setBits a m v).inForce b = if b = a then merge m (s.inForce a) v else s.inForce b := by
  simp only [State.setBits, State.inForce_setForce]
  by_cases h : b = a
  · simp [h]
  · simp only [if_neg h]
    exact State.inForce_setReg_ne s a _ b h

theorem merge_bit (m w v : Word) (i : Nat) :
    (merge m w v).getLsbD i = if m.getLsbD i then v.getLsbD i else w.getLsbD i := by
  unfold merge
  by_cases hi : i < 32
  · simp only [BitVec.getLsbD_or, BitVec.getLsbD_and, BitVec.getLsbD_not, hi, decide_true, Bool.true_and]
    cases m.getLsbD i <;> simp
  · simp [BitVec.getLsbD_of_ge _ _ (Nat.le_of_not_lt hi)]

/-! ## Several words -/

theorem testBit_wordsOf (r : Nat → Word) (n a i : Nat) :
    (wordsOf r n a).testBit i = (decide (i < 32 * n) && (r (a + 4 * (i / 32))).getLsbD (i % 32)) := by
  induction n generalizing a i with
  | zero => simp [wordsOf]
  | succ n ih =>
    simp only [wordsOf]
    rw [Nat.add_comm, Nat.testBit_two_pow_mul_add _ (BitVec.isLt _)]
    by_cases h : i < 32
    · rw [if_pos h]
      have h0 : i / 32 = 0 := by omega
      have h1 : i % 32 = i := by omega
      have h2 : i < 32 * (n + 1) := by omega
      simp [h0, h1, h2, BitVec.getLsbD]
    · rw [if_neg h, ih]
      have h0 : a + 4 + 4 * ((i - 32) / 32) = a + 4 * (i / 32) := by omega
      have h1 : (i - 32) % 32 = i % 32 := by omega
      have h2 : (i - 32 < 32 * n) ↔ (i < 32 * (n + 1)) := by omega
      simp [h0, h1, h2]

theorem Fld.lt_words (f : Fld) (i : Nat) (h : i < f.width) : i + f.lo < 32 * f.words := by
  unfold Fld.words
  omega

theorem testBit_fieldOf (r : Nat → Word) (b : Nat) (f : Fld) (i : Nat) :
    (fieldOf r b f).testBit i
      = (decide (i < f.width) && (r (b + f.off + 4 * ((i + f.lo) / 32))).getLsbD ((i + f.lo) % 32)) := by
  unfold fieldOf
  rw [Nat.testBit_mod_two_pow, Nat.testBit_div_two_pow, testBit_wordsOf]
  by_cases h : i < f.width
  · simp [h, f.lt_words i h]
  · simp [h]

theorem maskAt_bit (f : Fld) (j i : Nat) (hi : i < 32) :
    (f.maskAt j).getLsbD i = (decide (f.lo ≤ 32 * j + i) && decide (32 * j + i < f.lo + f.width)) := by
  unfold Fld.maskAt
  rw [BitVec.getLsbD_ofNat, Nat.testBit_shiftRight, Nat.testBit_shiftLeft, Nat.testBit_two_pow_sub_one]
  simp only [hi, decide_true, Bool.true_and]
  by_cases h : f.lo ≤ 32 * j + i
  · simp only [ge_iff_le, h, decide_true, Bool.true_and, decide_eq_decide]
    omega
  · simp [h]

/-- What a word reads after the words of a field are set: a step of `setWords` for each. -/
theorem rd_setWords (f : Fld) (v : Nat) (n i a : Nat) (s : State) (b : Nat) :
    (setWords f v n i a s).rd b
      = if a ≤ b ∧ b < a + 4 * n ∧ (b - a) % 4 = 0 then
          merge (f.maskAt (i + (b - a) / 4)) (s.rd b) (BitVec.ofNat 32 ((v <<< f.lo) >>> (32 * (i + (b - a) / 4))))
        else s.rd b := by
  induction n generalizing i a s with
  | zero =>
    have : ¬ (a ≤ b ∧ b < a + 4 * 0 ∧ (b - a) % 4 = 0) := by omega
    rw [if_neg this]
    rfl
  | succ n ih =>
    simp only [setWords]
    rw [ih, State.rd_setBits]
    by_cases h0 : b = a
    · subst h0
      have h1 : ¬ (b + 4 ≤ b ∧ b < b + 4 + 4 * n ∧ (b - (b + 4)) % 4 = 0) := by omega
      have h2 : b ≤ b ∧ b < b + 4 * (n + 1) ∧ (b - b) % 4 = 0 := by omega
      rw [if_neg h1, if_pos h2, if_pos rfl]
      simp
    · rw [if_neg h0]
      by_cases h1 : a + 4 ≤ b ∧ b < a + 4 + 4 * n ∧ (b - (a + 4)) % 4 = 0
      · have h2 : a ≤ b ∧ b < a + 4 * (n + 1) ∧ (b - a) % 4 = 0 := by omega
        have h3 : i + 1 + (b - (a + 4)) / 4 = i + (b - a) / 4 := by omega
        rw [if_pos h1, if_pos h2, h3]
      · have h2 : ¬ (a ≤ b ∧ b < a + 4 * (n + 1) ∧ (b - a) % 4 = 0) := by omega
        rw [if_neg h1, if_neg h2]

theorem inForce_setWords (f : Fld) (v : Nat) (n i a : Nat) (s : State) (b : Nat) :
    (setWords f v n i a s).inForce b
      = if a ≤ b ∧ b < a + 4 * n ∧ (b - a) % 4 = 0 then
          merge (f.maskAt (i + (b - a) / 4)) (s.inForce b) (BitVec.ofNat 32 ((v <<< f.lo) >>> (32 * (i + (b - a) / 4))))
        else s.inForce b := by
  induction n generalizing i a s with
  | zero =>
    have : ¬ (a ≤ b ∧ b < a + 4 * 0 ∧ (b - a) % 4 = 0) := by omega
    rw [if_neg this]
    rfl
  | succ n ih =>
    simp only [setWords]
    rw [ih, State.inForce_setBits]
    by_cases h0 : b = a
    · subst h0
      have h1 : ¬ (b + 4 ≤ b ∧ b < b + 4 + 4 * n ∧ (b - (b + 4)) % 4 = 0) := by omega
      have h2 : b ≤ b ∧ b < b + 4 * (n + 1) ∧ (b - b) % 4 = 0 := by omega
      rw [if_neg h1, if_pos h2, if_pos rfl]
      simp
    · rw [if_neg h0]
      by_cases h1 : a + 4 ≤ b ∧ b < a + 4 + 4 * n ∧ (b - (a + 4)) % 4 = 0
      · have h2 : a ≤ b ∧ b < a + 4 * (n + 1) ∧ (b - a) % 4 = 0 := by omega
        have h3 : i + 1 + (b - (a + 4)) / 4 = i + (b - a) / 4 := by omega
        rw [if_pos h1, if_pos h2, h3]
      · have h2 : ¬ (a ≤ b ∧ b < a + 4 * (n + 1) ∧ (b - a) % 4 = 0) := by omega
        rw [if_neg h1, if_neg h2]

/-! ## Fields -/

theorem merged_bit (f : Fld) (v : Nat) (w : Word) (j i : Nat) (hi : i < 32) :
    (merge (f.maskAt j) w (BitVec.ofNat 32 ((v <<< f.lo) >>> (32 * j)))).getLsbD i
      = if f.lo ≤ 32 * j + i ∧ 32 * j + i < f.lo + f.width then v.testBit (32 * j + i - f.lo) else w.getLsbD i := by
  rw [merge_bit, maskAt_bit f j i hi]
  by_cases h : f.lo ≤ 32 * j + i ∧ 32 * j + i < f.lo + f.width
  · rw [if_pos h]
    simp only [h.1, h.2, decide_true, Bool.and_self, if_true]
    rw [BitVec.getLsbD_ofNat, Nat.testBit_shiftRight, Nat.testBit_shiftLeft]
    simp [hi, h.1]
  · rw [if_neg h]
    have : (decide (f.lo ≤ 32 * j + i) && decide (32 * j + i < f.lo + f.width)) = false := by
      simp only [Bool.and_eq_false_iff, decide_eq_false_iff_not]
      omega
    rw [this]
    simp

/-- A reader that sees the merged words of a field reads the value that was set. -/
theorem fieldOf_same (r r' : Nat → Word) (b : Nat) (f : Fld) (v : Nat)
    (h : ∀ j < f.words, r' (b + f.off + 4 * j)
      = merge (f.maskAt j) (r (b + f.off + 4 * j)) (BitVec.ofNat 32 ((v <<< f.lo) >>> (32 * j)))) :
    fieldOf r' b f = v % 2 ^ f.width := by
  apply Nat.eq_of_testBit_eq
  intro i
  rw [testBit_fieldOf, Nat.testBit_mod_two_pow]
  by_cases hi : i < f.width
  · have hw := f.lt_words i hi
    have hj : (i + f.lo) / 32 < f.words := by omega
    rw [h _ hj, merged_bit _ _ _ _ _ (Nat.mod_lt _ (by omega))]
    have h1 : 32 * ((i + f.lo) / 32) + (i + f.lo) % 32 = i + f.lo := by omega
    rw [h1, if_pos (by omega)]
    simp [hi]
  · simp [hi]

theorem fieldOf_apart (r r' : Nat → Word) (b : Nat) (f : Fld) (b' : Nat) (f' : Fld) (v : Nat) (hd : f.Apart b b' f')
    (h : ∀ j < f.words, r' (b + f.off + 4 * j)
      = merge (f.maskAt j) (r (b + f.off + 4 * j)) (BitVec.ofNat 32 ((v <<< f.lo) >>> (32 * j))))
    (ho : ∀ a, (a < b + f.off ∨ b + f.off + 4 * f.words ≤ a) → r' a = r a) :
    fieldOf r' b' f' = fieldOf r b' f' := by
  apply Nat.eq_of_testBit_eq
  intro i
  rw [testBit_fieldOf, testBit_fieldOf]
  by_cases hi : i < f'.width
  · have hw := f'.lt_words i hi
    have hj : (i + f'.lo) / 32 < f'.words := by omega
    congr 1
    rcases hd with hd | hd | ⟨he, hd⟩
    · rw [ho _ (by omega)]
    · rw [ho _ (by omega)]
    · by_cases hin : (i + f'.lo) / 32 < f.words
      · rw [← he, h _ hin, merged_bit _ _ _ _ _ (Nat.mod_lt _ (by omega))]
        have h1 : 32 * ((i + f'.lo) / 32) + (i + f'.lo) % 32 = i + f'.lo := by omega
        rw [h1, if_neg (by omega)]
      · rw [ho _ (by omega)]
  · simp [hi]

theorem rd_set_word (s : State) (b : Nat) (f : Fld) (v j : Nat) (h : j < f.words) :
    (s.set b f v).rd (b + f.off + 4 * j)
      = merge (f.maskAt j) (s.rd (b + f.off + 4 * j)) (BitVec.ofNat 32 (((v % 2 ^ f.width) <<< f.lo) >>> (32 * j))) := by
  unfold State.set
  have e : b + f.off + 4 * j - (b + f.off) = 4 * j := by omega
  have e2 : 4 * j / 4 = j := by omega
  rw [rd_setWords, if_pos ⟨by omega, by omega, by omega⟩, e, e2, Nat.zero_add]

theorem inForce_set_word (s : State) (b : Nat) (f : Fld) (v j : Nat) (h : j < f.words) :
    (s.set b f v).inForce (b + f.off + 4 * j)
      = merge (f.maskAt j) (s.inForce (b + f.off + 4 * j))
          (BitVec.ofNat 32 (((v % 2 ^ f.width) <<< f.lo) >>> (32 * j))) := by
  unfold State.set
  have e : b + f.off + 4 * j - (b + f.off) = 4 * j := by omega
  have e2 : 4 * j / 4 = j := by omega
  rw [inForce_setWords, if_pos ⟨by omega, by omega, by omega⟩, e, e2, Nat.zero_add]

/-- A word outside the field's register reads as before. -/
theorem State.rd_set_out (s : State) (b : Nat) (f : Fld) (v a : Nat) (h : a < b + f.off ∨ b + f.off + 4 * f.words ≤ a) :
    (s.set b f v).rd a = s.rd a := by
  unfold State.set
  rw [rd_setWords, if_neg (by omega)]

theorem State.inForce_set_out (s : State) (b : Nat) (f : Fld) (v a : Nat)
    (h : a < b + f.off ∨ b + f.off + 4 * f.words ≤ a) :
    (s.set b f v).inForce a = s.inForce a := by
  unfold State.set
  rw [inForce_setWords, if_neg (by omega)]

/-- The field that is set reads the value, within its width. -/
@[simp] theorem State.get_set_same (s : State) (b : Nat) (f : Fld) (v : Nat) :
    (s.set b f v).get b f = v % 2 ^ f.width := by
  have h := fieldOf_same s.rd (s.set b f v).rd b f (v % 2 ^ f.width) (fun j hj => rd_set_word s b f v j hj)
  rw [Nat.mod_mod] at h
  exact h

/-- The value set is in force at once. -/
@[simp] theorem State.act_set_same (s : State) (b : Nat) (f : Fld) (v : Nat) :
    (s.set b f v).act b f = v % 2 ^ f.width := by
  have h := fieldOf_same s.inForce (s.set b f v).inForce b f (v % 2 ^ f.width)
    (fun j hj => inForce_set_word s b f v j hj)
  rw [Nat.mod_mod] at h
  exact h

/-- Every field that lies apart from the one that is set reads as before. -/
theorem State.get_set_apart (s : State) (b : Nat) (f : Fld) (v b' : Nat) (f' : Fld) (h : f.Apart b b' f') :
    (s.set b f v).get b' f' = s.get b' f' :=
  fieldOf_apart s.rd _ b f b' f' _ h (fun j hj => rd_set_word s b f v j hj) (fun a ha => s.rd_set_out b f v a ha)

theorem State.act_set_apart (s : State) (b : Nat) (f : Fld) (v b' : Nat) (f' : Fld) (h : f.Apart b b' f') :
    (s.set b f v).act b' f' = s.act b' f' :=
  fieldOf_apart s.inForce _ b f b' f' _ h (fun j hj => inForce_set_word s b f v j hj)
    (fun a ha => s.inForce_set_out b f v a ha)

/-! ## Operations that leave the register file alone -/

@[simp] theorem State.rd_emit (s : State) (o : Out) (a : Nat) : (s.emit o).rd a = s.rd a := rfl
@[simp] theorem State.inForce_emit (s : State) (o : Out) (a : Nat) : (s.emit o).inForce a = s.inForce a := rfl
@[simp] theorem State.get_emit (s : State) (o : Out) (b : Nat) (f : Fld) : (s.emit o).get b f = s.get b f := rfl
@[simp] theorem State.act_emit (s : State) (o : Out) (b : Nat) (f : Fld) : (s.emit o).act b f = s.act b f := rfl
@[simp] theorem State.rd_tickFree (s : State) (a : Nat) : (s.tickFree).rd a = s.rd a := rfl
@[simp] theorem State.inForce_tickFree (s : State) (a : Nat) : (s.tickFree).inForce a = s.inForce a := rfl
@[simp] theorem State.get_tickFree (s : State) (b : Nat) (f : Fld) : (s.tickFree).get b f = s.get b f := rfl
@[simp] theorem State.act_tickFree (s : State) (b : Nat) (f : Fld) : (s.tickFree).act b f = s.act b f := rfl
@[simp] theorem State.rd_startClocks (s : State) (cs : List Nat) (a : Nat) : (s.startClocks cs).rd a = s.rd a := rfl
@[simp] theorem State.inForce_startClocks (s : State) (cs : List Nat) (a : Nat) : (s.startClocks cs).inForce a = s.inForce a := rfl
@[simp] theorem State.get_startClocks (s : State) (cs : List Nat) (b : Nat) (f : Fld) : (s.startClocks cs).get b f = s.get b f := rfl
@[simp] theorem State.act_startClocks (s : State) (cs : List Nat) (b : Nat) (f : Fld) : (s.startClocks cs).act b f = s.act b f := rfl
@[simp] theorem State.rd_prestartEnds (s : State) (k : Nat) (p : Nat → Bool) (a : Nat) : (s.prestartEnds k p).rd a = s.rd a := rfl
@[simp] theorem State.inForce_prestartEnds (s : State) (k : Nat) (p : Nat → Bool) (a : Nat) : (s.prestartEnds k p).inForce a = s.inForce a := rfl
@[simp] theorem State.get_prestartEnds (s : State) (k : Nat) (p : Nat → Bool) (b : Nat) (f : Fld) : (s.prestartEnds k p).get b f = s.get b f := rfl
@[simp] theorem State.act_prestartEnds (s : State) (k : Nat) (p : Nat → Bool) (b : Nat) (f : Fld) : (s.prestartEnds k p).act b f = s.act b f := rfl
@[simp] theorem State.rd_latchMask (s : State) (m : Nat → Word) (a : Nat) : (s.latchMask m).rd a = s.rd a := rfl
@[simp] theorem State.get_latchMask (s : State) (m : Nat → Word) (b : Nat) (f : Fld) : (s.latchMask m).get b f = s.get b f := rfl
@[simp] theorem State.rd_latchB (s : State) (p : Boundary → Nat → Bool) (a : Nat) : (s.latchB p).rd a = s.rd a := rfl
@[simp] theorem State.get_latchB (s : State) (p : Boundary → Nat → Bool) (b : Nat) (f : Fld) : (s.latchB p).get b f = s.get b f := rfl

theorem foldl_setBits_rd {α : Type} (g : α → Nat) (m w : α → Word) (a : Nat) (l : List α) (t : State) (h : ∀ x ∈ l, g x ≠ a) :
    (l.foldl (fun t x => t.setBits (g x) (m x) (w x)) t).rd a = t.rd a := by
  induction l generalizing t with
  | nil => rfl
  | cons x l ih =>
    rw [List.foldl_cons, ih _ (fun y hy => h y (List.mem_cons_of_mem _ hy)), State.rd_setBits,
      if_neg (fun e => h x List.mem_cons_self e.symm)]

/-- A flush writes no word but those of the active gate lists, and those of U13 alone. -/
theorem State.rd_flushUnit (s : State) (u a : Nat) (h : u ≠ 13 ∨ a < 0xDF0000 ∨ 0xE00000 ≤ a) : (s.flushUnit u).rd a = s.rd a := by
  unfold State.flushUnit
  rw [State.rd_latchMask]
  split
  · unfold State.flushGcl
    refine foldl_setBits_rd _ _ _ a _ s fun x hx => ?_
    have h1 := (List.mem_filter.1 hx).2
    simp only [isGcl, Bool.and_eq_true, decide_eq_true_eq] at h1
    omega
  · rfl

/-- Two states with one register file read alike. -/
theorem State.get_of_regs (s t : State) (h : t.regs = s.regs) (b : Nat) (f : Fld) : t.get b f = s.get b f := by
  have e : t.rd = s.rd := funext fun a => by unfold State.rd; rw [h]
  unfold State.get
  rw [e]

theorem State.act_of_regs (s t : State) (h : t.regs = s.regs) (h' : t.force = s.force) (b : Nat) (f : Fld) :
    t.act b f = s.act b f := by
  have e : t.inForce = s.inForce := funext fun a => by unfold State.inForce State.rd; rw [h, h']
  unfold State.act
  rw [e]

end Sys2Proof.Machine
end

