-- ==== Sys2Proof/Laws/State.lean ====
section
/-!
SUPPORT. The frames of the operations on the state: for each operation, one lemma for each part of the
state that it leaves alone.
-/

namespace Sys2Proof.Machine

/-! ## What an operation that is not a record update changes at most -/

theorem setWords_only {α : Type} (f : Fld) (v n i a : Nat) (s : State) (g : State → α)
    (h : ∀ t : State, ∀ r fo, g { t with regs := r, force := fo } = g t) : g (setWords f v n i a s) = g s := by
  induction n generalizing i a s with
  | zero => rfl
  | succ n ih =>
    simp only [setWords]
    rw [ih]
    exact h s _ _

theorem State.set_only {α : Type} (s : State) (b : Nat) (f : Fld) (v : Nat) (g : State → α)
    (h : ∀ r fo, g { s with regs := r, force := fo } = g s) : g (s.set b f v) = g s := by
  have e : ∀ n i a (t : State), ∃ r fo, setWords f (v % 2 ^ f.width) n i a t = { t with regs := r, force := fo } := by
    intro n
    induction n with
    | zero => exact fun _ _ t => ⟨t.regs, t.force, rfl⟩
    | succ n ih =>
      intro i a t
      obtain ⟨r, fo, hr⟩ := ih (i + 1) (a + 4)
        (t.setBits a (f.maskAt i) (BitVec.ofNat 32 (((v % 2 ^ f.width) <<< f.lo) >>> (32 * i))))
      exact ⟨r, fo, hr⟩
  obtain ⟨r, fo, hr⟩ := e f.words 0 (b + f.off) s
  rw [State.set, hr]
  exact h r fo

theorem State.revertMask_only {α : Type} (s : State) (m : Nat → Word) (g : State → α)
    (h : ∀ r fo, g { s with regs := r, force := fo } = g s) : g (s.revertMask m) = g s := by
  have e : ∀ l (t : State), ∃ r fo, revertList m l t = { t with regs := r, force := fo } := by
    intro l
    induction l with
    | nil => exact fun t => ⟨t.regs, t.force, rfl⟩
    | cons x l ih =>
      intro t
      obtain ⟨r, fo, hr⟩ := ih ((t.setReg x.1 (merge (m x.1) (t.rd x.1) x.2)).setForce x.1 x.2)
      exact ⟨r, fo, hr⟩
  obtain ⟨r, fo, hr⟩ := e s.force s
  rw [State.revertMask, hr]
  exact h r fo

theorem State.set_shape (s : State) (b : Nat) (f : Fld) (v : Nat) :
    ∃ r fo, s.set b f v = { s with regs := r, force := fo } :=
  ⟨(s.set b f v).regs, (s.set b f v).force, by
    have h := s.set_only b f v (fun t => { t with regs := (s.set b f v).regs, force := (s.set b f v).force })
      (fun _ _ => rfl)
    exact h⟩

theorem State.mgtEnter_shape (s : State) : ∃ r fo, s.mgtEnter.1 = { s with regs := r, force := fo } := by
  unfold State.mgtEnter
  split
  · dsimp only
    split
    · exact s.set_shape _ _ _
    · exact s.set_shape _ _ _
  · exact ⟨s.regs, s.force, rfl⟩

theorem State.mgtEnter_only {α : Type} (s : State) (g : State → α)
    (h : ∀ r fo, g { s with regs := r, force := fo } = g s) : g s.mgtEnter.1 = g s := by
  obtain ⟨r, fo, e⟩ := s.mgtEnter_shape
  rw [e]
  exact h r fo

theorem State.stage_shape (s : State) (e : Staged) :
    ∃ r fo q st, s.stage e = { s with regs := r, force := fo, qe := q, staged := st } := by
  unfold State.stage
  split
  · exact ⟨s.regs, s.force, s.qe, s.staged, rfl⟩
  · split
    · dsimp only
      obtain ⟨r, fo, h⟩ := State.set_shape { s with staged := s.staged ++ [e] } SvcStaging.adr SvcStaging.used
        (s.staged ++ [e]).length
      exact ⟨r, fo, s.qe, s.staged ++ [e], h⟩
    · dsimp only
      obtain ⟨r, fo, h⟩ := s.set_shape SvcStaging.adr SvcStaging.lost 1
      split
      · obtain ⟨r2, fo2, h2⟩ := State.set_shape (s.set SvcStaging.adr SvcStaging.lost 1)
          (QeEvq.adr (s.act (HifRoute.adr e.ev) HifRoute.evq)) QeTxq.overflow 1
        rw [h2, h]
        exact ⟨_, _, _, _, rfl⟩
      · rw [h]
        exact ⟨r, fo, s.qe, s.staged, rfl⟩

theorem State.stage_only {α : Type} (s : State) (e : Staged) (g : State → α)
    (h : ∀ r fo q st, g { s with regs := r, force := fo, qe := q, staged := st } = g s) : g (s.stage e) = g s := by
  obtain ⟨r, fo, q, st, x⟩ := s.stage_shape e
  rw [x]
  exact h r fo q st

theorem State.raise_shape (s : State) (u n d : Nat) :
    ∃ r fo q st c, s.raise u n d = { s with regs := r, force := fo, qe := q, staged := st, freeCtr := c } := by
  unfold State.raise
  dsimp only
  obtain ⟨r1, f1, h1⟩ := s.set_shape (Hdr.adr u) Hdr.momEvent n
  obtain ⟨r2, f2, h2⟩ := (s.set (Hdr.adr u) Hdr.momEvent n).set_shape (Hdr.adr u) Hdr.momStamp (stampOf s.nowNs).toNat
  obtain ⟨r3, f3, h3⟩ := ((s.set (Hdr.adr u) Hdr.momEvent n).set (Hdr.adr u) Hdr.momStamp (stampOf s.nowNs).toNat).set_shape
    (Hdr.adr u) Hdr.momDetail d
  have key : ∃ r fo, ((s.set (Hdr.adr u) Hdr.momEvent n).set (Hdr.adr u) Hdr.momStamp (stampOf s.nowNs).toNat).set
      (Hdr.adr u) Hdr.momDetail d = { s with regs := r, force := fo } := by
    rw [h3, h2, h1]
    exact ⟨_, _, rfl⟩
  generalize ((s.set (Hdr.adr u) Hdr.momEvent n).set (Hdr.adr u) Hdr.momStamp (stampOf s.nowNs).toNat).set
      (Hdr.adr u) Hdr.momDetail d = t at key
  have fin : ∀ (t' : State) (e : Staged), (∃ r fo, t' = { s with regs := r, force := fo }) →
      ∃ r fo q st c, (t'.stage e).tickFree = { s with regs := r, force := fo, qe := q, staged := st, freeCtr := c } := by
    rintro t' e ⟨r, fo, rfl⟩
    obtain ⟨r', fo', q, st, x⟩ := State.stage_shape { s with regs := r, force := fo } e
    rw [x]
    exact ⟨_, _, _, _, _, rfl⟩
  split
  · exact fin _ _ key
  · obtain ⟨r, fo, hk⟩ := key
    obtain ⟨r', fo', hm⟩ := t.mgtEnter_shape
    rcases heq : t.mgtEnter with ⟨s2, q⟩
    refine fin s2 _ ⟨r', fo', ?_⟩
    rw [heq] at hm
    rw [show s2 = _ from hm, hk]

theorem State.raise_only {α : Type} (s : State) (u n d : Nat) (g : State → α)
    (h : ∀ r fo q st c, g { s with regs := r, force := fo, qe := q, staged := st, freeCtr := c } = g s) :
    g (s.raise u n d) = g s := by
  obtain ⟨r, fo, q, st, c, x⟩ := s.raise_shape u n d
  rw [x]
  exact h r fo q st c

theorem State.announce_shape (s : State) :
    ∃ r fo q st c, s.announce = { s with regs := r, force := fo, qe := q, staged := st, noted := [], freeCtr := c } := by
  unfold State.announce
  suffices h : ∀ (l : List (Nat × Nat × Nat)) (t : State), ∃ r fo q st c,
      l.foldl (fun t e => t.raise e.1 e.2.1 e.2.2) t = { t with regs := r, force := fo, qe := q, staged := st, freeCtr := c } by
    obtain ⟨r, fo, q, st, c, x⟩ := h s.noted { s with noted := [] }
    rw [x]
    exact ⟨_, _, _, _, _, rfl⟩
  intro l
  induction l with
  | nil => exact fun t => ⟨_, _, _, _, _, rfl⟩
  | cons e l ih =>
    intro t
    obtain ⟨r1, f1, q1, st1, c1, x1⟩ := State.raise_shape t e.1 e.2.1 e.2.2
    obtain ⟨r, fo, q, st, c, x⟩ := ih (t.raise e.1 e.2.1 e.2.2)
    rw [List.foldl_cons, x, x1]
    exact ⟨_, _, _, _, _, rfl⟩

theorem State.announce_only {α : Type} (s : State) (g : State → α)
    (h : ∀ r fo q st nt c, g { s with regs := r, force := fo, qe := q, staged := st, noted := nt, freeCtr := c } = g s) :
    g s.announce = g s := by
  obtain ⟨r, fo, q, st, c, x⟩ := s.announce_shape
  rw [x]
  exact h r fo q st [] c

theorem State.raiseHeld_shape (s : State) (key us u n d : Nat) :
    ∃ r fo q st c ho, s.raiseHeld key us u n d
      = { s with regs := r, force := fo, qe := q, staged := st, freeCtr := c, heldOff := ho } := by
  unfold State.raiseHeld
  split
  · split
    · exact ⟨_, _, _, _, _, _, rfl⟩
    · obtain ⟨r, fo, q, st, c, x⟩ := State.raise_shape { s with heldOff := sins s.heldOff key s.ticks } u n d
      rw [x]
      exact ⟨_, _, _, _, _, _, rfl⟩
  · obtain ⟨r, fo, q, st, c, x⟩ := State.raise_shape { s with heldOff := sins s.heldOff key s.ticks } u n d
    rw [x]
    exact ⟨_, _, _, _, _, _, rfl⟩

theorem State.raiseHeld_only {α : Type} (s : State) (key us u n d : Nat) (g : State → α)
    (h : ∀ r fo q st c ho, g { s with regs := r, force := fo, qe := q, staged := st, freeCtr := c, heldOff := ho } = g s) :
    g (s.raiseHeld key us u n d) = g s := by
  obtain ⟨r, fo, q, st, c, ho, x⟩ := s.raiseHeld_shape key us u n d
  rw [x]
  exact h r fo q st c ho

theorem foldl_setBits_shape {α : Type} (s : State) (g : α → Nat) (m w : α → Word) (l : List α) (t : State)
    (h : ∃ r fo, t = { s with regs := r, force := fo }) :
    ∃ r fo, l.foldl (fun t x => t.setBits (g x) (m x) (w x)) t = { s with regs := r, force := fo } := by
  induction l generalizing t with
  | nil => exact h
  | cons x l ih =>
    obtain ⟨r, fo, rfl⟩ := h
    exact ih _ ⟨_, _, rfl⟩

theorem State.flushGcl_shape (s : State) : ∃ r fo, s.flushGcl = { s with regs := r, force := fo } :=
  foldl_setBits_shape s _ _ _ _ s ⟨s.regs, s.force, rfl⟩

theorem State.flushUnit_shape (s : State) (u : Nat) : ∃ r fo, s.flushUnit u = { s with regs := r, force := fo } := by
  unfold State.flushUnit
  split
  · obtain ⟨r, fo, h⟩ := s.flushGcl_shape
    rw [h]
    exact ⟨_, _, rfl⟩
  · exact ⟨_, _, rfl⟩

theorem State.flushUnit_only {α : Type} (s : State) (u : Nat) (g : State → α)
    (h : ∀ r fo, g { s with regs := r, force := fo } = g s) : g (s.flushUnit u) = g s := by
  obtain ⟨r, fo, x⟩ := s.flushUnit_shape u
  rw [x]
  exact h r fo

theorem State.setUnit_shape (s : State) (u st c : Nat) :
    ∃ r fo q sg fc, s.setUnit u st c = { s with regs := r, force := fo, qe := q, staged := sg, freeCtr := fc } := by
  unfold State.setUnit
  dsimp only
  have set1 : ∀ (t : State) b f v, (∃ r fo, t = { s with regs := r, force := fo }) →
      ∃ r fo, t.set b f v = { s with regs := r, force := fo } := by
    rintro t b f v ⟨r, fo, rfl⟩
    obtain ⟨r', fo', x⟩ := State.set_shape { s with regs := r, force := fo } b f v
    rw [x]
    exact ⟨_, _, rfl⟩
  have fl : ∀ (p : Prop) [Decidable p] (t : State), (∃ r fo, t = { s with regs := r, force := fo }) →
      ∃ r fo, (if p then t.flushUnit u else t) = { s with regs := r, force := fo } := by
    rintro p _ t ⟨r, fo, rfl⟩
    split
    · obtain ⟨r', fo', x⟩ := State.flushUnit_shape { s with regs := r, force := fo } u
      rw [x]
      exact ⟨_, _, rfl⟩
    · exact ⟨_, _, rfl⟩
  have rs : ∀ (p : Prop) [Decidable p] (t : State) n d, (∃ r fo, t = { s with regs := r, force := fo }) →
      ∃ r fo q sg fc, (if p then t else t.raise u n d)
        = { s with regs := r, force := fo, qe := q, staged := sg, freeCtr := fc } := by
    rintro p _ t n d ⟨r, fo, rfl⟩
    split
    · exact ⟨_, _, _, _, _, rfl⟩
    · obtain ⟨r, fo, q, st, c, x⟩ := State.raise_shape { s with regs := r, force := fo } u n d
      rw [x]
      exact ⟨_, _, _, _, _, rfl⟩
  exact rs _ _ _ _ (fl _ _ (set1 _ _ _ _ (set1 _ _ _ _ (set1 _ _ _ _ (set1 _ _ _ _ ⟨s.regs, s.force, rfl⟩)))))

theorem State.setUnit_only {α : Type} (s : State) (u st c : Nat) (g : State → α)
    (h : ∀ r fo q sg fc, g { s with regs := r, force := fo, qe := q, staged := sg, freeCtr := fc } = g s) :
    g (s.setUnit u st c) = g s := by
  obtain ⟨r, fo, q, sg, fc, x⟩ := s.setUnit_shape u st c
  rw [x]
  exact h r fo q sg fc


/-! ## `setReg` -/

@[simp] theorem State.setReg_pending (s : State) (a : Nat) (w : Word) : (s.setReg a w).pending = s.pending := rfl
@[simp] theorem State.setReg_force (s : State) (a : Nat) (w : Word) : (s.setReg a w).force = s.force := rfl
@[simp] theorem State.setReg_latch (s : State) (a : Nat) (w : Word) : (s.setReg a w).latch = s.latch := rfl
@[simp] theorem State.setReg_readLatch (s : State) (a : Nat) (w : Word) : (s.setReg a w).readLatch = s.readLatch := rfl
@[simp] theorem State.setReg_staged (s : State) (a : Nat) (w : Word) : (s.setReg a w).staged = s.staged := rfl
@[simp] theorem State.setReg_noted (s : State) (a : Nat) (w : Word) : (s.setReg a w).noted = s.noted := rfl
@[simp] theorem State.setReg_heldOff (s : State) (a : Nat) (w : Word) : (s.setReg a w).heldOff = s.heldOff := rfl
@[simp] theorem State.setReg_out (s : State) (a : Nat) (w : Word) : (s.setReg a w).out = s.out := rfl
@[simp] theorem State.setReg_freeCtr (s : State) (a : Nat) (w : Word) : (s.setReg a w).freeCtr = s.freeCtr := rfl
@[simp] theorem State.setReg_ticks (s : State) (a : Nat) (w : Word) : (s.setReg a w).ticks = s.ticks := rfl
@[simp] theorem State.setReg_boot (s : State) (a : Nat) (w : Word) : (s.setReg a w).boot = s.boot := rfl
@[simp] theorem State.setReg_time (s : State) (a : Nat) (w : Word) : (s.setReg a w).time = s.time := rfl
@[simp] theorem State.setReg_cxe (s : State) (a : Nat) (w : Word) : (s.setReg a w).cxe = s.cxe := rfl
@[simp] theorem State.setReg_mpi (s : State) (a : Nat) (w : Word) : (s.setReg a w).mpi = s.mpi := rfl
@[simp] theorem State.setReg_pp (s : State) (a : Nat) (w : Word) : (s.setReg a w).pp = s.pp := rfl
@[simp] theorem State.setReg_emt (s : State) (a : Nat) (w : Word) : (s.setReg a w).emt = s.emt := rfl
@[simp] theorem State.setReg_tcm (s : State) (a : Nat) (w : Word) : (s.setReg a w).tcm = s.tcm := rfl
@[simp] theorem State.setReg_tm (s : State) (a : Nat) (w : Word) : (s.setReg a w).tm = s.tm := rfl
@[simp] theorem State.setReg_hif (s : State) (a : Nat) (w : Word) : (s.setReg a w).hif = s.hif := rfl
@[simp] theorem State.setReg_qe (s : State) (a : Nat) (w : Word) : (s.setReg a w).qe = s.qe := rfl
@[simp] theorem State.setReg_shx (s : State) (a : Nat) (w : Word) : (s.setReg a w).shx = s.shx := rfl
@[simp] theorem State.setReg_nvf (s : State) (a : Nat) (w : Word) : (s.setReg a w).nvf = s.nvf := rfl
@[simp] theorem State.setReg_ige (s : State) (a : Nat) (w : Word) : (s.setReg a w).ige = s.ige := rfl
@[simp] theorem State.setReg_pwr (s : State) (a : Nat) (w : Word) : (s.setReg a w).pwr = s.pwr := rfl
@[simp] theorem State.setReg_svc (s : State) (a : Nat) (w : Word) : (s.setReg a w).svc = s.svc := rfl
@[simp] theorem State.setReg_mgt (s : State) (a : Nat) (w : Word) : (s.setReg a w).mgt = s.mgt := rfl
@[simp] theorem State.setReg_ports (s : State) (a : Nat) (w : Word) : (s.setReg a w).ports = s.ports := rfl
@[simp] theorem State.setReg_jtag (s : State) (a : Nat) (w : Word) : (s.setReg a w).jtag = s.jtag := rfl

/-! ## `setForce` -/

@[simp] theorem State.setForce_pending (s : State) (a : Nat) (w : Word) : (s.setForce a w).pending = s.pending := rfl
@[simp] theorem State.setForce_regs (s : State) (a : Nat) (w : Word) : (s.setForce a w).regs = s.regs := rfl
@[simp] theorem State.setForce_latch (s : State) (a : Nat) (w : Word) : (s.setForce a w).latch = s.latch := rfl
@[simp] theorem State.setForce_readLatch (s : State) (a : Nat) (w : Word) : (s.setForce a w).readLatch = s.readLatch := rfl
@[simp] theorem State.setForce_staged (s : State) (a : Nat) (w : Word) : (s.setForce a w).staged = s.staged := rfl
@[simp] theorem State.setForce_noted (s : State) (a : Nat) (w : Word) : (s.setForce a w).noted = s.noted := rfl
@[simp] theorem State.setForce_heldOff (s : State) (a : Nat) (w : Word) : (s.setForce a w).heldOff = s.heldOff := rfl
@[simp] theorem State.setForce_out (s : State) (a : Nat) (w : Word) : (s.setForce a w).out = s.out := rfl
@[simp] theorem State.setForce_freeCtr (s : State) (a : Nat) (w : Word) : (s.setForce a w).freeCtr = s.freeCtr := rfl
@[simp] theorem State.setForce_ticks (s : State) (a : Nat) (w : Word) : (s.setForce a w).ticks = s.ticks := rfl
@[simp] theorem State.setForce_boot (s : State) (a : Nat) (w : Word) : (s.setForce a w).boot = s.boot := rfl
@[simp] theorem State.setForce_time (s : State) (a : Nat) (w : Word) : (s.setForce a w).time = s.time := rfl
@[simp] theorem State.setForce_cxe (s : State) (a : Nat) (w : Word) : (s.setForce a w).cxe = s.cxe := rfl
@[simp] theorem State.setForce_mpi (s : State) (a : Nat) (w : Word) : (s.setForce a w).mpi = s.mpi := rfl
@[simp] theorem State.setForce_pp (s : State) (a : Nat) (w : Word) : (s.setForce a w).pp = s.pp := rfl
@[simp] theorem State.setForce_emt (s : State) (a : Nat) (w : Word) : (s.setForce a w).emt = s.emt := rfl
@[simp] theorem State.setForce_tcm (s : State) (a : Nat) (w : Word) : (s.setForce a w).tcm = s.tcm := rfl
@[simp] theorem State.setForce_tm (s : State) (a : Nat) (w : Word) : (s.setForce a w).tm = s.tm := rfl
@[simp] theorem State.setForce_hif (s : State) (a : Nat) (w : Word) : (s.setForce a w).hif = s.hif := rfl
@[simp] theorem State.setForce_qe (s : State) (a : Nat) (w : Word) : (s.setForce a w).qe = s.qe := rfl
@[simp] theorem State.setForce_shx (s : State) (a : Nat) (w : Word) : (s.setForce a w).shx = s.shx := rfl
@[simp] theorem State.setForce_nvf (s : State) (a : Nat) (w : Word) : (s.setForce a w).nvf = s.nvf := rfl
@[simp] theorem State.setForce_ige (s : State) (a : Nat) (w : Word) : (s.setForce a w).ige = s.ige := rfl
@[simp] theorem State.setForce_pwr (s : State) (a : Nat) (w : Word) : (s.setForce a w).pwr = s.pwr := rfl
@[simp] theorem State.setForce_svc (s : State) (a : Nat) (w : Word) : (s.setForce a w).svc = s.svc := rfl
@[simp] theorem State.setForce_mgt (s : State) (a : Nat) (w : Word) : (s.setForce a w).mgt = s.mgt := rfl
@[simp] theorem State.setForce_ports (s : State) (a : Nat) (w : Word) : (s.setForce a w).ports = s.ports := rfl
@[simp] theorem State.setForce_jtag (s : State) (a : Nat) (w : Word) : (s.setForce a w).jtag = s.jtag := rfl

/-! ## `setBits` -/

@[simp] theorem State.setBits_pending (s : State) (a : Nat) (m v : Word) : (s.setBits a m v).pending = s.pending := rfl
@[simp] theorem State.setBits_latch (s : State) (a : Nat) (m v : Word) : (s.setBits a m v).latch = s.latch := rfl
@[simp] theorem State.setBits_readLatch (s : State) (a : Nat) (m v : Word) : (s.setBits a m v).readLatch = s.readLatch := rfl
@[simp] theorem State.setBits_staged (s : State) (a : Nat) (m v : Word) : (s.setBits a m v).staged = s.staged := rfl
@[simp] theorem State.setBits_noted (s : State) (a : Nat) (m v : Word) : (s.setBits a m v).noted = s.noted := rfl
@[simp] theorem State.setBits_heldOff (s : State) (a : Nat) (m v : Word) : (s.setBits a m v).heldOff = s.heldOff := rfl
@[simp] theorem State.setBits_out (s : State) (a : Nat) (m v : Word) : (s.setBits a m v).out = s.out := rfl
@[simp] theorem State.setBits_freeCtr (s : State) (a : Nat) (m v : Word) : (s.setBits a m v).freeCtr = s.freeCtr := rfl
@[simp] theorem State.setBits_ticks (s : State) (a : Nat) (m v : Word) : (s.setBits a m v).ticks = s.ticks := rfl
@[simp] theorem State.setBits_boot (s : State) (a : Nat) (m v : Word) : (s.setBits a m v).boot = s.boot := rfl
@[simp] theorem State.setBits_time (s : State) (a : Nat) (m v : Word) : (s.setBits a m v).time = s.time := rfl
@[simp] theorem State.setBits_cxe (s : State) (a : Nat) (m v : Word) : (s.setBits a m v).cxe = s.cxe := rfl
@[simp] theorem State.setBits_mpi (s : State) (a : Nat) (m v : Word) : (s.setBits a m v).mpi = s.mpi := rfl
@[simp] theorem State.setBits_pp (s : State) (a : Nat) (m v : Word) : (s.setBits a m v).pp = s.pp := rfl
@[simp] theorem State.setBits_emt (s : State) (a : Nat) (m v : Word) : (s.setBits a m v).emt = s.emt := rfl
@[simp] theorem State.setBits_tcm (s : State) (a : Nat) (m v : Word) : (s.setBits a m v).tcm = s.tcm := rfl
@[simp] theorem State.setBits_tm (s : State) (a : Nat) (m v : Word) : (s.setBits a m v).tm = s.tm := rfl
@[simp] theorem State.setBits_hif (s : State) (a : Nat) (m v : Word) : (s.setBits a m v).hif = s.hif := rfl
@[simp] theorem State.setBits_qe (s : State) (a : Nat) (m v : Word) : (s.setBits a m v).qe = s.qe := rfl
@[simp] theorem State.setBits_shx (s : State) (a : Nat) (m v : Word) : (s.setBits a m v).shx = s.shx := rfl
@[simp] theorem State.setBits_nvf (s : State) (a : Nat) (m v : Word) : (s.setBits a m v).nvf = s.nvf := rfl
@[simp] theorem State.setBits_ige (s : State) (a : Nat) (m v : Word) : (s.setBits a m v).ige = s.ige := rfl
@[simp] theorem State.setBits_pwr (s : State) (a : Nat) (m v : Word) : (s.setBits a m v).pwr = s.pwr := rfl
@[simp] theorem State.setBits_svc (s : State) (a : Nat) (m v : Word) : (s.setBits a m v).svc = s.svc := rfl
@[simp] theorem State.setBits_mgt (s : State) (a : Nat) (m v : Word) : (s.setBits a m v).mgt = s.mgt := rfl
@[simp] theorem State.setBits_ports (s : State) (a : Nat) (m v : Word) : (s.setBits a m v).ports = s.ports := rfl
@[simp] theorem State.setBits_jtag (s : State) (a : Nat) (m v : Word) : (s.setBits a m v).jtag = s.jtag := rfl

/-! ## `set` -/

@[simp] theorem State.set_pending (s : State) (b : Nat) (f : Fld) (v : Nat) : (s.set b f v).pending = s.pending := s.set_only b f v State.pending (fun _ _ => rfl)
@[simp] theorem State.set_latch (s : State) (b : Nat) (f : Fld) (v : Nat) : (s.set b f v).latch = s.latch := s.set_only b f v State.latch (fun _ _ => rfl)
@[simp] theorem State.set_readLatch (s : State) (b : Nat) (f : Fld) (v : Nat) : (s.set b f v).readLatch = s.readLatch := s.set_only b f v State.readLatch (fun _ _ => rfl)
@[simp] theorem State.set_staged (s : State) (b : Nat) (f : Fld) (v : Nat) : (s.set b f v).staged = s.staged := s.set_only b f v State.staged (fun _ _ => rfl)
@[simp] theorem State.set_noted (s : State) (b : Nat) (f : Fld) (v : Nat) : (s.set b f v).noted = s.noted := s.set_only b f v State.noted (fun _ _ => rfl)
@[simp] theorem State.set_heldOff (s : State) (b : Nat) (f : Fld) (v : Nat) : (s.set b f v).heldOff = s.heldOff := s.set_only b f v State.heldOff (fun _ _ => rfl)
@[simp] theorem State.set_out (s : State) (b : Nat) (f : Fld) (v : Nat) : (s.set b f v).out = s.out := s.set_only b f v State.out (fun _ _ => rfl)
@[simp] theorem State.set_freeCtr (s : State) (b : Nat) (f : Fld) (v : Nat) : (s.set b f v).freeCtr = s.freeCtr := s.set_only b f v State.freeCtr (fun _ _ => rfl)
@[simp] theorem State.set_ticks (s : State) (b : Nat) (f : Fld) (v : Nat) : (s.set b f v).ticks = s.ticks := s.set_only b f v State.ticks (fun _ _ => rfl)
@[simp] theorem State.set_boot (s : State) (b : Nat) (f : Fld) (v : Nat) : (s.set b f v).boot = s.boot := s.set_only b f v State.boot (fun _ _ => rfl)
@[simp] theorem State.set_time (s : State) (b : Nat) (f : Fld) (v : Nat) : (s.set b f v).time = s.time := s.set_only b f v State.time (fun _ _ => rfl)
@[simp] theorem State.set_cxe (s : State) (b : Nat) (f : Fld) (v : Nat) : (s.set b f v).cxe = s.cxe := s.set_only b f v State.cxe (fun _ _ => rfl)
@[simp] theorem State.set_mpi (s : State) (b : Nat) (f : Fld) (v : Nat) : (s.set b f v).mpi = s.mpi := s.set_only b f v State.mpi (fun _ _ => rfl)
@[simp] theorem State.set_pp (s : State) (b : Nat) (f : Fld) (v : Nat) : (s.set b f v).pp = s.pp := s.set_only b f v State.pp (fun _ _ => rfl)
@[simp] theorem State.set_emt (s : State) (b : Nat) (f : Fld) (v : Nat) : (s.set b f v).emt = s.emt := s.set_only b f v State.emt (fun _ _ => rfl)
@[simp] theorem State.set_tcm (s : State) (b : Nat) (f : Fld) (v : Nat) : (s.set b f v).tcm = s.tcm := s.set_only b f v State.tcm (fun _ _ => rfl)
@[simp] theorem State.set_tm (s : State) (b : Nat) (f : Fld) (v : Nat) : (s.set b f v).tm = s.tm := s.set_only b f v State.tm (fun _ _ => rfl)
@[simp] theorem State.set_hif (s : State) (b : Nat) (f : Fld) (v : Nat) : (s.set b f v).hif = s.hif := s.set_only b f v State.hif (fun _ _ => rfl)
@[simp] theorem State.set_qe (s : State) (b : Nat) (f : Fld) (v : Nat) : (s.set b f v).qe = s.qe := s.set_only b f v State.qe (fun _ _ => rfl)
@[simp] theorem State.set_shx (s : State) (b : Nat) (f : Fld) (v : Nat) : (s.set b f v).shx = s.shx := s.set_only b f v State.shx (fun _ _ => rfl)
@[simp] theorem State.set_nvf (s : State) (b : Nat) (f : Fld) (v : Nat) : (s.set b f v).nvf = s.nvf := s.set_only b f v State.nvf (fun _ _ => rfl)
@[simp] theorem State.set_ige (s : State) (b : Nat) (f : Fld) (v : Nat) : (s.set b f v).ige = s.ige := s.set_only b f v State.ige (fun _ _ => rfl)
@[simp] theorem State.set_pwr (s : State) (b : Nat) (f : Fld) (v : Nat) : (s.set b f v).pwr = s.pwr := s.set_only b f v State.pwr (fun _ _ => rfl)
@[simp] theorem State.set_svc (s : State) (b : Nat) (f : Fld) (v : Nat) : (s.set b f v).svc = s.svc := s.set_only b f v State.svc (fun _ _ => rfl)
@[simp] theorem State.set_mgt (s : State) (b : Nat) (f : Fld) (v : Nat) : (s.set b f v).mgt = s.mgt := s.set_only b f v State.mgt (fun _ _ => rfl)
@[simp] theorem State.set_ports (s : State) (b : Nat) (f : Fld) (v : Nat) : (s.set b f v).ports = s.ports := s.set_only b f v State.ports (fun _ _ => rfl)
@[simp] theorem State.set_jtag (s : State) (b : Nat) (f : Fld) (v : Nat) : (s.set b f v).jtag = s.jtag := s.set_only b f v State.jtag (fun _ _ => rfl)

/-! ## `bump` -/

@[simp] theorem State.bump_pending (s : State) (b : Nat) (f : Fld) : (s.bump b f).pending = s.pending := s.set_only b f _ State.pending (fun _ _ => rfl)
@[simp] theorem State.bump_latch (s : State) (b : Nat) (f : Fld) : (s.bump b f).latch = s.latch := s.set_only b f _ State.latch (fun _ _ => rfl)
@[simp] theorem State.bump_readLatch (s : State) (b : Nat) (f : Fld) : (s.bump b f).readLatch = s.readLatch := s.set_only b f _ State.readLatch (fun _ _ => rfl)
@[simp] theorem State.bump_staged (s : State) (b : Nat) (f : Fld) : (s.bump b f).staged = s.staged := s.set_only b f _ State.staged (fun _ _ => rfl)
@[simp] theorem State.bump_noted (s : State) (b : Nat) (f : Fld) : (s.bump b f).noted = s.noted := s.set_only b f _ State.noted (fun _ _ => rfl)
@[simp] theorem State.bump_heldOff (s : State) (b : Nat) (f : Fld) : (s.bump b f).heldOff = s.heldOff := s.set_only b f _ State.heldOff (fun _ _ => rfl)
@[simp] theorem State.bump_out (s : State) (b : Nat) (f : Fld) : (s.bump b f).out = s.out := s.set_only b f _ State.out (fun _ _ => rfl)
@[simp] theorem State.bump_freeCtr (s : State) (b : Nat) (f : Fld) : (s.bump b f).freeCtr = s.freeCtr := s.set_only b f _ State.freeCtr (fun _ _ => rfl)
@[simp] theorem State.bump_ticks (s : State) (b : Nat) (f : Fld) : (s.bump b f).ticks = s.ticks := s.set_only b f _ State.ticks (fun _ _ => rfl)
@[simp] theorem State.bump_boot (s : State) (b : Nat) (f : Fld) : (s.bump b f).boot = s.boot := s.set_only b f _ State.boot (fun _ _ => rfl)
@[simp] theorem State.bump_time (s : State) (b : Nat) (f : Fld) : (s.bump b f).time = s.time := s.set_only b f _ State.time (fun _ _ => rfl)
@[simp] theorem State.bump_cxe (s : State) (b : Nat) (f : Fld) : (s.bump b f).cxe = s.cxe := s.set_only b f _ State.cxe (fun _ _ => rfl)
@[simp] theorem State.bump_mpi (s : State) (b : Nat) (f : Fld) : (s.bump b f).mpi = s.mpi := s.set_only b f _ State.mpi (fun _ _ => rfl)
@[simp] theorem State.bump_pp (s : State) (b : Nat) (f : Fld) : (s.bump b f).pp = s.pp := s.set_only b f _ State.pp (fun _ _ => rfl)
@[simp] theorem State.bump_emt (s : State) (b : Nat) (f : Fld) : (s.bump b f).emt = s.emt := s.set_only b f _ State.emt (fun _ _ => rfl)
@[simp] theorem State.bump_tcm (s : State) (b : Nat) (f : Fld) : (s.bump b f).tcm = s.tcm := s.set_only b f _ State.tcm (fun _ _ => rfl)
@[simp] theorem State.bump_tm (s : State) (b : Nat) (f : Fld) : (s.bump b f).tm = s.tm := s.set_only b f _ State.tm (fun _ _ => rfl)
@[simp] theorem State.bump_hif (s : State) (b : Nat) (f : Fld) : (s.bump b f).hif = s.hif := s.set_only b f _ State.hif (fun _ _ => rfl)
@[simp] theorem State.bump_qe (s : State) (b : Nat) (f : Fld) : (s.bump b f).qe = s.qe := s.set_only b f _ State.qe (fun _ _ => rfl)
@[simp] theorem State.bump_shx (s : State) (b : Nat) (f : Fld) : (s.bump b f).shx = s.shx := s.set_only b f _ State.shx (fun _ _ => rfl)
@[simp] theorem State.bump_nvf (s : State) (b : Nat) (f : Fld) : (s.bump b f).nvf = s.nvf := s.set_only b f _ State.nvf (fun _ _ => rfl)
@[simp] theorem State.bump_ige (s : State) (b : Nat) (f : Fld) : (s.bump b f).ige = s.ige := s.set_only b f _ State.ige (fun _ _ => rfl)
@[simp] theorem State.bump_pwr (s : State) (b : Nat) (f : Fld) : (s.bump b f).pwr = s.pwr := s.set_only b f _ State.pwr (fun _ _ => rfl)
@[simp] theorem State.bump_svc (s : State) (b : Nat) (f : Fld) : (s.bump b f).svc = s.svc := s.set_only b f _ State.svc (fun _ _ => rfl)
@[simp] theorem State.bump_mgt (s : State) (b : Nat) (f : Fld) : (s.bump b f).mgt = s.mgt := s.set_only b f _ State.mgt (fun _ _ => rfl)
@[simp] theorem State.bump_ports (s : State) (b : Nat) (f : Fld) : (s.bump b f).ports = s.ports := s.set_only b f _ State.ports (fun _ _ => rfl)
@[simp] theorem State.bump_jtag (s : State) (b : Nat) (f : Fld) : (s.bump b f).jtag = s.jtag := s.set_only b f _ State.jtag (fun _ _ => rfl)

/-! ## `tickFree` -/

@[simp] theorem State.tickFree_pending (s : State) : (s.tickFree).pending = s.pending := rfl
@[simp] theorem State.tickFree_regs (s : State) : (s.tickFree).regs = s.regs := rfl
@[simp] theorem State.tickFree_force (s : State) : (s.tickFree).force = s.force := rfl
@[simp] theorem State.tickFree_latch (s : State) : (s.tickFree).latch = s.latch := rfl
@[simp] theorem State.tickFree_readLatch (s : State) : (s.tickFree).readLatch = s.readLatch := rfl
@[simp] theorem State.tickFree_staged (s : State) : (s.tickFree).staged = s.staged := rfl
@[simp] theorem State.tickFree_noted (s : State) : (s.tickFree).noted = s.noted := rfl
@[simp] theorem State.tickFree_heldOff (s : State) : (s.tickFree).heldOff = s.heldOff := rfl
@[simp] theorem State.tickFree_out (s : State) : (s.tickFree).out = s.out := rfl
@[simp] theorem State.tickFree_ticks (s : State) : (s.tickFree).ticks = s.ticks := rfl
@[simp] theorem State.tickFree_boot (s : State) : (s.tickFree).boot = s.boot := rfl
@[simp] theorem State.tickFree_time (s : State) : (s.tickFree).time = s.time := rfl
@[simp] theorem State.tickFree_cxe (s : State) : (s.tickFree).cxe = s.cxe := rfl
@[simp] theorem State.tickFree_mpi (s : State) : (s.tickFree).mpi = s.mpi := rfl
@[simp] theorem State.tickFree_pp (s : State) : (s.tickFree).pp = s.pp := rfl
@[simp] theorem State.tickFree_emt (s : State) : (s.tickFree).emt = s.emt := rfl
@[simp] theorem State.tickFree_tcm (s : State) : (s.tickFree).tcm = s.tcm := rfl
@[simp] theorem State.tickFree_tm (s : State) : (s.tickFree).tm = s.tm := rfl
@[simp] theorem State.tickFree_hif (s : State) : (s.tickFree).hif = s.hif := rfl
@[simp] theorem State.tickFree_qe (s : State) : (s.tickFree).qe = s.qe := rfl
@[simp] theorem State.tickFree_shx (s : State) : (s.tickFree).shx = s.shx := rfl
@[simp] theorem State.tickFree_nvf (s : State) : (s.tickFree).nvf = s.nvf := rfl
@[simp] theorem State.tickFree_ige (s : State) : (s.tickFree).ige = s.ige := rfl
@[simp] theorem State.tickFree_pwr (s : State) : (s.tickFree).pwr = s.pwr := rfl
@[simp] theorem State.tickFree_svc (s : State) : (s.tickFree).svc = s.svc := rfl
@[simp] theorem State.tickFree_mgt (s : State) : (s.tickFree).mgt = s.mgt := rfl
@[simp] theorem State.tickFree_ports (s : State) : (s.tickFree).ports = s.ports := rfl
@[simp] theorem State.tickFree_jtag (s : State) : (s.tickFree).jtag = s.jtag := rfl

/-! ## `emit` -/

@[simp] theorem State.emit_pending (s : State) (o : Out) : (s.emit o).pending = s.pending := rfl
@[simp] theorem State.emit_regs (s : State) (o : Out) : (s.emit o).regs = s.regs := rfl
@[simp] theorem State.emit_force (s : State) (o : Out) : (s.emit o).force = s.force := rfl
@[simp] theorem State.emit_latch (s : State) (o : Out) : (s.emit o).latch = s.latch := rfl
@[simp] theorem State.emit_readLatch (s : State) (o : Out) : (s.emit o).readLatch = s.readLatch := rfl
@[simp] theorem State.emit_staged (s : State) (o : Out) : (s.emit o).staged = s.staged := rfl
@[simp] theorem State.emit_noted (s : State) (o : Out) : (s.emit o).noted = s.noted := rfl
@[simp] theorem State.emit_heldOff (s : State) (o : Out) : (s.emit o).heldOff = s.heldOff := rfl
@[simp] theorem State.emit_freeCtr (s : State) (o : Out) : (s.emit o).freeCtr = s.freeCtr := rfl
@[simp] theorem State.emit_ticks (s : State) (o : Out) : (s.emit o).ticks = s.ticks := rfl
@[simp] theorem State.emit_boot (s : State) (o : Out) : (s.emit o).boot = s.boot := rfl
@[simp] theorem State.emit_time (s : State) (o : Out) : (s.emit o).time = s.time := rfl
@[simp] theorem State.emit_cxe (s : State) (o : Out) : (s.emit o).cxe = s.cxe := rfl
@[simp] theorem State.emit_mpi (s : State) (o : Out) : (s.emit o).mpi = s.mpi := rfl
@[simp] theorem State.emit_pp (s : State) (o : Out) : (s.emit o).pp = s.pp := rfl
@[simp] theorem State.emit_emt (s : State) (o : Out) : (s.emit o).emt = s.emt := rfl
@[simp] theorem State.emit_tcm (s : State) (o : Out) : (s.emit o).tcm = s.tcm := rfl
@[simp] theorem State.emit_tm (s : State) (o : Out) : (s.emit o).tm = s.tm := rfl
@[simp] theorem State.emit_hif (s : State) (o : Out) : (s.emit o).hif = s.hif := rfl
@[simp] theorem State.emit_qe (s : State) (o : Out) : (s.emit o).qe = s.qe := rfl
@[simp] theorem State.emit_shx (s : State) (o : Out) : (s.emit o).shx = s.shx := rfl
@[simp] theorem State.emit_nvf (s : State) (o : Out) : (s.emit o).nvf = s.nvf := rfl
@[simp] theorem State.emit_ige (s : State) (o : Out) : (s.emit o).ige = s.ige := rfl
@[simp] theorem State.emit_pwr (s : State) (o : Out) : (s.emit o).pwr = s.pwr := rfl
@[simp] theorem State.emit_svc (s : State) (o : Out) : (s.emit o).svc = s.svc := rfl
@[simp] theorem State.emit_mgt (s : State) (o : Out) : (s.emit o).mgt = s.mgt := rfl
@[simp] theorem State.emit_ports (s : State) (o : Out) : (s.emit o).ports = s.ports := rfl
@[simp] theorem State.emit_jtag (s : State) (o : Out) : (s.emit o).jtag = s.jtag := rfl

/-! ## `latchMask` -/

@[simp] theorem State.latchMask_pending (s : State) (m : Nat → Word) : (s.latchMask m).pending = s.pending := rfl
@[simp] theorem State.latchMask_regs (s : State) (m : Nat → Word) : (s.latchMask m).regs = s.regs := rfl
@[simp] theorem State.latchMask_latch (s : State) (m : Nat → Word) : (s.latchMask m).latch = s.latch := rfl
@[simp] theorem State.latchMask_readLatch (s : State) (m : Nat → Word) : (s.latchMask m).readLatch = s.readLatch := rfl
@[simp] theorem State.latchMask_staged (s : State) (m : Nat → Word) : (s.latchMask m).staged = s.staged := rfl
@[simp] theorem State.latchMask_noted (s : State) (m : Nat → Word) : (s.latchMask m).noted = s.noted := rfl
@[simp] theorem State.latchMask_heldOff (s : State) (m : Nat → Word) : (s.latchMask m).heldOff = s.heldOff := rfl
@[simp] theorem State.latchMask_out (s : State) (m : Nat → Word) : (s.latchMask m).out = s.out := rfl
@[simp] theorem State.latchMask_freeCtr (s : State) (m : Nat → Word) : (s.latchMask m).freeCtr = s.freeCtr := rfl
@[simp] theorem State.latchMask_ticks (s : State) (m : Nat → Word) : (s.latchMask m).ticks = s.ticks := rfl
@[simp] theorem State.latchMask_boot (s : State) (m : Nat → Word) : (s.latchMask m).boot = s.boot := rfl
@[simp] theorem State.latchMask_time (s : State) (m : Nat → Word) : (s.latchMask m).time = s.time := rfl
@[simp] theorem State.latchMask_cxe (s : State) (m : Nat → Word) : (s.latchMask m).cxe = s.cxe := rfl
@[simp] theorem State.latchMask_mpi (s : State) (m : Nat → Word) : (s.latchMask m).mpi = s.mpi := rfl
@[simp] theorem State.latchMask_pp (s : State) (m : Nat → Word) : (s.latchMask m).pp = s.pp := rfl
@[simp] theorem State.latchMask_emt (s : State) (m : Nat → Word) : (s.latchMask m).emt = s.emt := rfl
@[simp] theorem State.latchMask_tcm (s : State) (m : Nat → Word) : (s.latchMask m).tcm = s.tcm := rfl
@[simp] theorem State.latchMask_tm (s : State) (m : Nat → Word) : (s.latchMask m).tm = s.tm := rfl
@[simp] theorem State.latchMask_hif (s : State) (m : Nat → Word) : (s.latchMask m).hif = s.hif := rfl
@[simp] theorem State.latchMask_qe (s : State) (m : Nat → Word) : (s.latchMask m).qe = s.qe := rfl
@[simp] theorem State.latchMask_shx (s : State) (m : Nat → Word) : (s.latchMask m).shx = s.shx := rfl
@[simp] theorem State.latchMask_nvf (s : State) (m : Nat → Word) : (s.latchMask m).nvf = s.nvf := rfl
@[simp] theorem State.latchMask_ige (s : State) (m : Nat → Word) : (s.latchMask m).ige = s.ige := rfl
@[simp] theorem State.latchMask_pwr (s : State) (m : Nat → Word) : (s.latchMask m).pwr = s.pwr := rfl
@[simp] theorem State.latchMask_svc (s : State) (m : Nat → Word) : (s.latchMask m).svc = s.svc := rfl
@[simp] theorem State.latchMask_mgt (s : State) (m : Nat → Word) : (s.latchMask m).mgt = s.mgt := rfl
@[simp] theorem State.latchMask_ports (s : State) (m : Nat → Word) : (s.latchMask m).ports = s.ports := rfl
@[simp] theorem State.latchMask_jtag (s : State) (m : Nat → Word) : (s.latchMask m).jtag = s.jtag := rfl

/-! ## `latchB` -/

@[simp] theorem State.latchB_pending (s : State) (p : Boundary → Nat → Bool) : (s.latchB p).pending = s.pending := rfl
@[simp] theorem State.latchB_regs (s : State) (p : Boundary → Nat → Bool) : (s.latchB p).regs = s.regs := rfl
@[simp] theorem State.latchB_latch (s : State) (p : Boundary → Nat → Bool) : (s.latchB p).latch = s.latch := rfl
@[simp] theorem State.latchB_readLatch (s : State) (p : Boundary → Nat → Bool) : (s.latchB p).readLatch = s.readLatch := rfl
@[simp] theorem State.latchB_staged (s : State) (p : Boundary → Nat → Bool) : (s.latchB p).staged = s.staged := rfl
@[simp] theorem State.latchB_noted (s : State) (p : Boundary → Nat → Bool) : (s.latchB p).noted = s.noted := rfl
@[simp] theorem State.latchB_heldOff (s : State) (p : Boundary → Nat → Bool) : (s.latchB p).heldOff = s.heldOff := rfl
@[simp] theorem State.latchB_out (s : State) (p : Boundary → Nat → Bool) : (s.latchB p).out = s.out := rfl
@[simp] theorem State.latchB_freeCtr (s : State) (p : Boundary → Nat → Bool) : (s.latchB p).freeCtr = s.freeCtr := rfl
@[simp] theorem State.latchB_ticks (s : State) (p : Boundary → Nat → Bool) : (s.latchB p).ticks = s.ticks := rfl
@[simp] theorem State.latchB_boot (s : State) (p : Boundary → Nat → Bool) : (s.latchB p).boot = s.boot := rfl
@[simp] theorem State.latchB_time (s : State) (p : Boundary → Nat → Bool) : (s.latchB p).time = s.time := rfl
@[simp] theorem State.latchB_cxe (s : State) (p : Boundary → Nat → Bool) : (s.latchB p).cxe = s.cxe := rfl
@[simp] theorem State.latchB_mpi (s : State) (p : Boundary → Nat → Bool) : (s.latchB p).mpi = s.mpi := rfl
@[simp] theorem State.latchB_pp (s : State) (p : Boundary → Nat → Bool) : (s.latchB p).pp = s.pp := rfl
@[simp] theorem State.latchB_emt (s : State) (p : Boundary → Nat → Bool) : (s.latchB p).emt = s.emt := rfl
@[simp] theorem State.latchB_tcm (s : State) (p : Boundary → Nat → Bool) : (s.latchB p).tcm = s.tcm := rfl
@[simp] theorem State.latchB_tm (s : State) (p : Boundary → Nat → Bool) : (s.latchB p).tm = s.tm := rfl
@[simp] theorem State.latchB_hif (s : State) (p : Boundary → Nat → Bool) : (s.latchB p).hif = s.hif := rfl
@[simp] theorem State.latchB_qe (s : State) (p : Boundary → Nat → Bool) : (s.latchB p).qe = s.qe := rfl
@[simp] theorem State.latchB_shx (s : State) (p : Boundary → Nat → Bool) : (s.latchB p).shx = s.shx := rfl
@[simp] theorem State.latchB_nvf (s : State) (p : Boundary → Nat → Bool) : (s.latchB p).nvf = s.nvf := rfl
@[simp] theorem State.latchB_ige (s : State) (p : Boundary → Nat → Bool) : (s.latchB p).ige = s.ige := rfl
@[simp] theorem State.latchB_pwr (s : State) (p : Boundary → Nat → Bool) : (s.latchB p).pwr = s.pwr := rfl
@[simp] theorem State.latchB_svc (s : State) (p : Boundary → Nat → Bool) : (s.latchB p).svc = s.svc := rfl
@[simp] theorem State.latchB_mgt (s : State) (p : Boundary → Nat → Bool) : (s.latchB p).mgt = s.mgt := rfl
@[simp] theorem State.latchB_ports (s : State) (p : Boundary → Nat → Bool) : (s.latchB p).ports = s.ports := rfl
@[simp] theorem State.latchB_jtag (s : State) (p : Boundary → Nat → Bool) : (s.latchB p).jtag = s.jtag := rfl

/-! ## `flushUnit` -/

@[simp] theorem State.flushUnit_pending (s : State) (u : Nat) : (s.flushUnit u).pending = s.pending := s.flushUnit_only u State.pending (fun _ _ => rfl)
theorem State.flushUnit_regs (s : State) (u : Nat) (h : u ≠ 13) : (s.flushUnit u).regs = s.regs := by
  simp only [State.flushUnit, if_neg h]
  rfl
@[simp] theorem State.flushUnit_latch (s : State) (u : Nat) : (s.flushUnit u).latch = s.latch := s.flushUnit_only u State.latch (fun _ _ => rfl)
@[simp] theorem State.flushUnit_readLatch (s : State) (u : Nat) : (s.flushUnit u).readLatch = s.readLatch := s.flushUnit_only u State.readLatch (fun _ _ => rfl)
@[simp] theorem State.flushUnit_staged (s : State) (u : Nat) : (s.flushUnit u).staged = s.staged := s.flushUnit_only u State.staged (fun _ _ => rfl)
@[simp] theorem State.flushUnit_noted (s : State) (u : Nat) : (s.flushUnit u).noted = s.noted := s.flushUnit_only u State.noted (fun _ _ => rfl)
@[simp] theorem State.flushUnit_heldOff (s : State) (u : Nat) : (s.flushUnit u).heldOff = s.heldOff := s.flushUnit_only u State.heldOff (fun _ _ => rfl)
@[simp] theorem State.flushUnit_out (s : State) (u : Nat) : (s.flushUnit u).out = s.out := s.flushUnit_only u State.out (fun _ _ => rfl)
@[simp] theorem State.flushUnit_freeCtr (s : State) (u : Nat) : (s.flushUnit u).freeCtr = s.freeCtr := s.flushUnit_only u State.freeCtr (fun _ _ => rfl)
@[simp] theorem State.flushUnit_ticks (s : State) (u : Nat) : (s.flushUnit u).ticks = s.ticks := s.flushUnit_only u State.ticks (fun _ _ => rfl)
@[simp] theorem State.flushUnit_boot (s : State) (u : Nat) : (s.flushUnit u).boot = s.boot := s.flushUnit_only u State.boot (fun _ _ => rfl)
@[simp] theorem State.flushUnit_time (s : State) (u : Nat) : (s.flushUnit u).time = s.time := s.flushUnit_only u State.time (fun _ _ => rfl)
@[simp] theorem State.flushUnit_cxe (s : State) (u : Nat) : (s.flushUnit u).cxe = s.cxe := s.flushUnit_only u State.cxe (fun _ _ => rfl)
@[simp] theorem State.flushUnit_mpi (s : State) (u : Nat) : (s.flushUnit u).mpi = s.mpi := s.flushUnit_only u State.mpi (fun _ _ => rfl)
@[simp] theorem State.flushUnit_pp (s : State) (u : Nat) : (s.flushUnit u).pp = s.pp := s.flushUnit_only u State.pp (fun _ _ => rfl)
@[simp] theorem State.flushUnit_emt (s : State) (u : Nat) : (s.flushUnit u).emt = s.emt := s.flushUnit_only u State.emt (fun _ _ => rfl)
@[simp] theorem State.flushUnit_tcm (s : State) (u : Nat) : (s.flushUnit u).tcm = s.tcm := s.flushUnit_only u State.tcm (fun _ _ => rfl)
@[simp] theorem State.flushUnit_tm (s : State) (u : Nat) : (s.flushUnit u).tm = s.tm := s.flushUnit_only u State.tm (fun _ _ => rfl)
@[simp] theorem State.flushUnit_hif (s : State) (u : Nat) : (s.flushUnit u).hif = s.hif := s.flushUnit_only u State.hif (fun _ _ => rfl)
@[simp] theorem State.flushUnit_qe (s : State) (u : Nat) : (s.flushUnit u).qe = s.qe := s.flushUnit_only u State.qe (fun _ _ => rfl)
@[simp] theorem State.flushUnit_shx (s : State) (u : Nat) : (s.flushUnit u).shx = s.shx := s.flushUnit_only u State.shx (fun _ _ => rfl)
@[simp] theorem State.flushUnit_nvf (s : State) (u : Nat) : (s.flushUnit u).nvf = s.nvf := s.flushUnit_only u State.nvf (fun _ _ => rfl)
@[simp] theorem State.flushUnit_ige (s : State) (u : Nat) : (s.flushUnit u).ige = s.ige := s.flushUnit_only u State.ige (fun _ _ => rfl)
@[simp] theorem State.flushUnit_pwr (s : State) (u : Nat) : (s.flushUnit u).pwr = s.pwr := s.flushUnit_only u State.pwr (fun _ _ => rfl)
@[simp] theorem State.flushUnit_svc (s : State) (u : Nat) : (s.flushUnit u).svc = s.svc := s.flushUnit_only u State.svc (fun _ _ => rfl)
@[simp] theorem State.flushUnit_mgt (s : State) (u : Nat) : (s.flushUnit u).mgt = s.mgt := s.flushUnit_only u State.mgt (fun _ _ => rfl)
@[simp] theorem State.flushUnit_ports (s : State) (u : Nat) : (s.flushUnit u).ports = s.ports := s.flushUnit_only u State.ports (fun _ _ => rfl)
@[simp] theorem State.flushUnit_jtag (s : State) (u : Nat) : (s.flushUnit u).jtag = s.jtag := s.flushUnit_only u State.jtag (fun _ _ => rfl)

/-! ## `revertMask` -/

@[simp] theorem State.revertMask_pending (s : State) (m : Nat → Word) : (s.revertMask m).pending = s.pending := s.revertMask_only m State.pending (fun _ _ => rfl)
@[simp] theorem State.revertMask_latch (s : State) (m : Nat → Word) : (s.revertMask m).latch = s.latch := s.revertMask_only m State.latch (fun _ _ => rfl)
@[simp] theorem State.revertMask_readLatch (s : State) (m : Nat → Word) : (s.revertMask m).readLatch = s.readLatch := s.revertMask_only m State.readLatch (fun _ _ => rfl)
@[simp] theorem State.revertMask_staged (s : State) (m : Nat → Word) : (s.revertMask m).staged = s.staged := s.revertMask_only m State.staged (fun _ _ => rfl)
@[simp] theorem State.revertMask_noted (s : State) (m : Nat → Word) : (s.revertMask m).noted = s.noted := s.revertMask_only m State.noted (fun _ _ => rfl)
@[simp] theorem State.revertMask_heldOff (s : State) (m : Nat → Word) : (s.revertMask m).heldOff = s.heldOff := s.revertMask_only m State.heldOff (fun _ _ => rfl)
@[simp] theorem State.revertMask_out (s : State) (m : Nat → Word) : (s.revertMask m).out = s.out := s.revertMask_only m State.out (fun _ _ => rfl)
@[simp] theorem State.revertMask_freeCtr (s : State) (m : Nat → Word) : (s.revertMask m).freeCtr = s.freeCtr := s.revertMask_only m State.freeCtr (fun _ _ => rfl)
@[simp] theorem State.revertMask_ticks (s : State) (m : Nat → Word) : (s.revertMask m).ticks = s.ticks := s.revertMask_only m State.ticks (fun _ _ => rfl)
@[simp] theorem State.revertMask_boot (s : State) (m : Nat → Word) : (s.revertMask m).boot = s.boot := s.revertMask_only m State.boot (fun _ _ => rfl)
@[simp] theorem State.revertMask_time (s : State) (m : Nat → Word) : (s.revertMask m).time = s.time := s.revertMask_only m State.time (fun _ _ => rfl)
@[simp] theorem State.revertMask_cxe (s : State) (m : Nat → Word) : (s.revertMask m).cxe = s.cxe := s.revertMask_only m State.cxe (fun _ _ => rfl)
@[simp] theorem State.revertMask_mpi (s : State) (m : Nat → Word) : (s.revertMask m).mpi = s.mpi := s.revertMask_only m State.mpi (fun _ _ => rfl)
@[simp] theorem State.revertMask_pp (s : State) (m : Nat → Word) : (s.revertMask m).pp = s.pp := s.revertMask_only m State.pp (fun _ _ => rfl)
@[simp] theorem State.revertMask_emt (s : State) (m : Nat → Word) : (s.revertMask m).emt = s.emt := s.revertMask_only m State.emt (fun _ _ => rfl)
@[simp] theorem State.revertMask_tcm (s : State) (m : Nat → Word) : (s.revertMask m).tcm = s.tcm := s.revertMask_only m State.tcm (fun _ _ => rfl)
@[simp] theorem State.revertMask_tm (s : State) (m : Nat → Word) : (s.revertMask m).tm = s.tm := s.revertMask_only m State.tm (fun _ _ => rfl)
@[simp] theorem State.revertMask_hif (s : State) (m : Nat → Word) : (s.revertMask m).hif = s.hif := s.revertMask_only m State.hif (fun _ _ => rfl)
@[simp] theorem State.revertMask_qe (s : State) (m : Nat → Word) : (s.revertMask m).qe = s.qe := s.revertMask_only m State.qe (fun _ _ => rfl)
@[simp] theorem State.revertMask_shx (s : State) (m : Nat → Word) : (s.revertMask m).shx = s.shx := s.revertMask_only m State.shx (fun _ _ => rfl)
@[simp] theorem State.revertMask_nvf (s : State) (m : Nat → Word) : (s.revertMask m).nvf = s.nvf := s.revertMask_only m State.nvf (fun _ _ => rfl)
@[simp] theorem State.revertMask_ige (s : State) (m : Nat → Word) : (s.revertMask m).ige = s.ige := s.revertMask_only m State.ige (fun _ _ => rfl)
@[simp] theorem State.revertMask_pwr (s : State) (m : Nat → Word) : (s.revertMask m).pwr = s.pwr := s.revertMask_only m State.pwr (fun _ _ => rfl)
@[simp] theorem State.revertMask_svc (s : State) (m : Nat → Word) : (s.revertMask m).svc = s.svc := s.revertMask_only m State.svc (fun _ _ => rfl)
@[simp] theorem State.revertMask_mgt (s : State) (m : Nat → Word) : (s.revertMask m).mgt = s.mgt := s.revertMask_only m State.mgt (fun _ _ => rfl)
@[simp] theorem State.revertMask_ports (s : State) (m : Nat → Word) : (s.revertMask m).ports = s.ports := s.revertMask_only m State.ports (fun _ _ => rfl)
@[simp] theorem State.revertMask_jtag (s : State) (m : Nat → Word) : (s.revertMask m).jtag = s.jtag := s.revertMask_only m State.jtag (fun _ _ => rfl)

/-! ## `startClocks` -/

@[simp] theorem State.startClocks_pending (s : State) (cs : List Nat) : (s.startClocks cs).pending = s.pending := rfl
@[simp] theorem State.startClocks_regs (s : State) (cs : List Nat) : (s.startClocks cs).regs = s.regs := rfl
@[simp] theorem State.startClocks_force (s : State) (cs : List Nat) : (s.startClocks cs).force = s.force := rfl
@[simp] theorem State.startClocks_latch (s : State) (cs : List Nat) : (s.startClocks cs).latch = s.latch := rfl
@[simp] theorem State.startClocks_readLatch (s : State) (cs : List Nat) : (s.startClocks cs).readLatch = s.readLatch := rfl
@[simp] theorem State.startClocks_staged (s : State) (cs : List Nat) : (s.startClocks cs).staged = s.staged := rfl
@[simp] theorem State.startClocks_noted (s : State) (cs : List Nat) : (s.startClocks cs).noted = s.noted := rfl
@[simp] theorem State.startClocks_heldOff (s : State) (cs : List Nat) : (s.startClocks cs).heldOff = s.heldOff := rfl
@[simp] theorem State.startClocks_out (s : State) (cs : List Nat) : (s.startClocks cs).out = s.out := rfl
@[simp] theorem State.startClocks_freeCtr (s : State) (cs : List Nat) : (s.startClocks cs).freeCtr = s.freeCtr := rfl
@[simp] theorem State.startClocks_ticks (s : State) (cs : List Nat) : (s.startClocks cs).ticks = s.ticks := rfl
@[simp] theorem State.startClocks_boot (s : State) (cs : List Nat) : (s.startClocks cs).boot = s.boot := rfl
@[simp] theorem State.startClocks_time (s : State) (cs : List Nat) : (s.startClocks cs).time = s.time := rfl
@[simp] theorem State.startClocks_cxe (s : State) (cs : List Nat) : (s.startClocks cs).cxe = s.cxe := rfl
@[simp] theorem State.startClocks_mpi (s : State) (cs : List Nat) : (s.startClocks cs).mpi = s.mpi := rfl
@[simp] theorem State.startClocks_pp (s : State) (cs : List Nat) : (s.startClocks cs).pp = s.pp := rfl
@[simp] theorem State.startClocks_emt (s : State) (cs : List Nat) : (s.startClocks cs).emt = s.emt := rfl
@[simp] theorem State.startClocks_tcm (s : State) (cs : List Nat) : (s.startClocks cs).tcm = s.tcm := rfl
@[simp] theorem State.startClocks_tm (s : State) (cs : List Nat) : (s.startClocks cs).tm = s.tm := rfl
@[simp] theorem State.startClocks_hif (s : State) (cs : List Nat) : (s.startClocks cs).hif = s.hif := rfl
@[simp] theorem State.startClocks_qe (s : State) (cs : List Nat) : (s.startClocks cs).qe = s.qe := rfl
@[simp] theorem State.startClocks_shx (s : State) (cs : List Nat) : (s.startClocks cs).shx = s.shx := rfl
@[simp] theorem State.startClocks_nvf (s : State) (cs : List Nat) : (s.startClocks cs).nvf = s.nvf := rfl
@[simp] theorem State.startClocks_ige (s : State) (cs : List Nat) : (s.startClocks cs).ige = s.ige := rfl
@[simp] theorem State.startClocks_svc (s : State) (cs : List Nat) : (s.startClocks cs).svc = s.svc := rfl
@[simp] theorem State.startClocks_mgt (s : State) (cs : List Nat) : (s.startClocks cs).mgt = s.mgt := rfl
@[simp] theorem State.startClocks_ports (s : State) (cs : List Nat) : (s.startClocks cs).ports = s.ports := rfl
@[simp] theorem State.startClocks_jtag (s : State) (cs : List Nat) : (s.startClocks cs).jtag = s.jtag := rfl

/-! ## `prestartEnds` -/

@[simp] theorem State.prestartEnds_pending (s : State) (k : Nat) (p : Nat → Bool) : (s.prestartEnds k p).pending = s.pending := rfl
@[simp] theorem State.prestartEnds_regs (s : State) (k : Nat) (p : Nat → Bool) : (s.prestartEnds k p).regs = s.regs := rfl
@[simp] theorem State.prestartEnds_force (s : State) (k : Nat) (p : Nat → Bool) : (s.prestartEnds k p).force = s.force := rfl
@[simp] theorem State.prestartEnds_latch (s : State) (k : Nat) (p : Nat → Bool) : (s.prestartEnds k p).latch = s.latch := rfl
@[simp] theorem State.prestartEnds_readLatch (s : State) (k : Nat) (p : Nat → Bool) : (s.prestartEnds k p).readLatch = s.readLatch := rfl
@[simp] theorem State.prestartEnds_staged (s : State) (k : Nat) (p : Nat → Bool) : (s.prestartEnds k p).staged = s.staged := rfl
@[simp] theorem State.prestartEnds_noted (s : State) (k : Nat) (p : Nat → Bool) : (s.prestartEnds k p).noted = s.noted := rfl
@[simp] theorem State.prestartEnds_heldOff (s : State) (k : Nat) (p : Nat → Bool) : (s.prestartEnds k p).heldOff = s.heldOff := rfl
@[simp] theorem State.prestartEnds_out (s : State) (k : Nat) (p : Nat → Bool) : (s.prestartEnds k p).out = s.out := rfl
@[simp] theorem State.prestartEnds_freeCtr (s : State) (k : Nat) (p : Nat → Bool) : (s.prestartEnds k p).freeCtr = s.freeCtr := rfl
@[simp] theorem State.prestartEnds_ticks (s : State) (k : Nat) (p : Nat → Bool) : (s.prestartEnds k p).ticks = s.ticks := rfl
@[simp] theorem State.prestartEnds_boot (s : State) (k : Nat) (p : Nat → Bool) : (s.prestartEnds k p).boot = s.boot := rfl
@[simp] theorem State.prestartEnds_cxe (s : State) (k : Nat) (p : Nat → Bool) : (s.prestartEnds k p).cxe = s.cxe := rfl
@[simp] theorem State.prestartEnds_mpi (s : State) (k : Nat) (p : Nat → Bool) : (s.prestartEnds k p).mpi = s.mpi := rfl
@[simp] theorem State.prestartEnds_pp (s : State) (k : Nat) (p : Nat → Bool) : (s.prestartEnds k p).pp = s.pp := rfl
@[simp] theorem State.prestartEnds_emt (s : State) (k : Nat) (p : Nat → Bool) : (s.prestartEnds k p).emt = s.emt := rfl
@[simp] theorem State.prestartEnds_tcm (s : State) (k : Nat) (p : Nat → Bool) : (s.prestartEnds k p).tcm = s.tcm := rfl
@[simp] theorem State.prestartEnds_tm (s : State) (k : Nat) (p : Nat → Bool) : (s.prestartEnds k p).tm = s.tm := rfl
@[simp] theorem State.prestartEnds_hif (s : State) (k : Nat) (p : Nat → Bool) : (s.prestartEnds k p).hif = s.hif := rfl
@[simp] theorem State.prestartEnds_qe (s : State) (k : Nat) (p : Nat → Bool) : (s.prestartEnds k p).qe = s.qe := rfl
@[simp] theorem State.prestartEnds_shx (s : State) (k : Nat) (p : Nat → Bool) : (s.prestartEnds k p).shx = s.shx := rfl
@[simp] theorem State.prestartEnds_nvf (s : State) (k : Nat) (p : Nat → Bool) : (s.prestartEnds k p).nvf = s.nvf := rfl
@[simp] theorem State.prestartEnds_ige (s : State) (k : Nat) (p : Nat → Bool) : (s.prestartEnds k p).ige = s.ige := rfl
@[simp] theorem State.prestartEnds_pwr (s : State) (k : Nat) (p : Nat → Bool) : (s.prestartEnds k p).pwr = s.pwr := rfl
@[simp] theorem State.prestartEnds_svc (s : State) (k : Nat) (p : Nat → Bool) : (s.prestartEnds k p).svc = s.svc := rfl
@[simp] theorem State.prestartEnds_mgt (s : State) (k : Nat) (p : Nat → Bool) : (s.prestartEnds k p).mgt = s.mgt := rfl
@[simp] theorem State.prestartEnds_ports (s : State) (k : Nat) (p : Nat → Bool) : (s.prestartEnds k p).ports = s.ports := rfl
@[simp] theorem State.prestartEnds_jtag (s : State) (k : Nat) (p : Nat → Bool) : (s.prestartEnds k p).jtag = s.jtag := rfl

/-! ## `modPf` -/

@[simp] theorem State.modPf_pending (s : State) (f : Nat) (g : PfSt → PfSt) : (s.modPf f g).pending = s.pending := rfl
@[simp] theorem State.modPf_regs (s : State) (f : Nat) (g : PfSt → PfSt) : (s.modPf f g).regs = s.regs := rfl
@[simp] theorem State.modPf_force (s : State) (f : Nat) (g : PfSt → PfSt) : (s.modPf f g).force = s.force := rfl
@[simp] theorem State.modPf_latch (s : State) (f : Nat) (g : PfSt → PfSt) : (s.modPf f g).latch = s.latch := rfl
@[simp] theorem State.modPf_readLatch (s : State) (f : Nat) (g : PfSt → PfSt) : (s.modPf f g).readLatch = s.readLatch := rfl
@[simp] theorem State.modPf_staged (s : State) (f : Nat) (g : PfSt → PfSt) : (s.modPf f g).staged = s.staged := rfl
@[simp] theorem State.modPf_noted (s : State) (f : Nat) (g : PfSt → PfSt) : (s.modPf f g).noted = s.noted := rfl
@[simp] theorem State.modPf_heldOff (s : State) (f : Nat) (g : PfSt → PfSt) : (s.modPf f g).heldOff = s.heldOff := rfl
@[simp] theorem State.modPf_out (s : State) (f : Nat) (g : PfSt → PfSt) : (s.modPf f g).out = s.out := rfl
@[simp] theorem State.modPf_freeCtr (s : State) (f : Nat) (g : PfSt → PfSt) : (s.modPf f g).freeCtr = s.freeCtr := rfl
@[simp] theorem State.modPf_ticks (s : State) (f : Nat) (g : PfSt → PfSt) : (s.modPf f g).ticks = s.ticks := rfl
@[simp] theorem State.modPf_boot (s : State) (f : Nat) (g : PfSt → PfSt) : (s.modPf f g).boot = s.boot := rfl
@[simp] theorem State.modPf_time (s : State) (f : Nat) (g : PfSt → PfSt) : (s.modPf f g).time = s.time := rfl
@[simp] theorem State.modPf_cxe (s : State) (f : Nat) (g : PfSt → PfSt) : (s.modPf f g).cxe = s.cxe := rfl
@[simp] theorem State.modPf_mpi (s : State) (f : Nat) (g : PfSt → PfSt) : (s.modPf f g).mpi = s.mpi := rfl
@[simp] theorem State.modPf_pp (s : State) (f : Nat) (g : PfSt → PfSt) : (s.modPf f g).pp = s.pp := rfl
@[simp] theorem State.modPf_emt (s : State) (f : Nat) (g : PfSt → PfSt) : (s.modPf f g).emt = s.emt := rfl
@[simp] theorem State.modPf_tcm (s : State) (f : Nat) (g : PfSt → PfSt) : (s.modPf f g).tcm = s.tcm := rfl
@[simp] theorem State.modPf_tm (s : State) (f : Nat) (g : PfSt → PfSt) : (s.modPf f g).tm = s.tm := rfl
@[simp] theorem State.modPf_qe (s : State) (f : Nat) (g : PfSt → PfSt) : (s.modPf f g).qe = s.qe := rfl
@[simp] theorem State.modPf_shx (s : State) (f : Nat) (g : PfSt → PfSt) : (s.modPf f g).shx = s.shx := rfl
@[simp] theorem State.modPf_nvf (s : State) (f : Nat) (g : PfSt → PfSt) : (s.modPf f g).nvf = s.nvf := rfl
@[simp] theorem State.modPf_ige (s : State) (f : Nat) (g : PfSt → PfSt) : (s.modPf f g).ige = s.ige := rfl
@[simp] theorem State.modPf_pwr (s : State) (f : Nat) (g : PfSt → PfSt) : (s.modPf f g).pwr = s.pwr := rfl
@[simp] theorem State.modPf_svc (s : State) (f : Nat) (g : PfSt → PfSt) : (s.modPf f g).svc = s.svc := rfl
@[simp] theorem State.modPf_mgt (s : State) (f : Nat) (g : PfSt → PfSt) : (s.modPf f g).mgt = s.mgt := rfl
@[simp] theorem State.modPf_ports (s : State) (f : Nat) (g : PfSt → PfSt) : (s.modPf f g).ports = s.ports := rfl
@[simp] theorem State.modPf_jtag (s : State) (f : Nat) (g : PfSt → PfSt) : (s.modPf f g).jtag = s.jtag := rfl

/-! ## `mgtEnter` -/

@[simp] theorem State.mgtEnter_pending (s : State) : (s.mgtEnter.1).pending = s.pending := s.mgtEnter_only State.pending (fun _ _ => rfl)
@[simp] theorem State.mgtEnter_latch (s : State) : (s.mgtEnter.1).latch = s.latch := s.mgtEnter_only State.latch (fun _ _ => rfl)
@[simp] theorem State.mgtEnter_readLatch (s : State) : (s.mgtEnter.1).readLatch = s.readLatch := s.mgtEnter_only State.readLatch (fun _ _ => rfl)
@[simp] theorem State.mgtEnter_staged (s : State) : (s.mgtEnter.1).staged = s.staged := s.mgtEnter_only State.staged (fun _ _ => rfl)
@[simp] theorem State.mgtEnter_noted (s : State) : (s.mgtEnter.1).noted = s.noted := s.mgtEnter_only State.noted (fun _ _ => rfl)
@[simp] theorem State.mgtEnter_heldOff (s : State) : (s.mgtEnter.1).heldOff = s.heldOff := s.mgtEnter_only State.heldOff (fun _ _ => rfl)
@[simp] theorem State.mgtEnter_out (s : State) : (s.mgtEnter.1).out = s.out := s.mgtEnter_only State.out (fun _ _ => rfl)
@[simp] theorem State.mgtEnter_freeCtr (s : State) : (s.mgtEnter.1).freeCtr = s.freeCtr := s.mgtEnter_only State.freeCtr (fun _ _ => rfl)
@[simp] theorem State.mgtEnter_ticks (s : State) : (s.mgtEnter.1).ticks = s.ticks := s.mgtEnter_only State.ticks (fun _ _ => rfl)
@[simp] theorem State.mgtEnter_boot (s : State) : (s.mgtEnter.1).boot = s.boot := s.mgtEnter_only State.boot (fun _ _ => rfl)
@[simp] theorem State.mgtEnter_time (s : State) : (s.mgtEnter.1).time = s.time := s.mgtEnter_only State.time (fun _ _ => rfl)
@[simp] theorem State.mgtEnter_cxe (s : State) : (s.mgtEnter.1).cxe = s.cxe := s.mgtEnter_only State.cxe (fun _ _ => rfl)
@[simp] theorem State.mgtEnter_mpi (s : State) : (s.mgtEnter.1).mpi = s.mpi := s.mgtEnter_only State.mpi (fun _ _ => rfl)
@[simp] theorem State.mgtEnter_pp (s : State) : (s.mgtEnter.1).pp = s.pp := s.mgtEnter_only State.pp (fun _ _ => rfl)
@[simp] theorem State.mgtEnter_emt (s : State) : (s.mgtEnter.1).emt = s.emt := s.mgtEnter_only State.emt (fun _ _ => rfl)
@[simp] theorem State.mgtEnter_tcm (s : State) : (s.mgtEnter.1).tcm = s.tcm := s.mgtEnter_only State.tcm (fun _ _ => rfl)
@[simp] theorem State.mgtEnter_tm (s : State) : (s.mgtEnter.1).tm = s.tm := s.mgtEnter_only State.tm (fun _ _ => rfl)
@[simp] theorem State.mgtEnter_hif (s : State) : (s.mgtEnter.1).hif = s.hif := s.mgtEnter_only State.hif (fun _ _ => rfl)
@[simp] theorem State.mgtEnter_qe (s : State) : (s.mgtEnter.1).qe = s.qe := s.mgtEnter_only State.qe (fun _ _ => rfl)
@[simp] theorem State.mgtEnter_shx (s : State) : (s.mgtEnter.1).shx = s.shx := s.mgtEnter_only State.shx (fun _ _ => rfl)
@[simp] theorem State.mgtEnter_nvf (s : State) : (s.mgtEnter.1).nvf = s.nvf := s.mgtEnter_only State.nvf (fun _ _ => rfl)
@[simp] theorem State.mgtEnter_ige (s : State) : (s.mgtEnter.1).ige = s.ige := s.mgtEnter_only State.ige (fun _ _ => rfl)
@[simp] theorem State.mgtEnter_pwr (s : State) : (s.mgtEnter.1).pwr = s.pwr := s.mgtEnter_only State.pwr (fun _ _ => rfl)
@[simp] theorem State.mgtEnter_svc (s : State) : (s.mgtEnter.1).svc = s.svc := s.mgtEnter_only State.svc (fun _ _ => rfl)
@[simp] theorem State.mgtEnter_mgt (s : State) : (s.mgtEnter.1).mgt = s.mgt := s.mgtEnter_only State.mgt (fun _ _ => rfl)
@[simp] theorem State.mgtEnter_ports (s : State) : (s.mgtEnter.1).ports = s.ports := s.mgtEnter_only State.ports (fun _ _ => rfl)
@[simp] theorem State.mgtEnter_jtag (s : State) : (s.mgtEnter.1).jtag = s.jtag := s.mgtEnter_only State.jtag (fun _ _ => rfl)

/-! ## `stage` -/

@[simp] theorem State.stage_pending (s : State) (e : Staged) : (s.stage e).pending = s.pending := s.stage_only e State.pending (fun _ _ _ _ => rfl)
@[simp] theorem State.stage_latch (s : State) (e : Staged) : (s.stage e).latch = s.latch := s.stage_only e State.latch (fun _ _ _ _ => rfl)
@[simp] theorem State.stage_readLatch (s : State) (e : Staged) : (s.stage e).readLatch = s.readLatch := s.stage_only e State.readLatch (fun _ _ _ _ => rfl)
@[simp] theorem State.stage_noted (s : State) (e : Staged) : (s.stage e).noted = s.noted := s.stage_only e State.noted (fun _ _ _ _ => rfl)
@[simp] theorem State.stage_heldOff (s : State) (e : Staged) : (s.stage e).heldOff = s.heldOff := s.stage_only e State.heldOff (fun _ _ _ _ => rfl)
@[simp] theorem State.stage_out (s : State) (e : Staged) : (s.stage e).out = s.out := s.stage_only e State.out (fun _ _ _ _ => rfl)
@[simp] theorem State.stage_freeCtr (s : State) (e : Staged) : (s.stage e).freeCtr = s.freeCtr := s.stage_only e State.freeCtr (fun _ _ _ _ => rfl)
@[simp] theorem State.stage_ticks (s : State) (e : Staged) : (s.stage e).ticks = s.ticks := s.stage_only e State.ticks (fun _ _ _ _ => rfl)
@[simp] theorem State.stage_boot (s : State) (e : Staged) : (s.stage e).boot = s.boot := s.stage_only e State.boot (fun _ _ _ _ => rfl)
@[simp] theorem State.stage_time (s : State) (e : Staged) : (s.stage e).time = s.time := s.stage_only e State.time (fun _ _ _ _ => rfl)
@[simp] theorem State.stage_cxe (s : State) (e : Staged) : (s.stage e).cxe = s.cxe := s.stage_only e State.cxe (fun _ _ _ _ => rfl)
@[simp] theorem State.stage_mpi (s : State) (e : Staged) : (s.stage e).mpi = s.mpi := s.stage_only e State.mpi (fun _ _ _ _ => rfl)
@[simp] theorem State.stage_pp (s : State) (e : Staged) : (s.stage e).pp = s.pp := s.stage_only e State.pp (fun _ _ _ _ => rfl)
@[simp] theorem State.stage_emt (s : State) (e : Staged) : (s.stage e).emt = s.emt := s.stage_only e State.emt (fun _ _ _ _ => rfl)
@[simp] theorem State.stage_tcm (s : State) (e : Staged) : (s.stage e).tcm = s.tcm := s.stage_only e State.tcm (fun _ _ _ _ => rfl)
@[simp] theorem State.stage_tm (s : State) (e : Staged) : (s.stage e).tm = s.tm := s.stage_only e State.tm (fun _ _ _ _ => rfl)
@[simp] theorem State.stage_hif (s : State) (e : Staged) : (s.stage e).hif = s.hif := s.stage_only e State.hif (fun _ _ _ _ => rfl)
@[simp] theorem State.stage_shx (s : State) (e : Staged) : (s.stage e).shx = s.shx := s.stage_only e State.shx (fun _ _ _ _ => rfl)
@[simp] theorem State.stage_nvf (s : State) (e : Staged) : (s.stage e).nvf = s.nvf := s.stage_only e State.nvf (fun _ _ _ _ => rfl)
@[simp] theorem State.stage_ige (s : State) (e : Staged) : (s.stage e).ige = s.ige := s.stage_only e State.ige (fun _ _ _ _ => rfl)
@[simp] theorem State.stage_pwr (s : State) (e : Staged) : (s.stage e).pwr = s.pwr := s.stage_only e State.pwr (fun _ _ _ _ => rfl)
@[simp] theorem State.stage_svc (s : State) (e : Staged) : (s.stage e).svc = s.svc := s.stage_only e State.svc (fun _ _ _ _ => rfl)
@[simp] theorem State.stage_mgt (s : State) (e : Staged) : (s.stage e).mgt = s.mgt := s.stage_only e State.mgt (fun _ _ _ _ => rfl)
@[simp] theorem State.stage_ports (s : State) (e : Staged) : (s.stage e).ports = s.ports := s.stage_only e State.ports (fun _ _ _ _ => rfl)
@[simp] theorem State.stage_jtag (s : State) (e : Staged) : (s.stage e).jtag = s.jtag := s.stage_only e State.jtag (fun _ _ _ _ => rfl)

/-! ## `raise` -/

@[simp] theorem State.raise_pending (s : State) (u n d : Nat) : (s.raise u n d).pending = s.pending := s.raise_only u n d State.pending (fun _ _ _ _ _ => rfl)
@[simp] theorem State.raise_latch (s : State) (u n d : Nat) : (s.raise u n d).latch = s.latch := s.raise_only u n d State.latch (fun _ _ _ _ _ => rfl)
@[simp] theorem State.raise_readLatch (s : State) (u n d : Nat) : (s.raise u n d).readLatch = s.readLatch := s.raise_only u n d State.readLatch (fun _ _ _ _ _ => rfl)
@[simp] theorem State.raise_noted (s : State) (u n d : Nat) : (s.raise u n d).noted = s.noted := s.raise_only u n d State.noted (fun _ _ _ _ _ => rfl)
@[simp] theorem State.raise_heldOff (s : State) (u n d : Nat) : (s.raise u n d).heldOff = s.heldOff := s.raise_only u n d State.heldOff (fun _ _ _ _ _ => rfl)
@[simp] theorem State.raise_out (s : State) (u n d : Nat) : (s.raise u n d).out = s.out := s.raise_only u n d State.out (fun _ _ _ _ _ => rfl)
@[simp] theorem State.raise_ticks (s : State) (u n d : Nat) : (s.raise u n d).ticks = s.ticks := s.raise_only u n d State.ticks (fun _ _ _ _ _ => rfl)
@[simp] theorem State.raise_boot (s : State) (u n d : Nat) : (s.raise u n d).boot = s.boot := s.raise_only u n d State.boot (fun _ _ _ _ _ => rfl)
@[simp] theorem State.raise_time (s : State) (u n d : Nat) : (s.raise u n d).time = s.time := s.raise_only u n d State.time (fun _ _ _ _ _ => rfl)
@[simp] theorem State.raise_cxe (s : State) (u n d : Nat) : (s.raise u n d).cxe = s.cxe := s.raise_only u n d State.cxe (fun _ _ _ _ _ => rfl)
@[simp] theorem State.raise_mpi (s : State) (u n d : Nat) : (s.raise u n d).mpi = s.mpi := s.raise_only u n d State.mpi (fun _ _ _ _ _ => rfl)
@[simp] theorem State.raise_pp (s : State) (u n d : Nat) : (s.raise u n d).pp = s.pp := s.raise_only u n d State.pp (fun _ _ _ _ _ => rfl)
@[simp] theorem State.raise_emt (s : State) (u n d : Nat) : (s.raise u n d).emt = s.emt := s.raise_only u n d State.emt (fun _ _ _ _ _ => rfl)
@[simp] theorem State.raise_tcm (s : State) (u n d : Nat) : (s.raise u n d).tcm = s.tcm := s.raise_only u n d State.tcm (fun _ _ _ _ _ => rfl)
@[simp] theorem State.raise_tm (s : State) (u n d : Nat) : (s.raise u n d).tm = s.tm := s.raise_only u n d State.tm (fun _ _ _ _ _ => rfl)
@[simp] theorem State.raise_hif (s : State) (u n d : Nat) : (s.raise u n d).hif = s.hif := s.raise_only u n d State.hif (fun _ _ _ _ _ => rfl)
@[simp] theorem State.raise_shx (s : State) (u n d : Nat) : (s.raise u n d).shx = s.shx := s.raise_only u n d State.shx (fun _ _ _ _ _ => rfl)
@[simp] theorem State.raise_nvf (s : State) (u n d : Nat) : (s.raise u n d).nvf = s.nvf := s.raise_only u n d State.nvf (fun _ _ _ _ _ => rfl)
@[simp] theorem State.raise_ige (s : State) (u n d : Nat) : (s.raise u n d).ige = s.ige := s.raise_only u n d State.ige (fun _ _ _ _ _ => rfl)
@[simp] theorem State.raise_pwr (s : State) (u n d : Nat) : (s.raise u n d).pwr = s.pwr := s.raise_only u n d State.pwr (fun _ _ _ _ _ => rfl)
@[simp] theorem State.raise_svc (s : State) (u n d : Nat) : (s.raise u n d).svc = s.svc := s.raise_only u n d State.svc (fun _ _ _ _ _ => rfl)
@[simp] theorem State.raise_mgt (s : State) (u n d : Nat) : (s.raise u n d).mgt = s.mgt := s.raise_only u n d State.mgt (fun _ _ _ _ _ => rfl)
@[simp] theorem State.raise_ports (s : State) (u n d : Nat) : (s.raise u n d).ports = s.ports := s.raise_only u n d State.ports (fun _ _ _ _ _ => rfl)
@[simp] theorem State.raise_jtag (s : State) (u n d : Nat) : (s.raise u n d).jtag = s.jtag := s.raise_only u n d State.jtag (fun _ _ _ _ _ => rfl)

/-! ## `note` -/

@[simp] theorem State.note_pending (s : State) (u n d : Nat) : (s.note u n d).pending = s.pending := rfl
@[simp] theorem State.note_regs (s : State) (u n d : Nat) : (s.note u n d).regs = s.regs := rfl
@[simp] theorem State.note_force (s : State) (u n d : Nat) : (s.note u n d).force = s.force := rfl
@[simp] theorem State.note_latch (s : State) (u n d : Nat) : (s.note u n d).latch = s.latch := rfl
@[simp] theorem State.note_readLatch (s : State) (u n d : Nat) : (s.note u n d).readLatch = s.readLatch := rfl
@[simp] theorem State.note_staged (s : State) (u n d : Nat) : (s.note u n d).staged = s.staged := rfl
@[simp] theorem State.note_heldOff (s : State) (u n d : Nat) : (s.note u n d).heldOff = s.heldOff := rfl
@[simp] theorem State.note_out (s : State) (u n d : Nat) : (s.note u n d).out = s.out := rfl
@[simp] theorem State.note_freeCtr (s : State) (u n d : Nat) : (s.note u n d).freeCtr = s.freeCtr := rfl
@[simp] theorem State.note_ticks (s : State) (u n d : Nat) : (s.note u n d).ticks = s.ticks := rfl
@[simp] theorem State.note_boot (s : State) (u n d : Nat) : (s.note u n d).boot = s.boot := rfl
@[simp] theorem State.note_time (s : State) (u n d : Nat) : (s.note u n d).time = s.time := rfl
@[simp] theorem State.note_cxe (s : State) (u n d : Nat) : (s.note u n d).cxe = s.cxe := rfl
@[simp] theorem State.note_mpi (s : State) (u n d : Nat) : (s.note u n d).mpi = s.mpi := rfl
@[simp] theorem State.note_pp (s : State) (u n d : Nat) : (s.note u n d).pp = s.pp := rfl
@[simp] theorem State.note_emt (s : State) (u n d : Nat) : (s.note u n d).emt = s.emt := rfl
@[simp] theorem State.note_tcm (s : State) (u n d : Nat) : (s.note u n d).tcm = s.tcm := rfl
@[simp] theorem State.note_tm (s : State) (u n d : Nat) : (s.note u n d).tm = s.tm := rfl
@[simp] theorem State.note_hif (s : State) (u n d : Nat) : (s.note u n d).hif = s.hif := rfl
@[simp] theorem State.note_qe (s : State) (u n d : Nat) : (s.note u n d).qe = s.qe := rfl
@[simp] theorem State.note_shx (s : State) (u n d : Nat) : (s.note u n d).shx = s.shx := rfl
@[simp] theorem State.note_nvf (s : State) (u n d : Nat) : (s.note u n d).nvf = s.nvf := rfl
@[simp] theorem State.note_ige (s : State) (u n d : Nat) : (s.note u n d).ige = s.ige := rfl
@[simp] theorem State.note_pwr (s : State) (u n d : Nat) : (s.note u n d).pwr = s.pwr := rfl
@[simp] theorem State.note_svc (s : State) (u n d : Nat) : (s.note u n d).svc = s.svc := rfl
@[simp] theorem State.note_mgt (s : State) (u n d : Nat) : (s.note u n d).mgt = s.mgt := rfl
@[simp] theorem State.note_ports (s : State) (u n d : Nat) : (s.note u n d).ports = s.ports := rfl
@[simp] theorem State.note_jtag (s : State) (u n d : Nat) : (s.note u n d).jtag = s.jtag := rfl

/-! ## `announce` -/

@[simp] theorem State.announce_pending (s : State) : (s.announce).pending = s.pending := s.announce_only State.pending (fun _ _ _ _ _ _ => rfl)
@[simp] theorem State.announce_latch (s : State) : (s.announce).latch = s.latch := s.announce_only State.latch (fun _ _ _ _ _ _ => rfl)
@[simp] theorem State.announce_readLatch (s : State) : (s.announce).readLatch = s.readLatch := s.announce_only State.readLatch (fun _ _ _ _ _ _ => rfl)
@[simp] theorem State.announce_heldOff (s : State) : (s.announce).heldOff = s.heldOff := s.announce_only State.heldOff (fun _ _ _ _ _ _ => rfl)
@[simp] theorem State.announce_out (s : State) : (s.announce).out = s.out := s.announce_only State.out (fun _ _ _ _ _ _ => rfl)
@[simp] theorem State.announce_ticks (s : State) : (s.announce).ticks = s.ticks := s.announce_only State.ticks (fun _ _ _ _ _ _ => rfl)
@[simp] theorem State.announce_boot (s : State) : (s.announce).boot = s.boot := s.announce_only State.boot (fun _ _ _ _ _ _ => rfl)
@[simp] theorem State.announce_time (s : State) : (s.announce).time = s.time := s.announce_only State.time (fun _ _ _ _ _ _ => rfl)
@[simp] theorem State.announce_cxe (s : State) : (s.announce).cxe = s.cxe := s.announce_only State.cxe (fun _ _ _ _ _ _ => rfl)
@[simp] theorem State.announce_mpi (s : State) : (s.announce).mpi = s.mpi := s.announce_only State.mpi (fun _ _ _ _ _ _ => rfl)
@[simp] theorem State.announce_pp (s : State) : (s.announce).pp = s.pp := s.announce_only State.pp (fun _ _ _ _ _ _ => rfl)
@[simp] theorem State.announce_emt (s : State) : (s.announce).emt = s.emt := s.announce_only State.emt (fun _ _ _ _ _ _ => rfl)
@[simp] theorem State.announce_tcm (s : State) : (s.announce).tcm = s.tcm := s.announce_only State.tcm (fun _ _ _ _ _ _ => rfl)
@[simp] theorem State.announce_tm (s : State) : (s.announce).tm = s.tm := s.announce_only State.tm (fun _ _ _ _ _ _ => rfl)
@[simp] theorem State.announce_hif (s : State) : (s.announce).hif = s.hif := s.announce_only State.hif (fun _ _ _ _ _ _ => rfl)
@[simp] theorem State.announce_shx (s : State) : (s.announce).shx = s.shx := s.announce_only State.shx (fun _ _ _ _ _ _ => rfl)
@[simp] theorem State.announce_nvf (s : State) : (s.announce).nvf = s.nvf := s.announce_only State.nvf (fun _ _ _ _ _ _ => rfl)
@[simp] theorem State.announce_ige (s : State) : (s.announce).ige = s.ige := s.announce_only State.ige (fun _ _ _ _ _ _ => rfl)
@[simp] theorem State.announce_pwr (s : State) : (s.announce).pwr = s.pwr := s.announce_only State.pwr (fun _ _ _ _ _ _ => rfl)
@[simp] theorem State.announce_svc (s : State) : (s.announce).svc = s.svc := s.announce_only State.svc (fun _ _ _ _ _ _ => rfl)
@[simp] theorem State.announce_mgt (s : State) : (s.announce).mgt = s.mgt := s.announce_only State.mgt (fun _ _ _ _ _ _ => rfl)
@[simp] theorem State.announce_ports (s : State) : (s.announce).ports = s.ports := s.announce_only State.ports (fun _ _ _ _ _ _ => rfl)
@[simp] theorem State.announce_jtag (s : State) : (s.announce).jtag = s.jtag := s.announce_only State.jtag (fun _ _ _ _ _ _ => rfl)

/-! ## `raiseHeld` -/

@[simp] theorem State.raiseHeld_pending (s : State) (key us u n d : Nat) : (s.raiseHeld key us u n d).pending = s.pending := s.raiseHeld_only key us u n d State.pending (fun _ _ _ _ _ _ => rfl)
@[simp] theorem State.raiseHeld_latch (s : State) (key us u n d : Nat) : (s.raiseHeld key us u n d).latch = s.latch := s.raiseHeld_only key us u n d State.latch (fun _ _ _ _ _ _ => rfl)
@[simp] theorem State.raiseHeld_readLatch (s : State) (key us u n d : Nat) : (s.raiseHeld key us u n d).readLatch = s.readLatch := s.raiseHeld_only key us u n d State.readLatch (fun _ _ _ _ _ _ => rfl)
@[simp] theorem State.raiseHeld_noted (s : State) (key us u n d : Nat) : (s.raiseHeld key us u n d).noted = s.noted := s.raiseHeld_only key us u n d State.noted (fun _ _ _ _ _ _ => rfl)
@[simp] theorem State.raiseHeld_out (s : State) (key us u n d : Nat) : (s.raiseHeld key us u n d).out = s.out := s.raiseHeld_only key us u n d State.out (fun _ _ _ _ _ _ => rfl)
@[simp] theorem State.raiseHeld_ticks (s : State) (key us u n d : Nat) : (s.raiseHeld key us u n d).ticks = s.ticks := s.raiseHeld_only key us u n d State.ticks (fun _ _ _ _ _ _ => rfl)
@[simp] theorem State.raiseHeld_boot (s : State) (key us u n d : Nat) : (s.raiseHeld key us u n d).boot = s.boot := s.raiseHeld_only key us u n d State.boot (fun _ _ _ _ _ _ => rfl)
@[simp] theorem State.raiseHeld_time (s : State) (key us u n d : Nat) : (s.raiseHeld key us u n d).time = s.time := s.raiseHeld_only key us u n d State.time (fun _ _ _ _ _ _ => rfl)
@[simp] theorem State.raiseHeld_cxe (s : State) (key us u n d : Nat) : (s.raiseHeld key us u n d).cxe = s.cxe := s.raiseHeld_only key us u n d State.cxe (fun _ _ _ _ _ _ => rfl)
@[simp] theorem State.raiseHeld_mpi (s : State) (key us u n d : Nat) : (s.raiseHeld key us u n d).mpi = s.mpi := s.raiseHeld_only key us u n d State.mpi (fun _ _ _ _ _ _ => rfl)
@[simp] theorem State.raiseHeld_pp (s : State) (key us u n d : Nat) : (s.raiseHeld key us u n d).pp = s.pp := s.raiseHeld_only key us u n d State.pp (fun _ _ _ _ _ _ => rfl)
@[simp] theorem State.raiseHeld_emt (s : State) (key us u n d : Nat) : (s.raiseHeld key us u n d).emt = s.emt := s.raiseHeld_only key us u n d State.emt (fun _ _ _ _ _ _ => rfl)
@[simp] theorem State.raiseHeld_tcm (s : State) (key us u n d : Nat) : (s.raiseHeld key us u n d).tcm = s.tcm := s.raiseHeld_only key us u n d State.tcm (fun _ _ _ _ _ _ => rfl)
@[simp] theorem State.raiseHeld_tm (s : State) (key us u n d : Nat) : (s.raiseHeld key us u n d).tm = s.tm := s.raiseHeld_only key us u n d State.tm (fun _ _ _ _ _ _ => rfl)
@[simp] theorem State.raiseHeld_hif (s : State) (key us u n d : Nat) : (s.raiseHeld key us u n d).hif = s.hif := s.raiseHeld_only key us u n d State.hif (fun _ _ _ _ _ _ => rfl)
@[simp] theorem State.raiseHeld_shx (s : State) (key us u n d : Nat) : (s.raiseHeld key us u n d).shx = s.shx := s.raiseHeld_only key us u n d State.shx (fun _ _ _ _ _ _ => rfl)
@[simp] theorem State.raiseHeld_nvf (s : State) (key us u n d : Nat) : (s.raiseHeld key us u n d).nvf = s.nvf := s.raiseHeld_only key us u n d State.nvf (fun _ _ _ _ _ _ => rfl)
@[simp] theorem State.raiseHeld_ige (s : State) (key us u n d : Nat) : (s.raiseHeld key us u n d).ige = s.ige := s.raiseHeld_only key us u n d State.ige (fun _ _ _ _ _ _ => rfl)
@[simp] theorem State.raiseHeld_pwr (s : State) (key us u n d : Nat) : (s.raiseHeld key us u n d).pwr = s.pwr := s.raiseHeld_only key us u n d State.pwr (fun _ _ _ _ _ _ => rfl)
@[simp] theorem State.raiseHeld_svc (s : State) (key us u n d : Nat) : (s.raiseHeld key us u n d).svc = s.svc := s.raiseHeld_only key us u n d State.svc (fun _ _ _ _ _ _ => rfl)
@[simp] theorem State.raiseHeld_mgt (s : State) (key us u n d : Nat) : (s.raiseHeld key us u n d).mgt = s.mgt := s.raiseHeld_only key us u n d State.mgt (fun _ _ _ _ _ _ => rfl)
@[simp] theorem State.raiseHeld_ports (s : State) (key us u n d : Nat) : (s.raiseHeld key us u n d).ports = s.ports := s.raiseHeld_only key us u n d State.ports (fun _ _ _ _ _ _ => rfl)
@[simp] theorem State.raiseHeld_jtag (s : State) (key us u n d : Nat) : (s.raiseHeld key us u n d).jtag = s.jtag := s.raiseHeld_only key us u n d State.jtag (fun _ _ _ _ _ _ => rfl)

/-! ## `setUnit` -/

@[simp] theorem State.setUnit_pending (s : State) (u st c : Nat) : (s.setUnit u st c).pending = s.pending := s.setUnit_only u st c State.pending (fun _ _ _ _ _ => rfl)
@[simp] theorem State.setUnit_latch (s : State) (u st c : Nat) : (s.setUnit u st c).latch = s.latch := s.setUnit_only u st c State.latch (fun _ _ _ _ _ => rfl)
@[simp] theorem State.setUnit_readLatch (s : State) (u st c : Nat) : (s.setUnit u st c).readLatch = s.readLatch := s.setUnit_only u st c State.readLatch (fun _ _ _ _ _ => rfl)
@[simp] theorem State.setUnit_noted (s : State) (u st c : Nat) : (s.setUnit u st c).noted = s.noted := s.setUnit_only u st c State.noted (fun _ _ _ _ _ => rfl)
@[simp] theorem State.setUnit_heldOff (s : State) (u st c : Nat) : (s.setUnit u st c).heldOff = s.heldOff := s.setUnit_only u st c State.heldOff (fun _ _ _ _ _ => rfl)
@[simp] theorem State.setUnit_out (s : State) (u st c : Nat) : (s.setUnit u st c).out = s.out := s.setUnit_only u st c State.out (fun _ _ _ _ _ => rfl)
@[simp] theorem State.setUnit_ticks (s : State) (u st c : Nat) : (s.setUnit u st c).ticks = s.ticks := s.setUnit_only u st c State.ticks (fun _ _ _ _ _ => rfl)
@[simp] theorem State.setUnit_boot (s : State) (u st c : Nat) : (s.setUnit u st c).boot = s.boot := s.setUnit_only u st c State.boot (fun _ _ _ _ _ => rfl)
@[simp] theorem State.setUnit_time (s : State) (u st c : Nat) : (s.setUnit u st c).time = s.time := s.setUnit_only u st c State.time (fun _ _ _ _ _ => rfl)
@[simp] theorem State.setUnit_cxe (s : State) (u st c : Nat) : (s.setUnit u st c).cxe = s.cxe := s.setUnit_only u st c State.cxe (fun _ _ _ _ _ => rfl)
@[simp] theorem State.setUnit_mpi (s : State) (u st c : Nat) : (s.setUnit u st c).mpi = s.mpi := s.setUnit_only u st c State.mpi (fun _ _ _ _ _ => rfl)
@[simp] theorem State.setUnit_pp (s : State) (u st c : Nat) : (s.setUnit u st c).pp = s.pp := s.setUnit_only u st c State.pp (fun _ _ _ _ _ => rfl)
@[simp] theorem State.setUnit_emt (s : State) (u st c : Nat) : (s.setUnit u st c).emt = s.emt := s.setUnit_only u st c State.emt (fun _ _ _ _ _ => rfl)
@[simp] theorem State.setUnit_tcm (s : State) (u st c : Nat) : (s.setUnit u st c).tcm = s.tcm := s.setUnit_only u st c State.tcm (fun _ _ _ _ _ => rfl)
@[simp] theorem State.setUnit_tm (s : State) (u st c : Nat) : (s.setUnit u st c).tm = s.tm := s.setUnit_only u st c State.tm (fun _ _ _ _ _ => rfl)
@[simp] theorem State.setUnit_hif (s : State) (u st c : Nat) : (s.setUnit u st c).hif = s.hif := s.setUnit_only u st c State.hif (fun _ _ _ _ _ => rfl)
@[simp] theorem State.setUnit_shx (s : State) (u st c : Nat) : (s.setUnit u st c).shx = s.shx := s.setUnit_only u st c State.shx (fun _ _ _ _ _ => rfl)
@[simp] theorem State.setUnit_nvf (s : State) (u st c : Nat) : (s.setUnit u st c).nvf = s.nvf := s.setUnit_only u st c State.nvf (fun _ _ _ _ _ => rfl)
@[simp] theorem State.setUnit_ige (s : State) (u st c : Nat) : (s.setUnit u st c).ige = s.ige := s.setUnit_only u st c State.ige (fun _ _ _ _ _ => rfl)
@[simp] theorem State.setUnit_pwr (s : State) (u st c : Nat) : (s.setUnit u st c).pwr = s.pwr := s.setUnit_only u st c State.pwr (fun _ _ _ _ _ => rfl)
@[simp] theorem State.setUnit_svc (s : State) (u st c : Nat) : (s.setUnit u st c).svc = s.svc := s.setUnit_only u st c State.svc (fun _ _ _ _ _ => rfl)
@[simp] theorem State.setUnit_mgt (s : State) (u st c : Nat) : (s.setUnit u st c).mgt = s.mgt := s.setUnit_only u st c State.mgt (fun _ _ _ _ _ => rfl)
@[simp] theorem State.setUnit_ports (s : State) (u st c : Nat) : (s.setUnit u st c).ports = s.ports := s.setUnit_only u st c State.ports (fun _ _ _ _ _ => rfl)
@[simp] theorem State.setUnit_jtag (s : State) (u st c : Nat) : (s.setUnit u st c).jtag = s.jtag := s.setUnit_only u st c State.jtag (fun _ _ _ _ _ => rfl)

end Sys2Proof.Machine
end

