-- ==== Sys2Proof/Laws/Events.lean ====
section
/-!
SUPPORT. The laws of events and unit states: which registers raising an event and moving a unit leave
alone, and what the moment record and the unit's header read afterwards.
-/

namespace Sys2Proof.Machine

theorem fieldOf_congr (r r' : Nat → Word) (b : Nat) (f : Fld) (h : ∀ j < f.words, r' (b + f.off + 4 * j) = r (b + f.off + 4 * j)) :
    fieldOf r' b f = fieldOf r b f := by
  apply Nat.eq_of_testBit_eq
  intro i
  rw [testBit_fieldOf, testBit_fieldOf]
  by_cases hi : i < f.width
  · have hw := f.lt_words i hi
    rw [h _ (by omega)]
  · simp [hi]

theorem State.act_evq_lt (s : State) (b : Nat) : s.act b HifRoute.evq < 1024 := Nat.mod_lt _ (by decide)

theorem State.rd_mgtEnter (s : State) (a : Nat) (h : a < 0x1401000 ∨ 0x1401004 ≤ a) : s.mgtEnter.1.rd a = s.rd a := by
  have k : ∀ v, (s.set MgtStatus.adr MgtStatus.eventSeq v).rd a = s.rd a := fun v =>
    s.rd_set_out _ _ _ _ (by simp only [MgtStatus.adr, MgtStatus.eventSeq, Fld.words]; omega)
  unfold State.mgtEnter
  split
  · dsimp only
    split <;> exact k _
  · rfl

theorem State.inForce_mgtEnter (s : State) (a : Nat) (h : a < 0x1401000 ∨ 0x1401004 ≤ a) : s.mgtEnter.1.inForce a = s.inForce a := by
  have k : ∀ v, (s.set MgtStatus.adr MgtStatus.eventSeq v).inForce a = s.inForce a := fun v =>
    s.inForce_set_out _ _ _ _ (by simp only [MgtStatus.adr, MgtStatus.eventSeq, Fld.words]; omega)
  unfold State.mgtEnter
  split
  · dsimp only
    split <;> exact k _
  · rfl

theorem State.rd_stage (s : State) (e : Staged) (a : Nat) (h : QuietWord a) : (s.stage e).rd a = s.rd a := by
  obtain ⟨-, h1, -, h3⟩ := h
  have hq := s.act_evq_lt (HifRoute.adr e.ev)
  unfold State.stage
  split
  · rfl
  · split
    · exact (State.rd_set_out _ _ _ _ _ (by simp only [SvcStaging.adr, SvcStaging.used, Fld.words]; omega)).trans rfl
    · dsimp only
      have k1 : (s.set SvcStaging.adr SvcStaging.lost 1).rd a = s.rd a :=
        State.rd_set_out _ _ _ _ _ (by simp only [SvcStaging.adr, SvcStaging.lost, Fld.words]; omega)
      split
      · refine Eq.trans ?_ k1
        exact (State.rd_set_out _ _ _ _ _ (by simp only [QeEvq.adr, QeTxq.overflow, Fld.words]; omega))
      · exact k1

theorem State.inForce_stage (s : State) (e : Staged) (a : Nat) (h : QuietWord a) :
    (s.stage e).inForce a = s.inForce a := by
  obtain ⟨-, h1, -, h3⟩ := h
  have hq := s.act_evq_lt (HifRoute.adr e.ev)
  unfold State.stage
  split
  · rfl
  · split
    · exact (State.inForce_set_out _ _ _ _ _ (by simp only [SvcStaging.adr, SvcStaging.used, Fld.words]; omega)).trans rfl
    · dsimp only
      have k1 : (s.set SvcStaging.adr SvcStaging.lost 1).inForce a = s.inForce a :=
        State.inForce_set_out _ _ _ _ _ (by simp only [SvcStaging.adr, SvcStaging.lost, Fld.words]; omega)
      split
      · refine Eq.trans ?_ k1
        exact (State.inForce_set_out _ _ _ _ _ (by simp only [QeEvq.adr, QeTxq.overflow, Fld.words]; omega))
      · exact k1

/-- The moment record as the event leaves it, before it is announced. -/
def State.moment (s : State) (u n d : Nat) : State :=
  ((s.set (Hdr.adr u) Hdr.momEvent n).set (Hdr.adr u) Hdr.momStamp (stampOf s.nowNs).toNat).set (Hdr.adr u) Hdr.momDetail d

/-- Raising an event writes the moment record, may count EVENT_SEQ, and stages the event. -/
theorem State.raise_eq (s : State) (u n d : Nat) :
    ∃ e t, (t = s.moment u n d ∨ t = (s.moment u n d).mgtEnter.1) ∧ s.raise u n d = (t.stage e).tickFree := by
  unfold State.raise
  dsimp only
  split
  · exact ⟨_, _, .inl rfl, rfl⟩
  · exact ⟨_, _, .inr rfl, rfl⟩

theorem State.rd_moment (s : State) (u n d a : Nat) (h : QuietWord a) : (s.moment u n d).rd a = s.rd a := by
  obtain ⟨h, -⟩ := h
  unfold State.moment
  rw [State.rd_set_out _ _ _ _ _ (by simp only [Hdr.adr, Hdr.momDetail, Fld.words]; omega),
    State.rd_set_out _ _ _ _ _ (by simp only [Hdr.adr, Hdr.momStamp, Fld.words]; omega),
    State.rd_set_out _ _ _ _ _ (by simp only [Hdr.adr, Hdr.momEvent, Fld.words]; omega)]

theorem State.inForce_moment (s : State) (u n d a : Nat) (h : QuietWord a) :
    (s.moment u n d).inForce a = s.inForce a := by
  obtain ⟨h, -⟩ := h
  unfold State.moment
  rw [State.inForce_set_out _ _ _ _ _ (by simp only [Hdr.adr, Hdr.momDetail, Fld.words]; omega),
    State.inForce_set_out _ _ _ _ _ (by simp only [Hdr.adr, Hdr.momStamp, Fld.words]; omega),
    State.inForce_set_out _ _ _ _ _ (by simp only [Hdr.adr, Hdr.momEvent, Fld.words]; omega)]

/-- An event leaves every word alone that is none of its own. -/
theorem State.rd_raise (s : State) (u n d a : Nat) (h : QuietWord a) : (s.raise u n d).rd a = s.rd a := by
  obtain ⟨e, t, ht, hr⟩ := s.raise_eq u n d
  rw [hr]
  show (t.stage e).rd a = _
  rw [State.rd_stage _ _ _ h]
  rcases ht with rfl | rfl
  · exact s.rd_moment u n d a h
  · rw [State.rd_mgtEnter _ _ h.2.2.1]
    exact s.rd_moment u n d a h

theorem State.inForce_raise (s : State) (u n d a : Nat) (h : QuietWord a) :
    (s.raise u n d).inForce a = s.inForce a := by
  obtain ⟨e, t, ht, hr⟩ := s.raise_eq u n d
  rw [hr]
  show (t.stage e).inForce a = _
  rw [State.inForce_stage _ _ _ h]
  rcases ht with rfl | rfl
  · exact s.inForce_moment u n d a h
  · rw [State.inForce_mgtEnter _ _ h.2.2.1]
    exact s.inForce_moment u n d a h

theorem State.get_raise (s : State) (u n d b : Nat) (f : Fld) (h : f.Quiet b) : (s.raise u n d).get b f = s.get b f :=
  fieldOf_congr _ _ b f fun j hj => s.rd_raise u n d _ (h j hj)

theorem State.act_raise (s : State) (u n d b : Nat) (f : Fld) (h : f.Quiet b) : (s.raise u n d).act b f = s.act b f :=
  fieldOf_congr _ _ b f fun j hj => s.inForce_raise u n d _ (h j hj)

/-! ## The events of one cycle (R511) -/

theorem State.rd_note (s : State) (u n d a : Nat) : (s.note u n d).rd a = s.rd a := rfl
theorem State.inForce_note (s : State) (u n d a : Nat) : (s.note u n d).inForce a = s.inForce a := rfl
@[simp] theorem State.get_note (s : State) (u n d b : Nat) (f : Fld) : (s.note u n d).get b f = s.get b f := rfl
@[simp] theorem State.act_note (s : State) (u n d b : Nat) (f : Fld) : (s.note u n d).act b f = s.act b f := rfl

/-- Nothing is announced in a cycle in which nothing was raised. -/
theorem State.announce_nil (s : State) (h : s.noted = []) : s.announce = s := by
  cases s
  subst h
  rfl

/-- One event of a cycle is announced as it is raised. -/
theorem State.announce_note (s : State) (u n d : Nat) (h : s.noted = []) : (s.note u n d).announce = s.raise u n d := by
  cases s
  subst h
  rfl

/-- Property `P` of a state, kept by every event, is kept by what a cycle announces. -/
theorem State.announce_keeps {P : State → Prop} (hp : ∀ t u n d, P t → P (t.raise u n d)) (s : State)
    (h : P { s with noted := [] }) : P s.announce := by
  unfold State.announce
  generalize s.noted = l
  revert h
  generalize ({ s with noted := [] } : State) = t
  intro h
  induction l generalizing t with
  | nil => exact h
  | cons e l ih => exact ih _ (hp _ _ _ _ h)

theorem State.rd_announce (s : State) (a : Nat) (h : QuietWord a) : s.announce.rd a = s.rd a :=
  s.announce_keeps (P := fun t => t.rd a = s.rd a) (fun t u n d g => (t.rd_raise u n d a h).trans g) rfl

theorem State.inForce_announce (s : State) (a : Nat) (h : QuietWord a) : s.announce.inForce a = s.inForce a :=
  s.announce_keeps (P := fun t => t.inForce a = s.inForce a) (fun t u n d g => (t.inForce_raise u n d a h).trans g) rfl

theorem State.get_announce (s : State) (b : Nat) (f : Fld) (h : f.Quiet b) : s.announce.get b f = s.get b f :=
  s.announce_keeps (P := fun t => t.get b f = s.get b f) (fun t u n d g => (t.get_raise u n d b f h).trans g) rfl

theorem State.act_announce (s : State) (b : Nat) (f : Fld) (h : f.Quiet b) : s.announce.act b f = s.act b f :=
  s.announce_keeps (P := fun t => t.act b f = s.act b f) (fun t u n d g => (t.act_raise u n d b f h).trans g) rfl

theorem State.rd_raiseHeld (s : State) (key us u n d a : Nat) (h : QuietWord a) :
    (s.raiseHeld key us u n d).rd a = s.rd a := by
  unfold State.raiseHeld
  split
  · split
    · rfl
    · exact State.rd_raise _ u n d a h
  · exact State.rd_raise _ u n d a h

theorem State.inForce_raiseHeld (s : State) (key us u n d a : Nat) (h : QuietWord a) :
    (s.raiseHeld key us u n d).inForce a = s.inForce a := by
  unfold State.raiseHeld
  split
  · split
    · rfl
    · exact State.inForce_raise _ u n d a h
  · exact State.inForce_raise _ u n d a h

/-! ## What the moment record holds -/

theorem momWord (a : Nat) : 0x20 ≤ a % 0x100000 → a % 0x100000 < 0x28 → (a < 0x1701018 ∨ 0x170101C ≤ a) ∧ (a < 0x1401000 ∨ 0x1401004 ≤ a) ∧ (a < 0xFC0000 ∨ 0xFD0000 ≤ a) := by
  omega

theorem State.rd_stage_mom (s : State) (e : Staged) (a : Nat) (h1 : 0x20 ≤ a % 0x100000) (h2 : a % 0x100000 < 0x28) :
    (s.stage e).rd a = s.rd a := by
  obtain ⟨g1, -, g3⟩ := momWord a h1 h2
  have hq := s.act_evq_lt (HifRoute.adr e.ev)
  unfold State.stage
  split
  · rfl
  · split
    · exact (State.rd_set_out _ _ _ _ _ (by simp only [SvcStaging.adr, SvcStaging.used, Fld.words]; omega)).trans rfl
    · dsimp only
      have k1 : (s.set SvcStaging.adr SvcStaging.lost 1).rd a = s.rd a :=
        State.rd_set_out _ _ _ _ _ (by simp only [SvcStaging.adr, SvcStaging.lost, Fld.words]; omega)
      split
      · refine Eq.trans ?_ k1
        exact (State.rd_set_out _ _ _ _ _ (by simp only [QeEvq.adr, QeTxq.overflow, Fld.words]; omega))
      · exact k1

/-- After an event the moment record of its unit is the one that the event has written (R511). -/
theorem State.rd_raise_mom (s : State) (u n d a : Nat) (h1 : 0x20 ≤ a % 0x100000) (h2 : a % 0x100000 < 0x28) :
    (s.raise u n d).rd a = (s.moment u n d).rd a := by
  obtain ⟨e, t, ht, hr⟩ := s.raise_eq u n d
  rw [hr]
  show (t.stage e).rd a = _
  rw [State.rd_stage_mom _ _ _ h1 h2]
  rcases ht with rfl | rfl
  · rfl
  · exact State.rd_mgtEnter _ _ (momWord a h1 h2).2.1

theorem State.get_raise_mom (s : State) (u n d : Nat) (f : Fld) (h1 : f.off = 0x20) (h2 : f.words ≤ 2) :
    (s.raise u n d).get (Hdr.adr u) f = (s.moment u n d).get (Hdr.adr u) f :=
  fieldOf_congr _ _ _ f fun j hj => s.rd_raise_mom u n d _ (by simp only [Hdr.adr]; omega) (by simp only [Hdr.adr]; omega)

/-- The event's number stands in the moment record. -/
theorem State.raise_momEvent (s : State) (u n d : Nat) : (s.raise u n d).get (Hdr.adr u) Hdr.momEvent = n % 16 := by
  rw [State.get_raise_mom _ _ _ _ _ rfl (by decide)]
  unfold State.moment
  rw [State.get_set_apart, State.get_set_apart, State.get_set_same]
  · rfl
  · exact .inr (.inr ⟨rfl, .inl (by decide)⟩)
  · exact .inr (.inr ⟨rfl, .inl (by decide)⟩)

/-- Its detail stands there, within 28 bits. -/
theorem State.raise_momDetail (s : State) (u n d : Nat) :
    (s.raise u n d).get (Hdr.adr u) Hdr.momDetail = d % 2 ^ 28 := by
  rw [State.get_raise_mom _ _ _ _ _ rfl (by decide)]
  unfold State.moment
  rw [State.get_set_same]
  rfl

/-- Its stamp stands there (R107). -/
theorem State.raise_momStamp (s : State) (u n d : Nat) :
    (s.raise u n d).get (Hdr.adr u) Hdr.momStamp = (stampOf s.nowNs).toNat := by
  rw [State.get_raise_mom _ _ _ _ _ rfl (by decide)]
  unfold State.moment
  rw [State.get_set_apart, State.get_set_same]
  · exact Nat.mod_eq_of_lt (BitVec.isLt _)
  · exact .inr (.inr ⟨rfl, .inl (by decide)⟩)

/-! ## Units -/

theorem State.get_flushUnit (s : State) (u b : Nat) (f : Fld)
    (h : u ≠ 13 ∨ b + f.off + 4 * f.words ≤ 0xDF0000 ∨ 0xE00000 ≤ b + f.off) : (s.flushUnit u).get b f = s.get b f :=
  fieldOf_congr _ _ b f fun j hj => s.rd_flushUnit u _ (by omega)

/-- Moving a unit writes its header, CFG_READY_MAP, what an event writes and, for U13, the active gate lists; every other written value
stays. -/
theorem State.get_setUnit (s : State) (u st c b : Nat) (f : Fld) (h : f.Quiet b)
    (h0 : b + f.off + 4 * f.words ≤ 0x100000 * u + 0x10 ∨ 0x100000 * u + 0x18 ≤ b + f.off)
    (h1 : b + f.off + 4 * f.words ≤ CfgReadyMap.adr ∨ CfgReadyMap.adr + 4 ≤ b + f.off)
    (h2 : u ≠ 13 ∨ b + f.off + 4 * f.words ≤ 0xDF0000 ∨ 0xE00000 ≤ b + f.off) :
    (s.setUnit u st c).get b f = s.get b f := by
  have base : ∀ v, ((((s.set (Hdr.adr u) Hdr.state st).set (Hdr.adr u) Hdr.cause c).set (Hdr.adr u) Hdr.ready
      (b2n (st == stREADY))).set CfgReadyMap.adr CfgReadyMap.ready v).get b f = s.get b f := by
    intro v
    rw [State.get_set_apart, State.get_set_apart, State.get_set_apart, State.get_set_apart]
    · simp only [Fld.Apart, Hdr.adr, Hdr.state, Fld.words] at h0 ⊢; omega
    · simp only [Fld.Apart, Hdr.adr, Hdr.cause, Fld.words] at h0 ⊢; omega
    · simp only [Fld.Apart, Hdr.adr, Hdr.ready, Fld.words] at h0 ⊢; omega
    · simp only [Fld.Apart, CfgReadyMap.adr, CfgReadyMap.ready, Fld.words] at h1 ⊢; omega
  unfold State.setUnit
  dsimp only
  split
  · split
    · rw [State.get_flushUnit _ _ _ _ h2, base]
    · rw [base]
  · rw [State.get_raise _ _ _ _ _ _ h]
    split
    · rw [State.get_flushUnit _ _ _ _ h2, base]
    · rw [base]

end Sys2Proof.Machine
end

