-- ==== Sys2Proof/Laws/Evolve.lean ====
section
/-!
SUPPORT. What the shared operations over the state keep: each keeps `Evolves`, the relation between a state and a later
one that every command answers to.
-/

namespace Sys2Proof.Machine

set_option linter.all false

theorem Fuses.Grown.refl (f : Fuses) : Fuses.Grown f f := by
  simp [Fuses.Grown, bitsKept]

theorem bitsKept_trans {n : Nat} {a b c : BitVec n} (h : bitsKept a b) (g : bitsKept b c) : bitsKept a c := by
  unfold bitsKept at *
  rw [← h, BitVec.and_assoc, g]

theorem Fuses.Grown.trans {f g h : Fuses} (a : Fuses.Grown f g) (b : Fuses.Grown g h) : Fuses.Grown f h := by
  unfold Fuses.Grown at *
  obtain ⟨a1, a2, a3, a4, a5, a6, a7, a8, a9⟩ := a
  obtain ⟨b1, b2, b3, b4, b5, b6, b7, b8, b9⟩ := b
  exact ⟨b1.trans a1, b2.trans a2, b3.trans a3, bitsKept_trans a4 b4, bitsKept_trans a5 b5, bitsKept_trans a6 b6,
    bitsKept_trans a7 b7, bitsKept_trans a8 b8, bitsKept_trans a9 b9⟩

theorem Evolves.refl (s : State) : Evolves s s :=
  ⟨rfl, List.prefix_rfl, Nat.le_refl _, Fuses.Grown.refl _, id, id, id⟩

theorem Evolves.trans {s t u : State} (h : Evolves s t) (g : Evolves t u) : Evolves s u :=
  ⟨g.queue.trans h.queue, h.sent.trans g.sent, Nat.le_trans h.fresh g.fresh, h.fuses.trans g.fuses, g.regs ∘ h.regs,
    g.force ∘ h.force, g.staged ∘ h.staged⟩

/-- A state that differs only in fields which `Evolves` does not look at. -/
theorem Evolves.of_fields {s0 s t : State} (h : Evolves s0 s) (h1 : t.pending = s.pending) (h2 : t.out = s.out)
    (h3 : t.freeCtr = s.freeCtr) (h4 : t.boot.fuses = s.boot.fuses) (h5 : t.regs = s.regs) (h6 : t.force = s.force)
    (h7 : t.staged = s.staged) : Evolves s0 t :=
  h.trans ⟨h1, h2 ▸ List.prefix_rfl, Nat.le_of_eq h3.symm, h4 ▸ Fuses.Grown.refl _, fun h => h5 ▸ h, fun h => h6 ▸ h,
    fun h => h7 ▸ h⟩

/-- A record update of fields that `Evolves` does not look at. -/
theorem ev_mk {s0 s : State} {latch_ : List (Origin × Nat × Word)} {readLatch_ : List (Origin × Nat × Word)}
    {noted_ : List (Nat × Nat × Nat)} {heldOff_ : List (Nat × Nat)} {ticks_ : Nat} {boot_ : Boot} {time_ : Time} {cxe_ : Cxe} {mpi_ : Mpi} {pp_ : Pp} {emt_ : Emt}
    {tcm_ : Tcm} {tm_ : Tm} {hif_ : Hif} {qe_ : Qe} {shx_ : Shx} {nvf_ : Nvf} {ige_ : Ige} {pwr_ : Pwr} {svc_ : Svc}
    {mgt_ : Mgt} {ports_ : Ports} {jtag_ : Jtag} (h : boot_.fuses = s.boot.fuses) :
    Evolves s0 (State.mk s.pending s.regs s.force latch_ readLatch_ s.staged noted_ heldOff_ s.out s.freeCtr ticks_ boot_
    time_ cxe_ mpi_ pp_ emt_ tcm_ tm_ hif_ qe_ shx_ nvf_ ige_ pwr_ svc_ mgt_ ports_ jtag_)
    ↔ Evolves s0 s :=
  ⟨fun g => g.of_fields rfl rfl rfl h.symm rfl rfl rfl, fun g => g.of_fields rfl rfl rfl h rfl rfl rfl⟩

/-! ## Ways that a state is made from others -/

theorem ev_ite {s0 a b : State} {c : Prop} [Decidable c] (ha : Evolves s0 a) (hb : Evolves s0 b) :
    Evolves s0 (if c then a else b) := by
  split <;> assumption

theorem ev_ite_fst {β : Type} {s0 : State} {a b : State × β} {c : Prop} [Decidable c] (ha : Evolves s0 a.1)
    (hb : Evolves s0 b.1) : Evolves s0 (if c then a else b).1 := by
  split <;> assumption

theorem ev_foldl {α : Type} {s0 s : State} {f : State → α → State} {l : List α} (h : Evolves s0 s)
    (hf : ∀ t x, Evolves s0 t → Evolves s0 (f t x)) : Evolves s0 (l.foldl f s) := by
  induction l generalizing s with
  | nil => exact h
  | cons x l ih => exact ih (hf s x h)

/-- A fold that carries more than a state. -/
theorem ev_foldl_fst {α β : Type} {s0 : State} {p : State × β} {f : State × β → α → State × β} {l : List α}
    (h : Evolves s0 p.1) (hf : ∀ q x, Evolves s0 q.1 → Evolves s0 (f q x).1) : Evolves s0 (l.foldl f p).1 := by
  induction l generalizing p with
  | nil => exact h
  | cons x l ih => exact ih (hf p x h)

theorem ev_of_eq {β : Type} {s0 t : State} {p : State × β} {x : β} (e : p = (t, x)) (h : Evolves s0 p.1) : Evolves s0 t := by
  subst e
  exact h

theorem leaves_next {P : State → Prop} {t : State} (h : P t) : Leaves P (.next t) := h

theorem leaves_out {P : State → Prop} {r : WRes} (h : P r.1) : Leaves P r.out := h

theorem leaves_ite {P : State → Prop} {c : Prop} [Decidable c] {a b : Host.Outcome State Fault Refusal} (ha : Leaves P a)
    (hb : Leaves P b) : Leaves P (if c then a else b) := by
  split <;> assumption

/-- Property `P` of an optional result, where there is one. -/
def OptAll {α : Type} (P : α → Prop) (o : Option α) : Prop := ∀ a, o = some a → P a

theorem optAll_none {α : Type} {P : α → Prop} : OptAll P none := fun _ e => nomatch e

theorem optAll_some {α : Type} {P : α → Prop} {a : α} (h : P a) : OptAll P (some a) := fun _ e => Option.some.inj e ▸ h

theorem optAll_ite {α : Type} {P : α → Prop} {a b : Option α} {c : Prop} [Decidable c] (ha : OptAll P a) (hb : OptAll P b) :
    OptAll P (if c then a else b) := by
  split <;> assumption

theorem optAll_state {s0 t : State} {o : Option State} (e : o = some t) (h : OptAll (Evolves s0) o) : Evolves s0 t := h t e

theorem optAll_fst {β : Type} {s0 : State} {r : State × β} {o : Option (State × β)} (e : o = some r)
    (h : OptAll (fun x => Evolves s0 x.1) o) : Evolves s0 r.1 := h r e

/-- A fold whose steps may each refuse. -/
theorem optAll_foldl {α : Type} {s0 : State} {f : State → α → Option State} {l : List α} {o : Option State}
    (h : OptAll (Evolves s0) o) (hf : ∀ t x, Evolves s0 t → OptAll (Evolves s0) (f t x)) :
    OptAll (Evolves s0) (l.foldl (fun o x => o.bind fun s => f s x) o) := by
  induction l generalizing o with
  | nil => exact h
  | cons x l ih =>
    refine ih ?_
    intro a e
    obtain ⟨t, e1, e2⟩ := Option.bind_eq_some_iff.1 e
    exact hf t x (h t e1) a e2

/-! ## The register file -/

theorem State.setReg_ev {s0 s : State} (a : Nat) (w : Word) (h : Evolves s0 s) : Evolves s0 (s.setReg a w) :=
  h.trans ⟨rfl, List.prefix_rfl, Nat.le_refl _, Fuses.Grown.refl _, swf_sput resetWord _ a w, id, id⟩

theorem State.setForce_ev {s0 s : State} (a : Nat) (w : Word) (h : Evolves s0 s) : Evolves s0 (s.setForce a w) :=
  h.trans ⟨rfl, List.prefix_rfl, Nat.le_refl _, Fuses.Grown.refl _, id, srising_sput _ _ a w, id⟩

theorem State.setBits_ev {s0 s : State} (a : Nat) (m v : Word) (h : Evolves s0 s) : Evolves s0 (s.setBits a m v) :=
  State.setForce_ev _ _ (State.setReg_ev _ _ h)

theorem setWords_ev {s0 s : State} (f : Fld) (v n i a : Nat) (h : Evolves s0 s) : Evolves s0 (setWords f v n i a s) := by
  induction n generalizing s i a with
  | zero => exact h
  | succ n ih => exact ih _ _ (State.setBits_ev _ _ _ h)

theorem State.set_ev {s0 s : State} (b : Nat) (f : Fld) (v : Nat) (h : Evolves s0 s) : Evolves s0 (s.set b f v) :=
  setWords_ev _ _ _ _ _ h

theorem State.bump_ev {s0 s : State} (b : Nat) (f : Fld) (h : Evolves s0 s) : Evolves s0 (s.bump b f) :=
  State.set_ev _ _ _ h

theorem srising_latchList (rd : Nat → Word) (mask : Nat → Word) (lo : Nat) (m : List (Nat × Word))
    (h : srising lo m = true) : srising lo (latchList rd mask m) = true := by
  induction m generalizing lo with
  | nil => rfl
  | cons x m ih =>
    obtain ⟨a, w⟩ := x
    simp only [srising, Bool.and_eq_true, decide_eq_true_eq] at h
    simp only [latchList]
    split
    · exact srising_mono (a + 1) lo _ (by omega) (ih _ h.2)
    · simp only [srising, Bool.and_eq_true, decide_eq_true_eq]
      exact ⟨h.1, ih _ h.2⟩

theorem State.latchMask_ev {s0 s : State} (mask : Nat → Word) (h : Evolves s0 s) : Evolves s0 (s.latchMask mask) :=
  h.trans ⟨rfl, List.prefix_rfl, Nat.le_refl _, Fuses.Grown.refl _, id, srising_latchList _ _ _ _, id⟩

theorem revertList_ev {s0 s : State} (mask : Nat → Word) (l : List (Nat × Word)) (h : Evolves s0 s) :
    Evolves s0 (revertList mask l s) := by
  induction l generalizing s with
  | nil => exact h
  | cons x l ih => exact ih (State.setForce_ev _ _ (State.setReg_ev _ _ h))

theorem State.revertMask_ev {s0 s : State} (mask : Nat → Word) (h : Evolves s0 s) : Evolves s0 (s.revertMask mask) :=
  revertList_ev _ _ h

theorem State.latchB_ev {s0 s : State} (p : Boundary → Nat → Bool) (h : Evolves s0 s) : Evolves s0 (s.latchB p) :=
  State.latchMask_ev _ h

theorem State.flushGcl_ev {s0 s : State} (h : Evolves s0 s) : Evolves s0 s.flushGcl :=
  ev_foldl h fun _ _ ht => State.setBits_ev _ _ _ ht

theorem State.flushUnit_ev {s0 s : State} (u : Nat) (h : Evolves s0 s) : Evolves s0 (s.flushUnit u) :=
  State.latchMask_ev _ (ev_ite (State.flushGcl_ev h) h)

/-! ## Events, outputs and unit states -/

theorem State.tickFree_ev {s0 s : State} (h : Evolves s0 s) : Evolves s0 s.tickFree :=
  h.trans ⟨rfl, List.prefix_rfl, Nat.le_succ _, Fuses.Grown.refl _, id, id, id⟩

theorem State.emit_ev {s0 s : State} (o : Out) (h : Evolves s0 s) : Evolves s0 (s.emit o) :=
  h.trans ⟨rfl, List.prefix_append _ _, Nat.le_refl _, Fuses.Grown.refl _, id, id, id⟩

theorem State.mgtEnter_ev {s0 s : State} (h : Evolves s0 s) : Evolves s0 s.mgtEnter.1 := by
  unfold State.mgtEnter
  split
  · simp only
    split <;> exact State.set_ev _ _ _ h
  · exact h

theorem State.stage_ev {s0 s : State} (e : Staged) (h : Evolves s0 s) : Evolves s0 (s.stage e) := by
  unfold State.stage
  split
  · exact h
  · split
    · rename_i hl
      refine State.set_ev _ _ _ (h.trans ⟨rfl, List.prefix_rfl, Nat.le_refl _, Fuses.Grown.refl _, id, id, fun _ => ?_⟩)
      simp only [List.length_append, List.length_singleton]
      omega
    · simp only
      split
      · exact Evolves.of_fields (State.set_ev _ _ _ (State.set_ev _ _ _ h)) rfl rfl rfl rfl rfl rfl rfl
      · exact State.set_ev _ _ _ h

theorem State.raise_ev {s0 s : State} (u n d : Nat) (h : Evolves s0 s) : Evolves s0 (s.raise u n d) := by
  unfold State.raise
  simp only
  have h1 : Evolves s0 (((s.set (Hdr.adr u) Hdr.momEvent n).set (Hdr.adr u) Hdr.momStamp (stampOf s.nowNs).toNat).set
      (Hdr.adr u) Hdr.momDetail d) := State.set_ev _ _ _ (State.set_ev _ _ _ (State.set_ev _ _ _ h))
  split
  · exact State.tickFree_ev (State.stage_ev _ h1)
  · exact State.tickFree_ev (State.stage_ev _ (State.mgtEnter_ev h1))

theorem State.note_ev {s0 s : State} (u n d : Nat) (h : Evolves s0 s) : Evolves s0 (s.note u n d) :=
  Evolves.of_fields h rfl rfl rfl rfl rfl rfl rfl

theorem State.announce_ev {s0 s : State} (h : Evolves s0 s) : Evolves s0 s.announce :=
  ev_foldl (Evolves.of_fields h rfl rfl rfl rfl rfl rfl rfl) fun _ _ g => State.raise_ev _ _ _ g

theorem State.raiseHeld_ev {s0 s : State} (k us u n d : Nat) (h : Evolves s0 s) : Evolves s0 (s.raiseHeld k us u n d) := by
  unfold State.raiseHeld
  split
  · split
    · exact h
    · exact State.raise_ev _ _ _ (Evolves.of_fields h rfl rfl rfl rfl rfl rfl rfl)
  · exact State.raise_ev _ _ _ (Evolves.of_fields h rfl rfl rfl rfl rfl rfl rfl)

theorem State.valueRefused_ev {s0 s : State} (u off : Nat) (h : Evolves s0 s) : Evolves s0 (s.valueRefused u off) :=
  State.raise_ev _ _ _ h

theorem State.staticRefused_ev {s0 s : State} (u off : Nat) (h : Evolves s0 s) : Evolves s0 (s.staticRefused u off) :=
  State.raise_ev _ _ _ h

theorem State.notLead_ev {s0 s : State} (u off : Nat) (h : Evolves s0 s) : Evolves s0 (s.notLead u off) :=
  State.raise_ev _ _ _ h

theorem State.setUnit_ev {s0 s : State} (u st c : Nat) (h : Evolves s0 s) : Evolves s0 (s.setUnit u st c) := by
  unfold State.setUnit
  simp only
  have h2 (m : Nat) : Evolves s0 ((((s.set (Hdr.adr u) Hdr.state st).set (Hdr.adr u) Hdr.cause c).set (Hdr.adr u) Hdr.ready
      (b2n (st == stREADY))).set CfgReadyMap.adr CfgReadyMap.ready m) :=
    State.set_ev _ _ _ (State.set_ev _ _ _ (State.set_ev _ _ _ (State.set_ev _ _ _ h)))
  split
  · split
    · exact State.flushUnit_ev _ (h2 _)
    · exact h2 _
  · split
    · exact State.raise_ev _ _ _ (State.flushUnit_ev _ (h2 _))
    · exact State.raise_ev _ _ _ (h2 _)

theorem State.goReady_ev {s0 s : State} (u : Nat) (h : Evolves s0 s) : Evolves s0 (s.goReady u) := by
  unfold State.goReady
  repeat' split
  all_goals exact State.setUnit_ev _ _ _ h

theorem State.startClocks_ev {s0 s : State} (cs : List Nat) (h : Evolves s0 s) : Evolves s0 (s.startClocks cs) :=
  Evolves.of_fields h rfl rfl rfl rfl rfl rfl rfl

theorem State.prestartEnds_ev {s0 s : State} (k : Nat) (p : Nat → Bool) (h : Evolves s0 s) : Evolves s0 (s.prestartEnds k p) :=
  Evolves.of_fields h rfl rfl rfl rfl rfl rfl rfl

/-! ## The access path -/

theorem State.gate_ev {s0 s : State} (o : Sys2Proof.Origin) (u off : Nat) (l w : Bool) (act : State → WRes)
    (h : Evolves s0 s) (ha : ∀ t, Evolves s0 t → Evolves s0 (act t).1) : Evolves s0 (s.gate o u off l w act).1 := by
  unfold State.gate
  simp only
  split
  · exact h
  · split
    · exact h
    · split
      · exact State.valueRefused_ev _ _ (State.startClocks_ev _ h)
      · repeat' split
        all_goals first
          | exact State.notLead_ev u off (State.startClocks_ev _ h)
          | exact ha _ (State.startClocks_ev _ h)

theorem State.refuse_ev {s0 s : State} (u off : Nat) (h : Evolves s0 s) : Evolves s0 (s.refuse u off).1 :=
  State.valueRefused_ev _ _ h

theorem State.done_ev {s0 s : State} (h : Evolves s0 s) : Evolves s0 s.done.1 := h

end Sys2Proof.Machine
end

