-- ==== Sys2Proof/Laws/EvolveFlags.lean ====
section
/-!
SUPPORT. What the definitions of Machine/Flags.lean keep.
-/

namespace Sys2Proof.Machine

set_option linter.all false

theorem State.modPf_ev {s₀ : State} {s : State} (f : Nat) (g : PfSt → PfSt) (hev : Evolves s₀ s) :
    Evolves s₀ (State.modPf s f g) := by
  unfold State.modPf
  try dsimp only
  repeat' with_reducible first
    | assumption | refine ev_ite ?_ ?_ | simp only [ev_mk] | split

theorem State.askPage_ev {s₀ : State} {s : State} (f : Nat) (pasid : Option Nat) (addr n : Nat) (hev : Evolves s₀ s) :
    Evolves s₀ (State.askPage s f pasid addr n) := by
  unfold State.askPage
  try dsimp only
  repeat' with_reducible first
    | assumption | apply State.emit_ev | simp only [ev_mk] | split | intro _ | refine ev_of_eq (by assumption) ?_

theorem State.putXlate_ev {s₀ : State} {s : State} (f : Nat) (r : XReq) (hev : Evolves s₀ s) :
    Evolves s₀ (State.putXlate s f r) := by
  unfold State.putXlate
  try dsimp only
  repeat' with_reducible first
    | assumption | refine ev_ite ?_ ?_ | simp only [ev_mk] | split

theorem State.emitParts_ev {s₀ : State} {s : State} (ro : Bool) (f : Nat) (pasid : Option Nat) (n0 : List (Nat × Nat)) (n1 : List Byte) (hev : Evolves s₀ s) :
    Evolves s₀ (State.emitParts s ro f pasid n0 n1) := by
  induction n0 generalizing s n1 with
  | nil =>
    unfold State.emitParts
    repeat' with_reducible first
      | assumption | apply State.emit_ev
  | cons x l ih =>
    unfold State.emitParts
    repeat' with_reducible first
      | assumption | apply ih | apply State.emit_ev

theorem State.putWrite_ev {s₀ : State} {s : State} (ro : Bool) (by_ : Option Reader) (f : Nat) (pasid : Option Nat) (addr : Nat) (data : List Byte) (hev : Evolves s₀ s) :
    Evolves s₀ (State.putWrite s ro by_ f pasid addr data) := by
  unfold State.putWrite
  try dsimp only
  repeat' with_reducible first
    | assumption | apply State.emitParts_ev | apply State.putXlate_ev 
    | apply State.emitParts_ev | apply State.askPage_ev | refine ev_ite ?_ ?_
    | refine ev_ite_fst ?_ ?_ | simp only [ev_mk] | split | intro _ | refine ev_of_eq (by assumption) ?_
    | refine optAll_state (by assumption) ?_ | refine optAll_fst (by assumption) ?_

theorem State.dmaWriteBy_ev {s₀ : State} {s : State} (by_ : Option Reader) (f : Nat) (pasid : Option Nat) (addr : Nat) (data : List Byte) (hev : Evolves s₀ s) :
    Evolves s₀ (State.dmaWriteBy s by_ f pasid addr data) := by
  unfold State.dmaWriteBy
  try dsimp only
  repeat' with_reducible first
    | assumption | apply State.startClocks_ev | apply State.putWrite_ev | refine ev_ite ?_ ?_
    | refine ev_ite_fst ?_ ?_ | simp only [ev_mk] | split | intro _ | refine ev_of_eq (by assumption) ?_
    | refine optAll_state (by assumption) ?_ | refine optAll_fst (by assumption) ?_

theorem State.dmaWrite_ev {s₀ : State} {s : State} (f : Nat) (pasid : Option Nat) (addr : Nat) (data : List Byte) (hev : Evolves s₀ s) :
    Evolves s₀ (State.dmaWrite s f pasid addr data) := by
  unfold State.dmaWrite
  try dsimp only
  repeat' with_reducible first
    | assumption | apply State.dmaWriteBy_ev

theorem State.dmaData_ev {s₀ : State} {s : State} (by_ : Option Reader) (f : Nat) (pasid : Option Nat) (addr : Nat) (data : List Byte) (hev : Evolves s₀ s) :
    Evolves s₀ (State.dmaData s by_ f pasid addr data) := by
  unfold State.dmaData
  try dsimp only
  repeat' with_reducible first
    | assumption | apply State.startClocks_ev | apply State.putWrite_ev | refine ev_ite ?_ ?_
    | refine ev_ite_fst ?_ ?_ | simp only [ev_mk] | split | intro _ | refine ev_of_eq (by assumption) ?_
    | refine optAll_state (by assumption) ?_ | refine optAll_fst (by assumption) ?_

theorem State.sliceWrite_ev {s₀ : State} {s : State} (k addr : Nat) (data : List Byte) (hev : Evolves s₀ s) :
    Evolves s₀ (State.sliceWrite s k addr data) := by
  unfold State.sliceWrite
  try dsimp only
  repeat' with_reducible first
    | assumption | apply State.dmaWrite_ev | refine ev_ite ?_ ?_ | split

theorem State.sliceData_ev {s₀ : State} {s : State} (k addr : Nat) (data : List Byte) (hev : Evolves s₀ s) :
    Evolves s₀ (State.sliceData s k addr data) := by
  unfold State.sliceData
  try dsimp only
  repeat' with_reducible first
    | assumption | apply State.dmaData_ev | refine ev_ite ?_ ?_ | refine ev_ite_fst ?_ ?_ | simp only [ev_mk] | split
    | intro _ | refine ev_of_eq (by assumption) ?_ | refine optAll_state (by assumption) ?_
    | refine optAll_fst (by assumption) ?_

theorem State.emitRead_ev {s₀ : State} {s : State} (f : Nat) (pasid : Option Nat) (l : List (Nat × Nat)) (hev : Evolves s₀ s) :
    Evolves s₀ (State.emitRead s f pasid l) := by
  unfold State.emitRead
  try dsimp only
  repeat' with_reducible first
    | assumption | apply State.emit_ev | refine ev_foldl ?_ (fun _ _ _ => ?_) | intro _

theorem State.addRead_ev {s₀ : State} {s : State} (f : Nat) (r : Reader) (k : Nat) (pages : List (Option Nat × Nat)) (hev : Evolves s₀ s) :
    Evolves s₀ (State.addRead s f r k pages) := by
  unfold State.addRead
  try dsimp only
  repeat' with_reducible first
    | assumption | refine ev_ite ?_ ?_ | refine ev_ite_fst ?_ ?_ | simp only [ev_mk] | split | intro _
    | refine ev_of_eq (by assumption) ?_ | refine optAll_state (by assumption) ?_
    | refine optAll_fst (by assumption) ?_

theorem State.putRead_ev {s₀ : State} {s : State} (f : Nat) (pasid : Option Nat) (addr len : Nat) (r : Reader) (hev : Evolves s₀ s) :
    Evolves s₀ (State.putRead s f pasid addr len r) := by
  unfold State.putRead
  try dsimp only
  repeat' with_reducible first
    | assumption | apply State.postedWaits_ev | apply State.putXlate_ev | apply State.parts_ev | apply cutParts_ev
    | apply State.pf_ev | apply State.tagsFree_ev | apply State.addRead_ev | apply State.pagesUsed_ev
    | apply State.emitRead_ev | apply State.askPage_ev | refine ev_ite ?_ ?_ | refine ev_ite_fst ?_ ?_
    | simp only [ev_mk] | split | intro _ | refine ev_of_eq (by assumption) ?_
    | refine optAll_state (by assumption) ?_ | refine optAll_fst (by assumption) ?_

theorem State.dmaRead_ev {s₀ : State} {s : State} (f : Nat) (pasid : Option Nat) (addr len : Nat) (r : Reader) (hev : Evolves s₀ s) :
    Evolves s₀ (State.dmaRead s f pasid addr len r) := by
  unfold State.dmaRead
  try dsimp only
  repeat' with_reducible first
    | assumption | apply State.startClocks_ev | apply State.putRead_ev | refine ev_ite ?_ ?_
    | refine ev_ite_fst ?_ ?_ | simp only [ev_mk] | split | intro _ | refine ev_of_eq (by assumption) ?_
    | refine optAll_state (by assumption) ?_ | refine optAll_fst (by assumption) ?_

theorem State.msixSend_ev {s₀ : State} {s : State} (f v : Nat) (hev : Evolves s₀ s) :
    Evolves s₀ (State.msixSend s f v) := by
  unfold State.msixSend
  try dsimp only
  repeat' with_reducible first
    | assumption | apply State.putXlate_ev | apply State.msix_ev | apply State.emit_ev | refine ev_ite ?_ ?_
    | refine ev_ite_fst ?_ ?_ | simp only [ev_mk] | split | intro _ | refine ev_of_eq (by assumption) ?_
    | refine optAll_state (by assumption) ?_ | refine optAll_fst (by assumption) ?_

theorem State.msix_ev {s₀ : State} {s : State} (f v : Nat) (hev : Evolves s₀ s) :
    Evolves s₀ (State.msix s f v) := by
  unfold State.msix
  try dsimp only
  repeat' with_reducible first
    | assumption | apply State.modPf_ev | apply State.msixSend_ev
    | refine ev_ite ?_ ?_ | refine ev_ite_fst ?_ ?_ | simp only [ev_mk] | split | intro _
    | refine ev_of_eq (by assumption) ?_ | refine optAll_state (by assumption) ?_
    | refine optAll_fst (by assumption) ?_

theorem State.msixFlush_ev {s₀ : State} {s : State} (f : Nat) (hev : Evolves s₀ s) :
    Evolves s₀ (State.msixFlush s f) := by
  unfold State.msixFlush
  try dsimp only
  repeat' with_reducible first
    | assumption | apply State.msixSend_ev | apply State.modPf_ev
    | refine ev_ite ?_ ?_ | refine ev_ite_fst ?_ ?_ | refine ev_foldl ?_ (fun _ _ _ => ?_)
    | refine ev_foldl_fst ?_ (fun _ _ _ => ?_) | simp only [ev_mk] | split | intro _
    | refine ev_of_eq (by assumption) ?_ | refine optAll_state (by assumption) ?_
    | refine optAll_fst (by assumption) ?_

theorem State.present_ev {s₀ : State} {s : State} (x : Nat × XReq) (hev : Evolves s₀ s) :
    Evolves s₀ (State.present s x) := by
  unfold State.present
  try dsimp only
  repeat' with_reducible first
    | assumption | apply State.msix_ev | apply State.putWrite_ev | apply State.putRead_ev | refine ev_ite ?_ ?_
    | refine ev_ite_fst ?_ ?_ | simp only [ev_mk] | split | intro _ | refine ev_of_eq (by assumption) ?_
    | refine optAll_state (by assumption) ?_ | refine optAll_fst (by assumption) ?_

theorem State.sweep_ev {s₀ : State} {s : State} (hev : Evolves s₀ s) :
    Evolves s₀ (State.sweep s) := by
  unfold State.sweep
  try dsimp only
  repeat' with_reducible first
    | assumption | apply State.present_ev | refine ev_ite ?_ ?_ | refine ev_ite_fst ?_ ?_
    | refine ev_foldl ?_ (fun _ _ _ => ?_) | refine ev_foldl_fst ?_ (fun _ _ _ => ?_) | simp only [ev_mk] | split
    | intro _ | refine ev_of_eq (by assumption) ?_ | refine optAll_state (by assumption) ?_
    | refine optAll_fst (by assumption) ?_

theorem State.readEnds_ev {s₀ : State} {s : State} (f : Nat) (r : Reader) (hev : Evolves s₀ s) :
    Evolves s₀ (State.readEnds s f r) := by
  unfold State.readEnds
  try dsimp only
  repeat' with_reducible first
    | assumption | apply State.set_ev | apply State.sweep_ev
    | refine ev_ite ?_ ?_ | refine ev_ite_fst ?_ ?_ | simp only [ev_mk] | split | intro _
    | refine ev_of_eq (by assumption) ?_ | refine optAll_state (by assumption) ?_
    | refine optAll_fst (by assumption) ?_

theorem State.readsEnd_ev {s₀ : State} {s : State} (f : Nat) (r : Reader) (hev : Evolves s₀ s) :
    Evolves s₀ (State.readsEnd s f r) := by
  unfold State.readsEnd
  try dsimp only
  repeat' with_reducible first
    | assumption | apply State.sweep_ev | refine ev_ite ?_ ?_ | refine ev_ite_fst ?_ ?_ | simp only [ev_mk] | split
    | intro _ | refine ev_of_eq (by assumption) ?_ | refine optAll_state (by assumption) ?_
    | refine optAll_fst (by assumption) ?_

theorem State.aerLog_ev {s₀ : State} {s : State} (f : Nat) (e : AerError) (hev : Evolves s₀ s) :
    Evolves s₀ (State.aerLog s f e) := by
  unfold State.aerLog
  try dsimp only
  repeat' with_reducible first
    | assumption | apply State.modPf_ev | apply State.tickFree_ev | refine ev_ite ?_ ?_ | refine ev_ite_fst ?_ ?_
    | simp only [ev_mk] | split | intro _ | refine ev_of_eq (by assumption) ?_
    | refine optAll_state (by assumption) ?_ | refine optAll_fst (by assumption) ?_

theorem State.stray_ev {s₀ : State} {s : State} (f : Nat) (hev : Evolves s₀ s) :
    Evolves s₀ (State.stray s f) := by
  unfold State.stray
  try dsimp only
  repeat' with_reducible first
    | assumption | apply State.readEnds_ev | apply State.aerLog_ev | refine ev_ite ?_ ?_ | refine ev_ite_fst ?_ ?_
    | simp only [ev_mk] | split | intro _ | refine ev_of_eq (by assumption) ?_
    | refine optAll_state (by assumption) ?_ | refine optAll_fst (by assumption) ?_

end Sys2Proof.Machine
end

