-- ==== Sys2Proof/Laws/EvolveQueueOps.lean ====
section
/-!
SUPPORT. What the definitions of Machine/QueueOps.lean keep.
-/

namespace Sys2Proof.Machine

set_option linter.all false

theorem State.modQ_ev {s₀ : State} {s : State} (k q : Nat) (f : QSt → QSt) (hev : Evolves s₀ s) :
    Evolves s₀ (State.modQ s k q f) := by
  unfold State.modQ
  try dsimp only
  repeat' with_reducible first
    | assumption | simp only [ev_mk]

theorem State.qWrite_ev {s₀ : State} {s : State} (k q addr : Nat) (data : List Byte) (hev : Evolves s₀ s) :
    Evolves s₀ (State.qWrite s k q addr data) := by
  unfold State.qWrite
  try dsimp only
  repeat' with_reducible first
    | assumption | apply State.dmaWriteBy_ev | simp only [ev_mk] | split | refine ev_of_eq (by assumption) ?_

theorem State.qData_ev {s₀ : State} {s : State} (k q addr : Nat) (data : List Byte) (hev : Evolves s₀ s) :
    Evolves s₀ (State.qData s k q addr data) := by
  unfold State.qData
  try dsimp only
  repeat' with_reducible first
    | assumption | apply State.dmaData_ev | refine ev_ite ?_ ?_ | refine ev_ite_fst ?_ ?_ | simp only [ev_mk] | split
    | intro _ | refine ev_of_eq (by assumption) ?_ | refine optAll_state (by assumption) ?_
    | refine optAll_fst (by assumption) ?_

theorem State.qMsix_ev {s₀ : State} {s : State} (k q v : Nat) (hev : Evolves s₀ s) :
    Evolves s₀ (State.qMsix s k q v) := by
  unfold State.qMsix
  try dsimp only
  repeat' with_reducible first
    | assumption | apply State.msix_ev | simp only [ev_mk] | split | refine ev_of_eq (by assumption) ?_

theorem State.headRecord_ev {s₀ : State} {s : State} (k q : Nat) (hev : Evolves s₀ s) :
    Evolves s₀ (State.headRecord s k q) := by
  unfold State.headRecord
  try dsimp only
  repeat' with_reducible first
    | assumption | apply State.qWrite_ev | apply State.modQ_ev | apply State.qMsix_ev | apply State.tickFree_ev
    | refine ev_ite ?_ ?_ | simp only [ev_mk] | split | intro _

theorem State.dropWork_ev {s₀ : State} {s : State} (k q : Nat) (hev : Evolves s₀ s) :
    Evolves s₀ (State.dropWork s k q) := by
  unfold State.dropWork
  try dsimp only
  repeat' with_reducible first
    | assumption | refine ev_ite ?_ ?_ | simp only [ev_mk] | split

theorem State.qStop_ev {s₀ : State} {s : State} (k q st reason idx : Nat) (hev : Evolves s₀ s) :
    Evolves s₀ (State.qStop s k q st reason idx) := by
  unfold State.qStop
  try dsimp only
  repeat' with_reducible first
    | assumption | apply State.set_ev | apply State.modQ_ev | apply State.dropWork_ev | apply State.headRecord_ev
    | apply State.raise_ev | refine ev_ite ?_ ?_ | simp only [ev_mk] | split | intro _

theorem State.qError_ev {s₀ : State} {s : State} (k q reason idx : Nat) (hev : Evolves s₀ s) :
    Evolves s₀ (State.qError s k q reason idx) := by
  unfold State.qError
  try dsimp only
  repeat' with_reducible first
    | assumption | apply State.qStop_ev | refine ev_ite ?_ ?_ | split

theorem State.qHalt_ev {s₀ : State} {s : State} (k q reason : Nat) (hev : Evolves s₀ s) :
    Evolves s₀ (State.qHalt s k q reason) := by
  unfold State.qHalt
  try dsimp only
  repeat' with_reducible first
    | assumption | apply State.qStop_ev | refine ev_ite ?_ ?_ | split

theorem State.qResetHalt_ev {s₀ : State} {s : State} (k q : Nat) (hev : Evolves s₀ s) :
    Evolves s₀ (State.qResetHalt s k q) := by
  unfold State.qResetHalt
  try dsimp only
  repeat' with_reducible first
    | assumption | apply State.qState_ev | apply qsRUNNING_ev | apply qsERROR_ev | apply State.qStop_ev
    | apply qsHALTED_ev | apply qrUNIT_RESET_ev | apply State.qHead_ev | refine ev_ite ?_ ?_ | refine ev_ite_fst ?_ ?_
    | simp only [ev_mk] | split | intro _ | refine ev_of_eq (by assumption) ?_
    | refine optAll_state (by assumption) ?_ | refine optAll_fst (by assumption) ?_

theorem State.qPresent_ev {s₀ : State} {s : State} (k q : Nat) (go : State → State) (hev : Evolves s₀ s) (ev_go : ∀ x0, Evolves s₀ x0 → Evolves s₀ (go x0)) :
    Evolves s₀ (State.qPresent s k q go) := by
  unfold State.qPresent
  try dsimp only
  repeat' with_reducible first
    | assumption | apply State.qHalt_ev | apply ev_go | refine ev_ite ?_ ?_ | simp only [ev_mk] | split
    | refine ev_of_eq (by assumption) ?_

theorem State.qAsk_ev {s₀ : State} {s : State} (k q : Nat) (hev : Evolves s₀ s) :
    Evolves s₀ (State.qAsk s k q) := by
  unfold State.qAsk
  try dsimp only
  repeat' with_reducible first
    | assumption | apply State.dmaRead_ev | apply State.modQ_ev | refine ev_ite ?_ ?_ | simp only [ev_mk] | split
    | intro _ | refine ev_of_eq (by assumption) ?_

theorem State.qFetchRing_ev {s₀ : State} {s : State} (k q : Nat) (hev : Evolves s₀ s) :
    Evolves s₀ (State.qFetchRing s k q) := by
  unfold State.qFetchRing
  try dsimp only
  repeat' with_reducible first
    | assumption 
    | apply State.qPresent_ev | apply State.qAsk_ev
    | refine ev_ite ?_ ?_ | refine ev_ite_fst ?_ ?_ | simp only [ev_mk] | split | intro _
    | refine ev_of_eq (by assumption) ?_ | refine optAll_state (by assumption) ?_
    | refine optAll_fst (by assumption) ?_

theorem State.scAsk_ev {s₀ : State} {s : State} (k : Nat) (hev : Evolves s₀ s) :
    Evolves s₀ (State.scAsk s k) := by
  unfold State.scAsk
  try dsimp only
  repeat' with_reducible first
    | assumption 
    | apply State.qPresent_ev | apply State.dmaRead_ev | refine ev_ite ?_ ?_
    | refine ev_ite_fst ?_ ?_ | simp only [ev_mk] | split | intro _ | refine ev_of_eq (by assumption) ?_
    | refine optAll_state (by assumption) ?_ | refine optAll_fst (by assumption) ?_

theorem State.qFetch_ev {s₀ : State} {s : State} (k q : Nat) (hev : Evolves s₀ s) :
    Evolves s₀ (State.qFetch s k q) := by
  unfold State.qFetch
  try dsimp only
  repeat' with_reducible first
    | assumption | apply State.qFetchRing_ev | apply State.scAsk_ev | refine ev_ite ?_ ?_
    | refine ev_ite_fst ?_ ?_ | simp only [ev_mk] | split | intro _ | refine ev_of_eq (by assumption) ?_
    | refine optAll_state (by assumption) ?_ | refine optAll_fst (by assumption) ?_

theorem State.qDue_ev {s₀ : State} {s : State} (k q : Nat) (force : Bool) (hev : Evolves s₀ s) :
    Evolves s₀ (State.qDue s k q force) := by
  unfold State.qDue
  try dsimp only
  repeat' with_reducible first
    | assumption | apply qAdr_ev | apply State.qst_ev | apply State.qPresent_ev | apply State.headRecord_ev
    | refine ev_ite ?_ ?_ | refine ev_ite_fst ?_ ?_ | simp only [ev_mk] | split | intro _
    | refine ev_of_eq (by assumption) ?_ | refine optAll_state (by assumption) ?_
    | refine optAll_fst (by assumption) ?_

theorem State.qDone_ev {s₀ : State} {s : State} (k q n : Nat) (report : Bool) (hev : Evolves s₀ s) :
    Evolves s₀ (State.qDone s k q n report) := by
  unfold State.qDone
  try dsimp only
  repeat' with_reducible first
    | assumption | apply State.set_ev | apply State.modQ_ev | apply State.qDue_ev | apply State.qFetch_ev
    | simp only [ev_mk] | intro _

theorem State.ovfAck_ev {s₀ : State} {s : State} (q : Nat) (hev : Evolves s₀ s) :
    Evolves s₀ (State.ovfAck s q) := by
  unfold State.ovfAck
  try dsimp only
  repeat' with_reducible first
    | assumption | apply State.set_ev | apply State.modQ_ev | simp only [ev_mk] | intro _

theorem State.doorbell_ev {s₀ : State} {s : State} (k q t : Nat) (ack : Bool) (hev : Evolves s₀ s) :
    Evolves s₀ (State.doorbell s k q t ack) := by
  unfold State.doorbell
  try dsimp only
  repeat' with_reducible first
    | assumption | apply State.startClocks_ev | apply State.ovfAck_ev | apply State.set_ev | apply State.qFetch_ev
    | apply State.qError_ev | refine ev_ite ?_ ?_ | split

theorem State.rxTm_ev {s₀ : State} {s : State} (q : Nat) (on : Bool) (hev : Evolves s₀ s) :
    Evolves s₀ (State.rxTm s q on) := by
  unfold State.rxTm
  try dsimp only
  repeat' with_reducible first
    | assumption | apply State.set_ev

theorem State.rxFlush_ev {s₀ : State} {s : State} (q : Nat) (hev : Evolves s₀ s) :
    Evolves s₀ (State.rxFlush s q) := by
  unfold State.rxFlush
  try dsimp only
  repeat' with_reducible first
    | assumption | apply State.set_ev | simp only [ev_mk]

theorem State.qEnable_ev {s₀ : State} {s : State} (k q : Nat) (hev : Evolves s₀ s) :
    Evolves s₀ (State.qEnable s k q) := by
  unfold State.qEnable
  try dsimp only
  repeat' with_reducible first
    | assumption | apply qAdr_ev | apply State.set_ev | apply qsRUNNING_ev | apply State.modQ_ev | apply qkRX_ev
    | apply State.rxTm_ev | apply State.qPresent_ev | apply State.headRecord_ev | refine ev_ite ?_ ?_
    | refine ev_ite_fst ?_ ?_ | simp only [ev_mk] | split | intro _ | refine ev_of_eq (by assumption) ?_
    | refine optAll_state (by assumption) ?_ | refine optAll_fst (by assumption) ?_

theorem State.qDrain_ev {s₀ : State} {s : State} (k q : Nat) (reset : Bool) (hev : Evolves s₀ s) :
    Evolves s₀ (State.qDrain s k q reset) := by
  unfold State.qDrain
  try dsimp only
  repeat' with_reducible first
    | assumption | apply State.modQ_ev | apply State.dropWork_ev | refine ev_ite ?_ ?_ | simp only [ev_mk] | split
    | intro _

theorem State.qDisabled_ev {s₀ : State} {s : State} (k q : Nat) (record : Bool) (hev : Evolves s₀ s) :
    Evolves s₀ (State.qDisabled s k q record) := by
  unfold State.qDisabled
  try dsimp only
  repeat' with_reducible first
    | assumption | apply State.set_ev | apply State.headRecord_ev | apply State.modQ_ev | apply State.rxTm_ev
    | apply State.rxFlush_ev | refine ev_ite ?_ ?_ | split | intro _

theorem State.qKill_ev {s₀ : State} {s : State} (k q : Nat) (hev : Evolves s₀ s) :
    Evolves s₀ (State.qKill s k q) := by
  unfold State.qKill
  try dsimp only
  repeat' with_reducible first
    | assumption | apply State.dropWork_ev | apply State.qDisabled_ev | refine ev_ite ?_ ?_ | split

theorem State.qCommand_ev {s₀ : State} {s : State} (o : Sys2Proof.Origin) (k q : Nat) (en dis rst : Bool) (hev : Evolves s₀ s) :
    Evolves s₀ (State.qCommand s o k q en dis rst).1 := by
  unfold State.qCommand
  try dsimp only
  repeat' with_reducible first
    | assumption | apply State.gate_ev | apply State.refuse_ev | apply State.qEnable_ev | apply State.done_ev
    | apply State.qDrain_ev | refine ev_ite ?_ ?_ | refine ev_ite_fst ?_ ?_ | simp only [ev_mk] | split | intro _
    | refine ev_of_eq (by assumption) ?_

end Sys2Proof.Machine
end

