-- ==== Sys2Proof/Laws/EvolveIntegrityOps.lean ====
section
/-!
SUPPORT. What the definitions of Machine/IntegrityOps.lean keep.
-/

namespace Sys2Proof.Machine

set_option linter.all false

theorem State.igeEvent_ev {s₀ : State} {s : State} (n detail : Nat) (hev : Evolves s₀ s) :
    Evolves s₀ (State.igeEvent s n detail) := by
  unfold State.igeEvent
  try dsimp only
  repeat' with_reducible first
    | assumption | apply State.raiseHeld_ev

theorem State.putKey_ev {s₀ : State} {s : State} (i st mode size : Nat) (key : List Byte) (hev : Evolves s₀ s) :
    Evolves s₀ (State.putKey s i st mode size key) := by
  unfold State.putKey
  try dsimp only
  repeat' with_reducible first
    | assumption | apply State.set_ev | simp only [ev_mk]

theorem State.spoilKey_ev {s₀ : State} {s : State} (i : Nat) (bad : Bool) (hev : Evolves s₀ s) :
    Evolves s₀ (State.spoilKey s i bad) := by
  unfold State.spoilKey
  try dsimp only
  repeat' with_reducible first
    | assumption | refine ev_ite ?_ ?_ | refine ev_ite_fst ?_ ?_ | simp only [ev_mk] | split | intro _
    | refine ev_of_eq (by assumption) ?_ | refine optAll_state (by assumption) ?_
    | refine optAll_fst (by assumption) ?_

theorem State.clearKey_ev {s₀ : State} {s : State} (i : Nat) (hev : Evolves s₀ s) :
    Evolves s₀ (State.clearKey s i) := by
  unfold State.clearKey
  try dsimp only
  repeat' with_reducible first
    | assumption | apply State.putKey_ev | simp only [ev_mk]

theorem State.keyLoad_ev {s₀ : State} {s : State} (bySlice : Bool) (i mode size : Nat) (key : List Byte) (bad : Bool) (hev : Evolves s₀ s) :
    Evolves s₀ (State.keyLoad s bySlice i mode size key bad).1 := by
  unfold State.keyLoad
  try dsimp only
  repeat' with_reducible first
    | assumption | apply State.keyInUse_ev | apply kyIN_USE_ev | apply State.keyState_ev | apply kyDERIVED_ev
    | apply State.putKey_ev | apply State.spoilKey_ev | apply kyOK_ev | refine ev_ite ?_ ?_ | refine ev_ite_fst ?_ ?_
    | simp only [ev_mk] | split | intro _ | refine ev_of_eq (by assumption) ?_
    | refine optAll_state (by assumption) ?_ | refine optAll_fst (by assumption) ?_

theorem State.keyClear_ev {s₀ : State} {s : State} (bySlice : Bool) (i : Nat) (hev : Evolves s₀ s) :
    Evolves s₀ (State.keyClear s bySlice i).1 := by
  unfold State.keyClear
  try dsimp only
  repeat' with_reducible first
    | assumption | apply State.clearKey_ev | refine ev_ite ?_ ?_ | refine ev_ite_fst ?_ ?_ | split

theorem State.keyDerive_ev {s₀ : State} {s : State} (i mode size : Nat) (context : List Byte) (bad : Bool) (hev : Evolves s₀ s) :
    Evolves s₀ (State.keyDerive s i mode size context bad).1 := by
  unfold State.keyDerive
  try dsimp only
  repeat' with_reducible first
    | assumption | apply kyKEY_LOCKED_ev | apply State.keyInUse_ev | apply kyIN_USE_ev | apply State.putKey_ev
    | apply deriveKey_ev | apply deriveLabel_ev | apply State.spoilKey_ev | apply kyOK_ev | refine ev_ite ?_ ?_
    | refine ev_ite_fst ?_ ?_ | simp only [ev_mk] | split | intro _ | refine ev_of_eq (by assumption) ?_
    | refine optAll_state (by assumption) ?_ | refine optAll_fst (by assumption) ?_

theorem State.keyLost_ev {s₀ : State} {s : State} (i : Nat) (hev : Evolves s₀ s) :
    Evolves s₀ (State.keyLost s i) := by
  unfold State.keyLost
  try dsimp only
  repeat' with_reducible first
    | assumption | apply State.clearKey_ev | apply State.igeEvent_ev

theorem State.keyMet_ev {s₀ : State} {s : State} (i : Nat) (hev : Evolves s₀ s) :
    Evolves s₀ (State.keyMet s i) := by
  unfold State.keyMet
  try dsimp only
  repeat' with_reducible first
    | assumption | apply State.keyLost_ev | refine ev_ite ?_ ?_ | refine ev_ite_fst ?_ ?_ | simp only [ev_mk] | split
    | intro _ | refine ev_of_eq (by assumption) ?_ | refine optAll_state (by assumption) ?_
    | refine optAll_fst (by assumption) ?_

theorem State.msecTx_ev {s₀ : State} {s : State} (p : Nat) (f : List Byte) (hev : Evolves s₀ s) :
    Evolves s₀ (State.msecTx s p f).1 := by
  unfold State.msecTx
  try dsimp only
  repeat' with_reducible first
    | assumption | apply State.msecOn_ev | apply isEapol_ev | apply State.latchMask_ev | apply State.pnLimit_ev
    | apply State.bump_ev | apply State.igeEvent_ev | apply State.secTag_ev | apply State.keyMet_ev
    | apply State.keyState_ev | apply State.keyOf_ev | apply State.msecIv_ev | apply State.portSci_ev
    | apply State.tickFree_ev | apply State.set_ev | refine ev_ite ?_ ?_ | refine ev_ite_fst ?_ ?_ | simp only [ev_mk]
    | split | intro _ | refine ev_of_eq (by assumption) ?_ | refine optAll_state (by assumption) ?_
    | refine optAll_fst (by assumption) ?_

theorem State.msecFail_ev {s₀ : State} {s : State} (p : Nat) (f : Fld) (strictOnly : Bool) (hev : Evolves s₀ s) :
    Evolves s₀ (State.msecFail s p f strictOnly).1 := by
  unfold State.msecFail
  try dsimp only
  repeat' with_reducible first
    | assumption | apply State.bump_ev | apply State.igeEvent_ev

theorem State.rxKeyMet_ev {s₀ : State} {s : State} (p : Nat) (f : List Byte) (hev : Evolves s₀ s) :
    Evolves s₀ (State.rxKeyMet s p f) := by
  unfold State.rxKeyMet
  try dsimp only
  repeat' with_reducible first
    | assumption | apply State.msecOn_ev | apply isEapol_ev | apply State.rxNamed_ev | apply State.keyMet_ev
    | refine ev_ite ?_ ?_ | refine ev_ite_fst ?_ ?_ | simp only [ev_mk] | split | intro _
    | refine ev_of_eq (by assumption) ?_ | refine optAll_state (by assumption) ?_
    | refine optAll_fst (by assumption) ?_

theorem State.msecRx_ev {s₀ : State} {s0 : State} (p : Nat) (f : List Byte) (hev : Evolves s₀ s0) :
    Evolves s₀ (State.msecRx s0 p f).1 := by
  unfold State.msecRx
  try dsimp only
  repeat' with_reducible first
    | assumption | apply State.rxKeyMet_ev | apply State.msecOn_ev | apply isEapol_ev | apply State.msecFail_ev
    | apply State.rxNamed_ev | apply recoverPn_ev | apply State.msecXpn_ev | apply icvAt_ev | apply State.msecIv_ev
    | apply State.keyState_ev | apply State.keyOf_ev | apply State.bump_ev | apply State.set_ev | refine ev_ite ?_ ?_
    | refine ev_ite_fst ?_ ?_ | simp only [ev_mk] | split | intro _ | refine ev_of_eq (by assumption) ?_
    | refine optAll_state (by assumption) ?_ | refine optAll_fst (by assumption) ?_

theorem State.saEnabled_ev {s₀ : State} {s : State} (sa : Nat) (hev : Evolves s₀ s) :
    Evolves s₀ (State.saEnabled s sa) := by
  unfold State.saEnabled
  try dsimp only
  repeat' with_reducible first
    | assumption | apply State.latchMask_ev | apply State.set_ev | refine ev_ite ?_ ?_ | split | intro _

theorem State.portLatch_ev {s₀ : State} {s : State} (p : Nat) (hev : Evolves s₀ s) :
    Evolves s₀ (State.portLatch s p) := by
  unfold State.portLatch
  try dsimp only
  repeat' with_reducible first
    | assumption | apply State.latchB_ev | refine ev_ite ?_ ?_ | split | intro _

theorem State.sendFrame_ev {s₀ : State} {s : State} (p : Nat) (f : List Byte) (hev : Evolves s₀ s) :
    Evolves s₀ (State.sendFrame s p f) := by
  unfold State.sendFrame
  try dsimp only
  repeat' with_reducible first
    | assumption | apply State.startClocks_ev | apply State.portLatch_ev | apply State.msecTx_ev
    | apply State.emit_ev | simp only [ev_mk] | split | refine ev_of_eq (by assumption) ?_

end Sys2Proof.Machine
end

