-- ==== Sys2Proof/Laws/EvolveCxeOps.lean ====
section
/-!
SUPPORT. What the definitions of Machine/CxeOps.lean keep.
-/

namespace Sys2Proof.Machine

set_option linter.all false

theorem State.latchChecked_ev {s₀ : State} {s : State} (u : Nat) (mask : Nat → Word) (bad : State → (Nat → Word) → List Nat) (hev : Evolves s₀ s) :
    Evolves s₀ (State.latchChecked s u mask bad) := by
  unfold State.latchChecked
  try dsimp only
  repeat' with_reducible first
    | assumption | apply State.latchMask_ev | apply State.revertMask_ev
    | apply State.valueRefused_ev | refine ev_ite ?_ ?_ | refine ev_ite_fst ?_ ?_ | simp only [ev_mk] | split
    | intro _ | refine ev_of_eq (by assumption) ?_ | refine optAll_state (by assumption) ?_
    | refine optAll_fst (by assumption) ?_

theorem State.useCells_ev {s₀ : State} {s : State} (i n : Nat) (hev : Evolves s₀ s) :
    Evolves s₀ (State.useCells s i n) := by
  unfold State.useCells
  try dsimp only
  repeat' with_reducible first
    | assumption | apply State.set_ev

theorem State.freeCells_ev {s₀ : State} {s : State} (i n : Nat) (hev : Evolves s₀ s) :
    Evolves s₀ (State.freeCells s i n) := by
  unfold State.freeCells
  try dsimp only
  repeat' with_reducible first
    | assumption | apply State.set_ev

theorem State.modRope_ev {s₀ : State} {s : State} (r : Nat) (f : RopeSt → RopeSt) (hev : Evolves s₀ s) :
    Evolves s₀ (State.modRope s r f) := by
  unfold State.modRope
  try dsimp only
  repeat' with_reducible first
    | assumption | simp only [ev_mk]

theorem State.modStn_ev {s₀ : State} {s : State} (n : Nat) (f : StnSt → StnSt) (hev : Evolves s₀ s) :
    Evolves s₀ (State.modStn s n f) := by
  unfold State.modStn
  try dsimp only
  repeat' with_reducible first
    | assumption | simp only [ev_mk]

theorem State.modRopeStns_ev {s₀ : State} {s : State} (r : Nat) (f : StnSt → StnSt) (hev : Evolves s₀ s) :
    Evolves s₀ (State.modRopeStns s r f) := by
  unfold State.modRopeStns
  try dsimp only
  repeat' with_reducible first
    | assumption | apply State.knownStations_ev | apply stnF_ev | apply State.rope_ev | apply State.stn_ev
    | refine ev_ite ?_ ?_ | refine ev_ite_fst ?_ ?_ | refine ev_foldl ?_ (fun _ _ _ => ?_)
    | refine ev_foldl_fst ?_ (fun _ _ _ => ?_) | simp only [ev_mk] | split | intro _
    | refine ev_of_eq (by assumption) ?_ | refine optAll_state (by assumption) ?_
    | refine optAll_fst (by assumption) ?_

theorem State.cxeEvent_ev {s₀ : State} {s : State} (n r : Nat) (stn : Option Nat) (hev : Evolves s₀ s) :
    Evolves s₀ (State.cxeEvent s n r stn) := by
  unfold State.cxeEvent
  try dsimp only
  repeat' with_reducible first
    | assumption | apply State.note_ev

theorem State.imgWrite_ev {s₀ : State} {s : State} (b : Img) (o : Nat) (bs : List Byte) (hev : Evolves s₀ s) :
    Evolves s₀ (State.imgWrite s b o bs) := by
  unfold State.imgWrite
  try dsimp only
  repeat' with_reducible first
    | assumption | simp only [ev_mk] | split | refine ev_of_eq (by assumption) ?_

theorem writeBack_ev {s₀ s : State} (stns : List Nat) (i : Nat) (l : List Byte) (hev : Evolves s₀ s) :
    Evolves s₀ (writeBack stns i l s) := by
  induction l generalizing i s with
  | nil => exact hev
  | cons x l ih =>
    unfold writeBack
    exact ih _ (State.imgWrite_ev _ _ _ hev)

end Sys2Proof.Machine
end

