-- ==== Sys2Proof/Laws/EvolveSvcOps.lean ====
section
/-!
SUPPORT. What the definitions of Machine/SvcOps.lean keep.
-/

namespace Sys2Proof.Machine

set_option linter.all false

theorem State.modKind_ev {s₀ : State} {s : State} (k : Nat) (f : SvcKind → SvcKind) (hev : Evolves s₀ s) :
    Evolves s₀ (State.modKind s k f) := by
  unfold State.modKind
  try dsimp only
  repeat' with_reducible first
    | assumption | simp only [ev_mk]

theorem State.kindState_ev {s₀ : State} {s : State} (k st m : Nat) (hev : Evolves s₀ s) :
    Evolves s₀ (State.kindState s k st m) := by
  unfold State.kindState
  try dsimp only
  repeat' with_reducible first
    | assumption | apply State.set_ev

theorem State.kindRests_ev {s₀ : State} {s : State} (k : Nat) (hev : Evolves s₀ s) :
    Evolves s₀ (State.kindRests s k) := by
  unfold State.kindRests
  try dsimp only
  repeat' with_reducible first
    | assumption | apply State.kindState_ev | refine ev_ite ?_ ?_ | split

theorem State.exhaustion_ev {s₀ : State} {s : State} (k : Nat) (hev : Evolves s₀ s) :
    Evolves s₀ (State.exhaustion s k) := by
  unfold State.exhaustion
  try dsimp only
  repeat' with_reducible first
    | assumption | apply State.raise_ev | refine ev_ite ?_ ?_ | split

theorem State.retireMember_ev {s₀ : State} {s0 : State} (k m : Nat) (hev : Evolves s₀ s0) :
    Evolves s₀ (State.retireMember s0 k m) := by
  unfold State.retireMember
  try dsimp only
  repeat' with_reducible first
    | assumption | apply State.modKind_ev | apply State.set_ev | simp only [ev_mk] | intro _

theorem State.copyBegins_ev {s₀ : State} {s : State} (k m r : Nat) (retire : Bool) (hev : Evolves s₀ s) :
    Evolves s₀ (State.copyBegins s k m r retire) := by
  unfold State.copyBegins
  try dsimp only
  repeat' with_reducible first
    | assumption | apply State.modKind_ev | apply State.kindState_ev | refine ev_ite ?_ ?_ | simp only [ev_mk]
    | split | intro _

theorem State.reserveLost_ev {s₀ : State} {s : State} (k m general : Nat) (hev : Evolves s₀ s) :
    Evolves s₀ (State.reserveLost s k m general) := by
  unfold State.reserveLost
  try dsimp only
  repeat' with_reducible first
    | assumption | apply State.setUnit_ev | apply State.raise_ev | simp only [ev_mk] | split
    | refine ev_of_eq (by assumption) ?_

theorem State.retireIdle_ev {s₀ : State} {s : State} (k m : Nat) (hev : Evolves s₀ s) :
    Evolves s₀ (State.retireIdle s k m) := by
  unfold State.retireIdle
  try dsimp only
  repeat' with_reducible first
    | assumption | apply State.modKind_ev | apply State.retireMember_ev | apply State.kindRests_ev
    | apply State.raise_ev | refine ev_ite ?_ ?_ | simp only [ev_mk] | split | intro _

theorem State.retireBank_ev {s₀ : State} {s : State} (k m general : Nat) (hev : Evolves s₀ s) :
    Evolves s₀ (State.retireBank s k m general) := by
  unfold State.retireBank
  try dsimp only
  repeat' with_reducible first
    | assumption | apply State.modKind_ev | apply State.retireIdle_ev | apply State.reserveLost_ev
    | apply State.exhaustion_ev | apply State.copyBegins_ev | refine ev_ite ?_ ?_ | refine ev_ite_fst ?_ ?_
    | simp only [ev_mk] | split | intro _ | refine ev_of_eq (by assumption) ?_

theorem State.uncorrectable_ev {s₀ : State} {s : State} (k b : Nat) (hev : Evolves s₀ s) :
    Evolves s₀ (State.uncorrectable s k b) := by
  unfold State.uncorrectable
  try dsimp only
  repeat' with_reducible first
    | assumption | apply State.retireBank_ev

theorem State.correctable_ev {s₀ : State} {s : State} (k m general : Nat) (hev : Evolves s₀ s) :
    Evolves s₀ (State.correctable s k m general) := by
  unfold State.correctable
  try dsimp only
  repeat' with_reducible first
    | assumption | apply State.retireBank_ev | apply State.set_ev | apply State.raise_ev | refine ev_ite ?_ ?_
    | split

theorem State.pauseBegins_ev {s₀ : State} {s : State} (p : SvcPause) (hev : Evolves s₀ s) :
    Evolves s₀ (State.pauseBegins s p) := by
  unfold State.pauseBegins
  try dsimp only
  repeat' with_reducible first
    | assumption | apply State.kindState_ev | apply rkPIPELINE_ev | apply rsHANDOVER_ev | apply State.setUnit_ev
    | refine ev_ite ?_ ?_ | refine ev_ite_fst ?_ ?_ | simp only [ev_mk] | split | intro _
    | refine ev_of_eq (by assumption) ?_ | refine optAll_state (by assumption) ?_
    | refine optAll_fst (by assumption) ?_

theorem State.pauseLifts_ev {s₀ : State} {s : State} (r : Nat) (hev : Evolves s₀ s) :
    Evolves s₀ (State.pauseLifts s r) := by
  unfold State.pauseLifts
  try dsimp only
  repeat' with_reducible first
    | assumption | apply State.goReady_ev | refine ev_ite ?_ ?_ | refine ev_ite_fst ?_ ?_ | simp only [ev_mk] | split
    | intro _ | refine ev_of_eq (by assumption) ?_ | refine optAll_state (by assumption) ?_
    | refine optAll_fst (by assumption) ?_

theorem State.svcAbandon_ev {s₀ : State} {s : State} (hev : Evolves s₀ s) :
    Evolves s₀ (State.svcAbandon s) := by
  unfold State.svcAbandon
  try dsimp only
  repeat' with_reducible first
    | assumption | apply State.pauseLifts_ev | apply State.modKind_ev | apply State.kindState_ev
    | apply rsNO_RESERVE_ev | apply rsIDLE_ev | refine ev_ite ?_ ?_ | refine ev_ite_fst ?_ ?_
    | refine ev_foldl ?_ (fun _ _ _ => ?_) | refine ev_foldl_fst ?_ (fun _ _ _ => ?_) | simp only [ev_mk] | split
    | intro _ | refine ev_of_eq (by assumption) ?_ | refine optAll_state (by assumption) ?_
    | refine optAll_fst (by assumption) ?_

end Sys2Proof.Machine
end

