-- ==== Sys2Proof/Laws/EvolveMpiOps.lean ====
section
/-!
SUPPORT. What the definitions of Machine/MpiOps.lean keep.
-/

namespace Sys2Proof.Machine

set_option linter.all false

theorem State.modMpi_ev {s₀ : State} {s : State} (f : Mpi → Mpi) (hev : Evolves s₀ s) :
    Evolves s₀ (State.modMpi s f) := by
  unfold State.modMpi
  try dsimp only
  repeat' with_reducible first
    | assumption | simp only [ev_mk]

theorem State.modMaster_ev {s₀ : State} {s : State} (k : Nat) (f : MasterSt → MasterSt) (hev : Evolves s₀ s) :
    Evolves s₀ (State.modMaster s k f) := by
  unfold State.modMaster
  try dsimp only
  repeat' with_reducible first
    | assumption | apply State.modMpi_ev | simp only [ev_mk] | intro _

theorem State.mpiEvent_ev {s₀ : State} {s : State} (n low : Nat) (axis : Option Nat) (hev : Evolves s₀ s) :
    Evolves s₀ (State.mpiEvent s n low axis) := by
  unfold State.mpiEvent
  try dsimp only
  repeat' with_reducible first
    | assumption | apply State.note_ev

theorem State.mpiResume_ev {s₀ : State} {s : State} (hev : Evolves s₀ s) :
    Evolves s₀ (State.mpiResume s) := by
  unfold State.mpiResume
  try dsimp only
  repeat' with_reducible first
    | assumption | apply State.modMpi_ev | refine ev_ite ?_ ?_ | refine ev_ite_fst ?_ ?_ | simp only [ev_mk] | split
    | intro _ | refine ev_of_eq (by assumption) ?_ | refine optAll_state (by assumption) ?_
    | refine optAll_fst (by assumption) ?_

theorem State.putSample_ev {s₀ : State} {s : State} (k : Nat) (x : Sample) (ns : Nat) (hev : Evolves s₀ s) :
    Evolves s₀ (State.putSample s k x ns) := by
  unfold State.putSample
  try dsimp only
  repeat' with_reducible first
    | assumption | apply State.set_ev | apply State.modMaster_ev | simp only [ev_mk] | intro _

theorem State.placeSample_ev {s₀ : State} {s : State} (src k : Nat) (x : Sample) (hev : Evolves s₀ s) :
    Evolves s₀ (State.placeSample s src k x) := by
  unfold State.placeSample
  try dsimp only
  repeat' with_reducible first
    | assumption | apply State.putSample_ev | apply State.raise_ev | refine ev_ite ?_ ?_ | split

theorem State.stationSample_ev {s₀ : State} {s : State} (k t : Nat) (hev : Evolves s₀ s) :
    Evolves s₀ (State.stationSample s k t) := by
  unfold State.stationSample
  try dsimp only
  repeat' with_reducible first
    | assumption | apply State.placeSample_ev | apply State.modMaster_ev | refine ev_ite ?_ ?_ | simp only [ev_mk]
    | split | intro _

theorem State.stationMasters_ev {s₀ : State} {s : State} (received : List Nat) (t : Nat) (hev : Evolves s₀ s) :
    Evolves s₀ (State.stationMasters s received t) := by
  unfold State.stationMasters
  try dsimp only
  repeat' with_reducible first
    | assumption | apply State.stationSample_ev | refine ev_ite ?_ ?_ | refine ev_foldl ?_ (fun _ _ _ => ?_) | split
    | intro _

theorem State.setAxis_ev {s₀ : State} {s : State} (a st cause : Nat) (hev : Evolves s₀ s) :
    Evolves s₀ (State.setAxis s a st cause) := by
  unfold State.setAxis
  try dsimp only
  repeat' with_reducible first
    | assumption | apply State.set_ev

theorem State.holdAxis_ev {s₀ : State} {s : State} (a cause : Nat) (hev : Evolves s₀ s) :
    Evolves s₀ (State.holdAxis s a cause) := by
  unfold State.holdAxis
  try dsimp only
  repeat' with_reducible first
    | assumption | apply State.setAxis_ev | apply State.mpiEvent_ev

theorem State.writeAxis_ev {s₀ : State} {s : State} (a out : Nat) (vff : Int) (hev : Evolves s₀ s) :
    Evolves s₀ (State.writeAxis s a out vff) := by
  unfold State.writeAxis
  try dsimp only
  repeat' with_reducible first
    | assumption | apply State.imgWrite_ev | apply State.set_ev | refine ev_ite ?_ ?_ | split

theorem State.groupStop_ev {s₀ : State} {s : State} (r : Nat) (hev : Evolves s₀ s) :
    Evolves s₀ (State.groupStop s r) := by
  unfold State.groupStop
  try dsimp only
  repeat' with_reducible first
    | assumption | apply State.modRope_ev | apply State.mpiEvent_ev | refine ev_ite ?_ ?_ | simp only [ev_mk] | split
    | intro _

theorem State.staleStop_ev {s₀ : State} {s : State} (r : Nat) (hev : Evolves s₀ s) :
    Evolves s₀ (State.staleStop s r) := by
  unfold State.staleStop
  try dsimp only
  repeat' with_reducible first
    | assumption | apply State.groupStop_ev | apply State.modRope_ev | refine ev_ite ?_ ?_ | refine ev_ite_fst ?_ ?_
    | simp only [ev_mk] | split | intro _ | refine ev_of_eq (by assumption) ?_
    | refine optAll_state (by assumption) ?_ | refine optAll_fst (by assumption) ?_

theorem State.feWatch_ev {s₀ : State} {s : State} (a : Nat) (hev : Evolves s₀ s) :
    Evolves s₀ (State.feWatch s a) := by
  unfold State.feWatch
  try dsimp only
  repeat' with_reducible first
    | assumption | apply State.set_ev | apply State.modMpi_ev | apply State.mpiEvent_ev | apply State.holdAxis_ev
    | apply State.groupStop_ev | refine ev_ite ?_ ?_ | simp only [ev_mk] | split | intro _
    | refine ev_of_eq (by assumption) ?_

theorem State.camBad_ev {s₀ : State} {s : State} (a p : Nat) (hev : Evolves s₀ s) :
    Evolves s₀ (State.camBad s a p) := by
  unfold State.camBad
  try dsimp only
  repeat' with_reducible first
    | assumption | apply axF_ev | apply State.modMpi_ev | apply State.camHeld_ev | apply State.note_ev
    | apply State.axisState_ev | apply axHELD_ev | apply State.setAxis_ev | apply hcCAM_ERROR_ev
    | apply State.holdAxis_ev | apply State.uncorrectable_ev | refine ev_ite ?_ ?_ | refine ev_ite_fst ?_ ?_
    | simp only [ev_mk] | split | intro _ | refine ev_of_eq (by assumption) ?_
    | refine optAll_state (by assumption) ?_ | refine optAll_fst (by assumption) ?_

theorem State.axisCompute_ev {s₀ : State} {s : State} (a mode : Nat) (x real : MVal) (rest resync : Bool) (bad : List Nat) (hev : Evolves s₀ s) :
    Evolves s₀ (State.axisCompute s a mode x real rest resync bad) := by
  unfold State.axisCompute
  try dsimp only
  repeat' with_reducible first
    | assumption | apply State.writeAxis_ev | apply State.modMpi_ev | apply State.camBad_ev | apply State.setAxis_ev
    | apply State.holdAxis_ev | apply State.mpiEvent_ev | refine ev_ite ?_ ?_ | simp only [ev_mk] | split | intro _
    | refine ev_of_eq (by assumption) ?_

theorem State.masterStarts_ev {s₀ : State} {s : State} (k b : Nat) (hev : Evolves s₀ s) :
    Evolves s₀ (State.masterStarts s k b) := by
  unfold State.masterStarts
  try dsimp only
  repeat' with_reducible first
    | assumption | apply State.set_ev | apply State.modMaster_ev | apply State.putSample_ev | refine ev_ite ?_ ?_
    | simp only [ev_mk] | split | intro _

theorem State.wrapMaster_ev {s₀ : State} {s : State} (k m : Nat) (hev : Evolves s₀ s) :
    Evolves s₀ (State.wrapMaster s k m) := by
  unfold State.wrapMaster
  try dsimp only
  repeat' with_reducible first
    | assumption | apply State.set_ev | refine ev_ite ?_ ?_ | simp only [ev_mk] | split
    | refine ev_of_eq (by assumption) ?_

theorem State.ageMaster_ev {s₀ : State} {s : State} (k b : Nat) (hev : Evolves s₀ s) :
    Evolves s₀ (State.ageMaster s k b) := by
  unfold State.ageMaster
  try dsimp only
  repeat' with_reducible first
    | assumption | apply State.set_ev | apply State.mpiEvent_ev | apply State.staleStop_ev | apply State.mastersOf_ev
    | apply State.master_ev | apply State.modMaster_ev | refine ev_ite ?_ ?_ | refine ev_ite_fst ?_ ?_
    | refine ev_foldl ?_ (fun _ _ _ => ?_) | refine ev_foldl_fst ?_ (fun _ _ _ => ?_) | simp only [ev_mk] | split
    | intro _ | refine ev_of_eq (by assumption) ?_ | refine optAll_state (by assumption) ?_
    | refine optAll_fst (by assumption) ?_

theorem State.snapMaster_ev {s₀ : State} {s : State} (b k : Nat) (hev : Evolves s₀ s) :
    Evolves s₀ (State.snapMaster s b k) := by
  unfold State.snapMaster
  try dsimp only
  repeat' with_reducible first
    | assumption | apply State.set_ev | apply State.modMaster_ev | apply State.masterStarts_ev
    | apply State.wrapMaster_ev | apply State.ageMaster_ev | refine ev_ite ?_ ?_ | simp only [ev_mk] | split
    | intro _ | refine ev_of_eq (by assumption) ?_

theorem State.stopMaster_ev {s₀ : State} {s : State} (b r : Nat) (entered : Bool) (k : Nat) (hev : Evolves s₀ s) :
    Evolves s₀ (State.stopMaster s b r entered k) := by
  unfold State.stopMaster
  try dsimp only
  repeat' with_reducible first
    | assumption | apply State.modMpi_ev | refine ev_ite ?_ ?_ | refine ev_ite_fst ?_ ?_ | simp only [ev_mk] | split
    | intro _ | refine ev_of_eq (by assumption) ?_ | refine optAll_state (by assumption) ?_
    | refine optAll_fst (by assumption) ?_

theorem State.stopMasters_ev {s₀ : State} {s : State} (b r : Nat) (entered : Bool) (hev : Evolves s₀ s) :
    Evolves s₀ (State.stopMasters s b r entered) := by
  unfold State.stopMasters
  try dsimp only
  repeat' with_reducible first
    | assumption | apply State.stopMaster_ev
    | apply State.modMpi_ev | refine ev_ite ?_ ?_ | refine ev_ite_fst ?_ ?_ | refine ev_foldl ?_ (fun _ _ _ => ?_)
    | refine ev_foldl_fst ?_ (fun _ _ _ => ?_) | simp only [ev_mk] | split | intro _
    | refine ev_of_eq (by assumption) ?_ | refine optAll_state (by assumption) ?_
    | refine optAll_fst (by assumption) ?_

theorem State.rampDone_ev {s₀ : State} {s : State} (r : Nat) (hev : Evolves s₀ s) :
    Evolves s₀ (State.rampDone s r) := by
  unfold State.rampDone
  try dsimp only
  repeat' with_reducible first
    | assumption | apply State.modMpi_ev | apply State.mpiEvent_ev | refine ev_ite ?_ ?_ | simp only [ev_mk] | split
    | intro _

theorem State.axisPass_ev {s₀ : State} {s : State} (b : Nat) (bad : List Nat) (a : Nat) (hev : Evolves s₀ s) :
    Evolves s₀ (State.axisPass s b bad a) := by
  unfold State.axisPass
  try dsimp only
  repeat' with_reducible first
    | assumption | apply State.setAxis_ev | apply State.modMpi_ev | apply State.feWatch_ev | apply State.holdAxis_ev
    | apply State.axisCompute_ev | apply State.announce_ev | refine ev_ite ?_ ?_ | simp only [ev_mk] | split
    | intro _

theorem State.generate_ev {s₀ : State} {s : State} (b : Nat) (ropes : List Nat) (k : Nat) (hev : Evolves s₀ s) :
    Evolves s₀ (State.generate s b ropes k) := by
  unfold State.generate
  try dsimp only
  repeat' with_reducible first
    | assumption | apply State.modMpi_ev | apply State.set_ev | apply State.modMaster_ev | refine ev_ite ?_ ?_
    | refine ev_ite_fst ?_ ?_ | simp only [ev_mk] | split | intro _

theorem State.axesOff_ev {s₀ : State} {s : State} (hev : Evolves s₀ s) :
    Evolves s₀ (State.axesOff s) := by
  unfold State.axesOff
  try dsimp only
  repeat' with_reducible first
    | assumption | apply State.setAxis_ev | refine ev_ite ?_ ?_ | refine ev_foldl ?_ (fun _ _ _ => ?_) | split
    | intro _

theorem State.mpiPass_ev {s₀ : State} {s : State} (b : Nat) (ropes entered : List Nat) (bad : List Nat) (hev : Evolves s₀ s) :
    Evolves s₀ (State.mpiPass s b ropes entered bad) := by
  unfold State.mpiPass
  try dsimp only
  repeat' with_reducible first
    | assumption | apply State.modMpi_ev | apply State.latchChecked_ev | apply State.snapMaster_ev
    | apply State.stopMasters_ev | apply State.rampDone_ev | apply State.announce_ev | apply State.axesOff_ev
    | apply State.axisPass_ev | apply State.generate_ev | refine ev_ite ?_ ?_ | simp only [ev_mk]
    | refine ev_foldl ?_ (fun _ _ _ => ?_) | split | intro _

theorem State.mpiReset_ev {s₀ : State} {s : State} (hev : Evolves s₀ s) :
    Evolves s₀ (State.mpiReset s) := by
  unfold State.mpiReset
  try dsimp only
  repeat' with_reducible first
    | assumption | apply State.setAxis_ev | apply State.set_ev | apply State.setBits_ev | apply State.modMpi_ev
    | simp only [ev_mk] | refine ev_foldl ?_ (fun _ _ _ => ?_) | intro _

end Sys2Proof.Machine
end

