-- ==== Sys2Proof/Laws/EvolveRecOps.lean ====
section
/-!
SUPPORT. What the definitions of Machine/RecOps.lean keep.
-/

namespace Sys2Proof.Machine

set_option linter.all false

theorem State.recPublish_ev {s₀ : State} {s : State} (r : Nat) (x : NvRec) (hev : Evolves s₀ s) :
    Evolves s₀ (State.recPublish s r x) := by
  unfold State.recPublish
  try dsimp only
  repeat' with_reducible first
    | assumption | apply State.latchChecked_ev | apply State.raise_ev | refine ev_ite ?_ ?_ | simp only [ev_mk]
    | split | intro _

end Sys2Proof.Machine
end

