-- ==== Sys2Proof/Laws/EvolveTimebase.lean ====
section
/-!
SUPPORT. What the definitions of Machine/Timebase.lean keep.
-/

namespace Sys2Proof.Machine

set_option linter.all false

theorem State.modTime_ev {s₀ : State} {s : State} (f : Time → Time) (hev : Evolves s₀ s) :
    Evolves s₀ (State.modTime s f) := by
  unfold State.modTime
  try dsimp only
  repeat' with_reducible first
    | assumption | refine ev_ite ?_ ?_ | refine ev_ite_fst ?_ ?_ | simp only [ev_mk] | split | intro _
    | refine ev_of_eq (by assumption) ?_ | refine optAll_state (by assumption) ?_
    | refine optAll_fst (by assumption) ?_

theorem State.selectDomain_ev {s₀ : State} {s : State} (d : Nat) (auto : Bool) (hev : Evolves s₀ s) :
    Evolves s₀ (State.selectDomain s d auto) := by
  unfold State.selectDomain
  try dsimp only
  repeat' with_reducible first
    | assumption | apply State.selected_ev | apply State.set_ev | apply State.note_ev | refine ev_ite ?_ ?_
    | refine ev_ite_fst ?_ ?_ | simp only [ev_mk] | split | intro _ | refine ev_of_eq (by assumption) ?_
    | refine optAll_state (by assumption) ?_ | refine optAll_fst (by assumption) ?_

theorem State.loseDomain_ev {s₀ : State} {s : State} (d : Nat) (hev : Evolves s₀ s) :
    Evolves s₀ (State.loseDomain s d) := by
  unfold State.loseDomain
  try dsimp only
  repeat' with_reducible first
    | assumption | apply State.domValid_ev | apply State.set_ev | apply State.note_ev | refine ev_ite ?_ ?_
    | refine ev_ite_fst ?_ ?_ | simp only [ev_mk] | split | intro _ | refine ev_of_eq (by assumption) ?_
    | refine optAll_state (by assumption) ?_ | refine optAll_fst (by assumption) ?_

theorem State.autoSwitch_ev {s₀ : State} {s : State} (v0 : Nat → Bool) (hev : Evolves s₀ s) :
    Evolves s₀ (State.autoSwitch s v0) := by
  unfold State.autoSwitch
  try dsimp only
  repeat' with_reducible first
    | assumption | apply State.selected_ev | apply State.domValid_ev | apply State.selectDomain_ev
    | refine ev_ite ?_ ?_ | refine ev_ite_fst ?_ ?_ | simp only [ev_mk] | split | intro _
    | refine ev_of_eq (by assumption) ?_ | refine optAll_state (by assumption) ?_
    | refine optAll_fst (by assumption) ?_

theorem State.wdJudge_ev {s₀ : State} {s : State} (d : Nat) (hev : Evolves s₀ s) :
    Evolves s₀ (State.wdJudge s d) := by
  unfold State.wdJudge
  try dsimp only
  repeat' with_reducible first
    | assumption | apply State.wdLimit_ev | apply State.loseDomain_ev | refine ev_ite ?_ ?_ | refine ev_ite_fst ?_ ?_
    | simp only [ev_mk] | split | intro _ | refine ev_of_eq (by assumption) ?_
    | refine optAll_state (by assumption) ?_ | refine optAll_fst (by assumption) ?_

theorem State.applyStep_ev {s₀ : State} {s : State} (d : Nat) (z : Int) (hev : Evolves s₀ s) :
    Evolves s₀ (State.applyStep s d z) := by
  unfold State.applyStep
  try dsimp only
  repeat' with_reducible first
    | assumption | apply State.note_ev | apply State.modTime_ev | refine ev_ite ?_ ?_ | refine ev_ite_fst ?_ ?_
    | simp only [ev_mk] | split | intro _ | refine ev_of_eq (by assumption) ?_
    | refine optAll_state (by assumption) ?_ | refine optAll_fst (by assumption) ?_

theorem State.tuEarly_ev {s₀ : State} {s : State} (x0 : TuWrite) (hev : Evolves s₀ s) :
    Evolves s₀ (State.tuEarly s x0) := by
  unfold State.tuEarly
  try dsimp only
  repeat' with_reducible first
    | assumption | apply State.applyStep_ev | apply State.setForce_ev | apply State.modTime_ev
    | apply State.domValid_ev | apply State.set_ev | apply State.loseDomain_ev | refine ev_ite ?_ ?_
    | refine ev_ite_fst ?_ ?_ | simp only [ev_mk] | split | intro _ | refine ev_of_eq (by assumption) ?_
    | refine optAll_state (by assumption) ?_ | refine optAll_fst (by assumption) ?_

theorem State.tuSelect_ev {s₀ : State} {s : State} (x0 : TuWrite) (hev : Evolves s₀ s) :
    Evolves s₀ (State.tuSelect s x0) := by
  unfold State.tuSelect
  try dsimp only
  repeat' with_reducible first
    | assumption | apply State.set_ev | apply State.selectDomain_ev | refine ev_ite ?_ ?_ | refine ev_ite_fst ?_ ?_
    | simp only [ev_mk] | split | intro _ | refine ev_of_eq (by assumption) ?_
    | refine optAll_state (by assumption) ?_ | refine optAll_fst (by assumption) ?_

theorem State.wdTick_ev {s₀ : State} {s : State} (hev : Evolves s₀ s) :
    Evolves s₀ (State.wdTick s) := by
  unfold State.wdTick
  try dsimp only
  repeat' with_reducible first
    | assumption | apply State.wdFrozen_ev | apply State.modTime_ev | refine ev_ite ?_ ?_ | refine ev_ite_fst ?_ ?_
    | simp only [ev_mk] | split | intro _ | refine ev_of_eq (by assumption) ?_
    | refine optAll_state (by assumption) ?_ | refine optAll_fst (by assumption) ?_

theorem State.advance_ev {s₀ : State} {s : State} (hev : Evolves s₀ s) :
    Evolves s₀ (State.advance s) := by
  unfold State.advance
  try dsimp only
  repeat' with_reducible first
    | assumption | apply State.modTime_ev | apply tickUnits_ev | apply State.adjust_ev | refine ev_ite ?_ ?_
    | refine ev_ite_fst ?_ ?_ | simp only [ev_mk] | split | intro _ | refine ev_of_eq (by assumption) ?_
    | refine optAll_state (by assumption) ?_ | refine optAll_fst (by assumption) ?_

theorem State.slew_ev {s₀ : State} {s : State} (hev : Evolves s₀ s) :
    Evolves s₀ (State.slew s) := by
  unfold State.slew
  try dsimp only
  repeat' with_reducible first
    | assumption | apply State.tickCorr_ev | apply State.tickInc_ev | apply State.modTime_ev | apply tickUnits_ev
    | apply State.adjust_ev | apply State.selected_ev | refine ev_ite ?_ ?_ | refine ev_ite_fst ?_ ?_
    | simp only [ev_mk] | split | intro _ | refine ev_of_eq (by assumption) ?_
    | refine optAll_state (by assumption) ?_ | refine optAll_fst (by assumption) ?_

theorem State.tickSelects_ev {s₀ : State} {s : State} (hev : Evolves s₀ s) :
    Evolves s₀ (State.tickSelects s) := by
  unfold State.tickSelects
  try dsimp only
  repeat' with_reducible first
    | assumption | apply State.tuEarly_ev | apply State.modTime_ev | apply State.wdTick_ev | apply State.tuSelect_ev
    | apply State.advance_ev | apply State.wdJudge_ev | apply State.autoSwitch_ev | apply State.domValid_ev
    | refine ev_ite ?_ ?_ | refine ev_ite_fst ?_ ?_ | refine ev_foldl ?_ (fun _ _ _ => ?_)
    | refine ev_foldl_fst ?_ (fun _ _ _ => ?_) | simp only [ev_mk] | split | intro _
    | refine ev_of_eq (by assumption) ?_ | refine optAll_state (by assumption) ?_
    | refine optAll_fst (by assumption) ?_

end Sys2Proof.Machine
end

