-- ==== Sys2Proof/Laws/EvolveTime.lean ====
section
/-!
SUPPORT. What the definitions of Machine/Time.lean keep.
-/

namespace Sys2Proof.Machine

set_option linter.all false

theorem State.holdover_ev {s₀ : State} {s : State} (hev : Evolves s₀ s) :
    Evolves s₀ (State.holdover s) := by
  unfold State.holdover
  try dsimp only
  repeat' with_reducible first
    | assumption | apply State.set_ev | apply State.note_ev | refine ev_ite ?_ ?_ | split

theorem State.lockUpdate_ev {s₀ : State} {s : State} (hev : Evolves s₀ s) :
    Evolves s₀ (State.lockUpdate s) := by
  unfold State.lockUpdate
  try dsimp only
  repeat' with_reducible first
    | assumption | apply State.set_ev | apply State.note_ev | refine ev_ite ?_ ?_ | split

theorem State.align_ev {s₀ : State} {s : State} (hev : Evolves s₀ s) :
    Evolves s₀ (State.align s) := by
  unfold State.align
  try dsimp only
  repeat' with_reducible first
    | assumption | apply State.note_ev | apply State.modTime_ev
    | apply State.lockUpdate_ev | refine ev_ite ?_ ?_ | refine ev_ite_fst ?_ ?_
    | simp only [ev_mk] | split | intro _ | refine ev_of_eq (by assumption) ?_
    | refine optAll_state (by assumption) ?_ | refine optAll_fst (by assumption) ?_

theorem State.snap_ev {s₀ : State} {s : State} (hev : Evolves s₀ s) :
    Evolves s₀ (State.snap s) := by
  unfold State.snap
  try dsimp only
  repeat' with_reducible first
    | assumption | apply State.set_ev | apply State.bump_ev | refine ev_foldl ?_ (fun _ _ _ => ?_) | intro _

theorem State.tuLate_ev {s₀ : State} {s : State} (x0 : TuWrite) (hev : Evolves s₀ s) :
    Evolves s₀ (State.tuLate s x0) := by
  unfold State.tuLate
  try dsimp only
  repeat' with_reducible first
    | assumption | apply State.align_ev | apply State.snap_ev | refine ev_ite ?_ ?_ | refine ev_ite_fst ?_ ?_
    | simp only [ev_mk] | split | intro _ | refine ev_of_eq (by assumption) ?_
    | refine optAll_state (by assumption) ?_ | refine optAll_fst (by assumption) ?_

theorem State.timeTick_ev {s₀ : State} {s : State} (hev : Evolves s₀ s) :
    Evolves s₀ (State.timeTick s) := by
  unfold State.timeTick
  try dsimp only
  repeat' with_reducible first
    | assumption | apply State.tuLate_ev | apply State.tickSelects_ev | apply State.holdover_ev | apply State.slew_ev
    | apply State.lockUpdate_ev | apply State.announce_ev | refine ev_ite ?_ ?_ | refine ev_ite_fst ?_ ?_
    | refine ev_foldl ?_ (fun _ _ _ => ?_) | refine ev_foldl_fst ?_ (fun _ _ _ => ?_) | simp only [ev_mk] | split
    | intro _ | refine ev_of_eq (by assumption) ?_ | refine optAll_state (by assumption) ?_
    | refine optAll_fst (by assumption) ?_

theorem State.tuWrite_ev {s₀ : State} {s : State} (w : TuWrite) (hev : Evolves s₀ s) :
    Evolves s₀ (State.tuWrite s w) := by
  unfold State.tuWrite
  try dsimp only
  repeat' with_reducible first
    | assumption | apply State.modTime_ev | apply State.tuEarly_ev | apply State.wdJudge_ev
    | apply State.autoSwitch_ev | apply State.tuSelect_ev | apply State.holdover_ev
    | apply State.tuLate_ev | apply State.announce_ev | refine ev_ite ?_ ?_ | refine ev_ite_fst ?_ ?_
    | simp only [ev_mk] | split | intro _ | refine ev_of_eq (by assumption) ?_
    | refine optAll_state (by assumption) ?_ | refine optAll_fst (by assumption) ?_

theorem State.tuStore_ev {s₀ : State} {s : State} (a : Nat) (m v : Word) (hev : Evolves s₀ s) :
    Evolves s₀ (State.tuStore s a m v) := by
  unfold State.tuStore
  try dsimp only
  repeat' with_reducible first
    | assumption | apply State.setReg_ev | apply State.setForce_ev | apply State.tuWrite_ev | refine ev_ite ?_ ?_
    | refine ev_ite_fst ?_ ?_ | simp only [ev_mk] | split | intro _ | refine ev_of_eq (by assumption) ?_
    | refine optAll_state (by assumption) ?_ | refine optAll_fst (by assumption) ?_

theorem State.domainStep_ev {s₀ : State} {s : State} (o : Sys2Proof.Origin) (d : Nat) (v : DWord) (hev : Evolves s₀ s) :
    Evolves s₀ (State.domainStep s o d v).1 := by
  unfold State.domainStep
  try dsimp only
  repeat' with_reducible first
    | assumption | apply State.gate_ev | apply State.tuWrite_ev | apply State.done_ev | refine ev_ite ?_ ?_
    | refine ev_ite_fst ?_ ?_ | simp only [ev_mk] | split | intro _ | refine ev_of_eq (by assumption) ?_
    | refine optAll_state (by assumption) ?_ | refine optAll_fst (by assumption) ?_

theorem execDomainStep_ev {s₀ : State} (o : Sys2Proof.Origin) (d : Fin 2) (v : DWord) {s : State} (hev : Evolves s₀ s) :
    Leaves (Evolves s₀) (execDomainStep o d v s) := by
  unfold execDomainStep
  try dsimp only
  repeat' with_reducible first
    | assumption | apply State.domainStep_ev | refine leaves_next ?_ | refine leaves_out ?_

theorem State.domainCmd_ev {s₀ : State} {s : State} (o : Sys2Proof.Origin) (d : Nat) (inv ref : Bool) (hev : Evolves s₀ s) :
    Evolves s₀ (State.domainCmd s o d inv ref).1 := by
  unfold State.domainCmd
  try dsimp only
  repeat' with_reducible first
    | assumption | apply State.gate_ev | apply State.tuWrite_ev | apply State.done_ev | refine ev_ite ?_ ?_
    | refine ev_ite_fst ?_ ?_ | simp only [ev_mk] | split | intro _ | refine ev_of_eq (by assumption) ?_
    | refine optAll_state (by assumption) ?_ | refine optAll_fst (by assumption) ?_

theorem execDomainRefresh_ev {s₀ : State} (o : Sys2Proof.Origin) (d : Fin 2) {s : State} (hev : Evolves s₀ s) :
    Leaves (Evolves s₀) (execDomainRefresh o d s) := by
  unfold execDomainRefresh
  try dsimp only
  repeat' with_reducible first
    | assumption | apply State.domainCmd_ev | refine leaves_next ?_ | refine leaves_out ?_

theorem execDomainInvalidate_ev {s₀ : State} (o : Sys2Proof.Origin) (d : Fin 2) {s : State} (hev : Evolves s₀ s) :
    Leaves (Evolves s₀) (execDomainInvalidate o d s) := by
  unfold execDomainInvalidate
  try dsimp only
  repeat' with_reducible first
    | assumption | apply State.domainCmd_ev | refine leaves_next ?_ | refine leaves_out ?_

theorem State.wdogWrite_ev {s₀ : State} {s : State} (o : Sys2Proof.Origin) (d : Nat) (ms : Nat) (hev : Evolves s₀ s) :
    Evolves s₀ (State.wdogWrite s o d ms).1 := by
  unfold State.wdogWrite
  try dsimp only
  repeat' with_reducible first
    | assumption | apply State.gate_ev | apply State.tuStore_ev | apply State.done_ev | refine ev_ite ?_ ?_
    | refine ev_ite_fst ?_ ?_ | simp only [ev_mk] | split | intro _ | refine ev_of_eq (by assumption) ?_
    | refine optAll_state (by assumption) ?_ | refine optAll_fst (by assumption) ?_

theorem execWatchdogTimeoutWrite_ev {s₀ : State} (o : Sys2Proof.Origin) (d : Fin 2) (ms : BitVec 16) {s : State} (hev : Evolves s₀ s) :
    Leaves (Evolves s₀) (execWatchdogTimeoutWrite o d ms s) := by
  unfold execWatchdogTimeoutWrite
  try dsimp only
  repeat' with_reducible first
    | assumption | apply State.wdogWrite_ev | refine leaves_next ?_ | refine leaves_out ?_

theorem execDomainWatchdogExpiry_ev {s₀ : State} {s : State} (d : Fin 2) (hev : Evolves s₀ s) :
    Leaves (Evolves s₀) (execDomainWatchdogExpiry d s) := by
  unfold execDomainWatchdogExpiry
  try dsimp only
  repeat' with_reducible first
    | assumption | apply State.loseDomain_ev
    | apply State.autoSwitch_ev | apply State.holdover_ev | apply State.announce_ev | refine ev_ite ?_ ?_
    | refine ev_ite_fst ?_ ?_ | refine leaves_next ?_ | refine leaves_out ?_ | refine leaves_ite ?_ ?_
    | simp only [ev_mk] | split | intro _ | refine ev_of_eq (by assumption) ?_
    | refine optAll_state (by assumption) ?_ | refine optAll_fst (by assumption) ?_

theorem State.domainSel_ev {s₀ : State} {s : State} (d : Nat) (hev : Evolves s₀ s) :
    Evolves s₀ (State.domainSel s d) := by
  unfold State.domainSel
  try dsimp only
  repeat' with_reducible first
    | assumption | apply State.setReg_ev | apply State.setForce_ev | apply State.tuWrite_ev | refine ev_ite ?_ ?_
    | refine ev_ite_fst ?_ ?_ | simp only [ev_mk] | split | intro _ | refine ev_of_eq (by assumption) ?_
    | refine optAll_state (by assumption) ?_ | refine optAll_fst (by assumption) ?_

theorem execDomainSelect_ev {s₀ : State} (o : Sys2Proof.Origin) (d : Fin 2) {s : State} (hev : Evolves s₀ s) :
    Leaves (Evolves s₀) (execDomainSelect o d s) := by
  unfold execDomainSelect
  try dsimp only
  repeat' with_reducible first
    | assumption | apply State.gate_ev | apply State.domainSel_ev | apply State.announce_ev | apply State.done_ev
    | refine leaves_next ?_ | refine leaves_out ?_ | intro _

theorem execLineLocked_ev {s₀ : State} {s : State} (hev : Evolves s₀ s) :
    Leaves (Evolves s₀) (execLineLocked s) := by
  unfold execLineLocked
  try dsimp only
  repeat' with_reducible first
    | assumption | apply State.lockUpdate_ev | apply State.announce_ev | refine leaves_next ?_ | refine leaves_out ?_
    | refine ev_ite ?_ ?_ | refine ev_ite_fst ?_ ?_ | refine leaves_ite ?_ ?_ | split

theorem State.alignWrite_ev {s₀ : State} {s : State} (hev : Evolves s₀ s) :
    Evolves s₀ (State.alignWrite s).1 := by
  unfold State.alignWrite
  try dsimp only
  repeat' with_reducible first
    | assumption | apply State.refuse_ev | apply State.tuWrite_ev | apply State.align_ev
    | apply State.done_ev | refine ev_ite ?_ ?_ | refine ev_ite_fst ?_ ?_ | simp only [ev_mk] | split | intro _
    | refine ev_of_eq (by assumption) ?_ | refine optAll_state (by assumption) ?_
    | refine optAll_fst (by assumption) ?_

theorem execAlign_ev {s₀ : State} {s : State} (o : Sys2Proof.Origin) (hev : Evolves s₀ s) :
    Leaves (Evolves s₀) (execAlign o s) := by
  unfold execAlign
  try dsimp only
  repeat' with_reducible first
    | assumption | apply State.gate_ev | apply State.alignWrite_ev | refine ev_ite ?_ ?_ | refine ev_ite_fst ?_ ?_
    | refine leaves_next ?_ | refine leaves_out ?_ | refine leaves_ite ?_ ?_ | simp only [ev_mk] | split | intro _
    | refine ev_of_eq (by assumption) ?_ | refine optAll_state (by assumption) ?_
    | refine optAll_fst (by assumption) ?_

theorem execSnap_ev {s₀ : State} {s : State} (o : Sys2Proof.Origin) (hev : Evolves s₀ s) :
    Leaves (Evolves s₀) (execSnap o s) := by
  unfold execSnap
  try dsimp only
  repeat' with_reducible first
    | assumption | apply State.gate_ev | apply State.tuWrite_ev | apply State.snap_ev | apply State.done_ev
    | refine ev_ite ?_ ?_ | refine ev_ite_fst ?_ ?_ | refine leaves_next ?_ | refine leaves_out ?_
    | refine leaves_ite ?_ ?_ | simp only [ev_mk] | split | intro _ | refine ev_of_eq (by assumption) ?_
    | refine optAll_state (by assumption) ?_ | refine optAll_fst (by assumption) ?_

theorem State.txStamp_ev {s₀ : State} {s : State} (port tag : Nat) (scale u : Nat) (hev : Evolves s₀ s) :
    Evolves s₀ (State.txStamp s port tag scale u) := by
  unfold State.txStamp
  try dsimp only
  repeat' with_reducible first
    | assumption | apply State.raise_ev | apply State.set_ev | refine ev_ite ?_ ?_ | split

theorem State.txTail_ev {s₀ : State} {s : State} (o : Sys2Proof.Origin) (v : Nat) (hev : Evolves s₀ s) :
    Evolves s₀ (State.txTail s o v).1 := by
  unfold State.txTail
  try dsimp only
  repeat' with_reducible first
    | assumption | apply State.gate_ev | apply State.set_ev | apply State.done_ev | apply State.refuse_ev
    | refine ev_ite ?_ ?_ | refine ev_ite_fst ?_ ?_ | split | intro _

theorem execTxstampTailWrite_ev {s₀ : State} (o : Sys2Proof.Origin) (v : Word) {s : State} (hev : Evolves s₀ s) :
    Leaves (Evolves s₀) (execTxstampTailWrite o v s) := by
  unfold execTxstampTailWrite
  try dsimp only
  repeat' with_reducible first
    | assumption | apply State.txTail_ev | refine leaves_next ?_ | refine leaves_out ?_

theorem State.modTpo_ev {s₀ : State} {s : State} (n : Nat) (f : Tpo → Tpo) (hev : Evolves s₀ s) :
    Evolves s₀ (State.modTpo s n f) := by
  unfold State.modTpo
  try dsimp only
  repeat' with_reducible first
    | assumption | apply State.modTime_ev | simp only [ev_mk] | intro _

theorem State.tpoSet_ev {s₀ : State} {s : State} (n : Nat) (on : Bool) (hev : Evolves s₀ s) :
    Evolves s₀ (State.tpoSet s n on) := by
  unfold State.tpoSet
  try dsimp only
  repeat' with_reducible first
    | assumption | apply State.set_ev | refine ev_ite ?_ ?_ | split

theorem State.tpoStop_ev {s₀ : State} {s : State} (n : Nat) (hev : Evolves s₀ s) :
    Evolves s₀ (State.tpoStop s n) := by
  unfold State.tpoStop
  try dsimp only
  repeat' with_reducible first
    | assumption | apply State.tpoSet_ev | apply State.modTpo_ev | simp only [ev_mk] | intro _

theorem State.tpoArm_ev {s₀ : State} {s : State} (n : Nat) (hev : Evolves s₀ s) :
    Evolves s₀ (State.tpoArm s n).1 := by
  unfold State.tpoArm
  try dsimp only
  repeat' with_reducible first
    | assumption | apply State.latchMask_ev | apply State.tpoSet_ev | apply State.refuse_ev | apply State.modTpo_ev
    | apply State.done_ev | apply State.raise_ev | refine ev_ite ?_ ?_ | refine ev_ite_fst ?_ ?_ | simp only [ev_mk]
    | split | intro _

theorem execTpoArm_ev {s₀ : State} (o : Sys2Proof.Origin) (n : Fin 8) {s : State} (hev : Evolves s₀ s) :
    Leaves (Evolves s₀) (execTpoArm o n s) := by
  unfold execTpoArm
  try dsimp only
  repeat' with_reducible first
    | assumption | apply State.gate_ev | apply State.done_ev | apply State.tpoArm_ev | refine leaves_next ?_
    | refine leaves_out ?_ | refine ev_ite ?_ ?_ | refine ev_ite_fst ?_ ?_ | refine leaves_ite ?_ ?_ | split
    | intro _

theorem execTpoStop_ev {s₀ : State} (o : Sys2Proof.Origin) (n : Fin 8) {s : State} (hev : Evolves s₀ s) :
    Leaves (Evolves s₀) (execTpoStop o n s) := by
  unfold execTpoStop
  try dsimp only
  repeat' with_reducible first
    | assumption | apply State.gate_ev | apply State.tpoStop_ev | apply State.done_ev | refine leaves_next ?_
    | refine leaves_out ?_ | intro _

theorem execTpoLeadingEdge_ev {s₀ : State} (n : Fin 8) {s : State} (hev : Evolves s₀ s) :
    Leaves (Evolves s₀) (execTpoLeadingEdge n s) := by
  unfold execTpoLeadingEdge
  try dsimp only
  repeat' with_reducible first
    | assumption | apply State.latchMask_ev | apply State.modTpo_ev | refine leaves_next ?_ | refine leaves_out ?_
    | refine ev_ite ?_ ?_ | refine ev_ite_fst ?_ ?_ | refine leaves_ite ?_ ?_ | simp only [ev_mk] | split | intro _
    | refine ev_of_eq (by assumption) ?_

theorem execTpoTrailingEdge_ev {s₀ : State} (n : Fin 8) {s : State} (hev : Evolves s₀ s) :
    Leaves (Evolves s₀) (execTpoTrailingEdge n s) := by
  unfold execTpoTrailingEdge
  try dsimp only
  repeat' with_reducible first
    | assumption | apply State.modTpo_ev | apply State.tpoSet_ev | refine leaves_next ?_ | refine leaves_out ?_
    | refine ev_ite ?_ ?_ | refine ev_ite_fst ?_ ?_ | refine leaves_ite ?_ ?_ | simp only [ev_mk] | split | intro _
    | refine ev_of_eq (by assumption) ?_

theorem State.tuHold_ev {s₀ : State} {s : State} (hev : Evolves s₀ s) :
    Evolves s₀ (State.tuHold s) := by
  unfold State.tuHold
  try dsimp only
  repeat' with_reducible first
    | assumption | apply State.tpoStop_ev | refine ev_foldl ?_ (fun _ _ _ => ?_) | intro _

theorem State.tuReset_ev {s₀ : State} {s : State} (hev : Evolves s₀ s) :
    Evolves s₀ (State.tuReset s) := by
  unfold State.tuReset
  try dsimp only
  repeat' with_reducible first
    | assumption | apply State.tuHold_ev | apply State.loseDomain_ev | apply State.holdover_ev
    | apply State.announce_ev | refine ev_ite ?_ ?_ | refine ev_ite_fst ?_ ?_ | simp only [ev_mk] | split | intro _
    | refine ev_of_eq (by assumption) ?_ | refine optAll_state (by assumption) ?_
    | refine optAll_fst (by assumption) ?_

theorem State.tuRestart_ev {s₀ : State} {s : State} (hev : Evolves s₀ s) :
    Evolves s₀ (State.tuRestart s) := by
  unfold State.tuRestart
  try dsimp only
  repeat' with_reducible first
    | assumption | apply State.modTime_ev | simp only [ev_mk] | intro _

theorem State.tuBivouac_ev {s₀ : State} {s : State} (hev : Evolves s₀ s) :
    Evolves s₀ (State.tuBivouac s) := by
  unfold State.tuBivouac
  try dsimp only
  repeat' with_reducible first
    | assumption | apply State.modTime_ev | apply State.tuHold_ev | refine ev_ite ?_ ?_ | simp only [ev_mk] | split
    | intro _

end Sys2Proof.Machine
end

