-- ==== Sys2Proof/Laws/EvolveTableOps.lean ====
section
/-!
SUPPORT. What the definitions of Machine/TableOps.lean keep.
-/

namespace Sys2Proof.Machine

set_option linter.all false

theorem State.modTab_ev {s₀ : State} {s : State} (t : Nat) (f : EmtTab → EmtTab) (hev : Evolves s₀ s) :
    Evolves s₀ (State.modTab s t f) := by
  unfold State.modTab
  try dsimp only
  repeat' with_reducible first
    | assumption | simp only [ev_mk]

theorem State.syncTab_ev {s₀ : State} {s : State} (t : Nat) (hev : Evolves s₀ s) :
    Evolves s₀ (State.syncTab s t) := by
  unfold State.syncTab
  try dsimp only
  repeat' with_reducible first
    | assumption | apply State.set_ev | intro _

theorem State.putSlot_ev {s₀ : State} {s : State} (t i : Nat) (e : List Byte) (h : Bool) (hev : Evolves s₀ s) :
    Evolves s₀ (State.putSlot s t i e h) := by
  unfold State.putSlot
  try dsimp only
  repeat' with_reducible first
    | assumption | apply State.modTab_ev | apply State.syncTab_ev | refine ev_ite ?_ ?_ | simp only [ev_mk] | split
    | intro _

theorem State.clearSlot_ev {s₀ : State} {s : State} (t i : Nat) (hev : Evolves s₀ s) :
    Evolves s₀ (State.clearSlot s t i) := by
  unfold State.clearSlot
  try dsimp only
  repeat' with_reducible first
    | assumption | apply State.modTab_ev | apply State.syncTab_ev | simp only [ev_mk] | intro _

theorem State.moveSlot_ev {s₀ : State} {s : State} (t i j : Nat) (hev : Evolves s₀ s) :
    Evolves s₀ (State.moveSlot s t i j) := by
  unfold State.moveSlot
  try dsimp only
  repeat' with_reducible first
    | assumption | apply State.putSlot_ev | apply State.clearSlot_ev | simp only [ev_mk] | split
    | refine ev_of_eq (by assumption) ?_

theorem runChain_ev {s₀ : State} (t : Nat) (n0 : List Nat) (n1 : Nat) {s : State} (hev : Evolves s₀ s) :
    Evolves s₀ (runChain t n0 n1 s) := by
  induction n0 generalizing s n1 with
  | nil =>
    unfold runChain
    repeat' with_reducible first
      | assumption | apply State.moveSlot_ev
  | cons x l ih =>
    unfold runChain
    repeat' with_reducible first
      | assumption | apply ih | apply State.moveSlot_ev

theorem State.emtEvent_ev {s₀ : State} {s : State} (n detail : Nat) (hev : Evolves s₀ s) :
    Evolves s₀ (State.emtEvent s n detail) := by
  unfold State.emtEvent
  try dsimp only
  repeat' with_reducible first
    | assumption | apply State.raiseHeld_ev

theorem State.tcmEvent_ev {s₀ : State} {s : State} (n detail : Nat) (hev : Evolves s₀ s) :
    Evolves s₀ (State.tcmEvent s n detail) := by
  unfold State.tcmEvent
  try dsimp only
  repeat' with_reducible first
    | assumption | apply State.raiseHeld_ev

theorem State.loseBuckets_ev {s₀ : State} {s : State} (t : Nat) (bs : List Nat) (hev : Evolves s₀ s) :
    Evolves s₀ (State.loseBuckets s t bs) := by
  unfold State.loseBuckets
  try dsimp only
  repeat' with_reducible first
    | assumption | apply State.modTab_ev | apply State.syncTab_ev 
    | apply State.uncorrectable_ev | apply State.emtEvent_ev | refine ev_ite ?_ ?_
    | refine ev_ite_fst ?_ ?_ | refine ev_foldl ?_ (fun _ _ _ => ?_) | refine ev_foldl_fst ?_ (fun _ _ _ => ?_)
    | simp only [ev_mk] | split | intro _ | refine ev_of_eq (by assumption) ?_
    | refine optAll_state (by assumption) ?_ | refine optAll_fst (by assumption) ?_

theorem State.find_ev {s₀ : State} {s : State} (t : Nat) (key : List Byte) (bad : List Nat) (hev : Evolves s₀ s) :
    Evolves s₀ (State.find s t key bad).1 := by
  unfold State.find
  try dsimp only
  repeat' with_reducible first
    | assumption | apply State.candidates_ev | apply stashBase_ev | apply State.loseBuckets_ev | apply State.slotOf_ev
    | apply State.parityMode_ev | apply oddParity_ev | apply State.emtEvent_ev | apply State.tabDetail_ev
    | refine ev_ite ?_ ?_ | refine ev_ite_fst ?_ ?_ | simp only [ev_mk] | split | intro _
    | refine ev_of_eq (by assumption) ?_ | refine optAll_state (by assumption) ?_
    | refine optAll_fst (by assumption) ?_

theorem State.engine_ev {s₀ : State} {s : State} (t : Nat) (e : List Byte) (hit : Bool) (bad : List Nat) (hev : Evolves s₀ s) :
    Evolves s₀ (State.engine s t e hit bad).1 := by
  unfold State.engine
  try dsimp only
  repeat' with_reducible first
    | assumption | apply State.putSlot_ev
    | apply State.loseBuckets_ev 
    | apply runChain_ev | refine ev_ite ?_ ?_ | refine ev_ite_fst ?_ ?_
    | simp only [ev_mk] | split | intro _ | refine ev_of_eq (by assumption) ?_
    | refine optAll_state (by assumption) ?_ | refine optAll_fst (by assumption) ?_

theorem State.place_ev {s₀ : State} {s : State} (t : Nat) (e : List Byte) (hit : Bool) (bad : List Nat) (hev : Evolves s₀ s) :
    Evolves s₀ (State.place s t e hit bad).1 := by
  unfold State.place
  try dsimp only
  repeat' with_reducible first
    | assumption | apply State.engine_ev | apply State.emtEvent_ev | refine ev_ite ?_ ?_ | refine ev_ite_fst ?_ ?_
    | split | refine ev_of_eq (by assumption) ?_

theorem State.migrateOne_ev {s₀ : State} {s : State} (t i : Nat) (hev : Evolves s₀ s) :
    Evolves s₀ (State.migrateOne s t i) := by
  unfold State.migrateOne
  try dsimp only
  repeat' with_reducible first
    | assumption | apply State.moveSlot_ev | simp only [ev_mk] | split | refine ev_of_eq (by assumption) ?_

theorem State.migrate_ev {s₀ : State} {s : State} (t : Nat) (hev : Evolves s₀ s) :
    Evolves s₀ (State.migrate s t) := by
  unfold State.migrate
  try dsimp only
  repeat' with_reducible first
    | assumption | apply State.migrateOne_ev | refine ev_foldl ?_ (fun _ _ _ => ?_) | intro _

theorem State.own_ev {s₀ : State} {s : State} (t k : Nat) (key : List Byte) (hev : Evolves s₀ s) :
    Evolves s₀ (State.own s t k key) := by
  unfold State.own
  try dsimp only
  repeat' with_reducible first
    | assumption | apply State.modTab_ev | apply State.set_ev | simp only [ev_mk] | intro _

theorem State.disown_ev {s₀ : State} {s : State} (t : Nat) (key : List Byte) (hev : Evolves s₀ s) :
    Evolves s₀ (State.disown s t key) := by
  unfold State.disown
  try dsimp only
  repeat' with_reducible first
    | assumption | apply State.modTab_ev | apply State.set_ev | simp only [ev_mk] | split | intro _
    | refine ev_of_eq (by assumption) ?_

theorem State.emtInsert_ev {s₀ : State} {s : State} (by_ : Option Nat) (t : Nat) (e : List Byte) (bad : List Nat) (hev : Evolves s₀ s) :
    Evolves s₀ (State.emtInsert s by_ t e bad).1 := by
  unfold State.emtInsert
  try dsimp only
  repeat' with_reducible first
    | assumption | apply State.tKind_ev | apply forceEntry_ev | apply emWRONG_MODE_ev | apply State.entryOk_ev
    | apply emBAD_ENTRY_ev | apply State.find_ev | apply emOK_ev | apply emKEY_EXISTS_ev | apply State.quotaLimit_ev
    | apply emQUOTA_ev | apply State.place_ev | apply State.own_ev | refine ev_ite ?_ ?_ | refine ev_ite_fst ?_ ?_
    | simp only [ev_mk] | split | intro _ | refine ev_of_eq (by assumption) ?_
    | refine optAll_state (by assumption) ?_ | refine optAll_fst (by assumption) ?_

theorem State.emtDelete_ev {s₀ : State} {s : State} (by_ : Option Nat) (t : Nat) (e : List Byte) (bad : List Nat) (hev : Evolves s₀ s) :
    Evolves s₀ (State.emtDelete s by_ t e bad).1 := by
  unfold State.emtDelete
  try dsimp only
  repeat' with_reducible first
    | assumption | apply State.tKind_ev | apply emWRONG_MODE_ev | apply State.find_ev | apply emNOT_FOUND_ev
    | apply mayChange_ev | apply State.clearSlot_ev | apply State.disown_ev | apply State.migrate_ev | apply emOK_ev
    | apply emNOT_OWNER_ev | refine ev_ite ?_ ?_ | refine ev_ite_fst ?_ ?_ | simp only [ev_mk] | split | intro _
    | refine ev_of_eq (by assumption) ?_ | refine optAll_state (by assumption) ?_
    | refine optAll_fst (by assumption) ?_

theorem State.emtModify_ev {s₀ : State} {s : State} (by_ : Option Nat) (t : Nat) (e : List Byte) (bad : List Nat) (hev : Evolves s₀ s) :
    Evolves s₀ (State.emtModify s by_ t e bad).1 := by
  unfold State.emtModify
  try dsimp only
  repeat' with_reducible first
    | assumption | apply State.tKind_ev | apply forceEntry_ev | apply emWRONG_MODE_ev | apply State.entryOk_ev
    | apply emBAD_ENTRY_ev | apply State.find_ev | apply emNOT_FOUND_ev | apply mayChange_ev | apply State.putSlot_ev
    | apply State.tab_ev | apply emOK_ev | apply emNOT_OWNER_ev | refine ev_ite ?_ ?_ | refine ev_ite_fst ?_ ?_
    | simp only [ev_mk] | split | intro _ | refine ev_of_eq (by assumption) ?_
    | refine optAll_state (by assumption) ?_ | refine optAll_fst (by assumption) ?_

theorem State.emtLookup_ev {s₀ : State} {s : State} (t : Nat) (e : List Byte) (bad : List Nat) (hev : Evolves s₀ s) :
    Evolves s₀ (State.emtLookup s t e bad).1 := by
  unfold State.emtLookup
  try dsimp only
  repeat' with_reducible first
    | assumption | apply State.find_ev | apply State.tKind_ev | apply emOK_ev | apply State.tab_ev
    | apply emNOT_FOUND_ev | refine ev_ite ?_ ?_ | refine ev_ite_fst ?_ ?_ | simp only [ev_mk] | split | intro _
    | refine ev_of_eq (by assumption) ?_ | refine optAll_state (by assumption) ?_
    | refine optAll_fst (by assumption) ?_

theorem State.lookup_ev {s₀ : State} {s : State} (t : Nat) (key : List Byte) (sets : Bool) (bad : List (Nat × Nat)) (hev : Evolves s₀ s) :
    Evolves s₀ (State.lookup s t key sets bad).1 := by
  unfold State.lookup
  try dsimp only
  repeat' with_reducible first
    | assumption | apply State.find_ev | apply State.modTab_ev | refine ev_ite ?_ ?_ | refine ev_ite_fst ?_ ?_
    | simp only [ev_mk] | split | intro _ | refine ev_of_eq (by assumption) ?_
    | refine optAll_state (by assumption) ?_ | refine optAll_fst (by assumption) ?_

theorem State.putVerified_ev {s₀ : State} {s : State} (p i : Nat) (e : TEntry) (hev : Evolves s₀ s) :
    Evolves s₀ (State.putVerified s p i e) := by
  unfold State.putVerified
  try dsimp only
  repeat' with_reducible first
    | assumption | refine ev_ite ?_ ?_ | refine ev_ite_fst ?_ ?_ | simp only [ev_mk] | split | intro _
    | refine ev_of_eq (by assumption) ?_ | refine optAll_state (by assumption) ?_
    | refine optAll_fst (by assumption) ?_

theorem State.putArray_ev {s₀ : State} {s : State} (p c i : Nat) (e : TEntry) (hev : Evolves s₀ s) :
    Evolves s₀ (State.putArray s p c i e) := by
  unfold State.putArray
  try dsimp only
  repeat' with_reducible first
    | assumption | refine ev_ite ?_ ?_ | refine ev_ite_fst ?_ ?_
    | simp only [ev_mk] | split | intro _ | refine ev_of_eq (by assumption) ?_
    | refine optAll_state (by assumption) ?_ | refine optAll_fst (by assumption) ?_

theorem State.repair_ev {s₀ : State} {s : State} (p c i : Nat) (hev : Evolves s₀ s) :
    Evolves s₀ (State.repair s p c i) := by
  unfold State.repair
  try dsimp only
  repeat' with_reducible first
    | assumption | simp only [ev_mk]

theorem State.copyError_ev {s₀ : State} {s : State} (r p i : Nat) (hev : Evolves s₀ s) :
    Evolves s₀ (State.copyError s r p i) := by
  unfold State.copyError
  try dsimp only
  repeat' with_reducible first
    | assumption | apply State.putArray_ev 
    | apply State.putVerified_ev | apply State.tcmEvent_ev | refine ev_ite ?_ ?_
    | refine ev_ite_fst ?_ ?_ | refine ev_foldl ?_ (fun _ _ _ => ?_) | refine ev_foldl_fst ?_ (fun _ _ _ => ?_)
    | simp only [ev_mk] | split | intro _ | refine ev_of_eq (by assumption) ?_
    | refine optAll_state (by assumption) ?_ | refine optAll_fst (by assumption) ?_

theorem State.verifyOne_ev {s₀ : State} {s : State} (r p c i key : Nat) (vbad : List (Nat × Nat)) (hev : Evolves s₀ s) :
    Evolves s₀ (State.verifyOne s r p c i key vbad).1 := by
  unfold State.verifyOne
  try dsimp only
  repeat' with_reducible first
    | assumption | apply State.copyError_ev | apply State.repair_ev | refine ev_ite ?_ ?_ | refine ev_ite_fst ?_ ?_
    | split

theorem State.search_ev {s₀ : State} {s : State} (p r key : Nat) (late : Bool) (vbad : List (Nat × Nat)) (hev : Evolves s₀ s) :
    Evolves s₀ (State.search s p r key late vbad).1 := by
  unfold State.search
  try dsimp only
  repeat' with_reducible first
    | assumption | apply State.bump_ev | apply State.tcmEvent_ev | apply State.verifyOne_ev | refine ev_ite ?_ ?_
    | refine ev_ite_fst ?_ ?_ | simp only [ev_mk] | split | refine ev_of_eq (by assumption) ?_

theorem State.tcamPut_ev {s₀ : State} {s : State} (p i : Nat) (e : TEntry) (hev : Evolves s₀ s) :
    Evolves s₀ (State.tcamPut s p i e) := by
  unfold State.tcamPut
  try dsimp only
  repeat' with_reducible first
    | assumption | apply State.putVerified_ev | refine ev_ite ?_ ?_
    | refine ev_ite_fst ?_ ?_ | simp only [ev_mk] | split | intro _ | refine ev_of_eq (by assumption) ?_
    | refine optAll_state (by assumption) ?_ | refine optAll_fst (by assumption) ?_

theorem State.tcamClear_ev {s₀ : State} {s : State} (p i : Nat) (hev : Evolves s₀ s) :
    Evolves s₀ (State.tcamClear s p i) := by
  unfold State.tcamClear
  try dsimp only
  repeat' with_reducible first
    | assumption | apply State.tcamPut_ev | refine ev_ite ?_ ?_ | refine ev_ite_fst ?_ ?_
    | simp only [ev_mk] | split | intro _ | refine ev_of_eq (by assumption) ?_
    | refine optAll_state (by assumption) ?_ | refine optAll_fst (by assumption) ?_

theorem State.arrayTake_ev {s₀ : State} {s : State} (p c i : Nat) (hev : Evolves s₀ s) :
    Evolves s₀ (State.arrayTake s p c i) := by
  unfold State.arrayTake
  try dsimp only
  repeat' with_reducible first
    | assumption | apply State.putArray_ev | refine ev_ite ?_ ?_ | refine ev_ite_fst ?_ ?_
    | simp only [ev_mk] | split | intro _ | refine ev_of_eq (by assumption) ?_
    | refine optAll_state (by assumption) ?_ | refine optAll_fst (by assumption) ?_

end Sys2Proof.Machine
end

