-- ==== Sys2Proof/Laws/EvolvePipeOps.lean ====
section
/-!
SUPPORT. What the definitions of Machine/PipeOps.lean keep.
-/

namespace Sys2Proof.Machine

set_option linter.all false

theorem State.lookupIn_ev {s₀ : State} {s : State} (r kind : Nat) (key : List Byte) (sets : Bool) (bad : List (Nat × Nat)) (hev : Evolves s₀ s) :
    Evolves s₀ (State.lookupIn s r kind key sets bad).1 := by
  unfold State.lookupIn
  try dsimp only
  repeat' with_reducible first
    | assumption | apply State.lookup_ev | simp only [ev_mk] | split | intro _ | refine ev_of_eq (by assumption) ?_

theorem State.searchIn_ev {s₀ : State} {s : State} (p : Option Nat) (r key : Nat) (late : Bool) (vbad : List (Nat × Nat)) (hev : Evolves s₀ s) :
    Evolves s₀ (State.searchIn s p r key late vbad).1 := by
  unfold State.searchIn
  try dsimp only
  repeat' with_reducible first
    | assumption | apply State.search_ev | simp only [ev_mk] | split | intro _ | refine ev_of_eq (by assumption) ?_

theorem State.nextHop_ev {s₀ : State} {s : State} (h : Head) (n : Nat) (hev : Evolves s₀ s) :
    Evolves s₀ (State.nextHop s h n).1 := by
  unfold State.nextHop
  try dsimp only
  repeat' with_reducible first
    | assumption | apply State.bump_ev | refine ev_ite ?_ ?_ | refine ev_ite_fst ?_ ?_ | simp only [ev_mk] | split
    | refine ev_of_eq (by assumption) ?_

theorem State.routeBy_ev {s₀ : State} {s : State} (h : Head) (lpm : Option Nat) (hev : Evolves s₀ s) :
    Evolves s₀ (State.routeBy s h lpm).1 := by
  unfold State.routeBy
  try dsimp only
  repeat' with_reducible first
    | assumption | apply State.nextHop_ev | apply State.bump_ev | refine ev_ite ?_ ?_ | refine ev_ite_fst ?_ ?_
    | simp only [ev_mk] | split | refine ev_of_eq (by assumption) ?_

theorem State.bridgeBy_ev {s₀ : State} {s : State} (h : Head) (hit : Option (List Byte)) (hev : Evolves s₀ s) :
    Evolves s₀ (State.bridgeBy s h hit).1 := by
  unfold State.bridgeBy
  try dsimp only
  repeat' with_reducible first
    | assumption | apply State.set_ev | refine ev_ite ?_ ?_ | refine ev_ite_fst ?_ ?_ | simp only [ev_mk] | split
    | refine ev_of_eq (by assumption) ?_

theorem State.spreadBy_ev {s₀ : State} {s : State} (h : Head) (k hash : Nat) (hev : Evolves s₀ s) :
    Evolves s₀ (State.spreadBy s h k hash).1 := by
  unfold State.spreadBy
  try dsimp only
  repeat' with_reducible first
    | assumption | apply State.nextHop_ev | simp only [ev_mk] | split | refine ev_of_eq (by assumption) ?_

theorem State.forward_ev {s₀ : State} {s : State} (h : Head) (k : Looked) (hev : Evolves s₀ s) :
    Evolves s₀ (State.forward s h k).1 := by
  unfold State.forward
  try dsimp only
  repeat' with_reducible first
    | assumption | apply State.routeBy_ev | apply State.bridgeBy_ev | refine ev_ite ?_ ?_ | refine ev_ite_fst ?_ ?_
    | split

theorem State.byWord_ev {s₀ : State} {s : State} (h : Head) (k : Looked) (w hash : Nat) (hev : Evolves s₀ s) :
    Evolves s₀ (State.byWord s h k w hash).1 := by
  unfold State.byWord
  try dsimp only
  repeat' with_reducible first
    | assumption | apply State.forward_ev | apply State.spreadBy_ev | refine ev_ite ?_ ?_ | refine ev_ite_fst ?_ ?_
    | simp only [ev_mk] | split | refine ev_of_eq (by assumption) ?_

theorem State.resolve_ev {s₀ : State} {s : State} (h : Head) (k : Looked) (hash : Nat) (hev : Evolves s₀ s) :
    Evolves s₀ (State.resolve s h k hash).1 := by
  unfold State.resolve
  try dsimp only
  repeat' with_reducible first
    | assumption | apply State.byWord_ev | apply State.forward_ev | refine ev_ite ?_ ?_ | refine ev_ite_fst ?_ ?_
    | simp only [ev_mk] | split | refine ev_of_eq (by assumption) ?_

theorem State.recoverSeq_ev {s₀ : State} {s : State} (r i e : Nat) (p : Parsed) (hev : Evolves s₀ s) :
    Evolves s₀ (State.recoverSeq s r i e p).1 := by
  unfold State.recoverSeq
  try dsimp only
  repeat' with_reducible first
    | assumption | apply State.bump_ev | apply State.set_ev | refine ev_ite ?_ ?_ | refine ev_ite_fst ?_ ?_
    | simp only [ev_mk] | split | refine ev_of_eq (by assumption) ?_

theorem State.police_ev {s₀ : State} {s : State} (r n len : Nat) (hev : Evolves s₀ s) :
    Evolves s₀ (State.police s r n len).1 := by
  unfold State.police
  try dsimp only
  repeat' with_reducible first
    | assumption | apply State.bump_ev | refine ev_ite ?_ ?_ | refine ev_ite_fst ?_ ?_ | simp only [ev_mk] | split

theorem State.resetPolicer_ev {s₀ : State} {s : State} (key : Nat) (hev : Evolves s₀ s) :
    Evolves s₀ (State.resetPolicer s key) := by
  unfold State.resetPolicer
  try dsimp only
  repeat' with_reducible first
    | assumption | simp only [ev_mk]

theorem State.learnFrom_ev {s₀ : State} {s : State} (h : Head) (id : Nat) (fcs : Option Bool) (off dropped1 : Bool) (found : Option (Nat × Nat × List Byte)) (key : List Byte) (hev : Evolves s₀ s) :
    Evolves s₀ (State.learnFrom s h id fcs off dropped1 found key) := by
  unfold State.learnFrom
  try dsimp only
  repeat' with_reducible first
    | assumption | apply State.bump_ev | apply State.emtEvent_ev | apply State.modTab_ev | refine ev_ite ?_ ?_
    | simp only [ev_mk] | split | intro _ | refine ev_of_eq (by assumption) ?_

theorem State.headLatch_ev {s₀ : State} {s : State} (r i : Nat) (hev : Evolves s₀ s) :
    Evolves s₀ (State.headLatch s r i) := by
  unfold State.headLatch
  try dsimp only
  repeat' with_reducible first
    | assumption | apply State.latchMask_ev | apply State.resetPolicer_ev | simp only [ev_mk]
    | refine ev_foldl ?_ (fun _ _ _ => ?_) | intro _

end Sys2Proof.Machine
end

