-- ==== Sys2Proof/Laws/EvolveTmOps.lean ====
section
/-!
SUPPORT. What the definitions of Machine/TmOps.lean keep.
-/

namespace Sys2Proof.Machine

set_option linter.all false

theorem State.leave_ev {s₀ : State} {s : State} (p : Nat) (f : TmFrame) (hev : Evolves s₀ s) :
    Evolves s₀ (State.leave s p f) := by
  unfold State.leave
  try dsimp only
  repeat' with_reducible first
    | assumption | apply State.txStamp_ev | apply State.sendFrame_ev | apply State.tickFree_ev | refine ev_ite ?_ ?_
    | simp only [ev_mk] | split | intro _ | refine ev_of_eq (by assumption) ?_

theorem State.setTmq_ev {s₀ : State} {s : State} (q : Nat) (l : List TmFrame) (hev : Evolves s₀ s) :
    Evolves s₀ (State.setTmq s q l) := by
  unfold State.setTmq
  try dsimp only
  repeat' with_reducible first
    | assumption | simp only [ev_mk]

theorem State.queueIdle_ev {s₀ : State} {s : State} (q : Nat) (hev : Evolves s₀ s) :
    Evolves s₀ (State.queueIdle s q) := by
  unfold State.queueIdle
  try dsimp only
  repeat' with_reducible first
    | assumption | apply State.latchB_ev | refine ev_ite ?_ ?_ | split | intro _

theorem State.putClassTokens_ev {s₀ : State} {s : State} (p c : Nat) (t : Tokens) (hev : Evolves s₀ s) :
    Evolves s₀ (State.putClassTokens s p c t) := by
  unfold State.putClassTokens
  try dsimp only
  repeat' with_reducible first
    | assumption | simp only [ev_mk]

theorem State.putQueueTokens_ev {s₀ : State} {s : State} (q : Nat) (t : Tokens) (hev : Evolves s₀ s) :
    Evolves s₀ (State.putQueueTokens s q t) := by
  unfold State.putQueueTokens
  try dsimp only
  repeat' with_reducible first
    | assumption | simp only [ev_mk]

theorem State.cycleCharge_ev {s₀ : State} {s : State} (p : Nat) (f : List Byte) (hev : Evolves s₀ s) :
    Evolves s₀ (State.cycleCharge s p f) := by
  unfold State.cycleCharge
  try dsimp only
  repeat' with_reducible first
    | assumption | apply State.putClassTokens_ev | refine ev_ite ?_ ?_ | refine ev_ite_fst ?_ ?_ | simp only [ev_mk]
    | split | intro _ | refine ev_of_eq (by assumption) ?_ | refine optAll_state (by assumption) ?_
    | refine optAll_fst (by assumption) ?_

theorem State.shapersTake_ev {s₀ : State} {s : State} (p : Nat → Bool) (hev : Evolves s₀ s) :
    Evolves s₀ (State.shapersTake s p) := by
  unfold State.shapersTake
  try dsimp only
  repeat' with_reducible first
    | assumption | apply State.putClassTokens_ev | apply State.putQueueTokens_ev | refine ev_ite ?_ ?_
    | refine ev_ite_fst ?_ ?_ | refine ev_foldl ?_ (fun _ _ _ => ?_) | refine ev_foldl_fst ?_ (fun _ _ _ => ?_)
    | simp only [ev_mk] | split | intro _ | refine ev_of_eq (by assumption) ?_
    | refine optAll_state (by assumption) ?_ | refine optAll_fst (by assumption) ?_

theorem State.setCls_ev {s₀ : State} {s : State} (p c : Nat) (x : ClassSt) (hev : Evolves s₀ s) :
    Evolves s₀ (State.setCls s p c x) := by
  unfold State.setCls
  try dsimp only
  repeat' with_reducible first
    | assumption | simp only [ev_mk]

theorem State.leaveRing_ev {s₀ : State} {s : State} (p c q : Nat) (hev : Evolves s₀ s) :
    Evolves s₀ (State.leaveRing s p c q) := by
  unfold State.leaveRing
  try dsimp only
  repeat' with_reducible first
    | assumption | apply State.setCls_ev | simp only [ev_mk] | intro _

theorem State.joinRing_ev {s₀ : State} {s : State} (p c q : Nat) (hev : Evolves s₀ s) :
    Evolves s₀ (State.joinRing s p c q) := by
  unfold State.joinRing
  try dsimp only
  repeat' with_reducible first
    | assumption | apply State.setCls_ev | refine ev_ite ?_ ?_ | simp only [ev_mk] | split | intro _

theorem State.tidy_ev {s₀ : State} {s : State} (p : Nat) (hev : Evolves s₀ s) :
    Evolves s₀ (State.tidy s p) := by
  unfold State.tidy
  try dsimp only
  repeat' with_reducible first
    | assumption | apply State.leaveRing_ev | apply State.queueIdle_ev | apply State.joinRing_ev
    | refine ev_ite ?_ ?_ | refine ev_foldl ?_ (fun _ _ _ => ?_) | split | intro _

theorem State.served_ev {s₀ : State} {s : State} (p c : Nat) (x : ClassSlice) (q : Nat) (ring : List (Nat × Int)) (hev : Evolves s₀ s) :
    Evolves s₀ (State.served s p c x q ring) := by
  unfold State.served
  try dsimp only
  repeat' with_reducible first
    | assumption | apply State.setCls_ev | refine ev_ite ?_ ?_ | simp only [ev_mk] | split | intro _

theorem State.tmEvent_ev {s₀ : State} {s : State} (n detail : Nat) (hev : Evolves s₀ s) :
    Evolves s₀ (State.tmEvent s n detail) := by
  unfold State.tmEvent
  try dsimp only
  repeat' with_reducible first
    | assumption | apply State.raiseHeld_ev

theorem State.toTm_ev {s₀ : State} {s : State} (q : Nat) (f : List Byte) (stampTag : Option Nat) (oneStep : Bool) (hev : Evolves s₀ s) :
    Evolves s₀ (State.toTm s q f stampTag oneStep) := by
  unfold State.toTm
  try dsimp only
  repeat' with_reducible first
    | assumption | simp only [ev_mk]

theorem State.freeInput_ev {s₀ : State} {s : State} (f : TmFrame) (hev : Evolves s₀ s) :
    Evolves s₀ (State.freeInput s f) := by
  unfold State.freeInput
  try dsimp only
  repeat' with_reducible first
    | assumption | apply State.freeCells_ev | simp only [ev_mk] | split | refine ev_of_eq (by assumption) ?_

theorem State.tmDrop_ev {s₀ : State} {s : State} (f : TmFrame) (c : Fld) (hev : Evolves s₀ s) :
    Evolves s₀ (State.tmDrop s f c) := by
  unfold State.tmDrop
  try dsimp only
  repeat' with_reducible first
    | assumption | apply State.freeInput_ev | apply State.bump_ev

theorem State.enqueue_ev {s₀ : State} {s : State} (f : TmFrame) (hev : Evolves s₀ s) :
    Evolves s₀ (State.enqueue s f) := by
  unfold State.enqueue
  try dsimp only
  repeat' with_reducible first
    | assumption | apply State.tmDrop_ev | apply State.bump_ev | apply State.tmEvent_ev | apply State.freeInput_ev
    | apply State.setTmq_ev | apply State.leaveRing_ev | apply State.joinRing_ev | refine ev_ite ?_ ?_
    | simp only [ev_mk] | split

theorem State.decisionLatch_ev {s₀ : State} {s : State} (p : Nat) (hev : Evolves s₀ s) :
    Evolves s₀ (State.decisionLatch s p) := by
  unfold State.decisionLatch
  try dsimp only
  repeat' with_reducible first
    | assumption | apply State.latchMask_ev | apply State.shapersTake_ev | refine ev_ite ?_ ?_
    | refine ev_ite_fst ?_ ?_ | simp only [ev_mk] | split | intro _ | refine ev_of_eq (by assumption) ?_
    | refine optAll_state (by assumption) ?_ | refine optAll_fst (by assumption) ?_

theorem State.dropLong_ev {s₀ : State} {s : State} (p c : Nat) (n0 : Nat) (n1 : Nat) (hev : Evolves s₀ s) :
    Evolves s₀ (State.dropLong s p c n0 n1) := by
  induction n0 generalizing s n1 with
  | zero =>
    unfold State.dropLong
    repeat' with_reducible first
      | assumption | apply State.setTmq_ev | apply State.bump_ev | apply State.tmEvent_ev | refine ev_ite ?_ ?_
      | simp only [ev_mk] | split | refine ev_of_eq (by assumption) ?_
  | succ n ih =>
    unfold State.dropLong
    repeat' with_reducible first
      | assumption | apply ih | apply State.setTmq_ev | apply State.bump_ev | apply State.tmEvent_ev
      | refine ev_ite ?_ ?_ | simp only [ev_mk] | split | refine ev_of_eq (by assumption) ?_

theorem State.take_ev {s₀ : State} {s : State} (p c : Nat) (y : ClassSlice) (q : Nat) (ring : List (Nat × Int)) (hev : Evolves s₀ s) :
    Evolves s₀ (State.take s p c y q ring) := by
  unfold State.take
  try dsimp only
  repeat' with_reducible first
    | assumption | apply State.putClassTokens_ev | apply State.putQueueTokens_ev | apply State.latchB_ev
    | apply State.setTmq_ev | apply State.served_ev | apply State.queueIdle_ev | refine ev_ite ?_ ?_
    | simp only [ev_mk] | split | intro _ | refine ev_of_eq (by assumption) ?_

theorem State.tmTakeAll_ev {s₀ : State} {s : State} (hev : Evolves s₀ s) :
    Evolves s₀ (State.tmTakeAll s) := by
  unfold State.tmTakeAll
  try dsimp only
  repeat' with_reducible first
    | assumption | apply State.shapersTake_ev | apply State.resetPolicer_ev | refine ev_ite ?_ ?_
    | refine ev_ite_fst ?_ ?_ | refine ev_foldl ?_ (fun _ _ _ => ?_) | refine ev_foldl_fst ?_ (fun _ _ _ => ?_)
    | simp only [ev_mk] | split | intro _ | refine ev_of_eq (by assumption) ?_
    | refine optAll_state (by assumption) ?_ | refine optAll_fst (by assumption) ?_

theorem State.tmReset_ev {s₀ : State} {s0 : State} (hev : Evolves s₀ s0) :
    Evolves s₀ (State.tmReset s0) := by
  unfold State.tmReset
  try dsimp only
  repeat' with_reducible first
    | assumption | apply State.flushUnit_ev | apply State.tmTakeAll_ev | apply State.set_ev | apply State.queueIdle_ev
    | apply State.putClassTokens_ev | apply State.shReset_ev | apply State.classShaper_ev
    | apply State.putQueueTokens_ev | apply State.queueShaper_ev | apply State.resetPolicer_ev | refine ev_ite ?_ ?_
    | refine ev_ite_fst ?_ ?_ | refine ev_foldl ?_ (fun _ _ _ => ?_) | refine ev_foldl_fst ?_ (fun _ _ _ => ?_)
    | simp only [ev_mk] | split | intro _ | refine ev_of_eq (by assumption) ?_
    | refine optAll_state (by assumption) ?_ | refine optAll_fst (by assumption) ?_

end Sys2Proof.Machine
end

