-- ==== Sys2Proof/Laws/EvolveCyclic.lean ====
section
/-!
SUPPORT. What the definitions of Machine/Cyclic.lean keep.
-/

namespace Sys2Proof.Machine

set_option linter.all false

theorem State.ropeLatch_ev {s₀ : State} {s : State} (r : Nat) (pause : Bool) (hev : Evolves s₀ s) :
    Evolves s₀ (State.ropeLatch s r pause) := by
  unfold State.ropeLatch
  try dsimp only
  repeat' with_reducible first
    | assumption | apply State.cxeMask_ev | apply pauseMask_ev | apply State.planMoves_ev
    | apply State.latchChecked_ev | apply tmRopeMask_ev | apply State.windowsBad_ev | refine ev_ite ?_ ?_
    | refine ev_ite_fst ?_ ?_ | simp only [ev_mk] | split | intro _ | refine ev_of_eq (by assumption) ?_
    | refine optAll_state (by assumption) ?_ | refine optAll_fst (by assumption) ?_

theorem State.dropFrames_ev {s₀ : State} {s : State} (r : Nat) (hev : Evolves s₀ s) :
    Evolves s₀ (State.dropFrames s r) := by
  unfold State.dropFrames
  try dsimp only
  repeat' with_reducible first
    | assumption | apply State.modTime_ev | simp only [ev_mk] | split | intro _

theorem State.dropReplies_ev {s₀ : State} {s : State} (r : Nat) (hev : Evolves s₀ s) :
    Evolves s₀ (State.dropReplies s r) := by
  unfold State.dropReplies
  try dsimp only
  repeat' with_reducible first
    | assumption | apply State.freeCells_ev | simp only [ev_mk] | refine ev_foldl ?_ (fun _ _ _ => ?_) | intro _

theorem State.dropCommit_ev {s₀ : State} {s : State} (r : Nat) (hev : Evolves s₀ s) :
    Evolves s₀ (State.dropCommit s r) := by
  unfold State.dropCommit
  try dsimp only
  repeat' with_reducible first
    | assumption | apply State.set_ev

theorem State.clearGather_ev {s₀ : State} {s : State} (r : Nat) (hev : Evolves s₀ s) :
    Evolves s₀ (State.clearGather s r) := by
  unfold State.clearGather
  try dsimp only
  repeat' with_reducible first
    | assumption | apply State.modRopeStns_ev | refine ev_ite ?_ ?_ | refine ev_ite_fst ?_ ?_ | simp only [ev_mk]
    | split | intro _ | refine ev_of_eq (by assumption) ?_ | refine optAll_state (by assumption) ?_
    | refine optAll_fst (by assumption) ?_

theorem State.ropeOff_ev {s₀ : State} {s : State} (r : Nat) (hev : Evolves s₀ s) :
    Evolves s₀ (State.ropeOff s r) := by
  unfold State.ropeOff
  try dsimp only
  repeat' with_reducible first
    | assumption | apply State.dropFrames_ev | apply State.dropReplies_ev | apply State.dropCommit_ev
    | apply State.prestartEnds_ev | apply State.set_ev | apply State.clearGather_ev | apply State.modRope_ev
    | refine ev_ite ?_ ?_ | refine ev_ite_fst ?_ ?_ | simp only [ev_mk] | split | intro _
    | refine ev_of_eq (by assumption) ?_ | refine optAll_state (by assumption) ?_
    | refine optAll_fst (by assumption) ?_

theorem State.flipOut_ev {s₀ : State} {s : State} (r c : Nat) (hev : Evolves s₀ s) :
    Evolves s₀ (State.flipOut s r c) := by
  unfold State.flipOut
  try dsimp only
  repeat' with_reducible first
    | assumption | apply State.modRopeStns_ev | apply State.set_ev | apply State.dropCommit_ev
    | apply State.modRope_ev | refine ev_ite ?_ ?_ | refine ev_ite_fst ?_ ?_ | simp only [ev_mk] | split | intro _
    | refine ev_of_eq (by assumption) ?_ | refine optAll_state (by assumption) ?_
    | refine optAll_fst (by assumption) ?_

theorem State.staleOut_ev {s₀ : State} {s : State} (r : Nat) (hev : Evolves s₀ s) :
    Evolves s₀ (State.staleOut s r) := by
  unfold State.staleOut
  try dsimp only
  repeat' with_reducible first
    | assumption | apply State.set_ev | apply State.modRope_ev | apply State.cxeEvent_ev | refine ev_ite ?_ ?_
    | simp only [ev_mk] | split | intro _

theorem State.commitAt_ev {s₀ : State} {s : State} (r c mode : Nat) (hev : Evolves s₀ s) :
    Evolves s₀ (State.commitAt s r c mode) := by
  unfold State.commitAt
  try dsimp only
  repeat' with_reducible first
    | assumption | apply State.flipOut_ev | apply State.dropCommit_ev | apply State.staleOut_ev
    | apply State.modRope_ev | refine ev_ite ?_ ?_ | simp only [ev_mk] | split | intro _

theorem State.modeEvents_ev {s₀ : State} {s : State} (r old new : Nat) (loss : Bool) (hev : Evolves s₀ s) :
    Evolves s₀ (State.modeEvents s r old new loss) := by
  unfold State.modeEvents
  try dsimp only
  repeat' with_reducible first
    | assumption | apply State.cxeEvent_ev | refine ev_ite ?_ ?_ | split

theorem State.mpiMode_ev {s₀ : State} {s : State} (r old new : Nat) (hev : Evolves s₀ s) :
    Evolves s₀ (State.mpiMode s r old new) := by
  unfold State.mpiMode
  try dsimp only
  repeat' with_reducible first
    | assumption | apply State.modMpi_ev | refine ev_ite ?_ ?_ | simp only [ev_mk] | split | intro _

theorem State.deriveWindows_ev {s₀ : State} {s : State} (r : Nat) (hev : Evolves s₀ s) :
    Evolves s₀ (State.deriveWindows s r) := by
  unfold State.deriveWindows
  try dsimp only
  repeat' with_reducible first
    | assumption | refine ev_ite ?_ ?_ | refine ev_ite_fst ?_ ?_ | refine ev_foldl ?_ (fun _ _ _ => ?_)
    | refine ev_foldl_fst ?_ (fun _ _ _ => ?_) | simp only [ev_mk] | split | intro _
    | refine ev_of_eq (by assumption) ?_ | refine optAll_state (by assumption) ?_
    | refine optAll_fst (by assumption) ?_

theorem State.ropeAt_ev {s₀ : State} {s : State} (b r : Nat) (hev : Evolves s₀ s) :
    Evolves s₀ (State.ropeAt s b r) := by
  unfold State.ropeAt
  try dsimp only
  repeat' with_reducible first
    | assumption | apply State.ropeLatch_ev | apply State.inPause_ev | apply State.modRope_ev
    | apply State.dropFrames_ev | apply State.dropReplies_ev | apply State.dropCommit_ev | apply State.set_ev
    | apply State.clearGather_ev | apply State.prestartEnds_ev | apply State.nextMode_ev | apply State.ropeOff_ev
    | apply State.mpiMode_ev | apply State.hostLost_ev | apply lossMode_ev | apply State.groupStop_ev
    | apply State.unsentFrames_ev | apply State.modeEvents_ev | apply State.deriveWindows_ev | apply State.commitAt_ev
    | refine ev_ite ?_ ?_ | refine ev_ite_fst ?_ ?_ | simp only [ev_mk] | split | intro _
    | refine ev_of_eq (by assumption) ?_ | refine optAll_state (by assumption) ?_
    | refine optAll_fst (by assumption) ?_

theorem execRopeBoundary_ev {s₀ : State} (b : Nat) (bad : List Nat) {s : State} (hev : Evolves s₀ s) :
    Leaves (Evolves s₀) (execRopeBoundary b bad s) := by
  unfold execRopeBoundary
  try dsimp only
  repeat' with_reducible first
    | assumption | apply State.ropeAt_ev | apply State.announce_ev | apply State.mpiPass_ev | refine leaves_next ?_
    | refine leaves_out ?_ | refine ev_ite ?_ ?_ | refine ev_ite_fst ?_ ?_ | refine leaves_ite ?_ ?_
    | refine ev_foldl ?_ (fun _ _ _ => ?_) | refine ev_foldl_fst ?_ (fun _ _ _ => ?_) | split | intro _

theorem State.armPorts_ev {s₀ : State} {s : State} (r : Nat) (fs : List CFrame) (hev : Evolves s₀ s) :
    Evolves s₀ (State.armPorts s r fs) := by
  unfold State.armPorts
  try dsimp only
  repeat' with_reducible first
    | assumption | apply State.modTime_ev | simp only [ev_mk] | intro _

theorem State.cycleEnds_ev {s₀ : State} {s : State} (r : Nat) (hev : Evolves s₀ s) :
    Evolves s₀ (State.cycleEnds s r) := by
  unfold State.cycleEnds
  try dsimp only
  repeat' with_reducible first
    | assumption | apply State.prestartEnds_ev | refine ev_ite ?_ ?_ | refine ev_ite_fst ?_ ?_ | simp only [ev_mk]
    | split | intro _ | refine ev_of_eq (by assumption) ?_ | refine optAll_state (by assumption) ?_
    | refine optAll_fst (by assumption) ?_

theorem execFrameBuild_ev {s₀ : State} {s : State} (r : Fin 16) (hev : Evolves s₀ s) :
    Leaves (Evolves s₀) (execFrameBuild r s) := by
  unfold execFrameBuild
  try dsimp only
  repeat' with_reducible first
    | assumption | apply State.armPorts_ev
    | apply State.modRope_ev | apply State.cycleEnds_ev | refine ev_ite ?_ ?_ | refine ev_ite_fst ?_ ?_
    | refine leaves_next ?_ | refine leaves_out ?_ | refine leaves_ite ?_ ?_ | simp only [ev_mk] | split | intro _
    | refine ev_of_eq (by assumption) ?_ | refine optAll_state (by assumption) ?_
    | refine optAll_fst (by assumption) ?_

theorem State.modFrame_ev {s₀ : State} {s : State} (p r i : Nat) (g : CFrame → CFrame) (hev : Evolves s₀ s) :
    Evolves s₀ (State.modFrame s p r i g) := by
  unfold State.modFrame
  try dsimp only
  repeat' with_reducible first
    | assumption | refine ev_ite ?_ ?_ | simp only [ev_mk] | split | intro _

theorem State.launch_ev {s₀ : State} {s : State} (f : CFrame) (ns : Nat) (hev : Evolves s₀ s) :
    Evolves s₀ (State.launch s f ns) := by
  unfold State.launch
  try dsimp only
  repeat' with_reducible first
    | assumption | apply State.modFrame_ev | apply State.msecTx_ev | apply State.cycleCharge_ev
    | apply State.sendFrame_ev | apply State.cycleEnds_ev | refine ev_ite ?_ ?_
    | refine ev_ite_fst ?_ ?_ | simp only [ev_mk] | split | intro _ | refine ev_of_eq (by assumption) ?_
    | refine optAll_state (by assumption) ?_ | refine optAll_fst (by assumption) ?_

theorem State.disarm_ev {s₀ : State} {s : State} (p r : Nat) (hev : Evolves s₀ s) :
    Evolves s₀ (State.disarm s p r) := by
  unfold State.disarm
  try dsimp only
  repeat' with_reducible first
    | assumption | apply State.modTime_ev | simp only [ev_mk] | split | intro _

theorem execFrameAtComparator_ev {s₀ : State} (p r : Fin 16) {s : State} (hev : Evolves s₀ s) :
    Leaves (Evolves s₀) (execFrameAtComparator p r s) := by
  unfold execFrameAtComparator
  try dsimp only
  repeat' with_reducible first
    | assumption | apply State.launch_ev | apply State.disarm_ev | apply State.modRope_ev | apply State.raise_ev
    | apply State.modFrame_ev | refine leaves_next ?_ | refine leaves_out ?_ | refine ev_ite ?_ ?_
    | refine ev_ite_fst ?_ ?_ | refine leaves_ite ?_ ?_ | simp only [ev_mk] | split | intro _
    | refine ev_of_eq (by assumption) ?_

theorem State.launchTick_ev {s₀ : State} {s : State} (hev : Evolves s₀ s) :
    Evolves s₀ (State.launchTick s) := by
  unfold State.launchTick
  try dsimp only
  repeat' with_reducible first
    | assumption | apply State.waitingAt_ev | apply State.launch_ev | apply State.disarm_ev | refine ev_ite ?_ ?_
    | refine ev_ite_fst ?_ ?_ | refine ev_foldl ?_ (fun _ _ _ => ?_) | refine ev_foldl_fst ?_ (fun _ _ _ => ?_)
    | simp only [ev_mk] | split | intro _ | refine ev_of_eq (by assumption) ?_
    | refine optAll_state (by assumption) ?_ | refine optAll_fst (by assumption) ?_

theorem execFrameLaunch_ev {s₀ : State} (p r : Fin 16) {s : State} (hev : Evolves s₀ s) :
    Leaves (Evolves s₀) (execFrameLaunch p r s) := by
  unfold execFrameLaunch
  try dsimp only
  repeat' with_reducible first
    | assumption | apply State.launch_ev | apply State.disarm_ev | refine leaves_next ?_ | refine leaves_out ?_
    | refine ev_ite ?_ ?_ | refine ev_ite_fst ?_ ?_ | refine leaves_ite ?_ ?_ | simp only [ev_mk] | split | intro _
    | refine ev_of_eq (by assumption) ?_

theorem State.commit_ev {s₀ : State} {s : State} (o : Sys2Proof.Origin) (r target : Nat) (hev : Evolves s₀ s) :
    Evolves s₀ (State.commit s o r target).1 := by
  unfold State.commit
  try dsimp only
  repeat' with_reducible first
    | assumption | apply State.gate_ev | apply State.done_ev | apply State.set_ev | refine ev_ite ?_ ?_
    | refine ev_ite_fst ?_ ?_ | simp only [ev_mk] | split | intro _ | refine ev_of_eq (by assumption) ?_

theorem execCommit_ev {s₀ : State} (o : Sys2Proof.Origin) (r : Fin 16) (target : BitVec 16) {s : State} (hev : Evolves s₀ s) :
    Leaves (Evolves s₀) (execCommit o r target s) := by
  unfold execCommit
  try dsimp only
  repeat' with_reducible first
    | assumption | apply State.commit_ev | refine leaves_next ?_ | refine leaves_out ?_

theorem State.ropeCtrl_ev {s₀ : State} {s : State} (o : Sys2Proof.Origin) (r : Nat) (stop resume : Bool) (hev : Evolves s₀ s) :
    Evolves s₀ (State.ropeCtrl s o r stop resume).1 := by
  unfold State.ropeCtrl
  try dsimp only
  repeat' with_reducible first
    | assumption | apply State.gate_ev | apply State.refuse_ev | apply State.done_ev | apply State.modRope_ev
    | refine ev_ite ?_ ?_ | refine ev_ite_fst ?_ ?_ | simp only [ev_mk] | split | intro _

theorem execRopeCtrlStop_ev {s₀ : State} (o : Sys2Proof.Origin) (r : Fin 16) {s : State} (hev : Evolves s₀ s) :
    Leaves (Evolves s₀) (execRopeCtrlStop o r s) := by
  unfold execRopeCtrlStop
  try dsimp only
  repeat' with_reducible first
    | assumption | apply State.ropeCtrl_ev | refine leaves_next ?_ | refine leaves_out ?_

theorem execResume_ev {s₀ : State} (o : Sys2Proof.Origin) (r : Fin 16) {s : State} (hev : Evolves s₀ s) :
    Leaves (Evolves s₀) (execResume o r s) := by
  unfold execResume
  try dsimp only
  repeat' with_reducible first
    | assumption | apply State.ropeCtrl_ev | refine leaves_next ?_ | refine leaves_out ?_

theorem execImageApertureWrite_ev {s₀ : State} {s : State} (o : Sys2Proof.Origin) (offset : Nat) (data : List Byte) (hev : Evolves s₀ s) :
    Leaves (Evolves s₀) (execImageApertureWrite o offset data s) := by
  unfold execImageApertureWrite
  try dsimp only
  repeat' with_reducible first
    | assumption | apply writeBack_ev | apply State.startClocks_ev | refine ev_ite ?_ ?_ | refine ev_ite_fst ?_ ?_
    | refine leaves_next ?_ | refine leaves_out ?_ | refine leaves_ite ?_ ?_ | simp only [ev_mk] | split | intro _
    | refine ev_of_eq (by assumption) ?_ | refine optAll_state (by assumption) ?_
    | refine optAll_fst (by assumption) ?_

theorem State.setLane_ev {s₀ : State} {s : State} (i : Nat) (l : List LaneFrame) (hev : Evolves s₀ s) :
    Evolves s₀ (State.setLane s i l) := by
  unfold State.setLane
  try dsimp only
  repeat' with_reducible first
    | assumption | refine ev_ite ?_ ?_ | simp only [ev_mk] | split

theorem State.rejectPort_ev {s₀ : State} {s : State} (p : Nat) (hev : Evolves s₀ s) :
    Evolves s₀ (State.rejectPort s p) := by
  unfold State.rejectPort
  try dsimp only
  repeat' with_reducible first
    | assumption | apply State.raise_ev | refine ev_ite ?_ ?_ | simp only [ev_mk] | split

theorem State.rejectRope_ev {s₀ : State} {s : State} (p r : Nat) (stn : Option Nat) (hev : Evolves s₀ s) :
    Evolves s₀ (State.rejectRope s p r stn) := by
  unfold State.rejectRope
  try dsimp only
  repeat' with_reducible first
    | assumption | apply State.modRope_ev | apply State.modStn_ev | apply State.raise_ev | refine ev_ite ?_ ?_
    | simp only [ev_mk] | split | intro _ | refine ev_of_eq (by assumption) ?_

theorem execReplyFrameArrival_ev {s₀ : State} {s : State} (lane : Fin 2) (hev : Evolves s₀ s) :
    Leaves (Evolves s₀) (execReplyFrameArrival lane s) := by
  unfold execReplyFrameArrival
  try dsimp only
  repeat' with_reducible first
    | assumption | apply State.startClocks_ev 
    | apply State.freeCells_ev | apply State.setLane_ev | refine ev_ite ?_ ?_ | refine ev_ite_fst ?_ ?_
    | refine leaves_next ?_ | refine leaves_out ?_ | refine leaves_ite ?_ ?_ | simp only [ev_mk] | split | intro _
    | refine ev_of_eq (by assumption) ?_ | refine optAll_state (by assumption) ?_
    | refine optAll_fst (by assumption) ?_

theorem State.popLane_ev {s₀ : State} {s : State} (lane : Nat) (hev : Evolves s₀ s) :
    Evolves s₀ (State.popLane s lane) := by
  unfold State.popLane
  try dsimp only
  repeat' with_reducible first
    | assumption | apply State.setLane_ev | apply State.freeCells_ev | simp only [ev_mk] | split
    | refine ev_of_eq (by assumption) ?_

theorem State.nextSeg_ev {s₀ : State} {s : State} (lane : Nat) (hev : Evolves s₀ s) :
    Evolves s₀ (State.nextSeg s lane) := by
  unfold State.nextSeg
  try dsimp only
  repeat' with_reducible first
    | assumption | apply State.setLane_ev | apply State.popLane_ev | refine ev_ite ?_ ?_ | simp only [ev_mk] | split
    | refine ev_of_eq (by assumption) ?_

theorem State.markNamed_ev {s₀ : State} {s : State} (f : LaneFrame) (g : Gather → Gather) (hev : Evolves s₀ s) :
    Evolves s₀ (State.markNamed s f g) := by
  unfold State.markNamed
  try dsimp only
  repeat' with_reducible first
    | assumption | apply State.modStn_ev | simp only [ev_mk] | refine ev_foldl ?_ (fun _ _ _ => ?_) | intro _

theorem State.takeSegment_ev {s₀ : State} {s : State} (f : LaneFrame) (hev : Evolves s₀ s) :
    Evolves s₀ (State.takeSegment s f) := by
  unfold State.takeSegment
  try dsimp only
  repeat' with_reducible first
    | assumption | apply State.rejectRope_ev | apply State.modStn_ev | apply State.imgWrite_ev | refine ev_ite ?_ ?_
    | simp only [ev_mk] | split | intro _

theorem State.takeTemplate_ev {s₀ : State} {s : State} (f : LaneFrame) (t : Nat) (hev : Evolves s₀ s) :
    Evolves s₀ (State.takeTemplate s f t) := by
  unfold State.takeTemplate
  try dsimp only
  repeat' with_reducible first
    | assumption | apply State.rejectRope_ev | apply State.imgWrite_ev | apply State.modStn_ev | refine ev_ite ?_ ?_
    | simp only [ev_mk] | refine ev_foldl ?_ (fun _ _ _ => ?_) | split | intro _

theorem execReplySegment_ev {s₀ : State} (lane : Fin 2) {s : State} (hev : Evolves s₀ s) :
    Leaves (Evolves s₀) (execReplySegment lane s) := by
  unfold execReplySegment
  try dsimp only
  repeat' with_reducible first
    | assumption | apply State.popLane_ev | apply State.takeTemplate_ev | apply State.markNamed_ev
    | apply State.rejectPort_ev | apply State.takeSegment_ev | apply State.nextSeg_ev | apply State.modRope_ev
    | apply State.rejectRope_ev | refine leaves_next ?_ | refine leaves_out ?_ | refine ev_ite ?_ ?_
    | refine ev_ite_fst ?_ ?_ | refine leaves_ite ?_ ?_ | simp only [ev_mk] | split | intro _
    | refine ev_of_eq (by assumption) ?_

theorem execInputDeadline_ev {s₀ : State} {s : State} (r : Fin 16) (hev : Evolves s₀ s) :
    Leaves (Evolves s₀) (execInputDeadline r s) := by
  unfold execInputDeadline
  try dsimp only
  repeat' with_reducible first
    | assumption | apply State.launchWaits_ev | apply State.modRopeStns_ev | apply State.dropReplies_ev
    | apply State.modRope_ev | refine ev_ite ?_ ?_ | refine ev_ite_fst ?_ ?_ | refine leaves_next ?_
    | refine leaves_out ?_ | refine leaves_ite ?_ ?_ | simp only [ev_mk] | split | intro _
    | refine ev_of_eq (by assumption) ?_ | refine optAll_state (by assumption) ?_
    | refine optAll_fst (by assumption) ?_

theorem State.publishStation_ev {s₀ : State} {s : State} (r c n : Nat) (hev : Evolves s₀ s) :
    Evolves s₀ (State.publishStation s r c n) := by
  unfold State.publishStation
  try dsimp only
  repeat' with_reducible first
    | assumption | apply State.set_ev | apply State.modStn_ev | apply State.modRope_ev | apply State.cxeEvent_ev
    | refine ev_ite ?_ ?_ | simp only [ev_mk] | split | intro _

theorem State.disabledStation_ev {s₀ : State} {s : State} (c n : Nat) (hev : Evolves s₀ s) :
    Evolves s₀ (State.disabledStation s c n) := by
  unfold State.disabledStation
  try dsimp only
  repeat' with_reducible first
    | assumption | apply State.set_ev | refine ev_ite ?_ ?_ | refine ev_ite_fst ?_ ?_ | simp only [ev_mk] | split
    | intro _ | refine ev_of_eq (by assumption) ?_ | refine optAll_state (by assumption) ?_
    | refine optAll_fst (by assumption) ?_

theorem State.publishDisabled_ev {s₀ : State} {s : State} (r c : Nat) (hev : Evolves s₀ s) :
    Evolves s₀ (State.publishDisabled s r c) := by
  unfold State.publishDisabled
  try dsimp only
  repeat' with_reducible first
    | assumption | apply State.disabledStation_ev | refine ev_ite ?_ ?_ | refine ev_ite_fst ?_ ?_
    | refine ev_foldl ?_ (fun _ _ _ => ?_) | refine ev_foldl_fst ?_ (fun _ _ _ => ?_) | simp only [ev_mk] | split
    | intro _ | refine ev_of_eq (by assumption) ?_ | refine optAll_state (by assumption) ?_
    | refine optAll_fst (by assumption) ?_

theorem State.flipIn_ev {s₀ : State} {s : State} (r : Nat) (hev : Evolves s₀ s) :
    Evolves s₀ (State.flipIn s r) := by
  unfold State.flipIn
  try dsimp only
  repeat' with_reducible first
    | assumption | apply State.modRopeStns_ev | refine ev_ite ?_ ?_ | refine ev_ite_fst ?_ ?_ | simp only [ev_mk]
    | split | intro _ | refine ev_of_eq (by assumption) ?_ | refine optAll_state (by assumption) ?_
    | refine optAll_fst (by assumption) ?_

theorem State.publishOut_ev {s₀ : State} {s : State} (r c : Nat) (hev : Evolves s₀ s) :
    Evolves s₀ (State.publishOut s r c) := by
  unfold State.publishOut
  try dsimp only
  repeat' with_reducible first
    | assumption | apply State.sliceData_ev | apply State.sliceWrite_ev 
    | apply State.msix_ev | refine ev_ite ?_ ?_ | refine ev_ite_fst ?_ ?_ | simp only [ev_mk] | split | intro _
    | refine ev_of_eq (by assumption) ?_ | refine optAll_state (by assumption) ?_
    | refine optAll_fst (by assumption) ?_

theorem execPublish_ev {s₀ : State} {s : State} (r : Fin 16) (hev : Evolves s₀ s) :
    Leaves (Evolves s₀) (execPublish r s) := by
  unfold execPublish
  try dsimp only
  repeat' with_reducible first
    | assumption | apply State.latchChecked_ev | apply State.publishStation_ev | apply State.announce_ev
    | apply State.publishDisabled_ev | apply State.flipIn_ev | apply State.set_ev | apply State.publishOut_ev
    | apply State.modRope_ev | apply State.missingOf_ev | apply State.lostOf_ev | apply State.recPublish_ev
    | apply State.prestartEnds_ev | apply State.stationMasters_ev | apply State.tickFree_ev | refine ev_ite ?_ ?_
    | refine ev_ite_fst ?_ ?_ | refine leaves_next ?_ | refine leaves_out ?_ | refine leaves_ite ?_ ?_
    | refine ev_foldl ?_ (fun _ _ _ => ?_) | refine ev_foldl_fst ?_ (fun _ _ _ => ?_) | simp only [ev_mk] | split
    | intro _ | refine ev_of_eq (by assumption) ?_ | refine optAll_state (by assumption) ?_
    | refine optAll_fst (by assumption) ?_

theorem State.recover_ev {s₀ : State} {s : State} (o : Sys2Proof.Origin) (n : Nat) (hev : Evolves s₀ s) :
    Evolves s₀ (State.recover s o n).1 := by
  unfold State.recover
  try dsimp only
  repeat' with_reducible first
    | assumption | apply State.gate_ev | apply State.modStn_ev | apply State.done_ev | refine ev_ite ?_ ?_
    | refine ev_ite_fst ?_ ?_ | simp only [ev_mk] | split | intro _ | refine ev_of_eq (by assumption) ?_

theorem execRecover_ev {s₀ : State} (o : Sys2Proof.Origin) (n : Fin 4096) {s : State} (hev : Evolves s₀ s) :
    Leaves (Evolves s₀) (execRecover o n s) := by
  unfold execRecover
  try dsimp only
  repeat' with_reducible first
    | assumption | apply State.recover_ev | refine leaves_next ?_ | refine leaves_out ?_

theorem State.cxeReset_ev {s₀ : State} {s : State} (hev : Evolves s₀ s) :
    Evolves s₀ (State.cxeReset s) := by
  unfold State.cxeReset
  try dsimp only
  repeat' with_reducible first
    | assumption | apply State.set_ev | apply State.ropeOff_ev | apply State.modStn_ev | simp only [ev_mk]
    | refine ev_foldl ?_ (fun _ _ _ => ?_) | intro _

theorem State.hostLost_ev {s₀ : State} {s : State} (f : Option Nat) (hev : Evolves s₀ s) :
    Evolves s₀ (State.hostLost s f) := by
  unfold State.hostLost
  try dsimp only
  repeat' with_reducible first
    | assumption | apply State.modRope_ev | refine ev_ite ?_ ?_ | simp only [ev_mk]
    | refine ev_foldl ?_ (fun _ _ _ => ?_) | split | intro _ | refine ev_of_eq (by assumption) ?_

end Sys2Proof.Machine
end

