-- ==== Sys2Proof/Laws/EvolveMgtOps.lean ====
section
/-!
SUPPORT. What the definitions of Machine/MgtOps.lean keep.
-/

namespace Sys2Proof.Machine

set_option linter.all false

theorem State.reply_ev {s₀ : State} {s : State} (m : BitVec 4 × BitVec 8) (cmd status : Nat) (body : List Byte) (hev : Evolves s₀ s) :
    Evolves s₀ (State.reply s m cmd status body) := by
  unfold State.reply
  try dsimp only
  repeat' with_reducible first
    | assumption | apply State.emit_ev

theorem State.busStop_ev {s₀ : State} {s : State} (hev : Evolves s₀ s) :
    Evolves s₀ (State.busStop s) := by
  unfold State.busStop
  try dsimp only
  repeat' with_reducible first
    | assumption | apply State.latchB_ev | intro _

theorem State.heard_ev {s₀ : State} {s : State} (m : BitVec 4 × BitVec 8) (hev : Evolves s₀ s) :
    Evolves s₀ (State.heard s m) := by
  unfold State.heard
  try dsimp only
  repeat' with_reducible first
    | assumption | apply State.busStop_ev | apply State.set_ev | refine ev_ite ?_ ?_ | simp only [ev_mk] | split

theorem State.naonantServe_ev {s₀ : State} {s : State} (m : BitVec 4 × BitVec 8) (cmd : Nat) (v1 : Bool) (f : State → State × Nat × List Byte) (hev : Evolves s₀ s) (ev_f : ∀ x0, Evolves s₀ x0 → Evolves s₀ (f x0).1) :
    Evolves s₀ (State.naonantServe s m cmd v1 f) := by
  unfold State.naonantServe
  try dsimp only
  repeat' with_reducible first
    | assumption | apply State.heard_ev | apply State.reply_ev | apply ev_f | refine ev_ite ?_ ?_ | split
    | refine ev_of_eq (by assumption) ?_

end Sys2Proof.Machine
end

