-- ==== Sys2Proof/Laws/EvolveStartOps.lean ====
section
/-!
SUPPORT. What the definitions of Machine/StartOps.lean keep.
-/

namespace Sys2Proof.Machine

set_option linter.all false

theorem State.modBoot_ev {s₀ s : State} (f : Boot → Boot) (hev : Evolves s₀ s)
    (hf : (f s.boot).fuses = s.boot.fuses := by rfl) : Evolves s₀ (s.modBoot f) :=
  hev.of_fields rfl rfl rfl hf rfl rfl rfl

theorem State.stepDone_ev {s₀ : State} {s : State} (n : Nat) (hev : Evolves s₀ s) :
    Evolves s₀ (State.stepDone s n) := by
  unfold State.stepDone
  try dsimp only
  repeat' with_reducible first
    | assumption | apply State.modBoot_ev | apply State.set_ev | refine ev_ite ?_ ?_ | simp only [ev_mk] | split
    | intro _

theorem State.halt_ev {s₀ : State} {s : State} (code : Nat) (hev : Evolves s₀ s) :
    Evolves s₀ (State.halt s code) := by
  unfold State.halt
  try dsimp only
  repeat' with_reducible first
    | assumption | apply State.set_ev | apply State.raise_ev

theorem State.stepFails_ev {s₀ : State} {s : State} (n code status : Nat) (hev : Evolves s₀ s) :
    Evolves s₀ (State.stepFails s n code status) := by
  unfold State.stepFails
  try dsimp only
  repeat' with_reducible first
    | assumption | apply State.modBoot_ev | apply State.halt_ev | refine ev_ite ?_ ?_ | simp only [ev_mk] | split
    | intro _

theorem State.foundingReady_ev {s₀ : State} {s : State} (us : List Nat) (hev : Evolves s₀ s) :
    Evolves s₀ (State.foundingReady s us) := by
  unfold State.foundingReady
  try dsimp only
  repeat' with_reducible first
    | assumption | apply State.goReady_ev | refine ev_ite ?_ ?_ | refine ev_ite_fst ?_ ?_
    | refine ev_foldl ?_ (fun _ _ _ => ?_) | refine ev_foldl_fst ?_ (fun _ _ _ => ?_) | simp only [ev_mk] | split
    | intro _ | refine ev_of_eq (by assumption) ?_ | refine optAll_state (by assumption) ?_
    | refine optAll_fst (by assumption) ?_

theorem State.setScale_ev {s₀ : State} {s : State} (n : Nat) (hev : Evolves s₀ s) :
    Evolves s₀ (State.setScale s n) := by
  unfold State.setScale
  try dsimp only
  repeat' with_reducible first
    | assumption | apply State.set_ev | refine ev_ite ?_ ?_ | refine ev_foldl ?_ (fun _ _ _ => ?_) | split | intro _

theorem State.loseTrust_ev {s₀ : State} {s : State} (hev : Evolves s₀ s) :
    Evolves s₀ (State.loseTrust s) := by
  unfold State.loseTrust
  try dsimp only
  repeat' with_reducible first
    | assumption | apply State.set_ev | apply State.raise_ev | refine ev_ite ?_ ?_ | split

theorem State.fellBack_ev {s₀ : State} {s : State} (fw : Bool) (c : Choice) (hev : Evolves s₀ s) :
    Evolves s₀ (State.fellBack s fw c) := by
  unfold State.fellBack
  try dsimp only
  repeat' with_reducible first
    | assumption | apply State.set_ev | apply State.raise_ev | refine ev_ite ?_ ?_ | split

theorem State.onlyBanks_ev {s₀ s : State} (t c : Nat) (geo : List (Nat × Nat × Nat)) (hev : Evolves s₀ s) :
    Evolves s₀ (s.onlyBanks t c geo) :=
  hev.trans ⟨rfl, List.prefix_rfl, Nat.le_refl _, Fuses.Grown.refl _, swf_filter resetWord _ _, srising_filter 0 _ _, id⟩

theorem State.banksLost_ev {s₀ : State} {s : State} (t c : Nat) (hev : Evolves s₀ s) :
    Evolves s₀ (State.banksLost s t c) := by
  unfold State.banksLost
  try dsimp only
  repeat' with_reducible first
    | assumption | apply State.onlyBanks_ev | apply State.set_ev | simp only [ev_mk] | split
    | refine ev_of_eq (by assumption) ?_

theorem State.blank_ev {s₀ s : State} (perst : Bool) (hev : Evolves s₀ s) : Evolves s₀ (s.blank perst) :=
  hev.trans ⟨rfl, List.prefix_rfl, Nat.le_refl _, Fuses.Grown.refl _, fun _ => rfl, fun _ => rfl, fun _ => Nat.zero_le _⟩

theorem State.onlyUnits_ev {s₀ s : State} (p : Nat → Bool) (hev : Evolves s₀ s) : Evolves s₀ (s.onlyUnits p) :=
  hev.trans ⟨rfl, List.prefix_rfl, Nat.le_refl _, Fuses.Grown.refl _, swf_filter resetWord _ _, srising_filter 0 _ _,
    fun _ => Nat.zero_le _⟩

theorem State.deviceRestart_ev {s₀ : State} {s : State} (hev : Evolves s₀ s) :
    Evolves s₀ (State.deviceRestart s) := by
  unfold State.deviceRestart
  try dsimp only
  repeat' with_reducible first
    | assumption | apply State.onlyUnits_ev | apply State.tuRestart_ev | apply State.set_ev | simp only [ev_mk]
    | intro _

theorem State.keepDuty_ev {s₀ : State} {s : State} (k m : Nat) (duty : List Nat) (hev : Evolves s₀ s) :
    Evolves s₀ (State.keepDuty s k m duty) := by
  unfold State.keepDuty
  try dsimp only
  repeat' with_reducible first
    | assumption | apply State.modKind_ev | apply State.set_ev | apply bankMap_ev | refine ev_ite ?_ ?_
    | refine ev_ite_fst ?_ ?_ | simp only [ev_mk] | split | intro _ | refine ev_of_eq (by assumption) ?_
    | refine optAll_state (by assumption) ?_ | refine optAll_fst (by assumption) ?_

theorem swf_foldl_sins {α : Type} [DecidableEq α] (dflt : Nat → α) (l m : List (Nat × α)) (h : swf dflt m = true)
    (hl : ∀ x ∈ l, x.2 ≠ dflt x.1) : swf dflt (l.foldl (fun m x => sins m x.1 x.2) m) = true := by
  induction l generalizing m with
  | nil => exact h
  | cons x l ih =>
    refine ih _ ?_ fun y hy => hl y (List.mem_cons_of_mem _ hy)
    have g := swf_sput dflt m x.1 x.2 h
    unfold sput at g
    rwa [if_neg (hl x List.mem_cons_self)] at g

theorem swf_ne {α : Type} [DecidableEq α] (dflt : Nat → α) (m : List (Nat × α)) (h : swf dflt m = true) (x : Nat × α)
    (hx : x ∈ m) : x.2 ≠ dflt x.1 := by
  unfold swf at h
  simp only [Bool.and_eq_true, List.all_eq_true] at h
  exact of_decide_eq_true (h.2 x hx)

theorem State.powerDown_ev {s₀ s : State} (hev : Evolves s₀ s) : Evolves s₀ s.powerDown := by
  unfold State.powerDown
  split
  · exact hev
  · rename_i k _
    dsimp only
    have key (t : State) (ht : Evolves s₀ t) (p : Nat × Word → Bool) (l : List (Nat × Word))
        (hl : ∀ x ∈ l, x ∈ s.regs) : Evolves s₀ { t with regs := (l.filter p).foldl (fun m x => sins m x.1 x.2) t.regs } := by
      refine ⟨ht.queue, ht.sent, ht.fresh, ht.fuses, fun h => ?_, ht.force, ht.staged⟩
      exact swf_foldl_sins _ _ _ (ht.regs h) fun x hx => swf_ne _ _ (hev.regs h) x (hl x (List.mem_filter.1 hx).1)
    have hb (x : Nat × Word) (hx : x ∈ ((s.latchMask (windowMask 4)).onlyBanks k.table k.cxe k.geometry).regs) : x ∈ s.regs :=
      (List.mem_filter.1 hx).1
    have h1 : Evolves s₀ (s.onlyUnits fun u => u == 0 || u == 20 || u == 3) := State.onlyUnits_ev _ hev
    have h2 : Evolves s₀ (if s.actB TuCtrl.adr TuCtrl.tuKeep then s.onlyUnits fun u => u == 0 || u == 20 || u == 3
        else (s.onlyUnits fun u => u == 0 || u == 20 || u == 3).tuHold) := ev_ite h1 (State.tuHold_ev h1)
    have h3 := fun p : Nat × Word → Bool => key _ h2 p _ hb
    split
    · exact State.keepDuty_ev _ _ _ (State.keepDuty_ev _ _ _ ((h3 _).of_fields rfl rfl rfl rfl rfl rfl rfl))
    · exact State.setScale_ev _ (State.keepDuty_ev _ _ _ (State.keepDuty_ev _ _ _ ((h3 _).of_fields rfl rfl rfl rfl rfl rfl rfl)))

end Sys2Proof.Machine
end

