-- ==== Sys2Proof/Laws/EvolveStart.lean ====
section
/-!
SUPPORT. What the definitions of Machine/Start.lean keep.
-/

namespace Sys2Proof.Machine

set_option linter.all false

theorem execPerstNRise_ev {s₀ : State} {s : State} (hev : Evolves s₀ s) :
    Leaves (Evolves s₀) (execPerstNRise s) := by
  unfold execPerstNRise
  try dsimp only
  repeat' with_reducible first
    | assumption | apply State.blank_ev | refine leaves_next ?_ | refine leaves_out ?_ | refine ev_ite ?_ ?_
    | refine ev_ite_fst ?_ ?_ | refine leaves_ite ?_ ?_ | split

theorem execPerstNFall_ev {s₀ : State} {s : State} (hev : Evolves s₀ s) :
    Leaves (Evolves s₀) (execPerstNFall s) := by
  unfold execPerstNFall
  try dsimp only
  repeat' with_reducible first
    | assumption | apply State.modBoot_ev | apply State.blank_ev | refine leaves_next ?_ | refine leaves_out ?_
    | refine ev_ite ?_ ?_ | refine ev_ite_fst ?_ ?_ | refine leaves_ite ?_ ?_ | simp only [ev_mk] | split | intro _

theorem execStrapSample_ev {s₀ : State} (samples : List (BitVec 2)) {s : State} (hev : Evolves s₀ s) :
    Leaves (Evolves s₀) (execStrapSample samples s) := by
  unfold execStrapSample
  try dsimp only
  repeat' with_reducible first
    | assumption | apply State.setScale_ev | apply State.foundingReady_ev | apply State.stepDone_ev
    | refine leaves_next ?_ | refine leaves_out ?_ | refine ev_ite ?_ ?_ | refine ev_ite_fst ?_ ?_
    | refine leaves_ite ?_ ?_ | split | intro _

theorem execSelfTest_ev {s₀ : State} (logicOk romOk : Bool) {s : State} (hev : Evolves s₀ s) :
    Leaves (Evolves s₀) (execSelfTest logicOk romOk s) := by
  unfold execSelfTest
  try dsimp only
  repeat' with_reducible first
    | assumption | apply State.foundingReady_ev | apply State.stepDone_ev | apply State.halt_ev
    | refine leaves_next ?_ | refine leaves_out ?_ | refine ev_ite ?_ ?_ | refine ev_ite_fst ?_ ?_
    | refine leaves_ite ?_ ?_ | split

theorem State.fuseCopies_ev {s₀ : State} {s : State} (hev : Evolves s₀ s) :
    Evolves s₀ (State.fuseCopies s) := by
  unfold State.fuseCopies
  try dsimp only
  repeat' with_reducible first
    | assumption | apply State.set_ev

theorem execFuseRead_ev {s₀ : State} (rowsOk : Bool) {s : State} (hev : Evolves s₀ s) :
    Leaves (Evolves s₀) (execFuseRead rowsOk s) := by
  unfold execFuseRead
  try dsimp only
  repeat' with_reducible first
    | assumption | apply State.fuseCopies_ev | apply State.modBoot_ev | apply State.stepFails_ev
    | apply State.stepDone_ev | apply State.halt_ev | refine leaves_next ?_ | refine leaves_out ?_
    | refine ev_ite ?_ ?_ | refine ev_ite_fst ?_ ?_ | refine leaves_ite ?_ ?_ | simp only [ev_mk] | split | intro _

theorem State.retireAtStart_ev {s₀ : State} {s : State} (k i : Nat) (hev : Evolves s₀ s) :
    Evolves s₀ (State.retireAtStart s k i) := by
  unfold State.retireAtStart
  try dsimp only
  repeat' with_reducible first
    | assumption | apply State.set_ev | apply State.find_ev | apply State.modKind_ev | apply State.raise_ev
    | refine ev_ite ?_ ?_ | refine ev_ite_fst ?_ ?_ | simp only [ev_mk] | split | intro _
    | refine ev_of_eq (by assumption) ?_ | refine optAll_state (by assumption) ?_
    | refine optAll_fst (by assumption) ?_

theorem State.testGroup_ev {s₀ : State} {s : State} (k : Nat) (fail : BitVec 17) (skip : Nat) (hev : Evolves s₀ s) :
    Evolves s₀ (State.testGroup s k fail skip) := by
  unfold State.testGroup
  try dsimp only
  repeat' with_reducible first
    | assumption | apply State.retireAtStart_ev | apply State.halt_ev | refine ev_ite ?_ ?_ | simp only [ev_mk]
    | split | intro _ | refine ev_of_eq (by assumption) ?_

theorem State.retentionCheck_ev {s₀ : State} {s : State} (x : Kept) (ueTable ueCxe ceTable ceCxe : Nat) (hev : Evolves s₀ s) :
    Evolves s₀ (State.retentionCheck s x ueTable ueCxe ceTable ceCxe) := by
  unfold State.retentionCheck
  try dsimp only
  repeat' with_reducible first
    | assumption | apply State.banksLost_ev | apply State.retireBank_ev | apply State.correctable_ev
    | refine ev_ite ?_ ?_ | refine ev_ite_fst ?_ ?_ | refine ev_foldl ?_ (fun _ _ _ => ?_)
    | refine ev_foldl_fst ?_ (fun _ _ _ => ?_) | simp only [ev_mk] | split | intro _
    | refine ev_of_eq (by assumption) ?_ | refine optAll_state (by assumption) ?_
    | refine optAll_fst (by assumption) ?_

theorem execBankTest_ev {s₀ : State} {s : State} (general table packet cxe ueTable ueCxe ceTable ceCxe : BitVec 17) (hev : Evolves s₀ s) :
    Leaves (Evolves s₀) (execBankTest general table packet cxe ueTable ueCxe ceTable ceCxe s) := by
  unfold execBankTest
  try dsimp only
  repeat' with_reducible first
    | assumption | apply State.testGroup_ev | apply State.retentionCheck_ev | apply State.foundingReady_ev
    | apply State.stepDone_ev | refine ev_ite ?_ ?_ | refine ev_ite_fst ?_ ?_ | refine leaves_next ?_
    | refine leaves_out ?_ | refine leaves_ite ?_ ?_ | simp only [ev_mk] | split | intro _
    | refine ev_of_eq (by assumption) ?_ | refine optAll_state (by assumption) ?_
    | refine optAll_fst (by assumption) ?_

theorem execSfdpDiscovery_ev {s₀ : State} (signature octal : Bool) (maxMhz capacity : Nat) {s : State} (hev : Evolves s₀ s) :
    Leaves (Evolves s₀) (execSfdpDiscovery signature octal maxMhz capacity s) := by
  unfold execSfdpDiscovery
  try dsimp only
  repeat' with_reducible first
    | assumption | apply State.modBoot_ev | apply State.stepDone_ev | apply State.halt_ev | refine leaves_next ?_
    | refine leaves_out ?_ | refine ev_ite ?_ ?_ | refine ev_ite_fst ?_ ?_ | refine leaves_ite ?_ ?_
    | simp only [ev_mk] | split | intro _

theorem execFlashHeaderCheck_ev {s₀ : State} (copy0 copy1 : List Byte) {s : State} (hev : Evolves s₀ s) :
    Leaves (Evolves s₀) (execFlashHeaderCheck copy0 copy1 s) := by
  unfold execFlashHeaderCheck
  try dsimp only
  repeat' with_reducible first
    | assumption | apply State.modBoot_ev | apply State.stepDone_ev | apply State.stepFails_ev
    | refine leaves_next ?_ | refine leaves_out ?_ | refine ev_ite ?_ ?_ | refine ev_ite_fst ?_ ?_
    | refine leaves_ite ?_ ?_ | simp only [ev_mk] | split | intro _ | refine ev_of_eq (by assumption) ?_

theorem State.writeSlot_ev {s₀ : State} {s : State} (base size : Nat) (img : List Byte) (hev : Evolves s₀ s) :
    Evolves s₀ (State.writeSlot s base size img) := by
  unfold State.writeSlot
  try dsimp only
  repeat' with_reducible first
    | assumption | apply State.emit_ev | refine ev_foldl ?_ (fun _ _ _ => ?_) | split | intro _

theorem State.installEnds_ev {s₀ : State} {s : State} (h : FlashHdr) (result : Nat) (hev : Evolves s₀ s) :
    Evolves s₀ (State.installEnds s h result) := by
  unfold State.installEnds
  try dsimp only
  repeat' with_reducible first
    | assumption | apply State.set_ev | apply State.emit_ev | apply State.stage_ev | apply State.raise_ev
    | apply State.stepDone_ev

theorem execInstall_ev {s₀ : State} {s : State} (envelope image slotA slotB readBack : List Byte) (hev : Evolves s₀ s) :
    Leaves (Evolves s₀) (execInstall envelope image slotA slotB readBack s) := by
  unfold execInstall
  try dsimp only
  repeat' with_reducible first
    | assumption | apply State.stepDone_ev | apply State.set_ev
    | apply State.installEnds_ev | apply State.fellBack_ev | apply State.writeSlot_ev 
    | refine ev_ite ?_ ?_ | refine ev_ite_fst ?_ ?_ | refine leaves_next ?_
    | refine leaves_out ?_ | refine leaves_ite ?_ ?_ | simp only [ev_mk] | split | intro _
    | refine ev_of_eq (by assumption) ?_ | refine optAll_state (by assumption) ?_
    | refine optAll_fst (by assumption) ?_

theorem execSlotHeaderRead_ev {s₀ : State} (fwA fwB cfgA cfgB : List Byte) {s : State} (hev : Evolves s₀ s) :
    Leaves (Evolves s₀) (execSlotHeaderRead fwA fwB cfgA cfgB s) := by
  unfold execSlotHeaderRead
  try dsimp only
  repeat' with_reducible first
    | assumption | apply State.modBoot_ev | apply State.stepDone_ev | refine leaves_next ?_ | refine leaves_out ?_
    | refine ev_ite ?_ ?_ | refine ev_ite_fst ?_ ?_ | refine leaves_ite ?_ ?_ | simp only [ev_mk] | split | intro _

theorem State.slotBurst_ev {s₀ : State} {s : State} (i : Nat) (d : List Byte) (hev : Evolves s₀ s) :
    Evolves s₀ (State.slotBurst s i d) := by
  unfold State.slotBurst
  try dsimp only
  repeat' with_reducible first
    | assumption | apply State.modBoot_ev | refine ev_ite ?_ ?_ | refine ev_ite_fst ?_ ?_ | simp only [ev_mk] | split
    | intro _ | refine ev_of_eq (by assumption) ?_ | refine optAll_state (by assumption) ?_
    | refine optAll_fst (by assumption) ?_

theorem State.loadBody_ev {s₀ : State} {s : State} (i : Nat) (hev : Evolves s₀ s) :
    Evolves s₀ (State.loadBody s i) := by
  unfold State.loadBody
  try dsimp only
  repeat' with_reducible first
    | assumption | apply State.modBoot_ev | apply State.take_ev | refine ev_ite ?_ ?_ | refine ev_ite_fst ?_ ?_
    | simp only [ev_mk] | split | intro _ | refine ev_of_eq (by assumption) ?_
    | refine optAll_state (by assumption) ?_ | refine optAll_fst (by assumption) ?_

theorem execFlashBurst_ev {s₀ : State} {s : State} (area : FlashArea) (data : List Byte) (hev : Evolves s₀ s) :
    Leaves (Evolves s₀) (execFlashBurst area data s) := by
  unfold execFlashBurst
  try dsimp only
  repeat' with_reducible first
    | assumption | apply State.slotBurst_ev | apply State.loadBody_ev | apply State.modBoot_ev | refine ev_ite ?_ ?_
    | refine ev_ite_fst ?_ ?_ | refine leaves_next ?_ | refine leaves_out ?_ | refine leaves_ite ?_ ?_
    | simp only [ev_mk] | split | intro _ | refine ev_of_eq (by assumption) ?_
    | refine optAll_state (by assumption) ?_ | refine optAll_fst (by assumption) ?_

theorem State.rereadFw_ev {s₀ : State} {s : State} (i : Nat) (hev : Evolves s₀ s) :
    Evolves s₀ (State.rereadFw s i) := by
  unfold State.rereadFw
  try dsimp only
  repeat' with_reducible first
    | assumption | apply State.modBoot_ev | apply State.set_ev | refine ev_ite ?_ ?_ | refine ev_ite_fst ?_ ?_
    | simp only [ev_mk] | split | intro _ | refine ev_of_eq (by assumption) ?_
    | refine optAll_state (by assumption) ?_ | refine optAll_fst (by assumption) ?_

theorem State.loadFw_ev {s₀ : State} {s : State} (i : Nat) (hev : Evolves s₀ s) :
    Evolves s₀ (State.loadFw s i) := by
  unfold State.loadFw
  try dsimp only
  repeat' with_reducible first
    | assumption | apply State.loadBody_ev | apply State.modBoot_ev | refine ev_ite ?_ ?_
    | refine ev_ite_fst ?_ ?_ | simp only [ev_mk] | split | intro _ | refine ev_of_eq (by assumption) ?_
    | refine optAll_state (by assumption) ?_ | refine optAll_fst (by assumption) ?_

theorem execFirmwareChoice_ev {s₀ : State} {s : State} (hev : Evolves s₀ s) :
    Leaves (Evolves s₀) (execFirmwareChoice s) := by
  unfold execFirmwareChoice
  try dsimp only
  repeat' with_reducible first
    | assumption | apply State.loadFw_ev | apply State.stepDone_ev | apply State.set_ev | apply State.loseTrust_ev
    | apply State.stepFails_ev | apply State.fellBack_ev | apply State.halt_ev | apply State.rereadFw_ev
    | refine ev_ite ?_ ?_ | refine ev_ite_fst ?_ ?_ | refine leaves_next ?_ | refine leaves_out ?_
    | refine leaves_ite ?_ ?_ | simp only [ev_mk] | split | intro _ | refine ev_of_eq (by assumption) ?_
    | refine optAll_state (by assumption) ?_ | refine optAll_fst (by assumption) ?_

theorem execConfigCheckPass_ev {s₀ : State} {s : State} (hev : Evolves s₀ s) :
    Leaves (Evolves s₀) (execConfigCheckPass s) := by
  unfold execConfigCheckPass
  try dsimp only
  repeat' with_reducible first
    | assumption | apply State.halt_ev | apply State.fellBack_ev | apply State.set_ev | apply State.loseTrust_ev
    | apply State.modBoot_ev | apply State.banksLost_ev | apply State.stepDone_ev | refine leaves_next ?_
    | refine leaves_out ?_ | refine ev_ite ?_ ?_ | refine ev_ite_fst ?_ ?_ | refine leaves_ite ?_ ?_
    | simp only [ev_mk] | split | intro _ | refine ev_of_eq (by assumption) ?_

theorem State.releaseCores_ev {s₀ : State} {s : State} (mask : Nat) (hev : Evolves s₀ s) :
    Evolves s₀ (State.releaseCores s mask) := by
  unfold State.releaseCores
  try dsimp only
  repeat' with_reducible first
    | assumption | apply State.set_ev | apply State.modBoot_ev | apply State.startClocks_ev | apply State.raise_ev
    | refine ev_ite ?_ ?_ | simp only [ev_mk] | split | intro _

theorem State.putVectors_ev {s₀ : State} {s : State} (v : Nat) (cores : List Nat) (hev : Evolves s₀ s) :
    Evolves s₀ (State.putVectors s v cores) := by
  unfold State.putVectors
  try dsimp only
  repeat' with_reducible first
    | assumption | apply State.set_ev | refine ev_foldl ?_ (fun _ _ _ => ?_) | split | intro _

theorem execCoreRelease_ev {s₀ : State} {s : State} (hev : Evolves s₀ s) :
    Leaves (Evolves s₀) (execCoreRelease s) := by
  unfold execCoreRelease
  try dsimp only
  repeat' with_reducible first
    | assumption | apply State.set_ev | apply State.modBoot_ev | apply State.putVectors_ev
    | apply State.releaseCores_ev | apply State.stepDone_ev | refine leaves_next ?_ | refine leaves_out ?_
    | refine ev_ite ?_ ?_ | refine ev_ite_fst ?_ ?_ | refine leaves_ite ?_ ?_ | simp only [ev_mk] | split | intro _

theorem execStartWatchdogExpiry_ev {s₀ : State} {s : State} (hev : Evolves s₀ s) :
    Leaves (Evolves s₀) (execStartWatchdogExpiry s) := by
  unfold execStartWatchdogExpiry
  try dsimp only
  repeat' with_reducible first
    | assumption | apply State.halt_ev | refine leaves_next ?_ | refine leaves_out ?_ | refine ev_ite ?_ ?_
    | refine ev_ite_fst ?_ ?_ | refine leaves_ite ?_ ?_ | split

theorem State.bootRelease_ev {s₀ : State} {s : State} (o : Sys2Proof.Origin) (mask : Nat) (hev : Evolves s₀ s) :
    Evolves s₀ (State.bootRelease s o mask).1 := by
  unfold State.bootRelease
  try dsimp only
  repeat' with_reducible first
    | assumption | apply State.gate_ev | apply State.releaseCores_ev | apply State.done_ev | apply State.refuse_ev
    | refine ev_ite ?_ ?_ | refine ev_ite_fst ?_ ?_ | split | intro _

theorem execBootReleaseWrite_ev {s₀ : State} (o : Sys2Proof.Origin) (mask : BitVec 26) {s : State} (hev : Evolves s₀ s) :
    Leaves (Evolves s₀) (execBootReleaseWrite o mask s) := by
  unfold execBootReleaseWrite
  try dsimp only
  repeat' with_reducible first
    | assumption | apply State.bootRelease_ev | refine leaves_next ?_ | refine leaves_out ?_

theorem execCoreFirstFetch_ev {s₀ : State} (n : Fin 26) {s : State} (hev : Evolves s₀ s) :
    Leaves (Evolves s₀) (execCoreFirstFetch n s) := by
  unfold execCoreFirstFetch
  try dsimp only
  repeat' with_reducible first
    | assumption | apply State.set_ev | apply State.modBoot_ev | refine leaves_next ?_ | refine leaves_out ?_
    | refine ev_ite ?_ ?_ | refine ev_ite_fst ?_ ?_ | refine leaves_ite ?_ ?_ | simp only [ev_mk] | split | intro _

end Sys2Proof.Machine
end

