-- ==== Sys2Proof/Laws/EvolveFuse.lean ====
section
/-!
SUPPORT. What the definitions of Machine/Fuse.lean keep.
-/

namespace Sys2Proof.Machine

set_option linter.all false

theorem State.fuseEnds_ev {s₀ : State} {s : State} (status : Nat) (hev : Evolves s₀ s) :
    Evolves s₀ (State.fuseEnds s status) := by
  unfold State.fuseEnds
  try dsimp only
  repeat' with_reducible first
    | assumption | apply State.set_ev | apply State.raise_ev

theorem State.fuseCmd_ev {s₀ : State} {s : State} (o : Sys2Proof.Origin) (op confirm value : Nat) (hev : Evolves s₀ s) :
    Evolves s₀ (State.fuseCmd s o op confirm value).1 := by
  unfold State.fuseCmd
  try dsimp only
  repeat' with_reducible first
    | assumption | apply State.gate_ev | apply State.fuseEnds_ev | apply State.set_ev | apply State.done_ev
    | apply State.modBoot_ev | refine ev_ite ?_ ?_ | refine ev_ite_fst ?_ ?_ | simp only [ev_mk] | split | intro _

theorem execAdvanceFwEpoch_ev {s₀ : State} (o : Sys2Proof.Origin) (confirm value : BitVec 8) {s : State} (hev : Evolves s₀ s) :
    Leaves (Evolves s₀) (execAdvanceFwEpoch o confirm value s) := by
  unfold execAdvanceFwEpoch
  try dsimp only
  repeat' with_reducible first
    | assumption | apply State.fuseCmd_ev | refine leaves_next ?_ | refine leaves_out ?_

theorem execAdvanceCfgEpoch_ev {s₀ : State} (o : Sys2Proof.Origin) (confirm value : BitVec 8) {s : State} (hev : Evolves s₀ s) :
    Leaves (Evolves s₀) (execAdvanceCfgEpoch o confirm value s) := by
  unfold execAdvanceCfgEpoch
  try dsimp only
  repeat' with_reducible first
    | assumption | apply State.fuseCmd_ev | refine leaves_next ?_ | refine leaves_out ?_

theorem execRevokeVendor_ev {s₀ : State} (o : Sys2Proof.Origin) (confirm value : BitVec 8) {s : State} (hev : Evolves s₀ s) :
    Leaves (Evolves s₀) (execRevokeVendor o confirm value s) := by
  unfold execRevokeVendor
  try dsimp only
  repeat' with_reducible first
    | assumption | apply State.fuseCmd_ev | refine leaves_next ?_ | refine leaves_out ?_

theorem execRevokeOwner_ev {s₀ : State} (o : Sys2Proof.Origin) (confirm value : BitVec 8) {s : State} (hev : Evolves s₀ s) :
    Leaves (Evolves s₀) (execRevokeOwner o confirm value s) := by
  unfold execRevokeOwner
  try dsimp only
  repeat' with_reducible first
    | assumption | apply State.fuseCmd_ev | refine leaves_next ?_ | refine leaves_out ?_

theorem bitsKept_or {n : Nat} (a b : BitVec n) : bitsKept a (a ||| b) := by
  unfold bitsKept
  ext i hi
  simp only [BitVec.getElem_and, BitVec.getElem_or]
  cases a[i] <;> rfl

theorem bitsKept_self {n : Nat} (a : BitVec n) : bitsKept a a := BitVec.and_self

theorem advanceFrom_kept (n v : Nat) (p : BitVec 64 × BitVec 64) :
    bitsKept p.1 (advanceFrom n v p).1 ∧ bitsKept p.2 (advanceFrom n v p).2 := by
  induction n generalizing p with
  | zero => exact ⟨bitsKept_self _, bitsKept_self _⟩
  | succ n ih =>
    unfold advanceFrom
    dsimp only
    split
    · exact ⟨bitsKept_self _, bitsKept_self _⟩
    · have h := ih (p.1 ||| 1#64 <<< (63 - n), p.2 ||| 1#64 <<< (63 - n))
      exact ⟨bitsKept_trans (bitsKept_or _ _) h.1, bitsKept_trans (bitsKept_or _ _) h.2⟩

theorem Fuses.programmed_grown (f : Fuses) (op : FuseOp) : Fuses.Grown f (f.programmed op) := by
  have h1 := advanceFrom_kept 64
  cases op with
  | advanceFw v =>
    exact ⟨rfl, rfl, rfl, bitsKept_self _, bitsKept_self _, (h1 v f.fwPos).1, (h1 v f.fwPos).2, bitsKept_self _, bitsKept_self _⟩
  | advanceCfg v =>
    exact ⟨rfl, rfl, rfl, bitsKept_self _, bitsKept_self _, bitsKept_self _, bitsKept_self _, (h1 v f.cfgPos).1, (h1 v f.cfgPos).2⟩
  | revokeVendor i =>
    exact ⟨rfl, rfl, rfl, bitsKept_or _ _, bitsKept_self _, bitsKept_self _, bitsKept_self _, bitsKept_self _, bitsKept_self _⟩
  | revokeOwner i =>
    exact ⟨rfl, rfl, rfl, bitsKept_self _, bitsKept_or _ _, bitsKept_self _, bitsKept_self _, bitsKept_self _, bitsKept_self _⟩

theorem Fuses.partly_grown (f : Fuses) (op : FuseOp) (x : Nat) : Fuses.Grown f (f.partly op x) :=
  ⟨rfl, rfl, rfl, bitsKept_or _ _, bitsKept_or _ _, bitsKept_or _ _, bitsKept_or _ _, bitsKept_or _ _, bitsKept_or _ _⟩

theorem State.burn_ev {s₀ s : State} (f : Boot → Boot) (hev : Evolves s₀ s) (hf : Fuses.Grown s.boot.fuses (f s.boot).fuses) :
    Evolves s₀ (s.modBoot f) :=
  hev.trans ⟨rfl, List.prefix_rfl, Nat.le_refl _, hf, id, id, id⟩

theorem execFuseDone_ev {s₀ : State} (ok : Bool) {s : State} (hev : Evolves s₀ s) :
    Leaves (Evolves s₀) (execFuseDone ok s) := by
  unfold execFuseDone
  split
  · exact hev
  · have h (op : FuseOp) : Evolves s₀ (s.modBoot fun b =>
        { b with fuses := if ok then b.fuses.programmed op else b.fuses.partly op s.free, fuseCmd := none }) := by
      refine State.burn_ev _ hev ?_
      cases ok
      · exact Fuses.partly_grown _ _ _
      · exact Fuses.programmed_grown _ _
    exact leaves_next (State.fuseEnds_ev _ (State.set_ev _ _ _ (State.set_ev _ _ _ (ev_ite (h _) (State.tickFree_ev (h _))))))

theorem State.stageNo_ev {s₀ : State} {s : State} (code : Nat) (w : WStatus) (hev : Evolves s₀ s) :
    Evolves s₀ (State.stageNo s code w).1 := by
  unfold State.stageNo
  try dsimp only
  repeat' with_reducible first
    | assumption | apply State.set_ev

theorem State.stageRun_ev {s₀ : State} {s : State} (op : StageOp) (o : Out) (hev : Evolves s₀ s) :
    Evolves s₀ (State.stageRun s op o) := by
  unfold State.stageRun
  try dsimp only
  repeat' with_reducible first
    | assumption | apply State.set_ev | apply State.modBoot_ev | apply State.startClocks_ev | apply State.emit_ev
    | simp only [ev_mk] | intro _

theorem State.staging_ev {s₀ : State} {s : State} (o : Sys2Proof.Origin) (off : Nat) (act : State → WRes) (hev : Evolves s₀ s) (ev_act : ∀ x0, Evolves s₀ x0 → Evolves s₀ (act x0).1) :
    Evolves s₀ (State.staging s o off act).1 := by
  unfold State.staging
  try dsimp only
  repeat' with_reducible first
    | assumption | apply State.gate_ev | apply State.stageNo_ev | apply ev_act | refine ev_ite ?_ ?_
    | refine ev_ite_fst ?_ ?_ | split | intro _

theorem State.stagePage_ev {s₀ : State} {s : State} (p : Nat) (hev : Evolves s₀ s) :
    Evolves s₀ (State.stagePage s p) := by
  unfold State.stagePage
  try dsimp only
  repeat' with_reducible first
    | assumption | apply State.modBoot_ev | apply State.stageRun_ev | simp only [ev_mk] | intro _

theorem State.stageData_ev {s₀ : State} {s : State} (o : Sys2Proof.Origin) (data : Word) (hev : Evolves s₀ s) :
    Evolves s₀ (State.stageData s o data).1 := by
  unfold State.stageData
  try dsimp only
  repeat' with_reducible first
    | assumption | apply State.staging_ev | apply State.stageNo_ev | apply State.modBoot_ev | apply State.set_ev
    | apply State.stagePage_ev | apply State.done_ev | refine ev_ite ?_ ?_ | refine ev_ite_fst ?_ ?_
    | simp only [ev_mk] | split | intro _

theorem execStageDataWrite_ev {s₀ : State} (o : Sys2Proof.Origin) (data : Word) {s : State} (hev : Evolves s₀ s) :
    Leaves (Evolves s₀) (execStageDataWrite o data s) := by
  unfold execStageDataWrite
  try dsimp only
  repeat' with_reducible first
    | assumption | apply State.stageData_ev | refine leaves_next ?_ | refine leaves_out ?_

theorem State.stageMark_ev {s₀ : State} {s : State} (v : Nat) (hev : Evolves s₀ s) :
    Evolves s₀ (State.stageMark s v) := by
  unfold State.stageMark
  try dsimp only
  repeat' with_reducible first
    | assumption | apply State.stageRun_ev

theorem State.stageCmd_ev {s₀ : State} {s : State} (o : Sys2Proof.Origin) (op : Nat) (hev : Evolves s₀ s) :
    Evolves s₀ (State.stageCmd s o op).1 := by
  unfold State.stageCmd
  try dsimp only
  repeat' with_reducible first
    | assumption | apply State.staging_ev | apply State.done_ev | apply State.refuse_ev | apply State.stageNo_ev
    | apply State.stagePage_ev | apply State.stageRun_ev | apply State.stageMark_ev | refine ev_ite ?_ ?_
    | refine ev_ite_fst ?_ ?_ | simp only [ev_mk] | split | intro _ | refine ev_of_eq (by assumption) ?_

theorem State.stageAddr_ev {s₀ : State} {s : State} (o : Sys2Proof.Origin) (off : Nat) (hev : Evolves s₀ s) :
    Evolves s₀ (State.stageAddr s o off).1 := by
  unfold State.stageAddr
  try dsimp only
  repeat' with_reducible first
    | assumption | apply State.gate_ev | apply State.refuse_ev | apply State.set_ev | apply State.done_ev
    | refine ev_ite ?_ ?_ | refine ev_ite_fst ?_ ?_ | split | intro _

theorem State.stageMsg_ev {s₀ : State} {s : State} (o : Sys2Proof.Origin) (msg : Option (BitVec 4 × BitVec 8 × Word)) (op : Nat) (hev : Evolves s₀ s) :
    Evolves s₀ (State.stageMsg s o msg op) := by
  unfold State.stageMsg
  try dsimp only
  repeat' with_reducible first
    | assumption | apply State.stageCmd_ev | apply State.naonantServe_ev | apply State.stageAddr_ev
    | refine ev_ite ?_ ?_ | refine ev_ite_fst ?_ ?_ | simp only [ev_mk] | split | intro _
    | refine ev_of_eq (by assumption) ?_

theorem execErase64k_ev {s₀ : State} (o : Sys2Proof.Origin) (msg : Option (BitVec 4 × BitVec 8 × Word)) {s : State} (hev : Evolves s₀ s) :
    Leaves (Evolves s₀) (execErase64k o msg s) := by
  unfold execErase64k
  try dsimp only
  repeat' with_reducible first
    | assumption | apply State.stageMsg_ev | refine leaves_next ?_ | refine leaves_out ?_

theorem execMark_ev {s₀ : State} (o : Sys2Proof.Origin) (msg : Option (BitVec 4 × BitVec 8 × Word)) {s : State} (hev : Evolves s₀ s) :
    Leaves (Evolves s₀) (execMark o msg s) := by
  unfold execMark
  try dsimp only
  repeat' with_reducible first
    | assumption | apply State.stageMsg_ev | refine leaves_next ?_ | refine leaves_out ?_

theorem execUnmark_ev {s₀ : State} (o : Sys2Proof.Origin) (msg : Option (BitVec 4 × BitVec 8 × Word)) {s : State} (hev : Evolves s₀ s) :
    Leaves (Evolves s₀) (execUnmark o msg s) := by
  unfold execUnmark
  try dsimp only
  repeat' with_reducible first
    | assumption | apply State.stageMsg_ev | refine leaves_next ?_ | refine leaves_out ?_

theorem execStageFlush_ev {s₀ : State} (o : Sys2Proof.Origin) (msg : Option (BitVec 4 × BitVec 8 × Word)) {s : State} (hev : Evolves s₀ s) :
    Leaves (Evolves s₀) (execStageFlush o msg s) := by
  unfold execStageFlush
  try dsimp only
  repeat' with_reducible first
    | assumption | apply State.stageMsg_ev | refine leaves_next ?_ | refine leaves_out ?_

theorem execStageDone_ev {s₀ : State} (ok : Bool) {s : State} (hev : Evolves s₀ s) :
    Leaves (Evolves s₀) (execStageDone ok s) := by
  unfold execStageDone
  try dsimp only
  repeat' with_reducible first
    | assumption | apply State.modBoot_ev | apply State.set_ev | apply State.raise_ev | refine leaves_next ?_
    | refine leaves_out ?_ | refine ev_ite ?_ ?_ | refine ev_ite_fst ?_ ?_ | refine leaves_ite ?_ ?_
    | simp only [ev_mk] | split | intro _ | refine ev_of_eq (by assumption) ?_

end Sys2Proof.Machine
end

