-- ==== Sys2Proof/Laws/EvolvePipeline.lean ====
section
/-!
SUPPORT. What the definitions of Machine/Pipeline.lean keep.
-/

namespace Sys2Proof.Machine

set_option linter.all false

theorem State.enterFrame_ev {s₀ : State} {s : State} (r i : Nat) (f : List Byte) (fcs : Option Bool) (stampTag : Option Nat) (oneStep : Bool) (hev : Evolves s₀ s) :
    Evolves s₀ (State.enterFrame s r i f fcs stampTag oneStep) := by
  unfold State.enterFrame
  try dsimp only
  repeat' with_reducible first
    | assumption | apply State.tickFree_ev | apply State.startClocks_ev | refine ev_ite ?_ ?_ | simp only [ev_mk]
    | split

theorem State.hostFrame_ev {s₀ : State} {s : State} (f : List Byte) (stampTag : Option Nat) (oneStep : Bool) (hev : Evolves s₀ s) :
    Evolves s₀ (State.hostFrame s f stampTag oneStep) := by
  unfold State.hostFrame
  try dsimp only
  repeat' with_reducible first
    | assumption | apply State.bump_ev | apply State.enterFrame_ev | refine ev_ite ?_ ?_ | split

theorem execWindowReady_ev {s₀ : State} (role : Fin 4) (input : Fin 8) (frame : List Byte) {s : State} (hev : Evolves s₀ s) :
    Leaves (Evolves s₀) (execWindowReady role input frame s) := by
  unfold execWindowReady
  try dsimp only
  repeat' with_reducible first
    | assumption | apply State.bump_ev | apply State.useCells_ev | apply State.enterFrame_ev | refine leaves_next ?_
    | refine leaves_out ?_ | refine ev_ite ?_ ?_ | refine ev_ite_fst ?_ ?_ | refine leaves_ite ?_ ?_
    | simp only [ev_mk] | split

theorem State.fcsEnds_ev {s₀ : State} {s : State} (id : Nat) (ok : Bool) (hev : Evolves s₀ s) :
    Evolves s₀ (State.fcsEnds s id ok) := by
  unfold State.fcsEnds
  try dsimp only
  repeat' with_reducible first
    | assumption | refine ev_ite ?_ ?_ | simp only [ev_mk] | split | intro _

theorem State.countCrc_ev {s₀ : State} {s : State} (p : Nat) (hev : Evolves s₀ s) :
    Evolves s₀ (State.countCrc s p) := by
  unfold State.countCrc
  try dsimp only
  repeat' with_reducible first
    | assumption | apply State.bump_ev | refine ev_ite ?_ ?_ | split

theorem execFrameLastByte_ev {s₀ : State} (role : Fin 4) (input : Fin 8) (fcsOk fecBad : Bool) {s : State} (hev : Evolves s₀ s) :
    Leaves (Evolves s₀) (execFrameLastByte role input fcsOk fecBad s) := by
  unfold execFrameLastByte
  try dsimp only
  repeat' with_reducible first
    | assumption | apply State.bump_ev | apply State.raise_ev | apply State.countCrc_ev | apply State.fcsEnds_ev
    | apply State.msecRx_ev | refine leaves_next ?_ | refine leaves_out ?_ | refine ev_ite ?_ ?_
    | refine ev_ite_fst ?_ ?_ | refine leaves_ite ?_ ?_ | simp only [ev_mk] | split
    | refine ev_of_eq (by assumption) ?_

theorem State.parseEvent_ev {s₀ : State} {s : State} (r i : Nat) (e : ParseEnd) (hev : Evolves s₀ s) :
    Evolves s₀ (State.parseEvent s r i e) := by
  unfold State.parseEvent
  try dsimp only
  repeat' with_reducible first
    | assumption | apply State.raiseHeld_ev | refine ev_ite ?_ ?_ | simp only [ev_mk] | split
    | refine ev_of_eq (by assumption) ?_

theorem State.lookups_ev {s₀ : State} {s : State} (r i : Nat) (f : List Byte) (p : Parsed) (bad vbad : List (Nat × Nat)) (aclLate routeLate steered : Bool) (hev : Evolves s₀ s) :
    Evolves s₀ (State.lookups s r i f p bad vbad aclLate routeLate steered).1 := by
  unfold State.lookups
  try dsimp only
  repeat' with_reducible first
    | assumption | apply State.lookupIn_ev | apply State.searchIn_ev | refine ev_ite ?_ ?_ | refine ev_ite_fst ?_ ?_
    | simp only [ev_mk] | split | intro _ | refine ev_of_eq (by assumption) ?_
    | refine optAll_state (by assumption) ?_ | refine optAll_fst (by assumption) ?_

theorem State.recoverFate_ev {s₀ : State} {s : State} (r i : Nat) (p : Parsed) (stream : Nat) (fate : Fate) (hev : Evolves s₀ s) :
    Evolves s₀ (State.recoverFate s r i p stream fate).1 := by
  unfold State.recoverFate
  try dsimp only
  repeat' with_reducible first
    | assumption | apply State.recoverSeq_ev | refine ev_ite ?_ ?_ | refine ev_ite_fst ?_ ?_ | simp only [ev_mk]
    | split | intro _ | refine ev_of_eq (by assumption) ?_

theorem State.meter_ev {s₀ : State} {s : State} (r i : Nat) (word : Option Nat) (len : Nat) (fate : Fate) (hev : Evolves s₀ s) :
    Evolves s₀ (State.meter s r i word len fate).1 := by
  unfold State.meter
  try dsimp only
  repeat' with_reducible first
    | assumption | apply State.police_ev | refine ev_ite ?_ ?_ | refine ev_ite_fst ?_ ?_ | simp only [ev_mk] | split
    | refine ev_of_eq (by assumption) ?_

theorem State.headIn_ev {s₀ : State} {s : State} (f : PFrame) (bad vbad : List (Nat × Nat)) (aclLate routeLate : Bool) (hev : Evolves s₀ s) :
    Evolves s₀ (State.headIn s f bad vbad aclLate routeLate).1 := by
  unfold State.headIn
  try dsimp only
  repeat' with_reducible first
    | assumption | apply State.parseEvent_ev 
    | apply State.lookups_ev | apply State.tickFree_ev
    | apply State.resolve_ev | apply State.recoverFate_ev | apply State.meter_ev | apply State.learnFrom_ev
    | refine ev_ite ?_ ?_ | refine ev_ite_fst ?_ ?_ | simp only [ev_mk] | split | intro _
    | refine ev_of_eq (by assumption) ?_ | refine optAll_state (by assumption) ?_
    | refine optAll_fst (by assumption) ?_

theorem execHeadIn_ev {s₀ : State} (role : Fin 4) (input : Fin 8) (bad vbad : List (Nat × Nat)) (aclLate routeLate : Bool) {s : State} (hev : Evolves s₀ s) :
    Leaves (Evolves s₀) (execHeadIn role input bad vbad aclLate routeLate s) := by
  unfold execHeadIn
  try dsimp only
  repeat' with_reducible first
    | assumption | apply State.headLatch_ev | apply State.headIn_ev | refine leaves_next ?_ | refine leaves_out ?_
    | refine ev_ite ?_ ?_ | refine ev_ite_fst ?_ ?_ | refine leaves_ite ?_ ?_ | simp only [ev_mk] | split | intro _
    | refine ev_of_eq (by assumption) ?_

theorem State.sendCopies_ev {s₀ : State} {s : State} (f : PFrame) (l : List (Nat × Nat × Nat × Edit)) (md : Meta) (yellow : Bool) (hev : Evolves s₀ s) :
    Evolves s₀ (State.sendCopies s f l md yellow) := by
  unfold State.sendCopies
  try dsimp only
  repeat' with_reducible first
    | assumption | apply State.freeCells_ev | refine ev_ite ?_ ?_ | simp only [ev_mk] | split | intro _

theorem execClassificationResult_ev {s₀ : State} (role : Fin 4) {s : State} (hev : Evolves s₀ s) :
    Leaves (Evolves s₀) (execClassificationResult role s) := by
  unfold execClassificationResult
  try dsimp only
  repeat' with_reducible first
    | assumption | apply State.sendCopies_ev | refine leaves_next ?_ | refine leaves_out ?_ | simp only [ev_mk]
    | split | intro _ | refine ev_of_eq (by assumption) ?_

theorem execSeqReset_ev {s₀ : State} (role : Fin 4) (i : Fin 1024) {s : State} (hev : Evolves s₀ s) :
    Leaves (Evolves s₀) (execSeqReset role i s) := by
  unfold execSeqReset
  try dsimp only
  repeat' with_reducible first
    | assumption | apply State.set_ev | apply State.raiseHeld_ev | refine leaves_next ?_ | refine leaves_out ?_
    | refine ev_ite ?_ ?_ | refine ev_ite_fst ?_ ?_ | refine leaves_ite ?_ ?_ | simp only [ev_mk] | split
    | refine ev_of_eq (by assumption) ?_

theorem State.putIndir_ev {s₀ : State} {s : State} (k j v : Nat) (hev : Evolves s₀ s) :
    Evolves s₀ (State.putIndir s k j v) := by
  unfold State.putIndir
  try dsimp only
  repeat' with_reducible first
    | assumption | simp only [ev_mk]

theorem State.indirWrite_ev {s₀ : State} {s : State} (o : Sys2Proof.Origin) (r j v : Nat) (hev : Evolves s₀ s) :
    Evolves s₀ (State.indirWrite s o r j v).1 := by
  unfold State.indirWrite
  try dsimp only
  repeat' with_reducible first
    | assumption | apply State.gate_ev | apply State.putIndir_ev | apply State.done_ev | apply State.refuse_ev
    | refine ev_ite ?_ ?_ | refine ev_ite_fst ?_ ?_ | split | intro _

theorem execIndirectionWrite_ev {s₀ : State} (o : Sys2Proof.Origin) (role : Fin 4) (j : Fin 2048) (v : BitVec 16) {s : State} (hev : Evolves s₀ s) :
    Leaves (Evolves s₀) (execIndirectionWrite o role j v s) := by
  unfold execIndirectionWrite
  try dsimp only
  repeat' with_reducible first
    | assumption | apply State.indirWrite_ev | refine leaves_next ?_ | refine leaves_out ?_

theorem State.ppReset_ev {s₀ : State} {s : State} (r : Nat) (hev : Evolves s₀ s) :
    Evolves s₀ (State.ppReset s r) := by
  unfold State.ppReset
  try dsimp only
  repeat' with_reducible first
    | assumption | apply State.set_ev | simp only [ev_mk] | refine ev_foldl ?_ (fun _ _ _ => ?_) | intro _

end Sys2Proof.Machine
end

