-- ==== Sys2Proof/Laws/EvolveRingOps.lean ====
section
/-!
SUPPORT. What the definitions of Machine/RingOps.lean keep.
-/

namespace Sys2Proof.Machine

set_option linter.all false

theorem State.txFrames_ev {s₀ : State} {s : State} (q : Nat) (n0 : Nat) (hev : Evolves s₀ s) :
    Evolves s₀ (State.txFrames s q n0) := by
  induction n0 generalizing s with
  | zero =>
    unfold State.txFrames
    repeat' with_reducible first
      | assumption | apply State.qError_ev | apply State.take_ev | apply State.qPresent_ev | apply State.dmaRead_ev
      | refine ev_ite ?_ ?_ | simp only [ev_mk] | refine ev_foldl ?_ (fun _ _ _ => ?_) | split | intro _
      | refine ev_of_eq (by assumption) ?_
  | succ n ih =>
    unfold State.txFrames
    repeat' with_reducible first
      | assumption | apply ih | apply State.qError_ev | apply State.take_ev | apply State.qPresent_ev
      | apply State.dmaRead_ev | refine ev_ite ?_ ?_ | simp only [ev_mk] | refine ev_foldl ?_ (fun _ _ _ => ?_) | split
      | intro _ | refine ev_of_eq (by assumption) ?_

theorem State.rxPurge_ev {s₀ : State} {s : State} (q : Nat) (n0 : Nat) (hev : Evolves s₀ s) :
    Evolves s₀ (State.rxPurge s q n0) := by
  induction n0 generalizing s with
  | zero =>
    unfold State.rxPurge
    repeat' with_reducible first
      | assumption | apply State.setTmq_ev | apply State.bump_ev | refine ev_ite ?_ ?_ | split
  | succ n ih =>
    unfold State.rxPurge
    repeat' with_reducible first
      | assumption | apply ih | apply State.setTmq_ev | apply State.bump_ev | refine ev_ite ?_ ?_ | split

theorem State.rxFill_ev {s₀ : State} {s : State} (q w size : Nat) (m : Meta) (n0 : List (Nat × List Byte)) (n1 : List Byte) (hev : Evolves s₀ s) :
    Evolves s₀ (State.rxFill s q w size m n0 n1) := by
  induction n0 generalizing s n1 with
  | nil =>
    unfold State.rxFill
    repeat' with_reducible first
      | assumption | apply State.qData_ev | apply State.take_ev | apply State.qWrite_ev | refine ev_ite ?_ ?_ | split
  | cons x l ih =>
    unfold State.rxFill
    repeat' with_reducible first
      | assumption | apply State.qData_ev | apply ih | apply State.take_ev | apply State.qWrite_ev | refine ev_ite ?_ ?_ | split

theorem State.rxDeliver_ev {s₀ : State} {s : State} (q : Nat) (f : TmFrame) (hev : Evolves s₀ s) :
    Evolves s₀ (State.rxDeliver s q f) := by
  unfold State.rxDeliver
  try dsimp only
  repeat' with_reducible first
    | assumption | apply State.qPresent_ev | apply State.rxFill_ev | apply State.take_ev | apply State.qDone_ev
    | intro _

theorem State.takeEntries_ev {s₀ : State} {s : State} (k q : Nat) (n0 : List (Nat × List Byte)) (hev : Evolves s₀ s) :
    Evolves s₀ (State.takeEntries s k q n0) := by
  induction n0 generalizing s with
  | nil =>
    unfold State.takeEntries
    repeat' with_reducible first
      | assumption | apply State.qError_ev | apply State.modQ_ev | simp only [ev_mk] | split | intro _
      | refine ev_of_eq (by assumption) ?_
  | cons x l ih =>
    unfold State.takeEntries
    repeat' with_reducible first
      | assumption | apply ih | apply State.qError_ev | apply State.modQ_ev | simp only [ev_mk] | split | intro _
      | refine ev_of_eq (by assumption) ?_

theorem State.askSource_ev {s₀ : State} {s : State} (q : Nat) (e : List Byte) (hev : Evolves s₀ s) :
    Evolves s₀ (State.askSource s q e) := by
  unfold State.askSource
  try dsimp only
  repeat' with_reducible first
    | assumption | apply State.qPresent_ev | apply State.dmaRead_ev | simp only [ev_mk] | split | intro _
    | refine ev_of_eq (by assumption) ?_

theorem State.askSources_ev {s₀ : State} {s : State} (fuel : Nat) (hev : Evolves s₀ s) :
    Evolves s₀ (State.askSources s fuel) := by
  induction fuel generalizing s with
  | zero => exact hev
  | succ n ih =>
    unfold State.askSources
    dsimp only
    split
    · exact hev
    · split
      · exact hev
      · split
        · exact ih (State.askSource_ev _ _ (Evolves.of_fields hev rfl rfl rfl rfl rfl rfl rfl))
        · exact Evolves.of_fields hev rfl rfl rfl rfl rfl rfl rfl

theorem State.routeMsix_ev {s₀ : State} {s : State} (ev : Nat) (hev : Evolves s₀ s) :
    Evolves s₀ (State.routeMsix s ev) := by
  unfold State.routeMsix
  try dsimp only
  repeat' with_reducible first
    | assumption | apply State.msix_ev

theorem State.evZeros_ev {s₀ : State} {s : State} (q : Nat) (hev : Evolves s₀ s) :
    Evolves s₀ (State.evZeros s q) := by
  unfold State.evZeros
  try dsimp only
  repeat' with_reducible first
    | assumption | apply State.qWrite_ev | apply State.modQ_ev | refine ev_ite ?_ ?_ | refine ev_ite_fst ?_ ?_
    | simp only [ev_mk] | split | intro _ | refine ev_of_eq (by assumption) ?_
    | refine optAll_state (by assumption) ?_ | refine optAll_fst (by assumption) ?_

theorem State.evOverflow_ev {s₀ : State} {s0 : State} (q : Nat) (ev : Nat) (hev : Evolves s₀ s0) :
    Evolves s₀ (State.evOverflow s0 q ev) := by
  unfold State.evOverflow
  try dsimp only
  repeat' with_reducible first
    | assumption | apply State.evZeros_ev | apply State.modQ_ev | apply State.qWrite_ev | apply State.set_ev
    | apply State.headRecord_ev | apply State.routeMsix_ev | apply State.raiseHeld_ev | refine ev_ite ?_ ?_
    | refine ev_ite_fst ?_ ?_ | simp only [ev_mk] | split | intro _ | refine ev_of_eq (by assumption) ?_
    | refine optAll_state (by assumption) ?_ | refine optAll_fst (by assumption) ?_

theorem State.evWrite_ev {s₀ : State} {s : State} (q : Nat) (e : Staged) (hev : Evolves s₀ s) :
    Evolves s₀ (State.evWrite s q e) := by
  unfold State.evWrite
  try dsimp only
  repeat' with_reducible first
    | assumption | apply State.evZeros_ev | apply State.qWrite_ev | apply State.set_ev | apply State.modQ_ev
    | apply State.routeMsix_ev | apply State.qDue_ev | refine ev_ite ?_ ?_ | refine ev_ite_fst ?_ ?_
    | simp only [ev_mk] | split | intro _ | refine ev_of_eq (by assumption) ?_
    | refine optAll_state (by assumption) ?_ | refine optAll_fst (by assumption) ?_

theorem State.evDeliver_ev {s₀ : State} {s : State} (q : Nat) (e : Staged) (hev : Evolves s₀ s) :
    Evolves s₀ (State.evDeliver s q e) := by
  unfold State.evDeliver
  try dsimp only
  repeat' with_reducible first
    | assumption | apply State.evOverflow_ev | apply State.qPresent_ev | apply State.evWrite_ev | refine ev_ite ?_ ?_
    | split | intro _

end Sys2Proof.Machine
end

