-- ==== Sys2Proof/Laws/EvolveRings.lean ====
section
/-!
SUPPORT. What the definitions of Machine/Rings.lean keep.
-/

namespace Sys2Proof.Machine

set_option linter.all false

theorem State.putStaged_ev {s₀ s : State} (l : List Staged) (hev : Evolves s₀ s) (hl : l.length ≤ s.staged.length) :
    Evolves s₀ (s.putStaged l) :=
  State.set_ev _ _ _ (hev.trans ⟨rfl, List.prefix_rfl, Nat.le_refl _, Fuses.Grown.refl _, id, id, Nat.le_trans hl⟩)

theorem takeStaged_length (f : Staged → Bool) (l : List Staged) (e : Staged) (r : List Staged) (h : takeStaged f l = some (e, r)) :
    r.length ≤ l.length := by
  induction l generalizing e r with
  | nil => cases h
  | cons x l ih =>
    unfold takeStaged at h
    split at h
    · have h := (Prod.mk.inj (Option.some.inj h)).2
      split at h <;> subst h <;> simp
    · obtain ⟨⟨y, ys⟩, h1, h2⟩ := Option.map_eq_some_iff.1 h
      have h2 := (Prod.mk.inj h2).2
      subst h2
      simpa using ih y ys h1

theorem execEventRingWrite_ev {s₀ s : State} (hev : Evolves s₀ s) : Leaves (Evolves s₀) (execEventRingWrite s) := by
  unfold execEventRingWrite
  split
  · exact hev
  · rename_i e rest h
    have h1 := State.putStaged_ev rest hev (takeStaged_length _ _ _ _ h)
    refine leaves_next ?_
    split
    · exact State.evDeliver_ev _ _ h1
    · exact h1

theorem State.queueDoorbell_ev {s₀ : State} {s : State} (o : Sys2Proof.Origin) (v : Word) (hev : Evolves s₀ s) :
    Evolves s₀ (State.queueDoorbell s o v).1 := by
  unfold State.queueDoorbell
  try dsimp only
  repeat' with_reducible first
    | assumption | apply State.doorbell_ev | apply State.done_ev | apply State.gate_ev | refine ev_ite ?_ ?_
    | refine ev_ite_fst ?_ ?_ | simp only [ev_mk] | split | intro _ | refine ev_of_eq (by assumption) ?_

theorem execQueueDoorbell_ev {s₀ : State} (o : Sys2Proof.Origin) (v : Word) {s : State} (hev : Evolves s₀ s) :
    Leaves (Evolves s₀) (execQueueDoorbell o v s) := by
  unfold execQueueDoorbell
  try dsimp only
  repeat' with_reducible first
    | assumption | apply State.queueDoorbell_ev | refine leaves_next ?_ | refine leaves_out ?_

theorem State.fetched_ev {s₀ : State} {s : State} (k q : Nat) (es : List (Nat × List Byte)) (hev : Evolves s₀ s) :
    Evolves s₀ (State.fetched s k q es) := by
  unfold State.fetched
  try dsimp only
  repeat' with_reducible first
    | assumption | apply State.takeEntries_ev | apply State.txFrames_ev | apply State.askSources_ev
    | apply State.qFetch_ev | refine ev_ite ?_ ?_ | split

theorem execDescriptorCompletion_ev {s₀ : State} {s : State} (kind : Fin 5) (q : Fin 4096) (data : List Byte) (hev : Evolves s₀ s) :
    Leaves (Evolves s₀) (execDescriptorCompletion kind q data s) := by
  unfold execDescriptorCompletion
  try dsimp only
  repeat' with_reducible first
    | assumption | apply State.stray_ev | apply State.readEnds_ev | apply State.modQ_ev | apply State.fetched_ev
    | refine ev_ite ?_ ?_ | refine ev_ite_fst ?_ ?_ | refine leaves_next ?_ | refine leaves_out ?_
    | refine leaves_ite ?_ ?_ | simp only [ev_mk] | split | intro _ | refine ev_of_eq (by assumption) ?_
    | refine optAll_state (by assumption) ?_ | refine optAll_fst (by assumption) ?_

theorem State.endReads_ev {s₀ : State} {s : State} (k q : Nat) (n0 : Nat) (hev : Evolves s₀ s) :
    Evolves s₀ (State.endReads s k q n0) := by
  induction n0 generalizing s with
  | zero =>
    unfold State.endReads
    repeat' with_reducible first
      | assumption | apply State.readEnds_ev | simp only [ev_mk] | split | refine ev_of_eq (by assumption) ?_
  | succ n ih =>
    unfold State.endReads
    repeat' with_reducible first
      | assumption | apply ih | apply State.readEnds_ev | simp only [ev_mk] | split
      | refine ev_of_eq (by assumption) ?_

theorem execTxDataCompletion_ev {s₀ : State} {s : State} (q : Fin 4096) (data : List Byte) (hev : Evolves s₀ s) :
    Leaves (Evolves s₀) (execTxDataCompletion q data s) := by
  unfold execTxDataCompletion
  try dsimp only
  repeat' with_reducible first
    | assumption | apply takeTx_ev | apply State.readEnds_ev | apply State.stray_ev | apply State.endReads_ev
    | apply State.hostFrame_ev | apply State.toTm_ev | apply State.qDone_ev | refine ev_ite ?_ ?_
    | refine ev_ite_fst ?_ ?_ | refine leaves_next ?_ | refine leaves_out ?_ | refine leaves_ite ?_ ?_
    | simp only [ev_mk] | split | intro _ | refine ev_of_eq (by assumption) ?_
    | refine optAll_state (by assumption) ?_ | refine optAll_fst (by assumption) ?_

theorem execQueueEnable_ev {s₀ : State} (o : Sys2Proof.Origin) (kind : Fin 5) (q : Fin 4096) {s : State} (hev : Evolves s₀ s) :
    Leaves (Evolves s₀) (execQueueEnable o kind q s) := by
  unfold execQueueEnable
  try dsimp only
  repeat' with_reducible first
    | assumption | apply State.qCommand_ev | refine leaves_next ?_ | refine leaves_out ?_ | refine ev_ite ?_ ?_
    | refine ev_ite_fst ?_ ?_ | refine leaves_ite ?_ ?_ | split

theorem execQueueDisable_ev {s₀ : State} (o : Sys2Proof.Origin) (kind : Fin 5) (q : Fin 4096) {s : State} (hev : Evolves s₀ s) :
    Leaves (Evolves s₀) (execQueueDisable o kind q s) := by
  unfold execQueueDisable
  try dsimp only
  repeat' with_reducible first
    | assumption | apply State.qCommand_ev | refine leaves_next ?_ | refine leaves_out ?_ | refine ev_ite ?_ ?_
    | refine ev_ite_fst ?_ ?_ | refine leaves_ite ?_ ?_ | split

theorem execQueueReset_ev {s₀ : State} (o : Sys2Proof.Origin) (kind : Fin 5) (q : Fin 4096) {s : State} (hev : Evolves s₀ s) :
    Leaves (Evolves s₀) (execQueueReset o kind q s) := by
  unfold execQueueReset
  try dsimp only
  repeat' with_reducible first
    | assumption | apply State.qCommand_ev | refine leaves_next ?_ | refine leaves_out ?_ | refine ev_ite ?_ ?_
    | refine ev_ite_fst ?_ ?_ | refine leaves_ite ?_ ?_ | split

theorem State.qeReset_ev {s₀ : State} {s : State} (hev : Evolves s₀ s) :
    Evolves s₀ (State.qeReset s) := by
  unfold State.qeReset
  try dsimp only
  repeat' with_reducible first
    | assumption | apply State.qResetHalt_ev | refine ev_ite ?_ ?_ | refine ev_ite_fst ?_ ?_
    | refine ev_foldl ?_ (fun _ _ _ => ?_) | refine ev_foldl_fst ?_ (fun _ _ _ => ?_) | simp only [ev_mk] | split
    | intro _ | refine ev_of_eq (by assumption) ?_ | refine optAll_state (by assumption) ?_
    | refine optAll_fst (by assumption) ?_

theorem State.qGoOn_ev {s₀ : State} {s : State} (k q : Nat) (hev : Evolves s₀ s) :
    Evolves s₀ (State.qGoOn s k q) := by
  unfold State.qGoOn
  try dsimp only
  repeat' with_reducible first
    | assumption | apply State.txFrames_ev | apply State.fetched_ev | apply State.askSources_ev
    | apply State.qFetch_ev | refine ev_ite ?_ ?_ | split

theorem State.qeResume_ev {s₀ : State} {s : State} (hev : Evolves s₀ s) :
    Evolves s₀ (State.qeResume s) := by
  unfold State.qeResume
  try dsimp only
  repeat' with_reducible first
    | assumption | apply State.qGoOn_ev | refine ev_foldl ?_ (fun _ _ _ => ?_) | intro _

theorem State.igeResume_ev {s₀ : State} {s : State} (hev : Evolves s₀ s) :
    Evolves s₀ (State.igeResume s) := by
  unfold State.igeResume
  try dsimp only
  repeat' with_reducible first
    | assumption | apply State.qFetch_ev | apply State.askSources_ev | apply State.fetched_ev | refine ev_ite ?_ ?_
    | refine ev_ite_fst ?_ ?_ | refine ev_foldl ?_ (fun _ _ _ => ?_) | refine ev_foldl_fst ?_ (fun _ _ _ => ?_)
    | simp only [ev_mk] | split | intro _ | refine ev_of_eq (by assumption) ?_
    | refine optAll_state (by assumption) ?_ | refine optAll_fst (by assumption) ?_

end Sys2Proof.Machine
end

