-- ==== Sys2Proof/Laws/EvolveScOps.lean ====
section
/-!
SUPPORT. What the definitions of Machine/ScOps.lean keep.
-/

namespace Sys2Proof.Machine

set_option linter.all false

theorem State.scEnd_ev {s₀ : State} {s : State} (k : Nat) (e : List Byte) (st : Nat) (hev : Evolves s₀ s) :
    Evolves s₀ (State.scEnd s k e st) := by
  unfold State.scEnd
  try dsimp only
  repeat' with_reducible first
    | assumption | apply State.take_ev | apply State.qPresent_ev | apply State.qWrite_ev | apply State.qDone_ev
    | intro _

theorem State.argWrite_ev {s₀ : State} {s : State} (k addr : Nat) (b : List Byte) (hev : Evolves s₀ s) :
    Evolves s₀ (State.argWrite s k addr b) := by
  unfold State.argWrite
  try dsimp only
  repeat' with_reducible first
    | assumption | apply State.dmaWriteBy_ev | refine ev_ite ?_ ?_ | refine ev_ite_fst ?_ ?_ | simp only [ev_mk]
    | split | intro _ | refine ev_of_eq (by assumption) ?_ | refine optAll_state (by assumption) ?_
    | refine optAll_fst (by assumption) ?_

theorem State.argIn_ev {s₀ : State} {s : State} (k : Nat) (hev : Evolves s₀ s) :
    Evolves s₀ (State.argIn s k) := by
  unfold State.argIn
  try dsimp only
  repeat' with_reducible first
    | assumption | apply State.readEnds_ev | refine ev_ite ?_ ?_ | refine ev_ite_fst ?_ ?_ | simp only [ev_mk] | split
    | intro _ | refine ev_of_eq (by assumption) ?_ | refine optAll_state (by assumption) ?_
    | refine optAll_fst (by assumption) ?_

theorem State.argStray_ev {s₀ : State} {s : State} (k : Nat) (hev : Evolves s₀ s) :
    Evolves s₀ (State.argStray s k) := by
  unfold State.argStray
  try dsimp only
  repeat' with_reducible first
    | assumption | apply State.argIn_ev | apply State.stray_ev | refine ev_ite ?_ ?_ | refine ev_ite_fst ?_ ?_
    | simp only [ev_mk] | split | intro _ | refine ev_of_eq (by assumption) ?_
    | refine optAll_state (by assumption) ?_ | refine optAll_fst (by assumption) ?_

theorem State.scRun_ev {s₀ : State} {s : State} (k op : Nat) (f : State → List Byte → State) (hev : Evolves s₀ s) (ev_f : ∀ x0 x1, Evolves s₀ x0 → Evolves s₀ (f x0 x1)) :
    Evolves s₀ (State.scRun s k op f) := by
  unfold State.scRun
  try dsimp only
  repeat' with_reducible first
    | assumption | apply ev_f | apply State.argStray_ev | apply State.argIn_ev
    | apply State.qPresent_ev | refine ev_ite ?_ ?_ | refine ev_ite_fst ?_ ?_ | simp only [ev_mk] | split | intro _
    | refine ev_of_eq (by assumption) ?_ | refine optAll_state (by assumption) ?_
    | refine optAll_fst (by assumption) ?_

theorem State.sc_ev {s₀ : State} {s : State} (k op : Nat) (f : State → List Byte → State × Nat) (hev : Evolves s₀ s) (ev_f : ∀ x0 x1, Evolves s₀ x0 → Evolves s₀ (f x0 x1).1) :
    Evolves s₀ (State.sc s k op f) := by
  unfold State.sc
  try dsimp only
  repeat' with_reducible first
    | assumption | apply ev_f | apply State.scRun_ev | apply State.scEnd_ev | refine ev_ite ?_ ?_
    | refine ev_ite_fst ?_ ?_ | simp only [ev_mk] | split | intro _ | refine ev_of_eq (by assumption) ?_
    | refine optAll_state (by assumption) ?_ | refine optAll_fst (by assumption) ?_

theorem State.duty_ev {s₀ s : State} (k pf : Nat) (f : State × Nat) (hev : Evolves s₀ s) (hf : Evolves s₀ f.1) :
    Evolves s₀ (s.duty k pf f).1 := by
  unfold State.duty
  split
  · exact hf
  · exact hev

end Sys2Proof.Machine
end

