-- ==== Sys2Proof/Laws/EvolveIntegrity.lean ====
section
/-!
SUPPORT. What the definitions of Machine/Integrity.lean keep.
-/

namespace Sys2Proof.Machine

set_option linter.all false

theorem State.igeDoorbell_ev {s₀ : State} {s : State} (o : Sys2Proof.Origin) (v : Word) (hev : Evolves s₀ s) :
    Evolves s₀ (State.igeDoorbell s o v).1 := by
  unfold State.igeDoorbell
  try dsimp only
  repeat' with_reducible first
    | assumption | apply State.doorbell_ev | apply State.done_ev | apply State.gate_ev | refine ev_ite ?_ ?_
    | refine ev_ite_fst ?_ ?_ | simp only [ev_mk] | split | intro _ | refine ev_of_eq (by assumption) ?_

theorem execIntegrityDoorbell_ev {s₀ : State} (o : Sys2Proof.Origin) (v : Word) {s : State} (hev : Evolves s₀ s) :
    Leaves (Evolves s₀) (execIntegrityDoorbell o v s) := by
  unfold execIntegrityDoorbell
  try dsimp only
  repeat' with_reducible first
    | assumption | apply State.igeDoorbell_ev | refine leaves_next ?_ | refine leaves_out ?_

theorem State.keyRead_ev {s₀ : State} {s : State} (slot : Nat) (lost : Bool) (hev : Evolves s₀ s) :
    Evolves s₀ (State.keyRead s slot lost).1 := by
  unfold State.keyRead
  try dsimp only
  repeat' with_reducible first
    | assumption | apply State.keyLost_ev | apply State.tickFree_ev | refine ev_ite ?_ ?_ | refine ev_ite_fst ?_ ?_
    | split

theorem State.laneStray_ev {s₀ : State} {s : State} (q : Nat) (data : List Byte) (hev : Evolves s₀ s) :
    Evolves s₀ (State.laneStray s q data) := by
  unfold State.laneStray
  try dsimp only
  repeat' with_reducible first
    | assumption | apply State.readEnds_ev | apply State.stray_ev | refine ev_ite ?_ ?_ | refine ev_ite_fst ?_ ?_
    | simp only [ev_mk] | split | intro _ | refine ev_of_eq (by assumption) ?_
    | refine optAll_state (by assumption) ?_ | refine optAll_fst (by assumption) ?_

theorem State.laneEnter_ev {s₀ : State} {s : State} (q op : Nat) (data : List Byte) (lost : Bool) (hev : Evolves s₀ s) :
    Evolves s₀ (State.laneEnter s q op data lost) := by
  unfold State.laneEnter
  try dsimp only
  repeat' with_reducible first
    | assumption | apply State.fetched_ev | apply State.laneOf_ev | apply State.laneTakes_ev | apply State.rqSlot_ev
    | apply State.readEnds_ev | apply State.keyRead_ev | apply State.keyStatus_ev | apply State.laneStray_ev
    | refine ev_ite ?_ ?_ | refine ev_ite_fst ?_ ?_ | simp only [ev_mk] | split | intro _
    | refine ev_of_eq (by assumption) ?_ | refine optAll_state (by assumption) ?_
    | refine optAll_fst (by assumption) ?_

theorem execCmacGen_ev {s₀ : State} (q : Fin 64) (data : List Byte) (lost : Bool) {s : State} (hev : Evolves s₀ s) :
    Leaves (Evolves s₀) (execCmacGen q data lost s) := by
  unfold execCmacGen
  try dsimp only
  repeat' with_reducible first
    | assumption | apply State.laneEnter_ev | refine leaves_next ?_ | refine leaves_out ?_

theorem execCmacVerify_ev {s₀ : State} (q : Fin 64) (data : List Byte) (lost : Bool) {s : State} (hev : Evolves s₀ s) :
    Leaves (Evolves s₀) (execCmacVerify q data lost s) := by
  unfold execCmacVerify
  try dsimp only
  repeat' with_reducible first
    | assumption | apply State.laneEnter_ev | refine leaves_next ?_ | refine leaves_out ?_

theorem execGmacGen_ev {s₀ : State} (q : Fin 64) (data : List Byte) (lost : Bool) {s : State} (hev : Evolves s₀ s) :
    Leaves (Evolves s₀) (execGmacGen q data lost s) := by
  unfold execGmacGen
  try dsimp only
  repeat' with_reducible first
    | assumption | apply State.laneEnter_ev | refine leaves_next ?_ | refine leaves_out ?_

theorem execGmacVerify_ev {s₀ : State} (q : Fin 64) (data : List Byte) (lost : Bool) {s : State} (hev : Evolves s₀ s) :
    Leaves (Evolves s₀) (execGmacVerify q data lost s) := by
  unfold execGmacVerify
  try dsimp only
  repeat' with_reducible first
    | assumption | apply State.laneEnter_ev | refine leaves_next ?_ | refine leaves_out ?_

theorem State.laneDone_ev {s₀ : State} {s : State} (m : LaneMsg) (hev : Evolves s₀ s) :
    Evolves s₀ (State.laneDone s m) := by
  unfold State.laneDone
  try dsimp only
  repeat' with_reducible first
    | assumption | apply State.qPresent_ev | apply State.qWrite_ev | apply State.take_ev | apply State.qDone_ev
    | refine ev_ite ?_ ?_ | refine ev_ite_fst ?_ ?_ | simp only [ev_mk] | split | intro _
    | refine ev_of_eq (by assumption) ?_ | refine optAll_state (by assumption) ?_
    | refine optAll_fst (by assumption) ?_

theorem execLaneMessageDone_ev {s₀ : State} (q : Fin 64) {s : State} (hev : Evolves s₀ s) :
    Leaves (Evolves s₀) (execLaneMessageDone q s) := by
  unfold execLaneMessageDone
  try dsimp only
  repeat' with_reducible first
    | assumption | apply State.laneDone_ev | refine leaves_next ?_ | refine leaves_out ?_ | simp only [ev_mk] | split
    | refine ev_of_eq (by assumption) ?_

theorem State.igeCmd_ev {s₀ : State} {s : State} (o : Sys2Proof.Origin) (f : State → Nat → Nat → Nat → List Byte → State × Nat) (hev : Evolves s₀ s) (ev_f : ∀ x0 x1 x2 x3 x4, Evolves s₀ x0 → Evolves s₀ (f x0 x1 x2 x3 x4).1) :
    Evolves s₀ (State.igeCmd s o f).1 := by
  unfold State.igeCmd
  try dsimp only
  repeat' with_reducible first
    | assumption | apply State.gate_ev | apply State.set_ev | apply State.done_ev | apply ev_f | refine ev_ite ?_ ?_
    | refine ev_ite_fst ?_ ?_ | split | intro _ | refine ev_of_eq (by assumption) ?_

theorem State.scKey_ev {s₀ : State} {s : State} (k : Nat) (e : List Byte) (f : State → Nat → State × Nat) (hev : Evolves s₀ s) (ev_f : ∀ x0 x1, Evolves s₀ x0 → Evolves s₀ (f x0 x1).1) :
    Evolves s₀ (State.scKey s k e f).1 := by
  unfold State.scKey
  try dsimp only
  repeat' with_reducible first
    | assumption | apply State.duty_ev | apply ev_f | refine ev_ite ?_ ?_ | refine ev_ite_fst ?_ ?_ | split

theorem execKeyLoad_ev {s₀ : State} {s : State} (o : Sys2Proof.Origin) (arg : List Byte) (bad : Bool) (hev : Evolves s₀ s) :
    Leaves (Evolves s₀) (execKeyLoad o arg bad s) := by
  unfold execKeyLoad
  try dsimp only
  repeat' with_reducible first
    | assumption | apply State.sc_ev | apply State.scKey_ev | apply State.keyLoad_ev | apply State.igeCmd_ev
    | refine ev_ite ?_ ?_ | refine ev_ite_fst ?_ ?_ | refine leaves_next ?_ | refine leaves_out ?_
    | refine leaves_ite ?_ ?_ | simp only [ev_mk] | split | intro _ | refine ev_of_eq (by assumption) ?_
    | refine optAll_state (by assumption) ?_ | refine optAll_fst (by assumption) ?_

theorem execKeyDerive_ev {s₀ : State} {s : State} (o : Sys2Proof.Origin) (bad : Bool) (hev : Evolves s₀ s) :
    Leaves (Evolves s₀) (execKeyDerive o bad s) := by
  unfold execKeyDerive
  try dsimp only
  repeat' with_reducible first
    | assumption | apply State.igeCmd_ev | apply State.keyDerive_ev | refine ev_ite ?_ ?_ | refine ev_ite_fst ?_ ?_
    | refine leaves_next ?_ | refine leaves_out ?_ | refine leaves_ite ?_ ?_ | simp only [ev_mk] | split | intro _
    | refine ev_of_eq (by assumption) ?_ | refine optAll_state (by assumption) ?_
    | refine optAll_fst (by assumption) ?_

theorem execKeyClear_ev {s₀ : State} (o : Sys2Proof.Origin) {s : State} (hev : Evolves s₀ s) :
    Leaves (Evolves s₀) (execKeyClear o s) := by
  unfold execKeyClear
  try dsimp only
  repeat' with_reducible first
    | assumption | apply State.sc_ev | apply State.scKey_ev | apply State.keyClear_ev | apply State.igeCmd_ev
    | refine leaves_next ?_ | refine leaves_out ?_ | simp only [ev_mk] | split | intro _
    | refine ev_of_eq (by assumption) ?_

theorem execRngFault_ev {s₀ : State} {s : State} (hev : Evolves s₀ s) :
    Leaves (Evolves s₀) (execRngFault s) := by
  unfold execRngFault
  try dsimp only
  repeat' with_reducible first
    | assumption | apply State.igeEvent_ev | refine leaves_next ?_ | refine leaves_out ?_ | simp only [ev_mk]

theorem State.igeReset_ev {s₀ : State} {s : State} (hev : Evolves s₀ s) :
    Evolves s₀ (State.igeReset s) := by
  unfold State.igeReset
  try dsimp only
  repeat' with_reducible first
    | assumption | apply State.qResetHalt_ev | apply State.set_ev | refine ev_ite ?_ ?_ | refine ev_ite_fst ?_ ?_
    | refine ev_foldl ?_ (fun _ _ _ => ?_) | refine ev_foldl_fst ?_ (fun _ _ _ => ?_) | simp only [ev_mk] | split
    | intro _ | refine ev_of_eq (by assumption) ?_ | refine optAll_state (by assumption) ?_
    | refine optAll_fst (by assumption) ?_

end Sys2Proof.Machine
end

