-- ==== Sys2Proof/Laws/EvolveMotion.lean ====
section
/-!
SUPPORT. What the definitions of Machine/Motion.lean keep.
-/

namespace Sys2Proof.Machine

set_option linter.all false

theorem State.axisRelease_ev {s₀ : State} {s : State} (o : Sys2Proof.Origin) (a : Nat) (hev : Evolves s₀ s) :
    Evolves s₀ (State.axisRelease s o a).1 := by
  unfold State.axisRelease
  try dsimp only
  repeat' with_reducible first
    | assumption | apply State.own_ev | apply State.gate_ev | apply State.modMpi_ev | apply State.done_ev
    | apply State.refuse_ev | refine ev_ite ?_ ?_ | refine ev_ite_fst ?_ ?_ | simp only [ev_mk] | split | intro _
    | refine ev_of_eq (by assumption) ?_

theorem execAxisRelease_ev {s₀ : State} (o : Sys2Proof.Origin) (a : Fin 4096) {s : State} (hev : Evolves s₀ s) :
    Leaves (Evolves s₀) (execAxisRelease o a s) := by
  unfold execAxisRelease
  try dsimp only
  repeat' with_reducible first
    | assumption | apply State.axisRelease_ev | refine leaves_next ?_ | refine leaves_out ?_

theorem State.pushSlot_ev {s₀ : State} {s : State} (o : Sys2Proof.Origin) (k : Nat) (hev : Evolves s₀ s) :
    Evolves s₀ (State.pushSlot s o k).1 := by
  unfold State.pushSlot
  try dsimp only
  repeat' with_reducible first
    | assumption | apply State.gate_ev | apply State.modMpi_ev | apply State.done_ev | simp only [ev_mk] | intro _

theorem execPush_ev {s₀ : State} (o : Sys2Proof.Origin) (k : Fin 16) {s : State} (hev : Evolves s₀ s) :
    Leaves (Evolves s₀) (execPush o k s) := by
  unfold execPush
  try dsimp only
  repeat' with_reducible first
    | assumption | apply State.pushSlot_ev | refine leaves_next ?_ | refine leaves_out ?_

theorem execHostSlotPlacement_ev {s₀ : State} (k : Fin 16) {s : State} (hev : Evolves s₀ s) :
    Leaves (Evolves s₀) (execHostSlotPlacement k s) := by
  unfold execHostSlotPlacement
  try dsimp only
  repeat' with_reducible first
    | assumption | apply State.modMpi_ev | apply State.placeSample_ev | refine leaves_next ?_ | refine leaves_out ?_
    | refine ev_ite ?_ ?_ | refine ev_ite_fst ?_ ?_ | refine leaves_ite ?_ ?_ | simp only [ev_mk] | split | intro _

theorem execGeneratorPlacement_ev {s₀ : State} (k : Fin 16) {s : State} (hev : Evolves s₀ s) :
    Leaves (Evolves s₀) (execGeneratorPlacement k s) := by
  unfold execGeneratorPlacement
  try dsimp only
  repeat' with_reducible first
    | assumption | apply State.modMaster_ev | apply State.placeSample_ev | refine leaves_next ?_
    | refine leaves_out ?_ | refine ev_ite ?_ ?_ | refine ev_ite_fst ?_ ?_ | refine leaves_ite ?_ ?_
    | simp only [ev_mk] | split | intro _ | refine ev_of_eq (by assumption) ?_

theorem State.camStart_ev {s₀ : State} {s : State} (k base : Nat) (hev : Evolves s₀ s) :
    Evolves s₀ (State.camStart s k base) := by
  unfold State.camStart
  try dsimp only
  repeat' with_reducible first
    | assumption | apply State.set_ev | apply State.modMpi_ev | refine ev_ite ?_ ?_ | simp only [ev_mk] | split
    | intro _

theorem State.camCheck_ev {s₀ : State} {s : State} (o : Sys2Proof.Origin) (k base : Nat) (hev : Evolves s₀ s) :
    Evolves s₀ (State.camCheck s o k base).1 := by
  unfold State.camCheck
  try dsimp only
  repeat' with_reducible first
    | assumption | apply State.gate_ev | apply State.refuse_ev | apply State.camStart_ev | apply State.done_ev
    | refine ev_ite ?_ ?_ | refine ev_ite_fst ?_ ?_ | split | intro _

theorem execCamCheck_ev {s₀ : State} (o : Sys2Proof.Origin) (k : Fin 256) (base : BitVec 19) {s : State} (hev : Evolves s₀ s) :
    Leaves (Evolves s₀) (execCamCheck o k base s) := by
  unfold execCamCheck
  try dsimp only
  repeat' with_reducible first
    | assumption | apply State.camCheck_ev | refine leaves_next ?_ | refine leaves_out ?_

theorem execCamChecked_ev {s₀ : State} (k : Fin 256) {s : State} (hev : Evolves s₀ s) :
    Leaves (Evolves s₀) (execCamChecked k s) := by
  unfold execCamChecked
  try dsimp only
  repeat' with_reducible first
    | assumption | apply State.modMpi_ev | apply State.set_ev | apply State.raise_ev | apply State.valueRefused_ev
    | refine leaves_next ?_ | refine leaves_out ?_ | refine ev_ite ?_ ?_ | refine ev_ite_fst ?_ ?_
    | refine leaves_ite ?_ ?_ | simp only [ev_mk] | split | intro _ | refine ev_of_eq (by assumption) ?_

theorem State.camWithdraw_ev {s₀ : State} {s : State} (o : Sys2Proof.Origin) (k base : Nat) (hev : Evolves s₀ s) :
    Evolves s₀ (State.camWithdraw s o k base).1 := by
  unfold State.camWithdraw
  try dsimp only
  repeat' with_reducible first
    | assumption | apply State.gate_ev | apply State.refuse_ev | apply State.set_ev | apply State.modMpi_ev
    | apply State.done_ev | refine ev_ite ?_ ?_ | refine ev_ite_fst ?_ ?_ | simp only [ev_mk] | split | intro _

theorem execCamWithdraw_ev {s₀ : State} (o : Sys2Proof.Origin) (k : Fin 256) (base : BitVec 19) {s : State} (hev : Evolves s₀ s) :
    Leaves (Evolves s₀) (execCamWithdraw o k base s) := by
  unfold execCamWithdraw
  try dsimp only
  repeat' with_reducible first
    | assumption | apply State.camWithdraw_ev | refine leaves_next ?_ | refine leaves_out ?_

end Sys2Proof.Machine
end

