-- ==== Sys2Proof/Laws/EvolveTables.lean ====
section
/-!
SUPPORT. What the definitions of Machine/Tables.lean keep.
-/

namespace Sys2Proof.Machine

set_option linter.all false

theorem State.refresh_ev {s₀ : State} {s : State} (t i : Nat) (e : List Byte) (port : Nat) (hev : Evolves s₀ s) :
    Evolves s₀ (State.refresh s t i e port) := by
  unfold State.refresh
  try dsimp only
  repeat' with_reducible first
    | assumption | apply State.putSlot_ev | refine ev_ite ?_ ?_ | split

theorem execLearnRequest_ev {s₀ : State} {s : State} (t : Fin 16) (bad : List Nat) (hev : Evolves s₀ s) :
    Leaves (Evolves s₀) (execLearnRequest t bad s) := by
  unfold execLearnRequest
  try dsimp only
  repeat' with_reducible first
    | assumption | apply takeFirst_ev | apply State.learnRuns_ev | apply State.modTab_ev | apply State.find_ev
    | apply State.refresh_ev | apply State.place_ev | apply State.learnedEntry_ev | refine ev_ite ?_ ?_
    | refine ev_ite_fst ?_ ?_ | refine leaves_next ?_ | refine leaves_out ?_ | refine leaves_ite ?_ ?_
    | simp only [ev_mk] | split | intro _ | refine ev_of_eq (by assumption) ?_
    | refine optAll_state (by assumption) ?_ | refine optAll_fst (by assumption) ?_

theorem execMoveRequest_ev {s₀ : State} {s : State} (t : Fin 16) (bad : List Nat) (hev : Evolves s₀ s) :
    Leaves (Evolves s₀) (execMoveRequest t bad s) := by
  unfold execMoveRequest
  try dsimp only
  repeat' with_reducible first
    | assumption | apply takeFirst_ev | apply State.learnRuns_ev | apply State.modTab_ev | apply State.find_ev
    | apply State.refresh_ev | refine ev_ite ?_ ?_ | refine ev_ite_fst ?_ ?_ | refine leaves_next ?_
    | refine leaves_out ?_ | refine leaves_ite ?_ ?_ | simp only [ev_mk] | split | intro _
    | refine ev_of_eq (by assumption) ?_ | refine optAll_state (by assumption) ?_
    | refine optAll_fst (by assumption) ?_

theorem State.emtRun_ev {s₀ : State} {s : State} (op t : Nat) (e : List Byte) (bad : List Nat) (hev : Evolves s₀ s) :
    Evolves s₀ (State.emtRun s op t e bad).1 := by
  unfold State.emtRun
  try dsimp only
  repeat' with_reducible first
    | assumption | apply State.emtInsert_ev | apply State.emtDelete_ev | apply State.emtModify_ev
    | apply State.emtLookup_ev | simp only [ev_mk] | split | refine ev_of_eq (by assumption) ?_

theorem State.emtCmd_ev {s₀ : State} {s : State} (o : Sys2Proof.Origin) (op t : Nat) (bad : List Nat) (hev : Evolves s₀ s) :
    Evolves s₀ (State.emtCmd s o op t bad).1 := by
  unfold State.emtCmd
  try dsimp only
  repeat' with_reducible first
    | assumption | apply State.gate_ev | apply State.done_ev | apply State.set_ev | apply State.emtRun_ev
    | refine ev_ite ?_ ?_ | refine ev_ite_fst ?_ ?_ | simp only [ev_mk] | split | intro _
    | refine ev_of_eq (by assumption) ?_

theorem execEmtCmdInsert_ev {s₀ : State} (o : Sys2Proof.Origin) (t : Fin 16) (bad : List Nat) {s : State} (hev : Evolves s₀ s) :
    Leaves (Evolves s₀) (execEmtCmdInsert o t bad s) := by
  unfold execEmtCmdInsert
  try dsimp only
  repeat' with_reducible first
    | assumption | apply State.emtCmd_ev | refine leaves_next ?_ | refine leaves_out ?_

theorem execEmtCmdDelete_ev {s₀ : State} {s : State} (o : Sys2Proof.Origin) (t : Fin 16) (bad : List Nat) (hev : Evolves s₀ s) :
    Leaves (Evolves s₀) (execEmtCmdDelete o t bad s) := by
  unfold execEmtCmdDelete
  try dsimp only
  repeat' with_reducible first
    | assumption | apply State.emtCmd_ev | refine ev_ite ?_ ?_ | refine ev_ite_fst ?_ ?_ | refine leaves_next ?_
    | refine leaves_out ?_ | refine leaves_ite ?_ ?_ | simp only [ev_mk] | split | intro _
    | refine ev_of_eq (by assumption) ?_ | refine optAll_state (by assumption) ?_
    | refine optAll_fst (by assumption) ?_

theorem execEmtCmdModify_ev {s₀ : State} {s : State} (o : Sys2Proof.Origin) (t : Fin 16) (bad : List Nat) (hev : Evolves s₀ s) :
    Leaves (Evolves s₀) (execEmtCmdModify o t bad s) := by
  unfold execEmtCmdModify
  try dsimp only
  repeat' with_reducible first
    | assumption | apply State.emtCmd_ev | refine ev_ite ?_ ?_ | refine ev_ite_fst ?_ ?_ | refine leaves_next ?_
    | refine leaves_out ?_ | refine leaves_ite ?_ ?_ | simp only [ev_mk] | split | intro _
    | refine ev_of_eq (by assumption) ?_ | refine optAll_state (by assumption) ?_
    | refine optAll_fst (by assumption) ?_

theorem execEmtCmdLookup_ev {s₀ : State} {s : State} (o : Sys2Proof.Origin) (t : Fin 16) (bad : List Nat) (hev : Evolves s₀ s) :
    Leaves (Evolves s₀) (execEmtCmdLookup o t bad s) := by
  unfold execEmtCmdLookup
  try dsimp only
  repeat' with_reducible first
    | assumption | apply State.emtCmd_ev | refine ev_ite ?_ ?_ | refine ev_ite_fst ?_ ?_ | refine leaves_next ?_
    | refine leaves_out ?_ | refine leaves_ite ?_ ?_ | simp only [ev_mk] | split | intro _
    | refine ev_of_eq (by assumption) ?_ | refine optAll_state (by assumption) ?_
    | refine optAll_fst (by assumption) ?_

theorem putWords_ev {s₀ s : State} (bs : List Byte) (n a : Nat) (hev : Evolves s₀ s) : Evolves s₀ (putWords bs n a s) := by
  induction n generalizing bs a s with
  | zero => exact hev
  | succ n ih => exact ih _ _ (State.setBits_ev _ _ _ hev)

theorem State.emtEnd_ev {s₀ : State} {s : State} (st : Nat) (h : Bool) (d : Option (List Byte)) (hev : Evolves s₀ s) :
    Evolves s₀ (State.emtEnd s st h d) := by
  unfold State.emtEnd
  try dsimp only
  repeat' with_reducible first
    | assumption | apply State.set_ev | apply putWords_ev | simp only [ev_mk] | split
    | refine ev_of_eq (by assumption) ?_

theorem execEmtCommandEnd_ev {s₀ : State} {s : State} (hev : Evolves s₀ s) :
    Leaves (Evolves s₀) (execEmtCommandEnd s) := by
  unfold execEmtCommandEnd
  try dsimp only
  repeat' with_reducible first
    | assumption | apply State.emtEnd_ev | apply State.emtRun_ev | refine leaves_next ?_ | refine leaves_out ?_
    | refine ev_ite ?_ ?_ | refine ev_ite_fst ?_ ?_ | refine leaves_ite ?_ ?_ | simp only [ev_mk] | split
    | refine ev_of_eq (by assumption) ?_

theorem State.ageSlot_ev {s₀ : State} {s : State} (t i : Nat) (hev : Evolves s₀ s) :
    Evolves s₀ (State.ageSlot s t i) := by
  unfold State.ageSlot
  try dsimp only
  repeat' with_reducible first
    | assumption | apply State.clearSlot_ev | apply State.modTab_ev | refine ev_ite ?_ ?_ | simp only [ev_mk] | split
    | intro _ | refine ev_of_eq (by assumption) ?_

theorem State.ageBucket_ev {s₀ : State} {s : State} (t : Nat) (bad : List Nat) (b : Nat) (hev : Evolves s₀ s) :
    Evolves s₀ (State.ageBucket s t bad b) := by
  unfold State.ageBucket
  try dsimp only
  repeat' with_reducible first
    | assumption | apply State.loseBuckets_ev | apply State.ageSlot_ev | refine ev_ite ?_ ?_ | refine ev_ite_fst ?_ ?_
    | refine ev_foldl ?_ (fun _ _ _ => ?_) | refine ev_foldl_fst ?_ (fun _ _ _ => ?_) | simp only [ev_mk] | split
    | intro _ | refine ev_of_eq (by assumption) ?_ | refine optAll_state (by assumption) ?_
    | refine optAll_fst (by assumption) ?_

theorem execAgeVisit_ev {s₀ : State} {s : State} (t : Fin 16) (bad : List Nat) (hev : Evolves s₀ s) :
    Leaves (Evolves s₀) (execAgeVisit t bad s) := by
  unfold execAgeVisit
  try dsimp only
  repeat' with_reducible first
    | assumption | apply State.ageBucket_ev | apply State.modTab_ev | apply State.migrate_ev | refine ev_ite ?_ ?_
    | refine ev_ite_fst ?_ ?_ | refine leaves_next ?_ | refine leaves_out ?_ | refine leaves_ite ?_ ?_
    | simp only [ev_mk] | split | intro _ | refine ev_of_eq (by assumption) ?_
    | refine optAll_state (by assumption) ?_ | refine optAll_fst (by assumption) ?_

theorem State.dmaFetch_ev {s₀ : State} {s : State} (t : Nat) (hev : Evolves s₀ s) :
    Evolves s₀ (State.dmaFetch s t) := by
  unfold State.dmaFetch
  try dsimp only
  repeat' with_reducible first
    | assumption | apply State.dmaRead_ev | refine ev_ite ?_ ?_ | split

theorem State.emtResume_ev {s₀ : State} {s : State} (hev : Evolves s₀ s) :
    Evolves s₀ (State.emtResume s) := by
  unfold State.emtResume
  try dsimp only
  repeat' with_reducible first
    | assumption | apply State.dmaFetch_ev | refine ev_ite ?_ ?_ | refine ev_foldl ?_ (fun _ _ _ => ?_) | split
    | intro _

theorem State.emtDoorbell_ev {s₀ : State} {s : State} (o : Sys2Proof.Origin) (t : Nat) (tail : Nat) (hev : Evolves s₀ s) :
    Evolves s₀ (State.emtDoorbell s o t tail).1 := by
  unfold State.emtDoorbell
  try dsimp only
  repeat' with_reducible first
    | assumption | apply State.gate_ev | apply State.set_ev | apply State.done_ev | apply State.dmaFetch_ev
    | refine ev_ite ?_ ?_ | refine ev_ite_fst ?_ ?_ | split | intro _

theorem execEmtDmaDoorbell_ev {s₀ : State} (o : Sys2Proof.Origin) (t : Fin 16) (tail : BitVec 16) {s : State} (hev : Evolves s₀ s) :
    Leaves (Evolves s₀) (execEmtDmaDoorbell o t tail s) := by
  unfold execEmtDmaDoorbell
  try dsimp only
  repeat' with_reducible first
    | assumption | apply State.emtDoorbell_ev | refine leaves_next ?_ | refine leaves_out ?_

theorem State.putBucket_ev {s₀ : State} {s : State} (t b : Nat) (d : List Byte) (hev : Evolves s₀ s) :
    Evolves s₀ (State.putBucket s t b d) := by
  unfold State.putBucket
  try dsimp only
  repeat' with_reducible first
    | assumption | apply State.putSlot_ev | apply State.clearSlot_ev | refine ev_ite ?_ ?_
    | refine ev_foldl ?_ (fun _ _ _ => ?_) | split | intro _

theorem State.dmaAdvance_ev {s₀ : State} {s : State} (t : Nat) (hev : Evolves s₀ s) :
    Evolves s₀ (State.dmaAdvance s t) := by
  unfold State.dmaAdvance
  try dsimp only
  repeat' with_reducible first
    | assumption | apply State.set_ev

theorem execEmtDmaImage_ev {s₀ : State} {s : State} (t : Fin 16) (image : List Byte) (hev : Evolves s₀ s) :
    Leaves (Evolves s₀) (execEmtDmaImage t image s) := by
  unfold execEmtDmaImage
  try dsimp only
  repeat' with_reducible first
    | assumption | apply State.readEnds_ev | apply State.set_ev
    | apply State.putBucket_ev | apply State.valueRefused_ev | apply State.dmaWrite_ev | apply State.dmaAdvance_ev
    | apply State.dmaFetch_ev | apply State.stray_ev | refine ev_ite ?_ ?_ | refine ev_ite_fst ?_ ?_
    | refine leaves_next ?_ | refine leaves_out ?_ | refine leaves_ite ?_ ?_ | simp only [ev_mk] | split | intro _
    | refine ev_of_eq (by assumption) ?_ | refine optAll_state (by assumption) ?_
    | refine optAll_fst (by assumption) ?_

theorem State.shadowRepair_ev {s₀ : State} {s : State} (t i : Nat) (hev : Evolves s₀ s) :
    Evolves s₀ (State.shadowRepair s t i) := by
  unfold State.shadowRepair
  try dsimp only
  repeat' with_reducible first
    | assumption | apply State.emtEvent_ev

theorem State.compareEntry_ev {s₀ : State} {s : State} (t i : Nat) (item : List Byte) (bad : List Nat) (hev : Evolves s₀ s) :
    Evolves s₀ (State.compareEntry s t i item bad) := by
  unfold State.compareEntry
  try dsimp only
  repeat' with_reducible first
    | assumption | apply State.find_ev | apply State.putSlot_ev | apply State.shadowRepair_ev | apply State.engine_ev
    | refine ev_ite ?_ ?_ | refine ev_ite_fst ?_ ?_ | simp only [ev_mk] | split | intro _
    | refine ev_of_eq (by assumption) ?_ | refine optAll_state (by assumption) ?_
    | refine optAll_fst (by assumption) ?_

theorem State.compareBucket_ev {s₀ : State} {s0 : State} (t b : Nat) (item : List Byte) (bad : List Nat) (hev : Evolves s₀ s0) :
    Evolves s₀ (State.compareBucket s0 t b item bad) := by
  unfold State.compareBucket
  try dsimp only
  repeat' with_reducible first
    | assumption | apply State.loseBuckets_ev | apply State.putBucket_ev | apply State.shadowRepair_ev
    | refine ev_ite ?_ ?_ | refine ev_ite_fst ?_ ?_ | simp only [ev_mk] | split | intro _
    | refine ev_of_eq (by assumption) ?_ | refine optAll_state (by assumption) ?_
    | refine optAll_fst (by assumption) ?_

theorem State.shadowAsk_ev {s₀ : State} {s : State} (t : Nat) (hev : Evolves s₀ s) :
    Evolves s₀ (State.shadowAsk s t) := by
  unfold State.shadowAsk
  try dsimp only
  repeat' with_reducible first
    | assumption | apply State.modTab_ev | apply State.dmaRead_ev | refine ev_ite ?_ ?_ | refine ev_ite_fst ?_ ?_
    | simp only [ev_mk] | split | intro _ | refine ev_of_eq (by assumption) ?_
    | refine optAll_state (by assumption) ?_ | refine optAll_fst (by assumption) ?_

theorem execShadowCompare_ev {s₀ : State} {s : State} (t : Fin 16) (item : List Byte) (bad : List Nat) (hev : Evolves s₀ s) :
    Leaves (Evolves s₀) (execShadowCompare t item bad s) := by
  unfold execShadowCompare
  try dsimp only
  repeat' with_reducible first
    | assumption | apply State.readEnds_ev | apply State.shadowOn_ev | apply State.shadowItems_ev
    | apply State.modTab_ev | apply State.compareBucket_ev | apply State.compareEntry_ev | apply State.shadowAsk_ev
    | refine ev_ite ?_ ?_ | refine ev_ite_fst ?_ ?_ | refine leaves_next ?_ | refine leaves_out ?_
    | refine leaves_ite ?_ ?_ | simp only [ev_mk] | split | intro _ | refine ev_of_eq (by assumption) ?_
    | refine optAll_state (by assumption) ?_ | refine optAll_fst (by assumption) ?_

theorem State.tcmEnd_ev {s₀ : State} {s : State} (st : Nat) (hev : Evolves s₀ s) :
    Evolves s₀ (State.tcmEnd s st) := by
  unfold State.tcmEnd
  try dsimp only
  repeat' with_reducible first
    | assumption | apply State.set_ev

theorem State.tcmBusy_ev {s₀ : State} {s : State} (hev : Evolves s₀ s) :
    Evolves s₀ (State.tcmBusy s) := by
  unfold State.tcmBusy
  try dsimp only
  repeat' with_reducible first
    | assumption | apply State.set_ev

theorem State.tcmRun_ev {s₀ : State} {s : State} (op p : Nat) (hev : Evolves s₀ s) :
    Evolves s₀ (State.tcmRun s op p) := by
  unfold State.tcmRun
  try dsimp only
  repeat' with_reducible first
    | assumption | apply State.tcmEnd_ev | apply State.tcamPut_ev 
    | apply State.tcmBusy_ev | apply State.tcamClear_ev | apply putWords_ev | apply State.set_ev 
    | refine ev_ite ?_ ?_ | refine ev_ite_fst ?_ ?_ | simp only [ev_mk] | split | intro _
    | refine ev_of_eq (by assumption) ?_ | refine optAll_state (by assumption) ?_
    | refine optAll_fst (by assumption) ?_

theorem State.tcmCmd_ev {s₀ : State} {s : State} (o : Sys2Proof.Origin) (op p : Nat) (hev : Evolves s₀ s) :
    Evolves s₀ (State.tcmCmd s o op p).1 := by
  unfold State.tcmCmd
  try dsimp only
  repeat' with_reducible first
    | assumption | apply State.gate_ev | apply State.done_ev | apply State.set_ev | apply State.tcmRun_ev
    | apply State.tcmBusy_ev | refine ev_ite ?_ ?_ | refine ev_ite_fst ?_ ?_ | simp only [ev_mk] | split | intro _

theorem State.tcmResume_ev {s₀ : State} {s : State} (hev : Evolves s₀ s) :
    Evolves s₀ (State.tcmResume s) := by
  unfold State.tcmResume
  try dsimp only
  repeat' with_reducible first
    | assumption | apply State.tcmRun_ev | simp only [ev_mk] | split | refine ev_of_eq (by assumption) ?_

theorem execTcmCmdWrite_ev {s₀ : State} (o : Sys2Proof.Origin) (p : Fin 8) {s : State} (hev : Evolves s₀ s) :
    Leaves (Evolves s₀) (execTcmCmdWrite o p s) := by
  unfold execTcmCmdWrite
  try dsimp only
  repeat' with_reducible first
    | assumption | apply State.tcmCmd_ev | refine leaves_next ?_ | refine leaves_out ?_

theorem execTcmCmdInvalidate_ev {s₀ : State} (o : Sys2Proof.Origin) (p : Fin 8) {s : State} (hev : Evolves s₀ s) :
    Leaves (Evolves s₀) (execTcmCmdInvalidate o p s) := by
  unfold execTcmCmdInvalidate
  try dsimp only
  repeat' with_reducible first
    | assumption | apply State.tcmCmd_ev | refine leaves_next ?_ | refine leaves_out ?_

theorem execTcmCmdRead_ev {s₀ : State} (o : Sys2Proof.Origin) (p : Fin 8) {s : State} (hev : Evolves s₀ s) :
    Leaves (Evolves s₀) (execTcmCmdRead o p s) := by
  unfold execTcmCmdRead
  try dsimp only
  repeat' with_reducible first
    | assumption | apply State.tcmCmd_ev | refine leaves_next ?_ | refine leaves_out ?_

theorem State.emtReset_ev {s₀ : State} {s : State} (hev : Evolves s₀ s) :
    Evolves s₀ (State.emtReset s) := by
  unfold State.emtReset
  try dsimp only
  repeat' with_reducible first
    | assumption | apply State.modTab_ev | apply State.set_ev | simp only [ev_mk]
    | refine ev_foldl ?_ (fun _ _ _ => ?_) | intro _

theorem State.tcmReset_ev {s₀ : State} {s : State} (hev : Evolves s₀ s) :
    Evolves s₀ (State.tcmReset s) := by
  unfold State.tcmReset
  try dsimp only
  repeat' with_reducible first
    | assumption | apply State.set_ev | refine ev_foldl ?_ (fun _ _ _ => ?_) | intro _

theorem State.tcamScrub_ev {s₀ : State} {s : State} (p c : Nat) (differs bad : List Nat) (hev : Evolves s₀ s) :
    Evolves s₀ (State.tcamScrub s p c differs bad) := by
  unfold State.tcamScrub
  try dsimp only
  repeat' with_reducible first
    | assumption | apply State.copyError_ev | apply State.arrayTake_ev
    | apply State.tcmEvent_ev | refine ev_ite ?_ ?_ | refine ev_ite_fst ?_ ?_ | refine ev_foldl ?_ (fun _ _ _ => ?_)
    | refine ev_foldl_fst ?_ (fun _ _ _ => ?_) | simp only [ev_mk] | split | intro _
    | refine ev_of_eq (by assumption) ?_ | refine optAll_state (by assumption) ?_
    | refine optAll_fst (by assumption) ?_

theorem execTcamUpdateSlot_ev {s₀ : State} (p : Fin 8) (c : Fin 4) (differs bad : List Nat) {s : State} (hev : Evolves s₀ s) :
    Leaves (Evolves s₀) (execTcamUpdateSlot p c differs bad s) := by
  unfold execTcamUpdateSlot
  try dsimp only
  repeat' with_reducible first
    | assumption | apply State.arrayTake_ev | apply State.repair_ev | apply State.tcmEnd_ev
    | apply State.tcamScrub_ev | refine leaves_next ?_ | refine leaves_out ?_ | refine ev_ite ?_ ?_
    | refine ev_ite_fst ?_ ?_ | refine leaves_ite ?_ ?_ | simp only [ev_mk] | split | intro _
    | refine ev_of_eq (by assumption) ?_

end Sys2Proof.Machine
end

