-- ==== Sys2Proof/Laws/EvolveSliceCtl.lean ====
section
/-!
SUPPORT. What the definitions of Machine/SliceCtl.lean keep.
-/

namespace Sys2Proof.Machine

set_option linter.all false

theorem State.putContext_ev {s₀ : State} {s : State} (a : Nat) (b : List Byte) (hev : Evolves s₀ s) :
    Evolves s₀ (State.putContext s a b) := by
  unfold State.putContext
  try dsimp only
  repeat' with_reducible first
    | assumption | apply State.setBits_ev | refine ev_foldl ?_ (fun _ _ _ => ?_) | intro _

theorem State.queueSetup_ev {s₀ : State} {s : State} (k : Nat) (e : List Byte) (hev : Evolves s₀ s) :
    Evolves s₀ (State.queueSetup s k e).1 := by
  unfold State.queueSetup
  try dsimp only
  repeat' with_reducible first
    | assumption | apply State.putContext_ev | refine ev_ite ?_ ?_ | refine ev_ite_fst ?_ ?_ | simp only [ev_mk]
    | split | refine ev_of_eq (by assumption) ?_

theorem State.scCommand_ev {s₀ : State} {s : State} (k : Nat) (e : List Byte) (en dis rst : Bool) (hev : Evolves s₀ s) :
    Evolves s₀ (State.scCommand s k e en dis rst).1 := by
  unfold State.scCommand
  try dsimp only
  repeat' with_reducible first
    | assumption | apply State.qEnable_ev | apply State.qDrain_ev | refine ev_ite ?_ ?_ | refine ev_ite_fst ?_ ?_
    | simp only [ev_mk] | split | refine ev_of_eq (by assumption) ?_

theorem execScQueueSetup_ev {s₀ : State} (k : Fin 256) {s : State} (hev : Evolves s₀ s) :
    Leaves (Evolves s₀) (execScQueueSetup k s) := by
  unfold execScQueueSetup
  try dsimp only
  repeat' with_reducible first
    | assumption | apply State.sc_ev | apply State.queueSetup_ev | refine leaves_next ?_ | refine leaves_out ?_
    | intro _

theorem execScQueueEnable_ev {s₀ : State} (k : Fin 256) {s : State} (hev : Evolves s₀ s) :
    Leaves (Evolves s₀) (execScQueueEnable k s) := by
  unfold execScQueueEnable
  try dsimp only
  repeat' with_reducible first
    | assumption | apply State.sc_ev | apply State.scCommand_ev | refine leaves_next ?_ | refine leaves_out ?_
    | intro _

theorem execScQueueDisable_ev {s₀ : State} (k : Fin 256) {s : State} (hev : Evolves s₀ s) :
    Leaves (Evolves s₀) (execScQueueDisable k s) := by
  unfold execScQueueDisable
  try dsimp only
  repeat' with_reducible first
    | assumption | apply State.sc_ev | apply State.scCommand_ev | refine leaves_next ?_ | refine leaves_out ?_
    | intro _

theorem execScQueueReset_ev {s₀ : State} (k : Fin 256) {s : State} (hev : Evolves s₀ s) :
    Leaves (Evolves s₀) (execScQueueReset k s) := by
  unfold execScQueueReset
  try dsimp only
  repeat' with_reducible first
    | assumption | apply State.sc_ev | apply State.scCommand_ev | refine leaves_next ?_ | refine leaves_out ?_
    | intro _

theorem State.scEmt_ev {s₀ : State} {s : State} (k : Nat) (e : List Byte) (run : State → Nat → EmtResult) (hev : Evolves s₀ s) (ev_run : ∀ x0 x1, Evolves s₀ x0 → Evolves s₀ (run x0 x1).1) :
    Evolves s₀ (State.scEmt s k e run).1 := by
  unfold State.scEmt
  try dsimp only
  repeat' with_reducible first
    | assumption | apply ev_run | apply State.duty_ev | apply State.argWrite_ev | refine ev_ite ?_ ?_
    | refine ev_ite_fst ?_ ?_ | simp only [ev_mk] | split | intro _ | refine ev_of_eq (by assumption) ?_
    | refine optAll_state (by assumption) ?_ | refine optAll_fst (by assumption) ?_

theorem execEmtInsert_ev {s₀ : State} (k : Fin 256) (arg : List Byte) (bad : List Nat) {s : State} (hev : Evolves s₀ s) :
    Leaves (Evolves s₀) (execEmtInsert k arg bad s) := by
  unfold execEmtInsert
  try dsimp only
  repeat' with_reducible first
    | assumption | apply State.sc_ev | apply State.scEmt_ev | apply State.emtInsert_ev | refine leaves_next ?_
    | refine leaves_out ?_ | refine ev_ite ?_ ?_ | refine ev_ite_fst ?_ ?_ | refine leaves_ite ?_ ?_ | split
    | intro _

theorem execEmtDelete_ev {s₀ : State} {s : State} (k : Fin 256) (arg : List Byte) (bad : List Nat) (hev : Evolves s₀ s) :
    Leaves (Evolves s₀) (execEmtDelete k arg bad s) := by
  unfold execEmtDelete
  try dsimp only
  repeat' with_reducible first
    | assumption | apply State.sc_ev | apply State.scEmt_ev | apply State.emtDelete_ev | refine ev_ite ?_ ?_
    | refine ev_ite_fst ?_ ?_ | refine leaves_next ?_ | refine leaves_out ?_ | refine leaves_ite ?_ ?_
    | simp only [ev_mk] | split | intro _ | refine ev_of_eq (by assumption) ?_
    | refine optAll_state (by assumption) ?_ | refine optAll_fst (by assumption) ?_

theorem execEmtModify_ev {s₀ : State} {s : State} (k : Fin 256) (arg : List Byte) (bad : List Nat) (hev : Evolves s₀ s) :
    Leaves (Evolves s₀) (execEmtModify k arg bad s) := by
  unfold execEmtModify
  try dsimp only
  repeat' with_reducible first
    | assumption | apply State.sc_ev | apply State.scEmt_ev | apply State.emtModify_ev | refine ev_ite ?_ ?_
    | refine ev_ite_fst ?_ ?_ | refine leaves_next ?_ | refine leaves_out ?_ | refine leaves_ite ?_ ?_
    | simp only [ev_mk] | split | intro _ | refine ev_of_eq (by assumption) ?_
    | refine optAll_state (by assumption) ?_ | refine optAll_fst (by assumption) ?_

theorem execEmtLookup_ev {s₀ : State} {s : State} (k : Fin 256) (arg : List Byte) (bad : List Nat) (hev : Evolves s₀ s) :
    Leaves (Evolves s₀) (execEmtLookup k arg bad s) := by
  unfold execEmtLookup
  try dsimp only
  repeat' with_reducible first
    | assumption | apply State.sc_ev | apply State.scEmt_ev | apply State.emtLookup_ev | refine ev_ite ?_ ?_
    | refine ev_ite_fst ?_ ?_ | refine leaves_next ?_ | refine leaves_out ?_ | refine leaves_ite ?_ ?_
    | simp only [ev_mk] | split | intro _ | refine ev_of_eq (by assumption) ?_
    | refine optAll_state (by assumption) ?_ | refine optAll_fst (by assumption) ?_

theorem State.scTcam_ev {s₀ : State} {s : State} (k : Nat) (e : List Byte) (run : State → Nat → Nat → State) (hev : Evolves s₀ s) (ev_run : ∀ x0 x1 x2, Evolves s₀ x0 → Evolves s₀ (run x0 x1 x2)) :
    Evolves s₀ (State.scTcam s k e run).1 := by
  unfold State.scTcam
  try dsimp only
  repeat' with_reducible first
    | assumption | apply State.duty_ev | apply ev_run | simp only [ev_mk] | split
    | refine ev_of_eq (by assumption) ?_

theorem execTcamWrite_ev {s₀ : State} (k : Fin 256) (arg : List Byte) {s : State} (hev : Evolves s₀ s) :
    Leaves (Evolves s₀) (execTcamWrite k arg s) := by
  unfold execTcamWrite
  try dsimp only
  repeat' with_reducible first
    | assumption | apply State.sc_ev | apply State.scTcam_ev | apply State.tcamPut_ev
    | refine leaves_next ?_ | refine leaves_out ?_ | refine ev_ite ?_ ?_ | refine ev_ite_fst ?_ ?_
    | refine leaves_ite ?_ ?_ | split | intro _

theorem execTcamInvalidate_ev {s₀ : State} {s : State} (k : Fin 256) (hev : Evolves s₀ s) :
    Leaves (Evolves s₀) (execTcamInvalidate k s) := by
  unfold execTcamInvalidate
  try dsimp only
  repeat' with_reducible first
    | assumption | apply State.sc_ev | apply State.scTcam_ev | apply State.tcamClear_ev | refine ev_ite ?_ ?_
    | refine ev_ite_fst ?_ ?_ | refine leaves_next ?_ | refine leaves_out ?_ | refine leaves_ite ?_ ?_
    | simp only [ev_mk] | split | intro _ | refine ev_of_eq (by assumption) ?_
    | refine optAll_state (by assumption) ?_ | refine optAll_fst (by assumption) ?_

theorem execTcamRead_ev {s₀ : State} {s : State} (k : Fin 256) (hev : Evolves s₀ s) :
    Leaves (Evolves s₀) (execTcamRead k s) := by
  unfold execTcamRead
  try dsimp only
  repeat' with_reducible first
    | assumption | apply State.sc_ev | apply State.scTcam_ev | apply State.argWrite_ev | refine ev_ite ?_ ?_
    | refine ev_ite_fst ?_ ?_ | refine leaves_next ?_ | refine leaves_out ?_ | refine leaves_ite ?_ ?_
    | simp only [ev_mk] | split | intro _ | refine ev_of_eq (by assumption) ?_
    | refine optAll_state (by assumption) ?_ | refine optAll_fst (by assumption) ?_

theorem State.scIndir_ev {s₀ : State} {s : State} (k : Nat) (e arg : List Byte) (hev : Evolves s₀ s) :
    Evolves s₀ (State.scIndir s k e arg).1 := by
  unfold State.scIndir
  try dsimp only
  repeat' with_reducible first
    | assumption | apply State.duty_ev | apply State.putIndir_ev | refine ev_ite ?_ ?_
    | refine ev_ite_fst ?_ ?_ | refine ev_foldl ?_ (fun _ _ _ => ?_) | refine ev_foldl_fst ?_ (fun _ _ _ => ?_)
    | split | intro _

theorem execIndirWrite_ev {s₀ : State} (k : Fin 256) (arg : List Byte) {s : State} (hev : Evolves s₀ s) :
    Leaves (Evolves s₀) (execIndirWrite k arg s) := by
  unfold execIndirWrite
  try dsimp only
  repeat' with_reducible first
    | assumption | apply State.sc_ev | apply State.scIndir_ev | refine leaves_next ?_ | refine leaves_out ?_
    | intro _

theorem State.scHashKey_ev {s₀ : State} {s : State} (k : Nat) (e arg : List Byte) (hev : Evolves s₀ s) :
    Evolves s₀ (State.scHashKey s k e arg).1 := by
  unfold State.scHashKey
  try dsimp only
  repeat' with_reducible first
    | assumption | apply State.duty_ev | apply State.setReg_ev | apply State.setForce_ev
    | refine ev_ite ?_ ?_ | refine ev_ite_fst ?_ ?_ | simp only [ev_mk] | refine ev_foldl ?_ (fun _ _ _ => ?_)
    | refine ev_foldl_fst ?_ (fun _ _ _ => ?_) | split | intro _

theorem execHashKeyWrite_ev {s₀ : State} (k : Fin 256) (arg : List Byte) {s : State} (hev : Evolves s₀ s) :
    Leaves (Evolves s₀) (execHashKeyWrite k arg s) := by
  unfold execHashKeyWrite
  try dsimp only
  repeat' with_reducible first
    | assumption | apply State.sc_ev | apply State.scHashKey_ev | refine leaves_next ?_ | refine leaves_out ?_
    | intro _

end Sys2Proof.Machine
end

