-- ==== Sys2Proof/Laws/EvolveShxOps.lean ====
section
/-!
SUPPORT. What the definitions of Machine/ShxOps.lean keep.
-/

namespace Sys2Proof.Machine

set_option linter.all false

theorem State.putConn_ev {s₀ : State} {s : State} (c : Nat) (x : Conn) (hev : Evolves s₀ s) :
    Evolves s₀ (State.putConn s c x) := by
  unfold State.putConn
  try dsimp only
  repeat' with_reducible first
    | assumption | simp only [ev_mk]

theorem State.modConn_ev {s₀ : State} {s : State} (c : Nat) (f : Conn → Conn) (hev : Evolves s₀ s) :
    Evolves s₀ (State.modConn s c f) := by
  unfold State.modConn
  try dsimp only
  repeat' with_reducible first
    | assumption | apply State.putConn_ev | simp only [ev_mk] | split | refine ev_of_eq (by assumption) ?_

theorem State.withConn_ev {s₀ : State} {s : State} (c : Nat) (f : Conn → State) (hev : Evolves s₀ s) (ev_f : ∀ x0, Evolves s₀ s → Evolves s₀ (f x0)) :
    Evolves s₀ (State.withConn s c f) := by
  unfold State.withConn
  try dsimp only
  repeat' with_reducible first
    | assumption | apply ev_f | simp only [ev_mk] | split | refine ev_of_eq (by assumption) ?_

theorem State.shxStands_ev {s₀ : State} {s : State} (hev : Evolves s₀ s) :
    Evolves s₀ (State.shxStands s) := by
  unfold State.shxStands
  try dsimp only
  repeat' with_reducible first
    | assumption | refine ev_ite ?_ ?_ | refine ev_ite_fst ?_ ?_ | simp only [ev_mk] | split | intro _
    | refine ev_of_eq (by assumption) ?_ | refine optAll_state (by assumption) ?_
    | refine optAll_fst (by assumption) ?_

theorem State.shxRuns_ev {s₀ : State} {s : State} (hev : Evolves s₀ s) :
    Evolves s₀ (State.shxRuns s) := by
  unfold State.shxRuns
  try dsimp only
  repeat' with_reducible first
    | assumption | refine ev_ite ?_ ?_ | refine ev_ite_fst ?_ ?_ | simp only [ev_mk] | split | intro _
    | refine ev_of_eq (by assumption) ?_ | refine optAll_state (by assumption) ?_
    | refine optAll_fst (by assumption) ?_

theorem State.shxEvent_ev {s₀ : State} {s : State} (n c code : Nat) (hev : Evolves s₀ s) :
    Evolves s₀ (State.shxEvent s n c code) := by
  unfold State.shxEvent
  try dsimp only
  repeat' with_reducible first
    | assumption | apply State.raiseHeld_ev

theorem State.shxStat_ev {s₀ : State} {s : State} (f : Fld) (hev : Evolves s₀ s) :
    Evolves s₀ (State.shxStat s f) := by
  unfold State.shxStat
  try dsimp only
  repeat' with_reducible first
    | assumption | apply State.bump_ev

theorem State.ctxBack_ev {s₀ : State} {s : State} (c : Nat) (hev : Evolves s₀ s) :
    Evolves s₀ (State.ctxBack s c) := by
  unfold State.ctxBack
  try dsimp only
  repeat' with_reducible first
    | assumption | apply State.withConn_ev | apply State.dmaWrite_ev | apply State.ctxAddr_ev
    | apply State.ctxBytes_ev | apply State.tickFree_ev | refine ev_ite ?_ ?_ | refine ev_ite_fst ?_ ?_
    | simp only [ev_mk] | split | intro _ | refine ev_of_eq (by assumption) ?_
    | refine optAll_state (by assumption) ?_ | refine optAll_fst (by assumption) ?_

theorem State.ctxRoom_ev {s₀ : State} {s : State} (hev : Evolves s₀ s) :
    Evolves s₀ (State.ctxRoom s) := by
  unfold State.ctxRoom
  try dsimp only
  repeat' with_reducible first
    | assumption | apply State.ctxTaken_ev | apply ctxCacheSize_ev | apply State.find_ev | apply State.evictable_ev
    | apply State.ctxBack_ev | refine ev_ite ?_ ?_ | refine ev_ite_fst ?_ ?_ | simp only [ev_mk] | split | intro _
    | refine ev_of_eq (by assumption) ?_ | refine optAll_state (by assumption) ?_
    | refine optAll_fst (by assumption) ?_

theorem State.ctxTouch_ev {s₀ : State} {s : State} (c : Nat) (hev : Evolves s₀ s) :
    Evolves s₀ (State.ctxTouch s c) := by
  unfold State.ctxTouch
  try dsimp only
  repeat' with_reducible first
    | assumption | simp only [ev_mk]

theorem State.ctxEnter_ev {s₀ : State} {s : State} (c : Nat) (hev : Evolves s₀ s) :
    Evolves s₀ (State.ctxEnter s c) := by
  unfold State.ctxEnter
  try dsimp only
  repeat' with_reducible first
    | assumption | apply State.ctxTouch_ev | apply State.ctxRoom_ev | refine ev_ite ?_ ?_ | split

theorem State.ctxAsk_ev {s₀ : State} {s : State} (c : Nat) (hev : Evolves s₀ s) :
    Evolves s₀ (State.ctxAsk s c) := by
  unfold State.ctxAsk
  try dsimp only
  repeat' with_reducible first
    | assumption | apply State.ctxRoom_ev | apply State.dmaRead_ev | refine ev_ite ?_ ?_ | split

theorem State.regionTouch_ev {s₀ : State} {s : State} (i : Nat) (hev : Evolves s₀ s) :
    Evolves s₀ (State.regionTouch s i) := by
  unfold State.regionTouch
  try dsimp only
  repeat' with_reducible first
    | assumption | apply State.take_ev | simp only [ev_mk]

theorem State.regionAsk_ev {s₀ : State} {s : State} (i : Nat) (hev : Evolves s₀ s) :
    Evolves s₀ (State.regionAsk s i) := by
  unfold State.regionAsk
  try dsimp only
  repeat' with_reducible first
    | assumption | apply State.dmaRead_ev | refine ev_ite ?_ ?_ | split

theorem State.shxEnd_ev {s₀ : State} {s : State} (o : Sys2Proof.Origin) (op st : Nat) (hev : Evolves s₀ s) :
    Evolves s₀ (State.shxEnd s o op st) := by
  unfold State.shxEnd
  try dsimp only
  repeat' with_reducible first
    | assumption | apply State.fetched_ev | apply State.scEnd_ev | apply State.set_ev | refine ev_ite ?_ ?_
    | refine ev_ite_fst ?_ ?_ | simp only [ev_mk] | split | intro _ | refine ev_of_eq (by assumption) ?_
    | refine optAll_state (by assumption) ?_ | refine optAll_fst (by assumption) ?_

theorem State.deregEnds_ev {s₀ : State} {s : State} (hev : Evolves s₀ s) :
    Evolves s₀ (State.deregEnds s) := by
  unfold State.deregEnds
  try dsimp only
  repeat' with_reducible first
    | assumption | apply State.placing_ev | apply State.deregStands_ev | apply State.shxEnd_ev | refine ev_ite ?_ ?_
    | refine ev_ite_fst ?_ ?_ | refine ev_foldl ?_ (fun _ _ _ => ?_) | refine ev_foldl_fst ?_ (fun _ _ _ => ?_)
    | simp only [ev_mk] | split | intro _ | refine ev_of_eq (by assumption) ?_
    | refine optAll_state (by assumption) ?_ | refine optAll_fst (by assumption) ?_

theorem State.putRegion_ev {s₀ : State} {s : State} (i : Nat) (r : Region) (hev : Evolves s₀ s) :
    Evolves s₀ (State.putRegion s i r) := by
  unfold State.putRegion
  try dsimp only
  repeat' with_reducible first
    | assumption | apply State.regionTouch_ev | apply State.dmaWrite_ev | simp only [ev_mk]

theorem State.shxOut_ev {s₀ : State} {s : State} (port : Nat) (f : List Byte) (hev : Evolves s₀ s) :
    Evolves s₀ (State.shxOut s port f) := by
  unfold State.shxOut
  try dsimp only
  repeat' with_reducible first
    | assumption | apply State.toTm_ev

theorem State.connFrame_ev {s₀ : State} {s : State} (x : Conn) (h : ShHdr) (hev : Evolves s₀ s) :
    Evolves s₀ (State.connFrame s x h).1 := by
  unfold State.connFrame
  try dsimp only
  repeat' with_reducible first
    | assumption | apply State.keyMet_ev | apply State.connSlot_ev | apply State.shxFrame_ev | apply State.shxBody_ev
    | refine ev_ite ?_ ?_ | refine ev_ite_fst ?_ ?_ | simp only [ev_mk] | split | intro _
    | refine ev_of_eq (by assumption) ?_ | refine optAll_state (by assumption) ?_
    | refine optAll_fst (by assumption) ?_

theorem State.shxSend_ev {s₀ : State} {s : State} (x : Conn) (h : ShHdr) (hev : Evolves s₀ s) :
    Evolves s₀ (State.shxSend s x h) := by
  unfold State.shxSend
  try dsimp only
  repeat' with_reducible first
    | assumption | apply State.connFrame_ev | apply State.shxOut_ev | apply State.tickFree_ev | refine ev_ite ?_ ?_
    | refine ev_ite_fst ?_ ?_ | simp only [ev_mk] | split | intro _ | refine ev_of_eq (by assumption) ?_
    | refine optAll_state (by assumption) ?_ | refine optAll_fst (by assumption) ?_

theorem State.shxPlain_ev {s₀ : State} {s : State} (x : Conn) (h : ShHdr) (hev : Evolves s₀ s) :
    Evolves s₀ (State.shxPlain s x h) := by
  unfold State.shxPlain
  try dsimp only
  repeat' with_reducible first
    | assumption | apply State.shxOut_ev | apply State.shxFrame_ev | apply State.tickFree_ev | refine ev_ite ?_ ?_
    | refine ev_ite_fst ?_ ?_ | simp only [ev_mk] | split | intro _ | refine ev_of_eq (by assumption) ?_
    | refine optAll_state (by assumption) ?_ | refine optAll_fst (by assumption) ?_

theorem State.answerNow_ev {s₀ : State} {s : State} (c : Nat) (a : Answer) (hev : Evolves s₀ s) :
    Evolves s₀ (State.answerNow s c a) := by
  unfold State.answerNow
  try dsimp only
  repeat' with_reducible first
    | assumption | apply State.withConn_ev | apply State.answerHdr_ev | apply State.shxPlain_ev
    | apply State.shxSend_ev | apply State.shxStat_ev | apply State.paced_ev | apply State.connFrame_ev
    | apply State.shxOut_ev | apply State.tickFree_ev | apply State.putConn_ev | refine ev_ite ?_ ?_
    | refine ev_ite_fst ?_ ?_ | simp only [ev_mk] | split | intro _ | refine ev_of_eq (by assumption) ?_
    | refine optAll_state (by assumption) ?_ | refine optAll_fst (by assumption) ?_

theorem State.say_ev {s₀ : State} {s : State} (c : Nat) (a : Answer) (hev : Evolves s₀ s) :
    Evolves s₀ (State.say s c a) := by
  unfold State.say
  try dsimp only
  repeat' with_reducible first
    | assumption | apply State.withConn_ev | apply State.mayAnswer_ev | apply State.answerNow_ev
    | apply State.putConn_ev | refine ev_ite ?_ ?_ | refine ev_ite_fst ?_ ?_ | simp only [ev_mk] | split | intro _
    | refine ev_of_eq (by assumption) ?_ | refine optAll_state (by assumption) ?_
    | refine optAll_fst (by assumption) ?_

theorem State.sayOn_ev {s₀ : State} {s : State} (c : Nat) (hev : Evolves s₀ s) :
    Evolves s₀ (State.sayOn s c) := by
  unfold State.sayOn
  try dsimp only
  repeat' with_reducible first
    | assumption | apply State.withConn_ev | apply State.paced_ev | apply State.answerNow_ev | apply State.putConn_ev
    | apply Answer.paced_ev | refine ev_ite ?_ ?_ | refine ev_ite_fst ?_ ?_ | refine ev_foldl ?_ (fun _ _ _ => ?_)
    | refine ev_foldl_fst ?_ (fun _ _ _ => ?_) | simp only [ev_mk] | split | intro _
    | refine ev_of_eq (by assumption) ?_ | refine optAll_state (by assumption) ?_
    | refine optAll_fst (by assumption) ?_

theorem State.sendAck_ev {s₀ : State} {s : State} (c : Nat) (late : Bool) (hev : Evolves s₀ s) :
    Evolves s₀ (State.sendAck s c late) := by
  unfold State.sendAck
  try dsimp only
  repeat' with_reducible first
    | assumption | apply State.say_ev | refine ev_ite ?_ ?_ | refine ev_ite_fst ?_ ?_ | simp only [ev_mk] | split
    | intro _ | refine ev_of_eq (by assumption) ?_ | refine optAll_state (by assumption) ?_
    | refine optAll_fst (by assumption) ?_

theorem State.sendNak_ev {s₀ : State} {s : State} (c code : Nat) (hev : Evolves s₀ s) :
    Evolves s₀ (State.sendNak s c code) := by
  unfold State.sendNak
  try dsimp only
  repeat' with_reducible first
    | assumption | apply State.withConn_ev | apply State.say_ev | refine ev_ite ?_ ?_ | refine ev_ite_fst ?_ ?_
    | simp only [ev_mk] | split | intro _ | refine ev_of_eq (by assumption) ?_
    | refine optAll_state (by assumption) ?_ | refine optAll_fst (by assumption) ?_

theorem State.sendNotReady_ev {s₀ : State} {s : State} (c psn : Nat) (plain : Bool) (hev : Evolves s₀ s) :
    Evolves s₀ (State.sendNotReady s c psn plain) := by
  unfold State.sendNotReady
  try dsimp only
  repeat' with_reducible first
    | assumption | apply State.say_ev | refine ev_ite ?_ ?_ | refine ev_ite_fst ?_ ?_ | simp only [ev_mk] | split
    | intro _ | refine ev_of_eq (by assumption) ?_ | refine optAll_state (by assumption) ?_
    | refine optAll_fst (by assumption) ?_

theorem State.sendHello_ev {s₀ : State} {s : State} (c : Nat) (move reply : Bool) (hev : Evolves s₀ s) :
    Evolves s₀ (State.sendHello s c move reply) := by
  unfold State.sendHello
  try dsimp only
  repeat' with_reducible first
    | assumption | apply State.say_ev | refine ev_ite ?_ ?_ | refine ev_ite_fst ?_ ?_ | simp only [ev_mk] | split
    | intro _ | refine ev_of_eq (by assumption) ?_ | refine optAll_state (by assumption) ?_
    | refine optAll_fst (by assumption) ?_

theorem State.sendResync_ev {s₀ : State} {s : State} (c code : Nat) (path : ShPath) (h : ShHdr) (hev : Evolves s₀ s) :
    Evolves s₀ (State.sendResync s c code path h) := by
  unfold State.sendResync
  try dsimp only
  repeat' with_reducible first
    | assumption | apply State.shxSend_ev | apply State.shxOut_ev | apply State.tickFree_ev | refine ev_ite ?_ ?_
    | simp only [ev_mk] | split | refine ev_of_eq (by assumption) ?_

theorem State.connRecord_ev {s₀ : State} {s : State} (c : Nat) (hev : Evolves s₀ s) :
    Evolves s₀ (State.connRecord s c) := by
  unfold State.connRecord
  try dsimp only
  repeat' with_reducible first
    | assumption | apply State.withConn_ev | apply State.dmaWriteBy_ev 
    | apply State.putConn_ev | apply State.msix_ev | apply State.tickFree_ev | refine ev_ite ?_ ?_
    | refine ev_ite_fst ?_ ?_ | simp only [ev_mk] | split | intro _ | refine ev_of_eq (by assumption) ?_
    | refine optAll_state (by assumption) ?_ | refine optAll_fst (by assumption) ?_

theorem State.connStop_ev {s₀ : State} {s : State} (c st reason idx : Nat) (hev : Evolves s₀ s) :
    Evolves s₀ (State.connStop s c st reason idx) := by
  unfold State.connStop
  try dsimp only
  repeat' with_reducible first
    | assumption | apply State.modConn_ev | apply State.connRecord_ev | simp only [ev_mk] | intro _

theorem State.connError_ev {s₀ : State} {s : State} (c reason idx : Nat) (hev : Evolves s₀ s) :
    Evolves s₀ (State.connError s c reason idx) := by
  unfold State.connError
  try dsimp only
  repeat' with_reducible first
    | assumption | apply State.withConn_ev | apply State.connStop_ev | refine ev_ite ?_ ?_ | split | intro _

theorem State.connHalt_ev {s₀ : State} {s : State} (c reason : Nat) (hev : Evolves s₀ s) :
    Evolves s₀ (State.connHalt s c reason) := by
  unfold State.connHalt
  try dsimp only
  repeat' with_reducible first
    | assumption | apply State.withConn_ev | apply State.connStop_ev | refine ev_ite ?_ ?_ | split | intro _

theorem State.connPresent_ev {s₀ : State} {s : State} (c : Nat) (go : State → State) (hev : Evolves s₀ s) (ev_go : ∀ x0, Evolves s₀ x0 → Evolves s₀ (go x0)) :
    Evolves s₀ (State.connPresent s c go) := by
  unfold State.connPresent
  try dsimp only
  repeat' with_reducible first
    | assumption | apply ev_go | apply State.withConn_ev | apply State.connHalt_ev
    | refine ev_ite ?_ ?_ | refine ev_ite_fst ?_ ?_ | simp only [ev_mk] | split | intro _
    | refine ev_of_eq (by assumption) ?_ | refine optAll_state (by assumption) ?_
    | refine optAll_fst (by assumption) ?_

theorem State.connAsk_ev {s₀ : State} {s : State} (c : Nat) (hev : Evolves s₀ s) :
    Evolves s₀ (State.connAsk s c) := by
  unfold State.connAsk
  try dsimp only
  repeat' with_reducible first
    | assumption | apply State.withConn_ev | apply State.dmaRead_ev | apply State.putConn_ev | refine ev_ite ?_ ?_
    | simp only [ev_mk] | split | intro _ | refine ev_of_eq (by assumption) ?_

theorem State.connFetch_ev {s₀ : State} {s : State} (c : Nat) (hev : Evolves s₀ s) :
    Evolves s₀ (State.connFetch s c) := by
  unfold State.connFetch
  try dsimp only
  repeat' with_reducible first
    | assumption | apply State.withConn_ev 
    | apply State.connPresent_ev | apply State.connAsk_ev | refine ev_ite ?_ ?_ | refine ev_ite_fst ?_ ?_
    | simp only [ev_mk] | split | intro _ | refine ev_of_eq (by assumption) ?_
    | refine optAll_state (by assumption) ?_ | refine optAll_fst (by assumption) ?_

theorem State.connReport_ev {s₀ : State} {s : State} (c : Nat) (n0 : Nat) (hev : Evolves s₀ s) :
    Evolves s₀ (State.connReport s c n0) := by
  induction n0 generalizing s with
  | zero =>
    unfold State.connReport
    repeat' with_reducible first
      | assumption | apply State.connPresent_ev | apply State.withConn_ev | apply State.putConn_ev | apply State.connRecord_ev | refine ev_ite ?_ ?_
      | simp only [ev_mk] | split | intro _ | refine ev_of_eq (by assumption) ?_
  | succ n ih =>
    unfold State.connReport
    repeat' with_reducible first
      | assumption | apply State.connPresent_ev | apply ih | apply State.withConn_ev | apply State.putConn_ev | apply State.connRecord_ev
      | refine ev_ite ?_ ?_ | simp only [ev_mk] | split | intro _ | refine ev_of_eq (by assumption) ?_

theorem State.connDone_ev {s₀ : State} {s : State} (c : Nat) (hev : Evolves s₀ s) :
    Evolves s₀ (State.connDone s c) := by
  unfold State.connDone
  try dsimp only
  repeat' with_reducible first
    | assumption | apply State.withConn_ev | apply State.connReport_ev | apply State.connFetch_ev | intro _

theorem State.sendPkt_ev {s₀ : State} {s : State} (c : Nat) (x : Conn) (k : Pkt) (retry : Bool) (hev : Evolves s₀ s) :
    Evolves s₀ (State.sendPkt s c x k retry) := by
  unfold State.sendPkt
  try dsimp only
  repeat' with_reducible first
    | assumption | apply State.connFrame_ev | apply State.paced_ev | apply State.shxNs_ev | apply modFirst_ev
    | apply State.shxOut_ev | apply State.putConn_ev | apply State.tickFree_ev | apply State.connDone_ev
    | refine ev_ite ?_ ?_ | refine ev_ite_fst ?_ ?_ | simp only [ev_mk] | split | intro _
    | refine ev_of_eq (by assumption) ?_ | refine optAll_state (by assumption) ?_
    | refine optAll_fst (by assumption) ?_

theorem State.connFill_ev {s₀ : State} {s : State} (c fuel : Nat) (hev : Evolves s₀ s) :
    Evolves s₀ (State.connFill s c fuel) := by
  induction fuel generalizing s with
  | zero => exact hev
  | succ n ih =>
    unfold State.connFill
    refine State.withConn_ev _ _ hev fun x h => ?_
    split
    · exact ev_ite (ih (State.putConn_ev _ _ h)) h
    · exact h

theorem State.toConn_ev {s₀ : State} {s : State} (c : Nat) (l : List Pkt) (hev : Evolves s₀ s) :
    Evolves s₀ (State.toConn s c l) := by
  unfold State.toConn
  try dsimp only
  repeat' with_reducible first
    | assumption | apply State.withConn_ev | apply State.putConn_ev | apply State.connFill_ev | refine ev_ite ?_ ?_
    | refine ev_ite_fst ?_ ?_ | simp only [ev_mk] | split | intro _ | refine ev_of_eq (by assumption) ?_
    | refine optAll_state (by assumption) ?_ | refine optAll_fst (by assumption) ?_

theorem State.pace_ev {s₀ : State} {s0 : State} (c : Nat) (hev : Evolves s₀ s0) :
    Evolves s₀ (State.pace s0 c) := by
  unfold State.pace
  try dsimp only
  repeat' with_reducible first
    | assumption | apply State.withConn_ev | apply State.connFill_ev | apply State.find_ev | apply Answer.paced_ev
    | apply State.paced_ev | apply State.mayAnswer_ev | apply State.putConn_ev | apply State.answerNow_ev
    | apply csOPEN_ev | apply State.inPace_ev | apply State.nextPkt_ev | apply State.sendPkt_ev | refine ev_ite ?_ ?_
    | refine ev_ite_fst ?_ ?_ | simp only [ev_mk] | split | intro _ | refine ev_of_eq (by assumption) ?_
    | refine optAll_state (by assumption) ?_ | refine optAll_fst (by assumption) ?_

theorem State.connFail_ev {s₀ : State} {s : State} (c reason : Nat) (hev : Evolves s₀ s) :
    Evolves s₀ (State.connFail s c reason) := by
  unfold State.connFail
  try dsimp only
  repeat' with_reducible first
    | assumption | apply State.withConn_ev | apply State.putConn_ev | apply State.shxEvent_ev
    | apply State.connError_ev | apply State.modConn_ev | simp only [ev_mk] | intro _

theorem State.connOpen_ev {s₀ : State} {s : State} (c : Nat) (hev : Evolves s₀ s) :
    Evolves s₀ (State.connOpen s c) := by
  unfold State.connOpen
  try dsimp only
  repeat' with_reducible first
    | assumption | apply State.withConn_ev | apply State.putConn_ev | apply State.shxEvent_ev
    | apply State.connDone_ev | simp only [ev_mk] | intro _

end Sys2Proof.Machine
end

