-- ==== Sys2Proof/Laws/EvolveShardoOps.lean ====
section
/-!
SUPPORT. What the definitions of Machine/ShardoOps.lean keep.
-/

namespace Sys2Proof.Machine

set_option linter.all false

theorem State.placeInto_ev {s₀ : State} {s : State} (i addr : Nat) (data : List Byte) (timed : Bool) (hev : Evolves s₀ s) :
    Evolves s₀ (State.placeInto s i addr data timed) := by
  unfold State.placeInto
  try dsimp only
  repeat' with_reducible first
    | assumption | apply State.placeSample_ev | apply sampleOf_ev | apply State.dmaData_ev | apply State.place_ev
    | refine ev_ite ?_ ?_ | refine ev_ite_fst ?_ ?_ | simp only [ev_mk] | split | intro _
    | refine ev_of_eq (by assumption) ?_ | refine optAll_state (by assumption) ?_
    | refine optAll_fst (by assumption) ?_

theorem State.setHeld_ev {s₀ : State} {s : State} (l : List HeldWrite) (hev : Evolves s₀ s) :
    Evolves s₀ (State.setHeld s l) := by
  unfold State.setHeld
  try dsimp only
  repeat' with_reducible first
    | assumption | apply State.set_ev | simp only [ev_mk]

theorem State.connPlace_ev {s₀ : State} {s : State} (c i addr : Nat) (data : List Byte) (timed : Bool) (hev : Evolves s₀ s) :
    Evolves s₀ (State.connPlace s c i addr data timed) := by
  unfold State.connPlace
  try dsimp only
  repeat' with_reducible first
    | assumption | apply State.placeInto_ev | apply State.modConn_ev | refine ev_ite ?_ ?_ | refine ev_ite_fst ?_ ?_
    | simp only [ev_mk] | split | intro _ | refine ev_of_eq (by assumption) ?_
    | refine optAll_state (by assumption) ?_ | refine optAll_fst (by assumption) ?_

theorem State.targetNotice_ev {s₀ : State} {s : State} (c psn : Nat) (hev : Evolves s₀ s) :
    Evolves s₀ (State.targetNotice s c psn) := by
  unfold State.targetNotice
  try dsimp only
  repeat' with_reducible first
    | assumption | apply State.dmaWrite_ev | apply State.set_ev | apply State.modConn_ev | apply State.tickFree_ev
    | simp only [ev_mk] | intro _

theorem State.sendFlushAck_ev {s₀ : State} {s : State} (c psn : Nat) (hev : Evolves s₀ s) :
    Evolves s₀ (State.sendFlushAck s c psn) := by
  unfold State.sendFlushAck
  try dsimp only
  repeat' with_reducible first
    | assumption | apply State.say_ev | refine ev_ite ?_ ?_ | refine ev_ite_fst ?_ ?_ | simp only [ev_mk] | split
    | intro _ | refine ev_of_eq (by assumption) ?_ | refine optAll_state (by assumption) ?_
    | refine optAll_fst (by assumption) ?_

theorem State.sendReadResp_ev {s₀ : State} {s : State} (c psn : Nat) (data : List Byte) (hev : Evolves s₀ s) :
    Evolves s₀ (State.sendReadResp s c psn data) := by
  unfold State.sendReadResp
  try dsimp only
  repeat' with_reducible first
    | assumption | apply State.withConn_ev | apply State.say_ev | apply State.readResp_ev | apply State.take_ev
    | refine ev_ite ?_ ?_ | refine ev_ite_fst ?_ ?_ | simp only [ev_mk] | split | intro _
    | refine ev_of_eq (by assumption) ?_ | refine optAll_state (by assumption) ?_
    | refine optAll_fst (by assumption) ?_

theorem State.runTodo_ev {s₀ : State} {s : State} (c : Nat) (n0 : Nat) (hev : Evolves s₀ s) :
    Evolves s₀ (State.runTodo s c n0) := by
  induction n0 generalizing s with
  | zero =>
    unfold State.runTodo
    repeat' with_reducible first
      | assumption | apply State.withConn_ev | apply State.modConn_ev | apply State.dmaRead_ev
      | apply State.targetNotice_ev | apply State.sendFlushAck_ev | apply State.sendReadResp_ev | refine ev_ite ?_ ?_
      | simp only [ev_mk] | split | intro _ | refine ev_of_eq (by assumption) ?_
  | succ n ih =>
    unfold State.runTodo
    repeat' with_reducible first
      | assumption | apply ih | apply State.withConn_ev | apply State.modConn_ev | apply State.dmaRead_ev
      | apply State.targetNotice_ev | apply State.sendFlushAck_ev | apply State.sendReadResp_ev | refine ev_ite ?_ ?_
      | simp only [ev_mk] | split | intro _ | refine ev_of_eq (by assumption) ?_

theorem State.todo_ev {s₀ : State} {s : State} (c : Nat) (hev : Evolves s₀ s) :
    Evolves s₀ (State.todo s c) := by
  unfold State.todo
  try dsimp only
  repeat' with_reducible first
    | assumption | apply State.withConn_ev | apply State.runTodo_ev | intro _

theorem State.addTodo_ev {s₀ : State} {s : State} (c : Nat) (h : ShHdr) (hev : Evolves s₀ s) :
    Evolves s₀ (State.addTodo s c h) := by
  unfold State.addTodo
  try dsimp only
  repeat' with_reducible first
    | assumption | apply State.modConn_ev | apply State.todo_ev | simp only [ev_mk] | intro _

theorem State.badPacket_ev {s₀ : State} {s : State} (hev : Evolves s₀ s) :
    Evolves s₀ (State.badPacket s) := by
  unfold State.badPacket
  try dsimp only
  repeat' with_reducible first
    | assumption | apply State.shxStat_ev

theorem State.fatalNak_ev {s₀ : State} {s : State} (c code : Nat) (hev : Evolves s₀ s) :
    Evolves s₀ (State.fatalNak s c code) := by
  unfold State.fatalNak
  try dsimp only
  repeat' with_reducible first
    | assumption | apply State.sendNak_ev | apply State.shxEvent_ev | apply State.connFail_ev

theorem State.countCe_ev {s₀ : State} {s : State} (c : Nat) (ce : Bool) (hev : Evolves s₀ s) :
    Evolves s₀ (State.countCe s c ce) := by
  unfold State.countCe
  try dsimp only
  repeat' with_reducible first
    | assumption | apply State.modConn_ev | refine ev_ite ?_ ?_ | simp only [ev_mk] | split | intro _

theorem State.accept_ev {s₀ : State} {s : State} (c : Nat) (h : ShHdr) (ce late : Bool) (hev : Evolves s₀ s) :
    Evolves s₀ (State.accept s c h ce late) := by
  unfold State.accept
  try dsimp only
  repeat' with_reducible first
    | assumption | apply State.countCe_ev | apply State.modConn_ev | apply State.withConn_ev | apply State.sendAck_ev
    | refine ev_ite ?_ ?_ | simp only [ev_mk] | split | intro _

theorem State.timedWrite_ev {s₀ : State} {s : State} (c : Nat) (h : ShHdr) (ce : Bool) (hev : Evolves s₀ s) :
    Evolves s₀ (State.timedWrite s c h ce) := by
  unfold State.timedWrite
  try dsimp only
  repeat' with_reducible first
    | assumption | apply State.fatalNak_ev | apply State.connPlace_ev | apply State.shxStat_ev
    | apply State.shxEvent_ev | apply State.tickFree_ev | apply State.accept_ev | apply State.sendNak_ev
    | apply State.setHeld_ev | refine ev_ite ?_ ?_ | simp only [ev_mk] | split

theorem State.inOrder_ev {s₀ : State} {s : State} (c : Nat) (x : Conn) (h : ShHdr) (ce : Bool) (hev : Evolves s₀ s) :
    Evolves s₀ (State.inOrder s c x h ce) := by
  unfold State.inOrder
  try dsimp only
  repeat' with_reducible first
    | assumption | apply State.accept_ev | apply State.addTodo_ev | apply State.fatalNak_ev
    | apply State.connPlace_ev | apply State.timedWrite_ev | refine ev_ite ?_ ?_ | simp only [ev_mk] | split
    | refine ev_of_eq (by assumption) ?_

theorem State.duplicate_ev {s₀ : State} {s : State} (c : Nat) (h : ShHdr) (ce : Bool) (hev : Evolves s₀ s) :
    Evolves s₀ (State.duplicate s c h ce) := by
  unfold State.duplicate
  try dsimp only
  repeat' with_reducible first
    | assumption | apply State.shxStat_ev | apply State.countCe_ev | apply State.addTodo_ev | apply State.sendAck_ev
    | refine ev_ite ?_ ?_ | refine ev_ite_fst ?_ ?_ | simp only [ev_mk] | split | intro _
    | refine ev_of_eq (by assumption) ?_ | refine optAll_state (by assumption) ?_
    | refine optAll_fst (by assumption) ?_

theorem State.request_ev {s₀ : State} {s : State} (c : Nat) (x : Conn) (h : ShHdr) (ce : Bool) (hev : Evolves s₀ s) :
    Evolves s₀ (State.request s c x h ce) := by
  unfold State.request
  try dsimp only
  repeat' with_reducible first
    | assumption | apply State.shxStat_ev | apply State.fatalNak_ev | apply State.sendNotReady_ev
    | apply State.inOrder_ev | apply State.duplicate_ev | apply State.sendNak_ev | apply State.modConn_ev
    | apply State.badPacket_ev | refine ev_ite ?_ ?_ | refine ev_ite_fst ?_ ?_ | simp only [ev_mk] | split | intro _
    | refine ev_of_eq (by assumption) ?_ | refine optAll_state (by assumption) ?_
    | refine optAll_fst (by assumption) ?_

theorem State.takeAck_ev {s₀ : State} {s : State} (c p m : Nat) (hev : Evolves s₀ s) :
    Evolves s₀ (State.takeAck s c p m) := by
  unfold State.takeAck
  try dsimp only
  repeat' with_reducible first
    | assumption | apply State.withConn_ev | apply State.putConn_ev | split | intro _
    | refine ev_of_eq (by assumption) ?_

theorem State.takeExpected_ev {s₀ : State} {s : State} (c p : Nat) (hev : Evolves s₀ s) :
    Evolves s₀ (State.takeExpected s c p) := by
  unfold State.takeExpected
  try dsimp only
  repeat' with_reducible first
    | assumption | apply State.withConn_ev | apply State.putConn_ev | split | intro _
    | refine ev_of_eq (by assumption) ?_

theorem State.scatter_ev {s₀ : State} {s : State} (r : Reader) (v : Option (Nat × Option Nat)) (n0 : List (Nat × Nat)) (n1 : List Byte) (hev : Evolves s₀ s) :
    Evolves s₀ (State.scatter s r v n0 n1) := by
  induction n0 generalizing s n1 with
  | nil =>
    unfold State.scatter
    repeat' with_reducible first
      | assumption | apply State.dmaData_ev | apply State.take_ev | simp only [ev_mk] | split
      | refine ev_of_eq (by assumption) ?_
  | cons x l ih =>
    unfold State.scatter
    repeat' with_reducible first
      | assumption | apply ih | apply State.dmaData_ev | apply State.take_ev | simp only [ev_mk] | split
      | refine ev_of_eq (by assumption) ?_

theorem State.readResp_ev {s₀ : State} {s : State} (c : Nat) (x : Conn) (h : ShHdr) (hev : Evolves s₀ s) :
    Evolves s₀ (State.readResp s c x h) := by
  unfold State.readResp
  try dsimp only
  repeat' with_reducible first
    | assumption | apply State.scatter_ev | apply State.putConn_ev | apply State.connDone_ev | apply State.connHalt_ev
    | refine ev_ite ?_ ?_ | refine ev_ite_fst ?_ ?_ | simp only [ev_mk] | split | intro _
    | refine ev_of_eq (by assumption) ?_ | refine optAll_state (by assumption) ?_
    | refine optAll_fst (by assumption) ?_

theorem State.goBack_ev {s₀ : State} {s : State} (c p : Nat) (hev : Evolves s₀ s) :
    Evolves s₀ (State.goBack s c p) := by
  unfold State.goBack
  try dsimp only
  repeat' with_reducible first
    | assumption | apply State.modConn_ev | simp only [ev_mk] | intro _

theorem State.pauseFor_ev {s₀ : State} {s : State} (c us p : Nat) (full : Bool) (hev : Evolves s₀ s) :
    Evolves s₀ (State.pauseFor s c us p full) := by
  unfold State.pauseFor
  try dsimp only
  repeat' with_reducible first
    | assumption | apply State.modConn_ev | simp only [ev_mk] | intro _

theorem State.answer_ev {s₀ : State} {s : State} (c : Nat) (x : Conn) (h : ShHdr) (hev : Evolves s₀ s) :
    Evolves s₀ (State.answer s c x h) := by
  unfold State.answer
  try dsimp only
  repeat' with_reducible first
    | assumption | apply State.connFail_ev | apply State.readResp_ev | apply State.takeAck_ev
    | apply State.connDone_ev | apply State.modConn_ev | apply State.pauseFor_ev | apply State.goBack_ev
    | refine ev_ite ?_ ?_ | split | intro _

theorem State.hello_ev {s₀ : State} {s : State} (c : Nat) (x : Conn) (h : ShHdr) (f : PFrame) (ip : IpHdr) (hev : Evolves s₀ s) :
    Evolves s₀ (State.hello s c x h f ip) := by
  unfold State.hello
  try dsimp only
  repeat' with_reducible first
    | assumption | apply olderEpoch_ev | apply State.shxStat_ev | apply State.modConn_ev | apply State.takeExpected_ev
    | apply State.goBack_ev | apply State.sendHello_ev | apply State.shxEvent_ev | apply State.connDone_ev
    | apply State.badPacket_ev | apply State.withConn_ev | apply State.connFail_ev | apply State.connOpen_ev
    | refine ev_ite ?_ ?_ | refine ev_ite_fst ?_ ?_ | simp only [ev_mk] | split | intro _
    | refine ev_of_eq (by assumption) ?_ | refine optAll_state (by assumption) ?_
    | refine optAll_fst (by assumption) ?_

theorem State.shxLookedUp_ev {s₀ : State} {s0 : State} (f : PFrame) (h : ShHdr) (ip : IpHdr) (c : Nat) (x : Conn) (hev : Evolves s₀ s0) :
    Evolves s₀ (State.shxLookedUp s0 f h ip c x) := by
  unfold State.shxLookedUp
  try dsimp only
  repeat' with_reducible first
    | assumption | apply State.keyMet_ev | apply State.authOk_ev | apply State.badPacket_ev | apply State.igeEvent_ev
    | apply State.hello_ev | apply State.request_ev | apply State.shxStat_ev | apply State.answer_ev
    | refine ev_ite ?_ ?_ | refine ev_ite_fst ?_ ?_ | simp only [ev_mk] | split | intro _
    | refine ev_of_eq (by assumption) ?_ | refine optAll_state (by assumption) ?_
    | refine optAll_fst (by assumption) ?_

theorem State.setParked_ev {s₀ : State} {s : State} (l : List (Nat × Option Nat × PFrame)) (hev : Evolves s₀ s) :
    Evolves s₀ (State.setParked s l) := by
  unfold State.setParked
  try dsimp only
  repeat' with_reducible first
    | assumption | apply State.set_ev | simp only [ev_mk]

theorem State.shxArrive_ev {s₀ : State} {s : State} (f : PFrame) (h : ShHdr) (ip : IpHdr) (again : Bool) (hev : Evolves s₀ s) :
    Evolves s₀ (State.shxArrive s f h ip again) := by
  unfold State.shxArrive
  try dsimp only
  repeat' with_reducible first
    | assumption | apply State.request_ev | apply State.sendResync_ev | apply backPath_ev | apply State.badPacket_ev
    | apply State.hello_ev | apply State.shxStat_ev | apply State.ctxTouch_ev | apply State.regionTouch_ev
    | apply State.shxLookedUp_ev | apply State.sendNotReady_ev | apply State.shxEvent_ev | apply State.setParked_ev
    | apply State.ctxAsk_ev | apply State.regionAsk_ev | refine ev_ite ?_ ?_ | refine ev_ite_fst ?_ ?_
    | simp only [ev_mk] | split | intro _ | refine ev_of_eq (by assumption) ?_
    | refine optAll_state (by assumption) ?_ | refine optAll_fst (by assumption) ?_

theorem State.unpark_ev {s₀ : State} {s : State} (n0 : Nat) (hev : Evolves s₀ s) :
    Evolves s₀ (State.unpark s n0) := by
  induction n0 generalizing s with
  | zero =>
    unfold State.unpark
    repeat' with_reducible first
      | assumption | apply State.setParked_ev | apply State.shxArrive_ev | apply State.badPacket_ev | simp only [ev_mk]
      | split | intro _ | refine ev_of_eq (by assumption) ?_
  | succ n ih =>
    unfold State.unpark
    repeat' with_reducible first
      | assumption | apply ih | apply State.setParked_ev | apply State.shxArrive_ev | apply State.badPacket_ev
      | simp only [ev_mk] | split | intro _ | refine ev_of_eq (by assumption) ?_

theorem State.shxTake_ev {s₀ : State} {s : State} (op : Nat) (n0 : Nat) (hev : Evolves s₀ s) :
    Evolves s₀ (State.shxTake s op n0) := by
  induction n0 generalizing s with
  | zero =>
    unfold State.shxTake
    repeat' with_reducible first
      | assumption | apply State.freeCells_ev | apply State.badPacket_ev | apply State.shxArrive_ev
      | refine ev_ite ?_ ?_ | simp only [ev_mk] | split | refine ev_of_eq (by assumption) ?_
  | succ n ih =>
    unfold State.shxTake
    repeat' with_reducible first
      | assumption | apply ih | apply State.freeCells_ev | apply State.badPacket_ev | apply State.shxArrive_ev
      | refine ev_ite ?_ ?_ | simp only [ev_mk] | split | refine ev_of_eq (by assumption) ?_

theorem State.arrive_ev {s₀ : State} {s : State} (op : Nat) (hev : Evolves s₀ s) :
    Evolves s₀ (State.arrive s op) := by
  unfold State.arrive
  try dsimp only
  repeat' with_reducible first
    | assumption | apply State.startClocks_ev | apply State.shxTake_ev

end Sys2Proof.Machine
end

