-- ==== Sys2Proof/Laws/EvolveNvfOps.lean ====
section
/-!
SUPPORT. What the definitions of Machine/NvfOps.lean keep.
-/

namespace Sys2Proof.Machine

set_option linter.all false

theorem State.modNvf_ev {s₀ : State} {s : State} (f : Nvf → Nvf) (hev : Evolves s₀ s) :
    Evolves s₀ (State.modNvf s f) := by
  unfold State.modNvf
  try dsimp only
  repeat' with_reducible first
    | assumption | simp only [ev_mk]

theorem State.nvFail_ev {s₀ : State} {s : State} (hev : Evolves s₀ s) :
    Evolves s₀ (State.nvFail s) := by
  unfold State.nvFail
  try dsimp only
  repeat' with_reducible first
    | assumption | apply State.modNvf_ev | simp only [ev_mk] | intro _

theorem State.nvEvent_ev {s₀ : State} {s : State} (n detail : Nat) (hev : Evolves s₀ s) :
    Evolves s₀ (State.nvEvent s n detail) := by
  unfold State.nvEvent
  try dsimp only
  repeat' with_reducible first
    | assumption | apply State.raiseHeld_ev

theorem State.putSq_ev {s₀ : State} {s : State} (y : Nat) (q : NvSq) (hev : Evolves s₀ s) :
    Evolves s₀ (State.putSq s y q) := by
  unfold State.putSq
  try dsimp only
  repeat' with_reducible first
    | assumption | apply State.modNvf_ev | simp only [ev_mk] | intro _

theorem State.putCq_ev {s₀ : State} {s : State} (y : Nat) (q : NvCq) (hev : Evolves s₀ s) :
    Evolves s₀ (State.putCq s y q) := by
  unfold State.putCq
  try dsimp only
  repeat' with_reducible first
    | assumption | apply State.modNvf_ev | simp only [ev_mk] | intro _

theorem State.readOver_ev {s₀ : State} {s : State} (f : Nat) (r : Reader) (hev : Evolves s₀ s) :
    Evolves s₀ (State.readOver s f r) := by
  unfold State.readOver
  try dsimp only
  repeat' with_reducible first
    | assumption | apply State.readEnds_ev | apply State.stray_ev | refine ev_ite ?_ ?_ | refine ev_ite_fst ?_ ?_
    | simp only [ev_mk] | split | intro _ | refine ev_of_eq (by assumption) ?_
    | refine optAll_state (by assumption) ?_ | refine optAll_fst (by assumption) ?_

theorem State.readsOver_ev {s₀ : State} {s : State} (r : Reader) (n0 : Nat) (hev : Evolves s₀ s) :
    Evolves s₀ (State.readsOver s r n0) := by
  induction n0 generalizing s with
  | zero =>
    unfold State.readsOver
    repeat' with_reducible first
      | assumption | refine ev_ite ?_ ?_ | refine ev_ite_fst ?_ ?_ | split | intro _ | refine ev_of_eq (by assumption) ?_ | apply State.readOver_ev
  | succ n ih =>
    unfold State.readsOver
    repeat' with_reducible first
      | assumption | refine ev_ite ?_ ?_ | refine ev_ite_fst ?_ ?_ | split | intro _ | refine ev_of_eq (by assumption) ?_ | apply ih | apply State.readOver_ev

theorem State.setLocks_ev {s₀ : State} {s : State} (l : List NvLock) (hev : Evolves s₀ s) :
    Evolves s₀ (State.setLocks s l) := by
  unfold State.setLocks
  try dsimp only
  repeat' with_reducible first
    | assumption | apply State.modNvf_ev | apply State.set_ev | simp only [ev_mk] | intro _

theorem State.takeLock_ev {s₀ : State} {s : State} (l : NvLock) (hev : Evolves s₀ s) :
    Evolves s₀ (State.takeLock s l) := by
  unfold State.takeLock
  try dsimp only
  repeat' with_reducible first
    | assumption | apply State.modNvf_ev | apply State.setLocks_ev | apply lockSlots_ev | apply State.nvEvent_ev
    | refine ev_ite ?_ ?_ | refine ev_ite_fst ?_ ?_ | simp only [ev_mk] | split | intro _
    | refine ev_of_eq (by assumption) ?_ | refine optAll_state (by assumption) ?_
    | refine optAll_fst (by assumption) ?_

theorem State.modLock_ev {s₀ : State} {s : State} (i : Nat) (f : NvLock → NvLock) (hev : Evolves s₀ s) :
    Evolves s₀ (State.modLock s i f) := by
  unfold State.modLock
  try dsimp only
  repeat' with_reducible first
    | assumption | apply State.modNvf_ev | refine ev_ite ?_ ?_ | simp only [ev_mk] | split | intro _

theorem State.freeLock_ev {s₀ : State} {s : State} (i : Nat) (hev : Evolves s₀ s) :
    Evolves s₀ (State.freeLock s i) := by
  unfold State.freeLock
  try dsimp only
  repeat' with_reducible first
    | assumption | apply State.setLocks_ev | intro _

theorem State.nvWrite_ev {s₀ : State} {s : State} (d : NvDone) (q : NvCq) (hev : Evolves s₀ s) :
    Evolves s₀ (State.nvWrite s d q) := by
  unfold State.nvWrite
  try dsimp only
  repeat' with_reducible first
    | assumption 
    | apply State.dmaWriteBy_ev | apply State.nvFail_ev
    | apply State.putCq_ev | apply State.freeLock_ev | apply State.msix_ev
    | apply State.tickFree_ev | refine ev_ite ?_ ?_ | refine ev_ite_fst ?_ ?_ | simp only [ev_mk] | split | intro _
    | refine ev_of_eq (by assumption) ?_ | refine optAll_state (by assumption) ?_
    | refine optAll_fst (by assumption) ?_

theorem State.nvPost_ev {s₀ : State} {s : State} (d : NvDone) (hev : Evolves s₀ s) :
    Evolves s₀ (State.nvPost s d) := by
  unfold State.nvPost
  try dsimp only
  repeat' with_reducible first
    | assumption | apply State.freeLock_ev | apply State.modNvf_ev | apply State.nvEvent_ev | apply State.nvWrite_ev
    | refine ev_ite ?_ ?_ | simp only [ev_mk] | split | intro _ | refine ev_of_eq (by assumption) ?_

theorem State.nvDrain_ev {s₀ : State} {s : State} (y : Nat) (n0 : Nat) (hev : Evolves s₀ s) :
    Evolves s₀ (State.nvDrain s y n0) := by
  induction n0 generalizing s with
  | zero =>
    unfold State.nvDrain
    repeat' with_reducible first
      | assumption | apply State.modNvf_ev | apply State.nvWrite_ev | refine ev_ite ?_ ?_ | simp only [ev_mk] | split
      | intro _ | refine ev_of_eq (by assumption) ?_
  | succ n ih =>
    unfold State.nvDrain
    repeat' with_reducible first
      | assumption | apply ih | apply State.modNvf_ev | apply State.nvWrite_ev | refine ev_ite ?_ ?_
      | simp only [ev_mk] | split | intro _ | refine ev_of_eq (by assumption) ?_

theorem State.nvAnswer_ev {s₀ : State} {s : State} (y cid status dw0 : Nat) (hev : Evolves s₀ s) :
    Evolves s₀ (State.nvAnswer s y cid status dw0) := by
  unfold State.nvAnswer
  try dsimp only
  repeat' with_reducible first
    | assumption | apply State.nvPost_ev | simp only [ev_mk] | split | refine ev_of_eq (by assumption) ?_

theorem State.nvFinish_ev {s₀ : State} {s : State} (l : NvLock) (status : Nat) (hev : Evolves s₀ s) :
    Evolves s₀ (State.nvFinish s l status) := by
  unfold State.nvFinish
  try dsimp only
  repeat' with_reducible first
    | assumption | apply State.freeLock_ev | apply State.modLock_ev | apply State.nvPost_ev | simp only [ev_mk]
    | split | intro _ | refine ev_of_eq (by assumption) ?_

theorem State.issueOps_ev {s₀ : State} {s : State} (tag op : Nat) (via : Option (Nat × Option Nat)) (n0 : List (Nat × Nat × Nat × Nat)) (n1 : List Byte) (n2 : List (Nat × Nat)) (hev : Evolves s₀ s) :
    Evolves s₀ (State.issueOps s tag op via n0 n1 n2) := by
  induction n0 generalizing s n1 n2 with
  | nil =>
    unfold State.issueOps
    repeat' with_reducible first
      | assumption | apply State.toConn_ev | simp only [ev_mk] | split | refine ev_of_eq (by assumption) ?_
  | cons x l ih =>
    unfold State.issueOps
    repeat' with_reducible first
      | assumption | apply ih | apply State.toConn_ev | simp only [ev_mk] | split | refine ev_of_eq (by assumption) ?_

theorem State.issueFlush_ev {s₀ : State} {s : State} (tag : Nat) (cs : List Nat) (hev : Evolves s₀ s) :
    Evolves s₀ (State.issueFlush s tag cs) := by
  unfold State.issueFlush
  try dsimp only
  repeat' with_reducible first
    | assumption | apply State.toConn_ev | refine ev_foldl ?_ (fun _ _ _ => ?_) | intro _

theorem State.nvSend_ev {s₀ : State} {s : State} (l : NvLock) (data : List Byte) (hev : Evolves s₀ s) :
    Evolves s₀ (State.nvSend s l data) := by
  unfold State.nvSend
  try dsimp only
  repeat' with_reducible first
    | assumption | apply State.nvFinish_ev | apply State.issueOps_ev | apply State.modLock_ev | refine ev_ite ?_ ?_
    | simp only [ev_mk] | split | intro _

theorem State.nvPages_ev {s₀ : State} {s : State} (l : NvLock) (pages : List Nat) (hev : Evolves s₀ s) :
    Evolves s₀ (State.nvPages s l pages) := by
  unfold State.nvPages
  try dsimp only
  repeat' with_reducible first
    | assumption | apply State.nvFinish_ev | apply State.issueOps_ev | apply State.modLock_ev
    | apply State.dmaRead_ev | refine ev_ite ?_ ?_ | simp only [ev_mk] | refine ev_foldl ?_ (fun _ _ _ => ?_) | split
    | intro _

theorem State.nvList_ev {s₀ : State} {s : State} (l : NvLock) (addr need : Nat) (pages : List Nat) (hev : Evolves s₀ s) :
    Evolves s₀ (State.nvList s l addr need pages) := by
  unfold State.nvList
  try dsimp only
  repeat' with_reducible first
    | assumption | apply State.nvFinish_ev | apply State.dmaRead_ev | apply State.modLock_ev | refine ev_ite ?_ ?_
    | simp only [ev_mk] | split | intro _

theorem State.nvGranted_ev {s₀ : State} {s : State} (l : NvLock) (hev : Evolves s₀ s) :
    Evolves s₀ (State.nvGranted s l) := by
  unfold State.nvGranted
  try dsimp only
  repeat' with_reducible first
    | assumption | apply State.nvFinish_ev | apply State.modLock_ev | apply State.nvSend_ev | apply State.nvPages_ev
    | apply State.nvList_ev | refine ev_ite ?_ ?_ | simp only [ev_mk] | split | intro _
    | refine ev_of_eq (by assumption) ?_

theorem State.nvListIn_ev {s₀ : State} {s : State} (l : NvLock) (addr : Nat) (pages : List Nat) (data : List Byte) (hev : Evolves s₀ s) :
    Evolves s₀ (State.nvListIn s l addr pages data) := by
  unfold State.nvListIn
  try dsimp only
  repeat' with_reducible first
    | assumption | apply State.nvFinish_ev | apply State.take_ev | apply State.nvPages_ev | apply State.nvList_ev
    | refine ev_ite ?_ ?_ | split | intro _ | refine ev_of_eq (by assumption) ?_

theorem State.nvLost_ev {s₀ : State} {s : State} (hev : Evolves s₀ s) :
    Evolves s₀ (State.nvLost s) := by
  unfold State.nvLost
  try dsimp only
  repeat' with_reducible first
    | assumption | apply State.nvFinish_ev | apply State.nvEvent_ev | refine ev_ite ?_ ?_ | simp only [ev_mk]
    | refine ev_foldl ?_ (fun _ _ _ => ?_) | split | intro _ | refine ev_of_eq (by assumption) ?_

theorem State.nvGo_ev {s₀ : State} {s : State} (i : Nat) (hev : Evolves s₀ s) :
    Evolves s₀ (State.nvGo s i) := by
  unfold State.nvGo
  try dsimp only
  repeat' with_reducible first
    | assumption | apply State.lock_ev | apply flushWaits_ev | apply State.nvMayIssue_ev | apply State.lockConns_ev
    | apply State.connIsOpen_ev | apply State.nvFinish_ev | apply nvNOT_READY_ev | apply State.issueFlush_ev
    | apply State.modLock_ev | apply State.nvBusy_ev | apply State.find_ev | apply nvTRANSPORT_ev
    | apply State.nvEvent_ev | apply nvOK_ev | refine ev_ite ?_ ?_ | refine ev_ite_fst ?_ ?_ | simp only [ev_mk]
    | split | intro _ | refine ev_of_eq (by assumption) ?_ | refine optAll_state (by assumption) ?_
    | refine optAll_fst (by assumption) ?_

theorem State.nvLock_ev {s₀ : State} {s : State} (l : NvLock) (hev : Evolves s₀ s) :
    Evolves s₀ (State.nvLock s l) := by
  unfold State.nvLock
  try dsimp only
  repeat' with_reducible first
    | assumption | apply State.takeLock_ev | apply lockBlocked_ev | apply State.nvMayIssue_ev
    | apply State.nvGranted_ev | refine ev_ite ?_ ?_ | refine ev_ite_fst ?_ ?_ | simp only [ev_mk] | split | intro _
    | refine ev_of_eq (by assumption) ?_ | refine optAll_state (by assumption) ?_
    | refine optAll_fst (by assumption) ?_

theorem State.nvIo_ev {s₀ : State} {s : State} (y : Nat) (e : List Byte) (hev : Evolves s₀ s) :
    Evolves s₀ (State.nvIo s y e) := by
  unfold State.nvIo
  try dsimp only
  repeat' with_reducible first
    | assumption | apply nvCid_ev | apply nvNsid_ev | apply nvOp_ev | apply ioReserved_ev | apply State.nvAnswer_ev
    | apply nvINVALID_FIELD_ev | apply State.nsAllowed_ev | apply nvINVALID_NS_ev | apply nvLBA_RANGE_ev
    | apply State.modNvf_ev | apply State.nvLock_ev | apply State.sq_ev | apply nvDw_ev | refine ev_ite ?_ ?_
    | refine ev_ite_fst ?_ ?_ | simp only [ev_mk] | split | intro _ | refine ev_of_eq (by assumption) ?_
    | refine optAll_state (by assumption) ?_ | refine optAll_fst (by assumption) ?_

theorem State.nvFlush_ev {s₀ : State} {s : State} (y : Nat) (e : List Byte) (hev : Evolves s₀ s) :
    Evolves s₀ (State.nvFlush s y e) := by
  unfold State.nvFlush
  try dsimp only
  repeat' with_reducible first
    | assumption | apply nvNsid_ev | apply State.nsAllowed_ev | apply ioReserved_ev | apply State.nvAnswer_ev
    | apply nvCid_ev | apply nvINVALID_FIELD_ev | apply nvINVALID_NS_ev | apply State.nvLock_ev | apply State.sq_ev
    | refine ev_ite ?_ ?_ | refine ev_ite_fst ?_ ?_ | simp only [ev_mk] | split | intro _
    | refine ev_of_eq (by assumption) ?_ | refine optAll_state (by assumption) ?_
    | refine optAll_fst (by assumption) ?_

theorem State.nvRun_ev {s₀ : State} {s : State} (y : Nat) (e : List Byte) (hev : Evolves s₀ s) :
    Evolves s₀ (State.nvRun s y e) := by
  unfold State.nvRun
  try dsimp only
  repeat' with_reducible first
    | assumption | apply nvOp_ev | apply State.nvFlush_ev | apply ioOps_ev | apply State.nvIo_ev
    | apply State.nvAnswer_ev | apply nvCid_ev | apply nvINVALID_OPCODE_ev | refine ev_ite ?_ ?_
    | refine ev_ite_fst ?_ ?_ | simp only [ev_mk] | split | intro _ | refine ev_of_eq (by assumption) ?_
    | refine optAll_state (by assumption) ?_ | refine optAll_fst (by assumption) ?_

theorem State.nvFetch_ev {s₀ : State} {s : State} (y : Nat) (n0 : Nat) (hev : Evolves s₀ s) :
    Evolves s₀ (State.nvFetch s y n0) := by
  induction n0 generalizing s with
  | zero =>
    unfold State.nvFetch
    repeat' with_reducible first
      | assumption | apply State.sq_ev | apply State.nvMayFetch_ev | apply State.nvPasid_ev | apply State.modNvf_ev | apply State.fetched_ev | apply State.nvFail_ev | refine ev_ite_fst ?_ ?_ | intro _ | apply State.nvEvent_ev | apply State.dmaRead_ev | apply State.putSq_ev | refine ev_ite ?_ ?_
      | simp only [ev_mk] | split | refine ev_of_eq (by assumption) ?_
  | succ n ih =>
    unfold State.nvFetch
    repeat' with_reducible first
      | assumption | apply State.sq_ev | apply State.nvMayFetch_ev | apply State.nvPasid_ev | apply State.modNvf_ev | apply State.fetched_ev | apply State.nvFail_ev | refine ev_ite_fst ?_ ?_ | intro _ | apply ih | apply State.nvEvent_ev | apply State.dmaRead_ev | apply State.putSq_ev
      | refine ev_ite ?_ ?_ | simp only [ev_mk] | split | refine ev_of_eq (by assumption) ?_

theorem State.nvTurns_ev {s₀ : State} {s : State} (fuel : Nat) (hev : Evolves s₀ s) :
    Evolves s₀ (State.nvTurns s fuel) := by
  induction fuel generalizing s with
  | zero => exact hev
  | succ n ih =>
    unfold State.nvTurns
    dsimp only
    split
    · exact hev
    · exact ih (State.nvFetch_ev _ _ (State.modNvf_ev _ hev))

theorem State.nvChecks_ev {s₀ : State} {s : State} (fuel : Nat) (hev : Evolves s₀ s) :
    Evolves s₀ (State.nvChecks s fuel) := by
  induction fuel generalizing s with
  | zero => exact hev
  | succ n ih =>
    unfold State.nvChecks
    split
    · exact hev
    · split
      · exact ih (State.nvRun_ev _ _ (State.modNvf_ev _ hev))
      · exact hev

theorem State.nvSweep_ev {s₀ : State} {s : State} (hev : Evolves s₀ s) :
    Evolves s₀ (State.nvSweep s) := by
  unfold State.nvSweep
  try dsimp only
  repeat' with_reducible first
    | assumption | apply State.nvLost_ev | apply State.nvGo_ev | apply State.todo_ev | apply State.deregEnds_ev
    | apply State.nvChecks_ev | apply State.fetched_ev | apply State.nvTurns_ev | apply State.nvWaiting_ev
    | refine ev_ite ?_ ?_ | refine ev_ite_fst ?_ ?_ | refine ev_foldl ?_ (fun _ _ _ => ?_)
    | refine ev_foldl_fst ?_ (fun _ _ _ => ?_) | simp only [ev_mk] | split | intro _
    | refine ev_of_eq (by assumption) ?_ | refine optAll_state (by assumption) ?_
    | refine optAll_fst (by assumption) ?_

end Sys2Proof.Machine
end

