-- ==== Sys2Proof/Laws/EvolveShardo.lean ====
section
/-!
SUPPORT. What the definitions of Machine/Shardo.lean keep.
-/

namespace Sys2Proof.Machine

set_option linter.all false

theorem State.after_ev {s₀ : State} {s : State} (hev : Evolves s₀ s) :
    Leaves (Evolves s₀) (State.after s) := by
  unfold State.after
  try dsimp only
  repeat' with_reducible first
    | assumption | apply State.nvSweep_ev | refine leaves_next ?_ | refine leaves_out ?_

theorem State.shxCmd_ev {s₀ : State} {s : State} (o : Sys2Proof.Origin) (f : State → Option Nat → List Byte → ShxRes) (hev : Evolves s₀ s) (ev_f : ∀ x0 x1 x2, Evolves s₀ x0 → Evolves s₀ (f x0 x1 x2).1) :
    Evolves s₀ (State.shxCmd s o f).1 := by
  unfold State.shxCmd
  try dsimp only
  repeat' with_reducible first
    | assumption | apply State.gate_ev | apply State.done_ev | apply State.shxEnd_ev | apply State.set_ev
    | apply ev_f | refine ev_ite ?_ ?_ | refine ev_ite_fst ?_ ?_ | simp only [ev_mk] | split | intro _
    | refine ev_of_eq (by assumption) ?_

theorem State.shxCommand_ev {s₀ : State} {s : State} (o : Sys2Proof.Origin) (op : Nat) (f : State → Option Nat → List Byte → ShxRes) (hev : Evolves s₀ s) (ev_f : ∀ x0 x1 x2, Evolves s₀ x0 → Evolves s₀ (f x0 x1 x2).1) :
    Evolves s₀ (State.shxCommand s o op f) := by
  unfold State.shxCommand
  try dsimp only
  repeat' with_reducible first
    | assumption | apply ev_f | apply State.scRun_ev | apply State.scEnd_ev | apply State.shxCmd_ev
    | refine ev_ite ?_ ?_ | refine ev_ite_fst ?_ ?_ | simp only [ev_mk] | split | intro _
    | refine ev_of_eq (by assumption) ?_ | refine optAll_state (by assumption) ?_
    | refine optAll_fst (by assumption) ?_

theorem State.cmdWrite_ev {s₀ : State} {s : State} (k : Option Nat) (addr : Nat) (b : List Byte) (hev : Evolves s₀ s) :
    Evolves s₀ (State.cmdWrite s k addr b) := by
  unfold State.cmdWrite
  try dsimp only
  repeat' with_reducible first
    | assumption | apply State.argWrite_ev | apply State.dmaWrite_ev | refine ev_ite ?_ ?_ | refine ev_ite_fst ?_ ?_
    | simp only [ev_mk] | split | intro _ | refine ev_of_eq (by assumption) ?_
    | refine optAll_state (by assumption) ?_ | refine optAll_fst (by assumption) ?_

theorem State.onConn_ev {s₀ : State} {s : State} (k : Option Nat) (e : List Byte) (f : Nat → Conn → ShxRes) (hev : Evolves s₀ s) (ev_f : ∀ x0 x1, Evolves s₀ s → Evolves s₀ (f x0 x1).1) :
    Evolves s₀ (State.onConn s k e f).1 := by
  unfold State.onConn
  try dsimp only
  repeat' with_reducible first
    | assumption | apply ev_f | refine ev_ite ?_ ?_ | refine ev_ite_fst ?_ ?_ | simp only [ev_mk] | split
    | refine ev_of_eq (by assumption) ?_

theorem State.connSetup_ev {s₀ : State} {s : State} (k : Option Nat) (e arg : List Byte) (hev : Evolves s₀ s) :
    Evolves s₀ (State.connSetup s k e arg).1 := by
  unfold State.connSetup
  try dsimp only
  repeat' with_reducible first
    | assumption | apply State.putConn_ev | apply State.ctxEnter_ev | refine ev_ite ?_ ?_
    | refine ev_ite_fst ?_ ?_ | simp only [ev_mk] | split | refine ev_of_eq (by assumption) ?_

theorem State.shxLost_ev {s₀ : State} {s : State} (hev : Evolves s₀ s) :
    Evolves s₀ (State.shxLost s) := by
  unfold State.shxLost
  try dsimp only
  repeat' with_reducible first
    | assumption | apply State.shxEnd_ev | apply State.tickFree_ev | refine ev_ite ?_ ?_ | refine ev_ite_fst ?_ ?_
    | simp only [ev_mk] | split | intro _ | refine ev_of_eq (by assumption) ?_
    | refine optAll_state (by assumption) ?_ | refine optAll_fst (by assumption) ?_

theorem State.connAskSetup_ev {s₀ : State} {s : State} (e : List Byte) (hev : Evolves s₀ s) :
    Evolves s₀ (State.connAskSetup s e).1 := by
  unfold State.connAskSetup
  try dsimp only
  repeat' with_reducible first
    | assumption | apply State.dmaRead_ev | apply State.shxCmd_ev | apply State.tickFree_ev | refine ev_ite ?_ ?_
    | refine ev_ite_fst ?_ ?_ | simp only [ev_mk] | split | intro _ | refine ev_of_eq (by assumption) ?_
    | refine optAll_state (by assumption) ?_ | refine optAll_fst (by assumption) ?_

theorem State.connSetupIn_ev {s₀ : State} {s : State} (arg : List Byte) (hev : Evolves s₀ s) :
    Evolves s₀ (State.connSetupIn s arg) := by
  unfold State.connSetupIn
  try dsimp only
  repeat' with_reducible first
    | assumption | apply State.readEnds_ev | apply State.shxCmd_ev | apply State.connSetup_ev | apply State.shxEnd_ev
    | refine ev_ite ?_ ?_ | refine ev_ite_fst ?_ ?_ | simp only [ev_mk] | split | intro _
    | refine ev_of_eq (by assumption) ?_ | refine optAll_state (by assumption) ?_
    | refine optAll_fst (by assumption) ?_

theorem execConnSetup_ev {s₀ : State} {s : State} (o : Sys2Proof.Origin) (arg : List Byte) (hev : Evolves s₀ s) :
    Leaves (Evolves s₀) (execConnSetup o arg s) := by
  unfold execConnSetup
  try dsimp only
  repeat' with_reducible first
    | assumption | apply State.shxCommand_ev | apply State.connSetup_ev | apply State.after_ev | apply State.shxCmd_ev
    | apply State.connSetupIn_ev | apply State.connAskSetup_ev | refine ev_ite ?_ ?_ | refine ev_ite_fst ?_ ?_
    | refine leaves_next ?_ | refine leaves_out ?_ | refine leaves_ite ?_ ?_ | simp only [ev_mk] | split | intro _
    | refine ev_of_eq (by assumption) ?_ | refine optAll_state (by assumption) ?_
    | refine optAll_fst (by assumption) ?_

theorem State.connOpenCmd_ev {s₀ : State} {s : State} (k : Option Nat) (e : List Byte) (hev : Evolves s₀ s) :
    Evolves s₀ (State.connOpenCmd s k e).1 := by
  unfold State.connOpenCmd
  try dsimp only
  repeat' with_reducible first
    | assumption | apply State.onConn_ev | apply State.putConn_ev | apply State.sendHello_ev | refine ev_ite ?_ ?_
    | refine ev_ite_fst ?_ ?_ | simp only [ev_mk] | split | intro _

theorem execConnOpen_ev {s₀ : State} (o : Sys2Proof.Origin) {s : State} (hev : Evolves s₀ s) :
    Leaves (Evolves s₀) (execConnOpen o s) := by
  unfold execConnOpen
  try dsimp only
  repeat' with_reducible first
    | assumption | apply State.shxCommand_ev | apply State.connOpenCmd_ev | apply State.after_ev
    | refine leaves_next ?_ | refine leaves_out ?_ | intro _

theorem State.connClose_ev {s₀ : State} {s : State} (o : Sys2Proof.Origin) (k : Option Nat) (e : List Byte) (hev : Evolves s₀ s) :
    Evolves s₀ (State.connClose s o k e).1 := by
  unfold State.connClose
  try dsimp only
  repeat' with_reducible first
    | assumption | apply State.onConn_ev | apply State.putConn_ev | refine ev_ite ?_ ?_ | refine ev_ite_fst ?_ ?_
    | simp only [ev_mk] | split | intro _

theorem execConnClose_ev {s₀ : State} (o : Sys2Proof.Origin) {s : State} (hev : Evolves s₀ s) :
    Leaves (Evolves s₀) (execConnClose o s) := by
  unfold execConnClose
  try dsimp only
  repeat' with_reducible first
    | assumption | apply State.shxCommand_ev | apply State.connClose_ev | apply State.after_ev
    | refine leaves_next ?_ | refine leaves_out ?_ | intro _

theorem State.connFree_ev {s₀ : State} {s : State} (c : Nat) (x : Conn) (hev : Evolves s₀ s) :
    Evolves s₀ (State.connFree s c x) := by
  unfold State.connFree
  try dsimp only
  repeat' with_reducible first
    | assumption | apply State.dmaWrite_ev | simp only [ev_mk] | intro _

theorem execConnCloseEnd_ev {s₀ : State} (c : Fin 1048576) {s : State} (hev : Evolves s₀ s) :
    Leaves (Evolves s₀) (execConnCloseEnd c s) := by
  unfold execConnCloseEnd
  try dsimp only
  repeat' with_reducible first
    | assumption | apply State.connFree_ev | apply State.shxEnd_ev | apply State.after_ev | refine leaves_next ?_
    | refine leaves_out ?_ | refine ev_ite ?_ ?_ | refine ev_ite_fst ?_ ?_ | refine leaves_ite ?_ ?_
    | simp only [ev_mk] | split | refine ev_of_eq (by assumption) ?_

theorem State.connQuery_ev {s₀ : State} {s : State} (k : Option Nat) (e : List Byte) (hev : Evolves s₀ s) :
    Evolves s₀ (State.connQuery s k e).1 := by
  unfold State.connQuery
  try dsimp only
  repeat' with_reducible first
    | assumption | apply State.cmdWrite_ev | apply State.tickFree_ev | refine ev_ite ?_ ?_ | refine ev_ite_fst ?_ ?_
    | simp only [ev_mk] | split | refine ev_of_eq (by assumption) ?_

theorem execConnQuery_ev {s₀ : State} (o : Sys2Proof.Origin) {s : State} (hev : Evolves s₀ s) :
    Leaves (Evolves s₀) (execConnQuery o s) := by
  unfold execConnQuery
  try dsimp only
  repeat' with_reducible first
    | assumption | apply State.shxCommand_ev | apply State.connQuery_ev | apply State.after_ev
    | refine leaves_next ?_ | refine leaves_out ?_ | intro _

theorem State.regionRegister_ev {s₀ : State} {s : State} (k : Option Nat) (e : List Byte) (hev : Evolves s₀ s) :
    Evolves s₀ (State.regionRegister s k e).1 := by
  unfold State.regionRegister
  try dsimp only
  repeat' with_reducible first
    | assumption | apply State.putRegion_ev | apply State.cmdWrite_ev | refine ev_ite ?_ ?_ | refine ev_ite_fst ?_ ?_
    | simp only [ev_mk] | split | refine ev_of_eq (by assumption) ?_

theorem execRegionRegister_ev {s₀ : State} (o : Sys2Proof.Origin) {s : State} (hev : Evolves s₀ s) :
    Leaves (Evolves s₀) (execRegionRegister o s) := by
  unfold execRegionRegister
  try dsimp only
  repeat' with_reducible first
    | assumption | apply State.shxCommand_ev | apply State.regionRegister_ev | apply State.after_ev
    | refine leaves_next ?_ | refine leaves_out ?_ | intro _

theorem State.regionDrop_ev {s₀ : State} {s : State} (i : Nat) (hev : Evolves s₀ s) :
    Evolves s₀ (State.regionDrop s i) := by
  unfold State.regionDrop
  try dsimp only
  repeat' with_reducible first
    | assumption | apply State.putRegion_ev | apply State.setHeld_ev | apply State.set_ev | simp only [ev_mk]
    | intro _

theorem State.regionDeregister_ev {s₀ : State} {s : State} (o : Sys2Proof.Origin) (k : Option Nat) (e : List Byte) (hev : Evolves s₀ s) :
    Evolves s₀ (State.regionDeregister s o k e).1 := by
  unfold State.regionDeregister
  try dsimp only
  repeat' with_reducible first
    | assumption | apply sxREGION_STATE_ev | apply State.regionDrop_ev | refine ev_ite ?_ ?_ | refine ev_ite_fst ?_ ?_
    | simp only [ev_mk] | split | intro _ | refine ev_of_eq (by assumption) ?_
    | refine optAll_state (by assumption) ?_ | refine optAll_fst (by assumption) ?_

theorem execRegionDeregister_ev {s₀ : State} {s : State} (o : Sys2Proof.Origin) (hev : Evolves s₀ s) :
    Leaves (Evolves s₀) (execRegionDeregister o s) := by
  unfold execRegionDeregister
  try dsimp only
  repeat' with_reducible first
    | assumption | apply State.shxCommand_ev | apply State.regionDeregister_ev | apply State.after_ev
    | refine ev_ite ?_ ?_ | refine ev_ite_fst ?_ ?_ | refine leaves_next ?_ | refine leaves_out ?_
    | refine leaves_ite ?_ ?_ | simp only [ev_mk] | split | intro _ | refine ev_of_eq (by assumption) ?_
    | refine optAll_state (by assumption) ?_ | refine optAll_fst (by assumption) ?_

theorem State.ringCtl_ev {s₀ : State} {s : State} (k : Option Nat) (e : List Byte) (hev : Evolves s₀ s) :
    Evolves s₀ (State.ringCtl s k e).1 := by
  unfold State.ringCtl
  try dsimp only
  repeat' with_reducible first
    | assumption | apply State.onConn_ev | apply sxKIND_ev | apply sxBAD_CONTEXT_ev | apply State.putConn_ev
    | apply State.connPresent_ev | apply State.connRecord_ev | apply State.connFetch_ev | refine ev_ite ?_ ?_
    | refine ev_ite_fst ?_ ?_ | simp only [ev_mk] | split | intro _ | refine ev_of_eq (by assumption) ?_
    | refine optAll_state (by assumption) ?_ | refine optAll_fst (by assumption) ?_

theorem State.ringCmd_ev {s₀ : State} {s : State} (o : Sys2Proof.Origin) (v : List Nat) (hev : Evolves s₀ s) :
    Evolves s₀ (State.ringCmd s o v) := by
  unfold State.ringCmd
  try dsimp only
  repeat' with_reducible first
    | assumption | apply State.shxCommand_ev | apply State.ringCtl_ev | refine ev_ite ?_ ?_ | refine ev_ite_fst ?_ ?_
    | simp only [ev_mk] | split | intro _ | refine ev_of_eq (by assumption) ?_

theorem execRingEnable_ev {s₀ : State} (o : Sys2Proof.Origin) {s : State} (hev : Evolves s₀ s) :
    Leaves (Evolves s₀) (execRingEnable o s) := by
  unfold execRingEnable
  try dsimp only
  repeat' with_reducible first
    | assumption | apply State.ringCmd_ev | apply State.after_ev | refine leaves_next ?_ | refine leaves_out ?_

theorem execRingDisable_ev {s₀ : State} (o : Sys2Proof.Origin) {s : State} (hev : Evolves s₀ s) :
    Leaves (Evolves s₀) (execRingDisable o s) := by
  unfold execRingDisable
  try dsimp only
  repeat' with_reducible first
    | assumption | apply State.ringCmd_ev | apply State.after_ev | refine leaves_next ?_ | refine leaves_out ?_

theorem execRingReset_ev {s₀ : State} (o : Sys2Proof.Origin) {s : State} (hev : Evolves s₀ s) :
    Leaves (Evolves s₀) (execRingReset o s) := by
  unfold execRingReset
  try dsimp only
  repeat' with_reducible first
    | assumption | apply State.ringCmd_ev | apply State.after_ev | refine leaves_next ?_ | refine leaves_out ?_

theorem State.connTail_ev {s₀ : State} {s : State} (c t : Nat) (hev : Evolves s₀ s) :
    Evolves s₀ (State.connTail s c t) := by
  unfold State.connTail
  try dsimp only
  repeat' with_reducible first
    | assumption | apply State.withConn_ev | apply State.putConn_ev | apply State.connFetch_ev
    | apply State.connError_ev | refine ev_ite ?_ ?_ | simp only [ev_mk] | split | intro _

theorem execShardoDoorbell_ev {s₀ : State} (k : Fin 256) (v : BitVec 64) {s : State} (hev : Evolves s₀ s) :
    Leaves (Evolves s₀) (execShardoDoorbell k v s) := by
  unfold execShardoDoorbell
  try dsimp only
  repeat' with_reducible first
    | assumption | apply State.startClocks_ev | apply State.ctxTouch_ev | apply State.connTail_ev
    | apply State.after_ev | apply State.ctxAsk_ev | refine leaves_next ?_ | refine leaves_out ?_
    | refine ev_ite ?_ ?_ | refine ev_ite_fst ?_ ?_ | refine leaves_ite ?_ ?_ | simp only [ev_mk] | split

theorem State.sendEntry_ev {s₀ : State} {s : State} (c i : Nat) (e : List Byte) (hev : Evolves s₀ s) :
    Evolves s₀ (State.sendEntry s c i e) := by
  unfold State.sendEntry
  try dsimp only
  repeat' with_reducible first
    | assumption | apply State.withConn_ev | apply State.connError_ev | apply State.putConn_ev
    | apply State.dmaRead_ev | refine ev_ite ?_ ?_ | simp only [ev_mk] | refine ev_foldl ?_ (fun _ _ _ => ?_) | split
    | intro _ | refine ev_of_eq (by assumption) ?_

theorem execSendEntryFetched_ev {s₀ : State} (c : Fin 1048576) (data : List Byte) {s : State} (hev : Evolves s₀ s) :
    Leaves (Evolves s₀) (execSendEntryFetched c data s) := by
  unfold execSendEntryFetched
  try dsimp only
  repeat' with_reducible first
    | assumption | apply State.readOver_ev | apply State.putConn_ev | apply State.sendEntry_ev
    | apply State.connFetch_ev | apply State.after_ev | refine leaves_next ?_ | refine leaves_out ?_
    | refine ev_ite ?_ ?_ | refine ev_ite_fst ?_ ?_ | refine leaves_ite ?_ ?_ | simp only [ev_mk]
    | refine ev_foldl ?_ (fun _ _ _ => ?_) | refine ev_foldl_fst ?_ (fun _ _ _ => ?_) | split | intro _
    | refine ev_of_eq (by assumption) ?_

theorem execSendDataCompletion_ev {s₀ : State} (c : Fin 1048576) (data : List Byte) {s : State} (hev : Evolves s₀ s) :
    Leaves (Evolves s₀) (execSendDataCompletion c data s) := by
  unfold execSendDataCompletion
  try dsimp only
  repeat' with_reducible first
    | assumption | apply State.readOver_ev | apply State.putConn_ev | apply State.after_ev | refine leaves_next ?_
    | refine leaves_out ?_ | refine ev_ite ?_ ?_ | refine ev_ite_fst ?_ ?_ | refine leaves_ite ?_ ?_
    | simp only [ev_mk] | split | refine ev_of_eq (by assumption) ?_

theorem execPacketSend_ev {s₀ : State} (c : Fin 1048576) {s : State} (hev : Evolves s₀ s) :
    Leaves (Evolves s₀) (execPacketSend c s) := by
  unfold execPacketSend
  try dsimp only
  repeat' with_reducible first
    | assumption | apply State.pace_ev | apply State.after_ev | refine leaves_next ?_ | refine leaves_out ?_

theorem execHeadRecordTimer_ev {s₀ : State} {s : State} (kind : Fin 6) (q : Fin 1048576) (hev : Evolves s₀ s) :
    Leaves (Evolves s₀) (execHeadRecordTimer kind q s) := by
  unfold execHeadRecordTimer
  try dsimp only
  repeat' with_reducible first
    | assumption | apply State.connPresent_ev | apply State.connRecord_ev | apply State.qPresent_ev
    | apply State.headRecord_ev | refine ev_ite ?_ ?_ | refine ev_ite_fst ?_ ?_ | refine leaves_next ?_
    | refine leaves_out ?_ | refine leaves_ite ?_ ?_ | simp only [ev_mk] | split | intro _
    | refine ev_of_eq (by assumption) ?_ | refine optAll_state (by assumption) ?_
    | refine optAll_fst (by assumption) ?_

theorem State.ringDrained_ev {s₀ : State} {s : State} (c : Nat) (x : Conn) (hev : Evolves s₀ s) :
    Evolves s₀ (State.ringDrained s c x) := by
  unfold State.ringDrained
  try dsimp only
  repeat' with_reducible first
    | assumption | apply State.putConn_ev | apply State.connRecord_ev | apply State.modConn_ev | refine ev_ite ?_ ?_
    | simp only [ev_mk] | split | intro _ | refine ev_of_eq (by assumption) ?_

theorem execQueueDrainEnd_ev {s₀ : State} (kind : Fin 6) (q : Fin 1048576) {s : State} (hev : Evolves s₀ s) :
    Leaves (Evolves s₀) (execQueueDrainEnd kind q s) := by
  unfold execQueueDrainEnd
  try dsimp only
  repeat' with_reducible first
    | assumption | apply State.ringDrained_ev | apply State.qDisabled_ev | refine leaves_next ?_
    | refine leaves_out ?_ | refine ev_ite ?_ ?_ | refine ev_ite_fst ?_ ?_ | refine leaves_ite ?_ ?_
    | simp only [ev_mk] | split | refine ev_of_eq (by assumption) ?_

theorem execWrite_ev {s₀ : State} {s : State} (hev : Evolves s₀ s) :
    Leaves (Evolves s₀) (execWrite s) := by
  unfold execWrite
  try dsimp only
  repeat' with_reducible first
    | assumption | apply State.arrive_ev | apply State.after_ev | refine leaves_next ?_ | refine leaves_out ?_

theorem execReadReq_ev {s₀ : State} {s : State} (hev : Evolves s₀ s) :
    Leaves (Evolves s₀) (execReadReq s) := by
  unfold execReadReq
  try dsimp only
  repeat' with_reducible first
    | assumption | apply State.arrive_ev | apply State.after_ev | refine leaves_next ?_ | refine leaves_out ?_

theorem execReadResp_ev {s₀ : State} {s : State} (hev : Evolves s₀ s) :
    Leaves (Evolves s₀) (execReadResp s) := by
  unfold execReadResp
  try dsimp only
  repeat' with_reducible first
    | assumption | apply State.arrive_ev | apply State.after_ev | refine leaves_next ?_ | refine leaves_out ?_

theorem execAck_ev {s₀ : State} {s : State} (hev : Evolves s₀ s) :
    Leaves (Evolves s₀) (execAck s) := by
  unfold execAck
  try dsimp only
  repeat' with_reducible first
    | assumption | apply State.arrive_ev | apply State.after_ev | refine leaves_next ?_ | refine leaves_out ?_

theorem execNak_ev {s₀ : State} {s : State} (hev : Evolves s₀ s) :
    Leaves (Evolves s₀) (execNak s) := by
  unfold execNak
  try dsimp only
  repeat' with_reducible first
    | assumption | apply State.arrive_ev | apply State.after_ev | refine leaves_next ?_ | refine leaves_out ?_

theorem execFlush_ev {s₀ : State} {s : State} (hev : Evolves s₀ s) :
    Leaves (Evolves s₀) (execFlush s) := by
  unfold execFlush
  try dsimp only
  repeat' with_reducible first
    | assumption | apply State.arrive_ev | apply State.after_ev | refine leaves_next ?_ | refine leaves_out ?_

theorem execFlushAck_ev {s₀ : State} {s : State} (hev : Evolves s₀ s) :
    Leaves (Evolves s₀) (execFlushAck s) := by
  unfold execFlushAck
  try dsimp only
  repeat' with_reducible first
    | assumption | apply State.arrive_ev | apply State.after_ev | refine leaves_next ?_ | refine leaves_out ?_

theorem execTimedWrite_ev {s₀ : State} {s : State} (hev : Evolves s₀ s) :
    Leaves (Evolves s₀) (execTimedWrite s) := by
  unfold execTimedWrite
  try dsimp only
  repeat' with_reducible first
    | assumption | apply State.arrive_ev | apply State.after_ev | refine leaves_next ?_ | refine leaves_out ?_

theorem execHello_ev {s₀ : State} {s : State} (hev : Evolves s₀ s) :
    Leaves (Evolves s₀) (execHello s) := by
  unfold execHello
  try dsimp only
  repeat' with_reducible first
    | assumption | apply State.arrive_ev | apply State.after_ev | refine leaves_next ?_ | refine leaves_out ?_

theorem execResync_ev {s₀ : State} {s : State} (hev : Evolves s₀ s) :
    Leaves (Evolves s₀) (execResync s) := by
  unfold execResync
  try dsimp only
  repeat' with_reducible first
    | assumption | apply State.arrive_ev | apply State.after_ev | refine leaves_next ?_ | refine leaves_out ?_

theorem execNotReady_ev {s₀ : State} {s : State} (hev : Evolves s₀ s) :
    Leaves (Evolves s₀) (execNotReady s) := by
  unfold execNotReady
  try dsimp only
  repeat' with_reducible first
    | assumption | apply State.arrive_ev | apply State.after_ev | refine leaves_next ?_ | refine leaves_out ?_

theorem State.doorbells_ev {s₀ : State} {s : State} (c : Nat) (hev : Evolves s₀ s) :
    Evolves s₀ (State.doorbells s c) := by
  unfold State.doorbells
  try dsimp only
  repeat' with_reducible first
    | assumption | apply State.connTail_ev | simp only [ev_mk] | refine ev_foldl ?_ (fun _ _ _ => ?_) | intro _

theorem State.askAgain_ev {s₀ : State} {s : State} (hev : Evolves s₀ s) :
    Evolves s₀ (State.askAgain s) := by
  unfold State.askAgain
  try dsimp only
  repeat' with_reducible first
    | assumption | apply State.ctxAsk_ev | apply State.regionAsk_ev | refine ev_ite ?_ ?_ | refine ev_ite_fst ?_ ?_
    | refine ev_foldl ?_ (fun _ _ _ => ?_) | refine ev_foldl_fst ?_ (fun _ _ _ => ?_) | simp only [ev_mk] | split
    | intro _ | refine ev_of_eq (by assumption) ?_ | refine optAll_state (by assumption) ?_
    | refine optAll_fst (by assumption) ?_

theorem execContextFetchComplete_ev {s₀ : State} {s : State} (region : Bool) (i : Fin 1048576) (hev : Evolves s₀ s) :
    Leaves (Evolves s₀) (execContextFetchComplete region i s) := by
  unfold execContextFetchComplete
  try dsimp only
  repeat' with_reducible first
    | assumption | apply State.readEnds_ev | apply State.regionTouch_ev | apply State.ctxEnter_ev
    | apply State.doorbells_ev | apply State.unpark_ev | apply State.askAgain_ev | apply State.after_ev
    | apply State.stray_ev | refine ev_ite ?_ ?_ | refine ev_ite_fst ?_ ?_ | refine leaves_next ?_
    | refine leaves_out ?_ | refine leaves_ite ?_ ?_ | simp only [ev_mk] | split | intro _
    | refine ev_of_eq (by assumption) ?_ | refine optAll_state (by assumption) ?_
    | refine optAll_fst (by assumption) ?_

theorem execFlushReadbackComplete_ev {s₀ : State} {s : State} (c : Fin 1048576) (hev : Evolves s₀ s) :
    Leaves (Evolves s₀) (execFlushReadbackComplete c s) := by
  unfold execFlushReadbackComplete
  try dsimp only
  repeat' with_reducible first
    | assumption | apply State.readOver_ev | apply State.todo_ev | apply State.putConn_ev | apply State.after_ev
    | apply State.targetNotice_ev | apply State.modConn_ev | apply State.sendFlushAck_ev | apply State.stray_ev
    | refine ev_ite ?_ ?_ | refine ev_ite_fst ?_ ?_ | refine leaves_next ?_ | refine leaves_out ?_
    | refine leaves_ite ?_ ?_ | simp only [ev_mk] | split | intro _ | refine ev_of_eq (by assumption) ?_
    | refine optAll_state (by assumption) ?_ | refine optAll_fst (by assumption) ?_

theorem execRegionReadComplete_ev {s₀ : State} {s : State} (c : Fin 1048576) (data : List Byte) (hev : Evolves s₀ s) :
    Leaves (Evolves s₀) (execRegionReadComplete c data s) := by
  unfold execRegionReadComplete
  try dsimp only
  repeat' with_reducible first
    | assumption | apply State.readOver_ev | apply State.todo_ev | apply State.sendReadResp_ev
    | apply State.modConn_ev | apply State.after_ev | apply State.stray_ev | refine ev_ite ?_ ?_
    | refine ev_ite_fst ?_ ?_ | refine leaves_next ?_ | refine leaves_out ?_ | refine leaves_ite ?_ ?_
    | simp only [ev_mk] | split | intro _ | refine ev_of_eq (by assumption) ?_
    | refine optAll_state (by assumption) ?_ | refine optAll_fst (by assumption) ?_

theorem execRetransmitTimerExpiry_ev {s₀ : State} (c : Fin 1048576) {s : State} (hev : Evolves s₀ s) :
    Leaves (Evolves s₀) (execRetransmitTimerExpiry c s) := by
  unfold execRetransmitTimerExpiry
  try dsimp only
  repeat' with_reducible first
    | assumption | apply State.putConn_ev | apply State.connFail_ev | apply State.after_ev | refine leaves_next ?_
    | refine leaves_out ?_ | refine ev_ite ?_ ?_ | refine ev_ite_fst ?_ ?_ | refine leaves_ite ?_ ?_
    | simp only [ev_mk] | split | refine ev_of_eq (by assumption) ?_

theorem execHelloRetry_ev {s₀ : State} (c : Fin 1048576) {s : State} (hev : Evolves s₀ s) :
    Leaves (Evolves s₀) (execHelloRetry c s) := by
  unfold execHelloRetry
  try dsimp only
  repeat' with_reducible first
    | assumption | apply State.connFail_ev | apply State.after_ev | apply State.putConn_ev | apply State.sendHello_ev
    | refine leaves_next ?_ | refine leaves_out ?_ | refine ev_ite ?_ ?_ | refine ev_ite_fst ?_ ?_
    | refine leaves_ite ?_ ?_ | simp only [ev_mk] | split | refine ev_of_eq (by assumption) ?_

theorem State.pauseEnds_ev {s₀ : State} {s : State} (c : Nat) (full : Bool) (hev : Evolves s₀ s) :
    Evolves s₀ (State.pauseEnds s c full) := by
  unfold State.pauseEnds
  try dsimp only
  repeat' with_reducible first
    | assumption | apply State.withConn_ev | apply State.putConn_ev | apply State.goBack_ev | refine ev_ite ?_ ?_
    | simp only [ev_mk] | split | intro _ | refine ev_of_eq (by assumption) ?_

theorem execBackoffEnd_ev {s₀ : State} {s : State} (c : Fin 1048576) (hev : Evolves s₀ s) :
    Leaves (Evolves s₀) (execBackoffEnd c s) := by
  unfold execBackoffEnd
  try dsimp only
  repeat' with_reducible first
    | assumption | apply State.putConn_ev | apply State.pauseEnds_ev | apply State.sayOn_ev | refine ev_ite ?_ ?_
    | refine ev_ite_fst ?_ ?_ | refine leaves_next ?_ | refine leaves_out ?_ | refine leaves_ite ?_ ?_
    | simp only [ev_mk] | split | intro _ | refine ev_of_eq (by assumption) ?_
    | refine optAll_state (by assumption) ?_ | refine optAll_fst (by assumption) ?_

theorem execTimedFullWaitEnd_ev {s₀ : State} {s : State} (c : Fin 1048576) (hev : Evolves s₀ s) :
    Leaves (Evolves s₀) (execTimedFullWaitEnd c s) := by
  unfold execTimedFullWaitEnd
  try dsimp only
  repeat' with_reducible first
    | assumption | apply State.pauseEnds_ev | refine ev_ite ?_ ?_ | refine ev_ite_fst ?_ ?_ | refine leaves_next ?_
    | refine leaves_out ?_ | refine leaves_ite ?_ ?_ | simp only [ev_mk] | split | intro _
    | refine ev_of_eq (by assumption) ?_ | refine optAll_state (by assumption) ?_
    | refine optAll_fst (by assumption) ?_

theorem execAckTimer_ev {s₀ : State} (c : Fin 1048576) {s : State} (hev : Evolves s₀ s) :
    Leaves (Evolves s₀) (execAckTimer c s) := by
  unfold execAckTimer
  try dsimp only
  repeat' with_reducible first
    | assumption | apply State.sendAck_ev | refine leaves_next ?_ | refine leaves_out ?_ | refine ev_ite ?_ ?_
    | refine ev_ite_fst ?_ ?_ | refine leaves_ite ?_ ?_ | simp only [ev_mk] | split
    | refine ev_of_eq (by assumption) ?_

theorem execGrowthEvent_ev {s₀ : State} (c : Fin 1048576) {s : State} (hev : Evolves s₀ s) :
    Leaves (Evolves s₀) (execGrowthEvent c s) := by
  unfold execGrowthEvent
  try dsimp only
  repeat' with_reducible first
    | assumption | apply State.putConn_ev | refine leaves_next ?_ | refine leaves_out ?_ | refine ev_ite ?_ ?_
    | refine ev_ite_fst ?_ ?_ | refine leaves_ite ?_ ?_ | simp only [ev_mk] | split
    | refine ev_of_eq (by assumption) ?_

theorem execAlphaDecay_ev {s₀ : State} (c : Fin 1048576) {s : State} (hev : Evolves s₀ s) :
    Leaves (Evolves s₀) (execAlphaDecay c s) := by
  unfold execAlphaDecay
  try dsimp only
  repeat' with_reducible first
    | assumption | apply State.putConn_ev | refine leaves_next ?_ | refine leaves_out ?_ | refine ev_ite ?_ ?_
    | refine ev_ite_fst ?_ ?_ | refine leaves_ite ?_ ?_ | simp only [ev_mk] | split
    | refine ev_of_eq (by assumption) ?_

theorem execTimedWritePlacement_ev {s₀ : State} {s : State} (hev : Evolves s₀ s) :
    Leaves (Evolves s₀) (execTimedWritePlacement s) := by
  unfold execTimedWritePlacement
  try dsimp only
  repeat' with_reducible first
    | assumption | apply State.setHeld_ev | apply State.prestartEnds_ev | apply State.connPlace_ev
    | apply State.shxStat_ev | apply State.todo_ev | apply State.tickFree_ev | apply State.after_ev
    | refine leaves_next ?_ | refine leaves_out ?_ | refine ev_ite ?_ ?_ | refine ev_ite_fst ?_ ?_
    | refine leaves_ite ?_ ?_ | simp only [ev_mk] | split | refine ev_of_eq (by assumption) ?_

theorem execGeneratorExport_ev {s₀ : State} {s : State} (hev : Evolves s₀ s) :
    Leaves (Evolves s₀) (execGeneratorExport s) := by
  unfold execGeneratorExport
  try dsimp only
  repeat' with_reducible first
    | assumption | apply State.place_ev | apply State.modMpi_ev | apply State.shxEvent_ev | apply State.exportOk_ev
    | apply State.ctxAsk_ev | apply State.ctxTouch_ev | apply State.toConn_ev | apply State.pace_ev
    | apply State.after_ev | refine ev_ite ?_ ?_ | refine ev_ite_fst ?_ ?_ | refine leaves_next ?_
    | refine leaves_out ?_ | refine leaves_ite ?_ ?_ | simp only [ev_mk] | split | intro _
    | refine ev_of_eq (by assumption) ?_ | refine optAll_state (by assumption) ?_
    | refine optAll_fst (by assumption) ?_

theorem State.shxReset_ev {s₀ : State} {s : State} (hev : Evolves s₀ s) :
    Evolves s₀ (State.shxReset s) := by
  unfold State.shxReset
  try dsimp only
  repeat' with_reducible first
    | assumption | apply State.connHalt_ev | apply State.modConn_ev | apply State.connFail_ev | apply State.shxRuns_ev
    | apply State.set_ev | apply State.ctxBack_ev | apply State.setHeld_ev | apply State.setParked_ev
    | apply State.nvSweep_ev | refine ev_ite ?_ ?_ | refine ev_ite_fst ?_ ?_ | refine ev_foldl ?_ (fun _ _ _ => ?_)
    | refine ev_foldl_fst ?_ (fun _ _ _ => ?_) | simp only [ev_mk] | split | intro _
    | refine ev_of_eq (by assumption) ?_ | refine optAll_state (by assumption) ?_
    | refine optAll_fst (by assumption) ?_

theorem State.shxResume_ev {s₀ : State} {s : State} (hev : Evolves s₀ s) :
    Evolves s₀ (State.shxResume s) := by
  unfold State.shxResume
  try dsimp only
  repeat' with_reducible first
    | assumption | apply State.sayOn_ev | apply State.connFetch_ev | apply State.shxRuns_ev | apply State.askAgain_ev
    | apply State.nvSweep_ev | refine ev_ite ?_ ?_ | refine ev_ite_fst ?_ ?_ | refine ev_foldl ?_ (fun _ _ _ => ?_)
    | refine ev_foldl_fst ?_ (fun _ _ _ => ?_) | simp only [ev_mk] | split | intro _
    | refine ev_of_eq (by assumption) ?_ | refine optAll_state (by assumption) ?_
    | refine optAll_fst (by assumption) ?_

end Sys2Proof.Machine
end

