-- ==== Sys2Proof/Laws/EvolveStorage.lean ====
section
/-!
SUPPORT. What the definitions of Machine/Storage.lean keep.
-/

namespace Sys2Proof.Machine

set_option linter.all false

theorem execSqTailDoorbell_ev {s₀ : State} (q : Fin 1025) (v : BitVec 16) {s : State} (hev : Evolves s₀ s) :
    Leaves (Evolves s₀) (execSqTailDoorbell q v s) := by
  unfold execSqTailDoorbell
  try dsimp only
  repeat' with_reducible first
    | assumption | apply State.startClocks_ev | apply State.putSq_ev | apply State.after_ev | refine leaves_next ?_
    | refine leaves_out ?_ | refine ev_ite ?_ ?_ | refine ev_ite_fst ?_ ?_ | refine leaves_ite ?_ ?_
    | simp only [ev_mk] | split | refine ev_of_eq (by assumption) ?_

theorem execCqHeadDoorbell_ev {s₀ : State} (q : Fin 1025) (v : BitVec 16) {s : State} (hev : Evolves s₀ s) :
    Leaves (Evolves s₀) (execCqHeadDoorbell q v s) := by
  unfold execCqHeadDoorbell
  try dsimp only
  repeat' with_reducible first
    | assumption | apply State.startClocks_ev | apply State.putCq_ev | apply State.nvDrain_ev | apply State.after_ev
    | refine leaves_next ?_ | refine leaves_out ?_ | refine ev_ite ?_ ?_ | refine ev_ite_fst ?_ ?_
    | refine leaves_ite ?_ ?_ | simp only [ev_mk] | split | refine ev_of_eq (by assumption) ?_

theorem State.nvEntry_ev {s₀ : State} {s : State} (y op : Nat) (ops : List Nat) (e : List Byte) (f : State → State) (hev : Evolves s₀ s) (ev_f : ∀ x0, Evolves s₀ x0 → Evolves s₀ (f x0)) :
    Evolves s₀ (State.nvEntry s y op ops e f) := by
  unfold State.nvEntry
  try dsimp only
  repeat' with_reducible first
    | assumption | apply State.readOver_ev | apply State.readEnds_ev | apply State.putSq_ev | apply State.nvAnswer_ev
    | apply ev_f | refine ev_ite ?_ ?_ | simp only [ev_mk] | split | refine ev_of_eq (by assumption) ?_

theorem State.nvArrive_ev {s₀ : State} {s : State} (y op : Nat) (e : List Byte) (hev : Evolves s₀ s) :
    Leaves (Evolves s₀) (State.nvArrive s y op e) := by
  unfold State.nvArrive
  try dsimp only
  repeat' with_reducible first
    | assumption | apply State.readOver_ev | apply State.after_ev | apply State.putSq_ev | apply State.modNvf_ev
    | apply State.fetched_ev | refine ev_ite ?_ ?_ | refine ev_ite_fst ?_ ?_ | refine leaves_next ?_
    | refine leaves_out ?_ | refine leaves_ite ?_ ?_ | simp only [ev_mk] | split | intro _
    | refine ev_of_eq (by assumption) ?_ | refine optAll_state (by assumption) ?_
    | refine optAll_fst (by assumption) ?_

theorem execNvmeWrite_ev {s₀ : State} {s : State} (q : Fin 1025) (e : List Byte) (hev : Evolves s₀ s) :
    Leaves (Evolves s₀) (execNvmeWrite q e s) := by
  unfold execNvmeWrite
  try dsimp only
  repeat' with_reducible first
    | assumption | apply State.nvArrive_ev | refine ev_ite ?_ ?_ | refine ev_ite_fst ?_ ?_ | refine leaves_next ?_
    | refine leaves_out ?_ | refine leaves_ite ?_ ?_ | simp only [ev_mk] | split | intro _
    | refine ev_of_eq (by assumption) ?_ | refine optAll_state (by assumption) ?_
    | refine optAll_fst (by assumption) ?_

theorem execNvmeRead_ev {s₀ : State} {s : State} (q : Fin 1025) (e : List Byte) (hev : Evolves s₀ s) :
    Leaves (Evolves s₀) (execNvmeRead q e s) := by
  unfold execNvmeRead
  try dsimp only
  repeat' with_reducible first
    | assumption | apply State.nvArrive_ev | refine ev_ite ?_ ?_ | refine ev_ite_fst ?_ ?_ | refine leaves_next ?_
    | refine leaves_out ?_ | refine leaves_ite ?_ ?_ | simp only [ev_mk] | split | intro _
    | refine ev_of_eq (by assumption) ?_ | refine optAll_state (by assumption) ?_
    | refine optAll_fst (by assumption) ?_

theorem execNvmeWriteZeroes_ev {s₀ : State} {s : State} (q : Fin 1025) (e : List Byte) (hev : Evolves s₀ s) :
    Leaves (Evolves s₀) (execNvmeWriteZeroes q e s) := by
  unfold execNvmeWriteZeroes
  try dsimp only
  repeat' with_reducible first
    | assumption | apply State.nvArrive_ev | refine ev_ite ?_ ?_ | refine ev_ite_fst ?_ ?_ | refine leaves_next ?_
    | refine leaves_out ?_ | refine leaves_ite ?_ ?_ | simp only [ev_mk] | split | intro _
    | refine ev_of_eq (by assumption) ?_ | refine optAll_state (by assumption) ?_
    | refine optAll_fst (by assumption) ?_

theorem execNvmeFlush_ev {s₀ : State} {s : State} (q : Fin 1025) (e : List Byte) (hev : Evolves s₀ s) :
    Leaves (Evolves s₀) (execNvmeFlush q e s) := by
  unfold execNvmeFlush
  try dsimp only
  repeat' with_reducible first
    | assumption | apply State.nvArrive_ev | refine ev_ite ?_ ?_ | refine ev_ite_fst ?_ ?_ | refine leaves_next ?_
    | refine leaves_out ?_ | refine leaves_ite ?_ ?_ | simp only [ev_mk] | split | intro _
    | refine ev_of_eq (by assumption) ?_ | refine optAll_state (by assumption) ?_
    | refine optAll_fst (by assumption) ?_

theorem execLockGranted_ev {s₀ : State} {s : State} (hev : Evolves s₀ s) :
    Leaves (Evolves s₀) (execLockGranted s) := by
  unfold execLockGranted
  try dsimp only
  repeat' with_reducible first
    | assumption | apply State.nvGranted_ev | apply State.after_ev | refine leaves_next ?_ | refine leaves_out ?_
    | simp only [ev_mk] | split | intro _ | refine ev_of_eq (by assumption) ?_

theorem execNvmeDataCompletion_ev {s₀ : State} {s : State} (i : Nat) (data : List Byte) (bad : Bool) (hev : Evolves s₀ s) :
    Leaves (Evolves s₀) (execNvmeDataCompletion i data bad s) := by
  unfold execNvmeDataCompletion
  try dsimp only
  repeat' with_reducible first
    | assumption | apply State.stray_ev | apply State.readsOver_ev | apply State.nvFinish_ev | apply State.nvListIn_ev
    | apply State.modLock_ev | apply State.after_ev | apply State.nvSend_ev | refine ev_ite ?_ ?_
    | refine ev_ite_fst ?_ ?_ | refine leaves_next ?_ | refine leaves_out ?_ | refine leaves_ite ?_ ?_
    | simp only [ev_mk] | split | intro _ | refine ev_of_eq (by assumption) ?_
    | refine optAll_state (by assumption) ?_ | refine optAll_fst (by assumption) ?_

theorem State.nvAdmin_ev {s₀ : State} {s : State} (op : Nat) (e : List Byte) (f : State → State × Nat × Nat) (hev : Evolves s₀ s) (ev_f : ∀ x0, Evolves s₀ x0 → Evolves s₀ (f x0).1) :
    Leaves (Evolves s₀) (State.nvAdmin s op e f) := by
  unfold State.nvAdmin
  try dsimp only
  repeat' with_reducible first
    | assumption | apply State.nvEntry_ev | apply State.nvAnswer_ev | apply State.after_ev | apply ev_f
    | refine leaves_next ?_ | refine leaves_out ?_ | refine ev_ite ?_ ?_ | refine ev_ite_fst ?_ ?_
    | refine leaves_ite ?_ ?_ | split | intro _ | refine ev_of_eq (by assumption) ?_

theorem State.unhand_ev {s₀ : State} {s : State} (i : Nat) (hev : Evolves s₀ s) :
    Evolves s₀ (State.unhand s i) := by
  unfold State.unhand
  try dsimp only
  repeat' with_reducible first
    | assumption | apply State.modConn_ev | refine ev_ite ?_ ?_ | refine ev_ite_fst ?_ ?_
    | refine ev_foldl ?_ (fun _ _ _ => ?_) | refine ev_foldl_fst ?_ (fun _ _ _ => ?_) | simp only [ev_mk] | split
    | intro _ | refine ev_of_eq (by assumption) ?_ | refine optAll_state (by assumption) ?_
    | refine optAll_fst (by assumption) ?_

theorem State.nvAbort_ev {s₀ : State} {s : State} (e : List Byte) (hev : Evolves s₀ s) :
    Evolves s₀ (State.nvAbort s e).1 := by
  unfold State.nvAbort
  try dsimp only
  repeat' with_reducible first
    | assumption | apply State.find_ev | apply State.unhand_ev | apply State.nvFinish_ev | refine ev_ite ?_ ?_
    | refine ev_ite_fst ?_ ?_ | simp only [ev_mk] | split | intro _ | refine ev_of_eq (by assumption) ?_
    | refine optAll_state (by assumption) ?_ | refine optAll_fst (by assumption) ?_

theorem execAbort_ev {s₀ : State} (e : List Byte) {s : State} (hev : Evolves s₀ s) :
    Leaves (Evolves s₀) (execAbort e s) := by
  unfold execAbort
  try dsimp only
  repeat' with_reducible first
    | assumption | apply State.nvAdmin_ev | apply State.nvAbort_ev | refine leaves_next ?_ | refine leaves_out ?_
    | intro _

theorem State.createSq_ev {s₀ : State} {s : State} (e : List Byte) (hev : Evolves s₀ s) :
    Evolves s₀ (State.createSq s e).1 := by
  unfold State.createSq
  try dsimp only
  repeat' with_reducible first
    | assumption | apply State.putSq_ev | refine ev_ite ?_ ?_ | refine ev_ite_fst ?_ ?_ | split

theorem execCreateIoSq_ev {s₀ : State} (e : List Byte) {s : State} (hev : Evolves s₀ s) :
    Leaves (Evolves s₀) (execCreateIoSq e s) := by
  unfold execCreateIoSq
  try dsimp only
  repeat' with_reducible first
    | assumption | apply State.nvAdmin_ev | apply State.createSq_ev | refine leaves_next ?_ | refine leaves_out ?_
    | intro _

theorem State.createCq_ev {s₀ : State} {s : State} (e : List Byte) (hev : Evolves s₀ s) :
    Evolves s₀ (State.createCq s e).1 := by
  unfold State.createCq
  try dsimp only
  repeat' with_reducible first
    | assumption | apply State.putCq_ev | refine ev_ite ?_ ?_ | refine ev_ite_fst ?_ ?_ | simp only [ev_mk] | split
    | refine ev_of_eq (by assumption) ?_

theorem execCreateIoCq_ev {s₀ : State} (e : List Byte) {s : State} (hev : Evolves s₀ s) :
    Leaves (Evolves s₀) (execCreateIoCq e s) := by
  unfold execCreateIoCq
  try dsimp only
  repeat' with_reducible first
    | assumption | apply State.nvAdmin_ev | apply State.createCq_ev | refine leaves_next ?_ | refine leaves_out ?_
    | intro _

theorem State.orphan_ev {s₀ : State} {s : State} (p : Nat → Bool) (hev : Evolves s₀ s) :
    Evolves s₀ (State.orphan s p) := by
  unfold State.orphan
  try dsimp only
  repeat' with_reducible first
    | assumption | apply State.setLocks_ev | apply State.modNvf_ev | refine ev_ite ?_ ?_ | simp only [ev_mk] | split
    | intro _ | refine ev_of_eq (by assumption) ?_

theorem execDeleteIoSq_ev {s₀ : State} (e : List Byte) {s : State} (hev : Evolves s₀ s) :
    Leaves (Evolves s₀) (execDeleteIoSq e s) := by
  unfold execDeleteIoSq
  try dsimp only
  repeat' with_reducible first
    | assumption | apply State.nvAdmin_ev | apply State.orphan_ev | apply State.modNvf_ev | refine leaves_next ?_
    | refine leaves_out ?_ | refine ev_ite ?_ ?_ | refine ev_ite_fst ?_ ?_ | refine leaves_ite ?_ ?_
    | simp only [ev_mk] | split | intro _

theorem execDeleteIoCq_ev {s₀ : State} (e : List Byte) {s : State} (hev : Evolves s₀ s) :
    Leaves (Evolves s₀) (execDeleteIoCq e s) := by
  unfold execDeleteIoCq
  try dsimp only
  repeat' with_reducible first
    | assumption | apply State.nvAdmin_ev | apply State.modNvf_ev | refine leaves_next ?_ | refine leaves_out ?_
    | refine ev_ite ?_ ?_ | refine ev_ite_fst ?_ ?_ | refine leaves_ite ?_ ?_ | simp only [ev_mk] | split | intro _

theorem State.adminData_ev {s₀ : State} {s : State} (e data : List Byte) (hev : Evolves s₀ s) :
    Evolves s₀ (State.adminData s e data) := by
  unfold State.adminData
  try dsimp only
  repeat' with_reducible first
    | assumption | apply State.scatter_ev

theorem execIdentify_ev {s₀ : State} (e : List Byte) {s : State} (hev : Evolves s₀ s) :
    Leaves (Evolves s₀) (execIdentify e s) := by
  unfold execIdentify
  try dsimp only
  repeat' with_reducible first
    | assumption | apply State.nvAdmin_ev | apply State.adminData_ev | apply State.tickFree_ev
    | refine leaves_next ?_ | refine leaves_out ?_ | refine ev_ite ?_ ?_ | refine ev_ite_fst ?_ ?_
    | refine leaves_ite ?_ ?_ | split | intro _

theorem execGetLogPage_ev {s₀ : State} (e : List Byte) (temp : BitVec 16) {s : State} (hev : Evolves s₀ s) :
    Leaves (Evolves s₀) (execGetLogPage e temp s) := by
  unfold execGetLogPage
  try dsimp only
  repeat' with_reducible first
    | assumption | apply State.nvAdmin_ev | apply State.adminData_ev | apply State.tickFree_ev
    | refine leaves_next ?_ | refine leaves_out ?_ | refine ev_ite ?_ ?_ | refine ev_ite_fst ?_ ?_
    | refine leaves_ite ?_ ?_ | split | intro _

theorem execSetFeatures_ev {s₀ : State} (e : List Byte) {s : State} (hev : Evolves s₀ s) :
    Leaves (Evolves s₀) (execSetFeatures e s) := by
  unfold execSetFeatures
  try dsimp only
  repeat' with_reducible first
    | assumption | apply State.nvAdmin_ev | apply State.modNvf_ev | refine leaves_next ?_ | refine leaves_out ?_
    | refine ev_ite ?_ ?_ | refine ev_ite_fst ?_ ?_ | refine leaves_ite ?_ ?_ | simp only [ev_mk] | split | intro _

theorem execGetFeatures_ev {s₀ : State} (e : List Byte) {s : State} (hev : Evolves s₀ s) :
    Leaves (Evolves s₀) (execGetFeatures e s) := by
  unfold execGetFeatures
  try dsimp only
  repeat' with_reducible first
    | assumption | apply State.nvAdmin_ev | refine leaves_next ?_ | refine leaves_out ?_ | refine ev_ite ?_ ?_
    | refine ev_ite_fst ?_ ?_ | refine leaves_ite ?_ ?_ | split | intro _

theorem State.aerGo_ev {s₀ : State} {s : State} (hev : Evolves s₀ s) :
    Evolves s₀ (State.aerGo s) := by
  unfold State.aerGo
  try dsimp only
  repeat' with_reducible first
    | assumption | apply State.modNvf_ev | apply State.nvAnswer_ev | simp only [ev_mk] | split | intro _
    | refine ev_of_eq (by assumption) ?_

theorem execAsyncEventRequest_ev {s₀ : State} (e : List Byte) {s : State} (hev : Evolves s₀ s) :
    Leaves (Evolves s₀) (execAsyncEventRequest e s) := by
  unfold execAsyncEventRequest
  try dsimp only
  repeat' with_reducible first
    | assumption | apply State.nvEntry_ev | apply State.nvAnswer_ev | apply State.modNvf_ev | apply State.aerGo_ev
    | apply State.after_ev | refine leaves_next ?_ | refine leaves_out ?_ | refine ev_ite ?_ ?_
    | refine ev_ite_fst ?_ ?_ | refine leaves_ite ?_ ?_ | simp only [ev_mk] | split | intro _

theorem execControllerEnable_ev {s₀ : State} (cc aqa : Word) (asq acq : DWord) {s : State} (hev : Evolves s₀ s) :
    Leaves (Evolves s₀) (execControllerEnable cc aqa asq acq s) := by
  unfold execControllerEnable
  try dsimp only
  repeat' with_reducible first
    | assumption | apply State.modNvf_ev | apply State.putSq_ev | apply State.putCq_ev | refine leaves_next ?_
    | refine leaves_out ?_ | refine ev_ite ?_ ?_ | refine ev_ite_fst ?_ ?_ | refine leaves_ite ?_ ?_
    | simp only [ev_mk] | split | intro _

theorem State.nvControllerReset_ev {s₀ : State} {s : State} (hev : Evolves s₀ s) :
    Evolves s₀ (State.nvControllerReset s) := by
  unfold State.nvControllerReset
  try dsimp only
  repeat' with_reducible first
    | assumption | apply State.orphan_ev | apply State.modNvf_ev | simp only [ev_mk] | intro _

theorem execControllerReset_ev {s₀ : State} {s : State} (hev : Evolves s₀ s) :
    Leaves (Evolves s₀) (execControllerReset s) := by
  unfold execControllerReset
  try dsimp only
  repeat' with_reducible first
    | assumption | apply State.nvControllerReset_ev | apply State.after_ev | refine ev_ite ?_ ?_
    | refine ev_ite_fst ?_ ?_ | refine leaves_next ?_ | refine leaves_out ?_ | refine leaves_ite ?_ ?_
    | simp only [ev_mk] | split | intro _ | refine ev_of_eq (by assumption) ?_
    | refine optAll_state (by assumption) ?_ | refine optAll_fst (by assumption) ?_

theorem State.nsChanged_ev {s₀ : State} {s : State} (n : Nat) (hev : Evolves s₀ s) :
    Evolves s₀ (State.nsChanged s n) := by
  unfold State.nsChanged
  try dsimp only
  repeat' with_reducible first
    | assumption | apply State.modNvf_ev | apply State.aerGo_ev | refine ev_ite ?_ ?_ | simp only [ev_mk] | split
    | intro _

theorem State.nsWrite_ev {s₀ : State} {s : State} (o : Sys2Proof.Origin) (n : Nat) (v : Word) (hev : Evolves s₀ s) :
    Evolves s₀ (State.nsWrite s o n v).1 := by
  unfold State.nsWrite
  try dsimp only
  repeat' with_reducible first
    | assumption | apply State.gate_ev | apply State.setBits_ev | apply State.refuse_ev | apply State.done_ev
    | apply State.nsChanged_ev | refine ev_ite ?_ ?_ | refine ev_ite_fst ?_ ?_ | split | intro _

theorem execNamespaceEnable_ev {s₀ : State} (o : Sys2Proof.Origin) (n : Fin 1024) (v : Word) {s : State} (hev : Evolves s₀ s) :
    Leaves (Evolves s₀) (execNamespaceEnable o n v s) := by
  unfold execNamespaceEnable
  try dsimp only
  repeat' with_reducible first
    | assumption | apply State.nsWrite_ev | apply State.after_ev | refine leaves_next ?_ | refine leaves_out ?_

theorem State.noticeDone_ev {s₀ : State} {s : State} (i : Nat) (hev : Evolves s₀ s) :
    Evolves s₀ (State.noticeDone s i) := by
  unfold State.noticeDone
  try dsimp only
  repeat' with_reducible first
    | assumption | apply State.sendFlushAck_ev | apply State.modConn_ev | simp only [ev_mk] | split | intro _
    | refine ev_of_eq (by assumption) ?_

theorem State.targetDone_ev {s₀ : State} {s : State} (o : Sys2Proof.Origin) (v : Nat) (hev : Evolves s₀ s) :
    Evolves s₀ (State.targetDone s o v).1 := by
  unfold State.targetDone
  try dsimp only
  repeat' with_reducible first
    | assumption | apply State.gate_ev | apply State.done_ev | apply State.refuse_ev | apply State.noticeDone_ev
    | apply State.set_ev | apply State.nvSweep_ev | refine ev_ite ?_ ?_ | refine ev_ite_fst ?_ ?_
    | refine ev_foldl ?_ (fun _ _ _ => ?_) | refine ev_foldl_fst ?_ (fun _ _ _ => ?_) | split | intro _

theorem execTargetDone_ev {s₀ : State} (o : Sys2Proof.Origin) (v : BitVec 16) {s : State} (hev : Evolves s₀ s) :
    Leaves (Evolves s₀) (execTargetDone o v s) := by
  unfold execTargetDone
  try dsimp only
  repeat' with_reducible first
    | assumption | apply State.targetDone_ev | refine leaves_next ?_ | refine leaves_out ?_

theorem State.record_ev {s₀ : State} {s : State} (x : NvRec) (hev : Evolves s₀ s) :
    Evolves s₀ (State.record s x) := by
  unfold State.record
  try dsimp only
  repeat' with_reducible first
    | assumption | apply State.raise_ev | apply State.takeLock_ev | apply State.issueOps_ev | refine ev_ite ?_ ?_
    | refine ev_ite_fst ?_ ?_ | simp only [ev_mk] | split | intro _ | refine ev_of_eq (by assumption) ?_
    | refine optAll_state (by assumption) ?_ | refine optAll_fst (by assumption) ?_

theorem execRecordStart_ev {s₀ : State} (r : Fin 16) {s : State} (hev : Evolves s₀ s) :
    Leaves (Evolves s₀) (execRecordStart r s) := by
  unfold execRecordStart
  try dsimp only
  repeat' with_reducible first
    | assumption | apply State.modNvf_ev | apply State.record_ev | apply State.after_ev | refine leaves_next ?_
    | refine leaves_out ?_ | simp only [ev_mk] | split | intro _ | refine ev_of_eq (by assumption) ?_

theorem State.nvfReset_ev {s₀ : State} {s : State} (hev : Evolves s₀ s) :
    Evolves s₀ (State.nvfReset s) := by
  unfold State.nvfReset
  try dsimp only
  repeat' with_reducible first
    | assumption | apply State.nvFail_ev

theorem State.nvfResume_ev {s₀ : State} {s : State} (hev : Evolves s₀ s) :
    Evolves s₀ (State.nvfResume s) := by
  unfold State.nvfResume
  try dsimp only
  repeat' with_reducible first
    | assumption | apply State.nvSweep_ev

end Sys2Proof.Machine
end

