-- ==== Sys2Proof/Laws/EvolveSliceOps.lean ====
section
/-!
SUPPORT. What the definitions of Machine/SliceOps.lean keep.
-/

namespace Sys2Proof.Machine

set_option linter.all false

theorem State.nvDrop_ev {s₀ : State} {s : State} (y : Nat) (hev : Evolves s₀ s) :
    Evolves s₀ (State.nvDrop s y) := by
  unfold State.nvDrop
  try dsimp only
  repeat' with_reducible first
    | assumption | apply State.orphan_ev | apply State.modNvf_ev | simp only [ev_mk] | intro _

theorem State.disableRes_ev {s₀ : State} {s : State} (k : Nat) (x : Nat × Nat) (hev : Evolves s₀ s) :
    Evolves s₀ (State.disableRes s k x) := by
  unfold State.disableRes
  try dsimp only
  repeat' with_reducible first
    | assumption | apply State.set_ev | apply State.ropeOff_ev | apply State.modStn_ev | apply State.setAxis_ev
    | apply State.clearSlot_ev | apply State.disown_ev | apply State.migrate_ev | apply State.tcamClear_ev
    | apply State.connFree_ev | apply State.regionDrop_ev | apply State.nvDrop_ev | apply State.clearKey_ev
    | apply State.qKill_ev | refine ev_ite ?_ ?_ | refine ev_ite_fst ?_ ?_ | refine ev_foldl ?_ (fun _ _ _ => ?_)
    | refine ev_foldl_fst ?_ (fun _ _ _ => ?_) | simp only [ev_mk] | split | intro _
    | refine ev_of_eq (by assumption) ?_ | refine optAll_state (by assumption) ?_
    | refine optAll_fst (by assumption) ?_

theorem State.unfreezeRopes_ev {s₀ : State} {s : State} (k : Nat) (hev : Evolves s₀ s) :
    Evolves s₀ (State.unfreezeRopes s k) := by
  unfold State.unfreezeRopes
  try dsimp only
  repeat' with_reducible first
    | assumption | apply State.ownedRopes_ev | apply State.modRope_ev | refine ev_ite ?_ ?_ | refine ev_ite_fst ?_ ?_
    | refine ev_foldl ?_ (fun _ _ _ => ?_) | refine ev_foldl_fst ?_ (fun _ _ _ => ?_) | simp only [ev_mk] | split
    | intro _ | refine ev_of_eq (by assumption) ?_ | refine optAll_state (by assumption) ?_
    | refine optAll_fst (by assumption) ?_

theorem State.sliceRelease_ev {s₀ : State} {s : State} (k : Nat) (hev : Evolves s₀ s) :
    Evolves s₀ (State.sliceRelease s k) := by
  unfold State.sliceRelease
  try dsimp only
  repeat' with_reducible first
    | assumption | apply State.ofSlice_ev | apply State.disableRes_ev | apply State.unfreezeRopes_ev
    | refine ev_ite ?_ ?_ | refine ev_ite_fst ?_ ?_ | refine ev_foldl ?_ (fun _ _ _ => ?_)
    | refine ev_foldl_fst ?_ (fun _ _ _ => ?_) | simp only [ev_mk] | split | intro _
    | refine ev_of_eq (by assumption) ?_ | refine optAll_state (by assumption) ?_
    | refine optAll_fst (by assumption) ?_

theorem State.liveClear_ev {s₀ : State} {s : State} (k : Nat) (hev : Evolves s₀ s) :
    Evolves s₀ (State.liveClear s k) := by
  unfold State.liveClear
  try dsimp only
  repeat' with_reducible first
    | assumption | refine ev_ite ?_ ?_ | refine ev_ite_fst ?_ ?_ | simp only [ev_mk] | split | intro _
    | refine ev_of_eq (by assumption) ?_ | refine optAll_state (by assumption) ?_
    | refine optAll_fst (by assumption) ?_

theorem State.putWords_ev {s₀ s : State} (a i : Nat) (l : List Word) (hev : Evolves s₀ s) : Evolves s₀ (s.putWords a i l) := by
  induction l generalizing i s with
  | nil =>
    unfold State.putWords
    exact hev
  | cons w l ih =>
    unfold State.putWords
    exact ih _ (State.setBits_ev _ _ _ hev)

theorem State.restoreQueue_ev {s₀ : State} {s : State} (k : Nat) (e : List Byte) (hev : Evolves s₀ s) :
    OptAll (Evolves s₀) (State.restoreQueue s k e) := by
  unfold State.restoreQueue
  try dsimp only
  repeat' with_reducible first
    | exact optAll_none | refine optAll_some ?_ | refine optAll_foldl ?_ (fun _ _ _ => ?_) | assumption
    | apply putWords_ev | apply State.putWords_ev | apply State.set_ev | apply State.modQ_ev | apply State.rxTm_ev
    | apply State.tickFree_ev | refine ev_ite ?_ ?_ | refine optAll_ite ?_ ?_ | simp only [ev_mk] | split | intro _

theorem State.restoreKey_ev {s₀ : State} {s : State} (k : Nat) (e : List Byte) (hev : Evolves s₀ s) :
    OptAll (Evolves s₀) (State.restoreKey s k e) := by
  unfold State.restoreKey
  try dsimp only
  repeat' with_reducible first
    | exact optAll_none | refine optAll_some ?_ | refine optAll_foldl ?_ (fun _ _ _ => ?_) | assumption
    | apply State.keyLoad_ev | refine ev_ite ?_ ?_ | refine ev_ite_fst ?_ ?_ | refine optAll_ite ?_ ?_ | split
    | refine ev_of_eq (by assumption) ?_

theorem State.restoreCxe_ev {s₀ : State} {s : State} (k : Nat) (ropes stns : List (Nat × List Word)) (live : List (Nat × Byte)) (hev : Evolves s₀ s) :
    OptAll (Evolves s₀) (State.restoreCxe s k ropes stns live) := by
  unfold State.restoreCxe
  try dsimp only
  repeat' with_reducible first
    | exact optAll_none | refine optAll_some ?_ | refine optAll_foldl ?_ (fun _ _ _ => ?_) | assumption
    | apply State.putWords_ev | apply putWords_ev | apply State.take_ev 
    | apply State.setReg_ev | apply State.set_ev | apply State.modRope_ev
    | apply State.imgWrite_ev | apply State.liveClear_ev | refine ev_ite ?_ ?_ | refine ev_ite_fst ?_ ?_
    | refine optAll_ite ?_ ?_ | refine ev_foldl ?_ (fun _ _ _ => ?_) | refine ev_foldl_fst ?_ (fun _ _ _ => ?_)
    | simp only [ev_mk] | split | intro _ | refine ev_of_eq (by assumption) ?_
    | refine optAll_state (by assumption) ?_ | refine optAll_fst (by assumption) ?_

theorem State.restoreMpi_ev {s₀ : State} {s : State} (k : Nat) (axes : List (Nat × List Word × List Word)) (hev : Evolves s₀ s) :
    OptAll (Evolves s₀) (State.restoreMpi s k axes) := by
  unfold State.restoreMpi
  try dsimp only
  repeat' with_reducible first
    | exact optAll_none | refine optAll_some ?_ | refine optAll_foldl ?_ (fun _ _ _ => ?_) | assumption
    | apply putWords_ev | apply State.putWords_ev | apply State.setReg_ev | refine ev_ite ?_ ?_
    | refine optAll_ite ?_ ?_ | refine ev_foldl ?_ (fun _ _ _ => ?_) | split | intro _

theorem State.restoreTm_ev {s₀ : State} {s : State} (k : Nat) (qs : List (Nat × List Word)) (weight : Nat) (hev : Evolves s₀ s) :
    Evolves s₀ (State.restoreTm s k qs weight) := by
  unfold State.restoreTm
  try dsimp only
  repeat' with_reducible first
    | assumption | apply putWords_ev | apply State.putWords_ev | apply State.set_ev | refine ev_ite ?_ ?_
    | refine ev_foldl ?_ (fun _ _ _ => ?_) | split | intro _

theorem State.restoreEmt_ev {s₀ : State} {s : State} (k : Nat) (n0 : List (Nat × List Byte)) (hev : Evolves s₀ s) :
    OptAll (Evolves s₀) (State.restoreEmt s k n0) := by
  induction n0 generalizing s with
  | nil =>
    unfold State.restoreEmt
    repeat' with_reducible first
      | exact optAll_none | refine optAll_some ?_ | refine optAll_foldl ?_ (fun _ _ _ => ?_) | assumption
      | apply State.emtInsert_ev | refine ev_ite ?_ ?_ | refine ev_ite_fst ?_ ?_ | refine optAll_ite ?_ ?_ | split
      | refine ev_of_eq (by assumption) ?_
  | cons x l ih =>
    unfold State.restoreEmt
    repeat' with_reducible first
      | assumption | apply ih | exact optAll_none | refine optAll_some ?_ | refine optAll_foldl ?_ (fun _ _ _ => ?_)
      | apply State.emtInsert_ev | refine ev_ite ?_ ?_ | refine ev_ite_fst ?_ ?_ | refine optAll_ite ?_ ?_ | split
      | refine ev_of_eq (by assumption) ?_

theorem State.restoreConn_ev {s₀ : State} {s : State} (k ver c : Nat) (ids : List (Nat × Nat)) (x : Conn) (hev : Evolves s₀ s) :
    Evolves s₀ (State.restoreConn s k ver c ids x) := by
  unfold State.restoreConn
  try dsimp only
  repeat' with_reducible first
    | assumption | apply State.todo_ev | apply State.putConn_ev | apply State.ctxEnter_ev | apply State.sendHello_ev
    | apply State.connFail_ev | refine ev_ite ?_ ?_ | simp only [ev_mk] | split | intro _

theorem State.restoreShx_ev {s₀ : State} {s : State} (k ver : Nat) (cs : List (Nat × Conn)) (rs : List (Nat × Region)) (held : List HeldWrite) (hev : Evolves s₀ s) :
    OptAll (Evolves s₀) (State.restoreShx s k ver cs rs held) := by
  unfold State.restoreShx
  try dsimp only
  repeat' with_reducible first
    | exact optAll_none | refine optAll_some ?_ | refine optAll_foldl ?_ (fun _ _ _ => ?_) | assumption
    | apply unrel_ev | apply State.putRegion_ev | apply State.restoreConn_ev | apply State.connPlace_ev
    | apply State.shxStat_ev | apply State.shxEvent_ev | apply State.tickFree_ev | apply State.setHeld_ev
    | refine ev_ite ?_ ?_ | refine ev_ite_fst ?_ ?_ | refine optAll_ite ?_ ?_ | refine ev_foldl ?_ (fun _ _ _ => ?_)
    | refine ev_foldl_fst ?_ (fun _ _ _ => ?_) | simp only [ev_mk] | split | intro _
    | refine ev_of_eq (by assumption) ?_ | refine optAll_state (by assumption) ?_
    | refine optAll_fst (by assumption) ?_

theorem State.restoreNvf_ev {s₀ : State} {s : State} (k : Nat) (sqs : List (Nat × NvSq)) (cqs : List (Nat × NvCq)) (locks : List NvLock) (dones : List NvDone) (doubt : List (Nat × Nat)) (hev : Evolves s₀ s) :
    OptAll (Evolves s₀) (State.restoreNvf s k sqs cqs locks dones doubt) := by
  unfold State.restoreNvf
  try dsimp only
  repeat' with_reducible first
    | exact optAll_none | refine optAll_some ?_ | refine optAll_foldl ?_ (fun _ _ _ => ?_) | assumption
    | apply State.putCq_ev | apply State.putSq_ev | apply State.modNvf_ev | apply State.setLocks_ev
    | refine ev_ite ?_ ?_ | refine optAll_ite ?_ ?_ | simp only [ev_mk] | refine ev_foldl ?_ (fun _ _ _ => ?_)
    | split | intro _

theorem State.sectAccept_ev {s₀ : State} {s : State} (k ver : Nat) (x : Nat × List Byte) (hev : Evolves s₀ s) :
    OptAll (Evolves s₀) (State.sectAccept s k ver x) := by
  unfold State.sectAccept
  try dsimp only
  repeat' with_reducible first
    | exact optAll_none | refine optAll_some ?_ | refine optAll_foldl ?_ (fun _ _ _ => ?_) | assumption
    | apply State.restoreQueue_ev | apply State.restoreKey_ev | apply State.restoreCxe_ev | apply State.restoreMpi_ev
    | apply State.restoreTm_ev | apply State.restoreEmt_ev | apply State.tcamPut_ev | apply State.restoreShx_ev
    | apply State.restoreNvf_ev | simp only [ev_mk] | refine ev_foldl ?_ (fun _ _ _ => ?_) | split | intro _
    | refine ev_of_eq (by assumption) ?_ | refine optAll_state (by assumption) ?_
    | refine optAll_fst (by assumption) ?_

theorem State.restore_ev {s₀ s t : State} (k : Nat) (b : List Byte) (hev : Evolves s₀ s) (e : s.restore k b = .ok t) :
    Evolves s₀ t := by
  unfold State.restore at e
  dsimp only at e
  repeat' split at e
  all_goals first
    | contradiction
    | (cases e
       exact optAll_state (by assumption) (optAll_foldl (optAll_some hev) fun _ _ => State.sectAccept_ev _ _ _))

end Sys2Proof.Machine
end

