-- ==== Sys2Proof/Laws/EvolveHostIf.lean ====
section
/-!
SUPPORT. What the definitions of Machine/HostIf.lean keep.
-/

namespace Sys2Proof.Machine

set_option linter.all false

theorem State.hifEvent_ev {s₀ : State} {s : State} (n f : Nat) (k : Option Nat) (hev : Evolves s₀ s) :
    Evolves s₀ (State.hifEvent s n f k) := by
  unfold State.hifEvent
  try dsimp only
  repeat' with_reducible first
    | assumption | apply State.raise_ev

theorem State.loses_ev {s₀ : State} {s : State} (reason : Nat) (r : Reader) (hev : Evolves s₀ s) :
    Evolves s₀ (State.loses s reason r) := by
  unfold State.loses
  try dsimp only
  repeat' with_reducible first
    | assumption | apply State.qHalt_ev | apply State.connHalt_ev | apply State.modConn_ev | apply State.todo_ev
    | apply State.modLock_ev | apply State.putSq_ev | apply State.modNvf_ev | apply State.fetched_ev
    | apply State.nvFail_ev | apply State.shxCmd_ev | apply State.shxLost_ev | refine ev_ite ?_ ?_
    | refine ev_ite_fst ?_ ?_ | simp only [ev_mk] | split | intro _ | refine ev_of_eq (by assumption) ?_
    | refine optAll_state (by assumption) ?_ | refine optAll_fst (by assumption) ?_

theorem State.retireReads_ev {s₀ : State} {s : State} (f : Nat) (hev : Evolves s₀ s) :
    Evolves s₀ (State.retireReads s f) := by
  unfold State.retireReads
  try dsimp only
  repeat' with_reducible first
    | assumption | apply State.set_ev | apply State.sweep_ev | refine ev_ite ?_ ?_ | refine ev_ite_fst ?_ ?_
    | simp only [ev_mk] | split | intro _ | refine ev_of_eq (by assumption) ?_
    | refine optAll_state (by assumption) ?_ | refine optAll_fst (by assumption) ?_

theorem State.noXlate_ev {s₀ : State} {s : State} (f : Nat) (hev : Evolves s₀ s) :
    Evolves s₀ (State.noXlate s f) := by
  unfold State.noXlate
  try dsimp only
  repeat' with_reducible first
    | assumption | refine ev_ite ?_ ?_ | refine ev_ite_fst ?_ ?_ | simp only [ev_mk] | split | intro _
    | refine ev_of_eq (by assumption) ?_ | refine optAll_state (by assumption) ?_
    | refine optAll_fst (by assumption) ?_

theorem State.cut_ev {s₀ : State} {s : State} (f reason : Nat) (hev : Evolves s₀ s) :
    Evolves s₀ (State.cut s f reason) := by
  unfold State.cut
  try dsimp only
  repeat' with_reducible first
    | assumption | apply waitReaders_ev | apply State.orphanReads_ev | apply State.loses_ev | apply State.nvFail_ev
    | apply State.sweep_ev | apply State.deregEnds_ev | refine ev_ite ?_ ?_ | refine ev_ite_fst ?_ ?_
    | refine ev_foldl ?_ (fun _ _ _ => ?_) | refine ev_foldl_fst ?_ (fun _ _ _ => ?_) | simp only [ev_mk] | split
    | intro _ | refine ev_of_eq (by assumption) ?_ | refine optAll_state (by assumption) ?_
    | refine optAll_fst (by assumption) ?_

theorem State.linkDown_ev {s₀ : State} {s : State} (hev : Evolves s₀ s) :
    Evolves s₀ (State.linkDown s) := by
  unfold State.linkDown
  try dsimp only
  repeat' with_reducible first
    | assumption | apply State.set_ev | apply State.cut_ev | apply State.retireReads_ev | apply State.hostLost_ev
    | apply State.hifEvent_ev | refine ev_ite ?_ ?_ | simp only [ev_mk] | refine ev_foldl ?_ (fun _ _ _ => ?_)
    | split | intro _

theorem State.pfStart_ev {s₀ : State} {s : State} (f : Nat) (hev : Evolves s₀ s) :
    Evolves s₀ (State.pfStart s f) := by
  unfold State.pfStart
  try dsimp only
  repeat' with_reducible first
    | assumption | apply State.noXlate_ev | apply State.modPf_ev | apply State.set_ev | refine ev_ite ?_ ?_
    | refine ev_ite_fst ?_ ?_ | simp only [ev_mk] | split | intro _ | refine ev_of_eq (by assumption) ?_
    | refine optAll_state (by assumption) ?_ | refine optAll_fst (by assumption) ?_

theorem State.linkUp_ev {s₀ : State} {s : State} (hev : Evolves s₀ s) :
    Evolves s₀ (State.linkUp s) := by
  unfold State.linkUp
  try dsimp only
  repeat' with_reducible first
    | assumption | apply State.pfStart_ev | apply State.set_ev | apply State.hifEvent_ev | refine ev_ite ?_ ?_
    | simp only [ev_mk] | refine ev_foldl ?_ (fun _ _ _ => ?_) | split | intro _

theorem execLinkDown_ev {s₀ : State} {s : State} (hev : Evolves s₀ s) :
    Leaves (Evolves s₀) (execLinkDown s) := by
  unfold execLinkDown
  try dsimp only
  repeat' with_reducible first
    | assumption | apply State.linkDown_ev | refine leaves_next ?_ | refine leaves_out ?_ | refine ev_ite ?_ ?_
    | refine ev_ite_fst ?_ ?_ | refine leaves_ite ?_ ?_ | split

theorem execLinkUp_ev {s₀ : State} (speed : BitVec 4) (width : BitVec 3) (flit : Bool) (l0p : BitVec 3) {s : State} (hev : Evolves s₀ s) :
    Leaves (Evolves s₀) (execLinkUp speed width flit l0p s) := by
  unfold execLinkUp
  try dsimp only
  repeat' with_reducible first
    | assumption | apply State.set_ev | apply State.linkUp_ev | refine leaves_next ?_ | refine leaves_out ?_
    | refine ev_ite ?_ ?_ | refine ev_ite_fst ?_ ?_ | refine leaves_ite ?_ ?_ | split

theorem execHotReset_ev {s₀ : State} {s : State} (hev : Evolves s₀ s) :
    Leaves (Evolves s₀) (execHotReset s) := by
  unfold execHotReset
  try dsimp only
  repeat' with_reducible first
    | assumption | apply State.linkDown_ev | apply State.setReg_ev | apply State.linkUp_ev | refine leaves_next ?_
    | refine leaves_out ?_ | refine ev_ite ?_ ?_ | refine ev_ite_fst ?_ ?_ | refine leaves_ite ?_ ?_ | split

theorem execBmeCleared_ev {s₀ : State} (f : Fin 4) {s : State} (hev : Evolves s₀ s) :
    Leaves (Evolves s₀) (execBmeCleared f s) := by
  unfold execBmeCleared
  try dsimp only
  repeat' with_reducible first
    | assumption | apply State.set_ev | apply State.cut_ev | apply State.hostLost_ev | apply State.hifEvent_ev
    | refine leaves_next ?_ | refine leaves_out ?_ | refine ev_ite ?_ ?_ | refine ev_ite_fst ?_ ?_
    | refine leaves_ite ?_ ?_ | split

theorem execBmeSet_ev {s₀ : State} {s : State} (f : Fin 4) (ats : Bool) (dev : Sys2Proof.DevWrite) (hev : Evolves s₀ s) :
    Leaves (Evolves s₀) (execBmeSet f ats dev s) := by
  unfold execBmeSet
  try dsimp only
  repeat' with_reducible first
    | assumption | apply State.set_ev | apply State.modPf_ev | apply State.take_ev | apply State.noXlate_ev
    | apply State.msixFlush_ev | apply State.shxResume_ev | apply State.nvSweep_ev | refine ev_ite ?_ ?_
    | refine ev_ite_fst ?_ ?_ | refine leaves_next ?_ | refine leaves_out ?_ | refine leaves_ite ?_ ?_
    | simp only [ev_mk] | split | intro _ | refine ev_of_eq (by assumption) ?_
    | refine optAll_state (by assumption) ?_ | refine optAll_fst (by assumption) ?_

theorem execFlr_ev {s₀ : State} {s : State} (f : Fin 4) (hev : Evolves s₀ s) :
    Leaves (Evolves s₀) (execFlr f s) := by
  unfold execFlr
  try dsimp only
  repeat' with_reducible first
    | assumption | apply State.set_ev | apply State.cut_ev | apply State.noXlate_ev | apply State.modPf_ev
    | apply State.qHalt_ev | apply State.connHalt_ev | apply State.hifEvent_ev | apply State.hostLost_ev
    | apply State.nvControllerReset_ev | refine ev_ite ?_ ?_ | refine ev_ite_fst ?_ ?_ | refine leaves_next ?_
    | refine leaves_out ?_ | refine leaves_ite ?_ ?_ | refine ev_foldl ?_ (fun _ _ _ => ?_)
    | refine ev_foldl_fst ?_ (fun _ _ _ => ?_) | simp only [ev_mk] | split | intro _
    | refine ev_of_eq (by assumption) ?_ | refine optAll_state (by assumption) ?_
    | refine optAll_fst (by assumption) ?_

theorem execFlrDone_ev {s₀ : State} (f : Fin 4) {s : State} (hev : Evolves s₀ s) :
    Leaves (Evolves s₀) (execFlrDone f s) := by
  unfold execFlrDone
  try dsimp only
  repeat' with_reducible first
    | assumption | apply State.retireReads_ev | apply State.set_ev | apply State.hifEvent_ev | refine leaves_next ?_
    | refine leaves_out ?_ | refine ev_ite ?_ ?_ | refine ev_ite_fst ?_ ?_ | refine leaves_ite ?_ ?_ | split

theorem State.setRestoring_ev {s₀ : State} {s : State} (k : Nat) (on : Bool) (hev : Evolves s₀ s) :
    Evolves s₀ (State.setRestoring s k on) := by
  unfold State.setRestoring
  try dsimp only
  repeat' with_reducible first
    | assumption | refine ev_ite ?_ ?_ | refine ev_ite_fst ?_ ?_ | simp only [ev_mk] | split | intro _
    | refine ev_of_eq (by assumption) ?_ | refine optAll_state (by assumption) ?_
    | refine optAll_fst (by assumption) ?_

theorem State.restoreFails_ev {s₀ : State} {s : State} (k st : Nat) (hev : Evolves s₀ s) :
    Evolves s₀ (State.restoreFails s k st) := by
  unfold State.restoreFails
  try dsimp only
  repeat' with_reducible first
    | assumption | apply State.setRestoring_ev | apply State.set_ev | apply State.hifEvent_ev | refine ev_ite ?_ ?_
    | refine ev_ite_fst ?_ ?_ | simp only [ev_mk] | split | intro _ | refine ev_of_eq (by assumption) ?_
    | refine optAll_state (by assumption) ?_ | refine optAll_fst (by assumption) ?_

theorem State.noData_ev {s₀ : State} {s : State} (reason : Nat) (r : Reader) (hev : Evolves s₀ s) :
    Evolves s₀ (State.noData s reason r) := by
  unfold State.noData
  try dsimp only
  repeat' with_reducible first
    | assumption | apply State.nvFinish_ev | apply State.putSq_ev | apply State.modNvf_ev | apply State.fetched_ev
    | apply State.ctxAsk_ev | apply State.regionAsk_ev | apply State.dmaFetch_ev | apply State.restoreFails_ev
    | apply State.loses_ev | refine ev_ite ?_ ?_ | refine ev_ite_fst ?_ ?_ | simp only [ev_mk] | split | intro _
    | refine ev_of_eq (by assumption) ?_ | refine optAll_state (by assumption) ?_
    | refine optAll_fst (by assumption) ?_

theorem State.readFailed_ev {s₀ : State} {s : State} (f reason : Nat) (r : Reader) (hev : Evolves s₀ s) :
    Evolves s₀ (State.readFailed s f reason r) := by
  unfold State.readFailed
  try dsimp only
  repeat' with_reducible first
    | assumption | apply State.readEnds_ev | apply State.noData_ev | apply State.nvSweep_ev | refine ev_ite ?_ ?_
    | refine ev_ite_fst ?_ ?_ | simp only [ev_mk] | split | intro _ | refine ev_of_eq (by assumption) ?_
    | refine optAll_state (by assumption) ?_ | refine optAll_fst (by assumption) ?_

theorem State.refused_ev {s₀ : State} {s : State} (x : Nat × XReq) (hev : Evolves s₀ s) :
    Evolves s₀ (State.refused s x) := by
  unfold State.refused
  try dsimp only
  repeat' with_reducible first
    | assumption | apply State.nvFail_ev | apply State.noData_ev | apply State.loses_ev | refine ev_ite ?_ ?_
    | refine ev_ite_fst ?_ ?_ | simp only [ev_mk] | split | intro _ | refine ev_of_eq (by assumption) ?_
    | refine optAll_state (by assumption) ?_ | refine optAll_fst (by assumption) ?_

theorem execCompletionTimeout_ev {s₀ : State} (f : Fin 4) (i : Nat) {s : State} (hev : Evolves s₀ s) :
    Leaves (Evolves s₀) (execCompletionTimeout f i s) := by
  unfold execCompletionTimeout
  try dsimp only
  repeat' with_reducible first
    | assumption | apply State.readFailed_ev | apply State.hifEvent_ev | apply State.aerLog_ev
    | refine leaves_next ?_ | refine leaves_out ?_ | simp only [ev_mk] | split | refine ev_of_eq (by assumption) ?_

theorem execPoisoned_ev {s₀ : State} (f : Fin 4) (i : Option Nat) {s : State} (hev : Evolves s₀ s) :
    Leaves (Evolves s₀) (execPoisoned f i s) := by
  unfold execPoisoned
  try dsimp only
  repeat' with_reducible first
    | assumption | apply State.hifEvent_ev | apply State.aerLog_ev | apply State.readFailed_ev
    | refine leaves_next ?_ | refine leaves_out ?_ | simp only [ev_mk] | split | refine ev_of_eq (by assumption) ?_

theorem execEcrcFailure_ev {s₀ : State} (f : Fin 4) {s : State} (hev : Evolves s₀ s) :
    Leaves (Evolves s₀) (execEcrcFailure f s) := by
  unfold execEcrcFailure
  try dsimp only
  repeat' with_reducible first
    | assumption | apply State.aerLog_ev | refine leaves_next ?_ | refine leaves_out ?_

theorem execMsixUnmask_ev {s₀ : State} (f : Fin 4) (w : MsixWrite) {s : State} (hev : Evolves s₀ s) :
    Leaves (Evolves s₀) (execMsixUnmask f w s) := by
  unfold execMsixUnmask
  try dsimp only
  repeat' with_reducible first
    | assumption | apply State.modPf_ev | apply State.msixFlush_ev | refine leaves_next ?_ | refine leaves_out ?_
    | refine ev_ite ?_ ?_ | refine ev_ite_fst ?_ ?_ | refine leaves_ite ?_ ?_ | simp only [ev_mk] | split | intro _
    | refine ev_of_eq (by assumption) ?_

theorem execTranslationAnswer_ev {s₀ : State} {s : State} (f : Fin 4) (pasid : Option (BitVec 20)) (page : Nat) (grant : Option Nat) (hev : Evolves s₀ s) :
    Leaves (Evolves s₀) (execTranslationAnswer f pasid page grant s) := by
  unfold execTranslationAnswer
  try dsimp only
  repeat' with_reducible first
    | assumption | apply State.take_ev | apply atcSize_ev | apply State.sweep_ev | apply State.deregEnds_ev
    | apply State.lacks_ev | apply State.refused_ev | refine ev_ite ?_ ?_ | refine ev_ite_fst ?_ ?_
    | refine leaves_next ?_ | refine leaves_out ?_ | refine leaves_ite ?_ ?_ | refine ev_foldl ?_ (fun _ _ _ => ?_)
    | refine ev_foldl_fst ?_ (fun _ _ _ => ?_) | simp only [ev_mk] | split | intro _
    | refine ev_of_eq (by assumption) ?_ | refine optAll_state (by assumption) ?_
    | refine optAll_fst (by assumption) ?_

theorem execInvalidationRequest_ev {s₀ : State} (f : Fin 4) (tag : Nat) (pasid : Option (BitVec 20)) (page : Nat) {s : State} (hev : Evolves s₀ s) :
    Leaves (Evolves s₀) (execInvalidationRequest f tag pasid page s) := by
  unfold execInvalidationRequest
  try dsimp only
  repeat' with_reducible first
    | assumption | apply State.modPf_ev | refine leaves_next ?_ | refine leaves_out ?_ | refine ev_ite ?_ ?_
    | refine ev_ite_fst ?_ ?_ | refine leaves_ite ?_ ?_ | simp only [ev_mk] | split | intro _

theorem execInvalidationCompletion_ev {s₀ : State} (f : Fin 4) {s : State} (hev : Evolves s₀ s) :
    Leaves (Evolves s₀) (execInvalidationCompletion f s) := by
  unfold execInvalidationCompletion
  try dsimp only
  repeat' with_reducible first
    | assumption | apply State.modPf_ev | apply State.emit_ev | refine leaves_next ?_ | refine leaves_out ?_
    | refine ev_ite ?_ ?_ | refine ev_ite_fst ?_ ?_ | refine leaves_ite ?_ ?_ | simp only [ev_mk] | split | intro _
    | refine ev_of_eq (by assumption) ?_

theorem State.badState_ev {s₀ : State} {s : State} (k d : Nat) (hev : Evolves s₀ s) :
    Evolves s₀ (State.badState s k d).1 := by
  unfold State.badState
  try dsimp only
  repeat' with_reducible first
    | assumption | apply State.set_ev | apply State.refuse_ev

theorem State.bindWrite_ev {s₀ : State} {s : State} (o : Sys2Proof.Origin) (k : Nat) (v : Word) (hev : Evolves s₀ s) :
    Evolves s₀ (State.bindWrite s o k v).1 := by
  unfold State.bindWrite
  try dsimp only
  repeat' with_reducible first
    | assumption | apply State.gate_ev | apply State.set_ev | apply State.done_ev | apply State.refuse_ev
    | apply State.nvSweep_ev | apply State.badState_ev | refine ev_ite ?_ ?_ | refine ev_ite_fst ?_ ?_ | split
    | intro _

theorem execSliceBind_ev {s₀ : State} (o : Sys2Proof.Origin) (k : Fin 256) (v : Word) {s : State} (hev : Evolves s₀ s) :
    Leaves (Evolves s₀) (execSliceBind o k v s) := by
  unfold execSliceBind
  try dsimp only
  repeat' with_reducible first
    | assumption | apply State.bindWrite_ev | refine leaves_next ?_ | refine leaves_out ?_

theorem execSliceUnbind_ev {s₀ : State} (o : Sys2Proof.Origin) (k : Fin 256) (v : Word) {s : State} (hev : Evolves s₀ s) :
    Leaves (Evolves s₀) (execSliceUnbind o k v s) := by
  unfold execSliceUnbind
  try dsimp only
  repeat' with_reducible first
    | assumption | apply State.bindWrite_ev | refine leaves_next ?_ | refine leaves_out ?_

theorem State.sliceCmd_ev {s₀ : State} {s : State} (o : Sys2Proof.Origin) (k from_ : Nat) (ok : State → Bool) (act : State → State) (hev : Evolves s₀ s) (ev_act : ∀ x0, Evolves s₀ x0 → Evolves s₀ (act x0)) :
    Evolves s₀ (State.sliceCmd s o k from_ ok act).1 := by
  unfold State.sliceCmd
  try dsimp only
  repeat' with_reducible first
    | assumption | apply State.gate_ev | apply State.set_ev | apply State.done_ev | apply State.badState_ev
    | apply ev_act | refine ev_ite ?_ ?_ | refine ev_ite_fst ?_ ?_ | split | intro _

theorem State.toSlice_ev {s₀ : State} {s : State} (k st : Nat) (hev : Evolves s₀ s) :
    Evolves s₀ (State.toSlice s k st) := by
  unfold State.toSlice
  try dsimp only
  repeat' with_reducible first
    | assumption | apply State.set_ev

theorem State.freezeSlice_ev {s₀ : State} {s : State} (k : Nat) (hev : Evolves s₀ s) :
    Evolves s₀ (State.freezeSlice s k) := by
  unfold State.freezeSlice
  try dsimp only
  repeat' with_reducible first
    | assumption | apply State.modRope_ev | apply State.toSlice_ev | simp only [ev_mk]
    | refine ev_foldl ?_ (fun _ _ _ => ?_) | intro _

theorem execFreeze_ev {s₀ : State} (o : Sys2Proof.Origin) (k : Fin 256) {s : State} (hev : Evolves s₀ s) :
    Leaves (Evolves s₀) (execFreeze o k s) := by
  unfold execFreeze
  try dsimp only
  repeat' with_reducible first
    | assumption | apply State.sliceCmd_ev | apply State.freezeSlice_ev | refine leaves_next ?_
    | refine leaves_out ?_ | intro _

theorem State.frozenNow_ev {s₀ : State} {s : State} (k : Nat) (doubt : List (Nat × Nat)) (hev : Evolves s₀ s) :
    Evolves s₀ (State.frozenNow s k doubt) := by
  unfold State.frozenNow
  try dsimp only
  repeat' with_reducible first
    | assumption | apply State.toSlice_ev | apply State.set_ev | apply State.hifEvent_ev | refine ev_ite ?_ ?_
    | simp only [ev_mk] | split

theorem execSliceFrozen_ev {s₀ : State} (k : Fin 256) {s : State} (hev : Evolves s₀ s) :
    Leaves (Evolves s₀) (execSliceFrozen k s) := by
  unfold execSliceFrozen
  try dsimp only
  repeat' with_reducible first
    | assumption | apply State.frozenNow_ev | refine leaves_next ?_ | refine leaves_out ?_ | refine ev_ite ?_ ?_
    | refine ev_ite_fst ?_ ?_ | refine leaves_ite ?_ ?_ | split

theorem execFreezeLimitExpiry_ev {s₀ : State} (k : Fin 256) {s : State} (hev : Evolves s₀ s) :
    Leaves (Evolves s₀) (execFreezeLimitExpiry k s) := by
  unfold execFreezeLimitExpiry
  try dsimp only
  repeat' with_reducible first
    | assumption | apply State.setLocks_ev | apply State.modNvf_ev | apply State.frozenNow_ev | refine leaves_next ?_
    | refine leaves_out ?_ | refine ev_ite ?_ ?_ | refine ev_ite_fst ?_ ?_ | refine leaves_ite ?_ ?_
    | simp only [ev_mk] | split | intro _ | refine ev_of_eq (by assumption) ?_

theorem State.interruptDoubt_ev {s₀ : State} {s : State} (k : Nat) (hev : Evolves s₀ s) :
    Evolves s₀ (State.interruptDoubt s k) := by
  unfold State.interruptDoubt
  try dsimp only
  repeat' with_reducible first
    | assumption | apply State.nvAnswer_ev | refine ev_ite ?_ ?_ | simp only [ev_mk]
    | refine ev_foldl ?_ (fun _ _ _ => ?_) | split | intro _

theorem State.thawSlice_ev {s₀ : State} {s : State} (k : Nat) (hev : Evolves s₀ s) :
    Evolves s₀ (State.thawSlice s k) := by
  unfold State.thawSlice
  try dsimp only
  repeat' with_reducible first
    | assumption | apply State.toSlice_ev | apply State.unfreezeRopes_ev | apply State.qGoOn_ev
    | apply State.connFetch_ev | apply State.interruptDoubt_ev | apply State.nvSweep_ev | refine ev_ite ?_ ?_
    | refine ev_ite_fst ?_ ?_ | refine ev_foldl ?_ (fun _ _ _ => ?_) | refine ev_foldl_fst ?_ (fun _ _ _ => ?_)
    | simp only [ev_mk] | split | intro _ | refine ev_of_eq (by assumption) ?_
    | refine optAll_state (by assumption) ?_ | refine optAll_fst (by assumption) ?_

theorem execThaw_ev {s₀ : State} (o : Sys2Proof.Origin) (k : Fin 256) {s : State} (hev : Evolves s₀ s) :
    Leaves (Evolves s₀) (execThaw o k s) := by
  unfold execThaw
  try dsimp only
  repeat' with_reducible first
    | assumption | apply State.sliceCmd_ev | apply State.thawSlice_ev | refine leaves_next ?_ | refine leaves_out ?_
    | intro _

theorem State.saveSlice_ev {s₀ : State} {s : State} (k : Nat) (hev : Evolves s₀ s) :
    Evolves s₀ (State.saveSlice s k) := by
  unfold State.saveSlice
  try dsimp only
  repeat' with_reducible first
    | assumption | apply State.take_ev | apply State.toSlice_ev | apply State.sliceData_ev | apply State.tickFree_ev
    | refine ev_ite ?_ ?_ | refine ev_ite_fst ?_ ?_ | simp only [ev_mk] | split | intro _
    | refine ev_of_eq (by assumption) ?_ | refine optAll_state (by assumption) ?_
    | refine optAll_fst (by assumption) ?_

theorem execSave_ev {s₀ : State} (o : Sys2Proof.Origin) (k : Fin 256) {s : State} (hev : Evolves s₀ s) :
    Leaves (Evolves s₀) (execSave o k s) := by
  unfold execSave
  try dsimp only
  repeat' with_reducible first
    | assumption | apply State.sliceCmd_ev | apply State.saveSlice_ev | refine leaves_next ?_ | refine leaves_out ?_
    | intro _

theorem execSaveDone_ev {s₀ : State} (k : Fin 256) {s : State} (hev : Evolves s₀ s) :
    Leaves (Evolves s₀) (execSaveDone k s) := by
  unfold execSaveDone
  try dsimp only
  repeat' with_reducible first
    | assumption | apply State.set_ev | apply State.toSlice_ev | apply State.hifEvent_ev | refine leaves_next ?_
    | refine leaves_out ?_ | refine ev_ite ?_ ?_ | refine ev_ite_fst ?_ ?_ | refine leaves_ite ?_ ?_
    | simp only [ev_mk] | split | intro _ | refine ev_of_eq (by assumption) ?_

theorem State.blobRead_ev {s₀ : State} {s : State} (k addr n : Nat) (hev : Evolves s₀ s) :
    Evolves s₀ (State.blobRead s k addr n) := by
  unfold State.blobRead
  try dsimp only
  repeat' with_reducible first
    | assumption | apply State.dmaRead_ev | refine ev_ite ?_ ?_ | refine ev_ite_fst ?_ ?_ | simp only [ev_mk] | split
    | intro _ | refine ev_of_eq (by assumption) ?_ | refine optAll_state (by assumption) ?_
    | refine optAll_fst (by assumption) ?_

theorem State.restoreBegin_ev {s₀ : State} {s : State} (k : Nat) (hev : Evolves s₀ s) :
    Evolves s₀ (State.restoreBegin s k) := by
  unfold State.restoreBegin
  try dsimp only
  repeat' with_reducible first
    | assumption | apply State.toSlice_ev | apply State.setRestoring_ev | apply State.blobRead_ev
    | refine ev_ite ?_ ?_ | refine ev_ite_fst ?_ ?_ | simp only [ev_mk] | split | intro _
    | refine ev_of_eq (by assumption) ?_ | refine optAll_state (by assumption) ?_
    | refine optAll_fst (by assumption) ?_

theorem State.restoreRest_ev {s₀ : State} {s : State} (k len : Nat) (hev : Evolves s₀ s) :
    Evolves s₀ (State.restoreRest s k len) := by
  unfold State.restoreRest
  try dsimp only
  repeat' with_reducible first
    | assumption | apply State.blobRead_ev | apply State.setRestoring_ev | refine ev_ite ?_ ?_
    | refine ev_ite_fst ?_ ?_ | refine ev_foldl ?_ (fun _ _ _ => ?_) | refine ev_foldl_fst ?_ (fun _ _ _ => ?_)
    | simp only [ev_mk] | split | intro _ | refine ev_of_eq (by assumption) ?_
    | refine optAll_state (by assumption) ?_ | refine optAll_fst (by assumption) ?_

theorem execRestore_ev {s₀ : State} (o : Sys2Proof.Origin) (k : Fin 256) {s : State} (hev : Evolves s₀ s) :
    Leaves (Evolves s₀) (execRestore o k s) := by
  unfold execRestore
  try dsimp only
  repeat' with_reducible first
    | assumption | apply State.sliceCmd_ev | apply State.restoreBegin_ev | refine leaves_next ?_
    | refine leaves_out ?_ | intro _

theorem execRestoreDone_ev {s₀ : State} {s : State} (k : Fin 256) (blob : List Byte) (hev : Evolves s₀ s) :
    Leaves (Evolves s₀) (execRestoreDone k blob s) := by
  unfold execRestoreDone
  try dsimp only
  repeat' with_reducible first
    | assumption | (refine State.restore_ev (k : Nat) blob ?_ (by assumption)) | apply State.readsEnd_ev | apply State.stray_ev | apply State.restoreFails_ev
    | apply State.headOk_ev | apply State.restoreRest_ev | apply State.setRestoring_ev
    | apply State.toSlice_ev | apply State.set_ev | apply State.hifEvent_ev | refine ev_ite ?_ ?_
    | refine ev_ite_fst ?_ ?_ | refine leaves_next ?_ | refine leaves_out ?_ | refine leaves_ite ?_ ?_
    | simp only [ev_mk] | split | intro _ | refine ev_of_eq (by assumption) ?_
    | refine optAll_state (by assumption) ?_ | refine optAll_fst (by assumption) ?_

theorem execSliceRelease_ev {s₀ : State} (o : Sys2Proof.Origin) (k : Fin 256) {s : State} (hev : Evolves s₀ s) :
    Leaves (Evolves s₀) (execSliceRelease o k s) := by
  unfold execSliceRelease
  try dsimp only
  repeat' with_reducible first
    | assumption | apply State.sliceCmd_ev | apply State.sliceRelease_ev | apply State.toSlice_ev
    | apply State.nvSweep_ev | refine leaves_next ?_ | refine leaves_out ?_ | intro _

theorem State.equalShares_ev {s₀ s : State} (hev : Evolves s₀ s) : Evolves s₀ s.equalShares :=
  (State.set_ev HifSliceCfg.adr HifSliceCfg.mode 0 hev).trans
    ⟨rfl, List.prefix_rfl, Nat.le_refl _, Fuses.Grown.refl _, swf_filter resetWord _ _, srising_filter 0 _ _, id⟩

theorem State.cfgWrite_ev {s₀ : State} {s : State} (o : Sys2Proof.Origin) (v : Word) (hev : Evolves s₀ s) :
    Evolves s₀ (State.cfgWrite s o v).1 := by
  unfold State.cfgWrite
  try dsimp only
  repeat' with_reducible first
    | assumption | apply State.gate_ev | apply State.refuse_ev | apply State.set_ev | apply State.equalShares_ev
    | apply State.done_ev | refine ev_ite ?_ ?_ | refine ev_ite_fst ?_ ?_ | simp only [ev_mk] | split | intro _
    | refine ev_of_eq (by assumption) ?_ | refine optAll_state (by assumption) ?_
    | refine optAll_fst (by assumption) ?_

theorem execSliceModeWrite_ev {s₀ : State} (o : Sys2Proof.Origin) (v : Word) {s : State} (hev : Evolves s₀ s) :
    Leaves (Evolves s₀) (execSliceModeWrite o v s) := by
  unfold execSliceModeWrite
  try dsimp only
  repeat' with_reducible first
    | assumption | apply State.cfgWrite_ev | refine leaves_next ?_ | refine leaves_out ?_

theorem execSliceCountWrite_ev {s₀ : State} (o : Sys2Proof.Origin) (v : Word) {s : State} (hev : Evolves s₀ s) :
    Leaves (Evolves s₀) (execSliceCountWrite o v s) := by
  unfold execSliceCountWrite
  try dsimp only
  repeat' with_reducible first
    | assumption | apply State.cfgWrite_ev | refine leaves_next ?_ | refine leaves_out ?_

theorem State.shareWrite_ev {s₀ : State} {s : State} (o : Sys2Proof.Origin) (k : Nat) (r : Res) (base count : Nat) (hev : Evolves s₀ s) :
    Evolves s₀ (State.shareWrite s o k r base count).1 := by
  unfold State.shareWrite
  try dsimp only
  repeat' with_reducible first
    | assumption | apply State.gate_ev | apply State.done_ev | apply State.refuse_ev | refine ev_ite ?_ ?_
    | refine ev_ite_fst ?_ ?_ | simp only [ev_mk] | split | intro _

theorem State.routeWrite_ev {s₀ : State} {s : State} (o : Sys2Proof.Origin) (e : Nat) (v : Word) (hev : Evolves s₀ s) :
    Evolves s₀ (State.routeWrite s o e v).1 := by
  unfold State.routeWrite
  try dsimp only
  repeat' with_reducible first
    | assumption | apply State.gate_ev | apply State.refuse_ev | apply State.setBits_ev | apply State.done_ev
    | refine ev_ite ?_ ?_ | refine ev_ite_fst ?_ ?_ | simp only [ev_mk] | split | intro _
    | refine ev_of_eq (by assumption) ?_

theorem execEventRouteWrite_ev {s₀ : State} (o : Sys2Proof.Origin) (e : Fin 384) (v : Word) {s : State} (hev : Evolves s₀ s) :
    Leaves (Evolves s₀) (execEventRouteWrite o e v s) := by
  unfold execEventRouteWrite
  try dsimp only
  repeat' with_reducible first
    | assumption | apply State.routeWrite_ev | refine leaves_next ?_ | refine leaves_out ?_

end Sys2Proof.Machine
end

