-- ==== Sys2Proof/Laws/EvolveLead.lean ====
section
/-!
SUPPORT. What the definitions of Machine/Lead.lean keep.
-/

namespace Sys2Proof.Machine

set_option linter.all false

theorem State.giveLead_ev {s₀ : State} {s : State} (h lease : Nat) (hev : Evolves s₀ s) :
    Evolves s₀ (State.giveLead s h lease) := by
  unfold State.giveLead
  try dsimp only
  repeat' with_reducible first
    | assumption | apply State.set_ev | refine ev_ite ?_ ?_ | simp only [ev_mk] | split

theorem State.leadResult_ev {s₀ : State} {s : State} (side r : Nat) (hev : Evolves s₀ s) :
    Evolves s₀ (State.leadResult s side r) := by
  unfold State.leadResult
  try dsimp only
  repeat' with_reducible first
    | assumption | apply State.set_ev | refine ev_ite ?_ ?_ | split

theorem State.leadOne_ev {s₀ : State} {s : State} (side op lease : Nat) (hev : Evolves s₀ s) :
    Evolves s₀ (State.leadOne s side op lease) := by
  unfold State.leadOne
  try dsimp only
  repeat' with_reducible first
    | assumption | apply State.leadResult_ev | apply State.giveLead_ev | apply State.notLead_ev | refine ev_ite ?_ ?_
    | split

theorem State.leadTick_ev {s₀ : State} {s : State} (host mgt : Option (Nat × Nat)) (hev : Evolves s₀ s) :
    Evolves s₀ (State.leadTick s host mgt) := by
  unfold State.leadTick
  try dsimp only
  repeat' with_reducible first
    | assumption | apply State.leadOne_ev | apply State.raise_ev | refine ev_ite ?_ ?_ | simp only [ev_mk] | split
    | refine ev_of_eq (by assumption) ?_

theorem State.leadWrite_ev {s₀ : State} {s : State} (o : Sys2Proof.Origin) (op lease : Nat) (other : Option (Nat × Nat)) (hev : Evolves s₀ s) :
    Evolves s₀ (State.leadWrite s o op lease other).1 := by
  unfold State.leadWrite
  try dsimp only
  repeat' with_reducible first
    | assumption | apply State.gate_ev | apply State.leadTick_ev | apply State.done_ev | simp only [ev_mk] | split
    | intro _ | refine ev_of_eq (by assumption) ?_

theorem State.leadMsg_ev {s₀ : State} {s : State} (o : Sys2Proof.Origin) (msg : Option (BitVec 4 × BitVec 8)) (op lease : Nat) (other : Option (BitVec 2 × BitVec 14)) (hev : Evolves s₀ s) :
    Evolves s₀ (State.leadMsg s o msg op lease other) := by
  unfold State.leadMsg
  try dsimp only
  repeat' with_reducible first
    | assumption | apply State.leadWrite_ev | apply State.naonantServe_ev | apply State.leadTick_ev
    | refine ev_ite ?_ ?_ | refine ev_ite_fst ?_ ?_ | simp only [ev_mk] | split | intro _
    | refine ev_of_eq (by assumption) ?_

theorem execLeadClaim_ev {s₀ : State} (o : Sys2Proof.Origin) (lease : BitVec 14) (msg : Option (BitVec 4 × BitVec 8)) (other : Option (BitVec 2 × BitVec 14)) {s : State} (hev : Evolves s₀ s) :
    Leaves (Evolves s₀) (execLeadClaim o lease msg other s) := by
  unfold execLeadClaim
  try dsimp only
  repeat' with_reducible first
    | assumption | apply State.leadMsg_ev | refine leaves_next ?_ | refine leaves_out ?_

theorem execLeadRenew_ev {s₀ : State} (o : Sys2Proof.Origin) (lease : BitVec 14) (msg : Option (BitVec 4 × BitVec 8)) {s : State} (hev : Evolves s₀ s) :
    Leaves (Evolves s₀) (execLeadRenew o lease msg s) := by
  unfold execLeadRenew
  try dsimp only
  repeat' with_reducible first
    | assumption | apply State.leadMsg_ev | refine leaves_next ?_ | refine leaves_out ?_

theorem execLeadRelease_ev {s₀ : State} (o : Sys2Proof.Origin) (msg : Option (BitVec 4 × BitVec 8)) {s : State} (hev : Evolves s₀ s) :
    Leaves (Evolves s₀) (execLeadRelease o msg s) := by
  unfold execLeadRelease
  try dsimp only
  repeat' with_reducible first
    | assumption | apply State.leadMsg_ev | refine leaves_next ?_ | refine leaves_out ?_

theorem execLeadQuery_ev {s₀ : State} (m : BitVec 4 × BitVec 8) {s : State} (hev : Evolves s₀ s) :
    Leaves (Evolves s₀) (execLeadQuery m s) := by
  unfold execLeadQuery
  try dsimp only
  repeat' with_reducible first
    | assumption | apply State.naonantServe_ev | refine leaves_next ?_ | refine leaves_out ?_ | intro _

theorem State.leaseLapse_ev {s₀ : State} {s : State} (hev : Evolves s₀ s) :
    Evolves s₀ (State.leaseLapse s) := by
  unfold State.leaseLapse
  try dsimp only
  repeat' with_reducible first
    | assumption | apply State.giveLead_ev | apply State.raise_ev

theorem execLeaseLapsed_ev {s₀ : State} {s : State} (hev : Evolves s₀ s) :
    Leaves (Evolves s₀) (execLeaseLapsed s) := by
  unfold execLeaseLapsed
  try dsimp only
  repeat' with_reducible first
    | assumption | apply State.leaseLapse_ev | refine leaves_next ?_ | refine leaves_out ?_ | refine ev_ite ?_ ?_
    | refine ev_ite_fst ?_ ?_ | refine leaves_ite ?_ ?_ | split

end Sys2Proof.Machine
end

