-- ==== Sys2Proof/Laws/EvolvePorts.lean ====
section
/-!
SUPPORT. What the definitions of Machine/Ports.lean keep.
-/

namespace Sys2Proof.Machine

set_option linter.all false

theorem State.setLink_ev {s₀ : State} {s : State} (p : Nat) (up : Bool) (hev : Evolves s₀ s) :
    Evolves s₀ (State.setLink s p up) := by
  unfold State.setLink
  try dsimp only
  repeat' with_reducible first
    | assumption | apply State.set_ev | apply State.raise_ev | refine ev_ite ?_ ?_ | simp only [ev_mk] | split

theorem execPortUp_ev {s₀ : State} (p : Fin 25) {s : State} (hev : Evolves s₀ s) :
    Leaves (Evolves s₀) (execPortUp p s) := by
  unfold execPortUp
  try dsimp only
  repeat' with_reducible first
    | assumption | apply State.setLink_ev | refine leaves_next ?_ | refine leaves_out ?_ | refine ev_ite ?_ ?_
    | refine ev_ite_fst ?_ ?_ | refine leaves_ite ?_ ?_ | split

theorem State.anLost_ev {s₀ : State} {s : State} (p : Nat) (hev : Evolves s₀ s) :
    Evolves s₀ (State.anLost s p) := by
  unfold State.anLost
  try dsimp only
  repeat' with_reducible first
    | assumption | apply State.set_ev | refine ev_ite ?_ ?_ | split

theorem State.portDown_ev {s₀ : State} {s : State} (p : Nat) (hev : Evolves s₀ s) :
    Evolves s₀ (State.portDown s p) := by
  unfold State.portDown
  try dsimp only
  repeat' with_reducible first
    | assumption | apply State.anLost_ev | apply State.setLink_ev | simp only [ev_mk]

theorem execPortDown_ev {s₀ : State} (p : Fin 25) {s : State} (hev : Evolves s₀ s) :
    Leaves (Evolves s₀) (execPortDown p s) := by
  unfold execPortDown
  try dsimp only
  repeat' with_reducible first
    | assumption | apply State.portDown_ev | refine leaves_next ?_ | refine leaves_out ?_ | refine ev_ite ?_ ?_
    | refine ev_ite_fst ?_ ?_ | refine leaves_ite ?_ ?_ | split

theorem execPcsLock_ev {s₀ : State} (p : Fin 25) {s : State} (hev : Evolves s₀ s) :
    Leaves (Evolves s₀) (execPcsLock p s) := by
  unfold execPcsLock
  try dsimp only
  repeat' with_reducible first
    | assumption | refine leaves_next ?_ | refine leaves_out ?_ | refine ev_ite ?_ ?_ | refine ev_ite_fst ?_ ?_
    | refine leaves_ite ?_ ?_ | simp only [ev_mk] | split

theorem execAutonegDone_ev {s₀ : State} (p : Fin 16) (speed : BitVec 3) {s : State} (hev : Evolves s₀ s) :
    Leaves (Evolves s₀) (execAutonegDone p speed s) := by
  unfold execAutonegDone
  try dsimp only
  repeat' with_reducible first
    | assumption | apply State.set_ev | refine leaves_next ?_ | refine leaves_out ?_ | refine ev_ite ?_ ?_
    | refine ev_ite_fst ?_ ?_ | refine leaves_ite ?_ ?_ | simp only [ev_mk] | split
    | refine ev_of_eq (by assumption) ?_

theorem execAutonegRestart_ev {s₀ : State} (p : Fin 16) {s : State} (hev : Evolves s₀ s) :
    Leaves (Evolves s₀) (execAutonegRestart p s) := by
  unfold execAutonegRestart
  try dsimp only
  repeat' with_reducible first
    | assumption | apply State.anLost_ev | refine leaves_next ?_ | refine leaves_out ?_

theorem State.linkFields_ev {s₀ : State} {s : State} (speed width l0p : Nat) (flit : Bool) (hev : Evolves s₀ s) :
    Evolves s₀ (State.linkFields s speed width l0p flit) := by
  unfold State.linkFields
  try dsimp only
  repeat' with_reducible first
    | assumption | apply State.set_ev

theorem execLinkRetraining_ev {s₀ : State} (done : Option (BitVec 4 × BitVec 3 × BitVec 3 × Bool)) {s : State} (hev : Evolves s₀ s) :
    Leaves (Evolves s₀) (execLinkRetraining done s) := by
  unfold execLinkRetraining
  try dsimp only
  repeat' with_reducible first
    | assumption | apply State.done_ev | apply State.set_ev | apply State.linkFields_ev | refine leaves_next ?_
    | refine leaves_out ?_ | refine ev_ite ?_ ?_ | refine ev_ite_fst ?_ ?_ | refine leaves_ite ?_ ?_
    | simp only [ev_mk] | split | refine ev_of_eq (by assumption) ?_

end Sys2Proof.Machine
end

