-- ==== Sys2Proof/Laws/EvolveService.lean ====
section
/-!
SUPPORT. What the definitions of Machine/Service.lean keep.
-/

namespace Sys2Proof.Machine

set_option linter.all false

theorem State.dueFromNow_ev {s₀ : State} {s : State} (k : Nat) (hev : Evolves s₀ s) :
    Evolves s₀ (State.dueFromNow s k) := by
  unfold State.dueFromNow
  try dsimp only
  repeat' with_reducible first
    | assumption | apply State.modKind_ev | simp only [ev_mk] | intro _

theorem State.testBegins_ev {s₀ : State} {s : State} (k m : Nat) (hev : Evolves s₀ s) :
    Evolves s₀ (State.testBegins s k m) := by
  unfold State.testBegins
  try dsimp only
  repeat' with_reducible first
    | assumption | apply State.modKind_ev | apply State.cut_ev | apply State.kindState_ev | simp only [ev_mk]
    | intro _

theorem State.handDuty_ev {s₀ : State} {s : State} (k m r : Nat) (hev : Evolves s₀ s) :
    Evolves s₀ (State.handDuty s k m r) := by
  unfold State.handDuty
  try dsimp only
  repeat' with_reducible first
    | assumption | apply State.modKind_ev | apply State.duty_ev | apply State.set_ev | refine ev_ite ?_ ?_
    | refine ev_ite_fst ?_ ?_ | simp only [ev_mk] | split | intro _

theorem State.rotate_ev {s₀ : State} {s : State} (k m : Nat) (hev : Evolves s₀ s) :
    Evolves s₀ (State.rotate s k m).1 := by
  unfold State.rotate
  try dsimp only
  repeat' with_reducible first
    | assumption | apply State.cut_ev | apply State.testBegins_ev | apply State.kindState_ev | apply State.raise_ev
    | apply State.duty_ev | apply State.handDuty_ev | apply State.copyBegins_ev | refine ev_ite ?_ ?_
    | refine ev_ite_fst ?_ ?_ | simp only [ev_mk] | split | refine ev_of_eq (by assumption) ?_

theorem State.deferred_ev {s₀ : State} {r : State × Begun} (k m : Nat) (hev : Evolves s₀ r.1) :
    Evolves s₀ (State.deferred r k m).1 := by
  unfold State.deferred
  split
  · exact State.raise_ev _ _ _ hev
  · exact hev

theorem execRotationDue_ev {s₀ : State} {s : State} (kind : Fin 9) (m : Fin 26) (hev : Evolves s₀ s) :
    Leaves (Evolves s₀) (execRotationDue kind m s) := by
  unfold execRotationDue
  try dsimp only
  repeat' with_reducible first
    | assumption | apply State.svcOn_ev | apply State.fallsDue_ev | apply State.modKind_ev | apply State.mayRotate_ev
    | apply State.deferred_ev | apply State.rotate_ev | refine ev_ite ?_ ?_ | refine ev_ite_fst ?_ ?_
    | refine leaves_next ?_ | refine leaves_out ?_ | refine leaves_ite ?_ ?_ | simp only [ev_mk] | split | intro _
    | refine ev_of_eq (by assumption) ?_ | refine optAll_state (by assumption) ?_
    | refine optAll_fst (by assumption) ?_

theorem execHandoverPauseStart_ev {s₀ : State} {s : State} (role : Fin 4) (hev : Evolves s₀ s) :
    Leaves (Evolves s₀) (execHandoverPauseStart role s) := by
  unfold execHandoverPauseStart
  try dsimp only
  repeat' with_reducible first
    | assumption | apply State.pauseBegins_ev | refine ev_ite ?_ ?_ | refine ev_ite_fst ?_ ?_ | refine leaves_next ?_
    | refine leaves_out ?_ | refine leaves_ite ?_ ?_ | simp only [ev_mk] | split | intro _
    | refine ev_of_eq (by assumption) ?_ | refine optAll_state (by assumption) ?_
    | refine optAll_fst (by assumption) ?_

theorem State.pauseOver_ev {s₀ : State} {s : State} (p : SvcPause) (hev : Evolves s₀ s) :
    Evolves s₀ (State.pauseOver s p) := by
  unfold State.pauseOver
  try dsimp only
  repeat' with_reducible first
    | assumption | apply State.duty_ev | apply State.pauseLifts_ev | apply State.handDuty_ev
    | apply State.testBegins_ev | apply State.kindRests_ev | refine ev_ite ?_ ?_ | refine ev_ite_fst ?_ ?_
    | simp only [ev_mk] | split | intro _ | refine ev_of_eq (by assumption) ?_
    | refine optAll_state (by assumption) ?_ | refine optAll_fst (by assumption) ?_

theorem State.pauseTick_ev {s₀ : State} {s : State} (hev : Evolves s₀ s) :
    Evolves s₀ (State.pauseTick s) := by
  unfold State.pauseTick
  try dsimp only
  repeat' with_reducible first
    | assumption | apply State.pauseBegins_ev | apply pauseNs_ev | apply State.pauseOver_ev | refine ev_ite ?_ ?_
    | refine ev_ite_fst ?_ ?_ | simp only [ev_mk] | split | intro _ | refine ev_of_eq (by assumption) ?_
    | refine optAll_state (by assumption) ?_ | refine optAll_fst (by assumption) ?_

theorem State.yieldLimit_ev {s₀ : State} {s : State} (hev : Evolves s₀ s) :
    Evolves s₀ (State.yieldLimit s) := by
  unfold State.yieldLimit
  try dsimp only
  repeat' with_reducible first
    | assumption | apply State.kindRests_ev | apply State.raise_ev | refine ev_ite ?_ ?_ | refine ev_ite_fst ?_ ?_
    | simp only [ev_mk] | split | intro _ | refine ev_of_eq (by assumption) ?_
    | refine optAll_state (by assumption) ?_ | refine optAll_fst (by assumption) ?_

theorem execMemberTestEnd_ev {s₀ : State} (kind : Fin 9) (pass : Bool) {s : State} (hev : Evolves s₀ s) :
    Leaves (Evolves s₀) (execMemberTestEnd kind pass s) := by
  unfold execMemberTestEnd
  try dsimp only
  repeat' with_reducible first
    | assumption | apply State.modKind_ev | apply State.set_ev | apply State.kindRests_ev | apply State.raise_ev
    | apply State.retireMember_ev | apply State.exhaustion_ev | refine leaves_next ?_ | refine leaves_out ?_
    | refine ev_ite ?_ ?_ | refine ev_ite_fst ?_ ?_ | refine leaves_ite ?_ ?_ | simp only [ev_mk] | split | intro _
    | refine ev_of_eq (by assumption) ?_

theorem State.copyEnds_ev {s₀ : State} {s : State} (k : Nat) (hev : Evolves s₀ s) :
    Evolves s₀ (State.copyEnds s k) := by
  unfold State.copyEnds
  try dsimp only
  repeat' with_reducible first
    | assumption | apply State.modKind_ev | apply State.handDuty_ev | apply State.retireMember_ev
    | apply State.kindRests_ev | apply State.raise_ev | apply State.exhaustion_ev | apply State.testBegins_ev
    | refine ev_ite ?_ ?_ | refine ev_ite_fst ?_ ?_ | simp only [ev_mk] | split | intro _
    | refine ev_of_eq (by assumption) ?_ | refine optAll_state (by assumption) ?_
    | refine optAll_fst (by assumption) ?_

theorem State.bankError_ev {s₀ : State} {s : State} (k bank error owner : Nat) (hev : Evolves s₀ s) :
    Evolves s₀ (State.bankError s k bank error owner) := by
  unfold State.bankError
  try dsimp only
  repeat' with_reducible first
    | assumption | apply State.correctable_ev | apply State.retireBank_ev | apply State.nvFail_ev
    | apply State.tmTakeAll_ev | refine ev_ite ?_ ?_ | refine ev_ite_fst ?_ ?_ | simp only [ev_mk] | split | intro _
    | refine ev_of_eq (by assumption) ?_ | refine optAll_state (by assumption) ?_
    | refine optAll_fst (by assumption) ?_

theorem State.scrub_ev {s₀ : State} {s : State} (k bank : Nat) (first : Bool) (error owner : Nat) (hev : Evolves s₀ s) :
    Evolves s₀ (State.scrub s k bank first error owner) := by
  unfold State.scrub
  try dsimp only
  repeat' with_reducible first
    | assumption | apply State.svcOn_ev | apply State.set_ev | apply State.bankError_ev | refine ev_ite ?_ ?_
    | refine ev_ite_fst ?_ ?_ | simp only [ev_mk] | split | intro _ | refine ev_of_eq (by assumption) ?_
    | refine optAll_state (by assumption) ?_ | refine optAll_fst (by assumption) ?_

theorem execCoreFault_ev {s₀ : State} (n : Fin 26) {s : State} (hev : Evolves s₀ s) :
    Leaves (Evolves s₀) (execCoreFault n s) := by
  unfold execCoreFault
  try dsimp only
  repeat' with_reducible first
    | assumption | apply State.raise_ev | refine leaves_next ?_ | refine leaves_out ?_ | refine ev_ite ?_ ?_
    | refine ev_ite_fst ?_ ?_ | refine leaves_ite ?_ ?_ | split

theorem State.svcEnds_ev {s₀ : State} {s : State} (st : Nat) (hev : Evolves s₀ s) :
    Evolves s₀ (State.svcEnds s st).1 := by
  unfold State.svcEnds
  try dsimp only
  repeat' with_reducible first
    | assumption | apply State.set_ev | apply State.done_ev

theorem State.svcCmd_ev {s₀ : State} {s : State} (o : Sys2Proof.Origin) (kind member : Nat) (run : State → WRes) (hev : Evolves s₀ s) (ev_run : ∀ x0, Evolves s₀ x0 → Evolves s₀ (run x0).1) :
    Evolves s₀ (State.svcCmd s o kind member run).1 := by
  unfold State.svcCmd
  try dsimp only
  repeat' with_reducible first
    | assumption | apply State.gate_ev | apply State.refuse_ev | apply State.set_ev | apply ev_run
    | refine ev_ite ?_ ?_ | refine ev_ite_fst ?_ ?_ | split | intro _

theorem State.coreYield_ev {s₀ : State} {s : State} (core : Nat) (hev : Evolves s₀ s) :
    Evolves s₀ (State.coreYield s core).1 := by
  unfold State.coreYield
  try dsimp only
  repeat' with_reducible first
    | assumption | apply State.duty_ev | apply State.take_ev | apply State.modKind_ev | apply State.set_ev
    | apply State.testBegins_ev | apply State.svcEnds_ev | refine ev_ite ?_ ?_ | refine ev_ite_fst ?_ ?_
    | simp only [ev_mk] | split | intro _ | refine ev_of_eq (by assumption) ?_

theorem State.rotateNow_ev {s₀ : State} {s : State} (k m : Nat) (hev : Evolves s₀ s) :
    Evolves s₀ (State.rotateNow s k m).1 := by
  unfold State.rotateNow
  try dsimp only
  repeat' with_reducible first
    | assumption | apply State.svcOn_ev | apply membersOf_ev | apply State.svcEnds_ev | apply svREFUSED_ev
    | apply svNO_RESERVE_ev | apply svBUSY_ev | apply State.deferred_ev | apply State.rotate_ev | apply svOK_ev
    | apply svNOT_PLACEABLE_ev | refine ev_ite ?_ ?_ | refine ev_ite_fst ?_ ?_ | simp only [ev_mk] | split | intro _
    | refine ev_of_eq (by assumption) ?_ | refine optAll_state (by assumption) ?_
    | refine optAll_fst (by assumption) ?_

theorem execRotateNow_ev {s₀ : State} (o : Sys2Proof.Origin) (kind : BitVec 4) (member : BitVec 5) {s : State} (hev : Evolves s₀ s) :
    Leaves (Evolves s₀) (execRotateNow o kind member s) := by
  unfold execRotateNow
  try dsimp only
  repeat' with_reducible first
    | assumption | apply State.svcCmd_ev | apply State.rotateNow_ev | refine leaves_next ?_ | refine leaves_out ?_
    | intro _

theorem State.fwReplace_ev {s₀ : State} {s : State} (hev : Evolves s₀ s) :
    Evolves s₀ (State.fwReplace s).1 := by
  unfold State.fwReplace
  try dsimp only
  repeat' with_reducible first
    | assumption | apply State.svcEnds_ev | apply State.set_ev | apply State.modBoot_ev | apply State.done_ev
    | refine ev_ite ?_ ?_ | refine ev_ite_fst ?_ ?_ | simp only [ev_mk] | split | intro _

theorem execFwReplace_ev {s₀ : State} (o : Sys2Proof.Origin) {s : State} (hev : Evolves s₀ s) :
    Leaves (Evolves s₀) (execFwReplace o s) := by
  unfold execFwReplace
  try dsimp only
  repeat' with_reducible first
    | assumption | apply State.svcCmd_ev | apply State.fwReplace_ev | refine leaves_next ?_ | refine leaves_out ?_

theorem execFwReplaced_ev {s₀ : State} {s : State} (hev : Evolves s₀ s) :
    Leaves (Evolves s₀) (execFwReplaced s) := by
  unfold execFwReplaced
  try dsimp only
  repeat' with_reducible first
    | assumption | apply State.set_ev | apply State.modBoot_ev | apply State.raise_ev | refine leaves_next ?_
    | refine leaves_out ?_ | refine ev_ite ?_ ?_ | refine ev_ite_fst ?_ ?_ | refine leaves_ite ?_ ?_
    | simp only [ev_mk] | split | intro _ | refine ev_of_eq (by assumption) ?_

theorem State.svcReset_ev {s₀ : State} {s : State} (hev : Evolves s₀ s) :
    Evolves s₀ (State.svcReset s) := by
  unfold State.svcReset
  try dsimp only
  repeat' with_reducible first
    | assumption | apply State.modKind_ev | apply State.cut_ev | apply State.kindState_ev | refine ev_ite ?_ ?_
    | simp only [ev_mk] | refine ev_foldl ?_ (fun _ _ _ => ?_) | split | intro _

end Sys2Proof.Machine
end

