-- ==== Sys2Proof/Laws/EvolveTraffic.lean ====
section
/-!
SUPPORT. What the definitions of Machine/Traffic.lean keep.
-/

namespace Sys2Proof.Machine

set_option linter.all false

theorem execTmEnqueue_ev {s₀ : State} {s : State} (hev : Evolves s₀ s) :
    Leaves (Evolves s₀) (execTmEnqueue s) := by
  unfold execTmEnqueue
  try dsimp only
  repeat' with_reducible first
    | assumption | apply State.startClocks_ev | apply State.enqueue_ev | refine leaves_next ?_ | refine leaves_out ?_
    | refine ev_ite ?_ ?_ | refine ev_ite_fst ?_ ?_ | refine leaves_ite ?_ ?_ | simp only [ev_mk] | split
    | refine ev_of_eq (by assumption) ?_

theorem State.hostPurge_ev {s₀ : State} {s : State} (hev : Evolves s₀ s) :
    Evolves s₀ (State.hostPurge s) := by
  unfold State.hostPurge
  try dsimp only
  repeat' with_reducible first
    | assumption | apply State.rxPurge_ev | refine ev_foldl ?_ (fun _ _ _ => ?_) | intro _

theorem execTmDecision_ev {s₀ s : State} (p : Fin 25) (hev : Evolves s₀ s) : Leaves (Evolves s₀) (execTmDecision p s) := by
  unfold execTmDecision
  refine leaves_ite ?_ hev
  extract_lets s1 s2 s3
  have h1 : Evolves s₀ s1 := State.tidy_ev _ (State.decisionLatch_ev _ hev)
  have h2 : Evolves s₀ s2 := ev_foldl h1 fun _ _ h => State.dropLong_ev _ _ _ _ h
  have h3 : Evolves s₀ s3 := State.tidy_ev _ (ev_ite (State.hostPurge_ev h2) h2)
  clear_value s3
  repeat' with_reducible first
    | assumption
    | refine leaves_next ?_
    | refine ev_ite ?_ ?_
    | apply State.rxDeliver_ev
    | apply State.leave_ev
    | apply State.take_ev
    | split

theorem State.gclArm_ev {s₀ : State} {s : State} (o : Sys2Proof.Origin) (p : Nat) (hev : Evolves s₀ s) :
    Evolves s₀ (State.gclArm s o p).1 := by
  unfold State.gclArm
  try dsimp only
  repeat' with_reducible first
    | assumption | apply State.gate_ev | apply State.done_ev | apply State.set_ev | apply State.refuse_ev
    | refine ev_ite ?_ ?_ | refine ev_ite_fst ?_ ?_ | simp only [ev_mk] | split | intro _

theorem execGclSwitchArm_ev {s₀ : State} (o : Sys2Proof.Origin) (p : Fin 16) {s : State} (hev : Evolves s₀ s) :
    Leaves (Evolves s₀) (execGclSwitchArm o p s) := by
  unfold execGclSwitchArm
  try dsimp only
  repeat' with_reducible first
    | assumption | apply State.gclArm_ev | refine leaves_next ?_ | refine leaves_out ?_

theorem State.swapBanks_ev {s₀ : State} {s : State} (p : Nat) (hev : Evolves s₀ s) :
    Evolves s₀ (State.swapBanks s p) := by
  unfold State.swapBanks
  try dsimp only
  repeat' with_reducible first
    | assumption | apply State.setBits_ev | refine ev_foldl ?_ (fun _ _ _ => ?_) | intro _

theorem execGclSwitch_ev {s₀ : State} (p : Fin 16) {s : State} (hev : Evolves s₀ s) :
    Leaves (Evolves s₀) (execGclSwitch p s) := by
  unfold execGclSwitch
  try dsimp only
  repeat' with_reducible first
    | assumption | apply State.swapBanks_ev | apply State.latchB_ev | apply State.set_ev | apply State.tmEvent_ev
    | refine leaves_next ?_ | refine leaves_out ?_ | refine ev_ite ?_ ?_ | refine ev_ite_fst ?_ ?_
    | refine leaves_ite ?_ ?_ | simp only [ev_mk] | split | intro _ | refine ev_of_eq (by assumption) ?_

theorem execGclEntryAdvance_ev {s₀ : State} (p : Fin 16) {s : State} (hev : Evolves s₀ s) :
    Leaves (Evolves s₀) (execGclEntryAdvance p s) := by
  unfold execGclEntryAdvance
  try dsimp only
  repeat' with_reducible first
    | assumption | apply State.set_ev | refine leaves_next ?_ | refine leaves_out ?_ | refine ev_ite ?_ ?_
    | refine ev_ite_fst ?_ ?_ | refine leaves_ite ?_ ?_ | split

theorem State.preemptStart_ev {s₀ : State} {s : State} (p : Nat) (hev : Evolves s₀ s) :
    Evolves s₀ (State.preemptStart s p) := by
  unfold State.preemptStart
  try dsimp only
  repeat' with_reducible first
    | assumption | apply State.set_ev | refine ev_ite ?_ ?_ | split

theorem execPreemptVerifyEnd_ev {s₀ : State} (p : Fin 16) (ok : Bool) {s : State} (hev : Evolves s₀ s) :
    Leaves (Evolves s₀) (execPreemptVerifyEnd p ok s) := by
  unfold execPreemptVerifyEnd
  try dsimp only
  repeat' with_reducible first
    | assumption | apply State.set_ev | apply State.tmEvent_ev | refine leaves_next ?_ | refine leaves_out ?_
    | refine ev_ite ?_ ?_ | refine ev_ite_fst ?_ ?_ | refine leaves_ite ?_ ?_ | split

theorem State.sample_ev {s₀ : State} {s : State} (q : Nat) (hev : Evolves s₀ s) :
    Evolves s₀ (State.sample s q) := by
  unfold State.sample
  try dsimp only
  repeat' with_reducible first
    | assumption | apply State.set_ev | simp only [ev_mk] | split | intro _ | refine ev_of_eq (by assumption) ?_

theorem execSampleSweepStart_ev {s₀ : State} {s : State} (hev : Evolves s₀ s) :
    Leaves (Evolves s₀) (execSampleSweepStart s) := by
  unfold execSampleSweepStart
  try dsimp only
  repeat' with_reducible first
    | assumption | apply State.latchB_ev | apply State.set_ev | apply State.sample_ev | apply State.tickFree_ev
    | refine leaves_next ?_ | refine leaves_out ?_ | refine ev_ite ?_ ?_ | refine ev_ite_fst ?_ ?_
    | refine leaves_ite ?_ ?_ | refine ev_foldl ?_ (fun _ _ _ => ?_) | refine ev_foldl_fst ?_ (fun _ _ _ => ?_)
    | split | intro _

theorem execSampleSweepEnd_ev {s₀ : State} {s : State} (hev : Evolves s₀ s) :
    Leaves (Evolves s₀) (execSampleSweepEnd s) := by
  unfold execSampleSweepEnd
  try dsimp only
  repeat' with_reducible first
    | assumption | apply State.set_ev | apply State.bump_ev | refine leaves_next ?_ | refine leaves_out ?_
    | refine ev_ite ?_ ?_ | refine ev_ite_fst ?_ ?_ | refine leaves_ite ?_ ?_ | split

end Sys2Proof.Machine
end

