-- ==== Sys2Proof/Laws/EvolveRegOps.lean ====
section
/-!
SUPPORT. What the definitions of Machine/RegOps.lean keep.
-/

namespace Sys2Proof.Machine

set_option linter.all false

theorem State.storeWord_ev {s₀ : State} {s : State} (a : Nat) (v : Word) (hev : Evolves s₀ s) :
    Evolves s₀ (State.storeWord s a v) := by
  unfold State.storeWord
  try dsimp only
  repeat' with_reducible first
    | assumption | apply State.setReg_ev | apply State.setForce_ev | apply State.setBits_ev | refine ev_ite ?_ ?_
    | split

theorem State.storeWords_ev {s₀ : State} {s : State} (a n v : Nat) (hev : Evolves s₀ s) :
    Evolves s₀ (State.storeWords s a n v) := by
  unfold State.storeWords
  try dsimp only
  repeat' with_reducible first
    | assumption | apply State.storeWord_ev | refine ev_foldl ?_ (fun _ _ _ => ?_) | intro _

theorem State.follows_ev {s₀ s t : State} (a : Nat) (hev : Evolves s₀ t) : Evolves s₀ (s.follows t a) := by
  unfold State.follows
  dsimp only
  repeat' with_reducible first
    | assumption
    | apply State.portDown_ev
    | apply State.saEnabled_ev
    | apply State.latchMask_ev
    | apply State.preemptStart_ev
    | apply State.queueIdle_ev
    | apply State.dueFromNow_ev
    | refine ev_foldl ?_ (fun _ _ _ => ?_)
    | refine ev_ite ?_ ?_

theorem State.shaperWritten_ev {s₀ : State} {s : State} (k : Nat) (hev : Evolves s₀ s) :
    Evolves s₀ (State.shaperWritten s k) := by
  unfold State.shaperWritten
  try dsimp only
  repeat' with_reducible first
    | assumption | apply State.shapersTake_ev | refine ev_ite ?_ ?_ | refine ev_ite_fst ?_ ?_ | simp only [ev_mk]
    | split | intro _ | refine ev_of_eq (by assumption) ?_ | refine optAll_state (by assumption) ?_
    | refine optAll_fst (by assumption) ?_

theorem State.sliceWritten_ev {s₀ : State} {s : State} (q : Nat) (hev : Evolves s₀ s) :
    Evolves s₀ (State.sliceWritten s q) := by
  unfold State.sliceWritten
  try dsimp only
  repeat' with_reducible first
    | assumption | apply State.setForce_ev | refine ev_ite ?_ ?_ | refine ev_ite_fst ?_ ?_ | simp only [ev_mk] | split
    | intro _ | refine ev_of_eq (by assumption) ?_ | refine optAll_state (by assumption) ?_
    | refine optAll_fst (by assumption) ?_

theorem State.marks_ev {s₀ : State} {s : State} (a : Nat) (hev : Evolves s₀ s) :
    Evolves s₀ (State.marks s a) := by
  unfold State.marks
  try dsimp only
  repeat' with_reducible first
    | assumption | apply State.shaperWritten_ev | apply State.sliceWritten_ev | apply State.resetPolicer_ev
    | refine ev_ite ?_ ?_ | refine ev_ite_fst ?_ ?_ | simp only [ev_mk] | split | intro _
    | refine ev_of_eq (by assumption) ?_ | refine optAll_state (by assumption) ?_
    | refine optAll_fst (by assumption) ?_

theorem State.settle_ev {s₀ : State} {s : State} (a : Nat) (hev : Evolves s₀ s) :
    Evolves s₀ (State.settle s a) := by
  unfold State.settle
  try dsimp only
  repeat' with_reducible first
    | assumption | apply State.latchChecked_ev | apply State.ropeOff_ev | apply State.queueIdle_ev
    | refine ev_ite ?_ ?_ | simp only [ev_mk] | split | intro _ | refine ev_of_eq (by assumption) ?_

theorem State.plainAct_ev {s₀ : State} {s : State} (a n v : Nat) (hev : Evolves s₀ s) :
    Evolves s₀ (State.plainAct s a n v).1 := by
  unfold State.plainAct
  try dsimp only
  repeat' with_reducible first
    | assumption | apply State.refuse_ev | apply State.staticRefused_ev | apply State.storeWords_ev
    | apply State.follows_ev | apply State.marks_ev | apply State.settle_ev | apply State.done_ev
    | refine ev_ite ?_ ?_ | refine ev_ite_fst ?_ ?_ | refine ev_foldl ?_ (fun _ _ _ => ?_)
    | refine ev_foldl_fst ?_ (fun _ _ _ => ?_) | split | intro _

theorem State.resetHook_ev {s₀ : State} {s : State} (u : Nat) (hev : Evolves s₀ s) :
    Evolves s₀ (State.resetHook s u) := by
  unfold State.resetHook
  try dsimp only
  repeat' with_reducible first
    | assumption | apply State.tuReset_ev | apply State.cxeReset_ev | apply State.mpiReset_ev
    | apply State.ppReset_ev | apply State.emtReset_ev | apply State.tcmReset_ev | apply State.tmReset_ev
    | apply State.qeReset_ev | apply State.shxReset_ev | apply State.nvfReset_ev | apply State.igeReset_ev
    | apply State.svcReset_ev | refine ev_ite ?_ ?_ | split

theorem State.unitReset_ev {s₀ : State} {s : State} (u : Nat) (hev : Evolves s₀ s) :
    Evolves s₀ (State.unitReset s u) := by
  unfold State.unitReset
  try dsimp only
  repeat' with_reducible first
    | assumption | apply State.resetHook_ev | apply State.set_ev | apply State.setUnit_ev | refine ev_ite ?_ ?_
    | split

theorem State.freezeExpert_ev {s₀ : State} {s : State} (u : Nat) (hev : Evolves s₀ s) :
    Evolves s₀ (State.freezeExpert s u) := by
  unfold State.freezeExpert
  try dsimp only
  repeat' with_reducible first
    | assumption | apply State.setReg_ev | apply State.setForce_ev | refine ev_foldl ?_ (fun _ _ _ => ?_) | intro _

theorem State.setExpert_ev {s₀ : State} {s : State} (u : Nat) (on : Bool) (hev : Evolves s₀ s) :
    Evolves s₀ (State.setExpert s u on) := by
  unfold State.setExpert
  try dsimp only
  repeat' with_reducible first
    | assumption | apply State.freezeExpert_ev | apply State.set_ev | refine ev_ite ?_ ?_ | split

theorem State.holdHook_ev {s₀ : State} {s : State} (u : Nat) (hev : Evolves s₀ s) :
    Evolves s₀ (State.holdHook s u) := by
  unfold State.holdHook
  try dsimp only
  repeat' with_reducible first
    | assumption | apply State.tuHold_ev | apply State.tmTakeAll_ev | apply State.shxStands_ev | refine ev_ite ?_ ?_
    | refine ev_ite_fst ?_ ?_ | simp only [ev_mk] | split | intro _ | refine ev_of_eq (by assumption) ?_
    | refine optAll_state (by assumption) ?_ | refine optAll_fst (by assumption) ?_

theorem State.resumeHook_ev {s₀ : State} {s : State} (u : Nat) (hev : Evolves s₀ s) :
    Evolves s₀ (State.resumeHook s u) := by
  unfold State.resumeHook
  try dsimp only
  repeat' with_reducible first
    | assumption | apply State.mpiResume_ev | apply State.emtResume_ev | apply State.tcmResume_ev
    | apply State.qeResume_ev | apply State.shxResume_ev | apply State.nvfResume_ev | apply State.igeResume_ev
    | refine ev_ite ?_ ?_ | refine ev_ite_fst ?_ ?_ | simp only [ev_mk] | split | intro _
    | refine ev_of_eq (by assumption) ?_ | refine optAll_state (by assumption) ?_
    | refine optAll_fst (by assumption) ?_

theorem State.cascade_ev {s₀ : State} {s : State} (n0 : Nat) (hev : Evolves s₀ s) :
    Evolves s₀ (State.cascade s n0) := by
  induction n0 generalizing s with
  | zero =>
    unfold State.cascade
    repeat' with_reducible first
      | assumption | apply State.modBoot_ev | apply State.goReady_ev | simp only [ev_mk] | split | intro _
      | refine ev_of_eq (by assumption) ?_
  | succ n ih =>
    unfold State.cascade
    repeat' with_reducible first
      | assumption | apply ih | apply State.modBoot_ev | apply State.goReady_ev | simp only [ev_mk] | split | intro _
      | refine ev_of_eq (by assumption) ?_

theorem State.setHold_ev {s₀ : State} {s : State} (u : Nat) (on : Bool) (hev : Evolves s₀ s) :
    Evolves s₀ (State.setHold s u on) := by
  unfold State.setHold
  try dsimp only
  repeat' with_reducible first
    | assumption | apply State.set_ev | apply State.setUnit_ev | apply State.holdHook_ev | apply State.goReady_ev
    | apply State.resumeHook_ev | apply State.cascade_ev | refine ev_ite ?_ ?_ | refine ev_ite_fst ?_ ?_
    | simp only [ev_mk] | split | intro _ | refine ev_of_eq (by assumption) ?_
    | refine optAll_state (by assumption) ?_ | refine optAll_fst (by assumption) ?_

theorem State.unitGo_ev {s₀ : State} {s : State} (u : Nat) (hev : Evolves s₀ s) :
    Evolves s₀ (State.unitGo s u) := by
  unfold State.unitGo
  try dsimp only
  repeat' with_reducible first
    | assumption | apply State.goReady_ev | apply State.cascade_ev | refine ev_ite ?_ ?_ | refine ev_ite_fst ?_ ?_
    | simp only [ev_mk] | split | intro _ | refine ev_of_eq (by assumption) ?_
    | refine optAll_state (by assumption) ?_ | refine optAll_fst (by assumption) ?_

theorem State.ctrlAct_ev {s₀ : State} {s : State} (u : Nat) (expert hold reset go : Bool) (hev : Evolves s₀ s) :
    Evolves s₀ (State.ctrlAct s u expert hold reset go) := by
  unfold State.ctrlAct
  try dsimp only
  repeat' with_reducible first
    | assumption | apply State.unitReset_ev | apply State.setExpert_ev | apply State.setHold_ev
    | apply State.unitGo_ev | refine ev_ite ?_ ?_ | refine ev_ite_fst ?_ ?_ | simp only [ev_mk] | split | intro _
    | refine ev_of_eq (by assumption) ?_ | refine optAll_state (by assumption) ?_
    | refine optAll_fst (by assumption) ?_

theorem State.dueResets_ev {s₀ : State} {s : State} (hev : Evolves s₀ s) :
    Evolves s₀ (State.dueResets s) := by
  unfold State.dueResets
  try dsimp only
  repeat' with_reducible first
    | assumption | apply State.ctrlAct_ev | refine ev_ite ?_ ?_ | refine ev_ite_fst ?_ ?_
    | refine ev_foldl ?_ (fun _ _ _ => ?_) | refine ev_foldl_fst ?_ (fun _ _ _ => ?_) | simp only [ev_mk] | split
    | intro _ | refine ev_of_eq (by assumption) ?_ | refine optAll_state (by assumption) ?_
    | refine optAll_fst (by assumption) ?_

theorem State.ctrlWrite_ev {s₀ : State} {s : State} (o : Sys2Proof.Origin) (u : Nat) (expert hold reset go : Bool) (hev : Evolves s₀ s) :
    Evolves s₀ (State.ctrlWrite s o u expert hold reset go).1 := by
  unfold State.ctrlWrite
  try dsimp only
  repeat' with_reducible first
    | assumption | apply State.gate_ev | apply neverHeld_ev | apply State.refuse_ev | apply State.staticRefused_ev
    | apply State.done_ev | apply State.ctrlAct_ev | apply State.dueResets_ev | refine ev_ite ?_ ?_
    | refine ev_ite_fst ?_ ?_ | simp only [ev_mk] | split | intro _ | refine ev_of_eq (by assumption) ?_
    | refine optAll_state (by assumption) ?_ | refine optAll_fst (by assumption) ?_

theorem State.ifvSet_ev {s₀ : State} {s : State} (u level : Nat) (hev : Evolves s₀ s) :
    Evolves s₀ (State.ifvSet s u level) := by
  unfold State.ifvSet
  try dsimp only
  repeat' with_reducible first
    | assumption | apply State.setReg_ev | apply State.setForce_ev | apply State.set_ev | refine ev_ite ?_ ?_ | split

theorem State.ifvWrite_ev {s₀ : State} {s : State} (o : Sys2Proof.Origin) (u level : Nat) (hev : Evolves s₀ s) :
    Evolves s₀ (State.ifvWrite s o u level).1 := by
  unfold State.ifvWrite
  try dsimp only
  repeat' with_reducible first
    | assumption | apply State.gate_ev | apply State.staticRefused_ev | apply State.ifvSet_ev | apply State.refuse_ev
    | apply State.done_ev | refine ev_ite ?_ ?_ | refine ev_ite_fst ?_ ?_ | split | intro _

end Sys2Proof.Machine
end

