-- ==== Sys2Proof/Laws/EvolveHandover.lean ====
section
/-!
SUPPORT. What the definitions of Machine/Handover.lean keep.
-/

namespace Sys2Proof.Machine

set_option linter.all false

theorem execHandoverPauseEnd_ev {s₀ : State} {s : State} (role : Fin 4) (hev : Evolves s₀ s) :
    Leaves (Evolves s₀) (execHandoverPauseEnd role s) := by
  unfold execHandoverPauseEnd
  try dsimp only
  repeat' with_reducible first
    | assumption | apply State.pauseOver_ev | apply State.dueResets_ev | refine ev_ite ?_ ?_ | refine ev_ite_fst ?_ ?_
    | refine leaves_next ?_ | refine leaves_out ?_ | refine leaves_ite ?_ ?_ | simp only [ev_mk] | split | intro _
    | refine ev_of_eq (by assumption) ?_ | refine optAll_state (by assumption) ?_
    | refine optAll_fst (by assumption) ?_

theorem execYieldLimitExpiry_ev {s₀ : State} {s : State} (hev : Evolves s₀ s) :
    Leaves (Evolves s₀) (execYieldLimitExpiry s) := by
  unfold execYieldLimitExpiry
  try dsimp only
  repeat' with_reducible first
    | assumption | apply State.yieldLimit_ev | apply State.dueResets_ev | refine ev_ite ?_ ?_
    | refine ev_ite_fst ?_ ?_ | refine leaves_next ?_ | refine leaves_out ?_ | refine leaves_ite ?_ ?_
    | simp only [ev_mk] | split | intro _ | refine ev_of_eq (by assumption) ?_
    | refine optAll_state (by assumption) ?_ | refine optAll_fst (by assumption) ?_

theorem State.yieldTick_ev {s₀ : State} {s : State} (hev : Evolves s₀ s) :
    Evolves s₀ (State.yieldTick s) := by
  unfold State.yieldTick
  try dsimp only
  repeat' with_reducible first
    | assumption | apply State.yieldLimit_ev | apply State.dueResets_ev | refine ev_ite ?_ ?_
    | refine ev_ite_fst ?_ ?_ | simp only [ev_mk] | split | intro _ | refine ev_of_eq (by assumption) ?_
    | refine optAll_state (by assumption) ?_ | refine optAll_fst (by assumption) ?_

theorem execBankCopyEnd_ev {s₀ : State} {s : State} (kind : Fin 9) (hev : Evolves s₀ s) :
    Leaves (Evolves s₀) (execBankCopyEnd kind s) := by
  unfold execBankCopyEnd
  try dsimp only
  repeat' with_reducible first
    | assumption | apply State.copyEnds_ev | apply State.dueResets_ev | refine ev_ite ?_ ?_ | refine ev_ite_fst ?_ ?_
    | refine leaves_next ?_ | refine leaves_out ?_ | refine leaves_ite ?_ ?_ | simp only [ev_mk] | split | intro _
    | refine ev_of_eq (by assumption) ?_ | refine optAll_state (by assumption) ?_
    | refine optAll_fst (by assumption) ?_

theorem execScrubVisit_ev {s₀ : State} {s : State} (kind : Fin 9) (bank : Fin 17) (first : Bool) (error : Fin 3) (owner : Fin 24) (hev : Evolves s₀ s) :
    Leaves (Evolves s₀) (execScrubVisit kind bank first error owner s) := by
  unfold execScrubVisit
  try dsimp only
  repeat' with_reducible first
    | assumption | apply State.scrub_ev | apply State.dueResets_ev | refine ev_ite ?_ ?_ | refine ev_ite_fst ?_ ?_
    | refine leaves_next ?_ | refine leaves_out ?_ | refine leaves_ite ?_ ?_ | simp only [ev_mk] | split | intro _
    | refine ev_of_eq (by assumption) ?_ | refine optAll_state (by assumption) ?_
    | refine optAll_fst (by assumption) ?_

theorem State.yields_ev {s₀ : State} {s : State} (core : Nat) (hev : Evolves s₀ s) :
    Evolves s₀ (State.yields s core).1 := by
  unfold State.yields
  try dsimp only
  repeat' with_reducible first
    | assumption | apply State.coreYield_ev | apply State.dueResets_ev | refine ev_ite ?_ ?_ | refine ev_ite_fst ?_ ?_
    | simp only [ev_mk] | split | intro _ | refine ev_of_eq (by assumption) ?_
    | refine optAll_state (by assumption) ?_ | refine optAll_fst (by assumption) ?_

theorem execCoreYield_ev {s₀ : State} {s : State} (o : Sys2Proof.Origin) (core : Fin 26) (hev : Evolves s₀ s) :
    Leaves (Evolves s₀) (execCoreYield o core s) := by
  unfold execCoreYield
  try dsimp only
  repeat' with_reducible first
    | assumption | apply State.svcCmd_ev | apply State.yields_ev | refine ev_ite ?_ ?_ | refine ev_ite_fst ?_ ?_
    | refine leaves_next ?_ | refine leaves_out ?_ | refine leaves_ite ?_ ?_ | simp only [ev_mk] | split | intro _
    | refine ev_of_eq (by assumption) ?_ | refine optAll_state (by assumption) ?_
    | refine optAll_fst (by assumption) ?_

end Sys2Proof.Machine
end

