-- ==== Sys2Proof/Laws/EvolveJtag.lean ====
section
/-!
SUPPORT. What the definitions of Machine/Jtag.lean keep.
-/

namespace Sys2Proof.Machine

set_option linter.all false

theorem State.tap_ev {s₀ : State} {s : State} (i : TapInstr) (cells : List Bool) (out : List Bool) (hev : Evolves s₀ s) :
    Evolves s₀ (State.tap s i cells out) := by
  unfold State.tap
  try dsimp only
  repeat' with_reducible first
    | assumption | apply State.emit_ev | refine ev_ite ?_ ?_ | simp only [ev_mk] | split

theorem execJtagTrst_ev {s₀ : State} {s : State} (hev : Evolves s₀ s) :
    Leaves (Evolves s₀) (execJtagTrst s) := by
  unfold execJtagTrst
  try dsimp only
  repeat' with_reducible first
    | assumption | refine leaves_next ?_ | refine leaves_out ?_ | refine ev_ite ?_ ?_ | refine ev_ite_fst ?_ ?_
    | refine leaves_ite ?_ ?_ | simp only [ev_mk] | split

theorem execBypass_ev {s₀ : State} (tdi : List Bool) {s : State} (hev : Evolves s₀ s) :
    Leaves (Evolves s₀) (execBypass tdi s) := by
  unfold execBypass
  try dsimp only
  repeat' with_reducible first
    | assumption | apply State.tap_ev | refine leaves_next ?_ | refine leaves_out ?_

theorem execIdcode_ev {s₀ : State} {s : State} (hev : Evolves s₀ s) :
    Leaves (Evolves s₀) (execIdcode s) := by
  unfold execIdcode
  try dsimp only
  repeat' with_reducible first
    | assumption | apply State.tap_ev | refine leaves_next ?_ | refine leaves_out ?_

theorem execSamplePreload_ev {s₀ : State} (pins load : List Bool) {s : State} (hev : Evolves s₀ s) :
    Leaves (Evolves s₀) (execSamplePreload pins load s) := by
  unfold execSamplePreload
  try dsimp only
  repeat' with_reducible first
    | assumption | apply State.tap_ev | refine leaves_next ?_ | refine leaves_out ?_

theorem execExtest_ev {s₀ : State} (pins load : List Bool) {s : State} (hev : Evolves s₀ s) :
    Leaves (Evolves s₀) (execExtest pins load s) := by
  unfold execExtest
  try dsimp only
  repeat' with_reducible first
    | assumption | apply State.tap_ev | refine leaves_next ?_ | refine leaves_out ?_

theorem execExtestPulse_ev {s₀ : State} (pins load : List Bool) {s : State} (hev : Evolves s₀ s) :
    Leaves (Evolves s₀) (execExtestPulse pins load s) := by
  unfold execExtestPulse
  try dsimp only
  repeat' with_reducible first
    | assumption | apply State.tap_ev | refine leaves_next ?_ | refine leaves_out ?_

theorem execExtestTrain_ev {s₀ : State} (pins load : List Bool) {s : State} (hev : Evolves s₀ s) :
    Leaves (Evolves s₀) (execExtestTrain pins load s) := by
  unfold execExtestTrain
  try dsimp only
  repeat' with_reducible first
    | assumption | apply State.tap_ev | refine leaves_next ?_ | refine leaves_out ?_

theorem execClamp_ev {s₀ : State} (tdi : List Bool) {s : State} (hev : Evolves s₀ s) :
    Leaves (Evolves s₀) (execClamp tdi s) := by
  unfold execClamp
  try dsimp only
  repeat' with_reducible first
    | assumption | apply State.tap_ev | refine leaves_next ?_ | refine leaves_out ?_

theorem execHighz_ev {s₀ : State} (tdi : List Bool) {s : State} (hev : Evolves s₀ s) :
    Leaves (Evolves s₀) (execHighz tdi s) := by
  unfold execHighz
  try dsimp only
  repeat' with_reducible first
    | assumption | apply State.tap_ev | refine leaves_next ?_ | refine leaves_out ?_

end Sys2Proof.Machine
end

