-- ==== Sys2Proof/Laws/EvolveMgmt.lean ====
section
/-!
SUPPORT. What the definitions of Machine/Mgmt.lean keep.
-/

namespace Sys2Proof.Machine

set_option linter.all false

theorem execGetVersion_ev {s₀ : State} (m : BitVec 4 × BitVec 8) {s : State} (hev : Evolves s₀ s) :
    Leaves (Evolves s₀) (execGetVersion m s) := by
  unfold execGetVersion
  try dsimp only
  repeat' with_reducible first
    | assumption | apply State.naonantServe_ev | refine leaves_next ?_ | refine leaves_out ?_ | intro _

theorem execRestart_ev {s₀ : State} (m : BitVec 4 × BitVec 8) (confirm : Word) {s : State} (hev : Evolves s₀ s) :
    Leaves (Evolves s₀) (execRestart m confirm s) := by
  unfold execRestart
  try dsimp only
  repeat' with_reducible first
    | assumption | apply State.naonantServe_ev | apply State.notLead_ev | apply State.deviceRestart_ev
    | refine leaves_next ?_ | refine leaves_out ?_ | refine ev_ite ?_ ?_ | refine ev_ite_fst ?_ ?_
    | refine leaves_ite ?_ ?_ | split | intro _

theorem stageWords_ev {s₀ : State} (n0 : List Word) {s : State} (hev : Evolves s₀ s) :
    Evolves s₀ (stageWords n0 s).1 := by
  induction n0 generalizing s with
  | nil =>
    unfold stageWords
    repeat' with_reducible first
      | assumption | apply State.done_ev | apply State.stageData_ev | simp only [ev_mk] | split
      | refine ev_of_eq (by assumption) ?_
  | cons x l ih =>
    unfold stageWords
    repeat' with_reducible first
      | assumption | apply ih | apply State.done_ev | apply State.stageData_ev | simp only [ev_mk] | split
      | refine ev_of_eq (by assumption) ?_

theorem execStageWrite_ev {s₀ : State} (m : BitVec 4 × BitVec 8) (offset : Word) (data : List Byte) {s : State} (hev : Evolves s₀ s) :
    Leaves (Evolves s₀) (execStageWrite m offset data s) := by
  unfold execStageWrite
  try dsimp only
  repeat' with_reducible first
    | assumption | apply State.naonantServe_ev | apply State.stageAddr_ev | apply stageWords_ev
    | refine leaves_next ?_ | refine leaves_out ?_ | refine ev_ite ?_ ?_ | refine ev_ite_fst ?_ ?_
    | refine leaves_ite ?_ ?_ | split | intro _ | refine ev_of_eq (by assumption) ?_

theorem execTimeRead_ev {s₀ : State} (m : BitVec 4 × BitVec 8) {s : State} (hev : Evolves s₀ s) :
    Leaves (Evolves s₀) (execTimeRead m s) := by
  unfold execTimeRead
  try dsimp only
  repeat' with_reducible first
    | assumption | apply State.naonantServe_ev | refine leaves_next ?_ | refine leaves_out ?_ | intro _

theorem execAttestKey_ev {s₀ : State} (m : BitVec 4 × BitVec 8) (key : Option (List Byte)) {s : State} (hev : Evolves s₀ s) :
    Leaves (Evolves s₀) (execAttestKey m key s) := by
  unfold execAttestKey
  try dsimp only
  repeat' with_reducible first
    | assumption | apply State.naonantServe_ev | refine leaves_next ?_ | refine leaves_out ?_ | refine ev_ite ?_ ?_
    | refine ev_ite_fst ?_ ?_ | refine leaves_ite ?_ ?_ | simp only [ev_mk] | split | intro _
    | refine ev_of_eq (by assumption) ?_

theorem mgtDone_length (l : List Staged) : (mgtDone l).length ≤ l.length := by
  induction l with
  | nil => exact Nat.le_refl _
  | cons e l ih =>
    unfold mgtDone
    split
    · simpa using ih
    · split <;> simp

theorem State.eventGone_ev {s₀ s : State} (bytes : Option (List Byte)) (hev : Evolves s₀ s) :
    Evolves s₀ (s.eventGone bytes) := by
  have h := State.busStop_ev (State.putStaged_ev _ hev (mgtDone_length s.staged))
  unfold State.eventGone
  dsimp only
  split
  · exact State.tickFree_ev (State.emit_ev _ ((ev_mk rfl).2 h))
  · exact (ev_mk rfl).2 h

theorem State.tryEvent_ev {s₀ s miss : State} (taken : Bool) (hev : Evolves s₀ s) (hm : Evolves s₀ miss) :
    Evolves s₀ (s.tryEvent taken miss) := by
  unfold State.tryEvent
  repeat' with_reducible first
    | assumption
    | apply State.eventGone_ev
    | split

theorem execEventMessage_ev {s₀ : State} (taken : Bool) {s : State} (hev : Evolves s₀ s) :
    Leaves (Evolves s₀) (execEventMessage taken s) := by
  unfold execEventMessage
  try dsimp only
  repeat' with_reducible first
    | assumption | apply State.tryEvent_ev | refine leaves_next ?_ | refine leaves_out ?_ | refine ev_ite ?_ ?_
    | refine ev_ite_fst ?_ ?_ | refine leaves_ite ?_ ?_ | simp only [ev_mk] | split

theorem execEventRetry_ev {s₀ : State} (taken : Bool) {s : State} (hev : Evolves s₀ s) :
    Leaves (Evolves s₀) (execEventRetry taken s) := by
  unfold execEventRetry
  try dsimp only
  repeat' with_reducible first
    | assumption | apply State.eventGone_ev | apply State.tryEvent_ev | refine leaves_next ?_ | refine leaves_out ?_
    | refine ev_ite ?_ ?_ | refine ev_ite_fst ?_ ?_ | refine leaves_ite ?_ ?_ | simp only [ev_mk] | split

theorem State.mctp_ev {s₀ : State} {s : State} (iid : BitVec 5) (cmd cc : Nat) (body : List Byte) (hev : Evolves s₀ s) :
    Evolves s₀ (State.mctp s iid cmd cc body) := by
  unfold State.mctp
  try dsimp only
  repeat' with_reducible first
    | assumption | apply State.busStop_ev | apply State.emit_ev | refine ev_ite ?_ ?_ | split

theorem execSetEndpointId_ev {s₀ : State} (iid : BitVec 5) (src : BitVec 7) (eid : BitVec 8) {s : State} (hev : Evolves s₀ s) :
    Leaves (Evolves s₀) (execSetEndpointId iid src eid s) := by
  unfold execSetEndpointId
  try dsimp only
  repeat' with_reducible first
    | assumption | apply State.mctp_ev | apply State.set_ev | refine leaves_next ?_ | refine leaves_out ?_
    | refine ev_ite ?_ ?_ | refine ev_ite_fst ?_ ?_ | refine leaves_ite ?_ ?_ | simp only [ev_mk] | split

theorem execGetEndpointId_ev {s₀ : State} (iid : BitVec 5) {s : State} (hev : Evolves s₀ s) :
    Leaves (Evolves s₀) (execGetEndpointId iid s) := by
  unfold execGetEndpointId
  try dsimp only
  repeat' with_reducible first
    | assumption | apply State.mctp_ev | refine leaves_next ?_ | refine leaves_out ?_

theorem execGetMctpVersionSupport_ev {s₀ : State} (iid : BitVec 5) (type : BitVec 8) {s : State} (hev : Evolves s₀ s) :
    Leaves (Evolves s₀) (execGetMctpVersionSupport iid type s) := by
  unfold execGetMctpVersionSupport
  try dsimp only
  repeat' with_reducible first
    | assumption | apply State.mctp_ev | apply State.tickFree_ev | refine leaves_next ?_ | refine leaves_out ?_
    | refine ev_ite ?_ ?_ | refine ev_ite_fst ?_ ?_ | refine leaves_ite ?_ ?_ | split

theorem execGetMessageTypeSupport_ev {s₀ : State} (iid : BitVec 5) {s : State} (hev : Evolves s₀ s) :
    Leaves (Evolves s₀) (execGetMessageTypeSupport iid s) := by
  unfold execGetMessageTypeSupport
  try dsimp only
  repeat' with_reducible first
    | assumption | apply State.mctp_ev | refine leaves_next ?_ | refine leaves_out ?_

theorem execGetVendorDefinedMessageSupport_ev {s₀ : State} (iid : BitVec 5) (selector : BitVec 8) {s : State} (hev : Evolves s₀ s) :
    Leaves (Evolves s₀) (execGetVendorDefinedMessageSupport iid selector s) := by
  unfold execGetVendorDefinedMessageSupport
  try dsimp only
  repeat' with_reducible first
    | assumption | apply State.mctp_ev | apply State.tickFree_ev | refine leaves_next ?_ | refine leaves_out ?_
    | refine ev_ite ?_ ?_ | refine ev_ite_fst ?_ ?_ | refine leaves_ite ?_ ?_ | split

theorem execI3cDynamicAddress_ev {s₀ : State} (a : BitVec 7) {s : State} (hev : Evolves s₀ s) :
    Leaves (Evolves s₀) (execI3cDynamicAddress a s) := by
  unfold execI3cDynamicAddress
  try dsimp only
  repeat' with_reducible first
    | assumption | apply State.set_ev | refine leaves_next ?_ | refine leaves_out ?_ | refine ev_ite ?_ ?_
    | refine ev_ite_fst ?_ ?_ | refine leaves_ite ?_ ?_ | split

theorem State.pldm_ev {s₀ : State} {s : State} (iid : BitVec 5) (type cmd cc : Nat) (body : List Byte) (hev : Evolves s₀ s) :
    Evolves s₀ (State.pldm s iid type cmd cc body) := by
  unfold State.pldm
  try dsimp only
  repeat' with_reducible first
    | assumption | apply State.busStop_ev | apply State.emit_ev | refine ev_ite ?_ ?_ | split

theorem State.pldmAsks_ev {s₀ : State} {s : State} (cmd : Nat) (body : List Byte) (hev : Evolves s₀ s) :
    Evolves s₀ (State.pldmAsks s cmd body) := by
  unfold State.pldmAsks
  try dsimp only
  repeat' with_reducible first
    | assumption | apply State.emit_ev | apply State.tickFree_ev

theorem execGetTid_ev {s₀ : State} (iid : BitVec 5) {s : State} (hev : Evolves s₀ s) :
    Leaves (Evolves s₀) (execGetTid iid s) := by
  unfold execGetTid
  try dsimp only
  repeat' with_reducible first
    | assumption | apply State.pldm_ev | apply State.tickFree_ev | refine leaves_next ?_ | refine leaves_out ?_

theorem execGetPldmVersion_ev {s₀ : State} (iid : BitVec 5) (type : BitVec 8) {s : State} (hev : Evolves s₀ s) :
    Leaves (Evolves s₀) (execGetPldmVersion iid type s) := by
  unfold execGetPldmVersion
  try dsimp only
  repeat' with_reducible first
    | assumption | apply State.pldm_ev | apply State.tickFree_ev | refine leaves_next ?_ | refine leaves_out ?_
    | refine ev_ite ?_ ?_ | refine ev_ite_fst ?_ ?_ | refine leaves_ite ?_ ?_ | split

theorem execGetPldmTypes_ev {s₀ : State} (iid : BitVec 5) {s : State} (hev : Evolves s₀ s) :
    Leaves (Evolves s₀) (execGetPldmTypes iid s) := by
  unfold execGetPldmTypes
  try dsimp only
  repeat' with_reducible first
    | assumption | apply State.pldm_ev | refine leaves_next ?_ | refine leaves_out ?_

theorem execGetPldmCommands_ev {s₀ : State} (iid : BitVec 5) (type : BitVec 8) {s : State} (hev : Evolves s₀ s) :
    Leaves (Evolves s₀) (execGetPldmCommands iid type s) := by
  unfold execGetPldmCommands
  try dsimp only
  repeat' with_reducible first
    | assumption | apply State.pldm_ev | refine leaves_next ?_ | refine leaves_out ?_ | refine ev_ite ?_ ?_
    | refine ev_ite_fst ?_ ?_ | refine leaves_ite ?_ ?_ | split

theorem execGetPdrRepositoryInfo_ev {s₀ : State} (iid : BitVec 5) {s : State} (hev : Evolves s₀ s) :
    Leaves (Evolves s₀) (execGetPdrRepositoryInfo iid s) := by
  unfold execGetPdrRepositoryInfo
  try dsimp only
  repeat' with_reducible first
    | assumption | apply State.pldm_ev | apply State.tickFree_ev | refine leaves_next ?_ | refine leaves_out ?_

theorem execGetPdr_ev {s₀ : State} (iid : BitVec 5) {s : State} (hev : Evolves s₀ s) :
    Leaves (Evolves s₀) (execGetPdr iid s) := by
  unfold execGetPdr
  try dsimp only
  repeat' with_reducible first
    | assumption | apply State.pldm_ev | apply State.tickFree_ev | refine leaves_next ?_ | refine leaves_out ?_

theorem execGetSensorReading_ev {s₀ : State} (iid : BitVec 5) (sensor : BitVec 16) (reading : Word) {s : State} (hev : Evolves s₀ s) :
    Leaves (Evolves s₀) (execGetSensorReading iid sensor reading s) := by
  unfold execGetSensorReading
  try dsimp only
  repeat' with_reducible first
    | assumption | apply State.pldm_ev | refine leaves_next ?_ | refine leaves_out ?_ | refine ev_ite ?_ ?_
    | refine ev_ite_fst ?_ ?_ | refine leaves_ite ?_ ?_ | split

theorem execGetStateSensorReadings_ev {s₀ : State} (iid : BitVec 5) (sensor : BitVec 16) {s : State} (hev : Evolves s₀ s) :
    Leaves (Evolves s₀) (execGetStateSensorReadings iid sensor s) := by
  unfold execGetStateSensorReadings
  try dsimp only
  repeat' with_reducible first
    | assumption | apply State.pldm_ev | apply State.tickFree_ev | refine leaves_next ?_ | refine leaves_out ?_
    | refine ev_ite ?_ ?_ | refine ev_ite_fst ?_ ?_ | refine leaves_ite ?_ ?_ | split

theorem State.fd_ev {s₀ : State} {s : State} (st : Nat) (hev : Evolves s₀ s) :
    Evolves s₀ (State.fd s st) := by
  unfold State.fd
  try dsimp only
  repeat' with_reducible first
    | assumption | apply State.pldm_ev | simp only [ev_mk]

theorem State.fdWrong_ev {s₀ : State} {s : State} (iid : BitVec 5) (cmd : Nat) (hev : Evolves s₀ s) :
    Evolves s₀ (State.fdWrong s iid cmd) := by
  unfold State.fdWrong
  try dsimp only
  repeat' with_reducible first
    | assumption | apply State.pldm_ev | refine ev_ite ?_ ?_ | split

theorem execRequestUpdate_ev {s₀ : State} (iid : BitVec 5) {s : State} (hev : Evolves s₀ s) :
    Leaves (Evolves s₀) (execRequestUpdate iid s) := by
  unfold execRequestUpdate
  try dsimp only
  repeat' with_reducible first
    | assumption | apply State.pldm_ev | apply State.fd_ev | refine leaves_next ?_ | refine leaves_out ?_
    | refine ev_ite ?_ ?_ | refine ev_ite_fst ?_ ?_ | refine leaves_ite ?_ ?_ | split

theorem execPassComponentTable_ev {s₀ : State} (iid : BitVec 5) (last : Bool) {s : State} (hev : Evolves s₀ s) :
    Leaves (Evolves s₀) (execPassComponentTable iid last s) := by
  unfold execPassComponentTable
  try dsimp only
  repeat' with_reducible first
    | assumption | apply State.pldm_ev | apply State.fd_ev | apply State.fdWrong_ev | refine leaves_next ?_
    | refine leaves_out ?_ | refine ev_ite ?_ ?_ | refine ev_ite_fst ?_ ?_ | refine leaves_ite ?_ ?_ | split

theorem execUpdateComponent_ev {s₀ : State} (iid : BitVec 5) (component : BitVec 16) (size : Word) {s : State} (hev : Evolves s₀ s) :
    Leaves (Evolves s₀) (execUpdateComponent iid component size s) := by
  unfold execUpdateComponent
  try dsimp only
  repeat' with_reducible first
    | assumption | apply State.pldm_ev | apply State.fdWrong_ev | apply State.fd_ev | apply State.tickFree_ev
    | refine leaves_next ?_ | refine leaves_out ?_ | refine ev_ite ?_ ?_ | refine ev_ite_fst ?_ ?_
    | refine leaves_ite ?_ ?_ | simp only [ev_mk] | split

theorem execRequestFirmwareData_ev {s₀ : State} (data : List Byte) {s : State} (hev : Evolves s₀ s) :
    Leaves (Evolves s₀) (execRequestFirmwareData data s) := by
  unfold execRequestFirmwareData
  try dsimp only
  repeat' with_reducible first
    | assumption | apply State.pldm_ev | apply State.take_ev | apply State.pldmAsks_ev | apply State.emit_ev
    | apply State.startClocks_ev | refine leaves_next ?_ | refine leaves_out ?_ | refine ev_ite ?_ ?_
    | refine ev_ite_fst ?_ ?_ | refine leaves_ite ?_ ?_ | simp only [ev_mk] | refine ev_foldl ?_ (fun _ _ _ => ?_)
    | refine ev_foldl_fst ?_ (fun _ _ _ => ?_) | split | intro _

theorem execTransferComplete_ev {s₀ : State} {s : State} (hev : Evolves s₀ s) :
    Leaves (Evolves s₀) (execTransferComplete s) := by
  unfold execTransferComplete
  try dsimp only
  repeat' with_reducible first
    | assumption | apply State.pldm_ev | apply State.fd_ev | apply State.pldmAsks_ev | refine leaves_next ?_
    | refine leaves_out ?_ | refine ev_ite ?_ ?_ | refine ev_ite_fst ?_ ?_ | refine leaves_ite ?_ ?_ | split

theorem execVerifyComplete_ev {s₀ : State} (envelope image : List Byte) {s : State} (hev : Evolves s₀ s) :
    Leaves (Evolves s₀) (execVerifyComplete envelope image s) := by
  unfold execVerifyComplete
  try dsimp only
  repeat' with_reducible first
    | assumption | apply State.fd_ev | apply State.pldmAsks_ev | refine leaves_next ?_ | refine leaves_out ?_
    | refine ev_ite ?_ ?_ | refine ev_ite_fst ?_ ?_ | refine leaves_ite ?_ ?_ | simp only [ev_mk] | split
    | refine ev_of_eq (by assumption) ?_

theorem execApplyComplete_ev {s₀ : State} {s : State} (hev : Evolves s₀ s) :
    Leaves (Evolves s₀) (execApplyComplete s) := by
  unfold execApplyComplete
  try dsimp only
  repeat' with_reducible first
    | assumption | apply State.startClocks_ev | apply State.emit_ev | apply State.fd_ev | apply State.pldmAsks_ev
    | refine leaves_next ?_ | refine leaves_out ?_ | refine ev_ite ?_ ?_ | refine ev_ite_fst ?_ ?_
    | refine leaves_ite ?_ ?_ | split

theorem execActivateFirmware_ev {s₀ : State} (iid : BitVec 5) {s : State} (hev : Evolves s₀ s) :
    Leaves (Evolves s₀) (execActivateFirmware iid s) := by
  unfold execActivateFirmware
  try dsimp only
  repeat' with_reducible first
    | assumption | apply State.pldm_ev | apply State.fd_ev | apply State.tickFree_ev | apply State.fdWrong_ev
    | refine leaves_next ?_ | refine leaves_out ?_ | refine ev_ite ?_ ?_ | refine ev_ite_fst ?_ ?_
    | refine leaves_ite ?_ ?_ | split

theorem execGetStatus_ev {s₀ : State} (iid : BitVec 5) {s : State} (hev : Evolves s₀ s) :
    Leaves (Evolves s₀) (execGetStatus iid s) := by
  unfold execGetStatus
  try dsimp only
  repeat' with_reducible first
    | assumption | apply State.pldm_ev | apply State.tickFree_ev | refine leaves_next ?_ | refine leaves_out ?_

theorem execCancelUpdate_ev {s₀ : State} (iid : BitVec 5) {s : State} (hev : Evolves s₀ s) :
    Leaves (Evolves s₀) (execCancelUpdate iid s) := by
  unfold execCancelUpdate
  try dsimp only
  repeat' with_reducible first
    | assumption | apply State.pldm_ev | apply State.fdWrong_ev | apply State.fd_ev | refine leaves_next ?_
    | refine leaves_out ?_ | refine ev_ite ?_ ?_ | refine ev_ite_fst ?_ ?_ | refine leaves_ite ?_ ?_ | split

theorem State.spdm_ev {s₀ : State} {s : State} (body : List Byte) (hev : Evolves s₀ s) :
    Evolves s₀ (State.spdm s body) := by
  unfold State.spdm
  try dsimp only
  repeat' with_reducible first
    | assumption | apply State.busStop_ev | apply State.emit_ev | refine ev_ite ?_ ?_ | split

theorem execSpdmGetVersion_ev {s₀ : State} {s : State} (hev : Evolves s₀ s) :
    Leaves (Evolves s₀) (execSpdmGetVersion s) := by
  unfold execSpdmGetVersion
  try dsimp only
  repeat' with_reducible first
    | assumption | apply State.spdm_ev | refine leaves_next ?_ | refine leaves_out ?_

theorem execGetCapabilities_ev {s₀ : State} {s : State} (hev : Evolves s₀ s) :
    Leaves (Evolves s₀) (execGetCapabilities s) := by
  unfold execGetCapabilities
  try dsimp only
  repeat' with_reducible first
    | assumption | apply State.spdm_ev | apply State.tickFree_ev | refine leaves_next ?_ | refine leaves_out ?_

theorem execNegotiateAlgorithms_ev {s₀ : State} {s : State} (hev : Evolves s₀ s) :
    Leaves (Evolves s₀) (execNegotiateAlgorithms s) := by
  unfold execNegotiateAlgorithms
  try dsimp only
  repeat' with_reducible first
    | assumption | apply State.spdm_ev | refine leaves_next ?_ | refine leaves_out ?_

theorem State.spdmRelay_ev {s₀ : State} {s : State} (req : List Byte) (answer : Option (List Byte)) (hev : Evolves s₀ s) :
    Evolves s₀ (State.spdmRelay s req answer) := by
  unfold State.spdmRelay
  try dsimp only
  repeat' with_reducible first
    | assumption | apply State.spdm_ev | apply State.answer_ev | apply State.emit_ev | refine ev_ite ?_ ?_
    | refine ev_ite_fst ?_ ?_ | simp only [ev_mk] | split | refine ev_of_eq (by assumption) ?_

theorem execChallenge_ev {s₀ : State} (req : List Byte) (answer : Option (List Byte)) {s : State} (hev : Evolves s₀ s) :
    Leaves (Evolves s₀) (execChallenge req answer s) := by
  unfold execChallenge
  try dsimp only
  repeat' with_reducible first
    | assumption | apply State.spdmRelay_ev | apply State.answer_ev | refine leaves_next ?_ | refine leaves_out ?_

theorem execGetMeasurements_ev {s₀ : State} (req : List Byte) (answer : Option (List Byte)) {s : State} (hev : Evolves s₀ s) :
    Leaves (Evolves s₀) (execGetMeasurements req answer s) := by
  unfold execGetMeasurements
  try dsimp only
  repeat' with_reducible first
    | assumption | apply State.spdmRelay_ev | apply State.answer_ev | refine leaves_next ?_ | refine leaves_out ?_

end Sys2Proof.Machine
end

