-- ==== Sys2Proof/Laws/EvolvePowerOps.lean ====
section
/-!
SUPPORT. What the definitions of Machine/PowerOps.lean keep.
-/

namespace Sys2Proof.Machine

set_option linter.all false

theorem State.pwrStatus_ev {s₀ : State} {s : State} (st : Nat) (hev : Evolves s₀ s) :
    Evolves s₀ (State.pwrStatus s st) := by
  unfold State.pwrStatus
  try dsimp only
  repeat' with_reducible first
    | assumption | apply State.set_ev

theorem State.pwrBegin_ev {s₀ : State} {s : State} (run : Nat) (hev : Evolves s₀ s) :
    Evolves s₀ (State.pwrBegin s run) := by
  unfold State.pwrBegin
  try dsimp only
  repeat' with_reducible first
    | assumption | apply State.set_ev | apply State.pwrStatus_ev | simp only [ev_mk]

theorem State.enterBivouac_ev {s₀ : State} {s : State} (hev : Evolves s₀ s) :
    Evolves s₀ (State.enterBivouac s) := by
  unfold State.enterBivouac
  try dsimp only
  repeat' with_reducible first
    | assumption | apply State.pwrBegin_ev | apply State.set_ev | apply State.power_ev | apply psENTERING_ev
    | apply State.svcAbandon_ev | apply State.modTime_ev | apply State.linkDown_ev | refine ev_ite ?_ ?_
    | refine ev_ite_fst ?_ ?_ | simp only [ev_mk] | split | intro _ | refine ev_of_eq (by assumption) ?_
    | refine optAll_state (by assumption) ?_ | refine optAll_fst (by assumption) ?_

theorem State.beginWake_ev {s₀ : State} {s : State} (target cause : Nat) (hev : Evolves s₀ s) :
    Evolves s₀ (State.beginWake s target cause) := by
  unfold State.beginWake
  try dsimp only
  repeat' with_reducible first
    | assumption | apply State.pwrBegin_ev | apply State.set_ev

theorem State.runReq_ev {s₀ : State} {s : State} (target cause : Nat) (hev : Evolves s₀ s) :
    Evolves s₀ (State.runReq s target cause) := by
  unfold State.runReq
  try dsimp only
  repeat' with_reducible first
    | assumption | apply State.pwrStatus_ev | apply State.enterBivouac_ev | apply State.raise_ev
    | apply State.beginWake_ev | apply State.pwrBegin_ev | refine ev_ite ?_ ?_ | split

theorem State.powerReq_ev {s₀ : State} {s : State} (target cause : Nat) (hev : Evolves s₀ s) :
    Evolves s₀ (State.powerReq s target cause) := by
  unfold State.powerReq
  try dsimp only
  repeat' with_reducible first
    | assumption | apply State.set_ev | apply State.pwrStatus_ev | apply State.runReq_ev | refine ev_ite ?_ ?_
    | simp only [ev_mk] | split

theorem State.powerWrite_ev {s₀ : State} {s : State} (o : Sys2Proof.Origin) (target : Nat) (hev : Evolves s₀ s) :
    Evolves s₀ (State.powerWrite s o target).1 := by
  unfold State.powerWrite
  try dsimp only
  repeat' with_reducible first
    | assumption | apply State.gate_ev | apply State.pwrStatus_ev | apply State.raise_ev | apply State.powerReq_ev
    | apply State.done_ev | refine ev_ite ?_ ?_ | refine ev_ite_fst ?_ ?_ | split | intro _

theorem State.powerMsg_ev {s₀ : State} {s : State} (o : Sys2Proof.Origin) (msg : Option (BitVec 4 × BitVec 8)) (target : Nat) (hev : Evolves s₀ s) :
    Evolves s₀ (State.powerMsg s o msg target) := by
  unfold State.powerMsg
  try dsimp only
  repeat' with_reducible first
    | assumption | apply State.powerWrite_ev | apply State.naonantServe_ev | apply State.powerReq_ev
    | refine ev_ite ?_ ?_ | refine ev_ite_fst ?_ ?_ | simp only [ev_mk] | split | intro _
    | refine ev_of_eq (by assumption) ?_

theorem State.clockTick_ev {s₀ : State} {s : State} (hev : Evolves s₀ s) :
    Evolves s₀ (State.clockTick s) := by
  unfold State.clockTick
  try dsimp only
  repeat' with_reducible first
    | assumption | apply State.power_ev | apply psCAMP_ev | apply State.startClocks_ev | apply State.busyClock_ev
    | refine ev_ite ?_ ?_ | refine ev_ite_fst ?_ ?_ | simp only [ev_mk] | split | intro _
    | refine ev_of_eq (by assumption) ?_ | refine optAll_state (by assumption) ?_
    | refine optAll_fst (by assumption) ?_

theorem State.prestart_ev {s₀ : State} {s : State} (k b : Nat) (cs : List Nat) (hev : Evolves s₀ s) :
    Evolves s₀ (State.prestart s k b cs) := by
  unfold State.prestart
  try dsimp only
  repeat' with_reducible first
    | assumption | apply State.startClocks_ev | apply State.modTime_ev | refine ev_ite ?_ ?_ | refine ev_ite_fst ?_ ?_
    | simp only [ev_mk] | split | intro _ | refine ev_of_eq (by assumption) ?_
    | refine optAll_state (by assumption) ?_ | refine optAll_fst (by assumption) ?_

theorem State.spreadWrite_ev {s₀ : State} {s : State} (o : Sys2Proof.Origin) (v : Word) (hev : Evolves s₀ s) :
    Evolves s₀ (State.spreadWrite s o v).1 := by
  unfold State.spreadWrite
  try dsimp only
  repeat' with_reducible first
    | assumption | apply State.gate_ev | apply State.spreadBad_ev | apply State.refuse_ev | apply State.set_ev
    | apply State.done_ev | refine ev_ite ?_ ?_ | refine ev_ite_fst ?_ ?_ | simp only [ev_mk] | split | intro _
    | refine ev_of_eq (by assumption) ?_ | refine optAll_state (by assumption) ?_
    | refine optAll_fst (by assumption) ?_

end Sys2Proof.Machine
end

