-- ==== Sys2Proof/Laws/EvolvePower.lean ====
section
/-!
SUPPORT. What the definitions of Machine/Power.lean keep.
-/

namespace Sys2Proof.Machine

set_option linter.all false

theorem execPowerSummit_ev {s₀ : State} (o : Sys2Proof.Origin) (msg : Option (BitVec 4 × BitVec 8)) {s : State} (hev : Evolves s₀ s) :
    Leaves (Evolves s₀) (execPowerSummit o msg s) := by
  unfold execPowerSummit
  try dsimp only
  repeat' with_reducible first
    | assumption | apply State.powerMsg_ev | refine leaves_next ?_ | refine leaves_out ?_

theorem execPowerCamp_ev {s₀ : State} (o : Sys2Proof.Origin) (msg : Option (BitVec 4 × BitVec 8)) {s : State} (hev : Evolves s₀ s) :
    Leaves (Evolves s₀) (execPowerCamp o msg s) := by
  unfold execPowerCamp
  try dsimp only
  repeat' with_reducible first
    | assumption | apply State.powerMsg_ev | refine leaves_next ?_ | refine leaves_out ?_

theorem execPowerBivouac_ev {s₀ : State} (o : Sys2Proof.Origin) (msg : Option (BitVec 4 × BitVec 8)) {s : State} (hev : Evolves s₀ s) :
    Leaves (Evolves s₀) (execPowerBivouac o msg s) := by
  unfold execPowerBivouac
  try dsimp only
  repeat' with_reducible first
    | assumption | apply State.powerMsg_ev | refine leaves_next ?_ | refine leaves_out ?_

theorem State.keepNow_ev {s₀ : State} {s : State} (hev : Evolves s₀ s) :
    Evolves s₀ (State.keepNow s) := by
  unfold State.keepNow
  try dsimp only
  repeat' with_reducible first
    | assumption | simp only [ev_mk]

theorem State.transitionEnds_ev {s₀ : State} {s : State} (st : Nat) (hev : Evolves s₀ s) :
    Evolves s₀ (State.transitionEnds s st) := by
  unfold State.transitionEnds
  try dsimp only
  repeat' with_reducible first
    | assumption | apply State.set_ev | apply State.raise_ev | apply State.pwrStatus_ev | apply State.runReq_ev
    | refine ev_ite ?_ ?_ | simp only [ev_mk] | split

theorem execPowerState_ev {s₀ : State} {s : State} (hev : Evolves s₀ s) :
    Leaves (Evolves s₀) (execPowerState s) := by
  unfold execPowerState
  try dsimp only
  repeat' with_reducible first
    | assumption | apply State.transitionEnds_ev | apply State.keepNow_ev | apply State.powerDown_ev
    | apply State.modBoot_ev | apply State.set_ev | refine leaves_next ?_ | refine leaves_out ?_
    | refine ev_ite ?_ ?_ | refine ev_ite_fst ?_ ?_ | refine leaves_ite ?_ ?_ | simp only [ev_mk] | split | intro _
    | refine ev_of_eq (by assumption) ?_

theorem execD3hotEntry_ev {s₀ : State} (f : Fin 4) {s : State} (hev : Evolves s₀ s) :
    Leaves (Evolves s₀) (execD3hotEntry f s) := by
  unfold execD3hotEntry
  try dsimp only
  repeat' with_reducible first
    | assumption | apply State.set_ev | apply State.powerReq_ev | refine leaves_next ?_ | refine leaves_out ?_
    | refine ev_ite ?_ ?_ | refine ev_ite_fst ?_ ?_ | refine leaves_ite ?_ ?_ | split | intro _

theorem execWakeTrip_ev {s₀ : State} {s : State} (i : Fin 2) (mv : BitVec 12) (cycles : BitVec 16) (hev : Evolves s₀ s) :
    Leaves (Evolves s₀) (execWakeTrip i mv cycles s) := by
  unfold execWakeTrip
  try dsimp only
  repeat' with_reducible first
    | assumption | apply State.returned_ev | apply State.set_ev | apply State.beyond_ev | apply State.raise_ev
    | apply State.powerReq_ev | refine ev_ite ?_ ?_ | refine ev_ite_fst ?_ ?_ | refine leaves_next ?_
    | refine leaves_out ?_ | refine leaves_ite ?_ ?_ | simp only [ev_mk] | split | intro _
    | refine ev_of_eq (by assumption) ?_ | refine optAll_state (by assumption) ?_
    | refine optAll_fst (by assumption) ?_

theorem execWakePowerUp_ev {s₀ s : State} (hev : Evolves s₀ s) : Leaves (Evolves s₀) (execWakePowerUp s) := by
  have h (p : Nat → Bool) : Evolves s₀ { s with regs := keepRegs p s.regs, force := keepRegs p s.force } :=
    hev.trans ⟨rfl, List.prefix_rfl, Nat.le_refl _, Fuses.Grown.refl _, swf_filter resetWord _ _, srising_filter 0 _ _, id⟩
  unfold execWakePowerUp
  refine leaves_next (ev_ite ?_ hev)
  extract_lets s1 s2 s3
  have h1 : Evolves s₀ s1 := ev_ite hev (h _)
  clear_value s1
  have h2 : Evolves s₀ s2 := State.modBoot_ev _ (State.modTime_ev _ h1)
  clear_value s2
  repeat' with_reducible first
    | assumption
    | apply State.stepDone_ev
    | apply State.set_ev
    | apply State.modBoot_ev
    | apply State.modTime_ev
    | refine ev_ite ?_ ?_

theorem execClockStop_ev {s₀ : State} (c : Fin 55) {s : State} (hev : Evolves s₀ s) :
    Leaves (Evolves s₀) (execClockStop c s) := by
  unfold execClockStop
  try dsimp only
  repeat' with_reducible first
    | assumption | refine leaves_next ?_ | refine leaves_out ?_ | refine ev_ite ?_ ?_ | refine ev_ite_fst ?_ ?_
    | refine leaves_ite ?_ ?_ | simp only [ev_mk] | split

theorem execSpreadWrite_ev {s₀ : State} (o : Sys2Proof.Origin) (v : Word) {s : State} (hev : Evolves s₀ s) :
    Leaves (Evolves s₀) (execSpreadWrite o v s) := by
  unfold execSpreadWrite
  try dsimp only
  repeat' with_reducible first
    | assumption | apply State.spreadWrite_ev | refine leaves_next ?_ | refine leaves_out ?_

theorem execSpreadChange_ev {s₀ : State} (c : Fin 10) {s : State} (hev : Evolves s₀ s) :
    Leaves (Evolves s₀) (execSpreadChange c s) := by
  unfold execSpreadChange
  try dsimp only
  repeat' with_reducible first
    | assumption | apply State.set_ev | refine leaves_next ?_ | refine leaves_out ?_ | refine ev_ite ?_ ?_
    | refine ev_ite_fst ?_ ?_ | refine leaves_ite ?_ ?_ | simp only [ev_mk] | split

theorem execAonBrownout_ev {s₀ : State} {s : State} (hev : Evolves s₀ s) :
    Leaves (Evolves s₀) (execAonBrownout s) := by
  unfold execAonBrownout
  try dsimp only
  repeat' with_reducible first
    | assumption | apply State.blank_ev | refine leaves_next ?_ | refine leaves_out ?_ | simp only [ev_mk]

theorem execPowerUp_ev {s₀ : State} {s : State} (hev : Evolves s₀ s) :
    Leaves (Evolves s₀) (execPowerUp s) := by
  unfold execPowerUp
  try dsimp only
  repeat' with_reducible first
    | assumption | apply State.blank_ev | refine leaves_next ?_ | refine leaves_out ?_ | refine ev_ite ?_ ?_
    | refine ev_ite_fst ?_ ?_ | refine leaves_ite ?_ ?_ | simp only [ev_mk] | split

theorem execPrestart_ev {s₀ : State} (r : Fin 16) {s : State} (hev : Evolves s₀ s) :
    Leaves (Evolves s₀) (execPrestart r s) := by
  unfold execPrestart
  try dsimp only
  repeat' with_reducible first
    | assumption | apply State.prestart_ev | refine leaves_next ?_ | refine leaves_out ?_ | refine ev_ite ?_ ?_
    | refine ev_ite_fst ?_ ?_ | refine leaves_ite ?_ ?_ | split

theorem execPrestartDeadline_ev {s₀ : State} (r : Fin 16) {s : State} (hev : Evolves s₀ s) :
    Leaves (Evolves s₀) (execPrestartDeadline r s) := by
  unfold execPrestartDeadline
  try dsimp only
  repeat' with_reducible first
    | assumption | apply State.prestart_ev | refine leaves_next ?_ | refine leaves_out ?_ | refine ev_ite ?_ ?_
    | refine ev_ite_fst ?_ ?_ | refine leaves_ite ?_ ?_ | split

theorem execPrestartPlacement_ev {s₀ : State} {s : State} (hev : Evolves s₀ s) :
    Leaves (Evolves s₀) (execPrestartPlacement s) := by
  unfold execPrestartPlacement
  try dsimp only
  repeat' with_reducible first
    | assumption | apply State.prestart_ev | refine leaves_next ?_ | refine leaves_out ?_ | refine ev_ite ?_ ?_
    | refine ev_ite_fst ?_ ?_ | refine leaves_ite ?_ ?_ | simp only [ev_mk] | split
    | refine ev_of_eq (by assumption) ?_

end Sys2Proof.Machine
end

