-- ==== Sys2Proof/Laws/EvolveRegs.lean ====
section
/-!
SUPPORT. What the definitions of Machine/Regs.lean keep.
-/

namespace Sys2Proof.Machine

set_option linter.all false

theorem State.noAct_ev {s₀ : State} {s : State} (o : Sys2Proof.Origin) (a : Nat) (hev : Evolves s₀ s) :
    Evolves s₀ (State.noAct s o a).1 := by
  unfold State.noAct
  try dsimp only
  repeat' with_reducible first
    | assumption | apply State.gate_ev | apply State.done_ev | refine ev_ite ?_ ?_ | refine ev_ite_fst ?_ ?_
    | simp only [ev_mk] | split | intro _ | refine ev_of_eq (by assumption) ?_
    | refine optAll_state (by assumption) ?_ | refine optAll_fst (by assumption) ?_

theorem State.ownLow_ev {s₀ : State} {s : State} (o : Sys2Proof.Origin) (a n v : Nat) (hev : Evolves s₀ s) :
    OptAll (fun r => Evolves s₀ r.1) (State.ownLow s o a n v) := by
  unfold State.ownLow
  try dsimp only
  repeat' with_reducible first
    | exact optAll_none | refine optAll_some ?_ | refine optAll_foldl ?_ (fun _ _ _ => ?_) | assumption
    | apply State.plainAct_ev | apply State.powerWrite_ev | apply State.spreadWrite_ev | apply State.leadWrite_ev
    | apply State.gate_ev | apply State.refuse_ev | apply State.fuseCmd_ev | apply State.bootRelease_ev
    | apply State.stageAddr_ev | apply State.stageData_ev | apply State.stageCmd_ev | apply State.tuWrite_ev
    | apply State.done_ev | apply State.alignWrite_ev | apply State.snap_ev | apply State.txTail_ev
    | apply State.domainCmd_ev | apply State.wdogWrite_ev | apply State.domainStep_ev | apply State.tpoStop_ev
    | apply State.tpoArm_ev | refine ev_ite ?_ ?_ | refine ev_ite_fst ?_ ?_ | refine optAll_ite ?_ ?_
    | simp only [ev_mk] | split | intro _ | refine ev_of_eq (by assumption) ?_
    | refine optAll_state (by assumption) ?_ | refine optAll_fst (by assumption) ?_

theorem State.cxeSliceWrite_ev {s₀ : State} {s : State} (o : Sys2Proof.Origin) (a v : Nat) (hev : Evolves s₀ s) :
    Evolves s₀ (State.cxeSliceWrite s o a v).1 := by
  unfold State.cxeSliceWrite
  try dsimp only
  repeat' with_reducible first
    | assumption | apply State.gate_ev | apply State.done_ev | apply State.refuse_ev | refine ev_ite ?_ ?_
    | refine ev_ite_fst ?_ ?_ | simp only [ev_mk] | split | intro _

theorem State.poolWrite_ev {s₀ : State} {s : State} (o : Sys2Proof.Origin) (a v : Nat) (hev : Evolves s₀ s) :
    Evolves s₀ (State.poolWrite s o a v).1 := by
  unfold State.poolWrite
  try dsimp only
  repeat' with_reducible first
    | assumption | apply State.gate_ev | apply State.refuse_ev | apply State.done_ev | apply State.modMpi_ev
    | refine ev_ite ?_ ?_ | refine ev_ite_fst ?_ ?_ | simp only [ev_mk] | split | intro _

theorem State.notOwned_ev {s₀ : State} {s : State} (o : Sys2Proof.Origin) (a : Nat) (hev : Evolves s₀ s) :
    Evolves s₀ (State.notOwned s o a).1 := by
  unfold State.notOwned
  try dsimp only
  repeat' with_reducible first
    | assumption | apply State.gate_ev | apply State.done_ev

theorem State.ownCyclic_ev {s₀ : State} {s : State} (o : Sys2Proof.Origin) (a v : Nat) (hev : Evolves s₀ s) :
    OptAll (fun r => Evolves s₀ r.1) (State.ownCyclic s o a v) := by
  unfold State.ownCyclic
  try dsimp only
  repeat' with_reducible first
    | exact optAll_none | refine optAll_some ?_ | refine optAll_foldl ?_ (fun _ _ _ => ?_) | assumption
    | apply State.ropeCtrl_ev | apply State.commit_ev | apply State.notOwned_ev
    | apply State.noAct_ev | apply State.cxeSliceWrite_ev | apply State.recover_ev | apply State.axisRelease_ev
    | apply State.pushSlot_ev | apply State.camCheck_ev | apply State.camWithdraw_ev | apply State.poolWrite_ev
    | refine ev_ite ?_ ?_ | refine ev_ite_fst ?_ ?_ | refine optAll_ite ?_ ?_ | simp only [ev_mk] | split | intro _
    | refine ev_of_eq (by assumption) ?_ | refine optAll_state (by assumption) ?_
    | refine optAll_fst (by assumption) ?_

theorem State.quotaWrite_ev {s₀ : State} {s : State} (o : Sys2Proof.Origin) (i limit : Nat) (hev : Evolves s₀ s) :
    Evolves s₀ (State.quotaWrite s o i limit).1 := by
  unfold State.quotaWrite
  try dsimp only
  repeat' with_reducible first
    | assumption | apply State.gate_ev | apply State.done_ev | refine ev_ite ?_ ?_ | refine ev_ite_fst ?_ ?_
    | simp only [ev_mk] | split | intro _

theorem State.ownTables_ev {s₀ : State} {s : State} (o : Sys2Proof.Origin) (a n v : Nat) (hev : Evolves s₀ s) :
    OptAll (fun r => Evolves s₀ r.1) (State.ownTables s o a n v) := by
  unfold State.ownTables
  try dsimp only
  repeat' with_reducible first
    | exact optAll_none | refine optAll_some ?_ | refine optAll_foldl ?_ (fun _ _ _ => ?_) | assumption
    | apply State.indirWrite_ev | apply State.gate_ev | apply State.refuse_ev | apply State.emtCmd_ev
    | apply State.emtDoorbell_ev | apply State.quotaWrite_ev | apply State.noAct_ev | apply State.tcmCmd_ev
    | apply State.gclArm_ev | apply State.notOwned_ev | refine ev_ite ?_ ?_ | refine ev_ite_fst ?_ ?_
    | refine optAll_ite ?_ ?_ | simp only [ev_mk] | split | intro _ | refine ev_of_eq (by assumption) ?_
    | refine optAll_state (by assumption) ?_ | refine optAll_fst (by assumption) ?_

theorem State.sliceCommand_ev {s₀ : State} {s : State} (o : Sys2Proof.Origin) (k op : Nat) (hev : Evolves s₀ s) :
    Evolves s₀ (State.sliceCommand s o k op).1 := by
  unfold State.sliceCommand
  try dsimp only
  repeat' with_reducible first
    | assumption | apply State.done_ev | apply State.sliceCmd_ev | apply State.freezeSlice_ev
    | apply State.thawSlice_ev | apply State.saveSlice_ev | apply State.restoreBegin_ev | apply State.sliceRelease_ev
    | apply State.toSlice_ev | apply State.nvSweep_ev | apply State.gate_ev | apply State.refuse_ev
    | simp only [ev_mk] | split | intro _ | refine ev_of_eq (by assumption) ?_

theorem State.ownHost_ev {s₀ : State} {s : State} (o : Sys2Proof.Origin) (a v : Nat) (hev : Evolves s₀ s) :
    OptAll (fun r => Evolves s₀ r.1) (State.ownHost s o a v) := by
  unfold State.ownHost
  try dsimp only
  repeat' with_reducible first
    | exact optAll_none | refine optAll_some ?_ | refine optAll_foldl ?_ (fun _ _ _ => ?_) | assumption
    | apply State.cfgWrite_ev | apply State.bindWrite_ev | apply State.sliceCommand_ev | apply State.shareWrite_ev
    | apply State.noAct_ev | apply State.routeWrite_ev | apply State.queueDoorbell_ev
    | apply State.notOwned_ev | apply State.qCommand_ev | refine ev_ite ?_ ?_ | refine ev_ite_fst ?_ ?_
    | refine optAll_ite ?_ ?_ | simp only [ev_mk] | split | intro _ | refine ev_of_eq (by assumption) ?_
    | refine optAll_state (by assumption) ?_ | refine optAll_fst (by assumption) ?_

theorem State.regionShareWrite_ev {s₀ : State} {s : State} (o : Sys2Proof.Origin) (k v : Nat) (hev : Evolves s₀ s) :
    Evolves s₀ (State.regionShareWrite s o k v).1 := by
  unfold State.regionShareWrite
  try dsimp only
  repeat' with_reducible first
    | assumption | apply State.gate_ev | apply State.done_ev | apply State.refuse_ev | refine ev_ite ?_ ?_
    | refine ev_ite_fst ?_ ?_ | simp only [ev_mk] | split | intro _

/-- What the command that an opcode of SHX_CMD spells keeps. -/

theorem shxOp_ev {s₀ s : State} (o : Sys2Proof.Origin) (op : Nat) (k : Option Nat) (e : List Byte) (hev : Evolves s₀ s) :
    Evolves s₀ (shxOp o op s k e).1 := by
  unfold shxOp
  repeat' with_reducible first
    | assumption | apply State.regionDeregister_ev | apply State.ringCtl_ev | refine ev_ite ?_ ?_ | refine ev_ite_fst ?_ ?_ | intro _ | refine ev_of_eq (by assumption) ?_ | apply State.connAskSetup_ev | apply State.connOpenCmd_ev | apply State.connClose_ev
    | apply State.connQuery_ev | apply State.regionRegister_ev | split

theorem State.ownHigh_ev {s₀ : State} {s : State} (o : Sys2Proof.Origin) (a v : Nat) (hev : Evolves s₀ s) :
    OptAll (fun r => Evolves s₀ r.1) (State.ownHigh s o a v) := by
  unfold State.ownHigh
  try dsimp only
  repeat' with_reducible first
    | exact optAll_none | refine optAll_some ?_ | refine optAll_foldl ?_ (fun _ _ _ => ?_) | assumption
    | apply State.shxCmd_ev | apply shxOp_ev | apply State.tickFree_ev | apply State.nvSweep_ev
    | apply State.regionShareWrite_ev | apply State.targetDone_ev | apply State.nsWrite_ev | apply State.reaches_ev
    | apply State.igeDoorbell_ev | apply State.notOwned_ev | apply State.igeCmd_ev | apply State.keyLoad_ev
    | apply State.keyDerive_ev | apply State.keyClear_ev | apply State.qCommand_ev | apply State.svcCmd_ev
    | apply State.rotateNow_ev | apply State.yields_ev | apply State.fwReplace_ev | apply State.svcEnds_ev
    | refine ev_ite ?_ ?_ | refine ev_ite_fst ?_ ?_ | refine optAll_ite ?_ ?_ | simp only [ev_mk] | split | intro _
    | refine ev_of_eq (by assumption) ?_ | refine optAll_state (by assumption) ?_
    | refine optAll_fst (by assumption) ?_

theorem State.ownWrite_ev {s₀ : State} {s : State} (o : Sys2Proof.Origin) (a n v : Nat) (hev : Evolves s₀ s) :
    OptAll (fun r => Evolves s₀ r.1) (State.ownWrite s o a n v) := by
  unfold State.ownWrite
  try dsimp only
  repeat' with_reducible first
    | exact optAll_none | refine optAll_some ?_ | refine optAll_foldl ?_ (fun _ _ _ => ?_) | assumption
    | apply State.ifvWrite_ev | apply State.ctrlWrite_ev | apply State.ownLow_ev | apply State.ownCyclic_ev
    | apply State.ownTables_ev | apply State.ownHost_ev | apply State.ownHigh_ev | refine ev_ite ?_ ?_
    | refine ev_ite_fst ?_ ?_ | refine optAll_ite ?_ ?_ | split | refine optAll_state (by assumption) ?_
    | refine optAll_fst (by assumption) ?_

theorem State.writeReg_ev {s₀ : State} {s : State} (o : Sys2Proof.Origin) (a n v : Nat) (hev : Evolves s₀ s) :
    Evolves s₀ (State.writeReg s o a n v).1 := by
  unfold State.writeReg
  try dsimp only
  repeat' with_reducible first
    | assumption | apply shxOp_ev | apply State.ownWrite_ev | apply State.gate_ev | apply State.plainAct_ev | simp only [ev_mk]
    | split | intro _ | refine ev_of_eq (by assumption) ?_ | refine optAll_state (by assumption) ?_
    | refine optAll_fst (by assumption) ?_

theorem State.writeWord_ev {s₀ : State} {s : State} (o : Sys2Proof.Origin) (a : Nat) (w : Word) (hev : Evolves s₀ s) :
    Evolves s₀ (State.writeWord s o a w).1 := by
  unfold State.writeWord
  try dsimp only
  repeat' with_reducible first
    | assumption | apply State.noAct_ev | apply State.done_ev | apply State.writeReg_ev
    | apply State.gate_ev | refine ev_ite ?_ ?_ | refine ev_ite_fst ?_ ?_ | simp only [ev_mk] | split | intro _
    | refine ev_of_eq (by assumption) ?_ | refine optAll_state (by assumption) ?_
    | refine optAll_fst (by assumption) ?_

theorem State.writeAny_ev {s₀ : State} {s : State} (o : Sys2Proof.Origin) (a : Nat) (wide full : Bool) (v : DWord) (hev : Evolves s₀ s) :
    Evolves s₀ (State.writeAny s o a wide full v).1 := by
  unfold State.writeAny
  try dsimp only
  repeat' with_reducible first
    | assumption | apply State.done_ev | apply State.gate_ev | apply State.refuse_ev | apply State.writeWord_ev
    | apply State.writeReg_ev | refine ev_ite ?_ ?_ | refine ev_ite_fst ?_ ?_ | split | intro _
    | refine ev_of_eq (by assumption) ?_

theorem execRegisterWrite_ev {s₀ : State} (o : Sys2Proof.Origin) (a : Nat) (wide full : Bool) (v : DWord) {s : State} (hev : Evolves s₀ s) :
    Leaves (Evolves s₀) (execRegisterWrite o a wide full v s) := by
  unfold execRegisterWrite
  try dsimp only
  repeat' with_reducible first
    | assumption | apply State.writeAny_ev | refine leaves_next ?_ | refine leaves_out ?_

theorem execLFieldEffect_ev {s₀ : State} (a : Nat) {s : State} (hev : Evolves s₀ s) :
    Leaves (Evolves s₀) (execLFieldEffect a s) := by
  unfold execLFieldEffect
  try dsimp only
  repeat' with_reducible first
    | assumption | apply State.latchMask_ev | apply State.follows_ev | apply State.set_ev | refine leaves_next ?_
    | refine leaves_out ?_ | refine ev_ite ?_ ?_ | refine ev_ite_fst ?_ ?_ | refine leaves_ite ?_ ?_
    | simp only [ev_mk] | split | intro _ | refine ev_of_eq (by assumption) ?_

theorem execUnitIfvReqWrite_ev {s₀ : State} (o : Sys2Proof.Origin) (u : Fin 24) (level : BitVec 8) {s : State} (hev : Evolves s₀ s) :
    Leaves (Evolves s₀) (execUnitIfvReqWrite o u level s) := by
  unfold execUnitIfvReqWrite
  try dsimp only
  repeat' with_reducible first
    | assumption | apply State.ifvWrite_ev | refine leaves_next ?_ | refine leaves_out ?_

theorem execUnitReset_ev {s₀ : State} (o : Sys2Proof.Origin) (u : Fin 24) {s : State} (hev : Evolves s₀ s) :
    Leaves (Evolves s₀) (execUnitReset o u s) := by
  unfold execUnitReset
  try dsimp only
  repeat' with_reducible first
    | assumption | apply State.ctrlWrite_ev | refine leaves_next ?_ | refine leaves_out ?_

theorem execUnitGo_ev {s₀ : State} (o : Sys2Proof.Origin) (u : Fin 24) {s : State} (hev : Evolves s₀ s) :
    Leaves (Evolves s₀) (execUnitGo o u s) := by
  unfold execUnitGo
  try dsimp only
  repeat' with_reducible first
    | assumption | apply State.ctrlWrite_ev | refine leaves_next ?_ | refine leaves_out ?_

theorem execUnitHold_ev {s₀ : State} (o : Sys2Proof.Origin) (u : Fin 24) (on : Bool) {s : State} (hev : Evolves s₀ s) :
    Leaves (Evolves s₀) (execUnitHold o u on s) := by
  unfold execUnitHold
  try dsimp only
  repeat' with_reducible first
    | assumption | apply State.ctrlWrite_ev | refine leaves_next ?_ | refine leaves_out ?_

theorem execUnitExpert_ev {s₀ : State} (o : Sys2Proof.Origin) (u : Fin 24) (on : Bool) {s : State} (hev : Evolves s₀ s) :
    Leaves (Evolves s₀) (execUnitExpert o u on s) := by
  unfold execUnitExpert
  try dsimp only
  repeat' with_reducible first
    | assumption | apply State.ctrlWrite_ev | refine leaves_next ?_ | refine leaves_out ?_

theorem execAxisWrite_ev {s₀ : State} (o : Sys2Proof.Origin) (a : Fin 4096) (w : Fin 16) (v : Word) {s : State} (hev : Evolves s₀ s) :
    Leaves (Evolves s₀) (execAxisWrite o a w v s) := by
  unfold execAxisWrite
  try dsimp only
  repeat' with_reducible first
    | assumption | apply State.writeAny_ev | refine leaves_next ?_ | refine leaves_out ?_

theorem execPatternCtrlWrite_ev {s₀ : State} (o : Sys2Proof.Origin) (role : Fin 4) (n : Fin 64) (v : Word) {s : State} (hev : Evolves s₀ s) :
    Leaves (Evolves s₀) (execPatternCtrlWrite o role n v s) := by
  unfold execPatternCtrlWrite
  try dsimp only
  repeat' with_reducible first
    | assumption | apply State.writeAny_ev | refine leaves_next ?_ | refine leaves_out ?_

theorem execHashKeyWord9Write_ev {s₀ : State} (o : Sys2Proof.Origin) (role : Fin 4) (k : Fin 256) (v : Word) {s : State} (hev : Evolves s₀ s) :
    Leaves (Evolves s₀) (execHashKeyWord9Write o role k v s) := by
  unfold execHashKeyWord9Write
  try dsimp only
  repeat' with_reducible first
    | assumption | apply State.writeAny_ev | refine leaves_next ?_ | refine leaves_out ?_

end Sys2Proof.Machine
end

