-- ==== Sys2Proof/Laws/EvolveRecords.lean ====
section
/-!
SUPPORT. What the definitions of Machine/Records.lean keep.
-/

namespace Sys2Proof.Machine

set_option linter.all false

theorem State.writePair_ev {s₀ : State} {s : State} (o : Sys2Proof.Origin) (a v : Nat) (hev : Evolves s₀ s) :
    Evolves s₀ (State.writePair s o a v).1 := by
  unfold State.writePair
  try dsimp only
  repeat' with_reducible first
    | assumption | apply State.setBits_ev | apply State.done_ev | apply State.writeAny_ev | refine ev_ite ?_ ?_
    | refine ev_ite_fst ?_ ?_ | simp only [ev_mk] | split | intro _ | refine ev_of_eq (by assumption) ?_
    | refine optAll_state (by assumption) ?_ | refine optAll_fst (by assumption) ?_

theorem State.writePairs_ev {s₀ : State} {s : State} (o : Sys2Proof.Origin) (n0 : List (Nat × Nat)) (hev : Evolves s₀ s) :
    Evolves s₀ (State.writePairs s o n0).1 := by
  induction n0 generalizing s with
  | nil =>
    unfold State.writePairs
    repeat' with_reducible first
      | assumption | apply State.writePair_ev | refine ev_ite ?_ ?_ | refine ev_ite_fst ?_ ?_ | intro _ | apply State.writeAny_ev | simp only [ev_mk] | split | refine ev_of_eq (by assumption) ?_
  | cons x l ih =>
    unfold State.writePairs
    repeat' with_reducible first
      | assumption | apply State.writePair_ev | refine ev_ite ?_ ?_ | refine ev_ite_fst ?_ ?_ | intro _ | apply ih | apply State.writeAny_ev | simp only [ev_mk] | split
      | refine ev_of_eq (by assumption) ?_

theorem State.takeIntent_ev {s₀ : State} {s : State} (u : Nat) (body : List Byte) (hev : Evolves s₀ s) :
    Evolves s₀ (State.takeIntent s u body).1 := by
  unfold State.takeIntent
  try dsimp only
  repeat' with_reducible first
    | assumption | apply State.writePairs_ev | apply State.record_ev | simp only [ev_mk] | split
    | refine ev_of_eq (by assumption) ?_

theorem State.takeExpert_ev {s₀ : State} {s : State} (u : Nat) (body : List Byte) (hev : Evolves s₀ s) :
    Evolves s₀ (State.takeExpert s u body).1 := by
  unfold State.takeExpert
  try dsimp only
  repeat' with_reducible first
    | assumption | apply State.setExpert_ev | apply State.writePairs_ev | apply State.record_ev | simp only [ev_mk]
    | split | refine ev_of_eq (by assumption) ?_

theorem State.takeArray_ev {s₀ : State} {s : State} (u : Nat) (body : List Byte) (hev : Evolves s₀ s) :
    Evolves s₀ (State.takeArray s u body).1 := by
  unfold State.takeArray
  try dsimp only
  repeat' with_reducible first
    | assumption | apply State.writePairs_ev | apply State.record_ev | refine ev_ite ?_ ?_ | refine ev_ite_fst ?_ ?_
    | split | intro _

theorem State.takePadSlew_ev {s₀ : State} {s : State} (u : Nat) (body : List Byte) (hev : Evolves s₀ s) :
    Evolves s₀ (State.takePadSlew s u body).1 := by
  unfold State.takePadSlew
  try dsimp only
  repeat' with_reducible first
    | assumption | apply State.modBoot_ev | refine ev_ite ?_ ?_ | refine ev_ite_fst ?_ ?_ | simp only [ev_mk] | split
    | intro _

theorem State.takeReady_ev {s₀ : State} {s : State} (u : Nat) (hev : Evolves s₀ s) :
    Evolves s₀ (State.takeReady s u) := by
  unfold State.takeReady
  try dsimp only
  repeat' with_reducible first
    | assumption | apply State.setUnit_ev | apply State.raise_ev | apply State.goReady_ev | apply State.cascade_ev
    | apply State.modBoot_ev | refine ev_ite ?_ ?_ | simp only [ev_mk] | split | intro _

theorem State.firstRecord_ev {s₀ : State} {s : State} (a u i : Nat) (hev : Evolves s₀ s) :
    Evolves s₀ (State.firstRecord s a u i) := by
  unfold State.firstRecord
  try dsimp only
  repeat' with_reducible first
    | assumption | apply State.set_ev | apply State.record_ev | refine ev_ite ?_ ?_ | split

theorem State.skipRecord_ev {s₀ : State} {s : State} (u i : Nat) (hev : Evolves s₀ s) :
    Evolves s₀ (State.skipRecord s u i) := by
  unfold State.skipRecord
  try dsimp only
  repeat' with_reducible first
    | assumption | apply State.firstRecord_ev

theorem State.refuseRecord_ev {s₀ : State} {s : State} (u i : Nat) (hev : Evolves s₀ s) :
    Evolves s₀ (State.refuseRecord s u i) := by
  unfold State.refuseRecord
  try dsimp only
  repeat' with_reducible first
    | assumption | apply State.firstRecord_ev | apply State.modBoot_ev | apply State.setUnit_ev
    | apply State.raise_ev | simp only [ev_mk] | intro _

theorem State.nameUnit_ev {s₀ : State} {s : State} (u ifv : Nat) (hev : Evolves s₀ s) :
    Evolves s₀ (State.nameUnit s u ifv) := by
  unfold State.nameUnit
  try dsimp only
  repeat' with_reducible first
    | assumption | apply State.ifvSet_ev | apply State.set_ev | apply State.modBoot_ev | refine ev_ite ?_ ?_
    | simp only [ev_mk] | split | intro _

theorem State.startUnit_ev {s₀ : State} {s : State} (u : Nat) (hev : Evolves s₀ s) :
    Evolves s₀ (State.startUnit s u) := by
  unfold State.startUnit
  try dsimp only
  repeat' with_reducible first
    | assumption | apply State.setUnit_ev | refine ev_ite ?_ ?_ | split

theorem State.applyRecord_ev {s₀ : State} {s : State} (h : RecHdr) (i : Nat) (take : State → State × Took) (hev : Evolves s₀ s) (ev_take : ∀ x0, Evolves s₀ x0 → Evolves s₀ (take x0).1) :
    Evolves s₀ (State.applyRecord s h i take) := by
  unfold State.applyRecord
  try dsimp only
  repeat' with_reducible first
    | assumption | apply State.skipRecord_ev | apply State.refuseRecord_ev | apply State.nameUnit_ev
    | apply State.take_ev | apply State.startUnit_ev | apply State.firstRecord_ev | apply ev_take
    | refine ev_ite ?_ ?_ | simp only [ev_mk] | split | refine ev_of_eq (by assumption) ?_

theorem State.takeRecord_ev {s₀ : State} {s : State} (p : Nat → Bool) (take : State → Nat → List Byte → State × Took) (hev : Evolves s₀ s) (ev_take : ∀ x0 x1 x2, Evolves s₀ x0 → Evolves s₀ (take x0 x1 x2).1) :
    Evolves s₀ (State.takeRecord s p take) := by
  unfold State.takeRecord
  try dsimp only
  repeat' with_reducible first
    | assumption | apply State.modBoot_ev | apply State.applyRecord_ev | apply State.take_ev | apply ev_take
    | refine ev_ite ?_ ?_ | simp only [ev_mk] | split | intro _ | refine ev_of_eq (by assumption) ?_

theorem execRecordPad_ev {s₀ : State} {s : State} (hev : Evolves s₀ s) :
    Leaves (Evolves s₀) (execRecordPad s) := by
  unfold execRecordPad
  try dsimp only
  repeat' with_reducible first
    | assumption | apply State.takeRecord_ev | refine leaves_next ?_ | refine leaves_out ?_ | intro _

theorem execRecordIntent_ev {s₀ : State} {s : State} (hev : Evolves s₀ s) :
    Leaves (Evolves s₀) (execRecordIntent s) := by
  unfold execRecordIntent
  try dsimp only
  repeat' with_reducible first
    | assumption | apply State.takeRecord_ev | apply State.takeIntent_ev | refine leaves_next ?_
    | refine leaves_out ?_ | refine ev_ite ?_ ?_ | refine ev_ite_fst ?_ ?_ | refine leaves_ite ?_ ?_
    | simp only [ev_mk] | split | intro _ | refine ev_of_eq (by assumption) ?_

theorem execRecordExpert_ev {s₀ : State} {s : State} (hev : Evolves s₀ s) :
    Leaves (Evolves s₀) (execRecordExpert s) := by
  unfold execRecordExpert
  try dsimp only
  repeat' with_reducible first
    | assumption | apply State.takeRecord_ev | apply State.takeExpert_ev | refine leaves_next ?_
    | refine leaves_out ?_

theorem execRecordArray_ev {s₀ : State} {s : State} (hev : Evolves s₀ s) :
    Leaves (Evolves s₀) (execRecordArray s) := by
  unfold execRecordArray
  try dsimp only
  repeat' with_reducible first
    | assumption | apply State.takeRecord_ev | apply State.takeArray_ev | refine leaves_next ?_
    | refine leaves_out ?_

theorem execRecordReady_ev {s₀ : State} {s : State} (hev : Evolves s₀ s) :
    Leaves (Evolves s₀) (execRecordReady s) := by
  unfold execRecordReady
  try dsimp only
  repeat' with_reducible first
    | assumption | apply State.takeRecord_ev | apply State.takeReady_ev | refine leaves_next ?_
    | refine leaves_out ?_ | refine ev_ite ?_ ?_ | refine ev_ite_fst ?_ ?_ | refine leaves_ite ?_ ?_ | split
    | intro _

theorem execRecordPadSlew_ev {s₀ : State} {s : State} (hev : Evolves s₀ s) :
    Leaves (Evolves s₀) (execRecordPadSlew s) := by
  unfold execRecordPadSlew
  try dsimp only
  repeat' with_reducible first
    | assumption | apply State.takeRecord_ev | apply State.takePadSlew_ev | refine leaves_next ?_
    | refine leaves_out ?_

theorem State.endStarting_ev {s₀ : State} {s : State} (u : Nat) (hev : Evolves s₀ s) :
    Evolves s₀ (State.endStarting s u) := by
  unfold State.endStarting
  try dsimp only
  repeat' with_reducible first
    | assumption | apply State.setUnit_ev | refine ev_ite ?_ ?_ | split

theorem execApplyPassEnd_ev {s₀ : State} {s : State} (hev : Evolves s₀ s) :
    Leaves (Evolves s₀) (execApplyPassEnd s) := by
  unfold execApplyPassEnd
  try dsimp only
  repeat' with_reducible first
    | assumption | apply State.takeReady_ev | apply State.endStarting_ev | apply State.modBoot_ev
    | apply State.set_ev | apply State.raise_ev | apply State.dueFromNow_ev | refine leaves_next ?_
    | refine leaves_out ?_ | refine ev_ite ?_ ?_ | refine ev_ite_fst ?_ ?_ | refine leaves_ite ?_ ?_
    | simp only [ev_mk] | refine ev_foldl ?_ (fun _ _ _ => ?_) | refine ev_foldl_fst ?_ (fun _ _ _ => ?_) | split
    | intro _

end Sys2Proof.Machine
end

