-- ==== Sys2Proof/Laws/EvolveSideBand.lean ====
section
/-!
SUPPORT. What the definitions of Machine/SideBand.lean keep.
-/

namespace Sys2Proof.Machine

set_option linter.all false

theorem State.readPair_ev {s₀ : State} {s : State} (u d : Nat) (p : Option Nat) (hev : Evolves s₀ s) :
    Evolves s₀ (State.readPair s u d p).1 := by
  unfold State.readPair
  try dsimp only
  repeat' with_reducible first
    | assumption | refine ev_ite ?_ ?_ | refine ev_ite_fst ?_ ?_ | simp only [ev_mk] | split | intro _
    | refine ev_of_eq (by assumption) ?_

theorem State.read32_ev {s₀ : State} {s : State} (u d : Nat) (hev : Evolves s₀ s) :
    Evolves s₀ (State.read32 s u d).1 := by
  unfold State.read32
  try dsimp only
  repeat' with_reducible first
    | assumption | apply State.readPair_ev

theorem State.readMany_ev {s₀ : State} {s : State} (u w : Nat) (n0 : Nat) (n1 : Nat) (hev : Evolves s₀ s) :
    Evolves s₀ (State.readMany s u w n0 n1).1 := by
  induction n0 generalizing s n1 with
  | zero =>
    unfold State.readMany
    repeat' with_reducible first
      | assumption | apply State.read32_ev | refine ev_ite ?_ ?_ | refine ev_ite_fst ?_ ?_ | split
  | succ n ih =>
    unfold State.readMany
    repeat' with_reducible first
      | assumption | apply ih | apply State.read32_ev | refine ev_ite ?_ ?_ | refine ev_ite_fst ?_ ?_ | split

theorem execRegRead_ev {s₀ : State} (m : BitVec 4 × BitVec 8) (unit width : BitVec 8) (count : BitVec 16) (offset : Word) {s : State} (hev : Evolves s₀ s) :
    Leaves (Evolves s₀) (execRegRead m unit width count offset s) := by
  unfold execRegRead
  try dsimp only
  repeat' with_reducible first
    | assumption | apply State.naonantServe_ev | apply State.startClocks_ev | apply State.readMany_ev
    | refine leaves_next ?_ | refine leaves_out ?_ | refine ev_ite ?_ ?_ | refine ev_ite_fst ?_ ?_
    | refine leaves_ite ?_ ?_ | split | intro _ | refine ev_of_eq (by assumption) ?_

theorem WRes.answer_ev {s₀ : State} {r : WRes} (hev : Evolves s₀ r.1) : Evolves s₀ r.answer.1 := hev

theorem State.unitWrite_ev {s₀ s : State} (u d : Nat) (wide : Bool) (v : DWord) (hev : Evolves s₀ s) :
    Evolves s₀ (s.unitWrite u d wide v).1 := by
  unfold State.unitWrite
  exact WRes.answer_ev (State.writeAny_ev _ _ _ _ _ hev)

theorem execRegWrite_ev {s₀ : State} (m : BitVec 4 × BitVec 8) (unit width : BitVec 8) (offset : Word) (value : DWord) {s : State} (hev : Evolves s₀ s) :
    Leaves (Evolves s₀) (execRegWrite m unit width offset value s) := by
  unfold execRegWrite
  try dsimp only
  repeat' with_reducible first
    | assumption | apply State.naonantServe_ev | apply State.unitWrite_ev | refine leaves_next ?_
    | refine leaves_out ?_ | refine ev_ite ?_ ?_ | refine ev_ite_fst ?_ ?_ | refine leaves_ite ?_ ?_ | split
    | intro _

theorem execMomentRead_ev {s₀ : State} (m : BitVec 4 × BitVec 8) (mask : Word) {s : State} (hev : Evolves s₀ s) :
    Leaves (Evolves s₀) (execMomentRead m mask s) := by
  unfold execMomentRead
  try dsimp only
  repeat' with_reducible first
    | assumption | apply State.naonantServe_ev | refine leaves_next ?_ | refine leaves_out ?_ | intro _

end Sys2Proof.Machine
end

