-- ==== Sys2Proof/Laws/EvolveTick.lean ====
section
/-!
SUPPORT. What the definitions of Machine/Tick.lean keep.
-/

namespace Sys2Proof.Machine

set_option linter.all false

theorem State.startTick_ev {s₀ : State} {s : State} (hev : Evolves s₀ s) :
    Evolves s₀ (State.startTick s) := by
  unfold State.startTick
  try dsimp only
  repeat' with_reducible first
    | assumption | apply State.modBoot_ev | apply State.halt_ev | refine ev_ite ?_ ?_ | simp only [ev_mk] | split
    | intro _

theorem State.leaseTick_ev {s₀ : State} {s : State} (hev : Evolves s₀ s) :
    Evolves s₀ (State.leaseTick s) := by
  unfold State.leaseTick
  try dsimp only
  repeat' with_reducible first
    | assumption | apply State.leaseLapse_ev | refine ev_ite ?_ ?_ | simp only [ev_mk] | split

theorem State.instants_ev {s₀ : State} {s : State} (hev : Evolves s₀ s) :
    Evolves s₀ (State.instants s) := by
  unfold State.instants
  try dsimp only
  repeat' with_reducible first
    | assumption | apply State.launchTick_ev | apply State.pauseTick_ev | apply State.dueResets_ev
    | apply State.yieldTick_ev | apply State.clockTick_ev | refine ev_ite ?_ ?_ | refine ev_ite_fst ?_ ?_
    | simp only [ev_mk] | split | intro _ | refine ev_of_eq (by assumption) ?_
    | refine optAll_state (by assumption) ?_ | refine optAll_fst (by assumption) ?_

theorem execClkAonTick_ev {s₀ : State} {s : State} (hev : Evolves s₀ s) :
    Leaves (Evolves s₀) (execClkAonTick s) := by
  unfold execClkAonTick
  try dsimp only
  repeat' with_reducible first
    | assumption | apply State.timeTick_ev | apply State.startTick_ev | apply State.leaseTick_ev
    | apply State.instants_ev | refine ev_ite ?_ ?_ | refine ev_ite_fst ?_ ?_ | refine leaves_next ?_
    | refine leaves_out ?_ | refine leaves_ite ?_ ?_ | simp only [ev_mk] | split | intro _
    | refine ev_of_eq (by assumption) ?_ | refine optAll_state (by assumption) ?_
    | refine optAll_fst (by assumption) ?_

end Sys2Proof.Machine
end

