-- ==== Sys2Proof/Laws/Gate.lean ====
section
/-!
SUPPORT. The access path of a write: when it reaches its register, and how it ends when it does not.
-/

namespace Sys2Proof.Machine

@[simp] theorem State.ustate_startClocks (s : State) (cs : List Nat) (u : Nat) : (s.startClocks cs).ustate u = s.ustate u := rfl
@[simp] theorem State.ucause_startClocks (s : State) (cs : List Nat) (u : Nat) : (s.startClocks cs).ucause u = s.ucause u := rfl
@[simp] theorem State.bound_startClocks (s : State) (cs : List Nat) (k : Nat) : (s.startClocks cs).bound k = s.bound k := rfl
@[simp] theorem State.slicePf_startClocks (s : State) (cs : List Nat) (k : Nat) : (s.startClocks cs).slicePf k = s.slicePf k := rfl
@[simp] theorem State.leads_startClocks (s : State) (cs : List Nat) (o : Sys2Proof.Origin) :
    (s.startClocks cs).leads o = s.leads o := rfl

/-- An open path leads to the write's own effect, with the clocks of the access running. -/
theorem State.gate_open (s : State) (o : Sys2Proof.Origin) (u off : Nat) (lead owned : Bool) (act : State → WRes)
    (h : s.Open o u off lead owned) : s.gate o u off lead owned act = act (s.startClocks (s.accessClocks o u)) := by
  simp only [Bool.and_eq_true, Bool.not_eq_true'] at h
  obtain ⟨⟨⟨h1, h2⟩, h3⟩, h4⟩ := h
  unfold State.gate
  simp only [State.ustate_startClocks, State.ucause_startClocks, State.leads_startClocks, State.bound_startClocks,
    State.slicePf_startClocks, h1, h2, h3, Bool.false_eq_true,
    if_false]
  unfold State.mayWrite at h4
  cases o with
  | slice k =>
      cases hb : s.bound k <;> cases hp : s.slicePf k == 0 <;> cases lead <;> cases owned <;> simp_all
  | _ => cases lead <;> cases owned <;> simp_all

/-- In a unit without power, and for a host without a path, nothing happens. -/
theorem State.gate_dark (s : State) (o : Sys2Proof.Origin) (u off : Nat) (lead owned : Bool) (act : State → WRes)
    (h : (scaleOff s.scale u || s.dark u || s.hostCut o) = true) : s.gate o u off lead owned act = (s, .unpowered) := by
  unfold State.gate
  simp [h]

/-- In a halt nothing happens. -/
theorem State.gate_halt (s : State) (o : Sys2Proof.Origin) (u off : Nat) (lead owned : Bool) (act : State → WRes)
    (h : (scaleOff s.scale u || s.dark u || s.hostCut o) = false) (h2 : s.haltStops o u off = true) :
    s.gate o u off lead owned act = (s, .halted) := by
  unfold State.gate
  simp only [h, h2, Bool.false_eq_true, if_false, if_true]

end Sys2Proof.Machine
end

