-- ==== Sys2Proof/Tests/Slice0.lean ====
section
/-!
SUPPORT. Tests: ill-formed commands are refused by the check of their data, worked examples of spec/, and for every statement
a concrete state that meets its hypotheses.
-/

namespace Sys2Proof.Tests

open Sys2Proof Sys2Proof.Machine

set_option Elab.async false

/-! ## Ill-formed commands -/

/-- An entry of the wrong size. -/
def short : List Byte := []

theorem test_wf_strapSample : (Instr.strapSample []).wf = false := by decide +kernel
theorem test_wf_flashHeaderCheck : (Instr.flashHeaderCheck short short).wf = false := by decide +kernel
theorem test_wf_install : (Instr.install short short short short short).wf = false := by decide +kernel
theorem test_wf_slotHeaderRead : (Instr.slotHeaderRead short short short short).wf = false := by decide +kernel
theorem test_wf_flashBurst : (Instr.flashBurst .fwA (List.replicate 4097 0#8)).wf = false := by decide +kernel
theorem test_wf_emtDmaImage : (Instr.emtDmaImage 0 short).wf = false := by decide +kernel
theorem test_wf_emtInsert : (Instr.emtInsert 0 short []).wf = false := by decide +kernel
theorem test_wf_emtDelete : (Instr.emtDelete 0 short []).wf = false := by decide +kernel
theorem test_wf_emtModify : (Instr.emtModify 0 short []).wf = false := by decide +kernel
theorem test_wf_emtLookup : (Instr.emtLookup 0 short []).wf = false := by decide +kernel
theorem test_wf_tcamWrite : (Instr.tcamWrite 0 short).wf = false := by decide +kernel
theorem test_wf_indirWrite : (Instr.indirWrite 0 (List.replicate 4097 0#8)).wf = false := by decide +kernel
theorem test_wf_hashKeyWrite : (Instr.hashKeyWrite 0 short).wf = false := by decide +kernel
theorem test_wf_connSetup : (Instr.connSetup .host short).wf = false := by decide +kernel
theorem test_wf_nvmeWrite : (Instr.nvmeWrite 0 short).wf = false := by decide +kernel
theorem test_wf_nvmeRead : (Instr.nvmeRead 0 short).wf = false := by decide +kernel
theorem test_wf_nvmeWriteZeroes : (Instr.nvmeWriteZeroes 0 short).wf = false := by decide +kernel
theorem test_wf_nvmeFlush : (Instr.nvmeFlush 0 short).wf = false := by decide +kernel
theorem test_wf_abort : (Instr.abort short).wf = false := by decide +kernel
theorem test_wf_createIoSq : (Instr.createIoSq short).wf = false := by decide +kernel
theorem test_wf_createIoCq : (Instr.createIoCq short).wf = false := by decide +kernel
theorem test_wf_deleteIoSq : (Instr.deleteIoSq short).wf = false := by decide +kernel
theorem test_wf_deleteIoCq : (Instr.deleteIoCq short).wf = false := by decide +kernel
theorem test_wf_identify : (Instr.identify short).wf = false := by decide +kernel
theorem test_wf_getLogPage : (Instr.getLogPage short 0).wf = false := by decide +kernel
theorem test_wf_setFeatures : (Instr.setFeatures short).wf = false := by decide +kernel
theorem test_wf_getFeatures : (Instr.getFeatures short).wf = false := by decide +kernel
theorem test_wf_asyncEventRequest : (Instr.asyncEventRequest short).wf = false := by decide +kernel
theorem test_wf_keyLoad : (Instr.keyLoad .host short false).wf = false := by decide +kernel

/-- A command of the right size is well-formed. -/
theorem test_wf_good : (Instr.strapSample (List.replicate 8 2)).wf = true ∧ (Instr.keyLoad .host (List.replicate 32 0#8) false).wf = true ∧
    (Instr.abort (List.replicate 64 0#8)).wf = true ∧ (Instr.emtDmaImage 0 (List.replicate 80 0#8)).wf = true := by decide +kernel

/-! ## Worked examples -/

/-- Reads that are outstanding, one TLP each. -/
def outReads (l : List (Nat × Reader)) : List HostRead := l.zipIdx.map fun (x, i) => ⟨i, x.1, x.2, 1, []⟩
/-- A device of scale 4 whose start has ended, with every unit READY and the lead at the host. -/
def up : State :=
  let s1 := ((State.reset.set BootStatus.adr BootStatus.scale 4).set BootStatus.adr BootStatus.step 0xFF).set SysLead.adr SysLead.holder 1
  (List.range 24).foldl (fun (s : State) u => s.set (Hdr.adr u) Hdr.state 2) s1
/-- A flash header with empty slots. -/
def header : List Byte :=
  let b := leBytes 4 0x48464B48 ++ leBytes 2 2 ++ leBytes 2 0 ++ leBytes 4 0 ++ List.replicate 240 0
  b ++ leBytes 4 (crc32 b)

/-- The timing of rope 0 in the example of chapter 5: base period 125 us, MULT 1, SHIFT 1, an apply offset of 20 us and tagged frames on DP0. -/
def exampleClock : State :=
  let a := CxeRope.adr 0
  ((((up.set CxeBase.adr CxeBase.steps 15625).set a CxeRope.enable 1).set a CxeRope.shift 1).set a CxeRope.apply 2500).set (CxePortRope.adr 0 0) CxePortRope.tagged 1

/-- Its stations 0 to 31, version 2, with 16 B each way. -/
def exampleRope : State :=
  (List.range 32).foldl (fun (s : State) n =>
    let b := CxeStn.adr n
    (((((s.set b CxeStn.enable 1).set b CxeStn.version 2).set b CxeStn.outLen 16).set b CxeStn.inLen 16).set b CxeStn.outOffset (16 * n)).set b CxeStn.inOffset (16 * n)) exampleClock

/-- Chapter 5: a period of 62.5 us, and at line time 3,000 s the cycle number 48,000,000. -/
theorem test_cycle_number : ropePeriod exampleClock.inForce 0 = 62500 ∧ cycleAt exampleClock.inForce 0 3000000000000 = 48000000 := by decide +kernel

/-- Chapters 5 and 9: one frame whose bytes on the wire are 826, OPEN of 248 units and LENGTH of 85. -/
theorem test_frame_and_window : exampleRope.planSize exampleRope.inForce 0 0 = (1, 826) ∧ exampleRope.window exampleRope.inForce 0 0 = (1984, 680) := by decide +kernel

/-- Chapter 10: the shares of slice 1 of 16. -/
theorem test_slice_shares : (let s := up.set HifSliceCfg.adr HifSliceCfg.countLog2 4
    (s.share .rxq 1, s.share .txq 1, s.share .evq 1, s.share .vector 1)) = ((256, 256), (256, 256), (64, 64), (128, 128)) := by decide +kernel

/-- Chapter 19: ROPE_STATE of rope 0 and the active view of DP3's gate-list control. -/
theorem test_addresses : CxeRope.adr 0 + CxeRope.stMode.off = 0x401134 ∧ activeView 0xD07430 = some 0xD03430 := by decide +kernel

/-- The axis and cam of the example of chapter 6. -/
def exampleAxis : State :=
  let s1 := ((up.set (MpiCam.adr 3) MpiCam.count 3).set (MpiCam.adr 3) MpiCam.period (360 * 65536)).set (MpiCam.adr 3) MpiCam.valid 1
  let a := MpiAxis.adr 5
  let s2 := (((s1.set a MpiAxis.camEn 1).set a MpiAxis.cam 3).set a MpiAxis.camScale (2 ^ 32)).set a MpiAxis.offset (10 * 2 ^ 32)
  let s3 := ((((s2.set a MpiAxis.outMul 10000).set a MpiAxis.outShift 32).set a MpiAxis.velMul 10000).set a MpiAxis.velShift 32).set a MpiAxis.num 0
  { s3 with mpi := { s3.mpi with cam := [(4, BitVec.ofNat 32 (120 * 65536)), (8, BitVec.ofNat 32 (240 * 65536)), (11, 50#32)] } }

/-- Chapter 6: 178,125 counts and a feedforward of 8,437,500 counts per second at the master value 150 and 1,800 units per second. -/
theorem test_setpoint : (exampleAxis.setpoint 5 ⟨150 * 2 ^ 32, 0, 1800 * 2 ^ 32⟩).1 = 178125 ∧
    (exampleAxis.setpoint 5 ⟨150 * 2 ^ 32, 0, 1800 * 2 ^ 32⟩).2.1 = 8437500 := by decide +kernel

/-- The check value of CRC-32 over the nine digits. -/
theorem test_crc32 : crc32 [0x31#8, 0x32#8, 0x33#8, 0x34#8, 0x35#8, 0x36#8, 0x37#8, 0x38#8, 0x39#8] = 0xCBF43926 := by decide +kernel

/-- The host leads a running device. -/
def leading : State := { up with boot := { up.boot with perst := true } }

/-- One step runs the command in front and leaves the rest waiting: the holder renews its lease of 100 ms, 2,500,000 ticks. -/
theorem test_step_renew : (match step { leading with pending := [.leadRenew .host 100 none, .powerUp] } with
    | .next t => (t.holder, t.mgt.leaseTicks, t.pending.length)
    | _ => (9, 9, 9)) = (1, 2500000, 1) := by decide +kernel

/-! ## Witnesses -/

/-! Hypotheses of EmptyQueueIdles. -/

theorem wit_idle : State.reset.pending = [] := rfl

/-! Hypotheses of StepKeepsSoundStates. -/

theorem wit_sound : up.Sound := ⟨by decide +kernel, by decide +kernel, by decide +kernel⟩

/-! Hypotheses of RaisingAnEvent. -/

theorem wit_raise : up.noted = [] ∧ QuietWord CxeBase.adr ∧ up.staged.length < stagingCapacity ∧
    ((up.set (Hdr.adr 4) Hdr.eventMap 1).set (HifRoute.adr 64) HifRoute.enable 1).routed 4 0 = true := by decide +kernel

/-! Hypotheses of MovingAUnit. -/

theorem wit_moves : up.ustate (4 : Fin 24) ≠ (6 : Fin 7).val ∧ up.ustate (4 : Fin 24) = (2 : Fin 7).val := by decide +kernel

/-! Hypotheses of DomainsStepRefreshAndLapse. -/

/-- U03 READY or held, with writes that cross, the domains of the mask VALID, and domain 1 at `c` ticks since its REFRESH. -/
def crossing (held : Bool) (ws : List (Nat × TuWrite)) (valid c : Nat) : State :=
  let s1 := ((up.set (Hdr.adr 3) Hdr.state (if held then 3 else 2)).set TuStatus.adr TuStatus.valid valid).modTime fun t =>
    { t with waiting := ws, since1 := c }
  { s1 with boot := { s1.boot with perst := true } }
theorem wit_domain_step : (crossing false [] 0 0).Open .host 3 (0x1110 + 0x20 * (1 : Fin 2)) false false ∧ (crossing false [] 0 0).ready 3 = true ∧
    (crossing false [] 0 0).Open .host 3 (0x1100 + 0x20 * (1 : Fin 2)) false false ∧
    (crossing false [] 0 0).Open .host 3 (0x1104 + 0x20 * (1 : Fin 2)) false false := by decide +kernel
theorem wit_domain_held : (crossing true [] 0 0).Open .host 3 (0x1100 + 0x20 * (1 : Fin 2)) false false ∧ (crossing true [] 0 0).ready 3 = false ∧
    (crossing true [] 0 0).domValid (1 : Fin 2) = false ∧ (crossing true [] 2 0).domValid (1 : Fin 2) = true ∧
    (crossing true [] 2 0).Open .host 3 (0x1100 + 0x20 * (1 : Fin 2)) false false ∧
    (crossing true [] 2 25000).Open .host 3 (0x1104 + 0x20 * (1 : Fin 2)) false false ∧ (crossing true [] 2 25000).domValid (1 : Fin 2) = true ∧
    0 < (1 : BitVec 16).toNat ∧ (1 : BitVec 16).toNat * 25000 ≤ (crossing true [] 2 25000).time.since (1 : Fin 2) ∧
    (crossing true [] 2 24999).time.since (1 : Fin 2) < (1 : BitVec 16).toNat * 25000 ∧
    (crossing true [] 2 24999).time.since (1 - (1 : Fin 2)) < (crossing true [] 2 24999).wdLimit (1 - (1 : Fin 2)) := by decide +kernel
theorem wit_crossing : (crossing false [(2, .snap)] 0 0).mgtUp = true ∧ (crossing false [(2, .snap)] 0 0).time.waiting = [(2, .snap)] ∧
    (crossing false [(1, .refresh 1)] 0 0).time.waiting = [(1, .refresh (1 : Fin 2))] ∧
    (crossing false [(1, .invalidate 1)] 2 0).time.waiting = [(1, .invalidate (1 : Fin 2))] ∧ (crossing false [(1, .invalidate 1)] 2 0).domValid (1 : Fin 2) = true ∧
    (crossing false [(1, .word (TuDom.adr 1 + 4) 1)] 2 25000).time.waiting =
      [(1, .word (TuDom.adr (1 : Fin 2) + 4) (BitVec.ofNat 32 (1 : BitVec 16).toNat))] := by decide +kernel
/-- Both domains run, at the end of their watchdogs. -/
def lapsing : State :=
  let s1 := ((crossing false [] 3 249999).set (TuDom.adr 0) TuDom.timeout 10).set (TuDom.adr 1) TuDom.timeout 10
  s1.modTime fun t => { t with since0 := 249999 }
theorem wit_lapsing : lapsing.mgtUp = true ∧ lapsing.time.waiting = [] ∧ lapsing.wdFrozen = false ∧
    (∀ d : Fin 2, 0 < lapsing.wdLimit d ∧ lapsing.wdLimit d ≤ lapsing.time.since d + 1) ∧
    lapsing.time.since (1 : Fin 2) < lapsing.wdLimit (1 : Fin 2) ∧
    (lapsing.modTime fun t => { t with since1 := 250000 }).wdLimit (1 : Fin 2) ≤ (lapsing.modTime fun t => { t with since1 := 250000 }).time.since (1 : Fin 2) ∧
    (lapsing.modTime fun t => { t with since1 := 250000 }).domValid (1 : Fin 2) = true := by decide +kernel

/-! Hypotheses of LineTimeFollowsTheSelectedDomain. -/

theorem wit_tick : ∃ s : State, s.boot.perst = true ∧ s.pwr.off = false ∧ s.wdLimit 0 = 0 ∧ s.wdLimit 1 = 0 ∧
    s.time.waiting = [(1, .step 0 5), (1, .step 1 0)] ∧ 0 ≤ (s.time.dom0 : Int) + 5 * (nsUnit : Int) ∧
    0 ≤ (s.time.dom1 : Int) + 0 * (nsUnit : Int) :=
  ⟨((up.set (TuDom.adr 0) TuDom.timeout 0).set (TuDom.adr 1) TuDom.timeout 0).modTime fun t => { t with waiting := [(1, .step 0 5), (1, .step 1 0)] }, by decide +kernel⟩
/-- The same with the watchdogs off and ALIGN, or nothing, in its second tick. -/
def aligning (tpo : Nat) (ws : List (Nat × TuWrite)) : State :=
  ((((crossing false ws 0 0).set (TuDom.adr 0) TuDom.timeout 0).set (TuDom.adr 1) TuDom.timeout 0).set (TuTpo.adr 2) TuTpo.enable tpo)
theorem wit_tick_align : (aligning 1 [(1, .align)]).boot.perst = true ∧ (aligning 1 [(1, .align)]).pwr.off = false ∧ (aligning 1 [(1, .align)]).wdLimit 0 = 0 ∧
    (aligning 1 [(1, .align)]).wdLimit 1 = 0 ∧ (aligning 1 [(1, .align)]).time.waiting = [(1, .align)] ∧ (aligning 1 [(1, .align)]).alignRefused = true ∧
    (aligning 0 []).time.waiting = [] ∧ (aligning 0 []).wdLimit 1 = 0 ∧ (aligning 0 [(1, .align)]).mgtUp = true ∧
    (aligning 0 [(1, .align)]).alignRefused = false ∧ (aligning 0 [(1, .align)]).noted = [] ∧
    (aligning 0 [(1, .select 1)]).time.waiting = [(1, .select (1 : Fin 2))] ∧ (aligning 0 [(1, .snap)]).time.waiting = [(1, .snap)] := by decide +kernel
theorem wit_select : up.Open .host 3 0x1000 true false ∧ up.ready 3 = true ∧ (crossing true [] 0 0).Open .host 3 0x1000 true false ∧
    (crossing true [] 0 0).ready 3 = false ∧ up.Open .host 3 0x1010 false false ∧ (crossing true [] 0 0).Open .host 3 0x1010 false false := by decide +kernel
theorem wit_align : up.Open .host 3 0x1010 true false ∧ up.alignRefused = false ∧
    ((aligning 0 []).set (Hdr.adr 3) Hdr.state 3).Open .host 3 0x1010 true false ∧ ((aligning 0 []).set (Hdr.adr 3) Hdr.state 3).ready 3 = false ∧
    ((aligning 0 []).set (Hdr.adr 3) Hdr.state 3).alignRefused = false ∧ ((aligning 0 []).set (Hdr.adr 3) Hdr.state 3).noted = [] ∧
    ((aligning 0 []).set (Hdr.adr 3) Hdr.state 3).wdLimit 0 = 0 ∧ ((aligning 0 []).set (Hdr.adr 3) Hdr.state 3).wdLimit 1 = 0 := by decide +kernel
theorem wit_align_refused : (up.set (TuTpo.adr 2) TuTpo.enable 1).Open .host 3 0x1010 true false ∧ (up.set (TuTpo.adr 2) TuTpo.enable 1).alignRefused = true := by
  decide +kernel
theorem wit_line_locked : (up.set TuStatus.adr TuStatus.locked 0).time.line = (up.set TuStatus.adr TuStatus.locked 0).time.dom
    (up.set TuStatus.adr TuStatus.locked 0).selected ∧ (up.set TuStatus.adr TuStatus.locked 0).getB TuStatus.adr TuStatus.locked = false ∧ (up.set TuStatus.adr TuStatus.locked 0).noted = [] := by decide +kernel

/-! Hypotheses of StampTailAndPulseOutputs. -/

theorem wit_stamp_tail : up.Open .host 3 0x1054 false false ∧ (0#32).toNat < 128 ∧
    (up.get TuTxHead.adr TuTxHead.index + 128 - (0#32).toNat) % 128 ≤ (up.get TuTxHead.adr TuTxHead.index + 128 - up.get TuTxTail.adr TuTxTail.index) % 128 := by
  decide +kernel
theorem wit_stamp_tail_refused : up.Open .host 3 0x1054 false false ∧ (up.get TuTxHead.adr TuTxHead.index + 128 - up.get TuTxTail.adr TuTxTail.index) % 128 <
    (up.get TuTxHead.adr TuTxHead.index + 128 - (127#32).toNat) % 128 := by decide +kernel
/-- Pulse output 7 of a device whose start has ended, with START at a second. -/
def pulse (second : Nat) : State := up.set (TuTpo.adr 7) TuTpo.startSec second
theorem wit_tpo_arm : (pulse 1).Open .host 3 (0x40000 + 0x20 * (7 : Fin 8)) false false ∧ (pulse 1).tpoEnabled (7 : Fin 8) = false ∧
    pulseOk (((pulse 1).tpoTaken .host 7).actB (TuTpo.adr 7) TuTpo.mode) (((pulse 1).tpoTaken .host 7).act (TuTpo.adr 7) TuTpo.period)
      (((pulse 1).tpoTaken .host 7).act (TuTpo.adr 7) TuTpo.width) = true ∧
    (pulse 1).lineNs + 128 ≤ ((pulse 1).tpoTaken .host 7).act (TuTpo.adr 7) TuTpo.startSec * 1000000000 +
      ((pulse 1).tpoTaken .host 7).act (TuTpo.adr 7) TuTpo.startNs := by decide +kernel
theorem wit_tpo_refused : ((pulse 1).set (TuTpo.adr 7) TuTpo.width 1).Open .host 3 (0x40000 + 0x20 * (7 : Fin 8)) false false ∧
    ((pulse 1).set (TuTpo.adr 7) TuTpo.width 1).tpoEnabled (7 : Fin 8) = false ∧
    pulseOk ((((pulse 1).set (TuTpo.adr 7) TuTpo.width 1).tpoTaken .host 7).actB (TuTpo.adr 7) TuTpo.mode)
      ((((pulse 1).set (TuTpo.adr 7) TuTpo.width 1).tpoTaken .host 7).act (TuTpo.adr 7) TuTpo.period)
      ((((pulse 1).set (TuTpo.adr 7) TuTpo.width 1).tpoTaken .host 7).act (TuTpo.adr 7) TuTpo.width) = false := by decide +kernel
theorem wit_tpo_late : (pulse 0).Open .host 3 (0x40000 + 0x20 * (7 : Fin 8)) false false ∧ (pulse 0).tpoEnabled (7 : Fin 8) = false ∧
    ((pulse 0).tpoTaken .host 7).actB (TuTpo.adr 7) TuTpo.mode = false ∧
    pulseOk false (((pulse 0).tpoTaken .host 7).act (TuTpo.adr 7) TuTpo.period) (((pulse 0).tpoTaken .host 7).act (TuTpo.adr 7) TuTpo.width) = true ∧
    ((pulse 0).tpoTaken .host 7).act (TuTpo.adr 7) TuTpo.startSec * 1000000000 +
      ((pulse 0).tpoTaken .host 7).act (TuTpo.adr 7) TuTpo.startNs < (pulse 0).lineNs + 128 := by decide +kernel
theorem wit_tpo_edges : ((up.modTpo 7 fun p => { p with next := some 5, trail := some 9 }).tpo (7 : Fin 8)).next = some 5 ∧
    ((up.modTpo 7 fun p => { p with trail := some 9 }).tpo (7 : Fin 8)).trail = some 9 ∧
    ((up.modTpo 7 fun p => { p with trail := some 9 }).tpo (7 : Fin 8)).next = none ∧
    ((up.modTpo 7 fun p => { p with next := some 5, trail := some 9 }).tpo (7 : Fin 8)).trail = some 9 ∧
    ((up.modTpo 7 fun p => { p with next := some 5, trail := some 9 }).tpo (7 : Fin 8)).next ≠ none ∧ 5 ≤ up.lineNs + 40 ∧ 9 ≤ up.lineNs + 40 ∧
    ((up.modTpo 7 fun p => { p with next := some 41, trail := some 41 }).tpo (7 : Fin 8)).next = some 41 ∧
    ((up.modTpo 7 fun p => { p with next := some 41, trail := some 41 }).tpo (7 : Fin 8)).trail = some 41 ∧
    (up.modTpo 7 fun p => { p with next := some 41, trail := some 41 }).lineNs + 40 < 41 := by decide +kernel

/-! Hypotheses of ResetsOfTheDevice. -/

theorem wit_perst : ∃ s : State, s.boot.perst = false ∧ s.pwr.off = false ∧ s.regs ≠ [] :=
  ⟨up.modBoot fun b => { b with perst := false }, by decide +kernel⟩
theorem wit_perst_fall : up.boot.perst = true ∧ up.pwr.off = false := by decide +kernel
theorem wit_off : ({ up with pwr := { up.pwr with off := true } } : State).pwr.off = true := rfl

/-! Hypotheses of StartStepsPass. -/

/-- The device after reset, at step `n` of its start. -/
def atStart (n : Nat) : State := State.reset.set BootStatus.adr BootStatus.step n
theorem wit_strap : (atStart 1).atStep 1 = true ∧ (atStart 1).boot.wake = false ∧ (atStart 1).boot.replacing = none := by decide +kernel
theorem wit_strap_bad : [(0 : BitVec 2), 1].all (fun x => x == [(0 : BitVec 2), 1].headD 0) = false := by decide
theorem wit_steps : (atStart 2).atStep 2 = true ∧ (atStart 3).atStep 3 = true ∧ (atStart 4).atStep 4 = true ∧ (atStart 5).atStep 5 = true ∧
    (atStart 8).atStep 8 = true ∧ (atStart 9).atStep 9 = true ∧ (atStart 10).atStep 10 = true := by decide +kernel
theorem wit_header : (atStart 6).atStep 6 = true ∧ hdrValid 0x1000000 header = true ∧ hdrValid 0x1000000 [] = false := by decide +kernel
theorem wit_apply : ((atStart 255).set CfgStatus.adr CfgStatus.phase 2).get CfgStatus.adr CfgStatus.phase = 2 ∧
    ((atStart 255).set CfgStatus.adr CfgStatus.phase 2).halted = false := by decide +kernel

/-! Hypotheses of ImagesAreInstalledChosenAndRun. -/

/-- A firmware image of 264 bytes that no key signed, and a configuration image without records. -/
def fwImage : List Byte :=
  let b := leBytes 4 0x57464B48 ++ leBytes 4 2 ++ leBytes 4 0 ++ leBytes 4 1 ++ leBytes 4 264 ++ leBytes 4 0
  let body : List Byte := [1, 2, 3, 4, 5, 6, 7, 8]
  b ++ leBytes 4 (crc32 (b ++ body)) ++ List.replicate 228 0 ++ body
def cfgImage : List Byte :=
  let b := leBytes 4 0x46434B48 ++ leBytes 4 3 ++ leBytes 4 0 ++ leBytes 4 1 ++ leBytes 4 256 ++ leBytes 4 0
  b ++ leBytes 4 (crc32 b) ++ List.replicate 228 0
/-- A device of scale 1 at step `n`, with a flash header, slots A read and no device key to check a seal with. -/
def withImages (n : Nat) : State :=
  let s := (atStart n).set BootStatus.adr BootStatus.scale 1
  s.modBoot fun b => { b with
    fuses := { duk := [], vendorHash := [0, 0, 0, 0], ownerHash := [0, 0, 0, 0], vendorRevoked := 0, ownerRevoked := 0, fwPos := (0, 0), cfgPos := (0, 0) }
    hdr := some { parseHdr header with fwA := 0x20000, fwSize := 0x10000, cfgA := 0x30000, cfgSize := 0x10000, stage := 0x40000, stageSize := 0x20000 }
    slotHdrs := [fwImage.take 256, [], cfgImage, []], reads := [fwImage, [], cfgImage, []] }
/-- An envelope whose MARKER shows an install pending. -/
def envelope : List Byte := leBytes 4 0xA55AC33C ++ [1]
theorem wit_install : (withImages 7).atStep 7 = true ∧ (withImages 7).boot.replacing = none ∧ (withImages 7).boot.hdr.isSome = true ∧
    leAt [] 0 4 ≠ 0xA55AC33C ∧ leAt envelope 0 4 = 0xA55AC33C ∧ leAt envelope 4 1 = 1 ∧
    ((withImages 7).modBoot fun b => { b with romKey := some [] }).chooseSlot true [[].take 256, [].take 256] [[], []] = some ⟨none, false, false⟩ := by decide +kernel
theorem wit_install_cfg : ((withImages 7).modBoot fun b => { b with romKey := some [] }).boot.romKey = some [] ∧
    leAt (leBytes 4 0xA55AC33C ++ [2]) 4 1 = 2 ∧ leAt (leBytes 4 0xA55AC33C ++ [2]) 0 4 = 0xA55AC33C ∧
    (withImages 7).chooseSlot false [[].take 256, [].take 256] [[], []] = some ⟨none, false, false⟩ := by decide +kernel
theorem wit_fw : (withImages 9).atStep 9 = true ∧ (withImages 9).boot.replacing = none ∧
    (withImages 9).candidateSlots true [(withImages 9).boot.slotHdrs.getD 0 [], (withImages 9).boot.slotHdrs.getD 1 []] ≠ [] ∧
    (withImages 9).chooseSlot true [(withImages 9).boot.slotHdrs.getD 0 [], (withImages 9).boot.slotHdrs.getD 1 []]
      [(withImages 9).boot.reads.getD 0 [], (withImages 9).boot.reads.getD 1 []] = some ⟨some 0, false, false⟩ ∧ (withImages 9).scale < 3 := by decide +kernel
theorem wit_fw_reread : (withImages 9).boot.reread ≠ some 0 ∧ ((withImages 9).modBoot fun b => { b with reread := some 0 }).boot.reread = some 0 ∧
    ((withImages 9).modBoot fun b => { b with reread := some 0 }).scale < 3 ∧ ((withImages 9).modBoot fun b => { b with reread := some 0 }).atStep 9 = true := by decide +kernel
theorem wit_cfg : (withImages 10).atStep 10 = true ∧ (withImages 10).boot.replacing = none ∧ (withImages 10).boot.wake = false ∧
    (withImages 10).chooseSlot false [(withImages 10).boot.slotHdrs.getD 2 [], (withImages 10).boot.slotHdrs.getD 3 []]
      [(withImages 10).boot.reads.getD 2 [], (withImages 10).boot.reads.getD 3 []] = some ⟨some 0, false, false⟩ ∧ (withImages 10).scale < 3 := by decide +kernel
theorem wit_no_cfg : (atStart 10).scale < 3 ∧ (atStart 10).chooseSlot false [(atStart 10).boot.slotHdrs.getD 2 [], (atStart 10).boot.slotHdrs.getD 3 []]
      [(atStart 10).boot.reads.getD 2 [], (atStart 10).boot.reads.getD 3 []] = some ⟨none, false, false⟩ := by decide +kernel
theorem wit_release : (((atStart 11).set SysTrust.adr SysTrust.trustLost 1).set CfgStatus.adr CfgStatus.phase 1).atStep 11 = true ∧
    (((atStart 11).set SysTrust.adr SysTrust.trustLost 1).set CfgStatus.adr CfgStatus.phase 1).getB SysTrust.adr SysTrust.trustLost = true ∧
    (((atStart 11).set SysTrust.adr SysTrust.trustLost 1).set CfgStatus.adr CfgStatus.phase 1).get CfgStatus.adr CfgStatus.phase = 1 := by decide +kernel

/-! Hypotheses of StartStepsHalt. -/

theorem wit_halt_steps : (atStart 3).boot.replacing = none ∧ (0x3 : BitVec 17).getLsbD 0 = true ∧ (0x3 : BitVec 17).getLsbD 1 = true ∧ (true && false) = false := by decide +kernel
theorem wit_no_header : ((atStart 6).modBoot fun b => { b with sfdp := some (200, 0x1000000) }).atStep 6 = true ∧ hdrValid 0x1000000 [] = false := by decide +kernel
theorem wit_no_fw : (atStart 9).atStep 9 = true ∧ (atStart 9).boot.replacing = none ∧
    sound true ((atStart 9).slotSize true) (atStart 9).scale ((atStart 9).boot.slotHdrs.getD 0 []) = false ∧
    sound true ((atStart 9).slotSize true) (atStart 9).scale ((atStart 9).boot.slotHdrs.getD 1 []) = false := by decide +kernel
/-- The device with a firmware counter of 1, above the EPOCH of the image in slot A. -/
def rolledBack : State := (withImages 9).modBoot fun b => { b with fuses := { b.fuses with fwPos := (1, 0) } }
theorem wit_rolled_back : rolledBack.atStep 9 = true ∧ rolledBack.boot.replacing = none ∧
    sound true (rolledBack.slotSize true) rolledBack.scale (rolledBack.boot.slotHdrs.getD 0 []) = true ∧
    imgEpoch (rolledBack.boot.slotHdrs.getD 0 []) < rolledBack.fwCounter ∧
    sound true (rolledBack.slotSize true) rolledBack.scale (rolledBack.boot.slotHdrs.getD 1 []) = false := by decide +kernel
theorem wit_watchdog : (atStart 10).boot.perst = true ∧ (atStart 10).pwr.off = false ∧ (atStart 10).halted = false ∧ (atStart 10).bootStep < 11 := by decide +kernel
theorem wit_watchdog_ends : (atStart 10).atStep (atStart 10).bootStep = true ∧ (atStart 10).boot.wdTicks < 2 ^ 32 ∧ (atStart 10).mgtUp = true ∧ (atStart 10).time.waiting = [] ∧
    ((atStart 10).modBoot fun b => { b with wdTicks := 2 ^ 32 - 1 }).boot.wdTicks + 1 = 2 ^ 32 ∧
    2 ^ 32 ≤ ((atStart 10).modBoot fun b => { b with wdTicks := 2 ^ 32 }).boot.wdTicks := by decide +kernel
theorem wit_halted : ((atStart 4).set BootStatus.adr BootStatus.haltCode 9).halted = true := by decide +kernel

/-! Hypotheses of RecordsOfTheImage. -/

/-- A device of scale `n` in its apply pass, with one record of 8 bytes and a body still to be read. -/
def passing (n : Nat) (head body : List Byte) : State :=
  let s := ((((up.set BootStatus.adr BootStatus.scale n).set CfgStatus.adr CfgStatus.phase 2).set CfgStatus.adr CfgStatus.format 3).set (Hdr.adr 21) Hdr.state 1).set
    (Hdr.adr 21) Hdr.cause 3
  let buf := List.replicate 16 0 ++ leBytes 4 (264 + body.length) ++ List.replicate 236 0 ++ head ++ body
  s.modBoot fun b => { b with cursor := 256, named := [(21, 1)], applyBuf := buf }
/-- The bytes of a record header. -/
def recBytes (type unit ifv len flags : Nat) : List Byte := leBytes 2 type ++ leBytes 1 unit ++ leBytes 1 ifv ++ leBytes 2 len ++ leBytes 2 flags
theorem wit_pad : ((passing 4 (recBytes 0 0 0 0 0) []).nextRecord.map fun x => x.1.type) = some 0 := by decide +kernel
theorem wit_intent : (passing 4 (recBytes 1 21 1 8 0) (leBytes 4 0x1100 ++ leBytes 4 1)).nextRecord =
      some (⟨1, 21, 1, 8, false, false, 8⟩, leBytes 4 0x1100 ++ leBytes 4 1) ∧
    (passing 4 (recBytes 1 21 1 8 0) (leBytes 4 0x1100 ++ leBytes 4 1)).Applies ⟨1, 21, 1, 8, false, false, 8⟩ ∧
    areaPairs 21 0x1000 0x4000 (leBytes 4 0x1100 ++ leBytes 4 1) = some [(0x1501100, 1)] ∧
    (((passing 4 (recBytes 1 21 1 8 0) (leBytes 4 0x1100 ++ leBytes 4 1)).pastRecord ⟨1, 21, 1, 8, false, false, 8⟩).writePairs .record [(0x1501100, 1)]).2 = .yes := by
  decide +kernel
/-- An INTENT record of U21, which is READY, that changes a class S field. -/
def staticPass : State := (passing 4 (recBytes 1 21 1 8 0) (leBytes 4 0x1100 ++ leBytes 4 0x01000000)).set (Hdr.adr 21) Hdr.state 2
theorem wit_intent_static : staticPass.nextRecord = some (⟨1, 21, 1, 8, false, false, 8⟩, leBytes 4 0x1100 ++ leBytes 4 0x01000000) ∧
    staticPass.Applies ⟨1, 21, 1, 8, false, false, 8⟩ ∧ areaPairs 21 0x1000 0x4000 (leBytes 4 0x1100 ++ leBytes 4 0x01000000) = some [(0x1501100, 0x01000000)] ∧
    ((staticPass.pastRecord ⟨1, 21, 1, 8, false, false, 8⟩).writePairs .record [(0x1501100, 0x01000000)]).2 = .static := by decide +kernel
theorem wit_expert : (passing 4 (recBytes 2 21 1 8 0) (leBytes 4 0x8000 ++ leBytes 4 0)).nextRecord =
      some (⟨2, 21, 1, 8, false, false, 8⟩, leBytes 4 0x8000 ++ leBytes 4 0) ∧
    (passing 4 (recBytes 2 21 1 8 0) (leBytes 4 0x8000 ++ leBytes 4 0)).Applies ⟨2, 21, 1, 8, false, false, 8⟩ ∧
    areaPairs 21 0x8000 0x20000 (leBytes 4 0x8000 ++ leBytes 4 0) = some [(0x1508000, 0)] ∧
    ((((passing 4 (recBytes 2 21 1 8 0) (leBytes 4 0x8000 ++ leBytes 4 0)).pastRecord ⟨2, 21, 1, 8, false, false, 8⟩).setExpert 21 true).writePairs .record [(0x1508000, 0)]).2 = .yes := by
  decide +kernel
theorem wit_array : (passing 4 (recBytes 3 21 1 8 0) (leBytes 4 0x40000 ++ leBytes 4 5)).nextRecord =
      some (⟨3, 21, 1, 8, false, false, 8⟩, leBytes 4 0x40000 ++ leBytes 4 5) ∧
    (passing 4 (recBytes 3 21 1 8 0) (leBytes 4 0x40000 ++ leBytes 4 5)).Applies ⟨3, 21, 1, 8, false, false, 8⟩ ∧
    (passing 4 (recBytes 3 21 1 8 0) (leBytes 4 0x40000 ++ leBytes 4 5)).boot.wake = false ∧ leAt (leBytes 4 0x40000 ++ leBytes 4 5) 0 4 = 0x40000 ∧
    (((passing 4 (recBytes 3 21 1 8 0) (leBytes 4 0x40000 ++ leBytes 4 5)).pastRecord ⟨3, 21, 1, 8, false, false, 8⟩).writePairs .record [(0x1540000, 5)]).2 = .yes := by
  decide +kernel
theorem wit_ready : (passing 4 (recBytes 4 21 1 0 0) []).nextRecord = some (⟨4, 21, 1, 0, false, false, 8⟩, []) ∧
    (passing 4 (recBytes 4 21 1 0 0) []).Applies ⟨4, 21, 1, 0, false, false, 8⟩ ∧ (passing 4 (recBytes 4 21 1 0 0) []).applying 21 = true ∧
    ((passing 4 (recBytes 4 21 1 0 0) []).lostBanks 21).2 = 0 ∧ (passing 4 (recBytes 4 21 1 0 0) []).prereqsReady 21 = true ∧
    (passing 4 (recBytes 4 21 1 0 0) []).getB (Hdr.adr 21) Hdr.hold = false := by decide +kernel
/-- The same for U13, which needs U21, while U21 still starts. -/
def waiting : State :=
  let s := ((passing 4 (recBytes 4 13 1 0 0) []).set (Hdr.adr 13) Hdr.state 1).set (Hdr.adr 13) Hdr.cause 3
  s.modBoot fun b => { b with named := [(13, 1)] }
theorem wit_held : waiting.nextRecord = some (⟨4, 13, 1, 0, false, false, 8⟩, []) ∧ waiting.Applies ⟨4, 13, 1, 0, false, false, 8⟩ ∧
    waiting.applying 13 = true ∧ (waiting.lostBanks 13).2 = 0 ∧ waiting.prereqsReady 13 = false := by decide +kernel
theorem wit_slew : (passing 4 (recBytes 0x100 21 1 4 0) (leBytes 4 0x55)).nextRecord = some (⟨0x100, 21, 1, 4, false, false, 8⟩, leBytes 4 0x55) ∧
    (passing 4 (recBytes 0x100 21 1 4 0) (leBytes 4 0x55)).Applies ⟨0x100, 21, 1, 4, false, false, 8⟩ ∧ leAt (leBytes 4 0x55) 0 4 < 256 := by decide +kernel
theorem wit_skip : ((passing 1 (recBytes 1 16 1 0 0) []).nextRecord.map fun x => x.1.unit) = some 16 ∧ scaleOff (passing 1 (recBytes 1 16 1 0 0) []).scale 16 = true := by
  decide +kernel
theorem wit_reserved : (passing 4 (recBytes 1 21 1 0 2) []).nextRecord = some (⟨1, 21, 1, 0, false, true, 8⟩, []) ∧ scaleOff (passing 4 (recBytes 1 21 1 0 2) []).scale 21 = false ∧
    (passing 4 (recBytes 1 21 1 0 2) []).boot.refusedUnits.contains 21 = false := by decide +kernel
theorem wit_named : ((passing 4 (recBytes 1 21 2 0 0) []).modBoot fun b => { b with named := [] }).nextRecord = some (⟨1, 21, 2, 0, false, false, 8⟩, []) ∧
    ((passing 4 (recBytes 1 21 2 0 0) []).modBoot fun b => { b with named := [] }).boot.named = [] ∧ ifvMinOf 21 ≤ 2 := by decide +kernel
theorem wit_pass_end : ((passing 4 [] []).modBoot fun b => { b with cursor := 264 }).applyPass = true ∧
    256 ≤ ((passing 4 [] []).modBoot fun b => { b with cursor := 264 }).boot.applyBuf.length ∧
    ((passing 4 [] []).modBoot fun b => { b with cursor := 264 }).imageEnd ≤ ((passing 4 [] []).modBoot fun b => { b with cursor := 264 }).boot.cursor := by decide +kernel

/-! Hypotheses of RegisterWritesStoreOrAreRefused. -/

theorem wit_store : up.Stores .host 0x301008 700 ∧ up.Open (up.side .host 0x301008) 3 0x1008 (up.needsLead 0x301008 1 700)
    (up.owns (up.side .host 0x301008) 0x301008 1 700) := by decide +kernel
theorem wit_axis : up.Stores .host (MpiAxis.adr (4095 : Fin 4096) + 4 * (4 : Fin 16)) 3 ∧
    up.side .host (MpiAxis.adr (4095 : Fin 4096) + 4 * (4 : Fin 16)) = .host ∧
    up.Open .host 5 ((MpiAxis.adr (4095 : Fin 4096) + 4 * (4 : Fin 16)) % 0x100000) true
      (up.owns .host (MpiAxis.adr (4095 : Fin 4096) + 4 * (4 : Fin 16)) 1 3) := by
  decide +kernel
theorem wit_axis_low : up.nowhere (MpiAxis.adr (0 : Fin 4096) + 0x18) = false ∧ up.Open .host 5 ((MpiAxis.adr (0 : Fin 4096) + 0x18) % 0x100000) false true := by
  decide +kernel
theorem wit_pattern : up.Stores .host (PpPattern.adr (3 : Fin 4) (63 : Fin 64)) 0x81000001 ∧
    up.Open .host (6 + (3 : Fin 4)) (PpPattern.adr (3 : Fin 4) (63 : Fin 64) % 0x100000) true false := by decide +kernel
theorem wit_hash : up.Stores .host (PpHashKey.adr (1 : Fin 4) (255 : Fin 256) 9) 5 ∧
    up.Open .host (6 + (1 : Fin 4)) (PpHashKey.adr (1 : Fin 4) (255 : Fin 256) 9 % 0x100000) true false := by decide +kernel
theorem wit_prestart : up.ready 3 = true ∧ 512 ≤ (512 : BitVec 16).toNat ∧ (511 : BitVec 16).toNat < 512 ∧ up.Open .host 3 0x1008 false false := by decide +kernel
theorem wit_partial : up.Open .host (0x301009 / 0x100000) (0x301009 % 0x100000) false true ∧ 0x301009 % 4 ≠ 0 := by decide +kernel
theorem wit_static : up.scale = 4 ∧ up.ready 21 = true ∧ up.changes up.staticBits (Dpx.adr (15 : Fin 16)) 1 ((0x01000000 : Word)).toNat = true ∧
    up.Open .host 21 (Dpx.adr (15 : Fin 16) % 0x100000) true false := by decide +kernel
theorem wit_effect : (up.setForce TuPrestart.adr 5).act TuPrestart.adr TuPrestart.lead ≠ (up.setForce TuPrestart.adr 5).get TuPrestart.adr TuPrestart.lead := by
  decide +kernel

/-! Hypotheses of UnitsAreResetHeldAndStarted. -/

theorem wit_unit_reset : up.Open .host (23 : Fin 24) 0x18 true false ∧ neverHeld (23 : Fin 24) = false ∧
    [2, 3, 4, 5, 6].contains (up.ustate (23 : Fin 24)) = true ∧ up.ustate (23 : Fin 24) = stREADY := by decide +kernel
/-- A device on which U11 starts again after a unit reset, or is held by the lead. -/
def unitIn (state cause : Nat) : State := (up.set (Hdr.adr 11) Hdr.state state).set (Hdr.adr 11) Hdr.cause cause
theorem wit_unit_go : (unitIn 1 4).Open .host (11 : Fin 24) 0x18 true false ∧ (unitIn 1 4).ustate (11 : Fin 24) = stSTARTING ∧
    (unitIn 1 4).ucause (11 : Fin 24) = caUNIT_RESET ∧ (unitIn 1 4).prereqsReady (11 : Fin 24) = true ∧
    (unitIn 1 4).getB (Hdr.adr (11 : Fin 24)) Hdr.hold = false := by decide +kernel
theorem wit_unit_held : (unitIn 3 0x21).Open .host (11 : Fin 24) 0x18 true false ∧ (unitIn 3 0x21).ustate (11 : Fin 24) = stHELD ∧
    (unitIn 3 0x21).ucause (11 : Fin 24) = caHOLD_LEAD := by decide +kernel
/-- U04 is held by the lead, and the record that makes U05 READY waits for it. -/
def cascading : State :=
  let s1 := ((up.set (Hdr.adr 4) Hdr.state 3).set (Hdr.adr 4) Hdr.cause 0x21).set (Hdr.adr 5) Hdr.state 1
  (s1.set (Hdr.adr 5) Hdr.cause 3).modBoot fun b => { b with heldReady := [5] }
theorem wit_cascade : cascading.Open .host 4 0x18 true false ∧ cascading.ustate 4 = stHELD ∧ cascading.ucause 4 = caHOLD_LEAD ∧
    cascading.boot.heldReady = [5] ∧ cascading.applying 5 = true ∧ cascading.getB (Hdr.adr 5) Hdr.hold = false := by decide +kernel
theorem wit_unit_expert : up.Open .host (13 : Fin 24) 0x18 true false ∧ up.getB (Hdr.adr (13 : Fin 24)) Hdr.hold = false ∧ up.ustate (13 : Fin 24) ≠ stHELD ∧
    (up.set (Hdr.adr 13) Hdr.expert 1).Open .host (13 : Fin 24) 0x18 true false ∧ (up.set (Hdr.adr 13) Hdr.expert 1).expert (13 : Fin 24) = true ∧
    (up.set (Hdr.adr 13) Hdr.expert 1).getB (Hdr.adr (13 : Fin 24)) Hdr.hold = false ∧ (up.set (Hdr.adr 13) Hdr.expert 1).ready (13 : Fin 24) = true := by decide +kernel
theorem wit_unit_never : up.Open .host (14 : Fin 24) 0x18 true false ∧ neverHeld (14 : Fin 24) = true := by decide +kernel
theorem wit_unit_level : (unitIn 1 4).Open .host (11 : Fin 24) 8 false false ∧ (unitIn 1 4).ready (11 : Fin 24) = false ∧
    up.Open .host (11 : Fin 24) 8 false false ∧ founding (11 : Fin 24) = false ∧ up.ready (11 : Fin 24) = true ∧
    (2 : BitVec 8).toNat ≠ up.get (Hdr.adr (11 : Fin 24)) Hdr.ifvReq := by decide +kernel
theorem wit_founding_level : up.Open .host (14 : Fin 24) 8 false false ∧ founding (14 : Fin 24) = true ∧ up.ready (14 : Fin 24) = true ∧
    ifvMinOf (14 : Fin 24) ≤ (2 : BitVec 8).toNat ∧ (2 : BitVec 8).toNat ≠ up.act (Hdr.adr (14 : Fin 24)) Hdr.ifvReq ∧
    up.act (Hdr.adr (14 : Fin 24)) Hdr.ifvReq = up.get (Hdr.adr (14 : Fin 24)) Hdr.ifvReq := by decide +kernel

/-! Hypotheses of WritesThatAreStopped. -/

/-- The device with step 1 of its start halted, in Off, or at scale 1. -/
def stopped : State := up.set BootStatus.adr BootStatus.haltCode 9
theorem wit_dark : ({ up with pwr := { up.pwr with off := true } } : State).dark 3 = true := by decide +kernel
theorem wit_scale_off : scaleOff (up.set BootStatus.adr BootStatus.scale 1).scale 16 = true := by decide +kernel
theorem wit_stopped : stopped.dark 3 = false ∧ stopped.halted = true := by decide +kernel
theorem wit_applying : ((up.set (Hdr.adr 3) Hdr.state 1).set (Hdr.adr 3) Hdr.cause 3).dark 3 = false ∧
    ((up.set (Hdr.adr 3) Hdr.state 1).set (Hdr.adr 3) Hdr.cause 3).halted = false ∧
    ((up.set (Hdr.adr 3) Hdr.state 1).set (Hdr.adr 3) Hdr.cause 3).ustate 3 = stSTARTING ∧
    ((up.set (Hdr.adr 3) Hdr.state 1).set (Hdr.adr 3) Hdr.cause 3).ucause 3 = caAPPLYING := by decide +kernel
theorem wit_no_lead : up.dark 3 = false ∧ up.halted = false ∧ ¬(up.ustate 3 = stSTARTING ∧ up.ucause 3 = caAPPLYING) ∧ up.leads .management = false := by
  decide +kernel
theorem wit_slice : (up.set (HifSlice.adr (5 : Fin 256)) HifSlice.state 1).bound (5 : Fin 256) = true ∧ up.bound (5 : Fin 256) = false := by decide +kernel
/-- Slice 5 is bound on PF2. -/
def foreign : State := (up.set (HifSlice.adr 5) HifSlice.state 1).set (HifSlice.adr 5) HifSlice.pf 2
theorem wit_slice_foreign : (up.set (HifSlice.adr 5) HifSlice.state 1).slicePf (5 : Fin 256) = 0 ∧ foreign.slicePf (5 : Fin 256) ≠ 0 ∧ queueKindAt TuPrestart.adr = none := by
  decide +kernel

/-! Hypotheses of FuseCommands. -/

/-- A trusted device with two vendor keys, an owner key, and images of EPOCH 5 running. -/
def trusted : State := up.modBoot fun b => { b with
  fuses := { duk := [], vendorHash := [7, 8, 0, 0], ownerHash := [9, 0, 0, 0], vendorRevoked := 0, ownerRevoked := 0, fwPos := (1, 1), cfgPos := (0, 0) }
  fw := some (0, 0x20000000, 5, 1), cfg := some (5, 1) }
theorem wit_fuse_open : trusted.Open .host 1 0x1014 true false ∧ trusted.getB BootFuseResult.adr BootFuseResult.busy = false ∧
    trusted.getB SysTrust.adr SysTrust.trustLost = false := by decide +kernel
theorem wit_fuse_advance : trusted.fuseValueBad (.advanceFw (5 : BitVec 8).toNat) = false ∧ trusted.fwCounter < (5 : BitVec 8).toNat ∧
    trusted.fuseValueBad (.advanceCfg (5 : BitVec 8).toNat) = false ∧ trusted.cfgCounter < (5 : BitVec 8).toNat := by decide +kernel
theorem wit_fuse_revoke : trusted.boot.fuses.lastKey true 1 = false ∧ trusted.boot.fuses.lastKey false 3 = false ∧
    ({ trusted.boot.fuses with vendorRevoked := 2 } : Fuses).lastKey true 0 = true := by decide +kernel
theorem wit_fuse_busy : (trusted.set BootFuseResult.adr BootFuseResult.busy 1).Open .host 1 0x1014 true false ∧
    (trusted.set BootFuseResult.adr BootFuseResult.busy 1).getB BootFuseResult.adr BootFuseResult.busy = true := by decide +kernel
theorem wit_fuse_done : (trusted.modBoot fun b => { b with fuseCmd := some (.advanceFw 64) }).boot.fuseCmd = some (.advanceFw 64) ∧
    (trusted.modBoot fun b => { b with fuseCmd := some (.advanceFw 64) }).fwCounter ≤ 64 ∧
    (trusted.modBoot fun b => { b with fuseCmd := some (.revokeVendor 3) }).boot.fuseCmd = some (.revokeVendor (3 : Fin 4)) := by decide +kernel

/-! Hypotheses of CoresAreReleasedAndImagesStaged. -/

theorem wit_release_write : up.Open .firmware 1 0x1020 false false ∧ up.scale = 4 ∧ (0x3000000 : BitVec 26) ≠ 0 ∧ up.get BootRunning.adr BootRunning.core = 0 ∧ up.boot.released = 0 ∧
    up.Open .host 1 0x1020 false false := by decide +kernel
theorem wit_first_fetch : (up.modBoot fun b => { b with released := 0x2000000 }).boot.released.getLsbD (25 : Fin 26) = true := by decide +kernel
/-- The device with a staging area of 128 KB, at offset `off` of it. -/
def stagingAt (off : Nat) : State :=
  ((up.set CfgStatus.adr CfgStatus.phase 3).set CfgStageAddr.adr CfgStageAddr.offset off).modBoot fun b => { b with
    hdr := some { parseHdr header with stage := 0x40000, stageSize := 0x20000 } }
theorem wit_stage_word : (stagingAt 0).Open .host 2 0x1014 true false ∧ (stagingAt 0).stageOpen = true ∧ (stagingAt 0).getB CfgStageCmd.adr CfgStageCmd.busy = false ∧
    (stagingAt 0).get CfgStageAddr.adr CfgStageAddr.offset + 4 ≤ (stagingAt 0).stageArea.2 ∧ (stagingAt 0).get CfgStageAddr.adr CfgStageAddr.offset % 256 ≠ 252 := by decide +kernel
theorem wit_stage_last : (stagingAt 0x1FFFC).Open .host 2 0x1014 true false ∧ (stagingAt 0x1FFFC).stageOpen = true ∧
    (stagingAt 0x1FFFC).get CfgStageAddr.adr CfgStageAddr.offset + 4 ≤ (stagingAt 0x1FFFC).stageArea.2 ∧ (stagingAt 0x1FFFC).get CfgStageAddr.adr CfgStageAddr.offset % 256 = 252 := by decide +kernel
theorem wit_stage_out : (stagingAt 0x20000).Open .host 2 0x1014 true false ∧ (stagingAt 0x20000).stageArea.2 < (stagingAt 0x20000).get CfgStageAddr.adr CfgStageAddr.offset + 4 := by
  decide +kernel
theorem wit_stage_busy : up.Open .host 2 0x1014 true false ∧ up.stageOpen = false := by decide +kernel
theorem wit_stage_cmd : (stagingAt 0).Open .host 2 0x1018 true false ∧ (stagingAt 0).get CfgStageAddr.adr CfgStageAddr.offset < (stagingAt 0).stageArea.2 ∧
    (stagingAt 0).stageArea.2 ≠ 0 ∧ ((stagingAt 0).modBoot fun b => { b with page := [(4, 5)] }).boot.page = [(4, 5)] ∧
    ((stagingAt 0).modBoot fun b => { b with page := [(4, 5)] }).Open .host 2 0x1018 true false := by decide +kernel
theorem wit_stage_done : (up.modBoot fun b => { b with stageOp := some (.erase 0x40000) }).boot.stageOp = some (.erase 0x40000) := rfl

/-! Hypotheses of BoundariesSetModesAndFlipImages. -/

/-- Rope 0 runs with a period of 10 us at 1 us into cycle 0; station 5 is on it, on drive port 1. -/
def roped : State :=
  let s1 := (up.set CxeBase.adr CxeBase.steps 1250).set (CxeRope.adr 0) CxeRope.mult 1
  let s2 := ((s1.set (CxeRope.adr 0) CxeRope.shift 0).set (CxeRope.adr 0) CxeRope.enable 1).set (CxeRope.adr 0) CxeRope.stMode 1
  let s3 := ((s2.set (CxeRope.adr 0) CxeRope.deadline 500).set (CxeRope.adr 0) CxeRope.apply 600).set (CxePortRope.adr 1 0) CxePortRope.launch 100
  let s4 := ((s3.set (CxeStn.adr 5) CxeStn.enable 1).set (CxeStn.adr 5) CxeStn.port 1).set (CxeStn.adr 5) CxeStn.version 1
  ((s4.set (CxeStn.adr 5) CxeStn.outLen 8).set (CxeStn.adr 5) CxeStn.inLen 8).set (Hdr.adr 5) Hdr.state 0
/-- The same device at line time `ns`. -/
def atLine (s : State) (ns : Nat) : State := s.modTime fun t => { t with line := ns * 2 ^ 32 }
/-- Rope 0 in mode `m`. -/
def inMode (m : Nat) : State := roped.set (CxeRope.adr 0) CxeRope.stMode m
theorem wit_boundary : (atLine roped 20000).lineNs ≤ 20000 ∧ 20000 ≤ (atLine roped 20000).lineNs + 40 ∧ (atLine roped 20000).ready 4 = true ∧
    (atLine roped 20000).ready 5 = false ∧ (atLine roped 20000).ustate 5 ≠ stHELD ∧ (atLine roped 20000).ropesAt 20000 = [0] ∧
    0 < (atLine roped 20000).cxe.ropes.length ∧ (atLine roped 20000).inPause 0 20000 = false ∧
    ((atLine roped 20000).ropeLatch 0).nextMode 0 ≠ rmOFF ∧ ((atLine roped 20000).ropeLatch 0).getB (CxeRope.adr 0) CxeRope.stPending = false := by decide +kernel
theorem wit_boundary_commit : ((((atLine roped 20000).set (CxeRope.adr 0) CxeRope.stPending 1).set (CxeRope.adr 0) CxeRope.stTarget 2).ropeLatch 0).nextMode 0 = rmRUN ∧
    ((((atLine roped 20000).set (CxeRope.adr 0) CxeRope.stPending 1).set (CxeRope.adr 0) CxeRope.stTarget 2).ropeLatch 0).get (CxeRope.adr 0) CxeRope.stTarget =
      cycleAt (atLine roped 20000).inForce 0 20000 % 65536 := by decide +kernel
theorem wit_boundary_held : (((atLine roped 20000).set (Hdr.adr 4) Hdr.state 3)).ustate 4 = stHELD ∧
    (((atLine roped 20000).set (Hdr.adr 4) Hdr.state 3)).ropesAt 20000 = [0] ∧
    ((((atLine roped 20000).set (Hdr.adr 4) Hdr.state 3)).ropeLatch 0).ropeMode 0 ≠ rmOFF := by decide +kernel
theorem wit_modes : up.actB (CxeRope.adr 15) CxeRope.enable = false ∧ (inMode 0).actB (CxeRope.adr 0) CxeRope.enable = true ∧ (inMode 0).ropeMode 0 = rmOFF ∧
    (inMode 3).ropeMode 0 ≠ rmOFF ∧ ((inMode 3).modRope 0 fun x => { x with lostStop := true }).actB (CxeRope.adr 0) CxeRope.enable = true ∧
    (((inMode 3).modRope 0 fun x => { x with lostStop := true }).rope 0).lostStop = true := by decide +kernel
/-- Rope 0 in mode `m` belongs to slice 0, which is bound on PF0 in state `st`. -/
def owned (m st : Nat) : State := (inMode m).set (HifSlice.adr 0) HifSlice.state st
theorem wit_frozen_modes : ((owned 0 slFROZEN).rope 0).freeze = false ∧ (owned 0 slFROZEN).frozen ((owned 0 slFROZEN).ropeSlice 0) = true ∧
    (owned 0 slFROZEN).actB (CxeRope.adr 0) CxeRope.enable = true ∧ (owned 0 slFROZEN).ropeMode 0 = rmOFF ∧ (owned 3 slFROZEN).ropeMode 0 ≠ rmOFF ∧
    (((owned 3 slFROZEN).rope 0).stopReq || ((owned 3 slFROZEN).rope 0).groupStop || ((owned 3 slFROZEN).rope 0).lostStop) = false := by decide +kernel
theorem wit_commit_slice : (owned 1 slBOUND).bound 0 = true ∧ (owned 1 slBOUND).slicePf 0 = 0 ∧ (owned 1 slBOUND).ropeSlice (0 : Fin 16) = 0 ∧
    (owned 1 slBOUND).Open (.slice 0) 4 (ropeOffset (0 : Fin 16) 0x30) false true ∧ ((owned 1 slBOUND).rope 0).held = false ∧ (owned 1 slBOUND).ropeMode 0 = rmRUN := by
  decide +kernel
theorem wit_commit : roped.Open .host 4 (ropeOffset (0 : Fin 16) 0x30) false true ∧ (roped.rope 0).held = false ∧ roped.ropeMode 0 = rmRUN ∧
    (inMode 4).ropeMode 0 ≠ rmRUN := by decide +kernel
theorem wit_commit_off : (inMode 0).Open .host 4 (ropeOffset (0 : Fin 16) 0x30) false true ∧ ((inMode 0).rope 0).held = false ∧ (inMode 0).ropeMode 0 = rmOFF ∧
    (inMode 4).ropeMode 0 ≠ rmOFF := by decide +kernel
theorem wit_ropeCtrl : (inMode 4).Open .host 4 (ropeOffset (0 : Fin 16) 0x2C) false false ∧ ({ inMode 4 with hif := { (inMode 4).hif with linkLost := false } } : State).resumeOk 0 = true ∧ (inMode 4).ropeMode 0 ≠ rmOFF ∧
    ({ inMode 4 with hif := { (inMode 4).hif with linkLost := true } } : State).resumeOk 0 = false := by decide +kernel

/-! Hypotheses of FramesAreBuiltAndLaunched. -/

/-- A built frame of rope 0 on drive port 1. -/
def cframe : CFrame := { port := 1, rope := 0, id := 0, cycle := 2, bytes := List.replicate 60 7, stations := [5], waiting := false, left := false, lost := false, stamp := 0 }
/-- The device with frames in hand, and the comparator of drive port 1 armed for rope 0 at 21000 ns. -/
def withFrames (fs : List CFrame) : State :=
  let s1 := (atLine roped 20900).set (Dpx.adr 1) Dpx.enable 1
  ({ s1 with cxe := { s1.cxe with frames := fs } }).modTime fun t => { t with armed := [(1, 0, 20930)] }
theorem wit_build : roped.ropeMode 0 ≠ rmOFF ∧ (roped.rope 0).held = false ∧ (roped.rope 0).built = false ∧ roped.cxeRuns = true ∧
    (roped.portFrames 0 1).length = 1 := by decide +kernel
theorem wit_comparator : ((withFrames [cframe]).cxe.frames.find? fun f : CFrame => f.port == (1 : Fin 16).val && f.rope == (0 : Fin 16).val && f.id == 0 && !f.left && !f.waiting) = some cframe ∧
    (withFrames [cframe]).armedAt 1 0 = some 20930 ∧ (withFrames [cframe]).driveOn 1 = true ∧ (withFrames [cframe]).lineNs ≤ 20930 ∧
    (withFrames [cframe]).cycleOk 1 = true ∧ (withFrames [{ cframe with id := 1 }]).cycleOk 1 = true := by decide +kernel
theorem wit_launch : ((withFrames [{ cframe with waiting := true }]).cxe.frames.find? fun f : CFrame => f.port == (1 : Fin 16).val && f.rope == (0 : Fin 16).val && !f.left) = some { cframe with waiting := true } ∧
    20930 ≤ (withFrames [{ cframe with waiting := true }]).lineNs + 40 ∧
    (({ withFrames [{ cframe with id := 1 }] with time := { up.time with armed := [] } } : State).armedAt 1 0) = none ∧
    (({ withFrames [{ cframe with id := 1 }] with time := { up.time with armed := [] } } : State).driveOn 1) = true := by decide +kernel
theorem wit_aperture : 0 + ([1, 2] : List Byte).length ≤ imageSize ∧ up.ustate 4 ≠ stABSENT ∧ up.haltStops .host 4 0 = false ∧
    within (roped.sliceImage (0 : Fin 256) 1) 0x200000 1 = false := by decide +kernel

/-! Hypotheses of RepliesAreGatheredAndPublished. -/

/-- A v1 reply of rope 0 and cycle `c` with one segment of 8 bytes of station 5, on lane 0. -/
def laneFrame (c : Nat) (t : Option Nat) : LaneFrame :=
  { port := 1, rope := 0, cycle := c, version := 1, template := t
    payload := [0x10, 0x80] ++ beBytes 2 1 ++ beBytes 2 c ++ [0, 0, 0, 0, 0, 0] ++ beBytes 2 5 ++ beBytes 2 8 ++ List.replicate 8 9
    next := 0, count := 1, cells := 1, at_ := 20200 }
/-- The device in cycle 2 of rope 0 with frame `f` at the head of lane 0. -/
def gathering (f : LaneFrame) : State :=
  let s1 := ((atLine roped 24000).set (CxeRope.adr 0) CxeRope.cycle 2).modRope 0 fun x => { x with boundary := 20000, gatherCycle := 2, built := true }
  { s1 with cxe := { s1.cxe with lane0 := [f] } }
/-- A reply that a pipeline has steered to lane 0. -/
def replyFrame (body : List Byte) (ok : Bool) : PFrame :=
  { id := 0, role := 0, input := 1, bytes := List.replicate 12 0 ++ [0x88, 0xB5] ++ body, fcs := some ok, stamp := 0, dom0 := 0, dom1 := 0
    stampTag := none, oneStep := false, result := none }
/-- The device with a steered reply. -/
def steered (f : PFrame) (t : Option Nat) : State := { roped with pp := { roped.pp with toCxe := [(f, t)] } }
theorem wit_reply : takeLane 0 (steered (replyFrame (laneFrame 2 none).payload true) none).pp.toCxe = some ((replyFrame (laneFrame 2 none).payload true, none), []) ∧
    (steered (replyFrame [] true) (some 3)).cxeRuns = true ∧ (replyFrame [] false).fcs ≠ some true ∧
    ((steered (replyFrame [] true) none).set (Hdr.adr 4) Hdr.state 4).cxeRuns = false ∧
    takeLane 0 (steered (replyFrame [] true) (some 3)).pp.toCxe = some ((replyFrame [] true, some 3), []) := by decide +kernel
theorem wit_shape : replyShapeOk (laneFrame 2 none).payload = true ∧ replyShapeOk ({ laneFrame 2 none with payload := [0x30] } : LaneFrame).payload = false ∧
    (gathering { laneFrame 2 none with payload := [0x30] }).lane (0 : Fin 2) = [{ laneFrame 2 none with payload := [0x30] }] ∧
    (laneFrame 2 none).rope < (gathering (laneFrame 2 none)).cxe.ropes.length := by decide +kernel
theorem wit_segment : ropeOn (gathering (laneFrame 2 none)).inForce 0 = true ∧ (gathering (laneFrame 2 none)).ropeMode 0 ≠ rmOFF ∧
    ((gathering (laneFrame 2 none)).rope 0).held = false ∧ cycleIs (laneFrame 2 none) ((gathering (laneFrame 2 none)).rope 0).gatherCycle = true ∧
    cycleIs (laneFrame 1 none) ((gathering (laneFrame 1 none)).rope 0).gatherCycle = false ∧
    cycleIs (laneFrame 1 none) ((((gathering (laneFrame 1 none)).rope 0).gatherCycle + 2 ^ 32 - 1) % 2 ^ 32) = true ∧
    cycleIs (laneFrame 7 none) ((((gathering (laneFrame 7 none)).rope 0).gatherCycle + 2 ^ 32 - 1) % 2 ^ 32) = false ∧
    stnOn up.inForce (descAt 1 1 (laneFrame 2 none).payload 0).stn = false := by decide +kernel
theorem wit_template : ((gathering (laneFrame 2 (some 3))).lane (0 : Fin 2)) = [laneFrame 2 (some 3)] ∧
    ((gathering (laneFrame 2 (some 3))).rope (stnF (gathering (laneFrame 2 (some 3))).inForce ((gathering (laneFrame 2 (some 3))).tmplStation 3) CxeStn.rope)).held = false ∧
    ((((gathering (laneFrame 2 (some 3))).modRope 0 fun x => { x with held := true })).rope
      (stnF (gathering (laneFrame 2 (some 3))).inForce ((gathering (laneFrame 2 (some 3))).tmplStation 3) CxeStn.rope)).held = true := by decide +kernel
theorem wit_deadline : (gathering (laneFrame 2 none)).ropeMode 0 ≠ rmOFF ∧ ((gathering (laneFrame 2 none)).rope 0).built = true ∧ (roped.rope 0).built = false ∧ 0 < (gathering (laneFrame 2 none)).cxe.ropes.length ∧
    ((gathering (laneFrame 2 none)).rope 0).gatherCycle = (gathering (laneFrame 2 none)).get (CxeRope.adr 0) CxeRope.cycle ∧
    ((gathering (laneFrame 2 none)).rope 0).boundary + ropeDeadline (gathering (laneFrame 2 none)).inForce 0 ≤ (gathering (laneFrame 2 none)).lineNs + 40 := by decide +kernel
/-- Cycle 2 of rope 0 is latched. -/
def latchedAt : State := (gathering (laneFrame 2 none)).modRope 0 fun x => { x with latchedCycle := some 2 }
theorem wit_publish : (latchedAt.rope 0).latchedCycle = some 2 ∧ latchedAt.ropeMode 0 ≠ rmOFF ∧ (latchedAt.rope 0).held = false ∧
    (latchedAt.set (CxeStn.adr 5) CxeStn.lostK 1).act (CxeStn.adr 5) CxeStn.lostK ≠ 0 ∧ rxOf (latchedAt.stn 5).latched ≠ 0 ∧
    latchedAt.getB (CxeStn.adr 5) CxeStn.lost = false ∧
    (latchedAt.set (CxeStn.adr 5) CxeStn.lostK 1).act (CxeStn.adr 5) CxeStn.lostK ≤ latchedAt.get (CxeStn.adr 5) CxeStn.streak + 1 := by decide +kernel
theorem wit_recover : (roped.set (CxeStn.adr 4095) CxeStn.lost 1).Open .host 4 (cxeOff (CxeStn.adr (4095 : Fin 4096)) + 0xC) false false ∧
    (roped.set (CxeStn.adr 4095) CxeStn.lost 1).getB (CxeStn.adr (4095 : Fin 4096)) CxeStn.lost = true ∧
    ((roped.set (CxeStn.adr 4095) CxeStn.lost 1).set (CxeStn.adr 4095) CxeStn.autoRecover 0).actB (CxeStn.adr (4095 : Fin 4096)) CxeStn.autoRecover = false := by decide +kernel
def outs (i : Instr) (s : State) : State := match exec i s with | .next t => t | _ => s

/-! Hypotheses of PlacementsCamChecksAndReleases. -/

/-- The device with master `k` enabled from source `src`, and with host slots `due` to be placed. -/
def mastered (k src : Nat) (due : List Nat) : State :=
  ((up.set (MpiMaster.adr k) MpiMaster.enable 1).set (MpiMaster.adr k) MpiMaster.source src).modMpi fun m => { m with pushDue := due }
theorem wit_push : up.Open .host 5 (0x1158 + 0x80 * (15 : Fin 16)) true false ∧ (15 : Fin 16).val ∈ (mastered 15 3 [15]).mpi.pushDue ∧
    (mastered 15 3 [15]).mpiTakes = true ∧ (mastered 15 3 [15]).masterSrc 15 = srHOST ∧ (mastered 15 3 [15]).masterOn 15 = true ∧
    (mastered 15 0 [15]).masterSrc 15 ≠ srHOST := by decide +kernel
theorem wit_generator : ((up.modMaster 0 fun m => { m with waiting := some (40, 7, -1, 9, 1) }).master (0 : Fin 16)).waiting = some (40, 7, -1, 9, 1) ∧
    40 ≤ (up.modMaster 0 fun m => { m with waiting := some (40, 7, -1, 9, 1) }).lineNs + 40 ∧
    (up.modMaster 0 fun m => { m with waiting := some (40, 7, -1, 9, 1) }).ropeMode (up.act (MpiMaster.adr (0 : Fin 16)) MpiMaster.rope) = rmOFF ∧
    (roped.modMaster 0 fun m => { m with waiting := some (40, 7, -1, 9, 1) }).ropeMode (roped.act (MpiMaster.adr (0 : Fin 16)) MpiMaster.rope) ≠ rmOFF := by
  decide +kernel
/-- The stop master of master 2 on rope 0, which is in STOP. -/
def stoppingMaster : State := (inMode 4).modMpi fun m => { m with stops := [(2, ⟨7, 0, 0, 1⟩)] }
theorem wit_stopMaster : stoppingMaster.ropeMode 0 = rmSTOP ∧ sfind stoppingMaster.mpi.stops (0 * 16 + 2) = some ⟨7, 0, 0, 1⟩ := ⟨by decide +kernel, rfl⟩
/-- Cam table 3 with two points from pool index 8, valid or not, being checked. -/
def cammed (valid x1 : Nat) : State :=
  let s1 := (((up.set (MpiCam.adr 3) MpiCam.base 8).set (MpiCam.adr 3) MpiCam.count 2).set (MpiCam.adr 3) MpiCam.period 100).set (MpiCam.adr 3) MpiCam.valid valid
  s1.modMpi fun m => { m with cam := [(36, BitVec.ofNat 32 x1)], checking := [3] }
theorem wit_cam : up.Open .host 5 (camOff (3 : Fin 256)) true false ∧ up.camValid 3 = false ∧ (cammed 1 50).camValid 3 = true ∧
    (cammed 1 50).Open .host 5 (camOff (3 : Fin 256)) true false ∧ (cammed 1 50).camUsed 3 = false ∧ (cammed 1 50).camBase 3 = (8 : BitVec 19).toNat ∧
    (cammed 0 50).camFails 3 = none ∧ (cammed 0 100).camFails 3 = some 9 ∧ (cammed 0 0).camFails 3 = some 9 := by decide +kernel
/-- An enabled axis that uses table 3. -/
def camAxis : State := ((cammed 1 50).set (MpiAxis.adr 0) MpiAxis.enable 1 |>.set (MpiAxis.adr 0) MpiAxis.camEn 1).set (MpiAxis.adr 0) MpiAxis.cam 3
theorem wit_camUsed : camAxis.camValid 3 = true ∧ camAxis.camUsed 3 = true ∧ camAxis.Open .host 5 (camOff (3 : Fin 256)) true false := by decide +kernel
theorem wit_release_axis : (up.set (MpiAxisState.adr 7) MpiAxisState.state 2).releaseOk 7 = true ∧ up.releaseOk 7 = false ∧ up.Open .host 5 0x1004 true false ∧
    (up.set (MpiAxisState.adr 7) MpiAxisState.state 2).Open .host 5 0x1004 true false := by decide +kernel

/-! Hypotheses of MastersGeneratorsAndAxes. -/

theorem wit_pass : (atLine roped 20000).lineNs ≤ 20000 ∧ ((atLine roped 20000).ropesAt 20000).any (fun r => (atLine roped 20000).ropeMode r != rmOFF) = true := by decide +kernel
theorem wit_axis_calc : axF up.inForce 0 MpiAxis.camEn = 0 ∧ axF (up.set (MpiAxis.adr 0) MpiAxis.den 3).inForce 0 MpiAxis.den ≠ 0 ∧
    (up.set (MpiAxisState.adr 7) MpiAxisState.state 2).axisState 7 = axHELD ∧ up.axisState 7 ≠ axHELD ∧ (up.set (Hdr.adr 5) Hdr.state 3).ustate 5 = stHELD := by decide +kernel
/-- A ramp that moves. -/
def moving : Ramp := ⟨7 * 2 ^ 32, 3 * 2 ^ 32, 2 ^ 32, 1⟩

/-! Hypotheses of FramesPassThroughAPipeline. -/

/-- Drive port 1 runs and its input has `share` cells. -/
def ported (share : Nat) : State := (up.set (Dpx.adr 1) Dpx.enable 1).set (TmInput.adr 1) TmInput.share share
theorem wit_window : (ported 100).inputOn (0 : Fin 4) (1 : Fin 8) = true ∧ (ported 100).roleOn (0 : Fin 4) = true ∧
    (ported 100).waiting (0 : Fin 4) (1 : Fin 8) < waitLimit ∧ cellsOf 1514 ≤ (ported 100).poolFree ∧
    (ported 100).get (TmInput.adr (inPortOf (0 : Fin 4) (1 : Fin 8))) TmInput.used + cellsOf 1514 ≤ (ported 100).act (TmInput.adr (inPortOf (0 : Fin 4) (1 : Fin 8))) TmInput.share := by
  decide +kernel
theorem wit_noPool : ((ported 100).set (TmInput.adr 0) TmInput.used 98304).poolFree < cellsOf 60 := by decide +kernel
/-- A frame in role 0, input 1. -/
def pframe (res : Option (Fate × Meta × Bool)) : PFrame :=
  { id := 5, role := 0, input := 1, bytes := List.replicate 60 0, fcs := none, stamp := 0, dom0 := 0, dom1 := 0, stampTag := none, oneStep := false, result := res }
/-- What travels with it. -/
def noMeta : Meta := { inPort := 1, tc := 0, reason := 0, flags := 0, hash := 0, stamp := 0, scale := 0, domTime := 0, bd := 0, tagged := false, pcp := 0, vid := 0 }
/-- The device with that frame in the pipeline. -/
def piped (res : Option (Fate × Meta × Bool)) : State :=
  { ported 100 with pp := { up.pp with frames := [pframe res], nextId := 6, tails := [(5, 0, 1, (pframe res).bytes)], lastPass := [(3, 0)] } }
theorem wit_tail : takeTail (0 : Fin 4) (1 : Fin 8) (piped none).pp.tails = some ((5, (pframe none).bytes), []) ∧ inPortOf (0 : Fin 4) (1 : Fin 8) < 16 := by decide +kernel
theorem wit_headIn : (piped none).ready (6 + (0 : Fin 4)) = true ∧ (0 : Fin 4).val ∉ (piped none).pp.paused ∧ (piped none).headFrame (0 : Fin 4) (1 : Fin 8) = some (pframe none) ∧
    (up.set (Hdr.adr 6) Hdr.state 3).ready (6 + (0 : Fin 4)) = false := by decide +kernel
/-- A cycle reply. -/
def replyBytes : List Byte := List.replicate 12 0 ++ [0x88, 0xB5, 0x10, 0x80] ++ List.replicate 44 0
theorem wit_steer : ((up.set CxeEthertype.adr CxeEthertype.etype 0x88B5).parseEvent 0 1 ((up.set CxeEthertype.adr CxeEthertype.etype 0x88B5).parseFrame 0 1 replyBytes).ending).steer 0 1
    ((up.set CxeEthertype.adr CxeEthertype.etype 0x88B5).parseFrame 0 1 replyBytes) = some (.cxe none) := by decide +kernel
theorem wit_result : ((piped (some (.cxe none, noMeta, false))).pp.frames.find? fun f : PFrame => f.role == (0 : Fin 4).val && f.result.isSome) = some (pframe (some (.cxe none, noMeta, false))) ∧
    ((piped (some (.shx, noMeta, false))).pp.frames.find? fun f : PFrame => f.role == (0 : Fin 4).val && f.result.isSome) = some (pframe (some (.shx, noMeta, false))) ∧
    ((piped (some (.copies [], noMeta, false))).pp.frames.find? fun f : PFrame => f.role == (0 : Fin 4).val && f.result.isSome) = some (pframe (some (.copies [], noMeta, false))) := by decide +kernel
/-- Recovery entry 3 of role 0 has passed a frame long ago. -/
def recovering : State := ((atLine (piped none) 2000000).set (PpSeqrec.adr 0 3) PpSeqrec.enable 1 |>.set (PpSeqrec.adr 0 3) PpSeqrec.fresh 0).set (PpSeqrec.adr 0 3) PpSeqrec.reset 1
theorem wit_seqReset : sfind recovering.pp.lastPass ((0 : Fin 4).val * 1024 + (3 : Fin 1024).val) = some 0 ∧ recovering.roleOn (0 : Fin 4) = true ∧
    recovering.actB (PpSeqrec.adr (0 : Fin 4) (3 : Fin 1024)) PpSeqrec.enable = true ∧ recovering.getB (PpSeqrec.adr (0 : Fin 4) (3 : Fin 1024)) PpSeqrec.fresh = false ∧
    0 + recovering.act (PpSeqrec.adr (0 : Fin 4) (3 : Fin 1024)) PpSeqrec.reset * 1000000 ≤ recovering.lineNs := by decide +kernel
theorem wit_indir : up.Open .host (6 + (3 : Fin 4)) (0x60000 + 2 * (2047 : Fin 2048)) false false ∧
    up.indirOk (up.act (PpIndirPage.adr (3 : Fin 4)) PpIndirPage.slice) (0x8000 : BitVec 16).toNat = true ∧
    up.indirOk (up.act (PpIndirPage.adr (3 : Fin 4)) PpIndirPage.slice) (0xC000 : BitVec 16).toNat = false := by decide +kernel

/-! Hypotheses of FramesAreResolvedRecoveredPolicedAndHashed. -/

/-- A parsed frame with nothing in it. -/
def bare : Parsed := up.parseFrame 0 1 (List.replicate 60 0)
/-- What a frame of role 0, input 1 carries into resolution. -/
def headOf (p : Parsed) : Head := { role := 0, input := 1, inPort := 1, bd := 0, tc := 0, frame := List.replicate 60 0, parsed := p, dscp := none }
theorem wit_resolve : bare.ending = .normal ∧ (up.set (PpCtrl.adr 0) PpCtrl.excAction 1).act (PpCtrl.adr 0) PpCtrl.excAction = 1 ∧ awVerb (2 ^ 60) = 1 ∧ awVerb (2 ^ 61) = 2 ∧
    (up.set (PpTrap.adr 0 0) PpTrap.enable 1).trapOn (headOf bare) 0 = true ∧ bit (up.act (EmtBd.adr 0) EmtBd.members) 1 = false ∧
    bit ((up.set (EmtBd.adr 0) EmtBd.members 2).act (EmtBd.adr 0) EmtBd.members) 1 = true ∧ (up.set (EmtBd.adr 0) EmtBd.floodUc 0).actB (EmtBd.adr 0) EmtBd.floodUc = false ∧
    up.actB (TcmNexthop.adr 9) TcmNexthop.valid = false := by decide +kernel
/-- What the lookups of a frame found: an ACL word or none, and whether a search was late. -/
def looked (acl : Option Nat) (late : Bool) : Looked :=
  { bridge := none, acl := acl, flow := none, routed := false, route := none, overrun := late }
theorem wit_looked : (looked (some (2 ^ 61)) false).acl = some (2 ^ 61) ∧ (looked (some (2 ^ 61)) false).overrun = false ∧
    (looked none false).governs = none ∧ (looked none false).overrun = false ∧ (looked (some (2 ^ 61)) true).overrun = true ∧
    ({ bare with ptp := some (0, 0, 5) } : Parsed).ptp.isSome = true ∧ ({ bare with ptp := some (0, 0, 5) } : Parsed).ending = .normal := by decide +kernel
/-- Recovery entry 3 with history bit 0 set, fresh or not. -/
def history (fresh : Nat) : State :=
  let s1 := (((up.set (PpSeqrec.adr 0 3) PpSeqrec.members 2).set (PpSeqrec.adr 0 3) PpSeqrec.fresh fresh).set (PpSeqrec.adr 0 3) PpSeqrec.recovSeq 65535).set (PpSeqrec.adr 0 3) PpSeqrec.hist 8
  { s1 with pp := { s1.pp with hist := [(3, 1)] } }
theorem wit_recovery : bit ((history 1).act (PpSeqrec.adr 0 3) PpSeqrec.members) 1 = true ∧ (history 1).getB (PpSeqrec.adr 0 3) PpSeqrec.fresh = true ∧
    (history 0).getB (PpSeqrec.adr 0 3) PpSeqrec.fresh = false ∧ 65535 = (history 0).get (PpSeqrec.adr 0 3) PpSeqrec.recovSeq ∧
    0 < (history 0).act (PpSeqrec.adr 0 3) PpSeqrec.hist ∧ bit (sget 0 (history 0).pp.hist (0 * 1024 + 3)) 0 = true ∧ bare.rtag = none ∧
    ({ bare with rtag := some (14, 65535) } : Parsed).rtag = some (14, 65535) := by decide +kernel
theorem wit_police : (up.set (TmPolicer.adr 0 1) TmPolicer.enable 1).actB (TmPolicer.adr 0 1) TmPolicer.enable = true ∧
    ((up.set (TmPolicer.adr 0 1) TmPolicer.enable 1).set (TmPolicer.adr 0 1) TmPolicer.pbs 60).act (TmPolicer.adr 0 1) TmPolicer.pbs < 61 := by decide +kernel

/-! Hypotheses of TableCommandsLearningAndAging. -/

/-- Table 2 is an enabled BRIDGE table with aging; `m` is what it holds. -/
def tabled (m : EmtTab) : State :=
  let s1 := (up.set (EmtTable.adr 2) EmtTable.enable 1).set (EmtTable.adr 2) EmtTable.ageEn 1
  { s1 with emt := { s1.emt with tabs := s1.emt.tabs.set 2 m } }
/-- A learned entry of port 1. -/
def entry : List Byte := [2, 0, 0, 0, 0, 9, 0, 1, 1, 0, 0, 0, 0, 0, 0, 0xC0]
theorem wit_emtCmd : up.Open .host 11 0x1000 true false ∧ up.getB EmtCmd.adr EmtCmd.busy = false ∧ up.ready 11 = true ∧
    (up.set (Hdr.adr 11) Hdr.state 3).Open .host 11 0x1000 true false ∧ (up.set (Hdr.adr 11) Hdr.state 3).ready 11 = false ∧
    (up.set EmtCmd.adr EmtCmd.busy 1).Open .host 11 0x1000 true false ∧ (up.set EmtCmd.adr EmtCmd.busy 1).getB EmtCmd.adr EmtCmd.busy = true := by decide +kernel
theorem wit_emtEnd : ({ up with emt := { up.emt with cmd := some (emNOT_FOUND, false, none) } } : State).emt.cmd = some (emNOT_FOUND, false, none) ∧ emNOT_FOUND < 16 ∧
    ({ up with emt := { up.emt with waiting := some (4, 2, entry, []) } } : State).emt.cmd = none := by decide +kernel
theorem wit_place : (2 : Fin 16) < (tabled EmtTab.init).emt.tabs.length ∧ (tabled EmtTab.init).tKind 2 = tkBRIDGE ∧ entry.length = 16 ∧
    (tabled EmtTab.init).slotOf 2 (entry.take 8) = none ∧
    (((tabled EmtTab.init).tab 2).freeWay ((tabled EmtTab.init).candidates 2 (entry.take 8)).1).isSome = true ∧
    (up.set (EmtTable.adr 2) EmtTable.access 1).act (EmtTable.adr 2) EmtTable.access = 1 := by decide +kernel
/-- A request of port 7 for that entry's key. -/
def request (move : Bool) : LearnReq := ⟨entry.take 8, 7, 0, true, move⟩
/-- Table 2 with a request, and the entry in slot `i` where one is given. -/
def learning (move : Bool) (i : Option Nat) : State :=
  tabled { EmtTab.init with learn := [request move], slots := match i with | some i => [(i, entry)] | none => [] }
theorem wit_learn : takeFirst (fun r => !r.move && r.ready) ((learning false none).tab 2).learn = some (request false, []) ∧ (learning false none).learnRuns 2 = true ∧
    (learning false none).act (EmtTable.adr 2) EmtTable.access = 0 ∧ ((learning false none).set (EmtTable.adr 2) EmtTable.access 1).act (EmtTable.adr 2) EmtTable.access = 1 ∧
    ({ learning false none with emt := { (learning false none).emt with waiting := some (4, 2, entry, []) } } : State).learnRuns 2 = false ∧
    (learning true (some stashBase)).learnRuns 2 = true ∧
    ((learning false none).modTab 2 fun m => { m with learn := [] }).slotOf 2 (request false).key = none ∧
    ((learning false (some stashBase)).modTab 2 fun m => { m with learn := [] }).slotOf 2 (request false).key = some (stashBase, entry) ∧
    takeFirst (fun r => r.move && r.ready) ((learning true (some stashBase)).tab 2).learn = some (request true, []) ∧
    ((learning true (some stashBase)).modTab 2 fun m => { m with learn := [] }).slotOf 2 (request true).key = some (stashBase, entry) ∧
    learned entry = true ∧ leAt entry 8 4 ≠ (request true).port ∧ (entry.take 8).length = 8 := by decide +kernel
theorem wit_age : (tabled EmtTab.init).tOn 2 = true ∧ (tabled EmtTab.init).actB (EmtTable.adr 2) EmtTable.ageEn = true ∧
    ((tabled { EmtTab.init with slots := [(5, entry)] }).tab 2).at_ 5 = some entry ∧ ((tabled { EmtTab.init with slots := [(5, entry)] }).tab 2).hits.contains 5 = false ∧
    ((tabled { EmtTab.init with slots := [(5, entry)], hits := [5] }).tab 2).hits.contains 5 = true := by decide +kernel

/-! Hypotheses of DmaImagesAndShadowCompares. -/

/-- Table 2 as a DMA table whose image is being read. -/
def imaging : State :=
  let s1 := (tabled EmtTab.init).set (EmtTable.adr 2) EmtTable.access 1
  { s1 with hif := { s1.hif with reads := outReads [(0, .emtDma 2)] } }
/-- An image of bucket `b`, ready or not. -/
def bucketImage (b : Nat) (ready : Bool) : List Byte := leBytes 4 b ++ leBytes 4 (b2n ready) ++ List.replicate 8 0 ++ entry ++ List.replicate 96 0
theorem wit_dma : up.Open .host 11 (0x160C + 0x20 * (2 : Fin 16)) false false ∧ up.awaits 0 (.emtDma 2) = false ∧ imaging.awaits 0 (.emtDma 2) = true ∧ imaging.reading 0 (.emtDma 2) = true ∧
    imaging.Open .host 11 (0x160C + 0x20 * (2 : Fin 16)) false false ∧ imaging.ready 11 = true ∧ bit (leAt (bucketImage 7 false) 4 4) 0 = false ∧
    bit (leAt (bucketImage 7 true) 4 4) 0 = true ∧ leAt (bucketImage 7 true) 0 4 < (imaging.readEnds 0 (.emtDma 2)).tBuckets 2 ∧
    (imaging.readEnds 0 (.emtDma 2)).tBuckets 2 ≤ leAt (bucketImage (2 ^ 31) true) 0 4 := by decide +kernel
/-- Table 2 with the entry in the stash and a shadow of two items, whose first item is being read or not. -/
def shadowed (l : List (Nat × Reader)) : State :=
  let s1 := ((learning false (some stashBase)).set (EmtShadow.adr 2) EmtShadow.enable 1).set (EmtShadow.adr 2) EmtShadow.count 2
  { s1 with hif := { s1.hif with reads := outReads l } }
theorem wit_shadow : (shadowed [(0, .shadow 2 0)]).shadowOn 2 = true ∧ (shadowed [(0, .shadow 2 0)]).act (EmtTable.adr 2) EmtTable.access = 0 ∧
    ((shadowed [(0, .shadow 2 0)]).tab 2).shadowPos = 0 ∧ 0 < (shadowed [(0, .shadow 2 0)]).shadowItems 2 ∧
    (shadowed [(0, .shadow 2 0)]).reading 0 (.shadow 2 0) = true ∧ entry = slice entry 0 (entryBytes ((shadowed []).tKind 2)) ∧
    bit (flagsOf entry) 7 = true ∧
    ((shadowed [(0, .shadow 2 0)]).readEnds 0 (.shadow 2 0)).slotOf 2 (entry.take (keyBytes ((shadowed []).tKind 2))) = some (stashBase, entry) ∧
    entry.set 8 9 ≠ entry ∧ (shadowed []).shadowOn 2 = true ∧ (shadowed []).awaits 0 (.shadow 2 0) = false ∧
    ((shadowed []).set (Hdr.adr 11) Hdr.state 3).ready 11 = false ∧ ((shadowed []).set (Hdr.adr 11) Hdr.state 3).reading 0 (.shadow 2 0) = false := by decide +kernel
/-- The read of the first item waits for a tag. -/
def shadowWaits : State := { shadowed [] with hif := { up.hif with xlate := [(0, .read none 0 16 (.shadow 2 0))] } }
theorem wit_shadow_waits : shadowWaits.reading 0 (.shadow 2 (shadowWaits.tab 2).shadowPos) = false ∧
    shadowWaits.awaits 0 (.shadow 2 (shadowWaits.tab 2).shadowPos) = true := by decide +kernel

/-! Hypotheses of TcamCommandsUpdatesAndSearches. -/

/-- Partition 1 is enabled with two blocks of 160-bit rows in one copy; `upd` waits for its slots. -/
def parted (upd : List TUpd) (busy : Nat) : State :=
  let s1 := (((up.set (TcmPart.adr 1) TcmPart.enable 1).set (TcmPart.adr 1) TcmPart.width 0).set (TcmPart.adr 1) TcmPart.blocks 2).set TcmCmdIndex.adr TcmCmdIndex.index 65535
  let s2 := s1.set TcmCmd.adr TcmCmd.busy busy
  { s2 with tcm := { s2.tcm with updates := upd, verify := [(3, ⟨true, 5, 7, 9⟩)], arrays := [(3, ⟨true, 5, 7, 9⟩)] } }
theorem wit_tcmCmd : (parted [] 0).Open .host 12 0x1000 true false ∧ (parted [] 0).getB TcmCmd.adr TcmCmd.busy = false ∧ (parted [] 0).ready 12 = true ∧
    (parted [] 0).act TcmCmdIndex.adr TcmCmdIndex.index = 65535 ∧ (parted [] 0).partOn 1 = true ∧ 65535 < (parted [] 0).partCapacity 1 ∧
    (parted [] 0).partOn 2 = false ∧ ((parted [] 0).set TcmCmdIndex.adr TcmCmdIndex.index 65536).act TcmCmdIndex.adr TcmCmdIndex.index = (parted [] 0).partCapacity 1 ∧
    ((parted [] 0).set (Hdr.adr 12) Hdr.state 3).ready 12 = false ∧ ((parted [] 0).set (Hdr.adr 12) Hdr.state 3).Open .host 12 0x1000 true false ∧
    (parted [] 1).Open .host 12 0x1000 true false ∧ (parted [] 1).getB TcmCmd.adr TcmCmd.busy = true := by decide +kernel
theorem wit_tcmSlot : (0 : Fin 4).val < (parted [] 0).partCopies 1 ∧
    takeFirst (fun u => u.part == (1 : Fin 8).val && u.copy == (0 : Fin 4).val) (parted [⟨1, 0, 3, false⟩] 1).tcm.updates = some (⟨1, 0, 3, false⟩, []) ∧
    takeFirst (fun u => u.part == (1 : Fin 8).val && u.copy == (0 : Fin 4).val) (parted [] 1).tcm.updates = none ∧
    ((parted [⟨1, 0, 3, false⟩] 1).verified 1 3).value < 2 ^ tcamWidth ((parted [⟨1, 0, 3, false⟩] 1).act (TcmPart.adr 1) TcmPart.width) ∧
    ((parted [⟨1, 0, 3, false⟩] 1).verified 1 3).mask < 2 ^ tcamWidth ((parted [⟨1, 0, 3, false⟩] 1).act (TcmPart.adr 1) TcmPart.width) := by decide +kernel
theorem wit_search : (parted [] 0).matching 1 ((parted [] 0).roleCopy 1 0) 13 = [3] ∧ ((parted [] 0).verified 1 3).hits 13 = true ∧
    (parted [] 0).matching 1 ((parted [] 0).roleCopy 1 0) 4 = [] := by decide +kernel
/-- An entry of 640 bits takes four half-rows of two blocks. -/
theorem test_tcam_cells : ((parted [] 0).set (TcmPart.adr 1) TcmPart.width 2).cells 1 0 16385 = [98306, 98307, 65538, 65539] := by decide +kernel

/-! Hypotheses of FramesAreEnqueuedAndSelected. -/

/-- A frame for queue 40 of drive port 1. -/
def tmFrame (ok : Bool) (yellow : Bool) : TmFrame :=
  { id := 1, bytes := List.replicate 60 3, fcs := some ok, queue := 40, port := 1, input := none, yellow := yellow, md := noMeta
    edit := (headOf bare).edit, stampTag := none, oneStep := false, since := 0 }
/-- Queue 40 serves drive port 1, with MAX and yellow limit as given. -/
def queued (on max ylw : Nat) : State :=
  let s1 := (((ported 100).set (TmQueue.adr 40) TmQueue.enable on).set (TmQueue.adr 40) TmQueue.port 1).set (TmQueue.adr 40) TmQueue.max max
  s1.set (TmQueue.adr 40) TmQueue.yellowLimit ylw
theorem wit_enqueue : (queued 1 512 256).tmOn = true ∧ takeKnown ({ queued 1 512 256 with tm := { up.tm with arriving := [tmFrame true false] } } : State).tm.arriving = some (tmFrame true false, []) ∧
    (tmFrame false false).fcs ≠ some true ∧ (queued 0 512 256).actB (TmQueue.adr 40) TmQueue.enable = false ∧
    (queued 1 512 256).actB (TmQueue.adr 40) TmQueue.enable = true ∧ (queued 1 512 256).tmPort 40 = 1 ∧
    (queued 1 0 256).act (TmQueue.adr 40) TmQueue.max < (queued 1 0 256).tmDepth 40 + cellsOf (tmFrame true false).bytes.length ∧
    (queued 1 512 0).act (TmQueue.adr 40) TmQueue.yellowLimit < (queued 1 512 0).tmDepth 40 + cellsOf (tmFrame true true).bytes.length ∧
    (queued 1 512 0).tmDepth 40 + cellsOf (tmFrame true true).bytes.length ≤ (queued 1 512 0).act (TmQueue.adr 40) TmQueue.max ∧
    cellsOf (tmFrame true false).bytes.length ≤ (queued 1 512 256).poolFree := by decide +kernel
/-- The frame stands in queue 40. -/
def backlogged : State := (queued 1 512 256).enqueue (tmFrame true false)
/-- What a decision of drive port 1 looks at. -/
def decided : State := ((((backlogged.decisionLatch 1).tidy 1).backlog 1).foldl (fun (s : State) x => s.dropLong 1 x.1 (s.tmq x.2).length x.2) ((backlogged.decisionLatch 1).tidy 1)).tidy 1
theorem wit_decision : backlogged.ready 13 = true ∧ backlogged.portSends (1 : Fin 25) = true ∧ (decided.tmq 40).length = 1 ∧
    (backlogged.set (Hdr.adr 13) Hdr.state 3).ready 13 = false := by decide +kernel
theorem wit_noDecision : (queued 1 512 256).portSends (1 : Fin 25) = true ∧ (queued 1 512 256).ready 13 = true := by decide +kernel

/-! Hypotheses of GatesPreemptionAndSampling. -/

/-- Drive port 3 has a pending list of `n` entries of 100 ns and a cycle of `8 c` ns, armed or not. -/
def gated (n c armed : Nat) : State :=
  let s1 := ((atLine up 5000).set (TmGclCtrl.adr 3) TmGclCtrl.length n).set (TmGclCtrl.adr 3) TmGclCtrl.cycle c
  let s2 := ((s1.set (TmGclCtrl.adr 3) TmGclCtrl.base 77).set (TmGcl.adr 3 0) TmGcl.interval 100).set (TmGclCmd.adr 3) TmGclCmd.armed armed
  let s3 := s2.set (TmGclCtrl.adr 3) TmGclCtrl.enable 1
  { s3 with tm := { s3.tm with switchAt := if armed = 1 then [(3, 5040)] else [] } }
theorem wit_gcl : (gated 1 30 0).Open .host 13 (0x3600 + 4 * (3 : Fin 16)) true false ∧ (gated 1 30 0).gclArmed 3 = false ∧ (gated 1 30 0).gclOk 3 = true ∧
    (gated 0 30 0).gclOk 3 = false ∧ (gated 1 30 1).gclArmed 3 = true ∧ (gated 1 30 1).Open .host 13 (0x3600 + 4 * (3 : Fin 16)) true false ∧
    sfind (gated 1 30 1).tm.switchAt (3 : Fin 16) = some 5040 ∧ (gated 1 30 1).tmOn = true ∧ 5040 ≤ (gated 1 30 1).lineNs + 40 ∧
    (gated 1 30 0).actB (TmGclCtrl.adr 3) TmGclCtrl.enable = true ∧ (gated 1 30 0).gclInstant 3 = 6077 ∧ sfind (gated 1 30 0).tm.switchAt (3 : Fin 16) = none ∧
    up.actB (TmGclCtrl.adr (3 : Fin 16)) TmGclCtrl.enable = false := by decide +kernel
theorem wit_verify_preempt : (up.set (TmPort.adr 15) TmPort.preemptState 1).get (TmPort.adr (15 : Fin 16)) TmPort.preemptState = preVERIFYING := by decide +kernel
theorem wit_sweep : up.tmOn = true ∧ up.getB TmSampleCtrl.adr TmSampleCtrl.sweeping = false ∧
    ((up.set TmSampleCtrl.adr TmSampleCtrl.enable 1).latchB fun x _ => x == .sweep).actB TmSampleCtrl.adr TmSampleCtrl.enable = true ∧
    (up.set TmSampleCtrl.adr TmSampleCtrl.sweeping 1).getB TmSampleCtrl.adr TmSampleCtrl.sweeping = true := by decide +kernel

/-! Hypotheses of LinkFunctionsAndReadErrors. -/

/-- The link is up, with Bus Master Enable of every function. -/
def linked : State :=
  let s1 := (List.range 4).foldl (fun (s : State) f => s.set (HifPfStatus.adr f) HifPfStatus.bme 1) (up.set HifLink.adr HifLink.up 1)
  { s1 with hif := { s1.hif with linkLost := false } }
/-- A read of function 1 is outstanding for a transmit queue. -/
def reads1 : State := { linked with hif := { linked.hif with reads := outReads [(0, .other none), (1, .queue 0 5)] } }
theorem wit_link : linked.hif.linkLost = false ∧ up.hif.linkLost = true ∧ up.dark 14 = false ∧ up.asleep = false ∧
    0 < roped.cxe.ropes.length ∧ roped.ropeMode 0 ≠ rmOFF := by decide +kernel
theorem wit_functions : linked.bme 1 = true ∧ linked.getB (HifPfStatus.adr 1) HifPfStatus.flrBusy = false ∧
    (linked.set (HifPfStatus.adr 3) HifPfStatus.flrBusy 1).getB (HifPfStatus.adr 3) HifPfStatus.flrBusy = true ∧ linked.hif.reads = [] ∧
    linked.hif.xlate = [] ∧ linked.shx.conns = [] ∧ (1 : Fin 4) < linked.hif.pfs.length := by decide +kernel
theorem wit_flr : (((((linked.set (HifPfStatus.adr 2) HifPfStatus.flrBusy 1).set (HifPfStatus.adr 2) HifPfStatus.bme 0).set (HifPfStatus.adr 2) HifPfStatus.d3hot 0).cut 2 qrFLR).noXlate 2 |>.modPf 2 (fun _ => PfSt.init)).queuesOfPf 2 = [] ∧
    (((((linked.set (HifPfStatus.adr 2) HifPfStatus.flrBusy 1).set (HifPfStatus.adr 2) HifPfStatus.bme 0).set (HifPfStatus.adr 2) HifPfStatus.d3hot 0).cut 2 qrFLR).noXlate 2 |>.modPf 2 (fun _ => PfSt.init)).slicesOf 2 = [] := by decide +kernel
theorem wit_readNo : reads1.readNo 1 0 = some (.queue 0 5) ∧ (reads1.pf (1 : Fin 4)).dev.timeoutOff = false ∧
    ((reads1.modPf 1 fun p => { p with dev := { p.dev with timeoutOff := true } }).pf (1 : Fin 4)).dev.timeoutOff = true ∧
    (∀ x ∈ reads1.hif.xlate, x.1 ≠ 1) := by decide +kernel

/-! Hypotheses of MsixAndTranslation. -/

/-- Function 1 with settings `p`. -/
def pfWith (s : State) (p : PfSt) : State := s.modPf 1 fun _ => p
/-- A read of a page that has no translation waits. -/
def waitsPage : State :=
  let s1 := pfWith reads1 { PfSt.init with atsEnable := true, invalidations := [(3, [1]), (4, [])] }
  { s1 with hif := { s1.hif with xlate := [(1, .read none 4096 64 (.queue 0 5))], atc := [(1, none, 7, 9)], asked := [(1, none, 1)] } }
theorem wit_msix : (linked.getB (HifPfStatus.adr (1 : Fin 4)) HifPfStatus.flrBusy) = false ∧ (1 : Fin 4) < linked.hif.pfs.length ∧
    ((pfWith linked { PfSt.init with msixEnable := true, pba := [6], table := [(6, ⟨64, 1, false⟩)] }).pf 1).msixEnable = true ∧
    (pfWith linked { PfSt.init with msixEnable := true, pba := [6], table := [(6, ⟨64, 1, false⟩)] }).issues 1 = true ∧
    (((pfWith linked { PfSt.init with msixEnable := true, pba := [6], table := [(6, ⟨64, 1, false⟩)] }).pf 1).entry 6).masked = false ∧
    (pfWith linked { PfSt.init with msixEnable := true, pba := [6], table := [(6, ⟨64, 1, false⟩)] }).postedWaits = false ∧ linked.halted = false ∧
    (linked.set BootStatus.adr BootStatus.haltCode 9).halted = true ∧ (linked.set BootStatus.adr BootStatus.haltCode 9).hif.linkLost = false := by decide +kernel
theorem wit_xlate : ((1 : Fin 4).val, (none : Option (BitVec 20)).map BitVec.toNat, 1) ∈ waitsPage.hif.asked ∧
    ((1 : Fin 4).val, (some 3 : Option (BitVec 20)).map BitVec.toNat, 1) ∉ waitsPage.hif.asked ∧
    waitsPage.lacks (1, .read none 4096 64 (.queue 0 5)) = some (1, none, 1) ∧ waitsPage.missing 1 none 8192 64 = some 2 ∧ (1, none, 2) ∉ waitsPage.hif.asked ∧
    waitsPage.hif.atc.any (fun y => y.1 == (1 : Fin 4).val && y.2.1 == (none : Option (BitVec 20)).map BitVec.toNat && y.2.2.1 == 7) = true := by decide +kernel
theorem wit_invalidation : (waitsPage.pf 1).invalidations = (3, [1]) :: [(4, [])] ∧ waitsPage.reading 1 (.queue 0 5) = true ∧ waitsPage.issues 1 = true ∧
    (pfWith linked { PfSt.init with invalidations := [(3, [1])] }).issues 1 = true ∧
    (pfWith linked { PfSt.init with invalidations := [(3, [1])] }).reading 1 (.queue 0 5) = false := by decide +kernel

/-! Hypotheses of SlicesAreBoundFrozenSavedAndRestored. -/

/-- Slice 3 of 16 in state `st`, of function 1 and PASID 9. -/
def sliced (st : Nat) : State :=
  let s1 := (linked.set HifSliceCfg.adr HifSliceCfg.countLog2 4).set (HifSlice.adr 3) HifSlice.state st
  ((s1.set (HifSlice.adr 3) HifSlice.pf 1).set (HifSlice.adr 3) HifSlice.pasid 9).set (HifSlice.adr 3) HifSlice.enable (if st = 0 then 0 else 1)
theorem wit_bind : (sliced 0).Open .host 14 (sliceOff (3 : Fin 256) 0) true false ∧ (sliced 0).sliceState 3 = slUNBOUND ∧ (3 : Fin 256).val < (sliced 0).slices ∧
    (sliced 0).sliceState 255 = slUNBOUND ∧ (sliced 0).slices ≤ (255 : Fin 256).val ∧ (sliced 0).Open .host 14 (sliceOff (255 : Fin 256) 0) true false ∧
    (sliced slBOUND).sliceState 3 = slBOUND ∧ bits (0x100009#32).toNat 21 20 = (sliced slBOUND).slicePf 3 ∧ bits (0x100009#32).toNat 19 0 = (sliced slBOUND).slicePasid 3 ∧
    ((sliced slBOUND).awake .host 14).sliceBusy 3 = false := by decide +kernel
theorem wit_sliceCmd : (sliced slBOUND).Open .host 14 (sliceOff (3 : Fin 256) 4) true false ∧ (sliced slFROZEN).Open .host 14 (sliceOff (3 : Fin 256) 4) true false ∧
    (sliced slFROZEN).sliceState 3 = slFROZEN ∧ (sliced slFROZEN).sliceState 3 ≠ slBOUND ∧ (sliced slBOUND).sliceState 3 ≠ slFROZEN ∧
    (roped.set (CxeRope.adr 0) CxeRope.slice 3).ropeSlice 0 = 3 := by decide +kernel
/-- A command of slice 3 that the fabric holds, and slice 3 with it. -/
def outCommand : NvLock := { id := 0, sq := some 4, cid := 77, rope := 16, op := 1, nss := [], lba := 0, blocks := 1, fua := false, prp1 := 0, prp2 := 0, phase := .sent, flushed := false }
def freezing (l : List NvLock) : State :=
  let s1 := (sliced slFREEZING).set (HifSlice.adr 3) HifSlice.pf 2
  { s1 with nvf := { s1.nvf with locks := l } }
theorem wit_freezing : (freezing []).sliceState 3 = slFREEZING ∧ (freezing []).settled 3 = true ∧ (freezing []).nvOut 3 = [] := by decide +kernel
theorem wit_freezeLimit : (freezing [{ outCommand with sq := some ((((freezing []).share .nvme 3).1) + 1) }]).sliceState 3 = slFREEZING ∧
    ((freezing [{ outCommand with sq := some ((((freezing []).share .nvme 3).1) + 1) }]).nvOut 3).length = 1 := by decide +kernel
theorem wit_saveDone : ({ sliced slSAVING with hif := { linked.hif with saves := [(3, 0, 96)] } } : State).hif.saves.find? (fun x => x.1 == (3 : Fin 256).val) = some (3, 0, 96) := by decide +kernel
/-- A blob of slice 3 is being restored. -/
def restoring (l : List (Nat × Reader)) : State := { sliced slRESTORING with hif := { linked.hif with reads := outReads l } }
theorem wit_restoreDone : (restoring [(1, .blob 3)]).sliceState 3 = slRESTORING ∧ (restoring [(1, .blob 3)]).reading ((restoring [(1, .blob 3)]).slicePf 3) (.blob (3 : Fin 256)) = true ∧
    (restoring []).reading ((restoring []).slicePf 3) (.blob (3 : Fin 256)) = false := by decide +kernel
/-- The read of the blob waits for a tag. -/
def restoreWaits : State := { restoring [] with hif := { (restoring []).hif with xlate := [(1, .read none 0 16 (.blob 3))] } }
theorem wit_restoreWaits : restoreWaits.sliceState 3 = slRESTORING ∧ restoreWaits.reading (restoreWaits.slicePf 3) (.blob (3 : Fin 256)) = false ∧
    restoreWaits.awaits (restoreWaits.slicePf 3) (.blob (3 : Fin 256)) = true ∧ (restoring []).awaits ((restoring []).slicePf 3) (.blob (3 : Fin 256)) = false := by
  decide +kernel
/-- A blob of no sections, and slice 3 waiting for it. -/
def emptyBlob : List Byte :=
  let h := leBytes 4 blobMagic ++ leBytes 2 2 ++ leBytes 6 0
  let t := leBytes 8 32 ++ List.replicate 8 0
  h ++ leBytes 4 (crc32 (h ++ t)) ++ t
theorem wit_restore : (match ((((restoring [(1, .blob 3)]).set (HifSlice.adr 3) HifSlice.blobSize 4096).readEnds 1 (.blob 3)).restore 3 emptyBlob) with
    | .ok _ => true | .error _ => false) = true := by decide +kernel

/-! Hypotheses of PowerRequestsAndTransitions. -/

/-- The device in power state `st`, with transition `run` running and request `p` pending. -/
def powered (st : Nat) (run : Option Nat) (p : Nat) : State :=
  let s1 := ((up.set PwrStatus.adr PwrStatus.state st).set PwrStatus.adr PwrStatus.pending p).set PwrStatus.adr PwrStatus.wakeTo 1
  { s1 with boot := { s1.boot with perst := true }, pwr := { s1.pwr with run := run }, hif := { s1.hif with linkLost := false } }
/-- A wake whose apply pass has ended. -/
def waking : State :=
  let s1 := ((powered 4 (some 4) 0).modBoot fun b => { b with wake := true }).set CfgStatus.adr CfgStatus.phase 3
  s1.set BootStatus.adr BootStatus.step 0xFF
theorem wit_powerRequest : (powered 0 none 0).Open .host 0 0x1100 true false ∧ (powered 3 none 0).mgtUp = true ∧
    ((powered 3 none 0).heard (1, 9)).halted = false ∧ ((powered 3 none 0).heard (1, 9)).asleep = true ∧ ((powered 3 none 0).heard (2, 9)).asleep = true ∧
    (powered 0 (some 2) 0).pwr.run ≠ none ∧ (powered 0 none 0).power = psSUMMIT ∧ (powered 1 none 0).power = psCAMP ∧ (powered 3 none 0).power = psBIVOUAC ∧
    (powered 0 none 0).ropesOff = true ∧ ((powered 0 none 0).set (CxeRope.adr 15) CxeRope.stMode 1).ropesOff = false := by decide +kernel
theorem wit_powerState : (powered 1 (some 1) 0).get PwrStatus.adr PwrStatus.pending = 0 ∧ (powered 0 (some 2) 0).pwr.run = some 2 ∧
    (powered 0 (some 2) 1).get PwrStatus.adr PwrStatus.pending = ptSUMMIT ∧ (powered 2 (some 3) 0).pwr.run = some 3 ∧
    waking.wakeDone = true ∧ waking.pwr.run = some 4 ∧ waking.get PwrStatus.adr PwrStatus.pending = 0 ∧ waking.get PwrStatus.adr PwrStatus.wakeTo = 1 := by decide +kernel
theorem wit_powerEvents : (powered 0 none 0).hif.linkLost = false ∧ (powered 0 none 0).getB (HifPfStatus.adr 2) HifPfStatus.d3hot = false ∧
    (let s1 := ([0, 1, 3].foldl (fun (s : State) f => s.set (HifPfStatus.adr f) HifPfStatus.d3hot 1) (powered 0 none 0)).set PwrCtrl.adr PwrCtrl.d3Bivouac 1
     (∀ g : Fin 4, g ≠ 2 → s1.getB (HifPfStatus.adr g) HifPfStatus.d3hot = true) ∧ s1.actB PwrCtrl.adr PwrCtrl.d3Bivouac = true ∧ s1.hif.linkLost = false ∧
      s1.getB (HifPfStatus.adr 2) HifPfStatus.d3hot = false) ∧
    (powered 3 none 0).asleep = true ∧ (powered 0 none 0).asleep = false ∧ (powered 0 none 0).pwr.off = false ∧
    ((powered 3 none 0).set (PwrWake.adr 1) PwrWake.enable 1).actB (PwrWake.adr 1) PwrWake.enable = true ∧
    (powered 4 (some 4) 0).boot.wake = false ∧ ({ up with pwr := { up.pwr with off := true } } : State).pwr.off = true := by decide +kernel

/-! Hypotheses of CampPrestartsAndSpread. -/

/-- Camp 900 ns into the 10 us of rope 0, which is in HOLD, with a lead of 9.1 us and the pre-starts of `k`. -/
def camping (k : List (Nat × Nat)) : State :=
  let s1 := (((atLine roped 20900).set (CxeRope.adr 0) CxeRope.stMode 4).set PwrStatus.adr PwrStatus.state 1).set TuPrestart.adr TuPrestart.lead 9100
  { s1 with ticks := 2 ^ 24, time := { s1.time with prestarted := k }, pwr := { s1.pwr with stopped := [ckCXE, ckTM] } }
theorem wit_camp : (camping []).power = psCAMP ∧ (camping []).gatable ckSHX = true ∧ ckSHX ∉ (camping []).pwr.stopped ∧ (powered 0 none 0).power ≠ psCAMP ∧
    (camping []).leadOf 0 0 = some 30000 ∧ (camping []).ropeDue 0 = true ∧ (camping []).asleep = false ∧ (0, 30000) ∉ (camping []).time.prestarted ∧
    (0, 30000) ∈ (camping [(0, 30000)]).time.prestarted ∧ ckCXE ∈ (camping [(0, 30000)]).heldClocks 0 ∧
    (0 ≤ 30000 ∧ isBoundary (camping []).inForce 0 (30000 - 0) = true ∧ (camping []).lineNs + (camping []).act TuPrestart.adr TuPrestart.lead ≤ 30000 ∧
      30000 ≤ (camping []).lineNs + (camping []).act TuPrestart.adr TuPrestart.lead + 40) ∧ up.leadOf 0 0 = none := by decide +kernel
/-- The same 4 us earlier, at the lead of the input deadline of the boundary at 20 us. -/
def campingDeadline : State := atLine (camping []) 14900
theorem wit_camp_deadline : campingDeadline.leadOf 0 (ropeDeadline campingDeadline.inForce 0) = some 24000 ∧ ropeDeadline campingDeadline.inForce 0 = 4000 ∧
    campingDeadline.ropeDue 0 = true ∧ campingDeadline.asleep = false ∧ (16, 20000) ∉ campingDeadline.time.prestarted := by decide +kernel
/-- A timed write that waits. -/
def heldWrite : HeldWrite := { id := 1, conn := 4, region := 3, due := 5, addr := 0, data := [1] }
theorem wit_placementWaits : ({ camping [] with shx := { up.shx with held := [heldWrite] } } : State).shx.held = heldWrite :: [] ∧
    heldWrite.due ≤ ((camping []).lineNs + 40 + (camping []).lead : Nat) ∧ (32, heldWrite.due.toNat) ∉ (camping []).time.prestarted ∧
    ¬ ({ heldWrite with due := 30041 } : HeldWrite).due ≤ ((camping []).lineNs + 40 + (camping []).lead : Nat) := by decide +kernel
theorem wit_spread : (powered 0 none 0).Open .host 0 0x1110 true false ∧ ((powered 0 none 0).awake .host 0).spreadBad (0x40001#32 : Word).toNat = false ∧
    (powered 0 none 0).bootStep = 0xFF := by decide +kernel

/-! Hypotheses of SpreadIsRefused. -/

/-- Rope 0 is enabled with a station on port 1, whose launch offset is 752 ns. -/
def launching : State :=
  let s1 := (roped.set (CxePortRope.adr 1 0) CxePortRope.launch 94).modBoot fun b => { b with perst := true }
  { s1 with hif := { s1.hif with linkLost := false } }
theorem wit_spreadRefused : launching.Open .host 0 0x1110 true false ∧ (0x4#32 : Word).getLsbD 2 = true ∧ ropeOn launching.inForce (0 : Fin 16) = true ∧
    1 ∈ launching.ropePorts launching.inForce (0 : Fin 16) ∧ ropeLaunch launching.inForce 1 (0 : Fin 16) = 752 ∧
    ropeOn launching.rd (0 : Fin 16) = true ∧ 1 ∈ launching.ropePorts launching.rd (0 : Fin 16) ∧ ropeLaunch launching.rd 1 (0 : Fin 16) = 752 ∧
    5 < bits (0x60000#32 : Word).toNat 18 16 := by decide +kernel

/-! Hypotheses of DomainStepsAddOnce. -/

/-- The running device, or with U03 held, with writes that cross and both domains at `ns`. -/
def stepping (held : Bool) (ws : List (Nat × TuWrite)) (ns : Nat) : State :=
  let s1 := (crossing held ws 0 0).modTime fun t => { t with dom0 := ns * 2 ^ 32 + 7, dom1 := ns * 2 ^ 32 + 9 }
  (s1.set (Hdr.adr 3) Hdr.eventMap 65535).set (HifRoute.adr 50) HifRoute.enable 1
theorem wit_stepTaken : (stepping false [] 0).Open .host 3 (0x1110 + 0x20 * (1 : Fin 2)) false false ∧ (stepping false [] 0).ready 3 = true ∧
    (stepping true [] 3).Open .host 3 (0x1110 + 0x20 * (1 : Fin 2)) false false ∧ (stepping true [] 3).ready 3 = false ∧
    (0 : Int) ≤ ((stepping true [] 3).time.dom (1 : Fin 2) : Int) + (-3#64 : DWord).toInt * (2 ^ 32 : Nat) ∧
    (stepping false [(1, .step 0 5)] 3).mgtUp = true ∧ (stepping false [(1, .step 0 5)] 3).time.waiting = [(1, .step (0 : Fin 2) 5)] ∧
    (0 : Int) ≤ ((stepping false [(1, .step 0 5)] 3).time.dom (0 : Fin 2) : Int) + 5 * (2 ^ 32 : Nat) := by decide +kernel
theorem wit_stepBelow : (stepping false [(1, .step 1 (-5))] 3).time.waiting = [(1, .step (1 : Fin 2) (-5))] ∧
    ((stepping false [(1, .step 1 (-5))] 3).time.dom (1 : Fin 2) : Int) + -5 * (2 ^ 32 : Nat) < 0 ∧ (stepping false [(1, .step 1 (-5))] 3).mgtUp = true ∧
    (stepping false [(1, .step 1 (-5))] 3).noted = [] ∧ (stepping false [(1, .step 1 (-5))] 3).routed 3 2 = true ∧
    (stepping false [(1, .step 1 (-5))] 3).staged.length < stagingCapacity := by decide +kernel

/-! Hypotheses of LateFramesLeaveAtOnce. -/

theorem wit_late : ((atLine (withFrames [cframe]) 30000).cxe.frames.find? fun f : CFrame => f.port == (1 : Fin 16).val && f.rope == (0 : Fin 16).val && f.id == 0 && !f.left && !f.waiting) = some cframe ∧
    (atLine (withFrames [cframe]) 30000).armedAt (1 : Fin 16) (0 : Fin 16) = some 20930 ∧ (atLine (withFrames [cframe]) 30000).driveOn (1 : Fin 16) = true ∧
    20930 < (atLine (withFrames [cframe]) 30000).lineNs ∧ (atLine (withFrames [cframe]) 30000).cycleOk (1 : Fin 16) = true ∧ ((withFrames [cframe]).portLatch cframe.port).msecOn cframe.port = false := by decide +kernel

/-! Hypotheses of RecordsOfUnpoweredUnitsAreSkipped. -/

theorem wit_unpowered : ((passing 1 (recBytes 4 16 1 0 0) []).nextRecord.map fun x => (x.1.unit, x.1.type)) = some (16, 4) ∧
    ((passing 1 (recBytes 3 16 1 0 1) []).nextRecord.map fun x => (x.1.unit, x.1.type, x.1.optional)) = some (16, 3, true) ∧
    ((passing 1 (recBytes 1 16 1 0 1) []).nextRecord.map fun x => (x.1.unit, x.1.type)) = some (16, 1) ∧
    ((passing 1 (recBytes 2 16 1 0 1) []).nextRecord.map fun x => (x.1.unit, x.1.type)) = some (16, 2) ∧
    ((passing 1 (recBytes 0x100 16 1 0 1) []).nextRecord.map fun x => (x.1.unit, x.1.type)) = some (16, 0x100) ∧
    scaleOff (passing 1 (recBytes 4 16 1 0 0) []).scale 16 = true := by decide +kernel

/-! Hypotheses of QueuesAreRungEnabledAndDrained. -/

/-- Slice 3 is bound on PF1, and its queue `q` of kind `k` stands in state `st` with eight entries and a sound context. -/
def ringing (k q st tail : Nat) : State :=
  let s1 := ((sliced slBOUND).set (qAdr k q) QeTxq.sizeLog2 3).set (qAdr k q) QeTxq.state st
  let s2 := (((s1.set (qAdr k q) QeTxq.version 1).set (qAdr k q) QeTxq.tail tail).set (qAdr k q) QeTxq.bufSize 256).set (qAdr k q) QeTxq.count 1
  { s2.set (qAdr k q) QeTxq.vector (s2.share .vector 3).1 with boot := { s2.boot with perst := true } }
/-- The queue of `ringing`, with a drain that runs. -/
def draining (k q : Nat) (reset : Bool) : State := (ringing k q 1 0).modQ k q fun x => { x with drain := some reset }
theorem wit_doorbells : (ringing 0 768 1 0).Open .host 15 0x1004 true false ∧ bits (0x03000002#32 : Word).toNat 30 28 < 4 ∧
    bits (0x03000002#32 : Word).toNat 27 16 < qCount (bits (0x03000002#32 : Word).toNat 30 28) ∧
    (ringing 0 768 1 0).bound (3 : Fin 256) = true ∧ (ringing 0 768 1 0).doorQueue (3 : Fin 256) (bits (0x00050002#32 : Word).toNat 30 28) (bits (0x00050002#32 : Word).toNat 27 16) = some 773 ∧
    (ringing 0 768 1 0).doorQueue (3 : Fin 256) (bits (0x01000002#32 : Word).toNat 30 28) (bits (0x01000002#32 : Word).toNat 27 16) = none ∧
    (ringing 0 768 0 0).qState 0 768 = qsDISABLED ∧ (ringing 0 768 1 0).qState 0 768 ≠ qsDISABLED ∧
    ((ringing 0 768 1 0).startClocks [ckSYS, ckIGE]).tailOk 0 768 8 = true ∧ ((ringing 0 768 1 0).startClocks [ckSYS, ckIGE]).tailOk 0 768 9 = false ∧
    (ringing 0 768 2 0).qState 0 768 = qsHALTED ∧ ((ringing 0 768 2 0).startClocks [ckSYS, ckIGE]).tailOk 0 768 9 = false ∧
    (ringing 2 192 1 0).qState 2 192 = qsRUNNING := by decide +kernel
/-- The same device, halted. -/
def silenced (s : State) : State := s.set BootStatus.adr BootStatus.haltCode 3
theorem wit_doorbells_halted : (ringing 0 768 1 0).halted = false ∧ (silenced (ringing 0 768 1 0)).halted = true := by decide +kernel
theorem wit_queueCommands : (ringing 0 768 0 0).Open .host (qUnit (0 : Fin 5)) (qOff (0 : Fin 5) (768 : Fin 4096) + 0x20) true false ∧
    (ringing 3 3 0 0).Open (.slice 3) (qUnit (3 : Fin 5)) (qOff (3 : Fin 5) (3 : Fin 4096) + 0x20) true true ∧
    (ringing 0 768 0 0).qContextOk 0 768 = true ∧ (ringing 1 768 0 0).qContextOk 1 768 = true ∧ ((ringing 4 5 0 0).set (IgeRq.adr 5) IgeRq.slice 3).qContextOk 4 5 = true ∧
    ((ringing 0 768 0 0).set (qAdr 0 768) QeTxq.sizeLog2 2).qContextOk 0 768 = false ∧
    ((ringing 0 768 1 0).qst 0 768).drain = none ∧ (ringing 0 768 3 0).qState 0 768 = qsERROR ∧ ((draining 0 768 true).qst 0 768).drain = some true ∧
    (draining 0 768 true).qDrained 0 768 true = true ∧ (draining 4 5 false).qDrained 4 5 false = true := by decide +kernel

/-! Hypotheses of RingsCarryEntriesFramesAndEvents. -/

/-- Transmit queue 768 runs, with one entry asked for, and with one frame whose data is awaited. -/
def sending : State :=
  let s1 := (ringing 0 768 1 1).modQ 0 768 fun x => { x with asked := [(0, 1)], next := 1, unreported := 1 }
  { s1 with qe := { s1.qe with tx := [{ q := 768, count := 1, length := 60, classify := false, stampTag := none, oneStep := false, queue := 40, report := true, reads := 1 }] } }
/-- A descriptor of one buffer of 60 bytes, the last of its frame, for the TM queue 0 of its share. -/
def txEntry : List Byte := leBytes 8 4096 ++ leBytes 2 60 ++ [1, 0] ++ List.replicate 20 0
theorem wit_descriptors : (sending.qst 0 768).asked = [(0, 1)] ∧ sending.qVia 0 768 = some (1, some 9) ∧ sending.qState 0 768 = qsRUNNING ∧
    (sending.qst 0 768).drain = none ∧ (draining 0 768 true).qState 0 768 = qsRUNNING ∧
    sending.entryBad 1 768 (leBytes 8 4096) = none ∧ sending.entryBad 1 768 (leBytes 8 4097) = some qrBAD_ADDRESS ∧ (ringing 1 768 1 0).qState 1 768 = qsRUNNING ∧
    txReserved 32 txEntry = false ∧ txLen0 txEntry = 60 ∧ txLen1 32 txEntry = 0 ∧ bit (leAt txEntry 10 1) 0 = true := by decide +kernel
/-- The same with its read outstanding. -/
def fetching : State := { sending with hif := { sending.hif with reads := outReads [(1, .queue 0 768)] } }
theorem wit_fetching : fetching.reading 1 (.queue (0 : Fin 5) (768 : Fin 4096)) = true ∧ (fetching.qst (0 : Fin 5) (768 : Fin 4096)).asked = (0, 1) :: [] ∧
    fetching.qVia (0 : Fin 5) (768 : Fin 4096) = some (1, some 9) ∧ fetching.qState 0 768 = qsRUNNING ∧ (fetching.qst 0 768).drain = none ∧
    sending.reading 1 (.queue (0 : Fin 5) (768 : Fin 4096)) = false := by decide +kernel
theorem wit_txData : (takeTx 768 sending.qe.tx).isSome = true ∧ sending.ready 15 = true ∧ 0 < (sending.qst 0 768).unreported ∧
    (sending.set (qAdr 0 768) QeTxq.time 5).act (qAdr 0 768) QeTxq.time ≠ 0 ∧ sending.qFrozen 0 768 = false ∧
    (sending.set (HifSlice.adr 3) HifSlice.state slFROZEN).qFrozen 0 768 = true := by decide +kernel
theorem wit_headRecords : sending.Presents (0 : Fin 6) (768 : Fin 1048576) ∧ (sending.set (HifPfStatus.adr 1) HifPfStatus.bme 0).qVia 0 768 = some (1, some 9) ∧
    (sending.set (HifPfStatus.adr 1) HifPfStatus.bme 0).issues 1 = false ∧ (sending.set (HifPfStatus.adr 1) HifPfStatus.bme 0).qFrozen 0 768 = false ∧
    (sending.set (HifPfStatus.adr 1) HifPfStatus.bme 0).qState 0 768 = qsRUNNING := ⟨⟨1, some 9, by decide +kernel⟩, by decide +kernel⟩
/-- An event of U04 that the host waits for. -/
def routed : Staged := { ev := 70, stamp := 1, detail := 2, host := true, mgt := none }
/-- Event 70 goes to an event queue of slice 3, which is frozen. -/
def frozenEvents : State := (((ringing 2 192 1 0).set (HifRoute.adr 70) HifRoute.enable 1).set (HifRoute.adr 70) HifRoute.evq 192).set (HifSlice.adr 3) HifSlice.state slFROZEN
theorem wit_events : takeStaged (fun e : Staged => e.ev == 71) [{ routed with host := false, mgt := some 1 }, { routed with ev := 71 }, routed] = some (routed, [{ routed with host := false, mgt := some 1 }, { routed with ev := 71 }]) ∧
    takeStaged (fun e : Staged => e.ev == 70) [routed] = none ∧ frozenEvents.evHeld routed = true ∧ linked.evHeld routed = false ∧ takeStaged linked.evHeld linked.staged = none ∧
    takeStaged ({ linked with staged := [routed] } : State).evHeld [routed] = some (routed, []) ∧
    (linked.set (HifRoute.adr 70) HifRoute.enable 1).actB (HifRoute.adr 70) HifRoute.enable = true ∧ linked.actB (HifRoute.adr 70) HifRoute.enable = false ∧
    (ringing 2 192 1 0).qState 2 192 = qsRUNNING ∧ (ringing 2 192 1 0).qVia 2 192 = some (1, some 9) ∧ (ringing 2 192 1 0).evFull 192 = false ∧
    (ringing 2 192 1 8).evFull 192 = true ∧ (ringing 2 192 1 0).ready 15 = true ∧ (ringing 2 192 1 0).issues 1 = true ∧ (ringing 2 192 0 0).qState 2 192 ≠ qsRUNNING := by decide +kernel
theorem wit_sliceCfg : (ringing 0 768 0 0).Open .host 14 0x1020 true false ∧ bits (0x80000004#32 : Word).toNat 3 0 = (ringing 0 768 0 0).act HifSliceCfg.adr HifSliceCfg.countLog2 ∧
    bits (0x5#32 : Word).toNat 3 0 ≠ (ringing 0 768 0 0).act HifSliceCfg.adr HifSliceCfg.countLog2 ∧ (ringing 0 768 0 0).bound 3 = true ∧
    (ringing 0 768 0 0).service = false := by decide +kernel
theorem wit_routes : (ringing 0 768 0 0).Open .host 14 (0x4C000 + 4 * (70 : Fin 384)) true false ∧
    (ringing 0 768 0 0).ownerOf .evq (bits (0xA60000C0#32 : Word).toNat 9 0) = some 3 ∧ (ringing 0 768 0 0).slicePf 3 = bits (0xA60000C0#32 : Word).toNat 30 29 ∧
    (ringing 0 768 0 0).vectorOk 3 (bits (0xA60000C0#32 : Word).toNat 28 18) = true ∧ (ringing 0 768 0 0).slicePf 3 ≠ bits (0xC60000C0#32 : Word).toNat 30 29 := by decide +kernel
theorem wit_routes_owner : (ringing 0 768 0 0).bound 3 = true ∧ (ringing 0 768 0 0).service = false ∧ up.bound 3 = false ∧
    up.ownerOf .evq (bits (0x000000C0#32 : Word).toNat 9 0) ≠ some 3 ∧ (ringing 0 768 0 0).vectorOk 3 (bits (0xA00000C0#32 : Word).toNat 28 18) = false := by decide +kernel

/-! Hypotheses of SliceControlEntriesActAndEnd. -/

/-- Slice 3 on function `pf` runs its slice-control queue with entry `e` in front. -/
def controls (pf : Nat) (e : List Byte) : State :=
  ((ringing 3 3 1 1).set (HifSlice.adr 3) HifSlice.pf pf).modQ 3 3 fun x => { x with fetched := [(0, e)], next := 1 }
/-- The argument of slice 3's entry is being read for function `pf`. -/
def arguing (pf : Nat) (s : State) : State := { s with hif := { s.hif with reads := outReads [(pf, .arg 3)] } }
/-- An entry of opcode `op` with bytes 8 to 23 as given. -/
def scBytes (op : Nat) (b : List Byte) : List Byte := leBytes 1 op ++ List.replicate 7 0 ++ b ++ List.replicate (56 - b.length) 0
/-- An entry that sets up transmit queue 0 of the share, at size 8, count 1 and version 1. -/
def setupBytes : List Byte :=
  scBytes 1 ([0, 0, 0, 0, 0, 0, 0, 0] ++ ((List.range 8).flatMap fun w => leBytes 4 ((ringing 0 768 0 0).rd (qAdr 0 768 + 4 * w)).toNat))
theorem wit_setup : (controls 1 setupBytes).scEntry 3 0x01 = some setupBytes ∧ (controls 1 setupBytes).scQueue 3 setupBytes = (0, some 768) ∧
    (controls 1 setupBytes).qState 0 768 = qsDISABLED ∧ ((controls 1 setupBytes).putContext (qAdr 0 768) (slice setupBytes 16 32)).qContextOk 0 768 = true ∧
    ((controls 1 setupBytes).putContext (qAdr 0 768) (slice setupBytes 16 32)).act (qAdr 0 768) QeTxq.count ≠ 0 ∧
    ((controls 1 setupBytes).set (qAdr 0 768) QeTxq.state 1).qState 0 768 ≠ qsDISABLED ∧
    ((controls 1 setupBytes).set (qAdr 0 768) QeTxq.state 1).scEntry 3 0x01 = some setupBytes := by decide +kernel
theorem wit_scQueue : (controls 1 (scBytes 2 [0, 0, 0, 0])).scEntry 3 0x02 = some (scBytes 2 [0, 0, 0, 0]) ∧
    (controls 1 (scBytes 3 [0, 0, 0, 0])).scEntry 3 0x03 = some (scBytes 3 [0, 0, 0, 0]) ∧ (controls 1 (scBytes 4 [0, 0, 0, 0])).scEntry 3 0x04 = some (scBytes 4 [0, 0, 0, 0]) ∧
    (controls 1 (scBytes 2 [0, 0, 0, 0])).scQueue 3 (scBytes 2 [0, 0, 0, 0]) = (0, some 768) ∧
    (controls 1 (scBytes 2 [0, 0, 0, 4])).scQueue 3 (scBytes 2 [0, 0, 0, 4]) = (0, none) := by decide +kernel
theorem wit_scTables : (controls 0 (scBytes 0x10 [2])).ready 11 = true ∧ (controls 0 (scBytes 0x10 [2])).slicePf 3 = 0 ∧
    (controls 0 (scBytes 0x10 [2])).scEntry 3 0x10 = some (scBytes 0x10 [2]) ∧ (controls 0 (scBytes 0x13 [2])).scEntry 3 0x13 = some (scBytes 0x13 [2]) ∧
    ((arguing 0 (controls 0 (scBytes 0x13 [2]))).argIn 3).slotOf 2 (slice ([1, 2, 3] : List Byte) 0 (keyBytes ((controls 0 (scBytes 0x13 [2])).tKind 2))) = none ∧
    (arguing 0 (controls 0 (scBytes 0x10 [2]))).scEntry 3 0x10 = some (scBytes 0x10 [2]) ∧ (controls 0 (scBytes 0x10 [2])).reading 0 (.arg 3) = false ∧
    (controls 0 (scBytes 0x19 [2])).ready 12 = true ∧ (controls 0 (scBytes 0x19 [2])).tcamIndex (some (3 : Fin 256).val) 2 0 = none := by decide +kernel
/-- Slice 3 on PF0 with entry `e` in front, an entry of table 2, and partition 1 for access lists. -/
def tabling (e : List Byte) : State :=
  let s1 := (controls 0 e).set (EmtTable.adr 2) EmtTable.enable 1
  let s2 := (((s1.set (EmtTable.adr 2) EmtTable.kind 0).set (TcmPart.adr 1) TcmPart.enable 1).set (TcmPart.adr 1) TcmPart.width 0).set (TcmPart.adr 1) TcmPart.blocks 2
  { s2 with emt := { s2.emt with tabs := (learning false (some stashBase)).emt.tabs } }
theorem wit_scHit : ((arguing 0 (tabling (scBytes 0x13 [2]))).argIn 3).slotOf 2 (slice entry 0 (keyBytes ((tabling (scBytes 0x13 [2])).tKind 2))) = some (stashBase, entry) ∧
    (tabling (scBytes 0x13 [2])).ready 11 = true ∧ (tabling (scBytes 0x13 [2])).scEntry 3 0x13 = some (scBytes 0x13 [2]) ∧ (tabling (scBytes 0x13 [2])).slicePf 3 = 0 ∧
    (((arguing 0 (tabling (scBytes 0x18 [1]))).argIn 3).tcamIndex (some (3 : Fin 256).val) 1 0).isSome = true ∧
    ((tabling (scBytes 0x1A [1])).tcamIndex (some (3 : Fin 256).val) 1 0).isSome = true ∧ (tabling (scBytes 0x19 [1])).scEntry 3 0x19 = some (scBytes 0x19 [1]) ∧ (tabling (scBytes 0x18 [1])).scEntry 3 0x18 = some (scBytes 0x18 [1]) ∧
    (tabling (scBytes 0x1A [1])).scEntry 3 0x1A = some (scBytes 0x1A [1]) := by decide +kernel
/-- The device of `tabling` with table 2 in PARITY mode. -/
def paritied : State := (tabling (scBytes 0x13 [2])).set (EmtTable.adr 2) EmtTable.errmode 1
theorem wit_scParity : ((tabling (scBytes 0x13 [2])).parityMode 2 && oddParity entry) = false ∧ (paritied.parityMode 2 && oddParity entry) = true ∧
    ((arguing 0 paritied).argIn 3).slotOf 2 (slice entry 0 (keyBytes (paritied.tKind 2))) = some (stashBase, entry) ∧
    paritied.scEntry 3 0x13 = some (scBytes 0x13 [2]) ∧ paritied.slicePf 3 = 0 ∧ paritied.ready 11 = true ∧
    paritied.qVia qkSC 3 = some (0, some 9) ∧ paritied.issues 0 = true := by decide +kernel
theorem wit_scSpread : (controls 1 (scBytes 0x20 [0, 0, 1, 0])).slicePf 3 = 1 ∧ (controls 1 (scBytes 0x20 [0, 0, 1, 0])).scEntry 3 0x20 = some (scBytes 0x20 [0, 0, 1, 0]) ∧
    0 < leAt (scBytes 0x20 [0, 0, 1, 0]) 10 2 % 4096 ∧ (controls 1 (scBytes 0x21 [])).scEntry 3 0x21 = some (scBytes 0x21 []) ∧
    (controls 2 (scBytes 0x21 [])).slicePf 3 = 2 ∧ (controls 1 []).qM qkSC 3 ≤ 65536 := by decide +kernel
theorem wit_scArgs : (∀ s ∈ [arguing 0 (controls 0 (scBytes 0x10 [2])), arguing 0 (tabling (scBytes 0x13 [2])), arguing 0 (tabling (scBytes 0x18 [1])),
      arguing 0 paritied], s.reading (s.slicePf 3) (.arg 3) = true ∧ (s.argIn 3).qVia qkSC 3 = some (0, some 9) ∧ (s.argIn 3).issues 0 = true) ∧
    (∀ s ∈ [arguing 1 (controls 1 (scBytes 0x20 [0, 0, 1, 0])), arguing 1 (controls 1 (scBytes 0x21 []))],
      s.reading (s.slicePf 3) (.arg 3) = true ∧ (s.argIn 3).qVia qkSC 3 = some (1, some 9) ∧ (s.argIn 3).issues 1 = true) ∧
    (∀ s ∈ [arguing 3 (controls 3 (scBytes 0x40 [])), arguing 3 (controls 3 (scBytes 0x60 []))],
      s.reading (s.slicePf 3) (.arg 3) = true ∧ (s.argIn 3).qVia qkSC 3 = some (3, some 9) ∧ (s.argIn 3).issues 3 = true) ∧
    (controls 2 (scBytes 0x21 [])).qVia qkSC 3 = some (2, some 9) ∧ (controls 2 (scBytes 0x21 [])).issues 2 = true := by decide +kernel
theorem wit_scStray : (∀ k : Fin 256, k ≠ 3 → up.scEntry k 0 = none) ∧ up.reading (up.slicePf 3) (.arg 3) = false ∧ up.bound 3 = false ∧
    (arguing 1 (ringing 3 3 2 0)).reading ((arguing 1 (ringing 3 3 2 0)).slicePf 3) (.arg 3) = true ∧ (arguing 1 (ringing 3 3 2 0)).qState qkSC 3 ≠ qsRUNNING := by
  decide +kernel
theorem wit_scNone : ∀ op, up.scEntry 3 op = none := fun _ => rfl
/-- Slice 3 on PF0, whose function may not issue requests, with entry `e` in front. -/
def muted (e : List Byte) : State := (controls 0 e).set (HifPfStatus.adr 0) HifPfStatus.bme 0
theorem wit_scMuted : (3 : Fin 256).val < (muted []).slices ∧ (muted []).bound (3 : Fin 256) = true ∧ (muted []).issues ((muted []).slicePf (3 : Fin 256)) = false ∧
    (∀ op ∈ [0x10, 0x11, 0x12, 0x13, 0x18], (arguing 0 (muted (scBytes op [2]))).scEntry 3 op = some (scBytes op [2]) ∧
      (arguing 0 (muted (scBytes op [2]))).reading 0 (.arg 3) = true ∧ (arguing 0 (muted (scBytes op [2]))).slicePf 3 = 0 ∧
      ((arguing 0 (muted (scBytes op [2]))).argIn 3).qVia qkSC 3 = some (0, some 9) ∧ ((arguing 0 (muted (scBytes op [2]))).argIn 3).issues 0 = false) ∧
    (muted []).ready 11 = true ∧ (muted []).ready 12 = true := by decide +kernel
/-- The same on PF1. -/
def muted1 : State := arguing 1 ((controls 1 (scBytes 0x21 [])).set (HifPfStatus.adr 1) HifPfStatus.bme 0)
theorem wit_scMuted1 : muted1.slicePf 3 = 1 ∧ muted1.scEntry 3 0x21 = some (scBytes 0x21 []) ∧ muted1.reading 1 (.arg 3) = true ∧
    (muted1.argIn 3).qVia qkSC 3 = some (1, some 9) ∧ (muted1.argIn 3).issues 1 = false := by decide +kernel

/-! Hypotheses of ConnectionsAndRegions. -/

/-- The context of a connection of KIND EXPORT or RING, to node 7, on fabric port 16, with a window of 64. -/
def connBytes (kind : Nat) : List Byte :=
  leBytes 1 (8 * kind) ++ [16, 0, 5] ++ leBytes 4 7 ++ leBytes 4 9 ++ leBytes 4 100 ++ leBytes 4 64 ++ List.replicate 8 0 ++ leBytes 4 100000
    ++ List.replicate 40 0 ++ leBytes 4 (384 * 2 ^ 20 + 3 * 4096) ++ leBytes 4 65536 ++ List.replicate 48 0
/-- Shardo runs for slice 3 on PF3, with connection `c` as given and the arguments of SHX_CMD. -/
def shardo (l : List (Nat × Conn)) (args : List Nat) : State :=
  let s1 := controls 3 []
  let s2 := args.zipIdx.foldl (fun (s : State) (x : Nat × Nat) => s.set (ShxCmdArg.adr x.2) ShxCmdArg.args x.1) s1
  { s2 with shx := { s2.shx with conns := l, cache := l.map (·.1) } }
/-- A connection of that kind in state `st`. -/
def peer (kind st : Nat) : Conn := { Conn.fresh (connBytes kind) 3 with state := st, version := 2, rate := 100000 }
theorem wit_connSetup : (shardo [] [5]).Open .host 16 0x1100 true false ∧ (shardo [] [5]).getB ShxCmd.adr ShxCmd.busy = false ∧ (shardo [] [5]).shxOn = true ∧
    (shardo [] [5]).connArg none (shardo [] [5]).shxArgs = some 5 ∧ (shardo [] [5]).conn 5 = none ∧ bits (leAt (connBytes 1) 0 1) 4 3 ≠ ckRING ∧
    (shardo [] [5]).contextBad none (Conn.fresh (connBytes 1) 0) = none ∧
    (shardo [] [5]).reading 3 .shxCmd = false ∧ (shardo [] [5]).issues 3 = true ∧ (((shardo [] [5]).awake .host 16).connAskSetup (shardo [] [5]).shxArgs).2 = none ∧
    ((((shardo [] [5]).set (HifPfStatus.adr 3) HifPfStatus.bme 0).awake .host 16).connAskSetup (shardo [] [5]).shxArgs).2.isSome = true := by decide +kernel
/-- The context bytes of CONN_SETUP are being read for SHX_CMD. -/
def setupAsked : State :=
  let s1 := shardo [] [5]
  { s1 with hif := { s1.hif with reads := outReads [(3, .shxCmd)] }, shx := { s1.shx with args := s1.shxArgs } }
theorem wit_connSetupIn : setupAsked.reading 3 .shxCmd = true ∧
    ((setupAsked.readEnds 3 .shxCmd).connSetup none setupAsked.shx.args (connBytes 1)).2 = some scOK := by decide +kernel
/-- A slice-control entry for connection or region `i` of the share, with bytes from 12 on as given. -/
def shEntry (op i : Nat) (b : List Byte) : List Byte := scBytes op (leBytes 4 i ++ b)
/-- Slice 3 asks with that entry. -/
def asking (pf : Nat) (e : List Byte) (l : List (Nat × Conn)) (rs : List (Nat × Region)) : State :=
  let s1 := controls pf e
  { s1 with shx := { s1.shx with conns := l, cache := l.map (·.1), regions := rs } }
theorem wit_sliceConn : (asking 3 (shEntry 0x40 4 []) [] []).scEntry 3 0x40 = some (shEntry 0x40 4 []) ∧ (asking 3 (shEntry 0x40 4 []) [] []).slicePf 3 = 3 ∧
    (asking 3 (shEntry 0x40 4 []) [] []).connArg (some 3) (shEntry 0x40 4 []) = some 196612 ∧ bits (leAt (connBytes 0) 0 1) 4 3 = ckRING ∧
    (asking 3 (shEntry 0x40 4 []) [] []).contextBad (some 3) (Conn.fresh (connBytes 0) 3) = none ∧ (asking 3 (shEntry 0x40 4 []) [] []).shxOn = true ∧
    (arguing 3 (asking 3 (shEntry 0x40 4 []) [] [])).reading 3 (.arg 3) = true ∧
    ((arguing 3 (asking 3 (shEntry 0x40 4 []) [] [])).argIn 3).qVia qkSC 3 = some (3, some 9) ∧
    (((arguing 3 (asking 3 (shEntry 0x40 4 []) [] [])).argIn 3).connSetup (some 3) (shEntry 0x40 4 []) (connBytes 0)).2 = some scOK ∧ (asking 1 (shEntry 0x40 4 []) [] []).slicePf 3 ≠ 3 ∧
    (asking 1 (shEntry 0x40 4 []) [] []).scEntry 3 0x40 = some (shEntry 0x40 4 []) ∧ (asking 3 (shEntry 0x41 4 []) [(196612, peer 0 1)] []).scEntry 3 0x41 = some (shEntry 0x41 4 []) ∧
    ((asking 3 (shEntry 0x42 4 []) [(196612, peer 0 1)] []).connClose (.slice 3) (some 3) (shEntry 0x42 4 [])).2 = none := by decide +kernel
theorem wit_conns : (shardo [(5, peer 1 1)] [5]).conn 5 = some (peer 1 1) ∧ (peer 1 1).closing = none ∧ (peer 1 1).state = csCLOSED ∧ (peer 1 4).state = csFAILED ∧
    (peer 1 3).state = csOPEN ∧ (shardo [(5, { peer 1 3 with closing := some .host })] [5]).conn 5 = some { peer 1 3 with closing := some .host } ∧
    (shardo [(5, peer 1 3)] [5]).readsOf (.conn 5) = 0 ∧ (shardo [(5, peer 1 3)] [5]).readsOf (.remote 5) = 0 := by decide +kernel
/-- A registered host region of slice 3. -/
def hosted : Region := ⟨true, false, false, true, true, true, 2, 3, 0x100000, 4096⟩
theorem wit_regions : (asking 3 (shEntry 0x44 6 [0x0E]) [] []).regionArg (some 3) (shEntry 0x44 6 ([0x0E, 0, 0, 0] ++ leBytes 8 4096 ++ leBytes 8 64)) = some 196614 ∧
    ((asking 3 (shEntry 0x44 6 [0x0E]) [] []).region 196614).valid = false ∧ bit (leAt (shEntry 0x44 6 ([0x0E, 0, 0, 0] ++ leBytes 8 4096 ++ leBytes 8 64)) 12 1) 4 = false ∧
    0 < leAt (shEntry 0x44 6 ([0x0E, 0, 0, 0] ++ leBytes 8 4096 ++ leBytes 8 64)) 24 8 ∧ 3 < (asking 3 [] [] []).slices ∧
    (shardo [] [5, 0x10]).regionArg none (shardo [] [5, 0x10]).shxArgs = some 5 ∧ bit (leAt (shardo [] [5, 0x10]).shxArgs 12 1) 4 = true ∧
    ((asking 3 [] [] [(196614, hosted)]).region 196614).valid = true := by decide +kernel

/-! Hypotheses of SendRingsAndPackets. -/

/-- A packet of a WRITE of 8 bytes. -/
def packet (psn : Option Nat) : Pkt :=
  { tag := 0, op := opWRITE, key := 6, addr := 0, len := 8, time := 0, last := true, data := List.replicate 8 1, dest := [], via := none, psn := psn, acked := false }
/-- A send ring of eight entries in state `st`. -/
def ringConn (st : Nat) : Conn := { peer 0 3 with rstate := st }
theorem wit_ringCtl : (shardo [(196612, ringConn 0)] [196612, 1]).shxOn = true ∧ leAt (shardo [(196612, ringConn 0)] [196612, 1]).shxArgs 12 1 % 4 = 1 ∧
    ((((shardo [(196612, ringConn 0)] [196612, 1]).awake .host 16).ringCtl none (shardo [(196612, ringConn 0)] [196612, 1]).shxArgs).2) = some scOK ∧
    (shardo [(196612, ringConn 1)] [196612, 2]).connArg none (shardo [(196612, ringConn 1)] [196612, 2]).shxArgs = some 196612 ∧
    (shardo [(196612, ringConn 1)] [196612, 2]).conn 196612 = some (ringConn 1) ∧ (ringConn 1).kind = ckRING ∧ (ringConn 1).q.drain = none ∧ (ringConn 1).closing = none ∧
    (ringConn 1).rstate = qsRUNNING ∧ (ringConn 3).rstate = qsERROR ∧ leAt (shardo [] [5, 2]).shxArgs 12 1 % 4 = 2 ∧ leAt (shardo [] [5, 3]).shxArgs 12 1 % 4 = 3 ∧
    (asking 3 (shEntry 0x46 4 [2]) [(196612, ringConn 1)] []).scEntry 3 0x46 = some (shEntry 0x46 4 [2]) ∧
    ((asking 3 (shEntry 0x46 4 [2]) [(196612, ringConn 1)] []).ringCtl (some 3) (shEntry 0x46 4 [2])).2 = some scOK := by decide +kernel
theorem wit_doorbell : (asking 3 [] [(196612, ringConn 1)] []).bound (3 : Fin 256) = true ∧ (asking 3 [] [(196612, ringConn 1)] []).slicePf (3 : Fin 256) = 3 ∧
    bits (0x40002#64 : DWord).toNat 35 16 = 4 ∧ 4 < ((asking 3 [] [(196612, ringConn 1)] []).share .conn (3 : Fin 256)).2 ∧
    ((asking 3 [] [(196612, ringConn 1)] []).share .conn (3 : Fin 256)).1 + 4 = 196612 ∧ (asking 3 [] [(196612, ringConn 1)] []).shx.cache.contains 196612 = true ∧
    ({ asking 3 [] [(196612, ringConn 1)] [] with shx := { up.shx with conns := [(196612, ringConn 1)] } } : State).shx.cache.contains 196612 = false ∧
    2 < (ringConn 1).ringM ∧ qDist (ringConn 1).ringM (ringConn 1).head (ringConn 1).tail ≤ qDist (ringConn 1).ringM (ringConn 1).head 2 ∧
    qDist (ringConn 1).ringM (ringConn 1).head 2 ≤ (ringConn 1).ringN ∧ (ringConn 1).ringM ≤ 16 := by decide +kernel
theorem wit_doorbell_halted : (asking 3 [] [(196612, ringConn 1)] []).halted = false ∧ (silenced (asking 3 [] [(196612, ringConn 1)] [])).halted = true := by decide +kernel
/-- The ring with one read outstanding, a packet that waits for local data, and one that waits to be sent. -/
def ringBusy : Conn :=
  { ringConn 1 with q := { QSt.init with asked := [(0, 1)], next := 1 }, work := [⟨4096, packet none⟩], pkts := [packet none] }
theorem wit_entries : (asking 3 [] [(196612, ringBusy)] []).conn 196612 = some ringBusy ∧ ringBusy.q.asked = [(0, 1)] ∧ ringBusy.rstate = qsRUNNING ∧ ringBusy.q.drain = none ∧
    sendBad 2 (List.replicate 64 0) = some qrBAD_OP ∧ ringBusy.work = [⟨4096, packet none⟩] ∧
    ((asking 3 [] [(196612, ringBusy)] []).set ShxRetxCells.adr ShxRetxCells.cells 100).copyRoom 8 = true := by decide +kernel
theorem wit_packets : ringBusy.state = csOPEN ∧ ringBusy.hellos = 0 ∧ (asking 3 [] [(196612, ringBusy)] []).ready 16 = true ∧ ringBusy.pause = none ∧ 0 < ringBusy.rate ∧
    ringBusy.paceAt ≤ (asking 3 [] [(196612, ringBusy)] []).lineNs * 1000 + 40000 ∧ (asking 3 [] [(196612, ringBusy)] []).nextPkt ringBusy = some (packet none, false) ∧
    cellsOf ((packet none).len + 160) ≤ (asking 3 [] [(196612, ringBusy)] []).poolFree ∧ (asking 3 [] [(196612, ringConn 1)] []).nextPkt (ringConn 1) = none ∧
    ringBusy.cursor = none ∧ ringBusy.unsent = some (packet none) ∧ ({ ringBusy with rstate := 0 } : Conn).ents = [] := by decide +kernel
/-- The ring with an entry done that no head record reports, and a head-record time of 5. -/
def ringOwing : Conn :=
  { ringConn 1 with ctx := List.replicate 128 5, q := { QSt.init with unreported := 1 } }
theorem wit_connTimer : (asking 3 [] [(196612, ringOwing)] []).conn 196612 = some ringOwing ∧ ringOwing.rstate = qsRUNNING ∧ 0 < ringOwing.q.unreported ∧
    ringOwing.time ≠ 0 ∧ (asking 3 [] [(196612, ringOwing)] []).connFrozen ringOwing = false ∧
    ((asking 3 [] [(196612, ringOwing)] []).set (HifSlice.adr ringOwing.slice) HifSlice.state slFROZEN).connFrozen ringOwing = true := by decide +kernel
theorem wit_connTimer_issues : (asking 3 [] [(196612, ringOwing)] []).connVia ringOwing = some (3, some 9) ∧ (asking 3 [] [(196612, ringOwing)] []).issues 3 = true ∧
    ((asking 3 [] [(196612, ringOwing)] []).set (HifPfStatus.adr 3) HifPfStatus.bme 0).issues 3 = false := by decide +kernel
/-- Generator 2 has an export for connection 5, which is one or is FREE. -/
def exporting (l : List (Nat × Conn)) : State :=
  let s1 := ((shardo l []).set (MpiMaster.adr 2) MpiMaster.exportConn 5).set ShxRetxCells.adr ShxRetxCells.cells 100
  { s1 with mpi := { s1.mpi with exports := [(2, List.replicate 32 7, 1000)] } }
theorem wit_export : (exporting []).mpi.exports = [(2, List.replicate 32 7, 1000)] ∧ (exporting []).conn ((exporting []).act (MpiMaster.adr 2) MpiMaster.exportConn) = none ∧
    (exporting [(5, peer 1 3)]).conn 5 = some (peer 1 3) ∧ (peer 1 3).kind = ckEXPORT ∧ (peer 1 3).version = 2 ∧ (exporting [(5, peer 1 3)]).ready 16 = true ∧
    (exporting [(5, peer 1 3)]).shx.cache.contains 5 = true ∧ (peer 1 3).pkts = [] ∧ (peer 1 3).cursor = none ∧ (peer 1 3).pause = none ∧ 0 < (peer 1 3).window ∧
    0 < (peer 1 3).rate ∧ (exporting [(5, peer 1 3)]).copyRoom 32 = true := by decide +kernel

/-! Hypotheses of PacketsAreReceived. -/

/-- A header of connection 196612 at PSN `psn`. -/
def shHeader (op psn : Nat) : ShHdr :=
  { ver := 2, op := op, flags := 3, conn := 196612, epoch := 0, psn := psn, code := 0, marks := 0, key := 2 * 2 ^ 24 + 196614, addr := 16, len := if op = opWRITE then 8 else 0
    time := 0, payload := if op = opWRITE then List.replicate 8 1 else [], icv := [] }
/-- The frame of fabric port 16 that carries it. -/
def shFrame (s : State) (h : ShHdr) : PFrame :=
  { (pframe none) with role := 2, input := 0, fcs := some true
                       bytes := s.shxFrame { port := 16, tag := none, v6 := false, dscp := 0, sport := 5, mac := [2, 0, 0, 0, 0, 1], ip := s.localIp false } (h.bytes ++ h.payload) }
/-- Slice 3's connection 196612 stands open, with region 196614, and a frame waits for Shardo. -/
def shxSteered (l : List (Nat × Conn)) (op psn : Nat) : State :=
  let s1 := asking 3 [] l [(196614, hosted)]
  { s1 with pp := { s1.pp with toShx := [shFrame s1 (shHeader op psn)] } }
theorem wit_arrivals : ∀ op ∈ [0, 1, 2, 3, 4, 5, 6, 7, 8, 9, 10], (takeSteered (shxSteered [(196612, peer 0 3)] op 0).pp.toShx).isSome = true := by decide +kernel
/-- The parsed packet of a steered WRITE. -/
def parsedWrite : Option ShHdr := ((shxSteered [] 0 5).shxParse (shFrame (shxSteered [] 0 5) (shHeader 0 5))).map (·.1)
theorem wit_parsed : parsedWrite = some (shHeader 0 5) ∧ (shFrame (shxSteered [] 0 5) (shHeader 0 5)).fcs = some true ∧ (shxSteered [] 0 5).shxOn = true ∧
    (shxSteered [] 0 5).conn (shHeader 0 5).conn = none ∧ (shHeader 0 5).request = true ∧ (shxSteered [(196612, peer 0 3)] 0 5).conn (shHeader 3 5).conn = some (peer 0 3) ∧
    (peer 0 3).state ≠ csFAILED ∧ (shHeader 3 5).keyed = false ∧ (shxSteered [(196612, peer 0 3)] 0 5).shx.parked = [] ∧ (shHeader 0 5).authed = false ∧ (peer 0 3).auth = false ∧
    (shHeader 0 5).ver = (peer 0 3).version ∧ ({ shHeader 0 5 with flags := 16 } : ShHdr).authed = true ∧ ({ shHeader 0 5 with epoch := 9 } : ShHdr).epoch ≠ (peer 0 3).epoch ∧
    (shxSteered [(196612, peer 0 3)] 0 5).connFrozen (peer 0 3) = false ∧ (shxSteered [] 0 5).ustate 16 ≠ stHELD ∧ psnDist (peer 0 3).expected 0 = 0 ∧
    2 ^ 24 - 2 ^ 22 ≤ psnDist (peer 0 3).expected (2 ^ 24 - 1) ∧ (peer 0 3).gap = none ∧ 2 ^ 22 ≤ psnDist (peer 0 3).expected (2 ^ 23) ∧
    (shxSteered [] 0 5).regionBad (peer 0 3) (shHeader 0 0) = none ∧ (shxSteered [] 0 5).regionBad (peer 0 3) { shHeader 0 0 with addr := 4096 } = some 0x12 := by decide +kernel
theorem wit_timed_line : ((shxSteered [] 0 5).set ShxTw.adr ShxTw.horizon 10).act ShxTw.adr ShxTw.horizon * 1000000 = 10000000 ∧
    (shxSteered [] 0 5).shx.held.length < heldSlots := by decide +kernel
/-- Line time is at 0, and a tick is in progress. -/
def standing : State := { shxSteered [] 0 5 with time := { (shxSteered [] 0 5).time with line := 0 } }
/-- The phase within a tick stays below 40 ns, whatever its free draws are. -/
theorem phaseFrom_lt (c n : Nat) : phaseFrom c n < 40000 := by
  induction n with
  | zero => exact Nat.mod_lt _ (by decide)
  | succ n ih => exact Nat.max_lt.mpr ⟨ih, Nat.mod_lt _ (by decide)⟩
theorem phase_lt (s : State) : s.phase < 40000 := by
  unfold State.phase; split
  · decide
  · exact phaseFrom_lt _ _
theorem wit_timed_shadow : standing.time.line = 0 ∧ standing.nowInc = 40 * nsUnit ∧ standing.shadowKHz .shx = 1000000 := by decide +kernel
theorem shadowNs_lt (s : State) (hl : s.time.line = 0) (hi : s.nowInc = 40 * nsUnit) (hk : s.shadowKHz .shx = 1000000) : s.shadowNs .shx < 40 := by
  have h := phase_lt s
  unfold State.shadowNs State.shadow
  rw [hl, hi, hk]
  have h2 : s.phase * 1000000 / 1000000000 ≤ 39 := by omega
  refine Nat.lt_of_le_of_lt (Nat.mod_le _ _) ?_
  refine Nat.div_lt_of_lt_mul (Nat.lt_of_le_of_lt (m := 39 * nsUnit) ?_ (by decide))
  have h3 : 40 * nsUnit * 25000 / 1000000 = nsUnit := by decide
  rw [if_neg (by decide), h3, Nat.zero_add]
  exact Nat.mul_le_mul_right _ h2
theorem standing_shadow_lt : standing.shadowNs .shx < 40 := shadowNs_lt _ wit_timed_shadow.1 wit_timed_shadow.2.1 wit_timed_shadow.2.2
theorem wit_timed_due : ∀ n < 40, 0 < toSigned 32 ((400 + 2 ^ 32 - (stampOf n).toNat) % 2 ^ 32) ∧ toSigned 32 ((400 + 2 ^ 32 - (stampOf n).toNat) % 2 ^ 32) ≤ (10000000 : Nat) ∧
    toSigned 32 ((0 + 2 ^ 32 - (stampOf n).toNat) % 2 ^ 32) ≤ 0 := by decide +kernel
theorem wit_timed : 0 < toSigned 32 ((400 + 2 ^ 32 - (stampOf (standing.shadowNs .shx)).toNat) % 2 ^ 32) ∧
    toSigned 32 ((400 + 2 ^ 32 - (stampOf (standing.shadowNs .shx)).toNat) % 2 ^ 32) ≤ (10000000 : Nat) ∧
    toSigned 32 ((0 + 2 ^ 32 - (stampOf (standing.shadowNs .shx)).toNat) % 2 ^ 32) ≤ 0 :=
  wit_timed_due _ standing_shadow_lt
/-- A connection with three packets in flight. -/
def flying : Conn := { peer 0 3 with sendPsn := 103, pkts := [packet (some 100), packet (some 101), packet (some 102)] }
theorem wit_answers : flying.inFlight 101 = true ∧ flying.inFlight 103 = false ∧ (flying.ack 101).1.pkts = [packet (some 102)] := by decide +kernel

/-! Hypotheses of CompletionsAndTimersOfShardo. -/

theorem wit_fetched : ({ asking 3 [] [(196612, peer 0 3)] [] with hif := { linked.hif with reads := outReads [(3, .ctx 196612), (3, .region 6)] } } : State).reading 3 (.ctx (196612 : Fin 1048576)) = true ∧
    ({ asking 3 [] [(196612, peer 0 3)] [] with hif := { linked.hif with reads := outReads [(3, .ctx 196612), (3, .region 6)] } } : State).reading 3 (.region (6 : Fin 1048576)) = true := by decide +kernel
/-- The connection with a FLUSH, or a READ_REQ, whose read is out. -/
def serving (flush : Bool) : Conn := { peer 0 3 with todo := [{ psn := 4, flush := flush, waits := [], region := 196614, addr := 0, len := 4, issued := true }] }
theorem wit_served : (asking 3 [] [(196612, serving true)] []).conn (196612 : Fin 1048576) = some (serving true) ∧ (asking 3 [] [(196612, serving true)] []).blockTarget (serving true) = false := by decide +kernel
/-- The connection with its timers due, and a pause. -/
def timing (st tries : Nat) (full : Bool) : Conn := { flying with state := st, tries := tries, rtoAt := some 0, pause := some (0, 100, full), ackFrom := some 0 }
/-- Its device, with retry limit 7 and every time 0. -/
def timed (x : Conn) : State :=
  let s1 := (((asking 3 [] [(196612, x)] [])).set ShxRetx.adr ShxRetx.retryLimit 7).set ShxAck.adr ShxAck.ackTime 0
  s1.set ShxCc0.adr ShxCc0.incTime 0
theorem wit_timers : (timed (timing 3 0 false)).conn (196612 : Fin 1048576) = some (timing 3 0 false) ∧ (timing 3 0 false).outstanding = true ∧ (timing 3 0 false).state = csOPEN ∧
    0 + 1 < (timed (timing 3 0 false)).act ShxRetx.adr ShxRetx.retryLimit ∧ (timed (timing 3 6 false)).act ShxRetx.adr ShxRetx.retryLimit ≤ (timing 3 6 false).tries + 1 ∧
    (timing 2 0 true).state = csCONNECTING ∧ (timing 2 0 true).helloAt ≤ (timed (timing 2 0 true)).lineNs + 40 ∧ (timed (timing 2 0 true)).ready 16 = true ∧
    (timing 2 0 true).hellos < (timed (timing 2 0 true)).act ShxRetx.adr ShxRetx.retryLimit ∧ (timing 2 0 true).rstate ≠ qsRUNNING ∧
    0 + (timed (timing 3 0 false)).act ShxAck.adr ShxAck.ackTime * 1000 ≤ (timed (timing 3 0 false)).lineNs + 40 ∧ (timing 3 0 false).growMark = false ∧
    (timing 3 0 false).growAt + (timed (timing 3 0 false)).act ShxCc0.adr ShxCc0.incTime * 1000 ≤ (timed (timing 3 0 false)).lineNs + 40 ∧
    (timing 3 0 false).decayAt ≤ (timed (timing 3 0 false)).lineNs + 40 := by decide +kernel
theorem wit_placement : ({ asking 3 [] [] [(196614, hosted)] with shx := { (asking 3 [] [] [(196614, hosted)]).shx with held := [heldWrite] } } : State).shx.held = [heldWrite] ∧
    heldWrite.due ≤ ((asking 3 [] [] []).lineNs + 40 : Nat) ∧ (asking 3 [] [] []).shx.placed = [] ∧ ((asking 3 [] [] [(196614, hosted)]).region 196614).mpi = false ∧
    ¬ ({ heldWrite with due := 5000 } : HeldWrite).due ≤ ((asking 3 [] [] []).lineNs + 40 : Nat) := by decide +kernel

/-! Hypotheses of StorageQueuesAndAdminCommands. -/

/-- U17 runs with its admin queues, `n` entries fetched, and the given I/O queues and commands. -/
def storing (n : Nat) (cqs : List (Nat × NvCq)) (sqs : List (Nat × NvSq)) (ls : List NvLock) : State :=
  { controls 2 [] with nvf := { up.nvf with
      csts := 1, sqs := (0, { base := 4096, size := 8, cq := 0, head := 0, tail := 1, asked := n }) :: sqs
      cqs := (0, { base := 8192, size := 8, head := 0, tail := 0, phase := true, ien := true, vector := 0 }) :: cqs, locks := ls, smart := [0, 0, 0, 0] } }
/-- A completion queue, and a submission queue that completes there. -/
def ioCq : NvCq := { base := 0x10000, size := 8, head := 0, tail := 0, phase := true, ien := false, vector := 0 }
def ioSq : NvSq := { base := 0x20000, size := 8, cq := 193, head := 0, tail := 1, asked := 1 }
/-- An entry: opcode, NSID, PRP entries, Dwords 10 and 11, and LBA with count in Dwords 10 to 12. -/
def nvBytes (op nsid p1 p2 d10 d11 d12 : Nat) : List Byte :=
  leBytes 1 op ++ [0] ++ leBytes 2 77 ++ leBytes 4 nsid ++ List.replicate 16 0 ++ leBytes 8 p1 ++ leBytes 8 p2 ++ leBytes 4 d10 ++ leBytes 4 d11 ++ leBytes 4 d12 ++ List.replicate 12 0
theorem wit_doors : (storing 1 [(193, ioCq)] [(193, ioSq)] []).sq (193 : Fin 1025) = some ioSq ∧ (2#16).toNat < ioSq.size ∧ ioSq.size ≤ (8#16).toNat ∧
    (storing 1 [(193, ioCq)] [(193, ioSq)] []).cq (193 : Fin 1025) = some ioCq := by decide +kernel
theorem wit_doors_halted : (storing 1 [(193, ioCq)] [(193, ioSq)] []).halted = false ∧ (silenced (storing 1 [(193, ioCq)] [(193, ioSq)] [])).halted = true ∧
    (silenced (storing 1 [(193, ioCq)] [(193, ioSq)] [])).sq (193 : Fin 1025) = some ioSq ∧ (silenced (storing 1 [(193, ioCq)] [(193, ioSq)] [])).cq (193 : Fin 1025) = some ioCq ∧
    (controls 2 []).halted = false ∧ (silenced (controls 2 [])).halted = true := by decide +kernel
theorem wit_admin : ((storing 1 [] [] []).sq 0).isSome = true ∧ nvReserved (nvBytes 5 0 0 0 (193 + 7 * 65536) 1 0) = false ∧ nvOp (nvBytes 5 0 0 0 (193 + 7 * 65536) 1 0) = 5 ∧
    (storing 1 [] [] []).cq (nvDw (nvBytes 5 0 0 0 (193 + 7 * 65536) 1 0) 10 % 65536) = none ∧ nvDw (nvBytes 5 0 0 0 (193 + 7 * 65536) 1 0) 10 / 65536 = 7 ∧
    bit (nvDw (nvBytes 5 0 0 0 (193 + 7 * 65536) 1 0) 11) 0 = true ∧ nvDw (nvBytes 1 0 4096 0 (193 + 7 * 65536) (1 + 193 * 65536) 0) 11 / 65536 = 193 ∧
    (storing 1 [(193, ioCq)] [] []).cq 193 = some ioCq ∧ (storing 1 [(193, ioCq)] [] []).sq 193 = none ∧ leAt (nvBytes 1 0 4096 0 (193 + 7 * 65536) (1 + 193 * 65536) 0) 24 8 % 4096 = 0 ∧
    (storing 1 [(193, ioCq)] [(193, ioSq)] []).sq (nvDw (nvBytes 0 0 0 0 193 0 0) 10 % 65536) = some ioSq ∧ nvOp (nvBytes 0 0 0 0 193 0 0) = 0 ∧
    nvReserved ([6, 1] : List Byte) = true ∧ nvDw (nvBytes 6 0 0 0 1 0 0) 10 % 256 = 1 ∧ nvDw (nvBytes 9 0 0 0 8 0 0) 10 % 256 ∈ [1, 4, 8, 9, 0x0B] ∧
    (storing 1 [] [] []).nvf.aers.length < 4 := by decide +kernel
theorem wit_deleteCq : (∀ x ∈ ((storing 1 [(193, ioCq)] [] []).nvTaken 0 ((0, { base := 4096, size := 8, cq := 0, head := 0, tail := 1, asked := 1 }) : Nat × NvSq).2).nvf.sqs, x.2.cq ≠ 193) ∧
    (∃ x ∈ ((storing 1 [(193, ioCq)] [(193, ioSq)] []).nvTaken 0 ((0, { base := 4096, size := 8, cq := 0, head := 0, tail := 1, asked := 1 }) : Nat × NvSq).2).nvf.sqs, x.2.cq = 193) := by decide +kernel
theorem wit_controller : (controls 2 []).nvReady = false ∧ bit (0x460001#32 : Word).toNat 0 = true ∧ (controls 2 []).ready 17 = true ∧ (controls 2 []).nvFatal = false ∧
    bits (0x460001#32 : Word).toNat 6 4 = 0 ∧ bits (0x460001#32 : Word).toNat 10 7 = 0 ∧ bits (0x460001#32 : Word).toNat 13 11 = 0 ∧ (0x70007#32 : Word).toNat % 4096 ≠ 0 ∧
    bits (0x70007#32 : Word).toNat 27 16 ≠ 0 := by decide +kernel

/-! Hypotheses of StorageCommandsLockIssueAndComplete. -/

/-- Namespace 3 is enabled with one extent of 1,000 blocks on connection 5, and queue 193 has an entry; locks as given. -/
def naming (ls : List NvLock) (st : Nat) : State :=
  let s1 := ((storing 1 [(193, ioCq)] [(193, ioSq)] ls).set (NvfNs.adr 3) NvfNs.enable 1).set (NvfNs.adr 3) NvfNs.extCount 1
  let s2 := (((s1.set (NvfNs.adr 3) NvfNs.firstExt 7).set (NvfExt.adr 7) NvfExt.lbas 1000).set (NvfExt.adr 7) NvfExt.conn 5).set (NvfNs.adr 3) NvfNs.slice 3
  let s3 := s2.set ShxRetxCells.adr ShxRetxCells.cells 1000
  { s3 with shx := { s3.shx with conns := [(5, peer 2 st)], cache := [5] } }
/-- A lock entry of namespace 3. -/
def locked (id op lba blocks : Nat) (ph : NvPhase) : NvLock :=
  { id := id, sq := some 193, cid := 77, rope := 0, op := op, nss := [3], lba := lba, blocks := blocks, fua := false, prp1 := 4096, prp2 := 0, phase := ph, flushed := false }
theorem wit_io : (naming [] 3).sq (193 : Fin 1025) = some ioSq ∧ nvOp (nvBytes 1 4 4096 0 990 0 9) = 1 ∧ nvReserved (nvBytes 1 4 4096 0 990 0 9) = false ∧
    (naming [] 3).nsAllowed 193 3 = true ∧ (naming [] 3).nsAllowed 193 4 = false ∧ nvNsid (nvBytes 1 4 4096 0 990 0 9) = 4 ∧
    (leAt (nvBytes 8 4 4096 0 990 0 9) 48 2 + 1) * lbaSize (naming [] 3).inForce 3 ≤ 1048576 ∧
    leAt (nvBytes 8 4 4096 0 990 0 9) 40 8 + (leAt (nvBytes 8 4 4096 0 990 0 9) 48 2 + 1) ≤ nsBlocks (naming [] 3).inForce 3 ∧
    nsBlocks (naming [] 3).inForce 3 < leAt (nvBytes 8 4 4096 0 991 0 9) 40 8 + (leAt (nvBytes 8 4 4096 0 991 0 9) 48 2 + 1) ∧
    1048576 < (leAt (nvBytes 8 4 4096 0 991 0 65535) 48 2 + 1) * lbaSize (naming [] 3).inForce 3 := by decide +kernel
theorem wit_locks : lockBlocked { locked 9 1 5 10 .stalled with id := (naming [locked 1 2 8 4 .sent] 3).nvf.nextId } (naming [locked 1 2 8 4 .sent] 3).nvf.locks = true ∧
    lockBlocked { locked 9 2 5 10 .stalled with id := (naming [locked 1 2 8 4 .sent] 3).nvf.nextId } (naming [locked 1 2 8 4 .sent] 3).nvf.locks = false ∧
    (naming [locked 1 1 5 10 .stalled] 3).nvf.locks.find? (fun l : NvLock => l.phase == .stalled && !lockBlocked l (naming [locked 1 1 5 10 .stalled] 3).nvf.locks &&
      (naming [locked 1 1 5 10 .stalled] 3).nvMayIssue l) = some (locked 1 1 5 10 .stalled) ∧
    (naming [] 3).lockConns (locked 1 1 5 10 .stalled) = [5] ∧ (naming [] 3).connIsOpen 5 = true ∧ (naming [] 1).connIsOpen 5 = false ∧
    (naming [] 3).lockBytes (locked 1 1 5 4 .stalled) ≤ 4096 - (locked 1 1 5 4 .stalled).prp1 % 4096 := by decide +kernel
theorem wit_nvData : (naming [locked 1 1 5 4 (.data [4096])] 3).lock 1 = some (locked 1 1 5 4 (.data [4096])) ∧ (naming [] 3).nvMayIssue (locked 1 1 5 4 (.data [4096])) = true ∧
    (naming [] 3).copyRoom ((naming [] 3).lockBytes (locked 1 1 5 4 (.data [4096]))) = true ∧ (naming [locked 1 1 5 4 (.list 4096 [])] 3).lock 1 = some (locked 1 1 5 4 (.list 4096 [])) := by decide +kernel
theorem wit_completion : ioCq.full = false ∧ ({ ioCq with head := 1 } : NvCq).full = true ∧ (naming [] 3).cq 193 = some ioCq ∧ (naming [] 3).nvf.held = [] := by decide +kernel

/-! Hypotheses of NamespacesNoticesAndRecords. -/

/-- Namespace 3 with ENABLE as given, on a storage connection. -/
def namespaced (on : Nat) : State := ((naming [] 3).set (NvfNs.adr 3) NvfNs.enable on).modBoot fun b => { b with perst := true }
/-- The same after the write of word `v` to NVF_NS of namespace 3. -/
def nsWritten (on : Nat) (v : Word) : State :=
  ((namespaced on).awake .host 17).setBits (NvfNs.adr (3 : Fin 1024)) (fieldMask (fun f _ => f.acc == .rwl) (NvfNs.adr (3 : Fin 1024))) v
theorem wit_namespace : (namespaced 0).Open .host 17 (nvfOff (NvfNs.adr (3 : Fin 1024))) ((namespaced 0).rwlDiffers (NvfNs.adr (3 : Fin 1024)) ((namespaced 1).rd (NvfNs.adr 3))) false ∧
    (namespaced 0).rwlDiffers (NvfNs.adr (3 : Fin 1024)) ((namespaced 1).rd (NvfNs.adr 3)) = true ∧ (namespaced 0).rwlDiffers (NvfNs.adr (3 : Fin 1024)) ((namespaced 0).rd (NvfNs.adr 3)) = false ∧
    (namespaced 0).actB (NvfNs.adr (3 : Fin 1024)) NvfNs.enable = false ∧
    2 ≤ bits (0x20000000#32 : Word).toNat 29 28 ∧ bits ((namespaced 1).rd (NvfNs.adr 3)).toNat 29 28 < 2 ∧ ((namespaced 1).rd (NvfNs.adr 3)).getLsbD 31 = true ∧
    (nsWritten 0 ((namespaced 1).rd (NvfNs.adr 3))).nsEnableOk (nsWritten 0 ((namespaced 1).rd (NvfNs.adr 3))).inForce (3 : Fin 1024) = true ∧
    (nsWritten 0 ((namespaced 1).rd (NvfNs.adr 3))).nsEnableOk (nsWritten 0 ((namespaced 1).rd (NvfNs.adr 3))).rd (3 : Fin 1024) = true ∧
    offence (fun _ => false) (((namespaced 0).awake .host 17).recBad ((namespaced 0).awake .host 17).inForce) ((nsWritten 0 ((namespaced 1).rd (NvfNs.adr 3))).recBad (nsWritten 0 ((namespaced 1).rd (NvfNs.adr 3))).inForce) = none ∧
    ({ (namespaced 0).awake .host 17 with shx := up.shx } : State).nsEnableOk (namespaced 0).inForce (3 : Fin 1024) = false := by decide +kernel
theorem wit_namespace_off : (namespaced 1).Open .host 17 (nvfOff (NvfNs.adr (3 : Fin 1024))) ((namespaced 1).rwlDiffers (NvfNs.adr (3 : Fin 1024)) ((namespaced 0).rd (NvfNs.adr 3))) false ∧
    (((namespaced 1).rd (NvfNs.adr (3 : Fin 1024)) ^^^ (namespaced 0).rd (NvfNs.adr 3)) &&& fieldMask (fun f _ => f.acc == .rwl) (NvfNs.adr (3 : Fin 1024)) &&& 0x7FFFFFFF#32 = 0) ∧
    ((namespaced 0).rd (NvfNs.adr 3)).getLsbD 31 = false ∧ (namespaced 1).actB (NvfNs.adr (3 : Fin 1024)) NvfNs.enable = true ∧ (namespaced 1).nsInUse (3 : Fin 1024) = false ∧
    offence (fun _ => false) (((namespaced 1).awake .host 17).recBad ((namespaced 1).awake .host 17).inForce) ((nsWritten 1 ((namespaced 0).rd (NvfNs.adr 3))).recBad (nsWritten 1 ((namespaced 0).rd (NvfNs.adr 3))).inForce) = none ∧
    7 ∈ nsExtents (namespaced 1).inForce 3 := by decide +kernel
/-- The block target has four notices, and none of them is done. -/
def noticed : State := ((namespaced 1).set NvfTarget.adr NvfTarget.head 4).set NvfTarget.adr NvfTarget.sizeLog2 3
theorem wit_target : noticed.Open .host 17 0x110C (noticed.rwlDiffers (NvfTarget.adr + 0xC) (BitVec.ofNat 32 (2#16).toNat)) false ∧
    noticed.Open .host 17 0x110C (noticed.rwlDiffers (NvfTarget.adr + 0xC) (BitVec.ofNat 32 (5#16).toNat)) false ∧ (2#16).toNat < 2 * noticed.targetN ∧
    qDist (2 * noticed.targetN) (noticed.get NvfTarget.adr NvfTarget.done) (2#16).toNat ≤ qDist (2 * noticed.targetN) (noticed.get NvfTarget.adr NvfTarget.done) (noticed.get NvfTarget.adr NvfTarget.head) ∧
    qDist (2 * noticed.targetN) (noticed.get NvfTarget.adr NvfTarget.done) (noticed.get NvfTarget.adr NvfTarget.head) < qDist (2 * noticed.targetN) (noticed.get NvfTarget.adr NvfTarget.done) (5#16).toNat := by decide +kernel
/-- A publish of rope 2 that waits to be recorded in namespace 3. -/
def publishing (on : Nat) : State :=
  let s1 := (((namespaced on).set (NvfRec.adr 2) NvfRec.ns 3).set (NvfRec.adr 2) NvfRec.slots 4).set (NvfRec.adr 2) NvfRec.enable 1
  { s1 with nvf := { s1.nvf with recDue := [{ rope := 2, cycle := 9, stamp := 0, mode := 2, missing := 0, lost := 0 }] } }
/-- A cycle of rope `r` that waits, published at `stamp`. -/
def waitingRec (r stamp : Nat) : NvRec := { rope := r, cycle := 9, stamp := stamp, mode := 2, missing := 0, lost := 0 }
theorem wit_record : (publishing 1).recNext = some (waitingRec 2 0) ∧ (waitingRec 2 0).rope = (2 : Fin 16).val ∧ (waitingRec 2 0).rope ≠ (3 : Fin 16).val ∧ (namespaced 1).nvf.recDue = [] ∧
    (publishing 1).nvf.recDue = waitingRec 2 0 :: [] ∧
    (publishing 1).ready 17 = true ∧ (publishing 1).actB (NvfNs.adr ((publishing 1).act (NvfRec.adr 2) NvfRec.ns)) NvfNs.enable = true ∧ (publishing 1).nvf.locks = [] ∧
    (∀ e ∈ nsExtents (publishing 1).inForce ((publishing 1).act (NvfRec.adr 2) NvfRec.ns), (publishing 1).connIsOpen (fieldOf (publishing 1).inForce (NvfExt.adr e) NvfExt.conn) = true) ∧
    (publishing 0).actB (NvfNs.adr ((publishing 0).act (NvfRec.adr 2) NvfRec.ns)) NvfNs.enable = false := by decide +kernel
/-- Cycles of ropes 5 and 3 that published at one instant, and one of rope 2 after them: rope 3 is first. -/
theorem wit_recNext : ({ namespaced 1 with nvf := { (namespaced 1).nvf with recDue := [waitingRec 5 8, waitingRec 3 8, waitingRec 2 9] } } : State).recNext = some (waitingRec 3 8) := by decide +kernel
/-- What the recorder of rope 2 does at a publish: nothing while it is not enabled, a wait, and a skip while a cycle of the rope waits. -/
def latchedRec (s : State) : State :=
  s.latchChecked 17 (boundaryMask fun x e => x == .publish && decide (NvfRec.adr 2 ≤ e) && decide (e < NvfRec.adr 2 + 0x80)) State.recBad
theorem wit_recPublish : (latchedRec (namespaced 1)).actB (NvfRec.adr 2) NvfRec.enable = false ∧ (latchedRec (publishing 1)).actB (NvfRec.adr 2) NvfRec.enable = true ∧
    (∃ y ∈ (latchedRec (publishing 1)).nvf.recDue, y.rope = 2) ∧
    (∀ y ∈ (latchedRec { publishing 1 with nvf := (namespaced 1).nvf }).nvf.recDue, y.rope ≠ 2) ∧
    (latchedRec { publishing 1 with nvf := (namespaced 1).nvf }).actB (NvfRec.adr 2) NvfRec.enable = true := by decide +kernel

/-! Hypotheses of IntegrityRequestsAndKeys. -/

/-- Request queue 5 of slice 3, or of firmware, runs with an entry of opcode `op`, and key slot 256 holds a key. -/
def requesting (op fw : Nat) (msgs : List LaneMsg) : State :=
  let s1 := ((ringing 4 5 1 1).set (IgeRq.adr 5) IgeRq.slice 3).set (IgeRq.adr 5) IgeRq.fw fw
  let s2 := (s1.putKey 768 1 0 0 (List.replicate 32 9)).modQ 4 5 fun x => { x with fetched := [(0, [BitVec.ofNat 8 op, 0, 0, 16, 0, 0, 0, 0, 8])], next := 1 }
  { s2 with ige := { s2.ige with msgs := msgs }, hif := { s2.hif with reads := outReads [(1, .integrity 5)] } }
/-- A message of the lane. -/
def message (op st : Nat) : LaneMsg := { q := 5, op := op, status := st, key := List.replicate 16 9, spoil := 0, entry := [BitVec.ofNat 8 op, 0, 0, 16] ++ List.replicate 60 0, data := [1, 2] }
theorem wit_igeDoor : (requesting 1 0 []).bound (3 : Fin 256) = true ∧ (requesting 1 0 []).actB (IgeRq.adr (bits (0x50001#32 : Word).toNat 21 16)) IgeRq.fw = false ∧
    (requesting 1 0 []).act (IgeRq.adr (bits (0x50001#32 : Word).toNat 21 16)) IgeRq.slice = (3 : Fin 256).val ∧ (requesting 1 0 []).Open .host 18 0x1004 true false ∧
    (requesting 1 1 []).actB (IgeRq.adr (bits (0x50001#32 : Word).toNat 21 16)) IgeRq.fw = true := by decide +kernel
/-- The same with slice 3 on PF3. -/
def requestingPf3 : State := (requesting 1 0 []).set (HifSlice.adr 3) HifSlice.pf 3
theorem wit_igeDoor_slice : requestingPf3.bound (3 : Fin 256) = true ∧ requestingPf3.slicePf (3 : Fin 256) = 3 ∧ requestingPf3.halted = false ∧
    requestingPf3.actB (IgeRq.adr (bits (0x50001#32 : Word).toNat 21 16)) IgeRq.fw = false ∧
    requestingPf3.act (IgeRq.adr (bits (0x50001#32 : Word).toNat 21 16)) IgeRq.slice = (3 : Fin 256).val ∧ (requesting 1 0 []).slicePf (3 : Fin 256) ≠ 3 := by decide +kernel
theorem wit_lane : (((requesting 1 0 []).qst qkIR 5).fetched).drop ((requesting 1 0 []).laneOf 5).length = [(0, [1, 0, 0, 16, 0, 0, 0, 0, 8])] ∧ (requesting 1 0 []).qState qkIR 5 = qsRUNNING ∧
    (requesting 1 0 []).ready 18 = true ∧ (requesting 1 0 []).qVia qkIR 5 = some (1, some 9) ∧
    leAt [1, 0, 0, 16, 0, 0, 0, 0, 8] 8 4 ≠ 0 ∧ 0 < (requesting 1 0 []).readsOf (.integrity 5) ∧ (requesting 1 0 []).qFrozen qkIR 5 = false ∧ leAt [1, 0, 0, 16] 8 4 = 0 ∧
    (requesting 1 0 []).keyState ((requesting 1 0 []).rqSlot 5 [1, 0, 0, 16, 0, 0, 0, 0, 8]) = 1 ∧ (requesting 1 0 []).keyState ((requesting 1 0 []).rqSlot 5 [1, 0, 0, 16, 1, 0, 0, 0, 8]) = 0 ∧
    ((requesting 1 0 []).set (HifSlice.adr 3) HifSlice.state slFROZEN).qFrozen qkIR 5 = true ∧ (ringing 4 5 1 1).readsOf (.integrity 5) = 0 ∧
    (requesting 1 0 [message 1 0]).laneOf (5 : Fin 64) = [message 1 0] := by decide +kernel
theorem wit_keyCmd : (requesting 1 0 []).Open .host 18 0x1100 true false ∧ (requesting 1 0 []).igeOn = true ∧ (requesting 1 0 []).keyInUse ((requesting 1 0 []).act IgeCmdSlot.adr IgeCmdSlot.slot) = false ∧
    ((requesting 1 0 []).set (IgeTxsa.adr 2 0) IgeTxsa.enable 1).keyInUse 0 = true ∧ (requesting 1 0 []).boot.dukReg = none ∧
    ((requesting 1 0 []).modBoot fun b => { b with dukReg := some [1] }).boot.dukReg = some [1] := by decide +kernel
/-- An entry for slot 4 of the share. -/
def keyBytesOf (op : Nat) : List Byte := scBytes op [4, 0, 0, 0]
/-- Slice 3 on PF3, whose argument has entered; its key slot is DERIVED or not. -/
def keying (st : Nat) : State :=
  let s := arguing 3 (controls 3 (keyBytesOf 0x60))
  s.set (IgeKey.adr ((s.share .key 3).1 + 4)) IgeKey.state st
theorem wit_keySlice : (keying 0).slicePf 3 = 3 ∧ leAt (keyBytesOf 0x60) 8 2 % 4096 < (((keying 0).argIn 3).share .key 3).2 ∧
    (keying 0).reading 3 (.arg 3) = true ∧ ((keying 0).argIn 3).qVia qkSC 3 = some (3, some 9) ∧ ((keying 0).argIn 3).issues 3 = true ∧
    (keying 0).scEntry 3 0x60 = some (keyBytesOf 0x60) ∧ ((keying 0).argIn 3).keyInUse ((((keying 0).argIn 3).share .key 3).1 + 4) = false ∧
    ((keying 0).argIn 3).keyState ((((keying 0).argIn 3).share .key 3).1 + 4) ≠ 2 ∧
    ((keying 2).argIn 3).keyState ((((keying 2).argIn 3).share .key 3).1 + 4) = 2 := by decide +kernel

/-! Hypotheses of MembersRotateAndAreTested. -/

/-- The service controller runs, with the reserves of kind `k` as given. -/
def rotating (k reserves : Nat) : State :=
  let s1 := ((up.set (SvcKind.adr k) SvcKind.reserveMap reserves).set SvcRotCtrl.adr SvcRotCtrl.enable 0x1FF).set BootRunning.adr BootRunning.core 15
  { s1 with boot := { s1.boot with perst := true } }
theorem wit_due : (rotating 2 256).svcOn = true ∧ (rotating 2 256).bootStep = 0xFF ∧ bit ((rotating 2 256).act SvcRotCtrl.adr SvcRotCtrl.enable) (2 : Fin 9) = true ∧
    (rotating 2 256).mayRotate (2 : Fin 9) (3 : Fin 26) = true ∧ ((rotating 2 256).rotate 2 3).2 = .yes ∧ bit ((rotating 2 256).reserves 2) 8 = true ∧
    bit ((rotating 2 256).reserves 2) 3 = false ∧ (rotating 2 256).freeReserve 2 = some 8 ∧ (rotating 2 0).freeReserve 2 = none ∧
    ((rotating 2 256).kind 2).duty.contains 3 = true ∧ (rotating 0 (2 ^ 24)).freeReserve 0 = some 24 ∧ (rotating 6 65536).freeReserve 6 = some 16 ∧
    ((rotating 6 65536).kind 6).duty.contains 3 = true ∧ ((rotating 1 16).kind 1).duty.findIdx? (· == 1) = some 1 ∧ (rotating 1 16).placePause 1 (rotating 1 16).lineNs = some 0 := by decide +kernel
/-- The test of member `m` of kind `k` has been cut short. -/
def cutShort (k reserves m : Nat) : State := (rotating k reserves).modKind k fun x => { x with cut := [m] }
theorem wit_cut : ((cutShort 2 256 3).kind 2).cut.contains 3 = true ∧ (cutShort 2 256 8).freeReserve 2 = none ∧ (cutShort 2 768 8).freeReserve 2 = some 9 ∧
    ((rotating 2 256).kind 2).cut.contains 3 = false ∧ (rotating 4 256).freeReserve rkTCAM = some 8 ∧ ((rotating 4 256).kind rkTCAM).duty.findIdx? (· == 3) = some 3 ∧
    (rotating 4 256).blockUsed 3 = false ∧
    (((rotating 4 256).set (TcmPart.adr 0) TcmPart.enable 1).set (TcmPart.adr 0) TcmPart.blocks 4).blockUsed 3 = true := by decide +kernel
/-- Rope 0's boundaries leave no room for a pause of role 0: its launches and deadlines lie closer than 38 us. -/
def crowdedRopes : State := { roped with boot := { up.boot with perst := true } }
theorem wit_crowded : crowdedRopes.placePause 0 crowdedRopes.lineNs = none ∧ (crowdedRopes.rotate 1 0).2 = .notPlaceable ∧ crowdedRopes.mayRotate 1 0 = true := by decide +kernel
theorem wit_rotateNow : (rotating 2 256).Open .host 23 0x100C true false ∧ (rotating 2 256).getB SvcCmd.adr SvcCmd.busy = false ∧
    (((rotating 2 256).awake .host 23).set SvcCmd.adr SvcCmd.kind 2).get (SvcKind.adr 2) SvcKind.state = rsIDLE ∧
    (membersOf (rotating 2 256).scale 2).contains 9 = false ∧ ((rotating 2 256).set (SvcKind.adr 2) SvcKind.state 4).get (SvcKind.adr 2) SvcKind.state = rsNO_RESERVE ∧
    ((rotating 2 256).set (SvcKind.adr 2) SvcKind.state 3).get (SvcKind.adr 2) SvcKind.state = rsTESTING := by decide +kernel
/-- Core 3 is due, the pause of role 1 is placed or begun, and kind 2 and 6 have a test and a copy. -/
def handing (begun retire : Bool) : State :=
  let s1 := (rotating 2 256).modKind 2 fun x => { x with testing := some 3 }
  let s2 := s1.modKind 6 fun x => { x with copy := some ⟨3, 16, retire⟩ }
  { s2 with svc := { s2.svc with dueCore := some 3, pause := some ⟨1, 0, begun⟩ } }
theorem wit_handing : (handing false false).svc.kinds.length = 9 ∧ ((handing false false).kind 2).testing = some 3 ∧ (handing false false).svc.dueCore = some (3 : Fin 26).val ∧ 0 < (handing false false).svc.kinds.length ∧ (handing false false).svc.dueCore ≠ some (4 : Fin 26).val ∧
    (handing false false).svc.pause = some ⟨1, 0, false⟩ ∧ (0 : Nat) ≤ (handing false false).lineNs + 40 ∧ (handing true false).freeReserve rkPIPELINE = some 4 ∧
    ((handing false false).kind (2 : Fin 9)).testing = some 3 ∧ ((handing false true).kind (6 : Fin 9)).copy = some ⟨3, 16, true⟩ := by decide +kernel

/-! Hypotheses of ScrubRetirementAndReplacement. -/

theorem wit_scrub : rkGENERAL ≤ (6 : Fin 9).val ∧ (rotating 6 65536).retired (6 : Fin 9) (3 : Fin 17) = false ∧ (rotating 6 65536).asleep = false ∧ (rotating 6 65536).dark 23 = false ∧
    ((rotating 6 65536).set (SvcKind.adr 6) SvcKind.retiredMap 8).retired (6 : Fin 9) (3 : Fin 17) = true ∧ bit ((rotating 6 65536).get (SvcKind.adr 6) SvcKind.ceSeen) 3 = false ∧
    bit (((rotating 6 65536).set (SvcKind.adr 6) SvcKind.ceSeen 8).get (SvcKind.adr 6) SvcKind.ceSeen) 3 = true ∧ ((rotating 6 65536).kind 6).copy = none ∧
    ((rotating 6 65536).kind 6).duty.findIdx? (· == 3) = some 3 ∧ ((rotating 6 65536).kind 6).duty.contains 16 = false ∧ ((rotating 6 65536).kind 6).testing ≠ some 16 ∧
    (rotating 6 0).freeReserve 6 = none ∧ ((handing false true).kind 6).copy = some ⟨3, 16, true⟩ ∧ (handing false true).retired 6 3 = false ∧
    (handing false true).retired 6 4 = false ∧ ((handing false true).kind 6).duty.findIdx? (· == 4) = some 4 ∧ ((handing false false).kind 6).copy = some ⟨3, 16, false⟩ := by decide +kernel
/-- Firmware serves, and a replacement stands where `r` says. -/
def replaced (fw : Bool) (r : Option (Nat × Nat)) : State :=
  { rotating 0 (2 ^ 24) with boot := { up.boot with perst := true, fw := if fw then some (1, 0, 0, 0) else none, newFw := some (2, 0, 0, 0), replacing := r } }
theorem wit_replace : (replaced true none).Open .host 23 0x100C true false ∧ (replaced true none).getB SvcCmd.adr SvcCmd.busy = false ∧
    ((replaced true none).set SvcCmd.adr SvcCmd.busy 1).getB SvcCmd.adr SvcCmd.busy = true ∧ (replaced true none).get SvcCmd.adr SvcCmd.kind ≤ 8 ∧
    (replaced true none).svc.dueCore = none ∧ (handing false false).svc.dueCore ≠ none ∧ (replaced true none).freeReserve rkCORE ≠ none ∧ (rotating 0 0).freeReserve rkCORE = none ∧
    (replaced true none).boot.fw ≠ none ∧ (replaced false none).boot.fw = none ∧ (replaced true (some (10, 5))).boot.replacing = some (10, 5) ∧ (5 : Nat) ≠ svOK ∧
    (replaced true (some (10, svOK))).boot.replacing = some (10, svOK) ∧ (replaced true (some (10, svOK))).boot.newFw = some (2, 0, 0, 0) ∧
    bit ((replaced true none).get BootRunning.adr BootRunning.core) (3 : Fin 26) = true ∧ bit ((replaced true none).get BootRunning.adr BootRunning.core) (4 : Fin 26) = false := by decide +kernel

/-! Hypotheses of NaonantRequestsAreAnswered. -/

/-- The management side leads. -/
def sided : State := { (up.set SysLead.adr SysLead.holder 2) with boot := { up.boot with perst := true } }
/-- The device is halted, its keys locked, or it is in Bivouac. -/
def haltedSide : State := { (up.set BootStatus.adr BootStatus.haltCode 3) with boot := { up.boot with perst := true } }
def lockedSide : State := { (up.set SysTrust.adr SysTrust.keysLocked 1) with boot := { up.boot with perst := true } }
def sleepingSide : State := { (up.set PwrStatus.adr PwrStatus.state 3) with boot := { up.boot with perst := true } }
/-- The staging area is open to the management side. -/
def stagingSide : State := { (sided.set CfgStatus.adr CfgStatus.phase 3) with boot := { sided.boot with hdr := some (parseHdr header) } }
theorem wit_naonant : sided.mgtUp = true ∧ accessOk (3#8).toNat (8#8).toNat (0x1000#32).toNat = true ∧ accessOk (40#8).toNat (4#8).toNat (0#32).toNat = false ∧
    ((sided.heard (2#4, 5#8)).dark (3#8).toNat = false) ∧ 24 ≤ (25#8).toNat ∧ (sleepingSide.heard (2#4, 5#8)).dark (4#8).toNat = true ∧ sleepingSide.mgtUp = true ∧
    (haltedSide.heard (2#4, 5#8)).halted = true ∧ haltedSide.mgtUp = true ∧ (sided.heard (2#4, 5#8)).halted = false ∧
    sided.leads .management = true ∧ (sided.heard (2#4, 5#8)).leads .management = true ∧ sleepingSide.leads .management = false ∧ (sleepingSide.heard (2#4, 5#8)).leads .management = false := by decide +kernel
theorem wit_pair : pairBase (3 * 0x100000 + 0x1018) = some (3 * 0x100000 + 0x1018) ∧ pairBase (3 * 0x100000 + (0x1018 + 4)) = some (3 * 0x100000 + 0x1018) := by decide +kernel
theorem wit_stageWrite : ((stagingSide.heard (2#4, 5#8)).stageAddr .management 0).2 = .ok ∧ ((lockedSide.heard (2#4, 5#8)).stageAddr .management 0).2 = .notLead ∧ lockedSide.mgtUp = true ∧
    (stagingSide.stageData .management 7).2 = .outOfArea ∧ (sided.stageData .management 7).2 ≠ .ok := by decide +kernel
theorem wit_attest : (lockedSide.heard (2#4, 5#8)).getB SysTrust.adr SysTrust.keysLocked = true ∧ (sided.heard (2#4, 5#8)).getB SysTrust.adr SysTrust.keysLocked = false ∧
    (sided.heard (2#4, 5#8)).asleep = false ∧ (sided.heard (2#4, 5#8)).boot.replacing = none ∧ (sided.heard (2#4, 5#8)).bootStep = 0xFF ∧
    (sleepingSide.heard (2#4, 5#8)).asleep = true ∧ (sleepingSide.heard (2#4, 5#8)).halted = false ∧ (haltedSide.heard (2#4, 5#8)).getB SysTrust.adr SysTrust.keysLocked = false := by decide +kernel

/-! Hypotheses of LeadPassesByCommandAndLapse. -/

/-- An event waits for the management side, whose endpoint is `eid`; it has been tried as `tried` says. -/
def waitingEvent (eid : Nat) (tried : Bool) (n : Nat) : State :=
  let s1 := ((sided.set MgtStatus.adr MgtStatus.eid eid).set MgtEvents.adr MgtEvents.enable 1).set MgtEvents.adr MgtEvents.retries 3
  { s1 with staged := [⟨2, 0#32, 0#32, true, some 0⟩], mgt := { s1.mgt with tried := tried, retries := n } }
/-- Nobody leads. -/
def leaderless : State := sided.set SysLead.adr SysLead.holder 0
theorem wit_lead : leaderless.holder = ldNONE ∧ sided.holder = ldMANAGEMENT ∧ sided.holder ≠ ldHOST ∧ sided.holder ≠ ldNONE ∧ haltedSide.holder = ldHOST ∧ leaderless.mgtUp = true ∧
    sided.Open .host 0 0x1208 false false ∧ sided.Open .management 0 0x1208 false false ∧ sided.mgtUp = true := by decide +kernel
theorem wit_event : (waitingEvent 9 false 0).mgtUp = true ∧ (waitingEvent 9 false 0).mgtHead = some (⟨2, 0#32, 0#32, true, some 0⟩, 0) ∧ (waitingEvent 9 false 0).get MgtStatus.adr MgtStatus.eid ≠ 0 ∧
    (waitingEvent 9 false 0).act MgtEvents.adr MgtEvents.enable ≠ 0 ∧ (waitingEvent 0 false 0).get MgtStatus.adr MgtStatus.eid = 0 ∧
    (waitingEvent 9 true 1).mgt.retries + 1 < (waitingEvent 9 true 1).act MgtEvents.adr MgtEvents.retries ∧ (waitingEvent 9 true 2).mgt.retries + 1 = (waitingEvent 9 true 2).act MgtEvents.adr MgtEvents.retries := by decide +kernel

/-! Hypotheses of MctpPldmAndSpdmAreServed. -/

/-- An update of 300 bytes in the state `st`, with `o` bytes pulled. -/
def updating (st o : Nat) : State :=
  { (sided.set CfgStatus.adr CfgStatus.phase 3) with
    boot := { sided.boot with hdr := some { parseHdr header with stage := 0x40000, stageSize := 0x20000 } }
    mgt := { sided.mgt with pldm := ⟨st, 0, 1, 300, o⟩ } }
theorem wit_update : (updating fdDOWNLOAD 0).fdRuns fdDOWNLOAD = true ∧ (updating fdDOWNLOAD 0).getB CfgStageCmd.adr CfgStageCmd.busy = false ∧ ([1#8] : List Byte) ≠ [] ∧
    ([1#8] : List Byte).length ≤ (updating fdDOWNLOAD 0).mgt.pldm.size - (updating fdDOWNLOAD 0).mgt.pldm.offset ∧ (updating fdDOWNLOAD 300).fdRuns fdDOWNLOAD = true ∧
    (updating fdDOWNLOAD 300).mgt.pldm.size ≤ (updating fdDOWNLOAD 300).mgt.pldm.offset ∧ (updating fdVERIFY 300).fdRuns fdVERIFY = true ∧ (updating fdAPPLY 300).fdRuns fdAPPLY = true ∧
    (updating fdREADY 0).mgt.pldm.state = fdREADY ∧ (300#32).toNat ≤ (updating fdREADY 0).stageArea.2 ∧ (updating fdREADY 0).stageArea.2 < (0x20001#32).toNat ∧ (updating fdLEARN 0).mgt.pldm.state = fdLEARN ∧
    (updating fdLEARN 0).mgt.pldm.state ≠ fdIDLE ∧ sided.mgt.pldm.state = fdIDLE ∧ sided.asleep = false ∧ sided.dark 2 = false ∧ sleepingSide.asleep = true ∧ sleepingSide.mgtUp = true := by decide +kernel
theorem wit_verify_fails : ∃ h, (updating fdVERIFY 300).boot.hdr = some h ∧ [0x10, 0x11, 0x17].contains ((updating fdVERIFY 300).installFault h [] []) = true := ⟨_, rfl, by decide +kernel⟩
theorem wit_spdm : lockedSide.getB SysTrust.adr SysTrust.keysLocked = true ∧ lockedSide.mgtUp = true ∧ sided.getB SysTrust.adr SysTrust.keysLocked = false ∧ sided.halted = false ∧
    sided.boot.replacing = none ∧ sided.bootStep = 0xFF := by decide +kernel
/-- A sound envelope of a firmware image of 264 bytes, and a device that verifies it. -/
def soundEnvelope : List Byte :=
  let b := [1#8, 0#8, 0#8, 0#8] ++ leBytes 4 264 ++ leBytes 4 0 ++ List.replicate 96 0#8
  leBytes 4 0 ++ b ++ leBytes 4 (crc32 b)
def verifying : State :=
  let s := ((withImages 7).set SysLead.adr SysLead.holder 2).set CfgStatus.adr CfgStatus.phase 3
  { s with mgt := { s.mgt with pldm := ⟨fdVERIFY, fdDOWNLOAD, 1, 264, 264⟩ } }
theorem wit_verifies : verifying.fdRuns fdVERIFY = true ∧
    ∃ h, verifying.boot.hdr = some h ∧ [0x10, 0x11, 0x17].contains (verifying.installFault h soundEnvelope fwImage) = false := ⟨by decide +kernel, _, rfl, by decide +kernel⟩

/-! Hypotheses of PortLinksAndTheTap. -/

/-- Drive port 2 runs with auto-negotiation as a USXGMII or 1000BASE-X port, and breakout port 16 runs; both hold lock. -/
def linking (ty : Nat) (done : Bool) : State :=
  let s1 := (((up.set (Dpx.adr 2) Dpx.enable 1).set (Dpx.adr 2) Dpx.an 1).set (Dpx.adr 2) Dpx.ptype ty).set (Fpx.adr 0) Fpx.enable 1
  let s2 := s1.set (Dpx.adr 2) Dpx.anDone (if done then 1 else 0)
  { s2 with ports := { s2.ports with lock := [(2, 0), (16, 0)] } }
theorem wit_ports : (linking 5 true).portOn (2 : Fin 25) = true ∧ (linking 5 true).locked (2 : Fin 25) = true ∧ (linking 5 true).anReady (2 : Fin 25) = true ∧
    (linking 5 true).linkUpAt 2 = false ∧ ((linking 5 true).set (Dpx.adr 2) Dpx.link 1).linkUpAt 2 = true ∧ (linking 5 true).portOn (16 : Fin 25) = true ∧
    (linking 5 true).locked (16 : Fin 25) = true ∧ (linking 5 true).linkUpAt 16 = false ∧ ((linking 5 true).set (Fpx.adr 0) Fpx.link 1).linkUpAt 16 = true ∧
    ({ linking 5 true with ports := { (linking 5 true).ports with lock := [] } } : State).locked (2 : Fin 25) = false ∧
    (linking 5 false).portOn (2 : Fin 16) = true ∧ (linking 5 false).actB (Dpx.adr (2 : Fin 16)) Dpx.an = true ∧ (linking 5 false).act (Dpx.adr (2 : Fin 16)) Dpx.ptype = 5 ∧
    (linking 0 false).act (Dpx.adr (2 : Fin 16)) Dpx.ptype ≠ 5 ∧ up.pwr.off = false ∧ ({ up with pwr := { up.pwr with off := true } } : State).pwr.off = true := by decide +kernel

/-! Hypotheses of MacsecProtectsAndChecks. -/

/-- MACsec runs on port 0 with transmit SA 0 at the PN `pn` and receive SA 0 of channel 0 enabled, under the key of slot 0. -/
def guarding (pn validate : Nat) : State :=
  let a := IgeMsecPort.adr 0
  let s1 := ((up.set a IgeMsecPort.enable 1).set a IgeMsecPort.validate validate).set (IgeTxsa.adr 0 0) IgeTxsa.currentPn pn
  let s2 := ((s1.set (IgeRxsc.adr 0 0) IgeRxsc.enable 1).set (IgeRxsa.adr 0 0 0) IgeTxsa.enable 1).set (IgeRxsa.adr 0 0 0) IgeTxsa.currentPn 5
  s2.putKey 0 1 0 0 (List.replicate 16 7)
/-- A frame with a SecTAG without an SCI, of the PN given. -/
def tagged (pn : Nat) : List Byte := List.replicate 12 0#8 ++ beBytes 2 0x88E5 ++ [0#8, 0#8] ++ beBytes 4 pn ++ List.replicate 2 0#8
theorem wit_guard : (guarding 7 2).msecOn 0 = true ∧ up.msecOn 0 = false ∧ (guarding (2 ^ 32 - 1) 2).pnLimit 0 ≤ (guarding (2 ^ 32 - 1) 2).get (IgeTxsa.adr 0 0) IgeTxsa.currentPn ∧
    (guarding 7 2).get (IgeTxsa.adr 0 0) IgeTxsa.currentPn < (guarding 7 2).pnLimit 0 ∧ beAt (tagged 9) 12 2 = 0x88E5 ∧ bit (beAt (tagged 9) 14 1) 3 = false ∧ bit (beAt (tagged 9) 14 1) 5 = false ∧
    beAt ([] : List Byte) 12 2 ≠ 0x888E ∧ beAt ([] : List Byte) 12 2 ≠ 0x88E5 ∧ (guarding 7 2).rxSc 0 none = some 0 ∧ (guarding 7 2).rxSa 0 0 0 = some (IgeRxsa.adr 0 0 0) ∧ up.rxSc 0 none = none ∧
    (guarding 7 2).rxSa 0 0 1 = none ∧ (guarding 7 0).act (IgeMsecPort.adr 0) IgeMsecPort.validate = 0 ∧ (guarding 7 1).act (IgeMsecPort.adr 0) IgeMsecPort.validate = 1 ∧
    (guarding 7 2).act (IgeMsecPort.adr 0) IgeMsecPort.validate = 2 ∧ (guarding 7 2).actB (IgeMsecPort.adr 0) IgeMsecPort.replayProtect = true ∧
    (guarding 7 2).keyState 0 ≠ 0 ∧ (guarding 7 2).ige.badKeys.contains 0 = false ∧ ((guarding 7 2).spoilKey 0 true).ige.badKeys.contains 0 = true ∧
    beAt (tagged 9) 12 2 ≠ 0x888E ∧ (up.keyMet 0).keyState 0 = 0 ∧
    recoverPn ((guarding 7 2).msecXpn 0) 5 (beAt (tagged 3) 16 4) < 5 ∧ 5 ≤ recoverPn ((guarding 7 2).msecXpn 0) 5 (beAt (tagged 9) 16 4) := by decide +kernel
/-- The frame `tagged pn` with the ICV that the receive SA of `guarding` gives it. -/
def sealedFrame (pn : Nat) : List Byte :=
  let s := guarding 7 2
  tagged pn ++ (aesGmac (s.keyOf (s.act (IgeRxsa.adr 0 0 0) IgeTxsa.keySlot)) (s.msecIv 0 (IgeRxsa.adr 0 0 0) (s.act (IgeRxsc.adr 0 0) IgeRxsc.sci) pn) (tagged pn)).take 16
theorem wit_good : (let s := guarding 7 2; let f := sealedFrame 9; let n := f.length - 16;
    beAt f 15 1 % 64 == 0 && (aesGmac (s.keyOf (s.act (IgeRxsa.adr 0 0 0) IgeTxsa.keySlot)) (s.msecIv 0 (IgeRxsa.adr 0 0 0) (s.act (IgeRxsc.adr 0 0) IgeRxsc.sci) 9) (f.take n)).take 16 == (f.drop n).take 16) = true := by decide +kernel
theorem wit_bad : (let s := guarding 7 2; let f := tagged 9; let n := f.length - 16;
    (aesGmac (s.keyOf (s.act (IgeRxsa.adr 0 0 0) IgeTxsa.keySlot)) (s.msecIv 0 (IgeRxsa.adr 0 0 0) (s.act (IgeRxsc.adr 0 0) IgeRxsc.sci) 9) (f.take n)).take 16 == (f.drop n).take 16) = false := by decide +kernel
/-- The frame of two data bytes with SL 2, whose ICV stands after them and before the padding. -/
def paddedFrame (pn : Nat) : List Byte :=
  let s := guarding 7 2
  let f := (tagged pn).set 15 2
  f ++ (aesGmac (s.keyOf (s.act (IgeRxsa.adr 0 0 0) IgeTxsa.keySlot)) (s.msecIv 0 (IgeRxsa.adr 0 0 0) (s.act (IgeRxsc.adr 0 0) IgeRxsc.sci) pn) f).take 16
    ++ List.replicate 22 0#8
theorem wit_goodPadded : (let s := guarding 7 2; let f := paddedFrame 9; let n := 12 + 8 + beAt f 15 1 % 64;
    beAt f 15 1 % 64 == 2 && (aesGmac (s.keyOf (s.act (IgeRxsa.adr 0 0 0) IgeTxsa.keySlot)) (s.msecIv 0 (IgeRxsa.adr 0 0 0) (s.act (IgeRxsc.adr 0 0) IgeRxsc.sci) 9) (f.take n)).take 16 == (f.drop n).take 16) = true := by decide +kernel

/-! ## Hypotheses of the clauses on instants, handovers, idle clocks, answers, deregisters, fetched commands and due times -/

theorem wit_unarmed : up.mgtUp = true ∧ up.Unarmed ∧ up.time.waiting = [] ∧ up.nowInc ≠ 0 ∧ up.svc.pause = none ∧ up.svc.dueCore = none := by decide +kernel
/-- A TCAM copy of service unit 5, in the state of U12 given by `d`: resets of units 12 and 23 wait. -/
def handing12 (d : List DueReset) : State :=
  let s1 := up.modKind rkTCAM fun x => { x with copy := some { member := 0, reserve := 3, retire := false } }
  { s1 with svc := { s1.svc with resetDue := d } }
theorem wit_handsOver : (handing12 []).Open .host (12 : Fin 24) 0x18 true false ∧ neverHeld (12 : Fin 24) = false ∧ (handing12 []).handsOver 12 = true ∧
    up.handsOver 23 = false ∧ up.svc.resetDue = [] ∧ (handing12 [⟨12, false, false, true⟩]).svc.resetDue = [⟨12, false, false, true⟩] ∧
    (handing12 [⟨12, false, false, true⟩]).handsOver 12 = true ∧ (handing12 [⟨23, false, false, true⟩]).svc.resetDue = [⟨23, false, false, true⟩] ∧
    (handing12 [⟨23, false, false, true⟩]).handsOver 23 = false := by decide +kernel
/-- The pipeline of role 1 is paused, and its unit is held or starts again. -/
def pausedRole (st cause : Nat) : State :=
  let s1 := (up.set (Hdr.adr 7) Hdr.state st).set (Hdr.adr 7) Hdr.cause cause
  { s1 with pp := { s1.pp with paused := [1] } }
theorem wit_serviceHolds : (pausedRole 1 4).Open .host (7 : Fin 24) 0x18 true false ∧ (pausedRole 1 4).ustate 7 = stSTARTING ∧ (pausedRole 1 4).ucause 7 = caUNIT_RESET ∧
    (pausedRole 1 4).prereqsReady 7 = true ∧ (pausedRole 1 4).getB (Hdr.adr 7) Hdr.hold = false ∧ (pausedRole 1 4).serviceHolds 7 = true ∧
    (pausedRole 3 0x21).Open .host (7 : Fin 24) 0x18 true false ∧ (pausedRole 3 0x21).ustate 7 = stHELD ∧ (pausedRole 3 0x21).ucause 7 = caHOLD_LEAD ∧
    (pausedRole 3 0x21).serviceHolds 7 = true ∧ (unitIn 1 4).serviceHolds 11 = false ∧ (unitIn 3 0x21).serviceHolds 11 = false := by decide +kernel
/-- The device in Bivouac. -/
def bivouacked : State := up.set PwrStatus.adr PwrStatus.state 3
theorem wit_hostCut : bivouacked.hostCut .host = true ∧ bivouacked.hostCut .management = false ∧ up.hostCut .host = false ∧ up.hostCut (.slice 3) = false ∧
    TuPrestart.adr % 4 = 0 ∧ TuPrestart.adr < 0x1800000 ∧ bivouacked.nowhere TuPrestart.adr = false ∧ pairBase TuPrestart.adr = none ∧
    (bivouacked.ownWrite (bivouacked.side .host TuPrestart.adr) TuPrestart.adr 1 (7#32 : Word).toNat).isNone = true := by decide +kernel
theorem wit_stationCount : 4095 < up.stationCount ∧ stnF roped.inForce 5 CxeStn.rope = 0 ∧ ((roped.set (CxeStn.adr 4095) CxeStn.rope 3).inForce |> fun rd => stnF rd 4095 CxeStn.rope) ≠ 0 := by decide +kernel
/-- A frame of rope 0 waits for its comparator at 20930 ns. -/
def waiter : CFrame := { cframe with waiting := true }
theorem wit_launchTick : (withFrames [waiter]).time.armed = [(1, 0, 20930)] ∧ (withFrames [waiter]).driveOn 1 = true ∧ (withFrames [waiter]).lineNs ≤ 20930 ∧
    (withFrames [waiter]).cxe.frames.find? (fun f => f.port == 1 && f.rope == 0 && !f.left && f.waiting) = some waiter ∧
    20930 < (atLine (withFrames [waiter]) 20940).lineNs ∧ (atLine (withFrames [waiter]) 20940).cxe.frames.find? (fun f => f.port == 1 && f.rope == 0 && !f.left && f.waiting) = some waiter ∧
    (atLine (withFrames [waiter]) 20800).lineNs + 40 < 20930 ∧
    (1, 0, 20930) ∈ (withFrames [waiter]).time.armed ∧ (withFrames [waiter]).waitingAt 1 0 = some waiter := by decide +kernel
/-- Rope 0's deadline of the cycle of 20 us comes at 24 us; with `fs` in hand, a frame waits for an instant before it. -/
def deadlineAt (fs : List CFrame) : State :=
  let s1 := (gathering (laneFrame 2 none)).set (Dpx.adr 1) Dpx.enable 1
  ({ s1 with cxe := { s1.cxe with frames := fs } }).modTime fun t => { t with armed := [(1, 0, 20930)] }
theorem wit_launchWaits : (deadlineAt []).launchWaits 0 (((deadlineAt []).rope 0).boundary + ropeDeadline (deadlineAt []).inForce 0) = false ∧
    (deadlineAt [waiter]).launchWaits 0 (((deadlineAt [waiter]).rope 0).boundary + ropeDeadline (deadlineAt [waiter]).inForce 0) = true := by decide +kernel
/-- Frame `f` comes to template 3, whose station is on drive port 1 and rope 0, `on` or not. -/
def templated (f : LaneFrame) (cyc : Nat) (pri : Bool) : State :=
  let s1 := (gathering f).set (CxeStn.adr ((gathering f).tmplStation 3)) CxeStn.enable 1
  let s2 := ((s1.set (CxeStn.adr (s1.tmplStation 3)) CxeStn.port 1).set (CxeRope.adr 0) CxeRope.cycle cyc)
  s2.modStn (s2.tmplStation 3) fun x => { x with gather := { x.gather with donePri := pri } }
theorem wit_takeTemplate : stnOn (templated (laneFrame 2 (some 3)) 2 false).inForce ((templated (laneFrame 2 (some 3)) 2 false).tmplStation 3) = true ∧
    stnF (templated (laneFrame 2 (some 3)) 2 false).inForce ((templated (laneFrame 2 (some 3)) 2 false).tmplStation 3) CxeStn.rope = 0 ∧
    ({ laneFrame 2 (some 3) with at_ := 20799 } : LaneFrame).at_ < ((templated (laneFrame 2 (some 3)) 2 false).rope 0).boundary + ropeLaunch (templated (laneFrame 2 (some 3)) 2 false).inForce 1 0 ∧
    ((templated (laneFrame 2 (some 3)) 3 false).rope 0).gatherCycle ≠ (templated (laneFrame 2 (some 3)) 3 false).get (CxeRope.adr 0) CxeRope.cycle ∧
    stnF (templated (laneFrame 2 (some 3)) 2 false).inForce ((templated (laneFrame 2 (some 3)) 2 false).tmplStation 3) CxeStn.port ≠ ({ laneFrame 2 (some 3) with port := 2 } : LaneFrame).port ∧
    ((templated (laneFrame 2 (some 3)) 2 true).stn ((templated (laneFrame 2 (some 3)) 2 true).tmplStation 3)).gather.donePri = true := by decide +kernel
theorem wit_camBase : (up.camBase 3 != (0x7FFFF : BitVec 19).toNat) = true ∧ (up.camBase 3 != (0 : BitVec 19).toNat) = false ∧ (∀ a < 256, (a, 3) ∉ up.mpi.camErr) := by decide +kernel
/-- Axis 7 follows at a gap above its limit or below it. -/
def following (limit : Nat) : State := (up.set (MpiAxisState.adr 7) MpiAxisState.state 1).set (MpiAxis.adr 7) MpiAxis.feLimit limit
theorem wit_resync : (following 0).axisState 7 ≠ axHELD ∧ (following 0).axisState 7 ≠ axOFF ∧ up.axisState 7 = axOFF ∧
    axF ((following 0).set (MpiAxisState.adr 7) MpiAxisState.lastOut 5).inForce 7 MpiAxis.feLimit <
      ((following 0).set (MpiAxisState.adr 7) MpiAxisState.lastOut 5).axisGap 7 0 (((following 0).set (MpiAxisState.adr 7) MpiAxisState.lastOut 5).get (MpiAxisState.adr 7) MpiAxisState.lastOut) := by decide +kernel
theorem wit_groupStop : up.ropeMode 0 = rmOFF ∧ roped.ropeMode 0 ≠ rmOFF ∧ (up.modMpi fun m => { m with inHold := true }).mpi.inHold = true ∧ up.mpi.inHold = false := by decide +kernel
theorem wit_freezeOff : (sliced slBOUND).ropeMode 0 = rmOFF ∧ (owned 3 slFREEZING).ropeMode 0 ≠ rmOFF ∧ (owned 3 slFREEZING).ropeSlice 0 = 0 := by decide +kernel
/-- A header of a blob of 64 bytes, and one whose magic is wrong. -/
def blobHead (magic : Nat) : List Byte := leBytes 4 magic ++ List.replicate 12 0 ++ leBytes 8 64 ++ List.replicate 8 0
/-- Slice 3 restores from an area of 4,096 bytes; its header has entered, or not. -/
def restoringAt (l : List (Nat × Reader)) (rest : Bool) : State :=
  let s1 := (restoring l).set (HifSlice.adr 3) HifSlice.blobSize 4096
  { s1 with hif := { s1.hif with restoring := if rest then [3] else [] } }
theorem wit_restoreHead : (restoringAt [(1, .blob 3)] false).sliceState 3 = slRESTORING ∧
    (restoringAt [(1, .blob 3)] false).readsOf (.blob (3 : Fin 256)) = ((restoringAt [(1, .blob 3)] false).hif.reads.filter fun x => x.reader == .blob (3 : Fin 256)).length ∧
    (restoringAt [(1, .blob 3)] false).reading ((restoringAt [(1, .blob 3)] false).slicePf 3) (.blob (3 : Fin 256)) = true ∧
    (3 : Fin 256).val ∉ (restoringAt [(1, .blob 3)] false).hif.restoring ∧ (restoringAt [(1, .blob 3)] false).headOk 3 (blobHead blobMagic) = true ∧
    32 < leAt (blobHead blobMagic) 16 8 ∧ (restoringAt [(1, .blob 3)] false).headOk 3 (blobHead 0) = false ∧ leAt emptyBlob 16 8 ≤ 32 ∧
    (3 : Fin 256).val ∈ (restoringAt [(1, .blob 3)] true).hif.restoring := by decide +kernel
theorem wit_restoreEnds : (match ((restoringAt [(1, .blob 3)] false).readsEnd 1 (.blob 3)).restore 3 emptyBlob with | .ok _ => true | .error _ => false) = true ∧
    (match ((restoringAt [(1, .blob 3)] true).readsEnd 1 (.blob 3)).restore 3 (blobHead 0) with | .ok _ => false | .error st => decide (st < 256)) = true := by decide +kernel
theorem wit_restoreNone : restoreWaits.readsOf (.blob (3 : Fin 256)) ≠ (restoreWaits.hif.reads.filter fun x => x.reader == .blob (3 : Fin 256)).length ∧
    (restoring []).readsOf (.blob (3 : Fin 256)) = 0 ∧ (∀ x ∈ (restoring []).hif.reads, x.reader ≠ .blob (3 : Fin 256)) := by decide +kernel
theorem wit_wakeReq : (powered 3 none 0).pwr.run = none ∧ (powered 3 none 0).power = psBIVOUAC ∧ 0 < 1 ∧ 3 < 4 := by decide +kernel
/-- Comparator 1 trips below 500 mV with a hysteresis, after two cycles; it is enabled, and shown beyond, or not. -/
def comparing (st on level : Nat) : State :=
  let s1 := ((powered st none 0).set (PwrWake.adr 1) PwrWake.edge 1).set (PwrWake.adr 1) PwrWake.threshold 40
  (((s1.set (PwrWake.adr 1) PwrWake.debounce 2).set (PwrWake.adr 1) PwrWake.enable on).set PwrStatus.adr PwrStatus.level (2 * level))
theorem wit_wakeTrip : (comparing 0 0 0).pwr.off = false ∧ (comparing 0 0 0).boot.perst = true ∧ (comparing 0 0 0).returned (1 : Fin 2) (499#12).toNat = false ∧
    (comparing 0 0 0).beyond (1 : Fin 2) (499#12).toNat = true ∧ (comparing 0 0 0).beyond (1 : Fin 2) (500#12).toNat = false ∧
    bit ((comparing 0 0 0).get PwrStatus.adr PwrStatus.level) (1 : Fin 2) = false ∧ bit ((comparing 0 0 1).get PwrStatus.adr PwrStatus.level) (1 : Fin 2) = true ∧
    (comparing 0 0 0).act (PwrWake.adr (1 : Fin 2)) PwrWake.debounce ≤ (2#16).toNat ∧ (1#16).toNat < (comparing 0 0 0).act (PwrWake.adr (1 : Fin 2)) PwrWake.debounce ∧
    (comparing 0 0 0).actB (PwrWake.adr (1 : Fin 2)) PwrWake.enable = false ∧ (comparing 0 1 0).actB (PwrWake.adr (1 : Fin 2)) PwrWake.enable = true ∧ (comparing 0 1 0).asleep = false ∧
    (comparing 3 1 0).actB (PwrWake.adr (1 : Fin 2)) PwrWake.enable = true ∧ (comparing 3 1 0).asleep = true ∧
    (comparing 0 0 1).returned (1 : Fin 2) (500 + hystMv ((comparing 0 0 1).act (PwrWake.adr 1) PwrWake.hyst) + 1) = true ∧
    (comparing 0 0 1).returned (1 : Fin 2) (500 + hystMv ((comparing 0 0 1).act (PwrWake.adr 1) PwrWake.hyst)) = false := by decide +kernel
/-- Two timed writes wait, and the pre-starts of `k` hold. -/
def campHeld (k : List (Nat × Nat)) : State := { camping k with shx := { up.shx with held := [heldWrite, { heldWrite with id := 2, due := 30000 }, { heldWrite with id := 3, due := 30041 }] } }
theorem wit_prestartPlacement : (campHeld [(32, 5)]).shx.held.find? (fun x => decide (x.due ≤ (((campHeld [(32, 5)]).lineNs + 40 + (campHeld [(32, 5)]).lead : Nat) : Int)) &&
      !(campHeld [(32, 5)]).time.prestarted.contains ((campHeld [(32, 5)]).placeKind x, x.due.toNat)) = some { heldWrite with id := 2, due := 30000 } ∧
    (∀ h ∈ (campHeld [(32, 5), (32, 30000)]).shx.held, ¬ h.due ≤ ((campHeld [(32, 5), (32, 30000)]).lineNs + 40 + (campHeld [(32, 5), (32, 30000)]).lead : Nat) ∨
      ((campHeld [(32, 5), (32, 30000)]).placeKind h, h.due.toNat) ∈ (campHeld [(32, 5), (32, 30000)]).time.prestarted) := by decide +kernel
theorem wit_busyClock : (camping []).power = psCAMP ∧ ckCXE < 55 ∧ ({ camping [] with cxe := (withFrames [cframe]).cxe } : State).power = psCAMP ∧
    ({ camping [] with cxe := (withFrames [cframe]).cxe } : State).busyClock ckCXE = true ∧
    ckCXE ∈ ({ camping [] with cxe := (withFrames [cframe]).cxe } : State).pwr.stopped := by decide +kernel
theorem wit_spreadDue : bit ({ up with pwr := { up.pwr with spreadDue := 512 } } : State).pwr.spreadDue (9 : Fin 10) = true ∧ bit up.pwr.spreadDue (9 : Fin 10) = false ∧
    (up.set BootStatus.adr BootStatus.step 11).bootStep ≠ 0xFF ∧ up.bootStep = 0xFF ∧
    (powered 0 none 0).Open .host 0 0x1110 ((powered 0 none 0).rwlDiffers PwrSpread.adr 0x40001#32) false ∧ (powered 0 none 0).rwlDiffers PwrSpread.adr 0x40001#32 = true ∧
    (powered 0 none 0).Open .host 0 0x1110 ((powered 0 none 0).rwlDiffers PwrSpread.adr 0x60000#32) false ∧ 5 < bits (0x60000#32 : Word).toNat 18 16 := by decide +kernel
theorem wit_enableCut : (∀ f pa, (ringing 0 768 0 0).qVia 0 768 = some (f, pa) → (ringing 0 768 0 0).issues f = true) ∧
    ((ringing 0 768 0 0).set (HifPfStatus.adr 1) HifPfStatus.bme 0).qVia 0 768 = some (1, some 9) ∧
    ((ringing 0 768 0 0).set (HifPfStatus.adr 1) HifPfStatus.bme 0).issues 1 = false ∧ (768 : Fin 4096).val < qCount (0 : Fin 5) ∧
    (ringing 0 768 0 0).qOwner 0 768 = some 3 ∧ (ringing 0 768 3 0).qState 0 768 = qsERROR ∧ (ringing 0 768 2 0).qState 0 768 = qsHALTED := by
  refine ⟨fun f pa h => ?_, by decide +kernel⟩
  have e : (ringing 0 768 0 0).qVia 0 768 = some (1, some 9) := by decide +kernel
  rw [e] at h; cases h; decide +kernel
theorem wit_evCut : ((ringing 2 192 1 0).set (HifPfStatus.adr 1) HifPfStatus.bme 0).issues 1 = false ∧ (ringing 2 192 1 8).issues 1 = true ∧ (ringing 2 192 1 8).evFull 192 = true ∧
    ((ringing 2 192 1 0).set (Hdr.adr 15) Hdr.state 3).ready 15 = false ∧
    (((ringing 2 192 1 0).modQ qkEV 192 fun x => { x with zeroDue := true }).qst qkEV 192).zeroDue = true := by decide +kernel
/-- The same in SERVICE mode. -/
def servicing : State := (ringing 0 768 0 0).set HifSliceCfg.adr HifSliceCfg.mode 1
theorem wit_sliceMode : (ringing 0 768 0 0).Open .host 14 0x1020 ((ringing 0 768 0 0).rwlDiffers HifSliceCfg.adr 0x80000004#32) false ∧
    (ringing 0 768 0 0).service = false ∧ (0x80000004#32 : Word).getLsbD 31 = true ∧ servicing.service = true ∧ (0x80000005#32 : Word).getLsbD 31 = true ∧
    servicing.Open .host 14 0x1020 (servicing.rwlDiffers HifSliceCfg.adr 0x80000005#32) false ∧ (4#32 : Word).getLsbD 31 = false ∧
    servicing.Open .host 14 0x1020 (servicing.rwlDiffers HifSliceCfg.adr 4#32) false := by decide +kernel
theorem wit_find : (((learning false none).modTab 2 fun m => { m with learn := [] }).find 2 (request false).key []).2 = none ∧
    (((learning false (some stashBase)).modTab 2 fun m => { m with learn := [] }).find 2 (request false).key []).2 = some (stashBase, entry) ∧
    (∀ b ∈ [(2 ^ 20 : Nat)], b ≠ ((learning true (some stashBase)).candidates 2 (request true).key).1 ∧ b ≠ ((learning true (some stashBase)).candidates 2 (request true).key).2 ∧ b ≠ stashBase / 4) ∧
    (learning true (some stashBase)).parityMode 2 = false ∧ 4 * 5 + 3 < stashBase ∧
    up.Open .host 11 0x1000 (up.get EmtCmd.adr EmtCmd.table != (2 : Fin 16).val) false ∧ up.Open .host 11 0x1000 (up.get EmtCmd.adr EmtCmd.table != (0 : Fin 16).val) false := by decide +kernel
/-- The entry with a bit turned over, in a table of parity. -/
def oddEntry : List Byte := entry.set 15 0xC1
def oddTable : State := (tabled { EmtTab.init with slots := [(stashBase, if oddParity entry then entry else oddEntry)] }).set (EmtTable.adr 2) EmtTable.errmode 1
theorem wit_parity : oddTable.slotOf 2 (entry.take 8) = some (stashBase, if oddParity entry then entry else oddEntry) ∧ oddTable.parityMode 2 = true ∧
    oddParity (if oddParity entry then entry else oddEntry) = true ∧
    (∀ b ∈ [(2 ^ 20 : Nat)], b ≠ (oddTable.candidates 2 (entry.take 8)).1 ∧ b ≠ (oddTable.candidates 2 (entry.take 8)).2 ∧ b ≠ stashBase / 4) := by decide +kernel
/-- The reads of the shadow compare, as their commands find them. -/
def comparingShadow : State := ((shadowed [(0, .shadow 2 0)]).readEnds 0 (.shadow 2 0)).modTab 2 fun m => { m with shadowPos := 1 % (shadowed []).shadowItems 2 }
theorem wit_shadowFind : (comparingShadow.find 2 (entry.take (keyBytes ((shadowed []).tKind 2))) []).2 = some (stashBase, entry) ∧
    ((shadowed []).find 2 (entry.take (keyBytes ((shadowed []).tKind 2))) []).2 = some (stashBase, entry) ∧ ((tabled EmtTab.init).find 2 (entry.take 8) []).2 = none := by decide +kernel
theorem wit_tcmLead : (parted [] 0).Open .host 12 0x1000 ((parted [] 0).get TcmCmd.adr TcmCmd.part != (1 : Fin 8).val) false ∧
    (parted [] 0).Open .host 12 0x1000 ((parted [] 0).get TcmCmd.adr TcmCmd.part != (0 : Fin 8).val) false := by decide +kernel
theorem wit_tagsFree : linked.tagsFree 1 = true ∧ (∀ x ∈ linked.hif.asked, x.1 ≠ 1) := by decide +kernel
/-- Function 1 has two invalidations that wait for the reads with the numbers in `used`. -/
def invalidating (used : List Nat) : State := pfWith reads1 { PfSt.init with atsEnable := true, invalidations := [(3, used), (4, [])] }
theorem wit_invalidations : ((invalidating [7]).pf 1).invalidations = (3, [7]) :: [(4, [])] ∧ (invalidating [7]).hif.linkLost = false ∧ (∀ x ∈ (invalidating [7]).hif.reads, x.id ∉ [7]) ∧
    ((invalidating [1]).pf 1).invalidations = (3, [1]) :: [(4, [])] ∧ (∃ x ∈ (invalidating [1]).hif.reads, x.id ∈ [1]) := by decide +kernel
theorem wit_argFind : ((learning false (some stashBase)).find 2 (request false).key []).2 = some (stashBase, entry) ∧ (sliced slBOUND).bound 3 = true := by decide +kernel
/-- A write into region 196614 waits for its translation, and a deregister for it. -/
def placingTo (d : List (Nat × Origin)) (l : List (Nat × XReq)) (rs : List (Nat × Region)) : State :=
  let s1 := asking 3 [] [] rs
  { s1 with hif := { s1.hif with xlate := l }, shx := { s1.shx with dereg := d } }
theorem wit_dereg : (196614, Origin.slice 3) ∉ (placingTo [] [] [(196614, hosted)]).shx.dereg ∧ ((placingTo [] [] [(196614, hosted)]).regionDrop 196614).placing 196614 = false ∧
    ((placingTo [] [(3, .write false (some (.place 196614)) (some 9) 0x100000 [1])] [(196614, hosted)]).regionDrop 196614).placing 196614 = true ∧
    (∀ k, Origin.host ≠ .slice k) ∧ (placingTo [(196614, .host)] [] []).shx.dereg = [(196614, .host)] ∧ (placingTo [(196614, .host)] [] []).placing 196614 = false ∧
    (∀ x ∈ (placingTo [(196614, .host)] [(3, .write false (some (.place 196614)) (some 9) 0x100000 [1])] []).shx.dereg,
      (placingTo [(196614, .host)] [(3, .write false (some (.place 196614)) (some 9) 0x100000 [1])] []).placing x.1 = true) := by
  refine ⟨by decide +kernel, by decide +kernel, by decide +kernel, fun k h => (by cases h), by decide +kernel⟩
/-- Connection 196612 has been changed since it entered the cache. -/
def dirtied : State := let s1 := asking 3 [] [(196612, peer 0 3)] []; { s1 with shx := { s1.shx with dirty := [196612] } }
theorem wit_dirty : (asking 3 [] [(196612, peer 0 3)] []).shx.dirty.contains 196612 = false ∧ dirtied.conn 196612 = some (peer 0 3) ∧ dirtied.shx.dirty.contains 196612 = true ∧
    dirtied.ctxTaken < ctxCacheSize := by decide +kernel
theorem wit_deregCmd : ((((shardo [] [5]).awake .host 16).regionDeregister .host none (shardo [] [5]).shxArgs).2) = some sxREGION_STATE ∧
    ((({ (shardo [] [5]) with shx := { (shardo [] [5]).shx with regions := [(5, hosted)] } } : State).awake .host 16).regionDeregister .host none (shardo [] [5]).shxArgs).2 = some scOK := by decide +kernel
theorem wit_vectors : (asking 3 [] [(196612, ringConn 0)] []).vectorOk (ringConn 0).slice (ringConn 0).vector = true ∧
    (asking 3 [] [(196612, ringConn 0)] []).vectorOk ({ ringConn 0 with ctx := connBytes 0 |>.set 75 0 } : Conn).slice ({ ringConn 0 with ctx := connBytes 0 |>.set 75 0 } : Conn).vector = false := by decide +kernel
/-- A ring with answers that wait. -/
def answering (l : List Answer) : Conn := { ringConn 1 with out := l }
theorem wit_answersOut : (answering []).out.find? Answer.paced = none ∧ (ringBusy.kind = ckRING ∨ ringBusy.work = []) ∧ ringBusy.out.find? Answer.paced = none ∧ ringBusy.quiet = none ∧
    (asking 3 [] [(196612, ringBusy)] []).inPace ringBusy = true ∧ ({ ringBusy with quiet := some 5 } : Conn).quiet ≠ none ∧
    (asking 3 [] [(196612, ringBusy)] []).inPace { ringBusy with paceAt := 2 ^ 60 } = false ∧
    (answering [.ack false, .flushAck 7]).out.find? Answer.paced = some (.flushAck 7) ∧
    (asking 3 [] [(196612, answering [.ack false, .flushAck 7])] []).mayAnswer { answering [.ack false, .flushAck 7] with out := [] } (.flushAck 7) = true ∧
    Answer.paced (.flushAck 7) = true := by decide +kernel
theorem wit_exportOk : (exporting [(5, peer 1 3)]).mpiHeld = false ∧ (exporting [(5, peer 1 3)]).exportOk (peer 1 3) = true ∧ (exporting [(5, peer 1 1)]).exportOk (peer 1 1) = false ∧
    (({ exporting [(5, peer 1 3)] with mpi := { (exporting [(5, peer 1 3)]).mpi with inHold := true } } : State).set (Hdr.adr 5) Hdr.state 3).mpiHeld = true ∧
    ({ exporting [(5, peer 1 3)] with shx := { (exporting [(5, peer 1 3)]).shx with cache := [] } } : State).shx.cache.contains 5 = false ∧
    (peer 1 3).kind ≠ ckRING ∧ (peer 1 3).work = [] ∧ (exporting [(5, peer 1 3)]).copyRoom 32 = true ∧
    ((exporting [(5, peer 1 3)]).set ShxRetxCells.adr ShxRetxCells.cells 0).copyRoom 32 = false := by decide +kernel
/-- Connection 196612 with AUTH set, and its peer. -/
def authPeer : Conn := { peer 0 3 with ctx := (connBytes 0).set 1 (64 + 16) }
/-- Slice 3's connection stands open with AUTH set, whose key slot holds a CMAC key. -/
def authing : State := (asking 3 [] [(196612, authPeer)] [(196614, hosted)]).putKey ((asking 3 [] [] []).connSlot authPeer) 1 0 0 (List.replicate 32 9)
theorem wit_arrive : (peer 0 4).state = csFAILED ∧ ((shxSteered [(196612, peer 0 3)] 0 5).set (Hdr.adr 16) Hdr.state 3).ustate 16 = stHELD ∧
    ({ shxSteered [(196612, peer 0 3)] 0 5 with shx := { (shxSteered [(196612, peer 0 3)] 0 5).shx with cache := [] } } : State).shx.cache.contains 196612 = false ∧
    (shHeader 3 5).request = false ∧ (shHeader 3 5).op ≠ opHELLO ∧ ({ shHeader 3 5 with epoch := 5 } : ShHdr).epoch = (peer 0 3).epoch ∧ ({ shHeader 3 5 with epoch := 9 } : ShHdr).epoch ≠ (peer 0 3).epoch ∧
    ({ shHeader 3 5 with ver := 1 } : ShHdr).ver ≠ (peer 0 3).version ∧ (peer 0 1).state ≠ csOPEN ∧ (shHeader 1 5).op = opREAD_REQ ∧
    authPeer.auth = true ∧ ({ shHeader 0 5 with flags := 16 } : ShHdr).authed = true := by decide +kernel
theorem wit_authBad : (authing.keyMet (authing.connSlot authPeer)).authOk authPeer { shHeader 0 5 with flags := 16, icv := List.replicate 16 0 } = false ∧
    authing.connKeyOk authPeer = true := by decide +kernel
/-- A READ_REQ has been acknowledged and waits for its answer. -/
def readWaiting : Conn := { flying with pkts := [{ packet (some 100) with op := opREAD_REQ, acked := true }] }
theorem wit_waitsFor : readWaiting.waitsFor 100 = true ∧ readWaiting.waitsFor 101 = false ∧ readWaiting.inFlight 101 = false ∧ flying.waitsFor 101 = true := by decide +kernel
/-- The connections' time stands while U16 is held. -/
def heldShx : State := (timed (timing 3 0 true)).set (Hdr.adr 16) Hdr.state 3
theorem wit_shxTimers : heldShx.ready 16 = false ∧ (timed (timing 3 0 true)).ready 16 = true ∧ (timed (timing 3 0 true)).shxNs = (timed (timing 3 0 true)).lineNs ∧
    ({ timing 3 0 true with quiet := some 0 } : Conn).quiet = some 0 ∧ 0 ≤ (timed (timing 3 0 true)).shxNs + 40 ∧ (timing 3 0 true).quiet = none ∧
    .ack false ∉ (timing 3 0 true).out ∧ ({ timing 3 0 true with pause := some (0, 5, true) } : Conn).pause = some (0, 5, true) ∧
    ({ timing 3 0 true with pause := some (2 ^ 60, 5, true) } : Conn).pause = some (2 ^ 60, 5, true) ∧ (timed (timing 3 0 true)).shxNs + 40 < 2 ^ 60 := by decide +kernel
/-- An entry of Create I/O CQ 193 of eight entries whose vector is `v`. -/
def createCqBytes (v : Nat) : List Byte := nvBytes 5 0 0 0 (193 + 7 * 65536) (3 + v * 65536) 0
/-- Slice 3 is bound to PF2 and has storage queue 193. -/
theorem wit_createCq : (storing 1 [] [] []).nvSlice 193 = some 3 ∧ (storing 1 [] [] []).vectorOk 3 (nvDw (createCqBytes 384) 11 / 65536) = true ∧ (193 : Nat) ≠ 0 ∧
    (storing 1 [] [] []).vectorOk 3 (nvDw (createCqBytes 383) 11 / 65536) = false ∧ (storing 1 [] [] []).ownerOf .nvme (193 - 1) = some 3 ∧ (storing 1 [] [] []).bound 3 = true ∧
    (storing 1 [] [] []).nvSlice 1024 = none ∧ bit (nvDw (createCqBytes 2048) 11) 1 = true ∧ ¬ nvDw (createCqBytes 2048) 11 / 65536 < 2048 ∧ nvDw (createCqBytes 2047) 11 / 65536 < 2048 ∧
    leAt (createCqBytes 384) 24 8 % 4096 = 0 := by decide +kernel
/-- Command 1 has `n` packets of its 4 that wait for cells. -/
def waitingPkts (ph : NvPhase) (n : Nat) : State :=
  let s1 := naming [locked 1 1 5 4 ph] 3
  { s1 with shx := { s1.shx with conns := [(5, { peer 2 3 with work := List.replicate n ⟨0, { packet none with tag := 1 }⟩ })] } }
theorem wit_noneHanded : (waitingPkts .stalled 0).noneHanded (locked 1 1 5 4 .stalled) = true ∧ (waitingPkts .sent 0).noneHanded (locked 1 1 5 4 .sent) = false ∧
    (waitingPkts .sent 0).unhanded 1 = 0 ∧ (waitingPkts .sent ((naming [] 3).lockPkts (locked 1 1 5 4 .sent))).noneHanded (locked 1 1 5 4 .sent) = true ∧
    (waitingPkts .finished 0).noneHanded (locked 1 1 5 4 .finished) = false ∧ (waitingPkts .stalled 0).nvf.locks = [locked 1 1 5 4 .stalled] ∧
    (waitingPkts (.data [4096]) 0).noneHanded (locked 1 1 5 4 (.data [4096])) = true := by decide +kernel
theorem wit_adminPrp : adminPrpBad (nvBytes 6 0 4098 0 1 0 0) 4096 = true ∧ adminPrpBad (nvBytes 6 0 4096 0 1 0 0) 4096 = false ∧ adminPrpBad (nvBytes 6 0 4100 4096 1 0 0) 4096 = false ∧
    adminPrpBad (nvBytes 6 0 4100 4100 1 0 0) 4096 = true := by decide +kernel
/-- Queue 193's entries `l` have been asked for, and `n` lock entries are taken. -/
def fetchedIo (l : List NvFetched) (n : Nat) : State :=
  let s1 := naming (List.replicate n (locked 1 1 5 4 .sent)) 3
  { s1 with nvf := { s1.nvf with fetched := l } }
theorem wit_fetchedIo : ioSq.asked ≠ 0 ∧ (∀ x ∈ ([⟨194, none⟩, ⟨193, some []⟩] : List NvFetched), x.sq ≠ 193 ∨ x.entry ≠ none) ∧
    (fetchedIo [⟨193, some [1]⟩] 4095).nvf.locks.length < lockSlots ∧ (fetchedIo [⟨193, some [1]⟩] 0).nvf.fetched = { sq := 193, entry := some [1] } :: [] ∧
    (fetchedIo [⟨193, some [1]⟩] 0).sliceRoom ((fetchedIo [⟨193, some [1]⟩] 0).nvSlice 193) = true ∧ lockSlots ≤ (fetchedIo [] 4096).nvf.locks.length ∧
    (∃ y rest, (fetchedIo [⟨193, none⟩] 0).nvf.fetched = { sq := y, entry := none } :: rest) ∧
    (∀ x ∈ (fetchedIo [⟨193, some [1]⟩] 256).nvf.fetched, (fetchedIo [⟨193, some [1]⟩] 256).sliceRoom ((fetchedIo [⟨193, some [1]⟩] 256).nvSlice x.sq) = false) ∧
    (fetchedIo [] 0).service = false ∧ (fetchedIo [⟨193, some [1]⟩] 255).sliceRoom (some 3) = true := by
  refine ⟨by decide, by decide, by decide +kernel, by decide +kernel, by decide +kernel, by decide +kernel, ⟨193, [], rfl⟩, by decide +kernel, by decide +kernel, by decide +kernel⟩
theorem wit_ioReserved : ioReserved (nvBytes 1 4 4096 0 990 0 9) = false ∧ ioReserved ((nvBytes 1 4 4096 0 990 0 9).set 8 1) = true ∧ nvNsid (nvBytes 0 0xFFFFFFFF 0 0 0 0 0) = 0xFFFFFFFF ∧
    ioReserved (nvBytes 0 4 0 0 0 0 0) = false ∧ nvNsid (nvBytes 0 4 0 0 0 0 0) ≠ 0xFFFFFFFF ∧ nvNsid (nvBytes 1 0 4096 0 990 0 9) = 0 ∧ nvOp (nvBytes 0 4 0 0 0 0 0) = 0 := by decide +kernel
theorem wit_takeLock : (fetchedIo [] 4095).nvf.locks.length + 1 = lockSlots ∧ (fetchedIo [] 4094).nvf.locks.length + 1 ≠ lockSlots ∧ (locked 1 0 0 0 .before).phase = .before ∧
    ((naming [] 3).takeLock { locked 9 1 5 10 .stalled with id := (naming [] 3).nvf.nextId }).nvMayIssue { locked 9 1 5 10 .stalled with id := (naming [] 3).nvf.nextId } = true ∧
    lockBlocked { locked 9 1 5 10 .stalled with id := (naming [] 3).nvf.nextId } (naming [] 3).nvf.locks = false := by decide +kernel
theorem wit_finished : (naming [locked 1 1 5 4 .finished] 3).lock 1 = some (locked 1 1 5 4 .finished) ∧ (naming [] 3).nvMayFetch 193 { ioSq with asked := 0 } = true ∧
    (∃ c ∈ (naming [] 1).lockConns (locked 1 1 5 4 .stalled), (naming [] 1).connIsOpen c = false) := by
  refine ⟨by decide +kernel, by decide +kernel, ⟨5, by decide +kernel⟩⟩
/-- The entry of `requesting`'s queue, and one for slot 1 of the share. -/
def rqEntry : List Byte := [1, 0, 0, 16, 0, 0, 0, 0, 8]
/-- The same with a key that has failed its read. -/
def badKeyed : State := let s1 := requesting 1 0 []; { s1 with ige := { s1.ige with badKeys := [768] } }
theorem wit_badKey : (requesting 1 0 []).rqSlot 5 rqEntry = 768 ∧ 768 ∉ (requesting 1 0 []).ige.badKeys ∧ 768 ∈ badKeyed.ige.badKeys ∧ badKeyed.keyState 768 ≠ 0 := by decide +kernel
/-- All requests of the queue are in the lane, and data enters that no one waits for, or that is one of them's. -/
def drained5 (r : List (Nat × Reader)) : State :=
  let s1 := (requesting 1 0 [message 1 0]); { s1 with hif := { s1.hif with reads := outReads r } }
theorem wit_stray : (((drained5 []).qst qkIR (5 : Fin 64)).fetched).drop ((drained5 []).laneOf (5 : Fin 64)).length = [] ∧ (drained5 []).qVia qkIR (5 : Fin 64) = some (1, some 9) ∧
    ([1] : List Byte) ≠ [] ∧ (drained5 []).reading 1 (.integrity (5 : Fin 64)) = false ∧ (drained5 [(1, .integrity 5)]).reading 1 (.integrity (5 : Fin 64)) = true := by decide +kernel
theorem wit_laneOut : (requesting 1 0 [message 1 0]).qVia qkIR (message 1 0).q = some (1, some 9) ∧ (requesting 1 0 [message 1 0]).issues 1 = true ∧
    ((requesting 1 0 [message 1 0]).set (HifPfStatus.adr 1) HifPfStatus.bme 0).qVia qkIR 5 = some (1, some 9) ∧
    ((requesting 1 0 [message 1 0]).set (HifPfStatus.adr 1) HifPfStatus.bme 0).issues 1 = false ∧ (message 1 0).spoil = 0 ∧ (message 2 1).status ≠ 0 ∧ (message 4 0).op = 4 := by decide +kernel
theorem wit_presents_lane : (requesting 1 0 [message 1 0]).Presents qkIR (message 1 0).q := ⟨1, some 9, by decide +kernel⟩
/-- Kind 2 has eight members in duty and a reserve, a period of 18 s, and `n` ticks since its due times are counted. -/
def dueAfter (n last : Nat) : State :=
  let s1 := ((rotating 2 256).set SvcRotPeriod.adr SvcRotPeriod.seconds 18).modKind 2 fun x => { x with since := 5, lastDue := last }
  { s1 with ticks := 5 + n }
theorem wit_fallsDue : (dueAfter (4 * (dueAfter 0 0).dueStep 2) 0).rotating 2 ≠ [] ∧ (dueAfter 0 0).dueStep 2 ≠ 0 ∧ ((dueAfter (4 * (dueAfter 0 0).dueStep 2) 0).kind 2).lastDue ≠ (dueAfter (4 * (dueAfter 0 0).dueStep 2) 0).ticks ∧
    (dueAfter (4 * (dueAfter 0 0).dueStep 2) 0).ticks = ((dueAfter (4 * (dueAfter 0 0).dueStep 2) 0).kind 2).since + (3 + 1) * (dueAfter (4 * (dueAfter 0 0).dueStep 2) 0).dueStep 2 ∧
    (dueAfter (4 * (dueAfter 0 0).dueStep 2) 0).fallsDue (2 : Fin 9) (3 : Fin 26) = true ∧ (dueAfter (4 * (dueAfter 0 0).dueStep 2) 0).fallsDue (2 : Fin 9) (4 : Fin 26) = false ∧
    (dueAfter (4 * (dueAfter 0 0).dueStep 2) 0).svcOn = true ∧ bit ((dueAfter (4 * (dueAfter 0 0).dueStep 2) 0).act SvcRotCtrl.adr SvcRotCtrl.enable) (2 : Fin 9) = true ∧
    ((dueAfter (4 * (dueAfter 0 0).dueStep 2) 0).modKind 2 fun x => { x with lastDue := (dueAfter (4 * (dueAfter 0 0).dueStep 2) 0).ticks }).mayRotate (2 : Fin 9) (3 : Fin 26) = true ∧
    ((dueAfter (4 * (dueAfter 0 0).dueStep 2) 0).modKind 2 fun x => { x with lastDue := (dueAfter (4 * (dueAfter 0 0).dueStep 2) 0).ticks }).mayRotate (2 : Fin 9) (8 : Fin 26) = true ∧
    (dueAfter 1 0).ticks = ((dueAfter 1 0).kind 2).since + 1 ∧ 1 % (dueAfter 1 0).dueStep 2 ≠ 0 := by decide +kernel
theorem wit_yieldLimit : (handing false false).ticks < ({ handing false false with svc := { (handing false false).svc with dueAt := 7 } } : State).yieldEnd ∧
    (({ handing false false with ticks := 2 ^ 40 } : State).svc.dueAt + ({ handing false false with ticks := 2 ^ 40 } : State).act SvcRotCtrl.adr SvcRotCtrl.yieldLimit * 2500000 ≤ 2 ^ 40) := by decide +kernel
/-- The pause of role 1 is placed at 100 ns, and has begun or not, at line time `ns`. -/
def pausingAt (begun : Bool) (ns : Nat) : State :=
  let s1 := atLine (handing begun false) ns
  { s1 with svc := { s1.svc with pause := some ⟨1, 100, begun⟩ } }
theorem wit_pauseWindow : (pausingAt false 100).svc.pause = some ⟨1, 100, false⟩ ∧ (1 : Fin 4).val = 1 ∧ (pausingAt false 60).lineNs ≤ 100 ∧ 100 ≤ (pausingAt false 60).lineNs + 40 ∧
    (pausingAt true 38060).lineNs ≤ 100 + 38000 ∧ 100 + 38000 ≤ (pausingAt true 38060).lineNs + 40 ∧ 100 < (pausingAt false 101).lineNs ∧ (pausingAt false 59).lineNs + 40 < 100 ∧
    100 + 38000 < (pausingAt true 38101).lineNs ∧ (pausingAt true 38059).lineNs + 40 < 100 + 38000 ∧ (pausingAt false 100).ustate (6 + 1) = stREADY ∧
    (pausingAt true 38060).freeReserve rkPIPELINE = some 4 := by decide +kernel
theorem wit_bankError : (rotating 6 65536).svcOn = true ∧ ((rotating 6 65536).set PwrStatus.adr PwrStatus.state 3).asleep = true ∧ ((rotating 6 65536).set (Hdr.adr 23) Hdr.state 3).svcOn = false ∧
    ((rotating 6 65536).set PwrStatus.adr PwrStatus.state 3).dark 23 = true := by decide +kernel
/-- The lease has `n` ticks to go. -/
def leasing (n : Nat) : State := { sided with mgt := { sided.mgt with leaseTicks := n } }
theorem wit_leaseLapsed : (leasing 1).mgt.leaseTicks ≤ 1 ∧ 1 < (leasing 2).mgt.leaseTicks ∧ (leasing 1).mgtUp = true ∧ (leasing 1).holder ≠ ldNONE ∧ (State.reset.holder = ldNONE) := by decide +kernel

end Sys2Proof.Tests
end

section
/-!
The commands one by one, and the step: every command leaves an evolved state, so a step keeps a sound state sound.
-/

namespace Sys2Proof.Machine

/-- Whatever the command, it answers a next state that has evolved from the one that it meets. -/
theorem exec_evolves {s₀ s : State} (c : Instr) (h : Evolves s₀ s) : Leaves (Evolves s₀) (exec c s) := by
  cases c with
  | perstNRise => exact execPerstNRise_ev h
  | perstNFall => exact execPerstNFall_ev h
  | strapSample => exact execStrapSample_ev _ h
  | selfTest => exact execSelfTest_ev _ _ h
  | fuseRead => exact execFuseRead_ev _ h
  | bankTest => exact execBankTest_ev _ _ _ _ _ _ _ _ h
  | sfdpDiscovery => exact execSfdpDiscovery_ev _ _ _ _ h
  | flashHeaderCheck => exact execFlashHeaderCheck_ev _ _ h
  | install => exact execInstall_ev _ _ _ _ _ h
  | slotHeaderRead => exact execSlotHeaderRead_ev _ _ _ _ h
  | flashBurst => exact execFlashBurst_ev _ _ h
  | firmwareChoice => exact execFirmwareChoice_ev h
  | configCheckPass => exact execConfigCheckPass_ev h
  | coreRelease => exact execCoreRelease_ev h
  | startWatchdogExpiry => exact execStartWatchdogExpiry_ev h
  | recordPad => exact execRecordPad_ev h
  | recordIntent => exact execRecordIntent_ev h
  | recordExpert => exact execRecordExpert_ev h
  | recordArray => exact execRecordArray_ev h
  | recordReady => exact execRecordReady_ev h
  | recordPadSlew => exact execRecordPadSlew_ev h
  | applyPassEnd => exact execApplyPassEnd_ev h
  | registerWrite => exact execRegisterWrite_ev _ _ _ _ _ h
  | lFieldEffect => exact execLFieldEffect_ev _ h
  | unitIfvReqWrite => exact execUnitIfvReqWrite_ev _ _ _ h
  | unitReset => exact execUnitReset_ev _ _ h
  | unitGo => exact execUnitGo_ev _ _ h
  | unitHold => exact execUnitHold_ev _ _ _ h
  | unitExpert => exact execUnitExpert_ev _ _ _ h
  | advanceFwEpoch => exact execAdvanceFwEpoch_ev _ _ _ h
  | advanceCfgEpoch => exact execAdvanceCfgEpoch_ev _ _ _ h
  | revokeVendor => exact execRevokeVendor_ev _ _ _ h
  | revokeOwner => exact execRevokeOwner_ev _ _ _ h
  | fuseDone => exact execFuseDone_ev _ h
  | bootReleaseWrite => exact execBootReleaseWrite_ev _ _ h
  | coreFirstFetch => exact execCoreFirstFetch_ev _ h
  | stageDataWrite => exact execStageDataWrite_ev _ _ h
  | erase64k => exact execErase64k_ev _ _ h
  | mark => exact execMark_ev _ _ h
  | unmark => exact execUnmark_ev _ _ h
  | stageFlush => exact execStageFlush_ev _ _ h
  | stageDone => exact execStageDone_ev _ h
  | domainStep => exact execDomainStep_ev _ _ _ h
  | domainRefresh => exact execDomainRefresh_ev _ _ h
  | domainInvalidate => exact execDomainInvalidate_ev _ _ h
  | watchdogTimeoutWrite => exact execWatchdogTimeoutWrite_ev _ _ _ h
  | domainWatchdogExpiry => exact execDomainWatchdogExpiry_ev _ h
  | domainSelect => exact execDomainSelect_ev _ _ h
  | lineLocked => exact execLineLocked_ev h
  | align => exact execAlign_ev _ h
  | snap => exact execSnap_ev _ h
  | txstampTailWrite => exact execTxstampTailWrite_ev _ _ h
  | tpoArm => exact execTpoArm_ev _ _ h
  | tpoStop => exact execTpoStop_ev _ _ h
  | tpoLeadingEdge => exact execTpoLeadingEdge_ev _ h
  | tpoTrailingEdge => exact execTpoTrailingEdge_ev _ h
  | prestart => exact execPrestart_ev _ h
  | prestartDeadline => exact execPrestartDeadline_ev _ h
  | prestartPlacement => exact execPrestartPlacement_ev h
  | ropeBoundary => exact execRopeBoundary_ev _ _ h
  | frameBuild => exact execFrameBuild_ev _ h
  | frameAtComparator => exact execFrameAtComparator_ev _ _ h
  | frameLaunch => exact execFrameLaunch_ev _ _ h
  | commit => exact execCommit_ev _ _ _ h
  | ropeCtrlStop => exact execRopeCtrlStop_ev _ _ h
  | resume => exact execResume_ev _ _ h
  | imageApertureWrite => exact execImageApertureWrite_ev _ _ _ h
  | replyFrameArrival => exact execReplyFrameArrival_ev _ h
  | replySegment => exact execReplySegment_ev _ h
  | inputDeadline => exact execInputDeadline_ev _ h
  | publish => exact execPublish_ev _ h
  | recover => exact execRecover_ev _ _ h
  | axisWrite => exact execAxisWrite_ev _ _ _ _ h
  | axisRelease => exact execAxisRelease_ev _ _ h
  | push => exact execPush_ev _ _ h
  | hostSlotPlacement => exact execHostSlotPlacement_ev _ h
  | generatorPlacement => exact execGeneratorPlacement_ev _ h
  | generatorExport => exact execGeneratorExport_ev h
  | camCheck => exact execCamCheck_ev _ _ _ h
  | camChecked => exact execCamChecked_ev _ h
  | camWithdraw => exact execCamWithdraw_ev _ _ _ h
  | windowReady => exact execWindowReady_ev _ _ _ h
  | frameLastByte => exact execFrameLastByte_ev _ _ _ _ h
  | headIn => exact execHeadIn_ev _ _ _ _ _ _ h
  | classificationResult => exact execClassificationResult_ev _ h
  | seqReset => exact execSeqReset_ev _ _ h
  | patternCtrlWrite => exact execPatternCtrlWrite_ev _ _ _ _ h
  | indirectionWrite => exact execIndirectionWrite_ev _ _ _ _ h
  | hashKeyWord9Write => exact execHashKeyWord9Write_ev _ _ _ _ h
  | learnRequest => exact execLearnRequest_ev _ _ h
  | moveRequest => exact execMoveRequest_ev _ _ h
  | emtCmdInsert => exact execEmtCmdInsert_ev _ _ _ h
  | emtCmdDelete => exact execEmtCmdDelete_ev _ _ _ h
  | emtCmdModify => exact execEmtCmdModify_ev _ _ _ h
  | emtCmdLookup => exact execEmtCmdLookup_ev _ _ _ h
  | emtCommandEnd => exact execEmtCommandEnd_ev h
  | ageVisit => exact execAgeVisit_ev _ _ h
  | emtDmaDoorbell => exact execEmtDmaDoorbell_ev _ _ _ h
  | emtDmaImage => exact execEmtDmaImage_ev _ _ h
  | shadowCompare => exact execShadowCompare_ev _ _ _ h
  | tcmCmdWrite => exact execTcmCmdWrite_ev _ _ h
  | tcmCmdInvalidate => exact execTcmCmdInvalidate_ev _ _ h
  | tcmCmdRead => exact execTcmCmdRead_ev _ _ h
  | tcamUpdateSlot => exact execTcamUpdateSlot_ev _ _ _ _ h
  | tmEnqueue => exact execTmEnqueue_ev h
  | tmDecision => exact execTmDecision_ev _ h
  | gclSwitchArm => exact execGclSwitchArm_ev _ _ h
  | gclSwitch => exact execGclSwitch_ev _ h
  | gclEntryAdvance => exact execGclEntryAdvance_ev _ h
  | preemptVerifyEnd => exact execPreemptVerifyEnd_ev _ _ h
  | sampleSweepStart => exact execSampleSweepStart_ev h
  | sampleSweepEnd => exact execSampleSweepEnd_ev h
  | linkDown => exact execLinkDown_ev h
  | linkUp => exact execLinkUp_ev _ _ _ _ h
  | hotReset => exact execHotReset_ev h
  | bmeCleared => exact execBmeCleared_ev _ h
  | bmeSet => exact execBmeSet_ev _ _ _ h
  | flr => exact execFlr_ev _ h
  | flrDone => exact execFlrDone_ev _ h
  | completionTimeout => exact execCompletionTimeout_ev _ _ h
  | poisoned => exact execPoisoned_ev _ _ h
  | ecrcFailure => exact execEcrcFailure_ev _ h
  | msixUnmask => exact execMsixUnmask_ev _ _ h
  | translationAnswer => exact execTranslationAnswer_ev _ _ _ _ h
  | invalidationRequest => exact execInvalidationRequest_ev _ _ _ _ h
  | invalidationCompletion => exact execInvalidationCompletion_ev _ h
  | sliceBind => exact execSliceBind_ev _ _ _ h
  | sliceUnbind => exact execSliceUnbind_ev _ _ _ h
  | freeze => exact execFreeze_ev _ _ h
  | sliceFrozen => exact execSliceFrozen_ev _ h
  | freezeLimitExpiry => exact execFreezeLimitExpiry_ev _ h
  | thaw => exact execThaw_ev _ _ h
  | save => exact execSave_ev _ _ h
  | saveDone => exact execSaveDone_ev _ h
  | restore => exact execRestore_ev _ _ h
  | restoreDone => exact execRestoreDone_ev _ _ h
  | sliceRelease => exact execSliceRelease_ev _ _ h
  | sliceModeWrite => exact execSliceModeWrite_ev _ _ h
  | sliceCountWrite => exact execSliceCountWrite_ev _ _ h
  | eventRouteWrite => exact execEventRouteWrite_ev _ _ _ h
  | eventRingWrite => exact execEventRingWrite_ev h
  | queueDoorbell => exact execQueueDoorbell_ev _ _ h
  | descriptorCompletion => exact execDescriptorCompletion_ev _ _ _ h
  | txDataCompletion => exact execTxDataCompletion_ev _ _ h
  | headRecordTimer => exact execHeadRecordTimer_ev _ _ h
  | queueEnable => exact execQueueEnable_ev _ _ _ h
  | queueDisable => exact execQueueDisable_ev _ _ _ h
  | queueReset => exact execQueueReset_ev _ _ _ h
  | queueDrainEnd => exact execQueueDrainEnd_ev _ _ h
  | scQueueSetup => exact execScQueueSetup_ev _ h
  | scQueueEnable => exact execScQueueEnable_ev _ h
  | scQueueDisable => exact execScQueueDisable_ev _ h
  | scQueueReset => exact execScQueueReset_ev _ h
  | emtInsert => exact execEmtInsert_ev _ _ _ h
  | emtDelete => exact execEmtDelete_ev _ _ _ h
  | emtModify => exact execEmtModify_ev _ _ _ h
  | emtLookup => exact execEmtLookup_ev _ _ _ h
  | tcamWrite => exact execTcamWrite_ev _ _ h
  | tcamInvalidate => exact execTcamInvalidate_ev _ h
  | tcamRead => exact execTcamRead_ev _ h
  | indirWrite => exact execIndirWrite_ev _ _ h
  | hashKeyWrite => exact execHashKeyWrite_ev _ _ h
  | connSetup => exact execConnSetup_ev _ _ h
  | connOpen => exact execConnOpen_ev _ h
  | connClose => exact execConnClose_ev _ h
  | connCloseEnd => exact execConnCloseEnd_ev _ h
  | connQuery => exact execConnQuery_ev _ h
  | regionRegister => exact execRegionRegister_ev _ h
  | regionDeregister => exact execRegionDeregister_ev _ h
  | ringEnable => exact execRingEnable_ev _ h
  | ringDisable => exact execRingDisable_ev _ h
  | ringReset => exact execRingReset_ev _ h
  | shardoDoorbell => exact execShardoDoorbell_ev _ _ h
  | sendEntryFetched => exact execSendEntryFetched_ev _ _ h
  | sendDataCompletion => exact execSendDataCompletion_ev _ _ h
  | packetSend => exact execPacketSend_ev _ h
  | write => exact execWrite_ev h
  | readReq => exact execReadReq_ev h
  | readResp => exact execReadResp_ev h
  | ack => exact execAck_ev h
  | nak => exact execNak_ev h
  | flush => exact execFlush_ev h
  | flushAck => exact execFlushAck_ev h
  | timedWrite => exact execTimedWrite_ev h
  | hello => exact execHello_ev h
  | resync => exact execResync_ev h
  | notReady => exact execNotReady_ev h
  | contextFetchComplete => exact execContextFetchComplete_ev _ _ h
  | flushReadbackComplete => exact execFlushReadbackComplete_ev _ h
  | regionReadComplete => exact execRegionReadComplete_ev _ _ h
  | retransmitTimerExpiry => exact execRetransmitTimerExpiry_ev _ h
  | helloRetry => exact execHelloRetry_ev _ h
  | backoffEnd => exact execBackoffEnd_ev _ h
  | timedFullWaitEnd => exact execTimedFullWaitEnd_ev _ h
  | ackTimer => exact execAckTimer_ev _ h
  | growthEvent => exact execGrowthEvent_ev _ h
  | alphaDecay => exact execAlphaDecay_ev _ h
  | timedWritePlacement => exact execTimedWritePlacement_ev h
  | sqTailDoorbell => exact execSqTailDoorbell_ev _ _ h
  | cqHeadDoorbell => exact execCqHeadDoorbell_ev _ _ h
  | nvmeWrite => exact execNvmeWrite_ev _ _ h
  | nvmeRead => exact execNvmeRead_ev _ _ h
  | nvmeWriteZeroes => exact execNvmeWriteZeroes_ev _ _ h
  | nvmeFlush => exact execNvmeFlush_ev _ _ h
  | lockGranted => exact execLockGranted_ev h
  | nvmeDataCompletion => exact execNvmeDataCompletion_ev _ _ _ h
  | abort => exact execAbort_ev _ h
  | createIoSq => exact execCreateIoSq_ev _ h
  | createIoCq => exact execCreateIoCq_ev _ h
  | deleteIoSq => exact execDeleteIoSq_ev _ h
  | deleteIoCq => exact execDeleteIoCq_ev _ h
  | identify => exact execIdentify_ev _ h
  | getLogPage => exact execGetLogPage_ev _ _ h
  | setFeatures => exact execSetFeatures_ev _ h
  | getFeatures => exact execGetFeatures_ev _ h
  | asyncEventRequest => exact execAsyncEventRequest_ev _ h
  | controllerEnable => exact execControllerEnable_ev _ _ _ _ h
  | controllerReset => exact execControllerReset_ev h
  | namespaceEnable => exact execNamespaceEnable_ev _ _ _ h
  | targetDone => exact execTargetDone_ev _ _ h
  | recordStart => exact execRecordStart_ev _ h
  | integrityDoorbell => exact execIntegrityDoorbell_ev _ _ h
  | cmacGen => exact execCmacGen_ev _ _ _ h
  | cmacVerify => exact execCmacVerify_ev _ _ _ h
  | gmacGen => exact execGmacGen_ev _ _ _ h
  | gmacVerify => exact execGmacVerify_ev _ _ _ h
  | laneMessageDone => exact execLaneMessageDone_ev _ h
  | keyLoad => exact execKeyLoad_ev _ _ _ h
  | keyDerive => exact execKeyDerive_ev _ _ h
  | keyClear => exact execKeyClear_ev _ h
  | rngFault => exact execRngFault_ev h
  | powerSummit => exact execPowerSummit_ev _ _ h
  | powerCamp => exact execPowerCamp_ev _ _ h
  | powerBivouac => exact execPowerBivouac_ev _ _ h
  | powerState => exact execPowerState_ev h
  | d3hotEntry => exact execD3hotEntry_ev _ h
  | wakeTrip => exact execWakeTrip_ev _ _ _ h
  | wakePowerUp => exact execWakePowerUp_ev h
  | clockStop => exact execClockStop_ev _ h
  | spreadWrite => exact execSpreadWrite_ev _ _ h
  | spreadChange => exact execSpreadChange_ev _ h
  | aonBrownout => exact execAonBrownout_ev h
  | rotationDue => exact execRotationDue_ev _ _ h
  | handoverPauseStart => exact execHandoverPauseStart_ev _ h
  | handoverPauseEnd => exact execHandoverPauseEnd_ev _ h
  | yieldLimitExpiry => exact execYieldLimitExpiry_ev h
  | coreYield => exact execCoreYield_ev _ _ h
  | rotateNow => exact execRotateNow_ev _ _ _ h
  | fwReplace => exact execFwReplace_ev _ h
  | fwReplaced => exact execFwReplaced_ev h
  | memberTestEnd => exact execMemberTestEnd_ev _ _ h
  | bankCopyEnd => exact execBankCopyEnd_ev _ h
  | scrubVisit => exact execScrubVisit_ev _ _ _ _ _ h
  | coreFault => exact execCoreFault_ev _ h
  | getVersion => exact execGetVersion_ev _ h
  | regRead => exact execRegRead_ev _ _ _ _ _ h
  | regWrite => exact execRegWrite_ev _ _ _ _ _ h
  | leadClaim => exact execLeadClaim_ev _ _ _ _ h
  | leadRenew => exact execLeadRenew_ev _ _ _ h
  | leadRelease => exact execLeadRelease_ev _ _ h
  | leadQuery => exact execLeadQuery_ev _ h
  | leaseLapsed => exact execLeaseLapsed_ev h
  | restart => exact execRestart_ev _ _ h
  | momentRead => exact execMomentRead_ev _ _ h
  | stageWrite => exact execStageWrite_ev _ _ _ h
  | timeRead => exact execTimeRead_ev _ h
  | attestKey => exact execAttestKey_ev _ _ h
  | eventMessage => exact execEventMessage_ev _ h
  | eventRetry => exact execEventRetry_ev _ h
  | setEndpointId => exact execSetEndpointId_ev _ _ _ h
  | getEndpointId => exact execGetEndpointId_ev _ h
  | getMctpVersionSupport => exact execGetMctpVersionSupport_ev _ _ h
  | getMessageTypeSupport => exact execGetMessageTypeSupport_ev _ h
  | getVendorDefinedMessageSupport => exact execGetVendorDefinedMessageSupport_ev _ _ h
  | i3cDynamicAddress => exact execI3cDynamicAddress_ev _ h
  | getTid => exact execGetTid_ev _ h
  | getPldmVersion => exact execGetPldmVersion_ev _ _ h
  | getPldmTypes => exact execGetPldmTypes_ev _ h
  | getPldmCommands => exact execGetPldmCommands_ev _ _ h
  | getPdrRepositoryInfo => exact execGetPdrRepositoryInfo_ev _ h
  | getPdr => exact execGetPdr_ev _ h
  | getSensorReading => exact execGetSensorReading_ev _ _ _ h
  | getStateSensorReadings => exact execGetStateSensorReadings_ev _ _ h
  | requestUpdate => exact execRequestUpdate_ev _ h
  | passComponentTable => exact execPassComponentTable_ev _ _ h
  | updateComponent => exact execUpdateComponent_ev _ _ _ h
  | requestFirmwareData => exact execRequestFirmwareData_ev _ h
  | transferComplete => exact execTransferComplete_ev h
  | verifyComplete => exact execVerifyComplete_ev _ _ h
  | applyComplete => exact execApplyComplete_ev h
  | activateFirmware => exact execActivateFirmware_ev _ h
  | getStatus => exact execGetStatus_ev _ h
  | cancelUpdate => exact execCancelUpdate_ev _ h
  | spdmGetVersion => exact execSpdmGetVersion_ev h
  | getCapabilities => exact execGetCapabilities_ev h
  | negotiateAlgorithms => exact execNegotiateAlgorithms_ev h
  | challenge => exact execChallenge_ev _ _ h
  | getMeasurements => exact execGetMeasurements_ev _ _ h
  | portUp => exact execPortUp_ev _ h
  | portDown => exact execPortDown_ev _ h
  | autonegDone => exact execAutonegDone_ev _ _ h
  | jtagTrst => exact execJtagTrst_ev h
  | bypass => exact execBypass_ev _ h
  | idcode => exact execIdcode_ev h
  | samplePreload => exact execSamplePreload_ev _ _ h
  | extest => exact execExtest_ev _ _ h
  | extestPulse => exact execExtestPulse_ev _ _ h
  | extestTrain => exact execExtestTrain_ev _ _ h
  | clamp => exact execClamp_ev _ h
  | highz => exact execHighz_ev _ h
  | clkAonTick => exact execClkAonTick_ev h
  | powerUp => exact execPowerUp_ev h
  | pcsLock => exact execPcsLock_ev _ h
  | autonegRestart => exact execAutonegRestart_ev _ h
  | linkRetraining => exact execLinkRetraining_ev _ h

/-- An outcome that leaves a state of property `P` is a next state. -/
theorem Leaves.exists_next {P : State → Prop} {r : Host.Outcome State Fault Refusal} (h : Leaves P r) :
    ∃ t, r = .next t ∧ P t := by
  cases r with
  | next t => exact ⟨t, rfl, h⟩
  | fault _ => exact h.elim
  | refused _ => exact h.elim

theorem Evolves.sound {s t : State} (h : Evolves s t) (hs : s.Sound) : t.Sound :=
  ⟨h.regs hs.regs, h.force hs.force, h.staged hs.staged⟩

/-- Taking the command in front off the queue touches nothing that soundness speaks of. -/
theorem State.Sound.dequeue {s : State} (h : s.Sound) (cs : List Instr) : State.Sound { s with pending := cs } :=
  ⟨h.regs, h.force, h.staged⟩

/-- Settles O5: an empty queue idles, and the command in front evolves the state that it meets. -/
theorem stepKeepsSoundStates : Obligations.StepKeepsSoundStates := by
  intro s hs
  unfold step
  cases s.pending with
  | nil => exact ⟨s, rfl, hs⟩
  | cons c cs =>
    obtain ⟨t, ht, hev⟩ := (exec_evolves c (Evolves.refl { s with pending := cs })).exists_next
    exact ⟨t, ht, hev.sound (hs.dequeue cs)⟩

end Sys2Proof.Machine
end

section
/-!
The state after reset: no word is listed, so each reads its reset value.
-/

namespace Sys2Proof.Machine

theorem State.reset_rd (a : Nat) : State.reset.rd a = resetWord a := rfl

theorem State.reset_inForce (a : Nat) : State.reset.inForce a = resetWord a := rfl

/-- The header of each of the 24 units as reset leaves it (R33, R65, R555). -/
theorem reset_header : ∀ u : Fin 24, State.reset.get (Hdr.adr u) Hdr.unitNo = u ∧ State.reset.get (Hdr.adr u) Hdr.device = 0x4160 ∧
    State.reset.ustate u = (if founding u then stSTARTING else stABSENT) ∧
    State.reset.ucause u = (if founding u then caNONE else caNO_RECORD) ∧ State.reset.get (Hdr.adr u) Hdr.momEvent = 15 := by
  decide +kernel

/-- BOOT_STATUS and SYS_LEAD as reset leaves them: step 1 with no halt and no scale, and no holder (R67, R536). -/
theorem reset_start : State.reset.bootStep = 1 ∧ State.reset.halted = false ∧ State.reset.scale = 0 ∧ State.reset.holder = ldNONE := by
  decide +kernel

/-- Settles O3: the register file lists nothing after reset, and what no register shows is empty or zero. -/
theorem registersAfterReset : Obligations.RegistersAfterReset := by
  obtain ⟨hstep, hhalt, hscale, hlead⟩ := reset_start
  exact ⟨fun a => ⟨State.reset_rd a, State.reset_inForce a⟩, reset_header, hstep, hhalt, hscale, hlead, rfl, rfl, rfl, rfl, rfl, rfl, rfl⟩

end Sys2Proof.Machine
end

section
/-!
What moving a unit writes: its header, its bit of CFG_READY_MAP, and the STATE_CHANGE of a change.
-/

namespace Sys2Proof.Machine

theorem bit_eq_testBit (n i : Nat) : bit n i = n.testBit i := by
  rw [Nat.testBit_eq_decide_div_mod_eq]
  rfl

theorem bit_or_two_pow (m u : Nat) : bit (m ||| 2 ^ u) u = true := by
  rw [bit_eq_testBit, Nat.testBit_or, Nat.testBit_two_pow_self, Bool.or_true]

/-- Taking a bit that is set away leaves it clear. -/
theorem bit_sub_two_pow (x u : Nat) (h : bit x u = true) : bit (x - 2 ^ u) u = false := by
  simp only [bit, beq_iff_eq] at h
  have hd : (x - 2 ^ u) / 2 ^ u = x / 2 ^ u - 1 := by
    simpa using Nat.sub_mul_div x (2 ^ u) 1
  simp only [bit, hd, beq_eq_false_iff_ne]
  omega

/-- The header of unit `u` and CFG_READY_MAP as a move to STATE `st` with cause `c` writes them (R62, R65). -/
def State.unitWords (s : State) (u st c : Nat) : State :=
  (((s.set (Hdr.adr u) Hdr.state st).set (Hdr.adr u) Hdr.cause c).set (Hdr.adr u) Hdr.ready (b2n (st == stREADY))).set
    CfgReadyMap.adr CfgReadyMap.ready
    (if st = stREADY then s.get CfgReadyMap.adr CfgReadyMap.ready ||| 2 ^ u
      else (s.get CfgReadyMap.adr CfgReadyMap.ready ||| 2 ^ u) - 2 ^ u)

/-- The same with the pending values of a unit that leaves READY in force (R58). -/
def State.unitMoved (s : State) (u st c : Nat) : State :=
  if s.ustate u = stREADY ∧ st ≠ stREADY then (s.unitWords u st c).flushUnit u else s.unitWords u st c

/-- A move announces STATE_CHANGE when STATE changes. -/
theorem State.setUnit_eq (s : State) (u st c : Nat) :
    s.setUnit u st c = if s.ustate u = st then s.unitMoved u st c
      else (s.unitMoved u st c).raise u 0 (st + 16 * s.ustate u + 256 * c) := rfl

theorem State.staged_unitMoved (s : State) (u st c : Nat) : (s.unitMoved u st c).staged = s.staged := by
  unfold State.unitMoved State.unitWords
  split <;> simp

/-- Neither the flush nor the event writes a field outside the gate lists and the event words. -/
theorem State.get_setUnit_words (s : State) (u st c b : Nat) (f : Fld) (h : f.Quiet b)
    (h2 : b + f.off + 4 * f.words ≤ 0xDF0000 ∨ 0xE00000 ≤ b + f.off) :
    (s.setUnit u st c).get b f = (s.unitWords u st c).get b f := by
  have hm : (s.unitMoved u st c).get b f = (s.unitWords u st c).get b f := by
    unfold State.unitMoved
    split
    · exact State.get_flushUnit _ _ _ _ (.inr h2)
    · rfl
  rw [State.setUnit_eq]
  split
  · exact hm
  · rw [State.get_raise _ _ _ _ _ _ h, hm]

/-- The header fields of UNIT_STATE and UNIT_READY after a move read as they were written. -/
theorem State.get_setUnit_header (s : State) (u st c : Nat) (f : Fld) (h1 : f.words = 1) (h2 : f.off = 0x10 ∨ f.off = 0x14) :
    (s.setUnit u st c).get (Hdr.adr u) f = (s.unitWords u st c).get (Hdr.adr u) f := by
  refine s.get_setUnit_words u st c _ f ?_ ?_
  · intro j hj
    simp only [QuietWord, Hdr.adr]
    omega
  · simp only [Hdr.adr]
    omega

theorem State.ustate_setUnit (s : State) (u st c : Nat) (hu : u < 24) : (s.setUnit u st c).ustate u = st % 16 := by
  unfold State.ustate
  rw [s.get_setUnit_header u st c Hdr.state rfl (.inl rfl), State.unitWords, State.get_set_apart, State.get_set_apart,
    State.get_set_apart, State.get_set_same]
  · rfl
  · exact .inr (.inr ⟨rfl, .inr (by decide)⟩)
  · exact .inr (.inl (by simp only [Hdr.adr, Hdr.state, Hdr.ready, Fld.words]; omega))
  · simp only [Fld.Apart, Hdr.adr, CfgReadyMap.adr, CfgReadyMap.ready, Hdr.state, Fld.words]; omega

theorem State.ucause_setUnit (s : State) (u st c : Nat) (hu : u < 24) : (s.setUnit u st c).ucause u = c % 256 := by
  unfold State.ucause
  rw [s.get_setUnit_header u st c Hdr.cause rfl (.inl rfl), State.unitWords, State.get_set_apart, State.get_set_apart,
    State.get_set_same]
  · rfl
  · exact .inr (.inl (by simp only [Hdr.adr, Hdr.cause, Hdr.ready, Fld.words]; omega))
  · simp only [Fld.Apart, Hdr.adr, CfgReadyMap.adr, CfgReadyMap.ready, Hdr.cause, Fld.words]; omega

theorem State.ready_setUnit (s : State) (u st c : Nat) (hu : u < 24) :
    (s.setUnit u st c).get (Hdr.adr u) Hdr.ready = b2n (st == stREADY) := by
  rw [s.get_setUnit_header u st c Hdr.ready rfl (.inr rfl), State.unitWords, State.get_set_apart, State.get_set_same]
  · exact Nat.mod_eq_of_lt (by unfold b2n; split <;> decide)
  · simp only [Fld.Apart, Hdr.adr, CfgReadyMap.adr, CfgReadyMap.ready, Hdr.ready, Fld.words]; omega

/-- CFG_READY_MAP follows UNIT_READY (R62). -/
theorem State.readyMap_setUnit (s : State) (u st c : Nat) (hu : u < 24) :
    bit ((s.setUnit u st c).get CfgReadyMap.adr CfgReadyMap.ready) u = (st == stREADY) := by
  have hm : s.get CfgReadyMap.adr CfgReadyMap.ready ||| 2 ^ u < 2 ^ CfgReadyMap.ready.width :=
    Nat.or_lt_two_pow (Nat.mod_lt _ (by decide)) (Nat.pow_lt_pow_right (by decide) hu)
  rw [s.get_setUnit_words u st c _ _ (by intro j hj; simp only [CfgReadyMap.ready, Fld.words] at hj; simp only [QuietWord, CfgReadyMap.adr, CfgReadyMap.ready]; omega)
    (.inl (by decide)), State.unitWords, State.get_set_same]
  by_cases hst : st = stREADY
  · rw [if_pos hst, Nat.mod_eq_of_lt hm, bit_or_two_pow, beq_iff_eq.2 hst]
  · rw [if_neg hst, Nat.mod_eq_of_lt (Nat.lt_of_le_of_lt (Nat.sub_le _ _) hm), bit_sub_two_pow _ _ (bit_or_two_pow _ _),
      beq_eq_false_iff_ne.2 hst]

/-- Settles O8: the words of a move stand through the flush and the event, whose moment record is STATE_CHANGE's. -/
theorem movingAUnit : Obligations.MovingAUnit := by
  intro s u st cause
  have hst : st.val % 16 = st := Nat.mod_eq_of_lt (by omega)
  have hready : ∀ x : Fin 7, (x.val == stREADY) = (x == 2) := by decide
  have hold : s.ustate u < 16 := Nat.mod_lt _ (by decide)
  refine ⟨?_, ?_, ?_, ?_, fun hne => ?_, fun heq => ?_⟩
  · rw [s.ustate_setUnit u st cause u.isLt, hst]
  · rw [s.ucause_setUnit u st cause u.isLt, Nat.mod_eq_of_lt cause.isLt]
  · rw [s.ready_setUnit u st cause u.isLt, hready]
  · rw [s.readyMap_setUnit u st cause u.isLt, hready]
  · rw [State.setUnit_eq, if_neg hne, State.raise_momEvent, State.raise_momDetail]
    exact ⟨rfl, Nat.mod_eq_of_lt (by omega)⟩
  · rw [State.setUnit_eq, if_pos heq, State.staged_unitMoved]

end Sys2Proof.Machine
end

section
/-!
The start sequence: what the end of a step, the founding units and the scale leave of BOOT_STATUS and of the start's own state.
-/

namespace Sys2Proof.Machine

/-! ## Steps -/

@[simp] theorem State.modBoot_boot (s : State) (g : Boot → Boot) : (s.modBoot g).boot = g s.boot := rfl

/-- No replacement runs a step where none is in progress. -/
theorem State.replStep_of_none (s : State) (n : Nat) (h : s.boot.replacing = none) : s.replStep n = false := by
  unfold State.replStep
  rw [h]

/-- Outside a replacement the end of step `n` shows the next one in STEP (R67). -/
theorem State.stepDone_of_none (s : State) (n : Nat) (h : s.boot.replacing = none) (hn : n ≠ 11) :
    s.stepDone n = s.set BootStatus.adr BootStatus.step (n + 1) := by
  unfold State.stepDone
  rw [s.replStep_of_none n h, if_neg (by simp), if_neg (by omega)]

/-- A step runs in no halt (R91). -/
theorem State.halted_of_atStep (s : State) (n : Nat) (h : s.atStep n = true) : s.halted = false := by
  simp only [State.atStep, Bool.and_eq_true, Bool.not_eq_true'] at h
  obtain ⟨⟨⟨⟨⟨_, hh⟩, _⟩, _⟩, _⟩, _⟩ := h
  exact hh

@[simp] theorem State.bootStep_set (s : State) (v : Nat) : (s.set BootStatus.adr BootStatus.step v).bootStep = v % 2 ^ 8 :=
  State.get_set_same _ _ _ _

@[simp] theorem State.scale_set_step (s : State) (v : Nat) : (s.set BootStatus.adr BootStatus.step v).scale = s.scale :=
  State.get_set_apart _ _ _ _ _ _ (.inr (.inr ⟨rfl, .inl (by decide)⟩))

/-! ## Founding units -/

/-- A move to READY or HELD is one move of the unit (R594). -/
theorem State.goReady_eq (s : State) (u : Nat) : ∃ st c, s.goReady u = s.setUnit u st c := by
  unfold State.goReady
  split
  · exact ⟨_, _, rfl⟩
  · split
    · exact ⟨_, _, rfl⟩
    · exact ⟨_, _, rfl⟩

/-- What every move of a unit keeps, the founding units' start keeps. -/
theorem State.foundingReady_only {α : Type} (g : State → α) (hg : ∀ (t : State) u st c, g (t.setUnit u st c) = g t) (s : State)
    (us : List Nat) : g (s.foundingReady us) = g s := by
  unfold State.foundingReady
  induction us generalizing s with
  | nil => rfl
  | cons u us ih =>
    rw [List.foldl_cons, ih]
    split
    · obtain ⟨st, c, h⟩ := s.goReady_eq u
      rw [h, hg]
    · rfl

@[simp] theorem State.foundingReady_boot (s : State) (us : List Nat) : (s.foundingReady us).boot = s.boot :=
  State.foundingReady_only State.boot (fun t u st c => t.setUnit_boot u st c) s us

/-- No move of a unit writes BOOT_STATUS. -/
theorem State.scale_setUnit (s : State) (u st c : Nat) : (s.setUnit u st c).scale = s.scale := by
  refine s.get_setUnit u st c _ _ ?_ ?_ (.inl (by decide)) (.inr (.inl (by decide)))
  · intro j hj
    simp only [BootStatus.scale, Fld.words] at hj
    simp only [QuietWord, BootStatus.adr, BootStatus.scale]
    omega
  · simp only [BootStatus.adr, BootStatus.scale, Fld.words]
    omega

@[simp] theorem State.scale_foundingReady (s : State) (us : List Nat) : (s.foundingReady us).scale = s.scale :=
  State.foundingReady_only State.scale State.scale_setUnit s us

/-! ## The scale -/

/-- What every write of a register keeps, the sampled scale keeps once it stands in BOOT_STATUS and HIF_IDENT. -/
theorem State.setScale_only {α : Type} (s : State) (n : Nat) (g : State → α)
    (hi : ∀ t : State, g (t.set HifIdent.adr HifIdent.scale n) = g t)
    (hg : ∀ (t : State) u v, g (t.set (Hdr.adr u) Hdr.cause v) = g t) :
    g (s.setScale n) = g (s.set BootStatus.adr BootStatus.scale n) := by
  unfold State.setScale
  dsimp only
  rw [← hi (s.set BootStatus.adr BootStatus.scale n)]
  generalize (s.set BootStatus.adr BootStatus.scale n).set HifIdent.adr HifIdent.scale n = t
  generalize [7, 8, 16, 17, 22] = us
  induction us generalizing t with
  | nil => rfl
  | cons u us ih =>
    rw [List.foldl_cons, ih]
    split
    · exact hg t u _
    · rfl

@[simp] theorem State.setScale_boot (s : State) (n : Nat) : (s.setScale n).boot = s.boot :=
  (s.setScale_only n State.boot (by simp) (by simp)).trans (State.set_boot _ _ _ _)

@[simp] theorem State.scale_setScale (s : State) (n : Nat) : (s.setScale n).scale = n % 2 ^ 4 := by
  rw [s.setScale_only n State.scale]
  · exact State.get_set_same _ _ _ _
  · exact fun t => State.get_set_apart _ _ _ _ _ _ (.inr (.inl (by decide)))
  · intro t u v
    refine State.get_set_apart _ _ _ _ _ _ ?_
    simp only [Fld.Apart, Hdr.adr, Hdr.cause, BootStatus.adr, BootStatus.scale, Fld.words]
    omega

/-! ## The fuses and the banks -/

@[simp] theorem State.fuseCopies_boot (s : State) : s.fuseCopies.boot = s.boot := by
  simp [State.fuseCopies]

theorem countPositions_le (p : BitVec 64 × BitVec 64) : countPositions p ≤ 64 := by
  unfold countPositions
  exact Nat.le_trans (List.length_filter_le _ _) (Nat.le_of_eq List.length_range)

/-- FW_EPOCH and CFG_EPOCH read the counters of the fuses (R563). -/
theorem State.fuseCopies_epochs (s : State) :
    s.fuseCopies.get BootEpoch.adr BootEpoch.fwEpoch = s.fwCounter ∧
      s.fuseCopies.get BootEpoch.adr BootEpoch.cfgEpoch = s.cfgCounter := by
  have hf : s.fwCounter % 2 ^ BootEpoch.fwEpoch.width = s.fwCounter :=
    Nat.mod_eq_of_lt (Nat.lt_of_le_of_lt (countPositions_le _) (by decide))
  have hc : s.cfgCounter % 2 ^ BootEpoch.cfgEpoch.width = s.cfgCounter :=
    Nat.mod_eq_of_lt (Nat.lt_of_le_of_lt (countPositions_le _) (by decide))
  have keys : ∀ (t : State) (f g : Fld) v, f.off = 0 → f.words = 1 → g.off = 0 → g.words = 1 →
      (t.set BootKeys.adr g v).get BootEpoch.adr f = t.get BootEpoch.adr f := by
    intro t f g v h1 h2 h3 h4
    refine State.get_set_apart _ _ _ _ _ _ (.inr (.inl ?_))
    rw [h1, h2, h3]
    decide
  unfold State.fuseCopies
  constructor
  · rw [keys _ _ _ _ rfl rfl rfl rfl, keys _ _ _ _ rfl rfl rfl rfl, keys _ _ _ _ rfl rfl rfl rfl, keys _ _ _ _ rfl rfl rfl rfl,
      State.get_set_apart _ BootEpoch.adr BootEpoch.cfgEpoch _ _ BootEpoch.fwEpoch (.inr (.inr ⟨rfl, .inr (by decide)⟩)), State.get_set_same, hf]
  · rw [keys _ _ _ _ rfl rfl rfl rfl, keys _ _ _ _ rfl rfl rfl rfl, keys _ _ _ _ rfl rfl rfl rfl, keys _ _ _ _ rfl rfl rfl rfl,
      State.get_set_same, hc]

/-- A group without a failed bank goes on as it is (R29). -/
theorem State.testGroup_sound (s : State) (k skip : Nat) : s.testGroup k 0 skip = s := by
  have hbad : ((List.range 17).filter fun i => (0 : BitVec 17).getLsbD i && !bit skip i) = [] := by simp
  unfold State.testGroup
  rw [hbad]
  dsimp only
  split <;> rfl

/-! ## Each step that passes -/

/-- Step 1: eight agreeing samples are the scale (R2, R571). -/
theorem execStrapSample_agree (x : BitVec 2) (s : State) (h : s.atStep 1 = true) (hw : s.boot.wake = false)
    (hr : s.boot.replacing = none) :
    ∃ t, execStrapSample (List.replicate 8 x) s = .next t ∧ t.scale = x.toNat + 1 ∧ t.bootStep = 2 ∧ t.boot = s.boot := by
  refine ⟨((s.setScale (x.toNat + 1)).foundingReady [0, 20]).set BootStatus.adr BootStatus.step 2, ?_, ?_, ?_, ?_⟩
  · unfold execStrapSample
    rw [if_pos (by simp [h, hw])]
    exact congrArg _ (State.stepDone_of_none _ 1 (by simp [hr]) (by decide))
  · have hx := x.isLt
    rw [State.scale_set_step, State.scale_foundingReady, State.scale_setScale, Nat.mod_eq_of_lt (by omega)]
  · exact State.bootStep_set _ 2
  · simp

theorem execStrapSample_disagree (l : List (BitVec 2)) (s : State) (h : l.all (fun x => x == l.headD 0) = false) :
    execStrapSample l s = .next s := by
  unfold execStrapSample
  rw [h, Bool.and_false, if_neg Bool.false_ne_true]

/-- Step 2: the self-tests pass (R67). -/
theorem execSelfTest_pass (s : State) (h : s.atStep 2 = true) (hr : s.boot.replacing = none) :
    execSelfTest true true s = .next ((s.foundingReady [1]).set BootStatus.adr BootStatus.step 3) := by
  unfold execSelfTest
  rw [if_pos h, if_pos (by rfl), State.stepDone_of_none _ 2 (by simp [hr]) (by decide)]

/-- Step 3: the fuse rows are read (R89, R563). -/
theorem execFuseRead_pass (s : State) (h : s.atStep 3 = true) (hr : s.boot.replacing = none) :
    ∃ t, execFuseRead true s = .next t ∧ t.bootStep = 4 ∧
      t.boot = { s.boot with romKey := some s.boot.fuses.duk, dukReg := some s.boot.fuses.duk } ∧
      t.get BootEpoch.adr BootEpoch.fwEpoch = countPositions s.boot.fuses.fwPos ∧
      t.get BootEpoch.adr BootEpoch.cfgEpoch = countPositions s.boot.fuses.cfgPos := by
  obtain ⟨hf, hc⟩ := s.fuseCopies_epochs
  refine ⟨(s.fuseCopies.modBoot fun b => { b with romKey := some b.fuses.duk, dukReg := some b.fuses.duk }).set
    BootStatus.adr BootStatus.step 4, ?_, State.bootStep_set _ 4, ?_, ?_, ?_⟩
  · unfold execFuseRead
    rw [s.replStep_of_none 3 hr, if_neg (by simp), if_pos h, if_pos rfl, State.stepDone_of_none _ 3 (by simp [hr]) (by decide)]
  · simp
  · rw [State.get_set_apart _ _ _ _ _ _ (.inl (by decide))]
    exact hf
  · rw [State.get_set_apart _ _ _ _ _ _ (.inl (by decide))]
    exact hc

/-- Step 4: every bank passes its test (R67). -/
theorem execBankTest_pass (ut uc ct cc : BitVec 17) (s : State) (h : s.atStep 4 = true) (hw : s.boot.wake = false)
    (hr : s.boot.replacing = none) :
    execBankTest 0 0 0 0 ut uc ct cc s = .next ((s.foundingReady [2, 14, 19, 23]).set BootStatus.adr BootStatus.step 5) := by
  unfold execBankTest
  rw [if_pos h]
  simp only [hw, Bool.false_eq_true, if_false, State.testGroup_sound, s.halted_of_atStep 4 h]
  rw [State.stepDone_of_none _ 4 (by simp [hr]) (by decide)]

/-- Step 5: SFDP answers (R71). -/
theorem execSfdpDiscovery_pass (mhz cap : Nat) (s : State) (h : s.atStep 5 = true) (hr : s.boot.replacing = none) :
    execSfdpDiscovery true true mhz cap s =
      .next ((s.modBoot fun b => { b with sfdp := some (mhz, cap) }).set BootStatus.adr BootStatus.step 6) := by
  unfold execSfdpDiscovery
  rw [if_pos h, if_pos (by rfl), State.stepDone_of_none _ 5 (by exact hr) (by decide)]

/-- Step 6: the first valid copy of the header is taken (R73). -/
theorem execFlashHeaderCheck_pass (c0 c1 : List Byte) (mhz cap : Nat) (s : State) (h : s.atStep 6 = true)
    (hr : s.boot.replacing = none) (hs : s.boot.sfdp = some (mhz, cap)) :
    (hdrValid cap c0 = true → execFlashHeaderCheck c0 c1 s =
      .next ((s.modBoot fun b => { b with hdr := some (parseHdr c0) }).set BootStatus.adr BootStatus.step 7)) ∧
    (hdrValid cap c0 = false → hdrValid cap c1 = true → execFlashHeaderCheck c0 c1 s =
      .next ((s.modBoot fun b => { b with hdr := some (parseHdr c1) }).set BootStatus.adr BootStatus.step 7)) := by
  unfold execFlashHeaderCheck
  rw [h, Bool.true_or, if_pos rfl, hs]
  dsimp only
  constructor
  · intro h0
    rw [if_pos h0, State.stepDone_of_none _ 6 (by exact hr) (by decide)]
  · intro h0 h1
    rw [h0, if_neg (by simp), if_pos h1, State.stepDone_of_none _ 6 (by exact hr) (by decide)]

/-- Step 8: the four slot headers are kept (R75). -/
theorem execSlotHeaderRead_pass (a b c d : List Byte) (s : State) (h : s.atStep 8 = true) (hr : s.boot.replacing = none) :
    execSlotHeaderRead a b c d s = .next ((s.modBoot fun x => { x with
      slotHdrs := [a.take 256, b.take 256, c.take 256, d.take 256], reads := [[], [], [], []], reread := none }).set
        BootStatus.adr BootStatus.step 9) := by
  unfold execSlotHeaderRead
  rw [h, Bool.true_or, if_pos rfl, State.stepDone_of_none _ 8 (by exact hr) (by decide)]
  rfl

/-! ## Bursts (R47, R81) -/

/-- The body of the slot's image, as far as it has arrived, stands at the load address. -/
theorem State.mem_loadBody (s : State) (i : Nat) :
    (s.loadBase, ((s.boot.reads.getD i []).take (imgLength (s.boot.reads.getD i []))).drop 256) ∈ (s.loadBody i).boot.loaded :=
  List.mem_append_right _ List.mem_cons_self

theorem execFlashBurst_cfgA (d : List Byte) (s : State) (hd : d.length ≤ 4096) (h : s.atStep 10 = true) :
    execFlashBurst .cfgA d s = .next (s.modBoot fun b => { b with reads := b.reads.modify 2 (· ++ d) }) := by
  simp only [execFlashBurst, List.take_of_length_le hd, h, if_true, State.slotBurst]

theorem execFlashBurst_fwB (d : List Byte) (s : State) (hd : d.length ≤ 4096) (h : s.atStep 9 = true) :
    execFlashBurst .fwB d s = .next ((s.slotBurst 1 d).loadBody 1) := by
  simp only [execFlashBurst, List.take_of_length_le hd, h, Bool.true_or, if_true]

theorem execFlashBurst_apply (d : List Byte) (s : State) (hd : d.length ≤ 4096) (h : s.get CfgStatus.adr CfgStatus.phase = 2)
    (hh : s.halted = false) :
    execFlashBurst .apply d s = .next (s.modBoot fun b => { b with applyBuf := b.applyBuf ++ d }) := by
  simp only [execFlashBurst, List.take_of_length_le hd]
  rw [if_pos ⟨h, by rw [hh]; rfl⟩]

/-- Settles O13: each step that passes, and the bursts that its reads bring. -/
theorem startStepsPass : Obligations.StartStepsPass :=
  ⟨execStrapSample_agree, execStrapSample_disagree, execSelfTest_pass, execFuseRead_pass, execBankTest_pass, execSfdpDiscovery_pass,
    execFlashHeaderCheck_pass, execSlotHeaderRead_pass, execFlashBurst_cfgA,
    fun d s hd h => ⟨_, execFlashBurst_fwB d s hd h, rfl, rfl, (s.slotBurst 1 d).mem_loadBody 1⟩, execFlashBurst_apply⟩

end Sys2Proof.Machine
end

section
/-!
The timebase, operation by operation: what each leaves alone, and what it makes of the validities, the selection and the counts
of the two domains.
-/

namespace Sys2Proof.Machine

/-! ## What stays -/

/-- From `s` to `t` the time state, the service controller's state and the words of `p`, written and in force, stay. -/
structure Keeps (p : Nat → Prop) (s t : State) : Prop where
  time : t.time = s.time
  svc : t.svc = s.svc
  rd : ∀ a, p a → t.rd a = s.rd a
  inForce : ∀ a, p a → t.inForce a = s.inForce a

/-- The words of the timebase's own registers, TU_CTRL to TU_DOMAIN. -/
abbrev TuWord (a : Nat) : Prop := 0x301000 ≤ a ∧ a < 0x302000

/-- The words that no change of a validity writes. -/
abbrev NotStatus (a : Nat) : Prop := a < TuStatus.adr ∨ TuStatus.adr + 4 ≤ a

/-- The words that no change of a validity or of the selection writes. -/
abbrev NotSelection (a : Nat) : Prop := NotStatus a ∧ (a < TuCtrl.adr ∨ TuCtrl.adr + 4 ≤ a)

section
variable {p q : Nat → Prop} {s t u : State}

theorem Keeps.refl (p : Nat → Prop) (s : State) : Keeps p s s := ⟨rfl, rfl, fun _ _ => rfl, fun _ _ => rfl⟩

theorem Keeps.trans (h : Keeps p s t) (g : Keeps p t u) : Keeps p s u :=
  ⟨g.time.trans h.time, g.svc.trans h.svc, fun a ha => (g.rd a ha).trans (h.rd a ha), fun a ha => (g.inForce a ha).trans (h.inForce a ha)⟩

theorem Keeps.mono (h : Keeps p s t) (hq : ∀ a, q a → p a) : Keeps q s t :=
  ⟨h.time, h.svc, fun a ha => h.rd a (hq a ha), fun a ha => h.inForce a (hq a ha)⟩

theorem Keeps.get (h : Keeps p s t) (b : Nat) (f : Fld) (hp : ∀ j < f.words, p (b + f.off + 4 * j)) : t.get b f = s.get b f :=
  fieldOf_congr _ _ b f fun j hj => h.rd _ (hp j hj)

theorem Keeps.act (h : Keeps p s t) (b : Nat) (f : Fld) (hp : ∀ j < f.words, p (b + f.off + 4 * j)) : t.act b f = s.act b f :=
  fieldOf_congr _ _ b f fun j hj => h.inForce _ (hp j hj)

/-- A field of one word among those kept reads as before, written and in force. -/
theorem Keeps.get_word (h : Keeps p s t) (b : Nat) (f : Fld) (hw : f.words = 1) (hp : p (b + f.off)) : t.get b f = s.get b f :=
  h.get b f fun j hj => by
    obtain rfl : j = 0 := by omega
    exact hp

theorem Keeps.act_word (h : Keeps p s t) (b : Nat) (f : Fld) (hw : f.words = 1) (hp : p (b + f.off)) : t.act b f = s.act b f :=
  h.act b f fun j hj => by
    obtain rfl : j = 0 := by omega
    exact hp

theorem Keeps.wdLimit (h : Keeps p s t) (d : Nat) (hp : p (TuDom.adr d + 4)) : t.wdLimit d = s.wdLimit d := by
  unfold State.wdLimit
  rw [h.act_word _ TuDom.timeout rfl hp]

theorem Keeps.domValid (h : Keeps p s t) (d : Nat) (hp : p TuStatus.adr) : t.domValid d = s.domValid d := by
  unfold State.domValid
  rw [h.get_word TuStatus.adr TuStatus.valid rfl hp]

theorem Keeps.selected (h : Keeps p s t) (hp : p TuStatus.adr) : t.selected = s.selected := h.get_word _ _ rfl hp

theorem Keeps.autoSwitch (h : Keeps p s t) (hp : p TuCtrl.adr) :
    t.actB TuCtrl.adr TuCtrl.autoSwitch = s.actB TuCtrl.adr TuCtrl.autoSwitch := by
  unfold State.actB
  rw [h.act_word TuCtrl.adr TuCtrl.autoSwitch rfl hp]

end

theorem timeout_notStatus (d : Nat) : NotStatus (TuDom.adr d + 4) := by
  simp only [NotStatus, TuDom.adr, TuStatus.adr]
  omega

theorem timeout_notSelection (d : Nat) : NotSelection (TuDom.adr d + 4) := by
  simp only [NotSelection, NotStatus, TuDom.adr, TuStatus.adr, TuCtrl.adr]
  omega

theorem timeout_tuWord (d : Nat) (hd : d < 2) : TuWord (TuDom.adr d + 4) := by
  simp only [TuWord, TuDom.adr]
  omega

theorem keeps_set (s : State) (b : Nat) (f : Fld) (v : Nat) : Keeps (fun a => a < b + f.off ∨ b + f.off + 4 * f.words ≤ a) s (s.set b f v) :=
  ⟨by simp, by simp, fun a ha => s.rd_set_out b f v a ha, fun a ha => s.inForce_set_out b f v a ha⟩

theorem keeps_note (p : Nat → Prop) (s : State) (u n d : Nat) : Keeps p s (s.note u n d) :=
  ⟨rfl, rfl, fun _ _ => rfl, fun _ _ => rfl⟩

theorem keeps_startClocks (p : Nat → Prop) (s : State) (cs : List Nat) : Keeps p s (s.startClocks cs) :=
  ⟨rfl, rfl, fun _ _ => rfl, fun _ _ => rfl⟩

theorem quietWord_of_tuWord (a : Nat) (h : TuWord a) : QuietWord a := by
  unfold QuietWord
  omega

theorem keeps_raise (s : State) (u n d : Nat) : Keeps TuWord s (s.raise u n d) :=
  ⟨by simp, by simp, fun a ha => s.rd_raise u n d a (quietWord_of_tuWord a ha),
    fun a ha => s.inForce_raise u n d a (quietWord_of_tuWord a ha)⟩

theorem keeps_announce (s : State) : Keeps TuWord s s.announce :=
  ⟨by simp, by simp, fun a ha => s.rd_announce a (quietWord_of_tuWord a ha), fun a ha => s.inForce_announce a (quietWord_of_tuWord a ha)⟩

/-- A write of a field of a register outside the timebase's. -/
theorem keeps_set_apart (s : State) (b : Nat) (f : Fld) (v : Nat) (h : b + f.off + 4 * f.words ≤ 0x301000 ∨ 0x302000 ≤ b + f.off) :
    Keeps TuWord s (s.set b f v) :=
  (keeps_set s b f v).mono fun a ha => by omega

theorem keeps_set_status (s : State) (f : Fld) (v : Nat) (h : f.off = 0) (hw : f.words = 1) : Keeps NotStatus s (s.set TuStatus.adr f v) :=
  (keeps_set s _ f v).mono fun a ha => by
    rw [h, hw]
    exact ha

/-! ## Validities and selection -/

theorem State.selected_lt (s : State) : s.selected < 2 := Nat.mod_lt _ (by decide)

theorem State.valid_lt (s : State) : s.get TuStatus.adr TuStatus.valid < 4 := Nat.mod_lt _ (by decide)

/-- Of two domains, the one that is not `k` is the other one. -/
theorem eq_one_sub_of_ne {k e : Nat} (hk : k < 2) (he : e < 2) (h : e ≠ k) : e = 1 - k := by omega

theorem bit_clear_pair : ∀ v < 4, ∀ d < 2, ∀ e < 2, bit v d = true → bit ((v - 2 ^ d) % 2 ^ 2) e = (bit v e && e != d) := by
  decide

theorem bit_set_pair : ∀ v < 4, ∀ d < 2, ∀ e < 2, bit v d = false → bit ((v + 2 ^ d) % 2 ^ 2) e = (bit v e || e == d) := by
  decide

theorem State.domValid_set_apart (s : State) (b : Nat) (f : Fld) (v d : Nat) (h : f.Apart b TuStatus.adr TuStatus.valid) :
    (s.set b f v).domValid d = s.domValid d := by
  unfold State.domValid
  rw [State.get_set_apart _ _ _ _ _ _ h]

theorem State.selected_set_apart (s : State) (b : Nat) (f : Fld) (v : Nat) (h : f.Apart b TuStatus.adr TuStatus.selected) :
    (s.set b f v).selected = s.selected :=
  State.get_set_apart _ _ _ _ _ _ h

/-! ## A domain becomes invalid (R104) -/

theorem State.keeps_loseDomain (s : State) (d : Nat) : Keeps NotStatus s (s.loseDomain d) := by
  unfold State.loseDomain
  split
  · exact (keeps_set_status s _ _ rfl rfl).trans (keeps_note _ _ _ _ _)
  · exact Keeps.refl _ s

theorem State.domValid_loseDomain (s : State) (d e : Nat) (hd : d < 2) (he : e < 2) :
    (s.loseDomain d).domValid e = (s.domValid e && e != d) := by
  unfold State.loseDomain
  by_cases h : s.domValid d = true
  · rw [if_pos h]
    unfold State.domValid
    rw [State.get_note, State.get_set_same]
    exact bit_clear_pair _ s.valid_lt d hd e he h
  · rw [if_neg h]
    by_cases hde : e = d
    · simp [hde, h]
    · simp [hde]

@[simp] theorem State.selected_loseDomain (s : State) (d : Nat) : (s.loseDomain d).selected = s.selected := by
  unfold State.loseDomain
  split
  · exact s.selected_set_apart _ _ _ (.inr (.inr ⟨rfl, .inr (by decide)⟩))
  · rfl

/-- The watchdog of domain `d` runs, and its count has reached the limit (R104). -/
abbrev State.Lapsed (s : State) (d : Nat) : Prop := 0 < s.wdLimit d ∧ s.wdLimit d ≤ s.time.since d

theorem Keeps.lapsed {p : Nat → Prop} {s t : State} (h : Keeps p s t) (d : Nat) (hp : p (TuDom.adr d + 4)) : t.Lapsed d ↔ s.Lapsed d := by
  unfold State.Lapsed
  rw [h.wdLimit d hp, h.time]

theorem State.keeps_wdJudge (s : State) (d : Nat) : Keeps NotStatus s (s.wdJudge d) := by
  unfold State.wdJudge
  split
  · exact s.keeps_loseDomain d
  · exact Keeps.refl _ s

theorem State.domValid_wdJudge (s : State) (d e : Nat) (hd : d < 2) (he : e < 2) :
    (s.wdJudge d).domValid e = (s.domValid e && !(e == d && decide (s.Lapsed d))) := by
  unfold State.wdJudge
  by_cases h : s.Lapsed d
  · rw [if_pos h, s.domValid_loseDomain d e hd he]
    simp [h, bne]
  · rw [if_neg h]
    simp [h]

@[simp] theorem State.selected_wdJudge (s : State) (d : Nat) : (s.wdJudge d).selected = s.selected := by
  unfold State.wdJudge
  split
  · exact s.selected_loseDomain d
  · rfl

/-! ## The switch (R105) -/

theorem State.keeps_selectDomain (s : State) (d : Nat) (auto : Bool) : Keeps NotSelection s (s.selectDomain d auto) := by
  unfold State.selectDomain
  split
  · exact Keeps.refl _ s
  · refine Keeps.trans ?_ (keeps_note _ _ _ _ _)
    refine Keeps.trans ((keeps_set_status s TuStatus.selected d rfl rfl).mono fun a ha => ha.1) ?_
    exact (keeps_set _ TuCtrl.adr TuCtrl.domainSel d).mono fun a ha => ha.2

theorem State.domValid_selectDomain (s : State) (d e : Nat) (auto : Bool) : (s.selectDomain d auto).domValid e = s.domValid e := by
  unfold State.selectDomain
  split
  · rfl
  · show ((s.set TuStatus.adr TuStatus.selected d).set TuCtrl.adr TuCtrl.domainSel d).domValid e = _
    rw [State.domValid_set_apart _ TuCtrl.adr TuCtrl.domainSel _ _ (.inl (by decide)),
      State.domValid_set_apart _ _ TuStatus.selected _ _ (.inr (.inr ⟨rfl, .inl (by decide)⟩))]

theorem State.selected_selectDomain (s : State) (d : Nat) (auto : Bool) (hd : d < 2) : (s.selectDomain d auto).selected = d := by
  unfold State.selectDomain
  split
  · assumption
  · show ((s.set TuStatus.adr TuStatus.selected d).set TuCtrl.adr TuCtrl.domainSel d).selected = d
    rw [State.selected_set_apart _ TuCtrl.adr TuCtrl.domainSel _ (.inl (by decide))]
    exact (State.get_set_same _ _ _ _).trans (Nat.mod_eq_of_lt hd)

theorem State.keeps_autoSwitch (s : State) (v0 : Nat → Bool) : Keeps NotSelection s (s.autoSwitch v0) := by
  unfold State.autoSwitch
  dsimp only
  split
  · exact s.keeps_selectDomain _ _
  · exact Keeps.refl _ s

@[simp] theorem State.domValid_autoSwitch (s : State) (v0 : Nat → Bool) (e : Nat) : (s.autoSwitch v0).domValid e = s.domValid e := by
  unfold State.autoSwitch
  dsimp only
  split
  · exact s.domValid_selectDomain _ e _
  · rfl

/-- The selected domain has become invalid while the other one is VALID: AUTO_SWITCH selects that one. -/
theorem State.selected_autoSwitch (s : State) (v0 : Nat → Bool) (ha : s.actB TuCtrl.adr TuCtrl.autoSwitch = true)
    (h0 : v0 s.selected = true) (h1 : s.domValid s.selected = false) (h2 : s.domValid (1 - s.selected) = true) :
    (s.autoSwitch v0).selected = 1 - s.selected := by
  unfold State.autoSwitch
  rw [if_pos (by simp [ha, h0, h1, h2])]
  exact s.selected_selectDomain _ _ (by omega)

/-- Nothing switches to a domain that is not VALID. -/
theorem State.autoSwitch_of_invalid (s : State) (v0 : Nat → Bool) (h : s.domValid (1 - s.selected) = false) : s.autoSwitch v0 = s := by
  simp [State.autoSwitch, h]

/-- Nothing switches where no validity has changed. -/
theorem State.autoSwitch_of_unchanged (s : State) (v0 : Nat → Bool) (h : ∀ e < 2, s.domValid e = v0 e) : s.autoSwitch v0 = s := by
  have hk := s.selected_lt
  have h1 := h s.selected hk
  have h2 := h (1 - s.selected) (by omega)
  unfold State.autoSwitch
  rw [if_neg]
  simp only [← h1, ← h2, Bool.and_eq_true, Bool.or_eq_true, Bool.not_eq_true']
  rintro ⟨⟨⟨_, ha⟩, hb⟩, hc | hd⟩
  · rw [ha] at hc; exact absurd hc (by decide)
  · rw [hb] at hd; exact absurd hd (by decide)

/-! ## Both watchdogs and the switch -/

/-- Both watchdogs are judged and the switch is decided, against the validities `v0` before (R104, R105). -/
def State.judged (s : State) (v0 : Nat → Bool) : State := ((s.wdJudge 0).wdJudge 1).autoSwitch v0

theorem State.keeps_watchdogs (s : State) : Keeps NotStatus s ((s.wdJudge 0).wdJudge 1) :=
  (s.keeps_wdJudge 0).trans ((s.wdJudge 0).keeps_wdJudge 1)

theorem State.domValid_watchdogs (s : State) (e : Nat) (he : e < 2) :
    ((s.wdJudge 0).wdJudge 1).domValid e = (s.domValid e && !decide (s.Lapsed e)) := by
  have hl : (s.wdJudge 0).Lapsed 1 ↔ s.Lapsed 1 := (s.keeps_wdJudge 0).lapsed 1 (timeout_notStatus 1)
  rw [State.domValid_wdJudge _ 1 e (by decide) he, State.domValid_wdJudge _ 0 e (by decide) he]
  obtain rfl | rfl : e = 0 ∨ e = 1 := by omega
  · simp
  · simp [hl]

theorem State.keeps_judged (s : State) (v0 : Nat → Bool) : Keeps NotSelection s (s.judged v0) :=
  (s.keeps_watchdogs.mono fun _ ha => ha.1).trans (State.keeps_autoSwitch _ v0)

/-- A domain stays VALID unless its watchdog has ended. -/
theorem State.domValid_judged (s : State) (v0 : Nat → Bool) (e : Nat) (he : e < 2) :
    (s.judged v0).domValid e = (s.domValid e && !decide (s.Lapsed e)) := by
  unfold State.judged
  rw [State.domValid_autoSwitch, s.domValid_watchdogs e he]

theorem State.selected_watchdogs (s : State) : ((s.wdJudge 0).wdJudge 1).selected = s.selected := by simp

/-- The selected domain has become invalid, and the other one stays VALID: AUTO_SWITCH selects it. -/
theorem State.selected_judged (s : State) (v0 : Nat → Bool) (d : Nat) (hd : d < 2) (hs : s.selected = d)
    (ha : s.actB TuCtrl.adr TuCtrl.autoSwitch = true) (h0 : v0 d = true) (h1 : s.domValid d = false)
    (h2 : s.domValid (1 - d) = true) (hl : ¬ s.Lapsed (1 - d)) : (s.judged v0).selected = 1 - d := by
  have hk := s.selected_watchdogs.trans hs
  unfold State.judged
  rw [State.selected_autoSwitch, hk]
  · rw [s.keeps_watchdogs.autoSwitch (by decide), ha]
  · rw [hk, h0]
  · rw [hk, s.domValid_watchdogs d hd, h1, Bool.false_and]
  · rw [hk, s.domValid_watchdogs _ (by omega), h2]
    simp [hl]

/-- Both domains are invalid: the selection stays. -/
theorem State.selected_judged_of_invalid (s : State) (v0 : Nat → Bool) (h : ∀ e < 2, s.Lapsed e) : (s.judged v0).selected = s.selected := by
  have hk := s.selected_lt
  unfold State.judged
  rw [State.autoSwitch_of_invalid, s.selected_watchdogs]
  rw [s.selected_watchdogs, s.domValid_watchdogs _ (by omega)]
  simp [h (1 - s.selected) (by omega)]

/-- No watchdog has ended and no validity has changed: the selection stays. -/
theorem State.selected_judged_of_unchanged (s : State) (v0 : Nat → Bool) (h : ∀ e < 2, s.domValid e = v0 e) (hl : ∀ e < 2, ¬ s.Lapsed e) :
    (s.judged v0).selected = s.selected := by
  unfold State.judged
  rw [State.autoSwitch_of_unchanged, s.selected_watchdogs]
  intro e he
  rw [s.domValid_watchdogs e he, h e he]
  simp [hl e he]

/-! ## HOLDOVER and LOCKED (R102, R106) -/

theorem State.keeps_holdover (s : State) : Keeps NotStatus s s.holdover := by
  unfold State.holdover
  dsimp only
  split
  · exact (keeps_set_status s _ _ rfl rfl).trans (keeps_note _ _ _ _ _)
  · exact keeps_set_status s _ _ rfl rfl

@[simp] theorem State.domValid_holdover (s : State) (e : Nat) : s.holdover.domValid e = s.domValid e := by
  have h : ∀ v, (s.set TuStatus.adr TuStatus.holdover v).domValid e = s.domValid e := fun v =>
    s.domValid_set_apart _ _ _ e (.inr (.inr ⟨rfl, .inr (by decide)⟩))
  unfold State.holdover
  dsimp only
  split
  · exact h _
  · exact h _

@[simp] theorem State.selected_holdover (s : State) : s.holdover.selected = s.selected := by
  have h : ∀ v, (s.set TuStatus.adr TuStatus.holdover v).selected = s.selected := fun v =>
    s.selected_set_apart _ _ _ (.inr (.inr ⟨rfl, .inr (by decide)⟩))
  unfold State.holdover
  dsimp only
  split
  · exact h _
  · exact h _

theorem State.keeps_lockUpdate (s : State) : Keeps NotStatus s s.lockUpdate := by
  have h : ∀ v w, Keeps NotStatus s ((s.set TuStatus.adr TuStatus.locked v).set TuStatus.adr TuStatus.slewing w) := fun v w =>
    (keeps_set_status s _ _ rfl rfl).trans (keeps_set_status _ _ _ rfl rfl)
  unfold State.lockUpdate
  dsimp only
  split
  · exact (h _ _).trans (keeps_note _ _ _ _ _)
  · exact h _ _

@[simp] theorem State.domValid_lockUpdate (s : State) (e : Nat) : s.lockUpdate.domValid e = s.domValid e := by
  have h : ∀ v w, ((s.set TuStatus.adr TuStatus.locked v).set TuStatus.adr TuStatus.slewing w).domValid e = s.domValid e := fun v w => by
    rw [State.domValid_set_apart _ _ TuStatus.slewing _ _ (.inr (.inr ⟨rfl, .inr (by decide)⟩)),
      State.domValid_set_apart _ _ TuStatus.locked _ _ (.inr (.inr ⟨rfl, .inr (by decide)⟩))]
  unfold State.lockUpdate
  dsimp only
  split
  · exact h _ _
  · exact h _ _

@[simp] theorem State.selected_lockUpdate (s : State) : s.lockUpdate.selected = s.selected := by
  have h : ∀ v w, ((s.set TuStatus.adr TuStatus.locked v).set TuStatus.adr TuStatus.slewing w).selected = s.selected := fun v w => by
    rw [State.selected_set_apart _ _ TuStatus.slewing _ (.inr (.inr ⟨rfl, .inr (by decide)⟩)),
      State.selected_set_apart _ _ TuStatus.locked _ (.inr (.inr ⟨rfl, .inr (by decide)⟩))]
  unfold State.lockUpdate
  dsimp only
  split
  · exact h _ _
  · exact h _ _

end Sys2Proof.Machine
end

section
/-!
Writes of the timebase that take effect at once, and those that cross into a tick.
-/

namespace Sys2Proof.Machine

/-! ## What a write does before the advance -/

/-- A write whose whole effect comes before the advance of its tick: any but DOMAIN_SEL, ALIGN and SNAP. -/
def TuWrite.early : TuWrite → Bool
  | .select _ | .align | .snap => false
  | _ => true

theorem State.tuSelect_of_early (s : State) (w : TuWrite) (h : w.early = true) : s.tuSelect w = s := by
  cases w with
  | select d => exact absurd h (by simp [TuWrite.early])
  | _ => rfl

theorem State.tuLate_of_early (s : State) (w : TuWrite) (h : w.early = true) : s.tuLate w = s := by
  cases w with
  | align => exact absurd h (by simp [TuWrite.early])
  | snap => exact absurd h (by simp [TuWrite.early])
  | _ => rfl

/-- REFRESH restarts the count, and writes no word but TU_STATUS (R104). -/
theorem State.keeps_refresh (s : State) (d : Nat) : Keeps NotStatus (s.modTime fun t => t.setSince d 0) (s.tuEarly (.refresh d)) := by
  unfold State.tuEarly
  dsimp only
  split
  · exact Keeps.refl _ _
  · exact keeps_set_status _ _ _ rfl rfl

theorem State.domValid_refresh (s : State) (d : Nat) (hd : d < 2) : (s.tuEarly (.refresh d)).domValid d = true := by
  unfold State.tuEarly
  dsimp only
  split
  · assumption
  · rename_i h
    unfold State.domValid
    rw [State.get_set_same]
    exact (bit_set_pair _ (State.valid_lt _) d hd d hd (Bool.eq_false_iff.2 h)).trans (by simp)

theorem Time.since_setSince (t : Time) (d n : Nat) : (t.setSince d n).since d = n := by
  unfold Time.setSince Time.since
  split <;> rfl

/-- The watchdog of a domain that is refreshed has not ended. -/
theorem State.not_lapsed_refresh (s : State) (d : Nat) : ¬ (s.tuEarly (.refresh d)).Lapsed d := by
  rintro ⟨h1, h2⟩
  rw [(s.keeps_refresh d).time] at h2
  have h3 : (s.modTime fun t => t.setSince d 0).time.since d = 0 := s.time.since_setSince d 0
  omega

/-- A word that comes into force changes no other, and nothing that is written. -/
theorem keeps_setForce (s : State) (a : Nat) (v : Word) : Keeps (fun b => b ≠ a) s (s.setForce a v) :=
  ⟨rfl, rfl, fun _ _ => rfl, fun b hb => by rw [State.inForce_setForce, if_neg hb]⟩

theorem timeout_ne_status (d : Nat) : TuStatus.adr ≠ TuDom.adr d + 4 := by
  simp only [TuDom.adr, TuStatus.adr]
  omega

theorem timeout_ne_other {d e : Nat} (h : e ≠ d) : TuDom.adr e + 4 ≠ TuDom.adr d + 4 := by
  simp only [TuDom.adr]
  omega

/-! ## At once, in a unit that is not READY (R10) -/

/-- HOLDOVER follows, and the events of the cycle are announced. -/
def State.concluded (s : State) : State := s.holdover.announce

theorem State.keeps_concluded (s : State) : Keeps (fun a => TuWord a ∧ NotStatus a) s s.concluded :=
  (s.keeps_holdover.mono fun _ ha => ha.2).trans ((keeps_announce s.holdover).mono fun _ ha => ha.1)

theorem State.domValid_concluded (s : State) (e : Nat) : s.concluded.domValid e = s.domValid e :=
  ((keeps_announce s.holdover).domValid e (by decide)).trans (s.domValid_holdover e)

theorem State.selected_concluded (s : State) : s.concluded.selected = s.selected :=
  ((keeps_announce s.holdover).selected (by decide)).trans s.selected_holdover

theorem State.time_concluded (s : State) : s.concluded.time = s.time := s.keeps_concluded.time

theorem State.tuWrite_ready (s : State) (w : TuWrite) (h : s.ready 3 = true) :
    s.tuWrite w = s.modTime fun t => { t with waiting := t.waiting ++ [(2, w)] } := by
  unfold State.tuWrite
  rw [if_pos h]

theorem State.tuWrite_held (s : State) (w : TuWrite) (h : s.ready 3 = false) (he : w.early = true) :
    s.tuWrite w = ((s.tuEarly w).judged s.domValid).concluded := by
  unfold State.tuWrite
  rw [if_neg (by simp [h]), State.tuSelect_of_early _ w he, State.tuLate_of_early _ w he]
  rfl

theorem State.time_tuWrite_held (s : State) (w : TuWrite) (h : s.ready 3 = false) (he : w.early = true) :
    (s.tuWrite w).time = (s.tuEarly w).time := by
  rw [s.tuWrite_held w h he, State.time_concluded, (State.keeps_judged _ _).time]

theorem State.domValid_tuWrite_held (s : State) (w : TuWrite) (h : s.ready 3 = false) (he : w.early = true) (e : Nat) (hlt : e < 2) :
    (s.tuWrite w).domValid e = ((s.tuEarly w).domValid e && !decide ((s.tuEarly w).Lapsed e)) := by
  rw [s.tuWrite_held w h he, State.domValid_concluded, State.domValid_judged _ _ e hlt]

theorem State.selected_tuWrite_held (s : State) (w : TuWrite) (h : s.ready 3 = false) (he : w.early = true) :
    (s.tuWrite w).selected = ((s.tuEarly w).judged s.domValid).selected := by
  rw [s.tuWrite_held w h he, State.selected_concluded]

/-! ## A new TIMEOUT (R57, R104) -/

/-- The word that a write of TIMEOUT of domain `d` brings into force. -/
def State.timeoutWord (s : State) (d ms : Nat) : Word := merge 0xFFFF#32 (s.rd (TuDom.adr d + 4)) (BitVec.ofNat 32 ms)

/-- TIMEOUT of domain `d` reads as `ms`, and the one in force stays. -/
def State.timeoutStored (s : State) (d ms : Nat) : State :=
  (s.setReg (TuDom.adr d + 4) (s.timeoutWord d ms)).setForce (TuDom.adr d + 4) (s.inForce (TuDom.adr d + 4))

theorem State.tuStore_timeout (s : State) (d ms : Nat) :
    s.tuStore (TuDom.adr d + 4) 0xFFFF#32 (BitVec.ofNat 32 ms) =
      (s.timeoutStored d ms).tuWrite (.word (TuDom.adr d + 4) (s.timeoutWord d ms)) := rfl

theorem State.inForce_timeoutStored (s : State) (d ms b : Nat) : (s.timeoutStored d ms).inForce b = s.inForce b := by
  unfold State.timeoutStored
  rw [State.inForce_setForce]
  split
  · rename_i h
    rw [h]
  · rename_i h
    exact State.inForce_setReg_ne _ _ _ _ h

theorem State.keeps_timeoutStored (s : State) (d ms : Nat) : Keeps (fun b => b ≠ TuDom.adr d + 4) s (s.timeoutStored d ms) :=
  ⟨rfl, rfl, fun b hb => by rw [State.timeoutStored, State.rd_setForce, State.rd_setReg, if_neg hb],
    fun b _ => s.inForce_timeoutStored d ms b⟩

/-- A reader that sees the written bits of TIMEOUT merged into its word reads the value. -/
theorem fieldOf_timeout (r r' : Nat → Word) (d ms : Nat) (hms : ms < 2 ^ 16)
    (h : r' (TuDom.adr d + 4) = merge 0xFFFF#32 (r (TuDom.adr d + 4)) (BitVec.ofNat 32 ms)) :
    fieldOf r' (TuDom.adr d) TuDom.timeout = ms := by
  refine (fieldOf_same r r' (TuDom.adr d) TuDom.timeout ms fun j hj => ?_).trans (Nat.mod_eq_of_lt hms)
  obtain rfl : j = 0 := by
    have hw : TuDom.timeout.words = 1 := rfl
    omega
  exact h

theorem State.get_timeoutStored (s : State) (d ms : Nat) (hms : ms < 2 ^ 16) :
    (s.timeoutStored d ms).get (TuDom.adr d) TuDom.timeout = ms :=
  fieldOf_timeout s.rd _ d ms hms (by rw [State.timeoutStored, State.rd_setForce, State.rd_setReg, if_pos rfl, State.timeoutWord])

theorem State.act_timeoutStored (s : State) (d ms b : Nat) (f : Fld) : (s.timeoutStored d ms).act b f = s.act b f :=
  fieldOf_congr _ _ b f fun _ _ => s.inForce_timeoutStored d ms _

end Sys2Proof.Machine
end

section
/-!
The commands of the two domains, with the path of the write open.
-/

namespace Sys2Proof.Machine

section
variable (o : Sys2Proof.Origin) (d : Fin 2) (s : State)

theorem execDomainStep_open (v : DWord) (h : s.Open o 3 (0x1110 + 0x20 * d) false false) :
    execDomainStep o d v s = .next ((s.awake o 3).tuWrite (.step d v.toInt)) := by
  unfold execDomainStep State.domainStep
  rw [State.gate_open _ _ _ _ _ _ _ h]
  rfl

theorem execDomainRefresh_open (h : s.Open o 3 (0x1100 + 0x20 * d) false false) :
    execDomainRefresh o d s = .next ((s.awake o 3).tuWrite (.refresh d)) := by
  unfold execDomainRefresh State.domainCmd
  rw [State.gate_open _ _ _ _ _ _ _ h]
  rfl

theorem execDomainInvalidate_open (h : s.Open o 3 (0x1100 + 0x20 * d) false false) :
    execDomainInvalidate o d s = .next ((s.awake o 3).tuWrite (.invalidate d)) := by
  unfold execDomainInvalidate State.domainCmd
  rw [State.gate_open _ _ _ _ _ _ _ h]
  rfl

theorem execWatchdogTimeoutWrite_open (ms : BitVec 16) (h : s.Open o 3 (0x1104 + 0x20 * d) false false) :
    execWatchdogTimeoutWrite o d ms s =
      .next (((s.awake o 3).timeoutStored d ms.toNat).tuWrite (.word (TuDom.adr d + 4) (s.timeoutWord d ms.toNat))) := by
  unfold execWatchdogTimeoutWrite State.wdogWrite
  rw [State.gate_open _ _ _ _ _ _ _ h]
  exact congrArg Host.Outcome.next ((s.awake o 3).tuStore_timeout d ms.toNat)

/-! ## While U03 is READY: the write crosses (R100) -/

theorem execDomainStep_ready (v : DWord) (h : s.Open o 3 (0x1110 + 0x20 * d) false false) (hr : s.ready 3 = true) :
    execDomainStep o d v s = .next ((s.awake o 3).modTime fun t => { t with waiting := t.waiting ++ [(2, .step d v.toInt)] }) := by
  rw [execDomainStep_open o d s v h, State.tuWrite_ready _ _ (by exact hr)]

theorem execDomainRefresh_ready (h : s.Open o 3 (0x1100 + 0x20 * d) false false) (hr : s.ready 3 = true) :
    execDomainRefresh o d s = .next ((s.awake o 3).modTime fun t => { t with waiting := t.waiting ++ [(2, .refresh d)] }) := by
  rw [execDomainRefresh_open o d s h, State.tuWrite_ready _ _ (by exact hr)]

theorem execDomainInvalidate_ready (h : s.Open o 3 (0x1100 + 0x20 * d) false false) (hr : s.ready 3 = true) :
    execDomainInvalidate o d s = .next ((s.awake o 3).modTime fun t => { t with waiting := t.waiting ++ [(2, .invalidate d)] }) := by
  rw [execDomainInvalidate_open o d s h, State.tuWrite_ready _ _ (by exact hr)]

/-- U03's readiness lies in its header and in PWR_STATUS, which a stored TIMEOUT leaves alone. -/
theorem State.ready_timeoutStored (ms : Nat) : (s.timeoutStored d ms).ready 3 = s.ready 3 := by
  have hk := s.keeps_timeoutStored d ms
  have h1 : (s.timeoutStored d ms).get (Hdr.adr 3) Hdr.state = s.get (Hdr.adr 3) Hdr.state :=
    hk.get_word _ _ rfl (by simp only [Hdr.adr, Hdr.state, TuDom.adr]; omega)
  have h2 : (s.timeoutStored d ms).get PwrStatus.adr PwrStatus.state = s.get PwrStatus.adr PwrStatus.state :=
    hk.get_word _ _ rfl (by simp only [PwrStatus.adr, PwrStatus.state, TuDom.adr]; omega)
  unfold State.ready State.ustate State.asleep
  rw [h1, h2]

/-- TIMEOUT reads as written, with the one in force before (R57). -/
theorem execWatchdogTimeoutWrite_ready (ms : BitVec 16) (h : s.Open o 3 (0x1104 + 0x20 * d) false false) (hr : s.ready 3 = true) :
    ∃ t, execWatchdogTimeoutWrite o d ms s = .next t ∧ t.get (TuDom.adr d) TuDom.timeout = ms.toNat ∧
      t.act (TuDom.adr d) TuDom.timeout = s.act (TuDom.adr d) TuDom.timeout ∧
      t.time = { s.time with waiting := s.time.waiting ++
        [(2, .word (TuDom.adr d + 4) (merge 0xFFFF#32 (s.rd (TuDom.adr d + 4)) (BitVec.ofNat 32 ms.toNat)))] } := by
  refine ⟨_, execWatchdogTimeoutWrite_open o d s ms h, ?_⟩
  rw [State.tuWrite_ready _ _ ((State.ready_timeoutStored d (s.awake o 3) ms.toNat).trans hr)]
  exact ⟨State.get_timeoutStored (s.awake o 3) d ms.toNat ms.isLt, State.act_timeoutStored (s.awake o 3) d ms.toNat _ _, rfl⟩

/-! ## In a unit that is not READY: at once (R10) -/

theorem execDomainRefresh_held (h : s.Open o 3 (0x1100 + 0x20 * d) false false) (hr : s.ready 3 = false) :
    ∃ t, execDomainRefresh o d s = .next t ∧ t.domValid d = true ∧ t.time = s.time.setSince d 0 := by
  refine ⟨_, execDomainRefresh_open o d s h, ?_, ?_⟩
  · rw [State.domValid_tuWrite_held _ _ (by exact hr) rfl d d.isLt, State.domValid_refresh _ d d.isLt,
      decide_eq_false (State.not_lapsed_refresh _ d)]
    rfl
  · rw [State.time_tuWrite_held _ _ (by exact hr) rfl, (State.keeps_refresh _ d).time]
    rfl

/-- A watchdog that is off, or whose count is below its limit, has not ended (R104). -/
theorem State.not_lapsed (s : State) (e : Nat) (h : s.wdLimit e = 0 ∨ s.time.since e < s.wdLimit e) : ¬ s.Lapsed e := by
  unfold State.Lapsed
  omega

theorem execDomainInvalidate_held (h : s.Open o 3 (0x1100 + 0x20 * d) false false) (hr : s.ready 3 = false) (hv : s.domValid d = true) :
    ∃ t, execDomainInvalidate o d s = .next t ∧ t.domValid d = false ∧ t.time = s.time ∧
      (s.selected = d → s.actB TuCtrl.adr TuCtrl.autoSwitch = true → s.domValid (1 - d) = true →
        (s.wdLimit (1 - d) = 0 ∨ s.time.since (1 - d) < s.wdLimit (1 - d)) → t.selected = 1 - d) := by
  have hk := (s.awake o 3).keeps_loseDomain d
  have hd := d.isLt
  have hlost : ((s.awake o 3).loseDomain d).domValid d = false := by
    rw [State.domValid_loseDomain _ d d hd hd]
    simp
  refine ⟨_, execDomainInvalidate_open o d s h, ?_, ?_, fun hs ha ho hl => ?_⟩
  · rw [State.domValid_tuWrite_held _ _ (by exact hr) rfl d hd]
    exact (congrArg (· && _) hlost).trans (Bool.false_and _)
  · rw [State.time_tuWrite_held _ _ (by exact hr) rfl]
    exact hk.time
  · rw [State.selected_tuWrite_held _ _ (by exact hr) rfl]
    refine State.selected_judged _ _ d hd ((State.selected_loseDomain _ _).trans hs) ((hk.autoSwitch (by decide)).trans ha) hv hlost ?_ ?_
    · refine (State.domValid_loseDomain _ d (1 - d) hd (by omega)).trans ?_
      rw [Bool.and_eq_true, bne_iff_ne]
      exact ⟨ho, by omega⟩
    · rw [show ((s.awake o 3).tuEarly (.invalidate d)).Lapsed (1 - d) ↔ _ from hk.lapsed _ (timeout_notStatus _)]
      exact s.not_lapsed _ hl

end

end Sys2Proof.Machine
end

section
/-!
A TIMEOUT that takes effect at once, and the expiry of a watchdog.
-/

namespace Sys2Proof.Machine

section
variable (o : Sys2Proof.Origin) (d : Fin 2) (ms : BitVec 16) (s : State)

/-- The state with TIMEOUT written and in force, before the watchdogs are judged. -/
def State.timeoutTaken (s : State) (d ms : Nat) : State :=
  (s.timeoutStored d ms).setForce (TuDom.adr d + 4) (s.timeoutWord d ms)

theorem State.keeps_timeoutTaken (d ms : Nat) : Keeps (fun b => b ≠ TuDom.adr d + 4) s (s.timeoutTaken d ms) :=
  (s.keeps_timeoutStored d ms).trans (keeps_setForce _ _ _)

theorem State.act_timeoutTaken (d ms : Nat) (hms : ms < 2 ^ 16) : (s.timeoutTaken d ms).act (TuDom.adr d) TuDom.timeout = ms :=
  fieldOf_timeout s.rd _ d ms hms (by rw [State.timeoutTaken, State.inForce_setForce, if_pos rfl, State.timeoutWord])

theorem State.wdLimit_timeoutTaken (d ms : Nat) (hms : ms < 2 ^ 16) : (s.timeoutTaken d ms).wdLimit d = ms * 25000 := by
  unfold State.wdLimit
  rw [s.act_timeoutTaken d ms hms]

/-- The write at once: the new TIMEOUT stands, both watchdogs are judged and the switch is decided. -/
theorem execWatchdogTimeoutWrite_held (h : s.Open o 3 (0x1104 + 0x20 * d) false false) (hr : s.ready 3 = false) :
    ∃ v0 : Nat → Bool, (∀ e, v0 e = s.domValid e) ∧
      execWatchdogTimeoutWrite o d ms s = .next (((s.awake o 3).timeoutTaken d ms.toNat).judged v0).concluded := by
  refine ⟨((s.awake o 3).timeoutStored d ms.toNat).domValid,
    fun e => (State.keeps_timeoutStored _ d ms.toNat).domValid e (timeout_ne_status d), ?_⟩
  rw [execWatchdogTimeoutWrite_open o d s ms h, State.tuWrite_held _ _ ((State.ready_timeoutStored d (s.awake o 3) ms.toNat).trans hr) rfl]
  rfl

/-- A TIMEOUT that the count has reached makes the domain invalid. -/
theorem execWatchdogTimeoutWrite_held_reached (h : s.Open o 3 (0x1104 + 0x20 * d) false false) (hr : s.ready 3 = false)
    (h0 : 0 < ms.toNat) (hl : ms.toNat * 25000 ≤ s.time.since d) :
    ∃ t, execWatchdogTimeoutWrite o d ms s = .next t ∧ t.domValid d = false ∧ t.time = s.time := by
  obtain ⟨v0, -, he⟩ := execWatchdogTimeoutWrite_held o d ms s h hr
  have hlapsed : ((s.awake o 3).timeoutTaken d ms.toNat).Lapsed d := by
    unfold State.Lapsed
    rw [State.wdLimit_timeoutTaken _ _ _ ms.isLt, (State.keeps_timeoutTaken _ _ _).time]
    exact ⟨by omega, hl⟩
  refine ⟨_, he, ?_, ?_⟩
  · rw [State.domValid_concluded, State.domValid_judged _ _ d d.isLt, decide_eq_true hlapsed]
    exact Bool.and_false _
  · rw [State.time_concluded, (State.keeps_judged _ _).time, (State.keeps_timeoutTaken _ _ _).time]
    rfl

/-- A TIMEOUT that the count has not reached, or of 0, changes no validity and no selection. -/
theorem execWatchdogTimeoutWrite_held_below (h : s.Open o 3 (0x1104 + 0x20 * d) false false) (hr : s.ready 3 = false)
    (hms : ms.toNat = 0 ∨ s.time.since d < ms.toNat * 25000)
    (hother : s.wdLimit (1 - d) = 0 ∨ s.time.since (1 - d) < s.wdLimit (1 - d)) :
    ∃ t, execWatchdogTimeoutWrite o d ms s = .next t ∧ t.get (TuDom.adr d) TuDom.timeout = ms.toNat ∧
      t.act (TuDom.adr d) TuDom.timeout = ms.toNat ∧ (∀ e : Fin 2, t.domValid e = s.domValid e) ∧ t.selected = s.selected ∧
      t.time = s.time := by
  obtain ⟨v0, hv0, he⟩ := execWatchdogTimeoutWrite_held o d ms s h hr
  have hd := d.isLt
  generalize hT : (s.awake o 3).timeoutTaken d ms.toNat = T at he
  have hk : Keeps (fun b => b ≠ TuDom.adr d + 4) s T :=
    hT ▸ (keeps_startClocks _ s _).trans (State.keeps_timeoutTaken _ d ms.toNat)
  have hlim : T.wdLimit d = ms.toNat * 25000 := hT ▸ State.wdLimit_timeoutTaken _ d ms.toNat ms.isLt
  have hnot : ∀ e < 2, ¬ T.Lapsed e := by
    intro e hlt
    refine T.not_lapsed e ?_
    rw [hk.time]
    by_cases hed : e = d
    · rw [hed, hlim]
      omega
    · rw [hk.wdLimit e (timeout_ne_other hed), eq_one_sub_of_ne hd hlt hed]
      exact hother
  have hvalid : ∀ e, T.domValid e = s.domValid e := fun e => hk.domValid e (timeout_ne_status d)
  have hkeep := (T.keeps_judged v0).mono (q := fun a => TuWord a ∧ NotSelection a) (fun _ ha => ha.2)
  have hkeep := hkeep.trans ((State.keeps_concluded (T.judged v0)).mono fun _ ha => ⟨ha.1, ha.2.1⟩)
  have hin : TuWord (TuDom.adr d + 4) ∧ NotSelection (TuDom.adr d + 4) := ⟨timeout_tuWord d hd, timeout_notSelection d⟩
  refine ⟨_, he, ?_, ?_, fun e => ?_, ?_, hkeep.time.trans hk.time⟩
  · rw [hkeep.get_word (TuDom.adr d) TuDom.timeout rfl hin, ← hT]
    exact State.get_timeoutStored _ d ms.toNat ms.isLt
  · rw [hkeep.act_word (TuDom.adr d) TuDom.timeout rfl hin, ← hT]
    exact State.act_timeoutTaken _ d ms.toNat ms.isLt
  · rw [State.domValid_concluded, State.domValid_judged _ _ e e.isLt, hvalid, decide_eq_false (hnot e e.isLt)]
    exact Bool.and_true _
  · rw [State.selected_concluded,
      State.selected_judged_of_unchanged _ _ (fun e _ => (hvalid e).trans (hv0 e).symm) hnot]
    exact hk.selected (timeout_ne_status d)

end

/-! ## The expiry of a watchdog (R104) -/

/-- The watchdog of a VALID domain ends: the domain is invalid, and AUTO_SWITCH selects the other one when that is VALID. -/
theorem execDomainWatchdogExpiry_lapsed (d : Fin 2) (s : State) (h0 : 0 < s.wdLimit d) (hl : s.wdLimit d ≤ s.time.since d)
    (hv : s.domValid d = true) :
    ∃ t, execDomainWatchdogExpiry d s = .next t ∧ t.domValid d = false ∧ t.time = s.time ∧
      (s.selected = d → s.actB TuCtrl.adr TuCtrl.autoSwitch = true → s.domValid (1 - d) = true → t.selected = 1 - d) := by
  have hd := d.isLt
  have hlost : (s.loseDomain d).domValid d = false := by
    rw [s.domValid_loseDomain d d hd hd]
    simp
  refine ⟨((s.loseDomain d).autoSwitch s.domValid).concluded, ?_, ?_, ?_, fun hs ha ho => ?_⟩
  · unfold execDomainWatchdogExpiry
    rw [if_pos ⟨hv, h0, hl⟩]
    rfl
  · rw [State.domValid_concluded, State.domValid_autoSwitch, hlost]
  · rw [State.time_concluded, (State.keeps_autoSwitch _ _).time, (s.keeps_loseDomain d).time]
  · have hk : (s.loseDomain d).selected = d := (s.selected_loseDomain d).trans hs
    rw [State.selected_concluded, State.selected_autoSwitch, hk]
    · exact ((s.keeps_loseDomain d).autoSwitch (by decide)).trans ha
    · rw [hk, hv]
    · rw [hk, hlost]
    · rw [hk, s.domValid_loseDomain d (1 - d) hd (by omega), ho, Bool.true_and, bne_iff_ne]
      omega

/-- Before its limit the expiry changes nothing. -/
theorem execDomainWatchdogExpiry_before (d : Fin 2) (s : State) (h : s.wdLimit d = 0 ∨ s.time.since d < s.wdLimit d) :
    execDomainWatchdogExpiry d s = .next s := by
  unfold execDomainWatchdogExpiry
  rw [if_neg fun hc => s.not_lapsed d h hc.2]

end Sys2Proof.Machine
end

section
/-!
The tick of CLK_AON at which nothing is armed: the writes that cross, the counts, the domains and the switch.
-/

namespace Sys2Proof.Machine

/-! ## The tick's beginning: the counts advance (R104) -/

/-- The time state after the writes have come a tick nearer and the counts have advanced. -/
structure Ticked (s : State) (τ : Time) : Prop where
  waiting : τ.waiting = s.time.crossing
  armed : τ.armed = s.time.armed
  dom0 : τ.dom0 = s.time.dom0
  dom1 : τ.dom1 = s.time.dom1
  below : ∀ e, τ.since e ≤ s.time.since e + 1
  kept : ∀ e n, n < 2 ^ 32 → n ≤ s.time.since e → n ≤ τ.since e
  counted : s.wdFrozen = false → ∀ e n, n < 2 ^ 32 → n ≤ s.time.since e + 1 → n ≤ τ.since e

theorem State.tickStart_eq (s : State) :
    ∃ τ, Ticked s τ ∧ (s.modTime fun t => { t with waiting := t.crossing }).wdTick = { s with time := τ } := by
  unfold State.wdTick
  split
  · rename_i h
    refine ⟨{ s.time with waiting := s.time.crossing }, ⟨rfl, rfl, rfl, rfl, fun e => Nat.le_succ _, fun e n _ h => h, fun hf => ?_⟩, rfl⟩
    exact absurd (hf.symm.trans h) Bool.false_ne_true
  · refine ⟨{ s.time with waiting := s.time.crossing, since0 := min (s.time.since0 + 1) (2 ^ 32 - 1), since1 := min (s.time.since1 + 1) (2 ^ 32 - 1) },
      ?_, rfl⟩
    have hs : ∀ e, Time.since { s.time with
        waiting := s.time.crossing, since0 := min (s.time.since0 + 1) (2 ^ 32 - 1), since1 := min (s.time.since1 + 1) (2 ^ 32 - 1) } e =
          min (s.time.since e + 1) (2 ^ 32 - 1) := by
      intro e
      unfold Time.since
      split <;> rfl
    refine ⟨rfl, rfl, rfl, rfl, fun e => ?_, fun e n hn h => ?_, fun _ e n hn h => ?_⟩
    · rw [hs]
      exact Nat.min_le_left _ _
    · rw [hs]
      omega
    · rw [hs]
      omega

/-- A watchdog's limit is far below the end of its count. -/
theorem State.wdLimit_lt (s : State) (e : Nat) : s.wdLimit e < 2 ^ 32 := by
  have h : s.act (TuDom.adr e) TuDom.timeout < 2 ^ 16 := Nat.mod_lt _ (by decide)
  unfold State.wdLimit
  omega

/-! ## The timebase's part of the tick (R98–R105) -/

/-- The end of the timebase's tick: HOLDOVER, the slew of line time, LOCKED, and the events of the cycle. -/
def State.slewed (s : State) : State := s.holdover.slew.lockUpdate.announce

theorem State.timeTick_none (s : State) (h : s.time.crossed = []) :
    s.timeTick = ((s.modTime fun t => { t with waiting := t.crossing }).wdTick.advance.judged s.domValid).slewed := by
  simp only [State.timeTick, State.tickSelects, h, List.foldl_nil, State.judged, State.slewed]

theorem State.timeTick_one (s : State) (w : TuWrite) (h : s.time.crossed = [w]) (he : w.early = true) :
    s.timeTick =
      (((s.modTime fun t => { t with waiting := t.crossing }).wdTick.tuEarly w).advance.judged s.domValid).slewed := by
  simp only [State.timeTick, State.tickSelects, h, List.foldl_cons, List.foldl_nil, State.tuSelect_of_early _ w he,
    State.tuLate_of_early _ w he, State.judged, State.slewed]

/-- What the timebase's tick leaves of the state `T` in which the watchdogs are to be judged, `t` being the state after the
tick and `v0` the validities before it. -/
structure Closes (T : State) (v0 : Nat → Bool) (t : State) : Prop where
  valid : ∀ e < 2, t.domValid e = (T.domValid e && !decide (T.Lapsed e))
  selected : t.selected = (T.judged v0).selected
  waiting : t.time.waiting = T.time.waiting
  dom0 : t.time.dom0 = T.time.dom0
  dom1 : t.time.dom1 = T.time.dom1
  since : ∀ e, t.time.since e = T.time.since e
  timeout : ∀ e < 2, t.act (TuDom.adr e) TuDom.timeout = T.act (TuDom.adr e) TuDom.timeout

theorem State.domValid_slewed (s : State) (e : Nat) : s.slewed.domValid e = s.domValid e := by
  unfold State.slewed
  rw [(keeps_announce _).domValid e (by decide), State.domValid_lockUpdate]
  exact s.domValid_holdover e

theorem State.selected_slewed (s : State) : s.slewed.selected = s.selected := by
  unfold State.slewed
  rw [(keeps_announce _).selected (by decide), State.selected_lockUpdate]
  exact s.selected_holdover

theorem State.timeout_slewed (s : State) (e : Nat) (he : e < 2) :
    s.slewed.act (TuDom.adr e) TuDom.timeout = s.act (TuDom.adr e) TuDom.timeout := by
  unfold State.slewed
  rw [(keeps_announce _).act_word _ TuDom.timeout rfl (timeout_tuWord e he),
    (State.keeps_lockUpdate _).act_word _ TuDom.timeout rfl (timeout_notStatus e)]
  exact s.keeps_holdover.act_word _ TuDom.timeout rfl (timeout_notStatus e)

/-- The slew moves line time, and leaves the rest of the time state alone (R101). -/
theorem State.time_slewed (s : State) : ∃ line corr inc ran ctr,
    s.slewed.time = { s.time with line := line, corr := corr, inc := inc, ran := ran, tickCtr := ctr } := by
  unfold State.slewed
  rw [(keeps_announce _).time, (State.keeps_lockUpdate _).time]
  have h : s.holdover.slew.time = { s.holdover.time with
      line := s.holdover.slew.time.line, corr := s.holdover.slew.time.corr, inc := s.holdover.slew.time.inc
      ran := s.holdover.slew.time.ran, tickCtr := s.holdover.slew.time.tickCtr } := rfl
  rw [s.keeps_holdover.time] at h
  exact ⟨_, _, _, _, _, h⟩

theorem State.svc_slewed (s : State) : s.slewed.svc = s.svc := by
  unfold State.slewed
  rw [(keeps_announce _).svc, (State.keeps_lockUpdate _).svc]
  exact s.keeps_holdover.svc

theorem State.closes_slewed (T : State) (v0 : Nat → Bool) : Closes T v0 (T.judged v0).slewed := by
  obtain ⟨line, corr, inc, ran, ctr, ht⟩ := (T.judged v0).time_slewed
  rw [(T.keeps_judged v0).time] at ht
  refine ⟨fun e he => ?_, State.selected_slewed _, by rw [ht], by rw [ht], by rw [ht], fun e => by rw [ht]; rfl, fun e he => ?_⟩
  · rw [State.domValid_slewed, T.domValid_judged v0 e he]
  · rw [State.timeout_slewed _ e he, (T.keeps_judged v0).act_word _ TuDom.timeout rfl (timeout_notSelection e)]

/-! ## The rest of the tick -/

theorem keeps_modBoot (p : Nat → Prop) (s : State) (g : Boot → Boot) : Keeps p s (s.modBoot g) :=
  ⟨rfl, rfl, fun _ _ => rfl, fun _ _ => rfl⟩

theorem State.keeps_startTick (s : State) : Keeps TuWord s s.startTick := by
  unfold State.startTick
  dsimp only
  split
  · split
    · exact (keeps_modBoot _ s _).trans
        ((keeps_set_apart _ _ BootStatus.haltCode _ (.inl (by decide))).trans (keeps_raise _ _ _ _))
    · exact keeps_modBoot _ s _
  · exact Keeps.refl _ s

theorem State.keeps_giveLead (s : State) (h lease : Nat) : Keeps TuWord s (s.giveLead h lease) := by
  have hw : Keeps TuWord s ((s.set SysLead.adr SysLead.holder h).set SysLead.adr SysLead.lease lease) :=
    (keeps_set_apart s _ _ _ (.inl (by decide))).trans (keeps_set_apart _ _ _ _ (.inl (by decide)))
  exact hw.trans ⟨rfl, rfl, fun _ _ => rfl, fun _ _ => rfl⟩

theorem State.keeps_leaseTick (s : State) : Keeps TuWord s s.leaseTick := by
  unfold State.leaseTick
  split
  · exact Keeps.refl _ s
  · split
    · exact (s.keeps_giveLead _ _).trans ((keeps_raise _ _ _ _).trans (keeps_raise _ _ _ _))
    · exact ⟨rfl, rfl, fun _ _ => rfl, fun _ _ => rfl⟩

/-- With no instant waited for, the instants of a tick start clocks at most. -/
theorem State.keeps_instants (s : State) (h : s.Unarmed) : Keeps TuWord s s.instants := by
  obtain ⟨harmed, hpause, hcore⟩ := h
  have hl : s.launchTick = s := by
    unfold State.launchTick
    rw [harmed]
    rfl
  have hy : s.yieldTick = s := by
    unfold State.yieldTick
    simp [hcore]
  unfold State.instants
  simp only [hl, hpause, Option.isSome_none, Bool.false_eq_true, if_false, hy]
  unfold State.clockTick
  split
  · exact keeps_startClocks _ s _
  · exact Keeps.refl _ s

theorem Keeps.unarmed {p : Nat → Prop} {s t : State} (h : Keeps p s t) (hs : s.Unarmed) : t.Unarmed := by
  unfold State.Unarmed at hs ⊢
  rw [h.time, h.svc]
  exact hs

theorem Closes.of_keeps {T t u : State} {v0 : Nat → Bool} (h : Closes T v0 t) (hk : Keeps TuWord t u) : Closes T v0 u := by
  refine ⟨fun e he => (hk.domValid e (by decide)).trans (h.valid e he), (hk.selected (by decide)).trans h.selected, ?_, ?_, ?_, fun e => ?_,
    fun e he => (hk.act_word _ TuDom.timeout rfl (timeout_tuWord e he)).trans (h.timeout e he)⟩
  · rw [hk.time, h.waiting]
  · rw [hk.time, h.dom0]
  · rw [hk.time, h.dom1]
  · rw [hk.time, h.since]

/-- A tick whose timebase part leaves `T` to be judged, at which no instant is waited for. -/
theorem execClkAonTick_closes (s T : State) (v0 : Nat → Bool) (hup : s.mgtUp = true)
    (ht : ({ s with ticks := s.ticks + 1 } : State).timeTick = (T.judged v0).slewed) (hT : T.Unarmed) :
    ∃ t, execClkAonTick s = .next t ∧ Closes T v0 t := by
  have hu : (T.judged v0).slewed.Unarmed := by
    obtain ⟨line, corr, inc, ran, ctr, htime⟩ := (T.judged v0).time_slewed
    have hj := (T.keeps_judged v0).unarmed hT
    unfold State.Unarmed at hj ⊢
    rw [htime, State.svc_slewed]
    exact hj
  have hk := (State.keeps_startTick (T.judged v0).slewed).trans (State.keeps_leaseTick _)
  refine ⟨_, ?_, Closes.of_keeps (T.closes_slewed v0) (hk.trans (State.keeps_instants _ (hk.unarmed hu)))⟩
  unfold execClkAonTick
  rw [if_pos hup, ht]

/-- The tick's state before its writes take effect, the time state being `τ`. -/
def State.ticking (s : State) (τ : Time) : State := { s with ticks := s.ticks + 1, time := τ }

/-- A tick in which nothing takes effect. -/
theorem execClkAonTick_none (s : State) (hup : s.mgtUp = true) (hu : s.Unarmed) (h : s.time.crossed = []) :
    ∃ τ t, Ticked s τ ∧ execClkAonTick s = .next t ∧ Closes (s.ticking τ).advance s.domValid t := by
  obtain ⟨τ, hτ, hs⟩ := State.tickStart_eq { s with ticks := s.ticks + 1 }
  have hT := State.timeTick_none { s with ticks := s.ticks + 1 } h
  rw [hs] at hT
  obtain ⟨t, ht, hc⟩ := execClkAonTick_closes s (s.ticking τ).advance s.domValid hup hT
    ⟨hτ.armed.trans hu.1, hu.2⟩
  exact ⟨τ, t, ⟨hτ.waiting, hτ.armed, hτ.dom0, hτ.dom1, hτ.below, hτ.kept, hτ.counted⟩, ht, hc⟩

/-- A tick in which one write takes effect that acts before the advance. -/
theorem execClkAonTick_one (s : State) (w : TuWrite) (hup : s.mgtUp = true) (hu : s.Unarmed) (h : s.time.crossed = [w])
    (he : w.early = true) (hw : ∀ t : State, (t.tuEarly w).time.armed = t.time.armed ∧ (t.tuEarly w).svc = t.svc) :
    ∃ τ t, Ticked s τ ∧ execClkAonTick s = .next t ∧
      Closes ((s.ticking τ).tuEarly w).advance s.domValid t := by
  obtain ⟨τ, hτ, hs⟩ := State.tickStart_eq { s with ticks := s.ticks + 1 }
  obtain ⟨h1, h2⟩ := hw (s.ticking τ)
  have hT := State.timeTick_one { s with ticks := s.ticks + 1 } w h he
  rw [hs] at hT
  obtain ⟨t, ht, hc⟩ := execClkAonTick_closes s ((s.ticking τ).tuEarly w).advance s.domValid hup hT
    ⟨h1.trans (hτ.armed.trans hu.1), (congrArg _ h2).trans hu.2.1, (congrArg _ h2).trans hu.2.2⟩
  exact ⟨τ, t, ⟨hτ.waiting, hτ.armed, hτ.dom0, hτ.dom1, hτ.below, hτ.kept, hτ.counted⟩, ht, hc⟩

end Sys2Proof.Machine
end

section
/-!
The two domains over a tick of CLK_AON.
-/

namespace Sys2Proof.Machine

/-! ## The queue of writes that cross (R100) -/

theorem Time.crossed_second (t : Time) (w : TuWrite) (h : t.waiting = [(1, w)]) : t.crossed = [w] := by
  simp [Time.crossed, h]

theorem Time.crossing_second (t : Time) (w : TuWrite) (h : t.waiting = [(1, w)]) : t.crossing = [] := by
  simp [Time.crossing, h]

theorem Time.crossed_first (t : Time) (w : TuWrite) (h : t.waiting = [(2, w)]) : t.crossed = [] := by
  simp [Time.crossed, h]

theorem Time.crossing_first (t : Time) (w : TuWrite) (h : t.waiting = [(2, w)]) : t.crossing = [(1, w)] := by
  simp [Time.crossing, h]

/-! ## A TIMEOUT in force -/

/-- TIMEOUT is the low half of its word. -/
theorem fieldOf_timeout_word (r : Nat → Word) (d : Nat) :
    fieldOf r (TuDom.adr d) TuDom.timeout = (r (TuDom.adr d + 4)).toNat % 2 ^ 16 := by
  show ((r (TuDom.adr d + 4)).toNat + 2 ^ 32 * 0) / 2 ^ 0 % 2 ^ 16 = _
  rw [Nat.mul_zero, Nat.add_zero, Nat.pow_zero, Nat.div_one]

theorem State.lapsed_of_timeout (s : State) (d ms : Nat) (h : s.act (TuDom.adr d) TuDom.timeout = ms) (h0 : 0 < ms)
    (hl : ms * 25000 ≤ s.time.since d) : s.Lapsed d := by
  unfold State.Lapsed State.wdLimit
  rw [h]
  exact ⟨by omega, hl⟩

section
variable (s : State) (hup : s.mgtUp = true) (hu : s.Unarmed)
include hup hu

/-- In its first tick a write comes a tick nearer, and both domains advance (R98, R100). -/
theorem execClkAonTick_first (w : TuWrite) (h : s.time.waiting = [(2, w)]) :
    ∃ t, execClkAonTick s = .next t ∧ t.time.waiting = [(1, w)] ∧
      t.time.dom0 = ((s.time.dom0 : Int) + tickUnits + s.adjust 0).toNat ∧
      t.time.dom1 = ((s.time.dom1 : Int) + tickUnits + s.adjust 1).toNat := by
  obtain ⟨τ, t, hτ, ht, hc⟩ := execClkAonTick_none s hup hu (s.time.crossed_first w h)
  refine ⟨t, ht, hc.waiting.trans (hτ.waiting.trans (s.time.crossing_first w h)), hc.dom0.trans ?_, hc.dom1.trans ?_⟩
  · rw [← hτ.dom0]
    rfl
  · rw [← hτ.dom1]
    rfl

/-- In its second tick a REFRESH makes its domain VALID with a count of 0 (R104). -/
theorem execClkAonTick_refresh (d : Fin 2) (h : s.time.waiting = [(1, .refresh d)]) :
    ∃ t, execClkAonTick s = .next t ∧ t.time.waiting = [] ∧ t.domValid d = true ∧ t.time.since d = 0 := by
  have hw : ∀ t : State, (t.tuEarly (.refresh d)).time.armed = t.time.armed ∧ (t.tuEarly (.refresh d)).svc = t.svc := by
    intro t
    have hk := t.keeps_refresh d
    rw [hk.time, hk.svc]
    exact ⟨by unfold State.modTime Time.setSince; dsimp only; split <;> rfl, rfl⟩
  obtain ⟨τ, t, hτ, ht, hc⟩ := execClkAonTick_one s (.refresh d) hup hu (s.time.crossed_second _ h) rfl hw
  generalize hB : s.ticking τ = B at hc
  have hcount : (B.tuEarly (.refresh d)).time.since d = 0 := by
    rw [(B.keeps_refresh d).time]
    exact B.time.since_setSince d 0
  have hwait : (B.tuEarly (.refresh d)).time.waiting = τ.waiting := by
    rw [(B.keeps_refresh d).time, ← hB]
    unfold State.modTime Time.setSince
    dsimp only
    split <;> rfl
  refine ⟨t, ht, hc.waiting.trans (hwait.trans (hτ.waiting.trans (s.time.crossing_second _ h))), ?_, (hc.since d).trans hcount⟩
  have hnot : ¬ (B.tuEarly (.refresh d)).advance.Lapsed d := B.not_lapsed_refresh d
  rw [hc.valid d d.isLt, decide_eq_false hnot]
  exact (Bool.and_true _).trans (B.domValid_refresh d d.isLt)

/-- In its second tick an INVALIDATE makes its domain invalid, and AUTO_SWITCH selects the other one when that is VALID and
does not end in the same tick (R104, R105). -/
theorem execClkAonTick_invalidate (d : Fin 2) (h : s.time.waiting = [(1, .invalidate d)]) (hv : s.domValid d = true) :
    ∃ t, execClkAonTick s = .next t ∧ t.time.waiting = [] ∧ t.domValid d = false ∧
      (s.selected = d → s.actB TuCtrl.adr TuCtrl.autoSwitch = true → s.domValid (1 - d) = true →
        (s.wdLimit (1 - d) = 0 ∨ s.time.since (1 - d) + 1 < s.wdLimit (1 - d)) → t.selected = 1 - d) := by
  have hd := d.isLt
  have hw : ∀ t : State, (t.tuEarly (.invalidate d)).time.armed = t.time.armed ∧ (t.tuEarly (.invalidate d)).svc = t.svc := fun t =>
    ⟨congrArg _ (t.keeps_loseDomain d).time, (t.keeps_loseDomain d).svc⟩
  obtain ⟨τ, t, hτ, ht, hc⟩ := execClkAonTick_one s (.invalidate d) hup hu (s.time.crossed_second _ h) rfl hw
  have hk := State.keeps_loseDomain (s.ticking τ) d
  have hvalid := fun e he => State.domValid_loseDomain (s.ticking τ) d e hd he
  have hlost : ((s.ticking τ).loseDomain d).domValid d = false := by
    rw [hvalid d hd]
    simp
  refine ⟨t, ht, ?_, ?_, fun hs ha ho hl => ?_⟩
  · rw [hc.waiting]
    exact (congrArg Time.waiting hk.time).trans (hτ.waiting.trans (s.time.crossing_second _ h))
  · rw [hc.valid d hd]
    exact (congrArg (· && _) hlost).trans (Bool.false_and _)
  · rw [hc.selected]
    refine State.selected_judged _ _ d hd ((State.selected_loseDomain _ _).trans hs) ((hk.autoSwitch (by decide)).trans ha) hv hlost ?_ ?_
    · refine (hvalid (1 - d) (by omega)).trans ?_
      rw [Bool.and_eq_true, bne_iff_ne]
      exact ⟨ho, by omega⟩
    · refine fun hlap => State.not_lapsed (s.ticking τ) (1 - d) ?_ ((hk.lapsed _ (timeout_notStatus _)).1 hlap)
      exact hl.imp id fun hlt => Nat.lt_of_le_of_lt (hτ.below _) hlt

/-- In its second tick a TIMEOUT that the count has reached is in force and makes the domain invalid (R104). -/
theorem execClkAonTick_timeout (d : Fin 2) (ms : BitVec 16)
    (h : s.time.waiting = [(1, .word (TuDom.adr d + 4) (BitVec.ofNat 32 ms.toNat))])
    (h0 : 0 < ms.toNat) (hl : ms.toNat * 25000 ≤ s.time.since d) :
    ∃ t, execClkAonTick s = .next t ∧ t.time.waiting = [] ∧ t.act (TuDom.adr d) TuDom.timeout = ms.toNat ∧ t.domValid d = false := by
  obtain ⟨τ, t, hτ, ht, hc⟩ := execClkAonTick_one s _ hup hu (s.time.crossed_second _ h) rfl fun _ => ⟨rfl, rfl⟩
  have hms := ms.isLt
  have hact : ((s.ticking τ).setForce (TuDom.adr d + 4) (BitVec.ofNat 32 ms.toNat)).act
      (TuDom.adr d) TuDom.timeout = ms.toNat := by
    refine (fieldOf_timeout_word _ d).trans ?_
    rw [State.inForce_setForce, if_pos rfl, BitVec.toNat_ofNat]
    omega
  refine ⟨t, ht, hc.waiting.trans (hτ.waiting.trans (s.time.crossing_second _ h)), (hc.timeout d d.isLt).trans hact, ?_⟩
  have hlapsed : ((s.ticking τ).tuEarly (.word (TuDom.adr d + 4) (BitVec.ofNat 32 ms.toNat))).advance.Lapsed d :=
    State.lapsed_of_timeout _ d ms.toNat hact h0 (hτ.kept d _ (by omega) hl)
  rw [hc.valid d d.isLt, decide_eq_true hlapsed, Bool.not_true, Bool.and_false]

/-- Both watchdogs end in one tick: both domains are invalid, and the selection stays (R105). -/
theorem execClkAonTick_lapses (h : s.time.waiting = []) (hf : s.wdFrozen = false)
    (hl : ∀ d : Fin 2, 0 < s.wdLimit d ∧ s.wdLimit d ≤ s.time.since d + 1) :
    ∃ t, execClkAonTick s = .next t ∧ t.domValid 0 = false ∧ t.domValid 1 = false ∧ t.selected = s.selected := by
  obtain ⟨τ, t, hτ, ht, hc⟩ := execClkAonTick_none s hup hu (by simp [Time.crossed, h])
  have hlapsed : ∀ e < 2, (s.ticking τ).advance.Lapsed e := fun e he =>
    ⟨(hl ⟨e, he⟩).1, hτ.counted hf e _ (s.wdLimit_lt e) (hl ⟨e, he⟩).2⟩
  have hinvalid : ∀ e < 2, t.domValid e = false := fun e he => by
    rw [hc.valid e he, decide_eq_true (hlapsed e he), Bool.not_true, Bool.and_false]
  exact ⟨t, ht, hinvalid 0 (by decide), hinvalid 1 (by decide), hc.selected.trans (State.selected_judged_of_invalid _ _ hlapsed)⟩

end

/-- Settles O9: the commands in a READY and in another unit, the ticks, and the expiry. -/
theorem domainsStepRefreshAndLapse : Obligations.DomainsStepRefreshAndLapse :=
  ⟨fun o d v s h hr => execDomainStep_ready o d s v h hr,
    fun o d s h hr => ⟨execDomainRefresh_ready o d s h hr, execDomainInvalidate_ready o d s h hr⟩,
    fun o d ms s h hr => execWatchdogTimeoutWrite_ready o d s ms h hr,
    fun o d s h hr _ => execDomainRefresh_held o d s h hr,
    fun o d s h hr hv => execDomainInvalidate_held o d s h hr hv,
    fun o d ms s h hr _ h0 hl => execWatchdogTimeoutWrite_held_reached o d ms s h hr h0 hl,
    fun o d ms s h hr hms ho => execWatchdogTimeoutWrite_held_below o d ms s h hr hms ho,
    fun w s hup hu h => execClkAonTick_first s hup hu w h,
    fun d s hup hu h => execClkAonTick_refresh s hup hu d h,
    fun d s hup hu h hv => execClkAonTick_invalidate s hup hu d h hv,
    fun d ms s hup hu h _ h0 hl => execClkAonTick_timeout s hup hu d ms h h0 hl,
    fun s hup hu h hf hl => execClkAonTick_lapses s hup hu h hf hl,
    execDomainWatchdogExpiry_lapsed, execDomainWatchdogExpiry_before⟩

end Sys2Proof.Machine
end

section
/-!
Camp's clocks: what may stop one, what restarts it, what a pre-start holds, and how spread is written and taken.
-/

namespace Sys2Proof.Machine

/-! ## Clocks that stop and restart -/

/-- A restart leaves exactly the other stopped clocks stopped. -/
theorem State.mem_stopped_startClocks (s : State) (cs : List Nat) (c : Nat) :
    c ∈ (s.startClocks cs).pwr.stopped ↔ c ∈ s.pwr.stopped ∧ c ∉ cs := by
  simp [State.startClocks]

/-- What lets Camp stop clock `c` (R474, R476); when its units count as idle is the model's choice (log 114). -/
theorem State.gatable_iff (s : State) (c : Nat) :
    s.gatable c = true ↔ c < 55 ∧ (∀ x ∈ s.time.prestarted, c ∉ s.heldClocks x.1) ∧ s.busyClock c = false ∧ s.idleLong c = true ∧
      (c ≠ ckLKP ∨ ∀ i < 5, ckPP0 + i ∈ s.pwr.stopped) := by
  simp only [State.gatable, Bool.and_eq_true, Bool.or_eq_true, Bool.not_eq_true', decide_eq_true_eq, bne_iff_ne, List.any_eq_false,
    List.all_eq_true, List.contains_iff_mem, List.mem_range, and_assoc]

/-- A clock that a pre-start holds may not stop (R124, log 87). -/
theorem State.not_gatable_of_held (s : State) (k t c : Nat) (hk : (k, t) ∈ s.time.prestarted) (hc : c ∈ s.heldClocks k) :
    ¬ s.gatable c = true := fun h =>
  ((s.gatable_iff c).1 h).2.1 (k, t) hk hc

/-- In Camp the tick leaves no clock with work stopped (R474). -/
theorem State.not_mem_stopped_clockTick (s : State) (hp : s.power = psCAMP) (c : Nat) (hc : c < 55) (hb : s.busyClock c = true) :
    c ∉ s.clockTick.pwr.stopped := by
  rw [State.clockTick, if_pos hp, State.mem_stopped_startClocks]
  exact fun h => h.2 (List.mem_filter.2 ⟨List.mem_range.2 hc, hb⟩)

theorem execClockStop_stops (c : Fin 55) (s : State) (hp : s.power = psCAMP) (hg : s.gatable c = true) (hc : c.val ∉ s.pwr.stopped) :
    execClockStop c s = .next { s with pwr := { s.pwr with stopped := s.pwr.stopped ++ [c.val] } } :=
  congrArg _ (if_pos ⟨hp, hg, by simpa using hc⟩)

theorem execClockStop_not_camp (c : Fin 55) (s : State) (hp : s.power ≠ psCAMP) : execClockStop c s = .next s :=
  congrArg _ (if_neg fun h => hp h.1)

theorem execClockStop_not_gatable (c : Fin 55) (s : State) (hg : ¬ s.gatable c = true) : execClockStop c s = .next s :=
  congrArg _ (if_neg fun h => hg h.2.1)

/-! ## Pre-starts -/

/-- A pre-start that does not stand yet restarts its clocks and is noted. -/
theorem State.prestart_new (s : State) (k b : Nat) (cs : List Nat) (h : (k, b) ∉ s.time.prestarted) :
    s.prestart k b cs = (s.startClocks cs).modTime fun x => { x with prestarted := x.prestarted ++ [(k, b)] } :=
  if_neg (by simpa using h)

/-- The end of a hold takes away the pre-starts of its kind that it picks, and no other. -/
theorem State.mem_prestarted_prestartEnds (s : State) (k : Nat) (p : Nat → Bool) (x : Nat × Nat) :
    x ∈ (s.prestartEnds k p).time.prestarted ↔ x ∈ s.time.prestarted ∧ ¬ (x.1 = k ∧ p x.2 = true) := by
  refine List.mem_filter.trans (and_congr_right fun _ => ?_)
  rw [Bool.not_eq_true', ← Bool.not_eq_true, Bool.and_eq_true, beq_iff_eq]

/-- The instant that `leadOf` finds lies LEAD ahead, within the tick, and `off` after a boundary (R124). -/
theorem State.leadOf_spec (s : State) (r off t : Nat) (h : s.leadOf r off = some t) :
    off ≤ t ∧ isBoundary s.inForce r (t - off) = true ∧ s.lineNs + s.lead ≤ t ∧ t ≤ s.lineNs + s.lead + 40 := by
  obtain ⟨i, hi, rfl⟩ := List.mem_map.1 (List.mem_of_find?_eq_some h)
  have hi := List.mem_range.1 hi
  have hp := List.find?_some h
  rw [Bool.and_eq_true, decide_eq_true_eq] at hp
  exact ⟨hp.1, hp.2, by omega, by omega⟩

/-- It finds one wherever there is one. -/
theorem State.leadOf_isSome (s : State) (r off t : Nat) (ho : off ≤ t) (hb : isBoundary s.inForce r (t - off) = true)
    (h1 : s.lineNs + s.lead ≤ t) (h2 : t ≤ s.lineNs + s.lead + 40) : (s.leadOf r off).isSome = true := by
  have hm : t ∈ (List.range 41).map fun i => s.lineNs + s.lead + i :=
    List.mem_map.2 ⟨t - (s.lineNs + s.lead), List.mem_range.2 (by omega), by omega⟩
  exact List.find?_isSome.2 ⟨t, hm, by rw [decide_eq_true ho, hb, Bool.and_self]⟩

/-- A rope's pre-start covers CLK_CXE, CLK_TM and the clocks of its ports (R124). -/
theorem State.ropeClocks_cover (s : State) (r : Nat) :
    ckCXE ∈ s.ropeClocks r ∧ ckTM ∈ s.ropeClocks r ∧ ∀ p ∈ s.ropePorts s.inForce r, ckDP0 + p ∈ s.ropeClocks r := by
  unfold State.ropeClocks
  exact ⟨by simp, by simp, fun p hp => List.mem_append_right _ (List.mem_map_of_mem hp)⟩

theorem execPrestart_due (r : Fin 16) (t : Nat) (s : State) (hl : s.leadOf r 0 = some t) (hd : s.ropeDue r = true)
    (ha : s.asleep = false) (hn : (r.val, t) ∉ s.time.prestarted) :
    execPrestart r s = .next ((s.startClocks (s.ropeClocks r)).modTime fun x => { x with prestarted := x.prestarted ++ [(r.val, t)] }) := by
  rw [execPrestart, hl, ← s.prestart_new r t _ hn]
  simp [hd, ha]

theorem execPrestart_idle (r : Fin 16) (s : State) (h : s.leadOf r 0 = none ∨ s.ropeDue r = false ∨ s.asleep = true) :
    execPrestart r s = .next s := by
  unfold execPrestart
  cases hl : s.leadOf r 0 with
  | none => rfl
  | some b =>
    have hb : ¬ (s.ropeDue r && !s.asleep) = true := by
      rcases h with h | h | h
      · rw [hl] at h
        cases h
      · simp [h]
      · simp [h]
    exact congrArg _ (if_neg hb)

theorem execPrestartDeadline_due (r : Fin 16) (t : Nat) (s : State) (hl : s.leadOf r (ropeDeadline s.inForce r) = some t)
    (hd : s.ropeDue r = true) (ha : s.asleep = false) (hn : (16 + r.val, t - ropeDeadline s.inForce r) ∉ s.time.prestarted) :
    execPrestartDeadline r s = .next ((s.startClocks [ckCXE, ckSYS]).modTime fun x =>
      { x with prestarted := x.prestarted ++ [(16 + r.val, t - ropeDeadline s.inForce r)] }) := by
  rw [execPrestartDeadline, hl, ← s.prestart_new _ _ _ hn]
  simp [hd, ha]

/-- The clocks of a placement: CLK_SHX, with CLK_CXE for an MPI region and CLK_SYS for a host region (R476). -/
theorem State.heldClocks_placeKind (s : State) (h : HeldWrite) :
    s.heldClocks (s.placeKind h) = [ckSHX, if (s.region h.region).mpi then ckCXE else ckSYS] := by
  unfold State.placeKind
  cases (s.region h.region).mpi <;> rfl

/-- Held write `h` is due within LEAD, and no pre-start stands for its placement. -/
def State.placementDue (s : State) (h : HeldWrite) : Bool :=
  decide (h.due ≤ ((s.lineNs + 40 + s.lead : Nat) : Int)) && !s.time.prestarted.contains (s.placeKind h, h.due.toNat)

theorem State.placementDue_iff (s : State) (h : HeldWrite) :
    s.placementDue h = true ↔ h.due ≤ (s.lineNs + 40 + s.lead : Nat) ∧ (s.placeKind h, h.due.toNat) ∉ s.time.prestarted := by
  simp [State.placementDue]

theorem execPrestartPlacement_due (h : HeldWrite) (s : State) (hf : s.shx.held.find? s.placementDue = some h) :
    execPrestartPlacement s = .next ((s.startClocks [ckSHX, if (s.region h.region).mpi then ckCXE else ckSYS]).modTime fun x =>
      { x with prestarted := x.prestarted ++ [(s.placeKind h, h.due.toNat)] }) := by
  have hn := ((s.placementDue_iff h).1 (List.find?_some hf)).2
  unfold State.placementDue at hf
  rw [execPrestartPlacement, hf, ← s.heldClocks_placeKind, ← s.prestart_new _ _ _ hn]

theorem execPrestartPlacement_idle (s : State)
    (hs : ∀ h ∈ s.shx.held, ¬ h.due ≤ (s.lineNs + 40 + s.lead : Nat) ∨ (s.placeKind h, h.due.toNat) ∈ s.time.prestarted) :
    execPrestartPlacement s = .next s := by
  have hf : s.shx.held.find? s.placementDue = none := List.find?_eq_none.2 fun h hm hd => by
    obtain ⟨hle, hn⟩ := (s.placementDue_iff h).1 hd
    exact (hs h hm).elim (· hle) hn
  unfold State.placementDue at hf
  rw [execPrestartPlacement, hf]

/-! ## Spread -/

/-- A PWR_SPREAD write that is not refused stores both fields, and each PLL is to take them (R477): the fields are one word of the
register file, so it does not matter whether they or the mark for the PLLs come first. -/
theorem execSpreadWrite_stores (o : Sys2Proof.Origin) (v : Word) (s : State)
    (h : s.Open o 0 0x1110 (s.rwlDiffers PwrSpread.adr v) false) (hb : (s.awake o 0).spreadBad v.toNat = false) :
    execSpreadWrite o v s = .next (({ s.awake o 0 with pwr := { (s.awake o 0).pwr with spreadDue := 0x3FF } } : State).set
      PwrSpread.adr PwrSpread.depth (bits v.toNat 18 16) |>.set PwrSpread.adr PwrSpread.enable (bits v.toNat 9 0)) := by
  rw [execSpreadWrite, State.spreadWrite, State.gate_open _ _ _ _ _ _ _ h]
  change WRes.out (if (s.awake o 0).spreadBad v.toNat then _ else _) = _
  rw [hb, if_neg Bool.false_ne_true]
  rfl

theorem execSpreadChange_due (c : Fin 10) (s : State) (hs : s.bootStep = 0xFF) (hd : bit s.pwr.spreadDue c = true) :
    execSpreadChange c s = .next { s with pwr := { s.pwr with
      spread := s.pwr.spread.set c (if bit (s.act PwrSpread.adr PwrSpread.enable) c then s.act PwrSpread.adr PwrSpread.depth else 0)
      spreadDue := dropBit s.pwr.spreadDue c } } :=
  congrArg _ (if_pos ⟨hs, hd⟩)

theorem execSpreadChange_idle (c : Fin 10) (s : State) (h : s.bootStep ≠ 0xFF ∨ bit s.pwr.spreadDue c = false) :
    execSpreadChange c s = .next s :=
  congrArg _ (if_neg fun hd => h.elim (· hd.1) fun hf => Bool.false_ne_true (hf.symm.trans hd.2))

/-- Settles O38: the clocks that stop and restart, the pre-starts that hold them, and the spread that is written and taken. -/
theorem campPrestartsAndSpread : Obligations.CampPrestartsAndSpread :=
  ⟨execClockStop_stops, execClockStop_not_camp,
    fun r t s hl hd ha hn => ⟨execPrestart_due r t s hl hd ha hn, s.ropeClocks_cover r⟩,
    fun r off t s h => s.leadOf_spec r off t h,
    fun r off t s ho hb h1 h2 => s.leadOf_isSome r off t ho hb h1 h2,
    execPrestart_idle, execPrestartDeadline_due, execPrestartPlacement_due, execPrestartPlacement_idle,
    fun cs c s => ⟨s.mem_stopped_startClocks cs c, rfl, rfl⟩,
    fun c s h =>
      have ⟨_, _, hbusy, hidle, _⟩ := (s.gatable_iff c).1 h
      ⟨hbusy, hidle⟩,
    fun s hp c hc hb => s.not_mem_stopped_clockTick hp c hc hb,
    fun k t c s hk hc => execClockStop_not_gatable c s (s.not_gatable_of_held k t c hk hc),
    fun k p x s => s.mem_prestarted_prestartEnds k p x,
    execSpreadWrite_stores, execSpreadChange_due, execSpreadChange_idle⟩

end Sys2Proof.Machine
end

section
/-!
Records of the configuration image that name a unit without power at the strapped scale.
-/

namespace Sys2Proof.Machine

/-! ## Records of a unit without power -/

/-- A record of a unit without power is skipped before anything else of it is judged (R51). -/
theorem State.applyRecord_unpowered (s : State) (h : RecHdr) (i : Nat) (take : State → State × Took)
    (hu : scaleOff s.scale h.unit = true) : s.applyRecord h i take = s.skipRecord h.unit i :=
  if_pos hu

/-- A row that takes the next record reads it past and skips it, when its unit has no power (R40, R51). -/
theorem State.takeRecord_unpowered (s : State) (p : Nat → Bool) (take : State → Nat → List Byte → State × Took) (h : RecHdr)
    (body : List Byte) (hn : s.nextRecord = some (h, body)) (hu : scaleOff s.scale h.unit = true) (hp : p h.type = true)
    (h0 : h.type ≠ 0) : s.takeRecord p take = (s.pastRecord h).skipRecord h.unit s.boot.recIndex := by
  unfold State.takeRecord
  rw [hn]
  dsimp only
  rw [hp, if_neg (by simp), if_neg h0]
  exact State.applyRecord_unpowered _ h _ _ hu

/-- Settles O42: each row that takes a record skips that of a unit without power, whose OPTIONAL bit is not read. -/
theorem recordsOfUnpoweredUnitsAreSkipped : Obligations.RecordsOfUnpoweredUnitsAreSkipped := by
  intro s h body hn hu
  have skip (p : Nat → Bool) (take : State → Nat → List Byte → State × Took) (n : Nat) (ht : h.type = n) (hp : p n = true)
      (h0 : n ≠ 0) : Host.Outcome.next (φ := Fault) (ρ := Refusal) (s.takeRecord p take) =
        .next ((s.pastRecord h).skipRecord h.unit s.boot.recIndex) :=
    congrArg _ (s.takeRecord_unpowered p take h body hn hu (ht ▸ hp) (ht ▸ h0))
  exact ⟨fun ht => skip _ _ 1 ht rfl (by decide), fun ht => skip _ _ 2 ht rfl (by decide), fun ht => skip _ _ 3 ht rfl (by decide),
    fun ht => skip _ _ 4 ht rfl (by decide), fun ht => skip _ _ 0x100 ht rfl (by decide),
    fun b => s.applyRecord_unpowered { h with optional := b } _ _ hu⟩

end Sys2Proof.Machine
end

section
/-!
Releasing cores, and staging an image: what a write of BOOT_RELEASE starts, what the staging registers do to the page buffer and the flash.
-/

namespace Sys2Proof.Machine

/-! ## What an access finds -/

@[simp] theorem State.get_awake (s : State) (o : Sys2Proof.Origin) (u b : Nat) (f : Fld) : (s.awake o u).get b f = s.get b f := rfl

@[simp] theorem State.boot_awake (s : State) (o : Sys2Proof.Origin) (u : Nat) : (s.awake o u).boot = s.boot := rfl

@[simp] theorem State.out_awake (s : State) (o : Sys2Proof.Origin) (u : Nat) : (s.awake o u).out = s.out := rfl

@[simp] theorem State.get_modBoot (s : State) (g : Boot → Boot) (b : Nat) (f : Fld) : (s.modBoot g).get b f = s.get b f := rfl

@[simp] theorem State.out_modBoot (s : State) (g : Boot → Boot) : (s.modBoot g).out = s.out := rfl

/-! ## The release of cores (R94, R95) -/

/-- The cores of `mask` that a release starts: those with power at the scale that neither run nor start already. -/
def State.coresToStart (s : State) (mask : Nat) : Nat :=
  (mask &&& coresPowered s.scale) &&& (0x3FFFFFF - ((s.get BootRunning.adr BootRunning.core ||| s.boot.released.toNat) &&& 0x3FFFFFF))

/-- The device with the cores of map `m` taken out of reserve, about to fetch, and the boot information block of the moment. -/
def State.coresStarted (s : State) (m : Nat) : State :=
  ((s.set (SvcKind.adr 0) SvcKind.reserveMap
      (s.get (SvcKind.adr 0) SvcKind.reserveMap - (s.get (SvcKind.adr 0) SvcKind.reserveMap &&& m))).modBoot fun b =>
    { b with released := b.released ||| BitVec.ofNat 26 m
             bootInfo := [SysTrust.adr, BootStatus.adr, BootInstall.adr, BootEpoch.adr, BootKeys.adr].map s.rd }).startClocks
    ((List.range 26).filter (bit m))

/-- A release starts the cores that are to start, with CORE_RELEASED, or does nothing where there is none. -/
theorem State.releaseCores_eq (s : State) (mask : Nat) : s.releaseCores mask =
    if s.coresToStart mask = 0 then s else (s.coresStarted (s.coresToStart mask)).raise 1 8 (s.coresToStart mask) := rfl

theorem State.boot_coresStarted (s : State) (m : Nat) : (s.coresStarted m).boot = { s.boot with
    released := s.boot.released ||| BitVec.ofNat 26 m
    bootInfo := [SysTrust.adr, BootStatus.adr, BootInstall.adr, BootEpoch.adr, BootKeys.adr].map s.rd } := by
  simp [State.coresStarted]

/-- With every powered core at rest, the powered cores of the mask are those to start. -/
theorem State.coresToStart_at_rest (s : State) (mask : Nat) (hrun : s.get BootRunning.adr BootRunning.core = 0)
    (hrel : s.boot.released = 0) (hp : mask &&& coresPowered s.scale = mask) (hm : mask < 2 ^ 26) : s.coresToStart mask = mask := by
  unfold State.coresToStart
  rw [hrun, hrel, hp]
  exact (Nat.and_two_pow_sub_one_eq_mod mask 26).trans (Nat.mod_eq_of_lt hm)

/-- At scale 4 every core has power (R2). -/
theorem and_coresPowered_four (mask : Nat) (hm : mask < 2 ^ 26) : mask &&& coresPowered 4 = mask :=
  (Nat.and_two_pow_sub_one_eq_mod mask 26).trans (Nat.mod_eq_of_lt hm)

theorem execBootReleaseWrite_firmware (o : Sys2Proof.Origin) (mask : BitVec 26) (s : State) (ho : o = .firmware ∨ o = .base)
    (h : s.Open o 1 0x1020 false false) : execBootReleaseWrite o mask s = .next ((s.awake o 1).releaseCores mask.toNat) := by
  rw [execBootReleaseWrite, State.bootRelease, State.gate_open _ _ _ _ _ _ _ h, if_pos ho]
  rfl

theorem execBootReleaseWrite_other (o : Sys2Proof.Origin) (mask : BitVec 26) (s : State) (ho : o = .host ∨ o = .management)
    (h : s.Open o 1 0x1020 false false) : execBootReleaseWrite o mask s = .next ((s.awake o 1).raise 1 2 0x1020) := by
  rw [execBootReleaseWrite, State.bootRelease, State.gate_open _ _ _ _ _ _ _ h,
    if_neg (by rcases ho with rfl | rfl <;> simp)]
  rfl

/-- A release by firmware at scale 4, with every core at rest. -/
theorem execBootReleaseWrite_starts (o : Sys2Proof.Origin) (mask : BitVec 26) (s : State) (ho : o = .firmware ∨ o = .base)
    (h : s.Open o 1 0x1020 false false) (hsc : s.scale = 4) (hm : mask ≠ 0) (hrun : s.get BootRunning.adr BootRunning.core = 0)
    (hrel : s.boot.released = 0) :
    ∃ t, execBootReleaseWrite o mask s = .next t ∧ t.boot.released = mask ∧
      t.boot.bootInfo = [s.rd SysTrust.adr, s.rd BootStatus.adr, s.rd BootInstall.adr, s.rd BootEpoch.adr, s.rd BootKeys.adr] ∧
      t.get (Hdr.adr 1) Hdr.momEvent = 8 ∧ t.get (Hdr.adr 1) Hdr.momDetail = mask.toNat := by
  have hs : (s.awake o 1).coresToStart mask.toNat = mask.toNat :=
    State.coresToStart_at_rest (s.awake o 1) _ hrun hrel
      ((congrArg (fun n => mask.toNat &&& coresPowered n) hsc).trans (and_coresPowered_four _ mask.isLt)) mask.isLt
  have hne : mask.toNat ≠ 0 := fun h0 => hm (BitVec.eq_of_toNat_eq h0)
  refine ⟨_, execBootReleaseWrite_firmware o mask s ho h, ?_⟩
  rw [State.releaseCores_eq, hs, if_neg hne]
  refine ⟨?_, ?_, State.raise_momEvent _ _ _ _, ?_⟩
  · rw [State.raise_boot, State.boot_coresStarted]
    simp [hrel]
  · rw [State.raise_boot, State.boot_coresStarted]
    rfl
  · rw [State.raise_momDetail, Nat.mod_eq_of_lt (Nat.lt_trans mask.isLt (by decide))]

theorem sfind_sins_same {α : Type} (m : List (Nat × α)) (j : Nat) (w : α) : sfind (sins m j w) j = some w := by
  induction m with
  | nil => simp [sins, sfind]
  | cons p m ih =>
    obtain ⟨k, v⟩ := p
    rw [sins]
    split
    · exact if_pos rfl
    · split
      · exact if_pos rfl
      · rename_i hne
        exact (if_neg hne).trans ih

/-- A released core starts at its vector (R93, R94). -/
theorem execCoreFirstFetch_released (n : Fin 26) (s : State) (h : s.boot.released.getLsbD n = true) :
    ∃ t, execCoreFirstFetch n s = .next t ∧ bit (t.get BootRunning.adr BootRunning.core) n = true ∧ t.boot.released.getLsbD n = false ∧
      sfind t.boot.cores n = some ⟨s.get (BootVector.adr n) BootVector.address, n, Config.bootInfoAddr, true⟩ := by
  refine ⟨_, by rw [execCoreFirstFetch, if_pos h], ?_, ?_, ?_⟩
  · rw [State.get_modBoot, State.get_set_same, Nat.mod_eq_of_lt, bit_or_two_pow]
    exact Nat.or_lt_two_pow (Nat.mod_lt _ (by decide)) (Nat.pow_lt_pow_right (by decide) n.isLt)
  · rw [State.modBoot_boot]
    simp
  · rw [State.modBoot_boot]
    exact sfind_sins_same _ _ _

/-! ## Staging (R87, R88) -/

/-- A staging write that finds the path open and the flash free has its own effect. -/
theorem State.staging_open (s : State) (o : Sys2Proof.Origin) (off : Nat) (act : State → WRes) (h : s.Open o 2 off true false)
    (hs : s.stageOpen = true) (hb : s.getB CfgStageCmd.adr CfgStageCmd.busy = false) : s.staging o off act = act (s.awake o 2) := by
  rw [State.staging, State.gate_open _ _ _ _ _ _ _ h]
  refine if_neg ?_
  change ¬(!s.stageOpen || s.getB CfgStageCmd.adr CfgStageCmd.busy) = true
  simp [hs, hb]

/-- One that finds the flash closed or busy is turned away with FLASH_BUSY (R37, R87). -/
theorem State.staging_busy (s : State) (o : Sys2Proof.Origin) (off : Nat) (act : State → WRes) (h : s.Open o 2 off true false)
    (hs : s.stageOpen = false ∨ s.getB CfgStageCmd.adr CfgStageCmd.busy = true) :
    s.staging o off act = (s.awake o 2).stageNo 1 .flashBusy := by
  rw [State.staging, State.gate_open _ _ _ _ _ _ _ h]
  refine if_pos ?_
  change (!s.stageOpen || s.getB CfgStageCmd.adr CfgStageCmd.busy) = true
  rcases hs with hs | hs <;> simp [hs]

/-- The buffer and the address after a word (R88). -/
def State.wordStaged (s : State) (data : Word) : State :=
  (s.modBoot fun b => { b with page := sins b.page (s.get CfgStageAddr.adr CfgStageAddr.offset) data }).set
    CfgStageAddr.adr CfgStageAddr.offset (s.get CfgStageAddr.adr CfgStageAddr.offset + 4)

theorem State.boot_wordStaged (s : State) (data : Word) :
    (s.wordStaged data).boot = { s.boot with page := sins s.boot.page (s.get CfgStageAddr.adr CfgStageAddr.offset) data } := by
  simp [State.wordStaged]

theorem State.out_wordStaged (s : State) (data : Word) : (s.wordStaged data).out = s.out := by
  simp [State.wordStaged]

section
variable (o : Sys2Proof.Origin) (data : Word) (s : State)

/-- A word that finds the flash open and free is refused outside the area, and enters the page buffer inside it; the last word of a page
programs the page. -/
theorem execStageDataWrite_free (h : s.Open o 2 0x1014 true false) (hs : s.stageOpen = true)
    (hb : s.getB CfgStageCmd.adr CfgStageCmd.busy = false) :
    execStageDataWrite o data s = .next
      (if s.stageArea.2 < s.get CfgStageAddr.adr CfgStageAddr.offset + 4 then (s.awake o 2).set CfgStageCmd.adr CfgStageCmd.status 2
      else if s.get CfgStageAddr.adr CfgStageAddr.offset % 256 = 252 then
        ((s.awake o 2).wordStaged data).stagePage (s.get CfgStageAddr.adr CfgStageAddr.offset - 252)
      else (s.awake o 2).wordStaged data) := by
  rw [execStageDataWrite, State.stageData, State.staging_open _ _ _ _ h hs hb]
  change WRes.out (if s.stageArea.2 < s.get CfgStageAddr.adr CfgStageAddr.offset + 4 then _ else _) = _
  split <;> rfl

theorem execStageDataWrite_inside (h : s.Open o 2 0x1014 true false) (hs : s.stageOpen = true)
    (hb : s.getB CfgStageCmd.adr CfgStageCmd.busy = false) (ha : s.get CfgStageAddr.adr CfgStageAddr.offset + 4 ≤ s.stageArea.2)
    (hp : s.get CfgStageAddr.adr CfgStageAddr.offset % 256 ≠ 252) :
    execStageDataWrite o data s = .next ((s.awake o 2).wordStaged data) := by
  rw [execStageDataWrite_free o data s h hs hb, if_neg (Nat.not_lt.2 ha), if_neg hp]

theorem execStageDataWrite_outside (h : s.Open o 2 0x1014 true false) (hs : s.stageOpen = true)
    (hb : s.getB CfgStageCmd.adr CfgStageCmd.busy = false) (ha : s.stageArea.2 < s.get CfgStageAddr.adr CfgStageAddr.offset + 4) :
    execStageDataWrite o data s = .next ((s.awake o 2).set CfgStageCmd.adr CfgStageCmd.status 2) := by
  rw [execStageDataWrite_free o data s h hs hb, if_pos ha]

theorem execStageDataWrite_busy (h : s.Open o 2 0x1014 true false)
    (hs : s.stageOpen = false ∨ s.getB CfgStageCmd.adr CfgStageCmd.busy = true) :
    execStageDataWrite o data s = .next ((s.awake o 2).set CfgStageCmd.adr CfgStageCmd.status 1) := by
  rw [execStageDataWrite, State.stageData, State.staging_busy _ _ _ _ h hs]
  rfl

end

/-- The bytes of the page at `p` as the buffer holds them; those that it does not hold are FFh (R88). -/
def State.pageBytes (s : State) (p : Nat) : List Byte :=
  (List.range 64).flatMap fun i => leBytes 4 ((sfind s.boot.page (p + 4 * i)).map (·.toNat) |>.getD 0xFFFFFFFF)

theorem length_leBytes (n v : Nat) : (leBytes n v).length = n := by
  induction n generalizing v with
  | zero => rfl
  | succ n ih => exact congrArg (· + 1) (ih _)

theorem length_flatMap_words (n : Nat) (g : Nat → Nat) : ((List.range n).flatMap fun i => leBytes 4 (g i)).length = 4 * n := by
  induction n with
  | zero => rfl
  | succ n ih =>
    rw [List.range_succ, List.flatMap_append, List.length_append, ih, List.flatMap_singleton, length_leBytes]
    rfl

theorem State.length_pageBytes (s : State) (p : Nat) : (s.pageBytes p).length = 256 := length_flatMap_words 64 _

/-- The last word of the page. -/
theorem State.drop_pageBytes (s : State) (p : Nat) :
    (s.pageBytes p).drop 252 = leBytes 4 ((sfind s.boot.page (p + 252)).map (·.toNat) |>.getD 0xFFFFFFFF) := by
  unfold State.pageBytes
  rw [List.range_succ, List.flatMap_append, List.drop_left' (length_flatMap_words 63 _)]
  exact List.append_nil _

theorem State.stagePage_eq (s : State) (p : Nat) : s.stagePage p =
    (s.modBoot fun b => { b with page := b.page.filter fun x => x.1 / 256 != p / 256 }).stageRun
      (.program (s.stageArea.1 + p) (s.pageBytes p)) (.flashProgram (s.stageArea.1 + p) (s.pageBytes p)) := rfl

theorem State.out_stageRun (s : State) (op : StageOp) (x : Out) : (s.stageRun op x).out = s.out ++ [x] := by
  simp [State.stageRun, State.emit]

/-- An operation that begins shows BUSY. -/
theorem State.busy_stageRun (s : State) (op : StageOp) (x : Out) : (s.stageRun op x).get CfgStageCmd.adr CfgStageCmd.busy = 1 := by
  change ((s.set CfgStageCmd.adr CfgStageCmd.busy 1).set CfgStageCmd.adr CfgStageCmd.status 0).get CfgStageCmd.adr CfgStageCmd.busy = 1
  rw [State.get_set_apart _ _ _ _ _ _ (by decide), State.get_set_same]
  rfl

/-- The word that completes a page programs it. -/
theorem execStageDataWrite_programs (o : Sys2Proof.Origin) (data : Word) (s : State) (h : s.Open o 2 0x1014 true false)
    (hs : s.stageOpen = true) (hb : s.getB CfgStageCmd.adr CfgStageCmd.busy = false)
    (ha : s.get CfgStageAddr.adr CfgStageAddr.offset + 4 ≤ s.stageArea.2)
    (hp : s.get CfgStageAddr.adr CfgStageAddr.offset % 256 = 252) :
    ∃ t bytes, execStageDataWrite o data s = .next t ∧ t.get CfgStageCmd.adr CfgStageCmd.busy = 1 ∧ bytes.length = 256 ∧
      t.out = s.out ++ [.flashProgram (s.stageArea.1 + (s.get CfgStageAddr.adr CfgStageAddr.offset - 252)) bytes] ∧
      bytes.drop 252 = leBytes 4 data.toNat := by
  refine ⟨((s.awake o 2).wordStaged data).stagePage (s.get CfgStageAddr.adr CfgStageAddr.offset - 252),
    ((s.awake o 2).wordStaged data).pageBytes (s.get CfgStageAddr.adr CfgStageAddr.offset - 252),
    by rw [execStageDataWrite_free o data s h hs hb, if_neg (Nat.not_lt.2 ha), if_pos hp],
    State.busy_stageRun _ _ _, State.length_pageBytes _ _, ?_, ?_⟩
  · have hh : ((s.awake o 2).wordStaged data).stageArea = s.stageArea := by
      unfold State.stageArea
      rw [State.boot_wordStaged, State.boot_awake]
    rw [State.stagePage_eq, State.out_stageRun, State.out_modBoot, State.out_wordStaged, State.out_awake, hh]
  · have hoff : s.get CfgStageAddr.adr CfgStageAddr.offset - 252 + 252 = s.get CfgStageAddr.adr CfgStageAddr.offset := by omega
    rw [State.drop_pageBytes, hoff, State.boot_wordStaged, State.get_awake]
    exact congrArg (fun x : Option Word => leBytes 4 ((x.map (·.toNat)).getD 0xFFFFFFFF)) (sfind_sins_same _ _ _)

/-! ## Staging commands -/

section
variable (o : Sys2Proof.Origin) (s : State)

theorem execErase64k_open (h : s.Open o 2 0x1018 true false) (hs : s.stageOpen = true)
    (hb : s.getB CfgStageCmd.adr CfgStageCmd.busy = false) (ha : s.get CfgStageAddr.adr CfgStageAddr.offset < s.stageArea.2) :
    execErase64k o none s = .next ((s.awake o 2).stageRun
      (.erase (s.stageArea.1 + s.get CfgStageAddr.adr CfgStageAddr.offset / 0x10000 * 0x10000))
      (.flashErase (s.stageArea.1 + s.get CfgStageAddr.adr CfgStageAddr.offset / 0x10000 * 0x10000))) := by
  have hin : ¬(s.stageArea.2 = 0 ∨ 1 = 1 ∧ s.stageArea.2 ≤ s.get CfgStageAddr.adr CfgStageAddr.offset) := by omega
  rw [execErase64k, State.stageMsg, State.stageCmd, State.staging_open _ _ _ _ h hs hb]
  exact congrArg (fun x : WRes => Host.Outcome.next x.1) (if_neg hin)

/-- MARK and UNMARK write the MARKER where a staging area is known (R83). -/
theorem State.stageCmd_marks (op : Nat) (hop : op = 2 ∨ op = 3) (h : s.Open o 2 0x1018 true false) (hs : s.stageOpen = true)
    (hb : s.getB CfgStageCmd.adr CfgStageCmd.busy = false) (ha : s.stageArea.2 ≠ 0) :
    s.stageCmd o op = ((s.awake o 2).stageMark (if op = 2 then 0xA55AC33C else 0)).done := by
  have hin : ¬(s.stageArea.2 = 0 ∨ op = 1 ∧ s.stageArea.2 ≤ s.get CfgStageAddr.adr CfgStageAddr.offset) := by omega
  rw [State.stageCmd, State.staging_open _ _ _ _ h hs hb]
  dsimp only
  rw [if_neg (by omega), if_neg (by omega), if_neg (by omega), if_neg (by exact hin), if_neg (by omega)]

theorem execStageFlush_open (p : Nat) (w : Word) (l : List (Nat × Word)) (h : s.Open o 2 0x1018 true false)
    (hs : s.stageOpen = true) (hb : s.getB CfgStageCmd.adr CfgStageCmd.busy = false) (hp : s.boot.page = (p, w) :: l) :
    execStageFlush o none s = .next ((s.awake o 2).stagePage (p / 256 * 256)) := by
  rw [execStageFlush, State.stageMsg, State.stageCmd, State.staging_open _ _ _ _ h hs hb]
  dsimp only
  rw [if_neg (by decide), if_neg (by decide), if_pos rfl, State.boot_awake, hp]
  rfl

end

/-! ## The end of a flash operation (R515) -/

theorem execStageDone_ok (op : StageOp) (s : State) (h : s.boot.stageOp = some op) :
    execStageDone true s = .next ((((s.modBoot fun b => { b with stageOp := none }).set CfgStageCmd.adr CfgStageCmd.busy 0).set
      CfgStageCmd.adr CfgStageCmd.status 0).raise 2 5 0) := by
  rw [execStageDone, h]
  rfl

theorem execStageDone_error (op : StageOp) (s : State) (h : s.boot.stageOp = some op) :
    ∃ t, execStageDone false s = .next t ∧ t.boot.stageOp = none ∧ t.get CfgStageCmd.adr CfgStageCmd.busy = 0 ∧
      t.get CfgStageCmd.adr CfgStageCmd.status = 3 ∧ t.get (Hdr.adr 2) Hdr.momEvent = 6 := by
  refine ⟨((((s.modBoot fun b => { b with stageOp := none }).set CfgStageCmd.adr CfgStageCmd.busy 0).set
    CfgStageCmd.adr CfgStageCmd.status 3).raise 2 5 3).raise 2 6 (op.offset s.stageArea.1), ?_, ?_, ?_, ?_,
    State.raise_momEvent _ _ _ _⟩
  · rw [execStageDone, h]
    rfl
  · simp
  · rw [State.get_raise _ _ _ _ _ _ (by decide), State.get_raise _ _ _ _ _ _ (by decide),
      State.get_set_apart _ _ _ _ _ _ (by decide), State.get_set_same]
    rfl
  · rw [State.get_raise _ _ _ _ _ _ (by decide), State.get_raise _ _ _ _ _ _ (by decide), State.get_set_same]
    rfl

/-- Settles O21: what a release writes, what the first fetch leaves, and each staging write and its end. -/
theorem coresAreReleasedAndImagesStaged : Obligations.CoresAreReleasedAndImagesStaged :=
  ⟨execBootReleaseWrite_starts, execBootReleaseWrite_other, execCoreFirstFetch_released, execStageDataWrite_inside,
    execStageDataWrite_programs, execStageDataWrite_outside, execStageDataWrite_busy, execErase64k_open,
    fun o s h hs hb ha => ⟨congrArg (fun x : WRes => Host.Outcome.next x.1) (s.stageCmd_marks o 2 (.inl rfl) h hs hb ha),
      congrArg (fun x : WRes => Host.Outcome.next x.1) (s.stageCmd_marks o 3 (.inr rfl) h hs hb ha)⟩,
    fun o p w l s => execStageFlush_open o s p w l, execStageDone_ok, execStageDone_error⟩

end Sys2Proof.Machine
end

section
/-!
Install, the choice of images, and step 11: what each writes in the registers of U01 and U02 and in the start's own state.
-/

namespace Sys2Proof.Machine

/-! ## What trust, a fallback and a written slot leave alone -/

@[simp] theorem State.boot_loseTrust (s : State) : s.loseTrust.boot = s.boot := by
  unfold State.loseTrust
  split
  · rfl
  · rw [State.raise_boot, State.set_boot]

theorem State.get_loseTrust (s : State) (b : Nat) (f : Fld) (hq : f.Quiet b)
    (ha : SysTrust.trustLost.Apart SysTrust.adr b f) : s.loseTrust.get b f = s.get b f := by
  unfold State.loseTrust
  split
  · rfl
  · rw [State.get_raise _ _ _ _ _ _ hq, State.get_set_apart _ _ _ _ _ _ ha]

/-- TRUST_LOST is set (R79, R80). -/
theorem State.trustLost_loseTrust (s : State) : s.loseTrust.getB SysTrust.adr SysTrust.trustLost = true := by
  unfold State.loseTrust
  split
  · assumption
  · unfold State.getB
    rw [State.get_raise _ _ _ _ _ _ (by decide), State.get_set_same]
    rfl

/-- The first candidate is no fallback (R78). -/
theorem State.fellBack_first (s : State) (fw trusted : Bool) (i : Option Nat) : s.fellBack fw ⟨i, trusted, false⟩ = s :=
  if_neg fun h => Bool.false_ne_true h.2

@[simp] theorem State.boot_fellBack (s : State) (fw : Bool) (c : Choice) : (s.fellBack fw c).boot = s.boot := by
  unfold State.fellBack
  split
  · rw [State.raise_boot, State.set_boot]
  · rfl

@[simp] theorem State.out_fellBack (s : State) (fw : Bool) (c : Choice) : (s.fellBack fw c).out = s.out := by
  unfold State.fellBack
  split
  · rw [State.raise_out, State.set_out]
  · rfl

/-- A fallback writes SYS_TRUST and what its event writes. -/
theorem State.get_fellBack (s : State) (fw : Bool) (c : Choice) (b : Nat) (f : Fld) (hq : f.Quiet b)
    (ha : SysTrust.adr + 4 ≤ b + f.off) : (s.fellBack fw c).get b f = s.get b f := by
  unfold State.fellBack
  split
  · rw [State.get_raise _ _ _ _ _ _ hq, State.get_set_apart _ _ _ _ _ _ (.inl (by cases fw <;> exact ha))]
  · rfl

theorem foldl_emit {α : Type} (g : α → Out) (l : List α) (s : State) :
    l.foldl (fun (s : State) i => s.emit (g i)) s = { s with out := s.out ++ l.map g } := by
  induction l generalizing s with
  | nil => simp
  | cons x l ih =>
    rw [List.foldl_cons, ih]
    simp [State.emit]

/-- What the writing of a slot sends to the flash: its sectors erased, then the pages of the image (R84). -/
def slotWrites (base size : Nat) (img : List Byte) : List Out :=
  ((List.range (size / 0x10000)).map fun i => .flashErase (base + 0x10000 * i)) ++
    (List.range ((img.length + 255) / 256)).map fun i => .flashProgram (base + 256 * i) ((img.drop (256 * i)).take 256)

theorem State.writeSlot_eq (s : State) (base size : Nat) (img : List Byte) :
    s.writeSlot base size img = { s with out := s.out ++ slotWrites base size img } := by
  unfold State.writeSlot
  rw [foldl_emit, foldl_emit, slotWrites, List.append_assoc]

theorem mem_slotWrites (base size : Nat) (img : List Byte) (i : Nat) (h : i < size / 0x10000) :
    Out.flashErase (base + 0x10000 * i) ∈ slotWrites base size img :=
  List.mem_append_left _ (List.mem_map.2 ⟨i, List.mem_range.2 h, rfl⟩)

/-! ## The choice (R78) -/

section
variable {s t : State} (hb : t.boot = s.boot) (hsc : t.scale = s.scale)
include hb

theorem State.slotSize_congr (fw : Bool) : t.slotSize fw = s.slotSize fw := by
  unfold State.slotSize
  rw [hb]

theorem State.counter_congr (fw : Bool) : t.counter fw = s.counter fw := by
  unfold State.counter State.fwCounter State.cfgCounter
  rw [hb]

include hsc

theorem State.imgValid_congr (fw : Bool) (img : List Byte) : t.imgValid fw img = s.imgValid fw img := by
  unfold State.imgValid
  rw [State.slotSize_congr hb, hsc]

theorem State.imgTrusted_congr (fw : Bool) (img : List Byte) : t.imgTrusted fw img = s.imgTrusted fw img := by
  unfold State.imgTrusted
  rw [State.imgValid_congr hb hsc, State.counter_congr hb, hb]

theorem State.candidateSlots_congr (fw : Bool) (hs : List (List Byte)) : t.candidateSlots fw hs = s.candidateSlots fw hs := by
  unfold State.candidateSlots
  rw [State.slotSize_congr hb, State.counter_congr hb, hsc]

theorem State.chooseFrom_congr (fw : Bool) (hs imgs : List (List Byte)) (first fallback : Option Nat) (c : List Nat) :
    t.chooseFrom fw hs imgs first fallback c = s.chooseFrom fw hs imgs first fallback c := by
  induction c generalizing fallback with
  | nil => rfl
  | cons i is ih => simp only [State.chooseFrom, State.imgTrusted_congr hb hsc, State.imgValid_congr hb hsc, ih]

/-- The choice rests on the start's own state and the scale alone. -/
theorem State.chooseSlot_congr (fw : Bool) (hs imgs : List (List Byte)) : t.chooseSlot fw hs imgs = s.chooseSlot fw hs imgs := by
  unfold State.chooseSlot
  rw [State.candidateSlots_congr hb hsc, State.chooseFrom_congr hb hsc]

end

/-- Where no header is sound there is no candidate. -/
theorem State.candidateSlots_unsound (s : State) (fw : Bool) (a b : List Byte)
    (h : ([a, b].all fun x => !sound fw (s.slotSize fw) s.scale x) = true) : s.candidateSlots fw [a, b] = [] := by
  simp only [List.all_cons, List.all_nil, Bool.and_true, Bool.and_eq_true, Bool.not_eq_true'] at h
  obtain ⟨ha, hb⟩ := h
  simp [State.candidateSlots, ha, hb]

/-! ## Install (R83–R85) -/

/-- The install shows its kind, and the key where the envelope is sound. -/
def State.installNamed (s : State) (h : FlashHdr) (env img : List Byte) : State :=
  if s.installFault h env img = 0x10 then s.set BootInstall.adr BootInstall.kind (leAt env 4 1)
  else (s.set BootInstall.adr BootInstall.kind (leAt env 4 1)).set BootInstall.adr BootInstall.key (leAt img 28 1)

section
variable (s : State) (h : FlashHdr) (env img : List Byte)

@[simp] theorem State.boot_installNamed : (s.installNamed h env img).boot = s.boot := by
  unfold State.installNamed
  split <;> simp

@[simp] theorem State.out_installNamed : (s.installNamed h env img).out = s.out := by
  unfold State.installNamed
  split <;> simp

@[simp] theorem State.scale_installNamed : (s.installNamed h env img).scale = s.scale := by
  unfold State.installNamed State.scale
  split
  · rw [State.get_set_apart _ _ _ _ _ _ (by decide)]
  · rw [State.get_set_apart _ _ _ _ _ _ (by decide), State.get_set_apart _ _ _ _ _ _ (by decide)]

theorem State.kind_installNamed : (s.installNamed h env img).get BootInstall.adr BootInstall.kind = leAt env 4 1 % 4 := by
  unfold State.installNamed
  split
  · rw [State.get_set_same]
    rfl
  · rw [State.get_set_apart _ _ _ _ _ _ (by decide), State.get_set_same]
    rfl

end

/-- What an install leaves that ends with `result`, outside a replacement (R84, R96). -/
theorem State.installEnds_eq (s : State) (h : FlashHdr) (result : Nat) (hr : s.boot.replacing = none) :
    s.installEnds h result = (((s.set BootInstall.adr BootInstall.result result).emit (.flashProgram h.stage [0, 0, 0, 0])).raise
      1 4 result).set BootStatus.adr BootStatus.step 8 := by
  unfold State.installEnds
  rw [State.stepDone_of_none _ 7 (by simp [hr]) (by decide)]
  rfl

/-- The end of an install: RESULT, the event, the MARKER cleared, and step 8; KIND and SLOT stay. -/
structure InstallEnds (h : FlashHdr) (result : Nat) (s t : State) : Prop where
  step : t.bootStep = 8
  result : t.get BootInstall.adr BootInstall.result = result % 256
  event : t.get (Hdr.adr 1) Hdr.momEvent = 4
  out : t.out = s.out ++ [.flashProgram h.stage [0, 0, 0, 0]]
  kind : t.get BootInstall.adr BootInstall.kind = s.get BootInstall.adr BootInstall.kind
  slot : t.get BootInstall.adr BootInstall.slot = s.get BootInstall.adr BootInstall.slot

theorem State.installEnds_ends (s : State) (h : FlashHdr) (result : Nat) (hr : s.boot.replacing = none) :
    InstallEnds h result s (s.installEnds h result) := by
  have stays : ∀ f : Fld, BootStatus.step.Apart BootStatus.adr BootInstall.adr f → f.Quiet BootInstall.adr →
      (s.installEnds h result).get BootInstall.adr f = (s.set BootInstall.adr BootInstall.result result).get BootInstall.adr f := by
    intro f ha hq
    rw [s.installEnds_eq h result hr, State.get_set_apart _ _ _ _ _ _ ha, State.get_raise _ _ _ _ _ _ hq, State.get_emit]
  refine ⟨?_, ?_, ?_, ?_, ?_, ?_⟩
  · rw [s.installEnds_eq h result hr]
    exact State.bootStep_set _ 8
  · rw [stays _ (by decide) (by decide), State.get_set_same]
    rfl
  · rw [s.installEnds_eq h result hr, State.get_set_apart _ _ _ _ _ _ (by decide), State.raise_momEvent]
  · rw [s.installEnds_eq h result hr, State.set_out, State.raise_out]
    exact congrArg (· ++ _) (State.set_out _ _ _ _)
  · rw [stays _ (by decide) (by decide), State.get_set_apart _ _ _ _ _ _ (by decide)]
  · rw [stays _ (by decide) (by decide), State.get_set_apart _ _ _ _ _ _ (by decide)]

/-- The slot that an install programs, which is not the one that the choice returns. -/
def Choice.target (c : Choice) : Nat := if c.slot = some 0 then 1 else 0

/-- The flash offset of slot `target` of a kind. -/
def FlashHdr.slotBase (h : FlashHdr) (fw : Bool) (target : Nat) : Nat :=
  if fw then (if target = 0 then h.fwA else h.fwB) else (if target = 0 then h.cfgA else h.cfgB)

theorem FlashHdr.slotBase_target (h : FlashHdr) (fw : Bool) (c : Choice) : h.slotBase fw c.target =
    if c.slot = some 0 then (if fw then h.fwB else h.cfgB) else (if fw then h.fwA else h.cfgA) := by
  unfold FlashHdr.slotBase Choice.target
  by_cases hc : c.slot = some 0
  · rw [if_pos hc, if_pos hc]
    rfl
  · rw [if_neg hc, if_neg hc]
    rfl

/-- The device with the target slot of choice `c` erased and the sealed image programmed into it. -/
def State.slotInstalled (s : State) (h : FlashHdr) (env img duk : List Byte) (fw : Bool) (c : Choice) : State :=
  (((s.installNamed h env img).fellBack fw c).set BootInstall.adr BootInstall.slot c.target).writeSlot (h.slotBase fw c.target)
    (s.slotSize fw) (sealedImage duk fw img)

section
variable (s : State) (h : FlashHdr) (env img duk : List Byte) (fw : Bool) (c : Choice)

theorem State.boot_slotInstalled : (s.slotInstalled h env img duk fw c).boot = s.boot := by
  unfold State.slotInstalled
  rw [State.writeSlot_eq]
  simp

theorem State.out_slotInstalled : (s.slotInstalled h env img duk fw c).out =
    s.out ++ slotWrites (h.slotBase fw c.target) (s.slotSize fw) (sealedImage duk fw img) := by
  unfold State.slotInstalled
  rw [State.writeSlot_eq]
  simp

theorem State.slot_slotInstalled : (s.slotInstalled h env img duk fw c).get BootInstall.adr BootInstall.slot = c.target := by
  unfold State.slotInstalled
  rw [State.writeSlot_eq]
  refine (State.get_set_same _ _ _ _).trans (Nat.mod_eq_of_lt ?_)
  unfold Choice.target
  split <;> decide

theorem State.kind_slotInstalled : (s.slotInstalled h env img duk fw c).get BootInstall.adr BootInstall.kind = leAt env 4 1 % 4 := by
  unfold State.slotInstalled
  rw [State.writeSlot_eq]
  refine (State.get_set_apart _ _ _ _ _ _ (by decide)).trans ?_
  rw [State.get_fellBack _ _ _ _ _ (by decide) (by decide), State.kind_installNamed]

end

section
variable {s : State} {h : FlashHdr} (env img a b back : List Byte) (hst : s.atStep 7 = true) (hh : s.boot.hdr = some h)
include hst hh

/-- Step 7 without a MARKER goes on to step 8 (R83). -/
theorem execInstall_unmarked (hr : s.boot.replacing = none) (hm : leAt env 0 4 ≠ 0xA55AC33C) :
    execInstall env img a b back s = .next (s.set BootStatus.adr BootStatus.step 8) := by
  unfold execInstall
  rw [hst, Bool.true_or, if_pos rfl, hh]
  dsimp only
  rw [if_pos (bne_iff_ne.2 hm), State.stepDone_of_none _ 7 hr (by decide)]

/-- A check that fails ends the install before the flash is touched (R84). -/
theorem execInstall_refused (hm : leAt env 0 4 = 0xA55AC33C) (hf : s.installFault h env img ≠ 0) :
    execInstall env img a b back s = .next ((s.installNamed h env img).installEnds h (s.installFault h env img)) := by
  unfold execInstall
  rw [hst, Bool.true_or, if_pos rfl, hh]
  dsimp only
  rw [if_neg (by simp [hm]), if_pos hf]
  rfl

/-- When every check passes, the image is programmed, and what the slot reads back as is judged (R84). -/
theorem execInstall_written (duk : List Byte) (fw : Bool) (c : Choice) (hk : s.boot.romKey = some duk) (hm : leAt env 0 4 = 0xA55AC33C)
    (hfw : leAt env 4 1 = if fw then 1 else 2) (hc : s.chooseSlot fw [a.take 256, b.take 256] [a, b] = some c)
    (hf : s.installFault h env img = 0) :
    execInstall env img a b back s =
      .next ((s.slotInstalled h env img duk fw c).installEnds h (if readBackOk duk fw back then 1 else 0x16)) := by
  have hkind : (leAt env 4 1 == 1) = fw := by rw [hfw]; cases fw <;> rfl
  have hc' : (s.installNamed h env img).chooseSlot fw [a.take 256, b.take 256] [a, b] = some c :=
    (State.chooseSlot_congr (s.boot_installNamed h env img) (s.scale_installNamed h env img) _ _ _).trans hc
  have hk' : (s.installNamed h env img).boot.romKey = some duk := by rw [State.boot_installNamed, hk]
  unfold execInstall
  rw [hst, Bool.true_or, if_pos rfl, hh]
  dsimp only
  rw [if_neg (by simp [hm]), if_neg (by simp [hf]), hkind]
  unfold State.installNamed at hc' hk'
  rw [hc', hk']
  rfl

/-- An install with its MARKER, however it ends. -/
theorem execInstall_marked (duk : List Byte) (fw : Bool) (c : Choice) (hr : s.boot.replacing = none) (hk : s.boot.romKey = some duk)
    (hm : leAt env 0 4 = 0xA55AC33C) (hfw : leAt env 4 1 = if fw then 1 else 2)
    (hc : s.chooseSlot fw [a.take 256, b.take 256] [a, b] = some c) :
    ∃ t, execInstall env img a b back s = .next t ∧ t.bootStep = 8 ∧
      t.get BootInstall.adr BootInstall.kind = (if fw then 1 else 2) ∧
      t.get BootInstall.adr BootInstall.result =
        (if s.installFault h env img ≠ 0 then s.installFault h env img % 256 else if readBackOk duk fw back then 1 else 0x16) ∧
      t.get (Hdr.adr 1) Hdr.momEvent = 4 ∧ Out.flashProgram h.stage [0, 0, 0, 0] ∈ t.out ∧
      (s.installFault h env img = 0 → t.get BootInstall.adr BootInstall.slot = (if c.slot = some 0 then 1 else 0) ∧
        ∀ i < s.slotSize fw / 0x10000, Out.flashErase
          ((if c.slot = some 0 then (if fw then h.fwB else h.cfgB) else (if fw then h.fwA else h.cfgA)) + 0x10000 * i) ∈ t.out) ∧
      (s.installFault h env img ≠ 0 → t.out = s.out ++ [.flashProgram h.stage [0, 0, 0, 0]]) := by
  have hkind : leAt env 4 1 % 4 = if fw then 1 else 2 := by rw [hfw]; cases fw <;> rfl
  by_cases hf : s.installFault h env img = 0
  · have ends := (s.slotInstalled h env img duk fw c).installEnds_ends h (if readBackOk duk fw back then 1 else 0x16)
      (by rw [State.boot_slotInstalled, hr])
    refine ⟨_, execInstall_written env img a b back hst hh duk fw c hk hm hfw hc hf, ends.step, ?_, ?_, ends.event, ?_, fun _ => ⟨?_, ?_⟩,
      fun hne => absurd hf hne⟩
    · rw [ends.kind, State.kind_slotInstalled, hkind]
    · rw [ends.result, if_neg (not_not_intro hf)]
      split <;> rfl
    · rw [ends.out]
      exact List.mem_append_right _ List.mem_cons_self
    · rw [ends.slot, State.slot_slotInstalled]
      rfl
    · intro i hi
      rw [ends.out, State.out_slotInstalled, ← FlashHdr.slotBase_target]
      exact List.mem_append_left _ (List.mem_append_right _ (mem_slotWrites _ _ _ _ hi))
  · have ends := (s.installNamed h env img).installEnds_ends h (s.installFault h env img) (by rw [State.boot_installNamed, hr])
    have hout := ends.out
    rw [State.out_installNamed] at hout
    refine ⟨_, execInstall_refused env img a b back hst hh hm hf, ends.step, ?_, ?_, ends.event, ?_, fun h0 => absurd h0 hf, fun _ => hout⟩
    · rw [ends.kind, State.kind_installNamed, hkind]
    · rw [ends.result, if_pos hf]
    · rw [hout]
      exact List.mem_append_right _ List.mem_cons_self

end

/-! ## Step 9: the choice of firmware (R78–R81) -/

/-- What step 9 leaves when the image of slot `i` runs: the image loaded, its slot and trust shown, and step 10. -/
def State.fwChosen (s : State) (i : Nat) (trusted : Bool) : State :=
  let shown := ((s.loadFw i).set SysTrust.adr SysTrust.fwSlot i).set SysTrust.adr SysTrust.fwTrusted (b2n trusted)
  ((if trusted then shown else shown.loseTrust).set BootStatus.adr BootStatus.step 10).set CfgStatus.adr CfgStatus.phase 1

section
variable (s : State) (i : Nat) (trusted : Bool)

/-- SYS_TRUST, but for TRUST_LOST, is as step 9 writes it from the choice. -/
theorem State.get_fwChosen (f : Fld) (ho : f.off = 0) (hw : f.words = 1) (hq : f.Quiet SysTrust.adr)
    (ha : SysTrust.trustLost.Apart SysTrust.adr SysTrust.adr f) : (s.fwChosen i trusted).get SysTrust.adr f =
      (((s.loadFw i).set SysTrust.adr SysTrust.fwSlot i).set SysTrust.adr SysTrust.fwTrusted (b2n trusted)).get SysTrust.adr f := by
  unfold State.fwChosen
  rw [State.get_set_apart _ CfgStatus.adr _ _ _ _ (.inr (.inl (by rw [ho, hw]; decide))),
    State.get_set_apart _ BootStatus.adr _ _ _ _ (.inr (.inl (by rw [ho, hw]; decide)))]
  split
  · rfl
  · rw [State.get_loseTrust _ _ _ hq ha]

theorem State.bootStep_fwChosen : (s.fwChosen i trusted).bootStep = 10 := by
  unfold State.fwChosen State.bootStep
  rw [State.get_set_apart _ _ _ _ _ _ (by decide), State.get_set_same]
  rfl

theorem State.phase_fwChosen : (s.fwChosen i trusted).get CfgStatus.adr CfgStatus.phase = 1 := State.get_set_same _ _ _ _

theorem State.fwSlot_fwChosen (hi : i < 2) : (s.fwChosen i trusted).get SysTrust.adr SysTrust.fwSlot = i := by
  rw [State.get_fwChosen _ _ _ _ rfl rfl (by decide) (by decide), State.get_set_apart _ _ _ _ _ _ (by decide), State.get_set_same]
  exact Nat.mod_eq_of_lt hi

theorem b2n_mod_two (b : Bool) : b2n b % 2 ^ 1 = b2n b := by cases b <;> rfl

theorem State.fwTrusted_fwChosen : (s.fwChosen i trusted).get SysTrust.adr SysTrust.fwTrusted = b2n trusted := by
  rw [State.get_fwChosen _ _ _ _ rfl rfl (by decide) (by decide), State.get_set_same]
  exact b2n_mod_two trusted

/-- An untrusted choice loses trust (R79). -/
theorem State.trustLost_fwChosen : (s.fwChosen i false).getB SysTrust.adr SysTrust.trustLost = true := by
  unfold State.fwChosen State.getB
  rw [State.get_set_apart _ _ _ _ _ _ (by decide), State.get_set_apart _ _ _ _ _ _ (by decide)]
  exact State.trustLost_loseTrust _

theorem State.boot_fwChosen : (s.fwChosen i trusted).boot = (s.loadFw i).boot := by
  unfold State.fwChosen
  cases trusted <;> simp

/-- Outside a replacement step 9 loads at the firmware area (R81). -/
theorem State.loadBase_of_none (hr : s.boot.replacing = none) : s.loadBase = 0x20000000 := by
  unfold State.loadBase
  rw [hr]
  rfl

theorem State.entry_loadFw (hr : s.boot.replacing = none) :
    (s.loadFw i).boot.entry = 0x20000000 + leAt (s.boot.reads.getD i []) 20 4 := by
  rw [← s.loadBase_of_none hr]
  rfl

theorem State.mem_loadFw (hr : s.boot.replacing = none) :
    (0x20000000, ((s.boot.reads.getD i []).take (imgLength (s.boot.reads.getD i []))).drop 256) ∈ (s.loadFw i).boot.loaded := by
  rw [← s.loadBase_of_none hr]
  exact s.mem_loadBody i

end

section
variable (s : State) (i : Nat) (trusted : Bool) (hst : s.atStep 9 = true) (hr : s.boot.replacing = none)
  (hcand : s.candidateSlots true [s.boot.slotHdrs.getD 0 [], s.boot.slotHdrs.getD 1 []] ≠ [])
  (hc : s.chooseSlot true [s.boot.slotHdrs.getD 0 [], s.boot.slotHdrs.getD 1 []] [s.boot.reads.getD 0 [], s.boot.reads.getD 1 []] =
    some ⟨some i, trusted, false⟩)
include hst hr hcand hc

/-- The first candidate that step 9 chooses outside a replacement runs when it is trusted; an untrusted one halts scales 3 and 4, and
elsewhere is read again before it runs. -/
theorem execFirmwareChoice_first : execFirmwareChoice s = .next
    (if trusted then s.fwChosen i true else if s.scale ≥ 3 then s.halt 4 else if s.boot.reread ≠ some i then s.rereadFw i
      else s.fwChosen i false) := by
  have hsound : ¬([s.boot.slotHdrs.getD 0 [], s.boot.slotHdrs.getD 1 []].all fun x => !sound true (s.slotSize true) s.scale x) = true :=
    fun h => hcand (s.candidateSlots_unsound true _ _ h)
  have hhdrs : ([0, 1].map fun i => s.boot.slotHdrs.getD i []) = [s.boot.slotHdrs.getD 0 [], s.boot.slotHdrs.getD 1 []] := rfl
  have hreads : ([0, 1].map fun i => s.boot.reads.getD i []) = [s.boot.reads.getD 0 [], s.boot.reads.getD 1 []] := rfl
  have hrep := s.replStep_of_none 9 hr
  have hload : (s.loadFw i).boot.replacing = none := hr
  unfold execFirmwareChoice
  rw [hst, Bool.true_or, if_pos rfl, hrep]
  dsimp only
  rw [hhdrs, hreads, if_neg hsound, if_neg hcand, hc]
  dsimp only
  simp only [Bool.false_eq_true, if_false, if_true, State.fellBack_first]
  rw [State.stepDone_of_none _ 9 (by simp [hload]) (by decide), State.stepDone_of_none _ 9 (by simp [hload]) (by decide)]
  rfl

theorem execFirmwareChoice_runs (hi : i < 2) (hrun : trusted = true ∨ s.scale < 3 ∧ s.boot.reread = some i) :
    ∃ t, execFirmwareChoice s = .next t ∧ t.bootStep = 10 ∧ t.get SysTrust.adr SysTrust.fwSlot = i ∧
      t.get SysTrust.adr SysTrust.fwTrusted = b2n trusted ∧ t.get CfgStatus.adr CfgStatus.phase = 1 ∧
      (trusted = false → t.getB SysTrust.adr SysTrust.trustLost = true) ∧
      t.boot.entry = 0x20000000 + leAt (s.boot.reads.getD i []) 20 4 ∧
      (0x20000000, ((s.boot.reads.getD i []).take (imgLength (s.boot.reads.getD i []))).drop 256) ∈ t.boot.loaded := by
  have hnext : execFirmwareChoice s = .next (s.fwChosen i trusted) := by
    rw [execFirmwareChoice_first s i trusted hst hr hcand hc]
    cases trusted with
    | true => rfl
    | false =>
      obtain ⟨hsc, hre⟩ := hrun.resolve_left Bool.false_ne_true
      rw [if_neg Bool.false_ne_true, if_neg (Nat.not_le.2 hsc), if_neg (not_not_intro hre)]
  refine ⟨_, hnext, s.bootStep_fwChosen i trusted, s.fwSlot_fwChosen i trusted hi, s.fwTrusted_fwChosen i trusted,
    s.phase_fwChosen i trusted, fun ht => ht ▸ s.trustLost_fwChosen i, ?_, ?_⟩
  · rw [State.boot_fwChosen, s.entry_loadFw i hr]
  · rw [State.boot_fwChosen]
    exact s.mem_loadFw i hr

end

/-- An untrusted choice that has not been read again is read again first (R81). -/
theorem execFirmwareChoice_rereads (i : Nat) (s : State) (hst : s.atStep 9 = true) (hr : s.boot.replacing = none) (hsc : s.scale < 3)
    (hre : s.boot.reread ≠ some i)
    (hcand : s.candidateSlots true [s.boot.slotHdrs.getD 0 [], s.boot.slotHdrs.getD 1 []] ≠ [])
    (hc : s.chooseSlot true [s.boot.slotHdrs.getD 0 [], s.boot.slotHdrs.getD 1 []] [s.boot.reads.getD 0 [], s.boot.reads.getD 1 []] =
      some ⟨some i, false, false⟩) :
    execFirmwareChoice s = .next (s.modBoot fun b => { b with reads := b.reads.set i [], reread := some i }) := by
  rw [execFirmwareChoice_first s i false hst hr hcand hc, if_neg Bool.false_ne_true, if_neg (Nat.not_le.2 hsc), if_pos hre]
  rfl

/-! ## Step 10: the choice of a configuration image (R45, R46, R80) -/

/-- What step 10 leaves of the choice of slot `i`: the slot, the format and the trust shown, the image's counters kept, and step 11. -/
def State.cfgChosen (s : State) (i : Nat) (trusted : Bool) (img : List Byte) : State :=
  let shown := ((s.set CfgStatus.adr CfgStatus.slot i).set CfgStatus.adr CfgStatus.format (leAt img 4 2)).set
    SysTrust.adr SysTrust.cfgTrusted (b2n trusted)
  ((if trusted then shown else shown.loseTrust).modBoot fun b =>
    { b with cfg := some (imgEpoch img, imgSeq img), cfgSeal := slice img 32 16 }).set BootStatus.adr BootStatus.step 11

section
variable (s : State) (i : Nat) (trusted : Bool) (img : List Byte)

/-- A register other than BOOT_STATUS that an event leaves alone is as step 10 writes it from the choice. -/
theorem State.get_cfgChosen (b : Nat) (f : Fld) (hb : BootStatus.step.Apart BootStatus.adr b f) (hq : f.Quiet b)
    (ha : SysTrust.trustLost.Apart SysTrust.adr b f) : (s.cfgChosen i trusted img).get b f =
      (((s.set CfgStatus.adr CfgStatus.slot i).set CfgStatus.adr CfgStatus.format (leAt img 4 2)).set
        SysTrust.adr SysTrust.cfgTrusted (b2n trusted)).get b f := by
  unfold State.cfgChosen
  rw [State.get_set_apart _ _ _ _ _ _ hb, State.get_modBoot]
  split
  · rfl
  · rw [State.get_loseTrust _ _ _ hq ha]

theorem State.slot_cfgChosen (hi : i < 2) : (s.cfgChosen i trusted img).get CfgStatus.adr CfgStatus.slot = i := by
  rw [State.get_cfgChosen _ _ _ _ _ _ (by decide) (by decide) (by decide), State.get_set_apart _ _ _ _ _ _ (by decide),
    State.get_set_apart _ _ _ _ _ _ (by decide), State.get_set_same]
  exact Nat.mod_eq_of_lt hi

theorem State.format_cfgChosen : (s.cfgChosen i trusted img).get CfgStatus.adr CfgStatus.format = leAt img 4 2 % 16 := by
  rw [State.get_cfgChosen _ _ _ _ _ _ (by decide) (by decide) (by decide), State.get_set_apart _ _ _ _ _ _ (by decide),
    State.get_set_same]
  rfl

theorem State.cfgTrusted_cfgChosen : (s.cfgChosen i trusted img).get SysTrust.adr SysTrust.cfgTrusted = b2n trusted := by
  rw [State.get_cfgChosen _ _ _ _ _ _ (by decide) (by decide) (by decide), State.get_set_same]
  exact b2n_mod_two trusted

theorem State.bootStep_cfgChosen : (s.cfgChosen i trusted img).bootStep = 11 := (State.bootStep_set _ 11).trans rfl

/-- An untrusted choice loses trust (R80). -/
theorem State.trustLost_cfgChosen : (s.cfgChosen i false img).getB SysTrust.adr SysTrust.trustLost = true := by
  unfold State.cfgChosen State.getB
  rw [State.get_set_apart _ _ _ _ _ _ (by decide)]
  exact State.trustLost_loseTrust _

end

section
variable (s : State) (hst : s.atStep 10 = true) (hr : s.boot.replacing = none) (hw : s.boot.wake = false)
include hst hr hw

theorem execConfigCheckPass_chooses (i : Nat) (trusted : Bool) (hi : i < 2)
    (hc : s.chooseSlot false [s.boot.slotHdrs.getD 2 [], s.boot.slotHdrs.getD 3 []] [s.boot.reads.getD 2 [], s.boot.reads.getD 3 []] =
      some ⟨some i, trusted, false⟩) (hrun : trusted = true ∨ s.scale < 3) :
    execConfigCheckPass s = .next (s.cfgChosen i trusted (s.boot.reads.getD (2 + i) [])) := by
  have hhdrs : ([2, 3].map fun i => s.boot.slotHdrs.getD i []) = [s.boot.slotHdrs.getD 2 [], s.boot.slotHdrs.getD 3 []] := rfl
  have hreads : ([2, 3].map fun i => s.boot.reads.getD i []) = [s.boot.reads.getD 2 [], s.boot.reads.getD 3 []] := rfl
  have himg : [s.boot.reads.getD 2 [], s.boot.reads.getD 3 []].getD i [] = s.boot.reads.getD (2 + i) [] := by
    match i, hi with
    | 0, _ => rfl
    | 1, _ => rfl
  have hgo : ¬(!trusted && decide (s.scale ≥ 3)) = true := by
    rcases hrun with rfl | hsc
    · simp
    · simp [hsc]
  unfold execConfigCheckPass
  rw [if_pos hst, hhdrs, hreads]
  dsimp only
  rw [hc]
  dsimp only
  rw [if_neg hgo, State.fellBack_first, ← himg]
  simp only [hw, Bool.false_and, Bool.false_eq_true, if_false]
  refine congrArg Host.Outcome.next ?_
  split <;> exact State.stepDone_of_none _ 10 (by cases trusted <;> simp [hr]) (by decide)

/-- With no candidate on scales 1 and 2, PHASE is 4 (R46). -/
theorem execConfigCheckPass_none (hsc : s.scale < 3)
    (hc : s.chooseSlot false [s.boot.slotHdrs.getD 2 [], s.boot.slotHdrs.getD 3 []] [s.boot.reads.getD 2 [], s.boot.reads.getD 3 []] =
      some ⟨none, false, false⟩) :
    execConfigCheckPass s = .next ((s.set CfgStatus.adr CfgStatus.phase 4).set BootStatus.adr BootStatus.step 11) := by
  have hhdrs : ([2, 3].map fun i => s.boot.slotHdrs.getD i []) = [s.boot.slotHdrs.getD 2 [], s.boot.slotHdrs.getD 3 []] := rfl
  have hreads : ([2, 3].map fun i => s.boot.reads.getD i []) = [s.boot.reads.getD 2 [], s.boot.reads.getD 3 []] := rfl
  unfold execConfigCheckPass
  rw [if_pos hst, hhdrs, hreads]
  dsimp only
  rw [hc]
  dsimp only
  rw [if_neg (by simp [hsc]), State.fellBack_first]
  simp only [hw, Bool.false_and, Bool.false_eq_true, if_false]
  refine congrArg Host.Outcome.next ?_
  split <;> exact State.stepDone_of_none _ 10 (by simp [hr]) (by decide)

end

/-- A configuration image that is chosen shows its slot, its format and its trust. -/
theorem execConfigCheckPass_shows (i : Nat) (trusted : Bool) (s : State) (hst : s.atStep 10 = true) (hr : s.boot.replacing = none)
    (hw : s.boot.wake = false) (hi : i < 2)
    (hc : s.chooseSlot false [s.boot.slotHdrs.getD 2 [], s.boot.slotHdrs.getD 3 []] [s.boot.reads.getD 2 [], s.boot.reads.getD 3 []] =
      some ⟨some i, trusted, false⟩) (hrun : trusted = true ∨ s.scale < 3) :
    ∃ t, execConfigCheckPass s = .next t ∧ t.bootStep = 11 ∧ t.get CfgStatus.adr CfgStatus.slot = i ∧
      t.get CfgStatus.adr CfgStatus.format = leAt (s.boot.reads.getD (2 + i) []) 4 2 % 16 ∧
      t.get SysTrust.adr SysTrust.cfgTrusted = b2n trusted ∧
      (trusted = false → t.getB SysTrust.adr SysTrust.trustLost = true) :=
  ⟨_, execConfigCheckPass_chooses s hst hr hw i trusted hi hc hrun, s.bootStep_cfgChosen i trusted _, s.slot_cfgChosen i trusted _ hi,
    s.format_cfgChosen i trusted _, s.cfgTrusted_cfgChosen i trusted _, fun ht => ht ▸ s.trustLost_cfgChosen i _⟩

/-! ## Step 11: the release of the cores (R82, R93, R94) -/

theorem State.get_putVectors (s : State) (v : Nat) (l : List Nat) (n : Nat) :
    (s.putVectors v l).get (BootVector.adr n) BootVector.address =
      if n ∈ l then v % 2 ^ 64 else s.get (BootVector.adr n) BootVector.address := by
  unfold State.putVectors
  induction l generalizing s with
  | nil => rfl
  | cons m l ih =>
    rw [List.foldl_cons, ih]
    by_cases hn : n ∈ l
    · rw [if_pos hn, if_pos (List.mem_cons_of_mem _ hn)]
    · rw [if_neg hn]
      by_cases hm : n = m
      · subst hm
        rw [if_pos List.mem_cons_self, State.get_set_same]
        rfl
      · rw [if_neg (by simp [hn, hm]), State.get_set_apart]
        simp only [Fld.Apart, BootVector.adr, BootVector.address, Fld.words]
        omega

/-- The entry addresses stand above the other registers of U01. -/
theorem State.get_putVectors_below (s : State) (v : Nat) (l : List Nat) (b : Nat) (f : Fld) (h : b + f.off + 4 * f.words ≤ 0x140000) :
    (s.putVectors v l).get b f = s.get b f := by
  unfold State.putVectors
  induction l generalizing s with
  | nil => rfl
  | cons m l ih =>
    rw [List.foldl_cons, ih, State.get_set_apart]
    simp only [Fld.Apart, BootVector.adr, BootVector.address, Fld.words] at h ⊢
    omega

@[simp] theorem State.boot_putVectors (s : State) (v : Nat) (l : List Nat) : (s.putVectors v l).boot = s.boot := by
  unfold State.putVectors
  induction l generalizing s with
  | nil => rfl
  | cons m l ih => rw [List.foldl_cons, ih, State.set_boot]

/-- A release writes the reserve map of the cores and what its event writes. -/
theorem State.get_releaseCores (s : State) (mask b : Nat) (f : Fld) (hq : f.Quiet b)
    (ha : SvcKind.reserveMap.Apart (SvcKind.adr 0) b f) : (s.releaseCores mask).get b f = s.get b f := by
  rw [State.releaseCores_eq]
  split
  · rfl
  · rw [State.get_raise _ _ _ _ _ _ hq, State.coresStarted, State.get_startClocks, State.get_modBoot, State.get_set_apart _ _ _ _ _ _ ha]

/-- A release changes of the start's own state the cores about to fetch and the boot information block. -/
theorem State.boot_releaseCores (s : State) (mask : Nat) :
    ∃ r i, (s.releaseCores mask).boot = { s.boot with released := r, bootInfo := i } := by
  rw [State.releaseCores_eq]
  split
  · exact ⟨s.boot.released, s.boot.bootInfo, rfl⟩
  · rw [State.raise_boot, State.boot_coresStarted]
    exact ⟨_, _, rfl⟩

theorem activeCores_cases (scale : Nat) : activeCores scale = 8 ∨ activeCores scale = 12 ∨ activeCores scale = 24 := by
  unfold activeCores
  split <;> simp

/-- The cores active at rest all have power (R2). -/
theorem and_coresPowered_active (scale : Nat) :
    (2 ^ activeCores scale - 1) &&& coresPowered scale = 2 ^ activeCores scale - 1 := by
  unfold coresPowered
  rcases activeCores_cases scale with h | h | h <;> rw [h] <;> decide

theorem activeCores_lt (scale : Nat) : activeCores scale < 26 := by
  rcases activeCores_cases scale with h | h | h <;> rw [h] <;> decide

/-- Lost trust locks the keys and leaves no copy of the DUK (R82). -/
def State.keysClosed (s : State) : State :=
  ((s.set SysTrust.adr SysTrust.keysLocked 1).modBoot fun b => { b with dukReg := none }).modBoot fun b => { b with romKey := none }

/-- The cores active at rest have the entry address, and those of them that rest start (R93, R94). -/
def State.coresReleased (s : State) (entry : Nat) : State :=
  (s.putVectors entry (List.range (activeCores s.scale))).releaseCores (2 ^ activeCores s.scale - 1)

theorem State.get_keysClosed (s : State) (b : Nat) (f : Fld) (h : SysTrust.keysLocked.Apart SysTrust.adr b f) :
    s.keysClosed.get b f = s.get b f :=
  State.get_set_apart _ _ _ _ _ _ h

theorem State.boot_keysClosed (s : State) : s.keysClosed.boot = { s.boot with dukReg := none, romKey := none } := by
  simp [State.keysClosed]

section
variable (s : State) (entry : Nat)

theorem State.get_coresReleased (b : Nat) (f : Fld) (hq : f.Quiet b) (hb : b + f.off + 4 * f.words ≤ 0x140000) :
    (s.coresReleased entry).get b f = s.get b f := by
  unfold State.coresReleased
  rw [State.get_releaseCores _ _ _ _ hq (.inr (.inl (Nat.le_trans hb (by decide)))), State.get_putVectors_below _ _ _ _ _ hb]

theorem State.vector_coresReleased (n : Nat) (hn : n < activeCores s.scale) :
    (s.coresReleased entry).get (BootVector.adr n) BootVector.address = entry % 2 ^ 64 := by
  have hlt := Nat.lt_trans hn (activeCores_lt s.scale)
  unfold State.coresReleased
  rw [State.get_releaseCores, State.get_putVectors, if_pos (List.mem_range.2 hn)]
  · intro j hj
    simp only [BootVector.address, Fld.words] at hj
    simp only [QuietWord, BootVector.adr, BootVector.address]
    omega
  · simp only [Fld.Apart, SvcKind.adr, SvcKind.reserveMap, BootVector.adr, BootVector.address, Fld.words]
    omega

theorem State.boot_coresReleased : ∃ r i, (s.coresReleased entry).boot = { s.boot with released := r, bootInfo := i } := by
  obtain ⟨r, i, h⟩ := (s.putVectors entry (List.range (activeCores s.scale))).boot_releaseCores (2 ^ activeCores s.scale - 1)
  exact ⟨r, i, h.trans (by rw [State.boot_putVectors])⟩

/-- With every core at rest those active at rest are about to fetch. -/
theorem State.released_coresReleased (hrel : s.boot.released = 0) (hrun : s.get BootRunning.adr BootRunning.core = 0) :
    (s.coresReleased entry).boot.released = BitVec.ofNat 26 (2 ^ activeCores s.scale - 1) := by
  have hscale : (s.putVectors entry (List.range (activeCores s.scale))).scale = s.scale := State.get_putVectors_below _ _ _ _ _ (by decide)
  have hlt : 2 ^ activeCores s.scale - 1 < 2 ^ 26 :=
    Nat.lt_of_le_of_lt (Nat.sub_le _ _) (Nat.pow_lt_pow_right (by decide) (activeCores_lt s.scale))
  have hpos : 2 ^ activeCores s.scale - 1 ≠ 0 := by
    rcases activeCores_cases s.scale with h | h | h <;> rw [h] <;> decide
  have hstart := (s.putVectors entry (List.range (activeCores s.scale))).coresToStart_at_rest (2 ^ activeCores s.scale - 1)
    ((State.get_putVectors_below _ _ _ _ _ (by decide)).trans hrun) (by rw [State.boot_putVectors, hrel])
    (by rw [hscale, and_coresPowered_active]) hlt
  unfold State.coresReleased
  rw [State.releaseCores_eq, hstart, if_neg hpos, State.raise_boot, State.boot_coresStarted, State.boot_putVectors, hrel]
  exact BitVec.zero_or

end

/-- Step 11 after lost trust: the keys are closed, the cores released, and the apply pass begins. -/
theorem execCoreRelease_untrusted (s : State) (hst : s.atStep 11 = true) (hr : s.boot.replacing = none)
    (ht : s.getB SysTrust.adr SysTrust.trustLost = true) (hp : s.get CfgStatus.adr CfgStatus.phase = 1) :
    execCoreRelease s = .next ((((s.keysClosed.coresReleased s.boot.entry).set BootStatus.adr BootStatus.step 0xFF).modBoot fun b =>
      { b with cursor := 256, recIndex := 0, applyBuf := [] }).set CfgStatus.adr CfgStatus.phase 2) := by
  have hscale : s.keysClosed.scale = s.scale := s.get_keysClosed _ _ (by decide)
  obtain ⟨r, i, hboot⟩ := s.keysClosed.boot_coresReleased s.boot.entry
  have hrep : (s.keysClosed.coresReleased s.boot.entry).replStep 11 = false :=
    State.replStep_of_none _ _ (by rw [hboot, State.boot_keysClosed]; exact hr)
  have hdone : (s.keysClosed.coresReleased s.boot.entry).stepDone 11 =
      (s.keysClosed.coresReleased s.boot.entry).set BootStatus.adr BootStatus.step 0xFF := by
    unfold State.stepDone
    rw [hrep]
    rfl
  unfold execCoreRelease
  rw [if_pos hst, if_pos ht, if_neg (by rw [hp]; decide), ← hdone]
  unfold State.coresReleased
  rw [hscale]
  rfl

theorem execCoreRelease_shows (s : State) (hst : s.atStep 11 = true) (hr : s.boot.replacing = none)
    (ht : s.getB SysTrust.adr SysTrust.trustLost = true) (hp : s.get CfgStatus.adr CfgStatus.phase = 1) :
    ∃ t, execCoreRelease s = .next t ∧ t.bootStep = 0xFF ∧ t.get SysTrust.adr SysTrust.keysLocked = 1 ∧ t.boot.romKey = none ∧
      t.boot.dukReg = none ∧ t.get CfgStatus.adr CfgStatus.phase = 2 ∧ t.boot.cursor = 256 ∧ t.boot.recIndex = 0 ∧
      (∀ n < activeCores s.scale, t.get (BootVector.adr n) BootVector.address = s.boot.entry % 2 ^ 64) ∧
      (s.boot.released = 0 → s.get BootRunning.adr BootRunning.core = 0 →
        t.boot.released = BitVec.ofNat 26 (2 ^ activeCores s.scale - 1)) := by
  have hscale : s.keysClosed.scale = s.scale := s.get_keysClosed _ _ (by decide)
  obtain ⟨r, i, hboot⟩ := s.keysClosed.boot_coresReleased s.boot.entry
  have outside : ∀ (b : Nat) (f : Fld), BootStatus.step.Apart BootStatus.adr b f → CfgStatus.phase.Apart CfgStatus.adr b f →
      ((((s.keysClosed.coresReleased s.boot.entry).set BootStatus.adr BootStatus.step 0xFF).modBoot fun b =>
        { b with cursor := 256, recIndex := 0, applyBuf := [] }).set CfgStatus.adr CfgStatus.phase 2).get b f =
        (s.keysClosed.coresReleased s.boot.entry).get b f := by
    intro b f h1 h2
    rw [State.get_set_apart _ _ _ _ _ _ h2, State.get_modBoot, State.get_set_apart _ _ _ _ _ _ h1]
  refine ⟨_, execCoreRelease_untrusted s hst hr ht hp, ?_, ?_, ?_, ?_, State.get_set_same _ _ _ _, ?_, ?_, ?_, ?_⟩
  · unfold State.bootStep
    rw [State.get_set_apart _ _ _ _ _ _ (by decide), State.get_modBoot, State.get_set_same]
    rfl
  · rw [outside _ _ (by decide) (by decide), State.get_coresReleased _ _ _ _ (by decide) (by decide)]
    exact State.get_set_same _ _ _ _
  · simp [hboot, State.boot_keysClosed]
  · simp [hboot, State.boot_keysClosed]
  · simp
  · simp
  · intro n hn
    rw [outside, State.vector_coresReleased _ _ _ (by rw [hscale]; exact hn)]
    · simp only [Fld.Apart, BootStatus.adr, BootStatus.step, BootVector.adr, BootVector.address, Fld.words]
      omega
    · have hlt := Nat.lt_trans hn (activeCores_lt s.scale)
      simp only [Fld.Apart, CfgStatus.adr, CfgStatus.phase, BootVector.adr, BootVector.address, Fld.words]
      omega
  · intro hrel hrun
    rw [← hscale, ← s.keysClosed.released_coresReleased s.boot.entry (by rw [State.boot_keysClosed]; exact hrel)
      ((s.get_keysClosed _ _ (by decide)).trans hrun)]
    simp

/-- Settles O14: install however it ends, the two choices, and step 11 after lost trust. -/
theorem imagesAreInstalledChosenAndRun : Obligations.ImagesAreInstalledChosenAndRun :=
  ⟨fun env img a b back _ _ hst hr hh hm => execInstall_unmarked env img a b back hst hh hr hm,
    fun env img a b back duk fw _ c _ hst hr hh hk hm hfw hc => execInstall_marked env img a b back hst hh duk fw c hr hk hm hfw hc,
    fun i trusted s hst hr hi hcand hc hrun => execFirmwareChoice_runs s i trusted hst hr hcand hc hi hrun,
    fun i s hst hr hsc hre hcand hc => execFirmwareChoice_rereads i s hst hr hsc hre hcand hc,
    fun i trusted s hst hr hw hi hc hrun => execConfigCheckPass_shows i trusted s hst hr hw hi hc hrun,
    fun s hst hr hw hsc hc => execConfigCheckPass_none s hst hr hw hsc hc,
    execCoreRelease_shows⟩

end Sys2Proof.Machine
end

section
/-!
UNIT_CTRL while the device enters Bivouac: no unit but U00, U03 and U20 is READY then, so a hold that ends releases no unit that waits for it.
-/

namespace Sys2Proof.Machine

/-! ## Units that are not READY because the device enters Bivouac -/

/-- While the device enters Bivouac or is in it, no unit but U00, U03 and U20 is READY (R479). -/
theorem State.ready_of_asleep (s : State) (u : Nat) (h : s.asleep = true) (hu : [0, 3, 20].contains u = false) : s.ready u = false := by
  unfold State.ready
  rw [h, hu]
  exact Bool.and_false _

/-- Held units none of which has its prerequisites stay as they are (R49). -/
theorem State.cascade_of_unmet (s : State) (n : Nat) (h : ∀ u, s.boot.heldReady.contains u = true → s.prereqsReady u = false) :
    s.cascade n = s := by
  cases n with
  | zero => rfl
  | succ n =>
    have hnone : ((List.range 24).find? fun u => s.boot.heldReady.contains u && s.applying u && s.prereqsReady u) = none := by
      refine List.find?_eq_none.2 fun u _ hu => ?_
      simp only [Bool.and_eq_true] at hu
      obtain ⟨⟨hheld, _⟩, hmet⟩ := hu
      exact Bool.false_ne_true ((h u hheld).symm.trans hmet)
    rw [State.cascade, hnone]

/-- The move of a unit leaves the STATE of every other unit. -/
theorem State.ustate_setUnit_other (s : State) (u v st c : Nat) (hv : v < 24) (huv : u ≠ v) :
    (s.setUnit u st c).ustate v = s.ustate v := by
  refine s.get_setUnit u st c _ _ ?_ ?_ ?_ ?_
  · intro j hj
    simp only [Hdr.state, Fld.words] at hj
    simp only [QuietWord, Hdr.adr, Hdr.state]
    omega
  all_goals
    simp only [CfgReadyMap.adr, Hdr.adr, Hdr.state, Fld.words]
    omega

/-- No move of a unit writes PWR_STATUS. -/
theorem State.asleep_setUnit (s : State) (u st c : Nat) : (s.setUnit u st c).asleep = s.asleep := by
  unfold State.asleep
  rw [s.get_setUnit u st c PwrStatus.adr PwrStatus.state (by decide) _ (.inl (by decide)) (.inr (.inl (by decide)))]
  simp only [PwrStatus.adr, PwrStatus.state, Fld.words]
  omega

/-- A write of UNIT_CTRL that keeps EXPERT writes the same bit again. -/
theorem State.setExpert_same (s : State) (u : Nat) : s.setExpert u (s.expert u) = s.set (Hdr.adr u) Hdr.expert (b2n (s.expert u)) := by
  unfold State.setExpert
  rw [Bool.and_not_self, if_neg Bool.false_ne_true]

/-- A write of UNIT_CTRL that keeps EXPERT and sets neither RESET nor GO writes HOLD. -/
theorem State.ctrlAct_hold (s : State) (u : Nat) (hold : Bool) : s.ctrlAct u (s.expert u) hold false false =
    (s.set (Hdr.adr u) Hdr.expert (b2n (s.expert u))).setHold u hold :=
  congrArg (fun t : State => t.setHold u hold) (s.setExpert_same u)

/-- In a unit other than U23 that may be held, such a write has no other effect. -/
theorem State.ctrlWrite_hold (s : State) (o : Sys2Proof.Origin) (u : Nat) (hold : Bool) (h : s.Open o u 0x18 true false)
    (hn : neverHeld u = false) (hu : u ≠ 23) :
    s.ctrlWrite o u (s.expert u) hold false false = ((s.awake o u).ctrlAct u (s.expert u) hold false false).done := by
  have hkept : ¬((s.awake o u).expert u && !s.expert u && (s.awake o u).ready u && !false) = true := by
    change ¬(s.expert u && !s.expert u && s.ready u && !false) = true
    simp
  rw [State.ctrlWrite, State.gate_open _ _ _ _ _ _ _ h, if_neg (by simp [hn]), if_neg (by exact hkept), if_neg (by simp)]
  dsimp only
  rw [if_neg hu]
  rfl

/-- The end of the lead's hold: the unit goes READY, and those that wait for it are looked for (R49, R594). -/
theorem State.setHold_ends (s : State) (u : Nat) (hst : s.ustate u = stHELD) (hca : s.ucause u = caHOLD_LEAD) :
    s.setHold u false = (((s.set (Hdr.adr u) Hdr.hold 0).goReady u).resumeHook u).cascade 24 := by
  unfold State.setHold
  rw [hst, hca]
  rfl

/-- UNIT_CTRL of U04 as the write that ends its hold stores it: EXPERT as before, and HOLD 0. -/
def State.holdCleared (s : State) (o : Sys2Proof.Origin) : State :=
  ((s.awake o 4).set (Hdr.adr 4) Hdr.expert (b2n (s.expert 4))).set (Hdr.adr 4) Hdr.hold 0

section
variable (s : State) (o : Sys2Proof.Origin)

theorem State.boot_holdCleared : (s.holdCleared o).boot = s.boot := by
  simp [State.holdCleared]

theorem State.get_holdCleared (b : Nat) (f : Fld) (he : Hdr.expert.Apart (Hdr.adr 4) b f) (hh : Hdr.hold.Apart (Hdr.adr 4) b f) :
    (s.holdCleared o).get b f = s.get b f := by
  unfold State.holdCleared
  rw [State.get_set_apart _ _ _ _ _ _ hh, State.get_set_apart _ _ _ _ _ _ he, State.get_awake]

/-- A write that ends the lead's hold of U04, which no hook of the unit follows. -/
theorem execUnitHold_four_ends (h : s.Open o 4 0x18 true false) (hst : s.ustate 4 = stHELD) (hca : s.ucause 4 = caHOLD_LEAD) :
    execUnitHold o 4 false s = .next (((s.holdCleared o).goReady 4).cascade 24) := by
  have hact : (s.awake o 4).ctrlAct 4 (s.expert 4) false false false = ((s.holdCleared o).goReady 4).cascade 24 := by
    refine ((s.awake o 4).ctrlAct_hold 4 false).trans (State.setHold_ends _ 4 ?_ ?_)
    · exact (State.get_set_apart _ _ _ _ _ _ (by decide)).trans hst
    · exact (State.get_set_apart _ _ _ _ _ _ (by decide)).trans hca
  exact (congrArg WRes.out (s.ctrlWrite_hold o 4 false h rfl (by decide))).trans (congrArg Host.Outcome.next hact)

/-- While the device enters Bivouac U04 is not READY, so a U05 that waits for it goes on waiting. -/
theorem execUnitHold_four_asleep (h : s.Open o 4 0x18 true false) (hst : s.ustate 4 = stHELD) (hca : s.ucause 4 = caHOLD_LEAD)
    (hheld : s.boot.heldReady = [5]) (ha : s.asleep = true) :
    ∃ t, execUnitHold o 4 false s = .next t ∧ t.ustate 5 = s.ustate 5 := by
  refine ⟨_, execUnitHold_four_ends s o h hst hca, ?_⟩
  obtain ⟨st, c, hgo⟩ := (s.holdCleared o).goReady_eq 4
  have hsleep : ((s.holdCleared o).setUnit 4 st c).asleep = true := by
    rw [State.asleep_setUnit]
    exact (congrArg (fun n => [2, 3].contains n) (s.get_holdCleared o PwrStatus.adr PwrStatus.state (by decide) (by decide))).trans ha
  rw [hgo, State.cascade_of_unmet, State.ustate_setUnit_other _ _ _ _ _ (by decide) (by decide)]
  · exact s.get_holdCleared o (Hdr.adr 5) Hdr.state (by decide) (by decide)
  · intro u hu
    rw [State.setUnit_boot, State.boot_holdCleared, hheld] at hu
    obtain rfl : u = 5 := by simpa using hu
    exact (Bool.and_true _).trans (State.ready_of_asleep _ 4 hsleep rfl)

end

/-- The device on its way into Bivouac: U04 is held by the lead, and the READY record of U05 waits for it. -/
def bivouacEntry : State :=
  ((((State.reset.set PwrStatus.adr PwrStatus.state 2).set (Hdr.adr 4) Hdr.state stHELD).set (Hdr.adr 4) Hdr.cause caHOLD_LEAD).set
    (Hdr.adr 5) Hdr.state stSTARTING).set (Hdr.adr 5) Hdr.cause caAPPLYING |>.modBoot fun b => { b with heldReady := [5] }

theorem bivouacEntry_meets : bivouacEntry.Open .firmware 4 0x18 true false ∧ bivouacEntry.ustate 4 = stHELD ∧
    bivouacEntry.ucause 4 = caHOLD_LEAD ∧ bivouacEntry.boot.heldReady = [5] ∧ bivouacEntry.applying 5 = true ∧
    bivouacEntry.getB (Hdr.adr 5) Hdr.hold = false ∧ bivouacEntry.asleep = true ∧ bivouacEntry.ustate 5 = stSTARTING := by
  decide +kernel

/-- Refutes O18: firmware may write UNIT_CTRL while the device enters Bivouac, when U04 has stopped with every unit but U00, U03 and U20
(R479). The hold of U04 that ends then moves U04 to READY, and leaves a U05 that waits for it in STARTING. -/
theorem not_unitsAreResetHeldAndStarted : ¬ Obligations.UnitsAreResetHeldAndStarted := by
  unfold Obligations.UnitsAreResetHeldAndStarted
  rintro ⟨_, _, _, _, _, _, hcascade, _⟩
  obtain ⟨hopen, hst, hca, hheld, happ, hhold, hsleep, hstart⟩ := bivouacEntry_meets
  obtain ⟨t, ht, _, hready, _⟩ := hcascade .firmware bivouacEntry hopen hst hca hheld happ hhold
  obtain ⟨t', ht', hstays⟩ := execUnitHold_four_asleep bivouacEntry .firmware hopen hst hca hheld hsleep
  obtain rfl : t = t' := Host.Outcome.next.inj (ht.symm.trans ht')
  exact absurd (hready.symm.trans (hstays.trans hstart)) (by decide)

end Sys2Proof.Machine
end

section
/-!
What every command keeps, read off what it evolves to; and the four commands that leave the blank state.
-/

namespace Sys2Proof.Machine

/-- Settles O6: every command leaves a state that has evolved from the one that it met. -/
theorem everyCommandKeepsQueueOutputsAndFuses : Obligations.EveryCommandKeepsQueueOutputsAndFuses := by
  intro c s
  obtain ⟨t, ht, hev⟩ := (exec_evolves c (Evolves.refl s)).exists_next
  exact ⟨t, ht, hev.queue, hev.sent, hev.fresh, hev.fuses, hev.sound⟩

theorem execPerstNRise_low (s : State) (hp : s.boot.perst = false) (ho : s.pwr.off = false) :
    execPerstNRise s = .next (s.blank true) := by
  simp [execPerstNRise, hp, ho]

theorem execPerstNFall_high (s : State) (hp : s.boot.perst = true) (ho : s.pwr.off = false) :
    execPerstNFall s = .next (s.blank false) := by
  simp [execPerstNFall, hp, ho]

theorem execPowerUp_off (s : State) (ho : s.pwr.off = true) :
    execPowerUp s = .next { s.blank false with jtag := State.reset.jtag } := by
  simp [execPowerUp, ho]

/-- A rise of PERST_N that has risen, or in Off, does nothing. -/
theorem execPerstNRise_ignored (s : State) (h : s.boot.perst = true ∨ s.pwr.off = true) : execPerstNRise s = .next s := by
  obtain h | h := h <;> simp [execPerstNRise, h]

theorem execPerstNFall_low (s : State) (hp : s.boot.perst = false) : execPerstNFall s = .next s := by
  simp [execPerstNFall, hp]

theorem execPowerUp_on (s : State) (ho : s.pwr.off = false) : execPowerUp s = .next s := by
  simp [execPowerUp, ho]

/-- Settles O12: each of the four leaves the blank state where it acts, and the state as it is elsewhere. -/
theorem resetsOfTheDevice : Obligations.ResetsOfTheDevice :=
  ⟨execPerstNRise_low, execPerstNFall_high, fun _ => rfl, execPowerUp_off, execPerstNRise_ignored, execPerstNFall_low, execPowerUp_on⟩

end Sys2Proof.Machine
end

section
/-!
Requests over the link: what presenting, issuing and ending them leaves alone.
-/

namespace Sys2Proof.Machine

/-- From `s` to `t` nothing changes but the link's own state, the clocks, what has left and the free values used up. -/
def State.LinkOnly (s t : State) : Prop := ∃ h p o c, t = { s with hif := h, pwr := p, out := o, freeCtr := c }

theorem State.LinkOnly.refl (s : State) : s.LinkOnly s := ⟨_, _, _, _, rfl⟩

theorem State.LinkOnly.trans {s t u : State} (h : s.LinkOnly t) (g : t.LinkOnly u) : s.LinkOnly u := by
  obtain ⟨_, _, _, _, rfl⟩ := h
  obtain ⟨_, _, _, _, rfl⟩ := g
  exact ⟨_, _, _, _, rfl⟩

/-- What reads none of the parts that may change reads the same. -/
theorem State.LinkOnly.frame {α : Type} {s t : State} (h : s.LinkOnly t) (g : State → α)
    (hg : ∀ h p o c, g { s with hif := h, pwr := p, out := o, freeCtr := c } = g s) : g t = g s := by
  obtain ⟨_, _, _, _, rfl⟩ := h
  exact hg _ _ _ _

theorem State.LinkOnly.regs {s t : State} (h : s.LinkOnly t) : t.regs = s.regs := h.frame State.regs fun _ _ _ _ => rfl
theorem State.LinkOnly.force {s t : State} (h : s.LinkOnly t) : t.force = s.force := h.frame State.force fun _ _ _ _ => rfl
theorem State.LinkOnly.nvf {s t : State} (h : s.LinkOnly t) : t.nvf = s.nvf := h.frame State.nvf fun _ _ _ _ => rfl
theorem State.LinkOnly.qe {s t : State} (h : s.LinkOnly t) : t.qe = s.qe := h.frame State.qe fun _ _ _ _ => rfl
theorem State.LinkOnly.get {s t : State} (h : s.LinkOnly t) (b : Nat) (f : Fld) : t.get b f = s.get b f :=
  s.get_of_regs t h.regs b f
theorem State.LinkOnly.act {s t : State} (h : s.LinkOnly t) (b : Nat) (f : Fld) : t.act b f = s.act b f :=
  s.act_of_regs t h.regs h.force b f

theorem State.linkOnly_foldl {α : Type} (f : State → α → State) (hf : ∀ (t : State) a, t.LinkOnly (f t a)) (l : List α) (s : State) :
    s.LinkOnly (l.foldl f s) := by
  induction l generalizing s with
  | nil => exact .refl s
  | cons a l ih => exact (hf s a).trans (ih (f s a))

variable (s : State) (f : Nat)

theorem State.linkOnly_emit (o : Out) : s.LinkOnly (s.emit o) := ⟨_, _, _, _, rfl⟩

theorem State.linkOnly_tickFree : s.LinkOnly s.tickFree := ⟨_, _, _, _, rfl⟩

theorem State.linkOnly_startClocks (cs : List Nat) : s.LinkOnly (s.startClocks cs) := ⟨_, _, _, _, rfl⟩

theorem State.linkOnly_modPf (g : PfSt → PfSt) : s.LinkOnly (s.modPf f g) := ⟨_, _, _, _, rfl⟩

theorem State.linkOnly_putXlate (r : XReq) : s.LinkOnly (s.putXlate f r) := ⟨_, _, _, _, rfl⟩

theorem State.linkOnly_addRead (r : Reader) (k : Nat) (ps : List (Option Nat × Nat)) : s.LinkOnly (s.addRead f r k ps) :=
  ⟨_, _, _, _, rfl⟩

theorem State.linkOnly_askPage (pasid : Option Nat) (addr n : Nat) : s.LinkOnly (s.askPage f pasid addr n) := by
  unfold State.askPage
  split
  · split
    · exact .refl s
    · exact ⟨_, _, _, _, rfl⟩
  · exact .refl s

theorem State.linkOnly_emitParts (ro : Bool) (pasid : Option Nat) (l : List (Nat × Nat)) (d : List Byte) :
    s.LinkOnly (s.emitParts ro f pasid l d) := by
  induction l generalizing s d with
  | nil => exact .refl s
  | cons x l ih => exact (s.linkOnly_emit _).trans (ih _ _)

theorem State.linkOnly_putWrite (ro : Bool) (r : Option Reader) (pasid : Option Nat) (addr : Nat) (data : List Byte) :
    s.LinkOnly (s.putWrite ro r f pasid addr data) := by
  unfold State.putWrite
  split
  · exact s.linkOnly_putXlate _ _
  · split
    · exact s.linkOnly_emitParts _ _ _ _ _
    · exact (s.linkOnly_askPage _ _ _ _).trans (State.linkOnly_putXlate _ _ _)

theorem State.linkOnly_putRead (pasid : Option Nat) (addr n : Nat) (r : Reader) : s.LinkOnly (s.putRead f pasid addr n r) := by
  unfold State.putRead
  split
  · exact s.linkOnly_putXlate _ _
  · split
    · dsimp only
      split
      · exact (s.linkOnly_addRead _ _ _ _).trans (State.linkOnly_foldl _ (fun t _ => t.linkOnly_emit _) _ _)
      · exact s.linkOnly_putXlate _ _
    · exact (s.linkOnly_askPage _ _ _ _).trans (State.linkOnly_putXlate _ _ _)

theorem State.linkOnly_dmaWriteBy (r : Option Reader) (pasid : Option Nat) (addr : Nat) (data : List Byte) :
    s.LinkOnly (s.dmaWriteBy r f pasid addr data) := by
  unfold State.dmaWriteBy
  split
  · exact .refl s
  · exact (s.linkOnly_startClocks _).trans (State.linkOnly_putWrite _ _ _ _ _ _ _)

theorem State.linkOnly_msix (v : Nat) : s.LinkOnly (s.msix f v) := by
  unfold State.msix State.msixSend
  dsimp only
  split
  · exact .refl s
  · split
    · split
      · exact .refl s
      · exact s.linkOnly_modPf _ _
    · split
      · exact s.linkOnly_putXlate _ _
      · exact s.linkOnly_emit _

theorem State.linkOnly_present (x : Nat × XReq) : s.LinkOnly (s.present x) := by
  unfold State.present
  split
  · exact s.linkOnly_msix _ _
  · exact s.linkOnly_putWrite _ _ _ _ _ _
  · exact s.linkOnly_putRead _ _ _ _ _

theorem State.linkOnly_sweep : s.LinkOnly s.sweep := by
  unfold State.sweep
  split
  · exact .refl s
  · exact State.LinkOnly.trans ⟨_, _, _, _, rfl⟩ (State.linkOnly_foldl _ State.linkOnly_present _ _)

theorem State.linkOnly_readEnds (r : Reader) : s.LinkOnly (s.readEnds f r) := by
  unfold State.readEnds
  split
  · exact State.LinkOnly.trans ⟨_, _, _, _, rfl⟩ (State.linkOnly_sweep _)
  · exact .refl s

theorem State.linkOnly_stray : s.LinkOnly (s.stray f) := by
  unfold State.stray
  split
  · exact .refl s
  · split
    · exact s.linkOnly_readEnds _ _
    · exact (s.linkOnly_modPf _ _).trans (State.linkOnly_tickFree _)

theorem State.linkOnly_readOver (r : Reader) : s.LinkOnly (s.readOver f r) := by
  unfold State.readOver
  split
  · exact s.linkOnly_readEnds _ _
  · exact s.linkOnly_stray _

end Sys2Proof.Machine
end

section
/-!
The storage front end: its doorbells, its admin commands, and the controller's enable and reset.
-/

namespace Sys2Proof.Machine

theorem sfind_sins_other {α : Type} (m : List (Nat × α)) (j k : Nat) (w : α) (h : k ≠ j) : sfind (sins m j w) k = sfind m k := by
  induction m with
  | nil => simp [sins, sfind, h]
  | cons p m ih =>
    obtain ⟨a, v⟩ := p
    rw [sins]
    split
    · simp [sfind, h]
    · split
      · rename_i hja
        subst hja
        simp [sfind, h]
      · simp [sfind, ih]

theorem sfind_sdel_same {α : Type} (m : List (Nat × α)) (j : Nat) : sfind (sdel m j) j = none := by
  induction m with
  | nil => rfl
  | cons p m ih =>
    obtain ⟨a, v⟩ := p
    rw [sdel]
    split
    · exact ih
    · rename_i hja
      exact (if_neg hja).trans ih

section
variable (s : State) (q : NvSq) (e : List Byte)

/-! ## An entry that is taken -/

/-- Taking an entry moves the queue on, and nothing else of U17. -/
theorem State.nvf_nvTaken (y : Nat) :
    (s.nvTaken y q).nvf = { s.nvf with sqs := sins s.nvf.sqs y { q with head := (q.head + 1) % q.size, asked := q.asked - 1 } } :=
  congrArg (fun v : Nvf => { v with sqs := sins v.sqs y { q with head := (q.head + 1) % q.size, asked := q.asked - 1 } })
    (s.linkOnly_readOver 2 (.sq y)).nvf

theorem State.sq_nvTaken_other (y z : Nat) (h : z ≠ y) : (s.nvTaken y q).sq z = s.sq z := by
  unfold State.sq
  rw [State.nvf_nvTaken]
  exact sfind_sins_other _ _ _ _ h

theorem State.cq_nvTaken (y z : Nat) : (s.nvTaken y q).cq z = s.cq z := by
  unfold State.cq
  rw [State.nvf_nvTaken]

/-- A completion queue that exists still does when the entry that names it has been taken. -/
theorem State.cq_nvTaken_exists (y z : Nat) (p : NvCq) (hz : z ≠ 0) (hp : s.cq z = some p) :
    ¬ (z = 0 ∨ ((s.nvTaken y q).cq z).isNone = true) := by
  rw [State.cq_nvTaken, hp]
  simp [hz]

theorem State.feature_nvTaken (y i : Nat) : (s.nvTaken y q).feature i = s.feature i := by
  unfold State.feature
  rw [State.nvf_nvTaken]

/-! ## Admin commands -/

variable (op : Nat) (f : State → State × Nat × Nat)

/-- An entry of opcode `op` is consumed and handed to its command. -/
theorem State.nvEntry_run (y : Nat) (ops : List Nat) (g : State → State) (hq : s.sq y = some q) (ha : q.asked ≠ 0) (ho : nvOp e = op) :
    s.nvEntry y op ops e g = g (s.nvTaken y q) := by
  unfold State.nvEntry
  simp [hq, ha, ho]

/-- An admin command runs on the state with its entry taken, and is answered with its status and Dword 0 (R437). -/
theorem State.nvAdmin_run (hq : s.sq 0 = some q) (ha : q.asked ≠ 0) (hr : nvReserved e = false) (ho : nvOp e = op) :
    s.nvAdmin op e f = .next ((f (s.nvTaken 0 q)).1.nvAnswer 0 (nvCid e) (f (s.nvTaken 0 q)).2.1 (f (s.nvTaken 0 q)).2.2).nvSweep := by
  unfold State.nvAdmin
  rw [s.nvEntry_run q e op 0 adminOps _ hq ha ho, hr]
  rfl

/-- The same, for a command whose result is known. -/
theorem State.nvAdmin_result (hq : s.sq 0 = some q) (ha : q.asked ≠ 0) (hr : nvReserved e = false) (ho : nvOp e = op)
    (t : State) (st d : Nat) (h : f (s.nvTaken 0 q) = (t, st, d)) :
    s.nvAdmin op e f = .next (t.nvAnswer 0 (nvCid e) st d).nvSweep := by
  rw [s.nvAdmin_run q e op f hq ha hr ho, h]

/-- A reserved field that is set is Invalid Field (R436). -/
theorem State.nvAdmin_reserved (hq : s.sq 0 = some q) (ha : q.asked ≠ 0) (hr : nvReserved e = true) (ho : nvOp e = op) :
    s.nvAdmin op e f = .next ((s.nvTaken 0 q).nvAnswer 0 (nvCid e) nvINVALID_FIELD 0).nvSweep := by
  unfold State.nvAdmin
  rw [s.nvEntry_run q e op 0 adminOps _ hq ha ho, hr]
  rfl

end

/-! ## Doorbells (R425, R437) -/

/-- A doorbell beyond its queue, or in a halt, is discarded. -/
theorem State.doorbell_discarded (s : State) (v size : Nat) (h : size ≤ v ∨ s.halted = true) : ¬ (v < size ∧ (!s.halted) = true) := by
  rintro ⟨hv, hh⟩
  obtain h | h := h
  · omega
  · simp [h] at hh

theorem execSqTailDoorbell_exists (y : Fin 1025) (q : NvSq) (v : BitVec 16) (s : State) (hq : s.sq y = some q) :
    (v.toNat < q.size → s.halted = false →
      execSqTailDoorbell y v s = .next (((s.startClocks [ckSYS, ckNVF]).putSq y { q with tail := v.toNat }).nvSweep)) ∧
    (q.size ≤ v.toNat ∨ s.halted = true → execSqTailDoorbell y v s = .next s) := by
  unfold execSqTailDoorbell
  rw [hq]
  exact ⟨fun hv hh => if_pos ⟨hv, by rw [hh]; rfl⟩, fun h => if_neg (s.doorbell_discarded _ _ h)⟩

theorem execCqHeadDoorbell_exists (y : Fin 1025) (q : NvCq) (v : BitVec 16) (s : State) (hq : s.cq y = some q) :
    (v.toNat < q.size → s.halted = false → execCqHeadDoorbell y v s =
      .next (((s.startClocks [ckSYS, ckNVF]).putCq y { q with head := v.toNat }).nvDrain y s.nvf.held.length).nvSweep) ∧
    (q.size ≤ v.toNat ∨ s.halted = true → execCqHeadDoorbell y v s = .next s) := by
  unfold execCqHeadDoorbell
  rw [hq]
  exact ⟨fun hv hh => if_pos ⟨hv, by rw [hh]; rfl⟩, fun h => if_neg (s.doorbell_discarded _ _ h)⟩

/-! ## Creating queues (R427) -/

section
variable (s : State) (e : List Byte)

/-- An identifier from 1 to 1,024 that names no queue is free to be used. -/
theorem qid_free {α : Type} {x : Option α} {y : Nat} (hfree : x = none) (hpos : 0 < y) (hmax : y ≤ 1024) :
    ¬ (y = 0 ∨ 1024 < y ∨ x.isSome = true) := by
  rintro (h | h | h)
  · omega
  · omega
  · simp [hfree] at h

theorem State.createSq_badQid (h : s.sq (nvDw e 10 % 65536) ≠ none ∨ nvDw e 10 % 65536 = 0 ∨ 1024 < nvDw e 10 % 65536) :
    s.createSq e = (s, nvBAD_QID, 0) := by
  refine if_pos ?_
  obtain h | h | h := h
  · exact .inr (.inr (Option.isSome_iff_ne_none.2 h))
  · exact .inl h
  · exact .inr (.inl h)

theorem State.createSq_sound (q : NvCq) (hfree : s.sq (nvDw e 10 % 65536) = none) (hpos : 0 < nvDw e 10 % 65536)
    (hmax : nvDw e 10 % 65536 ≤ 1024) (hsize : 0 < nvDw e 10 / 65536) (hlimit : nvDw e 10 / 65536 ≤ 32767)
    (hcq : 0 < nvDw e 11 / 65536) (hq : s.cq (nvDw e 11 / 65536) = some q)
    (hsl : s.nvSlice (nvDw e 11 / 65536) = s.nvSlice (nvDw e 10 % 65536)) (hpc : bit (nvDw e 11) 0 = true)
    (hprp : leAt e 24 8 % 4096 = 0) :
    s.createSq e = (s.putSq (nvDw e 10 % 65536)
      { base := leAt e 24 8, size := nvDw e 10 / 65536 + 1, cq := nvDw e 11 / 65536, head := 0, tail := 0, asked := 0 }, nvOK, 0) := by
  have hn : ¬ (nvDw e 10 / 65536 = 0 ∨ 32767 < nvDw e 10 / 65536) := by omega
  have hc : ¬ (nvDw e 11 / 65536 = 0 ∨ (s.cq (nvDw e 11 / 65536)).isNone = true ∨
      s.nvSlice (nvDw e 11 / 65536) ≠ s.nvSlice (nvDw e 10 % 65536)) := by
    simp [hq, hsl]; omega
  unfold State.createSq
  simp only [if_neg (qid_free hfree hpos hmax), if_neg hn, if_neg hc, hpc, hprp, Bool.not_true,
    Bool.false_eq_true, if_false, ne_eq, not_true_eq_false]

/-- The refusals of the identifier and the size do not meet a completion queue whose identifier is free and whose size fits. -/
theorem State.createCq_sound (hfree : s.cq (nvDw e 10 % 65536) = none) (hpos : 0 < nvDw e 10 % 65536) (hmax : nvDw e 10 % 65536 ≤ 1024)
    (hsize : 0 < nvDw e 10 / 65536) (hlimit : nvDw e 10 / 65536 ≤ 32767)
    (hv : ∀ k, s.nvSlice (nvDw e 10 % 65536) = some k → s.vectorOk k (nvDw e 11 / 65536) = true)
    (hown : s.nvSlice (nvDw e 10 % 65536) = none → bit (nvDw e 11) 1 = false ∨ nvDw e 11 / 65536 < 2048)
    (hpc : bit (nvDw e 11) 0 = true) (hprp : leAt e 24 8 % 4096 = 0) :
    s.createCq e = (s.putCq (nvDw e 10 % 65536)
      { base := leAt e 24 8, size := nvDw e 10 / 65536 + 1, head := 0, tail := 0, phase := true, ien := bit (nvDw e 11) 1
        vector := nvDw e 11 / 65536 }, nvOK, 0) := by
  have hn : ¬ (nvDw e 10 / 65536 = 0 ∨ 32767 < nvDw e 10 / 65536) := by omega
  unfold State.createCq
  simp only [if_neg (qid_free hfree hpos hmax), if_neg hn]
  cases hs : s.nvSlice (nvDw e 10 % 65536) with
  | some k => simp [hv k hs, hpc, hprp]
  | none =>
    have hvec : (!bit (nvDw e 11) 1 || decide (nvDw e 11 / 65536 < 2048)) = true := by simpa using hown hs
    simp [hvec, hpc, hprp]

theorem State.createCq_badVector (k : Nat) (hfree : s.cq (nvDw e 10 % 65536) = none) (hpos : 0 < nvDw e 10 % 65536)
    (hmax : nvDw e 10 % 65536 ≤ 1024) (hsize : 0 < nvDw e 10 / 65536) (hlimit : nvDw e 10 / 65536 ≤ 32767)
    (hs : s.nvSlice (nvDw e 10 % 65536) = some k) (hv : s.vectorOk k (nvDw e 11 / 65536) = false) :
    s.createCq e = (s, nvBAD_VECTOR, 0) := by
  have hn : ¬ (nvDw e 10 / 65536 = 0 ∨ 32767 < nvDw e 10 / 65536) := by omega
  unfold State.createCq
  simp only [if_neg (qid_free hfree hpos hmax), if_neg hn]
  simp [hs, hv]

/-- A queue of a bound slice carries that slice's PASID. -/
theorem State.nvSlice_owned (y k : Nat) (hy : y ≠ 0) (ho : s.ownerOf .nvme (y - 1) = some k) (hb : s.bound k = true) :
    s.nvSlice y = some k ∧ s.nvPasid y = some (s.slicePasid k) := by
  have hk : s.nvSlice y = some k := by
    unfold State.nvSlice
    rw [if_neg hy, ho]
    exact Option.filter_some_pos hb
  exact ⟨hk, by unfold State.nvPasid; rw [hk]; rfl⟩

/-! ## Deleting queues (R427; log 33) -/

variable (q : NvSq)

/-- The range-lock entries that stay when the queues that `p` picks go: their own only while their packets are with U16, and then
without a queue to complete on (R438). -/
def orphanLocks (p : Nat → Bool) (l : List NvLock) : List NvLock :=
  (l.filter fun x => !x.sq.any p || x.phase == .sent).map fun x => if x.sq.any p then { x with sq := none, rope := 16 } else x

theorem orphanLocks_any (p : Nat → Bool) (l : List NvLock) (x : NvLock) (hx : x ∈ orphanLocks p l) : x.sq.any p = false := by
  obtain ⟨z, -, rfl⟩ := List.mem_map.1 hx
  split
  · rfl
  · rename_i hz
    exact Bool.eq_false_iff.2 hz

theorem State.nvf_setLocks (l : List NvLock) : (s.setLocks l).nvf = { s.nvf with locks := l } := State.set_nvf _ _ _ _

theorem State.orphan_eq (p : Nat → Bool) : s.orphan p = (s.setLocks (orphanLocks p s.nvf.locks)).modNvf fun v =>
    { v with held := v.held.filter (fun d => !p d.sq), fetched := v.fetched.filter fun x => !p x.sq } := by
  unfold State.orphan orphanLocks
  dsimp only
  refine congrArg (fun l => State.modNvf (s.setLocks l) _) (congr (congrArg List.map (funext fun x => ?_))
    (congrArg (List.filter · s.nvf.locks) (funext fun x => ?_)))
  · obtain ⟨_, sq, _⟩ := x
    cases sq <;> rfl
  · obtain ⟨_, sq, _⟩ := x
    cases sq <;> rfl

theorem State.nvf_orphan (p : Nat → Bool) : (s.orphan p).nvf = { s.nvf with
    locks := orphanLocks p s.nvf.locks, held := s.nvf.held.filter (fun d => !p d.sq)
    fetched := s.nvf.fetched.filter fun x => !p x.sq } := by
  rw [State.orphan_eq, State.modNvf, State.nvf_setLocks]

/-- The state in which submission queue `y` has been deleted. -/
def State.sqDeleted (s : State) (y : Nat) : State := (s.orphan (· == y)).modNvf fun v => { v with sqs := sdel v.sqs y }

theorem State.nvf_sqDeleted (y : Nat) : (s.sqDeleted y).nvf = { s.nvf with
    sqs := sdel s.nvf.sqs y, locks := orphanLocks (· == y) s.nvf.locks, held := s.nvf.held.filter (fun d => !(d.sq == y))
    fetched := s.nvf.fetched.filter fun x => !(x.sq == y) } :=
  congrArg (fun v : Nvf => { v with sqs := sdel v.sqs y }) (s.nvf_orphan (· == y))

/-- What is left after a submission queue's deletion knows the queue no more. -/
theorem State.sqDeleted_gone (y : Nat) : (s.sqDeleted y).sq y = none ∧ (s.sqDeleted y).nvf.cqs = s.nvf.cqs ∧
    (∀ l ∈ (s.sqDeleted y).nvf.locks, l.sq ≠ some y) ∧ (∀ x ∈ (s.sqDeleted y).nvf.fetched, x.sq ≠ y) ∧
    ∀ d ∈ (s.sqDeleted y).nvf.held, d.sq ≠ y := by
  unfold State.sq
  rw [State.nvf_sqDeleted]
  refine ⟨sfind_sdel_same _ _, rfl, fun l hl he => ?_, fun x hx => ?_, fun d hd => ?_⟩
  · have h := orphanLocks_any _ _ l hl
    simp [he] at h
  · simpa using (List.mem_filter.1 hx).2
  · simpa using (List.mem_filter.1 hd).2

variable (hq : s.sq 0 = some q) (ha : q.asked ≠ 0) (hr : nvReserved e = false)
include hq ha hr

theorem execDeleteIoSq_exists (p : NvSq) (ho : nvOp e = 0x00) (hy : nvDw e 10 % 65536 ≠ 0) (hp : s.sq (nvDw e 10 % 65536) = some p) :
    execDeleteIoSq e s = .next (((s.nvTaken 0 q).sqDeleted (nvDw e 10 % 65536)).nvAnswer 0 (nvCid e) nvOK 0).nvSweep := by
  refine s.nvAdmin_result q e _ _ hq ha hr ho _ _ _ (if_neg ?_)
  rw [State.sq_nvTaken_other _ _ _ _ hy, hp]
  simp [hy]

theorem execDeleteIoSq_deletes (p : NvSq) (ho : nvOp e = 0x00) (hy : nvDw e 10 % 65536 ≠ 0) (hp : s.sq (nvDw e 10 % 65536) = some p) :
    ∃ t : State, execDeleteIoSq e s = .next (t.nvAnswer 0 (nvCid e) nvOK 0).nvSweep ∧ t.sq (nvDw e 10 % 65536) = none ∧
      t.nvf.cqs = s.nvf.cqs ∧ (∀ l ∈ t.nvf.locks, l.sq ≠ some (nvDw e 10 % 65536)) ∧
      (∀ x ∈ t.nvf.fetched, x.sq ≠ nvDw e 10 % 65536) ∧ (∀ d ∈ t.nvf.held, d.sq ≠ nvDw e 10 % 65536) := by
  obtain ⟨hsq, hcqs, hl, hf, hh⟩ := (s.nvTaken 0 q).sqDeleted_gone (nvDw e 10 % 65536)
  exact ⟨_, execDeleteIoSq_exists s e q hq ha hr p ho hy hp, hsq, hcqs.trans (by rw [State.nvf_nvTaken]), hl, hf, hh⟩

theorem execDeleteIoCq_deletes (p : NvCq) (ho : nvOp e = 0x04) (hy : nvDw e 10 % 65536 ≠ 0) (hp : s.cq (nvDw e 10 % 65536) = some p)
    (hfree : ∀ x ∈ (s.nvTaken 0 q).nvf.sqs, x.2.cq ≠ nvDw e 10 % 65536) :
    ∃ t : State, execDeleteIoCq e s = .next (t.nvAnswer 0 (nvCid e) nvOK 0).nvSweep ∧ t.cq (nvDw e 10 % 65536) = none ∧
      t.nvf.sqs = (s.nvTaken 0 q).nvf.sqs := by
  have hnone : ¬ ((s.nvTaken 0 q).nvf.sqs.any fun x => x.2.cq == nvDw e 10 % 65536) = true := by
    simpa using hfree
  exact ⟨_, s.nvAdmin_result q e _ _ hq ha hr ho _ _ _
    ((if_neg (s.cq_nvTaken_exists q 0 _ p hy hp)).trans (if_neg hnone)), sfind_sdel_same _ _, rfl⟩

theorem execDeleteIoCq_used (p : NvCq) (ho : nvOp e = 0x04) (hy : nvDw e 10 % 65536 ≠ 0) (hp : s.cq (nvDw e 10 % 65536) = some p)
    (hused : ∃ x ∈ (s.nvTaken 0 q).nvf.sqs, x.2.cq = nvDw e 10 % 65536) :
    execDeleteIoCq e s = .next ((s.nvTaken 0 q).nvAnswer 0 (nvCid e) nvBAD_DELETE 0).nvSweep := by
  have hany : ((s.nvTaken 0 q).nvf.sqs.any fun x => x.2.cq == nvDw e 10 % 65536) = true := by
    simpa using hused
  exact s.nvAdmin_result q e _ _ hq ha hr ho _ _ _ ((if_neg (s.cq_nvTaken_exists q 0 _ p hy hp)).trans (if_pos hany))

end

/-! ## Abort (R435) -/

section
variable (s : State) (e : List Byte) (l : NvLock)

theorem State.nvAbort_misses (h : ∀ l ∈ s.nvf.locks, l.sq = some (nvDw e 10 % 65536) → l.cid = nvDw e 10 / 65536 → s.noneHanded l = false) :
    s.nvAbort e = (s, nvOK, 1) := by
  have hf : (s.nvf.locks.find? fun l => l.sq == some (nvDw e 10 % 65536) && l.cid == nvDw e 10 / 65536 && s.noneHanded l) = none := by
    rw [List.find?_eq_none]
    intro x hx hand
    simp only [Bool.and_eq_true, beq_iff_eq] at hand
    obtain ⟨⟨hsq, hcid⟩, hn⟩ := hand
    rw [h x hx hsq hcid] at hn
    exact absurd hn (by decide)
  unfold State.nvAbort
  simp only [hf]

theorem State.nvAbort_catches (hl : s.nvf.locks = [l]) (hsq : l.sq = some (nvDw e 10 % 65536)) (hcid : l.cid = nvDw e 10 / 65536)
    (hn : s.noneHanded l = true) : s.nvAbort e = ((s.unhand l.id).nvFinish l nvABORTED, nvOK, 0) := by
  have hf : (s.nvf.locks.find? fun l => l.sq == some (nvDw e 10 % 65536) && l.cid == nvDw e 10 / 65536 && s.noneHanded l) = some l := by
    simp [hl, hsq, hcid, hn]
  unfold State.nvAbort
  simp only [hf]

theorem State.noneHanded_phases : (l.phase = .finished → s.noneHanded l = false) ∧ ((∃ p, l.phase = .data p) → s.noneHanded l = true) ∧
    (l.phase = .stalled → s.noneHanded l = true) ∧ (l.phase = .sent → s.unhanded l.id = 0 → s.noneHanded l = false) := by
  unfold State.noneHanded
  refine ⟨fun h => ?_, fun ⟨p, h⟩ => ?_, fun h => ?_, fun h hu => ?_⟩
  · simp [h]
  · simp [h]
  · simp [h]
  · simp [h, hu]

end

/-! ## Identify, logs, features and events (R424, R428, R436) -/

section
variable (s : State) (q : NvSq) (e : List Byte) (hq : s.sq 0 = some q) (ha : q.asked ≠ 0) (hr : nvReserved e = false)

theorem adminPrpBad_iff (n : Nat) :
    adminPrpBad e n = true ↔ leAt e 24 8 % 4 ≠ 0 ∨ 4096 - leAt e 24 8 % 4096 < n ∧ leAt e 32 8 % 4096 ≠ 0 := by
  simp [adminPrpBad]

include hq ha hr

theorem execIdentify_taken (ho : nvOp e = 0x06) :
    execIdentify e s = .next (if 3 < nvDw e 10 % 256 then (s.nvTaken 0 q).nvAnswer 0 (nvCid e) nvINVALID_FIELD 0
      else if adminPrpBad e 4096 then (s.nvTaken 0 q).nvAnswer 0 (nvCid e) nvPRP_OFFSET 0
      else (((s.nvTaken 0 q).adminData e ((s.nvTaken 0 q).identifyData (nvDw e 10 % 256) (nvNsid e))).tickFree).nvAnswer 0 (nvCid e)
        nvOK 0).nvSweep := by
  by_cases hc : 3 < nvDw e 10 % 256
  · rw [if_pos hc]
    exact s.nvAdmin_result q e _ _ hq ha hr ho _ _ _ (if_pos hc)
  · rw [if_neg hc]
    by_cases hp : adminPrpBad e 4096 = true
    · rw [if_pos hp]
      exact s.nvAdmin_result q e _ _ hq ha hr ho _ _ _ ((if_neg hc).trans (if_pos hp))
    · rw [if_neg hp]
      exact s.nvAdmin_result q e _ _ hq ha hr ho _ _ _ ((if_neg hc).trans (if_neg hp))

theorem execGetLogPage_unknown (temp : BitVec 16) (ho : nvOp e = 0x02) (hl : 2 < nvDw e 10 % 256) :
    execGetLogPage e temp s = .next ((s.nvTaken 0 q).nvAnswer 0 (nvCid e) nvBAD_LOG 0).nvSweep :=
  s.nvAdmin_result q e _ _ hq ha hr ho _ _ _ (if_pos (by omega))

theorem execGetLogPage_smart (temp : BitVec 16) (ho : nvOp e = 0x02) (hl : nvDw e 10 % 256 = 2) (n : Nat)
    (hn : n = min ((nvDw e 10 / 65536 + 65536 * (nvDw e 11 % 65536) + 1) * 4) 512) :
    execGetLogPage e temp s = .next (if adminPrpBad e n then (s.nvTaken 0 q).nvAnswer 0 (nvCid e) nvPRP_OFFSET 0
      else (((s.nvTaken 0 q).adminData e (slice ((s.nvTaken 0 q).smartLog temp.toNat) 0 n)).tickFree).nvAnswer 0 (nvCid e) nvOK 0).nvSweep := by
  subst hn
  have h2 : ¬ (nvDw e 10 % 256 ≠ 1 ∧ nvDw e 10 % 256 ≠ 2) := by omega
  have h1 : ¬ nvDw e 10 % 256 = 1 := by omega
  by_cases hp : adminPrpBad e (min ((nvDw e 10 / 65536 + 65536 * (nvDw e 11 % 65536) + 1) * 4) 512) = true
  · rw [if_pos hp]
    refine s.nvAdmin_result q e _ _ hq ha hr ho _ _ _ ((if_neg h2).trans (if_pos ?_))
    rw [if_neg h1]
    exact hp
  · rw [if_neg hp]
    refine s.nvAdmin_result q e _ _ hq ha hr ho _ _ _ ((if_neg h2).trans ((if_neg ?_).trans (if_neg h1)))
    rw [if_neg h1]
    exact hp

theorem execSetFeatures_kept (ho : nvOp e = 0x09) (hf : nvDw e 10 % 256 ∈ [1, 4, 8, 9, 0x0B]) :
    execSetFeatures e s = .next (((s.nvTaken 0 q).modNvf fun x => { x with features := sput 0 x.features (nvDw e 10 % 256) (nvDw e 11) }).nvAnswer
      0 (nvCid e) nvOK 0).nvSweep := by
  refine s.nvAdmin_result q e _ _ hq ha hr ho _ _ _ ?_
  generalize nvDw e 10 % 256 = i at hf ⊢
  simp only [List.mem_cons, List.not_mem_nil, or_false] at hf
  obtain rfl | rfl | rfl | rfl | rfl := hf <;> rfl

theorem execSetFeatures_unknown (ho : nvOp e = 0x09) (hf : nvDw e 10 % 256 ∉ nvFeatures) :
    execSetFeatures e s = .next ((s.nvTaken 0 q).nvAnswer 0 (nvCid e) nvINVALID_FIELD 0).nvSweep :=
  s.nvAdmin_result q e _ _ hq ha hr ho _ _ _ (if_pos (.inl (by simpa using hf)))

theorem execGetFeatures_known (ho : nvOp e = 0x0A) (hf : nvDw e 10 % 256 ∈ nvFeatures) :
    execGetFeatures e s = .next ((s.nvTaken 0 q).nvAnswer 0 (nvCid e) nvOK (s.feature (nvDw e 10 % 256))).nvSweep := by
  rw [← s.feature_nvTaken q 0]
  exact s.nvAdmin_result q e _ _ hq ha hr ho _ _ _ (if_pos (by simpa using hf))

/-- An Asynchronous Event Request is held while fewer than four are, and refused otherwise. -/
theorem execAsyncEventRequest_taken (ho : nvOp e = 0x0C) :
    (s.nvf.aers.length < 4 → execAsyncEventRequest e s =
      .next (((s.nvTaken 0 q).modNvf fun v => { v with aers := v.aers ++ [nvCid e] }).aerGo).nvSweep) ∧
    (4 ≤ s.nvf.aers.length → execAsyncEventRequest e s = .next ((s.nvTaken 0 q).nvAnswer 0 (nvCid e) nvAER_LIMIT 0).nvSweep) := by
  have haers : (s.nvTaken 0 q).nvf.aers = s.nvf.aers := by rw [State.nvf_nvTaken]
  unfold execAsyncEventRequest
  rw [s.nvEntry_run q e 0x0C 0 adminOps _ hq ha ho, hr, haers]
  exact ⟨fun h => by rw [if_neg (Nat.not_le.2 h)]; rfl, fun h => by rw [if_pos h]; rfl⟩

end

/-! ## The controller (R424, R426, R438) -/

theorem execControllerEnable_sound (cc aqa : Word) (asq acq : DWord) (s : State) (hh : s.halted = false) (hrdy : s.nvReady = false)
    (hen : bit cc.toNat 0 = true) (hu : s.ready 17 = true) (hf : s.nvFatal = false) (hcss : bits cc.toNat 6 4 = 0 ∨ bits cc.toNat 6 4 = 6)
    (hmps : bits cc.toNat 10 7 = 0) (hams : bits cc.toNat 13 11 = 0) (hsq : aqa.toNat % 4096 ≠ 0) (hcq : bits aqa.toNat 27 16 ≠ 0) :
    ∃ t p q, execControllerEnable cc aqa asq acq s = .next t ∧ t.nvReady = true ∧ t.sq 0 = some p ∧ t.cq 0 = some q ∧
      p.base = asq.toNat / 4096 * 4096 ∧ p.size = aqa.toNat % 4096 + 1 ∧ q.base = acq.toNat / 4096 * 4096 ∧
      q.size = bits aqa.toNat 27 16 + 1 ∧ t.regs = s.regs := by
  have hoff : ¬ (s.nvReady || !bit cc.toNat 0 || s.halted) = true := by simp [hrdy, hen, hh]
  have hok : s.ready 17 = true ∧ (!s.nvFatal) = true ∧ (bits cc.toNat 6 4 = 0 ∨ bits cc.toNat 6 4 = 6) ∧ bits cc.toNat 10 7 = 0 ∧
      bits cc.toNat 13 11 = 0 ∧ aqa.toNat % 4096 ≠ 0 ∧ bits aqa.toNat 27 16 ≠ 0 :=
    ⟨hu, by rw [hf]; rfl, hcss, hmps, hams, hsq, hcq⟩
  exact ⟨_, _, _, (if_neg hoff).trans (if_pos hok), (by decide : bit 1 0 = true),
    sfind_sins_same _ _ _, sfind_sins_same _ _ _, rfl, rfl, rfl, rfl, rfl⟩

theorem execController_halted (cc aqa : Word) (asq acq : DWord) (s : State) (hh : s.halted = true) :
    execControllerEnable cc aqa asq acq s = .next s ∧ execControllerReset s = .next s :=
  ⟨if_pos (by rw [hh, Bool.or_true]), if_pos hh⟩

theorem State.nvf_controllerReset (s : State) : s.nvControllerReset.nvf = { s.nvf with
    locks := orphanLocks (fun _ => true) s.nvf.locks, cc := s.nvf.cc / 2 * 2, csts := 0, sqs := [], cqs := [], fetched := [], turn := 0
    held := [], features := [], aers := [], changed := [], smart := [0, 0, 0, 0] } :=
  congrArg (fun v : Nvf => { v with
    cc := v.cc / 2 * 2, csts := 0, sqs := [], cqs := [], fetched := [], turn := 0, held := [], features := [], aers := [], changed := []
    smart := [0, 0, 0, 0] }) (s.nvf_orphan fun _ => true)

theorem State.shx_controllerReset (s : State) : s.nvControllerReset.shx = s.shx := State.set_shx _ _ _ _

/-- A controller reset leaves no queue, and no range lock of one. -/
theorem execControllerReset_running (s : State) :
    (s.halted = false → execControllerReset s = .next s.nvControllerReset.nvSweep) ∧ s.nvControllerReset.nvReady = false ∧
    s.nvControllerReset.nvf.sqs = [] ∧ s.nvControllerReset.nvf.cqs = [] ∧ s.nvControllerReset.nvf.fetched = [] ∧
    (∀ l ∈ s.nvControllerReset.nvf.locks, l.sq = none) ∧ s.nvControllerReset.shx = s.shx := by
  unfold State.nvReady
  rw [State.nvf_controllerReset]
  refine ⟨fun hh => if_neg (by rw [hh]; decide), (by decide : bit 0 0 = false), rfl, rfl, rfl, fun l hl => ?_, s.shx_controllerReset⟩
  simpa using orphanLocks_any _ _ l hl

/-- Settles O50: the doorbells, each admin command on the entry that it takes, and the controller's enable and reset. -/
theorem storageQueuesAndAdminCommands : Obligations.StorageQueuesAndAdminCommands :=
  ⟨execSqTailDoorbell_exists, execCqHeadDoorbell_exists,
    fun q e st d s t hq ha hr => ⟨fun ho h => s.nvAdmin_result q e _ _ hq ha hr ho t st d h,
      fun ho h => s.nvAdmin_result q e _ _ hq ha hr ho t st d h, fun ho h => s.nvAdmin_result q e _ _ hq ha hr ho t st d h⟩,
    fun q e s hq ha hr ho => s.nvAdmin_reserved q e _ _ hq ha hr ho,
    fun e s h => s.createSq_badQid e h,
    fun e q s => s.createSq_sound e q,
    fun e s hfree hpos hmax hsize hlimit => ⟨s.createCq_sound e hfree hpos hmax hsize hlimit,
      fun k => s.createCq_badVector e k hfree hpos hmax hsize hlimit⟩,
    fun y k s => s.nvSlice_owned y k,
    fun q p e s hq ha hr ho => execDeleteIoSq_deletes s e q hq ha hr p ho,
    fun q p e s hq ha hr ho hy hp => ⟨execDeleteIoCq_deletes s e q hq ha hr p ho hy hp, execDeleteIoCq_used s e q hq ha hr p ho hy hp⟩,
    fun e s => s.nvAbort_misses e, fun l e s => s.nvAbort_catches e l, fun l s => s.noneHanded_phases l,
    fun q e s => execIdentify_taken s q e,
    fun q e temp s hq ha hr => execGetLogPage_unknown s q e hq ha hr temp,
    fun q e temp s hq ha hr => execGetLogPage_smart s q e hq ha hr temp,
    adminPrpBad_iff,
    fun q e s hq ha hr ho => ⟨execSetFeatures_kept s q e hq ha hr ho, execSetFeatures_unknown s q e hq ha hr ho⟩,
    fun q e s => execGetFeatures_known s q e, fun _ => ⟨rfl, rfl⟩,
    fun q e s => execAsyncEventRequest_taken s q e, execControllerEnable_sound, execController_halted, execControllerReset_running⟩

end Sys2Proof.Machine
end

section
/-!
A store of connections that is not in its canonical form: there a packet that has room finds none.
-/

namespace Sys2Proof.Machine

/-- A packet of a WRITE that has been made and not sent, with the data `d`. -/
def writeOf (d : List Byte) : Pkt :=
  { tag := 0, op := opWRITE, key := 0, addr := 0, len := d.length, time := 0, last := true, data := d, dest := [], via := none, psn := none
    acked := false }

/-- A connection of KIND EXPORT with one packet, whose copy takes one cell. -/
def exporting : Conn := { Conn.fresh (leBytes 128 8) 0 with pkts := [writeOf [0]] }

/-- Connection 0 is `exporting`, and stands behind connection 1 in the list: a write of it goes to the front and leaves the old
entry in its place. There is one cell for the copies (R401). -/
def crossed : State :=
  let s := State.reset.set ShxRetxCells.adr ShxRetxCells.cells 1
  { s with shx := { s.shx with conns := [(1, Conn.fresh (leBytes 128 8) 0), (0, exporting)] } }

/-- The copies of `crossed` fill the cells, with room for a packet without data. -/
theorem crossed_meets : crossed.conn 0 = some exporting ∧ exporting.kind ≠ ckRING ∧ exporting.work = [] ∧
    crossed.copyRoom (writeOf []).data.length = true := by
  decide +kernel

/-- A packet without data that is handed to connection 0 of `crossed` counts the copy of that connection twice, and waits. -/
theorem crossed_waits : ((crossed.toConn 0 [writeOf []]).conn 0).map (fun x => (x.pkts.length, x.work.length)) = some (1, 1) := by
  decide +kernel

/-- Refutes O47: that a packet of U05 or U17 enters its connection when there is room for its copy fails in a state whose connections
are not listed in rising order, where taking the packet counts the connection's copies a second time. -/
theorem not_sendRingsAndPackets : ¬ Obligations.SendRingsAndPackets := by
  unfold Obligations.SendRingsAndPackets
  rintro ⟨-, -, -, -, -, -, -, -, -, -, -, -, -, -, -, -, -, -, -, hpackets⟩
  obtain ⟨hconn, hkind, hwork, hroom⟩ := crossed_meets
  obtain ⟨y, hy, -, -, hfits, -⟩ := hpackets 0 (writeOf []) exporting crossed hconn hkind hwork
  obtain ⟨hpkts, hnone⟩ := hfits hroom
  have hwaits := crossed_waits
  rw [hy, Option.map_some, hpkts, hnone] at hwaits
  exact absurd hwaits (by decide)

end Sys2Proof.Machine
end

section
/-!
The words of a queue's state and indices: what a head record, an event and a stop leave of them.
-/

namespace Sys2Proof.Machine

/-! ## Addresses -/

/-- The word at `a` is one of a queue's block before OVERFLOW. -/
abbrev QueueWord (a : Nat) : Prop :=
  (0xF40000 ≤ a ∧ a < 0xFD4000 ∨ 0x1248000 ≤ a ∧ a < 0x1249000) ∧ a % 0x40 < 0x2C

/-- Each queue has a block of 64 bytes of its own, in U15 or in U18. -/
theorem qAdr_block (k q : Nat) (hq : q < qCount k) :
    (0xF40000 ≤ qAdr k q ∧ qAdr k q + 0x40 ≤ 0xFD4000 ∨ 0x1248000 ≤ qAdr k q ∧ qAdr k q + 0x40 ≤ 0x1249000) ∧
      qAdr k q % 0x40 = 0 := by
  unfold qCount at hq
  unfold qAdr
  split at hq
  · simp only [QeTxq.adr]; omega
  · simp only [QeRxq.adr]; omega
  · simp only [QeEvq.adr]; omega
  · simp only [QeScq.adr]; omega
  · simp only [IgeRq.adr]; omega

theorem queueWord_of_block {k q : Nat} (hq : q < qCount k) (n : Nat) (hn : n < 0x2C) : QueueWord (qAdr k q + n) := by
  obtain ⟨hr, hm⟩ := qAdr_block k q hq
  omega

/-- Two fields of one entry lie apart as they do in the entry at 0. -/
theorem Fld.apart_entry {f g : Fld} (h : f.Apart 0 0 g) (b : Nat) : f.Apart b b g := by
  unfold Fld.Apart at h ⊢
  omega

/-! ## Events -/

theorem State.rd_stage_queue (s : State) (e : Staged) (a : Nat) (h : QueueWord a) : (s.stage e).rd a = s.rd a := by
  obtain ⟨hr, hm⟩ := h
  have hq := s.act_evq_lt (HifRoute.adr e.ev)
  have hlost : (s.set SvcStaging.adr SvcStaging.lost 1).rd a = s.rd a :=
    State.rd_set_out _ _ _ _ _ (by simp only [SvcStaging.adr, SvcStaging.lost, Fld.words]; omega)
  unfold State.stage
  split
  · rfl
  · split
    · exact State.rd_set_out _ _ _ _ _ (by simp only [SvcStaging.adr, SvcStaging.used, Fld.words]; omega)
    · dsimp only
      split
      · exact (State.rd_set_out _ _ _ _ _ (by simp only [QeEvq.adr, QeTxq.overflow, Fld.words]; omega)).trans hlost
      · exact hlost

theorem State.rd_moment_queue (s : State) (u n d a : Nat) (h : QueueWord a) : (s.moment u n d).rd a = s.rd a := by
  obtain ⟨hr, -⟩ := h
  unfold State.moment
  rw [State.rd_set_out _ _ _ _ _ (by simp only [Hdr.adr, Hdr.momDetail, Fld.words]; omega),
    State.rd_set_out _ _ _ _ _ (by simp only [Hdr.adr, Hdr.momStamp, Fld.words]; omega),
    State.rd_set_out _ _ _ _ _ (by simp only [Hdr.adr, Hdr.momEvent, Fld.words]; omega)]

/-- An event writes OVERFLOW of an event queue at most (R374). -/
theorem State.rd_raise_queue (s : State) (u n d a : Nat) (h : QueueWord a) : (s.raise u n d).rd a = s.rd a := by
  obtain ⟨e, t, ht, hr⟩ := s.raise_eq u n d
  have hfar : a < 0x1401000 ∨ 0x1401004 ≤ a := by omega
  rw [hr, State.rd_tickFree, State.rd_stage_queue _ _ _ h]
  obtain rfl | rfl := ht
  · exact s.rd_moment_queue u n d a h
  · exact (State.rd_mgtEnter _ _ hfar).trans (s.rd_moment_queue u n d a h)

section
variable (s : State) (k q : Nat)

/-! ## Head records (R363) -/

theorem State.linkOnly_qWrite (addr : Nat) (data : List Byte) : s.LinkOnly (s.qWrite k q addr data) := by
  unfold State.qWrite
  split
  · exact s.linkOnly_dmaWriteBy _ _ _ _ _
  · exact .refl s

theorem State.linkOnly_qMsix (v : Nat) : s.LinkOnly (s.qMsix k q v) := by
  unfold State.qMsix
  split
  · exact s.linkOnly_msix _ _
  · exact .refl s

theorem State.regs_headRecord : (s.headRecord k q).regs = s.regs := by
  unfold State.headRecord
  dsimp only
  split
  · exact (State.linkOnly_qMsix _ _ _ _).regs.trans (State.linkOnly_qWrite _ _ _ _ _).regs
  · exact (State.linkOnly_qWrite _ _ _ _ _).regs

theorem State.get_headRecord (b : Nat) (f : Fld) : (s.headRecord k q).get b f = s.get b f :=
  s.get_of_regs _ (s.regs_headRecord k q) b f

theorem State.regs_dropWork : (s.dropWork k q).regs = s.regs := by
  unfold State.dropWork
  split
  · rfl
  · split <;> rfl

/-! ## Stops (R365) -/

/-- The three fields that a stop writes. -/
def State.stopWords (s : State) (k q st reason idx : Nat) : State :=
  ((s.set (qAdr k q) QeTxq.state st).set (qAdr k q) QeTxq.error reason).set (qAdr k q) QeTxq.errorIndex idx

variable (st reason idx : Nat)

/-- The queue with its stop written, what was fetched given up, and its head record issued. -/
def State.stopped (s : State) (k q st reason idx : Nat) : State :=
  (((s.stopWords k q st reason idx).modQ k q fun x => { x with fetched := [], asked := [], drain := none }).dropWork k q).headRecord k q

theorem State.qStop_eq : s.qStop k q st reason idx = if k = qkIR then s.stopped k q st reason idx
    else (s.stopped k q st reason idx).raise 15 (if st = qsERROR then 4 else 5) (qDetail k q reason) := rfl

theorem State.get_stopped (b : Nat) (f : Fld) : (s.stopped k q st reason idx).get b f = (s.stopWords k q st reason idx).get b f := by
  unfold State.stopped
  rw [State.get_headRecord]
  exact State.get_of_regs _ _ (State.regs_dropWork _ _ _) _ _

/-- After a stop, the fields before OVERFLOW read as the stop has written them. -/
theorem State.get_qStop (hq : q < qCount k) (f : Fld) (hf : f.off + 4 * f.words ≤ 0x2C) :
    (s.qStop k q st reason idx).get (qAdr k q) f = (s.stopWords k q st reason idx).get (qAdr k q) f := by
  rw [State.qStop_eq]
  split
  · exact s.get_stopped k q st reason idx _ _
  · refine (fieldOf_congr _ _ _ _ fun j hj => ?_).trans (s.get_stopped k q st reason idx _ _)
    rw [Nat.add_assoc]
    exact State.rd_raise_queue _ _ _ _ _ (queueWord_of_block hq _ (by omega))

theorem State.qState_qStop (hq : q < qCount k) (hst : st < 16) : (s.qStop k q st reason idx).qState k q = st := by
  refine (s.get_qStop k q st reason idx hq _ (by decide)).trans ?_
  unfold State.stopWords
  rw [State.get_set_apart _ _ _ _ _ _ (Fld.apart_entry (by decide) _), State.get_set_apart _ _ _ _ _ _ (Fld.apart_entry (by decide) _),
    State.get_set_same]
  exact Nat.mod_eq_of_lt hst

theorem State.error_qStop (hq : q < qCount k) (hr : reason < 256) : (s.qStop k q st reason idx).get (qAdr k q) QeTxq.error = reason := by
  refine (s.get_qStop k q st reason idx hq _ (by decide)).trans ?_
  unfold State.stopWords
  rw [State.get_set_apart _ _ _ _ _ _ (Fld.apart_entry (by decide) _), State.get_set_same]
  exact Nat.mod_eq_of_lt hr

theorem State.errorIndex_qStop (hq : q < qCount k) (hi : idx < 65536) :
    (s.qStop k q st reason idx).get (qAdr k q) QeTxq.errorIndex = idx := by
  refine (s.get_qStop k q st reason idx hq _ (by decide)).trans ?_
  unfold State.stopWords
  rw [State.get_set_same]
  exact Nat.mod_eq_of_lt hi

/-- A stop leaves every field of the queue that lies outside word +0x24. -/
theorem State.get_qStop_other (hq : q < qCount k) (f : Fld) (hf : f.off + 4 * f.words ≤ 0x2C)
    (ho : f.off + 4 * f.words ≤ 0x24 ∨ 0x28 ≤ f.off) :
    (s.qStop k q st reason idx).get (qAdr k q) f = s.get (qAdr k q) f := by
  refine (s.get_qStop k q st reason idx hq f hf).trans ?_
  unfold State.stopWords
  rw [State.get_set_apart, State.get_set_apart, State.get_set_apart]
  all_goals
    simp only [Fld.Apart, QeTxq.state, QeTxq.error, QeTxq.errorIndex, Fld.words] at ho ⊢
    omega

theorem State.qStop_event : s.qStop qkEV q st reason idx =
    ((((((s.set (qAdr qkEV q) QeTxq.state st).set (qAdr qkEV q) QeTxq.error reason).set (qAdr qkEV q) QeTxq.errorIndex idx).modQ qkEV q
      fun x => { x with fetched := [], asked := [], drain := none }).headRecord qkEV q).raise 15 (if st = qsERROR then 4 else 5)
        (qDetail qkEV q reason)) := rfl

theorem State.qResetHalt_stops (h : s.qState k q = qsRUNNING ∨ s.qState k q = qsERROR) :
    s.qResetHalt k q = s.qStop k q qsHALTED qrUNIT_RESET (s.qHead k q) := if_pos h

theorem State.qResetHalt_idle (h : s.qState k q = qsDISABLED ∨ s.qState k q = qsHALTED) : s.qResetHalt k q = s := by
  refine if_neg ?_
  obtain h | h := h <;> rw [h] <;> decide

/-! ## What no register shows of a queue -/

theorem State.qst_modQ (f : QSt → QSt) : (s.modQ k q f).qst k q = f (s.qst k q) :=
  (sget_sput _ _ _ _ _).trans (if_pos rfl)

theorem State.qst_dropWork : (s.dropWork k q).qst k q = s.qst k q := by
  unfold State.dropWork
  split
  · rfl
  · split <;> rfl

/-- A drain is noted, RESET drops what was fetched, and no register changes (R367). -/
theorem State.qDrain_notes (r : Bool) : ((s.qDrain k q r).qst k q).drain = some r ∧ (s.qDrain k q r).regs = s.regs ∧
    ((s.qDrain k q true).qst k q).fetched = [] := by
  unfold State.qDrain
  refine ⟨?_, ?_, ?_⟩
  · cases r <;> simp [State.qst_dropWork, State.qst_modQ]
  · cases r
    · rfl
    · exact State.regs_dropWork _ k q
  · simp [State.qst_dropWork, State.qst_modQ]

end
end Sys2Proof.Machine
end

section
/-!
The commands of a queue: doorbells, ENABLE, DISABLE, RESET and the ends of drains.
-/

namespace Sys2Proof.Machine

/-! ## Under whom a queue's requests run -/

/-- The word at `a` is none of those by which a queue is enabled: its own +0x24 to +0x2C, and that of a receive queue's TM queue. -/
abbrev NotControl (a : Nat) : Prop := (a < 0xDA0000 ∨ 0xDC0000 ≤ a) ∧ (a < 0xF40000 ∨ a % 0x40 < 0x24 ∨ 0x30 ≤ a % 0x40)

section
variable {s t : State} (h : Keeps NotControl s t) (hh : t.hif = s.hif)

theorem notControl_slice (k off : Nat) (ho : off ≤ 4) : NotControl (HifSlice.adr k + off) := by
  simp only [HifSlice.adr]
  omega

include h

theorem Keeps.slices : t.slices = s.slices :=
  congrArg (2 ^ ·) (h.act_word HifSliceCfg.adr HifSliceCfg.countLog2 rfl (by decide))

theorem Keeps.service : t.service = s.service :=
  congrArg (· == 1) (h.act_word HifSliceCfg.adr HifSliceCfg.mode rfl (by decide))

theorem Keeps.scale : t.scale = s.scale := h.get_word _ _ rfl (by decide)

theorem Keeps.bound (k : Nat) : t.bound k = s.bound k :=
  congrArg (· != slUNBOUND) (h.get_word (HifSlice.adr k) HifSlice.state rfl (notControl_slice k 4 (by decide)))

theorem Keeps.slicePf (k : Nat) : t.slicePf k = s.slicePf k :=
  h.act_word (HifSlice.adr k) HifSlice.pf rfl (notControl_slice k 0 (by decide))

theorem Keeps.slicePasid (k : Nat) : t.slicePasid k = s.slicePasid k :=
  h.act_word (HifSlice.adr k) HifSlice.pasid rfl (notControl_slice k 0 (by decide))

theorem Keeps.requester (q : Nat) (f : Fld) (ho : f.off = 0x30) (hw : f.words = 1) : t.act (IgeRq.adr q) f = s.act (IgeRq.adr q) f :=
  h.act_word _ _ hw (by simp only [ho, IgeRq.adr]; omega)

include hh

theorem Keeps.share (r : Res) (k : Nat) : t.share r k = s.share r k := by
  unfold State.share State.equalShare State.sharers
  rw [h.service, h.slices, h.scale, hh]

theorem Keeps.ownerOf (r : Res) (i : Nat) : t.ownerOf r i = s.ownerOf r i := by
  unfold State.ownerOf State.owners
  rw [h.service, h.slices, h.scale, funext fun k => h.share hh r k]

theorem Keeps.qOwner (k q : Nat) : t.qOwner k q = s.qOwner k q := by
  unfold State.qOwner
  split
  · exact h.ownerOf hh _ _
  · exact h.ownerOf hh _ _
  · exact h.ownerOf hh _ _
  · rw [h.slices]
  · rw [h.requester q IgeRq.fw rfl rfl, h.requester q IgeRq.slice rfl rfl]

/-- A queue's function and PASID follow from its owner and the owner's binding. -/
theorem Keeps.qVia (k q : Nat) : t.qVia k q = s.qVia k q := by
  unfold State.qVia
  rw [h.qOwner hh]
  split
  · rw [h.bound, h.slicePf, h.slicePasid]
  · rfl

theorem Keeps.issues (f : Nat) (hf : f < 4) : t.issues f = s.issues f := by
  have hb : t.bme f = s.bme f :=
    congrArg (· == 1) (h.get_word (HifPfStatus.adr f) HifPfStatus.bme rfl (by simp only [HifPfStatus.adr, HifPfStatus.bme]; omega))
  unfold State.issues
  rw [hb, hh]

end

/-- There are four functions. -/
theorem State.qVia_function (s : State) (k q f : Nat) (p : Option Nat) (h : s.qVia k q = some (f, p)) : f < 4 := by
  have hpf : ∀ n, s.slicePf n < 4 := fun n => Nat.mod_lt _ (by decide)
  unfold State.qVia at h
  split at h
  · rename_i n _
    split at h
    · simp only [Option.some.injEq, Prod.mk.injEq] at h
      have := hpf n
      omega
    · exact absurd h (by simp)
  · split at h
    · simp only [Option.some.injEq, Prod.mk.injEq] at h
      omega
    · exact absurd h (by simp)

/-! ## ENABLE (R364) -/

section
variable (s : State) (k q : Nat)

/-- The queue's words after ENABLE. -/
def State.enableWords (s : State) (k q : Nat) : State :=
  (((((s.set (qAdr k q) QeTxq.state qsRUNNING).set (qAdr k q) QeTxq.head 0).set (qAdr k q) QeTxq.tail 0).set (qAdr k q)
    QeTxq.error 0).set (qAdr k q) QeTxq.errorIndex 0).set (qAdr k q) QeTxq.overflow 0

/-- The queue as ENABLE makes it, before its first head record. -/
def State.enabled (s : State) (k q : Nat) : State :=
  let t := (s.enableWords k q).modQ k q fun _ => QSt.init
  if k = qkRX then t.rxTm q true else t

theorem State.qEnable_eq : s.qEnable k q = (s.enabled k q).qPresent k q fun s => s.headRecord k q := rfl

variable (hq : q < qCount k)
include hq

theorem State.keeps_control (f : Fld) (v : Nat) (ho : 0x24 ≤ f.off) (hw : f.off + 4 * f.words ≤ 0x30) :
    Keeps NotControl s (s.set (qAdr k q) f v) :=
  (keeps_set s (qAdr k q) f v).mono fun a ha => by
    obtain ⟨hr, hm⟩ := qAdr_block k q hq
    omega

theorem State.keeps_enableWords : Keeps NotControl s (s.enableWords k q) := by
  unfold State.enableWords
  refine (((((State.keeps_control _ k q hq _ _ ?_ ?_).trans (State.keeps_control _ k q hq _ _ ?_ ?_)).trans
    (State.keeps_control _ k q hq _ _ ?_ ?_)).trans (State.keeps_control _ k q hq _ _ ?_ ?_)).trans
    (State.keeps_control _ k q hq _ _ ?_ ?_)).trans (State.keeps_control _ k q hq _ _ ?_ ?_)
  all_goals decide

/-- ENABLE leaves whoever owns the queue as it is. -/
theorem State.keeps_enabled : Keeps NotControl s (s.enabled k q) := by
  have hwords : Keeps NotControl s ((s.enableWords k q).modQ k q fun _ => QSt.init) :=
    (s.keeps_enableWords k q hq).trans ⟨rfl, rfl, fun _ _ => rfl, fun _ _ => rfl⟩
  unfold State.enabled
  dsimp only
  split
  · rename_i hk
    subst hk
    have hlt : q < 4096 := hq
    exact hwords.trans ((keeps_set _ _ _ _).mono fun a ha => by simp only [TmQueue.adr, TmQueue.enable, Fld.words]; omega)
  · exact hwords

omit hq in
theorem State.hif_enabled : (s.enabled k q).hif = s.hif := by
  unfold State.enabled State.enableWords State.rxTm State.modQ
  dsimp only
  split <;> simp

/-- The queue's own fields before OVERFLOW read as ENABLE has written them. -/
theorem State.get_enabled (f : Fld) : (s.enabled k q).get (qAdr k q) f = (s.enableWords k q).get (qAdr k q) f := by
  unfold State.enabled
  dsimp only
  split
  · rename_i hk
    subst hk
    have hlt : q < 4096 := hq
    refine (State.get_set_apart _ _ _ _ _ _ (.inl ?_)).trans rfl
    simp only [TmQueue.adr, TmQueue.enable, Fld.words, qAdr, QeRxq.adr, qkRX]
    omega
  · rfl

theorem State.qState_enabled : (s.enabled k q).qState k q = qsRUNNING := by
  refine (s.get_enabled k q hq _).trans ?_
  unfold State.enableWords
  iterate 5 rw [State.get_set_apart _ _ _ _ _ _ (Fld.apart_entry (by decide) _)]
  exact State.get_set_same _ _ _ _

theorem State.qHead_enabled : (s.enabled k q).qHead k q = 0 := by
  refine (s.get_enabled k q hq _).trans ?_
  unfold State.enableWords
  iterate 4 rw [State.get_set_apart _ _ _ _ _ _ (Fld.apart_entry (by decide) _)]
  exact State.get_set_same _ _ _ _

theorem State.qTail_enabled : (s.enabled k q).qTail k q = 0 := by
  refine (s.get_enabled k q hq _).trans ?_
  unfold State.enableWords
  iterate 3 rw [State.get_set_apart _ _ _ _ _ _ (Fld.apart_entry (by decide) _)]
  exact State.get_set_same _ _ _ _

/-- A queue whose function may not issue requests is halted by its first head record (R337). -/
theorem State.qEnable_cut (f : Nat) (p : Option Nat) (hv : s.qVia k q = some (f, p)) (hi : s.issues f = false) :
    s.qEnable k q = (s.enabled k q).qStop k q qsHALTED ((s.enabled k q).cutReason f) ((s.enabled k q).qHead k q) := by
  have hk := s.keeps_enabled k q hq
  have hif := s.hif_enabled k q
  have hrun : (s.enabled k q).issues f = false := (hk.issues hif f (s.qVia_function k q f p hv)).trans hi
  rw [State.qEnable_eq, State.qPresent, hk.qVia hif, hv]
  dsimp only
  rw [hrun, if_neg (by decide)]
  exact if_pos (s.qState_enabled k q hq)

/-- Any other queue runs: its words are those that ENABLE has written. -/
theorem State.regs_qEnable (hv : ∀ f p, s.qVia k q = some (f, p) → s.issues f = true) : (s.qEnable k q).regs = (s.enabled k q).regs := by
  have hk := s.keeps_enabled k q hq
  have hif := s.hif_enabled k q
  rw [State.qEnable_eq, State.qPresent, hk.qVia hif]
  split
  · rename_i f p hvia
    rw [if_pos ((hk.issues hif f (s.qVia_function k q f p hvia)).trans (hv f p hvia))]
    exact State.regs_headRecord _ k q
  · rfl

/-- Whatever becomes of its first head record, a queue that has been enabled has indices 0. -/
theorem State.qEnable_index (f : Fld) (ho : 0x28 ≤ f.off) (hf : f.off + 4 * f.words ≤ 0x2C) :
    (s.qEnable k q).get (qAdr k q) f = (s.enabled k q).get (qAdr k q) f := by
  by_cases hv : ∀ g p, s.qVia k q = some (g, p) → s.issues g = true
  · exact State.get_of_regs _ _ (s.regs_qEnable k q hq hv) _ _
  · simp only [Classical.not_forall, Bool.not_eq_true] at hv
    obtain ⟨g, p, hvia, hi⟩ := hv
    rw [s.qEnable_cut k q hq g p hvia hi]
    exact State.get_qStop_other _ k q _ _ _ hq f hf (.inr ho)

theorem State.qEnable_runs : (s.qEnable k q).qHead k q = 0 ∧ (s.qEnable k q).qTail k q = 0 ∧
    ((∀ f pa, s.qVia k q = some (f, pa) → s.issues f = true) → (s.qEnable k q).qState k q = qsRUNNING) ∧
    (∀ f pa, s.qVia k q = some (f, pa) → s.issues f = false → (s.qEnable k q).qState k q = qsHALTED) := by
  refine ⟨(s.qEnable_index k q hq _ (by decide) (by decide)).trans (s.qHead_enabled k q hq),
    (s.qEnable_index k q hq _ (by decide) (by decide)).trans (s.qTail_enabled k q hq), fun hv => ?_, fun f pa hv hi => ?_⟩
  · exact (State.get_of_regs _ _ (s.regs_qEnable k q hq hv) _ _).trans (s.qState_enabled k q hq)
  · rw [s.qEnable_cut k q hq f pa hv hi]
    exact State.qState_qStop _ k q _ _ _ hq (by decide)

/-! ## The end of a drain (R367) -/

/-- The queue's words after a drain. -/
def State.disabledWords (s : State) (k q : Nat) (record : Bool) : State :=
  let t := (s.set (qAdr k q) QeTxq.state qsDISABLED).set (qAdr k q) QeTxq.error 0
  ((if record then t.headRecord k q else t).set (qAdr k q) QeTxq.head 0).set (qAdr k q) QeTxq.tail 0

omit hq in
theorem State.qDisabled_eq (r : Bool) : s.qDisabled k q r =
    if k = qkRX then ((((s.disabledWords k q r).modQ k q fun _ => QSt.init).rxTm q false).rxFlush q)
    else (s.disabledWords k q r).modQ k q fun _ => QSt.init := rfl

/-- A receive queue's TM queue and the count of port 24 lie apart from the queue's own block. -/
theorem State.get_qDisabled (r : Bool) (f : Fld) : (s.qDisabled k q r).get (qAdr k q) f = (s.disabledWords k q r).get (qAdr k q) f := by
  rw [State.qDisabled_eq]
  split
  · rename_i hk
    subst hk
    have hlt : q < 4096 := hq
    refine (State.get_set_apart _ _ _ _ _ _ (.inl ?_)).trans ((State.get_set_apart _ _ _ _ _ _ (.inl ?_)).trans rfl)
    · simp only [TmPort.adr, TmPort.disabledDrop, Fld.words, qAdr, QeRxq.adr, qkRX]
      omega
    · simp only [TmQueue.adr, TmQueue.enable, Fld.words, qAdr, QeRxq.adr, qkRX]
      omega
  · rfl

theorem State.qDisabled_idle (r : Bool) :
    (s.qDisabled k q r).qState k q = qsDISABLED ∧ (s.qDisabled k q r).qHead k q = 0 ∧ (s.qDisabled k q r).qTail k q = 0 := by
  have hrec : ∀ t : State, (if r = true then t.headRecord k q else t).get (qAdr k q) QeTxq.state = t.get (qAdr k q) QeTxq.state :=
    fun t => by
      split
      · exact t.get_headRecord k q _ _
      · rfl
  refine ⟨(s.get_qDisabled k q hq r _).trans ?_, (s.get_qDisabled k q hq r _).trans ?_, (s.get_qDisabled k q hq r _).trans ?_⟩
  · unfold State.disabledWords
    dsimp only
    rw [State.get_set_apart _ _ _ _ _ _ (Fld.apart_entry (by decide) _), State.get_set_apart _ _ _ _ _ _ (Fld.apart_entry (by decide) _),
      hrec, State.get_set_apart _ _ _ _ _ _ (Fld.apart_entry (by decide) _), State.get_set_same]
    rfl
  · exact (State.get_set_apart _ _ _ _ _ _ (Fld.apart_entry (by decide) _)).trans (State.get_set_same _ _ _ _)
  · exact State.get_set_same _ _ _ _

end

theorem execQueueDrainEnd_queue (k : Fin 6) (q : Fin 1048576) (r : Bool) (s : State) (hk : k.val < 5) (hq : q.val < qCount k)
    (hd : (s.qst k q).drain = some r) (hdr : s.qDrained k q r = true) :
    execQueueDrainEnd k q s = .next (s.qDisabled k q (!r)) := by
  unfold execQueueDrainEnd
  rw [if_neg (by omega), if_pos hq, hd]
  exact if_pos hdr

/-- A send ring that is DISABLED, with indices 0. -/
def Conn.ringOff (x : Conn) : Conn := { x with rstate := qsDISABLED, rerror := 0, head := 0, tail := 0, q := QSt.init }

/-- A send ring whose RESET has drained is DISABLED with indices 0 (R367, R399). -/
theorem execQueueDrainEnd_ring (q : Fin 1048576) (x : Conn) (s : State) (hx : s.conn q = some x) (hd : x.q.drain = some true)
    (hr : s.readsOf (.conn q) = 0) :
    ∃ t y, execQueueDrainEnd 5 q s = .next t ∧ t.conn q = some y ∧ y.rstate = qsDISABLED ∧ y.head = 0 ∧ y.tail = 0 := by
  have hput : ∀ (t : State) (z : Conn), (t.putConn q z).conn q = some z := fun _ _ => sfind_sins_same _ _ _
  have hend : execQueueDrainEnd 5 q s = .next (s.ringDrained q x) := by
    refine (if_pos (rfl : (5 : Fin 6).val = 5)).trans ?_
    rw [hx]
  refine ⟨_, x.ringOff, hend, ?_, rfl, rfl, rfl⟩
  unfold State.ringDrained
  rw [hd]
  dsimp only
  rw [if_pos ⟨hr, .inl rfl⟩, if_pos rfl, State.modConn, hput]
  exact hput _ _

/-! ## Commands (R364, R381) -/

/-- A slice owns the slice-control queue with its number, and no other writer owns a queue. -/
theorem ownsQueue_slice (n : Fin 256) (k q : Nat) : (k == qkSC && n.val == q) =
    (Sys2Proof.Origin.slice n == .slice (Fin.ofNat 256 q) && k == qkSC && decide (q < 256)) := by
  rw [Bool.eq_iff_iff]
  simp only [Bool.and_eq_true, beq_iff_eq, decide_eq_true_eq, Sys2Proof.Origin.slice.injEq]
  constructor
  · rintro ⟨hk, rfl⟩
    exact ⟨⟨Fin.ext (Nat.mod_eq_of_lt n.isLt).symm, hk⟩, n.isLt⟩
  · rintro ⟨⟨rfl, hk⟩, hq⟩
    exact ⟨hk, Nat.mod_eq_of_lt hq⟩

section
variable (o : Sys2Proof.Origin) (k q : Nat) (s : State)
  (h : s.Open o (qUnit k) (qOff k q + 0x20) true (o == .slice (Fin.ofNat 256 q) && k == qkSC && decide (q < 256)))
include h

/-- What a queue command does once its write has reached the register. -/
theorem State.qCommand_open (en dis rst : Bool) : s.qCommand o k q en dis rst =
    if !s.qCommandOk k q en dis rst then (s.awake o (qUnit k)).refuse (qUnit k) (qOff k q + 0x20)
    else if en then ((s.awake o (qUnit k)).qEnable k q).done
    else if dis then ((s.awake o (qUnit k)).qDrain k q false).done
    else if rst then ((s.awake o (qUnit k)).qDrain k q true).done
    else (s.awake o (qUnit k)).done := by
  unfold State.qCommand
  cases o with
  | slice n =>
    dsimp only
    rw [ownsQueue_slice n k q]
    exact s.gate_open _ _ _ _ _ _ h
  | _ => exact s.gate_open _ _ _ _ _ _ h

/-- A command that the queue's state or context does not allow is refused with VALUE_REFUSED. -/
theorem State.qCommand_refused (en dis rst : Bool) (hr : s.qCommandOk k q en dis rst = false) :
    (s.qCommand o k q en dis rst).out = .next ((s.awake o (qUnit k)).raise (qUnit k) 2 (qOff k q + 0x20)) := by
  rw [s.qCommand_open o k q h, hr]
  rfl

theorem State.qCommand_enable (hst : s.qState k q = qsDISABLED) (hc : s.qContextOk k q = true) :
    (s.qCommand o k q true false false).out = .next ((s.awake o (qUnit k)).qEnable k q) := by
  have hok : s.qCommandOk k q true false false = true := by simp [State.qCommandOk, hst, hc]
  rw [s.qCommand_open o k q h, hok]
  rfl

theorem State.qCommand_disable (hst : s.qState k q = qsRUNNING) (hd : (s.qst k q).drain = none) :
    (s.qCommand o k q false true false).out = .next ((s.awake o (qUnit k)).qDrain k q false) := by
  have hok : s.qCommandOk k q false true false = true := by simp [State.qCommandOk, hst, hd]
  rw [s.qCommand_open o k q h, hok]
  rfl

theorem State.qCommand_reset (hst : s.qState k q = qsHALTED ∨ s.qState k q = qsERROR) (hd : (s.qst k q).drain = none) :
    (s.qCommand o k q false false true).out = .next ((s.awake o (qUnit k)).qDrain k q true) := by
  have hok : s.qCommandOk k q false false true = true := by simp [State.qCommandOk, hst, hd]
  rw [s.qCommand_open o k q h, hok]
  rfl

end

theorem execQueueEnable_known (o : Sys2Proof.Origin) (k : Fin 5) (q : Fin 4096) (s : State) (hq : q.val < qCount k) :
    execQueueEnable o k q s = (s.qCommand o k q true false false).out := if_pos hq

theorem execQueueDisable_known (o : Sys2Proof.Origin) (k : Fin 5) (q : Fin 4096) (s : State) (hq : q.val < qCount k) :
    execQueueDisable o k q s = (s.qCommand o k q false true false).out := if_pos hq

theorem execQueueReset_known (o : Sys2Proof.Origin) (k : Fin 5) (q : Fin 4096) (s : State) (hq : q.val < qCount k) :
    execQueueReset o k q s = (s.qCommand o k q false false true).out := if_pos hq

/-- Each command of a queue acts in its own state, and is refused in every other. -/
theorem execQueueCommands_open (o : Sys2Proof.Origin) (k : Fin 5) (q : Fin 4096) (s : State) (hq : q.val < qCount k)
    (h : s.Open o (qUnit k) (qOff k q + 0x20) true (o == .slice (Fin.ofNat 256 q) && k.val == qkSC && decide (q.val < 256))) :
    (s.qState k q = qsDISABLED → s.qContextOk k q = true → execQueueEnable o k q s = .next ((s.awake o (qUnit k)).qEnable k q)) ∧
    (s.qState k q = qsRUNNING → (s.qst k q).drain = none → execQueueDisable o k q s = .next ((s.awake o (qUnit k)).qDrain k q false)) ∧
    ((s.qState k q = qsHALTED ∨ s.qState k q = qsERROR) → (s.qst k q).drain = none →
      execQueueReset o k q s = .next ((s.awake o (qUnit k)).qDrain k q true)) ∧
    ((s.qState k q ≠ qsDISABLED ∨ s.qContextOk k q = false) →
      execQueueEnable o k q s = .next ((s.awake o (qUnit k)).raise (qUnit k) 2 (qOff k q + 0x20))) ∧
    ((s.qState k q ≠ qsRUNNING ∨ (s.qst k q).drain ≠ none) →
      execQueueDisable o k q s = .next ((s.awake o (qUnit k)).raise (qUnit k) 2 (qOff k q + 0x20))) ∧
    ((s.qState k q = qsDISABLED ∨ s.qState k q = qsRUNNING ∨ (s.qst k q).drain ≠ none) →
      execQueueReset o k q s = .next ((s.awake o (qUnit k)).raise (qUnit k) 2 (qOff k q + 0x20))) := by
  rw [execQueueEnable_known o k q s hq, execQueueDisable_known o k q s hq, execQueueReset_known o k q s hq]
  refine ⟨s.qCommand_enable o k q h, s.qCommand_disable o k q h, s.qCommand_reset o k q h, fun hr => s.qCommand_refused o k q h _ _ _ ?_,
    fun hr => s.qCommand_refused o k q h _ _ _ ?_, fun hr => s.qCommand_refused o k q h _ _ _ ?_⟩
  · obtain hr | hr := hr <;> simp [State.qCommandOk, hr]
  · obtain hr | hr := hr
    · simp [State.qCommandOk, hr]
    · simp [State.qCommandOk, Option.isNone_eq_false_iff, Option.isSome_iff_ne_none, hr]
  · obtain hr | hr | hr := hr
    · simp [State.qCommandOk, hr, qsDISABLED, qsHALTED, qsERROR]
    · simp [State.qCommandOk, hr, qsRUNNING, qsHALTED, qsERROR]
    · simp [State.qCommandOk, Option.isNone_eq_false_iff, Option.isSome_iff_ne_none, hr]

/-- The vector of a context that passes lies in its owner's share. -/
theorem State.qContextOk_vector (s : State) (k q n : Nat) (hc : s.qContextOk k q = true) (ho : s.qOwner k q = some n) :
    s.vectorOk n (s.act (qAdr k q) QeTxq.vector) = true := by
  unfold State.qContextOk at hc
  simp only [ho, Bool.and_eq_true] at hc
  obtain ⟨⟨⟨-, hv⟩, -⟩, -⟩ := hc
  exact hv

/-! ## Doorbells (R360, R361) -/

theorem bit_eq_getLsbD (v : Word) (i : Nat) : bit v.toNat i = v.getLsbD i := bit_eq_testBit _ _

/-- A write of QE_DOORBELL that names a queue rings it. -/
theorem execQueueDoorbell_unit (o : Sys2Proof.Origin) (v : Word) (s : State) (hslice : ∀ k, o ≠ .slice k)
    (h : s.Open o 15 0x1004 true false) (hk : bits v.toNat 30 28 < 4) (hi : bits v.toNat 27 16 < qCount (bits v.toNat 30 28)) :
    execQueueDoorbell o v s =
      .next ((s.awake o 15).doorbell (bits v.toNat 30 28) (bits v.toNat 27 16) (v.toNat % 65536) (v.getLsbD 31)) := by
  have hring : s.queueDoorbell o v =
      ((s.awake o 15).doorbell (bits v.toNat 30 28) (bits v.toNat 27 16) (v.toNat % 65536) (bit v.toNat 31)).done := by
    unfold State.queueDoorbell
    cases o with
    | slice k => exact absurd rfl (hslice k)
    | _ => exact (s.gate_open _ _ _ _ _ _ h).trans (if_pos ⟨hk, hi⟩)
  unfold execQueueDoorbell
  rw [hring, bit_eq_getLsbD]
  rfl

section
variable (k : Fin 256) (v : Word) (s : State)

theorem execQueueDoorbell_slice (q : Nat) (hb : s.bound k = true) (hh : s.halted = false)
    (hq : s.doorQueue k (bits v.toNat 30 28) (bits v.toNat 27 16) = some q) :
    execQueueDoorbell (.slice k) v s = .next (s.doorbell (bits v.toNat 30 28) q (v.toNat % 65536) (v.getLsbD 31)) := by
  unfold execQueueDoorbell State.queueDoorbell
  rw [← bit_eq_getLsbD]
  dsimp only
  rw [hb, hh, hq]
  rfl

/-- A doorbell of a slice that is not bound, in a halt, or of a queue that is not the slice's is discarded (R92, R329). -/
theorem execQueueDoorbell_discarded
    (h : s.bound k = false ∨ s.halted = true ∨ s.doorQueue k (bits v.toNat 30 28) (bits v.toNat 27 16) = none) :
    execQueueDoorbell (.slice k) v s = .next s := by
  unfold execQueueDoorbell State.queueDoorbell
  dsimp only
  obtain h | h | h := h
  · rw [h]
    rfl
  · rw [h, Bool.not_true, Bool.and_false]
    rfl
  · rw [h]
    split <;> rfl

end

/-- The queue that a slice's doorbell names lies in the slice's share, and in its function's duty. -/
theorem State.doorQueue_owned (k kind i q : Nat) (s : State) (h : s.doorQueue k kind i = some q) :
    (kind = qkTX ∧ s.slicePf k = 1 ∧ (s.share .txq k).1 ≤ q ∧ q < (s.share .txq k).1 + (s.share .txq k).2) ∨
    (kind = qkRX ∧ s.slicePf k = 1 ∧ (s.share .rxq k).1 ≤ q ∧ q < (s.share .rxq k).1 + (s.share .rxq k).2) ∨
    (kind = qkEV ∧ (s.share .evq k).1 ≤ q ∧ q < (s.share .evq k).1 + (s.share .evq k).2) ∨ (kind = qkSC ∧ i = 0 ∧ q = k) := by
  have hshare : ∀ sh : Nat × Nat, (if i < sh.2 then some (sh.1 + i) else none) = some q → sh.1 ≤ q ∧ q < sh.1 + sh.2 := by
    intro sh hs
    simp only [Option.ite_none_right_eq_some, Option.some.injEq] at hs
    omega
  unfold State.doorQueue at h
  dsimp only at h
  split at h
  · obtain ⟨hpf, hi⟩ := Option.ite_none_right_eq_some.1 h
    exact .inl ⟨rfl, hpf, hshare _ hi⟩
  · obtain ⟨hpf, hi⟩ := Option.ite_none_right_eq_some.1 h
    exact .inr (.inl ⟨rfl, hpf, hshare _ hi⟩)
  · exact .inr (.inr (.inl ⟨rfl, hshare _ h⟩))
  · obtain ⟨hi, hk⟩ := Option.ite_none_right_eq_some.1 h
    exact .inr (.inr (.inr ⟨rfl, hi, (Option.some.inj hk).symm⟩))
  · exact absurd h (by simp)

section
variable (k q t : Nat) (s : State)

theorem State.doorbell_disabled (ack : Bool) (h : s.qState k q = qsDISABLED) : s.doorbell k q t ack = s := if_pos h

/-- A doorbell without OVF_ACK, at a queue that is not DISABLED. -/
theorem State.doorbell_eq (h : s.qState k q ≠ qsDISABLED) : s.doorbell k q t false =
    if (s.startClocks [ckSYS, ckIGE]).tailOk k q t then ((s.startClocks [ckSYS, ckIGE]).set (qAdr k q) QeTxq.tail t).qFetch k q
    else if s.qState k q = qsRUNNING then (s.startClocks [ckSYS, ckIGE]).qError k q qrBAD_TAIL t
    else s.startClocks [ckSYS, ckIGE] := by
  unfold State.doorbell
  simp only [if_neg h, Bool.false_eq_true, and_false, if_false]

theorem State.doorbell_stores (h : s.qState k q ≠ qsDISABLED) (ht : (s.startClocks [ckSYS, ckIGE]).tailOk k q t = true) :
    s.doorbell k q t false = ((s.startClocks [ckSYS, ckIGE]).set (qAdr k q) QeTxq.tail t).qFetch k q := by
  rw [s.doorbell_eq k q t h, if_pos ht]

/-- A bad TAIL stops a queue that runs. -/
theorem State.doorbell_stops (h : s.qState k q = qsRUNNING) (ht : (s.startClocks [ckSYS, ckIGE]).tailOk k q t = false) :
    s.doorbell k q t false = (s.startClocks [ckSYS, ckIGE]).qStop k q qsERROR qrBAD_TAIL t := by
  rw [s.doorbell_eq k q t (by rw [h]; decide), ht, if_neg (by decide), if_pos h]
  exact if_pos h

theorem State.doorbell_stopped (h : s.qState k q = qsHALTED ∨ s.qState k q = qsERROR)
    (ht : (s.startClocks [ckSYS, ckIGE]).tailOk k q t = false) : s.doorbell k q t false = s.startClocks [ckSYS, ckIGE] := by
  obtain ⟨hon, hrun⟩ : s.qState k q ≠ qsDISABLED ∧ s.qState k q ≠ qsRUNNING := by
    obtain h | h := h <;> rw [h] <;> decide
  rw [s.doorbell_eq k q t hon, ht, if_neg (by decide), if_neg hrun]

/-- A TAIL that is accepted is an index of the ring, does not go back, and leaves no more than N entries (R361). -/
theorem State.tailOk_bounds (hk : k ≠ qkEV) (h : s.tailOk k q t = true) :
    t < s.qM k q ∧ qDist (s.qM k q) (s.qHead k q) (s.qTail k q) ≤ qDist (s.qM k q) (s.qHead k q) t ∧
      qDist (s.qM k q) (s.qHead k q) t ≤ s.qN k q := by
  simpa [State.tailOk, hk] using h

end

/-- Settles O43: doorbells, the four commands with the words that each leaves, and stops. -/
theorem queuesAreRungEnabledAndDrained : Obligations.QueuesAreRungEnabledAndDrained :=
  ⟨execQueueDoorbell_unit, fun k v q s => execQueueDoorbell_slice k v s q, execQueueDoorbell_discarded, State.doorQueue_owned,
    fun k q t ack s => s.doorbell_disabled k q t ack, State.doorbell_stores, State.doorbell_stops, State.doorbell_stopped,
    State.tailOk_bounds, fun o k q s hq h => execQueueCommands_open o k q s hq h,
    fun k q s hq => s.qEnable_runs k q hq, fun k q n s => s.qContextOk_vector k q n,
    fun k q s _ h => s.qResetHalt_stops k q h, fun k q s h => s.qResetHalt_idle k q h, fun k q r s => s.qDrain_notes k q r,
    execQueueDrainEnd_queue, fun k q r s hq => s.qDisabled_idle k q hq r, execQueueDrainEnd_ring,
    fun k q st reason idx s _ hq hst hr hi => ⟨s.qState_qStop k q st reason idx hq (by omega), s.error_qStop k q st reason idx hq (by omega),
      s.errorIndex_qStop k q st reason idx hq hi, s.get_qStop_other k q st reason idx hq _ (by decide) (.inr (by decide))⟩,
    fun q st reason idx s => s.qStop_event q st reason idx⟩

end Sys2Proof.Machine
end

section
/-!
The motion profile interpolator: one rounding and one step of a ramp, the value of a master, the setpoint of an axis without a cam,
and what the profile part of a pass leaves of an axis.
-/

namespace Sys2Proof.Machine

/-! ## One rounding (R188) -/

/-- A quotient keeps its rounding when both sides are scaled. -/
theorem rndDiv_mul_mul (k : Nat) (a : Int) (b : Nat) (hk : 0 < k) : rndDiv (k * a) (k * b) = rndDiv a b := by
  have hk' : (0 : Int) < k := Int.natCast_pos.2 hk
  have hneg : (k : Int) * a < 0 ↔ a < 0 :=
    ⟨fun h => Int.not_le.1 fun ha => Int.not_le.2 h (Int.mul_nonneg (Int.le_of_lt hk') ha), Int.mul_neg_of_pos_of_neg hk'⟩
  have hnum : ∀ z : Int, 2 * ((k : Int) * z) + (k * b : Nat) = k * (2 * z + b) := fun z => by
    rw [Int.natCast_mul, Int.mul_add, Int.mul_left_comm]
  have hscale : ∀ z : Int, (2 * (k * z) + (k * b : Nat)) / (2 * (k * b) : Nat) = (2 * z + b) / (2 * b : Nat) := fun z => by
    rw [hnum, Nat.mul_left_comm, Int.natCast_mul, Int.mul_ediv_mul_of_pos _ _ hk']
  unfold rndDiv
  simp only [hneg]
  rw [← Int.mul_neg, hscale, hscale]

theorem rndDiv_one (a : Int) : rndDiv a 1 = a := by
  unfold rndDiv
  split <;> omega

/-- A quotient that comes out whole is not rounded. -/
theorem rndDiv_mul_self (b : Nat) (a : Int) (hb : 0 < b) : rndDiv (b * a) b = a := by
  simpa [rndDiv_one] using rndDiv_mul_mul b a 1 hb

theorem rndDiv_zero (b : Nat) : rndDiv 0 b = 0 := by
  obtain rfl | hb := Nat.eq_zero_or_pos b
  · rfl
  · simpa using rndDiv_mul_self b 0 hb

theorem clampTo_zero (m : Nat) : clampTo m 0 = 0 := by
  unfold clampTo
  split
  · omega
  · split <;> omega

/-- An acceleration that is limited, or ended at the target, lies within its limit. -/
theorem natAbs_ite_clampTo_le (c : Prop) [Decidable c] (m : Nat) (z : Int) : (if c then 0 else clampTo m z).natAbs ≤ m := by
  unfold clampTo
  split
  · exact Nat.zero_le _
  · split
    · omega
    · split <;> omega

/-! ## One step of a ramp (R192) -/

theorem toNat_emod_lt (q : Int) (md : Nat) (hm : 0 < md) : (q % (md : Int)).toNat < md := by
  have hlt := Int.emod_lt_of_pos q (by exact_mod_cast hm : (0 : Int) < md)
  omega

theorem Ramp.step_p_lt (r : Ramp) (vt : Int) (acc jerk per md : Nat) (hm : 0 < md) : (r.step vt acc jerk per md).p < md :=
  toNat_emod_lt _ md hm

theorem Ramp.step_a_le (r : Ramp) (vt : Int) (acc jerk per md : Nat) : (r.step vt acc jerk per md).a.natAbs ≤ acc :=
  natAbs_ite_clampTo_le _ _ _

/-- A ramp at its target velocity without acceleration has no error to correct, so its step has no jerk: it moves by velocity times
period, and is at its target still. -/
theorem Ramp.step_at_target (r : Ramp) (acc jerk per md : Nat) (ha : r.a = 0) :
    r.step r.v acc jerk per md =
      { p := (rndDiv (10 ^ 9 * (r.p : Int) + r.v * per) (10 ^ 9) % md).toNat, v := r.v, a := 0
        wraps := r.wraps + rndDiv (10 ^ 9 * (r.p : Int) + r.v * per) (10 ^ 9) / md } := by
  have hpos : rndDiv (6 * 10 ^ 27 * (r.p : Int) + 6 * 10 ^ 18 * r.v * per) (6 * 10 ^ 27) =
      rndDiv (10 ^ 9 * (r.p : Int) + r.v * per) (10 ^ 9) :=
    calc
      _ = rndDiv ((6 * 10 ^ 18 : Nat) * (10 ^ 9 * (r.p : Int) + r.v * per)) (6 * 10 ^ 18 * 10 ^ 9) :=
        congrArg (rndDiv · _) (by rw [Int.mul_add, ← Int.mul_assoc, Int.mul_assoc (6 * 10 ^ 18)]; rfl)
      _ = _ := rndDiv_mul_mul _ _ _ (by decide)
  have hvel : rndDiv (2 * 10 ^ 18 * r.v) (2 * 10 ^ 18) = r.v := rndDiv_mul_self (2 * 10 ^ 18) r.v (by decide)
  simp only [Ramp.step, ha, Int.sub_self, Int.mul_zero, Int.zero_mul, Int.add_zero, rndDiv_zero, Int.lt_irrefl, if_false, hpos, hvel,
    clampTo_zero, Int.natAbs_zero, Nat.zero_mul, Nat.zero_le, decide_true, Bool.and_self, if_true]

theorem Ramp.step_cruises (r : Ramp) (acc jerk per md : Nat) (hm : 0 < md) (ha : r.a = 0) :
    (r.step r.v acc jerk per md).v = r.v ∧ (r.step r.v acc jerk per md).a = 0 ∧
      ((r.step r.v acc jerk per md).p : Int) = rndDiv (10 ^ 9 * (r.p : Int) + r.v * per) (10 ^ 9) % md := by
  rw [r.step_at_target acc jerk per md ha]
  exact ⟨rfl, rfl, Int.toNat_of_nonneg (Int.emod_nonneg _ (by omega))⟩

/-! ## Masters -/

theorem State.masterMod_pos (s : State) (k : Nat) : 0 < s.masterMod k := by
  unfold State.masterMod masterModOf
  dsimp only
  split <;> omega

theorem State.masterValue_lt (s : State) (k stamp : Nat) : (s.masterValue k stamp).1 < s.masterMod k :=
  toNat_emod_lt _ _ (s.masterMod_pos k)

/-- At the time of its sample a master stands at the sample's position. -/
theorem State.masterValue_at_sample (s : State) (k stamp : Nat) (h : s.get (MpiSlot.adr k) MpiSlot.time = stamp) :
    (s.masterValue k stamp).1 = s.get (MpiSlot.adr k) MpiSlot.position % s.masterMod k := by
  have hdt : toSigned 32 ((((stamp : Int) - stamp) % (2 ^ 32 : Nat)).toNat) = 0 := by
    rw [Int.sub_self]
    rfl
  simp only [State.masterValue, h, hdt, Int.mul_zero, rndDiv_zero, Int.add_zero]
  norm_cast

/-- The stop master starts from the snapshot at the boundary at which its rope enters STOP (R206). -/
theorem State.stopMaster_entered (s : State) (b r k : Nat) :
    sfind (s.stopMaster b r true k).mpi.stops (r * 16 + k) =
      some ⟨(s.realVal b k).m, (s.realVal b k).v, 0, (s.realVal b k).wraps⟩ :=
  sfind_sins_same _ _ _

theorem State.useVal_stop (s : State) (b r k : Nat) (x : Ramp) (hm : s.ropeMode r = rmSTOP)
    (hx : sfind s.mpi.stops (r * 16 + k) = some x) : s.useVal b r k = ⟨x.p, x.wraps, x.v⟩ := by
  simp only [State.useVal, if_pos hm, hx]

/-! ## The setpoint without a cam (R197) -/

theorem State.setpoint_linear (s : State) (a : Nat) (x : MVal) (hc : axF s.inForce a MpiAxis.camEn = 0) :
    (s.setpoint a x).1 = ofSigned (8 * axBytes s.inForce a) (rndDiv (toSigned 64 (ofSigned 64 (toSigned 64 (axF s.inForce a MpiAxis.offset) +
      rndDiv ((x.wraps * s.masterMod (axF s.inForce a MpiAxis.master) + x.m - toSigned 64 (axF s.inForce a MpiAxis.m0)) *
        toSigned 32 (axF s.inForce a MpiAxis.num)) (axF s.inForce a MpiAxis.den))) * toSigned 32 (axF s.inForce a MpiAxis.outMul))
        (2 ^ axF s.inForce a MpiAxis.outShift)) := by
  have hoff : (axF s.inForce a MpiAxis.camEn == 1) = false := by
    rw [hc]
    rfl
  simp only [State.setpoint, hoff, Bool.false_eq_true, if_false, Int.mul_zero, rndDiv_zero, Int.add_zero]

/-! ## What an uncorrectable bank leaves of the axes -/

section
variable {b : Nat} {f : Fld}

/-- The field lies in the words of MPI_AXIS_STATE. -/
def Fld.OfAxisState (b : Nat) (f : Fld) : Prop := 0x550000 ≤ b + f.off ∧ b + f.off + 4 * f.words ≤ 0x560000

theorem axisState_field (a : Fin 4096) (f : Fld) (h : f.off + 4 * f.words ≤ 0x10) : f.OfAxisState (MpiAxisState.adr a) := by
  unfold Fld.OfAxisState MpiAxisState.adr
  omega

variable (h : f.OfAxisState b)
include h

theorem Fld.OfAxisState.quiet : f.Quiet b := by
  obtain ⟨hlo, hhi⟩ := h
  intro j hj
  unfold QuietWord
  omega

/-- A field of the service controller lies above those of the axes. -/
theorem Fld.OfAxisState.apart_kind (k : Nat) (g : Fld) : g.Apart (SvcKind.adr k) b f := by
  obtain ⟨hlo, hhi⟩ := h
  refine .inr (.inl ?_)
  unfold SvcKind.adr
  omega

variable (s : State) (k m : Nat)

theorem State.get_raise_axis (u n d : Nat) : (s.raise u n d).get b f = s.get b f := s.get_raise u n d b f h.quiet

theorem State.get_setKind_axis (g : Fld) (v : Nat) : (s.set (SvcKind.adr k) g v).get b f = s.get b f :=
  s.get_set_apart _ _ _ _ _ (h.apart_kind k g)

theorem State.get_setUnit_axis (u st c : Nat) : (s.setUnit u st c).get b f = s.get b f := by
  obtain ⟨hlo, hhi⟩ := h
  refine s.get_setUnit u st c b f (Fld.OfAxisState.quiet ⟨hlo, hhi⟩) ?_ (.inr ?_) (.inr (.inl ?_))
  · omega
  · exact Nat.le_trans (by decide) hlo
  · omega

theorem State.get_kindState_axis (st : Nat) : (s.kindState k st m).get b f = s.get b f :=
  (State.get_setKind_axis h _ _ _ _).trans (s.get_setKind_axis h _ _ _)

theorem State.get_exhaustion_axis : (s.exhaustion k).get b f = s.get b f := by
  unfold State.exhaustion
  split
  · exact s.get_raise_axis h _ _ _
  · rfl

theorem State.get_retireIdle_axis : (s.retireIdle k m).get b f = s.get b f :=
  (State.get_raise_axis h _ _ _ _).trans <| (State.get_kindState_axis h _ _ _ _).trans <|
    (State.get_setKind_axis h _ _ _ _).trans (State.get_setKind_axis h _ _ _ _)

theorem State.get_reserveLost_axis (general : Nat) : (s.reserveLost k m general).get b f = s.get b f := by
  unfold State.reserveLost
  split
  · exact (State.get_raise_axis h _ _ _ _).trans (s.get_setUnit_axis h _ _ _)
  · exact s.get_raise_axis h _ _ _

theorem State.get_copyBegins_axis (r : Nat) (retire : Bool) : (s.copyBegins k m r retire).get b f = s.get b f :=
  State.get_kindState_axis h _ _ _ _

/-- A retirement writes the words of the service controller, and may move a unit and raise events: no axis sees it. -/
theorem State.get_retireBank_axis (general : Nat) : (s.retireBank k m general).get b f = s.get b f := by
  unfold State.retireBank
  dsimp only
  split
  · rfl
  · split
    · split
      · rfl
      · split
        · split
          · exact (State.get_reserveLost_axis h _ _ _ _).trans (s.get_retireIdle_axis h _ _)
          · exact (State.get_exhaustion_axis h _ _).trans (s.get_retireIdle_axis h _ _)
        · split
          · exact s.get_reserveLost_axis h _ _ _
          · exact s.get_copyBegins_axis h _ _ _ _
    · split
      · exact (State.get_exhaustion_axis h _ _).trans (s.get_retireIdle_axis h _ _)
      · split
        · exact s.get_copyBegins_axis h _ _ _ _
        · exact s.get_reserveLost_axis h _ _ _

theorem State.get_uncorrectable_axis : (s.uncorrectable k m).get b f = s.get b f := s.get_retireBank_axis h _ _ _

end

/-! ## The words of an axis -/

section
variable (s : State) (a : Nat)

theorem State.axisState_setAxis (st cause : Nat) (h : st < 16) : (s.setAxis a st cause).axisState a = st := by
  unfold State.setAxis State.axisState
  rw [State.get_set_apart _ _ _ _ _ _ (Fld.apart_entry (by decide) _), State.get_set_same]
  exact Nat.mod_eq_of_lt h

theorem State.cause_setAxis (st cause : Nat) (h : cause < 16) :
    (s.setAxis a st cause).get (MpiAxisState.adr a) MpiAxisState.cause = cause :=
  (State.get_set_same _ _ _ _).trans (Nat.mod_eq_of_lt h)

theorem State.lastOut_lt : s.get (MpiAxisState.adr a) MpiAxisState.lastOut < 2 ^ 64 := Nat.mod_lt _ (Nat.two_pow_pos 64)

theorem State.lastOut_writeAxis (out : Nat) (vff : Int) :
    (s.writeAxis a out vff).get (MpiAxisState.adr a) MpiAxisState.lastOut = out % 2 ^ 64 := State.get_set_same _ _ _ _

/-- Writing the outputs of an axis leaves its other fields. -/
theorem State.get_writeAxis (out : Nat) (vff : Int) (f : Fld) (h : MpiAxisState.lastOut.Apart 0 0 f) :
    (s.writeAxis a out vff).get (MpiAxisState.adr a) f = s.get (MpiAxisState.adr a) f := by
  refine (State.get_set_apart _ _ _ _ _ _ (Fld.apart_entry h _)).trans (State.get_of_regs _ _ ?_ _ _)
  split
  · rfl
  · rfl

theorem State.axisState_writeAxis (out : Nat) (vff : Int) : (s.writeAxis a out vff).axisState a = s.axisState a :=
  s.get_writeAxis a out vff _ (by decide)

end

/-! ## The profile part of the pass (R205, R207) -/

/-- Where no pool point is lost, none of those read is. -/
theorem find?_contains_nil (l : List Nat) : l.find? ([] : List Nat).contains = none := List.find?_eq_none.2 (by simp)

section
variable (s : State) (a mode : Nat) (x real : MVal) (rest resync : Bool) (bad : List Nat)

/-- A HELD axis repeats its output: with CAM_ERROR when a point of its table is lost, and with the gap of the real master noted when
none is. -/
theorem State.axisCompute_held (h : s.axisState a = axHELD) :
    (∃ p, s.axisCompute a mode x real rest resync bad =
      (s.camBad a p).writeAxis a (s.get (MpiAxisState.adr a) MpiAxisState.lastOut) 0) ∨
    ∃ gap, s.axisCompute a mode x real rest resync bad =
      (s.writeAxis a (s.get (MpiAxisState.adr a) MpiAxisState.lastOut) 0).modMpi fun m => { m with gaps := sput 0 m.gaps a gap } := by
  have hb : (s.axisState a == axHELD) = true := beq_iff_eq.2 h
  unfold State.axisCompute
  simp only [hb, if_true]
  split
  · exact .inl ⟨_, rfl⟩
  · exact .inr ⟨_, rfl⟩

/-- The check of the first pass after a hold: an axis that would jump is HELD with RESYNC and repeats its output (R207). -/
theorem State.axisCompute_resync (h : s.axisState a ≠ axHELD) (ho : s.axisState a ≠ axOFF)
    (hg : axF s.inForce a MpiAxis.feLimit < s.axisGap a (s.setpoint a real).1 (s.get (MpiAxisState.adr a) MpiAxisState.lastOut)) :
    ∃ gap, s.axisCompute a mode x real rest true [] =
      (((s.holdAxis a hcRESYNC).mpiEvent 12 (s.axisRope s.inForce a) (some a)).modMpi
        fun m => { m with gaps := sput 0 m.gaps a gap }).writeAxis a (s.get (MpiAxisState.adr a) MpiAxisState.lastOut) 0 := by
  have hb : (s.axisState a == axHELD) = false := beq_eq_false_iff_ne.2 h
  have hc : (s.axisState a != axOFF) = true := bne_iff_ne.2 ho
  unfold State.axisCompute
  simp only [hb, hc, find?_contains_nil, hg, Bool.and_self, decide_true, Bool.false_eq_true, if_true, if_false]
  exact ⟨_, rfl⟩

/-- With no cause the rope mode decides: HOLD repeats the output, STOP follows the stop master, the others the master. -/
theorem State.axisCompute_free (h : s.axisState a ≠ axHELD) :
    s.axisCompute a mode x real rest false [] =
      if mode = rmHOLD then (s.setAxis a axROPE_HOLD 0).writeAxis a (s.get (MpiAxisState.adr a) MpiAxisState.lastOut) 0
      else if mode = rmSTOP then
        if rest then (s.setAxis a axSTOPPED 0).writeAxis a (s.setpoint a x).1 0
        else (s.setAxis a axSTOPPING 0).writeAxis a (s.setpoint a x).1 (s.setpoint a x).2.1
      else (s.setAxis a axPROFILE 0).writeAxis a (s.setpoint a x).1 (s.setpoint a x).2.1 := by
  have hb : (s.axisState a == axHELD) = false := beq_eq_false_iff_ne.2 h
  unfold State.axisCompute
  simp only [hb, find?_contains_nil, Bool.false_and, Bool.false_eq_true, if_false]

end

/-- An axis that is HELD already takes CAM_ERROR as its cause, and the retirement of the bank does not reach it (R214). -/
theorem State.camBad_held (s : State) (a : Fin 4096) (p : Nat) (h : s.axisState a = axHELD) :
    (s.camBad a p).axisState a = axHELD := by
  unfold State.camBad
  dsimp only
  rw [if_pos h, State.axisState, State.get_uncorrectable_axis (axisState_field a _ (by decide))]
  exact State.axisState_setAxis _ _ _ _ (by decide)

theorem State.axisCompute_held_repeats (a : Fin 4096) (mode : Nat) (x real : MVal) (rest resync : Bool) (bad : List Nat) (s : State)
    (h : s.axisState a = axHELD) :
    (s.axisCompute a mode x real rest resync bad).axisState a = axHELD ∧
    (s.axisCompute a mode x real rest resync bad).get (MpiAxisState.adr a) MpiAxisState.lastOut =
      s.get (MpiAxisState.adr a) MpiAxisState.lastOut := by
  have hlast := Nat.mod_eq_of_lt (s.lastOut_lt a)
  obtain ⟨p, hp⟩ | ⟨gap, hgap⟩ := s.axisCompute_held a mode x real rest resync bad h
  · rw [hp]
    exact ⟨(State.axisState_writeAxis _ _ _ _).trans (s.camBad_held a p h), (State.lastOut_writeAxis _ _ _ _).trans hlast⟩
  · rw [hgap]
    exact ⟨(s.axisState_writeAxis _ _ _).trans h, (s.lastOut_writeAxis _ _ _).trans hlast⟩

theorem State.axisCompute_run (a : Nat) (x real : MVal) (rest : Bool) (s : State) (h : s.axisState a ≠ axHELD) :
    (s.axisCompute a rmRUN x real rest false []).axisState a = axPROFILE ∧
    (s.axisCompute a rmRUN x real rest false []).get (MpiAxisState.adr a) MpiAxisState.lastOut = (s.setpoint a x).1 % 2 ^ 64 := by
  rw [s.axisCompute_free a rmRUN x real rest h, if_neg (by decide), if_neg (by decide)]
  exact ⟨(State.axisState_writeAxis _ _ _ _).trans (s.axisState_setAxis _ _ _ (by decide)), State.lastOut_writeAxis _ _ _ _⟩

theorem State.axisCompute_jumps (a mode : Nat) (x real : MVal) (rest : Bool) (s : State) (h : s.axisState a ≠ axHELD)
    (ho : s.axisState a ≠ axOFF)
    (hg : axF s.inForce a MpiAxis.feLimit < s.axisGap a (s.setpoint a real).1 (s.get (MpiAxisState.adr a) MpiAxisState.lastOut)) :
    (s.axisCompute a mode x real rest true []).axisState a = axHELD ∧
    (s.axisCompute a mode x real rest true []).get (MpiAxisState.adr a) MpiAxisState.cause = hcRESYNC := by
  obtain ⟨gap, hgap⟩ := s.axisCompute_resync a mode x real rest h ho hg
  rw [hgap]
  exact ⟨(State.axisState_writeAxis _ _ _ _).trans (s.axisState_setAxis a axHELD hcRESYNC (by decide)),
    (State.get_writeAxis _ _ _ _ _ (by decide)).trans (s.cause_setAxis a axHELD hcRESYNC (by decide))⟩

theorem State.axisCompute_hold (a : Nat) (x real : MVal) (rest : Bool) (s : State) (h : s.axisState a ≠ axHELD) :
    (s.axisCompute a rmHOLD x real rest false []).axisState a = axROPE_HOLD := by
  rw [s.axisCompute_free a rmHOLD x real rest h, if_pos rfl, State.axisState_writeAxis]
  exact s.axisState_setAxis _ _ _ (by decide)

theorem State.axisCompute_stop (a : Nat) (x real : MVal) (rest : Bool) (s : State) (h : s.axisState a ≠ axHELD) :
    (s.axisCompute a rmSTOP x real rest false []).axisState a = if rest then axSTOPPED else axSTOPPING := by
  rw [s.axisCompute_free a rmSTOP x real rest h, if_neg (by decide), if_pos rfl]
  split
  · exact (State.axisState_writeAxis _ _ _ _).trans (s.axisState_setAxis _ _ _ (by decide))
  · exact (State.axisState_writeAxis _ _ _ _).trans (s.axisState_setAxis _ _ _ (by decide))

/-! ## Boundaries, group stops and holds (R203, R210, R212) -/

theorem execRopeBoundary_pass (b : Nat) (bad rs live entered : List Nat) (s u : State) (h1 : s.lineNs ≤ b) (h2 : b ≤ s.lineNs + 40)
    (hr : s.cxeRuns = true) (hrs : rs = s.ropesAt b) (hu : u = (rs.foldl (fun (s : State) r => s.ropeAt b r) s).announce)
    (hl : live = rs.filter (fun r => (s.ropeMode r != rmOFF || u.ropeMode r != rmOFF) && !(u.rope r).held))
    (he : entered = rs.filter (fun r => u.ropeMode r == rmSTOP && s.ropeMode r != rmSTOP)) :
    exec (.ropeBoundary b bad) s = .next (if live.isEmpty then u else u.mpiPass b live entered bad) := by
  have hruns : s.ready 4 ∨ s.ustate 4 = stHELD := by simpa [State.cxeRuns] using hr
  subst hl he hu hrs
  exact if_pos ⟨h1, h2, hruns⟩

theorem State.groupStop_cases (s : State) (r : Nat) : (s.ropeMode r = rmOFF → s.groupStop r = s) ∧
    (s.ropeMode r ≠ rmOFF → s.groupStop r = (s.modRope r fun x => { x with groupStop := true }).mpiEvent 6 r none) :=
  ⟨fun h => if_pos h, fun h => if_neg h⟩

theorem State.mpiResume_cases (s : State) :
    (s.mpi.inHold = true →
      s.mpiResume = s.modMpi fun m => { m with inHold := false, resync := (List.range 16).filter fun r => s.ropeMode r != rmOFF }) ∧
    (s.mpi.inHold = false → s.mpiResume = s) :=
  ⟨fun h => if_pos h, fun h => if_neg (by simp [h])⟩

/-- Settles O26: the pass of a boundary, the masters and their ramps, the setpoint without a cam, and the axis by its state and mode. -/
theorem mastersGeneratorsAndAxes : Obligations.MastersGeneratorsAndAxes :=
  ⟨execRopeBoundary_pass, fun b r k s => s.stopMaster_entered b r k, fun b r k x s => s.useVal_stop b r k x,
    fun k stamp s => ⟨s.masterValue_lt k stamp, s.masterMod_pos k⟩, fun k stamp s h _ => s.masterValue_at_sample k stamp h,
    Ramp.step_p_lt, Ramp.step_a_le, fun r acc jerk per md _ hm ha => r.step_cruises acc jerk per md hm ha,
    fun a x s hc _ => s.setpoint_linear a x hc, State.axisCompute_held_repeats, fun a x real rest s => s.axisCompute_run a x real rest,
    fun a mode x real rest s h => ⟨fun ho hg => s.axisCompute_jumps a mode x real rest h ho hg, s.axisCompute_hold a x real rest h,
      s.axisCompute_stop a x real true h, s.axisCompute_stop a x real false h⟩,
    fun r s => s.groupStop_cases r, State.mpiResume_cases, fun _ _ _ _ _ h => if_pos h⟩

end Sys2Proof.Machine
end

section
/-!
The slice-control commands: when an entry runs, what its argument's read and its end leave alone, and what each command does.
-/

namespace Sys2Proof.Machine

/-! ## The argument of an entry (R375) -/

/-- The entries with an argument buffer, by the function whose duty they are. -/
theorem scArg_isSome (pf : Nat) (e : List Byte) : (scArg pf e).isSome = true ↔
    pf = 0 ∧ (0x10 ≤ leAt e 0 1 ∧ leAt e 0 1 ≤ 0x13 ∨ leAt e 0 1 = 0x18) ∨
    pf = 1 ∧ (leAt e 0 1 = 0x20 ∧ 0 < leAt e 10 2 % 4096 ∨ leAt e 0 1 = 0x21) ∨
    pf = 3 ∧ (leAt e 0 1 = 0x40 ∨ leAt e 0 1 = 0x60) := by
  have hn : ∀ a n : Nat, (if n = 0 then none else some (a, n)).isSome = true ↔ n ≠ 0 := fun a n => by split <;> simp [*]
  refine (hn _ _).trans ?_
  generalize leAt e 0 1 = op
  (repeat' split) <;> omega

theorem State.linkOnly_dmaRead (s : State) (f : Nat) (pasid : Option Nat) (addr n : Nat) (r : Reader) :
    s.LinkOnly (s.dmaRead f pasid addr n r) := by
  unfold State.dmaRead
  split
  · exact .refl s
  · exact (s.linkOnly_startClocks _).trans (State.linkOnly_putRead _ _ _ _ _ _)

theorem State.linkOnly_argIn (s : State) (k : Nat) : s.LinkOnly (s.argIn k) := s.linkOnly_readEnds _ _

@[simp] theorem State.slicePf_argIn (s : State) (k j : Nat) : (s.argIn k).slicePf j = s.slicePf j := (s.linkOnly_argIn k).act _ _

theorem State.ArgIn.slicePf {s u : State} {k : Nat} (h : s.ArgIn k u) (j : Nat) : u.slicePf j = s.slicePf j := by
  rw [h.2.1, State.slicePf_argIn]

/-! ## When an entry runs -/

theorem State.scEntry_eq_some (s : State) (k op : Nat) (e : List Byte) (h : s.scEntry k op = some e) :
    leAt e 0 1 = op ∧ s.qState qkSC k = qsRUNNING ∧ s.ready 15 = true ∧ s.qFrozen qkSC k = false ∧
      ∃ i rest, (s.qst qkSC k).fetched = (i, e) :: rest := by
  unfold State.scEntry at h
  split at h
  · rename_i i x rest hf
    obtain ⟨⟨hop, hst, hr, hz⟩, he⟩ := Option.ite_none_right_eq_some.1 h
    obtain rfl := Option.some.inj he
    exact ⟨hop, hst, hr, by simpa using hz, i, rest, hf⟩
  · exact absurd h (by simp)

theorem State.qPresent_of_presents {s : State} {k q : Nat} (h : s.Presents k q) (go : State → State) : s.qPresent k q go = go s := by
  obtain ⟨f, pa, hv, hi⟩ := h
  rw [State.qPresent, hv]
  exact if_pos hi

theorem State.qPresent_cut {s : State} {k q f : Nat} {pa : Option Nat} (hv : s.qVia k q = some (f, pa)) (hi : s.issues f = false)
    (go : State → State) : s.qPresent k q go = s.qHalt k q (s.cutReason f) := by
  rw [State.qPresent, hv]
  exact if_neg (by simp [hi])

section
variable {s u : State} {k op : Nat} {e : List Byte} (f : State → List Byte → State) (g : State → List Byte → State × Nat)

theorem State.scRun_noEntry (h : s.scEntry k op = none) :
    s.scRun k op f = if (0x10 ≤ op ∧ op ≤ 0x13) ∨ [0x18, 0x20, 0x21, 0x40, 0x60].contains op then s.argStray k else s := by
  rw [State.scRun, h]

theorem State.scRun_direct (h : s.scEntry k op = some e) (ha : ¬ (scArg (s.slicePf k) e).isSome = true) : s.scRun k op f = f s e := by
  rw [State.scRun, h]
  exact if_pos (by simpa using ha)

/-- An entry with an argument buffer waits for its argument, and runs in the state with the read over (R375). -/
theorem State.scRun_buffered (h : s.scEntry k op = some e) (ha : (scArg (s.slicePf k) e).isSome = true) :
    s.scRun k op f = if s.reading (s.slicePf k) (.arg k) then (s.argIn k).qPresent qkSC k fun s => f s e else s := by
  rw [State.scRun, h]
  exact if_neg (by rw [Option.isSome_iff_ne_none] at ha; simp [ha])

theorem State.sc_direct (h : s.scEntry k op = some e) (ha : ¬ (scArg (s.slicePf k) e).isSome = true) :
    s.sc k op g = (g s e).1.scEnd k e (g s e).2 := State.scRun_direct _ h ha

theorem State.sc_argIn (h : s.scEntry k op = some e) (ha : (scArg (s.slicePf k) e).isSome = true) (hu : s.ArgIn k u) :
    s.sc k op g = (g u e).1.scEnd k e (g u e).2 := by
  obtain ⟨hr, rfl, hp⟩ := hu
  refine (State.scRun_buffered _ h ha).trans ((if_pos hr).trans ?_)
  exact State.qPresent_of_presents hp _

theorem State.sc_waits (h : s.scEntry k op = some e) (ha : (scArg (s.slicePf k) e).isSome = true)
    (hr : s.reading (s.slicePf k) (.arg k) = false) : s.sc k op g = s :=
  (State.scRun_buffered _ h ha).trans (if_neg (by simp [hr]))

theorem State.sc_cut {fn : Nat} {pa : Option Nat} (h : s.scEntry k op = some e) (ha : (scArg (s.slicePf k) e).isSome = true)
    (hr : s.reading (s.slicePf k) (.arg k) = true) (hv : (s.argIn k).qVia qkSC k = some (fn, pa)) (hi : (s.argIn k).issues fn = false) :
    s.sc k op g = (s.argIn k).qHalt qkSC k ((s.argIn k).cutReason fn) :=
  ((State.scRun_buffered _ h ha).trans (if_pos hr)).trans (State.qPresent_cut hv hi _)

theorem State.duty_own {pf : Nat} (h : s.slicePf k = pf) (r : State × Nat) : s.duty k pf r = r := if_pos h

theorem State.duty_other {pf : Nat} (h : s.slicePf k ≠ pf) (r : State × Nat) : s.duty k pf r = (s, scOUT_OF_SHARE) := if_neg h

end

/-! ## How an entry ends (R329) -/

section
variable (s : State) (k q : Nat) (hq : q < qCount k)
include hq

/-- A halt leaves HEAD (R365). -/
theorem State.qHead_qHalt (reason : Nat) : (s.qHalt k q reason).qHead k q = s.qHead k q := by
  unfold State.qHalt
  split
  · exact s.get_qStop_other k q _ _ _ hq _ (by decide) (.inr (by decide))
  · rfl

/-- Whether a request is presented or the queue halts, HEAD stays when the request leaves it. -/
theorem State.qHead_qPresent (go : State → State) (hgo : (go s).qHead k q = s.qHead k q) : (s.qPresent k q go).qHead k q = s.qHead k q := by
  unfold State.qPresent
  split
  · split
    · exact hgo
    · exact s.qHead_qHalt k q hq _
  · rfl

omit hq in
theorem State.regs_qAsk : (s.qAsk k q).regs = s.regs := by
  unfold State.qAsk
  dsimp only
  split
  · rfl
  · split
    · exact (s.linkOnly_dmaRead _ _ _ _ _).regs
    · rfl

theorem State.qHead_qFetchRing : (s.qFetchRing k q).qHead k q = s.qHead k q := by
  unfold State.qFetchRing
  split
  · exact s.qHead_qPresent k q hq _ (State.get_of_regs _ _ (by simp only [State.regs_qAsk]) _ _)
  · rfl

omit hq in
theorem State.qHead_scAsk (j : Nat) (hj : j < 256) : (s.scAsk j).qHead qkSC j = s.qHead qkSC j := by
  unfold State.scAsk
  split
  · split
    · split
      · exact s.qHead_qPresent qkSC j hj _ ((s.linkOnly_dmaRead _ _ _ _ _).get _ _)
      · rfl
    · rfl
  · rfl

theorem State.qHead_qFetch : (s.qFetch k q).qHead k q = s.qHead k q := by
  unfold State.qFetch
  dsimp only
  split
  · rename_i hk
    subst hk
    exact (State.qHead_scAsk _ q hq).trans (s.qHead_qFetchRing qkSC q hq)
  · exact s.qHead_qFetchRing k q hq

theorem State.qHead_qDue (force : Bool) : (s.qDue k q force).qHead k q = s.qHead k q := by
  unfold State.qDue
  split
  · exact s.qHead_qPresent k q hq _ (s.get_headRecord k q _ _)
  · rfl

/-- Entries that are done move HEAD on (R359). -/
theorem State.qHead_qDone (n : Nat) (report : Bool) (hm : s.qM k q ≤ 65536) :
    (s.qDone k q n report).qHead k q = (s.qHead k q + n) % s.qM k q := by
  refine (State.qHead_qFetch _ k q hq).trans ((State.qHead_qDue _ k q hq _).trans ((State.get_set_same _ _ _ _).trans ?_))
  have hpos : 0 < s.qM k q := Nat.mul_pos (by decide) (Nat.pow_pos (by decide))
  exact Nat.mod_eq_of_lt (Nat.lt_of_lt_of_le (Nat.mod_lt _ hpos) hm)

end

theorem State.qHead_scEnd (s : State) (k : Nat) (hk : k < 256) (e : List Byte) (st : Nat) (hm : s.qM qkSC k ≤ 65536)
    (hp : s.Presents qkSC k) : (s.scEnd k e st).qHead qkSC k = (s.qHead qkSC k + 1) % s.qM qkSC k := by
  refine (congrArg (State.qHead · qkSC k) (State.qPresent_of_presents hp _)).trans ?_
  have hw := s.linkOnly_qWrite qkSC k (s.qSlot qkSC k (s.qHead qkSC k)) (e.take 1 ++ leBytes 1 st ++ slice e 2 2 ++ [0, 0, 0, 0])
  have hM : ∀ t : State, s.LinkOnly t → t.qM qkSC k = s.qM qkSC k := fun t h => congrArg (2 * 2 ^ ·) (h.act _ _)
  refine (State.qHead_qDone _ qkSC k hk 1 false (Nat.le_trans (Nat.le_of_eq (hM _ hw)) hm)).trans ?_
  rw [hM _ hw]
  exact congrArg (fun h => (h + 1) % _) (hw.get _ _)

/-- The queue of a slice-control entry runs under its slice's binding. -/
theorem State.qVia_sc (s : State) (k : Nat) (hk : k < s.slices) (hb : s.bound k = true) :
    s.qVia qkSC k = some (s.slicePf k, some (s.slicePasid k)) := by
  have ho : s.qOwner qkSC k = some k := if_pos hk
  rw [State.qVia, ho]
  exact if_pos hb

theorem State.scEnd_cut (s : State) (k : Nat) (e : List Byte) (st : Nat) (hk : k < s.slices) (hb : s.bound k = true)
    (hi : s.issues (s.slicePf k) = false) : s.scEnd k e st = s.qHalt qkSC k (s.cutReason (s.slicePf k)) := by
  unfold State.scEnd
  exact State.qPresent_cut (s.qVia_sc k hk hb) hi _

/-- An argument that no entry awaits ends its read, or is unexpected (R337, R348). -/
theorem State.argStray_cases (s : State) (k : Nat) :
    (s.reading (s.slicePf k) (.arg k) = false → s.bound k = false → s.argStray k = s) ∧
    (s.reading (s.slicePf k) (.arg k) = true → s.qState qkSC k ≠ qsRUNNING → s.argStray k = s.argIn k) := by
  unfold State.argStray
  exact ⟨fun hr hb => by simp [hr, hb], fun hr hs => by simp [hr, hs]⟩

/-! ## Queues (R375, R376) -/

section
variable {k : Nat} {s : State} {e : List Byte} {kind q : Nat} (hq : s.scQueue k e = (kind, some q))
include hq

theorem State.queueSetup_writes (hst : s.qState kind q = qsDISABLED)
    (hc : (s.putContext (qAdr kind q) (slice e 16 32)).qContextOk kind q = true)
    (hn : (s.putContext (qAdr kind q) (slice e 16 32)).act (qAdr kind q) QeTxq.count ≠ 0) :
    s.queueSetup k e = (s.putContext (qAdr kind q) (slice e 16 32), scOK) := by
  simp [State.queueSetup, hq, hst, hc, hn]

theorem State.queueSetup_busy (hst : s.qState kind q ≠ qsDISABLED) : s.queueSetup k e = (s, scBAD_STATE) := by
  simp [State.queueSetup, hq, hst]

theorem State.scCommand_enable (hst : s.qState kind q = qsDISABLED) :
    s.scCommand k e true false false = if s.qContextOk kind q = true then (s.qEnable kind q, scOK) else (s, scBAD_VALUE) := by
  simp [State.scCommand, State.qCommandOk, hq, hst]

theorem State.scCommand_enable_busy (hst : s.qState kind q ≠ qsDISABLED) : s.scCommand k e true false false = (s, scBAD_STATE) := by
  simp [State.scCommand, State.qCommandOk, hq, hst]

theorem State.scCommand_disable : s.scCommand k e false true false =
    if s.qState kind q = qsRUNNING ∧ (s.qst kind q).drain = none then (s.qDrain kind q false, scOK) else (s, scBAD_STATE) := by
  simp [State.scCommand, State.qCommandOk, hq]

theorem State.scCommand_reset : s.scCommand k e false false true =
    if (s.qState kind q = qsHALTED ∨ s.qState kind q = qsERROR) ∧ (s.qst kind q).drain = none then (s.qDrain kind q true, scOK)
    else (s, scBAD_STATE) := by
  simp [State.scCommand, State.qCommandOk, hq]

end

theorem State.queueSetup_outside {k kind : Nat} {s : State} {e : List Byte} (hq : s.scQueue k e = (kind, none)) :
    s.queueSetup k e = (s, scOUT_OF_SHARE) := by
  simp [State.queueSetup, hq]

theorem State.scCommand_outside {k kind : Nat} {s : State} {e : List Byte} (hq : s.scQueue k e = (kind, none)) (en dis rst : Bool) :
    s.scCommand k e en dis rst = (s, scOUT_OF_SHARE) := by
  simp [State.scCommand, hq]

/-! ## Exact-match and TCAM commands (R274, R285) -/

theorem EmtResult.nothing_ite {c : Prop} [Decidable c] {x y : EmtResult} (hx : x.2.2.2 = none) (hy : y.2.2.2 = none) :
    (if c then x else y).2.2.2 = none := by
  split
  · exact hx
  · exact hy

section
variable (s : State) (o : Option Nat) (t : Nat) (e : List Byte) (bad : List Nat)

/-! INSERT, DELETE and MODIFY give no entry back. -/

theorem State.emtInsert_nothing : (s.emtInsert o t e bad).2.2.2 = none := by
  unfold State.emtInsert
  refine EmtResult.nothing_ite rfl (EmtResult.nothing_ite rfl ?_)
  dsimp only
  split
  · rfl
  · exact EmtResult.nothing_ite rfl rfl

theorem State.emtDelete_nothing : (s.emtDelete o t e bad).2.2.2 = none := by
  unfold State.emtDelete
  refine EmtResult.nothing_ite rfl ?_
  dsimp only
  split
  · rfl
  · exact EmtResult.nothing_ite rfl rfl

theorem State.emtModify_nothing : (s.emtModify o t e bad).2.2.2 = none := by
  unfold State.emtModify
  refine EmtResult.nothing_ite rfl (EmtResult.nothing_ite rfl ?_)
  dsimp only
  split
  · rfl
  · exact EmtResult.nothing_ite rfl rfl

end

section
variable {k : Nat} {s : State} (e : List Byte) (run : State → Nat → EmtResult)

theorem State.scEmt_silent (hpf : s.slicePf k = 0) (hd : (run s (leAt e 8 1 % 16)).2.2.2 = none) :
    s.scEmt k e run = ((run s (leAt e 8 1 % 16)).1, 0x10 + (run s (leAt e 8 1 % 16)).2.1) := by
  simp [State.scEmt, State.duty_own hpf, hd]

theorem State.scEmt_found (hpf : s.slicePf k = 0) {v : State} {st : Nat} {h : Bool} {x : List Byte}
    (hr : run s (leAt e 8 1 % 16) = (v, st, h, some x)) :
    s.scEmt k e run = (v.argWrite k (leAt e 16 8) (slice x 0 64), 0x10 + st) := by
  simp [State.scEmt, State.duty_own hpf, hr]

theorem State.scEmt_other (hpf : s.slicePf k ≠ 0) : s.scEmt k e run = (s, scOUT_OF_SHARE) := State.duty_other hpf _

end

section
variable {k : Nat} {s : State} (e : List Byte) (run : State → Nat → Nat → State)

theorem State.scTcam_inside (hpf : s.slicePf k = 0) {i : Nat}
    (hi : s.tcamIndex (some k) (leAt e 8 1 % 8) (leAt e 12 4 % 262144) = some i) :
    s.scTcam k e run = (run s (leAt e 8 1 % 8) i, 0x20 + tcOK) := by
  simp [State.scTcam, State.duty_own hpf, hi]

theorem State.scTcam_beyond (hpf : s.slicePf k = 0)
    (hi : s.tcamIndex (some k) (leAt e 8 1 % 8) (leAt e 12 4 % 262144) = none) : s.scTcam k e run = (s, 0x20 + tcBAD_INDEX) := by
  simp [State.scTcam, State.duty_own hpf, hi]

theorem State.scTcam_other (hpf : s.slicePf k ≠ 0) : s.scTcam k e run = (s, scOUT_OF_SHARE) := State.duty_other hpf _

end

/-! ## Load spreading (R246, R247) -/

/-- The values of INDIR_WRITE. -/
abbrev indirValues (e arg : List Byte) : List Nat := (List.range (leAt e 10 2 % 4096)).map fun i => leAt arg (2 * i) 2

/-- A run of entries is written whole or, when one breaks the rule, not at all. -/
theorem State.scIndir_run {k : Nat} {s : State} (e arg : List Byte) (hpf : s.slicePf k = 1) (h0 : 0 < leAt e 10 2 % 4096)
    (hn : leAt e 8 2 % 2048 + leAt e 10 2 % 4096 ≤ 2048) :
    s.scIndir k e arg = if (indirValues e arg).all (s.indirOk k) = true
      then ((List.range (leAt e 10 2 % 4096)).foldl
        (fun (s : State) i => s.putIndir k (leAt e 8 2 % 2048 + i) ((indirValues e arg).getD i 0)) s, scOK)
      else (s, scBAD_VALUE) :=
  (State.duty_own hpf _).trans (if_neg (by omega))

/-- The word at `a` is last written as `w`, which does not take effect yet. -/
def State.putPending (s : State) (a : Nat) (w : Word) : State := (s.setReg a w).setForce a (s.inForce a)

theorem State.rd_putPending (s : State) (a : Nat) (w : Word) (b : Nat) : (s.putPending a w).rd b = if b = a then w else s.rd b := by
  simp [State.putPending]

@[simp] theorem State.inForce_putPending (s : State) (a : Nat) (w : Word) (b : Nat) : (s.putPending a w).inForce b = s.inForce b := by
  unfold State.putPending
  rw [State.inForce_setForce]
  split
  · rw [‹b = a›]
  · exact s.inForce_setReg_ne a w b ‹_›

/-- Words written one after the other from distinct registers: each reads as written, and none takes effect. -/
theorem State.putPending_run (s : State) (a : Nat → Nat) (w : Nat → Word) (ha : a.Injective) (n : Nat) :
    (∀ j < n, ((List.range n).foldl (fun s j => s.putPending (a j) (w j)) s).rd (a j) = w j) ∧
    ∀ b, ((List.range n).foldl (fun s j => s.putPending (a j) (w j)) s).inForce b = s.inForce b := by
  induction n with
  | zero => exact ⟨fun j hj => absurd hj (Nat.not_lt_zero j), fun _ => rfl⟩
  | succ n ih =>
    obtain ⟨hrd, hforce⟩ := ih
    rw [List.range_succ, List.foldl_append]
    refine ⟨fun j hj => (State.rd_putPending _ _ _ _).trans ?_, fun b => (State.inForce_putPending _ _ _ _).trans (hforce b)⟩
    split
    · rw [ha ‹a j = a n›]
    · have hne : j ≠ n := fun h => ‹¬ a j = a n› (congrArg a h)
      exact hrd j (by omega)

/-- The ten words of slice `k`'s hash key as written, before they take effect. -/
def State.hashKeyWords (s : State) (k : Nat) (arg : List Byte) : State :=
  (List.range 10).foldl (fun s j => s.putPending (PpHashKey.adr 0 k j) (BitVec.ofNat 32 (leAt arg (4 * j) 4))) s

/-- The key of slice `k` waits for the boundary that takes it. -/
def State.keyWaits (s : State) (k : Nat) : State :=
  { s with pp := { s.pp with keyDue := if s.pp.keyDue.contains k then s.pp.keyDue else k :: s.pp.keyDue } }

theorem State.rd_keyWaits (s : State) (k a : Nat) : (s.keyWaits k).rd a = s.rd a := rfl

theorem State.inForce_keyWaits (s : State) (k a : Nat) : (s.keyWaits k).inForce a = s.inForce a := rfl

theorem State.mem_keyWaits (s : State) (k : Nat) : k ∈ (s.keyWaits k).pp.keyDue := by
  unfold State.keyWaits
  dsimp only
  split
  · exact List.contains_iff_mem.1 ‹_›
  · exact List.mem_cons_self

theorem State.scHashKey_own {k : Nat} {s : State} (e arg : List Byte) (hpf : s.slicePf k = 1) :
    s.scHashKey k e arg = ((s.hashKeyWords k arg).keyWaits k, scOK) := State.duty_own hpf _

/-- The words of a hash key stand as written, and none is in force yet (R247). -/
theorem State.hashKeyWords_pend (s : State) (k : Nat) (arg : List Byte) (j : Nat) (hj : j < 10) :
    (s.hashKeyWords k arg).rd (PpHashKey.adr 0 k j) = BitVec.ofNat 32 (leAt arg (4 * j) 4) ∧
      (s.hashKeyWords k arg).inForce (PpHashKey.adr 0 k j) = s.inForce (PpHashKey.adr 0 k j) := by
  have ha : (PpHashKey.adr 0 k).Injective := fun i j h => by
    simp only [PpHashKey.adr] at h
    omega
  obtain ⟨hrd, hforce⟩ := s.putPending_run (PpHashKey.adr 0 k) (fun j => BitVec.ofNat 32 (leAt arg (4 * j) 4)) ha 10
  exact ⟨hrd j hj, hforce _⟩

/-! ## The commands, entry by entry -/

theorem next_congr {s t : State} (h : s = t) : (.next s : Host.Outcome State Fault Refusal) = .next t := congrArg _ h

/-- A command of U11 or U12 runs while the unit does (R289). -/
theorem next_while {c : Bool} {s t u : State} (hc : c = true) (h : s = t) :
    (if c = true then .next s else .next u : Host.Outcome State Fault Refusal) = .next t := (if_pos hc).trans (next_congr h)

/-- An entry that ends one way or the other. -/
theorem State.scEnd_ite (k : Nat) (e : List Byte) {c : Prop} [Decidable c] (a b : State) (x y : Nat) :
    (if c then (a, x) else (b, y)).1.scEnd k e (if c then (a, x) else (b, y)).2 = if c then a.scEnd k e x else b.scEnd k e y := by
  split <;> rfl

section
variable {k : Nat} {s u : State} {e : List Byte} {op : Nat} (h : s.scEntry k op = some e)
include h

/-- The entries of queues read no argument. -/
theorem State.sc_queue (ho : op < 0x10) (g : State → List Byte → State × Nat) : s.sc k op g = (g s e).1.scEnd k e (g s e).2 := by
  have hop := (s.scEntry_eq_some k op e h).1
  exact State.sc_direct g h (by rw [scArg_isSome]; omega)

/-- An EMT command without an entry to return ends with the status of the table's operation. -/
theorem State.sc_emt_silent (h1 : 0x10 ≤ op) (h2 : op ≤ 0x13) (hpf : s.slicePf k = 0) (hu : s.ArgIn k u) (run : State → Nat → EmtResult)
    (hd : (run u (leAt e 8 1 % 16)).2.2.2 = none) : s.sc k op (fun s e => s.scEmt k e run) =
      (run u (leAt e 8 1 % 16)).1.scEnd k e (0x10 + (run u (leAt e 8 1 % 16)).2.1) := by
  have hop := (s.scEntry_eq_some k op e h).1
  rw [State.sc_argIn _ h (by rw [scArg_isSome]; omega) hu, State.scEmt_silent e run ((hu.slicePf k).trans hpf) hd]

theorem State.sc_emt_found (h1 : 0x10 ≤ op) (h2 : op ≤ 0x13) (hpf : s.slicePf k = 0) (hu : s.ArgIn k u) (run : State → Nat → EmtResult)
    {v : State} {st : Nat} {hit : Bool} {x : List Byte} (hr : run u (leAt e 8 1 % 16) = (v, st, hit, some x)) :
    s.sc k op (fun s e => s.scEmt k e run) = (v.argWrite k (leAt e 16 8) (slice x 0 64)).scEnd k e (0x10 + st) := by
  have hop := (s.scEntry_eq_some k op e h).1
  rw [State.sc_argIn _ h (by rw [scArg_isSome]; omega) hu, State.scEmt_found e run ((hu.slicePf k).trans hpf) hr]

/-- A command outside the duty of its slice's function ends OUT_OF_SHARE before its argument is read (R329). -/
theorem State.sc_outside (ho : op < 0x40) (h0 : s.slicePf k ≠ 0) (h1 : s.slicePf k ≠ 1) (g : State → List Byte → State × Nat)
    (hg : g s e = (s, scOUT_OF_SHARE)) : s.sc k op g = s.scEnd k e scOUT_OF_SHARE := by
  have hop := (s.scEntry_eq_some k op e h).1
  rw [State.sc_direct g h (by rw [scArg_isSome]; omega), hg]

end

section
variable {k : Fin 256} {s u : State} {e arg : List Byte}

/-! ### Exact-match look-ups -/

theorem State.emtLookup_found {t : Nat} {bad : List Nat} {v : State} {i : Nat} {x : List Byte}
    (hf : u.find t (slice arg 0 (keyBytes (u.tKind t))) bad = (v, some (i, x))) :
    u.emtLookup t arg bad = (v, emOK, (v.tab t).hits.contains i, some x) := by
  rw [State.emtLookup, hf]

theorem State.emtLookup_absent {t : Nat} {bad : List Nat} {v : State}
    (hf : u.find t (slice arg 0 (keyBytes (u.tKind t))) bad = (v, none)) :
    u.emtLookup t arg bad = (v, emNOT_FOUND, false, none) := by
  rw [State.emtLookup, hf]

theorem execEmtLookup_found {bad : List Nat} {v : State} {i : Nat} {x : List Byte} (hrdy : s.ready 11 = true) (hpf : s.slicePf k = 0)
    (hu : s.ArgIn k u) (h : s.scEntry k 0x13 = some e)
    (hf : u.find (leAt e 8 1 % 16) (slice arg 0 (keyBytes (u.tKind (leAt e 8 1 % 16)))) bad = (v, some (i, x))) :
    execEmtLookup k arg bad s = .next ((v.argWrite k (leAt e 16 8) (slice x 0 64)).scEnd k e (0x10 + emOK)) :=
  next_while hrdy ((State.sc_emt_found h (by decide) (by decide) hpf hu _ (State.emtLookup_found hf)))

theorem execEmtLookup_absent {bad : List Nat} {v : State} (hrdy : s.ready 11 = true) (hpf : s.slicePf k = 0) (hu : s.ArgIn k u)
    (h : s.scEntry k 0x13 = some e)
    (hf : u.find (leAt e 8 1 % 16) (slice arg 0 (keyBytes (u.tKind (leAt e 8 1 % 16)))) bad = (v, none)) :
    execEmtLookup k arg bad s = .next (v.scEnd k e (0x10 + emNOT_FOUND)) := by
  have hl := State.emtLookup_absent hf
  refine next_while hrdy (((State.sc_emt_silent h (by decide) (by decide) hpf hu _ ?_).trans ?_))
  · rw [hl]
  · rw [hl]

/-! ### TCAM -/

theorem execTcamWrite_puts {i : Nat} (hrdy : s.ready 12 = true) (hpf : s.slicePf k = 0) (hu : s.ArgIn k u)
    (h : s.scEntry k 0x18 = some e) (hi : u.tcamIndex (some k.val) (leAt e 8 1 % 8) (leAt e 12 4 % 262144) = some i) :
    execTcamWrite k arg s = .next ((u.tcamPut (leAt e 8 1 % 8) i (u.tcamBuffer (leAt e 8 1 % 8) arg)).scEnd k e (0x20 + tcOK)) := by
  have hop := (s.scEntry_eq_some k _ e h).1
  refine next_while hrdy ?_
  rw [State.sc_argIn _ h (by rw [scArg_isSome]; omega) hu, State.scTcam_inside e _ ((hu.slicePf k).trans hpf) hi]

/-- INVALIDATE and READ have no argument to wait for. -/
theorem State.sc_tcam {op : Nat} (h : s.scEntry k op = some e) (ho : op = 0x19 ∨ op = 0x1A) (run : List Byte → State → Nat → Nat → State) :
    s.sc k op (fun s e => s.scTcam k e (run e)) = (s.scTcam k e (run e)).1.scEnd k e (s.scTcam k e (run e)).2 := by
  have hop := (s.scEntry_eq_some k op e h).1
  exact State.sc_direct _ h (by rw [scArg_isSome]; omega)

theorem execTcamInvalidate_clears {i : Nat} (hrdy : s.ready 12 = true) (hpf : s.slicePf k = 0) (h : s.scEntry k 0x19 = some e)
    (hi : s.tcamIndex (some k.val) (leAt e 8 1 % 8) (leAt e 12 4 % 262144) = some i) :
    execTcamInvalidate k s =
      .next ((s.tcamPut (leAt e 8 1 % 8) i { s.verified (leAt e 8 1 % 8) i with valid := false }).scEnd k e (0x20 + tcOK)) := by
  refine next_while hrdy ?_
  rw [State.sc_tcam h (.inl rfl), State.scTcam_inside e _ hpf hi]
  rfl

/-- READ gives the verify copy. -/
theorem execTcamRead_gives {i : Nat} (hrdy : s.ready 12 = true) (hpf : s.slicePf k = 0) (h : s.scEntry k 0x1A = some e)
    (hi : s.tcamIndex (some k.val) (leAt e 8 1 % 8) (leAt e 12 4 % 262144) = some i) :
    execTcamRead k s = .next ((s.argWrite k (leAt e 16 8) (leBytes 80 (s.verified (leAt e 8 1 % 8) i).value ++
      leBytes 80 (s.verified (leAt e 8 1 % 8) i).mask ++ leBytes 8 (s.verified (leAt e 8 1 % 8) i).data)).scEnd k e (0x20 + tcOK)) := by
  refine next_while hrdy ?_
  rw [State.sc_tcam h (.inr rfl), State.scTcam_inside e _ hpf hi]

theorem execTcam_beyond (hrdy : s.ready 12 = true) (hpf : s.slicePf k = 0)
    (hi : s.tcamIndex (some k.val) (leAt e 8 1 % 8) (leAt e 12 4 % 262144) = none) :
    (s.scEntry k 0x19 = some e → execTcamInvalidate k s = .next (s.scEnd k e (0x20 + tcBAD_INDEX))) ∧
    (s.scEntry k 0x1A = some e → execTcamRead k s = .next (s.scEnd k e (0x20 + tcBAD_INDEX))) := by
  refine ⟨fun h => next_while hrdy ?_, fun h => next_while hrdy ?_⟩
  · rw [State.sc_tcam h (.inl rfl), State.scTcam_beyond e _ hpf hi]
  · rw [State.sc_tcam h (.inr rfl), State.scTcam_beyond e _ hpf hi]

/-! ### Load spreading -/

theorem execIndirWrite_run (hpf : s.slicePf k = 1) (hu : s.ArgIn k u) (h : s.scEntry k 0x20 = some e) (h0 : 0 < leAt e 10 2 % 4096)
    (hn : leAt e 8 2 % 2048 + leAt e 10 2 % 4096 ≤ 2048) :
    execIndirWrite k arg s = .next (if (indirValues e arg).all (u.indirOk k) = true
      then ((List.range (leAt e 10 2 % 4096)).foldl
        (fun (s : State) i => s.putIndir k (leAt e 8 2 % 2048 + i) ((indirValues e arg).getD i 0)) u).scEnd k e scOK
      else u.scEnd k e scBAD_VALUE) := by
  have hop := (s.scEntry_eq_some k _ e h).1
  refine next_congr ?_
  rw [State.sc_argIn _ h (by rw [scArg_isSome]; omega) hu, State.scIndir_run e arg ((hu.slicePf k).trans hpf) h0 hn, State.scEnd_ite]

theorem execHashKeyWrite_pends (hpf : s.slicePf k = 1) (hu : s.ArgIn k u) (h : s.scEntry k 0x21 = some e) :
    ∃ t : State, execHashKeyWrite k arg s = .next (t.scEnd k e scOK) ∧ k.val ∈ t.pp.keyDue ∧
      ∀ j < 10, t.rd (PpHashKey.adr 0 k j) = BitVec.ofNat 32 (leAt arg (4 * j) 4) ∧
        t.inForce (PpHashKey.adr 0 k j) = s.inForce (PpHashKey.adr 0 k j) := by
  have hop := (s.scEntry_eq_some k _ e h).1
  have hl : s.LinkOnly u := hu.2.1 ▸ s.linkOnly_argIn k
  refine ⟨(u.hashKeyWords k arg).keyWaits k, next_congr ?_, State.mem_keyWaits _ _, fun j hj => ?_⟩
  · rw [State.sc_argIn _ h (by rw [scArg_isSome]; omega) hu, State.scHashKey_own e arg ((hu.slicePf k).trans hpf)]
  · obtain ⟨hrd, hforce⟩ := u.hashKeyWords_pend k arg j hj
    rw [State.rd_keyWaits, State.inForce_keyWaits]
    exact ⟨hrd, hforce.trans (hl.frame (State.inForce · _) fun _ _ _ _ => rfl)⟩

end

/-! ## The statement -/

/-- Settles O45: an entry acts once its argument is in, in its function's duty, and ends with its status and the next HEAD. -/
theorem sliceControlEntriesActAndEnd : Obligations.SliceControlEntriesActAndEnd := by
  refine ⟨?setup, ?setupBusy, ?enable, ?enableBusy, ?disable, ?reset, ?outside, ?emt, ?found, ?absent, fun _ _ _ _ hb => if_pos hb, ?write,
    fun k e i s hrdy hpf hi => ⟨fun h => execTcamInvalidate_clears hrdy hpf h hi, fun h => execTcamRead_gives hrdy hpf h hi⟩,
    fun k e s hrdy hpf hi => execTcam_beyond hrdy hpf hi, fun k e arg s u hpf hu h h0 hn => execIndirWrite_run hpf hu h h0 hn,
    fun k e arg s u hpf hu h => execHashKeyWrite_pends hpf hu h, ?duty, ?idle, ?stray, fun k s => s.argStray_cases k, ?waits,
    fun k op e s h => s.scEntry_eq_some k op e h, fun k e st s hm hp => s.qHead_scEnd k k.isLt e st hm hp,
    fun k e st s hk hb hi => s.scEnd_cut k e st hk hb hi, ?cut⟩
  case setup =>
    intro k kind q e s h hq hst hc hn
    refine next_congr ((State.sc_queue h (by decide) _).trans ?_)
    rw [State.queueSetup_writes hq hst hc hn]
  case setupBusy =>
    intro k kind q e s h hq hst
    refine next_congr ((State.sc_queue h (by decide) _).trans ?_)
    rw [State.queueSetup_busy hq hst]
  case enable =>
    intro k kind q e s h hq hst
    refine next_congr ((State.sc_queue h (by decide) _).trans ?_)
    rw [State.scCommand_enable hq hst, State.scEnd_ite]
  case enableBusy =>
    intro k kind q e s h hq hst
    refine next_congr ((State.sc_queue h (by decide) _).trans ?_)
    rw [State.scCommand_enable_busy hq hst]
  case disable =>
    intro k kind q e s h hq
    refine next_congr ((State.sc_queue h (by decide) _).trans ?_)
    rw [State.scCommand_disable hq, State.scEnd_ite]
  case reset =>
    intro k kind q e s h hq
    refine next_congr ((State.sc_queue h (by decide) _).trans ?_)
    rw [State.scCommand_reset hq, State.scEnd_ite]
  case outside =>
    intro k kind e s hq
    refine ⟨fun h => ?_, fun h => ?_, fun h => ?_, fun h => ?_⟩
    all_goals refine next_congr ((State.sc_queue h (by decide) _).trans ?_)
    · rw [State.queueSetup_outside hq]
    all_goals rw [State.scCommand_outside hq]
  case emt =>
    intro k e arg bad s u hrdy hpf hu
    refine ⟨fun h => next_while hrdy ?_, fun h => next_while hrdy ?_,
      fun h => next_while hrdy ?_⟩
    · exact State.sc_emt_silent h (by decide) (by decide) hpf hu _ (u.emtInsert_nothing _ _ _ _)
    · exact State.sc_emt_silent h (by decide) (by decide) hpf hu _ (u.emtDelete_nothing _ _ _ _)
    · exact State.sc_emt_silent h (by decide) (by decide) hpf hu _ (u.emtModify_nothing _ _ _ _)
  case found => exact fun k e arg x bad i s u v hrdy hpf hu h hf => execEmtLookup_found hrdy hpf hu h hf
  case absent => exact fun k e arg bad s u v hrdy hpf hu h hf => execEmtLookup_absent hrdy hpf hu h hf
  case write => exact fun k e arg i s u hrdy hpf hu h hi => execTcamWrite_puts hrdy hpf hu h hi
  case duty =>
    intro k e arg bad s hemt htcm h0 h1
    exact ⟨fun h => next_while hemt (State.sc_outside h (by decide) h0 h1 _ (State.scEmt_other e _ h0)),
      fun h => next_while hemt (State.sc_outside h (by decide) h0 h1 _ (State.scEmt_other e _ h0)),
      fun h => next_while hemt (State.sc_outside h (by decide) h0 h1 _ (State.scEmt_other e _ h0)),
      fun h => next_while hemt (State.sc_outside h (by decide) h0 h1 _ (State.scEmt_other e _ h0)),
      fun h => next_while htcm (State.sc_outside h (by decide) h0 h1 _ (State.scTcam_other e _ h0)),
      fun h => next_while htcm (State.sc_outside h (by decide) h0 h1 _ (State.scTcam_other e _ h0)),
      fun h => next_while htcm (State.sc_outside h (by decide) h0 h1 _ (State.scTcam_other e _ h0)),
      fun h => next_congr (State.sc_outside h (by decide) h0 h1 _ (State.duty_other h1 _)),
      fun h => next_congr (State.sc_outside h (by decide) h0 h1 _ (State.duty_other h1 _))⟩
  case idle =>
    intro k s h
    have idle : ∀ op, ¬ (0x10 ≤ op ∧ op ≤ 0x13 ∨ [0x18, 0x20, 0x21, 0x40, 0x60].contains op = true) → ∀ g, s.sc k op g = s :=
      fun op ho g => (State.scRun_noEntry _ (h op)).trans (if_neg ho)
    exact ⟨next_congr (idle _ (by decide) _), next_congr (idle _ (by decide) _), next_congr (idle _ (by decide) _),
      next_congr (idle _ (by decide) _), ite_eq_right_iff.2 fun _ => next_congr (idle _ (by decide) _),
      ite_eq_right_iff.2 fun _ => next_congr (idle _ (by decide) _)⟩
  case stray =>
    intro k arg bad s h hemt htcm
    have stray : ∀ op, (0x10 ≤ op ∧ op ≤ 0x13 ∨ [0x18, 0x20, 0x21, 0x40, 0x60].contains op = true) → ∀ g, s.sc k op g = s.argStray k :=
      fun op ho g => (State.scRun_noEntry _ (h op)).trans (if_pos ho)
    exact ⟨next_while hemt (stray _ (by decide) _), next_while hemt (stray _ (by decide) _), next_while hemt (stray _ (by decide) _),
      next_while hemt (stray _ (by decide) _), next_while htcm (stray _ (by decide) _), next_congr (stray _ (by decide) _),
      next_congr (stray _ (by decide) _)⟩
  case waits =>
    intro k e arg bad s hr hemt htcm
    refine ⟨fun hpf h => next_while hemt (State.sc_waits _ h ?_ hr), fun hpf h => next_while htcm (State.sc_waits _ h ?_ hr),
      fun hpf h => next_congr (State.sc_waits _ h ?_ hr)⟩
    all_goals
      have hop := (s.scEntry_eq_some k _ e h).1
      rw [scArg_isSome]
      omega
  case cut =>
    intro k e arg bad f pa s u hr hu hv hi
    subst hu
    refine ⟨fun hpf hemt => ⟨fun h => next_while hemt (State.sc_cut _ h ?_ hr hv hi), fun h => next_while hemt (State.sc_cut _ h ?_ hr hv hi),
        fun h => next_while hemt (State.sc_cut _ h ?_ hr hv hi), fun h => next_while hemt (State.sc_cut _ h ?_ hr hv hi)⟩,
      fun hpf htcm h => next_while htcm (State.sc_cut _ h ?_ hr hv hi), fun hpf h => next_congr (State.sc_cut _ h ?_ hr hv hi)⟩
    all_goals
      have hop := (s.scEntry_eq_some k _ e h).1
      rw [scArg_isSome]
      omega

end Sys2Proof.Machine
end

section
/-!
Resolution, bridging, sequence recovery, policing and the hash: what each makes of a frame, case by case.
-/

namespace Sys2Proof.Machine

/-! ## Resolution (R236–R240) -/

section
variable {h : Head} {k : Looked} (hash : Nat) (s : State)

/-- An exception whose action is drop ends the frame before any lookup counts. -/
theorem State.resolve_exception (he : h.parsed.ending = .exception) (ha : s.act (PpCtrl.adr h.role) PpCtrl.excAction = 1) :
    s.resolve h k hash = (s, .copies [], false, true) := by
  simp [State.resolve, he, ha]

theorem Looked.governs_acl {w : Nat} (ha : k.acl = some w) (hv : awVerb w ≠ 0) : k.governs = some w := by
  simp [Looked.governs, ha, hv]

theorem Looked.governs_flow {w : Nat} (ha : k.acl = none) (hf : k.flow = some w) (hv : awVerb w ≠ 0) : k.governs = some w := by
  simp [Looked.governs, ha, hf, hv]

theorem State.byWord_drop {w : Nat} (hv : awVerb w = 1) : s.byWord h k w hash = (s, .copies [], false) := by
  simp [State.byWord, hv]

theorem State.byWord_trap {w : Nat} (hv : awVerb w = 2) : s.byWord h k w hash = (s, .copies [toRx (awTarget w) 5 h.edit], false) := by
  simp [State.byWord, hv]

variable (hn : h.parsed.ending = .normal)
include hn

theorem State.resolve_overrun (ho : k.overrun = true) : s.resolve h k hash = (s, .copies [], false, false) := by
  simp [State.resolve, hn, ho]

/-- The word that governs decides the frame's fate (R237). -/
theorem State.resolve_governed (ho : k.overrun = false) {w : Nat} (hg : k.governs = some w) : s.resolve h k hash =
    ((s.byWord h k w hash).1, (s.byWord h k w hash).2.1, (s.byWord h k w hash).2.2, false) := by
  unfold Looked.governs at hg
  cases ha : k.acl with
  | some v =>
    rw [ha] at hg
    obtain ⟨hv, rfl⟩ : ¬ awVerb v = 0 ∧ v = w := by simpa using hg
    simp [State.resolve, hn, ho, ha, hv]
  | none =>
    cases hf : k.flow with
    | none => simp [ha, hf] at hg
    | some v =>
      obtain ⟨hv, rfl⟩ : ¬ awVerb v = 0 ∧ v = w := by simpa [ha, hf] using hg
      simp [State.resolve, hn, ho, ha, hf, hv]

/-- Without a word that governs, a trap takes the frame, or it is forwarded, with a copy to the ARP trap (R237, R240). -/
theorem State.resolve_ungoverned (ho : k.overrun = false) (hg : k.governs = none) : s.resolve h k hash =
    if h.parsed.ptp.isSome ∧ s.trapOn h 0 then (s, .copies [toRx (s.trapQueue h 0) 1 h.edit], false, false)
    else if h.parsed.lldp ∧ s.trapOn h 1 then (s, .copies [toRx (s.trapQueue h 1) 2 h.edit], false, false)
    else ((s.forward h k).1,
      .copies ((s.forward h k).2 ++ if h.parsed.arp ∧ s.trapOn h 2 then [toRx (s.trapQueue h 2) 3 h.edit] else []),
      !(s.forward h k).2.isEmpty, false) := by
  unfold Looked.governs at hg
  cases ha : k.acl with
  | some v =>
    have hv : awVerb v = 0 := by simpa [ha] using hg
    simp [State.resolve, hn, ho, ha, hv]
  | none =>
    cases hf : k.flow with
    | none => simp [State.resolve, hn, ho, ha, hf]
    | some v =>
      have hv : awVerb v = 0 := by simpa [ha, hf] using hg
      simp [State.resolve, hn, ho, ha, hf, hv]

theorem State.resolve_drop {w : Nat} (hg : k.governs = some w) (hv : awVerb w = 1) :
    s.resolve h k hash = (s, .copies [], false, false) := by
  cases ho : k.overrun with
  | true => exact s.resolve_overrun hash hn ho
  | false => rw [s.resolve_governed hash hn ho hg, s.byWord_drop hash hv]

theorem State.resolve_trap {w : Nat} (hg : k.governs = some w) (hv : awVerb w = 2) (ho : k.overrun = false) :
    s.resolve h k hash = (s, .copies [toRx (awTarget w) 5 h.edit], false, false) := by
  rw [s.resolve_governed hash hn ho hg, s.byWord_trap hash hv]

theorem State.resolve_ptp (hg : k.governs = none) (hp : h.parsed.ptp.isSome = true) (ht : s.trapOn h 0 = true) (ho : k.overrun = false) :
    s.resolve h k hash = (s, .copies [toRx (s.trapQueue h 0) 1 h.edit], false, false) :=
  (s.resolve_ungoverned hash hn ho hg).trans (if_pos ⟨hp, ht⟩)

/-- A frame that no word governs and no trap takes is forwarded, and its copies are all that bridging or routing makes. -/
theorem State.resolve_forwards (hg : k.governs = none) (ho : k.overrun = false) (hp : h.parsed.ptp.isSome = false)
    (hl : h.parsed.lldp = false) (ha : (h.parsed.arp && s.trapOn h 2) = false) :
    s.resolve h k hash = ((s.forward h k).1, .copies (s.forward h k).2, !(s.forward h k).2.isEmpty, false) := by
  have harp : ¬ (h.parsed.arp = true ∧ s.trapOn h 2 = true) := by simpa using ha
  rw [s.resolve_ungoverned hash hn ho hg, if_neg (by simp [hp]), if_neg (by simp [hl]), if_neg harp, List.append_nil]

end

/-! ## Bridging and routing (R269–R271, R288) -/

section
variable (s : State) (h : Head)

theorem State.bridgeBy_outside (hit : Option (List Byte)) (hm : bit (s.act (EmtBd.adr h.bd) EmtBd.members) h.inPort = false) :
    s.bridgeBy h hit = (s, []) := if_pos (by simp [hm])

theorem State.bridgeBy_unknown (hm : bit (s.act (EmtBd.adr h.bd) EmtBd.members) h.inPort = true) (hu : bit (beAt h.frame 0 1) 0 = false)
    (hf : s.actB (EmtBd.adr h.bd) EmtBd.floodUc = false) : s.bridgeBy h none = (s, []) := by
  simp [State.bridgeBy, hm, hu, hf]

/-- A flood goes to ports of its mask, and not back to the port of its arrival. -/
theorem State.maskCopies_ports (m : Nat) (hi : h.inPort < 24) (c : Nat × Nat × Nat × Edit) (hc : c ∈ s.maskCopies h m) :
    c.1 ≠ h.inPort ∧ bit m c.1 = true := by
  rcases List.mem_append.1 hc with hc | hc
  · obtain ⟨p, hp, rfl⟩ := List.mem_map.1 hc
    obtain ⟨hb, hne⟩ := Bool.and_eq_true_iff.1 (List.mem_filter.1 hp).2
    exact ⟨by simpa [State.toPort] using hne, hb⟩
  · obtain ⟨hb, hc⟩ := List.mem_ite_nil_right.1 hc
    obtain rfl := List.mem_singleton.1 hc
    exact ⟨by simp only [toRx]; omega, (Bool.and_eq_true_iff.1 hb).1⟩

theorem State.nextHop_invalid (n : Nat) (hv : s.actB (TcmNexthop.adr n) TcmNexthop.valid = false) :
    s.nextHop h n = (s.bump (TcmRoleStat.adr h.role) TcmRoleStat.routeMiss, []) := if_pos (by simp [hv])

end

/-! ## Sequence recovery (R243) -/

section
variable (s : State) (r i e : Nat) (p : Parsed) {a q : Nat}

/-- Recovery entry `e` of role `r` has passed a frame with sequence `q`, and `v` is its history. -/
def State.seqPassed (s : State) (r e q v : Nat) : State :=
  let s1 := s.set (PpSeqrec.adr r e) PpSeqrec.recovSeq q
  ((({ s1 with pp := { s1.pp with hist := sput 0 s1.pp.hist (r * 1024 + e) v } } : State).bump (PpSeqrec.adr r e) PpSeqrec.passed).set
    (PpSeqrec.adr r e) PpSeqrec.fresh 0)

theorem State.recovSeq_seqPassed (v : Nat) : (s.seqPassed r e q v).get (PpSeqrec.adr r e) PpSeqrec.recovSeq = q % 2 ^ 16 := by
  unfold State.seqPassed State.bump
  rw [State.get_set_apart _ _ _ _ _ _ (Fld.apart_entry (by decide) _), State.get_set_apart _ _ _ _ _ _ (Fld.apart_entry (by decide) _)]
  exact State.get_set_same _ _ _ _

theorem State.fresh_seqPassed (v : Nat) : (s.seqPassed r e q v).getB (PpSeqrec.adr r e) PpSeqrec.fresh = false :=
  congrArg (· == 1) (State.get_set_same _ _ _ _)

theorem State.recoverSeq_untagged (hp : p.rtag = none) :
    s.recoverSeq r i e p = (s.bump (PpSeqrec.adr r e) PpSeqrec.rogue, false, false) := by
  simp [State.recoverSeq, hp]

variable (hp : p.rtag = some (a, q)) (hm : bit (s.act (PpSeqrec.adr r e) PpSeqrec.members) i = true)
include hp hm

/-- The first frame of a FRESH entry passes. -/
theorem State.recoverSeq_fresh (hf : s.getB (PpSeqrec.adr r e) PpSeqrec.fresh = true) :
    s.recoverSeq r i e p =
      (s.seqPassed r e q (1 % 2 ^ s.act (PpSeqrec.adr r e) PpSeqrec.hist), true, s.actB (PpSeqrec.adr r e) PpSeqrec.pop) := by
  simp [State.recoverSeq, State.seqPassed, hp, hm, hf]

/-- A frame of the newest sequence number, which the history has, is a duplicate. -/
theorem State.recoverSeq_duplicate (hf : s.getB (PpSeqrec.adr r e) PpSeqrec.fresh = false)
    (hq : q = s.get (PpSeqrec.adr r e) PpSeqrec.recovSeq) (hh : 0 < s.act (PpSeqrec.adr r e) PpSeqrec.hist)
    (hb : bit (sget 0 s.pp.hist (r * 1024 + e)) 0 = true) :
    s.recoverSeq r i e p = (s.bump (PpSeqrec.adr r e) PpSeqrec.duplicate, false, false) := by
  have h0 : toSigned 16 0 = 0 := by decide
  subst hq
  simp [State.recoverSeq, hp, hm, hf, h0, hb, Nat.pos_iff_ne_zero.1 hh]

end

/-! ## Policing (R318) -/

/-- A policer's buckets with the tokens that have come since it last metered a frame. -/
def State.refilled (s : State) (r n : Nat) : Bucket :=
  let a := TmPolicer.adr r n
  let b := sget ⟨byteTokens (s.act a TmPolicer.cbs), byteTokens (s.act a TmPolicer.pbs), s.ranNs⟩ s.pp.buckets (r * 1024 + n)
  ⟨min (byteTokens (s.act a TmPolicer.cbs)) (b.tc + tokensIn (s.act a TmPolicer.cir) (s.ranNs - b.last)),
    min (byteTokens (s.act a TmPolicer.pbs)) (b.tp + tokensIn (s.act a TmPolicer.pir) (s.ranNs - b.last)), s.ranNs⟩

/-- The policer's buckets are `x`, and its counter `f` counts the frame. -/
def State.metered (s : State) (r n : Nat) (x : Bucket) (f : Fld) : State :=
  ({ s with pp := { s.pp with buckets := sins s.pp.buckets (r * 1024 + n) x } } : State).bump (TmPolicer.adr r n) f

theorem State.sget_metered (s : State) (r n : Nat) (x d : Bucket) (f : Fld) :
    sget d (s.metered r n x f).pp.buckets (r * 1024 + n) = x := by
  rw [State.metered, State.bump_pp, sget_sins, if_pos rfl]

theorem State.tc_refilled_le (s : State) (r n : Nat) : (s.refilled r n).tc ≤ byteTokens (s.act (TmPolicer.adr r n) TmPolicer.cbs) :=
  Nat.min_le_left _ _

theorem State.tp_refilled_le (s : State) (r n : Nat) : (s.refilled r n).tp ≤ byteTokens (s.act (TmPolicer.adr r n) TmPolicer.pbs) :=
  Nat.min_le_left _ _

theorem byteTokens_strictMono {a b : Nat} (h : a < b) : byteTokens a < byteTokens b := by
  unfold byteTokens
  omega

section
variable (s : State) (r n len : Nat) (hn : n ≠ 0) (he : s.actB (TmPolicer.adr r n) TmPolicer.enable = true)
include hn he

/-- A frame is red, yellow or green as the refilled buckets hold its tokens, and takes those of its colour. -/
theorem State.police_eq : s.police r n len =
    if (s.refilled r n).tp < byteTokens len then
      (s.metered r n (s.refilled r n) TmPolicer.red, s.actB (TmPolicer.adr r n) TmPolicer.redAct, true)
    else if (s.refilled r n).tc < byteTokens len then
      (s.metered r n { s.refilled r n with tp := (s.refilled r n).tp - byteTokens len } TmPolicer.yellow,
        !s.actB (TmPolicer.adr r n) TmPolicer.yellowAct, true)
    else (s.metered r n ⟨(s.refilled r n).tc - byteTokens len, (s.refilled r n).tp - byteTokens len, s.ranNs⟩ TmPolicer.green,
      true, false) := by
  unfold State.police
  rw [if_neg hn, he]
  exact if_neg (by decide)

/-- A policer's buckets hold no more than their sizes once it has metered a frame. -/
theorem State.police_bounded :
    (sget ⟨0, 0, 0⟩ (s.police r n len).1.pp.buckets (r * 1024 + n)).tc ≤ byteTokens (s.act (TmPolicer.adr r n) TmPolicer.cbs) ∧
    (sget ⟨0, 0, 0⟩ (s.police r n len).1.pp.buckets (r * 1024 + n)).tp ≤ byteTokens (s.act (TmPolicer.adr r n) TmPolicer.pbs) := by
  have htc := s.tc_refilled_le r n
  have htp := s.tp_refilled_le r n
  rw [s.police_eq r n len hn he]
  split
  · rw [State.sget_metered]
    exact ⟨htc, htp⟩
  · split
    · rw [State.sget_metered]
      exact ⟨htc, Nat.le_trans (Nat.sub_le _ _) htp⟩
    · rw [State.sget_metered]
      exact ⟨Nat.le_trans (Nat.sub_le _ _) htc, Nat.le_trans (Nat.sub_le _ _) htp⟩

/-- No bucket holds the tokens of a frame longer than PBS. -/
theorem State.police_red (hl : s.act (TmPolicer.adr r n) TmPolicer.pbs < len) :
    (s.police r n len).2 = (s.actB (TmPolicer.adr r n) TmPolicer.redAct, true) := by
  rw [s.police_eq r n len hn he, if_pos (Nat.lt_of_le_of_lt (s.tp_refilled_le r n) (byteTokens_strictMono hl))]

end

/-! ## The hash (R245) -/

theorem State.frameHash_spread {r : Nat} {f : List Byte} {p : Parsed} {k : Looked} {w : Nat} (s : State) (hw : k.word = some w)
    (hv : awVerb w = 6) : s.frameHash r f p k = s.hashOf r (awHashSet w) (awTarget w % 256) f p := by
  simp [State.frameHash, hw, hv]

/-- The key is one of 256, whatever the word. -/
theorem State.frameHash_key (s : State) (r : Nat) (f : List Byte) (p : Parsed) (k : Looked) : ∃ slice < 256,
    s.frameHash r f p k = s.hashOf r (match k.word with | some w => awHashSet w | none => 0) slice f p := by
  have hlt : ∀ n, n % 256 < 256 := fun n => Nat.mod_lt n (by decide)
  cases hw : k.word with
  | none => exact ⟨s.free % 256, hlt _, by simp [State.frameHash, hw]⟩
  | some w =>
    by_cases hv : awVerb w = 6
    · exact ⟨awTarget w % 256, hlt _, s.frameHash_spread hw hv⟩
    · exact ⟨s.free % 256, hlt _, by simp [State.frameHash, hw, hv]⟩

/-- What the hash starts from is added to it. -/
theorem toeplitz_start (K : Nat) (xs : List Bool) (i h : Nat) : toeplitz K xs i h = h ^^^ toeplitz K xs i 0 := by
  induction xs generalizing i h with
  | nil => simp [toeplitz]
  | cons x xs ih =>
    cases x with
    | false => exact ih (i + 1) h
    | true =>
      simp only [toeplitz, if_true]
      rw [ih (i + 1) (h ^^^ _), ih (i + 1) (0 ^^^ _), Nat.zero_xor, Nat.xor_assoc]

/-- A word that counts for each of two bits counts once where just one of them is set, and cancels where both are. -/
theorem xor_word (x y : Bool) (c : Nat) : (if xor x y then c else 0) = (if x then c else 0) ^^^ (if y then c else 0) := by
  cases x <;> cases y <;> simp

theorem toeplitz_linear (K i : Nat) (xs ys : List Bool) (hl : xs.length = ys.length) :
    toeplitz K (List.zipWith xor xs ys) i 0 = toeplitz K xs i 0 ^^^ toeplitz K ys i 0 := by
  induction xs generalizing ys i with
  | nil =>
    obtain rfl : ys = [] := List.length_eq_zero_iff.1 hl.symm
    simp [toeplitz]
  | cons x xs ih =>
    cases ys with
    | nil => exact absurd hl (by simp)
    | cons y ys =>
      have hlin := ih (i + 1) ys (by simpa using hl)
      simp only [List.zipWith_cons_cons, toeplitz]
      rw [toeplitz_start, toeplitz_start K xs, toeplitz_start K ys, hlin, xor_word]
      ac_rfl

/-- Settles O28: the branches of resolution, bridging, recovery and policing one by one, and the hash by induction on its input. -/
theorem framesAreResolvedRecoveredPolicedAndHashed : Obligations.FramesAreResolvedRecoveredPolicedAndHashed :=
  ⟨fun _ _ hash s he ha => s.resolve_exception hash he ha,
    fun _ _ _ hash s hn ha hv => s.resolve_drop hash hn (Looked.governs_acl ha (by omega)) hv,
    fun _ _ _ hash s hn ha hv ho => s.resolve_trap hash hn (Looked.governs_acl ha (by omega)) hv ho,
    fun _ _ _ _ hash s hn ha hf hv => s.resolve_drop hash hn (Looked.governs_flow ha hf (by omega)) hv,
    fun _ _ hash s hn hg hp ht ho => s.resolve_ptp hash hn hg hp ht ho, fun _ _ hash s hn ho => s.resolve_overrun hash hn ho,
    fun h hit s hm => s.bridgeBy_outside h hit hm, fun h s hm hu hf => s.bridgeBy_unknown h hm hu hf,
    fun h m s hi c hc => s.maskCopies_ports h m hi c hc, fun h n s hv => s.nextHop_invalid h n hv,
    fun r i e p a q s hp hm hf => by
      rw [s.recoverSeq_fresh r i e p hp hm hf]
      exact ⟨rfl, s.recovSeq_seqPassed r e _, s.fresh_seqPassed r e _⟩,
    fun r i e p a q s hp hm hf hq hh hb => s.recoverSeq_duplicate r i e p hp hm hf hq hh hb,
    fun r i e p s hp => s.recoverSeq_untagged r i e p hp, fun r n len s hn he => s.police_bounded r n len hn he,
    fun r n len s hn he hl => s.police_red r n len hn he hl, fun _ _ _ _ _ s hw hv => s.frameHash_spread hw hv,
    fun r f p k s => s.frameHash_key r f p k, fun _ _ hash s hn hg ho hp hl ha => s.resolve_forwards hash hn hg ho hp hl ha,
    toeplitz_linear⟩

end Sys2Proof.Machine
end

section
/-!
The exact-match tables, operation by operation: what a slot holds after a write, what stays of a table's setup, and a look-up that meets
no error.
-/

namespace Sys2Proof.Machine

theorem sfind_sdel_other {α : Type} (m : List (Nat × α)) (j k : Nat) (h : k ≠ j) : sfind (sdel m j) k = sfind m k := by
  induction m with
  | nil => rfl
  | cons p m ih =>
    obtain ⟨a, v⟩ := p
    by_cases hj : j = a
    · subst hj
      rw [sdel, if_pos rfl, ih, sfind, if_neg h]
    · rw [sdel, if_neg hj, sfind, sfind, ih]

/-! ## The contents of a table -/

section
variable (s : State) (t : Nat)

theorem State.length_modTab (f : EmtTab → EmtTab) : (s.modTab t f).emt.tabs.length = s.emt.tabs.length :=
  List.length_modify _ _ _

theorem State.tab_modTab (f : EmtTab → EmtTab) (ht : t < s.emt.tabs.length) : (s.modTab t f).tab t = f (s.tab t) := by
  simp [State.tab, State.modTab, ht]

/-- What a change leaves of every table, it leaves of the one that the state holds, listed or not. -/
theorem State.tab_modTab_keeps {α : Type} (g : EmtTab → α) (f : EmtTab → EmtTab) (h : ∀ m, g (f m) = g m) :
    g ((s.modTab t f).tab t) = g (s.tab t) := by
  by_cases ht : t < s.emt.tabs.length
  · rw [s.tab_modTab t f ht, h]
  · simp [State.tab, State.modTab, ht]

theorem State.emt_syncTab : (s.syncTab t).emt = s.emt := by
  simp [State.syncTab]

/-- The counters of a table lie behind its setup words. -/
theorem State.act_syncTab (f : Fld) (h : f.off + 4 * f.words ≤ 0x14) :
    (s.syncTab t).act (EmtTable.adr t) f = s.act (EmtTable.adr t) f := by
  have hstash : EmtTable.stash.Apart (EmtTable.adr t) (EmtTable.adr t) f := by
    have : EmtTable.stash.off = 0x14 := rfl
    omega
  have hentries : EmtTable.entries.Apart (EmtTable.adr t) (EmtTable.adr t) f := by
    have : EmtTable.entries.off = 0x14 := rfl
    omega
  exact (State.act_set_apart _ _ _ _ _ _ hstash).trans (State.act_set_apart _ _ _ _ _ _ hentries)

theorem State.tKind_syncTab : (s.syncTab t).tKind t = s.tKind t := s.act_syncTab t EmtTable.kind (by decide)

variable (i : Nat)

theorem State.length_putSlot (e : List Byte) (h : Bool) : (s.putSlot t i e h).emt.tabs.length = s.emt.tabs.length :=
  (congrArg (List.length ∘ Emt.tabs) (State.emt_syncTab _ t)).trans (s.length_modTab t _)

theorem State.length_clearSlot : (s.clearSlot t i).emt.tabs.length = s.emt.tabs.length :=
  (congrArg (List.length ∘ Emt.tabs) (State.emt_syncTab _ t)).trans (s.length_modTab t _)

theorem State.tKind_putSlot (e : List Byte) (h : Bool) : (s.putSlot t i e h).tKind t = s.tKind t := State.tKind_syncTab _ t

theorem State.tKind_clearSlot : (s.clearSlot t i).tKind t = s.tKind t := State.tKind_syncTab _ t

theorem State.tab_syncTab : (s.syncTab t).tab t = s.tab t := by
  rw [State.tab, s.emt_syncTab t, State.tab]

theorem State.slots_putSlot (e : List Byte) (h : Bool) (ht : t < s.emt.tabs.length) :
    ((s.putSlot t i e h).tab t).slots = sins (s.tab t).slots i e := by
  rw [State.putSlot, State.tab_syncTab, s.tab_modTab t _ ht]

theorem State.at_putSlot_same (e : List Byte) (h : Bool) (ht : t < s.emt.tabs.length) :
    ((s.putSlot t i e h).tab t).at_ i = some e := by
  rw [EmtTab.at_, s.slots_putSlot t i e h ht]
  exact sfind_sins_same _ _ _

theorem State.at_putSlot_other (e : List Byte) (h : Bool) {j : Nat} (hj : j ≠ i) :
    ((s.putSlot t i e h).tab t).at_ j = (s.tab t).at_ j := by
  rw [State.putSlot, State.tab_syncTab]
  exact s.tab_modTab_keeps t (fun m => m.at_ j) _ fun m => sfind_sins_other _ _ _ _ hj

theorem State.at_clearSlot_same (ht : t < s.emt.tabs.length) : ((s.clearSlot t i).tab t).at_ i = none := by
  rw [State.clearSlot, State.tab_syncTab, s.tab_modTab t _ ht]
  exact sfind_sdel_same _ _

theorem State.at_clearSlot_other {j : Nat} (hj : j ≠ i) : ((s.clearSlot t i).tab t).at_ j = (s.tab t).at_ j := by
  rw [State.clearSlot, State.tab_syncTab]
  exact s.tab_modTab_keeps t (fun m => m.at_ j) _ fun m => sfind_sdel_other _ _ _ hj

end

/-- A look-up whose reads are all correctable, in a table without parity, finds what the table holds and changes nothing (R256). -/
theorem State.find_readable (s : State) (t : Nat) (key : List Byte) (bad : List Nat) (hp : s.parityMode t = false)
    (hb : ∀ b ∈ bad, b ≠ (s.candidates t key).1 ∧ b ≠ (s.candidates t key).2 ∧ b ≠ stashBase / 4) :
    s.find t key bad = (s, s.slotOf t key) := by
  have hlost : [(s.candidates t key).1, (s.candidates t key).2, stashBase / 4].filter bad.contains = [] := by
    simp only [List.filter_eq_nil_iff, List.contains_iff_mem]
    intro x hx hm
    obtain ⟨h0, h1, h2⟩ := hb x hm
    simp only [List.mem_cons, List.not_mem_nil, or_false] at hx
    obtain h | h | h := hx
    · exact h0 h
    · exact h1 h
    · exact h2 h
  simp only [State.find, hlost, List.isEmpty_nil, if_true, hp, Bool.false_and, Bool.false_eq_true, if_false]
  split <;> rename_i h <;> rw [h]

end Sys2Proof.Machine
end

section
/-!
DMA tables and the shadow compare: the doorbell, the images that arrive, the ways of a bucket, and the items of a shadow.
-/

namespace Sys2Proof.Machine

/-! ## The doorbell (R275) -/

theorem State.awaits_congr {s u : State} (h : u.hif = s.hif) (f : Nat) (r : Reader) : u.awaits f r = s.awaits f r := by
  rw [State.awaits, State.readers, h, State.awaits, State.readers]

/-- TAIL of table `t` takes `v`, and WAIT is cleared. -/
def State.tailRung (s : State) (o : Sys2Proof.Origin) (t v : Nat) : State :=
  ((s.awake o 11).set (EmtDma.adr t) EmtDma.tail v).set (EmtDma.adr t) EmtDma.wait 0

theorem State.awaits_tailRung (s : State) (o : Sys2Proof.Origin) (t v f : Nat) (r : Reader) :
    (s.tailRung o t v).awaits f r = s.awaits f r :=
  State.awaits_congr (by simp [State.tailRung, State.awake]) f r

/-- The doorbell fetches the image at HEAD when no read of the table is outstanding. -/
theorem execEmtDmaDoorbell_open (o : Sys2Proof.Origin) (t : Fin 16) (v : BitVec 16) (s : State)
    (h : s.Open o 11 (0x160C + 0x20 * t) false false) : execEmtDmaDoorbell o t v s =
      .next (if s.awaits 0 (.emtDma t) then s.tailRung o t v.toNat else (s.tailRung o t v.toNat).dmaFetch t) := by
  rw [execEmtDmaDoorbell, State.emtDoorbell, State.gate_open _ _ _ _ _ _ _ h]
  change WRes.out (if (s.tailRung o t v.toNat).awaits 0 (.emtDma t) then _ else _) = _
  rw [State.awaits_tailRung]
  split
  · rfl
  · rfl

theorem State.dmaFetch_empty (s : State) (t : Nat) (h : s.get (EmtDma.adr t) EmtDma.head = s.get (EmtDma.adr t) EmtDma.tail) :
    s.dmaFetch t = s := if_pos h

/-! ## Images (R275) -/

/-- An image of table `t` is done with: READY of its host copy is cleared, HEAD advances, and the next image is fetched. -/
def State.imageTaken (s : State) (t addr : Nat) : State := ((s.dmaWrite 0 none (addr + 4) [0, 0, 0, 0]).dmaAdvance t).dmaFetch t

section
variable (t : Fin 16) (image : List Byte) (s : State) (hr : s.reading 0 (.emtDma t) = true) (hrdy : s.ready 11 = true)
include hr hrdy

/-- What an image that arrives does turns on its READY bit and on its bucket. -/
theorem execEmtDmaImage_arrives : execEmtDmaImage t image s = .next (
    if !bit (leAt image 4 4) 0 then (s.readEnds 0 (.emtDma t)).set (EmtDma.adr t) EmtDma.wait 1
    else (if leAt image 0 4 < (s.readEnds 0 (.emtDma t)).tBuckets t then
        (s.readEnds 0 (.emtDma t)).putBucket t (leAt image 0 4) (image.drop 16)
      else (s.readEnds 0 (.emtDma t)).raise 11 2 (0x1600 + 0x20 * t)).imageTaken t ((s.readEnds 0 (.emtDma t)).dmaImageAddr t)) := by
  rw [execEmtDmaImage, if_pos (by rw [hr, hrdy, Bool.and_self])]
  dsimp only
  split
  · rfl
  · rfl

theorem execEmtDmaImage_early (hb : bit (leAt image 4 4) 0 = false) :
    execEmtDmaImage t image s = .next ((s.readEnds 0 (.emtDma t)).set (EmtDma.adr t) EmtDma.wait 1) := by
  rw [execEmtDmaImage_arrives t image s hr hrdy, if_pos (by rw [hb]; rfl)]

variable (hb : bit (leAt image 4 4) 0 = true)
include hb

theorem execEmtDmaImage_inside (hi : leAt image 0 4 < (s.readEnds 0 (.emtDma t)).tBuckets t) : execEmtDmaImage t image s =
    .next (((s.readEnds 0 (.emtDma t)).putBucket t (leAt image 0 4) (image.drop 16)).imageTaken t
      ((s.readEnds 0 (.emtDma t)).dmaImageAddr t)) := by
  rw [execEmtDmaImage_arrives t image s hr hrdy, if_neg (by rw [hb]; decide), if_pos hi]

theorem execEmtDmaImage_beyond (hi : (s.readEnds 0 (.emtDma t)).tBuckets t ≤ leAt image 0 4) : execEmtDmaImage t image s =
    .next (((s.readEnds 0 (.emtDma t)).raise 11 2 (0x1600 + 0x20 * t)).imageTaken t ((s.readEnds 0 (.emtDma t)).dmaImageAddr t)) := by
  rw [execEmtDmaImage_arrives t image s hr hrdy, if_neg (by rw [hb]; decide), if_neg (Nat.not_lt.2 hi)]

end

/-! ## The ways of a bucket (R275) -/

/-- The bytes of way `w` in an image's data `d`, of a table of KIND `kd`. -/
def wayBytes (kd : Nat) (d : List Byte) (w : Nat) : List Byte := slice d (w * entryBytes kd) (entryBytes kd)

/-- What way `w` holds once it has taken them. -/
def wayEntry (kd : Nat) (d : List Byte) (w : Nat) : Option (List Byte) :=
  if bit (flagsOf (wayBytes kd d w)) 7 then some (wayBytes kd d w) else none

/-- Way `w` of bucket `b` takes its entry of `d`. -/
def State.putWay (s : State) (t b : Nat) (d : List Byte) (w : Nat) : State :=
  if bit (flagsOf (wayBytes (s.tKind t) d w)) 7 then
    s.putSlot t (4 * b + w) (wayBytes (s.tKind t) d w) ((s.tab t).hits.contains (4 * b + w))
  else s.clearSlot t (4 * b + w)

section
variable (s : State) (t b : Nat) (d : List Byte) (w : Nat)

theorem State.putBucket_eq : s.putBucket t b d = (List.range 4).foldl (fun s w => s.putWay t b d w) s := rfl

theorem State.length_putWay : (s.putWay t b d w).emt.tabs.length = s.emt.tabs.length := by
  unfold State.putWay
  split
  · exact s.length_putSlot t _ _ _
  · exact s.length_clearSlot t _

theorem State.tKind_putWay : (s.putWay t b d w).tKind t = s.tKind t := by
  unfold State.putWay
  split
  · exact s.tKind_putSlot t _ _ _
  · exact s.tKind_clearSlot t _

theorem State.at_putWay_same (ht : t < s.emt.tabs.length) :
    ((s.putWay t b d w).tab t).at_ (4 * b + w) = wayEntry (s.tKind t) d w := by
  unfold State.putWay wayEntry
  split
  · exact s.at_putSlot_same t _ _ _ ht
  · exact s.at_clearSlot_same t _ ht

theorem State.at_putWay_other {j : Nat} (hj : j ≠ 4 * b + w) : ((s.putWay t b d w).tab t).at_ j = (s.tab t).at_ j := by
  unfold State.putWay
  split
  · exact s.at_putSlot_other t _ _ _ hj
  · exact s.at_clearSlot_other t _ hj

end

theorem State.at_putWays_other (t b : Nat) (d : List Byte) {j : Nat} (l : List Nat) (s : State) (hj : ∀ w ∈ l, j ≠ 4 * b + w) :
    ((l.foldl (fun s w => s.putWay t b d w) s).tab t).at_ j = (s.tab t).at_ j := by
  induction l generalizing s with
  | nil => rfl
  | cons x l ih =>
    rw [List.foldl_cons, ih _ fun w hw => hj w (List.mem_cons_of_mem _ hw)]
    exact s.at_putWay_other t b d x (hj x List.mem_cons_self)

/-- Each of several ways holds its entry once all have taken theirs. -/
theorem State.at_putWays_mem (t b : Nat) (d : List Byte) {w : Nat} (l : List Nat) (s : State) (hl : l.Nodup) (hw : w ∈ l)
    (ht : t < s.emt.tabs.length) :
    ((l.foldl (fun s w => s.putWay t b d w) s).tab t).at_ (4 * b + w) = wayEntry (s.tKind t) d w := by
  induction l generalizing s with
  | nil => exact absurd hw List.not_mem_nil
  | cons x l ih =>
    obtain ⟨hx, hl⟩ := List.nodup_cons.1 hl
    rw [List.foldl_cons]
    obtain rfl | hw := List.mem_cons.1 hw
    · rw [State.at_putWays_other t b d l _ fun v hv => by
        have : v ≠ w := fun e => hx (e ▸ hv)
        omega]
      exact s.at_putWay_same t b d w ht
    · rw [ih _ hl hw (by rwa [s.length_putWay]), s.tKind_putWay]

/-! ## The shadow compare (R276) -/

theorem State.awaits_of_reading {s : State} {f : Nat} {r : Reader} (h : s.reading f r = true) : s.awaits f r = true := by
  simp only [State.reading, List.any_eq_true, Bool.and_eq_true, beq_iff_eq] at h
  obtain ⟨x, hx, rfl, rfl⟩ := h
  rw [State.awaits, List.contains_iff_mem]
  exact List.mem_append_left _ (List.mem_map_of_mem hx)

section
variable (t : Nat) (i : Nat) (item e : List Byte) (bad : List Nat) (s : State) (he : e = slice item 0 (entryBytes (s.tKind t)))
  (hv : bit (flagsOf e) 7 = true)
include he hv

theorem State.compareEntry_same {u : State} {j : Nat} (hf : s.find t (e.take (keyBytes (s.tKind t))) bad = (u, some (j, e))) :
    s.compareEntry t i item bad = u := by
  simp [State.compareEntry, ← he, hv, hf]

theorem State.compareEntry_differs {u : State} {j : Nat} {x : List Byte}
    (hf : s.find t (e.take (keyBytes (s.tKind t))) bad = (u, some (j, x))) (hx : x ≠ e) :
    s.compareEntry t i item bad = (u.putSlot t j e ((u.tab t).hits.contains j)).shadowRepair t i := by
  simp [State.compareEntry, ← he, hv, hf, hx]

theorem State.compareEntry_absent {u : State} (hf : s.find t (e.take (keyBytes (s.tKind t))) bad = (u, none)) :
    s.compareEntry t i item bad = if (u.engine t e false bad).2 = emOK then (u.engine t e false bad).1.shadowRepair t i
      else (u.engine t e false bad).1 := by
  simp [State.compareEntry, ← he, hv, hf]

end

/-- The compare moves on to the item behind `i`. -/
def State.shadowMoved (s : State) (t i n : Nat) : State := s.modTab t fun m => { m with shadowPos := (i + 1) % n }

theorem State.tKind_shadowItem (s : State) (t i n f : Nat) (r : Reader) : ((s.readEnds f r).shadowMoved t i n).tKind t = s.tKind t :=
  (s.linkOnly_readEnds f r).act _ _

section
variable (t : Fin 16) (item : List Byte) (bad : List Nat) (s : State)

/-- An item of a COMMAND table that arrives is compared, and the compare moves on. -/
theorem execShadowCompare_takes (hon : s.shadowOn t = true) (ha : s.act (EmtTable.adr t) EmtTable.access = 0)
    (hi : (s.tab t).shadowPos < s.shadowItems t) (hr : s.reading 0 (.shadow t (s.tab t).shadowPos) = true) :
    execShadowCompare t item bad s = .next (((s.readEnds 0 (.shadow t (s.tab t).shadowPos)).shadowMoved t (s.tab t).shadowPos
      (s.shadowItems t)).compareEntry t (s.tab t).shadowPos item bad) := by
  have hgo : (s.shadowOn t && decide ((s.tab t).shadowPos < s.shadowItems t)) = true := by
    rw [hon, decide_eq_true hi, Bool.and_self]
  simp only [execShadowCompare, if_pos hr, if_pos hgo, ha]
  rfl

theorem execShadowCompare_asks (hon : s.shadowOn t = true) (ha : s.awaits 0 (.shadow t (s.tab t).shadowPos) = false) :
    execShadowCompare t item bad s = .next (s.shadowAsk t) := by
  have hr : s.reading 0 (.shadow t (s.tab t).shadowPos) = false :=
    Bool.eq_false_iff.2 fun h => Bool.false_ne_true (ha.symm.trans (State.awaits_of_reading h))
  simp [execShadowCompare, hr, ha, hon]

theorem execShadowCompare_waits (hr : s.reading 0 (.shadow t (s.tab t).shadowPos) = false)
    (ha : s.awaits 0 (.shadow t (s.tab t).shadowPos) = true) : execShadowCompare t item bad s = .next s := by
  simp [execShadowCompare, hr, ha]

theorem State.shadowOn_held (hrdy : s.ready 11 = false) : s.shadowOn t = false := by
  simp [State.shadowOn, hrdy]

theorem execShadowCompare_held (hrdy : s.ready 11 = false) (hr : s.reading 0 (.shadow t (s.tab t).shadowPos) = false) :
    execShadowCompare t item bad s = .next s := by
  simp [execShadowCompare, hr, s.shadowOn_held t hrdy]

end

/-- Settles O30: the doorbell and the images by what has arrived, the ways of a bucket by induction, and the compare by what its item meets. -/
theorem dmaImagesAndShadowCompares : Obligations.DmaImagesAndShadowCompares := by
  refine ⟨fun o t v s _ h ha => ?_, fun o t v s _ h ha => ?_, fun t s h => s.dmaFetch_empty t h,
    fun t image s hr hrdy hb => execEmtDmaImage_early t image s hr hrdy hb,
    fun t image s u hr hrdy hb hu hi => ?_, fun t image s u hr hrdy hb hu hi => ?_,
    fun t b w d s ht hw => ?_, fun t b i d s hi => ?_,
    fun t item bad i j e s u hon ha hp hi hr hu he hv hf => ?_,
    fun t item bad s hon ha => execShadowCompare_asks t item bad s hon ha,
    fun t item bad s hr ha => execShadowCompare_waits t item bad s hr ha,
    fun t i j item e x bad s u he hv hf hx => s.compareEntry_differs t i item e bad he hv hf hx,
    fun t i item e bad s u he hv hf => s.compareEntry_absent t i item e bad he hv hf,
    fun t key bad s hp hb => s.find_readable t key bad hp hb,
    fun t item bad s hrdy hr => execShadowCompare_held t item bad s hrdy hr⟩
  · exact (execEmtDmaDoorbell_open o t v s h).trans (by rw [ha]; rfl)
  · exact (execEmtDmaDoorbell_open o t v s h).trans (by rw [ha]; rfl)
  · subst hu
    exact execEmtDmaImage_inside t image s hr hrdy hb hi
  · subst hu
    exact execEmtDmaImage_beyond t image s hr hrdy hb hi
  · exact State.at_putWays_mem t b d (List.range 4) s List.nodup_range (List.mem_range.2 hw) ht
  · refine State.at_putWays_other t b d (List.range 4) s fun w hw => ?_
    have := List.mem_range.1 hw
    omega
  · subst hp
    have hk : u.tKind t = s.tKind t := by
      rw [hu]
      exact s.tKind_shadowItem t _ _ _ _
    have hfound : u.find t (e.take (keyBytes (u.tKind t))) bad = ((u.find t (e.take (keyBytes (s.tKind t))) bad).1, some (j, e)) := by
      rw [hk]
      exact Prod.ext rfl hf
    refine (execShadowCompare_takes t item bad s hon ha hi hr).trans (congrArg _ ?_)
    rw [← u.compareEntry_same t (s.tab t).shadowPos item e bad (by rw [hk]; exact he) hv hfound, hu]
    rfl

end Sys2Proof.Machine
end

section
/-!
A list of words in force that is not in its canonical form: there an error that a learn request meets changes how its table is checked.
-/

namespace Sys2Proof.Machine

/-! ## Learning in a table without entries -/

/-- A learn request whose look-up finds no entry places one, made for the table as the look-up leaves it (R265, R277). -/
theorem execLearnRequest_places (t : Fin 16) (bad : List Nat) (r : LearnReq) (rest : List LearnReq) (s u : State)
    (hr : takeFirst (fun r => !r.move && r.ready) (s.tab t).learn = some (r, rest)) (hl : s.learnRuns t = true)
    (ha : s.act (EmtTable.adr t) EmtTable.access = 0) (hf : (s.modTab t fun m => { m with learn := rest }).find t r.key bad = (u, none)) :
    exec (.learnRequest t bad) s = .next (u.place t (u.learnedEntry t r.key r.port) true bad).1 := by
  change execLearnRequest t bad s = _
  simp [execLearnRequest, hr, hl, ha, hf]

theorem EmtTab.at_empty {m : EmtTab} (h : m.slots = []) (i : Nat) : m.at_ i = none := by
  rw [EmtTab.at_, h, sfind]

theorem EmtTab.freeWay_empty {m : EmtTab} (h : m.slots = []) (b : Nat) : m.freeWay b = some (4 * b) := by
  simp [EmtTab.freeWay, EmtTab.freeSlot, EmtTab.at_empty h, List.range_succ]

/-- A free way in the first bucket of its key takes a new entry (R261). -/
theorem State.place_freeWay (s : State) (t : Nat) (e : List Byte) (hit : Bool) (bad : List Nat) (i : Nat)
    (h : (s.tab t).freeWay (s.candidates t (e.take (keyBytes (s.tKind t)))).1 = some i) :
    s.place t e hit bad = (s.putSlot t i e hit, emOK) := by
  have hengine : s.engine t e hit bad = (s.putSlot t i e hit, emOK) := by
    simp only [State.engine, h]
  simp [State.place, hengine, emOK, emTABLE_FULL]

section
variable (s : State) (t : Nat) (hs : (s.tab t).slots = [])
include hs

theorem State.slotOf_empty (key : List Byte) : s.slotOf t key = none := by
  refine List.findSome?_eq_none_iff.2 fun i _ => ?_
  rw [EmtTab.at_empty hs]

theorem State.slots_place_empty (ht : t < s.emt.tabs.length) (e : List Byte) (hit : Bool) (bad : List Nat) :
    ∃ i, ((s.place t e hit bad).1.tab t).slots = [(i, e)] := by
  refine ⟨4 * (s.candidates t (e.take (keyBytes (s.tKind t)))).1, ?_⟩
  rw [s.place_freeWay t e hit bad _ (EmtTab.freeWay_empty hs _), s.slots_putSlot t _ e hit ht, hs, sins]

/-- Which entry has been placed can be read off the table. -/
theorem State.place_empty_inj (ht : t < s.emt.tabs.length) {e x : List Byte} {hit : Bool} {bad : List Nat}
    (h : (s.place t e hit bad).1 = (s.place t x hit bad).1) : e = x := by
  obtain ⟨i, hi⟩ := s.slots_place_empty t hs ht e hit bad
  obtain ⟨j, hj⟩ := s.slots_place_empty t hs ht x hit bad
  rw [h, hj] at hi
  exact (Prod.mk.inj (List.cons.inj hi).1).2.symm

end

/-! ## Buckets whose read is uncorrectable -/

/-- Table `t` without what its slots `is` held. -/
def State.slotsLost (s : State) (t : Nat) (is : List Nat) : State :=
  (s.modTab t fun m =>
    { m with slots := m.slots.filter fun p => !is.contains p.1, hits := m.hits.filter fun i => !is.contains i }).syncTab t

/-- A bucket of bank `m` that is lost raises BUCKET_ERROR, and its bank is to be retired (R278, R504). -/
theorem State.loseBuckets_bank (s : State) (t b m : Nat) (hm : ((bucketSlots b).filterMap (s.slotBank t)).eraseDups = [m]) :
    s.loseBuckets t [b] = ((s.slotsLost t (bucketSlots b)).emtEvent 8 ((s.slotsLost t (bucketSlots b)).tabDetail t)).uncorrectable rkTABLE m := by
  have heq : s.loseBuckets t [b] =
      (([b].flatMap bucketSlots).filterMap (s.slotBank t)).eraseDups.foldl (fun s b => s.uncorrectable rkTABLE b)
        ((s.slotsLost t ([b].flatMap bucketSlots)).emtEvent 8 ((s.slotsLost t ([b].flatMap bucketSlots)).tabDetail t)) := rfl
  rw [heq, List.flatMap_singleton, hm, List.foldl_cons, List.foldl_nil]

/-- The look-up of a key in a table that the loss of its buckets leaves empty finds nothing (R256, R278). -/
theorem State.find_lost (s u : State) (t : Nat) (key : List Byte) (bad lost : List Nat)
    (hl : [(s.candidates t key).1, (s.candidates t key).2, stashBase / 4].filter bad.contains = lost) (hne : lost ≠ [])
    (hu : s.loseBuckets t lost = u) (hs : (u.tab t).slots = []) : s.find t key bad = (u, none) := by
  have hsome : lost.isEmpty = false := Bool.eq_false_iff.2 fun h => hne (List.isEmpty_iff.1 h)
  simp only [State.find, hl, hsome, Bool.false_eq_true, if_false, hu, u.slotOf_empty t hs]

/-- An event that its hold-off keeps back changes nothing (R251). -/
theorem State.emtEvent_heldOff (s : State) (n d since : Nat) (h : sfind s.heldOff (16 * 11 + n) = some since)
    (hn : s.ticks < since + s.act EmtHoldoff.adr EmtHoldoff.microseconds * ticksPerUs) : s.emtEvent n d = s := by
  rw [State.emtEvent, State.raiseHeld, h]
  exact if_pos hn

/-- An uncorrectable error in a bank of the tables that serves, with no reserve free, moves U11 to ERROR (R506). -/
theorem State.uncorrectable_unreserved (s : State) (b m : Nat) (hm : (s.kind rkTABLE).duty.getD b b = m)
    (hr : s.retired rkTABLE m = false) (hc : (s.kind rkTABLE).copy = none) (i : Nat)
    (hi : (s.kind rkTABLE).duty.findIdx? (· == m) = some i) (hf : s.freeReserve rkTABLE = none) :
    s.uncorrectable rkTABLE b = (s.setUnit 11 stERROR 0x40).raise 23 10 rkTABLE := by
  have hd : (s.kind rkTABLE).duty.contains m = true := by
    obtain ⟨h, h2, -⟩ := List.findIdx?_eq_some_iff_getElem.1 hi
    rw [List.contains_iff_mem, ← beq_iff_eq.1 h2]
    exact List.getElem_mem h
  simp only [State.uncorrectable, State.retireBank, hm, hr, hc, hd, hf, State.reserveLost, hi, bankOwner, Bool.not_true,
    Bool.false_eq_true, if_false, if_true]

theorem State.parityMode_raise (s : State) (t : Nat) (ht : t < 16) (u n d : Nat) : (s.raise u n d).parityMode t = s.parityMode t := by
  have hq : EmtTable.errmode.Quiet (EmtTable.adr t) := by
    intro j hj
    have h1 : EmtTable.errmode.words = 1 := rfl
    have h2 : EmtTable.errmode.off = 0 := rfl
    unfold QuietWord EmtTable.adr
    omega
  rw [State.parityMode, s.act_raise u n d _ _ hq, State.parityMode]

/-! ## The state -/

/-- A request of port 7, whose learned entry has odd parity. -/
def oddLearner : LearnReq := { key := [2, 0, 0, 0, 0, 9, 0, 1], port := 7, frame := 0, ready := true, move := false }

/-- U11 is READY, its BUCKET_ERROR is held off, and no bank of the tables is held in reserve. Table 0 has the request, and its first
setup word stands twice among the words in force: as it was written, and behind that with ERRMODE set. -/
def twiceSet : State :=
  let s := ((State.reset.set (Hdr.adr 11) Hdr.state stREADY).set (SvcKind.adr rkTABLE) SvcKind.reserveMap 0).set EmtHoldoff.adr
    EmtHoldoff.microseconds 1
  { s with
    heldOff := [(16 * 11 + 8, 0)]
    force := (EmtTable.adr 0, s.rd (EmtTable.adr 0)) :: (EmtTable.adr 0, s.rd (EmtTable.adr 0) ||| 0x1000000#32) :: s.force
    emt := { s.emt with tabs := s.emt.tabs.modify 0 fun m => { m with learn := [oddLearner] } } }

/-- `twiceSet` with the request taken. -/
def learnerTaken : State := twiceSet.modTab 0 fun m => { m with learn := [] }

/-- The first bucket of the request's key: its read is uncorrectable. -/
def lostBucket : Nat := (learnerTaken.candidates 0 oddLearner.key).1

/-- `learnerTaken` with nothing in that bucket. -/
def bucketCleared : State := learnerTaken.slotsLost 0 (bucketSlots lostBucket)

theorem twiceSet_learns : takeFirst (fun r => !r.move && r.ready) (twiceSet.tab 0).learn = some (oddLearner, []) ∧
    twiceSet.learnRuns 0 = true ∧ twiceSet.act (EmtTable.adr 0) EmtTable.access = 0 := by
  decide +kernel

/-- The bucket lies in bank 0, whose retirement finds no reserve. -/
theorem lostBucket_bank :
    [(learnerTaken.candidates 0 oddLearner.key).1, (learnerTaken.candidates 0 oddLearner.key).2, stashBase / 4].filter
      [lostBucket].contains = [lostBucket] ∧
    ((bucketSlots lostBucket).filterMap (learnerTaken.slotBank 0)).eraseDups = [0] := by
  decide +kernel

theorem bucketCleared_unreserved : (bucketCleared.kind rkTABLE).duty.getD 0 0 = 0 ∧ bucketCleared.retired rkTABLE 0 = false ∧
    (bucketCleared.kind rkTABLE).copy = none ∧ (bucketCleared.kind rkTABLE).duty.findIdx? (· == 0) = some 0 ∧
    bucketCleared.freeReserve rkTABLE = none := by
  decide +kernel

theorem bucketCleared_heldOff : sfind bucketCleared.heldOff (16 * 11 + 8) = some 0 ∧
    bucketCleared.ticks < 0 + bucketCleared.act EmtHoldoff.adr EmtHoldoff.microseconds * ticksPerUs := by
  decide +kernel

theorem bucketCleared_table : bucketCleared.ustate 11 = stREADY ∧ (bucketCleared.tab 0).slots = [] ∧ 0 < bucketCleared.emt.tabs.length := by
  decide +kernel

/-- The move of U11 to ERROR goes through its words in force, drops the first of the two, and leaves ERRMODE set. -/
theorem parityMode_changes : learnerTaken.parityMode 0 = false ∧ (bucketCleared.unitMoved 11 stERROR 0x40).parityMode 0 = true := by
  decide +kernel

/-- What the look-up of the request's key leaves of `learnerTaken`. -/
def bucketLost : State := (bucketCleared.setUnit 11 stERROR 0x40).raise 23 10 rkTABLE

theorem learnerTaken_loses : learnerTaken.loseBuckets 0 [lostBucket] = bucketLost := by
  obtain ⟨hduty, hretired, hcopy, hserves, hreserve⟩ := bucketCleared_unreserved
  obtain ⟨hheld, hticks⟩ := bucketCleared_heldOff
  obtain ⟨-, hbanks⟩ := lostBucket_bank
  have hcleared : learnerTaken.slotsLost 0 (bucketSlots lostBucket) = bucketCleared := rfl
  rw [learnerTaken.loseBuckets_bank 0 lostBucket 0 hbanks, hcleared, bucketCleared.emtEvent_heldOff 8 _ 0 hheld hticks]
  exact bucketCleared.uncorrectable_unreserved 0 0 hduty hretired hcopy 0 hserves hreserve

theorem emt_bucketLost : bucketLost.emt = bucketCleared.emt := by
  rw [bucketLost, State.raise_emt, State.setUnit_emt]

theorem slots_bucketLost : (bucketLost.tab 0).slots = [] := by
  rw [State.tab, emt_bucketLost]
  exact bucketCleared_table.2.1

theorem learnerTaken_finds : learnerTaken.find 0 oddLearner.key [lostBucket] = (bucketLost, none) := by
  obtain ⟨hlost, -⟩ := lostBucket_bank
  exact learnerTaken.find_lost bucketLost 0 oddLearner.key [lostBucket] [lostBucket] hlost (List.cons_ne_nil _ _) learnerTaken_loses
    slots_bucketLost

theorem parityMode_bucketLost : bucketLost.parityMode 0 = true := by
  obtain ⟨hready, -, -⟩ := bucketCleared_table
  have hne : bucketCleared.ustate 11 ≠ stERROR := by
    rw [hready]
    decide
  rw [bucketLost, State.parityMode_raise _ 0 (by decide), State.setUnit_eq, if_neg hne, State.parityMode_raise _ 0 (by decide)]
  exact parityMode_changes.2

/-- The entries made for the table before its look-up and after it differ in their parity bit (R277). -/
theorem learnedEntry_bucketLost :
    bucketLost.learnedEntry 0 oddLearner.key oddLearner.port ≠ learnerTaken.learnedEntry 0 oddLearner.key oddLearner.port := by
  simp only [State.learnedEntry, parityMode_bucketLost, parityMode_changes.1]
  decide +kernel

/-- Refutes O29: that a learn request places the entry made for the table before its look-up fails in a state that lists a word in force
twice. There the look-up's uncorrectable read moves U11 to ERROR, which drops the first of two values that the setup word of the table
has in force, and the second sets ERRMODE. -/
theorem not_tableCommandsLearningAndAging : ¬ Obligations.TableCommandsLearningAndAging := by
  unfold Obligations.TableCommandsLearningAndAging
  rintro ⟨-, -, -, -, -, -, -, hlearn, -⟩
  obtain ⟨hreq, hruns, haccess⟩ := twiceSet_learns
  have hclaimed := hlearn 0 [lostBucket] oddLearner [] twiceSet hreq hruns haccess (congrArg Prod.snd learnerTaken_finds)
  have hplaced := execLearnRequest_places 0 [lostBucket] oddLearner [] twiceSet bucketLost hreq hruns haccess learnerTaken_finds
  have hfind : (twiceSet.modTab ((0 : Fin 16) : Nat) fun m => { m with learn := [] }).find ((0 : Fin 16) : Nat) oddLearner.key
      [lostBucket] = (bucketLost, none) := learnerTaken_finds
  rw [hfind] at hclaimed
  have hsame := Host.Outcome.next.inj (hplaced.symm.trans hclaimed)
  have hin : 0 < bucketLost.emt.tabs.length := by
    rw [emt_bucketLost]
    exact bucketCleared_table.2.2
  exact learnedEntry_bucketLost (bucketLost.place_empty_inj 0 slots_bucketLost hin hsame)

end Sys2Proof.Machine
end

section
/-!
The traffic manager: what an enqueue leaves in the queues, the decision of a port, and what the selection finds.
-/

namespace Sys2Proof.Machine

/-! ## The queues under the operations of the traffic manager -/

theorem State.tmq_congr {s u : State} (h : u.tm.queues = s.tm.queues) (q : Nat) : u.tmq q = s.tmq q := by
  rw [State.tmq, State.tmq, h]

theorem State.tmq_setTmq (s : State) (q : Nat) (l : List TmFrame) (j : Nat) :
    (s.setTmq q l).tmq j = if j = q then l else s.tmq j :=
  sget_sput [] s.tm.queues q j l

@[simp] theorem State.queues_leaveRing (s : State) (p c q : Nat) : (s.leaveRing p c q).tm.queues = s.tm.queues := rfl

@[simp] theorem State.queues_joinRing (s : State) (p c q : Nat) : (s.joinRing p c q).tm.queues = s.tm.queues := by
  rw [State.joinRing]
  split <;> rfl

theorem State.tmq_served (s : State) (p c : Nat) (y : ClassSlice) (q : Nat) (ring : List (Nat × Int)) (j : Nat) :
    (s.served p c y q ring).tmq j = s.tmq j := rfl

@[simp] theorem State.freeInput_tm (s : State) (f : TmFrame) : (s.freeInput f).tm = s.tm := by
  rw [State.freeInput]
  split
  · exact s.set_tm _ _ _
  · rfl

theorem State.tmq_freeInput (s : State) (f : TmFrame) (j : Nat) : (s.freeInput f).tmq j = s.tmq j :=
  State.tmq_congr (congrArg Tm.queues (s.freeInput_tm f)) j

theorem State.tmq_queueIdle (s : State) (q j : Nat) : (s.queueIdle q).tmq j = s.tmq j := by
  rw [State.queueIdle]
  split
  · exact State.tmq_congr (congrArg Tm.queues (s.latchB_tm _)) j
  · rfl

/-! ## The enqueue (R300–R302) -/

/-- The frame `f` as it stands in its queue: stamped with the instant, its cells its input's no more, and marked where the queue's
ECN asks for it (R302). -/
def State.stamped (s : State) (f : TmFrame) : TmFrame :=
  { f with since := s.lineNs, input := none, edit := { f.edit with
    ce := s.actB (TmQueue.adr f.queue) TmQueue.ecnEn && decide (s.act (TmQueue.adr f.queue) TmQueue.ecnThreshold ≤ s.tmDepth f.queue) &&
      ecnCapable f } }

/-- The frame `f` stands last in its queue. -/
def State.stood (s : State) (f : TmFrame) : State :=
  (s.freeInput f).setTmq f.queue (s.tmq f.queue ++ [s.stamped f])

/-- The queue of `f` becomes backlogged in its class (R307). -/
def State.backlogs (s : State) (f : TmFrame) : State :=
  (s.leaveRing f.port (s.tmClass f.queue) f.queue).joinRing f.port (s.tmClass f.queue) f.queue

theorem State.tmq_backlogs (s : State) (f : TmFrame) (j : Nat) : (s.backlogs f).tmq j = s.tmq j :=
  State.tmq_congr (by simp [State.backlogs]) j

theorem State.tmq_stood (s : State) (f : TmFrame) (j : Nat) :
    (s.stood f).tmq j = if j = f.queue then s.tmq f.queue ++ [s.stamped f] else s.tmq j := by
  rw [State.stood, State.tmq_setTmq, State.tmq_freeInput]

section
variable (f : TmFrame) (s : State)

theorem State.enqueue_fcsFailed (hf : f.fcs ≠ some true) :
    s.enqueue f = (s.freeInput f).bump (TmPort.adr f.port) TmPort.fcsDrop := by
  rw [State.enqueue, if_pos hf, State.tmDrop]

theorem State.enqueue_disabled (hf : f.fcs = some true)
    (hq : s.actB (TmQueue.adr f.queue) TmQueue.enable = false ∨ s.tmPort f.queue ≠ f.port) :
    s.enqueue f = (s.freeInput f).bump (TmPort.adr f.port) TmPort.disabledDrop := by
  have hoff : (!(s.actB (TmQueue.adr f.queue) TmQueue.enable && s.tmPort f.queue == f.port)) = true := by
    rcases hq with hen | hport
    · simp [hen]
    · simp [hport]
  rw [State.enqueue, if_neg (not_not_intro hf), if_pos hoff, State.tmDrop]

variable (hf : f.fcs = some true) (hen : s.actB (TmQueue.adr f.queue) TmQueue.enable = true) (hport : s.tmPort f.queue = f.port)
include hf hen hport

theorem State.enqueue_full (hmax : s.act (TmQueue.adr f.queue) TmQueue.max < s.tmDepth f.queue + cellsOf f.bytes.length) :
    s.enqueue f = (s.freeInput f).bump (TmPort.adr f.port) TmPort.queueDrop := by
  simp [State.enqueue, State.tmDrop, hf, hen, hport, hmax]

variable (hmax : s.tmDepth f.queue + cellsOf f.bytes.length ≤ s.act (TmQueue.adr f.queue) TmQueue.max)
include hmax

theorem State.enqueue_yellow (hy : f.yellow = true)
    (hlim : s.act (TmQueue.adr f.queue) TmQueue.yellowLimit < s.tmDepth f.queue + cellsOf f.bytes.length) :
    s.enqueue f = (s.freeInput f).bump (TmPort.adr f.port) TmPort.yellowDrop := by
  simp [State.enqueue, State.tmDrop, hf, hen, hport, Nat.not_lt.mpr hmax, hy, hlim]

/-- A frame that no check drops stands in its queue, which becomes backlogged when it was empty. -/
theorem State.enqueue_stands (hy : f.yellow = false) (hpool : f.input ≠ none ∨ cellsOf f.bytes.length ≤ s.poolFree) :
    s.enqueue f = if (s.tmq f.queue).isEmpty then (s.stood f).backlogs f else s.stood f := by
  have hroom : ¬(f.input = none ∧ s.poolFree < cellsOf f.bytes.length) := by
    rintro ⟨hin, hlt⟩
    exact hpool.elim (· hin) (Nat.not_le.mpr hlt)
  simp only [State.enqueue, hf, hen, hport, hy, if_neg (Nat.not_lt.mpr hmax), if_neg hroom, State.stood, State.stamped, State.backlogs]
  simp

theorem State.tmq_enqueue (hy : f.yellow = false) (hpool : f.input ≠ none ∨ cellsOf f.bytes.length ≤ s.poolFree) (j : Nat) :
    (s.enqueue f).tmq j = if j = f.queue then s.tmq f.queue ++ [s.stamped f] else s.tmq j := by
  rw [s.enqueue_stands f hf hen hport hmax hy hpool, ← State.tmq_stood]
  split
  · exact State.tmq_backlogs _ f j
  · rfl

end

theorem execTmEnqueue_known (f : TmFrame) (rest : List TmFrame) (s : State) (hon : s.tmOn = true)
    (hk : takeKnown s.tm.arriving = some (f, rest)) : execTmEnqueue s =
      .next ((({ s with tm := { s.tm with arriving := rest } } : State).startClocks [ckTM]).enqueue f) := by
  simp only [execTmEnqueue, hon, hk, if_true]

/-! ## The selection (R304–R307) -/

/-- Deficit round robin serves an eligible queue (R306). -/
theorem drr_elig (len quantum : Nat → Int) (elig : Nat → Bool) (n : Nat) (l : List (Nat × Int)) (g : Bool) (q : Nat)
    (ring : List (Nat × Int)) (h : drr len quantum elig n l g = some (q, ring)) : elig q = true := by
  fun_induction drr len quantum elig n l g with
  | case1 => cases h
  | case2 => cases h
  | case3 n j d rest g hj ih => exact ih h
  | case4 n j d rest g hj d1 hlen =>
    cases h
    simpa using hj
  | case5 n j d rest g hj d1 hlen ih => exact ih h

theorem State.drrNext_elig (s : State) (elig : Nat → Bool) (y : ClassSlice) (q : Nat) (ring : List (Nat × Int))
    (h : s.drrNext elig y = some (q, ring)) : elig q = true := by
  rw [State.drrNext] at h
  split at h
  · exact drr_elig _ _ _ _ _ _ _ _ h
  · cases h

theorem bestSlice_mem (l : List ClassSlice) (y : ClassSlice) (h : bestSlice l = some y) : y ∈ l := by
  induction l generalizing y with
  | nil => cases h
  | cons x xs ih =>
    rw [bestSlice] at h
    split at h
    · cases h
      exact List.mem_cons_self
    · rename_i z hz
      split at h
      · cases h
        exact List.mem_cons_self
      · cases h
        exact List.mem_cons_of_mem x (ih _ hz)

/-- The slices of class `c` of port `p` in which a queue is eligible. -/
def State.ableSlices (s : State) (p : Nat) (ok : Nat → Bool) (c : Nat) : List ClassSlice :=
  (s.cls p c).slices.filter fun y => y.ring.any fun z => s.queueOk p c z.1 && ok z.1

/-- What class `c` of port `p` has to serve. -/
def State.selectIn (s : State) (p : Nat) (ok : Nat → Bool) (c : Nat) : Option (Nat × ClassSlice × Nat × List (Nat × Int)) :=
  if !s.shOk (s.classShaper p c) then none
  else (bestSlice (s.ableSlices p ok c)).bind fun y =>
    (s.drrNext (fun q => s.queueOk p c q && ok q) y).map fun (q, ring) => (c, y, q, ring)

/-- The classes in the order in which a decision looks at them (R304). -/
def classesDown : List Nat := [7, 6, 5, 4, 3, 2, 1, 0]

theorem mem_classesDown (c : Nat) : c ∈ classesDown ↔ c < 8 := by
  simp only [classesDown, List.mem_cons, List.not_mem_nil, or_false]
  omega

theorem classesDown_falling : classesDown.Pairwise (· > ·) := by
  decide

theorem State.select_eq (s : State) (p : Nat) (ok : Nat → Bool) : s.select p ok = classesDown.findSome? (s.selectIn p ok) := rfl

/-- A class that has nothing to serve is stopped by its shaper, or deficit round robin finds no queue in its best slice. -/
theorem State.drrNext_of_selectIn_none (s : State) (p : Nat) (ok : Nat → Bool) (c : Nat) (z : ClassSlice) (h : s.selectIn p ok c = none)
    (hsh : s.shOk (s.classShaper p c) = true) (hz : bestSlice (s.ableSlices p ok c) = some z) :
    s.drrNext (fun q => s.queueOk p c q && ok q) z = none := by
  simpa [State.selectIn, hsh, hz] using h

theorem State.queueOk_backlogged (s : State) (p c q : Nat) (h : s.queueOk p c q = true) : s.tmq q ≠ [] := by
  intro hnil
  simp [State.queueOk, hnil] at h

section
variable {p : Nat} {ok : Nat → Bool} {c : Nat} {y : ClassSlice} {q : Nat} {ring : List (Nat × Int)} {s : State}

/-- What a class serves is of that class: its shaper allows it, the slice is the best one, and deficit round robin chose the queue. -/
theorem State.selectIn_some {d : Nat} (h : s.selectIn p ok d = some (c, y, q, ring)) :
    d = c ∧ s.shOk (s.classShaper p c) = true ∧ bestSlice (s.ableSlices p ok c) = some y ∧
      s.drrNext (fun q => s.queueOk p c q && ok q) y = some (q, ring) := by
  rw [State.selectIn] at h
  split at h
  · cases h
  · rename_i hsh
    obtain ⟨z, hz, hmap⟩ := Option.bind_eq_some_iff.mp h
    obtain ⟨⟨j, l⟩, hnext, heq⟩ := Option.map_eq_some_iff.mp hmap
    cases heq
    exact ⟨rfl, by simpa using hsh, hz, hnext⟩

/-- The class selected has the frame, and each class above it has none. -/
theorem State.select_some (h : s.select p ok = some (c, y, q, ring)) :
    c < 8 ∧ s.selectIn p ok c = some (c, y, q, ring) ∧ ∀ d, c < d → d < 8 → s.selectIn p ok d = none := by
  rw [State.select_eq] at h
  obtain ⟨above, e, below, hsplit, he, hnone⟩ := List.findSome?_eq_some_iff.mp h
  obtain ⟨rfl, -⟩ := State.selectIn_some he
  have hfall := classesDown_falling
  rw [hsplit, List.pairwise_append] at hfall
  obtain ⟨-, hbelow, -⟩ := hfall
  refine ⟨(mem_classesDown e).mp (by simp [hsplit]), he, fun d hd hd8 => hnone d ?_⟩
  have hmem : d ∈ above ++ e :: below := hsplit ▸ (mem_classesDown d).mpr hd8
  rcases List.mem_append.mp hmem with hin | hin
  · exact hin
  · rcases List.mem_cons.mp hin with rfl | hin
    · exact absurd hd (Nat.lt_irrefl d)
    · exact absurd hd (Nat.lt_asymm (List.rel_of_pairwise_cons hbelow hin))

theorem State.select_eligible (h : s.select p ok = some (c, y, q, ring)) :
    c < 8 ∧ s.shOk (s.classShaper p c) = true ∧ s.queueOk p c q = true ∧ ok q = true ∧ y ∈ (s.cls p c).slices ∧ s.tmq q ≠ [] := by
  obtain ⟨hc, hsel, -⟩ := State.select_some h
  obtain ⟨-, hsh, hbest, hnext⟩ := State.selectIn_some hsel
  obtain ⟨hq, hok⟩ := (Bool.and_eq_true _ _).mp (s.drrNext_elig _ y q ring hnext)
  exact ⟨hc, hsh, hq, hok, (List.mem_filter.mp (bestSlice_mem _ y hbest)).1, s.queueOk_backlogged p c q hq⟩

end

/-! ## The frame taken, and the decision (R308) -/

/-- The shapers of the class and of the queue are charged with `n` bytes, and the queue's visit latches its settings. -/
def State.visited (s : State) (p c q n : Nat) : State :=
  let s1 := if s.shOn (s.classShaper p c) then s.putClassTokens p c (s.charge (s.classShaper p c) n) else s
  let s2 := if s.shOn (s.queueShaper q) then s1.putQueueTokens q (s1.charge (s1.queueShaper q) n) else s1
  s2.latchB fun x e => x == .visit && e == TmQueue.adr q

theorem State.tmq_visited (s : State) (p c q n j : Nat) : (s.visited p c q n).tmq j = s.tmq j := by
  refine State.tmq_congr ?_ j
  simp only [State.visited, State.latchB_tm]
  split <;> split <;> rfl

theorem State.take_head (s : State) (p c : Nat) (y : ClassSlice) (q : Nat) (ring : List (Nat × Int)) (f : TmFrame) (rest : List TmFrame)
    (h : s.tmq q = f :: rest) :
    s.take p c y q ring = (((s.visited p c q (s.charged f)).setTmq q rest).served p c y q ring).queueIdle q := by
  simp only [State.take, h, State.visited]

theorem State.tmq_take (s : State) (p c : Nat) (y : ClassSlice) (q : Nat) (ring : List (Nat × Int)) (f : TmFrame) (rest : List TmFrame)
    (h : s.tmq q = f :: rest) (j : Nat) : (s.take p c y q ring).tmq j = if j = q then rest else s.tmq j := by
  rw [s.take_head p c y q ring f rest h, State.tmq_queueIdle, State.tmq_served, State.tmq_setTmq, State.tmq_visited]

/-- The head frames of port `p` that can never start have been dropped (R314), after the settings of the decision. -/
def State.shortened (s : State) (p : Nat) : State :=
  (((s.decisionLatch p).tidy p).backlog p).foldl (fun (s : State) x => s.dropLong p x.1 (s.tmq x.2).length x.2)
    ((s.decisionLatch p).tidy p)

/-- The state in which port `p` selects. -/
def State.settledFor (s : State) (p : Nat) : State :=
  (if p = 24 then (s.shortened p).hostPurge else s.shortened p).tidy p

/-- A queue of port 24 may be served when its receive queue takes the frame (R372). -/
def State.receiverOk (s : State) (p q : Nat) : Bool := p != 24 || s.rxTakes (q - 12288)

section
variable (p : Fin 25) (s : State)

theorem execTmDecision_held (h : s.ready 13 = false) : execTmDecision p s = .next s := by
  simp [execTmDecision, h]

variable (hr : s.ready 13 = true) (hp : s.portSends p = true)
include hr hp

theorem execTmDecision_none (h : (s.settledFor p).select p ((s.settledFor p).receiverOk p) = none) :
    execTmDecision p s = .next (s.settledFor p) := by
  rw [execTmDecision, if_pos ((Bool.and_eq_true _ _).mpr ⟨hr, hp⟩)]
  extract_lets s1 s2 s3
  have hs3 : s3 = s.settledFor p := rfl
  clear_value s3
  rw [← hs3] at h ⊢
  unfold State.receiverOk at h
  simp only [h]

theorem execTmDecision_selects (c : Nat) (y : ClassSlice) (q : Nat) (ring : List (Nat × Int)) (f : TmFrame) (rest : List TmFrame)
    (h : (s.settledFor p).select p ((s.settledFor p).receiverOk p) = some (c, y, q, ring)) (hq : (s.settledFor p).tmq q = f :: rest) :
    execTmDecision p s = .next (if p.val = 24 then ((s.settledFor p).take p c y q ring).rxDeliver (q - 12288) f
      else ((s.settledFor p).take p c y q ring).leave p f) := by
  rw [execTmDecision, if_pos ((Bool.and_eq_true _ _).mpr ⟨hr, hp⟩)]
  extract_lets s1 s2 s3
  have hs3 : s3 = s.settledFor p := rfl
  clear_value s3
  rw [← hs3] at h hq ⊢
  unfold State.receiverOk at h
  simp only [h, hq]

end

/-- Settles O32: the checks of an enqueue in their order, the decision of a port, and the class, queue and frame that it selects. -/
theorem framesAreEnqueuedAndSelected : Obligations.FramesAreEnqueuedAndSelected := by
  unfold Obligations.FramesAreEnqueuedAndSelected
  refine ⟨execTmEnqueue_known, State.enqueue_fcsFailed, State.enqueue_disabled, State.enqueue_full, State.enqueue_yellow, ?_, ?_,
    fun _ _ _ _ _ _ _ => State.select_eligible, ?_, ?_, execTmDecision_held⟩
  · intro f s hf hen hport hmax hy hpool
    have htmq := s.tmq_enqueue f hf hen hport hmax hy hpool
    exact ⟨s.stamped f, by rw [htmq, if_pos rfl], rfl, rfl, rfl, rfl, fun q hq => by rw [htmq, if_neg hq]⟩
  · intro p s u hr hp hu
    have hu : u = s.settledFor p := hu
    rw [hu]
    exact ⟨execTmDecision_none p s hr hp, execTmDecision_selects p s hr hp⟩
  · intro p ok c d y q ring s h hcd hd hsh z hz
    obtain ⟨-, -, habove⟩ := State.select_some h
    exact s.drrNext_of_selectIn_none p ok d z (habove d hcd hd) hsh hz
  · intro p c y q ring f rest s h
    have htmq := s.tmq_take p c y q ring f rest h
    exact ⟨by rw [htmq, if_pos rfl], fun j hj => by rw [htmq, if_neg hj]⟩

end Sys2Proof.Machine
end

section
/-!
An event in staging whose number no event has: its route would stand at SVC_STAGING, which the removal of the event writes.
-/

namespace Sys2Proof.Machine

/-- An event for the host, with the number whose route would stand at the address of SVC_STAGING; the 384 events have routes below it. -/
def beyondRoutes : Staged := { ev := 0x22D406, stamp := 0, detail := 0, host := true, mgt := none }

/-- One event is staged, `beyondRoutes`. Read as its route, SVC_STAGING with LOST and USED = 1 is enabled and names event queue 1, which
runs in the share of slice 0. -/
def misrouted : State :=
  let s := (State.reset.set (HifSlice.adr 0) HifSlice.state slBOUND).set (qAdr qkEV 1) QeTxq.state qsRUNNING
  { (s.set SvcStaging.adr SvcStaging.lost 1).set SvcStaging.adr SvcStaging.used 1 with staged := [beyondRoutes] }

/-- `misrouted` once its event has left staging: the route reads USED = 0 now, and names event queue 0. -/
def unrouted : State := ({ misrouted with staged := [] } : State).set SvcStaging.adr SvcStaging.used 0

theorem misrouted_meets : takeStaged misrouted.evHeld misrouted.staged = some (beyondRoutes, []) ∧
    misrouted.actB (HifRoute.adr beyondRoutes.ev) HifRoute.enable = true ∧
    misrouted.act (HifRoute.adr beyondRoutes.ev) HifRoute.evq = 1 := by
  decide +kernel

theorem unrouted_names : unrouted.actB (HifRoute.adr beyondRoutes.ev) HifRoute.enable = true ∧
    unrouted.act (HifRoute.adr beyondRoutes.ev) HifRoute.evq = 0 ∧ unrouted.qState qkEV 0 ≠ qsRUNNING := by
  decide +kernel

/-- Event queue 1 runs, under a function that may not issue requests. -/
theorem unrouted_cut : unrouted.qState qkEV 1 = qsRUNNING ∧ (unrouted.qst qkEV 1).drain = none ∧
    unrouted.qVia qkEV 1 = some (0, some 0) ∧ unrouted.issues 0 = false := by
  decide +kernel

/-- The route is read once the event has left staging, and event queue 0 does not run: the event is discarded. -/
theorem execEventRingWrite_misrouted : execEventRingWrite misrouted = .next unrouted := by
  obtain ⟨htake, -, -⟩ := misrouted_meets
  obtain ⟨hon, hq, hidle⟩ := unrouted_names
  have hdiscards : unrouted.evDeliver 0 beyondRoutes = unrouted := if_pos (.inl hidle)
  unfold execEventRingWrite
  rw [htake]
  change Host.Outcome.next (if unrouted.actB (HifRoute.adr beyondRoutes.ev) HifRoute.enable = true then _ else _) = _
  rw [if_pos hon]
  change Host.Outcome.next (unrouted.evDeliver (unrouted.act (HifRoute.adr beyondRoutes.ev) HifRoute.evq) beyondRoutes) = _
  rw [hq, hdiscards]

/-- Delivered to event queue 1, the event halts it. -/
theorem qState_evDeliver_unrouted : (unrouted.evDeliver 1 beyondRoutes).qState qkEV 1 = qsHALTED := by
  obtain ⟨hrun, hdrain, hvia, hcut⟩ := unrouted_cut
  have hreaches : unrouted.evDeliver 1 beyondRoutes = unrouted.qHalt qkEV 1 (unrouted.cutReason 0) := by
    refine (if_neg ?_).trans (State.qPresent_cut hvia hcut _)
    simp [hrun, hdrain, hvia]
  rw [hreaches, State.qHalt, if_pos hrun]
  exact State.qState_qStop _ _ _ _ _ _ (by decide) (by decide)

/-- Refutes O44: that the first staged event goes to the queue that its route named before it left staging fails in a state in which the
event's number is none of the 384. The route of that number would stand at SVC_STAGING, and the removal of the event writes USED, by
which the route names another queue. -/
theorem not_ringsCarryEntriesFramesAndEvents : ¬ Obligations.RingsCarryEntriesFramesAndEvents := by
  unfold Obligations.RingsCarryEntriesFramesAndEvents
  rintro ⟨-, -, -, -, -, -, -, -, -, hwrite, -⟩
  obtain ⟨htake, hon, hq⟩ := misrouted_meets
  have hclaimed := (hwrite beyondRoutes [] misrouted htake).1 hon
  rw [hq] at hclaimed
  have hsame : unrouted = unrouted.evDeliver 1 beyondRoutes :=
    Host.Outcome.next.inj (execEventRingWrite_misrouted.symm.trans hclaimed)
  have hhalts := qState_evDeliver_unrouted
  rw [← hsame, unrouted_cut.1] at hhalts
  exact absurd hhalts (by decide)

end Sys2Proof.Machine
end

section
/-!
The requests of one function: what the presentation of others' requests adds to what is outstanding, and what a function's settings
keep.
-/

namespace Sys2Proof.Machine

/-! ## Folds over functions, ropes and requests -/

/-- What each step of a fold sets up for its own item, and keeps for the others, holds of every item in the end. -/
theorem foldl_each {α : Type} {F : State → α → State} {P : α → State → Prop} (l : List α) (hnew : ∀ t, ∀ a ∈ l, P a (F t a))
    (hkeep : ∀ t, ∀ a ∈ l, ∀ b ∈ l, P b t → P b (F t a)) (s : State) : ∀ a ∈ l, P a (l.foldl F s) := by
  intro a ha
  obtain ⟨l1, l2, rfl⟩ := List.append_of_mem ha
  rw [List.foldl_append, List.foldl_cons]
  refine List.foldlRecOn l2 F (hnew _ a ha) fun t ht b hb => hkeep t b (by simp [hb]) a ha ht

/-! ## The four functions -/

section
variable (s : State) (f : Nat) (g : PfSt → PfSt)

theorem State.pf_modPf_same (hf : f < s.hif.pfs.length) : (s.modPf f g).pf f = g (s.pf f) := by
  simp [State.pf, State.modPf, hf]

theorem State.pf_modPf_other {j : Nat} (hj : j ≠ f) : (s.modPf f g).pf j = s.pf j := by
  simp [State.pf, State.modPf, Ne.symm hj]

end

/-! ## What a request adds -/

/-- From `s` to `t` reads and Translation Requests are added to the outstanding ones, of functions other than `f` only. -/
structure State.AddsElsewhere (f : Nat) (s t : State) : Prop where
  reads : ∃ l, t.hif.reads = s.hif.reads ++ l ∧ ∀ x ∈ l, x.fn ≠ f
  asked : ∃ l, t.hif.asked = s.hif.asked ++ l ∧ ∀ x ∈ l, x.1 ≠ f

section
variable {f : Nat} {s t u : State}

theorem State.AddsElsewhere.of_eq (hr : t.hif.reads = s.hif.reads) (ha : t.hif.asked = s.hif.asked) : State.AddsElsewhere f s t :=
  ⟨⟨[], by simp [hr]⟩, ⟨[], by simp [ha]⟩⟩

theorem State.AddsElsewhere.refl (s : State) : State.AddsElsewhere f s s := .of_eq rfl rfl

theorem State.AddsElsewhere.trans (h : State.AddsElsewhere f s t) (g : State.AddsElsewhere f t u) : State.AddsElsewhere f s u := by
  obtain ⟨⟨l, hl, hlf⟩, ⟨m, hm, hmf⟩⟩ := h
  obtain ⟨⟨l', hl', hlf'⟩, ⟨m', hm', hmf'⟩⟩ := g
  refine ⟨⟨l ++ l', by rw [hl', hl, List.append_assoc], ?_⟩, ⟨m ++ m', by rw [hm', hm, List.append_assoc], ?_⟩⟩
  · exact fun x hx => (List.mem_append.1 hx).elim (hlf x) (hlf' x)
  · exact fun x hx => (List.mem_append.1 hx).elim (hmf x) (hmf' x)

end

section
variable {f g : Nat} (s : State) (hg : g ≠ f)

theorem State.hif_emitParts (ro : Bool) (g : Nat) (pasid : Option Nat) (l : List (Nat × Nat)) (d : List Byte) :
    (s.emitParts ro g pasid l d).hif = s.hif := by
  induction l generalizing s d with
  | nil => rfl
  | cons x l ih => exact ih _ _

theorem State.hif_emitRead (g : Nat) (pasid : Option Nat) (l : List (Nat × Nat)) : (s.emitRead g pasid l).hif = s.hif :=
  List.foldlRecOn (motive := fun t : State => t.hif = s.hif) l _ rfl fun _ ht _ _ => ht

include hg

theorem State.adds_askPage (pasid : Option Nat) (addr n : Nat) : State.AddsElsewhere f s (s.askPage g pasid addr n) := by
  unfold State.askPage
  split
  · split
    · exact .refl s
    · exact ⟨⟨[], by simp, by simp⟩, ⟨[_], rfl, by simpa using hg⟩⟩
  · exact .refl s

theorem State.adds_putWrite (ro : Bool) (r : Option Reader) (pasid : Option Nat) (addr : Nat) (data : List Byte) :
    State.AddsElsewhere f s (s.putWrite ro r g pasid addr data) := by
  unfold State.putWrite
  split
  · exact .of_eq rfl rfl
  · split
    · exact .of_eq (by rw [State.hif_emitParts]) (by rw [State.hif_emitParts])
    · exact (s.adds_askPage hg pasid addr _).trans (.of_eq rfl rfl)

theorem State.adds_putRead (pasid : Option Nat) (addr n : Nat) (r : Reader) : State.AddsElsewhere f s (s.putRead g pasid addr n r) := by
  unfold State.putRead
  split
  · exact .of_eq rfl rfl
  · split
    · dsimp only
      split
      · exact ⟨⟨[_], by rw [State.hif_emitRead]; rfl, by simpa using hg⟩, ⟨[], by rw [State.hif_emitRead]; simp [State.addRead], by simp⟩⟩
      · exact .of_eq rfl rfl
    · exact (s.adds_askPage hg pasid addr n).trans (.of_eq rfl rfl)

omit hg in
/-- A message asks for nothing. -/
theorem State.adds_msix (g v : Nat) : State.AddsElsewhere f s (s.msix g v) := by
  unfold State.msix State.msixSend
  dsimp only
  (repeat' split) <;> exact .of_eq rfl rfl

end

/-- A request that has waited adds what is its function's. -/
theorem State.adds_present {f : Nat} (s : State) (x : Nat × XReq) (hx : x.1 ≠ f) : State.AddsElsewhere f s (s.present x) := by
  unfold State.present
  split
  · exact s.adds_msix _ _
  · exact s.adds_putWrite hx _ _ _ _ _
  · exact s.adds_putRead hx _ _ _ _

theorem State.adds_sweep {f : Nat} (s : State) (h : ∀ x ∈ s.hif.xlate, x.1 ≠ f) : State.AddsElsewhere f s s.sweep := by
  unfold State.sweep
  split
  · exact .refl s
  · exact List.foldlRecOn (motive := State.AddsElsewhere f s) _ _ (.of_eq rfl rfl)
      fun t ht x hx => ht.trans (t.adds_present x (h x hx))

/-- Once its tags are retired, and no request of it waits, nothing of a function is outstanding; the others' reads stay (R338, R339). -/
theorem State.retireReads_ends (f : Nat) (s : State) (h : ∀ x ∈ s.hif.xlate, x.1 ≠ f) :
    (∀ x ∈ (s.retireReads f).hif.reads, x.fn ≠ f) ∧ ((∀ x ∈ s.hif.asked, x.1 ≠ f) → (s.retireReads f).outstanding f = 0) ∧
      (∀ x ∈ s.hif.reads, x.fn ≠ f → x ∈ (s.retireReads f).hif.reads) := by
  obtain ⟨⟨l, hl, hlf⟩, ⟨m, hm, hmf⟩⟩ := State.adds_sweep (f := f)
    { s with hif := { s.hif with reads := s.hif.reads.filter fun x => x.fn != f } } h
  have hreads : ∀ x ∈ (s.retireReads f).hif.reads, x.fn ≠ f := by
    intro x hx
    rw [State.retireReads, hl] at hx
    obtain hx | hx := List.mem_append.1 hx
    · simpa using (List.mem_filter.1 hx).2
    · exact hlf x hx
  refine ⟨hreads, fun ha => ?_, fun x hx hxf => ?_⟩
  · have hasked : ∀ x ∈ (s.retireReads f).hif.asked, x.1 ≠ f := by
      intro x hx
      rw [State.retireReads, hm] at hx
      exact (List.mem_append.1 hx).elim (ha x) (hmf x)
    unfold State.outstanding
    rw [List.filter_eq_nil_iff.2 fun x hx => by simpa using hreads x hx, List.filter_eq_nil_iff.2 fun x hx => by simpa using hasked x hx]
    rfl
  · rw [State.retireReads, hl]
    exact List.mem_append_left _ (List.mem_filter.2 ⟨hx, by simpa using hxf⟩)

end Sys2Proof.Machine
end

section
/-!
The link and the functions: what link loss leaves of the ropes, what a link that is up again shows, and how reads fail.
-/

namespace Sys2Proof.Machine

/-! ## Ropes that lose their host (R171) -/

theorem State.length_modRope (s : State) (r : Nat) (g : RopeSt → RopeSt) : (s.modRope r g).cxe.ropes.length = s.cxe.ropes.length :=
  List.length_modify _ _ _

theorem State.rope_modRope_same (s : State) (r : Nat) (g : RopeSt → RopeSt) (hr : r < s.cxe.ropes.length) :
    (s.modRope r g).rope r = g (s.rope r) := by
  simp [State.rope, State.modRope, hr]

theorem State.rope_modRope_other (s : State) (r j : Nat) (g : RopeSt → RopeSt) (hj : j ≠ r) : (s.modRope r g).rope j = s.rope j := by
  simp [State.rope, State.modRope, Ne.symm hj]

theorem State.rope_modRopes_other (g : RopeSt → RopeSt) (r : Nat) (l : List Nat) (s : State) (hl : r ∉ l) :
    (l.foldl (fun s r => s.modRope r g) s).rope r = s.rope r :=
  List.foldlRecOn (motive := fun t : State => t.rope r = s.rope r) l _ rfl
    fun t ht j hj => (t.rope_modRope_other j r g fun e => hl (e ▸ hj)).trans ht

/-- A change of several ropes reaches each of them. -/
theorem State.rope_modRopes_mem (g : RopeSt → RopeSt) (hg : ∀ x, g (g x) = g x) (r : Nat) (l : List Nat) (s : State) (hl : r ∈ l)
    (hr : r < s.cxe.ropes.length) : (l.foldl (fun s r => s.modRope r g) s).rope r = g (s.rope r) := by
  induction l generalizing s with
  | nil => exact absurd hl List.not_mem_nil
  | cons j l ih =>
    have hstep : (s.modRope j g).rope r = if r = j then g (s.rope r) else s.rope r := by
      split
      · rename_i hj
        rw [← hj]
        exact s.rope_modRope_same r g hr
      · rename_i hj
        exact s.rope_modRope_other j r g hj
    by_cases hin : r ∈ l
    · refine (ih _ hin (Nat.lt_of_lt_of_eq hr (s.length_modRope j g).symm)).trans ?_
      rw [hstep]
      split
      · exact hg _
      · rfl
    · have hj : r = j := (List.mem_cons.1 hl).resolve_right hin
      exact (State.rope_modRopes_other g r l _ hin).trans (hstep.trans (if_pos hj))

/-- Rope `r` loses its host. -/
def State.ropeCut (s : State) (r : Nat) : State := s.modRope r fun x => { x with hostLost := true }

/-- With the link every rope that is not OFF loses its host. -/
theorem State.hostLost_all (s : State) :
    s.hostLost none = ((List.range 16).filter fun r => s.ropeMode r != rmOFF).foldl State.ropeCut s := by
  rw [List.foldl_filter]
  refine (List.foldl_rel (r := fun t u => t = u ∧ ∀ r, u.ropeMode r = s.ropeMode r) ⟨rfl, fun _ => rfl⟩ ?_).1
  rintro r - t u ⟨rfl, hmode⟩
  simp only [hmode, true_and, bne_iff_ne, ne_eq]
  split
  · exact ⟨rfl, hmode⟩
  · exact ⟨rfl, hmode⟩

theorem State.rope_hostLost (r : Nat) (s : State) (h16 : r < 16) (hr : r < s.cxe.ropes.length) (hm : s.ropeMode r ≠ rmOFF) :
    ((s.hostLost none).rope r).hostLost = true := by
  have hmem : r ∈ (List.range 16).filter fun r => s.ropeMode r != rmOFF := List.mem_filter.2 ⟨List.mem_range.2 h16, by simpa using hm⟩
  rw [State.hostLost_all]
  exact congrArg RopeSt.hostLost (State.rope_modRopes_mem (fun x => { x with hostLost := true }) (fun _ => rfl) r _ s hmem hr)

/-! ## What the link shows (R356) -/

/-- The link's fields lie apart in one register. -/
theorem State.get_linkFields (s : State) (v : BitVec 4) (w l : BitVec 3) (f : Bool) :
    (s.linkFields v.toNat w.toNat l.toNat f).get HifLink.adr HifLink.speed = v.toNat ∧
    (s.linkFields v.toNat w.toNat l.toNat f).get HifLink.adr HifLink.width = w.toNat ∧
    (s.linkFields v.toNat w.toNat l.toNat f).get HifLink.adr HifLink.l0pWidth = l.toNat ∧
    (s.linkFields v.toNat w.toNat l.toNat f).getB HifLink.adr HifLink.flit = f := by
  unfold State.linkFields State.getB
  dsimp only
  refine ⟨?_, ?_, ?_, ?_⟩
  · iterate 3 rw [State.get_set_apart _ _ _ _ _ _ (by decide)]
    exact (State.get_set_same _ _ _ _).trans (Nat.mod_eq_of_lt v.isLt)
  · iterate 2 rw [State.get_set_apart _ _ _ _ _ _ (by decide)]
    exact (State.get_set_same _ _ _ _).trans (Nat.mod_eq_of_lt w.isLt)
  · exact (State.get_set_same _ _ _ _).trans (Nat.mod_eq_of_lt l.isLt)
  · rw [State.get_set_apart _ _ _ _ _ _ (by decide), State.get_set_same]
    cases f <;> rfl

theorem State.up_linkFields (s : State) (v w l : Nat) (f : Bool) :
    (s.linkFields v w l f).get HifLink.adr HifLink.up = s.get HifLink.adr HifLink.up := by
  unfold State.linkFields
  dsimp only
  iterate 4 rw [State.get_set_apart _ _ _ _ _ _ (by decide)]

theorem execLinkRetraining_ends (v : BitVec 4) (w l : BitVec 3) (f : Bool) (s : State) (h : s.hif.linkLost = false) :
    ∃ t, execLinkRetraining (some (v, w, l, f)) s = .next t ∧ t.getB HifLink.adr HifLink.up = true ∧
      t.get HifLink.adr HifLink.speed = v.toNat ∧ t.get HifLink.adr HifLink.width = w.toNat ∧
      t.get HifLink.adr HifLink.l0pWidth = l.toNat ∧ t.getB HifLink.adr HifLink.flit = f := by
  refine ⟨(s.set HifLink.adr HifLink.up 1).linkFields v.toNat w.toNat l.toNat f, by simp [execLinkRetraining, h], ?_,
    State.get_linkFields _ v w l f⟩
  rw [State.getB, State.up_linkFields, State.get_set_same]
  rfl

/-- An FLR that a link loss has met ends when the link is up again (R340). -/
def State.flrMet (s : State) (f : Nat) : State :=
  if s.getB (HifPfStatus.adr f) HifPfStatus.flrBusy then (s.set (HifPfStatus.adr f) HifPfStatus.flrBusy 0).hifEvent 5 f none else s

/-- The link is up and its functions start, before the FLRs that met the loss end. -/
def State.linkStarts (s : State) : State :=
  (((List.range 4).foldl State.pfStart { s with hif := { s.hif with linkLost := false } }).set HifLink.adr HifLink.up 1).raise 14 7 0

theorem State.linkUp_eq (s : State) : s.linkUp = (List.range 4).foldl State.flrMet s.linkStarts := rfl

section
variable (s : State)

theorem State.get_pfStart (f b : Nat) (g : Fld) (h : HifPfStatus.bme.Apart (HifPfStatus.adr f) b g)
    (h' : HifPfStatus.d3hot.Apart (HifPfStatus.adr f) b g) : (s.pfStart f).get b g = s.get b g :=
  (State.get_set_apart _ _ _ _ _ _ h').trans (State.get_set_apart _ _ _ _ _ _ h)

theorem State.get_flrMet (f b : Nat) (g : Fld) (h : HifPfStatus.flrBusy.Apart (HifPfStatus.adr f) b g) (hq : g.Quiet b) :
    (s.flrMet f).get b g = s.get b g := by
  unfold State.flrMet
  split
  · exact (State.get_raise _ _ _ _ _ _ hq).trans (State.get_set_apart _ _ _ _ _ _ h)
  · rfl

/-- A function that has started has BME 0. -/
theorem State.bme_pfStart (f : Nat) : (s.pfStart f).bme f = false := by
  unfold State.bme State.getB State.pfStart
  dsimp only
  rw [State.get_set_apart _ _ _ _ _ _ (Fld.apart_entry (by decide) _), State.get_set_same]
  rfl

/-- No event writes a function's status. -/
theorem HifPfStatus.quiet {f : Nat} (hf : f < 4) (g : Fld) (ho : g.off = 0) (hw : g.words = 1) : g.Quiet (HifPfStatus.adr f) := by
  intro j hj
  simp only [QuietWord, HifPfStatus.adr]
  omega

theorem State.flrBusy_flrMet (f : Nat) (hf : f < 4) : (s.flrMet f).getB (HifPfStatus.adr f) HifPfStatus.flrBusy = false := by
  unfold State.flrMet
  split
  · unfold State.getB State.hifEvent
    rw [State.get_raise _ _ _ _ _ _ (HifPfStatus.quiet hf _ rfl rfl), State.get_set_same]
    rfl
  · rename_i h
    simpa using h

/-! ## The link is up again (R340, R356) -/

@[simp] theorem State.linkLost_flrMet (f : Nat) : (s.flrMet f).hif.linkLost = s.hif.linkLost := by
  unfold State.flrMet
  split
  · exact congrArg Hif.linkLost ((State.raise_hif _ _ _ _).trans (State.set_hif _ _ _ _))
  · rfl

@[simp] theorem State.linkLost_pfStart (f : Nat) : (s.pfStart f).hif.linkLost = s.hif.linkLost :=
  have hset : (s.pfStart f).hif = ((s.noXlate f).modPf f fun _ => s.freshPf).hif := (State.set_hif _ _ _ _).trans (State.set_hif _ _ _ _)
  (congrArg Hif.linkLost hset :)

theorem State.linkLost_linkUp : s.linkUp.hif.linkLost = false := by
  rw [State.linkUp_eq]
  refine List.foldlRecOn (motive := fun t : State => t.hif.linkLost = false) _ _ ?_ fun t ht f _ => (t.linkLost_flrMet f).trans ht
  refine (congrArg Hif.linkLost ((State.raise_hif _ _ _ _).trans (State.set_hif _ _ _ _))).trans ?_
  exact List.foldlRecOn (motive := fun t : State => t.hif.linkLost = false) _ _ rfl fun t ht f _ => (t.linkLost_pfStart f).trans ht

/-- The functions' start, LINK_UP and the FLRs that end leave the link's own fields but UP. -/
theorem State.get_linkUp (g : Fld) (ho : g.off = 0) (hw : g.words = 1) (hup : HifLink.up.Apart 0 0 g) :
    s.linkUp.get HifLink.adr g = s.get HifLink.adr g := by
  have hapart : ∀ h : Fld, h.off = 0 → ∀ f, h.Apart (HifPfStatus.adr f) HifLink.adr g := by
    intro h hh f
    refine .inr (.inl ?_)
    rw [ho, hw, hh, HifPfStatus.adr, HifLink.adr]
    omega
  have hq : g.Quiet HifLink.adr := by
    intro j hj
    simp only [QuietWord, HifLink.adr]
    omega
  rw [State.linkUp_eq]
  refine List.foldlRecOn (motive := fun t : State => t.get HifLink.adr g = s.get HifLink.adr g) _ _ ?_
    fun t ht f _ => (t.get_flrMet f _ _ (hapart _ rfl f) hq).trans ht
  refine (State.get_raise _ _ _ _ _ _ hq).trans ((State.get_set_apart _ _ _ _ _ _ (Fld.apart_entry hup _)).trans ?_)
  exact List.foldlRecOn (motive := fun t : State => t.get HifLink.adr g = s.get HifLink.adr g) _ _ rfl
    fun t ht f _ => (t.get_pfStart f _ _ (hapart _ rfl f) (hapart _ rfl f)).trans ht

theorem State.up_linkUp : s.linkUp.getB HifLink.adr HifLink.up = true := by
  have hstart : s.linkStarts.get HifLink.adr HifLink.up = 1 :=
    (State.get_raise _ _ _ _ _ _ (by decide)).trans (State.get_set_same _ _ _ _)
  have hend : s.linkUp.get HifLink.adr HifLink.up = 1 := by
    rw [State.linkUp_eq]
    refine List.foldlRecOn (motive := fun t : State => t.get HifLink.adr HifLink.up = 1) _ _ hstart fun t ht f _ => ?_
    refine (t.get_flrMet f _ _ (.inr (.inl ?_)) (by decide)).trans ht
    simp only [HifPfStatus.adr, HifLink.adr, HifLink.up, HifPfStatus.flrBusy, Fld.words]
    omega
  rw [State.getB, hend]
  rfl

/-- What a function starts with, or an FLR's end, is no other function's. -/
theorem HifPfStatus.apart_other {i f : Nat} (h : i ≠ f) (g g' : Fld) (hg : g.off = 0 ∧ g.words = 1) (hg' : g'.off = 0 ∧ g'.words = 1) :
    g.Apart (HifPfStatus.adr i) (HifPfStatus.adr f) g' := by
  obtain ⟨ho, hw⟩ := hg
  obtain ⟨ho', hw'⟩ := hg'
  rw [Fld.Apart, ho, hw, ho', hw', HifPfStatus.adr, HifPfStatus.adr]
  omega

theorem State.bme_linkStarts (f : Nat) (hf : f < 4) : s.linkStarts.bme f = false := by
  have hkeep : ∀ t : State, ∀ i ∈ List.range 4, ∀ j ∈ List.range 4, t.bme j = false → (t.pfStart i).bme j = false := by
    intro t i hi j hj h
    by_cases hij : i = j
    · subst hij
      exact t.bme_pfStart i
    · refine (congrArg (· == 1) (t.get_pfStart i _ _ ?_ ?_)).trans h <;> exact HifPfStatus.apart_other hij _ _ ⟨rfl, rfl⟩ ⟨rfl, rfl⟩
  have hall := foldl_each (F := State.pfStart) (P := fun i t => t.bme i = false) (List.range 4) (fun t i _ => t.bme_pfStart i) hkeep
    { s with hif := { s.hif with linkLost := false } } f (List.mem_range.2 hf)
  have hset : ∀ t : State, (t.set HifLink.adr HifLink.up 1).bme f = t.bme f := fun t =>
    congrArg (· == 1) (State.get_set_apart _ _ _ _ _ _ (.inl (by simp only [HifLink.adr, HifLink.up, HifPfStatus.adr, Fld.words]; omega)))
  exact (congrArg (· == 1) (State.get_raise _ _ _ _ _ _ (HifPfStatus.quiet hf _ rfl rfl))).trans ((hset _).trans hall)

/-- After a link-up no function may master the bus, and no FLR goes on. -/
theorem State.functions_linkUp (f : Nat) (hf : f < 4) :
    s.linkUp.bme f = false ∧ s.linkUp.getB (HifPfStatus.adr f) HifPfStatus.flrBusy = false := by
  rw [State.linkUp_eq]
  constructor
  · refine List.foldlRecOn (motive := fun t : State => t.bme f = false) _ _ (s.bme_linkStarts f hf) fun t ht i hi => ?_
    refine (congrArg (· == 1) (t.get_flrMet i _ _ ?_ (HifPfStatus.quiet hf _ rfl rfl))).trans ht
    by_cases hif : i = f
    · exact hif ▸ Fld.apart_entry (by decide) _
    · exact HifPfStatus.apart_other hif _ _ ⟨rfl, rfl⟩ ⟨rfl, rfl⟩
  · refine foldl_each (F := State.flrMet) (P := fun i t => t.getB (HifPfStatus.adr i) HifPfStatus.flrBusy = false) (List.range 4)
      (fun t i hi => t.flrBusy_flrMet i (List.mem_range.1 hi)) ?_ s.linkStarts f (List.mem_range.2 hf)
    intro t i hi j hj h
    by_cases hij : i = j
    · subst hij
      exact t.flrBusy_flrMet i (List.mem_range.1 hi)
    · exact (congrArg (· == 1) (t.get_flrMet i _ _ (HifPfStatus.apart_other hij _ _ ⟨rfl, rfl⟩ ⟨rfl, rfl⟩)
        (HifPfStatus.quiet (List.mem_range.1 hj) _ rfl rfl))).trans h

end

theorem execLinkUp_lost (v : BitVec 4) (w : BitVec 3) (f : Bool) (l : BitVec 3) (s : State) (h : s.hif.linkLost = true) (hd : s.dark 14 = false)
    (ha : s.asleep = false) : ∃ t, execLinkUp v w f l s = .next t ∧ t.hif.linkLost = false ∧ t.getB HifLink.adr HifLink.up = true ∧
      t.get HifLink.adr HifLink.speed = v.toNat ∧ t.get HifLink.adr HifLink.width = w.toNat ∧ t.getB HifLink.adr HifLink.flit = f ∧
      (∀ i < 4, t.bme i = false ∧ t.getB (HifPfStatus.adr i) HifPfStatus.flrBusy = false) := by
  obtain ⟨hv, hw, -, hf⟩ := s.get_linkFields v w l f
  refine ⟨(s.linkFields v.toNat w.toNat l.toNat f).linkUp, if_pos (by simp [h, hd, ha]), State.linkLost_linkUp _, State.up_linkUp _,
    (State.get_linkUp _ _ rfl rfl (by decide)).trans hv, (State.get_linkUp _ _ rfl rfl (by decide)).trans hw, ?_, State.functions_linkUp _⟩
  exact (congrArg (· == 1) (State.get_linkUp _ _ rfl rfl (by decide))).trans hf

end Sys2Proof.Machine
end

section
/-!
The drains, resets and read errors of the functions; what the queues do for themselves leaves the connections as they are.
-/

namespace Sys2Proof.Machine

/-! ## A queue's own work leaves the state of U16 -/

theorem State.LinkOnly.shx {s t : State} (h : s.LinkOnly t) : t.shx = s.shx := h.frame State.shx fun _ _ _ _ => rfl

section
variable (s : State) (k q : Nat)

@[simp] theorem State.shx_modQ (g : QSt → QSt) : (s.modQ k q g).shx = s.shx := rfl

theorem State.shx_headRecord : (s.headRecord k q).shx = s.shx := by
  unfold State.headRecord
  dsimp only
  split
  · exact (State.linkOnly_qMsix _ _ _ _).shx.trans (State.linkOnly_qWrite _ _ _ _ _).shx
  · exact (State.linkOnly_qWrite _ _ _ _ _).shx

theorem State.shx_dropWork : (s.dropWork k q).shx = s.shx := by
  unfold State.dropWork
  split
  · rfl
  · split <;> rfl

theorem State.shx_stopped (st reason idx : Nat) : (s.stopped k q st reason idx).shx = s.shx := by
  unfold State.stopped State.stopWords
  rw [State.shx_headRecord, State.shx_dropWork, State.shx_modQ]
  iterate 3 rw [State.set_shx]

theorem State.shx_qHalt (reason : Nat) : (s.qHalt k q reason).shx = s.shx := by
  unfold State.qHalt
  split
  · rw [State.qStop_eq]
    split
    · exact s.shx_stopped k q _ _ _
    · exact (State.raise_shx _ _ _ _).trans (s.shx_stopped k q _ _ _)
  · rfl

theorem State.shx_qPresent (go : State → State) (hgo : (go s).shx = s.shx) : (s.qPresent k q go).shx = s.shx := by
  unfold State.qPresent
  split
  · split
    · exact hgo
    · exact s.shx_qHalt k q _
  · rfl

theorem State.shx_qAsk : (s.qAsk k q).shx = s.shx := by
  unfold State.qAsk
  dsimp only
  split
  · rfl
  · split
    · exact (s.linkOnly_dmaRead _ _ _ _ _).shx
    · rfl

theorem State.shx_qFetchRing : (s.qFetchRing k q).shx = s.shx := by
  unfold State.qFetchRing
  split
  · exact s.shx_qPresent k q _ (by simp only [State.shx_qAsk])
  · rfl

theorem State.shx_scAsk : (s.scAsk k).shx = s.shx := by
  unfold State.scAsk
  split
  · split
    · split
      · exact s.shx_qPresent qkSC k _ (s.linkOnly_dmaRead _ _ _ _ _).shx
      · rfl
    · rfl
  · rfl

theorem State.shx_qFetch : (s.qFetch k q).shx = s.shx := by
  unfold State.qFetch
  dsimp only
  split
  · exact (State.shx_scAsk _ q).trans (s.shx_qFetchRing k q)
  · exact s.shx_qFetchRing k q

theorem State.shx_qDone (n : Nat) (report : Bool) : (s.qDone k q n report).shx = s.shx := by
  have hdue : ∀ t : State, (t.qDue k q report).shx = t.shx := by
    intro t
    unfold State.qDue
    split
    · exact t.shx_qPresent k q _ (t.shx_headRecord k q)
    · rfl
  unfold State.qDone
  dsimp only
  rw [State.shx_qFetch, hdue, State.shx_modQ, State.set_shx]

theorem State.shx_scEnd (e : List Byte) (st : Nat) : (s.scEnd k e st).shx = s.shx :=
  s.shx_qPresent qkSC k _ ((State.shx_qDone _ _ _ _ _).trans (s.linkOnly_qWrite _ _ _ _).shx)

theorem State.shx_shxEnd (o : Origin) (op st : Nat) : (s.shxEnd o op st).shx = s.shx := by
  unfold State.shxEnd
  split
  · split
    · split
      · exact s.shx_scEnd _ _ _
      · rfl
    · rfl
  · exact (State.set_shx _ _ _ _).trans (State.set_shx _ _ _ _)

/-- The deregistrations that end leave the connections. -/
theorem State.conns_deregEnds : s.deregEnds.shx.conns = s.shx.conns := by
  unfold State.deregEnds
  refine List.foldlRecOn (motive := fun t : State => t.shx.conns = s.shx.conns) _ _ rfl fun t ht x _ => ?_
  split
  · exact (congrArg Shx.conns (t.shx_shxEnd _ _ _)).trans ht
  · exact ht

/-- With no read and no request outstanding, a cut leaves the connections. -/
theorem State.conns_cut (f reason : Nat) (hr : s.hif.reads = []) (hx : s.hif.xlate = []) : (s.cut f reason).shx.conns = s.shx.conns := by
  unfold State.cut
  dsimp only
  rw [State.conns_deregEnds, (State.linkOnly_sweep _).shx, hr, hx]
  split <;> rfl

end

/-! ## Function Level Reset (R338, R340) -/

theorem execFlr_idle (f : Fin 4) (s u : State) (hl : s.hif.linkLost = false) (hb : s.getB (HifPfStatus.adr f) HifPfStatus.flrBusy = false)
    (hr : s.hif.reads = []) (hx : s.hif.xlate = []) (hc : s.shx.conns = [])
    (hu : u = (((((s.set (HifPfStatus.adr f) HifPfStatus.flrBusy 1).set (HifPfStatus.adr f) HifPfStatus.bme 0).set (HifPfStatus.adr f)
      HifPfStatus.d3hot 0).cut f qrFLR).noXlate f).modPf f (fun _ => s.freshPf))
    (hq : u.queuesOfPf f = []) (hs : u.slicesOf f = []) :
    execFlr f s = .next (if f.val = 2 then (u.hostLost (some 2)).nvControllerReset else u.hostLost (some f.val)) := by
  have hconns : u.shx.conns = [] := by
    have hcut : u.shx.conns = _ := (congrArg (fun t : State => t.shx.conns) hu).trans
      (State.conns_cut _ f qrFLR (by simpa using hr) (by simpa using hx))
    rw [hcut]
    simpa using hc
  unfold execFlr
  dsimp only
  rw [if_neg (by simp [hl, hb]), ← hu]
  simp only [hq, hconns, hs, List.filter_nil, List.foldl_nil, List.contains_nil, Bool.not_false, List.filter_true]
  split
  · rename_i h2
    rw [h2]
  · rfl

/-! ## Read errors (R341) -/

theorem State.get_aerLog (s : State) (f : Nat) (e : AerError) (b : Nat) (g : Fld) : (s.aerLog f e).get b g = s.get b g := rfl

theorem execCompletionTimeout_off (f : Fin 4) (i : Nat) (r : Reader) (s : State) (h : s.readNo f i = some r)
    (hd : (s.pf f).dev.timeoutOff = true) : execCompletionTimeout f i s = .next s := by
  rw [execCompletionTimeout, h]
  exact congrArg _ (if_pos hd)

theorem execCompletionTimeout_ends (f : Fin 4) (i : Nat) (r : Reader) (s : State) (h : s.readNo f i = some r)
    (hd : (s.pf f).dev.timeoutOff = false) :
    ∃ t, execCompletionTimeout f i s = .next t ∧ t.get (Hdr.adr 14) Hdr.momEvent = 8 ∧
      t = ((s.readFailed f qrTIMEOUT r).hifEvent 8 f (s.readerSlice r)).aerLog f .completionTimeout := by
  refine ⟨_, ?_, (State.get_aerLog _ _ _ _ _).trans (State.raise_momEvent _ _ _ _), rfl⟩
  rw [execCompletionTimeout, h]
  exact congrArg _ (if_neg (by simp [hd]))

theorem execPoisoned_read (f : Fin 4) (i : Nat) (r : Reader) (s : State) (h : s.readNo f i = some r) :
    ∃ t, execPoisoned f (some i) s = .next t ∧ t.get (Hdr.adr 14) Hdr.momEvent = 9 ∧
      t = ((s.readFailed f qrPOISONED r).hifEvent 9 f (s.readerSlice r)).aerLog f .poisoned := by
  refine ⟨_, ?_, (State.get_aerLog _ _ _ _ _).trans (State.raise_momEvent _ _ _ _), rfl⟩
  simp only [execPoisoned, h]

theorem execEcrcFailure_logs (f : Fin 4) (s : State) (hf : f < s.hif.pfs.length) :
    ∃ t, execEcrcFailure f s = .next t ∧ (∃ x, (t.pf f).aer = (s.pf f).aer ++ [x] ∧ x.error = .ecrc) ∧ t.regs = s.regs ∧
      ∀ g, g ≠ f.val → t.pf g = s.pf g :=
  ⟨s.aerLog f .ecrc, rfl, ⟨_, congrArg PfSt.aer (s.pf_modPf_same f _ hf), rfl⟩, rfl, fun _ hg => s.pf_modPf_other f _ hg⟩

/-! ## The link and Bus Master Enable (R334, R337, R339) -/

theorem execLinkDown_up (s : State) (h : s.hif.linkLost = false) : execLinkDown s = .next s.linkDown := if_neg (by simp [h])

theorem execHotReset_up (s : State) (h : s.hif.linkLost = false) :
    execHotReset s = .next (s.linkDown.setReg HifLink.adr (s.rd HifLink.adr)).linkUp := if_neg (by simp [h])

theorem execLinkRetraining_begins (s : State) (h : s.hif.linkLost = false) :
    execLinkRetraining none s = .next ((s.set HifLink.adr HifLink.up 0).linkFields 0 0 0 false) := congrArg _ (if_neg (by simp [h]))

section
variable (f : Fin 4) (s : State) (hl : s.hif.linkLost = false)
include hl

theorem execBmeCleared_set (hm : s.bme f = true) (hb : s.getB (HifPfStatus.adr f) HifPfStatus.flrBusy = false) :
    execBmeCleared f s = .next ((((s.set (HifPfStatus.adr f) HifPfStatus.bme 0).cut f qrBME).hostLost (some f.val)).raise 14 4 f) :=
  if_pos (by simp [hm, hl, hb])

theorem execBmeSet_live (ats : Bool) (dev : DevWrite) (s1 u : State) (hb : s.getB (HifPfStatus.adr f) HifPfStatus.flrBusy = false)
    (h1 : s1 = ((s.set (HifPfStatus.adr f) HifPfStatus.bme 1).set (HifPfStatus.adr f) HifPfStatus.d3hot 0).modPf f
      (fun p => { p with atsEnable := ats, dev := p.dev.take dev }))
    (hu : u = (if ats then s1 else s1.noXlate f).msixFlush f) :
    execBmeSet f ats dev s = .next (if f.val = 3 then u.shxResume else u.nvSweep) := by
  unfold execBmeSet
  dsimp only
  rw [if_neg (by simp [hl, hb]), ← h1, ← hu]
  split <;> rfl

theorem execFlrDone_busy (hb : s.getB (HifPfStatus.adr f) HifPfStatus.flrBusy = true) :
    execFlrDone f s = .next (((s.retireReads f).set (HifPfStatus.adr f) HifPfStatus.flrBusy 0).raise 14 5 f) :=
  if_pos (by simp [hl, hb])

end

/-- Settles O34: each command is its own rule; what a link-up shows and what a link loss takes are read off the folds over the
functions and the ropes. -/
theorem linkFunctionsAndReadErrors : Obligations.LinkFunctionsAndReadErrors :=
  ⟨execLinkDown_up, State.retireReads_ends, State.rope_hostLost,
    fun v w f l s => execLinkUp_lost v w f l s, execHotReset_up, execLinkRetraining_begins, execLinkRetraining_ends,
    fun f s hm hl hb => execBmeCleared_set f s hl hm hb, fun f ats dev s s1 u hl hb => execBmeSet_live f s hl ats dev s1 u hb, execFlr_idle,
    fun _ s _ _ => (exec_evolves _ (Evolves.refl s)).exists_next, fun f s hb hl => execFlrDone_busy f s hl hb,
    execCompletionTimeout_off, execCompletionTimeout_ends, execPoisoned_read, fun _ _ => rfl, execEcrcFailure_logs⟩

end Sys2Proof.Machine
end

section
/-!
MSI-X settings and translations: what a flush of the pending vectors leaves, and what an answer and an invalidation take.
-/

namespace Sys2Proof.Machine

/-! ## The vectors of one function (R334) -/

section
variable (s : State) (f v : Nat)

theorem State.pfs_msixSend : (s.msixSend f v).hif.pfs = s.hif.pfs := by
  unfold State.msixSend
  split <;> rfl

theorem State.regs_msixSend : (s.msixSend f v).regs = s.regs := by
  unfold State.msixSend
  split <;> rfl

/-- The function after a flush: no vector that could be sent is pending. -/
theorem State.pf_msixFlush (hf : f < s.hif.pfs.length) :
    (s.msixFlush f).pf f = if (s.pf f).msixEnable && !(s.pf f).functionMask && s.issues f
      then { s.pf f with pba := (s.pf f).pba.filter fun v => !(s.pf f).issuable.contains v } else s.pf f := by
  unfold State.msixFlush
  dsimp only
  split
  · have hpfs := List.foldlRecOn (motive := fun t : State => t.hif.pfs = s.hif.pfs) (s.pf f).issuable (fun s v => s.msixSend f v) rfl
      fun t ht v _ => (t.pfs_msixSend f v).trans ht
    rw [State.pf_modPf_same _ _ _ (hpfs ▸ hf)]
    exact congrArg (fun p : PfSt => { p with pba := p.pba.filter fun v => !(s.pf f).issuable.contains v })
      (congrArg (fun l : List PfSt => l.getD f PfSt.init) hpfs)
  · rfl

/-- A flush leaves the table. -/
theorem State.entry_msixFlush (hf : f < s.hif.pfs.length) (w : Nat) : ((s.msixFlush f).pf f).entry w = (s.pf f).entry w := by
  rw [s.pf_msixFlush f hf]
  split <;> rfl

theorem State.regs_msixFlush : (s.msixFlush f).regs = s.regs := by
  unfold State.msixFlush
  dsimp only
  split
  · exact List.foldlRecOn (motive := fun t : State => t.regs = s.regs) (s.pf f).issuable _ rfl
      fun t ht v _ => (t.regs_msixSend f v).trans ht
  · rfl

/-- The data word of an entry in BAR4. -/
theorem State.bar4Word_data (hv : v < 2048) : s.bar4Word f (16 * v + 8) = ((s.pf f).entry v).data := by
  have hw : (16 * v + 8) / 4 % 4 = 2 := by omega
  have he : (16 * v + 8) / 16 = v := by omega
  rw [State.bar4Word, if_pos (by omega), he, hw]
  rfl

/-- The vector control word of an entry in BAR4. -/
theorem State.bar4Word_control (hv : v < 2048) : s.bar4Word f (16 * v + 12) = BitVec.ofNat 32 (b2n ((s.pf f).entry v).masked) := by
  have hw : (16 * v + 12) / 4 % 4 = 3 := by omega
  have he : (16 * v + 12) / 16 = v := by omega
  rw [State.bar4Word, if_pos (by omega), he, hw]
  rfl

end

section
variable (f : Fin 4) (v : Fin 2048) (addr : Nat) (data : Word) (masked : Bool) (s : State) (hl : s.hif.linkLost = false)
  (hb : s.getB (HifPfStatus.adr f) HifPfStatus.flrBusy = false)
include hl hb

theorem execMsixUnmask_control (en fm : Bool) :
    execMsixUnmask f (.control en fm) s = .next ((s.modPf f fun p => { p with msixEnable := en, functionMask := fm }).msixFlush f) :=
  if_neg (by simp [hl, hb])

theorem execMsixUnmask_halted (hh : s.halted = true) : execMsixUnmask f (.entry v addr data masked) s = .next s :=
  (if_neg (by simp [hl, hb])).trans (congrArg _ (if_pos hh))

/-- A vector's entry is stored, and stays through the flush. -/
theorem execMsixUnmask_entry (hh : s.halted = false) (hf : f < s.hif.pfs.length) :
    ∃ t, execMsixUnmask f (.entry v addr data masked) s = .next t ∧ t.bar4Word f (16 * v + 8) = data ∧
      t.bar4Word f (16 * v + 12) = BitVec.ofNat 32 (b2n masked) ∧ ((t.pf f).entry v).data = data ∧ ((t.pf f).entry v).masked = masked ∧
      ((t.pf f).entry v).addr = addr % 2 ^ 64 / 4 * 4 ∧ (∀ w : Nat, w ≠ v → (t.pf f).entry w = (s.pf f).entry w) ∧ t.regs = s.regs := by
  have hstored : ∀ w : Nat, (((s.modPf f fun p => { p with table := sput MsixEntry.init p.table v ⟨addr % 2 ^ 64 / 4 * 4, data, masked⟩ }).msixFlush
      f).pf f).entry w = if w = v then ⟨addr % 2 ^ 64 / 4 * 4, data, masked⟩ else (s.pf f).entry w := by
    intro w
    rw [State.entry_msixFlush _ _ (by simpa [State.modPf] using hf), State.pf_modPf_same _ _ _ hf]
    exact sget_sput _ _ _ _ _
  have hown := (hstored v).trans (if_pos rfl)
  refine ⟨_, (if_neg (by simp [hl, hb])).trans (congrArg _ (if_neg (by simp [hh]))), ?_, ?_, ?_, ?_, ?_, fun w hw => ?_, State.regs_msixFlush _ _⟩
  · rw [State.bar4Word_data _ _ _ v.isLt, hown]
  · rw [State.bar4Word_control _ _ _ v.isLt, hown]
  · rw [hown]
  · rw [hown]
  · rw [hown]
  · rw [hstored, if_neg hw]

end

theorem State.msixFlush_single (f v : Nat) (s : State) (hf : f < s.hif.pfs.length) (he : (s.pf f).msixEnable = true)
    (hm : (s.pf f).functionMask = false) (hi : s.issues f = true) (hw : s.postedWaits = false) (hp : (s.pf f).pba = [v])
    (hv : ((s.pf f).entry v).masked = false) :
    (s.msixFlush f).out = s.out ++ [.msix f v ((s.pf f).entry v).addr ((s.pf f).entry v).data] ∧ ((s.msixFlush f).pf f).pba = [] := by
  have hissuable : (s.pf f).issuable = [v] := by simp [PfSt.issuable, hp, hv]
  constructor
  · unfold State.msixFlush
    dsimp only
    rw [if_pos (by simp [he, hm, hi]), hissuable]
    exact congrArg State.out (if_neg (by simp [hw]))
  · rw [s.pf_msixFlush f hf, if_pos (by simp [he, hm, hi]), hissuable]
    simp [hp]

/-! ## Translations (R342, R343) -/

theorem State.askPage_new (f : Nat) (pasid : Option Nat) (addr n g : Nat) (s : State) (hm : s.missing f pasid addr n = some g)
    (ha : (f, pasid, g) ∉ s.hif.asked) (ht : s.tagsFree 1 = true) :
    s.askPage f pasid addr n =
      ({ s with hif := { s.hif with asked := s.hif.asked ++ [(f, pasid, g)] } } : State).emit (.translationRequest f pasid g) := by
  rw [State.askPage, hm]
  exact if_neg (by simp [ha, ht])

section
variable (f : Fin 4) (pa : Option (BitVec 20)) (page : Nat)

theorem execTranslationAnswer_unasked (grant : Option Nat) (s : State) (h : (f.val, pa.map BitVec.toNat, page) ∉ s.hif.asked) :
    execTranslationAnswer f pa page grant s = .next s := if_pos (by simpa using h)

theorem execTranslationAnswer_granted (g : Nat) (s : State) (h : (f.val, pa.map BitVec.toNat, page) ∈ s.hif.asked) :
    execTranslationAnswer f pa page (some g) s = .next ({ s with hif := { s.hif with
      asked := s.hif.asked.filter fun x => x != (f.val, pa.map BitVec.toNat, page)
      atc := ((f.val, pa.map BitVec.toNat, page, g) :: s.hif.atc).take atcSize } } : State).sweep.deregEnds := if_neg (by simpa using h)

theorem execTranslationAnswer_refused (s u : State) (h : (f.val, pa.map BitVec.toNat, page) ∈ s.hif.asked)
    (hu : u = { s with hif := { s.hif with
      asked := s.hif.asked.filter fun x => x != (f.val, pa.map BitVec.toNat, page)
      xlate := s.hif.xlate.filter fun x => s.lacks x != some (f.val, pa.map BitVec.toNat, page) } }) :
    execTranslationAnswer f pa page none s = .next
      (((s.hif.xlate.filter fun x => s.lacks x == some (f.val, pa.map BitVec.toNat, page)).foldl State.refused u).sweep.deregEnds) := by
  subst hu
  exact if_neg (by simpa using h)

/-- An invalidation takes its page from the cache, and notes the reads that were issued with it. -/
theorem execInvalidationRequest_takes (tag : Nat) (s : State) (hl : s.hif.linkLost = false) (hf : f < s.hif.pfs.length) :
    ∃ t, execInvalidationRequest f tag pa page s = .next t ∧ t.regs = s.regs ∧ t.out = s.out ∧
      (∀ y ∈ t.hif.atc, ¬ (y.1 = f.val ∧ y.2.1 = pa.map BitVec.toNat ∧ y.2.2.1 = page)) ∧
      (∀ y ∈ s.hif.atc, ¬ (y.1 = f.val ∧ y.2.1 = pa.map BitVec.toNat ∧ y.2.2.1 = page) → y ∈ t.hif.atc) ∧
      (t.pf f).invalidations = (s.pf f).invalidations ++
        [(tag, (s.hif.reads.filter fun x => x.fn == f.val && x.pages.contains (pa.map BitVec.toNat, page)).map (·.id))] := by
  have hhit : ∀ y : Nat × Option Nat × Nat × Nat, (!(y.1 == f.val && y.2.1 == pa.map BitVec.toNat && y.2.2.1 == page)) = true ↔
      ¬ (y.1 = f.val ∧ y.2.1 = pa.map BitVec.toNat ∧ y.2.2.1 = page) := fun y => by
    simp only [Bool.not_eq_true', Bool.eq_false_iff, ne_eq, Bool.and_eq_true, beq_iff_eq, and_assoc]
  refine ⟨_, if_neg (by simp [hl]), rfl, rfl, fun y hy => (hhit y).1 (List.mem_filter.1 hy).2,
    fun y hy hn => List.mem_filter.2 ⟨hy, (hhit y).2 hn⟩, congrArg PfSt.invalidations (State.pf_modPf_same _ _ _ hf)⟩

variable (tag : Nat) (used : List Nat) (rest : List (Nat × List Nat)) (s : State) (h : (s.pf f).invalidations = (tag, used) :: rest)
include h

theorem execInvalidationCompletion_sent (hl : s.hif.linkLost = false) (hr : ∀ x ∈ s.hif.reads, x.id ∉ used) :
    execInvalidationCompletion f s = .next ((s.modPf f fun p => { p with invalidations := rest }).emit (.invalidationDone f tag)) := by
  rw [execInvalidationCompletion, h]
  exact if_neg (by simpa [hl] using hr)

theorem execInvalidationCompletion_waits (x : HostRead) (hx : x ∈ s.hif.reads) (hu : x.id ∈ used) : execInvalidationCompletion f s = .next s := by
  rw [execInvalidationCompletion, h]
  exact if_pos (.inr (List.any_eq_true.2 ⟨x, hx, by simpa using hu⟩))

end

/-- Settles O35: each command is its own rule; a stored entry is read back through the flush that follows it. -/
theorem msixAndTranslation : Obligations.MsixAndTranslation :=
  ⟨fun f en fm s hl hb => execMsixUnmask_control f s hl hb en fm, execMsixUnmask_halted, execMsixUnmask_entry, State.msixFlush_single,
    State.askPage_new, fun f pa page g s => execTranslationAnswer_granted f pa page g s, execTranslationAnswer_refused,
    fun _ _ _ _ _ _ _ _ _ => ⟨rfl, rfl⟩, execTranslationAnswer_unasked, fun f tag pa page => execInvalidationRequest_takes f pa page tag,
    execInvalidationCompletion_sent, fun f tag used rest x s h => execInvalidationCompletion_waits f tag used rest s h x⟩

end Sys2Proof.Machine
end

section
/-!
The slices: when a command of a slice acts, what a freeze leaves of its ropes, and how freezes, saves and restores end.
-/

namespace Sys2Proof.Machine

/-! ## BIND.ENABLE in the word that is written -/

theorem bits_congr {a b hi : Nat} (lo : Nat) (h : ∀ i ≤ hi, a.testBit i = b.testBit i) : bits a hi lo = bits b hi lo := by
  refine Nat.eq_of_testBit_eq fun i => ?_
  rw [bits, bits, Nat.testBit_mod_two_pow, Nat.testBit_mod_two_pow, Nat.testBit_div_two_pow, Nat.testBit_div_two_pow]
  by_cases hi' : i < hi + 1 - lo
  · rw [h (i + lo) (by omega)]
  · simp [hi']

/-- Setting bit 31 keeps the fields below it. -/
theorem bits_or_top (v : Word) (hi lo : Nat) (h : hi < 31) : bits (v ||| 0x80000000#32).toNat hi lo = bits v.toNat hi lo := by
  refine bits_congr lo fun i hi' => ?_
  rw [BitVec.toNat_or, Nat.testBit_or, show (0x80000000#32).toNat = 2 ^ 31 from rfl, Nat.testBit_two_pow_of_ne (by omega), Bool.or_false]

/-- Clearing bit 31 keeps the fields below it. -/
theorem bits_and_low (v : Word) (hi lo : Nat) (h : hi < 31) : bits (v &&& 0x7FFFFFFF#32).toNat hi lo = bits v.toNat hi lo := by
  refine bits_congr lo fun i hi' => ?_
  rw [BitVec.toNat_and, show (0x7FFFFFFF#32).toNat = 2 ^ 31 - 1 from rfl, Nat.and_two_pow_sub_one_eq_mod, Nat.testBit_mod_two_pow]
  simp [show i < 31 by omega]

theorem bit_or_top (v : Word) : bit (v ||| 0x80000000#32).toNat 31 = true := by
  rw [bit_eq_getLsbD, BitVec.getLsbD_or]
  simp

theorem bit_and_low (v : Word) : bit (v &&& 0x7FFFFFFF#32).toNat 31 = false := by
  rw [bit_eq_getLsbD, BitVec.getLsbD_and]
  simp

/-! ## Bindings (R344) -/

section
variable (o : Origin) (k : Fin 256) (w : Word) (s : State) (h : s.Open o 14 (sliceOff k 0) (s.rwlDiffers (HifSlice.adr k) w) false)
include h

theorem State.bindWrite_binds (hst : s.sliceState k = slUNBOUND) (hen : bit w.toNat 31 = true) (hk : k.val < s.slices) :
    s.bindWrite o k w = ((((((s.awake o 14).set (HifSlice.adr k) HifSlice.enable 1).set (HifSlice.adr k) HifSlice.pf (bits w.toNat 21 20)).set
      (HifSlice.adr k) HifSlice.pasid (bits w.toNat 19 0)).set (HifSlice.adr k) HifSlice.state slBOUND).set (HifSlice.adr k) HifSlice.status slOK).nvSweep.done := by
  have hst' : (s.awake o 14).sliceState k = slUNBOUND := hst
  have hk' : ¬ (s.awake o 14).slices ≤ k := Nat.not_le.2 hk
  rw [State.bindWrite, State.gate_open _ _ _ _ _ _ _ h]
  refine (if_pos hst').trans ((if_neg (by simp [hen])).trans ((if_neg hk').trans ?_))
  simp only [hen, b2n, if_true, State.awake]

theorem State.bindWrite_beyond (hst : s.sliceState k = slUNBOUND) (hen : bit w.toNat 31 = true) (hk : s.slices ≤ k.val) :
    s.bindWrite o k w = ((s.awake o 14).raise 14 2 (sliceOff k 0), .value) := by
  have hst' : (s.awake o 14).sliceState k = slUNBOUND := hst
  have hk' : (s.awake o 14).slices ≤ k := hk
  rw [State.bindWrite, State.gate_open _ _ _ _ _ _ _ h]
  exact (if_pos hst').trans ((if_neg (by simp [hen])).trans (if_pos hk'))

theorem State.bindWrite_unbinds (hst : s.sliceState k = slBOUND) (hen : bit w.toNat 31 = false) (hp : bits w.toNat 21 20 = s.slicePf k)
    (ha : bits w.toNat 19 0 = s.slicePasid k) (hbusy : (s.awake o 14).sliceBusy k = false) :
    s.bindWrite o k w = ((((s.awake o 14).set (HifSlice.adr k) HifSlice.enable 0).set (HifSlice.adr k) HifSlice.state slUNBOUND).set
      (HifSlice.adr k) HifSlice.status slOK).done := by
  have hst' : (s.awake o 14).sliceState k = slBOUND := hst
  have hkept : ¬ (bits w.toNat 21 20 ≠ (s.awake o 14).slicePf k ∨ bits w.toNat 19 0 ≠ (s.awake o 14).slicePasid k) :=
    not_or.2 ⟨not_not.2 hp, not_not.2 ha⟩
  have hidle : ¬ ((s.awake o 14).sliceState k ≠ slBOUND ∨ (s.awake o 14).sliceBusy k = true) :=
    not_or.2 ⟨not_not.2 hst', by simp [hbusy]⟩
  rw [State.bindWrite, State.gate_open _ _ _ _ _ _ _ h]
  refine (if_neg ?_).trans ((if_neg hkept).trans ((if_neg (by simp [hen])).trans (if_neg hidle)))
  exact fun e => absurd (hst'.symm.trans e) (by decide)

end

section
variable (o : Origin) (k : Fin 256) (v : Word) (s : State)

theorem execSliceBind_within (h : s.Open o 14 (sliceOff k 0) (s.rwlDiffers (HifSlice.adr k) (v ||| 0x80000000#32)) false)
    (hst : s.sliceState k = slUNBOUND) (hk : k.val < s.slices) :
    execSliceBind o k v s = .next ((((((s.awake o 14).set (HifSlice.adr k) HifSlice.enable 1).set (HifSlice.adr k) HifSlice.pf (bits v.toNat 21 20)).set
      (HifSlice.adr k) HifSlice.pasid (bits v.toNat 19 0)).set (HifSlice.adr k) HifSlice.state slBOUND).set (HifSlice.adr k) HifSlice.status slOK).nvSweep := by
  rw [execSliceBind, s.bindWrite_binds o k _ h hst (bit_or_top v) hk, bits_or_top _ _ _ (by decide), bits_or_top _ _ _ (by decide),
    State.done, WRes.out]

theorem execSliceBind_beyond (h : s.Open o 14 (sliceOff k 0) (s.rwlDiffers (HifSlice.adr k) (v ||| 0x80000000#32)) false)
    (hst : s.sliceState k = slUNBOUND) (hk : s.slices ≤ k.val) :
    execSliceBind o k v s = .next ((s.awake o 14).raise 14 2 (sliceOff k 0)) :=
  congrArg WRes.out (s.bindWrite_beyond o k _ h hst (bit_or_top v) hk)

theorem execSliceUnbind_idle (h : s.Open o 14 (sliceOff k 0) (s.rwlDiffers (HifSlice.adr k) (v &&& 0x7FFFFFFF#32)) false)
    (hst : s.sliceState k = slBOUND) (hp : bits v.toNat 21 20 = s.slicePf k) (ha : bits v.toNat 19 0 = s.slicePasid k)
    (hbusy : (s.awake o 14).sliceBusy k = false) :
    execSliceUnbind o k v s = .next ((((s.awake o 14).set (HifSlice.adr k) HifSlice.enable 0).set (HifSlice.adr k) HifSlice.state slUNBOUND).set
      (HifSlice.adr k) HifSlice.status slOK) :=
  congrArg WRes.out (s.bindWrite_unbinds o k _ h hst (bit_and_low v) ((bits_and_low _ _ _ (by decide)).trans hp)
    ((bits_and_low _ _ _ (by decide)).trans ha) hbusy)

end

/-! ## The commands of a slice (R347) -/

section
variable (o : Origin) (k : Fin 256) (s u : State) (h : s.Open o 14 (sliceOff k 4) true false)
include h

/-- A slice command acts in the state that it needs, with STATUS OK. -/
theorem State.sliceCmd_acts (st : Nat) (ok : State → Bool) (act : State → State) (hst : s.sliceState k = st) (hok : ok (s.awake o 14) = true) :
    s.sliceCmd o k st ok act = (act ((s.awake o 14).set (HifSlice.adr k) HifSlice.status slOK)).done := by
  have hst' : (s.awake o 14).sliceState k = st := hst
  rw [State.sliceCmd, State.gate_open _ _ _ _ _ _ _ h]
  exact if_pos ⟨hst', hok⟩

/-- In another state it is refused. -/
theorem State.sliceCmd_refused (st : Nat) (ok : State → Bool) (act : State → State) (hst : s.sliceState k ≠ st) :
    s.sliceCmd o k st ok act = (((s.awake o 14).set (HifSlice.adr k) HifSlice.status slBAD_STATE).raise 14 2 (sliceOff k 4), .value) := by
  have hst' : (s.awake o 14).sliceState k ≠ st := hst
  rw [State.sliceCmd, State.gate_open _ _ _ _ _ _ _ h]
  exact if_neg fun hc => hst' hc.1

theorem sliceCommands_act (hu : u = (s.awake o 14).set (HifSlice.adr k) HifSlice.status slOK) :
    (s.sliceState k = slBOUND → execFreeze o k s = .next (u.freezeSlice k)) ∧
    (s.sliceState k = slBOUND → (s.awake o 14).sliceBusy k = false → execRestore o k s = .next (u.restoreBegin k)) ∧
    (s.sliceState k = slFROZEN → execThaw o k s = .next (u.thawSlice k) ∧ execSave o k s = .next (u.saveSlice k) ∧
      execSliceRelease o k s = .next (((u.sliceRelease k).set (HifSlice.adr k) HifSlice.state slBOUND).nvSweep)) := by
  subst hu
  refine ⟨fun hst => ?_, fun hst hb => ?_, fun hst => ⟨?_, ?_, ?_⟩⟩
  · rw [execFreeze, s.sliceCmd_acts o k h _ _ _ hst rfl, State.done, WRes.out]
  · rw [execRestore, s.sliceCmd_acts o k h _ _ _ hst (by simp [hb]), State.done, WRes.out]
  · rw [execThaw, s.sliceCmd_acts o k h _ _ _ hst rfl, State.done, WRes.out]
  · rw [execSave, s.sliceCmd_acts o k h _ _ _ hst rfl, State.done, WRes.out]
  · rw [execSliceRelease, s.sliceCmd_acts o k h _ _ _ hst rfl, State.done, WRes.out, State.toSlice]

theorem sliceCommands_refused (hu : u = ((s.awake o 14).set (HifSlice.adr k) HifSlice.status slBAD_STATE).raise 14 2 (sliceOff k 4)) :
    (s.sliceState k ≠ slBOUND → execFreeze o k s = .next u ∧ execRestore o k s = .next u) ∧
    (s.sliceState k ≠ slFROZEN → execThaw o k s = .next u ∧ execSave o k s = .next u ∧ execSliceRelease o k s = .next u) := by
  subst hu
  exact ⟨fun hst => ⟨congrArg WRes.out (s.sliceCmd_refused o k h _ _ _ hst), congrArg WRes.out (s.sliceCmd_refused o k h _ _ _ hst)⟩,
    fun hst => ⟨congrArg WRes.out (s.sliceCmd_refused o k h _ _ _ hst), congrArg WRes.out (s.sliceCmd_refused o k h _ _ _ hst),
      congrArg WRes.out (s.sliceCmd_refused o k h _ _ _ hst)⟩⟩

end

/-! ## Freeze (R348) -/

theorem State.rope_toSlice (s : State) (k st r : Nat) : (s.toSlice k st).rope r = s.rope r :=
  congrArg (fun c : Cxe => c.ropes.getD r RopeSt.init) (State.set_cxe _ _ _ _)

theorem State.rope_freezeSlice_own (k r : Nat) (s : State) (h16 : r < 16) (hr : r < s.cxe.ropes.length) (ho : s.ropeSlice r = k)
    (hm : s.ropeMode r ≠ rmOFF) : ((s.freezeSlice k).rope r).freeze = true := by
  have hown : r ∈ s.ownedRopes k := List.mem_filter.2 ⟨List.mem_range.2 h16, by simpa using ho⟩
  have hmem : r ∈ (s.ownedRopes k).filter fun r => s.ropeMode r != rmOFF := List.mem_filter.2 ⟨hown, by simpa using hm⟩
  refine congrArg RopeSt.freeze (State.rope_modRopes_mem (fun x => { x with freeze := true }) (fun _ => rfl) r _ (s.toSlice k slFREEZING) hmem ?_)
  exact Nat.lt_of_lt_of_eq hr (congrArg (fun c : Cxe => c.ropes.length) (State.set_cxe _ _ _ _)).symm

theorem State.rope_freezeSlice_off (k r : Nat) (s : State) (hm : s.ropeMode r = rmOFF) : (s.freezeSlice k).rope r = s.rope r :=
  (State.rope_modRopes_other _ r _ _ fun hmem => by simpa [hm] using (List.mem_filter.1 hmem).2).trans (s.rope_toSlice k _ r)

/-- No event writes a slice's registers. -/
theorem HifSlice.quiet (k : Fin 256) (g : Fld) (h : g.off + 4 * g.words ≤ 0x40) : g.Quiet (HifSlice.adr k) := by
  intro j hj
  have hk := k.isLt
  simp only [QuietWord, HifSlice.adr]
  omega

theorem State.slicePf_lt (s : State) (k : Nat) : s.slicePf k < 4 := Nat.mod_lt _ (by decide)

section
variable (s : State) (k : Fin 256)

theorem State.sliceState_hifEvent (n f : Nat) (j : Option Nat) : (s.hifEvent n f j).sliceState k = s.sliceState k :=
  State.get_raise _ _ _ _ _ _ (HifSlice.quiet k _ (by decide))

/-- A slice that is FROZEN by a freeze shows its commands in doubt, and FREEZE_DONE. -/
theorem State.frozenNow_shows (doubt : List (Nat × Nat)) :
    (s.frozenNow k doubt).sliceState k = slFROZEN ∧ (s.frozenNow k doubt).get (HifSlice.adr k) HifSlice.inDoubt = doubt.length % 2 ^ 16 ∧
      (s.frozenNow k doubt).get (Hdr.adr 14) Hdr.momEvent = 10 ∧
      (s.frozenNow k doubt).get (Hdr.adr 14) Hdr.momDetail = s.slicePf k + 65536 * k.val ∧
      sget [] (s.frozenNow k doubt).hif.inDoubt k = doubt := by
  have hk := k.isLt
  have hpf := s.slicePf_lt k
  refine ⟨?_, ?_, State.raise_momEvent _ _ _ _, ?_, ?_⟩
  · refine (State.sliceState_hifEvent _ k _ _ _).trans ((State.get_set_apart _ _ _ _ _ _ (Fld.apart_entry (by decide) _)).trans ?_)
    exact State.get_set_same _ _ _ _
  · exact (State.get_raise _ _ _ _ _ _ (HifSlice.quiet k _ (by decide))).trans (State.get_set_same _ _ _ _)
  · exact (State.raise_momDetail _ _ _ _).trans (Nat.mod_eq_of_lt (show s.slicePf k + 65536 * k.val < 2 ^ 28 by omega))
  · refine (congrArg (fun h : Hif => sget [] h.inDoubt k) (State.raise_hif _ _ _ _)).trans ?_
    exact (sget_sput _ _ _ _ _).trans (if_pos rfl)

end

theorem execSliceFrozen_settled (k : Fin 256) (s : State) (hst : s.sliceState k = slFREEZING) (hs : s.settled k = true) (hn : s.nvOut k = []) :
    ∃ t, execSliceFrozen k s = .next t ∧ t.sliceState k = slFROZEN ∧ t.get (HifSlice.adr k) HifSlice.inDoubt = 0 ∧
      t.get (Hdr.adr 14) Hdr.momEvent = 10 ∧ t.get (Hdr.adr 14) Hdr.momDetail = s.slicePf k + 65536 * k.val := by
  obtain ⟨h1, h2, h3, h4, -⟩ := s.frozenNow_shows k []
  exact ⟨_, if_pos ⟨hst, hs, by simp [hn]⟩, h1, h2, h3, h4⟩

theorem execSliceFrozen_waits (k : Fin 256) (s : State) (_ : s.sliceState k = slFREEZING) (h : s.settled k = false ∨ s.nvOut k ≠ []) :
    execSliceFrozen k s = .next s := by
  refine if_neg ?_
  rintro ⟨-, hs, hn⟩
  obtain h | h := h
  · exact absurd (h.symm.trans hs) (by decide)
  · exact h (List.isEmpty_iff.1 hn)

theorem execFreezeLimitExpiry_doubts (k : Fin 256) (s : State) (hst : s.sliceState k = slFREEZING) (hn : s.nvOut k ≠ []) :
    ∃ t, execFreezeLimitExpiry k s = .next t ∧ t.sliceState k = slFROZEN ∧ t.get (Hdr.adr 14) Hdr.momEvent = 10 ∧
      sget [] t.hif.inDoubt k = (s.nvOut k).filterMap fun l => l.sq.map fun y => (y, l.cid) := by
  refine ⟨_, if_pos ⟨hst, by simp [hn]⟩, ?_⟩
  obtain ⟨h1, -, h3, -, h5⟩ := State.frozenNow_shows _ k ((s.nvOut k).filterMap fun l => l.sq.map fun y => (y, l.cid))
  exact ⟨h1, h3, h5⟩

/-! ## Save and restore (R351, R353) -/

theorem execSaveDone_ends (k : Fin 256) (j st n : Nat) (s : State) (h : s.hif.saves.find? (fun x => x.1 == k.val) = some (j, st, n)) :
    ∃ t, execSaveDone k s = .next t ∧ t.sliceState k = slFROZEN ∧ t.get (Hdr.adr 14) Hdr.momEvent = 11 ∧
      t.hif.saves = s.hif.saves.filter fun x => x.1 != k.val := by
  rw [execSaveDone, h]
  refine ⟨_, rfl, (State.sliceState_hifEvent _ k _ _ _).trans (State.get_set_same _ _ _ _), State.raise_momEvent _ _ _ _, ?_⟩
  refine (congrArg Hif.saves (State.raise_hif _ _ _ _)).trans ?_
  simp only [State.toSlice, State.set_hif]

/-- A restore that fails leaves the slice BOUND, with the status of the check that failed. -/
theorem State.restoreFails_shows (s : State) (k : Fin 256) (st : Nat) (hst : st < 256) :
    (s.restoreFails k st).sliceState k = slBOUND ∧ (s.restoreFails k st).get (HifSlice.adr k) HifSlice.status = st ∧
      (s.restoreFails k st).get (Hdr.adr 14) Hdr.momEvent = 12 := by
  refine ⟨?_, ?_, State.raise_momEvent _ _ _ _⟩
  · refine (State.sliceState_hifEvent _ k _ _ _).trans ((State.get_set_apart _ _ _ _ _ _ (Fld.apart_entry (by decide) _)).trans ?_)
    exact State.get_set_same _ _ _ _
  · refine (State.get_raise _ _ _ _ _ _ (HifSlice.quiet k _ (by decide))).trans ((State.get_set_same _ _ _ _).trans ?_)
    exact Nat.mod_eq_of_lt hst

section
variable (k : Fin 256) (blob : List Byte) (s : State) (hst : s.sliceState k = slRESTORING)
include hst

theorem execRestoreDone_waits (hr : s.readsOf (.blob k) ≠ (s.hif.reads.filter fun x => x.reader == .blob k).length) :
    execRestoreDone k blob s = .next s := by
  unfold execRestoreDone
  dsimp only
  rw [if_neg (not_not.2 hst), if_pos hr]

theorem execRestoreDone_none (hr : s.readsOf (.blob k) = 0) (hn : ∀ x ∈ s.hif.reads, x.reader ≠ .blob k) :
    ∃ t, execRestoreDone k blob s = .next t ∧ t.sliceState k = slBOUND ∧ t.get (HifSlice.adr k) HifSlice.status = slBAD_BLOB ∧
      t.get (Hdr.adr 14) Hdr.momEvent = 12 := by
  have hlen : (s.hif.reads.filter fun x => x.reader == .blob k).length = 0 := by simpa using hn
  have hreading : s.reading (s.slicePf k) (.blob k) = false := by
    simp only [State.reading, List.any_eq_false]
    exact fun x hx => by simp [hn x hx]
  refine ⟨_, ?_, s.restoreFails_shows k slBAD_BLOB (by decide)⟩
  unfold execRestoreDone
  dsimp only
  rw [if_neg (not_not.2 hst), if_neg (not_not.2 (hr.trans hlen.symm)), if_pos (by simp [hreading])]

variable (hr : s.readsOf (.blob k) = (s.hif.reads.filter fun x => x.reader == .blob k).length)
  (hg : s.reading (s.slicePf k) (.blob k) = true)
include hr hg

/-- The reads have ended: the head has the rest read, or the blob is judged. -/
theorem execRestoreDone_entered : execRestoreDone k blob s =
    if !s.hif.restoring.contains k.val && s.headOk k blob && decide (32 < leAt blob 16 8) then
      .next ((s.readsEnd (s.slicePf k) (.blob k)).restoreRest k (leAt blob 16 8))
    else match (s.readsEnd (s.slicePf k) (.blob k)).restore k blob with
      | .error st => .next ((s.readsEnd (s.slicePf k) (.blob k)).restoreFails k st)
      | .ok t => .next ((((t.setRestoring k false).toSlice k slFROZEN).set (HifSlice.adr k) HifSlice.status slOK).hifEvent 12 (s.slicePf k) (some k.val)) :=
  (if_neg (not_not.2 hst)).trans ((if_neg (not_not.2 hr)).trans (if_neg (by simp [hg])))

theorem execRestoreDone_head (hn : k.val ∉ s.hif.restoring) (hh : s.headOk k blob = true) (hlen : 32 < leAt blob 16 8) :
    execRestoreDone k blob s = .next ((s.readsEnd (s.slicePf k) (.blob k)).restoreRest k (leAt blob 16 8)) :=
  (execRestoreDone_entered k blob s hst hr hg).trans (if_pos (by simp [hn, hh, hlen]))

variable (hb : k.val ∈ s.hif.restoring ∨ s.headOk k blob = false ∨ leAt blob 16 8 ≤ 32)
include hb

theorem execRestoreDone_judged : execRestoreDone k blob s =
    match (s.readsEnd (s.slicePf k) (.blob k)).restore k blob with
      | .error st => .next ((s.readsEnd (s.slicePf k) (.blob k)).restoreFails k st)
      | .ok t => .next ((((t.setRestoring k false).toSlice k slFROZEN).set (HifSlice.adr k) HifSlice.status slOK).hifEvent 12 (s.slicePf k) (some k.val)) := by
  refine (execRestoreDone_entered k blob s hst hr hg).trans (if_neg ?_)
  simp only [Bool.and_eq_true, Bool.not_eq_true', decide_eq_true_eq]
  rintro ⟨⟨hn, hh⟩, hlen⟩
  obtain h | h | h := hb
  · simp [h] at hn
  · exact absurd (h.symm.trans hh) (by decide)
  · omega

theorem execRestoreDone_ok (t : State) (hok : (s.readsEnd (s.slicePf k) (.blob k)).restore k blob = .ok t) :
    execRestoreDone k blob s = .next ((((t.setRestoring k false).set (HifSlice.adr k) HifSlice.state slFROZEN).set
      (HifSlice.adr k) HifSlice.status slOK).raise 14 12 (s.slicePf k + 65536 * k.val)) := by
  rw [execRestoreDone_judged k blob s hst hr hg hb, hok]
  rfl

theorem execRestoreDone_error (st : Nat) (herr : (s.readsEnd (s.slicePf k) (.blob k)).restore k blob = .error st) (h256 : st < 256) :
    ∃ t, execRestoreDone k blob s = .next t ∧ t.sliceState k = slBOUND ∧ t.get (HifSlice.adr k) HifSlice.status = st ∧
      t.get (Hdr.adr 14) Hdr.momEvent = 12 := by
  refine ⟨(s.readsEnd (s.slicePf k) (.blob k)).restoreFails k st, ?_, State.restoreFails_shows _ k st h256⟩
  rw [execRestoreDone_judged k blob s hst hr hg hb, herr]

end

theorem State.sliceState_restoreBegin (k : Nat) (s : State) : (s.restoreBegin k).sliceState k = slRESTORING :=
  ((State.linkOnly_dmaRead _ _ _ _ _ _).get _ _).trans (State.get_set_same _ _ _ _)

/-- Settles O36: the gate's rule for the commands of a slice, one lemma for what a frozen slice shows and one for a restore that fails. -/
theorem slicesAreBoundFrozenSavedAndRestored : Obligations.SlicesAreBoundFrozenSavedAndRestored :=
  ⟨execSliceBind_within, execSliceBind_beyond, execSliceUnbind_idle, fun o k s u h => sliceCommands_act o k s u h,
    fun o k s u h => sliceCommands_refused o k s u h, State.rope_freezeSlice_own, State.rope_freezeSlice_off, execSliceFrozen_settled,
    execSliceFrozen_waits, execFreezeLimitExpiry_doubts, execSaveDone_ends, execRestoreDone_head,
    fun k blob s t hst hr hg hb => execRestoreDone_ok k blob s hst hr hg hb t,
    fun k st blob s hst hr hg hb => execRestoreDone_error k blob s hst hr hg hb st, execRestoreDone_waits, execRestoreDone_none,
    State.sliceState_restoreBegin⟩

end Sys2Proof.Machine
end

section
/-!
The small statements: steps and the empty queue, the state after reset, and the refusals of PWR_SPREAD.
-/

namespace Sys2Proof.Machine

/-- Settles O1: a step of a queue with a front command unfolds to that command. -/
theorem stepRunsTheFrontCommand : Obligations.StepRunsTheFrontCommand := fun _ _ _ => rfl

theorem step_empty (s : State) (h : s.pending = []) : step s = .next s := by
  rw [step, h]

/-- Settles O2: no row of the table has bits. -/
theorem emptyQueueIdles : Obligations.EmptyQueueIdles := ⟨step_empty, fun _ _ => rfl, fun _ _ _ => rfl⟩

/-- Settles O4: nothing is listed and nothing is staged after reset. -/
theorem resetIsSound : Obligations.ResetIsSound := ⟨rfl, rfl, Nat.zero_le _⟩

/-! ## PWR_SPREAD (R478) -/

theorem State.spreadBad_depth (s : State) (v : Word) (h : 5 < bits v.toNat 18 16) : s.spreadBad v.toNat = true := by
  simp [State.spreadBad, h]

/-- A launch offset of 752 ns, in force or as last written, forbids spread on CLK_CXE. -/
theorem State.spreadBad_launch (s : State) (v : Word) (r : Fin 16) (p : Nat) (hv : v.getLsbD 2 = true)
    (h : ropeOn s.inForce r = true ∧ p ∈ s.ropePorts s.inForce r ∧ ropeLaunch s.inForce p r = 752 ∨
      ropeOn s.rd r = true ∧ p ∈ s.ropePorts s.rd r ∧ ropeLaunch s.rd p r = 752) : s.spreadBad v.toNat = true := by
  have hbit : bit v.toNat 2 = true := (bit_eq_getLsbD v 2).trans hv
  refine Bool.or_eq_true_iff.2 (.inr (Bool.and_eq_true_iff.2 ⟨hbit, List.any_eq_true.2 ⟨r, List.mem_range.2 r.isLt, ?_⟩⟩))
  simp only [Bool.or_eq_true, Bool.and_eq_true, List.any_eq_true, beq_iff_eq]
  exact h.imp (fun ⟨hon, hp, hl⟩ => ⟨hon, p, hp, hl⟩) fun ⟨hon, hp, hl⟩ => ⟨hon, p, hp, hl⟩

theorem execSpreadWrite_refused (o : Sys2Proof.Origin) (v : Word) (s : State)
    (h : s.Open o 0 0x1110 (s.rwlDiffers PwrSpread.adr v) false) (hb : s.spreadBad v.toNat = true) :
    execSpreadWrite o v s = .next ((s.awake o 0).raise 0 2 0x1110) := by
  rw [execSpreadWrite, State.spreadWrite, State.gate_open _ _ _ _ _ _ _ h]
  exact congrArg WRes.out (if_pos hb)

/-- An event leaves the fields of PWR_SPREAD. -/
theorem PwrSpread.quiet (f : Fld) (h0 : f.off = 0) (h1 : f.words = 1) : f.Quiet PwrSpread.adr := by
  intro j hj
  rw [h1] at hj
  simp only [QuietWord, PwrSpread.adr, h0]
  omega

/-- Settles O39: both refusals are `spreadBad`, and an event writes neither field. -/
theorem spreadIsRefused : Obligations.SpreadIsRefused :=
  ⟨fun o v s h hd => execSpreadWrite_refused o v s h (s.spreadBad_depth v hd),
    fun o v r p s h hv hl => execSpreadWrite_refused o v s h (s.spreadBad_launch v r p hv hl),
    fun _ _ => ⟨State.get_raise _ _ _ _ _ _ (PwrSpread.quiet _ rfl rfl), State.get_raise _ _ _ _ _ _ (PwrSpread.quiet _ rfl rfl)⟩⟩

end Sys2Proof.Machine
end

section
/-!
The lead: what a side's command does to it, the commands of one tick, the lapse of the lease, and the event messages of the
management port.
-/

namespace Sys2Proof.Machine

/-! ## One side's command (R528) -/

section
variable (s : State)

theorem State.holder_giveLead (h l : Nat) (hh : h < 4) : (s.giveLead h l).holder = h := by
  refine (State.get_set_apart _ SysLead.adr SysLead.lease l SysLead.adr SysLead.holder (Fld.apart_entry (by decide) _)).trans ?_
  exact (State.get_set_same _ _ _ _).trans (Nat.mod_eq_of_lt hh)

theorem State.leadOne_badLease (side op l : Nat) (ho : op = loCLAIM ∨ op = loRENEW) (hl : l < 10 ∨ 10000 < l) :
    s.leadOne side op l = s.leadResult side lrBAD_LEASE := by
  obtain rfl | rfl := ho
  · exact (if_neg (by decide)).trans (if_pos ⟨by decide, hl⟩)
  · exact (if_neg (by decide)).trans (if_pos ⟨by decide, hl⟩)

/-- A command with a lease within its range meets the holder. -/
theorem State.leadOne_judged (side op l : Nat) (h0 : op ≠ 0) (hl : op = loRELEASE ∨ 10 ≤ l ∧ l ≤ 10000) :
    s.leadOne side op l =
      if s.holder = side then
        if op = loRELEASE then (s.giveLead ldNONE 0).leadResult side lrRELEASED else (s.giveLead side l).leadResult side lrRENEWED
      else if s.holder = ldNONE ∧ op = loCLAIM then (s.giveLead side l).leadResult side lrGRANTED
      else (s.leadResult side (if op = loCLAIM then lrHELD_BY_OTHER else lrNOT_HOLDER)).notLead 0 0x1208 :=
  (if_neg h0).trans (if_neg fun hc => hl.elim hc.1 fun h => by omega)

theorem State.leadOne_holder (side op l : Nat) (h0 : op ≠ 0) (h3 : op ≠ loRELEASE) (hl : 10 ≤ l ∧ l ≤ 10000) (hs : s.holder = side) :
    s.leadOne side op l = (s.giveLead side l).leadResult side lrRENEWED :=
  (s.leadOne_judged side op l h0 (.inr hl)).trans ((if_pos hs).trans (if_neg h3))

theorem State.leadOne_other (side op l : Nat) (h0 : op ≠ 0) (hl : op = loRELEASE ∨ 10 ≤ l ∧ l ≤ 10000) (hs : s.holder ≠ side)
    (hn : ¬ (s.holder = ldNONE ∧ op = loCLAIM)) :
    s.leadOne side op l = (s.leadResult side (if op = loCLAIM then lrHELD_BY_OTHER else lrNOT_HOLDER)).notLead 0 0x1208 :=
  (s.leadOne_judged side op l h0 hl).trans ((if_neg hs).trans (if_neg hn))

theorem State.leadOne_sides (side l : Nat) (hside : side = ldHOST ∨ side = ldMANAGEMENT) (h10 : 10 ≤ l) (hmax : l ≤ 10000) :
    (s.holder = ldNONE → s.leadOne side loCLAIM l = (s.giveLead side l).leadResult side lrGRANTED) ∧
    (s.holder = side → s.leadOne side loCLAIM l = (s.giveLead side l).leadResult side lrRENEWED ∧
      s.leadOne side loRENEW l = (s.giveLead side l).leadResult side lrRENEWED) ∧
    (s.holder = side → s.leadOne side loRELEASE 0 = (s.giveLead ldNONE 0).leadResult side lrRELEASED) ∧
    (s.holder ≠ side → s.holder ≠ ldNONE → s.leadOne side loCLAIM l = (s.leadResult side lrHELD_BY_OTHER).notLead 0 0x1208) ∧
    (s.holder ≠ side → s.leadOne side loRENEW l = (s.leadResult side lrNOT_HOLDER).notLead 0 0x1208 ∧
      s.leadOne side loRELEASE 0 = (s.leadResult side lrNOT_HOLDER).notLead 0 0x1208) := by
  have hpos : ldNONE ≠ side := by obtain rfl | rfl := hside <;> decide
  refine ⟨fun hn => ?_, fun hs => ?_, fun hs => ?_, fun hs hn => ?_, fun hs => ?_⟩
  · rw [s.leadOne_judged side loCLAIM l (by decide) (.inr ⟨h10, hmax⟩), if_neg (hn.trans_ne hpos), if_pos ⟨hn, rfl⟩]
  · exact ⟨s.leadOne_holder side _ l (by decide) (by decide) ⟨h10, hmax⟩ hs, s.leadOne_holder side _ l (by decide) (by decide) ⟨h10, hmax⟩ hs⟩
  · exact (s.leadOne_judged side _ 0 (by decide) (.inl rfl)).trans ((if_pos hs).trans (if_pos rfl))
  · exact s.leadOne_other side _ l (by decide) (.inr ⟨h10, hmax⟩) hs fun h => hn h.1
  · exact ⟨s.leadOne_other side _ l (by decide) (.inr ⟨h10, hmax⟩) hs fun h => absurd h.2 (by decide),
      s.leadOne_other side _ 0 (by decide) (.inl rfl) hs fun h => absurd h.2 (by decide)⟩

/-! ## The commands of a tick (R529) -/

theorem State.leadTick_both (a b c d : Nat) (t : State) :
    (s.holder = ldHOST → t = (s.leadOne ldHOST a b).leadOne ldMANAGEMENT c d →
      s.leadTick (some (a, b)) (some (c, d)) = if t.holder = s.holder then t else t.raise 20 4 t.holder) ∧
    (s.holder ≠ ldHOST → t = (s.leadOne ldMANAGEMENT c d).leadOne ldHOST a b →
      s.leadTick (some (a, b)) (some (c, d)) = if t.holder = s.holder then t else t.raise 20 4 t.holder) := by
  refine ⟨fun h ht => ?_, fun h ht => ?_⟩
  · simp only [State.leadTick, if_pos h, ← ht]
  · simp only [State.leadTick, if_neg h, ← ht]

theorem State.leadTick_one (a b : Nat) :
    (s.leadTick (some (a, b)) none = if (s.leadOne ldHOST a b).holder = s.holder then s.leadOne ldHOST a b
      else (s.leadOne ldHOST a b).raise 20 4 (s.leadOne ldHOST a b).holder) ∧
    (s.leadTick none (some (a, b)) = if (s.leadOne ldMANAGEMENT a b).holder = s.holder then s.leadOne ldMANAGEMENT a b
      else (s.leadOne ldMANAGEMENT a b).raise 20 4 (s.leadOne ldMANAGEMENT a b).holder) := by
  simp only [State.leadTick, ite_self, and_self]

variable (op lease : Nat)

theorem State.leadWrite_host (other : Option (Nat × Nat)) (h : s.Open .host 0 0x1208 false false) :
    (s.leadWrite .host op lease other).1 = (s.awake .host 0).leadTick (some (op, lease)) other :=
  congrArg Prod.fst (State.gate_open _ _ _ _ _ _ _ h)

theorem State.leadWrite_management (other : Option (Nat × Nat)) (h : s.Open .management 0 0x1208 false false) :
    (s.leadWrite .management op lease other).1 = (s.awake .management 0).leadTick other (some (op, lease)) :=
  congrArg Prod.fst (State.gate_open _ _ _ _ _ _ _ h)

/-! ## Naonant requests -/

/-- A request of a VERSION that has the command is served, and answered once. -/
theorem State.naonantServe_served (m : BitVec 4 × BitVec 8) (cmd : Nat) (v1 : Bool) (f : State → State × Nat × List Byte)
    (hup : s.mgtUp = true) (hm : m.1 = 2#4 ∨ v1 = true ∧ m.1 = 1#4) :
    s.naonantServe m cmd v1 f = (f (s.heard m)).1.reply m cmd (f (s.heard m)).2.1 (f (s.heard m)).2.2 := by
  have hv : ¬ ((m.1 = 1#4 ∧ (!v1) = true) ∨ (m.1 ≠ 1#4 ∧ m.1 ≠ 2#4)) := by
    obtain h | ⟨h, h'⟩ := hm
    · simp [h]
    · simp [h, h']
  exact (if_neg (by simp [hup])).trans (if_neg hv)

theorem State.leadMsg_served (o : Sys2Proof.Origin) (m : BitVec 4 × BitVec 8) (t : State) (hup : s.mgtUp = true) (hm : m.1 = 1#4 ∨ m.1 = 2#4)
    (ht : t = (s.heard m).leadTick none (some (op, lease))) :
    s.leadMsg o (some m) op lease none =
      t.reply m ncLEAD (if t.get SysLeadResult.adr SysLeadResult.management = lrHELD_BY_OTHER ∨
          t.get SysLeadResult.adr SysLeadResult.management = lrNOT_HOLDER then nsNOT_LEAD else nsOK)
        (leBytes 4 t.leadWord.toNat ++ leBytes 4 (t.rd SysLeadResult.adr).toNat) := by
  subst ht
  rw [State.leadMsg]
  exact s.naonantServe_served m ncLEAD true _ hup (hm.symm.imp_right fun h => ⟨rfl, h⟩)

end

/-! ## Event messages (R531) -/

section
variable (s : State)

theorem State.eventGone_keeps (b : List Byte) :
    (s.eventGone none).staged = mgtDone s.staged ∧ (s.eventGone none).out = s.out ∧ (s.eventGone (some b)).staged = mgtDone s.staged ∧
      (s.eventGone (some b)).out = s.out ++ [.mgt b] := by
  have hstaged : (s.putStaged (mgtDone s.staged)).staged = mgtDone s.staged := State.set_staged _ _ _ _
  have hout : (s.putStaged (mgtDone s.staged)).out = s.out := State.set_out _ _ _ _
  exact ⟨hstaged, hout, hstaged, congrArg (· ++ [Out.mgt b]) hout⟩

theorem mgtDone_first (e : Staged) (l : List Staged) (q : Nat) (h : e.mgt = some q) :
    mgtDone (e :: l) = if e.host = true then { e with mgt := none } :: l else l := by
  rw [mgtDone, h]
  rfl

section
variable (hup : s.mgtUp = true) (taken : Bool)
include hup

theorem execEventMessage_first (ht : s.mgt.tried = false) : execEventMessage taken s =
    .next (s.tryEvent taken { s with mgt := { s.mgt with tried := true, retries := 0 } }) :=
  congrArg _ (if_pos (by simp [hup, ht]))

theorem execEventRetry_again (ht : s.mgt.tried = true) (hr : s.mgt.retries + 1 ≤ s.act MgtEvents.adr MgtEvents.retries) :
    execEventRetry taken s = .next (s.tryEvent taken (if s.mgt.retries + 1 = s.act MgtEvents.adr MgtEvents.retries then s.eventGone none
      else { s with mgt := { s.mgt with retries := s.mgt.retries + 1 } })) :=
  congrArg _ ((if_pos (by simp [hup, ht])).trans (if_neg (Nat.not_lt.2 hr)))

end

variable {e : Staged} {q : Nat} (hh : s.mgtHead = some (e, q))
include hh

theorem State.tryEvent_sends (taken : Bool) (miss : State) (he : s.get MgtStatus.adr MgtStatus.eid ≠ 0) (hen : s.act MgtEvents.adr MgtEvents.enable ≠ 0) :
    s.tryEvent taken miss = if taken = true then s.eventGone (some (s.eventBytes e q)) else miss := by
  rw [State.tryEvent, hh]
  exact if_neg (not_or.2 ⟨he, hen⟩)

theorem State.tryEvent_discards (taken : Bool) (miss : State) (h : s.get MgtStatus.adr MgtStatus.eid = 0 ∨ s.act MgtEvents.adr MgtEvents.enable = 0) :
    s.tryEvent taken miss = s.eventGone none := by
  rw [State.tryEvent, hh]
  exact if_pos h

/-- The life of the oldest event message: a first attempt, and then retries up to their limit. -/
theorem eventMessage_attempts (hup : s.mgtUp = true) (taken : Bool) :
    (s.get MgtStatus.adr MgtStatus.eid ≠ 0 → s.act MgtEvents.adr MgtEvents.enable ≠ 0 → s.mgt.tried = false →
      (taken = true → execEventMessage taken s = .next (s.eventGone (some (s.eventBytes e q)))) ∧
      (taken = false → execEventMessage taken s = .next { s with mgt := { s.mgt with tried := true, retries := 0 } })) ∧
    (s.get MgtStatus.adr MgtStatus.eid ≠ 0 → s.act MgtEvents.adr MgtEvents.enable ≠ 0 → s.mgt.tried = true →
      s.mgt.retries + 1 ≤ s.act MgtEvents.adr MgtEvents.retries →
      (taken = true → execEventRetry taken s = .next (s.eventGone (some (s.eventBytes e q)))) ∧
      (taken = false → s.mgt.retries + 1 < s.act MgtEvents.adr MgtEvents.retries →
        execEventRetry taken s = .next { s with mgt := { s.mgt with retries := s.mgt.retries + 1 } }) ∧
      (taken = false → s.mgt.retries + 1 = s.act MgtEvents.adr MgtEvents.retries → execEventRetry taken s = .next (s.eventGone none))) ∧
    ((s.get MgtStatus.adr MgtStatus.eid = 0 ∨ s.act MgtEvents.adr MgtEvents.enable = 0) → s.mgt.tried = false →
      execEventMessage taken s = .next (s.eventGone none)) := by
  refine ⟨fun he hen ht => ?_, fun he hen ht hr => ?_, fun h ht => ?_⟩
  · rw [execEventMessage_first s hup taken ht, s.tryEvent_sends hh taken _ he hen]
    exact ⟨fun h => congrArg _ (if_pos h), fun h => congrArg _ (if_neg (by simp [h]))⟩
  · rw [execEventRetry_again s hup taken ht hr, s.tryEvent_sends hh taken _ he hen]
    exact ⟨fun h => congrArg _ (if_pos h), fun h hlt => congrArg _ ((if_neg (by simp [h])).trans (if_neg (Nat.ne_of_lt hlt))),
      fun h heq => congrArg _ ((if_neg (by simp [h])).trans (if_pos heq))⟩
  · rw [execEventMessage_first s hup taken ht, s.tryEvent_discards hh taken _ h]

end

theorem execLeaseLapsed_due (s : State) (hup : s.mgtUp = true) (hh : s.holder ≠ ldNONE) (ht : s.mgt.leaseTicks ≤ 1) :
    execLeaseLapsed s = .next s.leaseLapse :=
  congrArg _ (if_neg (by simp [hup, hh, ht]))

theorem execLeaseLapsed_idle (s : State) (h : s.mgtUp = false ∨ s.holder = ldNONE ∨ 1 < s.mgt.leaseTicks) : execLeaseLapsed s = .next s :=
  congrArg _ (if_pos (by simpa [or_assoc] using h))

/-- Settles O57: a command is judged by its lease and then by the holder, and the lease lapses at its last tick. -/
theorem leadPassesByCommandAndLapse : Obligations.LeadPassesByCommandAndLapse :=
  ⟨fun h l s hh => ⟨s.holder_giveLead h l hh, rfl⟩, fun side l s => s.leadOne_sides side l, fun side op l s => s.leadOne_badLease side op l,
    fun a b c d s t => s.leadTick_both a b c d t, fun a b s => s.leadTick_one a b,
    fun _ _ _ s h => ⟨congrArg _ (s.leadWrite_host _ _ none h), congrArg _ (s.leadWrite_host _ _ _ h), congrArg _ (s.leadWrite_host _ _ none h),
      congrArg _ (s.leadWrite_host _ _ none h)⟩,
    fun _ s h => ⟨congrArg _ (s.leadWrite_management _ _ none h), congrArg _ (s.leadWrite_management _ _ none h),
      congrArg _ (s.leadWrite_management _ _ none h)⟩,
    fun o m _ s t _ hup hm hr => ⟨fun ht => congrArg _ (hr ▸ s.leadMsg_served _ _ o m t hup hm ht), fun ht => congrArg _ (hr ▸ s.leadMsg_served _ _ o m t hup hm ht),
      fun ht => congrArg _ (hr ▸ s.leadMsg_served _ _ o m t hup hm ht)⟩,
    execLeaseLapsed_due, execLeaseLapsed_idle, fun taken _ _ s hup hh => eventMessage_attempts s hh hup taken, fun b s => s.eventGone_keeps b,
    mgtDone_first⟩

end Sys2Proof.Machine
end

section
/-!
MCTP control, PLDM and SPDM at the management port: each request is its own rule, and what an update's state takes.
-/

namespace Sys2Proof.Machine

/-! ## MCTP control (R518, R519) -/

section
variable (iid : BitVec 5) (s : State)

theorem State.mctp_out (cmd cc : Nat) (body : List Byte) (hup : s.mgtUp = true) :
    (s.mctp iid cmd cc body).out = s.out ++ [.mgt (leBytes 1 0 ++ leBytes 1 iid.toNat ++ leBytes 1 cmd ++ leBytes 1 cc ++ body)] := by
  rw [State.mctp, if_pos hup]
  rfl

theorem State.pldm_out (ty cmd cc : Nat) (body : List Byte) (hup : s.mgtUp = true) :
    (s.pldm iid ty cmd cc body).out =
      s.out ++ [.mgt (leBytes 1 1 ++ leBytes 1 iid.toNat ++ leBytes 1 ty ++ leBytes 1 cmd ++ leBytes 1 cc ++ body)] := by
  rw [State.pldm, if_pos hup]
  rfl

theorem execGetMctpVersionSupport_base (ty : BitVec 8) (h : ty = 0#8 ∨ ty = 0xFF#8) :
    execGetMctpVersionSupport iid ty s = .next (s.mctp iid 4 0 [1#8, 0xF1#8, 0xF3#8, 0xFF#8, 0x00#8]) := congrArg _ (if_pos h)

theorem State.length_freeData (n : Nat) : (s.freeData n).length = n := by
  simp [State.freeData, slice]

theorem execGetMctpVersionSupport_types (ty : BitVec 8) (h : ty = 1#8 ∨ ty = 5#8 ∨ ty = 0x7E#8) :
    ∃ body, execGetMctpVersionSupport iid ty s = .next ((s.mctp iid 4 0 (1#8 :: body)).tickFree) ∧ body.length = 4 := by
  refine ⟨s.freeData 4, congrArg _ ((if_neg ?_).trans (if_pos h)), s.length_freeData 4⟩
  obtain rfl | rfl | rfl := h <;> decide

theorem execGetMctpVersionSupport_unknown (ty : BitVec 8) (h : ty = 2#8) : execGetMctpVersionSupport iid ty s = .next (s.mctp iid 4 0x80 []) := by
  subst h
  rfl

theorem execGetVendorDefinedMessageSupport_first (sel : BitVec 8) (h : sel = 0#8) :
    ∃ body, execGetVendorDefinedMessageSupport iid sel s = .next ((s.mctp iid 6 0 ([0xFF#8, 0#8] ++ beBytes 2 0x1F8C ++ body)).tickFree) :=
  ⟨_, congrArg _ (if_pos h)⟩

variable (hup : s.mgtUp = true)
include hup

theorem execSetEndpointId_keeps (src : BitVec 7) (eid : BitVec 8) (h0 : eid ≠ 0#8) (hF : eid ≠ 0xFF#8) :
    ∃ t : State, execSetEndpointId iid src eid s = .next (t.mctp iid 1 0 [0#8, eid, 0#8]) ∧
      t.get MgtStatus.adr MgtStatus.eid = eid.toNat ∧ t.mgt.owner = src.toNat ∧ t.out = s.out :=
  ⟨_, congrArg _ ((if_neg (by simp [hup])).trans (if_neg (not_or.2 ⟨h0, hF⟩))),
    (State.get_set_same _ _ _ _).trans (Nat.mod_eq_of_lt eid.isLt), rfl, State.set_out _ _ _ _⟩

theorem execSetEndpointId_refuses (src : BitVec 7) (eid : BitVec 8) (h : eid = 0#8 ∨ eid = 0xFF#8) :
    execSetEndpointId iid src eid s = .next (s.mctp iid 1 2 []) :=
  congrArg _ ((if_neg (by simp [hup])).trans (if_pos h))

theorem execI3cDynamicAddress_mode (a : BitVec 7) :
    ∃ t : State, execI3cDynamicAddress a s = .next t ∧ t.get MgtStatus.adr MgtStatus.mode = 2 ∧ t.get MgtSmbus.adr MgtSmbus.dynAddr = a.toNat :=
  ⟨(s.set MgtStatus.adr MgtStatus.mode 2).set MgtSmbus.adr MgtSmbus.dynAddr a.toNat, congrArg _ (if_pos hup),
    (State.get_set_apart _ _ _ _ _ _ (by decide)).trans (State.get_set_same _ _ _ _),
    (State.get_set_same _ _ _ _).trans (Nat.mod_eq_of_lt a.isLt)⟩

end

/-! ## PLDM base and monitoring (R532) -/

section
variable (iid : BitVec 5) (s : State)

theorem pldmTypes_contains (ty : BitVec 8) : pldmTypes.contains ty.toNat = true ↔ ty = 0#8 ∨ ty = 2#8 ∨ ty = 5#8 := by
  simp [pldmTypes, ← BitVec.toNat_inj]

theorem pldmTypes_answered (ty : BitVec 8) (h : ty = 0#8 ∨ ty = 2#8 ∨ ty = 5#8) :
    execGetPldmVersion iid ty s = .next (s.pldm iid 0 3 0 (s.freeData 13)).tickFree ∧
      execGetPldmCommands iid ty s = .next (s.pldm iid 0 5 0 (bitMap 32 (pldmCommands ty.toNat))) :=
  ⟨congrArg _ (if_pos ((pldmTypes_contains ty).2 h)), congrArg _ (if_pos ((pldmTypes_contains ty).2 h))⟩

theorem pldmTypes_refused (ty : BitVec 8) (h0 : ty ≠ 0#8) (h2 : ty ≠ 2#8) (h5 : ty ≠ 5#8) :
    execGetPldmVersion iid ty s = .next (s.pldm iid 0 3 0x83 []) ∧ execGetPldmCommands iid ty s = .next (s.pldm iid 0 5 0x83 []) := by
  have hn : ¬ pldmTypes.contains ty.toNat = true := fun h => by
    obtain h | h | h := (pldmTypes_contains ty).1 h
    · exact h0 h
    · exact h2 h
    · exact h5 h
  exact ⟨congrArg _ (if_neg hn), congrArg _ (if_neg hn)⟩

theorem sensors_answered (n : BitVec 16) (r : Word) :
    (1 ≤ n.toNat → n.toNat ≤ 4 → execGetSensorReading iid n r s =
      .next (s.pldm iid 2 0x11 0 ([5#8, 0#8, 0#8, 0#8, 0#8, 0#8] ++ leBytes 4 r.toNat))) ∧
    (n.toNat = 0 ∨ 4 < n.toNat → execGetSensorReading iid n r s = .next (s.pldm iid 2 0x11 0x80 [])) ∧
    (n = 10#16 → execGetStateSensorReadings iid n s =
      .next (s.pldm iid 2 0x21 0 ([1#8, 0#8] ++ leBytes 1 (s.get PwrStatus.adr PwrStatus.state) ++ s.freeData 2)).tickFree) ∧
    (n = 11#16 → execGetStateSensorReadings iid n s =
      .next (s.pldm iid 2 0x21 0 ([1#8, 0#8] ++ leBytes 1 (s.get BootStatus.adr BootStatus.haltCode) ++ s.freeData 2)).tickFree) ∧
    (n ≠ 10#16 → n ≠ 11#16 → execGetStateSensorReadings iid n s = .next (s.pldm iid 2 0x21 0x80 [])) := by
  refine ⟨fun h1 h4 => congrArg _ (if_pos ⟨h1, h4⟩), fun h => congrArg _ (if_neg (by omega)), fun h => congrArg _ (if_pos h), fun h => ?_,
    fun h h' => congrArg _ ((if_neg h).trans (if_neg h'))⟩
  subst h
  rfl

/-! ## An update (R532) -/

theorem requestUpdate_judged (hup : s.mgtUp = true) :
    (s.mgt.pldm.state ≠ fdIDLE → execRequestUpdate iid s = .next (s.pldm iid 5 0x10 0x81 [])) ∧
    (s.mgt.pldm.state = fdIDLE → s.leads .management = false ∨ s.asleep = true ∨ s.dark 2 = true →
      execRequestUpdate iid s = .next (s.pldm iid 5 0x10 0x8A [])) ∧
    (s.mgt.pldm.state = fdIDLE → s.leads .management = true → s.asleep = false → s.dark 2 = false →
      execRequestUpdate iid s = .next ((s.fd fdLEARN).pldm iid 5 0x10 0 [0#8, 0#8, 0#8])) := by
  have hrun : ¬ (!s.mgtUp) = true := by simp [hup]
  refine ⟨fun h => congrArg _ ((if_neg hrun).trans (if_pos h)), fun h hd => ?_, fun h hl ha hd => ?_⟩
  · exact congrArg _ ((if_neg hrun).trans ((if_neg (not_not.2 h)).trans (if_pos (by simpa [or_assoc] using hd))))
  · exact congrArg _ ((if_neg hrun).trans ((if_neg (not_not.2 h)).trans (if_neg (by simp [hl, ha, hd]))))

theorem execPassComponentTable_learns (last : Bool) (h : s.mgt.pldm.state = fdLEARN) :
    execPassComponentTable iid last s = .next ((if last = true then s.fd fdREADY else s).pldm iid 5 0x13 0 [0#8, 0#8]) := congrArg _ (if_pos h)

variable (c : BitVec 16) (z : Word)

theorem execUpdateComponent_sound (h : s.mgt.pldm.state = fdREADY) (hc : c = 1#16 ∨ c = 2#16) (hz : z.toNat ≤ s.stageArea.2) :
    ∃ t : State, ∃ body, execUpdateComponent iid c z s = .next (t.pldm iid 5 0x14 0 (List.replicate 6 0#8 ++ body)).tickFree ∧
      t.mgt.pldm = ⟨fdDOWNLOAD, fdREADY, c.toNat, z.toNat, 0⟩ :=
  ⟨_, s.freeData 2, congrArg _ ((if_neg (not_not.2 h)).trans (if_pos ⟨hc, hz⟩)),
    congrArg (fun p => Pldm.mk fdDOWNLOAD p c.toNat z.toNat 0) h⟩

theorem execUpdateComponent_unsound (h : s.mgt.pldm.state = fdREADY) (hb : (c ≠ 1#16 ∧ c ≠ 2#16) ∨ s.stageArea.2 < z.toNat) :
    ∃ body, execUpdateComponent iid c z s = .next (s.pldm iid 5 0x14 0 (1#8 :: body)).tickFree := by
  refine ⟨_, congrArg _ ((if_neg (not_not.2 h)).trans (if_neg ?_))⟩
  rintro ⟨hc, hz⟩
  obtain ⟨h1, h2⟩ | hb := hb
  · exact hc.elim h1 h2
  · exact absurd hz (Nat.not_le.2 hb)

theorem execCancelUpdate_idle (h : s.mgt.pldm.state = fdIDLE) : execCancelUpdate iid s = .next (s.pldm iid 5 0x1D 0x80 []) := by
  rw [execCancelUpdate, if_pos h, State.fdWrong, if_pos h]

/-! ## The data of a component, and the end of an update -/

theorem State.linkOnly_pldmAsks (cmd : Nat) (body : List Byte) : s.LinkOnly (s.pldmAsks cmd body) :=
  (s.linkOnly_emit _).trans (State.linkOnly_tickFree _)

/-- The bytes `d` of a component are programmed at `addr`, and the component is taken up to `n`. -/
def State.fdTakes (s : State) (addr : Nat) (d : List Byte) (n : Nat) : State :=
  let t := s.emit (.flashProgram addr d)
  { t with mgt := { t.mgt with pldm := { t.mgt.pldm with offset := n } } }

/-- The bytes that arrive are programmed behind what else leaves the device for them. -/
theorem execRequestFirmwareData_eq (d d' : List Byte) (h : d' = d.take (s.mgt.pldm.size - s.mgt.pldm.offset)) :
    ∃ u : State, s.LinkOnly u ∧ execRequestFirmwareData d s =
      .next (if s.fdRuns fdDOWNLOAD && !d'.isEmpty && !s.getB CfgStageCmd.adr CfgStageCmd.busy then
        u.fdTakes (s.stageArea.1 + s.mgt.pldm.offset) d' (s.mgt.pldm.offset + d'.length) else s) := by
  subst h
  exact ⟨_, ((s.linkOnly_pldmAsks _ _).trans (State.linkOnly_startClocks _ _)).trans
    (State.linkOnly_foldl _ (fun u _ => u.linkOnly_emit _) _ _), rfl⟩

theorem execRequestFirmwareData_stages (d : List Byte) (hr : s.fdRuns fdDOWNLOAD = true) (hb : s.getB CfgStageCmd.adr CfgStageCmd.busy = false)
    (hd : d ≠ []) (hl : d.length ≤ s.mgt.pldm.size - s.mgt.pldm.offset) :
    ∃ t : State, execRequestFirmwareData d s = .next t ∧ t.mgt.pldm = { s.mgt.pldm with offset := s.mgt.pldm.offset + d.length } ∧
      t.out.getLast? = some (.flashProgram (s.stageArea.1 + s.mgt.pldm.offset) d) := by
  obtain ⟨u, hu, he⟩ := execRequestFirmwareData_eq s d d (List.take_of_length_le hl).symm
  have hm : u.mgt = s.mgt := hu.frame State.mgt fun _ _ _ _ => rfl
  exact ⟨_, he.trans (congrArg _ (if_pos (by simp [hr, hb, hd]))),
    congrArg (fun m : Mgt => { m.pldm with offset := s.mgt.pldm.offset + d.length }) hm, List.getLast?_concat⟩

theorem execVerifyComplete_header (env img : List Byte) (h : FlashHdr) (hr : s.fdRuns fdVERIFY = true) (hh : s.boot.hdr = some h) (bad : Bool)
    (hb : [0x10, 0x11, 0x17].contains (s.installFault h env img) = bad) :
    execVerifyComplete env img s = .next ((s.fd (if (!bad) = true then fdAPPLY else fdREADY)).pldmAsks 0x17 [if (!bad) = true then 0#8 else 1#8]) := by
  subst hb
  unfold execVerifyComplete
  rw [if_pos hr, hh]

/-! ## SPDM (R533, R534) -/

theorem State.spdmRelay_locked (q : List Byte) (a : Option (List Byte)) (hup : s.mgtUp = true)
    (h : s.getB SysTrust.adr SysTrust.keysLocked = true ∨ s.halted = true) : s.spdmRelay q a = s.spdm (spdmError 5#8) :=
  (if_neg (by simp [hup])).trans (if_pos (by simpa using h))

/-- Firmware is asked once the keys are open and nothing halts. -/
theorem State.spdmRelay_asks (q : List Byte) (a : Option (List Byte)) (hup : s.mgtUp = true)
    (hk : s.getB SysTrust.adr SysTrust.keysLocked = false) (hh : s.halted = false) : s.spdmRelay q a =
    match (if s.asleep || s.boot.replacing.isSome || s.bootStep != 0xFF then none else a) with
    | some x => (s.emit (.toFirmware q)).spdm x
    | none => s.spdm (spdmError 3#8) :=
  (if_neg (by simp [hup])).trans (if_neg (by simp [hk, hh]))

theorem State.spdmRelay_answers (q : List Byte) (a : Option (List Byte)) (hup : s.mgtUp = true)
    (hk : s.getB SysTrust.adr SysTrust.keysLocked = false) (hh : s.halted = false) (ha : s.asleep = false) (hr : s.boot.replacing = none)
    (hs : s.bootStep = 0xFF) :
    (∀ r, a = some r → s.spdmRelay q a = (s.emit (.toFirmware q)).spdm r) ∧ (a = none → s.spdmRelay q a = s.spdm (spdmError 3#8)) := by
  rw [s.spdmRelay_asks q a hup hk hh, if_neg (by simp [ha, hr, hs])]
  exact ⟨fun r h => by rw [h], fun h => by rw [h]⟩

theorem State.spdmRelay_absent (q : List Byte) (a : Option (List Byte)) (hup : s.mgtUp = true)
    (hk : s.getB SysTrust.adr SysTrust.keysLocked = false) (hh : s.halted = false) (h : s.asleep = true ∨ s.bootStep ≠ 0xFF) :
    s.spdmRelay q a = s.spdm (spdmError 3#8) := by
  rw [s.spdmRelay_asks q a hup hk hh, if_pos (by obtain h | h := h <;> simp [h])]

end

/-- Settles O58: every request is one case of its own function. -/
theorem mctpPldmAndSpdmAreServed : Obligations.MctpPldmAndSpdmAreServed :=
  ⟨fun iid src eid ty sel s hup =>
      ⟨execSetEndpointId_keeps iid s hup src eid, execSetEndpointId_refuses iid s hup src eid, rfl, execGetMctpVersionSupport_base iid s ty,
        execGetMctpVersionSupport_types iid s ty, execGetMctpVersionSupport_unknown iid s ty, rfl,
        execGetVendorDefinedMessageSupport_first iid s sel, fun h => congrArg _ (if_neg h), execI3cDynamicAddress_mode s hup src⟩,
    fun iid cmd cc body s => s.mctp_out iid cmd cc body, fun iid ty cmd cc body s => s.pldm_out iid ty cmd cc body,
    fun iid ty s => ⟨rfl, rfl, rfl, rfl, pldmTypes_answered iid s ty, pldmTypes_refused iid s ty⟩,
    fun iid n r s => sensors_answered iid s n r, requestUpdate_judged,
    fun iid c z s =>
      ⟨fun h => ⟨execPassComponentTable_learns iid s true h, execPassComponentTable_learns iid s false h⟩, fun h => congrArg _ (if_neg h),
        fun h => ⟨congrArg _ (if_pos h), congrArg _ (if_neg h)⟩, execUpdateComponent_sound iid s c z, execUpdateComponent_unsound iid s c z,
        fun h => congrArg _ (if_pos h), rfl, execCancelUpdate_idle iid s, fun h => congrArg _ (if_neg h)⟩,
    fun d s => execRequestFirmwareData_stages s d,
    fun env img s =>
      ⟨fun hr hs => congrArg _ (if_pos (by simp [hr, hs])),
        fun hr h hh => ⟨execVerifyComplete_header s env img h hr hh false, execVerifyComplete_header s env img h hr hh true⟩,
        fun hr => congrArg _ (if_pos hr)⟩,
    fun _ => ⟨rfl, rfl, rfl⟩,
    fun q a s hup =>
      ⟨fun h => and_self_iff.2 (congrArg _ (s.spdmRelay_locked q a hup h)),
        fun hk hh ha hr hs =>
          have hans := s.spdmRelay_answers q a hup hk hh ha hr hs
          ⟨fun r h => and_self_iff.2 (congrArg _ (hans.1 r h)), fun h => and_self_iff.2 (congrArg _ (hans.2 h))⟩,
        fun hk hh h => and_self_iff.2 (congrArg _ (s.spdmRelay_absent q a hup hk hh h))⟩⟩

end Sys2Proof.Machine
end

section
/-!
Naonant requests: each is answered once with what its function gives in the state that has heard it, and a pair of words is read as one.
-/

namespace Sys2Proof.Machine

/-! ## The answer of a request (R520–R522) -/

section
variable {s : State} {m : BitVec 4 × BitVec 8} (hup : s.mgtUp = true)
include hup

/-- A VERSION that does not have the command is answered VERSION, and nothing is done. -/
theorem State.naonantServe_version (cmd : Nat) (v1 : Bool) (f : State → State × Nat × List Byte)
    (h : (m.1 ≠ 1#4 ∧ m.1 ≠ 2#4) ∨ (m.1 = 1#4 ∧ v1 = false)) : s.naonantServe m cmd v1 f = (s.heard m).reply m cmd nsVERSION [] :=
  (if_neg (by simp [hup])).trans (if_pos (h.symm.imp_left fun ⟨h1, h2⟩ => ⟨h1, by simp [h2]⟩))

/-- What a request's function gives is what it is answered with. -/
theorem State.naonantServe_gives {cmd : Nat} {v1 : Bool} {f : State → State × Nat × List Byte} {x : State × Nat × List Byte}
    (hm : m.1 = 2#4 ∨ v1 = true ∧ m.1 = 1#4) (hf : f (s.heard m) = x) : s.naonantServe m cmd v1 f = x.1.reply m cmd x.2.1 x.2.2 :=
  hf ▸ s.naonantServe_served m cmd v1 f hup hm

theorem naonant_newer (c : Word) (k : Option (List Byte)) (h1 : m.1 = 1#4) :
    execRestart m c s = .next ((s.heard m).reply m ncRESTART nsVERSION []) ∧
      execTimeRead m s = .next ((s.heard m).reply m ncTIME_READ nsVERSION []) ∧
      execAttestKey m k s = .next ((s.heard m).reply m ncATTEST_KEY nsVERSION []) :=
  ⟨congrArg _ ((if_neg (by simp [h1])).trans (State.naonantServe_version hup _ _ _ (.inr ⟨h1, rfl⟩))),
    congrArg _ (State.naonantServe_version hup _ _ _ (.inr ⟨h1, rfl⟩)), congrArg _ (State.naonantServe_version hup _ _ _ (.inr ⟨h1, rfl⟩))⟩

theorem naonant_older (h : m.1 = 1#4 ∨ m.1 = 2#4) :
    execGetVersion m s = .next ((s.heard m).reply m ncGET_VERSION nsOK [1#8, 2#8]) ∧
    execLeadQuery m s = .next ((s.heard m).reply m ncLEAD nsOK
      (leBytes 4 (s.heard m).leadWord.toNat ++ leBytes 4 ((s.heard m).rd SysLeadResult.adr).toNat)) ∧
    (∀ mask : Word, execMomentRead m mask s =
      .next ((s.heard m).reply m ncMOMENT_READ nsOK (((List.range 24).filter fun u => mask.getLsbD u).flatMap (s.heard m).momentBytes))) :=
  have hm : m.1 = 2#4 ∨ true = true ∧ m.1 = 1#4 := h.symm.imp_right fun h => ⟨rfl, h⟩
  ⟨congrArg _ (State.naonantServe_gives hup hm rfl), congrArg _ (State.naonantServe_gives hup hm rfl),
    fun _ => congrArg _ (State.naonantServe_gives hup hm rfl)⟩

end

/-! ## Register reads (R521, R553) -/

theorem accessOk_width {u w d : Nat} (h : accessOk u w d = true) : w = 4 ∨ w = 8 := by
  simp only [accessOk, Bool.and_eq_true, Bool.or_eq_true, beq_iff_eq] at h
  exact h.1.2

theorem State.length_readMany (u w : Nat) (hw : w = 4 ∨ w = 8) (n d : Nat) (s : State) : (s.readMany u w n d).2.length = n * w := by
  induction n generalizing d s with
  | zero => simp [State.readMany]
  | succ n ih =>
    obtain rfl | rfl := hw
    · rw [State.readMany, if_neg (by decide)]
      simp only [List.length_append, length_leBytes, ih]
      omega
    · rw [State.readMany, if_pos rfl]
      simp only [List.length_append, length_leBytes, ih]
      omega

section
variable {s : State} {m : BitVec 4 × BitVec 8} (hup : s.mgtUp = true) (unit width : BitVec 8) (count : BitVec 16) (offset : Word)
  (hm : m.1 = 2#4 ∨ (m.1 = 1#4 ∧ width = 4#8 ∧ count.toNat ≤ 1))
include hup hm

/-- A read of the VERSION that has it is judged by its form. -/
theorem execRegRead_heard (x : State × Nat × List Byte)
    (hx : (if !accessOk unit.toNat width.toNat offset.toNat || count.toNat == 0 || decide (64 < count.toNat) then (s.heard m, nsBAD_REQUEST, [])
      else if unit.toNat < 24 && (s.heard m).dark unit.toNat then (s.heard m, nsUNPOWERED, [])
      else
        let (t, l) := ((s.heard m).startClocks ((s.heard m).unitClocks unit.toNat)).readMany unit.toNat width.toNat count.toNat offset.toNat
        (t, nsOK, l)) = x) : execRegRead m unit width count offset s = .next (x.1.reply m ncREG_READ x.2.1 x.2.2) := by
  have hv : ¬ (m.1 = 1#4 ∧ (width.toNat = 8 ∨ 1 < count.toNat)) := by
    obtain h | ⟨-, hw, hc⟩ := hm
    · simp [h]
    · simp [hw, hc]
  exact congrArg _ (State.naonantServe_gives hup (hm.imp_right fun h => ⟨rfl, h.1⟩) ((if_neg hv).trans hx))

theorem execRegRead_reads (hok : accessOk unit.toNat width.toNat offset.toNat = true) (h1 : 1 ≤ count.toNat) (h64 : count.toNat ≤ 64)
    (hd : 24 ≤ unit.toNat ∨ (s.heard m).dark unit.toNat = false) (x : State × List Byte)
    (hx : x = ((s.heard m).startClocks ((s.heard m).unitClocks unit.toNat)).readMany unit.toNat width.toNat count.toNat offset.toNat) :
    execRegRead m unit width count offset s = .next (x.1.reply m ncREG_READ nsOK x.2) ∧ x.2.length = count.toNat * width.toNat := by
  have hpow : ¬ (decide (unit.toNat < 24) && (s.heard m).dark unit.toNat) = true := by
    obtain h | h := hd
    · simp [Nat.not_lt.2 h]
    · simp [h]
  refine ⟨execRegRead_heard hup unit width count offset hm (x.1, nsOK, x.2) ?_, hx ▸ State.length_readMany _ _ (accessOk_width hok) _ _ _⟩
  rw [if_neg (by simp only [hok, Bool.not_true, Bool.false_or, Bool.or_eq_true, beq_iff_eq, decide_eq_true_eq]; omega), if_neg hpow, ← hx]

theorem execRegRead_malformed (h : accessOk unit.toNat width.toNat offset.toNat = false ∨ count.toNat = 0 ∨ 64 < count.toNat) :
    execRegRead m unit width count offset s = .next ((s.heard m).reply m ncREG_READ nsBAD_REQUEST []) :=
  execRegRead_heard hup unit width count offset hm (s.heard m, nsBAD_REQUEST, []) (if_pos (by simpa [or_assoc] using h))

theorem execRegRead_dark (hok : accessOk unit.toNat width.toNat offset.toNat = true) (h1 : 1 ≤ count.toNat) (h64 : count.toNat ≤ 64)
    (hu : unit.toNat < 24) (hd : (s.heard m).dark unit.toNat = true) :
    execRegRead m unit width count offset s = .next ((s.heard m).reply m ncREG_READ nsUNPOWERED []) := by
  refine execRegRead_heard hup unit width count offset hm (s.heard m, nsUNPOWERED, []) ?_
  rw [if_neg (by simp only [hok, Bool.not_true, Bool.false_or, Bool.or_eq_true, beq_iff_eq, decide_eq_true_eq]; omega), if_pos (by simp [hu, hd])]

end

/-- A read of the low word of a pair latches the high one for the next read of it. -/
theorem State.read32_pair (u d : Nat) (s : State) (hu : u < 24) (hd : d + 4 < 0x100000)
    (hl : pairBase (u * 0x100000 + d) = some (u * 0x100000 + d)) (hh : pairBase (u * 0x100000 + (d + 4)) = some (u * 0x100000 + d)) :
    (s.read32 u d).2 = s.unitWord u d ∧
      ∀ t : State, t.readLatch = (s.read32 u d).1.readLatch → (t.read32 u (d + 4)).2 = s.unitWord u (d + 4) := by
  have hlow : s.read32 u d = ({ s with readLatch := (s.readLatch.filter fun x => x.1 != .management) ++
      [(.management, u * 0x100000 + d + 4, s.unitWord u (d + 4))] }, s.unitWord u d) := by
    rw [State.read32, hl]
    exact (if_neg (by omega)).trans (if_pos rfl)
  refine ⟨by rw [hlow], fun t ht => ?_⟩
  have hfind : (t.readLatch.find? fun x => x.1 == .management && x.2.1 == u * 0x100000 + (d + 4)) =
      some (.management, u * 0x100000 + d + 4, s.unitWord u (d + 4)) := by
    rw [ht, hlow, List.find?_append, List.find?_eq_none.2 (by simp +contextual)]
    simp [Nat.add_assoc]
  rw [State.read32, hh, State.readPair, if_neg (by omega), if_neg (by omega), hfind]

/-! ## Register writes (R521) -/

theorem State.unitWrite_body (s : State) (u d : Nat) (wide : Bool) (v : DWord) : (s.unitWrite u d wide v).2.2 = [] := rfl

section
variable {s : State} {m : BitVec 4 × BitVec 8} (hup : s.mgtUp = true) (unit width : BitVec 8) (offset : Word) (value : DWord)
  (hm : m.1 = 2#4 ∨ (m.1 = 1#4 ∧ width ≠ 8#8))
include hup hm

theorem execRegWrite_heard (x : State × Nat × List Byte)
    (hx : (if !accessOk unit.toNat width.toNat offset.toNat then (s.heard m, nsBAD_REQUEST, [])
      else if (s.heard m).halted then (s.heard m, nsHALTED, [])
      else if 24 ≤ unit.toNat ∨ 0x100000 ≤ offset.toNat then (s.heard m, nsOK, [])
      else if (s.heard m).dark unit.toNat then (s.heard m, nsUNPOWERED, [])
      else (s.heard m).unitWrite unit.toNat offset.toNat (width.toNat == 8) value) = x) :
    execRegWrite m unit width offset value s = .next (x.1.reply m ncREG_WRITE x.2.1 x.2.2) := by
  have hv : ¬ (m.1 = 1#4 ∧ width.toNat = 8) := by
    obtain h | ⟨-, hw⟩ := hm
    · simp [h]
    · exact fun h => hw (BitVec.eq_of_toNat_eq h.2)
  exact congrArg _ (State.naonantServe_gives hup (hm.imp_right fun h => ⟨rfl, h.1⟩) ((if_neg hv).trans hx))

theorem execRegWrite_judged :
    (accessOk unit.toNat width.toNat offset.toNat = false →
      execRegWrite m unit width offset value s = .next ((s.heard m).reply m ncREG_WRITE nsBAD_REQUEST [])) ∧
    (accessOk unit.toNat width.toNat offset.toNat = true →
      ((s.heard m).halted = true → execRegWrite m unit width offset value s = .next ((s.heard m).reply m ncREG_WRITE nsHALTED [])) ∧
      ((s.heard m).halted = false → (24 ≤ unit.toNat ∨ 0x100000 ≤ offset.toNat) →
        execRegWrite m unit width offset value s = .next ((s.heard m).reply m ncREG_WRITE nsOK [])) ∧
      ((s.heard m).halted = false → unit.toNat < 24 → offset.toNat < 0x100000 →
        ((s.heard m).dark unit.toNat = true → execRegWrite m unit width offset value s = .next ((s.heard m).reply m ncREG_WRITE nsUNPOWERED [])) ∧
        ((s.heard m).dark unit.toNat = false → ∀ x, x = (s.heard m).unitWrite unit.toNat offset.toNat (width.toNat == 8) value →
          execRegWrite m unit width offset value s = .next (x.1.reply m ncREG_WRITE x.2.1 [])))) := by
  have heard := execRegWrite_heard hup unit width offset value hm
  refine ⟨fun hf => heard (_, _, _) (if_pos (by simp [hf])), fun hok => ?_⟩
  have hform : ¬ (!accessOk unit.toNat width.toNat offset.toNat) = true := by simp [hok]
  refine ⟨fun hh => heard (_, _, _) ((if_neg hform).trans (if_pos hh)), fun hh hu => ?_, fun hh hu ho => ?_⟩
  · exact heard (_, _, _) ((if_neg hform).trans ((if_neg (by simp [hh])).trans (if_pos hu)))
  · have hin : ¬ (24 ≤ unit.toNat ∨ 0x100000 ≤ offset.toNat) := by omega
    refine ⟨fun hd => ?_, fun hd x hx => ?_⟩
    · exact heard (_, _, _) ((if_neg hform).trans ((if_neg (by simp [hh])).trans ((if_neg hin).trans (if_pos hd))))
    · have hx' : x.2.2 = [] := by rw [hx, State.unitWrite_body]
      refine (heard x ((if_neg hform).trans ((if_neg (by simp [hh])).trans ((if_neg hin).trans ((if_neg (by simp [hd])).trans hx.symm))))).trans ?_
      rw [hx']

end

/-! ## The other requests -/

section
variable {s : State} {m : BitVec 4 × BitVec 8} (hup : s.mgtUp = true)
include hup

theorem execRestart_judged (c : Word) (hm : m.1 = 2#4) :
    (c ≠ 0x54535352#32 → execRestart m c s = .next ((s.heard m).reply m ncRESTART nsBAD_REQUEST [])) ∧
    (c = 0x54535352#32 → s.leads .management = false → (s.heard m).leads .management = false →
      execRestart m c s = .next (((s.heard m).notLead 20 0).reply m ncRESTART nsNOT_LEAD [])) ∧
    (c = 0x54535352#32 → s.leads .management = true → (s.heard m).leads .management = true →
      execRestart m c s = .next (((s.heard m).reply m ncRESTART nsOK []).deviceRestart)) := by
  refine ⟨fun hc => congrArg Host.Outcome.next ((if_neg (by simp [hc])).trans ?_),
    fun hc hl hl' => congrArg Host.Outcome.next ((if_neg (by simp [hl])).trans ?_),
    fun hc hl hl' => congrArg Host.Outcome.next ((if_pos (by simp [hup, hm, hc, hl])).trans (congrArg State.deviceRestart ?_))⟩
  · exact State.naonantServe_gives hup (x := (s.heard m, nsBAD_REQUEST, [])) (.inl hm) (if_pos hc)
  · exact State.naonantServe_gives hup (x := ((s.heard m).notLead 20 0, nsNOT_LEAD, [])) (.inl hm)
      ((if_neg (not_not.2 hc)).trans (if_pos (by simp [hl'])))
  · exact State.naonantServe_gives hup (x := (s.heard m, nsOK, [])) (.inl hm) ((if_neg (not_not.2 hc)).trans (if_neg (by simp [hl'])))

section
variable (offset : Word) (data : List Byte) (h : m.1 = 1#4 ∨ m.1 = 2#4)
include h

theorem execStageWrite_malformed (hb : data.length < 4 ∨ 256 < data.length ∨ data.length % 4 ≠ 0 ∨ offset.toNat % 4 ≠ 0) :
    execStageWrite m offset data s = .next ((s.heard m).reply m ncSTAGE_WRITE nsBAD_REQUEST []) :=
  congrArg _ (State.naonantServe_gives hup (x := (_, _, _)) (h.symm.imp_right fun h => ⟨rfl, h⟩) (if_pos hb))

theorem execStageWrite_wellFormed (h4 : 4 ≤ data.length) (h256 : data.length ≤ 256) (hm : data.length % 4 = 0) (ho : offset.toNat % 4 = 0)
    (t : State) (x : WRes) :
    ((s.heard m).stageAddr .management offset.toNat = (t, .ok) →
      x = stageWords ((groups 4 (data.length / 4) data).map fun b => BitVec.ofNat 32 (leNat b)) t →
      execStageWrite m offset data s = .next (x.1.reply m ncSTAGE_WRITE x.2.code [])) ∧
    ((s.heard m).stageAddr .management offset.toNat = (t, .notLead) →
      execStageWrite m offset data s = .next (t.reply m ncSTAGE_WRITE nsNOT_LEAD [])) := by
  have hform : ¬ (data.length < 4 ∨ 256 < data.length ∨ data.length % 4 ≠ 0 ∨ offset.toNat % 4 ≠ 0) := by omega
  refine ⟨fun ha hx => congrArg _ (State.naonantServe_gives hup (x := (x.1, x.2.code, [])) (h.symm.imp_right fun h => ⟨rfl, h⟩)
    ((if_neg hform).trans ?_)), fun ha => congrArg _ (State.naonantServe_gives hup (x := (t, nsNOT_LEAD, [])) (h.symm.imp_right fun h => ⟨rfl, h⟩)
    ((if_neg hform).trans ?_))⟩
  · rw [ha, hx]
    rfl
  · rw [ha]
    rfl

end

theorem execAttestKey_heard (key : Option (List Byte)) (hm : m.1 = 2#4) (x : State × Nat × List Byte)
    (hx : (if (s.heard m).getB SysTrust.adr SysTrust.keysLocked then (s.heard m, nsKEYS_LOCKED, [])
      else if (s.heard m).halted then (s.heard m, nsHALTED, [])
      else match (if (s.heard m).asleep || (s.heard m).boot.replacing.isSome || (s.heard m).bootStep != 0xFF then none else key) with
        | some k => (s.heard m, nsOK, slice k 0 96)
        | none => (s.heard m, nsBUSY, [])) = x) : execAttestKey m key s = .next (x.1.reply m ncATTEST_KEY x.2.1 x.2.2) :=
  congrArg _ (State.naonantServe_gives hup (.inl hm) hx)

theorem execAttestKey_judged (key : Option (List Byte)) (hm : m.1 = 2#4) (t : State) (ht : t = s.heard m) :
    (t.getB SysTrust.adr SysTrust.keysLocked = true → execAttestKey m key s = .next (t.reply m ncATTEST_KEY nsKEYS_LOCKED [])) ∧
    (t.getB SysTrust.adr SysTrust.keysLocked = false →
      (t.halted = true → execAttestKey m key s = .next (t.reply m ncATTEST_KEY nsHALTED [])) ∧
      (t.halted = false → t.asleep = false → t.boot.replacing = none → t.bootStep = 0xFF →
        (∀ k, key = some k → execAttestKey m key s = .next (t.reply m ncATTEST_KEY nsOK (slice k 0 96))) ∧
        (key = none → execAttestKey m key s = .next (t.reply m ncATTEST_KEY nsBUSY []))) ∧
      (t.halted = false → t.asleep = true ∨ t.boot.replacing.isSome = true ∨ t.bootStep ≠ 0xFF →
        execAttestKey m key s = .next (t.reply m ncATTEST_KEY nsBUSY []))) := by
  subst ht
  have heard := execAttestKey_heard hup key hm
  refine ⟨fun hk => heard (_, _, _) (if_pos hk), fun hk => ⟨fun hh => ?_, fun hh ha hr hs => ⟨fun k hkey => ?_, fun hkey => ?_⟩, fun hh hb => ?_⟩⟩
  · exact heard (_, _, _) ((if_neg (by simp [hk])).trans (if_pos hh))
  · refine heard (s.heard m, nsOK, slice k 0 96) ((if_neg (by simp [hk])).trans ((if_neg (by simp [hh])).trans ?_))
    rw [if_neg (by simp [ha, hr, hs]), hkey]
  · refine heard (s.heard m, nsBUSY, []) ((if_neg (by simp [hk])).trans ((if_neg (by simp [hh])).trans ?_))
    rw [hkey, ite_self]
  · refine heard (s.heard m, nsBUSY, []) ((if_neg (by simp [hk])).trans ((if_neg (by simp [hh])).trans ?_))
    rw [if_pos (by obtain h | h | h := hb <;> simp [h])]

end

theorem stageWords_cons (w : Word) (ws : List Word) (s t : State) :
    (s.stageData .management w = (t, .ok) → stageWords (w :: ws) s = stageWords ws t) ∧
      (∀ e, e ≠ .ok → s.stageData .management w = (t, e) → stageWords (w :: ws) s = (t, e)) := by
  refine ⟨fun h => ?_, fun e he h => ?_⟩
  · rw [stageWords, h]
  · cases e with
    | ok => exact absurd rfl he
    | _ => rw [stageWords, h]

/-- Settles O56: a request's answer is what its function gives in the state that has heard it. -/
theorem naonantRequestsAreAnswered : Obligations.NaonantRequestsAreAnswered :=
  ⟨fun _ _ _ _ _ => rfl,
    fun m cmd v1 f s hup => ⟨State.naonantServe_version hup cmd v1 f, fun h => s.naonantServe_served m cmd v1 f hup (h.imp_right And.symm)⟩,
    fun _ c k _ hup => naonant_newer hup c k, fun _ _ hup => naonant_older hup,
    fun _ unit width count offset _ hup hm => ⟨execRegRead_reads hup unit width count offset hm, execRegRead_malformed hup unit width count offset hm,
      execRegRead_dark hup unit width count offset hm⟩,
    State.read32_pair, fun _ unit width offset value _ hup hm => execRegWrite_judged hup unit width offset value hm,
    fun _ c _ hup hm => execRestart_judged hup c hm,
    fun _ offset data _ hup h => ⟨execStageWrite_malformed hup offset data h, execStageWrite_wellFormed hup offset data h⟩, stageWords_cons,
    fun _ _ _ hup hm ht => ht ▸ congrArg _ (State.naonantServe_gives hup (.inl hm) rfl),
    fun _ key _ t hup hm ht => execAttestKey_judged hup key hm t ht⟩

end Sys2Proof.Machine
end

section
/-!
Retirement of members and banks, scrub, the resets that wait for a handover, and the replacement of the firmware.
-/

namespace Sys2Proof.Machine

/-! ## The maps of a kind -/

section
variable (s : State) (k m : Nat)

@[simp] theorem State.get_modKind (f : SvcKind → SvcKind) (b : Nat) (g : Fld) : (s.modKind k f).get b g = s.get b g := rfl

theorem bit_withBit (w : Nat) : bit (withBit w m) m = true := by
  rw [bit_eq_testBit, withBit, Nat.testBit_or, Nat.testBit_two_pow_self, Bool.or_true]

theorem bit_dropBit (w : Nat) : bit (dropBit w m) m = false := by
  have hset : (w ||| 2 ^ m).testBit m = true := by rw [Nat.testBit_or, Nat.testBit_two_pow_self, Bool.or_true]
  obtain ⟨q, hq⟩ : ∃ q, (w ||| 2 ^ m) / 2 ^ m = 2 * q + 1 := by
    rw [Nat.testBit_eq_decide_div_mod_eq, decide_eq_true_eq] at hset
    exact ⟨_, ((Nat.div_add_mod _ 2).symm.trans (congrArg _ hset))⟩
  have hd : dropBit w m / 2 ^ m = 2 * q := by
    have h := Nat.sub_mul_div (w ||| 2 ^ m) (2 ^ m) 1
    rw [Nat.mul_one, hq] at h
    exact h
  rw [bit, hd, Nat.mul_mod_right]
  rfl

theorem bit_mod_word (w i : Nat) (h : i < 32) : bit (w % 2 ^ 32) i = bit w i := by
  simp only [bit_eq_testBit, Nat.testBit_mod_two_pow, h, decide_true, Bool.true_and]

theorem State.reserves_set (v : Nat) : (s.set (SvcKind.adr k) SvcKind.reserveMap v).reserves k = v % 2 ^ 32 := State.get_set_same _ _ _ _

/-- A field of the service controller's commands stands apart from the words of a kind. -/
theorem SvcCmd.apart_kind (f g : Fld) (h : f.off = 0 ∧ f.words = 1) : f.Apart SvcCmd.adr (SvcKind.adr k) g := by
  obtain ⟨h0, h1⟩ := h
  refine .inl ?_
  rw [h0, h1]
  unfold SvcCmd.adr SvcKind.adr
  omega

/-- A change that leaves what kind `k` carries leaves its duties. -/
theorem State.duty_modKind (f : SvcKind → SvcKind) (hf : ∀ x, (f x).duty = x.duty) : ((s.modKind k f).kind k).duty = (s.kind k).duty := by
  unfold State.kind State.modKind
  dsimp only
  rw [List.getD_eq_getElem?_getD, List.getD_eq_getElem?_getD, List.getElem?_modify_eq]
  cases s.svc.kinds[k]? with
  | none => rfl
  | some x => exact hf x

/-! ## Retirement (R504–R506) -/

theorem State.retired_retireMember (h : m < 32) : (s.retireMember k m).retired k m = true := by
  have hget : (s.retireMember k m).get (SvcKind.adr k) SvcKind.retiredMap = withBit (s.get (SvcKind.adr k) SvcKind.retiredMap) m % 2 ^ 32 :=
    (State.get_set_apart _ _ _ _ _ _ (Fld.apart_entry (by decide) _)).trans (State.get_set_same _ _ _ _)
  rw [State.retired, hget, bit_mod_word _ _ h, bit_withBit]

theorem State.reserves_retireMember (h : m < 32) : bit ((s.retireMember k m).reserves k) m = false := by
  rw [State.retireMember, State.reserves_set, bit_mod_word _ _ h, bit_dropBit]

theorem State.duty_retireMember : ((s.retireMember k m).kind k).duty = (s.kind k).duty := s.duty_modKind k _ fun _ => rfl

variable (w : Nat) (hr : s.retired k m = false)
include hr

theorem State.retireBank_alone (hc : (s.kind k).copy = none) :
    s.retireBank k m w =
      if !(s.kind k).duty.contains m then (s.retireIdle k m).exhaustion k
      else match s.freeReserve k with
        | some r => s.copyBegins k m r true
        | none => s.reserveLost k m w := by
  simp only [State.retireBank, hr, hc, Bool.false_eq_true, if_false] <;> rfl

theorem State.retireBank_copies {c : SvcCopy} (hc : (s.kind k).copy = some c) :
    s.retireBank k m w =
      if c.member = m then s.modKind k fun y => { y with copy := some { c with retire := true } }
      else if c.reserve = m then
        if c.retire then (s.retireIdle k m).reserveLost k c.member w else (s.retireIdle k m).exhaustion k
      else if c.retire then s.reserveLost k m w
      else s.copyBegins k m c.reserve true := by
  simp only [State.retireBank, hr, hc, Bool.false_eq_true, if_false]

end

theorem State.reserveLost_owned (s : State) (k m w b : Nat) (h : (s.kind k).duty.findIdx? (· == m) = some b) :
    s.reserveLost k m w = (s.setUnit (bankOwner k b w) stERROR 0x40).raise 23 10 k := by
  simp only [State.reserveLost, h]

theorem contains_of_findIdx? {l : List Nat} {m b : Nat} (h : l.findIdx? (· == m) = some b) : l.contains m = true := by
  obtain ⟨hb, he, -⟩ := List.findIdx?_eq_some_iff_getElem.1 h
  rw [List.contains_iff_mem, ← beq_iff_eq.1 he]
  exact List.getElem_mem hb

/-- A bank that carries no duty, and is in no test, is retired at once. -/
theorem State.retireBank_idle (s : State) (k m w : Nat) (hm : m < 32) (hr : s.retired k m = false) (hc : (s.kind k).copy = none)
    (hd : (s.kind k).duty.contains m = false) :
    ∃ t : State, s.retireBank k m w = ((t.kindRests k).raise 23 9 (memberDetail k m)).exhaustion k ∧ t.retired k m = true ∧
      bit (t.reserves k) m = false ∧ (t.kind k).duty = (s.kind k).duty := by
  refine ⟨_, (s.retireBank_alone k m w hr hc).trans (if_pos (by rw [hd]; rfl)), State.retired_retireMember _ k m hm,
    State.reserves_retireMember _ k m hm, (State.duty_retireMember _ k m).trans (s.duty_modKind k _ fun _ => rfl)⟩

/-! ## Scrub and the resets that waited (R503, R504, R507) -/

theorem State.dueResets_none (s : State) (h : ∀ d ∈ s.svc.resetDue, s.handsOver d.unit = true) : s.dueResets = s := by
  have hkeep : s.svc.resetDue.filter (fun d => s.handsOver d.unit) = s.svc.resetDue := List.filter_eq_self.2 h
  have hrun : s.svc.resetDue.filter (fun d => !s.handsOver d.unit) = [] :=
    List.filter_eq_nil_iff.2 fun d hd => by rw [h d hd]; decide
  rw [State.dueResets, hkeep, hrun]
  rfl

theorem State.dueResets_one (s : State) (d : DueReset) (hd : s.svc.resetDue = [d]) (h : s.handsOver d.unit = false) :
    s.dueResets = ({ s with svc := { s.svc with resetDue := [] } } : State).ctrlAct d.unit d.expert d.hold true d.go := by
  have hkeep : s.svc.resetDue.filter (fun d => s.handsOver d.unit) = [] := by simp [hd, h]
  have hrun : s.svc.resetDue.filter (fun d => !s.handsOver d.unit) = [d] := by simp [hd, h]
  rw [State.dueResets, hkeep, hrun]
  rfl

section
variable (s : State) (k b e w : Nat) (first : Bool)

theorem State.scrub_nothing (h : k < rkGENERAL ∨ s.retired k b = true ∨ s.asleep = true ∨ s.dark 23 = true ∨ (first = true ∧ s.svcOn = false)) :
    s.scrub k b first e w = s := by
  refine if_pos ?_
  rw [Bool.not_eq_true']
  exact h

theorem State.scrub_visits (hk : rkGENERAL ≤ k) (hr : s.retired k b = false) (ha : s.asleep = false) (hd : s.dark 23 = false)
    (hon : first = true → s.svcOn = true) :
    s.scrub k b first e w = (if first then s.set (SvcKind.adr k) SvcKind.ceSeen (dropBit (s.get (SvcKind.adr k) SvcKind.ceSeen) b)
      else s).bankError k b e w := by
  refine if_neg ?_
  rintro (h | h | h | h | ⟨h, h'⟩)
  · omega
  · exact Bool.false_ne_true (hr.symm.trans h)
  · exact Bool.false_ne_true (ha.symm.trans h)
  · exact Bool.false_ne_true (hd.symm.trans h)
  · rw [hon h] at h'
    exact Bool.false_ne_true h'

end

/-! ## SVC_CMD and the replacement of the firmware (R508, R517) -/

section
variable (s : State) (o : Sys2Proof.Origin) (k m : Nat) (run : State → WRes) (h : s.Open o 23 0x100C true false) (hk : k ≤ 8)
include h hk

theorem State.svcCmd_runs (hb : s.getB SvcCmd.adr SvcCmd.busy = false) :
    s.svcCmd o k m run = run (((s.awake o 23).set SvcCmd.adr SvcCmd.kind k).set SvcCmd.adr SvcCmd.member m) := by
  have hb' : (s.awake o 23).getB SvcCmd.adr SvcCmd.busy = false := (congrArg (· == 1) (State.get_startClocks s _ _ _)).trans hb
  exact (s.gate_open o 23 0x100C true false _ h).trans ((if_neg (Nat.not_lt.2 hk)).trans (if_neg (Bool.eq_false_iff.1 hb')))

theorem State.svcCmd_busy (hb : s.getB SvcCmd.adr SvcCmd.busy = true) :
    s.svcCmd o k m run = ((s.awake o 23).set SvcCmd.adr SvcCmd.status svBUSY, .busy) := by
  have hb' : (s.awake o 23).getB SvcCmd.adr SvcCmd.busy = true := (congrArg (· == 1) (State.get_startClocks s _ _ _)).trans hb
  exact (s.gate_open o 23 0x100C true false _ h).trans ((if_neg (Nat.not_lt.2 hk)).trans (if_pos hb'))

end

/-- A command's KIND and MEMBER are no map of a kind. -/
theorem State.freeReserve_cmd (s : State) (o : Sys2Proof.Origin) (k m j : Nat) :
    (((s.awake o 23).set SvcCmd.adr SvcCmd.kind k).set SvcCmd.adr SvcCmd.member m).freeReserve j = s.freeReserve j := by
  have hmap : (((s.awake o 23).set SvcCmd.adr SvcCmd.kind k).set SvcCmd.adr SvcCmd.member m).reserves j = s.reserves j :=
    (State.get_set_apart _ _ _ _ _ _ (SvcCmd.apart_kind j _ _ ⟨rfl, rfl⟩)).trans
      ((State.get_set_apart _ _ _ _ _ _ (SvcCmd.apart_kind j _ _ ⟨rfl, rfl⟩)).trans (State.get_startClocks _ _ _ _))
  rw [State.freeReserve, hmap]
  rfl

/-- What FW_REPLACE does, by the core that is due, the reserve and the firmware. -/
theorem State.fwReplace_judged (s : State) :
    (s.svc.dueCore ≠ none → s.fwReplace = s.svcEnds svBUSY) ∧
    (s.svc.dueCore = none → s.freeReserve rkCORE = none → s.fwReplace = s.svcEnds svNO_RESERVE) ∧
    (s.svc.dueCore = none → s.freeReserve rkCORE ≠ none → s.boot.fw = none → s.fwReplace = s.svcEnds svREFUSED) ∧
    (s.svc.dueCore = none → s.freeReserve rkCORE ≠ none → s.boot.fw ≠ none →
      s.fwReplace = (((s.set SvcCmd.adr SvcCmd.busy 1).set SvcCmd.adr SvcCmd.status svOK).modBoot fun b => { b with replacing := some (3, 0) }).done) := by
  have none_of {α : Type} {x : Option α} (h : x = none) : ¬ x.isSome = true := by subst h; exact Bool.false_ne_true
  have some_of {α : Type} {x : Option α} (h : x ≠ none) : ¬ x.isNone = true := fun hn => h (Option.isNone_iff_eq_none.1 hn)
  have isNone {α : Type} {x : Option α} (h : x = none) : x.isNone = true := Option.isNone_iff_eq_none.2 h
  exact ⟨fun hd => if_pos (Option.isSome_iff_ne_none.2 hd),
    fun hd hf => (if_neg (none_of hd)).trans (if_pos (isNone hf)),
    fun hd hf hw => (if_neg (none_of hd)).trans ((if_neg (some_of hf)).trans (if_pos (isNone hw))),
    fun hd hf hw => (if_neg (none_of hd)).trans ((if_neg (some_of hf)).trans (if_neg (some_of hw)))⟩

theorem execFwReplace_judged (o : Sys2Proof.Origin) (s u : State) (h : s.Open o 23 0x100C true false)
    (hb : s.getB SvcCmd.adr SvcCmd.busy = false) (hk : s.get SvcCmd.adr SvcCmd.kind ≤ 8)
    (hu : u = ((s.awake o 23).set SvcCmd.adr SvcCmd.kind (s.get SvcCmd.adr SvcCmd.kind)).set SvcCmd.adr SvcCmd.member (s.get SvcCmd.adr SvcCmd.member)) :
    execFwReplace o s = .next u.fwReplace.1 ∧ u.svc.dueCore = s.svc.dueCore ∧ u.freeReserve rkCORE = s.freeReserve rkCORE ∧ u.boot.fw = s.boot.fw := by
  subst hu
  exact ⟨congrArg WRes.out (s.svcCmd_runs o _ _ _ h hk hb), rfl, s.freeReserve_cmd o _ _ _, rfl⟩

/-- The new firmware serves: its entry address is announced, and it is trusted (R508, R509). -/
def State.fwServes (s : State) (f : Nat × Nat × Nat × Nat) : State :=
  ((((((s.set SvcCmd.adr SvcCmd.busy 0).set SvcCmd.adr SvcCmd.status svOK).set SvcFwEntry.adr SvcFwEntry.address s.boot.entry).set
    SysTrust.adr SysTrust.fwSlot f.1).set SysTrust.adr SysTrust.fwTrusted 1).modBoot fun b => { b with fw := some f }).modBoot
      fun b => { b with replacing := none, newFw := none, romKey := none }

section
variable (s : State) (f : Nat × Nat × Nat × Nat)

theorem execFwReplaced_ok (h : s.boot.replacing = some (10, svOK)) (hf : s.boot.newFw = some f) :
    execFwReplaced s = .next ((s.fwServes f).raise 23 11 svOK) := by
  simp only [execFwReplaced, h, if_true, State.set_boot, hf]
  rfl

theorem execFwReplaced_failed (st : Nat) (h : s.boot.replacing = some (10, st)) (hst : st ≠ svOK) :
    execFwReplaced s = .next ((((s.set SvcCmd.adr SvcCmd.busy 0).set SvcCmd.adr SvcCmd.status st).modBoot fun b =>
      { b with replacing := none, newFw := none, romKey := none }).raise 23 11 st) := by
  simp only [execFwReplaced, h, if_neg hst]

/-- A field that the trust words leave is what the end of the replacement gave it. -/
theorem State.get_fwServes (b : Nat) (g : Fld) (h0 : SysTrust.fwSlot.Apart SysTrust.adr b g) (h1 : SysTrust.fwTrusted.Apart SysTrust.adr b g) :
    (s.fwServes f).get b g =
      (((s.set SvcCmd.adr SvcCmd.busy 0).set SvcCmd.adr SvcCmd.status svOK).set SvcFwEntry.adr SvcFwEntry.address s.boot.entry).get b g := by
  rw [State.fwServes, State.get_modBoot, State.get_modBoot, State.get_set_apart _ _ _ _ _ _ h1, State.get_set_apart _ _ _ _ _ _ h0]

theorem State.get_busy_fwServes : (s.fwServes f).get SvcCmd.adr SvcCmd.busy = 0 := by
  rw [s.get_fwServes f _ _ (.inl (by decide)) (.inl (by decide)), State.get_set_apart _ _ _ _ _ _ (.inr (.inl (by decide))),
    State.get_set_apart _ _ _ _ _ _ (Fld.apart_entry (by decide) _), State.get_set_same]
  rfl

theorem State.entry_fwServes :
    (s.fwServes f).get SvcFwEntry.adr SvcFwEntry.address = s.boot.entry % 2 ^ SvcFwEntry.address.width := by
  rw [s.get_fwServes f _ _ (.inl (by decide)) (.inl (by decide)), State.get_set_same]

theorem State.trusted_fwServes : (s.fwServes f).get SysTrust.adr SysTrust.fwTrusted = 1 := by
  rw [State.fwServes, State.get_modBoot, State.get_modBoot, State.get_set_same]
  rfl

end

/-- Settles O55: a scrub visit is `bankError` of a bank that may fail, what a failing bank meets is `retireBank` by its copy, its
duty and its reserve, and SVC_CMD runs `fwReplace` on the state that the write leaves. -/
theorem scrubRetirementAndReplacement : Obligations.ScrubRetirementAndReplacement :=
  ⟨fun k b e w s hk hr ha hd =>
      ⟨congrArg (fun t : State => Host.Outcome.next t.dueResets) (s.scrub_visits k b e w false hk hr ha hd fun h => absurd h (by decide)),
        fun hon => congrArg (fun t : State => Host.Outcome.next t.dueResets) (s.scrub_visits k b e w true hk hr ha hd fun _ => hon)⟩,
    fun k b w s t => ⟨rfl, rfl, fun ht => ht ▸ rfl⟩,
    fun k b first e w s h => congrArg (fun t : State => Host.Outcome.next t.dueResets) (s.scrub_nothing k b e w first h),
    State.dueResets_none, fun d s hd h => s.dueResets_one d hd h,
    fun k m w s => ⟨fun h => if_neg (Bool.eq_false_iff.1 h), fun h => if_pos h⟩,
    fun k m w s h => if_pos h,
    fun k m w r s hr hc hd hf => (s.retireBank_alone k m w hr hc).trans ((if_neg (by rw [hd]; decide)).trans (by rw [hf])),
    fun k m w b s hr hc hb hf => (s.retireBank_alone k m w hr hc).trans
      ((if_neg (by rw [contains_of_findIdx? hb]; decide)).trans ((by rw [hf] : _ = s.reserveLost k m w).trans (s.reserveLost_owned k m w b hb))),
    fun k m w c s hr hc => ⟨fun hm => (s.retireBank_copies k m w hr hc).trans (if_pos hm),
      fun hm hn ht => (s.retireBank_copies k m w hr hc).trans ((if_neg hm).trans ((if_neg hn).trans (if_neg (Bool.eq_false_iff.1 ht)))),
      fun hm hn ht b hb => (s.retireBank_copies k m w hr hc).trans
        ((if_neg hm).trans ((if_neg hn).trans ((if_pos ht).trans (s.reserveLost_owned k m w b hb))))⟩,
    fun k m w s hm hr hc hd _ => s.retireBank_idle k m w hm hr hc hd,
    fun n s => ⟨fun h => congrArg Host.Outcome.next (if_pos h), fun h => congrArg Host.Outcome.next (if_neg (Bool.eq_false_iff.1 h))⟩,
    fun o s u h hb hk hu => by
      obtain ⟨hrun, hdue, hfree, hfw⟩ := execFwReplace_judged o s u h hb hk hu
      obtain ⟨h1, h2, h3, h4⟩ := u.fwReplace_judged
      rw [hdue, hfree, hfw] at *
      have runs {r : WRes} (hr : u.fwReplace = r) : execFwReplace o s = .next r.1 := hrun.trans (congrArg WRes.out hr)
      exact ⟨fun a => runs (h1 a), fun a b => runs (h2 a b), fun a b c => runs (h3 a b c), fun a b c => runs (h4 a b c)⟩,
    fun o s h hb hk => congrArg WRes.out (s.svcCmd_busy o _ _ _ h hk hb),
    fun st s h _ => ⟨fun hst => execFwReplaced_failed s st h hst, fun hst f hf =>
      ⟨_, execFwReplaced_ok s f (hst ▸ h) hf, congrArg (· == 1) (s.get_busy_fwServes f), rfl, rfl, s.entry_fwServes f, s.trusted_fwServes f⟩⟩⟩

end Sys2Proof.Machine
end

section
/-!
Rotation of members: due times, the start of a rotation, the placement of a pause, the commands of SVC_CMD, and the ends of pauses,
tests and copies.
-/

namespace Sys2Proof.Machine

/-! ## Due times (R494) -/

section
variable (s : State) (k m : Nat)

theorem State.fallsDue_iff (j : Nat) (hd : s.dueStep k ≠ 0) (hl : (s.kind k).lastDue ≠ s.ticks)
    (ht : s.ticks = (s.kind k).since + (j + 1) * s.dueStep k) :
    s.fallsDue k m = true ↔ (s.rotating k)[j % (s.rotating k).length]? = some m := by
  have hpos : 0 < s.dueStep k := Nat.pos_of_ne_zero hd
  have hn : s.ticks - (s.kind k).since = (j + 1) * s.dueStep k := by omega
  simp only [State.fallsDue, hn, Nat.mul_div_cancel _ hpos, Nat.mul_mod_left, hpos, Nat.succ_pos, Nat.add_sub_cancel, bne_iff_ne,
    Bool.and_eq_true, beq_iff_eq, decide_eq_true_eq, ne_eq, hl, not_false_iff, true_and]

theorem State.fallsDue_between (n : Nat) (ht : s.ticks = (s.kind k).since + n) (hn : n % s.dueStep k ≠ 0) : s.fallsDue k m = false := by
  have hsub : s.ticks - (s.kind k).since = n := by omega
  have hmod : (n % s.dueStep k == 0) = false := by simp [hn]
  simp only [State.fallsDue, hsub, hmod, Bool.and_false, Bool.false_and]

theorem execRotationDue_due (kind : Fin 9) (c : Fin 26) (hon : s.svcOn = true) (hb : s.bootStep = 0xFF)
    (he : bit (s.act SvcRotCtrl.adr SvcRotCtrl.enable) kind = true) (hf : s.fallsDue kind c = true) (u : State)
    (hu : u = s.modKind kind fun x => { x with lastDue := s.ticks }) :
    execRotationDue kind c s = .next (if u.mayRotate kind c then (State.deferred (u.rotate kind c) kind c).1 else u) := by
  subst hu
  exact congrArg Host.Outcome.next (if_pos (by simp only [hon, hb, he, hf]; rfl))

theorem execRotationDue_idle (kind : Fin 9) (c : Fin 26)
    (h : s.svcOn = false ∨ s.bootStep ≠ 0xFF ∨ bit (s.act SvcRotCtrl.adr SvcRotCtrl.enable) kind = false ∨ s.fallsDue kind c = false) :
    execRotationDue kind c s = .next s := by
  refine congrArg Host.Outcome.next (if_neg fun hc => ?_)
  simp only [Bool.and_eq_true, beq_iff_eq] at hc
  obtain ⟨⟨⟨hon, hb⟩, he⟩, hf⟩ := hc
  simp [hon, hb, he, hf] at h

/-! ## The start of a rotation (R494–R502, R516) -/

theorem State.freeReserve_iff (r : Nat) : s.freeReserve k = some r ↔ r < 32 ∧ bit (s.reserves k) r = true ∧ (s.kind k).cut.contains r = false ∧
    ∀ n < r, bit (s.reserves k) n = false ∨ (s.kind k).cut.contains n = true := by
  simp only [State.freeReserve, List.find?_range_eq_some, List.mem_range, Bool.and_eq_true, Bool.and_eq_false_iff,
    Bool.not_eq_eq_eq_not, Bool.not_true, Bool.not_false]
  tauto

theorem State.rotate_inPlace (h : bit (s.reserves k) m = true ∨ (s.kind k).cut.contains m = true) : s.rotate k m = (s.testBegins k m, .yes) :=
  if_pos (by rw [Bool.or_eq_true]; exact h)

variable (hb : bit (s.reserves k) m = false) (hc : (s.kind k).cut.contains m = false)
include hb hc

/-- A member on duty needs the free reserve. -/
theorem State.rotate_reserve {r : Nat} (hr : s.freeReserve k = some r) :
    s.rotate k m =
      if k = rkCORE then
        (({ s with svc := { s.svc with dueCore := some m, dueAt := s.ticks } } : State).kindState k rsHANDOVER m |>.raise 23 4 m, .yes)
      else if k = rkPIPELINE then
        match (s.kind k).duty.findIdx? (· == m) with
        | none => (s.testBegins k m, .yes)
        | some role =>
            match s.placePause role s.lineNs with
            | some t => (({ s with svc := { s.svc with pause := some ⟨role, t, false⟩ } } : State).kindState k rsPLACING m, .yes)
            | none => (s, .notPlaceable)
      else if !(s.kind k).duty.contains m then (s.testBegins k m, .yes)
      else if k = rkMPI ∨ k = rkIGE ∨ (k = rkTCAM ∧ !s.blockUsed (((s.kind k).duty.findIdx? (· == m)).getD 0)) then
        ((s.handDuty k m r).testBegins k m, .yes)
      else (s.copyBegins k m r false, .yes) := by
  rw [State.rotate, hb, hc, hr]
  rfl

theorem State.rotate_noReserve (hr : s.freeReserve k = none) : s.rotate k m = (s, .noReserve) := by
  rw [State.rotate, hb, hc, hr]
  rfl

theorem State.rotate_duty {r : Nat} (hr : s.freeReserve k = some r) (h0 : k ≠ rkCORE) (h1 : k ≠ rkPIPELINE) (hd : (s.kind k).duty.contains m = true) :
    s.rotate k m =
      if k = rkMPI ∨ k = rkIGE ∨ (k = rkTCAM ∧ !s.blockUsed (((s.kind k).duty.findIdx? (· == m)).getD 0)) then
        ((s.handDuty k m r).testBegins k m, .yes)
      else (s.copyBegins k m r false, .yes) :=
  (s.rotate_reserve k m hb hc hr).trans <| (if_neg h0).trans <| (if_neg h1).trans (if_neg (by rw [hd]; decide))

end

theorem State.rotate_core (s : State) (m r : Nat) (hb : bit (s.reserves rkCORE) m = false) (hc : (s.kind rkCORE).cut.contains m = false)
    (hr : s.freeReserve rkCORE = some r) :
    s.rotate rkCORE m = ((({ s with svc := { s.svc with dueCore := some m, dueAt := s.ticks } } : State).kindState rkCORE rsHANDOVER m).raise 23 4 m, .yes) :=
  (s.rotate_reserve rkCORE m hb hc hr).trans (if_pos rfl)

theorem State.rotate_tcam (s : State) (m r b : Nat) (hb : bit (s.reserves rkTCAM) m = false) (hc : (s.kind rkTCAM).cut.contains m = false)
    (hr : s.freeReserve rkTCAM = some r) (hd : (s.kind rkTCAM).duty.findIdx? (· == m) = some b) :
    s.rotate rkTCAM m = if s.blockUsed b then (s.copyBegins rkTCAM m r false, .yes) else ((s.handDuty rkTCAM m r).testBegins rkTCAM m, .yes) := by
  rw [s.rotate_duty rkTCAM m hb hc hr (by decide) (by decide) (contains_of_findIdx? hd), hd, Option.getD_some]
  cases s.blockUsed b <;> rfl

theorem State.rotate_pipeline (s : State) (m r role : Nat) (hb : bit (s.reserves rkPIPELINE) m = false)
    (hc : (s.kind rkPIPELINE).cut.contains m = false) (hr : s.freeReserve rkPIPELINE = some r)
    (hd : (s.kind rkPIPELINE).duty.findIdx? (· == m) = some role) :
    s.rotate rkPIPELINE m =
      match s.placePause role s.lineNs with
      | some t => (({ s with svc := { s.svc with pause := some ⟨role, t, false⟩ } } : State).kindState rkPIPELINE rsPLACING m, .yes)
      | none => (s, .notPlaceable) := by
  rw [s.rotate_reserve rkPIPELINE m hb hc hr, if_neg (by decide), if_pos rfl, hd]

/-! ## The placement of a pause (R497, R498) -/

/-- The least of the candidates is one of them. -/
theorem mem_of_foldl_min (l : List Nat) (x : Nat) (m : Option Nat)
    (h : l.foldl (fun m x => match m with | some y => some (min x y) | none => some x) m = some x) : x ∈ l ∨ m = some x := by
  induction l generalizing m with
  | nil => exact .inr h
  | cons a l ih =>
      obtain hl | ha := ih _ h
      · exact .inl (List.mem_cons_of_mem _ hl)
      · cases m with
        | none => exact .inl (by simp only [Option.some.injEq] at ha; simp [ha])
        | some y =>
            simp only [Option.some.injEq] at ha
            obtain hm | hm := min_choice a y
            · exact .inl (by simp [← ha, hm])
            · exact .inr (by simp [← ha, hm])

theorem State.placePause_clear (s : State) (role t0 x : Nat) (h : s.placePause role t0 = some x) : t0 ≤ x ∧
    ∃ span ≤ 1000000000, x < t0 + span ∧ ∀ r ∈ s.pauseRopes role, ∀ y ∈ s.busySpans role r t0 (span + 40000), y.2 ≤ x ∨ x + 38000 ≤ y.1 := by
  obtain hmem | hnone := mem_of_foldl_min _ x _ h
  · simp only [List.mem_filter, Bool.and_eq_true, decide_eq_true_eq, List.all_eq_true, Bool.or_eq_true] at hmem
    obtain ⟨-, ⟨hge, hlt⟩, hfree⟩ := hmem
    exact ⟨hge, _, Nat.min_le_right _ _, hlt, fun r hr y hy => hfree y (List.mem_flatMap.2 ⟨r, hr, hy⟩)⟩
  · cases hnone

/-! ## ROTATE_NOW and CORE_YIELD (R496, R502) -/

section
variable (s : State) (k m : Nat)

theorem State.rotateNow_refused (h : s.svcOn = false ∨ (membersOf s.scale k).contains m = false ∨ s.retired k m = true) :
    s.rotateNow k m = s.svcEnds svREFUSED := by
  refine if_pos ?_
  obtain h | h | h := h
  · rw [h]; rfl
  · rw [h, Bool.not_false, Bool.or_true]; rfl
  · rw [h, Bool.or_true]

variable (hon : s.svcOn = true) (hm : (membersOf s.scale k).contains m = true) (hr : s.retired k m = false)
include hon hm hr

theorem State.rotateNow_judged :
    s.rotateNow k m =
      let st := s.get (SvcKind.adr k) SvcKind.state
      if st = rsNO_RESERVE then s.svcEnds svNO_RESERVE
      else if st ≠ rsIDLE then s.svcEnds svBUSY
      else match State.deferred (s.rotate k m) k m with
        | (s1, .yes) => s1.svcEnds svOK
        | (s1, .noReserve) => s1.svcEnds svNO_RESERVE
        | (s1, .notPlaceable) => s1.svcEnds svNOT_PLACEABLE :=
  if_neg (by rw [hon, hm, hr]; decide)

theorem State.rotateNow_idle (hs : s.get (SvcKind.adr k) SvcKind.state = rsIDLE) :
    s.rotateNow k m = match State.deferred (s.rotate k m) k m with
        | (s1, .yes) => s1.svcEnds svOK
        | (s1, .noReserve) => s1.svcEnds svNO_RESERVE
        | (s1, .notPlaceable) => s1.svcEnds svNOT_PLACEABLE :=
  (s.rotateNow_judged k m hon hm hr).trans ((if_neg (by rw [hs]; decide)).trans (if_neg (not_not_intro hs)))

theorem State.rotateNow_noReserve (hs : s.get (SvcKind.adr k) SvcKind.state = rsNO_RESERVE) : s.rotateNow k m = s.svcEnds svNO_RESERVE :=
  (s.rotateNow_judged k m hon hm hr).trans (if_pos hs)

theorem State.rotateNow_busy (hs : s.get (SvcKind.adr k) SvcKind.state = rsTESTING) : s.rotateNow k m = s.svcEnds svBUSY :=
  (s.rotateNow_judged k m hon hm hr).trans ((if_neg (by rw [hs]; decide)).trans (if_pos (by rw [hs]; decide)))

end

/-- A kind that exists takes a change. -/
theorem State.kind_modKind (s : State) (k : Nat) (f : SvcKind → SvcKind) (h : k < s.svc.kinds.length) : (s.modKind k f).kind k = f (s.kind k) := by
  simp only [State.kind, State.modKind, List.getD_eq_getElem?_getD, List.getElem?_modify_eq, List.getElem?_eq_getElem h, Option.map_eq_map,
    Option.map_some, Option.getD_some]

theorem State.kind_modKind_other (s : State) (j k : Nat) (f : SvcKind → SvcKind) (h : j ≠ k) : (s.modKind j f).kind k = s.kind k := by
  simp only [State.kind, State.modKind, List.getD_eq_getElem?_getD, List.getElem?_modify_ne _ _ h]

/-- The core of the duties that a yielded core leaves to the released reserve. -/
def State.dutyYielded (s : State) (core : Nat) : State :=
  let run := s.get BootRunning.adr BootRunning.core ||| s.boot.released.toNat
  let s1 : State := { s with svc := { s.svc with dueCore := none } }
  match (List.range 26).find? fun n => bit run n && n != core && !((s.kind rkCORE).duty.take (activeCores s.scale)).contains n with
  | some n => s1.modKind rkCORE fun x => { x with duty := x.duty.map fun m => if m = core then n else m }
  | none => s1

theorem State.dutyYielded_svc (s : State) (core : Nat) :
    (s.dutyYielded core).svc.dueCore = none ∧ (s.dutyYielded core).svc.kinds.length = s.svc.kinds.length := by
  unfold State.dutyYielded
  dsimp only
  split
  · exact ⟨rfl, List.length_modify _ _ _⟩
  · exact ⟨rfl, rfl⟩

/-- The yielded core runs no more, and is tested; `run` is the map of the cores that ran. -/
def State.yieldTests (s : State) (core run : Nat) : State :=
  ((s.set BootRunning.adr BootRunning.core (dropBit run core)).testBegins rkCORE core).set SvcCmd.adr SvcCmd.status svOK

theorem State.coreYield_due (s : State) (core : Nat) (h : s.svc.dueCore = some core) :
    s.coreYield core = ((s.dutyYielded core).yieldTests core (s.get BootRunning.adr BootRunning.core)).done := if_pos h

theorem State.state_testBegins (s : State) (k m : Nat) : (s.testBegins k m).get (SvcKind.adr k) SvcKind.state = rsTESTING := by
  rw [State.testBegins, State.kindState, State.get_set_apart _ _ _ _ _ _ (Fld.apart_entry (by decide) _), State.get_set_same]
  rfl

theorem State.get_testBegins (s : State) (k m b : Nat) (g : Fld) (h : ∀ f : Fld, f.Apart (SvcKind.adr k) b g) :
    (s.testBegins k m).get b g = s.get b g := by
  rw [State.testBegins, State.kindState, State.get_set_apart _ _ _ _ _ _ (h _), State.get_set_apart _ _ _ _ _ _ (h _), State.get_modKind]

section
variable (s : State) (core run : Nat)

theorem State.state_yieldTests : (s.yieldTests core run).get (SvcKind.adr rkCORE) SvcKind.state = rsTESTING := by
  rw [State.yieldTests, State.get_set_apart _ _ _ _ _ _ (SvcCmd.apart_kind _ _ _ ⟨rfl, rfl⟩), State.state_testBegins]

theorem State.running_yieldTests : bit ((s.yieldTests core run).get BootRunning.adr BootRunning.core) core = false := by
  have hlow : BootRunning.adr + BootRunning.core.off + 4 * BootRunning.core.words ≤ SvcKind.adr rkCORE := by decide
  rw [State.yieldTests, State.get_set_apart _ _ _ _ _ _ (.inr (.inl (by decide))),
    State.get_testBegins _ _ _ _ _ fun f => .inr (.inl (Nat.le_add_right_of_le hlow)), State.get_set_same,
    bit_eq_testBit, Nat.testBit_mod_two_pow, ← bit_eq_testBit, bit_dropBit, Bool.and_false]

theorem State.status_yieldTests : (s.yieldTests core run).get SvcCmd.adr SvcCmd.status = svOK := by
  rw [State.yieldTests, State.get_set_same]
  rfl

theorem State.testing_yieldTests (hk : 0 < s.svc.kinds.length) : ((s.yieldTests core run).kind rkCORE).testing = some core :=
  congrArg SvcKind.testing (s.kind_modKind rkCORE (fun x => { x with testing := some core, cut := x.cut.filter (· != core) }) hk)

end

/-! ## The pause of a pipeline (R497) -/

/-- A word of the service controller: the units' headers, the words of U13 and event staging lie apart. -/
theorem SvcKind.state_setUnit (s : State) (k u st c : Nat) (hu : u < 10) (hk : k < 9) :
    (s.setUnit u st c).get (SvcKind.adr k) SvcKind.state = s.get (SvcKind.adr k) SvcKind.state := by
  have hoff : SvcKind.state.off = 0 := rfl
  have hw : SvcKind.state.words = 1 := rfl
  have hready : CfgReadyMap.adr + 4 ≤ 0x1701100 := by decide
  refine s.get_setUnit u st c _ _ (fun j hj => ?_) (.inr ?_) (.inr ?_) (.inl (by omega))
  · rw [hw] at hj
    rw [hoff]
    unfold QuietWord SvcKind.adr
    omega
  · rw [hoff]
    unfold SvcKind.adr
    omega
  · rw [hoff]
    unfold SvcKind.adr
    omega

section
variable (s : State) (p : SvcPause)

/-- A pause that begins, before the unit of its role is held. -/
def State.pauseStops : State :=
  ({ s with svc := { s.svc with pause := some { p with begun := true } }, pp := { s.pp with paused := p.role :: s.pp.paused } } : State).kindState
    rkPIPELINE rsHANDOVER (s.get (SvcKind.adr rkPIPELINE) SvcKind.member)

theorem State.pauseBegins_eq : s.pauseBegins p =
    if (s.pauseStops p).ustate (6 + p.role) == stREADY then (s.pauseStops p).setUnit (6 + p.role) stHELD caHOLD_SERVICE else s.pauseStops p := rfl

theorem State.ustate_pauseStops (u : Nat) (hu : u < 23) : (s.pauseStops p).ustate u = s.ustate u := by
  have hk : 0x1701100 ≤ SvcKind.adr rkPIPELINE := by decide
  have hh : Hdr.adr u + Hdr.state.off + 4 * Hdr.state.words ≤ 0x1701100 := by
    have hoff : Hdr.state.off = 0x10 := rfl
    have hw : Hdr.state.words = 1 := rfl
    rw [hoff, hw]
    unfold Hdr.adr
    omega
  have hap : ∀ g : Fld, g.Apart (SvcKind.adr rkPIPELINE) (Hdr.adr u) Hdr.state := fun g => .inr (.inl (by omega))
  exact (State.get_set_apart _ _ _ _ _ _ (hap _)).trans (State.get_set_apart _ _ _ _ _ _ (hap _))

theorem State.state_pauseStops : (s.pauseStops p).get (SvcKind.adr rkPIPELINE) SvcKind.state = rsHANDOVER :=
  (State.get_set_apart _ _ _ _ _ _ (Fld.apart_entry (by decide) _)).trans (State.get_set_same _ _ _ _)

theorem State.pauseBegins_stops (hr : p.role < 4) :
    (s.pauseBegins p).pp.paused = p.role :: s.pp.paused ∧ (s.pauseBegins p).svc.pause = some { p with begun := true } ∧
      (s.pauseBegins p).get (SvcKind.adr rkPIPELINE) SvcKind.state = rsHANDOVER ∧
      (s.ustate (6 + p.role) = stREADY → (s.pauseBegins p).ustate (6 + p.role) = stHELD ∧ (s.pauseBegins p).ucause (6 + p.role) = caHOLD_SERVICE) := by
  rw [s.pauseBegins_eq p, s.ustate_pauseStops p _ (by omega)]
  by_cases h : s.ustate (6 + p.role) = stREADY
  · rw [if_pos (beq_iff_eq.2 h), State.setUnit_pp, State.setUnit_svc, SvcKind.state_setUnit _ _ _ _ _ (by omega) (by decide), State.state_pauseStops]
    exact ⟨rfl, rfl, rfl, fun _ => ⟨State.ustate_setUnit _ _ _ _ (by omega), State.ucause_setUnit _ _ _ _ (by omega)⟩⟩
  · rw [if_neg (mt beq_iff_eq.1 h), State.state_pauseStops]
    exact ⟨rfl, rfl, rfl, fun hs => absurd hs h⟩

theorem State.goReady_svc (u : Nat) : (s.goReady u).svc = s.svc := by
  unfold State.goReady
  split
  · exact State.setUnit_svc _ _ _ _
  · split <;> exact State.setUnit_svc _ _ _ _

theorem State.goReady_pp (u : Nat) : (s.goReady u).pp = s.pp := by
  unfold State.goReady
  split
  · exact State.setUnit_pp _ _ _ _
  · split <;> exact State.setUnit_pp _ _ _ _

theorem State.pauseLifts_clears (r : Nat) : (s.pauseLifts r).svc.pause = none ∧ (∀ x ∈ (s.pauseLifts r).pp.paused, x ≠ r) := by
  have hgone : ∀ x ∈ s.pp.paused.filter (· != r), x ≠ r := fun x hx => bne_iff_ne.1 (List.mem_filter.1 hx).2
  unfold State.pauseLifts
  dsimp only
  split
  · rw [State.goReady_svc, State.goReady_pp]
    exact ⟨rfl, hgone⟩
  · exact ⟨rfl, hgone⟩

variable (role : Fin 4) (h : s.svc.pause = some p) (hr : p.role = role.val)
include h

theorem execHandoverPauseStart_placed : execHandoverPauseStart role s =
    .next (if p.role = role ∧ p.begun = false ∧ s.lineNs ≤ p.start ∧ p.start ≤ s.lineNs + 40 then s.pauseBegins p else s) := by
  simp only [execHandoverPauseStart, h]

theorem execHandoverPauseEnd_placed : execHandoverPauseEnd role s =
    .next (if p.role = role ∧ p.begun ∧ s.lineNs ≤ p.start + 38000 ∧ p.start + 38000 ≤ s.lineNs + 40 then (s.pauseOver p).dueResets else s) := by
  simp only [execHandoverPauseEnd, h]
  rfl

include hr

theorem handoverPause_instants :
    (p.begun = false → s.lineNs ≤ p.start → p.start ≤ s.lineNs + 40 → execHandoverPauseStart role s = .next (s.pauseBegins p)) ∧
    (p.begun = true → s.lineNs ≤ p.start + 38000 → p.start + 38000 ≤ s.lineNs + 40 → execHandoverPauseEnd role s = .next (s.pauseOver p).dueResets) ∧
    ((p.begun = true ∨ p.start < s.lineNs ∨ s.lineNs + 40 < p.start) → execHandoverPauseStart role s = .next s) ∧
    ((p.begun = false ∨ p.start + 38000 < s.lineNs ∨ s.lineNs + 40 < p.start + 38000) → execHandoverPauseEnd role s = .next s) := by
  rw [execHandoverPauseStart_placed s p role h, execHandoverPauseEnd_placed s p role h]
  refine ⟨fun h1 h2 h3 => congrArg _ (if_pos ⟨hr, h1, h2, h3⟩), fun h1 h2 h3 => congrArg _ (if_pos ⟨hr, h1, h2, h3⟩),
    fun hno => congrArg _ (if_neg ?_), fun hno => congrArg _ (if_neg ?_)⟩
  · rintro ⟨-, h1, h2, h3⟩
    rw [h1] at hno
    simp only [Bool.false_eq_true, false_or] at hno
    omega
  · rintro ⟨-, h1, h2, h3⟩
    rw [h1] at hno
    simp only [Bool.true_eq_false, false_or] at hno
    omega

end

/-! ## A unit reset of U23 (R516) -/

/-- The test and the copy of kind `k` are abandoned. -/
def State.kindCut (s : State) (k : Nat) : State :=
  if (s.kind k).copy.isNone ∧ (s.kind k).testing.isNone then s
  else (s.modKind k fun y => { y with copy := none, testing := none, cut := y.testing.toList ++ y.cut }).kindState k rsIDLE 31

theorem State.svcReset_eq (s : State) : s.svcReset = (List.range 9).foldl State.kindCut s := rfl

/-- Kind `k` and its words are the same in both states. -/
def State.SameKind (k : Nat) (s t : State) : Prop :=
  t.kind k = s.kind k ∧ t.get (SvcKind.adr k) SvcKind.state = s.get (SvcKind.adr k) SvcKind.state ∧ t.reserves k = s.reserves k ∧
    t.svc.kinds.length = s.svc.kinds.length

/-- The words of two kinds lie apart. -/
theorem SvcKind.apart_other {j k : Nat} (h : j ≠ k) (f g : Fld) (hf : f.off + 4 * f.words ≤ 0x20) (hg : g.off + 4 * g.words ≤ 0x20) :
    f.Apart (SvcKind.adr j) (SvcKind.adr k) g := by
  unfold Fld.Apart SvcKind.adr
  omega

theorem State.sameKind_kindCut (s : State) {j k : Nat} (h : j ≠ k) : State.SameKind k s (s.kindCut j) := by
  unfold State.kindCut
  split
  · exact ⟨rfl, rfl, rfl, rfl⟩
  · have hget : ∀ g : Fld, g.off + 4 * g.words ≤ 0x20 →
        ((s.modKind j fun y => { y with copy := none, testing := none, cut := y.testing.toList ++ y.cut }).kindState j rsIDLE 31).get
          (SvcKind.adr k) g = s.get (SvcKind.adr k) g := fun g hg =>
      (State.get_set_apart _ _ _ _ _ _ (SvcKind.apart_other h _ _ (by decide) hg)).trans
        (State.get_set_apart _ _ _ _ _ _ (SvcKind.apart_other h _ _ (by decide) hg))
    exact ⟨s.kind_modKind_other j k _ h, hget _ (by decide), hget _ (by decide), List.length_modify _ _ _⟩

theorem State.sameKind_foldl_kindCut (k : Nat) (l : List Nat) (hk : k ∉ l) (s : State) : State.SameKind k s (l.foldl State.kindCut s) := by
  induction l generalizing s with
  | nil => exact ⟨rfl, rfl, rfl, rfl⟩
  | cons j l ih =>
      obtain ⟨h1, h2, h3, h4⟩ := s.sameKind_kindCut (j := j) (k := k) fun e => hk (e ▸ List.mem_cons_self)
      obtain ⟨g1, g2, g3, g4⟩ := ih (fun hm => hk (List.mem_cons_of_mem _ hm)) (s.kindCut j)
      exact ⟨g1.trans h1, g2.trans h2, g3.trans h3, g4.trans h4⟩

theorem State.kindCut_tested (s : State) (k m : Nat) (hk : k < s.svc.kinds.length) (ht : (s.kind k).testing = some m) :
    ((s.kindCut k).kind k).testing = none ∧ ((s.kindCut k).kind k).copy = none ∧ ((s.kindCut k).kind k).cut = m :: (s.kind k).cut ∧
      ((s.kindCut k).kind k).duty = (s.kind k).duty ∧ (s.kindCut k).get (SvcKind.adr k) SvcKind.state = rsIDLE ∧
      (s.kindCut k).reserves k = s.reserves k := by
  have hcut : s.kindCut k = (s.modKind k fun y => { y with copy := none, testing := none, cut := y.testing.toList ++ y.cut }).kindState k rsIDLE 31 :=
    if_neg fun h => by rw [ht] at h; exact Bool.false_ne_true h.2
  have hkind : (s.kindCut k).kind k = { s.kind k with copy := none, testing := none, cut := (s.kind k).testing.toList ++ (s.kind k).cut } := by
    rw [hcut]
    exact s.kind_modKind k _ hk
  rw [hkind, ht]
  refine ⟨rfl, rfl, rfl, rfl, ?_, ?_⟩
  · rw [hcut]
    exact (State.get_set_apart _ _ _ _ _ _ (Fld.apart_entry (by decide) _)).trans (State.get_set_same _ _ _ _)
  · rw [hcut]
    exact (State.get_set_apart _ _ _ _ _ _ (Fld.apart_entry (by decide) _)).trans (State.get_set_apart _ _ _ _ _ _ (Fld.apart_entry (by decide) _))

/-- The kinds are cut one by one, and each leaves the others. -/
theorem State.svcReset_tested (s : State) (k m : Nat) (hk : k < 9) (hl : s.svc.kinds.length = 9) (ht : (s.kind k).testing = some m) :
    (s.svcReset.kind k).testing = none ∧ (s.svcReset.kind k).copy = none ∧ (s.svcReset.kind k).cut = m :: (s.kind k).cut ∧
      (s.svcReset.kind k).duty = (s.kind k).duty ∧ s.svcReset.get (SvcKind.adr k) SvcKind.state = rsIDLE ∧ s.svcReset.reserves k = s.reserves k := by
  obtain ⟨l₁, l₂, hl12⟩ := List.mem_iff_append.1 (List.mem_range.2 hk)
  have hnd : (l₁ ++ k :: l₂).Nodup := hl12 ▸ List.nodup_range
  obtain ⟨-, hnd2, hdis⟩ := List.nodup_append.1 hnd
  have hk1 : k ∉ l₁ := fun h => hdis k h k List.mem_cons_self rfl
  have hk2 : k ∉ l₂ := (List.nodup_cons.1 hnd2).1
  rw [s.svcReset_eq, hl12, List.foldl_append, List.foldl_cons]
  obtain ⟨a1, a2, a3, a4⟩ := State.sameKind_foldl_kindCut k l₁ hk1 s
  obtain ⟨c1, c2, c3, -⟩ := State.sameKind_foldl_kindCut k l₂ hk2 ((l₁.foldl State.kindCut s).kindCut k)
  have hcut := (l₁.foldl State.kindCut s).kindCut_tested k m (by rw [a4, hl]; exact hk) (by rw [a1]; exact ht)
  rw [c1, c2, c3, ← a1, ← a3]
  exact hcut

/-! ## What the commands do -/

theorem execRotationDue_rotates (k : Fin 9) (m : Fin 26) (s u t : State) (hon : s.svcOn = true) (hb : s.bootStep = 0xFF)
    (he : bit (s.act SvcRotCtrl.adr SvcRotCtrl.enable) k = true) (hf : s.fallsDue k m = true)
    (hu : u = s.modKind k fun x => { x with lastDue := s.ticks }) :
    (u.mayRotate k m = true →
      (u.rotate k m = (t, .yes) ∨ u.rotate k m = (t, .noReserve) → execRotationDue k m s = .next t) ∧
      (u.rotate k m = (t, .notPlaceable) → execRotationDue k m s = .next (t.raise 23 6 (memberDetail k m)))) ∧
    (u.mayRotate k m = false → execRotationDue k m s = .next u) := by
  rw [execRotationDue_due s k m hon hb he hf u hu]
  refine ⟨fun hmay => ?_, fun hmay => congrArg _ (if_neg (Bool.eq_false_iff.1 hmay))⟩
  rw [if_pos hmay]
  refine ⟨fun h => ?_, fun h => by rw [h]; rfl⟩
  obtain h | h := h <;> rw [h] <;> rfl

section
variable (o : Origin) (s : State)

theorem execRotateNow_runs (k : BitVec 4) (m : BitVec 5) (h : s.Open o 23 0x100C true false) (hk : k.toNat ≤ 8)
    (hb : s.getB SvcCmd.adr SvcCmd.busy = false) {r : WRes}
    (hr : (((s.awake o 23).set SvcCmd.adr SvcCmd.kind k.toNat).set SvcCmd.adr SvcCmd.member m.toNat).rotateNow k.toNat m.toNat = r) :
    execRotateNow o k m s = .next r.1 :=
  congrArg WRes.out ((s.svcCmd_runs o _ _ _ h hk hb).trans hr)

theorem execRotateNow_judged (k : BitVec 4) (m : BitVec 5) (u : State) (h : s.Open o 23 0x100C true false) (hk : k.toNat ≤ 8)
    (hb : s.getB SvcCmd.adr SvcCmd.busy = false)
    (hu : u = ((s.awake o 23).set SvcCmd.adr SvcCmd.kind k.toNat).set SvcCmd.adr SvcCmd.member m.toNat) :
    ((u.svcOn = false ∨ (membersOf u.scale k.toNat).contains m.toNat = false ∨ u.retired k.toNat m.toNat = true) →
      execRotateNow o k m s = .next (u.set SvcCmd.adr SvcCmd.status svREFUSED)) ∧
    (u.svcOn = true → (membersOf u.scale k.toNat).contains m.toNat = true → u.retired k.toNat m.toNat = false →
      u.get (SvcKind.adr k.toNat) SvcKind.state = rsIDLE → ∀ t,
      (u.rotate k.toNat m.toNat = (t, .yes) → execRotateNow o k m s = .next (t.set SvcCmd.adr SvcCmd.status svOK)) ∧
      (u.rotate k.toNat m.toNat = (t, .noReserve) → execRotateNow o k m s = .next (t.set SvcCmd.adr SvcCmd.status svNO_RESERVE)) ∧
      (u.rotate k.toNat m.toNat = (t, .notPlaceable) →
        execRotateNow o k m s = .next ((t.raise 23 6 (memberDetail k.toNat m.toNat)).set SvcCmd.adr SvcCmd.status svNOT_PLACEABLE))) ∧
    (u.svcOn = true → (membersOf u.scale k.toNat).contains m.toNat = true → u.retired k.toNat m.toNat = false →
      u.get (SvcKind.adr k.toNat) SvcKind.state = rsNO_RESERVE →
      execRotateNow o k m s = .next (u.set SvcCmd.adr SvcCmd.status svNO_RESERVE)) ∧
    (u.svcOn = true → (membersOf u.scale k.toNat).contains m.toNat = true → u.retired k.toNat m.toNat = false →
      u.get (SvcKind.adr k.toNat) SvcKind.state = rsTESTING →
      execRotateNow o k m s = .next (u.set SvcCmd.adr SvcCmd.status svBUSY)) := by
  have runs {r : WRes} (hr : u.rotateNow k.toNat m.toNat = r) : execRotateNow o k m s = .next r.1 :=
    execRotateNow_runs o s k m h hk hb (hu ▸ hr)
  refine ⟨fun h => runs (u.rotateNow_refused _ _ h), fun hon hm hr hs t => ?_, fun hon hm hr hs => runs (u.rotateNow_noReserve _ _ hon hm hr hs),
    fun hon hm hr hs => runs (u.rotateNow_busy _ _ hon hm hr hs)⟩
  have hidle := u.rotateNow_idle _ _ hon hm hr hs
  exact ⟨fun ht => runs (by rw [hidle, ht]), fun ht => runs (by rw [hidle, ht]), fun ht => runs (by rw [hidle, ht])⟩

theorem execCoreYield_runs (c : Fin 26) (h : s.Open o 23 0x100C true false) (hb : s.getB SvcCmd.adr SvcCmd.busy = false) {t : State}
    (ht : (((s.awake o 23).set SvcCmd.adr SvcCmd.kind 0).set SvcCmd.adr SvcCmd.member c).coreYield c = t.done) :
    execCoreYield o c s = .next t.dueResets :=
  calc
    execCoreYield o c s = ((((s.awake o 23).set SvcCmd.adr SvcCmd.kind 0).set SvcCmd.adr SvcCmd.member c).yields c).out :=
      congrArg WRes.out (s.svcCmd_runs o 0 c (fun s => s.yields c) h (Nat.zero_le _) hb)
    _ = .next t.dueResets := by
      rw [State.yields, ht]
      rfl

theorem execCoreYield_due (c : Fin 26) (h : s.Open o 23 0x100C true false) (hb : s.getB SvcCmd.adr SvcCmd.busy = false)
    (hd : s.svc.dueCore = some c.val) (hk : 0 < s.svc.kinds.length) :
    ∃ t : State, execCoreYield o c s = .next t.dueResets ∧ t.svc.dueCore = none ∧ (t.kind rkCORE).testing = some c.val ∧
      t.get (SvcKind.adr rkCORE) SvcKind.state = rsTESTING ∧ bit (t.get BootRunning.adr BootRunning.core) c = false ∧
      t.get SvcCmd.adr SvcCmd.status = svOK := by
  obtain ⟨u, hu⟩ : ∃ u, u = ((s.awake o 23).set SvcCmd.adr SvcCmd.kind 0).set SvcCmd.adr SvcCmd.member c := ⟨_, rfl⟩
  have hsvc : u.svc = s.svc := by rw [hu]; rfl
  obtain ⟨hdue, hlen⟩ := u.dutyYielded_svc c
  have hyield := u.coreYield_due c (hsvc ▸ hd)
  rw [hu] at hyield
  rw [hu] at hdue hlen hsvc
  exact ⟨_, execCoreYield_runs o s c h hb hyield, hdue, State.testing_yieldTests _ _ _ (by rw [hlen, hsvc]; exact hk),
    State.state_yieldTests _ _ _, State.running_yieldTests _ _ _, State.status_yieldTests _ _ _⟩

theorem execCoreYield_notDue (c : Fin 26) (h : s.Open o 23 0x100C true false) (hb : s.getB SvcCmd.adr SvcCmd.busy = false)
    (hd : s.svc.dueCore ≠ some c.val) :
    execCoreYield o c s = .next ((((s.awake o 23).set SvcCmd.adr SvcCmd.kind 0).set SvcCmd.adr SvcCmd.member c).set SvcCmd.adr SvcCmd.status
      svNOT_DUE).dueResets :=
  execCoreYield_runs o s c h hb (if_neg hd)

end

section
variable (s : State)

theorem execYieldLimitExpiry_passed (m : Nat) (hd : s.svc.dueCore = some m) (ht : s.yieldEnd ≤ s.ticks) :
    execYieldLimitExpiry s = .next ((({ s with svc := { s.svc with dueCore := none } } : State).kindRests rkCORE).raise 23 6
      (memberDetail rkCORE m)).dueResets := by
  rw [execYieldLimitExpiry, if_pos ht, State.yieldLimit, hd]

theorem State.pauseOver_serves (p : SvcPause) (r : Nat) (h : s.freeReserve rkPIPELINE = some r) :
    s.pauseOver p = ((s.pauseLifts p.role).handDuty rkPIPELINE ((s.kind rkPIPELINE).duty.getD p.role p.role) r).testBegins rkPIPELINE
      ((s.kind rkPIPELINE).duty.getD p.role p.role) := by
  rw [State.pauseOver, h]

theorem execMemberTestEnd_tested (k : Fin 9) (pass : Bool) (m : Nat) (h : (s.kind k).testing = some m) :
    execMemberTestEnd k pass s = .next (
      let s1 := s.modKind k fun x => { x with testing := none }
      if pass then (((s1.set (SvcKind.adr k) SvcKind.reserveMap (withBit (s.reserves k) m)).kindRests k).raise 23 5 (memberDetail k m))
      else (((s1.retireMember k m).kindRests k).raise 23 7 (memberDetail k m)).exhaustion k) := by
  rw [execMemberTestEnd, h]
  rfl

theorem State.copyEnds_copied (k : Nat) (c : SvcCopy) (h : (s.kind k).copy = some c) :
    s.copyEnds k =
      let s1 := (s.modKind k fun x => { x with copy := none }).handDuty k c.member c.reserve
      if c.retire then (((s1.retireMember k c.member).kindRests k).raise 23 9 (memberDetail k c.member)).exhaustion k
      else s1.testBegins k c.member := by
  rw [State.copyEnds, h]

end

/-- Settles O54: a rotation is `rotate` by the kind, its reserve and the member's duty; the placement of a pause is the least of the
instants that every busy span leaves free; and a unit reset cuts the kinds one by one. -/
theorem membersRotateAndAreTested : Obligations.MembersRotateAndAreTested :=
  ⟨fun k m s u t => execRotationDue_rotates k m s u t, fun k m s => execRotationDue_idle s k m,
    fun k m j s _ hd hl ht => s.fallsDue_iff k m j hd hl ht, fun k m n s ht hn => s.fallsDue_between k m n ht hn,
    fun k m s h => s.rotate_inPlace k m h, fun k r s => s.freeReserve_iff k r, fun k m s => s.rotate_noReserve k m,
    fun m r s => s.rotate_core m r,
    fun k m r s hb hc hr hk hd => (s.rotate_duty k m hb hc hr (by obtain rfl | rfl := hk <;> decide) (by obtain rfl | rfl := hk <;> decide) hd).trans
      (if_pos (hk.imp_right .inl)),
    fun k m r s hb hc hr hk hd => by
      have hge : 5 ≤ k := hk
      have hno : ∀ j < 5, k ≠ j := fun j hj => by omega
      exact (s.rotate_duty k m hb hc hr (hno _ (by decide)) (hno _ (by decide)) hd).trans
        (if_neg fun h => h.elim (hno _ (by decide)) fun h => h.elim (hno _ (by decide)) fun h => hno _ (by decide) h.1),
    fun m r b s hb hc hr hd => ⟨fun hu => (s.rotate_tcam m r b hb hc hr hd).trans (if_neg (Bool.eq_false_iff.1 hu)),
      fun hu => (s.rotate_tcam m r b hb hc hr hd).trans (if_pos hu)⟩,
    fun m r role t s hb hc hr hd => ⟨fun h => (s.rotate_pipeline m r role hb hc hr hd).trans (by rw [h]),
      fun h => (s.rotate_pipeline m r role hb hc hr hd).trans (by rw [h])⟩,
    fun role t0 x s => s.placePause_clear role t0 x,
    fun o k m s u h hk hb hu => execRotateNow_judged o s k m u h hk hb hu,
    fun o c s => execCoreYield_due o s c, fun o c s => execCoreYield_notDue o s c,
    fun m s hd ht => execYieldLimitExpiry_passed s m hd ht, fun s h => congrArg Host.Outcome.next (if_neg (Nat.not_le.2 h)),
    fun role p s h hr => by
      obtain ⟨hstart, hend, hnoStart, hnoEnd⟩ := handoverPause_instants s p role h hr
      refine ⟨fun h1 h2 h3 => ⟨_, hstart h1 h2 h3, ?_⟩, hend, hnoStart, hnoEnd⟩
      rw [← hr]
      exact s.pauseBegins_stops p (hr ▸ role.isLt),
    fun p r s => s.pauseOver_serves p r, fun r s => s.pauseLifts_clears r,
    fun k m s h => ⟨execMemberTestEnd_tested s k true m h, execMemberTestEnd_tested s k false m h⟩,
    fun k c s h => ⟨fun hr => congrArg (fun t : State => Host.Outcome.next t.dueResets) ((s.copyEnds_copied k c h).trans (if_neg (Bool.eq_false_iff.1 hr))),
      fun hr => congrArg (fun t : State => Host.Outcome.next t.dueResets) ((s.copyEnds_copied k c h).trans (if_pos hr))⟩,
    fun k m s => s.svcReset_tested k m, fun k m r s h => congrArg SvcKind.duty (s.kind_modKind k _ h)⟩

end Sys2Proof.Machine
end

section
/-!
A share of key slots that no configuration gives: its first slot would stand at SVC_STAGING, which the event of a lost key writes.
-/

namespace Sys2Proof.Machine

/-- The slot whose word would stand at the address of SVC_STAGING; the 4,096 slots stand below it. -/
def stagingSlot : Nat := 0x130406

/-- A request without source data, for a CMAC under slot 0 of the share. -/
def dataless : List Byte := [1, 0, 0, 16]

/-- Request queue 5 of slice 0 holds `dataless`. In SERVICE mode the kept share of the slice begins at `stagingSlot`; one event is
counted as staged, so that the slot reads as HOST, and KEY_UNCORRECTABLE of U18 has its route. -/
def misshared : State :=
  let s := ((State.reset.set (HifSlice.adr 0) HifSlice.state slBOUND).set (qAdr qkIR 5) QeTxq.state qsRUNNING).set HifSliceCfg.adr HifSliceCfg.mode 1
  let t := (s.set (Hdr.adr 18) Hdr.eventMap (2 ^ 8)).set (HifRoute.adr (16 * 18 + 8)) HifRoute.enable 1
  let u := ((t.set (Hdr.adr 18) Hdr.state stREADY).set SvcStaging.adr SvcStaging.used 1).modQ qkIR 5 fun x => { x with fetched := [(0, dataless)] }
  { u with hif := { u.hif with shares := [(2 * Res.key.index, BitVec.ofNat 32 stagingSlot)] } }

theorem misshared_meets : ((misshared.qst qkIR 5).fetched).drop (misshared.laneOf 5).length = [(0, dataless)] ∧
    misshared.qState qkIR 5 = qsRUNNING ∧ misshared.ready 18 = true ∧ misshared.qVia qkIR 5 = some (0, some 0) ∧
    leAt dataless 8 4 = 0 ∧ misshared.qFrozen qkIR 5 = false ∧ misshared.rqSlot 5 dataless = stagingSlot ∧
    misshared.keyState stagingSlot ≠ 0 := by
  decide +kernel

/-- STATE of `stagingSlot` is the lowest two bits of USED. -/
theorem State.keyState_stagingSlot (s : State) : s.keyState stagingSlot = s.get SvcStaging.adr SvcStaging.used % 4 := by
  have haddr : IgeKey.adr stagingSlot = SvcStaging.adr := rfl
  rw [State.keyState, haddr, State.get, State.get]
  exact (Nat.mod_mod_of_dvd _ ⟨2 ^ 16, rfl⟩).symm

theorem State.used_stage (s : State) (e : Staged) (he : e.host = true) (hroom : s.staged.length < stagingCapacity) :
    (s.stage e).get SvcStaging.adr SvcStaging.used = (s.staged.length + 1) % 2 ^ 18 := by
  have hkept : ¬ (e.host = false ∧ e.mgt = none) := fun h => absurd (he.symm.trans h.1) (by decide)
  rw [State.stage, if_neg hkept, if_pos hroom, State.get_set_same, List.length_append]
  rfl

theorem State.staged_mgtEnter (s : State) : s.mgtEnter.1.staged = s.staged := by
  rw [State.mgtEnter]
  split
  · dsimp only
    split <;> exact State.set_staged _ _ _ _
  · rfl

/-- An event that has its route counts in USED. -/
theorem State.used_raise (s : State) (u n d : Nat) (hr : s.routed u n = true) (hroom : s.staged.length < stagingCapacity) :
    (s.raise u n d).get SvcStaging.adr SvcStaging.used = (s.staged.length + 1) % 2 ^ 18 := by
  have hstage : ∀ (t : State) (e : Staged), t.staged = s.staged → e.host = true →
      (t.stage e).tickFree.get SvcStaging.adr SvcStaging.used = (s.staged.length + 1) % 2 ^ 18 := fun t e ht he =>
    ht ▸ t.used_stage e he (ht ▸ hroom)
  unfold State.raise
  dsimp only
  split
  · exact hstage _ _ (by simp only [State.set_staged]) hr
  · exact hstage _ _ ((State.staged_mgtEnter _).trans (by simp only [State.set_staged])) hr

/-- The event of a lost key is staged as the only one, and USED counts it: the slot that was emptied reads as HOST again. -/
theorem State.keyState_keyLost_stagingSlot (s : State) (hfree : sfind (s.clearKey stagingSlot).heldOff (16 * 18 + 8) = none)
    (hroute : (s.clearKey stagingSlot).routed 18 8 = true) (hnone : (s.clearKey stagingSlot).staged = []) :
    (s.keyLost stagingSlot).tickFree.keyState stagingSlot = 1 := by
  have hraise : s.keyLost stagingSlot = ({ s.clearKey stagingSlot with
      heldOff := sins (s.clearKey stagingSlot).heldOff (16 * 18 + 8) (s.clearKey stagingSlot).ticks } : State).raise 18 8 stagingSlot := by
    rw [State.keyLost, State.igeEvent, State.raiseHeld, hfree]
  have hused : (s.keyLost stagingSlot).get SvcStaging.adr SvcStaging.used = ((s.clearKey stagingSlot).staged.length + 1) % 2 ^ 18 := by
    rw [hraise]
    exact State.used_raise _ 18 8 stagingSlot hroute (hnone ▸ (by decide : ([] : List Staged).length < stagingCapacity))
  rw [hnone] at hused
  exact (State.keyState_stagingSlot _).trans (congrArg (· % 4) hused)

/-- The loss of the key has its event, the first that is staged. -/
theorem misshared_raises : sfind (misshared.clearKey stagingSlot).heldOff (16 * 18 + 8) = none ∧
    (misshared.clearKey stagingSlot).routed 18 8 = true ∧ (misshared.clearKey stagingSlot).staged = [] := by
  decide +kernel

/-- Refutes O53: that a slot whose read is uncorrectable is EMPTY afterwards fails in a state in which the share of the slice does not
lie in the 4,096 slots. Its slot would stand at SVC_STAGING, and the event of the loss writes USED there. -/
theorem not_integrityRequestsAndKeys : ¬ Obligations.IntegrityRequestsAndKeys := by
  unfold Obligations.IntegrityRequestsAndKeys
  rintro ⟨-, -, -, hlost, -⟩
  obtain ⟨hfetched, hruns, hready, hvia, hdata, hthawed, hslot, hheld⟩ := misshared_meets
  obtain ⟨hempty, -⟩ := hlost 5 [] dataless 0 0 stagingSlot (some 0) [] true misshared misshared
    (misshared.keyLost stagingSlot).tickFree hfetched hruns hready hvia (.inl ⟨hdata, hthawed, rfl⟩) hslot.symm (.inl rfl) hheld rfl
  obtain ⟨hfree, hroute, hnone⟩ := misshared_raises
  exact absurd (hempty.symm.trans (misshared.keyState_keyLost_stagingSlot hfree hroute hnone)) (by decide)

end Sys2Proof.Machine
end

section
/-!
Namespaces and the block target's notices, and the cycles that the recorder takes or skips.
-/

namespace Sys2Proof.Machine

/-! ## ENABLE of a namespace (R428) -/

section
variable (o : Sys2Proof.Origin) (n : Fin 1024) (v : Word) (s u t : State)
  (h : s.Open o 17 (nvfOff (NvfNs.adr n)) (s.rwlDiffers (NvfNs.adr n) v) false) (hu : u = s.awake o 17)
  (ht : t = u.setBits (NvfNs.adr n) (fieldMask (fun f _ => f.acc == .rwl) (NvfNs.adr n)) v)
include h hu ht

/-- A write of ENABLE that the gate lets pass is judged by the fields in force. -/
theorem execNamespaceEnable_open :
    execNamespaceEnable o n v s = .next (
      let same := (u.rd (NvfNs.adr n) ^^^ v) &&& fieldMask (fun f _ => f.acc == .rwl) (NvfNs.adr n) &&& 0x7FFFFFFF#32 == 0
      let on := u.actB (NvfNs.adr n) NvfNs.enable
      let bad :=
        if on then !same || bit v.toNat 31 || u.nsInUse n
        else decide (2 ≤ bits v.toNat 29 28) || (bit v.toNat 31 && !(t.nsEnableOk t.inForce n && t.nsEnableOk t.rd n))
      if bad || (offence (fun _ => false) (u.recBad u.inForce) (t.recBad t.inForce)).isSome then u.raise 17 2 (nvfOff (NvfNs.adr n))
      else if on || bit v.toNat 31 then t.nsChanged n
      else t).nvSweep := by
  subst ht hu
  refine (congrArg (fun r : WRes => r.1.after) (s.gate_open o 17 _ _ false _ h)).trans ?_
  refine congrArg (fun x : State => Host.Outcome.next x.nvSweep) ?_
  exact (apply_ite Prod.fst _ _ _).trans (congrArg (ite _ _) (apply_ite Prod.fst _ _ _))

theorem execNamespaceEnable_disabled (hoff : s.actB (NvfNs.adr n) NvfNs.enable = false) :
    execNamespaceEnable o n v s = .next (
      if decide (2 ≤ bits v.toNat 29 28) || (v.getLsbD 31 && !(t.nsEnableOk t.inForce n && t.nsEnableOk t.rd n)) ||
          (offence (fun _ => false) (u.recBad u.inForce) (t.recBad t.inForce)).isSome then u.raise 17 2 (nvfOff (NvfNs.adr n))
      else if v.getLsbD 31 then t.nsChanged n
      else t).nvSweep := by
  have hon : u.actB (NvfNs.adr n) NvfNs.enable = false := hu ▸ hoff
  rw [execNamespaceEnable_open o n v s u t h hu ht]
  simp only [hon, bit_eq_getLsbD, Bool.false_or, Bool.false_eq_true, if_false]

theorem execNamespaceEnable_enabled (hoff : s.actB (NvfNs.adr n) NvfNs.enable = true) :
    execNamespaceEnable o n v s = .next (
      if !((s.rd (NvfNs.adr n) ^^^ v) &&& fieldMask (fun f _ => f.acc == .rwl) (NvfNs.adr n) &&& 0x7FFFFFFF#32 == 0) || v.getLsbD 31 || s.nsInUse n ||
          (offence (fun _ => false) (u.recBad u.inForce) (t.recBad t.inForce)).isSome then u.raise 17 2 (nvfOff (NvfNs.adr n))
      else t.nsChanged n).nvSweep := by
  have hon : u.actB (NvfNs.adr n) NvfNs.enable = true := hu ▸ hoff
  have hrd : u.rd (NvfNs.adr n) = s.rd (NvfNs.adr n) := hu ▸ s.rd_startClocks _ _
  have huse : u.nsInUse n = s.nsInUse n := hu ▸ rfl
  rw [execNamespaceEnable_open o n v s u t h hu ht]
  simp only [hon, hrd, huse, bit_eq_getLsbD, Bool.true_or, if_true]

end

theorem State.nsEnableOk_extent {s : State} {rd : Nat → Word} {n e : Nat} (h : s.nsEnableOk rd n = true) (he : e ∈ nsExtents rd n) :
    (∃ x, s.conn (fieldOf rd (NvfExt.adr e) NvfExt.conn) = some x ∧ x.kind = ckSTORAGE) ∧
      fieldOf rd (NvfExt.adr e) NvfExt.remoteAddr % lbaSize rd n = 0 := by
  obtain ⟨hext, -⟩ := Bool.and_eq_true_iff.1 h
  obtain ⟨hconn, haddr⟩ := Bool.and_eq_true_iff.1 (List.all_eq_true.1 hext e he)
  refine ⟨?_, beq_iff_eq.1 haddr⟩
  cases hx : s.conn (fieldOf rd (NvfExt.adr e) NvfExt.conn) with
  | none => rw [hx] at hconn; exact absurd hconn Bool.false_ne_true
  | some x => rw [hx] at hconn; exact ⟨x, rfl, beq_iff_eq.1 hconn⟩

/-! ## Notices (R361, R439) -/

theorem execTargetDone_open (o : Sys2Proof.Origin) (v : BitVec 16) (s u : State) (old d : Nat)
    (h : s.Open o 17 0x110C (s.rwlDiffers (NvfTarget.adr + 0xC) (BitVec.ofNat 32 v.toNat)) false) (hu : u = s.awake o 17)
    (hold : old = s.get NvfTarget.adr NvfTarget.done) (hd : d = qDist (2 * s.targetN) old v.toNat) :
    execTargetDone o v s = .next (
      if 2 * s.targetN ≤ v.toNat ∨ qDist (2 * s.targetN) old (s.get NvfTarget.adr NvfTarget.head) < d then u.raise 17 2 0x110C
      else ((List.range d).foldl (fun (u : State) i => u.noticeDone ((old + i + 1) % (2 * s.targetN))) (u.set NvfTarget.adr NvfTarget.done v.toNat)).nvSweep) := by
  have hdone : u.get NvfTarget.adr NvfTarget.done = old := hu ▸ (State.get_startClocks _ _ _ _).trans hold.symm
  have hhead : u.get NvfTarget.adr NvfTarget.head = s.get NvfTarget.adr NvfTarget.head := hu ▸ State.get_startClocks _ _ _ _
  have hn : u.targetN = s.targetN := hu ▸ rfl
  have hrun : execTargetDone o v s = WRes.out (
      if 2 * u.targetN ≤ v.toNat ∨ qDist (2 * u.targetN) (u.get NvfTarget.adr NvfTarget.done) (u.get NvfTarget.adr NvfTarget.head) <
          qDist (2 * u.targetN) (u.get NvfTarget.adr NvfTarget.done) v.toNat then u.refuse 17 0x110C
      else (((List.range (qDist (2 * u.targetN) (u.get NvfTarget.adr NvfTarget.done) v.toNat)).foldl (fun (w : State) i =>
        w.noticeDone ((u.get NvfTarget.adr NvfTarget.done + i + 1) % (2 * u.targetN))) (u.set NvfTarget.adr NvfTarget.done v.toNat)).nvSweep).done) :=
    hu ▸ congrArg WRes.out (s.gate_open o 17 _ _ false _ h)
  rw [hrun, hdone, hhead, hn, ← hd]
  exact congrArg Host.Outcome.next (apply_ite Prod.fst _ _ _)

theorem State.noticeDone_only (i c psn : Nat) (x : Conn) (s : State) (hc : s.shx.conns = [(c, x)]) (hx : x.notices = [(i, psn)]) :
    s.noticeDone i = (s.sendFlushAck c psn).modConn c fun y => { y with notices := y.notices.filter fun n => n.1 != i } := by
  simp [State.noticeDone, hc, hx]

/-! ## The next publish (R441) -/

/-- The lowest rope of a publish and those after it. -/
def lowestRope (x : NvRec) (l : List NvRec) : NvRec := l.foldl (fun m y => if y.rope < m.rope then y else m) x

theorem lowestRope_mem (x : NvRec) (l : List NvRec) : lowestRope x l ∈ x :: l := by
  induction l generalizing x with
  | nil => exact List.mem_singleton_self x
  | cons y l ih =>
      have h := ih (if y.rope < x.rope then y else x)
      rw [List.mem_cons] at h ⊢
      obtain h | h := h
      · rw [lowestRope, List.foldl_cons, ← lowestRope, h]
        split
        · exact .inr (List.mem_cons.2 (.inl rfl))
        · exact .inl rfl
      · exact .inr (List.mem_cons_of_mem _ h)

theorem lowestRope_le (x : NvRec) (l : List NvRec) : (lowestRope x l).rope ≤ x.rope ∧ ∀ y ∈ l, (lowestRope x l).rope ≤ y.rope := by
  induction l generalizing x with
  | nil => exact ⟨Nat.le_refl _, fun y hy => absurd hy List.not_mem_nil⟩
  | cons y l ih =>
      obtain ⟨hx, hl⟩ := ih (if y.rope < x.rope then y else x)
      have hboth : (if y.rope < x.rope then y else x).rope ≤ x.rope ∧ (if y.rope < x.rope then y else x).rope ≤ y.rope := by
        split <;> omega
      refine ⟨Nat.le_trans hx hboth.1, fun z hz => ?_⟩
      obtain rfl | hz := List.mem_cons.1 hz
      · exact Nat.le_trans hx hboth.2
      · exact hl z hz

theorem State.recNext_lowest (x : NvRec) (xs : List NvRec) (s : State) (h : s.nvf.recDue = x :: xs) :
    ∃ m, s.recNext = some m ∧ m ∈ x :: xs ∧ m.stamp = x.stamp ∧ m.rope ≤ x.rope ∧
      ∀ y ∈ xs.takeWhile (fun y : NvRec => y.stamp == x.stamp), m.rope ≤ y.rope := by
  have hnext : s.recNext = some (lowestRope x (xs.takeWhile fun y => y.stamp == x.stamp)) := by rw [State.recNext, h]; rfl
  obtain ⟨hx, hl⟩ := lowestRope_le x (xs.takeWhile fun y => y.stamp == x.stamp)
  obtain he | hm := List.mem_cons.1 (lowestRope_mem x (xs.takeWhile fun y => y.stamp == x.stamp))
  · exact ⟨_, hnext, List.mem_cons.2 (.inl he), congrArg NvRec.stamp he, hx, hl⟩
  · have hstamp : ((lowestRope x (xs.takeWhile fun y => y.stamp == x.stamp)).stamp == x.stamp) = true :=
      List.mem_takeWhile_imp (p := fun y : NvRec => y.stamp == x.stamp) hm
    exact ⟨_, hnext, List.mem_cons_of_mem _ ((List.takeWhile_sublist _).subset hm), beq_iff_eq.1 hstamp, hx, hl⟩

theorem execRecordStart_next (r : Fin 16) (x : NvRec) (s : State) (h : s.recNext = some x) :
    execRecordStart r s = if x.rope = r.val then .next (((s.modNvf fun v => { v with recDue := v.recDue.filter fun y => y.rope != r.val }).record x).nvSweep)
      else .next s := by
  rw [execRecordStart, h]
  rfl

theorem State.recPublish_judged (r : Nat) (x : NvRec) (s u : State)
    (hu : u = s.latchChecked 17 (boundaryMask fun x e => x == .publish && decide (NvfRec.adr r ≤ e) && decide (e < NvfRec.adr r + 0x80)) State.recBad) :
    s.recPublish r x =
      if !u.actB (NvfRec.adr r) NvfRec.enable then u
      else if u.nvf.recDue.any fun y => y.rope == r then u.raise 4 11 r
      else { u with nvf := { u.nvf with recDue := u.nvf.recDue ++ [x] } } := by
  subst hu
  rfl

/-! ## The record of a publish (R441, R442) -/

section
variable (x : NvRec) (s : State)

/-- The range lock that the record of `x` takes. -/
def State.recLock (s : State) (x : NvRec) : NvLock :=
  { id := s.nvf.nextId, sq := none, cid := 0, rope := x.rope, op := 1, nss := [s.act (NvfRec.adr x.rope) NvfRec.ns]
    lba := s.act (NvfRec.adr x.rope) NvfRec.startLba + x.cycle % max 1 (s.act (NvfRec.adr x.rope) NvfRec.slots) * recLbas s.inForce x.rope
    blocks := recLbas s.inForce x.rope, fua := false, prp1 := 0, prp2 := 0, phase := .sent, flushed := false }

/-- The cycle of `x` is skipped. -/
def State.recSkips (s : State) (x : NvRec) : Bool :=
  !s.ready 17 || !s.actB (NvfNs.adr (s.act (NvfRec.adr x.rope) NvfRec.ns)) NvfNs.enable || decide (lockSlots ≤ s.nvf.locks.length)
    || (s.nvf.locks.any fun y => y.sq == none && y.rope == x.rope && s.unhanded y.id != 0)
    || lockBlocked (s.recLock x) s.nvf.locks || (s.lockConns (s.recLock x)).any fun c => !s.connIsOpen c

theorem State.record_eq : s.record x = if s.recSkips x then s.raise 4 11 x.rope
    else (s.takeLock (s.recLock x)).issueOps (s.recLock x).id opWRITE none (s.lockOps (s.recLock x)) (s.recordBytes x) [] := rfl

theorem State.record_skips (h : s.ready 17 = false ∨ s.actB (NvfNs.adr (s.act (NvfRec.adr x.rope) NvfRec.ns)) NvfNs.enable = false ∨
      lockSlots ≤ s.nvf.locks.length ∨ ∃ y ∈ s.nvf.locks, y.sq = none ∧ y.rope = x.rope ∧ s.unhanded y.id ≠ 0) :
    s.record x = s.raise 4 11 x.rope := by
  rw [s.record_eq, if_pos]
  simp only [State.recSkips, Bool.or_eq_true, Bool.not_eq_true', decide_eq_true_eq, List.any_eq_true, Bool.and_eq_true, beq_iff_eq, bne_iff_ne]
  obtain h | h | h | ⟨y, hy, h1, h2, h3⟩ := h
  · exact .inl (.inl (.inl (.inl (.inl h))))
  · exact .inl (.inl (.inl (.inl (.inr h))))
  · exact .inl (.inl (.inl (.inr h)))
  · exact .inl (.inl (.inr ⟨y, hy, ⟨h1, h2⟩, h3⟩))

/-- The operations of a range of blocks go to connections of its extents. -/
theorem conn_of_mem_extentOps (rd : Nat → Word) (lb : Nat) (es : List Nat) (lba n : Nat) (op : Nat × Nat × Nat × Nat)
    (h : op ∈ extentOps rd lb es lba n) : ∃ e ∈ es, op.1 = fieldOf rd (NvfExt.adr e) NvfExt.conn := by
  induction es generalizing lba n with
  | nil => exact absurd h List.not_mem_nil
  | cons e es ih =>
      have skip {lba n : Nat} (h : op ∈ extentOps rd lb es lba n) : ∃ f ∈ e :: es, op.1 = fieldOf rd (NvfExt.adr f) NvfExt.conn := by
        obtain ⟨f, hf, ho⟩ := ih lba n h
        exact ⟨f, List.mem_cons_of_mem _ hf, ho⟩
      unfold extentOps at h
      dsimp only at h
      split at h
      · exact absurd h List.not_mem_nil
      · split at h
        · exact skip h
        · obtain rfl | h := List.mem_cons.1 h
          · exact ⟨e, List.mem_cons_self, rfl⟩
          · exact skip h

theorem State.record_takes (hr : s.ready 17 = true) (he : s.actB (NvfNs.adr (s.act (NvfRec.adr x.rope) NvfRec.ns)) NvfNs.enable = true)
    (hl : s.nvf.locks = [])
    (ho : ∀ e ∈ nsExtents s.inForce (s.act (NvfRec.adr x.rope) NvfRec.ns), s.connIsOpen (fieldOf s.inForce (NvfExt.adr e) NvfExt.conn) = true) :
    s.record x = (s.takeLock (s.recLock x)).issueOps (s.recLock x).id opWRITE none (s.lockOps (s.recLock x)) (s.recordBytes x) [] := by
  have hconns : ((s.lockConns (s.recLock x)).any fun c => !s.connIsOpen c) = false := by
    refine List.any_eq_false.2 fun c hc => ?_
    obtain ⟨op, hop, rfl⟩ := List.mem_map.1 (List.mem_eraseDups.1 hc)
    obtain ⟨e, hmem, hconn⟩ := conn_of_mem_extentOps _ _ _ _ _ op hop
    rw [hconn, ho e hmem]
    decide
  refine (s.record_eq x).trans (if_neg ?_)
  have hroom : decide (lockSlots ≤ s.nvf.locks.length) = false := by rw [hl]; decide
  simp only [State.recSkips, hr, he, hroom, hconns]
  simp only [hl, List.any_nil, lockBlocked]
  exact Bool.false_ne_true

end

/-- Settles O52: a write of ENABLE and of DONE is judged on the state that the gate leaves; the next record is the lowest rope of the
oldest instant; and a record goes to the connections of its namespace's extents. -/
theorem namespacesNoticesAndRecords : Obligations.NamespacesNoticesAndRecords := by
  refine ⟨fun o n v s u t h hu ht hoff => ?_, fun o n v s u t h hu ht hon => ?_, fun n e rd s => State.nsEnableOk_extent,
    fun o v s u old d h hu hold hd => ?_, State.noticeDone_only, fun r x s hx => ?_, fun r s h => ?_, State.recNext_lowest,
    fun r x s u hu => ?_, State.record_skips, fun x s hr he hl ho => ⟨s.recLock x, s.record_takes x hr he hl ho, rfl, rfl, rfl, rfl, rfl, rfl, rfl⟩⟩
  · have hrun := execNamespaceEnable_disabled o n v s u t h hu ht hoff
    refine ⟨fun hbad => hrun.trans ?_, fun hsize hoffence => ⟨fun h31 => hrun.trans ?_, fun h31 hforce hrd => hrun.trans ?_⟩⟩
    · rw [if_pos]
      obtain hb | hb | ⟨h31, hb⟩ := hbad
      · simp [hb]
      · simp [hb]
      · obtain hb | hb := hb <;> simp [h31, hb]
    · simp only [decide_eq_false (Nat.not_le.2 hsize), hoffence, h31, Bool.false_and, Bool.or_false, Option.isSome_none, Bool.false_eq_true, if_false]
    · simp [Nat.not_le.2 hsize, hoffence, h31, hforce, hrd]
  · have hrun := execNamespaceEnable_enabled o n v s u t h hu ht hon
    refine ⟨fun hsame h31 huse hoffence => hrun.trans ?_, fun hbad => hrun.trans ?_⟩
    · simp only [beq_iff_eq.2 hsame, h31, huse, hoffence, Bool.not_true, Bool.or_false, Option.isSome_none, Bool.false_eq_true, if_false]
    · rw [if_pos]
      obtain hb | hb | hb := hbad
      · simp only [beq_eq_false_iff_ne.2 hb, Bool.not_false, Bool.true_or]
      · simp only [hb, Bool.or_true, Bool.true_or]
      · simp only [hb, Bool.or_true, Bool.true_or]
  · have hrun := execTargetDone_open o v s u old d h hu hold hd
    exact ⟨fun hv hle => hrun.trans (congrArg _ (if_neg fun hc => hc.elim (Nat.not_le.2 hv) (Nat.not_lt.2 hle))),
      fun hbad => hrun.trans (congrArg _ (if_pos hbad))⟩
  · have hrun := execRecordStart_next r x s hx
    exact ⟨fun hr => hrun.trans (if_pos hr), fun hr => hrun.trans (if_neg hr)⟩
  · have hnone : s.recNext = none := by rw [State.recNext, h]
    rw [exec, execRecordStart, hnone]
  · have hrun := s.recPublish_judged r x u hu
    refine ⟨fun hoff => hrun.trans (if_pos (by rw [hoff]; rfl)), fun hon hwait => hrun.trans ?_, fun hon hfree => hrun.trans ?_⟩
    · obtain ⟨y, hy, hyr⟩ := hwait
      have hany : (u.nvf.recDue.any fun y => y.rope == r) = true := List.any_eq_true.2 ⟨y, hy, beq_iff_eq.2 hyr⟩
      exact (if_neg (by rw [hon]; exact Bool.false_ne_true)).trans (if_pos hany)
    · refine (if_neg (by rw [hon]; exact Bool.false_ne_true)).trans (if_neg fun hany => ?_)
      obtain ⟨y, hy, hyr⟩ := List.any_eq_true.1 hany
      exact hfree y hy (beq_iff_eq.1 hyr)

end Sys2Proof.Machine
end

section
/-!
I/O commands of the storage front end: their arrival, the order of their lock checks, the checks, the range locks, their issue and
their completion.
-/

namespace Sys2Proof.Machine

/-! ## Arrival and the order of the checks (R433, R434) -/

theorem State.nvArrive_taken (s : State) (y op : Nat) (q : NvSq) (e : List Byte) (hy : y ≠ 0) (hq : s.sq y = some q) (ha : q.asked ≠ 0)
    (ho : nvOp e = op) :
    s.nvArrive y op e = .next (((s.nvTaken y q).modNvf fun v => { v with fetched := fillFetched y e v.fetched }).nvSweep) := by
  unfold State.nvArrive
  rw [hq]
  exact (if_neg hy).trans ((if_neg ha).trans (if_neg fun h => h.1 ho))

theorem fillFetched_first (y : Nat) (e : List Byte) (l m : List NvFetched) (h : ∀ x ∈ l, x.sq ≠ y ∨ x.entry ≠ none) :
    fillFetched y e (l ++ { sq := y, entry := none } :: m) = l ++ { sq := y, entry := some e } :: m := by
  induction l with
  | nil => exact if_pos ⟨rfl, rfl⟩
  | cons x l ih =>
      have hx : ¬ (x.sq = y ∧ x.entry = none) := fun hc => (h x List.mem_cons_self).elim (fun h => h hc.1) fun h => h hc.2
      exact (if_neg hx).trans (congrArg (x :: ·) (ih fun z hz => h z (List.mem_cons_of_mem _ hz)))

/-- The entries that may meet their check are fetched ones. -/
theorem mem_of_readyFetched (l : List NvFetched) (x : Nat × List Byte) (h : x ∈ readyFetched l) : ∃ z ∈ l, z.sq = x.1 := by
  induction l with
  | nil => exact absurd h List.not_mem_nil
  | cons z l ih =>
      unfold readyFetched at h
      split at h
      · obtain rfl | h := List.mem_cons.1 h
        · exact ⟨z, List.mem_cons_self, rfl⟩
        · obtain ⟨w, hw, hs⟩ := ih h
          exact ⟨w, List.mem_cons_of_mem _ hw, hs⟩
      · exact absurd h List.not_mem_nil

section
variable (n y : Nat) (e : List Byte) (rest : List NvFetched) (s : State)

theorem State.nvChecks_first (hl : s.nvf.locks.length < lockSlots) (hf : s.nvf.fetched = { sq := y, entry := some e } :: rest)
    (hr : s.sliceRoom (s.nvSlice y) = true) :
    s.nvChecks (n + 1) = ((s.modNvf fun v => { v with fetched := rest }).nvRun y e).nvChecks n := by
  have hfind : ((readyFetched s.nvf.fetched).find? fun x => s.sliceRoom (s.nvSlice x.1)) = some (y, e) := by
    rw [hf]
    exact List.find?_cons_of_pos hr
  have hdrop : (s.modNvf fun v => { v with fetched := dropFirst ⟨y, some e⟩ v.fetched }) = s.modNvf fun v => { v with fetched := rest } := by
    rw [State.modNvf, State.modNvf, hf]
    exact congrArg (fun l => ({ s with nvf := { s.nvf with fetched := l } } : State)) (if_pos rfl)
  refine (if_neg (Nat.not_le.2 hl)).trans ?_
  rw [hfind]
  dsimp only
  rw [hdrop]

theorem State.nvChecks_waits (h : lockSlots ≤ s.nvf.locks.length ∨ (∃ y rest, s.nvf.fetched = { sq := y, entry := none } :: rest) ∨
    ∀ x ∈ s.nvf.fetched, s.sliceRoom (s.nvSlice x.sq) = false) : s.nvChecks n = s := by
  cases n with
  | zero => rfl
  | succ n =>
      obtain h | h := h
      · exact if_pos h
      · have hfind : ((readyFetched s.nvf.fetched).find? fun x => s.sliceRoom (s.nvSlice x.1)) = none := by
          obtain ⟨y, rest, hf⟩ | hroom := h
          · rw [hf]
            rfl
          · refine List.find?_eq_none.2 fun x hx => ?_
            obtain ⟨z, hz, hs⟩ := mem_of_readyFetched _ x hx
            rw [← hs, hroom z hz]
            exact Bool.false_ne_true
        refine ite_eq_left_iff.2 fun _ => ?_
        rw [hfind]

end

/-! ## The checks of an I/O command (R429, R436) -/

section
variable (y : Nat) (e : List Byte) (s : State)

theorem State.nvRun_io (h : nvOp e = 1 ∨ nvOp e = 2 ∨ nvOp e = 8) : s.nvRun y e = s.nvIo y e := by
  obtain h | h | h := h <;> rw [State.nvRun, h] <;> rfl

theorem State.nvRun_unknown (h : nvOp e ∉ ioOps) : s.nvRun y e = s.nvAnswer y (nvCid e) nvINVALID_OPCODE 0 := by
  have h0 : nvOp e ≠ 0 := fun h0 => h (h0 ▸ by decide)
  exact (if_neg h0).trans (if_neg fun hc => h (List.contains_iff_mem.1 hc))

theorem ioReserved_iff : ioReserved e = true ↔ leAt e 1 1 ≠ 0 ∨ allZero (slice e 8 16) = false ∨
    if nvOp e = 0 then allZero (slice e 40 24) = false
    else bits (nvDw e 12) 29 16 ≠ 0 ∨ (if nvOp e = 8 then 0 else 255) < nvDw e 13 ∨ nvDw e 14 ≠ 0 ∨ nvDw e 15 ≠ 0 := by
  unfold ioReserved nvReserved
  split <;> simp only [Bool.or_eq_true, bne_iff_ne, Bool.not_eq_true', decide_eq_true_eq, or_assoc]

theorem State.nvIo_reserved (h : ioReserved e = true) :
    s.nvIo y e = s.nvAnswer y (nvCid e) nvINVALID_FIELD 0 ∧ s.nvFlush y e = s.nvAnswer y (nvCid e) nvINVALID_FIELD 0 :=
  ⟨if_pos h, if_pos h⟩

variable (h : ioReserved e = false)
include h

theorem State.nvIo_notAllowed (hn : nvNsid e = 0 ∨ s.nsAllowed y (nvNsid e - 1) = false) : s.nvIo y e = s.nvAnswer y (nvCid e) nvINVALID_NS 0 ∧
    (nvNsid e ≠ 0xFFFFFFFF → s.nvFlush y e = s.nvAnswer y (nvCid e) nvINVALID_NS 0) := by
  have hbad : nvNsid e = 0 ∨ (!s.nsAllowed y (nvNsid e - 1)) = true := hn.imp_right fun ha => by rw [ha]; rfl
  exact ⟨(if_neg (Bool.eq_false_iff.1 h)).trans (if_pos hbad), fun h1 => (if_neg (Bool.eq_false_iff.1 h)).trans (if_pos ⟨h1, hbad⟩)⟩

variable (h0 : nvNsid e ≠ 0) (ha : s.nsAllowed y (nvNsid e - 1) = true)
include h0 ha

/-- What a Read or a Write adds to the SMART counters. -/
def State.ioSmart (s : State) (e : List Byte) : List Nat :=
  if nvOp e = 2 then [(leAt e 48 2 + 1) * lbaSize s.inForce (nvNsid e - 1) / 512, 0, 1, 0]
  else [0, (leAt e 48 2 + 1) * lbaSize s.inForce (nvNsid e - 1) / 512, 0, 1]

/-- A command without a reserved field on a namespace that it may name is judged by its length and its range. -/
theorem State.nvIo_allowed :
    s.nvIo y e =
      if 1048576 < (leAt e 48 2 + 1) * lbaSize s.inForce (nvNsid e - 1) then s.nvAnswer y (nvCid e) nvINVALID_FIELD 0
      else if nsBlocks s.inForce (nvNsid e - 1) < leAt e 40 8 + (leAt e 48 2 + 1) then s.nvAnswer y (nvCid e) nvLBA_RANGE 0
      else (if nvOp e = 8 then s else s.modNvf fun v => { v with smart := List.zipWith (· + ·) v.smart (s.ioSmart e) }).nvLock
        { id := 0, sq := some y, cid := nvCid e, rope := 0, op := nvOp e, nss := [nvNsid e - 1], lba := leAt e 40 8, blocks := leAt e 48 2 + 1
          fua := nvOp e == 1 && bit (nvDw e 12) 30, prp1 := leAt e 24 8, prp2 := leAt e 32 8, phase := .stalled, flushed := false } :=
  (if_neg (Bool.eq_false_iff.1 h)).trans (if_neg fun hc => hc.elim h0 fun hc => by rw [ha] at hc; exact Bool.false_ne_true hc)

theorem State.nvFlush_one (h1 : nvNsid e ≠ 0xFFFFFFFF) :
    s.nvFlush y e = s.nvLock { id := 0, sq := some y, cid := nvCid e, rope := 0, op := 0, nss := [nvNsid e - 1], lba := 0, blocks := 0, fua := false
                               prp1 := 0, prp2 := 0, phase := .before, flushed := false } := by
  have hns : ¬ (nvNsid e ≠ 0xFFFFFFFF ∧ (nvNsid e = 0 ∨ (!s.nsAllowed y (nvNsid e - 1)) = true)) := fun hc =>
    hc.2.elim h0 fun hc => by rw [ha] at hc; exact Bool.false_ne_true hc
  refine (if_neg (Bool.eq_false_iff.1 h)).trans ((if_neg hns).trans ?_)
  rw [if_neg h1]

end

theorem State.nsAllowed_enabled (y n : Nat) (s : State) (h : s.nsAllowed y n = true) :
    n < 1024 ∧ s.actB (NvfNs.adr n) NvfNs.enable = true ∧ ∀ k, s.nvSlice y = some k → s.act (NvfNs.adr n) NvfNs.slice = k := by
  simp only [State.nsAllowed, Bool.and_eq_true, decide_eq_true_eq] at h
  obtain ⟨⟨hn, hen⟩, hs⟩ := h
  refine ⟨hn, hen, fun k hk => ?_⟩
  rw [hk] at hs
  exact beq_iff_eq.1 hs

/-! ## Range locks (R433, R434) -/

section
variable (l x : NvLock) (s : State)

@[simp] theorem State.nvf_nvEvent (n d : Nat) : (s.nvEvent n d).nvf = s.nvf := State.raiseHeld_nvf _ _ _ _ _ _

theorem State.locks_locked : ((s.modNvf fun v => { v with nextId := l.id + 1 }).setLocks (s.nvf.locks ++ [l])).nvf.locks = s.nvf.locks ++ [l] :=
  congrArg Nvf.locks (State.nvf_setLocks _ _)

theorem State.takeLock_eq : s.takeLock l =
    if s.nvf.locks.length + 1 = lockSlots then ((s.modNvf fun v => { v with nextId := l.id + 1 }).setLocks (s.nvf.locks ++ [l])).nvEvent 5 0
    else (s.modNvf fun v => { v with nextId := l.id + 1 }).setLocks (s.nvf.locks ++ [l]) := by
  have hlen : ((s.modNvf fun v => { v with nextId := l.id + 1 }).setLocks (s.nvf.locks ++ [l])).nvf.locks.length = s.nvf.locks.length + 1 := by
    rw [s.locks_locked, List.length_append, List.length_singleton]
  rw [State.takeLock, hlen]

theorem State.locks_takeLock : (s.takeLock l).nvf.locks = s.nvf.locks ++ [l] := by
  rw [State.takeLock_eq]
  split
  · rw [State.nvf_nvEvent, State.locks_locked]
  · exact s.locks_locked l

theorem State.nvLock_judged (hx : x = { l with id := s.nvf.nextId }) :
    (l.phase = .before → s.nvLock l = s.takeLock x) ∧
    (l.phase = .stalled → lockBlocked x s.nvf.locks = true → s.nvLock l = s.takeLock x) ∧
    (l.phase = .stalled → lockBlocked x s.nvf.locks = false → (s.takeLock x).nvMayIssue x = true → s.nvLock l = (s.takeLock x).nvGranted x) := by
  have hrun : s.nvLock l = if x.phase = .before then s.takeLock x
      else if lockBlocked x s.nvf.locks || !(s.takeLock x).nvMayIssue x then s.takeLock x else (s.takeLock x).nvGranted x := hx ▸ rfl
  have hphase : x.phase = l.phase := hx ▸ rfl
  rw [hphase] at hrun
  have stalled (h : l.phase = .stalled) : l.phase ≠ .before := fun hb => NvPhase.noConfusion (h.symm.trans hb)
  refine ⟨fun hb => hrun.trans (if_pos hb), fun hs hb => hrun.trans ((if_neg (stalled hs)).trans (if_pos (by rw [hb]; rfl))),
    fun hs hb hm => hrun.trans ((if_neg (stalled hs)).trans (if_neg ?_))⟩
  rw [hb, hm]
  exact Bool.false_ne_true

theorem lockBlocked_iff (ls : List NvLock) (h : ∀ l ∈ ls, l.id ≠ x.id) : lockBlocked x ls = true ↔
    ∃ l ∈ ls, (l.op ≠ 2 ∨ x.op ≠ 2) ∧ l.nss = x.nss ∧ l.lba < x.lba + x.blocks ∧ x.lba < l.lba + l.blocks := by
  induction ls with
  | nil => exact ⟨fun h => absurd h Bool.false_ne_true, fun ⟨l, hl, _⟩ => absurd hl List.not_mem_nil⟩
  | cons l ls ih =>
      have hstep : lockBlocked x (l :: ls) = (l.conflicts x || lockBlocked x ls) := if_neg (h l List.mem_cons_self)
      rw [hstep, Bool.or_eq_true, ih fun z hz => h z (List.mem_cons_of_mem _ hz), List.exists_mem_cons_iff]
      simp only [NvLock.conflicts, Bool.and_eq_true, Bool.or_eq_true, bne_iff_ne, beq_iff_eq, decide_eq_true_eq, and_assoc]

/-! ## Issue (R430, R432, R443) -/

theorem State.notOpen_any (h : ∃ c ∈ s.lockConns l, s.connIsOpen c = false) : ((s.lockConns l).any fun c => !s.connIsOpen c) = true := by
  obtain ⟨c, hc, ho⟩ := h
  exact List.any_eq_true.2 ⟨c, hc, by rw [ho]; rfl⟩

theorem State.open_any (h : ∀ c ∈ s.lockConns l, s.connIsOpen c = true) : ¬ ((s.lockConns l).any fun c => !s.connIsOpen c) = true := fun ha => by
  obtain ⟨c, hc, ho⟩ := List.any_eq_true.1 ha
  rw [h c hc] at ho
  exact Bool.false_ne_true ho

theorem State.nvGranted_open (h : ∀ c ∈ s.lockConns l, s.connIsOpen c = true) (h8 : l.op ≠ 8) :
    s.nvGranted l = if l.prp1 % 4 ≠ 0 then s.nvFinish l nvPRP_OFFSET
      else match s.morePages l with
        | 0 => s.nvPages l [l.prp1]
        | 1 => if l.prp2 % 4096 ≠ 0 then s.nvFinish l nvPRP_OFFSET else s.nvPages l [l.prp1, l.prp2]
        | n => s.nvList l l.prp2 n [l.prp1] :=
  (if_neg (s.open_any l h)).trans (if_neg h8)

theorem State.nvGranted_onePage (h : ∀ c ∈ s.lockConns l, s.connIsOpen c = true) (h8 : l.op ≠ 8) (hp : l.prp1 % 4 = 0)
    (hb : s.lockBytes l ≤ 4096 - l.prp1 % 4096) : s.nvGranted l = s.nvPages l [l.prp1] := by
  have hmore : s.morePages l = 0 := if_pos hb
  rw [s.nvGranted_open l h h8, if_neg (not_not_intro hp), hmore]
  rfl

theorem State.nvSend_open (data : List Byte) (h : ∀ c ∈ s.lockConns l, s.connIsOpen c = true) :
    s.nvSend l data = (s.issueOps l.id opWRITE none (s.lockOps l) data []).modLock l.id fun l => { l with phase := .sent } :=
  if_neg (s.open_any l h)

theorem execLockGranted_first (h : s.nvf.locks.find? (fun l : NvLock => l.phase == .stalled && !lockBlocked l s.nvf.locks && s.nvMayIssue l) = some l) :
    execLockGranted s = .next (s.nvGranted l).nvSweep := by
  rw [execLockGranted, h]
  rfl

end

/-! ## The data of a command (R436, R443) -/

section
variable (i : Nat) (l : NvLock) (data : List Byte) (bad : Bool) (s : State) (h : s.lock i = some l)
include h

theorem execNvmeDataCompletion_data (pages : List Nat) (hp : l.phase = .data pages) :
    execNvmeDataCompletion i data bad s =
      if bad then .next (((s.readsOver (.nvme i) s.hif.reads.length).nvFinish l nvDATA_TRANSFER).nvSweep)
      else if !s.nvMayIssue l then
        .next ((s.readsOver (.nvme i) s.hif.reads.length).modLock i fun l => { l with phase := .stalled })
      else .next (((s.readsOver (.nvme i) s.hif.reads.length).nvSend l (slice data 0 (s.lockBytes l))).nvSweep) := by
  rw [execNvmeDataCompletion, h]
  dsimp only
  rw [hp]
  rfl

theorem execNvmeDataCompletion_list (addr : Nat) (pages : List Nat) (hp : l.phase = .list addr pages) (hm : s.nvMayIssue l = true) :
    execNvmeDataCompletion i data false s = .next (((s.readsOver (.nvme i) s.hif.reads.length).nvListIn l addr pages data).nvSweep) := by
  rw [execNvmeDataCompletion, h]
  dsimp only
  rw [hp, hm]
  rfl

theorem execNvmeDataCompletion_finished (hp : l.phase = .finished) :
    execNvmeDataCompletion i data bad s = .next (s.readsOver (.nvme i) s.hif.reads.length) := by
  rw [execNvmeDataCompletion, h]
  dsimp only
  rw [hp]

end

/-! ## Fetching and completion (R434, R436, R437) -/

theorem State.nvMayFetch_room (y : Nat) (q : NvSq) (s : State) (h : s.nvMayFetch y q = true) :
    s.ready 17 = true ∧ s.nvReady = true ∧ s.nvFatal = false ∧ s.nvf.locks.length < lockSlots ∧
      (∀ d ∈ s.nvf.held, d.cq ≠ q.cq) ∧ s.sliceRoom (s.nvSlice y) = true ∧ ∀ k, s.nvSlice y = some k → s.frozen k = false := by
  simp only [State.nvMayFetch, Bool.and_eq_true, Bool.not_eq_true', decide_eq_true_eq, List.any_eq_false, beq_iff_eq] at h
  obtain ⟨⟨⟨⟨⟨⟨⟨hr, hn⟩, hf⟩, -⟩, hl⟩, hh⟩, hs⟩, hk⟩ := h
  refine ⟨hr, hn, hf, hl, hh, hs, fun k he => ?_⟩
  rw [he] at hk
  exact Bool.not_eq_true' _ ▸ hk

section
variable (d : NvDone) (q : NvCq) (s : State)

theorem State.nvPost_room (hq : s.cq d.cq = some q) (hf : q.full = false) (hh : ∀ x ∈ s.nvf.held, x.cq ≠ d.cq) : s.nvPost d = s.nvWrite d q := by
  rw [State.nvPost, hq]
  refine if_neg fun hc => ?_
  rw [hf, Bool.false_or, List.any_eq_true] at hc
  obtain ⟨x, hx, hxc⟩ := hc
  exact hh x hx (beq_iff_eq.1 hxc)

theorem State.nvPost_full (hq : s.cq d.cq = some q) (hf : q.full = true) :
    s.nvPost d = (s.modNvf fun v => { v with held := v.held ++ [d] }).nvEvent 4 d.cq := by
  rw [State.nvPost, hq]
  exact if_pos (by rw [hf, Bool.true_or])

/-- The queue as a completion leaves it. -/
def NvCq.advanced (q : NvCq) : NvCq := { q with tail := (q.tail + 1) % q.size, phase := q.phase != ((q.tail + 1) % q.size == 0) }

/-- The completion entry. -/
def State.nvCqe (s : State) (d : NvDone) (q : NvCq) : List Byte :=
  let h := match s.sq d.sq with | some x => x.head | none => 0
  let dnr := if [nvOK, nvNOT_READY, nvTRANSPORT].contains d.status then 0 else s.free % 2
  leBytes 4 d.dw0 ++ [0, 0, 0, 0] ++ leBytes 2 h ++ leBytes 2 d.sq ++ leBytes 2 d.cid
    ++ leBytes 2 (b2n q.phase + 2 * d.status + 32768 * dnr)

/-- The entry of a completion goes to the host, or the controller fails. -/
def State.nvCqeSent (s : State) (d : NvDone) (q : NvCq) : State :=
  if s.issues 2 then s.dmaWriteBy (some (.cq d.cq)) 2 (s.nvPasid d.cq) (q.base + 16 * q.tail) (s.nvCqe d q) else s.nvFail

theorem State.nvf_nvCqeSent : ∃ csts, (s.nvCqeSent d q).nvf = { s.nvf with csts := csts } := by
  unfold State.nvCqeSent
  split
  · exact ⟨s.nvf.csts, (State.linkOnly_dmaWriteBy _ _ _ _ _ _).nvf⟩
  · exact ⟨_, rfl⟩

/-- The state with the queue advanced and the lock freed. -/
def State.nvAdvanced (s : State) (d : NvDone) (q : NvCq) : State :=
  match d.lock with | some i => ((s.nvCqeSent d q).putCq d.cq q.advanced).freeLock i | none => (s.nvCqeSent d q).putCq d.cq q.advanced

theorem State.nvWrite_eq : s.nvWrite d q = (if q.ien then (s.nvAdvanced d q).msix 2 q.vector else s.nvAdvanced d q).tickFree := by
  unfold State.nvAdvanced
  cases hl : d.lock <;> rw [State.nvWrite, hl] <;> rfl

theorem State.nvf_nvAdvanced (csts : Nat) (h : (s.nvCqeSent d q).nvf = { s.nvf with csts := csts }) :
    (s.nvAdvanced d q).nvf = { s.nvf with csts := csts, cqs := sins s.nvf.cqs d.cq q.advanced
                                          locks := match d.lock with | some i => s.nvf.locks.filter (fun l => l.id != i) | none => s.nvf.locks } := by
  unfold State.nvAdvanced
  cases d.lock with
  | none => exact congrArg (fun v : Nvf => { v with cqs := sins v.cqs d.cq q.advanced }) h
  | some i =>
      refine (State.nvf_setLocks _ _).trans ?_
      exact congrArg (fun v : Nvf => { v with cqs := sins v.cqs d.cq q.advanced, locks := v.locks.filter fun l => l.id != i }) h

theorem State.nvWrite_leaves : (s.nvWrite d q).cq d.cq = some q.advanced ∧
    (s.nvWrite d q).nvf.locks = (match d.lock with | some i => s.nvf.locks.filter (fun l => l.id != i) | none => s.nvf.locks) ∧
    (s.nvWrite d q).nvf.sqs = s.nvf.sqs := by
  obtain ⟨csts, h⟩ := s.nvf_nvCqeSent d q
  have hnvf : (s.nvWrite d q).nvf = (s.nvAdvanced d q).nvf := by
    rw [State.nvWrite_eq]
    refine ((State.linkOnly_tickFree _).nvf).trans ?_
    split
    · exact (State.linkOnly_msix _ _ _).nvf
    · rfl
  rw [State.cq, hnvf, s.nvf_nvAdvanced d q csts h]
  exact ⟨sfind_sins_same _ _ _, rfl, rfl⟩

end

/-- Settles O51: an entry that arrives takes the place of its fetch; the checks judge the front entry; and a command goes by its
range lock, its connections and its pages to its completion. -/
theorem storageCommandsLockIssueAndComplete : Obligations.StorageCommandsLockIssueAndComplete :=
  ⟨fun y q e s t hy hq ha ht => by
      have arrives {op : Nat} (ho : nvOp e = op) : s.nvArrive y op e = .next t := ht ▸ s.nvArrive_taken y op q e hy hq ha ho
      exact ⟨arrives, arrives, arrives, arrives⟩,
    fillFetched_first, State.nvChecks_first, State.nvChecks_waits,
    fun k s hs => by rw [State.sliceRoom, hs, Bool.false_or, decide_eq_true_eq],
    fun y e s => ⟨fun h => if_pos h, s.nvRun_io y e, s.nvRun_unknown y e⟩, ioReserved_iff, fun y e s => s.nvIo_reserved y e,
    fun y e s => s.nvIo_notAllowed y e,
    fun y e s h h0 ha => by
      have hrun := s.nvIo_allowed y e h h0 ha
      refine ⟨fun hlong => hrun.trans (if_pos hlong), fun hshort hout => hrun.trans ((if_neg (Nat.not_lt.2 hshort)).trans (if_pos hout)),
        fun hshort hin l hl => ?_⟩
      rw [if_neg (Nat.not_lt.2 hshort), if_neg (Nat.not_lt.2 hin), ← hl, State.ioSmart] at hrun
      exact ⟨fun h8 => by rw [hrun, if_pos h8], fun h2 => by rw [hrun, if_neg (by rw [h2]; decide), if_pos h2],
        fun h1 => by rw [hrun, if_neg (by rw [h1]; decide), if_neg (by rw [h1]; decide)]⟩,
    fun y e s h h0 h1 ha => s.nvFlush_one y e h h0 ha h1, State.nsAllowed_enabled,
    fun l s => ⟨s.locks_takeLock l, fun h => (s.takeLock_eq l).trans (if_neg h), fun h => (s.takeLock_eq l).trans (if_pos h)⟩,
    fun l x s hx => s.nvLock_judged l x hx, lockBlocked_iff, fun l s => execLockGranted_first l s, fun l s h => if_pos (s.notOpen_any l h),
    fun l s h h8 hp => (s.nvGranted_open l h h8).trans (if_pos hp), fun l s => s.nvGranted_onePage l,
    fun i l pages data s h hp => ⟨(execNvmeDataCompletion_data i l data true s h pages hp).trans (if_pos rfl), fun hm =>
      (execNvmeDataCompletion_data i l data false s h pages hp).trans ((if_neg Bool.false_ne_true).trans (if_neg (by rw [hm]; exact Bool.false_ne_true)))⟩,
    fun i addr l pages data s h hp hm => execNvmeDataCompletion_list i l data s h addr pages hp hm,
    fun i l data bad s h hp => execNvmeDataCompletion_finished i l data bad s h hp,
    fun l data s => ⟨fun h => if_pos (s.notOpen_any l h), s.nvSend_open l data⟩, State.nvMayFetch_room, fun d q s => s.nvPost_room d q,
    fun d q s => s.nvPost_full d q, fun d q s => s.nvWrite_leaves d q⟩

end Sys2Proof.Machine
end

section
/-!
A placement that waits for its translation is known by its region until it is issued, and another write of the slice is not.
-/

namespace Sys2Proof.Machine

/-- Slice 0 is bound and its function may issue requests, but an MSI-X message waits, and no later posted request passes it. -/
def behindMessage : State :=
  let s := (State.reset.set (HifSlice.adr 0) HifSlice.state slBOUND).set (HifPfStatus.adr 0) HifPfStatus.bme 1
  { s with hif := { s.hif with linkLost := false, xlate := [(0, .msix 0)] } }

/-- The region is in host memory, and both the placement and the slice's own write wait: only the placement names the region. -/
theorem behindMessage_waits : (behindMessage.region 0).mpi = false ∧
    (behindMessage.placeInto 0 0 []).hif.xlate = [(0, .msix 0), (0, .write false (some (.place 0)) (some 0) 0 [])] ∧
    (behindMessage.sliceData (behindMessage.region 0).slice (((behindMessage.region 0).base + 0) % 2 ^ 64) []).hif.xlate =
      [(0, .msix 0), (0, .write false none (some 0) 0 [])] := by
  decide +kernel

/-- Refutes O49: that a placement into a region of host memory is its slice's write fails where the write has to wait, as it does
behind a posted request that waits. The placement waits as one of its region, for which the region's deregistration waits (R398). -/
theorem not_completionsAndTimersOfShardo : ¬ Obligations.CompletionsAndTimersOfShardo := by
  unfold Obligations.CompletionsAndTimersOfShardo
  rintro ⟨-, -, -, -, -, -, -, -, -, -, -, -, -, -, -, -, -, -, -, -, hplace⟩
  obtain ⟨hmpi, hplaced, hwritten⟩ := behindMessage_waits
  rw [hplace 0 0 [] behindMessage hmpi, hwritten] at hplaced
  exact absurd hplaced (by decide)

end Sys2Proof.Machine
end

section
/-!
The commands of Shardo from SHX_CMD and from the slice-control queues, and what they do to connections, regions and the context cache.
-/

namespace Sys2Proof.Machine

/-! ## Where a command comes from (R418) -/

section
variable (o : Sys2Proof.Origin) (op st : Nat) (s t : State) (f : State → Option Nat → List Byte → ShxRes)

theorem State.shxEnd_cmd (ho : ∀ k, o ≠ .slice k) : t.shxEnd o op st = (t.set ShxCmd.adr ShxCmd.busy 0).set ShxCmd.adr ShxCmd.status st := by
  cases o with
  | slice k => exact absurd rfl (ho k)
  | _ => rfl

section
variable (ho : ∀ k, o ≠ .slice k) (h : s.Open o 16 0x1100 true false) (hb : s.getB ShxCmd.adr ShxCmd.busy = false) (hon : s.shxOn = true)
include ho h hb hon

/-- SHX_CMD runs its command on the arguments that it holds. -/
theorem State.shxCommand_runs : s.shxCommand o op f =
    (match f (s.awake o 16) none s.shxArgs with
      | (s1, some st) => (s1.shxEnd o 0 st).done
      | (s1, none) => (s1.set ShxCmd.adr ShxCmd.busy 1).done : WRes).1 := by
  have hcmd : s.shxCommand o op f = (s.shxCmd o f).1 := by
    cases o with
    | slice k => exact absurd rfl (ho k)
    | _ => rfl
  have hidle : ¬ ((s.awake o 16).getB ShxCmd.adr ShxCmd.busy || !(s.awake o 16).shxOn) = true := by
    have hb' : (s.awake o 16).getB ShxCmd.adr ShxCmd.busy = false := (congrArg (· == 1) (State.get_startClocks s _ _ _)).trans hb
    have hon' : (s.awake o 16).shxOn = true := hon
    rw [hb', hon']
    exact Bool.false_ne_true
  rw [hcmd]
  exact congrArg Prod.fst ((s.gate_open o 16 0x1100 true false _ h).trans (if_neg hidle))

theorem State.shxCommand_ends (hf : f (s.awake o 16) none s.shxArgs = (t, some st)) :
    s.shxCommand o op f = (t.set ShxCmd.adr ShxCmd.busy 0).set ShxCmd.adr ShxCmd.status st := by
  rw [s.shxCommand_runs o op f ho h hb hon, hf]
  exact t.shxEnd_cmd o 0 st ho

theorem State.shxCommand_waits (hf : f (s.awake o 16) none s.shxArgs = (t, none)) : s.shxCommand o op f = t.set ShxCmd.adr ShxCmd.busy 1 := by
  rw [s.shxCommand_runs o op f ho h hb hon, hf]
  rfl

end

/-- What the entry `e` of slice `k` does. -/
def State.shxEntry (s : State) (k : Nat) (e : List Byte) (f : State → Option Nat → List Byte → ShxRes) : State :=
  if s.slicePf k ≠ 3 then s.scEnd k e scOUT_OF_SHARE
  else match f s (some k) e with
    | (s1, some st) => s1.scEnd k e st
    | (s1, none) => s1

section
variable (k : Fin 256) (e : List Byte) (u : State) (hon : s.shxOn = true) (he : s.scEntry k op = some e)

theorem State.shxEntry_ends (hpf : s.slicePf k = 3) (hf : f s (some k.val) e = (t, some st)) : s.shxEntry k e f = t.scEnd k e st := by
  rw [State.shxEntry, if_neg (not_not_intro hpf), hf]

theorem State.shxEntry_waits (hpf : s.slicePf k = 3) (hf : f s (some k.val) e = (t, none)) : s.shxEntry k e f = t := by
  rw [State.shxEntry, if_neg (not_not_intro hpf), hf]

include hon he

theorem State.shxCommand_direct (ha : ¬ (scArg (s.slicePf k) e).isSome = true) : s.shxCommand (.slice k) op f = s.shxEntry k e f := by
  have hoff : ¬ (!s.shxOn) = true := by rw [hon]; exact Bool.false_ne_true
  exact (if_neg hoff).trans (State.scRun_direct _ he ha)

theorem State.shxCommand_argIn (ha : (scArg (s.slicePf k) e).isSome = true) (hu : s.ArgIn k u) :
    s.shxCommand (.slice k) op f = u.shxEntry k e f := by
  have hoff : ¬ (!s.shxOn) = true := by rw [hon]; exact Bool.false_ne_true
  obtain ⟨hr, rfl, hp⟩ := hu
  exact (if_neg hoff).trans ((State.scRun_buffered _ he ha).trans ((if_pos hr).trans (State.qPresent_of_presents hp _)))

end

end

/-- Of the commands of PF3, CONN_SETUP and KEY_LOAD have an argument. -/
theorem scArg_pf3 (e : List Byte) (h : leAt e 0 1 ≠ 0x40) (h' : leAt e 0 1 ≠ 0x60) : scArg 3 e = none := by
  simp [scArg, h, h']

theorem scArg_connSetup (e : List Byte) (h : leAt e 0 1 = 0x40) : (scArg 3 e).isSome = true := by
  simp [scArg, h]

theorem scArg_connSetup_other (e : List Byte) (pf : Nat) (h : leAt e 0 1 = 0x40) (hpf : pf ≠ 3) : scArg pf e = none := by
  simp [scArg, h, hpf]

section
variable (k : Fin 256) (op st : Nat) (e : List Byte) (s t : State) (f : State → Option Nat → List Byte → ShxRes) (hon : s.shxOn = true)
  (hpf : s.slicePf k = 3) (hop : op ≠ 0x40 ∧ op ≠ 0x60) (he : s.scEntry k op = some e)
include hon hpf hop he

theorem State.shxCommand_slice : s.shxCommand (.slice k) op f = s.shxEntry k e f := by
  obtain ⟨hcode, -⟩ := s.scEntry_eq_some k op e he
  refine s.shxCommand_direct op f k e hon he ?_
  rw [hpf, scArg_pf3 e (hcode ▸ hop.1) (hcode ▸ hop.2)]
  exact Bool.false_ne_true

theorem State.shxCommand_slice_ends (hf : f s (some k.val) e = (t, some st)) :
    (s.shxCommand (.slice k) op f).after = .next (t.scEnd k e st).nvSweep :=
  congrArg State.after ((s.shxCommand_slice k op e f hon hpf hop he).trans (s.shxEntry_ends st t f k e hpf hf))

theorem State.shxCommand_slice_waits (hf : f s (some k.val) e = (t, none)) : (s.shxCommand (.slice k) op f).after = .next t.nvSweep :=
  congrArg State.after ((s.shxCommand_slice k op e f hon hpf hop he).trans (s.shxEntry_waits t f k e hpf hf))

end

/-! ## CONN_SETUP (R388) -/

theorem execConnSetup_in (o : Sys2Proof.Origin) (arg : List Byte) (st : Nat) (s t : State) (ho : ∀ k, o ≠ .slice k) (hr : s.reading 3 .shxCmd = true)
    (hf : (s.readEnds 3 .shxCmd).connSetup none s.shx.args arg = (t, some st)) :
    execConnSetup o arg s = .next ((t.set ShxCmd.adr ShxCmd.busy 0).set ShxCmd.adr ShxCmd.status st).nvSweep := by
  have hin : s.connSetupIn arg = (t.set ShxCmd.adr ShxCmd.busy 0).set ShxCmd.adr ShxCmd.status st := by
    rw [State.connSetupIn, hf]
    rfl
  have hrun : execConnSetup o arg s = (s.connSetupIn arg).after := by
    cases o with
    | slice k => exact absurd rfl (ho k)
    | _ => exact if_pos hr
  rw [hrun, hin]
  rfl

theorem execConnSetup_asks (o : Sys2Proof.Origin) (arg : List Byte) (s : State) (ho : ∀ k, o ≠ .slice k) (hr : s.reading 3 .shxCmd = false) :
    execConnSetup o arg s = (s.shxCommand o 0x40 fun s _ e => s.connAskSetup e).after := by
  cases o with
  | slice k => exact absurd rfl (ho k)
  | _ => exact if_neg (Bool.eq_false_iff.1 hr)

/-- The slice of the connection that a context sets up. -/
def State.setupSlice (s : State) (k : Option Nat) (c : Nat) (arg : List Byte) : Nat :=
  if bits (leAt arg 0 1) 4 3 = ckRING then (match k with | some n => n | none => (s.ownerOf .conn c).getD 0) else 0

section
variable (k : Option Nat) (c : Nat) (e arg : List Byte) (s : State) (hc : s.connArg k e = some c)
include hc

theorem State.connSetup_taken (hx : s.conn c ≠ none) : s.connSetup k e arg = (s, some sxCONN_STATE) := by
  rw [State.connSetup, hc]
  exact if_pos (Option.isSome_iff_ne_none.2 hx)

theorem State.connSetup_fresh (sl : Nat) (hx : s.conn c = none) (hsl : s.setupSlice k c arg = sl)
    (hb : s.contextBad k (Conn.fresh arg sl) = none) :
    s.connSetup k e arg = ((s.putConn c (Conn.fresh arg sl)).ctxEnter c, some scOK) := by
  subst hsl
  rw [State.connSetup, hc]
  dsimp only
  rw [hx]
  change (match s.contextBad k (Conn.fresh arg (s.setupSlice k c arg)) with
    | some st => (s, some st)
    | none => ((s.putConn c (Conn.fresh arg (s.setupSlice k c arg))).ctxEnter c, some scOK)) = _
  rw [hb]

end

/-! ## CONN_OPEN, CONN_CLOSE and CONN_QUERY (R389) -/

section
variable (c : Nat) (e : List Byte) (x : Conn) (s : State)

section
variable (hc : s.connArg none e = some c) (hx : s.conn c = some x)
include hc hx

theorem State.onConn_lead (f : Nat → Conn → ShxRes) : s.onConn none e f = f c x := by
  rw [State.onConn, hc]
  dsimp only
  rw [hx]
  exact if_neg fun h => Bool.false_ne_true h.1

theorem State.connOpenCmd_opens (hcl : x.closing = none) (hst : x.state = csCLOSED ∨ x.state = csFAILED) :
    s.connOpenCmd none e = ((s.putConn c { x with
      state := csCONNECTING, epoch := if x.state = csFAILED then (x.epoch + 1) % 256 else x.epoch, version := 0, hellos := 1
      helloAt := s.shxNs + s.rtoNs }).sendHello c false false, some scOK) := by
  refine (s.onConn_lead c e x hc hx _).trans (if_neg ?_)
  rintro (⟨h1, h2⟩ | h)
  · exact hst.elim h1 h2
  · rw [hcl] at h
    exact Bool.false_ne_true h

theorem State.connOpenCmd_refused (hst : x.state = csOPEN ∨ x.state = csCONNECTING) : s.connOpenCmd none e = (s, some sxCONN_STATE) := by
  refine (s.onConn_lead c e x hc hx _).trans (if_pos (.inl ?_))
  obtain h | h := hst <;> rw [h] <;> decide

theorem State.connClose_judged (o : Sys2Proof.Origin) (hcl : x.closing = none) :
    s.connClose o none e = if x.rstate = qsDISABLED then (s.putConn c { x with closing := some o }, none) else (s, some sxCONN_STATE) := by
  have hopen : ¬ x.closing = some o := hcl.trans_ne (Option.some_ne_none o).symm
  refine (s.onConn_lead c e x hc hx _).trans ((if_neg hopen).trans ?_)
  by_cases hr : x.rstate = qsDISABLED
  · rw [if_pos hr, if_neg]
    rintro (h | h)
    · exact h hr
    · rw [hcl] at h
      exact Bool.false_ne_true h
  · rw [if_neg hr, if_pos (.inl hr)]

theorem State.connQuery_lead : s.connQuery none e = ((s.cmdWrite none (leAt e 16 8) (s.ctxBytes x)).tickFree, some scOK) := by
  rw [State.connQuery, hc]
  dsimp only
  rw [hx]
  exact if_neg fun h => Bool.false_ne_true h.1

end

theorem State.connQuery_free (k : Option Nat) (hc : s.connArg k e = some c) (hx : s.conn c = none) :
    s.connQuery k e = (s.cmdWrite k (leAt e 16 8) (leBytes 256 0), some scOK) := by
  rw [State.connQuery, hc]
  dsimp only
  rw [hx]

theorem State.conns_connFree : (s.connFree c x).shx.conns = sdel s.shx.conns c :=
  congrArg Shx.conns (State.linkOnly_dmaWriteBy _ _ _ _ _ _).shx

theorem State.conn_connFree : (s.connFree c x).conn c = none ∧ ∀ d, d ≠ c → (s.connFree c x).conn d = s.conn d := by
  simp only [State.conn, State.conns_connFree]
  exact ⟨sfind_sdel_same _ _, fun d hd => sfind_sdel_other _ _ _ hd⟩

theorem execConnCloseEnd_drained (c : Fin 1048576) (o : Sys2Proof.Origin) (hx : s.conn c = some x) (hcl : x.closing = some o)
    (h1 : s.readsOf (.conn c) = 0) (h2 : s.readsOf (.remote c) = 0) :
    execConnCloseEnd c s = .next ((s.connFree c x).shxEnd o 0x42 scOK).nvSweep := by
  rw [execConnCloseEnd, hx]
  dsimp only
  rw [hcl]
  exact if_pos ⟨h1, h2⟩

end

/-! ## Regions (R396, R398) -/

section
variable (i : Nat) (r : Region) (s : State)

theorem State.shx_putRegion : (s.putRegion i r).shx =
    { s.shx with regions := sput Region.init s.shx.regions i r, rcache := (i :: s.shx.rcache.filter (· != i)).take regionCacheSize } :=
  (State.linkOnly_dmaWriteBy _ _ _ _ _ _).shx

theorem State.region_putRegion (j : Nat) : (s.putRegion i r).region j = if j = i then r else s.region j := by
  rw [State.region, State.shx_putRegion]
  exact sget_sput _ _ _ _ _

theorem State.linkOnly_cmdWrite (k : Option Nat) (addr : Nat) (b : List Byte) : s.LinkOnly (s.cmdWrite k addr b) := by
  cases k with
  | none => exact s.linkOnly_dmaWriteBy _ _ _ _ _
  | some n =>
      unfold State.cmdWrite State.argWrite
      dsimp only
      split
      · exact s.linkOnly_dmaWriteBy _ _ _ _ _
      · exact .refl s

/-- The key of the region that has been registered goes to the command's buffer. -/
def State.registered (s : State) (k : Option Nat) (i : Nat) (e : List Byte) (n : Region) : State :=
  (s.putRegion i n).cmdWrite k (leAt e 32 8) (leBytes 8 ((s.region i).gen * 2 ^ 24 + i))

theorem State.shx_registered (k : Option Nat) (e : List Byte) : (s.registered k i e r).shx = (s.putRegion i r).shx := (State.linkOnly_cmdWrite _ _ _ _).shx

theorem State.region_registered (k : Option Nat) (e : List Byte) (j : Nat) : (s.registered k i e r).region j = if j = i then r else s.region j := by
  rw [State.region, State.shx_registered]
  exact s.region_putRegion i r j

theorem State.conns_registered (k : Option Nat) (e : List Byte) : (s.registered k i e r).shx.conns = s.shx.conns := by
  rw [State.shx_registered, State.shx_putRegion]

/-- What REGION_REGISTER does with a region that is not valid. -/
theorem State.regionRegister_invalid (k : Option Nat) (e : List Byte) (hi : s.regionArg k e = some i) (hv : (s.region i).valid = false) :
    s.regionRegister k e =
      let mpi := bit (leAt e 12 1) 4
      let sl := if mpi then 0 else match k with | some n => n | none => leAt e 13 1
      let len := if mpi then 512 else leAt e 24 8
      if mpi ∧ k.isSome then (s, some sxKIND)
      else if len = 0 ∨ 2 ^ 48 < len ∨ s.slices ≤ sl then (s, some scBAD_VALUE)
      else (s.registered k i e { valid := true, lead := k.isNone, mpi := mpi, timed := bit (leAt e 12 1) 3, read := bit (leAt e 12 1) 2
                                 write := bit (leAt e 12 1) 1, gen := (s.region i).gen, slice := sl, base := if mpi then 0 else leAt e 16 8
                                 length := len }, some scOK) := by
  unfold State.regionRegister
  dsimp only
  rw [hi]
  refine (if_neg (Bool.eq_false_iff.1 hv)).trans ?_
  cases k <;> rfl

theorem State.regionRegister_slice (k : Nat) (e : List Byte) (hi : s.regionArg (some k) e = some i) (hv : (s.region i).valid = false)
    (hm : bit (leAt e 12 1) 4 = false) (h0 : 0 < leAt e 24 8) (hl : leAt e 24 8 ≤ 2 ^ 48) (hk : k < s.slices) :
    s.regionRegister (some k) e = (s.registered (some k) i e
      { valid := true, lead := false, mpi := false, timed := bit (leAt e 12 1) 3, read := bit (leAt e 12 1) 2, write := bit (leAt e 12 1) 1
        gen := (s.region i).gen, slice := k, base := leAt e 16 8, length := leAt e 24 8 }, some scOK) := by
  rw [s.regionRegister_invalid i (some k) e hi hv, hm]
  exact (if_neg fun h => Bool.false_ne_true h.1).trans (if_neg fun h => h.elim (Nat.ne_of_gt h0) fun h => h.elim (Nat.not_lt.2 hl) (Nat.not_le.2 hk))

theorem State.regionRegister_mpi (e : List Byte) (hi : s.regionArg none e = some i) (hv : (s.region i).valid = false)
    (hm : bit (leAt e 12 1) 4 = true) (hs : 0 < s.slices) :
    s.regionRegister none e = (s.registered none i e
      { valid := true, lead := true, mpi := true, timed := bit (leAt e 12 1) 3, read := bit (leAt e 12 1) 2, write := bit (leAt e 12 1) 1
        gen := (s.region i).gen, slice := 0, base := 0, length := 512 }, some scOK) := by
  rw [s.regionRegister_invalid i none e hi hv, hm]
  refine (if_neg fun h => Bool.false_ne_true h.2).trans (if_neg fun h => ?_)
  exact h.elim (fun h => absurd h (by simp)) fun h => h.elim (fun h => absurd h (by simp)) (Nat.not_le.2 hs)

theorem State.shx_regionDrop : (s.regionDrop i).shx =
    { (s.putRegion i { s.region i with valid := false, gen := ((s.region i).gen + 1) % 256 }).shx with
      held := s.shx.held.filter fun h => h.region != i } := by
  rw [State.regionDrop]
  exact (State.set_shx _ _ _ _).trans (State.set_shx _ _ _ _)

theorem State.region_regionDrop : (s.regionDrop i).region i = { s.region i with valid := false, gen := ((s.region i).gen + 1) % 256 } := by
  rw [State.region, State.shx_regionDrop]
  exact (s.region_putRegion i _ i).trans (if_pos rfl)

section
variable (o : Sys2Proof.Origin) (k : Option Nat) (e : List Byte) (hi : s.regionArg k e = some i) (hd : (i, o) ∉ s.shx.dereg)
include hi hd

theorem State.regionDeregister_begins : s.regionDeregister o k e =
    if !(s.region i).valid then (s, some sxREGION_STATE)
    else if (s.regionDrop i).placing i then
      ({ s.regionDrop i with shx := { (s.regionDrop i).shx with dereg := (s.regionDrop i).shx.dereg ++ [(i, o)] } }, none)
    else (s.regionDrop i, some scOK) := by
  rw [State.regionDeregister, hi]
  exact if_neg fun h => hd (List.contains_iff_mem.1 h)

end

theorem State.deregEnds_cmd (st : Nat) (o : Sys2Proof.Origin) (ho : ∀ k, o ≠ .slice k) (hd : s.shx.dereg = [(i, o)]) (hp : s.placing i = false)
    (hst : st = scOK) :
    s.deregEnds = (({ s with shx := { s.shx with dereg := [] } } : State).set ShxCmd.adr ShxCmd.busy 0).set ShxCmd.adr ShxCmd.status st := by
  have hstands : ∀ t : State, t.deregStands (i, o) = true := fun t => by
    cases o with
    | slice k => exact absurd rfl (ho k)
    | _ => rfl
  have hkeep : s.shx.dereg.filter (fun x => s.placing x.1) = [] := by simp [hd, hp]
  have hends : s.shx.dereg.filter (fun x => !s.placing x.1) = [(i, o)] := by simp [hd, hp]
  rw [State.deregEnds, hkeep, hends, hst]
  exact (if_pos (hstands _)).trans (State.shxEnd_cmd o _ _ _ ho)

theorem State.deregEnds_waiting (h : ∀ x ∈ s.shx.dereg, s.placing x.1 = true) : s.deregEnds = s := by
  have hkeep : s.shx.dereg.filter (fun x => s.placing x.1) = s.shx.dereg := List.filter_eq_self.2 h
  have hends : s.shx.dereg.filter (fun x => !s.placing x.1) = [] := List.filter_eq_nil_iff.2 fun x hx => by rw [h x hx]; exact Bool.false_ne_true
  rw [State.deregEnds, hkeep, hends]
  rfl

end

/-! ## The context cache (R393) -/

theorem State.ctxBack_dirty (c : Nat) (x : Conn) (s : State) (hx : s.conn c = some x) (hd : s.shx.dirty.contains c = true) :
    c ∉ (s.ctxBack c).shx.dirty ∧ (s.ctxBack c).conn c = some x := by
  have hshx : (s.ctxBack c).shx = { s.shx with dirty := s.shx.dirty.filter (· != c) } := by
    rw [State.ctxBack, if_pos hd, State.withConn, hx]
    exact congrArg (fun v : Shx => { v with dirty := v.dirty.filter (· != c) })
      ((State.linkOnly_tickFree _).shx.trans (State.linkOnly_dmaWriteBy _ _ _ _ _ _).shx)
  refine ⟨?_, ?_⟩
  · rw [hshx]
    exact fun hm => absurd rfl (bne_iff_ne.1 (List.mem_filter.1 hm).2)
  · rw [State.conn, hshx]
    exact hx

/-- Settles O46: `shxCommand` runs a command from SHX_CMD or from an entry and ends it with its status; what each command does to a
connection or a region is by its state; and the cache writes back and evicts only where it has to. -/
theorem connectionsAndRegions : Obligations.ConnectionsAndRegions :=
  ⟨fun o arg st s t ho h hb hon => by
      have ends {op : Nat} {f : State → Option Nat → List Byte → ShxRes} (hf : f (s.awake o 16) none s.shxArgs = (t, some st)) :
          (s.shxCommand o op f).after = .next ((t.set ShxCmd.adr ShxCmd.busy 0).set ShxCmd.adr ShxCmd.status st).nvSweep :=
        congrArg State.after (s.shxCommand_ends o op st t f ho h hb hon hf)
      have waits {op : Nat} {f : State → Option Nat → List Byte → ShxRes} (hf : f (s.awake o 16) none s.shxArgs = (t, none)) :
          (s.shxCommand o op f).after = .next (t.set ShxCmd.adr ShxCmd.busy 1).nvSweep :=
        congrArg State.after (s.shxCommand_waits o op t f ho h hb hon hf)
      exact ⟨fun hr hf => (execConnSetup_asks o arg s ho hr).trans (waits hf), fun hr hf => (execConnSetup_asks o arg s ho hr).trans (ends hf),
        fun hf => ends hf, fun hf => ends hf, fun hf => waits hf, fun hf => ends hf, fun hf => ends hf, fun hf => ends hf, fun hf => waits hf⟩,
    fun e s h => if_pos h, execConnSetup_in,
    fun k e arg st s t u hon hpf hu he hf => by
      obtain ⟨hcode, -⟩ := s.scEntry_eq_some k 0x40 e he
      have ha : (scArg (s.slicePf k) e).isSome = true := hpf ▸ scArg_connSetup e hcode
      exact congrArg State.after ((s.shxCommand_argIn 0x40 (fun s k e => s.connSetup k e arg) k e u hon he ha hu).trans
        (u.shxEntry_ends st t _ k e ((hu.slicePf k).trans hpf) hf)),
    fun k e st s t hon hpf => ⟨fun he hf => s.shxCommand_slice_ends k 0x41 st e t _ hon hpf (by decide) he hf,
      fun he hf => s.shxCommand_slice_waits k 0x42 e t _ hon hpf (by decide) he hf,
      fun he hf => s.shxCommand_slice_ends k 0x43 st e t _ hon hpf (by decide) he hf,
      fun he hf => s.shxCommand_slice_ends k 0x44 st e t _ hon hpf (by decide) he hf,
      fun he hf => s.shxCommand_slice_ends k 0x45 st e t _ hon hpf (by decide) he hf,
      fun he hf => s.shxCommand_slice_waits k 0x45 e t _ hon hpf (by decide) he hf⟩,
    fun k e arg s hon hpf he => by
      obtain ⟨hcode, -⟩ := s.scEntry_eq_some k 0x40 e he
      have ha : ¬ (scArg (s.slicePf k) e).isSome = true := by rw [scArg_connSetup_other e _ hcode hpf]; exact Bool.false_ne_true
      exact congrArg State.after ((s.shxCommand_direct 0x40 (fun s k e => s.connSetup k e arg) k e hon he ha).trans (if_pos hpf)),
    fun k c e arg s hc hx => s.connSetup_taken k c e arg hc hx,
    fun c e arg s hc hx hk hb => s.connSetup_fresh none c e arg hc 0 hx (if_neg hk) hb,
    fun k c e arg s hc hx hk hb => s.connSetup_fresh (some k) c e arg hc k hx (if_pos hk) hb,
    fun b k => ⟨rfl, rfl, rfl, rfl⟩, fun c e x s hc hx => s.connOpenCmd_opens c e x hc hx, fun c e x s hc hx => s.connOpenCmd_refused c e x hc hx,
    fun o c e x s hc hx => s.connClose_judged c e x hc hx o,
    fun c o x s hx hcl h1 h2 => ⟨execConnCloseEnd_drained x s c o hx hcl h1 h2, s.conn_connFree c x⟩,
    fun k c e s => s.connQuery_free c e k, fun c e x s => s.connQuery_lead c e x,
    fun k i e s hi hv hm h0 hl hk => ⟨_, s.regionRegister_slice i k e hi hv hm h0 hl hk, (s.region_registered i _ _ e i).trans (if_pos rfl),
      fun j hj => (s.region_registered i _ _ e j).trans (if_neg hj), s.conns_registered i _ _ e⟩,
    fun i e s hi hv hm hs => by
      have hreg := (s.region_registered i { valid := true, lead := true, mpi := true, timed := bit (leAt e 12 1) 3, read := bit (leAt e 12 1) 2
                                            write := bit (leAt e 12 1) 1, gen := (s.region i).gen, slice := 0, base := 0, length := 512 } none e i).trans
        (if_pos rfl)
      exact ⟨_, s.regionRegister_mpi i e hi hv hm hs, by rw [hreg], by rw [hreg], by rw [hreg], by rw [hreg]⟩,
    fun o k i e s hi hv => by
      have hvalid : ¬ (!(s.region i).valid) = true := by rw [hv]; exact Bool.false_ne_true
      refine ⟨?_, fun hd hp => ?_, fun hd hp => ?_, s.region_regionDrop i, by rw [s.shx_regionDrop i]⟩
      · unfold State.regionRegister
        dsimp only
        rw [hi]
        exact if_pos hv
      · exact (s.regionDeregister_begins i o k e hi hd).trans ((if_neg hvalid).trans (if_neg (Bool.eq_false_iff.1 hp)))
      · exact (s.regionDeregister_begins i o k e hi hd).trans ((if_neg hvalid).trans (if_pos hp)),
    fun o k i e s hi hd hv => (s.regionDeregister_begins i o k e hi hd).trans (if_pos (by rw [hv]; rfl)),
    fun i st o s ho hd hp hst => s.deregEnds_cmd i st o ho hd hp hst, fun s h => s.deregEnds_waiting h,
    fun c s h => if_neg (Bool.eq_false_iff.1 h), fun c x s => s.ctxBack_dirty c x, fun s h => if_pos h⟩

end Sys2Proof.Machine
end
